-- ==== Sys2Proof/Word.lean ====
section
/-!
DEFINITION. The plainest types and number operations of the model: bytes, words, instruction-bit fields,
and sparse tables with a default entry.
-/

namespace Sys2Proof

abbrev Byte := BitVec 8

/-- The `n`-bit field of the number `w` whose lowest bit is `lo` (R3). -/
def fld (w lo n : Nat) : Nat := w / 2 ^ lo % 2 ^ n

/-- The low `n` bits of an integer, as an unsigned number (`Trunc`, R9). -/
def trunc (x : Int) (n : Nat) : Nat := (x % (2 ^ n : Nat)).toNat

/-- `x`, read as an `n`-bit two's complement value, as an integer (`SExt`, R9). -/
def sext (x n : Nat) : Int :=
  if n = 0 then 0
  else if x % 2 ^ n < 2 ^ (n - 1) then (x % 2 ^ n : Nat) else (x % 2 ^ n : Nat) - (2 ^ n : Nat)

/-- `x`, read as an `n`-bit unsigned value (`ZExt`, R9). -/
def zext (x n : Nat) : Int := (x % 2 ^ n : Nat)

/-- The quotient rounded up. -/
def ceilDiv (a b : Nat) : Nat := (a + b - 1) / b

/-- The least `k` with `n ≤ 2 ^ k`. -/
def clog2 (n : Nat) : Nat := if n ≤ 1 then 0 else Nat.log2 (n - 1) + 1

def b2n (b : Bool) : Nat := if b then 1 else 0

/-- A table from numbers to entries, in rising order of the keys that have been written. -/
abbrev Tbl (α : Type) := List (Nat × α)

/-- The entry at `k`, or the default `d` where none has been written. -/
def Tbl.get {α : Type} (d : α) : Tbl α → Nat → α
  | [], _ => d
  | (k', v) :: r, k => if k' = k then v else Tbl.get d r k

/-- The table with the entry at `k` replaced. -/
def Tbl.set {α : Type} : Tbl α → Nat → α → Tbl α
  | [], k, v => [(k, v)]
  | (k', v') :: r, k, v =>
    if k' = k then (k, v) :: r
    else if k < k' then (k, v) :: (k', v') :: r
    else (k', v') :: Tbl.set r k v

/-- The table with the entry at `k` removed (read as the default again). -/
def Tbl.del {α : Type} (t : Tbl α) (k : Nat) : Tbl α := t.filter (fun e => e.1 != k)

@[simp] theorem Tbl.get_set_same {α : Type} (d : α) (t : Tbl α) (k : Nat) (v : α) :
    Tbl.get d (Tbl.set t k v) k = v := by
  induction t with
  | nil => simp [Tbl.set, Tbl.get]
  | cons e r ih =>
    obtain ⟨k', v'⟩ := e
    unfold Tbl.set
    split
    · simp [Tbl.get]
    · split
      · simp [Tbl.get]
      · simp_all [Tbl.get]

@[simp] theorem Tbl.set_set {α : Type} (t : Tbl α) (k : Nat) (v w : α) : Tbl.set (Tbl.set t k v) k w = Tbl.set t k w := by
  induction t with
  | nil => simp [Tbl.set]
  | cons e r ih =>
    obtain ⟨j, x⟩ := e
    by_cases h : j = k
    · simp [Tbl.set, h]
    · by_cases h2 : k < j
      · simp [Tbl.set, h, h2]
      · simp [Tbl.set, h, h2, ih]

@[simp] theorem Tbl.get_set_ne {α : Type} (d : α) (t : Tbl α) {k k' : Nat} (v : α) (h : k' ≠ k) :
    Tbl.get d (Tbl.set t k v) k' = Tbl.get d t k' := by
  induction t with
  | nil => simp [Tbl.set, Tbl.get, h.symm]
  | cons e r ih =>
    obtain ⟨j, v'⟩ := e
    unfold Tbl.set
    split
    · rename_i hj
      subst hj
      simp [Tbl.get, h.symm]
    · split
      · simp [Tbl.get, h.symm]
      · simp [Tbl.get, ih]

end Sys2Proof
end

