-- ==== Sys2Proof/Config.lean ====
section
/-!
DEFINITION. What the spec leaves to the implementation or leaves open: free values, which nothing in Lean can
evaluate, and the few constants of the part.
-/

namespace Sys2Proof

/-- A free value: the outcome of something physical, applied to a counter of the state (log 8). -/
opaque Config.freeNat : Nat → Nat

/-- A free delay in tc of an engine's memory read beyond its figure of R225, which contention may lengthen (log 4). -/
opaque Config.freeDelay : Nat → Nat

/-- The nanoseconds that device time gains in a tile cycle, before slewing (R369, log 5). -/
opaque Config.freeNs : Nat → Nat

/-- The tc, to be taken modulo 61, that a tile takes from a live record's request to the choice of its victim (R357, log 4). -/
opaque Config.preemptDelay : Nat → Nat

/-- What an entry of a page-table node on another device holds, by the network cycle and the address (log 28). -/
opaque Config.freeNode : Nat → Nat → Nat

/-- An attestation quote, its length and its bytes: by the leaf, the nonce, the firmware's digest, `ptroot` and `duty` (R370, log 8). -/
opaque Config.freeQuote : Nat → Nat → Nat → Nat → Nat → Nat × Nat

/-- The number of tiles of the device (R13). -/
def Config.tiles : Nat := 1024

/-- The highest die offset plus 1: 144 GB (R210). -/
def Config.dieBytes : Nat := 0x218711a000

end Sys2Proof
end

