-- ==== Sys2Proof/Syntax.lean ====
section
/-!
DEFINITION. The syntax of the machine's steps: operand kinds (R31), the fields of the formats (R36 to R41)
and `Instr`, with one constructor for each row of spec/opcode_table.json: the instructions of the opcode map
(R43) first, then the device's own events, which have no encoding.
-/

namespace Sys2Proof

/-- The header fields an instruction carries besides its opcode and length (R23). -/
structure Hdr where
  y : Bool
  stall : BitVec 3
  deriving DecidableEq, Repr

/-- A slice-kind operand (R31): the zero operand `nz` (R32), or a start slice and a width minus 1. -/
inductive SliceOp where
  | nz
  | sl (start : BitVec 12) (wm1 : BitVec 4)
  deriving DecidableEq, Repr

/-- The width in slices; `nz` counts as 16, the width R65 gives a destination `nz`. For a source read at its own width (R76) that is the model's
choice: `clz` and `ctz` of `nz` give 64 (log 25). -/
def SliceOp.width : SliceOp → Nat
  | .nz => 16
  | .sl _ w => w.toNat + 1

def SliceOp.isNz : SliceOp → Bool
  | .nz => true
  | .sl _ _ => false

/-- Whether the operand may stand where an entry demands `n` slices: `nz` always may (R32). -/
def SliceOp.fits (o : SliceOp) (n : Nat) : Bool := o.isNz || o.width == n

/-- An operand whose kind bit chooses a slice operand or a view operand (R31, R38). -/
inductive ElemOp where
  | slice (o : SliceOp)
  | view (v : BitVec 4) (off : BitVec 12)
  deriving DecidableEq, Repr

/-- An operand of `nest`: a view or a pool base divided by 16 (R31, R41). -/
inductive NestOp where
  | view (v : BitVec 4) (off : BitVec 12)
  | pool (base : BitVec 16)
  deriving DecidableEq, Repr

/-- Element class (R38). -/
inductive Cls where
  | int | f32 | bf16
  deriving DecidableEq, Repr

/-- Rounding mode (R38, R106). -/
inductive Rm where
  | rne | rtz | rup | rdn
  deriving DecidableEq, Repr

/-- Mask mode (R38). -/
inductive MMode where
  | none | merge | zero
  deriving DecidableEq, Repr

/-- Ordering scope (R39, R260). -/
inductive Scope where
  | tile | device | system
  deriving DecidableEq, Repr

/-- Page-kind override of an access (R39). -/
inductive KindOv where
  | page | strict | release | free
  deriving DecidableEq, Repr

/-- Cache hint (R39). -/
inductive Hint where
  | normal | streaming | keep
  deriving DecidableEq, Repr

structure R2 where
  d : SliceOp
  a : SliceOp
  deriving DecidableEq, Repr

structure R3 where
  d : SliceOp
  a : SliceOp
  b : SliceOp
  deriving DecidableEq, Repr

structure R4 where
  d : SliceOp
  a : SliceOp
  b : SliceOp
  c : SliceOp
  deriving DecidableEq, Repr

/-- The control fields of F96L (R38). -/
structure LaneCtl where
  aux8 : BitVec 8
  subfn : BitVec 5
  signed : Bool
  sat : Bool
  iwidth : BitVec 4
  cls : Cls
  rm : Rm
  mmode : MMode
  mask : BitVec 3
  deriving DecidableEq, Repr

/-- The fields of an F96L instruction (R38). -/
structure L3 where
  d : ElemOp
  a : ElemOp
  b : ElemOp
  c : LaneCtl
  deriving DecidableEq, Repr

/-- The fields of an F96L compare, whose destination is a mask (R136, R140). -/
structure LM where
  dm : BitVec 3
  a : ElemOp
  b : ElemOp
  c : LaneCtl
  deriving DecidableEq, Repr

/-- The fields of F128M (R39). -/
structure MemF where
  d : ElemOp
  a : SliceOp
  x : SliceOp
  off : BitVec 32
  size : BitVec 3
  scope : Scope
  kind : KindOv
  hint : Hint
  afn : BitVec 4
  asigned : Bool
  c : SliceOp
  deriving DecidableEq, Repr

/-- The access size in bytes (R39). -/
def MemF.nb (o : MemF) : Nat := 2 ^ o.size.toNat

/-- The fields of F256N (R41). `b` is none where the operation has no second source (R149). -/
structure NestF where
  d : NestOp
  a : NestOp
  b : Option NestOp
  extents : BitVec 50
  strides : BitVec 120
  iwidth : BitVec 4
  cls : Cls
  rm : Rm
  sat : Bool
  signed : Bool
  mmode : MMode
  mask : BitVec 3
  deriving DecidableEq, Repr

/-- Extent of level `l` (R41). -/
def NestF.extent (o : NestF) (l : Nat) : Nat := fld o.extents.toNat (10 * l) 10 + 1

/-- Signed element stride of operand `p` (D 0, A 1, B 2) at level `l` (R41). -/
def NestF.stride (o : NestF) (p l : Nat) : Int := sext (fld o.strides.toNat (8 * (5 * p + l)) 8) 8

/-- The fields of `wsig` (R232). -/
structure WsigF where
  d : SliceOp
  a : SliceOp
  b : SliceOp
  c : SliceOp
  size : BitVec 3
  f8 : Bool
  fn : BitVec 4
  scope : Scope
  deriving DecidableEq, Repr

/-- The fields of `cpy` and `cpy.cmp` (R240). -/
structure CpyF where
  a : SliceOp
  b : SliceOp
  c : SliceOp
  ch : BitVec 3
  tpl : BitVec 6
  deriving DecidableEq, Repr

/-- What `vwset` writes (R79): the immediate form's value but for its two reserved bits, or a register. -/
inductive ViewSrc where
  | imm (val : BitVec 62)
  | reg (a : SliceOp)
  deriving DecidableEq, Repr

/-- One step of the machine: an instruction of the opcode map with its operands, or an event of the device.
An event has no operands: the place it happens at (a tile, a stop, a slot, a die, a chain), the number of what it
concerns and a host's data stand in the state's `focus`. -/
inductive Instr where
  /-- R73: add.z -/
  | addZ (h : Hdr) (o : R3)
  /-- R73: add.s -/
  | addS (h : Hdr) (o : R3)
  /-- R73: dif.z -/
  | difZ (h : Hdr) (o : R3)
  /-- R73: dif.s -/
  | difS (h : Hdr) (o : R3)
  /-- R73: addi.z -/
  | addiZ (h : Hdr) (o : R2) (imm : BitVec 32)
  /-- R73: addi.s -/
  | addiS (h : Hdr) (o : R2) (imm : BitVec 32)
  /-- R73: mul.z -/
  | mulZ (h : Hdr) (o : R3)
  /-- R73: mul.s -/
  | mulS (h : Hdr) (o : R3)
  /-- R73: mulh.z -/
  | mulhZ (h : Hdr) (o : R3)
  /-- R73: mulh.s -/
  | mulhS (h : Hdr) (o : R3)
  /-- R73: div.z -/
  | divZ (h : Hdr) (o : R3)
  /-- R73: div.s -/
  | divS (h : Hdr) (o : R3)
  /-- R73: rem.z -/
  | remZ (h : Hdr) (o : R3)
  /-- R73: rem.s -/
  | remS (h : Hdr) (o : R3)
  /-- R73: min.z -/
  | minZ (h : Hdr) (o : R3)
  /-- R73: min.s -/
  | minS (h : Hdr) (o : R3)
  /-- R73: max.z -/
  | maxZ (h : Hdr) (o : R3)
  /-- R73: max.s -/
  | maxS (h : Hdr) (o : R3)
  /-- R73: abs.s -/
  | absS (h : Hdr) (o : R2)
  /-- R73: neg.s -/
  | negS (h : Hdr) (o : R2)
  /-- R139: vadd -/
  | vadd (h : Hdr) (o : L3)
  /-- R139: vdif -/
  | vdif (h : Hdr) (o : L3)
  /-- R139: vmul -/
  | vmul (h : Hdr) (o : L3)
  /-- R139: vmulh -/
  | vmulh (h : Hdr) (o : L3)
  /-- R139: vmin -/
  | vmin (h : Hdr) (o : L3)
  /-- R139: vmax -/
  | vmax (h : Hdr) (o : L3)
  /-- R139: vabs -/
  | vabs (h : Hdr) (o : L3)
  /-- R139: vneg -/
  | vneg (h : Hdr) (o : L3)
  /-- R75: and -/
  | and (h : Hdr) (o : R3)
  /-- R75: or -/
  | or (h : Hdr) (o : R3)
  /-- R75: xor -/
  | xor (h : Hdr) (o : R3)
  /-- R75: andn -/
  | andn (h : Hdr) (o : R3)
  /-- R75: not -/
  | not (h : Hdr) (o : R2)
  /-- R75: andi -/
  | andi (h : Hdr) (o : R2) (imm : BitVec 16)
  /-- R75: ori -/
  | ori (h : Hdr) (o : R2) (imm : BitVec 16)
  /-- R75: xori -/
  | xori (h : Hdr) (o : R2) (imm : BitVec 16)
  /-- R75: shl -/
  | shl (h : Hdr) (o : R3)
  /-- R75: shr -/
  | shr (h : Hdr) (o : R3)
  /-- R75: sar -/
  | sar (h : Hdr) (o : R3)
  /-- R75: rol -/
  | rol (h : Hdr) (o : R3)
  /-- R75: shli -/
  | shli (h : Hdr) (o : R2) (n : BitVec 6)
  /-- R75: shri -/
  | shri (h : Hdr) (o : R2) (n : BitVec 6)
  /-- R75: sari -/
  | sari (h : Hdr) (o : R2) (n : BitVec 6)
  /-- R76: bfx.z -/
  | bfxZ (h : Hdr) (o : R2) (lsb len : BitVec 6)
  /-- R76: bfx.s -/
  | bfxS (h : Hdr) (o : R2) (lsb len : BitVec 6)
  /-- R76: bfi -/
  | bfi (h : Hdr) (o : R2) (lsb len : BitVec 6)
  /-- R76: popc -/
  | popc (h : Hdr) (o : R2)
  /-- R76: clz -/
  | clz (h : Hdr) (o : R2)
  /-- R76: ctz -/
  | ctz (h : Hdr) (o : R2)
  /-- R76: brev -/
  | brev (h : Hdr) (o : R2)
  /-- R139: vand -/
  | vand (h : Hdr) (o : L3)
  /-- R139: vor -/
  | vor (h : Hdr) (o : L3)
  /-- R139: vxor -/
  | vxor (h : Hdr) (o : L3)
  /-- R139: vnot -/
  | vnot (h : Hdr) (o : L3)
  /-- R139: vshl -/
  | vshl (h : Hdr) (o : L3)
  /-- R139: vshr -/
  | vshr (h : Hdr) (o : L3)
  /-- R139: vsar -/
  | vsar (h : Hdr) (o : L3)
  /-- R139: vpopc -/
  | vpopc (h : Hdr) (o : L3)
  /-- R77: cmp.eq -/
  | cmpEq (h : Hdr) (o : R3)
  /-- R77: cmp.ne -/
  | cmpNe (h : Hdr) (o : R3)
  /-- R77: cmp.lt.s -/
  | cmpLtS (h : Hdr) (o : R3)
  /-- R77: cmp.lt.z -/
  | cmpLtZ (h : Hdr) (o : R3)
  /-- R77: cmp.le.s -/
  | cmpLeS (h : Hdr) (o : R3)
  /-- R77: cmp.le.z -/
  | cmpLeZ (h : Hdr) (o : R3)
  /-- R77: cmpi.eq -/
  | cmpiEq (h : Hdr) (o : R2) (imm : BitVec 16)
  /-- R77: cmpi.lt.s -/
  | cmpiLtS (h : Hdr) (o : R2) (imm : BitVec 16)
  /-- R77: cmpi.lt.z -/
  | cmpiLtZ (h : Hdr) (o : R2) (imm : BitVec 16)
  /-- R78: sel -/
  | sel (h : Hdr) (o : R4)
  /-- R78: mov.z -/
  | movZ (h : Hdr) (o : R2)
  /-- R78: mov.s -/
  | movS (h : Hdr) (o : R2)
  /-- R78: movi -/
  | movi (h : Hdr) (d : SliceOp) (imm : BitVec 32)
  /-- R78: movih -/
  | movih (h : Hdr) (d : SliceOp) (imm : BitVec 32)
  /-- R79: vwset -/
  | vwset (h : Hdr) (v : BitVec 4) (src : ViewSrc)
  /-- R80: vwrd -/
  | vwrd (h : Hdr) (d : SliceOp) (v : BitVec 4)
  /-- R140: vcmp -/
  | vcmp (h : Hdr) (o : LM)
  /-- R140: vsel -/
  | vsel (h : Hdr) (o : L3)
  /-- R140: vmov -/
  | vmov (h : Hdr) (o : L3)
  /-- R135: fadd -/
  | fadd (h : Hdr) (o : L3)
  /-- R135: fsub -/
  | fsub (h : Hdr) (o : L3)
  /-- R135: fmul -/
  | fmul (h : Hdr) (o : L3)
  /-- R135: ffma -/
  | ffma (h : Hdr) (o : L3)
  /-- R135: fmin -/
  | fmin (h : Hdr) (o : L3)
  /-- R135: fmax -/
  | fmax (h : Hdr) (o : L3)
  /-- R136: fcmp -/
  | fcmp (h : Hdr) (o : LM)
  /-- R137: fdiv -/
  | fdiv (h : Hdr) (o : L3)
  /-- R137: fsqrt -/
  | fsqrt (h : Hdr) (o : L3)
  /-- R138: fexp2.t -/
  | fexp2T (h : Hdr) (o : L3)
  /-- R135: fabs -/
  | fabs (h : Hdr) (o : L3)
  /-- R135: fneg -/
  | fneg (h : Hdr) (o : L3)
  /-- R141: vperm -/
  | vperm (h : Hdr) (o : L3)
  /-- R141: vbcast -/
  | vbcast (h : Hdr) (o : L3)
  /-- R142: vred -/
  | vred (h : Hdr) (o : L3)
  /-- R143: vscan -/
  | vscan (h : Hdr) (o : L3)
  /-- R144: vcmpr -/
  | vcmpr (h : Hdr) (o : L3)
  /-- R144: vexpd -/
  | vexpd (h : Hdr) (o : L3)
  /-- R145: mand -/
  | mand (h : Hdr) (d a b : BitVec 3)
  /-- R145: mor -/
  | mor (h : Hdr) (d a b : BitVec 3)
  /-- R145: mxor -/
  | mxor (h : Hdr) (d a b : BitVec 3)
  /-- R145: mnot -/
  | mnot (h : Hdr) (d a : BitVec 3)
  /-- R145: mset -/
  | mset (h : Hdr) (d : BitVec 3) (count : BitVec 9)
  /-- R145: mtest.any -/
  | mtestAny (h : Hdr) (d : SliceOp) (a : BitVec 3)
  /-- R145: mtest.all -/
  | mtestAll (h : Hdr) (d : SliceOp) (a : BitVec 3)
  /-- R145: mpopc -/
  | mpopc (h : Hdr) (d : SliceOp) (a : BitVec 3)
  /-- R145: mfirst -/
  | mfirst (h : Hdr) (d : SliceOp) (a : BitVec 3)
  /-- R146: fcvt.bf -/
  | fcvtBf (h : Hdr) (o : L3)
  /-- R146: fcvt.f -/
  | fcvtF (h : Hdr) (o : L3)
  /-- R146: icvt.f -/
  | icvtF (h : Hdr) (o : L3)
  /-- R146: fcvt.i -/
  | fcvtI (h : Hdr) (o : L3)
  /-- R147: qnt -/
  | qnt (h : Hdr) (o : L3)
  /-- R147: dqnt -/
  | dqnt (h : Hdr) (o : L3)
  /-- R148: bpack -/
  | bpack (h : Hdr) (o : L3)
  /-- R148: bunpk -/
  | bunpk (h : Hdr) (o : L3)
  /-- R44: nop -/
  | nop (h : Hdr)
  /-- R44: nop.w -/
  | nopW (h : Hdr)
  /-- R94: br -/
  | br (h : Hdr) (imm : BitVec 32)
  /-- R94: bz -/
  | bz (h : Hdr) (a : SliceOp) (imm : BitVec 32)
  /-- R94: bnz -/
  | bnz (h : Hdr) (a : SliceOp) (imm : BitVec 32)
  /-- R94: bmany -/
  | bmany (h : Hdr) (m : BitVec 3) (imm : BitVec 32)
  /-- R94: bmnone -/
  | bmnone (h : Hdr) (m : BitVec 3) (imm : BitVec 32)
  /-- R94: call -/
  | call (h : Hdr) (d : SliceOp) (imm : BitVec 32)
  /-- R95: ret -/
  | ret (h : Hdr) (a : SliceOp)
  /-- R95: brx -/
  | brx (h : Hdr) (a b : SliceOp)
  /-- R94: loop -/
  | loop (h : Hdr) (d : SliceOp) (imm : BitVec 32)
  /-- R97: exit -/
  | exit (h : Hdr)
  /-- R98: casc -/
  | casc (h : Hdr) (o : R2) (n : BitVec 4) (dir : BitVec 2)
  /-- R101: cascx -/
  | cascx (h : Hdr)
  /-- R101: cascx.stop -/
  | cascxStop (h : Hdr)
  /-- R100: cdis -/
  | cdis (h : Hdr) (d : SliceOp)
  /-- R226: ld.z -/
  | ldZ (h : Hdr) (o : MemF)
  /-- R226: ld.s -/
  | ldS (h : Hdr) (o : MemF)
  /-- R226: st -/
  | st (h : Hdr) (o : MemF)
  /-- R226: ld.acq.z -/
  | ldAcqZ (h : Hdr) (o : MemF)
  /-- R226: ld.acq.s -/
  | ldAcqS (h : Hdr) (o : MemF)
  /-- R226: st.rel -/
  | stRel (h : Hdr) (o : MemF)
  /-- R230: pref -/
  | pref (h : Hdr) (o : MemF)
  /-- R231: stash.map -/
  | stashMap (h : Hdr) (o : R3) (e : BitVec 3)
  /-- R231: stash.flush -/
  | stashFlush (h : Hdr) (o : R3)
  /-- R231: stash.evict -/
  | stashEvict (h : Hdr) (o : R3)
  /-- R81: spill -/
  | spill (h : Hdr) (o : MemF)
  /-- R81: fill -/
  | fill (h : Hdr) (o : MemF)
  /-- R228: amo -/
  | amo (h : Hdr) (o : MemF)
  /-- R228: amo.ar -/
  | amoAr (h : Hdr) (o : MemF)
  /-- R229: amo.agg -/
  | amoAgg (h : Hdr) (o : MemF)
  /-- R270: fence -/
  | fence (h : Hdr) (sc : Scope)
  /-- R270: fence.all -/
  | fenceAll (h : Hdr) (sc : Scope)
  /-- R232: wsig -/
  | wsig (h : Hdr) (o : WsigF)
  /-- R233: pinwait -/
  | pinwait (h : Hdr) (o : R3)
  /-- R238: ctpl -/
  | ctpl (h : Hdr) (o : R2) (t : BitVec 6)
  /-- R240: cpy -/
  | cpy (h : Hdr) (o : CpyF)
  /-- R240: cpy.cmp -/
  | cpyCmp (h : Hdr) (o : CpyF) (m : BitVec 3)
  /-- R252: cres -/
  | cres (h : Hdr) (d : SliceOp) (ch : BitVec 3)
  /-- R252: cabt -/
  | cabt (h : Hdr) (d : SliceOp) (ch : BitVec 3)
  /-- R252: cstat -/
  | cstat (h : Hdr) (d : SliceOp) (ch : BitVec 3)
  /-- R252: cstat.clr -/
  | cstatClr (h : Hdr) (d : SliceOp) (ch : BitVec 3)
  /-- R257: sub -/
  | sub (h : Hdr) (o : R2) (tag : BitVec 12) (ch : BitVec 3)
  /-- R257: unsub -/
  | unsub (h : Hdr) (d : SliceOp) (tag : BitVec 12)
  /-- R258: mcrd -/
  | mcrd (h : Hdr) (o : R3) (tag : BitVec 12) (lines : BitVec 6)
  /-- R160: bdef -/
  | bdef (h : Hdr) (o : R2)
  /-- R161: bfree -/
  | bfree (h : Hdr) (o : R2)
  /-- R175: pdef -/
  | pdef (h : Hdr) (o : R3)
  /-- R176: pdel -/
  | pdel (h : Hdr) (d : SliceOp) (ix : BitVec 5)
  /-- R176: pen -/
  | pen (h : Hdr) (d : SliceOp) (ix : BitVec 5)
  /-- R176: pdis -/
  | pdis (h : Hdr) (d : SliceOp) (ix : BitVec 5)
  /-- R166: send -/
  | send (h : Hdr) (o : R2) (size : BitVec 2)
  /-- R166: send.rel -/
  | sendRel (h : Hdr) (o : R2) (size : BitVec 2) (sc : Scope)
  /-- R166: send.rel.all -/
  | sendRelAll (h : Hdr) (o : R2) (size : BitVec 2) (sc : Scope)
  /-- R166: sendc -/
  | sendc (h : Hdr) (o : R2)
  /-- R166: arm -/
  | arm (h : Hdr) (o : R2)
  /-- R181: bstat -/
  | bstat (h : Hdr) (o : R2)
  /-- R185: fork -/
  | fork (h : Hdr) (o : R4) (ctl : BitVec 16) (imm : BitVec 32)
  /-- R186: rnext -/
  | rnext (h : Hdr) (o : R2)
  /-- R196: cancel -/
  | cancel (h : Hdr) (o : R2) (imm : BitVec 16)
  /-- R196: cancel.clr -/
  | cancelClr (h : Hdr) (o : R2) (imm : BitVec 16)
  /-- R197: husked -/
  | husked (h : Hdr) (o : R2)
  /-- R202: gang -/
  | gang (h : Hdr) (o : R2)
  /-- R204: gang.end -/
  | gangEnd (h : Hdr) (d : SliceOp)
  /-- R200: prio -/
  | prio (h : Hdr) (d : SliceOp) (lvl : BitVec 3)
  /-- R305: tdef -/
  | tdef (h : Hdr) (o : R2) (id : BitVec 8)
  /-- R308: mx -/
  | mx (h : Hdr) (a : ElemOp)
  /-- R325: mxq, fn 0 -/
  | mxqStatus (h : Hdr) (d : SliceOp)
  /-- R325: mxq, fn 1 -/
  | mxqResume (h : Hdr) (d : SliceOp)
  /-- R325: mxq, fn 2 -/
  | mxqAbort (h : Hdr) (d : SliceOp)
  /-- R319: addw -/
  | addw (h : Hdr) (o : R4) (kind : BitVec 2) (signed : Bool) (k : BitVec 9)
  /-- R320: crd -/
  | crd (h : Hdr) (o : R3) (bf : Bool)
  /-- R320: cclr -/
  | cclr (h : Hdr) (o : R2) (nm1 : BitVec 8)
  /-- R315: actl -/
  | actl (h : Hdr) (o : R2) (t : BitVec 4)
  /-- R303: capk -/
  | capk (h : Hdr) (a : SliceOp) (imm : BitVec 32)
  /-- R344: xgo -/
  | xgo (h : Hdr) (o : R2) (chain : Bool)
  /-- R343: xsnap -/
  | xsnap (h : Hdr) (o : R2) (chain : Bool)
  /-- R337: xrepl -/
  | xrepl (h : Hdr) (o : R3) (chain : Bool)
  /-- R332: mrg.join -/
  | mrgJoin (h : Hdr) (o : R2) (tag : BitVec 12) (x chain : Bool)
  /-- R332: mrg.put -/
  | mrgPut (h : Hdr) (o : R2) (tag : BitVec 12)
  /-- R332: mrg.leave -/
  | mrgLeave (h : Hdr) (d : SliceOp) (tag : BitVec 12)
  /-- R350: trap -/
  | trap (h : Hdr) (a : SliceOp) (code : BitVec 16)
  /-- R351: resume -/
  | resume (h : Hdr) (o : R3)
  /-- R351: kill -/
  | kill (h : Hdr) (o : R2)
  /-- R352: csrr -/
  | csrr (h : Hdr) (d : SliceOp) (reg : BitVec 12)
  /-- R352: csrw to a register with no row of its own -/
  | csrw (h : Hdr) (a : SliceOp) (reg : BitVec 12)
  /-- R164: csrw to ringrty -/
  | ringrtyWrite (h : Hdr) (a : SliceOp)
  /-- R353: csrw to savectl -/
  | savectlWrite (h : Hdr) (a : SliceOp)
  /-- R184: csrw to dqspill -/
  | dqspillWrite (h : Hdr) (a : SliceOp)
  /-- R360: tlbinv -/
  | tlbinv (h : Hdr) (o : R3) (sc : BitVec 2)
  /-- R360: waymask -/
  | waymask (h : Hdr) (o : R2) (m : BitVec 16)
  /-- R360: selftest -/
  | selftest (h : Hdr) (o : R2) (kind : BitVec 3)
  /-- R150: nest.mov -/
  | nestMov (h : Hdr) (o : NestF)
  /-- R150: nest.add -/
  | nestAdd (h : Hdr) (o : NestF)
  /-- R150: nest.sub -/
  | nestSub (h : Hdr) (o : NestF)
  /-- R150: nest.mul -/
  | nestMul (h : Hdr) (o : NestF)
  /-- R150: nest.min -/
  | nestMin (h : Hdr) (o : NestF)
  /-- R150: nest.max -/
  | nestMax (h : Hdr) (o : NestF)
  /-- R150: nest.macc -/
  | nestMacc (h : Hdr) (o : NestF)
  /-- R150: nest.rsum -/
  | nestRsum (h : Hdr) (o : NestF)
  /-- R150: nest.rmax -/
  | nestRmax (h : Hdr) (o : NestF)
  /-- R150: nest.rmin -/
  | nestRmin (h : Hdr) (o : NestF)
  /-- R151: One beat of a nest starts, waiting for guarded pool reads or earlier writes. -/
  | nestBeat
  /-- R132: A beat of a multi-beat lane instruction writes its results. -/
  | laneBeatWrite
  /-- R92: A fixed-latency result is written into the frame L tc after issue. -/
  | resultWriteback
  /-- R225: A load, fill beat or atomic value returns and is written into the frame. -/
  | loadReturn
  /-- R29: An instruction line arrives after a miss and the jet becomes a candidate. -/
  | icacheFill
  /-- R99: A cascade follower issues a forwarded instruction. -/
  | forwardedIssue
  /-- R98: The cascade frame copy completes and the status is written. -/
  | cascFormed
  /-- R87: Each tc with a free slot, one ready record is made resident. -/
  | residency
  /-- R199: A waiting ready record rises one level when its age interval expires. -/
  | priorityAgeing
  /-- R355: A live record chooses and halts a victim jet for saving. -/
  | livePreempt
  /-- R385: The victim's frame save completes and its slot and granules are freed. -/
  | contextSaved
  /-- R355: An owed load returns into a saved context record. -/
  | owedReturnSaved
  /-- R358: A saved context becomes resident again and its record is read back. -/
  | contextRestore
  /-- R326: The matrix run parks at the end of its pass on a pre-emption. -/
  | matrixPark
  /-- R326: A parked run resumes at its next pass. -/
  | parkedRunResume
  /-- R169: An arriving send is resequenced, checked and placed at the home weir. -/
  | sendAccept
  /-- R169: A retried arrival is resent by the source network interface. -/
  | sendRetry
  /-- R171: An outbound buffer entry is released into the network. -/
  | sendRelease
  /-- R171: A send acknowledgement returns and frees its outbound entry. -/
  | sendAck
  /-- R178: A basin is examined when a message becomes matchable or a count changes. -/
  | basinExamine
  /-- R164: A spill-ring read returns and the message joins the basin's slots. -/
  | ringRefillReturn
  /-- R183: The owner takes a deque task and it becomes a resident jet. -/
  | dequeTake
  /-- R189: A thirsty tile sends thirst messages to victims. -/
  | thirstRound
  /-- R189: The backoff after a refused round expires. -/
  | thirstBackoffExpiry
  /-- R190: A victim answers a thirst message with a task, split, or refusal. -/
  | thirstArrival
  /-- R189: A steal answer arrives at the thief. -/
  | stealAnswer
  /-- R192: A +1 or -1 arrives at a tracker. -/
  | trackerChange
  /-- R193: The dispatcher handles the oldest record of a launch queue. -/
  | launchDispatch
  /-- R194: A cancel request reaches the husk master and is copied out. -/
  | huskRequest
  /-- R196: Every set and table holds the change and the status is written. -/
  | huskCopyDone
  /-- R206: The agent checks the time-triggered table each 128 ns and launches or applies the overrun rule. -/
  | ttSlot
  /-- R206: A dispatcher reports a table launch's completion to the agent. -/
  | ttCompletionReport
  /-- R216: A write-combining entry drains on its 16 tc timer or another cause. -/
  | wcDrain
  /-- R261: A home acknowledges a write, performing it at device scope. -/
  | writeAck
  /-- R270: A fence completes once covered accesses are performed. -/
  | fenceComplete
  /-- R213: A page walk finishes and fills the TLB or faults. -/
  | tlbWalkDone
  /-- R221: A request arrives at an L2 slice and hits or takes a miss entry. -/
  | l2Request
  /-- R221: A line arrives from HBM into a miss entry. -/
  | l2Fill
  /-- R218: An owning tile performs a remote pool access. -/
  | remotePoolAccess
  /-- R361: An ECC, CRC or residue error is detected and starts a self-test. -/
  | eccError
  /-- R361: A self-test completes, fencing or clearing a unit. -/
  | selftestDone
  /-- R234: An invalidation completes and writes its status. -/
  | tlbinvComplete
  /-- R233: No pin remains on the range and the status is written. -/
  | pinwaitDone
  /-- R254: A pending way removal takes effect after its channels retire. -/
  | wayRemoval
  /-- R241: The copy engine accepts a head command and checks it. -/
  | copyAccept
  /-- R242: The engine issues one source read per tc. -/
  | copySourceRead
  /-- R242: Copy source data returns to the reorder buffer. -/
  | copyReadReturn
  /-- R243: A landing write advances a channel's watermark and may release guarded accesses. -/
  | landingWrite
  /-- R248: A remote guard entry frees and a waiting copy registers its window. -/
  | guardEntryFree
  /-- R255: A multicast join or leave arrives at a router and updates counts. -/
  | mcJoinArrival
  /-- R257: The join acknowledgement returns to the subscriber. -/
  | mcJoinAck
  /-- R258: A stream request arrives at the home slice, starting or merging a stream. -/
  | mcStreamRequest
  /-- R258: The home slice sends one selected line. -/
  | mcStreamLineSend
  /-- R292: A router copies a stream packet to each port with subscribers. -/
  | mcReplicate
  /-- R294: A stream copy waiting thresh nc is dropped. -/
  | mcCopyDrop
  /-- R259: A subscriber's interface lands a stream or catch-up line. -/
  | mcLineLand
  /-- R381: The interface issues a catch-up read for a missed line. -/
  | mcCatchupRead
  /-- R294: No stream packet for 2*thresh nc triggers catch-up reads. -/
  | mcStreamIdle
  /-- R283: Each nc a router chooses outputs for head packets. -/
  | routerForward
  /-- R284: An input timer reaches thresh and raises the stop's request. -/
  | inputTimerExpiry
  /-- R285: The acorn moves one stop per nc around the ring. -/
  | acornMove
  /-- R286: A requesting stop captures the acorn and moves a packet to the overflow lane. -/
  | acornCapture
  /-- R286: A drained packet enters the endpoint's reserved buffer and the acorn is freed. -/
  | overflowDelivery
  /-- R287: Each millisecond with drains the die journals its drain count. -/
  | drainRecord
  /-- R288: Routers report link busy fractions every 256 nc. -/
  | governorReport
  /-- R288: A subnet is powered up and becomes eligible. -/
  | subnetEnable
  /-- R288: A draining subnet empties and is power-gated. -/
  | subnetDisable
  /-- R279: A CRC failure causes a flit to be resent. -/
  | linkRetry
  /-- R280: A packet with reserved values is removed and journaled. -/
  | malformedPacket
  /-- R290: A Lauc port takes a packet from the link. -/
  | laucInbound
  /-- R290: A credit returns and the outbound side may send. -/
  | laucCredit
  /-- R296: A merge partial arrives and is merged, forwarding when the fan-in is reached. -/
  | mergePartial
  /-- R295: A tree join arrives at a router and updates fan-in. -/
  | mergeJoinArrival
  /-- R307: The matrix engine accepts and checks a head command. -/
  | matrixAccept
  /-- R310: One plane pair over one K chunk runs on the array. -/
  | matrixStep
  /-- R312: A receiver whose stream has not begun in 4096 tc retires with status 3. -/
  | systolicWaitTimeout
  /-- R321: The engine sends outlier values to the precision basin. -/
  | precisionMessage
  /-- R313: The fused chain finishes an output row and lands it. -/
  | chainOutput
  /-- R318: A run deposits one output exactly into a cistern. -/
  | cisternDeposit
  /-- R317: A run sends its completion message. -/
  | matrixCompletion
  /-- R324: A faulting access freezes the run and reports it. -/
  | matrixFreeze
  /-- R327: The stint interval or a residue error starts the array self-test. -/
  | matrixSelftest
  /-- R319: A queued cistern update is applied at the owning tile. -/
  | addwUpdate
  /-- R330: A chain reads its next layer block at the start of route. -/
  | chainBlockRead
  /-- R333: A merged list enters the chain's gate queue. -/
  | gateListArrival
  /-- R334: The route engine routes one token's gate list. -/
  | routeToken
  /-- R343: The counters are copied and cleared at a token boundary. -/
  | snapshotTake
  /-- R338: Dispatch gathers a group's rows through a landing channel. -/
  | gather
  /-- R340: A group is placed in an expert slot, waiting if none is free. -/
  | groupPlace
  /-- R342: A group's outputs complete and combine fills its slots. -/
  | combineSlotFill
  /-- R342: All rows are performed and the layer's done message is sent. -/
  | layerDone
  /-- R359: An idle thirsty tile power-gates. -/
  | tileGate
  /-- R359: An arrival wakes a gated tile. -/
  | tileWake
  /-- R189: The wake interval expires and a gated tile runs one thirst round. -/
  | stealWakeExpiry
  /-- R363: A host 64 B write to BAR 0 becomes a send from the agent. -/
  | messageWindowWrite
  /-- R364: A host read or write through BAR 2 is performed at the home. -/
  | memoryWindowAccess
  /-- R362: An unaccepted host access is dropped or reads all ones and is journaled. -/
  | refusedHostAccess
  /-- R362: A host reads the journal ring through BAR 4. -/
  | journalRegionRead
  /-- R365: The device writes a journal record and advances jhead. -/
  | journalWrite
  /-- R365: The host writes jtail, freeing journal records. -/
  | jtailWrite
  /-- R369: The host writes an offset and slew applied to device time. -/
  | timeadjWrite
  /-- R364: The host writes an agent register with no row of its own, dropped after release where stated. -/
  | hostRegisterWrite
  /-- R368: A forwarded fault record reaches the paging handle and is served or journaled. -/
  | pageFaultForward
  /-- R368: The page-fault service sends its reply after the leaf is performed. -/
  | pageFaultReply
  /-- R367: Skelon frees an overflow pool entry 1 ms after journaling. -/
  | overflowEntryFree
  /-- R369: The PTP clock locks and device time steps forward. -/
  | ptpLockStep
  /-- R373: Mailbox command 1 releases the tiles from reset. -/
  | mboxRelease
  /-- R373: Mailbox command 2 reads or writes a die's netctl. -/
  | mboxNetctl
  /-- R373: Mailbox command 3 reads or clears a counter. -/
  | mboxCounter
  /-- R373: Mailbox command 4 reads overflow and lost counts and free slots. -/
  | mboxOverflowCounts
  /-- R373: Mailbox command 5 frees overflow pool entries. -/
  | mboxFreeOverflow
  /-- R373: Mailbox command 6 starts a self-test. -/
  | mboxSelftest
  /-- R373: Mailbox command 7 names an eviction slot. -/
  | mboxEvictSlot
  /-- R373: Mailbox command 8 produces a signed attestation quote. -/
  | mboxQuote
  /-- R373: Mailbox command 9 gives the page-fault frame pool. -/
  | mboxFramePool
  /-- R373: Mailbox command 10 grants a range for page-fault service. -/
  | mboxGrantRange
  /-- R371: Power-on runs boot verification, training and self-test. -/
  | powerOn
  /-- R372: At 105 C matrix steps are withheld. -/
  | thermalThrottle
  /-- R372: At 115 C the package resets. -/
  | thermalTrip
  /-- R370: The package loses power, losing all state except the non-volatile leaf counter. -/
  | powerLoss
  /-- R372: The junction temperature falls below the throttle point and matrix steps are no longer withheld. -/
  | temperatureFall
  /-- R369: In hardware time discipline, an IEEE 1588 correction slews or steps device time. -/
  | ptpTimeAdjustment
  /-- R298: With tmode 0, Skelon adjusts a die's deadlock threshold from its drain counts. -/
  | thresholdTuning
  /-- R287: An endpoint takes back a spilled packet from the die's drain ring, freeing its entry and any acorn held for a full ring. -/
  | drainRingReadback
  /-- R192: A tracker's acknowledgement of a +1 reaches the forking or splitting tile, making the new piece takable or letting the victim answer. -/
  | trackerAcknowledgement
  /-- R67: A variable-latency status or value of a non-memory instruction, such as bdef, pdef, fork, tdef, ctpl, cres, mxq, xgo, sub or mcrd, is written into the frame and leaves pending-write. -/
  | statusResultWrite
  /-- R247: A remote pool write refused because the pool's held writes are full is resent by the sender's network interface. -/
  | writeRefusalResend
  deriving DecidableEq, Repr

end Sys2Proof
end

