-- ==== Sys2Proof/WellFormed.lean ====
section
/-!
DEFINITION. When an instruction is well formed: the checks of R31 to R33 and R42 that can be said of the syntax,
each with the sub-code its violation raises. What only the state can show (a view's element width, R127) is
checked by the meanings.
-/

namespace Sys2Proof

/-- Checks: whether each is violated, and the sub-code it raises then (R42). -/
abbrev Chk := List (Bool × Nat)

/-- The lowest sub-code of the violated checks (R42). -/
def lowest : Chk → Option Nat
  | [] => none
  | (b, c) :: r =>
    if b then some (match lowest r with | none => c | some d => min c d) else lowest r

/-- Malformed slice operand (R32). -/
def SliceOp.ck : SliceOp → Chk
  | .nz => []
  | .sl s w => [(decide (4095 < s.toNat + w.toNat + 1), 5)]

/-- A slice operand of an exact width (R32, R42). -/
def SliceOp.ckW (o : SliceOp) (n : Nat) : Chk := o.ck ++ [(!o.fits n, 6)]

/-- A slice field the instruction does not use (R33). -/
def SliceOp.ckNo (o : SliceOp) : Chk := [(!o.isNz, 7)]

def ElemOp.ckW (o : ElemOp) (n : Nat) : Chk :=
  match o with
  | .slice o => o.ckW n
  | .view _ _ => []

def ElemOp.ck (o : ElemOp) : Chk :=
  match o with
  | .slice o => o.ck
  | .view _ _ => []

/-- An element field the instruction does not use: `0xffff` with kind 0 (R33, R135). -/
def ElemOp.ckNo (o : ElemOp) : Chk :=
  match o with
  | .slice o => o.ckNo
  | .view _ _ => [(true, 3)]

/-- Element width of the class (R127). -/
def LaneCtl.e (c : LaneCtl) : Nat :=
  match c.cls with
  | .int => c.iwidth.toNat + 1
  | .f32 => 8
  | .bf16 => 4

def LaneCtl.fp (c : LaneCtl) : Bool := c.cls != .int
/-- Width of the FP side in group 5 (R146). -/
def LaneCtl.fpw (c : LaneCtl) : Nat := if c.cls == .bf16 then 4 else 8

/-- A mask register named with mmode `00` (R42). -/
def LaneCtl.ckMask (c : LaneCtl) : Chk := [(c.mmode == .none && c.mask != 0, 4)]
def LaneCtl.noRm (c : LaneCtl) : Chk := [(c.rm != .rne, 3)]
/-- `vred` and `vscan` round in a sum of an FP class alone: `.min` and `.max` choose one of their elements (R38, R136, R142). -/
def LaneCtl.rmOfSum (c : LaneCtl) : Chk := [(c.rm != .rne && !(c.fp && c.subfn == 0), 3)]
/-- The bitwise reductions use neither signed nor sat (R33, R142); the other integer reductions do (R125, log 11). -/
def LaneCtl.bitwise (c : LaneCtl) : Chk := [(decide (3 ≤ c.subfn.toNat) && (c.signed || c.sat), 3)]
def LaneCtl.noSub (c : LaneCtl) : Chk := [(c.subfn != 0, 3)]
def LaneCtl.noAux (c : LaneCtl) : Chk := [(c.aux8 != 0, 3)]
def LaneCtl.noSign (c : LaneCtl) : Chk := [(c.signed, 3)]
def LaneCtl.noSat (c : LaneCtl) : Chk := [(c.sat, 3)]
/-- An FP-only instruction (R135). -/
def LaneCtl.fpOnly (c : LaneCtl) : Chk :=
  [(!c.fp, 6), (c.iwidth != 0, 3)] ++ c.noSign ++ c.noSat ++ c.noAux ++ c.ckMask
/-- iwidth, signed and sat are zero in the FP classes (R38). -/
def LaneCtl.fpZero (c : LaneCtl) : Chk := [(c.fp && (c.iwidth != 0 || c.signed || c.sat), 3)]
/-- An integer-only instruction (R139). -/
def LaneCtl.intOnly (c : LaneCtl) : Chk := [(c.fp, 6)] ++ c.fpZero ++ c.noRm ++ c.noSub ++ c.ckMask
/-- An instruction that moves bits of every class (R140, R141, R144). -/
def LaneCtl.moves (c : LaneCtl) : Chk := c.fpZero ++ c.noSign ++ c.noSat ++ c.noRm ++ c.noSub ++ c.ckMask

def L3.w3 (o : L3) : Chk := o.d.ckW o.c.e ++ o.a.ckW o.c.e ++ o.b.ckW o.c.e
def L3.w2 (o : L3) : Chk := o.d.ckW o.c.e ++ o.a.ckW o.c.e ++ o.b.ckNo
def LM.w (o : LM) : Chk := o.a.ckW o.c.e ++ o.b.ckW o.c.e

def L3.fp3 (o : L3) : Chk := o.w3 ++ o.c.fpOnly ++ o.c.noSub
def L3.fp2 (o : L3) : Chk := o.w2 ++ o.c.fpOnly ++ o.c.noSub
def L3.int3 (o : L3) : Chk := o.w3 ++ o.c.intOnly ++ o.c.noAux
/-- `vabs` and `vneg` (R139). -/
def L3.intNeg (o : L3) : Chk := o.w2 ++ o.c.intOnly ++ o.c.noAux ++ [(!o.c.signed, 4)]
/-- The logic forms (R139). -/
def L3.logic3 (o : L3) : Chk := o.int3 ++ o.c.noSign ++ o.c.noSat
def L3.logic2 (o : L3) : Chk := o.w2 ++ o.c.intOnly ++ o.c.noAux ++ o.c.noSign ++ o.c.noSat
/-- The shift forms: aux8 is the count when B is `nz` (R139). -/
def L3.shift (o : L3) : Chk :=
  o.w3 ++ o.c.intOnly ++ o.c.noSign ++ o.c.noSat ++ [(o.b != .slice .nz && o.c.aux8 != 0, 3)]
def L3.move2 (o : L3) : Chk := o.w2 ++ o.c.moves ++ o.c.noAux

def R2.ck (o : R2) : Chk := o.d.ck ++ o.a.ck
def R3.ck (o : R3) : Chk := o.d.ck ++ o.a.ck ++ o.b.ck
def R4.ck (o : R4) : Chk := o.d.ck ++ o.a.ck ++ o.b.ck ++ o.c.ck
/-- D any width, A of width `n`. -/
def R2.ckA (o : R2) (n : Nat) : Chk := o.d.ck ++ o.a.ckW n

/-- The address fields of F128M (R39). -/
def MemF.addr (o : MemF) : Chk := o.a.ckW 16 ++ o.x.ck
/-- A slice data operand moves at most 8 B, and is at least as wide as the size (R39, R226). -/
def MemF.small (o : MemF) : Chk :=
  match o.d with
  | .slice d => d.ck ++ [(decide (3 < o.size.toNat), 6), (!d.isNz && decide (d.width < 2 * o.nb), 6)]
  | .view _ _ => []
/-- Not an atomic: afn, asigned and C unused (R39, R226). -/
def MemF.plain (o : MemF) : Chk := [(o.afn != 0, 3), (o.asigned, 3)] ++ o.c.ckNo
def MemF.noScope (o : MemF) : Chk := [(o.scope != .tile, 3)]
/-- `spill` and `fill` (R81). -/
def MemF.nibble (o : MemF) : Chk :=
  o.addr ++ o.plain ++ o.noScope ++
    match o.d with
    | .slice d => d.ck ++ [(o.size != 0, 6)]
    | .view _ _ => []
/-- `amo` and `amo.ar` (R228). -/
def MemF.atomic (o : MemF) : Chk :=
  o.addr ++ [(o.afn == 0, 4), (decide (9 < o.afn.toNat), 4), (o.size != 2 && o.size != 3, 6), (o.afn == 9 && o.size != 2, 6),
    (o.asigned && o.afn != 2 && o.afn != 3, 3)] ++
    (if o.afn == 8 then o.c.ck else o.c.ckNo) ++
    match o.d with
    | .slice d => d.ckW (2 * o.nb)
    | .view _ _ => [(true, 6)]
/-- `amo.agg` (R229). -/
def MemF.agg (o : MemF) : Chk :=
  o.addr ++ o.noScope ++ o.c.ckNo ++ [(o.afn != 1, 4), (o.size != 2 && o.size != 3, 6), (o.asigned, 3)] ++
    match o.d with
    | .slice d => d.ck ++ [(true, 6)]
    | .view _ _ => []

/-- Class-dependent fields of `nest` (R38, R41, R149); `rounds` for an operation that rounds in an FP class, `usesSat` for
one that saturates in the integer class. -/
def NestF.ckOp (o : NestF) (rounds usesSat : Bool) : Chk :=
  let pool := fun (p : NestOp) => match p with | .pool _ => true | .view _ _ => false
  [(o.mmode == .none && o.mask != 0, 4),
   (o.cls != .int && (o.iwidth != 0 || o.signed || o.sat), 3),
   (o.rm != .rne && !(rounds && o.cls != .int), 3),
   ((o.sat || o.signed) && !usesSat, 3),
   (o.cls == .int && (pool o.d || pool o.a || (o.b.map pool).getD false) &&
      o.iwidth != 1 && o.iwidth != 3 && o.iwidth != 7 && o.iwidth != 15, 6)]
/-- A `nest` of one source: B and its five strides are unused (R33, R41). -/
def NestF.ck1 (o : NestF) (rounds usesSat : Bool) : Chk :=
  o.ckOp rounds usesSat ++ [(o.b.isSome, 7), (decide (o.strides.toNat / 2 ^ 80 ≠ 0), 3)]
def NestF.ck2 (o : NestF) (rounds usesSat : Bool) : Chk := o.ckOp rounds usesSat ++ [(o.b.isNone, 7)]

/-- The registers of R352 that only `csrr` may name. -/
def csrReadOnly (r : Nat) : Bool := r ≤ 2 || r == 0xa || r == 0xd || decide (0x10 ≤ r)

/-- `vcmp`: integer only, subfn its predicate (R140). -/
def LaneCtl.intOnlyNoSub (c : LaneCtl) : Chk := [(c.fp, 6)] ++ c.fpZero ++ c.noRm ++ c.ckMask
/-- The FP and integer sides of group 5 (R146). -/
def LaneCtl.side (c : LaneCtl) : Chk := [(!c.fp, 6)] ++ c.noSub ++ c.noAux ++ c.ckMask
/-- `bpack` and `bunpk`: integer only, no mask mode (R148); iwidth names their integer side in every class (R146). -/
def LaneCtl.planes (c : LaneCtl) : Chk :=
  [(c.fp, 6), (c.mmode != .none, 4)] ++ c.ckMask ++ c.noSat ++ c.noRm ++ c.noAux
def ElemOp.isSlice : ElemOp → Bool
  | .slice _ => true
  | .view _ _ => false
/-- The descriptor B of `qnt` and `dqnt`: a slice operand of width 16 (R146). -/
def ElemOp.ckScale (o : ElemOp) : Chk := o.ckW 16 ++ [(!o.isSlice, 6)]

/-- Every check of an instruction's operands and fields, in no particular order. An event has none. -/
def Instr.checks : Instr → Chk
  | .addZ _ o => o.ck
  | .addS _ o => o.ck
  | .difZ _ o => o.ck
  | .difS _ o => o.ck
  | .addiZ _ o _ => o.ck
  | .addiS _ o _ => o.ck
  | .mulZ _ o => o.ck
  | .mulS _ o => o.ck
  | .mulhZ _ o => o.ck
  | .mulhS _ o => o.ck
  | .divZ _ o => o.ck
  | .divS _ o => o.ck
  | .remZ _ o => o.ck
  | .remS _ o => o.ck
  | .minZ _ o => o.ck
  | .minS _ o => o.ck
  | .maxZ _ o => o.ck
  | .maxS _ o => o.ck
  | .absS _ o => o.ck
  | .negS _ o => o.ck
  | .vadd _ o => o.int3
  | .vdif _ o => o.int3
  | .vmul _ o => o.int3
  | .vmulh _ o => o.int3 ++ o.c.noSat
  | .vmin _ o => o.int3
  | .vmax _ o => o.int3
  | .vabs _ o => o.intNeg
  | .vneg _ o => o.intNeg
  | .and _ o => o.ck
  | .or _ o => o.ck
  | .xor _ o => o.ck
  | .andn _ o => o.ck
  | .not _ o => o.ck
  | .andi _ o _ => o.ck
  | .ori _ o _ => o.ck
  | .xori _ o _ => o.ck
  | .shl _ o => o.ck
  | .shr _ o => o.ck
  | .sar _ o => o.ck
  | .rol _ o => o.ck
  | .shli _ o _ => o.ck
  | .shri _ o _ => o.ck
  | .sari _ o _ => o.ck
  | .bfxZ _ o lsb len => o.ck ++ [(decide (64 < lsb.toNat + len.toNat + 1), 4)]
  | .bfxS _ o lsb len => o.ck ++ [(decide (64 < lsb.toNat + len.toNat + 1), 4)]
  | .bfi _ o lsb len => o.ck ++ [(decide (64 < lsb.toNat + len.toNat + 1), 4)]
  | .popc _ o => o.ck
  | .clz _ o => o.ck
  | .ctz _ o => o.ck
  | .brev _ o => o.ck
  | .vand _ o => o.logic3
  | .vor _ o => o.logic3
  | .vxor _ o => o.logic3
  | .vnot _ o => o.logic2
  | .vshl _ o => o.shift
  | .vshr _ o => o.shift
  | .vsar _ o => o.shift
  | .vpopc _ o => o.logic2
  | .cmpEq _ o => o.ck
  | .cmpNe _ o => o.ck
  | .cmpLtS _ o => o.ck
  | .cmpLtZ _ o => o.ck
  | .cmpLeS _ o => o.ck
  | .cmpLeZ _ o => o.ck
  | .cmpiEq _ o _ => o.ck
  | .cmpiLtS _ o _ => o.ck
  | .cmpiLtZ _ o _ => o.ck
  | .sel _ o => o.ck
  | .movZ _ o => o.ck
  | .movS _ o => o.ck
  | .movi _ d _ => d.ck
  | .movih _ d _ => d.ck ++ [(decide (d.width ≤ 8), 6)]
  | .vwset _ _ src => match src with | .imm _ => [] | .reg a => a.ckW 16
  | .vwrd _ d _ => d.ck
  | .vcmp _ o => o.w ++ o.c.intOnlyNoSub ++ o.c.noAux ++ o.c.noSat ++ [(decide (5 < o.c.subfn.toNat), 4)]
  | .vsel _ o => o.w3 ++ o.c.moves ++ o.c.noAux ++ [(o.c.mmode != .merge, 4)]
  | .vmov _ o => o.move2
  | .fadd _ o => o.fp3
  | .fsub _ o => o.fp3
  | .fmul _ o => o.fp3
  | .ffma _ o => o.fp3
  | .fmin _ o => o.fp3 ++ o.c.noRm
  | .fmax _ o => o.fp3 ++ o.c.noRm
  | .fcmp _ o => o.w ++ o.c.fpOnly ++ o.c.noRm ++ [(decide (7 < o.c.subfn.toNat), 4)]
  | .fdiv _ o => o.fp3
  | .fsqrt _ o => o.fp2
  | .fexp2T _ o => o.fp2 ++ o.c.noRm
  | .fabs _ o => o.fp2 ++ o.c.noRm
  | .fneg _ o => o.fp2 ++ o.c.noRm
  | .vperm _ o => o.d.ckW o.c.e ++ o.a.ckW o.c.e ++ o.b.ck ++ o.c.moves ++ o.c.noAux
  | .vbcast _ o => o.w2 ++ o.c.moves ++ [(o.a.isSlice && o.c.aux8 != 0, 4)]
  | .vred _ o => o.w2 ++ o.c.fpZero ++ o.c.rmOfSum ++ o.c.bitwise ++ o.c.ckMask ++ o.c.noAux ++ [(decide ((if o.c.fp then 2 else 5) < o.c.subfn.toNat), 4)]
  | .vscan _ o => o.w2 ++ o.c.fpZero ++ o.c.rmOfSum ++ o.c.ckMask ++ o.c.noAux ++ [(decide (2 < o.c.subfn.toNat), 4)]
  | .vcmpr _ o => o.move2 ++ [(o.c.mmode == .none, 4)]
  | .vexpd _ o => o.move2
  | .mand _ _ _ _ => []
  | .mor _ _ _ _ => []
  | .mxor _ _ _ _ => []
  | .mnot _ _ _ => []
  | .mset _ _ n => [(decide (256 < n.toNat), 4)]
  | .mtestAny _ d _ => d.ck
  | .mtestAll _ d _ => d.ck
  | .mpopc _ d _ => d.ck
  | .mfirst _ d _ => d.ck
  | .fcvtBf _ o => o.d.ckW 4 ++ o.a.ckW 8 ++ o.b.ckNo ++ o.c.fpOnly ++ o.c.noSub ++ o.c.noRm ++ [(o.c.cls != .f32, 6)]
  | .fcvtF _ o => o.d.ckW 8 ++ o.a.ckW 4 ++ o.b.ckNo ++ o.c.fpOnly ++ o.c.noSub ++ o.c.noRm ++ [(o.c.cls != .f32, 6)]
  | .icvtF _ o => o.d.ckW o.c.fpw ++ o.a.ckW (o.c.iwidth.toNat + 1) ++ o.b.ckNo ++ o.c.side ++ o.c.noSat
  | .fcvtI _ o => o.d.ckW (o.c.iwidth.toNat + 1) ++ o.a.ckW o.c.fpw ++ o.b.ckNo ++ o.c.side ++ o.c.noSat
  | .qnt _ o => o.d.ckW (o.c.iwidth.toNat + 1) ++ o.a.ckW o.c.fpw ++ o.b.ckScale ++ o.c.side ++ o.c.noSat ++ o.c.noSign ++ o.c.noRm
  | .dqnt _ o => o.d.ckW o.c.fpw ++ o.a.ckW (o.c.iwidth.toNat + 1) ++ o.b.ckScale ++ o.c.side ++ o.c.noSat ++ o.c.noSign ++ o.c.noRm
  | .bpack _ o => o.d.ckW 16 ++ o.a.ckW (o.c.iwidth.toNat + 1) ++ o.b.ckNo ++ o.c.planes ++ o.c.noSign ++ [(decide (4 * (o.c.iwidth.toNat + 1) < o.c.subfn.toNat + 1), 4)]
  | .bunpk _ o => o.d.ckW (o.c.iwidth.toNat + 1) ++ o.a.ckW 16 ++ o.b.ckNo ++ o.c.planes
  | .nop _ => []
  | .nopW _ => []
  | .br _ _ => []
  | .bz _ a _ => a.ck
  | .bnz _ a _ => a.ck
  | .bmany _ _ _ => []
  | .bmnone _ _ _ => []
  | .call _ d _ => d.ckW 16
  | .ret _ a => a.ckW 16
  | .brx _ a b => a.ckW 16 ++ b.ck
  | .loop _ d _ => d.ck
  | .exit _ => []
  | .casc _ o n _ => o.ck ++ [(n == 0, 4)]
  | .cascx _ => []
  | .cascxStop _ => []
  | .cdis _ d => d.ck
  | .ldZ _ o => o.addr ++ o.plain ++ o.small ++ o.noScope
  | .ldS _ o => o.addr ++ o.plain ++ o.small ++ o.noScope
  | .st _ o => o.addr ++ o.plain ++ o.small ++ o.noScope
  | .ldAcqZ _ o => o.addr ++ o.plain ++ o.small
  | .ldAcqS _ o => o.addr ++ o.plain ++ o.small
  | .stRel _ o => o.addr ++ o.plain ++ o.small
  | .pref _ o => o.addr ++ o.plain ++ o.noScope ++ o.d.ckNo
  | .stashMap _ o _ => o.d.ck ++ o.a.ckW 16 ++ o.b.ck
  | .stashFlush _ o => o.d.ck ++ o.a.ckW 16 ++ o.b.ck
  | .stashEvict _ o => o.d.ck ++ o.a.ckW 16 ++ o.b.ck
  | .spill _ o => o.nibble
  | .fill _ o => o.nibble
  | .amo _ o => o.atomic ++ o.noScope
  | .amoAr _ o => o.atomic
  | .amoAgg _ o => o.agg
  | .fence _ _ => []
  | .fenceAll _ _ => []
  | .wsig _ o => o.d.ckW 16 ++ o.a.ckW 16 ++ o.b.ckW 16 ++ o.c.ck ++ [(decide (5 < o.size.toNat), 4), (o.fn == 0 || decide (8 < o.fn.toNat), 4)]
  | .pinwait _ o => o.d.ck ++ o.a.ckW 16 ++ o.b.ck
  | .ctpl _ o _ => o.ckA 16
  | .cpy _ o => o.a.ckW 16 ++ o.b.ckW 16 ++ o.c.ckW 8
  | .cpyCmp _ o _ => o.a.ckW 16 ++ o.b.ckW 16 ++ o.c.ckW 8
  | .cres _ d _ => d.ck
  | .cabt _ d _ => d.ck
  | .cstat _ d _ => d.ck
  | .cstatClr _ d _ => d.ck
  | .sub _ o _ _ => o.ckA 16
  | .unsub _ d _ => d.ck
  | .mcrd _ o _ _ => o.d.ck ++ o.a.ckW 16 ++ o.b.ckW 16
  | .bdef _ o => o.d.ckW 8 ++ o.a.ckW 16
  | .bfree _ o => o.ckA 8
  | .pdef _ o => o.d.ck ++ o.a.ckW 16 ++ o.b.ckW 16
  | .pdel _ d _ => d.ck
  | .pen _ d _ => d.ck
  | .pdis _ d _ => d.ck
  | .send _ o sz => o.d.ckW 8 ++ o.a.ckW 16 ++ [(sz == 3, 4)]
  | .sendRel _ o sz _ => o.d.ckW 8 ++ o.a.ckW 16 ++ [(sz == 3, 4)]
  | .sendRelAll _ o sz _ => o.d.ckW 8 ++ o.a.ckW 16 ++ [(sz == 3, 4)]
  | .sendc _ o => o.d.ckW 8 ++ o.a.ck
  | .arm _ o => o.d.ckW 8 ++ o.a.ck
  | .bstat _ o => o.ckA 8
  | .fork _ o ctl _ => o.d.ck ++ o.a.ckW 12 ++ o.b.ckW 12 ++ o.c.ck ++ [(!o.c.isNz && ctl != 0, 3)]
  | .rnext _ o => o.d.ckW 12 ++ o.a.ckW 12
  | .cancel _ o imm => o.ck ++ [(!o.a.isNz && imm != 0, 3)]
  | .cancelClr _ o imm => o.ck ++ [(!o.a.isNz && imm != 0, 3)]
  | .husked _ o => o.ck
  | .gang _ o => o.ckA 16
  | .gangEnd _ d => d.ck
  | .prio _ d _ => d.ck
  | .tdef _ o _ => o.ckA 16
  | .mx _ a => a.ckW 16
  | .mxqStatus _ d => d.ck
  | .mxqResume _ d => d.ck
  | .mxqAbort _ d => d.ck
  | .addw _ o kind signed k => o.d.ck ++ o.a.ckW 16 ++ (if kind == 2 then o.b.ck else o.b.ckW 8) ++ (if kind == 1 then o.c.ckW 8 else o.c.ckNo) ++ [(kind == 3, 4), (kind != 2 && (signed || k != 0), 3)]
  | .crd _ o bf => o.d.ckW (if bf then 4 else 8) ++ o.a.ckW 16 ++ o.b.ck
  | .cclr _ o _ => o.ckA 16
  | .actl _ o _ => o.ckA 16
  | .capk _ a imm => a.ck ++ [(!a.isNz && imm != 0, 3)]
  | .xgo _ o _ => o.ckA 16
  | .xsnap _ o _ => o.ckA 16
  | .xrepl _ o _ => o.d.ck ++ o.a.ck ++ o.b.ckW 16
  | .mrgJoin _ o tag x chain => o.d.ck ++ (if x then o.a.ckNo else o.a.ckW 8) ++ [(tag == 0, 4), (!x && chain, 3)]
  | .mrgPut _ o tag => o.ckA 16 ++ [(tag == 0, 4)]
  | .mrgLeave _ d tag => d.ck ++ [(tag == 0, 4)]
  | .trap _ a _ => a.ck
  | .resume _ o => o.d.ck ++ o.a.ck ++ o.b.ckW 16
  | .kill _ o => o.ck
  | .csrr _ d r => d.ck ++ [(decide (0x17 < r.toNat), 4)]
  | .csrw _ a r => a.ck ++ [(decide (0x17 < r.toNat), 4), (csrReadOnly r.toNat, 6), (r == 8 || r == 14 || r == 15, 4)]
  | .ringrtyWrite _ a => a.ck
  | .savectlWrite _ a => a.ck
  | .dqspillWrite _ a => a.ck
  | .tlbinv _ o sc => o.d.ck ++ o.a.ckW 16 ++ o.b.ck ++ [(sc == 3, 4)]
  | .waymask _ o m => o.ck ++ [(!o.a.isNz && m != 0, 3)]
  | .selftest _ o k => o.ck ++ [(k == 7, 4)]
  | .nestMov _ o => o.ck1 false false
  | .nestAdd _ o => o.ck2 true true
  | .nestSub _ o => o.ck2 true true
  | .nestMul _ o => o.ck2 true true
  | .nestMin _ o => o.ck2 false true
  | .nestMax _ o => o.ck2 false true
  | .nestMacc _ o => o.ck2 true true
  | .nestRsum _ o => o.ck1 true true
  | .nestRmax _ o => o.ck1 false true
  | .nestRmin _ o => o.ck1 false true
  | .nestBeat | .laneBeatWrite | .resultWriteback | .loadReturn | .icacheFill | .forwardedIssue => []
  | .cascFormed | .residency | .priorityAgeing | .livePreempt | .contextSaved | .owedReturnSaved => []
  | .contextRestore | .matrixPark | .parkedRunResume | .sendAccept | .sendRetry | .sendRelease => []
  | .sendAck | .basinExamine | .ringRefillReturn | .dequeTake | .thirstRound | .thirstBackoffExpiry => []
  | .thirstArrival | .stealAnswer | .trackerChange | .launchDispatch | .huskRequest | .huskCopyDone => []
  | .ttSlot | .ttCompletionReport | .wcDrain | .writeAck | .fenceComplete | .tlbWalkDone => []
  | .l2Request | .l2Fill | .remotePoolAccess | .eccError | .selftestDone | .tlbinvComplete => []
  | .pinwaitDone | .wayRemoval | .copyAccept | .copySourceRead | .copyReadReturn | .landingWrite => []
  | .guardEntryFree | .mcJoinArrival | .mcJoinAck | .mcStreamRequest | .mcStreamLineSend | .mcReplicate => []
  | .mcCopyDrop | .mcLineLand | .mcCatchupRead | .mcStreamIdle | .routerForward | .inputTimerExpiry => []
  | .acornMove | .acornCapture | .overflowDelivery | .drainRecord | .governorReport | .subnetEnable => []
  | .subnetDisable | .linkRetry | .malformedPacket | .laucInbound | .laucCredit | .mergePartial => []
  | .mergeJoinArrival | .matrixAccept | .matrixStep | .systolicWaitTimeout | .precisionMessage | .chainOutput => []
  | .cisternDeposit | .matrixCompletion | .matrixFreeze | .matrixSelftest | .addwUpdate | .chainBlockRead => []
  | .gateListArrival | .routeToken | .snapshotTake | .gather | .groupPlace | .combineSlotFill => []
  | .layerDone | .tileGate | .tileWake | .stealWakeExpiry | .messageWindowWrite | .memoryWindowAccess => []
  | .refusedHostAccess | .journalRegionRead | .journalWrite | .jtailWrite | .timeadjWrite | .hostRegisterWrite => []
  | .pageFaultForward | .pageFaultReply | .overflowEntryFree | .ptpLockStep | .mboxRelease | .mboxNetctl => []
  | .mboxCounter | .mboxOverflowCounts | .mboxFreeOverflow | .mboxSelftest | .mboxEvictSlot | .mboxQuote => []
  | .mboxFramePool | .mboxGrantRange | .powerOn | .thermalThrottle | .thermalTrip | .powerLoss => []
  | .temperatureFall | .ptpTimeAdjustment | .thresholdTuning | .drainRingReadback | .trackerAcknowledgement | .statusResultWrite => []
  | .writeRefusalResend => []

/-- An instruction is well formed when no check is violated. -/
def Instr.wf (i : Instr) : Bool := (lowest i.checks).isNone

/-- Whether it is `trap`, which raises nothing but its own cause and a frame range (R347). -/
def Instr.isTrap : Instr → Bool
  | .trap _ _ _ => true
  | _ => false

/-- Whether the step has an encoding: an instruction of the opcode map, and no event. -/
def Instr.encoded : Instr → Bool
  | .nestBeat | .laneBeatWrite | .resultWriteback | .loadReturn | .icacheFill | .forwardedIssue => false
  | .cascFormed | .residency | .priorityAgeing | .livePreempt | .contextSaved | .owedReturnSaved => false
  | .contextRestore | .matrixPark | .parkedRunResume | .sendAccept | .sendRetry | .sendRelease => false
  | .sendAck | .basinExamine | .ringRefillReturn | .dequeTake | .thirstRound | .thirstBackoffExpiry => false
  | .thirstArrival | .stealAnswer | .trackerChange | .launchDispatch | .huskRequest | .huskCopyDone => false
  | .ttSlot | .ttCompletionReport | .wcDrain | .writeAck | .fenceComplete | .tlbWalkDone => false
  | .l2Request | .l2Fill | .remotePoolAccess | .eccError | .selftestDone | .tlbinvComplete => false
  | .pinwaitDone | .wayRemoval | .copyAccept | .copySourceRead | .copyReadReturn | .landingWrite => false
  | .guardEntryFree | .mcJoinArrival | .mcJoinAck | .mcStreamRequest | .mcStreamLineSend | .mcReplicate => false
  | .mcCopyDrop | .mcLineLand | .mcCatchupRead | .mcStreamIdle | .routerForward | .inputTimerExpiry => false
  | .acornMove | .acornCapture | .overflowDelivery | .drainRecord | .governorReport | .subnetEnable => false
  | .subnetDisable | .linkRetry | .malformedPacket | .laucInbound | .laucCredit | .mergePartial => false
  | .mergeJoinArrival | .matrixAccept | .matrixStep | .systolicWaitTimeout | .precisionMessage | .chainOutput => false
  | .cisternDeposit | .matrixCompletion | .matrixFreeze | .matrixSelftest | .addwUpdate | .chainBlockRead => false
  | .gateListArrival | .routeToken | .snapshotTake | .gather | .groupPlace | .combineSlotFill => false
  | .layerDone | .tileGate | .tileWake | .stealWakeExpiry | .messageWindowWrite | .memoryWindowAccess => false
  | .refusedHostAccess | .journalRegionRead | .journalWrite | .jtailWrite | .timeadjWrite | .hostRegisterWrite => false
  | .pageFaultForward | .pageFaultReply | .overflowEntryFree | .ptpLockStep | .mboxRelease | .mboxNetctl => false
  | .mboxCounter | .mboxOverflowCounts | .mboxFreeOverflow | .mboxSelftest | .mboxEvictSlot | .mboxQuote => false
  | .mboxFramePool | .mboxGrantRange | .powerOn | .thermalThrottle | .thermalTrip | .powerLoss => false
  | .temperatureFall | .ptpTimeAdjustment | .thresholdTuning | .drainRingReadback | .trackerAcknowledgement | .statusResultWrite => false
  | .writeRefusalResend => false
  | .addZ _ _ => true
  | .addS _ _ => true
  | .difZ _ _ => true
  | .difS _ _ => true
  | .addiZ _ _ _ => true
  | .addiS _ _ _ => true
  | .mulZ _ _ => true
  | .mulS _ _ => true
  | .mulhZ _ _ => true
  | .mulhS _ _ => true
  | .divZ _ _ => true
  | .divS _ _ => true
  | .remZ _ _ => true
  | .remS _ _ => true
  | .minZ _ _ => true
  | .minS _ _ => true
  | .maxZ _ _ => true
  | .maxS _ _ => true
  | .absS _ _ => true
  | .negS _ _ => true
  | .vadd _ _ => true
  | .vdif _ _ => true
  | .vmul _ _ => true
  | .vmulh _ _ => true
  | .vmin _ _ => true
  | .vmax _ _ => true
  | .vabs _ _ => true
  | .vneg _ _ => true
  | .and _ _ => true
  | .or _ _ => true
  | .xor _ _ => true
  | .andn _ _ => true
  | .not _ _ => true
  | .andi _ _ _ => true
  | .ori _ _ _ => true
  | .xori _ _ _ => true
  | .shl _ _ => true
  | .shr _ _ => true
  | .sar _ _ => true
  | .rol _ _ => true
  | .shli _ _ _ => true
  | .shri _ _ _ => true
  | .sari _ _ _ => true
  | .bfxZ _ _ _ _ => true
  | .bfxS _ _ _ _ => true
  | .bfi _ _ _ _ => true
  | .popc _ _ => true
  | .clz _ _ => true
  | .ctz _ _ => true
  | .brev _ _ => true
  | .vand _ _ => true
  | .vor _ _ => true
  | .vxor _ _ => true
  | .vnot _ _ => true
  | .vshl _ _ => true
  | .vshr _ _ => true
  | .vsar _ _ => true
  | .vpopc _ _ => true
  | .cmpEq _ _ => true
  | .cmpNe _ _ => true
  | .cmpLtS _ _ => true
  | .cmpLtZ _ _ => true
  | .cmpLeS _ _ => true
  | .cmpLeZ _ _ => true
  | .cmpiEq _ _ _ => true
  | .cmpiLtS _ _ _ => true
  | .cmpiLtZ _ _ _ => true
  | .sel _ _ => true
  | .movZ _ _ => true
  | .movS _ _ => true
  | .movi _ _ _ => true
  | .movih _ _ _ => true
  | .vwset _ _ _ => true
  | .vwrd _ _ _ => true
  | .vcmp _ _ => true
  | .vsel _ _ => true
  | .vmov _ _ => true
  | .fadd _ _ => true
  | .fsub _ _ => true
  | .fmul _ _ => true
  | .ffma _ _ => true
  | .fmin _ _ => true
  | .fmax _ _ => true
  | .fcmp _ _ => true
  | .fdiv _ _ => true
  | .fsqrt _ _ => true
  | .fexp2T _ _ => true
  | .fabs _ _ => true
  | .fneg _ _ => true
  | .vperm _ _ => true
  | .vbcast _ _ => true
  | .vred _ _ => true
  | .vscan _ _ => true
  | .vcmpr _ _ => true
  | .vexpd _ _ => true
  | .mand _ _ _ _ => true
  | .mor _ _ _ _ => true
  | .mxor _ _ _ _ => true
  | .mnot _ _ _ => true
  | .mset _ _ _ => true
  | .mtestAny _ _ _ => true
  | .mtestAll _ _ _ => true
  | .mpopc _ _ _ => true
  | .mfirst _ _ _ => true
  | .fcvtBf _ _ => true
  | .fcvtF _ _ => true
  | .icvtF _ _ => true
  | .fcvtI _ _ => true
  | .qnt _ _ => true
  | .dqnt _ _ => true
  | .bpack _ _ => true
  | .bunpk _ _ => true
  | .nop _ => true
  | .nopW _ => true
  | .br _ _ => true
  | .bz _ _ _ => true
  | .bnz _ _ _ => true
  | .bmany _ _ _ => true
  | .bmnone _ _ _ => true
  | .call _ _ _ => true
  | .ret _ _ => true
  | .brx _ _ _ => true
  | .loop _ _ _ => true
  | .exit _ => true
  | .casc _ _ _ _ => true
  | .cascx _ => true
  | .cascxStop _ => true
  | .cdis _ _ => true
  | .ldZ _ _ => true
  | .ldS _ _ => true
  | .st _ _ => true
  | .ldAcqZ _ _ => true
  | .ldAcqS _ _ => true
  | .stRel _ _ => true
  | .pref _ _ => true
  | .stashMap _ _ _ => true
  | .stashFlush _ _ => true
  | .stashEvict _ _ => true
  | .spill _ _ => true
  | .fill _ _ => true
  | .amo _ _ => true
  | .amoAr _ _ => true
  | .amoAgg _ _ => true
  | .fence _ _ => true
  | .fenceAll _ _ => true
  | .wsig _ _ => true
  | .pinwait _ _ => true
  | .ctpl _ _ _ => true
  | .cpy _ _ => true
  | .cpyCmp _ _ _ => true
  | .cres _ _ _ => true
  | .cabt _ _ _ => true
  | .cstat _ _ _ => true
  | .cstatClr _ _ _ => true
  | .sub _ _ _ _ => true
  | .unsub _ _ _ => true
  | .mcrd _ _ _ _ => true
  | .bdef _ _ => true
  | .bfree _ _ => true
  | .pdef _ _ => true
  | .pdel _ _ _ => true
  | .pen _ _ _ => true
  | .pdis _ _ _ => true
  | .send _ _ _ => true
  | .sendRel _ _ _ _ => true
  | .sendRelAll _ _ _ _ => true
  | .sendc _ _ => true
  | .arm _ _ => true
  | .bstat _ _ => true
  | .fork _ _ _ _ => true
  | .rnext _ _ => true
  | .cancel _ _ _ => true
  | .cancelClr _ _ _ => true
  | .husked _ _ => true
  | .gang _ _ => true
  | .gangEnd _ _ => true
  | .prio _ _ _ => true
  | .tdef _ _ _ => true
  | .mx _ _ => true
  | .mxqStatus _ _ => true
  | .mxqResume _ _ => true
  | .mxqAbort _ _ => true
  | .addw _ _ _ _ _ => true
  | .crd _ _ _ => true
  | .cclr _ _ _ => true
  | .actl _ _ _ => true
  | .capk _ _ _ => true
  | .xgo _ _ _ => true
  | .xsnap _ _ _ => true
  | .xrepl _ _ _ => true
  | .mrgJoin _ _ _ _ _ => true
  | .mrgPut _ _ _ => true
  | .mrgLeave _ _ _ => true
  | .trap _ _ _ => true
  | .resume _ _ => true
  | .kill _ _ => true
  | .csrr _ _ _ => true
  | .csrw _ _ _ => true
  | .ringrtyWrite _ _ => true
  | .savectlWrite _ _ => true
  | .dqspillWrite _ _ => true
  | .tlbinv _ _ _ => true
  | .waymask _ _ _ => true
  | .selftest _ _ _ => true
  | .nestMov _ _ => true
  | .nestAdd _ _ => true
  | .nestSub _ _ => true
  | .nestMul _ _ => true
  | .nestMin _ _ => true
  | .nestMax _ _ => true
  | .nestMacc _ _ => true
  | .nestRsum _ _ => true
  | .nestRmax _ _ => true
  | .nestRmin _ _ => true

end Sys2Proof
end

