-- ==== Sys2Proof/Decode.lean ====
section
/-!
DEFINITION. The decoder, from the bits of an instruction to the instruction or the sub-code of R42 that its encoding
raises, and the encoder, both written from the formats (R36 to R41) and the opcode map (R43).
-/

namespace Sys2Proof

/-! ### Fields -/

/-- Joins fields, the first lowest, each cut to its width. -/
def packF : List (Nat × Nat) → Nat
  | [] => 0
  | (n, v) :: r => v % 2 ^ n + 2 ^ n * packF r

def fD (w : Nat) : Nat := fld w 16 16
def fA (w : Nat) : Nat := fld w 32 16
def fB (w : Nat) : Nat := fld w 48 16
/-- imm16 of F64B (R36). -/
def fI16 (w : Nat) : Nat := fld w 48 16
/-- imm32 of F96I (R37). -/
def fI32 (w : Nat) : Nat := fld w 64 32
/-- C, ctl16 and imm32 of F128C (R40). -/
def fC (w : Nat) : Nat := fld w 64 16
def fCtl (w : Nat) : Nat := fld w 80 16
def fImm (w : Nat) : Nat := fld w 96 32

/-- The header's stall count and yield hint (R23). -/
def hdrOf (w : Nat) : Hdr := ⟨fld w 5 1 == 1, BitVec.ofNat 3 (fld w 2 3)⟩

/-- A slice-kind field (R31, R32). -/
def SliceOp.dec (n : Nat) : SliceOp :=
  if n = 0xffff then .nz else .sl (BitVec.ofNat 12 (n / 16)) (BitVec.ofNat 4 n)
def SliceOp.enc : SliceOp → Nat
  | .nz => 0xffff
  | .sl s w => s.toNat * 16 + w.toNat

/-- A field whose kind bit chooses slice or view (R31). -/
def ElemOp.dec (kind n : Nat) : ElemOp :=
  if kind = 0 then .slice (.dec n) else .view (BitVec.ofNat 4 (n / 4096)) (BitVec.ofNat 12 n)
def ElemOp.enc : ElemOp → Nat
  | .slice o => o.enc
  | .view v o => v.toNat * 4096 + o.toNat
def ElemOp.kind : ElemOp → Nat
  | .slice _ => 0
  | .view _ _ => 1

/-- A field of F256N, a view or a pool base (R31, R41). -/
def NestOp.dec (kind n : Nat) : NestOp :=
  if kind = 0 then .view (BitVec.ofNat 4 (n / 4096)) (BitVec.ofNat 12 n) else .pool (BitVec.ofNat 16 n)
def NestOp.enc : NestOp → Nat
  | .view v o => v.toNat * 4096 + o.toNat
  | .pool b => b.toNat
def NestOp.kind : NestOp → Nat
  | .view _ _ => 0
  | .pool _ => 1

def Cls.dec (n : Nat) : Cls := if n = 1 then .f32 else if n = 2 then .bf16 else .int
def Cls.enc : Cls → Nat
  | .int => 0 | .f32 => 1 | .bf16 => 2
def Rm.dec (n : Nat) : Rm := if n = 0 then .rne else if n = 1 then .rtz else if n = 2 then .rup else .rdn
def Rm.enc : Rm → Nat
  | .rne => 0 | .rtz => 1 | .rup => 2 | .rdn => 3
def MMode.dec (n : Nat) : MMode := if n = 1 then .merge else if n = 2 then .zero else .none
def MMode.enc : MMode → Nat
  | .none => 0 | .merge => 1 | .zero => 2
def Scope.dec (n : Nat) : Scope := if n = 1 then .device else if n = 2 then .system else .tile
def Scope.enc : Scope → Nat
  | .tile => 0 | .device => 1 | .system => 2
def KindOv.dec (n : Nat) : KindOv := if n = 1 then .strict else if n = 2 then .release else if n = 3 then .free else .page
def KindOv.enc : KindOv → Nat
  | .page => 0 | .strict => 1 | .release => 2 | .free => 3
def Hint.dec (n : Nat) : Hint := if n = 1 then .streaming else if n = 2 then .keep else .normal
def Hint.enc : Hint → Nat
  | .normal => 0 | .streaming => 1 | .keep => 2

/-! ### Rows of the opcode map -/

/-- A row: the length code of its format (R24), the checks on bits that the syntax has no place for, and the reader. -/
structure Row where
  len : Nat
  bad : Nat → Chk
  read : Nat → Instr

def unused (n : Nat) : Chk := [(n != 0xffff, 7)]
def zeroes (n : Nat) : Chk := [(n != 0, 3)]
/-- A mask-kind field (R31, R32). -/
def maskOk (n : Nat) : Chk := [(decide (8 ≤ n), 5)]
def reserved (n v : Nat) : Chk := [(n == v, 4)]
def mreg (n : Nat) : BitVec 3 := BitVec.ofNat 3 n

def oD (w : Nat) : SliceOp := .dec (fD w)
def oA (w : Nat) : SliceOp := .dec (fA w)
def oB (w : Nat) : SliceOp := .dec (fB w)
def oC (w : Nat) : SliceOp := .dec (fC w)
def r2 (w : Nat) : R2 := ⟨oD w, oA w⟩
def r3 (w : Nat) : R3 := ⟨oD w, oA w, oB w⟩
def r4 (w : Nat) : R4 := ⟨oD w, oA w, oB w, oC w⟩

-- F64A
def rA3 (k : Hdr → R3 → Instr) : Row := ⟨0, fun _ => [], fun w => k (hdrOf w) (r3 w)⟩
def rA2 (k : Hdr → R2 → Instr) : Row := ⟨0, fun w => unused (fB w), fun w => k (hdrOf w) (r2 w)⟩
def rA0 (k : Hdr → Instr) : Row := ⟨0, fun w => unused (fD w) ++ unused (fA w) ++ unused (fB w), fun w => k (hdrOf w)⟩
def rAD (k : Hdr → SliceOp → Instr) : Row := ⟨0, fun w => unused (fA w) ++ unused (fB w), fun w => k (hdrOf w) (oD w)⟩
def rAA (k : Hdr → SliceOp → Instr) : Row := ⟨0, fun w => unused (fD w) ++ unused (fB w), fun w => k (hdrOf w) (oA w)⟩
def rAAB (k : Hdr → SliceOp → SliceOp → Instr) : Row := ⟨0, fun w => unused (fD w), fun w => k (hdrOf w) (oA w) (oB w)⟩
def rAmmm (k : Hdr → BitVec 3 → BitVec 3 → BitVec 3 → Instr) : Row :=
  ⟨0, fun w => maskOk (fD w) ++ maskOk (fA w) ++ maskOk (fB w), fun w => k (hdrOf w) (mreg (fD w)) (mreg (fA w)) (mreg (fB w))⟩
def rAmm (k : Hdr → BitVec 3 → BitVec 3 → Instr) : Row :=
  ⟨0, fun w => maskOk (fD w) ++ maskOk (fA w) ++ unused (fB w), fun w => k (hdrOf w) (mreg (fD w)) (mreg (fA w))⟩
def rADm (k : Hdr → SliceOp → BitVec 3 → Instr) : Row :=
  ⟨0, fun w => maskOk (fA w) ++ unused (fB w), fun w => k (hdrOf w) (oD w) (mreg (fA w))⟩

-- F64B; `n` is the number of imm16 bits the instruction uses
def rB2 (n : Nat) (k : Hdr → R2 → BitVec n → Instr) : Row :=
  ⟨0, fun w => zeroes (fI16 w / 2 ^ n), fun w => k (hdrOf w) (r2 w) (BitVec.ofNat n (fI16 w))⟩
def rBbf (k : Hdr → R2 → BitVec 6 → BitVec 6 → Instr) : Row :=
  ⟨0, fun w => zeroes (fI16 w / 2 ^ 12), fun w => k (hdrOf w) (r2 w) (BitVec.ofNat 6 (fI16 w)) (BitVec.ofNat 6 (fI16 w / 64))⟩
def rBD (n : Nat) (k : Hdr → SliceOp → BitVec n → Instr) : Row :=
  ⟨0, fun w => zeroes (fI16 w / 2 ^ n) ++ unused (fA w), fun w => k (hdrOf w) (oD w) (BitVec.ofNat n (fI16 w))⟩
def rBA (n : Nat) (k : Hdr → SliceOp → BitVec n → Instr) : Row :=
  ⟨0, fun w => zeroes (fI16 w / 2 ^ n) ++ unused (fD w), fun w => k (hdrOf w) (oA w) (BitVec.ofNat n (fI16 w))⟩
def rBset (k : Hdr → BitVec 3 → BitVec 9 → Instr) : Row :=
  ⟨0, fun w => maskOk (fD w) ++ zeroes (fI16 w / 512) ++ unused (fA w), fun w => k (hdrOf w) (mreg (fD w)) (BitVec.ofNat 9 (fI16 w))⟩
def rBfence (k : Hdr → Scope → Instr) : Row :=
  ⟨0, fun w => zeroes (fI16 w / 4) ++ reserved (fI16 w % 4) 3 ++ unused (fD w) ++ unused (fA w), fun w => k (hdrOf w) (.dec (fI16 w % 4))⟩

-- F96I
def iRes (w : Nat) : Chk := zeroes (fld w 48 16)
def rI2 (k : Hdr → R2 → BitVec 32 → Instr) : Row := ⟨1, iRes, fun w => k (hdrOf w) (r2 w) (BitVec.ofNat 32 (fI32 w))⟩
def rID (k : Hdr → SliceOp → BitVec 32 → Instr) : Row :=
  ⟨1, fun w => iRes w ++ unused (fA w), fun w => k (hdrOf w) (oD w) (BitVec.ofNat 32 (fI32 w))⟩
def rIA (k : Hdr → SliceOp → BitVec 32 → Instr) : Row :=
  ⟨1, fun w => iRes w ++ unused (fD w), fun w => k (hdrOf w) (oA w) (BitVec.ofNat 32 (fI32 w))⟩
def rIm (k : Hdr → BitVec 3 → BitVec 32 → Instr) : Row :=
  ⟨1, fun w => iRes w ++ unused (fD w) ++ maskOk (fA w), fun w => k (hdrOf w) (mreg (fA w)) (BitVec.ofNat 32 (fI32 w))⟩
def rIbr (k : Hdr → BitVec 32 → Instr) : Row :=
  ⟨1, fun w => iRes w ++ unused (fD w) ++ unused (fA w), fun w => k (hdrOf w) (BitVec.ofNat 32 (fI32 w))⟩
def rIn (k : Hdr → Instr) : Row :=
  ⟨1, fun w => iRes w ++ unused (fD w) ++ unused (fA w) ++ zeroes (fI32 w), fun w => k (hdrOf w)⟩
def rIsub : Row :=
  ⟨1, fun w => iRes w ++ zeroes (fI32 w / 2 ^ 15), fun w => .sub (hdrOf w) (r2 w) (BitVec.ofNat 12 (fI32 w)) (BitVec.ofNat 3 (fI32 w / 2 ^ 12))⟩
def rIunsub : Row :=
  ⟨1, fun w => iRes w ++ unused (fA w) ++ zeroes (fI32 w / 2 ^ 12), fun w => .unsub (hdrOf w) (oD w) (BitVec.ofNat 12 (fI32 w))⟩

-- F96L
def lCls (w : Nat) : Nat := fld w 75 2
def lMode (w : Nat) : Nat := fld w 70 2
def lCtl (w : Nat) : LaneCtl :=
  { aux8 := BitVec.ofNat 8 (fld w 88 8), subfn := BitVec.ofNat 5 (fld w 83 5), signed := fld w 82 1 == 1, sat := fld w 81 1 == 1,
    iwidth := BitVec.ofNat 4 (fld w 77 4), cls := .dec (lCls w), rm := .dec (fld w 72 2), mmode := .dec (lMode w),
    mask := BitVec.ofNat 3 (fld w 67 3) }
/-- Reserved values of F96L. -/
def lRawG (w : Nat) : Chk := zeroes (fld w 74 1) ++ reserved (lCls w) 3 ++ reserved (lMode w) 3
/-- A class of `11` is not the integer class, so iwidth, signed and sat are unused beside it (R33, log 11). -/
def lRaw (w : Nat) : Chk := lRawG w ++ [(lCls w == 3 && (fld w 77 4 != 0 || fld w 81 2 != 0), 3)]
/-- A row of group 5, where class names one side and iwidth and signed the other (R146). -/
def rLg (k : Hdr → L3 → Instr) : Row :=
  ⟨1, lRawG, fun w => k (hdrOf w) ⟨.dec (fld w 64 1) (fD w), .dec (fld w 65 1) (fA w), .dec (fld w 66 1) (fB w), lCtl w⟩⟩
def rL (k : Hdr → L3 → Instr) : Row :=
  ⟨1, lRaw, fun w => k (hdrOf w) ⟨.dec (fld w 64 1) (fD w), .dec (fld w 65 1) (fA w), .dec (fld w 66 1) (fB w), lCtl w⟩⟩
def rLm (k : Hdr → LM → Instr) : Row :=
  ⟨1, fun w => lRaw w ++ maskOk (fD w) ++ [(fld w 64 1 != 0, 6)],
    fun w => k (hdrOf w) ⟨mreg (fD w), .dec (fld w 65 1) (fA w), .dec (fld w 66 1) (fB w), lCtl w⟩⟩

-- F128M
def mF (w : Nat) : MemF :=
      { d := .dec (fld w 99 1) (fD w), a := oA w, x := oB w, off := BitVec.ofNat 32 (fld w 64 32), size := BitVec.ofNat 3 (fld w 96 3),
        scope := .dec (fld w 100 2), kind := .dec (fld w 102 2), hint := .dec (fld w 104 2), afn := BitVec.ofNat 4 (fld w 106 4),
        asigned := fld w 110 1 == 1, c := .dec (fld w 112 16) }
def mRaw (w : Nat) : Chk := zeroes (fld w 111 1) ++ reserved (fld w 104 2) 3
def rM (k : Hdr → MemF → Instr) : Row := ⟨2, fun w => mRaw w ++ reserved (fld w 100 2) 3, fun w => k (hdrOf w) (mF w)⟩
/-- A row whose scope must be `00`. -/
def rMt (k : Hdr → MemF → Instr) : Row := ⟨2, fun w => mRaw w ++ zeroes (fld w 100 2), fun w => k (hdrOf w) (mF w)⟩

-- F128C: which of B and C are unused, and how many bits of ctl16 and imm32 are used
def cRaw (b c : Bool) (nctl nimm : Nat) (w : Nat) : Chk :=
  (if b then unused (fB w) else []) ++ (if c then unused (fC w) else []) ++ zeroes (fCtl w / 2 ^ nctl) ++ zeroes (fImm w / 2 ^ nimm)
def ctl (n w : Nat) : BitVec n := BitVec.ofNat n (fCtl w)
def imm (n w : Nat) : BitVec n := BitVec.ofNat n (fImm w)
def rC4 (k : Hdr → R4 → Instr) : Row := ⟨2, cRaw false false 0 0, fun w => k (hdrOf w) (r4 w)⟩
def rC3 (n : Nat) (k : Hdr → R3 → BitVec n → Instr) : Row := ⟨2, cRaw false true n 0, fun w => k (hdrOf w) (r3 w) (ctl n w)⟩
def rC3i (k : Hdr → R3 → Instr) : Row := ⟨2, cRaw false true 0 0, fun w => k (hdrOf w) (r3 w)⟩
def rC2 (n : Nat) (k : Hdr → R2 → BitVec n → Instr) : Row := ⟨2, cRaw true true n 0, fun w => k (hdrOf w) (r2 w) (ctl n w)⟩
def rC2i (k : Hdr → R2 → Instr) : Row := ⟨2, cRaw true true 0 0, fun w => k (hdrOf w) (r2 w)⟩
def rCrel (k : Hdr → R2 → BitVec 2 → Scope → Instr) : Row :=
  ⟨2, fun w => cRaw true true 4 0 w ++ reserved (fCtl w / 4 % 4) 3, fun w => k (hdrOf w) (r2 w) (ctl 2 w) (.dec (fCtl w / 4 % 4))⟩
def rCpy : Row :=
  ⟨2, fun w => unused (fD w) ++ cRaw false false 9 0 w,
    fun w => .cpy (hdrOf w) ⟨oA w, oB w, oC w, ctl 3 w, BitVec.ofNat 6 (fCtl w / 8)⟩⟩
def rCpyCmp : Row :=
  ⟨2, fun w => unused (fD w) ++ cRaw false false 9 3 w,
    fun w => .cpyCmp (hdrOf w) ⟨oA w, oB w, oC w, ctl 3 w, BitVec.ofNat 6 (fCtl w / 8)⟩ (imm 3 w)⟩
def rWsig : Row :=
  ⟨2, fun w => cRaw false false 10 0 w ++ reserved (fCtl w / 256 % 4) 3,
    fun w => .wsig (hdrOf w) ⟨oD w, oA w, oB w, oC w, ctl 3 w, fCtl w / 8 % 2 == 1, BitVec.ofNat 4 (fCtl w / 16), .dec (fCtl w / 256 % 4)⟩⟩
/-- `vwset`: ctl16 chooses the form (R79). -/
def rVwset : Row :=
  ⟨2, fun w => zeroes (fCtl w / 32) ++
      (if fCtl w / 16 % 2 = 1 then unused (fD w) ++ unused (fB w) ++ unused (fC w) ++ zeroes (fImm w)
       else unused (fD w) ++ zeroes (fImm w / 2 ^ 26) ++ zeroes (fB w / 2 ^ 14) ++ zeroes (fC w / 256) ++ zeroes (fA w / 2 ^ 14)),
    fun w => .vwset (hdrOf w) (ctl 4 w)
      (if fCtl w / 16 % 2 = 1 then .reg (oA w)
       else .imm (BitVec.ofNat 14 (fA w) ++ BitVec.ofNat 8 (fC w) ++ BitVec.ofNat 14 (fB w) ++ BitVec.ofNat 26 (fImm w)))⟩
def rCascx : Row :=
  ⟨2, fun w => unused (fD w) ++ unused (fA w) ++ cRaw true true 1 0 w, fun w => if fCtl w % 2 = 1 then .cascxStop (hdrOf w) else .cascx (hdrOf w)⟩
def rGang : Row :=
  ⟨2, fun w => cRaw true true 1 0 w ++ (if fCtl w % 2 = 1 then unused (fA w) else []),
    fun w => if fCtl w % 2 = 1 then .gangEnd (hdrOf w) (oD w) else .gang (hdrOf w) (r2 w)⟩
def rMcrd : Row :=
  ⟨2, cRaw false true 0 18, fun w => .mcrd (hdrOf w) (r3 w) (imm 12 w) (BitVec.ofNat 6 (fImm w / 2 ^ 12))⟩
def rFork : Row := ⟨2, fun _ => [], fun w => .fork (hdrOf w) (r4 w) (ctl 16 w) (imm 32 w)⟩
def rMx : Row :=
  ⟨2, fun w => unused (fD w) ++ cRaw true true 1 0 w, fun w => .mx (hdrOf w) (.dec (fCtl w % 2) (fA w))⟩
def rMxq : Row :=
  ⟨0, fun w => zeroes (fI16 w / 4) ++ reserved (fI16 w % 4) 3 ++ unused (fA w),
    fun w => if fI16 w % 4 = 1 then .mxqResume (hdrOf w) (oD w) else if fI16 w % 4 = 2 then .mxqAbort (hdrOf w) (oD w)
      else .mxqStatus (hdrOf w) (oD w)⟩
def rAddw : Row :=
  ⟨2, cRaw false false 3 9, fun w => .addw (hdrOf w) (r4 w) (ctl 2 w) (fCtl w / 4 % 2 == 1) (imm 9 w)⟩
def rCrd : Row := ⟨2, cRaw false true 1 0, fun w => .crd (hdrOf w) (r3 w) (fCtl w % 2 == 1)⟩
def rCclr : Row := ⟨2, cRaw true true 0 8, fun w => .cclr (hdrOf w) (r2 w) (imm 8 w)⟩
def rChain (k : Hdr → R2 → Bool → Instr) : Row := ⟨2, cRaw true true 1 0, fun w => k (hdrOf w) (r2 w) (fCtl w % 2 == 1)⟩
def rXrepl : Row := ⟨2, cRaw false true 1 0, fun w => .xrepl (hdrOf w) (r3 w) (fCtl w % 2 == 1)⟩
/-- `mrg`: ctl16 chooses the function (R332). -/
def rMrg : Row :=
  ⟨2, fun w => cRaw true true 4 12 w ++ reserved (fCtl w % 4) 3 ++
      (if fCtl w % 4 = 0 then [] else zeroes (fCtl w / 4)) ++ (if fCtl w % 4 = 2 then unused (fA w) else []),
    fun w => if fCtl w % 4 = 1 then .mrgPut (hdrOf w) (r2 w) (imm 12 w)
      else if fCtl w % 4 = 2 then .mrgLeave (hdrOf w) (oD w) (imm 12 w)
      else .mrgJoin (hdrOf w) (r2 w) (imm 12 w) (fCtl w / 4 % 2 == 1) (fCtl w / 8 % 2 == 1)⟩
def rCstat : Row :=
  ⟨0, fun w => zeroes (fI16 w / 16) ++ unused (fA w),
    fun w => if fI16 w / 8 % 2 = 1 then .cstatClr (hdrOf w) (oD w) (BitVec.ofNat 3 (fI16 w)) else .cstat (hdrOf w) (oD w) (BitVec.ofNat 3 (fI16 w))⟩
def rHusked : Row := ⟨0, fun w => zeroes (fI16 w), fun w => .husked (hdrOf w) (r2 w)⟩
/-- `csrw`: three registers have a row of their own in the table (R352). -/
def rCsrw : Row :=
  ⟨0, fun w => zeroes (fI16 w / 2 ^ 12) ++ unused (fD w),
    fun w => if fI16 w % 2 ^ 12 = 8 then .dqspillWrite (hdrOf w) (oA w) else if fI16 w % 2 ^ 12 = 14 then .savectlWrite (hdrOf w) (oA w)
      else if fI16 w % 2 ^ 12 = 15 then .ringrtyWrite (hdrOf w) (oA w) else .csrw (hdrOf w) (oA w) (BitVec.ofNat 12 (fI16 w))⟩

-- F256N
def nCls (w : Nat) : Nat := fld w 237 2
def nMode (w : Nat) : Nat := fld w 250 2
def nRaw (w : Nat) : Chk :=
  zeroes (fld w 252 4) ++ reserved (nCls w) 3 ++ reserved (nMode w) 3 ++ [(nCls w == 3 && (fld w 239 4 != 0 || fld w 245 2 != 0), 3)]
def nF (w : Nat) (b : Option NestOp) : NestF :=
  { d := .dec (fld w 234 1) (fD w), a := .dec (fld w 235 1) (fA w), b := b, extents := BitVec.ofNat 50 (fld w 64 50),
    strides := BitVec.ofNat 120 (fld w 114 120), iwidth := BitVec.ofNat 4 (fld w 239 4), cls := .dec (nCls w), rm := .dec (fld w 243 2),
    sat := fld w 245 1 == 1, signed := fld w 246 1 == 1, mmode := .dec (nMode w), mask := BitVec.ofNat 3 (fld w 247 3) }
def rN1 (k : Hdr → NestF → Instr) : Row :=
  ⟨3, fun w => nRaw w ++ unused (fB w) ++ zeroes (fld w 236 1), fun w => k (hdrOf w) (nF w none)⟩
def rN2 (k : Hdr → NestF → Instr) : Row := ⟨3, nRaw, fun w => k (hdrOf w) (nF w (some (.dec (fld w 236 1) (fB w))))⟩

def group0 (fn : Nat) : Option Row :=
  match fn with
  | 0x00 => some (rA3 .addZ)
  | 0x01 => some (rA3 .addS)
  | 0x02 => some (rA3 .difZ)
  | 0x03 => some (rA3 .difS)
  | 0x04 => some (rI2 .addiZ)
  | 0x05 => some (rI2 .addiS)
  | 0x06 => some (rA3 .mulZ)
  | 0x07 => some (rA3 .mulS)
  | 0x08 => some (rA3 .mulhZ)
  | 0x09 => some (rA3 .mulhS)
  | 0x0a => some (rA3 .divZ)
  | 0x0b => some (rA3 .divS)
  | 0x0c => some (rA3 .remZ)
  | 0x0d => some (rA3 .remS)
  | 0x0e => some (rA3 .minZ)
  | 0x0f => some (rA3 .minS)
  | 0x10 => some (rA3 .maxZ)
  | 0x11 => some (rA3 .maxS)
  | 0x12 => some (rA2 .absS)
  | 0x13 => some (rA2 .negS)
  | 0x20 => some (rL .vadd)
  | 0x21 => some (rL .vdif)
  | 0x22 => some (rL .vmul)
  | 0x23 => some (rL .vmulh)
  | 0x24 => some (rL .vmin)
  | 0x25 => some (rL .vmax)
  | 0x26 => some (rL .vabs)
  | 0x27 => some (rL .vneg)
  | _ => none
def group1 (fn : Nat) : Option Row :=
  match fn with
  | 0x00 => some (rA3 .and)
  | 0x01 => some (rA3 .or)
  | 0x02 => some (rA3 .xor)
  | 0x03 => some (rA3 .andn)
  | 0x04 => some (rA2 .not)
  | 0x05 => some (rB2 16 .andi)
  | 0x06 => some (rB2 16 .ori)
  | 0x07 => some (rB2 16 .xori)
  | 0x08 => some (rA3 .shl)
  | 0x09 => some (rA3 .shr)
  | 0x0a => some (rA3 .sar)
  | 0x0b => some (rA3 .rol)
  | 0x0c => some (rB2 6 .shli)
  | 0x0d => some (rB2 6 .shri)
  | 0x0e => some (rB2 6 .sari)
  | 0x10 => some (rBbf .bfxZ)
  | 0x11 => some (rBbf .bfxS)
  | 0x12 => some (rBbf .bfi)
  | 0x13 => some (rA2 .popc)
  | 0x14 => some (rA2 .clz)
  | 0x15 => some (rA2 .ctz)
  | 0x16 => some (rA2 .brev)
  | 0x20 => some (rL .vand)
  | 0x21 => some (rL .vor)
  | 0x22 => some (rL .vxor)
  | 0x23 => some (rL .vnot)
  | 0x24 => some (rL .vshl)
  | 0x25 => some (rL .vshr)
  | 0x26 => some (rL .vsar)
  | 0x27 => some (rL .vpopc)
  | _ => none
def group2 (fn : Nat) : Option Row :=
  match fn with
  | 0x00 => some (rA3 .cmpEq)
  | 0x01 => some (rA3 .cmpNe)
  | 0x02 => some (rA3 .cmpLtS)
  | 0x03 => some (rA3 .cmpLtZ)
  | 0x04 => some (rA3 .cmpLeS)
  | 0x05 => some (rA3 .cmpLeZ)
  | 0x06 => some (rC4 .sel)
  | 0x07 => some (rA2 .movZ)
  | 0x08 => some (rA2 .movS)
  | 0x09 => some (rID .movi)
  | 0x0a => some (rID .movih)
  | 0x0c => some (rB2 16 .cmpiEq)
  | 0x0d => some (rB2 16 .cmpiLtS)
  | 0x0e => some (rB2 16 .cmpiLtZ)
  | 0x10 => some (rVwset)
  | 0x11 => some (rBD 4 .vwrd)
  | 0x20 => some (rLm .vcmp)
  | 0x21 => some (rL .vsel)
  | 0x22 => some (rL .vmov)
  | _ => none
def group3 (fn : Nat) : Option Row :=
  match fn with
  | 0x00 => some (rL .fadd)
  | 0x01 => some (rL .fsub)
  | 0x02 => some (rL .fmul)
  | 0x03 => some (rL .ffma)
  | 0x04 => some (rL .fmin)
  | 0x05 => some (rL .fmax)
  | 0x06 => some (rLm .fcmp)
  | 0x07 => some (rL .fdiv)
  | 0x08 => some (rL .fsqrt)
  | 0x09 => some (rL .fexp2T)
  | 0x0a => some (rL .fabs)
  | 0x0b => some (rL .fneg)
  | _ => none
def group4 (fn : Nat) : Option Row :=
  match fn with
  | 0x00 => some (rL .vperm)
  | 0x01 => some (rL .vbcast)
  | 0x03 => some (rL .vred)
  | 0x04 => some (rL .vscan)
  | 0x05 => some (rL .vcmpr)
  | 0x06 => some (rL .vexpd)
  | 0x07 => some (rAmmm .mand)
  | 0x08 => some (rAmmm .mor)
  | 0x09 => some (rAmmm .mxor)
  | 0x0a => some (rAmm .mnot)
  | 0x0b => some (rBset .mset)
  | 0x0c => some (rADm .mtestAny)
  | 0x0d => some (rADm .mtestAll)
  | 0x0e => some (rADm .mpopc)
  | 0x0f => some (rADm .mfirst)
  | _ => none
def group5 (fn : Nat) : Option Row :=
  match fn with
  | 0x00 => some (rL .fcvtBf)
  | 0x01 => some (rL .fcvtF)
  | 0x02 => some (rLg .icvtF)
  | 0x03 => some (rLg .fcvtI)
  | 0x04 => some (rLg .qnt)
  | 0x05 => some (rLg .dqnt)
  | 0x06 => some (rLg .bpack)
  | 0x07 => some (rLg .bunpk)
  | _ => none
def group6 (fn : Nat) : Option Row :=
  match fn with
  | 0x00 => some (rA0 .nop)
  | 0x01 => some (rIn .nopW)
  | 0x02 => some (rIbr .br)
  | 0x03 => some (rIA .bz)
  | 0x04 => some (rIA .bnz)
  | 0x05 => some (rIm .bmany)
  | 0x06 => some (rIm .bmnone)
  | 0x07 => some (rID .call)
  | 0x08 => some (rAA .ret)
  | 0x09 => some (rAAB .brx)
  | 0x0a => some (rID .loop)
  | 0x0b => some (rA0 .exit)
  | 0x0c => some ⟨2, cRaw true true 6 0, fun w => .casc (hdrOf w) (r2 w) (ctl 4 w) (BitVec.ofNat 2 (fCtl w / 16))⟩
  | 0x0d => some (rCascx)
  | 0x0e => some (rAD .cdis)
  | _ => none
def group7 (fn : Nat) : Option Row :=
  match fn with
  | 0x00 => some (rMt .ldZ)
  | 0x01 => some (rMt .ldS)
  | 0x02 => some (rMt .st)
  | 0x03 => some (rM .ldAcqZ)
  | 0x04 => some (rM .ldAcqS)
  | 0x05 => some (rM .stRel)
  | 0x06 => some (rMt .pref)
  | 0x07 => some (rC3 3 .stashMap)
  | 0x08 => some (rC3i .stashFlush)
  | 0x09 => some (rC3i .stashEvict)
  | 0x0a => some (rMt .spill)
  | 0x0b => some (rMt .fill)
  | _ => none
def group8 (fn : Nat) : Option Row :=
  match fn with
  | 0x00 => some (rMt .amo)
  | 0x01 => some (rM .amoAr)
  | 0x02 => some (rMt .amoAgg)
  | 0x03 => some (rBfence .fence)
  | 0x04 => some (rBfence .fenceAll)
  | 0x05 => some (rWsig)
  | 0x06 => some (rC3i .pinwait)
  | _ => none
def group9 (fn : Nat) : Option Row :=
  match fn with
  | 0x00 => some (rC2 6 .ctpl)
  | 0x01 => some (rCpy)
  | 0x02 => some (rCpyCmp)
  | 0x03 => some (rBD 3 .cres)
  | 0x04 => some (rBD 3 .cabt)
  | 0x05 => some (rCstat)
  | 0x06 => some (rIsub)
  | 0x07 => some (rIunsub)
  | 0x08 => some (rMcrd)
  | _ => none
def groupA (fn : Nat) : Option Row :=
  match fn with
  | 0x00 => some (rC2i .bdef)
  | 0x01 => some (rA2 .bfree)
  | 0x02 => some (rC3i .pdef)
  | 0x03 => some (rBD 5 .pdel)
  | 0x04 => some (rBD 5 .pen)
  | 0x05 => some (rBD 5 .pdis)
  | 0x06 => some (rC2 2 .send)
  | 0x07 => some (rCrel .sendRel)
  | 0x08 => some (rCrel .sendRelAll)
  | 0x09 => some (rC2i .sendc)
  | 0x0a => some (rC2i .arm)
  | 0x0b => some (rA2 .bstat)
  | _ => none
def groupB (fn : Nat) : Option Row :=
  match fn with
  | 0x00 => some (rFork)
  | 0x01 => some (rA2 .rnext)
  | 0x02 => some (rB2 16 .cancel)
  | 0x03 => some (rB2 16 .cancelClr)
  | 0x04 => some (rHusked)
  | 0x05 => some (rGang)
  | 0x06 => some (rBD 3 .prio)
  | _ => none
def groupC (fn : Nat) : Option Row :=
  match fn with
  | 0x00 => some (rC2 8 .tdef)
  | 0x01 => some (rMx)
  | 0x02 => some (rMxq)
  | 0x03 => some (rAddw)
  | 0x04 => some (rCrd)
  | 0x05 => some (rCclr)
  | 0x06 => some (rC2 4 .actl)
  | 0x07 => some (rIA .capk)
  | _ => none
def groupD (fn : Nat) : Option Row :=
  match fn with
  | 0x00 => some (rChain .xgo)
  | 0x01 => some (rChain .xsnap)
  | 0x02 => some (rXrepl)
  | 0x03 => some (rMrg)
  | _ => none
def groupE (fn : Nat) : Option Row :=
  match fn with
  | 0x00 => some (rBA 16 .trap)
  | 0x01 => some (rA3 .resume)
  | 0x02 => some (rA2 .kill)
  | 0x03 => some (rBD 12 .csrr)
  | 0x04 => some (rCsrw)
  | 0x05 => some (rC3 2 .tlbinv)
  | 0x06 => some (rB2 16 .waymask)
  | 0x07 => some (rC2 3 .selftest)
  | _ => none
def groupF (fn : Nat) : Option Row :=
  match fn with
  | 0x00 => some (rN1 .nestMov)
  | 0x01 => some (rN2 .nestAdd)
  | 0x02 => some (rN2 .nestSub)
  | 0x03 => some (rN2 .nestMul)
  | 0x04 => some (rN2 .nestMin)
  | 0x05 => some (rN2 .nestMax)
  | 0x06 => some (rN2 .nestMacc)
  | 0x07 => some (rN1 .nestRsum)
  | 0x08 => some (rN1 .nestRmax)
  | 0x09 => some (rN1 .nestRmin)
  | _ => none

/-- The opcode map (R43), by the ten-bit opcode. -/
def opRow (op : Nat) : Option Row :=
  match op / 64 with
  | 0 => group0 (op % 64)
  | 1 => group1 (op % 64)
  | 2 => group2 (op % 64)
  | 3 => group3 (op % 64)
  | 4 => group4 (op % 64)
  | 5 => group5 (op % 64)
  | 6 => group6 (op % 64)
  | 7 => group7 (op % 64)
  | 8 => group8 (op % 64)
  | 9 => group9 (op % 64)
  | 10 => groupA (op % 64)
  | 11 => groupB (op % 64)
  | 12 => groupC (op % 64)
  | 13 => groupD (op % 64)
  | 14 => groupE (op % 64)
  | 15 => groupF (op % 64)
  | _ => none

/-- Decoding: the instruction whose bits are `w`, or the lowest sub-code its encoding raises (R42). -/
def decode (w : Nat) : Except Nat Instr :=
  match opRow (fld w 6 10) with
  | none => .error 1
  | some r =>
    if fld w 0 2 = r.len then
      match lowest (r.bad w ++ (r.read w).checks) with
      | some c => .error c
      | none => .ok (r.read w)
    else .error 2

/-- The bytes of an instruction by its length code (R23). -/
def lenBytes (code : Nat) : Nat := if code = 0 then 8 else if code = 1 then 12 else if code = 2 then 16 else 32

/-- The instruction the decoder reads from an instruction whose bits are `w`, numbered as the opcode table numbers them:
the first byte in memory is lowest. -/
def decodeTableWord (nbits w : Nat) : Option Instr :=
  match decode (w % 2 ^ nbits) with
  | .ok i => some i
  | .error _ => none

/-! ### The encoder -/

def hdrF (op len : Nat) (h : Hdr) : List (Nat × Nat) := [(2, len), (3, h.stall.toNat), (1, b2n h.y), (10, op)]
/-- F64A and F64B (R36). -/
def encA (op : Nat) (h : Hdr) (d a b : Nat) : Nat := packF (hdrF op 0 h ++ [(16, d), (16, a), (16, b)])
/-- F96I (R37). -/
def encI (op : Nat) (h : Hdr) (d a i : Nat) : Nat := packF (hdrF op 1 h ++ [(16, d), (16, a), (16, 0), (32, i)])
/-- F96L (R38). -/
def encL (op : Nat) (h : Hdr) (d a b kd ka kb : Nat) (c : LaneCtl) : Nat :=
  packF (hdrF op 1 h ++ [(16, d), (16, a), (16, b), (1, kd), (1, ka), (1, kb), (3, c.mask.toNat), (2, c.mmode.enc), (2, c.rm.enc), (1, 0),
    (2, c.cls.enc), (4, c.iwidth.toNat), (1, b2n c.sat), (1, b2n c.signed), (5, c.subfn.toNat), (8, c.aux8.toNat)])
/-- F128M (R39). -/
def encM (op : Nat) (h : Hdr) (o : MemF) : Nat :=
  packF (hdrF op 2 h ++ [(16, o.d.enc), (16, o.a.enc), (16, o.x.enc), (32, o.off.toNat), (3, o.size.toNat), (1, o.d.kind), (2, o.scope.enc),
    (2, o.kind.enc), (2, o.hint.enc), (4, o.afn.toNat), (1, b2n o.asigned), (1, 0), (16, o.c.enc)])
/-- F128C (R40). -/
def encC (op : Nat) (h : Hdr) (d a b c ctl imm : Nat) : Nat :=
  packF (hdrF op 2 h ++ [(16, d), (16, a), (16, b), (16, c), (16, ctl), (32, imm)])
/-- F256N (R41). -/
def encN (op : Nat) (h : Hdr) (o : NestF) : Nat :=
  packF (hdrF op 3 h ++ [(16, o.d.enc), (16, o.a.enc), (16, match o.b with | some b => b.enc | none => 0xffff), (50, o.extents.toNat),
    (120, o.strides.toNat), (1, o.d.kind), (1, o.a.kind), (1, match o.b with | some b => b.kind | none => 0), (2, o.cls.enc),
    (4, o.iwidth.toNat), (2, o.rm.enc), (1, b2n o.sat), (1, b2n o.signed), (3, o.mask.toNat), (2, o.mmode.enc), (4, 0)])

/-- `vwset` (R79): the immediate form's fields stand raw in imm32, B, C and A. -/
def encVwset (h : Hdr) (v : BitVec 4) : ViewSrc → Nat
  | .imm val => encC 0x090 h 0xffff (fld val.toNat 48 14) (fld val.toNat 26 14) (fld val.toNat 40 8) v.toNat (fld val.toNat 0 26)
  | .reg a => encC 0x090 h 0xffff a.enc 0xffff 0xffff (16 + v.toNat) 0

/-- The bits of an instruction; an event has no encoding and gives 0. -/
def encode : Instr → Nat
  | .addZ h o => encA 0x000 h o.d.enc o.a.enc o.b.enc
  | .addS h o => encA 0x001 h o.d.enc o.a.enc o.b.enc
  | .difZ h o => encA 0x002 h o.d.enc o.a.enc o.b.enc
  | .difS h o => encA 0x003 h o.d.enc o.a.enc o.b.enc
  | .addiZ h o i => encI 0x004 h o.d.enc o.a.enc i.toNat
  | .addiS h o i => encI 0x005 h o.d.enc o.a.enc i.toNat
  | .mulZ h o => encA 0x006 h o.d.enc o.a.enc o.b.enc
  | .mulS h o => encA 0x007 h o.d.enc o.a.enc o.b.enc
  | .mulhZ h o => encA 0x008 h o.d.enc o.a.enc o.b.enc
  | .mulhS h o => encA 0x009 h o.d.enc o.a.enc o.b.enc
  | .divZ h o => encA 0x00a h o.d.enc o.a.enc o.b.enc
  | .divS h o => encA 0x00b h o.d.enc o.a.enc o.b.enc
  | .remZ h o => encA 0x00c h o.d.enc o.a.enc o.b.enc
  | .remS h o => encA 0x00d h o.d.enc o.a.enc o.b.enc
  | .minZ h o => encA 0x00e h o.d.enc o.a.enc o.b.enc
  | .minS h o => encA 0x00f h o.d.enc o.a.enc o.b.enc
  | .maxZ h o => encA 0x010 h o.d.enc o.a.enc o.b.enc
  | .maxS h o => encA 0x011 h o.d.enc o.a.enc o.b.enc
  | .absS h o => encA 0x012 h o.d.enc o.a.enc 0xffff
  | .negS h o => encA 0x013 h o.d.enc o.a.enc 0xffff
  | .vadd h o => encL 0x020 h o.d.enc o.a.enc o.b.enc o.d.kind o.a.kind o.b.kind o.c
  | .vdif h o => encL 0x021 h o.d.enc o.a.enc o.b.enc o.d.kind o.a.kind o.b.kind o.c
  | .vmul h o => encL 0x022 h o.d.enc o.a.enc o.b.enc o.d.kind o.a.kind o.b.kind o.c
  | .vmulh h o => encL 0x023 h o.d.enc o.a.enc o.b.enc o.d.kind o.a.kind o.b.kind o.c
  | .vmin h o => encL 0x024 h o.d.enc o.a.enc o.b.enc o.d.kind o.a.kind o.b.kind o.c
  | .vmax h o => encL 0x025 h o.d.enc o.a.enc o.b.enc o.d.kind o.a.kind o.b.kind o.c
  | .vabs h o => encL 0x026 h o.d.enc o.a.enc o.b.enc o.d.kind o.a.kind o.b.kind o.c
  | .vneg h o => encL 0x027 h o.d.enc o.a.enc o.b.enc o.d.kind o.a.kind o.b.kind o.c
  | .and h o => encA 0x040 h o.d.enc o.a.enc o.b.enc
  | .or h o => encA 0x041 h o.d.enc o.a.enc o.b.enc
  | .xor h o => encA 0x042 h o.d.enc o.a.enc o.b.enc
  | .andn h o => encA 0x043 h o.d.enc o.a.enc o.b.enc
  | .not h o => encA 0x044 h o.d.enc o.a.enc 0xffff
  | .andi h o i => encA 0x045 h o.d.enc o.a.enc i.toNat
  | .ori h o i => encA 0x046 h o.d.enc o.a.enc i.toNat
  | .xori h o i => encA 0x047 h o.d.enc o.a.enc i.toNat
  | .shl h o => encA 0x048 h o.d.enc o.a.enc o.b.enc
  | .shr h o => encA 0x049 h o.d.enc o.a.enc o.b.enc
  | .sar h o => encA 0x04a h o.d.enc o.a.enc o.b.enc
  | .rol h o => encA 0x04b h o.d.enc o.a.enc o.b.enc
  | .shli h o i => encA 0x04c h o.d.enc o.a.enc i.toNat
  | .shri h o i => encA 0x04d h o.d.enc o.a.enc i.toNat
  | .sari h o i => encA 0x04e h o.d.enc o.a.enc i.toNat
  | .bfxZ h o lsb len => encA 0x050 h o.d.enc o.a.enc (len.toNat * 64 + lsb.toNat)
  | .bfxS h o lsb len => encA 0x051 h o.d.enc o.a.enc (len.toNat * 64 + lsb.toNat)
  | .bfi h o lsb len => encA 0x052 h o.d.enc o.a.enc (len.toNat * 64 + lsb.toNat)
  | .popc h o => encA 0x053 h o.d.enc o.a.enc 0xffff
  | .clz h o => encA 0x054 h o.d.enc o.a.enc 0xffff
  | .ctz h o => encA 0x055 h o.d.enc o.a.enc 0xffff
  | .brev h o => encA 0x056 h o.d.enc o.a.enc 0xffff
  | .vand h o => encL 0x060 h o.d.enc o.a.enc o.b.enc o.d.kind o.a.kind o.b.kind o.c
  | .vor h o => encL 0x061 h o.d.enc o.a.enc o.b.enc o.d.kind o.a.kind o.b.kind o.c
  | .vxor h o => encL 0x062 h o.d.enc o.a.enc o.b.enc o.d.kind o.a.kind o.b.kind o.c
  | .vnot h o => encL 0x063 h o.d.enc o.a.enc o.b.enc o.d.kind o.a.kind o.b.kind o.c
  | .vshl h o => encL 0x064 h o.d.enc o.a.enc o.b.enc o.d.kind o.a.kind o.b.kind o.c
  | .vshr h o => encL 0x065 h o.d.enc o.a.enc o.b.enc o.d.kind o.a.kind o.b.kind o.c
  | .vsar h o => encL 0x066 h o.d.enc o.a.enc o.b.enc o.d.kind o.a.kind o.b.kind o.c
  | .vpopc h o => encL 0x067 h o.d.enc o.a.enc o.b.enc o.d.kind o.a.kind o.b.kind o.c
  | .cmpEq h o => encA 0x080 h o.d.enc o.a.enc o.b.enc
  | .cmpNe h o => encA 0x081 h o.d.enc o.a.enc o.b.enc
  | .cmpLtS h o => encA 0x082 h o.d.enc o.a.enc o.b.enc
  | .cmpLtZ h o => encA 0x083 h o.d.enc o.a.enc o.b.enc
  | .cmpLeS h o => encA 0x084 h o.d.enc o.a.enc o.b.enc
  | .cmpLeZ h o => encA 0x085 h o.d.enc o.a.enc o.b.enc
  | .cmpiEq h o i => encA 0x08c h o.d.enc o.a.enc i.toNat
  | .cmpiLtS h o i => encA 0x08d h o.d.enc o.a.enc i.toNat
  | .cmpiLtZ h o i => encA 0x08e h o.d.enc o.a.enc i.toNat
  | .sel h o => encC 0x086 h o.d.enc o.a.enc o.b.enc o.c.enc 0 0
  | .movZ h o => encA 0x087 h o.d.enc o.a.enc 0xffff
  | .movS h o => encA 0x088 h o.d.enc o.a.enc 0xffff
  | .movi h d i => encI 0x089 h d.enc 0xffff i.toNat
  | .movih h d i => encI 0x08a h d.enc 0xffff i.toNat
  | .vwset h v src => encVwset h v src
  | .vwrd h d i => encA 0x091 h d.enc 0xffff i.toNat
  | .vcmp h o => encL 0x0a0 h o.dm.toNat o.a.enc o.b.enc 0 o.a.kind o.b.kind o.c
  | .vsel h o => encL 0x0a1 h o.d.enc o.a.enc o.b.enc o.d.kind o.a.kind o.b.kind o.c
  | .vmov h o => encL 0x0a2 h o.d.enc o.a.enc o.b.enc o.d.kind o.a.kind o.b.kind o.c
  | .fadd h o => encL 0x0c0 h o.d.enc o.a.enc o.b.enc o.d.kind o.a.kind o.b.kind o.c
  | .fsub h o => encL 0x0c1 h o.d.enc o.a.enc o.b.enc o.d.kind o.a.kind o.b.kind o.c
  | .fmul h o => encL 0x0c2 h o.d.enc o.a.enc o.b.enc o.d.kind o.a.kind o.b.kind o.c
  | .ffma h o => encL 0x0c3 h o.d.enc o.a.enc o.b.enc o.d.kind o.a.kind o.b.kind o.c
  | .fmin h o => encL 0x0c4 h o.d.enc o.a.enc o.b.enc o.d.kind o.a.kind o.b.kind o.c
  | .fmax h o => encL 0x0c5 h o.d.enc o.a.enc o.b.enc o.d.kind o.a.kind o.b.kind o.c
  | .fcmp h o => encL 0x0c6 h o.dm.toNat o.a.enc o.b.enc 0 o.a.kind o.b.kind o.c
  | .fdiv h o => encL 0x0c7 h o.d.enc o.a.enc o.b.enc o.d.kind o.a.kind o.b.kind o.c
  | .fsqrt h o => encL 0x0c8 h o.d.enc o.a.enc o.b.enc o.d.kind o.a.kind o.b.kind o.c
  | .fexp2T h o => encL 0x0c9 h o.d.enc o.a.enc o.b.enc o.d.kind o.a.kind o.b.kind o.c
  | .fabs h o => encL 0x0ca h o.d.enc o.a.enc o.b.enc o.d.kind o.a.kind o.b.kind o.c
  | .fneg h o => encL 0x0cb h o.d.enc o.a.enc o.b.enc o.d.kind o.a.kind o.b.kind o.c
  | .vperm h o => encL 0x100 h o.d.enc o.a.enc o.b.enc o.d.kind o.a.kind o.b.kind o.c
  | .vbcast h o => encL 0x101 h o.d.enc o.a.enc o.b.enc o.d.kind o.a.kind o.b.kind o.c
  | .vred h o => encL 0x103 h o.d.enc o.a.enc o.b.enc o.d.kind o.a.kind o.b.kind o.c
  | .vscan h o => encL 0x104 h o.d.enc o.a.enc o.b.enc o.d.kind o.a.kind o.b.kind o.c
  | .vcmpr h o => encL 0x105 h o.d.enc o.a.enc o.b.enc o.d.kind o.a.kind o.b.kind o.c
  | .vexpd h o => encL 0x106 h o.d.enc o.a.enc o.b.enc o.d.kind o.a.kind o.b.kind o.c
  | .mand h d a b => encA 0x107 h d.toNat a.toNat b.toNat
  | .mor h d a b => encA 0x108 h d.toNat a.toNat b.toNat
  | .mxor h d a b => encA 0x109 h d.toNat a.toNat b.toNat
  | .mnot h d a => encA 0x10a h d.toNat a.toNat 0xffff
  | .mset h d n => encA 0x10b h d.toNat 0xffff n.toNat
  | .mtestAny h d a => encA 0x10c h d.enc a.toNat 0xffff
  | .mtestAll h d a => encA 0x10d h d.enc a.toNat 0xffff
  | .mpopc h d a => encA 0x10e h d.enc a.toNat 0xffff
  | .mfirst h d a => encA 0x10f h d.enc a.toNat 0xffff
  | .fcvtBf h o => encL 0x140 h o.d.enc o.a.enc o.b.enc o.d.kind o.a.kind o.b.kind o.c
  | .fcvtF h o => encL 0x141 h o.d.enc o.a.enc o.b.enc o.d.kind o.a.kind o.b.kind o.c
  | .icvtF h o => encL 0x142 h o.d.enc o.a.enc o.b.enc o.d.kind o.a.kind o.b.kind o.c
  | .fcvtI h o => encL 0x143 h o.d.enc o.a.enc o.b.enc o.d.kind o.a.kind o.b.kind o.c
  | .qnt h o => encL 0x144 h o.d.enc o.a.enc o.b.enc o.d.kind o.a.kind o.b.kind o.c
  | .dqnt h o => encL 0x145 h o.d.enc o.a.enc o.b.enc o.d.kind o.a.kind o.b.kind o.c
  | .bpack h o => encL 0x146 h o.d.enc o.a.enc o.b.enc o.d.kind o.a.kind o.b.kind o.c
  | .bunpk h o => encL 0x147 h o.d.enc o.a.enc o.b.enc o.d.kind o.a.kind o.b.kind o.c
  | .nop h => encA 0x180 h 0xffff 0xffff 0xffff
  | .nopW h => encI 0x181 h 0xffff 0xffff 0
  | .br h i => encI 0x182 h 0xffff 0xffff i.toNat
  | .bz h a i => encI 0x183 h 0xffff a.enc i.toNat
  | .bnz h a i => encI 0x184 h 0xffff a.enc i.toNat
  | .bmany h m i => encI 0x185 h 0xffff m.toNat i.toNat
  | .bmnone h m i => encI 0x186 h 0xffff m.toNat i.toNat
  | .call h d i => encI 0x187 h d.enc 0xffff i.toNat
  | .ret h a => encA 0x188 h 0xffff a.enc 0xffff
  | .brx h a b => encA 0x189 h 0xffff a.enc b.enc
  | .loop h d i => encI 0x18a h d.enc 0xffff i.toNat
  | .exit h => encA 0x18b h 0xffff 0xffff 0xffff
  | .casc h o n dir => encC 0x18c h o.d.enc o.a.enc 0xffff 0xffff (dir.toNat * 16 + n.toNat) 0
  | .cascx h => encC 0x18d h 0xffff 0xffff 0xffff 0xffff 0 0
  | .cascxStop h => encC 0x18d h 0xffff 0xffff 0xffff 0xffff 1 0
  | .cdis h d => encA 0x18e h d.enc 0xffff 0xffff
  | .ldZ h o => encM 0x1c0 h o
  | .ldS h o => encM 0x1c1 h o
  | .st h o => encM 0x1c2 h o
  | .ldAcqZ h o => encM 0x1c3 h o
  | .ldAcqS h o => encM 0x1c4 h o
  | .stRel h o => encM 0x1c5 h o
  | .pref h o => encM 0x1c6 h o
  | .stashMap h o e => encC 0x1c7 h o.d.enc o.a.enc o.b.enc 0xffff e.toNat 0
  | .stashFlush h o => encC 0x1c8 h o.d.enc o.a.enc o.b.enc 0xffff 0 0
  | .stashEvict h o => encC 0x1c9 h o.d.enc o.a.enc o.b.enc 0xffff 0 0
  | .spill h o => encM 0x1ca h o
  | .fill h o => encM 0x1cb h o
  | .amo h o => encM 0x200 h o
  | .amoAr h o => encM 0x201 h o
  | .amoAgg h o => encM 0x202 h o
  | .fence h sc => encA 0x203 h 0xffff 0xffff sc.enc
  | .fenceAll h sc => encA 0x204 h 0xffff 0xffff sc.enc
  | .wsig h o => encC 0x205 h o.d.enc o.a.enc o.b.enc o.c.enc (o.size.toNat + 8 * b2n o.f8 + 16 * o.fn.toNat + 256 * o.scope.enc) 0
  | .pinwait h o => encC 0x206 h o.d.enc o.a.enc o.b.enc 0xffff 0 0
  | .ctpl h o t => encC 0x240 h o.d.enc o.a.enc 0xffff 0xffff t.toNat 0
  | .cpy h o => encC 0x241 h 0xffff o.a.enc o.b.enc o.c.enc (o.tpl.toNat * 8 + o.ch.toNat) 0
  | .cpyCmp h o m => encC 0x242 h 0xffff o.a.enc o.b.enc o.c.enc (o.tpl.toNat * 8 + o.ch.toNat) m.toNat
  | .cres h d i => encA 0x243 h d.enc 0xffff i.toNat
  | .cabt h d i => encA 0x244 h d.enc 0xffff i.toNat
  | .cstat h d i => encA 0x245 h d.enc 0xffff i.toNat
  | .cstatClr h d i => encA 0x245 h d.enc 0xffff (8 + i.toNat)
  | .sub h o tag ch => encI 0x246 h o.d.enc o.a.enc (ch.toNat * 4096 + tag.toNat)
  | .unsub h d tag => encI 0x247 h d.enc 0xffff tag.toNat
  | .mcrd h o tag n => encC 0x248 h o.d.enc o.a.enc o.b.enc 0xffff 0 (n.toNat * 4096 + tag.toNat)
  | .bdef h o => encC 0x280 h o.d.enc o.a.enc 0xffff 0xffff 0 0
  | .bfree h o => encA 0x281 h o.d.enc o.a.enc 0xffff
  | .pdef h o => encC 0x282 h o.d.enc o.a.enc o.b.enc 0xffff 0 0
  | .pdel h d i => encA 0x283 h d.enc 0xffff i.toNat
  | .pen h d i => encA 0x284 h d.enc 0xffff i.toNat
  | .pdis h d i => encA 0x285 h d.enc 0xffff i.toNat
  | .send h o z => encC 0x286 h o.d.enc o.a.enc 0xffff 0xffff z.toNat 0
  | .sendRel h o z sc => encC 0x287 h o.d.enc o.a.enc 0xffff 0xffff (sc.enc * 4 + z.toNat) 0
  | .sendRelAll h o z sc => encC 0x288 h o.d.enc o.a.enc 0xffff 0xffff (sc.enc * 4 + z.toNat) 0
  | .sendc h o => encC 0x289 h o.d.enc o.a.enc 0xffff 0xffff 0 0
  | .arm h o => encC 0x28a h o.d.enc o.a.enc 0xffff 0xffff 0 0
  | .bstat h o => encA 0x28b h o.d.enc o.a.enc 0xffff
  | .fork h o k i => encC 0x2c0 h o.d.enc o.a.enc o.b.enc o.c.enc k.toNat i.toNat
  | .rnext h o => encA 0x2c1 h o.d.enc o.a.enc 0xffff
  | .cancel h o i => encA 0x2c2 h o.d.enc o.a.enc i.toNat
  | .cancelClr h o i => encA 0x2c3 h o.d.enc o.a.enc i.toNat
  | .husked h o => encA 0x2c4 h o.d.enc o.a.enc 0
  | .gang h o => encC 0x2c5 h o.d.enc o.a.enc 0xffff 0xffff 0 0
  | .gangEnd h d => encC 0x2c5 h d.enc 0xffff 0xffff 0xffff 1 0
  | .prio h d i => encA 0x2c6 h d.enc 0xffff i.toNat
  | .tdef h o i => encC 0x300 h o.d.enc o.a.enc 0xffff 0xffff i.toNat 0
  | .mx h a => encC 0x301 h 0xffff a.enc 0xffff 0xffff a.kind 0
  | .mxqStatus h d => encA 0x302 h d.enc 0xffff 0
  | .mxqResume h d => encA 0x302 h d.enc 0xffff 1
  | .mxqAbort h d => encA 0x302 h d.enc 0xffff 2
  | .addw h o kind sg k => encC 0x303 h o.d.enc o.a.enc o.b.enc o.c.enc (kind.toNat + 4 * b2n sg) k.toNat
  | .crd h o bf => encC 0x304 h o.d.enc o.a.enc o.b.enc 0xffff (b2n bf) 0
  | .cclr h o n => encC 0x305 h o.d.enc o.a.enc 0xffff 0xffff 0 n.toNat
  | .actl h o t => encC 0x306 h o.d.enc o.a.enc 0xffff 0xffff t.toNat 0
  | .capk h a i => encI 0x307 h 0xffff a.enc i.toNat
  | .xgo h o x => encC 0x340 h o.d.enc o.a.enc 0xffff 0xffff (b2n x) 0
  | .xsnap h o x => encC 0x341 h o.d.enc o.a.enc 0xffff 0xffff (b2n x) 0
  | .xrepl h o x => encC 0x342 h o.d.enc o.a.enc o.b.enc 0xffff (b2n x) 0
  | .mrgJoin h o tag x n => encC 0x343 h o.d.enc o.a.enc 0xffff 0xffff (4 * b2n x + 8 * b2n n) tag.toNat
  | .mrgPut h o tag => encC 0x343 h o.d.enc o.a.enc 0xffff 0xffff 1 tag.toNat
  | .mrgLeave h d tag => encC 0x343 h d.enc 0xffff 0xffff 0xffff 2 tag.toNat
  | .trap h a i => encA 0x380 h 0xffff a.enc i.toNat
  | .resume h o => encA 0x381 h o.d.enc o.a.enc o.b.enc
  | .kill h o => encA 0x382 h o.d.enc o.a.enc 0xffff
  | .csrr h d i => encA 0x383 h d.enc 0xffff i.toNat
  | .csrw h a r => encA 0x384 h 0xffff a.enc r.toNat
  | .ringrtyWrite h a => encA 0x384 h 0xffff a.enc 15
  | .savectlWrite h a => encA 0x384 h 0xffff a.enc 14
  | .dqspillWrite h a => encA 0x384 h 0xffff a.enc 8
  | .tlbinv h o sc => encC 0x385 h o.d.enc o.a.enc o.b.enc 0xffff sc.toNat 0
  | .waymask h o i => encA 0x386 h o.d.enc o.a.enc i.toNat
  | .selftest h o k => encC 0x387 h o.d.enc o.a.enc 0xffff 0xffff k.toNat 0
  | .nestMov h o => encN 0x3c0 h o
  | .nestAdd h o => encN 0x3c1 h o
  | .nestSub h o => encN 0x3c2 h o
  | .nestMul h o => encN 0x3c3 h o
  | .nestMin h o => encN 0x3c4 h o
  | .nestMax h o => encN 0x3c5 h o
  | .nestMacc h o => encN 0x3c6 h o
  | .nestRsum h o => encN 0x3c7 h o
  | .nestRmax h o => encN 0x3c8 h o
  | .nestRmin h o => encN 0x3c9 h o
  | .nestBeat | .laneBeatWrite | .resultWriteback | .loadReturn | .icacheFill | .forwardedIssue => 0
  | .cascFormed | .residency | .priorityAgeing | .livePreempt | .contextSaved | .owedReturnSaved => 0
  | .contextRestore | .matrixPark | .parkedRunResume | .sendAccept | .sendRetry | .sendRelease => 0
  | .sendAck | .basinExamine | .ringRefillReturn | .dequeTake | .thirstRound | .thirstBackoffExpiry => 0
  | .thirstArrival | .stealAnswer | .trackerChange | .launchDispatch | .huskRequest | .huskCopyDone => 0
  | .ttSlot | .ttCompletionReport | .wcDrain | .writeAck | .fenceComplete | .tlbWalkDone => 0
  | .l2Request | .l2Fill | .remotePoolAccess | .eccError | .selftestDone | .tlbinvComplete => 0
  | .pinwaitDone | .wayRemoval | .copyAccept | .copySourceRead | .copyReadReturn | .landingWrite => 0
  | .guardEntryFree | .mcJoinArrival | .mcJoinAck | .mcStreamRequest | .mcStreamLineSend | .mcReplicate => 0
  | .mcCopyDrop | .mcLineLand | .mcCatchupRead | .mcStreamIdle | .routerForward | .inputTimerExpiry => 0
  | .acornMove | .acornCapture | .overflowDelivery | .drainRecord | .governorReport | .subnetEnable => 0
  | .subnetDisable | .linkRetry | .malformedPacket | .laucInbound | .laucCredit | .mergePartial => 0
  | .mergeJoinArrival | .matrixAccept | .matrixStep | .systolicWaitTimeout | .precisionMessage | .chainOutput => 0
  | .cisternDeposit | .matrixCompletion | .matrixFreeze | .matrixSelftest | .addwUpdate | .chainBlockRead => 0
  | .gateListArrival | .routeToken | .snapshotTake | .gather | .groupPlace | .combineSlotFill => 0
  | .layerDone | .tileGate | .tileWake | .stealWakeExpiry | .messageWindowWrite | .memoryWindowAccess => 0
  | .refusedHostAccess | .journalRegionRead | .journalWrite | .jtailWrite | .timeadjWrite | .hostRegisterWrite => 0
  | .pageFaultForward | .pageFaultReply | .overflowEntryFree | .ptpLockStep | .mboxRelease | .mboxNetctl => 0
  | .mboxCounter | .mboxOverflowCounts | .mboxFreeOverflow | .mboxSelftest | .mboxEvictSlot | .mboxQuote => 0
  | .mboxFramePool | .mboxGrantRange | .powerOn | .thermalThrottle | .thermalTrip | .powerLoss => 0
  | .temperatureFall | .ptpTimeAdjustment | .thresholdTuning | .drainRingReadback | .trackerAcknowledgement | .statusResultWrite => 0
  | .writeRefusalResend => 0

end Sys2Proof
end

