-- ==== Sys2Proof/Machine/State.lean ====
section
/-!
DEFINITION. The state of the device as plain data: the jets, the tiles, the stops of the network, the dies, the
host interface agent and physical memory, each field citing the rule that names it; the reasons a step can
stop; and the state after reset. Times are counted in network cycles (nc), two to a tile cycle (R1).
-/

namespace Sys2Proof.Machine

/-- Why the machine stops with a fault. -/
inductive Fault where
  /-- Raised by `step` when the turn names a jet slot in which no jet runs. No step of the machine leads there:
  the fault only makes `step` total. Safe. -/
  | noJet
  deriving DecidableEq, Repr

/-- Why the machine gives an instruction no meaning. -/
inductive Refusal where
  /-- Raised by `exec` for an instruction whose meaning is not written yet. Safe. -/
  | notModelled (mnemonic : String)
  deriving DecidableEq, Repr

/-- Bytes by address, rising, an unlisted byte reading 0 (R209 for the pool; log 1 for HBM). -/
abbrev Memory := List Host.Cell

/-- A frame of the slice file: frame-relative slice `s` is bits [4s+3:4s] (R5, R59, R60). -/
structure Frame where
  bits : Nat
  deriving DecidableEq, Repr

/-- Page kinds (R212). -/
inductive PageKind where
  | strict | release | free | io
  deriving DecidableEq, Repr

/-! ### Work records -/

/-- A range task record (R182). -/
structure Task where
  done : BitVec 32
  entry : BitVec 64
  tindex : BitVec 4
  ttile : BitVec 10
  tracked : Bool
  barrier : Bool
  frame : BitVec 7
  role : BitVec 2
  prio : BitVec 3
  inst : BitVec 16
  grain : BitVec 24
  hi : BitVec 48
  lo : BitVec 48
  deriving DecidableEq, Repr

/-- A jet's live range (R84, R186). -/
structure LiveRange where
  has : Bool
  lo : BitVec 48
  hi : BitVec 48
  grain : BitVec 24
  tracked : Bool
  ttile : BitVec 10
  tindex : BitVec 4
  deriving DecidableEq, Repr

def LiveRange.none : LiveRange := ⟨false, 0, 0, 0, false, 0, 0⟩

/-- A deque entry: its number, a task and whether it may be taken yet (R185: a tracked task waits for its tracker). -/
structure DqEntry where
  id : Nat
  task : Task
  takable : Bool
  deriving DecidableEq, Repr

/-- Who sent a message (R167). -/
inductive Src where
  | tile (n : Nat)
  | host
  | lauc (port dev tile : Nat)
  /-- The host interface agent of another device. -/
  | peerHost (port dev : Nat)
  deriving DecidableEq, Repr

/-- What a send does at its basin (R166). -/
inductive SendOp where
  | data | add | arm
  deriving DecidableEq, Repr

/-- A send on its way (R167). `rel` is the scope of the release it carries, `relAll` whether it covers free pages;
`tt` is the time-triggered table entry it was launched from (R206); `buffered`: a send to the own tile that stands in the outbound buffer (R171);
`via` the Lauc port by which a report goes back (R168). -/
structure SendMsg where
  handle : BitVec 32
  src : Src
  seq : Nat
  base : Nat
  inst : BitVec 16
  op : SendOp
  size : Nat
  payload : Nat
  rel : Option Scope
  relAll : Bool
  tt : Option Nat
  hostEntry : Option (Nat × Nat)
  buffered : Bool := false
  via : Option Nat := none
  deriving DecidableEq, Repr

/-- A message held in a basin, matchable from the tc `from_` (R173); `bad` are its poisoned 8 B words (R224). -/
structure Held where
  from_ : Nat
  payload : Nat
  size : Nat
  inst : BitVec 16
  src : Src
  rel : Option Scope
  relAll : Bool
  tt : Option Nat
  bad : List Nat
  deriving DecidableEq, Repr

/-! ### Jets -/

inductive JetStatus where
  /-- No jet stands in the slot. -/
  | free
  | running
  /-- Stopped by a trap (R349). -/
  | suspended
  /-- Being saved at a pre-emption (R355). -/
  | saving
  deriving DecidableEq, Repr

/-- Slices and masks an instruction writes, in order: (start, width, value) and (mask, value). -/
structure Write where
  sl : List (Nat × Nat × Nat)
  masks : List (Nat × BitVec 256)
  deriving DecidableEq, Repr

/-- A result an issued instruction still owes (R67, R92, R131, R132). `w` holds the writes still to be made, one
entry a beat; `dst` and `mdst` the slices and masks they cover; `flags` the flags ORed with each beat. A load's `w`
is empty until its value returns; `defer` marks a result whose writes are held to its last beat (R133); `ord` is its place in program order. -/
structure Owed where
  id : Nat
  fixed : Bool
  due : Nat
  dst : List (Nat × Nat)
  mdst : List Nat
  w : List Write
  flags : List (BitVec 5)
  issued : Nat
  pc : BitVec 64
  defer : Bool
  ord : Nat
  deriving DecidableEq, Repr

/-- Source slices that are read after issue (R67): until the tc named. -/
structure PendRead where
  rng : List (Nat × Nat)
  till : Nat
  deriving DecidableEq, Repr

/-- A beat of a `nest` whose writes have not landed: its slices, its pool elements (address, value), its flags (R151). -/
structure NestLand where
  sl : List (Nat × Nat × Nat)
  pool : List (Nat × Nat)
  flags : BitVec 5
  deriving DecidableEq, Repr

/-- A `nest` that is not over (R151, R152): the slices that fixed-latency results owed at its issue change, with the values it reads there (R92);
its owed result; its place among the accesses of its jet; the pool it reaches; its jet's key, slot, instance and
identifier; the instruction and its function code; the views latched at issue in the order D, A, B, and its mask; the granules it reads; the
indices of the next beat; a reduction's combined value, whether it has one, the current level-0 block (`none` for an inactive element) and
the flags so far; the beats whose writes have not landed; whether it was stopped (an interrupted `nest`), and whether its last beat has
started; the results it owed before it was stopped and executed again, under which its earlier beats may still land. -/
structure NestSt where
  id : Nat
  num : Nat
  pool : Nat
  key : Nat
  slot : Nat
  inst : BitVec 16
  jetid : BitVec 16
  pc : BitVec 64
  fn : Nat
  o : NestF
  vd : BitVec 64
  va : BitVec 64
  vb : BitVec 64
  mask : BitVec 256
  src : List (Nat × Nat)
  old : List (Nat × Nat × Nat)
  idx : List Nat
  acc : Int
  accSet : Bool
  blk : List (Option Nat)
  fl : BitVec 5
  owed : List NestLand
  stopped : Bool
  finished : Bool
  was : List Nat := []
  deriving DecidableEq, Repr

/-- The progress of a `spill` or `fill` (R82): the next beat. -/
structure SpillSt where
  pc : BitVec 64
  fill : Bool
  o : MemF
  vd : BitVec 64
  na : Nat
  beat : Nat
  owedId : Nat
  stopped : Bool
  deriving DecidableEq, Repr

/-- An instruction a suspended jet holds as interrupted (R388), the owed results it will replace, and its place in program order. -/
structure Interrupted where
  pc : BitVec 64
  owedIds : List Nat
  ord : Nat
  deriving DecidableEq, Repr

/-- A fence that has not completed (R270): accesses with a smaller number that it covers must be performed; `ripe` once they
were at the end of a tc. -/
structure FenceSt where
  jet : Nat
  upTo : Nat
  all : Bool
  sc : Scope
  ripe : Bool
  deriving DecidableEq, Repr

/-- Membership of a cascade (R98, R99). -/
inductive CascRole where
  | none
  | leader (dir n : Nat)
  | follower (leaderTile leaderKey hops : Nat)
  deriving DecidableEq, Repr

/-- One jet slot (R84). `fwdQ` holds forwarded instructions, each with the tc from which it may issue, the leader's pc after it and its outcome
there (R99, R100). `start` is the cause (1 illegal, 2 fetch alignment) that its entry raises before its first
instruction (R28); a slot of status `free` is free from the tc `freeAt` on (R88); `poison` are the poisoned 8 B words of its frame, 16 slices each
(R224). -/
structure Jet where
  status : JetStatus
  key : Nat
  pc : BitVec 64
  entry : BitVec 64
  frame : Frame
  granBase : Nat
  grans : Nat
  views : Tbl (BitVec 64)
  masks : Tbl (BitVec 256)
  fpflags : BitVec 5
  range : LiveRange
  cdis : Bool
  yieldMark : Bool
  wait : Nat
  stallTill : Nat
  owed : List Owed
  pend : List PendRead
  role : BitVec 2
  level : BitVec 3
  ceiling : BitVec 3
  inst : BitVec 16
  seq : BitVec 13
  resident : Nat
  firstRes : Nat
  interrupted : List Interrupted
  replay : List Interrupted
  contPc : Option (BitVec 64)
  replayOrd : Nat
  spill : Option SpillSt
  casc : CascRole
  fwdQ : List (Nat × Instr × BitVec 64 × Nat)
  gang : Option (Nat × Nat)
  start : Option Nat
  freeAt : Nat
  poison : List Nat
  deriving DecidableEq, Repr

/-- The contents of a jet slot no jet has used (R84's initial values). -/
def Jet.empty : Jet :=
  { status := .free, key := 0, pc := 0, entry := 0, frame := ⟨0⟩, granBase := 0, grans := 0, views := [], masks := [],
    fpflags := 0, range := .none, cdis := false, yieldMark := false, wait := 0, stallTill := 0, owed := [], pend := [],
    role := 0, level := 0, ceiling := 0, inst := 0, seq := 0, resident := 0, firstRes := 0, interrupted := [], replay := [],
    contPc := none, replayOrd := 0, spill := none, casc := .none, fwdQ := [], gang := none, start := none, freeAt := 0, poison := [] }

/-- A fired record in the ready queue (R86), or a saved context waiting to return (R358). `bad` are the words of its frame that come poisoned (R224). -/
structure Ready where
  id : Nat
  entry : BitVec 64
  level : BitVec 3
  inst : BitVec 16
  grans : Nat
  role : BitVec 2
  arrival : Nat
  waitFrom : Nat
  bypass : Nat
  payloads : List (Nat × Nat × Option Nat)
  task : Option Task
  saved : Option Nat
  badHeader : Bool
  bad : List Nat
  deriving DecidableEq, Repr

/-- A save-area entry in use (R353 to R358): the jet and the slot it had; the tc in which its save ends, 0 while the pipeline drains; whether
it is saved; the channels suspended for it; the run parked for it, as word 9 has it; the pool addresses of its record and of the frame in it, and
the record's bytes. -/
structure SaveEntry where
  jet : Jet
  slot : Nat
  doneAt : Nat
  saved : Bool
  chans : List Nat
  park : Nat := 0
  recAt : Nat
  frameAt : Nat
  bytes : Nat
  deriving DecidableEq, Repr

/-! ### Accesses in flight -/

/-- What an access does (R227, R228, R229, R82, R232, R320). -/
inductive AccOp where
  | load (signed : Bool)
  | store
  | amo
  | agg (elems : List Nat)
  | fillBeat
  | wsigFlag
  | crd (bf : Bool)
  | addw (special : Nat) (num exp : Int) (block : Nat)
  | pref
  deriving DecidableEq, Repr

/-- The way a part of an access takes: a pool (R218), the L1 and the write-combining buffer (R216), the stash (R219), or
the home itself. -/
inductive Path where
  | pool | cached | stash | bypass
  deriving DecidableEq, Repr

/-- One part of an access: within one 128 B line, so within one page or one pool (R208, R215). `pool` is the tile of a pool
part; `addr` a pool byte address or a physical address. `sent`: it has left for its destination, or stands in the
write-combining buffer; `acked`: its value or acknowledgement is back; `own`: the tile's buffered bytes that are before it; `stale`: the line it reads may be older than
what the tile has seen since, so it does not join the L1 (R262); `free`: its page, whatever the override, is a free page (R216); `page`: the page of
its translation, base and size (R234). -/
structure Part where
  off : Nat
  nb : Nat
  va : Nat
  kind : PageKind
  path : Path
  pool : Nat
  addr : Nat
  sent : Bool
  performed : Bool
  acked : Bool
  own : Nat × Nat := (0, 0)
  stale : Bool := false
  free : Bool := false
  page : Nat × Nat := (0, 0)
  deriving DecidableEq, Repr

/-- An access that is not over (R261, R388). `jet` is the key of its jet, 0 for a prefetch, with its slot, instance and identifier; `id` its place in the order of
issue; `from_` the tc from which it is translated; `stage` 0 before, 1 during its walk, 2 when it is translated and checked, 3
when it has faulted and may be executed again; `gather` the source slices whose granules are still in pending-read, 16 leaving a tc (R82): `data` has their values of the issue tc (R92); `rep` the address a
fault record gives; `enables` the nibbles a spill beat writes (R81); `cause` a cause found at its destination; `dst` the slices
its value still goes to; `direct` an access that is performed at the home (R232, R267), `whole` one that is one part (R319, R320). -/
structure Access where
  id : Nat
  jet : Nat
  slot : Nat
  inst : BitVec 16
  jetid : BitVec 16
  pc : BitVec 64
  op : AccOp
  va : Nat
  nb : Nat
  rep : Nat
  sc : Scope
  acq : Bool
  rel : Bool
  ov : KindOv
  hint : Hint
  direct : Bool
  whole : Bool
  afn : Nat
  asigned : Bool
  data : Nat
  enables : Nat
  cmp : Nat
  dst : List (Nat × Nat)
  owedId : Nat
  parts : List Part
  from_ : Nat
  stage : Nat
  gather : List (Nat × Nat)
  cause : Nat
  value : Nat
  flags : BitVec 5
  beat : Option Nat
  deriving DecidableEq, Repr

/-- A line of the L1 data cache, youngest first in the list (R216); `free` says that its page is a free page; `bad` its poisoned 8 B words (R224). -/
structure L1Line where
  line : Nat
  data : Nat
  keep : Bool
  free : Bool
  bad : List Nat
  deriving DecidableEq, Repr

/-- A write-combining entry (R216): the line, its byte enables and data, the tc it opened, the stores in it, and whether a
release or fence covers one of them. -/
structure WcEntry where
  line : Nat
  en : Nat
  data : Nat
  opened : Nat
  ids : List Nat
  due : Bool
  deriving DecidableEq, Repr

/-- A TLB entry, youngest first (R213). -/
structure TlbEntry where
  vbase : Nat
  size : Nat
  pbase : Nat
  kind : PageKind
  hc : Bool
  r : Bool
  w : Bool
  x : Bool
  deriving DecidableEq, Repr

/-- A line of the instruction cache, 128 B, youngest first (R29). -/
structure ILine where
  va : Nat
  data : Nat
  deriving DecidableEq, Repr

/-- A stash line (R219); `free` says that its page is a free page; `bad` are its poisoned 8 B words (R224); `keep` that
it is marked keep (R230). -/
structure StashLine where
  va : Nat
  pa : Nat
  data : Nat
  owned : Bool
  free : Bool
  bad : List Nat := []
  keep : Bool := false
  deriving DecidableEq, Repr

/-! ### Weir -/

inductive BasinKind where
  | message | counter | engine
  deriving DecidableEq, Repr

/-- A basin (R158, R159). `ring` holds what the weir keeps of each spilled message besides its bytes, which lie in the
ring in memory. -/
structure Basin where
  kind : BasinKind
  msize : Nat
  reserve : Nat
  ringEn : Bool
  ringLog : Nat
  ringBase : BitVec 64
  engCopy : Bool
  slots : List Held
  ring : List Held
  ringHead : Nat
  refilling : Bool
  ringStopped : Bool
  overflowed : Nat
  count : BitVec 64
  threshold : BitVec 64
  rp : Nat
  relScope : Option Scope
  deriving DecidableEq, Repr

/-- A pattern (R174). `grans` is 0 while its body header is still being read (R175); `held` is the gang, the member and the slot it fires into (R203);
`by_` the owed result of the `pdef` that defined it. -/
structure Pattern where
  entry : BitVec 64
  patch : BitVec 64
  inst : BitVec 16
  basins : List Nat
  inherit : Bool
  rotate : Bool
  enable : Bool
  action : Bool
  engCopy : Bool
  prio : BitVec 3
  grans : Nat
  role : BitVec 2
  badHeader : Bool
  command : BitVec 512
  held : Option (Nat × Nat × Nat)
  by_ : Nat
  deriving DecidableEq, Repr

/-- An entry of the resequencing table with the sends it holds (R169); `gone` gives the numbers of held sends that a `bfree` has discarded. -/
structure Reseq where
  src : Src
  basin : BitVec 32
  next : Nat
  held : List SendMsg
  gone : List Nat
  deriving DecidableEq, Repr

/-- An outbound buffer entry (R171): the send, the access number its release waits below, and whether it is out. -/
structure OutEntry where
  m : SendMsg
  jet : Nat
  upTo : Nat
  released : Bool
  retry : Bool
  issued : Nat
  deriving DecidableEq, Repr

/-- A sender window (R169): next number and the unacknowledged numbers, oldest first. -/
structure SendWin where
  next : Nat
  unacked : List Nat
  deriving DecidableEq, Repr

/-- The weir. `firedAt` is the tc after its last firing (R173). `asks` are the `bstat`s not answered yet: the tc of the answer, the slot and the result
that wait, and the handle (R172, R181). `nexts` gives, for a source and a basin, the number of the next send to be accepted (R169, log 14). -/
structure Weir where
  gens : Tbl Nat
  basins : Tbl (Option Basin)
  patterns : Tbl (Option Pattern)
  examine : List (Nat × Nat)
  blocked : List Nat
  firedAt : Nat
  localIn : List (Nat × SendMsg)
  netIn : List SendMsg
  reseq : List Reseq
  nexts : List (Src × BitVec 32 × Nat)
  outbound : List OutEntry
  wins : Tbl SendWin
  asks : List (Nat × Nat × Nat × BitVec 32)
  deriving DecidableEq, Repr

/-! ### Engines of a tile -/

inductive ChanState where
  | idle | landing | frozen | aborted | done
  deriving DecidableEq, Repr

/-- What a landing channel serves (R236, R252, R257). -/
inductive ChanUse where
  | copy | matrix | mcast | gather (chain group : Nat)
  deriving DecidableEq, Repr

/-- A level of a copy template (R237), its extents as counts. -/
structure TplLevel where
  dstr : Int
  dext : Nat
  sstr : Int
  sext : Nat
  deriving DecidableEq, Repr

/-- A copy template (R237), its element size in bytes, its levels from the innermost. -/
structure Template where
  rowlvl : Nat
  esize : Nat
  levels : List TplLevel
  deriving DecidableEq, Repr

/-- A copy command (R239) with its source, its instance and the issuer's release point (R271). `ahead` are the bytes of the own pool that a local
command will land in: its jet's later reads of them see what it lands (R271, R277). -/
structure CopyCmd where
  img : BitVec 512
  checked : Bool
  issuer : Src
  inst : BitVec 16
  jet : Nat
  upTo : Nat
  arrived : Nat
  ahead : Option (Nat × Nat)
  deriving DecidableEq, Repr

/-- A source piece that the engine has read and not landed, or that is being read (R242): its value, or the fault it met (cause and address), once the
read is performed, and the tc from which it may land: 2^64 while it is on its way back; before, 1 says that the guard has stalled it. `num` is the number
that its packet carries. -/
structure Piece where
  elem : Nat
  off : Nat
  nb : Nat
  data : Option Nat
  from_ : Nat
  bad : Option (Nat × Nat)
  num : Nat := 0
  deriving DecidableEq, Repr

/-- A landing write that the matrix engine has ready (R316): its address, bytes and data, the tc from which it may land, the watermark
after it and the outputs that end with it. -/
structure LandWrite where
  va : Nat
  nb : Nat
  data : Nat
  from_ : Nat
  wmAfter : Nat
  outs : Nat
  deriving DecidableEq, Repr

/-- A landing channel (R236, R245). Its window is `[winLo, winHi)` where its bytes stand, in a pool or in memory, and begins at the
virtual address `winVa`; `guarded` says that the own pool's guard holds it, `needGuard` that it still waits for an entry of another
pool's table (R248). A copy moves `total` elements by the template `tpl` from `src` to `dst`, and where `cmp` is set those of the
source rows `rows`; a gather of a chain moves the elements `elems`, each by its source and destination offset (R338); `next` is the next element in destination order, `landed` its bytes already landed, `readNext` and `readOff` the
next read; `flying` says that a landing write is on its way. `accepted` orders channels by acceptance, in tc `from_`. -/
structure Channel where
  state : ChanState
  use : ChanUse
  wm : BitVec 64
  winLo : Nat
  winHi : Nat
  winVa : Nat
  count : Nat
  status : Nat
  done : BitVec 32
  inst : BitVec 16
  src : Nat
  dst : Nat
  tpl : Template
  cmp : Bool
  rows : List Nat
  elems : List (Nat × Nat)
  total : Nat
  next : Nat
  landed : Nat
  readNext : Nat
  readOff : Nat
  pieces : List Piece
  writes : List LandWrite
  flying : Bool
  accepted : Nat
  from_ : Nat
  jet : Nat
  suspended : Bool
  guarded : Bool
  needGuard : Bool
  deriving DecidableEq, Repr

def Channel.idle : Channel :=
  { state := .idle, use := .copy, wm := 0, winLo := 0, winHi := 0, winVa := 0, count := 0, status := 0, done := 0, inst := 0, src := 0,
    dst := 0, tpl := ⟨0, 1, []⟩, cmp := false, rows := [], elems := [], total := 0, next := 0, landed := 0, readNext := 0, readOff := 0, pieces := [],
    writes := [], flying := false, accepted := 0, from_ := 0, jet := 0, suspended := false, guarded := false, needGuard := false }

/-- A guard-table entry of another tile's channel (R248). -/
structure RemoteGuard where
  tile : Nat
  chan : Nat
  lo : Nat
  hi : Nat
  wm : Nat
  state : ChanState
  accepted : Nat
  deriving DecidableEq, Repr

/-- What a pool access does. -/
inductive PoolOp where
  | read
  | write (en data : Nat)
  | atomic (afn : Nat) (asigned : Bool) (data cmp : Nat)
  /-- A landing write of another tile's channel, and where its guard entry's watermark then stands (R248). -/
  | land (chan data pos : Nat)
  /-- An addend for the cistern (R319): 0 finite, 1 +∞, 2 −∞, 3 NaN; its value is num · 2^exp. -/
  | addw (special : Nat) (num exp : Int) (block : Nat)
  deriving DecidableEq, Repr

/-- An access at the pool that performs it (R218): the device and tile it came from, the requester's numbers, its bytes, and for
a write its nibble enables and data, for an atomic its function, operand and compare value; ready from the network cycle
`ready`; `waited` once the guard has stalled it, and `ripe` when the guard let it pass at the end of a tc (R246). -/
structure PoolReq where
  dev : Nat
  tile : Nat
  acc : Nat
  part : Nat
  op : PoolOp
  addr : Nat
  nb : Nat
  ready : Nat
  waited : Bool
  ripe : Bool
  deriving DecidableEq, Repr

/-- A multicast subscription (R256, R257, R259, R381): its record, the physical addresses of its lines and its home; the result the
join's acknowledgement settles; the acceptance of its channel; `gone` once `unsub` has removed it with its join still on the way. Of its stream: the mask, the
highest line seen and when, whether it is over; the lines held and not landed, those to be read and being read, the next to land. -/
structure Subscr where
  tag : Nat
  chan : Nat
  lines : Nat
  dst : Nat
  src : Nat
  home : Nat
  pas : List Nat
  slot : Nat
  owedId : Nat
  accepted : Nat
  acked : Bool
  gone : Bool
  started : Bool
  mask : BitVec 64
  lastIx : Nat
  lastPkt : Nat
  over_ : Bool
  got : List (Nat × Nat)
  wanted : List Nat
  asked : List Nat
  next : Nat
  deriving DecidableEq, Repr

/-- An `mcrd` whose request waits for its jet's accesses (R258, R271). -/
structure McWait where
  jet : Nat
  upTo : Nat
  tag : Nat
  src : Nat
  mask : BitVec 64
  slot : Nat
  owedId : Nat
  pas : List Nat
  from_ : Nat
  deriving DecidableEq, Repr

/-- A matrix command (R306) with its source. -/
structure MxCmd where
  img : BitVec 512
  checked : Bool
  issuer : Src
  inst : BitVec 16
  jet : Nat
  upTo : Nat
  arrived : Nat
  deriving DecidableEq, Repr

inductive RunState where
  | running | frozen
  deriving DecidableEq, Repr

/-- A matrix run (R309 to R326): the command and the three copied tensor entries; the first row of A and of B, a sender's where the
planes come over a systolic link; the sums of plane products by 128 · row + column, and of plane counts by row and by column; the
steps done, the tc from which the next may run, the tc of the last; the next output row or deposit, the outputs of that row that are
finished where its bias could not be read to the end (R324), the outputs made, the flags;
the precision messages sent; the tc of acceptance; the exponents and biases once they are read; the pinned L2 lines; the fault that
will freeze it; the plane words that have come from a neighbour with the tc from which a step may use them. -/
structure Run where
  cmd : MxCmd
  tA : BitVec 1024
  tB : BitVec 1024
  tO : BitVec 1024
  rA : Nat
  rB : Nat
  qab : Tbl Int
  qa : Tbl Int
  qb : Tbl Int
  step : Nat
  readyAt : Nat
  lastAt : Nat
  outNext : Nat
  part : Nat
  made : Nat
  flags : BitVec 5
  state : RunState
  precSent : Nat
  acceptedAt : Nat
  exps : Option (List Int × List Int × List Int)
  bias : Option (List Nat)
  pinned : List Nat
  fault : Option (Nat × Nat)
  inA : List (Nat × List Nat)
  inB : List (Nat × List Nat)
  deriving DecidableEq, Repr

/-- The matrix engine of a tile (R304 to R327): tensor entries, activation tables (528 B each), the local queue, the run, the parked
run and the jet it is parked for, the status of the last run, the device time of the last self-test, and whether one is under way. -/
structure Matrix where
  tids : Tbl (BitVec 1024)
  acts : Tbl Nat
  localQ : List MxCmd
  run : Option Run
  parked : Option Run
  parkFor : Option Nat
  parkAsked : Option Nat
  last : Nat
  testedAt : Nat
  testing : Bool
  deriving DecidableEq, Repr

/-- A cistern update in the tile's `addw` unit (R319): who waits for it, the pool addresses of its cistern and its block, the addend,
and whether it is in progress. -/
structure AddwOp where
  id : Nat
  dev : Nat
  tile : Nat
  acc : Nat
  part : Nat
  addr : Nat
  block : Nat
  special : Nat
  num : Int
  exp : Int
  started : Bool
  deriving DecidableEq, Repr

/-! ### Work units of a tile -/

/-- A tracker (R191, R192). -/
structure Tracker where
  count : Nat
  done : BitVec 32
  seq : Nat
  queue : BitVec 32
  inst : BitVec 16
  tt : Option Nat
  deriving DecidableEq, Repr

/-- The thirst unit's state within a round (R189). -/
structure Thirst where
  domain : Nat
  sent : Nat
  waiting : Bool
  deriving DecidableEq, Repr

/-- A work packet's content (R280 type 11). -/
inductive WorkMsg where
  | thirst (thief : Nat)
  | answer (task : Option Task)
  | track (idx : Nat) (inc : Bool) (from_ : Nat) (piece : Option Nat)
  | trackAck (piece : Option Nat)
  deriving DecidableEq, Repr

/-- A split-off piece that waits for its tracker before it answers a thief (R190). -/
structure PendPiece where
  id : Nat
  task : Task
  thief : Nat
  deriving DecidableEq, Repr

/-- A work message that waits, like a `send.rel`, for its jet's accesses (R192). -/
structure WorkOut where
  jet : Nat
  upTo : Nat
  dst : Nat
  msg : WorkMsg
  deriving DecidableEq, Repr

/-- A pending `waymask` (R254, R360): the stash mask it asks for, the ways that no channel's window touched at the end of a tc, and the
result that waits. -/
structure WayPend where
  mask : BitVec 16
  ripe : BitVec 16
  slot : Nat
  owedId : Nat
  deriving DecidableEq, Repr

/-- A gang (R201 to R204), held at its member 0's tile: member tiles and slots, pipes, patterns. -/
structure Gang where
  id : Nat
  members : List (Nat × Nat × Nat)
  pipes : List (Nat × Nat × BitVec 32)
  pats : List (Nat × Nat)
  ended : Bool
  deriving DecidableEq, Repr

/-- A table that an `actl` has yet to read (R315): its jet, the `actl`'s place among the jet's accesses, the table's address, and whether it lies in free
pages only, and in a strict or I/O page. -/
structure TableRead where
  key : Nat
  id : Nat
  va : Nat
  free : Bool
  strict : Bool
  deriving DecidableEq, Repr

/-- One tile. `last` is the jet that issued most recently, by its slot then and its key (R91). `increments` are the +1s that the tile still owes
a tracker or that are not acknowledged: the tracker's tile and index, and the `fork` or the piece (R192). -/
structure Tile where
  inReset : Bool
  gated : Bool
  gatedAt : Nat
  waking : Nat
  fpten : BitVec 5
  issuectl : BitVec 32
  stealctl : BitVec 32
  prioage : BitVec 64
  dqspill : BitVec 64
  dqspillNext : Option (BitVec 64)
  lqmap : BitVec 32
  poolways : BitVec 16
  stint : BitVec 16
  mxFenced : BitVec 16
  mxDead : Bool
  capkey : BitVec 32
  savectl : BitVec 64
  savectlNext : Option (BitVec 64)
  jets : Tbl Jet
  slotSeq : Tbl Nat
  heldSlots : List (Nat × Nat × Nat)
  limbo : List (Nat × Nat × List Nat)
  last : Option (Nat × Nat)
  ready : List Ready
  reserver : Option Nat
  reserved : List (Nat × Nat)
  resOrder : List Nat
  saves : Tbl (Option SaveEntry)
  preempting : List (Nat × Nat)
  weir : Weir
  deque : List DqEntry
  spilledTasks : List (Nat × Bool)
  spillHead : Nat
  lastVictim : Tbl (Option Nat)
  thirst : Option Thirst
  backoff : Option Nat
  refused : Bool
  workIn : List (Nat × WorkMsg)
  workOut : List WorkOut
  increments : List (Nat × Nat × Nat)
  pieces : List PendPiece
  trackers : Tbl (Option Tracker)
  lqSeq : Tbl Nat
  lqOpen : List (Nat × Nat)
  huskSet : List (BitVec 16)
  huskMore : Bool
  pool : Memory
  guards : List RemoteGuard
  heldWrites : List PoolReq
  stashMaps : Tbl (Option (Nat × Nat))
  stash : List StashLine
  l1 : List L1Line
  l1At : Nat
  wc : List WcEntry
  unacked : List (Nat × List Nat)
  tlb : List TlbEntry
  icache : List ILine
  ifetch : List Nat
  acc : List Access
  nests : List NestSt
  fences : List FenceSt
  poolIn : List PoolReq
  divBusy : Nat
  fdivBusy : Nat
  laneBusy : Nat
  templates : Tbl (Option Template)
  chans : Tbl Channel
  /-- Retired channels, by their numbers, whose last landing write is not acknowledged yet (R250, R252). -/
  lastWrites : List (Nat × Channel)
  tables : List TableRead
  copyQ : List CopyCmd
  subs : List Subscr
  mcWait : List McWait
  mx : Matrix
  addws : List AddwOp
  wayPend : Option WayPend
  mergeLeaves : List (Nat × Nat × Bool)
  gangs : List Gang
  fenced : List (Nat × Nat)
  poison : List Nat
  deriving DecidableEq, Repr

/-! ### The network -/

/-- What a packet carries (R280). Tile and access numbers name the requester's access. -/
inductive Pkt where
  | read (tile acc part addr nb : Nat)
  | readResp (tile acc part val : Nat)
  | write (tile : Nat) (ids : List Nat) (line en data : Nat)
  | writeAck (tile line : Nat) (ids : List Nat)
  | atomic (tile acc part addr nb afn : Nat) (asigned : Bool) (data cmp : Nat)
  | atomicResp (tile acc old flags : Nat)
  | poolReq (tile acc part : Nat) (op : PoolOp) (addr nb : Nat)
  | send (m : SendMsg)
  | sendAck (handle : BitVec 32) (seq : Nat) (retry : Bool)
  | mcJoin (tile tag home : Nat) (leave : Bool) (upTo : Nat)
  | mcJoinAck (tag status at_ : Nat)
  | mcRequest (tile tag src : Nat) (mask : BitVec 64) (slot owedId : Nat) (pas : List Nat)
  | mcAnswer (slot owedId status : Nat)
  | mcLine (home tag src lines : Nat) (mask : BitVec 64) (ix data : Nat)
  | merge (tag root : Nat) (list : BitVec 512)
  /-- A join or a leave of a merge tree (R295): the leaf's tile, the tree, the status owed, for a chain root its chain, for a basin root its
  handle, and the stop at which a leave that undoes a refused join ends. -/
  | mergeJoin (tile tag root slot owedId : Nat) (leave : Bool) (chain : Option Nat) (handle : BitVec 32) (upTo : Nat)
  | mergeAck (slot owedId status tag root : Nat)
  | work (w : WorkMsg)
  | refusal (tile acc part : Nat)
  /-- A response that carries a cause instead of a value. -/
  | fault (tile acc part cause : Nat)
  | malformed
  deriving DecidableEq, Repr

/-- The endpoints at a stop (R280 dport). -/
inductive Endpoint where
  | tile | l2 | weir | ni | mgmt | host
  deriving DecidableEq, Repr

/-- A packet: its destination device, stop and endpoint, its source device and stop, its flits, its content, whether it has travelled the overflow
lane, the nc from which it may move, and its source endpoint (R280). -/
structure Packet where
  ddev : Nat
  dst : Nat
  dport : Endpoint
  sdev : Nat
  src : Nat
  flits : Nat
  body : Pkt
  drained : Bool
  readyAt : Nat
  sport : Endpoint
  deriving DecidableEq, Repr

/-- A multicast table entry (R255). -/
structure McEntry where
  home : Nat
  tag : Nat
  counts : Tbl Nat
  deriving DecidableEq, Repr

/-- A round that a merge unit holds (R296): its number, the lists received, their merge, and the network cycle from which it may go on. -/
structure MergeRound where
  round : Nat
  got : Nat
  list : BitVec 512
  from_ : Nat
  deriving DecidableEq, Repr

/-- A merge table entry (R295, R296): its key, the chain or the basin that is its root, the fan-in by input port, the rounds held, at
most two, and whether the join that made it has been answered with 0 (R332). -/
structure MergeEntry where
  tag : Nat
  root : Nat
  chain : Option Nat
  handle : BitVec 32
  fanin : Tbl Nat
  rounds : List MergeRound
  sure : Bool
  deriving DecidableEq, Repr

/-- A stream in progress at a home slice (R258, R380): the next line to be read and the network cycle from which it may be, the lines read that the link has
yet to take, with their values, and the network cycle from which the next of them may leave. -/
structure Stream where
  tag : Nat
  src : Nat
  mask : BitVec 64
  next : Option Nat
  readyAt : Nat
  held : List (Nat × Nat)
  sendAt : Nat
  pas : List Nat
  deriving DecidableEq, Repr

/-- A stash-directory entry (R220). -/
structure DirEntry where
  line : Nat
  owner : Option Nat
  sharers : List Nat
  deriving DecidableEq, Repr

/-- One stop: its router and its L2 slice (R221, R279, R281). Input buffers are keyed 8 · subnet + port; ports are
0 west, 1 north, 2 east, 3 south, 4 local, 5 and 6 bridges (to the die beside and to the die above or below), 7 Lauc, in the
order R283 serves inputs. `headSince` gives the network cycle in which a buffer's head became its head, `expired` the buffers
whose timer stands at or above the threshold (R284): the stop's request. `outBusy` gives, keyed 8 · subnet + port, the network
cycle from which an output is free, `busyFlits` the flits since the last report (R288); `reserved` the reserved landing buffers
by endpoint (R286); `mcOut` the stream copies that wait for a port, with the cycle from which they wait (R294). `began` gives, for a
buffer, the last network cycle in which it changed, the slots taken when that cycle began and whether its head left in it (R283);
`portTime` the time until which a bridge or Lauc port is used, in twentieths of a network cycle (R278). -/
structure Stop where
  inject : List Packet
  inputs : Tbl (List Packet)
  headSince : Tbl Nat
  expired : List Nat
  began : Tbl (Nat × Nat × Bool)
  outBusy : Tbl Nat
  portTime : Tbl Nat
  busyFlits : Nat
  reserved : Tbl (Option Packet)
  mc : List McEntry
  mcOut : List (Nat × Packet × Nat)
  merge : List MergeEntry
  mergeIn : List (Nat × Packet)
  treeIn : List (Nat × Packet)
  joinIn : List (Nat × Packet)
  mcIn : List Packet
  counters : Tbl Nat
  linkFails : Tbl Nat
  fencedPorts : List Nat
  fencedSys : List Nat
  l2In : List Packet
  l2Lines : List Nat
  l2Dirty : List Nat
  pins : Tbl Nat
  misses : List (Nat × List Packet)
  missWait : List Packet
  writeBacks : List Nat
  dir : List DirEntry
  streams : List Stream
  streamRead : Nat
  streamWait : List Packet
  deriving DecidableEq, Repr

def Stop.empty : Stop :=
  { inject := [], inputs := [], headSince := [], expired := [], began := [], outBusy := [], portTime := [], busyFlits := 0,
    reserved := [], mc := [], mcOut := [], merge := [], mergeIn := [], treeIn := [], joinIn := [], mcIn := [], counters := [], linkFails := [],
    fencedPorts := [], fencedSys := [], l2In := [], l2Lines := [], l2Dirty := [], pins := [], misses := [], missWait := [],
    writeBacks := [], dir := [], streams := [], streamRead := 0, streamWait := [] }

/-! ### Dies and expert chains -/

/-- A token's slot (R334): expert, replica and weight (FP32); `filled` once its output row has landed. -/
structure TokSlot where
  e : Nat
  i : Nat
  w : BitVec 32
  zero : Bool
  filled : Bool
  deriving DecidableEq, Repr

/-- A group of a running layer (R338 to R340): its expert and replica, its tokens in order, the slot it is placed in, the progress of its
gather (0 not begun, 1 its command sent or going, 2 done, 3 aborted, 4 its capability rejected, 5 its window refused), the entry of its expert's weights, the tc from which its commands may go, the blocks in all,
the next to send, those to send again with the tile, those sent with the tile and not completed, the number completed, the tiles that have
its entries, and whether its slots are filled. -/
structure Group where
  e : Nat
  i : Nat
  toks : List Nat
  slot : Option Nat
  fresh : Bool
  gather : Nat
  went : Nat
  installAt : Option Nat
  blocks : Nat
  nextBlock : Nat
  again : List (Nat × Nat)
  sent : List (Nat × Nat)
  done : Nat
  installed : List Nat
  filled : Bool
  deriving DecidableEq, Repr

inductive LayerPhase where
  | route | product | over
  deriving DecidableEq, Repr

/-- The layer a chain runs (R329, R331): its block, the issuer's instance, the phase, the tc from which route runs, the entry of X, N, the
next token, the replica entries read, each token's slots, the groups, the tiles that have refused as fenced, the rows to be written with the bytes already
written, the rows landed, the writes of rows that are not acknowledged, the status, the dispatches and the drops. -/
structure Layer where
  block : Nat
  inst : BitVec 16
  phase : LayerPhase
  from_ : Nat
  xent : Nat
  n : Nat
  nextTok : Nat
  reps : Tbl (Nat × List Nat)
  slots : Tbl (List TokSlot)
  groups : List Group
  fenced : List Nat
  rowQ : List (Nat × Nat)
  landed : Nat
  out : Nat
  status : Nat
  dispatches : Nat
  drops : Nat
  deriving DecidableEq, Repr

/-- A snapshot request (R343): its address and the parts of its range as translated at issue, the tile, slot and result that wait, the tc from which it
may be taken, the image once it is taken, the writes made, and the packets of them that are not acknowledged. -/
structure SnapReq where
  addr : Nat
  parts : List Part
  tile : Nat
  slot : Nat
  owedId : Nat
  from_ : Nat
  image : Option Nat
  written : Nat
  out : Nat
  deriving DecidableEq, Repr

/-- A queued layer block (R330): its address, and the access number of its issuer that its reading waits for. -/
structure XgoReq where
  addr : Nat
  tile : Nat
  jet : Nat
  upTo : Nat
  inst : BitVec 16
  deriving DecidableEq, Repr

/-- One expert chain (R329 to R343). A counter entry is (assigned, dropped, merged, psum), a replica entry r and the ponds, 31 for any. `gates`
holds merged lists with their tag; `waiting` names the tiles that have not accepted a command of the chain, once for each; `evict` is the slot
the host has named, `waitEvict` whether a placement waits for it. -/
structure Chain where
  queue : List XgoReq
  layer : Option Layer
  gates : List (Nat × BitVec 512)
  counters : Tbl (Nat × Nat × Nat × BitVec 32)
  lastLayer : Nat
  replicas : Tbl (Nat × List Nat)
  snaps : List SnapReq
  waiting : List Nat
  evict : Option Nat
  waitEvict : Bool
  deriving DecidableEq, Repr

def Chain.empty : Chain :=
  { queue := [], layer := none, gates := [], counters := [], lastLayer := 0, replicas := [], snaps := [], waiting := [], evict := none,
    waitEvict := false }

/-- A die: its network settings and governor (R288, R298) with the reports in a row at or above, and below, its thresholds,
the subnet that is being powered up, those that drain, the mask the host has asked for; its drain ring, each packet with 8 · stop + endpoint (R287); its
`curlayer` and what a `csrw` of this tile cycle makes it for the next (R341, R352), copies of the husk list (R194), translation cache by walker set, youngest first, and the walks in progress (the set, the base and size of the page, the
tc of the end, R213), expert slots (R340) and overflow pool (R165). -/
structure Die where
  netctl : BitVec 64
  govHigh : Nat
  govLow : Nat
  rising : List Nat
  draining : List Nat
  want : Nat
  dieCounters : Tbl Nat
  drainRing : List (Nat × Packet)
  drainedMs : Nat
  drainMsFrom : Nat
  curlayer : BitVec 64
  curNext : Option (BitVec 64)
  huskTable : List (BitVec 16)
  tcache : Tbl (List TlbEntry)
  walks : List (Nat × Nat × Nat × Nat)
  expSlots : Tbl (Option (Nat × Nat × Nat))
  overflowPool : Tbl (Option (BitVec 512))
  overflowed : Nat
  lost : Nat
  deriving DecidableEq, Repr

def Die.reset : Die :=
  { netctl := 0x1000C0400801#64, govHigh := 0, govLow := 0, rising := [], draining := [], want := 1, dieCounters := [], drainRing := [], drainedMs := 0, drainMsFrom := 0, curlayer := 0, curNext := none, huskTable := [], tcache := [], walks := [],
    expSlots := [], overflowPool := [], overflowed := 0, lost := 0 }

/-! ### The device -/

/-- A journal record (R365), without its number. -/
structure JRec where
  time : BitVec 64
  digest : BitVec 64
  lseq : BitVec 32
  source : BitVec 16
  kind : BitVec 4
  outcome : BitVec 4
  deriving DecidableEq, Repr

/-- A request at the husk master (R194, R196). -/
structure HuskReq where
  clear : Bool
  inst : BitVec 16
  tile : Nat
  slot : Nat
  key : Nat
  owedId : Nat
  arriveAt : Nat
  tt : Option Nat
  deriving DecidableEq, Repr

/-- The agent's state for a time-triggered entry (R205, R206): the next slot, the launch that is not complete, the slot that is deferred or waits
for its husk request. -/
structure TtState where
  slot : Nat
  open_ : Bool
  openInst : BitVec 16
  deferred : Bool
  husking : Bool
  waits : Nat
  deriving DecidableEq, Repr

/-- A capture of the acorn (R286): the stop at which the packet's header stands, the network cycle after which it may leave it, the packet, and
whether a full drain ring was journaled. -/
structure Capture where
  since : Nat
  stop : Nat
  packet : Packet
  full : Bool
  deriving DecidableEq, Repr

/-- The acorn (R285, R286): the stop it is at, or reaches in the network cycle `wait`, and what it is captured for. -/
structure Acorn where
  pos : Nat
  wait : Nat
  held : Option Capture
  deriving DecidableEq, Repr

/-- A Lauc port (R290): packets on the link with their route words as they come (R280), packets waiting to leave, credits, packets that have
left the device, each with the network cycle in which its header is across, and the credits given back to the peer. The receive buffer is
input 7 of the port's stop. -/
structure Lauc where
  linkIn : List (BitVec 64 × Packet)
  out : List Packet
  credits : Nat
  sent : List (BitVec 64 × Packet)
  freed : Nat
  deriving DecidableEq, Repr

/-- A forwarded page fault (R368): the record, and when served the reply still owed. -/
structure PfReply where
  handle : BitVec 32
  addr : BitVec 64
  status : Nat
  inst : BitVec 16
  deriving DecidableEq, Repr

/-- A self-test that is waiting or running (R360, R361): its number, tile and kind, the units still to be tested, whether the mailbox or an
error asked for it, the result a `selftest` waits for, and the result so far (0 pass, 1 fail). -/
structure SelfTest where
  id : Nat
  tile : Nat
  kind : Nat
  units : List Nat
  mbox : Bool
  byError : Bool
  slot : Nat
  owedId : Option Nat
  result : Nat
  deriving DecidableEq, Repr

/-- An invalidation that is not complete (R234, R360): who waits, and the accesses made through the old entries that are not over: of jets
(tile, access), source reads of channels (tile, channel, acceptance, element, offset) and landing writes (tile, channel, acceptance, element,
bytes landed), streams (tag, first line, physical lines) and catch-up reads (tile, tag, line). -/
structure Inval where
  tile : Nat
  slot : Nat
  owedId : Nat
  accs : List (Nat × Nat)
  reads : List (Nat × Nat × Nat × Nat × Nat)
  writes : List (Nat × Nat × Nat × Nat × Nat)
  streams : List (Nat × Nat × List Nat)
  catchups : List (Nat × Nat × Nat)
  deriving DecidableEq, Repr

structure Dev where
  powered : Bool
  released : Bool
  device : BitVec 4
  time : Nat
  slew : Int
  slewLeft : Int
  slewPhase : Nat
  ptroot : BitVec 64
  winbase : BitVec 64
  jbase : BitVec 64
  jlog : BitVec 64
  jhead : BitVec 64
  jtail : BitVec 64
  jlost : BitVec 64
  duty : BitVec 64
  timeadj : BitVec 64
  hbtab : Tbl (BitVec 64)
  lroute : Tbl (Option (BitVec 64))
  mbox : BitVec 512
  mboxBusy : Bool
  tlt : Tbl (BitVec 512)
  ttState : Tbl TtState
  jwait : List JRec
  hostOut : List (Nat × Nat)
  agentQ : List SendMsg
  husks : List (BitVec 16)
  huskQ : List HuskReq
  huskCopy : Option (HuskReq × Nat × Nat)
  acorn : Acorn
  lauc : Tbl Lauc
  hostWins : Tbl SendWin
  hostSent : List (SendMsg × Bool)
  pfIn : List SendMsg
  pfHeld : List SendMsg
  pfNext : List (Src × Nat)
  pfOut : List PfReply
  framePool : Nat × Nat
  frameUsed : Nat
  ranges : Tbl (Option (Nat × Nat × Nat × Nat))
  leaf : Nat
  firmware : Nat
  throttled : Bool
  ptpLocked : Bool
  selftests : List SelfTest
  tlbinvs : List Inval
  poison : List Nat
  deriving DecidableEq, Repr

/-- Who moves next. -/
inductive Turn where
  /-- The agenda, then the units that are ready, then the tile whose issue slot is free. -/
  | scan
  /-- The jet in this slot of this tile issues its next instruction. -/
  | jet (t slot : Nat)
  /-- The cascade follower in this slot runs a forwarded instruction, after which the leader's pc was this; and the leader's outcome (R99, R100). -/
  | forward (t slot : Nat) (i : Instr) (pc : BitVec 64) (outcome : Nat)
  deriving DecidableEq, Repr

/-- What the event now served concerns: up to four numbers (a tile, a stop, a slot, an index, as the event's meaning
says) and a value. -/
structure Focus where
  a : Nat
  b : Nat
  c : Nat
  d : Nat
  data : Nat
  deriving DecidableEq, Repr

structure State where
  nc : Nat
  turn : Turn
  curTile : Nat
  curSlot : Nat
  focus : Focus
  agenda : List (Nat × Focus × Instr)
  served : List (Focus × Instr)
  picked : List Nat
  fresh : Nat
  nextId : Nat
  tiles : Tbl Tile
  stops : Tbl Stop
  dies : Tbl Die
  chains : Tbl Chain
  dev : Dev
  mem : Memory
  deriving DecidableEq, Repr

/-- A message basin with a reserve and no ring, as indices 62 and 63 are at tile reset (R156). -/
def Basin.plain (reserve : Nat) : Basin :=
  { kind := .message, msize := 64, reserve := reserve, ringEn := false, ringLog := 0, ringBase := 0, engCopy := false,
    slots := [], ring := [], ringHead := 0, refilling := false, ringStopped := false, overflowed := 0,
    count := 0, threshold := 0, rp := 31, relScope := none }

def Weir.reset : Weir :=
  { gens := [], basins := [(62, some (Basin.plain 4)), (63, some (Basin.plain 16))], patterns := [], examine := [],
    blocked := [], firedAt := 0, localIn := [], netIn := [], reseq := [], nexts := [], outbound := [], wins := [], asks := [] }

def Matrix.reset : Matrix :=
  { tids := [], acts := [], localQ := [], run := none, parked := none, parkFor := none, parkAsked := none, last := 0, testedAt := 0,
    testing := false }

/-- A tile at tile reset. -/
def Tile.reset : Tile :=
  { inReset := false, gated := false, gatedAt := 0, waking := 0, fpten := 0, issuectl := 0x01000000, stealctl := 0x40081007,
    prioage := 0x0000646464646464, dqspill := 0, dqspillNext := none, lqmap := 0, poolways := 0, stint := 1000,
    mxFenced := 0, mxDead := false, capkey := 0, savectl := 0, savectlNext := none, jets := [], slotSeq := [],
    heldSlots := [], limbo := [], last := none, ready := [], reserver := none, reserved := [], resOrder := [], saves := [],
    preempting := [], weir := Weir.reset, deque := [], spilledTasks := [], spillHead := 0, lastVictim := [], thirst := none,
    backoff := none, refused := false, workIn := [], workOut := [], increments := [], pieces := [], trackers := [], lqSeq := [], lqOpen := [], huskSet := [],
    huskMore := false, pool := [], guards := [], heldWrites := [], stashMaps := [], stash := [], l1 := [], l1At := 0, wc := [],
    unacked := [], tlb := [], icache := [], ifetch := [], acc := [], nests := [], fences := [], poolIn := [], 
    divBusy := 0, fdivBusy := 0, laneBusy := 0, templates := [],
    chans := [], lastWrites := [], tables := [], copyQ := [], subs := [], mcWait := [], mx := Matrix.reset, addws := [], wayPend := none,
    mergeLeaves := [], gangs := [], fenced := [], poison := [] }

/-- The agent and Skelon after bring-up (R364, R371); log 3 for the registers with no stated value. -/
def Dev.reset : Dev :=
  { powered := true, released := true, device := 0, time := 0, slew := 0, slewLeft := 0, slewPhase := 0, ptroot := 0, winbase := 0, jbase := 0,
    jlog := 10, jhead := 0, jtail := 0, jlost := 0, duty := 0, timeadj := 0, hbtab := [], lroute := [], mbox := 0,
    mboxBusy := false, tlt := [], ttState := [], jwait := [], hostOut := [], agentQ := [], husks := [], huskQ := [],
    huskCopy := none, acorn := ⟨0, 0, none⟩, lauc := [], hostWins := [], hostSent := [], pfIn := [], pfHeld := [], pfNext := [], pfOut := [], framePool := (0, 0),
    frameUsed := 0, ranges := [], leaf := 0, firmware := 0, throttled := false, ptpLocked := false, selftests := [], tlbinvs := [],
    poison := [] }

/-- The machine right after reset: every tile has left reset with its reset values and no work has arrived (R371, R21). -/
def State.reset : State :=
  { nc := 0, turn := .scan, curTile := 0, curSlot := 0, focus := ⟨0, 0, 0, 0, 0⟩, agenda := [], served := [], picked := [], fresh := 0, nextId := 1,
    tiles := [], stops := [], dies := [], chains := [], dev := Dev.reset, mem := [] }

end Sys2Proof.Machine
end

