-- ==== Sys2Proof/Machine/Ops.lean ====
section
/-!
DEFINITION. The named operations over the state that every meaning uses: frames, bytes of memory, the agenda,
issuing an instruction and owing its result, sending a message from a tile, taking a trap (R346 to R349, R388)
and returning from one (R351).
-/

namespace Sys2Proof.Machine

abbrev Out := Host.Outcome State Fault Refusal

/-! ### Frames -/

/-- `Slices(start, width)` read as an unsigned integer (R9). -/
def Frame.read (f : Frame) (start width : Nat) : Nat := (f.bits >>> (4 * start)) % 2 ^ (4 * width)

/-- The frame with `Slices(start, width)` receiving the low bits of `v` (R9). -/
def Frame.write (f : Frame) (start width v : Nat) : Frame :=
  ⟨(f.bits % 2 ^ (4 * start)) + ((v % 2 ^ (4 * width)) <<< (4 * start)) +
    ((f.bits >>> (4 * (start + width))) <<< (4 * (start + width)))⟩

def Frame.apply (f : Frame) (l : List (Nat × Nat × Nat)) : Frame :=
  l.foldl (fun f e => f.write e.1 e.2.1 e.2.2) f

/-- The value of a list of slice runs, the first lowest. -/
def Frame.gather (f : Frame) : List (Nat × Nat) → Nat
  | [] => 0
  | (s, w) :: r => f.read s w + 2 ^ (4 * w) * Frame.gather f r

/-- The writes that spread a value over a list of slice runs, the first lowest. -/
def scatter : List (Nat × Nat) → Nat → List (Nat × Nat × Nat)
  | [], _ => []
  | (s, w) :: r, v => (s, w, v % 2 ^ (4 * w)) :: scatter r (v / 2 ^ (4 * w))

end Sys2Proof.Machine

namespace Sys2Proof

open Machine

/-- A slice operand's value at its own width; `nz` reads as zero (R32). -/
def SliceOp.get (o : SliceOp) (f : Frame) : Nat :=
  match o with
  | .nz => 0
  | .sl s w => f.read s.toNat (w.toNat + 1)

/-- The slices an operand names, as (start, width). -/
def SliceOp.range (o : SliceOp) : List (Nat × Nat) :=
  match o with
  | .nz => []
  | .sl s w => [(s.toNat, w.toNat + 1)]

/-- The slices of a run that begins at the operand's first slice (payloads and records in the frame). -/
def SliceOp.run (o : SliceOp) (n : Nat) : List (Nat × Nat) :=
  match o with
  | .nz => []
  | .sl s _ => [(s.toNat, n)]

/-- The value of a run of `n` slices that begins at the operand's first slice; `nz` reads as zeros. -/
def SliceOp.getRun (o : SliceOp) (f : Frame) (n : Nat) : Nat :=
  match o with
  | .nz => 0
  | .sl s _ => f.read s.toNat n

/-- Writing `v` to a slice operand; `nz` discards it (R32). -/
def SliceOp.put (o : SliceOp) (v : Nat) : Write :=
  match o with
  | .nz => ⟨[], []⟩
  | .sl s w => ⟨[(s.toNat, w.toNat + 1, v)], []⟩

end Sys2Proof

namespace Sys2Proof.Machine

/-! ### Memory -/

/-- The byte at an address; an unlisted byte reads 0. -/
def Memory.read : Memory → Nat → Byte
  | [], _ => 0
  | (a', b) :: r, a => if a' = a then b else Memory.read r a

/-- Inserts a byte in its place. -/
def Memory.insert : Memory → Nat → Byte → Memory
  | [], a, b => [(a, b)]
  | (a', b') :: r, a, b =>
    if a' = a then (a, b) :: r
    else if a < a' then (a, b) :: (a', b') :: r
    else (a', b') :: Memory.insert r a b

/-- Writes one byte; writing what an unlisted byte reads as takes the entry out. -/
def Memory.write (m : Memory) (a : Nat) (b : Byte) : Memory :=
  if b = 0 then m.filter (fun c => c.1 != a) else Memory.insert m a b

/-- Addresses strictly rise and no entry holds what an unlisted byte reads as. -/
abbrev Memory.wf (m : Memory) : Prop :=
  List.Pairwise (fun a b => a.1 < b.1) m ∧ ∀ c ∈ m, c.2 ≠ 0

/-- `n` bytes at `a`, little-endian (R4). -/
def Memory.readN (m : Memory) (a : Nat) : Nat → Nat
  | 0 => 0
  | n + 1 => (m.read a).toNat + 256 * Memory.readN m (a + 1) n

/-- Writes the low `n` bytes of `v` at `a`, little-endian (R4). -/
def Memory.writeN (m : Memory) (a : Nat) : Nat → Nat → Memory
  | 0, _ => m
  | n + 1, v => Memory.writeN (m.write a (BitVec.ofNat 8 v)) (a + 1) n (v / 256)

/-- `old` with the nibbles that `en` enables replaced by those of `v` (`n` nibbles): nibble enables (R81). -/
def mergeNib (old v en : Nat) : Nat → Nat
  | 0 => 0
  | n + 1 => (if en % 2 = 1 then v % 16 else old % 16) + 16 * mergeNib (old / 16) (v / 16) (en / 2) n

/-- Writes `n` bytes at `a` under nibble enables. -/
def Memory.writeEn (m : Memory) (a n en v : Nat) : Memory :=
  m.writeN a n (mergeNib (m.readN a n) v en (2 * n))

/-- All nibbles of `n` bytes enabled. -/
def fullEn (n : Nat) : Nat := 2 ^ (2 * n) - 1

/-! ### Access to the parts of the state -/

def State.tc (s : State) : Nat := s.nc / 2

def State.tile (s : State) (t : Nat) : Tile := Tbl.get Tile.reset s.tiles t
def State.setTile (s : State) (t : Nat) (x : Tile) : State := { s with tiles := Tbl.set s.tiles t x }
def State.modTile (s : State) (t : Nat) (f : Tile → Tile) : State := s.setTile t (f (s.tile t))

def Tile.jet (x : Tile) (j : Nat) : Jet := Tbl.get Jet.empty x.jets j
def Tile.setJet (x : Tile) (j : Nat) (v : Jet) : Tile := { x with jets := Tbl.set x.jets j v }
def Tile.modJet (x : Tile) (j : Nat) (f : Jet → Jet) : Tile := x.setJet j (f (x.jet j))

def State.jet (s : State) (t j : Nat) : Jet := (s.tile t).jet j
def State.modJet (s : State) (t j : Nat) (f : Jet → Jet) : State := s.modTile t (fun x => x.modJet j f)

/-- The jet that is issuing, and its tile. -/
def State.cur (s : State) : Jet := s.jet s.curTile s.curSlot
def State.here (s : State) : Tile := s.tile s.curTile
def State.modCur (s : State) (f : Jet → Jet) : State := s.modJet s.curTile s.curSlot f
def State.modHere (s : State) (f : Tile → Tile) : State := s.modTile s.curTile f

def State.stop (s : State) (n : Nat) : Stop := Tbl.get Stop.empty s.stops n
def State.modStop (s : State) (n : Nat) (f : Stop → Stop) : State := { s with stops := Tbl.set s.stops n (f (s.stop n)) }
def State.die (s : State) (n : Nat) : Die := Tbl.get Die.reset s.dies n
def State.modDie (s : State) (n : Nat) (f : Die → Die) : State := { s with dies := Tbl.set s.dies n (f (s.die n)) }
def State.chain (s : State) (n : Nat) : Chain := Tbl.get Chain.empty s.chains n
def State.modChain (s : State) (n : Nat) (f : Chain → Chain) : State := { s with chains := Tbl.set s.chains n (f (s.chain n)) }
def State.modDev (s : State) (f : Dev → Dev) : State := { s with dev := f s.dev }

def Tile.chan (x : Tile) (c : Nat) : Channel := Tbl.get Channel.idle x.chans c
def Tile.modChan (x : Tile) (c : Nat) (f : Channel → Channel) : Tile := { x with chans := Tbl.set x.chans c (f (x.chan c)) }
def Tile.modWeir (x : Tile) (f : Weir → Weir) : Tile := { x with weir := f x.weir }
def Weir.basin (w : Weir) (b : Nat) : Option Basin := Tbl.get none w.basins b
def Weir.pattern (w : Weir) (p : Nat) : Option Pattern := Tbl.get none w.patterns p
def Weir.gen (w : Weir) (b : Nat) : Nat := Tbl.get 1 w.gens b
def Weir.setBasin (w : Weir) (b : Nat) (v : Option Basin) : Weir := { w with basins := Tbl.set w.basins b v }
def Weir.modBasin (w : Weir) (b : Nat) (f : Basin → Basin) : Weir := w.setBasin b ((w.basin b).map f)
def Weir.setPattern (w : Weir) (p : Nat) (v : Option Pattern) : Weir := { w with patterns := Tbl.set w.patterns p v }
def Tile.view (x : Tile) (j k : Nat) : BitVec 64 := Tbl.get 0 (x.jet j).views k
def Jet.view (x : Jet) (k : Nat) : BitVec 64 := Tbl.get 0 x.views k
def Jet.mask (x : Jet) (k : Nat) : BitVec 256 := Tbl.get 0 x.masks k
def Tile.save (x : Tile) (e : Nat) : Option SaveEntry := Tbl.get none x.saves e
def Tile.setSave (x : Tile) (e : Nat) (v : Option SaveEntry) : Tile := { x with saves := Tbl.set x.saves e v }
def Tile.tracker (x : Tile) (e : Nat) : Option Tracker := Tbl.get none x.trackers e
def Tile.setTracker (x : Tile) (e : Nat) (v : Option Tracker) : Tile := { x with trackers := Tbl.set x.trackers e v }

/-- A fresh number for a result, a record or an access. -/
def State.take (s : State) : Nat × State := (s.nextId, { s with nextId := s.nextId + 1 })

/-- Draws a free value (log 8). -/
def State.draw (s : State) : Nat × State := (Config.freeNat s.fresh, { s with fresh := s.fresh + 1 })

/-- Draws a free delay (log 4). -/
def State.drawDelay (s : State) : Nat × State := (Config.freeDelay s.fresh, { s with fresh := s.fresh + 1 })

/-! ### The agenda -/

/-- Inserts an event behind every event that is due no later. -/
def agendaInsert : List (Nat × Focus × Instr) → Nat → Focus → Instr → List (Nat × Focus × Instr)
  | [], d, f, e => [(d, f, e)]
  | (d', f', e') :: r, d, f, e =>
    if d < d' then (d, f, e) :: (d', f', e') :: r else (d', f', e') :: agendaInsert r d f e

/-- The event comes at the network cycle `d`, with this focus. -/
def State.at_ (s : State) (d : Nat) (e : Instr) (f : Focus) : State := { s with agenda := agendaInsert s.agenda d f e }

/-- The event comes `n` tc from now. -/
def State.after (s : State) (n : Nat) (e : Instr) (f : Focus) : State := s.at_ (s.nc + 2 * n) e f

/-! ### Places (R12, R13, R14) -/

def dieOf (t : Nat) : Nat := t / 256
def rowOf (t : Nat) : Nat := t / 16 % 16
def colOf (t : Nat) : Nat := t % 16
def tileAt (die row col : Nat) : Nat := die * 256 + row % 16 * 16 + col % 16
/-- The pond number of a tile (R13). -/
def pondOf (t : Nat) : Nat := dieOf t * 16 + rowOf t / 4 * 4 + colOf t / 4

def ringDist (a b : Nat) : Nat := min ((a + 16 - b) % 16) ((b + 16 - a) % 16)
/-- The hop distance between two stops of one die (R12). -/
def hops (a b : Nat) : Nat := ringDist (rowOf a) (rowOf b) + ringDist (colOf a) (colOf b)

/-- The stop through which a packet leaves die `d` for the adjacent die `e` on its way to `dst` (R17, R282). -/
def exitStop (d e dst : Nat) : Nat :=
  if d / 2 = e / 2 then tileAt d (rowOf dst) (if d % 2 = 0 then 15 else 0)
  else tileAt d (if d < 2 then 15 else 0) (colOf dst)

/-- The stop of die `e` across the bridge from stop `x` of die `d` (R17). -/
def bridgeTo (x e : Nat) : Nat :=
  let d := dieOf x
  if d / 2 = e / 2 then tileAt e (rowOf x) (if e % 2 = 0 then 15 else 0)
  else tileAt e (if e < 2 then 15 else 0) (colOf x)

def adjacent (d e : Nat) : Bool := d != e && (d / 2 == e / 2 || d % 2 == e % 2)

/-- Hops and bridges of the way between two stops of the device, the shorter way round a diagonal (R225, R282). -/
def wayTo (a b : Nat) : Nat × Nat :=
  let step (x e : Nat) : Nat × Nat :=            -- to the far side of the bridge toward b
    let q := exitStop (dieOf x) e b
    (hops x q, bridgeTo q e)
  if dieOf a = dieOf b then (hops a b, 0)
  else if adjacent (dieOf a) (dieOf b) then
    let p := step a (dieOf b)
    (p.1 + hops p.2 b, 1)
  else
    let via (m : Nat) : Nat := let p := step a m; let q := step p.2 (dieOf b); p.1 + q.1 + hops q.2 b
    let m1 := dieOf a / 2 * 2 + dieOf b % 2
    let m2 := dieOf b / 2 * 2 + dieOf a % 2
    (min (via m1) (via m2), 2)

/-- The round trip of R225 without its fixed part: hops plus 16 a bridge. -/
def wayCost (a b : Nat) : Nat := (wayTo a b).1 + 16 * (wayTo a b).2

/-- `tileid` of a tile (R14). -/
def tileidOf (dev : BitVec 4) (t : Nat) : BitVec 32 :=
  dev ++ BitVec.ofNat 2 (dieOf t) ++ BitVec.ofNat 4 (rowOf t) ++ BitVec.ofNat 4 (colOf t) ++ 0#2 ++
    BitVec.ofNat 6 (pondOf t) ++ BitVec.ofNat 10 t

/-- The handle of a basin index of a tile at a generation (R154). -/
def handleOf (dev : BitVec 4) (t ix gen : Nat) : BitVec 32 :=
  dev ++ BitVec.ofNat 2 (dieOf t) ++ BitVec.ofNat 4 (rowOf t) ++ BitVec.ofNat 4 (colOf t) ++ BitVec.ofNat 6 ix ++
    BitVec.ofNat 12 gen

def hDev (h : BitVec 32) : Nat := fld h.toNat 28 4
def hTile (h : BitVec 32) : Nat := tileAt (fld h.toNat 26 2) (fld h.toNat 22 4) (fld h.toNat 18 4)
def hIndex (h : BitVec 32) : Nat := fld h.toNat 12 6
def hGen (h : BitVec 32) : Nat := fld h.toNat 0 12

/-- Whether a handle names a live basin of tile `t` (R155). -/
def State.live (s : State) (t : Nat) (h : BitVec 32) : Bool :=
  hDev h == s.dev.device.toNat && hTile h == t && ((s.tile t).weir.basin (hIndex h)).isSome &&
    hGen h == (s.tile t).weir.gen (hIndex h)

/-! ### Journal (R365) -/

/-- Whether the ring is full: one more record would make `jhead − jtail` reach 2^jlog. -/
def Dev.jfull (d : Dev) : Bool := decide (2 ^ d.jlog.toNat ≤ (d.jhead - d.jtail).toNat + 1)

/-- One more record is lost; the count saturates (R364). -/
def Dev.lose (d : Dev) : BitVec 64 := if d.jlost = BitVec.allOnes 64 then d.jlost else d.jlost + 1

/-- A journal record is made and waits to be written: in a buffer of 256 before the tiles are released, and where compaction is host-assisted and
the ring is full; beyond it the record is lost. -/
def State.journal (s : State) (kind outcome source : Nat) (lseq : BitVec 32) (digest : Nat) : State :=
  s.modDev fun d =>
    if (!d.released || (d.duty.getLsbD 5 && d.jfull)) && decide (256 ≤ d.jwait.length) then { d with jlost := d.lose }
    else { d with jwait := d.jwait ++
      [⟨BitVec.ofNat 64 d.time, BitVec.ofNat 64 digest, lseq, BitVec.ofNat 16 source, BitVec.ofNat 4 kind, BitVec.ofNat 4 outcome⟩] }

/-! ### Sends of a tile -/

/-- A send that the tile itself makes to a basin of its own: accepted 3 tc later (R170, R173). -/
def State.sendLocal (s : State) (t : Nat) (m : SendMsg) : State :=
  s.modTile t fun x => x.modWeir fun w => { w with localIn := w.localIn ++ [(s.nc + 6, m)] }

/-! ### Fault records (R346, R348) -/

/-- What a fault record carries besides its time, its tile and its jet. -/
structure Flt where
  cause : Nat
  addr : Nat := 0
  info : Nat := 0
  addr2 : Nat := 0
  handle : BitVec 32 := 0
  chan : Nat := 0
  unit : Nat := 0
  flags : BitVec 5 := 0
  sub : Nat := 0
  tcode : Nat := 0
  deriving DecidableEq, Repr

/-- The 64 B fault record (R348). `jet` is `0xffff` and `pc` 0 where no jet is named. -/
def faultRecord (s : State) (t : Nat) (f : Flt) (pc : BitVec 64) (inst jet : BitVec 16) : Nat :=
  f.tcode % 2 ^ 16 * 2 ^ 64 + f.cause % 2 ^ 8 * 2 ^ 80 + f.sub % 2 ^ 8 * 2 ^ 88 + f.flags.toNat * 2 ^ 96 +
    f.unit % 2 ^ 8 * 2 ^ 104 + f.chan % 8 * 2 ^ 115 + t % 1024 * 2 ^ 118 + jet.toNat * 2 ^ 128 + inst.toNat * 2 ^ 144 +
    f.handle.toNat * 2 ^ 160 + s.dev.time % 2 ^ 64 * 2 ^ 192 + f.addr2 % 2 ^ 64 * 2 ^ 256 + f.info % 2 ^ 64 * 2 ^ 320 +
    pc.toNat * 2 ^ 384 + f.addr % 2 ^ 64 * 2 ^ 448

/-- The message that carries a fault record to the fault basin of tile `dst` (R348). -/
def faultMsg (s : State) (src dst : Nat) (rec : Nat) (inst : BitVec 16) : SendMsg :=
  { handle := handleOf s.dev.device dst 63 ((s.tile dst).weir.gen 63), src := .tile src, seq := 0, base := 0, inst := inst,
    op := .data, size := 64, payload := rec, rel := none, relAll := false, tt := none, hostEntry := none }

/-- Sends a fault record that names no jet to the fault basin of the tile where the fault arose. -/
def State.report (s : State) (t : Nat) (f : Flt) (inst : BitVec 16) : State :=
  s.sendLocal t (faultMsg s t t (faultRecord s t f 0 inst 0xffff) inst)

def Jet.id16 (j : Jet) (slot : Nat) : BitVec 16 := j.seq ++ BitVec.ofNat 3 slot

/-- Sends a fault record that names the jet in a slot. -/
def State.reportJet (s : State) (t slot : Nat) (f : Flt) (pc : BitVec 64) : State :=
  let j := s.jet t slot
  s.sendLocal t (faultMsg s t t (faultRecord s t f pc j.inst (j.id16 slot)) j.inst)

/-! ### Taking a trap -/

/-- TAKING A TRAP found in the instruction's own issue tc: the jet is suspended with its program counter on `at_`, nothing
else of it changes but that it leaves its cascade (R101), and the fault record goes to the tile's fault basin (R9 `Trap`, R42, R349). A jet that was replaying an
interrupted instruction keeps it as interrupted with its continuation (R388). -/
def State.trapAt (s : State) (t slot : Nat) (f : Flt) (pcRec pcStay : BitVec 64) : State :=
  (s.reportJet t slot f pcRec).modJet t slot fun j =>
    { j with
      status := .suspended
      pc := j.contPc.getD pcStay
      interrupted := (if j.contPc.isSome then [⟨pcStay, [], j.replayOrd⟩] else []) ++ j.interrupted ++ j.replay
      replay := []
      contPc := none
      casc := .none
      fwdQ := [] }

/-- The issuing jet traps on the instruction at its program counter. -/
def State.trap (s : State) (f : Flt) : State := s.trapAt s.curTile s.curSlot f s.cur.pc s.cur.pc

/-- A fault found after later instructions of the jet may have issued (R388): the jet issues nothing more, the faulting
instruction is held as interrupted with its pending result, and the continuation is the first instruction not yet issued. -/
def State.lateFault (s : State) (t slot : Nat) (f : Flt) (pc : BitVec 64) (owedIds : List Nat) (ord : Nat) : State :=
  (s.reportJet t slot f pc).modJet t slot fun j =>
    { j with
      status := if j.status = .running then .suspended else j.status
      interrupted := j.interrupted ++ [⟨pc, owedIds, ord⟩]
      casc := .none
      fwdQ := [] }

/-- Interrupted instructions in program order. -/
def insertIntr (l : List Interrupted) (i : Interrupted) : List Interrupted :=
  match l with
  | [] => [i]
  | k :: r => if i.ord < k.ord then i :: k :: r else k :: insertIntr r i
def sortIntr (l : List Interrupted) : List Interrupted := l.foldl insertIntr []

/-- RETURNING FROM A TRAP (R351, R388): the jet is a candidate again from `from_`. Without a new pc it executes its
interrupted instructions again and goes on at its continuation pc; with one it discards them and their pending granules. -/
def Jet.resumed (j : Jet) (from_ : Nat) (newPc : Option (BitVec 64)) : Jet :=
  match newPc with
  | none =>
    { j with
      status := .running
      stallTill := from_
      wait := 0
      yieldMark := false
      replay := sortIntr j.interrupted
      interrupted := []
      owed := j.owed.filter fun o => !(j.interrupted.any fun i => i.owedIds.contains o.id) }
  | some p =>
    { j with
      status := .running
      stallTill := from_
      wait := 0
      yieldMark := false
      pc := p
      start := none
      replay := []
      interrupted := []
      spill := if (j.spill.map (·.stopped)).getD false then none else j.spill
      owed := j.owed.filter fun o => !(j.interrupted.any fun i => i.owedIds.contains o.id) }

/-! ### Issuing an instruction -/

/-- `Next(a)` (R94): the address behind an instruction of `len` bytes, past the tail word (R26). -/
def nextPc (a : BitVec 64) (len : Nat) : BitVec 64 :=
  let n := a + BitVec.ofNat 64 len
  if n.toNat % 32 = 28 then n + 4 else n

/-- The jet after issuing an instruction of `len` bytes: program counter, stall rule (R34), yield mark (R91). -/
def Jet.stepped (j : Jet) (h : Hdr) (len tc : Nat) : Jet :=
  { j with pc := j.contPc.getD (nextPc j.pc len), contPc := none, start := none, stallTill := tc + 1 + h.stall.toNat, yieldMark := h.y }

def State.advance (s : State) (h : Hdr) (len : Nat) : State := s.modCur fun j => j.stepped h len s.tc

/-- The jet after a branch to `target`. -/
def Jet.branched (j : Jet) (h : Hdr) (target : BitVec 64) (tc : Nat) : Jet :=
  { j with pc := target, contPc := none, start := none, stallTill := tc + 1 + h.stall.toNat, yieldMark := h.y }

/-- What an instruction reads and writes: the slices of its source and destination operands as (start, width), those it
reads (`rd`: a source wider than the operation gives only its low slices, R65), masks, whether a slice-kind source crosses
a granule (R66), the first slice out of bounds through a view (R71), the sub-code of an illegal operand found at issue
(R127, R79), the least latency of its result and whether that is fixed (R34, R67). -/
structure Foot where
  src : List (Nat × Nat) := []
  rd : List (Nat × Nat) := []
  dst : List (Nat × Nat) := []
  msrc : List Nat := []
  mdst : List Nat := []
  cross : Bool := false
  bad : Option Nat := none
  ill : Option Nat := none
  lat : Nat := 0
  fixed : Bool := false
  deriving DecidableEq, Repr

def Jet.limit (j : Jet) : Nat := 128 * j.grans

/-- The first slice an instruction names at or beyond the frame's end (R62). -/
def Jet.outside (j : Jet) (fp : Foot) : Option Nat :=
  match fp.bad with
  | some x => some x
  | none => ((fp.src ++ fp.dst).find? fun r => decide (j.limit < r.1 + r.2)).map fun r => max r.1 j.limit

def overlap (a b : Nat × Nat) : Bool := decide (a.1 < b.1 + b.2) && decide (b.1 < a.1 + a.2)
def overlapAny (l m : List (Nat × Nat)) : Bool := l.any fun a => m.any fun b => overlap a b

/-- The fixed-latency result still owed of which an instruction would read a slice or a mask too early, whatever value it has (R69, R92, R131,
log 10). -/
def Jet.early (j : Jet) (fp : Foot) : Option Owed :=
  j.owed.find? fun o => o.fixed && (overlapAny o.dst fp.rd || o.mdst.any fun m => fp.msrc.contains m)

/-- A poisoned 8 B word of the frame that an instruction reads (R224). -/
def Jet.tainted (j : Jet) (fp : Foot) : Option Nat := j.poison.find? fun w => overlapAny [(16 * w, 16)] fp.rd

/-- Poisoned words of a frame after writes: one whose 16 slices are all written is clean (R224). -/
def cleanWords (bad : List Nat) (sl : List (Nat × Nat × Nat)) : List Nat :=
  bad.filter fun w => !(List.range 16).all fun k => sl.any fun e => decide (e.1 ≤ 16 * w + k) && decide (16 * w + k < e.1 + e.2.1)

def Tile.checking (x : Tile) : Bool := x.issuectl.getLsbD 1

/-- The sub-code of an illegal instruction found at issue (R42). -/
def State.illegal (s : State) (sub : Nat) : State := s.trap { cause := 1, info := sub, sub := sub }

/-- The checks every instruction passes at issue, in the order of R347: illegal operands, frame range (R62), under
checking stall undersized (R92), and poison in the slices it reads (R224). Where they pass, the instruction has the effect `k`. -/
def State.guarded (s : State) (fp : Foot) (k : State → State) : Out :=
  match fp.ill with
  | some c => .next (s.illegal c)
  | none =>
    match s.cur.outside fp with
    | some n => .next (s.trap { cause := 3, info := n })
    | none =>
      match (if s.here.checking then s.cur.early fp else none) with
      | some o => .next (s.trap { cause := 4, info := o.issued })
      | none =>
        match s.cur.tainted fp with
        | some _ => .next (s.trap { cause := 8, info := 2 })
        | none => .next (k s)

/-- Program order of an instruction that takes the number `id`: one that is executed again keeps its place (R388). -/
def Jet.ordOf (j : Jet) (id : Nat) : Nat := if j.contPc.isSome then j.replayOrd else id

/-- The issuing jet owes a result of fixed latency `lat`, written then by `RESULT_WRITEBACK` (R34, R92). -/
def State.owe (s : State) (lat : Nat) (w : Write) (flags : BitVec 5) : State :=
  let id := s.nextId
  let o : Owed := { id := id, fixed := true, due := s.tc + lat, dst := w.sl.map fun e => (e.1, e.2.1), mdst := w.masks.map (·.1),
                    w := [w], flags := [flags], issued := s.tc, pc := s.cur.pc, defer := false,
                    ord := s.cur.ordOf id }
  (({ s with nextId := id + 1 }).modCur fun j => { j with owed := j.owed ++ [o] }).after lat
    .resultWriteback ⟨s.curTile, s.curSlot, id, 0, 0⟩

/-- The issuing jet owes a variable-latency result: its granules are pending-write until it is written (R67). -/
def State.oweVar (s : State) (dst : List (Nat × Nat)) (mdst : List Nat) (w : List Write) (flags : List (BitVec 5)) (defer : Bool) :
    Nat × State :=
  let id := s.nextId
  let o : Owed := { id := id, fixed := false, due := 0, dst := dst, mdst := mdst, w := w, flags := flags, issued := s.tc,
                    pc := s.cur.pc, defer := defer, ord := s.cur.ordOf id }
  (id, ({ s with nextId := id + 1 }).modCur fun j => { j with owed := j.owed ++ [o] })

/-- A status of a non-memory instruction, known now and written `lat` tc after issue by `STATUS_RESULT_WRITE` (R67). -/
def State.oweStatus (s : State) (lat : Nat) (d : SliceOp) (v : Nat) : State :=
  let p := s.oweVar d.range [] [d.put v] [0] false
  p.2.after lat .statusResultWrite ⟨s.curTile, s.curSlot, p.1, 0, 0⟩

/-- A status whose value is not known yet: the number of the owed result, to be settled later. -/
def State.oweLater (s : State) (d : SliceOp) : Nat × State := s.oweVar d.range [] [] [] false

/-- The jet that owes result `id`: in its slot, or in a save-area entry (R355). -/
def Jet.owes (j : Jet) (id : Nat) : Bool := j.owed.any fun o => o.id == id
def Tile.ownerOf (x : Tile) (slot id : Nat) : Option Jet :=
  if (x.jet slot).owes id then some (x.jet slot)
  else x.saves.findSome? fun e => match e.2 with
    | some v => if v.saved && v.jet.owes id then some v.jet else none
    | none => none

/-- The writes of an owed result are known. -/
def Jet.fillOwed (j : Jet) (id v : Nat) : Jet :=
  { j with owed := j.owed.map fun o => if o.id = id then { o with w := [⟨scatter o.dst v, []⟩], flags := [0] } else o }

/-- The value of an owed status is known: it is written in network cycle `d`. -/
def State.settleAt (s : State) (t slot id d v : Nat) : State :=
  (s.modTile t fun x =>
    if (x.jet slot).owes id then x.modJet slot fun j => j.fillOwed id v
    else { x with saves := x.saves.map fun e => (e.1, e.2.map fun w => { w with jet := w.jet.fillOwed id v }) }).at_ d
    .statusResultWrite ⟨t, slot, id, 0, 0⟩

/-- The value of an owed status is known: it is written `lat` tc from now. -/
def State.settle (s : State) (t slot id lat v : Nat) : State := s.settleAt t slot id (s.nc + 2 * lat) v

/-- Writes slices and masks of a jet. -/
def Jet.put (j : Jet) (w : Write) : Jet :=
  { j with frame := j.frame.apply w.sl, poison := cleanWords j.poison w.sl, masks := w.masks.foldl (fun m e => Tbl.set m e.1 e.2) j.masks }

/-- A view register is written in the issue tc (R72, R79). -/
def Jet.setView (j : Jet) (k : Nat) (v : BitVec 64) : Jet := { j with views := Tbl.set j.views k v }

/-- A jet is given a result that is known already and is written `lat` tc from now (R67). -/
def State.owesValue (s : State) (t slot : Nat) (dst : List (Nat × Nat)) (lat v : Nat) : State :=
  let id := s.nextId
  (({ s with nextId := id + 1 }).modJet t slot fun j => { j with owed := j.owed ++
    [(⟨id, false, 0, dst, [], [⟨scatter dst v, []⟩], [0], s.tc, j.pc, false, id⟩ : Owed)] }).after lat .statusResultWrite ⟨t, slot, id, 0, 0⟩

/-- Granules are freed: while there is a reserver they join its reserve (R87). -/
def Tile.freed (x : Tile) (base n : Nat) : Tile :=
  if x.reserver.isSome then { x with reserved := x.reserved ++ [(base, n)] } else x

/-- An owed value of a killed jet has come: with the last, its granules are freed (R351). -/
def Tile.limboDone (x : Tile) (id : Nat) : Tile :=
  let l := x.limbo.map fun e => (e.1, e.2.1, e.2.2.erase id)
  let gone := l.filter fun e => e.2.2.isEmpty
  gone.foldl (fun (y : Tile) e => y.freed e.1 e.2.1) { x with limbo := l.filter fun e => !e.2.2.isEmpty }

end Sys2Proof.Machine
end

