-- ==== Sys2Proof/Machine/Operands.lean ====
section
/-!
DEFINITION. Operand forms: slice operands brought to an operation's width (R65), crossing sources (R66), views and their
elements (R70, R71), and the footprints that the scoreboard and the checks at issue read (R62, R67, R92).
-/

namespace Sys2Proof

/-- Whether a slice operand lies in two 16-slice granules (R66). -/
def SliceOp.crosses : SliceOp → Bool
  | .nz => false
  | .sl s w => s.toNat / 16 != (s.toNat + w.toNat) / 16

/-- The slices read of a source of an operation of width `w` (R65). -/
def SliceOp.cut (o : SliceOp) (w : Nat) : List (Nat × Nat) := o.range.map fun r => (r.1, min r.2 w)

/-- `Src(X, w)` of R65. -/
def SliceOp.src (o : SliceOp) (f : Machine.Frame) (signed : Bool) (w : Nat) : Int :=
  let k := 4 * min o.width w
  if signed then sext (o.get f) k else zext (o.get f) k

end Sys2Proof

namespace Sys2Proof.Machine

/-- The footprint of an instruction with destination `d`, sources `cut` read at the destination's width and sources `own`
read at their own. -/
def footS (d : SliceOp) (cut own : List SliceOp) (lat : Nat) : Foot :=
  { src := (cut ++ own).flatMap SliceOp.range
    rd := cut.flatMap (fun o => o.cut d.width) ++ own.flatMap SliceOp.range
    dst := d.range
    cross := (cut ++ own).any SliceOp.crosses
    lat := lat
    fixed := true }

/-- The footprint of an instruction whose result is variable (R67). -/
def footV (d : SliceOp) (own : List SliceOp) (lat : Nat) : Foot := { footS d [] own lat with fixed := false }

/-- The latency with the crossing rule (R66). -/
def Foot.latency (fp : Foot) : Nat := fp.lat + b2n fp.cross

/-- The tc from issue to the first write: for a result of variable latency the least its footprint names, else 2 (R68, log 12). -/
def Foot.soonest (fp : Foot) : Nat := if fp.fixed then fp.latency else if fp.lat = 0 then 2 else fp.lat

/-! ### Views (R70) -/

def vBase (v : BitVec 64) : Nat := fld v.toNat 0 14
def vWidth (v : BitVec 64) : Nat := fld v.toNat 14 4 + 1
def vCols (v : BitVec 64) : Nat := fld v.toNat 18 8 + 1
def vStride (v : BitVec 64) : Int := sext (fld v.toNat 26 14) 14
def vRows (v : BitVec 64) : Nat := fld v.toNat 40 8 + 1
def vRstride (v : BitVec 64) : Int := sext (fld v.toNat 48 14) 14
/-- The number of elements of a view (R71). -/
def vCount (v : BitVec 64) : Nat := vRows v * vCols v

/-- `ElemSlice` of R71. -/
def elemSlice (v : BitVec 64) (e : Nat) : Int :=
  vBase v + (e % vCols v : Nat) * vStride v + (e / vCols v : Nat) * vRstride v

/-- A view element within a frame of `lim` slices: its first slice, or the offending slice as 64 bits (R71, R346). -/
def elemAt (lim : Nat) (v : BitVec 64) (e : Nat) : Except Nat Nat :=
  let x := elemSlice v e
  if e < vCount v then
    if x < 0 then .error (trunc x 64)
    else if lim < x.toNat + vWidth v then .error (max x.toNat lim)
    else .ok x.toNat
  else .error (trunc x 64)

/-- The first slices of the elements with these numbers, or the first offending slice. -/
def elemsAt (lim : Nat) (v : BitVec 64) : List Nat → Except Nat (List Nat)
  | [] => .ok []
  | e :: r =>
    match elemAt lim v e with
    | .error x => .error x
    | .ok s =>
      match elemsAt lim v r with
      | .error x => .error x
      | .ok l => .ok (s :: l)

/-- A data operand resolved at issue: nothing for `nz`, one slice run for every element, or the elements of a view. -/
inductive Operand where
  | zero
  | same (start width : Nat)
  | elems (width : Nat) (starts : List Nat)
  deriving DecidableEq, Repr

/-- The slices of a resolved operand. -/
def Operand.ranges : Operand → List (Nat × Nat)
  | .zero => []
  | .same s w => [(s, w)]
  | .elems w l => l.map fun s => (s, w)

/-- Element `i` of a resolved operand (R128). -/
def Operand.val (o : Operand) (f : Frame) (i : Nat) : Nat :=
  match o with
  | .zero => 0
  | .same s w => f.read s w
  | .elems w l => match l[i]? with | some s => f.read s w | none => 0

/-- The slices of element `i`. -/
def Operand.slot (o : Operand) (i : Nat) : List (Nat × Nat) :=
  match o with
  | .zero => []
  | .same s w => [(s, w)]
  | .elems w l => match l[i]? with | some s => [(s, w)] | none => []

/-- The write of an element (a slice operand has element 0 only); a discarded one is no write (R130). -/
def Operand.put (o : Operand) (i v : Nat) : List (Nat × Nat × Nat) :=
  match o with
  | .zero => []
  | .same s w => [(s, w, v % 2 ^ (4 * w))]
  | .elems w l => match l[i]? with | some s => [(s, w, v % 2 ^ (4 * w))] | none => []

/-- The slots of a view operand that moves `n` slices as whole elements (R81): runs of slices, the last perhaps the low
slices of an element. -/
def Jet.slots (j : Jet) (k : BitVec 4) (off : BitVec 12) (n : Nat) : Except Nat (List (Nat × Nat)) :=
  let e := vWidth (j.view k.toNat)
  match elemsAt j.limit (j.view k.toNat) ((List.range (ceilDiv n e)).map (off.toNat + ·)) with
  | .error x => .error x
  | .ok l => .ok (l.mapIdx fun i s => (s, min e (n - i * e)))

/-- The slots of a data operand: a slice operand's own slices, or `n` slices of a view (R81, R226). -/
def Jet.dataSlots (j : Jet) (d : ElemOp) (n : Nat) : Except Nat (List (Nat × Nat)) :=
  match d with
  | .slice o => .ok o.range
  | .view k off => j.slots k off n

/-- Cuts a list of slice runs behind its first `n` slices. -/
def takeRuns : List (Nat × Nat) → Nat → List (Nat × Nat)
  | [], _ => []
  | (s, w) :: r, n => if n = 0 then [] else if w ≤ n then (s, w) :: takeRuns r (n - w) else [(s, n)]

/-- Drops the first `n` slices of a list of slice runs. -/
def dropRuns : List (Nat × Nat) → Nat → List (Nat × Nat)
  | [], _ => []
  | (s, w) :: r, n => if n = 0 then (s, w) :: r else if w ≤ n then dropRuns r (n - w) else (s + n, w - n) :: r

/-- The number of slices of a list of slice runs. -/
def lenRuns (l : List (Nat × Nat)) : Nat := (l.map (·.2)).sum

/-- Beats of 16 slices (R82). -/
def beatRuns (l : List (Nat × Nat)) (beat : Nat) : List (Nat × Nat) := takeRuns (dropRuns l (16 * beat)) 16

end Sys2Proof.Machine
end

