-- ==== Sys2Proof/Machine/Flags.lean ====
section
/-!
DEFINITION. Floating-point results and their flags (R105 to R111, R135 to R138), the conversions and quantizing of R116,
R117, R146 and R147, and the fixed reduction tree of R123. A flag set is a number laid out as `fpflags` (R108).
-/

namespace Sys2Proof.Machine

def fNv : Nat := 1
def fDz : Nat := 2
def fOf : Nat := 4
def fUf : Nat := 8
def fNx : Nat := 16

/-- A value with the flags that making it raised. -/
abbrev Fl (α : Type) := α × Nat

/-- A floating-point datum: a finite one is ±m · 2^e (R105). -/
inductive Fp where
  | nan (sig : Bool)
  | inf (neg : Bool)
  | fin (neg : Bool) (m : Nat) (e : Int)
  deriving DecidableEq, Repr

/-- Precision of FP32 and of BF16 (R105, R111). -/
def pF32 : Nat := 24
def pBf : Nat := 8

/-- The datum that the bits `x` of the format of precision `p` stand for. -/
def fpDec (p x : Nat) : Fp :=
  let fr := fld x 0 (p - 1)
  let ex := fld x (p - 1) 8
  let neg := fld x (p + 7) 1 == 1
  if ex = 255 then (if fr = 0 then .inf neg else .nan (decide (fr < 2 ^ (p - 2))))
  else if ex = 0 then .fin neg fr (-(125 + p : Nat))
  else .fin neg (2 ^ (p - 1) + fr) ((ex : Int) - (126 + p : Nat))

def Fp.isNan : Fp → Bool
  | .nan _ => true
  | _ => false
def Fp.isSig : Fp → Bool
  | .nan b => b
  | _ => false
/-- Invalid where an operand is a signaling NaN (R107). -/
def sigNv (l : List Fp) : Nat := if l.any Fp.isSig then fNv else 0

/-- The canonical NaN (R107, R111). -/
def qnan (p : Nat) : Nat := 255 * 2 ^ (p - 1) + 2 ^ (p - 2)
def signBit (p : Nat) (neg : Bool) : Nat := if neg then 2 ^ (p + 7) else 0
def infBits (p : Nat) (neg : Bool) : Nat := 255 * 2 ^ (p - 1) + signBit p neg
def maxBits (p : Nat) (neg : Bool) : Nat := 255 * 2 ^ (p - 1) - 1 + signBit p neg

/-- Whether a remainder `r` of `d` rounds the integer part `n` up in magnitude (R106). -/
def roundUp (rm : Rm) (neg : Bool) (n r d : Nat) : Bool :=
  match rm with
  | .rne => decide (d < 2 * r) || (2 * r == d && n % 2 == 1)
  | .rtz => false
  | .rup => r != 0 && !neg
  | .rdn => r != 0 && neg

/-- num/den · 2^e in units of 2^q: integer part, remainder, denominator. -/
def inUnits (num den : Nat) (e q : Int) : Nat × Nat × Nat :=
  let n := if 0 ≤ e - q then num * 2 ^ (e - q).toNat else num
  let d := if 0 ≤ e - q then den else den * 2 ^ (q - e).toNat
  (n / d, n % d, d)

/-- num/den · 2^e rounded to a multiple of 2^q: the multiple and whether it is inexact. -/
def roundTo (rm : Rm) (neg : Bool) (num den : Nat) (e q : Int) : Nat × Bool :=
  let u := inUnits num den e q
  (u.1 + b2n (roundUp rm neg u.1 u.2.1 u.2.2), u.2.1 != 0)

/-- The exponent of the leading bit of num/den · 2^e. -/
def leadExp (num den : Nat) (e : Int) : Int :=
  let l := (Nat.log2 num : Int) - (Nat.log2 den : Int)
  let ge := if 0 ≤ l then decide (den * 2 ^ l.toNat ≤ num) else decide (den ≤ num * 2 ^ (-l).toNat)
  (if ge then l else l - 1) + e

/-- ± num/den · 2^e rounded once to the format of precision `p`, with the flags of R109. -/
def roundFp (p : Nat) (rm : Rm) (neg : Bool) (num den : Nat) (e : Int) : Fl Nat :=
  if num = 0 then (signBit p neg, 0)
  else
    let k := leadExp num den e
    let free := roundTo rm neg num den e (k - (p - 1 : Nat))          -- unbounded exponent
    let kk := if free.1 = 2 ^ p then k + 1 else k
    if 127 < kk then
      let up := match rm with | .rne => true | .rtz => false | .rup => !neg | .rdn => neg
      (if up then infBits p neg else maxBits p neg, fOf + fNx)
    else
      let q := max (k - (p - 1 : Nat)) (-(125 + p : Nat))
      let r := roundTo rm neg num den e q
      let body := ((q + (p + 126 : Nat)).toNat) * 2 ^ (p - 1) + r.1 - 2 ^ (p - 1)
      (body + signBit p neg, if r.2 then (if kk < -126 then fUf + fNx else fNx) else 0)

/-- The sum of two finite data as a signed multiple of a power of two. -/
def addDy (s1 : Bool) (m1 : Nat) (e1 : Int) (s2 : Bool) (m2 : Nat) (e2 : Int) : Int × Int :=
  let e := min e1 e2
  let a : Int := (m1 * 2 ^ (e1 - e).toNat : Nat)
  let b : Int := (m2 * 2 ^ (e2 - e).toNat : Nat)
  ((if s1 then -a else a) + (if s2 then -b else b), e)

/-- The sum of two data; `extra` are flags already raised (R106, R107). -/
def sumFp (p : Nat) (rm : Rm) (extra : Nat) (a b : Fp) : Fl Nat :=
  match a, b with
  | .nan _, _ => (qnan p, extra)
  | _, .nan _ => (qnan p, extra)
  | .inf s, .inf t => if s = t then (infBits p s, extra) else (qnan p, fNv ||| extra)
  | .inf s, .fin _ _ _ => (infBits p s, extra)
  | .fin _ _ _, .inf t => (infBits p t, extra)
  | .fin s m e, .fin t n f =>
    let d := addDy s m e t n f
    if d.1 = 0 then (signBit p (if s = t then s else rm == .rdn), extra)
    else
      let r := roundFp p rm (decide (d.1 < 0)) d.1.natAbs 1 d.2
      (r.1, r.2 ||| extra)

def addFp (p : Nat) (rm : Rm) (x y : Nat) : Fl Nat :=
  let a := fpDec p x; let b := fpDec p y
  sumFp p rm (sigNv [a, b]) a b

def Fp.negate : Fp → Fp
  | .nan b => .nan b
  | .inf s => .inf (!s)
  | .fin s m e => .fin (!s) m e

def subFp (p : Nat) (rm : Rm) (x y : Nat) : Fl Nat :=
  let a := fpDec p x; let b := fpDec p y
  sumFp p rm (sigNv [a, b]) a b.negate

/-- The exact product; invalid where it is 0 × ∞ (R107). -/
def prodFp (a b : Fp) : Fl Fp :=
  match a, b with
  | .nan _, _ => (.nan false, 0)
  | _, .nan _ => (.nan false, 0)
  | .inf s, .inf t => (.inf (s != t), 0)
  | .inf s, .fin t m _ => if m = 0 then (.nan false, fNv) else (.inf (s != t), 0)
  | .fin s m _, .inf t => if m = 0 then (.nan false, fNv) else (.inf (s != t), 0)
  | .fin s m e, .fin t n f => (.fin (s != t) (m * n) (e + f), 0)

def mulFp (p : Nat) (rm : Rm) (x y : Nat) : Fl Nat :=
  let a := fpDec p x; let b := fpDec p y
  let q := prodFp a b
  let fl := sigNv [a, b] ||| q.2
  match q.1 with
  | .nan _ => (qnan p, fl)
  | .inf s => (infBits p s, fl)
  | .fin s m e => let r := roundFp p rm s m 1 e; (r.1, r.2 ||| fl)

def fmaFp (p : Nat) (rm : Rm) (x y z : Nat) : Fl Nat :=
  let a := fpDec p x; let b := fpDec p y; let c := fpDec p z
  let q := prodFp a b
  sumFp p rm (sigNv [a, b, c] ||| q.2) q.1 c

/-- Division, correctly rounded (R106, R107, R137). -/
def divFp (p : Nat) (rm : Rm) (x y : Nat) : Fl Nat :=
  let a := fpDec p x; let b := fpDec p y
  let fl := sigNv [a, b]
  match a, b with
  | .nan _, _ => (qnan p, fl)
  | _, .nan _ => (qnan p, fl)
  | .inf _, .inf _ => (qnan p, fl ||| fNv)
  | .inf s, .fin t _ _ => (infBits p (s != t), fl)
  | .fin s _ _, .inf t => (signBit p (s != t), fl)
  | .fin s m e, .fin t n f =>
    if n = 0 then (if m = 0 then (qnan p, fl ||| fNv) else (infBits p (s != t), fl ||| fDz))
    else let r := roundFp p rm (s != t) m n (e - f); (r.1, r.2 ||| fl)

/-- The integer square root, by bits from the one given down. -/
def isqrt (n : Nat) : Nat → Nat → Nat
  | 0, r => r
  | b + 1, r => isqrt n b (if (r + 2 ^ b) * (r + 2 ^ b) ≤ n then r + 2 ^ b else r)

/-- Square root, correctly rounded (R106, R107). -/
def sqrtFp (p : Nat) (rm : Rm) (x : Nat) : Fl Nat :=
  match fpDec p x with
  | .nan s => (qnan p, if s then fNv else 0)
  | .inf true => (qnan p, fNv)
  | .inf false => (infBits p false, 0)
  | .fin s m e =>
    if m = 0 then (signBit p s, 0)
    else if s then (qnan p, fNv)
    else
      let m2 := if e % 2 = 0 then m * 2 ^ 60 else m * 2 ^ 61
      let e2 := if e % 2 = 0 then e - 60 else e - 61
      let r := isqrt m2 44 0
      roundFp p rm false (2 * r + b2n (r * r != m2)) 2 (e2 / 2)

/-- Whether a finite or infinite datum is below another; zeros of both signs are equal. -/
def Fp.lt : Fp → Fp → Bool
  | .nan _, _ => false
  | _, .nan _ => false
  | .inf s, .inf t => s && !t
  | .inf s, .fin _ _ _ => s
  | .fin _ _ _, .inf t => !t
  | .fin s m e, .fin t n f => decide (0 < (addDy t n f (!s) m e).1)

def Fp.eqv (a b : Fp) : Bool := !a.isNan && !b.isNan && !a.lt b && !b.lt a
def Fp.isNeg : Fp → Bool
  | .nan _ => false
  | .inf s => s
  | .fin s _ _ => s

/-- `fmin` and `fmax` (R136). -/
def minmaxFp (p : Nat) (max : Bool) (x y : Nat) : Fl Nat :=
  let a := fpDec p x; let b := fpDec p y
  let fl := sigNv [a, b]
  if a.isNan && b.isNan then (qnan p, fl)
  else if a.isNan then (y, fl)
  else if b.isNan then (x, fl)
  else
    let below := a.lt b || (a.eqv b && a.isNeg && !b.isNeg)     -- −0 counts as less than +0
    (if below != max then x else y, fl)

/-- The predicates of `fcmp` (R136). -/
def cmpFp (p sub x y : Nat) : Fl Bool :=
  let a := fpDec p x; let b := fpDec p y
  let un := a.isNan || b.isNan
  let sig := sigNv [a, b]
  let any := if un then fNv else 0
  match sub with
  | 0 => (a.eqv b, sig)
  | 1 => (a.lt b, any)
  | 2 => (a.lt b || a.eqv b, any)
  | 3 => (un, sig)
  | 4 => (!a.eqv b, sig)
  | 5 => (!un, sig)
  | 6 => (b.lt a, any)
  | _ => (b.lt a || a.eqv b, any)

/-- Conversion of a datum to a format with one rounding (R111). -/
def cvtFp (q : Nat) (rm : Rm) (a : Fp) : Fl Nat :=
  match a with
  | .nan s => (qnan q, if s then fNv else 0)
  | .inf s => (infBits q s, 0)
  | .fin s m e => roundFp q rm s m 1 e

def bfToF32 (x : Nat) : Fl Nat := cvtFp pF32 .rne (fpDec pBf x)
def f32ToBf (x : Nat) : Fl Nat := cvtFp pBf .rne (fpDec pF32 x)

/-- An integer rounded to a format (R146 `icvt.f`). -/
def intToFp (p : Nat) (rm : Rm) (n : Int) : Fl Nat := roundFp p rm (decide (n < 0)) n.natAbs 1 0

/-- Clamps an integer to the range of a `w`-bit reading (R104). -/
def loOf (w : Nat) (signed : Bool) : Int := if signed then -(2 ^ (w - 1) : Nat) else 0
def hiOf (w : Nat) (signed : Bool) : Int := if signed then (2 ^ (w - 1) : Nat) - 1 else (2 ^ w : Nat) - 1
def clampTo (w : Nat) (signed : Bool) (r : Int) : Int := max (loOf w signed) (min (hiOf w signed) r)

/-- A datum rounded to an integer of `w` bits (R146 `fcvt.i`). The rounded value is held against the range, the model's choice: −0.4 read unsigned
gives 0 and 255.4 in 8 bits 255, both inexact (log 25). -/
def fpToInt (w : Nat) (signed : Bool) (rm : Rm) (a : Fp) : Fl Int :=
  match a with
  | .nan _ => (0, fNv)
  | .inf s => (if s then loOf w signed else hiOf w signed, fNv)
  | .fin s m e =>
    let r := roundTo rm s m 1 e 0
    let n : Int := if s then -(r.1 : Int) else r.1
    if n < loOf w signed || hiOf w signed < n then (clampTo w signed n, fNv) else (n, if r.2 then fNx else 0)

/-- A positive finite FP32 value, as mantissa and exponent. -/
def posFin (x : Nat) : Option (Nat × Int) :=
  match fpDec pF32 x with
  | .fin false m e => if m = 0 then none else some (m, e)
  | _ => none

/-- Quantizing to `P` bits with the scale bm · 2^be (R116). -/
def quantize (P : Nat) (signed : Bool) (bm : Nat) (be : Int) (a : Fp) : Fl Int :=
  match a with
  | .nan _ => (0, fNv)
  | .inf s => (if s then loOf P signed else hiOf P signed, fOf + fNx)
  | .fin s m e =>
    let r := roundTo .rne s m bm (e - be) 0
    let n : Int := if s then -(r.1 : Int) else r.1
    if n < loOf P signed || hiOf P signed < n then (clampTo P signed n, fOf + fNx) else (n, if r.2 then fNx else 0)

/-- The effective value of a read of `p` of `P` planes (R114). -/
def effVal (P p : Nat) (mid : Bool) (q : Int) : Int :=
  if mid && decide (p < P) then (2 * q + 1) * (2 ^ (P - p - 1) : Nat) else q * (2 ^ (P - p) : Nat)

/-- eff · bm · 2^be rounded to a format (R117). -/
def dequantize (p : Nat) (bm : Nat) (be : Int) (eff : Int) : Fl Nat :=
  roundFp p .rne (decide (eff < 0)) (eff.natAbs * bm) 1 be

/-! ### `fexp2.t` (R138) -/

/-- T[k] = 2^(k/64) rounded to FP32. -/
def exp2Table : List Nat :=
    [0x3f800000, 0x3f8164d2, 0x3f82cd87, 0x3f843a29, 0x3f85aac3, 0x3f871f62, 0x3f88980f, 0x3f8a14d5] ++
    [0x3f8b95c2, 0x3f8d1adf, 0x3f8ea43a, 0x3f9031dc, 0x3f91c3d3, 0x3f935a2b, 0x3f94f4f0, 0x3f96942d] ++
    [0x3f9837f0, 0x3f99e046, 0x3f9b8d3a, 0x3f9d3eda, 0x3f9ef532, 0x3fa0b051, 0x3fa27043, 0x3fa43516] ++
    [0x3fa5fed7, 0x3fa7cd94, 0x3fa9a15b, 0x3fab7a3a, 0x3fad583f, 0x3faf3b79, 0x3fb123f6, 0x3fb311c4] ++
    [0x3fb504f3, 0x3fb6fd92, 0x3fb8fbaf, 0x3fbaff5b, 0x3fbd08a4, 0x3fbf179a, 0x3fc12c4d, 0x3fc346cd] ++
    [0x3fc5672a, 0x3fc78d75, 0x3fc9b9be, 0x3fcbec15, 0x3fce248c, 0x3fd06334, 0x3fd2a81e, 0x3fd4f35b] ++
    [0x3fd744fd, 0x3fd99d16, 0x3fdbfbb8, 0x3fde60f5, 0x3fe0ccdf, 0x3fe33f89, 0x3fe5b907, 0x3fe8396a] ++
    [0x3feac0c7, 0x3fed4f30, 0x3fefe4ba, 0x3ff28177, 0x3ff5257d, 0x3ff7d0df, 0x3ffa83b3, 0x3ffd3e0c]

/-- Rounds m · 2^e to FP32 precision with an unbounded exponent, nearest even. -/
def rnd24 (d : Nat × Int) : Nat × Int :=
  if d.1 < 2 ^ 24 then d
  else
    let q := (Nat.log2 d.1 : Int) - 23
    ((roundTo .rne false d.1 1 0 q).1, d.2 + q)
def mulD (a b : Nat × Int) : Nat × Int := (a.1 * b.1, a.2 + b.2)
def addD (a b : Nat × Int) : Nat × Int :=
  let e := min a.2 b.2
  (a.1 * 2 ^ (a.2 - e).toNat + b.1 * 2 ^ (b.2 - e).toNat, e)
/-- The mantissa and exponent of a positive FP32 constant. -/
def posD (x : Nat) : Nat × Int := (posFin x).getD (0, 0)

def exp2F32 (x : Nat) : Fl Nat :=
  match fpDec pF32 x with
  | .nan s => (qnan pF32, if s then fNv else 0)
  | .inf false => (infBits pF32 false, 0)
  | .inf true => (0, 0)
  | .fin s m e =>
    let u := inUnits m 1 e 0                                      -- |a| = u.1 + u.2.1 / u.2.2
    if !s && decide (128 ≤ u.1) then (infBits pF32 false, fOf + fNx)
    else if s && (decide (150 < u.1) || (u.1 == 150 && u.2.1 != 0)) then (0, fUf + fNx)
    else
      -- a = n · 2^g exactly, with g at most −6, so that 64 a = n · 2^(g+6)
      let g := min e (-6)
      let n : Int := (if s then -1 else 1) * ((m * 2 ^ (e - g).toNat : Nat) : Int)
      let den : Int := (2 ^ (-6 - g).toNat : Nat)
      let j := n / den
      let f : Nat × Int := ((n % den).toNat, g)
      let k := (j % 64).toNat
      let xx := j / 64
      let t := posD ((exp2Table[k]?).getD 0)
      let q := rnd24 (mulD (posD 0x3d635847) f)
      let q := rnd24 (addD q (posD 0x3e75fdf0))
      let q := rnd24 (mulD q f)
      let q := rnd24 (addD q (posD 0x3f317218))
      let q := rnd24 (mulD q f)
      let v := rnd24 (addD (mulD t q) t)
      let r := roundFp pF32 .rne false v.1 1 (v.2 + xx)
      (r.1, if f.1 ≠ 0 || k ≠ 0 then r.2 ||| fNx else r.2)

/-- In BF16 the input is widened and the result narrowed. -/
def exp2Bf (x : Nat) : Fl Nat :=
  let a := bfToF32 x
  let r := exp2F32 a.1
  let b := f32ToBf r.1
  (b.1, a.2 ||| r.2 ||| b.2)

/-! ### Trees (R123) -/

/-- One level: neighbours 2i and 2i + 1 combined. -/
def treeLevel (op : Nat → Nat → Fl Nat) : List Nat → Fl (List Nat)
  | a :: b :: r =>
    let x := op a b
    let t := treeLevel op r
    (x.1 :: t.1, x.2 ||| t.2)
  | l => (l, 0)

/-- `k` levels over a list of 2^k values. -/
def treeFold (op : Nat → Nat → Fl Nat) : Nat → List Nat → Fl Nat
  | 0, l => (l.headD 0, 0)
  | k + 1, l =>
    let a := treeLevel op l
    let r := treeFold op k a.1
    (r.1, a.2 ||| r.2)

/-- The pairwise tree over a list padded with the identity to a power of two. -/
def tree (op : Nat → Nat → Fl Nat) (ident : Nat) (l : List Nat) : Fl Nat :=
  let k := clog2 l.length
  treeFold op k (l ++ List.replicate (2 ^ k - l.length) ident)

end Sys2Proof.Machine
end

