-- ==== Sys2Proof/Machine/Scalar.lean ====
section
/-!
DEFINITION. The scalar instructions of groups 0, 1 and 2 and the view instructions (R65 to R80, R83).
-/

namespace Sys2Proof.Machine



end Sys2Proof.Machine

namespace Sys2Proof

open Machine

def R3.foot (o : R3) (lat : Nat) : Foot := footS o.d [o.a, o.b] [] lat
def R2.foot (o : R2) (lat : Nat) : Foot := footS o.d [o.a] [] lat
/-- A source read at its own width. -/
def R2.footOwn (o : R2) : Foot := footS o.d [] [o.a] 1
/-- A shift: the count is read at its own width (R75). -/
def R3.footShift (o : R3) : Foot := footS o.d [o.a] [o.b] 1
/-- A compare: both sources whole (R77). -/
def R3.footCmp (o : R3) : Foot := footS o.d [] [o.a, o.b] 1
def R4.footSel (o : R4) : Foot := footS o.d [o.a, o.b] [o.c] 1
/-- `bfi` reads D and A (R76). -/
def R2.footBfi (o : R2) : Foot := footS o.d [o.d] [o.a] 1

end Sys2Proof

namespace Sys2Proof.Machine

/-- An instruction of `len` bytes that writes the value `v`, cut to D's width, as a fixed-latency result (R34, R65). -/
def State.result (s : State) (h : Hdr) (len : Nat) (fp : Foot) (d : SliceOp) (v : Int) : Out :=
  s.guarded fp fun s => (s.owe fp.latency (d.put (trunc v (4 * d.width))) 0).advance h len

/-- Two sources at D's width (R65). -/
def State.arith3 (s : State) (h : Hdr) (o : R3) (lat : Nat) (signed : Bool) (f : Nat → Int → Int → Int) : Out :=
  let w := o.d.width
  s.result h 8 (R3.foot o lat) o.d (f (4 * w) (o.a.src s.cur.frame signed w) (o.b.src s.cur.frame signed w))

/-- One source at D's width (R65). -/
def State.arith2 (s : State) (h : Hdr) (o : R2) (signed : Bool) (f : Nat → Int → Int) : Out :=
  let w := o.d.width
  s.result h 8 (R2.foot o 1) o.d (f (4 * w) (o.a.src s.cur.frame signed w))

/-- One source at D's width and an immediate (F64B and F96I). -/
def State.arithI (s : State) (h : Hdr) (len : Nat) (o : R2) (signed : Bool) (f : Nat → Int → Int) : Out :=
  let w := o.d.width
  s.result h len (R2.foot o 1) o.d (f (4 * w) (o.a.src s.cur.frame signed w))

/-- imm32 as a source of width 8 under R65. -/
def immSrc (imm : BitVec 32) (signed : Bool) (w : Nat) : Int :=
  let k := min 32 (4 * w)
  if signed then sext imm.toNat k else zext imm.toNat k

/-- Division and remainder occupy the tile's divider for 18 tc (R74). -/
def State.divide (s : State) (h : Hdr) (o : R3) (signed : Bool) (f : Int → Int → Int) : Out :=
  let w := o.d.width
  let v := f (o.a.src s.cur.frame signed w) (o.b.src s.cur.frame signed w)
  let fp := R3.foot o 18
  s.guarded fp fun s =>
    ((s.owe fp.latency (o.d.put (trunc v (4 * w))) 0).modHere fun x => { x with divBusy := s.tc + 18 }).advance h 8

/-- Quotient and remainder of R73. -/
def quot (a b : Int) : Int := if b = 0 then -1 else a.tdiv b
def rem (a b : Int) : Int := if b = 0 then a else a - b * a.tdiv b

/-- `add.z` (R73). -/
def execAddZ (h : Hdr) (o : R3) (s : State) : Out :=
  s.arith3 h o 1 false (fun _ a b => a + b)

/-- `add.s` (R73). -/
def execAddS (h : Hdr) (o : R3) (s : State) : Out :=
  s.arith3 h o 1 true (fun _ a b => a + b)

/-- `dif.z` (R73). -/
def execDifZ (h : Hdr) (o : R3) (s : State) : Out :=
  s.arith3 h o 1 false (fun _ a b => a - b)

/-- `dif.s` (R73). -/
def execDifS (h : Hdr) (o : R3) (s : State) : Out :=
  s.arith3 h o 1 true (fun _ a b => a - b)

/-- `addi.z` (R73). -/
def execAddiZ (h : Hdr) (o : R2) (imm : BitVec 32) (s : State) : Out :=
  s.arithI h 12 o false fun _ a => a + immSrc imm false o.d.width

/-- `addi.s` (R73). -/
def execAddiS (h : Hdr) (o : R2) (imm : BitVec 32) (s : State) : Out :=
  s.arithI h 12 o true fun _ a => a + immSrc imm true o.d.width

/-- `mul.z` (R73). -/
def execMulZ (h : Hdr) (o : R3) (s : State) : Out :=
  s.arith3 h o 3 false (fun _ a b => a * b)

/-- `mul.s` (R73). -/
def execMulS (h : Hdr) (o : R3) (s : State) : Out :=
  s.arith3 h o 3 true (fun _ a b => a * b)

/-- `mulh.z` (R73). -/
def execMulhZ (h : Hdr) (o : R3) (s : State) : Out :=
  s.arith3 h o 3 false (fun n a b => a * b / (2 ^ n : Nat))

/-- `mulh.s` (R73). -/
def execMulhS (h : Hdr) (o : R3) (s : State) : Out :=
  s.arith3 h o 3 true (fun n a b => a * b / (2 ^ n : Nat))

/-- `div.z` (R73, R74). -/
def execDivZ (h : Hdr) (o : R3) (s : State) : Out :=
  s.divide h o false quot

/-- `div.s` (R73, R74). -/
def execDivS (h : Hdr) (o : R3) (s : State) : Out :=
  s.divide h o true quot

/-- `rem.z` (R73, R74). -/
def execRemZ (h : Hdr) (o : R3) (s : State) : Out :=
  s.divide h o false rem

/-- `rem.s` (R73, R74). -/
def execRemS (h : Hdr) (o : R3) (s : State) : Out :=
  s.divide h o true rem

/-- `min.z` (R73). -/
def execMinZ (h : Hdr) (o : R3) (s : State) : Out :=
  s.arith3 h o 1 false (fun _ a b => if a ≤ b then a else b)

/-- `min.s` (R73). -/
def execMinS (h : Hdr) (o : R3) (s : State) : Out :=
  s.arith3 h o 1 true (fun _ a b => if a ≤ b then a else b)

/-- `max.z` (R73). -/
def execMaxZ (h : Hdr) (o : R3) (s : State) : Out :=
  s.arith3 h o 1 false (fun _ a b => if b ≤ a then a else b)

/-- `max.s` (R73). -/
def execMaxS (h : Hdr) (o : R3) (s : State) : Out :=
  s.arith3 h o 1 true (fun _ a b => if b ≤ a then a else b)

/-- `abs.s` (R73). -/
def execAbsS (h : Hdr) (o : R2) (s : State) : Out :=
  s.arith2 h o true fun _ a => if a < 0 then -a else a

/-- `neg.s` (R73). -/
def execNegS (h : Hdr) (o : R2) (s : State) : Out :=
  s.arith2 h o true fun _ a => -a

/-- All ones but the bits of `b`, in `n` bits. -/
def notN (n b : Nat) : Nat := 2 ^ n - 1 - b % 2 ^ n

/-- `and` (R75). -/
def execAnd (h : Hdr) (o : R3) (s : State) : Out :=
  s.arith3 h o 1 false fun _ a b => (a.toNat &&& b.toNat : Nat)

/-- `or` (R75). -/
def execOr (h : Hdr) (o : R3) (s : State) : Out :=
  s.arith3 h o 1 false fun _ a b => (a.toNat ||| b.toNat : Nat)

/-- `xor` (R75). -/
def execXor (h : Hdr) (o : R3) (s : State) : Out :=
  s.arith3 h o 1 false fun _ a b => (a.toNat ^^^ b.toNat : Nat)

/-- `andn` (R75). -/
def execAndn (h : Hdr) (o : R3) (s : State) : Out :=
  s.arith3 h o 1 false fun n a b => (a.toNat &&& notN n b.toNat : Nat)

/-- `not` (R75). -/
def execNot (h : Hdr) (o : R2) (s : State) : Out :=
  s.arith2 h o false fun n a => (notN n a.toNat : Nat)

/-- `andi`: the immediate is sign-extended (R75). -/
def execAndi (h : Hdr) (o : R2) (imm : BitVec 16) (s : State) : Out :=
  s.arithI h 8 o false fun n a => (a.toNat &&& trunc (sext imm.toNat 16) n : Nat)

/-- `ori`: the immediate is sign-extended (R75). -/
def execOri (h : Hdr) (o : R2) (imm : BitVec 16) (s : State) : Out :=
  s.arithI h 8 o false fun n a => (a.toNat ||| trunc (sext imm.toNat 16) n : Nat)

/-- `xori`: the immediate is sign-extended (R75). -/
def execXori (h : Hdr) (o : R2) (imm : BitVec 16) (s : State) : Out :=
  s.arithI h 8 o false fun n a => (a.toNat ^^^ trunc (sext imm.toNat 16) n : Nat)

/-- A shift by a count read at its own width (R75). -/
def State.shift (s : State) (h : Hdr) (o : R3) (signed : Bool) (f : Nat → Int → Nat → Int) : Out :=
  let w := o.d.width
  s.result h 8 (R3.footShift o) o.d (f (4 * w) (o.a.src s.cur.frame signed w) (o.b.get s.cur.frame))

/-- The shifts of R75 on `n`-bit values. -/
def shlF (n : Nat) (a : Int) (k : Nat) : Int := if n ≤ k then 0 else a * (2 ^ k : Nat)
def shrF (n : Nat) (a : Int) (k : Nat) : Int := if n ≤ k then 0 else a / (2 ^ k : Nat)
def sarF (n : Nat) (a : Int) (k : Nat) : Int := if n ≤ k then (if a < 0 then -1 else 0) else a / (2 ^ k : Nat)
def rolF (n : Nat) (a : Int) (k : Nat) : Int := a * (2 ^ (k % n) : Nat) + a / (2 ^ (n - k % n) : Nat)

/-- `shl` (R75). -/
def execShl (h : Hdr) (o : R3) (s : State) : Out :=
  s.shift h o false shlF

/-- `shr` (R75). -/
def execShr (h : Hdr) (o : R3) (s : State) : Out :=
  s.shift h o false shrF

/-- `sar` (R75). -/
def execSar (h : Hdr) (o : R3) (s : State) : Out :=
  s.shift h o true sarF

/-- `rol` (R75). -/
def execRol (h : Hdr) (o : R3) (s : State) : Out :=
  s.shift h o false rolF

/-- `shli` (R75). -/
def execShli (h : Hdr) (o : R2) (k : BitVec 6) (s : State) : Out :=
  s.arithI h 8 o false fun n a => shlF n a k.toNat

/-- `shri` (R75). -/
def execShri (h : Hdr) (o : R2) (k : BitVec 6) (s : State) : Out :=
  s.arithI h 8 o false fun n a => shrF n a k.toNat

/-- `sari` (R75). -/
def execSari (h : Hdr) (o : R2) (k : BitVec 6) (s : State) : Out :=
  s.arithI h 8 o true fun n a => sarF n a k.toNat

/-- `bfx.z` (R76). -/
def execBfxZ (h : Hdr) (o : R2) (lsb len : BitVec 6) (s : State) : Out :=
  s.result h 8 (R2.footOwn o) o.d (zext (fld (o.a.get s.cur.frame) lsb.toNat (len.toNat + 1)) (len.toNat + 1))

/-- `bfx.s` (R76). -/
def execBfxS (h : Hdr) (o : R2) (lsb len : BitVec 6) (s : State) : Out :=
  s.result h 8 (R2.footOwn o) o.d (sext (fld (o.a.get s.cur.frame) lsb.toNat (len.toNat + 1)) (len.toNat + 1))

/-- The bits [lsb + n − 1 : lsb] of `old` replaced by the low `n` bits of `v` (R76). -/
def insertBits (old v lsb n : Nat) : Nat :=
  old % 2 ^ lsb + (v % 2 ^ n) * 2 ^ lsb + old / 2 ^ (lsb + n) * 2 ^ (lsb + n)

/-- The number of 1 bits among the low `n` bits. -/
def popBits : Nat → Nat → Nat
  | 0, _ => 0
  | n + 1, x => x % 2 + popBits n (x / 2)
/-- The number of 0 bits above the highest 1 of the low `n` bits. -/
def clzBits (n x : Nat) : Nat := if x % 2 ^ n = 0 then n else n - 1 - Nat.log2 (x % 2 ^ n)
/-- The number of 0 bits below the lowest 1 of the low `n` bits. -/
def ctzBits : Nat → Nat → Nat
  | 0, _ => 0
  | n + 1, x => if x % 2 = 1 then 0 else 1 + ctzBits n (x / 2)
/-- The low `n` bits in reverse order. -/
def revBits : Nat → Nat → Nat
  | 0, _ => 0
  | n + 1, x => (x % 2) * 2 ^ n + revBits n (x / 2)

/-- `bfi` (R76). -/
def execBfi (h : Hdr) (o : R2) (lsb len : BitVec 6) (s : State) : Out :=
  s.result h 8 (R2.footBfi o) o.d (insertBits (o.d.get s.cur.frame) (o.a.get s.cur.frame) lsb.toNat (len.toNat + 1) : Nat)

/-- `popc` reads A at its own width (R76). -/
def execPopc (h : Hdr) (o : R2) (s : State) : Out :=
  s.result h 8 (R2.footOwn o) o.d (popBits (4 * o.a.width) (o.a.get s.cur.frame) : Nat)

/-- `clz` reads A at its own width (R76). -/
def execClz (h : Hdr) (o : R2) (s : State) : Out :=
  s.result h 8 (R2.footOwn o) o.d (clzBits (4 * o.a.width) (o.a.get s.cur.frame) : Nat)

/-- `ctz` reads A at its own width (R76). -/
def execCtz (h : Hdr) (o : R2) (s : State) : Out :=
  s.result h 8 (R2.footOwn o) o.d (ctzBits (4 * o.a.width) (o.a.get s.cur.frame) : Nat)

/-- `brev` (R76). -/
def execBrev (h : Hdr) (o : R2) (s : State) : Out :=
  s.arith2 h o false fun n a => (revBits n a.toNat : Nat)

/-- A compare at the wider of its sources (R77). -/
def State.cmp (s : State) (h : Hdr) (o : R3) (signed : Bool) (r : Int → Int → Bool) : Out :=
  let c := max o.a.width o.b.width
  s.result h 8 (R3.footCmp o) o.d (b2n (r (o.a.src s.cur.frame signed c) (o.b.src s.cur.frame signed c)) : Nat)

/-- A compare with a 16-bit immediate (R77). -/
def State.cmpi (s : State) (h : Hdr) (o : R2) (signed : Bool) (imm : Int) (r : Int → Int → Bool) : Out :=
  let c := max o.a.width 4
  let b : Int := if signed then imm else (trunc imm (4 * c) : Nat)
  s.result h 8 (R2.footOwn o) o.d (b2n (r (o.a.src s.cur.frame signed c) b) : Nat)

/-- `cmp` (R77). -/
def execCmpEq (h : Hdr) (o : R3) (s : State) : Out :=
  s.cmp h o false fun a b => a == b

/-- `cmp` (R77). -/
def execCmpNe (h : Hdr) (o : R3) (s : State) : Out :=
  s.cmp h o false fun a b => a != b

/-- `cmp` (R77). -/
def execCmpLtS (h : Hdr) (o : R3) (s : State) : Out :=
  s.cmp h o true fun a b => decide (a < b)

/-- `cmp` (R77). -/
def execCmpLtZ (h : Hdr) (o : R3) (s : State) : Out :=
  s.cmp h o false fun a b => decide (a < b)

/-- `cmp` (R77). -/
def execCmpLeS (h : Hdr) (o : R3) (s : State) : Out :=
  s.cmp h o true fun a b => decide (a ≤ b)

/-- `cmp` (R77). -/
def execCmpLeZ (h : Hdr) (o : R3) (s : State) : Out :=
  s.cmp h o false fun a b => decide (a ≤ b)

/-- `cmpi.eq`: A zero-extended, the immediate sign-extended to the compare width (R77). -/
def execCmpiEq (h : Hdr) (o : R2) (imm : BitVec 16) (s : State) : Out :=
  s.cmpi h o false (sext imm.toNat 16) fun a b => a == b

/-- `cmpi.lt.s` (R77). -/
def execCmpiLtS (h : Hdr) (o : R2) (imm : BitVec 16) (s : State) : Out :=
  s.cmpi h o true (sext imm.toNat 16) fun a b => decide (a < b)

/-- `cmpi.lt.z` (R77). -/
def execCmpiLtZ (h : Hdr) (o : R2) (imm : BitVec 16) (s : State) : Out :=
  s.cmpi h o false (zext imm.toNat 16) fun a b => decide (a < b)

/-- `sel` (R78). -/
def execSel (h : Hdr) (o : R4) (s : State) : Out :=
  let x := s.cur.frame
  s.result h 16 (R4.footSel o) o.d (if o.c.get x ≠ 0 then o.a.src x false o.d.width else o.b.src x false o.d.width)

/-- `mov.z` (R78). -/
def execMovZ (h : Hdr) (o : R2) (s : State) : Out :=
  s.arith2 h o false fun _ a => a

/-- `mov.s` (R78). -/
def execMovS (h : Hdr) (o : R2) (s : State) : Out :=
  s.arith2 h o true fun _ a => a

/-- `movi` (R78). -/
def execMovi (h : Hdr) (d : SliceOp) (imm : BitVec 32) (s : State) : Out :=
  s.result h 12 (footS d [] [] 1) d (sext imm.toNat 32)

/-- `movih` keeps the low 32 bits (R78). -/
def execMovih (h : Hdr) (d : SliceOp) (imm : BitVec 32) (s : State) : Out :=
  s.result h 12 (footS d [d] [] 1) d (zext (d.get s.cur.frame) 32 + sext imm.toNat 32 * (2 ^ 32 : Nat))

end Sys2Proof.Machine

namespace Sys2Proof

open Machine

/-- The value that `vwset` writes (R79). -/
def ViewSrc.val (src : ViewSrc) (f : Frame) : BitVec 64 :=
  match src with
  | .imm v => BitVec.ofNat 64 v.toNat
  | .reg a => BitVec.ofNat 64 (a.get f)

/-- A register form whose value has reserved bits set is illegal (R79). -/
def ViewSrc.foot (src : ViewSrc) (f : Frame) : Foot :=
  match src with
  | .imm _ => {}
  | .reg a => { footS .nz [] [a] 1 with ill := if (ViewSrc.val src f).toNat < 2 ^ 62 then none else some 4 }

end Sys2Proof

namespace Sys2Proof.Machine

/-- `vwset` writes its view register in the issue tc (R72, R79). -/
def execVwset (h : Hdr) (v : BitVec 4) (src : ViewSrc) (s : State) : Out :=
  s.guarded (ViewSrc.foot src s.cur.frame) fun s =>
    (s.modCur fun j => j.setView v.toNat (ViewSrc.val src j.frame)).advance h 16

/-- `vwrd` (R80). -/
def execVwrd (h : Hdr) (d : SliceOp) (v : BitVec 4) (s : State) : Out :=
  s.result h 8 (footS d [] [] 1) d ((s.cur.view v.toNat).toNat : Nat)

end Sys2Proof.Machine
end

