-- ==== Sys2Proof/Machine/Lane.lean ====
section
/-!
DEFINITION. The lane unit: element-wise, whole-vector and mask instructions of groups 0 to 5 (R127 to R148, R153).
-/

namespace Sys2Proof.Machine

/-! ### Plans -/

/-- What a lane instruction does in one beat: its writes, and the flags of its elements (R108). -/
structure Beat where
  w : Write
  flags : Nat
  reads : List (Nat × Nat)
  deriving DecidableEq, Repr

/-- A lane instruction worked out at issue: its footprint, its beats, the latency of its first write, whether all is written
in one tc (R132 whole-vector), whether its result is variable even in one beat, and the tc it takes in the divide array. -/
structure LanePlan where
  fp : Foot
  beats : List Beat
  lat : Nat
  whole : Bool := false
  var : Bool := false
  divide : Nat := 0
  deriving DecidableEq, Repr

/-- Elements in a beat (R129). -/
def laneL (c : LaneCtl) : Nat :=
  match c.cls with
  | .f32 => 32
  | .bf16 => 64
  | .int => 256 / (c.iwidth.toNat + 1)

/-- The element count of a shape operand (R128); where it is empty, 1, so that its first element shows the fault. -/
def Jet.shapeN (j : Jet) (o : ElemOp) : Nat :=
  match o with
  | .slice _ => 1
  | .view v off => max 1 (min 256 (vCount (j.view v.toNat) - off.toNat))

/-- The elements a view operand has from its offset on (R141). A slice operand counts as one, the model's choice: an index of `vperm` of 1 or
more then gives 0 (log 25). -/
def Jet.avail (j : Jet) (o : ElemOp) : Nat :=
  match o with
  | .slice _ => 1
  | .view v off => vCount (j.view v.toNat) - off.toNat

/-- A view whose latched width is not `e` (R127). -/
def Jet.badWidth (j : Jet) (o : ElemOp) (e : Nat) : Bool :=
  match o with
  | .slice _ => false
  | .view v _ => vWidth (j.view v.toNat) != e

/-- Active (R130). -/
def Jet.active (j : Jet) (c : LaneCtl) (i : Nat) : Bool :=
  c.mmode == .none || (j.mask c.mask.toNat).getLsbD i

/-- Elements `0`, …, `n − 1` of an element operand, counted from its offset (R71, R128). Where an element lies is only said of those in the frame. -/
def Jet.use (j : Jet) (o : ElemOp) (n : Nat) : Operand :=
  match o with
  | .slice .nz => .zero
  | .slice (.sl s w) => .same s.toNat (w.toNat + 1)
  | .view k off => .elems (vWidth (j.view k.toNat)) ((List.range n).map fun e => (elemSlice (j.view k.toNat) (off.toNat + e)).toNat)

/-- The first slice that shows elements `ix` of an operand to be out of the view or the frame (R71, R128). -/
def Jet.pickBad (j : Jet) (o : ElemOp) (ix : List Nat) : Option Nat :=
  match o with
  | .slice _ => none
  | .view v off => ix.findSome? fun e => match elemAt j.limit (j.view v.toNat) (off.toNat + e) with | .ok _ => none | .error x => some x

/-- A use of an operand: its required width, its elements, whether it is a source and a destination, and the elements that are read (R128, R130). -/
structure Use where
  o : ElemOp
  e : Option Nat
  n : Nat
  src : Bool
  dst : Bool
  reads : List Nat
  deriving DecidableEq, Repr

/-- A source whose elements `ix` are read. -/
def Use.from_ (o : ElemOp) (e : Option Nat) (n : Nat) (ix : List Nat) : Use := ⟨o, e, n, true, false, ix⟩
/-- A destination of `n` elements, of which `ix` are read besides. -/
def Use.into (o : ElemOp) (e : Option Nat) (n : Nat) (ix : List Nat) : Use := ⟨o, e, n, false, true, ix⟩

/-- The slices that a use reads of the elements for which `f` holds; of a slice operand that is a source, all. -/
def Jet.readRng (j : Jet) (u : Use) (f : Nat → Bool) : List (Nat × Nat) :=
  match j.use u.o u.n with
  | .same s w => if u.src || u.reads.any f then [(s, w)] else []
  | x => (u.reads.filter f).flatMap x.slot

/-- The footprint of a lane instruction: every element it writes, and those it reads (R128). -/
def Jet.laneFoot (j : Jet) (us : List Use) (ill : Bool) (msrc mdst : List Nat) (lat : Nat) (fixed : Bool) : Foot :=
  let src := us.flatMap fun u => j.readRng u fun _ => true
  { src := src
    rd := src
    dst := (us.filter (·.dst)).flatMap fun u => (j.use u.o u.n).ranges
    msrc := msrc
    mdst := mdst
    cross := us.any fun u => (u.src || !u.reads.isEmpty) && match u.o with | .slice o => o.crosses | .view _ _ => false
    ill := if ill || us.any (fun u => match u.e with | some e => j.badWidth u.o e | none => false) then some 6 else none
    bad := us.findSome? fun u => j.pickBad u.o (if u.dst then List.range u.n else u.reads)
    lat := lat
    fixed := fixed }

/-- What beat `b` of `L` elements reads. -/
def Jet.beatReads (j : Jet) (us : List Use) (L b : Nat) : List (Nat × Nat) :=
  us.flatMap fun u => j.readRng u fun e => decide (L * b ≤ e) && decide (e < L * b + L)

/-- Element results gathered into beats of `L` elements (R129, R130). -/
def beatsOf (L n : Nat) (d : Operand) (reads : Nat → List (Nat × Nat)) (r : Nat → Fl Nat) : List Beat :=
  (List.range (ceilDiv n L)).map fun b =>
    let l := (List.range (min L (n - L * b))).map fun k => (L * b + k, r (L * b + k))
    { w := ⟨l.flatMap fun x => d.put x.1 x.2.1, []⟩
      flags := l.foldl (fun f x => f ||| x.2.2) 0
      reads := reads b }

/-- Flags of all beats. -/
def LanePlan.flags (p : LanePlan) : Nat := p.beats.foldl (fun f b => f ||| b.flags) 0

/-- Whether the beats' results are held to the last beat (R133). -/
def LanePlan.defers (p : LanePlan) (fpten : BitVec 5) : Bool :=
  fpten != 0 ||
    (List.range p.beats.length).any fun b =>
      overlapAny ((p.beats[b]?.map fun x => x.w.sl.map fun e => (e.1, e.2.1)).getD []) ((p.beats.drop (b + 1)).flatMap (·.reads))

/-- The footprint as the write-order check sees it: beats that are held are written with the last (R68, R133). -/
def LanePlan.foot (p : LanePlan) (fpten : BitVec 5) : Foot :=
  if p.whole || decide (p.beats.length ≤ 1) || !p.defers fpten then p.fp else { p.fp with lat := p.lat + p.beats.length - 1 }

/-- TAKING A FLOATING-POINT TRAP at issue (R110): `fpflags` receives the flags, then the jet traps. -/
def State.fpTrap (s : State) (flags : Nat) : State :=
  (s.modCur fun j => { j with fpflags := j.fpflags ||| BitVec.ofNat 5 flags }).trap { cause := 11, flags := BitVec.ofNat 5 flags }

/-- A lane instruction begins: it takes the lane unit for its beats and the divide array where it uses it (R132). -/
def State.laneStart (s : State) (beats divide : Nat) : State :=
  s.modHere fun x => { x with laneBusy := s.tc + beats, fdivBusy := if divide = 0 then x.fdivBusy else s.tc + divide }

/-- A lane instruction of one beat with a fixed or variable latency. -/
def State.laneOne (s : State) (p : LanePlan) (w : Write) : State :=
  if p.var then
    let r := s.oweVar p.fp.dst p.fp.mdst [w] [BitVec.ofNat 5 p.flags] true
    r.2.after p.lat .laneBeatWrite ⟨s.curTile, s.curSlot, r.1, 0, 0⟩
  else s.owe (p.lat + b2n p.fp.cross) w (BitVec.ofNat 5 p.flags)

/-- A lane instruction of several beats (R132, R133): its beats are written at Lop, Lop + 1, … after issue, or all at once. -/
def State.laneMany (s : State) (p : LanePlan) : State :=
  let n := p.beats.length
  let defer := p.whole || p.defers s.here.fpten
  let r := s.oweVar p.fp.dst p.fp.mdst (p.beats.map (·.w)) (p.beats.map fun b => BitVec.ofNat 5 b.flags) defer
  let s1 := r.2.modCur fun j => { j with pend := j.pend ++ p.beats.mapIdx fun k b => ⟨b.reads, s.tc + k⟩ }
  let f : Focus := ⟨s.curTile, s.curSlot, r.1, 0, 0⟩
  if p.whole then s1.after p.lat .laneBeatWrite f
  else if defer then s1.after (p.lat + n - 1) .laneBeatWrite f
  else (List.range n).foldl (fun s k => s.after (p.lat + k) .laneBeatWrite f) s1

/-- A lane instruction. Its flags trap at issue where it has one beat (R110), and otherwise at its last beat (R133, R388): `fpten` is looked at in
the issue tc, and again when held results are written, the model's choice of the tc (log 25). -/
def State.lane (s : State) (h : Hdr) (p : LanePlan) : Out :=
  s.guarded (p.foot s.here.fpten) fun s =>
    match p.beats with
    | [b] =>
      if BitVec.ofNat 5 p.flags &&& s.here.fpten != 0 then s.fpTrap p.flags
      else ((s.laneStart 1 p.divide).laneOne p b.w).advance h 12
    | _ => ((s.laneStart p.beats.length p.divide).laneMany p).advance h 12

/-! ### Element-wise forms -/

end Sys2Proof.Machine

namespace Sys2Proof

open Machine

/-- The mask an instruction reads for its mask mode (R131). -/
def LaneCtl.msrc (c : LaneCtl) : List Nat := if c.mmode == .none then [] else [c.mask.toNat]

end Sys2Proof

namespace Sys2Proof.Machine

/-- The elements of `n` that are active (R130), and those that are not. -/
def Jet.actives (j : Jet) (c : LaneCtl) (n : Nat) : List Nat := (List.range n).filter (j.active c)
def Jet.idles (j : Jet) (c : LaneCtl) (n : Nat) : List Nat := (List.range n).filter fun i => !j.active c i
/-- The elements of D that an inactive result keeps (R130). -/
def Jet.kept (j : Jet) (c : LaneCtl) (n : Nat) : List Nat := if c.mmode == .merge then j.idles c n else []
/-- The elements read of the operand that gives the count: those named, or element 0, which shows the fault, where the view has none (R128). -/
def Jet.ofShape (j : Jet) (o : ElemOp) (ix : List Nat) : List Nat := if j.avail o = 0 then [0] else ix

/-- An element-wise instruction with operand widths `eD`, `eA` and, where B is used, `eB`; `L` elements a beat; `dread` where D is
read as a third source; `f` the operation on (a, b, c). An inactive element reads neither A nor B (R130). -/
def Jet.elementwise (j : Jet) (o : L3) (eD eA : Nat) (eB : Option Nat) (L lat : Nat) (dread : Bool) (ill : Bool)
    (f : Nat → Nat → Nat → Fl Nat) : LanePlan :=
  let n := j.shapeN o.d
  let act := j.actives o.c n
  let us := [Use.into o.d (some eD) n ((if dread then act else []) ++ j.kept o.c n), Use.from_ o.a (some eA) n act] ++
    (eB.map fun e => Use.from_ o.b (some e) n act).toList
  let d := j.use o.d n
  let a := j.use o.a n
  let b := if eB.isSome then j.use o.b n else .zero
  { fp := j.laneFoot us ill o.c.msrc [] lat (decide (n ≤ L))
    lat := lat
    beats := beatsOf L n d (j.beatReads us L) fun i =>
      if j.active o.c i then f (a.val j.frame i) (b.val j.frame i) (d.val j.frame i)
      else (if o.c.mmode == .zero then 0 else d.val j.frame i, 0) }

/-- A two-source form at the class's element width. -/
def Jet.lane3 (j : Jet) (o : L3) (lat : Nat) (f : Nat → Nat → Fl Nat) : LanePlan :=
  j.elementwise o o.c.e o.c.e (some o.c.e) (laneL o.c) lat false false fun a b _ => f a b

/-- A one-source form at the class's element width. -/
def Jet.lane2 (j : Jet) (o : L3) (lat : Nat) (f : Nat → Fl Nat) : LanePlan :=
  j.elementwise o o.c.e o.c.e none (laneL o.c) lat false false fun a _ _ => f a

end Sys2Proof.Machine

namespace Sys2Proof

open Machine

/-- Precision of the class (R105, R111). -/
def LaneCtl.p (c : LaneCtl) : Nat := if c.cls == .bf16 then pBf else pF32

/-- A lane integer result: clamped or wrapped (R104, R139). -/
def LaneCtl.fit (c : LaneCtl) (r : Int) : Nat := trunc (if c.sat then clampTo (4 * c.e) c.signed r else r) (4 * c.e)
/-- A lane integer operand read by the signed field (R139). -/
def LaneCtl.rdInt (c : LaneCtl) (x : Nat) : Int := if c.signed then sext x (4 * c.e) else zext x (4 * c.e)

end Sys2Proof

namespace Sys2Proof.Machine

def planInt3 (lat : Nat) (f : Nat → Int → Int → Int) (j : Jet) (o : L3) : LanePlan :=
  j.lane3 o lat fun a b => (o.c.fit (f (4 * o.c.e) (o.c.rdInt a) (o.c.rdInt b)), 0)
/-- A one-source integer form takes 1 tc; for `vabs` and `vneg`, which the table of R153 does not list, that is the model's choice (log 25). -/
def planInt2 (f : Nat → Int → Int) (j : Jet) (o : L3) : LanePlan :=
  j.lane2 o 1 fun a => (o.c.fit (f (4 * o.c.e) (o.c.rdInt a)), 0)
/-- The shift forms (R139): the count is B's element, read unsigned, or aux8 where B is `nz`. -/
def planShift (signed : Bool) (f : Nat → Int → Nat → Int) (j : Jet) (o : L3) : LanePlan :=
  let w := 4 * o.c.e
  j.lane3 o 1 fun a b =>
    (trunc (f w (if signed then sext a w else zext a w) (if o.b = .slice .nz then o.c.aux8.toNat else b)) w, 0)

def planFp3 (f : Nat → Rm → Nat → Nat → Fl Nat) (j : Jet) (o : L3) : LanePlan := j.lane3 o 4 (f o.c.p o.c.rm)
def planFp2 (lat : Nat) (f : Nat → Nat → Fl Nat) (j : Jet) (o : L3) : LanePlan := j.lane2 o lat (f o.c.p)

def planVadd (j : Jet) (o : L3) : LanePlan := planInt3 1 (fun _ a b => a + b) j o
/-- `vadd` (R139). -/
def execVadd (h : Hdr) (o : L3) (s : State) : Out := s.lane h (planVadd s.cur o)

def planVdif (j : Jet) (o : L3) : LanePlan := planInt3 1 (fun _ a b => a - b) j o
/-- `vdif` (R139). -/
def execVdif (h : Hdr) (o : L3) (s : State) : Out := s.lane h (planVdif s.cur o)

def planVmul (j : Jet) (o : L3) : LanePlan := planInt3 3 (fun _ a b => a * b) j o
/-- `vmul` (R139). -/
def execVmul (h : Hdr) (o : L3) (s : State) : Out := s.lane h (planVmul s.cur o)

def planVmulh (j : Jet) (o : L3) : LanePlan := planInt3 3 (fun n a b => a * b / (2 ^ n : Nat)) j o
/-- `vmulh` (R139). -/
def execVmulh (h : Hdr) (o : L3) (s : State) : Out := s.lane h (planVmulh s.cur o)

def planVmin (j : Jet) (o : L3) : LanePlan := planInt3 1 (fun _ a b => if a ≤ b then a else b) j o
/-- `vmin` (R139). -/
def execVmin (h : Hdr) (o : L3) (s : State) : Out := s.lane h (planVmin s.cur o)

def planVmax (j : Jet) (o : L3) : LanePlan := planInt3 1 (fun _ a b => if b ≤ a then a else b) j o
/-- `vmax` (R139). -/
def execVmax (h : Hdr) (o : L3) (s : State) : Out := s.lane h (planVmax s.cur o)

def planVabs (j : Jet) (o : L3) : LanePlan := planInt2 (fun _ a => if a < 0 then -a else a) j o
/-- `vabs` (R139). -/
def execVabs (h : Hdr) (o : L3) (s : State) : Out := s.lane h (planVabs s.cur o)

def planVneg (j : Jet) (o : L3) : LanePlan := planInt2 (fun _ a => -a) j o
/-- `vneg` (R139). -/
def execVneg (h : Hdr) (o : L3) (s : State) : Out := s.lane h (planVneg s.cur o)

def planVand (j : Jet) (o : L3) : LanePlan := planInt3 1 (fun _ a b => (a.toNat &&& b.toNat : Nat)) j o
/-- `vand` (R139). -/
def execVand (h : Hdr) (o : L3) (s : State) : Out := s.lane h (planVand s.cur o)

def planVor (j : Jet) (o : L3) : LanePlan := planInt3 1 (fun _ a b => (a.toNat ||| b.toNat : Nat)) j o
/-- `vor` (R139). -/
def execVor (h : Hdr) (o : L3) (s : State) : Out := s.lane h (planVor s.cur o)

def planVxor (j : Jet) (o : L3) : LanePlan := planInt3 1 (fun _ a b => (a.toNat ^^^ b.toNat : Nat)) j o
/-- `vxor` (R139). -/
def execVxor (h : Hdr) (o : L3) (s : State) : Out := s.lane h (planVxor s.cur o)

def planVnot (j : Jet) (o : L3) : LanePlan := planInt2 (fun n a => (notN n a.toNat : Nat)) j o
/-- `vnot` (R139). -/
def execVnot (h : Hdr) (o : L3) (s : State) : Out := s.lane h (planVnot s.cur o)

def planVshl (j : Jet) (o : L3) : LanePlan := planShift false shlF j o
/-- `vshl` (R139). -/
def execVshl (h : Hdr) (o : L3) (s : State) : Out := s.lane h (planVshl s.cur o)

def planVshr (j : Jet) (o : L3) : LanePlan := planShift false shrF j o
/-- `vshr` (R139). -/
def execVshr (h : Hdr) (o : L3) (s : State) : Out := s.lane h (planVshr s.cur o)

def planVsar (j : Jet) (o : L3) : LanePlan := planShift true sarF j o
/-- `vsar` (R139). -/
def execVsar (h : Hdr) (o : L3) (s : State) : Out := s.lane h (planVsar s.cur o)

def planVpopc (j : Jet) (o : L3) : LanePlan := planInt2 (fun n a => (popBits n a.toNat : Nat)) j o
/-- `vpopc` (R139). -/
def execVpopc (h : Hdr) (o : L3) (s : State) : Out := s.lane h (planVpopc s.cur o)

def planVmov (j : Jet) (o : L3) : LanePlan := j.lane2 o 1 fun a => (a, 0)
/-- `vmov` (R140). -/
def execVmov (h : Hdr) (o : L3) (s : State) : Out := s.lane h (planVmov s.cur o)

/-- `vsel` writes every element, from A where the mask bit is 1 and from B where it is 0 (R140). -/
def planVsel (j : Jet) (o : L3) : LanePlan :=
  let n := j.shapeN o.d
  let L := laneL o.c
  let bit (i : Nat) : Bool := (j.mask o.c.mask.toNat).getLsbD i
  let us := [Use.into o.d (some o.c.e) n [], Use.from_ o.a (some o.c.e) n ((List.range n).filter bit),
    Use.from_ o.b (some o.c.e) n ((List.range n).filter fun i => !bit i)]
  { fp := j.laneFoot us false [o.c.mask.toNat] [] 1 (decide (n ≤ L))
    lat := 1
    beats := beatsOf L n (j.use o.d n) (j.beatReads us L) fun i =>
      (if bit i then (j.use o.a n).val j.frame i else (j.use o.b n).val j.frame i, 0) }
/-- `vsel` (R140). -/
def execVsel (h : Hdr) (o : L3) (s : State) : Out := s.lane h (planVsel s.cur o)

def planFadd (j : Jet) (o : L3) : LanePlan := planFp3 addFp j o
/-- `fadd` (R135). -/
def execFadd (h : Hdr) (o : L3) (s : State) : Out := s.lane h (planFadd s.cur o)

def planFsub (j : Jet) (o : L3) : LanePlan := planFp3 subFp j o
/-- `fsub` (R135). -/
def execFsub (h : Hdr) (o : L3) (s : State) : Out := s.lane h (planFsub s.cur o)

def planFmul (j : Jet) (o : L3) : LanePlan := planFp3 mulFp j o
/-- `fmul` (R135). -/
def execFmul (h : Hdr) (o : L3) (s : State) : Out := s.lane h (planFmul s.cur o)

def planFfma (j : Jet) (o : L3) : LanePlan := j.elementwise o o.c.e o.c.e (some o.c.e) (laneL o.c) 4 true false fun a b c => fmaFp o.c.p o.c.rm a b c
/-- `ffma` reads D as its third source (R135). -/
def execFfma (h : Hdr) (o : L3) (s : State) : Out := s.lane h (planFfma s.cur o)

def planFmin (j : Jet) (o : L3) : LanePlan := planFp3 (fun p _ => minmaxFp p false) j o
/-- `fmin` (R136). -/
def execFmin (h : Hdr) (o : L3) (s : State) : Out := s.lane h (planFmin s.cur o)

def planFmax (j : Jet) (o : L3) : LanePlan := planFp3 (fun p _ => minmaxFp p true) j o
/-- `fmax` (R136). -/
def execFmax (h : Hdr) (o : L3) (s : State) : Out := s.lane h (planFmax s.cur o)

/-- `fdiv` and `fsqrt` run in one beat and take the divide array for 14 tc (R132, R137). -/
def Jet.tooLong (j : Jet) (o : L3) : Bool := decide (laneL o.c < j.shapeN o.d)
def planFdiv (j : Jet) (o : L3) : LanePlan := { j.elementwise o o.c.e o.c.e (some o.c.e) (laneL o.c) 14 false (j.tooLong o) fun a b _ => divFp o.c.p o.c.rm a b with divide := 14 }
/-- `fdiv` (R137). -/
def execFdiv (h : Hdr) (o : L3) (s : State) : Out := s.lane h (planFdiv s.cur o)

def planFsqrt (j : Jet) (o : L3) : LanePlan := { j.elementwise o o.c.e o.c.e none (laneL o.c) 14 false (j.tooLong o) fun a _ _ => sqrtFp o.c.p o.c.rm a with divide := 14 }
/-- `fsqrt` (R137). -/
def execFsqrt (h : Hdr) (o : L3) (s : State) : Out := s.lane h (planFsqrt s.cur o)

def planFexp2T (j : Jet) (o : L3) : LanePlan := planFp2 6 (fun p a => if p = pBf then exp2Bf a else exp2F32 a) j o
/-- `fexp2.t` (R138). -/
def execFexp2T (h : Hdr) (o : L3) (s : State) : Out := s.lane h (planFexp2T s.cur o)

def planFabs (j : Jet) (o : L3) : LanePlan := planFp2 4 (fun p a => (a % 2 ^ (p + 7), 0)) j o
/-- `fabs` clears the sign bit (R107, R135). -/
def execFabs (h : Hdr) (o : L3) (s : State) : Out := s.lane h (planFabs s.cur o)

def planFneg (j : Jet) (o : L3) : LanePlan := planFp2 4 (fun p a => (a ^^^ 2 ^ (p + 7), 0)) j o
/-- `fneg` inverts the sign bit (R107, R135). -/
def execFneg (h : Hdr) (o : L3) (s : State) : Out := s.lane h (planFneg s.cur o)

/-! ### Compares into a mask (R131, R136, R140) -/

end Sys2Proof.Machine

namespace Sys2Proof

open Machine

/-- The shape operand of a compare (R128). -/
def LM.shape (o : LM) : ElemOp :=
  match o.a, o.b with
  | .view _ _, _ => o.a
  | .slice _, .view _ _ => o.b
  | .slice _, .slice _ => o.a

end Sys2Proof

namespace Sys2Proof.Machine

/-- A mask from its bits. -/
def maskOf (l : List Bool) : BitVec 256 := BitVec.ofNat 256 (l.foldr (fun b n => b2n b + 2 * n) 0)

/-- A compare: one beat gives a fixed-latency result; of several, beat k writes its own bits of the mask, and the last clears the bits from n on
(R132, R136). -/
def Jet.compare (j : Jet) (o : LM) (lat : Nat) (f : Nat → Nat → Fl Bool) : LanePlan :=
  let n := j.shapeN o.shape
  let L := laneL o.c
  let act := j.actives o.c n
  let us := [Use.from_ o.a (some o.c.e) n (if o.shape = o.a then j.ofShape o.a act else act),
    Use.from_ o.b (some o.c.e) n (if o.shape = o.a then act else j.ofShape o.b act)]
  let a := j.use o.a n
  let b := j.use o.b n
  let r := (List.range n).map fun i =>
    if j.active o.c i then f (a.val j.frame i) (b.val j.frame i)
    else (o.c.mmode == .merge && (j.mask o.dm.toNat).getLsbD i, 0)
  let nb := ceilDiv n L
  { fp := j.laneFoot us false (o.c.msrc ++ if o.c.mmode == .merge then [o.dm.toNat] else []) [o.dm.toNat] lat (decide (nb = 1))
    lat := lat
    beats := (List.range nb).map fun k =>
      let old := if k + 1 = nb then [] else (List.range 256).map fun i => (j.mask o.dm.toNat).getLsbD i
      { w := ⟨[], [(o.dm.toNat, maskOf ((r.take (L * k + L)).map (·.1) ++ old.drop (L * k + L)))]⟩
        flags := ((r.drop (L * k)).take L).foldl (fun fl x => fl ||| x.2) 0
        reads := j.beatReads us L k } }

def planFcmp (j : Jet) (o : LM) : LanePlan := j.compare o 4 (cmpFp o.c.p o.c.subfn.toNat)
/-- `fcmp` (R136). -/
def execFcmp (h : Hdr) (o : LM) (s : State) : Out := s.lane h (planFcmp s.cur o)

/-- The predicates of `vcmp` (R140). -/
def cmpInt (sub : Nat) (a b : Int) : Bool :=
  match sub with
  | 0 => a == b
  | 1 => a != b
  | 2 => decide (a < b)
  | 3 => decide (a ≤ b)
  | 4 => decide (b < a)
  | _ => decide (b ≤ a)
def planVcmp (j : Jet) (o : LM) : LanePlan := j.compare o 1 fun a b => (cmpInt o.c.subfn.toNat (o.c.rdInt a) (o.c.rdInt b), 0)
/-- `vcmp` (R140). -/
def execVcmp (h : Hdr) (o : LM) (s : State) : Out := s.lane h (planVcmp s.cur o)

/-! ### Whole-vector instructions (R132, R141 to R144, R148) -/

/-- A whole-vector instruction: `n` elements in beats of `L`, its writes made together at `lat`; the slices it reads are spread
over its beats as their elements are. -/
def wholePlan (fp : Foot) (n L lat flags : Nat) (var : Bool) (w : List (Nat × Nat × Nat)) (reads : Nat → List (Nat × Nat)) : LanePlan :=
  let nb := ceilDiv n L
  { fp := fp, lat := lat, whole := true, var := var
    beats := (List.range nb).map fun k =>
      { w := ⟨if k + 1 = nb then w else [], []⟩, flags := if k + 1 = nb then flags else 0, reads := reads k } }

/-- The result of an inactive element (R130). -/
def Jet.idle (j : Jet) (c : LaneCtl) (d : Operand) (i : Nat) : Nat := if c.mmode == .zero then 0 else d.val j.frame i

end Sys2Proof.Machine

namespace Sys2Proof

open Machine

/-- The element of an operand that number `i` names, as a list of one operand use (R71, R128). -/
def ElemOp.at_ (o : ElemOp) (i : Nat) : ElemOp :=
  match o with
  | .slice s => .slice s
  | .view v off => .view v (BitVec.ofNat 12 (off.toNat + i))

/-- Whether element `i` counted from the offset is a number the view field can hold. -/
def ElemOp.reach (o : ElemOp) (i : Nat) : Bool :=
  match o with
  | .slice _ => true
  | .view _ off => decide (off.toNat + i < 4096)

end Sys2Proof

namespace Sys2Proof.Machine

/-- A chosen element of a source, and the slices of chosen elements. -/
def Jet.pickVal (j : Jet) (o : ElemOp) (i : Nat) : Nat :=
  match o with
  | .slice s => s.get j.frame
  | .view v off => match elemAt j.limit (j.view v.toNat) (off.toNat + i) with
    | .ok s => j.frame.read s (vWidth (j.view v.toNat)) | .error _ => 0
def Jet.pickRng (j : Jet) (o : ElemOp) (ix : List Nat) : List (Nat × Nat) :=
  match o with
  | .slice s => s.range
  | .view v off => match elemsAt j.limit (j.view v.toNat) (ix.map (off.toNat + ·)) with
    | .ok l => l.map fun s => (s, vWidth (j.view v.toNat)) | .error _ => []

/-- A whole-vector instruction that fills D's elements from chosen elements of A (`vperm`, `vbcast`, `vexpd`): `ix i` is the number of
A's element for active element `i`, none giving 0; B, where used, is a source besides. -/
def Jet.gatherPlan (j : Jet) (o : L3) (uB : List Use) (ix : Nat → Option Nat) : LanePlan :=
  let n := j.shapeN o.d
  let L := laneL o.c
  let d := j.use o.d n
  let want := (j.actives o.c n).filterMap ix
  let f0 := j.laneFoot (Use.into o.d (some o.c.e) n (j.kept o.c n) :: uB) (j.badWidth o.a o.c.e) o.c.msrc [] (ceilDiv n L + 1) (decide (n ≤ L))
  let rng := j.pickRng o.a want
  let fp := { f0 with
    bad := match f0.bad with | some x => some x | none => j.pickBad o.a want
    src := rng ++ f0.src, rd := rng ++ f0.rd
    cross := f0.cross || (match o.a with | .slice s => s.crosses | .view _ _ => false) }
  let w := (List.range n).flatMap fun i =>
    d.put i (if j.active o.c i then (match ix i with | some k => j.pickVal o.a k | none => 0) else j.idle o.c d i)
  wholePlan fp n L (ceilDiv n L + 1) 0 false w fun _ => fp.src

def planVperm (j : Jet) (o : L3) : LanePlan :=
  let n := j.shapeN o.d
  let b := j.use o.b n
  j.gatherPlan o [Use.from_ o.b none n (j.actives o.c n)] fun i => let k := b.val j.frame i; if k < j.avail o.a then some k else none
/-- `vperm` (R141). -/
def execVperm (h : Hdr) (o : L3) (s : State) : Out := s.lane h (planVperm s.cur o)

def planVbcast (j : Jet) (o : L3) : LanePlan :=
  let p := j.gatherPlan o [] fun _ => some o.c.aux8.toNat
  { p with fp := { p.fp with bad := match p.fp.bad with
    | some x => some x
    | none => if j.avail o.a ≤ o.c.aux8.toNat then j.pickBad o.a [o.c.aux8.toNat] else none } }
/-- `vbcast` (R141). Where no element is active, A is not read, and only an aux8 beyond A's elements traps (R128). -/
def execVbcast (h : Hdr) (o : L3) (s : State) : Out := s.lane h (planVbcast s.cur o)

def planVexpd (j : Jet) (o : L3) : LanePlan :=
  j.gatherPlan o [] fun i => some ((List.range i).filter (j.active o.c)).length
/-- `vexpd` (R144). -/
def execVexpd (h : Hdr) (o : L3) (s : State) : Out := s.lane h (planVexpd s.cur o)

def planVcmpr (j : Jet) (o : L3) : LanePlan :=
  let n := j.shapeN o.a
  let L := laneL o.c
  let act := j.actives o.c n
  let us := [Use.into o.d (some o.c.e) (if o.c.mmode == .merge then act.length else n) [], Use.from_ o.a (some o.c.e) n (j.ofShape o.a act)]
  let d := j.use o.d (if o.c.mmode == .merge then act.length else n)
  let vals := act.map ((j.use o.a n).val j.frame) ++ if o.c.mmode == .merge then [] else List.replicate (n - act.length) 0
  wholePlan (j.laneFoot us false [o.c.mask.toNat] [] (ceilDiv n L + 1) (decide (n ≤ L))) n L (ceilDiv n L + 1) 0 false
    (vals.mapIdx fun i v => d.put i v).flatten (j.beatReads us L)
/-- `vcmpr` (R144). -/
def execVcmpr (h : Hdr) (o : L3) (s : State) : Out := s.lane h (planVcmpr s.cur o)

/-! ### Reductions and scans (R123, R125, R142, R143) -/

/-- The identity of an FP operator in FP32 (R123). -/
def fpIdent (op : Nat) : Nat := if op = 0 then 0x80000000 else if op = 1 then 0x7f800000 else 0xff800000
/-- An FP operator on FP32 (R142). -/
def fpOp (op : Nat) (rm : Rm) (x y : Nat) : Fl Nat :=
  if op = 0 then addFp pF32 rm x y else minmaxFp pF32 (op == 2) x y
/-- The identity of an integer operator on `n` bits (R142). -/
def intIdent (op n : Nat) (signed : Bool) : Int :=
  match op with
  | 1 => hiOf n signed
  | 2 => loOf n signed
  | 3 => (2 ^ n : Nat) - 1
  | _ => 0
/-- An integer operator (R142). -/
def intOp (op : Nat) (x y : Int) : Int :=
  match op with
  | 0 => x + y
  | 1 => if x ≤ y then x else y
  | 2 => if y ≤ x then x else y
  | 3 => (x.toNat &&& y.toNat : Nat)
  | 4 => (x.toNat ||| y.toNat : Nat)
  | _ => (x.toNat ^^^ y.toNat : Nat)

end Sys2Proof.Machine

namespace Sys2Proof

open Machine

/-- The reading of an integer element: bitwise operators act on the bits. -/
def LaneCtl.redInt (c : LaneCtl) (op x : Nat) : Int := if op < 3 then c.rdInt x else zext x (4 * c.e)

/-- Converts a class value to FP32 for a reduction, and back (R123). -/
def LaneCtl.widen (c : LaneCtl) (x : Nat) : Fl Nat := if c.cls == .bf16 then bfToF32 x else (x, 0)
def LaneCtl.narrow (c : LaneCtl) (x : Nat) : Fl Nat := if c.cls == .bf16 then f32ToBf x else (x, 0)

end Sys2Proof

namespace Sys2Proof.Machine

def orFlags (l : List (Fl Nat)) : Nat := l.foldl (fun f x => f ||| x.2) 0

end Sys2Proof.Machine

namespace Sys2Proof

open Machine

/-- The reduction of the listed elements, `none` an inactive one (R123, R125, R142). Where no operation is made, for one element as for prefix 0 of
a scan, an FP32 element comes through with its payload and raises nothing, the model's choice (R107 speaks of arithmetic results, log 25). -/
def LaneCtl.reduce (c : LaneCtl) (op : Nat) (l : List (Option Nat)) : Fl Nat :=
  if c.fp then
    let w := l.map fun x => match x with | some v => c.widen v | none => (fpIdent op, 0)
    let t := tree (fpOp op c.rm) (fpIdent op) (w.map (·.1))
    let r := c.narrow t.1
    (r.1, orFlags w ||| t.2 ||| r.2)
  else
    let r := l.foldl (fun acc x => intOp op acc (match x with | some v => c.redInt op v | none => intIdent op (4 * c.e) c.signed))
      (intIdent op (4 * c.e) c.signed)
    (if op = 0 then c.fit r else trunc r (4 * c.e), 0)

/-- The latency of a reduction or scan over `n` elements in `nb` beats (R142). -/
def LaneCtl.redLat (c : LaneCtl) (n nb : Nat) : Nat :=
  let lt := if c.fp then 2 else 1
  max lt (nb - 1 + lt * clog2 n)

end Sys2Proof

namespace Sys2Proof.Machine

def planVred (j : Jet) (o : L3) : LanePlan :=
  let n := j.shapeN o.a
  let L := laneL o.c
  let us := [Use.into o.d (some o.c.e) 1 [], Use.from_ o.a (some o.c.e) n (j.ofShape o.a (j.actives o.c n))]
  let a := j.use o.a n
  let r := o.c.reduce o.c.subfn.toNat ((List.range n).map fun i => if j.active o.c i then some (a.val j.frame i) else none)
  wholePlan (j.laneFoot us false o.c.msrc [] (o.c.redLat n (ceilDiv n L)) false) n L (o.c.redLat n (ceilDiv n L)) r.2 true
    ((j.use o.d 1).put 0 r.1) (j.beatReads us L)
/-- `vred` (R142). -/
def execVred (h : Hdr) (o : L3) (s : State) : Out := s.lane h (planVred s.cur o)

/-- One step of the prefix sequence of R143, at distance 2^d. -/
def scanStep {α : Type} (op : α → α → α × Nat) (d : Nat) (l : List α) : List α × Nat :=
  let z := (l.drop (2 ^ d)).zipWith (fun y x => op x y) l
  (l.take (2 ^ d) ++ z.map (·.1), z.foldl (fun f x => f ||| x.2) 0)
/-- Steps d, d + 1, …, d + k − 1. -/
def scanRun {α : Type} (op : α → α → α × Nat) : Nat → Nat → List α → List α × Nat
  | 0, _, l => (l, 0)
  | k + 1, d, l =>
    let a := scanStep op d l
    let r := scanRun op k (d + 1) a.1
    (r.1, a.2 ||| r.2)

def planVscan (j : Jet) (o : L3) : LanePlan :=
  let n := j.shapeN o.d
  let L := laneL o.c
  let op := o.c.subfn.toNat
  let us := [Use.into o.d (some o.c.e) n (j.kept o.c n), Use.from_ o.a (some o.c.e) n (j.actives o.c n)]
  let d := j.use o.d n
  let a := j.use o.a n
  let xs := (List.range n).map fun i => if j.active o.c i then some (a.val j.frame i) else none
  let res : List Nat × Nat :=
    if o.c.fp then
      let w := xs.map fun x => match x with | some v => o.c.widen v | none => (fpIdent op, 0)
      let t := scanRun (fpOp op o.c.rm) (clog2 n) 0 (w.map (·.1))
      let r := t.1.mapIdx fun i x => if j.active o.c i then o.c.narrow x else (0, 0)
      (r.map (·.1), orFlags w ||| t.2 ||| orFlags r)
    else
      let t := scanRun (fun x y => (intOp op x y, 0)) (clog2 n) 0
        (xs.map fun x => match x with | some v => o.c.redInt op v | none => intIdent op (4 * o.c.e) o.c.signed)
      (t.1.map fun r => if op = 0 then o.c.fit r else trunc r (4 * o.c.e), 0)
  let w := (List.range n).flatMap fun i => d.put i (if j.active o.c i then (res.1[i]?).getD 0 else j.idle o.c d i)
  let lat := o.c.redLat n (ceilDiv n L)
  wholePlan (j.laneFoot us false o.c.msrc [] lat false) n L lat res.2 true w (j.beatReads us L)
/-- `vscan` (R143). -/
def execVscan (h : Hdr) (o : L3) (s : State) : Out := s.lane h (planVscan s.cur o)

/-! ### Conversions (R146 to R148) -/

/-- Elements a beat where D and A differ in width (R129). -/
def wideL (eD eA : Nat) : Nat := 256 / max eD eA

def Jet.convert (j : Jet) (o : L3) (eD eA : Nat) (f : Nat → Fl Nat) : LanePlan :=
  j.elementwise o eD eA none (wideL eD eA) 4 false false fun a _ _ => f a

def planFcvtBf (j : Jet) (o : L3) : LanePlan := j.convert o 4 8 f32ToBf
/-- `fcvt.bf` (R111, R146). -/
def execFcvtBf (h : Hdr) (o : L3) (s : State) : Out := s.lane h (planFcvtBf s.cur o)

def planFcvtF (j : Jet) (o : L3) : LanePlan := j.convert o 8 4 bfToF32
/-- `fcvt.f` (R111, R146). -/
def execFcvtF (h : Hdr) (o : L3) (s : State) : Out := s.lane h (planFcvtF s.cur o)

def planIcvtF (j : Jet) (o : L3) : LanePlan := j.convert o o.c.fpw (o.c.iwidth.toNat + 1) fun a => let w := 4 * (o.c.iwidth.toNat + 1); intToFp o.c.p o.c.rm (if o.c.signed then sext a w else zext a w)
/-- `icvt.f` (R146). -/
def execIcvtF (h : Hdr) (o : L3) (s : State) : Out := s.lane h (planIcvtF s.cur o)

def planFcvtI (j : Jet) (o : L3) : LanePlan := j.convert o (o.c.iwidth.toNat + 1) o.c.fpw fun a => let w := 4 * (o.c.iwidth.toNat + 1); let r := fpToInt w o.c.signed o.c.rm (fpDec o.c.p a); (trunc r.1 w, r.2)
/-- `fcvt.i` (R146). -/
def execFcvtI (h : Hdr) (o : L3) (s : State) : Out := s.lane h (planFcvtI s.cur o)

/-- The fields of a scale descriptor (R147). -/
structure Scale where
  signed : Bool
  mid : Bool
  p : Nat
  big : Nat
  e : Int
  base : Nat
  deriving DecidableEq, Repr
def Scale.of (x : Nat) : Scale :=
  { signed := fld x 49 1 == 1, mid := fld x 48 1 == 1, p := min (fld x 44 4) (fld x 40 4) + 1, big := fld x 40 4 + 1,
    e := sext (fld x 32 8) 8, base := fld x 0 32 }

end Sys2Proof.Machine

namespace Sys2Proof

open Machine

/-- The descriptor operand B: a slice operand of width 16 (R146). -/
def L3.scale (o : L3) (j : Jet) : Scale := Scale.of (match o.b with | .slice b => b.get j.frame | .view _ _ => 0)

end Sys2Proof

namespace Sys2Proof.Machine

/-- `qnt` and `dqnt`: B is one broadcast descriptor (R129, R147). -/
def Jet.scaled (j : Jet) (o : L3) (eD eA : Nat) (f : Nat → Fl Nat) : LanePlan :=
  j.elementwise o eD eA (some 16) (wideL eD eA) 4 false false fun a _ _ => f a

def planQnt (j : Jet) (o : L3) : LanePlan := let k := o.scale j; let w := 4 * (o.c.iwidth.toNat + 1)
  j.scaled o (o.c.iwidth.toNat + 1) o.c.fpw fun a => match posFin k.base with | none => (0, fNv) | some b => let r := quantize k.big k.signed b.1 (b.2 + k.e) (fpDec o.c.p a); (trunc r.1 w, r.2)
/-- `qnt` (R116, R147). -/
def execQnt (h : Hdr) (o : L3) (s : State) : Out := s.lane h (planQnt s.cur o)

def planDqnt (j : Jet) (o : L3) : LanePlan := let k := o.scale j
  j.scaled o o.c.fpw (o.c.iwidth.toNat + 1) fun a => match posFin k.base with | none => (0, fNv) | some b => dequantize o.c.p b.1 (b.2 + k.e) (effVal k.big k.p k.mid (if k.signed then sext a k.p else zext a k.p))
/-- `dqnt` (R117, R147). -/
def execDqnt (h : Hdr) (o : L3) (s : State) : Out := s.lane h (planDqnt s.cur o)

def planBpack (j : Jet) (o : L3) : LanePlan :=
  let iw := o.c.iwidth.toNat + 1
  let P := o.c.subfn.toNat + 1
  let n := min 64 (j.shapeN o.a)
  let a := j.use o.a n
  let us := [Use.into o.d (some 16) P [], Use.from_ o.a (some iw) n (List.range n)]
  let word (k : Nat) : Nat := ((List.range n).map fun i => fld (a.val j.frame i) (P - 1 - k) 1 * 2 ^ i).sum
  let L := 256 / iw
  wholePlan (j.laneFoot us false [] [] (ceilDiv n L + 1) (decide (n ≤ L))) n L (ceilDiv n L + 1) 0 false
    ((List.range P).flatMap fun k => (j.use o.d P).put k (word k)) (j.beatReads us L)
/-- `bpack` (R112, R148). -/
def execBpack (h : Hdr) (o : L3) (s : State) : Out := s.lane h (planBpack s.cur o)

/-- Where `bunpk` names more planes than D's element has bits, or more than the 16 that R113 speaks of, all words are read and q is cut to D's
element: the model's choice (log 25). -/
def planBunpk (j : Jet) (o : L3) : LanePlan :=
  let iw := o.c.iwidth.toNat + 1
  let p := o.c.subfn.toNat + 1
  let n := min 64 (j.shapeN o.d)
  let a := j.use o.a p
  let us := [Use.into o.d (some iw) n [], Use.from_ o.a (some 16) p (List.range p)]
  let q (k : Nat) : Nat := ((List.range p).map fun i => fld (a.val j.frame i) k 1 * 2 ^ (p - 1 - i)).sum
  let L := 256 / iw
  wholePlan (j.laneFoot us false [] [] (ceilDiv n L + 1) (decide (n ≤ L))) n L (ceilDiv n L + 1) 0 false
    ((List.range n).flatMap fun k => (j.use o.d n).put k (trunc (if o.c.signed then sext (q k) p else zext (q k) p) (4 * iw)))
    fun _ => a.ranges
/-- `bunpk` (R113, R148). -/
def execBunpk (h : Hdr) (o : L3) (s : State) : Out := s.lane h (planBunpk s.cur o)

/-! ### Mask instructions (R145) -/

/-- A mask result of 1 tc. -/
def State.maskResult (s : State) (h : Hdr) (fp : Foot) (d : BitVec 3) (m : BitVec 256) : Out :=
  s.guarded fp fun s => (s.owe 1 ⟨[], [(d.toNat, m)]⟩ 0).advance h 8

def footM (d : BitVec 3) (src : List (BitVec 3)) : Foot := { msrc := src.map (·.toNat), mdst := [d.toNat], lat := 1, fixed := true }
/-- A test of a mask into a slice operand. -/
def footT (d : SliceOp) (a : BitVec 3) : Foot := { footS d [] [] 1 with msrc := [a.toNat] }

/-- `mand` (R145). -/
def execMand (h : Hdr) (d a b : BitVec 3) (s : State) : Out :=
  s.maskResult h (footM d [a, b]) d (s.cur.mask a.toNat &&& s.cur.mask b.toNat)
/-- `mor` (R145). -/
def execMor (h : Hdr) (d a b : BitVec 3) (s : State) : Out :=
  s.maskResult h (footM d [a, b]) d (s.cur.mask a.toNat ||| s.cur.mask b.toNat)
/-- `mxor` (R145). -/
def execMxor (h : Hdr) (d a b : BitVec 3) (s : State) : Out :=
  s.maskResult h (footM d [a, b]) d (s.cur.mask a.toNat ^^^ s.cur.mask b.toNat)
/-- `mnot` (R145). -/
def execMnot (h : Hdr) (d a : BitVec 3) (s : State) : Out := s.maskResult h (footM d [a]) d (~~~ s.cur.mask a.toNat)
/-- `mset` sets the bits below its count (R145). -/
def execMset (h : Hdr) (d : BitVec 3) (count : BitVec 9) (s : State) : Out :=
  s.maskResult h (footM d []) d (BitVec.ofNat 256 (2 ^ count.toNat - 1))
/-- `mtest.any` (R145). -/
def execMtestAny (h : Hdr) (d : SliceOp) (a : BitVec 3) (s : State) : Out :=
  s.result h 8 (footT d a) d (b2n (s.cur.mask a.toNat != 0) : Nat)
/-- `mtest.all` (R145). -/
def execMtestAll (h : Hdr) (d : SliceOp) (a : BitVec 3) (s : State) : Out :=
  s.result h 8 (footT d a) d (b2n (s.cur.mask a.toNat == BitVec.allOnes 256) : Nat)
/-- `mpopc` (R145). -/
def execMpopc (h : Hdr) (d : SliceOp) (a : BitVec 3) (s : State) : Out :=
  s.result h 8 (footT d a) d (popBits 256 (s.cur.mask a.toNat).toNat : Nat)
/-- `mfirst` (R145). -/
def execMfirst (h : Hdr) (d : SliceOp) (a : BitVec 3) (s : State) : Out :=
  s.result h 8 (footT d a) d (ctzBits 256 (s.cur.mask a.toNat).toNat : Nat)

/-! ### Results written -/

/-- The jet with its owed result `id` replaced or, where nothing of it is left, taken out. -/
def Jet.setOwed (j : Jet) (id : Nat) (o : Option Owed) : Jet :=
  { j with owed := j.owed.flatMap fun x => if x.id = id then o.toList else [x] }
def Jet.findOwed (j : Jet) (id : Nat) : Option Owed := j.owed.find? fun o => o.id == id

/-- All writes of an owed result are made and its flags are ORed into `fpflags` (R108). -/
def Jet.writeAll (j : Jet) (o : Owed) : Jet :=
  let j1 := o.w.foldl Jet.put j
  { j1.setOwed o.id none with fpflags := o.flags.foldl (· ||| ·) j.fpflags }

/-- `RESULT_WRITEBACK`: a fixed-latency result is written (R34, R92). Focus: tile, slot, result. -/
def execResultWriteback (s : State) : Out :=
  let f := s.focus
  match (s.jet f.a f.b).findOwed f.c with
  | none => .next (s.modTile f.a fun x => x.limboDone f.c)
  | some o => .next (s.modJet f.a f.b fun j => j.writeAll o)

/-- `LANE_BEAT_WRITE`: a beat of a lane instruction of several beats is written, or all of them where they are held (R132, R133).
An enabled flag then traps under R388 and writes nothing (R110): the `fpten` of the write's tc decides (log 25). Focus: tile, slot, result. -/
def execLaneBeatWrite (s : State) : Out :=
  let f := s.focus
  match (s.jet f.a f.b).findOwed f.c with
  | none => .next (s.modTile f.a fun x => x.limboDone f.c)
  | some o =>
    let fl := o.flags.foldl (· ||| ·) 0
    if o.defer then
      if fl &&& (s.tile f.a).fpten != 0 then
        .next ((s.modJet f.a f.b fun j => { j with fpflags := j.fpflags ||| fl }).lateFault f.a f.b { cause := 11, flags := fl } o.pc [o.id] o.ord)
      else .next (s.modJet f.a f.b fun j => j.writeAll o)
    else
      match o.w, o.flags with
      | w :: ws, g :: gs =>
        .next (s.modJet f.a f.b fun j =>
          let j1 := j.put w
          let rest : Owed := { o with w := ws, flags := gs, dst := ws.flatMap fun x => x.sl.map fun e => (e.1, e.2.1) }
          { j1.setOwed o.id (if ws.isEmpty then none else some rest) with fpflags := j.fpflags ||| g })
      | _, _ => .next (s.modJet f.a f.b fun j => j.setOwed o.id none)

end Sys2Proof.Machine
end

