-- ==== Sys2Proof/Machine/Memory.lean ====
section
/-!
DEFINITION. Memory as agents reach it: physical addresses and homes (R210, R211), translation (R212 to R214), the L2
slice and its stash directory (R220 to R223), pool scratch and its landing guard (R217, R218, R246, R247), and the
tile's caches (R216, R219).
-/

namespace Sys2Proof.Machine

/-! ### Physical addresses -/

def paIo (pa : Nat) : Bool := fld pa 47 1 == 1
def paDev (pa : Nat) : Nat := fld pa 42 4
/-- Whether a physical address is one the device may reach (R210). -/
def paOk (pa : Nat) : Bool := fld pa 46 1 == 0 && (paIo pa || decide (fld pa 0 40 < Config.dieBytes))

/-- The stop whose L2 slice homes a physical address (R211). -/
def homeOf (pa : Nat) : Nat :=
  let g := fld pa 12 28
  fld pa 40 2 * 256 + ((fld g 0 8 ^^^ fld g 8 8) ^^^ (fld g 16 8 ^^^ fld g 24 4))

/-- The HBM stack of the home die that holds a physical address (R211). -/
def stackOf (pa : Nat) : Nat := fld pa 12 28 % 3

/-- The least even network cycle not before `n`: events of tiles come at tile cycles. -/
def evenUp (n : Nat) : Nat := (n + 1) / 2 * 2

/-! ### L2 slices (R220, R221, R222) -/

def l2Set (line : Nat) : Nat := fld line 0 9 -- bits [15:7] of the physical offset

/-- The line is used: it becomes the youngest of the slice. -/
def Stop.touch (x : Stop) (line : Nat) : Stop :=
  { x with l2Lines := line :: x.l2Lines.filter (· != line) }

def Stop.pinsOf (x : Stop) (line : Nat) : Nat := Tbl.get 0 x.pins line

/-- A line is filled into its set of 12 ways: the least recently used unpinned line is the victim, and where all are pinned
nothing is allocated (R221, R222). A dirty victim takes one of 8 write-back entries, or goes straight to its stack where all are busy. -/
def Stop.fill (x : Stop) (line : Nat) : Stop :=
  let mates := x.l2Lines.filter fun l => l2Set l == l2Set line && l != line
  if mates.length < 12 then x.touch line
  else
    match mates.reverse.find? fun l => x.pinsOf l == 0 with
    | none => x
    | some v =>
      { x with
        l2Lines := line :: x.l2Lines.filter fun l => l != line && l != v
        l2Dirty := x.l2Dirty.filter (· != v)
        writeBacks := if x.l2Dirty.contains v && decide (x.writeBacks.length < 8) then v :: x.writeBacks else x.writeBacks }

/-- The data of a line as its home holds it. -/
def State.memLine (s : State) (line : Nat) : Nat := s.mem.readN (128 * line) 128

def Stop.dirOf (x : Stop) (line : Nat) : Option DirEntry := x.dir.find? fun d => d.line == line

/-- A tile reports that it holds a line no more (R219). -/
def Stop.dirLeave (x : Stop) (line t : Nat) : Stop :=
  let l := x.dir.map fun (d : DirEntry) =>
    if d.line = line then ⟨d.line, (if d.owner = some t then none else d.owner), d.sharers.filter (· != t)⟩ else d
  { x with dir := l.filter fun d => d.owner.isSome || !d.sharers.isEmpty }

/-- Whether bytes `[o, o + n)` of a line hold one of its poisoned words (R224). -/
def badIn (bad : List Nat) (o n : Nat) : Bool := bad.any fun w => decide (8 * w < o + n) && decide (o < 8 * w + 8)

/-- The poisoned words of a line that a write under the nibble enables `en` of the line leaves: all of 8 bytes written clears their poison (R224). -/
def badLeft (bad : List Nat) (en : Nat) : List Nat := bad.filter fun w => fld en (16 * w) 16 != 2 ^ 16 - 1

/-- A write into a stash line (R219, R224). -/
def StashLine.wrote (l : StashLine) (o en v : Nat) : StashLine :=
  let en1 := en * 2 ^ (2 * o)
  { l with data := mergeNib l.data (v * 2 ^ (8 * o)) en1 256, bad := badLeft l.bad en1 }

/-- The data of an owned stash line come home, poisoned words with them (R219, R224). -/
def State.stashHome (s : State) (l : StashLine) : State :=
  { s with
    mem := s.mem.writeN (128 * l.pa) 128 l.data
    dev := { s.dev with poison := (s.dev.poison.filter fun w => w / 16 != l.pa) ++ l.bad.map fun w => 16 * l.pa + w } }

/-- The poisoned words of a line at its home (R224). -/
def State.badWords (s : State) (line : Nat) : List Nat :=
  (s.dev.poison.filter fun w => w / 16 == line).map (· % 16)

/-- The home recalls an owned stash copy before it performs an access of another agent, and before a write drops every copy
(R220). `by_` is the tile that performs the access through its own stash, if any. -/
def State.recall (s : State) (pa : Nat) (write : Bool) : State :=
  let line := pa / 128
  let h := homeOf pa
  match (s.stop h).dirOf line with
  | none => s
  | some d =>
    let s1 := match d.owner with
      | none => s
      | some o =>
        match (s.tile o).stash.find? fun l => l.pa == line && l.owned with
        | none => s
        | some l => s.stashHome l
    let hold := (match d.owner with | some o => [o] | none => []) ++ d.sharers
    if write then
      (hold.foldl (fun (s : State) t => s.modTile t fun x => { x with stash := x.stash.filter (·.pa != line) }) s1).modStop h fun x =>
        { x with dir := x.dir.filter (·.line != line) }
    else
      (hold.foldl (fun (s : State) t => s.modTile t fun x => { x with stash := x.stash.map fun l =>
        if l.pa = line then { l with owned := false } else l }) s1).modStop h fun x =>
        { x with dir := x.dir.map fun e => if e.line = line then { e with owner := none, sharers := hold } else e }

/-- Whether bytes of memory hold poison (R224). -/
def State.poisoned (s : State) (pa n : Nat) : Bool :=
  s.dev.poison.any fun w => decide (8 * w < pa + n) && decide (pa < 8 * w + 8)

/-- An access at its home uses its line of the slice: a line that is there becomes the youngest, another is filled; a write makes a line that
the slice holds dirty (R221). -/
def State.l2Use (s : State) (line : Nat) (write : Bool) : State :=
  s.modStop (homeOf (128 * line)) fun x =>
    let y := x.fill line
    if write && y.l2Lines.contains line then { y with l2Dirty := line :: y.l2Dirty.filter (· != line) } else y

/-- The lines of `[pa, pa + n)`. -/
def linesOf (pa n : Nat) : List Nat := (List.range ((pa + n - 1) / 128 - pa / 128 + 1)).map fun k => pa / 128 + k

/-- What an access at the home does before its bytes are read or written. -/
def State.homeUse (s : State) (pa n : Nat) (write : Bool) : State :=
  (linesOf pa n).foldl (fun (s : State) l => (s.recall (128 * l) write).l2Use l write) s

/-- A read at the home of an address. -/
def State.homeRead (s : State) (pa n : Nat) : Nat × State :=
  let s1 := s.homeUse pa n false
  (s1.mem.readN pa n, s1)

/-- Writing all of 8 bytes clears their poison (R224). -/
def State.clean (s : State) (pa n en : Nat) : State :=
  { s with dev := { s.dev with poison := s.dev.poison.filter fun w =>
      !(decide (pa ≤ 8 * w) && decide (8 * w + 8 ≤ pa + n) && fld en (2 * (8 * w - pa)) 16 == 2 ^ 16 - 1) } }

/-- A write at the home under nibble enables. -/
def State.homeWrite (s : State) (pa n en v : Nat) : State :=
  let s1 := s.homeUse pa n true
  ({ s1 with mem := s1.mem.writeEn pa n en v } : State).clean pa n en

/-! ### Units at a home

What a walker, a fetch, the weir, an engine or the host interface agent does at the home of an address. -/

/-- Whether a physical address is homed on this device (R16). -/
def State.ownPa (s : State) (pa : Nat) : Bool := !paIo pa && paDev pa == s.dev.device.toNat

/-- A unit uses the lines that the slice holds; an absent line comes with the packets of the access, or with `l2Bring` (R221). -/
def State.unitUse (s : State) (pa n : Nat) (write : Bool) : State :=
  (linesOf pa n).foldl (fun (s : State) l =>
    let s1 := s.recall (128 * l) write
    if (s1.stop (homeOf (128 * l))).l2Lines.contains l then s1.l2Use l write else s1) s

/-- A read by a unit. What another device holds is free (log 28). -/
def State.unitRead (s : State) (pa n : Nat) : Nat × State :=
  if s.ownPa pa then
    let s1 := s.unitUse pa n false
    (s1.mem.readN pa n, s1)
  else (Config.freeNode s.nc pa % 2 ^ (8 * n), s)

/-- A write by a unit to memory of this device. -/
def State.unitWrite (s : State) (pa n v : Nat) : State :=
  let s1 := s.unitUse pa n true
  ({ s1 with mem := s1.mem.writeEn pa n (fullEn n) v } : State).clean pa n (fullEn n)

/-- The tc until a line that its slice lacks has come from its stack, for a request that reaches the slice in `d` tc: it joins the miss entry that the line
has, or opens one (R221). -/
def State.missLeft (s : State) (line d : Nat) : Nat :=
  let h := homeOf (128 * line)
  let due := s.agenda.findSome? fun e => match e.2.2 with
    | .l2Fill => if e.2.1.a = h ∧ e.2.1.b = line then some ((e.1 - s.nc) / 2) else none
    | _ => none
  if (s.stop h).misses.any fun m => m.1 == line then (due.map fun n => n - d).getD 272 else 272

/-- A unit at its home slice misses a line: it takes a miss entry, which no request has joined yet, unless the line has one or all 64 are busy (R221). -/
def State.l2Bring (s : State) (line : Nat) : State :=
  let h := homeOf (128 * line)
  let x := s.stop h
  if x.l2Lines.contains line || (x.misses.any fun m => m.1 == line) || decide (64 ≤ x.misses.length) then s
  else (s.modStop h fun x => { x with misses := x.misses ++ [(line, [])] }).after 272 .l2Fill ⟨h, line, stackOf (128 * line), 0, 0⟩

/-! ### Packets -/

/-- The flits of a packet with `n` bytes of payload: up to 32 B travel in the header flit (R280). -/
def payFlits (n : Nat) : Nat := if n ≤ 32 then 1 else 1 + ceilDiv n 64

/-- The bytes of a line that nibble enables name: a write's payload. -/
def enBytes (en : Nat) : Nat := ((List.range 128).filter fun k => fld en (2 * k) 2 != 0).length

/-- The endpoint of this device that makes a packet (R280 sport): the tile for an access or a send, the slice for its answers, the weir for an
acknowledgement, the network interface for multicast and merge traffic. A tile that answers for its pool, and the host interface agent where it answers
or sends, name themselves. -/
def Pkt.sport (b : Pkt) : Endpoint :=
  match b with
  | .readResp .. | .writeAck .. | .atomicResp .. | .fault .. | .mcAnswer .. => .l2
  | .sendAck .. => .weir
  | .mcJoin .. | .mcJoinAck .. | .mcLine .. | .merge .. | .mergeJoin .. | .mergeAck .. | .refusal .. => .ni
  | .send m => match m.src with | .host => .host | _ => .tile
  | _ => .tile

/-- A packet of this device, ready after `d` network cycles. -/
def State.packet (s : State) (dev src dst : Nat) (port : Endpoint) (flits d : Nat) (b : Pkt) : Packet :=
  ⟨dev, dst, port, s.dev.device.toNat, src, flits, b, false, s.nc + d, b.sport⟩

/-- A packet to another stop of this device. -/
def State.inject (s : State) (src dst : Nat) (port : Endpoint) (flits d : Nat) (b : Pkt) : State :=
  s.modStop src fun x => { x with inject := x.inject ++ [s.packet s.dev.device.toNat src dst port flits d b] }

/-- A packet to a stop of any device. -/
def State.injectTo (s : State) (dev src dst : Nat) (port : Endpoint) (flits d : Nat) (b : Pkt) : State :=
  s.modStop src fun x => { x with inject := x.inject ++ [s.packet dev src dst port flits d b] }

/-- An answer to a tile by the endpoint that names itself in it (R280 sport): the tile whose pool was accessed, or the host interface agent (R261). -/
def State.answerBy (s : State) (by_ : Endpoint) (dev src dst flits d : Nat) (b : Pkt) : State :=
  s.modStop src fun x => { x with inject := x.inject ++ [{ s.packet dev src dst .tile flits d b with sport := by_ }] }

/-- The requester's number in a packet of a unit, not of a jet's access: kind 0 for one whose answer nothing awaits, 1 the fetch of an instruction
line, 2 a copy's source read, 3 a catch-up read, 4 the writes of a combined row and 5 those of a snapshot by a chain. -/
def unitId (kind n : Nat) : Nat := 2 ^ 66 * (kind + 1) + n % 2 ^ 66
def unitKind (id : Nat) : Nat := id / 2 ^ 66 - 1

/-- The stop and endpoint at which an address is served: its home slice, or the host interface agent (R16, R261). -/
def homePort (pa : Nat) : Nat × Endpoint := if paIo pa then (0, .host) else (homeOf pa, .l2)

/-- The device whose agent or slice serves an address. -/
def State.homeDev (s : State) (pa : Nat) : Nat := if paIo pa then s.dev.device.toNat else paDev pa

/-- A unit of stop `q` sends a read to the home of an address after `d` network cycles. -/
def State.askUnit (s : State) (q id pa n d : Nat) : State :=
  s.injectTo (s.homeDev pa) q (homePort pa).1 (homePort pa).2 1 d (.read q id 0 pa n)

/-- A unit of stop `q` sends a write of bytes within a line to their home; where `en` is 0 the packet goes the way of a write that is performed
already. -/
def State.tellUnit (s : State) (q id pa n en v : Nat) : State :=
  s.injectTo (s.homeDev pa) q (homePort pa).1 (homePort pa).2 (payFlits n) 28
    (.write q [id] (pa / 128) (en * 2 ^ (2 * (pa % 128))) (v * 2 ^ (8 * (pa % 128))))

/-! ### Translation (R212, R213, R214) -/

/-- The levels of the tree: index shift, index bits, and whether a leaf may stand there. -/
def ptLevels : List (Nat × Nat × Bool) := [(48, 9, false), (39, 9, false), (30, 9, true), (21, 9, true), (16, 5, true)]

def pageKindOf : Nat → PageKind
  | 0 => .strict
  | 1 => .release
  | 2 => .free
  | _ => .io

/-- The leaf an entry makes for a page of `2 ^ sh` bytes, if it is well formed (R212). -/
def leafOf (e va sh : Nat) : Except Nat TlbEntry :=
  let base := fld e 8 40 * 256
  if fld e 58 6 != 0 || fld e 48 7 != 0 || fld e 5 3 != 0 || base % 2 ^ sh != 0 then .error 5
  else .ok { vbase := va / 2 ^ sh * 2 ^ sh, size := 2 ^ sh, pbase := base, kind := pageKindOf (fld e 56 2), hc := fld e 55 1 == 1,
             r := fld e 2 1 == 1, w := fld e 3 1 == 1, x := fld e 4 1 == 1 }

/-- The walk from a node: its result, and the addresses of the entries it read. What a node on another device holds is free (log 28). -/
def State.walkFrom (s : State) (va : Nat) : List (Nat × Nat × Bool) → Nat → List Nat → Except Nat TlbEntry × List Nat
  | [], _, seen => (.error 5, seen)
  | (sh, bits, leafOk) :: r, node, seen =>
    let a := node + 8 * fld va sh bits
    if !paOk a || paIo a then (.error 8, seen)
    else
      let e := (s.unitRead a 8).1
      if fld e 0 1 = 0 then (.error 5, a :: seen)
      else if fld e 1 1 = 1 then (if leafOk then leafOf e va sh else .error 5, a :: seen)
      else State.walkFrom s va r (fld e 8 40 * 256) (a :: seen)

def State.walk (s : State) (va : Nat) : Except Nat TlbEntry × List Nat :=
  if 2 ^ 57 ≤ va then (.error 5, []) else s.walkFrom va ptLevels (s.dev.ptroot.toNat % 2 ^ 48) []

def TlbEntry.covers (e : TlbEntry) (va : Nat) : Bool := decide (e.vbase ≤ va) && decide (va < e.vbase + e.size)
def Tile.tlbFind (x : Tile) (va : Nat) : Option TlbEntry := x.tlb.find? fun e => e.covers va

/-- The walker set that serves an address, and its stop (R213). -/
def walkerSet (va : Nat) : Nat := fld va 21 6 ^^^ (fld va 27 6 ^^^ fld va 33 6)
def walkerStop (die va : Nat) : Nat :=
  let k := walkerSet va
  tileAt die (k / 4) (4 * (k % 4))

def Die.tcFind (x : Die) (va : Nat) : Option TlbEntry := (Tbl.get [] x.tcache (walkerSet va)).find? fun e => e.covers va

/-- Latency of an L2 read by the agent at stop `t` (R225). -/
def State.l2Cost (s : State) (t pa : Nat) : Nat :=
  28 + wayCost t (homeOf pa) +
    (if !s.ownPa pa || (s.stop (homeOf pa)).l2Lines.contains (pa / 128) then 0 else s.missLeft (pa / 128) (14 + wayCost t (homeOf pa) / 2))

/-- The tc from `tc` to the end of a walk of a page of the address that is already going: a further miss joins it (R213). -/
def Die.walkLeft (x : Die) (tc va : Nat) : Option Nat :=
  x.walks.findSome? fun w => if w.2.1 ≤ va ∧ va < w.2.1 + w.2.2.1 ∧ tc < w.2.2.2 then some (w.2.2.2 - tc) else none

/-- The ends of some walks in rising order. -/
def insertNat (n : Nat) : List Nat → List Nat
  | [] => [n]
  | m :: r => if n ≤ m then n :: m :: r else m :: insertNat n r

/-- The tc that a further walk waits for one of the 4 places of its walker set (R213). -/
def Die.walkWait (x : Die) (tc va : Nat) : Nat :=
  let l := ((x.walks.filter fun w => w.1 == walkerSet va && decide (tc < w.2.2.2)).map (·.2.2.2)).foldr insertNat []
  if l.length < 4 then 0 else (l[l.length - 4]?).getD tc - tc

/-- The translation of an address: what it gives, and the tc a TLB miss adds (R225). -/
def State.xlate (s : State) (t va : Nat) : Except Nat TlbEntry × Nat :=
  if 2 ^ 57 ≤ va then (.error 5, 0) else
  match (s.tile t).tlbFind va with
  | some e => (.ok e, 0)
  | none =>
    let d := s.die (dieOf t)
    match d.tcFind va with
    | some e => (.ok e, 24)
    | none =>
      let w := s.walk va
      (w.1, (d.walkLeft s.tc va).getD (d.walkWait s.tc va + 24 + (w.2.map fun a => s.l2Cost (walkerStop (dieOf t) va) a).sum))

/-- A miss of the TLB and of the die's translation cache that joins no walk takes its place in its walker set (R213). -/
def State.walkBegins (s : State) (t va : Nat) : State :=
  let d := s.die (dieOf t)
  if decide (2 ^ 57 ≤ va) || ((s.tile t).tlbFind va).isSome || (d.tcFind va).isSome || (d.walkLeft s.tc va).isSome then s
  else
    let x := s.xlate t va
    let p := match x.1 with | .ok e => (e.vbase, e.size) | .error _ => (va / 65536 * 65536, 65536)
    -- the reads of its nodes leave the walker one after another
    let q := walkerStop (dieOf t) va
    let sent := (s.walk va).2.foldr (fun a (m : State × Nat) => (m.1.askUnit q (unitId 0 0) a 8 (2 * m.2 + 28), m.2 + s.l2Cost q a))
      (s, d.walkWait s.tc va + 24)
    sent.1.modDie (dieOf t) fun d => { d with walks := (d.walks.filter fun w => decide (s.tc < w.2.2.2)) ++ [(walkerSet va, p.1, p.2, s.tc + x.2)] }

/-- A walk reads its nodes at their homes (R213). -/
def State.walkReads (s : State) (t va : Nat) : State :=
  if decide (2 ^ 57 ≤ va) || ((s.tile t).tlbFind va).isSome || ((s.die (dieOf t)).tcFind va).isSome then s
  else (s.walk va).2.foldr (fun a (s : State) => (s.unitRead a 8).2) s

/-- The set of an entry in a TLB of 64 sets of 8 ways: its page number's low bits (log 7). -/
def TlbEntry.set (e : TlbEntry) : Nat := e.vbase / e.size % 64

/-- An entry becomes the youngest of its list; beyond `n` the oldest leaves. -/
def youngest (e : TlbEntry) (l : List TlbEntry) (n : Nat) : List TlbEntry := (e :: l.filter (· != e)).take n

/-- The entry is made, or becomes the youngest, in the tile's TLB and in the walker set of the die's translation cache that serves the address
(R213, log 7). -/
def State.cacheXlate (s : State) (t va : Nat) (e : TlbEntry) : State :=
  (s.modTile t fun x => { x with
    tlb := youngest e (x.tlb.filter fun m => m.set == e.set) 8 ++ x.tlb.filter fun m => m.set != e.set }).modDie (dieOf t) fun d =>
    { d with tcache := Tbl.set d.tcache (walkerSet va) (youngest e (Tbl.get [] d.tcache (walkerSet va)) 512) }

/-! ### The address map (R208) -/

/-- The pool a virtual address names: device, tile and pool byte; `none` for an ordinary address. -/
def poolOf (dev t va : Nat) : Option (Nat × Nat × Nat) :=
  if va < 2 ^ 20 then some (dev, t, va)
  else if 2 ^ 40 ≤ va ∧ va < 2 ^ 40 + 2 ^ 34 then
    some ((va - 2 ^ 40) / 2 ^ 30, (va - 2 ^ 40) / 2 ^ 20 % 1024, (va - 2 ^ 40) % 2 ^ 20)
  else none

/-- The number of fenced units of a kind (R360). -/
def Tile.fencedOf (x : Tile) (kind : Nat) : Nat := (x.fenced.filter fun f => f.1 == kind).length

/-- Whether `[p, p + n)` lies in scratch ways of a pool; a fenced way is neither scratch nor stash (R217, R360). -/
def Tile.scratch (x : Tile) (p n : Nat) : Bool :=
  decide (p + n ≤ 2 ^ 20) && (List.range 16).all fun w =>
    !((x.poolways.getLsbD w || x.fenced.contains (2, w)) && decide (65536 * w < p + n) && decide (p < 65536 * (w + 1)))

/-- The parts of `[va, va + nb)` by 128 B line: offset, address, bytes (R215). -/
def lineParts (va nb : Nat) : List (Nat × Nat × Nat) :=
  (List.range ((va + nb - 1) / 128 - va / 128 + 1)).map fun k =>
    let a := max va ((va / 128 + k) * 128)
    let b := min (va + nb) ((va / 128 + k + 1) * 128)
    (a - va, a, b - a)

/-- What an access needs of a page. -/
inductive Need where
  | read | write | both | fetch
  deriving DecidableEq, Repr

def TlbEntry.allows (e : TlbEntry) : Need → Bool
  | .read => e.r
  | .write => e.w
  | .both => e.r && e.w && e.kind != .io
  | .fetch => e.x

end Sys2Proof.Machine

namespace Sys2Proof

open Machine

def KindOv.apply (o : KindOv) (k : PageKind) : PageKind :=
  match k, o with
  | .io, _ => .io
  | k, .page => k
  | _, .strict => .strict
  | _, .release => .release
  | _, .free => .free

end Sys2Proof

namespace Sys2Proof.Machine

/-- The stash map entry whose range holds an address (R219). -/
def Tile.stashed (x : Tile) (va : Nat) : Bool :=
  x.poolways != 0 && x.stashMaps.any fun e =>
    match e.2 with
    | some (b, n) => decide (b ≤ va) && decide (va < b + n)
    | none => false

/-- Whether an access may be served from the stash (R219): no atomic, no fetch, none overridden to strict, and none that is performed at its home whatever
the stash holds: a `wsig`, an acquire at device or system scope, a unit's access (R220, R232, R267). -/
def usesStash (need : Need) (ov : KindOv) (direct : Bool) : Bool := need != .both && need != .fetch && ov != .strict && !direct

/-- One part of an access, translated, or its cause (R208, R214). A line of another device's memory inside a stash mapping is not stashed, since no
directory of this device holds it: the model's choice (log 28). -/
def State.partOf (s : State) (t : Nat) (need : Need) (ov : KindOv) (direct : Bool) (e : Nat × Nat × Nat) : Except Nat Part :=
  let va := e.2.1 % 2 ^ 64
  match poolOf s.dev.device.toNat t va with
  | some (d, o, p) =>
    if need = .fetch then .error 6
    else if d = s.dev.device.toNat ∧ !(s.tile o).scratch p e.2.2 then .error 10
    else .ok { off := e.1, nb := e.2.2, va := va, kind := if ov = .strict then .strict else .release, path := .pool,
               pool := 1024 * d + o, addr := p, sent := false, performed := false, acked := false }
  | none =>
    let hit := if (s.tile t).stashed va && usesStash need ov direct then
      (s.tile t).stash.find? fun l => l.va == va / 128 else none
    match hit with
    | some l =>
      .ok { off := e.1, nb := e.2.2, va := va, kind := ov.apply (if l.free then .free else .release), path := .stash, pool := 0,
            addr := l.pa * 128 + va % 128, sent := false, performed := false, acked := false, free := l.free, page := (128 * l.va, 128) }
    | none =>
      match (s.xlate t va).1 with
      | .error c => .error c
      | .ok x =>
        let pa := x.pbase + (va - x.vbase)
        let k := ov.apply x.kind
        if !x.allows need then .error 6
        else if !paOk pa then .error 8
        else
          let plain := (k = .release || k = .free) && !x.hc && need != .both && need != .fetch && !direct
          let path : Path := if !plain then .bypass
            else if !(s.tile t).stashed va then .cached
            else if paDev pa == s.dev.device.toNat then .stash else .bypass
          .ok { off := e.1, nb := e.2.2, va := va, kind := k, path := path, pool := 0, addr := pa, sent := false, performed := false,
                acked := false, free := x.kind == .free, page := (x.vbase, x.size) }

/-- The first of two causes in the order of R347. -/
def minCause (a b : Nat) : Nat := min a b

/-- The parts of an access, or its cause: the first in the order not present, permission, atomic straddle, access, pool range.
An access that reaches past the end of a pool window it begins in raises pool range (R208). -/
def State.partsOf (s : State) (t : Nat) (need : Need) (ov : KindOv) (direct : Bool) (va nb : Nat) : Except Nat (List Part) :=
  let past := match poolOf s.dev.device.toNat t va with
    | some (_, _, p) => decide (2 ^ 20 < p + nb)
    | none => false
  if past then .error 10
  else
    let l := (lineParts va nb).map (s.partOf t need ov direct)
    let bad := l.filterMap fun p => match p with | .error c => some c | .ok _ => none
    match bad with
    | c :: r => .error (r.foldl minCause c)
    | [] => .ok (l.filterMap fun p => match p with | .ok q => some q | .error _ => none)

/-- Whether a part at an address needs no translation: in a pool window, or a stash hit of an access that uses the stash (`st`; R219). -/
def State.untranslated (s : State) (t a : Nat) (st : Bool) : Bool :=
  (poolOf s.dev.device.toNat t a).isSome || (st && (s.tile t).stashed a && (s.tile t).stash.any fun l => l.va == a / 128)

/-- The tc that TLB misses add to an access (R225, R389). -/
def State.xlateCost (s : State) (t va nb : Nat) (st : Bool := false) : Nat :=
  (lineParts va nb).foldl (fun m e =>
    let a := e.2.1 % 2 ^ 64
    if s.untranslated t a st then m else max m (s.xlate t a).2) 0

/-- The translations an access used are cached. -/
def State.cacheFor (s : State) (t va nb : Nat) (st : Bool := false) : State :=
  (lineParts va nb).foldl (fun s e =>
    let a := e.2.1 % 2 ^ 64
    if s.untranslated t a st then s
    else match (s.xlate t a).1 with | .ok x => s.cacheXlate t a x | .error _ => s) s

/-- The walks that an access needs begin. -/
def State.walksBegin (s : State) (t va nb : Nat) (st : Bool := false) : State :=
  (lineParts va nb).foldl (fun s e =>
    let a := e.2.1 % 2 ^ 64
    if s.untranslated t a st then s else s.walkBegins t a) s

/-- The walks of an access are over: their nodes have been read, and what they gave is cached. -/
def State.walked (s : State) (t va nb : Nat) (st : Bool := false) : State :=
  ((lineParts va nb).foldl (fun s e =>
    let a := e.2.1 % 2 ^ 64
    if s.untranslated t a st then s else s.walkReads t a) s).cacheFor t va nb st

/-! ### The instruction cache (R29) -/

/-- The instruction-cache line of an address, 128 B (R29). -/
def lineOf (a : BitVec 64) : Nat := a.toNat / 128

def Tile.iline (x : Tile) (a : BitVec 64) : Option ILine := x.icache.find? fun l => l.va == lineOf a

/-- `n` bytes of a cached line from the address `a`. -/
def ILine.bytes (l : ILine) (a : BitVec 64) (n : Nat) : Nat := fld l.data (8 * (a.toNat % 128)) (8 * n)

/-- A line joins the instruction cache: 4 ways, 128 sets of VA[13:7], the least recently used one leaves. -/
def Tile.ifill (x : Tile) (l : ILine) : Tile :=
  let mates := x.icache.filter fun m => m.va % 128 == l.va % 128 && m.va != l.va
  let victim := if mates.length < 4 then none else mates.getLast?.map (·.va)
  { x with icache := l :: x.icache.filter fun m => m.va != l.va && some m.va != victim }

/-- A line that was fetched from is the youngest of its set (R29). -/
def Tile.touchLine (x : Tile) (a : BitVec 64) : Tile :=
  match x.iline a with
  | some l => { x with icache := l :: x.icache.filter fun m => m.va != l.va }
  | none => x

/-- The translation of a fetch of a line. -/
def State.fetchPart (s : State) (t line : Nat) : Except Nat Part := s.partOf t .fetch .page true (0, 128 * line, 128)

/-- A fetch of a line: the cause it meets with the state the walk leaves, or the state in which the line has joined the instruction cache (R29, R30).
A poisoned word anywhere in the line is met by the fetch, since lines fill whole: the model's choice (log 28). -/
def State.fetchLine (s : State) (t line : Nat) : State × Option Nat :=
  let s1 := s.walked t (128 * line) 128
  match s.fetchPart t line with
  | .error c => (s1, some c)
  | .ok p =>
    let s2 := s1.askUnit t (unitId 0 0) p.addr 128 0
    if s1.poisoned p.addr 128 then (s2, some 8)
    else
      let r := s2.unitRead p.addr 128
      (r.2.modTile t fun x => x.ifill ⟨line, r.1⟩, none)

/-! ### Body headers (R28, R387) -/

/-- The address of a body's header, and whether a fetch of its 8 bytes is aligned. -/
def hdrAt (entry : Nat) : Nat := (entry + 2 ^ 64 - 8) % 2 ^ 64
def hdrAligned (entry : Nat) : Bool := hdrAt entry % 4 == 0 && decide (hdrAt entry % 32 + 8 ≤ 32)

/-- The 8 bytes at `entry − 8`, fetched through the instruction side with their line: none where that fetch would fault. -/
def State.header (s : State) (t entry : Nat) : Option Nat :=
  let a := hdrAt entry
  if !hdrAligned entry then none
  else
    match (s.tile t).iline (BitVec.ofNat 64 a) with
    | some l => some (l.bytes (BitVec.ofNat 64 a) 8)
    | none =>
      match s.fetchPart t (a / 128) with
      | .error _ => none
      | .ok p => if s.poisoned p.addr 128 then none else some (fld (s.unitRead p.addr 128).1 (8 * (a % 128)) 64)

/-- What reading a body header leaves: the line it was found in is the youngest, or has been fetched (R29, R387). -/
def State.headerRead (s : State) (t entry : Nat) : State :=
  let a := hdrAt entry
  if !hdrAligned entry then s
  else match (s.tile t).iline (BitVec.ofNat 64 a) with
    | some _ => s.modTile t fun x => x.touchLine (BitVec.ofNat 64 a)
    | none => (s.fetchLine t (a / 128)).1

/-- The tc until a body header is read: from the instruction cache at once, else as a fetch (R29). -/
def State.headerCost (s : State) (t entry : Nat) : Nat :=
  let a := hdrAt entry
  if ((s.tile t).iline (BitVec.ofNat 64 a)).isSome then 0
  else
    (s.xlate t a).2 + match (s.xlate t a).1 with
      | .error _ => 0
      | .ok e => s.l2Cost t (e.pbase + (a - e.vbase))

def hdrGrans (h : Nat) : Nat := fld h 0 7 + 1
def hdrRole (h : Nat) : BitVec 2 := BitVec.ofNat 2 (fld h 7 2)
def hdrCasc (h : Nat) : Bool := fld h 9 1 == 1
def hdrBad (h : Nat) : Bool := fld h 10 54 != 0

/-! ### Pool scratch and its guard (R246 to R249) -/

/-- A window of a guard table: the tile and channel it belongs to, its bytes, the position of its watermark and its state. -/
structure Win where
  tile : Nat
  chan : Nat
  lo : Nat
  hi : Nat
  pos : Nat
  state : ChanState
  deriving DecidableEq, Repr

def Channel.pos (c : Channel) : Nat := c.winLo + (c.wm.toNat - c.winVa)

/-- The windows of the guard table of tile `t`: its own channels' and other tiles' (R246, R248). -/
def Tile.windows (x : Tile) (t : Nat) : List Win :=
  ((x.chans.filter fun c => c.2.guarded && (c.2.state == .landing || c.2.state == .frozen || c.2.state == .aborted)).map fun c =>
    (⟨t, c.1, c.2.winLo, c.2.winHi, c.2.pos, c.2.state⟩ : Win)) ++
  x.guards.map fun g => ⟨g.tile, g.chan, g.lo, g.hi, g.wm, g.state⟩

/-- Whether a window holds a byte of `[a, a + n)` at or above its watermark (R246). -/
def Win.above (w : Win) (a n : Nat) : Bool := decide (max w.pos w.lo < min w.hi (a + n)) && decide (a < w.hi)
def Win.holds (w : Win) (a n : Nat) : Bool := decide (w.lo < a + n) && decide (a < w.hi)
def Win.active (w : Win) : Bool := w.state == .landing || w.state == .frozen

inductive Guarded where
  | stall
  | aborted (chan : Nat)
  | clear
  deriving DecidableEq, Repr

def PoolReq.meets (h : PoolReq) (a n : Nat) : Bool := decide (h.addr < a + n) && decide (a < h.addr + h.nb)

/-- Whether every window that held a held write has retired, and every earlier held write of its bytes has landed (R247). -/
def Tile.heldRipe (x : Tile) (t : Nat) (h : PoolReq) : Bool :=
  !(x.windows t).any (fun w => w.active && w.holds h.addr h.nb) &&
    !(x.heldWrites.takeWhile (· != h)).any fun g => g.meets h.addr h.nb

/-- A read of `[a, a + n)` of the pool of tile `t` against the guard (R246) and the held writes (R247): by `rd`, a device's tile, whose own held
writes come first in any case. `own` is the channel whose own source read this is. -/
def Tile.guardRead (x : Tile) (t a n : Nat) (rd : Option (Nat × Nat)) (own : Option (Nat × Nat)) : Guarded :=
  let ws := (x.windows t).filter fun w => own != some (w.tile, w.chan)
  if ws.any (fun w => w.active && w.above a n) ||
      x.heldWrites.any (fun h => h.meets a n && (rd == some (h.dev, h.tile) || !(x.windows t).any fun w => w.active && w.holds h.addr h.nb)) then .stall
  else
    match ws.find? fun w => w.state == .aborted && w.above a n with
    | some w => .aborted w.chan
    | none => .clear

/-- Whether a write of `[a, a + n)` by a device's tile must be held: for a window, or behind a held write of the same tile (R247). -/
def Tile.guardWrite (x : Tile) (t a n : Nat) (by_ : Nat × Nat) : Bool :=
  (x.windows t).any (fun w => w.active && w.holds a n) || x.heldWrites.any fun h => h.meets a n && by_ == (h.dev, h.tile)

/-- Whether a copy that the jet asked for before its access `id` is not yet accepted and lands in `[a, a + n)` of the own pool. -/
def Tile.copyAhead (x : Tile) (jet id a n : Nat) : Bool :=
  x.copyQ.any fun c => c.jet == jet && decide (c.upTo ≤ id) && match c.ahead with
    | some (lo, m) => decide (lo < a + n) && decide (a < lo + m)
    | none => false

/-- A read of a pool against its guard. A jet's read of the own pool waits for its own earlier copy to be accepted too, which then guards what it
lands in (R271, R277). -/
def Tile.readGuard (x : Tile) (dev o : Nat) (q : PoolReq) : Guarded :=
  let mine := q.dev == dev && q.tile == o && match x.acc.find? fun a => a.id == q.acc with
    | some a => x.copyAhead a.jet a.id q.addr q.nb
    | none => false
  if mine then .stall else x.guardRead o q.addr q.nb (some (q.dev, q.tile)) none

def Tile.poolRead (x : Tile) (a n : Nat) : Nat := x.pool.readN a n
def Tile.poolPoison (x : Tile) (a n : Nat) : Bool := x.poison.any fun w => decide (8 * w < a + n) && decide (a < 8 * w + 8)
/-- A write into the pool under nibble enables; all of 8 bytes written clears their poison (R224). -/
def Tile.poolWrite (x : Tile) (a n en v : Nat) : Tile :=
  { x with
    pool := x.pool.writeEn a n en v
    poison := x.poison.filter fun w =>
      !(decide (a ≤ 8 * w) && decide (8 * w + 8 ≤ a + n) && fld en (2 * (8 * w - a)) 16 == 2 ^ 16 - 1) }

/-- A held write that may land: their windows have all retired, and they land in order (R247). -/
def Tile.ripeHeld (x : Tile) (t : Nat) : Option PoolReq := x.heldWrites.find? fun h => x.heldRipe t h

/-! ### L1 and write-combining (R216) -/

def Tile.l1Find (x : Tile) (line : Nat) : Option L1Line := x.l1.find? fun l => l.line == line

/-- Parts of the tile's accesses whose line is on its way and which `c` picks will not join the L1 (R262). -/
def Tile.stale (x : Tile) (c : Part → Bool) : Tile :=
  { x with acc := x.acc.map fun a => { a with parts := a.parts.map fun p =>
      if p.path == .cached && p.sent && !p.acked && c p then { p with stale := true } else p } }

/-- A write of the tile's own bytes of a line is performed at the line's home: a read of the line that is performed there later finds them, or newer
ones (R262, R272). -/
def Tile.ownDone (x : Tile) (line en : Nat) : Tile :=
  { x with acc := x.acc.map fun a => { a with parts := a.parts.map fun p =>
      if p.path == .cached && p.sent && !p.performed && p.addr / 128 == line then { p with own := (p.own.1 ^^^ (p.own.1 &&& en), p.own.2) } else p } }

/-- The L1 drops its copy of a line; one on its way may be older than what the tile sees from now on (R262). -/
def Tile.l1Drop (x : Tile) (line : Nat) : Tile :=
  { x.stale fun p => p.addr / 128 == line with l1 := x.l1.filter fun l => l.line != line }

/-- A line that is used is the youngest; a keep hint makes it one of at most 4 keep lines of its set. -/
def Tile.l1Use (x : Tile) (l : L1Line) (keep : Bool) : Tile :=
  let mates := x.l1.filter fun m => m.line % 512 == l.line % 512 && m.line != l.line && m.keep
  { x with l1 := { l with keep := l.keep || (keep && decide (mates.length < 4)) } :: x.l1.filter fun m => m.line != l.line }

/-- A way is fenced: a set keeps its youngest lines, one for each way that is left (R360). -/
def Tile.l1Trim (x : Tile) : Tile :=
  { x with l1 := x.l1.foldl (fun (m : List L1Line) l =>
      if (m.filter fun k => k.line % 512 == l.line % 512).length < 8 - x.fencedOf 1 then m ++ [l] else m) [] }

/-- A line is filled: 8 ways, the least recently used line that is not marked keep is the victim, then the least recently
used; at most 4 lines of a set are marked keep. -/
def Tile.l1Fill (x : Tile) (l : L1Line) : Tile :=
  let mates := x.l1.filter fun m => m.line % 512 == l.line % 512 && m.line != l.line
  let keep := l.keep && decide ((mates.filter (·.keep)).length < 4)
  if 8 ≤ x.fencedOf 1 then x
  else
  let victim := if mates.length < 8 - x.fencedOf 1 then none
    else match mates.reverse.find? fun m => !m.keep with
      | some m => some m.line
      | none => mates.getLast?.map (·.line)
  { x with l1 := { l with keep := keep } :: x.l1.filter fun m => m.line != l.line && some m.line != victim }

/-- Flash invalidation at an acquire: lines of release pages, or every line. A fill still on its way is not kept. -/
def Tile.l1Flash (x : Tile) (all : Bool) : Tile :=
  { x.stale fun p => all || !p.free with l1 := if all then [] else x.l1.filter (·.free) }

def Tile.wcFind (x : Tile) (line : Nat) : Option WcEntry := x.wc.find? fun e => e.line == line

/-- A store enters the write-combining buffer and updates a present L1 line. -/
def Tile.wcStore (x : Tile) (tc id addr _nb en data : Nat) : Tile :=
  let line := addr / 128
  let o := addr % 128
  let en1 := en * 2 ^ (2 * o)
  let d1 := data * 2 ^ (8 * o)
  let x1 : Tile := { x.stale fun p => p.addr / 128 == line with
    l1 := x.l1.map fun l => if l.line = line then
      { l with data := mergeNib l.data d1 en1 256, bad := badLeft l.bad en1 } else l }
  match x.wcFind line with
  | some _ => { x1 with wc := x1.wc.map fun e =>
      if e.line = line then { e with en := e.en ||| en1, data := mergeNib e.data d1 en1 256, ids := e.ids ++ [id] } else e }
  | none => { x1 with wc := x1.wc ++ [⟨line, en1, d1, tc, [id], false⟩] }

/-- Whether the buffer holds all of the bytes. -/
def WcEntry.covers (e : WcEntry) (o n : Nat) : Bool := fld e.en (2 * o) (2 * n) == fullEn n

/-- The tile's own buffered bytes of a line: their nibble enables and their data. -/
def Tile.buffered (x : Tile) (line : Nat) : Nat × Nat :=
  match x.wcFind line with
  | none => (0, 0)
  | some e => (e.en, e.data)

/-- The number of the tile's reads of a line that are on their way. -/
def Tile.reads (x : Tile) (line : Nat) : Nat :=
  (x.acc.map fun a => (a.parts.filter fun p => p.path == .cached && p.addr / 128 == line && p.sent && !p.acked).length).sum

/-- The event comes at the next tile cycle that is not before `d` network cycles from now. -/
def State.soon (s : State) (d : Nat) (e : Instr) (f : Focus) : State := s.at_ (evenUp (s.nc + d)) e f

end Sys2Proof.Machine
end

