-- ==== Sys2Proof/Machine/NestPlan.lean ====
section
/-!
DEFINITION. The elements of a `nest` (R149): where they lie, which of them the beats still to come reach, and what such a `nest` still
does to the pool.
-/

namespace Sys2Proof

open Machine

/-- The control fields of a lane form of the same class (R38, R41, R150). -/
def NestF.ctl (o : NestF) : LaneCtl :=
  { aux8 := 0, subfn := 0, signed := o.signed, sat := o.sat, iwidth := o.iwidth, cls := o.cls, rm := o.rm, mmode := o.mmode, mask := o.mask }

def NestOp.isPool : NestOp → Bool
  | .pool _ => true
  | .view _ _ => false

/-- The size of a pool element in bytes (R149). -/
def NestF.size (o : NestF) : Nat := o.ctl.e / 2

/-- The operands D 0, A 1, B 2. -/
def NestF.op (o : NestF) (p : Nat) : Option NestOp :=
  match p with
  | 0 => some o.d
  | 1 => some o.a
  | _ => o.b

def NestF.anyPool (o : NestF) : Bool := o.d.isPool || o.a.isPool || (o.b.map NestOp.isPool).getD false

/-- The first three operand numbers of a `nest` that are in use. -/
def NestF.used (o : NestF) : List Nat := [0, 1] ++ if o.b.isSome then [2] else []

end Sys2Proof

namespace Sys2Proof.Machine

/-- A reduction (R150). -/
def NestSt.red (n : NestSt) : Bool := decide (7 ≤ n.fn)
def NestSt.view (n : NestSt) (p : Nat) : BitVec 64 :=
  match p with
  | 0 => n.vd
  | 1 => n.va
  | _ => n.vb
def NestSt.i (n : NestSt) (l : Nat) : Nat := (n.idx[l]?).getD 0

/-- The element offset of an operand at given indices (R149). -/
def nestOff (o : NestF) (p : Nat) (ix : List Nat) : Int := (ix.zipIdx.map fun (e : Nat × Nat) => (e.1 : Int) * o.stride p e.2).sum

/-- The sums of `m`'s members with 0, s, …, (n − 1)·s, as bits. -/
def spread (m s n : Nat) : Nat := if s = 0 then m else (List.range n).foldl (fun a i => a ||| m <<< (i * s)) 0

/-- A set of integers: a base, and the bits above it. -/
abbrev IntSet := Int × Nat
def IntSet.has (x : IntSet) (e : Int) : Bool := decide (x.1 ≤ e) && x.2.testBit (e - x.1).toNat

/-- The offsets of an operand over a box of indices, level by level (low, count). -/
def boxSet (o : NestF) (p : Nat) (box : List (Nat × Nat)) : IntSet :=
  (box.mapIdx fun l b => (o.stride p l, b)).foldl (fun (x : IntSet) e =>
    let s := e.1
    let lo := (e.2.1 : Int) * s
    (x.1 + lo + (if s < 0 then ((e.2.2 - 1 : Nat) : Int) * s else 0), spread x.2 s.natAbs e.2.2)) (0, 1)

/-- The indices from `ix` on, in order, as boxes. -/
def boxesFrom (o : NestF) (ix : List Nat) : List (List (Nat × Nat)) :=
  (List.range 5).filterMap fun k =>
    let box := (List.range 5).map fun l =>
      let i := (ix[l]?).getD 0
      if k < l then (i, 1) else if l < k then (0, o.extent l) else if k = 0 then (i, o.extent 0 - i) else (i + 1, o.extent l - (i + 1))
    if box.any fun b => b.2 == 0 then none else some box

/-- The element offsets of an operand that the indices from `ix` on reach; a reduction's result stands at indices 0 (R150). -/
def nestReach (o : NestF) (red : Bool) (p : Nat) (ix : List Nat) : List IntSet :=
  if red && p == 0 then [(0, 1)] else (boxesFrom o ix).map (boxSet o p)

/-- The slices of a view operand that the indices from `ix` on reach, within a frame of `lim` slices. -/
def viewReach (o : NestF) (red : Bool) (p : Nat) (v : BitVec 64) (lim : Nat) (ix : List Nat) : List (Nat × Nat) :=
  match o.op p with
  | some (.view _ off) =>
    let sets := nestReach o red p ix
    (List.range (vCount v)).filterMap fun (e : Nat) =>
      if sets.any fun x => x.has ((e : Int) - off.toNat) then
        match elemAt lim v e with
        | .ok s => some (s, vWidth v)
        | .error _ => none
      else none
  | _ => []

/-- The granules that slice ranges touch, as slice ranges (R67). -/
def granulesOf (l : List (Nat × Nat)) : List (Nat × Nat) :=
  let m := l.foldl (fun m r => m ||| (2 ^ ((r.1 + r.2 - 1) / 16 + 1 - r.1 / 16) - 1) <<< (r.1 / 16)) 0
  ((List.range (Nat.log2 m + 1)).filter fun g => m.testBit g).map fun g => (16 * g, 16)

/-- Whether a pool operand reaches a byte of `[a, a + nb)` from the indices `ix` on. -/
def poolReach (o : NestF) (red : Bool) (p : Nat) (ix : List Nat) (a nb : Nat) : Bool :=
  match o.op p with
  | some (.pool b) =>
    let sets := nestReach o red p ix
    (List.range ((nb + o.size) / o.size + 1)).any fun (k : Nat) =>
      let e : Int := ((a : Int) - (16 * b.toNat : Nat)) / (o.size : Nat) + k
      let at_ : Int := (16 * b.toNat : Nat) + e * (o.size : Nat)
      decide (at_ < (a + nb : Nat)) && decide ((a : Int) < at_ + (o.size : Nat)) && sets.any fun x => x.has e
  | _ => false

/-- Whether a `nest` has still to reach, or to write, bytes of its pool (R262). -/
def NestSt.touches (n : NestSt) (a nb : Nat) : Bool :=
  (n.owed.any fun l => l.pool.any fun w => decide (w.1 < a + nb) && decide (a < w.1 + n.o.size)) ||
  (!n.stopped && !n.finished && n.o.used.any fun p => poolReach n.o n.red p n.idx a nb)

/-- Whether a release at `upTo` of its jet waits for the `nest`: it writes the pool and is not over, or a write of it is held (R247, R268), or it has yet
to read the pool, which it does as loads (R149, R268 to R270, R274). -/
def Tile.nestHolds (x : Tile) (jet upTo : Nat) : Bool :=
  x.nests.any fun n => n.key == jet && decide (n.num < upTo) && (n.o.d.isPool || (n.o.anyPool && !n.finished))

/-- Whether a `nest` issued before `upTo` has still to write the pool (R247, R271). -/
def Tile.nestStores (x : Tile) (jet upTo : Nat) : Bool :=
  x.nests.any fun n => n.key == jet && decide (n.num < upTo) && n.o.d.isPool

/-- Whether a `nest` issued before access `id` of the jet still has to do with these bytes of this pool (R262). -/
def Tile.nestTouches (x : Tile) (jet id pool a nb : Nat) : Bool :=
  x.nests.any fun n => n.key == jet && decide (n.num < id) && n.pool == pool && n.touches a nb

end Sys2Proof.Machine
end

