-- ==== Sys2Proof/Machine/Record.lean ====
section
/-!
DEFINITION. Context records (R354) as a save writes them, and as they change while values are owed to a saved jet (R355).
-/

namespace Sys2Proof.Machine

/-- The results still owed to a saved jet; those of an interrupted instruction are not awaited (R355). -/
def Jet.awaited (j : Jet) : List Owed := j.owed.filter fun o => !j.interrupted.any fun i => i.owedIds.contains o.id

/-- The `nest` a jet holds as interrupted. -/
def Tile.stoppedNest (x : Tile) (key : Nat) : Option NestSt := x.nests.find? fun n => n.key == key && n.stopped
/-- The `spill` or `fill` a jet holds as interrupted. -/
def Jet.stoppedSpill (j : Jet) : Option SpillSt := match j.spill with | some p => if p.stopped then some p else none | none => none

/-- Interrupted instructions other than a `nest`, `spill` or `fill`, in program order. -/
def Tile.plainIntr (x : Tile) (j : Jet) : List Interrupted :=
  (sortIntr j.interrupted).filter fun i =>
    some i.pc != (x.stoppedNest j.key).map (·.pc) && some i.pc != j.stoppedSpill.map (·.pc)

/-- The latched views of the tail with their bits of latchmap: those of the `nest`, in the order D, A, B, then that of a `spill` or `fill`. -/
def Tile.latched (x : Tile) (j : Jet) : List (Nat × BitVec 64) :=
  let isView (o : Option NestOp) : Bool := match o with | some (.view _ _) => true | _ => false
  (match x.stoppedNest j.key with
    | some n => ((List.range 3).filter fun p => isView (n.o.op p)).map fun p => (p, n.view p)
    | none => []) ++
  match j.stoppedSpill with
  | some p => (match p.o.d with | .view _ _ => [(0, p.vd)] | .slice _ => [])
  | none => []

/-- A bit map of numbers. -/
def bitMap (l : List Nat) : Nat := l.foldl (fun m k => m ||| 2 ^ k) 0

/-- The five indices of a `nest`, ten bits each. -/
def packIdx (l : List Nat) : Nat := (l.mapIdx fun k i => i % 1024 * 2 ^ (10 * k)).sum

/-- The sixteen words of a record's core. -/
def Tile.coreWords (x : Tile) (j : Jet) (v : SaveEntry) : List Nat :=
  let n := x.stoppedNest j.key
  let p := j.stoppedSpill
  [ j.pc.toNat
  , b2n j.cdis * 2 ^ 14 + j.fpflags.toNat * 2 ^ 15 + (j.grans - 1) % 128 * 2 ^ 20 + j.role.toNat * 2 ^ 27 + j.level.toNat * 2 ^ 29 +
      j.inst.toNat * 2 ^ 32 + (j.id16 v.slot).toNat * 2 ^ 48
  , j.range.lo.toNat
  , j.range.hi.toNat
  , j.range.grain.toNat + b2n j.range.has * 2 ^ 24 + b2n j.range.tracked * 2 ^ 25 + j.range.ttile.toNat * 2 ^ 26 + j.range.tindex.toNat * 2 ^ 36
  , (n.map (·.pc.toNat)).getD 0
  , (n.map fun n => packIdx n.idx).getD 0
  , (n.map fun n => trunc n.acc 64).getD 0
  , (p.map (·.pc.toNat)).getD 0
  , (p.map (·.beat)).getD 0 % 32 + v.park
  , bitMap v.chans + bitMap ((List.range 16).filter fun k => j.view k != 0) * 2 ^ 8 + bitMap ((List.range 8).filter fun k => j.mask k != 0) * 2 ^ 24 +
      j.awaited.length * 2 ^ 32 + bitMap ((x.latched j).map (·.1)) * 2 ^ 40
  , (x.plainIntr j).length
  , 0, 0, 0, 0 ]

/-- The record's parts before the frame: bytes and value of each, in order. -/
def Tile.recordHead (x : Tile) (j : Jet) (v : SaveEntry) : List (Nat × Nat) :=
  (x.coreWords j v).map (fun w => (8, w)) ++
  ((List.range 16).filter fun k => j.view k != 0).map (fun k => (8, (j.view k).toNat)) ++
  ((List.range 8).filter fun k => j.mask k != 0).map (fun k => (32, (j.mask k).toNat)) ++
  v.chans.map (fun c => (8, (x.chan c).wm.toNat)) ++
  (x.latched j).map (fun l => (8, l.2.toNat)) ++
  (x.plainIntr j).map fun i => (8, i.pc.toNat)

/-- Writes parts one behind the other. -/
def Tile.writeParts (x : Tile) (a : Nat) : List (Nat × Nat) → Tile
  | [] => x
  | (n, v) :: r => Tile.writeParts (x.poolWrite a n (fullEn n) v) (a + n) r

/-- The core and tail of the context record are written, and what the entry then holds. -/
def Tile.writeHead (x : Tile) (j : Jet) (v : SaveEntry) : Tile × SaveEntry :=
  let hd := x.recordHead j v
  let len := ceilDiv ((hd.map (·.1)).sum) 64 * 64
  (x.writeParts v.recAt hd, { v with jet := j, frameAt := v.recAt + len, bytes := len + 64 * j.grans })

/-- The context record is written, and what the entry then holds. -/
def Tile.writeRecord (x : Tile) (j : Jet) (v : SaveEntry) : Tile × SaveEntry :=
  let p := x.writeHead j v
  (p.1.writeParts p.2.frameAt [(64 * j.grans, j.frame.bits % 2 ^ (512 * j.grans))], { p.2 with saved := true })

/-- The writes that a frame takes at 256 B a tc (R355). -/
def frameWrites (grans : Nat) : Nat := ceilDiv (64 * grans) 256

/-- One of these writes. -/
def Tile.writeFrame (x : Tile) (j : Jet) (v : SaveEntry) (k : Nat) : Tile :=
  let n := min 256 (64 * j.grans - 256 * k)
  x.writeParts (v.frameAt + 256 * k) [(n, fld j.frame.bits (2048 * k) (8 * n))]

/-- The last write of a save is done. The core and tail are written again with what has changed in them since the first; the whole record where their
length has. -/
def Tile.closeRecord (x : Tile) (j : Jet) (v : SaveEntry) : Tile × SaveEntry :=
  let p := x.writeHead j v
  if p.2.frameAt = v.frameAt then (p.1, { p.2 with saved := true }) else x.writeRecord j v

/-- A record is written again, where its jet's interrupted list has changed (R355): the frame is the one the record holds. -/
def Tile.rewriteRecord (x : Tile) (e : Nat) : Tile :=
  match x.save e with
  | none => x
  | some v =>
    let p := x.writeRecord { v.jet with frame := ⟨x.poolRead v.frameAt (64 * v.jet.grans)⟩ } v
    p.1.setSave e (some { p.2 with jet := v.jet })

end Sys2Proof.Machine
end

