-- ==== Sys2Proof/Machine/Access.lean ====
section
/-!
DEFINITION. The life of a jet's access: its issue and translation, the orders that hold its parts back (R227, R262, R264 to
R270), the ways its parts go (R216 to R223), and its return (R225).
-/

namespace Sys2Proof.Machine

/-! ### Access records -/

def Tile.access (x : Tile) (id : Nat) : Option Access := x.acc.find? fun a => a.id == id
def Tile.modAcc (x : Tile) (id : Nat) (f : Access → Access) : Tile := { x with acc := x.acc.map fun a => if a.id = id then f a else a }
def State.modAcc (s : State) (t id : Nat) (f : Access → Access) : State := s.modTile t fun x => x.modAcc id f
def Access.modPart (a : Access) (ix : Nat) (f : Part → Part) : Access := { a with parts := a.parts.modify ix f }
def State.modPart (s : State) (t id ix : Nat) (f : Part → Part) : State := s.modAcc t id fun a => a.modPart ix f

def Access.isStore (a : Access) : Bool :=
  match a.op with
  | .store | .wsigFlag | .addw .. => true
  | _ => false

/-- Whether the value of a beat of a `fill` has been written: its slices are there. A beat that gives nothing is over when it is performed. -/
def Access.written (a : Access) : Bool := a.dst.isEmpty && !a.parts.isEmpty && a.parts.all (·.acked) && a.cause == 0

def Access.isAtomic (a : Access) : Bool :=
  match a.op with
  | .amo | .agg _ | .wsigFlag => true
  | _ => false

/-- Whether the access gives a value to slices. -/
def Access.gives (a : Access) : Bool :=
  match a.op with
  | .load _ | .amo | .agg _ | .fillBeat | .crd _ => true
  | _ => false

def AccOp.need : AccOp → Need
  | .load _ | .fillBeat | .crd _ | .pref => .read
  | .store | .addw .. => .write
  | .amo | .agg _ | .wsigFlag => .both

/-- Whether a part is performed at a scope (R261): a store to an I/O page at system scope only when its target has acknowledged it. -/
def Access.doneAt (a : Access) (sc : Scope) (p : Part) : Bool :=
  (p.performed && (sc != .system || p.kind != .io || !a.isStore || p.acked)) || (sc == .tile && p.path == .cached && p.sent && a.isStore)

/-- Whether a release or fence covers a page kind (R268, R270). -/
def coversKind (all : Bool) (k : PageKind) : Bool := all || k != .free

/-- Whether every access of a jet before `upTo` that is covered is performed at a scope (R261, R268). -/
def Tile.relReady (x : Tile) (jet upTo : Nat) (all : Bool) (sc : Scope) : Bool :=
  jet == 0 || (!x.nestHolds jet upTo && (x.tables.all fun e => e.key != jet || decide (upTo ≤ e.id) || (!all && e.free)) && x.acc.all fun a => a.jet != jet || decide (upTo ≤ a.id) ||
    (decide (a.stage = 2) && a.parts.all fun p => !coversKind all p.kind || a.doneAt sc p))

/-- Whether every earlier store and atomic of a jet to strict and release pages is performed at device scope (R271, R307). -/
def Tile.storesReady (x : Tile) (jet upTo : Nat) : Bool :=
  jet == 0 || (!x.nestStores jet upTo && x.acc.all fun a => a.jet != jet || decide (upTo ≤ a.id) || !(a.isStore || a.isAtomic) ||
    (decide (a.stage = 2) && a.parts.all fun p => !coversKind false p.kind || a.doneAt .device p))

/-- The slot of the jet with a key, if it is resident. -/
def Tile.slotOf (x : Tile) (key : Nat) : Option Nat :=
  ((x.jets.find? fun e => e.2.key == key && e.2.status != .free).map (·.1))

/-- The save-area entry that holds the jet with a key (R355). -/
def Tile.saveOf (x : Tile) (key : Nat) : Option Nat :=
  (x.saves.find? fun e => match e.2 with | some v => v.jet.key == key && v.saved | none => false).map (·.1)

def Tile.jetOf (x : Tile) (key : Nat) : Option Jet := (x.slotOf key).map x.jet

/-! ### The owner of a result (R355) -/

/-- Slices of a saved frame are written in its record, nibble by nibble (R81, R355). -/
def Tile.imageWrite (x : Tile) (v : SaveEntry) (sl : List (Nat × Nat × Nat)) : Tile :=
  sl.foldl (fun (x : Tile) e =>
    let o := e.1 % 2
    x.poolWrite (v.frameAt + e.1 / 2) ((o + e.2.1 + 1) / 2) ((2 ^ e.2.1 - 1) * 2 ^ o) (e.2.2 % 2 ^ (4 * e.2.1) * 2 ^ (4 * o))) x

/-- The words of a record that an owed return changes: the flags in word 1 and the count in word 10 (R354, R355). -/
def Tile.imageCount (x : Tile) (v : SaveEntry) : Tile :=
  (x.poolWrite (v.recAt + 84) 1 (fullEn 1) v.jet.awaited.length).poolWrite (v.recAt + 8) 4 (fullEn 4)
    (fld (x.poolRead (v.recAt + 8) 4) 0 15 + v.jet.fpflags.toNat * 2 ^ 15 + fld (x.poolRead (v.recAt + 8) 4) 20 12 * 2 ^ 20)

/-- The save-area entry into which the frame of a slot's jet is being written. -/
def Tile.savingOf (x : Tile) (slot : Nat) : Option SaveEntry :=
  x.saves.findSome? fun e => e.2.filter fun v => v.slot == slot && !v.saved && v.frameAt != 0

/-- A result comes to the jet that owes it: in its slot, and where its frame is being saved in the record too, or in its saved context, where the record
receives the slices written (R225, R355). -/
def Tile.modOwner (x : Tile) (key : Nat) (sl : List (Nat × Nat × Nat)) (f : Jet → Jet) : Tile :=
  match x.slotOf key with
  | some slot =>
    let y := x.modJet slot f
    match x.savingOf slot with
    | some v => y.imageWrite v sl
    | none => y
  | none =>
    match x.saveOf key with
    | some e =>
      match x.save e with
      | some v =>
        let v1 := { v with jet := f v.jet }
        ((x.setSave e (some v1)).imageWrite v1 sl).imageCount v1
      | none => x
    | none => x

/-- An instruction of a saved jet enters its interrupted list: the record says so too (R355). -/
def Tile.interruptSaved (x : Tile) (key : Nat) (f : Jet → Jet) : Tile :=
  match x.saveOf key with
  | some e => (x.modOwner key [] f).rewriteRecord e
  | none => x

/-! ### What holds a part back -/

def sameBytes (p q : Part) : Bool :=
  (p.path == .pool) == (q.path == .pool) && p.pool == q.pool && decide (p.addr < q.addr + q.nb) && decide (q.addr < p.addr + p.nb)

/-- Whether an earlier part `q` of the same jet must be performed before `p` because they share a byte (R262). A store in the
write-combining buffer is before a later access that looks there. -/
def sameByteHold (b : Access) (q : Part) (p : Part) : Bool :=
  sameBytes q p && !q.performed && !(b.isStore && q.path == .cached && q.sent && p.path == .cached)

/-- Two updates of the tile's own pool, the earlier on its way to the unit that keeps their order (R319). -/
def State.addwQueued (s : State) (t : Nat) (a b : Access) (q : Part) : Bool :=
  q.sent && q.path == .pool && q.pool == 1024 * s.dev.device.toNat + t &&
    match a.op, b.op with
    | .addw .., .addw .. => true
    | _, _ => false

def Access.strictPart (p : Part) : Bool := p.kind == .strict || p.kind == .io

/-- The parts of an access: before its translation those it is about to have. -/
def State.partsAhead (s : State) (t : Nat) (a : Access) : List Part :=
  if a.stage < 2 then
    match s.partsOf t a.op.need a.ov a.direct a.va a.nb with
    | .ok l => l
    | .error _ => []
  else a.parts

/-- The accesses of a jet before the one numbered `id`. -/
def Tile.before (x : Tile) (jet id : Nat) : List Access := x.acc.filter fun b => b.jet == jet && decide (b.id < id) && jet != 0

/-- Whether the table of an earlier `actl` of the jet that is yet to be read holds back the part (R262, R264, R315). -/
def State.tableHolds (s : State) (t jet id : Nat) (p : Part) : Bool :=
  (s.tile t).tables.any fun e => e.key == jet && decide (e.id < id) &&
    ((Access.strictPart p && e.strict) || match s.partsOf t .read .page true e.va 528 with
      | .ok l => l.any fun q => sameBytes q p
      | .error _ => false)

/-- Whether part `p` of an access of a jet, or of what it reads as a load, waits for what the jet has before `id`: a nest, a table or a strict access,
an acquire, a fence (R149, R227, R264, R267, R270). -/
def State.orderHolds (s : State) (t jet id : Nat) (p : Part) : Bool :=
  let x := s.tile t
  (p.path == .pool && x.nestTouches jet id p.pool p.addr p.nb) || s.tableHolds t jet id p ||
  (Access.strictPart p && (x.before jet id).any fun b => (s.partsAhead t b).any fun q => Access.strictPart q && !b.doneAt .system q) ||
  (coversKind false p.kind && (x.before jet id).any fun b => b.acq && (b.stage != 2 || b.parts.any fun q => !q.performed)) ||
  (x.fences.any fun f => f.jet == jet && decide (f.upTo ≤ id) && coversKind f.all p.kind)

/-- Whether part `p` of access `a` must wait for earlier accesses of its jet (R227, R262, R264, R267, R268, R270, R232); the strict or I/O parts of one
access go one at a time too (R266). -/
def State.holds (s : State) (t : Nat) (a : Access) (p : Part) : Bool :=
  let x := s.tile t
  let before := x.before a.jet a.id
  (before.any fun b => (s.partsAhead t b).any fun q => sameByteHold b q p && !s.addwQueued t a b q) ||
  (a.jet != 0 && s.orderHolds t a.jet a.id p) ||
  (Access.strictPart p && a.parts.any fun q => decide (q.off < p.off) && Access.strictPart q && !a.doneAt .system q) ||
  (a.rel && !x.relReady a.jet a.id false a.sc) ||
  (a.op == .wsigFlag && before.any fun b => b.id + 1 == a.id && b.parts.any fun q => !q.performed) ||
  (x.acc.any fun b => b.id == a.id + 1 && b.op == .wsigFlag && decide (b.stage < 2))

/-! ### Sending a part -/

def Tile.wcLine (x : Tile) (line : Nat) : Bool := (x.wcFind line).isSome
def Tile.unackedLine (x : Tile) (line : Nat) : Bool := x.unacked.any fun e => e.1 == line

/-- The event that returns a value to the tile, `d` tc from now. -/
def State.returns (s : State) (t id ix d v : Nat) : State := s.after d .loadReturn ⟨t, id, ix, 0, v⟩

/-- What a performed part does to the L1: an acquire at device or system scope flash-invalidates it (R216, R267), and an access that goes past it
drops its line (R262). -/
def Tile.seen (x : Tile) (a : Access) (ix : Nat) : Tile :=
  let y := if a.acq && a.sc != .tile then x.l1Flash false else x
  match a.parts[ix]? with
  | some p => if p.path == .bypass then y.l1Drop (p.addr / 128) else y
  | none => y

/-- A part is performed. -/
def State.markPerformed (s : State) (t id ix : Nat) : State :=
  let s1 := s.modPart t id ix fun p => { p with performed := true }
  match (s1.tile t).access id with
  | none => s1
  | some a => s1.modTile t fun x => x.seen a ix

/-- A store part needs no return: it is performed and acknowledged. -/
def State.markStored (s : State) (t id ix : Nat) : State := s.modPart t id ix fun p => { p with performed := true, acked := true }

/-- The part's bytes and nibble enables of a store (R81). -/
def Access.partData (a : Access) (p : Part) : Nat := fld a.data (8 * p.off) (8 * p.nb)
def Access.partEn (a : Access) (p : Part) : Nat := fld a.enables (2 * p.off) (2 * p.nb)

/-- Whether the access is a streaming prefetch (R230). -/
def Access.streams (a : Access) : Bool := a.op == .pref && a.hint == .streaming

/-- Whether the L1 has started an access in this tc, its one (R375). -/
def Tile.l1Busy (x : Tile) (tc : Nat) : Bool := x.l1At == tc + 1

/-- A read of the L1 starts (R375); a streaming prefetch does not look there (R230). -/
def Tile.l1Start (x : Tile) (tc : Nat) (a : Access) : Tile := if a.streams then x else { x with l1At := tc + 1 }

/-- Whether a cached part waits at the tile: a store for a place in the write-combining buffer; a read for its start in the L1, which starts one access
in a tc (R375), and, where it is not found in the tile, for writes of its line that are on their way (R216). -/
def State.cacheWaits (s : State) (t : Nat) (a : Access) (p : Part) : Bool :=
  let x := s.tile t
  let line := p.addr / 128
  if a.isStore then !x.wcLine line && decide (32 ≤ x.wc.length)
  else (!a.streams && x.l1Busy s.tc) || (x.unackedLine line && (a.streams || (x.l1Find line).isNone) &&
    !(match x.wcFind line with | some e => e.covers (p.addr % 128) p.nb && a.op != .pref | none => false))

/-- A cached part at the tile's own caches (R216). -/
def State.sendCached (s : State) (t : Nat) (a : Access) (ix : Nat) (p : Part) : State :=
  let x := s.tile t
  let line := p.addr / 128
  let read : State := ((s.modTile t fun x => x.l1Start s.tc a).modPart t a.id ix fun p => { p with sent := true, own := x.buffered line }).injectTo
    (paDev p.addr) t (homeOf p.addr) .l2 1 28 (.read t a.id ix (128 * line) 128)
  if s.cacheWaits t a p then s
  else if a.isStore then
    (s.modPart t a.id ix fun p => { p with sent := true }).modTile t fun x => x.wcStore s.tc a.id p.addr p.nb (a.partEn p) (a.partData p)
  else
    -- a streaming prefetch brings its line to the slice only, whatever the L1 holds (R230)
    match (if a.streams then none else x.l1Find line) with
    | some l =>
      let bad := badIn l.bad (p.addr % 128) p.nb
      let s1 := (s.modTile t fun x => (x.l1Start s.tc a).l1Use l (a.hint == .keep)).modAcc t a.id fun b => if bad then { b with cause := 8 } else b
      ((s1.modPart t a.id ix fun p => { p with sent := true, stale := true }).markPerformed t a.id ix).returns t a.id ix 9 l.data
    | none =>
      match x.wcFind line with
      | some e =>
        if e.covers (p.addr % 128) p.nb ∧ a.op != .pref then
          (((s.modTile t fun x => x.l1Start s.tc a).modPart t a.id ix fun p => { p with sent := true, stale := true }).markPerformed t a.id ix).returns t a.id ix 9 e.data
        else read
      | none => read

/-- A part that goes to its home itself: it waits for the tile's own writes of the line, and drops the L1's copy (R216, R262). -/
def State.sendBypass (s : State) (t : Nat) (a : Access) (ix : Nat) (p : Part) : State :=
  let line := p.addr / 128
  if (s.tile t).wcLine line || (s.tile t).unackedLine line then s
  else
    let s1 := (s.modPart t a.id ix fun p => { p with sent := true }).modTile t fun x => x.l1Drop line
    let dst := if paIo p.addr then 0 else homeOf p.addr
    let port : Endpoint := if paIo p.addr then .host else .l2
    let dev := if paIo p.addr then s.dev.device.toNat else paDev p.addr
    if a.isAtomic then s1.injectTo dev t dst port 1 28 (.atomic t a.id ix p.addr p.nb a.afn a.asigned a.data a.cmp)
    else if a.isStore then
      (s1.modTile t fun x => { x with unacked := x.unacked ++ [(line, [a.id])] }).injectTo dev t dst port (payFlits p.nb) 28
        (.write t [a.id] line (a.partEn p * 2 ^ (2 * (p.addr % 128))) (a.partData p * 2 ^ (8 * (p.addr % 128))))
    else s1.injectTo dev t dst port 1 28 (.read t a.id ix p.addr p.nb)

/-- A line of the stash marked keep, unless 4 of its set are (R216, R230). -/
def Tile.keepLine (x : Tile) (l : StashLine) (keep : Bool) : StashLine :=
  { l with keep := l.keep || (keep && decide ((x.stash.filter fun m => m.va % 512 == l.va % 512 && m.va != l.va && m.keep).length < 4)) }

/-- A part inside a stash mapping (R219): a hit acts on the stash line, a miss, an upgrade and a streaming prefetch go to the home. It waits for writes of
the line that the tile has made outside the mapping, and drops the L1's copy, which may be older than what it sees (R262). -/
def State.sendStash (s0 : State) (t : Nat) (a : Access) (ix : Nat) (p : Part) : State :=
  let line := p.addr / 128
  if (s0.tile t).wcLine line || (s0.tile t).unackedLine line then s0
  else
  let s := s0.modTile t fun x => x.l1Drop line
  match (if a.streams then none else (s.tile t).stash.find? fun l => l.va == p.va / 128) with
  | some l =>
    let s1 := s.modTile t fun x => { x with stash := x.keepLine l (a.hint == .keep) :: x.stash.filter fun m => m.va != l.va }
    if !a.isStore then
      let s2 := if badIn l.bad (p.addr % 128) p.nb then s1.modAcc t a.id fun b => { b with cause := 8 } else s1
      (((s2.modPart t a.id ix fun p => { p with sent := true }).markPerformed t a.id ix).returns t a.id ix 6 l.data)
    else if l.owned then
      let wrote (c : List StashLine) : List StashLine := c.map fun m => if m.va = l.va then (m.wrote (p.addr % 128) (a.partEn p) (a.partData p)) else m
      ((s1.modPart t a.id ix fun p => { p with sent := true }).modTile t fun x => { x with stash := wrote x.stash }).markStored t a.id ix
    else (s.modPart t a.id ix fun p => { p with sent := true }).inject t (homeOf p.addr) .l2 1 28 (.read t a.id ix (128 * line) 128)
  | none => (s.modPart t a.id ix fun p => { p with sent := true }).inject t (homeOf p.addr) .l2 1 28 (.read t a.id ix (128 * line) 128)

/-- A pool part goes to the owning tile: its own pool after 2 tc, another's through the network (R218, R389, R383). -/
def State.sendPool (s : State) (t : Nat) (a : Access) (ix : Nat) (p : Part) : State :=
  let s1 := s.modPart t a.id ix fun p => { p with sent := true }
  let own := 1024 * s.dev.device.toNat + t
  let op : PoolOp := match a.op with
    | .addw sp n e b => .addw sp n e b
    | _ => if a.isAtomic then .atomic a.afn a.asigned a.data a.cmp
      else if a.isStore then .write (a.partEn p) (a.partData p) else .read
  if p.pool = own then s1.modTile t fun x => { x with
    poolIn := x.poolIn ++ [⟨s.dev.device.toNat, t, a.id, ix, op, p.addr, p.nb, s.nc + 4, false, false⟩] }
  else s1.injectTo (p.pool / 1024) t (p.pool % 1024) .tile (payFlits (if a.isStore then p.nb else 0)) 14 (.poolReq t a.id ix op p.addr p.nb)

/-- The beats before one of a `spill` or `fill` that may still fault or have not had their effect: of a `spill` those not translated, of a `fill`
those not written (R82). -/
def Tile.openBeats (x : Tile) (a : Access) : List Access :=
  x.acc.filter fun b => b.jet == a.jet && b.pc == a.pc && b.beat.isSome && decide (b.id < a.id) && b.stage != 3 &&
    if a.isStore then decide (b.stage < 2) else !b.written

/-- Whether a beat must wait for one before it (R82): beats behind one that faults have no effect. -/
def Tile.beatWaits (x : Tile) (a : Access) : Bool := a.beat.isSome && !(x.openBeats a).isEmpty

/-- Sends a part if nothing holds it back. A beat of a `spill` goes only when none before it can fault any more (R82). -/
def State.tryPart (s : State) (t id ix : Nat) : State :=
  match (s.tile t).access id with
  | none => s
  | some a =>
    match a.parts[ix]? with
    | none => s
    | some p =>
      if a.stage != 2 || !a.gather.isEmpty || p.sent || (a.isStore && (s.tile t).beatWaits a) || s.holds t a p then s
      else
        match p.path with
        | .pool => s.sendPool t a ix p
        | .cached => s.sendCached t a ix p
        | .stash => s.sendStash t a ix p
        | .bypass => s.sendBypass t a ix p

/-- Whether a release or fence that has not been performed covers a store (R216, R268, R270); a `st.rel` of device or system scope covers itself. -/
def Tile.covered (x : Tile) (b : Access) : Bool :=
  let kinds (all : Bool) : Bool := b.parts.any fun p => coversKind all p.kind
  x.fences.any (fun f => f.jet == b.jet && decide (b.id < f.upTo) && kinds f.all) ||
  x.acc.any (fun a => a.rel && a.jet == b.jet && ((decide (b.id < a.id) && kinds false) || (b.id == a.id && a.sc != .tile))) ||
  x.weir.outbound.any fun o => !o.released && o.m.rel.isSome && o.jet == b.jet && decide (b.id < o.upTo) && kinds o.m.relAll

/-- Write-combining entries with a covered store are to drain (R216). -/
def Tile.coverWc (x : Tile) : Tile :=
  { x with wc := x.wc.map fun e => { e with due := e.due || x.acc.any fun b => e.ids.contains b.id && x.covered b } }

/-- Every access whose work is over leaves the list. -/
def Tile.sweep (x : Tile) : Tile :=
  { x with acc := x.acc.filter fun a => !(a.stage == 2 && a.gather.isEmpty && !a.parts.isEmpty && a.parts.all (fun p => p.performed && p.acked)
    && (!a.gives || a.dst.isEmpty) && !a.parts.isEmpty) }

/-- Every part of the tile's accesses that may leave now leaves, in the order of issue. -/
def State.pump (s0 : State) (t : Nat) : State :=
  let s := s0.modTile t Tile.coverWc
  let s1 := (s.tile t).acc.foldl (fun (s : State) a => (List.range a.parts.length).foldl (fun (s : State) ix => s.tryPart t a.id ix) s) s
  s1.modTile t Tile.sweep

/-! ### Faults of accesses -/

/-- The fault record content of a data cause (R346). -/
def dataFault (cause addr nb : Nat) : Flt :=
  { cause := cause, addr := addr, info := if cause = 8 then 1 else if cause = 10 then 0 else nb }

/-- A faulted beat joins what its `spill` or `fill` holds as interrupted already, where a pre-emption has stopped it (R82, R355). -/
def Jet.joinIntr (j : Jet) (pc : BitVec 64) : List Nat × Jet :=
  ((j.interrupted.filter fun i => i.pc == pc).flatMap (·.owedIds), { j with interrupted := j.interrupted.filter fun i => i.pc != pc })

/-- The payload and the flag of one `wsig` (R232). -/
def Access.wsigMate (a b : Access) : Bool :=
  b.jet == a.jet && b.pc == a.pc && (b.op == .wsigFlag || a.op == .wsigFlag) && (b.id == a.id + 1 || b.id + 1 == a.id)

/-- An access's fault is found after its issue (R388): it stays, to be executed again, and with it the payload or the flag that goes with it (R232); the
later beats of its `spill` or `fill` are withdrawn (R82). -/
def State.accFault (s : State) (t id : Nat) (f : Flt) : State :=
  match (s.tile t).access id with
  | none => s
  | some a =>
    -- a beat before it may still fault, or has not had its effect: this one is tried again (R82)
    if (s.tile t).beatWaits a then
      s.modAcc t id fun b => { b with stage := 0, from_ := s.tc + 1, parts := [], cause := 0, value := 0 }
    else
    let mates := (s.tile t).acc.filter fun b => b.jet == a.jet && b.pc == a.pc && b.beat.isSome && decide (id < b.id)
    let owed := (a :: mates).map (·.owedId)
    let s1 := s.modTile t fun x => { x with
      acc := (x.acc.filter fun b => !(mates.any fun m => m.id == b.id)).map fun b =>
        if b.id = id ∨ a.wsigMate b then { b with stage := 3, parts := [] } else b }
    match (s.tile t).slotOf a.jet with
    | some slot =>
      match a.beat with
      | some b =>
        let j := (s1.jet t slot).joinIntr a.pc
        ((s1.modJet t slot fun _ => j.2).lateFault t slot f a.pc (owed ++ j.1) a.id).modJet t slot fun j =>
          { j with spill := j.spill.map fun p => { p with beat := b, stopped := true } }
      | none => s1.lateFault t slot f a.pc owed a.id
    | none =>
      let s2 := s1.sendLocal t (faultMsg s t t (faultRecord s t f a.pc a.inst a.jetid) a.inst)
      if ((s.tile t).saveOf a.jet).isSome then
        s2.modTile t fun x => x.interruptSaved a.jet fun j =>
          match a.beat with
          | some b =>
            let k := j.joinIntr a.pc
            { k.2 with interrupted := k.2.interrupted ++ [⟨a.pc, owed ++ k.1, a.id⟩]
                       spill := j.spill.map fun p => { p with beat := b, stopped := true } }
          | none => { j with interrupted := j.interrupted ++ [⟨a.pc, owed, a.id⟩] }
      else
        -- its jet was killed: the values it owed never come, and its granules need not wait for them (R351)
        s2.modTile t fun x => owed.foldl Tile.limboDone { x with acc := x.acc.filter fun b => b.id != id && !a.wsigMate b }

/-! ### Issue -/

/-- What an instruction asks of memory, besides its address. -/
structure Req where
  op : AccOp
  va : Nat
  nb : Nat
  rep : Nat
  sc : Scope := .tile
  acq : Bool := false
  rel : Bool := false
  ov : KindOv := .page
  hint : Hint := .normal
  afn : Nat := 0
  asigned : Bool := false
  data : Nat := 0
  enables : Nat := 0
  cmp : Nat := 0
  dst : List (Nat × Nat) := []
  from_ : Nat := 0
  gather : List (Nat × Nat) := []
  beat : Option Nat := none
  direct : Bool := false
  whole : Bool := false

/-- Whether the access may be served from the stash. -/
def Req.stash (r : Req) : Bool := usesStash r.op.need r.ov r.direct
def Access.stash (a : Access) : Bool := usesStash a.op.need a.ov a.direct

/-- The translation and checks of an access made at once; a TLB miss gives nothing yet (R214, R347). -/
def State.check (s : State) (t : Nat) (r : Req) : Except Nat (Option (List Part)) :=
  let straddle := (r.op.need = .both || r.direct && r.op = .store) && r.va % r.nb != 0
  match (if r.whole then (s.partOf t r.op.need r.ov r.direct (0, r.va, r.nb)).map fun p => [p] else s.partsOf t r.op.need r.ov r.direct r.va r.nb) with
  | .error c => if s.xlateCost t r.va r.nb r.stash = 0 then .error (if straddle then (if c < 7 then c else 7) else c) else .ok none
  | .ok l => if s.xlateCost t r.va r.nb r.stash != 0 then .ok none else if straddle then .error 7 else .ok (some l)

/-- The number a repeated execution of a faulted instruction takes again (R388), or a fresh one. -/
def State.accId (s : State) (t key : Nat) (pc : BitVec 64) (beat : Option Nat) : Nat × State :=
  match (s.tile t).acc.find? fun a => a.stage == 3 && a.jet == key && a.pc == pc && a.beat == beat with
  | some a => (a.id, s)
  | none => s.take

def Req.access (r : Req) (id key slot owed : Nat) (inst jetid : BitVec 16) (pc : BitVec 64) (parts : Option (List Part)) (stage : Nat) : Access :=
  { id := id, jet := key, slot := slot, inst := inst, jetid := jetid, pc := pc, op := r.op, va := r.va, nb := r.nb, rep := r.rep, sc := r.sc, acq := r.acq, rel := r.rel,
    ov := r.ov, hint := r.hint, direct := r.direct, whole := r.whole, afn := r.afn, asigned := r.asigned, data := r.data, enables := r.enables, cmp := r.cmp, dst := r.dst,
    owedId := owed, parts := parts.getD [], from_ := r.from_, stage := stage, gather := r.gather, cause := 0, value := 0,
    flags := 0, beat := r.beat }

def insertAcc : List Access → Access → List Access
  | [], a => [a]
  | b :: r, a => if a.id = b.id then a :: r else if a.id < b.id then a :: b :: r else b :: insertAcc r a

/-- The issuing jet's access enters the tile: a value it gives is owed, and it goes as far as it can. A walk in progress is ended
by `TLB_WALK_DONE`. Beats whose turn has not come wait in stage 0. -/
def State.enter (s : State) (r : Req) (parts : Option (List Part)) (begun : Bool) : State :=
  let t := s.curTile
  let j := s.cur
  let (id, s1) := s.accId t j.key j.pc r.beat
  let (owed, s2) := if r.dst.isEmpty then (0, s1) else s1.oweVar r.dst [] [] [0] false
  let stage := if parts.isSome then 2 else if begun then 1 else 0
  let s3 := s2.modTile t fun x => { x with acc := insertAcc x.acc (r.access id (if r.op = .pref then 0 else j.key) s.curSlot owed j.inst (j.id16 s.curSlot) j.pc parts stage) }
  let s4 := if stage = 2 then s3.cacheFor t r.va r.nb r.stash
    else if stage = 1 then (s3.walksBegin t r.va r.nb r.stash).after (s.xlateCost t r.va r.nb r.stash) .tlbWalkDone ⟨t, id, 0, 0, 0⟩ else s3
  s4.pump t

/-- The two accesses of one instruction, or one: checked before any effect, then entered, and the jet goes on. -/
def State.accessAll (s : State) (h : Hdr) (len : Nat) (rs : List Req) : State :=
  let bad := rs.filterMap fun r => match s.check s.curTile r with | .error c => some (c, r) | .ok _ => none
  match bad with
  | e :: l =>
    let w := l.foldl (fun m e => if e.1 < m.1 then e else m) e
    s.trap (dataFault w.1 w.2.rep w.2.nb)
  | [] =>
    (rs.foldl (fun (s1 : State) r =>
      match s1.check s1.curTile r with
      | .ok p => s1.enter r p true
      | .error _ => s1) s).advance h len

/-- `TLB_WALK_DONE` (R212 to R214, R388): the access is checked; a fault is found late, else its parts go on. -/
def State.walkDone (s : State) (t id : Nat) : State :=
  match (s.tile t).access id with
  | none => s
  | some a =>
    if a.stage != 1 then s
    else
      let straddle := (a.op.need = .both || a.direct && a.op = .store) && a.va % a.nb != 0
      match s.partsOf t a.op.need a.ov a.direct a.va a.nb with
      | .error c =>
        if a.op = .pref then (s.walked t a.va a.nb a.stash).modTile t fun x => { x with acc := x.acc.filter fun b => b.id != id }
        else (s.walked t a.va a.nb a.stash).accFault t id (dataFault (if straddle ∧ 7 < c then 7 else c) a.rep a.nb)
      | .ok l =>
        if straddle then (s.walked t a.va a.nb a.stash).accFault t id (dataFault 7 a.rep a.nb)
        else
          let l := if a.op = .pref then l.filter fun p => p.path == .cached || p.path == .stash else l
          if l.isEmpty then (s.walked t a.va a.nb a.stash).modTile t fun x => { x with acc := x.acc.filter fun b => b.id != id }
          else (((s.walked t a.va a.nb a.stash).modAcc t id fun a => { a with stage := 2, parts := l }).pump t)

/-! ### What the passing of a tc does to the accesses of a tile -/

/-- Source slices leave pending-read, 16 a tc (R67, R82, R227, R232). -/
def State.gatherBeat (s : State) (t : Nat) (a : Access) : State :=
  match (s.tile t).jetOf a.jet with
  | none => s
  | some _ =>
    let l := takeRuns a.gather 16
    -- its granules leave pending-read in the tc after this one (R67)
    let s0 := match (s.tile t).slotOf a.jet with
      | some slot => s.modJet t slot fun j => { j with pend := j.pend ++ [(⟨l, s.tc⟩ : PendRead)] }
      | none => s
    s0.modAcc t a.id fun b => { b with gather := dropRuns a.gather 16 }

/-- A beat's turn comes: it is translated (R82). -/
def State.beginAcc (s : State) (t : Nat) (a : Access) : State :=
  match s.check t { op := a.op, va := a.va, nb := a.nb, rep := a.rep, ov := a.ov, direct := a.direct, whole := a.whole } with
  | .error c => s.accFault t a.id (dataFault c a.rep a.nb)
  | .ok (some l) => (s.modAcc t a.id fun b => { b with stage := 2, parts := l }).cacheFor t a.va a.nb a.stash
  | .ok none => ((s.modAcc t a.id fun b => { b with stage := 1 }).walksBegin t a.va a.nb a.stash).after (s.xlateCost t a.va a.nb a.stash) .tlbWalkDone ⟨t, a.id, 0, 0, 0⟩

/-- What an atomic writes and the flags it raises (R228). -/
def amoNew (nb afn : Nat) (asigned : Bool) (data cmp old : Nat) : Nat × Nat :=
  let w := 8 * nb
  let op := data % 2 ^ w
  let less := if asigned then decide (sext op w < sext old w) else decide (op < old)
  match afn with
  | 1 => ((old + op) % 2 ^ w, 0)
  | 2 => (if less then op else old, 0)
  | 3 => (if less then old else op, 0)
  | 4 => (old &&& op, 0)
  | 5 => (old ||| op, 0)
  | 6 => (old ^^^ op, 0)
  | 7 => (op, 0)
  | 8 => (if old = cmp % 2 ^ w then op else old, 0)
  | 9 => addFp pF32 .rne old op
  | _ => (old, 0)

/-- The return of an access with `nb` bytes to its requester `d` network cycles after it is performed; a requester on another device gets it
through the network. -/
def State.answer (s : State) (by_ : Endpoint) (o dev t id ix d nb v flags : Nat) (atomic : Bool) : State :=
  if dev = s.dev.device.toNat then
    (s.modAcc t id fun a => { a with flags := a.flags ||| BitVec.ofNat 5 flags }).answerBy by_ dev o t (payFlits nb) d (.readResp t id ix v)
  else if atomic then s.answerBy by_ dev o t 1 d (.atomicResp t id v flags)
  else s.answerBy by_ dev o t (payFlits nb) d (.readResp t id ix v)

/-- The channel, the acceptance and the piece of a copy's source read. -/
def Tile.pieceOf (x : Tile) (num : Nat) : Option (Nat × Nat × Piece) :=
  x.chans.findSome? fun c => (c.2.pieces.find? fun p => p.num == num).map fun p => (c.1, c.2.accepted, p)

/-- What a unit of tile `t` has asked for comes back: a value, or a cause, or that a write is performed. A chain's row whose write finds no scratch way ends
its layer (log 21). -/
def State.unitBack (s : State) (t id v c : Nat) : State :=
  let n := id % 2 ^ 66
  match unitKind id with
  | 1 => s.at_ (evenUp s.nc) .icacheFill ⟨t, n, c, 1, v⟩
  | 2 =>
    match (s.tile t).pieceOf n with
    | none => s
    | some (ch, a, p) =>
      let q : Piece := if p.from_ = 2 ^ 64 then p else if c = 0 then { p with data := some v, from_ := 2 ^ 64 } else { p with bad := some (c, 0), from_ := 2 ^ 64 }
      (s.modTile t fun x => x.modChan ch fun k => { k with pieces := k.pieces.map fun r => if r = p then q else r }).at_ (evenUp s.nc)
        .copyReadReturn ⟨t, ch, p.elem, p.off, a⟩
  | 3 => s.at_ (evenUp s.nc + 2) .mcLineLand ⟨t, n / 64, n % 64, 1, v⟩
  | 4 => s.modChain n fun k => { k with layer := k.layer.map fun l =>
      { l with out := l.out - 1, status := if c != 0 && l.status == 0 then 1 else l.status, phase := if c = 0 then l.phase else .over } }
  | 5 => s.modChain (n % 8) fun k => { k with snaps := k.snaps.map fun r => if r.owedId = n / 8 then { r with out := r.out - 1 } else r }
  | _ => s

/-! ### Cisterns (R118 to R122, R319) -/

/-- An addend rounded to a multiple of 2^−192, as that multiple, and whether it is inexact (R120). -/
def cistRound (num exp : Int) : Int × Bool :=
  let r := roundTo .rne (decide (num < 0)) num.natAbs 1 exp (-192)
  (if num < 0 then -(r.1 : Int) else r.1, r.2)

/-- A cistern's value after an addend, and the status flags the addend sets: bit 0 nx, 1 of, 2 nv (R119, R120). -/
def cistAdd (n : Int) (special : Nat) (num exp : Int) : Int × Nat :=
  match special with
  | 1 => ((2 ^ 383 : Nat) - 1, 2)
  | 2 => (-(2 ^ 383 : Nat), 2)
  | 3 => (n, 4)
  | _ =>
    let a := cistRound num exp
    let m := n + a.1
    let nx := b2n a.2
    if ((2 ^ 383 : Nat) : Int) ≤ m then ((2 ^ 383 : Nat) - 1, nx + 2)
    else if m < -(2 ^ 383 : Nat) then (-(2 ^ 383 : Nat), nx + 2) else (m, nx)

/-- The update of a cistern and of the flags in its block's status word. -/
def Tile.applyAddend (x : Tile) (addr block special : Nat) (num exp : Int) : Tile :=
  let r := cistAdd (sext (x.poolRead addr 48) 384) special num exp
  let y := x.poolWrite addr 48 (fullEn 48) (trunc r.1 384)
  if r.2 = 0 then y else y.poolWrite block 1 (fullEn 1) (y.poolRead block 1 ||| r.2)

/-- The tc an update takes: 2, the words the rounded addend's bits reach, and the further words a carry or borrow changes; at most 10. -/
def cistCost (n : Int) (special : Nat) (num exp : Int) : Nat :=
  if special = 3 then 2
  else
    let a := if special = 0 then (cistRound num exp).1.natAbs else 0
    let after := trunc (cistAdd n special num exp).1 384
    let before := trunc n 384
    let words := (List.range 6).filter fun k => fld a (64 * k) 64 != 0
    let lo := words.headD 0
    let hi := words.getLastD 0
    let spanned := if words.isEmpty then 0 else hi - lo + 1
    let ripple := ((List.range 6).filter fun k => (words.isEmpty || decide (hi < k)) && fld after (64 * k) 64 != fld before (64 * k) 64).length
    min 10 (2 + spanned + ripple)

/-- Whether an update in the unit concerns bytes `[a, a + n)`: of its cistern or its block's status word. -/
def Tile.addwBusy (x : Tile) (a n : Nat) : Bool :=
  x.addws.any fun o => (decide (o.addr < a + n) && decide (a < o.addr + 48)) || (decide (o.block < a + n) && decide (a < o.block + 8))

/-- Updates of different cisterns go on in parallel, those of one cistern one after another. -/
def State.startAddw (s : State) (t : Nat) : State :=
  (s.tile t).addws.foldl (fun (s : State) o =>
    let x := s.tile t
    if o.started || x.addws.any (fun p => p.addr == o.addr && decide (p.id < o.id)) then s
    else
      (s.modTile t fun x => { x with addws := x.addws.map fun p => if p.id = o.id then { p with started := true } else p }).after
        (cistCost (sext (x.poolRead o.addr 48) 384) o.special o.num o.exp) .addwUpdate ⟨t, o.id, 0, 0, 0⟩) s

/-- The rounded value of a cistern (R121), and its flags. -/
def cistRead (bf : Bool) (v : Nat) : Nat × Nat :=
  let n := sext v 384
  roundFp (if bf then pBf else pF32) .rne (decide (n < 0)) n.natAbs 1 (-192)

/-- A pool access is performed at its owner `o` (R218, R223), and its return set off: the rest of the round trip of R225, or all
of it where the guard stalled the access (R246). -/
def State.poolPerform (s : State) (o : Nat) (q : PoolReq) : State :=
  let own : Bool := q.dev == s.dev.device.toNat && q.tile == o
  let here : Bool := q.dev == s.dev.device.toNat
  let back (s : State) (v fl x : Nat) (atomic : Bool) : State :=
    if own then (s.modAcc q.tile q.acc fun a => { a with flags := a.flags ||| BitVec.ofNat 5 fl }).returns q.tile q.acc q.part
      ((if q.waited then 5 else 3) + x) v
    else s.answer .tile o q.dev q.tile q.acc q.part ((if q.waited then 28 + wayCost o q.tile else 13) + 2 * x) q.nb v fl atomic
  let crd := match (s.tile q.tile).access q.acc with | some a => (match a.op with | .crd _ => here | _ => false) | none => false
  match q.op with
  | .read =>
    let bad := (s.tile o).poolPoison q.addr q.nb
    let s1 := if bad ∧ here then s.modAcc q.tile q.acc fun a => { a with cause := 8 } else s
    if bad ∧ !here then s.answerBy .tile q.dev o q.tile 1 13 (.fault q.tile q.acc q.part 8)
    else back (if here then s1.markPerformed q.tile q.acc q.part else s1) ((s.tile o).poolRead q.addr q.nb) 0 (if crd then 2 else 0) false
  | .write en d =>
    let s1 := s.modTile o fun x => x.poolWrite q.addr q.nb en d
    if q.acc = 0 then s1
    else if 2 ^ 66 ≤ q.acc ∧ own then s1.unitBack q.tile q.acc 0 0
    else if here ∧ q.acc < 2 ^ 66 then s1.markStored q.tile q.acc q.part
    else s1.answerBy .tile q.dev o q.tile 1 13 (.writeAck q.tile (2 ^ 64 + q.part) [q.acc])
  | .land ch d pos =>
    (s.modTile o fun x => { x.poolWrite q.addr q.nb (fullEn q.nb) d with
      guards := x.guards.map fun g => if g.tile = q.tile ∧ g.chan = ch ∧ here ∧ 2 ^ 65 + ch + 8 * g.accepted = q.acc then { g with wm := pos } else g }).answerBy .tile q.dev o q.tile 1 13
      (.writeAck q.tile 0 [q.acc])
  | .addw sp n e b =>
    let (id, s1) := s.take
    (s1.modTile o fun x => { x with addws := x.addws ++ [⟨id, q.dev, q.tile, q.acc, q.part, q.addr, b, sp, n, e, false⟩] }).startAddw o
  | .atomic afn sg d c =>
    let bad := (s.tile o).poolPoison q.addr q.nb
    let old := (s.tile o).poolRead q.addr q.nb
    let n := amoNew q.nb afn sg d c old
    -- an atomic that reads poison has no effect (R214, R224)
    let s1 := if bad then (if here then s.modAcc q.tile q.acc fun a => { a with cause := 8 } else s)
      else s.modTile o fun x => x.poolWrite q.addr q.nb (fullEn q.nb) n.1
    let gives := match (s.tile q.tile).access q.acc with | some a => a.gives | none => false
    let agg := match (s.tile q.tile).access q.acc with | some a => (match a.op with | .agg l => clog2 l.length | _ => 0) | none => 0
    if bad ∧ !here then s1.answerBy .tile q.dev o q.tile 1 13 (.fault q.tile q.acc q.part 8)
    else if here ∧ !gives ∧ !bad then s1.markStored q.tile q.acc q.part
    else back (if here then s1.markPerformed q.tile q.acc q.part else s1) old n.2 (2 + agg) true

/-- Held pool writes whose windows have retired land, in order (R247). -/
def State.landHeld (s : State) (t : Nat) : Nat → State
  | 0 => s
  | n + 1 =>
    match (s.tile t).ripeHeld t with
    | none => s
    | some h =>
      State.landHeld ((s.modTile t fun x => { x with heldWrites := x.heldWrites.filter (· != h) }).poolPerform t h) t n

/-- The accesses of a tile at the start of a tc: source beats are read, beats come to their turn, fences and stalled pool
accesses whose hold is over are marked, and what may leave leaves. -/
def State.tcAccess (s : State) (t : Nat) : State :=
  let s1 := s.landHeld t 8
  let s2 := (s1.tile t).acc.foldl (fun (s : State) a => if a.stage = 0 ∧ a.from_ ≤ s.tc then s.beginAcc t a else s) s1
  let s3 := (s2.tile t).acc.foldl (fun (s : State) a =>
    if a.stage != 3 && !a.gather.isEmpty && decide (a.from_ < s.tc) then s.gatherBeat t a else s) s2
  let s4 := s3.modTile t fun x => { x.coverWc with
    poolIn := x.poolIn.map fun q =>
      if q.ready < s.nc then { q with waited := true, ripe := q.op != .read || x.readGuard s3.dev.device.toNat t q != .stall } else q
    fences := x.fences.map fun f => { f with ripe := x.relReady f.jet f.upTo f.all f.sc } }
  s4.pump t

/-! ### Return (R225, R227) -/

/-- Sets the value an access gives, as the slices receive it (R227, R228, R229). -/
def Access.given (a : Access) : Nat :=
  match a.op with
  | .load true => trunc (sext a.value (8 * a.nb)) (4 * lenRuns a.dst)
  | .agg elems =>
    let w := 8 * a.nb
    ((elems.foldl (fun (st : Nat × Nat × Nat) e => (st.1 + st.2.1 % 2 ^ w * 2 ^ (w * st.2.2), st.2.1 + e, st.2.2 + 1)) (0, a.value, 0))).1
  | .fillBeat => a.value / 2 ^ (4 * (a.rep % 2))
  | _ => a.value

/-- Writing one beat of a returned value into its jet (R82): 16 slices, or every element of an aggregated atomic at once. -/
def State.returnBeat (s : State) (t : Nat) (a : Access) (v : Nat) : State :=
  let all := match a.op with | .agg _ => true | _ => false
  let l := if all then a.dst else takeRuns a.dst 16
  let rest := if all then [] else dropRuns a.dst 16
  let w := scatter l v
  let s1 :=
    if ((s.tile t).slotOf a.jet).isNone && ((s.tile t).saveOf a.jet).isNone then
      (if rest.isEmpty then s.modTile t fun x => x.limboDone a.owedId else s)
    else s.modTile t fun x => x.modOwner a.jet w fun j =>
      { j with
        frame := j.frame.apply w
        poison := cleanWords j.poison w
        fpflags := j.fpflags ||| a.flags
        owed := (j.owed.map fun (o : Owed) => if o.id = a.owedId then { o with dst := rest } else o).filter fun o => !(o.id == a.owedId && rest.isEmpty) }
  let s2 := s1.modAcc t a.id fun b => { b with dst := rest, value := v / 2 ^ (4 * lenRuns l), op := if b.op = .pref then .pref else .load false }
  if rest.isEmpty then s2 else s2.after 1 .loadReturn ⟨t, a.id, 0, 1, 0⟩

/-- A line that came back, with the tile's own bytes that stood in its buffer when the part left (R216, R262). -/
def Part.line (p : Part) (v : Nat) : Nat := mergeNib v p.own.2 p.own.1 256

/-- The bytes of a part out of the line, or the value, that came back. -/
def partValue (p : Part) (v : Nat) : Nat :=
  match p.path with
  | .cached => fld (p.line v) (8 * (p.addr % 128)) (8 * p.nb)
  | .stash => fld v (8 * (p.addr % 128)) (8 * p.nb)
  | _ => v % 2 ^ (8 * p.nb)

/-- A line that came back for a cached part joins the L1 unless its hint says otherwise, or the tile may have seen a newer one since (R216, R230, R262);
a copy that is there already is older. Of several reads of another device's line on their way (`here` false) none is known to be the newest. -/
def Tile.takeLine (x : Tile) (a : Access) (p : Part) (v : Nat) (here : Bool) (bad : List Nat) : Tile :=
  let line := p.addr / 128
  let left := badLeft bad p.own.1
  if p.path != .cached then x
  else
    let y := if here then x else x.stale fun q => q.addr / 128 == line
    if p.stale then y
    else if (x.l1Find line).isSome then { y with l1 := y.l1.map fun l => if l.line = line then { l with data := p.line v, bad := left } else l }
    else if a.hint = .streaming || (!here && decide (1 < x.reads line)) then y
    else y.l1Fill ⟨line, p.line v, a.hint == .keep, p.free, left⟩

/-- The next beat of a `fill` whose value came before those of the beats before it is written in the tc after them (R71, R82). -/
def State.nextBeat (s : State) (t : Nat) (a : Access) : State :=
  if a.beat.isNone then s
  else match (s.tile t).acc.find? fun b => b.jet == a.jet && b.pc == a.pc && b.beat.isSome && decide (a.id < b.id) && b.stage == 2 with
    | some b => if !b.parts.isEmpty && b.parts.all (·.acked) && !b.written then s.after 1 .loadReturn ⟨t, b.id, 0, 2, 0⟩ else s
    | none => s

/-- The fault of an access whose cause was found where it is performed: poison, an aborted window with its channel above bit 4, or a pool way that is
no scratch way (R208, R224, R246). -/
def answerFault (cause rep : Nat) : Flt :=
  let c := cause % 16
  if c = 8 then { cause := 8, addr := rep, info := 2 }
  else if c = 9 then { cause := 9, addr := rep, info := cause / 16, chan := cause / 16 }
  else { cause := c, addr := rep }

/-- All parts of an access are back: its result is written, or a cause found at the destination is taken now (R224, R388). A beat of a `fill`
waits for those before it (R71, R82). -/
def State.accOver (s : State) (t : Nat) (b : Access) : State :=
  if b.op == .fillBeat && (s.tile t).beatWaits b then s
  else if b.cause != 0 ∧ b.op != .pref then s.accFault t b.id (answerFault b.cause b.rep)
  else
    match b.op with
    | .crd bf =>
      let r := cistRead bf b.value
      let fl := BitVec.ofNat 5 r.2
      if (s.tile t).fpten &&& fl != 0 then
        let s2 := s.modTile t fun x => x.modOwner b.jet [] fun j => { j with fpflags := j.fpflags ||| fl }
        s2.accFault t b.id { cause := 11, flags := fl }
      else (s.returnBeat t { b with flags := fl } r.1).pump t
    | _ => ((s.returnBeat t b b.given).nextBeat t b).pump t

/-- A value, or the word that a part is over, is back at the tile. -/
def State.partReturns (s : State) (t id ix v : Nat) : State :=
  match (s.tile t).access id with
  | none => s
  | some a =>
    match a.parts[ix]? with
    | none => s
    | some p =>
      -- a value of the host or of another device is taken now (R261)
      let s0 := if p.performed then s else s.markPerformed t id ix
      let s1 := s0.modTile t fun x => (x.takeLine a p v (paDev p.addr == s.dev.device.toNat) (s.badWords (p.addr / 128))).modAcc id fun b =>
        { b.modPart ix (fun q => { q with acked := true }) with value := b.value + partValue p v * 2 ^ (8 * p.off) }
      match (s1.tile t).access id with
      | none => s1
      | some b => if b.parts.all (·.acked) then s1.accOver t b else s1

end Sys2Proof.Machine
end

