-- ==== Sys2Proof/Machine/Home.lean ====
section
/-!
DEFINITION. The events of the memory path: translation done, requests at an L2 slice and at a pool, drains of the
write-combining buffer, acknowledgements, returns, and the end of a fence (R212 to R225, R246, R247, R261, R270, R388, R389).
-/

namespace Sys2Proof.Machine

/-! ### At an L2 slice -/

def DirEntry.full (d : DirEntry) (t : Nat) : Bool := decide (4 ≤ (d.sharers.filter (· != t)).length)

/-- The number of stash ways in use. -/
def Tile.stashWays (x : Tile) : Nat := ((List.range 16).filter fun w => x.poolways.getLsbD w && !x.fenced.contains (2, w)).length

/-- The tile's stash takes a line (R219): the least recently used of its set leaves, lines marked keep last, as in the L1: the model's choice (log 7); an
owned victim is written back. -/
def State.stashTake (s : State) (t : Nat) (l : StashLine) : State :=
  let ways := (s.tile t).stashWays
  let mates := (s.tile t).stash.filter fun m => m.va % 512 == l.va % 512 && m.va != l.va
  let victim := if mates.length < ways then none else (mates.reverse.find? fun m => !m.keep).or mates.getLast?
  let s1 := match victim with
    | none => s
    | some v =>
      let s0 := if v.owned then s.stashHome v else s
      s0.modStop (homeOf (128 * v.pa)) fun x => x.dirLeave v.pa t
  s1.modTile t fun x => { x with stash := l :: x.stash.filter fun m => m.va != l.va && some m != victim }

/-- A line goes to a tile's stash, shared for a load and owned for a store, unless the directory has no room (R219, R220). -/
def State.stashGrant (s : State) (h t va line : Nat) (own free keep : Bool) (data : Nat) : Bool × State :=
  let d := (s.stop h).dirOf line
  -- a line whose mapping has gone meanwhile is not kept
  let mapped := (s.tile t).stashed (128 * va)
  let room := match d with
    | none => decide ((s.stop h).dir.length < 4096)
    | some d => own || !d.full t
  if !room || !mapped || (s.tile t).stashWays = 0 then (false, s)
  else
    let e : DirEntry := if own then ⟨line, some t, []⟩
      else ⟨line, none, (match d with | some d => d.sharers.filter (· != t) | none => []) ++ [t]⟩
    (true, (s.modStop h fun x => { x with dir := e :: x.dir.filter fun d => d.line != line }).stashTake t
      ((s.tile t).keepLine ⟨va, line, data, own, free, s.badWords line, false⟩ keep))

/-- A read, a write or an atomic is performed at its home slice `h` and answered (R220 to R223). -/
def State.serveL2 (s : State) (h : Nat) (k : Packet) : State :=
  let here := k.sdev = s.dev.device.toNat
  match k.body with
  | .read t id ix addr nb =>
    let a? := if here then (s.tile t).access id else none
    match a? with
    | none =>
      let (v, s1) := s.homeRead addr nb
      if here && decide (id < 2 ^ 66) then s1
      else if s.poisoned addr nb && !(here && unitKind id == 3) then s1.injectTo k.sdev h t .tile 1 27 (.fault t id ix 8)
      else s1.answer .l2 h k.sdev t id ix 27 nb v 0 false
    | some a =>
      match a.parts[ix]? with
      | none => s
      | some p =>
        let line := p.addr / 128
        let s0 := if s.poisoned p.addr p.nb then s.modAcc t id fun a => { a with cause := 8 } else s
        match p.path with
        | .stash =>
          if a.isStore then
            let s1 := s0.homeWrite p.addr p.nb (a.partEn p) (a.partData p)
            ((s1.stashGrant h t (p.va / 128) line true p.free (a.hint == .keep) (s1.memLine line)).2.markPerformed t id ix).answer .l2 h k.sdev t id ix 27 128 0 0 false
          else
            let s1 := s0.recall p.addr false
            -- a streaming prefetch brings its line to the slice only (R230)
            let s2 := if a.streams then s1 else (s1.stashGrant h t (p.va / 128) line false p.free (a.hint == .keep) (s1.memLine line)).2
            (s2.markPerformed t id ix).answer .l2 h k.sdev t id ix 27 128 (s1.memLine line) 0 false
        | .cached =>
          -- reads of the line performed before this one are older (R262)
          let s1 := (s0.recall p.addr false).modTile t fun x => x.stale fun q => q.performed && q.addr / 128 == line
          (s1.markPerformed t id ix).answer .l2 h k.sdev t id ix 27 128 (s1.memLine line) 0 false
        | _ =>
          let (v, s1) := s0.homeRead p.addr p.nb
          (s1.markPerformed t id ix).answer .l2 h k.sdev t id ix 27 p.nb v 0 false
  | .write t ids line en data =>
    let s0 := s.homeWrite (128 * line) 128 en data
    let s1 := if here ∧ ids.headD 0 < 2 ^ 65 then s0.modTile t fun x => x.ownDone line en else s0
    s1.injectTo k.sdev h t .tile 1 27 (.writeAck t line ids)
  | .atomic t id ix addr nb afn sg d c =>
    let a? := if here then (s.tile t).access id else none
    let s0 := s.recall addr true
    let bad := s0.poisoned addr nb
    let old := s0.mem.readN addr nb
    let n := amoNew nb afn sg d c old
    let s1 := if bad then (if here then s0.modAcc t id fun a => { a with cause := 8 } else s0) else s0.homeWrite addr nb (fullEn nb) n.1
    match a? with
    | none => if here then s1 else if bad then s1.injectTo k.sdev h t .tile 1 27 (.fault t id ix 8) else s1.answer .l2 h k.sdev t id ix 31 nb old n.2 true
    | some a =>
      let agg := match a.op with | .agg l => clog2 l.length | _ => 0
      (s1.markPerformed t id ix).answer .l2 h k.sdev t id ix (31 + 2 * agg) nb old n.2 true
  | _ => s

/-- The line a request at an L2 slice is for. -/
def Packet.line (k : Packet) : Nat :=
  match k.body with
  | .read _ _ _ addr _ => addr / 128
  | .write _ _ line _ _ => line
  | .atomic _ _ _ addr _ _ _ _ _ => addr / 128
  | _ => 0

/-- `L2_REQUEST` (R221): a hit is served; a miss joins its entry, takes one of 64, or waits in the input queue. -/
def execL2Request (s : State) : Out :=
  let h := s.focus.a
  match (s.stop h).l2In with
  | [] => .next s
  | k :: r =>
    let line := k.line
    let s1 := s.modStop h fun x => { x with l2In := r }
    if (s1.stop h).misses.any fun m => m.1 == line then
      .next (s1.modStop h fun x => { x with misses := x.misses.map fun m => if m.1 = line then (m.1, m.2 ++ [k]) else m })
    else if (s1.stop h).missWait.any fun m => m.line == line then .next (s1.modStop h fun x => { x with missWait := x.missWait ++ [k] })
    else if (s1.stop h).l2Lines.contains line then .next ((s1.modStop h fun x => x.touch line).serveL2 h k)
    else if (s1.stop h).misses.length < 64 then
      .next ((s1.modStop h fun x => { x with misses := x.misses ++ [(line, [k])] }).after 272 .l2Fill ⟨h, line, stackOf (128 * line), 0, 0⟩)
    else .next (s1.modStop h fun x => { x with missWait := x.missWait ++ [k] })

/-- The freed miss entry goes to the oldest request that waits for one, with all that wait for its line, in order of arrival (R126, R221). A line
that has come meanwhile is served from the slice. -/
def State.nextMiss (s : State) (h : Nat) : State :=
  match (s.stop h).missWait with
  | [] => s
  | k :: _ =>
    let same := (s.stop h).missWait.filter fun m => m.line == k.line
    let s1 := s.modStop h fun x => { x with missWait := x.missWait.filter fun m => m.line != k.line }
    if (s.stop h).l2Lines.contains k.line then same.foldl (fun (s : State) m => s.serveL2 h m) s1
    else (s1.modStop h fun x => { x with misses := x.misses ++ [(k.line, same)] }).after 272 .l2Fill ⟨h, k.line, stackOf (128 * k.line), 0, 0⟩

/-- `L2_FILL` (R211, R221, R222): the line arrives from its stack and the requests that joined its entry are served in order; a waiting
miss takes the entry's place. Focus: stop, line, stack. -/
def execL2Fill (s : State) : Out :=
  let h := s.focus.a
  let line := s.focus.b
  let joined := ((s.stop h).misses.find? fun m => m.1 == line).map (·.2)
  let s1 := s.modStop h fun x =>
    { x.fill line with
      misses := x.misses.filter fun m => m.1 != line
      writeBacks := x.writeBacks.dropLast }
  .next (((joined.getD []).foldl (fun (s : State) k => s.serveL2 h k) s1).nextMiss h)

/-! ### At a pool -/

/-- Whether a pool access may be performed now, or its trap is due (R246). -/
def Tile.poolReady (x : Tile) (dev o nc : Nat) (q : PoolReq) : Bool :=
  decide (q.ready ≤ nc) &&
    match q.op with
    | .addw .. => decide (x.addws.length < 8)
    | .land .. => true
    | .read =>
      !x.addwBusy q.addr q.nb &&
      match x.readGuard dev o q with
      | .stall => false
      | .aborted _ => true
      | .clear => decide (nc ≤ evenUp q.ready) || q.ripe
    | _ => !x.addwBusy q.addr q.nb

/-- `REMOTE_POOL_ACCESS` (R218, R223, R246, R247): an access to this tile's pool is performed, traps, or is held; a held write that
finds the 8 places taken is refused to another tile; a unit's write waits at the pool. -/
def execRemotePoolAccess (s : State) : Out :=
  let o := s.focus.a
  let x := s.tile o
  match x.poolIn.find? fun q => x.poolReady s.dev.device.toNat o s.nc q && q.tile == s.focus.b && q.acc == s.focus.c && q.part == s.focus.d with
  | none => .next s
  | some q =>
    let s1 := s.modTile o fun x => { x with poolIn := x.poolIn.filter (· != q) }
    -- a cause found here goes back to the requester, at once or over the network
    let refuse (c : Nat) : State :=
      if q.dev = s.dev.device.toNat ∧ 2 ^ 66 ≤ q.acc then s1.unitBack q.tile q.acc 0 c
      else if q.dev = s.dev.device.toNat then s1.accFault q.tile q.acc (answerFault c ((((s.tile q.tile).access q.acc).map (·.rep)).getD 0))
      else s1.answerBy .tile q.dev o q.tile 1 13 (.fault q.tile q.acc q.part c)
    -- the bytes lie in a way that is no scratch way (R208, R217)
    if q.acc != 0 && !(match q.op with | .land .. => true | _ => x.scratch q.addr q.nb) then .next (refuse 10)
    else
    match q.op with
    | .read =>
      match x.readGuard s.dev.device.toNat o q with
      | .aborted ch => .next (refuse (9 + 16 * ch))
      | _ => .next (s1.poolPerform o q)
    | .land .. => .next (s1.poolPerform o q)
    | _ =>
      if x.guardWrite o q.addr q.nb (q.dev, q.tile) then
        if x.heldWrites.length < 8 then .next (s1.modTile o fun x => { x with heldWrites := x.heldWrites ++ [q] })
        else if q.tile = o ∨ q.acc = 0 ∨ 2 ^ 66 ≤ q.acc then .next s
        else .next (s1.injectTo q.dev o q.tile .ni 1 0 (.refusal q.tile q.acc q.part))
      else .next (s1.poolPerform o q)

/-- `WRITE_REFUSAL_RESEND` (R247): the network interface of the sender resends a refused pool write. -/
def execWriteRefusalResend (s : State) : Out :=
  let f := s.focus
  .next ((s.modPart f.a f.b f.c fun p => { p with sent := false }).pump f.a)

/-! ### At the requesting tile -/

/-- `LOAD_RETURN` (R225, R227, R388): a value is back at the tile and written into the frame in beats of 16 slices. -/
def execLoadReturn (s : State) : Out :=
  let f := s.focus
  if f.d = 0 then .next (s.partReturns f.a f.b f.c f.data)
  else
    match (s.tile f.a).access f.b with
    | none => .next s
    | some a => if f.d = 3 then .next (s.accFault f.a f.b (answerFault f.c a.rep)) else if f.d = 2 then .next (s.accOver f.a a) else .next ((s.returnBeat f.a a a.value).pump f.a)

/-- `TLB_WALK_DONE` (R212, R213, R214). -/
def execTlbWalkDone (s : State) : Out := .next (s.walkDone s.focus.a s.focus.b)

/-- `WRITE_ACK` (R216, R261): the home has acknowledged the write of a line, or a pool of another device a write. -/
def execWriteAck (s : State) : Out :=
  let t := s.focus.a
  let line := s.focus.b
  if 2 ^ 64 ≤ line then .next ((s.markStored t s.focus.c (line - 2 ^ 64)).pump t)
  else
  let ids := ((s.tile t).unacked.find? fun e => e.1 == line).map (·.2)
  let s1 := s.modTile t fun x =>
    { x with
      unacked := x.unacked.filter fun e => e.1 != line
      acc := x.acc.map fun a => if (ids.getD []).contains a.id then
        { a with parts := a.parts.map fun p => if p.path != .pool && p.addr / 128 == line then { p with performed := true, acked := true } else p }
        else a }
  -- a write that went past the L1 is performed: a copy of its line may be older (R262)
  let past := (s.tile t).acc.any fun a => (ids.getD []).contains a.id && a.parts.any fun p => p.path == .bypass && p.addr / 128 == line
  .next ((if past then s1.modTile t fun x => x.l1Drop line else s1).pump t)

/-- Whether a release, a fence or a send of the tile waits for a store in a write-combining entry (R216, R268, R270, R271): the
entry then drains at once, as it does for an access that must find the line at its home. -/
def Tile.wcForced (x : Tile) (e : WcEntry) : Bool :=
  e.due ||
  x.acc.any (fun a => a.stage == 2 && a.parts.any fun p => !p.sent &&
    (((p.path == .bypass || p.path == .stash) && p.addr / 128 == e.line) ||
     (p.path == .cached && a.isStore && decide (32 ≤ x.wc.length) && x.wc.head?.map (·.line) == some e.line))) ||
  x.mcWait.any (fun c => (c.pas.any fun a => a / 128 == e.line) ||
    x.acc.any fun b => b.jet == c.jet && decide (b.id < c.upTo) && e.ids.contains b.id) ||
  x.copyQ.any (fun c => x.acc.any fun b => b.jet == c.jet && decide (b.id < c.upTo) && e.ids.contains b.id) ||
  x.mx.localQ.any (fun c => x.acc.any fun b => b.jet == c.jet && decide (b.id < c.upTo) && e.ids.contains b.id)

/-- Whether an entry drains now (R216): it is 16 tc old, full, or forced, and the previous write of its line is acknowledged. -/
def Tile.wcRipe (x : Tile) (tc : Nat) (e : WcEntry) : Bool :=
  (decide (e.opened + 16 ≤ tc) || e.covers 0 128 || x.wcForced e) && !x.unackedLine e.line

/-- `WC_DRAIN` (R216): the entry leaves the tile as one write of its line. -/
def execWcDrain (s : State) : Out :=
  let t := s.focus.a
  match (s.tile t).wcFind s.focus.b with
  | none => .next s
  | some e =>
    let s1 := s.modTile t fun x => { x with wc := x.wc.filter fun d => d.line != e.line, unacked := x.unacked ++ [(e.line, e.ids)] }
    .next ((s1.injectTo (paDev (128 * e.line)) t (homeOf (128 * e.line)) .l2 (payFlits (enBytes e.en)) 28 (.write t e.ids e.line e.en e.data)).pump t)

/-- `FENCE_COMPLETE` (R270): the jet's later accesses and sends go on; at device and system scope the L1 is invalidated. -/
def execFenceComplete (s : State) : Out :=
  let f := s.focus
  let s1 := s.modTile f.a fun x => { x with fences := x.fences.filter fun e => e.upTo != f.b }
  match (s.tile f.a).fences.find? fun e => e.upTo == f.b with
  | none => .next s
  | some e => .next ((if e.sc = .tile then s1 else s1.modTile f.a fun x => x.l1Flash e.all).pump f.a)

end Sys2Proof.Machine
end

