-- ==== Sys2Proof/Machine/Jets.lean ====
section
/-!
DEFINITION. Jets coming and going: granules and slots (R59 to R63, R84 to R88, R374), the ready queue, the end of a jet (R97, R192,
R203, R351), sends and work messages leaving a tile (R167, R169 to R171), and husks (R195).
-/

namespace Sys2Proof.Machine

/-! ### Granules and slots -/

/-- The runs of granules that are allotted in tc `tc`: resident jets' frames, frames that are freed only in the next tc (R88),
frames that wait for owed writes (R351), frames that gangs hold (R203), and fenced banks (R360). -/
def Tile.usedRuns (x : Tile) (tc : Nat) : List (Nat × Nat) :=
  ((x.jets.filter fun e => e.2.status != .free || decide (tc < e.2.freeAt)).map fun e => (e.2.granBase, e.2.grans)) ++
    x.limbo.map (fun l => (l.1, l.2.1)) ++ x.heldSlots.map (fun h => (h.2.1, h.2.2)) ++
    (x.fenced.filter fun f => f.1 == 0).map fun f => (64 * f.2, 64)

/-- `FreeRun(n, G)` of R87: the lowest run of `n` granules outside the runs given (R59). -/
def freeRun (used : List (Nat × Nat)) (n : Nat) : Option Nat :=
  if n = 0 then none
  else (List.range (1024 - n + 1)).find? fun b => used.all fun u => decide (u.1 + u.2 ≤ b) || decide (b + n ≤ u.1) || u.2 == 0

/-- A run in `free − reserved`. -/
def Tile.fits (x : Tile) (tc n : Nat) : Option Nat := freeRun (x.usedRuns tc ++ x.reserved) n

/-- Whether a gang holds the slot (R203). -/
def Tile.slotHeld (x : Tile) (k : Nat) : Bool := x.heldSlots.any fun h => h.1 == k

/-- The lowest free jet slot (R374). A slot that a gang holds is not free (R203). -/
def Tile.freeSlot (x : Tile) (tc : Nat) : Option Nat :=
  (List.range 8).find? fun k =>
    (x.jet k).status == .free && decide ((x.jet k).freeAt ≤ tc) && !x.slotHeld k

/-! ### Husks (R194, R195, R197) -/

/-- Whether the tile's set answers the lookup, else the die's table is read. -/
def Tile.huskHit (x : Tile) (i : BitVec 16) : Bool := x.huskSet.contains i || !x.huskMore
def State.husked (s : State) (t : Nat) (i : BitVec 16) : Bool :=
  (s.tile t).huskSet.contains i || ((s.tile t).huskMore && (s.die (dieOf t)).huskTable.contains i)

/-! ### Work messages and sends that leave a tile -/

/-- A work message leaves for tile `dst` (R189 to R192). -/
def State.sendWork (s : State) (t dst : Nat) (m : WorkMsg) : State :=
  if t = dst then s.modTile t fun x => { x with workIn := x.workIn ++ [(s.nc + 2, m)] }
  else s.inject t dst .tile 1 0 (.work m)

/-- Whether the tile has a +1 for a tracker that is not acknowledged: no −1 for it leaves before, so that its count is never too low (R192). -/
def Tile.owesPlus (x : Tile) (ttile tindex : Nat) : Bool := x.increments.any fun e => e.1 == ttile && e.2.1 == tindex

/-- One piece fewer for a tracker (R192). -/
def State.pieceEnds (s : State) (t ttile tindex : Nat) : State :=
  if (s.tile t).owesPlus ttile tindex then
    s.modTile t fun x => { x with workOut := x.workOut ++ [⟨0, 0, ttile, .track tindex false t none⟩] }
  else s.sendWork t ttile (.track tindex false t none)

/-- The discard of a task that may be tracked ends its piece (R195). -/
def State.taskEnds (s : State) (t : Nat) (k : Task) : State :=
  if k.tracked then s.pieceEnds t k.ttile.toNat k.tindex.toNat else s

/-- A send of the tile enters its outbound buffer (R167, R171). `jet` and `upTo` say which accesses a release waits for. -/
def State.post (s : State) (t jet : Nat) (m : SendMsg) : State :=
  s.modTile t fun x => x.modWeir fun w => { w with outbound := w.outbound ++ [⟨m, jet, s.nextId, false, false, s.tc⟩] }

/-- A message of a tile with no release. -/
def plainMsg (t : Nat) (h : BitVec 32) (inst : BitVec 16) (size payload : Nat) : SendMsg :=
  { handle := h, src := .tile t, seq := 0, base := 0, inst := inst, op := .data, size := size, payload := payload, rel := none,
    relAll := false, tt := none, hostEntry := none }

/-- A fault record that goes to the fault basin of tile `dst` (R348). -/
def State.reportTo (s : State) (src dst : Nat) (f : Flt) (inst : BitVec 16) : State :=
  if src = dst then s.report src f inst
  else s.post src 0 (faultMsg s src dst (faultRecord s src f 0 inst 0xffff) inst)

/-! ### The range task record (R182) -/

def Task.image (k : Task) : Nat :=
  k.done.toNat * 2 ^ 224 + fld k.entry.toNat 5 52 * 2 ^ 172 + k.tindex.toNat * 2 ^ 160 + k.ttile.toNat * 2 ^ 150 + b2n k.tracked * 2 ^ 149 +
    b2n k.barrier * 2 ^ 148 + k.frame.toNat * 2 ^ 141 + k.role.toNat * 2 ^ 139 + k.prio.toNat * 2 ^ 136 + k.inst.toNat * 2 ^ 120 +
    k.grain.toNat * 2 ^ 96 + k.hi.toNat * 2 ^ 48 + k.lo.toNat

def Task.ofImage (n : Nat) : Task :=
  { done := BitVec.ofNat 32 (fld n 224 32), entry := BitVec.ofNat 64 (fld n 172 52 * 32), tindex := BitVec.ofNat 4 (fld n 160 4),
    ttile := BitVec.ofNat 10 (fld n 150 10), tracked := fld n 149 1 == 1, barrier := fld n 148 1 == 1, frame := BitVec.ofNat 7 (fld n 141 7),
    role := BitVec.ofNat 2 (fld n 139 2), prio := BitVec.ofNat 3 (fld n 136 3), inst := BitVec.ofNat 16 (fld n 120 16),
    grain := BitVec.ofNat 24 (fld n 96 24), hi := BitVec.ofNat 48 (fld n 48 48), lo := BitVec.ofNat 48 (fld n 0 48) }

def Task.range (k : Task) : LiveRange :=
  { has := true, lo := k.lo, hi := k.hi, grain := k.grain, tracked := k.tracked, ttile := k.ttile, tindex := k.tindex }

/-! ### Residency (R60, R84, R87, R88) -/

/-- The frame at firing: payload `i` at slice 128·i, cut at the frame's end, and zero elsewhere (R60). -/
def payloadBits (grans : Nat) (l : List (Nat × Nat × Option Nat)) : Nat :=
  ((l.zipIdx.map fun e => (e.1.1 % 2 ^ (8 * e.1.2.1)) * 2 ^ (512 * e.2)).sum) % 2 ^ (512 * grans)

/-- The jet that a record becomes in tc `tc` (R84). -/
def Ready.jet (q : Ready) (key seq base tc : Nat) : Jet :=
  { Jet.empty with
    status := .running
    key := key
    pc := q.entry
    entry := q.entry
    frame := ⟨match q.task with | some k => k.image % 2 ^ (512 * q.grans) | none => payloadBits q.grans q.payloads⟩
    granBase := base
    grans := q.grans
    range := match q.task with | some k => k.range | none => .none
    role := q.role
    level := q.level
    ceiling := q.level
    inst := q.inst
    seq := BitVec.ofNat 13 seq
    resident := tc
    firstRes := tc
    stallTill := tc + 6
    start := if q.entry.toNat % 32 != 0 then some 2 else if q.badHeader then some 1 else none
    poison := q.bad.filter fun w => decide (w < 8 * q.grans) }

/-- A record becomes a jet in a slot with the frame at `base`. -/
def State.reside (s : State) (t slot base : Nat) (q : Ready) : State :=
  let (key, s1) := s.take
  s1.modTile t fun x =>
    let n := Tbl.get 0 x.slotSeq slot
    { x.setJet slot (q.jet key n base s.tc) with slotSeq := Tbl.set x.slotSeq slot (n + 1) }

/-- Basins that a full ready queue blocked are examined when a record leaves it, in rising index (R179). -/
def Tile.unblock (x : Tile) (tc : Nat) : Tile :=
  if x.ready.length < 64 then x
  else x.modWeir fun w => { w with
    examine := (w.examine.filter fun e => !w.blocked.contains e.1) ++ ((List.range 64).filter fun b => w.blocked.contains b).map fun b => (b, tc)
    blocked := [] }

/-- A record leaves the ready queue. -/
def Tile.unready (x : Tile) (id tc : Nat) : Tile :=
  let y := x.unblock (tc + 1)
  { y with ready := y.ready.filter fun q => q.id != id }

/-- A husked record is discarded at residency: no jet, and its piece ends (R87, R195). -/
def State.discardReady (s : State) (t : Nat) (q : Ready) : State :=
  let s1 := s.modTile t fun x => x.unready q.id s.tc
  match q.task with | some k => s1.taskEnds t k | none => s1

/-- A record that is passed over for the sixteenth time is reserved for (R87). -/
def Tile.pass (x : Tile) (id : Nat) : Tile :=
  let n := ((x.ready.find? fun q => q.id == id).map (·.bypass)).getD 0 + 1
  let y : Tile := { x with ready := x.ready.map fun q => if q.id = id then { q with bypass := n } else q }
  if n = 16 then (if y.reserver.isNone then { y with reserver := some id } else { y with resOrder := y.resOrder ++ [id] }) else y

/-- A saved context may become resident once nothing is owed to it (R358). -/
def Tile.admissible (x : Tile) (q : Ready) : Bool :=
  match q.saved.bind x.save with
  | some v => v.jet.awaited.isEmpty
  | none => true

/-- A record that is no more is reserved for no more: its granules are free for all, and the next in the order is the reserver. What becomes of
the reserve then is the model's choice (log 26). -/
def Tile.unreserve (x : Tile) (id : Nat) : Tile :=
  let y := { x with resOrder := x.resOrder.filter (· != id) }
  if y.reserver = some id then { y with reserved := [], reserver := y.resOrder.head?, resOrder := y.resOrder.tail } else y

/-- Ready records in the order R87 looks at them: by level, then by arrival. -/
def Tile.readyOrder (x : Tile) : List Ready :=
  [7, 6, 5, 4, 3, 2, 1, 0].flatMap fun l => x.ready.filter fun q => q.level.toNat == l && x.admissible q

/-- A record is made resident; a saved context returns instead (R358). -/
def State.seatJet (s : State) (t slot base : Nat) (q : Ready) : State :=
  let s1 := s.modTile t fun x => x.unready q.id s.tc
  match q.saved with
  | some e =>
    -- the context is restored into a fresh frame, and its jet goes on (R354, R356)
    (s1.modTile t fun x => x.setJet slot { Jet.empty with status := .saving, granBase := base, grans := q.grans, resident := s.tc }).at_ s.nc
      .contextRestore ⟨t, slot, e, base, 0⟩
  | none => s1.reside t slot base q

/-- The search of R87 over the ready records, with the records passed over so far. A saved context is restored even where its instance has been
husked: what R195 discards is work that has not begun, and a running jet of a husked instance runs on, the model's choice (log 26). -/
def State.searchReady (s : State) (t slot : Nat) : List Ready → List Nat → State
  | [], _ => s
  | q :: r, passed =>
    if s.husked t q.inst ∧ q.saved = none then State.searchReady (s.discardReady t q) t slot r passed
    else
      match (s.tile t).fits s.tc q.grans with
      | some b => passed.foldl (fun (s : State) id => s.modTile t fun x => x.pass id) (s.seatJet t slot b q)
      | none => State.searchReady s t slot r (passed ++ [q.id])

/-- The slot a record of a level may take: for a live one a slot that a gang holds and that has no jet counts as free (R198), the lowest again
(R374). -/
def Tile.slotFor (x : Tile) (tc : Nat) (live : Bool) : Option Nat :=
  match x.freeSlot tc with
  | some k => some k
  | none => if live then (List.range 8).find? fun k => x.slotHeld k && (x.jet k).status == .free && decide ((x.jet k).freeAt ≤ tc) else none

/-- Whether a jet of the tile has become resident in this tc: no two share one (R88). -/
def Tile.took (x : Tile) (tc : Nat) : Bool := x.jets.any fun e => e.2.status != .free && e.2.resident == tc

/-- Whether `RESIDENCY` has something to do: a free slot, and a record that gets a frame or is husked. -/
def State.canReside (s : State) (t : Nat) : Bool :=
  let x := s.tile t
  !x.inReset && !x.gated &&
    ((match x.reserver with
      | some id => match x.ready.find? fun q => q.id == id && x.admissible q with
        | some q => (x.freeSlot s.tc).isSome && (freeRun (x.usedRuns s.tc) q.grans).isSome
        | none => false
      | none => false) ||
    x.ready.any fun q => some q.id != x.reserver && x.admissible q && (x.slotFor s.tc (q.level == 7)).isSome &&
      (s.husked t q.inst || (x.fits s.tc q.grans).isSome))

/-- `RESIDENCY` (R87, R88): at most one record is made resident; the reserver first. -/
def execResidency (s : State) : Out :=
  let t := s.focus.a
  let x := s.tile t
  let live := (x.freeSlot s.tc).isNone
  match x.slotFor s.tc live with
  | none => .next s
  | some slot =>
    let res := x.reserver.bind fun id => x.ready.find? fun q => q.id == id && x.admissible q
    match res, (if live then none else res.bind fun q => freeRun (x.usedRuns s.tc) q.grans) with
    | some q, some b =>
      .next ((s.seatJet t slot b q).modTile t fun x => { x with reserved := [], reserver := x.resOrder.head?, resOrder := x.resOrder.tail })
    | _, _ => .next (s.searchReady t slot (x.readyOrder.filter fun q => some q.id != x.reserver && (!live || q.level == 7)) [])

/-- `PRIORITY_AGEING` (R199): a ready record rises one level; its wait restarts and its arrival stands. -/
def execPriorityAgeing (s : State) : Out :=
  let f := s.focus
  .next (s.modTile f.a fun x => { x with ready := x.ready.map fun q =>
    if q.id = f.b then { q with level := q.level + 1, waitFrom := s.dev.time } else q })

/-- The records whose wait at their level has reached its age interval, in µs (R199). -/
def Tile.ageing (x : Tile) (now : Nat) : Option Ready :=
  x.ready.find? fun q =>
    let age := fld x.prioage.toNat (8 * q.level.toNat) 8
    decide (q.level.toNat ≤ 5) && age != 0 && decide (q.waitFrom + 1000 * age ≤ now)

/-! ### The end of a jet -/

/-- The pipes of the gang pattern that fires into a slot are examined once the slot has no jet (R203). -/
def Tile.lookHeld (x : Tile) (slot tc : Nat) : Tile :=
  x.modWeir fun w => { w with examine := w.examine ++ (w.patterns.flatMap fun e => match e.2 with
    | some p => if (p.held.map (·.2.2)) = some slot then p.basins.map fun b => (b, tc) else []
    | none => []) }

/-- The patterns of gangs that hold a slot without a run of granules are tried again once granules are free (R203, log 26). -/
def Tile.lookRunless (x : Tile) (tc : Nat) : Tile :=
  (x.heldSlots.filter fun h => h.2.2 == 0).foldl (fun (x : Tile) h => x.lookHeld h.1 tc) x

/-- Whether the jet in a slot stands in the run that a gang holds for it; a live record's jet that has borrowed the slot has a run of its own
(R198, R203). -/
def Tile.inHeldRun (x : Tile) (slot : Nat) : Bool :=
  x.heldSlots.any fun h => h.1 == slot && h.2.1 == (x.jet slot).granBase && h.2.2 != 0

/-- A slot that a gang holds has no jet any more: its pipes are examined (R203). -/
def Tile.slotLeft (x : Tile) (slot tc : Nat) : Tile := if x.slotHeld slot then x.lookHeld slot (tc + 1) else x

/-- The slot and frame of a jet that ends are free from the next tc, or return to its gang (R88, R203). -/
def Tile.vacate (x : Tile) (slot tc : Nat) : Tile :=
  let j := x.jet slot
  let held := x.inHeldRun slot
  let y := (x.setJet slot { Jet.empty with freeAt := tc + 1, granBase := j.granBase, grans := if held then 0 else j.grans }).slotLeft slot tc
  if held then y else (y.freed j.granBase j.grans).lookRunless (tc + 1)

/-- A gang gives up the run it holds for a slot: the granules of a member that is saved are freed (R61, R355). -/
def Tile.giveRun (x : Tile) (slot : Nat) : Tile :=
  if x.inHeldRun slot then { x with heldSlots := x.heldSlots.map fun h => if h.1 = slot then (slot, 0, 0) else h } else x

/-- A tracked jet's piece ends, once its accesses before `exit` are performed at device scope (R192). -/
def State.rangeEnds (s : State) (t : Nat) (j : Jet) (release : Bool) : State :=
  if j.range.has && j.range.tracked then
    if release then s.modTile t fun x => { x with workOut := x.workOut ++
      [⟨j.key, s.nextId, j.range.ttile.toNat, .track j.range.tindex.toNat false t none⟩] }
    else s.pieceEnds t j.range.ttile.toNat j.range.tindex.toNat
  else s

/-- THE END OF A JET by `exit` (R97, R88, R101, R192, R203): its slot and frame are freed, its live range ends with it. -/
def State.endJet (s : State) (t slot : Nat) : State :=
  let j := s.jet t slot
  (s.rangeEnds t j true).modTile t fun x => x.vacate slot s.tc

/-- How often an owed result of a killed jet still comes: once a beat. -/
def Owed.times (o : Owed) : Nat := if o.defer || o.fixed then 1 else max 1 o.w.length

/-- Beats of a `spill` or `fill` of a jet that have not begun, and those behind them (R82). -/
def Tile.unbegun (x : Tile) (key : Nat) : List Access :=
  let beats := x.acc.filter fun a => a.jet == key && a.beat.isSome && a.stage != 3
  match beats.find? fun a => a.stage == 0 with
  | some a => beats.filter fun b => decide (a.id ≤ b.id)
  | none => []

/-- The frame of a jet that ends is read no more; its beats that have not begun are withdrawn. -/
def Tile.cutBeats (x : Tile) (key : Nat) : Tile :=
  let l := (x.unbegun key).map (·.id)
  { x with acc := (x.acc.filter fun a => !l.contains a.id).map fun a => if a.jet = key then { a with gather := [] } else a }

/-- A KILLED jet ends at once (R351): owed values are dropped when they come, and its granules are free when the last has. -/
def State.killJet (s : State) (t slot : Nat) : State :=
  let j := s.jet t slot
  let ids := j.owed.flatMap fun o => List.replicate o.times o.id
  let held := j.interrupted.flatMap (·.owedIds) ++ ((s.tile t).unbegun j.key).map (·.owedId)
  let ids := ids.filter fun i => !held.contains i
  let s1 := (s.rangeEnds t j false).modTile t fun x => x.cutBeats j.key
  if ids.isEmpty || (s.tile t).inHeldRun slot then s1.modTile t fun x => x.vacate slot s.tc
  else s1.modTile t fun x =>
    { (x.setJet slot { Jet.empty with freeAt := s.tc + 1 }).slotLeft slot s.tc with limbo := x.limbo ++ [(j.granBase, j.grans, ids)] }

end Sys2Proof.Machine
end

