-- ==== Sys2Proof/Machine/Weir.lean ====
section
/-!
DEFINITION. The weir: basins, sends and their order, patterns and firing (R154 to R181), and the instructions of group A.
-/

namespace Sys2Proof.Machine

/-! ### Memory as a weir or an engine reaches it -/

/-- The packets of a read by a unit of tile `t`, whose value is taken as `agentRead` says: those to other stops. -/
def State.asks (s : State) (t va n : Nat) : State :=
  match s.partsOf t .read .page true va n with
  | .error _ => s
  | .ok l => l.foldl (fun (s : State) p =>
      if p.path = .pool then
        if p.pool = 1024 * s.dev.device.toNat + t then s
        else s.injectTo (p.pool / 1024) t (p.pool % 1024) .tile 1 14 (.poolReq t (unitId 0 0) 0 .read p.addr p.nb)
      else s.askUnit t (unitId 0 0) p.addr p.nb 28) s

/-- A read by a unit of tile `t` at a virtual address, or its cause; what another device holds is free (log 28). -/
def State.agentRead (s : State) (t va n : Nat) : Except Nat (Nat × State) :=
  let s0 := s.walked t va n
  match s.partsOf t .read .page true va n with
  | .error c => .error c
  | .ok l =>
    let mine (p : Part) : Bool := p.pool / 1024 == s.dev.device.toNat
    if l.any fun p => if p.path = .pool then mine p && (s.tile (p.pool % 1024)).poolPoison p.addr p.nb else s.poisoned p.addr p.nb then .error 8
    else .ok (l.foldl (fun (r : Nat × State) p =>
      if p.path = .pool then
        (r.1 + (if mine p then (s.tile (p.pool % 1024)).poolRead p.addr p.nb
          else Config.freeNode s.nc (2 ^ 64 + 2 ^ 20 * p.pool + p.addr) % 2 ^ (8 * p.nb)) * 2 ^ (8 * p.off), r.2)
      else
        let m := r.2.unitRead p.addr p.nb
        (r.1 + m.1 * 2 ^ (8 * p.off), m.2)) (0, s0))

/-- A write by the weir of tile `t`, or its cause. It is performed at once, so that the refill behind it reads it; its packet takes the way of a write. A
write into a window that is landing is held at its pool (R247). -/
def State.agentWrite (s : State) (t va n v : Nat) : Except Nat State :=
  match s.partsOf t .write .page true va n with
  | .error c => .error c
  | .ok l => .ok (l.foldl (fun (s : State) p =>
      let d := fld v (8 * p.off) (8 * p.nb)
      let o := p.pool % 1024
      let dev := s.dev.device.toNat
      if p.path = .pool then
        if p.pool / 1024 != dev then s.injectTo (p.pool / 1024) t o .tile (payFlits p.nb) 14 (.poolReq t (unitId 0 0) 0 (.write (fullEn p.nb) d) p.addr p.nb)
        else if (s.tile o).guardWrite o p.addr p.nb (dev, t) then
          s.modTile o fun x => { x with poolIn := x.poolIn ++ [⟨dev, t, 0, 0, .write (fullEn p.nb) d, p.addr, p.nb, s.nc, false, false⟩] }
        else s.modTile o fun x => x.poolWrite p.addr p.nb (fullEn p.nb) d
      else if s.ownPa p.addr then (s.unitWrite p.addr p.nb d).tellUnit t (unitId 0 0) p.addr p.nb 0 0
      else s.tellUnit t (unitId 0 0) p.addr p.nb (fullEn p.nb) d) s)

/-- A unit of stop `u` sends the writes of some parts, as packets that are acknowledged to it: the state and their number. -/
def State.unitSend (s : State) (u id : Nat) (l : List Part) (v : Nat) : State × Nat :=
  (l.foldl (fun (s : State) p =>
    let d := fld v (8 * p.off) (8 * p.nb)
    let dev := s.dev.device.toNat
    if p.path = .pool then
      if p.pool = 1024 * dev + u then s.modTile u fun x =>
        { x with poolIn := x.poolIn ++ [⟨dev, u, id, 0, .write (fullEn p.nb) d, p.addr, p.nb, s.nc + 4, false, false⟩] }
      else s.injectTo (p.pool / 1024) u (p.pool % 1024) .tile (payFlits p.nb) 14 (.poolReq u id 0 (.write (fullEn p.nb) d) p.addr p.nb)
    else s.tellUnit u id p.addr p.nb (fullEn p.nb) d) s, l.length)

/-- The part of that latency from the tc in which the access is performed to its return (R389). -/
def State.agentBack (s : State) (t va : Nat) : Nat :=
  match poolOf s.dev.device.toNat t va with
  | some (_, o, _) => if o = t then 3 else 7 + wayCost t o / 2
  | none =>
    match (s.xlate t va).1 with
    | .ok e => 14 + wayCost t (homeOf (e.pbase + (va - e.vbase))) / 2
    | .error _ => 0

/-- The latency of R225 of a unit's access. -/
def State.agentCost (s : State) (t va : Nat) : Nat :=
  match poolOf s.dev.device.toNat t va with
  | some (_, o, _) => if o = t then 5 else 14 + wayCost t o
  | none =>
    let x := s.xlate t va
    x.2 + match x.1 with
      | .ok e => s.l2Cost t (e.pbase + (va - e.vbase))
      | .error _ => 0

/-! ### Slots (R162, R163) -/

/-- The payloads of basin `b` in the ready queue. -/
def Tile.inReady (x : Tile) (b : Nat) : Nat := (x.ready.map fun q => (q.payloads.filter fun p => p.2.2 == some b).length).sum

def Tile.charge (x : Tile) (b : Nat) (k : Basin) : Nat := k.slots.length + b2n k.refilling + x.inReady b

def Tile.liveBasins (x : Tile) : List (Nat × Basin) := x.weir.basins.filterMap fun e => e.2.map fun k => (e.1, k)

/-- Unused slots of the 512, of which a fenced bank takes 64 (R360). -/
def Tile.freeSlots (x : Tile) : Nat :=
  512 - 64 * x.fencedOf 6 - ((x.liveBasins.map fun e => e.2.slots.length + b2n e.2.refilling).sum +
    (x.ready.map fun q => (q.payloads.filter fun p => p.2.2.isSome).length).sum)

def Tile.need (x : Tile) : Nat := (x.liveBasins.map fun e => e.2.reserve - x.charge e.1 e.2).sum

/-- Whether basin `b` is granted a slot (R163 step 2). -/
def Tile.granted (x : Tile) (b : Nat) (k : Basin) : Bool := decide (x.charge b k < k.reserve) || decide (x.need + 1 ≤ x.freeSlots)

/-- The basin is examined from tc `tc` on (R178). -/
def Weir.look (w : Weir) (b tc : Nat) : Weir := { w with examine := w.examine ++ [(b, tc)] }

/-! ### Overflow (R165) -/

/-- A message goes to the die's overflow pool, or is lost; it is journaled, and reported but for indices 62 and 63. -/
def State.overflow (s : State) (t b : Nat) (k : Basin) (m : SendMsg) : State :=
  let d := dieOf t
  let e := (List.range 4096).find? fun i => (Tbl.get none (s.die d).overflowPool i).isNone
  let h := handleOf s.dev.device t b ((s.tile t).weir.gen b)
  let n := min (2 ^ 64 - 1) (k.overflowed + 1)
  let s1 := s.modTile t fun x => x.modWeir fun w => w.modBasin b fun k => { k with overflowed := n }
  match e with
  | none =>
    (s1.modDie d fun x => { x with overflowed := x.overflowed + 1, lost := x.lost + 1 }).journal 6 3 t h 1
  | some i =>
    let s2 := s1.modDie d fun x => { x with
      overflowPool := Tbl.set x.overflowPool i (some (BitVec.ofNat 512 m.payload)), overflowed := x.overflowed + 1 }
    let s3 := s2.journal 3 0 t h i
    -- freed 1 ms after its record (R367)
    let s4 := if s.dev.duty.getLsbD 1 then s3 else s3.at_ (evenUp (s.nc + 1400000)) .overflowEntryFree ⟨d, i, 0, 0, 0⟩
    if b = 62 ∨ b = 63 then s4 else s4.report t { cause := 16, info := n, handle := h } m.inst

/-! ### Acceptance (R168, R163, R172) -/

def heldOf (m : SendMsg) (tc : Nat) : Held := ⟨tc + 1, m.payload, m.size, m.inst, m.src, m.rel, m.relAll, m.tt, []⟩

/-- A message that finds neither room in a slot nor a ring goes to the ring's tail, or to the overflow pool (R163, R164). -/
def State.toRing (s : State) (t b : Nat) (k : Basin) (m : SendMsg) : State :=
  let a := k.ringBase.toNat + 64 * ((k.ringHead + k.ring.length) % 2 ^ k.ringLog)
  let s := s.cacheFor t a 64
  match s.agentWrite t a 64 m.payload with
  | .ok s1 => s1.modTile t fun x => x.modWeir fun w => w.modBasin b fun k => { k with ring := k.ring ++ [heldOf m s.tc] }
  | .error _ =>
    (s.report t { cause := 20, addr := a, info := 1, handle := handleOf s.dev.device t b ((s.tile t).weir.gen b) } m.inst).overflow t b k m

/-- Placing an accepted message (R163): the ring's tail if the ring holds any, a slot, the ring, the overflow pool. -/
def State.place (s : State) (t b : Nat) (k : Basin) (m : SendMsg) : State :=
  let full := decide (2 ^ k.ringLog ≤ k.ring.length)
  if !k.ring.isEmpty ∧ !full then s.toRing t b k m
  else if k.ring.isEmpty ∧ (s.tile t).granted b k then
    s.modTile t fun x => x.modWeir fun w =>
      (w.modBasin b fun k => { k with slots := k.slots ++ [heldOf m s.tc] }).look b (s.tc + 1)
  else if k.ringEn ∧ !full then s.toRing t b k m
  else s.overflow t b k m

/-- Why an arrival is discarded (R168, R359): not live, or kind or size. -/
def State.refuses (s : State) (t : Nat) (m : SendMsg) : Option Nat :=
  if (s.tile t).inReset then some 4
  else if !s.live t m.handle then some 1
  else
    match (s.tile t).weir.basin (hIndex m.handle) with
    | none => some 1
    | some k =>
      match k.kind, m.op with
      | .message, .data => if m.size = k.msize then none else some 2
      | .engine, .data => if m.size = 64 then none else some 2
      | .counter, .add => none
      | .counter, .arm => none
      | _, _ => some 2

def Lauc.empty : Lauc := ⟨[], [], 256, [], 0⟩

/-- A packet waits at a Lauc port to leave the device (R290). -/
def State.toLauc (s : State) (port : Nat) (k : Packet) : State :=
  s.modDev fun d =>
    let l := Tbl.get Lauc.empty d.lauc port
    { d with lauc := Tbl.set d.lauc port { l with out := l.out ++ [k] } }

/-- The record of a host's write of the message window to a launch queue, made when the queue accepts the send, or when the send is discarded because it is
no queue's any more (R365). -/
def State.hostRecord (s : State) (m : SendMsg) (seq : Nat) : State :=
  match m.hostEntry with
  | none => s
  | some (j, dg) => s.journal 0 0 j (BitVec.ofNat 32 seq) dg

/-- A discarded arrival is journaled, and reported to the fault basin of the tile that sent it (R168): across the port it came by, as a send of this
tile with its place in the tile's window (R169). The fault basin's generation is 1, since it is never freed (R161). -/
def State.discard (s : State) (t : Nat) (m : SendMsg) (why : Nat) : State :=
  match m.src with
  | .host => (s.hostRecord m 0).journal 2 2 0xffff m.handle 1
  | .peerHost _ _ => s.journal 2 2 0xffff m.handle 1
  | .tile n => (s.journal 2 2 t m.handle 1).reportTo t n { cause := 17, info := why, handle := m.handle } m.inst
  | .lauc port dev tile =>
    let fr := faultRecord s t { cause := 17, info := why, handle := m.handle } 0 m.inst 0xffff
    (s.journal 2 2 t m.handle 1).post t 0 { plainMsg t (handleOf (BitVec.ofNat 4 dev) tile 63 1) m.inst 64 fr with via := some port }

/-- Whether a basin is a launch queue of the tile, and which (R193). -/
def Tile.queueOf (x : Tile) (b : Nat) : Option Nat :=
  (List.range 4).find? fun q =>
    fld x.lqmap.toNat (8 * q + 7) 1 == 1 && fld x.lqmap.toNat (8 * q) 6 == b &&
      match x.weir.basin b with
      | some k => k.kind == .message && k.msize == 32
      | none => false

/-- The launch sequence the next record accepted into the queue at basin `b` takes (R193, R365). -/
def Tile.nextLaunch (x : Tile) (b : Nat) : Nat :=
  Tbl.get 0 x.lqSeq b + match x.weir.basin b with
    | some k => k.slots.length + k.ring.length -- a message that is being read back stands in the ring until it is there
    | none => 0

/-- The tile of a chain's stop (R329): chain 0 at (7, 7), chain 1 at (8, 8) of its die; chains are numbered 2 · die + number. -/
def chainStop (k : Nat) : Nat := if k % 2 = 0 then tileAt (k / 2) 7 7 else tileAt (k / 2) 8 8

/-- The chain that a completion message of one of its commands is for (R339, R342): the handle of generation 0 at its stop, from a tile whose
completion the chain still waits for. -/
def State.chainOf (s : State) (t : Nat) (m : SendMsg) : Option Nat :=
  match m.src with
  | .tile u => (List.range 8).find? fun k => chainStop k == t && m.handle == handleOf s.dev.device t (k % 2) 0 && m.size == 16 &&
      match (s.chain k).layer with
      | some l => l.groups.any fun g => g.sent.any fun b => b.1 == u
      | none => false
  | _ => none

/-- Accepting an arrival: it is discarded (R168), applied to a counter (R172), or placed (R163). The record of a host's write is
made here (R365). -/
def State.accept (s : State) (t : Nat) (m : SendMsg) : State :=
  let b := hIndex m.handle
  match s.chainOf t m with
  | some c => s.after 0 .combineSlotFill ⟨c, 0, fld m.payload 48 10, fld m.payload 32 8, 0⟩
  | none =>
  match s.refuses t m, (s.tile t).weir.basin b with
  | none, some k =>
    let s0 := s.hostRecord m (match (s.tile t).queueOf b with | some _ => (s.tile t).nextLaunch b | none => 0)
    match m.op with
    | .data => s0.place t b k m
    | .add =>
      let c := k.count.toNat + m.payload
      let s1 := s0.modTile t fun x => x.modWeir fun w =>
        (w.modBasin b fun k => { k with count := BitVec.ofNat 64 (min c (2 ^ 64 - 1)), relScope := m.rel }).look b (s.tc + 1)
      if 2 ^ 64 ≤ c then s1.journal 3 0 t m.handle 0 else s1
    | .arm => s0.modTile t fun x => x.modWeir fun w =>
        (w.modBasin b fun k => { k with threshold := BitVec.ofNat 64 m.payload }).look b (s.tc + 1)
  | some why, _ => s.discard t m why
  | none, none => s.discard t m 1

/-- The acknowledgement, or a Retry, of a send that came through the network (R169). -/
def State.ackSend (s : State) (t : Nat) (m : SendMsg) (retry : Bool) : State :=
  match m.src with
  | .tile n => s.inject t n .ni 1 0 (.sendAck m.handle m.seq retry)
  | .host => s.inject t 0 .host 1 0 (.sendAck m.handle m.seq retry)
  | .lauc _ dev tile => s.injectTo dev t tile .ni 1 0 (.sendAck m.handle m.seq retry)
  | .peerHost _ dev => s.injectTo dev t 0 .host 1 0 (.sendAck m.handle m.seq retry)

/-- Sends held in the resequencing store of an entry are accepted while the next number is there (R169). -/
def State.drainHeld (s : State) (t : Nat) (e : Reseq) : Nat → State × Reseq
  | 0 => (s, e)
  | n + 1 =>
    let e1 : Reseq := { e with next := (e.next + 1) % 32, held := e.held.filter (fun x => x.seq != e.next), gone := e.gone.filter (· != e.next) }
    match e.held.find? fun m => m.seq == e.next with
    | none => if e.gone.contains e.next then s.drainHeld t e1 n else (s, e)
    | some m => State.drainHeld ((s.accept t m).ackSend t m false) t e1 n

/-- The number of the next send of a source to a basin that the weir is to accept: `base` where the weir has accepted none yet (R169, log 14). -/
def Weir.nextOf (w : Weir) (m : SendMsg) : Nat := ((w.nexts.find? fun e => e.1 == m.src && e.2.1 == m.handle).map (·.2.2)).getD m.base
def Weir.setNext (w : Weir) (m : SendMsg) (n : Nat) : Weir :=
  { w with nexts := (m.src, m.handle, n) :: w.nexts.filter fun e => !(e.1 == m.src && e.2.1 == m.handle) }

/-- An arrival from the network is resequenced (R169). -/
def State.resequence (s : State) (t : Nat) (m : SendMsg) : State :=
  let w := (s.tile t).weir
  let same (e : Reseq) : Bool := e.src == m.src && e.basin == m.handle
  match w.reseq.find? same with
  | none =>
    if m.seq = w.nextOf m then ((s.accept t m).ackSend t m false).modTile t fun x => x.modWeir fun w => w.setNext m ((m.seq + 1) % 32)
    else if 16 ≤ w.reseq.length ∨ 64 ≤ (w.reseq.map fun e => e.held.length).sum then s.ackSend t m true
    else s.modTile t fun x => x.modWeir fun w => { w with reseq := w.reseq ++ [⟨m.src, m.handle, w.nextOf m, [m], []⟩] }
  | some e =>
    if m.seq != e.next then
      if 64 ≤ (w.reseq.map fun e => e.held.length).sum then s.ackSend t m true
      else s.modTile t fun x => x.modWeir fun w => { w with reseq := w.reseq.map fun r => if same r then { r with held := r.held ++ [m] } else r }
    else
      let p := ((s.accept t m).ackSend t m false).drainHeld t { e with next := (e.next + 1) % 32 } 64
      p.1.modTile t fun x => x.modWeir fun w =>
        { w.setNext m p.2.next with
          reseq := w.reseq.flatMap fun r => if same r then (if p.2.held.isEmpty && p.2.gone.isEmpty then [] else [p.2]) else [r] }

/-- A send to the paging handle is accepted by the management endpoint at stop 0 (R368): a fault record of 64 B; anything else is no fault record and is
discarded by its size or kind. -/
def State.pageAccept (s : State) (m : SendMsg) : State :=
  (if m.op = .data ∧ m.size = 64 then s.modDev fun d => { d with pfIn := d.pfIn ++ [m] } else s.discard 0 m 2).ackSend 0 m false

/-- Sends to the paging handle keep the order of R169: one that comes early waits at the endpoint, where each source has at most 16 that are not
acknowledged. -/
def State.pageDrain (s : State) (src : Src) : Nat → State
  | 0 => s
  | n + 1 =>
    match s.dev.pfHeld.find? fun m => m.src == src && m.seq == ((s.dev.pfNext.find? fun e => e.1 == src).map (·.2)).getD m.base with
    | none => s
    | some m => State.pageDrain ((s.modDev fun d => { d with
        pfHeld := d.pfHeld.filter (· != m), pfNext := (src, (m.seq + 1) % 32) :: d.pfNext.filter (·.1 != src) }).pageAccept m) src n

/-- A send to the paging handle arrives at the management endpoint of stop 0 (R368). -/
def State.pageArrives (s : State) (m : SendMsg) : State := (s.modDev fun d => { d with pfHeld := d.pfHeld ++ [m] }).pageDrain m.src 16

/-- The endpoint that takes a send: a weir, and for a device's paging handle the management endpoint of its stop 0 (R368). -/
def SendMsg.port (m : SendMsg) : Endpoint := if m.handle = handleOf (BitVec.ofNat 4 (hDev m.handle)) 0 62 0 then .mgmt else .weir

/-- The first arrival wakes a gated tile within 2 µs (R359). -/
def State.rouse (s : State) (t : Nat) : State :=
  if (s.tile t).gated ∧ (s.tile t).waking = 0 then
    let (d, s1) := s.drawDelay
    (s1.modTile t fun x => { x with waking := 1 }).at_ (evenUp (s.nc + d % 2800)) .tileWake ⟨t, 0, 0, 0, 0⟩
  else s

/-- `SEND_ACCEPT` (R168 to R170, R173): the oldest arrival from the network, or from the tile itself, is accepted. -/
def execSendAccept (s : State) : Out :=
  let t := s.focus.a
  if s.focus.b = 0 then
    match (s.tile t).weir.netIn with
    | [] => .next s
    | m :: r => .next (((s.modTile t fun x => x.modWeir fun w => { w with netIn := r }).resequence t m).rouse t)
  else
    match (s.tile t).weir.localIn with
    | [] => .next s
    | (_, m) :: r =>
      let s1 := s.modTile t fun x => x.modWeir fun w =>
        { w with localIn := r, outbound := if m.buffered then w.outbound.eraseP fun o => o.released && { o.m with buffered := true } == m else w.outbound }
      .next ((s1.accept t m).rouse t)

/-! ### Sends going out (R169, R171) -/

def SendMsg.basin (m : SendMsg) : Nat := m.handle.toNat

/-- Whether entry `o`, behind the entries `before`, may be released (R171): its release is satisfied, no earlier send to the basin
waits, and fewer than 16 are unacknowledged. -/
def Tile.outReady (x : Tile) (before : List OutEntry) (o : OutEntry) : Bool :=
  !o.released && before.all (fun p => p.released || p.m.basin != o.m.basin) &&
    (match o.m.rel with | none => true | some sc => x.relReady o.jet o.upTo o.m.relAll sc) &&
    decide ((Tbl.get ⟨0, []⟩ x.weir.wins o.m.basin).unacked.length < 16)

def Tile.releaseIx (x : Tile) : Option Nat :=
  (List.range x.weir.outbound.length).find? fun i =>
    match x.weir.outbound[i]? with
    | some o => x.outReady (x.weir.outbound.take i) o
    | none => false

def Tile.workIx (x : Tile) : Option Nat :=
  (List.range x.workOut.length).find? fun i =>
    match x.workOut[i]? with
    | some o => x.relReady o.jet o.upTo false .device && match o.msg with
      | .track i false _ _ => !x.owesPlus o.dst i
      | _ => true
    | none => false

/-- A handle names no tile where its device is another one for which the host has written no route: R168 does not say how a device is known to
exist, so this is the model's choice (log 17). -/
def State.noSuch (s : State) (m : SendMsg) : Bool :=
  m.via.isNone && hDev m.handle != s.dev.device.toNat && (Tbl.get none s.dev.lroute (hDev m.handle)).isNone

/-- A send leaves tile `t` for another tile's weir, a report of a discard across the port it answers (R168). -/
def State.sendOff (s : State) (t : Nat) (m : SendMsg) : State :=
  match m.via with
  | some p => s.toLauc p (s.packet (hDev m.handle) t (hTile m.handle) m.port (1 + b2n (m.size == 64)) 0 (.send m))
  | none => s.injectTo (hDev m.handle) t (hTile m.handle) m.port (1 + b2n (m.size == 64)) 0 (.send m)

/-- The send of the host interface agent that may leave: no earlier send to its basin waits, and fewer than 16 are unacknowledged (R169). -/
def Dev.hostReady (d : Dev) : Option Nat :=
  (List.range d.agentQ.length).find? fun i =>
    match d.agentQ[i]? with
    | some m => (d.agentQ.take i).all (fun p => p.basin != m.basin) && decide ((Tbl.get ⟨0, []⟩ d.hostWins m.basin).unacked.length < 16)
    | none => false

/-- A send of the agent leaves at stop 0, or is discarded where its handle names no device (R168, R169). -/
def State.hostRelease (s : State) : State :=
  match s.dev.hostReady with
  | none => s
  | some i =>
    match s.dev.agentQ[i]? with
    | none => s
    | some m0 =>
      let s1 := s.modDev fun d => { d with agentQ := d.agentQ.eraseIdx i }
      if s.noSuch m0 then s1.discard 0 m0 3
      else
        let win := Tbl.get ⟨0, []⟩ s.dev.hostWins m0.basin
        let m := { m0 with seq := win.next, base := (win.unacked ++ [win.next]).headD 0 }
        let s2 := s1.modDev fun d => { d with
          hostWins := Tbl.set d.hostWins m0.basin ⟨(win.next + 1) % 32, win.unacked ++ [win.next]⟩
          hostSent := d.hostSent ++ [(m, false)] }
        s2.injectTo (hDev m.handle) 0 (hTile m.handle) m.port (1 + b2n (m.size == 64)) 0 (.send m)

/-- `SEND_RELEASE` (R169, R170, R171, R192): a send leaves the outbound buffer, to the tile's own weir or into the network, or a
tracker's −1 leaves after its jet's accesses. Focus: tile, 0 a send, 1 a work message, 2 a send of the host interface agent. -/
def execSendRelease (s : State) : Out :=
  let t := s.focus.a
  if s.focus.b = 2 then .next s.hostRelease
  else if s.focus.b = 1 then
    match (s.tile t).workIx with
    | none => .next s
    | some i =>
      match (s.tile t).workOut[i]? with
      | none => .next s
      | some o => .next ((s.modTile t fun x => { x with workOut := x.workOut.eraseIdx i }).sendWork t o.dst o.msg)
  else
    match (s.tile t).releaseIx with
    | none => .next s
    | some i =>
      match (s.tile t).weir.outbound[i]? with
      | none => .next s
      | some o =>
        if s.noSuch o.m then
          .next ((s.modTile t fun x => x.modWeir fun w => { w with outbound := w.outbound.eraseIdx i }).discard t o.m 3)
        else if hDev o.m.handle = s.dev.device.toNat ∧ hTile o.m.handle = t ∧ o.m.port = .weir then
          .next (s.modTile t fun x => x.modWeir fun w =>
            { w with outbound := w.outbound.modify i fun o => { o with released := true }, localIn := w.localIn ++ [(s.nc + 6, { o.m with buffered := true })] })
        else
          let win := Tbl.get ⟨0, []⟩ (s.tile t).weir.wins o.m.basin
          let m := { o.m with seq := win.next, base := (win.unacked ++ [win.next]).headD 0 }
          let s1 := s.modTile t fun x => x.modWeir fun w =>
            { w with outbound := w.outbound.modify i fun o => { o with released := true, m := m }
                     wins := Tbl.set w.wins o.m.basin ⟨(win.next + 1) % 32, win.unacked ++ [win.next]⟩ }
          .next (s1.sendOff t m)

/-- `SEND_ACK` (R169, R171): the entry leaves the buffer and its window moves on. -/
def execSendAck (s : State) : Out :=
  let f := s.focus
  let isIt (m : SendMsg) : Bool := m.handle.toNat == f.b && m.seq == f.c
  if f.d = 1 then
    .next (s.modTile f.a fun x => x.modWeir fun w =>
      { w with outbound := w.outbound.map fun o => if o.released && isIt o.m then { o with retry := true } else o })
  else
    .next (s.modTile f.a fun x => x.modWeir fun w =>
      { w with outbound := w.outbound.filter fun o => !(o.released && isIt o.m)
               wins := Tbl.set w.wins f.b (let v := Tbl.get ⟨0, []⟩ w.wins f.b; { v with unacked := v.unacked.filter (· != f.c) }) })

/-- A returned send of the agent goes out again. -/
def State.hostRetry (s : State) : State :=
  match s.dev.hostSent.find? fun e => e.2 with
  | none => s
  | some e =>
    let m := { e.1 with base := (Tbl.get ⟨0, []⟩ s.dev.hostWins e.1.basin).unacked.headD e.1.seq }
    (s.modDev fun d => { d with hostSent := d.hostSent.map fun p => if p = e then (m, false) else p }).injectTo
      (hDev m.handle) 0 (hTile m.handle) m.port (1 + b2n (m.size == 64)) 0 (.send m)

/-- `SEND_RETRY` (R169): the source's network interface resends a send that was returned. Focus: tile, 1 for the host interface agent. -/
def execSendRetry (s : State) : Out :=
  let t := s.focus.a
  if s.focus.b = 1 then .next s.hostRetry
  else
  match (s.tile t).weir.outbound.find? fun o => o.retry with
  | none => .next s
  | some o =>
    let m := { o.m with base := (Tbl.get ⟨0, []⟩ (s.tile t).weir.wins o.m.basin).unacked.headD o.m.seq }
    .next ((s.modTile t fun x => x.modWeir fun w =>
      { w with outbound := w.outbound.map fun p => if p = o then { p with retry := false } else p }).sendOff t m)

/-! ### Spill rings (R164) -/

/-- A refill begins where the ring holds messages and a slot would be granted. -/
def State.startRefill (s : State) (t b : Nat) : State :=
  match (s.tile t).weir.basin b with
  | none => s
  | some k =>
    if k.ring.isEmpty || k.refilling || k.ringStopped || !(s.tile t).granted b k then s
    else
      let a := k.ringBase.toNat + 64 * k.ringHead
      let (d, s1) := (s.asks t a 64).drawDelay
      (s1.modTile t fun x => x.modWeir fun w => w.modBasin b fun k => { k with refilling := true }).after (s.agentCost t a + d)
        .ringRefillReturn ⟨t, b, (s.tile t).weir.gen b, 0, 0⟩

/-- `RING_REFILL_RETURN` (R164): the message joins the tail of the slots, or the read faults and refills stop. -/
def execRingRefillReturn (s : State) : Out :=
  let t := s.focus.a
  let b := s.focus.b
  match (s.tile t).weir.basin b with
  | none => .next s
  | some k =>
    if (s.tile t).weir.gen b != s.focus.c then .next s
    else
      let a := k.ringBase.toNat + 64 * k.ringHead
      match k.ring, s.agentRead t a 64 with
      | m :: r, .ok (v, s) =>
        .next (s.modTile t fun x => x.modWeir fun w =>
          (w.modBasin b fun k => { k with
            slots := k.slots ++ [{ m with payload := v % 2 ^ (8 * k.msize), from_ := s.tc, bad := [] }]
            ring := r, ringHead := (k.ringHead + 1) % 2 ^ k.ringLog, refilling := false }).look b s.tc)
      | _, .error _ =>
        .next ((s.modTile t fun x => x.modWeir fun w => w.modBasin b fun k => { k with refilling := false, ringStopped := true }).report t
          { cause := 20, addr := a, info := 2, handle := handleOf s.dev.device t b ((s.tile t).weir.gen b) } 0)
      | [], .ok _ => .next s

/-! ### Matching and firing (R177 to R180) -/

/-- The husked messages at the head of a message basin are discarded (R177), also of a launch queue that a pattern names, where no completion is
then made: the model's choice (log 17). -/
def State.popHusked (s : State) (t b : Nat) : Nat → State
  | 0 => s
  | n + 1 =>
    match ((s.tile t).weir.basin b).bind fun k => if k.kind = .message then k.slots.head? else none with
    | some m =>
      if s.husked t m.inst ∧ m.from_ ≤ s.tc then
        State.popHusked (s.modTile t fun x => x.modWeir fun w => w.modBasin b fun k => { k with slots := k.slots.tail }) t b n
      else s
    | none => s

/-- The run a gang's member fires into: the one held for its slot, or, where that was given up, the one `FreeRun` finds (R203, log 26). -/
def Tile.runFor (x : Tile) (slot tc n : Nat) : Option Nat :=
  (x.heldSlots.find? fun h => h.1 == slot).bind fun h => if h.2.2 = 0 then x.fits tc n else some h.2.1

/-- A gang holds a run for a slot. -/
def Tile.holdRun (x : Tile) (slot base n : Nat) : Tile :=
  { x with heldSlots := x.heldSlots.map fun h => if h.1 = slot then (slot, base, n) else h }

/-- Whether a pattern is satisfied (R177): a gang's only while its held slot has no jet (R203), and while a run fits where the gang has given up the
one it held (log 26). A blocked basin gives an engine command nothing (R179); a body that names it blocks the basin examined in its turn (R178). -/
def State.satisfied (s : State) (t : Nat) (p : Pattern) : Bool :=
  let x := s.tile t
  p.enable && p.grans != 0 && p.basins.all (fun b => !(p.action && x.weir.blocked.contains b) &&
    match x.weir.basin b with
    | some k =>
      match k.kind with
      | .message => (x.queueOf b).isNone && match k.slots.head? with | some m => decide (m.from_ ≤ s.tc) | none => false
      | .counter => decide (1 ≤ k.threshold.toNat) && decide (k.threshold.toNat ≤ k.count.toNat)
      | .engine => false
    | none => false) &&
    match p.held with
    | some (_, _, slot) => (x.jet slot).status == .free && decide ((x.jet slot).freeAt ≤ s.tc) && (x.runFor slot s.tc p.grans).isSome
    | none => true

/-- What a firing takes from a basin: its payload, its bytes, the slot it keeps, and the message (R158, R180). -/
def Basin.taken (k : Basin) (b : Nat) : (Nat × Nat × Option Nat) × Option Held :=
  match k.kind with
  | .counter => ((k.threshold.toNat + (k.count.toNat - k.threshold.toNat) * 2 ^ 64, 16, none), none)
  | _ => match k.slots.head? with
    | some m => ((m.payload, k.msize, some b), some m)
    | none => ((0, k.msize, none), none)

def Basin.afterFire (k : Basin) : Basin :=
  match k.kind with
  | .counter => { k with count := k.count - k.threshold }
  | _ => { k with slots := k.slots.tail }

/-- Patch descriptors applied to a command image in order (R174, R180). -/
def patchImage (img : Nat) (patch : BitVec 64) (pay : List Nat) : Nat :=
  (List.range 4).foldl (fun img k =>
    let d := fld patch.toNat (16 * k) 16
    if fld d 15 1 = 0 then img
    else
      let v := (pay[fld d 13 2]?).getD 0
      (List.range (fld d 1 4 + 1)).foldl (fun img i =>
        let dst := 32 * (fld d 5 4 + i)
        img - fld img dst 32 * 2 ^ dst + fld v (32 * (fld d 9 4 + i)) 32 * 2 ^ dst) img) img

/-- The scopes of the releases a firing consumes: the L1 lines it invalidates (R216, R267). -/
def Tile.acquire (x : Tile) (ms : List (Option Scope × Bool)) : Tile :=
  if ms.any fun m => m.2 && m.1.isSome then x.l1Flash true
  else if ms.any fun m => match m.1 with | some .tile => false | some _ => true | none => false then x.l1Flash false
  else x

/-- The gang block that follows the pipe payloads of a gang firing (R203). -/
def gangBlock (dev : BitVec 4) (g : Gang) (k : Nat) : Nat :=
  ((List.range 4).map fun i => ((g.pipes.find? fun p => p.1 == i).map fun p => p.2.2.toNat).getD 0 * 2 ^ (32 * i)).sum +
  ((List.range 4).map fun i => ((g.members.find? fun m => m.1 == i).map fun m => (tileidOf dev m.2.1).toNat).getD 0 * 2 ^ (128 + 32 * i)).sum +
  k * 2 ^ 256

/-- `Fire(p)` (R180): one message of each basin is consumed and a body is fired or an engine command sent, in one step. Where the tile's engine basin
has been freed since `pdef`, the spec is silent: the messages are consumed and nothing is sent, the model's choice (log 17). -/
def State.fire (s : State) (t ix : Nat) (p : Pattern) : State :=
  let x := s.tile t
  let took := p.basins.filterMap fun b => (x.weir.basin b).map fun k => (k.taken b, k.kind, k.relScope)
  let pay := took.map fun e => e.1.1
  let inst := if p.inherit || p.action then ((took.head?.bind fun e => e.1.2).map (·.inst)).getD p.inst else p.inst
  let rels := took.map fun e => match e.1.2 with | some m => (m.rel, m.relAll) | none => (e.2.2, false)
  let s1 := s.modTile t fun x => (x.acquire rels).modWeir fun w =>
    let w1 := p.basins.foldl (fun (w : Weir) b => w.modBasin b Basin.afterFire) w
    if p.rotate then p.basins.foldl (fun (w : Weir) b => w.modBasin b fun k => { k with rp := ix }) w1 else w1
  if p.action then
    let img := patchImage p.command.toNat p.patch (pay.map (·.1))
    let eb := (x.liveBasins.find? fun e => e.2.kind == .engine && e.2.engCopy == p.engCopy).map (·.1)
    match eb with
    | some b => s1.sendLocal t (plainMsg t (handleOf s.dev.device t b (x.weir.gen b)) inst 64 img)
    | none => s1
  else
    let (id, s2) := s1.take
    let q : Ready := { id := id, entry := p.entry, level := p.prio, inst := inst, grans := p.grans, role := p.role, arrival := s.tc,
                       waitFrom := s.dev.time, bypass := 0, payloads := pay, task := none, saved := none, badHeader := p.badHeader, bad := took.zipIdx.flatMap fun e => (e.1.1.2.map (·.bad)).getD [] |>.map (8 * e.2 + ·) }
    match p.held with
    | none => s2.modTile t fun x => { x with ready := x.ready ++ [q] }
    | some (g, k, slot) =>
      let blk := ((s.tiles.findSome? fun e => e.2.gangs.find? fun y => y.id == g).map fun y => gangBlock s.dev.device y k).getD 0
      let base := (x.runFor slot s.tc p.grans).getD 0
      ((s2.modTile t fun x => x.holdRun slot base p.grans).reside t slot base { q with payloads := pay ++ [(blk, 64, none)] }).modJet t slot fun j => { j with gang := some (g, k) }

/-- The first of these patterns that names `b` and is satisfied; before each is tested the husked heads of its basins are discarded (R177, R178). -/
def State.chosenFrom (s : State) (t b : Nat) : List Nat → State × Option (Nat × Pattern)
  | [] => (s, none)
  | i :: r =>
    match (s.tile t).weir.pattern i with
    | none => State.chosenFrom s t b r
    | some p =>
      if p.enable && p.basins.contains b then
        let s1 := p.basins.foldl (fun (s : State) c => s.popHusked t c 512) s
        if s1.satisfied t p then (s1, some (i, p)) else State.chosenFrom s1 t b r
      else State.chosenFrom s t b r

/-- The satisfied pattern that a turn of `Examine(b)` comes to, from the rotation's start (R178). -/
def State.chosen (s : State) (t b : Nat) : State × Option (Nat × Pattern) :=
  let w := (s.tile t).weir
  let rot := w.patterns.any fun e => match e.2 with | some p => p.enable && p.rotate && p.basins.contains b | none => false
  let start := if rot then (((w.basin b).map (·.rp)).getD 31 + 1) % 32 else 0
  s.chosenFrom t b ((List.range 32).map fun k => (start + k) % 32)

/-- `BASIN_EXAMINE` (R177 to R180): one turn of `Examine(b)`. The chosen pattern fires, and the basin is examined again in the next tc; a body that
finds the ready queue full blocks the basin. A gang's body whose tile has a jet resident since this tc waits for the next (R88). -/
def execBasinExamine (s : State) : Out :=
  let t := s.focus.a
  let b := s.focus.b
  let drop (w : Weir) : Weir := { w with examine := w.examine.filter fun e => !(e.1 == b && decide (e.2 ≤ s.tc)) }
  let again (w : Weir) : Weir := { drop w with examine := (b, s.tc + 1) :: (drop w).examine }
  match s.chosen t b with
  | (s0, none) => .next (s0.modTile t fun x => x.modWeir drop)
  | (s0, some (ix, p)) =>
    if !p.action && decide (64 ≤ (s0.tile t).ready.length) then
      .next (s0.modTile t fun x => x.modWeir fun w => { drop w with blocked := if w.blocked.contains b then w.blocked else w.blocked ++ [b] })
    else if p.held.isSome && (s0.tile t).took s.tc then .next (s0.modTile t fun x => x.modWeir again)
    else .next ((s0.fire t ix p).modTile t fun x => x.modWeir fun w => { again w with firedAt := s.tc + 1 })

/-- The basin whose examination is due first: blocked basins wait, so does a tile that is gated (R179, R359), and a weir that has fired in this tc
(R173). -/
def Tile.dueExamine (x : Tile) (tc : Nat) : Option Nat :=
  if x.gated || x.inReset || x.weir.firedAt == tc + 1 then none
  else (x.weir.examine.find? fun e => decide (e.2 ≤ tc) && !x.weir.blocked.contains e.1).map (·.1)

end Sys2Proof.Machine
end

