-- ==== Sys2Proof/Machine/WeirInstr.lean ====
section
/-!
DEFINITION. The instructions of group A: defining and freeing basins and patterns, sends, and `bstat` (R159 to R161, R166, R172,
R174 to R176, R181).
-/

namespace Sys2Proof.Machine

/-- A status D of variable latency; A names the first of `n` slices, or its own where `n` is 0. -/
def footRun (d a : SliceOp) (n : Nat) (more : List (Nat × Nat)) : Foot :=
  let r := (if n = 0 then a.range else SliceOp.run a n) ++ more
  { src := r, rd := r, dst := d.range }

/-! ### Basins -/

/-- Whether a basin record keeps its reserved fields and the constraints of R159. -/
def basinRecOk (r : Nat) : Bool :=
  let kind := fld r 0 2
  let msize := fld r 4 2
  fld r 32 32 == 0 && fld r 12 5 == 0 && fld r 3 1 == 0 && kind != 3 && msize != 3 && fld r 64 6 == 0 && decide (fld r 22 10 ≤ 512) &&
    (kind == 2 || fld r 2 1 == 0) && (kind != 1 || (msize == 0 && decide (fld r 22 10 ≤ 1) && fld r 17 1 == 0)) && (kind != 2 || msize == 2)

def Tile.reserves (x : Tile) : Nat := (x.liveBasins.map (·.2.reserve)).sum
def Tile.engineBasin (x : Tile) (copy : Bool) : Option Nat :=
  (x.liveBasins.find? fun e => e.2.kind == .engine && e.2.engCopy == copy).map (·.1)

def basinOfRec (r : Nat) : Basin :=
  { Basin.plain (fld r 22 10) with
    kind := match fld r 0 2 with | 0 => .message | 1 => .counter | _ => .engine
    msize := 16 * 2 ^ fld r 4 2, ringEn := fld r 17 1 == 1, ringLog := fld r 18 4
    ringBase := BitVec.ofNat 64 (fld r 64 64), engCopy := fld r 2 1 == 1 }

/-- The code of R160 that a definition fails with, in the order 4, 6, 1, 2, 5, 3, or the index it defines. -/
def Tile.basinIndex (x : Tile) (r : Nat) : Except Nat Nat :=
  let ix := fld r 6 6
  let low := (List.range 62).find? fun i => (x.weir.basin i).isNone
  if !basinRecOk r then .error 4
  else if ix = 62 then .error 6
  else if ix != 63 && (x.weir.basin ix).isSome then .error 1
  else if ix = 63 ∧ low = none then .error 2
  else if fld r 0 2 = 2 ∧ (x.engineBasin (fld r 2 1 == 1)).isSome then .error 5
  else if 448 < x.reserves + fld r 22 10 then .error 3
  else .ok (if ix = 63 then low.getD 0 else ix)

/-- `bdef` (R160). -/
def execBdef (h : Hdr) (o : R2) (s : State) : Out :=
  s.guarded (footRun o.d o.a 32 []) fun s =>
    let r := SliceOp.getRun o.a s.cur.frame 32
    match s.here.basinIndex r with
    | .error c => (s.oweStatus 4 o.d c).advance h 16
    | .ok ix =>
      let hd := handleOf s.dev.device s.curTile ix (s.here.weir.gen ix)
      ((s.modHere fun x => x.modWeir fun w => w.setBasin ix (some (basinOfRec r))).oweStatus 4 o.d hd.toNat).advance h 16

/-- Freeing a live basin (R155, R161): what it holds is discarded, acknowledged and journaled,
and the generation advances. -/
def State.freeBasin (s : State) (t ix : Nat) : State :=
  let x := s.tile t
  let hd := handleOf s.dev.device t ix (x.weir.gen ix)
  let n := (match x.weir.basin ix with | some k => k.slots.length + k.ring.length | none => 0) +
    (x.weir.reseq.map fun e => if e.basin == hd then e.held.length else 0).sum
  let held := (x.weir.reseq.filter fun e => e.basin == hd).flatMap (·.held)
  ((held.foldl (fun (s : State) m => s.ackSend t m false) s).modTile t fun x => { x.modWeir fun w =>
      { w with gens := Tbl.set w.gens ix (w.gen ix % 4095 + 1)
               basins := Tbl.set w.basins ix none
               examine := w.examine.filter fun e => e.1 != ix
               blocked := w.blocked.filter (· != ix)
               reseq := w.reseq.map fun e => if e.basin = hd then { e with held := [], gone := e.gone ++ e.held.map (·.seq) } else e } with
    ready := x.ready.map fun q => { q with payloads := q.payloads.map fun p => if p.2.2 = some ix then (p.1, p.2.1, some 64) else p } }).journal
    2 2 t hd n

/-- `bfree` (R161). Where several of its codes apply, the lowest is written (DESIGN CHOICE, log 17: the rule gives no order). -/
def execBfree (h : Hdr) (o : R2) (s : State) : Out :=
  s.guarded (footRun o.d o.a 0 []) fun s =>
    let hd := BitVec.ofNat 32 (o.a.get s.cur.frame)
    let t := s.curTile
    let ix := hIndex hd
    let named := s.here.weir.patterns.any fun e => match e.2 with | some p => p.basins.contains ix | none => false
    let st := if hDev hd != s.dev.device.toNat || hTile hd != t then 1 else if !s.live t hd then 2
      else if ix = 62 ∨ ix = 63 then 3 else if named then 4 else 0
    ((if st = 0 then s.freeBasin t ix else s).oweStatus 4 o.d st).advance h 8

/-! ### Patterns -/

def patBasins (r : Nat) : List Nat := (List.range (fld r 70 2 + 1)).map fun k => fld r (72 + 6 * k) 6

/-- Whether a pattern record keeps its form and B agrees with its action (R174, R175). -/
def patRecOk (r : Nat) (hasImg : Bool) : Bool :=
  let act := fld r 66 1 == 1
  fld r 96 16 == 0 && fld r 9 56 == 0 && (act || fld r 65 1 == 0) && (act == hasImg) &&
    ((List.range 4).all fun k => (decide (k ≤ fld r 70 2) || fld r (72 + 6 * k) 6 == 0) && fld r (128 + 16 * k) 1 == 0) &&
    (decide (fld r 0 6 < 32) || fld r 0 6 == 63)

/-- Whether every applied patch keeps its limits (R175 status 5). -/
def Tile.patchesOk (x : Tile) (r : Nat) : Bool :=
  (List.range 4).all fun k =>
    let d := fld r (128 + 16 * k) 16
    fld d 15 1 == 0 ||
      (decide (fld d 13 2 ≤ fld r 70 2) && decide (fld d 5 4 + fld d 1 4 + 1 ≤ 16) &&
        match (patBasins r)[fld d 13 2]?.bind x.weir.basin with
        | some k => decide (fld d 9 4 + fld d 1 4 + 1 ≤ (if k.kind == .counter then 4 else k.msize / 4))
        | none => false)

/-- The pattern a record defines, its frame size and role cached from the body header (R174, R175). -/
def patOfRec (r img : Nat) (hdr : Option Nat) : Pattern :=
  { entry := BitVec.ofNat 64 (fld r 192 64), patch := BitVec.ofNat 64 (fld r 128 64), inst := BitVec.ofNat 16 (fld r 112 16),
    basins := patBasins r, inherit := fld r 69 1 == 1, rotate := fld r 68 1 == 1, enable := fld r 67 1 == 1, action := fld r 66 1 == 1,
    engCopy := fld r 65 1 == 1, prio := BitVec.ofNat 3 (fld r 6 3), grans := (hdr.map hdrGrans).getD 1, role := (hdr.map hdrRole).getD 0,
    badHeader := (hdr.map hdrBad).getD false, command := BitVec.ofNat 512 img, held := none, by_ := 0 }

/-- The checks of `pdef` that need no body header, in the order 7, 1, 2, 3, 4, 5, 6: a status, or the index it defines (R175). -/
def Tile.pdefCheck (x : Tile) (r : Nat) (hasImg : Bool) : Except Nat Nat :=
  let bs := patBasins r
  let low := (List.range 32).find? fun i => (x.weir.pattern i).isNone
  let ix := if fld r 0 6 = 63 then low.getD 0 else fld r 0 6
  if !patRecOk r hasImg then .error 7
  else if fld r 0 6 = 63 ∧ low = none then .error 1
  else if fld r 0 6 != 63 && (x.weir.pattern ix).isSome then .error 2
  else if bs.any fun b => (x.weir.basin b).isNone then .error 3
  else if !bs.Nodup || bs.any fun b => match x.weir.basin b with | some k => k.kind == .engine | none => false then .error 4
  else if !x.patchesOk r then .error 5
  else if fld r 66 1 == 1 && (x.engineBasin (fld r 65 1 == 1)).isNone then .error 6
  else .ok ix

/-- Each basin of an enabled pattern is examined, b0 first (R175, R178). -/
def State.lookAll (s : State) (t : Nat) (p : Pattern) : State :=
  if p.enable then s.modTile t fun x => x.modWeir fun w => p.basins.foldl (fun (w : Weir) b => w.look b (s.tc + 1)) w else s

/-- `pdef` (R175): the record, and with action 1 the image, are read now, and the entry of the table is taken now. A pattern of action 0
matches once its body header has been read (R387): until then its `grans` is 0. Where it fails bits [8:4] of D are 0 (DESIGN CHOICE, log 17). -/
def execPdef (h : Hdr) (o : R3) (s : State) : Out :=
  s.guarded (footRun o.d o.a 64 (SliceOp.run o.b 128)) fun s =>
    let r := SliceOp.getRun o.a s.cur.frame 64
    let p := patOfRec r (SliceOp.getRun o.b s.cur.frame 128) none
    match s.here.pdefCheck r (!o.b.isNz) with
    | .error st => (s.oweStatus 4 o.d st).advance h 16
    | .ok ix =>
      let place (s : State) (p : Pattern) : State := s.modHere fun x => x.modWeir fun w => w.setPattern ix (some p)
      if p.action then (((place s p).lookAll s.curTile p).oweStatus 4 o.d (16 * ix)).advance h 16
      else
        let w := (place s { p with grans := 0, by_ := s.nextId }).oweLater o.d
        (w.2.after (max 4 (s.headerCost s.curTile p.entry.toNat)) .statusResultWrite ⟨s.curTile, s.curSlot, w.1, 1, ix + 32 * p.entry.toNat⟩).advance h 16

/-- The body header of the `pdef` that owes result `id` has been read, or cannot be: status 8, and the entry of the table is free again (R175, R387).
A pattern that has been put in its place since is not touched. -/
def State.pdefDone (s0 : State) (t ix entry id : Nat) : Nat × State :=
  let s := s0.headerRead t entry
  let mine := ((s.tile t).weir.pattern ix).filter fun p => p.grans == 0 && p.by_ == id
  match s0.header t entry, mine with
  | none, none => (8, s)
  | none, some _ => (8, s.modTile t fun x => x.modWeir fun w => w.setPattern ix none)
  | some _, none => (16 * ix, s)
  | some hd, some p =>
    let q := { p with grans := hdrGrans hd, role := hdrRole hd, badHeader := hdrBad hd }
    (16 * ix, (s.modTile t fun x => x.modWeir fun w => w.setPattern ix (some q)).lookAll t q)

/-- Status 0, or 1 where no pattern stands at the index (R176). -/
def State.patternOp (s : State) (h : Hdr) (d : SliceOp) (ix : BitVec 5) (f : Pattern → Option Pattern) (look : Bool) : Out :=
  s.guarded { dst := d.range } fun s =>
    match s.here.weir.pattern ix.toNat with
    | none => (s.oweStatus 4 d 1).advance h 8
    | some p =>
      ((s.modHere fun x => x.modWeir fun w =>
        let w1 := w.setPattern ix.toNat (f p)
        if look then p.basins.foldl (fun (w : Weir) b => w.look b (s.tc + 1)) w1 else w1).oweStatus 4 d 0).advance h 8

/-- `pdel` (R176). -/
def execPdel (h : Hdr) (d : SliceOp) (ix : BitVec 5) (s : State) : Out := s.patternOp h d ix (fun _ => none) false
/-- `pen` (R176, R178). -/
def execPen (h : Hdr) (d : SliceOp) (ix : BitVec 5) (s : State) : Out := s.patternOp h d ix (fun p => some { p with enable := true }) true
/-- `pdis` (R176). -/
def execPdis (h : Hdr) (d : SliceOp) (ix : BitVec 5) (s : State) : Out := s.patternOp h d ix (fun p => some { p with enable := false }) false

/-! ### Sends -/

/-- The send the issuing jet makes (R166, R167). -/
def State.jetSend (s : State) (hd : Nat) (op : SendOp) (size payload : Nat) (rel : Option Scope) (all : Bool) : State :=
  s.post s.curTile s.cur.key
    { plainMsg s.curTile (BitVec.ofNat 32 hd) s.cur.inst size payload with op := op, rel := rel, relAll := all }

def sendFoot (o : R2) (n : Nat) : Foot :=
  let r := o.d.range ++ (if n = 0 then o.a.range else SliceOp.run o.a n)
  { src := r, rd := r }

/-- Bytes of a message size field (R166). -/
def msgBytes (size : BitVec 2) : Nat := 16 * 2 ^ size.toNat

def State.sendOut (s : State) (h : Hdr) (o : R2) (size : BitVec 2) (rel : Option Scope) (all : Bool) : Out :=
  s.guarded (sendFoot o (2 * msgBytes size)) fun s =>
    (s.jetSend (o.d.get s.cur.frame) .data (msgBytes size) (SliceOp.getRun o.a s.cur.frame (2 * msgBytes size)) rel all).advance h 16

/-- `send` (R166). -/
def execSend (h : Hdr) (o : R2) (size : BitVec 2) (s : State) : Out := s.sendOut h o size none false
/-- `send.rel` (R166, R171). -/
def execSendRel (h : Hdr) (o : R2) (size : BitVec 2) (sc : Scope) (s : State) : Out := s.sendOut h o size (some sc) false
/-- `send.rel.all` (R166, R171). -/
def execSendRelAll (h : Hdr) (o : R2) (size : BitVec 2) (sc : Scope) (s : State) : Out := s.sendOut h o size (some sc) true

/-- `sendc` (R166, R172): a release at device scope, or at system scope to another device. -/
def execSendc (h : Hdr) (o : R2) (s : State) : Out :=
  s.guarded (sendFoot o 0) fun s =>
    let hd := o.d.get s.cur.frame
    let sc : Scope := if hDev (BitVec.ofNat 32 hd) = s.dev.device.toNat then .device else .system
    (s.jetSend hd .add 16 (o.a.get s.cur.frame) (some sc) false).advance h 16

/-- `arm` (R166, R172). -/
def execArm (h : Hdr) (o : R2) (s : State) : Out :=
  s.guarded (sendFoot o 0) fun s => (s.jetSend (o.d.get s.cur.frame) .arm 16 (o.a.get s.cur.frame) none false).advance h 16

/-- The value `bstat` reads (R181). -/
def State.basinStat (s : State) (t : Nat) (hd : BitVec 32) : Nat :=
  if !s.live t hd then 2 ^ 64 - 1
  else
    match (s.tile t).weir.basin (hIndex hd) with
    | none => 2 ^ 64 - 1
    | some k =>
      match k.kind with
      | .counter => k.count.toNat
      | _ => k.slots.length * 2 ^ 48 + k.ring.length * 2 ^ 32 + k.reserve * 2 ^ 22 + min 63 k.overflowed * 2 ^ 16

/-- `bstat` (R181): its value comes in the fourth tc after issue; what the weir has accepted by then, in that tc too, counts (R172). -/
def execBstat (h : Hdr) (o : R2) (s : State) : Out :=
  s.guarded (footRun o.d o.a 0 []) fun s =>
    let p := s.oweLater o.d
    (p.2.modTile s.curTile fun x => x.modWeir fun w =>
      { w with asks := w.asks ++ [(s.tc + 4, s.curSlot, p.1, BitVec.ofNat 32 (o.a.get s.cur.frame))] }).advance h 8

end Sys2Proof.Machine
end

