-- ==== Sys2Proof/Machine/Work.lean ====
section
/-!
DEFINITION. Range tasks, stealing, trackers, launch queues, husks, gangs and the time-triggered table (R182 to R206), and the
instructions of group B.
-/

namespace Sys2Proof.Machine

/-! ### The deque (R183, R184) -/

/-- The spill area: base and count; count 0 unless it lies wholly in scratch ways (R184). -/
def Tile.spillArea (x : Tile) : Nat × Nat :=
  let b := fld x.dqspill.toNat 5 15 * 32
  let n := fld x.dqspill.toNat 20 12
  (b, if x.scratch b (32 * n) then n else 0)

/-- The pool address of the spilled entry `i`, the oldest being 0. -/
def Tile.spillAddr (x : Tile) (i : Nat) : Nat := x.spillArea.1 + 32 * ((x.spillHead + i) % max 1 x.spillArea.2)

/-- A write of `dqspill` that waited takes effect once the area is empty (R184). -/
def Tile.applyDqspill (x : Tile) : Tile :=
  match x.dqspillNext with
  | some v => if x.spilledTasks.isEmpty then { x with dqspill := v, dqspillNext := none, spillHead := 0 } else x
  | none => x

/-- A push at the bottom; with 32 entries in the tile the oldest first moves to the newest end of the spill area. None: both
are full. -/
def Tile.push (x : Tile) (e : DqEntry) : Option Tile :=
  if x.deque.length < 32 then some { x with deque := x.deque ++ [e] }
  else if x.spilledTasks.length < x.spillArea.2 then
    match x.deque with
    | [] => none
    | o :: r =>
      some { x with
        pool := x.pool.writeN (x.spillAddr x.spilledTasks.length) 32 o.task.image
        spilledTasks := x.spilledTasks ++ [(o.id, o.takable)]
        deque := r ++ [e] }
  else none

/-- Whether a push finds room. -/
def Tile.canPush (x : Tile) : Bool := decide (x.deque.length < 32) || decide (x.spilledTasks.length < x.spillArea.2)

def Tile.spilledTask (x : Tile) (i : Nat) : Task := Task.ofImage (x.poolRead (x.spillAddr i) 32)

/-- The task the owner takes: the newest that may be taken; its place, spilled or not, and the deque without it (R183, R185). In the tile an entry that
may not be taken yet is passed over, and a spilled one blocks what lies behind it: the model's choice, here and for a thief (log 27). -/
def Tile.ownerTake (x : Tile) : Option (Task × Tile) :=
  match x.deque.reverse.find? (·.takable) with
  | some e => some (e.task, { x with deque := x.deque.filter fun d => d.id != e.id })
  | none =>
    if !x.deque.isEmpty then none
    else
      match x.spilledTasks.getLast? with
      | some (_, true) => some (x.spilledTask (x.spilledTasks.length - 1), { x with spilledTasks := x.spilledTasks.dropLast }.applyDqspill)
      | _ => none

/-- The top task a thief meets, the oldest: spilled ones first (log 27). -/
def Tile.topTask (x : Tile) : Option (Task × Bool) :=
  match x.spilledTasks with
  | (_, true) :: _ => some (x.spilledTask 0, true)
  | _ :: _ => none
  | [] => (x.deque.find? (·.takable)).map fun e => (e.task, false)

/-- The deque without its top task. -/
def Tile.dropTop (x : Tile) (spilled : Bool) : Tile :=
  if spilled then
    { x with spilledTasks := x.spilledTasks.tail, spillHead := (x.spillHead + 1) % max 1 x.spillArea.2 }.applyDqspill
  else
    match x.deque.find? (·.takable) with
    | some e => { x with deque := x.deque.filter fun d => d.id != e.id }
    | none => x

/-- The top task keeps its place with a new end. -/
def Tile.shrinkTop (x : Tile) (spilled : Bool) (k : Task) : Tile :=
  if spilled then { x with pool := x.pool.writeN (x.spillAddr 0) 32 k.image }
  else
    match x.deque.find? (·.takable) with
    | some e => { x with deque := x.deque.map fun d => if d.id = e.id then { d with task := k } else d }
    | none => x

/-- The record of a task that is taken, at the task's level (R183). -/
def Task.record (k : Task) (id tc now : Nat) : Ready :=
  { id := id, entry := k.entry, level := k.prio, inst := k.inst, grans := k.frame.toNat + 1, role := k.role, arrival := tc, waitFrom := now,
    bypass := 0, payloads := [], task := some k, saved := none, badHeader := false, bad := [] }

/-- Whether the owner can take a task now: no record becomes resident in this tc, a slot is free and the run fits (R183, R86). -/
def State.canTake (s : State) (t : Nat) : Bool :=
  let x := s.tile t
  !x.inReset && !x.gated && (x.freeSlot s.tc).isSome && decide (x.ready.length < 64) &&
    match x.ownerTake with
    | some (k, _) => s.husked t k.inst || (x.fits s.tc (k.frame.toNat + 1)).isSome
    | none => false

/-- `DEQUE_TAKE` (R183, R195): the task becomes resident at once, or is discarded where its instance is husked. -/
def execDequeTake (s : State) : Out :=
  let t := s.focus.a
  let x := s.tile t
  match x.ownerTake, x.freeSlot s.tc with
  | some (k, y), some slot =>
    if s.husked t k.inst then .next ((s.setTile t y).taskEnds t k)
    else
      match x.fits s.tc (k.frame.toNat + 1) with
      | some b =>
        let (id, s1) := (s.setTile t y).take
        .next (s1.reside t slot b (k.record id s.tc s.dev.time))
      | none => .next s
  | _, _ => .next s

/-! ### fork (R185) -/

/-- The record `fork` builds before its header is read. -/
def Jet.forkTask (j : Jet) (target lo hi grain : Nat) : Task :=
  { done := 0, entry := BitVec.ofNat 64 target, tindex := j.range.tindex, ttile := j.range.ttile, tracked := j.range.has && j.range.tracked,
    barrier := false, frame := 0, role := 0, prio := j.level, inst := j.inst, grain := BitVec.ofNat 24 grain, hi := BitVec.ofNat 48 hi,
    lo := BitVec.ofNat 48 lo }

/-- `fork`: statuses 2, 3 and 4 of a target that is no entry are known at issue; the rest when the body header has been read. -/
def execFork (h : Hdr) (o : R4) (ctl : BitVec 16) (imm : BitVec 32) (s : State) : Out :=
  s.guarded { src := o.a.range ++ o.b.range ++ o.c.range, rd := o.a.range ++ o.b.range ++ o.c.range, dst := o.d.range } fun s =>
    let f := s.cur.frame
    let g := if o.c.isNz then ctl.toNat else o.c.get f
    let lo := o.a.get f
    let hi := o.b.get f
    let target := trunc ((s.cur.pc.toNat : Int) + sext imm.toNat 32) 64
    let st := if g = 0 ∨ 2 ^ 24 ≤ g then 2 else if hi < lo then 3 else if target % 32 != 0 ∨ 2 ^ 57 ≤ target then 4 else 0
    if st != 0 then (s.oweStatus 4 o.d st).advance h 16
    else
      let p := s.oweLater o.d
      let k := s.cur.forkTask target lo hi g
      let img := k.image
      let s1 := if k.tracked then p.2.modHere fun x => { x with increments := x.increments ++ [(k.ttile.toNat, k.tindex.toNat, p.1)] } else p.2
      (s1.after (max 4 (s.headerCost s.curTile target)) .statusResultWrite ⟨s.curTile, s.curSlot, p.1, 2, img⟩).advance h 16

/-- A +1 that the tile owed is made good, or will not be: the entry leaves, or goes on under the piece it was sent for (R192). -/
def Tile.plusFor (x : Tile) (id : Nat) (new : Option Nat) : Tile :=
  { x with increments := x.increments.filterMap fun e => if e.2.2 = id then new.map fun n => (e.1, e.2.1, n) else some e }

/-- The `fork` that owes result `f` completes: the record is pushed, and a tracked one asks its tracker for one piece more (R183, R185, R192). -/
def State.forkDone (s0 : State) (t f img : Nat) : Nat × State :=
  let k := Task.ofImage img
  let hd0 := s0.header t k.entry.toNat
  let s0 := s0.headerRead t k.entry.toNat
  let s := s0.modTile t fun x => x.plusFor f none
  match hd0 with
  | none => (4, s)
  | some hd =>
    if hdrBad hd then (4, s)
    else
      let k := { k with frame := BitVec.ofNat 7 (fld hd 0 7), role := hdrRole hd }
      let (id, s1) := s0.take
      match (s1.tile t).push ⟨id, k, !k.tracked⟩ with
      | none => (1, s)
      | some x =>
        let s2 := s1.setTile t (x.plusFor f (some id))
        (0, if k.tracked then s2.sendWork t k.ttile.toNat (.track k.tindex.toNat true t (some id)) else s2)

/-! ### rnext (R186, R187) -/

/-- `rnext`: the live-range unit applies the claim in the next tc. -/
def execRnext (h : Hdr) (o : R2) (s : State) : Out :=
  s.guarded { dst := o.d.range ++ o.a.range } fun s =>
    let p := s.oweVar (o.d.range ++ o.a.range) [] [] [] false
    (p.2.after 1 .statusResultWrite ⟨s.curTile, s.curSlot, p.1, 3, b2n o.d.isNz⟩).advance h 8

/-- The claim of R186: its ends, and the range it leaves. -/
def LiveRange.claim (r : LiveRange) : Nat × Nat × LiveRange :=
  if r.lo.toNat < r.hi.toNat then
    let e := min (r.lo.toNat + r.grain.toNat) r.hi.toNat
    (r.lo.toNat, e, { r with lo := BitVec.ofNat 48 e })
  else (r.hi.toNat, r.hi.toNat, r)

/-- The claim is applied in the live-range unit and written in the tc after (R186). -/
def State.rnextClaim (s : State) (t slot id : Nat) (noD : Bool) : State :=
  let c := (s.jet t slot).range.claim
  (s.modJet t slot fun j => { j with range := c.2.2 }).settle t slot id 1 (if noD then c.2.1 else c.1 + c.2.1 * 2 ^ 48)

/-! ### Thirst and stealing (R188 to R190) -/

/-- The tiles of a steal domain: 0 the pond, 1 the rest of the die, 2 the other dies (R188). -/
def domainTiles (t d : Nat) : List Nat :=
  (List.range Config.tiles).filter fun v =>
    match d with
    | 0 => pondOf v == pondOf t && v != t
    | 1 => dieOf v == dieOf t && pondOf v != pondOf t
    | _ => dieOf v != dieOf t

def Tile.domainOn (x : Tile) (d : Nat) : Bool := x.stealctl.getLsbD d
def Tile.probes (x : Tile) (d : Nat) : Nat := if d = 0 then 15 else fld x.stealctl.toNat 16 8

/-- The next victim in a domain after the last one, wrapping (R189). -/
def Tile.nextVictim (x : Tile) (t d : Nat) : Nat :=
  let l := domainTiles t d
  let last := (Tbl.get none x.lastVictim d).getD t
  ((l.find? fun v => decide (last < v)).orElse fun _ => l.head?).getD t

/-- Whether a tile is thirsty, but for a message it has outstanding (R189). -/
def Tile.thirsty (x : Tile) (tc : Nat) : Bool :=
  x.ready.isEmpty && x.deque.isEmpty && x.spilledTasks.isEmpty && (x.freeSlot tc).isSome && !x.inReset && !x.gated

/-- The next visit of a round from domain `d` with `n` visits made there: the enabled domains in order (R189). -/
def Tile.nextVisit (x : Tile) (d n : Nat) : Option (Nat × Nat) :=
  if d ≤ 2 ∧ x.domainOn d ∧ n < x.probes d then some (d, n)
  else ((List.range 3).find? fun e => decide (d < e) && x.domainOn e && decide (0 < x.probes e)).map fun e => (e, 0)

/-- Whether `THIRST_ROUND` has a visit to make or a round to end. -/
def Tile.canThirst (x : Tile) (tc : Nat) : Bool :=
  x.thirsty tc && x.backoff.isNone && match x.thirst with | some h => !h.waiting | none => true

/-- `THIRST_ROUND` (R189): the next visit of the round, or its end after every visit was refused: the tile then waits `backoff` tc. -/
def execThirstRound (s : State) : Out :=
  let t := s.focus.a
  let x := s.tile t
  let at_ := match x.thirst with | some h => (h.domain, h.sent) | none => (0, 0)
  match x.nextVisit at_.1 at_.2 with
  | some (d, n) =>
    let v := x.nextVictim t d
    .next ((s.modTile t fun x => { x with thirst := some ⟨d, n + 1, true⟩, lastVictim := Tbl.set x.lastVictim d (some v) }).sendWork t v (.thirst t))
  | none =>
    let due := s.nc + 2 * fld x.stealctl.toNat 4 12
    .next ((s.modTile t fun x => { x with thirst := none, backoff := some due, refused := true }).at_ due .thirstBackoffExpiry ⟨t, due, 0, 0, 0⟩)

/-- `THIRST_BACKOFF_EXPIRY` (R189): a new round may start; a tile that has stayed thirsty through the backoff may now gate (R359): `refused` falls in
the tc in which it is thirsty no more. -/
def execThirstBackoffExpiry (s : State) : Out :=
  let t := s.focus.a
  if (s.tile t).backoff = some s.focus.b then
    .next (s.modTile t fun x => { x with backoff := none, refused := x.refused && x.thirsty s.tc })
  else .next s

def Task.n (k : Task) : Nat := if k.grain.toNat = 0 then 0 else (k.hi.toNat - k.lo.toNat) / k.grain.toNat
def LiveRange.n (r : LiveRange) : Nat := if r.has && r.grain.toNat != 0 then (r.hi.toNat - r.lo.toNat) / r.grain.toNat else 0

/-- The middle at which a range splits (R190). -/
def splitAt (lo hi g : Nat) : Nat := lo + (hi - lo) / (2 * g) * g

/-- An answer with a piece: a new piece of a tracked task first asks its tracker (R190, R192). -/
def State.givePiece (s : State) (t thief : Nat) (k : Task) (new : Bool) : State :=
  if k.tracked && new then
    let (id, s1) := s.take
    (s1.modTile t fun x => { x with
      pieces := x.pieces ++ [⟨id, k, thief⟩], increments := x.increments ++ [(k.ttile.toNat, k.tindex.toNat, id)] }).sendWork t k.ttile.toNat (.track k.tindex.toNat true t (some id))
  else s.sendWork t thief (.answer (some k))

/-- The husked tasks at the top of the deque are discarded (R190, R195). -/
def State.dropHusked (s : State) (t : Nat) : Nat → State
  | 0 => s
  | n + 1 =>
    match (s.tile t).topTask with
    | some (k, sp) => if s.husked t k.inst then State.dropHusked ((s.modTile t fun x => x.dropTop sp).taskEnds t k) t n else s
    | none => s

/-- The running jet whose range a thief may split: not husked, the most grains left, the lowest slot (R190). -/
def State.splitJet (s : State) (t : Nat) : Option (Nat × Jet) :=
  ((s.tile t).jets.filter fun e => e.2.status == .running && !s.husked t e.2.inst &&
    match e.2.casc with | .follower _ _ _ => false | _ => true).foldl
    (fun b e => match b with
      | none => some e
      | some c => if c.2.range.n < e.2.range.n then some e else some c) none

/-- A victim's answer (R190): half of its top task or the whole of it, half of a jet's range, or a refusal. A gated tile, or one in
reset, refuses (R189), and so does a tile whose deque hands out nothing because its ready queue is full (R86). -/
def State.victim (s : State) (t thief : Nat) : State :=
  if (s.tile t).gated || (s.tile t).inReset || (decide (64 ≤ (s.tile t).ready.length) && (s.tile t).topTask.isSome) then
    s.sendWork t thief (.answer none)
  else
    let s1 := s.dropHusked t 5000
    match (s1.tile t).topTask with
    | some (k, sp) =>
      if 2 ≤ k.n then
        let mid := splitAt k.lo.toNat k.hi.toNat k.grain.toNat
        (s1.modTile t fun x => x.shrinkTop sp { k with hi := BitVec.ofNat 48 mid }).givePiece t thief { k with lo := BitVec.ofNat 48 mid } true
      else (s1.modTile t fun x => x.dropTop sp).givePiece t thief k false
    | none =>
      match s1.splitJet t with
      | some (slot, j) =>
        if 2 ≤ j.range.n then
          let mid := splitAt j.range.lo.toNat j.range.hi.toNat j.range.grain.toNat
          let k : Task := { done := 0, entry := j.entry, tindex := j.range.tindex, ttile := j.range.ttile, tracked := j.range.tracked,
                            barrier := false, frame := BitVec.ofNat 7 (j.grans - 1), role := j.role, prio := j.level, inst := j.inst,
                            grain := j.range.grain, hi := j.range.hi, lo := BitVec.ofNat 48 mid }
          (s1.modJet t slot fun j => { j with range := { j.range with hi := BitVec.ofNat 48 mid } }).givePiece t thief k true
        else s1.sendWork t thief (.answer none)
      | none => s1.sendWork t thief (.answer none)

/-! ### Trackers (R191, R192) -/

/-- What is done when a launch record is over (R192, R193): the journal's completion record, the done signal, and the report of a
time-triggered launch (R206). -/
def State.complete (s : State) (t seq : Nat) (queue done : BitVec 32) (inst : BitVec 16) (outcome : Nat) (tt : Option Nat) : State :=
  let s1 := s.journal 1 outcome t (BitVec.ofNat 32 seq) queue.toNat
  let s2 := if done = 0 then s1
    else s1.post t 0 { plainMsg t done inst 16 (seq % 2 ^ 32 + inst.toNat * 2 ^ 32 + outcome * 2 ^ 48) with rel := some .device }
  match tt with
  | some e => s2.at_ (evenUp (s.nc + wayCost t 0)) .ttCompletionReport ⟨e, inst.toNat, outcome, 0, 0⟩
  | none => s2

/-- A tracker's count changes; at zero the launch is complete and the tracker free (R192). -/
def State.trackerAdd (s : State) (t ix : Nat) (inc : Bool) : State :=
  match (s.tile t).tracker ix with
  | none => s
  | some k =>
    let n := if inc then k.count + 1 else k.count - 1
    if n != 0 then s.modTile t fun x => x.setTracker ix (some { k with count := n })
    else (s.modTile t fun x => { x.setTracker ix none with
        lqOpen := x.lqOpen.filter fun e => e != (hIndex k.queue, k.seq) }).complete t k.seq k.queue k.done k.inst
      0 k.tt

/-- The oldest work message of a kind that is here. -/
def Tile.workHead (x : Tile) (nc : Nat) (is : WorkMsg → Bool) : Option (Nat × WorkMsg) := x.workIn.find? fun w => decide (w.1 ≤ nc) && is w.2

def WorkMsg.isThirst : WorkMsg → Bool | .thirst _ => true | _ => false
def WorkMsg.isAnswer : WorkMsg → Bool | .answer _ => true | _ => false
def WorkMsg.isTrack : WorkMsg → Bool | .track _ _ _ _ => true | _ => false
def WorkMsg.isAck : WorkMsg → Bool | .trackAck _ => true | _ => false

def State.takeWork (s : State) (t : Nat) (is : WorkMsg → Bool) : Option WorkMsg × State :=
  match (s.tile t).workHead s.nc is with
  | none => (none, s)
  | some w => (some w.2, s.modTile t fun x => { x with workIn := x.workIn.erase w })

/-- Whether the oldest answer to a thirst can be taken: a task needs a place in the deque. -/
def Tile.canAnswer (x : Tile) (nc : Nat) : Bool :=
  match x.workHead nc WorkMsg.isAnswer with
  | some (_, .answer (some _)) => x.canPush
  | some _ => true
  | none => false

/-- `THIRST_ARRIVAL` (R190). Messages that come together are decided one a tc, refusals too: R187 allows a tile one split a tc, so that more than
five cannot all be decided within 4 tc; the model's choice (log 27). -/
def execThirstArrival (s : State) : Out :=
  match s.takeWork s.focus.a WorkMsg.isThirst with
  | (some (.thirst th), s1) => .next (s1.victim s.focus.a th)
  | (_, s1) => .next s1

/-- `STEAL_ANSWER` (R183, R189): a task ends the round and is put at the bottom of the deque; a refusal moves on to the next victim. Where the 32
entries and the spill area have filled up since the thirst went out, the answer waits for room, the model's choice (R15, log 27). -/
def execStealAnswer (s : State) : Out :=
  let t := s.focus.a
  match s.takeWork t WorkMsg.isAnswer with
  | (some (.answer (some k)), s1) =>
    let (id, s2) := s1.take
    match (s2.tile t).push ⟨id, k, true⟩ with
    | none => .next s
    | some x =>
      .next (s2.setTile t { x with
        refused := false
        thirst := match x.thirst with | some h => if h.waiting then none else some h | none => none })
  | (some (.answer none), s1) =>
    .next (s1.modTile t fun x => { x with thirst := if x.thirsty s.tc then x.thirst.map fun h => { h with waiting := false } else none })
  | (_, s1) => .next s1

/-- `TRACKER_CHANGE` (R192): a +1, which is acknowledged, or a −1. -/
def execTrackerChange (s : State) : Out :=
  let t := s.focus.a
  match s.takeWork t WorkMsg.isTrack with
  | (some (.track ix inc src piece), s1) =>
    let s2 := s1.trackerAdd t ix inc
    .next (if inc then s2.sendWork t src (.trackAck piece) else s2)
  | (_, s1) => .next s1

/-- `TRACKER_ACKNOWLEDGEMENT` (R185, R190, R192): the pushed task may be taken, or the answer to the thief goes out. -/
def execTrackerAcknowledgement (s : State) : Out :=
  let t := s.focus.a
  match s.takeWork t WorkMsg.isAck with
  | (some (.trackAck (some id)), s0) =>
    let s1 := s0.modTile t fun x => x.plusFor id none
    match (s1.tile t).pieces.find? fun p => p.id == id with
    | some p => .next ((s1.modTile t fun x => { x with pieces := x.pieces.filter fun q => q.id != id }).sendWork t p.thief (.answer (some p.task)))
    | none => .next (s1.modTile t fun x => { x with
        deque := x.deque.map fun e => if e.id = id then { e with takable := true } else e
        spilledTasks := x.spilledTasks.map fun e => if e.1 = id then (e.1, true) else e })
  | (_, s1) => .next s1

/-! ### Launch queues (R193) -/

/-- What the dispatcher does with the oldest record of a queue. -/
inductive Dispatch where
  | malformed | husked | wait | go
  deriving DecidableEq, Repr

def State.dispatchOf (s : State) (t b : Nat) (m : Held) : Dispatch :=
  let k := Task.ofImage m.payload
  let hd := s.header t k.entry.toNat
  if fld m.payload 164 8 != 0 || hd.isNone || k.grain = 0 || decide (k.hi.toNat < k.lo.toNat) then .malformed
  else if s.husked t k.inst then .husked
  else if k.barrier && (s.tile t).lqOpen.any fun e => e.1 == b then .wait
  else if ((List.range 16).all fun i => ((s.tile t).tracker i).isSome) || decide (64 ≤ (s.tile t).ready.length) then .wait
  else .go

/-- The first queue whose oldest record can be handled (R193). -/
def State.dispatchable (s : State) (t : Nat) : Option (Nat × Held × Dispatch) :=
  if (s.tile t).gated || (s.tile t).inReset then none
  else (List.range 4).findSome? fun q =>
    let b := fld (s.tile t).lqmap.toNat (8 * q) 6
    if (s.tile t).queueOf b != some q then none
    else (((s.tile t).weir.basin b).bind fun k => k.slots.head?).bind fun m =>
      if m.from_ ≤ s.tc then
        let d := s.dispatchOf t b m
        if d = .wait then none else some (b, m, d)
      else none

/-- The tile takes the message m at the head of its launch queue's basin b, as an acquire of what the sender covered (R191, R269). -/
def Tile.takeLaunch (x : Tile) (b : Nat) (m : Held) : Tile :=
  let y := (x.acquire [(m.rel, m.relAll)]).modWeir fun w => w.modBasin b fun k => { k with slots := k.slots.tail }
  { y with lqSeq := Tbl.set x.lqSeq b (Tbl.get 0 x.lqSeq b + 1) }

/-- A launch begins: its tracker is taken and its record is ready (R191, R192). -/
def Tile.openLaunch (x : Tile) (b seq ix : Nat) (k : Tracker) (r : Ready) : Tile :=
  let y := x.setTracker ix (some k)
  { y with lqOpen := x.lqOpen ++ [(b, seq)], ready := x.ready ++ [r] }

/-- The record m at the head of the launch queue of basin b leaves it with its outcome d, or becomes a ready record with a tracker (R191, R193). -/
def State.dispatchAs (s : State) (t b : Nat) (m : Held) (d : Dispatch) : State :=
  let k := Task.ofImage m.payload
  let queue := handleOf s.dev.device t b ((s.tile t).weir.gen b)
  let seq := Tbl.get 0 (s.tile t).lqSeq b
  let s1 := (s.headerRead t k.entry.toNat).modTile t fun x => x.takeLaunch b m
  match d with
  | .malformed => s1.complete t seq queue k.done k.inst 2 m.tt
  | .husked => s1.complete t seq queue k.done k.inst 1 m.tt
  | .wait => s
  | .go =>
    let hd := (s.header t k.entry.toNat).getD 0
    let ix := ((List.range 16).find? fun i => ((s.tile t).tracker i).isNone).getD 0
    let k1 := { k with tracked := true, ttile := BitVec.ofNat 10 t, tindex := BitVec.ofNat 4 ix, frame := BitVec.ofNat 7 (fld hd 0 7), role := hdrRole hd }
    let (id, s2) := s1.take
    s2.modTile t fun x =>
      x.openLaunch b seq ix ⟨1, k.done, seq, queue, k.inst, m.tt⟩ { k1.record id s.tc s.dev.time with badHeader := hdrBad hd }

/-- `LAUNCH_DISPATCH` (R193): the dispatcher discards the record with its outcome, or makes it a ready record with a tracker. -/
def execLaunchDispatch (s : State) : Out :=
  match s.dispatchable s.focus.a with
  | none => .next s
  | some (b, m, d) => .next (s.dispatchAs s.focus.a b m d)

/-! ### Husks (R194, R196, R197) -/

def instOf (o : R2) (imm : BitVec 16) (f : Frame) : BitVec 16 := if o.a.isNz then imm else BitVec.ofNat 16 (o.a.get f)

/-- A request of a jet goes to the husk master at the host interface agent (R196). -/
def State.huskAsk (s : State) (h : Hdr) (o : R2) (imm : BitVec 16) (clear : Bool) : Out :=
  s.guarded (footRun o.d o.a 0 []) fun s =>
    let p := s.oweLater o.d
    let r : HuskReq := { clear := clear, inst := instOf o imm s.cur.frame, tile := s.curTile, slot := s.curSlot, key := s.cur.key, owedId := p.1,
                         arriveAt := evenUp (s.nc + wayCost s.curTile 0), tt := none }
    (p.2.modDev fun d => { d with huskQ := d.huskQ ++ [r] }).advance h 8

/-- `cancel` (R196). -/
def execCancel (h : Hdr) (o : R2) (imm : BitVec 16) (s : State) : Out := s.huskAsk h o imm false
/-- `cancel.clr` (R196). -/
def execCancelClr (h : Hdr) (o : R2) (imm : BitVec 16) (s : State) : Out := s.huskAsk h o imm true

/-- `husked` (R197): answered by the tile's set, or by the die's table. -/
def execHusked (h : Hdr) (o : R2) (s : State) : Out :=
  s.guarded (footRun o.d o.a 0 []) fun s =>
    let i := if o.a.isNz then s.cur.inst else BitVec.ofNat 16 (o.a.get s.cur.frame)
    (s.oweStatus (if s.here.huskHit i then 2 else 12) o.d (b2n (s.husked s.curTile i))).advance h 8

/-! ### The time-triggered table (R205, R206) -/

def ttRec (e : BitVec 512) : Nat := fld e.toNat 256 256
def ttPeriod (e : BitVec 512) : Nat := fld e.toNat 0 64
def ttRule (e : BitVec 512) : Nat := fld e.toNat 160 2
def ttActive (e : BitVec 512) : Bool := fld e.toNat 162 1 == 1 && ttPeriod e != 0 && ttRule e != 3

/-- The device counts a launch or a skip in an entry (R205). -/
def ttCount (e : BitVec 512) (skip : Bool) : BitVec 512 :=
  let lo := if skip then 192 else 224
  let n := fld e.toNat lo 32
  let m := if skip then min (n + 1) (2 ^ 32 - 1) else (n + 1) % 2 ^ 32
  BitVec.ofNat 512 (e.toNat - n * 2 ^ lo + m * 2 ^ lo)

def TtState.idle : TtState := ⟨0, false, 0, false, false, 0⟩

/-- The instance slot `n` of an entry uses (R205). -/
def ttInst (e : BitVec 512) (n : Nat) : BitVec 16 :=
  if ttRule e = 2 then BitVec.ofNat 16 (fld e.toNat 176 16 + n % 2) else BitVec.ofNat 16 (fld (ttRec e) 120 16)

def State.modTt (s : State) (i : Nat) (f : TtState → TtState) : State :=
  s.modDev fun d => { d with ttState := Tbl.set d.ttState i (f (Tbl.get TtState.idle d.ttState i)) }

def State.ttSkip (s : State) (i : Nat) : State :=
  s.modDev fun d => { d with tlt := Tbl.set d.tlt i (ttCount (Tbl.get 0 d.tlt i) true) }

/-- A send of the host interface agent (R167, R169). -/
def State.agentSend (s : State) (m : SendMsg) : State := s.modDev fun d => { d with agentQ := d.agentQ ++ [m] }

/-- Launch `n` of an entry: its record goes to its queue as a 32 B send of the agent (R206). -/
def State.ttLaunch (s : State) (i n : Nat) : State :=
  let e := Tbl.get 0 s.dev.tlt i
  let inst := ttInst e n
  let rec_ := ttRec e - fld (ttRec e) 120 16 * 2 ^ 120 + inst.toNat * 2 ^ 120
  let m : SendMsg := { handle := BitVec.ofNat 32 (fld e.toNat 128 32), src := .host, seq := 0, base := 0, inst := inst, op := .data, size := 32,
                       payload := rec_, rel := none, relAll := false, tt := some i, hostEntry := none }
  ((s.modDev fun d => { d with tlt := Tbl.set d.tlt i (ttCount e false) }).modTt i fun x =>
    { x with open_ := true, openInst := inst, deferred := false }).agentSend m

/-- An entry whose slot has come and whose 128 ns check has passed (R206): every one is served, with all its slots, before the tc goes on. -/
def State.ttDue (s : State) : Option Nat :=
  (s.dev.tlt.find? fun e => ttActive e.2 &&
    decide (fld e.2.toNat 64 64 + (Tbl.get TtState.idle s.dev.ttState e.1).slot * ttPeriod e.2 ≤ s.dev.time / 128 * 128)).map (·.1)

/-- The first slot of an entry that falls at `time` or later: a slot before its entry was written is none of an active entry (R206, log 27). -/
def ttFirst (e : BitVec 512) (time : Nat) : Nat :=
  if ttPeriod e = 0 then 0 else ceilDiv (time - fld e.toNat 64 64) (ttPeriod e)

/-- A husk request of the agent for an entry. -/
def ttHusk (i : Nat) (inst : BitVec 16) (clear : Bool) (nc : Nat) : HuskReq :=
  { clear := clear, inst := inst, tile := 0, slot := 0, key := 0, owedId := 0, arriveAt := evenUp nc, tt := some i }

/-- `TT_SLOT` (R206): a slot falls due; with the previous launch incomplete, the entry's rule applies. -/
def execTtSlot (s : State) : Out :=
  let i := s.focus.a
  let e := Tbl.get 0 s.dev.tlt i
  let x := Tbl.get TtState.idle s.dev.ttState i
  let n := x.slot
  let s1 := s.modTt i fun x => { x with slot := n + 1 }
  -- while launch n waits for its `cancel`, the instance of slot n + 1 is the one being husked
  if x.husking then .next (s1.ttSkip i)
  else if !x.open_ then .next (s1.ttLaunch i n)
  else
    match ttRule e with
    | 1 => .next (if x.deferred then s1.ttSkip i else s1.modTt i fun x => { x with deferred := true, waits := n })
    | 2 =>
      if s.dev.husks.contains (ttInst e n) then .next (s1.ttSkip i)
      else .next ((s1.modTt i fun x => { x with husking := true, waits := n }).modDev fun d => { d with huskQ := d.huskQ ++ [ttHusk i x.openInst false s.nc] })
    | _ => .next (s1.ttSkip i)

/-- `TT_COMPLETION_REPORT` (R206): the launch is complete; a deferred slot is launched, a husked instance is cleared. -/
def execTtCompletionReport (s : State) : Out :=
  let i := s.focus.a
  let inst := BitVec.ofNat 16 s.focus.b
  let x := Tbl.get TtState.idle s.dev.ttState i
  let e := Tbl.get 0 s.dev.tlt i
  let clr (s : State) : State := if ttRule e = 2 ∧ s.dev.husks.contains inst then
      s.modDev fun d => { d with huskQ := d.huskQ ++ [ttHusk i inst true s.nc] } else s
  if inst = x.openInst then
    let s1 := (s.modTt i fun x => { x with open_ := false })
    .next (clr (if x.deferred then s1.ttLaunch i x.waits else s1))
  else .next (clr s)

/-! ### The husk master (R194, R196) -/

/-- A request's status goes back: to the jet that asked, or to the time-triggered table (R196, R206). -/
def State.huskAnswer (s : State) (r : HuskReq) (status : Nat) : State :=
  match r.tt with
  | none => s.settle r.tile r.slot r.owedId (wayCost 0 r.tile / 2 + 1) status
  | some i =>
    if r.clear then s
    else
      let x := Tbl.get TtState.idle s.dev.ttState i
      let s1 := s.modTt i fun x => { x with husking := false }
      if status = 1 then s1.ttSkip i
      else
        let s2 := s1.ttLaunch i x.waits
        if x.open_ then s2 else s2.modDev fun d => { d with huskQ := d.huskQ ++ [ttHusk i r.inst true s.nc] }

/-- The request that reached the husk master first, those that came in one tc in the order of their issue (R196). -/
def Dev.huskFirst (d : Dev) (nc : Nat) : Option HuskReq :=
  (d.huskQ.filter fun r => decide (r.arriveAt ≤ nc)).foldl (fun (b : Option HuskReq) r =>
    match b with
    | none => some r
    | some c => if r.arriveAt < c.arriveAt then some r else b) none

/-- `HUSK_REQUEST` (R194, R196): the oldest request at the master changes the list and its copying starts, or fails. -/
def execHuskRequest (s : State) : Out :=
  match s.dev.huskFirst s.nc with
  | none => .next s
  | some r =>
    let s1 := s.modDev fun d => { d with huskQ := d.huskQ.erase r }
    let has := s.dev.husks.contains r.inst
    let copy (s : State) (l : List (BitVec 16)) : State :=
      let (d, s2) := s.drawDelay
      (s2.modDev fun x => { x with husks := l, huskCopy := some (r, 0, 0) }).after (1 + d) .huskCopyDone ⟨0, 0, 0, 0, 0⟩
    if r.clear then
      .next (if has then copy s1 (s.dev.husks.filter (· != r.inst)) else s1.huskAnswer r 1)
    else if has then .next (s1.huskAnswer r 2)
    else if 64 ≤ s.dev.husks.length then .next (s1.huskAnswer r 1)
    else .next (copy s1 (s.dev.husks ++ [r.inst]))

/-- `HUSK_COPY_DONE` (R194, R196): every die's table and every tile's set hold the list. -/
def execHuskCopyDone (s : State) : Out :=
  match s.dev.huskCopy with
  | none => .next s
  | some (r, _, _) =>
    let l := s.dev.husks
    let s1 := (List.range 4).foldl (fun (s : State) d => s.modDie d fun x => { x with huskTable := l }) s
    let s2 := (List.range Config.tiles).foldl (fun (s : State) t => s.modTile t fun x =>
      { x with huskSet := l.take 16, huskMore := decide (16 < l.length) }) s1
    .next ((s2.modDev fun d => { d with huskCopy := none }).huskAnswer r 0)

/-! ### prio (R200) -/

/-- `prio`: the level becomes the lower of the operand and the ceiling; D receives the old one. -/
def execPrio (h : Hdr) (d : SliceOp) (lvl : BitVec 3) (s : State) : Out :=
  s.guarded (footS d [] [] 1) fun s =>
    ((s.owe 1 (d.put s.cur.level.toNat) 0).modCur fun j => { j with level := if lvl.toNat ≤ j.ceiling.toNat then lvl else j.ceiling }).advance h 8

/-! ### Gangs (R201 to R204) -/

def gMember (d k : Nat) : Nat := fld d (64 * k) 64
def gPipe (d k : Nat) : Nat := fld d (256 + 64 * k) 64
def gHas (d k : Nat) : Bool := fld (gMember d k) 56 1 == 1
def gMask (d k : Nat) : List Nat := (List.range 4).filter fun p => fld (gMember d k) (52 + p) 1 == 1
def gEntry (d k : Nat) : Nat := fld (gMember d k) 0 52 * 32
def gMembers (d : Nat) : List Nat := (List.range 4).filter (gHas d)
def gPipes (d : Nat) : List Nat := (List.range 4).filter fun p => fld (gPipe d p) 14 1 == 1

/-- Whether a descriptor is valid (R202 status 3). -/
def gangOk (d : Nat) : Bool :=
  gHas d 0 && (gMask d 0).isEmpty && (List.range 4).all (fun k => fld (gMember d k) 57 7 == 0) &&
    (List.range 4).all (fun p => fld (gPipe d p) 0 2 != 3) &&
    (gMembers d).all fun k => k == 0 ||
      (!(gMask d k).isEmpty && (gMask d k).all fun p => (gPipes d).contains p && fld (gPipe d p) 12 2 == k)

/-- The tiles a member may go to: the issuing tile, then its neighbours to the east, south, west and north in its pond (R202). -/
def gangTiles (t : Nat) : List Nat :=
  t :: ([tileAt (dieOf t) (rowOf t) (colOf t + 1), tileAt (dieOf t) (rowOf t + 1) (colOf t), tileAt (dieOf t) (rowOf t) (colOf t + 15),
    tileAt (dieOf t) (rowOf t + 15) (colOf t)].filter fun v => pondOf v == pondOf t)

/-- A slot and a frame of `n` granules are held for a member. -/
def Tile.hold (x : Tile) (tc n : Nat) : Option (Nat × Tile) :=
  match x.freeSlot tc, x.fits tc n with
  | some k, some b => if x.inReset || x.gated then none else some (k, { x with heldSlots := x.heldSlots ++ [(k, b, n)] })
  | _, _ => none

/-- Members placed each on the first tile of its list that has room: member, tile and slot (R202). -/
def State.placeMembers (s : State) (lists : Nat → List Nat) : List (Nat × Nat) → Option (List (Nat × Nat × Nat) × State)
  | [] => some ([], s)
  | (k, n) :: r =>
    match (lists k).findSome? fun v => ((s.tile v).hold s.tc n).map fun e => (v, e) with
    | none => none
    | some (v, slot, x) =>
      match State.placeMembers (s.setTile v x) lists r with
      | none => none
      | some (l, s1) => some ((k, v, slot) :: l, s1)

/-- A pipe's basin is defined on its consumer's tile: the lowest free index (R202). -/
def State.makePipe (s : State) (d p v : Nat) : Option (BitVec 32 × Nat × State) :=
  let w := gPipe d p
  let x := s.tile v
  match (List.range 62).find? fun i => (x.weir.basin i).isNone with
  | none => none
  | some ix =>
    if 448 < x.reserves + fld w 2 10 then none
    else
      let b := { Basin.plain (fld w 2 10) with
        msize := 16 * 2 ^ fld w 0 2, ringEn := fld w 15 1 == 1, ringLog := fld w 16 4, ringBase := BitVec.ofNat 64 (fld w 20 44 * 2 ^ 12) }
      some (handleOf s.dev.device v ix (x.weir.gen ix), ix, s.modTile v fun x => x.modWeir fun w => w.setBasin ix (some b))

def State.makePipes (s : State) (d : Nat) (tileOf : Nat → Nat) : List Nat → Option (List (Nat × Nat × BitVec 32) × State)
  | [] => some ([], s)
  | p :: r =>
    match s.makePipe d p (tileOf (fld (gPipe d p) 12 2)) with
    | none => none
    | some (hd, _, s1) =>
      match State.makePipes s1 d tileOf r with
      | none => none
      | some (l, s2) => some ((p, tileOf (fld (gPipe d p) 12 2), hd) :: l, s2)

/-- The pattern of each member after member 0, on its input pipes (R202). -/
def State.makePats (s : State) (d g level inst : Nat) (place : Nat → Nat × Nat) (pipes : List (Nat × Nat × BitVec 32)) (hdrs : Nat → Nat) :
    List Nat → Option (List (Nat × Nat) × State)
  | [] => some ([], s)
  | k :: r =>
    let (v, slot) := place k
    match (List.range 32).find? fun i => ((s.tile v).weir.pattern i).isNone with
    | none => none
    | some ix =>
      let p : Pattern :=
        { entry := BitVec.ofNat 64 (gEntry d k), patch := 0, inst := BitVec.ofNat 16 inst
          basins := (gMask d k).filterMap fun p => (pipes.find? fun e => e.1 == p).map fun e => hIndex e.2.2
          inherit := false, rotate := false, enable := true, action := false, engCopy := false, prio := BitVec.ofNat 3 level
          grans := hdrGrans (hdrs k), role := hdrRole (hdrs k), badHeader := hdrBad (hdrs k), command := 0, held := some (g, k, slot), by_ := 0 }
      match State.makePats (s.modTile v fun x => x.modWeir fun w => w.setPattern ix (some p)) d g level inst place pipes hdrs r with
      | none => none
      | some (l, s1) => some ((v, ix) :: l, s1)

/-- `gang` starts (R202, R203): all or none. `img` is the descriptor with the issuing jet's level and instance above it. -/
def State.gangStart (s0 : State) (t img : Nat) : Nat × State :=
  let d := img % 2 ^ 512
  let s := if gangOk d then (gMembers d).foldl (fun (s : State) k => s.headerRead t (gEntry d k)) s0 else s0
  let level := fld img 512 3
  let inst := fld img 515 16
  if !gangOk d then (3, s)
  else
    let hs := (gMembers d).map fun k => (k, s0.header t (gEntry d k))
    if hs.any fun e => e.2.isNone then (4, s)
    else
      let hdrs (k : Nat) : Nat := ((hs.find? fun e => e.1 == k).bind (·.2)).getD 0
      let l := (gMembers d).map fun k => (k, hdrGrans (hdrs k))
      let all := s.placeMembers (fun _ => [t]) l
      let one := match all with | some p => some p | none => s.placeMembers (fun k => if k = 0 then [t] else gangTiles t) l
      match one with
      | none => (1, s)
      | some (ms, s1) =>
        let place (k : Nat) : Nat × Nat := ((ms.find? fun m => m.1 == k).map (·.2)).getD (t, 0)
        match s1.makePipes d (fun k => (place k).1) (gPipes d) with
        | none => (2, s)
        | some (pipes, s2) =>
          let (g, s3) := s2.take
          match s3.makePats d g level inst place pipes hdrs ((gMembers d).filter (· != 0)) with
          | none => (2, s)
          | some (pats, s4) =>
            let rec_ : Gang := { id := g, members := ms, pipes := pipes, pats := pats, ended := false }
            let slot := (place 0).2
            let base := (((s4.tile t).heldSlots.find? fun h => h.1 == slot).map (·.2.1)).getD 0
            let q : Ready :=
              { id := g, entry := BitVec.ofNat 64 (gEntry d 0), level := BitVec.ofNat 3 level, inst := BitVec.ofNat 16 inst, grans := hdrGrans (hdrs 0)
                role := hdrRole (hdrs 0), arrival := s.tc, waitFrom := s.dev.time, bypass := 0
                payloads := [(gangBlock s.dev.device rec_ 0, 64, none)], task := none, saved := none, badHeader := hdrBad (hdrs 0), bad := [] }
            (0, ((s4.modTile t fun x => { x with gangs := x.gangs ++ [rec_] }).reside t slot base q).modJet t slot fun j => { j with gang := some (g, 0) })

/-- Whether a gang start that falls due on the tile in this tc has come to the last tc in which it may be made (R202). -/
def State.gangLast (s : State) (t : Nat) : Bool :=
  s.agenda.any fun e => decide (e.1 ≤ s.nc) && e.2.2 == .statusResultWrite && e.2.1.a == t && e.2.1.d == 4 && decide (e.2.1.data / 2 ^ 531 ≤ s.tc)

/-- `gang` (R202): the descriptor is read now; the status comes within 40 tc, whose last stands above the image. -/
def execGang (h : Hdr) (o : R2) (s : State) : Out :=
  s.guarded (footRun o.d o.a 128 []) fun s =>
    let img := SliceOp.getRun o.a s.cur.frame 128 + s.cur.level.toNat * 2 ^ 512 + s.cur.inst.toNat * 2 ^ 515 + (s.tc + 40) * 2 ^ 531
    let p := s.oweLater o.d
    let (d, s1) := p.2.drawDelay
    (s1.after (1 + d % 40) .statusResultWrite ⟨s.curTile, s.curSlot, p.1, 4, img⟩).advance h 16

/-- The gang with a number: the tile that keeps it, and itself. -/
def State.gangOf (s : State) (g : Nat) : Option (Nat × Gang) :=
  s.tiles.findSome? fun e => (e.2.gangs.find? fun x => x.id == g).map fun x => (e.1, x)

/-- Whether a member of a gang has a jet: in a slot of its tile, or in a saved context (R204, R355). -/
def Tile.hasMember (x : Tile) (g k : Nat) : Bool :=
  (x.jets.any fun e => e.2.status != .free && e.2.gang == some (g, k)) ||
    x.saves.any fun e => match e.2 with | some v => v.jet.gang == some (g, k) | none => false

/-- The slots of an ended gang that have no jet return to their tiles; when every member has exited its pipes are freed (R204). -/
def State.gangSettle (s : State) (g : Nat) : State :=
  match s.gangOf g with
  | none => s
  | some (t, x) =>
    if !x.ended then s
    else
      let busy (m : Nat × Nat × Nat) : Bool := (s.tile m.2.1).hasMember g m.1
      let s1 := x.members.foldl (fun (s : State) m =>
        if busy m then s else s.modTile m.2.1 fun y =>
          let h := y.heldSlots.find? fun h => h.1 == m.2.2
          let z := { y with heldSlots := y.heldSlots.filter fun h => h.1 != m.2.2 }
          match h with | some h => (z.freed h.2.1 h.2.2).lookRunless s.tc | none => z) s
      if x.members.any busy then
        s1.modTile t fun y => { y with gangs := y.gangs.map fun z => if z.id = g then { z with members := z.members.filter busy } else z }
      else
        let s2 := x.pipes.foldl (fun (s : State) p => if s.live p.2.1 p.2.2 then s.freeBasin p.2.1 (hIndex p.2.2) else s) s1
        s2.modTile t fun y => { y with gangs := y.gangs.filter fun z => z.id != g }

/-- A pattern is deleted where it is still the gang's: another may have been defined at its index since (R204). -/
def Weir.dropHeld (w : Weir) (ix g : Nat) : Weir :=
  match w.pattern ix with
  | some p => if p.held.map (·.1) = some g then w.setPattern ix none else w
  | none => w

/-- `gang.end` (R204): the gang's patterns are deleted at once; status 1 where the jet is no member of a live gang. -/
def execGangEnd (h : Hdr) (d : SliceOp) (s : State) : Out :=
  s.guarded { dst := d.range } fun s =>
    match s.cur.gang.bind fun g => s.gangOf g.1 with
    | some (t, x) =>
      if x.ended then (s.oweStatus 4 d 1).advance h 16
      else
        let s1 := x.pats.foldl (fun (s : State) p => s.modTile p.1 fun y => y.modWeir fun w => w.dropHeld p.2 x.id) s
        let s2 := s1.modTile t fun y => { y with gangs := y.gangs.map fun z => if z.id = x.id then { z with ended := true } else z }
        ((s2.oweStatus 4 d 0).advance h 16).gangSettle x.id
    | none => (s.oweStatus 4 d 1).advance h 16

/-- The end of a jet by `exit`, and what it means for its gang. -/
def State.jetExit (s : State) (t slot : Nat) : State :=
  match (s.jet t slot).gang with
  | some (g, _) => (s.endJet t slot).gangSettle g
  | none => s.endJet t slot

/-- The end of a jet by `kill`, and what it means for its gang. -/
def State.jetKill (s : State) (t slot : Nat) : State :=
  match (s.jet t slot).gang with
  | some (g, _) => (s.killJet t slot).gangSettle g
  | none => s.killJet t slot

end Sys2Proof.Machine
end

