-- ==== Sys2Proof/Machine/Control.lean ====
section
/-!
DEFINITION. Group 6: branches, `exit`, `nop` (R44, R94 to R97), cascades (R98 to R101), and instruction fetch from memory (R29, R30).
-/

namespace Sys2Proof.Machine

/-! ### Branches (R94 to R96) -/

/-- The program counter takes `target`. -/
def State.goto (s : State) (h : Hdr) (target : BitVec 64) : State := s.modCur fun j => j.branched h target s.tc

/-- The target of a relative branch (R94). -/
def relTarget (pc : BitVec 64) (imm : BitVec 32) : BitVec 64 := pc + imm.signExtend 64

/-- A conditional branch of R94, with its footprint. -/
def State.branchIf (s : State) (h : Hdr) (fp : Foot) (take : Bool) (imm : BitVec 32) : Out :=
  s.guarded fp fun s => s.goto h (if take then relTarget s.cur.pc imm else nextPc s.cur.pc 12)

def footRead (a : SliceOp) : Foot := { src := a.range, rd := a.range }
def footMask (m : BitVec 3) : Foot := { msrc := [m.toNat] }

/-- `br` (R94). -/
def execBr (h : Hdr) (imm : BitVec 32) (s : State) : Out := s.branchIf h {} true imm
/-- `bz` (R94). -/
def execBz (h : Hdr) (a : SliceOp) (imm : BitVec 32) (s : State) : Out := s.branchIf h (footRead a) (a.get s.cur.frame == 0) imm
/-- `bnz` (R94). -/
def execBnz (h : Hdr) (a : SliceOp) (imm : BitVec 32) (s : State) : Out := s.branchIf h (footRead a) (a.get s.cur.frame != 0) imm
/-- `bmany` (R94). -/
def execBmany (h : Hdr) (m : BitVec 3) (imm : BitVec 32) (s : State) : Out := s.branchIf h (footMask m) (s.cur.mask m.toNat != 0) imm
/-- `bmnone` (R94). -/
def execBmnone (h : Hdr) (m : BitVec 3) (imm : BitVec 32) (s : State) : Out := s.branchIf h (footMask m) (s.cur.mask m.toNat == 0) imm

/-- `call` (R94): the link is the address of the next instruction, past a tail word. -/
def execCall (h : Hdr) (d : SliceOp) (imm : BitVec 32) (s : State) : Out :=
  s.guarded (footS d [] [] 1) fun s =>
    (s.owe 1 (d.put (nextPc s.cur.pc 12).toNat) 0).goto h (relTarget s.cur.pc imm)

def footLoop (d : SliceOp) : Foot := footS d [] [d] 1

/-- `loop` (R94): the counter wraps. -/
def execLoop (h : Hdr) (d : SliceOp) (imm : BitVec 32) (s : State) : Out :=
  s.guarded (footLoop d) fun s =>
    let c := trunc ((d.get s.cur.frame : Int) - 1) (4 * d.width)
    (s.owe (footLoop d).latency (d.put c) 0).goto h (if c != 0 then relTarget s.cur.pc imm else nextPc s.cur.pc 12)

/-- `ret` (R95). -/
def execRet (h : Hdr) (a : SliceOp) (s : State) : Out :=
  s.guarded (footRead a) fun s => s.goto h (BitVec.ofNat 64 (a.get s.cur.frame))

def footBrx (a b : SliceOp) : Foot := { src := a.range ++ b.range, rd := a.range ++ b.range }

/-- `brx` (R95). -/
def execBrx (h : Hdr) (a b : SliceOp) (s : State) : Out :=
  s.guarded (footBrx a b) fun s => s.goto h (BitVec.ofNat 64 (a.get s.cur.frame + 32 * b.get s.cur.frame))

/-- `nop` (R27, R44): it takes its issue slot and changes nothing but the pc. -/
def execNop (h : Hdr) (s : State) : Out := s.guarded {} fun s => s.advance h 8
/-- `nop.w` (R27, R44). -/
def execNopW (h : Hdr) (s : State) : Out := s.guarded {} fun s => s.advance h 12

/-- `exit` (R97, R88, R203, R204): the jet ends. -/
def execExit (_h : Hdr) (s : State) : Out := s.guarded {} fun s => s.jetExit s.curTile s.curSlot

/-! ### Cascades (R98 to R101) -/

/-- The next stop in a direction: east, west, south, north (R98). -/
def nextStop (t dir : Nat) : Nat :=
  match dir with
  | 0 => tileAt (dieOf t) (rowOf t) (colOf t + 1)
  | 1 => tileAt (dieOf t) (rowOf t) (colOf t + 15)
  | 2 => tileAt (dieOf t) (rowOf t + 1) (colOf t)
  | _ => tileAt (dieOf t) (rowOf t + 15) (colOf t)

/-- The stop `h` hops along a line. -/
def alongLine (t dir : Nat) : Nat → Nat
  | 0 => t
  | h + 1 => nextStop (alongLine t dir h) dir

/-- The systolic links of a line, each named by the stop it leaves and its direction. -/
def lineLinks (t dir n : Nat) : List (Nat × Nat) := (List.range n).map fun h => (alongLine t dir h, dir)

/-- The links that cascades use now. -/
def State.cascLinks (s : State) : List (Nat × Nat) :=
  s.tiles.flatMap fun e => e.2.jets.flatMap fun j => match j.2.casc with
    | .leader dir n => lineLinks e.1 dir n
    | _ => []

/-- The links that matrix operand streams use (R299, R312): eastward or southward from an engine whose run forwards, until its last step, a parked
run too. -/
def State.streamLinks (s : State) : List (Nat × Nat) :=
  s.tiles.flatMap fun e => (e.2.mx.run.toList ++ e.2.mx.parked.toList).flatMap fun r =>
      let i := r.cmd.img.toNat
      let steps := (fld i 152 4 + 1) * (fld i 156 4 + 1) * ceilDiv (fld i 138 13 + 1) 64
      if steps ≤ r.step then []
      else (if fld i 269 1 = 1 then [(e.1, 0)] else []) ++ (if fld i 271 1 = 1 then [(e.1, 2)] else [])

/-- Whether a link is fenced (R361). -/
def State.linkFenced (s : State) (l : Nat × Nat) : Bool := (s.stop l.1).fencedSys.contains l.2

/-- Whether a link may carry no new cascade (R98 status 3). -/
def State.linkTaken (s : State) (l : Nat × Nat) : Bool :=
  s.cascLinks.contains l || s.streamLinks.contains l || s.linkFenced l

/-- The followers of a leader that are still in its cascade, by hops. -/
def State.followers (s : State) (t key dir n : Nat) : List (Nat × Nat × Nat) :=
  (List.range n).filterMap fun k =>
    let v := alongLine t dir (k + 1)
    ((s.tile v).jets.find? fun e => e.2.status != .free && e.2.casc == .follower t key (k + 1)).map fun e => (k + 1, v, e.1)

/-- `casc` (R98): statuses 4 and 1 are known at issue; the line and its tiles are asked over the links. -/
def execCasc (h : Hdr) (o : R2) (n : BitVec 4) (dir : BitVec 2) (s : State) : Out :=
  s.guarded { dst := o.d.range ++ o.a.range, lat := 1 } fun s =>
    let st := if s.cur.casc != .none then 4
      else if ((s.header s.curTile s.cur.entry.toNat).map hdrCasc).getD false then 0 else 1
    if st != 0 then (s.oweStatus 1 o.d st).advance h 16
    else
      let d := s.oweLater o.d
      let a := d.2.oweLater o.a
      (a.2.after (4 * n.toNat) .cascFormed ⟨s.curTile, s.curSlot, d.1, a.1, n.toNat + 16 * dir.toNat⟩).advance h 16

/-- The leader's frame as it stands after every earlier write (R98). -/
def Jet.settledFrame (j : Jet) : Frame := (j.owed.filter (·.fixed)).foldl (fun f o => o.w.foldl (fun f w => f.apply w.sl) f) j.frame

/-- A follower becomes resident with a copy of the leader's frame, and is owed its position in A and status 0 in D (R98). Where its leader has
stopped already (`lead` false) it goes on independently (R101) and may issue at once, before the copy of its frame has ended: the spec gives no first
tc for it, so this is the model's choice (log 26). -/
def State.follow (s : State) (t : Nat) (j : Jet) (lead : Bool) (d a : List (Nat × Nat)) (v hop : Nat) : State :=
  match (s.tile v).freeSlot s.tc, (s.tile v).fits s.tc j.grans with
  | some k, some b =>
    let q : Ready := { id := 0, entry := j.entry, level := j.level, inst := j.inst, grans := j.grans, role := j.role, arrival := s.tc,
                       waitFrom := s.dev.time, bypass := 0, payloads := [], task := none, saved := none, badHeader := false, bad := [] }
    let copy := ceilDiv j.grans 2
    ((((s.reside v k b q).modJet v k fun f =>
      { f with pc := j.pc, frame := j.settledFrame, casc := if lead then .follower t j.key hop else .none, start := none, stallTill := 0 }).owesValue
        v k a copy hop).owesValue v k d copy 0)
  | _, _ => s

/-- Whether a tile can take a follower (R98 status 2). -/
def State.canFollow (s : State) (v n : Nat) : Bool :=
  !(s.tile v).gated && !(s.tile v).inReset && ((s.tile v).freeSlot s.tc).isSome && ((s.tile v).fits s.tc n).isSome

/-- The owed slices of a result. -/
def Jet.owedDst (j : Jet) (id : Nat) : List (Nat × Nat) := ((j.owed.find? fun o => o.id == id).map (·.dst)).getD []

/-- `CASC_FORMED` (R98): the checks at issue + 4n; where all hold, the followers become resident in this tc, the frame copies begin, and status 0
and the positions are written when they are made. A tile in which a jet has become resident in this tc makes all wait for the next (R88).
From this tc on what the leader issues is forwarded, also before status 0 is written; and the frame that is copied has every write of
the leader that has been issued by now, also after `casc`: the model's choices (log 26). A leader that has been pre-empted or has
trapped meanwhile leads nobody: its followers are independent at once (R101), and its own status and position come to it where it is. -/
def execCascFormed (s : State) : Out :=
  let f := s.focus
  let n := f.data % 16
  let dir := f.data / 16 % 4
  match (s.tile f.a).ownerOf f.b f.c with
  | none => .next (s.modTile f.a fun x => (x.limboDone f.c).limboDone f.d)
  | some j =>
    let line := (List.range n).map fun k => alongLine f.a dir (k + 1)
    let quit (st : Nat) : State :=
      (s.settle f.a f.b f.c 0 st).modTile f.a fun x => x.modOwner j.key [] fun j => { j with owed := j.owed.filter fun o => o.id != f.d }
    if (lineLinks f.a dir n).any s.linkTaken then .next (quit 3)
    else if line.any fun v => !s.canFollow v j.grans then .next (quit 2)
    else if line.any fun v => (s.tile v).took s.tc || s.gangLast v then .next (s.after 1 .cascFormed f)
    else
      let lead := (s.jet f.a f.b).owes f.c && (s.jet f.a f.b).status == .running
      let copy := ceilDiv j.grans 2
      let s1 := line.zipIdx.foldl (fun (s : State) (e : Nat × Nat) => s.follow f.a j lead (j.owedDst f.c) (j.owedDst f.d) e.1 (e.2 + 1)) s
      let s2 := if lead then s1.modJet f.a f.b fun j => { j with casc := .leader dir n, cdis := false } else s1
      .next ((s2.settle f.a f.b f.d copy 0).settle f.a f.b f.c copy 0)

/-- A member leaves its cascade at `cascx` (R101). -/
def Jet.leave (j : Jet) : Jet := { j with casc := .none }

/-- `cascx` with stop 0 (R101): every member goes on as an independent jet. -/
def execCascx (h : Hdr) (s : State) : Out := s.guarded {} fun s => (s.modCur Jet.leave).advance h 16

/-- `cascx.stop` (R101): the followers end, the leader goes on. -/
def execCascxStop (h : Hdr) (s : State) : Out :=
  s.guarded {} fun s =>
    match s.cur.casc with
    | .follower _ _ _ => s.jetExit s.curTile s.curSlot
    | _ => (s.modCur Jet.leave).advance h 16

/-- `cdis` (R100). -/
def execCdis (h : Hdr) (d : SliceOp) (s : State) : Out :=
  s.guarded (footS d [] [] 1) fun s =>
    ((s.owe 1 (d.put (b2n s.cur.cdis)) 0).modCur fun j => { j with cdis := false }).advance h 8

/-- A jet's outcome at an instruction that goes by its slices or masks: whether a conditional branch is taken, or the target of `ret` and `brx`; 0
elsewhere (R100). -/
def Jet.outcomeOf (j : Jet) (i : Instr) : Nat :=
  match i with
  | .bz _ a _ => b2n (a.get j.frame == 0)
  | .bnz _ a _ => b2n (a.get j.frame != 0)
  | .bmany _ m _ => b2n (j.mask m.toNat != 0)
  | .bmnone _ m _ => b2n (j.mask m.toNat == 0)
  | .loop _ d _ => b2n (trunc ((d.get j.frame : Int) - 1) (4 * d.width) != 0)
  | .ret _ a => a.get j.frame
  | .brx _ a b => (a.get j.frame + 32 * b.get j.frame) % 2 ^ 64
  | _ => 0

/-- A leader's instruction is forwarded to its followers, each to issue it no earlier than 2 tc a hop later (R99). -/
def State.forwardTo (s : State) (t key dir n : Nat) (i : Instr) (pc : BitVec 64) (out : Nat) : State :=
  (s.followers t key dir n).foldl (fun (s : State) e => s.modJet e.2.1 e.2.2 fun j => { j with fwdQ := j.fwdQ ++ [(s.tc + 2 * e.1, i, pc, out)] }) s

/-- A killed leader ends its cascade as `cascx.stop` would (R351). -/
def State.cascadeKilled (s : State) (t : Nat) (j : Jet) : State :=
  match j.casc with
  | .leader dir n => s.forwardTo t j.key dir n (.cascxStop ⟨false, 0⟩) j.pc 0
  | _ => s

/-- `FORWARDED_ISSUE` (R91, R99): the oldest forwarded instruction of the follower issues now. -/
def execForwardedIssue (s : State) : Out :=
  let f := s.focus
  match (s.jet f.a f.b).fwdQ with
  | [] => .next s
  | (_, i, pc, out) :: r => .next { (s.modJet f.a f.b fun j => { j with fwdQ := r }) with turn := .forward f.a f.b i pc out }

/-! ### Fetch from memory (R29, R30) -/

/-- A fetch of a line starts: its packet leaves once it is translated, or it meets its fault then (R29). -/
def State.startFetch (s : State) (t line : Nat) : State :=
  let va := 128 * line
  let d := s.xlateCost t va 8
  let s1 := (s.walkBegins t va).modTile t fun x => { x with ifetch := x.ifetch ++ [line] }
  match s.fetchPart t line with
  | .ok p => s1.askUnit t (unitId 1 line) p.addr 128 (2 * d + 28)
  | .error _ => s1.after (max 1 d) .icacheFill ⟨t, line, 0, 0, 0⟩

/-- The address a jet fetches next: of an instruction that it executes again, or its program counter (R388). -/
def Jet.fetchPc (j : Jet) : BitVec 64 := (j.replay.head?.map (·.pc)).getD j.pc

/-- The jets of a tile that wait for a line. -/
def Tile.waitFor (x : Tile) (line : Nat) : List (Nat × Jet) :=
  x.jets.filter fun e => e.2.status == .running && e.2.fetchPc.toNat / 128 == line &&
    (match e.2.casc with | .follower _ _ _ => false | _ => true)

/-- `ICACHE_FILL` (R29, R30, R96): the line arrives whole, or the jets that wait for it trap with the cause of the fetch and their
program counters on it. Focus: tile, line, the cause of an answer, 1 for an answer, the line. -/
def execIcacheFill (s : State) : Out :=
  let t := s.focus.a
  let line := s.focus.b
  let s1 := (s.modTile t fun x => { x with ifetch := x.ifetch.erase line }).walked t (128 * line) 128
  let traps (f : BitVec 64 → Flt) : Out :=
    .next (((s1.tile t).waitFor line).foldl (fun (s : State) e => s.trapAt t e.1 (f e.2.fetchPc) e.2.fetchPc e.2.pc) s1)
  match s.fetchPart t line with
  | .error c => traps fun a => dataFault c a.toNat 8
  | .ok _ =>
    if s.focus.d = 1 ∧ s.focus.c = 0 then .next (s1.modTile t fun x => x.ifill ⟨line, s.focus.data⟩)
    else if s.focus.d = 1 then traps fun a => { cause := 8, addr := a.toNat, info := 2 }
    else .next s1

end Sys2Proof.Machine
end

