-- ==== Sys2Proof/Machine/Blocks.lean ====
section
/-!
DEFINITION. What engines and chains share: the fields of a tensor entry (R304) and of a layer block (R331), the tiles of a pond, and the
gather of a group as a copy (R338).
-/

namespace Sys2Proof.Machine

/-! ### Tensor entries (R304, R305) -/

def tenBase (e : Nat) : Nat := fld e 0 64
def tenRstride (e : Nat) : Nat := fld e 64 32
def tenPstride (e : Nat) : Nat := fld e 96 32
def tenScale (e : Nat) : Nat := fld e 128 32
def tenRows (e : Nat) : Nat := fld e 160 16 + 1
def tenCols (e : Nat) : Nat := fld e 176 16 + 1
def tenPlanes (e : Nat) : Nat := fld e 192 4 + 1
def tenSigned (e : Nat) : Bool := fld e 196 1 == 1
def tenMid (e : Nat) : Bool := fld e 197 1 == 1
/-- 0 BPI, 1 BF16, 2 FP32. -/
def tenType (e : Nat) : Nat := fld e 198 2
def tenExp (e : Nat) : Bool := fld e 200 1 == 1
def tenNout (e : Nat) : Nat := fld e 201 5
def tenExps (e : Nat) : Nat := fld e 256 64
def tenPrec (e : Nat) : Nat := fld e 320 32
def tenOaddr (e : Nat) : Nat := fld e 640 64
/-- The outlier channels listed. -/
def tenOuts (e : Nat) : List Nat := (List.range (tenNout e)).map fun j => fld e (384 + 16 * j) 16

/-! ### The layer block (R331) -/

def lbCap (b : Nat) : Nat := fld b 960 64
def lbObuf (b : Nat) : Nat := fld b 896 64
def lbYbuf (b : Nat) : Nat := fld b 832 64
def lbGbuf (b : Nat) : Nat := fld b 768 64
def lbEtab (b : Nat) : Nat := fld b 704 64
def lbXent (b : Nat) : Nat := fld b 640 64
def lbDone (b : Nat) : BitVec 32 := BitVec.ofNat 32 (fld b 608 32)
def lbLayer (b : Nat) : Nat := fld b 592 16
def lbTag (b : Nat) : Nat := fld b 580 12
/-- T, E, the capacity per expert and k. -/
def lbT (b : Nat) : Nat := fld b 568 12 + 1
def lbE (b : Nat) : Nat := fld b 560 8 + 1
def lbMax (b : Nat) : Nat := fld b 544 16
def lbK (b : Nat) : Nat := fld b 541 3 + 1
def lbNorm (b : Nat) : Bool := fld b 540 1 == 1
def lbPa (b : Nat) : Nat := fld b 536 4
def lbPb (b : Nat) : Nat := fld b 532 4
def lbTbase (b : Nat) : Nat := fld b 524 8
def lbChan (b : Nat) : Nat := fld b 521 3
def lbAct (b : Nat) : Nat := fld b 517 4
def lbActen (b : Nat) : Nat := fld b 516 1
def lbPos (b : Nat) : Nat := fld b 510 6

/-! ### Groups and their gathers (R338) -/

/-- The handle that brings completion messages to a chain: generation 0 at its stop, which no basin has (R155, log 20). -/
def State.chainHandle (s : State) (k : Nat) : BitVec 32 := handleOf s.dev.device (chainStop k) (k % 2) 0

/-- The tiles of a pond of a die, in tile-number order (R13). -/
def pondTile (die p b : Nat) : Nat := tileAt die (p / 4 * 4 + b % 16 / 4) (p % 4 * 4 + b % 4)

/-- The pond a group is bound to: that of its replica, or the slot chosen for it. -/
def Layer.pondOf (l : Layer) (g : Group) : Option Nat :=
  let p := ((Tbl.get (1, [31]) l.reps g.e).2[g.i]?).getD 31
  if p = 31 then g.slot else some p

def Layer.fixed (l : Layer) (g : Group) : Bool := ((Tbl.get (1, [31]) l.reps g.e).2[g.i]?).getD 31 != 31

/-- The channel that gathers a group: each token's row of X, plane by plane, into the group's rows of gbuf, in rising destination order (R243). -/
def Layer.gatherChan (l : Layer) (k ix : Nat) (g : Group) : Channel :=
  let x := l.xent
  let planes := tenPlanes x
  let elems := ((g.toks.zipIdx.flatMap fun t => (List.range planes).map fun p =>
    (t.1 * tenRstride x + p * tenPstride x, t.2 * tenRstride x + p * tenPstride x)).mergeSort fun a b => decide (a.2 ≤ b.2))
  let inner : TplLevel := { dstr := tenPstride x, dext := planes, sstr := tenPstride x, sext := planes }
  let outer : TplLevel := { dstr := tenRstride x, dext := tenRows x, sstr := tenRstride x, sext := tenRows x }
  { Channel.idle with
    use := .gather k ix, inst := l.inst, src := tenBase x, dst := (lbGbuf l.block + (4 * g.e + g.i) * lbMax l.block * tenRstride x) % 2 ^ 64
    tpl := { rowlvl := 1, esize := 8 * ceilDiv (tenCols x) 64, levels := [inner, outer] }, cmp := true, rows := g.toks, elems := elems, total := elems.length }

end Sys2Proof.Machine
end

