-- ==== Sys2Proof/Machine/MemInstr.lean ====
section
/-!
DEFINITION. The instructions of groups 7 and 8 that reach memory: loads, stores, prefetch, `spill` and `fill`, atomics, `wsig`, fences,
stash instructions and `pinwait` (R81, R82, R226 to R233, R270).
-/

namespace Sys2Proof.Machine



end Sys2Proof.Machine

namespace Sys2Proof

open Machine

/-- The address of an F128M instruction (R39). -/
def MemF.ea (o : MemF) (f : Frame) : Nat :=
  trunc ((o.a.get f : Int) + (if o.x.isNz then 0 else sext (o.x.get f) (4 * o.x.width)) + sext o.off.toNat 32) 64

end Sys2Proof

namespace Sys2Proof.Machine

/-- The slices the data operand of a load, store or atomic names (R81, R226). -/
def Jet.memSlots (j : Jet) (o : MemF) : Except Nat (List (Nat × Nat)) := j.dataSlots o.d (2 * o.nb)

end Sys2Proof.Machine

namespace Sys2Proof

open Machine

/-- The footprint of an F128M instruction whose data slots are `l`. -/
def MemF.footOf (o : MemF) (l : Except Nat (List (Nat × Nat))) (reads writes : Bool) : Foot :=
  let d := match l with | .ok x => x | .error _ => []
  let a := o.a.range ++ o.x.range ++ o.c.range
  { src := a ++ (if reads then d else [])
    rd := a ++ (if reads then d else [])
    dst := if writes then d else []
    cross := false
    bad := match l with | .ok _ => none | .error e => some e }

end Sys2Proof

namespace Sys2Proof.Machine

def Jet.loadFoot (j : Jet) (o : MemF) : Foot := MemF.footOf o (j.memSlots o) false true
def Jet.storeFoot (j : Jet) (o : MemF) : Foot := MemF.footOf o (j.memSlots o) true false
def Jet.amoFoot (j : Jet) (o : MemF) : Foot := MemF.footOf o (j.memSlots o) true true

/-- A list of slots that is known to resolve. -/
def slotsOf (l : Except Nat (List (Nat × Nat))) : List (Nat × Nat) := match l with | .ok x => x | .error _ => []

/-! ### Loads and stores -/

/-- A load (R226, R227, R267). -/
def State.load (s : State) (h : Hdr) (o : MemF) (signed acq : Bool) : Out :=
  s.guarded (s.cur.loadFoot o) fun s =>
    let va := MemF.ea o s.cur.frame
    s.accessAll h 16 [{ op := .load (signed && (match o.d with | .slice _ => true | .view _ _ => false)), va := va, nb := MemF.nb o, rep := va,
                        sc := o.scope, acq := acq, ov := o.kind, hint := o.hint, dst := slotsOf (s.cur.memSlots o),
                        direct := acq && o.scope != .tile }]

/-- `ld.z` (R226, R227). -/
def execLdZ (h : Hdr) (o : MemF) (s : State) : Out := s.load h o false false
/-- `ld.s` (R226, R227). -/
def execLdS (h : Hdr) (o : MemF) (s : State) : Out := s.load h o true false
/-- `ld.acq.z` (R226, R267). -/
def execLdAcqZ (h : Hdr) (o : MemF) (s : State) : Out := s.load h o false true
/-- `ld.acq.s` (R226, R267). -/
def execLdAcqS (h : Hdr) (o : MemF) (s : State) : Out := s.load h o true true

/-- A store (R226, R227, R268): the granules of a view source stay in pending-read, 16 slices a tc; the values are those
of the issue tc (R92). -/
def State.store (s : State) (h : Hdr) (o : MemF) (rel : Bool) : Out :=
  s.guarded (s.cur.storeFoot o) fun s =>
    let va := MemF.ea o s.cur.frame
    let l := slotsOf (s.cur.memSlots o)
    let now := match o.d with | .slice _ => true | .view _ _ => false
    s.accessAll h 16 [{ op := .store, va := va, nb := MemF.nb o, rep := va, sc := o.scope, rel := rel, ov := o.kind, hint := o.hint,
                        data := s.cur.frame.gather l % 2 ^ (8 * MemF.nb o), enables := fullEn (MemF.nb o),
                        from_ := s.tc, gather := if now then [] else l }]

/-- `st` (R226, R227). -/
def execSt (h : Hdr) (o : MemF) (s : State) : Out := s.store h o false
/-- `st.rel` (R226, R268). -/
def execStRel (h : Hdr) (o : MemF) (s : State) : Out := s.store h o true

/-- `pref` (R230): lines are brought nearer; a prefetch that would fault, or of a page that is not cached, is dropped. -/
def execPref (h : Hdr) (o : MemF) (s : State) : Out :=
  s.guarded (MemF.footOf o (.ok []) false false) fun s =>
    let va := MemF.ea o s.cur.frame
    let r : Req := { op := .pref, va := va, nb := MemF.nb o, rep := va, ov := o.kind, hint := o.hint }
    let s1 := match s.check s.curTile r with
      | .error _ => s
      | .ok none => s.enter r none true
      | .ok (some l) =>
        let keep := l.filter fun (p : Part) => p.path == Path.cached || p.path == Path.stash
        if keep.isEmpty then s else s.enter r (some keep) true
    s1.advance h 16

/-! ### spill and fill (R81, R82) -/

/-- The slices of a `spill` or `fill`: a slice operand's own, or twice the size of a view. -/
def Jet.spillSlots (j : Jet) (o : MemF) : Except Nat (List (Nat × Nat)) := j.dataSlots o.d (2 * o.nb)

/-- The length of its stream in nibbles: `nz` gives or takes as many as its width (R81). -/
def spillLen (o : MemF) : Nat := match o.d with | .slice d => d.width | .view _ _ => 2 * MemF.nb o

/-- A jet whose `spill` or `fill` goes on where it was stopped sees the view it latched at its issue (R72). -/
def Jet.spillView (j : Jet) (o : MemF) : Jet :=
  match j.spill, o.d with
  | some p, .view k _ => if p.stopped && p.pc == j.pc then j.setView k.toNat p.vd else j
  | _, _ => j

def Jet.spillFoot (j : Jet) (o : MemF) (fill : Bool) : Foot := MemF.footOf o ((j.spillView o).spillSlots o) (!fill) fill

/-- The progress with which a `spill` or `fill` begins: at beat 0, or where an interruption left it (R82, R388). -/
def Jet.spillFrom (j : Jet) (o : MemF) (fill : Bool) : SpillSt :=
  match j.spill with
  | some p =>
    if p.stopped && p.pc == j.pc then { p with stopped := false }
    else { pc := j.pc, fill := fill, o := o, vd := match o.d with | .view k _ => j.view k.toNat | .slice _ => 0,
           na := MemF.ea o j.frame, beat := 0, owedId := 0, stopped := false }
  | none => { pc := j.pc, fill := fill, o := o, vd := match o.d with | .view k _ => j.view k.toNat | .slice _ => 0,
              na := MemF.ea o j.frame, beat := 0, owedId := 0, stopped := false }

/-- The request of one beat: its bytes from nibble address `na + 16·beat`, with nibble enables at half bytes; the slices' values are those of the
issue tc (R92), and `nz` gives zeros. -/
def beatReq (p : SpillSt) (f : Frame) (l : List (Nat × Nat)) (tc beat : Nat) : Req :=
  let runs := beatRuns l beat
  let n := min 16 (spillLen p.o - 16 * beat)
  let na := (p.na + 16 * beat) % 2 ^ 64
  { op := if p.fill then .fillBeat else .store, va := na / 2, nb := (n + na % 2 + 1) / 2, rep := na, ov := p.o.kind, hint := p.o.hint,
    data := if p.fill then 0 else f.gather runs * 2 ^ (4 * (na % 2)), enables := (2 ^ n - 1) * 2 ^ (na % 2), dst := if p.fill then runs else [],
    from_ := tc + (beat - p.beat), gather := if p.fill then [] else runs, beat := some beat }

/-- `spill` and `fill`: one access a beat, each checked in its own tc. -/
def State.spillFill (s : State) (h : Hdr) (o : MemF) (fill : Bool) : Out :=
  s.guarded (s.cur.spillFoot o fill) fun s =>
    let p := s.cur.spillFrom o fill
    let l := slotsOf ((s.cur.spillView o).spillSlots o)
    let beats := (List.range (ceilDiv (spillLen o) 16)).filter fun b => decide (p.beat ≤ b)
    match beats with
    | [] => s.advance h 16
    | b :: bs =>
      let f := s.cur.frame
      let r := beatReq p f l s.tc b
      match s.check s.curTile r with
      | .error c => s.trap (dataFault c r.rep r.nb)
      | .ok x =>
        let s1 := (s.modCur fun j => { j with spill := some p }).enter r x true
        (bs.foldl (fun (s : State) b => s.enter (beatReq p f l s.tc b) none false) s1).advance h 16

/-- `spill` (R81, R82). -/
def execSpill (h : Hdr) (o : MemF) (s : State) : Out := s.spillFill h o false
/-- `fill` (R81, R82). -/
def execFill (h : Hdr) (o : MemF) (s : State) : Out := s.spillFill h o true

/-! ### Atomics (R228, R229) -/

def State.atomic (s : State) (h : Hdr) (o : MemF) (ar : Bool) : Out :=
  s.guarded (s.cur.amoFoot o) fun s =>
    let va := MemF.ea o s.cur.frame
    let l := slotsOf (s.cur.memSlots o)
    s.accessAll h 16 [{ op := .amo, va := va, nb := MemF.nb o, rep := va, sc := o.scope, acq := ar, rel := ar, ov := o.kind, hint := o.hint,
                        afn := o.afn.toNat, asigned := o.asigned, data := s.cur.frame.gather l, cmp := o.c.get s.cur.frame, dst := l }]

/-- `amo` (R228). -/
def execAmo (h : Hdr) (o : MemF) (s : State) : Out := s.atomic h o false
/-- `amo.ar` (R228, R267, R268). -/
def execAmoAr (h : Hdr) (o : MemF) (s : State) : Out := s.atomic h o true

/-- The elements of an aggregated atomic: n of R128, at most 256. -/
def Jet.aggElems (j : Jet) (o : MemF) : Except Nat (List (Nat × Nat)) :=
  match o.d with
  | .view k off =>
    match elemsAt j.limit (j.view k.toNat) ((List.range (min 256 (vCount (j.view k.toNat) - off.toNat))).map (off.toNat + ·)) with
    | .ok l => .ok (l.map fun s => (s, vWidth (j.view k.toNat)))
    | .error e => .error e
  | .slice _ => .ok []

/-- An offset at or past the view's end names an element that is not there (R71). -/
def Jet.aggFoot (j : Jet) (o : MemF) : Foot :=
  match o.d with
  | .view k off =>
    let v := j.view k.toNat
    let f := MemF.footOf o (j.aggElems o) true true
    { f with ill := if vWidth v = 2 * MemF.nb o then none else some 6
             bad := if off.toNat < vCount v then f.bad else some (trunc (elemSlice v off.toNat) 64) }
  | .slice _ => MemF.footOf o (.ok []) true true

/-- `amo.agg` (R229). -/
def execAmoAgg (h : Hdr) (o : MemF) (s : State) : Out :=
  s.guarded (s.cur.aggFoot o) fun s =>
    let va := MemF.ea o s.cur.frame
    let l := slotsOf (s.cur.aggElems o)
    let a := l.map fun e => s.cur.frame.read e.1 e.2
    s.accessAll h 16 [{ op := .agg a, va := va, nb := MemF.nb o, rep := va, sc := o.scope, ov := o.kind, hint := o.hint,
                        afn := o.afn.toNat, data := a.sum, dst := l }]

/-! ### wsig (R232) -/

end Sys2Proof.Machine

namespace Sys2Proof

open Machine

def WsigF.nb (o : WsigF) : Nat := 8 * 2 ^ o.size.toNat
def WsigF.foot (o : WsigF) : Foot :=
  let p := SliceOp.run o.d (2 * WsigF.nb o)
  let a := o.a.range ++ o.b.range ++ o.c.range
  { src := p ++ a, rd := p ++ a }

end Sys2Proof

namespace Sys2Proof.Machine

/-- `wsig`: the payload goes to its home as one write a line, and the flag is applied after every line is acknowledged. -/
def execWsig (h : Hdr) (o : WsigF) (s : State) : Out :=
  s.guarded (WsigF.foot o) fun s =>
    let f := s.cur.frame
    let nf := if o.f8 then 8 else 4
    let c := o.c.get f
    let pa := o.a.get f
    let fa := o.b.get f
    s.accessAll h 16
      [{ op := .store, va := pa, nb := WsigF.nb o, rep := pa, enables := fullEn (WsigF.nb o), from_ := s.tc,
         data := SliceOp.getRun o.d f (2 * WsigF.nb o), gather := SliceOp.run o.d (2 * WsigF.nb o), direct := true },
       { op := .wsigFlag, va := fa, nb := nf, rep := fa, sc := o.scope, rel := true, afn := o.fn.toNat, data := c, cmp := c, direct := true }]

/-! ### Fences (R270) -/

def State.fence (s : State) (h : Hdr) (all : Bool) (sc : Scope) : Out :=
  s.guarded {} fun s =>
    let p := s.take
    (p.2.modHere fun x => { x with fences := x.fences ++ [⟨s.cur.key, p.1, all, sc, false⟩] }).advance h 8

/-- `fence` (R270). -/
def execFence (h : Hdr) (sc : Scope) (s : State) : Out := s.fence h false sc
/-- `fence.all` (R270). -/
def execFenceAll (h : Hdr) (sc : Scope) (s : State) : Out := s.fence h true sc

/-! ### Stash instructions (R231) -/

def stashFoot (o : R3) : Foot := footV o.d [o.a, o.b] 1

/-- Stash lines that meet `[a, a + n)` by their virtual tags. -/
def Tile.stashIn (x : Tile) (a n : Nat) : List StashLine :=
  x.stash.filter fun l => decide (a < 128 * l.va + 128) && decide (128 * l.va < a + n)

/-- Owned lines are written back to their homes; then they stay shared, or every line is dropped (R219, R220). -/
def State.stashClean (s : State) (t : Nat) (ls : List StashLine) (drop : Bool) : State :=
  ls.foldl (fun (s : State) l =>
    let s1 := if l.owned then s.stashHome l else s
    let s2 := s1.modTile t fun x => { x with
      stash := if drop then x.stash.filter (·.va != l.va) else x.stash.map fun m => if m.va = l.va then { m with owned := false } else m }
    s2.modStop (homeOf (128 * l.pa)) fun x =>
      if drop then x.dirLeave l.pa t
      else { x with dir := x.dir.map fun d => if d.line = l.pa ∧ d.owner = some t then { d with owner := none, sharers := [t] } else d }) s

/-- The tc until the write-backs of these lines are acknowledged. -/
def State.stashCost (_s : State) (t : Nat) (ls : List StashLine) : Nat :=
  ls.foldl (fun m l => if l.owned then max m (28 + wayCost t (homeOf (128 * l.pa))) else m) 1

/-- `stash.map` (R231). -/
def execStashMap (h : Hdr) (o : R3) (e : BitVec 3) (s : State) : Out :=
  s.guarded (stashFoot o) fun s =>
    let a := o.a.get s.cur.frame
    let n := o.b.get s.cur.frame
    let x := s.here
    let clash := n != 0 && x.stashMaps.any fun m => m.1 != e.toNat && match m.2 with
      | some (b, k) => decide (a < b + k) && decide (b < a + n)
      | none => false
    let st := if x.poolways = 0 then 1 else if a % 128 != 0 || n % 128 != 0 || decide (2 ^ 32 < n) then 2 else if clash then 3 else 0
    if st != 0 then (s.oweStatus 1 o.d st).advance h 16
    else
      let old := match Tbl.get none x.stashMaps e.toNat with | some (b, k) => x.stashIn b k | none => []
      let s1 := (s.stashClean s.curTile old true).modHere fun x =>
        { x with stashMaps := Tbl.set x.stashMaps e.toNat (if n = 0 then none else some (a, n)) }
      (s1.oweStatus (s.stashCost s.curTile old) o.d 0).advance h 16

/-- `stash.flush` (R231). -/
def execStashFlush (h : Hdr) (o : R3) (s : State) : Out :=
  s.guarded (stashFoot o) fun s =>
    let l := s.here.stashIn (o.a.get s.cur.frame) (o.b.get s.cur.frame)
    ((s.stashClean s.curTile l false).oweStatus (s.stashCost s.curTile l) o.d 0).advance h 16

/-- `stash.evict` (R231): lines filled until its status is written are dropped too. -/
def execStashEvict (h : Hdr) (o : R3) (s : State) : Out :=
  s.guarded (stashFoot o) fun s =>
    let a := o.a.get s.cur.frame
    let n := o.b.get s.cur.frame
    let l := s.here.stashIn a n
    let p := (s.stashClean s.curTile l true).oweLater o.d
    (p.2.after (s.stashCost s.curTile l) .statusResultWrite ⟨s.curTile, s.curSlot, p.1, 10, a + 2 ^ 64 * n⟩).advance h 16

/-! ### pinwait (R233) -/

/-- `pinwait`: status 1 for a range that is no memory, else status 0 once no line of it is pinned, at least 64 tc later. -/
def execPinwait (h : Hdr) (o : R3) (s : State) : Out :=
  s.guarded (footV o.d [o.a, o.b] 0) fun s =>
    let a := o.a.get s.cur.frame
    let n := o.b.get s.cur.frame
    if fld a 46 1 = 1 ∨ Config.dieBytes < fld a 0 40 + n then (s.oweStatus 4 o.d 1).advance h 16
    else
      let p := s.oweLater o.d
      (p.2.after 64 .pinwaitDone ⟨s.curTile, s.curSlot, p.1, n, a⟩).advance h 16

/-- `PINWAIT_DONE` (R233): the status is written in the first tc in which no line of the range is pinned. -/
def execPinwaitDone (s : State) : Out :=
  let f := s.focus
  let pinned := s.stops.any fun x => x.2.pins.any fun p => p.2 != 0 && decide (128 * p.1 < f.data + f.d) && decide (f.data < 128 * p.1 + 128)
  if pinned then .next (s.after 1 .pinwaitDone f) else .next (s.settle f.a f.b f.c 0 0)

end Sys2Proof.Machine
end

