-- ==== Sys2Proof/Machine/Network.lean ====
section
/-!
DEFINITION. The network (R278 to R291, R298, R300): routers and their choice of outputs, delivery at an endpoint, the acorn and the
overflow lane, the subnets and their governor, link retry, and the Lauc ports.
-/

namespace Sys2Proof.Machine

/-! ### Ports -/

/-- Whether stop `q` has a bridge port on this axis: 5 to the die beside, 6 to the die above or below (R17). -/
def bridgeAt (q port : Nat) : Bool :=
  let d := dieOf q
  if port = 5 then colOf q == (if d % 2 = 0 then 15 else 0) else rowOf q == (if d < 2 then 15 else 0)

/-- The stop of Lauc port `p`: two a die, on the outer row edge and on the outer column edge (R18; the numbers: log 13). -/
def laucStop (p : Nat) : Nat :=
  let d := p / 2 % 4
  if p % 2 = 0 then tileAt d (if d < 2 then 0 else 15) 8 else tileAt d 8 (if d % 2 = 0 then 0 else 15)

def laucAt (q : Nat) : Option Nat := (List.range 8).find? fun p => laucStop p == q

/-- The stop an output leads to, and the input it arrives at. -/
def acrossPort (q port : Nat) : Nat × Nat :=
  let d := dieOf q
  let r := rowOf q
  let c := colOf q
  match port with
  | 0 => (tileAt d r (c + 15), 2)
  | 1 => (tileAt d (r + 15) c, 3)
  | 2 => (tileAt d r (c + 1), 0)
  | 3 => (tileAt d (r + 1) c, 1)
  | 5 => (bridgeTo q (d ^^^ 1), 5)
  | 6 => (bridgeTo q (d ^^^ 2), 6)
  | _ => (q, 4)

/-- The input at which a packet from the neighbouring stop `p` arrives; 4 from the stop itself. -/
def portFrom (q p : Nat) : Nat := ([0, 1, 2, 3].find? fun o => (acrossPort q o).1 == p).getD 4

/-- The outputs of a stop that are links. -/
def portsOf (q : Nat) : List Nat :=
  [0, 1, 2, 3, 4] ++ ([5, 6].filter (bridgeAt q)) ++ (if (laucAt q).isSome then [7] else [])

/-! ### Productive outputs (R282) -/

/-- The torus directions that reduce the distance to a stop of the same die. -/
def torusDirs (q x : Nat) : List Nat :=
  let dc := (colOf x + 16 - colOf q) % 16
  let dr := (rowOf x + 16 - rowOf q) % 16
  (if dc = 0 then [] else if dc < 8 then [2] else if dc = 8 then [2, 0] else [0]) ++
    (if dr = 0 then [] else if dr < 8 then [3] else if dr = 8 then [3, 1] else [1])

/-- The outputs toward an adjacent die. -/
def towardDie (q e dst : Nat) : List Nat :=
  let x := exitStop (dieOf q) e dst
  if q = x then [if e = dieOf q ^^^ 1 then 5 else 6] else torusDirs q x

/-- The outputs toward a stop of this device, other than the stop itself. -/
def toward (q dst : Nat) : List Nat :=
  let d := dieOf q
  let e := dieOf dst
  if d = e then torusDirs q dst
  else if adjacent d e then towardDie q e dst
  else
    let a := towardDie q (d ^^^ 1) dst
    let b := towardDie q (d ^^^ 2) dst
    a ++ b.filter fun o => !a.contains o

/-- The Lauc port of this device towards another (R364); port 0 where no route has been written. -/
def State.laucPort (s : State) (ddev : Nat) : Nat := ((Tbl.get none s.dev.lroute ddev).getD 0).toNat % 8

def State.productive (s : State) (q : Nat) (k : Packet) : List Nat :=
  let l :=
    if k.ddev != s.dev.device.toNat then
      let x := laucStop (s.laucPort k.ddev)
      if q = x then [7] else toward q x
    else if k.dst = q then [4] else toward q k.dst
  l.filter fun o => !(s.stop q).fencedPorts.contains o

/-! ### Buffers (R281, R283) -/

/-- The number of an endpoint (R280 dport, sport). -/
def endpointIx : Endpoint → Nat
  | .tile => 0 | .l2 => 1 | .weir => 2 | .ni => 3 | .mgmt => 4 | .host => 5

def Stop.buf (x : Stop) (key : Nat) : List Packet := Tbl.get [] x.inputs key

/-- The slots of a buffer that are taken when the network cycle `nc` begins. -/
def Stop.taken0 (x : Stop) (key nc : Nat) : Nat :=
  let e := Tbl.get (0, 0, false) x.began key
  if e.1 = nc + 1 then e.2.1 else (x.buf key).length

/-- Whether a buffer's head has left it in the network cycle `nc`: one header a buffer in a cycle (R283). -/
def Stop.left0 (x : Stop) (key nc : Nat) : Bool := (Tbl.get (0, 0, false) x.began key) == (nc + 1, x.taken0 key nc, true)

/-- A buffer changes in the network cycle `nc`: what was taken at its start is kept for the choices of R283. `began` counts cycles from 1. -/
def Stop.setBuf (x : Stop) (key nc : Nat) (leaves : Bool) (l : List Packet) : Stop :=
  { x with
    inputs := Tbl.set x.inputs key l
    began := Tbl.set x.began key (nc + 1, x.taken0 key nc, leaves || x.left0 key nc) }

def Stop.tree (x : Stop) (tag root : Nat) : Option MergeEntry := x.merge.find? fun e => e.tag == tag && e.root == root
def MergeEntry.total (e : MergeEntry) : Nat := (e.fanin.map (·.2)).sum

/-- A partial that its merge unit can take: its entry is there, and its round is held or one of two. -/
def Stop.takesPartial (x : Stop) (k : Packet) : Bool :=
  match k.body with
  | .merge tag root l =>
    match x.tree tag root with
    | some e => e.rounds.any (fun r => r.round == fld l.toNat 408 8 && decide (r.got < e.total)) ||
        (!(e.rounds.any fun r => r.round == fld l.toNat 408 8) && decide (e.rounds.length < 2))
    | none => true
  | _ => true

/-- Whether two packets are partials of one tree. -/
def Pkt.sameTree (a b : Pkt) : Bool :=
  match a, b with
  | .merge t r _, .merge t' r' _ => t == t' && r == r'
  | _, _ => false

/-- Whether an endpoint accepts a packet: an L2 slice while its input queue has room (R221); a merge unit a partial whose round it holds or has
room for, and that stands behind no other (R296). -/
def Stop.accepts (x : Stop) (k : Packet) : Bool :=
  match k.dport with
  | .l2 => decide (x.missWait.length < 32)
  | _ => x.takesPartial k && !x.mergeIn.any fun e => e.2.body.sameTree k.body

/-- The packets of an endpoint that stand in the die's drain ring (R287). -/
def State.spilledFor (s : State) (q e : Nat) : List (Nat × Packet) := (s.die (dieOf q)).drainRing.filter fun p => p.1 == 8 * q + e

/-- Whether the endpoint's own drained packets come first (R286, R287). -/
def State.drainFirst (s : State) (q e : Nat) : Bool :=
  (Tbl.get none (s.stop q).reserved e).isSome || !(s.spilledFor q e).isEmpty

/-- Whether a packet keeps to subnet 0: joins, leaves and stream packets (R292). -/
def Packet.onZero (k : Packet) : Bool :=
  match k.body with
  | .mcJoin .. | .mcLine .. => true
  | _ => false

/-- Whether a die lets packets hop on a subnet (R288). -/
def Die.eligible (x : Die) (sub : Nat) : Bool := x.netctl.getLsbD sub && !x.draining.contains sub

/-- Free packet slots behind an output on a subnet as the network cycle began; 0 where the subnet is not eligible there (R281, R283, R289). -/
def State.freeAt (s : State) (q out sub : Nat) (k : Packet) : Nat :=
  if out = 4 then
    if (s.die (dieOf q)).eligible sub && (s.stop q).accepts k && !s.drainFirst q (endpointIx k.dport) then 2 else 0
  else if out = 7 then
    match laucAt q with
    | none => 0
    | some p => if (s.die (dieOf q)).eligible sub then 2 - (Tbl.get Lauc.empty s.dev.lauc p).out.length else 0
  else
    let n := acrossPort q out
    if (s.die (dieOf n.1)).eligible sub then 2 - (s.stop n.1).taken0 (8 * sub + n.2) s.nc else 0

/-- The order of outputs in a tie: local, bridge, Lauc, east, south, west, north (R283); of the two bridge ports of a corner stop the one to the
die beside comes before the one to the die above or below (R17; DESIGN CHOICE, log 19: R283 does not order the two). -/
def outRank (o : Nat) : Nat := ([4, 5, 6, 7, 2, 3, 0, 1].findIdx fun x => x == o)

/-- The output and subnet the router chooses for a head packet (R283). -/
def State.routeChoice (s : State) (q : Nat) (k : Packet) : Option (Nat × Nat) :=
  let subs := if k.onZero then [0] else [0, 1, 2, 3]
  let c := (s.productive q k).flatMap fun o => subs.filterMap fun sub =>
    let f := s.freeAt q o sub k
    if f = 0 then none else some (f, sub, o)
  (c.foldl (fun (b : Option (Nat × Nat × Nat)) e =>
    match b with
    | none => some e
    | some m => if m.1 < e.1 || (m.1 == e.1 && (decide (e.2.1 < m.2.1) || (e.2.1 == m.2.1 && decide (outRank e.2.2 < outRank m.2.2)))) then some e else b)
    none).map fun e => (e.2.2, e.2.1)

/-- The output by which dimension order leads on from `q` to `dst`, and the links it goes straight on (R286): within a die along the row first, then
along the column, the shorter way round, east or south in a tie; across dies the horizontal bridge first. 4 at the end. -/
def orderStep (q dst : Nat) : Nat × Nat :=
  let d := dieOf q
  let e := dieOf dst
  let inDie (x : Nat) : Nat × Nat :=
    let dc := (colOf x + 16 - colOf q) % 16
    let dr := (rowOf x + 16 - rowOf q) % 16
    if dc != 0 then (if dc ≤ 8 then (2, dc) else (0, 16 - dc)) else if dr = 0 then (4, 0) else if dr ≤ 8 then (3, dr) else (1, 16 - dr)
  if d = e then inDie dst
  else
    let m := if d % 2 != e % 2 then d ^^^ 1 else d ^^^ 2
    let x := exitStop d m dst
    if q = x then (if m = d ^^^ 1 then 5 else 6, 1) else inDie x

def orderNext (q dst : Nat) : Nat := (orderStep q dst).1

/-- The stops on the way by dimension order, the last one left out. -/
def orderPath (q dst : Nat) : Nat → List Nat
  | 0 => []
  | n + 1 => if orderNext q dst = 4 then [] else q :: orderPath (acrossPort q (orderNext q dst)).1 dst n

/-- Whether none of the next `n` links in a direction is fenced. -/
def State.arcWhole (s : State) (q o : Nat) : Nat → Bool
  | 0 => true
  | n + 1 => !(s.stop q).fencedPorts.contains o && s.arcWhole (acrossPort q o).1 o n

/-- The output by which a packet of the overflow lane goes on (R286): a fenced link is absent, so that the shorter way round is the one that is left
(R279). With both ways cut the packet waits at the link (DESIGN CHOICE, log 13). -/
def State.laneOut (s : State) (q dst : Nat) : Nat :=
  let o := orderStep q dst
  if o.1 < 4 ∧ !s.arcWhole q o.1 o.2 ∧ s.arcWhole q ((o.1 + 2) % 4) (16 - o.2) then (o.1 + 2) % 4 else o.1

/-- The stop at which a packet of the overflow lane ends: its destination, or its Lauc port. -/
def State.drainStop (s : State) (k : Packet) : Nat :=
  if k.ddev != s.dev.device.toNat then laucStop (s.laucPort k.ddev) else k.dst

/-- The link that the header of the captured packet leaves over now: its stop and output. -/
def State.laneNext (s : State) : Option (Nat × Nat) :=
  s.dev.acorn.held.bind fun c =>
    let o := s.laneOut c.stop (s.drainStop c.packet)
    if o = 4 ∨ s.nc ≤ c.since ∨ (s.stop c.stop).fencedPorts.contains o then none else some (c.stop, o)

/-- The time that one flit takes a bridge or Lauc port, in twentieths of a network cycle of 1.4 GHz: a bridge carries 256 GB/s, two flits in a
cycle of 2.0 GHz, a Lauc port 224 GB/s (R278). -/
def portUnit (out : Nat) : Nat := if out = 5 ∨ out = 6 then 7 else if out = 7 then 8 else 0

/-- Whether a port can begin a packet in this network cycle. -/
def Stop.portFree (x : Stop) (out nc : Nat) : Bool := decide (Tbl.get 0 x.portTime out < 20 * (nc + 1))

/-- A port is used by some flits. -/
def Stop.usePort (x : Stop) (out nc flits : Nat) : Stop :=
  { x with portTime := Tbl.set x.portTime out (max (Tbl.get 0 x.portTime out) (20 * nc) + portUnit out * flits) }

/-- Whether an output's link of a subnet is free for a new header in this network cycle. -/
def State.linkFree (s : State) (q out sub : Nat) : Bool :=
  decide (Tbl.get 0 (s.stop q).outBusy (8 * sub + out) ≤ s.nc) && (out == 7 || (s.stop q).portFree out s.nc)

/-- The time a buffer's head has waited (R284). -/
def State.timer (s : State) (q key : Nat) : Nat :=
  match (s.stop q).buf key with
  | [] => 0
  | k :: _ => s.nc - max k.readyAt (Tbl.get 0 (s.stop q).headSince key)

/-- The buffers that hold a head, in the order of R283: higher timer, then lower input; not one whose head has left in this cycle. -/
def State.headKeys (s : State) (q : Nat) : List Nat :=
  let l := (s.stop q).inputs.filterMap fun e => match e.2 with
    | k :: _ => if k.readyAt ≤ s.nc && !(s.stop q).left0 e.1 s.nc then some e.1 else none
    | [] => none
  let before (a b : Nat) : Bool :=
    decide (s.timer q b < s.timer q a) || (s.timer q a == s.timer q b && decide (a % 8 * 4 + a / 8 ≤ b % 8 * 4 + b / 8))
  l.mergeSort before

/-- A head that can leave now: its buffer, output and subnet. -/
def State.movable (s : State) (q : Nat) : Option (Nat × Nat × Nat) :=
  (s.headKeys q).findSome? fun key =>
    match (s.stop q).buf key with
    | [] => none
    | k :: _ =>
      match k.body with
      | .mcLine .. => none
      | _ => (s.routeChoice q k).bind fun c => if s.linkFree q c.1 c.2 then some (key, c.1, c.2) else none

/-- The subnet on which a packet of this stop's tile or slice enters its router: the emptiest, the lowest in a tie. -/
def State.entrySub (s : State) (q : Nat) (k : Packet) : Option Nat :=
  let room (sub : Nat) : Nat := if (s.die (dieOf q)).eligible sub then 2 - ((s.stop q).buf (8 * sub + 4)).length else 0
  ((if k.onZero then [0] else [0, 1, 2, 3]).foldl (fun (b : Option Nat) sub =>
    match b with
    | none => if room sub = 0 then none else some sub
    | some m => if room m < room sub then some sub else b) none)

/-- The first packet that is ready and can enter the network at a stop. -/
def State.entering (s : State) (q : Nat) : Option (Packet × Nat) :=
  (s.stop q).inject.findSome? fun k => if k.readyAt ≤ s.nc then (s.entrySub q k).map fun sub => (k, sub) else none

/-! ### Counters (R300) -/

def Stop.count (x : Stop) (i n : Nat) : Stop := { x with counters := Tbl.set x.counters i ((Tbl.get 0 x.counters i + n) % 2 ^ 48) }
def Die.count (x : Die) (i n : Nat) : Die := { x with dieCounters := Tbl.set x.dieCounters i ((Tbl.get 0 x.dieCounters i + n) % 2 ^ 48) }

/-! ### Delivery at an endpoint -/

/-- The jet key of an access of a tile, where its jet stands in a save-area entry (R355). -/
def Tile.savedAccess (x : Tile) (id : Nat) : Bool :=
  match x.access id with
  | none => false
  | some a => (x.saveOf a.jet).isSome

/-- A value comes back to a tile: to its jet, or to the jet's saved context (R225, R355). -/
def State.valueBack (s : State) (t id ix v : Nat) : State :=
  s.at_ (evenUp s.nc) (if (s.tile t).savedAccess id then .owedReturnSaved else .loadReturn) ⟨t, id, ix, 0, v⟩

/-- A tree join is answered: the leaf is joined, or it is no leaf (R295, R332). -/
def Tile.leafAnswered (x : Tile) (st tag root : Nat) : Tile :=
  let its (e : Nat × Nat × Bool) : Bool := e.1 == tag && e.2.1 == root
  let l := if st = 0 then x.mergeLeaves.map (fun e => if its e then (tag, root, true) else e) else x.mergeLeaves.filter (fun e => !its e)
  { x with mergeLeaves := l }

/-- A packet enters its endpoint. -/
def State.deliver (s : State) (q : Nat) (k : Packet) : State :=
  match k.body with
  | .read t id ix _ nb =>
    match k.dport with
    | .host =>
      -- the host answers a read of an I/O page: its data are free (log 8)
      let (v, s1) := s.draw
      let s2 := if k.sdev = s.dev.device.toNat then s1.markPerformed t id ix else s1
      s2.answerBy .host k.sdev q t (payFlits nb) 0 (.readResp t id ix (v % 2 ^ (8 * nb)))
    | _ => s.modStop q fun x => { x with l2In := x.l2In ++ [k] }
  | .write t ids line _ _ =>
    match k.dport with
    | .host =>
      -- accepted by the agent: performed at device scope; its target acknowledges it some time later (R261)
      let s1 := if k.sdev = s.dev.device.toNat then s.modTile t fun x => { x with acc := x.acc.map fun a => if ids.contains a.id then
        { a with parts := a.parts.map fun p => if p.path == .bypass && p.addr / 128 == line then { p with performed := true } else p } else a } else s
      let (d, s2) := s1.drawDelay
      s2.answerBy .host k.sdev q t 1 (2 * d) (.writeAck t line ids)
    | _ => s.modStop q fun x => { x with l2In := x.l2In ++ [k] }
  | .atomic .. => s.modStop q fun x => { x with l2In := x.l2In ++ [k] }
  | .readResp t id ix v => if 2 ^ 66 ≤ id then s.unitBack t id v 0 else s.valueBack t id ix v
  | .fault t id ix c => if 2 ^ 66 ≤ id then s.unitBack t id 0 c else s.at_ (evenUp s.nc) .loadReturn ⟨t, id, c, 3, ix⟩
  | .atomicResp t id old fl =>
    (s.modAcc t id fun a => { a with flags := a.flags ||| BitVec.ofNat 5 fl }).valueBack t id 0 old
  | .writeAck t line ids =>
    let n := ids.headD 0
    if 2 ^ 66 ≤ n then s.unitBack t n 0 0
    else if 2 ^ 65 ≤ n then s.at_ (evenUp s.nc) .landingWrite ⟨t, (n - 2 ^ 65) % 8, 1, (n - 2 ^ 65) / 8, 0⟩
    else s.at_ (evenUp s.nc) .writeAck ⟨t, line, n, 0, 0⟩
  | .poolReq t id ix op a nb =>
    -- a copy's source read is performed by its own event, against the pool's guard
    match (if unitKind id = 2 && op == .read && k.sdev == s.dev.device.toNat then (s.tile t).pieceOf (id % 2 ^ 66) else none) with
    | some (ch, acc, p) => s.at_ (evenUp s.nc) .copyReadReturn ⟨t, ch, p.elem, p.off, acc⟩
    | none => s.modTile q fun x => { x with poolIn := x.poolIn ++ [⟨k.sdev, t, id, ix, op, a, nb, s.nc, false, false⟩] }
  | .send m => if k.dport = .mgmt then s.pageArrives m else s.modTile q fun x => x.modWeir fun w => { w with netIn := w.netIn ++ [m] }
  | .sendAck h n retry =>
    match k.dport with
    | .host => s.modDev fun d => { d with
        hostWins := if retry then d.hostWins
          else Tbl.set d.hostWins h.toNat (let w := Tbl.get ⟨0, []⟩ d.hostWins h.toNat; { w with unacked := w.unacked.filter (· != n) })
        hostSent := if retry then d.hostSent.map fun m => if m.1.handle = h ∧ m.1.seq = n then (m.1, true) else m
          else d.hostSent.filter fun m => !(m.1.handle == h && m.1.seq == n) }
    | _ => s.at_ (evenUp s.nc) .sendAck ⟨q, h.toNat, n, b2n retry, 0⟩
  | .mcJoin .. => s.modStop q fun x => { x with joinIn := x.joinIn ++ [(portFrom q k.src, k)] }
  | .mcJoinAck tag st at_ => s.at_ (evenUp s.nc) .mcJoinAck ⟨q, tag, st, at_, 0⟩
  | .mcRequest .. => s.modStop q fun x => { x with streamWait := x.streamWait ++ [k] }
  | .mcAnswer slot id st => s.settle q slot id 0 st
  | .mcLine .. => s.modStop q fun x => { x with mcIn := x.mcIn ++ [{ k with readyAt := s.nc + 2 }] }
  | .merge .. => s.modStop q fun x => { x with mergeIn := x.mergeIn ++ [(portFrom q k.src, k)] }
  | .mergeJoin .. => s.modStop q fun x => { x with treeIn := x.treeIn ++ [(portFrom q k.src, k)] }
  | .mergeAck slot id st tag root => (s.settle q slot id 0 st).modTile q fun x => x.leafAnswered st tag root
  | .work w => s.modTile q fun x => { x with workIn := x.workIn ++ [(s.nc, w)] }
  | .refusal t id ix => s.at_ (evenUp s.nc) .writeRefusalResend ⟨t, id, ix, 0, 0⟩
  | .malformed => s

/-! ### Forwarding (R281, R283) -/

/-- The head of a buffer leaves it in the cycle `nc`: its timer returns to 0 and counts from `since` (R284). -/
def Stop.pop (x : Stop) (key nc since : Nat) : Stop :=
  { x.setBuf key nc true (x.buf key).tail with
    headSince := Tbl.set x.headSince key since
    expired := x.expired.erase key }

/-- A link is used by a packet: one flit a network cycle behind its header, after what is on the link (R281, R286). -/
def Stop.use (x : Stop) (out sub nc flits : Nat) : Stop :=
  let y := if out = 5 ∨ out = 6 then x.usePort out nc flits else x
  { y.count sub flits with
    outBusy := Tbl.set x.outBusy (8 * sub + out) (max (Tbl.get 0 x.outBusy (8 * sub + out)) nc + flits)
    busyFlits := x.busyFlits + flits
    linkFails := Tbl.del x.linkFails out }

/-- A packet leaves stop `q` through an output. -/
def State.forwardOut (s : State) (q out sub : Nat) (k : Packet) : State :=
  let s1 := s.modStop q fun x => x.use out sub s.nc k.flits
  if out = 4 then s1.deliver q k
  else if out = 7 then s1.toLauc ((laucAt q).getD 0) k
  else
    let n := acrossPort q out
    let key := 8 * sub + n.2
    s1.modStop n.1 fun x => x.setBuf key s.nc false (x.buf key ++ [{ k with readyAt := s.nc + (if out = 5 ∨ out = 6 then 16 else 1) }])

/-- A captured packet's header leaves over the next link of its path: its flits take the next flit slots of subnet 0, and normal flits wait
(R286). -/
def State.laneStep (s : State) : State :=
  match s.laneNext, s.dev.acorn.held with
  | some (q, out), some c => (s.modStop q fun x => x.use out 0 s.nc c.packet.flits).modDev fun d =>
      { d with acorn := { d.acorn with held := some { c with stop := (acrossPort q out).1, since := s.nc + (if out = 5 ∨ out = 6 then 15 else 0) } } }
  | _, _ => s

/-- The type of a packet (R280). An access to a pool is a read, a write or an atomic; a response that carries a cause is a response; a notice to a
multicast or merge leaf is of the type of the join it answers. -/
def Pkt.typ (b : Pkt) : Nat :=
  match b with
  | .read .. => 0
  | .readResp .. | .fault .. => 1
  | .write .. => 2
  | .writeAck .. | .refusal .. => 3
  | .atomic .. => 4
  | .atomicResp .. => 5
  | .poolReq _ _ _ op _ _ => match op with | .read => 0 | .write .. | .land .. => 2 | _ => 4
  | .send _ => 6
  | .sendAck .. => 7
  | .mcJoin .. | .mcJoinAck .. | .mergeJoin .. | .mergeAck .. => 8
  | .mcLine .. => 9
  | .merge .. => 10
  | .work _ => 11
  | .mcRequest .. | .mcAnswer .. => 12
  | .malformed => 14

/-- The multicast or merge tag of a packet, 0 otherwise (R280). -/
def Pkt.tag (b : Pkt) : Nat :=
  match b with
  | .mcJoin _ t _ _ _ | .mcJoinAck t _ _ | .mcRequest _ t _ _ _ _ _ | .mcLine _ t _ _ _ _ _ | .merge t _ _ | .mergeJoin _ t _ _ _ _ _ _ _ | .mergeAck _ _ _ t _ => t % 4096
  | _ => 0

/-- The route word of a packet (R280). -/
def Packet.routeWord (k : Packet) : BitVec 64 :=
  let at_ (q : Nat) : Nat := dieOf q * 2 ^ 8 + rowOf q * 2 ^ 4 + colOf q
  BitVec.ofNat 64 (k.body.typ * 2 ^ 60 + (k.flits - 1) % 8 * 2 ^ 57 + b2n k.drained * 2 ^ 56 + k.ddev % 16 * 2 ^ 52 + at_ k.dst % 2 ^ 10 * 2 ^ 42 +
    endpointIx k.dport * 2 ^ 39 + k.sdev % 16 * 2 ^ 35 + at_ k.src % 2 ^ 10 * 2 ^ 25 + endpointIx k.sport * 2 ^ 22 + k.body.tag * 2 ^ 10)

def State.laucOf (s : State) (p : Nat) : Lauc := Tbl.get Lauc.empty s.dev.lauc p

/-- Whether a Lauc port can send: a packet, a credit and the rate of R278 allow it. -/
def State.laucReady (s : State) (p : Nat) : Bool :=
  !(s.laucOf p).out.isEmpty && decide (0 < (s.laucOf p).credits) && !(s.stop (laucStop p)).fencedPorts.contains 7 && (s.stop (laucStop p)).portFree 7 s.nc

/-- A Lauc port sends its next packet against a credit; the header is across 160 nc later, the cable's flight time not counted (R278, R290). -/
def State.laucSend (s : State) (p : Nat) : State :=
  let l := s.laucOf p
  match l.out with
  | [] => s
  | k :: r =>
    (s.modStop (laucStop p) fun x => x.usePort 7 s.nc k.flits).modDev fun d =>
      { d with lauc := Tbl.set d.lauc p { l with out := r, credits := l.credits - 1, sent := l.sent ++ [(k.routeWord, { k with readyAt := s.nc + 160 })] } }

/-- A slot of a Lauc port's receive buffer is free again: a credit goes back to the peer (R290). -/
def State.creditBack (s : State) (p : Nat) : State :=
  s.modDev fun d => { d with lauc := Tbl.set d.lauc p (let l := s.laucOf p; { l with freed := l.freed + 1 }) }

/-- The head of an input buffer leaves it. -/
def State.popAt (s : State) (q key since : Nat) : State :=
  let s1 := s.modStop q fun x => x.pop key s.nc since
  match laucAt q with
  | some p => if key = 7 then s1.creditBack p else s1
  | none => s1

/-- The drained packet of an endpoint that it can take from its reserved buffer, nothing of its own standing in the drain ring. -/
def State.reservedReady (s : State) (q : Nat) : Option (Nat × Packet) :=
  (s.stop q).reserved.findSome? fun e => match e.2 with
    | some k => if (s.stop q).accepts k && (s.spilledFor q e.1).isEmpty then some (e.1, k) else none
    | none => none

/-- A stream copy that can leave over its port now: each port's copies leave in order, on subnet 0 (R292). -/
def State.copyReady (s : State) (q : Nat) : Option (Nat × Packet × Nat) :=
  (s.stop q).mcOut.find? fun e =>
    s.linkFree q e.1 0 && !(s.stop q).fencedPorts.contains e.1 &&
      (if e.1 = 4 then !s.drainFirst q (endpointIx e.2.1.dport) else decide (((s.stop (acrossPort q e.1).1).buf (acrossPort q e.1).2).length < 2))

/-- Whether a stop's Lauc port can send. -/
def State.laucAtReady (s : State) (q : Nat) : Bool :=
  match laucAt q with
  | some p => s.laucReady p
  | none => false

/-- Whether a router has something to do in this network cycle. -/
def State.canForward (s : State) (q : Nat) : Bool :=
  (s.reservedReady q).isSome || (s.copyReady q).isSome || (s.entering q).isSome || (s.movable q).isSome ||
    s.laneNext.any (fun e => e.1 == q) || s.laucAtReady q

/-- A stop at which the overflow lane or a Lauc port has something to do. -/
def State.fabricStop (s : State) : Option Nat :=
  (s.laneNext.map (·.1)).or ((s.dev.lauc.find? fun e => s.laucReady e.1).map fun e => laucStop e.1)

/-- `ROUTER_FORWARD` (R281 to R283, R286, R290): a captured packet passes on, or a packet leaves a reserved landing buffer for its endpoint,
enters the router, leaves it, or leaves the device. -/
def execRouterForward (s : State) : Out :=
  let q := s.focus.a
  if s.laneNext.any (fun e => e.1 == q) then .next s.laneStep
  else
  match s.reservedReady q with
  | some (e, k) => .next ((s.modStop q fun x => { x with reserved := Tbl.set x.reserved e none }).deliver q k)
  | none =>
    match s.copyReady q with
    | some e => .next ((s.modStop q fun x => { x with mcOut := x.mcOut.erase e }).forwardOut q e.1 0 e.2.1)
    | none =>
    match s.entering q with
    | some (k, sub) =>
      .next (s.modStop q fun x => { x.setBuf (8 * sub + 4) s.nc false (x.buf (8 * sub + 4) ++ [k]) with inject := x.inject.erase k })
    | none =>
      match s.movable q with
      | none =>
        match laucAt q with
        | some p => if s.laucReady p then .next (s.laucSend p) else .next s
        | none => .next s
      | some (key, out, sub) =>
        match (s.stop q).buf key with
        | [] => .next s
        | k :: _ => .next ((s.popAt q key s.nc).forwardOut q out sub k)

/-! ### Deadlock recovery (R284 to R287) -/

def Die.thresh (x : Die) : Nat := fld x.netctl.toNat 32 16

/-- A buffer whose timer has reached the threshold and is not noted yet. -/
def State.expiring (s : State) (q : Nat) : Option Nat :=
  ((s.stop q).inputs.find? fun e => !e.2.isEmpty && !(s.stop q).expired.contains e.1 &&
    decide ((s.die (dieOf q)).thresh ≤ s.timer q e.1)).map (·.1)

/-- `INPUT_TIMER_EXPIRY` (R284): the stop raises its request. -/
def execInputTimerExpiry (s : State) : Out :=
  let q := s.focus.a
  match s.expiring q with
  | none => .next s
  | some key => .next (s.modStop q fun x => { x.count 4 1 with expired := x.expired ++ [key] })

/-- The stop behind a stop in the acorn's ring, and the network cycles to it (R285). -/
def acornNext (p : Nat) : Nat × Nat :=
  let d := dieOf p
  let r := rowOf p
  let c := colOf p
  if r % 2 = 0 then (if c < 15 then (p + 1, 1) else (tileAt d (r + 1) c, 1))
  else if 0 < c then (p - 1, 1)
  else if r < 15 then (tileAt d (r + 1) 0, 1)
  else (tileAt (match d with | 0 => 1 | 1 => 3 | 3 => 2 | _ => 0) 0 0, 129)

/-- The head packet a stop would drain: the highest timer, ties in the order of inputs; never a stream copy (R286, R294). -/
def State.drainHead (s : State) (q : Nat) : Option (Nat × Packet) :=
  (s.headKeys q).findSome? fun key => (s.stop q).buf key |>.head?.bind fun k =>
    match k.body with
    | .mcLine .. => none
    | _ => some (key, k)

/-- Whether the free acorn stands at a stop that requests it. -/
def State.acornWanted (s : State) : Bool :=
  s.dev.acorn.held.isNone && decide (s.dev.acorn.wait ≤ s.nc) && !(s.stop s.dev.acorn.pos).expired.isEmpty && (s.drainHead s.dev.acorn.pos).isSome

/-- `ACORN_MOVE` (R285): the free acorn moves on. -/
def execAcornMove (s : State) : Out :=
  let n := acornNext s.dev.acorn.pos
  .next (s.modDev fun d => { d with acorn := ⟨n.1, s.nc + n.2, none⟩ })

/-- `ACORN_CAPTURE` (R286): the stop takes a head packet out of its input and sends it through the overflow lane. -/
def execAcornCapture (s : State) : Out :=
  let q := s.dev.acorn.pos
  match s.drainHead q with
  | none => .next s
  | some (key, k) =>
    .next ((((s.popAt q key (s.nc + 1)).modStop q fun x => x.count 5 1).modDev fun d =>
      { d with acorn := { d.acorn with held := some ⟨s.nc, q, { k with drained := true }, false⟩ } }))

/-- Whether a captured packet is whole in its endpoint's reserved buffer: its flits follow its header, one a network cycle. -/
def State.drainDue (s : State) (c : Capture) : Bool := c.stop == s.drainStop c.packet && decide (c.since + 1 + c.packet.flits ≤ s.nc)

/-- The acorn is free in the next network cycle and moves on. -/
def State.acornFree (s : State) : State :=
  let n := acornNext s.dev.acorn.pos
  s.modDev fun d => { d with acorn := ⟨n.1, s.nc + 1 + n.2, none⟩ }

def State.countDrain (s : State) (q : Nat) : State :=
  (s.modStop q fun x => x.count 6 1).modDie (dieOf q) fun d =>
    { d with drainedMs := d.drainedMs + 1, drainMsFrom := if d.drainedMs = 0 then s.dev.time / 1000000 else d.drainMsFrom }

/-- `OVERFLOW_DELIVERY` (R286, R287): the packet enters its endpoint's reserved buffer, whose occupant first goes to the drain ring; with the
ring full the acorn stays captured. A packet for another device enters its Lauc port's outbound side. -/
def execOverflowDelivery (s : State) : Out :=
  match s.dev.acorn.held with
  | none => .next s
  | some c =>
    let q := s.drainStop c.packet
    let d := dieOf q
    if c.packet.ddev != s.dev.device.toNat then
      .next ((s.toLauc ((laucAt q).getD 0) c.packet).countDrain q).acornFree
    else
      let e := endpointIx c.packet.dport
      match Tbl.get none (s.stop q).reserved e with
      | none => .next ((s.modStop q fun x => { x with reserved := Tbl.set x.reserved e (some c.packet) }).countDrain q).acornFree
      | some o =>
        if (s.die d).drainRing.length < 65536 then
          .next ((((s.modStop q fun x => { x.count 7 1 with reserved := Tbl.set x.reserved e (some c.packet) }).modDie d fun x =>
            { x with drainRing := x.drainRing ++ [(8 * q + e, o)] }).countDrain q).acornFree)
        else if c.full then .next s
        else .next ((s.journal 4 0 (256 * d) 0 65536).modDev fun x => { x with acorn := { x.acorn with held := some { c with full := true } } })

/-- The oldest spilled packet of each endpoint of a ring: those behind it wait (R287). -/
def oldestEach : List (Nat × Packet) → List Nat → List (Nat × Packet)
  | [], _ => []
  | e :: r, seen => if seen.contains e.1 then oldestEach r seen else e :: oldestEach r (e.1 :: seen)

/-- A spilled packet that its endpoint takes back: its oldest, once it accepts it (R287). -/
def State.readback (s : State) : Option (Nat × Nat × Packet) :=
  (List.range 4).findSome? fun d => (oldestEach (s.die d).drainRing []).findSome? fun e =>
    if (s.stop (e.1 / 8)).accepts e.2 then some (d, e.1, e.2) else none

/-- `DRAIN_RING_READBACK` (R287): an endpoint takes back its oldest spilled packet. -/
def execDrainRingReadback (s : State) : Out :=
  match s.readback with
  | none => .next s
  | some (d, key, k) => .next ((s.modDie d fun x => { x with drainRing := x.drainRing.erase (key, k) }).deliver (key / 8) k)

/-- The die that owes a record of a millisecond in which packets were drained. -/
def State.drainOwed (s : State) : Option Nat :=
  (List.range 4).find? fun d => decide (0 < (s.die d).drainedMs) && (s.die d).drainMsFrom != s.dev.time / 1000000

/-- `DRAIN_RECORD` (R287, R365). -/
def execDrainRecord (s : State) : Out :=
  let d := s.focus.a
  .next ((s.journal 4 0 (256 * d) 0 (s.die d).drainedMs).modDie d fun x => { x with drainedMs := 0 })

/-! ### Subnets and their governor (R288, R298) -/

/-- The average over a die of the busy fractions of its routers in the last 256 nc, in 1/256 (R288). -/
def State.busyAverage (s : State) (d : Nat) : Nat :=
  let k := ((List.range 4).filter fun i => (s.die d).netctl.getLsbD i).length
  ((List.range 256).map fun i =>
    let q := 256 * d + i
    min 256 ((s.stop q).busyFlits / ((portsOf q).length * k))).sum / 256

/-- The next subnet to enable, and the highest enabled one. -/
def Die.nextSub (x : Die) : Option Nat := (List.range 4).find? fun i => !x.netctl.getLsbD i
def Die.topSub (x : Die) : Nat := ((List.range 4).filter fun i => x.netctl.getLsbD i).getLastD 0

/-- Powering up a subnet takes at most 2 µs: a free delay (log 4). -/
def State.raise (s : State) (d sub : Nat) : State :=
  let (n, s1) := s.drawDelay
  (s1.modDie d fun x => { x with rising := x.rising ++ [sub] }).at_ (s.nc + 1 + n % 2800) .subnetEnable ⟨d, sub, 0, 0, 0⟩

/-- The next change of the mask that the host asks for in host-assisted mode, one at a time: subnets are enabled in ascending order, then others
drained in descending order (R288). -/
def State.nextChange (s : State) (d : Nat) : State :=
  let x := s.die d
  if fld x.netctl.toNat 7 1 = 0 ∨ !x.rising.isEmpty ∨ !x.draining.isEmpty then s
  else
    match (List.range 4).find? fun i => x.want.testBit i && !x.netctl.getLsbD i with
    | some sub => s.raise d sub
    | none =>
      match ((List.range 4).filter fun i => !x.want.testBit i && x.netctl.getLsbD i).getLast? with
      | some sub => s.modDie d fun y => { y with draining := [sub] }
      | none => s

/-- `GOVERNOR_REPORT` (R288): the routers of a die report; the governor starts a change when its condition holds, one at a time, and not in
host-assisted mode. 64 µs are 350 reports. The reports in a row at or above the on-threshold are those with the subnets that are enabled now:
none counts while a change is in progress. -/
def execGovernorReport (s : State) : Out :=
  let d := s.focus.a
  let avg := s.busyAverage d
  let x := s.die d
  let ctl := x.netctl.toNat
  let busy := !x.rising.isEmpty || !x.draining.isEmpty
  let hi := if fld ctl 24 8 ≤ avg ∧ !busy then x.govHigh + 1 else 0
  let lo := if avg < fld ctl 16 8 then x.govLow + 1 else 0
  let s1 := (List.range 256).foldl (fun (s : State) i =>
    if (s.stop (256 * d + i)).busyFlits = 0 then s else s.modStop (256 * d + i) fun x => { x with busyFlits := 0 }) s
  let s2 := s1.modDie d fun x => { x with govHigh := hi, govLow := lo }
  if fld ctl 7 1 = 1 || busy then .next s2
  else if fld ctl 8 8 ≤ hi && x.nextSub.isSome then .next ((s2.modDie d fun x => { x with govHigh := 0 }).raise d (x.nextSub.getD 0))
  else if 350 ≤ lo && x.topSub != 0 then .next (s2.modDie d fun y => { y with draining := [x.topSub], govLow := 0 })
  else .next s2

/-- `SUBNET_ENABLE` (R288): the subnet is eligible at every router of the die. -/
def execSubnetEnable (s : State) : Out :=
  let f := s.focus
  .next ((s.modDie f.a fun x => { x.count 0 1 with netctl := x.netctl ||| BitVec.ofNat 64 (2 ^ f.b), rising := x.rising.erase f.b }).nextChange f.a)

/-- A draining subnet whose every buffer on the die is empty. -/
def State.drainedSub (s : State) (d : Nat) : Option Nat :=
  (s.die d).draining.find? fun sub => (s.stops.all fun e => dieOf e.1 != d || e.2.inputs.all fun b => b.1 / 8 != sub || b.2.isEmpty)

/-- `SUBNET_DISABLE` (R288). -/
def execSubnetDisable (s : State) : Out :=
  let d := s.focus.a
  match s.drainedSub d with
  | none => .next s
  | some sub => .next ((s.modDie d fun x =>
      { x.count 1 1 with netctl := BitVec.ofNat 64 (x.netctl.toNat - (if x.netctl.getLsbD sub then 2 ^ sub else 0)), draining := x.draining.erase sub }).nextChange d)

/-- A timer that stands below a new threshold no longer asks for the acorn (R284, R298). -/
def State.lowerRequests (s : State) (d : Nat) : State :=
  (s.stops.filter fun e => dieOf e.1 == d).foldl (fun (s : State) e =>
    s.modStop e.1 fun x => { x with expired := x.expired.filter fun key => decide ((s.die d).thresh ≤ s.timer e.1 key) }) s

/-- A write of `netctl` (R298): clamped fields; the subnet mask only in host-assisted mode, where an added subnet is powered up and a removed
one drains first, one change at a time (R288). -/
def State.writeNetctl (s : State) (d v : Nat) : State :=
  let thresh := max 256 (fld v 32 16)
  let onth := max 1 (fld v 24 8)
  let offth := if onth ≤ fld v 16 8 then onth - 1 else fld v 16 8
  let window := max 1 (fld v 8 8)
  let mask := fld (s.die d).netctl.toNat 0 4
  let n := thresh * 2 ^ 32 + onth * 2 ^ 24 + offth * 2 ^ 16 + window * 2 ^ 8 + fld v 6 2 * 2 ^ 6 + mask
  let s1 := (s.modDie d fun x => { x with netctl := BitVec.ofNat 64 n }).lowerRequests d
  if fld v 7 1 = 0 then s1 else (s1.modDie d fun x => { x with want := fld v 0 4 ||| 1 }).nextChange d

/-- `THRESHOLD_TUNING` (R298, R367): with tmode 0, and with the duty in hardware mode, Skelon adjusts a die's threshold; the spec gives no formula, so its new value is free (log 8). -/
def execThresholdTuning (s : State) : Out :=
  let d := s.focus.a
  if fld (s.die d).netctl.toNat 6 1 = 1 ∨ s.dev.duty.getLsbD 6 then .next s
  else
    let (v, s1) := s.draw
    .next ((s1.modDie d fun x =>
      { x with netctl := BitVec.ofNat 64 (x.netctl.toNat % 2 ^ 32 + (256 + v % 65280) * 2 ^ 32) }).lowerRequests d)

/-! ### Links and Lauc ports (R279, R280, R290) -/

/-- `LINK_RETRY` (R279): a flit on an output (focus: stop, port, subnet) failed its CRC and is resent, 8 nc later; after 8 consecutive
failures the link is fenced. Each failure is an error of the link, which starts its test (R361). -/
def execLinkRetry (s : State) : Out :=
  let f := s.focus
  let q := f.a
  let n := Tbl.get 0 (s.stop q).linkFails f.b + 1
  let across := acrossPort q f.b
  let late (l : List Packet) : List Packet := match l.reverse with
    | k :: r => ({ k with readyAt := k.readyAt + 8 } :: r).reverse
    | [] => []
  let s1 := s.modStop q fun x => { x.count 11 1 with
    linkFails := Tbl.set x.linkFails f.b n
    outBusy := Tbl.set x.outBusy (8 * f.c + f.b) (Tbl.get 0 x.outBusy (8 * f.c + f.b) + 8) }
  let s2 := if f.b = 4 ∨ 7 < f.b then s1
    else if f.b = 7 then
      match laucAt q with
      | none => s1
      | some p => s1.modDev fun d =>
        let l := Tbl.get Lauc.empty d.lauc p
        { d with lauc := Tbl.set d.lauc p { l with sent := match l.sent.reverse with
            | e :: r => ((e.1, { e.2 with readyAt := e.2.readyAt + 8 }) :: r).reverse
            | [] => [] } }
    else s1.modStop across.1 fun x => { x with inputs := Tbl.set x.inputs (8 * f.c + across.2) (late (x.buf (8 * f.c + across.2))) }
  let s3 := if n < 8 then s2 else s2.modStop q fun x => { x with
    fencedPorts := if x.fencedPorts.contains f.b then x.fencedPorts else x.fencedPorts ++ [f.b], linkFails := Tbl.del x.linkFails f.b }
  .next (s3.at_ (evenUp s.nc) .eccError ⟨q, 10, f.b, 0, 0⟩)

/-- The endpoints by number (R280 dport, sport). -/
def endpointOf (n : Nat) : Endpoint :=
  match n with
  | 0 => .tile | 1 => .l2 | 2 => .weir | 3 => .ni | 4 => .mgmt | _ => .host

/-- Whether a route word has a reserved type, dport or dflits, or a nonzero reserved field (R280). -/
def routeBad (w : BitVec 64) : Bool :=
  decide (14 ≤ fld w.toNat 60 4) || decide (5 ≤ fld w.toNat 57 3) || decide (6 ≤ fld w.toNat 39 3) || fld w.toNat 0 10 != 0

/-- A packet as its route word describes it: flits, drained, destination and source (R280). -/
def Packet.routed (k : Packet) (w : BitVec 64) : Packet :=
  let f := fld w.toNat
  { k with
    flits := f 57 3 + 1, drained := f 56 1 == 1, ddev := f 52 4, dst := tileAt (f 50 2) (f 46 4) (f 42 4), dport := endpointOf (f 39 3)
    sdev := f 35 4, src := tileAt (f 33 2) (f 29 4) (f 25 4), sport := endpointOf (f 22 3) }

/-- `MALFORMED_PACKET` (R280): a packet of a faulty peer is removed at the stop of its Lauc port, counted and journaled; the slot it took is
free again. -/
def execMalformedPacket (s : State) : Out :=
  let p := s.focus.a
  .next (((((s.modDev fun d =>
    let l := Tbl.get Lauc.empty d.lauc p
    { d with lauc := Tbl.set d.lauc p { l with linkIn := l.linkIn.drop 1 } }).creditBack p).modStop (laucStop p) fun x => x.count 12 1).journal
      2 2 (laucStop p) 0 1))

/-- What a packet from another device says of its sender. -/
def Packet.fromPort (k : Packet) (p : Nat) : Packet :=
  match k.body with
  | .send m => { k with body := .send { m with src := if k.sport = .host then .peerHost p k.sdev else .lauc p k.sdev k.src } }
  | _ => k

/-- Whether the packet on a Lauc link is malformed: its route word, or content of no type. -/
def badHead (e : BitVec 64 × Packet) : Bool := routeBad e.1 || match e.2.body with | .malformed => true | _ => false

/-- A Lauc port that can take the packet on its link: a malformed one, or one its receive buffer of 256 has room for. -/
def State.laucHead (s : State) : Option (Nat × Bool) :=
  s.dev.lauc.findSome? fun e => e.2.linkIn.head?.bind fun h =>
    if h.2.readyAt ≤ s.nc && (badHead h || decide (((s.stop (laucStop e.1)).buf 7).length < 256)) then some (e.1, badHead h) else none

/-- `LAUC_INBOUND` (R290): the port takes a packet from the link into its receive buffer of 256 packets. -/
def execLaucInbound (s : State) : Out :=
  let p := s.focus.a
  let q := laucStop p
  let l := s.laucOf p
  match l.linkIn with
  | [] => .next s
  | (w, k) :: r =>
    if ((s.stop q).buf 7).length < 256 then
      .next ((s.modDev fun d => { d with lauc := Tbl.set d.lauc p { l with linkIn := r } }).modStop q fun x =>
        x.setBuf 7 s.nc false (x.buf 7 ++ [{ (k.routed w).fromPort p with readyAt := s.nc }]))
    else .next s

/-- `LAUC_CREDIT` (R290): a credit returns. -/
def execLaucCredit (s : State) : Out :=
  let p := s.focus.a
  .next (s.modDev fun d =>
    let l := Tbl.get Lauc.empty d.lauc p
    { d with lauc := Tbl.set d.lauc p { l with credits := l.credits + 1 } })

end Sys2Proof.Machine
end

