-- ==== Sys2Proof/Machine/Landing.lean ====
section
/-!
DEFINITION. The copy engine: templates, commands, landing channels and their guard (R236 to R253, R271), capabilities as an engine checks
them (R301, R302), and the instructions of group 9 for them.
-/

namespace Sys2Proof.Machine

/-! ### Templates (R237, R238) -/

def tplOf (r : Nat) : Template :=
  { rowlvl := fld r 488 3, esize := fld r 480 8 + 1
    levels := (List.range 5).map fun l =>
      { sext := fld r (96 * l) 16 + 1, sstr := sext (fld r (96 * l + 16) 32) 32, dext := fld r (96 * l + 48) 16 + 1, dstr := sext (fld r (96 * l + 64) 32) 32 } }

def Template.srcCount (x : Template) : Nat := x.levels.foldl (fun n l => n * l.sext) 1
def Template.dstCount (x : Template) : Nat := x.levels.foldl (fun n l => n * l.dext) 1

/-- The offset of element `k`, decomposed over extents and strides from the innermost level. -/
def offsetAt : List (Nat × Int) → Nat → Int
  | [], _ => 0
  | (e, d) :: r, k => (k % e : Nat) * d + offsetAt r (k / e)

def Template.so (x : Template) (k : Nat) : Int := offsetAt (x.levels.map fun l => (l.sext, l.sstr)) k
def Template.dof (x : Template) (k : Nat) : Int := offsetAt (x.levels.map fun l => (l.dext, l.dstr)) k

/-- Whether the destination offsets increase by at least an element: at each level that can step, its stride less what the levels
below it go back. -/
def rises (esize : Nat) : List TplLevel → Int → Bool
  | [], _ => true
  | l :: r, back => (l.dext == 1 || decide ((esize : Int) ≤ l.dstr - back)) && rises esize r (back + ((l.dext : Int) - 1) * l.dstr)

/-- The status of `ctpl`, the first that applies. -/
def tplStatus (r : Nat) : Nat :=
  let x := tplOf r
  if fld r 491 21 != 0 || decide (4 < x.rowlvl) then 1
  else if !rises x.esize x.levels 0 then 2
  else if x.srcCount != x.dstCount || decide (2 ^ 32 ≤ x.srcCount * x.esize) then 3
  else 0

/-- `ctpl` (R238). -/
def execCtpl (h : Hdr) (o : R2) (t : BitVec 6) (s : State) : Out :=
  s.guarded (footRun o.d o.a 128 []) fun s =>
    let r := SliceOp.getRun o.a s.cur.frame 128
    let st := tplStatus r
    let s1 := if st = 0 then s.modHere fun x => { x with templates := Tbl.set x.templates t.toNat (some (tplOf r)) } else s
    (s1.oweStatus 4 o.d st).advance h 16

/-! ### Commands (R239, R240) -/

def footCpy (o : CpyF) (m : List Nat) : Foot :=
  let r := o.a.range ++ o.b.range ++ o.c.range
  { src := r, rd := r, msrc := m }

/-- The command image a local `cpy` builds. -/
def cpyImage (o : CpyF) (f : Frame) (cmp : Bool) (rows : Nat) : Nat :=
  o.a.get f * 2 ^ 64 + o.b.get f * 2 ^ 128 + o.c.get f * 2 ^ 192 + o.tpl.toNat * 2 ^ 232 + o.ch.toNat * 2 ^ 240 + b2n cmp * 2 ^ 243 + rows * 2 ^ 256

/-! ### Capabilities (R301, R302) -/

/-- Whether a capability passes at an engine of the tile: bit 25 gives the right to the copy engine, bit 24 to the matrix engine. -/
def Tile.capOk (x : Tile) (cap : Nat) (copy : Bool) (issuer : Src) : Bool :=
  fld cap 32 32 == x.capkey.toNat && fld cap 27 1 == 0 && fld cap 0 8 == 0 && fld cap (if copy then 25 else 24) 1 == 1 &&
    match issuer with
    | .tile n => fld cap (28 + dieOf n) 1 == 1 && fld cap (8 + pondOf n % 16) 1 == 1
    | _ => fld cap 26 1 == 1

/-! ### The elements of a channel (R237, R243, R253) -/

/-- The elements of one row of a compacting copy: the product of the extents below the row level. -/
def Template.rowElems (x : Template) : Nat := (x.levels.take x.rowlvl).foldl (fun n l => n * l.sext) 1
def Template.rowSstr (x : Template) : Int := ((x.levels[x.rowlvl]?).map (·.sstr)).getD 0
def Template.rowDstr (x : Template) : Int := ((x.levels[x.rowlvl]?).map (·.dstr)).getD 0

/-- The source and destination offsets of the channel's element `k`. -/
def Channel.so (c : Channel) (k : Nat) : Int :=
  if !c.elems.isEmpty then ((c.elems[k]?).getD (0, 0)).1
  else if c.cmp then
    let e := c.tpl.rowElems
    ((c.rows[k / e]?).getD 0 : Nat) * c.tpl.rowSstr + c.tpl.so (k % e)
  else c.tpl.so k
def Channel.dof (c : Channel) (k : Nat) : Int :=
  if !c.elems.isEmpty then ((c.elems[k]?).getD (0, 0)).2
  else if c.cmp then
    let e := c.tpl.rowElems
    (k / e : Nat) * c.tpl.rowDstr + c.tpl.dof (k % e)
  else c.tpl.dof k

def Channel.srcVa (c : Channel) (k : Nat) : Nat := trunc ((c.src : Int) + c.so k) 64
def Channel.dstVa (c : Channel) (k : Nat) : Nat := trunc ((c.dst : Int) + c.dof k) 64

/-- The watermark once `k` elements have landed. -/
def Channel.wmAt (c : Channel) (k : Nat) : Nat := if k < c.total then c.dstVa k else c.winVa + (c.winHi - c.winLo)

/-- The count that `cstat` and the done message give: elements, or rows of a compacting copy. -/
def Channel.landedCount (c : Channel) (k : Nat) : Nat := if c.cmp then k / c.tpl.rowElems else k

/-! ### Windows (R241, R246, R248, R254) -/

/-- Whether a virtual address range touches a pool window (R208). -/
def touchesPool (a n : Nat) : Bool :=
  (decide (a < 2 ^ 20) || (decide (a < 2 ^ 40 + 2 ^ 34) && decide (2 ^ 40 < a + n))) && n != 0

/-- Whether a pool range touches a way whose removal from scratch is pending (R254). -/
def Tile.wayGoing (x : Tile) (p n : Nat) : Bool :=
  match x.wayPend with
  | none => false
  | some w => (List.range 16).any fun k => w.mask.getLsbD k && !x.poolways.getLsbD k && decide (65536 * k < p + n) && decide (p < 65536 * (k + 1))

/-- Whether a destination window is refused with status 3. -/
def State.windowBad (s : State) (t a n : Nat) : Bool :=
  touchesPool a n &&
    match poolOf s.dev.device.toNat t a with
    | none => true
    | some (d, o, p) =>
      decide (2 ^ 20 < p + n) || (d == s.dev.device.toNat && (!(s.tile o).scratch p n || (s.tile o).wayGoing p n))

/-- The pool of this device that a window lies in, with its position there. -/
def State.poolAt (s : State) (t a : Nat) : Option (Nat × Nat) :=
  match poolOf s.dev.device.toNat t a with
  | some (d, o, p) => if d = s.dev.device.toNat then some (o, p) else none
  | none => none

/-- The guard tables of other tiles that hold a window of a channel change. -/
def State.modGuards (s : State) (t ch : Nat) (f : Tile → Tile) : State :=
  (s.tiles.filter fun e => e.2.guards.any fun g => g.tile == t && g.chan == ch).foldl (fun (s : State) e => s.modTile e.1 f) s

/-- A channel's window leaves the guard tables that hold it. -/
def State.dropGuard (s : State) (t ch : Nat) : State :=
  s.modGuards t ch fun x => { x with guards := x.guards.filter fun g => !(g.tile == t && g.chan == ch) }

/-- The state of a channel changes, in its own tile and in the guard table that holds its window. -/
def State.setChan (s : State) (t ch : Nat) (st : ChanState) : State :=
  (s.modTile t fun x => x.modChan ch fun c => { c with state := st }).modGuards t ch fun x =>
    { x with guards := x.guards.map fun g => if g.tile = t ∧ g.chan = ch then { g with state := st } else g }

/-- The pools of this device that `[a, a + n)` touches, with the bytes of each: the own window, and the remote windows (R208). -/
def State.poolsOf (s : State) (t a n : Nat) : List (Nat × Nat × Nat) :=
  let cut (o base : Nat) : List (Nat × Nat × Nat) :=
    let lo := max a base
    let hi := min (a + n) (base + 2 ^ 20)
    if lo < hi then [(o, lo - base, hi - lo)] else []
  let base := 2 ^ 40 + s.dev.device.toNat * 2 ^ 30
  let k := (a - base) / 2 ^ 20
  cut t 0 ++ (List.range (min 1024 (n / 2 ^ 20 + 2))).flatMap fun i => if k + i < Config.tiles then cut (k + i) (base + 2 ^ 20 * (k + i)) else []

/-- The window of a command refused with status 3 stays aborted, and guarded in every pool it touches (R241). -/
def State.openRefused (s : State) (t ch a n : Nat) : State :=
  let acc := ((s.tile t).chan ch).accepted
  let s1 := s.modTile t fun x => x.modChan ch fun c => { c with winVa := a, winLo := a, winHi := a + n, wm := BitVec.ofNat 64 a, guarded := false, needGuard := false }
  (s.poolsOf t a n).foldl (fun (s : State) e => s.modTile e.1 fun x =>
    { x with guards := x.guards ++ [⟨t, ch, e.2.1, e.2.1 + e.2.2, e.2.1, .aborted, acc⟩] }) s1

/-- The entries of the guard table of tile `o` that other tiles' windows take, of 8 (R246, R248). -/
def Tile.guestWindows (x : Tile) (o : Nat) : Nat := (x.guards.filter fun g => g.tile != o).length

/-- A landing channel's window is given, and guarded where it lies in a pool: by the own pool at once, by another when its table has a
free entry of its 8 (R246, R248). -/
def State.openWindow (s : State) (t ch a n : Nat) : State :=
  let acc := ((s.tile t).chan ch).accepted
  match s.poolAt t a with
  | some (o, p) =>
    let s1 := s.modTile t fun x => x.modChan ch fun c =>
      { c with winVa := a, winLo := p, winHi := p + n, wm := BitVec.ofNat 64 a, guarded := o == t && n != 0, needGuard := false }
    if o = t ∨ n = 0 then s1
    else if (s.tile o).guestWindows o < 8 then
      s1.modTile o fun x => { x with guards := x.guards ++ [⟨t, ch, p, p + n, p, ((s.tile t).chan ch).state, acc⟩] }
    else s1.modTile t fun x => x.modChan ch fun c => { c with needGuard := true }
  | none => s.modTile t fun x => x.modChan ch fun c =>
    { c with winVa := a, winLo := a, winHi := a + n, wm := BitVec.ofNat 64 a, guarded := false, needGuard := false }

/-- The pool of another tile that a channel waits for a guard entry of. -/
def State.waitsAt (s : State) (t : Nat) (c : Channel) : Option Nat := if c.needGuard then (s.poolAt t c.winVa).map (·.1) else none

/-- A copy that waits for a guard entry of a pool that has one free: the earliest accepted for that pool (R248, R249). -/
def State.guardWaiter (s : State) (t : Nat) : Option Nat :=
  ((s.tile t).chans.find? fun e =>
    match s.waitsAt t e.2 with
    | some o => decide ((s.tile o).guestWindows o < 8) &&
        s.tiles.all fun u => u.2.chans.all fun d => s.waitsAt u.1 d.2 != some o || decide (e.2.accepted ≤ d.2.accepted)
    | none => false).map (·.1)

/-- `GUARD_ENTRY_FREE` (R248): the waiting copy registers its window. -/
def execGuardEntryFree (s : State) : Out :=
  let t := s.focus.a
  match s.guardWaiter t with
  | none => .next s
  | some ch => .next (s.openWindow t ch ((s.tile t).chan ch).winVa (((s.tile t).chan ch).winHi - ((s.tile t).chan ch).winLo))

/-! ### The end of a channel (R245, R250) -/

/-- The done message (R250). -/
def State.doneMessage (s : State) (t ch st wm count : Nat) (done : BitVec 32) (inst : BitVec 16) : State :=
  if done = 0 then s
  else
    let sc : Scope := if hDev done = s.dev.device.toNat then .device else .system
    s.post t 0 { plainMsg t done inst 16 (count % 2 ^ 32 + st * 2 ^ 32 + ch * 2 ^ 40 + t * 2 ^ 48 + wm % 2 ^ 64 * 2 ^ 64) with rel := some sc }

/-- A gather of an expert chain is over: done, or aborted (R338). -/
def State.gatherOver (s : State) (c : Channel) (st : Nat) : State :=
  match c.use with
  | .gather k g => s.modChain k fun h => { h with layer := h.layer.map fun l =>
      { l with groups := l.groups.modify g fun x => if x.gather = 1 then { x with gather := if st = 0 then 2 else 3 } else x } }
  | _ => s

/-- The channel retires with a status: done, or aborted with what it holds dropped and its window kept. A landing write that is on its way is still
performed, and counts: the done message covers it, and goes when it is acknowledged (R250, R252). -/
def State.retireChan (s : State) (t ch st : Nat) : State :=
  let c := (s.tile t).chan ch
  let s := s.gatherOver c st
  let s1 := if st = 0 then (s.dropGuard t ch).setChan t ch .done else s.setChan t ch .aborted
  let s2 := s1.modTile t fun x =>
    { x.modChan ch fun c => { c with status := st, needGuard := false, flying := false, pieces := [], writes := [] } with
      lastWrites := if c.flying then x.lastWrites ++ [(ch, { c with status := st })] else x.lastWrites }
  if c.flying then s2 else s2.doneMessage t ch st c.wm.toNat c.count c.done c.inst

/-- Whether a channel can take a command: it is idle or has retired (R236, R241). -/
def Channel.free (c : Channel) : Bool := c.state != .landing && c.state != .frozen

/-! ### Acceptance (R241) -/

/-- A head of the engine's two queues: the tc from which it is there, whether it is local, and the command. -/
def State.copyHeads (s : State) (t : Nat) : List (Nat × Bool × CopyCmd) :=
  let x := s.tile t
  let loc := match x.copyQ with
    | c :: _ => if c.arrived < s.tc && x.storesReady c.jet c.upTo then [(c.arrived + 1, true, c)] else []
    | [] => []
  let bas := match x.liveBasins.find? fun e => e.2.kind == .engine && e.2.engCopy with
    | some (_, k) => match k.slots with
      | m :: _ => if m.from_ ≤ s.tc then
          [(m.from_, false, ({ img := BitVec.ofNat 512 m.payload, checked := true, issuer := m.src, inst := m.inst, jet := 0, upTo := 0, arrived := m.from_, ahead := none } : CopyCmd))]
        else []
      | [] => []
    | none => []
  (loc ++ bas).filter fun e =>
    (x.chan (fld e.2.2.img.toNat 240 3)).free

/-- The command the engine accepts now: of two heads the one that arrived earlier, the local one in a tie (log 9). -/
def State.copyHead (s : State) (t : Nat) : Option (Bool × CopyCmd) :=
  if (s.tile t).gated || (s.tile t).inReset then none
  else
    match s.copyHeads t with
    | [] => none
    | [e] => some e.2
    | e :: f :: _ => if e.1 ≤ f.1 then some e.2 else some f.2

/-- The head of a queue is taken: a basin's message is consumed as an acquire (R271). -/
def State.takeEngineHead (s : State) (t : Nat) (copy loc : Bool) : State :=
  if loc then s.modTile t fun x => if copy then { x with copyQ := x.copyQ.tail } else { x with mx := { x.mx with localQ := x.mx.localQ.tail } }
  else
    match (s.tile t).liveBasins.find? fun e => e.2.kind == .engine && e.2.engCopy == copy with
    | none => s
    | some (b, k) => s.modTile t fun x =>
      (x.acquire ((k.slots.head?.map fun m => (m.rel, m.relAll)).toList)).modWeir fun w => w.modBasin b fun k => { k with slots := k.slots.tail }

/-- The selected rows of a compacting copy, or none where the conditions of R253 do not hold. -/
def Template.select (x : Template) (mask : Nat) : Option (List Nat) :=
  let r := ((x.levels[x.rowlvl]?).map (·.sext)).getD 1
  if x.levels.all (fun l => l.sext == l.dext) && (x.levels.drop (x.rowlvl + 1)).all (fun l => l.sext == 1) && decide (r ≤ 256) then
    some ((List.range r).filter fun k => mask.testBit k)
  else none

/-- The window of a channel's copy: where it begins, and its bytes. -/
def Channel.lowVa (c : Channel) : Nat := c.dstVa 0
def Channel.bytes (c : Channel) : Nat :=
  if c.total = 0 then 0 else trunc ((c.dst : Int) + c.dof (c.total - 1) + c.tpl.esize - c.lowVa) 64

/-- A command's channel begins to land, or is done at once where its window is empty. -/
def State.startChannel (s : State) (t ch : Nat) (c : Channel) : State :=
  let (id, s1) := (s.dropGuard t ch).take
  let lo := c.lowVa
  let n := c.bytes
  let s2 := (s1.modTile t fun x => x.modChan ch fun old =>
    { c with state := .landing, status := old.status, accepted := id, from_ := s.tc }).openWindow t ch lo n
  if c.total = 0 then s2.retireChan t ch 0 else s2

/-- The command of a gather: a copy command with the block's capability, whose done handle is the chain's own. R239 has no image that names a
group's rows: the number of the group stands in its mask field, and the engine has the rows from the chain (log 21). -/
def gatherImage (cap ch : Nat) (c : Channel) (handle : BitVec 32) : Nat :=
  let ix := match c.use with | .gather _ ix => ix | _ => 0
  cap + c.src * 2 ^ 64 + c.dst * 2 ^ 128 + handle.toNat * 2 ^ 192 + ch * 2 ^ 240 + 2 ^ 243 + ix * 2 ^ 256

/-- The chain and the group of a gather command. -/
def State.gatherOf (s : State) (k : CopyCmd) : Option (Nat × Nat) :=
  if !k.checked then none
  else ((List.range 8).find? fun c => k.issuer == .tile (chainStop c) && fld k.img.toNat 192 32 == (s.chainHandle c).toNat).map fun c => (c, fld k.img.toNat 256 256)

/-- The channel of a gather command, if its layer still runs. -/
def State.gatherChannel (s : State) (e : Nat × Nat) : Option Channel :=
  (s.chain e.1).layer.bind fun l => (l.groups[e.2]?).map fun g => l.gatherChan e.1 e.2 g

/-- A gather command is refused: the chain learns which way. -/
def State.gatherRefused (s : State) (e : Nat × Nat) (why : Nat) : State :=
  s.modChain e.1 fun h => { h with layer := h.layer.map fun l => { l with groups := l.groups.modify e.2 fun g => { g with gather := why } } }

/-- The channel a copy command asks for, or the status it is refused with, in the order 2, 4, 3; with status 3 the window (R241). -/
def State.checkCopy (s : State) (t : Nat) (k : CopyCmd) : Except (Nat × Nat × Nat) Channel :=
  let img := k.img.toNat
  let x := s.tile t
  if k.checked && (!x.capOk (fld img 0 64) true k.issuer) then .error (2, 0, 0)
  else
  match (s.gatherOf k).bind s.gatherChannel with
  | some c => if s.windowBad t c.lowVa c.bytes then .error (3, c.lowVa, c.bytes) else .ok c
  | none =>
    match Tbl.get none x.templates (fld img 232 6) with
    | none => .error (4, 0, 0)
    | some tpl =>
      let cmp := fld img 243 1 == 1
      match (if cmp then tpl.select (fld img 256 256) else some []) with
      | none => .error (4, 0, 0)
      | some rows =>
        let c : Channel :=
          { Channel.idle with
            use := .copy, done := BitVec.ofNat 32 (fld img 192 32), inst := k.inst, src := fld img 64 64, dst := fld img 128 64, tpl := tpl, cmp := cmp
            rows := rows, total := if cmp then rows.length * tpl.rowElems else tpl.srcCount, jet := k.jet }
        let lo := c.lowVa
        let n := c.bytes
        if s.windowBad t lo n then .error (3, lo, n) else .ok c

/-- A local command enters the engine's queue. -/
def State.queueCopy (s : State) (img : Nat) : State :=
  let c : CopyCmd := { img := BitVec.ofNat 512 img, checked := false, issuer := .tile s.curTile, inst := s.cur.inst, jet := s.cur.key,
                       upTo := s.nextId, arrived := s.tc, ahead := none }
  let win := match s.checkCopy s.curTile c with
    | .ok k => (s.poolAt s.curTile k.lowVa).bind fun e => if e.1 = s.curTile then some (e.2, k.bytes) else none
    | .error _ => none
  let c := { c with ahead := win }
  s.modHere fun x => { x with copyQ := x.copyQ ++ [c] }

/-- `cpy` (R240). -/
def execCpy (h : Hdr) (o : CpyF) (s : State) : Out :=
  s.guarded (footCpy o []) fun s => (s.queueCopy (cpyImage o s.cur.frame false 0)).advance h 16

/-- `cpy.cmp` (R240). -/
def execCpyCmp (h : Hdr) (o : CpyF) (m : BitVec 3) (s : State) : Out :=
  s.guarded (footCpy o [m.toNat]) fun s => (s.queueCopy (cpyImage o s.cur.frame true (s.cur.mask m.toNat).toNat)).advance h 16

/-- `COPY_ACCEPT` (R241, R250, R338): the head is checked; it starts its channel, or its done message carries why not, for a gather to its chain. With
status 3 the channel is left aborted with its window, with 2 and 4 as it was. -/
def execCopyAccept (s : State) : Out :=
  let t := s.focus.a
  match s.copyHead t with
  | none => .next s
  | some (loc, k) =>
    let ch := fld k.img.toNat 240 3
    let s1 := s.takeEngineHead t true loc
    match s.checkCopy t k with
    | .ok c => .next (s1.startChannel t ch c)
    | .error (st, lo, n) =>
      let gather := s.gatherOf k
      let done := if gather.isSome then 0 else BitVec.ofNat 32 (fld k.img.toNat 192 32)
      let s2 := match gather with
        | some e => s1.gatherRefused e (if st = 2 then 4 else 5)
        | none => s1
      if st = 3 then
        let (id, s3) := (s2.dropGuard t ch).take
        let s4 := s3.modTile t fun x => x.modChan ch fun _ =>
          { Channel.idle with state := .aborted, status := 3, accepted := id, done := done, inst := k.inst, from_ := s.tc }
        .next ((s4.openRefused t ch lo n).doneMessage t ch 3 lo 0 done k.inst)
      else .next (s2.doneMessage t ch st 0 0 done k.inst)

/-! ### Source reads (R242, R246, R251) -/

/-- A read that is not back yet. -/
def Piece.out (p : Piece) : Bool := (p.data.isNone && p.bad.isNone) || p.from_ == 2 ^ 64

/-- The bytes in the engine's reorder buffer (R242). -/
def Tile.reorder (x : Tile) : Nat :=
  (x.chans.map fun c => ((c.2.pieces.filter fun p => p.data.isSome && !p.out).map (·.nb)).sum).sum

def Channel.reads (c : Channel) : Bool :=
  c.state == .landing && !c.suspended && decide (c.readNext < c.total) &&
    decide ((c.pieces.filter Piece.out).length < 64) &&
    match c.use with | .copy | .gather .. => true | _ => false

/-- Channels in the order of their acceptance. -/
def Tile.chansByAge (x : Tile) : List (Nat × Channel) := x.chans.mergeSort fun a b => decide (a.2.accepted ≤ b.2.accepted)

/-- The channel whose read issues in this tc: the earliest accepted, from the tc after its acceptance. -/
def Tile.reader (x : Tile) (tc : Nat) : Option (Nat × Channel) := x.chansByAge.find? fun e => e.2.reads && decide (e.2.from_ < tc)

/-- A source read of a channel sets out once it is translated: to the own pool, or as a packet to another pool or a home; a fault is met as it would be
performed (R242, R251, R389). -/
def State.sourceAsk (s : State) (t va nb num : Nat) (f : Focus) : State :=
  match s.partsOf t .read .page true va nb with
  | .ok [p] =>
    if p.path = .pool then
      if p.pool = 1024 * s.dev.device.toNat + t then s.after (s.agentCost t va - s.agentBack t va) .copyReadReturn f
      else s.injectTo (p.pool / 1024) t (p.pool % 1024) .tile 1 14 (.poolReq t (unitId 2 num) 0 .read p.addr p.nb)
    else (s.walkBegins t va).askUnit t (unitId 2 num) p.addr p.nb (2 * s.xlateCost t va nb + 28)
  | _ => (s.walkBegins t va).after (s.agentCost t va - s.agentBack t va) .copyReadReturn f

/-- A source read that has been performed sets out on its way back, over the rest of its round trip: from another pool as a packet. -/
def State.sourceBack (s : State) (t va nb num rest : Nat) (v : Nat) (f : Focus) : State :=
  match poolOf s.dev.device.toNat t va with
  | some (_, o, _) =>
    if o = t then s.after rest .copyReadReturn f
    else s.answerBy .tile s.dev.device.toNat o t (payFlits nb) (2 * rest - 1 - wayCost o t) (.readResp t (unitId 2 num) 0 v)
  | none => s.after rest .copyReadReturn f

/-- `COPY_SOURCE_READ` (R242): one piece, within a 64 B source block, is read. -/
def execCopySourceRead (s : State) : Out :=
  let t := s.focus.a
  match (s.tile t).reader s.tc with
  | none => .next s
  | some (ch, c) =>
    let va := (c.srcVa c.readNext + c.readOff) % 2 ^ 64
    let nb := min (64 - va % 64) (c.tpl.esize - c.readOff)
    let whole := c.tpl.esize ≤ c.readOff + nb
    let (num, s0) := s.take
    let s1 := s0.modTile t fun x => x.modChan ch fun c =>
      { c with pieces := c.pieces ++ [⟨c.readNext, c.readOff, nb, none, 0, none, num⟩]
               readNext := if whole then c.readNext + 1 else c.readNext, readOff := if whole then 0 else c.readOff + nb }
    .next (s1.sourceAsk t va nb num ⟨t, ch, c.readNext, c.readOff, c.accepted⟩)

/-- What an engine's read gives: a value, or a cause; data of another device or of the host are free (log 8). -/
def State.engineRead (s : State) (t va n : Nat) : Except Nat (Nat × State) :=
  match s.partsOf t .read .page true va n with
  | .error c => .error c
  | .ok l =>
    if l.any fun p => if p.path = .pool then p.pool / 1024 != s.dev.device.toNat else paIo p.addr || paDev p.addr != s.dev.device.toNat then
      let (v, s2) := (s.walked t va n).draw
      .ok (v % 2 ^ (8 * n), s2)
    else
      s.agentRead t va n

/-- The guard of the pool of this device that an engine reads, if it reads one (R246). -/
def State.engineGuard (s : State) (t va n : Nat) (own : Option (Nat × Nat)) : Guarded :=
  match s.poolAt t va with
  | some (o, q) => (s.tile o).guardRead o q n none own
  | none => .clear

/-- A read by an engine that its pool's guard lets go on: a value; or the cause and the address, cause 0 where the guard stalls it (R246). -/
def State.engineFetch (s : State) (t va n : Nat) (own : Option (Nat × Nat)) : Except (Nat × Nat) (Nat × State) :=
  match s.engineGuard t va n own with
  | .stall => .error (0, va)
  | .aborted _ => .error (9, va)
  | .clear =>
    match s.engineRead t va n with
    | .error c => .error (c, va)
    | .ok r => .ok r

/-- `COPY_READ_RETURN` (R242, R246, R251, R389): a read of a pool is performed, or waits where the guard of its pool stalls it: its latency then counts from
the tc in which it is performed. Then its piece, or that of a read of memory, returns into the 4 KiB reorder buffer of the engine. One that finds the buffer full waits, but for a
channel's next piece, which need not wait there: the model's choice (log 29). -/
def execCopyReadReturn (s : State) : Out :=
  let f := s.focus
  let t := f.a
  let c := (s.tile t).chan f.b
  if c.accepted != f.data || c.state != .landing then .next s
  else
    match c.pieces.find? fun p => p.elem == f.c && p.off == f.d && p.out with
    | none => .next s
    | some p =>
      let va := (c.srcVa p.elem + p.off) % 2 ^ 64
      let put (s : State) (q : Piece) : State := s.modTile t fun x => x.modChan f.b fun c => { c with pieces := c.pieces.map fun r => if r = p then q else r }
      if p.from_ = 2 ^ 64 then
        if p.data.isSome && c.pieces.head? != some p && decide (4096 < (s.tile t).reorder + p.nb) then .next (s.after 1 .copyReadReturn f)
        else .next (put (s.walked t va p.nb) { p with from_ := s.tc + 1, bad := p.bad.map fun e => (e.1, va) })
      else
        let rest := if p.from_ = 1 then s.agentCost t va else s.agentBack t va
        match s.engineGuard t va p.nb (some (t, f.b)) with
        | .stall => .next ((put s { p with from_ := 1 }).after 1 .copyReadReturn f)
        | .aborted _ => .next ((put s { p with from_ := 2 ^ 64, bad := some (9, va) }).sourceBack t va p.nb p.num rest 0 f)
        | .clear =>
          match s.engineRead t va p.nb with
          | .error cause => .next ((put (s.walked t va p.nb) { p with from_ := 2 ^ 64, bad := some (cause, va) }).sourceBack t va p.nb p.num rest 0 f)
          | .ok (v, s1) => .next ((put s1 { p with from_ := 2 ^ 64, data := some v }).sourceBack t va p.nb p.num rest v f)

/-! ### Landing writes (R242, R243, R249, R251) -/

/-- The next landing write of a channel: its address, bytes and value. -/
def Channel.nextWrite (c : Channel) (tc : Nat) : Option (Nat × Nat × Nat) :=
  if c.state != .landing || c.suspended || c.flying || c.needGuard then none
  else
    match c.use with
    | .copy | .gather .. =>
      match c.pieces with
      | p :: _ =>
        match p.data with
        | some v =>
          if p.from_ ≤ tc ∧ !p.out then
            let va := (c.dstVa p.elem + c.landed) % 2 ^ 64
            let n := min (64 - va % 64) (p.off + p.nb - c.landed)
            some (va, n, fld v (8 * (c.landed - p.off)) (8 * n))
          else none
        | none => none
      | [] => none
    | .matrix =>
      match c.writes with
      | w :: _ => if w.from_ ≤ tc ∧ w.va = c.wm.toNat then some (w.va, w.nb, w.data) else none
      | [] => none
    | .mcast => none

/-- The windows that share a destination with a channel: those of its pool's guard table, those of the tile's channels that wait for an entry of
it, or those of the tile's channels in memory: their bytes, positions and acceptance. -/
def State.rivals (s : State) (t ch : Nat) : List (Nat × Nat × Nat × Nat) :=
  let c := (s.tile t).chan ch
  let active (st : ChanState) : Bool := st == .landing || st == .frozen
  match s.poolAt t c.winVa with
  | some (o, _) =>
    (((s.tile o).chans.filter fun e => e.2.guarded && active e.2.state && !(o == t && e.1 == ch)).map fun e =>
      (e.2.winLo, e.2.winHi, e.2.pos, e.2.accepted)) ++
    (((s.tile o).guards.filter fun g => active g.state && !(g.tile == t && g.chan == ch)).map fun g => (g.lo, g.hi, g.wm, g.accepted)) ++
    (((s.tile t).chans.filter fun e => e.1 != ch && active e.2.state && s.waitsAt t e.2 == some o).map fun e =>
      (e.2.winLo, e.2.winHi, e.2.pos, e.2.accepted))
  | none =>
    ((s.tile t).chans.filter fun e => e.1 != ch && active e.2.state && (s.poolAt t e.2.winVa).isNone).map fun e =>
      (e.2.winLo, e.2.winHi, e.2.pos, e.2.accepted)

/-- Whether an earlier window holds a landing write back: it touches an overlap that the earlier watermark has not passed (R249). -/
def State.overlapHeld (s : State) (t ch va n : Nat) : Bool :=
  let c := (s.tile t).chan ch
  let a := c.winLo + (va - c.winVa)
  (s.rivals t ch).any fun w =>
    let lo := max w.1 c.winLo
    let hi := min w.2.1 c.winHi
    decide (w.2.2.2 < c.accepted) && decide (lo < hi) && decide (lo < a + n) && decide (a < hi) && decide (w.2.2.1 < hi)

/-- The fault that stands before a channel's next element: a source piece that faulted (R251). -/
def Channel.badHead (c : Channel) : Option (Nat × Nat) :=
  if c.state != .landing || c.flying then none else c.pieces.head?.bind fun p => if p.out then none else p.bad

/-- The channel whose landing is due in this tc: the earliest accepted that can write, or must freeze. -/
def State.lander (s : State) (t : Nat) : Option (Nat × Channel) :=
  (s.tile t).chansByAge.find? fun e =>
    e.2.badHead.isSome || match e.2.nextWrite s.tc with
      | some (va, n, _) => !s.overlapHeld t e.1 va n
      | none => false

/-- A channel freezes at its next element (R251): what it has read from there on is dropped, and a fault record is sent. -/
def State.freezeChan (s : State) (t ch cause addr : Nat) : State :=
  let c := (s.tile t).chan ch
  let s1 := (s.setChan t ch .frozen).modTile t fun x => x.modChan ch fun c =>
    { c with pieces := [], readNext := c.next, readOff := 0, landed := 0, flying := false }
  s1.report t { cause := 18, addr := addr, info := cause, addr2 := c.wm.toNat, chan := ch } c.inst

/-- A landing write has been performed: the element goes on, the watermark with it, and with the last the channel is done (R243, R244). -/
def Channel.landedBy (c : Channel) (n : Nat) : Channel :=
  match c.use with
  | .matrix =>
    match c.writes with
    | w :: r => { c with writes := r, flying := false, wm := BitVec.ofNat 64 w.wmAfter, count := c.count + w.outs }
    | [] => { c with flying := false }
  | _ =>
    match c.pieces with
    | p :: r =>
      let got := c.landed + n
      let c1 := { c with flying := false, pieces := if p.off + p.nb ≤ got then r else c.pieces }
      if c.tpl.esize ≤ got then
        { c1 with landed := 0, next := c.next + 1, wm := BitVec.ofNat 64 (c.wmAt (c.next + 1)), count := c.landedCount (c.next + 1) }
      else { c1 with landed := got }
    | [] => { c with flying := false }

/-- Whether a channel has landed all it lands. A matrix channel is retired by its run. -/
def Channel.complete (c : Channel) : Bool :=
  c.state == .landing && match c.use with | .copy | .gather .. => decide (c.total ≤ c.next) | _ => false

def State.landedWrite (s : State) (t ch n : Nat) : State :=
  let s1 := s.modTile t fun x => x.modChan ch fun c => c.landedBy n
  if ((s1.tile t).chan ch).complete then s1.retireChan t ch 0 else s1

/-- The bytes of the head write, as its acknowledgement finds them. -/
def Channel.flightBytes (c : Channel) : Nat :=
  match ({ c with flying := false, state := .landing, suspended := false, needGuard := false }).nextWrite (2 ^ 64 - 1) with
  | some (_, n, _) => n
  | none => 0

/-- The number a landing write's acknowledgement brings back. -/
def Channel.flightId (c : Channel) (ch : Nat) : Nat := 2 ^ 65 + ch + 8 * c.accepted

/-- A landing write is performed at once in the own pool or in a line that the tile's stash owns (R219), and goes through the network elsewhere (R242,
R248): the next one of its channel then waits for its acknowledgement, since the network keeps no order (R243, R272). -/
def State.landWrite (s : State) (t ch va n v : Nat) : State :=
  match s.partsOf t .write .page false va n with
  | .error c =>
    if ((s.tile t).chan ch).use = .matrix then
      s.modTile t fun x => { x with mx := { x.mx with run := x.mx.run.map fun r => { r with fault := some (c, va) } } }
    else s.freezeChan t ch c va
  | .ok l =>
    match l with
    | p :: _ =>
      let s1 := s.walked t va n
      let fly := s1.modTile t fun x => x.modChan ch fun c => { c with flying := true }
      let c := (s.tile t).chan ch
      if p.path = .pool then
        if p.pool = 1024 * s.dev.device.toNat + t then (s1.modTile t fun x => x.poolWrite p.addr n (fullEn n) v).landedWrite t ch n
        else fly.injectTo (p.pool / 1024) t (p.pool % 1024) .tile (payFlits n) 14
          (.poolReq t (c.flightId ch) 0 (.land ch v (c.winLo + ((c.landedBy n).wm.toNat - c.winVa))) p.addr n)
      else if p.path = .stash && (s.tile t).stash.any fun l => l.va == va / 128 && l.owned then
        (s1.modTile t fun x => { x.l1Drop (p.addr / 128) with stash := x.stash.map fun l =>
          if l.va = va / 128 then (l.wrote (p.addr % 128) (fullEn n) v) else l }).landedWrite t ch n
      else
        let io := paIo p.addr
        fly.injectTo (if io then s.dev.device.toNat else paDev p.addr) t (if io then 0 else homeOf p.addr) (if io then .host else .l2)
          (payFlits n) 28 (.write t [c.flightId ch] (p.addr / 128) (fullEn n * 2 ^ (2 * (p.addr % 128))) (v * 2 ^ (8 * (p.addr % 128))))
    | [] => s

/-- A landing write into a stash mapping has been performed at its home: the line comes to the tile's stash as for a store (R219). -/
def State.stashLanded (s : State) (t : Nat) (c : Channel) : State :=
  match ({ c with flying := false, state := .landing, suspended := false, needGuard := false }).nextWrite (2 ^ 64 - 1) with
  | none => s
  | some (va, n, _) =>
    match s.partsOf t .write .page false va n with
    | .ok [p] =>
      if p.path = .stash then
        let s1 := (s.recall p.addr true).modTile t fun x => x.l1Drop (p.addr / 128)
        (s1.stashGrant (homeOf p.addr) t (va / 128) (p.addr / 128) true p.free false (s1.memLine (p.addr / 128))).2
      else s
    | _ => s

/-- `LANDING_WRITE` (R242 to R245, R251): a landing write is made, a channel freezes at an element that cannot land, or the write of a
channel is acknowledged. -/
def execLandingWrite (s : State) : Out :=
  let t := s.focus.a
  if s.focus.c = 1 then
    let ch := s.focus.b
    let c := (s.tile t).chan ch
    if c.flying ∧ c.accepted = s.focus.d then
      .next ((s.stashLanded t c).landedWrite t ch c.flightBytes)
    else
      -- the channel has retired meanwhile, and may have taken another command: this write is the last of the copy (R250, R252)
      match (s.tile t).lastWrites.find? fun e => e.1 == ch && e.2.accepted == s.focus.d with
      | none => .next s
      | some e =>
        let d := e.2.landedBy e.2.flightBytes
        .next (((s.stashLanded t e.2).modTile t fun x =>
          { x.modChan ch fun k => if k.accepted = d.accepted then { k with count := d.count, wm := if k.state = .idle then 0 else d.wm } else k with
            lastWrites := x.lastWrites.filter (· != e) }).doneMessage t ch d.status d.wm.toNat d.count d.done d.inst)
  else
    match s.lander t with
    | none => .next s
    | some (ch, c) =>
      match c.badHead with
      | some (cause, a) => .next (s.freezeChan t ch cause a)
      | none =>
        match c.nextWrite s.tc with
        | some (va, n, v) => .next (s.landWrite t ch va n v)
        | none => .next s

/-! ### Control (R252) -/

/-- Whether a channel serves a copy, or a gather of the expert chain. -/
def Channel.servesCopy (c : Channel) : Bool := match c.use with | .copy | .gather .. => true | _ => false

/-- `cres` (R252). -/
def execCres (h : Hdr) (d : SliceOp) (ch : BitVec 3) (s : State) : Out :=
  s.guarded { dst := d.range } fun s =>
    let c := s.here.chan ch.toNat
    if c.state = .frozen ∧ c.servesCopy then ((s.setChan s.curTile ch.toNat .landing).oweStatus 2 d 0).advance h 8
    else (s.oweStatus 2 d 1).advance h 8

/-- `cabt` (R252). -/
def execCabt (h : Hdr) (d : SliceOp) (ch : BitVec 3) (s : State) : Out :=
  s.guarded { dst := d.range } fun s =>
    let c := s.here.chan ch.toNat
    if (c.state = .landing ∨ c.state = .frozen) ∧ c.servesCopy then ((s.retireChan s.curTile ch.toNat 1).oweStatus 2 d 0).advance h 8
    else (s.oweStatus 2 d 1).advance h 8

/-- What `cstat` reads (R252). -/
def Channel.statusWord (c : Channel) : Nat :=
  (match c.state with | .idle => 0 | .landing => 1 | .frozen => 2 | .aborted => 3 | .done => 4) + c.status * 2 ^ 8 + c.count % 2 ^ 32 * 2 ^ 16

/-- `cstat` (R252). -/
def execCstat (h : Hdr) (d : SliceOp) (ch : BitVec 3) (s : State) : Out :=
  s.guarded { dst := d.range } fun s => (s.oweStatus 2 d (s.here.chan ch.toNat).statusWord).advance h 8

/-- A done or aborted channel becomes idle, its window is dropped, its watermark reads 0 (R244, R245). -/
def State.clearChan (s : State) (t ch : Nat) : State :=
  let c := (s.tile t).chan ch
  if c.state = .done ∨ c.state = .aborted then
    ((s.dropGuard t ch).setChan t ch .idle).modTile t fun x => x.modChan ch fun c => { c with wm := 0, guarded := false, needGuard := false }
  else s

/-- `cstat.clr` (R252): reads first, then clears. -/
def execCstatClr (h : Hdr) (d : SliceOp) (ch : BitVec 3) (s : State) : Out :=
  s.guarded { dst := d.range } fun s =>
    ((s.clearChan s.curTile ch.toNat).oweStatus 2 d (s.here.chan ch.toNat).statusWord).advance h 8

end Sys2Proof.Machine
end

