-- ==== Sys2Proof/Machine/Matrix.lean ====
section
/-!
DEFINITION. The matrix engine and cisterns (R303 to R328): tensor entries, commands and their acceptance, the steps of a run and its
systolic streams, the fused chain with its landing writes, deposits, precision messages, faults, parking and self-test, and the
instructions of group C.
-/

namespace Sys2Proof.Machine

/-! ### Tensor entries (R304, R305) -/

def ascends : List Nat → Bool
  | a :: b :: r => decide (a < b) && ascends (b :: r)
  | _ => true

/-- The status of `tdef`, the first that applies; a base that is not a multiple of 8 counts as a reserved field that is not zero (log 20). -/
def tenStatus (e : Nat) : Nat :=
  if fld e 704 320 != 0 || fld e 352 32 != 0 || fld e 206 50 != 0 || fld e 0 3 != 0 || tenType e == 3 || decide (16 < tenNout e) then 1
  else if (posFin (tenScale e)).isNone then 2
  else if tenNout e != 0 && (tenType e != 0 || (tenOuts e).any (fun c => decide (tenCols e ≤ c)) || !ascends (tenOuts e)) then 3
  else 0

/-- `tdef` (R305). -/
def execTdef (h : Hdr) (o : R2) (id : BitVec 8) (s : State) : Out :=
  s.guarded (footRun o.d o.a 256 []) fun s =>
    let e := SliceOp.getRun o.a s.cur.frame 256
    let st := tenStatus e
    let s1 := if st = 0 then s.modHere fun x => { x with mx := { x.mx with tids := Tbl.set x.mx.tids id.toNat (BitVec.ofNat 1024 e) } } else s
    (s1.oweStatus 4 o.d st).advance h 16

/-! ### Commands (R306) -/

def mxDone (i : Nat) : BitVec 32 := BitVec.ofNat 32 (fld i 64 32)
def mxRow0A (i : Nat) : Nat := fld i 96 16
def mxRow0B (i : Nat) : Nat := fld i 112 16
def mxKc0 (i : Nat) : Nat := fld i 128 10
def mxKrun (i : Nat) : Nat := fld i 138 13
/-- Planes read of A and of B. -/
def mxPa (i : Nat) : Nat := fld i 152 4 + 1
def mxPb (i : Nat) : Nat := fld i 156 4 + 1
def mxBias (i : Nat) : Nat := fld i 192 64
def mxAct (i : Nat) : Nat := fld i 256 4
def mxStage (i k : Nat) : Bool := fld i (260 + k) 1 == 1
def mxCist (i : Nat) : Bool := fld i 264 1 == 1
def mxChan (i : Nat) : Nat := fld i 265 3
def mxAin (i : Nat) : Bool := fld i 268 1 == 1
def mxAout (i : Nat) : Bool := fld i 269 1 == 1
def mxBin (i : Nat) : Bool := fld i 270 1 == 1
def mxBout (i : Nat) : Bool := fld i 271 1 == 1
def mxCbase (i : Nat) : Nat := fld i 288 20
/-- Block rows and block columns. -/
def mxRows (i : Nat) : Nat := fld i 320 7 + 1
def mxCols (i : Nat) : Nat := fld i 327 7 + 1
/-- C of R310. -/
def mxChunks (i : Nat) : Nat := ceilDiv (mxKrun i + 1) 64
def mxSteps (i : Nat) : Nat := mxPa i * mxPb i * mxChunks i

def mxReserved (i : Nat) : Bool := fld i 334 178 != 0 || fld i 308 12 != 0 || fld i 272 16 != 0 || fld i 184 8 != 0 || fld i 151 1 != 0 || fld i 288 3 != 0

/-- The 128 slices of a command image. -/
def Jet.mxSlots (j : Jet) (a : ElemOp) : Except Nat (List (Nat × Nat)) :=
  match a with
  | .slice o => .ok (SliceOp.run o 128)
  | .view k off => j.slots k off 128

def Jet.mxFoot (j : Jet) (a : ElemOp) : Foot :=
  match j.mxSlots a with
  | .ok l => { src := l, rd := l }
  | .error e => { bad := some e }

/-- `mx` (R308). -/
def execMx (h : Hdr) (a : ElemOp) (s : State) : Out :=
  s.guarded (s.cur.mxFoot a) fun s =>
    let l := match s.cur.mxSlots a with | .ok l => l | .error _ => []
    let c : MxCmd := { img := BitVec.ofNat 512 (s.cur.frame.gather l), checked := false, issuer := .tile s.curTile, inst := s.cur.inst,
                       jet := s.cur.key, upTo := s.nextId, arrived := s.tc }
    (s.modHere fun x => { x with mx := { x.mx with localQ := x.mx.localQ ++ [c] } }).advance h 16

/-! ### A run's parts -/

def Run.img (r : Run) : Nat := r.cmd.img.toNat
def Run.total (r : Run) : Nat := mxSteps r.img
/-- The unpadded block rows and columns (R323). -/
def Run.rows (r : Run) : Nat := min (mxRows r.img) (tenRows r.tA.toNat - r.rA)
def Run.cols (r : Run) : Nat := min (mxCols r.img) (tenRows r.tB.toNat - r.rB)

/-- The K set within chunk `c`, as a mask (R309). -/
def Run.kmask (r : Run) (c : Nat) : Nat :=
  let a := r.tA.toNat
  let b := r.tB.toNat
  let k0 := 64 * (mxKc0 r.img + c)
  ((List.range 64).filter fun j =>
    let k := k0 + j
    decide (k ≤ 64 * mxKc0 r.img + mxKrun r.img) && decide (k < tenCols a) && decide (k < tenCols b) &&
      !(tenOuts a).contains k && !(tenOuts b).contains k).foldl (fun m j => m + 2 ^ j) 0

def popcount64 (x : Nat) : Nat := ((List.range 64).filter fun j => x.testBit j).length

/-- K of R309. -/
def Run.kcount (r : Run) : Nat := ((List.range (mxChunks r.img)).map fun c => popcount64 (r.kmask c)).sum

/-- The plane of A, the plane of B and the chunk of a step (R310). -/
def Run.stepAt (r : Run) (n : Nat) : Nat × Nat × Nat :=
  let c := mxChunks r.img
  (n / c / mxPb r.img, n / c % mxPb r.img, n % c)

/-- The passes done after `n` steps (R310). -/
def Run.passes (r : Run) (n : Nat) : Nat := n / mxChunks r.img * ceilDiv (mxChunks r.img) 64 + n % mxChunks r.img / 64

/-- Whether a pass ends after `n` steps. -/
def Run.passEnd (r : Run) (n : Nat) : Bool := n % mxChunks r.img % 64 == 0

/-- The weight of plane `i` of a read of `p` planes (R113). -/
def planeWeight (signed : Bool) (p i : Nat) : Int := if signed && i == 0 then -(2 ^ (p - 1) : Nat) else (2 ^ (p - 1 - i) : Nat)

/-- The words of plane `i` and chunk `c` that the fetch unit reads for `n` rows from row `r0`: none beyond the tensor's columns (R304). -/
def opWords (e r0 n i c : Nat) : List Nat :=
  if tenCols e ≤ 64 * c then []
  else (List.range n).map fun r => (tenBase e + (r0 + r) * tenRstride e + i * tenPstride e + 8 * c) % 2 ^ 64

/-- The words a step fetches: of A and of B; those that come over a systolic link are not fetched (R312). -/
def Run.fetches (r : Run) (n : Nat) : List Nat × List Nat :=
  let (i, j, c) := r.stepAt n
  (if mxAin r.img then [] else opWords r.tA.toNat r.rA r.rows i (mxKc0 r.img + c),
   if mxBin r.img then [] else opWords r.tB.toNat r.rB r.cols j (mxKc0 r.img + c))

/-- One step on the words of A and of B (R309): plane products, and each operand's plane counts once. -/
def Run.accumulate (r : Run) (n : Nat) (wa wb : List Nat) : Run :=
  let (i, j, c) := r.stepAt n
  let m := r.kmask c
  let ga := planeWeight (tenSigned r.tA.toNat) (mxPa r.img) i
  let gb := planeWeight (tenSigned r.tB.toNat) (mxPb r.img) j
  let add (t : Tbl Int) (k : Nat) (v : Int) : Tbl Int := if v = 0 then t else Tbl.set t k (Tbl.get 0 t k + v)
  let ra := wa.zipIdx
  let rb := wb.zipIdx
  { r with
    qab := ra.foldl (fun t x => rb.foldl (fun t y => add t (128 * x.2 + y.2) (ga * gb * (popcount64 (x.1 &&& y.1 &&& m) : Nat))) t) r.qab
    qa := if j = 0 then ra.foldl (fun t x => add t x.2 (ga * (popcount64 (x.1 &&& m) : Nat))) r.qa else r.qa
    qb := if i = 0 then rb.foldl (fun t y => add t y.2 (gb * (popcount64 (y.1 &&& m) : Nat))) r.qb else r.qb }

/-- S · u of an output as an integer: S of R114 and the power of two u. -/
def Run.product (r : Run) (x y : Nat) : Int :=
  let a := r.tA.toNat
  let b := r.tB.toNat
  let ma := tenMid a && decide (mxPa r.img < tenPlanes a)
  let mb := tenMid b && decide (mxPb r.img < tenPlanes b)
  let q := Tbl.get 0 r.qab (128 * x + y)
  let sa := Tbl.get 0 r.qa x
  let sb := Tbl.get 0 r.qb y
  let k : Int := r.kcount
  let v := if ma && mb then 4 * q + 2 * sa + 2 * sb + k else if ma then 2 * q + sb else if mb then 2 * q + sa else q
  v * (2 ^ (tenPlanes a - mxPa r.img - b2n ma) * 2 ^ (tenPlanes b - mxPb r.img - b2n mb) : Nat)

def expAt (l : List Int) (k : Nat) : Int := (l[k]?).getD 0

/-- The exact value v of an output (R309), as num · 2^exp. -/
def Run.value (r : Run) (x y : Nat) : Int × Int :=
  let (la, lb, _) := r.exps.getD ([], [], [])
  let (am, ae) := (posFin (tenScale r.tA.toNat)).getD (0, 0)
  let (bm, be) := (posFin (tenScale r.tB.toNat)).getD (0, 0)
  (r.product x y * ((am * bm : Nat) : Int), ae + be + expAt la x + expAt lb y)

/-! ### Retiring a run (R317, R324) -/

/-- Pins are released (R222). -/
def State.unpin (s : State) (lines : List Nat) : State :=
  lines.foldl (fun (s : State) l => s.modStop (homeOf (128 * l)) fun x => { x with pins := Tbl.set x.pins l (x.pinsOf l - 1) }) s

/-- The completion message (R317). -/
def State.mxMessage (s : State) (t : Nat) (c : MxCmd) (st passes count : Nat) (flags : BitVec 5) : State :=
  let h := mxDone c.img.toNat
  if h = 0 then s
  else
    let sc : Scope := if hDev h = s.dev.device.toNat then .device else .system
    s.post t 0 { plainMsg t h c.inst 16 (count % 2 ^ 32 + st * 2 ^ 32 + flags.toNat * 2 ^ 40 + t * 2 ^ 48 + passes % 2 ^ 32 * 2 ^ 64) with rel := some sc }

/-- A run that has left its engine retires with a status: its pins go, its channel is done, or aborted as by `cabt` (R324), its message is sent. -/
def State.retireThe (s : State) (t st : Nat) (r : Run) : State :=
  let ch := mxChan r.img
  let count := if mxCist r.img then r.made else ((s.tile t).chan ch).count
  let s1 := s.unpin r.pinned
  let s2 := if mxCist r.img then s1 else s1.retireChan t ch (if st = 0 then 0 else 1)
  (s2.modTile t fun x => { x with mx := { x.mx with last := st } }).mxMessage t r.cmd st (r.passes r.step) count r.flags

/-- The run retires with a status. -/
def State.retireRun (s : State) (t st : Nat) : State :=
  match (s.tile t).mx.run with
  | none => s
  | some r => (s.modTile t fun x => { x with mx := { x.mx with run := none } }).retireThe t st r

/-- The parked run retires with a status. -/
def State.retireParked (s : State) (t st : Nat) : State :=
  match (s.tile t).mx.parked with
  | none => s
  | some r => (s.modTile t fun x => { x with mx := { x.mx with parked := none, parkFor := none } }).retireThe t st r

def State.modRun (s : State) (t : Nat) (f : Run → Run) : State :=
  s.modTile t fun x => { x with mx := { x.mx with run := x.mx.run.map f } }

/-! ### Outputs and their landing writes (R313, R316) -/

/-- The bytes of an output element of tO in memory, or the words of a plane. -/
def outSize (e : Nat) : Nat := if tenType e = 1 then 2 else 4

/-- The cut of a byte run at 64 B boundaries: address and bytes. -/
def cut64 (va n : Nat) : List (Nat × Nat) :=
  if n = 0 then []
  else (List.range ((va + n - 1) / 64 - va / 64 + 1)).map fun k =>
    let a := max va ((va / 64 + k) * 64)
    (a, min (va + n) ((va / 64 + k + 1) * 64) - a)

/-- The writes of block row `x` without their data, in no particular order: address, bytes and outputs that end with each. -/
def Run.rowWrites (r : Run) (x : Nat) : List (Nat × Nat × Nat) :=
  let e := r.tO.toNat
  let row := tenBase e + (r.rA + x) * tenRstride e
  if r.cols = 0 then []
  else if tenType e = 0 then
    let w0 := r.rB / 64
    let w1 := (r.rB + r.cols - 1) / 64
    (List.range (tenPlanes e)).flatMap fun j =>
      (List.range (w1 - w0 + 1)).flatMap fun w =>
        let a := row + j * tenPstride e + 8 * (w0 + w)
        let n := if j + 1 = tenPlanes e then min r.cols (64 * (w + 1)) - 64 * w else 0
        let l := cut64 a 8
        l.zipIdx.map fun p => (p.1.1, p.1.2, if p.2 + 1 = l.length then n else 0)
  else
    let z := outSize e
    (cut64 (row + r.rB * z) (r.cols * z)).map fun p =>
      let done (b : Nat) : Nat := (b - (row + r.rB * z)) / z
      (p.1, p.2, done (p.1 + p.2) - done p.1)

def insertWrite (w : Nat × Nat × Nat) : List (Nat × Nat × Nat) → List (Nat × Nat × Nat)
  | [] => [w]
  | v :: r => if w.1 < v.1 then w :: v :: r else v :: insertWrite w r

/-- For each write of a block row, the outputs of the row that must be finished before it can be made. -/
def Run.rowNeeds (r : Run) (x : Nat) : List Nat :=
  let e := r.tO.toNat
  let row := tenBase e + (r.rA + x) * tenRstride e
  if r.cols = 0 then []
  else if tenType e = 0 then
    let w0 := r.rB / 64
    let w1 := (r.rB + r.cols - 1) / 64
    (List.range (tenPlanes e)).flatMap fun j =>
      (List.range (w1 - w0 + 1)).flatMap fun w => (cut64 (row + j * tenPstride e + 8 * (w0 + w)) 8).map fun _ => min r.cols (64 * (w + 1))
  else
    let z := outSize e
    (cut64 (row + r.rB * z) (r.cols * z)).map fun p => ceilDiv (p.1 + p.2 - (row + r.rB * z)) z

/-- All landing writes of a run in increasing address order. -/
def Run.allWrites (r : Run) : List (Nat × Nat × Nat) :=
  ((List.range r.rows).flatMap r.rowWrites).mergeSort fun a b => decide (a.1 ≤ b.1)

/-- The window of a run: from its lowest output byte to the end of its highest (R316). -/
def Run.window (r : Run) : Nat × Nat :=
  match r.allWrites with
  | [] => (tenBase r.tO.toNat, 0)
  | w :: l => (w.1 % 2 ^ 64, ((w :: l).foldl (fun m v => max m (v.1 + v.2.1)) 0) - w.1)

def insertLand (w : LandWrite) : List LandWrite → List LandWrite
  | [] => [w]
  | v :: r => if w.va < v.va then w :: v :: r else v :: insertLand w r

/-- `Act` (R314). -/
def actFp (tbl v : Nat) : Fl Nat :=
  let d := fpDec pF32 v
  if d.isNan then (v, 0)
  else
    let x0 := fpDec pF32 (fld tbl 0 32)
    let i := match x0 with
      | .fin sn m e =>
        match d with
        | .inf neg => if neg then 0 else 63
        | .fin s2 m2 e2 =>
          let dd := addDy s2 m2 e2 (!sn) m e
          let q := dd.2 - sext (fld tbl 32 8) 8
          let k : Int := if 0 ≤ q then dd.1 * (2 ^ q.toNat : Nat) else dd.1 / (2 ^ (-q).toNat : Nat)
          (max 0 (min 63 k)).toNat
        | .nan _ => 0
      | _ => 0
    fmaFp pF32 .rne (fld tbl (128 + 64 * i) 32) v (fld tbl (160 + 64 * i) 32)

/-- The fused chain of one output (R313): the bits that land and the flags. -/
def Run.chainOut (r : Run) (tbl : Nat) (x y : Nat) : Fl Nat :=
  let v := if mxStage r.img 0 then r.value x y else (r.product x y, 0)
  let v1 := roundFp pF32 .rne (decide (v.1 < 0)) v.1.natAbs 1 v.2
  let v2 := if mxStage r.img 1 then addFp pF32 .rne v1.1 (((r.bias.getD [])[y]?).getD 0) else (v1.1, 0)
  let v3 := if mxStage r.img 2 then actFp tbl v2.1 else (v2.1, 0)
  let fl := v1.2 ||| v2.2 ||| v3.2
  let e := r.tO.toNat
  if !mxStage r.img 3 then (v3.1, fl)
  else if tenType e = 0 then
    let (bm, be) := (posFin (tenScale e)).getD (1, 0)
    let (_, _, lo) := r.exps.getD ([], [], [])
    let q := quantize (tenPlanes e) (tenSigned e) bm (be + expAt lo x) (fpDec pF32 v3.1)
    (trunc q.1 (tenPlanes e), fl ||| q.2)
  else if tenType e = 1 then let b := f32ToBf v3.1; (b.1, fl ||| b.2)
  else (v3.1, fl)

/-- The byte image of a row of outputs: plane words for BPI, else elements; `bytes va n` gives what lands at an address. -/
def Run.rowBytes (r : Run) (x : Nat) (vals : List Nat) (va n : Nat) : Nat :=
  let e := r.tO.toNat
  let row := tenBase e + (r.rA + x) * tenRstride e
  if tenType e = 0 then
    let planes := (List.range (tenPlanes e)).filterMap fun j =>
      (List.range ((r.rB + r.cols - 1) / 64 - r.rB / 64 + 1)).findSome? fun w =>
        let a := row + j * tenPstride e + 8 * (r.rB / 64 + w)
        if a ≤ va ∧ va < a + 8 then
          let word := ((List.range 64).filter fun k => fld ((vals[64 * w + k]?).getD 0) (tenPlanes e - 1 - j) 1 == 1).foldl (fun m k => m + 2 ^ k) 0
          some (fld word (8 * (va - a)) (8 * n))
        else none
    planes.getLastD 0
  else
    let z := outSize e
    let all := vals.zipIdx.foldl (fun m p => m + p.1 % 2 ^ (8 * z) * 2 ^ (8 * z * p.2)) 0
    fld all (8 * (va - (row + r.rB * z))) (8 * n)

/-! ### Reads at the end of the steps (R324) -/

/-- The landing channel of a run, whose own window does not hold up its reads (R246, R316; log 20). -/
def Run.own (r : Run) (t : Nat) : Option (Nat × Nat) := if mxCist r.img then none else some (t, mxChan r.img)

/-- Bytes read one after another by the engine of a run, until one cannot be read: what has been read, and the cause and address of that one, cause
0 where the guard of its pool stalls it. -/
def State.readSome (s : State) (t nb : Nat) (own : Option (Nat × Nat)) : List Nat → List Nat × State × Option (Nat × Nat)
  | [] => ([], s, none)
  | a :: r =>
    match s.engineFetch t a nb own with
    | .error e => ([], s, some e)
    | .ok (v, s1) =>
      let n := State.readSome s1 t nb own r
      (v :: n.1, n.2)

/-- Bytes read one after another, or the cause and the address of the first that cannot be read. -/
def State.readEach (s : State) (t nb : Nat) (own : Option (Nat × Nat)) (l : List Nat) : Except (Nat × Nat) (List Nat × State) :=
  match s.readSome t nb own l with
  | (_, _, some e) => .error e
  | (v, s1, none) => .ok (v, s1)

/-- A run that cannot read goes on in the next tc where a guard stalls it, and is to freeze at a fault (R246, R324). -/
def State.runStops (s : State) (t : Nat) (e : Nat × Nat) : State :=
  s.modRun t fun r => if e.1 = 0 then { r with readyAt := s.tc + 1 } else { r with fault := some e }

def expAddrs (e r0 n : Nat) : List Nat := if tenExp e then (List.range n).map fun r => (tenExps e + r0 + r) % 2 ^ 64 else []

/-- The exponent tables are read before the first output or deposit. -/
def State.readExps (s : State) (t : Nat) (r : Run) : Except (Nat × Nat) (Run × State) :=
  if r.exps.isSome then .ok (r, s)
  else
    let o := r.tO.toNat
    let wantO := !mxCist r.img && tenType o == 0
    match s.readEach t 1 (r.own t) (expAddrs r.tA.toNat r.rA r.rows) with
    | .error e => .error e
    | .ok (a, s1) =>
      match s1.readEach t 1 (r.own t) (expAddrs r.tB.toNat r.rB r.cols) with
      | .error e => .error e
      | .ok (b, s2) =>
        match s2.readEach t 1 (r.own t) (if wantO then expAddrs o r.rA r.rows else []) with
        | .error e => .error e
        | .ok (c, s3) => .ok ({ r with exps := some (a.map (sext · 8), b.map (sext · 8), c.map (sext · 8)) }, s3)

/-- The bias vector is read with the first output row, column by column: the run with what has been read, and where the reading stops (R324). -/
def State.readBias (s : State) (t : Nat) (r : Run) : Run × State × Option (Nat × Nat) :=
  if !mxStage r.img 1 then (r, s, none)
  else
    let old := r.bias.getD []
    let n := s.readSome t 4 (r.own t) (((List.range r.cols).drop old.length).map fun c => (mxBias r.img + 4 * (r.rB + c)) % 2 ^ 64)
    ({ r with bias := some (old ++ n.1) }, n.2)

/-! ### Acceptance (R307, R312) -/

/-- The neighbour from which A comes (west), and from which B comes (north). -/
def westOf (t : Nat) : Nat := nextStop t 1
def northOf (t : Nat) : Nat := nextStop t 3
def eastOf (t : Nat) : Nat := nextStop t 0
def southOf (t : Nat) : Nat := nextStop t 2

/-- Whether a systolic field of the command asks for a link that is busy or fenced, or for a neighbour that is fenced. -/
def State.linkRefused (s : State) (t i : Nat) : Bool :=
  (mxAout i && (s.linkTaken (t, 0) || (s.tile (eastOf t)).mxDead)) ||
  (mxBout i && (s.linkTaken (t, 2) || (s.tile (southOf t)).mxDead)) ||
  (mxAin i && (s.cascLinks.contains (westOf t, 0) || s.linkFenced (westOf t, 0) || (s.tile (westOf t)).mxDead)) ||
  (mxBin i && (s.cascLinks.contains (northOf t, 2) || s.linkFenced (northOf t, 2) || (s.tile (northOf t)).mxDead))

/-- The heads of the engine's two queues, with the tc of arrival and whether they are local. -/
def State.mxHeads (s : State) (t : Nat) : List (Nat × Bool × MxCmd) :=
  let x := s.tile t
  let loc := match x.mx.localQ with
    | c :: _ => if c.arrived < s.tc && x.storesReady c.jet c.upTo then [(c.arrived + 1, true, c)] else []
    | [] => []
  let bas := match x.liveBasins.find? fun e => e.2.kind == .engine && !e.2.engCopy with
    | some (_, k) => match k.slots with
      | m :: _ => if m.from_ ≤ s.tc then
          [(m.from_, false, ({ img := BitVec.ofNat 512 m.payload, checked := true, issuer := m.src, inst := m.inst, jet := 0, upTo := 0, arrived := m.from_ } : MxCmd))]
        else []
      | [] => []
    | none => []
  (loc ++ bas).filter fun e =>
    let i := e.2.2.img.toNat
    let c := x.chan (mxChan i)
    mxCist i || (c.state != .landing && c.state != .frozen)

/-- Whether a self-test of the array is due, between runs: none runs and none is parked (R327, R386). -/
def State.mxTestDue (s : State) (t : Nat) : Bool :=
  let x := s.tile t
  x.mx.run.isNone && x.mx.parked.isNone && !x.mx.testing && x.stint != 0 && decide (x.mx.testedAt + 1000 * x.stint.toNat ≤ s.dev.time)

/-- Whether a parked run resumes now (R326): the other bank is free and its jet is restored or killed. -/
def Tile.mxResumes (x : Tile) : Bool := x.mx.run.isNone && x.mx.parked.isSome && x.mx.parkFor.isNone && !x.mx.testing

/-- The command the engine accepts now: of two heads the one that arrived earlier, the local one in a tie (log 9). -/
def State.mxHead (s : State) (t : Nat) : Option (Bool × MxCmd) :=
  let x := s.tile t
  if x.gated || x.inReset || x.mx.run.isSome || x.mx.testing || x.mxResumes || s.mxTestDue t then none
  else
    match s.mxHeads t with
    | [] => none
    | [e] => some e.2
    | e :: f :: _ => if e.1 ≤ f.1 then some e.2 else some f.2

/-- The run a command would start, with the rows of a neighbour whose stream it is to take where they are known. -/
def State.mxRun (s : State) (t : Nat) (c : MxCmd) : Run :=
  let i := c.img.toNat
  let e (k : Nat) : BitVec 1024 := Tbl.get 0 (s.tile t).mx.tids (fld i k 8)
  let rowA := match (s.tile (westOf t)).mx.run with | some r => if mxAin i && mxAout r.img then r.rA else mxRow0A i | none => mxRow0A i
  let rowB := match (s.tile (northOf t)).mx.run with | some r => if mxBin i && mxBout r.img then r.rB else mxRow0B i | none => mxRow0B i
  { cmd := c, tA := e 160, tB := e 168, tO := e 176, rA := rowA, rB := rowB, qab := [], qa := [], qb := [], step := 0, readyAt := 0, lastAt := 0,
    outNext := 0, part := 0, made := 0, flags := 0, state := .running, precSent := 0, acceptedAt := s.tc, exps := none, bias := none, pinned := [],
    fault := none, inA := [], inB := [] }

/-- Whether the rows of A, of B, that a run takes are known: its own, or those of the sender whose stream has begun (R312). -/
def Run.knowsA (r : Run) : Bool := !mxAin r.img || decide (0 < r.step) || !r.inA.isEmpty
def Run.knowsB (r : Run) : Bool := !mxBin r.img || decide (0 < r.step) || !r.inB.isEmpty

/-- Whether a command is bad (R307 status 2). The row of an operand that comes over a link is looked at when its stream begins (R312). -/
def State.mxBad (s : State) (t : Nat) (r : Run) : Bool :=
  let i := r.img
  let a := r.tA.toNat
  let b := r.tB.toNat
  let o := r.tO.toNat
  let x := s.tile t
  mxReserved i || a == 0 || b == 0 || tenType a != 0 || tenType b != 0 || decide (tenPlanes a < mxPa i) || decide (tenPlanes b < mxPb i) ||
  (if mxCist i then
    let n := mxRows i * mxCols i
    decide (256 < n) || !x.scratch (mxCbase i) (8 + 48 * n) || decide (fld (x.poolRead (mxCbase i) 8) 16 8 + 1 < n)
  else
    o == 0 || (!mxStage i 3 && tenType o != 2) ||
    (tenType o == 0 && r.knowsB && (r.rB % 64 != 0 || (mxCols i % 64 != 0 && decide (r.rB + mxCols i < tenRows b)))) ||
    (r.knowsA && r.rows != 0 && decide (tenRows o < r.rA + r.rows)) || (r.knowsB && r.cols != 0 && decide (tenCols o < r.rB + r.cols)) ||
    tenNout a != 0 || tenNout b != 0)

/-- The status an acceptance gives, the first that applies; 0 where the command is accepted. -/
def State.mxStatus (s : State) (t : Nat) (r : Run) : Nat :=
  let x := s.tile t
  if r.cmd.checked && !x.capOk (fld r.img 0 64) false r.cmd.issuer then 1
  else if x.mxDead then 5
  else if s.mxBad t r then 2
  else if s.linkRefused t r.img then 3
  else 0

/-- The physical lines of words in memory: line numbers with their address; words of a pool or of another device pin nothing. -/
def State.opLines (s : State) (t : Nat) (ws : List Nat) : List (Nat × Nat) :=
  (ws.filterMap fun a =>
    match s.partsOf t .read .page true a 8 with
    | .ok [p] => if p.path = .pool || paIo p.addr || paDev p.addr != s.dev.device.toNat then none else some (p.addr / 128, a)
    | _ => none).foldl (fun l e => if l.any fun f => f.1 == e.1 then l else l ++ [e]) []

/-- Lines are brought into their slices and pinned where a pin is free (R221, R222). The words of a step come to the fetch unit beside the routers, whose
links could not carry them at the pace of R310: the model's choice (log 20). -/
def State.pinLine (s : State) (t line : Nat) : State :=
  let h := homeOf (128 * line)
  let s1 := s.l2Bring line
  (s1.modStop h fun x => { x with pins := Tbl.set x.pins line (x.pinsOf line + 1) }).modRun t fun r => { r with pinned := r.pinned ++ [line] }

def State.pinnable (s : State) (line : Nat) : Bool :=
  let x := s.stop (homeOf (128 * line))
  if x.l2Lines.contains line then decide (x.pinsOf line < 3)
  else
    let mates := x.l2Lines.filter fun l => l2Set l == l2Set line
    decide (mates.length < 12) || mates.any fun l => x.pinsOf l == 0

/-- The lines that a step needs are pinned one after another, each while a pin is free as it is made: the latency they bring, and whether one is
left that waits for a pin (R222). -/
def State.pinAll (s : State) (t : Nat) (need : List (Nat × Nat)) : State × Nat × Bool :=
  need.foldl (fun (m : State × Nat × Bool) e =>
    if m.1.pinnable e.1 then
      let cost := (m.1.xlate t e.2).2 + if (m.1.stop (homeOf (128 * e.1))).l2Lines.contains e.1 then 0 else m.1.missLeft e.1 0
      ((m.1.cacheFor t e.2 8).pinLine t e.1, max m.2.1 cost, m.2.2)
    else (m.1, m.2.1, true)) (s, 0, false)

/-- A command of a chain is accepted by the engine of tile `t` (R339). -/
def State.chainTakes (s : State) (t : Nat) (c : MxCmd) : State :=
  match (List.range 8).find? fun k => c.issuer == .tile (chainStop k) && mxDone c.img.toNat == s.chainHandle k with
  | some k => s.modChain k fun h => { h with waiting := h.waiting.erase t }
  | none => s

/-- `MATRIX_ACCEPT` (R307, R310): the head is checked; it starts a run, or its completion message carries why not. -/
def execMatrixAccept (s : State) : Out :=
  let t := s.focus.a
  match s.mxHead t with
  | none => .next s
  | some (loc, c) =>
    let r := s.mxRun t c
    let s1 := (s.takeEngineHead t false loc).chainTakes t c
    let st := s.mxStatus t r
    if st != 0 then .next (s1.mxMessage t c st 0 0 0)
    else
      let w := r.fetches 0
      let l0 := (w.1 ++ w.2).foldl (fun m a => max m (s.agentCost t a)) 0
      let r1 : Run := { r with readyAt := s.tc + 4 + l0 }
      let s2 := s1.modTile t fun x => { x with mx := { x.mx with run := some r1 } }
      let s3 := (s.opLines t (w.1 ++ w.2)).foldl (fun (s : State) e => if s.pinnable e.1 then s.pinLine t e.1 else s) s2
      if mxCist r.img then .next s3
      else
        let ch := mxChan r.img
        let (id, s4) := (s3.dropGuard t ch).take
        let s5 := s4.modTile t fun x => x.modChan ch fun old =>
          { Channel.idle with state := .landing, use := .matrix, status := old.status, inst := c.inst, jet := c.jet, accepted := id, from_ := s.tc }
        .next (s5.openWindow t ch r.window.1 r.window.2)

/-! ### Precision messages (R321, R322) -/

/-- The precision messages of an operand: outlier slot, first block row of the group. -/
def precOf (e rows : Nat) : List (Nat × Nat) :=
  (List.range (tenNout e)).flatMap fun j => (List.range (ceilDiv rows 24)).map fun g => (j, 24 * g)

/-- All precision messages of a run in order: side, outlier slot, first block row. -/
def Run.precs (r : Run) : List (Nat × Nat × Nat) :=
  ((precOf r.tA.toNat r.rows).map fun e => (0, e)) ++ (precOf r.tB.toNat r.cols).map fun e => (1, e)

/-- Whether a stream the run takes has not begun (R312). -/
def Run.awaits (r : Run) : Bool := r.step == 0 && ((mxAin r.img && r.inA.isEmpty) || (mxBin r.img && r.inB.isEmpty))

/-- Whether a precision message is due. -/
def Run.precDue (r : Run) : Bool :=
  r.state == .running && r.fault.isNone && !r.awaits && decide (r.precSent < r.precs.length)

/-- `PRECISION_MESSAGE` (R321, R322): the next group of outlier values goes to the precision basin. -/
def execPrecisionMessage (s : State) : Out :=
  let t := s.focus.a
  match (s.tile t).mx.run with
  | none => .next s
  | some r =>
    match r.precs[r.precSent]? with
    | none => .next s
    | some (side, j, first) =>
      let e := if side = 0 then r.tA.toNat else r.tB.toNat
      let r0 := if side = 0 then r.rA else r.rB
      let n := min 24 ((if side = 0 then r.rows else r.cols) - first)
      match s.readEach t 2 (r.own t) ((List.range n).map fun k => (tenOaddr e + 32 * (r0 + first + k) + 2 * j) % 2 ^ 64) with
      | .error f => .next (s.runStops t f)
      | .ok (l, s1) =>
        let other := if side = 0 then fld r.img 168 8 else fld r.img 160 8
        let vals := l.zipIdx.foldl (fun m p => m + p.1 * 2 ^ (128 + 16 * p.2)) 0
        let m := mxCbase r.img + ((tenOuts e)[j]?).getD 0 * 2 ^ 32 + other * 2 ^ 48 + side * 2 ^ 56 + first * 2 ^ 64 + n * 2 ^ 80 +
          (mxCols r.img - 1) * 2 ^ 88 + (if side = 0 then r.rB else r.rA) * 2 ^ 96 +
          ((if side = 0 then mxPb r.img else mxPa r.img) - 1) * 2 ^ 112 + (mxRows r.img - 1) * 2 ^ 120 + vals
        .next ((s1.post t 0 (plainMsg t (BitVec.ofNat 32 (tenPrec e)) r.cmd.inst 64 m)).modRun t fun r => { r with precSent := r.precSent + 1 })

/-! ### Steps (R310 to R312) -/

/-- Whether a step's operands that come over links are there. -/
def Run.streamed (r : Run) (tc : Nat) : Bool :=
  (!mxAin r.img || match r.inA with | e :: _ => decide (e.1 ≤ tc) | [] => false) &&
  (!mxBin r.img || match r.inB with | e :: _ => decide (e.1 ≤ tc) | [] => false)

/-- Whether the engine runs a step in this tc; matrix steps are withheld at 105 °C (R372). -/
def State.mxStepDue (s : State) (t : Nat) : Bool :=
  match (s.tile t).mx.run with
  | none => false
  | some r => r.state == .running && r.fault.isNone && decide (r.step < r.total) && decide (r.readyAt ≤ s.tc) && r.streamed s.tc &&
      decide (r.precs.length ≤ r.precSent) && !s.dev.throttled && !(s.tile t).mx.testing && !((s.tile t).mx.parkAsked.isSome && r.passEnd r.step)

/-- Whether a run takes the words of a step of the run `r` as its next. -/
def Run.takes (q r : Run) (aSide : Bool) : Bool :=
  (if aSide then mxAin q.img else mxBin q.img) && q.step + (if aSide then q.inA.length else q.inB.length) == r.step

/-- A receiver with a step's words, and with the sender's rows. -/
def Run.push (q r : Run) (aSide : Bool) (tc : Nat) (ws : List Nat) : Run :=
  if aSide then { q with rA := r.rA, inA := q.inA ++ [(tc + 2, ws)] } else { q with rB := r.rB, inB := q.inB ++ [(tc + 2, ws)] }

/-- Whether a receiver does not match its sender (R312), or its outputs do not fit with the sender's rows (R307; log 20). -/
def State.unmatched (s : State) (to_ : Nat) (q r : Run) (aSide : Bool) : Bool :=
  r.step == 0 && (mxKc0 q.img != mxKc0 r.img || mxKrun q.img != mxKrun r.img || mxPa q.img != mxPa r.img || mxPb q.img != mxPb r.img ||
    s.mxBad to_ (q.push r aSide 0 []))

/-- The window of a receiver's channel follows the sender's rows once they are known (R312, R316). -/
def State.reopen (s : State) (t : Nat) (old new : Run) : State :=
  if mxCist new.img || old.window == new.window then s
  else (s.dropGuard t (mxChan new.img)).openWindow t (mxChan new.img) new.window.1 new.window.2

/-- A receiver's stream takes a step's words, the receiver running or parked (R326), or the receiver retires with status 2 where its command does not
match. A fenced engine receives no stream (R312). -/
def State.pushWords (s : State) (to_ : Nat) (r : Run) (aSide : Bool) (ws : List Nat) : State :=
  if (s.tile to_).mxDead then s
  else
  match (s.tile to_).mx.run.filter fun q => q.takes r aSide with
  | some q =>
    if s.unmatched to_ q r aSide then s.retireRun to_ 2
    else (s.modRun to_ fun q => q.push r aSide s.tc ws).reopen to_ q (q.push r aSide s.tc ws)
  | none =>
    match (s.tile to_).mx.parked.filter fun q => q.takes r aSide with
    | some q =>
      if s.unmatched to_ q r aSide then s.retireParked to_ 2
      else (s.modTile to_ fun x => { x with mx := { x.mx with parked := some (q.push r aSide s.tc ws) } }).reopen to_ q (q.push r aSide s.tc ws)
    | none => s

/-- `MATRIX_STEP` (R309 to R312, R222): a step waits for the lines it lacks, freezes at a fault of its fetch, or runs; its words go on to the
neighbours that take them; with the last step the pins are released. -/
def execMatrixStep (s : State) : Out :=
  let t := s.focus.a
  match (s.tile t).mx.run with
  | none => .next s
  | some r =>
    let w := r.fetches r.step
    let all := w.1 ++ w.2
    let n := s.pinAll t ((s.opLines t all).filter fun e => !r.pinned.contains e.1)
    let s1 := n.1
    if n.2.2 || n.2.1 != 0 then .next (s1.modRun t fun r => { r with readyAt := s.tc + max 1 n.2.1 })
    else
        match s1.readEach t 8 (r.own t) w.1 with
        | .error f => .next (s1.runStops t f)
        | .ok (la, s2) =>
          match s2.readEach t 8 (r.own t) w.2 with
          | .error f => .next (s2.runStops t f)
          | .ok (lb, s3) =>
            let wa := if mxAin r.img then (r.inA.head?.map (·.2)).getD [] else la
            let wb := if mxBin r.img then (r.inB.head?.map (·.2)).getD [] else lb
            let last := r.total ≤ r.step + 1
            let s4 := s3.modRun t fun q =>
              { q.accumulate q.step wa wb with
                step := q.step + 1
                inA := q.inA.drop 1
                inB := q.inB.drop 1
                readyAt := if last then s.tc + (if mxCist q.img then 4 else 12) else s.tc + (if (s.tile t).mxFenced = 0 then 1 else 2)
                lastAt := s.tc
                pinned := if last then [] else q.pinned }
            let s5 := if last then s4.unpin (((s3.tile t).mx.run.map (·.pinned)).getD []) else s4
            -- a fenced engine sends no stream (R312)
            let live := !(s.tile t).mxDead
            let s6 := if mxAout r.img && live then s5.pushWords (eastOf t) r true wa else s5
            .next (if mxBout r.img && live then s6.pushWords (southOf t) r false wb else s6)

/-- A receiver whose stream has not begun in time (R312). -/
def Run.timedOut (r : Run) (tc : Nat) : Bool := r.awaits && decide (r.acceptedAt + 4096 ≤ tc)

/-- `SYSTOLIC_WAIT_TIMEOUT` (R312): the receiver retires with status 3. -/
def execSystolicWaitTimeout (s : State) : Out := .next (s.retireRun s.focus.a 3)

/-! ### Faults and control (R324, R325) -/

/-- `MATRIX_FREEZE` (R324): the run, and its channel, freeze at the faulting access, which is reported. -/
def execMatrixFreeze (s : State) : Out :=
  let t := s.focus.a
  match (s.tile t).mx.run with
  | none => .next s
  | some r =>
    match r.fault with
    | none => .next s
    | some (cause, addr) =>
      let s1 := s.modRun t fun r => { r with state := .frozen }
      let s2 := if mxCist r.img then s1 else s1.setChan t (mxChan r.img) .frozen
      .next (s2.report t { cause := 19, addr := addr, info := cause, chan := mxChan r.img } r.cmd.inst)

/-- Whether a run must freeze now: the outputs before the one at which it freezes have landed (R324). -/
def Tile.mxFreezes (x : Tile) : Bool :=
  match x.mx.run with
  | some r => r.state == .running && match r.fault with
    | none => false
    | some f =>
      let c := x.chan (mxChan r.img)
      mxCist r.img || (!c.flying && match c.writes with | w :: _ => w.va != c.wm.toNat || w.va == f.2 | [] => true)
  | none => false

def Tile.mxFrozen (x : Tile) : Bool := match x.mx.run with | some r => r.state == .frozen | none => false

/-- A frozen run goes on: it repeats the faulting access. -/
def State.resumeRun (s : State) (t : Nat) : State :=
  match (s.tile t).mx.run with
  | none => s
  | some r =>
    let s1 := s.modRun t fun r => { r with state := .running, fault := none, readyAt := s.tc + 1 }
    if mxCist r.img then s1 else s1.setChan t (mxChan r.img) .landing

/-- The status word of `mxq` (R325). -/
def Tile.mxWord (x : Tile) : Nat :=
  let waiting := x.mx.localQ.length + match x.liveBasins.find? fun e => e.2.kind == .engine && !e.2.engCopy with | some (_, k) => k.slots.length + k.ring.length | none => 0
  let st := if x.mxDead then 4 else match x.mx.run with
    | some r => if r.state = .frozen then 2 else 1
    | none => if x.mx.parked.isSome then 3 else 0
  let passes := match x.mx.run with
    | some r => r.passes r.step
    | none => match x.mx.parked with | some r => r.passes r.step | none => 0
  st + min 255 waiting * 2 ^ 8 + passes % 2 ^ 16 * 2 ^ 16 + x.mx.last * 2 ^ 32

/-- `mxq`, fn 0 (R325). -/
def execMxqStatus (h : Hdr) (d : SliceOp) (s : State) : Out :=
  s.guarded { dst := d.range } fun s => (s.oweStatus 2 d s.here.mxWord).advance h 8

/-- `mxq`, fn 1 (R325). -/
def execMxqResume (h : Hdr) (d : SliceOp) (s : State) : Out :=
  s.guarded { dst := d.range } fun s =>
    if s.here.mxFrozen then ((s.resumeRun s.curTile).oweStatus 2 d 0).advance h 8 else (s.oweStatus 2 d 1).advance h 8

/-- `mxq`, fn 2 (R325). -/
def execMxqAbort (h : Hdr) (d : SliceOp) (s : State) : Out :=
  s.guarded { dst := d.range } fun s =>
    if s.here.mxFrozen then ((s.retireRun s.curTile 4).oweStatus 2 d 0).advance h 8 else (s.oweStatus 2 d 1).advance h 8

/-! ### Results (R316 to R318) -/

/-- Whether the chain finishes an output row in this tc. -/
def Run.rowDue (r : Run) (tc : Nat) : Bool :=
  !mxCist r.img && r.state == .running && r.fault.isNone && decide (r.total ≤ r.step) && decide (r.outNext < r.rows) && decide (r.readyAt ≤ tc)

/-- The landing writes of a row of which `done` outputs are finished and `r.part` were before, each with the watermark after it. -/
def Run.landWrites (r : Run) (x : Nat) (vals : List Nat) (from_ done : Nat) : List LandWrite :=
  let all := r.allWrites
  let win := r.window
  (((r.rowWrites x).zip (r.rowNeeds x)).filter fun w => decide (r.part < w.2) && decide (w.2 ≤ done)).map fun p =>
    let w := p.1
    let later := (all.dropWhile fun v => decide (v.1 ≤ w.1)).head?.map (·.1)
    { va := w.1 % 2 ^ 64, nb := w.2.1, data := r.rowBytes x vals w.1 w.2.1, from_ := from_, wmAfter := (later.getD (win.1 + win.2)) % 2 ^ 64, outs := w.2.2 }

/-- `done` outputs of the next row are finished: their bytes go to the landing channel, and with all of them the row is over. -/
def State.finishOutputs (s : State) (t : Nat) (r : Run) (done : Nat) : State :=
  let tbl := Tbl.get 0 (s.tile t).mx.acts (mxAct r.img)
  let outs := (List.range done).map fun y => r.chainOut tbl r.outNext y
  let ws := r.landWrites r.outNext (outs.map (·.1)) s.tc done
  let whole := decide (r.cols ≤ done)
  let s3 := s.modRun t fun _ =>
    { r with outNext := if whole then r.outNext + 1 else r.outNext, part := if whole then 0 else done, readyAt := s.tc + 1, made := r.made + (done - r.part),
             flags := r.flags ||| BitVec.ofNat 5 ((outs.drop r.part).foldl (fun m v => m ||| v.2) 0) }
  s3.modTile t fun x => x.modChan (mxChan r.img) fun c => { c with writes := ws.foldl (fun l w => insertLand w l) c.writes }

/-- `CHAIN_OUTPUT` (R313, R316, R324): the chain finishes an output row, or the outputs before the one whose bias cannot be read, and hands their
bytes to the landing channel. -/
def execChainOutput (s : State) : Out :=
  let t := s.focus.a
  match (s.tile t).mx.run with
  | none => .next s
  | some r =>
    match s.readExps t r with
    | .error f => .next (s.runStops t f)
    | .ok (r1, s1) =>
      match s1.readBias t r1 with
      | (r2, s2, none) => .next (s2.finishOutputs t r2 r2.cols)
      | (r2, s2, some f) => .next ((s2.finishOutputs t r2 (r2.bias.getD []).length).runStops t f)

/-- The unpadded outputs of a run, in order (R318). -/
def Run.outputs (r : Run) : Nat := r.rows * r.cols

/-- The pool byte of the cistern of the run's `k`-th output. -/
def Run.cistern (r : Run) (k : Nat) : Nat := mxCbase r.img + 8 + 48 * (k / r.cols * mxCols r.img + k % r.cols)

/-- Whether a deposit is made in this tc: writes of the block are not held by the landing guard (R247). -/
def Tile.depositDue (x : Tile) (dev t tc : Nat) : Bool :=
  match x.mx.run with
  | none => false
  | some r => mxCist r.img && r.state == .running && r.fault.isNone && decide (r.total ≤ r.step) && decide (r.made < r.outputs) &&
      decide (r.readyAt ≤ tc) && !x.guardWrite t (r.cistern r.made) 48 (dev, t)

/-- `CISTERN_DEPOSIT` (R318): the next output is added exactly to its cistern. -/
def execCisternDeposit (s : State) : Out :=
  let t := s.focus.a
  match (s.tile t).mx.run with
  | none => .next s
  | some r =>
    match s.readExps t r with
    | .error f => .next (s.runStops t f)
    | .ok (r1, s1) =>
      let v := r1.value (r1.made / r1.cols) (r1.made % r1.cols)
      let s2 := s1.modRun t fun _ => { r1 with made := r1.made + 1, lastAt := s.tc, readyAt := s.tc + 1 }
      .next (s2.modTile t fun x => x.applyAddend (r1.cistern r1.made) (mxCbase r1.img) 0 v.1 v.2)

/-- Whether the run is over (R317): its last landing write is performed, or 9 tc after its last deposit, which is last step + 4 + n + 8. -/
def Tile.mxComplete (x : Tile) (tc : Nat) : Bool :=
  match x.mx.run with
  | none => false
  | some r =>
    r.state == .running && r.fault.isNone && decide (r.total ≤ r.step) &&
      if mxCist r.img then
        decide (r.outputs ≤ r.made) && (if r.outputs = 0 then decide (r.lastAt + 12 ≤ tc) else decide (r.lastAt + 9 ≤ tc))
      else
        let c := x.chan (mxChan r.img)
        decide (r.rows ≤ r.outNext) && c.writes.isEmpty && !c.flying && !c.needGuard

/-- `MATRIX_COMPLETION` (R317). -/
def execMatrixCompletion (s : State) : Out := .next (s.retireRun s.focus.a 0)

/-! ### Parking (R326) -/

/-- A pre-emption asks for the run whose steps still go on to be parked. -/
def Tile.askPark (x : Tile) (key : Nat) : Tile :=
  match x.mx.run with
  | some r => if r.step < r.total ∧ x.mx.parked.isNone then { x with mx := { x.mx with parkAsked := some key } } else x
  | none => x

/-- Whether the run parks now: at the end of a pass, or frozen. -/
def Tile.parks (x : Tile) : Bool :=
  x.mx.parkAsked.isSome && match x.mx.run with | some r => r.passEnd r.step || r.state == .frozen | none => true

/-- `MATRIX_PARK` (R326): the run goes to the second accumulator bank; a run that has ended meanwhile is not parked. -/
def execMatrixPark (s : State) : Out :=
  let t := s.focus.a
  .next (s.modTile t fun x =>
    match x.mx.run with
    | some r =>
      if r.step < r.total then { x with mx := { x.mx with run := none, parked := some r, parkFor := x.mx.parkAsked, parkAsked := none } }
      else { x with mx := { x.mx with parkAsked := none } }
    | none => { x with mx := { x.mx with parkAsked := none } })

/-- The pre-empted jet is restored or killed: its parked run may resume. -/
def Tile.unpark (x : Tile) (key : Nat) : Tile := if x.mx.parkFor = some key then { x with mx := { x.mx with parkFor := none } } else x

/-- `PARKED_RUN_RESUME` (R326). -/
def execParkedRunResume (s : State) : Out :=
  let t := s.focus.a
  .next (s.modTile t fun x => { x with mx := { x.mx with
    run := x.mx.parked.map fun r => { r with readyAt := s.tc + 1 }, parked := none } })

/-! ### Self-test (R327, R361) -/

/-- The outcome of a self-test of the array: the sub-arrays that fail are fenced; with more than 8 the engine is dead. A fail is journaled and reported,
and so is, in the journal, the pass of the sub-array whose error has started the test (R361). -/
def State.mxTested (s : State) (t bad : Nat) (unit? : Option Nat) : State :=
  let x := s.tile t
  let f := x.mxFenced ||| BitVec.ofNat 16 bad
  let n := popcount64 f.toNat
  let s1 := s.modTile t fun x => { x with mxFenced := f, mxDead := x.mxDead || decide (8 < n), mx := { x.mx with testing := false, testedAt := s.dev.time } }
  (List.range 16).foldl (fun (s : State) k =>
    if bad.testBit k then (s.journal 5 0 t (BitVec.ofNat 32 (3 * 256 + k)) 1).report t { cause := 21, info := k, unit := 3 } 0
    else if unit? = some k then s.journal 5 0 t (BitVec.ofNat 32 (3 * 256 + k)) 0 else s) s1

/-- `MATRIX_SELFTEST` (R327, R361): the test of the array begins (focus 0), ends 64 tc later (focus 1), or follows the residue check of a step, whose
pass is then computed again (focus 2); in host-assisted mode such an error makes a journal record only (R367). Focus: tile, phase, the sub-array whose
error has started the test and 1 more. -/
def execMatrixSelftest (s : State) : Out :=
  let t := s.focus.a
  let c := s.focus.c
  let begin_ (s : State) : State := (s.modTile t fun x => { x with mx := { x.mx with testing := true } }).after 64 .matrixSelftest ⟨t, 1, c, 0, 0⟩
  match s.focus.b with
  | 0 => .next (begin_ s)
  | 1 =>
    let (v, s1) := s.draw
    .next (s1.mxTested t (v % 2 ^ 16) (if c = 0 then none else some (c - 1)))
  | _ =>
    let steps := match (s.tile t).mx.run with
      | some r => (r.step % mxChunks r.img % 64) * (if (s.tile t).mxFenced = 0 then 1 else 2)
      | none => 0
    let again (s : State) (d : Nat) : State := s.modRun t fun r => if r.step < r.total then { r with readyAt := s.tc + d + steps } else r
    if s.dev.duty.getLsbD 3 then .next (again (s.journal 5 0 t (BitVec.ofNat 32 (3 * 256 + (c - 1) % 16)) 0) 0)
    else .next (again (begin_ s) 64)

/-! ### Cistern instructions (R319, R320) -/

/-- The cause of a bad cistern access, and the address it is about: the block base is in a pool window and a multiple of 8, the index at
most 255, the cistern inside the base's pool. -/
def State.cistBad (s : State) (base ix : Nat) : Option Flt :=
  if base % 8 != 0 || (poolOf s.dev.device.toNat s.curTile base).isNone then some (dataFault 7 base 48)
  else if 255 < ix ∨ 2 ^ 20 < base % 2 ^ 20 + 56 + 48 * ix then some (dataFault 10 base 48)
  else none

/-- The addend of `addw` (R120): special, numerator, exponent. -/
def addendOf (kind : Nat) (signed : Bool) (k b c w : Nat) : Nat × Int × Int :=
  let of (d : Fp) : Nat × Int × Int :=
    match d with
    | .nan _ => (3, 0, 0)
    | .inf s => (if s then 2 else 1, 0, 0)
    | .fin s m e => (0, if s then -(m : Int) else m, e)
  match kind with
  | 0 => of (fpDec pF32 b)
  | 1 => of (prodFp (fpDec pF32 b) (fpDec pF32 c)).1
  | _ => (0, if signed then sext b (4 * w) else b, sext k 9)

def footCist (d : SliceOp) (srcs : List SliceOp) : Foot :=
  let r := srcs.flatMap SliceOp.range
  { src := r, rd := r, dst := d.range }

/-- `addw` (R319). -/
def execAddw (h : Hdr) (o : R4) (kind : BitVec 2) (signed : Bool) (k : BitVec 9) (s : State) : Out :=
  s.guarded (footCist .nz [o.d, o.a, o.b, o.c]) fun s =>
    let f := s.cur.frame
    let ix := o.d.get f
    let base := o.a.get f
    match s.cistBad base ix with
    | some e => s.trap e
    | none =>
      let a := addendOf kind.toNat signed k.toNat (o.b.get f) (o.c.get f) o.b.width
      let va := base + 8 + 48 * ix
      s.accessAll h 16 [{ op := .addw a.1 a.2.1 a.2.2 (base % 2 ^ 20), va := va, nb := 48, rep := va, whole := true }]

/-- `crd` (R320). -/
def execCrd (h : Hdr) (o : R3) (bf : Bool) (s : State) : Out :=
  s.guarded (footCist o.d [o.a, o.b]) fun s =>
    let f := s.cur.frame
    let ix := o.b.get f
    let base := o.a.get f
    match s.cistBad base ix with
    | some e => s.trap e
    | none =>
      let va := base + 8 + 48 * ix
      s.accessAll h 16 [{ op := .crd bf, va := va, nb := 48, rep := va, dst := o.d.range, direct := true, whole := true }]

/-- The bytes of chunk `k` of a clear of `n` cisterns: the status word with the first, and every cistern that ends in the chunk (R320, log 20). -/
def clearChunk (n k : Nat) : Nat × Nat :=
  let edge (b : Nat) : Nat := if b = 0 then 0 else 8 + 48 * min n ((b - 8) / 48)
  (edge (64 * k), edge (min (8 + 48 * n) (64 * (k + 1))) - edge (64 * k))

/-- `cclr` (R320): its stores begin one a tc; its status is written when the last is performed. -/
def execCclr (h : Hdr) (o : R2) (nm1 : BitVec 8) (s : State) : Out :=
  s.guarded (footCist o.d [o.a]) fun s =>
    let base := o.a.get s.cur.frame
    let n := nm1.toNat + 1
    let all := 8 + 48 * n
    let out := match s.partOf s.curTile .write .page false (0, base, all) with | .error c => some c | .ok _ => none
    match s.cistBad base 0 with
    | some e => s.trap e
    | none =>
      match (if 2 ^ 20 < base % 2 ^ 20 + all then some 10 else out) with
      | some c => s.trap (dataFault c base all)
      | none =>
        let m := ceilDiv all 64
        let req (k : Nat) : Req :=
          let c := clearChunk n k
          { op := .store, va := base + c.1, nb := c.2, rep := base + c.1, enables := fullEn c.2, data := if k = 0 then nm1.toNat * 2 ^ 16 else 0,
            from_ := s.tc + k, beat := some k, whole := true }
        let (id, s1) := s.oweLater o.d
        let first := s1.nextId
        let s2 := (List.range m).foldl (fun (s : State) k =>
          if (req k).nb = 0 then s
          else if k = 0 then match s.check s.curTile (req k) with
            | .ok p => s.enter (req k) p true
            | .error _ => s
          else s.enter (req k) none false) s1
        (s2.after (2 + m) .statusResultWrite ⟨s.curTile, s.curSlot, id, 6, first + s2.nextId * 2 ^ 64⟩).advance h 16

/-- `ADDW_UPDATE` (R319, R120): the update is applied, its store is performed, and the next update of the cistern begins. -/
def execAddwUpdate (s : State) : Out :=
  let t := s.focus.a
  match (s.tile t).addws.find? fun o => o.id == s.focus.b with
  | none => .next s
  | some o =>
    let s1 := s.modTile t fun x => ({ x with addws := x.addws.filter fun p => p.id != o.id }).applyAddend o.addr o.block o.special o.num o.exp
    let s2 := if o.dev = s.dev.device.toNat then (s1.markStored o.tile o.acc o.part).pump o.tile
      else s1.answerBy .tile o.dev t o.tile 1 13 (.writeAck o.tile (2 ^ 64 + o.part) [o.acc])
    .next (s2.startAddw t)

/-! ### Activation tables and the capability key (R303, R315) -/

/-- `actl` (R315): every page is checked at issue; its table is read and installed as its status comes. -/
def execActl (h : Hdr) (o : R2) (tb : BitVec 4) (s : State) : Out :=
  s.guarded (footCist o.d [o.a]) fun s =>
    let va := o.a.get s.cur.frame
    match s.partsOf s.curTile .read .page true va 528 with
    | .error c => s.trap (dataFault c va 528)
    | .ok l =>
      let (id, s1) := s.oweLater o.d
      let e : TableRead := ⟨s.cur.key, id, va, l.all fun p => p.kind == .free, l.any Access.strictPart⟩
      (((s1.modHere fun x => { x with tables := x.tables ++ [e] }).cacheFor s.curTile va 528).after (s.agentCost s.curTile va + 9) .statusResultWrite
        ⟨s.curTile, s.curSlot, id, 5, tb.toNat + 16 * (va + 2 ^ 64 * s.nextId)⟩).advance h 16

/-- Whether the chain of a run, or of a parked one, still uses an activation table. -/
def Tile.actBusy (x : Tile) (k : Nat) : Bool :=
  (x.mx.run.toList ++ x.mx.parked.toList).any fun r => !mxCist r.img && mxStage r.img 2 && mxAct r.img == k && decide (r.outNext < r.rows)

/-- Whether a read of `[va, va + n)` as a load of the jet with a key, issued when its next access was `upTo`, must wait: for the jet's own earlier
stores, atomics, nests and copies there (R262, R271), and for what orders a load (R264, R267, R270). -/
def State.readWaits (s : State) (t key upTo va n : Nat) : Bool :=
  let x := s.tile t
  match s.partsOf t .read .page true va n with
  | .error _ => false
  | .ok l => l.any fun p =>
    (x.acc.any fun b => b.jet == key && decide (b.id < upTo) && (b.isStore || b.isAtomic) && (s.partsAhead t b).any fun q => sameBytes q p && !q.performed) ||
      s.orderHolds t key upTo p || (p.path == .pool && p.pool == 1024 * s.dev.device.toNat + t && x.copyAhead key upTo p.addr p.nb)

/-- The new key of `capk`. -/
def capkKey (a : SliceOp) (imm : BitVec 32) (f : Frame) : BitVec 32 := if a.isNz then imm else BitVec.ofNat 32 (a.get f)

/-- `capk` (R303). -/
def execCapk (h : Hdr) (a : SliceOp) (imm : BitVec 32) (s : State) : Out :=
  s.guarded (footCist .nz [a]) fun s =>
    (s.modHere fun x => { x with capkey := capkKey a imm s.cur.frame }).advance h 12

end Sys2Proof.Machine
end

