-- ==== Sys2Proof/Machine/Nest.lean ====
section
/-!
DEFINITION. The loop-nest instruction (R149 to R153, R124, R125, R382): its issue, its beats, and the landing of their writes.
-/

namespace Sys2Proof.Machine

/-- Where an element lies: slices of the frame, or bytes of the pool. -/
inductive NLoc where
  | slices (start width : Nat)
  | bytes (addr n : Nat)
  deriving DecidableEq, Repr

def NLoc.meets : NLoc → NLoc → Bool
  | .slices a m, .slices b n => overlap (a, m) (b, n)
  | .bytes a m, .bytes b n => decide (a < b + n) && decide (b < a + m)
  | _, _ => false

/-- The value at a place. -/
def NLoc.val (l : NLoc) (x : Tile) (f : Frame) : Nat :=
  match l with
  | .slices s w => f.read s w
  | .bytes a n => x.poolRead a n

/-- The slice of view element `e`, which may lie before the view's first (R71). -/
def elemSliceInt (v : BitVec 64) (e : Int) : Int :=
  vBase v + (e % (vCols v : Nat)) * vStride v + (e / (vCols v : Nat)) * vRstride v

/-- Element of an operand at given indices, or its fault: frame range or pool range (R149, R71). -/
def NestSt.locate (n : NestSt) (x : Tile) (lim p : Nat) (ix : List Nat) : Except Flt NLoc :=
  let k := nestOff n.o p ix
  match n.o.op p with
  | some (.pool b) =>
    let a : Int := (16 * b.toNat : Nat) + k * (n.o.size : Nat)
    if 0 ≤ a ∧ x.scratch a.toNat n.o.size then .ok (.bytes a.toNat n.o.size)
    else .error { cause := 10, addr := trunc a 64 }
  | some (.view _ off) =>
    let v := n.view p
    let e : Int := off.toNat + k
    if e < 0 then .error { cause := 3, info := trunc (elemSliceInt v e) 64 }
    else
      match elemAt lim v e.toNat with
      | .ok s => .ok (.slices s (vWidth v))
      | .error i => .error { cause := 3, info := i }
  | none => .error { cause := 3 }

/-- An element of a beat: whether it is active, its places of A, B and D as they are read, and its place to be written. -/
structure NLane where
  act : Bool
  a : Option NLoc
  b : Option NLoc
  d : Option NLoc
  w : Option NLoc
  deriving DecidableEq, Repr

def NLane.reads (l : NLane) : List NLoc := l.a.toList ++ l.b.toList ++ l.d.toList
def NLane.all (l : NLane) : List NLoc := l.reads ++ l.w.toList

def NestSt.active (n : NestSt) (i0 : Nat) : Bool := n.o.mmode == .none || n.mask.getLsbD (i0 % 256)

/-- Whether an element reads D: `macc`, and under merge an inactive element of a view (R130, R150). -/
def NestSt.readsD (n : NestSt) (act : Bool) : Bool :=
  !n.red && ((act && n.fn == 6) || (!act && n.o.mmode == .merge && !n.o.d.isPool))

/-- Whether an element writes D (R130): an inactive one of a pool destination does not under merge. -/
def NestSt.writesD (n : NestSt) (act : Bool) : Bool :=
  !n.red && (act || n.o.mmode == .zero || !n.o.d.isPool)

/-- The operands that the element at indices `ix` reads or writes: their places, or their faults. -/
def NestSt.places (n : NestSt) (x : Tile) (lim : Nat) (ix : List Nat) (p : Nat) : Except Flt (Option NLoc) :=
  let act := n.active (ix.headD 0)
  let used := match p with | 0 => n.writesD act || n.readsD act | 1 => act | _ => act && n.o.b.isSome
  if used then (n.locate x lim p ix).map some else .ok none

/-- The lane at indices `ix`, or a fault of it. -/
def NestSt.laneAt (n : NestSt) (x : Tile) (lim : Nat) (ix : List Nat) : Except Flt NLane :=
  let act := n.active (ix.headD 0)
  match n.places x lim ix 0, n.places x lim ix 1, n.places x lim ix 2 with
  | .ok d, .ok a, .ok b =>
    .ok { act := act, a := a, b := b, d := if n.readsD act then d else none, w := if n.writesD act then d else none }
  | .error f, _, _ => .error f
  | _, .error f, _ => .error f
  | _, _, .error f => .error f

/-- The number of elements of the next beat (R151). -/
def NestSt.count (n : NestSt) : Nat := min (laneL n.o.ctl) (n.o.extent 0 - n.i 0)

/-- The indices of the elements of the next beat. -/
def NestSt.beatIdx (n : NestSt) : List (List Nat) := (List.range n.count).map fun k => (n.i 0 + k) :: n.idx.drop 1

def NestSt.lanes (n : NestSt) (x : Tile) (lim : Nat) : List (Except Flt NLane) := n.beatIdx.map (n.laneAt x lim)

/-- The indices behind these in the outer levels: the first that is not at its end is raised. -/
def bump : List Nat → List Nat → Option (List Nat)
  | x :: xs, i :: is => if i + 1 < x then some ((i + 1) :: is) else (bump xs is).map fun r => 0 :: r
  | _, _ => none

/-- The indices of the beat after this one, if there is one. -/
def NestSt.nextIdx (n : NestSt) : Option (List Nat) :=
  if n.i 0 + n.count < n.o.extent 0 then some ((n.i 0 + n.count) :: n.idx.drop 1)
  else (bump ((List.range 4).map fun l => n.o.extent (l + 1)) (n.idx.drop 1)).map fun r => 0 :: r

/-- The operation of an element-wise `nest` (R150). -/
def NestSt.calc (n : NestSt) (a b d : Nat) : Fl Nat :=
  let c := n.o.ctl
  if n.fn = 0 then (a, 0)
  else if c.fp then
    match n.fn with
    | 1 => addFp c.p c.rm a b
    | 2 => subFp c.p c.rm a b
    | 3 => mulFp c.p c.rm a b
    | 4 => minmaxFp c.p false a b
    | 5 => minmaxFp c.p true a b
    | _ => fmaFp c.p c.rm a b d
  else
    let x := c.rdInt a
    let y := c.rdInt b
    let r : Int := match n.fn with
      | 1 => x + y
      | 2 => x - y
      | 3 => x * y
      | 4 => if x ≤ y then x else y
      | 5 => if y ≤ x then x else y
      | _ => c.rdInt d + x * y
    (c.fit r, 0)

/-- The operator of a reduction, as `vred` numbers it (R142, R150). -/
def NestSt.redOp (n : NestSt) : Nat := if n.fn = 7 then 0 else if n.fn = 8 then 2 else 1

/-- A level-0 block's value joins the combined value (R123, R124, R125). -/
def NestSt.combine (n : NestSt) (blk : List (Option Nat)) : Fl Int :=
  let c := n.o.ctl
  let op := n.redOp
  if c.fp then
    let w := blk.map fun x => match x with | some v => c.widen v | none => (fpIdent op, 0)
    let t := tree (fpOp op c.rm) (fpIdent op) (w.map (·.1))
    if n.accSet then
      let r := fpOp op c.rm n.acc.toNat t.1
      (r.1, orFlags w ||| t.2 ||| r.2)
    else (t.1, orFlags w ||| t.2)
  else
    let ident := intIdent op (4 * c.e) c.signed
    (blk.foldl (fun a x => intOp op a (match x with | some v => c.redInt op v | none => ident)) (if n.accSet then n.acc else ident), 0)

/-- The beat ends a level-0 block of a reduction, and its last. -/
def NestSt.blockEnds (n : NestSt) : Bool := decide (n.o.extent 0 ≤ n.i 0 + n.count)
def NestSt.lastBlock (n : NestSt) : Bool := n.red && n.blockEnds && n.nextIdx.isNone

/-- The faults of a beat: those of its elements, and that of the element a reduction writes when it is over (R149, R150). -/
def NestSt.faults (n : NestSt) (x : Tile) (lim : Nat) : List Flt :=
  (n.beatIdx.flatMap fun ix => (List.range 3).filterMap fun p => match n.places x lim ix p with | .error f => some f | .ok _ => none) ++
    if n.lastBlock then (match n.locate x lim 0 [0, 0, 0, 0, 0] with | .error f => [f] | .ok _ => []) else []

/-- The pool bytes that the elements of a beat read, those of elements with another operand out of range among them. -/
def NestSt.poolReads (n : NestSt) (x : Tile) (lim : Nat) : List (Nat × Nat) :=
  n.beatIdx.flatMap fun ix => (List.range 3).filterMap fun p =>
    if p != 0 || n.readsD (n.active (ix.headD 0)) then
      match n.places x lim ix p with
      | .ok (some (.bytes a k)) => some (a, k)
      | _ => none
    else none

/-- The fault that a beat shows before it waits for anything (R347): frame range, then poison where an element is outside its pool besides,
then pool range. -/
def NestSt.firstFault (n : NestSt) (x : Tile) (lim : Nat) : Option Flt :=
  let pools := n.poolReads x lim
  let fs := n.faults x lim
  match fs.find? fun f => f.cause == 3 with
  | some f => some f
  | none => match fs.head?, pools.find? fun e => x.poolPoison e.1 e.2 with
    | some _, some e => some { cause := 8, addr := e.1, info := 2 }
    | some f, none => some f
    | none, _ => none

/-- The element that a reduction writes. -/
def NestSt.root (n : NestSt) (acc : Int) : Fl Nat :=
  let c := n.o.ctl
  if c.fp then c.narrow acc.toNat
  else (if n.redOp = 0 then c.fit acc else trunc acc (4 * c.e), 0)

/-- Lop (R153) and P (R151). -/
def NestSt.lop (n : NestSt) : Nat :=
  if n.fn = 0 then 1 else if n.o.ctl.fp then 4 else if n.fn = 3 || n.fn = 6 then 3 else 1
def NestSt.poolLat (n : NestSt) : Nat := if n.o.anyPool then 5 else 0

def State.modNest (s : State) (t id : Nat) (f : NestSt → NestSt) : State :=
  s.modTile t fun x => { x with nests := x.nests.map fun n => if n.id = id then f n else n }
def State.dropNest (s : State) (t id : Nat) : State :=
  s.modTile t fun x => { x with nests := x.nests.filter fun n => n.id != id }

/-- The progress a stopped `nest` keeps: a reduction's current block is abandoned (R152). -/
def NestSt.halted (n : NestSt) : NestSt :=
  { n with stopped := true, blk := [], idx := if n.red then 0 :: n.idx.drop 1 else n.idx, fl := 0 }

/-- The `nest` stops between beats; flags it has raised so far are kept in `fpflags` (R152). -/
def State.haltNest (s : State) (t : Nat) (n : NestSt) : State :=
  let s1 := s.modNest t n.id NestSt.halted
  match (s.tile t).slotOf n.key with
  | some slot => s1.modJet t slot fun j => { j with fpflags := j.fpflags ||| n.fl }
  | none => s1

/-- A beat's fault (R152, R388). Where the jet has ended before, the record alone remains (R97). -/
def State.nestFault (s : State) (t : Nat) (n : NestSt) (f : Flt) : State :=
  match (s.tile t).slotOf n.key with
  | some slot => (s.haltNest t n).lateFault t slot f n.pc [n.id] n.num
  | none => (s.sendLocal t (faultMsg s t t (faultRecord s t f n.pc n.inst n.jetid) n.inst)).dropNest t n.id

/-- What holds back the pool accesses of a `nest`: earlier accesses of its jet to the same bytes, acquires and fences (R262, R267, R270). -/
def Tile.nestOrder (x : Tile) (n : NestSt) (ls : List NLoc) : Bool :=
  let pools := ls.filter fun l => match l with | .bytes _ _ => true | .slices _ _ => false
  !pools.isEmpty &&
    ((x.acc.any fun b => b.jet == n.key && decide (b.id < n.num) &&
        (decide (b.stage < 2) || (b.acq && b.parts.any fun q => !q.performed) ||
         b.parts.any fun q => q.path == .pool && q.pool == n.pool && !q.performed && pools.any fun l => l.meets (.bytes q.addr q.nb))) ||
      x.fences.any fun f => f.jet == n.key && decide (f.upTo ≤ n.num))

/-- A write at a place, as the landing makes it. -/
def landOf (l : List (NLoc × Nat)) (flags : Nat) : NestLand :=
  { sl := l.filterMap fun e => match e.1 with | .slices s w => some (s, w, e.2 % 2 ^ (4 * w)) | .bytes _ _ => none
    pool := l.filterMap fun e => match e.1 with | .bytes a n => some (a, e.2 % 2 ^ (8 * n)) | .slices _ _ => none
    flags := BitVec.ofNat 5 flags }

/-- The beat is over: its writes land `d` tc later, and the next beat starts in the next tc. -/
def State.nestGo (s : State) (t : Nat) (n : NestSt) (d : Nat) (land : Option NestLand) : State :=
  let nx := n.nextIdx
  let f : Focus := ⟨t, n.slot, n.id, 0, 0⟩
  let s1 := (s.modNest t n.id fun _ => { n with
    owed := n.owed ++ land.toList, idx := nx.getD n.idx, finished := nx.isNone }).modTile t fun x =>
      let y : Tile := { x with laneBusy := max x.laneBusy (s.tc + 1) }
      -- the granules it reads leave pending-read in the tc after its last beat has started (R67)
      match (if nx.isNone then x.slotOf n.key else none) with
      | some slot => y.modJet slot fun j => { j with pend := j.pend ++ [(⟨n.src, s.tc⟩ : PendRead)] }
      | none => y
  let s2 := if land.isSome then s1.after d .nestBeat { f with d := 1 } else s1
  if nx.isSome then s2.after 1 .nestBeat f else s2

/-- The elements of a beat are worked out (R150, R110). -/
def State.nestWork (s : State) (t : Nat) (n : NestSt) (j : Jet) (ls : List NLane) : State :=
  let x := s.tile t
  let v (l : Option NLoc) : Nat := match l with | some p => p.val x (j.frame.apply n.old) | none => 0
  let trap (s : State) (fl : Nat) : State :=
    let s1 := match x.slotOf n.key with
      | some slot => s.modJet t slot fun j => { j with fpflags := j.fpflags ||| BitVec.ofNat 5 fl }
      | none => s
    s1.nestFault t n { cause := 11, flags := BitVec.ofNat 5 fl }
  if n.red then
    let n1 := { n with blk := n.blk ++ ls.map fun l => if l.act then some (v l.a) else none }
    if !n.blockEnds then s.nestGo t n1 0 none
    else
      let r := n1.combine n1.blk
      let last := n.nextIdx.isNone
      let root := if last then n1.root r.1 else (0, 0)
      let fl := r.2 ||| root.2
      if BitVec.ofNat 5 fl &&& x.fpten != 0 then trap s fl
      else
        let n2 := { n1 with acc := r.1, accSet := true, blk := [], fl := n.fl ||| BitVec.ofNat 5 fl }
        if last then
          match n.locate x j.limit 0 [0, 0, 0, 0, 0] with
          | .error f => s.nestFault t n f
          | .ok p => s.nestGo t n2 (n.poolLat + n.lop * (clog2 (n.o.extent 0) + 1)) (some (landOf [(p, root.1)] n2.fl.toNat))
        else s.nestGo t n2 0 none
  else
    let r := ls.map fun l => (l.w, if l.act then n.calc (v l.a) (v l.b) (v l.d) else (if n.o.mmode == .zero then 0 else v l.d, 0))
    let fl := r.foldl (fun f e => f ||| e.2.2) 0
    if BitVec.ofNat 5 fl &&& x.fpten != 0 then trap s fl
    else s.nestGo t n (n.poolLat + n.lop) (some (landOf (r.filterMap fun e => e.1.map fun p => (p, e.2.1)) fl))

/-- A beat is to start (R151, R152, R382): it faults, waits a tc, or reads its operands. -/
def State.nestStart (s : State) (t : Nat) (n : NestSt) : State :=
  let x := s.tile t
  let j := (x.jetOf n.key).getD Jet.empty
  let ls := n.lanes x j.limit
  let wait := s.after 1 .nestBeat ⟨t, n.slot, n.id, 0, 0⟩
  let ok := ls.filterMap fun l => match l with | .ok q => some q | .error _ => none
  let reads := ok.flatMap NLane.reads
  let pools := reads.filterMap fun l => match l with | .bytes a k => some (a, k) | .slices _ _ => none
  match n.firstFault x j.limit with
  | some f => s.nestFault t n f
  | none =>
    let pend := n.owed.flatMap fun l => l.sl.map (fun e => NLoc.slices e.1 e.2.1) ++ l.pool.map fun e => NLoc.bytes e.1 n.o.size
    let guards := pools.map fun e => (e.1, x.guardRead t e.1 e.2 (some (s.dev.device.toNat, t)) none)
    if reads.any fun l => pend.any l.meets then wait
    else if x.nestOrder n (ok.flatMap NLane.all) || pools.any (fun e => x.copyAhead n.key n.num e.1 e.2) then wait
    else if pools.any fun e => x.addwBusy e.1 e.2 then wait
    else if guards.any fun g => g.2 == .stall then wait
    else
      match pools.find? fun e => x.poolPoison e.1 e.2 with
      | some e => s.nestFault t n { cause := 8, addr := e.1, info := 2 }
      | none =>
        match guards.findSome? fun g => match g.2 with | .aborted c => some (g.1, c) | _ => none with
        | some g => s.nestFault t n { cause := 9, addr := g.1, info := g.2, chan := g.2 }
        | none => s.nestWork t n j ok

/-- The pool elements of a landing beat are written in order, or held by the guard; what finds the held writes full stays (R247). -/
def State.nestPool (s : State) (t : Nat) (n : NestSt) : List (Nat × Nat) → State × List (Nat × Nat)
  | [] => (s, [])
  | e :: r =>
    let z := n.o.size
    let x := s.tile t
    if x.addwBusy e.1 z then (s, e :: r)
    else if x.guardWrite t e.1 z (s.dev.device.toNat, t) then
      if x.heldWrites.length < 8 then
        State.nestPool (s.modTile t fun x => { x with heldWrites := x.heldWrites ++
          [⟨s.dev.device.toNat, t, n.num, 0, .write (fullEn z) e.2, e.1, z, s.nc, true, false⟩] }) t n r
      else (s, e :: r)
    else State.nestPool (s.modTile t fun x => x.poolWrite e.1 z (fullEn z) e.2) t n r

/-- A `nest` is over once its last beat has landed and no write of it is held. -/
def State.nestOver (s : State) (t : Nat) (n : NestSt) : State :=
  if n.finished && n.owed.isEmpty then
    let s1 := match (s.tile t).slotOf n.key with
      | some slot => s.modJet t slot fun j => { j with owed := j.owed.filter fun o => o.id != n.id }
      | none => s
    if (s.tile t).heldWrites.any fun h => h.acc == n.num then s1.after 1 .nestBeat ⟨t, n.slot, n.id, 1, 0⟩ else s1.dropNest t n.id
  else s

/-- The oldest beat that has not landed lands, as far as it can. -/
def State.nestLand (s : State) (t : Nat) (n : NestSt) : State :=
  match n.owed with
  | [] => s.nestOver t n
  | l :: rest =>
    let s1 := match (s.tile t).slotOf n.key with
      | some slot => s.modJet t slot fun j => { j with frame := j.frame.apply l.sl, poison := cleanWords j.poison l.sl, fpflags := j.fpflags ||| l.flags }
      | none => s
    let p := s1.nestPool t n l.pool
    let n1 := { n with owed := if p.2.isEmpty then rest else ⟨[], p.2, 0⟩ :: rest
                       old := n.old.filter fun o => !l.sl.any fun e => overlap (o.1, o.2.1) (e.1, e.2.1) }
    let s2 := p.1.modNest t n.id fun _ => n1
    if p.2.isEmpty then s2.nestOver t n1 else s2.after 1 .nestBeat ⟨t, n.slot, n.id, 1, 0⟩

/-- `NEST_BEAT` (R151): a beat starts (d 0), or an earlier beat lands (d 1). Focus: tile, slot, result. -/
def execNestBeat (s : State) : Out :=
  let f := s.focus
  match (s.tile f.a).nests.find? fun n => n.id == f.c || (f.d == 1 && n.was.contains f.c) with
  | none => .next (s.modTile f.a fun x => x.limboDone f.c)
  | some n =>
    if f.d = 1 then .next (s.nestLand f.a n)
    else if n.stopped || n.finished then .next s
    else .next (s.nestStart f.a n)

/-! ### Issue -/

/-- A view operand whose latched width is not the class's (R127, R149). -/
def Jet.nestBad (j : Jet) (o : NestF) : Bool :=
  o.used.any fun p => match o.op p with
    | some (.view k _) => vWidth (j.view k.toNat) != o.ctl.e
    | _ => false

/-- The value a view operand latches (R72). -/
def Jet.latch (j : Jet) (p : Option NestOp) : BitVec 64 :=
  match p with
  | some (.view k _) => j.view k.toNat
  | _ => 0

/-- The state a `nest` starts from: its first indices, or those where it was stopped, with the views it latched then (R152, R354). Beats that had begun
by then land yet, under the results it owed then. -/
def State.nestFrom (s : State) (fn : Nat) (o : NestF) (id : Nat) : NestSt :=
  let j := s.cur
  match s.here.nests.find? fun n => n.key == j.key && n.pc == j.pc && n.stopped with
  | some n => { n with id := id, was := n.id :: n.was, slot := s.curSlot, fn := fn, o := o, stopped := false }
  | none =>
    { id := id, num := j.ordOf id, pool := 1024 * s.dev.device.toNat + s.curTile, key := j.key, slot := s.curSlot, inst := j.inst,
      jetid := j.id16 s.curSlot, pc := j.pc, fn := fn, o := o, vd := j.latch (some o.d), va := j.latch (some o.a), vb := j.latch o.b,
      mask := j.mask o.mask.toNat, src := [], old := [], idx := [0, 0, 0, 0, 0], acc := 0, accSet := false, blk := [], fl := 0, owed := [],
      stopped := false, finished := false }

/-- The slices an operand of the `nest` still reaches. -/
def NestSt.slices (n : NestSt) (lim p : Nat) : List (Nat × Nat) := viewReach n.o n.red p (n.view p) lim n.idx

/-- The operands whose views are read (R67). -/
def NestSt.readOps (n : NestSt) : List Nat :=
  [1] ++ (if n.o.b.isSome then [2] else []) ++ if !n.red && (n.fn == 6 || n.o.mmode == .merge) then [0] else []

/-- The footprint of a `nest` (R67, R131). -/
def State.nestFoot (s : State) (fn : Nat) (o : NestF) : Foot :=
  let n := s.nestFrom fn o 0
  let src := n.readOps.flatMap (n.slices s.cur.limit)
  { src := src
    rd := src
    dst := n.slices s.cur.limit 0
    msrc := if o.mmode == .none then [] else [o.mask.toNat]
    ill := if s.cur.nestBad o ∧ !(s.here.nests.any fun n => n.key == s.cur.key && n.pc == s.cur.pc && n.stopped) then some 6 else none }

/-- The slices among these that fixed-latency results still owe, with what they hold now (R92): an instruction that reads its sources after
its issue tc reads these. -/
def Jet.owedOld (j : Jet) (src : List (Nat × Nat)) : List (Nat × Nat × Nat) :=
  (((j.owed.filter (·.fixed)).flatMap (·.dst)).flatMap fun e => (List.range e.2).map fun k => e.1 + k).filterMap fun a =>
    if src.any fun r => overlap r (a, 1) then some (a, 1, j.frame.read a 1) else none

/-- A `nest` begins, or goes on where it was stopped: its first beat starts in the next tc (R151). -/
def State.nest (s : State) (h : Hdr) (fn : Nat) (o : NestF) : Out :=
  s.guarded (s.nestFoot fn o) fun s =>
    let fp := s.nestFoot fn o
    let r := s.oweVar (granulesOf fp.dst) [] [] [0] false
    let n := { s.nestFrom fn o r.1 with src := granulesOf fp.src, old := s.cur.owedOld fp.src }
    let s1 := r.2.modHere fun x => { x with
      nests := (x.nests.filter fun m => !(m.key == n.key && m.pc == n.pc && m.stopped)) ++ [n] }
    (s1.after 1 .nestBeat ⟨s.curTile, s.curSlot, r.1, 0, 0⟩).advance h 32

/-- `nest.mov` (R150). -/
def execNestMov (h : Hdr) (o : NestF) (s : State) : Out := s.nest h 0 o
/-- `nest.add` (R150). -/
def execNestAdd (h : Hdr) (o : NestF) (s : State) : Out := s.nest h 1 o
/-- `nest.sub` (R150). -/
def execNestSub (h : Hdr) (o : NestF) (s : State) : Out := s.nest h 2 o
/-- `nest.mul` (R150). -/
def execNestMul (h : Hdr) (o : NestF) (s : State) : Out := s.nest h 3 o
/-- `nest.min` (R150). -/
def execNestMin (h : Hdr) (o : NestF) (s : State) : Out := s.nest h 4 o
/-- `nest.max` (R150). -/
def execNestMax (h : Hdr) (o : NestF) (s : State) : Out := s.nest h 5 o
/-- `nest.macc` (R150). -/
def execNestMacc (h : Hdr) (o : NestF) (s : State) : Out := s.nest h 6 o
/-- `nest.rsum` (R124, R125, R150). -/
def execNestRsum (h : Hdr) (o : NestF) (s : State) : Out := s.nest h 7 o
/-- `nest.rmax` (R150). -/
def execNestRmax (h : Hdr) (o : NestF) (s : State) : Out := s.nest h 8 o
/-- `nest.rmin` (R150). -/
def execNestRmin (h : Hdr) (o : NestF) (s : State) : Out := s.nest h 9 o

end Sys2Proof.Machine
end

