-- ==== Sys2Proof/Machine/Traps.lean ====
section
/-!
DEFINITION. `trap`, `resume` and `kill` (R350, R351, R388), and the state registers (R352, R353, R164, R184).
-/

namespace Sys2Proof.Machine

/-! ### trap, resume and kill -/

/-- `trap` (R350): cause 12; the record and the jet name the next instruction. Where its operand lies in the frame it raises nothing else (R347). -/
def execTrap (_h : Hdr) (a : SliceOp) (code : BitVec 16) (s : State) : Out :=
  match s.cur.outside (footRead a) with
  | some n => .next (s.trap { cause := 3, info := n })
  | none =>
    let next := nextPc s.cur.pc 8
    .next (s.trapAt s.curTile s.curSlot { cause := 12, info := a.get s.cur.frame, tcode := code.toNat } next next)

/-- The slot of the resident jet with a `jetid` (R85, R351). -/
def Tile.jetById (x : Tile) (id : Nat) : Option Nat :=
  (x.jets.find? fun e => e.2.status != .free && (e.2.id16 e.1).toNat == id).map (·.1)

/-- What a jet's discarded instructions held goes (R388): stopped `nest`s and accesses that have faulted. -/
def Tile.discard (x : Tile) (key : Nat) (all : Bool) : Tile :=
  { x with
    nests := x.nests.filter fun n => !(n.key == key && (n.stopped || all))
    acc := x.acc.filter fun a => !(a.jet == key && a.stage == 3) }

def resumeFoot (o : R3) : Foot := { src := o.a.range ++ o.b.range, rd := o.a.range ++ o.b.range, dst := o.d.range }

/-- `resume` (R351, R388). -/
def execResume (h : Hdr) (o : R3) (s : State) : Out :=
  s.guarded (resumeFoot o) fun s =>
    let a := o.a.get s.cur.frame
    let target := if o.b.isNz then none else some (BitVec.ofNat 64 (o.b.get s.cur.frame))
    match (if fld a 16 1 = 1 then none else s.here.jetById (fld a 0 16)) with
    | none => (s.oweStatus 2 o.d 1).advance h 8
    | some slot =>
      if (s.jet s.curTile slot).status = .suspended then
        let s1 := s.modJet s.curTile slot fun j => j.resumed (s.tc + 2) target
        let s2 := if target.isSome then s1.modHere fun x => x.discard (s.jet s.curTile slot).key false else s1
        (s2.oweStatus 2 o.d 0).advance h 8
      else (s.oweStatus 2 o.d 2).advance h 8

/-- Copy channels suspended for a context that is killed are aborted as by `cabt` (R351, R252). -/
def State.abortChans (s : State) (t : Nat) (chans : List Nat) : State :=
  chans.foldl (fun (s : State) c =>
    (s.modTile t fun x => x.modChan c fun k => { k with suspended := false, guarded := true }).retireChan t c 1) s

/-- A write of `savectl` that waited takes effect once no entry is in use (R353). -/
def Tile.applySavectl (x : Tile) : Tile :=
  match x.savectlNext with
  | some v => if x.saves.all (fun e => e.2.isNone) then { x with savectl := v, savectlNext := none } else x
  | none => x

/-- A save-area entry is free again. -/
def Tile.freeSave (x : Tile) (e : Nat) : Tile := (x.setSave e none).applySavectl

/-- A killed save-area entry is freed; its parked run may resume, its channels are aborted, its piece ends (R351, R326). -/
def State.killSaved (s : State) (t e : Nat) (v : SaveEntry) : State :=
  let s1 := (s.rangeEnds t v.jet false).abortChans t v.chans
  let s2 := s1.modTile t fun x =>
    let y := (x.discard v.jet.key true).unpark v.jet.key
    (((y.ready.filter fun q => q.saved == some e).map (·.id)).foldl (fun (y : Tile) id => (y.unready id s.tc).unreserve id) y).freeSave e
  match v.jet.gang with | some (g, _) => s2.gangSettle g | none => s2

/-- A resident jet is killed (R351); one that is being saved gives up its entry. -/
def State.killResident (s : State) (t slot : Nat) : State :=
  let j := s.jet t slot
  let e := (s.tile t).saves.find? fun e => match e.2 with | some v => v.jet.key == j.key && !v.saved | none => false
  let s1 := (s.cascadeKilled t j).jetKill t slot
  let s2 := s1.modTile t fun x => (x.discard j.key true).unpark j.key
  match e with
  | some (k, some v) =>
    (s2.abortChans t v.chans).modTile t fun x => { x with preempting := x.preempting.filter fun p => p.2 != k }.freeSave k
  | _ => s2

/-- `kill` (R351). -/
def execKill (h : Hdr) (o : R2) (s : State) : Out :=
  s.guarded { src := o.a.range, rd := o.a.range, dst := o.d.range } fun s =>
    let a := o.a.get s.cur.frame
    let t := s.curTile
    if fld a 16 1 = 1 then
      match s.here.save (fld a 0 4) with
      | some v => ((if v.saved then s.killSaved t (fld a 0 4) v else s.killResident t v.slot).oweStatus 2 o.d 0).advance h 8
      | none => (s.oweStatus 2 o.d 1).advance h 8
    else
      match s.here.jetById (fld a 0 16) with
      | none => (s.oweStatus 2 o.d 1).advance h 8
      | some slot =>
        if slot = s.curSlot then (s.oweStatus 2 o.d 2).advance h 8
        else ((s.killResident t slot).oweStatus 2 o.d 0).advance h 8

/-! ### State registers (R352) -/

/-- What `csrr` reads. -/
def State.csrRead (s : State) (r : Nat) : Nat :=
  let x := s.here
  match r with
  | 0x000 => (s.cur.id16 s.curSlot).toNat
  | 0x001 => (tileidOf s.dev.device s.curTile).toNat
  | 0x002 => s.dev.time % 2 ^ 64
  | 0x003 => s.cur.fpflags.toNat
  | 0x004 => x.fpten.toNat
  | 0x005 => x.issuectl.toNat
  | 0x006 => x.stealctl.toNat
  | 0x007 => x.prioage.toNat
  | 0x008 => x.dqspill.toNat
  | 0x009 => x.lqmap.toNat
  | 0x00a => x.poolways.toNat
  | 0x00b => x.mxFenced.toNat * 2 ^ 32 + x.stint.toNat * 2 ^ 16 + b2n x.mxDead
  | 0x00c => (s.die (dieOf s.curTile)).curlayer.toNat
  | 0x00d => 0
  | 0x00e => x.savectl.toNat
  | 0x00f => 0
  | _ => (x.chan (r % 8)).wm.toNat

/-- `csrr` (R352). -/
def execCsrr (h : Hdr) (d : SliceOp) (reg : BitVec 12) (s : State) : Out :=
  s.result h 8 (footS d [] [] 1) d (s.csrRead reg.toNat : Nat)

/-- What a write stores in `issuectl` (R89): reserved bits read as zero, and the age bound is at least 16. -/
def issuectlOf (v : Nat) : BitVec 32 := BitVec.ofNat 32 (max 16 (fld v 16 12) * 2 ^ 16 + fld v 0 2)
/-- What a write stores in `stealctl` (R188). -/
def stealctlOf (v : Nat) : BitVec 32 := BitVec.ofNat 32 (fld v 24 8 * 2 ^ 24 + max 1 (fld v 16 8) * 2 ^ 16 + fld v 4 12 * 2 ^ 4 + fld v 0 3)
/-- What a write stores in `lqmap` (R193): bit 6 of each byte reads as zero. -/
def lqmapOf (v : Nat) : BitVec 32 := BitVec.ofNat 32 v &&& 0xBFBFBFBF#32
/-- What a write stores in `curlayer` (R341). -/
def curlayerOf (v : Nat) : BitVec 64 := BitVec.ofNat 64 v &&& 0xFFFFFFFFFFFFFF3F#64
/-- What a write stores in `savectl` (R353). -/
def savectlOf (v : Nat) : BitVec 64 := BitVec.ofNat 64 v &&& 0x7FFFFC3FF#64
/-- What a write stores in `dqspill` (R184). -/
def dqspillOf (v : Nat) : BitVec 64 := BitVec.ofNat 64 v &&& 0xFFFFFFE0#64

/-- What `csrw` does to a register that has no row of its own (R352). -/
def State.csrWrite (s : State) (r v : Nat) : State :=
  match r with
  | 0x003 => s.modCur fun j => { j with fpflags := BitVec.ofNat 5 v }
  | 0x004 => s.modHere fun x => { x with fpten := BitVec.ofNat 5 v }
  | 0x005 => s.modHere fun x => { x with issuectl := issuectlOf v }
  | 0x006 => s.modHere fun x => { x with stealctl := stealctlOf v }
  | 0x007 => s.modHere fun x => { x with prioage := BitVec.ofNat 64 (fld v 0 48) }
  | 0x009 => s.modHere fun x => { x with lqmap := lqmapOf v }
  | 0x00b => s.modHere fun x => { x with stint := BitVec.ofNat 16 (fld v 16 16) }
  | 0x00c => s.modDie (dieOf s.curTile) fun d => { d with curNext := some (curlayerOf v) }
  | _ => s

/-- A `csrw`: A is read zero-extended, and the effect comes at once (R352). -/
def State.csrw (s : State) (h : Hdr) (a : SliceOp) (f : State → Nat → State) : Out :=
  s.guarded (footRead a) fun s => (f s (a.get s.cur.frame)).advance h 8

/-- `csrw` (R352). -/
def execCsrw (h : Hdr) (a : SliceOp) (reg : BitVec 12) (s : State) : Out := s.csrw h a fun s v => s.csrWrite reg.toNat v

/-- `csrw` to `ringrty` (R164, R352): a live handle of this tile restarts the refills of its ring. -/
def execRingrtyWrite (h : Hdr) (a : SliceOp) (s : State) : Out :=
  s.csrw h a fun s v =>
    let hd := BitVec.ofNat 32 v
    if v < 2 ^ 32 ∧ s.live s.curTile hd then
      (s.modHere fun x => x.modWeir fun w => w.modBasin (hIndex hd) fun k => { k with ringStopped := false }).startRefill s.curTile (hIndex hd)
    else s

/-- `csrw` to `savectl` (R353): while an entry is in use the write waits. -/
def execSavectlWrite (h : Hdr) (a : SliceOp) (s : State) : Out :=
  s.csrw h a fun s v => s.modHere fun x => { x with savectlNext := some (savectlOf v) }.applySavectl

/-- `csrw` to `dqspill` (R184): while the area holds tasks the write waits. -/
def execDqspillWrite (h : Hdr) (a : SliceOp) (s : State) : Out :=
  s.csrw h a fun s v => s.modHere fun x => { x with dqspillNext := some (dqspillOf v) }.applyDqspill

end Sys2Proof.Machine
end

