-- ==== Sys2Proof/Machine/Context.lean ====
section
/-!
DEFINITION. Pre-emption: the choice and the halt of a victim, context records in the save area, owed returns into them, and the
restore of a context (R198, R326, R353 to R358, R385).
-/

namespace Sys2Proof.Machine

/-! ### The save area (R353) -/

/-- Base and count of the save entries: none unless the area is enabled and every entry lies in scratch ways. -/
def Tile.saveArea (x : Tile) : Option (Nat × Nat) :=
  let b := fld x.savectl.toNat 0 10 * 1024
  let n := fld x.savectl.toNat 14 4 + 1
  if x.savectl.getLsbD 34 && (List.range n).all fun i => x.scratch (b + 9216 * i) 9216 then some (b, n) else none

/-- The free entries. -/
def Tile.freeSaves (x : Tile) : List Nat :=
  match x.saveArea with
  | some (_, n) => (List.range n).filter fun i => (x.save i).isNone
  | none => []

def Tile.saveAddr (x : Tile) (e : Nat) : Nat := fld x.savectl.toNat 0 10 * 1024 + 9216 * e

/-! ### Context records read back (R354) -/

/-- The run parked for a jet: parked, the next pass, the state it had and its source, as word 9 has them (R354, R326, R356). -/
def Tile.parkedWord (x : Tile) (key : Nat) : Nat :=
  match x.mx.parked with
  | some r =>
    if x.mx.parkFor = some key ∧ r.cmd.jet = key then
      let src := match r.cmd.issuer with | .tile n => n | .lauc _ _ n => n | _ => 0
      2 ^ 5 + r.passes r.step % 2 ^ 32 * 2 ^ 6 + (if r.state = .frozen then 2 else 1) * 2 ^ 38 + src % 1024 * 2 ^ 41
    else 0
  | none => 0

/-- Reads parts one behind the other. -/
def Tile.readParts (x : Tile) (a : Nat) : List Nat → List Nat
  | [] => []
  | n :: r => x.poolRead a n :: Tile.readParts x (a + n) r

/-- The numbers that a bit map names, rising. -/
def mapBits (n m : Nat) : List Nat := (List.range n).filter fun k => m.testBit k

/-- The jet of a record as it is read back; what the record does not hold is as it was kept beside it (R354, R358). -/
def Tile.readRecord (x : Tile) (v : SaveEntry) : Jet :=
  let w := x.readParts v.recAt (List.replicate 16 8)
  let at_ (k : Nat) : Nat := (w[k]?).getD 0
  let vs := mapBits 16 (fld (at_ 10) 8 16)
  let ms := mapBits 8 (fld (at_ 10) 24 8)
  let views := x.readParts (v.recAt + 128) (vs.map fun _ => 8)
  let masks := x.readParts (v.recAt + 128 + 8 * vs.length) (ms.map fun _ => 32)
  { v.jet with
    pc := BitVec.ofNat 64 (at_ 0)
    inst := BitVec.ofNat 16 (fld (at_ 1) 32 16)
    level := BitVec.ofNat 3 (fld (at_ 1) 29 3)
    role := BitVec.ofNat 2 (fld (at_ 1) 27 2)
    fpflags := BitVec.ofNat 5 (fld (at_ 1) 15 5)
    cdis := fld (at_ 1) 14 1 == 1
    range := { has := fld (at_ 4) 24 1 == 1, lo := BitVec.ofNat 48 (at_ 2), hi := BitVec.ofNat 48 (at_ 3), grain := BitVec.ofNat 24 (at_ 4),
               tracked := fld (at_ 4) 25 1 == 1, ttile := BitVec.ofNat 10 (fld (at_ 4) 26 10), tindex := BitVec.ofNat 4 (fld (at_ 4) 36 4) }
    views := (vs.zip views).foldl (fun t e => Tbl.set t e.1 (BitVec.ofNat 64 e.2)) []
    masks := (ms.zip masks).foldl (fun t e => Tbl.set t e.1 (BitVec.ofNat 256 e.2)) []
    frame := ⟨x.poolRead v.frameAt (64 * v.jet.grans)⟩ }

/-- The combined value of a `nest` out of word 7: the exact one, where the word is still its low 64 bits (R125, R354). -/
def NestSt.accOf (n : NestSt) (w : Nat) : Int :=
  if trunc n.acc 64 = w then n.acc else if n.o.ctl.fp ∨ !n.o.ctl.signed then w else sext w 64

/-- A `nest` whose progress is read back: where it stands, its indices, its combined value and its latched views (R354). -/
def NestSt.readBack (n : NestSt) (pc idx acc : Nat) (vs : List (Nat × Nat)) : NestSt :=
  let at_ (p : Nat) (v : BitVec 64) : BitVec 64 := match vs.find? fun e => e.1 == p with | some e => BitVec.ofNat 64 e.2 | none => v
  { n with
    pc := BitVec.ofNat 64 pc, idx := (List.range 5).map fun l => fld idx (10 * l) 10, acc := n.accOf acc
    vd := at_ 0 n.vd, va := at_ 1 n.va, vb := at_ 2 n.vb }

/-- The progress of a record's interrupted instructions as it is read back: of a `nest` and of a `spill` or `fill`, which are finished from there, and
the addresses of the others (R354, R358). An instruction whose word is 0 is none. -/
def Tile.readProgress (x : Tile) (v : SaveEntry) (j : Jet) : Tile × Jet :=
  let w (k : Nat) : Nat := x.poolRead (v.recAt + 8 * k) 8
  let lat := (x.latched v.jet).map (·.1)
  let at_ := v.recAt + 128 + 8 * (mapBits 16 (fld (w 10) 8 16)).length + 32 * (mapBits 8 (fld (w 10) 24 8)).length + 8 * (mapBits 8 (fld (w 10) 0 8)).length
  let vs := lat.zip (x.readParts at_ (lat.map fun _ => 8))
  let pcs := x.readParts (at_ + 8 * lat.length) (List.replicate (fld (w 11) 0 6) 8)
  let nest := x.stoppedNest j.key
  let sp := j.stoppedSpill
  let plain := x.plainIntr j
  let word (k : Nat) (i : Interrupted) : Option Interrupted := if w k = 0 then none else some { i with pc := BitVec.ofNat 64 (w k) }
  let back (i : Interrupted) : Option Interrupted :=
    if some i.pc = nest.map (·.pc) then word 5 i
    else if some i.pc = sp.map (·.pc) then word 8 i
    else (plain.idxOf? i).bind fun k => pcs[k]?.map fun a => { i with pc := BitVec.ofNat 64 a }
  let gone := (j.interrupted.filter fun i => (back i).isNone).flatMap (·.owedIds)
  let spill : Option SpillSt :=
    match sp with
    | none => j.spill
    | some p =>
      let vd := match p.o.d, vs.getLast? with
        | .view _ _, some e => BitVec.ofNat 64 e.2
        | _, _ => p.vd
      if w 8 = 0 then none else some { p with pc := BitVec.ofNat 64 (w 8), beat := fld (w 9) 0 5, vd := vd }
  ({ x with nests := x.nests.filterMap fun n =>
      if n.key == j.key && n.stopped then (if w 5 = 0 then none else some (n.readBack (w 5) (w 6) (w 7) vs)) else some n },
   { j with
     interrupted := j.interrupted.filterMap back
     owed := j.owed.filter fun o => !gone.contains o.id
     spill := spill })

/-! ### The choice of a victim (R198, R355 to R357) -/

/-- The first live record that finds no slot or no frame and has not asked for a victim. -/
def State.liveNeed (s : State) (t : Nat) : Option Ready :=
  let x := s.tile t
  x.ready.find? fun q => q.level == 7 && x.admissible q && (q.saved.isSome || !s.husked t q.inst) && !x.preempting.any (fun p => p.1 == q.id) &&
    ((x.slotFor s.tc true).isNone || (x.fits s.tc q.grans).isNone)

/-- The victim: the lowest level, then the youngest (R198). A suspended jet, or one that is being saved, is none (R355). -/
def Tile.victimSlot (x : Tile) : Option Nat :=
  (x.jets.foldl (fun (b : Option (Nat × Jet)) e =>
    if e.2.status != .running || e.2.level == 7 then b
    else match b with
      | none => some e
      | some c => if e.2.level.toNat < c.2.level.toNat || (e.2.level == c.2.level && decide (c.2.resident < e.2.resident)) then some e else b)
    none).map (·.1)

/-- Whether `LIVE_PREEMPT` has a request to take. -/
def State.preemptReady (s : State) (t : Nat) : Bool :=
  (s.liveNeed t).isSome && (s.tile t).victimSlot.isSome &&
    decide (((s.tile t).preempting.filter fun p => p.2 == 16).length < (s.tile t).freeSaves.length)

/-- The channels that are suspended with a jet: of its own commands, with a window in the own pool that touches a way of `liveways` (R356). -/
def State.suspends (s : State) (t key : Nat) : List Nat :=
  let x := s.tile t
  let ways := fld x.savectl.toNat 18 16
  (List.range 8).filter fun c =>
    let k := x.chan c
    (k.state == .landing || k.state == .frozen) && k.jet == key && k.guarded && !k.suspended &&
      (List.range 16).any fun w => ways.testBit w && decide (65536 * w < k.winHi) && decide (k.winLo < 65536 * (w + 1))

/-- A `spill` or `fill` in progress stops between beats: those not begun are withdrawn (R82, R355). -/
def Tile.stopSpill (x : Tile) (slot : Nat) : Tile :=
  let j := x.jet slot
  let l := x.unbegun j.key
  match l with
  | [] => x
  | a :: _ =>
    let y : Tile := { x with acc := x.acc.filter fun b => !l.any fun c => c.id == b.id }
    let i : Interrupted := ⟨a.pc, l.map (·.owedId), a.id⟩
    y.modJet slot fun j =>
      { j with
        interrupted := j.interrupted ++ [i]
        spill := j.spill.map fun p => { p with beat := a.beat.getD 0, stopped := true } }

/-- A `nest` in progress stops between beats (R152). -/
def State.stopNest (s : State) (t slot : Nat) : State :=
  match (s.tile t).nests.find? fun n => n.key == (s.jet t slot).key && !n.stopped && !n.finished with
  | none => s
  | some n => (s.haltNest t n).modJet t slot fun j => { j with interrupted := j.interrupted ++ [⟨n.pc, [n.id], n.num⟩] }

/-- THE VICTIM IS HALTED (R355, R356, R101): it issues nothing more, leaves its cascade, and takes the save entry. -/
def State.halt (s : State) (t slot e : Nat) : State :=
  let chans := s.suspends t (s.jet t slot).key
  let s1 := (s.stopNest t slot).modTile t fun x => x.stopSpill slot
  let s2 := s1.modTile t fun x =>
    { x.modJet slot (fun j => { j with status := .saving, casc := .none, fwdQ := [], interrupted := sortIntr (j.interrupted ++ j.replay), replay := [] }) with
      chans := x.chans.map fun c => if chans.contains c.1 then (c.1, { c.2 with suspended := true, guarded := false }) else c }
  s2.modTile t fun x => x.setSave e (some
    { jet := x.jet slot, slot := slot, doneAt := 0, saved := false, chans := chans, recAt := x.saveAddr e, frameAt := 0, bytes := 0 })

/-- `LIVE_PREEMPT` (R198, R355, R357): a live record asks for a victim and the matrix engine for a park (focus 0); the victim is chosen and
halted (focus 1), in the order of the records, if one is still needed. Focus: tile, phase, record. -/
def execLivePreempt (s : State) : Out :=
  let t := s.focus.a
  if s.focus.b = 0 then
    match s.liveNeed t with
    | none => .next s
    | some q =>
      .next ((s.modTile t fun x => { x with preempting := x.preempting ++ [(q.id, 16)] }.askPark q.id).after
        (Config.preemptDelay t % 61) .livePreempt ⟨t, 1, q.id, 0, 0⟩)
  else
    let id := s.focus.c
    let x := s.tile t
    let drop (s : State) : State := s.modTile t fun x =>
      { x with preempting := x.preempting.filter fun p => p.1 != id
               mx := { x.mx with parkAsked := if x.mx.parkAsked = some id then none else x.mx.parkAsked } }.unpark id
    let need := x.ready.any fun q => q.id == id && ((x.slotFor s.tc true).isNone || (x.fits s.tc q.grans).isNone)
    match x.victimSlot, x.freeSaves.head? with
    | some slot, some e =>
      if !need then .next (drop s)
      else
        let key := (x.jet slot).key
        .next ((s.halt t slot e).modTile t fun x => { x with
          preempting := x.preempting.map fun p => if p.1 = id then (id, e) else p
          mx := { x.mx with parkAsked := if x.mx.parkAsked = some id then some key else x.mx.parkAsked
                            parkFor := if x.mx.parkFor = some id then some key else x.mx.parkFor } })
    | _, _ => .next (drop s)

/-! ### The save (R355, R357, R385) -/

/-- Whether a halted jet's pipeline has drained: fixed-latency and lane results and `nest` beats are written, sources read, a park done. -/
def Tile.drained (x : Tile) (j : Jet) : Bool :=
  (j.awaited.all fun o => !o.fixed && o.w.isEmpty) &&
  (x.nests.all fun n => n.key != j.key || n.owed.isEmpty) &&
  (x.acc.all fun a => a.jet != j.key || a.gather.isEmpty) && x.mx.parkAsked != some j.key

/-- The entries whose save has not begun, in the order of the live records they are for (R357). -/
def Tile.savesWaiting (x : Tile) : List Nat :=
  let l := (x.saves.filter fun e => match e.2 with | some v => !v.saved && v.doneAt == 0 | none => false).map (·.1)
  let o := (x.preempting.map (·.2)).filter fun e => l.contains e
  o ++ l.filter fun e => !o.contains e

/-- The entry whose save may begin. -/
def Tile.saveDue (x : Tile) : Option (Nat × SaveEntry) :=
  x.savesWaiting.head?.bind fun e => (x.save e).bind fun v => if x.drained (x.jet v.slot) then some (e, v) else none

/-- A saved context's record stands before those of its level that came after its first residency (R358). -/
def insertReady (q : Ready) (first : Nat) : List Ready → List Ready
  | [] => [q]
  | r :: l => if r.level = q.level ∧ first < r.arrival then q :: r :: l else r :: insertReady q first l

/-- The save of a jet ends with its last write: slot and granules are free from the next tc, also where a gang held them (R355 step 5, R385), and the
context waits to return. Its record joins the ready queue at once: it is one of the 64 there and may be the 65th, the model's choice (R86, log 26). -/
def State.saveEnds (s : State) (t e slot : Nat) (j : Jet) (p : Tile × SaveEntry) : State :=
  let (id, s1) := s.take
  let q : Ready :=
    { id := id, entry := j.entry, level := j.level, inst := j.inst, grans := j.grans, role := j.role, arrival := j.firstRes
      waitFrom := s.dev.time, bypass := 0, payloads := [], task := none, saved := some e, badHeader := false, bad := [] }
  s1.modTile t fun _ =>
    let y := ((p.1.setSave e (some p.2)).giveRun slot).vacate slot s.tc
    { y with
      ready := insertReady q j.firstRes y.ready
      preempting := y.preempting.filter fun k => k.2 != e }

/-- `CONTEXT_SAVED` (R355, R358, R385): the pipeline has drained, and the writes of the frame are given their tc, behind the saves that go on (focus
d 0); or it is the tc of a write (d 1), which is performed in it. Focus: tile, entry; data: the write. -/
def execContextSaved (s : State) : Out :=
  let t := s.focus.a
  let e := s.focus.b
  let x := s.tile t
  match x.save e with
  | none => .next s
  | some v =>
    if s.focus.d = 0 then
      let busy := x.saves.foldl (fun m k => match k.2 with | some w => if w.saved then m else max m w.doneAt | none => m) 0
      let (d, s1) := s.drawDelay
      let first := max (s.tc + d % 9) (busy + 1)
      let done := first + frameWrites (x.jet v.slot).grans - 1
      .next ((s1.modTile t fun x => x.setSave e (some { v with doneAt := done })).at_ (2 * first) .contextSaved ⟨t, e, 0, 1, 0⟩)
    else if v.saved then .next s
    else
      let k := s.focus.data
      let j := x.jet v.slot
      let p := if k = 0 then x.writeHead j { v with park := x.parkedWord j.key } else (x, v)
      let y := p.1.writeFrame j p.2 k
      if k + 1 < frameWrites j.grans then
        .next ((s.modTile t fun _ => y.setSave e (some p.2)).at_ (2 * (s.tc + 1)) .contextSaved ⟨t, e, 0, 1, k + 1⟩)
      else .next (s.saveEnds t e v.slot j (y.closeRecord j { p.2 with park := y.parkedWord j.key }))

/-- `OWED_RETURN_SAVED` (R355): an owed value comes back to a saved context. Focus: tile, access, part, further beat, value. -/
def execOwedReturnSaved (s : State) : Out :=
  let f := s.focus
  if f.d = 1 then
    match (s.tile f.a).access f.b with
    | none => .next s
    | some a => .next (s.returnBeat f.a a a.value)
  else .next (s.partReturns f.a f.b f.c f.data)

/-! ### The restore (R356, R358) -/

/-- The suspended channels of a context go on from their watermarks. -/
def State.wakeChans (s : State) (t : Nat) (chans : List Nat) : State :=
  chans.foldl (fun (s : State) k => s.modTile t fun x => x.modChan k fun c => { c with suspended := false, guarded := true }) s

/-- The instructions a restored jet executes again: an interrupted `nest`, `spill` or `fill` first, then the list (R354, R388). -/
def Tile.replayOf (x : Tile) (j : Jet) : List Interrupted :=
  let first := (sortIntr j.interrupted).filter fun i =>
    some i.pc == (x.stoppedNest j.key).map (·.pc) || some i.pc == j.stoppedSpill.map (·.pc)
  first ++ x.plainIntr j

/-- `CONTEXT_RESTORE` (R354, R358): the record is read back into a fresh frame; the jet has a new slot, `jetid` and residency tc.
Focus: tile, slot, entry, base. -/
def execContextRestore (s : State) : Out :=
  let t := s.focus.a
  let slot := s.focus.b
  let e := s.focus.c
  let x := s.tile t
  match x.save e with
  | none => .next (s.modTile t fun x => x.vacate slot s.tc)
  | some v =>
    let p := x.readProgress v (x.readRecord v)
    let y := p.1
    let j := p.2
    let n := Tbl.get 0 x.slotSeq slot
    let j1 : Jet := { j with
      status := .running, granBase := s.focus.d, seq := BitVec.ofNat 13 n, resident := s.tc, wait := 0, yieldMark := false
      stallTill := s.tc + 6 + ceilDiv v.bytes 256, replay := y.replayOf j, interrupted := [], pend := []
      owed := j.awaited }
    .next ((s.modTile t fun _ =>
      { ((y.setJet slot j1).freeSave e).unpark j.key with slotSeq := Tbl.set x.slotSeq slot (n + 1) }).wakeChans t v.chans)

end Sys2Proof.Machine
end

