-- ==== Sys2Proof/Machine/Experts.lean ====
section
/-!
DEFINITION. The expert chains: merge trees and `mrg` (R295 to R297, R332, R333), layer blocks and routing (R329 to R337), gathers, groups and
their commands (R338 to R341), combining (R342), snapshots (R343) and `xgo` (R344).
-/

namespace Sys2Proof.Machine

/-! ### Merge trees (R295 to R297) -/

/-- The ranking of entries: whether score and id `a` stand before or with `b` (R296). -/
def rankLe (a b : Nat × Nat) : Bool :=
  let x := fpDec pF32 a.1
  let y := fpDec pF32 b.1
  if x.isNan && y.isNan then decide (a.2 ≤ b.2)
  else if x.isNan then false
  else if y.isNan then true
  else if y.lt x then true
  else if x.lt y then false
  else decide (a.2 ≤ b.2)

/-- The valid entries of a partial: score and id. -/
def listEntries (l : Nat) : List (Nat × Nat) := (List.range (min 8 (fld l 384 16))).map fun i => (fld l (48 * i + 16) 32, fld l (48 * i) 16)

def listOf (leaves round k : Nat) (es : List (Nat × Nat)) : BitVec 512 :=
  BitVec.ofNat 512 (leaves % 2 ^ 32 * 2 ^ 416 + round * 2 ^ 408 + k * 2 ^ 400 + es.length * 2 ^ 384 +
    es.zipIdx.foldl (fun m e => m + (e.1.2 + e.1.1 * 2 ^ 16) * 2 ^ (48 * e.2)) 0)

/-- Two lists of one round merged: the best min(k, total) entries, leaves summed; where k differs the smaller holds (log 21). -/
def mergeLists (a b : BitVec 512) : BitVec 512 :=
  let x := a.toNat
  let y := b.toNat
  let k := min (fld x 400 8) (fld y 400 8)
  listOf (fld x 416 32 + fld y 416 32) (fld x 408 8) k (((listEntries x ++ listEntries y).mergeSort rankLe).take k)

/-- A first list of a round: ranked, the best min(k, total) of it (R296). -/
def rankedList (a : BitVec 512) : BitVec 512 :=
  let x := a.toNat
  listOf (fld x 416 32) (fld x 408 8) (fld x 400 8) (((listEntries x).mergeSort rankLe).take (fld x 400 8))

def Stop.modTree (x : Stop) (tag root : Nat) (f : MergeEntry → MergeEntry) : Stop :=
  { x with merge := x.merge.map fun e => if e.tag = tag ∧ e.root = root then f e else e }

/-- A partial sets out from stop `q`: to the next router toward the root, its header and one data flit. -/
def State.sendPartial (s : State) (q tag root d : Nat) (l : BitVec 512) : State :=
  s.inject q (acrossPort q (orderNext q root)).1 .ni 2 d (.merge tag root l)

/-- A round of an entry that has reached its fan-in and may leave; at a chain's root it waits there for room in the gate queue (R333). -/
def MergeEntry.ripe (e : MergeEntry) (nc : Nat) (room : Bool) : Option MergeRound :=
  e.rounds.find? fun r => decide (e.total ≤ r.got) && decide (r.from_ ≤ nc) && room

/-- A merged list that may leave its merge unit at `q` for the next router or for the root basin. -/
def State.treeReady (s : State) (q : Nat) : Option (MergeEntry × MergeRound) :=
  (s.stop q).merge.findSome? fun e =>
    if e.root = q ∧ e.chain.isSome then none else (e.ripe s.nc true).map fun r => (e, r)

/-- A merged list at the root of a chain that its gate queue of 64 has room for. -/
def State.gateReady (s : State) (q : Nat) : Option (Nat × MergeEntry × MergeRound) :=
  (s.stop q).merge.findSome? fun e =>
    match e.chain with
    | some k => if e.root = q then (e.ripe s.nc (decide ((s.chain k).gates.length < 64))).map fun r => (k, e, r) else none
    | none => none

/-- The first partial that can be taken, each input port in order. -/
def Stop.nextPartial (x : Stop) : Option (Nat × Packet) :=
  x.mergeIn.zipIdx.findSome? fun e =>
    if x.takesPartial e.1.2 && !((x.mergeIn.take e.2).any fun f => f.1 == e.1.1) then some e.1 else none

def MergeEntry.drop (e : MergeEntry) (r : MergeRound) : MergeEntry := { e with rounds := e.rounds.filter (· != r) }

/-- `MERGE_PARTIAL` (R296, R297): a partial joins its round, or a round that has its fan-in leaves for the next router or the root basin. A
partial of a tree that is gone is discarded. -/
def execMergePartial (s : State) : Out :=
  let q := s.focus.a
  match s.treeReady q with
  | some (e, r) =>
    let s1 := s.modStop q fun x => (x.modTree e.tag e.root fun f => f.drop r).count 10 1
    if e.root = q then .next (s1.sendLocal q { plainMsg q e.handle 0 64 r.list.toNat with src := .tile q })
    else .next (s1.sendPartial q e.tag e.root 0 r.list)
  | none =>
    match (s.stop q).nextPartial with
    | none => .next s
    | some (port, k) =>
      let s1 := s.modStop q fun x => { x with mergeIn := x.mergeIn.erase (port, k) }
      match k.body with
      | .merge tag root l =>
        match (s.stop q).tree tag root with
        | none => .next (s1.journal 2 2 q (BitVec.ofNat 32 tag) 1)
        | some _ =>
          let n := fld l.toNat 408 8
          .next (s1.modStop q fun x => x.modTree tag root fun f =>
            if f.rounds.any fun r => r.round == n then
              { f with rounds := f.rounds.map fun r => if r.round = n then { r with got := r.got + 1, list := mergeLists r.list l, from_ := s.nc + 2 } else r }
            else { f with rounds := f.rounds ++ [⟨n, 1, rankedList l, s.nc + 2⟩] })
      | _ => .next s1

/-- `GATE_LIST_ARRIVAL` (R333): a merged list enters the gate queue of the chain that is its root. -/
def execGateListArrival (s : State) : Out :=
  let q := s.focus.a
  match s.gateReady q with
  | none => .next s
  | some (k, e, r) =>
    .next ((s.modStop q fun x => (x.modTree e.tag e.root fun f => f.drop r).count 10 1).modChain k fun h => { h with gates := h.gates ++ [(e.tag, r.list)] })

/-- A leave counts down at a router; with its last leaf the entry goes, and the rounds it holds are discarded (R297, R332). -/
def State.treeLeave (s : State) (q tag root port : Nat) : Bool × State :=
  match (s.stop q).tree tag root with
  | none => (false, s)
  | some e =>
    let f := { e with fanin := Tbl.set e.fanin port (Tbl.get 0 e.fanin port - 1) }
    if f.total = 0 then
      let s1 := s.modStop q fun x => { x with merge := x.merge.filter (· != e) }
      (true, e.rounds.foldl (fun (s : State) r => s.journal 2 2 q (BitVec.ofNat 32 tag) r.got) s1)
    else (false, s.modStop q fun x => x.modTree tag root fun _ => f)

/-- The first join or leave at a router that can be served: a join waits at an entry whose own join is not answered yet, since that may still be
refused (log 21). -/
def Stop.nextJoin (x : Stop) : Option (Nat × Packet) :=
  x.treeIn.find? fun e => match e.2.body with
    | .mergeJoin _ tag root _ _ leave _ _ _ => leave || (match x.tree tag root with | some f => f.sure | none => true)
    | _ => true

/-- The stops on a tree's way from the leaf `t` to `q`. -/
def treeWay (t q : Nat) : List Nat := orderPath t q 40 ++ [q]

/-- A join has been answered with 0: the entries it made stand. -/
def State.treeSure (s : State) (t q tag root : Nat) : State :=
  (treeWay t q).foldl (fun (s : State) p => s.modStop p fun x => x.modTree tag root fun e => { e with sure := true }) s

/-- `MERGE_JOIN_ARRIVAL` (R295, R332): a tree join counts at the port it came from; where it makes the entry it goes on toward the root. It is
answered where it ends: 0, 1 at a full table, 2 where its root basin is not live. A refused join is undone by a leave that ends where it was
refused; a leave goes on while entries vanish. -/
def execMergeJoinArrival (s : State) : Out :=
  let q := s.focus.a
  match (s.stop q).nextJoin with
  | none => .next s
  | some (port, k) =>
    let s1 := s.modStop q fun x => { x with treeIn := x.treeIn.erase (port, k) }
    match k.body with
    | .mergeJoin t tag root slot owedId leave chain handle upTo =>
      let onward (s : State) : State := if q = root then s else s.inject q (acrossPort q (orderNext q root)).1 .ni 1 0 k.body
      let answer (s : State) (st : Nat) : State := s.inject q t .ni 1 0 (.mergeAck slot owedId st tag root)
      let undo (s : State) : State := if q = t then s
        else s.inject t t .ni 1 0 (.mergeJoin t tag root slot owedId true chain handle q)
      if leave then
        if q = upTo then .next s1
        else
          let (gone, s2) := s1.treeLeave q tag root port
          .next (if gone then onward s2 else s2)
      else
        let ends := (q == root || ((s.stop q).tree tag root).isSome)
        if ends ∧ chain.isNone ∧ !s.live root handle then .next (undo (answer s1 2))
        else
          match (s.stop q).tree tag root with
          | some e =>
            .next ((answer (s1.modStop q fun x => x.modTree tag root fun f => { f with fanin := Tbl.set f.fanin port (Tbl.get 0 e.fanin port + 1) }) 0).treeSure
              t q tag root)
          | none =>
            if 16 ≤ (s.stop q).merge.length then .next (undo (answer (s1.modDie (dieOf q) fun d => d.count 4 1) 1))
            else
              let s2 := s1.modStop q fun x => { x with merge := x.merge ++ [⟨tag, root, chain, handle, [(port, 1)], [], false⟩] }
              .next (if q = root then (answer s2 0).treeSure t q tag root else onward s2)
    | _ => .next s1

/-! ### `mrg` (R332) -/

def Tile.leafOf (x : Tile) (tag : Nat) : Option (Nat × Nat × Bool) := x.mergeLeaves.find? fun e => e.1 == tag

/-- `mrg.join` (R332): the checks at the tile, in the order 3, 2 (log 21), then a tree join from the tile's own router. -/
def execMrgJoin (h : Hdr) (o : R2) (tag : BitVec 12) (x chain : Bool) (s : State) : Out :=
  s.guarded (footRun o.d o.a 0 []) fun s =>
    let t := s.curTile
    let hd := BitVec.ofNat 32 (o.a.get s.cur.frame)
    let k := 2 * dieOf t + b2n chain
    let root := if x then chainStop k else hTile hd
    if (s.here.leafOf tag.toNat).isSome then (s.oweStatus 2 o.d 3).advance h 16
    else if !x && (hDev hd != s.dev.device.toNat || dieOf root != dieOf t) then (s.oweStatus 2 o.d 2).advance h 16
    else
      let (id, s1) := s.oweLater o.d
      let s2 := s1.modHere fun y => { y with mergeLeaves := y.mergeLeaves ++ [(tag.toNat, root, false)] }
      (s2.inject t t .ni 1 4 (.mergeJoin t tag.toNat root s.curSlot id false (if x then some k else none) (if x then 0 else hd) (Config.tiles))).advance h 16

/-- `mrg.put` (R332): the list is read in the issue tc and sent as a partial of the tile's tree, its leaves 1 and its reserved bits 0. -/
def execMrgPut (h : Hdr) (o : R2) (tag : BitVec 12) (s : State) : Out :=
  s.guarded (footRun o.d o.a 128 []) fun s =>
    let t := s.curTile
    let l := SliceOp.getRun o.a s.cur.frame 128
    let k := fld l 400 8
    match s.here.leafOf tag.toNat with
    | some (_, root, true) =>
      if k = 0 ∨ 8 < k ∨ k < fld l 384 16 then (s.oweStatus 2 o.d 2).advance h 16
      else
        let l1 := l % 2 ^ 416 + 2 ^ 416
        ((s.inject t t .ni 2 4 (.merge tag.toNat root (BitVec.ofNat 512 l1))).oweStatus 2 o.d 0).advance h 16
    | _ => (s.oweStatus 2 o.d 1).advance h 16

/-- `mrg.leave` (R332). -/
def execMrgLeave (h : Hdr) (d : SliceOp) (tag : BitVec 12) (s : State) : Out :=
  s.guarded { dst := d.range } fun s =>
    let t := s.curTile
    match s.here.leafOf tag.toNat with
    | some (_, root, true) =>
      let s1 := s.modHere fun y => { y with mergeLeaves := y.mergeLeaves.filter fun e => e.1 != tag.toNat }
      ((s1.inject t t .ni 1 4 (.mergeJoin t tag.toNat root 0 0 true none 0 (Config.tiles))).oweStatus 2 d 0).advance h 16
    | _ => (s.oweStatus 2 d 1).advance h 16

/-! ### Layer blocks and `xgo` (R331, R344) -/

/-- Whether a field of a layer block holds a reserved value. -/
def lbReserved (b : Nat) : Bool :=
  fld b 1024 3072 != 0 || fld b 0 510 != 0 || lbMax b == 0 || decide (4095 < lbMax b) || decide (253 < lbTbase b) || lbTag b == 0

/-- Whether X is as R331 asks, and whether the weights of an expert that is used are. -/
def xentOk (b x : Nat) : Bool := tenType x == 0 && decide (lbT b ≤ tenRows x) && decide (tenCols x ≤ 8192)
def entriesOk (b x w n : Nat) : Bool := xentOk b x && tenRows w == n && tenCols w == tenCols x

/-- `xgo` (R344). -/
def execXgo (h : Hdr) (o : R2) (chain : Bool) (s : State) : Out :=
  s.guarded (footRun o.d o.a 0 []) fun s =>
    let a := o.a.get s.cur.frame
    let k := 2 * dieOf s.curTile + b2n chain
    if a % 64 != 0 then (s.oweStatus 2 o.d 2).advance h 16
    else if 4 ≤ (s.chain k).queue.length then (s.oweStatus 2 o.d 1).advance h 16
    else
      let q : XgoReq := ⟨a, s.curTile, s.cur.key, s.nextId, s.cur.inst⟩
      ((s.modChain k fun c => { c with queue := c.queue ++ [q] }).oweStatus 2 o.d 0).advance h 16

/-- Whether a chain reads its next block (R330). -/
def State.blockReady (s : State) (k : Nat) : Bool :=
  let c := s.chain k
  c.layer.isNone && match c.queue with
    | q :: _ => (s.tile q.tile).storesReady q.jet q.upTo
    | [] => false

/-- `CHAIN_BLOCK_READ` (R329 to R331, R341): the chain takes its next block, checks it and sets `curlayer`'s position; route begins when the
block and its entries are read. A block or an entry that cannot be read is a bad block (log 21). -/
def execChainBlockRead (s : State) : Out :=
  let k := s.focus.a
  let t := chainStop k
  match (s.chain k).queue with
  | [] => .next s
  | q :: r =>
    let layer (b : Nat) (st x n from_ : Nat) : Layer :=
      { block := b, inst := q.inst, phase := if st = 0 then .route else .over, from_ := from_, xent := x, n := n, nextTok := 0, reps := [], slots := [],
        groups := [], fenced := [], rowQ := [], landed := 0, out := 0, status := st, dispatches := 0, drops := 0 }
    let start (s : State) (l : Layer) : State := s.modChain k fun c => { c with queue := r, layer := some l }
    match (s.asks t q.addr 512).engineRead t q.addr 512 with
    | .error _ => .next (start s (layer 0 1 0 0 s.tc))
    | .ok (b, s1) =>
      let s2 := s1.modDie (k / 2) fun d => { d with curlayer := BitVec.ofNat 64 (d.curlayer.toNat / 64 * 64 + lbPos b) }
      if lbReserved b then .next (start s2 (layer b 1 0 0 s.tc))
      else
        let s2 := (s2.asks t (lbXent b) 128).asks t (lbEtab b) 128
        match s2.engineRead t (lbXent b) 128, s2.engineRead t (lbEtab b) 128 with
        | .ok (x, s3), .ok (w, _) =>
          let n := tenRows w
          let ok := xentOk b x
          .next (start s3 (layer b (if ok then 0 else 1) x n (s.tc + s.agentCost t q.addr + max (s.agentCost t (lbXent b)) (s.agentCost t (lbEtab b)))))
        | _, _ => .next (start s2 (layer b 1 0 0 s.tc))

/-! ### Route (R334 to R336) -/

/-- The state of one token's routing. -/
structure Routing where
  ctr : Tbl (Nat × Nat × Nat × BitVec 32)
  reps : Tbl (Nat × List Nat)
  slots : List TokSlot
  disp : Nat
  drops : Nat
  deriving DecidableEq, Repr

def ctrAt (c : Tbl (Nat × Nat × Nat × BitVec 32)) (e : Nat) : Nat × Nat × Nat × BitVec 32 := Tbl.get (0, 0, 0, 0) c e
def inc32 (n : Nat) : Nat := min (n + 1) (2 ^ 32 - 1)
def psumAdd (c : Nat × Nat × Nat × BitVec 32) (s : Nat) : BitVec 32 := BitVec.ofNat 32 (addFp pF32 .rne c.2.2.2.toNat s).1

def zeroSlot : TokSlot := { e := 0, i := 0, w := 0, zero := true, filled := true }

def Routing.has (r : Routing) (e : Nat) : Bool := r.slots.any fun x => !x.zero && x.e == e

/-- A choice that an earlier slot holds merges into it. -/
def Routing.merge (r : Routing) (e s : Nat) : Routing :=
  let c := ctrAt r.ctr e
  { r with
    ctr := Tbl.set r.ctr e (c.1, c.2.1, inc32 c.2.2.1, psumAdd c s)
    slots := r.slots.map (fun x => if !x.zero && x.e == e then { x with w := BitVec.ofNat 32 (addFp pF32 .rne x.w.toNat s).1 } else x) ++ [zeroSlot] }

/-- A choice takes capacity; the replica entry is read at the layer's first token for the expert. -/
def Routing.take (r : Routing) (tbl : Tbl (Nat × List Nat)) (t e s : Nat) : Routing :=
  let c := ctrAt r.ctr e
  let rep := match r.reps.find? fun x => x.1 == e with | some x => x.2 | none => Tbl.get (1, [31]) tbl e
  { r with
    ctr := Tbl.set r.ctr e (inc32 c.1, c.2.1, c.2.2.1, psumAdd c s)
    reps := Tbl.set r.reps e rep
    slots := r.slots ++ [{ e := e, i := t % rep.1, w := BitVec.ofNat 32 s, zero := false, filled := false }]
    disp := r.disp + 1 }

/-- No candidate is left for a choice. -/
def Routing.lose (r : Routing) (E e : Nat) : Routing :=
  let c := ctrAt r.ctr e
  let r1 := { r with slots := r.slots ++ [zeroSlot] }
  if e < E then { r1 with ctr := Tbl.set r.ctr e (c.1, inc32 c.2.1, c.2.2.1, c.2.2.2), drops := r.drops + 1 } else r1

/-- The choice `e` of score `s` or the next candidates: the routing and the candidates that remain. -/
def Routing.seek (tbl : Tbl (Nat × List Nat)) (t E cap orig : Nat) : List (Nat × Nat) → Routing → Nat → Nat → Routing × List (Nat × Nat)
  | [], r, e, s => (if E ≤ e || (ctrAt r.ctr e).1 == cap then r.lose E orig else r.take tbl t e s, [])
  | c :: rest, r, e, s =>
    if E ≤ e || (ctrAt r.ctr e).1 == cap then
      if r.has c.2 then (r.merge c.2 c.1, rest) else Routing.seek tbl t E cap orig rest r c.2 c.1
    else (r.take tbl t e s, c :: rest)

/-- The choices of rank j below k, in order; `n` ranks have none. -/
def Routing.run (tbl : Tbl (Nat × List Nat)) (t E cap : Nat) : List (Nat × Nat) → Nat → Routing → List (Nat × Nat) → Routing
  | [], n, r, _ => { r with slots := r.slots ++ List.replicate n zeroSlot }
  | c :: cs, n, r, rest =>
    if c.2 < E ∧ r.has c.2 then Routing.run tbl t E cap cs n (r.merge c.2 c.1) rest
    else
      let x := Routing.seek tbl t E cap c.2 rest r c.2 c.1
      Routing.run tbl t E cap cs n x.1 x.2

/-- Renormalized weights (R335). -/
def renorm (l : List TokSlot) : List TokSlot :=
  match (l.filter fun x => !x.zero).map (·.w.toNat) with
  | [] => l
  | w :: ws =>
    let sum := ws.foldl (fun a b => (addFp pF32 .rne a b).1) w
    match fpDec pF32 sum with
    | .fin _ m _ => if m = 0 then l else l.map fun x => if x.zero then x else { x with w := BitVec.ofNat 32 (divFp pF32 .rne x.w.toNat sum).1 }
    | _ => l

/-- The gate list of the next token: of the layer's tag and the token's round (R333). -/
def State.nextGate (s : State) (k : Nat) : Option (Layer × Nat × BitVec 512) :=
  match (s.chain k).layer with
  | some l =>
    if l.phase = .route ∧ l.from_ ≤ s.tc then
      ((s.chain k).gates.find? fun g => g.1 == lbTag l.block && fld g.2.toNat 408 8 == l.nextTok % 256).map fun g => (l, g)
    else none
  | none => none

/-- The groups of a routed layer: experts and replicas in ascending order, tokens in ascending order. -/
def Layer.group (l : Layer) : List Group :=
  let all := l.slots.flatMap fun x => (x.2.filter fun y => !y.zero).map fun y => (y.e, y.i, x.1)
  let keys := (all.foldl (fun (m : List (Nat × Nat)) y => if m.contains (y.1, y.2.1) then m else m ++ [(y.1, y.2.1)]) []).mergeSort
    fun a b => decide (4 * a.1 + a.2 ≤ 4 * b.1 + b.2)
  keys.map fun key =>
    let toks := (all.filter fun y => y.1 == key.1 && y.2.1 == key.2).map (·.2.2)
    { e := key.1, i := key.2, toks := toks, slot := none, fresh := false, gather := 0, went := 0, installAt := none,
      blocks := ceilDiv toks.length 128 * ceilDiv l.n 128, nextBlock := 0, again := [], sent := [], done := 0, installed := [], filled := false }

/-- Tokens whose slots are all filled wait for their row to be written, once each. -/
def Layer.complete (l : Layer) (toks : List Nat) : Layer :=
  { l with rowQ := l.rowQ ++ ((toks.filter fun t => (Tbl.get [] l.slots t).all (·.filled)).map fun t => (t, 0)) }

/-- `ROUTE_TOKEN` (R334 to R336): one token's list is routed; with the last the groups are closed (R329). -/
def execRouteToken (s : State) : Out :=
  let k := s.focus.a
  match s.nextGate k with
  | none => .next s
  | some (l, g) =>
    let c := s.chain k
    let es := listEntries g.2.toNat
    let kk := lbK l.block
    let r0 : Routing := { ctr := c.counters, reps := l.reps, slots := [], disp := l.dispatches, drops := l.drops }
    let r := Routing.run c.replicas l.nextTok (lbE l.block) (lbMax l.block) (es.take kk) (kk - (es.take kk).length) r0 (es.drop kk)
    let slots := if lbNorm l.block then renorm r.slots else r.slots
    let l1 : Layer := { l with nextTok := l.nextTok + 1, reps := r.reps, slots := Tbl.set l.slots l.nextTok slots, dispatches := r.disp, drops := r.drops }
    let l2 := l1.complete [l.nextTok]
    let l3 : Layer := if l2.nextTok = lbT l.block then { l2 with phase := .product, groups := l2.group } else l2
    .next (s.modChain k fun c => { c with gates := c.gates.erase g, counters := r.ctr, lastLayer := lbLayer l.block, layer := some l3 })

/-! ### Replicas (R336, R337) -/

/-- Whether a replica descriptor is well formed. -/
def replOk (e d : Nat) : Bool :=
  decide (e ≤ 255) && decide (d < 2 ^ 22) && (List.range (d % 4 + 1)).all fun i => decide (fld d (2 + 5 * i) 5 < 16) || fld d (2 + 5 * i) 5 == 31

def replOf (d : Nat) : Nat × List Nat := (d % 4 + 1, (List.range (d % 4 + 1)).map fun i => fld d (2 + 5 * i) 5)

/-- `xrepl` (R337): the entry is written, with its status, 4 tc after issue. -/
def execXrepl (h : Hdr) (o : R3) (chain : Bool) (s : State) : Out :=
  s.guarded (footRun o.d o.a 0 o.b.range) fun s =>
    let e := o.a.get s.cur.frame
    let d := o.b.get s.cur.frame
    let k := 2 * dieOf s.curTile + b2n chain
    if replOk e d then
      let (id, s1) := s.oweLater o.d
      (s1.after 4 .statusResultWrite ⟨s.curTile, s.curSlot, id, 8, k + 8 * (e + 256 * d)⟩).advance h 16
    else (s.oweStatus 4 o.d 1).advance h 16

/-! ### Gathers (R338) -/

/-- The next group to gather: its index. The dispatch engine gathers one group at a time, in order (log 21). -/
def Layer.toGather (l : Layer) : Option (Nat × Group) :=
  if l.phase != .product || l.status != 0 || l.groups.any (fun g => g.gather == 1) then none
  else (l.groups.zipIdx.find? fun e => e.1.gather == 0).map fun e => (e.2, e.1)

/-- The handle of a tile's live copy engine basin. -/
def State.copyBasin (s : State) (t : Nat) : Option (BitVec 32) :=
  ((s.tile t).liveBasins.find? fun e => e.2.kind == .engine && e.2.engCopy).map fun e => handleOf s.dev.device t e.1 ((s.tile t).weir.gen e.1)

/-- The gather command that may be sent now: the group, its tile and the copy engine basin there (R329, R338). -/
def State.gatherNext (s : State) (k : Nat) : Option (Layer × Nat × Group × Nat × BitVec 32) :=
  (s.chain k).layer.bind fun l => l.toGather.bind fun e => (l.pondOf e.2).bind fun p =>
    let t := pondTile (k / 2) p 0
    (s.copyBasin t).map fun h => (l, e.1, e.2, t, h)

/-- Whether the gather of the next group may be sent. -/
def State.gatherDue (s : State) (k : Nat) : Bool := (s.gatherNext k).isSome

def State.modLayer (s : State) (k : Nat) (f : Layer → Layer) : State := s.modChain k fun c => { c with layer := c.layer.map f }
def Layer.modGroup (l : Layer) (ix : Nat) (f : Group → Group) : Layer := { l with groups := l.groups.modify ix f }
/-- The first failure of a layer sets its status and ends its phases (R342). -/
def Layer.fail (l : Layer) (st : Nat) : Layer := { l with status := if l.status = 0 then st else l.status, phase := .over, rowQ := [] }

/-- Whether a gather was aborted, which ends the layer (R338, R252). -/
def State.gatherFailed (s : State) (k : Nat) : Bool :=
  match (s.chain k).layer with | some l => l.status == 0 && l.groups.any fun g => decide (3 ≤ g.gather) | none => false

/-- The layer's status for a gather that failed: its capability rejected 2, its window refused 1, aborted 3 (R342; log 21). -/
def Layer.gatherStatus (l : Layer) : Nat :=
  match (l.groups.find? fun g => decide (3 ≤ g.gather)).map (·.gather) with
  | some 4 => 2
  | some 5 => 1
  | _ => 3

/-- `GATHER` (R329, R338): the command of the next group's gather is sent from the chain's stop to the copy engine basin of the pond's lowest tile,
with the block's capability; a gather that failed ends the layer. -/
def execGather (s : State) : Out :=
  let k := s.focus.a
  if s.gatherFailed k then .next (s.modLayer k fun l => l.fail l.gatherStatus)
  else
  match s.gatherNext k with
  | none => .next s
  | some (l, ix, g, _, h) =>
    let c := l.gatherChan k ix g
    let img := gatherImage (lbCap l.block) (lbChan l.block) c (s.chainHandle k)
    .next ((s.modLayer k fun l => l.modGroup ix fun g => { g with gather := 1 }).post (chainStop k) 0 (plainMsg (chainStop k) h l.inst 64 img))

/-! ### Placement and product (R339 to R341) -/

def State.chainsOf (s : State) (die : Nat) : List Chain := [s.chain (2 * die), s.chain (2 * die + 1)]

/-- Whether a slot has commands of a running layer to come or not completed. -/
def State.slotBusy (s : State) (die p : Nat) : Bool :=
  (s.chainsOf die).any fun c => match c.layer with
    | some l => l.groups.any fun g => g.slot == some p && decide (g.done < g.blocks) && (l.status == 0 || !g.sent.isEmpty)
    | none => false

/-- The order table at `curlayer`, or none where it does not translate. -/
def State.orderTable (s : State) (die t : Nat) : Option (List Nat) :=
  let c := (s.die die).curlayer.toNat
  match s.readEach t 2 none ((List.range (fld c 8 6 + 1)).map fun i => (fld c 14 50 * 128 + 2 * i) % 2 ^ 64) with
  | .ok (l, _) => some l
  | .error _ => none

/-- `Dist` of R340. -/
def distOf (tbl : Option (List Nat)) (pos layer : Nat) : Nat :=
  match tbl with
  | none => 64
  | some l => ((List.range l.length).find? fun j => (l[(pos + j) % l.length]?).getD 0 == layer).getD 64

/-- What the placement of a group finds. -/
inductive Place where
  | wait
  /-- The host must name a slot (R367 duty 2). -/
  | ask
  | slot (p : Nat) (evicts : Bool)
  deriving DecidableEq, Repr

def State.placeOf (s : State) (k : Nat) (l : Layer) (g : Group) : Place :=
  let die := k / 2
  let d := s.die die
  let id := some (lbLayer l.block, g.e, g.i)
  if l.fixed g then
    match l.pondOf g with
    | some p => if s.slotBusy die p then .wait else .slot p false
    | none => .wait
  else
    match (List.range 16).find? fun p => Tbl.get none d.expSlots p == id with
    | some p => .slot p false
    | none =>
      if s.dev.duty.getLsbD 2 then
        match (s.chain k).evict with
        | some p => if s.slotBusy die p then .wait else .slot p false
        | none => .ask
      else
        let named := (s.chainsOf die).flatMap fun c => c.replicas.flatMap fun r => r.2.2
        let free := (List.range 16).filter fun p => !s.slotBusy die p && !named.contains p
        let tbl := s.orderTable die (chainStop k)
        let pos := fld d.curlayer.toNat 0 6
        let dist (p : Nat) : Nat := match Tbl.get none d.expSlots p with | some o => distOf tbl pos o.1 | none => 64
        match free with
        | [] => .wait
        | p :: r => .slot (r.foldl (fun m q => if dist m < dist q then q else m) p) true

/-- A group that is to be placed now: a fixed one once it is gathered, one of any pond before its gather, whose channel its pond gives (log 21). -/
def Layer.toPlace (l : Layer) : Option (Nat × Group) :=
  if l.phase != .product || l.status != 0 then none
  else (l.groups.zipIdx.find? fun e => e.1.slot.isNone && (if l.fixed e.1 then e.1.gather == 2 else e.1.gather == 0)).map fun e => (e.2, e.1)

/-- A group whose entries are to be installed: placed and gathered. -/
def Layer.toInstall (l : Layer) : Option (Nat × Group) :=
  if l.phase != .product || l.status != 0 then none
  else (l.groups.zipIdx.find? fun e => e.1.slot.isSome && e.1.gather == 2 && e.1.installAt.isNone).map fun e => (e.2, e.1)

/-- The handle of a tile's live engine basin for matrix commands. -/
def State.engineBasin (s : State) (t : Nat) : Option (BitVec 32) :=
  ((s.tile t).liveBasins.find? fun e => e.2.kind == .engine && !e.2.engCopy).map fun e => handleOf s.dev.device t e.1 ((s.tile t).weir.gen e.1)

/-- The next command of a group: the block and its tile, one sent again first. -/
def Group.next (g : Group) (die : Nat) : Option (Nat × Nat) :=
  match g.again, g.slot with
  | (t, b) :: _, _ => some (t, b)
  | [], some p => if g.nextBlock < g.blocks then some (pondTile die p g.nextBlock, g.nextBlock) else none
  | [], none => none

/-- The three tensor entries of a group (R339). -/
def Layer.entries (l : Layer) (g : Group) : List Nat :=
  let m := g.toks.length
  let x := l.xent
  let b := l.block
  let gb := (lbGbuf b + (4 * g.e + g.i) * lbMax b * tenRstride x) % 2 ^ 64
  let yb := (lbYbuf b + (4 * g.e + g.i) * lbMax b * (4 * l.n)) % 2 ^ 64
  [x / 2 ^ 64 * 2 ^ 64 - fld x 160 16 * 2 ^ 160 + (m - 1) * 2 ^ 160 + gb, g.went,
   yb + 4 * l.n * 2 ^ 64 + 0x3f800000 * 2 ^ 128 + (m - 1) * 2 ^ 160 + (l.n - 1) * 2 ^ 176 + 2 * 2 ^ 198]

/-- The tiles on which a chain's groups are to be given their entries now, by the tc from which a group's may be: each of the pond's 16 tiles that
has accepted every earlier command of the chain (R339). -/
def State.toEnter (s : State) (k : Nat) : List (Nat × Nat) :=
  match (s.chain k).layer with
  | none => []
  | some l =>
    if l.phase != .product || l.status != 0 then []
    else
      let from_ (g : Group) : Nat := g.installAt.getD 0
      ((l.groups.zipIdx.filter fun e => e.1.installAt.any fun a => decide (a ≤ s.tc)).mergeSort fun a b => decide (from_ a.1 ≤ from_ b.1)).flatMap fun e =>
        match e.1.slot with
        | some p => (((List.range 16).map (pondTile (k / 2) p)).filter fun u => !e.1.installed.contains u && !(s.chain k).waiting.contains u).map fun u => (e.2, u)
        | none => []

/-- The three entries of a group are installed on a tile. -/
def State.enterGroup (s : State) (k ix u : Nat) : State :=
  match (s.chain k).layer with
  | none => s
  | some l =>
    match l.groups[ix]? with
    | none => s
    | some g =>
      (s.modTile u fun x => { x with mx := { x.mx with
        tids := (l.entries g).zipIdx.foldl (fun m e => Tbl.set m (lbTbase l.block + e.2) (BitVec.ofNat 1024 e.1)) x.mx.tids } }).modLayer k fun l =>
          l.modGroup ix fun g => { g with installed := g.installed ++ [u] }

def State.enterAll (s : State) (k : Nat) : State := (s.toEnter k).foldl (fun (s : State) e => s.enterGroup k e.1 e.2) s

/-- The command that may be sent now: its tile has an engine basin and the entries of the group (R339). -/
def State.toSend (s : State) (k : Nat) : Option (Nat × Group × Nat × Nat × BitVec 32) :=
  match (s.chain k).layer with
  | none => none
  | some l =>
    if l.phase != .product || l.status != 0 then none
    else l.groups.zipIdx.findSome? fun e =>
      let g := e.1
      match g.installAt, g.next (k / 2) with
      | some at_, some (t, b) =>
        if at_ ≤ s.tc ∧ g.installed.contains t then (s.engineBasin t).map fun h => (e.2, g, t, b, h) else none
      | _, _ => none

/-- The command of block `b` of a group (R339). -/
def Layer.command (l : Layer) (b : Nat) (done : BitVec 32) : Nat :=
  let k := l.block
  let nb := ceilDiv l.n 128
  lbCap k + done.toNat * 2 ^ 64 + 128 * (b / nb) * 2 ^ 96 + 128 * (b % nb) * 2 ^ 112 + (tenCols l.xent - 1) * 2 ^ 138 + lbPa k * 2 ^ 152 +
    lbPb k * 2 ^ 156 + lbTbase k * 2 ^ 160 + (lbTbase k + 1) * 2 ^ 168 + (lbTbase k + 2) * 2 ^ 176 + lbAct k * 2 ^ 256 + 2 ^ 260 +
    lbActen k * 2 ^ 262 + lbChan k * 2 ^ 265 + 127 * 2 ^ 320 + 127 * 2 ^ 327

/-- Whether a placement of the chain has something to do: a group to place that does not wait, entries to install. -/
def State.placeDue (s : State) (k : Nat) : Bool :=
  match (s.chain k).layer with
  | none => false
  | some l =>
    l.toInstall.isSome || match l.toPlace with
      | some (_, g) => match s.placeOf k l g with
        | .wait => false
        | .ask => !(s.chain k).waitEvict
        | .slot .. => true
      | none => false

/-- `GROUP_PLACE` (R339 to R341). Focus 0: a group is placed in a slot, or asks the host for one; or the entries of a gathered and placed group are
read, 64 tc and the read's latency where the slot's occupant changes. Focus 1: entries are installed where they can be, and the next command is sent. -/
def execGroupPlace (s : State) : Out :=
  let k := s.focus.a
  let t := chainStop k
  match (s.chain k).layer with
  | none => .next s
  | some l =>
    if s.focus.b = 1 then
      let s1 := s.enterAll k
      match s1.toSend k with
      | none => .next s1
      | some (ix, _, u, b, h) =>
        let s2 := s1.modLayer k fun l => l.modGroup ix fun g =>
          { g with sent := g.sent ++ [(u, b)]
                   again := g.again.drop 1
                   nextBlock := if g.again.isEmpty then g.nextBlock + 1 else g.nextBlock }
        let s3 := s2.modChain k fun c => { c with waiting := c.waiting ++ [u] }
        .next (s3.post t 0 (plainMsg t h l.inst 64 (l.command b (s.chainHandle k))))
    else
      match l.toInstall with
      | some (ix, g) =>
        let a := (lbEtab l.block + 128 * g.e) % 2 ^ 64
        match (s.asks t a 128).engineRead t a 128 with
        | .error _ => .next (s.modLayer k fun l => l.fail 1)
        | .ok (w, s1) =>
          if entriesOk l.block l.xent w l.n then
            .next (s1.modLayer k fun l => l.modGroup ix fun g => { g with went := w, installAt := some (s.tc + if g.fresh then 64 + s.agentCost t a else 0) })
          else .next (s1.modLayer k fun l => l.fail 1)
      | none =>
        match l.toPlace with
        | none => .next s
        | some (ix, g) =>
          match s.placeOf k l g with
          | .wait => .next s
          | .ask => .next (s.modChain k fun c => { c with waitEvict := true })
          | .slot p evicts =>
            let id := some (lbLayer l.block, g.e, g.i)
            let fresh := Tbl.get none (s.die (k / 2)).expSlots p != id
            let s1 := if evicts && (s.orderTable (k / 2) t).isNone then s.journal 8 0 t 0 (fld (s.die (k / 2)).curlayer.toNat 14 50 * 128) else s
            let s2 := s1.modDie (k / 2) fun d => { d with expSlots := Tbl.set d.expSlots p id }
            .next ((s2.modChain k fun c => { c with evict := none, waitEvict := false }).modLayer k fun l =>
              l.modGroup ix fun g => { g with slot := some p, fresh := fresh })

/-! ### Combine (R342) -/

/-- The next tile of a group's pond whose engine has not refused a command of the layer as fenced. -/
def Layer.nextTile (l : Layer) (die p b : Nat) : Option Nat :=
  (((List.range 16).map fun i => pondTile die p (b + 1 + i)).find? fun t => !l.fenced.contains t)

/-- A completion message of a command on tile `u` (R339): the oldest command sent to that tile is over. A block that a fenced engine refused goes to
the next tile, on which the entries are installed again first. -/
def Layer.completion (l : Layer) (die u st : Nat) : Layer :=
  match l.groups.zipIdx.find? fun e => e.1.sent.any fun b => b.1 == u with
  | none => l
  | some (g, ix) =>
    let b := ((g.sent.find? fun b => b.1 == u).map (·.2)).getD 0
    let l1 := l.modGroup ix fun g => { g with sent := g.sent.erase (u, b) }
    match st with
    | 0 =>
      let l2 := l1.modGroup ix fun g => { g with done := g.done + 1, filled := decide (g.blocks ≤ g.done + 1) }
      if g.blocks ≤ g.done + 1 ∧ l.status = 0 then
        let l3 : Layer := { l2 with slots := l2.slots.map fun x => (x.1, x.2.map fun y => if !y.zero && y.e == g.e && y.i == g.i then { y with filled := true } else y) }
        l3.complete g.toks
      else l2
    | 1 => l1.fail 2
    | 3 => l1.fail 2
    | 2 => l1.fail 1
    | 5 =>
      let l2 : Layer := { l1 with fenced := if l1.fenced.contains u then l1.fenced else l1.fenced ++ [u] }
      match g.slot with
      | none => l2
      | some p =>
        match l2.nextTile die p ((List.range 16).findIdx fun i => pondTile die p i == u) with
        | some t => l2.modGroup ix fun g => { g with again := g.again ++ [(t, b)], installed := g.installed.filter (· != t) }
        | none => l2.fail 4
    | _ => l1.fail 3

/-- The value Y of a slot's output at a column: the row of the token within its group. -/
def Layer.yAddr (l : Layer) (x : TokSlot) (t n : Nat) : Nat :=
  let j := match l.groups.find? fun g => g.e == x.e && g.i == x.i with | some g => g.toks.findIdx (· == t) | none => 0
  (lbYbuf l.block + (4 * x.e + x.i) * lbMax l.block * (4 * l.n) + 4 * l.n * j + 4 * n) % 2 ^ 64

/-- A combined output (R342). -/
def State.combine (s : State) (k : Nat) (l : Layer) (t n : Nat) : Except Nat (Nat × State) :=
  ((Tbl.get [] l.slots t).filter fun x => !x.zero).foldl (fun acc x =>
    match acc with
    | .error c => .error c
    | .ok (a, s) =>
      match s.engineRead (chainStop k) (l.yAddr x t n) 4 with
      | .error c => .error c
      | .ok (y, s1) => .ok ((fmaFp pF32 .rne x.w.toNat y a).1, s1)) (.ok (0, s))

/-- The combined outputs of the columns from `n`, as one number. -/
def State.combineRun (s : State) (k : Nat) (l : Layer) (t : Nat) : Nat → Nat → Except Nat (Nat × State)
  | _, 0 => .ok (0, s)
  | n, c + 1 =>
    match s.combine k l t n with
    | .error e => .error e
    | .ok (v, s1) =>
      match State.combineRun s1 k l t (n + 1) c with
      | .error e => .error e
      | .ok (r, s2) => .ok (v + 2 ^ 32 * r, s2)

/-- Whether a row is being written. -/
def State.rowDue (s : State) (k : Nat) : Bool := match (s.chain k).layer with | some l => !l.rowQ.isEmpty && l.status == 0 | none => false

/-- `COMBINE_SLOT_FILL` (R342). Focus 0: a completion message arrives, and with the last of a group its slots are filled. Focus 1: 64 B of the next
complete token's row are written. An access of a row that cannot be made ends the layer as a bad block (log 21). -/
def execCombineSlotFill (s : State) : Out :=
  let k := s.focus.a
  let u := chainStop k
  match (s.chain k).layer with
  | none => .next s
  | some l =>
    if s.focus.b = 0 then .next (s.modLayer k fun l => l.completion (k / 2) s.focus.c s.focus.d)
    else
      match l.rowQ with
      | [] => .next s
      | (t, off) :: r =>
        let va := (lbObuf l.block + 4 * l.n * t + off) % 2 ^ 64
        let n := min (64 - va % 64) (4 * l.n - off)
        let sa := ((Tbl.get [] l.slots t).filter fun x => !x.zero).foldl (fun (s : State) x => s.asks u (l.yAddr x t (off / 4)) n) s
        match sa.combineRun k l t (off / 4) ((off + n - 1) / 4 - off / 4 + 1) with
        | .error _ => .next (s.modLayer k fun l => l.fail 1)
        | .ok (v, s1) =>
          match s1.partsOf u .write .page true va n with
          | .error _ => .next (s1.modLayer k fun l => l.fail 1)
          | .ok ps =>
            let w := (s1.cacheFor u va n).unitSend u (unitId 4 k) ps (v / 2 ^ (8 * (off % 4)))
            let over_ := 4 * l.n ≤ off + n
            .next (w.1.modLayer k fun l =>
              { l with rowQ := if over_ then r else (t, off + n) :: r, landed := if over_ then l.landed + 1 else l.landed, out := l.out + w.2 })

/-- Whether the chain's layer is over (R342): all rows are performed, or it has failed and no command of it is left. -/
def State.layerOver (s : State) (k : Nat) : Bool :=
  match (s.chain k).layer with
  | none => false
  | some l =>
    l.out == 0 &&
      if l.status = 0 then l.phase == .product && decide (lbT l.block ≤ l.landed)
      else l.groups.all fun g => g.sent.isEmpty && g.gather != 1

/-- `LAYER_DONE` (R342): the done message is sent, and the chain is free for its next block (R329). -/
def execLayerDone (s : State) : Out :=
  let k := s.focus.a
  let t := chainStop k
  match (s.chain k).layer with
  | none => .next s
  | some l =>
    let h := lbDone l.block
    let m := lbLayer l.block + l.status * 2 ^ 16 + l.landed % 2 ^ 32 * 2 ^ 32 + l.dispatches % 2 ^ 32 * 2 ^ 64 + l.drops % 2 ^ 32 * 2 ^ 96
    let s1 := s.modChain k fun c => { c with layer := none, evict := none, waitEvict := false }
    .next (if h = 0 then s1 else s1.post t 0 { plainMsg t h l.inst 16 m with rel := some .device })

/-! ### Snapshots (R343) -/

/-- `xsnap` (R343). -/
def execXsnap (h : Hdr) (o : R2) (chain : Bool) (s : State) : Out :=
  s.guarded (footRun o.d o.a 0 []) fun s =>
    let t := s.curTile
    let a := o.a.get s.cur.frame
    let k := 2 * dieOf t + b2n chain
    if a % 16 != 0 then s.trap (dataFault 7 a 16)
    else
      match s.partsOf t .write .page true a 4112 with
      | .error _ => (s.oweStatus 2 o.d 1).advance h 16
      | .ok ps =>
        let (id, s1) := (s.cacheFor t a 4112).oweLater o.d
        let r : SnapReq := ⟨a, ps, t, s.curSlot, id, s.tc + s.xlateCost t a 4112 + ceilDiv (hops t (chainStop k)) 2 + 1, none, 0, 0⟩
        (s1.modChain k fun c => { c with snaps := c.snaps ++ [r] }).advance h 16

/-- The bytes of a snapshot: its header, then the entries of the 256 experts. -/
def snapImage (c : Chain) (time : Nat) : Nat :=
  time % 2 ^ 64 + c.lastLayer % 2 ^ 16 * 2 ^ 64 + (List.range 256).foldl (fun m e =>
    let x := ctrAt c.counters e
    m + (x.1 + x.2.1 * 2 ^ 32 + x.2.2.1 * 2 ^ 64 + x.2.2.2.toNat * 2 ^ 96) * 2 ^ (128 * (e + 1))) 0

/-- The snapshots that are due are copied, and the counters cleared with each (R343). -/
def Chain.copySnaps (c : Chain) (tc time : Nat) : Chain :=
  c.snaps.foldl (fun (m : Chain) r =>
    if r.from_ ≤ tc ∧ r.image.isNone then { m with snaps := m.snaps ++ [{ r with image := some (snapImage m time) }], counters := [] }
    else { m with snaps := m.snaps ++ [r] }) { c with snaps := [] }

/-- The next snapshot to be written on. -/
def Chain.snapWrite (c : Chain) : Option SnapReq := c.snaps.find? fun r => r.image.isSome && decide (r.written < 65)
/-- The snapshot whose writes are all performed. -/
def Chain.snapOver (c : Chain) : Option SnapReq := c.snaps.find? fun r => decide (65 ≤ r.written) && r.out == 0

/-- Whether a snapshot of the chain is taken, written on or over in this tc. -/
def State.snapDue (s : State) (k : Nat) : Bool :=
  let c := s.chain k
  (c.snaps.any fun r => decide (r.from_ ≤ s.tc) && r.image.isNone) || c.snapWrite.isSome || c.snapOver.isSome

/-- The bytes of `[lo, lo + n)` of some parts. -/
def cutParts (l : List Part) (lo n : Nat) : List Part :=
  l.filterMap fun p =>
    let a := max lo p.off
    let b := min (lo + n) (p.off + p.nb)
    if a < b then some { p with off := a - lo, nb := b - a, va := p.va + (a - p.off), addr := p.addr + (a - p.off) } else none

/-- `SNAPSHOT_TAKE` (R343): between two tokens the counters are copied and cleared for each snapshot that is due; the first one's 65 writes leave the
chain's stop, one a tc, to the addresses as they were translated at issue; the status of one that is performed goes to its tile. -/
def execSnapshotTake (s : State) : Out :=
  let k := s.focus.a
  let u := chainStop k
  let c := s.chain k
  -- the acknowledgement of the last write is back
  let s0 := match c.snapOver with
    | none => s
    | some r =>
      let pas := (r.parts.filter fun (p : Part) => p.path != Path.pool).map fun (p : Part) => p.addr / 128
      ((s.modTile r.tile fun x => pas.foldl (fun (x : Tile) l => x.l1Drop l) x).modChain k fun c => { c with snaps := c.snaps.erase r }).settle
        r.tile r.slot r.owedId (ceilDiv (hops r.tile u) 2) 0
  let s1 := s0.modChain k fun c => c.copySnaps s.tc s.dev.time
  match c.snapWrite with
  | none => .next s1
  | some r =>
    let off := 64 * r.written
    let n := min 64 (4112 - off)
    let w := s1.unitSend u (unitId 5 (k + 8 * r.owedId)) (cutParts r.parts off n) (fld (r.image.getD 0) (8 * off) (8 * n))
    .next (w.1.modChain k fun c => { c with snaps := c.snaps.map fun q => if q = r then { r with written := r.written + 1, out := r.out + w.2 } else q })

end Sys2Proof.Machine
end

