-- ==== Sys2Proof/Machine/Shake.lean ====
section
/-!
DEFINITION. SHAKE256 (FIPS 202) of a 64 B message, of which the journal keeps the first 8 bytes (R365).
-/

namespace Sys2Proof.Machine

/-- Lanes are numbered x + 5 · y. -/
def lane (a : List Nat) (x y : Nat) : Nat := a.getD (x % 5 + 5 * (y % 5)) 0

def rotl64 (v n : Nat) : Nat := v * 2 ^ n % 2 ^ 64 + v / 2 ^ (64 - n)

/-- The round constants. -/
def keccakRC : List Nat :=
  [0x0000000000000001, 0x0000000000008082, 0x800000000000808a, 0x8000000080008000, 0x000000000000808b, 0x0000000080000001,
   0x8000000080008081, 0x8000000000008009, 0x000000000000008a, 0x0000000000000088, 0x0000000080008009, 0x000000008000000a,
   0x000000008000808b, 0x800000000000008b, 0x8000000000008089, 0x8000000000008003, 0x8000000000008002, 0x8000000000000080,
   0x000000000000800a, 0x800000008000000a, 0x8000000080008081, 0x8000000000008080, 0x0000000080000001, 0x8000000080008008]

/-- The rotation of each lane. -/
def keccakRot : List Nat :=
  [0, 1, 62, 28, 27, 36, 44, 6, 55, 20, 3, 10, 43, 25, 39, 41, 45, 15, 21, 8, 18, 2, 61, 56, 14]

def keccakTheta (a : List Nat) : List Nat :=
  let c := (List.range 5).map fun x => (List.range 5).foldl (fun (v : Nat) y => v ^^^ lane a x y) 0
  let d := (List.range 5).map fun x => List.getD c ((x + 4) % 5) 0 ^^^ rotl64 (List.getD c ((x + 1) % 5) 0) 1
  (List.range 25).map fun i => lane a i (i / 5) ^^^ List.getD d (i % 5) 0

/-- Rotation and transposition: lane (x, y) comes from lane (x + 3 · y, x). -/
def keccakRhoPi (a : List Nat) : List Nat :=
  (List.range 25).map fun i =>
    let x := i % 5 + 3 * (i / 5)
    rotl64 (lane a x i) (keccakRot.getD (x % 5 + 5 * (i % 5)) 0)

def keccakChi (a : List Nat) : List Nat :=
  (List.range 25).map fun i =>
    lane a i (i / 5) ^^^ ((2 ^ 64 - 1 - lane a (i + 1) (i / 5)) &&& lane a (i + 2) (i / 5))

def keccakRound (a : List Nat) (rc : Nat) : List Nat :=
  match keccakChi (keccakRhoPi (keccakTheta a)) with
  | [] => []
  | v :: r => (v ^^^ rc) :: r

/-- The first 8 bytes, little-endian, of SHAKE256 of the 64 bytes that `m` holds little-endian: one block of 136 bytes, with the suffix
`1f` behind the message and `80` at its end. -/
def shake256of64 (m : Nat) : Nat :=
  let block := m % 2 ^ 512 + 0x1f * 2 ^ 512 + 0x80 * 2 ^ (8 * 135)
  let a := (List.range 25).map fun i => fld block (64 * i) 64
  lane (keccakRC.foldl keccakRound a) 0 0

end Sys2Proof.Machine
end

