-- ==== Sys2Proof/Machine/Units.lean ====
section
/-!
DEFINITION. `tlbinv`, `waymask` and `selftest` (R234, R254, R360), errors and the tests they start (R361), and the gating of a tile
(R189, R359).
-/

namespace Sys2Proof.Machine

/-! ### tlbinv (R30, R234, R360) -/

/-- Whether a page overlaps `[a, a + n)`; a length of 0 names every address. -/
def TlbEntry.inRange (e : TlbEntry) (a n : Nat) : Bool := n == 0 || (decide (a < e.vbase + e.size) && decide (e.vbase < a + n))
def inRange (va nb a n : Nat) : Bool := n == 0 || (decide (a < va + nb) && decide (va < a + n))

/-- The tiles of a scope: the tile, its die, every die. -/
def State.scopeTiles (s : State) (t sc : Nat) : List Nat :=
  match sc with
  | 0 => [t]
  | 1 => (s.tiles.map (·.1)).filter fun u => dieOf u == dieOf t
  | _ => s.tiles.map (·.1)

/-- Entries of the range leave the TLBs, the translation caches and the instruction caches of a scope. -/
def State.invalidate (s : State) (t sc a n : Nat) : State :=
  let s1 := (s.scopeTiles t sc).foldl (fun (s : State) u => s.modTile u fun x =>
    { x with tlb := x.tlb.filter (fun e => !e.inRange a n), icache := [] }) s
  let dies := match sc with | 0 => [] | 1 => [dieOf t] | _ => List.range 4
  dies.foldl (fun (s : State) d => s.modDie d fun x => { x with tcache := x.tcache.map fun e => (e.1, e.2.filter fun e => !e.inRange a n) }) s1

/-- The page of an address, base and size, as it is translated now. -/
def State.pageOf (s : State) (t va : Nat) : Nat × Nat := match (s.xlate t va).1 with | .ok e => (e.vbase, e.size) | .error _ => (va, 1)

/-- Whether a page of the bytes `[va, va + nb)` overlaps the range. -/
def State.pageIn (s : State) (t va nb a n : Nat) : Bool :=
  let p := s.pageOf t va
  let q := s.pageOf t (va + nb - 1)
  inRange p.1 (q.1 + q.2 - p.1) a n

/-- The accesses of a tile that were translated by a page in the range and are not over (R234). -/
def Tile.inFlight (x : Tile) (t a n : Nat) : List (Nat × Nat) :=
  (x.acc.filter fun k => k.stage == 2 && k.parts.any fun p => p.path != .pool && !p.performed && inRange p.page.1 p.page.2 a n).map fun k => (t, k.id)

/-- The source reads of a tile's channels that are on their way (R234). -/
def State.readsInFlight (s : State) (t a n : Nat) : List (Nat × Nat × Nat × Nat × Nat) :=
  (s.tile t).chans.flatMap fun c => (c.2.pieces.filter fun p => p.data.isNone && p.bad.isNone && s.pageIn t (c.2.srcVa p.elem + p.off) p.nb a n).map fun p =>
    (t, c.1, c.2.accepted, p.elem, p.off)

/-- The landing writes of a tile's channels that are on their way (R234). -/
def State.writesInFlight (s : State) (t a n : Nat) : List (Nat × Nat × Nat × Nat × Nat) :=
  (((s.tile t).chans ++ (s.tile t).lastWrites).filter fun c => c.2.flying && s.pageIn t c.2.winVa (c.2.winHi - c.2.winLo) a n).map fun c => (t, c.1, c.2.accepted, c.2.next, c.2.landed)

/-- A request for a stream that is not at its home yet, or waits there: the tile it came from, its tag, first line and physical lines. -/
def Packet.stream (k : Packet) : Option (Nat × Nat × List Nat) :=
  match k.body with
  | .mcRequest _ tag src _ _ _ pas => some (tag, src, pas)
  | _ => none

/-- The packets of the network. -/
def State.packets (s : State) : List Packet :=
  (s.stops.flatMap fun e => e.2.inject ++ e.2.inputs.flatMap (·.2) ++ e.2.reserved.filterMap (·.2) ++ e.2.streamWait) ++
    (s.dies.flatMap fun d => d.2.drainRing.map (·.2)) ++ (match s.dev.acorn.held with | some c => [c.packet] | none => [])

/-- The streams that are not over: asked for, on the way to their home, or read there (R258). -/
def State.openStreams (s : State) : List (Nat × Nat × List Nat) :=
  (s.tiles.flatMap fun e => e.2.mcWait.map fun w => (w.tag, w.src, w.pas)) ++ s.packets.filterMap Packet.stream ++
    s.stops.flatMap fun e => e.2.streams.map fun m => (m.tag, m.src, m.pas)

/-- The catch-up reads of a tile that are on their way: tag and line. -/
def State.catchupsInFlight (s : State) (t a n : Nat) : List (Nat × Nat × Nat) :=
  (s.tile t).subs.flatMap fun b => (b.asked.filter fun i => s.pageIn t (b.src + 128 * i) 128 a n).map fun i => (t, b.tag, i)

/-- `tlbinv` (R360). -/
def execTlbinv (h : Hdr) (o : R3) (sc : BitVec 2) (s : State) : Out :=
  s.guarded (footV o.d [o.a, o.b] 0) fun s =>
    let a := o.a.get s.cur.frame
    let n := o.b.get s.cur.frame
    if 2 ^ 57 < a + n then (s.oweStatus 2 o.d 1).advance h 16
    else
      let t := s.curTile
      let us := s.scopeTiles t sc.toNat
      let p := (s.invalidate t sc.toNat a n).oweLater o.d
      let r : Inval :=
        { tile := t, slot := s.curSlot, owedId := p.1
          accs := us.flatMap fun u => (s.tile u).inFlight u a n
          reads := us.flatMap fun u => s.readsInFlight u a n
          writes := us.flatMap fun u => s.writesInFlight u a n
          streams := s.openStreams.filter fun e => us.any fun u => s.pageIn u e.2.1 (128 * e.2.2.length) a n
          catchups := us.flatMap fun u => s.catchupsInFlight u a n }
      let lat := match sc.toNat with | 0 => 4 | 1 => 48 | _ => 160
      ((p.2.modDev fun d => { d with tlbinvs := d.tlbinvs ++ [r] }).after lat .tlbinvComplete ⟨t, s.curSlot, p.1, 0, 0⟩).advance h 16

/-- Whether none of the accesses an invalidation waits for is still on its way. -/
def State.invalDone (s : State) (r : Inval) : Bool :=
  (r.accs.all fun e => match (s.tile e.1).access e.2 with
    | some a => a.stage == 3 || a.parts.all (·.performed)
    | none => true) &&
  (r.reads.all fun e =>
    let c := (s.tile e.1).chan e.2.1
    c.accepted != e.2.2.1 || !c.pieces.any fun p => p.elem == e.2.2.2.1 && p.off == e.2.2.2.2 && p.data.isNone && p.bad.isNone) &&
  (r.writes.all fun e =>
    ((s.tile e.1).chans ++ (s.tile e.1).lastWrites).all fun c => c.1 != e.2.1 || c.2.accepted != e.2.2.1 || !c.2.flying || c.2.next != e.2.2.2.1 || c.2.landed != e.2.2.2.2) &&
  (r.streams.all fun e => !s.openStreams.contains e) &&
  r.catchups.all fun e => !(s.tile e.1).subs.any fun b => b.tag == e.2.1 && b.asked.contains e.2.2

/-- `TLBINV_COMPLETE` (R234, R360): the status is written in the first tc in which the condition holds. Focus: tile, slot, result. -/
def execTlbinvComplete (s : State) : Out :=
  let f := s.focus
  match s.dev.tlbinvs.find? fun r => r.tile == f.a && r.owedId == f.c with
  | none => .next s
  | some r =>
    if s.invalDone r then .next ((s.modDev fun d => { d with tlbinvs := d.tlbinvs.filter (· != r) }).settle f.a f.b f.c 0 0)
    else .next (s.after 1 .tlbinvComplete f)

/-! ### waymask (R219, R254, R360) -/

def inWay (w a n : Nat) : Bool := decide (65536 * w < a + n) && decide (a < 65536 * (w + 1))

/-- Whether a way holds a save entry in use or spilled deque tasks. -/
def Tile.wayHeld (x : Tile) (w : Nat) : Bool :=
  (x.saves.any fun e => e.2.isSome && inWay w (x.saveAddr e.1) 9216) ||
    (List.range x.spilledTasks.length).any fun i => inWay w (x.spillAddr i) 32

/-- Whether a channel that has not retired, of any tile, guarded yet or not, has a window that touches a way (R254). -/
def State.wayBusy (s : State) (t w : Nat) : Bool :=
  s.tiles.any fun u => (u.2.chans ++ u.2.lastWrites).any fun e => (e.2.state == .landing || e.2.state == .frozen || e.2.flying) &&
    match s.poolAt u.1 e.2.winVa with
    | some (o, p) => o == t && inWay w p (e.2.winHi - e.2.winLo)
    | none => false

/-- The pool bytes of a way are zero. -/
def Tile.zeroWay (x : Tile) (w : Nat) : Tile :=
  { x with pool := x.pool.filter (fun c => !inWay w c.1 1), poison := x.poison.filter fun p => !inWay w (8 * p) 8 }

/-- A way leaves scratch (R254): its contents are discarded and aborted windows in it dropped. -/
def Tile.wayOut (x : Tile) (w : Nat) : Tile :=
  { x.zeroWay w with
    poolways := x.poolways ||| BitVec.ofNat 16 (2 ^ w)
    chans := x.chans.map fun c => if c.2.state = .aborted ∧ c.2.guarded ∧ inWay w c.2.winLo (c.2.winHi - c.2.winLo) then (c.1, { c.2 with guarded := false }) else c
    guards := x.guards.filter fun g => !(g.state == .aborted && inWay w g.lo (g.hi - g.lo)) }

/-- Stash lines that do not fit the ways that are left: the least recently used of each set. -/
def overfull (ways : Nat) : List StashLine → List StashLine → List StashLine
  | [], _ => []
  | l :: r, seen =>
    if (seen.filter fun m => m.va % 512 == l.va % 512).length < ways then overfull ways r (l :: seen) else l :: overfull ways r seen

/-- Ways leave the stash: lines are written back and dropped, and the ways are zeroed and become scratch (R360). -/
def State.waysIn (s : State) (t : Nat) (ws : List Nat) : State :=
  if ws.isEmpty then s
  else
    let s1 := s.modTile t fun x => ws.foldl (fun (x : Tile) w =>
      { x.zeroWay w with poolways := x.poolways &&& ~~~BitVec.ofNat 16 (2 ^ w) }) x
    let x := s1.tile t
    let s2 := s1.stashClean t (overfull x.stashWays x.stash []) true
    s2.modTile t fun x => if x.poolways = 0 then { x with stashMaps := [] } else x

/-- `waymask` (R254, R360). -/
def execWaymask (h : Hdr) (o : R2) (m : BitVec 16) (s : State) : Out :=
  s.guarded { src := o.a.range, rd := o.a.range, dst := o.d.range, lat := 1 } fun s =>
    let t := s.curTile
    let x := s.here
    let new := if o.a.isNz then m else BitVec.ofNat 16 (o.a.get s.cur.frame)
    let leaving := (List.range 16).filter fun w => new.getLsbD w && !x.poolways.getLsbD w
    if x.wayPend.isSome then (s.oweStatus 1 o.d 1).advance h 8
    else if leaving.any x.wayHeld then (s.oweStatus 1 o.d 2).advance h 8
    else
      let cost := s.stashCost t (overfull (((List.range 16).filter fun w => x.poolways.getLsbD w && new.getLsbD w && !x.fenced.contains (2, w)).length) x.stash [])
      let s1 := s.waysIn t ((List.range 16).filter fun w => x.poolways.getLsbD w && !new.getLsbD w)
      let s2 := s1.modTile t fun y => (leaving.filter fun w => !s.wayBusy t w).foldl Tile.wayOut y
      let p := s2.oweLater o.d
      if (p.2.tile t).poolways = new then (p.2.settle t s.curSlot p.1 cost 0).advance h 8
      else (p.2.modTile t fun y => { y with wayPend := some ⟨new, 0, s.curSlot, p.1⟩ }).advance h 8

/-- The ways whose pending removal may take effect in the next tc. -/
def State.ripenWays (s : State) (t : Nat) : Tile :=
  let x := s.tile t
  match x.wayPend with
  | none => x
  | some p => { x with wayPend := some { p with ripe := BitVec.ofNat 16 (bitMap ((List.range 16).filter fun w =>
      p.mask.getLsbD w && !x.poolways.getLsbD w && !s.wayBusy t w)) } }

/-- Whether `WAY_REMOVAL` has a way to take out. -/
def Tile.wayDue (x : Tile) : Bool := match x.wayPend with | some p => p.ripe != 0 | none => false

/-- `WAY_REMOVAL` (R254): in the tc after every channel whose window touches it has retired, a way leaves scratch; with the last, the status is
written. -/
def execWayRemoval (s : State) : Out :=
  let t := s.focus.a
  match (s.tile t).wayPend with
  | none => .next s
  | some p =>
    let s1 := s.modTile t fun x =>
      let y := ((List.range 16).filter fun w => p.ripe.getLsbD w).foldl Tile.wayOut x
      { y with wayPend := some { p with ripe := 0 } }
    if (s1.tile t).poolways = p.mask then .next ((s1.modTile t fun x => { x with wayPend := none }).settle t p.slot p.owedId 0 0)
    else .next s1

/-! ### selftest (R360, R361) -/

/-- The number of units of a kind. -/
def unitCount (kind : Nat) : Nat := ([16, 8, 16, 16, 4, 5, 8][kind]?).getD 0

/-- The model's number of a systolic direction: east, south, west, north. -/
def sysDir (ix : Nat) : Nat := ([0, 2, 1, 3][ix]?).getD 0
/-- The model's number of a router port: east, south, west, north, local; bridges and Lauc keep their own. -/
def portDir (ix : Nat) : Nat := ([2, 3, 0, 1, 4][ix]?).getD ix

/-- Whether a unit is in use, so that its test waits. An L1 way is while the L1 starts an access, a bank of the weir's store while the messages that wait
do not fit the other banks (DESIGN CHOICE, log 8). -/
def State.unitBusy (s : State) (t kind ix : Nat) : Bool :=
  let x := s.tile t
  match kind with
  | 0 => (x.usedRuns s.tc).any fun r => !(r == (64 * ix, 64) && x.fenced.contains (0, ix)) && decide (r.1 < 64 * ix + 64) && decide (64 * ix < r.1 + r.2)
  | 1 => x.l1Busy s.tc
  | 6 => !x.fenced.contains (6, ix) && decide (x.freeSlots < 64)
  | 2 => (x.poolIn.any fun q => inWay ix q.addr q.nb) || (x.heldWrites.any fun q => inWay ix q.addr q.nb) || s.wayBusy t ix
  | 3 => x.mx.run.isSome || x.mx.testing
  | 4 => s.cascLinks.contains (t, sysDir ix) || s.streamLinks.contains (t, sysDir ix)
  | 5 => (List.range 4).any fun n => decide (s.nc < Tbl.get 0 (s.stop t).outBusy (8 * n + portDir ix))
  | _ => false

/-- A unit is fenced, or its fence cleared (R360). -/
def State.setFence (s : State) (t kind ix : Nat) (on : Bool) : State :=
  let put (l : List Nat) (k : Nat) : List Nat := if on then (if l.contains k then l else l ++ [k]) else l.filter (· != k)
  match kind with
  | 3 => s.modTile t fun x =>
    let f := if on then x.mxFenced ||| BitVec.ofNat 16 (2 ^ ix) else x.mxFenced &&& ~~~BitVec.ofNat 16 (2 ^ ix)
    { x with mxFenced := f, mxDead := decide (8 < popcount64 f.toNat) }
  | 4 => s.modStop t fun x => { x with fencedSys := put x.fencedSys (sysDir ix) }
  | 5 => s.modStop t fun x => { x with fencedPorts := put x.fencedPorts (portDir ix) }
  | _ => s.modTile t fun x =>
    let l := x.fenced.filter fun f => f != (kind, ix)
    Tile.l1Trim { x with fenced := if on then l ++ [(kind, ix)] else l }

/-- A self-test is asked for; it completes within 4,096 tc of its units being free. -/
def State.startTest (s : State) (r : SelfTest) : State :=
  let (id, s1) := s.take
  let (d, s2) := s1.drawDelay
  (s2.modDev fun v => { v with selftests := v.selftests ++ [{ r with id := id }] }).after (1 + d % 4096) .selftestDone ⟨r.tile, id, 0, 0, 0⟩

/-- `selftest` (R360). -/
def execSelftest (h : Hdr) (o : R2) (kind : BitVec 3) (s : State) : Out :=
  s.guarded { src := o.a.range, rd := o.a.range, dst := o.d.range } fun s =>
    let k := kind.toNat
    let n := unitCount k
    let ix := o.a.get s.cur.frame
    if !o.a.isNz && decide (n ≤ ix) then (s.oweStatus 2 o.d 2).advance h 16
    else
      let p := s.oweLater o.d
      (p.2.startTest { id := 0, tile := s.curTile, kind := k, units := if o.a.isNz then List.range n else [ix], mbox := false, byError := false,
                       slot := s.curSlot, owedId := some p.1, result := 0 }).advance h 16

/-- A test has ended: its status, or the mailbox's reply (R360, R373). -/
def State.testOver (s : State) (r : SelfTest) : State :=
  let s1 := s.modDev fun d => { d with selftests := d.selftests.filter fun q => q.id != r.id }
  let s2 := match r.owedId with | some id => s1.settle r.tile r.slot id 0 r.result | none => s1
  if r.mbox then s2.modDev fun d => { d with mbox := BitVec.ofNat 512 (r.result * 2 ^ 64), mboxBusy := false } else s2

/-- `SELFTEST_DONE` (R360, R361): the first unit that is free is tested; its outcome is free (log 8). A pass clears its fence; a fail fences
it. Tests that an error or the mailbox started are journaled, and a lasting fault is reported with cause 21. Focus: tile, test. -/
def execSelftestDone (s : State) : Out :=
  let f := s.focus
  match s.dev.selftests.find? fun r => r.id == f.b with
  | none => .next s
  | some r =>
    match r.units.find? fun u => !s.unitBusy r.tile r.kind u with
    | none => if r.units.isEmpty then .next (s.testOver r) else .next (s.after 1 .selftestDone f)
    | some u =>
      let (v, s1) := s.draw
      let bad := v % 2 == 1
      let s2 := s1.setFence r.tile r.kind u bad
      let s3 := if r.byError || r.mbox then s2.journal 5 0 r.tile (BitVec.ofNat 32 (256 * r.kind + u)) (b2n bad) else s2
      let s4 := if (r.byError || r.mbox) && bad then s3.report r.tile { cause := 21, info := u, unit := r.kind } 0 else s3
      let r1 := { r with units := r.units.filter (· != u), result := if bad then 1 else r.result }
      if r1.units.isEmpty then .next (s4.testOver r1)
      else .next ((s4.modDev fun d => { d with selftests := d.selftests.map fun q => if q.id = r.id then r1 else q }).after 1 .selftestDone f)

/-- `ECC_ERROR` (R224, R279, R361): an error is found in a unit; an uncorrected one poisons its 8 bytes where they stand: in the frame of the jet that
has the slices, in an L1 line, in the pool or a stash line, in a message of the weir, or at their home. It starts the unit's test, or in
host-assisted mode makes a journal record only (R367). Focus: tile or stop, kind (a unit of R360, 7 HBM, 8 an L2 slice, 10 a link that has failed),
index, 1 uncorrected, the word: of the slice file, or the address divided by 8, or for the weir basin + 64 · place in its slots + 2^15 · word. -/
def execEccError (s : State) : Out :=
  let f := s.focus
  let s1 :=
    if f.d = 1 then
      (let put (l : List Nat) (w : Nat) : List Nat := if l.contains w then l else l ++ [w]
      match f.b with
      | 0 => s.modTile f.a fun x => { x with jets := x.jets.map fun e => (e.1,
          if e.2.status != .free && decide (8 * e.2.granBase ≤ f.data) && decide (f.data < 8 * (e.2.granBase + e.2.grans))
          then { e.2 with poison := put e.2.poison (f.data - 8 * e.2.granBase) } else e.2) }
      | 1 => s.modTile f.a fun x => { x with l1 := x.l1.map fun l => if l.line = f.data / 16 then { l with bad := put l.bad (f.data % 16) } else l }
      | 2 =>
        -- in a stash way: the line of the word's set that comes in the place of the way among the stash ways (log 7)
        let w := f.data / 8192
        if (s.tile f.a).poolways.getLsbD w then s.modTile f.a fun x =>
          let set := x.stash.filter fun l => l.va % 512 == f.data % 8192 / 16
          match set[((List.range w).filter fun i => x.poolways.getLsbD i && !x.fenced.contains (2, i)).length]? with
          | some v => { x with stash := x.stash.map fun l => if l = v then { l with bad := put l.bad (f.data % 16) } else l }
          | none => x
        else s.modTile f.a fun x => { x with poison := put x.poison f.data }
      | 6 => s.modTile f.a fun x => x.modWeir fun w => w.modBasin (f.data % 64) fun k => { k with
          slots := k.slots.modify (f.data / 64 % 512) fun m => { m with bad := put m.bad (f.data / 32768) } }
      | 7 => s.modDev fun d => { d with poison := put d.poison f.data }
      | 8 => if (s.stop f.a).l2Lines.contains (f.data / 16) then s.modDev fun d => { d with poison := put d.poison f.data } else s
      | _ => s)
    else s
  let kind := if f.b = 10 then 5 else f.b
  let ix := if f.b = 10 then ((List.range 5).find? fun i => portDir i == f.c).getD f.c else f.c
  if 7 ≤ kind then .next s1
  else if s.dev.duty.getLsbD 3 then .next (s1.journal 5 0 f.a (BitVec.ofNat 32 (256 * kind + ix)) 0)
  else .next (s1.startTest { id := 0, tile := f.a, kind := kind, units := [ix], mbox := false, byError := true, slot := 0, owedId := none, result := 0 })

/-! ### Gating (R189, R359) -/

/-- Whether a tile gates now. What has woken it is matched first. -/
def State.gates (s : State) (t : Nat) : Bool :=
  let x := s.tile t
  x.refused && x.thirsty s.tc && x.weir.examine.isEmpty && x.weir.netIn.isEmpty && x.weir.localIn.isEmpty && (x.jets.all fun j => j.2.status == .free) && x.thirst.isNone && x.backoff.isNone &&
    (x.chans.all fun c => c.2.state == .idle || c.2.state == .done || c.2.state == .aborted) && x.copyQ.isEmpty && x.mx.localQ.isEmpty &&
    x.mx.run.isNone && x.mx.parked.isNone && !x.mx.testing && x.saves.all fun e => e.2.isNone

/-- `TILE_GATE` (R359). -/
def execTileGate (s : State) : Out :=
  .next (s.modTile s.focus.a fun x => { x with gated := true, gatedAt := s.dev.time, waking := 0, refused := false })

/-- A gated tile is awake again. -/
def Tile.woken (x : Tile) : Tile := { x with gated := false, waking := 0 }

/-- `TILE_WAKE` (R359): what its stop holds is matched from now on. -/
def execTileWake (s : State) : Out := .next (s.modTile s.focus.a Tile.woken)

/-- Whether a gated tile's wake interval is over (R189). -/
def State.wakeDue (s : State) (t : Nat) : Bool :=
  let x := s.tile t
  let w := fld x.stealctl.toNat 24 8
  x.gated && w != 0 && decide (x.gatedAt + 1000 * w ≤ s.dev.time)

/-- `STEAL_WAKE_EXPIRY` (R188, R189): the tile wakes and runs one thirst round. -/
def execStealWakeExpiry (s : State) : Out := .next (s.modTile s.focus.a Tile.woken)

end Sys2Proof.Machine
end

