-- ==== Sys2Proof/Machine/Host.lean ====
section
/-!
DEFINITION. The host interface agent and Skelon (chapter 17): the BAR windows and the agent registers (R362 to R364), the journal (R365),
the page-fault service (R368), device time (R369), bring-up, power and heat (R370 to R372). What the host or the package's surroundings
do comes as an event of the agenda, with what it carries in the focus.
-/

namespace Sys2Proof.Machine

/-! ### The windows (R362 to R364) -/

/-- The offset of the agent register space in BAR 2. -/
def regBase : Nat := 2 ^ 36 - 2 ^ 20

/-- What a refused access or a dropped register write leaves in the journal: the BAR and the offset in it (R365). -/
def State.refuseHost (s : State) (bar off : Nat) : State := s.journal 2 2 0xffff 0 (bar * 2 ^ 40 + off)

/-- The host receives `n` bytes that it has read: their number and their value. -/
def State.toHost (s : State) (n v : Nat) : State :=
  s.modDev fun d => { d with hostOut := d.hostOut ++ [(n, v % 2 ^ (8 * n))] }

/-- A 64 B write at BAR 0 (R363). Focus: offset, bytes; the value. Where the entry's basin is a launch queue the record is made when the queue
accepts the send, else now. -/
def execMessageWindowWrite (s : State) : Out :=
  let off := s.focus.a
  if s.focus.b != 64 || off % 64 != 0 || decide (2 ^ 18 ≤ off) then .next (s.refuseHost 0 off)
  else
    let j := off / 4096
    let e := (Tbl.get 0 s.dev.hbtab j).toNat
    let img := s.focus.data % 2 ^ 512
    let dg := shake256of64 img
    if fld e 50 1 = 0 ∨ fld e 48 2 = 3 then .next ((s.journal 0 2 j 0 dg).refuseHost 0 off)
    else
      let hd := BitVec.ofNat 32 (fld e 0 32)
      let queue := hDev hd == s.dev.device.toNat && s.live (hTile hd) hd && ((s.tile (hTile hd)).queueOf (hIndex hd)).isSome
      let size := 16 * 2 ^ fld e 48 2
      let m : SendMsg := { handle := hd, src := .host, seq := 0, base := 0, inst := BitVec.ofNat 16 (fld e 32 16), op := .data, size := size,
                           payload := img % 2 ^ (8 * size), rel := some .system, relAll := false, tt := none,
                           hostEntry := if queue then some (j, dg) else none }
      .next ((if queue then s else s.journal 0 0 j 0 dg).agentSend m)

/-- The agent register that holds the 8 bytes at an offset of the register space (R364); 0 where no register stands. -/
def Dev.regWord (d : Dev) (o : Nat) : Nat :=
  if o = 0x00 then d.ptroot.toNat
  else if o = 0x08 then d.winbase.toNat
  else if o = 0x10 then d.jbase.toNat
  else if o = 0x18 then d.jlog.toNat
  else if o = 0x20 then d.jhead.toNat
  else if o = 0x28 then d.jtail.toNat
  else if o = 0x30 then d.jlost.toNat
  else if o = 0x38 then d.duty.toNat
  else if 0x100 ≤ o ∧ o < 0x300 then (Tbl.get 0 d.hbtab ((o - 0x100) / 8)).toNat
  else if 0x1000 ≤ o ∧ o < 0x1080 then ((Tbl.get none d.lroute ((o - 0x1000) / 8)).getD 0).toNat
  else if 0x2000 ≤ o ∧ o < 0x2040 then fld d.mbox.toNat (8 * (o - 0x2000)) 64
  else if 0x10000 ≤ o ∧ o < 0x14000 then fld (Tbl.get 0 d.tlt ((o - 0x10000) / 64)).toNat (8 * (o % 64)) 64
  else 0

/-- `n` bytes of the register space. -/
def Dev.regBytes (d : Dev) (o : Nat) : Nat → Nat
  | 0 => 0
  | n + 1 => fld (d.regWord (o / 8 * 8)) (8 * (o % 8)) 8 + 256 * Dev.regBytes d (o + 1) n

/-- The rate, in ppm, and the nanoseconds by which device time is still to be moved: a forward step above 1 ms is applied at once, and anything
else is slewed at most 100 ppm (R369). -/
def Dev.adjust (d : Dev) (off : Int) (ppm : Nat) : Dev :=
  if 1000000 < off then { d with time := (d.time + off.toNat) % 2 ^ 64, slew := 0, slewLeft := 0 }
  else { d with slew := (min ppm 100 : Nat), slewLeft := off }

/-- The mailbox commands (R373), each an event of its own. -/
def mboxEvent (c : Nat) : Option Instr :=
  if c = 1 then some .mboxRelease
  else if c = 2 then some .mboxNetctl
  else if c = 3 then some .mboxCounter
  else if c = 4 then some .mboxOverflowCounts
  else if c = 5 then some .mboxFreeOverflow
  else if c = 6 then some .mboxSelftest
  else if c = 7 then some .mboxEvictSlot
  else if c = 8 then some .mboxQuote
  else if c = 9 then some .mboxFramePool
  else if c = 10 then some .mboxGrantRange
  else none

/-- The reply overwrites the request: a status, and results from byte 2 on; byte 63 reads 0 (R373). -/
def State.mboxReply (s : State) (status results : Nat) : State :=
  s.modDev fun d => { d with mbox := BitVec.ofNat 512 (status + results % 2 ^ 488 * 2 ^ 16), mboxBusy := false }

/-- A write of byte 63 starts the request, unless one runs (R373). -/
def State.mboxStart (s : State) : State :=
  let s1 := s.modDev fun d => { d with mboxBusy := true }
  match mboxEvent (fld s.dev.mbox.toNat 0 8) with
  | some e => s1.at_ s.nc e ⟨0, 0, 0, 0, 0⟩
  | none => s1.mboxReply 1 0

/-- Whether a write to the 8 bytes at an offset of the register space is dropped (R364): of a register that is set before the release only, of one that
the host can only read, or where no register stands (log 22). -/
def Dev.dropsWrite (d : Dev) (o : Nat) : Bool :=
  if o = 0x00 ∨ o = 0x10 ∨ o = 0x18 ∨ (0x1000 ≤ o ∧ o < 0x1080) then d.released
  else !(o == 0x08 || o == 0x28 || o == 0x38 || o == 0x40 || (decide (0x100 ≤ o) && decide (o < 0x300)) || (decide (0x2000 ≤ o) && decide (o < 0x2100)) ||
    (decide (0x10000 ≤ o) && decide (o < 0x14000)))

/-- A write of the bytes of an 8-byte word that `en` names (bit k: byte k) of the register space (R364, R365, R373). Low address bits that a register
does not hold are dropped (log 22). -/
def State.regWrite (s : State) (o en v : Nat) : State :=
  let old := s.dev.regWord o
  let w := (List.range 8).foldl (fun (n : Nat) k => n + (if en.testBit k then fld v (8 * k) 8 else fld old (8 * k) 8) * 2 ^ (8 * k)) 0
  if s.dev.dropsWrite o then s
  else if o = 0x00 then s.modDev fun d => { d with ptroot := BitVec.ofNat 64 (w / 4096 * 4096) }
  else if o = 0x08 then s.modDev fun d => { d with winbase := BitVec.ofNat 64 (w / 2 ^ 30 * 2 ^ 30) }
  else if o = 0x10 then s.modDev fun d => { d with jbase := BitVec.ofNat 64 (w / 4096 * 4096) }
  else if o = 0x18 then s.modDev fun d => { d with jlog := BitVec.ofNat 64 (min 25 (max 10 w)) }
  else if o = 0x28 then s.modDev fun d => { d with jtail := BitVec.ofNat 64 w }
  else if o = 0x38 then s.modDev fun d => { d with duty := BitVec.ofNat 64 w }
  else if o = 0x40 then
    s.modDev fun d =>
      let d1 : Dev := { d with timeadj := BitVec.ofNat 64 w }
      if d.duty.getLsbD 4 then d1.adjust (sext w 40) (fld w 48 8) else d1
  else if 0x100 ≤ o ∧ o < 0x300 then
    s.modDev fun d => { d with hbtab := Tbl.set d.hbtab ((o - 0x100) / 8) (BitVec.ofNat 64 (w % 2 ^ 51)) }
  else if 0x1000 ≤ o ∧ o < 0x1080 then
    s.modDev fun d => { d with lroute := Tbl.set d.lroute ((o - 0x1000) / 8) (some (BitVec.ofNat 64 (w % 8))) }
  else if 0x2000 ≤ o ∧ o < 0x2040 then
    let sh := 8 * (o - 0x2000)
    let last := o = 0x2038 ∧ en.testBit 7
    let w1 := if last ∧ s.dev.mboxBusy then w % 2 ^ 56 + fld old 56 8 * 2 ^ 56 else w
    let s1 := s.modDev fun d => { d with mbox := BitVec.ofNat 512 (d.mbox.toNat - fld d.mbox.toNat sh 64 * 2 ^ sh + w1 * 2 ^ sh) }
    if last ∧ !s.dev.mboxBusy then s1.mboxStart else s1
  else if 0x10000 ≤ o ∧ o < 0x14000 then
    let i := (o - 0x10000) / 64
    let sh := 8 * (o % 64)
    -- launches and skips are written by the device (R205)
    let keep := decide (sh = 192)
    s.modDev fun d =>
      let e := (Tbl.get 0 d.tlt i).toNat
      -- reserved bits read as zero
      let w1 := if sh = 128 then w - fld w 35 13 * 2 ^ 35 else w
      let e1 := BitVec.ofNat 512 (e - fld e sh 64 * 2 ^ sh + (if keep then fld e sh 64 else w1) * 2 ^ sh)
      let x := Tbl.get TtState.idle d.ttState i
      { d with
        tlt := Tbl.set d.tlt i e1
        ttState := if sh < 192 then Tbl.set d.ttState i { x with slot := ttFirst e1 d.time } else d.ttState }
  else s

/-- A write of `n` bytes of the register space, word by word; one that is dropped, or a word of it, leaves one record (R365). -/
def State.regWrites (s : State) (o n v : Nat) : State :=
  let ws := (List.range 9).map fun (k : Nat) => o / 8 + k
  let s1 := if ws.any fun w => decide (8 * w < o + n) && s.dev.dropsWrite (8 * w) then s.refuseHost 2 (regBase + o) else s
  ws.foldl (fun (s : State) w =>
    let en := (List.range 8).foldl (fun (m : Nat) k =>
      if o ≤ 8 * w + k ∧ 8 * w + k < o + n then m + 2 ^ k else m) 0
    let sh := 8 * w
    let d := if o ≤ sh then v / 2 ^ (8 * (sh - o)) else v * 2 ^ (8 * (o - sh))
    if en = 0 then s else s.regWrite sh en (d % 2 ^ 64)) s1

/-- Whether a physical address through the memory window is HBM of this device. -/
def State.windowPa (s : State) (pa : Nat) : Bool := paOk pa && !paIo pa && paDev pa == s.dev.device.toNat

/-- An access through BAR 2, performed at the home, or of the register space (R364); that of another device goes out over its Lauc port. Focus: offset, bytes, 1 for a write; the value. Host bus
addresses and other devices answer a read with a free value (log 8). -/
def execMemoryWindowAccess (s : State) : Out :=
  let off := s.focus.a
  let n := s.focus.b
  let wr := s.focus.c = 1
  if n = 0 ∨ 64 < off % 64 + n ∨ 2 ^ 36 < off + n then .next (if wr then s.refuseHost 2 off else (s.refuseHost 2 off).toHost n (2 ^ (8 * n) - 1))
  else if regBase ≤ off then
    .next (if wr then s.regWrites (off - regBase) n s.focus.data else s.toHost n (s.dev.regBytes (off - regBase) n))
  else
    let pa := s.dev.winbase.toNat + off
    if s.windowPa pa then
      .next (if wr then (s.unitWrite pa n (s.focus.data % 2 ^ (8 * n))).tellUnit 0 (unitId 0 0) pa n 0 0 else
        let r := (s.askUnit 0 (unitId 0 0) pa n 0).unitRead pa n
        r.2.toHost n r.1)
    else if !paOk pa then .next (if wr then s.refuseHost 2 off else (s.refuseHost 2 off).toHost n (2 ^ (8 * n) - 1))
    else if wr then .next (if paIo pa then s else s.tellUnit 0 (unitId 0 0) pa n (fullEn n) (s.focus.data % 2 ^ (8 * n)))
    else
      let (v, s1) := (if paIo pa then s else s.askUnit 0 (unitId 0 0) pa n 0).draw
      .next (s1.toHost n v)

/-- An access that no window accepts (R362). Focus: BAR, offset, 1 for a write, bytes. A read of BAR 0 and a write of BAR 4 leave no record. -/
def execRefusedHostAccess (s : State) : Out :=
  let f := s.focus
  let wr := f.c = 1
  let s1 := if (f.a = 0 ∧ ¬wr) ∨ (f.a = 4 ∧ wr) then s else s.refuseHost f.a f.b
  .next (if wr then s1 else s1.toHost f.d (2 ^ (8 * f.d) - 1))

/-- The byte `x` of the journal region (R362). -/
def State.journalByte (s : State) (x : Nat) : Nat :=
  if x < 32 * 2 ^ s.dev.jlog.toNat then (s.unitRead (s.dev.jbase.toNat + x) 1).1 else 255

def State.journalBytes (s : State) (x : Nat) : Nat → Nat
  | 0 => 0
  | n + 1 => s.journalByte x + 256 * State.journalBytes s (x + 1) n

/-- A read of BAR 4 (R362). Focus: offset, bytes. -/
def execJournalRegionRead (s : State) : Out := .next (s.toHost s.focus.b (s.journalBytes s.focus.a s.focus.b))

/-- A write of `jtail` (R364, R365). Focus: the value. -/
def execJtailWrite (s : State) : Out := .next (s.regWrite 0x28 255 s.focus.data)

/-- A write of `timeadj` (R364, R369), which acts while time discipline is host-assisted (R367). Focus: the value. -/
def execTimeadjWrite (s : State) : Out := .next (s.regWrite 0x40 255 s.focus.data)

/-- A write of any other agent register (R364, R373). Focus: offset in the register space, bytes; the value. -/
def execHostRegisterWrite (s : State) : Out := .next (s.regWrites s.focus.a s.focus.b s.focus.data)

/-! ### The journal (R365) -/

/-- The 32 bytes of a record. -/
def JRec.image (r : JRec) (seq : Nat) : Nat :=
  r.outcome.toNat * 2 ^ 8 + r.kind.toNat * 2 ^ 12 + r.source.toNat * 2 ^ 16 + r.lseq.toNat * 2 ^ 32 + r.digest.toNat * 2 ^ 64 +
    r.time.toNat * 2 ^ 128 + seq * 2 ^ 192

/-- Whether the next record can be written: after the release, and with room in the ring or in hardware mode (R365, R367). -/
def State.canJournal (s : State) : Bool := s.dev.released && !s.dev.jwait.isEmpty && (!s.dev.jfull || !s.dev.duty.getLsbD 5)

/-- `JOURNAL_WRITE` (R365): the oldest waiting record is written whole, then `jhead` advances; a full ring loses its oldest record. -/
def execJournalWrite (s : State) : Out :=
  match s.dev.jwait with
  | [] => .next s
  | r :: l =>
    let d0 := s.dev
    let drop := d0.jfull
    let at_ := d0.jbase.toNat + 32 * (d0.jhead.toNat % 2 ^ d0.jlog.toNat)
    let s1 := (s.unitWrite at_ 32 (r.image d0.jhead.toNat)).tellUnit 0 (unitId 0 0) at_ 32 0 0
    .next (s1.modDev fun d => { d with
      jwait := l
      jhead := d.jhead + 1
      jtail := if drop then d.jtail + 1 else d.jtail
      jlost := if drop then d.lose else d.jlost })

/-! ### The page-fault service (R368) -/

/-- Bytes of the frame pool for a piece of `n` bytes, aligned to its size. -/
def Dev.takeFrame (d : Dev) (n : Nat) : Option (Nat × Dev) :=
  let at_ := ceilDiv d.frameUsed n * n
  if at_ + n ≤ d.framePool.2 then some (d.framePool.1 + at_, { d with frameUsed := at_ + n }) else none

def State.takeZero (s : State) (n : Nat) : Option (Nat × State) :=
  match s.dev.takeFrame n with
  | none => none
  | some (a, d) => some (a, ({ s with dev := d }).unitWrite a n 0)

/-- Maps the 64 KiB page at `va`: missing nodes and the frame come from the frame pool, zero-filled; a page that is mapped stays. Without
enough of the pool nothing is mapped. -/
def State.mapFrom (s : State) (va leaf : Nat) : List (Nat × Nat × Bool) → Nat → Option State
  | [], _ => none
  | (sh, bits, leafOk) :: r, node =>
    let a := node + 8 * fld va sh bits
    let e := (s.unitRead a 8).1
    if fld e 0 1 = 1 ∧ leafOk ∧ fld e 1 1 = 1 then some s
    else if r.isEmpty then
      (s.takeZero 65536).map fun p => p.2.unitWrite a 8 (p.1 + leaf)
    else if fld e 0 1 = 1 ∧ fld e 1 1 = 0 then State.mapFrom s va leaf r (fld e 8 40 * 256)
    else
      (s.takeZero (if r.length = 1 then 256 else 4096)).bind fun p =>
        State.mapFrom (p.2.unitWrite a 8 (p.1 + 1)) va leaf r p.1

/-- The granted range that holds an address: its kind and permissions. -/
def Dev.rangeOf (d : Dev) (va : Nat) : Option (Nat × Nat) :=
  d.ranges.findSome? fun e => e.2.bind fun g => if g.1 ≤ va ∧ va < g.1 + g.2.1 then some (g.2.2.1, g.2.2.2) else none

/-- Serving a fault record in hardware mode: the status of its reply (R368). -/
def State.servePage (s : State) (va cause : Nat) : Nat × State :=
  if cause != 5 then (3, s)
  else
    match s.dev.rangeOf va with
    | none => (2, s)
    | some (kind, perm) =>
      match s.mapFrom va (kind * 2 ^ 56 + perm * 4 + 3) ptLevels s.dev.ptroot.toNat with
      | none => (1, s)
      | some s1 => (0, s1)

/-- `PAGE_FAULT_FORWARD` (R368): a forwarded record is served, or journaled where the service is host-assisted (R367). -/
def execPageFaultForward (s : State) : Out :=
  match s.dev.pfIn with
  | [] => .next s
  | m :: r =>
    let s0 := s.modDev fun d => { d with pfIn := r }
    let rec_ := m.payload
    let va := fld rec_ 448 64
    let hd := BitVec.ofNat 32 (fld rec_ 160 32)
    if s.dev.duty.getLsbD 0 then .next (s0.journal 7 0 (fld rec_ 118 10) hd va)
    else
      let p := s0.servePage va (fld rec_ 80 8)
      let (d, s1) := p.2.drawDelay
      .next ((s1.modDev fun x => { x with pfOut := x.pfOut ++ [⟨hd, BitVec.ofNat 64 va, p.1, m.inst⟩] }).after (1 + d) .pageFaultReply ⟨0, 0, 0, 0, 0⟩)

/-- `PAGE_FAULT_REPLY` (R368): a 16 B send to the reply basin, after the new leaf is performed. -/
def execPageFaultReply (s : State) : Out :=
  match s.dev.pfOut with
  | [] => .next s
  | p :: r =>
    .next ((s.modDev fun d => { d with pfOut := r }).agentSend
      { handle := p.handle, src := .host, seq := 0, base := 0, inst := p.inst, op := .data, size := 16,
        payload := p.addr.toNat + p.status * 2 ^ 64, rel := none, relAll := false, tt := none, hostEntry := none })

/-! ### Overflow pool entries (R165, R367) -/

/-- `OVERFLOW_ENTRY_FREE`: Skelon frees an entry 1 ms after journaling it, while the duty is in hardware mode. Focus: die, entry. -/
def execOverflowEntryFree (s : State) : Out :=
  if s.dev.duty.getLsbD 1 then .next s
  else .next (s.modDie s.focus.a fun d => { d with overflowPool := Tbl.set d.overflowPool s.focus.b none })

/-! ### Device time (R369) -/

/-- `PTP_LOCK_STEP`: in hardware time discipline, when the management port's clock first locks, device time steps to IEEE 1588 time. Focus:
that time. -/
def execPtpLockStep (s : State) : Out :=
  if s.dev.duty.getLsbD 4 || s.dev.ptpLocked then .next s
  else .next (s.modDev fun d => ({ d with ptpLocked := true } : Dev).adjust ((s.focus.data : Int) - (d.time : Int)) 100)

/-- `PTP_TIME_ADJUSTMENT`: a later correction, slewed or stepped. Focus: the signed offset in 64 bits. -/
def execPtpTimeAdjustment (s : State) : Out :=
  if s.dev.duty.getLsbD 4 then .next s
  else .next (s.modDev fun d => d.adjust (sext s.focus.data 64) 100)

/-- Device time after `ns` nanoseconds of its counter: the slew adds or takes 1 ns in each interval of its rate that the counter has passed; `slewPhase` is
how far it is in the interval (R369). -/
def Dev.tick (d : Dev) (ns : Nat) : Dev :=
  if d.slewLeft = 0 ∨ d.slew ≤ 0 then { d with time := (d.time + ns) % 2 ^ 64, slewPhase := 0 }
  else
    let p := 1000000 / d.slew.toNat
    let n := min ((d.slewPhase + ns) / p) (min ns d.slewLeft.natAbs)
    { d with
      slewPhase := (d.slewPhase + ns) % p
      time := (if 0 ≤ d.slewLeft then d.time + ns + n else d.time + ns - n) % 2 ^ 64
      slewLeft := if 0 ≤ d.slewLeft then d.slewLeft - n else d.slewLeft + n }

/-! ### Bring-up, power and heat (R370 to R372) -/

/-- Every tile stands in reset, its fenced units kept. -/
def State.holdTiles (s : State) : State :=
  (List.range Config.tiles).foldl (fun (s : State) t => s.modTile t fun x =>
    { Tile.reset with inReset := true, fenced := x.fenced, mxFenced := x.mxFenced, mxDead := x.mxDead }) s

/-- Skelon's test of every unit at power-on: a unit that fails is fenced; the outcomes are free (log 8). -/
def State.testUnits (s : State) : State :=
  (List.range Config.tiles).foldl (fun (s : State) t =>
    (List.range 7).foldl (fun (s : State) k =>
      (List.range (unitCount k)).foldl (fun (s : State) u =>
        let (v, s1) := s.draw
        s1.setFence t k u (v % 2 == 1)) s) s) s

/-- What comes from outside the device: the host, the package's surroundings, the peers, and errors. -/
def fromOutside (i : Instr) : Bool :=
  match i with
  | .messageWindowWrite | .memoryWindowAccess | .refusedHostAccess | .journalRegionRead | .jtailWrite | .timeadjWrite | .hostRegisterWrite | .ptpLockStep
  | .ptpTimeAdjustment | .powerOn | .powerLoss | .thermalTrip | .thermalThrottle | .temperatureFall | .eccError | .linkRetry | .laucCredit => true
  | _ => false

/-- The device with no power: what stays is non-volatile, the leaf counter and the stored image's digest (R370, R371). What is to come from outside still
comes, and the model's cycles go on being counted. -/
def State.dark (s : State) : State :=
  { State.reset with
    nc := s.nc, fresh := s.fresh, agenda := s.agenda.filter fun e => fromOutside e.2.2
    dev := { Dev.reset with powered := false, released := false, leaf := s.dev.leaf, firmware := s.dev.firmware } }

/-- Coming up (R371 steps 1 to 3): the units are tested, the device has its number, device time and `jhead` are 0, and the tiles wait in reset.
The memory is what `m` holds, and `l` are the journal records that still wait. -/
def State.bringUp (s : State) (dev firmware : Nat) (m : Memory) (l : List JRec) : State :=
  let s1 : State := { s.dark with
    mem := m
    dev := { Dev.reset with released := false, device := BitVec.ofNat 4 dev, leaf := s.dev.leaf, firmware := firmware, jwait := l } }
  s1.testUnits.holdTiles

/-- `POWER_ON` (R370, R371): the boot ROM accepts Skelon's image only where its signature verifies; the device stays dark with any other. Focus: the
device number Skelon sets, 0 where the signature verifies under the vendor key; the image's digest. -/
def execPowerOn (s : State) : Out :=
  if s.dev.powered || s.focus.b != 0 then .next s else .next (s.bringUp s.focus.a s.focus.data [] [])

/-- `POWER_LOSS` (R370, R371): everything but the leaf counter is lost. -/
def execPowerLoss (s : State) : Out := .next s.dark

/-- `THERMAL_THROTTLE` (R372): at 105 °C matrix steps are withheld. -/
def execThermalThrottle (s : State) : Out := .next (s.modDev fun d => { d with throttled := true })

/-- `TEMPERATURE_FALL` (R372): they go on. -/
def execTemperatureFall (s : State) : Out := .next (s.modDev fun d => { d with throttled := false })

/-- `THERMAL_TRIP` (R372): at 115 °C the package resets; the journal keeps its last record: HBM keeps its bytes, and the records that wait stay in the
agent's buffer, to be written after the next release (log 22). -/
def execThermalTrip (s : State) : Out := .next (s.bringUp s.dev.device.toNat s.dev.firmware s.mem s.dev.jwait)

end Sys2Proof.Machine
end

