-- ==== Sys2Proof/Machine/Mailbox.lean ====
section
/-!
DEFINITION. The commands of the Skelon mailbox (R373). A request that has an argument out of range or a nonzero byte that its command does not
name is answered with status 1 before any other status.
-/

namespace Sys2Proof.Machine

/-- Byte `i` of a request, and the field of `n` bytes at byte `i`. -/
def mbByte (m i : Nat) : Nat := fld m (8 * i) 8
def mbField (m i n : Nat) : Nat := fld m (8 * i) (8 * n)

/-- Whether bytes 1 to 62 are zero outside the ranges (first, bytes) that a command names. -/
def mbZero (m : Nat) (named : List (Nat × Nat)) : Bool :=
  (List.range 62).all fun (k : Nat) => named.any (fun r => decide (r.1 ≤ k + 1) && decide (k + 1 < r.1 + r.2)) || mbByte m (k + 1) == 0

def State.mb (s : State) : Nat := s.dev.mbox.toNat

/-- Command 1 (R371, R373): the tiles leave reset with their reset values. -/
def execMboxRelease (s : State) : Out :=
  if !mbZero s.mb [] then .next (s.mboxReply 1 0)
  else if s.dev.released then .next (s.mboxReply 4 0)
  else
    let s1 := (List.range Config.tiles).foldl (fun (s : State) t => s.modTile t fun x =>
      { Tile.reset with fenced := x.fenced, mxFenced := x.mxFenced, mxDead := x.mxDead }) s
    .next ((s1.modDev fun d => { d with released := true }).mboxReply 0 0)

/-- Command 2 (R298): netctl of a die. -/
def execMboxNetctl (s : State) : Out :=
  let m := s.mb
  let d := mbByte m 1
  if !mbZero m [(1, 2), (8, 8)] || decide (4 ≤ d) || decide (2 ≤ mbByte m 2) then .next (s.mboxReply 1 0)
  else
    let s1 := if mbByte m 2 = 1 then s.writeNetctl d (mbField m 8 8) else s
    .next (s1.mboxReply 0 ((s1.die d).netctl.toNat * 2 ^ 48))

/-- Free granules of a tile (R64). -/
def Tile.freeGrans (x : Tile) (tc : Nat) : Nat :=
  ((List.range 1024).filter fun (g : Nat) => (x.usedRuns tc).all fun u => decide (g < u.1) || decide (u.1 + u.2 ≤ g)).length
/-- The ready records that no free run fits (R63, R64, R373): the reserver takes from all free granules, the others from those not reserved (R87). -/
def Tile.waiting (x : Tile) (tc : Nat) : Nat :=
  (x.ready.filter fun q => (if some q.id = x.reserver then freeRun (x.usedRuns tc) q.grans else x.fits tc q.grans).isNone).length

/-- The value of a counter (R300): a router's, or a die's. -/
def State.counterValue (s : State) (cls place ix : Nat) : Nat :=
  match cls with
  | 0 => Tbl.get 0 (s.stop place).counters ix
  | 1 => if ix = 2 then (s.die place).drainRing.length else Tbl.get 0 (s.die place).dieCounters ix
  | 2 => (s.tile place).freeGrans s.tc
  | _ => (s.tile place).waiting s.tc

/-- Command 3 (R64, R300): a counter, read and, for a counter that counts, cleared. -/
def execMboxCounter (s : State) : Out :=
  let m := s.mb
  let cls := mbByte m 2
  let clear := mbByte m 1
  let place := if cls = 1 then mbByte m 4 else mbField m 4 2
  let ix := mbByte m 6
  let named := if cls = 1 then [(1, 2), (4, 1), (6, 1)] else if cls = 0 then [(1, 2), (4, 3)] else [(1, 2), (4, 2)]
  let bad := decide (4 ≤ cls) || decide (2 ≤ clear) || decide ((if cls = 1 then 4 else 1024) ≤ place) ||
    (cls == 0 && decide (13 ≤ ix)) || (cls == 1 && decide (5 ≤ ix)) || !mbZero m named
  if bad then .next (s.mboxReply 1 0)
  else
    let v := s.counterValue cls place ix
    let s1 :=
      if clear = 0 then s
      else if cls = 0 then s.modStop place fun x => { x with counters := Tbl.set x.counters ix 0 }
      else if cls = 1 then s.modDie place fun x => { x with dieCounters := Tbl.set x.dieCounters ix 0 }
      else s
    .next (s1.mboxReply 0 (v * 2 ^ 48))

/-- Command 4 (R165, R181). -/
def execMboxOverflowCounts (s : State) : Out :=
  let m := s.mb
  let d := mbByte m 1
  let t := mbField m 4 2
  if !mbZero m [(1, 1), (4, 2)] || decide (4 ≤ d) || dieOf t != d then .next (s.mboxReply 1 0)
  else
    .next (s.mboxReply 0 ((s.die d).overflowed % 2 ^ 64 * 2 ^ 48 + (s.die d).lost % 2 ^ 64 * 2 ^ 112 + (s.tile t).freeSlots * 2 ^ 176))

/-- Command 5 (R367): entries of a die's overflow pool are freed. -/
def execMboxFreeOverflow (s : State) : Out :=
  let m := s.mb
  let d := mbByte m 1
  let a := mbField m 4 2
  let n := mbField m 6 2
  if !mbZero m [(1, 1), (4, 4)] || decide (4 ≤ d) || decide (4096 < a + n) then .next (s.mboxReply 1 0)
  else if !s.dev.duty.getLsbD 1 then .next (s.mboxReply 2 0)
  else
    .next ((s.modDie d fun x => { x with
      overflowPool := (List.range n).foldl (fun (l : Tbl (Option (BitVec 512))) i => Tbl.set l (a + i) none) x.overflowPool }).mboxReply 0 0)

/-- Command 6 (R360): a self-test; the reply comes when it ends. -/
def execMboxSelftest (s : State) : Out :=
  let m := s.mb
  let t := mbField m 4 2
  let k := mbByte m 6
  let ix := mbByte m 7
  if !mbZero m [(4, 4)] || decide (1024 ≤ t) || decide (7 ≤ k) then .next (s.mboxReply 1 0)
  else if ix != 255 && decide (unitCount k ≤ ix) then .next (s.mboxReply 0 (2 * 2 ^ 48))
  else
    .next (s.startTest { id := 0, tile := t, kind := k, units := if ix = 255 then List.range (unitCount k) else [ix], mbox := true,
                         byError := false, slot := 0, owedId := none, result := 0 })

/-- Command 7 (R340, R367): the slot that a waiting placement of a chain evicts. -/
def execMboxEvictSlot (s : State) : Out :=
  let m := s.mb
  let d := mbByte m 1
  let c := mbByte m 2
  let p := mbByte m 3
  if !mbZero m [(1, 3)] || decide (4 ≤ d) || decide (2 ≤ c) || decide (16 ≤ p) then .next (s.mboxReply 1 0)
  else if !s.dev.duty.getLsbD 2 then .next (s.mboxReply 2 0)
  else if !(s.chain (2 * d + c)).waitEvict then .next (s.mboxReply 1 0)
  else .next ((s.modChain (2 * d + c) fun x => { x with evict := some p }).mboxReply 0 0)

/-- Command 8 (R370): the incremented leaf counter is committed first (focus b 0); later the quote is written and the reply made, so that a loss of power
between the two wastes a leaf. The quote's bytes and length are free, by what it signs: the nonce, the digest of the running firmware, `ptroot` and `duty`, under its
leaf (log 8). Focus: 0, phase, buffer, leaf; the nonce. -/
def execMboxQuote (s : State) : Out :=
  let m := s.mb
  let a := mbField m 40 8
  if s.focus.b = 1 then
    let q := Config.freeQuote s.focus.d s.focus.data s.dev.firmware s.dev.ptroot.toNat s.dev.duty.toNat
    let len := q.1 % 4097
    .next ((s.unitWrite s.focus.c len q.2).mboxReply 0 (len * 2 ^ 48))
  else if !mbZero m [(8, 40)] || !s.windowPa a || !s.windowPa (a + 4095) || decide (2 ^ 48 ≤ a) then .next (s.mboxReply 1 0)
  else if 2 ^ 20 ≤ s.dev.leaf then .next (s.mboxReply 3 0)
  else
    let (d, s1) := (s.modDev fun d => { d with leaf := d.leaf + 1 }).drawDelay
    .next (s1.after (1 + d) .mboxQuote ⟨0, 1, a, s.dev.leaf, mbField m 8 32⟩)

/-- Whether a physical range is whole HBM of this device. -/
def State.hbmRange (s : State) (a n : Nat) : Bool :=
  n == 0 || (s.windowPa a && decide (a + n ≤ 2 ^ 48) && s.windowPa (a + n - 1) && a / 2 ^ 40 == (a + n - 1) / 2 ^ 40)

/-- Command 9 (R368): the frame pool. -/
def execMboxFramePool (s : State) : Out :=
  let m := s.mb
  let a := mbField m 8 8
  let n := mbField m 16 8
  if !mbZero m [(8, 16)] || a % 65536 != 0 || n % 65536 != 0 || !s.hbmRange a n then .next (s.mboxReply 1 0)
  else .next ((s.modDev fun d => { d with framePool := (a, n), frameUsed := 0 }).mboxReply 0 0)

/-- Command 10 (R368): a range for the page-fault service. -/
def execMboxGrantRange (s : State) : Out :=
  let m := s.mb
  let a := mbField m 8 8
  let n := mbField m 16 8
  let k := mbByte m 26
  if !mbZero m [(8, 19)] || a % 65536 != 0 || n % 65536 != 0 || decide (4 ≤ mbByte m 24) || decide (8 ≤ mbByte m 25) || decide (16 ≤ k) then
    .next (s.mboxReply 1 0)
  else
    .next ((s.modDev fun d => { d with
      ranges := Tbl.set d.ranges k (if n = 0 then none else some (a, n, mbByte m 24, mbByte m 25)) }).mboxReply 0 0)

end Sys2Proof.Machine
end

