-- ==== Sys2Proof/Machine/Mcast.lean ====
section
/-!
DEFINITION. Multicast: joins and leaves, subscriptions, streams, their replication in the routers and their landing at the tile's network
interface (R255 to R259, R292 to R294, R380, R381).
-/

namespace Sys2Proof.Machine

/-! ### The lines of a stream -/

/-- What a line of a stream is: none in a pool window, else its kind, whether it is hardware coherent, and its physical address; or the
cause of its translation. -/
def State.streamLine (s : State) (t va : Nat) : Except Nat (Option (PageKind × Bool × Nat)) :=
  match poolOf s.dev.device.toNat t va with
  | some _ => .ok none
  | none =>
    match (s.xlate t va).1 with
    | .error c => .error c
    | .ok e =>
      let pa := e.pbase + (va - e.vbase)
      if !e.allows .read then .error 6 else if !paOk pa then .error 8 else .ok (some (e.kind, e.hc, pa))

/-- The lines of a stream of `n` lines from `src`, or the first cause. -/
def State.streamLines (s : State) (t src n : Nat) : Except Nat (List (Option (PageKind × Bool × Nat))) :=
  (List.range n).foldr (fun k acc =>
    match s.streamLine t ((src + 128 * k) % 2 ^ 64), acc with
    | .error c, _ => .error c
    | .ok x, .ok l => .ok (x :: l)
    | .ok _, .error c => .error c) (.ok [])

/-- The home of a physical address with its device. -/
def homeKey (pa : Nat) : Nat × Nat := (paDev pa, homeOf pa)

def oneHome (l : List (PageKind × Bool × Nat)) : Bool :=
  match l with
  | [] => true
  | e :: _ => l.all fun f => homeKey f.2.2 == homeKey e.2.2

/-- The selected lines of a mask: 0 selects every line (R258). -/
def selected (mask : BitVec 64) (n : Nat) : List Nat := (List.range n).filter fun k => mask == 0 || mask.getLsbD k

/-! ### sub and unsub (R256, R257) -/

def Tile.subOf (x : Tile) (tag : Nat) : Option Subscr := x.subs.find? fun b => b.tag == tag && !b.gone
def Tile.modSub (x : Tile) (tag : Nat) (f : Subscr → Subscr) : Tile :=
  { x with subs := x.subs.map fun b => if b.tag = tag ∧ !b.gone then f b else b }

/-- Whether a subscription's channel still lands for it (R257). -/
def Tile.subLands (x : Tile) (b : Subscr) : Bool :=
  let c := x.chan b.chan
  c.state == .landing && c.use == .mcast && c.accepted == b.accepted

/-- A join or a leave sets out from its tile's own router, `d` network cycles from now. -/
def State.sendJoin (s : State) (t tag home : Nat) (leave : Bool) (upTo d : Nat) : State :=
  s.inject t t .ni 1 d (.mcJoin t tag home leave upTo)

/-- No router refused: a leave goes the whole way. -/
def wholeWay : Nat := 4096

/-- The status that `sub` finds at its tile, in the order 3, 4, 5, 1, or 0. -/
def State.subStatus (s : State) (t rec tag ch : Nat) (l : List (Option (PageKind × Bool × Nat))) : Nat :=
  let x := s.tile t
  let dst := fld rec 96 20
  let n := 128 * (fld rec 116 6 + 1)
  let got := l.filterMap id
  if fld rec 122 6 != 0 || fld rec 0 7 != 0 || dst % 128 != 0 || l.any (·.isNone) || got.any (fun e => e.1 == .io) || !oneHome got ||
      got.any (fun e => dieOf (homeOf e.2.2) != dieOf t || paDev e.2.2 != s.dev.device.toNat) ||
      !x.scratch dst n || x.wayGoing dst n then 3
  else if !(x.chan ch).free then 4
  else if (x.subOf tag).isSome then 5
  else if 16 ≤ (x.subs.filter fun b => !b.gone).length then 1
  else 0

/-- `sub` (R257): a translation fault traps; the checks at the tile; then a match entry, a landing channel and a join. -/
def execSub (h : Hdr) (o : R2) (tag : BitVec 12) (ch : BitVec 3) (s : State) : Out :=
  s.guarded (footRun o.d o.a 32 []) fun s =>
    let t := s.curTile
    let r := SliceOp.getRun o.a s.cur.frame 32
    let src := fld r 0 64
    let n := fld r 116 6 + 1
    match s.streamLines t src n with
    | .error c => s.trap (dataFault c src (128 * n))
    | .ok l =>
      let cost := s.xlateCost t src (128 * n)
      let s1 := s.cacheFor t src (128 * n)
      let st := s.subStatus t r tag.toNat ch.toNat l
      if st != 0 then (s1.oweStatus (cost + 2) o.d st).advance h 12
      else
        let pas := l.filterMap fun e => e.map (·.2.2)
        let home := homeOf (pas.headD 0)
        let dst := fld r 96 20
        let p := s1.oweLater o.d
        let (id, s2) := (p.2.dropGuard t ch.toNat).take
        let b : Subscr :=
          { tag := tag.toNat, chan := ch.toNat, lines := n, dst := dst, src := src, home := home, pas := pas, slot := s.curSlot, owedId := p.1, accepted := id, acked := false
            gone := false, started := false, mask := 0, lastIx := 0, lastPkt := 0, over_ := false, got := [], wanted := [], asked := [], next := 0 }
        let c : Channel := { Channel.idle with state := .landing, use := .mcast, done := BitVec.ofNat 32 (fld r 64 32), inst := s.cur.inst, dst := dst,
                                               accepted := id, from_ := s.tc }
        let s3 := s2.modTile t fun x => { (x.modChan ch.toNat fun old => { c with status := old.status }) with subs := x.subs ++ [b] }
        (((s3.openWindow t ch.toNat dst (128 * n)).sendJoin t tag.toNat home false wholeWay (4 + 2 * cost))).advance h 12

/-- `unsub` (R257): the tag leaves the match table and a leave goes out, behind a join that is still on its way. -/
def execUnsub (h : Hdr) (d : SliceOp) (tag : BitVec 12) (s : State) : Out :=
  s.guarded { dst := d.range } fun s =>
    let t := s.curTile
    match s.here.subOf tag.toNat with
    | none => (s.oweStatus 2 d 1).advance h 12
    | some b =>
      let s1 := if b.acked then (s.modHere fun x => { x with subs := x.subs.filter (· != b) }).sendJoin t b.tag b.home true wholeWay 0
        else s.modHere fun x => x.modSub b.tag fun b => { b with gone := true }
      let s2 := if s1.here.subLands b then s1.retireChan t b.chan 1 else s1
      (s2.oweStatus 2 d 0).advance h 12

/-! ### Joins in the routers (R255, R292, R293) -/

def Stop.mcFind (x : Stop) (home tag : Nat) : Option McEntry := x.mc.find? fun e => e.home == home && e.tag == tag

/-- A join counts at the port it came from; none where the table of 64 has no room. -/
def Stop.mcAdd (x : Stop) (home tag port : Nat) : Option Stop :=
  match x.mcFind home tag with
  | some e => some { x with mc := x.mc.map fun f => if f = e then { f with counts := Tbl.set f.counts port (Tbl.get 0 f.counts port + 1) } else f }
  | none => if x.mc.length < 64 then some { x with mc := x.mc ++ [⟨home, tag, [(port, 1)]⟩] } else none

/-- A leave counts down; an entry whose counts are all 0 is freed. -/
def Stop.mcSub (x : Stop) (home tag port : Nat) : Stop :=
  let isIt (f : McEntry) : Bool := f.home == home && f.tag == tag
  let l := x.mc.map fun f => if isIt f then { f with counts := Tbl.set f.counts port (Tbl.get 0 f.counts port - 1) } else f
  { x with mc := l.filter fun f => !(isIt f && f.counts.all fun c => c.2 == 0) }

/-- `MC_JOIN_ARRIVAL` (R255, R292, R293): a join or a leave arrives at a router, changes its counts and goes on toward the home, whose router
acknowledges it. A join that finds no entry is refused back, and the leave that undoes it ends where it was refused. -/
def execMcJoinArrival (s : State) : Out :=
  let q := s.focus.a
  match (s.stop q).joinIn with
  | [] => .next s
  | (port, k) :: r =>
    let s1 := s.modStop q fun x => { x with joinIn := r }
    match k.body with
    | .mcJoin t tag home leave upTo =>
      let onward (s : State) : State :=
        if q = home then s.inject q t .ni 1 0 (.mcJoinAck tag (if leave then 7 else 0) q)
        else s.inject q (acrossPort q (orderNext q home)).1 .ni 1 0 k.body
      if leave then
        if q = upTo then .next s1 else .next (onward (s1.modStop q fun x => x.mcSub home tag port))
      else
        match (s1.stop q).mcAdd home tag port with
        | some x => .next (onward (s1.modStop q fun _ => x))
        | none => .next ((s1.modDie (dieOf q) fun d => d.count 3 1).inject q t .ni 1 0 (.mcJoinAck tag 2 q))
    | _ => .next s1

/-- `MC_JOIN_ACK` (R257): the answer to a join settles its `sub`; a refused join is undone, and its channel returns to idle. -/
def execMcJoinAck (s : State) : Out :=
  let f := s.focus
  let t := f.a
  if f.c = 7 then .next s
  else
    match (s.tile t).subs.find? fun b => b.tag == f.b && !b.acked with
    | none => .next s
    | some b =>
      let s1 := s.settle t b.slot b.owedId 0 f.c
      let drop (s : State) : State := s.modTile t fun x => { x with subs := x.subs.filter (· != b) }
      if f.c = 0 then
        .next (if b.gone then (drop s1).sendJoin t b.tag b.home true wholeWay 0
          else s1.modTile t fun x => { x with subs := x.subs.map fun c => if c = b then { c with acked := true } else c })
      else
        let s2 := (drop s1).sendJoin t b.tag b.home true f.d 0
        .next (if (s2.tile t).subLands b then
            (s2.setChan t b.chan .idle).modTile t fun x => x.modChan b.chan fun c => { c with wm := 0, guarded := false }
          else s2)

/-! ### Streams (R258, R380) -/

/-- The refusal of `mcrd` at its tile, in the order of R258, or 0. -/
def mcrdStatus (a : Nat) (l : List (Option (PageKind × Bool × Nat))) : Nat :=
  let got := l.filterMap id
  if a % 128 != 0 || l.any (·.isNone) then 1
  else if got.any fun e => e.1 == .strict || e.1 == .io || e.2.1 then 2
  else if !oneHome got then 1 else 0

/-- `mcrd` (R258): its lines are translated and checked, and a request goes to their home once the jet's earlier accesses are performed. -/
def execMcrd (h : Hdr) (o : R3) (tag : BitVec 12) (lines : BitVec 6) (s : State) : Out :=
  s.guarded (footRun o.d o.a 0 o.b.range) fun s =>
    let t := s.curTile
    let a := o.a.get s.cur.frame
    let n := lines.toNat + 1
    match s.streamLines t a n with
    | .error c => s.trap (dataFault c a (128 * n))
    | .ok l =>
      let cost := s.xlateCost t a (128 * n)
      let s1 := s.cacheFor t a (128 * n)
      let st := mcrdStatus a l
      if st != 0 then (s1.oweStatus (cost + 2) o.d st).advance h 16
      else
        let p := s1.oweLater o.d
        let w : McWait := { jet := s.cur.key, upTo := s.nextId, tag := tag.toNat, src := a, mask := BitVec.ofNat 64 (o.b.get s.cur.frame), slot := s.curSlot,
                            owedId := p.1, pas := l.filterMap (fun e => e.map (·.2.2)), from_ := s.tc + cost }
        (p.2.modHere fun x => { x with mcWait := x.mcWait ++ [w] }).advance h 16

/-- A request that may leave its tile: its jet's covered accesses are performed and the tile's own writes to the lines acknowledged (R216, R271). -/
def Tile.mcReady (x : Tile) (tc : Nat) : Option McWait :=
  x.mcWait.find? fun w => decide (w.from_ ≤ tc) && x.storesReady w.jet w.upTo &&
    w.pas.all fun a => !x.wcLine (a / 128) && !x.unackedLine (a / 128)

/-- Whether a request at its home can be taken: it merges, or the stream table of 8 has room. -/
def Stop.streamReady (x : Stop) : Bool :=
  match x.streamWait with
  | k :: _ =>
    match k.body with
    | .mcRequest _ tag src mask _ _ pas => decide (x.streams.length < 8) || x.streams.any fun e => e.tag == tag && e.src == src && e.mask == mask && e.pas == pas
    | _ => true
  | [] => false

/-- `MC_STREAM_REQUEST` (R258): a request leaves its tile (focus 1), or its home takes it: it merges with an identical stream, or starts one whose
first line leaves 28 tc later. -/
def execMcStreamRequest (s : State) : Out :=
  let q := s.focus.a
  if s.focus.b = 1 then
    match (s.tile q).mcReady s.tc with
    | none => .next s
    | some w =>
      let pa := w.pas.headD 0
      .next ((s.modTile q fun x => { x with mcWait := x.mcWait.erase w }).injectTo (paDev pa) q (homeOf pa) .l2 1 0
        (.mcRequest q w.tag w.src w.mask w.slot w.owedId w.pas))
  else
    match (s.stop q).streamWait with
    | [] => .next s
    | k :: r =>
      let s1 := s.modStop q fun x => { x with streamWait := r }
      match k.body with
      | .mcRequest t tag src mask slot id pas =>
        let merged := (s.stop q).streams.any fun e => e.tag == tag && e.src == src && e.mask == mask && e.pas == pas
        -- a mask that names no line of the stream selects none: nothing is sent
        let s2 := if merged || (selected mask pas.length).isEmpty then s1 else s1.modStop q fun x =>
          { x with streams := x.streams ++ [⟨tag, src, mask, (selected mask pas.length).head?, 2 * (s.tc + 28), [], 2 * (s.tc + 28), pas⟩] }
        .next (s2.injectTo k.sdev q t .tile 1 4 (.mcAnswer slot id 0))
      | _ => .next s1

/-- The stream whose next line the slice reads: it reads one line per tc, for the stream that holds the fewest, the model's choice (R258, R380; log 29). -/
def Stop.streamReads (x : Stop) (nc : Nat) : Option (Stream × Nat) :=
  if x.streamRead = nc / 2 + 1 then none
  else ((x.streams.filter fun e => decide (e.readyAt ≤ nc) && e.next.isSome).foldl (fun (b : Option Stream) e =>
    match b with
    | none => some e
    | some m => if e.held.length < m.held.length then some e else b) none).bind fun e => e.next.map fun i => (e, i)

/-- The stream of a slice whose next line may leave. -/
def Stop.streamDue (x : Stop) (nc : Nat) : Option (Stream × (Nat × Nat)) :=
  (x.streams.find? fun e => decide (e.sendAt ≤ nc) && !e.held.isEmpty).bind fun e => e.held.head?.map fun l => (e, l)

/-- The copies of a stream packet, one for each port of its key with a nonzero count (R255, R292). -/
def Stop.replicate (x : Stop) (home tag nc : Nat) (k : Packet) : Stop :=
  match x.mcFind home tag with
  | none => x
  | some e => { x with mcOut := x.mcOut ++ (e.counts.filter fun c => c.2 != 0).map fun c => (c.1, k, nc) }

/-- `MC_STREAM_LINE_SEND` (R258, R380). Focus 0: the slice reads the next selected line of a stream, one line per tc; one that misses comes from its stack
first. Focus 1: the oldest line that a stream holds leaves, 3 nc after the one before; with its last line the stream is over. -/
def execMcStreamLineSend (s : State) : Out :=
  let q := s.focus.a
  if s.focus.b = 0 then
    match (s.stop q).streamReads s.nc with
    | none => .next s
    | some (e, i) =>
      let line := (e.pas[i]?).getD 0 / 128
      if !(s.stop q).l2Lines.contains line then
        .next ((s.l2Bring line).modStop q fun x => { x with streams := x.streams.map fun f =>
          if f = e then { f with readyAt := s.nc + 2 * max 1 (s.missLeft line 0) } else f })
      else
        let (v, s1) := s.homeRead (128 * line) 128
        .next (s1.modStop q fun x => { x.touch line with
          streamRead := s.tc + 1
          streams := x.streams.map fun f =>
            if f = e then { f with next := (selected e.mask e.pas.length).find? fun k => decide (i < k), held := f.held ++ [(i, v)], readyAt := s.nc + 1 } else f })
  else
    match (s.stop q).streamDue s.nc with
    | none => .next s
    | some (e, i, v) =>
      let d := s.dev.device.toNat
      let k : Packet := { s.packet d q q .ni 3 0 (.mcLine q e.tag e.src e.pas.length e.mask i v) with sport := .l2 }
      .next (s.modStop q fun x => { x.replicate q e.tag s.nc k with
        streams := x.streams.flatMap fun f =>
          if f = e then (if f.next.isNone && f.held.tail.isEmpty then [] else [{ f with held := f.held.tail, sendAt := s.nc + 3 }]) else [f] })

/-! ### Replication (R292, R294) -/

/-- A buffer of subnet 0 with a stream packet at its head. -/
def State.replicable (s : State) (q : Nat) : Option (Nat × Packet) :=
  (s.stop q).inputs.findSome? fun e => match e.2 with
    | k :: _ => match k.body with
      | .mcLine .. => if k.readyAt ≤ s.nc then some (e.1, k) else none
      | _ => none
    | [] => none

/-- `MC_REPLICATE` (R255, R292): the packet leaves its input and a copy waits for each port with subscribers. -/
def execMcReplicate (s : State) : Out :=
  let q := s.focus.a
  match s.replicable q with
  | none => .next s
  | some (key, k) =>
    match k.body with
    | .mcLine home tag _ _ _ _ _ => .next (s.modStop q fun x => (x.pop key s.nc s.nc).replicate home tag s.nc k)
    | _ => .next s

def State.staleCopy (s : State) (q : Nat) : Option (Nat × Packet × Nat) :=
  (s.stop q).mcOut.find? fun e => decide (e.2.2 + (s.die (dieOf q)).thresh ≤ s.nc)

/-- `MC_COPY_DROP` (R294): a copy that has waited thresh nc for its port is dropped and counted. -/
def execMcCopyDrop (s : State) : Out :=
  let q := s.focus.a
  match s.staleCopy q with
  | none => .next s
  | some e => .next (s.modStop q fun x => { x.count 8 1 with mcOut := x.mcOut.erase e })

/-! ### Landing at the network interface (R259, R294, R381) -/

/-- Lines a tile's interface holds, and those it is reading. -/
def Tile.mcHeld (x : Tile) : Nat := (x.subs.map fun b => b.got.length).sum
def Tile.mcAsked (x : Tile) : Nat := (x.subs.map fun b => b.asked.length).sum

/-- The selected lines that have not come and are not being fetched. -/
def Subscr.missing (b : Subscr) : List Nat :=
  (selected b.mask b.lines).filter fun i => decide (b.next ≤ i) && !(b.got.any fun g => g.1 == i) && !b.wanted.contains i && !b.asked.contains i

/-- The next selected line to land. -/
def Subscr.nextLine (b : Subscr) : Option Nat := (selected b.mask b.lines).find? fun i => decide (b.next ≤ i)

/-- A whole stream line is at the interface: it belongs to the subscription's one stream, or is dropped and counted. -/
def State.lineComes (s : State) (t : Nat) (k : Packet) : State :=
  match k.body with
  | .mcLine _ tag src lines mask ix v =>
    match (s.tile t).subOf tag with
    | none => s.modStop t fun x => x.count 9 1
    | some b =>
      if b.src != src || b.lines != lines || b.over_ || (b.started && b.mask != mask) || !(s.tile t).subLands b then
        s.modStop t fun x => x.count 9 1
      else if b.started && decide (ix ≤ b.lastIx) then
        (s.modTile t fun x => x.modSub tag fun b => { b with over_ := true }).modStop t fun x => x.count 9 1
      else
        -- a place is kept for every line that is being read (log 29)
        let room := (s.tile t).mcHeld + (s.tile t).mcAsked < 32
        let b1 := { b with started := true, mask := mask, lastIx := ix, lastPkt := s.nc }
        let gaps := b1.missing.filter fun i => decide (i < ix)
        let s1 := s.modTile t fun x => x.modSub tag fun _ =>
          { b1 with wanted := b1.wanted ++ gaps, got := if room then b1.got ++ [(ix, v)] else b1.got }
        if room then s1 else s1.modStop t fun x => x.count 8 1
  | _ => s

/-- The subscription whose next line is here and not held back by an earlier window (R249). -/
def State.mcLander (s : State) (t : Nat) : Option (Subscr × Nat × Nat) :=
  (s.tile t).subs.findSome? fun b =>
    if b.gone || !(s.tile t).subLands b then none
    else b.nextLine.bind fun i => (b.got.find? fun g => g.1 == i).bind fun g =>
      if s.overlapHeld t b.chan (b.dst + 128 * i) 128 then none else some (b, i, g.2)

/-- One line lands, and its channel's watermark goes on past the lines that are not selected (R243, R259). -/
def State.landLine (s : State) (t : Nat) (b : Subscr) (i v : Nat) : State :=
  let more := (selected b.mask b.lines).find? fun k => decide (i < k)
  let s1 := s.modTile t fun x => ((x.poolWrite (b.dst + 128 * i) 128 (fullEn 128) v).modChan b.chan fun c =>
      { c with wm := BitVec.ofNat 64 (b.dst + 128 * (more.getD b.lines)), count := c.count + 1 }).modSub b.tag fun b =>
    { b with next := i + 1, got := b.got.filter fun g => g.1 != i }
  if more.isSome then s1 else s1.retireChan t b.chan 0

/-- Whether the interface has whole lines to take in, or a line to land. -/
def State.canLandLine (s : State) (t : Nat) : Bool :=
  (s.stop t).mcIn.any (fun k => decide (k.readyAt / 2 < s.tc)) || (s.mcLander t).isSome

/-- `MC_LINE_LAND` (R259, R381): the interface takes in the lines that were whole before this tc and lands one line; or a catch-up read returns
(focus: tile, tag, line, 1, its value). -/
def execMcLineLand (s : State) : Out :=
  let t := s.focus.a
  if s.focus.d = 1 then
    match (s.tile t).subOf s.focus.b with
    | none => .next s
    | some b =>
      if b.asked.contains s.focus.c then
        .next (s.modTile t fun x => x.modSub b.tag fun b => { b with asked := b.asked.erase s.focus.c, got := b.got ++ [(s.focus.c, s.focus.data)] })
      else .next s
  else
    let whole := (s.stop t).mcIn.filter fun k => decide (k.readyAt / 2 < s.tc)
    let s1 := s.modStop t fun x => { x with mcIn := x.mcIn.filter fun k => !decide (k.readyAt / 2 < s.tc) }
    let s2 := whole.foldl (fun (s : State) k => s.lineComes t k) s1
    match s2.mcLander t with
    | none => .next s2
    | some (b, i, v) => .next (s2.landLine t b i v)

/-- The next catch-up read: the lowest wanted line of the first subscription that wants one, while there is room. -/
def Tile.mcCatchup (x : Tile) : Option (Subscr × Nat) :=
  if x.mcHeld + x.mcAsked < 32 then
    (x.subs.find? fun b => !b.wanted.isEmpty && !b.gone && x.subLands b).bind fun b => b.wanted.min?.map fun i => (b, i)
  else none

/-- `MC_CATCHUP_READ` (R259, R381): the line is translated as it is read, so that no read goes to a frame that `tlbinv` has taken away (R234). -/
def execMcCatchupRead (s : State) : Out :=
  let t := s.focus.a
  match (s.tile t).mcCatchup with
  | none => .next s
  | some (b, i) =>
    match s.streamLines t (b.src + 128 * i) 1 with
    | .ok [some e] =>
      let s1 := (s.walked t (b.src + 128 * i) 128).modTile t fun x => x.modSub b.tag fun b =>
        { b with wanted := b.wanted.erase i, asked := b.asked ++ [i], pas := b.pas.set i e.2.2 }
      .next (s1.askUnit t (unitId 3 (64 * b.tag + i)) e.2.2 128 (2 * s.xlateCost t (b.src + 128 * i) 128 + 28))
    -- its page is not mapped now: the line stays wanted (log 29)
    | _ => .next s

/-- A subscription whose stream has fallen silent with lines missing (R294). -/
def State.mcIdle (s : State) (t : Nat) : Option Subscr :=
  (s.tile t).subs.find? fun b => b.started && !b.gone && !b.missing.isEmpty && (s.tile t).subLands b &&
    decide (b.lastPkt + 2 * (s.die (dieOf t)).thresh ≤ s.nc)

/-- `MC_STREAM_IDLE` (R294): every selected line still missing is to be read. -/
def execMcStreamIdle (s : State) : Out :=
  let t := s.focus.a
  match s.mcIdle t with
  | none => .next s
  | some b => .next (s.modTile t fun x => x.modSub b.tag fun b => { b with wanted := b.wanted ++ b.missing })

end Sys2Proof.Machine
end

