-- ==== Sys2Proof/Machine/Status.lean ====
section
/-!
DEFINITION. Statuses of variable latency as they come (R67): what the instruction does when its status is known, and the write itself, which
reaches a jet in its slot or in its saved context (R355).
-/

namespace Sys2Proof.Machine

/-- The writes of an owed result are made: in the slot, in the saved context, or nowhere where the jet was killed (R351, R355). -/
def State.writeStatus (s : State) (t slot id : Nat) : State :=
  match (s.tile t).ownerOf slot id with
  | none => s.modTile t fun x => x.limboDone id
  | some j =>
    match j.findOwed id with
    | none => s
    | some o => s.modTile t fun x => x.modOwner j.key (o.w.flatMap (·.sl)) fun j => j.writeAll o

/-- A fault that an instruction with an owed status finds late (R388). -/
def State.lateStatus (s : State) (t slot id : Nat) (f : Flt) : State :=
  match (s.tile t).ownerOf slot id with
  | none => s.modTile t fun x => x.limboDone id
  | some j =>
    match j.findOwed id with
    | none => s
    | some o =>
      if (s.jet t slot).owes id then s.lateFault t slot f o.pc [id] o.ord
      else
        (s.sendLocal t (faultMsg s t t (faultRecord s t f o.pc j.inst (j.id16 slot)) j.inst)).modTile t fun x =>
          x.interruptSaved j.key fun j => { j with interrupted := j.interrupted ++ [⟨o.pc, [id], o.ord⟩] }

/-- The fault of a table's read that fails with a cause (R346): of its pages, of an aborted window with its channel, or of poison. -/
def State.tableFault (s : State) (t va c : Nat) : Flt :=
  match s.partsOf t .read .page true va 528, s.engineGuard t va 528 none with
  | .error e, _ => dataFault e va 528
  | .ok _, .aborted ch => answerFault (9 + 16 * ch) va
  | .ok _, _ => answerFault c va

/-- `actl` installs its table once no chain uses the table it replaces (R315). -/
def State.installAct (s : State) (t slot id k v : Nat) : State :=
  if fld v 40 88 != 0 then s.settle t slot id 0 1
  else if (s.tile t).actBusy k then s.after 1 .statusResultWrite ⟨t, slot, id, 7, k + 16 * v⟩
  else (s.modTile t fun x => { x with mx := { x.mx with acts := Tbl.set x.mx.acts k v } }).settle t slot id 0 0

/-- Whether every access numbered from `a` to `b − 1` of a tile is performed. -/
def Tile.allPerformed (x : Tile) (a b : Nat) : Bool :=
  x.acc.all fun q => decide (q.id < a) || decide (b ≤ q.id) || (q.stage == 2 && q.parts.all (·.performed))

/-- `STATUS_RESULT_WRITE` (R67). Focus: tile, slot, result, what completes, its operands: 0 the write; 1 `pdef`; 2 `fork`; 3 `rnext`; 4 `gang`;
5 `actl` and 7 its wait; 6 `cclr`; 8 `xrepl`; 9 `bstat`; 10 `stash.evict`. -/
def execStatusResultWrite (s : State) : Out :=
  let f := s.focus
  match f.d with
  | 10 =>
    -- `stash.evict`: what was filled while it ran is dropped too (R231)
    let l := (s.tile f.a).stashIn (f.data % 2 ^ 64) (f.data / 2 ^ 64)
    if l.isEmpty then .next (s.settle f.a f.b f.c 0 0)
    else .next (((s.stashClean f.a l true).after (s.stashCost f.a l) .statusResultWrite f))
  | 9 =>
    -- behind what the weir has accepted in this tc (R172)
    .next ((s.modTile f.a fun x => x.modWeir fun w => { w with asks := w.asks.filter fun e => e.2.2.1 != f.c }).settle f.a f.b f.c 0
      (s.basinStat f.a (BitVec.ofNat 32 f.data)))
  | 0 => .next (s.writeStatus f.a f.b f.c)
  | 1 =>
    let r := s.pdefDone f.a (f.data % 32) (f.data / 32) f.c
    .next (r.2.settle f.a f.b f.c 0 r.1)
  | 2 =>
    let r := s.forkDone f.a f.c f.data
    .next (r.2.settle f.a f.b f.c 0 r.1)
  | 3 =>
    if (s.jet f.a f.b).owes f.c then .next (s.rnextClaim f.a f.b f.c (f.data == 1))
    else .next (s.modTile f.a fun x => x.limboDone f.c)
  | 4 =>
    -- member 0 becomes resident in this tc, or in the next where a jet of its tile has (R88); in the last of its 40 tc others give way (R202)
    if (s.tile f.a).took s.tc || (s.gangLast f.a && decide (s.tc < f.data / 2 ^ 531)) then .next (s.after 1 .statusResultWrite f)
    else
      let r := s.gangStart f.a (f.data % 2 ^ 531)
      .next (r.2.settle f.a f.b f.c 0 r.1)
  | 5 =>
    -- read as loads: behind the jet's own earlier writes, and against the guard of a pool (R246, R262)
    let va := f.data / 16 % 2 ^ 64
    let key := (((s.tile f.a).ownerOf f.b f.c).map (·.key)).getD 0
    let read (s : State) : State := s.modTile f.a fun x => { x with tables := x.tables.filter fun e => e.id != f.c }
    if s.readWaits f.a key (f.data / 2 ^ 68) va 528 then .next (s.after 1 .statusResultWrite f)
    else
      match s.engineFetch f.a va 528 none with
      | .ok (v, s) => .next ((read s).installAct f.a f.b f.c (f.data % 16) v)
      | .error (0, _) => .next (s.after 1 .statusResultWrite f)
      | .error (c, _) => .next ((read s).lateStatus f.a f.b f.c (s.tableFault f.a va c))
  | 6 =>
    let first := f.data % 2 ^ 64
    let end_ := f.data / 2 ^ 64
    if (s.tile f.a).allPerformed first end_ then .next (s.settle f.a f.b f.c 0 0)
    else .next (s.after 1 .statusResultWrite f)
  | 7 => .next (s.installAct f.a f.b f.c (f.data % 16) (f.data / 16))
  | _ =>
    let k := f.data % 8
    let e := f.data / 8 % 256
    .next ((s.modChain k fun c => { c with replicas := Tbl.set c.replicas e (replOf (f.data / 2048)) }).settle f.a f.b f.c 0 0)

end Sys2Proof.Machine
end

