-- ==== Sys2Proof/Machine/Dispatch.lean ====
section
/-!
DEFINITION. The dispatch of a step to its meaning, one arm per constructor of `Instr`.
-/

namespace Sys2Proof.Machine

def exec (i : Instr) (s : State) : Host.Outcome State Fault Refusal :=
  match i with
  | .addZ h o => Sys2Proof.Machine.execAddZ h o s
  | .addS h o => Sys2Proof.Machine.execAddS h o s
  | .difZ h o => Sys2Proof.Machine.execDifZ h o s
  | .difS h o => Sys2Proof.Machine.execDifS h o s
  | .addiZ h o imm => Sys2Proof.Machine.execAddiZ h o imm s
  | .addiS h o imm => Sys2Proof.Machine.execAddiS h o imm s
  | .mulZ h o => Sys2Proof.Machine.execMulZ h o s
  | .mulS h o => Sys2Proof.Machine.execMulS h o s
  | .mulhZ h o => Sys2Proof.Machine.execMulhZ h o s
  | .mulhS h o => Sys2Proof.Machine.execMulhS h o s
  | .divZ h o => Sys2Proof.Machine.execDivZ h o s
  | .divS h o => Sys2Proof.Machine.execDivS h o s
  | .remZ h o => Sys2Proof.Machine.execRemZ h o s
  | .remS h o => Sys2Proof.Machine.execRemS h o s
  | .minZ h o => Sys2Proof.Machine.execMinZ h o s
  | .minS h o => Sys2Proof.Machine.execMinS h o s
  | .maxZ h o => Sys2Proof.Machine.execMaxZ h o s
  | .maxS h o => Sys2Proof.Machine.execMaxS h o s
  | .absS h o => Sys2Proof.Machine.execAbsS h o s
  | .negS h o => Sys2Proof.Machine.execNegS h o s
  | .vadd h o => Sys2Proof.Machine.execVadd h o s
  | .vdif h o => Sys2Proof.Machine.execVdif h o s
  | .vmul h o => Sys2Proof.Machine.execVmul h o s
  | .vmulh h o => Sys2Proof.Machine.execVmulh h o s
  | .vmin h o => Sys2Proof.Machine.execVmin h o s
  | .vmax h o => Sys2Proof.Machine.execVmax h o s
  | .vabs h o => Sys2Proof.Machine.execVabs h o s
  | .vneg h o => Sys2Proof.Machine.execVneg h o s
  | .and h o => Sys2Proof.Machine.execAnd h o s
  | .or h o => Sys2Proof.Machine.execOr h o s
  | .xor h o => Sys2Proof.Machine.execXor h o s
  | .andn h o => Sys2Proof.Machine.execAndn h o s
  | .not h o => Sys2Proof.Machine.execNot h o s
  | .andi h o imm => Sys2Proof.Machine.execAndi h o imm s
  | .ori h o imm => Sys2Proof.Machine.execOri h o imm s
  | .xori h o imm => Sys2Proof.Machine.execXori h o imm s
  | .shl h o => Sys2Proof.Machine.execShl h o s
  | .shr h o => Sys2Proof.Machine.execShr h o s
  | .sar h o => Sys2Proof.Machine.execSar h o s
  | .rol h o => Sys2Proof.Machine.execRol h o s
  | .shli h o n => Sys2Proof.Machine.execShli h o n s
  | .shri h o n => Sys2Proof.Machine.execShri h o n s
  | .sari h o n => Sys2Proof.Machine.execSari h o n s
  | .bfxZ h o lsb len => Sys2Proof.Machine.execBfxZ h o lsb len s
  | .bfxS h o lsb len => Sys2Proof.Machine.execBfxS h o lsb len s
  | .bfi h o lsb len => Sys2Proof.Machine.execBfi h o lsb len s
  | .popc h o => Sys2Proof.Machine.execPopc h o s
  | .clz h o => Sys2Proof.Machine.execClz h o s
  | .ctz h o => Sys2Proof.Machine.execCtz h o s
  | .brev h o => Sys2Proof.Machine.execBrev h o s
  | .vand h o => Sys2Proof.Machine.execVand h o s
  | .vor h o => Sys2Proof.Machine.execVor h o s
  | .vxor h o => Sys2Proof.Machine.execVxor h o s
  | .vnot h o => Sys2Proof.Machine.execVnot h o s
  | .vshl h o => Sys2Proof.Machine.execVshl h o s
  | .vshr h o => Sys2Proof.Machine.execVshr h o s
  | .vsar h o => Sys2Proof.Machine.execVsar h o s
  | .vpopc h o => Sys2Proof.Machine.execVpopc h o s
  | .cmpEq h o => Sys2Proof.Machine.execCmpEq h o s
  | .cmpNe h o => Sys2Proof.Machine.execCmpNe h o s
  | .cmpLtS h o => Sys2Proof.Machine.execCmpLtS h o s
  | .cmpLtZ h o => Sys2Proof.Machine.execCmpLtZ h o s
  | .cmpLeS h o => Sys2Proof.Machine.execCmpLeS h o s
  | .cmpLeZ h o => Sys2Proof.Machine.execCmpLeZ h o s
  | .cmpiEq h o imm => Sys2Proof.Machine.execCmpiEq h o imm s
  | .cmpiLtS h o imm => Sys2Proof.Machine.execCmpiLtS h o imm s
  | .cmpiLtZ h o imm => Sys2Proof.Machine.execCmpiLtZ h o imm s
  | .sel h o => Sys2Proof.Machine.execSel h o s
  | .movZ h o => Sys2Proof.Machine.execMovZ h o s
  | .movS h o => Sys2Proof.Machine.execMovS h o s
  | .movi h d imm => Sys2Proof.Machine.execMovi h d imm s
  | .movih h d imm => Sys2Proof.Machine.execMovih h d imm s
  | .vwset h v src => Sys2Proof.Machine.execVwset h v src s
  | .vwrd h d v => Sys2Proof.Machine.execVwrd h d v s
  | .vcmp h o => Sys2Proof.Machine.execVcmp h o s
  | .vsel h o => Sys2Proof.Machine.execVsel h o s
  | .vmov h o => Sys2Proof.Machine.execVmov h o s
  | .fadd h o => Sys2Proof.Machine.execFadd h o s
  | .fsub h o => Sys2Proof.Machine.execFsub h o s
  | .fmul h o => Sys2Proof.Machine.execFmul h o s
  | .ffma h o => Sys2Proof.Machine.execFfma h o s
  | .fmin h o => Sys2Proof.Machine.execFmin h o s
  | .fmax h o => Sys2Proof.Machine.execFmax h o s
  | .fcmp h o => Sys2Proof.Machine.execFcmp h o s
  | .fdiv h o => Sys2Proof.Machine.execFdiv h o s
  | .fsqrt h o => Sys2Proof.Machine.execFsqrt h o s
  | .fexp2T h o => Sys2Proof.Machine.execFexp2T h o s
  | .fabs h o => Sys2Proof.Machine.execFabs h o s
  | .fneg h o => Sys2Proof.Machine.execFneg h o s
  | .vperm h o => Sys2Proof.Machine.execVperm h o s
  | .vbcast h o => Sys2Proof.Machine.execVbcast h o s
  | .vred h o => Sys2Proof.Machine.execVred h o s
  | .vscan h o => Sys2Proof.Machine.execVscan h o s
  | .vcmpr h o => Sys2Proof.Machine.execVcmpr h o s
  | .vexpd h o => Sys2Proof.Machine.execVexpd h o s
  | .mand h d a b => Sys2Proof.Machine.execMand h d a b s
  | .mor h d a b => Sys2Proof.Machine.execMor h d a b s
  | .mxor h d a b => Sys2Proof.Machine.execMxor h d a b s
  | .mnot h d a => Sys2Proof.Machine.execMnot h d a s
  | .mset h d count => Sys2Proof.Machine.execMset h d count s
  | .mtestAny h d a => Sys2Proof.Machine.execMtestAny h d a s
  | .mtestAll h d a => Sys2Proof.Machine.execMtestAll h d a s
  | .mpopc h d a => Sys2Proof.Machine.execMpopc h d a s
  | .mfirst h d a => Sys2Proof.Machine.execMfirst h d a s
  | .fcvtBf h o => Sys2Proof.Machine.execFcvtBf h o s
  | .fcvtF h o => Sys2Proof.Machine.execFcvtF h o s
  | .icvtF h o => Sys2Proof.Machine.execIcvtF h o s
  | .fcvtI h o => Sys2Proof.Machine.execFcvtI h o s
  | .qnt h o => Sys2Proof.Machine.execQnt h o s
  | .dqnt h o => Sys2Proof.Machine.execDqnt h o s
  | .bpack h o => Sys2Proof.Machine.execBpack h o s
  | .bunpk h o => Sys2Proof.Machine.execBunpk h o s
  | .nop h => Sys2Proof.Machine.execNop h s
  | .nopW h => Sys2Proof.Machine.execNopW h s
  | .br h imm => Sys2Proof.Machine.execBr h imm s
  | .bz h a imm => Sys2Proof.Machine.execBz h a imm s
  | .bnz h a imm => Sys2Proof.Machine.execBnz h a imm s
  | .bmany h m imm => Sys2Proof.Machine.execBmany h m imm s
  | .bmnone h m imm => Sys2Proof.Machine.execBmnone h m imm s
  | .call h d imm => Sys2Proof.Machine.execCall h d imm s
  | .ret h a => Sys2Proof.Machine.execRet h a s
  | .brx h a b => Sys2Proof.Machine.execBrx h a b s
  | .loop h d imm => Sys2Proof.Machine.execLoop h d imm s
  | .exit h => Sys2Proof.Machine.execExit h s
  | .casc h o n dir => Sys2Proof.Machine.execCasc h o n dir s
  | .cascx h => Sys2Proof.Machine.execCascx h s
  | .cascxStop h => Sys2Proof.Machine.execCascxStop h s
  | .cdis h d => Sys2Proof.Machine.execCdis h d s
  | .ldZ h o => Sys2Proof.Machine.execLdZ h o s
  | .ldS h o => Sys2Proof.Machine.execLdS h o s
  | .st h o => Sys2Proof.Machine.execSt h o s
  | .ldAcqZ h o => Sys2Proof.Machine.execLdAcqZ h o s
  | .ldAcqS h o => Sys2Proof.Machine.execLdAcqS h o s
  | .stRel h o => Sys2Proof.Machine.execStRel h o s
  | .pref h o => Sys2Proof.Machine.execPref h o s
  | .stashMap h o e => Sys2Proof.Machine.execStashMap h o e s
  | .stashFlush h o => Sys2Proof.Machine.execStashFlush h o s
  | .stashEvict h o => Sys2Proof.Machine.execStashEvict h o s
  | .spill h o => Sys2Proof.Machine.execSpill h o s
  | .fill h o => Sys2Proof.Machine.execFill h o s
  | .amo h o => Sys2Proof.Machine.execAmo h o s
  | .amoAr h o => Sys2Proof.Machine.execAmoAr h o s
  | .amoAgg h o => Sys2Proof.Machine.execAmoAgg h o s
  | .fence h sc => Sys2Proof.Machine.execFence h sc s
  | .fenceAll h sc => Sys2Proof.Machine.execFenceAll h sc s
  | .wsig h o => Sys2Proof.Machine.execWsig h o s
  | .pinwait h o => Sys2Proof.Machine.execPinwait h o s
  | .ctpl h o t => Sys2Proof.Machine.execCtpl h o t s
  | .cpy h o => Sys2Proof.Machine.execCpy h o s
  | .cpyCmp h o m => Sys2Proof.Machine.execCpyCmp h o m s
  | .cres h d ch => Sys2Proof.Machine.execCres h d ch s
  | .cabt h d ch => Sys2Proof.Machine.execCabt h d ch s
  | .cstat h d ch => Sys2Proof.Machine.execCstat h d ch s
  | .cstatClr h d ch => Sys2Proof.Machine.execCstatClr h d ch s
  | .sub h o tag ch => Sys2Proof.Machine.execSub h o tag ch s
  | .unsub h d tag => Sys2Proof.Machine.execUnsub h d tag s
  | .mcrd h o tag lines => Sys2Proof.Machine.execMcrd h o tag lines s
  | .bdef h o => Sys2Proof.Machine.execBdef h o s
  | .bfree h o => Sys2Proof.Machine.execBfree h o s
  | .pdef h o => Sys2Proof.Machine.execPdef h o s
  | .pdel h d ix => Sys2Proof.Machine.execPdel h d ix s
  | .pen h d ix => Sys2Proof.Machine.execPen h d ix s
  | .pdis h d ix => Sys2Proof.Machine.execPdis h d ix s
  | .send h o size => Sys2Proof.Machine.execSend h o size s
  | .sendRel h o size sc => Sys2Proof.Machine.execSendRel h o size sc s
  | .sendRelAll h o size sc => Sys2Proof.Machine.execSendRelAll h o size sc s
  | .sendc h o => Sys2Proof.Machine.execSendc h o s
  | .arm h o => Sys2Proof.Machine.execArm h o s
  | .bstat h o => Sys2Proof.Machine.execBstat h o s
  | .fork h o ctl imm => Sys2Proof.Machine.execFork h o ctl imm s
  | .rnext h o => Sys2Proof.Machine.execRnext h o s
  | .cancel h o imm => Sys2Proof.Machine.execCancel h o imm s
  | .cancelClr h o imm => Sys2Proof.Machine.execCancelClr h o imm s
  | .husked h o => Sys2Proof.Machine.execHusked h o s
  | .gang h o => Sys2Proof.Machine.execGang h o s
  | .gangEnd h d => Sys2Proof.Machine.execGangEnd h d s
  | .prio h d lvl => Sys2Proof.Machine.execPrio h d lvl s
  | .tdef h o id => Sys2Proof.Machine.execTdef h o id s
  | .mx h a => Sys2Proof.Machine.execMx h a s
  | .mxqStatus h d => Sys2Proof.Machine.execMxqStatus h d s
  | .mxqResume h d => Sys2Proof.Machine.execMxqResume h d s
  | .mxqAbort h d => Sys2Proof.Machine.execMxqAbort h d s
  | .addw h o kind signed k => Sys2Proof.Machine.execAddw h o kind signed k s
  | .crd h o bf => Sys2Proof.Machine.execCrd h o bf s
  | .cclr h o nm1 => Sys2Proof.Machine.execCclr h o nm1 s
  | .actl h o t => Sys2Proof.Machine.execActl h o t s
  | .capk h a imm => Sys2Proof.Machine.execCapk h a imm s
  | .xgo h o chain => Sys2Proof.Machine.execXgo h o chain s
  | .xsnap h o chain => Sys2Proof.Machine.execXsnap h o chain s
  | .xrepl h o chain => Sys2Proof.Machine.execXrepl h o chain s
  | .mrgJoin h o tag x chain => Sys2Proof.Machine.execMrgJoin h o tag x chain s
  | .mrgPut h o tag => Sys2Proof.Machine.execMrgPut h o tag s
  | .mrgLeave h d tag => Sys2Proof.Machine.execMrgLeave h d tag s
  | .trap h a code => Sys2Proof.Machine.execTrap h a code s
  | .resume h o => Sys2Proof.Machine.execResume h o s
  | .kill h o => Sys2Proof.Machine.execKill h o s
  | .csrr h d reg => Sys2Proof.Machine.execCsrr h d reg s
  | .csrw h a reg => Sys2Proof.Machine.execCsrw h a reg s
  | .ringrtyWrite h a => Sys2Proof.Machine.execRingrtyWrite h a s
  | .savectlWrite h a => Sys2Proof.Machine.execSavectlWrite h a s
  | .dqspillWrite h a => Sys2Proof.Machine.execDqspillWrite h a s
  | .tlbinv h o sc => Sys2Proof.Machine.execTlbinv h o sc s
  | .waymask h o m => Sys2Proof.Machine.execWaymask h o m s
  | .selftest h o kind => Sys2Proof.Machine.execSelftest h o kind s
  | .nestMov h o => Sys2Proof.Machine.execNestMov h o s
  | .nestAdd h o => Sys2Proof.Machine.execNestAdd h o s
  | .nestSub h o => Sys2Proof.Machine.execNestSub h o s
  | .nestMul h o => Sys2Proof.Machine.execNestMul h o s
  | .nestMin h o => Sys2Proof.Machine.execNestMin h o s
  | .nestMax h o => Sys2Proof.Machine.execNestMax h o s
  | .nestMacc h o => Sys2Proof.Machine.execNestMacc h o s
  | .nestRsum h o => Sys2Proof.Machine.execNestRsum h o s
  | .nestRmax h o => Sys2Proof.Machine.execNestRmax h o s
  | .nestRmin h o => Sys2Proof.Machine.execNestRmin h o s
  | .nestBeat => Sys2Proof.Machine.execNestBeat s
  | .laneBeatWrite => Sys2Proof.Machine.execLaneBeatWrite s
  | .resultWriteback => Sys2Proof.Machine.execResultWriteback s
  | .loadReturn => Sys2Proof.Machine.execLoadReturn s
  | .icacheFill => Sys2Proof.Machine.execIcacheFill s
  | .forwardedIssue => Sys2Proof.Machine.execForwardedIssue s
  | .cascFormed => Sys2Proof.Machine.execCascFormed s
  | .residency => Sys2Proof.Machine.execResidency s
  | .priorityAgeing => Sys2Proof.Machine.execPriorityAgeing s
  | .livePreempt => Sys2Proof.Machine.execLivePreempt s
  | .contextSaved => Sys2Proof.Machine.execContextSaved s
  | .owedReturnSaved => Sys2Proof.Machine.execOwedReturnSaved s
  | .contextRestore => Sys2Proof.Machine.execContextRestore s
  | .matrixPark => Sys2Proof.Machine.execMatrixPark s
  | .parkedRunResume => Sys2Proof.Machine.execParkedRunResume s
  | .sendAccept => Sys2Proof.Machine.execSendAccept s
  | .sendRetry => Sys2Proof.Machine.execSendRetry s
  | .sendRelease => Sys2Proof.Machine.execSendRelease s
  | .sendAck => Sys2Proof.Machine.execSendAck s
  | .basinExamine => Sys2Proof.Machine.execBasinExamine s
  | .ringRefillReturn => Sys2Proof.Machine.execRingRefillReturn s
  | .dequeTake => Sys2Proof.Machine.execDequeTake s
  | .thirstRound => Sys2Proof.Machine.execThirstRound s
  | .thirstBackoffExpiry => Sys2Proof.Machine.execThirstBackoffExpiry s
  | .thirstArrival => Sys2Proof.Machine.execThirstArrival s
  | .stealAnswer => Sys2Proof.Machine.execStealAnswer s
  | .trackerChange => Sys2Proof.Machine.execTrackerChange s
  | .launchDispatch => Sys2Proof.Machine.execLaunchDispatch s
  | .huskRequest => Sys2Proof.Machine.execHuskRequest s
  | .huskCopyDone => Sys2Proof.Machine.execHuskCopyDone s
  | .ttSlot => Sys2Proof.Machine.execTtSlot s
  | .ttCompletionReport => Sys2Proof.Machine.execTtCompletionReport s
  | .wcDrain => Sys2Proof.Machine.execWcDrain s
  | .writeAck => Sys2Proof.Machine.execWriteAck s
  | .fenceComplete => Sys2Proof.Machine.execFenceComplete s
  | .tlbWalkDone => Sys2Proof.Machine.execTlbWalkDone s
  | .l2Request => Sys2Proof.Machine.execL2Request s
  | .l2Fill => Sys2Proof.Machine.execL2Fill s
  | .remotePoolAccess => Sys2Proof.Machine.execRemotePoolAccess s
  | .eccError => Sys2Proof.Machine.execEccError s
  | .selftestDone => Sys2Proof.Machine.execSelftestDone s
  | .tlbinvComplete => Sys2Proof.Machine.execTlbinvComplete s
  | .pinwaitDone => Sys2Proof.Machine.execPinwaitDone s
  | .wayRemoval => Sys2Proof.Machine.execWayRemoval s
  | .copyAccept => Sys2Proof.Machine.execCopyAccept s
  | .copySourceRead => Sys2Proof.Machine.execCopySourceRead s
  | .copyReadReturn => Sys2Proof.Machine.execCopyReadReturn s
  | .landingWrite => Sys2Proof.Machine.execLandingWrite s
  | .guardEntryFree => Sys2Proof.Machine.execGuardEntryFree s
  | .mcJoinArrival => Sys2Proof.Machine.execMcJoinArrival s
  | .mcJoinAck => Sys2Proof.Machine.execMcJoinAck s
  | .mcStreamRequest => Sys2Proof.Machine.execMcStreamRequest s
  | .mcStreamLineSend => Sys2Proof.Machine.execMcStreamLineSend s
  | .mcReplicate => Sys2Proof.Machine.execMcReplicate s
  | .mcCopyDrop => Sys2Proof.Machine.execMcCopyDrop s
  | .mcLineLand => Sys2Proof.Machine.execMcLineLand s
  | .mcCatchupRead => Sys2Proof.Machine.execMcCatchupRead s
  | .mcStreamIdle => Sys2Proof.Machine.execMcStreamIdle s
  | .routerForward => Sys2Proof.Machine.execRouterForward s
  | .inputTimerExpiry => Sys2Proof.Machine.execInputTimerExpiry s
  | .acornMove => Sys2Proof.Machine.execAcornMove s
  | .acornCapture => Sys2Proof.Machine.execAcornCapture s
  | .overflowDelivery => Sys2Proof.Machine.execOverflowDelivery s
  | .drainRecord => Sys2Proof.Machine.execDrainRecord s
  | .governorReport => Sys2Proof.Machine.execGovernorReport s
  | .subnetEnable => Sys2Proof.Machine.execSubnetEnable s
  | .subnetDisable => Sys2Proof.Machine.execSubnetDisable s
  | .linkRetry => Sys2Proof.Machine.execLinkRetry s
  | .malformedPacket => Sys2Proof.Machine.execMalformedPacket s
  | .laucInbound => Sys2Proof.Machine.execLaucInbound s
  | .laucCredit => Sys2Proof.Machine.execLaucCredit s
  | .mergePartial => Sys2Proof.Machine.execMergePartial s
  | .mergeJoinArrival => Sys2Proof.Machine.execMergeJoinArrival s
  | .matrixAccept => Sys2Proof.Machine.execMatrixAccept s
  | .matrixStep => Sys2Proof.Machine.execMatrixStep s
  | .systolicWaitTimeout => Sys2Proof.Machine.execSystolicWaitTimeout s
  | .precisionMessage => Sys2Proof.Machine.execPrecisionMessage s
  | .chainOutput => Sys2Proof.Machine.execChainOutput s
  | .cisternDeposit => Sys2Proof.Machine.execCisternDeposit s
  | .matrixCompletion => Sys2Proof.Machine.execMatrixCompletion s
  | .matrixFreeze => Sys2Proof.Machine.execMatrixFreeze s
  | .matrixSelftest => Sys2Proof.Machine.execMatrixSelftest s
  | .addwUpdate => Sys2Proof.Machine.execAddwUpdate s
  | .chainBlockRead => Sys2Proof.Machine.execChainBlockRead s
  | .gateListArrival => Sys2Proof.Machine.execGateListArrival s
  | .routeToken => Sys2Proof.Machine.execRouteToken s
  | .snapshotTake => Sys2Proof.Machine.execSnapshotTake s
  | .gather => Sys2Proof.Machine.execGather s
  | .groupPlace => Sys2Proof.Machine.execGroupPlace s
  | .combineSlotFill => Sys2Proof.Machine.execCombineSlotFill s
  | .layerDone => Sys2Proof.Machine.execLayerDone s
  | .tileGate => Sys2Proof.Machine.execTileGate s
  | .tileWake => Sys2Proof.Machine.execTileWake s
  | .stealWakeExpiry => Sys2Proof.Machine.execStealWakeExpiry s
  | .messageWindowWrite => Sys2Proof.Machine.execMessageWindowWrite s
  | .memoryWindowAccess => Sys2Proof.Machine.execMemoryWindowAccess s
  | .refusedHostAccess => Sys2Proof.Machine.execRefusedHostAccess s
  | .journalRegionRead => Sys2Proof.Machine.execJournalRegionRead s
  | .journalWrite => Sys2Proof.Machine.execJournalWrite s
  | .jtailWrite => Sys2Proof.Machine.execJtailWrite s
  | .timeadjWrite => Sys2Proof.Machine.execTimeadjWrite s
  | .hostRegisterWrite => Sys2Proof.Machine.execHostRegisterWrite s
  | .pageFaultForward => Sys2Proof.Machine.execPageFaultForward s
  | .pageFaultReply => Sys2Proof.Machine.execPageFaultReply s
  | .overflowEntryFree => Sys2Proof.Machine.execOverflowEntryFree s
  | .ptpLockStep => Sys2Proof.Machine.execPtpLockStep s
  | .mboxRelease => Sys2Proof.Machine.execMboxRelease s
  | .mboxNetctl => Sys2Proof.Machine.execMboxNetctl s
  | .mboxCounter => Sys2Proof.Machine.execMboxCounter s
  | .mboxOverflowCounts => Sys2Proof.Machine.execMboxOverflowCounts s
  | .mboxFreeOverflow => Sys2Proof.Machine.execMboxFreeOverflow s
  | .mboxSelftest => Sys2Proof.Machine.execMboxSelftest s
  | .mboxEvictSlot => Sys2Proof.Machine.execMboxEvictSlot s
  | .mboxQuote => Sys2Proof.Machine.execMboxQuote s
  | .mboxFramePool => Sys2Proof.Machine.execMboxFramePool s
  | .mboxGrantRange => Sys2Proof.Machine.execMboxGrantRange s
  | .powerOn => Sys2Proof.Machine.execPowerOn s
  | .thermalThrottle => Sys2Proof.Machine.execThermalThrottle s
  | .thermalTrip => Sys2Proof.Machine.execThermalTrip s
  | .powerLoss => Sys2Proof.Machine.execPowerLoss s
  | .temperatureFall => Sys2Proof.Machine.execTemperatureFall s
  | .ptpTimeAdjustment => Sys2Proof.Machine.execPtpTimeAdjustment s
  | .thresholdTuning => Sys2Proof.Machine.execThresholdTuning s
  | .drainRingReadback => Sys2Proof.Machine.execDrainRingReadback s
  | .trackerAcknowledgement => Sys2Proof.Machine.execTrackerAcknowledgement s
  | .statusResultWrite => Sys2Proof.Machine.execStatusResultWrite s
  | .writeRefusalResend => Sys2Proof.Machine.execWriteRefusalResend s

end Sys2Proof.Machine
end

