-- ==== Sys2Proof/Machine/Foot.lean ====
section
/-!
DEFINITION. What each instruction reads and writes, as its meaning checks it at issue: the scoreboard and the write-order check look at it
before the instruction issues (R67, R68, R90).
-/

namespace Sys2Proof.Machine

/-- The footprint of an instruction for the issuing jet; an event has none. -/
def footOf (i : Instr) (s : State) : Foot :=
  match i with
  | .addZ _ o => R3.foot o 1
  | .addS _ o => R3.foot o 1
  | .difZ _ o => R3.foot o 1
  | .difS _ o => R3.foot o 1
  | .addiZ _ o _ => R2.foot o 1
  | .addiS _ o _ => R2.foot o 1
  | .mulZ _ o => R3.foot o 3
  | .mulS _ o => R3.foot o 3
  | .mulhZ _ o => R3.foot o 3
  | .mulhS _ o => R3.foot o 3
  | .divZ _ o => R3.foot o 18
  | .divS _ o => R3.foot o 18
  | .remZ _ o => R3.foot o 18
  | .remS _ o => R3.foot o 18
  | .minZ _ o => R3.foot o 1
  | .minS _ o => R3.foot o 1
  | .maxZ _ o => R3.foot o 1
  | .maxS _ o => R3.foot o 1
  | .absS _ o => R2.foot o 1
  | .negS _ o => R2.foot o 1
  | .vadd _ o => (planVadd s.cur o).foot s.here.fpten
  | .vdif _ o => (planVdif s.cur o).foot s.here.fpten
  | .vmul _ o => (planVmul s.cur o).foot s.here.fpten
  | .vmulh _ o => (planVmulh s.cur o).foot s.here.fpten
  | .vmin _ o => (planVmin s.cur o).foot s.here.fpten
  | .vmax _ o => (planVmax s.cur o).foot s.here.fpten
  | .vabs _ o => (planVabs s.cur o).foot s.here.fpten
  | .vneg _ o => (planVneg s.cur o).foot s.here.fpten
  | .and _ o => R3.foot o 1
  | .or _ o => R3.foot o 1
  | .xor _ o => R3.foot o 1
  | .andn _ o => R3.foot o 1
  | .not _ o => R2.foot o 1
  | .andi _ o _ => R2.foot o 1
  | .ori _ o _ => R2.foot o 1
  | .xori _ o _ => R2.foot o 1
  | .shl _ o => R3.footShift o
  | .shr _ o => R3.footShift o
  | .sar _ o => R3.footShift o
  | .rol _ o => R3.footShift o
  | .shli _ o _ => R2.foot o 1
  | .shri _ o _ => R2.foot o 1
  | .sari _ o _ => R2.foot o 1
  | .bfxZ _ o _ _ => R2.footOwn o
  | .bfxS _ o _ _ => R2.footOwn o
  | .bfi _ o _ _ => R2.footBfi o
  | .popc _ o => R2.footOwn o
  | .clz _ o => R2.footOwn o
  | .ctz _ o => R2.footOwn o
  | .brev _ o => R2.foot o 1
  | .vand _ o => (planVand s.cur o).foot s.here.fpten
  | .vor _ o => (planVor s.cur o).foot s.here.fpten
  | .vxor _ o => (planVxor s.cur o).foot s.here.fpten
  | .vnot _ o => (planVnot s.cur o).foot s.here.fpten
  | .vshl _ o => (planVshl s.cur o).foot s.here.fpten
  | .vshr _ o => (planVshr s.cur o).foot s.here.fpten
  | .vsar _ o => (planVsar s.cur o).foot s.here.fpten
  | .vpopc _ o => (planVpopc s.cur o).foot s.here.fpten
  | .cmpEq _ o => R3.footCmp o
  | .cmpNe _ o => R3.footCmp o
  | .cmpLtS _ o => R3.footCmp o
  | .cmpLtZ _ o => R3.footCmp o
  | .cmpLeS _ o => R3.footCmp o
  | .cmpLeZ _ o => R3.footCmp o
  | .cmpiEq _ o _ => R2.footOwn o
  | .cmpiLtS _ o _ => R2.footOwn o
  | .cmpiLtZ _ o _ => R2.footOwn o
  | .sel _ o => R4.footSel o
  | .movZ _ o => R2.foot o 1
  | .movS _ o => R2.foot o 1
  | .movi _ d _ => footS d [] [] 1
  | .movih _ d _ => footS d [d] [] 1
  | .vwset _ _ src => ViewSrc.foot src s.cur.frame
  | .vwrd _ d _ => footS d [] [] 1
  | .vcmp _ o => (planVcmp s.cur o).foot s.here.fpten
  | .vsel _ o => (planVsel s.cur o).foot s.here.fpten
  | .vmov _ o => (planVmov s.cur o).foot s.here.fpten
  | .fadd _ o => (planFadd s.cur o).foot s.here.fpten
  | .fsub _ o => (planFsub s.cur o).foot s.here.fpten
  | .fmul _ o => (planFmul s.cur o).foot s.here.fpten
  | .ffma _ o => (planFfma s.cur o).foot s.here.fpten
  | .fmin _ o => (planFmin s.cur o).foot s.here.fpten
  | .fmax _ o => (planFmax s.cur o).foot s.here.fpten
  | .fcmp _ o => (planFcmp s.cur o).foot s.here.fpten
  | .fdiv _ o => (planFdiv s.cur o).foot s.here.fpten
  | .fsqrt _ o => (planFsqrt s.cur o).foot s.here.fpten
  | .fexp2T _ o => (planFexp2T s.cur o).foot s.here.fpten
  | .fabs _ o => (planFabs s.cur o).foot s.here.fpten
  | .fneg _ o => (planFneg s.cur o).foot s.here.fpten
  | .vperm _ o => (planVperm s.cur o).foot s.here.fpten
  | .vbcast _ o => (planVbcast s.cur o).foot s.here.fpten
  | .vred _ o => (planVred s.cur o).foot s.here.fpten
  | .vscan _ o => (planVscan s.cur o).foot s.here.fpten
  | .vcmpr _ o => (planVcmpr s.cur o).foot s.here.fpten
  | .vexpd _ o => (planVexpd s.cur o).foot s.here.fpten
  | .mand _ d a b => footM d [a, b]
  | .mor _ d a b => footM d [a, b]
  | .mxor _ d a b => footM d [a, b]
  | .mnot _ d a => footM d [a]
  | .mset _ d _ => footM d []
  | .mtestAny _ d a => footT d a
  | .mtestAll _ d a => footT d a
  | .mpopc _ d a => footT d a
  | .mfirst _ d a => footT d a
  | .fcvtBf _ o => (planFcvtBf s.cur o).foot s.here.fpten
  | .fcvtF _ o => (planFcvtF s.cur o).foot s.here.fpten
  | .icvtF _ o => (planIcvtF s.cur o).foot s.here.fpten
  | .fcvtI _ o => (planFcvtI s.cur o).foot s.here.fpten
  | .qnt _ o => (planQnt s.cur o).foot s.here.fpten
  | .dqnt _ o => (planDqnt s.cur o).foot s.here.fpten
  | .bpack _ o => (planBpack s.cur o).foot s.here.fpten
  | .bunpk _ o => (planBunpk s.cur o).foot s.here.fpten
  | .nop _ => {}
  | .nopW _ => {}
  | .br _ _ => {}
  | .bz _ a _ => footRead a
  | .bnz _ a _ => footRead a
  | .bmany _ m _ => footMask m
  | .bmnone _ m _ => footMask m
  | .call _ d _ => footS d [] [] 1
  | .ret _ a => footRead a
  | .brx _ a b => footBrx a b
  | .loop _ d _ => footLoop d
  | .exit _ => {}
  | .casc _ o _ _ => { dst := o.d.range ++ o.a.range, lat := 1 }
  | .cascx _ => {}
  | .cascxStop _ => {}
  | .cdis _ d => footS d [] [] 1
  | .ldZ _ o => s.cur.loadFoot o
  | .ldS _ o => s.cur.loadFoot o
  | .st _ o => s.cur.storeFoot o
  | .ldAcqZ _ o => s.cur.loadFoot o
  | .ldAcqS _ o => s.cur.loadFoot o
  | .stRel _ o => s.cur.storeFoot o
  | .pref _ o => MemF.footOf o (.ok []) false false
  | .stashMap _ o _ => stashFoot o
  | .stashFlush _ o => stashFoot o
  | .stashEvict _ o => stashFoot o
  | .spill _ o => s.cur.spillFoot o false
  | .fill _ o => s.cur.spillFoot o true
  | .amo _ o => s.cur.amoFoot o
  | .amoAr _ o => s.cur.amoFoot o
  | .amoAgg _ o => s.cur.aggFoot o
  | .fence _ _ => {}
  | .fenceAll _ _ => {}
  | .wsig _ o => WsigF.foot o
  | .pinwait _ o => footV o.d [o.a, o.b] 0
  | .ctpl _ o _ => footRun o.d o.a 128 []
  | .cpy _ o => footCpy o []
  | .cpyCmp _ o m => footCpy o [m.toNat]
  | .cres _ d _ => { dst := d.range }
  | .cabt _ d _ => { dst := d.range }
  | .cstat _ d _ => { dst := d.range }
  | .cstatClr _ d _ => { dst := d.range }
  | .sub _ o _ _ => footRun o.d o.a 32 []
  | .unsub _ d _ => { dst := d.range }
  | .mcrd _ o _ _ => footRun o.d o.a 0 o.b.range
  | .bdef _ o => footRun o.d o.a 32 []
  | .bfree _ o => footRun o.d o.a 0 []
  | .pdef _ o => footRun o.d o.a 64 (SliceOp.run o.b 128)
  | .pdel _ d _ => { dst := d.range }
  | .pen _ d _ => { dst := d.range }
  | .pdis _ d _ => { dst := d.range }
  | .send _ o size => sendFoot o (2 * msgBytes size)
  | .sendRel _ o size _ => sendFoot o (2 * msgBytes size)
  | .sendRelAll _ o size _ => sendFoot o (2 * msgBytes size)
  | .sendc _ o => sendFoot o 0
  | .arm _ o => sendFoot o 0
  | .bstat _ o => footRun o.d o.a 0 []
  | .fork _ o _ _ => { src := o.a.range ++ o.b.range ++ o.c.range, rd := o.a.range ++ o.b.range ++ o.c.range, dst := o.d.range }
  | .rnext _ o => { dst := o.d.range ++ o.a.range }
  | .cancel _ o _ => footRun o.d o.a 0 []
  | .cancelClr _ o _ => footRun o.d o.a 0 []
  | .husked _ o => footRun o.d o.a 0 []
  | .gang _ o => footRun o.d o.a 128 []
  | .gangEnd _ d => { dst := d.range }
  | .prio _ d _ => footS d [] [] 1
  | .tdef _ o _ => footRun o.d o.a 256 []
  | .mx _ a => s.cur.mxFoot a
  | .mxqStatus _ d => { dst := d.range }
  | .mxqResume _ d => { dst := d.range }
  | .mxqAbort _ d => { dst := d.range }
  | .addw _ o _ _ _ => footCist .nz [o.d, o.a, o.b, o.c]
  | .crd _ o _ => footCist o.d [o.a, o.b]
  | .cclr _ o _ => footCist o.d [o.a]
  | .actl _ o _ => footCist o.d [o.a]
  | .capk _ a _ => footCist .nz [a]
  | .xgo _ o _ => footRun o.d o.a 0 []
  | .xsnap _ o _ => footRun o.d o.a 0 []
  | .xrepl _ o _ => footRun o.d o.a 0 o.b.range
  | .mrgJoin _ o _ _ _ => footRun o.d o.a 0 []
  | .mrgPut _ o _ => footRun o.d o.a 128 []
  | .mrgLeave _ d _ => { dst := d.range }
  | .trap _ a _ => footRead a
  | .resume _ o => resumeFoot o
  | .kill _ o => { src := o.a.range, rd := o.a.range, dst := o.d.range }
  | .csrr _ d _ => footS d [] [] 1
  | .csrw _ a _ => footRead a
  | .ringrtyWrite _ a => footRead a
  | .savectlWrite _ a => footRead a
  | .dqspillWrite _ a => footRead a
  | .tlbinv _ o _ => footV o.d [o.a, o.b] 0
  | .waymask _ o _ => { src := o.a.range, rd := o.a.range, dst := o.d.range, lat := 1 }
  | .selftest _ o _ => { src := o.a.range, rd := o.a.range, dst := o.d.range }
  | .nestMov _ o => s.nestFoot 0 o
  | .nestAdd _ o => s.nestFoot 1 o
  | .nestSub _ o => s.nestFoot 2 o
  | .nestMul _ o => s.nestFoot 3 o
  | .nestMin _ o => s.nestFoot 4 o
  | .nestMax _ o => s.nestFoot 5 o
  | .nestMacc _ o => s.nestFoot 6 o
  | .nestRsum _ o => s.nestFoot 7 o
  | .nestRmax _ o => s.nestFoot 8 o
  | .nestRmin _ o => s.nestFoot 9 o
  | .nestBeat => {}
  | .laneBeatWrite => {}
  | .resultWriteback => {}
  | .loadReturn => {}
  | .icacheFill => {}
  | .forwardedIssue => {}
  | .cascFormed => {}
  | .residency => {}
  | .priorityAgeing => {}
  | .livePreempt => {}
  | .contextSaved => {}
  | .owedReturnSaved => {}
  | .contextRestore => {}
  | .matrixPark => {}
  | .parkedRunResume => {}
  | .sendAccept => {}
  | .sendRetry => {}
  | .sendRelease => {}
  | .sendAck => {}
  | .basinExamine => {}
  | .ringRefillReturn => {}
  | .dequeTake => {}
  | .thirstRound => {}
  | .thirstBackoffExpiry => {}
  | .thirstArrival => {}
  | .stealAnswer => {}
  | .trackerChange => {}
  | .launchDispatch => {}
  | .huskRequest => {}
  | .huskCopyDone => {}
  | .ttSlot => {}
  | .ttCompletionReport => {}
  | .wcDrain => {}
  | .writeAck => {}
  | .fenceComplete => {}
  | .tlbWalkDone => {}
  | .l2Request => {}
  | .l2Fill => {}
  | .remotePoolAccess => {}
  | .eccError => {}
  | .selftestDone => {}
  | .tlbinvComplete => {}
  | .pinwaitDone => {}
  | .wayRemoval => {}
  | .copyAccept => {}
  | .copySourceRead => {}
  | .copyReadReturn => {}
  | .landingWrite => {}
  | .guardEntryFree => {}
  | .mcJoinArrival => {}
  | .mcJoinAck => {}
  | .mcStreamRequest => {}
  | .mcStreamLineSend => {}
  | .mcReplicate => {}
  | .mcCopyDrop => {}
  | .mcLineLand => {}
  | .mcCatchupRead => {}
  | .mcStreamIdle => {}
  | .routerForward => {}
  | .inputTimerExpiry => {}
  | .acornMove => {}
  | .acornCapture => {}
  | .overflowDelivery => {}
  | .drainRecord => {}
  | .governorReport => {}
  | .subnetEnable => {}
  | .subnetDisable => {}
  | .linkRetry => {}
  | .malformedPacket => {}
  | .laucInbound => {}
  | .laucCredit => {}
  | .mergePartial => {}
  | .mergeJoinArrival => {}
  | .matrixAccept => {}
  | .matrixStep => {}
  | .systolicWaitTimeout => {}
  | .precisionMessage => {}
  | .chainOutput => {}
  | .cisternDeposit => {}
  | .matrixCompletion => {}
  | .matrixFreeze => {}
  | .matrixSelftest => {}
  | .addwUpdate => {}
  | .chainBlockRead => {}
  | .gateListArrival => {}
  | .routeToken => {}
  | .snapshotTake => {}
  | .gather => {}
  | .groupPlace => {}
  | .combineSlotFill => {}
  | .layerDone => {}
  | .tileGate => {}
  | .tileWake => {}
  | .stealWakeExpiry => {}
  | .messageWindowWrite => {}
  | .memoryWindowAccess => {}
  | .refusedHostAccess => {}
  | .journalRegionRead => {}
  | .journalWrite => {}
  | .jtailWrite => {}
  | .timeadjWrite => {}
  | .hostRegisterWrite => {}
  | .pageFaultForward => {}
  | .pageFaultReply => {}
  | .overflowEntryFree => {}
  | .ptpLockStep => {}
  | .mboxRelease => {}
  | .mboxNetctl => {}
  | .mboxCounter => {}
  | .mboxOverflowCounts => {}
  | .mboxFreeOverflow => {}
  | .mboxSelftest => {}
  | .mboxEvictSlot => {}
  | .mboxQuote => {}
  | .mboxFramePool => {}
  | .mboxGrantRange => {}
  | .powerOn => {}
  | .thermalThrottle => {}
  | .thermalTrip => {}
  | .powerLoss => {}
  | .temperatureFall => {}
  | .ptpTimeAdjustment => {}
  | .thresholdTuning => {}
  | .drainRingReadback => {}
  | .trackerAcknowledgement => {}
  | .statusResultWrite => {}
  | .writeRefusalResend => {}

/-- Whether a constructor is an event rather than an instruction of a jet. -/
def isEvent (i : Instr) : Bool :=
  match i with
  | .addZ _ _ => false
  | .addS _ _ => false
  | .difZ _ _ => false
  | .difS _ _ => false
  | .addiZ _ _ _ => false
  | .addiS _ _ _ => false
  | .mulZ _ _ => false
  | .mulS _ _ => false
  | .mulhZ _ _ => false
  | .mulhS _ _ => false
  | .divZ _ _ => false
  | .divS _ _ => false
  | .remZ _ _ => false
  | .remS _ _ => false
  | .minZ _ _ => false
  | .minS _ _ => false
  | .maxZ _ _ => false
  | .maxS _ _ => false
  | .absS _ _ => false
  | .negS _ _ => false
  | .vadd _ _ => false
  | .vdif _ _ => false
  | .vmul _ _ => false
  | .vmulh _ _ => false
  | .vmin _ _ => false
  | .vmax _ _ => false
  | .vabs _ _ => false
  | .vneg _ _ => false
  | .and _ _ => false
  | .or _ _ => false
  | .xor _ _ => false
  | .andn _ _ => false
  | .not _ _ => false
  | .andi _ _ _ => false
  | .ori _ _ _ => false
  | .xori _ _ _ => false
  | .shl _ _ => false
  | .shr _ _ => false
  | .sar _ _ => false
  | .rol _ _ => false
  | .shli _ _ _ => false
  | .shri _ _ _ => false
  | .sari _ _ _ => false
  | .bfxZ _ _ _ _ => false
  | .bfxS _ _ _ _ => false
  | .bfi _ _ _ _ => false
  | .popc _ _ => false
  | .clz _ _ => false
  | .ctz _ _ => false
  | .brev _ _ => false
  | .vand _ _ => false
  | .vor _ _ => false
  | .vxor _ _ => false
  | .vnot _ _ => false
  | .vshl _ _ => false
  | .vshr _ _ => false
  | .vsar _ _ => false
  | .vpopc _ _ => false
  | .cmpEq _ _ => false
  | .cmpNe _ _ => false
  | .cmpLtS _ _ => false
  | .cmpLtZ _ _ => false
  | .cmpLeS _ _ => false
  | .cmpLeZ _ _ => false
  | .cmpiEq _ _ _ => false
  | .cmpiLtS _ _ _ => false
  | .cmpiLtZ _ _ _ => false
  | .sel _ _ => false
  | .movZ _ _ => false
  | .movS _ _ => false
  | .movi _ _ _ => false
  | .movih _ _ _ => false
  | .vwset _ _ _ => false
  | .vwrd _ _ _ => false
  | .vcmp _ _ => false
  | .vsel _ _ => false
  | .vmov _ _ => false
  | .fadd _ _ => false
  | .fsub _ _ => false
  | .fmul _ _ => false
  | .ffma _ _ => false
  | .fmin _ _ => false
  | .fmax _ _ => false
  | .fcmp _ _ => false
  | .fdiv _ _ => false
  | .fsqrt _ _ => false
  | .fexp2T _ _ => false
  | .fabs _ _ => false
  | .fneg _ _ => false
  | .vperm _ _ => false
  | .vbcast _ _ => false
  | .vred _ _ => false
  | .vscan _ _ => false
  | .vcmpr _ _ => false
  | .vexpd _ _ => false
  | .mand _ _ _ _ => false
  | .mor _ _ _ _ => false
  | .mxor _ _ _ _ => false
  | .mnot _ _ _ => false
  | .mset _ _ _ => false
  | .mtestAny _ _ _ => false
  | .mtestAll _ _ _ => false
  | .mpopc _ _ _ => false
  | .mfirst _ _ _ => false
  | .fcvtBf _ _ => false
  | .fcvtF _ _ => false
  | .icvtF _ _ => false
  | .fcvtI _ _ => false
  | .qnt _ _ => false
  | .dqnt _ _ => false
  | .bpack _ _ => false
  | .bunpk _ _ => false
  | .nop _ => false
  | .nopW _ => false
  | .br _ _ => false
  | .bz _ _ _ => false
  | .bnz _ _ _ => false
  | .bmany _ _ _ => false
  | .bmnone _ _ _ => false
  | .call _ _ _ => false
  | .ret _ _ => false
  | .brx _ _ _ => false
  | .loop _ _ _ => false
  | .exit _ => false
  | .casc _ _ _ _ => false
  | .cascx _ => false
  | .cascxStop _ => false
  | .cdis _ _ => false
  | .ldZ _ _ => false
  | .ldS _ _ => false
  | .st _ _ => false
  | .ldAcqZ _ _ => false
  | .ldAcqS _ _ => false
  | .stRel _ _ => false
  | .pref _ _ => false
  | .stashMap _ _ _ => false
  | .stashFlush _ _ => false
  | .stashEvict _ _ => false
  | .spill _ _ => false
  | .fill _ _ => false
  | .amo _ _ => false
  | .amoAr _ _ => false
  | .amoAgg _ _ => false
  | .fence _ _ => false
  | .fenceAll _ _ => false
  | .wsig _ _ => false
  | .pinwait _ _ => false
  | .ctpl _ _ _ => false
  | .cpy _ _ => false
  | .cpyCmp _ _ _ => false
  | .cres _ _ _ => false
  | .cabt _ _ _ => false
  | .cstat _ _ _ => false
  | .cstatClr _ _ _ => false
  | .sub _ _ _ _ => false
  | .unsub _ _ _ => false
  | .mcrd _ _ _ _ => false
  | .bdef _ _ => false
  | .bfree _ _ => false
  | .pdef _ _ => false
  | .pdel _ _ _ => false
  | .pen _ _ _ => false
  | .pdis _ _ _ => false
  | .send _ _ _ => false
  | .sendRel _ _ _ _ => false
  | .sendRelAll _ _ _ _ => false
  | .sendc _ _ => false
  | .arm _ _ => false
  | .bstat _ _ => false
  | .fork _ _ _ _ => false
  | .rnext _ _ => false
  | .cancel _ _ _ => false
  | .cancelClr _ _ _ => false
  | .husked _ _ => false
  | .gang _ _ => false
  | .gangEnd _ _ => false
  | .prio _ _ _ => false
  | .tdef _ _ _ => false
  | .mx _ _ => false
  | .mxqStatus _ _ => false
  | .mxqResume _ _ => false
  | .mxqAbort _ _ => false
  | .addw _ _ _ _ _ => false
  | .crd _ _ _ => false
  | .cclr _ _ _ => false
  | .actl _ _ _ => false
  | .capk _ _ _ => false
  | .xgo _ _ _ => false
  | .xsnap _ _ _ => false
  | .xrepl _ _ _ => false
  | .mrgJoin _ _ _ _ _ => false
  | .mrgPut _ _ _ => false
  | .mrgLeave _ _ _ => false
  | .trap _ _ _ => false
  | .resume _ _ => false
  | .kill _ _ => false
  | .csrr _ _ _ => false
  | .csrw _ _ _ => false
  | .ringrtyWrite _ _ => false
  | .savectlWrite _ _ => false
  | .dqspillWrite _ _ => false
  | .tlbinv _ _ _ => false
  | .waymask _ _ _ => false
  | .selftest _ _ _ => false
  | .nestMov _ _ => false
  | .nestAdd _ _ => false
  | .nestSub _ _ => false
  | .nestMul _ _ => false
  | .nestMin _ _ => false
  | .nestMax _ _ => false
  | .nestMacc _ _ => false
  | .nestRsum _ _ => false
  | .nestRmax _ _ => false
  | .nestRmin _ _ => false
  | .nestBeat => true
  | .laneBeatWrite => true
  | .resultWriteback => true
  | .loadReturn => true
  | .icacheFill => true
  | .forwardedIssue => true
  | .cascFormed => true
  | .residency => true
  | .priorityAgeing => true
  | .livePreempt => true
  | .contextSaved => true
  | .owedReturnSaved => true
  | .contextRestore => true
  | .matrixPark => true
  | .parkedRunResume => true
  | .sendAccept => true
  | .sendRetry => true
  | .sendRelease => true
  | .sendAck => true
  | .basinExamine => true
  | .ringRefillReturn => true
  | .dequeTake => true
  | .thirstRound => true
  | .thirstBackoffExpiry => true
  | .thirstArrival => true
  | .stealAnswer => true
  | .trackerChange => true
  | .launchDispatch => true
  | .huskRequest => true
  | .huskCopyDone => true
  | .ttSlot => true
  | .ttCompletionReport => true
  | .wcDrain => true
  | .writeAck => true
  | .fenceComplete => true
  | .tlbWalkDone => true
  | .l2Request => true
  | .l2Fill => true
  | .remotePoolAccess => true
  | .eccError => true
  | .selftestDone => true
  | .tlbinvComplete => true
  | .pinwaitDone => true
  | .wayRemoval => true
  | .copyAccept => true
  | .copySourceRead => true
  | .copyReadReturn => true
  | .landingWrite => true
  | .guardEntryFree => true
  | .mcJoinArrival => true
  | .mcJoinAck => true
  | .mcStreamRequest => true
  | .mcStreamLineSend => true
  | .mcReplicate => true
  | .mcCopyDrop => true
  | .mcLineLand => true
  | .mcCatchupRead => true
  | .mcStreamIdle => true
  | .routerForward => true
  | .inputTimerExpiry => true
  | .acornMove => true
  | .acornCapture => true
  | .overflowDelivery => true
  | .drainRecord => true
  | .governorReport => true
  | .subnetEnable => true
  | .subnetDisable => true
  | .linkRetry => true
  | .malformedPacket => true
  | .laucInbound => true
  | .laucCredit => true
  | .mergePartial => true
  | .mergeJoinArrival => true
  | .matrixAccept => true
  | .matrixStep => true
  | .systolicWaitTimeout => true
  | .precisionMessage => true
  | .chainOutput => true
  | .cisternDeposit => true
  | .matrixCompletion => true
  | .matrixFreeze => true
  | .matrixSelftest => true
  | .addwUpdate => true
  | .chainBlockRead => true
  | .gateListArrival => true
  | .routeToken => true
  | .snapshotTake => true
  | .gather => true
  | .groupPlace => true
  | .combineSlotFill => true
  | .layerDone => true
  | .tileGate => true
  | .tileWake => true
  | .stealWakeExpiry => true
  | .messageWindowWrite => true
  | .memoryWindowAccess => true
  | .refusedHostAccess => true
  | .journalRegionRead => true
  | .journalWrite => true
  | .jtailWrite => true
  | .timeadjWrite => true
  | .hostRegisterWrite => true
  | .pageFaultForward => true
  | .pageFaultReply => true
  | .overflowEntryFree => true
  | .ptpLockStep => true
  | .mboxRelease => true
  | .mboxNetctl => true
  | .mboxCounter => true
  | .mboxOverflowCounts => true
  | .mboxFreeOverflow => true
  | .mboxSelftest => true
  | .mboxEvictSlot => true
  | .mboxQuote => true
  | .mboxFramePool => true
  | .mboxGrantRange => true
  | .powerOn => true
  | .thermalThrottle => true
  | .thermalTrip => true
  | .powerLoss => true
  | .temperatureFall => true
  | .ptpTimeAdjustment => true
  | .thresholdTuning => true
  | .drainRingReadback => true
  | .trackerAcknowledgement => true
  | .statusResultWrite => true
  | .writeRefusalResend => true

end Sys2Proof.Machine
end

