-- ==== Sys2Proof/Machine/Sched.lean ====
section
/-!
DEFINITION. Fetch (R25 to R30) and the choice of what moves next: a due event, a unit that is ready, or the jet whose
instruction issues (R90, R91).
-/

namespace Sys2Proof.Machine

/-! ### Fetch -/

inductive Fetched where
  /-- The fetch raises a fault. -/
  | fault (f : Flt)
  /-- The line is not in the instruction cache (R29). -/
  | miss
  | instr (i : Instr)
  deriving DecidableEq, Repr

/-- Fetching the instruction at a jet's program counter: an entry fault (R28), fetch alignment (R25), then the decoder (R42). -/
def Tile.fetch (x : Tile) (j : Jet) : Fetched :=
  if j.start = some 2 || fld j.pc.toNat 0 2 != 0 || j.pc.toNat % 32 = 28 then .fault { cause := 2, addr := j.pc.toNat }
  else
    match x.iline j.pc with
    | none => .miss
    | some l =>
      let n := lenBytes (fld (l.bytes j.pc 2) 0 2)
      if 32 < j.pc.toNat % 32 + n then .fault { cause := 2, addr := j.pc.toNat }
      else if j.start = some 1 then .fault { cause := 1, info := 3, sub := 3 }
      else
        match decode (l.bytes j.pc n) with
        | .error c => .fault { cause := 1, info := c, sub := c }
        | .ok i => .instr i

/-- A fetch fault, or an encoding that is no instruction, traps the jet with its program counter unchanged (R25, R42, R388). -/
def State.fetchFault (s : State) (t j : Nat) (f : Flt) : State :=
  { s.trapAt t j f (s.jet t j).pc (s.jet t j).pc with turn := .scan }

/-! ### The hold on a jet's next instruction (R67, R68, R90, R131) -/

/-- Whether two runs of slices share a 16-slice granule. -/
def granMeet (a b : Nat × Nat) : Bool :=
  decide (0 < a.2) && decide (0 < b.2) && decide (a.1 / 16 ≤ (b.1 + b.2 - 1) / 16) && decide (b.1 / 16 ≤ (a.1 + a.2 - 1) / 16)
def granMeetAny (l m : List (Nat × Nat)) : Bool := l.any fun a => m.any fun b => granMeet a b

/-- Runs of slices in pending-write, and masks that are pending (R67, R131). -/
def Jet.pendWrite (j : Jet) : List (Nat × Nat) := (j.owed.filter fun o => !o.fixed).flatMap (·.dst)
def Jet.pendMasks (j : Jet) : List Nat := (j.owed.filter fun o => !o.fixed).flatMap (·.mdst)

/-- Runs of slices in pending-read (R67). -/
def Tile.pendRead (x : Tile) (j : Jet) (tc : Nat) : List (Nat × Nat) :=
  ((j.pend.filter fun p => decide (tc ≤ p.till)).flatMap (·.rng)) ++
    ((x.acc.filter fun a => a.jet == j.key && a.stage != 3).flatMap (·.gather)) ++
    ((x.nests.filter fun n => n.key == j.key && !n.stopped && !n.finished).flatMap (·.src))

/-- The scoreboard holds the instruction back (R67, R131). -/
def Tile.scoreHold (x : Tile) (j : Jet) (fp : Foot) (tc : Nat) : Bool :=
  granMeetAny (fp.src ++ fp.dst) j.pendWrite || granMeetAny fp.dst (x.pendRead j tc) ||
    (fp.msrc ++ fp.mdst).any fun m => j.pendMasks.contains m

/-- Its write would complete before an earlier one that is still owed, had it issued when its stall rule first let it: it then waits until the
owed write is made (R68, log 12). -/
def Jet.orderHold (j : Jet) (fp : Foot) (tc : Nat) : Bool :=
  j.owed.any fun o => o.fixed && decide (min tc j.stallTill + fp.soonest < o.due) &&
    (granMeetAny fp.dst o.dst || fp.mdst.any fun m => o.mdst.contains m)

/-- What the structural rules ask about an instruction. -/
inductive Cls where
  | plain | divide | lane | laneDivide | nest | exit | cascxStop | casc | spill | load | store | wsig | send | copy | matrix | engine | addw | table
  deriving DecidableEq, Repr

def clsOf (i : Instr) : Cls :=
  match i with
  | .divZ .. | .divS .. | .remZ .. | .remS .. => .divide
  | .fdiv .. | .fsqrt .. => .laneDivide
  | .vadd .. | .vdif .. | .vmul .. | .vmulh .. | .vmin .. | .vmax .. | .vabs .. | .vneg .. | .vand .. | .vor .. | .vxor .. | .vnot .. | .vshl ..
  | .vshr .. | .vsar .. | .vpopc .. | .vcmp .. | .vsel .. | .vmov .. | .fadd .. | .fsub .. | .fmul .. | .ffma .. | .fmin .. | .fmax .. | .fcmp ..
  | .fexp2T .. | .fabs .. | .fneg .. | .vperm .. | .vbcast .. | .vred .. | .vscan .. | .vcmpr .. | .vexpd .. | .fcvtBf .. | .fcvtF .. | .icvtF ..
  | .fcvtI .. | .qnt .. | .dqnt .. | .bpack .. | .bunpk .. => .lane
  | .nestMov .. | .nestAdd .. | .nestSub .. | .nestMul .. | .nestMin .. | .nestMax .. | .nestMacc .. | .nestRsum .. | .nestRmax .. | .nestRmin .. =>
    .nest
  | .exit .. => .exit
  | .cascxStop .. => .cascxStop
  | .casc .. => .casc
  | .spill .. | .fill .. => .spill
  | .ldZ .. | .ldS .. | .ldAcqZ .. | .ldAcqS .. | .amo .. | .amoAr .. | .amoAgg .. | .crd .. => .load
  | .st .. | .stRel .. | .cclr .. => .store
  | .wsig .. => .wsig
  | .send .. | .sendRel .. | .sendRelAll .. | .sendc .. | .arm .. => .send
  | .cpy .. | .cpyCmp .. => .copy
  | .mx .. => .matrix
  | .mcrd .. | .xgo .. => .engine
  | .actl .. => .table
  | .addw .. => .addw
  | _ => .plain

/-- The bytes an access of memory names: address, size, whether it writes, its kind override. -/
def reachOf (i : Instr) (j : Jet) : Option (Nat × Nat × Bool × KindOv) :=
  let f := j.frame
  let stream (o : MemF) (fill : Bool) : Option (Nat × Nat × Bool × KindOv) :=
    let p := j.spillFrom o fill
    let na := (p.na + 16 * p.beat) % 2 ^ 64
    some (na / 2, (spillLen o - 16 * p.beat + na % 2 + 1) / 2, !fill, o.kind)
  match i with
  | .ldZ _ o | .ldS _ o | .ldAcqZ _ o | .ldAcqS _ o => some (MemF.ea o f, MemF.nb o, false, o.kind)
  | .st _ o | .stRel _ o => some (MemF.ea o f, MemF.nb o, true, o.kind)
  | .amo _ o | .amoAr _ o | .amoAgg _ o => some (MemF.ea o f, MemF.nb o, true, o.kind)
  | .wsig _ o => some (o.a.get f, 8 * 2 ^ o.size.toNat, true, .page)
  | .spill _ o => stream o false
  | .fill _ o => stream o true
  | _ => none

def Access.pending (a : Access) : Bool := a.stage != 2 || a.parts.any fun p => !p.performed

/-- Accesses whose faults are not excluded yet (R388). -/
def Tile.openFaults (x : Tile) (key : Nat) : Nat :=
  (x.acc.filter fun a => a.jet == key && a.beat.isNone &&
    match a.op with
    | .store | .wsigFlag | .addw .. => a.stage != 2
    | .pref => false
    | _ => true).length

/-- What the address of an access holds it back for: a strict access one at a time (R227), a full write-combining buffer (R216), held writes
(R247). The second is what makes the buffer's oldest entry drain. -/
def State.reachHold (s : State) (t : Nat) (j : Jet) (i : Instr) : Bool × Bool :=
  let x := s.tile t
  match reachOf i j with
  | none => (false, false)
  | some (va, nb, wr, ov) =>
    match s.partsOf t (if wr then .write else .read) ov false va nb with
    | .error _ => (false, false)
    | .ok l =>
      let strict := l.any Access.strictPart && x.acc.any fun a => a.jet == j.key && (s.partsAhead t a).any fun q => Access.strictPart q && !q.performed
      let full := (clsOf i == .store || clsOf i == .spill && wr) && decide (32 ≤ x.wc.length) && l.any fun p => p.path == .cached && !x.wcLine (p.addr / 128)
      let held := wr && decide (8 ≤ x.heldWrites.length) &&
        l.any fun p => p.path == .pool && p.pool == 1024 * s.dev.device.toNat + t && x.guardWrite t p.addr p.nb (s.dev.device.toNat, t)
      (strict || full || held, full)

/-- A fence of the jet that has not completed (R270). -/
def Tile.fenceHolds (x : Tile) (key : Nat) (all : Bool) : Bool := x.fences.any fun f => f.jet == key && (!all || f.all)

/-- Whether a `nest` of the tile has beats to start. -/
def Tile.nestRuns (x : Tile) : Bool := x.nests.any fun n => !n.stopped && !n.finished

/-- The structural rule of an instruction holds it back (R90). -/
def State.structHold (s : State) (t slot : Nat) (i : Instr) : Bool :=
  let x := s.tile t
  let j := x.jet slot
  let pc := j.fetchPc
  let laneBusy := decide (s.tc < x.laneBusy) || x.nestRuns
  let idle := j.pendWrite.isEmpty && j.pendMasks.isEmpty && (x.pendRead j s.tc).isEmpty &&
    !(j.owed.any fun o => o.fixed && !(o.dst.isEmpty && o.mdst.isEmpty))
  let out := decide (32 ≤ x.weir.outbound.length)
  let faults := decide (32 ≤ x.openFaults j.key)
  match clsOf i with
  | .plain => false
  | .divide => decide (s.tc < x.divBusy)
  | .lane => laneBusy
  | .laneDivide => laneBusy || decide (s.tc < x.fdivBusy)
  | .nest => laneBusy || x.nests.any fun n => n.key == j.key && !(n.stopped && n.pc == pc)
  | .exit => !idle
  | .cascxStop => (match j.casc with | .follower _ _ _ => true | _ => false) && !idle
  | .casc => !(j.pendWrite.isEmpty && j.pendMasks.isEmpty)
  | .spill => x.fenceHolds j.key true || (s.reachHold t j i).1 ||
      x.acc.any fun a => a.jet == j.key && a.beat.isSome && some a.pc == j.spill.map (·.pc) && a.stage != 3 &&
        (a.stage != 2 || a.cause != 0 || a.parts.any fun q => !a.doneAt .tile q)
  | .load => x.fenceHolds j.key true || faults || (s.reachHold t j i).1
  | .store => x.fenceHolds j.key true || faults || (s.reachHold t j i).1
  | .wsig => x.fenceHolds j.key false || faults || (s.reachHold t j i).1
  | .send => x.fenceHolds j.key false || out
  | .copy => x.fenceHolds j.key false || decide (2 ≤ x.copyQ.length)
  | .matrix => x.fenceHolds j.key false || decide (2 ≤ x.mx.localQ.length)
  | .engine => x.fenceHolds j.key false
  | .addw => x.fenceHolds j.key true || decide (8 ≤ x.addws.length)
  | .table => x.fenceHolds j.key true

/-- A jet begins to execute an interrupted instruction again, where it has one (R388). -/
def Jet.startReplay (j : Jet) : Jet :=
  match j.replay with
  | [] => j
  | i :: r => { j with replay := r, contPc := some j.pc, pc := i.pc, replayOrd := i.ord }

/-- Whether nothing but its turn keeps a jet from issuing `i` in this tc (R90). -/
def State.mayIssue (s0 : State) (t slot : Nat) (i : Instr) : Bool :=
  let s := s0.modJet t slot Jet.startReplay
  let x := s.tile t
  let j := x.jet slot
  let fp := footOf i { s with curTile := t, curSlot := slot }
  !x.scoreHold j fp s.tc && !j.orderHold fp s.tc && !s.structHold t slot i

def Jet.isFollower (j : Jet) : Bool := match j.casc with | .follower _ _ _ => true | _ => false

/-- A leader waits while a follower's queue of four is full (R99). Instructions still on the links count in it, the model's choice (log 26). -/
def State.queuesFull (s : State) (t : Nat) (j : Jet) : Bool :=
  match j.casc with
  | .leader dir n => (s.followers t j.key dir n).any fun e => decide (4 ≤ (s.jet e.2.1 e.2.2).fwdQ.length)
  | _ => false

/-- The instruction a jet would issue next. -/
def Tile.nextOf (x : Tile) (j : Jet) : Fetched := x.fetch { j with pc := j.fetchPc }

/-- Whether the jet in a slot is a candidate (R90). -/
def State.candidate (s : State) (t slot : Nat) : Bool :=
  let x := s.tile t
  let j := x.jet slot
  j.status == .running && !j.isFollower && decide (j.stallTill ≤ s.tc) && !s.queuesFull t j &&
    match x.nextOf j with
    | .fault _ => true
    | .miss => false
    | .instr i => s.mayIssue t slot i

/-- Whether a follower may issue its oldest forwarded instruction (R91, R99). -/
def State.forwardable (s : State) (t slot : Nat) : Bool :=
  let j := s.jet t slot
  j.status == .running && decide (j.stallTill ≤ s.tc) &&
    match j.fwdQ with
    | (c, i, _) :: _ => decide (c ≤ s.tc) && s.mayIssue t slot i
    | [] => false

/-! ### The choice of R91 -/

/-- The oldest of some slots: the earliest residency. -/
def Tile.oldest (x : Tile) (l : List Nat) : Option Nat :=
  l.foldl (fun (b : Option Nat) k =>
    match b with
    | none => some k
    | some m => if (x.jet k).resident < (x.jet m).resident then some k else b) none

/-- The rank of a role in the order service, loader, compute, epilogue; the codes are 00 loader, 01 compute, 10 epilogue, 11 service (R28). -/
def roleRank (r : BitVec 2) : Nat := (r.toNat + 1) % 4

/-- The first of the slots behind `last`, wrapping. -/
def afterSlot (last : Option Nat) (l : List Nat) : Option Nat :=
  let k := match last with | some k => k + 1 | none => 0
  ((List.range 8).map fun i => (k + i) % 8).find? fun i => l.contains i

/-- The candidate that issues (R91). -/
def Tile.choose (x : Tile) (c : List Nat) : Option Nat :=
  let best := c.foldl (fun (m : Nat) k => min m (roleRank (x.jet k).role)) 4
  let k := c.filter fun i => roleRank (x.jet i).role == best
  let n := if k.all fun i => (x.jet i).yieldMark then k else k.filter fun i => !(x.jet i).yieldMark
  -- the slot in which the jet that issued last is now
  let now := x.last.bind fun l => x.slotOf l.2
  if x.issuectl.getLsbD 0 then afterSlot (now.or (x.last.map (·.1))) n
  else match now with
    | some l => if n.contains l then some l else x.oldest n
    | none => x.oldest n

/-- Candidates that were passed over wait, and their yield marks end (R91). The 12-bit wait count stops at 4,095, the model's choice (log 26). -/
def Tile.passed (x : Tile) (c : List Nat) (pick : Nat) : Tile :=
  let y := c.foldl (fun (x : Tile) k => x.modJet k fun j => { j with wait := if k = pick then j.wait else min 4095 (j.wait + 1), yieldMark := false }) x
  { y.modJet pick fun j => { j with wait := 0 } with last := some (pick, (x.jet pick).key) }

/-- The turn of a tile: the pick of R91, a forwarded instruction's as an event, or nothing. -/
def State.pickTile (s : State) (t : Nat) : Option (Instr × State) × Option State :=
  let x := s.tile t
  let slots := (List.range 8).filter fun k => (x.jet k).status == .running
  let c := slots.filter fun k => s.candidate t k
  let fwd := slots.find? fun k => (x.jet k).isFollower && s.forwardable t k
  let aged := c.filter fun k => decide (fld x.issuectl.toNat 16 12 ≤ (x.jet k).wait)
  let s1 := { s with picked := t :: s.picked }
  let issue (k : Nat) : Option State :=
    some { s1.modTile t fun x => (x.passed c k).modJet k Jet.startReplay with turn := .jet t k }
  match x.oldest aged with
  | some k => (none, issue k)
  | none =>
    match fwd with
    | some k => (some (.forwardedIssue, { s1.modTile t fun x => x.passed c k with focus := ⟨t, k, 0, 0, 0⟩ }), none)
    | none =>
      match x.choose c with
      | some k => (none, issue k)
      | none => (none, none)

/-- The first tile whose issue slot is free in this tc and that has a pick. -/
def State.pickAny (s : State) : List Nat → Option (Instr × State) × Option State
  | [] => (none, none)
  | t :: r =>
    if s.picked.contains t then s.pickAny r
    else match s.pickTile t with
      | (none, none) => s.pickAny r
      | p => p

/-! ### What an issued instruction leaves besides its own effect -/

/-- A leader's instruction goes to its followers with the program counter it left (R99, R100). -/
def State.relay (before after : State) (t j : Nat) (i : Instr) : State :=
  match (before.jet t j).casc with
  | .leader dir n =>
    if (after.jet t j).status = .suspended then after
    else after.forwardTo t (before.jet t j).key dir n i (after.jet t j).pc ((before.jet t j).outcomeOf i)
  | _ => after

/-- The turn passes on after an instruction of a jet. -/
def State.issued (s : State) (t j : Nat) (i : Instr) (o : Out) : Out :=
  match o with
  | .next s1 => .next { (s.relay s1 t j i).modTile t fun x => x.touchLine (s.jet t j).pc with turn := .scan }
  | .fault r => .fault r
  | .refused r => .refused r

/-- The turn passes on after a forwarded instruction: the follower takes the leader's path, and notes where its own outcome differed (R100). -/
def State.followed (t j : Nat) (pc : BitVec 64) (differs : Bool) (o : Out) : Out :=
  match o with
  | .next s1 => .next { s1.modJet t j fun x =>
      if x.status = .running then { x with cdis := x.cdis || differs, pc := pc } else x with turn := .scan }
  | .fault r => .fault r
  | .refused r => .refused r

/-- A turn is a running jet's, or the machine's (R91, R100). -/
def State.turnOk (s : State) : Bool :=
  match s.turn with
  | .scan => true
  | .jet t j => (s.jet t j).status == .running
  | .forward t j _ _ _ => (s.jet t j).status == .running

/-- A turn that no running jet can take is the machine's. -/
def State.passOn (s : State) : State := if s.turnOk then s else { s with turn := .scan }

/-- The turn passes on after an event. -/
def State.happened (o : Out) : Out :=
  match o with
  | .next s1 => .next s1.passOn
  | .fault r => .fault r
  | .refused r => .refused r

/-! ### Units that are ready -/

/-- The event `e` with its focus, where its condition holds and it has not been served in this network cycle. -/
def State.rdy (s : State) (e : Instr) (f : Focus) (c : Bool) : Option (Instr × Focus) :=
  if c && !s.served.contains (f, e) then some (e, f) else none

def fo (a : Nat) : Focus := ⟨a, 0, 0, 0, 0⟩

/-- The first of several that is there. -/
def firstOf (l : List (Option (Instr × Focus))) : Option (Instr × Focus) := l.findSome? id

/-- A store of a jet waits for room in the write-combining buffer: its oldest entry drains (R216). -/
def State.wcWanted (s : State) (t : Nat) : Option Nat :=
  let x := s.tile t
  if x.wc.length < 32 then none
  else if x.jets.any fun e => e.2.status == .running && !e.2.isFollower && decide (e.2.stallTill ≤ s.tc) &&
      (match x.nextOf e.2 with | .instr i => (s.reachHold t e.2 i).2 | _ => false) then
    (x.wc.find? fun e => !x.unackedLine e.line).map (·.line)
  else none

/-- What has arrived at a tile. -/
def State.readyIn (s : State) (t : Nat) (x : Tile) : Option (Instr × Focus) :=
  firstOf
    [s.rdy .sendAccept ⟨t, 0, 0, 0, 0⟩ (!x.weir.netIn.isEmpty),
     s.rdy .sendAccept ⟨t, 1, 0, 0, 0⟩ (match x.weir.localIn with | m :: _ => decide (m.1 ≤ s.nc) | [] => false),
     x.weir.asks.findSome? fun e => s.rdy .statusResultWrite ⟨t, e.2.1, e.2.2.1, 9, e.2.2.2.toNat⟩ (decide (e.1 ≤ s.tc)),
     x.poolIn.findSome? fun q => s.rdy .remotePoolAccess ⟨t, q.tile, q.acc, q.part, 0⟩ (x.poolReady s.dev.device.toNat t s.nc q),
     s.rdy .thirstArrival (fo t) (x.workHead s.nc WorkMsg.isThirst).isSome,
     s.rdy .trackerChange (fo t) (x.workHead s.nc WorkMsg.isTrack).isSome,
     s.rdy .stealAnswer (fo t) (x.canAnswer s.nc),
     s.rdy .trackerAcknowledgement (fo t) (x.workHead s.nc WorkMsg.isAck).isSome,
     s.rdy .wayRemoval (fo t) x.wayDue]

/-- The copy engine and the multicast interface of a tile. -/
def State.readyCopy (s : State) (t : Nat) (x : Tile) : Option (Instr × Focus) :=
  firstOf
    [s.rdy .landingWrite (fo t) (s.lander t).isSome,
     s.rdy .mcLineLand (fo t) (s.canLandLine t),
     s.rdy .mcStreamIdle (fo t) (s.mcIdle t).isSome,
     s.rdy .mcCatchupRead (fo t) x.mcCatchup.isSome,
     s.rdy .guardEntryFree (fo t) (s.guardWaiter t).isSome,
     s.rdy .copyAccept (fo t) (s.copyHead t).isSome,
     s.rdy .copySourceRead (fo t) (x.reader s.tc).isSome]

/-- The matrix engine of a tile; its test and a parked run come before a new command (R326, R327). -/
def State.readyMatrix (s : State) (t : Nat) (x : Tile) : Option (Instr × Focus) :=
  let run (f : Run → Bool) : Bool := match x.mx.run with | some r => f r | none => false
  firstOf
    [s.rdy .matrixSelftest (fo t) (s.mxTestDue t),
     s.rdy .parkedRunResume (fo t) x.mxResumes,
     s.rdy .matrixFreeze (fo t) x.mxFreezes,
     s.rdy .systolicWaitTimeout (fo t) (run fun r => r.timedOut s.tc),
     s.rdy .precisionMessage (fo t) (run Run.precDue),
     s.rdy .matrixStep (fo t) (s.mxStepDue t),
     s.rdy .chainOutput (fo t) (run fun r => r.rowDue s.tc),
     s.rdy .cisternDeposit (fo t) (x.depositDue s.dev.device.toNat t s.tc),
     s.rdy .matrixPark (fo t) x.parks,
     s.rdy .matrixCompletion (fo t) (x.mxComplete s.tc),
     s.rdy .matrixAccept (fo t) (s.mxHead t).isSome]

/-- Matching, and work becoming resident: one record or task a tc, ready records first (R87, R183). -/
def State.readyWork (s : State) (t : Nat) (x : Tile) : Option (Instr × Focus) :=
  let up := !x.gated && !x.inReset
  let took := x.took s.tc
  firstOf
    [s.rdy .basinExamine ⟨t, (x.dueExamine s.tc).getD 0, 0, 0, 0⟩ (x.dueExamine s.tc).isSome,
     s.rdy .launchDispatch (fo t) (s.dispatchable t).isSome,
     (x.ageing s.dev.time).bind fun q => s.rdy .priorityAgeing ⟨t, q.id, 0, 0, 0⟩ up,
     s.rdy .residency (fo t) (!took && s.canReside t),
     s.rdy .dequeTake (fo t) (!took && s.canTake t),
     s.rdy .livePreempt (fo t) (up && s.preemptReady t),
     x.saveDue.bind fun e => s.rdy .contextSaved ⟨t, e.1, 0, 0, 0⟩ true,
     s.rdy .thirstRound (fo t) (x.canThirst s.tc && !s.gates t)]

/-- What leaves a tile, and its power. -/
def State.readyOut (s : State) (t : Nat) (x : Tile) : Option (Instr × Focus) :=
  firstOf
    [x.fences.findSome? fun (f : FenceSt) => s.rdy .fenceComplete ⟨t, f.upTo, 0, 0, 0⟩ f.ripe,
     x.wc.findSome? fun (e : WcEntry) => s.rdy .wcDrain ⟨t, e.line, 0, 0, 0⟩ (x.wcRipe s.tc e),
     (s.wcWanted t).bind fun l => s.rdy .wcDrain ⟨t, l, 0, 0, 0⟩ true,
     (if x.releaseIx.isSome then some (.sendRelease, ⟨t, 0, 0, 0, 0⟩) else none),
     s.rdy .sendRelease ⟨t, 1, 0, 0, 0⟩ x.workIx.isSome,
     s.rdy .sendRetry ⟨t, 0, 0, 0, 0⟩ (x.weir.outbound.any fun o => o.retry),
     s.rdy .mcStreamRequest ⟨t, 1, 0, 0, 0⟩ (x.mcReady s.tc).isSome,
     s.rdy .stealWakeExpiry (fo t) (s.wakeDue t && x.waking == 0),
     s.rdy .tileGate (fo t) (s.gates t)]

/-- Events of a tile, in a tile cycle: arrivals, engines, matching and takes, then what leaves. -/
def State.readyTile (s : State) (t : Nat) (x : Tile) : Option (Instr × Focus) :=
  ((((s.readyIn t x).or (s.readyCopy t x)).or (s.readyMatrix t x)).or (s.readyWork t x)).or (s.readyOut t x)

/-- Events of a stop in this network cycle. Joins, lists and copies come before packets move on. -/
def State.readyStop (s : State) (q : Nat) (x : Stop) : Option (Instr × Focus) :=
  firstOf
    [s.rdy .mcJoinArrival (fo q) (!x.joinIn.isEmpty),
     s.rdy .mergeJoinArrival (fo q) x.nextJoin.isSome,
     s.rdy .mergePartial (fo q) ((s.treeReady q).isSome || x.nextPartial.isSome),
     s.rdy .gateListArrival (fo q) (s.gateReady q).isSome,
     s.rdy .l2Request (fo q) (!x.l2In.isEmpty),
     s.rdy .mcStreamRequest ⟨q, 0, 0, 0, 0⟩ x.streamReady,
     s.rdy .mcStreamLineSend ⟨q, 0, 0, 0, 0⟩ (x.streamReads s.nc).isSome,
     s.rdy .mcStreamLineSend ⟨q, 1, 0, 0, 0⟩ (x.streamDue s.nc).isSome,
     (s.replicable q).bind fun e => s.rdy .mcReplicate ⟨q, e.1, 0, 0, 0⟩ true,
     s.rdy .mcCopyDrop (fo q) (s.staleCopy q).isSome,
     (if s.canForward q then some (.routerForward, fo q) else none),
     (s.expiring q).bind fun k => s.rdy .inputTimerExpiry ⟨q, k, 0, 0, 0⟩ true]

/-- Whether the captured packet can be delivered now (R286, R287). -/
def State.canDeliver (s : State) : Bool :=
  match s.dev.acorn.held with
  | none => false
  | some c =>
    let q := s.drainStop c.packet
    s.drainDue c && !(c.full && c.packet.ddev == s.dev.device.toNat &&
      (Tbl.get none (s.stop q).reserved (endpointIx c.packet.dport)).isSome && decide (65536 ≤ (s.die (dieOf q)).drainRing.length))

/-- Events of the dies' fabric in this network cycle. -/
def State.readyFabric (s : State) : Option (Instr × Focus) :=
  let free := s.dev.acorn.held.isNone && decide (s.dev.acorn.wait ≤ s.nc)
  firstOf
    [s.fabricStop.map fun q => (.routerForward, fo q),
     s.laucHead.map fun e => (if e.2 then .malformedPacket else .laucInbound, fo e.1),
     s.rdy .overflowDelivery (fo 0) s.canDeliver,
     s.rdy .acornCapture (fo 0) s.acornWanted,
     s.rdy .acornMove (fo 0) free,
     s.rdy .drainRingReadback (fo 0) s.readback.isSome,
     (List.range 4).findSome? fun (d : Nat) => s.rdy .governorReport (fo d) (decide (s.nc % 256 = 0) && decide (0 < s.nc)),
     (List.range 4).findSome? fun (d : Nat) => s.rdy .subnetDisable (fo d) (s.drainedSub d).isSome]

/-- Events of an expert chain. -/
def State.readyChain (s : State) (k : Nat) : Option (Instr × Focus) :=
  firstOf
    [s.rdy .snapshotTake (fo k) (s.snapDue k),
     s.rdy .chainBlockRead (fo k) (s.blockReady k),
     s.rdy .routeToken (fo k) (s.nextGate k).isSome,
     s.rdy .gather (fo k) (s.gatherDue k || s.gatherFailed k),
     s.rdy .groupPlace ⟨k, 0, 0, 0, 0⟩ (s.placeDue k),
     s.rdy .groupPlace ⟨k, 1, 0, 0, 0⟩ (!(s.toEnter k).isEmpty || (s.toSend k).isSome),
     s.rdy .combineSlotFill ⟨k, 1, 0, 0, 0⟩ (s.rowDue k),
     s.rdy .layerDone (fo k) (s.layerOver k)]

/-- Events of the host interface agent, of Skelon and of the husk master. -/
def State.readyDev (s : State) : Option (Instr × Focus) :=
  firstOf
    [s.rdy .pageFaultForward (fo 0) (!s.dev.pfIn.isEmpty),
     (if s.canJournal then some (.journalWrite, fo 0) else none),
     s.rdy .huskRequest (fo 0) (s.dev.huskCopy.isNone && s.dev.huskQ.any fun r => decide (r.arriveAt ≤ s.nc)),
     s.ttDue.map fun i => (.ttSlot, fo i),
     s.rdy .sendRelease ⟨0, 2, 0, 0, 0⟩ s.dev.hostReady.isSome,
     s.rdy .sendRetry ⟨0, 1, 0, 0, 0⟩ (s.dev.hostSent.any fun e => e.2),
     s.drainOwed.bind fun d => s.rdy .drainRecord (fo d) true]

/-- The tiles of the device in rising number, those never written with the contents of a tile that has been reset. -/
def tilesFrom : Nat → Nat → Tbl Tile → List (Nat × Tile)
  | 0, _, _ => []
  | n + 1, k, [] => (k, Tile.reset) :: tilesFrom n (k + 1) []
  | n + 1, k, (i, x) :: r => if i = k then (k, x) :: tilesFrom n (k + 1) r else (k, Tile.reset) :: tilesFrom n (k + 1) ((i, x) :: r)

def State.allTiles (s : State) : List (Nat × Tile) := tilesFrom Config.tiles 0 s.tiles

/-- The first unit that is ready, in the order: the host's and Skelon's, the network's, the chains', the tiles' (log 9). Units of tiles, of the
chains and of the agent act in tile cycles. -/
def State.ready (s : State) : Option (Instr × Focus) :=
  let even := s.nc % 2 = 0
  firstOf
    [if even then s.readyDev else none,
     s.readyFabric,
     s.stops.findSome? fun e => s.readyStop e.1 e.2,
     if even then (List.range 8).findSome? s.readyChain else none,
     if even then s.allTiles.findSome? fun e => s.readyTile e.1 e.2 else none]

/-- The event that reaches a device with no power. -/
def wakes (e : Instr) : Bool := match e with | .powerOn => true | _ => false

/-- The next event: one that is due, else a unit that is ready, else a forwarded instruction that is picked. Without power there is only what
comes from outside. -/
def State.nextEvent (s : State) : Option (Instr × State) :=
  match s.agenda with
  | (d, f, e) :: r =>
    if d ≤ s.nc then (if s.dev.powered || wakes e then some (e, { s with agenda := r, focus := f }) else none)
    else if !s.dev.powered then none
    else s.ready.map fun p => (p.1, { s with focus := p.2, served := (p.2, p.1) :: s.served })
  | [] =>
    if !s.dev.powered then none
    else s.ready.map fun p => (p.1, { s with focus := p.2, served := (p.2, p.1) :: s.served })

/-! ### The passing of time -/

/-- A follower with no cascade left to serve goes on independently (R101). -/
def State.orphan (s : State) (j : Jet) : Bool :=
  match j.casc with
  | .follower t key _ => j.fwdQ.isEmpty &&
      !(s.tile t).jets.any fun e => e.2.key == key && e.2.status != .free && (match e.2.casc with | .leader _ _ => true | _ => false)
  | _ => false

/-- The lines of code that jets of a tile wait for and that are not on their way. -/
def Tile.missing (x : Tile) : List Nat :=
  (x.jets.filterMap fun e =>
    if e.2.status == .running && !e.2.isFollower then
      match x.nextOf e.2 with
      | .miss => some (e.2.fetchPc.toNat / 128)
      | _ => none
    else none).dedup.filter fun l => !x.ifetch.contains l

/-- A tile at the start of a tile cycle: ways ripen, accesses go on, refills and fetches begin, followers without a leader go on. -/
def State.tickTile (s : State) (t : Nat) : State :=
  let s0 := s.modTile t fun _ =>
    let y := s.ripenWays t
    { y with refused := y.refused && y.thirsty s.tc, jets := y.jets.map fun e => (e.1, { e.2 with
        pend := e.2.pend.filter fun p => decide (s.tc ≤ p.till), casc := if s.orphan e.2 then .none else e.2.casc }) }
  let s1 := s0.tcAccess t
  let s2 := ((s1.tile t).liveBasins.map (·.1)).foldl (fun (s : State) b => s.startRefill t b) s1
  (s2.tile t).missing.foldl (fun (s : State) l => s.startFetch t l) s2

/-- Nothing is due: the time moves on, to the next tile cycle with its even network cycle. -/
def State.tick (s : State) : State :=
  -- nothing that comes to a dark device reaches it but its power
  let s1 := { s with
    nc := s.nc + 1, served := [], picked := []
    agenda := if s.dev.powered then s.agenda else s.agenda.filter fun e => decide (s.nc < e.1) || wakes e.2.2 }
  if !s1.dev.powered || s1.nc % 2 = 1 then s1
  else
    let s2 := s1.modDev fun d => d.tick (Config.freeNs s1.tc)
    let s3 := (List.range 4).foldl (fun (s : State) d => s.modDie d fun x => { x with curlayer := x.curNext.getD x.curlayer, curNext := none }) s2
    (s3.tiles.map (·.1)).foldl (fun (s : State) t => s.tickTile t) s3

/-- No event comes: the turn of a jet, a forwarded instruction, or the time. -/
def State.nextTurn (s : State) : Option (Instr × State) × State :=
  if s.nc % 2 = 1 || !s.dev.powered then (none, s.tick)
  else
    match s.pickAny (s.tiles.map (·.1)) with
    | (some e, _) => (some e, s)
    | (none, some s1) => (none, s1)
    | (none, none) => (none, s.tick)

/-- A running jet at the start of a block whose line of code holds the instruction `w`, 32 bytes with zeros above it. -/
def Tile.placeCode (x : Tile) (j w : Nat) : Tile :=
  let jet := x.jet j
  let pc := BitVec.ofNat 64 (jet.pc.toNat / 32 * 32)
  let at_ := 8 * (pc.toNat % 128)
  let old := ((x.iline pc).map (·.data)).getD 0
  let data := old % 2 ^ at_ + (w % 2 ^ 256) * 2 ^ at_ + old / 2 ^ (at_ + 256) * 2 ^ (at_ + 256)
  { x.setJet j { jet with status := .running, pc := pc, start := none, grans := if jet.grans = 0 then 128 else jet.grans } with
    icache := ⟨lineOf pc, data⟩ :: x.icache.filter fun l => l.va != lineOf pc }

end Sys2Proof.Machine
end

