-- ==== Sys2Proof/Machine/Step.lean ====
section
/-!
DEFINITION. One step of the machine, and the state in which a given instruction is the next one.
-/

namespace Sys2Proof.Machine

/-- One step: the jet whose turn it is issues its instruction; otherwise an event comes, or the turn or the time moves on. -/
def step (s : State) : Host.Outcome State Fault Refusal :=
  match s.turn with
  | .jet t j =>
    if (s.jet t j).status = .running then
      match (s.tile t).fetch (s.jet t j) with
      | .fault f => .next (s.fetchFault t j f)
      | .miss => .next { s with turn := .scan }
      | .instr i => s.issued t j i (exec i { s with curTile := t, curSlot := j })
    else .fault .noJet
  | .forward t j i pc out =>
    if (s.jet t j).status = .running then State.followed t j pc ((s.jet t j).outcomeOf i != out) (exec i { s with curTile := t, curSlot := j })
    else .fault .noJet
  | .scan =>
    match s.nextEvent with
    | some (e, s1) => State.happened (exec e s1)
    | none =>
      match s.nextTurn with
      | (some (e, s1), _) => State.happened (exec e s1)
      | (none, s1) => .next s1.passOn

/-- The state in which the instruction with these bits is fetched and run next: a jet runs in the current slot with a frame,
at a block start, and its line of code is in the instruction cache (log 2). -/
def State.withFetchWord (s : State) (nbits w : Nat) : State :=
  ({ s with turn := .jet s.curTile s.curSlot }).modTile s.curTile fun x => x.placeCode s.curSlot (w % 2 ^ nbits)

end Sys2Proof.Machine
end

