-- ==== Sys2Proof/Safety.lean ====
section
/-!
DEFINITION. The terms in which claims about the machine are made: when an instruction's checks at issue pass, what issuing one leaves of the
machine, what it owes, what it is to round correctly, and a run that never stops.
-/

namespace Sys2Proof.Machine

/-! ### Checks at issue -/

/-- The checks that come before an instruction's own effect pass: its operands are legal and inside the frame, under checking no result
of fixed latency that it reads is still owed, and no slice that it reads is poisoned (R347, R62, R92, R224). -/
def State.admits (s : State) (i : Instr) : Bool :=
  (footOf i s).ill.isNone && (s.cur.outside (footOf i s)).isNone && (!s.here.checking || (s.cur.early (footOf i s)).isNone) &&
    (s.cur.tainted (footOf i s)).isNone

/-! ### What issuing an instruction leaves unchanged -/

/-- The issuing jet, the events still to come and the next number are all that differs, besides what `g` changes of the issuing tile: every
other jet and tile, the stops, dies and chains, the agent and every byte of memory are as before. -/
structure JetFrame (s t : State) (g : Tile → Tile) : Prop where
  rest : t = { s with tiles := t.tiles, agenda := t.agenda, nextId := t.nextId }
  others : ∀ n, n ≠ s.curTile → t.tile n = s.tile n
  tile : t.here = { g s.here with jets := t.here.jets }
  slots : ∀ k, k ≠ s.curSlot → t.here.jet k = s.here.jet k

/-- Events that are to come, added in this order. -/
def withEvents (l : List (Nat × Focus × Instr)) (es : List (Nat × Focus × Instr)) : List (Nat × Focus × Instr) :=
  es.foldl (fun l e => agendaInsert l e.1 e.2.1 e.2.2) l

/-- The issuing jet after an instruction of `len` bytes: the program counter is behind it (past a tail word), the stall rule and the yield mark
are its header's, the results `os` are owed, and nothing else of the jet differs (R26, R34, R91). -/
def Jet.behind (j : Jet) (h : Hdr) (len tc : Nat) (os : List Owed) : Jet :=
  { j with
    pc := j.contPc.getD (nextPc j.pc len)
    contPc := none
    start := none
    stallTill := tc + 1 + h.stall.toNat
    yieldMark := h.y
    owed := j.owed ++ os }

/-- The issuing jet after a branch that goes to `target`. -/
def Jet.jumped (j : Jet) (h : Hdr) (target : BitVec 64) (tc : Nat) (os : List Owed) : Jet :=
  { j with
    pc := target
    contPc := none
    start := none
    stallTill := tc + 1 + h.stall.toNat
    yieldMark := h.y
    owed := j.owed ++ os }

/-- An instruction of `len` bytes has issued: `os` is owed, the events `es` will come, `g` is all it changed of its tile. -/
structure Issued (s t : State) (h : Hdr) (len : Nat) (g : Tile → Tile) (os : List Owed) (es : List (Nat × Focus × Instr)) : Prop where
  frame : JetFrame s t g
  jet : t.cur = s.cur.behind h len s.tc os
  events : t.agenda = withEvents s.agenda es

/-- A branch has issued: the program counter is at `target` (R94). -/
structure Jumped (s t : State) (h : Hdr) (target : BitVec 64) (os : List Owed) (es : List (Nat × Focus × Instr)) : Prop where
  frame : JetFrame s t id
  jet : t.cur = s.cur.jumped h target s.tc os
  events : t.agenda = withEvents s.agenda es

/-! ### Results owed -/

/-- The result of fixed latency `lat` that the instruction now issuing owes: its writes `w` and its flags (R34, R92). -/
def State.fixedOwed (s : State) (lat : Nat) (w : Write) (flags : BitVec 5) : Owed :=
  { id := s.nextId, fixed := true, due := s.tc + lat, dst := w.sl.map fun e => (e.1, e.2.1), mdst := w.masks.map (·.1), w := [w],
    flags := [flags], issued := s.tc, pc := s.cur.pc, defer := false, ord := s.cur.ordOf s.nextId }

/-- The result of variable latency that the instruction now issuing owes (R67). -/
def State.varOwed (s : State) (dst : List (Nat × Nat)) (mdst : List Nat) (w : List Write) (flags : List (BitVec 5)) (defer : Bool) : Owed :=
  { id := s.nextId, fixed := false, due := 0, dst := dst, mdst := mdst, w := w, flags := flags, issued := s.tc, pc := s.cur.pc, defer := defer,
    ord := s.cur.ordOf s.nextId }

/-- The event `e` for the result that the instruction now issuing owes, `lat` tc after issue, with what else its focus says. -/
def State.evt (s : State) (lat : Nat) (e : Instr) (d data : Nat) : Nat × Focus × Instr :=
  (s.nc + 2 * lat, ⟨s.curTile, s.curSlot, s.nextId, d, data⟩, e)

/-- An instruction of fixed latency has issued: its writes are made `lat` tc after issue, and nothing else changed. -/
def Result (s t : State) (h : Hdr) (len : Nat) (g : Tile → Tile) (lat : Nat) (w : Write) (flags : BitVec 5) : Prop :=
  Issued s t h len g [s.fixedOwed lat w flags] [s.evt lat .resultWriteback 0 0]

/-- An instruction has issued whose status `v` is known: it is written to D `lat` tc after issue. -/
def Status (s t : State) (h : Hdr) (len : Nat) (g : Tile → Tile) (lat : Nat) (d : SliceOp) (v : Nat) : Prop :=
  Issued s t h len g [s.varOwed d.range [] [d.put v] [0] false] [s.evt lat .statusResultWrite 0 0]

/-- An instruction has issued whose status comes when what it set going is known: the event `e`, `lat` tc after issue. -/
def Pending (s t : State) (h : Hdr) (len : Nat) (g : Tile → Tile) (dst : List (Nat × Nat)) (lat : Nat) (e : Instr) (d data : Nat) : Prop :=
  Issued s t h len g [s.varOwed dst [] [] [] false] [s.evt lat e d data]

/-! ### Lane instructions -/

/-- A lane instruction of `nb` beats has issued (R129 to R133): it owes the result `r`; it takes the lane unit for its beats, and the divide array
for `div` tc where that is not 0; `es` are the events of its writes. -/
structure LaneIssued (s t : State) (h : Hdr) (nb div : Nat) (r : Owed) (es : List (Nat × Focus × Instr)) : Prop where
  frame : JetFrame s t fun x => { x with laneBusy := s.tc + nb, fdivBusy := if div = 0 then x.fdivBusy else s.tc + div }
  jet : t.cur = { s.cur.behind h 12 s.tc [r] with pend := t.cur.pend }
  pend : nb = 1 → t.cur.pend = s.cur.pend
  events : t.agenda = withEvents s.agenda es
  owed : r.id = s.nextId ∧ r.pc = s.cur.pc ∧ r.issued = s.tc

/-- The slices that all writes of a result make, in order, and its masks. -/
def Owed.slices (r : Owed) : List (Nat × Nat × Nat) := r.w.flatMap (·.sl)
def Owed.maskWrites (r : Owed) : List (Nat × BitVec 256) := r.w.flatMap (·.masks)
/-- The flags a result raises. -/
def Owed.raised (r : Owed) : BitVec 5 := r.flags.foldl (· ||| ·) 0

/-- A lane instruction `i` of `nb` beats completes where its checks pass and no flag enabled to trap is raised in its issue tc (R110, R129, R132,
R133): what it owes meets `ok` and raises the flags `all`; one beat is written `lat` tc after issue (one later where a slice source crosses a
granule), several beats one after another from then on, or together with the last where they are held. -/
def BeatsDone (s : State) (i : Instr) (h : Hdr) (nb lat div : Nat) (all : BitVec 5) (ok : Owed → Prop) : Prop :=
  s.admits i = true → (nb = 1 → all &&& s.here.fpten = 0) →
    ∃ t r es, exec i s = .next t ∧ LaneIssued s t h nb div r es ∧ r.raised = all ∧ ok r ∧
      (nb = 1 → r.fixed = true ∧ es = [s.evt (lat + b2n (footOf i s).cross) .resultWriteback 0 0]) ∧
      (nb ≠ 1 → r.fixed = false ∧ (s.here.fpten ≠ 0 → r.defer = true) ∧
        es = if r.defer then [s.evt (lat + nb - 1) .laneBeatWrite 0 0] else (List.range nb).map fun k => s.evt (lat + k) .laneBeatWrite 0 0)

/-- An element-wise lane instruction over `n` elements, `L` to a beat, completes: element `e` of D is to receive `(v e).1`, and the flags raised are
those of all elements. -/
def LaneDone (s : State) (i : Instr) (h : Hdr) (n L lat div : Nat) (d : Operand) (v : Nat → Nat × Nat) : Prop :=
  BeatsDone s i h (ceilDiv n L) lat div (BitVec.ofNat 5 ((List.range n).foldl (fun f e => f ||| (v e).2) 0)) fun r =>
    r.maskWrites = [] ∧ r.slices = (List.range n).flatMap (fun e => d.put e (v e).1)

/-- A lane instruction whose writes are made together `lat` tc after issue (R132): `sl` are the slices and `ms` the masks it writes, `fl` its
flags; `var` where its latency is variable even in one beat. -/
def WholeDone (s : State) (i : Instr) (h : Hdr) (nb lat : Nat) (var : Bool) (sl : List (Nat × Nat × Nat)) (ms : List (Nat × BitVec 256)) (fl : Nat) : Prop :=
  s.admits i = true → (nb = 1 → BitVec.ofNat 5 fl &&& s.here.fpten = 0) →
    ∃ t r es, exec i s = .next t ∧ LaneIssued s t h nb 0 r es ∧ r.maskWrites = ms ∧ r.raised = BitVec.ofNat 5 fl ∧ r.slices = sl ∧
      r.fixed = (decide (nb = 1) && !var) ∧
      es = if nb = 1 ∧ !var then [s.evt (lat + b2n (footOf i s).cross) .resultWriteback 0 0] else [s.evt lat .laneBeatWrite 0 0]

/-- No jet, no pool and no byte of memory differs, nor whose turn it is and when. -/
structure Kept (s t : State) : Prop where
  mem : t.mem = s.mem
  pools : ∀ n, (t.tile n).pool = (s.tile n).pool
  jets : ∀ n k, t.jet n k = s.jet n k
  time : t.nc = s.nc ∧ t.turn = s.turn ∧ t.curTile = s.curTile ∧ t.curSlot = s.curSlot

/-- The issuing jet alone differs from before: it has gone on and owes `os`; no other jet, no pool and no byte of memory differs. -/
structure WentOn (s t : State) (h : Hdr) (len : Nat) (os : List Owed) : Prop where
  mem : t.mem = s.mem
  pools : ∀ n, (t.tile n).pool = (s.tile n).pool
  jets : ∀ n k, (n, k) ≠ (s.curTile, s.curSlot) → t.jet n k = s.jet n k
  jet : t.jet s.curTile s.curSlot = s.cur.behind h len s.tc os
  time : t.nc = s.nc ∧ t.turn = s.turn ∧ t.curTile = s.curTile ∧ t.curSlot = s.curSlot

/-! ### Accesses of memory -/

/-- What asking for an access of tile `n`, and sending its parts, may change: the tile's list of accesses, its TLB and first-level caches and the
accesses at its own pool, the packets that enter the network, the dies' translation caches and walks, and the events to come. Not memory, not a pool, not a jet. -/
structure Reached (n : Nat) (s t : State) : Prop where
  rest : t = { s with tiles := t.tiles, stops := t.stops, dies := t.dies, agenda := t.agenda, nextId := t.nextId }
  others : ∀ m, m ≠ n → t.tile m = s.tile m
  tile : t.tile n = { s.tile n with tlb := (t.tile n).tlb, acc := (t.tile n).acc, poolIn := (t.tile n).poolIn, l1 := (t.tile n).l1,
                                    l1At := (t.tile n).l1At, wc := (t.tile n).wc, unacked := (t.tile n).unacked, stash := (t.tile n).stash }
  network : ∀ q, ∃ l, t.stop q = { s.stop q with inject := (s.stop q).inject ++ l }
  caches : ∀ d, t.die d = { s.die d with tcache := (t.die d).tcache, walks := (t.die d).walks }

/-- An instruction that asks for an access has issued: besides what `Reached` allows, its jet has gone on and owes `os`. `sp` is the progress of a
`spill` or `fill` (R82). -/
structure Entered (s t : State) (h : Hdr) (len : Nat) (os : List Owed) (sp : Option SpillSt) : Prop where
  rest : t = { s with tiles := t.tiles, stops := t.stops, dies := t.dies, agenda := t.agenda, nextId := t.nextId }
  others : ∀ m, m ≠ s.curTile → t.tile m = s.tile m
  tile : t.here = { s.here with jets := t.here.jets, tlb := t.here.tlb, acc := t.here.acc, poolIn := t.here.poolIn, l1 := t.here.l1,
                                l1At := t.here.l1At, wc := t.here.wc, unacked := t.here.unacked, stash := t.here.stash }
  slots : ∀ k, k ≠ s.curSlot → t.here.jet k = s.here.jet k
  jet : t.cur = { s.cur.behind h len s.tc os with spill := sp }
  network : ∀ q, ∃ l, t.stop q = { s.stop q with inject := (s.stop q).inject ++ l }
  caches : ∀ d, t.die d = { s.die d with tcache := (t.die d).tcache, walks := (t.die d).walks }

/-- The instruction `i` of `len` bytes asks for the access `r` (R214, R347, R388): where its checks pass, the access enters with its parts, or to be
walked first; the jet goes on, and owes `r.dst` where the access gives a value. Where the access is refused at once, the instruction traps. -/
def Asks (s : State) (i : Instr) (h : Hdr) (len : Nat) (r : Req) : Prop :=
  s.admits i = true →
    (∀ p, s.check s.curTile r = .ok p → ∃ t os, exec i s = .next t ∧ t = (s.enter r p true).advance h len ∧ Entered s t h len os s.cur.spill ∧
      os.map (fun o => (o.dst, o.mdst, o.w, o.fixed, o.pc)) = if r.dst = [] then [] else [(r.dst, [], [], false, s.cur.pc)]) ∧
    (∀ c, s.check s.curTile r = .error c → exec i s = .next (s.trap (dataFault c r.rep r.nb)))

/-! ### Rounding -/

/-- The real number that a finite datum stands for (R105). -/
def Fp.Is (x : Fp) (v : ℝ) : Prop :=
  match x with
  | .fin s m e => v = (if s then -1 else 1) * (m : ℝ) * (2 : ℝ) ^ e
  | _ => False

/-- A value rounds, with an unbounded exponent, beyond the largest finite value of the format of precision `p`, 2^128 − 2^(128 − p) (R106, R109). -/
def Overflows (p : Nat) (rm : Rm) (v : ℝ) : Prop :=
  let big : ℝ := 2 ^ 128 - 2 ^ (128 - p)
  match rm with
  | .rne => (2 : ℝ) ^ 128 - 2 ^ (127 - p) ≤ |v|
  | .rtz => (2 : ℝ) ^ 128 ≤ |v|
  | .rup => big < v ∨ (2 : ℝ) ^ 128 ≤ -v
  | .rdn => (2 : ℝ) ^ 128 ≤ v ∨ big < -v

/-- A value that is not zero rounds, with an unbounded exponent, to a magnitude below 2^−126 (R109). -/
def Tiny (p : Nat) (rm : Rm) (v : ℝ) : Prop :=
  let least : ℝ := 2 ^ (-126 : ℤ)
  let below : ℝ := least - 2 ^ (-126 - p : ℤ)
  match rm with
  | .rne => |v| < least - 2 ^ (-127 - p : ℤ)
  | .rtz => |v| < least
  | .rup => v ≤ below ∧ -v < least
  | .rdn => v < least ∧ -v ≤ below

/-- Of two values `r` and `u` of a format, `r`, whose bits are `x`, is the better result for `v` (R106). -/
def Better (rm : Rm) (v r : ℝ) (x : Nat) (u : ℝ) : Prop :=
  match rm with
  | .rne => |r - v| ≤ |u - v| ∧ (|r - v| = |u - v| → u ≠ r → x % 2 = 0)
  | .rtz => |r| ≤ |v| ∧ (|u| ≤ |v| → |u| ≤ |r|)
  | .rup => v ≤ r ∧ (v ≤ u → r ≤ u)
  | .rdn => r ≤ v ∧ (u ≤ v → u ≤ r)

/-- `y`, bits and flags, is the value `v`, not zero, rounded once to the format of precision `p` (R106, R109). -/
def Rounded (p : Nat) (rm : Rm) (v : ℝ) (y : Fl Nat) : Prop :=
  ∃ neg : Bool, (neg = true ↔ v < 0) ∧
    (Overflows p rm v → y = (if rm = .rne ∨ (rm = .rup ∧ neg = false) ∨ (rm = .rdn ∧ neg = true) then infBits p neg else maxBits p neg, fOf + fNx)) ∧
    (¬ Overflows p rm v → y.1 < 2 ^ (p + 8) ∧ (fpDec p y.1).isNeg = neg ∧ ∃ r, (fpDec p y.1).Is r ∧
      (∀ x u, x < 2 ^ (p + 8) → (fpDec p x).Is u → Better rm v r y.1 u) ∧
      (r = v → y.2 = 0) ∧ (r ≠ v → Tiny p rm v → y.2 = fUf + fNx) ∧ (r ≠ v → ¬ Tiny p rm v → y.2 = fNx))

/-- `n` is the value `v` rounded to an integer (R106, R116). -/
def RoundedInt (rm : Rm) (v : ℝ) (n : Int) : Prop :=
  match rm with
  | .rne => |n - v| ≤ 1 / 2 ∧ (|n - v| = 1 / 2 → n % 2 = 0)
  | .rtz => |(n : ℝ)| ≤ |v| ∧ |v| < |(n : ℝ)| + 1 ∧ 0 ≤ n * v
  | .rup => v ≤ n ∧ n < v + 1
  | .rdn => n ≤ v ∧ v < n + 1

/-! ### Runs -/

/-- A run of the machine that never stops. -/
def State.Runs (s : State) : Prop := ∀ k, ∃ t, core.run k s = .next t

end Sys2Proof.Machine
end

