-- ==== Sys2Proof/Certificates/Slice0/Obligations.lean ====
section
/-!
DEFINITION. The statements for the provers: each a proposition about the model, with the rule of the spec it formalises.
-/

open Sys2Proof Sys2Proof.Machine

/-! ### Scalar instructions -/

/-- R73, R74 with R65, R66: integer arithmetic. Each writes its exact result, cut to D's width, 1, 3 or 18 tc after issue, one later where a source
crosses a granule; a division also takes the tile's divider for 18 tc. No flag, register, tile or byte of memory changes besides.
Completes: addZ, addS, difZ, difS, mulZ, mulS, mulhZ, mulhS, minZ, minS, maxZ, maxS, divZ, divS, remZ, remS, addiZ, addiS, absS, negS. -/
def Obligations.ScalarArithmetic : Prop :=
  ∀ (h : Hdr) (o : R3) (p : R2) (imm : BitVec 32) (s : State),
    let f := s.cur.frame
    let w := o.d.width
    let az := o.a.src f false w
    let bz := o.b.src f false w
    let a := o.a.src f true w
    let b := o.b.src f true w
    let div : Tile → Tile := fun x => { x with divBusy := s.tc + 18 }
    let three (i : Instr) (lat : Nat) (g : Tile → Tile) (v : Int) : Prop :=
      s.admits i = true → ∃ t, exec i s = .next t ∧ Result s t h 8 g (lat + b2n (o.a.crosses || o.b.crosses)) (o.d.put (trunc v (4 * w))) 0
    let two (i : Instr) (len : Nat) (v : Int) : Prop :=
      s.admits i = true → ∃ t, exec i s = .next t ∧ Result s t h len id (1 + b2n p.a.crosses) (p.d.put (trunc v (4 * p.d.width))) 0
    let pz := p.a.src f false p.d.width
    let ps := p.a.src f true p.d.width
    let k := min 32 (4 * p.d.width)
    three (.addZ h o) 1 id (az + bz) ∧ three (.addS h o) 1 id (a + b) ∧
    three (.difZ h o) 1 id (az - bz) ∧ three (.difS h o) 1 id (a - b) ∧
    three (.mulZ h o) 3 id (az * bz) ∧ three (.mulS h o) 3 id (a * b) ∧
    three (.mulhZ h o) 3 id (az * bz / 2 ^ (4 * w)) ∧ three (.mulhS h o) 3 id (a * b / 2 ^ (4 * w)) ∧
    three (.minZ h o) 1 id (min az bz) ∧ three (.minS h o) 1 id (min a b) ∧
    three (.maxZ h o) 1 id (max az bz) ∧ three (.maxS h o) 1 id (max a b) ∧
    three (.divZ h o) 18 div (if bz = 0 then -1 else az / bz) ∧
    three (.divS h o) 18 div (if b = 0 then -1 else a.tdiv b) ∧
    three (.remZ h o) 18 div (if bz = 0 then az else az % bz) ∧
    three (.remS h o) 18 div (if b = 0 then a else a.tmod b) ∧
    two (.addiZ h p imm) 12 (pz + (imm.toNat % 2 ^ k : Nat)) ∧ two (.addiS h p imm) 12 (ps + sext imm.toNat k) ∧
    two (.absS h p) 8 |ps| ∧ two (.negS h p) 8 (-ps)

/-- R75 with R65, R66: logic and shifts, bit by bit and as R75 computes them; a count at or above the width in bits shifts everything out.
Completes: and, or, xor, andn, shl, shr, sar, rol, not, andi, ori, xori, shli, shri, sari. -/
def Obligations.ScalarLogic : Prop :=
  ∀ (h : Hdr) (o : R3) (p : R2) (imm : BitVec 16) (c : BitVec 6) (s : State),
    let f := s.cur.frame
    let w := 4 * o.d.width
    let az := (o.a.src f false o.d.width).toNat
    let bz := (o.b.src f false o.d.width).toNat
    let a := o.a.src f true o.d.width
    let n := o.b.get f
    let three (i : Instr) (v : Int) : Prop :=
      s.admits i = true → ∃ t, exec i s = .next t ∧ Result s t h 8 id (1 + b2n (o.a.crosses || o.b.crosses)) (o.d.put (trunc v w)) 0
    let pw := 4 * p.d.width
    let pz := (p.a.src f false p.d.width).toNat
    let ps := p.a.src f true p.d.width
    let im := trunc (sext imm.toNat 16) pw
    let two (i : Instr) (v : Int) : Prop :=
      s.admits i = true → ∃ t, exec i s = .next t ∧ Result s t h 8 id (1 + b2n p.a.crosses) (p.d.put (trunc v pw)) 0
    three (.and h o) (az &&& bz : Nat) ∧ three (.or h o) (az ||| bz : Nat) ∧ three (.xor h o) (az ^^^ bz : Nat) ∧
    three (.andn h o) (az &&& (2 ^ w - 1 - bz) : Nat) ∧
    three (.shl h o) (if w ≤ n then 0 else (az * 2 ^ n : Nat)) ∧ three (.shr h o) (if w ≤ n then 0 else (az / 2 ^ n : Nat)) ∧
    three (.sar h o) (if w ≤ n then (if a < 0 then -1 else 0) else a / 2 ^ n) ∧
    three (.rol h o) (az * 2 ^ (n % w) + az / 2 ^ (w - n % w) : Nat) ∧
    two (.not h p) (2 ^ pw - 1 - pz : Nat) ∧
    two (.andi h p imm) (pz &&& im : Nat) ∧ two (.ori h p imm) (pz ||| im : Nat) ∧ two (.xori h p imm) (pz ^^^ im : Nat) ∧
    two (.shli h p c) (if pw ≤ c.toNat then 0 else (pz * 2 ^ c.toNat : Nat)) ∧
    two (.shri h p c) (if pw ≤ c.toNat then 0 else (pz / 2 ^ c.toNat : Nat)) ∧
    two (.sari h p c) (if pw ≤ c.toNat then (if ps < 0 then -1 else 0) else ps / 2 ^ c.toNat)

/-- R76: bit fields and bit counts. Bit k of what `bfi` and `brev` write is said bit by bit; `popc`, `clz` and `ctz` count at A's own width.
Completes: bfxZ, bfxS, bfi, popc, clz, ctz, brev.
That `clz` and `ctz` of `nz` count at A's width, 64, is the model's choice (log entry 25). -/
def Obligations.BitFields : Prop :=
  ∀ (h : Hdr) (p : R2) (lsb len : BitVec 6) (s : State),
    let f := s.cur.frame
    let a := p.a.get f
    let wA := 4 * p.a.width
    let w := 4 * p.d.width
    let n := len.toNat + 1
    let field := a / 2 ^ lsb.toNat % 2 ^ n
    let done (i : Instr) (cross : Bool) (ok : Nat → Prop) : Prop :=
      s.admits i = true → ∃ t v, exec i s = .next t ∧ v < 2 ^ w ∧ ok v ∧ Result s t h 8 id (1 + b2n cross) (p.d.put v) 0
    done (.bfxZ h p lsb len) p.a.crosses (fun v => v = field % 2 ^ w) ∧
    done (.bfxS h p lsb len) p.a.crosses (fun v => v = trunc (if field < 2 ^ len.toNat then (field : Int) else (field : Int) - 2 ^ n) w) ∧
    done (.bfi h p lsb len) (p.d.crosses || p.a.crosses) (fun v => ∀ k, k < w →
      v.testBit k = if lsb.toNat ≤ k ∧ k < lsb.toNat + n then a.testBit (k - lsb.toNat) else (p.d.get f).testBit k) ∧
    done (.popc h p) p.a.crosses (fun v => v = ((List.range wA).filter fun k => a.testBit k).length % 2 ^ w) ∧
    done (.clz h p) p.a.crosses (fun v => ∃ c, v = c % 2 ^ w ∧ c ≤ wA ∧ (∀ k, wA - c ≤ k → k < wA → a.testBit k = false) ∧ (c < wA → a.testBit (wA - 1 - c) = true)) ∧
    done (.ctz h p) p.a.crosses (fun v => ∃ c, v = c % 2 ^ w ∧ c ≤ wA ∧ (∀ k, k < c → a.testBit k = false) ∧ (c < wA → a.testBit c = true)) ∧
    done (.brev h p) p.a.crosses (fun v => ∀ k, k < w → v.testBit k = (p.a.src f false p.d.width).toNat.testBit (w - 1 - k))

/-- R77, R78: compares, select, moves and immediates. A compare is taken at the wider of its sources, with an immediate at no less than 16 bits.
Completes: cmpEq, cmpNe, cmpLtS, cmpLtZ, cmpLeS, cmpLeZ, cmpiEq, cmpiLtS, cmpiLtZ, sel, movZ, movS, movi, movih. -/
def Obligations.ComparesAndMoves : Prop :=
  ∀ (h : Hdr) (o : R3) (p : R2) (q : R4) (d : SliceOp) (imm : BitVec 16) (im : BitVec 32) (s : State),
    let f := s.cur.frame
    let c := max o.a.width o.b.width
    let az := o.a.src f false c
    let bz := o.b.src f false c
    let a := o.a.src f true c
    let b := o.b.src f true c
    let cmp (i : Instr) (r : Prop) : Prop :=
      s.admits i = true → ∃ t v, exec i s = .next t ∧ (r → v = 1) ∧ (¬ r → v = 0) ∧ Result s t h 8 id (1 + b2n (o.a.crosses || o.b.crosses)) (o.d.put v) 0
    let cw := max p.a.width 4
    let cmpi (i : Instr) (r : Prop) : Prop :=
      s.admits i = true → ∃ t v, exec i s = .next t ∧ (r → v = 1) ∧ (¬ r → v = 0) ∧ Result s t h 8 id (1 + b2n p.a.crosses) (p.d.put v) 0
    let done (i : Instr) (len : Nat) (cross : Bool) (d : SliceOp) (v : Int) : Prop :=
      s.admits i = true → ∃ t, exec i s = .next t ∧ Result s t h len id (1 + b2n cross) (d.put (trunc v (4 * d.width))) 0
    cmp (.cmpEq h o) (az = bz) ∧ cmp (.cmpNe h o) (az ≠ bz) ∧ cmp (.cmpLtS h o) (a < b) ∧ cmp (.cmpLtZ h o) (az < bz) ∧
    cmp (.cmpLeS h o) (a ≤ b) ∧ cmp (.cmpLeZ h o) (az ≤ bz) ∧
    cmpi (.cmpiEq h p imm) (p.a.src f false cw = (trunc (sext imm.toNat 16) (4 * cw) : Nat)) ∧
    cmpi (.cmpiLtS h p imm) (p.a.src f true cw < sext imm.toNat 16) ∧
    cmpi (.cmpiLtZ h p imm) (p.a.src f false cw < (imm.toNat : Int)) ∧
    done (.sel h q) 16 (q.a.crosses || q.b.crosses || q.c.crosses) q.d
      (if q.c.get f = 0 then q.b.src f false q.d.width else q.a.src f false q.d.width) ∧
    done (.movZ h p) 8 p.a.crosses p.d (p.a.src f false p.d.width) ∧ done (.movS h p) 8 p.a.crosses p.d (p.a.src f true p.d.width) ∧
    done (.movi h d im) 12 false d im.toInt ∧ done (.movih h d im) 12 d.crosses d ((d.get f % 2 ^ 32 : Nat) + im.toInt * 2 ^ 32)

/-- R72, R79, R80: `vwset` writes its view register in the issue tc, and nothing else; `vwrd` gives a view register's 64 bits, and is encoded as R80 says.
Completes: vwset, vwrd. -/
def Obligations.Views : Prop :=
  ∀ (h : Hdr) (v : BitVec 4) (src : ViewSrc) (d : SliceOp) (s : State),
    (s.admits (.vwset h v src) = true → ∃ t, exec (.vwset h v src) s = .next t ∧ JetFrame s t id ∧ t.agenda = s.agenda ∧
      t.cur = { s.cur.behind h 16 s.tc [] with views := t.cur.views } ∧
      (∀ k, k ≠ v.toNat → t.cur.view k = s.cur.view k) ∧
      (∀ x, src = .imm x → t.cur.view v.toNat = x.setWidth 64) ∧
      (∀ a, src = .reg a → t.cur.view v.toNat = BitVec.ofNat 64 (a.get s.cur.frame) ∧ (t.cur.view v.toNat).toNat < 2 ^ 62)) ∧
    (s.admits (.vwrd h d v) = true → ∃ t, exec (.vwrd h d v) s = .next t ∧
      Result s t h 8 id 1 (d.put ((s.cur.view v.toNat).toNat % 2 ^ (4 * d.width))) 0) ∧
    (∀ w i, decode w = .ok i → fld w 6 10 = 0x091 → ∃ e, i = .vwrd (hdrOf w) e (BitVec.ofNat 4 (fld w 48 4)) ∧ e.enc = fD w ∧
      fA w = 0xffff ∧ fld w 52 12 = 0)

/-! ### Lane instructions -/

/-- R128 to R131, R133, R139, R140: element-wise integer instructions. An active element receives the operation's exact result, cut to the element
width, or clamped to its range where the instruction saturates (R104); an inactive one keeps its value, or receives 0 in zero mode. The frame of
each is that of `LaneDone`: the issuing jet's own registers change only by what it now owes.
Completes: vadd, vdif, vmul, vmulh, vmin, vmax, vabs, vneg, vand, vor, vxor, vnot, vshl, vshr, vsar, vpopc, vmov, vsel.
That the integer `vabs` and `vneg` take 1 tc is the model's choice (log entry 25). -/
def Obligations.LaneInteger : Prop :=
  ∀ (h : Hdr) (o : L3) (s : State),
    let j := s.cur
    let c := o.c
    let n := j.shapeN o.d
    let bits := 4 * c.e
    let d := j.use o.d n
    let a (e : Nat) : Nat := (j.use o.a n).val j.frame e
    let b (e : Nat) : Nat := (j.use o.b n).val j.frame e
    let x (e : Nat) : Int := c.rdInt (a e)
    let y (e : Nat) : Int := c.rdInt (b e)
    let cut (r : Int) : Nat := trunc (if c.sat then clampTo bits c.signed r else r) bits
    let elem (f : Nat → Nat) : Nat → Nat × Nat := fun e => (if j.active c e then f e else if c.mmode == .zero then 0 else d.val j.frame e, 0)
    let done (i : Instr) (lat : Nat) (f : Nat → Nat) : Prop := LaneDone s i h n (laneL c) lat 0 d (elem f)
    let count (e : Nat) : Nat := if o.b = .slice .nz then c.aux8.toNat else b e
    done (.vadd h o) 1 (fun e => cut (x e + y e)) ∧ done (.vdif h o) 1 (fun e => cut (x e - y e)) ∧
    done (.vmul h o) 3 (fun e => cut (x e * y e)) ∧ done (.vmulh h o) 3 (fun e => cut (x e * y e / 2 ^ bits)) ∧
    done (.vmin h o) 1 (fun e => cut (min (x e) (y e))) ∧ done (.vmax h o) 1 (fun e => cut (max (x e) (y e))) ∧
    done (.vabs h o) 1 (fun e => cut |x e|) ∧ done (.vneg h o) 1 (fun e => cut (-x e)) ∧
    done (.vand h o) 1 (fun e => cut ((x e).toNat &&& (y e).toNat : Nat)) ∧ done (.vor h o) 1 (fun e => cut ((x e).toNat ||| (y e).toNat : Nat)) ∧
    done (.vxor h o) 1 (fun e => cut ((x e).toNat ^^^ (y e).toNat : Nat)) ∧ done (.vnot h o) 1 (fun e => cut (2 ^ bits - 1 - (x e).toNat % 2 ^ bits : Nat)) ∧
    done (.vshl h o) 1 (fun e => if bits ≤ count e then 0 else a e % 2 ^ bits * 2 ^ count e % 2 ^ bits) ∧
    done (.vshr h o) 1 (fun e => if bits ≤ count e then 0 else a e % 2 ^ bits / 2 ^ count e) ∧
    done (.vsar h o) 1 (fun e => trunc (if bits ≤ count e then (if sext (a e) bits < 0 then -1 else 0) else sext (a e) bits / 2 ^ count e) bits) ∧
    done (.vpopc h o) 1 (fun e => cut (popBits bits (x e).toNat : Nat)) ∧ done (.vmov h o) 1 a ∧
    LaneDone s (.vsel h o) h n (laneL c) 1 0 (j.use o.d n) (fun e => (if (j.mask c.mask.toNat).getLsbD e then a e else b e, 0))

/-- R105 to R107, R110, R128 to R131, R135 to R138, R146, R147: element-wise floating-point instructions and conversions, each element by the
operation of the format's chapter with its flags; `fdiv` and `fsqrt` take the divide array for 14 tc.
Completes: fadd, fsub, fmul, ffma, fmin, fmax, fdiv, fsqrt, fexp2T, fabs, fneg, fcvtBf, fcvtF, icvtF, fcvtI, qnt, dqnt.
That `fcvt.i` rounds before it looks at the range, and that `fpten` is read as a result is written, are the model's choices (log entry 25). -/
def Obligations.LaneFloat : Prop :=
  ∀ (h : Hdr) (o : L3) (s : State),
    let j := s.cur
    let c := o.c
    let n := j.shapeN o.d
    let i := c.iwidth.toNat + 1
    let d := j.use o.d n
    let src (p : ElemOp) (k : Nat) : Nat := (j.use p n).val j.frame k
    let elem (f : Nat → Fl Nat) : Nat → Nat × Nat := fun k =>
      if j.active c k then f k else (if c.mmode == .zero then 0 else d.val j.frame k, 0)
    let a := src o.a
    let b := src o.b
    let done (x : Instr) (lat div : Nat) (f : Nat → Fl Nat) : Prop := LaneDone s x h n (laneL c) lat div d (elem f)
    let conv (x : Instr) (eD eA : Nat) (f : Nat → Fl Nat) : Prop :=
      LaneDone s x h n (256 / max eD eA) 4 0 d (elem fun k => f (a k))
    let sc := o.scale j
    done (.fadd h o) 4 0 (fun k => addFp c.p c.rm (a k) (b k)) ∧ done (.fsub h o) 4 0 (fun k => subFp c.p c.rm (a k) (b k)) ∧
    done (.fmul h o) 4 0 (fun k => mulFp c.p c.rm (a k) (b k)) ∧
    LaneDone s (.ffma h o) h n (laneL c) 4 0 d (elem fun k => fmaFp c.p c.rm (a k) (b k) (d.val j.frame k)) ∧
    done (.fmin h o) 4 0 (fun k => minmaxFp c.p false (a k) (b k)) ∧ done (.fmax h o) 4 0 (fun k => minmaxFp c.p true (a k) (b k)) ∧
    done (.fdiv h o) 14 14 (fun k => divFp c.p c.rm (a k) (b k)) ∧ done (.fsqrt h o) 14 14 (fun k => sqrtFp c.p c.rm (a k)) ∧
    done (.fexp2T h o) 6 0 (fun k => if c.p = pBf then exp2Bf (a k) else exp2F32 (a k)) ∧
    done (.fabs h o) 4 0 (fun k => (a k % 2 ^ (c.p + 7), 0)) ∧ done (.fneg h o) 4 0 (fun k => (a k ^^^ 2 ^ (c.p + 7), 0)) ∧
    conv (.fcvtBf h o) 4 8 f32ToBf ∧ conv (.fcvtF h o) 8 4 bfToF32 ∧
    conv (.icvtF h o) c.fpw i (fun x => intToFp c.p c.rm (if c.signed then sext x (4 * i) else zext x (4 * i))) ∧
    conv (.fcvtI h o) i c.fpw (fun x => (trunc (fpToInt (4 * i) c.signed c.rm (fpDec c.p x)).1 (4 * i), (fpToInt (4 * i) c.signed c.rm (fpDec c.p x)).2)) ∧
    conv (.qnt h o) i c.fpw (fun x => match posFin sc.base with
      | none => (0, fNv)
      | some b => (trunc (quantize sc.big sc.signed b.1 (b.2 + sc.e) (fpDec c.p x)).1 (4 * i), (quantize sc.big sc.signed b.1 (b.2 + sc.e) (fpDec c.p x)).2)) ∧
    conv (.dqnt h o) c.fpw i (fun x => match posFin sc.base with
      | none => (0, fNv)
      | some b => dequantize c.p b.1 (b.2 + sc.e) (effVal sc.big sc.p sc.mid (if sc.signed then sext x sc.p else zext x sc.p)))

/-- R131, R132, R136, R140: compares into a mask. Bit e of the mask is the relation of elements e where e is active; an inactive bit keeps its value in
merge mode and is 0 otherwise, as is every bit at or beyond the shape's count. Of several beats, each writes the bits of its own elements and the
last those beyond. Only that mask and the flags are to be written.
Completes: fcmp, vcmp. -/
def Obligations.LaneCompare : Prop :=
  ∀ (h : Hdr) (o : LM) (s : State),
    let j := s.cur
    let c := o.c
    let n := j.shapeN o.shape
    let L := laneL c
    let nb := ceilDiv n L
    let a (e : Nat) : Nat := (j.use o.a n).val j.frame e
    let b (e : Nat) : Nat := (j.use o.b n).val j.frame e
    let old (e : Nat) : Bool := (j.mask o.dm.toNat).getLsbD e
    let done (i : Instr) (lat : Nat) (r : Nat → Bool × Nat) : Prop :=
      BeatsDone s i h nb lat 0 (BitVec.ofNat 5 ((List.range n).foldl (fun f e => f ||| if j.active c e then (r e).2 else 0) 0)) fun q =>
        q.slices = [] ∧ ∃ ms : List (BitVec 256), q.maskWrites = ms.map (fun m => (o.dm.toNat, m)) ∧ ms.length = nb ∧
          ∀ k e, k < nb → e < 256 → (ms.getD k 0).getLsbD e =
            if L * (k + 1) ≤ e ∧ k + 1 ≠ nb then old e
            else decide (e < n) && if j.active c e then (r e).1 else c.mmode == .merge && old e
    done (.fcmp h o) 4 (fun e => cmpFp c.p c.subfn.toNat (a e) (b e)) ∧
    done (.vcmp h o) 1 (fun e => ((match c.subfn.toNat with
      | 0 => decide (c.rdInt (a e) = c.rdInt (b e))
      | 1 => decide (c.rdInt (a e) ≠ c.rdInt (b e))
      | 2 => decide (c.rdInt (a e) < c.rdInt (b e))
      | 3 => decide (c.rdInt (a e) ≤ c.rdInt (b e))
      | 4 => decide (c.rdInt (b e) < c.rdInt (a e))
      | _ => decide (c.rdInt (b e) ≤ c.rdInt (a e))), 0))

/-- R132, R141 to R144, R148: whole-vector instructions. Each reads all its elements and makes its writes together; a reduction or a scan has a
variable latency, `max(Lt, beats − 1 + Lt · ⌈log2 n⌉)`, the others `beats + 1`.
Completes: vperm, vbcast, vexpd, vcmpr, vred, vscan, bpack, bunpk.
Where the spec leaves a point open, a clause follows the model's choice (log entry 24, and 25: `vperm` of a slice A, a
reduction of one element, and `bunpk` of more planes than D has bits). -/
def Obligations.WholeVector : Prop :=
  ∀ (h : Hdr) (o : L3) (s : State),
    let j := s.cur
    let c := o.c
    let n := j.shapeN o.d
    let m := j.shapeN o.a
    let L := laneL c
    let d := j.use o.d n
    let av (k e : Nat) : Nat := (j.use o.a k).val j.frame e
    let idle (e : Nat) : Nat := if c.mmode == .zero then 0 else d.val j.frame e
    let each (f : Nat → Nat) : List (Nat × Nat × Nat) := (List.range n).flatMap fun e => d.put e (if j.active c e then f e else idle e)
    let ix := (j.use o.b n).val j.frame
    let act (k : Nat) : List Nat := (List.range k).filter (j.active c)
    let lt := if c.fp then 2 else 1
    let redLat (k : Nat) : Nat := max lt (ceilDiv k L - 1 + lt * clog2 k)
    let kept := (act m).map (av m)
    let dst (k : Nat) : Operand := j.use o.d k
    let rows := c.subfn.toNat + 1
    let iw := c.iwidth.toNat + 1
    let np := min 64 m
    let nu := min 64 n
    let bitsOf (e : Nat) : Nat := (j.use o.a np).val j.frame e
    let planes (k : Nat) : Nat := (j.use o.a rows).val j.frame k
    let red := c.reduce c.subfn.toNat ((List.range m).map fun e => if j.active c e then some (av m e) else none)
    let xs := (List.range n).map fun e => if j.active c e then some (av n e) else none
    let op := c.subfn.toNat
    let scan : List Nat × Nat :=
      if c.fp then
        let w := xs.map fun x => match x with | some v => c.widen v | none => (fpIdent op, 0)
        let r := scanRun (fpOp op c.rm) (clog2 n) 0 (w.map (·.1))
        let q := r.1.mapIdx fun e x => if j.active c e then c.narrow x else (0, 0)
        (q.map (·.1), orFlags w ||| r.2 ||| orFlags q)
      else
        ((scanRun (fun x y => (intOp op x y, 0)) (clog2 n) 0
          (xs.map fun x => match x with | some v => c.redInt op v | none => intIdent op (4 * c.e) c.signed)).1.map fun r =>
            if op = 0 then c.fit r else trunc r (4 * c.e), 0)
    WholeDone s (.vperm h o) h (ceilDiv n L) (ceilDiv n L + 1) false (each fun e => if ix e < j.avail o.a then j.pickVal o.a (ix e) else 0) [] 0 ∧
    WholeDone s (.vbcast h o) h (ceilDiv n L) (ceilDiv n L + 1) false (each fun _ => j.pickVal o.a c.aux8.toNat) [] 0 ∧
    WholeDone s (.vexpd h o) h (ceilDiv n L) (ceilDiv n L + 1) false (each fun e => j.pickVal o.a (act e).length) [] 0 ∧
    WholeDone s (.vcmpr h o) h (ceilDiv m L) (ceilDiv m L + 1) false
      ((if c.mmode == .merge then kept else kept ++ List.replicate (m - kept.length) 0).mapIdx
        fun e v => (dst (if c.mmode == .merge then kept.length else m)).put e v).flatten [] 0 ∧
    WholeDone s (.vred h o) h (ceilDiv m L) (redLat m) true ((dst 1).put 0 red.1) [] red.2 ∧
    WholeDone s (.vscan h o) h (ceilDiv n L) (redLat n) true (each fun e => scan.1.getD e 0) [] scan.2 ∧
    WholeDone s (.bpack h o) h (ceilDiv np (256 / iw)) (ceilDiv np (256 / iw) + 1) false
      ((List.range rows).flatMap fun k => (j.use o.d rows).put k
        ((List.range np).map fun e => if (bitsOf e).testBit (rows - 1 - k) then 2 ^ e else 0).sum) [] 0 ∧
    WholeDone s (.bunpk h o) h (ceilDiv nu (256 / iw)) (ceilDiv nu (256 / iw) + 1) false
      ((List.range nu).flatMap fun e =>
        let q := ((List.range rows).map fun k => if (planes k).testBit e then 2 ^ (rows - 1 - k) else 0).sum
        (j.use o.d nu).put e (trunc (if c.signed then sext q rows else zext q rows) (4 * iw))) [] 0

/-- R145: mask instructions. `mand`, `mor`, `mxor`, `mnot` and `mset` write one mask 1 tc after issue and nothing else; the tests and counts write D; their words are read as R145 says.
Completes: mand, mor, mxor, mnot, mset, mtestAny, mtestAll, mpopc, mfirst. -/
def Obligations.Masks : Prop :=
  ∀ (h : Hdr) (dm a b : BitVec 3) (count : BitVec 9) (d : SliceOp) (s : State),
    let m := s.cur.mask a.toNat
    let n := s.cur.mask b.toNat
    let mask (i : Instr) (bit : Nat → Bool) : Prop :=
      s.admits i = true → ∃ t v, exec i s = .next t ∧ Result s t h 8 id 1 ⟨[], [(dm.toNat, v)]⟩ 0 ∧ ∀ k, k < 256 → v.getLsbD k = bit k
    let slice (i : Instr) (ok : Nat → Prop) : Prop :=
      s.admits i = true → ∃ t v, exec i s = .next t ∧ Result s t h 8 id 1 (d.put (v % 2 ^ (4 * d.width))) 0 ∧ ok v
    mask (.mand h dm a b) (fun k => m.getLsbD k && n.getLsbD k) ∧ mask (.mor h dm a b) (fun k => m.getLsbD k || n.getLsbD k) ∧
    mask (.mxor h dm a b) (fun k => m.getLsbD k != n.getLsbD k) ∧ mask (.mnot h dm a) (fun k => !m.getLsbD k) ∧
    mask (.mset h dm count) (fun k => decide (k < count.toNat)) ∧
    slice (.mtestAny h d a) (fun v => v ≤ 1 ∧ (v = 1 ↔ ∃ k, k < 256 ∧ m.getLsbD k = true)) ∧
    slice (.mtestAll h d a) (fun v => v ≤ 1 ∧ (v = 1 ↔ ∀ k, k < 256 → m.getLsbD k = true)) ∧
    slice (.mpopc h d a) (fun v => v = ((List.range 256).filter fun k => m.getLsbD k).length) ∧
    slice (.mfirst h d a) (fun v => v ≤ 256 ∧ (∀ k, k < v → m.getLsbD k = false) ∧ (v < 256 → m.getLsbD v = true)) ∧
    (∀ w i, decode w = .ok i →
      (∀ op mk, (op, mk) ∈ [(0x107, Instr.mand), (0x108, Instr.mor), (0x109, Instr.mxor)] → fld w 6 10 = op →
        i = mk (hdrOf w) (BitVec.ofNat 3 (fD w)) (BitVec.ofNat 3 (fA w)) (BitVec.ofNat 3 (fB w)) ∧ fD w < 8 ∧ fA w < 8 ∧ fB w < 8) ∧
      (fld w 6 10 = 0x10a → i = .mnot (hdrOf w) (BitVec.ofNat 3 (fD w)) (BitVec.ofNat 3 (fA w)) ∧ fD w < 8 ∧ fA w < 8 ∧ fB w = 0xffff) ∧
      (fld w 6 10 = 0x10b → i = .mset (hdrOf w) (BitVec.ofNat 3 (fD w)) (BitVec.ofNat 9 (fld w 48 9)) ∧ fD w < 8 ∧ fA w = 0xffff ∧
        fld w 57 7 = 0 ∧ fld w 48 9 ≤ 256) ∧
      (∀ op mk, (op, mk) ∈ [(0x10c, Instr.mtestAny), (0x10d, Instr.mtestAll), (0x10e, Instr.mpopc), (0x10f, Instr.mfirst)] → fld w 6 10 = op →
        ∃ e, i = mk (hdrOf w) e (BitVec.ofNat 3 (fA w)) ∧ e.enc = fD w ∧ fA w < 8 ∧ fB w = 0xffff)) ∧
    (∀ w, fld w 6 10 = 0x10b → fld w 0 2 = 0 → fD w < 8 → fA w = 0xffff → fld w 57 7 = 0 → 256 < fld w 48 9 → decode w = .error 4)

/-! ### Control flow, cascades -/

/-- R44, R94, R95: branches go to the target the rule computes or fall through past a tail word; `call` and `loop` write D; `nop` and `nop.w` only go on, and are encoded as R44 says.
Completes: br, bz, bnz, bmany, bmnone, ret, brx, call, loop, nop, nopW. -/
def Obligations.ControlFlow : Prop :=
  ∀ (h : Hdr) (a b d : SliceOp) (m : BitVec 3) (imm : BitVec 32) (s : State),
    let f := s.cur.frame
    let rel := s.cur.pc + imm.signExtend 64
    let next := nextPc s.cur.pc 12
    let goes (i : Instr) (target : BitVec 64) : Prop := s.admits i = true → ∃ t, exec i s = .next t ∧ Jumped s t h target [] []
    let c := trunc ((d.get f : Int) - 1) (4 * d.width)
    goes (.br h imm) rel ∧
    goes (.bz h a imm) (if a.get f = 0 then rel else next) ∧ goes (.bnz h a imm) (if a.get f = 0 then next else rel) ∧
    goes (.bmany h m imm) (if s.cur.mask m.toNat = 0 then next else rel) ∧ goes (.bmnone h m imm) (if s.cur.mask m.toNat = 0 then rel else next) ∧
    goes (.ret h a) (BitVec.ofNat 64 (a.get f)) ∧ goes (.brx h a b) (BitVec.ofNat 64 (a.get f + 32 * b.get f)) ∧
    (s.admits (.call h d imm) = true → ∃ t, exec (.call h d imm) s = .next t ∧
      Jumped s t h rel [s.fixedOwed 1 (d.put next.toNat) 0] [s.evt 1 .resultWriteback 0 0]) ∧
    (s.admits (.loop h d imm) = true → ∃ t, exec (.loop h d imm) s = .next t ∧
      Jumped s t h (if c = 0 then next else rel) [s.fixedOwed (1 + b2n d.crosses) (d.put c) 0] [s.evt (1 + b2n d.crosses) .resultWriteback 0 0]) ∧
    (s.admits (.nop h) = true → ∃ t, exec (.nop h) s = .next t ∧ Issued s t h 8 id [] []) ∧
    (s.admits (.nopW h) = true → ∃ t, exec (.nopW h) s = .next t ∧ Issued s t h 12 id [] []) ∧
    encode (.nop ⟨false, 0⟩) = 0xffffffffffff6000 ∧ fld (encode (.nopW ⟨false, 0⟩)) 0 16 = 0x6041 ∧
    (∀ w i, decode w = .ok i → fld w 6 10 = 0x180 → i = .nop (hdrOf w) ∧ fD w = 0xffff ∧ fA w = 0xffff ∧ fB w = 0xffff) ∧
    (∀ w i, decode w = .ok i → fld w 6 10 = 0x181 → i = .nopW (hdrOf w) ∧ fD w = 0xffff ∧ fA w = 0xffff ∧ fld w 48 48 = 0)

/-- R94, R26: the address behind an instruction is the sum of its address and length, 4 further where that is the tail word of a 32-byte block. -/
def Obligations.NextAddress : Prop :=
  ∀ (a : BitVec 64) (len : Nat), let n := a + BitVec.ofNat 64 len
    (n.toNat % 32 = 28 → nextPc a len = n + 4 ∧ (nextPc a len).toNat % 32 = 0) ∧ (n.toNat % 32 ≠ 28 → nextPc a len = n)

/-- R97, R88, R98, R100, R101: `exit` frees the slot and the frame of a jet that no gang holds, its piece ending after its accesses; `casc` answers 4
in a cascade, 1 without the header bit, and otherwise asks the line over 4 tc a hop; `cascx` and `cascx.stop` leave the cascade, a follower that
executes `cascx.stop` ends; `cdis` reads and clears the divergence bit.
Completes: exit, casc, cascx, cascxStop, cdis.
Where the spec leaves a point open, a clause follows the model's choice (log entry 12). -/
def Obligations.ExitAndCascade : Prop :=
  ∀ (h : Hdr) (o : R2) (n : BitVec 4) (dir : BitVec 2) (d : SliceOp) (s : State),
    let ended (t : State) : Prop :=
      t.cur = { Jet.empty with freeAt := s.tc + 1, granBase := s.cur.granBase, grans := s.cur.grans } ∧
      (∀ k, k ≠ s.curSlot → t.here.jet k = s.here.jet k) ∧ (∀ k, k ≠ s.curTile → t.tile k = s.tile k) ∧ t = { s with tiles := t.tiles } ∧
      t.here = { s.here with jets := t.here.jets, workOut := t.here.workOut, reserved := t.here.reserved } ∧
      ((s.cur.range.has && s.cur.range.tracked) = false → t.here.workOut = s.here.workOut)
    let unheld : Prop := ∀ e ∈ s.here.heldSlots, e.1 ≠ s.curSlot ∨ e.2.1 ≠ s.cur.granBase
    let left (t : State) : Prop := JetFrame s t id ∧ t.agenda = s.agenda ∧ t.cur = { s.cur.behind h 16 s.tc [] with casc := .none }
    let casc := Instr.casc h o n dir
    let code := if s.cur.casc = .none then (if ((s.header s.curTile s.cur.entry.toNat).map hdrCasc).getD false then 0 else 1) else 4
    let second := { s.varOwed o.a.range [] [] [] false with id := s.nextId + 1, ord := s.cur.ordOf (s.nextId + 1) }
    (s.admits (.exit h) = true → s.cur.gang = none → unheld → ∃ t, exec (.exit h) s = .next t ∧ ended t) ∧
    (s.admits casc = true → code ≠ 0 → ∃ t, exec casc s = .next t ∧ Status s t h 16 id 1 o.d code) ∧
    (s.admits casc = true → code = 0 → ∃ t, exec casc s = .next t ∧
      Issued s t h 16 id [s.varOwed o.d.range [] [] [] false, second]
        [(s.nc + 2 * (4 * n.toNat), ⟨s.curTile, s.curSlot, s.nextId, s.nextId + 1, n.toNat + 16 * dir.toNat⟩, .cascFormed)]) ∧
    (s.admits (.cascx h) = true → ∃ t, exec (.cascx h) s = .next t ∧ left t) ∧
    (s.admits (.cascxStop h) = true → (∀ t k n, s.cur.casc ≠ .follower t k n) → ∃ t, exec (.cascxStop h) s = .next t ∧ left t) ∧
    (s.admits (.cascxStop h) = true → (∃ t k n, s.cur.casc = .follower t k n) → s.cur.gang = none → unheld →
      ∃ t, exec (.cascxStop h) s = .next t ∧ ended t) ∧
    (s.admits (.cdis h d) = true → ∃ t, exec (.cdis h d) s = .next t ∧ JetFrame s t id ∧
      t.cur = { s.cur.behind h 8 s.tc [s.fixedOwed 1 (d.put (b2n s.cur.cdis)) 0] with cdis := false } ∧
      t.agenda = withEvents s.agenda [s.evt 1 .resultWriteback 0 0])


/-! ### Memory -/

/-- R226, R227, R230, R267, R268, R388: a load, a store and a prefetch ask for the bytes at `Trunc(A + SExt(X) + offset, 64)`, with the data that R227
gives; memory, every pool and every register are as before until the access is performed and its value returns. Where its page, its bytes or
its pool refuse it at once, a load or store traps with that cause and a prefetch is dropped.
Completes: pref, ldZ, ldS, ldAcqZ, ldAcqS, st, stRel.
Where the spec leaves a point open, a clause follows the model's choice (log entry 15). -/
def Obligations.LoadsAndStores : Prop :=
  ∀ (h : Hdr) (o : MemF) (s : State),
    let f := s.cur.frame
    let nb := 2 ^ o.size.toNat
    let va := trunc ((o.a.get f : Int) + (if o.x.isNz then 0 else sext (o.x.get f) (4 * o.x.width)) + sext o.off.toNat 32) 64
    let l := slotsOf (s.cur.memSlots o)
    let slice := match o.d with | .slice _ => true | .view _ _ => false
    let ld (signed acq : Bool) : Req :=
      { op := .load (signed && slice), va := va, nb := nb, rep := va, sc := o.scope, acq := acq, ov := o.kind, hint := o.hint, dst := l,
        direct := acq && o.scope != .tile }
    let st (rel : Bool) : Req :=
      { op := .store, va := va, nb := nb, rep := va, sc := o.scope, rel := rel, ov := o.kind, hint := o.hint,
        data := f.gather l % 2 ^ (8 * nb), enables := 2 ^ (2 * nb) - 1, from_ := s.tc, gather := if slice then [] else l }
    let pf : Req := { op := .pref, va := va, nb := nb, rep := va, ov := o.kind, hint := o.hint }
    Asks s (.ldZ h o) h 16 (ld false false) ∧ Asks s (.ldS h o) h 16 (ld true false) ∧
    Asks s (.ldAcqZ h o) h 16 (ld false true) ∧ Asks s (.ldAcqS h o) h 16 (ld true true) ∧
    Asks s (.st h o) h 16 (st false) ∧ Asks s (.stRel h o) h 16 (st true) ∧
    (s.admits (.pref h o) = true → ∃ t, exec (.pref h o) s = .next t ∧ Entered s t h 16 [] s.cur.spill ∧
      ((∃ c, s.check s.curTile pf = .error c) → t = s.advance h 16) ∧
      (s.check s.curTile pf = .ok none → t = (s.enter pf none true).advance h 16) ∧
      (∀ ps, s.check s.curTile pf = .ok (some ps) →
        let keep := ps.filter fun (p : Part) => p.path == .cached || p.path == .stash
        t = if keep = [] then s.advance h 16 else (s.enter pf (some keep) true).advance h 16))

/-- R228, R229, R223, R347: `amo`, `amo.ar` and `amo.agg` ask for one atomic at `Trunc(A + SExt(X) + offset, 64)`: with D's value, or for `amo.agg` with the
sum of its elements, whose list goes with the access; the old value, or each element's share, is owed to D.
Completes: amo, amoAr, amoAgg. -/
def Obligations.Atomics : Prop :=
  ∀ (h : Hdr) (o : MemF) (s : State),
    let f := s.cur.frame
    let nb := 2 ^ o.size.toNat
    let va := trunc ((o.a.get f : Int) + (if o.x.isNz then 0 else sext (o.x.get f) (4 * o.x.width)) + sext o.off.toNat 32) 64
    let l := slotsOf (s.cur.memSlots o)
    let one (ar : Bool) : Req :=
      { op := .amo, va := va, nb := nb, rep := va, sc := o.scope, acq := ar, rel := ar, ov := o.kind, hint := o.hint, afn := o.afn.toNat,
        asigned := o.asigned, data := f.gather l, cmp := o.c.get f, dst := l }
    let e := slotsOf (s.cur.aggElems o)
    let a := e.map fun x => f.read x.1 x.2
    Asks s (.amo h o) h 16 (one false) ∧ Asks s (.amoAr h o) h 16 (one true) ∧
    Asks s (.amoAgg h o) h 16 { op := .agg a, va := va, nb := nb, rep := va, sc := o.scope, ov := o.kind, hint := o.hint, afn := o.afn.toNat,
                                data := a.sum, dst := e }

/-- R228: what an atomic writes at its home, and gives back to nobody else: the sum, the lesser or greater as signed or unsigned numbers, the bits
combined, D's value, or D's value where the old equals C; flags come from `fadd` alone. R105 to R107, R109, R111, R116, R117, R137: the floating-point results that `fadd` shares with
the lane: a datum's value by its bits; a sum, a product, a fused product and sum, a quotient and a square root are their exact value rounded once, in every mode, with the
flags that this raises; where an operand is a NaN the canonical one; the exact zeros; invalid, and division by zero; an integer, a quantized and a dequantized value rounded and
held to their range. That `fcvt.i` rounds before it looks at the range is the model's choice (log entry 25). -/
def Obligations.AtomicFunctions : Prop :=
  (∀ (nb : Nat) (sg : Bool) (d c old : Nat), old < 2 ^ (8 * nb) →
    let w := 8 * nb
    let op := d % 2 ^ w
    let r (fn : Nat) := amoNew nb fn sg d c old
    (r 1).1 = (old + d) % 2 ^ w ∧
    ((r 2).1 = op ∨ (r 2).1 = old) ∧ ((r 3).1 = op ∨ (r 3).1 = old) ∧
    (sg = false → (r 2).1 = min old op ∧ (r 3).1 = max old op) ∧
    (sg = true → sext (r 2).1 w = min (sext old w) (sext op w) ∧ sext (r 3).1 w = max (sext old w) (sext op w)) ∧
    (∀ k, (r 4).1.testBit k = (old.testBit k && op.testBit k)) ∧ (∀ k, (r 5).1.testBit k = (old.testBit k || op.testBit k)) ∧
    (∀ k, (r 6).1.testBit k = (old.testBit k ^^ op.testBit k)) ∧ (r 7).1 = op ∧
    (r 8).1 = (if old = c % 2 ^ w then op else old) ∧ r 9 = addFp pF32 .rne old op ∧
    (∀ fn, fn ≠ 9 → (r fn).2 = 0) ∧ (∀ fn, fn ≠ 9 → (r fn).1 < 2 ^ w)) ∧
  (∀ s ex fr : Nat, s < 2 → fr < 2 ^ 23 → let x := s * 2 ^ 31 + ex * 2 ^ 23 + fr
    let sign : ℝ := if s = 1 then -1 else 1
    (ex = 0 → (fpDec pF32 x).Is (sign * fr * 2 ^ (-149 : ℤ))) ∧ (0 < ex → ex < 255 → (fpDec pF32 x).Is (sign * (1 + fr / 2 ^ 23) * 2 ^ (ex - 127 : ℤ))) ∧
    (ex = 255 → fr = 0 → fpDec pF32 x = .inf (s == 1)) ∧ (ex = 255 → fr ≠ 0 → fpDec pF32 x = .nan (decide (fr < 2 ^ 22))) ∧
    (ex < 256 → fpDec pBf (x / 2 ^ 16) = fpDec pF32 (x / 2 ^ 16 * 2 ^ 16) ∨ ex < 255 ∧ ∀ v, (fpDec pBf (x / 2 ^ 16)).Is v ↔ (fpDec pF32 (x / 2 ^ 16 * 2 ^ 16)).Is v)) ∧
  (∀ (p : Nat) (rm : Rm) (x y z : Nat), p = pF32 ∨ p = pBf →
    let a := fpDec p x
    let b := fpDec p y
    let c := fpDec p z
    let nan (l : List Fp) (more : Bool) (r : Fl Nat) : Prop := r = (qnan p, if l.any Fp.isSig || more then fNv else 0)
    let zero (q r : Fp) : Bool := if q.isNeg = r.isNeg then q.isNeg else rm == .rdn
    (∀ u v, a.Is u → b.Is v →
      (u + v ≠ 0 → Rounded p rm (u + v) (addFp p rm x y)) ∧ (u + v = 0 → addFp p rm x y = (signBit p (zero a b), 0)) ∧
      (u - v ≠ 0 → Rounded p rm (u - v) (subFp p rm x y)) ∧ (u - v = 0 → subFp p rm x y = (signBit p (if a.isNeg = !b.isNeg then a.isNeg else rm == .rdn), 0)) ∧
      (u * v ≠ 0 → Rounded p rm (u * v) (mulFp p rm x y)) ∧ (u * v = 0 → mulFp p rm x y = (signBit p (a.isNeg != b.isNeg), 0)) ∧
      (∀ w, c.Is w → (u * v + w ≠ 0 → Rounded p rm (u * v + w) (fmaFp p rm x y z)) ∧
        (u * v + w = 0 → fmaFp p rm x y z = (signBit p (if (a.isNeg != b.isNeg) = c.isNeg then c.isNeg else rm == .rdn), 0))) ∧
      (u ≠ 0 → v ≠ 0 → Rounded p rm (u / v) (divFp p rm x y)) ∧ (u = 0 → v ≠ 0 → divFp p rm x y = (signBit p (a.isNeg != b.isNeg), 0)) ∧
      (u ≠ 0 → v = 0 → divFp p rm x y = (infBits p (a.isNeg != b.isNeg), fDz)) ∧ (u = 0 → v = 0 → nan [] true (divFp p rm x y)) ∧
      (0 < u → Rounded p rm (Real.sqrt u) (sqrtFp p rm x)) ∧ (u = 0 → sqrtFp p rm x = (signBit p a.isNeg, 0)) ∧ (u < 0 → nan [] true (sqrtFp p rm x))) ∧
    (a.isNan = true ∨ b.isNan = true → nan [a, b] false (addFp p rm x y) ∧ nan [a, b] false (subFp p rm x y) ∧ nan [a, b] false (mulFp p rm x y) ∧ nan [a, b] false (divFp p rm x y)) ∧
    (∀ s, a = .inf s → (b = .inf (!s) → nan [] true (addFp p rm x y)) ∧ (b = .inf s → addFp p rm x y = (infBits p s, 0)) ∧
      (b.Is 0 → nan [] true (mulFp p rm x y) ∧ (c.isNan = true → nan [] true (fmaFp p rm x y z))) ∧
      (∀ v, b.Is v → addFp p rm x y = (infBits p s, 0) ∧ divFp p rm x y = (infBits p (s != b.isNeg), 0) ∧ divFp p rm y x = (signBit p (s != b.isNeg), 0) ∧
        (v ≠ 0 → mulFp p rm x y = (infBits p (s != b.isNeg), 0))) ∧
      (∀ r, b = .inf r → nan [] true (divFp p rm x y) ∧ mulFp p rm x y = (infBits p (s != r), 0)) ∧
      (s = true → nan [] true (sqrtFp p rm x)) ∧ (s = false → sqrtFp p rm x = (infBits p false, 0)))) ∧
  qnan pF32 = 0x7fc00000 ∧ qnan pBf = 0x7fc0 ∧
  (∀ (w : Nat) (signed : Bool) (rm : Rm) (a : Fp), 0 < w → (∀ b, a = .nan b → fpToInt w signed rm a = (0, fNv)) ∧
    (∀ s, a = .inf s → fpToInt w signed rm a = (if s then loOf w signed else hiOf w signed, fNv)) ∧
    (∀ v, a.Is v → ∃ n, RoundedInt rm v n ∧ (loOf w signed ≤ n → n ≤ hiOf w signed → (fpToInt w signed rm a).1 = n ∧
      ((n : ℝ) = v → (fpToInt w signed rm a).2 = 0) ∧ ((n : ℝ) ≠ v → (fpToInt w signed rm a).2 = fNx)) ∧
      (n < loOf w signed → fpToInt w signed rm a = (loOf w signed, fNv)) ∧ (hiOf w signed < n → fpToInt w signed rm a = (hiOf w signed, fNv)))) ∧
  (∀ (w : Nat) (signed : Bool) (bm : Nat) (be : Int) (a : Fp), 0 < w → 0 < bm → (∀ b, a = .nan b → quantize w signed bm be a = (0, fNv)) ∧
    (∀ s, a = .inf s → quantize w signed bm be a = (if s then loOf w signed else hiOf w signed, fOf + fNx)) ∧
    (∀ v, a.Is v → let t : ℝ := v / (bm * 2 ^ be)
      ∃ n, RoundedInt .rne t n ∧ (loOf w signed ≤ n → n ≤ hiOf w signed → (quantize w signed bm be a).1 = n ∧
      ((n : ℝ) = t → (quantize w signed bm be a).2 = 0) ∧ ((n : ℝ) ≠ t → (quantize w signed bm be a).2 = fNx)) ∧
      (n < loOf w signed → quantize w signed bm be a = (loOf w signed, fOf + fNx)) ∧ (hiOf w signed < n → quantize w signed bm be a = (hiOf w signed, fOf + fNx)))) ∧
  (∀ (p bm : Nat) (be eff : Int), p = pF32 ∨ p = pBf → 0 < bm →
    (eff = 0 → dequantize p bm be eff = (0, 0)) ∧ (eff ≠ 0 → Rounded p .rne (eff * bm * 2 ^ be) (dequantize p bm be eff)))

/-- R81, R82: `spill` and `fill` ask for one access a beat of 16 slices, from the beat an interruption left, beat j at nibble address
`A + SExt(X) + offset + 16·j` and in tc issue + (j − first); the first beat is checked now, the others in their own tc. The frame's slices are those
R81 numbers, `nz` giving or taking as many zeros as its width; a `spill` moves the values of its issue tc, a `fill` owes each beat's slices.
Completes: spill, fill.
Where the spec leaves a point open, a clause follows the model's choice (log entries 6, 15). -/
def Obligations.SpillAndFill : Prop :=
  ∀ (h : Hdr) (o : MemF) (fill : Bool) (s : State),
    let i := if fill then Instr.fill h o else Instr.spill h o
    let f := s.cur.frame
    let na := trunc ((o.a.get f : Int) + (if o.x.isNz then 0 else sext (o.x.get f) (4 * o.x.width)) + sext o.off.toNat 32) 64
    let p := s.cur.spillFrom o fill
    let j := match o.d with | .view k _ => s.cur.setView k.toNat p.vd | .slice _ => s.cur
    let l := slotsOf (j.spillSlots o)
    let n := match o.d with | .slice d => d.width | .view _ _ => 2 * 2 ^ o.size.toNat
    let beats := (List.range (ceilDiv n 16)).filter fun b => decide (p.beat ≤ b)
    let req (b : Nat) : Req :=
      let runs := beatRuns l b
      let a := (p.na + 16 * b) % 2 ^ 64
      let m := min 16 (n - 16 * b)
      { op := if fill then .fillBeat else .store, va := a / 2, nb := (m + a % 2 + 1) / 2, rep := a, ov := o.kind, hint := o.hint,
        data := if fill then 0 else f.gather runs * 2 ^ (4 * (a % 2)), enables := (2 ^ m - 1) * 2 ^ (a % 2), dst := if fill then runs else [], from_ := s.tc + (b - p.beat),
        gather := if fill then [] else runs, beat := some b }
    ((∀ q, s.cur.spill = some q → ¬ (q.stopped = true ∧ q.pc = s.cur.pc)) → p.beat = 0 ∧ p.na = na ∧ p.pc = s.cur.pc) ∧
    (∀ q, s.cur.spill = some q → q.stopped = true → q.pc = s.cur.pc → p = { q with stopped := false }) ∧
    (s.admits i = true → p.o = o → p.fill = fill →
      (beats = [] → ∃ t, exec i s = .next t ∧ Entered s t h 16 [] s.cur.spill) ∧
      (∀ b bs ps, beats = b :: bs → s.check s.curTile (req b) = .ok ps → ∃ t os, exec i s = .next t ∧ Entered s t h 16 os (some p) ∧
        t = (bs.foldl (fun (u : State) b => u.enter (req b) none false) ((s.modCur fun j => { j with spill := some p }).enter (req b) ps true)).advance h 16 ∧
        os.map (·.dst) = (if fill then beats.map (beatRuns l) else []).filter (· ≠ [])) ∧
      (∀ b bs c, beats = b :: bs → s.check s.curTile (req b) = .error c → exec i s = .next (s.trap (dataFault c (req b).rep (req b).nb))))

/-- R232, R388: `wsig` asks for the write of its payload, 2 × size slices from D's first, at A, and behind it for the flag function at B with C, as a
release at its scope; both are checked before any effect, and no slice is owed.
Completes: wsig. -/
def Obligations.WriteAndSignal : Prop :=
  ∀ (h : Hdr) (o : WsigF) (s : State),
    let f := s.cur.frame
    let nb := 8 * 2 ^ o.size.toNat
    let c := o.c.get f
    let pay : Req :=
      { op := .store, va := o.a.get f, nb := nb, rep := o.a.get f, enables := 2 ^ (2 * nb) - 1, from_ := s.tc,
        data := SliceOp.getRun o.d f (2 * nb), gather := SliceOp.run o.d (2 * nb), direct := true }
    let flag : Req :=
      { op := .wsigFlag, va := o.b.get f, nb := if o.f8 then 8 else 4, rep := o.b.get f, sc := o.scope, rel := true, afn := o.fn.toNat,
        data := c, cmp := c, direct := true }
    s.admits (.wsig h o) = true →
      (∀ p q q2, s.check s.curTile pay = .ok p → s.check s.curTile flag = .ok q2 → (s.enter pay p true).check s.curTile flag = .ok q →
        ∃ t, exec (.wsig h o) s = .next t ∧ Entered s t h 16 [] s.cur.spill ∧ t = ((s.enter pay p true).enter flag q true).advance h 16) ∧
      (∀ p c, s.check s.curTile pay = .ok p → s.check s.curTile flag = .error c →
        exec (.wsig h o) s = .next (s.trap (dataFault c flag.rep flag.nb))) ∧
      (∀ p c, s.check s.curTile flag = .ok p → s.check s.curTile pay = .error c →
        exec (.wsig h o) s = .next (s.trap (dataFault c pay.rep pay.nb))) ∧
      (∀ c d, s.check s.curTile pay = .error c → s.check s.curTile flag = .error d →
        exec (.wsig h o) s = .next (s.trap (if d < c then dataFault d flag.rep flag.nb else dataFault c pay.rep pay.nb)))

/-- R227, R262, R266 to R270, R216, R375, R388: what entering does. The access joins the tile's accesses in order of number, a repeated one under the number it had, with
its parts where its translation is at hand and the event of its walk where it is not, and where it gives a value the jet owes it. Then every part is tried in that order: one that nothing holds
back is sent; one whose access is not translated, or still reads its source, or that is sent already, or waits for a beat before it, for an earlier access, a fence or
an acquire, or at the tile's own caches stays, and its trial changes nothing. A part for a pool that nothing holds back has left when all are tried, and so has, or has not, the one
part of a tile's one access. Where the spec leaves a point open, a clause follows the model's choice (log entries 9, 15). -/
def Obligations.AccessEnters : Prop :=
  ∀ s : State,
    let n := s.curTile
    let x := s.here
    let open_ (u : State) (a : Access) (p : Part) : Prop :=
      a.stage = 2 ∧ a.gather = [] ∧ p.sent = false ∧ (a.isStore = true → (u.tile n).beatWaits a = false) ∧ u.holds n a p = false
    let here (u : State) (a : Access) (p : Part) : Prop := match p.path with
      | .pool => True
      | .cached => u.cacheWaits n a p = false
      | .stash | .bypass => (u.tile n).wcLine (p.addr / 128) = false ∧ (u.tile n).unackedLine (p.addr / 128) = false
    (∀ (r : Req) (p : Option (List Part)) (begun : Bool),
      let old := x.acc.find? fun a => a.stage == 3 && a.jet == s.cur.key && a.pc == s.cur.pc && a.beat == r.beat
      let id := match old with | some a => a.id | none => s.nextId
      let s1 : State := match old with | some _ => s | none => { s with nextId := s.nextId + 1 }
      let s2 : State := if r.dst = [] then s1 else
        ({ s1 with nextId := s1.nextId + 1 } : State).modCur fun j => { j with owed := j.owed ++ [s1.varOwed r.dst [] [] [0] false] }
      let ac := r.access id (if r.op = .pref then 0 else s.cur.key) s.curSlot (if r.dst = [] then 0 else s1.nextId) s.cur.inst (s.cur.id16 s.curSlot) s.cur.pc p
        (if p.isSome then 2 else if begun then 1 else 0)
      let u := s2.modHere fun x => { x with acc := insertAcc x.acc ac }
      s.enter r p begun = State.pump (match p with
        | some _ => u.cacheFor n r.va r.nb r.stash
        | none => if begun then (u.walksBegin n r.va r.nb r.stash).after (s.xlateCost n r.va r.nb r.stash) .tlbWalkDone ⟨n, id, 0, 0, 0⟩ else u) n) ∧
    (∀ (l : List Access) (a : Access), l.Pairwise (fun a b => a.id < b.id) → (insertAcc l a).Pairwise (fun a b => a.id < b.id) ∧ a ∈ insertAcc l a) ∧
    (∀ (id ix : Nat) (a : Access) (p : Part), x.access id = some a → a.parts[ix]? = some p →
      (open_ s a p ∧ here s a p → ∃ b q, ((s.tryPart n id ix).tile n).access id = some b ∧ b.parts[ix]? = some q ∧ q.sent = true) ∧
      (¬ (open_ s a p ∧ here s a p) → s.tryPart n id ix = s)) ∧
    (x.acc.Pairwise (fun a b => a.id < b.id) → ∀ (a : Access) (ix : Nat) (p : Part), a ∈ x.acc → a.parts[ix]? = some p → p.path = .pool → open_ s a p →
      ∀ (b : Access) (q : Part), b ∈ ((s.pump n).tile n).acc → b.id = a.id → b.parts[ix]? = some q → q.sent = true) ∧
    (∀ (a : Access) (p : Part), x.acc = [a] → a.parts = [p] →
      (open_ s a p ∧ here s a p → ∀ (b : Access) (q : Part), b ∈ ((s.pump n).tile n).acc → q ∈ b.parts → q.sent = true) ∧
      (¬ (open_ s a p ∧ here s a p) → s.pump n = (s.modTile n Tile.coverWc).modTile n Tile.sweep))

/-! ### Fences, stash, pins -/

/-- R270, R231, R219, R220, R224, R233: a fence stands before the jet's later accesses from its own number on. `stash.flush` and `stash.evict` write every owned
line in the range back, and leave it shared or drop it, an eviction dropping also what is filled until its status is written; `stash.map` sets or clears its entry after evicting what it held, with status 1, 2 or 3 and
no effect otherwise; every byte of memory outside the lines written back is as before, and poisoned as before. `pinwait` answers 1 after 4 tc for a range that is no
memory, and looks for pins from 64 tc on.
Completes: fence, fenceAll, stashMap, stashFlush, stashEvict, pinwait.
Where the spec leaves a point open, a clause follows the model's choice (log entries 9, 15). -/
def Obligations.FencesAndStash : Prop :=
  ∀ (h : Hdr) (o : R3) (e : BitVec 3) (sc : Scope) (s : State),
    let f := s.cur.frame
    let a := o.a.get f
    let n := o.b.get f
    let x := s.here
    let within (l : StashLine) : Bool := decide (a < 128 * l.va + 128 ∧ 128 * l.va < a + n)
    let lines := x.stash.filter within
    let held := match Tbl.get none x.stashMaps e.toNat with | some (b, k) => x.stashIn b k | none => []
    let cost (ls : List StashLine) : Nat := ls.foldl (fun m l => if l.owned then max m (28 + wayCost s.curTile (homeOf (128 * l.pa))) else m) 1
    let clash := n ≠ 0 ∧ ∃ m ∈ x.stashMaps, m.1 ≠ e.toNat ∧ ∃ b k, m.2 = some (b, k) ∧ a < b + k ∧ b < a + n
    let fence (all : Bool) : Tile → Tile := fun x => { x with fences := x.fences ++ [⟨s.cur.key, s.nextId, all, sc, false⟩] }
    let maps : Tile → Tile := fun y => { y with stashMaps := Tbl.set y.stashMaps e.toNat (if n = 0 then none else some (a, n)) }
    let cleaned (ls : List StashLine) (drop : Bool) (u : State) : Prop :=
      u = { s with mem := u.mem, tiles := u.tiles, stops := u.stops, dev := { s.dev with poison := u.dev.poison } } ∧ (∀ m, m ≠ s.curTile → u.tile m = s.tile m) ∧
      u.here = { x with stash :=
        if drop then x.stash.filter (fun m => !(ls.any fun l => l.va == m.va))
        else x.stash.map fun m => if ls.any (fun l => l.va == m.va) then { m with owned := false } else m } ∧
      (∀ q, u.stop q = { s.stop q with dir := (u.stop q).dir }) ∧
      (∀ b, (∀ l ∈ ls, l.owned = true → ¬ (128 * l.pa ≤ b ∧ b < 128 * l.pa + 128)) → u.mem.read b = s.mem.read b) ∧
      ((∀ l ∈ ls, ∀ k ∈ l.bad, k < 16) → ∀ w, (∀ l ∈ ls, l.owned = true → w / 16 ≠ l.pa) → (w ∈ u.dev.poison ↔ w ∈ s.dev.poison)) ∧
      (ls.Pairwise (fun l m => l.pa ≠ m.pa) → ∀ l ∈ ls, l.owned = true → ∀ k, k < 128 → u.mem.read (128 * l.pa + k) = BitVec.ofNat 8 (l.data / 256 ^ k))
    (s.admits (.fence h sc) = true → ∃ t, exec (.fence h sc) s = .next t ∧ Issued s t h 8 (fence false) [] []) ∧
    (s.admits (.fenceAll h sc) = true → ∃ t, exec (.fenceAll h sc) s = .next t ∧ Issued s t h 8 (fence true) [] []) ∧
    (s.admits (.stashFlush h o) = true → ∃ t u, exec (.stashFlush h o) s = .next t ∧ cleaned lines false u ∧ Status u t h 16 id (cost lines) o.d 0) ∧
    (s.admits (.stashEvict h o) = true → ∃ t u, exec (.stashEvict h o) s = .next t ∧ cleaned lines true u ∧
      Pending u t h 16 id o.d.range (cost lines) .statusResultWrite 10 (a + 2 ^ 64 * n)) ∧
    (s.admits (.stashMap h o e) = true →
      (x.poolways = 0 → ∃ t, exec (.stashMap h o e) s = .next t ∧ Status s t h 16 id 1 o.d 1) ∧
      (x.poolways ≠ 0 → a % 128 ≠ 0 ∨ n % 128 ≠ 0 ∨ 2 ^ 32 < n → ∃ t, exec (.stashMap h o e) s = .next t ∧ Status s t h 16 id 1 o.d 2) ∧
      (x.poolways ≠ 0 → a % 128 = 0 → n % 128 = 0 → n ≤ 2 ^ 32 → clash → ∃ t, exec (.stashMap h o e) s = .next t ∧ Status s t h 16 id 1 o.d 3) ∧
      (x.poolways ≠ 0 → a % 128 = 0 → n % 128 = 0 → n ≤ 2 ^ 32 → ¬ clash →
        ∃ t u, exec (.stashMap h o e) s = .next t ∧ cleaned held true u ∧ Status u t h 16 maps (cost held) o.d 0)) ∧
    (s.admits (.pinwait h o) = true →
      let bad := fld a 46 1 = 1 ∨ Config.dieBytes < fld a 0 40 + n
      (bad → ∃ t, exec (.pinwait h o) s = .next t ∧ Status s t h 16 id 4 o.d 1) ∧
      (¬ bad → ∃ t, exec (.pinwait h o) s = .next t ∧ Pending s t h 16 id o.d.range 64 .pinwaitDone n a))

/-! ### The copy engine -/

/-- R237, R238, R239, R240: `ctpl` takes its template where the record keeps its form, its destination offsets rise and its element counts agree, and
answers 1, 2, 3 otherwise; `cpy` and `cpy.cmp` put their command, built from A, B, C and the mask, behind the local queue, with the bytes of the
own pool that it will land in, if any.
Completes: ctpl, cpy, cpyCmp.
Where the spec leaves a point open, a clause follows the model's choice (log entry 16). -/
def Obligations.CopyIssue : Prop :=
  ∀ (h : Hdr) (o : R2) (q : CpyF) (tpl : BitVec 6) (m : BitVec 3) (s : State),
    let f := s.cur.frame
    let r := SliceOp.getRun o.a f 128
    let t0 := tplOf r
    let st := if fld r 491 21 ≠ 0 ∨ 4 < fld r 488 3 then 1 else if rises t0.esize t0.levels 0 = false then 2
      else if t0.srcCount ≠ t0.dstCount ∨ 2 ^ 32 ≤ t0.srcCount * t0.esize then 3 else 0
    let take : Tile → Tile := fun x => if st = 0 then { x with templates := Tbl.set x.templates tpl.toNat (some t0) } else x
    let image (cmp : Nat) (rows : BitVec 256) : Nat :=
      q.a.get f * 2 ^ 64 + q.b.get f * 2 ^ 128 + q.c.get f * 2 ^ 192 + q.tpl.toNat * 2 ^ 232 + q.ch.toNat * 2 ^ 240 + cmp * 2 ^ 243 + rows.toNat * 2 ^ 256
    let queued (i : Instr) (img : Nat) : Prop :=
      let c : CopyCmd := { img := BitVec.ofNat 512 img, checked := false, issuer := .tile s.curTile, inst := s.cur.inst, jet := s.cur.key, upTo := s.nextId,
                           arrived := s.tc, ahead := none }
      s.admits i = true → ∃ t w, exec i s = .next t ∧ Issued s t h 16 (fun x => { x with copyQ := x.copyQ ++ [{ c with ahead := w }] }) [] [] ∧
        ∀ e, w = some e → ∃ k, s.checkCopy s.curTile c = .ok k ∧ s.poolAt s.curTile k.lowVa = some (s.curTile, e.1) ∧ e.2 = k.bytes
    (s.admits (.ctpl h o tpl) = true → ∃ t, exec (.ctpl h o tpl) s = .next t ∧ Status s t h 16 take 4 o.d st) ∧
    queued (.cpy h q) (image 0 0) ∧ queued (.cpyCmp h q m) (image 1 (s.cur.mask m.toNat))

/-- R237, R238: the check that `ctpl` makes level by level holds exactly where every element's destination lies at least an element above the one
before it. -/
def Obligations.TemplateOrder : Prop :=
  ∀ (es : Nat) (l : List TplLevel), (∀ x ∈ l, 1 ≤ x.dext) →
    let at_ (k : Nat) : Int := offsetAt (l.map fun x => (x.dext, x.dstr)) k
    (rises es l 0 = true ↔ ∀ k, k + 1 < l.foldl (fun n x => n * x.dext) 1 → at_ k + es ≤ at_ (k + 1))

/-- R252, R245, R243: `cres` lets a frozen channel of a copy land on; `cabt` ends a landing or frozen one, aborted with status 1, what it holds dropped; where
a landing write is on its way it is kept apart, and the message waits for its acknowledgement; of any other channel both answer 1 and change nothing. `cstat` gives the state, the status and the count, and `cstat.clr` then frees a channel that
is done or aborted. Other channels, jets, pools and memory are as before.
Completes: cres, cabt, cstat, cstatClr.
Where the spec leaves a point open, a clause follows the model's choice (log entry 16). -/
def Obligations.ChannelControl : Prop :=
  ∀ (h : Hdr) (d : SliceOp) (ch : BitVec 3) (s : State),
    let c := s.here.chan ch.toNat
    let copy := c.servesCopy = true
    let word := (match c.state with | .idle => 0 | .landing => 1 | .frozen => 2 | .aborted => 3 | .done => 4) + 256 * c.status + 65536 * (c.count % 2 ^ 32)
    let after (u : State) (v : Channel) : Prop :=
      Kept s u ∧ u.here.chan ch.toNat = v ∧ ∀ k, k ≠ ch.toNat → u.here.chan k = s.here.chan k
    (s.admits (.cres h d ch) = true →
      (c.state = .frozen → copy → ∃ t u, exec (.cres h d ch) s = .next t ∧ Status u t h 8 id 2 d 0 ∧ after u { c with state := .landing }) ∧
      (¬ (c.state = .frozen ∧ copy) → ∃ t, exec (.cres h d ch) s = .next t ∧ Status s t h 8 id 2 d 1)) ∧
    (s.admits (.cabt h d ch) = true →
      (c.state = .landing ∨ c.state = .frozen → copy → ∃ t u, exec (.cabt h d ch) s = .next t ∧ Status u t h 8 id 2 d 0 ∧
        after u { c with state := .aborted, status := 1, needGuard := false, flying := false, pieces := [], writes := [] } ∧
        u.here.lastWrites = s.here.lastWrites ++ (if c.flying = true then [(ch.toNat, { c with status := 1 })] else []) ∧
        (c.done = 0 ∨ c.flying = true → u.here.weir.outbound = s.here.weir.outbound) ∧
        (c.done ≠ 0 → c.flying = false → ∃ e, u.here.weir.outbound = s.here.weir.outbound ++ [e] ∧ e.m.handle = c.done ∧ e.m.size = 16 ∧ e.released = false ∧
          fld e.m.payload 0 32 = c.count % 2 ^ 32 ∧ fld e.m.payload 32 8 = 1 ∧ fld e.m.payload 40 8 = ch.toNat ∧ fld e.m.payload 64 64 = c.wm.toNat)) ∧
      (¬ ((c.state = .landing ∨ c.state = .frozen) ∧ copy) → ∃ t, exec (.cabt h d ch) s = .next t ∧ Status s t h 8 id 2 d 1)) ∧
    (s.admits (.cstat h d ch) = true → ∃ t, exec (.cstat h d ch) s = .next t ∧ Status s t h 8 id 2 d word) ∧
    (s.admits (.cstatClr h d ch) = true → ∃ t u, exec (.cstatClr h d ch) s = .next t ∧ Status u t h 8 id 2 d word ∧
      after u (if c.state = .done ∨ c.state = .aborted then { c with state := .idle, wm := 0, guarded := false, needGuard := false } else c))

/-! ### Multicast -/

/-- R256, R257, R258, R255: `sub` traps on a line that does not translate, answers 3, 4, 5 or 1 where its record, its channel, its tag or the table is
against it, and otherwise takes a match entry, opens the channel's window on its pool and sends a join to the lines' home; `unsub` takes the tag out of
the table; `mcrd` waits at its tile with its lines' addresses until the jet's earlier accesses are performed. No jet but the issuer, no pool and no
byte of memory changes.
Completes: sub, unsub, mcrd.
Where the spec leaves a point open, a clause follows the model's choice (log entry 16). -/
def Obligations.Multicast : Prop :=
  ∀ (h : Hdr) (o : R2) (p : R3) (d : SliceOp) (tag : BitVec 12) (ch : BitVec 3) (lines : BitVec 6) (s : State),
    let f := s.cur.frame
    let x := s.here
    let r := SliceOp.getRun o.a f 32
    let src := fld r 0 64
    let dst := fld r 96 20
    let n := fld r 116 6 + 1
    let cost := s.xlateCost s.curTile src (128 * n)
    let a := p.a.get f
    let k := lines.toNat + 1
    let costA := s.xlateCost s.curTile a (128 * k)
    (s.admits (.sub h o tag ch) = true →
      (∀ c, s.streamLines s.curTile src n = .error c → exec (.sub h o tag ch) s = .next (s.trap (dataFault c src (128 * n)))) ∧
      (∀ l, s.streamLines s.curTile src n = .ok l →
        let got := l.filterMap fun e => e
        let pas := got.map fun e => e.2.2
        let bad : Bool := fld r 122 6 != 0 || fld r 0 7 != 0 || dst % 128 != 0 || l.contains none || (got.any fun e => e.1 == .io) || !oneHome got ||
          (pas.any fun pa => dieOf (homeOf pa) != dieOf s.curTile || paDev pa != s.dev.device.toNat) || !x.scratch dst (128 * n) || x.wayGoing dst (128 * n)
        let st := if bad then 3 else if (x.chan ch.toNat).state = .landing ∨ (x.chan ch.toNat).state = .frozen then 4
          else if ∃ b ∈ x.subs, b.tag = tag.toNat ∧ b.gone = false then 5 else if 16 ≤ (x.subs.filter fun b => !b.gone).length then 1 else 0
        (st ≠ 0 → ∃ t, exec (.sub h o tag ch) s = .next t ∧ Status (s.cacheFor s.curTile src (128 * n)) t h 12 id (cost + 2) o.d st) ∧
        (st = 0 → ∃ t b, exec (.sub h o tag ch) s = .next t ∧ WentOn s t h 12 [s.varOwed o.d.range [] [] [] false] ∧
          t.here.subs = x.subs ++ [b] ∧ b.tag = tag.toNat ∧ b.chan = ch.toNat ∧ b.lines = n ∧ b.dst = dst ∧ b.pas = pas ∧ b.owedId = s.nextId ∧ b.acked = false ∧
          (let c := t.here.chan ch.toNat
           c.state = .landing ∧ c.use = .mcast ∧ c.wm = BitVec.ofNat 64 dst ∧ c.winLo = dst ∧ c.winHi = dst + 128 * n ∧ c.done = BitVec.ofNat 32 (fld r 64 32)) ∧
          ∃ e, (t.stop s.curTile).inject = (s.stop s.curTile).inject ++ [e] ∧ e.body = .mcJoin s.curTile tag.toNat (homeOf (pas.headD 0)) false wholeWay ∧
            e.readyAt = s.nc + 4 + 2 * cost))) ∧
    (s.admits (.unsub h d tag) = true →
      (x.subOf tag.toNat = none → ∃ t, exec (.unsub h d tag) s = .next t ∧ Status s t h 12 id 2 d 1) ∧
      (∀ b, x.subOf tag.toNat = some b → ∃ t u, exec (.unsub h d tag) s = .next t ∧ Status u t h 12 id 2 d 0 ∧ Kept s u ∧
        ((x.subs.filter fun b => !b.gone).Pairwise (fun b c => b.tag ≠ c.tag) → u.here.subOf tag.toNat = none) ∧
        ((x.chan b.chan).state = .landing → (x.chan b.chan).use = .mcast → (x.chan b.chan).accepted = b.accepted → (u.here.chan b.chan).state = .aborted ∧ (u.here.chan b.chan).status = 1) ∧
        (b.acked = true → ∃ e, (u.stop s.curTile).inject = (s.stop s.curTile).inject ++ [e] ∧ e.body = .mcJoin s.curTile b.tag b.home true wholeWay))) ∧
    (s.admits (.mcrd h p tag lines) = true →
      (∀ c, s.streamLines s.curTile a k = .error c → exec (.mcrd h p tag lines) s = .next (s.trap (dataFault c a (128 * k)))) ∧
      (∀ l, s.streamLines s.curTile a k = .ok l →
        let got := l.filterMap fun e => e
        let st := if a % 128 ≠ 0 ∨ none ∈ l then 1 else if ∃ e ∈ got, e.1 = .strict ∨ e.1 = .io ∨ e.2.1 = true then 2 else if oneHome got = false then 1 else 0
        (st ≠ 0 → ∃ t, exec (.mcrd h p tag lines) s = .next t ∧ Status (s.cacheFor s.curTile a (128 * k)) t h 16 id (costA + 2) p.d st) ∧
        (st = 0 → ∃ t, exec (.mcrd h p tag lines) s = .next t ∧ WentOn s t h 16 [s.varOwed p.d.range [] [] [] false] ∧
          t.here.mcWait = x.mcWait ++ [{ jet := s.cur.key, upTo := s.nextId, tag := tag.toNat, src := a, mask := BitVec.ofNat 64 (p.b.get f),
                                         slot := s.curSlot, owedId := s.nextId, pas := got.map fun e => e.2.2, from_ := s.tc + costA }])))

/-! ### Basins, patterns, sends -/

/-- R158 to R161, R181, R155: `bdef` answers 4, 6, 1, 2, 5, 3 in this order where its record breaks its form, names 62, a basin that is there, finds no free
index, a second engine basin of its engine, or too little reserve; else the basin stands at the index with nothing in it, and D receives its
handle. `bfree` answers 1 to 4, or frees the basin and raises its generation, 4095 going to 1. `bstat` asks the weir, and is answered and
written in the fourth tc after issue, behind what the weir has accepted by then: with a counter's count, another basin's slots, ring, reserve and overflow, and all ones of a handle that is not live.
Completes: bdef, bfree, bstat, statusResultWrite.
That `bfree` looks for its statuses in the order 1, 2, 3, 4 is the model's choice (log entry 17). -/
def Obligations.Basins : Prop :=
  ∀ (h : Hdr) (o : R2) (s : State),
    let f := s.cur.frame
    let x := s.here
    let r := SliceOp.getRun o.a f 32
    let kind := fld r 0 2
    let msize := fld r 4 2
    let ix := fld r 6 6
    let reserve := fld r 22 10
    let form := fld r 32 32 = 0 ∧ fld r 12 5 = 0 ∧ fld r 3 1 = 0 ∧ kind ≠ 3 ∧ msize ≠ 3 ∧ fld r 64 6 = 0 ∧ reserve ≤ 512 ∧ (kind = 2 ∨ fld r 2 1 = 0) ∧
      (kind = 1 → msize = 0 ∧ reserve ≤ 1 ∧ fld r 17 1 = 0) ∧ (kind = 2 → msize = 2)
    let free (k : Nat) : Bool := (x.weir.basin k).isNone
    let ends (t : State) (v : Nat) (g : Tile → Tile) : Prop := exec (.bdef h o) s = .next t ∧ Status s t h 16 g 4 o.d v
    let hd := BitVec.ofNat 32 (o.a.get f)
    let i := hIndex hd
    let fenced := ∃ e ∈ x.weir.patterns, ∃ p, e.2 = some p ∧ i ∈ p.basins
    (s.admits (.bdef h o) = true →
      (¬ form → ∃ t, ends t 4 id) ∧
      (form → ix = 62 → ∃ t, ends t 6 id) ∧
      (form → ix ≠ 62 → ix ≠ 63 → free ix = false → ∃ t, ends t 1 id) ∧
      (form → ix = 63 → (∀ k, k < 62 → free k = false) → ∃ t, ends t 2 id) ∧
      (∀ k, form → ix ≠ 62 → (ix ≠ 63 → k = ix ∧ free ix = true) → (ix = 63 → k < 62 ∧ free k = true ∧ ∀ l, l < k → free l = false) →
        let twice := kind = 2 ∧ (x.engineBasin (fld r 2 1 == 1)).isSome = true
        (twice → ∃ t, ends t 5 id) ∧
        (¬ twice → 448 < x.reserves + reserve → ∃ t, ends t 3 id) ∧
        (¬ twice → x.reserves + reserve ≤ 448 → ∃ t b, ends t (handleOf s.dev.device s.curTile k (x.weir.gen k)).toNat (fun x => x.modWeir fun w => w.setBasin k (some b)) ∧
          b.reserve = reserve ∧ b.msize = 16 * 2 ^ msize ∧ b.ringEn = (fld r 17 1 == 1) ∧ b.ringLog = fld r 18 4 ∧ b.ringBase = BitVec.ofNat 64 (fld r 64 64) ∧
          (kind = 0 → b.kind = .message) ∧ (kind = 1 → b.kind = .counter) ∧ (kind = 2 → b.kind = .engine ∧ b.engCopy = (fld r 2 1 == 1)) ∧
          b.slots = [] ∧ b.ring = [] ∧ b.count = 0 ∧ b.threshold = 0 ∧ b.overflowed = 0))) ∧
    (s.admits (.bfree h o) = true →
      let away := hDev hd ≠ s.dev.device.toNat ∨ hTile hd ≠ s.curTile
      let gives (v : Nat) : Prop := ∃ t, exec (.bfree h o) s = .next t ∧ Status s t h 8 id 4 o.d v
      let live := s.live s.curTile hd = true
      (away → gives 1) ∧ (¬ away → ¬ live → gives 2) ∧ (¬ away → live → i = 62 ∨ i = 63 → gives 3) ∧
      (¬ away → live → i ≠ 62 → i ≠ 63 → fenced → gives 4) ∧
      (¬ away → live → i ≠ 62 → i ≠ 63 → ¬ fenced → ∃ t u, exec (.bfree h o) s = .next t ∧ Status u t h 8 id 4 o.d 0 ∧ Kept s u ∧
        u.here.weir.basin i = none ∧ u.here.weir.gen i = x.weir.gen i % 4095 + 1 ∧
        (∀ k, k ≠ i → u.here.weir.basin k = x.weir.basin k ∧ u.here.weir.gen k = x.weir.gen k) ∧ u.here.weir.patterns = x.weir.patterns)) ∧
    (s.admits (.bstat h o) = true → ∃ t, exec (.bstat h o) s = .next t ∧ Issued s t h 8
      (fun x => { x with weir := { x.weir with asks := x.weir.asks ++ [(s.tc + 4, s.curSlot, s.nextId, hd)] } }) [s.varOwed o.d.range [] [] [] false] []) ∧
    (∀ w v, s.focus.d = 9 → (s.jet s.focus.a s.focus.b).findOwed s.focus.c = some w →
      (let hf := BitVec.ofNat 32 s.focus.data
       (s.live s.focus.a hf = false ∧ v = 2 ^ 64 - 1) ∨
       (s.live s.focus.a hf = true ∧ ∃ b, (s.tile s.focus.a).weir.basin (hIndex hf) = some b ∧
         v = if b.kind = .counter then b.count.toNat
             else b.slots.length * 2 ^ 48 + b.ring.length * 2 ^ 32 + b.reserve * 2 ^ 22 + min 63 b.overflowed * 2 ^ 16)) →
      ∃ t q, exec .statusResultWrite s = .next t ∧ (t.jet s.focus.a s.focus.b).findOwed s.focus.c = some q ∧ q.w = [⟨scatter w.dst v, []⟩] ∧
        (s.nc, ⟨s.focus.a, s.focus.b, s.focus.c, 0, 0⟩, Instr.statusResultWrite) ∈ t.agenda ∧ t.mem = s.mem)

/-- R174, R175, R176, R178, R387: `pdef` answers 7, 1, 2, 3, 4, 5, 6 in this order, or takes its entry of the table: at once where it sends a command, and
answers 16 · index after 4 tc; else it waits for the body header. `pdel`, `pen` and `pdis` answer 1 of an empty entry, and 0 after they have deleted,
enabled or disabled the pattern; an enabled pattern's basins are examined from the next tc. Completes: pdef, pdel, pen, pdis.
That a pattern with a body takes its entry at issue, and matches only when its header has been read, is the model's reading (log entry 17). -/
def Obligations.Patterns : Prop :=
  ∀ (h : Hdr) (o : R3) (d : SliceOp) (ix : BitVec 5) (s : State),
    let f := s.cur.frame
    let w := s.here.weir
    let r := SliceOp.getRun o.a f 64
    let img := SliceOp.getRun o.b f 128
    let bs := (List.range (fld r 70 2 + 1)).map fun k => fld r (72 + 6 * k) 6
    let sends := fld r 66 1 = 1
    let form := fld r 96 16 = 0 ∧ fld r 9 56 = 0 ∧ (sends ∨ fld r 65 1 = 0) ∧ (sends ↔ o.b.isNz = false) ∧
      (∀ k, k < 4 → (k ≤ fld r 70 2 ∨ fld r (72 + 6 * k) 6 = 0) ∧ fld r (128 + 16 * k) 1 = 0) ∧ (fld r 0 6 < 32 ∨ fld r 0 6 = 63)
    let free (k : Nat) : Bool := (w.pattern k).isNone
    let gives (v : Nat) : Prop := ∃ t, exec (.pdef h o) s = .next t ∧ Status s t h 16 id 4 o.d v
    let engine (b : Nat) : Prop := ∃ k, w.basin b = some k ∧ k.kind = .engine
    let p : Pattern :=
      { entry := BitVec.ofNat 64 (fld r 192 64), patch := BitVec.ofNat 64 (fld r 128 64), inst := BitVec.ofNat 16 (fld r 112 16), basins := bs,
        inherit := fld r 69 1 == 1, rotate := fld r 68 1 == 1, enable := fld r 67 1 == 1, action := fld r 66 1 == 1, engCopy := fld r 65 1 == 1,
        prio := BitVec.ofNat 3 (fld r 6 3), grans := 1, role := 0, badHeader := false, command := BitVec.ofNat 512 img, held := none, by_ := 0 }
    let look (l : List Nat) (w : Weir) : Weir := { w with examine := w.examine ++ l.map fun b => (b, s.tc + 1) }
    let on (i : Instr) (g : Pattern → Weir → Weir) : Prop :=
      s.admits i = true →
        (free ix.toNat = true → ∃ t, exec i s = .next t ∧ Status s t h 8 id 4 d 1) ∧
        (∀ p, w.pattern ix.toNat = some p → ∃ t, exec i s = .next t ∧ Status s t h 8 (fun x => { x with weir := g p x.weir }) 4 d 0)
    (s.admits (.pdef h o) = true →
      (¬ form → gives 7) ∧
      (form → fld r 0 6 = 63 → (∀ k, k < 32 → free k = false) → gives 1) ∧
      (form → fld r 0 6 ≠ 63 → free (fld r 0 6) = false → gives 2) ∧
      (∀ k, form → (fld r 0 6 ≠ 63 → k = fld r 0 6 ∧ free k = true) → (fld r 0 6 = 63 → k < 32 ∧ free k = true ∧ ∀ l, l < k → free l = false) →
        let gone := ∃ b ∈ bs, w.basin b = none
        let twice := ¬ bs.Nodup ∨ ∃ b ∈ bs, engine b
        let patched := s.here.patchesOk r = true
        let noEngine := sends ∧ (s.here.engineBasin (fld r 65 1 == 1)).isNone = true
        (gone → gives 3) ∧ (¬ gone → twice → gives 4) ∧ (¬ gone → ¬ twice → ¬ patched → gives 5) ∧ (¬ gone → ¬ twice → patched → noEngine → gives 6) ∧
        (¬ gone → ¬ twice → patched → ¬ noEngine → sends → ∃ t, exec (.pdef h o) s = .next t ∧
          Status s t h 16 (fun x => { x with weir := (if p.enable then look bs else id) (x.weir.setPattern k (some p)) }) 4 o.d (16 * k)) ∧
        (¬ gone → ¬ twice → patched → ¬ sends → ∃ t, exec (.pdef h o) s = .next t ∧
          Pending s t h 16 (fun x => { x with weir := x.weir.setPattern k (some { p with grans := 0, by_ := s.nextId }) }) o.d.range
            (max 4 (s.headerCost s.curTile (fld r 192 64))) .statusResultWrite 1 (k + 32 * fld r 192 64)))) ∧
    on (.pdel h d ix) (fun _ w => w.setPattern ix.toNat none) ∧
    on (.pen h d ix) (fun p w => look p.basins (w.setPattern ix.toNat (some { p with enable := true }))) ∧
    on (.pdis h d ix) (fun p w => w.setPattern ix.toNat (some { p with enable := false }))

/-- R166, R167, R171, R172: a send puts one entry into the tile's outbound buffer, with the issuer's instance, the handle in D, its payload, the scope it
releases at, and the number of the first access it does not wait for; nothing else changes. Completes: send, sendRel, sendRelAll, sendc, arm. -/
def Obligations.Sends : Prop :=
  ∀ (h : Hdr) (o : R2) (size : BitVec 2) (sc : Scope) (s : State),
    let f := s.cur.frame
    let hd := BitVec.ofNat 32 (o.d.get f)
    let out (op : SendOp) (n payload : Nat) (rel : Option Scope) (all : Bool) : Tile → Tile := fun x => { x with weir := { x.weir with outbound :=
      x.weir.outbound ++ [⟨{ handle := hd, src := .tile s.curTile, seq := 0, base := 0, inst := s.cur.inst, op := op, size := n, payload := payload,
                             rel := rel, relAll := all, tt := none, hostEntry := none }, s.cur.key, s.nextId, false, false, s.tc⟩] } }
    let does (i : Instr) (g : Tile → Tile) : Prop := s.admits i = true → ∃ t, exec i s = .next t ∧ Issued s t h 16 g [] []
    let n := 16 * 2 ^ size.toNat
    let data := SliceOp.getRun o.a f (2 * n)
    let a := o.a.get f
    does (.send h o size) (out .data n data none false) ∧ does (.sendRel h o size sc) (out .data n data (some sc) false) ∧
    does (.sendRelAll h o size sc) (out .data n data (some sc) true) ∧
    does (.sendc h o) (out .add 16 a (some (if hDev hd = s.dev.device.toNat then .device else .system)) false) ∧
    does (.arm h o) (out .arm 16 a none false)

/-! ### Work and gangs -/

/-- R182, R185, R186, R194 to R197, R200: `fork` answers 2, 3, 4 for a grain, a range or a target that is none, and otherwise asks for its header with the
task it will push, a tracked one noted as a piece its tracker must hear of; `rnext`'s claim is applied in the next tc; `cancel` and `cancel.clr` send a request to the husk master; `husked` answers from the tile's
set after 2 tc, or from the die's table after 12; `prio` sets the level, at most the ceiling, and writes the old one. Completes: fork, rnext, cancel, cancelClr, husked, prio. Where the spec leaves a point open, a clause follows the model's choice (log entry 18). -/
def Obligations.WorkInstructions : Prop :=
  ∀ (h : Hdr) (o : R4) (p : R2) (ctl : BitVec 16) (imm : BitVec 32) (inst : BitVec 16) (d : SliceOp) (lvl : BitVec 3) (s : State),
    let f := s.cur.frame
    let j := s.cur
    let lo := o.a.get f
    let hi := o.b.get f
    let g := if o.c.isNz then ctl.toNat else o.c.get f
    let target := trunc ((j.pc.toNat : Int) + sext imm.toNat 32) 64
    let bad := if g = 0 ∨ 2 ^ 24 ≤ g then 2 else if hi < lo then 3 else if target % 32 ≠ 0 ∨ 2 ^ 57 ≤ target then 4 else 0
    let task : Task :=
      { done := 0, entry := BitVec.ofNat 64 target, tindex := j.range.tindex, ttile := j.range.ttile, tracked := j.range.has && j.range.tracked,
        barrier := false, frame := 0, role := 0, prio := j.level, inst := j.inst, grain := BitVec.ofNat 24 g, hi := BitVec.ofNat 48 hi, lo := BitVec.ofNat 48 lo }
    let who := if p.a.isNz then inst else BitVec.ofNat 16 (p.a.get f)
    let asks (i : Instr) (clear : Bool) : Prop := s.admits i = true → ∃ t, exec i s = .next t ∧
      t = { s with tiles := t.tiles, nextId := t.nextId, dev := { s.dev with huskQ := s.dev.huskQ ++
        [{ clear := clear, inst := who, tile := s.curTile, slot := s.curSlot, key := j.key, owedId := s.nextId,
           arriveAt := evenUp (s.nc + wayCost s.curTile 0), tt := none }] } } ∧
      WentOn s t h 8 [s.varOwed p.d.range [] [] [] false]
    let asked := if p.a.isNz then j.inst else BitVec.ofNat 16 (p.a.get f)
    let hit := asked ∈ s.here.huskSet
    let further := ¬ hit ∧ s.here.huskMore = true
    (s.admits (.fork h o ctl imm) = true →
      (bad ≠ 0 → ∃ t, exec (.fork h o ctl imm) s = .next t ∧ Status s t h 16 id 4 o.d bad) ∧
      (bad = 0 → ∃ t, exec (.fork h o ctl imm) s = .next t ∧
        Pending s t h 16
          (fun x => { x with increments := x.increments ++ if task.tracked then [(task.ttile.toNat, task.tindex.toNat, s.nextId)] else [] })
          o.d.range (max 4 (s.headerCost s.curTile target)) .statusResultWrite 2 task.image)) ∧
    (s.admits (.rnext h p) = true → ∃ t, exec (.rnext h p) s = .next t ∧
      Pending s t h 8 id (p.d.range ++ p.a.range) 1 .statusResultWrite 3 (if p.d.isNz then 1 else 0)) ∧
    asks (.cancel h p inst) false ∧ asks (.cancelClr h p inst) true ∧
    (s.admits (.husked h p) = true →
      (further → ∃ t v, exec (.husked h p) s = .next t ∧ Status s t h 8 id 12 p.d v ∧
        (v = 1 ↔ asked ∈ (s.die (dieOf s.curTile)).huskTable) ∧ (v = 0 ∨ v = 1)) ∧
      (¬ further → ∃ t, exec (.husked h p) s = .next t ∧ Status s t h 8 id 2 p.d (if hit then 1 else 0))) ∧
    (s.admits (.prio h d lvl) = true → ∃ t, exec (.prio h d lvl) s = .next t ∧ JetFrame s t id ∧
      t.cur = { j.behind h 8 s.tc [s.fixedOwed 1 (d.put j.level.toNat) 0] with level := if lvl ≤ j.ceiling then lvl else j.ceiling } ∧
      t.agenda = withEvents s.agenda [s.evt 1 .resultWriteback 0 0])

/-- R182, R185: the image of a task record gives its fields back, each in its place. -/
def Obligations.TaskRecord : Prop :=
  ∀ k : Task, k.entry.toNat % 32 = 0 → k.entry.toNat < 2 ^ 57 →
    let n := k.image
    n < 2 ^ 256 ∧ Task.ofImage n = k ∧ fld n 0 48 = k.lo.toNat ∧ fld n 48 48 = k.hi.toNat ∧ fld n 96 24 = k.grain.toNat ∧ fld n 120 16 = k.inst.toNat ∧
    fld n 136 3 = k.prio.toNat ∧ fld n 139 2 = k.role.toNat ∧ fld n 141 7 = k.frame.toNat ∧ fld n 148 1 = b2n k.barrier ∧ fld n 149 1 = b2n k.tracked ∧
    fld n 150 10 = k.ttile.toNat ∧ fld n 160 4 = k.tindex.toNat ∧ fld n 164 8 = 0 ∧ 32 * fld n 172 52 = k.entry.toNat ∧ fld n 224 32 = k.done.toNat

/-- R202, R204: `gang` reads its descriptor at issue and its status comes within 40 tc, the last of which goes with the event; `gang.end` answers 1 where the jet is no member of a live gang, or deletes
the patterns that are the gang's still and marks it ended. Completes: gang, gangEnd. -/
def Obligations.Gangs : Prop :=
  ∀ (h : Hdr) (o : R2) (d : SliceOp) (s : State),
    let img := SliceOp.getRun o.a s.cur.frame 128 + s.cur.level.toNat * 2 ^ 512 + s.cur.inst.toNat * 2 ^ 515 + (s.tc + 40) * 2 ^ 531
    let mine := s.cur.gang.bind fun g => s.gangOf g.1
    (s.admits (.gang h o) = true → ∃ t n, exec (.gang h o) s = .next t ∧ 1 ≤ n ∧ n ≤ 40 ∧
      Pending { s with fresh := s.fresh + 1 } t h 16 id o.d.range n .statusResultWrite 4 img) ∧
    (s.admits (.gangEnd h d) = true →
      ((∀ t g, mine = some (t, g) → g.ended = true) → ∃ t, exec (.gangEnd h d) s = .next t ∧ Status s t h 16 id 4 d 1) ∧
      (∀ k g, mine = some (k, g) → g.ended = false → ∃ t u v, exec (.gangEnd h d) s = .next t ∧ Status u v h 16 id 4 d 0 ∧ t = v.gangSettle g.id ∧
        Kept s u ∧ (∀ p ∈ g.pats, ∀ q, (s.tile p.1).weir.pattern p.2 = some q →
          (u.tile p.1).weir.pattern p.2 = if q.held.map (·.1) = some g.id then none else some q) ∧
        (∀ n i, (n, i) ∉ g.pats → (u.tile n).weir.pattern i = (s.tile n).weir.pattern i) ∧
        (u.tile k).gangs = (s.tile k).gangs.map fun z => if z.id = g.id then { z with ended := true } else z))

/-! ### The matrix engine and cisterns -/

/-- R305, R308, R325, R315, R303: `tdef` answers 1, 2 or 3 where its entry breaks its form, has no positive finite scale, or lists outlier channels that are
out of range or out of order, and nothing changes; else the entry stands under its identifier. `mx` puts its 64 bytes into the engine's local queue.
`mxq` gives the engine's status word, or resumes or aborts a frozen run, and answers 1 where none is frozen. `actl` checks its pages and reads its
table as its status comes; `capk` sets the key. Completes: tdef, mx, mxqStatus, mxqResume, mxqAbort, actl, capk. Where the spec leaves a point open, a clause follows the model's choice (log entry 20). -/
def Obligations.MatrixInstructions : Prop :=
  ∀ (h : Hdr) (o : R2) (e8 : BitVec 8) (a : ElemOp) (d : SliceOp) (imm : BitVec 32) (tb : BitVec 4) (s : State),
    let f := s.cur.frame
    let x := s.here
    let e := SliceOp.getRun o.a f 256
    let malformed := fld e 704 320 ≠ 0 ∨ fld e 352 32 ≠ 0 ∨ fld e 206 50 ≠ 0 ∨ fld e 0 3 ≠ 0 ∨ fld e 198 2 = 3 ∨ 16 < fld e 201 5
    let scaled := (posFin (fld e 128 32)).isSome = true
    let outlier (k : Nat) : Nat := fld e (384 + 16 * k) 16
    let listed := fld e 201 5 = 0 ∨ (fld e 198 2 = 0 ∧ (∀ k, k < fld e 201 5 → outlier k ≤ fld e 176 16) ∧
      ∀ k, k + 1 < fld e 201 5 → outlier k < outlier (k + 1))
    let ends (v : Nat) (g : Tile → Tile) : Prop := ∃ t, exec (.tdef h o e8) s = .next t ∧ Status s t h 16 g 4 o.d v
    let frozen (r : Run) : Prop := x.mx.run = some r ∧ r.state = .frozen
    let va := o.a.get f
    (s.admits (.tdef h o e8) = true →
      (malformed → ends 1 fun x => x) ∧ (¬ malformed → ¬ scaled → ends 2 fun x => x) ∧ (¬ malformed → scaled → ¬ listed → ends 3 fun x => x) ∧
      (¬ malformed → scaled → listed → ends 0 fun x => { x with mx := { x.mx with tids := Tbl.set x.mx.tids e8.toNat (BitVec.ofNat 1024 e) } })) ∧
    (s.admits (.mx h a) = true → ∃ l t, exec (.mx h a) s = .next t ∧ s.cur.mxSlots a = .ok l ∧
      Issued s t h 16 (fun x => { x with mx := { x.mx with localQ := x.mx.localQ ++
        [{ img := BitVec.ofNat 512 (f.gather l), checked := false, issuer := .tile s.curTile, inst := s.cur.inst, jet := s.cur.key, upTo := s.nextId,
           arrived := s.tc }] } }) [] []) ∧
    (s.admits (.mxqStatus h d) = true → ∃ t v, exec (.mxqStatus h d) s = .next t ∧ Status s t h 8 id 2 d v ∧
      (x.mxDead = true → v % 256 = 4) ∧ (x.mxDead = false → ∀ r, x.mx.run = some r → v % 256 = if r.state = .frozen then 2 else 1) ∧
      (x.mxDead = false → x.mx.run = none → v % 256 = if x.mx.parked.isSome then 3 else 0) ∧
      (∀ r, x.mx.run = some r → v / 2 ^ 16 % 2 ^ 16 = r.passes r.step % 2 ^ 16) ∧ v / 2 ^ 32 = x.mx.last ∧
      (x.engineBasin false = none → v / 2 ^ 8 % 2 ^ 8 = min 255 x.mx.localQ.length)) ∧
    (s.admits (.mxqResume h d) = true →
      ((∀ r, ¬ frozen r) → ∃ t, exec (.mxqResume h d) s = .next t ∧ Status s t h 8 id 2 d 1) ∧
      (∀ r, frozen r → ∃ t u, exec (.mxqResume h d) s = .next t ∧ Status u t h 8 id 2 d 0 ∧ Kept s u ∧
        u.here.mx = { x.mx with run := some { r with state := .running, fault := none, readyAt := s.tc + 1 } } ∧
        (mxCist r.img = false → (u.here.chan (mxChan r.img)).state = .landing))) ∧
    (s.admits (.mxqAbort h d) = true →
      ((∀ r, ¬ frozen r) → ∃ t, exec (.mxqAbort h d) s = .next t ∧ Status s t h 8 id 2 d 1) ∧
      (∀ r, frozen r → ∃ t u, exec (.mxqAbort h d) s = .next t ∧ Status u t h 8 id 2 d 0 ∧ Kept s u ∧
        u.here.mx = { x.mx with run := none, last := 4 } ∧ (mxCist r.img = false → (u.here.chan (mxChan r.img)).state = .aborted))) ∧
    (s.admits (.actl h o tb) = true →
      (∀ c, s.partsOf s.curTile .read .page true va 528 = .error c → exec (.actl h o tb) s = .next (s.trap (dataFault c va 528))) ∧
      (∀ ps, s.partsOf s.curTile .read .page true va 528 = .ok ps → ∃ t, exec (.actl h o tb) s = .next t ∧
        Entered s t h 16 [s.varOwed o.d.range [] [] [] false] s.cur.spill ∧
        (s.nc + 2 * (s.agentCost s.curTile va + 9), ⟨s.curTile, s.curSlot, s.nextId, 5, tb.toNat + 16 * (va + 2 ^ 64 * s.nextId)⟩, Instr.statusResultWrite) ∈ t.agenda)) ∧
    (s.admits (.capk h d imm) = true → ∃ t, exec (.capk h d imm) s = .next t ∧
      Issued s t h 12 (fun x => { x with capkey := if d.isNz then imm else BitVec.ofNat 32 (d.get f) }) [] [])

/-- R319, R320, R120: `addw` and `crd` trap where the block's base is not a multiple of 8 in a pool, or the index is above 255, or the cistern passes the pool's end; else `addw` asks for the update of
its cistern by the addend a, `crd` for the cistern's value in D. `cclr` traps in the same way, or where its bytes leave the window; else it owes one
status, and its stores cover its `8 + 48·n` bytes, each byte in one store alone. Completes: addw, crd, cclr. Where the spec leaves a point open, a clause follows the model's choice (log entry 20). -/
def Obligations.CisternInstructions : Prop :=
  ∀ (h : Hdr) (o : R4) (p : R3) (q : R2) (kind : BitVec 2) (sg bf : Bool) (k : BitVec 9) (nm1 : BitVec 8) (s : State),
    let f := s.cur.frame
    let based (base : Nat) : Prop := base % 8 = 0 ∧ (poolOf s.dev.device.toNat s.curTile base).isSome = true
    let inside (base ix : Nat) : Prop := ix ≤ 255 ∧ base % 2 ^ 20 + 8 + 48 * ix + 48 ≤ 2 ^ 20
    let traps (i : Instr) (base ix : Nat) : Prop := s.admits i = true →
      (¬ based base → exec i s = .next (s.trap (dataFault 7 base 48))) ∧
      (based base → ¬ inside base ix → exec i s = .next (s.trap (dataFault 10 base 48)))
    let n := nm1.toNat + 1
    let b := q.a.get f
    let i1 := Instr.addw h o kind sg k
    let i2 := Instr.crd h p bf
    let i3 := Instr.cclr h q nm1
    traps i1 (o.a.get f) (o.d.get f) ∧ traps i2 (p.a.get f) (p.b.get f) ∧ traps i3 b 0 ∧
    (based (o.a.get f) → inside (o.a.get f) (o.d.get f) → ∃ sp num ex, Asks s i1 h 16
        { op := .addw sp num ex (o.a.get f % 2 ^ 20), va := o.a.get f + 8 + 48 * o.d.get f, nb := 48, rep := o.a.get f + 8 + 48 * o.d.get f, whole := true } ∧
      (kind = 2 → sp = 0 ∧ num = (if sg then sext (o.b.get f) (4 * o.b.width) else o.b.get f) ∧ ex = sext k.toNat 9) ∧
      (∀ m neg e, kind = 0 → fpDec pF32 (o.b.get f) = .fin neg m e → sp = 0 ∧ num = (if neg then -(m : Int) else m) ∧ ex = e) ∧
      (∀ m neg e m' neg' e', kind = 1 → fpDec pF32 (o.b.get f) = .fin neg m e → fpDec pF32 (o.c.get f) = .fin neg' m' e' →
        sp = 0 ∧ num = (if neg = neg' then ((m * m' : Nat) : Int) else -((m * m' : Nat) : Int)) ∧ ex = e + e')) ∧
    (based (p.a.get f) → inside (p.a.get f) (p.b.get f) → Asks s i2 h 16
      { op := .crd bf, va := p.a.get f + 8 + 48 * p.b.get f, nb := 48, rep := p.a.get f + 8 + 48 * p.b.get f, dst := p.d.range, direct := true, whole := true }) ∧
    (s.admits i3 = true → based b → inside b 0 →
      (2 ^ 20 < b % 2 ^ 20 + (8 + 48 * n) → exec i3 s = .next (s.trap (dataFault 10 b (8 + 48 * n)))) ∧
      (b % 2 ^ 20 + (8 + 48 * n) ≤ 2 ^ 20 → (∃ y, s.partOf s.curTile .write .page false (0, b, 8 + 48 * n) = .ok y) → ∃ t, exec i3 s = .next t ∧
        Entered s t h 16 [s.varOwed q.d.range [] [] [] false] s.cur.spill)) ∧
    (∀ c, c < 8 + 48 * n → ∃ k, (∀ m, m < ceilDiv (8 + 48 * n) 64 →
      ((clearChunk n m).1 ≤ c ∧ c < (clearChunk n m).1 + (clearChunk n m).2 ↔ m = k)) ∧ k < ceilDiv (8 + 48 * n) 64)

/-! ### Expert chains -/

/-- R344, R343, R337, R332: `xgo` answers 2 for an address that is no multiple of 64, 1 at a queue of four, else its block's address joins the queue of the chain;
`xsnap` traps on a misaligned address, answers 1 where its bytes cannot be written, else its request joins the chain's; `xrepl` answers 1 of a descriptor
that is not well formed. `mrg.join` answers 3 for a tag the tile is in and 2 for a root of another die; `mrg.put` and `mrg.leave` answer 1 where the tile is no leaf;
`mrg.put` answers 2 of a list that is none. Else a tree packet enters the network at the tile's own router, 4 network cycles later. Completes: xgo, xsnap, xrepl, mrgJoin, mrgPut, mrgLeave. Where the spec leaves a point open, a clause follows the model's choice (log entry 21). -/
def Obligations.ExpertInstructions : Prop :=
  ∀ (h : Hdr) (o : R2) (p : R3) (d : SliceOp) (tag : BitVec 12) (x chain : Bool) (s : State),
    let f := s.cur.frame
    let n := s.curTile
    let k := 2 * dieOf n + b2n chain
    let a := o.a.get f
    let gives (i : Instr) (lat : Nat) (d : SliceOp) (v : Nat) (u : State) : Prop := ∃ t, exec i s = .next t ∧ Status u t h 16 id lat d v
    let tree (u : State) (flits : Nat) (b : Pkt) : Prop := u = s.modStop n fun y => { y with inject := y.inject ++
      [⟨s.dev.device.toNat, n, .ni, s.dev.device.toNat, n, flits, b, false, s.nc + 4, b.sport⟩] }
    let leaf (r : Nat) (b : Bool) : Prop := s.here.leafOf tag.toNat = some (tag.toNat, r, b)
    let none_ := ∀ r, ¬ leaf r true
    let hd := BitVec.ofNat 32 a
    let root := if x then chainStop k else hTile hd
    let l := SliceOp.getRun o.a f 128
    let held := (s.here.leafOf tag.toNat).isSome = true
    let foreign := x = false ∧ (hDev hd ≠ s.dev.device.toNat ∨ dieOf root ≠ dieOf n)
    let listed := 1 ≤ fld l 400 8 ∧ fld l 400 8 ≤ 8 ∧ fld l 384 16 ≤ fld l 400 8
    let e := p.a.get f
    let w := p.b.get f
    let pond (i : Nat) : Nat := fld w (2 + 5 * i) 5
    let described := e ≤ 255 ∧ w < 2 ^ 22 ∧ ∀ i, i ≤ w % 4 → pond i < 16 ∨ pond i = 31
    (s.admits (.xgo h o chain) = true →
      (a % 64 ≠ 0 → gives (.xgo h o chain) 2 o.d 2 s) ∧ (a % 64 = 0 → 4 ≤ (s.chain k).queue.length → gives (.xgo h o chain) 2 o.d 1 s) ∧
      (a % 64 = 0 → (s.chain k).queue.length < 4 → gives (.xgo h o chain) 2 o.d 0
        (s.modChain k fun c => { c with queue := c.queue ++ [⟨a, n, s.cur.key, s.nextId, s.cur.inst⟩] }))) ∧
    (s.admits (.xsnap h o chain) = true →
      (a % 16 ≠ 0 → exec (.xsnap h o chain) s = .next (s.trap (dataFault 7 a 16))) ∧
      (∀ c, a % 16 = 0 → s.partsOf n .write .page true a 4112 = .error c → gives (.xsnap h o chain) 2 o.d 1 s) ∧
      (∀ ps, a % 16 = 0 → s.partsOf n .write .page true a 4112 = .ok ps → ∃ t, exec (.xsnap h o chain) s = .next t ∧
        t.cur = s.cur.behind h 16 s.tc [s.varOwed o.d.range [] [] [] false] ∧ t.mem = s.mem ∧ t.agenda = s.agenda ∧
        (∀ m, m ≠ n → t.tile m = s.tile m) ∧ (∀ c, c ≠ k → t.chain c = s.chain c) ∧
        ∃ from_, t.chain k = { s.chain k with snaps := (s.chain k).snaps ++ [⟨a, ps, n, s.curSlot, s.nextId, from_, none, 0, 0⟩] })) ∧
    (s.admits (.xrepl h p chain) = true →
      (¬ described → gives (.xrepl h p chain) 4 p.d 1 s) ∧
      (described → ∃ t, exec (.xrepl h p chain) s = .next t ∧ Pending s t h 16 id p.d.range 4 .statusResultWrite 8 (k + 8 * (e + 256 * w)))) ∧
    (s.admits (.mrgJoin h o tag x chain) = true →
      (held → gives (.mrgJoin h o tag x chain) 2 o.d 3 s) ∧ (¬ held → foreign → gives (.mrgJoin h o tag x chain) 2 o.d 2 s) ∧
      (¬ held → ¬ foreign → ∃ t u, exec (.mrgJoin h o tag x chain) s = .next t ∧
        tree u 1 (.mergeJoin n tag.toNat root s.curSlot s.nextId false (if x then some k else none) (if x then 0 else hd) Config.tiles) ∧
        Issued u t h 16 (fun y => { y with mergeLeaves := y.mergeLeaves ++ [(tag.toNat, root, false)] }) [s.varOwed o.d.range [] [] [] false] [])) ∧
    (s.admits (.mrgPut h o tag) = true →
      (none_ → gives (.mrgPut h o tag) 2 o.d 1 s) ∧ (∀ r, leaf r true → ¬ listed → gives (.mrgPut h o tag) 2 o.d 2 s) ∧
      (∀ r, leaf r true → listed → ∃ u l1, tree u 2 (.merge tag.toNat r l1) ∧ gives (.mrgPut h o tag) 2 o.d 0 u ∧
        fld l1.toNat 416 32 = 1 ∧ fld l1.toNat 0 416 = fld l 0 416 ∧ fld l1.toNat 448 64 = 0)) ∧
    (s.admits (.mrgLeave h d tag) = true →
      (none_ → gives (.mrgLeave h d tag) 2 d 1 s) ∧
      (∀ r, leaf r true → ∃ t u, exec (.mrgLeave h d tag) s = .next t ∧ tree u 1 (.mergeJoin n tag.toNat r 0 0 true none 0 Config.tiles) ∧
        Status u t h 16 (fun y => { y with mergeLeaves := y.mergeLeaves.filter fun e => e.1 != tag.toNat }) 2 d 0))

/-- R296: two lists of one round merge to the best of their entries, as many as the smaller k, with their leaves summed. Entries stand by descending score, by
ascending id where no score is higher, and a NaN stands last; every two entries stand in one order or the other, so the order of arrival does not matter: the two ways of merging two lists hold entries of the same rank at each place, and the
same entries where no two of them have one rank. That the smaller k holds where two lists differ in k is the model's choice (log entry 21). -/
def Obligations.MergedLists : Prop :=
  (∀ a b : BitVec 512, fld a.toNat 400 8 ≤ 8 → fld b.toNat 400 8 ≤ 8 → let m := (mergeLists a b).toNat
    fld m 384 16 = min (min (fld a.toNat 400 8) (fld b.toNat 400 8)) ((listEntries a.toNat ++ listEntries b.toNat).length) ∧
    fld m 416 32 = (fld a.toNat 416 32 + fld b.toNat 416 32) % 2 ^ 32 ∧ fld m 408 8 = fld a.toNat 408 8 ∧
    (listEntries m).Pairwise (fun p q => rankLe p q = true) ∧ (listEntries m).Subperm (listEntries a.toNat ++ listEntries b.toNat) ∧
    ∀ e ∈ listEntries a.toNat ++ listEntries b.toNat, e ∉ listEntries m → ∀ k ∈ listEntries m, rankLe k e = true) ∧
  (∀ p q : Nat × Nat, rankLe p q = true ∨ rankLe q p = true) ∧
  (∀ p q r : Nat × Nat, rankLe p q = true → rankLe q r = true → rankLe p r = true) ∧
  (∀ p q : Nat × Nat, (fpDec pF32 q.1).lt (fpDec pF32 p.1) = true → rankLe p q = true ∧ rankLe q p = false) ∧
  (∀ p q : Nat × Nat, (fpDec pF32 p.1).isNan = false → (fpDec pF32 q.1).isNan = true → rankLe p q = true ∧ rankLe q p = false) ∧
  (∀ p q : Nat × Nat, (fpDec pF32 p.1).isNan = false → (fpDec pF32 q.1).isNan = false → (fpDec pF32 p.1).lt (fpDec pF32 q.1) = false → (fpDec pF32 q.1).lt (fpDec pF32 p.1) = false →
    (rankLe p q = true ↔ p.2 ≤ q.2)) ∧
  (∀ a b : BitVec 512, fld a.toNat 400 8 ≤ 8 → fld b.toNat 400 8 ≤ 8 →
    let l := listEntries (mergeLists a b).toNat
    let m := listEntries (mergeLists b a).toNat
    List.Forall₂ (fun p q => rankLe p q = true ∧ rankLe q p = true) l m ∧
    ((listEntries a.toNat ++ listEntries b.toNat).Pairwise (fun p q => rankLe p q = false ∨ rankLe q p = false) → l = m))

/-- R334, R336: what routing a token keeps. Every choice gives one slot; no two slots that are not zero hold one expert; a dispatch takes capacity, and no expert's
count passes the layer's capacity; a choice that has room and is not held gets its slot and adds 1 to its expert's count, one that is held merges, one that is full gives way to the next
candidate, and one that finds none is dropped and counted; a slot's replica is the token's number modulo the number of the expert's replicas. Where the spec leaves a point open, a clause follows the model's choice (log entry 21). -/
def Obligations.TokenRouting : Prop :=
  ∀ (tbl : Tbl (Nat × List Nat)) (t E cap n : Nat) (cs rest : List (Nat × Nat)) (r : Routing),
    let q := Routing.run tbl t E cap cs n r rest
    let held (r : Routing) : List Nat := (r.slots.filter fun x => !x.zero).map (·.e)
    let placed (r : Routing) : Prop := ∀ x ∈ r.slots, x.zero = true ∨
      ((Tbl.get (0, []) r.reps x.e).1 ≠ 0 ∧ x.i = t % (Tbl.get (0, []) r.reps x.e).1)
    let took (r u : Routing) (c : Nat × Nat) : Prop := (∃ x, u.slots = r.slots ++ [x] ∧ x.zero = false ∧ x.e = c.2 ∧ x.w = BitVec.ofNat 32 c.1) ∧ u.disp = r.disp + 1 ∧
      (ctrAt u.ctr c.2).1 = inc32 (ctrAt r.ctr c.2).1 ∧ (ctrAt u.ctr c.2).2.2.2 = psumAdd (ctrAt r.ctr c.2) c.1 ∧ (∀ e, e ≠ c.2 → ctrAt u.ctr e = ctrAt r.ctr e) ∧ u.drops = r.drops
    q.slots.length = r.slots.length + cs.length + n ∧
    ((held r).Nodup → (held q).Nodup) ∧
    ((∀ e, (ctrAt r.ctr e).1 ≤ cap) → ∀ e, (ctrAt q.ctr e).1 ≤ cap) ∧
    ((∀ e, (ctrAt r.ctr e).1 < 2 ^ 32) → ∀ e, (ctrAt r.ctr e).1 ≤ (ctrAt q.ctr e).1) ∧
    ((∀ e, (Tbl.get (1, [31]) tbl e).1 ≠ 0) → (∀ e ∈ r.reps, e.2.1 ≠ 0) → placed r → placed q) ∧
    (held q).length + r.disp = (held r).length + q.disp ∧
    (cap < 2 ^ 32 → (∀ e, (ctrAt r.ctr e).1 ≤ cap) → ∀ e, (ctrAt q.ctr e).1 + (held r).count e = (ctrAt r.ctr e).1 + (held q).count e) ∧
    (∀ c cs', cs = c :: cs' → c.2 < E → r.has c.2 = false → (ctrAt r.ctr c.2).1 ≠ cap → ∃ u, q = Routing.run tbl t E cap cs' n u rest ∧ took r u c) ∧
    (∀ c d cs' rest', cs = c :: cs' → rest = d :: rest' → (E ≤ c.2 ∨ r.has c.2 = false ∧ (ctrAt r.ctr c.2).1 = cap) → d.2 < E → r.has d.2 = false →
      (ctrAt r.ctr d.2).1 ≠ cap → ∃ u, q = Routing.run tbl t E cap cs' n u rest' ∧ took r u d) ∧
    (∀ c cs', cs = c :: cs' → c.2 < E → r.has c.2 = true → ∃ u, q = Routing.run tbl t E cap cs' n u rest ∧ held u = held r ∧ u.slots.length = r.slots.length + 1 ∧
      (ctrAt u.ctr c.2).1 = (ctrAt r.ctr c.2).1 ∧ (ctrAt u.ctr c.2).2.1 = (ctrAt r.ctr c.2).2.1 ∧ (ctrAt u.ctr c.2).2.2.1 = inc32 (ctrAt r.ctr c.2).2.2.1) ∧
    (∀ c cs', cs = c :: cs' → rest = [] → (E ≤ c.2 ∨ r.has c.2 = false ∧ (ctrAt r.ctr c.2).1 = cap) → ∃ u, q = Routing.run tbl t E cap cs' n u [] ∧
      u.slots = r.slots ++ [zeroSlot] ∧ (∀ e, e ≠ c.2 → ctrAt u.ctr e = ctrAt r.ctr e) ∧ (ctrAt u.ctr c.2).1 = (ctrAt r.ctr c.2).1 ∧
      (ctrAt u.ctr c.2).2.1 = (if c.2 < E then inc32 (ctrAt r.ctr c.2).2.1 else (ctrAt r.ctr c.2).2.1) ∧ u.drops = r.drops + b2n (decide (c.2 < E)))

/-! ### Traps, jets and state registers -/

/-- R9, R42, R348, R349: taking a trap. The jet in the slot is suspended with its program counter on the instruction, its frame, its owed results and its flags as
they are, and out of its cascade; the record of the fault, 64 bytes with the cause, the operands of R348, the jet, its instance and the program counter, is
to reach the tile's fault basin 6 network cycles later; no other jet and no byte of memory or of a pool differs. -/
def Obligations.TrapEntry : Prop :=
  ∀ (s : State) (n k : Nat) (f : Flt) (at_ stay : BitVec 64), n < Config.tiles →
    let j := s.jet n k
    let t := s.trapAt n k f at_ stay
    let u := t.jet n k
    u.status = .suspended ∧ u.pc = j.contPc.getD stay ∧ u.frame = j.frame ∧ u.owed = j.owed ∧ u.fpflags = j.fpflags ∧ u.views = j.views ∧
    u.masks = j.masks ∧ u.casc = .none ∧ u.fwdQ = [] ∧
    (j.contPc = none → u.interrupted = j.interrupted ++ j.replay) ∧
    (∀ m i, (m, i) ≠ (n, k) → t.jet m i = s.jet m i) ∧ t.mem = s.mem ∧ (∀ m, (t.tile m).pool = (s.tile m).pool) ∧ t.agenda = s.agenda ∧
    (∀ m, m ≠ n → t.tile m = s.tile m) ∧
    ∃ r : SendMsg, (t.tile n).weir.localIn = (s.tile n).weir.localIn ++ [(s.nc + 6, r)] ∧ hTile r.handle = n ∧ hIndex r.handle = 63 ∧ r.size = 64 ∧
      (f.cause < 2 ^ 8 → fld r.payload 80 8 = f.cause) ∧ (f.sub < 2 ^ 8 → fld r.payload 88 8 = f.sub) ∧ fld r.payload 96 5 = f.flags.toNat ∧
      fld r.payload 128 16 = (j.id16 k).toNat ∧ fld r.payload 144 16 = j.inst.toNat ∧ fld r.payload 118 10 = n ∧
      fld r.payload 192 64 = s.dev.time % 2 ^ 64 ∧ fld r.payload 320 64 = f.info % 2 ^ 64 ∧ fld r.payload 384 64 = at_.toNat ∧
      fld r.payload 448 64 = f.addr % 2 ^ 64 ∧ fld r.payload 64 16 = f.tcode % 2 ^ 16

/-- R42, R62, R92, R224, R347: an instruction whose checks fail at issue traps there and does nothing else: first illegal, then frame range, then, under checking,
a result of fixed latency read too early, then poison in a slice it reads. This holds of every instruction of a program (those that have words), but that a
well-formed `trap` raises nothing besides its own cause and a frame range. -/
def Obligations.ChecksAtIssue : Prop :=
  ∀ (i : Instr) (s : State), i.encoded = true →
    (∀ c, (footOf i s).ill = some c → exec i s = .next (s.illegal c)) ∧
    (∀ n, (footOf i s).ill = none → s.cur.outside (footOf i s) = some n → exec i s = .next (s.trap { cause := 3, info := n })) ∧
    (∀ o, (footOf i s).ill = none → s.cur.outside (footOf i s) = none → i.isTrap = false → s.here.checking = true → s.cur.early (footOf i s) = some o →
      exec i s = .next (s.trap { cause := 4, info := o.issued })) ∧
    (∀ w, (footOf i s).ill = none → s.cur.outside (footOf i s) = none → i.isTrap = false → (s.here.checking = true → s.cur.early (footOf i s) = none) →
      s.cur.tainted (footOf i s) = some w → exec i s = .next (s.trap { cause := 8, info := 2 }))

/-- R350, R351, R388, R85: `trap` suspends its jet behind itself with cause 12 wherever its operand lies in the frame; `resume` answers 1 where no jet of the tile has that number, 2 where that jet is not
suspended, and else sets it running 2 tc later, at the address in B where one is given, with what it holds of interrupted instructions to be replayed, or
dropped where an address is given; `kill` answers 1 for no such jet or context, 2 for itself, and 0 when the jet is gone from its slot, or from its save-area entry. Completes: trap, resume, kill.
Where the spec leaves a point open, a clause follows the model's choice (log entry 12). -/
def Obligations.JetControl : Prop :=
  ∀ (h : Hdr) (a : SliceOp) (code : BitVec 16) (o : R3) (p : R2) (s : State),
    let f := s.cur.frame
    let n := s.curTile
    let v := o.a.get f
    let w := p.a.get f
    let named (v k : Nat) : Prop := s.here.jetById (v % 2 ^ 16) = some k
    let gives (i : Instr) (d : SliceOp) (v : Nat) (u : State) : Prop := ∃ t, exec i s = .next t ∧ Status u t h 8 id 2 d v
    (s.cur.outside (footOf (.trap h a code) s) = none → exec (.trap h a code) s = .next
      (s.trapAt n s.curSlot { cause := 12, info := a.get f, tcode := code.toNat } (nextPc s.cur.pc 8) (nextPc s.cur.pc 8))) ∧
    (s.admits (.resume h o) = true →
      (v / 2 ^ 16 % 2 = 1 ∨ (∀ k, ¬ named v k) → gives (.resume h o) o.d 1 s) ∧
      (∀ k, v / 2 ^ 16 % 2 = 0 → named v k → (s.jet n k).status ≠ .suspended → gives (.resume h o) o.d 2 s) ∧
      (∀ k, v / 2 ^ 16 % 2 = 0 → named v k → (s.jet n k).status = .suspended → ∃ u, gives (.resume h o) o.d 0 u ∧
        (u.jet n k).status = .running ∧ (u.jet n k).stallTill = s.tc + 2 ∧ (u.jet n k).interrupted = [] ∧
        (u.jet n k).frame = (s.jet n k).frame ∧ u.mem = s.mem ∧ (∀ m i, (m, i) ≠ (n, k) → u.jet m i = s.jet m i) ∧
        (o.b.isNz = true → (u.jet n k).pc = (s.jet n k).pc ∧ (u.jet n k).replay.Perm (s.jet n k).interrupted) ∧
        (o.b.isNz = false → (u.jet n k).pc = BitVec.ofNat 64 (o.b.get f) ∧ (u.jet n k).replay = []))) ∧
    (s.admits (.kill h p) = true →
      (w / 2 ^ 16 % 2 = 0 → (∀ k, ¬ named w k) → gives (.kill h p) p.d 1 s) ∧
      (w / 2 ^ 16 % 2 = 0 → named w s.curSlot → gives (.kill h p) p.d 2 s) ∧
      (∀ k, w / 2 ^ 16 % 2 = 0 → named w k → k ≠ s.curSlot → ∃ u, gives (.kill h p) p.d 0 u ∧ (u.jet n k).status = .free ∧ u.mem = s.mem ∧
        { u.cur with fwdQ := s.cur.fwdQ } = s.cur) ∧
      (w / 2 ^ 16 % 2 = 1 → s.here.save (w % 16) = none → gives (.kill h p) p.d 1 s) ∧
      (∀ e, w / 2 ^ 16 % 2 = 1 → s.here.save (w % 16) = some e → e.saved = false → e.slot ≠ s.curSlot → ∃ u, gives (.kill h p) p.d 0 u ∧ (u.jet n e.slot).status = .free ∧
        u.mem = s.mem) ∧
      (∀ e, w / 2 ^ 16 % 2 = 1 → s.here.save (w % 16) = some e → e.saved = true → ∃ u, gives (.kill h p) p.d 0 u ∧ u.here.save (w % 16) = none ∧ u.mem = s.mem))

/-- R352, R85, R14, R108, R110, R89, R188, R199, R184, R193, R217, R327, R341, R353, R244: what `csrr` reads of each register, zero-extended or truncated to D's width. Completes: csrr. Where the spec leaves a point open, a clause follows the model's choice (log entry 12). -/
def Obligations.RegisterReads : Prop :=
  ∀ (h : Hdr) (d : SliceOp) (r : BitVec 12) (s : State),
    let x := s.here
    let reads (n v : Nat) : Prop := r.toNat = n → s.admits (.csrr h d r) = true → ∃ t, exec (.csrr h d r) s = .next t ∧
      Result s t h 8 id 1 (d.put (v % 2 ^ (4 * d.width))) 0
    reads 0 (s.cur.seq.toNat * 8 + s.curSlot % 8) ∧ reads 1 (tileidOf s.dev.device s.curTile).toNat ∧ reads 2 (s.dev.time % 2 ^ 64) ∧
    reads 3 s.cur.fpflags.toNat ∧ reads 4 x.fpten.toNat ∧ reads 5 x.issuectl.toNat ∧ reads 6 x.stealctl.toNat ∧ reads 7 x.prioage.toNat ∧
    reads 8 x.dqspill.toNat ∧ reads 9 x.lqmap.toNat ∧ reads 10 x.poolways.toNat ∧
    reads 11 (x.mxFenced.toNat * 2 ^ 32 + x.stint.toNat * 2 ^ 16 + if x.mxDead then 1 else 0) ∧ reads 12 (s.die (dieOf s.curTile)).curlayer.toNat ∧
    reads 13 0 ∧ reads 14 x.savectl.toNat ∧ reads 15 0 ∧ ∀ k, k < 8 → reads (16 + k) (x.chan k).wm.toNat

/-- R352, R14, R42, R108, R110, R89, R188, R199, R193, R327, R341: `csrw` writes the fields a register has and no others, before the jet's next instruction; a pending value of
`savectl` or `dqspill` takes effect when no entry is in use, or the spill area is empty (R353, R184); `ringrty` lets a live basin's refills go on (R164); a value of `curlayer` is the
die's from the next tc on. A `csrw` to a register that is only read, `tileid` among them, is no instruction: it raises illegal instruction, sub-code 6; one
to a number with no register raises sub-code 4. Completes: csrw, savectlWrite, dqspillWrite, ringrtyWrite. Where the spec leaves a point open, a clause follows the model's choice (log entry 12). -/
def Obligations.RegisterWrites : Prop :=
  ∀ (h : Hdr) (a : SliceOp) (r : BitVec 12) (s : State),
    let v := a.get s.cur.frame
    let hd := BitVec.ofNat 32 v
    let sets (n : Nat) (g : Tile → Tile) : Prop := r.toNat = n → s.admits (.csrw h a r) = true → ∃ t, exec (.csrw h a r) s = .next t ∧ Issued s t h 8 g [] []
    let does (i : Instr) (g : Tile → Tile) : Prop := s.admits i = true → ∃ t, exec i s = .next t ∧ Issued s t h 8 g [] []
    let save := BitVec.ofNat 64 (fld v 0 10 + fld v 14 21 * 2 ^ 14)
    let spill := BitVec.ofNat 64 (fld v 5 27 * 2 ^ 5)
    let queues := BitVec.ofNat 32 ((List.range 4).foldl (fun m q => m + (fld v (8 * q) 6 + fld v (8 * q + 7) 1 * 2 ^ 7) * 2 ^ (8 * q)) 0)
    (r.toNat = 3 → s.admits (.csrw h a r) = true → ∃ t, exec (.csrw h a r) s = .next t ∧ JetFrame s t id ∧
      t.cur = { s.cur.behind h 8 s.tc [] with fpflags := BitVec.ofNat 5 v } ∧ t.agenda = s.agenda) ∧
    sets 4 (fun x => { x with fpten := BitVec.ofNat 5 v }) ∧
    sets 5 (fun x => { x with issuectl := BitVec.ofNat 32 (max 16 (fld v 16 12) * 2 ^ 16 + fld v 0 2) }) ∧
    sets 6 (fun x => { x with stealctl := BitVec.ofNat 32 (fld v 24 8 * 2 ^ 24 + max 1 (fld v 16 8) * 2 ^ 16 + fld v 4 12 * 2 ^ 4 + fld v 0 3) }) ∧
    sets 7 (fun x => { x with prioage := BitVec.ofNat 64 (fld v 0 48) }) ∧
    sets 9 (fun x => { x with lqmap := queues }) ∧
    sets 11 (fun x => { x with stint := BitVec.ofNat 16 (fld v 16 16) }) ∧
    (r.toNat = 12 → s.admits (.csrw h a r) = true → ∃ t u, exec (.csrw h a r) s = .next t ∧ Issued u t h 8 id [] [] ∧
      u = s.modDie (dieOf s.curTile) fun d => { d with curNext := some (BitVec.ofNat 64 (fld v 0 6 + fld v 8 56 * 2 ^ 8)) }) ∧
    (s.dev.powered = true → s.nc % 2 = 1 → ∀ d, d < 4 → (s.tick.die d).curlayer = (s.die d).curNext.getD (s.die d).curlayer) ∧
    (lowest a.ck = none → r.toNat ∈ [0, 1, 2, 10, 13, 16, 17, 18, 19, 20, 21, 22, 23] → decode (encode (.csrw h a r)) = .error 6) ∧
    (lowest a.ck = none → 24 ≤ r.toNat → decode (encode (.csrw h a r)) = .error 4) ∧
    ((∃ e ∈ s.here.saves, e.2 ≠ none) → does (.savectlWrite h a) fun x => { x with savectlNext := some save }) ∧
    ((∀ e ∈ s.here.saves, e.2 = none) → does (.savectlWrite h a) fun x => { x with savectl := save, savectlNext := none }) ∧
    (s.here.spilledTasks ≠ [] → does (.dqspillWrite h a) fun x => { x with dqspillNext := some spill }) ∧
    (s.here.spilledTasks = [] → does (.dqspillWrite h a) fun x => { x with dqspill := spill, dqspillNext := none, spillHead := 0 }) ∧
    ((2 ^ 32 ≤ v ∨ s.live s.curTile hd = false) → does (.ringrtyWrite h a) id) ∧
    (∀ b, v < 2 ^ 32 → s.live s.curTile hd = true → s.here.weir.basin (hIndex hd) = some b → s.admits (.ringrtyWrite h a) = true →
      ∃ t k, exec (.ringrtyWrite h a) s = .next t ∧ t.here.weir.basin (hIndex hd) = some k ∧ k.ringStopped = false ∧ k.slots = b.slots ∧ k.ring = b.ring ∧
        t.mem = s.mem ∧ t.cur = s.cur.behind h 8 s.tc [])

/-! ### Units -/

/-- R234, R360, R254: `tlbinv` answers 1 where its range passes 2^57, else drops the entries that meet its range from the TLBs of its scope, and its status is not
written before 4, 48 or 160 tc. `selftest` answers 2 of a unit that is not there, else the test is to come within 4,096 tc. `waymask` answers 1 while a change of the
ways is still waited for, and 2 where a way that would leave holds saved contexts or spilled tasks. Completes: tlbinv, waymask, selftest. Where the spec leaves a point open, a clause follows the model's choice (log entries 9, 15, 22). -/
def Obligations.UnitInstructions : Prop :=
  ∀ (h : Hdr) (o : R3) (p : R2) (sc : BitVec 2) (m : BitVec 16) (kind : BitVec 3) (s : State),
    let f := s.cur.frame
    let x := s.here
    let a := o.a.get f
    let n := o.b.get f
    let i1 := Instr.tlbinv h o sc
    let i2 := Instr.waymask h p m
    let i3 := Instr.selftest h p kind
    let inScope (u : Nat) : Prop := u = s.curTile ∨ (sc.toNat = 1 ∧ dieOf u = dieOf s.curTile) ∨ 2 ≤ sc.toNat
    let meets (e : TlbEntry) : Prop := n = 0 ∨ (a < e.vbase + e.size ∧ e.vbase < a + n)
    let wait := if sc.toNat = 0 then 4 else if sc.toNat = 1 then 48 else 160
    let new := if p.a.isNz then m else BitVec.ofNat 16 (p.a.get f)
    let leaves (w : Nat) : Prop := w < 16 ∧ new.getLsbD w = true ∧ x.poolways.getLsbD w = false
    let units := [16, 8, 16, 16, 4, 5, 8].getD kind.toNat 0
    (s.admits i1 = true →
      (2 ^ 57 < a + n → ∃ t, exec i1 s = .next t ∧ Status s t h 16 id 2 o.d 1) ∧
      (a + n ≤ 2 ^ 57 → ∃ t, exec i1 s = .next t ∧ t.cur = s.cur.behind h 16 s.tc [s.varOwed o.d.range [] [] [] false] ∧ t.mem = s.mem ∧
        (s.nc + 2 * wait, ⟨s.curTile, s.curSlot, s.nextId, 0, 0⟩, Instr.tlbinvComplete) ∈ t.agenda ∧
        (∀ u, inScope u → (∃ e ∈ s.tiles, e.1 = u) → ∀ e, e ∈ (t.tile u).tlb ↔ e ∈ (s.tile u).tlb ∧ ¬ meets e) ∧
        (∀ u, ¬ inScope u → t.tile u = s.tile u) ∧ (∀ u, (t.tile u).pool = (s.tile u).pool))) ∧
    (s.admits i2 = true →
      (x.wayPend.isSome = true → ∃ t, exec i2 s = .next t ∧ Status s t h 8 id 1 p.d 1) ∧
      (x.wayPend.isSome = false → (∃ w, leaves w ∧ x.wayHeld w = true) → ∃ t, exec i2 s = .next t ∧ Status s t h 8 id 1 p.d 2) ∧
      (x.wayPend.isSome = false → (∀ w, leaves w → x.wayHeld w = false) → ∃ t, exec i2 s = .next t ∧
        (t.here.poolways = new ∧ t.here.wayPend = none ∨ ∃ q, t.here.wayPend = some q ∧ q.mask = new ∧ q.slot = s.curSlot) ∧
        ∀ w, w < 16 → new.getLsbD w = false → t.here.poolways.getLsbD w = false)) ∧
    (s.admits i3 = true →
      (p.a.isNz = false → units ≤ p.a.get f → ∃ t, exec i3 s = .next t ∧ Status s t h 16 id 2 p.d 2) ∧
      (p.a.isNz = true ∨ p.a.get f < units → ∃ t q d, exec i3 s = .next t ∧ t.cur = s.cur.behind h 16 s.tc [s.varOwed p.d.range [] [] [] false] ∧
        t.dev.selftests = s.dev.selftests ++ [q] ∧ q.tile = s.curTile ∧ q.kind = kind.toNat ∧ q.owedId = some s.nextId ∧
        q.units = (if p.a.isNz then List.range units else [p.a.get f]) ∧
        (s.nc + 2 * d, ⟨s.curTile, q.id, 0, 0, 0⟩, Instr.selftestDone) ∈ t.agenda ∧ 1 ≤ d ∧ d ≤ 4096 ∧ t.mem = s.mem))

/-! ### Nests -/

/-- R149, R150, R151, R152, R67, R131: each of the ten `nest` instructions, where its checks pass, begins at indices 0, or where it was stopped; it owes the granules of the
slices its destination still reaches, its first beat starts in the next tc, and nothing else changes; what it then does to each element, or how a reduction joins a block
to what it has, is its own operation in its class. Completes: nestMov, nestAdd, nestSub, nestMul, nestMin, nestMax, nestMacc, nestRsum, nestRmax, nestRmin.
Where the spec leaves a point open, a clause follows the model's choice (log entry 23). -/
def Obligations.NestIssue : Prop :=
  ∀ (h : Hdr) (o : NestF) (s : State),
    let fresh (fn : Nat) (n : NestSt) : Prop := n.id = s.nextId ∧ n.key = s.cur.key ∧ n.pc = s.cur.pc ∧ n.fn = fn ∧ n.o = o ∧ n.idx = [0, 0, 0, 0, 0] ∧
      n.mask = s.cur.mask o.mask.toNat ∧ n.owed = [] ∧ n.was = [] ∧ n.accSet = false ∧ n.fl = 0 ∧ n.stopped = false ∧ n.finished = false
    let mine (m : NestSt) : Prop := m.key = s.cur.key ∧ m.pc = s.cur.pc ∧ m.stopped = true
    let starts (fn : Nat) (i : Instr) (does : NestSt → Prop) : Prop := s.admits i = true → ∃ t n, exec i s = .next t ∧
      Issued s t h 32 (fun x => { x with nests := t.here.nests }) [s.varOwed (granulesOf (s.nestFoot fn o).dst) [] [] [0] false] [s.evt 1 .nestBeat 0 0] ∧
      (∀ m, m ∈ t.here.nests ↔ m = n ∨ (m ∈ s.here.nests ∧ ¬ mine m)) ∧
      ((∀ m ∈ s.here.nests, ¬ mine m) → fresh fn n ∧ does n) ∧
      (∀ m, (∃ l l', s.here.nests = l ++ m :: l' ∧ ∀ k ∈ l, ¬ mine k) → mine m →
        n = { m with id := s.nextId, was := m.id :: m.was, slot := s.curSlot, fn := fn, o := o, stopped := false, src := n.src, old := n.old })
    let fp : Bool := o.cls != .int
    let w := 4 * (match o.cls with | .int => o.iwidth.toNat + 1 | .bf16 => 4 | .f32 => 8)
    let rd (x : Nat) : Int := if o.signed then sext x w else zext x w
    let cut (r : Int) : Nat := trunc (if o.sat then clampTo w o.signed r else r) w
    let fmt : Nat := if o.cls = .bf16 then pBf else pF32
    let each (g : Nat → Nat → Nat → Nat × Nat) (v : Int → Int → Int → Int) (n : NestSt) : Prop := ∀ a b d,
      n.calc a b d = if fp then g a b d else (cut (v (rd a) (rd b) (rd d)), 0)
    let wide (x : Nat) : Nat := if o.cls = .bf16 then (bfToF32 x).1 else x
    let folds (g : Nat → Nat → Nat × Nat) (e : Nat) (v : Int → Int → Int) (n : NestSt) : Prop := ∀ (blk : List Nat) (acc : Nat) (r : Int),
      (fp = true → ({ n with accSet := true, acc := (acc : Int) }.combine (blk.map some)).1 = ((g acc (tree g e (blk.map wide)).1).1 : Int)) ∧
      (fp = false → ({ n with accSet := true, acc := r }.combine (blk.map some)).1 = blk.foldl (fun a x => v a (rd x)) r)
    starts 0 (.nestMov h o) (fun n => ∀ a b d, n.calc a b d = (a, 0)) ∧
    starts 1 (.nestAdd h o) (each (fun a b _ => addFp fmt o.rm a b) fun a b _ => a + b) ∧
    starts 2 (.nestSub h o) (each (fun a b _ => subFp fmt o.rm a b) fun a b _ => a - b) ∧
    starts 3 (.nestMul h o) (each (fun a b _ => mulFp fmt o.rm a b) fun a b _ => a * b) ∧
    starts 4 (.nestMin h o) (each (fun a b _ => minmaxFp fmt false a b) fun a b _ => if a ≤ b then a else b) ∧
    starts 5 (.nestMax h o) (each (fun a b _ => minmaxFp fmt true a b) fun a b _ => if b ≤ a then a else b) ∧
    starts 6 (.nestMacc h o) (each (fun a b d => fmaFp fmt o.rm a b d) fun a b d => d + a * b) ∧
    starts 7 (.nestRsum h o) (folds (fun x y => addFp pF32 o.rm x y) 0x80000000 fun a x => a + x) ∧
    starts 8 (.nestRmax h o) (folds (fun x y => minmaxFp pF32 true x y) 0xff800000 fun a x => if x ≤ a then a else x) ∧
    starts 9 (.nestRmin h o) (folds (fun x y => minmaxFp pF32 false x y) 0x7f800000 fun a x => if a ≤ x then a else x)

/-- R151: the beats of a `nest` go through its levels as an odometer does, level 0 by a beat's elements: the place in the order of R149 of the first index of the next
beat is that of this beat plus its elements, within the extents, until the last index is done. -/
def Obligations.NestOrder : Prop :=
  ∀ n : NestSt, n.idx.length = 5 → (∀ l, l < 5 → n.i l < n.o.extent l) →
    let place (ix : List Nat) : Nat := ix.getD 0 0 + n.o.extent 0 * (ix.getD 1 0 + n.o.extent 1 * (ix.getD 2 0 + n.o.extent 2 * (ix.getD 3 0 + n.o.extent 3 * ix.getD 4 0)))
    let all := n.o.extent 0 * n.o.extent 1 * n.o.extent 2 * n.o.extent 3 * n.o.extent 4
    1 ≤ n.count ∧ n.i 0 + n.count ≤ n.o.extent 0 ∧
    (∀ ix, n.nextIdx = some ix → place ix = place n.idx + n.count ∧ ix.length = 5 ∧ ∀ l, l < 5 → ix.getD l 0 < n.o.extent l) ∧
    (n.nextIdx = none ↔ place n.idx + n.count = all)

/-! ### Events: results -/

/-- R34, R67, R92, R108, R110, R132, R133, R225, R226, R227, R229, R388: what comes of a result that is owed. A fixed result, a held lane result and a status are written whole, their
flags raised, and no longer owed; a lane beat is written alone, the others stay owed; where a held lane result's flag is enabled to trap, nothing is
written and the jet is suspended; a returned value goes into the frame 16 slices a tc, that of a signed load extended by its sign, while of an aggregated atomic each element receives what
the word held before its own addition, all in one tc; a `nest` beat computes its elements, or the reduction that ends with it, and owes them after its
latency; its writes then land in its jet's frame and in the pool. Completes: resultWriteback, laneBeatWrite, statusResultWrite, loadReturn, nestBeat. Where the
spec leaves a point open, a clause follows the model's choice (log entries 4, 8, 12, 15, 23, 25). -/
def Obligations.ResultsArrive : Prop :=
  ∀ s : State,
    let n := s.focus.a
    let k := s.focus.b
    let c := s.focus.c
    let j := s.jet n k
    let x := s.tile n
    let puts (o : Owed) : Jet :=
      { j with frame := o.w.foldl (fun f w => f.apply w.sl) j.frame
               poison := o.w.foldl (fun p w => cleanWords p w.sl) j.poison
               masks := o.w.foldl (fun m w => w.masks.foldl (fun m e => Tbl.set m e.1 e.2) m) j.masks
               owed := j.owed.filter fun p => p.id != o.id
               fpflags := o.flags.foldl (· ||| ·) j.fpflags }
    let raised (o : Owed) : BitVec 5 := o.flags.foldl (· ||| ·) 0
    let others (t : State) (k : Nat) : Prop := t.mem = s.mem ∧ ∀ m i, (m, i) ≠ (n, k) → t.jet m i = s.jet m i
    (∀ o, j.findOwed c = some o → exec .resultWriteback s = .next (s.modJet n k fun _ => puts o)) ∧
    (∀ o, j.findOwed c = some o → o.defer = true → raised o &&& x.fpten = 0 → exec .laneBeatWrite s = .next (s.modJet n k fun _ => puts o)) ∧
    (∀ o, j.findOwed c = some o → o.defer = true → raised o &&& x.fpten ≠ 0 → j.status = .running → ∃ t, exec .laneBeatWrite s = .next t ∧
      others t k ∧ (t.jet n k).status = .suspended ∧ (t.jet n k).frame = j.frame ∧ (t.jet n k).masks = j.masks ∧
      (t.jet n k).fpflags = j.fpflags ||| raised o ∧ (t.jet n k).interrupted = j.interrupted ++ [⟨o.pc, [o.id], o.ord⟩]) ∧
    (∀ o w ws g gs, j.findOwed c = some o → o.defer = false → o.w = w :: ws → o.flags = g :: gs → ∃ u, exec .laneBeatWrite s = .next (s.modJet n k fun _ => u) ∧
      u.frame = j.frame.apply w.sl ∧ u.fpflags = j.fpflags ||| g ∧ (ws = [] → u.findOwed c = none) ∧
      (∀ p, ws ≠ [] → u.findOwed c = some p → p.w = ws ∧ p.flags = gs)) ∧
    (∀ o, s.focus.d = 0 → j.findOwed c = some o → x.slotOf j.key = some k → exec .statusResultWrite s = .next (s.modJet n k fun _ => puts o)) ∧
    (∀ a i, s.focus.d = 1 → x.access k = some a → (∀ l, a.op ≠ .agg l) → x.slotOf a.jet = some i → ∃ t, exec .loadReturn s = .next t ∧ others t i ∧
      (t.jet n i).frame = (s.jet n i).frame.apply (scatter (takeRuns a.dst 16) a.value) ∧
      (t.jet n i).fpflags = (s.jet n i).fpflags ||| a.flags ∧
      (dropRuns a.dst 16 = [] → (t.jet n i).findOwed a.owedId = none)) ∧
    (∀ a p i, s.focus.d = 0 → c = 0 → x.access k = some a → a.parts = [p] → a.cause = 0 → x.slotOf a.jet = some i →
      let got := a.value + partValue p s.focus.data * 2 ^ (8 * p.off)
      let gives (l : List (Nat × Nat)) (v : Nat) : Prop := ∃ t, exec .loadReturn s = .next t ∧ others t i ∧
        (t.jet n i).frame = (s.jet n i).frame.apply (scatter l v)
      (a.op = .load false → gives (takeRuns a.dst 16) got) ∧
      (a.op = .load true → gives (takeRuns a.dst 16) (trunc (sext got (8 * a.nb)) (4 * lenRuns a.dst))) ∧
      (∀ l, a.op = .agg l → ∃ v, gives a.dst v ∧ ∀ e, e < l.length → fld v (8 * a.nb * e) (8 * a.nb) = (got + (l.take e).sum) % 2 ^ (8 * a.nb))) ∧
    (∀ z l r i, s.focus.d = 1 → x.nests.find? (fun z => z.id == c || z.was.contains c) = some z → z.owed = l :: r → x.slotOf z.key = some i →
      (∀ e ∈ l.pool, x.addwBusy e.1 z.o.size = false ∧ x.guardWrite n e.1 z.o.size (s.dev.device.toNat, n) = false) → ∃ t, exec .nestBeat s = .next t ∧ others t i ∧
        (t.jet n i).frame = (s.jet n i).frame.apply l.sl ∧ (t.jet n i).fpflags = (s.jet n i).fpflags ||| l.flags ∧
        (t.tile n).pool = l.pool.foldl (fun m e => m.writeEn e.1 z.o.size (fullEn z.o.size) e.2) x.pool) ∧
    (∀ z i, s.focus.d = 0 → x.nests.find? (fun z => z.id == c) = some z → z.stopped = false → z.finished = false → x.slotOf z.key = some i →
      (s.jet n i).status = .running → z.faults x (s.jet n i).limit ≠ [] → ∃ t, exec .nestBeat s = .next t ∧ others t i ∧
        (t.jet n i).status = .suspended ∧ (t.jet n i).frame = (s.jet n i).frame ∧ (t.tile n).pool = x.pool) ∧
    (∀ z i (ls : List NLane), s.focus.d = 0 → x.nests.find? (fun z => z.id == c) = some z → z.stopped = false → z.finished = false → x.slotOf z.key = some i →
      z.owed = [] → z.o.anyPool = false → z.lanes x (s.jet n i).limit = ls.map .ok →
      let v (l : Option NLoc) : Nat := match l with | some p => p.val x ((s.jet n i).frame.apply z.old) | none => 0
      let owes (lat : Nat) (land : NestLand) : Prop := ∃ t y, exec .nestBeat s = .next t ∧ t.mem = s.mem ∧ y ∈ (t.tile n).nests ∧ y.id = z.id ∧ y.owed = [land] ∧
        (∀ m i, (t.jet m i).frame = (s.jet m i).frame) ∧ (s.nc + 2 * lat, ⟨n, z.slot, z.id, 1, 0⟩, Instr.nestBeat) ∈ t.agenda
      let r (l : NLane) : Nat × Nat := if l.act then z.calc (v l.a) (v l.b) (v l.d) else (if z.o.mmode == .zero then 0 else v l.d, 0)
      let all := ls.foldl (fun g l => g ||| (r l).2) 0
      let blk := z.blk ++ ls.map fun l => if l.act then some (v l.a) else none
      let whole := z.combine blk
      let root := z.root whole.1
      let up := BitVec.ofNat 5 (whole.2 ||| root.2)
      (z.red = false → BitVec.ofNat 5 all &&& x.fpten = 0 → owes z.lop (landOf (ls.filterMap fun l => l.w.map fun p => (p, (r l).1)) all)) ∧
      (∀ p, z.red = true → z.lastBlock = true → z.locate x (s.jet n i).limit 0 [0, 0, 0, 0, 0] = .ok p → up &&& x.fpten = 0 →
        owes (z.lop * (clog2 (z.o.extent 0) + 1)) (landOf [(p, root.1)] (z.fl ||| up).toNat)))

/-! ### Events: issue, residency and pre-emption -/

/-- R91, R98, R99, R29, R30: a follower's oldest forwarded instruction is issued next; a line of tiles becomes a cascade with status 0 where its links and tiles are
free, each tile of it getting a follower with the leader's frame, and none of it does with 3 or 2; a line that comes back from its home enters the instruction cache, or the jets
that wait for it trap with the cause of the fetch. Completes: forwardedIssue, cascFormed, icacheFill. Where the spec leaves a point open, a clause follows the model's
choice (log entries 4, 9, 12, 26). -/
def Obligations.IssueEvents : Prop :=
  ∀ s : State,
    let n := s.focus.a
    let k := s.focus.b
    let c := s.focus.c
    let j := s.jet n k
    let m := s.focus.data % 16
    let dir := s.focus.data / 16 % 4
    let line := (List.range m).map fun h => alongLine n dir (h + 1)
    let taken := ∃ l ∈ lineLinks n dir m, s.linkTaken l = true
    let full := ∃ v ∈ line, s.canFollow v j.grans = false
    (∀ d i pc out r, j.fwdQ = (d, i, pc, out) :: r →
      exec .forwardedIssue s = .next { s.modJet n k (fun j => { j with fwdQ := r }) with turn := .forward n k i pc out }) ∧
    (∀ o, j.findOwed c = some o → c ≠ s.focus.d → (s.tile n).slotOf j.key = some k → n ∉ line → j.status = .running →
      let wait := ∃ v ∈ line, (s.tile v).took s.tc = true ∨ s.gangLast v = true
      let given (t : State) (lat v : Nat) : Prop := t.mem = s.mem ∧ (t.jet n k).frame = j.frame ∧ (∃ p, (t.jet n k).findOwed c = some p ∧ p.w = [⟨scatter o.dst v, []⟩]) ∧
        (s.nc + 2 * lat, ⟨n, k, c, 0, 0⟩, Instr.statusResultWrite) ∈ t.agenda
      let ends (v : Nat) : Prop := ∃ t, exec .cascFormed s = .next t ∧ given t 0 v ∧ (t.jet n k).casc = j.casc ∧ (t.jet n k).findOwed s.focus.d = none ∧
        (∀ v i, (v, i) ≠ (n, k) → t.jet v i = s.jet v i)
      (taken → ends 3) ∧ (¬ taken → full → ends 2) ∧
      (¬ taken → ¬ full → wait → ∃ t, exec .cascFormed s = .next t ∧ Kept s t ∧ (s.nc + 2, s.focus, Instr.cascFormed) ∈ t.agenda) ∧
      (¬ taken → ¬ full → ¬ wait → ∃ t, exec .cascFormed s = .next t ∧ given t (ceilDiv j.grans 2) 0 ∧ (t.jet n k).casc = .leader dir m ∧ (t.jet n k).cdis = false ∧
        (line.Nodup → ∀ h v i, h < m → v = alongLine n dir (h + 1) → (s.tile v).freeSlot s.tc = some i →
          (t.jet v i).status = .running ∧ (t.jet v i).casc = .follower n j.key (h + 1) ∧ (t.jet v i).frame = j.settledFrame ∧ (t.jet v i).pc = j.pc))) ∧
    (∀ e, s.fetchPart n k = .error e → ∃ t, exec .icacheFill s = .next t ∧ t.mem = s.mem ∧ (t.tile n).icache = (s.tile n).icache ∧
      ∀ w ∈ (s.tile n).waitFor k, (t.jet n w.1).status = .suspended) ∧
    (∀ p, s.fetchPart n k = .ok p → s.focus.d = 1 → c ≠ 0 → ∃ t, exec .icacheFill s = .next t ∧ t.mem = s.mem ∧ (t.tile n).icache = (s.tile n).icache ∧
      ∀ w ∈ (s.tile n).waitFor k, (t.jet n w.1).status = .suspended) ∧
    (∀ p, s.fetchPart n k = .ok p → s.focus.d = 1 → c = 0 → ∃ t l, exec .icacheFill s = .next t ∧
      (t.tile n).icache = ⟨k, s.focus.data⟩ :: l ∧ (t.tile n).ifetch = (s.tile n).ifetch.erase k ∧ (∀ m i, t.jet m i = s.jet m i) ∧ t.mem = s.mem)

/-- R60, R84, R87, R88, R198, R199, R326, R354 to R358: a ready record that finds a slot and a frame becomes a running jet with its payloads or its task in the frame, 6 tc
before it first issues; a record ages by one level; a live record asks for a victim, which is halted within 61 tc with its frame as it is; its frame
is written at 256 B per tc once the pipeline has drained, each 256 B in its own tc, and with the last write a saved context frees its slot, waits among the ready records, and comes back from its record into a fresh slot; values owed to it meanwhile go into its saved frame; a parked matrix
run goes on when its bank is free.
Completes: residency, priorityAgeing, livePreempt, contextSaved, owedReturnSaved, contextRestore, matrixPark, parkedRunResume.
Where the spec leaves a point open, a clause follows the model's choice (log entries 4, 9, 12, 26). -/
def Obligations.ResidencyEvents : Prop :=
  ∀ s : State,
    let n := s.focus.a
    let x := s.tile n
    let quiet (t : State) : Prop := t.mem = s.mem ∧ t.nc = s.nc ∧ ∀ m, m ≠ n → t.tile m = s.tile m
    (∀ k q b l, x.freeSlot s.tc = some k → x.reserver = none → x.readyOrder = q :: l → q.saved = none → s.husked n q.inst = false →
      x.fits s.tc q.grans = some b → ∃ t, exec .residency s = .next t ∧ quiet t ∧
        t.jet n k = q.jet s.nextId (Tbl.get 0 x.slotSeq k) b s.tc ∧ (t.jet n k).stallTill = s.tc + 6 ∧ (t.jet n k).pc = q.entry ∧
        (∀ i, i ≠ k → t.jet n i = s.jet n i) ∧ (t.tile n).pool = x.pool ∧ ∀ r ∈ (t.tile n).ready, r.id ≠ q.id) ∧
    (∃ t, exec .priorityAgeing s = .next t ∧ Kept s t ∧ (t.tile n).ready.length = x.ready.length ∧ ∀ (i : Nat) (q : Ready), x.ready[i]? = some q →
      (t.tile n).ready[i]? = some (if q.id = s.focus.b then { q with level := q.level + 1, waitFrom := s.dev.time } else q)) ∧
    (∀ q, s.focus.b = 0 → s.liveNeed n = some q → ∃ t d, exec .livePreempt s = .next t ∧ Kept s t ∧ (q.id, 16) ∈ (t.tile n).preempting ∧ d ≤ 60 ∧
      (s.nc + 2 * d, ⟨n, 1, q.id, 0, 0⟩, Instr.livePreempt) ∈ t.agenda) ∧
    (∀ k e l, s.focus.b ≠ 0 → x.victimSlot = some k → x.freeSaves = e :: l →
      (∃ q ∈ x.ready, q.id = s.focus.c ∧ ((x.slotFor s.tc true).isNone = true ∨ (x.fits s.tc q.grans).isNone = true)) →
      ∃ t v, exec .livePreempt s = .next t ∧ quiet t ∧ (t.jet n k).status = .saving ∧ (t.jet n k).frame = (s.jet n k).frame ∧
        (t.jet n k).pc = (s.jet n k).pc ∧ (t.tile n).save e = some v ∧ v.slot = k ∧ v.saved = false ∧ (t.tile n).pool = x.pool) ∧
    (∀ v, x.save s.focus.b = some v → s.focus.d = 0 → (∀ e w, (e, some w) ∈ x.saves → w.saved = true ∨ w.doneAt = 0) → 1 ≤ (x.jet v.slot).grans → 1 ≤ s.tc →
      ∃ t d, exec .contextSaved s = .next t ∧ Kept s t ∧ d ≤ 8 ∧
        (2 * (s.tc + d), ⟨n, s.focus.b, 0, 1, 0⟩, Instr.contextSaved) ∈ t.agenda ∧
        ∃ w, (t.tile n).save s.focus.b = some w ∧ w.doneAt = s.tc + d + frameWrites (x.jet v.slot).grans - 1) ∧
    (∀ v, x.save s.focus.b = some v → s.focus.d ≠ 0 → v.saved = false → s.focus.data + 1 < frameWrites (x.jet v.slot).grans →
      ∃ t w, exec .contextSaved s = .next t ∧ quiet t ∧ (∀ i, t.jet n i = s.jet n i) ∧ (t.tile n).save s.focus.b = some w ∧ w.saved = false ∧
        (1 ≤ s.focus.data → w.frameAt = v.frameAt) ∧
        (t.tile n).poolRead (w.frameAt + 256 * s.focus.data) 256 = fld (x.jet v.slot).frame.bits (2048 * s.focus.data) 2048 ∧
        (2 * (s.tc + 1), ⟨n, s.focus.b, 0, 1, s.focus.data + 1⟩, Instr.contextSaved) ∈ t.agenda) ∧
    (∀ v, x.save s.focus.b = some v → s.focus.d ≠ 0 → v.saved = false → frameWrites (x.jet v.slot).grans ≤ s.focus.data + 1 → ∃ t w q, exec .contextSaved s = .next t ∧ quiet t ∧
      (t.jet n v.slot).status = .free ∧ (t.tile n).save s.focus.b = some w ∧ w.saved = true ∧ w.jet = x.jet v.slot ∧
      q ∈ (t.tile n).ready ∧ q.saved = some s.focus.b ∧ q.level = (x.jet v.slot).level) ∧
    (∀ a e v, s.focus.d = 1 → x.access s.focus.b = some a → (∀ l, a.op ≠ .agg l) → x.slotOf a.jet = none → x.saveOf a.jet = some e → x.save e = some v →
      ∃ t w, exec .owedReturnSaved s = .next t ∧ quiet t ∧ (t.tile n).save e = some w ∧
        w.jet.frame = v.jet.frame.apply (scatter (takeRuns a.dst 16) a.value)) ∧
    (∀ v, x.save s.focus.c = some v → ∃ t, exec .contextRestore s = .next t ∧ quiet t ∧ (t.jet n s.focus.b).status = .running ∧
      (t.jet n s.focus.b).stallTill = s.tc + 6 + ceilDiv v.bytes 256 ∧ (t.jet n s.focus.b).frame = (x.readRecord v).frame ∧
      (t.jet n s.focus.b).pc = (x.readRecord v).pc ∧ (t.tile n).save s.focus.c = none ∧ (t.tile n).pool = x.pool) ∧
    (∀ r, x.mx.run = some r → r.step < r.total → ∃ t, exec .matrixPark s = .next t ∧ Kept s t ∧ (t.tile n).mx.run = none ∧ (t.tile n).mx.parked = some r ∧
      (t.tile n).mx.parkFor = x.mx.parkAsked ∧ (t.tile n).mx.parkAsked = none) ∧
    (∀ r, x.mx.parked = some r → ∃ t, exec .parkedRunResume s = .next t ∧ Kept s t ∧ (t.tile n).mx.run = some { r with readyAt := s.tc + 1 } ∧
      (t.tile n).mx.parked = none)

/-- R354: a context record holds its jet: what is read back of the program counter, the instance, the level, the role, the flags, the range, the views, the masks and
the frame is what was written, where the record stands. -/
def Obligations.ContextRecord : Prop :=
  ∀ (x : Tile) (j : Jet) (v : SaveEntry), (∀ c ∈ v.chans, c < 8) → 1 ≤ j.grans → j.grans ≤ 128 →
    let p := x.writeRecord j v
    let r := p.1.readRecord p.2
    r.pc = j.pc ∧ r.inst = j.inst ∧ r.level = j.level ∧ r.role = j.role ∧ r.fpflags = j.fpflags ∧ r.cdis = j.cdis ∧ r.range = j.range ∧
    (∀ k, k < 16 → r.view k = j.view k) ∧ (∀ k, k < 8 → r.mask k = j.mask k) ∧ r.frame.bits = j.frame.bits % 2 ^ (512 * j.grans) ∧
    (∀ b, b < v.recAt ∨ v.recAt + p.2.bytes ≤ b → p.1.pool.read b = x.pool.read b)

/-! ### Events: memory -/

/-- R212 to R218, R220 to R223, R225, R233, R246, R247, R261, R270: a translation that ends lets the access go on, or the jet traps late with its cause; a request that hits in an L2 slice is
performed there, on the bytes its enables name and no others, or answered with the bytes a unit reads, such as a fetch, and a miss waits 272 tc for its line; an access to a pool is performed, or held by a window that
is landing; a write-combining entry leaves as one write, whose acknowledgement performs the stores that were in it; a fence that completes is gone; a
refused pool write goes out again. Completes: tlbWalkDone, l2Request, l2Fill, remotePoolAccess, wcDrain, writeAck, fenceComplete, writeRefusalResend, pinwaitDone.
Where the spec leaves a point open, a clause follows the model's choice (log entries 4, 9, 15, 28). -/
def Obligations.MemoryEvents : Prop :=
  ∀ s : State,
    let n := s.focus.a
    let x := s.tile n
    let h := s.stop n
    let q (k : PoolReq) : Prop :=
      x.poolIn.find? (fun q => x.poolReady s.dev.device.toNat n s.nc q && q.tile == s.focus.b && q.acc == s.focus.c && q.part == s.focus.d) = some k ∧
      (k.acc = 0 ∨ x.scratch k.addr k.nb = true)
    let still (t : State) : Prop := (∀ q, (s.stop q).dir = []) → t.mem = s.mem
    let free (line : Nat) : Prop := (∀ m ∈ h.misses, m.1 ≠ line) ∧ ∀ m ∈ h.missWait, m.line ≠ line
    let jets (t : State) : Prop := ∀ m i, t.jet m i = s.jet m i
    (∀ a l, x.access s.focus.b = some a → a.stage = 1 → a.op ≠ .pref → s.partsOf n a.op.need a.ov a.direct a.va a.nb = .ok l → l ≠ [] →
      ¬ ((a.op.need = .both ∨ a.direct = true ∧ a.op = .store) ∧ a.va % a.nb ≠ 0) → ∃ t, exec .tlbWalkDone s = .next t ∧ jets t ∧ still t ∧ (∀ m, (t.tile m).pool = (s.tile m).pool) ∧
        ∀ b ∈ (t.tile n).acc, b.id = s.focus.b → b.stage = 2 ∧ b.parts.length = l.length) ∧
    (∀ a e k, x.access s.focus.b = some a → a.stage = 1 → a.op ≠ .pref → a.beat = none → s.partsOf n a.op.need a.ov a.direct a.va a.nb = .error e → x.slotOf a.jet = some k →
      (s.jet n k).status = .running → ∃ t, exec .tlbWalkDone s = .next t ∧ (t.jet n k).status = .suspended ∧ (t.jet n k).frame = (s.jet n k).frame ∧ still t ∧
        (∀ m, (t.tile m).pool = (s.tile m).pool) ∧ ∀ i, i ≠ k → t.jet n i = s.jet n i) ∧
    (∀ k r t0 ids line en data, h.l2In = k :: r → k.body = .write t0 ids line en data → line ∈ h.l2Lines → free line → ∃ t, exec .l2Request s = .next t ∧
      (∀ b, b < 128 * line ∨ 128 * line + 128 ≤ b → t.mem.read b = s.mem.read b) ∧
      (∀ b, b < 128 → fld en (2 * b) 2 = 3 → t.mem.read (128 * line + b) = BitVec.ofNat 8 (data / 2 ^ (8 * b))) ∧
      (∀ b, b < 128 → fld en (2 * b) 2 = 0 → h.dirOf line = none → n = homeOf (128 * line) → t.mem.read (128 * line + b) = s.mem.read (128 * line + b)) ∧
      jets t ∧ (t.stop n).l2In = r) ∧
    (∀ k r t0 id ix a nb, h.l2In = k :: r → k.body = .read t0 id ix a nb → k.sdev = s.dev.device.toNat → 2 ^ 66 ≤ id → (s.tile t0).access id = none →
      a / 128 ∈ h.l2Lines → free (a / 128) → s.poisoned a nb = false → (∀ q, (s.stop q).dir = []) → ∃ t, exec .l2Request s = .next t ∧ t.mem = s.mem ∧ jets t ∧
        ⟨k.sdev, t0, .tile, s.dev.device.toNat, n, payFlits nb, .readResp t0 id ix (s.mem.readN a nb), false, s.nc + 27, .l2⟩ ∈ (t.stop n).inject) ∧
    (∀ k r, h.l2In = k :: r → k.line ∉ h.l2Lines → free k.line → h.misses.length < 64 → ∃ t, exec .l2Request s = .next t ∧
      t.mem = s.mem ∧ (t.stop n).misses = h.misses ++ [(k.line, [k])] ∧ (t.stop n).l2In = r ∧
      (s.nc + 2 * 272, ⟨n, k.line, stackOf (128 * k.line), 0, 0⟩, Instr.l2Fill) ∈ t.agenda) ∧
    (h.misses.find? (fun m => m.1 == s.focus.b) = none → h.missWait = [] → ∃ t, exec .l2Fill s = .next t ∧ Kept s t ∧ (t.stop n).l2In = h.l2In ∧
      ((h.l2Lines.filter fun l => l2Set l == l2Set s.focus.b && l != s.focus.b).length < 12 → s.focus.b ∈ (t.stop n).l2Lines)) ∧
    (∀ k t0 ids en data, h.misses.find? (fun m => m.1 == s.focus.b) = some (s.focus.b, [k]) → k.body = .write t0 ids s.focus.b en data → h.missWait = [] →
      ∃ t, exec .l2Fill s = .next t ∧ jets t ∧ (∀ m ∈ (t.stop n).misses, m.1 ≠ s.focus.b) ∧
        (∀ b, b < 128 * s.focus.b ∨ 128 * s.focus.b + 128 ≤ b → t.mem.read b = s.mem.read b) ∧
        (∀ b, b < 128 → fld en (2 * b) 2 = 3 → t.mem.read (128 * s.focus.b + b) = BitVec.ofNat 8 (data / 2 ^ (8 * b)))) ∧
    (∀ k r, h.misses.find? (fun m => m.1 == s.focus.b) = none → h.missWait = k :: r → k.line ≠ s.focus.b → k.line ∉ h.l2Lines →
      ∃ t, exec .l2Fill s = .next t ∧ Kept s t ∧ (t.stop n).misses = h.misses ++ [(k.line, (k :: r).filter fun m => m.line == k.line)] ∧
        (t.stop n).missWait = (k :: r).filter (fun m => m.line != k.line) ∧
        (s.nc + 2 * 272, ⟨n, k.line, stackOf (128 * k.line), 0, 0⟩, Instr.l2Fill) ∈ t.agenda) ∧
    (∀ k en d, q k → k.op = .write en d → x.guardWrite n k.addr k.nb (k.dev, k.tile) = false → ∃ t, exec .remotePoolAccess s = .next t ∧ t.mem = s.mem ∧ jets t ∧
      (t.tile n).pool = x.pool.writeEn k.addr k.nb en d ∧ ∀ m, m ≠ n → (t.tile m).pool = (s.tile m).pool) ∧
    (∀ k en d, q k → k.op = .write en d → x.guardWrite n k.addr k.nb (k.dev, k.tile) = true → x.heldWrites.length < 8 → ∃ t, exec .remotePoolAccess s = .next t ∧ Kept s t ∧
      (t.tile n).heldWrites = x.heldWrites ++ [k]) ∧
    (∀ k, q k → k.op = .read → (∀ c, x.readGuard s.dev.device.toNat n k ≠ .aborted c) → ∃ t, exec .remotePoolAccess s = .next t ∧ t.mem = s.mem ∧ jets t ∧
      (∀ m, (t.tile m).pool = (s.tile m).pool) ∧
      (k.dev = s.dev.device.toNat → k.tile = n → (∀ a bf, x.access k.acc = some a → a.op ≠ .crd bf) →
        (s.nc + 2 * (if k.waited = true then 5 else 3), ⟨n, k.acc, k.part, 0, x.pool.readN k.addr k.nb⟩, Instr.loadReturn) ∈ t.agenda)) ∧
    (∀ e, x.wcFind s.focus.b = some e → ∃ t, exec .wcDrain s = .next t ∧ Kept s t ∧ (e.line, e.ids) ∈ (t.tile n).unacked ∧
      ⟨paDev (128 * e.line), homeOf (128 * e.line), .l2, s.dev.device.toNat, n, payFlits (enBytes e.en), .write n e.ids e.line e.en e.data, false, s.nc + 28, .tile⟩ ∈
        (t.stop n).inject) ∧
    (∀ ids, s.focus.b < 2 ^ 64 → x.unacked.find? (fun e => e.1 == s.focus.b) = some (s.focus.b, ids) → ∃ t, exec .writeAck s = .next t ∧ Reached n s t ∧
      ∀ a ∈ (t.tile n).acc, a.id ∈ ids → ∀ p ∈ a.parts, p.path ≠ .pool → p.addr / 128 = s.focus.b → p.performed = true ∧ p.acked = true) ∧
    (∀ e, x.fences.find? (fun e => e.upTo == s.focus.b) = some e → ∃ t, exec .fenceComplete s = .next t ∧ t.mem = s.mem ∧ jets t ∧
      (t.tile n).fences = x.fences.filter (fun e => e.upTo != s.focus.b) ∧
      (e.sc ≠ .tile → ∀ l ∈ (t.tile n).l1, e.all = false ∧ ∃ m ∈ x.l1, m.line = l.line ∧ m.free = true)) ∧
    (∃ t, exec .writeRefusalResend s = .next t ∧ Reached n s t ∧ ∀ a p, x.acc = [a] → x.nests = [] → x.fences = [] → x.tables = [] → s.focus.b = a.id → s.focus.c = 0 → a.op = .store →
      a.rel = false → a.beat = none → a.stage = 2 → a.gather = [] → a.parts = [p] → p.path = .pool → p.pool ≠ 1024 * s.dev.device.toNat + n →
      ⟨p.pool / 1024, p.pool % 1024, .tile, s.dev.device.toNat, n, payFlits p.nb, .poolReq n a.id 0 (.write (a.partEn p) (a.partData p)) p.addr p.nb, false, s.nc + 14, .tile⟩ ∈
        (t.stop n).inject) ∧
    (∀ j o, s.jet n s.focus.b = j → j.findOwed s.focus.c = some o →
      (∀ y ∈ s.stops, ∀ p ∈ y.2.pins, p.2 = 0) → ∃ t p, exec .pinwaitDone s = .next t ∧ t.mem = s.mem ∧ (t.jet n s.focus.b).findOwed s.focus.c = some p ∧
        p.w = [⟨scatter o.dst 0, []⟩] ∧ (s.nc, ⟨n, s.focus.b, s.focus.c, 0, 0⟩, Instr.statusResultWrite) ∈ t.agenda) ∧
    (∀ y p, y ∈ s.stops → p ∈ y.2.pins → p.2 ≠ 0 → 128 * p.1 < s.focus.data + s.focus.d → s.focus.data < 128 * p.1 + 128 →
      ∃ t, exec .pinwaitDone s = .next t ∧ Kept s t ∧ (s.nc + 2, s.focus, Instr.pinwaitDone) ∈ t.agenda)

/-! ### Events: the weir -/

/-- R163, R164, R167 to R173, R177 to R180, R368: a send leaves the buffer once its release is satisfied, for its own weir 3 tc later or as a numbered packet, to a weir or the management endpoint that
takes fault records, a report of a discard across the port it answers; an arrival in its turn is
accepted into its basin's slots, added to its counter, sets its threshold, or is discarded, and one out of turn is held; an acknowledgement takes its entry out of
the buffer; a satisfied pattern takes one message of each of its basins and fires its body or sends its command, or blocks its basin where the ready queue is full; a refill brings the ring's oldest message. Completes: sendAccept, sendRelease, sendAck,
sendRetry, basinExamine, ringRefillReturn. Where the spec leaves a point open, a clause follows the model's choice (log entries 4, 9, 14, 17). -/
def Obligations.WeirEvents : Prop :=
  ∀ s : State,
    let n := s.focus.a
    let x := s.tile n
    let w := x.weir
    let kept (t : State) : Prop := t.mem = s.mem ∧ (∀ m i, t.jet m i = s.jet m i) ∧ ∀ m, (t.tile m).pool = (s.tile m).pool
    let plain (m : SendMsg) : Prop := s.chainOf n m = none
    let at_ (m : SendMsg) (k : Basin) : Prop := plain m ∧ s.refuses n m = none ∧ w.basin (hIndex m.handle) = some k
    let lands (t : State) (m : SendMsg) (k : Basin) : Prop := (t.tile n).weir.basin (hIndex m.handle) = some k ∧
      ∀ b, b ≠ hIndex m.handle → (t.tile n).weir.basin b = w.basin b
    let pkt (m : SendMsg) : Packet :=
      ⟨hDev m.handle, hTile m.handle, m.port, s.dev.device.toNat, n, 1 + (if m.size = 64 then 1 else 0), .send m, false, s.nc,
        match m.src with | .host => .host | _ => .tile⟩
    let leaves (t : State) (m : SendMsg) : Prop := (m.via = none → pkt m ∈ (t.stop n).inject) ∧
      ∀ p, m.via = some p → pkt m ∈ (Tbl.get Lauc.empty t.dev.lauc p).out
    let fires (ix : Nat) (p : Pattern) : Prop := (∀ i, s.husked n i = false) ∧ (s.chosen n s.focus.b).2 = some (ix, p) ∧ p.basins.Nodup ∧ p.held = none
    let took (t : State) (p : Pattern) : Prop := ∀ b ∈ p.basins, ∀ k, w.basin b = some k → ∃ l, (t.tile n).weir.basin b = some l ∧
      l.slots = (if k.kind = .counter then k.slots else k.slots.tail) ∧ l.count = (if k.kind = .counter then k.count - k.threshold else k.count)
    let local_ (m : SendMsg) : Prop := s.focus.b ≠ 0 ∧ ∃ d r, w.localIn = (d, m) :: r
    (∀ m k, local_ m → at_ m k → m.op = .data → k.ring = [] → x.granted (hIndex m.handle) k = true →
      ∃ t, exec .sendAccept s = .next t ∧ kept t ∧ lands t m { k with slots := k.slots ++ [heldOf m s.tc] }) ∧
    (∀ m k, local_ m → at_ m k → m.op = .add → ∃ t l, exec .sendAccept s = .next t ∧ kept t ∧ lands t m l ∧
      l.count.toNat = min (k.count.toNat + m.payload) (2 ^ 64 - 1) ∧ l.threshold = k.threshold ∧ (hIndex m.handle, s.tc + 1) ∈ (t.tile n).weir.examine) ∧
    (∀ m k, local_ m → at_ m k → m.op = .arm → ∃ t l, exec .sendAccept s = .next t ∧ kept t ∧ lands t m l ∧
      l.threshold = BitVec.ofNat 64 m.payload ∧ l.count = k.count ∧ (hIndex m.handle, s.tc + 1) ∈ (t.tile n).weir.examine) ∧
    (∀ m why, local_ m → plain m → s.refuses n m = some why → ∃ t, exec .sendAccept s = .next t ∧ kept t ∧ ∀ b, (t.tile n).weir.basin b = w.basin b) ∧
    (∀ m r k, s.focus.b = 0 → w.netIn = m :: r → (∀ e ∈ w.reseq, ¬ (e.src = m.src ∧ e.basin = m.handle)) → at_ m k → m.op = .data → k.ring = [] →
      x.granted (hIndex m.handle) k = true → m.seq = w.nextOf m → ∃ t, exec .sendAccept s = .next t ∧ kept t ∧
        lands t m { k with slots := k.slots ++ [heldOf m s.tc] } ∧ (t.tile n).weir.nextOf m = (m.seq + 1) % 32 ∧ (t.tile n).weir.netIn = r) ∧
    (∀ m r, s.focus.b = 0 → w.netIn = m :: r → w.reseq = [] → m.seq ≠ w.nextOf m → ∃ t, exec .sendAccept s = .next t ∧ kept t ∧
      (t.tile n).weir.reseq = [⟨m.src, m.handle, w.nextOf m, [m], []⟩] ∧ ∀ b, (t.tile n).weir.basin b = w.basin b) ∧
    (∀ i o, s.focus.b = 0 → x.releaseIx = some i → w.outbound[i]? = some o → s.noSuch o.m = false →
      (hDev o.m.handle = s.dev.device.toNat → hTile o.m.handle = n → o.m.port = .weir → ∃ t, exec .sendRelease s = .next t ∧ kept t ∧
        (t.tile n).weir.localIn = w.localIn ++ [(s.nc + 6, { o.m with buffered := true })] ∧ (t.tile n).weir.outbound[i]? = some { o with released := true }) ∧
      (¬ (hDev o.m.handle = s.dev.device.toNat ∧ hTile o.m.handle = n ∧ o.m.port = .weir) → ∃ t m, exec .sendRelease s = .next t ∧ kept t ∧
        m = { o.m with seq := (Tbl.get ⟨0, []⟩ w.wins o.m.basin).next, base := m.base } ∧ leaves t m ∧
        (t.tile n).weir.outbound[i]? = some { o with released := true, m := m } ∧
        (Tbl.get ⟨0, []⟩ (t.tile n).weir.wins o.m.basin).next = (m.seq + 1) % 32 ∧ m.seq ∈ (Tbl.get ⟨0, []⟩ (t.tile n).weir.wins o.m.basin).unacked)) ∧
    (s.focus.d ≠ 1 → ∃ t, exec .sendAck s = .next t ∧ kept t ∧
      (∀ o, o ∈ (t.tile n).weir.outbound ↔ o ∈ w.outbound ∧ ¬ (o.released = true ∧ o.m.handle.toNat = s.focus.b ∧ o.m.seq = s.focus.c)) ∧
      s.focus.c ∉ (Tbl.get ⟨0, []⟩ (t.tile n).weir.wins s.focus.b).unacked) ∧
    (∀ o, s.focus.d = 1 → o ∈ w.outbound → o.released = true → o.m.handle.toNat = s.focus.b → o.m.seq = s.focus.c → ∃ t, exec .sendAck s = .next t ∧ kept t ∧
      { o with retry := true } ∈ (t.tile n).weir.outbound) ∧
    (∀ o, s.focus.b ≠ 1 → w.outbound.find? (·.retry) = some o → ∃ t m, exec .sendRetry s = .next t ∧ kept t ∧ m = { o.m with base := m.base } ∧
      leaves t m ∧ { o with retry := false } ∈ (t.tile n).weir.outbound) ∧
    ((∀ i, s.husked n i = false) → (s.chosen n s.focus.b).2 = none → ∃ t, exec .basinExamine s = .next t ∧ kept t ∧
      (∀ b, (t.tile n).weir.basin b = w.basin b) ∧ ∀ e ∈ (t.tile n).weir.examine, ¬ (e.1 = s.focus.b ∧ e.2 ≤ s.tc)) ∧
    (∀ ix p, fires ix p → p.action = false → x.ready.length < 64 → ∃ t q, exec .basinExamine s = .next t ∧ kept t ∧ took t p ∧
      (t.tile n).ready = x.ready ++ [q] ∧ q.entry = p.entry ∧ q.level = p.prio ∧ q.grans = p.grans ∧ q.role = p.role ∧ q.task = none ∧ q.saved = none ∧
      q.payloads = (p.basins.filterMap fun b => (w.basin b).map fun k => (k.taken b).1) ∧ (p.inherit = false → q.inst = p.inst) ∧
      (s.focus.b, s.tc + 1) ∈ (t.tile n).weir.examine ∧ (t.tile n).weir.firedAt = s.tc + 1) ∧
    (∀ ix p, fires ix p → p.action = false → 64 ≤ x.ready.length → ∃ t, exec .basinExamine s = .next t ∧ kept t ∧ (t.tile n).ready = x.ready ∧
      (∀ b, (t.tile n).weir.basin b = w.basin b) ∧ s.focus.b ∈ (t.tile n).weir.blocked) ∧
    (∀ ix p e, fires ix p → p.action = true → x.liveBasins.find? (fun e => e.2.kind == .engine && e.2.engCopy == p.engCopy) = some e →
      ∃ t m, exec .basinExamine s = .next t ∧ kept t ∧ took t p ∧ (t.tile n).ready = x.ready ∧ (t.tile n).weir.localIn = w.localIn ++ [(s.nc + 6, m)] ∧
        m.handle = handleOf s.dev.device n e.1 (w.gen e.1) ∧ m.size = 64 ∧
        m.payload = patchImage p.command.toNat p.patch (p.basins.filterMap fun b => (w.basin b).map fun k => (k.taken b).1.1)) ∧
    (∀ k m r v, w.basin s.focus.b = some k → w.gen s.focus.b = s.focus.c → k.ring = m :: r →
      s.agentRead n (k.ringBase.toNat + 64 * k.ringHead) 64 = .ok v →
      ∃ t, exec .ringRefillReturn s = .next t ∧ (∀ m i, t.jet m i = s.jet m i) ∧ ((∀ q, (s.stop q).dir = []) → t.mem = s.mem) ∧
        (t.tile n).weir.basin s.focus.b = some { k with
          slots := k.slots ++ [{ m with payload := v.1 % 2 ^ (8 * k.msize), from_ := s.tc, bad := [] }], ring := r,
          ringHead := (k.ringHead + 1) % 2 ^ k.ringLog, refilling := false })

/-! ### Events: work -/

/-- R183, R189, R190, R192 to R197, R205, R206: the owner takes the newest task of its deque into a slot, a thief is given the oldest task's range from lo + ⌊(hi − lo)/2g⌋·g on, or is refused, and a task that comes to a full deque waits; a round of
thirst visits the enabled domains, then waits; a tracker counts its pieces, answers each one more, and at zero completes its launch; the dispatcher makes a launch
record a tracked ready record, or completes it with its outcome; a husk request changes the list, which every tile then holds; a slot of the time-triggered
table is launched, skipped or deferred. Completes: dequeTake, thirstRound, thirstBackoffExpiry, thirstArrival, stealAnswer, trackerChange,
trackerAcknowledgement, launchDispatch, huskRequest, huskCopyDone, ttSlot, ttCompletionReport. Where the spec leaves a point open, a clause follows the model's
choice (log entries 4, 9, 18, 27). -/
def Obligations.WorkEvents : Prop :=
  ∀ s : State,
    let n := s.focus.a
    let x := s.tile n
    let kept (t : State) : Prop := t.mem = s.mem ∧ (∀ m i, t.jet m i = s.jet m i) ∧ ∀ m, (t.tile m).weir.basins = (s.tile m).weir.basins
    let sends (t : State) (dst : Nat) (m : WorkMsg) : Prop :=
      if n = dst then (s.nc + 2, m) ∈ (t.tile n).workIn
      else ⟨s.dev.device.toNat, dst, .tile, s.dev.device.toNat, n, 1, .work m, false, s.nc, .tile⟩ ∈ (t.stop n).inject
    let head (is : WorkMsg → Bool) (m : WorkMsg) : Prop := ∃ d, x.workHead s.nc is = some (d, m)
    let e := Tbl.get 0 s.dev.tlt n
    let z := Tbl.get TtState.idle s.dev.ttState n
    let entry (t : State) (i : Nat) : BitVec 512 := Tbl.get 0 t.dev.tlt i
    let asked (r : HuskReq) : Prop := s.dev.huskFirst s.nc = some r
    let calm (t : State) : Prop := ((∀ q, (s.stop q).dir = []) → t.mem = s.mem) ∧ ∀ m i, t.jet m i = s.jet m i
    (∀ k l, x.deque = l ++ [k] → k.takable = true → ∃ y, x.ownerTake = some (k.task, y)) ∧
    (∀ k l, x.spilledTasks = [] → x.deque = k :: l → k.takable = true → x.topTask = some (k.task, false)) ∧
    (∀ k y i b, x.ownerTake = some (k, y) → x.freeSlot s.tc = some i → s.husked n k.inst = false → x.fits s.tc (k.frame.toNat + 1) = some b →
      ∃ t, exec .dequeTake s = .next t ∧ t.mem = s.mem ∧ (t.tile n).deque = y.deque ∧ (t.jet n i).status = .running ∧ (t.jet n i).pc = k.entry ∧
        (t.jet n i).range = k.range ∧ (t.jet n i).level = k.prio ∧ (t.jet n i).inst = k.inst ∧ (t.jet n i).role = k.role ∧
        (t.jet n i).frame.bits = k.image % 2 ^ (512 * (k.frame.toNat + 1)) ∧ ∀ m j, (m, j) ≠ (n, i) → t.jet m j = s.jet m j) ∧
    (∀ k y i, x.ownerTake = some (k, y) → x.freeSlot s.tc = some i → s.husked n k.inst = true → ∃ t, exec .dequeTake s = .next t ∧ t.mem = s.mem ∧
      (t.tile n).deque = y.deque ∧ (k.tracked = true →
        (x.owesPlus k.ttile.toNat k.tindex.toNat = false → sends t k.ttile.toNat (.track k.tindex.toNat false n none)) ∧
        (x.owesPlus k.ttile.toNat k.tindex.toNat = true → ⟨0, 0, k.ttile.toNat, .track k.tindex.toNat false n none⟩ ∈ (t.tile n).workOut))) ∧
    (∀ d k, (match x.thirst with | some h => x.nextVisit h.domain h.sent | none => x.nextVisit 0 0) = some (d, k) → ∃ t, exec .thirstRound s = .next t ∧ kept t ∧
      (t.tile n).thirst = some ⟨d, k + 1, true⟩ ∧ sends t (x.nextVictim n d) (.thirst n) ∧ Tbl.get none (t.tile n).lastVictim d = some (x.nextVictim n d)) ∧
    ((match x.thirst with | some h => x.nextVisit h.domain h.sent | none => x.nextVisit 0 0) = none → ∃ t due, exec .thirstRound s = .next t ∧ kept t ∧
      (t.tile n).thirst = none ∧ (t.tile n).backoff = some due ∧ (t.tile n).refused = true ∧ due = s.nc + 2 * fld x.stealctl.toNat 4 12 ∧
      (due, ⟨n, due, 0, 0, 0⟩, Instr.thirstBackoffExpiry) ∈ t.agenda) ∧
    (x.backoff = some s.focus.b → ∃ t, exec .thirstBackoffExpiry s = .next t ∧ kept t ∧ (t.tile n).backoff = none ∧ (t.tile n).refused = (x.refused && x.thirsty s.tc)) ∧
    (∀ th, head WorkMsg.isThirst (.thirst th) → (x.gated = true ∨ x.inReset = true ∨ 64 ≤ x.ready.length ∧ x.topTask.isSome = true) → ∃ t, exec .thirstArrival s = .next t ∧ kept t ∧ sends t th (.answer none)) ∧
    (∀ th k, head WorkMsg.isThirst (.thirst th) → x.gated = false → x.inReset = false → x.ready.length < 64 → (∀ i, s.husked n i = false) → x.topTask = some (k, false) → k.tracked = false →
      2 ≤ k.n → ∃ t mid, mid = k.lo.toNat + (k.hi.toNat - k.lo.toNat) / (2 * k.grain.toNat) * k.grain.toNat ∧ exec .thirstArrival s = .next t ∧ kept t ∧ sends t th (.answer (some { k with lo := BitVec.ofNat 48 mid })) ∧
        k.lo.toNat < mid ∧ mid < k.hi.toNat ∧ (mid - k.lo.toNat) % k.grain.toNat = 0 ∧
        (∃ d ∈ (t.tile n).deque, d.task = { k with hi := BitVec.ofNat 48 mid })) ∧
    (∀ k, head WorkMsg.isAnswer (.answer (some k)) → 32 ≤ x.deque.length → x.spillArea.2 ≤ x.spilledTasks.length → exec .stealAnswer s = .next s) ∧
    (∀ k, head WorkMsg.isAnswer (.answer (some k)) → (x.deque.length < 32 ∨ x.spilledTasks.length < x.spillArea.2) → ∃ t, exec .stealAnswer s = .next t ∧ kept t ∧
      (t.tile n).deque = (if 32 ≤ x.deque.length ∧ x.spilledTasks.length < x.spillArea.2 then x.deque.tail else x.deque) ++ [⟨s.nextId, k, true⟩] ∧
      (x.deque.length < 32 → (t.tile n).spilledTasks = x.spilledTasks ∧ (t.tile n).pool = x.pool) ∧ (t.tile n).refused = false) ∧
    (head WorkMsg.isAnswer (.answer none) → ∃ t, exec .stealAnswer s = .next t ∧ kept t ∧ (t.tile n).deque = x.deque ∧
      ∀ h, (t.tile n).thirst = some h → h.waiting = false) ∧
    (∀ ix src piece k, head WorkMsg.isTrack (.track ix true src piece) → x.tracker ix = some k → ∃ t, exec .trackerChange s = .next t ∧ kept t ∧
      (t.tile n).tracker ix = some { k with count := k.count + 1 } ∧ sends t src (.trackAck piece)) ∧
    (∀ ix src piece k, head WorkMsg.isTrack (.track ix false src piece) → x.tracker ix = some k → k.count - 1 ≠ 0 → ∃ t, exec .trackerChange s = .next t ∧ kept t ∧
      (t.tile n).tracker ix = some { k with count := k.count - 1 }) ∧
    (∀ ix src piece k, head WorkMsg.isTrack (.track ix false src piece) → x.tracker ix = some k → k.count - 1 = 0 → ∃ t, exec .trackerChange s = .next t ∧ kept t ∧
      (t.tile n).tracker ix = none ∧ (k.done ≠ 0 → ∃ o ∈ (t.tile n).weir.outbound, o.m.handle = k.done ∧ o.m.size = 16 ∧
        o.m.payload = k.seq % 2 ^ 32 + k.inst.toNat * 2 ^ 32)) ∧
    (∀ id p, head WorkMsg.isAck (.trackAck (some id)) → x.pieces.find? (fun p => p.id == id) = some p → ∃ t, exec .trackerAcknowledgement s = .next t ∧ kept t ∧
      sends t p.thief (.answer (some p.task))) ∧
    (∀ id, head WorkMsg.isAck (.trackAck (some id)) → x.pieces.find? (fun p => p.id == id) = none → ∃ t, exec .trackerAcknowledgement s = .next t ∧ kept t ∧
      (∀ d ∈ (t.tile n).deque, d.id = id → d.takable = true) ∧ ∀ e ∈ (t.tile n).increments, e.2.2 ≠ id) ∧
    (∀ b m, s.dispatchable n = some (b, m, .go) → ∃ t q i k, exec .launchDispatch s = .next t ∧ calm t ∧
      (t.tile n).ready = x.ready ++ [q] ∧ q.task = some k ∧ k.tracked = true ∧ k.ttile = BitVec.ofNat 10 n ∧ k.tindex.toNat = i ∧ q.entry = k.entry ∧
      k.lo = (Task.ofImage m.payload).lo ∧ k.hi = (Task.ofImage m.payload).hi ∧ k.inst = (Task.ofImage m.payload).inst ∧ x.tracker i = none ∧
      ∃ r, (t.tile n).tracker i = some r ∧ r.count = 1 ∧ r.done = k.done ∧ r.seq = Tbl.get 0 x.lqSeq b) ∧
    (∀ b m d, s.dispatchable n = some (b, m, d) → d = .malformed ∨ d = .husked → ∃ t, exec .launchDispatch s = .next t ∧ calm t ∧
      (t.tile n).ready = x.ready ∧ Tbl.get 0 (t.tile n).lqSeq b = Tbl.get 0 x.lqSeq b + 1 ∧
      (∀ k, x.weir.basin b = some k → ∃ l, (t.tile n).weir.basin b = some l ∧ l.slots = k.slots.tail) ∧
      ((Task.ofImage m.payload).done ≠ 0 → ∃ o ∈ (t.tile n).weir.outbound, o.m.handle = (Task.ofImage m.payload).done ∧
        o.m.payload / 2 ^ 48 = if d = .malformed then 2 else 1)) ∧
    (∀ r, asked r → r.clear = false → r.inst ∉ s.dev.husks → s.dev.husks.length < 64 → ∃ t, exec .huskRequest s = .next t ∧ kept t ∧
      t.dev.husks = s.dev.husks ++ [r.inst] ∧ t.dev.huskCopy = some (r, 0, 0) ∧ t.dev.huskQ = s.dev.huskQ.erase r) ∧
    (∀ r, asked r → r.clear = true → r.inst ∈ s.dev.husks → ∃ t, exec .huskRequest s = .next t ∧ kept t ∧ r.inst ∉ t.dev.husks ∧
      t.dev.huskCopy = some (r, 0, 0)) ∧
    (∀ r o, asked r → r.tt = none → (s.jet r.tile r.slot).findOwed r.owedId = some o →
      (r.clear = true ∧ r.inst ∉ s.dev.husks ∨ r.clear = false ∧ (r.inst ∈ s.dev.husks ∨ 64 ≤ s.dev.husks.length)) → ∃ t p, exec .huskRequest s = .next t ∧
        t.dev.husks = s.dev.husks ∧ (t.jet r.tile r.slot).findOwed r.owedId = some p ∧
        p.w = [⟨scatter o.dst (if r.clear = false ∧ r.inst ∈ s.dev.husks then 2 else 1), []⟩]) ∧
    (∀ r c, s.dev.huskCopy = some (r, c) → r.tt = none → ∃ t, exec .huskCopyDone s = .next t ∧ t.mem = s.mem ∧ t.dev.huskCopy = none ∧
      (∀ d, d < 4 → (t.die d).huskTable = s.dev.husks) ∧ (∀ m, m < Config.tiles → ∀ i, t.husked m i = true ↔ i ∈ s.dev.husks)) ∧
    (z.open_ = false → z.husking = false → ∃ t m, exec .ttSlot s = .next t ∧ kept t ∧ t.dev.agentQ = s.dev.agentQ ++ [m] ∧ m.handle = BitVec.ofNat 32 (fld e.toNat 128 32) ∧
      m.size = 32 ∧ m.inst = ttInst e z.slot ∧ fld m.payload 120 16 = (ttInst e z.slot).toNat ∧ fld m.payload 0 120 = fld e.toNat 256 120 ∧
      fld (entry t n).toNat 224 32 = (fld e.toNat 224 32 + 1) % 2 ^ 32 ∧ (Tbl.get TtState.idle t.dev.ttState n).slot = z.slot + 1 ∧
      (Tbl.get TtState.idle t.dev.ttState n).open_ = true) ∧
    (z.husking = true ∨ z.open_ = true ∧ (ttRule e = 0 ∨ ttRule e = 1 ∧ z.deferred = true) → ∃ t, exec .ttSlot s = .next t ∧ kept t ∧ t.dev.agentQ = s.dev.agentQ ∧
      fld (entry t n).toNat 192 32 = min (fld e.toNat 192 32 + 1) (2 ^ 32 - 1) ∧ (Tbl.get TtState.idle t.dev.ttState n).slot = z.slot + 1) ∧
    (z.open_ = true → z.husking = false → ttRule e = 1 → z.deferred = false → ∃ t, exec .ttSlot s = .next t ∧ kept t ∧ t.dev.agentQ = s.dev.agentQ ∧ entry t n = e ∧
      (Tbl.get TtState.idle t.dev.ttState n).deferred = true ∧ (Tbl.get TtState.idle t.dev.ttState n).waits = z.slot) ∧
    (z.open_ = true → ttRule e = 2 → ttInst e z.slot ∉ s.dev.husks → z.husking = false → ∃ t, exec .ttSlot s = .next t ∧ kept t ∧ entry t n = e ∧
      (Tbl.get TtState.idle t.dev.ttState n).husking = true ∧ (Tbl.get TtState.idle t.dev.ttState n).waits = z.slot ∧
      t.dev.huskQ = s.dev.huskQ ++ [ttHusk n z.openInst false s.nc]) ∧
    (BitVec.ofNat 16 s.focus.b = z.openInst → z.deferred = false → ∃ t, exec .ttCompletionReport s = .next t ∧ kept t ∧
      (Tbl.get TtState.idle t.dev.ttState n).open_ = false ∧ t.dev.agentQ = s.dev.agentQ) ∧
    (BitVec.ofNat 16 s.focus.b = z.openInst → z.deferred = true → ∃ t m, exec .ttCompletionReport s = .next t ∧ kept t ∧
      (Tbl.get TtState.idle t.dev.ttState n).open_ = true ∧ (Tbl.get TtState.idle t.dev.ttState n).deferred = false ∧
      t.dev.agentQ = s.dev.agentQ ++ [m] ∧ m.inst = ttInst e z.waits)

/-! ### Events: copies and multicast -/

/-- R241 to R244, R246, R248 to R253: the copy engine takes its command, or refuses it with a message; a channel reads its next piece, is given its value or its cause, writes its next
bytes where its window lies and its watermark follows, or freezes; a window waits for a guard entry and then has it. R255, R257 to R259, R292, R294, R380, R381: a join or a leave
counts at its port and goes on; an answer settles its `sub`; a request starts a stream at its home, which sends its selected lines, 3 nc apart; routers copy them to the ports that
count, or drop a copy too late; the interface lands lines in order, and reads again those that are missing.
A landing write in another tile's pool goes there as a packet, is performed there, and its guard's watermark follows; the last write of a channel that has been aborted still counts,
and the done message goes with it.
Completes: copyAccept, copyReadReturn, mcJoinAck, copySourceRead, landingWrite, guardEntryFree, mcJoinArrival, mcStreamRequest, mcStreamLineSend, mcReplicate,
mcCopyDrop, mcLineLand, mcCatchupRead, mcStreamIdle.
Where the spec leaves a point open, a clause follows the model's choice (log entries 4, 9, 16, and 29: the places of the reorder buffer, and those of the interface). -/
def Obligations.CopyEvents : Prop :=
  ∀ s : State,
    let n := s.focus.a
    let x := s.tile n
    let h := s.stop n
    let dev := s.dev.device.toNat
    let img (k : CopyCmd) : Nat := k.img.toNat
    let refusedWith (k : CopyCmd) (st : Nat) : Prop := ∃ t, exec .copyAccept s = .next t ∧ Kept s t ∧ (BitVec.ofNat 32 (fld (img k) 192 32) ≠ 0 →
      ∃ e ∈ (t.tile n).weir.outbound, e.m.handle = BitVec.ofNat 32 (fld (img k) 192 32) ∧ e.m.size = 16 ∧ fld e.m.payload 32 8 = st ∧ fld e.m.payload 40 8 = fld (img k) 240 3)
    let copy (k : CopyCmd) : Prop := s.gatherOf k = none
    let f := s.focus
    let back (c : Channel) (p : Piece) : Prop := x.chan f.b = c ∧ c.accepted = f.data ∧ c.state = .landing ∧
      c.pieces.find? (fun p => p.elem == f.c && p.off == f.d && p.out) = some p
    let va (c : Channel) (p : Piece) : Nat := (c.srcVa p.elem + p.off) % 2 ^ 64
    let meets (c : Channel) (p : Piece) (g : Guarded) : Prop := back c p ∧ p.from_ ≠ 2 ^ 64 ∧ s.engineGuard n (va c p) p.nb (some (n, f.b)) = g
    let rest (c : Channel) (p : Piece) : Nat := if p.from_ = 1 then s.agentCost n (va c p) else s.agentBack n (va c p)
    let turns (t : State) (c : Channel) (p q : Piece) : Prop :=
      (t.tile n).chan f.b = { c with pieces := c.pieces.map fun r => if r = p then q else r }
    let again (t : State) (d : Nat) : Prop := (s.nc + 2 * d, f, Instr.copyReadReturn) ∈ t.agenda
    let backs (t : State) (c : Channel) (p : Piece) (v : Nat) : Prop := match poolOf dev n (va c p) with
      | some (_, o, _) => if o = n then again t (rest c p) else
          (⟨dev, n, .tile, dev, o, payFlits p.nb, .readResp n (unitId 2 p.num) 0 v, false, s.nc + (2 * rest c p - 1 - wayCost o n), .tile⟩ : Packet) ∈ (t.stop o).inject
      | none => again t (rest c p)
    let lands (ch : Nat) (c : Channel) (a nb v : Nat) (p : Part) : Prop := s.focus.c ≠ 1 ∧ s.lander n = some (ch, c) ∧ x.chan ch = c ∧ c.badHead = none ∧
      c.nextWrite s.tc = some (a, nb, v) ∧ s.partsOf n .write .page false a nb = .ok [p]
    let inStash (a : Nat) (p : Part) : Prop := p.path = .stash ∧ ∃ l ∈ x.stash, l.va = a / 128 ∧ l.owned = true
    let subLands (b : Subscr) : Prop := (x.chan b.chan).state = .landing ∧ (x.chan b.chan).use = .mcast ∧ (x.chan b.chan).accepted = b.accepted
    let goneOn (t : State) (ch nb : Nat) (c : Channel) : Prop :=
      ((c.landedBy nb).complete = false → (t.tile n).chan ch = c.landedBy nb) ∧
      ((c.landedBy nb).complete = true → ((t.tile n).chan ch).state = .done ∧ ((t.tile n).chan ch).status = 0 ∧ ((t.tile n).chan ch).wm = (c.landedBy nb).wm)
    let pkt (d dst : Nat) (port : Endpoint) (flits wait : Nat) (b : Pkt) : Packet := ⟨d, dst, port, dev, n, flits, b, false, s.nc + wait, b.sport⟩
    let joins (port v tag home : Nat) (leave : Bool) (upTo : Nat) : Prop := ∃ k r, h.joinIn = (port, k) :: r ∧ k.body = .mcJoin v tag home leave upTo
    let onward (v tag home : Nat) (leave : Bool) (upTo : Nat) : Packet :=
      if n = home then pkt dev v .ni 1 0 (.mcJoinAck tag (if leave then 7 else 0) n) else pkt dev (acrossPort n (orderNext n home)).1 .ni 1 0 (.mcJoin v tag home leave upTo)
    let whole : List Packet := h.mcIn.filter fun k => decide (k.readyAt / 2 < s.tc)
    let streams (k : Packet) (r : List Packet) (v tag src : Nat) (mask : BitVec 64) (slot ix : Nat) (pas : List Nat) : Prop :=
      s.focus.b ≠ 1 ∧ h.streamWait = k :: r ∧ k.body = .mcRequest v tag src mask slot ix pas
    let lineAt (e : Machine.Stream) (i : Nat) : Nat := (e.pas[i]?).getD 0 / 128
    -- copies
    (∀ loc k c, s.copyHead n = some (loc, k) → copy k → s.checkCopy n k = .ok c → c.total ≠ 0 → ∃ t, exec .copyAccept s = .next t ∧ Kept s t ∧
      (let d := (t.tile n).chan (fld (img k) 240 3)
       d.state = .landing ∧ d.src = fld (img k) 64 64 ∧ d.dst = fld (img k) 128 64 ∧ some d.tpl = Tbl.get none x.templates (fld (img k) 232 6) ∧
       d.done = BitVec.ofNat 32 (fld (img k) 192 32) ∧ d.next = 0 ∧ d.count = 0 ∧ d.wm = BitVec.ofNat 64 (c.dstVa 0) ∧ d.winVa = c.dstVa 0) ∧
      (loc = true → (t.tile n).copyQ = x.copyQ.tail)) ∧
    (∀ loc k, s.copyHead n = some (loc, k) → copy k → k.checked = true → x.capOk (fld (img k) 0 64) true k.issuer = false → refusedWith k 2) ∧
    (∀ loc k, s.copyHead n = some (loc, k) → copy k → (k.checked = true → x.capOk (fld (img k) 0 64) true k.issuer = true) →
      Tbl.get none x.templates (fld (img k) 232 6) = none → refusedWith k 4) ∧
    (∀ ch c, x.reader s.tc = some (ch, c) → x.chan ch = c →
      let a := (c.srcVa c.readNext + c.readOff) % 2 ^ 64
      let nb := min (64 - a % 64) (c.tpl.esize - c.readOff)
      ∃ t, exec .copySourceRead s = .next t ∧ Kept s t ∧ ((t.tile n).chan ch).pieces = c.pieces ++ [⟨c.readNext, c.readOff, nb, none, 0, none, s.nextId⟩] ∧
        (∀ p, s.partsOf n .read .page true a nb = .ok [p] →
          (p.path ≠ .pool → pkt (s.homeDev p.addr) (homePort p.addr).1 (homePort p.addr).2 1 (2 * s.xlateCost n a nb + 28) (.read n (unitId 2 s.nextId) 0 p.addr p.nb) ∈ (t.stop n).inject) ∧
          (p.path = .pool → p.pool ≠ 1024 * dev + n → pkt (p.pool / 1024) (p.pool % 1024) .tile 1 14 (.poolReq n (unitId 2 s.nextId) 0 .read p.addr p.nb) ∈ (t.stop n).inject)) ∧
        (∀ r, s.partsOf n .read .page true a nb = r → (∀ p, r = .ok [p] → p.path = .pool ∧ p.pool = 1024 * dev + n) →
          (s.nc + 2 * (s.agentCost n a - s.agentBack n a), ⟨n, ch, c.readNext, c.readOff, c.accepted⟩, Instr.copyReadReturn) ∈ t.agenda)) ∧
    (∀ c p v u, meets c p .clear → s.engineRead n (va c p) p.nb = .ok (v, u) → ∃ t, exec .copyReadReturn s = .next t ∧ Kept u t ∧
      turns t c p { p with from_ := 2 ^ 64, data := some v } ∧ backs t c p v) ∧
    (∀ c p e, meets c p .clear → s.engineRead n (va c p) p.nb = .error e → ∃ t, exec .copyReadReturn s = .next t ∧ Kept (s.walked n (va c p) p.nb) t ∧
      turns t c p { p with from_ := 2 ^ 64, bad := some (e, va c p) } ∧ backs t c p 0) ∧
    (∀ c p, meets c p .stall → ∃ t, exec .copyReadReturn s = .next t ∧ Kept s t ∧ turns t c p { p with from_ := 1 } ∧ again t 1) ∧
    (∀ c p k, meets c p (.aborted k) → ∃ t, exec .copyReadReturn s = .next t ∧ Kept s t ∧ turns t c p { p with from_ := 2 ^ 64, bad := some (9, va c p) } ∧
      backs t c p 0) ∧
    (∀ c p, back c p → p.from_ = 2 ^ 64 → (p.data.isSome = true → c.pieces.head? = some p ∨ x.reorder + p.nb ≤ 4096) →
      ∃ t, exec .copyReadReturn s = .next t ∧ Kept (s.walked n (va c p) p.nb) t ∧ turns t c p { p with from_ := s.tc + 1, bad := p.bad.map fun e => (e.1, va c p) }) ∧
    (∀ c p, back c p → p.from_ = 2 ^ 64 → p.data.isSome = true → c.pieces.head? ≠ some p → 4096 < x.reorder + p.nb →
      ∃ t, exec .copyReadReturn s = .next t ∧ Kept s t ∧ (t.tile n).chan f.b = c ∧ again t 1) ∧
    (∀ ch c a nb v p, lands ch c a nb v p → p.path = .pool → p.pool = 1024 * dev + n → ∃ t, exec .landingWrite s = .next t ∧ t.mem = s.mem ∧
      (∀ m i, t.jet m i = s.jet m i) ∧ (t.tile n).pool = x.pool.writeEn p.addr nb (fullEn nb) v ∧ (∀ m, m ≠ n → (t.tile m).pool = (s.tile m).pool) ∧ goneOn t ch nb c) ∧
    (∀ ch c a nb v p, lands ch c a nb v p → p.path = .pool → p.pool ≠ 1024 * dev + n → ∃ t, exec .landingWrite s = .next t ∧
      Kept (s.walked n a nb) t ∧ (t.tile n).chan ch = { c with flying := true } ∧
      pkt (p.pool / 1024) (p.pool % 1024) .tile (payFlits nb) 14
        (.poolReq n (2 ^ 65 + ch + 8 * c.accepted) 0 (.land ch v (c.winLo + ((c.landedBy nb).wm.toNat - c.winVa))) p.addr nb) ∈ (t.stop n).inject) ∧
    (∀ ch v pos q, x.poolIn.find? (fun q => x.poolReady dev n s.nc q && q.tile == f.b && q.acc == f.c && q.part == f.d) = some q → q.op = .land ch v pos →
      ∃ t, exec .remotePoolAccess s = .next t ∧ t.mem = s.mem ∧ (∀ m i, t.jet m i = s.jet m i) ∧ (t.tile n).pool = x.pool.writeEn q.addr q.nb (fullEn q.nb) v ∧
      (∀ m, m ≠ n → (t.tile m).pool = (s.tile m).pool) ∧
      (t.tile n).guards = (x.guards.map fun g => if g.tile = q.tile ∧ g.chan = ch ∧ q.dev = dev ∧ 2 ^ 65 + ch + 8 * g.accepted = q.acc then { g with wm := pos } else g) ∧
      (⟨q.dev, q.tile, .tile, dev, n, 1, .writeAck q.tile 0 [q.acc], false, s.nc + 13, .tile⟩ : Packet) ∈ (t.stop n).inject) ∧
    (∀ ch c a nb v p, lands ch c a nb v p → p.path ≠ .pool → paIo p.addr = false → ¬ inStash a p → ∃ t, exec .landingWrite s = .next t ∧
      Kept (s.walked n a nb) t ∧ (t.tile n).chan ch = { c with flying := true } ∧
      pkt (paDev p.addr) (homeOf p.addr) .l2 (payFlits nb) 28 (.write n [2 ^ 65 + ch + 8 * c.accepted] (p.addr / 128)
        (fullEn nb * 2 ^ (2 * (p.addr % 128))) (v * 2 ^ (8 * (p.addr % 128)))) ∈ (t.stop n).inject) ∧
    (∀ ch c a nb v p, lands ch c a nb v p → inStash a p → ∃ t, exec .landingWrite s = .next t ∧ Kept (s.walked n a nb) t ∧ goneOn t ch nb c ∧
      ∀ l ∈ (t.tile n).stash, l.va = a / 128 → ∃ m ∈ (s.walked n a nb |>.tile n).stash, m.va = l.va ∧
        l.data = mergeNib m.data (v * 2 ^ (8 * (p.addr % 128))) (fullEn nb * 2 ^ (2 * (p.addr % 128))) 256) ∧
    (∀ c, s.focus.c = 1 → x.chan s.focus.b = c → c.flying = true → c.accepted = s.focus.d → ∃ t, exec .landingWrite s = .next t ∧
      Kept (s.stashLanded n c) t ∧ goneOn t s.focus.b c.flightBytes c) ∧
    (∀ e, s.focus.c = 1 → ((x.chan s.focus.b).flying = true → (x.chan s.focus.b).accepted ≠ s.focus.d) →
      x.lastWrites.find? (fun e => e.1 == s.focus.b && e.2.accepted == s.focus.d) = some e →
      let d := e.2.landedBy e.2.flightBytes
      ∃ t, exec .landingWrite s = .next t ∧ Kept (s.stashLanded n e.2) t ∧ (t.tile n).lastWrites = x.lastWrites.filter (· != e) ∧
      ((x.chan s.focus.b).accepted = d.accepted → ((t.tile n).chan s.focus.b).count = d.count) ∧
      ((x.chan s.focus.b).accepted ≠ d.accepted → (t.tile n).chan s.focus.b = x.chan s.focus.b) ∧
      (e.2.done ≠ 0 → ∃ m, (t.tile n).weir.outbound = x.weir.outbound ++ [m] ∧ m.m.handle = e.2.done ∧ fld m.m.payload 0 32 = d.count % 2 ^ 32 ∧
        fld m.m.payload 32 8 = d.status % 2 ^ 8)) ∧
    (∀ ch c e a, s.focus.c ≠ 1 → s.lander n = some (ch, c) → x.chan ch = c → c.badHead = some (e, a) → ∃ t, exec .landingWrite s = .next t ∧ Kept s t ∧
      ((t.tile n).chan ch).state = .frozen ∧ ((t.tile n).chan ch).wm = c.wm ∧ ((t.tile n).chan ch).pieces = [] ∧ ((t.tile n).chan ch).readNext = c.next ∧
      ∃ m, (t.tile n).weir.localIn = x.weir.localIn ++ [(s.nc + 6, m)] ∧ m.handle = handleOf s.dev.device n 63 (x.weir.gen 63) ∧ fld m.payload 80 8 = 18 ∧
        fld m.payload 448 64 = a % 2 ^ 64 ∧ fld m.payload 256 64 = c.wm.toNat) ∧
    (∀ ch c o p, s.guardWaiter n = some ch → x.chan ch = c → s.poolAt n c.winVa = some (o, p) → o ≠ n → c.winLo < c.winHi → (s.tile o).guestWindows o < 8 →
      ∃ t, exec .guardEntryFree s = .next t ∧ Kept s t ∧ ((t.tile n).chan ch).needGuard = false ∧
        (t.tile o).guards = (s.tile o).guards ++ [⟨n, ch, p, p + (c.winHi - c.winLo), p, c.state, c.accepted⟩]) ∧
    -- joins and leaves
    (∀ port v tag home upTo, joins port v tag home false upTo → h.mcFind home tag = none → h.mc.length < 64 → ∃ t, exec .mcJoinArrival s = .next t ∧ Kept s t ∧
      (t.stop n).mc = h.mc ++ [⟨home, tag, [(port, 1)]⟩] ∧ (t.stop n).inject = h.inject ++ [onward v tag home false upTo]) ∧
    (∀ port v tag home upTo e, joins port v tag home false upTo → h.mcFind home tag = some e → ∃ t g, exec .mcJoinArrival s = .next t ∧ Kept s t ∧
      (t.stop n).mcFind home tag = some g ∧ Tbl.get 0 g.counts port = Tbl.get 0 e.counts port + 1 ∧ (∀ p, p ≠ port → Tbl.get 0 g.counts p = Tbl.get 0 e.counts p) ∧
      (t.stop n).inject = h.inject ++ [onward v tag home false upTo]) ∧
    (∀ port v tag home upTo, joins port v tag home false upTo → h.mcFind home tag = none → 64 ≤ h.mc.length → ∃ t, exec .mcJoinArrival s = .next t ∧ Kept s t ∧
      (t.stop n).mc = h.mc ∧ (t.stop n).inject = h.inject ++ [pkt dev v .ni 1 0 (.mcJoinAck tag 2 n)]) ∧
    (∀ port v tag home upTo e, joins port v tag home true upTo → n ≠ upTo → h.mcFind home tag = some e → e.counts = [(port, 1)] →
      (∀ g ∈ h.mc, g.home = home → g.tag = tag → g = e) → ∃ t, exec .mcJoinArrival s = .next t ∧
      Kept s t ∧ (t.stop n).mcFind home tag = none ∧ (t.stop n).inject = h.inject ++ [onward v tag home true upTo]) ∧
    (∀ port v tag home, joins port v tag home true n → ∃ t, exec .mcJoinArrival s = .next t ∧ Kept s t ∧ (t.stop n).mc = h.mc ∧ (t.stop n).inject = h.inject) ∧
    (∀ b o, s.focus.c ≠ 7 → x.subs.find? (fun b => b.tag == s.focus.b && !b.acked) = some b → (s.jet n b.slot).findOwed b.owedId = some o →
      (s.focus.c = 0 → b.gone = false) → ∃ t p, exec .mcJoinAck s = .next t ∧ t.mem = s.mem ∧ (t.jet n b.slot).findOwed b.owedId = some p ∧
        p.w = [⟨scatter o.dst s.focus.c, []⟩] ∧ (s.nc, ⟨n, b.slot, b.owedId, 0, 0⟩, Instr.statusResultWrite) ∈ t.agenda ∧
        (s.focus.c = 0 → { b with acked := true } ∈ (t.tile n).subs) ∧ (s.focus.c ≠ 0 → b ∉ (t.tile n).subs ∧
          (subLands b → ((t.tile n).chan b.chan).state = .idle))) ∧
    -- streams
    (∀ w, s.focus.b = 1 → x.mcReady s.tc = some w → ∃ t, exec .mcStreamRequest s = .next t ∧ Kept s t ∧ (t.tile n).mcWait = x.mcWait.erase w ∧
      pkt (paDev (w.pas.headD 0)) (homeOf (w.pas.headD 0)) .l2 1 0 (.mcRequest n w.tag w.src w.mask w.slot w.owedId w.pas) ∈ (t.stop n).inject) ∧
    (∀ k r v tag src mask slot ix pas, streams k r v tag src mask slot ix pas → selected mask pas.length = [] → ∃ t, exec .mcStreamRequest s = .next t ∧ Kept s t ∧
      (t.stop n).streams = h.streams ∧ (t.stop n).inject = h.inject ++ [pkt k.sdev v .tile 1 4 (.mcAnswer slot ix 0)]) ∧
    (∀ k r v tag src mask slot ix pas, streams k r v tag src mask slot ix pas → selected mask pas.length ≠ [] →
      (∀ e ∈ h.streams, ¬ (e.tag = tag ∧ e.src = src ∧ e.mask = mask ∧ e.pas = pas)) →
      ∃ t e, exec .mcStreamRequest s = .next t ∧ Kept s t ∧ (t.stop n).streams = h.streams ++ [e] ∧ e.tag = tag ∧ e.mask = mask ∧ e.src = src ∧ e.pas = pas ∧
        e.readyAt = 2 * (s.tc + 28) ∧ e.sendAt = 2 * (s.tc + 28) ∧ e.held = [] ∧ e.next = (selected mask pas.length).head? ∧ (t.stop n).inject = h.inject ++ [pkt k.sdev v .tile 1 4 (.mcAnswer slot ix 0)]) ∧
    (∀ k r v tag src mask slot ix pas, streams k r v tag src mask slot ix pas → (∃ e ∈ h.streams, e.tag = tag ∧ e.src = src ∧ e.mask = mask ∧ e.pas = pas) →
      ∃ t, exec .mcStreamRequest s = .next t ∧ Kept s t ∧ (t.stop n).streams = h.streams ∧ (t.stop n).inject = h.inject ++ [pkt k.sdev v .tile 1 4 (.mcAnswer slot ix 0)]) ∧
    (∀ e i, s.focus.b = 0 → h.streamReads s.nc = some (e, i) → lineAt e i ∉ h.l2Lines → ∃ t, exec .mcStreamLineSend s = .next t ∧
      Kept s t ∧ { e with readyAt := s.nc + 2 * max 1 (s.missLeft (lineAt e i) 0) } ∈ (t.stop n).streams ∧ (t.stop n).mcOut = h.mcOut) ∧
    (∀ e i, s.focus.b = 0 → h.streamReads s.nc = some (e, i) → lineAt e i ∈ h.l2Lines →
      (s.stop (homeOf (128 * lineAt e i))).dirOf (lineAt e i) = none → ∃ t, exec .mcStreamLineSend s = .next t ∧ Kept s t ∧ (t.stop n).streamRead = s.tc + 1 ∧
        { e with next := (selected e.mask e.pas.length).find? (fun k => decide (i < k)), readyAt := s.nc + 1,
                 held := e.held ++ [(i, s.mem.readN (128 * lineAt e i) 128)] } ∈ (t.stop n).streams ∧ (t.stop n).mcOut = h.mcOut) ∧
    (∀ e i v g, s.focus.b ≠ 0 → h.streamDue s.nc = some (e, i, v) → h.mcFind n e.tag = some g → ∃ t, exec .mcStreamLineSend s = .next t ∧ Kept s t ∧
        (∀ p c, (p, c) ∈ g.counts → c ≠ 0 → (p, ⟨dev, n, .ni, dev, n, 3, .mcLine n e.tag e.src e.pas.length e.mask i v, false, s.nc, .l2⟩, s.nc) ∈ (t.stop n).mcOut) ∧
        ((e.next.isSome ∨ e.held.tail ≠ []) → { e with held := e.held.tail, sendAt := s.nc + 3 } ∈ (t.stop n).streams) ∧
        (e.next = none → e.held.tail = [] → (t.stop n).streams = h.streams.filter (· ≠ e))) ∧
    (∀ key k home tag src l m ix v g, s.replicable n = some (key, k) → k.body = .mcLine home tag src l m ix v → h.mcFind home tag = some g → ∃ t,
      exec .mcReplicate s = .next t ∧ Kept s t ∧ (t.stop n).buf key = (h.buf key).tail ∧
        (t.stop n).mcOut = h.mcOut ++ (g.counts.filter fun c => c.2 != 0).map fun c => (c.1, k, s.nc)) ∧
    (∀ e, s.staleCopy n = some e → ∃ t, exec .mcCopyDrop s = .next t ∧ Kept s t ∧ (t.stop n).mcOut = h.mcOut.erase e ∧
      Tbl.get 0 (t.stop n).counters 8 = (Tbl.get 0 h.counters 8 + 1) % 2 ^ 48) ∧
    (∀ b i v, s.focus.d ≠ 1 → whole = [] → s.mcLander n = some (b, i, v) → ∃ t, exec .mcLineLand s = .next t ∧ t.mem = s.mem ∧ (∀ m i, t.jet m i = s.jet m i) ∧
      (t.tile n).pool = x.pool.writeEn (b.dst + 128 * i) 128 (fullEn 128) v ∧ (∀ m, m ≠ n → (t.tile m).pool = (s.tile m).pool) ∧
      ((t.tile n).chan b.chan).wm = BitVec.ofNat 64 (b.dst + 128 * (((selected b.mask b.lines).find? fun k => decide (i < k)).getD b.lines)) ∧
      ((t.tile n).chan b.chan).count = (x.chan b.chan).count + 1 ∧
      ((selected b.mask b.lines).find? (fun k => decide (i < k)) = none → ((t.tile n).chan b.chan).state = .done)) ∧
    (∀ k home tag src l mask ix v b, s.focus.d ≠ 1 → whole = [k] → k.body = .mcLine home tag src l mask ix v → x.subOf tag = some b → b.src = src → b.lines = l → b.over_ = false →
      subLands b → (b.started = true → b.mask = mask ∧ b.lastIx < ix) → ∃ t c, exec .mcLineLand s = .next t ∧ t.mem = s.mem ∧
        (t.tile n).subOf tag = some c ∧ c.started = true ∧ c.mask = mask ∧ c.lastIx = ix ∧ c.lastPkt = s.nc ∧
        (∀ i ∈ selected mask l, b.next ≤ i → i < ix → (∀ g ∈ b.got, g.1 ≠ i) → i ∈ b.asked ∨ i ∈ c.wanted)) ∧
    (∀ k home tag src l mask ix v, s.focus.d ≠ 1 → whole = [k] → k.body = .mcLine home tag src l mask ix v → x.subOf tag = none → s.mcLander n = none →
      ∃ t, exec .mcLineLand s = .next t ∧ Kept s t ∧ (t.tile n).subs = x.subs ∧ Tbl.get 0 (t.stop n).counters 9 = (Tbl.get 0 h.counters 9 + 1) % 2 ^ 48) ∧
    (∀ b i e, x.mcCatchup = some (b, i) → s.streamLines n (b.src + 128 * i) 1 = .ok [some e] → ∃ t, exec .mcCatchupRead s = .next t ∧
      Kept (s.walked n (b.src + 128 * i) 128) t ∧
      (t.tile n).subs = (x.subs.map fun c => if c.tag = b.tag ∧ c.gone = false then
        { c with wanted := c.wanted.erase i, asked := c.asked ++ [i], pas := c.pas.set i e.2.2 } else c) ∧
      (paIo e.2.2 = false → pkt (paDev e.2.2) (homeOf e.2.2) .l2 1 (2 * s.xlateCost n (b.src + 128 * i) 128 + 28) (.read n (unitId 3 (64 * b.tag + i)) 0 e.2.2 128)
        ∈ (t.stop n).inject)) ∧
    (∀ b, s.focus.d = 1 → x.subOf s.focus.b = some b → s.focus.c ∈ b.asked →
      ∃ t c, exec .mcLineLand s = .next t ∧ Kept s t ∧ (t.tile n).subOf s.focus.b = some c ∧ c.asked = b.asked.erase s.focus.c ∧ c.got = b.got ++ [(s.focus.c, s.focus.data)]) ∧
    (∀ b, s.mcIdle n = some b → ∃ t, exec .mcStreamIdle s = .next t ∧ Kept s t ∧
      (t.tile n).subs = (x.subs.map fun c => if c.tag = b.tag ∧ c.gone = false then { c with wanted := c.wanted ++ c.missing } else c))

/-! ### Events: the network -/

/-- R281 to R287, R300: a router takes in a packet, sends a head over a productive output to where most room is free, or gives a packet to its endpoint, a fault record to the paging endpoint of R368; a timer that reaches the threshold asks for
the acorn, which passes from stop to stop and is captured by a stop that asked; its packet reaches its endpoint's reserved buffer, and what stood
there goes to the drain ring, to be read back, each endpoint's packets in the order it wrote them. R288, R298: the governor raises and drains subnets. R279, R280, R290: a failed flit is sent again 8 nc later and starts the link's test, and a link that fails 8 times is
fenced; a malformed packet is removed and journaled; a Lauc port takes packets in, and sends what it has credits for. Completes: routerForward,
inputTimerExpiry, acornMove, acornCapture, overflowDelivery, drainRingReadback, drainRecord, governorReport, subnetEnable, subnetDisable, linkRetry, malformedPacket,
laucInbound, laucCredit. Where the spec leaves a point open, a clause follows the model's choice (log entries 4, 9, 13, 19). -/
def Obligations.NetworkEvents : Prop :=
  ∀ s : State,
    let n := s.focus.a
    let h := s.stop n
    let d := s.die n
    let dev := s.dev.device.toNat
    let ac := s.dev.acorn
    let noLane : Prop := ∀ e, s.laneNext = some e → e.1 ≠ n
    let idle : Prop := noLane ∧ s.reservedReady n = none ∧ s.copyReady n = none
    let counted (t : State) (q i : Nat) : Prop := Tbl.get 0 (t.stop q).counters i = (Tbl.get 0 (s.stop q).counters i + 1) % 2 ^ 48
    let counted' (t : State) (q i m : Nat) : Prop := Tbl.get 0 (t.stop q).counters i = (Tbl.get 0 (s.stop q).counters i + m) % 2 ^ 48
    let journals (t : State) (kind outcome source digest : Nat) : Prop := s.dev.released = true → s.dev.duty.getLsbD 5 = false → t.dev.jwait = s.dev.jwait ++
      [⟨BitVec.ofNat 64 s.dev.time, BitVec.ofNat 64 digest, 0, BitVec.ofNat 16 source, BitVec.ofNat 4 kind, BitVec.ofNat 4 outcome⟩]
    let captured (c : Capture) (q : Nat) : Prop := ac.held = some c ∧ q = c.packet.dst ∧ c.packet.ddev = dev
    let passed (t : State) : Prop := t.dev.acorn = ⟨(acornNext ac.pos).1, s.nc + 1 + (acornNext ac.pos).2, none⟩
    let lauc (t : State) (p : Nat) : Lauc := Tbl.get Lauc.empty t.dev.lauc p
    let quiet : Prop := fld d.netctl.toNat 7 1 = 0 ∧ d.rising = [] ∧ d.draining = []
    let hi := if fld d.netctl.toNat 24 8 ≤ s.busyAverage n then d.govHigh + 1 else 0
    let lo := if s.busyAverage n < fld d.netctl.toNat 16 8 then d.govLow + 1 else 0
    let fails := Tbl.get 0 h.linkFails s.focus.b + 1
    -- routers
    (∀ k sub, idle → s.entering n = some (k, sub) → ∃ t, exec .routerForward s = .next t ∧ Kept s t ∧
      (t.stop n).buf (8 * sub + 4) = h.buf (8 * sub + 4) ++ [k] ∧ (t.stop n).inject = h.inject.erase k) ∧
    (∀ key out sub k r, idle → s.entering n = none → s.movable n = some (key, out, sub) → h.buf key = k :: r → out < 7 → out ≠ 4 → (acrossPort n out).1 ≠ n →
      let e := acrossPort n out
      ∃ t, exec .routerForward s = .next t ∧ Kept s t ∧ (t.stop n).buf key = r ∧ Tbl.get 0 (t.stop n).outBusy (8 * sub + out) = s.nc + k.flits ∧
        (t.stop e.1).buf (8 * sub + e.2) = (s.stop e.1).buf (8 * sub + e.2) ++ [{ k with readyAt := s.nc + (if out = 5 ∨ out = 6 then 16 else 1) }]) ∧
    (∀ key sub k r m, idle → s.entering n = none → s.movable n = some (key, 4, sub) → h.buf key = k :: r → k.body = .send m → k.dport ≠ .mgmt → ∃ t, exec .routerForward s = .next t ∧ Kept s t ∧
      (t.stop n).buf key = r ∧ (t.tile n).weir.netIn = (s.tile n).weir.netIn ++ [m]) ∧
    (∀ key sub k r m, idle → s.entering n = none → s.movable n = some (key, 4, sub) → h.buf key = k :: r → k.body = .send m → k.dport = .mgmt → s.dev.pfHeld = [] →
      (∀ e ∈ s.dev.pfNext, e.1 ≠ m.src) → m.seq = m.base → m.op = .data → m.size = 64 → ∃ t, exec .routerForward s = .next t ∧ Kept s t ∧ t.dev.pfIn = s.dev.pfIn ++ [m] ∧
      (t.tile n).weir = (s.tile n).weir) ∧
    (∀ e c, noLane → s.reservedReady n = none → s.copyReady n = some e → e.1 < 7 → e.1 ≠ 4 → c = acrossPort n e.1 → c.1 ≠ n → ∃ t, exec .routerForward s = .next t ∧ Kept s t ∧
      (t.stop n).mcOut = h.mcOut.erase e ∧
      (t.stop c.1).buf c.2 = (s.stop c.1).buf c.2 ++ [{ e.2.1 with readyAt := s.nc + (if e.1 = 5 ∨ e.1 = 6 then 16 else 1) }]) ∧
    (∀ e k m, noLane → s.reservedReady n = some (e, k) → k.body = .send m → k.dport ≠ .mgmt → ∃ t, exec .routerForward s = .next t ∧ Kept s t ∧ Tbl.get none (t.stop n).reserved e = none ∧
      (t.tile n).weir.netIn = (s.tile n).weir.netIn ++ [m]) ∧
    (∀ out c, s.laneNext = some (n, out) → ac.held = some c → ∃ t, exec .routerForward s = .next t ∧ Kept s t ∧
      t.dev.acorn.held = some { c with stop := (acrossPort n out).1, since := s.nc + (if out = 5 ∨ out = 6 then 15 else 0) } ∧ counted' t n 0 c.packet.flits ∧
      Tbl.get 0 (t.stop n).outBusy out = max (Tbl.get 0 h.outBusy out) s.nc + c.packet.flits) ∧
    (∀ p k r, idle → s.entering n = none → s.movable n = none → laucAt n = some p → s.laucReady p = true → (lauc s p).out = k :: r →
      ∃ t, exec .routerForward s = .next t ∧ Kept s t ∧ (lauc t p).out = r ∧ (lauc t p).credits = (lauc s p).credits - 1 ∧
        (lauc t p).sent = (lauc s p).sent ++ [(k.routeWord, { k with readyAt := s.nc + 160 })]) ∧
    (∀ k o sub, s.routeChoice n k = some (o, sub) → o ∈ s.productive n k ∧ sub < 4 ∧ s.freeAt n o sub k ≠ 0 ∧
      ∀ p ∈ s.productive n k, ∀ i, i < 4 → k.onZero = false → s.freeAt n p i k ≤ s.freeAt n o sub k) ∧
    -- recovery
    (∀ key, s.expiring n = some key → ∃ t, exec .inputTimerExpiry s = .next t ∧ Kept s t ∧ (t.stop n).expired = h.expired ++ [key] ∧ counted t n 4) ∧
    (exec .acornMove s = .next { s with dev := { s.dev with acorn := ⟨(acornNext ac.pos).1, s.nc + (acornNext ac.pos).2, none⟩ } }) ∧
    (∀ key k, s.drainHead ac.pos = some (key, k) → ∃ t, exec .acornCapture s = .next t ∧ Kept s t ∧ (t.stop ac.pos).buf key = ((s.stop ac.pos).buf key).tail ∧
      t.dev.acorn.held = some ⟨s.nc, ac.pos, { k with drained := true }, false⟩ ∧ counted t ac.pos 5) ∧
    (∀ c q, captured c q → Tbl.get none (s.stop q).reserved (endpointIx c.packet.dport) = none → ∃ t, exec .overflowDelivery s = .next t ∧ Kept s t ∧ passed t ∧
      Tbl.get none (t.stop q).reserved (endpointIx c.packet.dport) = some c.packet ∧ counted t q 6) ∧
    (∀ c q o, captured c q → Tbl.get none (s.stop q).reserved (endpointIx c.packet.dport) = some o → (s.die (dieOf q)).drainRing.length < 65536 →
      ∃ t, exec .overflowDelivery s = .next t ∧ Kept s t ∧ passed t ∧ Tbl.get none (t.stop q).reserved (endpointIx c.packet.dport) = some c.packet ∧
        (t.die (dieOf q)).drainRing = (s.die (dieOf q)).drainRing ++ [(8 * q + endpointIx c.packet.dport, o)]) ∧
    (∀ c q o, captured c q → Tbl.get none (s.stop q).reserved (endpointIx c.packet.dport) = some o → 65536 ≤ (s.die (dieOf q)).drainRing.length → c.full = false →
      ∃ t, exec .overflowDelivery s = .next t ∧ Kept s t ∧ t.dev.acorn.held = some { c with full := true } ∧ journals t 4 0 (256 * dieOf q) 65536) ∧
    (∀ e key k, s.readback = some (e, key, k) → ∃ l r, (s.die e).drainRing = l ++ (key, k) :: r ∧ ∀ p ∈ l, p.1 ≠ key) ∧
    (∀ e key k m, s.readback = some (e, key, k) → k.body = .send m → k.dport ≠ .mgmt → ∃ t, exec .drainRingReadback s = .next t ∧ Kept s t ∧
      (t.die e).drainRing = (s.die e).drainRing.erase (key, k) ∧ (t.tile (key / 8)).weir.netIn = (s.tile (key / 8)).weir.netIn ++ [m]) ∧
    (∃ t, exec .drainRecord s = .next t ∧ Kept s t ∧ (t.die n).drainedMs = 0 ∧ journals t 4 0 (256 * n) d.drainedMs) ∧
    -- subnets
    (∃ t, exec .governorReport s = .next t ∧ Kept s t ∧ (∀ i, i < 256 → (t.stop (256 * n + i)).busyFlits = 0) ∧ (t.die n).netctl = d.netctl ∧
      (∀ sub, quiet → fld d.netctl.toNat 8 8 ≤ hi → d.nextSub = some sub → (t.die n).rising = [sub] ∧
        ∃ due, s.nc < due ∧ due ≤ s.nc + 2800 ∧ (due, ⟨n, sub, 0, 0, 0⟩, Instr.subnetEnable) ∈ t.agenda) ∧
      (quiet → (hi < fld d.netctl.toNat 8 8 ∨ d.nextSub = none) → 350 ≤ lo → d.topSub ≠ 0 → (t.die n).draining = [d.topSub]) ∧
      (quiet → hi < fld d.netctl.toNat 8 8 → lo < 350 → (t.die n).govHigh = hi ∧ (t.die n).govLow = lo ∧ (t.die n).rising = [] ∧ (t.die n).draining = [])) ∧
    (s.focus.b < 4 → ∃ t, exec .subnetEnable s = .next t ∧ Kept s t ∧
      (fld d.netctl.toNat 7 1 = 0 ∨ d.rising.erase s.focus.b ≠ [] ∨ d.draining ≠ [] → (t.die n).rising = d.rising.erase s.focus.b ∧ (t.die n).draining = d.draining) ∧
      (∀ i, i < 64 → (t.die n).netctl.getLsbD i = (d.netctl.getLsbD i || i == s.focus.b))) ∧
    (∀ sub, s.drainedSub n = some sub → sub < 4 → ∃ t, exec .subnetDisable s = .next t ∧ Kept s t ∧
      (fld d.netctl.toNat 7 1 = 0 ∨ d.rising ≠ [] ∨ d.draining.erase sub ≠ [] → (t.die n).draining = d.draining.erase sub ∧ (t.die n).rising = d.rising) ∧
      (∀ i, i < 64 → (t.die n).netctl.getLsbD i = (d.netctl.getLsbD i && i != sub))) ∧
    -- links and Lauc ports
    (∃ t, exec .linkRetry s = .next t ∧ Kept s t ∧
      (fails < 8 → Tbl.get 0 (t.stop n).linkFails s.focus.b = fails ∧ (t.stop n).fencedPorts = h.fencedPorts) ∧
      (8 ≤ fails → s.focus.b ∈ (t.stop n).fencedPorts) ∧ (evenUp s.nc, ⟨n, 10, s.focus.b, 0, 0⟩, Instr.eccError) ∈ t.agenda ∧
      (∀ p l e, laucAt n = some p → s.focus.b = 7 → (lauc s p).sent = l ++ [e] → (lauc t p).sent = l ++ [(e.1, { e.2 with readyAt := e.2.readyAt + 8 })])) ∧
    (∃ t, exec .malformedPacket s = .next t ∧ Kept s t ∧ (lauc t n).linkIn = (lauc s n).linkIn.drop 1 ∧ (lauc t n).freed = (lauc s n).freed + 1 ∧
      counted t (laucStop n) 12 ∧ journals t 2 2 (laucStop n) 1) ∧
    (∀ w k r, (lauc s n).linkIn = (w, k) :: r → ((s.stop (laucStop n)).buf 7).length < 256 → ∃ t, exec .laucInbound s = .next t ∧ Kept s t ∧ (lauc t n).linkIn = r ∧
      (t.stop (laucStop n)).buf 7 = (s.stop (laucStop n)).buf 7 ++ [{ (k.routed w).fromPort n with readyAt := s.nc }]) ∧
    (∃ t, exec .laucCredit s = .next t ∧ Kept s t ∧ (lauc t n).credits = (lauc s n).credits + 1 ∧ (lauc t n).out = (lauc s n).out ∧
      (lauc t n).sent = (lauc s n).sent)

/-- R282: an output that a router may choose inside a die brings the packet one hop nearer, so that no packet goes for ever. R285: the acorn's ring passes
through every stop of the device once. -/
def Obligations.Ways : Prop :=
  (∀ q x o, q < 1024 → x < 1024 → dieOf q = dieOf x → (o ∈ torusDirs q x ↔ o < 4 ∧ hops (acrossPort q o).1 x + 1 = hops q x)) ∧
  (∀ p, p < 1024 → (acornNext p).1 < 1024) ∧ (∀ p q, p < 1024 → q < 1024 → (acornNext p).1 = (acornNext q).1 → p = q) ∧
  (∀ q, q < 1024 → ∃ k, k < 1024 ∧ (List.range k).foldl (fun p _ => (acornNext p).1) 0 = q)

/-! ### Events: the matrix engine, cisterns and expert chains -/

/-- R307, R309 to R313, R316 to R319, R321, R322, R324, R327: the engine takes its command, or refuses it with the first status that applies; a step adds its plane products and
goes on one tc later; the chain hands a row of outputs to the landing channel; a deposit adds to its cistern; a run retires with its message; a fault freezes it. R295 to R297,
R329 to R336, R338 to R343: lists join their round and leave merged; a chain reads its block, routes each token once, gathers and places its groups, sends their commands,
combines rows and ends its layer with a message; a snapshot takes the counters and clears them. The writes of a row and of a snapshot leave the chain's stop as packets, and their last
acknowledgement ends them. Where the spec leaves a point open, a clause follows the model's choice (log entries 4, 9, 20, 21).
Completes: matrixAccept, matrixStep, systolicWaitTimeout, matrixCompletion, precisionMessage, chainOutput, cisternDeposit, matrixFreeze, matrixSelftest, addwUpdate, mergePartial, gateListArrival,
mergeJoinArrival, chainBlockRead, routeToken, snapshotTake, gather, groupPlace, combineSlotFill, layerDone. -/
def Obligations.MatrixAndExpertEvents : Prop :=
  ∀ s : State,
    let n := s.focus.a
    let x := s.tile n
    let h := s.stop n
    let dev := s.dev.device.toNat
    let ch (r : Run) : Nat := mxChan r.img
    let posted (t : State) (q : Nat) (d : BitVec 32) (size : Nat) (p : Nat → Prop) : Prop :=
      ∃ e, (t.tile q).weir.outbound = (s.tile q).weir.outbound ++ [e] ∧ e.m.handle = d ∧ e.m.size = size ∧ p e.m.payload
    let told (t : State) (c : MxCmd) (st : Nat) : Prop := mxDone c.img.toNat ≠ 0 → posted t n (mxDone c.img.toNat) 16 fun p => fld p 32 8 = st ∧ fld p 48 16 = n % 2 ^ 16
    let retires (i : Instr) (st : Nat) : Prop := ∀ r, x.mx.run = some r → ∃ t, exec i s = .next t ∧ Kept s t ∧ (t.tile n).mx.run = none ∧ (t.tile n).mx.last = st ∧
      (mxCist r.img = true → told t r.cmd st) ∧
      (mxCist r.img = false → ((t.tile n).chan (ch r)).state = (if st = 0 then .done else .aborted) ∧ ((t.tile n).chan (ch r)).status = (if st = 0 then 0 else 1) ∧
        ((x.chan (ch r)).done = 0 → told t r.cmd st))
    let refusal (c : MxCmd) : Nat := if c.checked = true ∧ x.capOk (fld c.img.toNat 0 64) false c.issuer = false then 1 else if x.mxDead = true then 5
      else if s.mxBad n (s.mxRun n c) = true then 2 else if s.linkRefused n c.img.toNat = true then 3 else 0
    let run (t : State) : Option Run := (t.tile n).mx.run
    let lacks (r : Run) : List (Nat × Nat) := (s.opLines n ((r.fetches r.step).1 ++ (r.fetches r.step).2)).filter fun e => !r.pinned.contains e.1
    let poolOnly (u t : State) : Prop := t.mem = u.mem ∧ (∀ m i, t.jet m i = s.jet m i) ∧ ∀ m, m ≠ n → (t.tile m).pool = (s.tile m).pool
    let calm (t : State) : Prop := ((∀ q, (s.stop q).dir = []) → t.mem = s.mem) ∧ (∀ m i, t.jet m i = s.jet m i) ∧ ∀ m, (t.tile m).pool = (s.tile m).pool
    let stops (r : Run) (e : Nat × Nat) : Run := if e.1 = 0 then { r with readyAt := s.tc + 1 } else { r with fault := some e }
    let k := n
    let c := s.chain k
    let u := chainStop k
    let layered (l : Layer) : Prop := c.layer = some l
    let tree (port tag root : Nat) (l : BitVec 512) : Prop := s.treeReady n = none ∧ ∃ p, h.nextPartial = some (port, p) ∧ p.body = .merge tag root l
    let pkt (dst flits : Nat) (b : Pkt) : Packet := ⟨dev, dst, .ni, dev, n, flits, b, false, s.nc, b.sport⟩
    let joins (port v tag root slot ix : Nat) (leave : Bool) (chain : Option Nat) (hd : BitVec 32) (up : Nat) : Prop :=
      ∃ p, h.nextJoin = some (port, p) ∧ p.body = .mergeJoin v tag root slot ix leave chain hd up
    let lost (tag root : Nat) (chain : Option Nat) (hd : BitVec 32) : Prop := (n = root ∨ h.tree tag root ≠ none) ∧ chain = none ∧ s.live root hd = false
    let down (e : MergeEntry) (port : Nat) : MergeEntry := { e with fanin := Tbl.set e.fanin port (Tbl.get 0 e.fanin port - 1) }
    let sends (t : State) (id : Nat) (ps : List Part) (v : Nat) : Prop := ∀ p ∈ ps, let d := fld v (8 * p.off) (8 * p.nb)
      (p.path = .pool → p.pool = 1024 * dev + u → ⟨dev, u, id, 0, .write (fullEn p.nb) d, p.addr, p.nb, s.nc + 4, false, false⟩ ∈ (t.tile u).poolIn) ∧
      (p.path = .pool → p.pool ≠ 1024 * dev + u → (⟨p.pool / 1024, p.pool % 1024, .tile, dev, u, payFlits p.nb, .poolReq u id 0 (.write (fullEn p.nb) d) p.addr p.nb,
        false, s.nc + 14, .tile⟩ : Packet) ∈ (t.stop u).inject) ∧
      (p.path ≠ .pool → (⟨s.homeDev p.addr, (homePort p.addr).1, (homePort p.addr).2, dev, u, payFlits p.nb, .write u [id] (p.addr / 128)
        (fullEn p.nb * 2 ^ (2 * (p.addr % 128))) (d * 2 ^ (8 * (p.addr % 128))), false, s.nc + 28, .tile⟩ : Packet) ∈ (t.stop u).inject)
    let asked (l : Layer) (tok off m : Nat) : State := ((Tbl.get [] l.slots tok).filter fun x => !x.zero).foldl (fun (s : State) x => s.asks u (l.yAddr x tok (off / 4)) m) s
    -- the matrix engine
    (∀ loc c, s.mxHead n = some (loc, c) → refusal c ≠ 0 → ∃ t, exec .matrixAccept s = .next t ∧ Kept s t ∧ run t = x.mx.run ∧ told t c (refusal c) ∧
      (loc = true → (t.tile n).mx.localQ = x.mx.localQ.tail)) ∧
    (∀ loc c, s.mxHead n = some (loc, c) → refusal c = 0 → ∃ t r, exec .matrixAccept s = .next t ∧ Kept s t ∧ run t = some r ∧ r.cmd = c ∧ r.step = 0 ∧ r.qab = [] ∧
      r.state = .running ∧ r.acceptedAt = s.tc ∧ s.tc + 4 ≤ r.readyAt ∧ r.tA = Tbl.get 0 x.mx.tids (fld r.img 160 8) ∧ r.tB = Tbl.get 0 x.mx.tids (fld r.img 168 8) ∧
      r.tO = Tbl.get 0 x.mx.tids (fld r.img 176 8) ∧
      (mxCist r.img = false → let d := (t.tile n).chan (ch r)
        d.state = .landing ∧ d.use = .matrix ∧ d.winVa = r.window.1 ∧ d.wm = BitVec.ofNat 64 r.window.1)) ∧
    (∀ r la lb s1 s2 s3, x.mx.run = some r →
      let w := r.fetches r.step
      s.pinAll n (lacks r) = (s1, 0, false) → s1.readEach n 8 (r.own n) w.1 = .ok (la, s2) → s2.readEach n 8 (r.own n) w.2 = .ok (lb, s3) →
      mxAout r.img = false → mxBout r.img = false →
      let wa := if mxAin r.img then (r.inA.head?.map (·.2)).getD [] else la
      let wb := if mxBin r.img then (r.inB.head?.map (·.2)).getD [] else lb
      ∃ t q, exec .matrixStep s = .next t ∧ Kept s3 t ∧ run t = some q ∧ q.step = r.step + 1 ∧ q.inA = r.inA.drop 1 ∧ q.inB = r.inB.drop 1 ∧
        q.qab = (r.accumulate r.step wa wb).qab ∧ q.qa = (r.accumulate r.step wa wb).qa ∧ q.qb = (r.accumulate r.step wa wb).qb ∧
        (r.step + 1 < r.total → q.readyAt = s.tc + (if x.mxFenced = 0 then 1 else 2)) ∧ (r.total ≤ r.step + 1 → q.pinned = [])) ∧
    (∀ r v c, x.mx.run = some r → s.pinAll n (lacks r) = (v, c) → (c.2 = true ∨ c.1 ≠ 0) → ∃ t q, exec .matrixStep s = .next t ∧ Kept s t ∧ run t = some q ∧ q.step = r.step ∧ q.qab = r.qab ∧
        q.readyAt = s.tc + max 1 c.1) ∧
    (∀ (r : Run) (m : Nat) (wa wb : List Nat) (i j a b : Nat), wa.length ≤ 128 → wb.length ≤ 128 → wa[i]? = some a → wb[j]? = some b →
      let p := r.stepAt m
      Tbl.get 0 (r.accumulate m wa wb).qab (128 * i + j) = Tbl.get 0 r.qab (128 * i + j) + planeWeight (tenSigned r.tA.toNat) (mxPa r.img) p.1 *
        planeWeight (tenSigned r.tB.toNat) (mxPb r.img) p.2.1 * (popcount64 (a &&& b &&& r.kmask p.2.2) : Nat)) ∧
    (∀ r e s1, x.mx.run = some r → s.pinAll n (lacks r) = (s1, 0, false) → s1.readEach n 8 (r.own n) (r.fetches r.step).1 = .error e → ∃ t q, exec .matrixStep s = .next t ∧
      Kept s t ∧ run t = some q ∧ q.step = r.step ∧ q.qab = r.qab ∧ (e.1 = 0 → q.readyAt = s.tc + 1) ∧ (e.1 ≠ 0 → q.fault = some e)) ∧
    retires .systolicWaitTimeout 3 ∧ retires .matrixCompletion 0 ∧
    (∀ r side j first l s1, x.mx.run = some r → r.precs[r.precSent]? = some (side, j, first) →
      let e := if side = 0 then r.tA.toNat else r.tB.toNat
      let m := min 24 ((if side = 0 then r.rows else r.cols) - first)
      s.readEach n 2 (r.own n) ((List.range m).map fun i => (tenOaddr e + 32 * ((if side = 0 then r.rA else r.rB) + first + i) + 2 * j) % 2 ^ 64) = .ok (l, s1) →
      ∃ t, exec .precisionMessage s = .next t ∧ Kept s1 t ∧ run t = some { r with precSent := r.precSent + 1 } ∧
        posted t n (BitVec.ofNat 32 (tenPrec e)) 64 fun p => fld p 0 20 = mxCbase r.img) ∧
    (∀ r r1 s1 r2 s2 f, x.mx.run = some r → s.readExps n r = .ok (r1, s1) → s1.readBias n r1 = (r2, s2, f) →
      let d := if f = none then r2.cols else (r2.bias.getD []).length
      let vals := (List.range d).map fun y => (r2.chainOut (Tbl.get 0 x.mx.acts (mxAct r2.img)) r2.outNext y).1
      ∃ t q, exec .chainOutput s = .next t ∧ Kept s2 t ∧ run t = some q ∧ q.made = r2.made + (d - r2.part) ∧ q.readyAt = s.tc + 1 ∧
        (r2.cols ≤ d → q.outNext = r2.outNext + 1 ∧ q.part = 0) ∧ (d < r2.cols → q.outNext = r2.outNext ∧ q.part = d) ∧
        (∀ e, f = some e → e.1 ≠ 0 → q.fault = some e) ∧
        (∀ w, w ∈ ((t.tile n).chan (ch r2)).writes ↔ w ∈ r2.landWrites r2.outNext vals s.tc d ∨ w ∈ (x.chan (ch r2)).writes)) ∧
    (∀ r e, x.mx.run = some r → s.readExps n r = .error e → ∃ t u, exec .chainOutput s = .next t ∧ exec .cisternDeposit s = .next u ∧ Kept s t ∧ Kept s u ∧
      run t = some (stops r e) ∧ run u = some (stops r e)) ∧
    (∀ r r1 s1, x.mx.run = some r → s.readExps n r = .ok (r1, s1) →
      let v := r1.value (r1.made / r1.cols) (r1.made % r1.cols)
      ∃ t, exec .cisternDeposit s = .next t ∧ poolOnly s1 t ∧ run t = some { r1 with made := r1.made + 1, lastAt := s.tc, readyAt := s.tc + 1 } ∧
        (t.tile n).pool = (x.applyAddend (r1.cistern r1.made) (mxCbase r1.img) 0 v.1 v.2).pool) ∧
    (∀ r e a, x.mx.run = some r → r.fault = some (e, a) → ∃ t, exec .matrixFreeze s = .next t ∧ Kept s t ∧ run t = some { r with state := .frozen } ∧
      (mxCist r.img = false → ((t.tile n).chan (ch r)).state = .frozen) ∧
      ∃ m, (t.tile n).weir.localIn = x.weir.localIn ++ [(s.nc + 6, m)] ∧ m.handle = handleOf s.dev.device n 63 (x.weir.gen 63) ∧ fld m.payload 80 8 = 19 ∧
        fld m.payload 448 64 = a % 2 ^ 64 ∧ fld m.payload 320 64 = e % 2 ^ 64) ∧
    (s.focus.b = 0 → ∃ t, exec .matrixSelftest s = .next t ∧ Kept s t ∧ (t.tile n).mx.testing = true ∧ run t = x.mx.run ∧
      (s.nc + 128, ⟨n, 1, s.focus.c, 0, 0⟩, Instr.matrixSelftest) ∈ t.agenda) ∧
    (s.focus.b = 1 → ∃ t, exec .matrixSelftest s = .next t ∧ Kept s t ∧ (t.tile n).mx.testing = false ∧ (t.tile n).mx.testedAt = s.dev.time ∧
      (8 < popcount64 (t.tile n).mxFenced.toNat → (t.tile n).mxDead = true) ∧
      (0 < s.focus.c → s.focus.c ≤ 16 → s.dev.released = true → s.dev.duty.getLsbD 5 = false → ∃ j ∈ t.dev.jwait, j.kind = 5 ∧ j.source = BitVec.ofNat 16 n) ∧
      ∀ i, x.mxFenced.getLsbD i = true → (t.tile n).mxFenced.getLsbD i = true) ∧
    (∀ r, 2 ≤ s.focus.b → x.mx.run = some r → r.step < r.total → ∃ t q, exec .matrixSelftest s = .next t ∧ Kept s t ∧ run t = some q ∧ q.step = r.step ∧ q.qab = r.qab ∧
      (s.dev.duty.getLsbD 3 = false → (t.tile n).mx.testing = true ∧ s.tc + 64 ≤ q.readyAt) ∧
      (s.dev.duty.getLsbD 3 = true → (t.tile n).mx.testing = x.mx.testing ∧ s.tc ≤ q.readyAt)) ∧
    (∀ o, x.addws.find? (fun o => o.id == s.focus.b) = some o → ∃ t, exec .addwUpdate s = .next t ∧ poolOnly s t ∧
      (t.tile n).pool = (x.applyAddend o.addr o.block o.special o.num o.exp).pool ∧ ∀ p ∈ (t.tile n).addws, p.id ≠ o.id) ∧
    -- merge trees
    (∀ e r, s.treeReady n = some (e, r) → e.root ≠ n → ∃ t, exec .mergePartial s = .next t ∧ Kept s t ∧
      (t.stop n).inject = h.inject ++ [pkt (acrossPort n (orderNext n e.root)).1 2 (.merge e.tag e.root r.list)]) ∧
    (∀ e r, s.treeReady n = some (e, r) → e.root = n → ∃ t m, exec .mergePartial s = .next t ∧ Kept s t ∧ (t.tile n).weir.localIn = x.weir.localIn ++ [(s.nc + 6, m)] ∧
      m.handle = e.handle ∧ m.size = 64 ∧ m.payload = r.list.toNat) ∧
    (∀ port tag root l e, tree port tag root l → h.tree tag root = some e → (∀ r ∈ e.rounds, r.round ≠ fld l.toNat 408 8) → ∃ t g, exec .mergePartial s = .next t ∧ Kept s t ∧
      (t.stop n).tree tag root = some g ∧ g.rounds = e.rounds ++ [⟨fld l.toNat 408 8, 1, rankedList l, s.nc + 2⟩]) ∧
    (∀ port tag root l e r, tree port tag root l → h.tree tag root = some e → r ∈ e.rounds → r.round = fld l.toNat 408 8 → ∃ t g, exec .mergePartial s = .next t ∧ Kept s t ∧
      (t.stop n).tree tag root = some g ∧ { r with got := r.got + 1, list := mergeLists r.list l, from_ := s.nc + 2 } ∈ g.rounds) ∧
    (∀ port tag root l, tree port tag root l → h.tree tag root = none → ∃ t, exec .mergePartial s = .next t ∧ Kept s t ∧ (t.stop n).merge = h.merge) ∧
    (∀ q e r, s.gateReady n = some (q, e, r) → ∃ t, exec .gateListArrival s = .next t ∧ Kept s t ∧ (t.chain q).gates = (s.chain q).gates ++ [(e.tag, r.list)]) ∧
    (∀ port v tag root slot ix chain hd up e, joins port v tag root slot ix false chain hd up → ¬ lost tag root chain hd → h.tree tag root = some e →
      ∃ t g, exec .mergeJoinArrival s = .next t ∧ Kept s t ∧ (t.stop n).tree tag root = some g ∧ Tbl.get 0 g.fanin port = Tbl.get 0 e.fanin port + 1 ∧
        (t.stop n).inject = h.inject ++ [pkt v 1 (.mergeAck slot ix 0 tag root)]) ∧
    (∀ port v tag root slot ix chain hd up, joins port v tag root slot ix false chain hd up → ¬ lost tag root chain hd → h.tree tag root = none → h.merge.length < 16 →
      ∃ t, exec .mergeJoinArrival s = .next t ∧ Kept s t ∧ (t.stop n).merge = h.merge ++ [⟨tag, root, chain, hd, [(port, 1)], [], decide (n = root)⟩] ∧
        (t.stop n).inject = h.inject ++ [if n = root then pkt v 1 (.mergeAck slot ix 0 tag root)
          else pkt (acrossPort n (orderNext n root)).1 1 (.mergeJoin v tag root slot ix false chain hd up)]) ∧
    (∀ port v tag root slot ix chain hd up, joins port v tag root slot ix false chain hd up → (lost tag root chain hd ∨ (h.tree tag root = none ∧ 16 ≤ h.merge.length)) →
      ∃ t st, exec .mergeJoinArrival s = .next t ∧ Kept s t ∧ (t.stop n).merge = h.merge ∧ (lost tag root chain hd → st = 2) ∧ (¬ lost tag root chain hd → st = 1) ∧
        (t.stop n).inject = h.inject ++ [pkt v 1 (.mergeAck slot ix st tag root)] ∧
        (v ≠ n → ∃ p, (t.stop v).inject = (s.stop v).inject ++ [p] ∧ p.body = .mergeJoin v tag root slot ix true chain hd n)) ∧
    (∀ port v tag root slot ix chain hd up e, joins port v tag root slot ix true chain hd up → n ≠ up → h.tree tag root = some e → ∃ t, exec .mergeJoinArrival s = .next t ∧
      Kept s t ∧ ((down e port).total ≠ 0 → (t.stop n).tree tag root = some (down e port) ∧ (t.stop n).inject = h.inject) ∧
      ((down e port).total = 0 → (t.stop n).merge = h.merge.filter (· != e) ∧ (t.stop n).inject = h.inject ++ (if n = root then []
        else [pkt (acrossPort n (orderNext n root)).1 1 (.mergeJoin v tag root slot ix true chain hd up)]))) ∧
    -- expert chains
    (∀ q r e, c.queue = q :: r → (s.asks u q.addr 512).engineRead u q.addr 512 = .error e → ∃ t l, exec .chainBlockRead s = .next t ∧ Kept s t ∧ (t.chain k).queue = r ∧
      (t.chain k).layer = some l ∧ l.status = 1 ∧ l.phase = .over) ∧
    (∀ q r b s1, c.queue = q :: r → (s.asks u q.addr 512).engineRead u q.addr 512 = .ok (b, s1) → ∃ t l, exec .chainBlockRead s = .next t ∧ calm t ∧ (t.chain k).queue = r ∧
      (t.chain k).layer = some l ∧ l.block = b ∧ l.inst = q.inst ∧ l.nextTok = 0 ∧ l.groups = [] ∧ fld (t.die (k / 2)).curlayer.toNat 0 6 = lbPos b ∧
      (lbReserved b = true → l.status = 1) ∧ (l.phase = if l.status = 0 then .route else .over)) ∧
    (∀ l g, s.nextGate k = some (l, g) →
      let es := listEntries g.2.toNat
      let kk := lbK l.block
      let r := Routing.run c.replicas l.nextTok (lbE l.block) (lbMax l.block) (es.take kk) (kk - (es.take kk).length)
        { ctr := c.counters, reps := l.reps, slots := [], disp := l.dispatches, drops := l.drops } (es.drop kk)
      ∃ t m, exec .routeToken s = .next t ∧ Kept s t ∧ (t.chain k).gates = c.gates.erase g ∧ (t.chain k).counters = r.ctr ∧ (t.chain k).layer = some m ∧
        m.nextTok = l.nextTok + 1 ∧ Tbl.get [] m.slots l.nextTok = (if lbNorm l.block = true then renorm r.slots else r.slots) ∧ m.dispatches = r.disp ∧ m.drops = r.drops ∧
        (l.nextTok + 1 = lbT l.block → m.phase = .product) ∧ (l.nextTok + 1 ≠ lbT l.block → m.phase = l.phase)) ∧
    (let d := c.copySnaps s.tc s.dev.time
     (d.snaps.length = c.snaps.length ∧ ∀ r, c.snaps = [r] → r.from_ ≤ s.tc → r.image = none →
       d.snaps = [{ r with image := some (snapImage c s.dev.time) }] ∧ d.counters = []) ∧
     (c.snapWrite = none → c.snapOver = none → ∃ t, exec .snapshotTake s = .next t ∧ Kept s t ∧ (t.chain k).snaps = d.snaps ∧ (t.chain k).counters = d.counters) ∧
     (∀ r, c.snapOver = none → c.snapWrite = some r →
       let at_ := 64 * r.written
       let ps := cutParts r.parts at_ (min 64 (4112 - at_))
       ∃ t, exec .snapshotTake s = .next t ∧ Kept s t ∧ (t.chain k).counters = d.counters ∧
         { r with written := r.written + 1, out := r.out + ps.length } ∈ (t.chain k).snaps ∧
         sends t (unitId 5 (k + 8 * r.owedId)) ps (fld (r.image.getD 0) (8 * at_) (8 * min 64 (4112 - at_)))) ∧
     (∀ r o, c.snapWrite = none → c.snapOver = some r → (s.jet r.tile r.slot).findOwed r.owedId = some o → ∃ t p, exec .snapshotTake s = .next t ∧
       (t.chain k).snaps = (({ c with snaps := c.snaps.erase r } : Chain).copySnaps s.tc s.dev.time).snaps ∧
       (t.jet r.tile r.slot).findOwed r.owedId = some p ∧ p.w = [⟨scatter o.dst 0, []⟩])) ∧
    (∀ l, layered l → s.gatherFailed k = true → ∃ t m, exec .gather s = .next t ∧ Kept s t ∧ (t.chain k).layer = some m ∧ m.status = l.gatherStatus ∧ m.phase = .over) ∧
    (∀ l ix g v hd, s.gatherFailed k = false → s.gatherNext k = some (l, ix, g, v, hd) → ∃ t m, exec .gather s = .next t ∧ Kept s t ∧ (t.chain k).layer = some m ∧
      ((m.groups[ix]?).map (·.gather)) = some 1 ∧ posted t u hd 64 fun p => p = gatherImage (lbCap l.block) (lbChan l.block) (l.gatherChan k ix g) (s.chainHandle k)) ∧
    (∀ l ix g p ev, layered l → s.focus.b ≠ 1 → l.toInstall = none → l.toPlace = some (ix, g) → s.placeOf k l g = .slot p ev → ∃ t m, exec .groupPlace s = .next t ∧
      Kept s t ∧ (t.chain k).layer = some m ∧ ((m.groups[ix]?).map (·.slot)) = some (some p) ∧
      Tbl.get none (t.die (k / 2)).expSlots p = some (lbLayer l.block, g.e, g.i)) ∧
    (∀ l ix g, layered l → s.focus.b ≠ 1 → l.toInstall = none → l.toPlace = some (ix, g) → s.placeOf k l g = .ask → ∃ t, exec .groupPlace s = .next t ∧ Kept s t ∧
      (t.chain k).waitEvict = true ∧ (t.chain k).layer = some l) ∧
    (∀ l ix g w s1, layered l → s.focus.b ≠ 1 → l.toInstall = some (ix, g) → (s.asks u ((lbEtab l.block + 128 * g.e) % 2 ^ 64) 128).engineRead u ((lbEtab l.block + 128 * g.e) % 2 ^ 64) 128 = .ok (w, s1) →
      ∃ t m, exec .groupPlace s = .next t ∧ Kept s1 t ∧ (t.chain k).layer = some m ∧
        (entriesOk l.block l.xent w l.n = true → ∃ at_, (m.groups[ix]?).map (fun y => (y.went, y.installAt)) = some (w, some at_) ∧ (g.fresh = false → at_ = s.tc) ∧
          (g.fresh = true → s.tc + 64 ≤ at_)) ∧
        (entriesOk l.block l.xent w l.n = false → m.status = (if l.status = 0 then 1 else l.status))) ∧
    (∀ l ix g v b hd, layered l → s.focus.b = 1 → (s.enterAll k).toSend k = some (ix, g, v, b, hd) → ∃ t m, exec .groupPlace s = .next t ∧ Kept s t ∧ v ∈ (t.chain k).waiting ∧
      posted t u hd 64 (fun p => p = l.command b (s.chainHandle k)) ∧ (t.chain k).layer = some m ∧ ((m.groups[ix]?).map (·.sent)) = (l.groups[ix]?).map (fun y => y.sent ++ [(v, b)])) ∧
    (∀ l ix g v, layered l → s.focus.b = 1 → (ix, v) ∈ s.toEnter k → (∀ e ∈ s.toEnter k, e.2 = v → e.1 = ix) → l.groups[ix]? = some g → ∃ t, exec .groupPlace s = .next t ∧ Kept s t ∧
      ∀ i e, (l.entries g)[i]? = some e → Tbl.get 0 (t.tile v).mx.tids (lbTbase l.block + i) = BitVec.ofNat 1024 e) ∧
    (∀ l, layered l → s.focus.b = 0 → ∃ t m, exec .combineSlotFill s = .next t ∧ Kept s t ∧ (t.chain k).layer = some m ∧
      (s.focus.d = 0 → m.status = l.status) ∧ (l.status = 0 → (∃ g ∈ l.groups, ∃ b ∈ g.sent, b.1 = s.focus.c) →
        (s.focus.d = 1 ∨ s.focus.d = 3 → m.status = 2) ∧ (s.focus.d = 2 → m.status = 1) ∧ (s.focus.d = 4 → m.status = 3) ∧
        (s.focus.d = 5 → s.focus.c ∈ m.fenced ∧ (m.status = 0 ∨ m.status = 4) ∧
          (∀ (i : Nat) (g g' : Group) (y b : Nat), l.groups[i]? = some g → m.groups[i]? = some g' → g'.again = g.again ++ [(y, b)] → y ∉ m.fenced ∧ y ∉ g'.installed)))) ∧
    (∀ l tok off r v s1 ps, layered l → s.focus.b ≠ 0 → l.rowQ = (tok, off) :: r →
      let va := (lbObuf l.block + 4 * l.n * tok + off) % 2 ^ 64
      let m := min (64 - va % 64) (4 * l.n - off)
      (asked l tok off m).combineRun k l tok (off / 4) ((off + m - 1) / 4 - off / 4 + 1) = .ok (v, s1) → s1.partsOf u .write .page true va m = .ok ps →
      ∃ t y, exec .combineSlotFill s = .next t ∧ Kept s1 t ∧ (t.chain k).layer = some y ∧ y.out = l.out + ps.length ∧ sends t (unitId 4 k) ps (v / 2 ^ (8 * (off % 4))) ∧
        (4 * l.n ≤ off + m → y.rowQ = r ∧ y.landed = l.landed + 1) ∧ (off + m < 4 * l.n → y.rowQ = (tok, off + m) :: r ∧ y.landed = l.landed)) ∧
    (∀ l tok off r e, layered l → s.focus.b ≠ 0 → l.rowQ = (tok, off) :: r →
      let va := (lbObuf l.block + 4 * l.n * tok + off) % 2 ^ 64
      let m := min (64 - va % 64) (4 * l.n - off)
      (asked l tok off m).combineRun k l tok (off / 4) ((off + m - 1) / 4 - off / 4 + 1) = .error e →
      ∃ t y, exec .combineSlotFill s = .next t ∧ Kept s t ∧ (t.chain k).layer = some y ∧ y.status = (if l.status = 0 then 1 else l.status) ∧ y.phase = .over) ∧
    (∀ l, layered l → ∃ t, exec .layerDone s = .next t ∧ Kept s t ∧ (t.chain k).layer = none ∧ (lbDone l.block ≠ 0 → posted t u (lbDone l.block) 16 fun p =>
      fld p 0 16 = lbLayer l.block ∧ fld p 16 16 = l.status % 2 ^ 16 ∧ (l.status < 2 ^ 16 → fld p 32 32 = l.landed % 2 ^ 32) ∧
      (l.status < 2 ^ 16 → fld p 64 32 = l.dispatches % 2 ^ 32 ∧ fld p 96 32 = l.drops % 2 ^ 32)))

/-! ### Events: units, the host, the mailbox and power -/

/-- R189, R224, R234, R254, R359 to R361: an error poisons its word and starts its unit's test, whose outcome fences the unit or clears its fence; an invalidation is over when no access
made through an old entry is; a way leaves scratch with its bytes discarded; a tile gates and wakes. R298, R362 to R373: the agent takes a message into the journal and sends it, or
refuses it; memory and the registers are read and written through the windows; the oldest record is written to the ring and `jhead` goes on; a page fault is answered with the
status of R368; device time steps or slews; every mailbox command answers 1 where its bytes are not as it asks, and else does what it says, a quote only after the leaf counter is committed; at power-on,
where the firmware's signature verifies, every tile waits in reset, and at 105 °C matrix steps are withheld. Where the spec leaves a point open, a clause follows the model's choice
(log entries 1, that HBM has no bytes at power-on, 5, 7, 8, 9, and 22).
Completes: eccError, selftestDone, tlbinvComplete, wayRemoval, tileGate, tileWake, stealWakeExpiry, messageWindowWrite, memoryWindowAccess, refusedHostAccess, journalRegionRead, journalWrite,
jtailWrite, timeadjWrite, hostRegisterWrite, pageFaultForward, pageFaultReply, overflowEntryFree, ptpLockStep, ptpTimeAdjustment, thresholdTuning, mboxRelease, mboxNetctl, mboxCounter,
mboxOverflowCounts, mboxFreeOverflow, mboxSelftest, mboxEvictSlot, mboxQuote, mboxFramePool, mboxGrantRange, powerOn, powerLoss, thermalTrip, thermalThrottle, temperatureFall. -/
def Obligations.HostAndUnitEvents : Prop :=
  ∀ s : State,
    let f := s.focus
    let n := f.a
    let x := s.tile n
    let d := s.dev
    let jets (t : State) : Prop := ∀ m i, t.jet m i = s.jet m i
    let pools (t : State) : Prop := ∀ m, (t.tile m).pool = (s.tile m).pool
    let rec_ (kind outcome source : Nat) (lseq : BitVec 32) (digest : Nat) : JRec :=
      ⟨BitVec.ofNat 64 d.time, BitVec.ofNat 64 digest, lseq, BitVec.ofNat 16 source, BitVec.ofNat 4 kind, BitVec.ofNat 4 outcome⟩
    let open_ : Prop := d.released = true ∧ d.duty.getLsbD 5 = false
    let ends (t : State) (tile slot ix v : Nat) : Prop := ∀ o, (s.jet tile slot).findOwed ix = some o →
      ∃ p, (t.jet tile slot).findOwed ix = some p ∧ p.w = [⟨scatter o.dst v, []⟩]
    let refuses (i : Instr) (bar off : Nat) : Prop := open_ → ∃ t, exec i s = .next t ∧ Kept s t ∧ t.dev.jwait = d.jwait ++ [rec_ 2 2 0xffff 0 (bar * 2 ^ 40 + off)] ∧
      t.dev.agentQ = d.agentQ ∧ t.dev.hostOut = d.hostOut
    let gives (t : State) (nb v : Nat) : Prop := t.dev.hostOut = d.hostOut ++ [(nb, v % 2 ^ (8 * nb))]
    let e := (Tbl.get 0 d.hbtab (n / 4096)).toNat
    let hd := BitVec.ofNat 32 (fld e 0 32)
    let queued := hDev hd = d.device.toNat ∧ s.live (hTile hd) hd = true ∧ ((s.tile (hTile hd)).queueOf (hIndex hd)).isSome = true
    let size := 16 * 2 ^ fld e 48 2
    let win : Prop := 0 < f.b ∧ n % 64 + f.b ≤ 64 ∧ n + f.b ≤ 2 ^ 36
    let pa := d.winbase.toNat + n
    let across (flits : Nat) (b : Pkt) (wait : Nat) : Packet := ⟨paDev pa, homeOf pa, .l2, d.device.toNat, 0, flits, b, false, s.nc + wait, .tile⟩
    let own : Prop := (s.stop (homeOf pa)).dirOf (pa / 128) = none
    let set (i : Instr) (g : Dev → Dev) : Prop := exec i s = .next { s with dev := g d }
    let m := s.mb
    let reply (i : Instr) (st res : Nat) : Prop := ∃ t, exec i s = .next t ∧ Kept s t ∧ t.dev.mbox = BitVec.ofNat 512 (st + res * 2 ^ 64) ∧ t.dev.mboxBusy = false
    let clean (named : List (Nat × Nat)) : Prop := mbZero m named = true
    let b (i : Nat) : Nat := mbByte m i
    let w (i k : Nat) : Nat := mbField m i k
    let start (q : Option Nat) (r : SelfTest) (t : State) : Prop := t.dev.selftests = d.selftests ++ [r] ∧ (q = none → r.byError = true) ∧
      ∃ due, s.nc < due ∧ due ≤ s.nc + 2 * 4096 ∧ (due, ⟨r.tile, r.id, 0, 0, 0⟩, Instr.selftestDone) ∈ t.agenda
    let va (p : SendMsg) : Nat := fld p.payload 448 64
    let serves (p : SendMsg) (st : Nat) (mem : Memory) : Prop := ∃ t, exec .pageFaultForward s = .next t ∧ t.mem = mem ∧ t.dev.pfIn = d.pfIn.tail ∧
      t.dev.pfOut = d.pfOut ++ [⟨BitVec.ofNat 32 (fld p.payload 160 32), BitVec.ofNat 64 (va p), st, p.inst⟩]
    let faulted (p : SendMsg) : Prop := (∃ r, d.pfIn = p :: r) ∧ d.duty.getLsbD 0 = false
    -- units
    (f.b = 7 → f.d = 1 → ∃ t, exec .eccError s = .next t ∧ Kept s t ∧ f.data ∈ t.dev.poison ∧ ∀ a ∈ t.dev.poison, a = f.data ∨ a ∈ d.poison) ∧
    (f.b = 2 → f.d = 1 → x.poolways.getLsbD (f.data / 8192) = false → ∃ t, exec .eccError s = .next t ∧ Kept s t ∧ f.data ∈ (t.tile n).poison) ∧
    (∀ l, f.b = 2 → f.d = 1 → x.poolways.getLsbD 0 = true → f.data < 8192 → x.stash = [l] → l.va % 512 = f.data / 16 →
      ∃ t m, exec .eccError s = .next t ∧ Kept s t ∧ (t.tile n).stash = [m] ∧ m.va = l.va ∧ m.data = l.data ∧ f.data % 16 ∈ m.bad) ∧
    (f.b = 0 → f.d = 1 → ∃ t, exec .eccError s = .next t ∧ t.mem = s.mem ∧ pools t ∧ ∀ k, (s.jet n k).status ≠ .free → 8 * (s.jet n k).granBase ≤ f.data →
      f.data < 8 * ((s.jet n k).granBase + (s.jet n k).grans) → f.data - 8 * (s.jet n k).granBase ∈ (t.jet n k).poison) ∧
    (f.b = 1 → f.d = 1 → ∃ t, exec .eccError s = .next t ∧ Kept s t ∧ (t.tile n).l1.map (·.line) = x.l1.map (·.line) ∧
      ∀ l ∈ (t.tile n).l1, l.line = f.data / 16 → f.data % 16 ∈ l.bad) ∧
    (f.b < 7 → ¬ (f.b = 0 ∧ f.d = 1) → d.duty.getLsbD 3 = false → ∃ t r, exec .eccError s = .next t ∧ Kept s t ∧ r.tile = n ∧ r.kind = f.b ∧ r.units = [f.c] ∧ start none r t) ∧
    (f.b < 7 → ¬ (f.b = 0 ∧ f.d = 1) → d.duty.getLsbD 3 = true → d.released = true → d.jwait.length < 256 → ∃ t, exec .eccError s = .next t ∧ Kept s t ∧
      t.dev.jwait = d.jwait ++ [rec_ 5 0 n (BitVec.ofNat 32 (256 * f.b + f.c)) 0]) ∧
    (f.b = 10 → f.d ≠ 1 → f.c < 5 → d.duty.getLsbD 3 = false → ∃ t r, exec .eccError s = .next t ∧ Kept s t ∧ r.tile = n ∧ r.kind = 5 ∧ r.units.map portDir = [f.c] ∧ start none r t) ∧
    (∀ r u id, d.selftests.find? (fun r => r.id == f.b) = some r → r.units = [u] → s.unitBusy r.tile r.kind u = false → r.kind ∈ [0, 1, 2, 6] → r.owedId = some id →
      ∃ t bad, exec .selftestDone s = .next t ∧ t.mem = s.mem ∧ pools t ∧ ((r.kind, u) ∈ (t.tile r.tile).fenced ↔ bad = true) ∧
        ends t r.tile r.slot id (if bad = true then 1 else r.result) ∧ ∀ q ∈ t.dev.selftests, q.id ≠ r.id) ∧
    (∀ r, d.selftests.find? (fun r => r.id == f.b) = some r → r.units ≠ [] → (∀ u ∈ r.units, s.unitBusy r.tile r.kind u = true) → ∃ t, exec .selftestDone s = .next t ∧
      Kept s t ∧ (s.nc + 2, f, Instr.selftestDone) ∈ t.agenda ∧ t.dev.selftests = d.selftests) ∧
    (∀ r, d.tlbinvs.find? (fun r => r.tile == n && r.owedId == f.c) = some r → s.invalDone r = true → ∃ t, exec .tlbinvComplete s = .next t ∧ t.mem = s.mem ∧ pools t ∧
      ends t n f.b f.c 0 ∧ r ∉ t.dev.tlbinvs) ∧
    (∀ r, d.tlbinvs.find? (fun r => r.tile == n && r.owedId == f.c) = some r → s.invalDone r = false → ∃ t, exec .tlbinvComplete s = .next t ∧ Kept s t ∧
      (s.nc + 2, f, Instr.tlbinvComplete) ∈ t.agenda) ∧
    (∀ p, x.wayPend = some p → ∃ t, exec .wayRemoval s = .next t ∧ t.mem = s.mem ∧ (∀ m, m ≠ n → t.tile m = s.tile m) ∧
      (t.tile n).poolways = x.poolways ||| p.ripe ∧ (∀ a, (t.tile n).pool.read a = if a < 2 ^ 20 ∧ p.ripe.getLsbD (a / 65536) = true then 0 else x.pool.read a) ∧
      (x.poolways ||| p.ripe = p.mask → (t.tile n).wayPend = none ∧ ends t n p.slot p.owedId 0) ∧
      (x.poolways ||| p.ripe ≠ p.mask → (t.tile n).wayPend = some { p with ripe := 0 } ∧ jets t)) ∧
    (∃ t, exec .tileGate s = .next t ∧ Kept s t ∧ (t.tile n).gated = true ∧ (t.tile n).gatedAt = d.time) ∧
    (∃ t, exec .tileWake s = .next t ∧ Kept s t ∧ (t.tile n).gated = false) ∧ (∃ t, exec .stealWakeExpiry s = .next t ∧ Kept s t ∧ (t.tile n).gated = false) ∧
    -- windows and registers
    (¬ (f.b = 64 ∧ n % 64 = 0 ∧ n < 2 ^ 18) → refuses .messageWindowWrite 0 n) ∧
    (f.b = 64 → n % 64 = 0 → n < 2 ^ 18 → fld e 50 1 = 1 → fld e 48 2 ≠ 3 → open_ → ∃ t q, exec .messageWindowWrite s = .next t ∧ Kept s t ∧
      t.dev.agentQ = d.agentQ ++ [q] ∧ q.handle = hd ∧ q.src = .host ∧ q.size = size ∧ q.payload = f.data % 2 ^ 512 % 2 ^ (8 * size) ∧ q.rel = some .system ∧
      (queued → t.dev.jwait = d.jwait) ∧ (¬ queued → t.dev.jwait = d.jwait ++ [rec_ 0 0 (n / 4096) 0 (shake256of64 (f.data % 2 ^ 512))])) ∧
    (¬ win → f.c = 1 → refuses .memoryWindowAccess 2 n) ∧
    (¬ win → f.c ≠ 1 → ∃ t, exec .memoryWindowAccess s = .next t ∧ Kept s t ∧ gives t f.b (2 ^ (8 * f.b) - 1)) ∧
    (win → n < regBase → s.windowPa pa = false → paOk pa = true → paIo pa = false →
      (f.c = 1 → ∃ t, exec .memoryWindowAccess s = .next t ∧ Kept s t ∧ across (payFlits f.b)
        (.write 0 [unitId 0 0] (pa / 128) (fullEn f.b * 2 ^ (2 * (pa % 128))) (f.data % 2 ^ (8 * f.b) * 2 ^ (8 * (pa % 128)))) 28 ∈ (t.stop 0).inject) ∧
      (f.c ≠ 1 → ∃ t v, exec .memoryWindowAccess s = .next t ∧ Kept s t ∧ gives t f.b v ∧ across 1 (.read 0 (unitId 0 0) 0 pa f.b) 0 ∈ (t.stop 0).inject)) ∧
    (win → n < regBase → s.windowPa pa = true → own → f.c = 1 → ∃ t, exec .memoryWindowAccess s = .next t ∧ jets t ∧ pools t ∧
      t.mem = s.mem.writeEn pa f.b (fullEn f.b) (f.data % 2 ^ (8 * f.b))) ∧
    (win → n < regBase → s.windowPa pa = true → own → f.c ≠ 1 → ∃ t, exec .memoryWindowAccess s = .next t ∧ Kept s t ∧ gives t f.b (s.mem.readN pa f.b)) ∧
    (win → regBase ≤ n → f.c ≠ 1 → ∃ t, exec .memoryWindowAccess s = .next t ∧ Kept s t ∧ gives t f.b (d.regBytes (n - regBase) f.b)) ∧
    (f.c = 1 → n ≠ 4 → refuses .refusedHostAccess n f.b) ∧
    (f.c = 1 → n = 4 → exec .refusedHostAccess s = .next s) ∧
    (f.c ≠ 1 → ∃ t, exec .refusedHostAccess s = .next t ∧ Kept s t ∧ gives t f.d (2 ^ (8 * f.d) - 1)) ∧
    (∃ t, exec .journalRegionRead s = .next t ∧ Kept s t ∧ gives t f.b (s.journalBytes n f.b)) ∧
    set .jtailWrite (fun d => { d with jtail := BitVec.ofNat 64 f.data }) ∧
    (d.duty.getLsbD 4 = false → set .timeadjWrite fun d => { d with timeadj := BitVec.ofNat 64 f.data }) ∧
    (d.duty.getLsbD 4 = true → set .timeadjWrite fun d => ({ d with timeadj := BitVec.ofNat 64 f.data } : Dev).adjust (sext (f.data % 2 ^ 64) 40) (fld f.data 48 8)) ∧
    (n = 0x38 → f.b = 8 → set .hostRegisterWrite fun d => { d with duty := BitVec.ofNat 64 f.data }) ∧
    (n = 0x08 → f.b = 8 → set .hostRegisterWrite fun d => { d with winbase := BitVec.ofNat 64 (f.data % 2 ^ 64 / 2 ^ 30 * 2 ^ 30) }) ∧
    (∀ j, j < 64 → n = 0x100 + 8 * j → f.b = 8 → set .hostRegisterWrite fun d => { d with hbtab := Tbl.set d.hbtab j (BitVec.ofNat 64 (f.data % 2 ^ 51)) }) ∧
    (n ∈ [0x00, 0x10, 0x18] → f.b = 8 → d.released = false → ∃ t, exec .hostRegisterWrite s = .next t ∧ Kept s t ∧
      (n = 0x00 → t.dev.ptroot = BitVec.ofNat 64 (f.data % 2 ^ 64 / 4096 * 4096)) ∧ (n = 0x10 → t.dev.jbase = BitVec.ofNat 64 (f.data % 2 ^ 64 / 4096 * 4096)) ∧
      (n = 0x18 → t.dev.jlog = BitVec.ofNat 64 (min 25 (max 10 (f.data % 2 ^ 64))))) ∧
    (n ∈ [0x00, 0x10, 0x18] → f.b = 8 → refuses .hostRegisterWrite 2 (regBase + n)) ∧
    -- the journal, page faults and device time
    (∀ r l, d.jwait = r :: l →
      let at_ := d.jbase.toNat + 32 * (d.jhead.toNat % 2 ^ d.jlog.toNat)
      ∃ t, exec .journalWrite s = .next t ∧ jets t ∧ pools t ∧ t.dev.jwait = l ∧ t.dev.jhead = d.jhead + 1 ∧ t.mem.readN at_ 32 = r.image d.jhead.toNat ∧
        (d.jfull = false → t.dev.jtail = d.jtail ∧ t.dev.jlost = d.jlost) ∧ (d.jfull = true → t.dev.jtail = d.jtail + 1 ∧ t.dev.jlost = d.lose) ∧
        ((s.stop (homeOf at_)).dirOf (at_ / 128) = none → ∀ a, a < at_ ∨ at_ + 32 ≤ a → t.mem.read a = s.mem.read a)) ∧
    (∀ p r, d.pfIn = p :: r → d.duty.getLsbD 0 = true → d.released = true → d.jwait.length < 256 → ∃ t, exec .pageFaultForward s = .next t ∧ Kept s t ∧ t.dev.pfIn = r ∧
      t.dev.jwait = d.jwait ++ [rec_ 7 0 (fld p.payload 118 10) (BitVec.ofNat 32 (fld p.payload 160 32)) (va p)] ∧ t.dev.pfOut = d.pfOut) ∧
    (∀ p, faulted p → fld p.payload 80 8 ≠ 5 → serves p 3 s.mem) ∧
    (∀ p, faulted p → fld p.payload 80 8 = 5 → d.rangeOf (va p) = none → serves p 2 s.mem) ∧
    (∀ p kind perm, faulted p → fld p.payload 80 8 = 5 → d.rangeOf (va p) = some (kind, perm) →
      let got := ({ s with dev := { d with pfIn := d.pfIn.tail } } : State).mapFrom (va p) (kind * 2 ^ 56 + perm * 4 + 3) ptLevels d.ptroot.toNat
      (got = none → serves p 1 s.mem) ∧ ∀ u, got = some u → serves p 0 u.mem) ∧
    (∀ p r, d.pfOut = p :: r → ∃ t q, exec .pageFaultReply s = .next t ∧ Kept s t ∧ t.dev.pfOut = r ∧ t.dev.agentQ = d.agentQ ++ [q] ∧ q.handle = p.handle ∧ q.size = 16 ∧
      q.payload = p.addr.toNat + p.status * 2 ^ 64) ∧
    (∃ t, exec .overflowEntryFree s = .next t ∧ Kept s t ∧ (d.duty.getLsbD 1 = false → Tbl.get none (t.die n).overflowPool f.b = none) ∧ (d.duty.getLsbD 1 = true → t = s)) ∧
    (d.duty.getLsbD 4 = false → d.ptpLocked = false → d.time + 1000000 < f.data → f.data < 2 ^ 64 → ∃ t, exec .ptpLockStep s = .next t ∧ Kept s t ∧ t.dev.time = f.data ∧
      t.dev.ptpLocked = true) ∧
    (d.duty.getLsbD 4 = false → d.ptpLocked = false → f.data ≤ d.time + 1000000 → ∃ t, exec .ptpLockStep s = .next t ∧ Kept s t ∧ t.dev.time = d.time ∧ t.dev.slew = 100 ∧
      t.dev.slewLeft = (f.data : Int) - d.time) ∧
    (d.duty.getLsbD 4 = true → exec .ptpLockStep s = .next s ∧ exec .ptpTimeAdjustment s = .next s) ∧
    (d.duty.getLsbD 4 = false → sext f.data 64 ≤ 1000000 → set .ptpTimeAdjustment fun d => { d with slew := 100, slewLeft := sext f.data 64 }) ∧
    (fld (s.die n).netctl.toNat 6 1 = 1 ∨ d.duty.getLsbD 6 = true → exec .thresholdTuning s = .next s) ∧
    (fld (s.die n).netctl.toNat 6 1 = 0 → d.duty.getLsbD 6 = false → ∃ t, exec .thresholdTuning s = .next t ∧ Kept s t ∧ 256 ≤ fld (t.die n).netctl.toNat 32 16 ∧
      fld (t.die n).netctl.toNat 0 32 = fld (s.die n).netctl.toNat 0 32) ∧
    -- the mailbox
    (∀ e ∈ [(Instr.mboxRelease, []), (.mboxNetctl, [(1, 2), (8, 8)]), (.mboxCounter, if b 2 = 1 then [(1, 2), (4, 1), (6, 1)] else if b 2 = 0 then [(1, 2), (4, 3)] else [(1, 2), (4, 2)]),
      (.mboxOverflowCounts, [(1, 1), (4, 2)]), (.mboxFreeOverflow, [(1, 1), (4, 4)]), (.mboxSelftest, [(4, 4)]), (.mboxEvictSlot, [(1, 3)]), (.mboxQuote, [(8, 40)]),
      (.mboxFramePool, [(8, 16)]), (.mboxGrantRange, [(8, 19)])], mbZero m e.2 = false → (e.1 = .mboxQuote → f.b ≠ 1) → reply e.1 1 0) ∧
    (4 ≤ b 1 ∨ 2 ≤ b 2 → reply .mboxNetctl 1 0) ∧
    (2 ≤ b 1 ∨ 4 ≤ b 2 ∨ (b 2 = 1 ∧ (4 ≤ b 4 ∨ 5 ≤ b 6)) ∨ (b 2 ≠ 1 ∧ 1024 ≤ w 4 2) ∨ (b 2 = 0 ∧ 13 ≤ b 6) → reply .mboxCounter 1 0) ∧
    (4 ≤ b 1 ∨ dieOf (w 4 2) ≠ b 1 → reply .mboxOverflowCounts 1 0) ∧ (4 ≤ b 1 ∨ 4096 < w 4 2 + w 6 2 → reply .mboxFreeOverflow 1 0) ∧
    (1024 ≤ w 4 2 ∨ 7 ≤ b 6 → reply .mboxSelftest 1 0) ∧ (4 ≤ b 1 ∨ 2 ≤ b 2 ∨ 16 ≤ b 3 → reply .mboxEvictSlot 1 0) ∧
    (f.b ≠ 1 → s.windowPa (w 40 8) = false ∨ s.windowPa (w 40 8 + 4095) = false → reply .mboxQuote 1 0) ∧
    (w 8 8 % 65536 ≠ 0 ∨ w 16 8 % 65536 ≠ 0 ∨ s.hbmRange (w 8 8) (w 16 8) = false → reply .mboxFramePool 1 0) ∧
    (w 8 8 % 65536 ≠ 0 ∨ w 16 8 % 65536 ≠ 0 ∨ 4 ≤ b 24 ∨ 8 ≤ b 25 ∨ 16 ≤ b 26 → reply .mboxGrantRange 1 0) ∧
    (clean [] → d.released = true → reply .mboxRelease 4 0) ∧
    (clean [] → d.released = false → ∃ t, exec .mboxRelease s = .next t ∧ t.mem = s.mem ∧ t.dev.released = true ∧ t.dev.mbox = 0 ∧
      ∀ m, m < Config.tiles → t.tile m = { Tile.reset with fenced := (s.tile m).fenced, mxFenced := (s.tile m).mxFenced, mxDead := (s.tile m).mxDead }) ∧
    (clean [(1, 2), (8, 8)] → b 1 < 4 → b 2 = 0 → reply .mboxNetctl 0 (s.die (b 1)).netctl.toNat) ∧
    (clean [(1, 2), (8, 8)] → b 1 < 4 → b 2 = 1 → ∃ t, exec .mboxNetctl s = .next t ∧ Kept s t ∧ fld t.dev.mbox.toNat 64 64 = (t.die (b 1)).netctl.toNat ∧
      256 ≤ fld (t.die (b 1)).netctl.toNat 32 16 ∧ (256 ≤ fld (w 8 8) 32 16 → fld (t.die (b 1)).netctl.toNat 32 16 = fld (w 8 8) 32 16)) ∧
    (clean [(1, 2), (4, 3)] → b 1 < 2 → b 2 = 0 → w 4 2 < 1024 → b 6 < 13 → Tbl.get 0 (s.stop (w 4 2)).counters (b 6) < 2 ^ 64 →
      reply .mboxCounter 0 (Tbl.get 0 (s.stop (w 4 2)).counters (b 6)) ∧
      (b 1 = 1 → ∃ t, exec .mboxCounter s = .next t ∧ Tbl.get 0 (t.stop (w 4 2)).counters (b 6) = 0)) ∧
    (clean [(1, 1), (4, 2)] → b 1 < 4 → dieOf (w 4 2) = b 1 → ∃ t, exec .mboxOverflowCounts s = .next t ∧ Kept s t ∧ fld t.dev.mbox.toNat 0 8 = 0 ∧
      fld t.dev.mbox.toNat 64 64 = (s.die (b 1)).overflowed % 2 ^ 64 ∧ fld t.dev.mbox.toNat 128 64 = (s.die (b 1)).lost % 2 ^ 64) ∧
    (clean [(1, 1), (4, 4)] → b 1 < 4 → w 4 2 + w 6 2 ≤ 4096 → (d.duty.getLsbD 1 = false → reply .mboxFreeOverflow 2 0) ∧
      (d.duty.getLsbD 1 = true → reply .mboxFreeOverflow 0 0 ∧ ∃ t, exec .mboxFreeOverflow s = .next t ∧
        ∀ i, Tbl.get none (t.die (b 1)).overflowPool i = if w 4 2 ≤ i ∧ i < w 4 2 + w 6 2 then none else Tbl.get none (s.die (b 1)).overflowPool i)) ∧
    (clean [(4, 4)] → w 4 2 < 1024 → b 6 < 7 → (b 7 ≠ 255 → unitCount (b 6) ≤ b 7 → ∃ t, exec .mboxSelftest s = .next t ∧ Kept s t ∧ fld t.dev.mbox.toNat 0 8 = 0 ∧
        fld t.dev.mbox.toNat 64 8 = 2) ∧
      (b 7 < unitCount (b 6) → ∃ t r, exec .mboxSelftest s = .next t ∧ Kept s t ∧ r.tile = w 4 2 ∧ r.kind = b 6 ∧ r.units = [b 7] ∧ r.mbox = true ∧ start (some 0) r t)) ∧
    (clean [(1, 3)] → b 1 < 4 → b 2 < 2 → b 3 < 16 → (d.duty.getLsbD 2 = false → reply .mboxEvictSlot 2 0) ∧
      (d.duty.getLsbD 2 = true → (s.chain (2 * b 1 + b 2)).waitEvict = true → reply .mboxEvictSlot 0 0 ∧
        ∃ t, exec .mboxEvictSlot s = .next t ∧ (t.chain (2 * b 1 + b 2)).evict = some (b 3))) ∧
    (clean [(8, 40)] → s.windowPa (w 40 8) = true → s.windowPa (w 40 8 + 4095) = true → w 40 8 < 2 ^ 48 →
      f.b ≠ 1 → (2 ^ 20 ≤ d.leaf → reply .mboxQuote 3 0) ∧ (d.leaf < 2 ^ 20 → ∃ t due, exec .mboxQuote s = .next t ∧ Kept s t ∧ t.dev.leaf = d.leaf + 1 ∧
        t.dev.mbox = d.mbox ∧ s.nc < due ∧ (due, ⟨0, 1, w 40 8, d.leaf, w 8 32⟩, Instr.mboxQuote) ∈ t.agenda)) ∧
    (f.b = 1 → let q := Config.freeQuote f.d f.data d.firmware d.ptroot.toNat d.duty.toNat
      ∃ t, exec .mboxQuote s = .next t ∧ jets t ∧ pools t ∧ t.dev.leaf = d.leaf ∧ fld t.dev.mbox.toNat 0 8 = 0 ∧ fld t.dev.mbox.toNat 64 64 = q.1 % 4097 ∧
        t.mem.readN f.c (q.1 % 4097) = q.2 % 2 ^ (8 * (q.1 % 4097)) ∧ t.dev.mboxBusy = false) ∧
    (clean [(8, 16)] → w 8 8 % 65536 = 0 → w 16 8 % 65536 = 0 → s.hbmRange (w 8 8) (w 16 8) = true → reply .mboxFramePool 0 0 ∧
      ∃ t, exec .mboxFramePool s = .next t ∧ t.dev.framePool = (w 8 8, w 16 8) ∧ t.dev.frameUsed = 0) ∧
    (clean [(8, 19)] → w 8 8 % 65536 = 0 → w 16 8 % 65536 = 0 → b 24 < 4 → b 25 < 8 → b 26 < 16 → reply .mboxGrantRange 0 0 ∧
      ∃ t, exec .mboxGrantRange s = .next t ∧ Tbl.get none t.dev.ranges (b 26) = if w 16 8 = 0 then none else some (w 8 8, w 16 8, b 24, b 25)) ∧
    -- power and heat
    (let up (t : State) : Prop := t.dev.powered = true ∧ t.dev.released = false ∧ t.dev.time = 0 ∧ t.dev.jhead = 0 ∧ t.dev.leaf = d.leaf ∧
       t.agenda = s.agenda.filter (fun e => fromOutside e.2.2) ∧ t.nc = s.nc ∧ ∀ m, m < Config.tiles → (t.tile m).inReset = true ∧ (t.tile m).pool = [] ∧ ∀ i, (t.jet m i).status = .free
     (d.powered = false → f.b = 0 → ∃ t, exec .powerOn s = .next t ∧ up t ∧ t.mem = [] ∧ t.dev.device = BitVec.ofNat 4 n ∧ t.dev.firmware = f.data ∧
       t.dev.jwait = []) ∧
     (d.powered = true ∨ f.b ≠ 0 → exec .powerOn s = .next s) ∧
     (∃ t, exec .powerLoss s = .next t ∧ t.dev.powered = false ∧ t.dev.leaf = d.leaf ∧ t.dev.firmware = d.firmware ∧ t.mem = [] ∧
       t.agenda = s.agenda.filter fun e => fromOutside e.2.2) ∧
     (∃ t, exec .thermalTrip s = .next t ∧ up t ∧ t.mem = s.mem ∧ t.dev.device = d.device ∧ t.dev.firmware = d.firmware ∧ t.dev.jwait = d.jwait)) ∧
    set .thermalThrottle (fun d => { d with throttled := true }) ∧ set .temperatureFall (fun d => { d with throttled := false })

/-! ### The machine -/

/-- R25, R28, R42, R91, R94: a step runs the instruction that stands at the program counter of the jet whose turn it is: what is decoded from its bytes is executed, the line it came
from is touched, a leader's instruction goes to its followers, and the turn passes on. Bytes that no instruction has, and a program counter that is not aligned, trap the jet
with its program counter as it is; where the line is not cached the turn passes on. A forwarded instruction is executed for its follower, which takes the leader's path. A state made by `withFetchWord` runs exactly the given instruction. Where the spec leaves a point open, a clause follows the model's choice (log entry 2). -/
def Obligations.StepRunsDecoded : Prop :=
  ∀ (s : State) (n k : Nat),
    let j := s.jet n k
    let x := s.tile n
    let at_ : State := { s with curTile := n, curSlot := k }
    let turn : Prop := s.turn = .jet n k ∧ j.status = .running
    let entered : Prop := turn ∧ j.start = none ∧ j.pc.toNat % 4 = 0 ∧ j.pc.toNat % 32 ≠ 28
    let size (l : ILine) : Nat := lenBytes (fld (l.bytes j.pc 2) 0 2)
    let traps (f : Flt) : Prop := step s = .next { s.trapAt n k f j.pc j.pc with turn := .scan }
    (∀ l i t, entered → x.iline j.pc = some l → j.pc.toNat % 32 + size l ≤ 32 → decode (l.bytes j.pc (size l)) = .ok i → exec i at_ = .next t →
      step s = .next { (s.relay t n k i).modTile n fun x => x.touchLine j.pc with turn := .scan }) ∧
    (∀ t i, (∀ d m, j.casc ≠ .leader d m) → s.relay t n k i = t) ∧
    (∀ l c, entered → x.iline j.pc = some l → j.pc.toNat % 32 + size l ≤ 32 → decode (l.bytes j.pc (size l)) = .error c → traps { cause := 1, info := c, sub := c }) ∧
    (∀ l, entered → x.iline j.pc = some l → 32 < j.pc.toNat % 32 + size l → traps { cause := 2, addr := j.pc.toNat }) ∧
    (turn → j.pc.toNat % 4 ≠ 0 → traps { cause := 2, addr := j.pc.toNat }) ∧
    (∀ i pc out t, s.turn = .forward n k i pc out → j.status = .running → exec i at_ = .next t →
      step s = .next { t.modJet n k fun y => if y.status = .running then { y with cdis := y.cdis || j.outcomeOf i != out, pc := pc } else y with turn := .scan }) ∧
    (entered → x.iline j.pc = none → step s = .next { s with turn := .scan }) ∧
    (∀ nbits w i, nbits = 8 * lenBytes (fld w 0 2) → decodeTableWord nbits w = some i →
      let u := s.withFetchWord nbits w
      step u = u.issued s.curTile s.curSlot i (exec i { u with curTile := s.curTile, curSlot := s.curSlot }))

/-- R23, R31, R36 to R42, and the words that the spec writes out: the decoder reads `mul.s n64.8, n0.8, n8.8 stall 2`, `movi n80.8, 1000`, `exit`, `.view v4` of R79, the `fill` of R81,
`call n32.16`, `fmul` of R38's and R132's examples, `nop yield`, `ld.z n32.8, [n0.16 + 0]`, `amo.agg.add.b4 v1[0], [n0.16 + 0]`, `fence.all.sys`, `cpy 0, t512, n0.16, n32.16`,
`sub n96.4, n0.16, 0x5a7, 0`, `send.b16 n64.8, n0.16`, `fork`, `mx n512.16`, `xgo n16.1, n0.16, 1`, `trap 7`, `csrr n64.16, now` and `nest.rsum` as those instructions; the length code of
another format, an opcode with no row, a slice operand past slice 4095 and an unused field that is not `0xffff` are refused by their sub-codes. A sanity statement. -/
def Obligations.DecodeWords : Prop :=
  let h : Hdr := ⟨false, 0⟩
  let n (s : BitVec 12) (w : BitVec 4) : SliceOp := .sl s w
  let f32 (m : MMode) (k : BitVec 3) : LaneCtl := ⟨0, 0, false, false, 0, .f32, .rne, m, k⟩
  let mem (d : ElemOp) (a : SliceOp) (off : BitVec 32) (size : BitVec 3) (afn : BitVec 4) : MemF := ⟨d, a, .nz, off, size, .tile, .page, .normal, afn, false, .nz⟩
  let is (w : Nat) (i : Instr) : Prop := decode w = .ok i
  is 0x00870007040701c8 (.mulS ⟨false, 2⟩ ⟨n 64 7, n 0 7, n 8 7⟩) ∧
  is 0x000003e80000ffff05072241 (.movi h (n 80 7) 1000) ∧
  is 0xffffffffffff62c0 (.exit h) ∧
  is 0x001fc2000004000000100000ffff2402 (.vwset h 4 (.imm (0x1fc200 + BitVec.ofNat 62 (16 * 2 ^ 26)))) ∧
  is 0xffff000000000001ffff040f020572c2 (.fill h (mem (.slice (n 32 5)) (n 64 15) 1 0 0)) ∧
  is 0xfffffff00000ffff020f61c1 (.call h (n 32 15) 0xfffffff0) ∧
  is 0x000008000107020705073089 (.fmul ⟨false, 2⟩ ⟨.slice (n 80 7), .slice (n 32 7), .slice (n 16 7), f32 .none 0⟩) ∧
  is 0x0000088f100000002000308d (.fmul ⟨false, 3⟩ ⟨.view 2 0, .view 0 0, .view 1 0, f32 .zero 1⟩) ∧
  is 0xffffffffffff6020 (.nop ⟨true, 0⟩) ∧
  is 0xffff000200000000ffff000f02077002 (.ldZ h (mem (.slice (n 32 7)) (n 0 15) 0 2 0)) ∧
  is 0xffff040a00000000ffff000f10008082 (.amoAgg h (mem (.view 1 0) (n 0 15) 0 2 1)) ∧
  is 0x0002ffffffff8100 (.fenceAll h .system) ∧
  is 0x000000000008ffff020f000fffff9042 (.cpy h ⟨n 0 15, n 32 15, .nz, 0, 1⟩) ∧
  is 0x000005a70000000f06039181 (.sub h ⟨n 96 3, n 0 15⟩ 0x5a7 0) ∧
  is 0x000000000000ffffffff000f0407a182 (.send h ⟨n 64 7, n 0 15⟩ 0) ∧
  is 0x000000800040ffff00cb000bffffb002 (.fork h ⟨.nz, n 0 11, n 12 11, .nz⟩ 64 0x80) ∧
  is 0x000000000000ffffffff200fffffc042 (.mx h (.slice (n 512 15))) ∧
  is 0x000000000001ffffffff000f0100d002 (.xgo h ⟨n 16 0, n 0 15⟩ true) ∧
  is 0x0007ffffffffe000 (.trap h .nz 7) ∧
  is 0x0002ffff040fe0c0 (.csrr h (n 64 15) 2) ∧
  is 0x00038800000000000000008004000000000000000000fc1fffff00001000f1c3
    (.nestRsum h ⟨.view 1 0, .pool 0, none, 0xfc1f, 0x20010000000000, 7, .int, .rne, false, false, .none, 0⟩) ∧
  decode 0x00870007040701c9 = .error 2 ∧ decode 0xffffffffffff7fc0 = .error 1 ∧ decode 0x00870007fffe01c8 = .error 5 ∧ decode 0x0000ffffffff62c0 = .error 7

/-- R371, R288, R341, R365, R369: what the machine holds right after reset, as far as the spec gives it: no jet, no ready record, no channel, no run; every byte of every pool 0, device
time and `jhead` 0, `curlayer` 0, every agent duty in hardware mode, the tile registers of chapter 16 at their reset values. The turn is the machine's and memory has its canonical form
(the invariants of `NeverStops` and of the memory laws at reset). Where the spec leaves a point open, a clause follows the model's choice (log entries 1, 3). -/
def Obligations.ResetState : Prop :=
  let s := State.reset
  s.turnOk = true ∧ Memory.wf s.mem ∧ s.dev.time = 0 ∧ s.dev.jhead = 0 ∧ s.dev.duty = 0 ∧ s.dev.jlost = 0 ∧ s.dev.husks = [] ∧ s.dev.released = true ∧
  (∀ n, Memory.wf (s.tile n).pool ∧ (∀ a, (s.tile n).pool.read a = 0) ∧ (∀ k, (s.jet n k).status = .free) ∧ (s.tile n).ready = [] ∧ (s.tile n).deque = [] ∧
    (∀ c, ((s.tile n).chan c).state = .idle) ∧ (s.tile n).mx.run = none ∧ (s.tile n).poolways = 0 ∧ (s.tile n).stint = 1000 ∧ (s.tile n).fpten = 0 ∧
    (s.tile n).stealctl = 0x40081007 ∧ (s.tile n).prioage = 0x0000646464646464 ∧ (s.tile n).issuectl = 0x01000000 ∧ (s.tile n).weir.outbound = []) ∧
  (∀ d, (s.die d).curlayer = 0 ∧ (s.die d).netctl = 0x1000C0400801) ∧ (∀ k, (s.chain k).layer = none ∧ (s.chain k).counters = [])

/-- R23, R31 to R42: the encoder and the decoder agree: what is decoded from the bits of a well-formed instruction of the opcode map is that instruction, with
every operand, field and width it has. -/
def Obligations.RoundTrip : Prop :=
  ∀ i : Instr, i.encoded = true → i.wf = true →
    decode (encode i) = .ok i ∧ encode i < 2 ^ (8 * lenBytes (fld (encode i) 0 2)) ∧ decodeTableWord (8 * lenBytes (fld (encode i) 0 2)) (encode i) = some i

/-- The machine goes on for ever: from a state in which the turn is a running jet's or the machine's, a step answers a next state of the same kind, whatever instruction or event it
runs, and so does every run; reset is such a state. (What an instruction cannot do it traps on, R346; the spec stops a jet, never the machine.) Where the spec leaves a point open, a clause follows the model's choice (log entries 9, 12). -/
def Obligations.NeverStops : Prop :=
  (∀ s : State, s.turnOk = true → ∃ t, step s = .next t ∧ t.turnOk = true) ∧ (∀ s : State, s.turnOk = true → s.Runs) ∧ State.reset.Runs ∧
  (∀ (i : Instr) (s : State), ∃ t, exec i s = .next t) ∧ ∀ (s : State) (nbits w : Nat), (s.withFetchWord nbits w).turnOk = true
end

