-- ==== Sys2Proof/Laws/State.lean ====
section
/-!
SUPPORT. What each update of the state leaves alone, field by field, and reading back what an update wrote.
-/

namespace Sys2Proof.Machine

/-! ### Fields of the state -/

@[simp] theorem State.setTile_nc (s : State) (n : Nat) (x : Tile) : (s.setTile n x).nc = s.nc := rfl
@[simp] theorem State.setTile_turn (s : State) (n : Nat) (x : Tile) : (s.setTile n x).turn = s.turn := rfl
@[simp] theorem State.setTile_curTile (s : State) (n : Nat) (x : Tile) : (s.setTile n x).curTile = s.curTile := rfl
@[simp] theorem State.setTile_curSlot (s : State) (n : Nat) (x : Tile) : (s.setTile n x).curSlot = s.curSlot := rfl
@[simp] theorem State.setTile_focus (s : State) (n : Nat) (x : Tile) : (s.setTile n x).focus = s.focus := rfl
@[simp] theorem State.setTile_agenda (s : State) (n : Nat) (x : Tile) : (s.setTile n x).agenda = s.agenda := rfl
@[simp] theorem State.setTile_served (s : State) (n : Nat) (x : Tile) : (s.setTile n x).served = s.served := rfl
@[simp] theorem State.setTile_picked (s : State) (n : Nat) (x : Tile) : (s.setTile n x).picked = s.picked := rfl
@[simp] theorem State.setTile_fresh (s : State) (n : Nat) (x : Tile) : (s.setTile n x).fresh = s.fresh := rfl
@[simp] theorem State.setTile_nextId (s : State) (n : Nat) (x : Tile) : (s.setTile n x).nextId = s.nextId := rfl
@[simp] theorem State.setTile_stops (s : State) (n : Nat) (x : Tile) : (s.setTile n x).stops = s.stops := rfl
@[simp] theorem State.setTile_dies (s : State) (n : Nat) (x : Tile) : (s.setTile n x).dies = s.dies := rfl
@[simp] theorem State.setTile_chains (s : State) (n : Nat) (x : Tile) : (s.setTile n x).chains = s.chains := rfl
@[simp] theorem State.setTile_dev (s : State) (n : Nat) (x : Tile) : (s.setTile n x).dev = s.dev := rfl
@[simp] theorem State.setTile_mem (s : State) (n : Nat) (x : Tile) : (s.setTile n x).mem = s.mem := rfl

@[simp] theorem State.modTile_nc (s : State) (n : Nat) (f : Tile → Tile) : (s.modTile n f).nc = s.nc := rfl
@[simp] theorem State.modTile_turn (s : State) (n : Nat) (f : Tile → Tile) : (s.modTile n f).turn = s.turn := rfl
@[simp] theorem State.modTile_curTile (s : State) (n : Nat) (f : Tile → Tile) : (s.modTile n f).curTile = s.curTile := rfl
@[simp] theorem State.modTile_curSlot (s : State) (n : Nat) (f : Tile → Tile) : (s.modTile n f).curSlot = s.curSlot := rfl
@[simp] theorem State.modTile_focus (s : State) (n : Nat) (f : Tile → Tile) : (s.modTile n f).focus = s.focus := rfl
@[simp] theorem State.modTile_agenda (s : State) (n : Nat) (f : Tile → Tile) : (s.modTile n f).agenda = s.agenda := rfl
@[simp] theorem State.modTile_served (s : State) (n : Nat) (f : Tile → Tile) : (s.modTile n f).served = s.served := rfl
@[simp] theorem State.modTile_picked (s : State) (n : Nat) (f : Tile → Tile) : (s.modTile n f).picked = s.picked := rfl
@[simp] theorem State.modTile_fresh (s : State) (n : Nat) (f : Tile → Tile) : (s.modTile n f).fresh = s.fresh := rfl
@[simp] theorem State.modTile_nextId (s : State) (n : Nat) (f : Tile → Tile) : (s.modTile n f).nextId = s.nextId := rfl
@[simp] theorem State.modTile_stops (s : State) (n : Nat) (f : Tile → Tile) : (s.modTile n f).stops = s.stops := rfl
@[simp] theorem State.modTile_dies (s : State) (n : Nat) (f : Tile → Tile) : (s.modTile n f).dies = s.dies := rfl
@[simp] theorem State.modTile_chains (s : State) (n : Nat) (f : Tile → Tile) : (s.modTile n f).chains = s.chains := rfl
@[simp] theorem State.modTile_dev (s : State) (n : Nat) (f : Tile → Tile) : (s.modTile n f).dev = s.dev := rfl
@[simp] theorem State.modTile_mem (s : State) (n : Nat) (f : Tile → Tile) : (s.modTile n f).mem = s.mem := rfl

@[simp] theorem State.modJet_nc (s : State) (n j : Nat) (f : Jet → Jet) : (s.modJet n j f).nc = s.nc := rfl
@[simp] theorem State.modJet_turn (s : State) (n j : Nat) (f : Jet → Jet) : (s.modJet n j f).turn = s.turn := rfl
@[simp] theorem State.modJet_curTile (s : State) (n j : Nat) (f : Jet → Jet) : (s.modJet n j f).curTile = s.curTile := rfl
@[simp] theorem State.modJet_curSlot (s : State) (n j : Nat) (f : Jet → Jet) : (s.modJet n j f).curSlot = s.curSlot := rfl
@[simp] theorem State.modJet_focus (s : State) (n j : Nat) (f : Jet → Jet) : (s.modJet n j f).focus = s.focus := rfl
@[simp] theorem State.modJet_agenda (s : State) (n j : Nat) (f : Jet → Jet) : (s.modJet n j f).agenda = s.agenda := rfl
@[simp] theorem State.modJet_served (s : State) (n j : Nat) (f : Jet → Jet) : (s.modJet n j f).served = s.served := rfl
@[simp] theorem State.modJet_picked (s : State) (n j : Nat) (f : Jet → Jet) : (s.modJet n j f).picked = s.picked := rfl
@[simp] theorem State.modJet_fresh (s : State) (n j : Nat) (f : Jet → Jet) : (s.modJet n j f).fresh = s.fresh := rfl
@[simp] theorem State.modJet_nextId (s : State) (n j : Nat) (f : Jet → Jet) : (s.modJet n j f).nextId = s.nextId := rfl
@[simp] theorem State.modJet_stops (s : State) (n j : Nat) (f : Jet → Jet) : (s.modJet n j f).stops = s.stops := rfl
@[simp] theorem State.modJet_dies (s : State) (n j : Nat) (f : Jet → Jet) : (s.modJet n j f).dies = s.dies := rfl
@[simp] theorem State.modJet_chains (s : State) (n j : Nat) (f : Jet → Jet) : (s.modJet n j f).chains = s.chains := rfl
@[simp] theorem State.modJet_dev (s : State) (n j : Nat) (f : Jet → Jet) : (s.modJet n j f).dev = s.dev := rfl
@[simp] theorem State.modJet_mem (s : State) (n j : Nat) (f : Jet → Jet) : (s.modJet n j f).mem = s.mem := rfl

@[simp] theorem State.modCur_nc (s : State) (f : Jet → Jet) : (s.modCur f).nc = s.nc := rfl
@[simp] theorem State.modCur_turn (s : State) (f : Jet → Jet) : (s.modCur f).turn = s.turn := rfl
@[simp] theorem State.modCur_curTile (s : State) (f : Jet → Jet) : (s.modCur f).curTile = s.curTile := rfl
@[simp] theorem State.modCur_curSlot (s : State) (f : Jet → Jet) : (s.modCur f).curSlot = s.curSlot := rfl
@[simp] theorem State.modCur_focus (s : State) (f : Jet → Jet) : (s.modCur f).focus = s.focus := rfl
@[simp] theorem State.modCur_agenda (s : State) (f : Jet → Jet) : (s.modCur f).agenda = s.agenda := rfl
@[simp] theorem State.modCur_served (s : State) (f : Jet → Jet) : (s.modCur f).served = s.served := rfl
@[simp] theorem State.modCur_picked (s : State) (f : Jet → Jet) : (s.modCur f).picked = s.picked := rfl
@[simp] theorem State.modCur_fresh (s : State) (f : Jet → Jet) : (s.modCur f).fresh = s.fresh := rfl
@[simp] theorem State.modCur_nextId (s : State) (f : Jet → Jet) : (s.modCur f).nextId = s.nextId := rfl
@[simp] theorem State.modCur_stops (s : State) (f : Jet → Jet) : (s.modCur f).stops = s.stops := rfl
@[simp] theorem State.modCur_dies (s : State) (f : Jet → Jet) : (s.modCur f).dies = s.dies := rfl
@[simp] theorem State.modCur_chains (s : State) (f : Jet → Jet) : (s.modCur f).chains = s.chains := rfl
@[simp] theorem State.modCur_dev (s : State) (f : Jet → Jet) : (s.modCur f).dev = s.dev := rfl
@[simp] theorem State.modCur_mem (s : State) (f : Jet → Jet) : (s.modCur f).mem = s.mem := rfl

@[simp] theorem State.modHere_nc (s : State) (f : Tile → Tile) : (s.modHere f).nc = s.nc := rfl
@[simp] theorem State.modHere_turn (s : State) (f : Tile → Tile) : (s.modHere f).turn = s.turn := rfl
@[simp] theorem State.modHere_curTile (s : State) (f : Tile → Tile) : (s.modHere f).curTile = s.curTile := rfl
@[simp] theorem State.modHere_curSlot (s : State) (f : Tile → Tile) : (s.modHere f).curSlot = s.curSlot := rfl
@[simp] theorem State.modHere_focus (s : State) (f : Tile → Tile) : (s.modHere f).focus = s.focus := rfl
@[simp] theorem State.modHere_agenda (s : State) (f : Tile → Tile) : (s.modHere f).agenda = s.agenda := rfl
@[simp] theorem State.modHere_served (s : State) (f : Tile → Tile) : (s.modHere f).served = s.served := rfl
@[simp] theorem State.modHere_picked (s : State) (f : Tile → Tile) : (s.modHere f).picked = s.picked := rfl
@[simp] theorem State.modHere_fresh (s : State) (f : Tile → Tile) : (s.modHere f).fresh = s.fresh := rfl
@[simp] theorem State.modHere_nextId (s : State) (f : Tile → Tile) : (s.modHere f).nextId = s.nextId := rfl
@[simp] theorem State.modHere_stops (s : State) (f : Tile → Tile) : (s.modHere f).stops = s.stops := rfl
@[simp] theorem State.modHere_dies (s : State) (f : Tile → Tile) : (s.modHere f).dies = s.dies := rfl
@[simp] theorem State.modHere_chains (s : State) (f : Tile → Tile) : (s.modHere f).chains = s.chains := rfl
@[simp] theorem State.modHere_dev (s : State) (f : Tile → Tile) : (s.modHere f).dev = s.dev := rfl
@[simp] theorem State.modHere_mem (s : State) (f : Tile → Tile) : (s.modHere f).mem = s.mem := rfl

@[simp] theorem State.modStop_nc (s : State) (n : Nat) (f : Stop → Stop) : (s.modStop n f).nc = s.nc := rfl
@[simp] theorem State.modStop_turn (s : State) (n : Nat) (f : Stop → Stop) : (s.modStop n f).turn = s.turn := rfl
@[simp] theorem State.modStop_curTile (s : State) (n : Nat) (f : Stop → Stop) : (s.modStop n f).curTile = s.curTile := rfl
@[simp] theorem State.modStop_curSlot (s : State) (n : Nat) (f : Stop → Stop) : (s.modStop n f).curSlot = s.curSlot := rfl
@[simp] theorem State.modStop_focus (s : State) (n : Nat) (f : Stop → Stop) : (s.modStop n f).focus = s.focus := rfl
@[simp] theorem State.modStop_agenda (s : State) (n : Nat) (f : Stop → Stop) : (s.modStop n f).agenda = s.agenda := rfl
@[simp] theorem State.modStop_served (s : State) (n : Nat) (f : Stop → Stop) : (s.modStop n f).served = s.served := rfl
@[simp] theorem State.modStop_picked (s : State) (n : Nat) (f : Stop → Stop) : (s.modStop n f).picked = s.picked := rfl
@[simp] theorem State.modStop_fresh (s : State) (n : Nat) (f : Stop → Stop) : (s.modStop n f).fresh = s.fresh := rfl
@[simp] theorem State.modStop_nextId (s : State) (n : Nat) (f : Stop → Stop) : (s.modStop n f).nextId = s.nextId := rfl
@[simp] theorem State.modStop_tiles (s : State) (n : Nat) (f : Stop → Stop) : (s.modStop n f).tiles = s.tiles := rfl
@[simp] theorem State.modStop_dies (s : State) (n : Nat) (f : Stop → Stop) : (s.modStop n f).dies = s.dies := rfl
@[simp] theorem State.modStop_chains (s : State) (n : Nat) (f : Stop → Stop) : (s.modStop n f).chains = s.chains := rfl
@[simp] theorem State.modStop_dev (s : State) (n : Nat) (f : Stop → Stop) : (s.modStop n f).dev = s.dev := rfl
@[simp] theorem State.modStop_mem (s : State) (n : Nat) (f : Stop → Stop) : (s.modStop n f).mem = s.mem := rfl

@[simp] theorem State.modDie_nc (s : State) (n : Nat) (f : Die → Die) : (s.modDie n f).nc = s.nc := rfl
@[simp] theorem State.modDie_turn (s : State) (n : Nat) (f : Die → Die) : (s.modDie n f).turn = s.turn := rfl
@[simp] theorem State.modDie_curTile (s : State) (n : Nat) (f : Die → Die) : (s.modDie n f).curTile = s.curTile := rfl
@[simp] theorem State.modDie_curSlot (s : State) (n : Nat) (f : Die → Die) : (s.modDie n f).curSlot = s.curSlot := rfl
@[simp] theorem State.modDie_focus (s : State) (n : Nat) (f : Die → Die) : (s.modDie n f).focus = s.focus := rfl
@[simp] theorem State.modDie_agenda (s : State) (n : Nat) (f : Die → Die) : (s.modDie n f).agenda = s.agenda := rfl
@[simp] theorem State.modDie_served (s : State) (n : Nat) (f : Die → Die) : (s.modDie n f).served = s.served := rfl
@[simp] theorem State.modDie_picked (s : State) (n : Nat) (f : Die → Die) : (s.modDie n f).picked = s.picked := rfl
@[simp] theorem State.modDie_fresh (s : State) (n : Nat) (f : Die → Die) : (s.modDie n f).fresh = s.fresh := rfl
@[simp] theorem State.modDie_nextId (s : State) (n : Nat) (f : Die → Die) : (s.modDie n f).nextId = s.nextId := rfl
@[simp] theorem State.modDie_tiles (s : State) (n : Nat) (f : Die → Die) : (s.modDie n f).tiles = s.tiles := rfl
@[simp] theorem State.modDie_stops (s : State) (n : Nat) (f : Die → Die) : (s.modDie n f).stops = s.stops := rfl
@[simp] theorem State.modDie_chains (s : State) (n : Nat) (f : Die → Die) : (s.modDie n f).chains = s.chains := rfl
@[simp] theorem State.modDie_dev (s : State) (n : Nat) (f : Die → Die) : (s.modDie n f).dev = s.dev := rfl
@[simp] theorem State.modDie_mem (s : State) (n : Nat) (f : Die → Die) : (s.modDie n f).mem = s.mem := rfl

@[simp] theorem State.modChain_nc (s : State) (n : Nat) (f : Chain → Chain) : (s.modChain n f).nc = s.nc := rfl
@[simp] theorem State.modChain_turn (s : State) (n : Nat) (f : Chain → Chain) : (s.modChain n f).turn = s.turn := rfl
@[simp] theorem State.modChain_curTile (s : State) (n : Nat) (f : Chain → Chain) : (s.modChain n f).curTile = s.curTile := rfl
@[simp] theorem State.modChain_curSlot (s : State) (n : Nat) (f : Chain → Chain) : (s.modChain n f).curSlot = s.curSlot := rfl
@[simp] theorem State.modChain_focus (s : State) (n : Nat) (f : Chain → Chain) : (s.modChain n f).focus = s.focus := rfl
@[simp] theorem State.modChain_agenda (s : State) (n : Nat) (f : Chain → Chain) : (s.modChain n f).agenda = s.agenda := rfl
@[simp] theorem State.modChain_served (s : State) (n : Nat) (f : Chain → Chain) : (s.modChain n f).served = s.served := rfl
@[simp] theorem State.modChain_picked (s : State) (n : Nat) (f : Chain → Chain) : (s.modChain n f).picked = s.picked := rfl
@[simp] theorem State.modChain_fresh (s : State) (n : Nat) (f : Chain → Chain) : (s.modChain n f).fresh = s.fresh := rfl
@[simp] theorem State.modChain_nextId (s : State) (n : Nat) (f : Chain → Chain) : (s.modChain n f).nextId = s.nextId := rfl
@[simp] theorem State.modChain_tiles (s : State) (n : Nat) (f : Chain → Chain) : (s.modChain n f).tiles = s.tiles := rfl
@[simp] theorem State.modChain_stops (s : State) (n : Nat) (f : Chain → Chain) : (s.modChain n f).stops = s.stops := rfl
@[simp] theorem State.modChain_dies (s : State) (n : Nat) (f : Chain → Chain) : (s.modChain n f).dies = s.dies := rfl
@[simp] theorem State.modChain_dev (s : State) (n : Nat) (f : Chain → Chain) : (s.modChain n f).dev = s.dev := rfl
@[simp] theorem State.modChain_mem (s : State) (n : Nat) (f : Chain → Chain) : (s.modChain n f).mem = s.mem := rfl

@[simp] theorem State.modDev_nc (s : State) (f : Dev → Dev) : (s.modDev f).nc = s.nc := rfl
@[simp] theorem State.modDev_turn (s : State) (f : Dev → Dev) : (s.modDev f).turn = s.turn := rfl
@[simp] theorem State.modDev_curTile (s : State) (f : Dev → Dev) : (s.modDev f).curTile = s.curTile := rfl
@[simp] theorem State.modDev_curSlot (s : State) (f : Dev → Dev) : (s.modDev f).curSlot = s.curSlot := rfl
@[simp] theorem State.modDev_focus (s : State) (f : Dev → Dev) : (s.modDev f).focus = s.focus := rfl
@[simp] theorem State.modDev_agenda (s : State) (f : Dev → Dev) : (s.modDev f).agenda = s.agenda := rfl
@[simp] theorem State.modDev_served (s : State) (f : Dev → Dev) : (s.modDev f).served = s.served := rfl
@[simp] theorem State.modDev_picked (s : State) (f : Dev → Dev) : (s.modDev f).picked = s.picked := rfl
@[simp] theorem State.modDev_fresh (s : State) (f : Dev → Dev) : (s.modDev f).fresh = s.fresh := rfl
@[simp] theorem State.modDev_nextId (s : State) (f : Dev → Dev) : (s.modDev f).nextId = s.nextId := rfl
@[simp] theorem State.modDev_tiles (s : State) (f : Dev → Dev) : (s.modDev f).tiles = s.tiles := rfl
@[simp] theorem State.modDev_stops (s : State) (f : Dev → Dev) : (s.modDev f).stops = s.stops := rfl
@[simp] theorem State.modDev_dies (s : State) (f : Dev → Dev) : (s.modDev f).dies = s.dies := rfl
@[simp] theorem State.modDev_chains (s : State) (f : Dev → Dev) : (s.modDev f).chains = s.chains := rfl
@[simp] theorem State.modDev_mem (s : State) (f : Dev → Dev) : (s.modDev f).mem = s.mem := rfl

@[simp] theorem State.sched_nc (s : State) (d : Nat) (e : Instr) (f : Focus) : (s.at_ d e f).nc = s.nc := rfl
@[simp] theorem State.sched_turn (s : State) (d : Nat) (e : Instr) (f : Focus) : (s.at_ d e f).turn = s.turn := rfl
@[simp] theorem State.sched_curTile (s : State) (d : Nat) (e : Instr) (f : Focus) : (s.at_ d e f).curTile = s.curTile := rfl
@[simp] theorem State.sched_curSlot (s : State) (d : Nat) (e : Instr) (f : Focus) : (s.at_ d e f).curSlot = s.curSlot := rfl
@[simp] theorem State.sched_focus (s : State) (d : Nat) (e : Instr) (f : Focus) : (s.at_ d e f).focus = s.focus := rfl
@[simp] theorem State.sched_served (s : State) (d : Nat) (e : Instr) (f : Focus) : (s.at_ d e f).served = s.served := rfl
@[simp] theorem State.sched_picked (s : State) (d : Nat) (e : Instr) (f : Focus) : (s.at_ d e f).picked = s.picked := rfl
@[simp] theorem State.sched_fresh (s : State) (d : Nat) (e : Instr) (f : Focus) : (s.at_ d e f).fresh = s.fresh := rfl
@[simp] theorem State.sched_nextId (s : State) (d : Nat) (e : Instr) (f : Focus) : (s.at_ d e f).nextId = s.nextId := rfl
@[simp] theorem State.sched_tiles (s : State) (d : Nat) (e : Instr) (f : Focus) : (s.at_ d e f).tiles = s.tiles := rfl
@[simp] theorem State.sched_stops (s : State) (d : Nat) (e : Instr) (f : Focus) : (s.at_ d e f).stops = s.stops := rfl
@[simp] theorem State.sched_dies (s : State) (d : Nat) (e : Instr) (f : Focus) : (s.at_ d e f).dies = s.dies := rfl
@[simp] theorem State.sched_chains (s : State) (d : Nat) (e : Instr) (f : Focus) : (s.at_ d e f).chains = s.chains := rfl
@[simp] theorem State.sched_dev (s : State) (d : Nat) (e : Instr) (f : Focus) : (s.at_ d e f).dev = s.dev := rfl
@[simp] theorem State.sched_mem (s : State) (d : Nat) (e : Instr) (f : Focus) : (s.at_ d e f).mem = s.mem := rfl

@[simp] theorem State.after_nc (s : State) (n : Nat) (e : Instr) (f : Focus) : (s.after n e f).nc = s.nc := rfl
@[simp] theorem State.after_turn (s : State) (n : Nat) (e : Instr) (f : Focus) : (s.after n e f).turn = s.turn := rfl
@[simp] theorem State.after_curTile (s : State) (n : Nat) (e : Instr) (f : Focus) : (s.after n e f).curTile = s.curTile := rfl
@[simp] theorem State.after_curSlot (s : State) (n : Nat) (e : Instr) (f : Focus) : (s.after n e f).curSlot = s.curSlot := rfl
@[simp] theorem State.after_focus (s : State) (n : Nat) (e : Instr) (f : Focus) : (s.after n e f).focus = s.focus := rfl
@[simp] theorem State.after_served (s : State) (n : Nat) (e : Instr) (f : Focus) : (s.after n e f).served = s.served := rfl
@[simp] theorem State.after_picked (s : State) (n : Nat) (e : Instr) (f : Focus) : (s.after n e f).picked = s.picked := rfl
@[simp] theorem State.after_fresh (s : State) (n : Nat) (e : Instr) (f : Focus) : (s.after n e f).fresh = s.fresh := rfl
@[simp] theorem State.after_nextId (s : State) (n : Nat) (e : Instr) (f : Focus) : (s.after n e f).nextId = s.nextId := rfl
@[simp] theorem State.after_tiles (s : State) (n : Nat) (e : Instr) (f : Focus) : (s.after n e f).tiles = s.tiles := rfl
@[simp] theorem State.after_stops (s : State) (n : Nat) (e : Instr) (f : Focus) : (s.after n e f).stops = s.stops := rfl
@[simp] theorem State.after_dies (s : State) (n : Nat) (e : Instr) (f : Focus) : (s.after n e f).dies = s.dies := rfl
@[simp] theorem State.after_chains (s : State) (n : Nat) (e : Instr) (f : Focus) : (s.after n e f).chains = s.chains := rfl
@[simp] theorem State.after_dev (s : State) (n : Nat) (e : Instr) (f : Focus) : (s.after n e f).dev = s.dev := rfl
@[simp] theorem State.after_mem (s : State) (n : Nat) (e : Instr) (f : Focus) : (s.after n e f).mem = s.mem := rfl

@[simp] theorem State.journal_nc (s : State) (k o q : Nat) (l : BitVec 32) (d : Nat) : (s.journal k o q l d).nc = s.nc := rfl
@[simp] theorem State.journal_turn (s : State) (k o q : Nat) (l : BitVec 32) (d : Nat) : (s.journal k o q l d).turn = s.turn := rfl
@[simp] theorem State.journal_curTile (s : State) (k o q : Nat) (l : BitVec 32) (d : Nat) : (s.journal k o q l d).curTile = s.curTile := rfl
@[simp] theorem State.journal_curSlot (s : State) (k o q : Nat) (l : BitVec 32) (d : Nat) : (s.journal k o q l d).curSlot = s.curSlot := rfl
@[simp] theorem State.journal_focus (s : State) (k o q : Nat) (l : BitVec 32) (d : Nat) : (s.journal k o q l d).focus = s.focus := rfl
@[simp] theorem State.journal_agenda (s : State) (k o q : Nat) (l : BitVec 32) (d : Nat) : (s.journal k o q l d).agenda = s.agenda := rfl
@[simp] theorem State.journal_served (s : State) (k o q : Nat) (l : BitVec 32) (d : Nat) : (s.journal k o q l d).served = s.served := rfl
@[simp] theorem State.journal_picked (s : State) (k o q : Nat) (l : BitVec 32) (d : Nat) : (s.journal k o q l d).picked = s.picked := rfl
@[simp] theorem State.journal_fresh (s : State) (k o q : Nat) (l : BitVec 32) (d : Nat) : (s.journal k o q l d).fresh = s.fresh := rfl
@[simp] theorem State.journal_nextId (s : State) (k o q : Nat) (l : BitVec 32) (d : Nat) : (s.journal k o q l d).nextId = s.nextId := rfl
@[simp] theorem State.journal_tiles (s : State) (k o q : Nat) (l : BitVec 32) (d : Nat) : (s.journal k o q l d).tiles = s.tiles := rfl
@[simp] theorem State.journal_stops (s : State) (k o q : Nat) (l : BitVec 32) (d : Nat) : (s.journal k o q l d).stops = s.stops := rfl
@[simp] theorem State.journal_dies (s : State) (k o q : Nat) (l : BitVec 32) (d : Nat) : (s.journal k o q l d).dies = s.dies := rfl
@[simp] theorem State.journal_chains (s : State) (k o q : Nat) (l : BitVec 32) (d : Nat) : (s.journal k o q l d).chains = s.chains := rfl
@[simp] theorem State.journal_mem (s : State) (k o q : Nat) (l : BitVec 32) (d : Nat) : (s.journal k o q l d).mem = s.mem := rfl

@[simp] theorem State.sendLocal_nc (s : State) (n : Nat) (m : SendMsg) : (s.sendLocal n m).nc = s.nc := rfl
@[simp] theorem State.sendLocal_turn (s : State) (n : Nat) (m : SendMsg) : (s.sendLocal n m).turn = s.turn := rfl
@[simp] theorem State.sendLocal_curTile (s : State) (n : Nat) (m : SendMsg) : (s.sendLocal n m).curTile = s.curTile := rfl
@[simp] theorem State.sendLocal_curSlot (s : State) (n : Nat) (m : SendMsg) : (s.sendLocal n m).curSlot = s.curSlot := rfl
@[simp] theorem State.sendLocal_focus (s : State) (n : Nat) (m : SendMsg) : (s.sendLocal n m).focus = s.focus := rfl
@[simp] theorem State.sendLocal_agenda (s : State) (n : Nat) (m : SendMsg) : (s.sendLocal n m).agenda = s.agenda := rfl
@[simp] theorem State.sendLocal_served (s : State) (n : Nat) (m : SendMsg) : (s.sendLocal n m).served = s.served := rfl
@[simp] theorem State.sendLocal_picked (s : State) (n : Nat) (m : SendMsg) : (s.sendLocal n m).picked = s.picked := rfl
@[simp] theorem State.sendLocal_fresh (s : State) (n : Nat) (m : SendMsg) : (s.sendLocal n m).fresh = s.fresh := rfl
@[simp] theorem State.sendLocal_nextId (s : State) (n : Nat) (m : SendMsg) : (s.sendLocal n m).nextId = s.nextId := rfl
@[simp] theorem State.sendLocal_stops (s : State) (n : Nat) (m : SendMsg) : (s.sendLocal n m).stops = s.stops := rfl
@[simp] theorem State.sendLocal_dies (s : State) (n : Nat) (m : SendMsg) : (s.sendLocal n m).dies = s.dies := rfl
@[simp] theorem State.sendLocal_chains (s : State) (n : Nat) (m : SendMsg) : (s.sendLocal n m).chains = s.chains := rfl
@[simp] theorem State.sendLocal_dev (s : State) (n : Nat) (m : SendMsg) : (s.sendLocal n m).dev = s.dev := rfl
@[simp] theorem State.sendLocal_mem (s : State) (n : Nat) (m : SendMsg) : (s.sendLocal n m).mem = s.mem := rfl

@[simp] theorem State.report_nc (s : State) (n : Nat) (f : Flt) (i : BitVec 16) : (s.report n f i).nc = s.nc := rfl
@[simp] theorem State.report_turn (s : State) (n : Nat) (f : Flt) (i : BitVec 16) : (s.report n f i).turn = s.turn := rfl
@[simp] theorem State.report_curTile (s : State) (n : Nat) (f : Flt) (i : BitVec 16) : (s.report n f i).curTile = s.curTile := rfl
@[simp] theorem State.report_curSlot (s : State) (n : Nat) (f : Flt) (i : BitVec 16) : (s.report n f i).curSlot = s.curSlot := rfl
@[simp] theorem State.report_focus (s : State) (n : Nat) (f : Flt) (i : BitVec 16) : (s.report n f i).focus = s.focus := rfl
@[simp] theorem State.report_agenda (s : State) (n : Nat) (f : Flt) (i : BitVec 16) : (s.report n f i).agenda = s.agenda := rfl
@[simp] theorem State.report_served (s : State) (n : Nat) (f : Flt) (i : BitVec 16) : (s.report n f i).served = s.served := rfl
@[simp] theorem State.report_picked (s : State) (n : Nat) (f : Flt) (i : BitVec 16) : (s.report n f i).picked = s.picked := rfl
@[simp] theorem State.report_fresh (s : State) (n : Nat) (f : Flt) (i : BitVec 16) : (s.report n f i).fresh = s.fresh := rfl
@[simp] theorem State.report_nextId (s : State) (n : Nat) (f : Flt) (i : BitVec 16) : (s.report n f i).nextId = s.nextId := rfl
@[simp] theorem State.report_stops (s : State) (n : Nat) (f : Flt) (i : BitVec 16) : (s.report n f i).stops = s.stops := rfl
@[simp] theorem State.report_dies (s : State) (n : Nat) (f : Flt) (i : BitVec 16) : (s.report n f i).dies = s.dies := rfl
@[simp] theorem State.report_chains (s : State) (n : Nat) (f : Flt) (i : BitVec 16) : (s.report n f i).chains = s.chains := rfl
@[simp] theorem State.report_dev (s : State) (n : Nat) (f : Flt) (i : BitVec 16) : (s.report n f i).dev = s.dev := rfl
@[simp] theorem State.report_mem (s : State) (n : Nat) (f : Flt) (i : BitVec 16) : (s.report n f i).mem = s.mem := rfl

@[simp] theorem State.reportJet_nc (s : State) (n j : Nat) (f : Flt) (p : BitVec 64) : (s.reportJet n j f p).nc = s.nc := rfl
@[simp] theorem State.reportJet_turn (s : State) (n j : Nat) (f : Flt) (p : BitVec 64) : (s.reportJet n j f p).turn = s.turn := rfl
@[simp] theorem State.reportJet_curTile (s : State) (n j : Nat) (f : Flt) (p : BitVec 64) : (s.reportJet n j f p).curTile = s.curTile := rfl
@[simp] theorem State.reportJet_curSlot (s : State) (n j : Nat) (f : Flt) (p : BitVec 64) : (s.reportJet n j f p).curSlot = s.curSlot := rfl
@[simp] theorem State.reportJet_focus (s : State) (n j : Nat) (f : Flt) (p : BitVec 64) : (s.reportJet n j f p).focus = s.focus := rfl
@[simp] theorem State.reportJet_agenda (s : State) (n j : Nat) (f : Flt) (p : BitVec 64) : (s.reportJet n j f p).agenda = s.agenda := rfl
@[simp] theorem State.reportJet_served (s : State) (n j : Nat) (f : Flt) (p : BitVec 64) : (s.reportJet n j f p).served = s.served := rfl
@[simp] theorem State.reportJet_picked (s : State) (n j : Nat) (f : Flt) (p : BitVec 64) : (s.reportJet n j f p).picked = s.picked := rfl
@[simp] theorem State.reportJet_fresh (s : State) (n j : Nat) (f : Flt) (p : BitVec 64) : (s.reportJet n j f p).fresh = s.fresh := rfl
@[simp] theorem State.reportJet_nextId (s : State) (n j : Nat) (f : Flt) (p : BitVec 64) : (s.reportJet n j f p).nextId = s.nextId := rfl
@[simp] theorem State.reportJet_stops (s : State) (n j : Nat) (f : Flt) (p : BitVec 64) : (s.reportJet n j f p).stops = s.stops := rfl
@[simp] theorem State.reportJet_dies (s : State) (n j : Nat) (f : Flt) (p : BitVec 64) : (s.reportJet n j f p).dies = s.dies := rfl
@[simp] theorem State.reportJet_chains (s : State) (n j : Nat) (f : Flt) (p : BitVec 64) : (s.reportJet n j f p).chains = s.chains := rfl
@[simp] theorem State.reportJet_dev (s : State) (n j : Nat) (f : Flt) (p : BitVec 64) : (s.reportJet n j f p).dev = s.dev := rfl
@[simp] theorem State.reportJet_mem (s : State) (n j : Nat) (f : Flt) (p : BitVec 64) : (s.reportJet n j f p).mem = s.mem := rfl

@[simp] theorem State.trapAt_nc (s : State) (n j : Nat) (f : Flt) (p q : BitVec 64) : (s.trapAt n j f p q).nc = s.nc := rfl
@[simp] theorem State.trapAt_turn (s : State) (n j : Nat) (f : Flt) (p q : BitVec 64) : (s.trapAt n j f p q).turn = s.turn := rfl
@[simp] theorem State.trapAt_curTile (s : State) (n j : Nat) (f : Flt) (p q : BitVec 64) : (s.trapAt n j f p q).curTile = s.curTile := rfl
@[simp] theorem State.trapAt_curSlot (s : State) (n j : Nat) (f : Flt) (p q : BitVec 64) : (s.trapAt n j f p q).curSlot = s.curSlot := rfl
@[simp] theorem State.trapAt_focus (s : State) (n j : Nat) (f : Flt) (p q : BitVec 64) : (s.trapAt n j f p q).focus = s.focus := rfl
@[simp] theorem State.trapAt_agenda (s : State) (n j : Nat) (f : Flt) (p q : BitVec 64) : (s.trapAt n j f p q).agenda = s.agenda := rfl
@[simp] theorem State.trapAt_served (s : State) (n j : Nat) (f : Flt) (p q : BitVec 64) : (s.trapAt n j f p q).served = s.served := rfl
@[simp] theorem State.trapAt_picked (s : State) (n j : Nat) (f : Flt) (p q : BitVec 64) : (s.trapAt n j f p q).picked = s.picked := rfl
@[simp] theorem State.trapAt_fresh (s : State) (n j : Nat) (f : Flt) (p q : BitVec 64) : (s.trapAt n j f p q).fresh = s.fresh := rfl
@[simp] theorem State.trapAt_nextId (s : State) (n j : Nat) (f : Flt) (p q : BitVec 64) : (s.trapAt n j f p q).nextId = s.nextId := rfl
@[simp] theorem State.trapAt_stops (s : State) (n j : Nat) (f : Flt) (p q : BitVec 64) : (s.trapAt n j f p q).stops = s.stops := rfl
@[simp] theorem State.trapAt_dies (s : State) (n j : Nat) (f : Flt) (p q : BitVec 64) : (s.trapAt n j f p q).dies = s.dies := rfl
@[simp] theorem State.trapAt_chains (s : State) (n j : Nat) (f : Flt) (p q : BitVec 64) : (s.trapAt n j f p q).chains = s.chains := rfl
@[simp] theorem State.trapAt_dev (s : State) (n j : Nat) (f : Flt) (p q : BitVec 64) : (s.trapAt n j f p q).dev = s.dev := rfl
@[simp] theorem State.trapAt_mem (s : State) (n j : Nat) (f : Flt) (p q : BitVec 64) : (s.trapAt n j f p q).mem = s.mem := rfl

@[simp] theorem State.trap_nc (s : State) (f : Flt) : (s.trap f).nc = s.nc := rfl
@[simp] theorem State.trap_turn (s : State) (f : Flt) : (s.trap f).turn = s.turn := rfl
@[simp] theorem State.trap_curTile (s : State) (f : Flt) : (s.trap f).curTile = s.curTile := rfl
@[simp] theorem State.trap_curSlot (s : State) (f : Flt) : (s.trap f).curSlot = s.curSlot := rfl
@[simp] theorem State.trap_focus (s : State) (f : Flt) : (s.trap f).focus = s.focus := rfl
@[simp] theorem State.trap_agenda (s : State) (f : Flt) : (s.trap f).agenda = s.agenda := rfl
@[simp] theorem State.trap_served (s : State) (f : Flt) : (s.trap f).served = s.served := rfl
@[simp] theorem State.trap_picked (s : State) (f : Flt) : (s.trap f).picked = s.picked := rfl
@[simp] theorem State.trap_fresh (s : State) (f : Flt) : (s.trap f).fresh = s.fresh := rfl
@[simp] theorem State.trap_nextId (s : State) (f : Flt) : (s.trap f).nextId = s.nextId := rfl
@[simp] theorem State.trap_stops (s : State) (f : Flt) : (s.trap f).stops = s.stops := rfl
@[simp] theorem State.trap_dies (s : State) (f : Flt) : (s.trap f).dies = s.dies := rfl
@[simp] theorem State.trap_chains (s : State) (f : Flt) : (s.trap f).chains = s.chains := rfl
@[simp] theorem State.trap_dev (s : State) (f : Flt) : (s.trap f).dev = s.dev := rfl
@[simp] theorem State.trap_mem (s : State) (f : Flt) : (s.trap f).mem = s.mem := rfl

@[simp] theorem State.illegal_nc (s : State) (c : Nat) : (s.illegal c).nc = s.nc := rfl
@[simp] theorem State.illegal_turn (s : State) (c : Nat) : (s.illegal c).turn = s.turn := rfl
@[simp] theorem State.illegal_curTile (s : State) (c : Nat) : (s.illegal c).curTile = s.curTile := rfl
@[simp] theorem State.illegal_curSlot (s : State) (c : Nat) : (s.illegal c).curSlot = s.curSlot := rfl
@[simp] theorem State.illegal_focus (s : State) (c : Nat) : (s.illegal c).focus = s.focus := rfl
@[simp] theorem State.illegal_agenda (s : State) (c : Nat) : (s.illegal c).agenda = s.agenda := rfl
@[simp] theorem State.illegal_served (s : State) (c : Nat) : (s.illegal c).served = s.served := rfl
@[simp] theorem State.illegal_picked (s : State) (c : Nat) : (s.illegal c).picked = s.picked := rfl
@[simp] theorem State.illegal_fresh (s : State) (c : Nat) : (s.illegal c).fresh = s.fresh := rfl
@[simp] theorem State.illegal_nextId (s : State) (c : Nat) : (s.illegal c).nextId = s.nextId := rfl
@[simp] theorem State.illegal_stops (s : State) (c : Nat) : (s.illegal c).stops = s.stops := rfl
@[simp] theorem State.illegal_dies (s : State) (c : Nat) : (s.illegal c).dies = s.dies := rfl
@[simp] theorem State.illegal_chains (s : State) (c : Nat) : (s.illegal c).chains = s.chains := rfl
@[simp] theorem State.illegal_dev (s : State) (c : Nat) : (s.illegal c).dev = s.dev := rfl
@[simp] theorem State.illegal_mem (s : State) (c : Nat) : (s.illegal c).mem = s.mem := rfl

@[simp] theorem State.lateFault_nc (s : State) (n j : Nat) (f : Flt) (p : BitVec 64) (l : List Nat) (o : Nat) : (s.lateFault n j f p l o).nc = s.nc := rfl
@[simp] theorem State.lateFault_turn (s : State) (n j : Nat) (f : Flt) (p : BitVec 64) (l : List Nat) (o : Nat) : (s.lateFault n j f p l o).turn = s.turn := rfl
@[simp] theorem State.lateFault_curTile (s : State) (n j : Nat) (f : Flt) (p : BitVec 64) (l : List Nat) (o : Nat) : (s.lateFault n j f p l o).curTile = s.curTile := rfl
@[simp] theorem State.lateFault_curSlot (s : State) (n j : Nat) (f : Flt) (p : BitVec 64) (l : List Nat) (o : Nat) : (s.lateFault n j f p l o).curSlot = s.curSlot := rfl
@[simp] theorem State.lateFault_focus (s : State) (n j : Nat) (f : Flt) (p : BitVec 64) (l : List Nat) (o : Nat) : (s.lateFault n j f p l o).focus = s.focus := rfl
@[simp] theorem State.lateFault_agenda (s : State) (n j : Nat) (f : Flt) (p : BitVec 64) (l : List Nat) (o : Nat) : (s.lateFault n j f p l o).agenda = s.agenda := rfl
@[simp] theorem State.lateFault_served (s : State) (n j : Nat) (f : Flt) (p : BitVec 64) (l : List Nat) (o : Nat) : (s.lateFault n j f p l o).served = s.served := rfl
@[simp] theorem State.lateFault_picked (s : State) (n j : Nat) (f : Flt) (p : BitVec 64) (l : List Nat) (o : Nat) : (s.lateFault n j f p l o).picked = s.picked := rfl
@[simp] theorem State.lateFault_fresh (s : State) (n j : Nat) (f : Flt) (p : BitVec 64) (l : List Nat) (o : Nat) : (s.lateFault n j f p l o).fresh = s.fresh := rfl
@[simp] theorem State.lateFault_nextId (s : State) (n j : Nat) (f : Flt) (p : BitVec 64) (l : List Nat) (o : Nat) : (s.lateFault n j f p l o).nextId = s.nextId := rfl
@[simp] theorem State.lateFault_stops (s : State) (n j : Nat) (f : Flt) (p : BitVec 64) (l : List Nat) (o : Nat) : (s.lateFault n j f p l o).stops = s.stops := rfl
@[simp] theorem State.lateFault_dies (s : State) (n j : Nat) (f : Flt) (p : BitVec 64) (l : List Nat) (o : Nat) : (s.lateFault n j f p l o).dies = s.dies := rfl
@[simp] theorem State.lateFault_chains (s : State) (n j : Nat) (f : Flt) (p : BitVec 64) (l : List Nat) (o : Nat) : (s.lateFault n j f p l o).chains = s.chains := rfl
@[simp] theorem State.lateFault_dev (s : State) (n j : Nat) (f : Flt) (p : BitVec 64) (l : List Nat) (o : Nat) : (s.lateFault n j f p l o).dev = s.dev := rfl
@[simp] theorem State.lateFault_mem (s : State) (n j : Nat) (f : Flt) (p : BitVec 64) (l : List Nat) (o : Nat) : (s.lateFault n j f p l o).mem = s.mem := rfl

@[simp] theorem State.advance_nc (s : State) (h : Hdr) (len : Nat) : (s.advance h len).nc = s.nc := rfl
@[simp] theorem State.advance_turn (s : State) (h : Hdr) (len : Nat) : (s.advance h len).turn = s.turn := rfl
@[simp] theorem State.advance_curTile (s : State) (h : Hdr) (len : Nat) : (s.advance h len).curTile = s.curTile := rfl
@[simp] theorem State.advance_curSlot (s : State) (h : Hdr) (len : Nat) : (s.advance h len).curSlot = s.curSlot := rfl
@[simp] theorem State.advance_focus (s : State) (h : Hdr) (len : Nat) : (s.advance h len).focus = s.focus := rfl
@[simp] theorem State.advance_agenda (s : State) (h : Hdr) (len : Nat) : (s.advance h len).agenda = s.agenda := rfl
@[simp] theorem State.advance_served (s : State) (h : Hdr) (len : Nat) : (s.advance h len).served = s.served := rfl
@[simp] theorem State.advance_picked (s : State) (h : Hdr) (len : Nat) : (s.advance h len).picked = s.picked := rfl
@[simp] theorem State.advance_fresh (s : State) (h : Hdr) (len : Nat) : (s.advance h len).fresh = s.fresh := rfl
@[simp] theorem State.advance_nextId (s : State) (h : Hdr) (len : Nat) : (s.advance h len).nextId = s.nextId := rfl
@[simp] theorem State.advance_stops (s : State) (h : Hdr) (len : Nat) : (s.advance h len).stops = s.stops := rfl
@[simp] theorem State.advance_dies (s : State) (h : Hdr) (len : Nat) : (s.advance h len).dies = s.dies := rfl
@[simp] theorem State.advance_chains (s : State) (h : Hdr) (len : Nat) : (s.advance h len).chains = s.chains := rfl
@[simp] theorem State.advance_dev (s : State) (h : Hdr) (len : Nat) : (s.advance h len).dev = s.dev := rfl
@[simp] theorem State.advance_mem (s : State) (h : Hdr) (len : Nat) : (s.advance h len).mem = s.mem := rfl

@[simp] theorem State.owe_nc (s : State) (lat : Nat) (w : Write) (fl : BitVec 5) : (s.owe lat w fl).nc = s.nc := rfl
@[simp] theorem State.owe_turn (s : State) (lat : Nat) (w : Write) (fl : BitVec 5) : (s.owe lat w fl).turn = s.turn := rfl
@[simp] theorem State.owe_curTile (s : State) (lat : Nat) (w : Write) (fl : BitVec 5) : (s.owe lat w fl).curTile = s.curTile := rfl
@[simp] theorem State.owe_curSlot (s : State) (lat : Nat) (w : Write) (fl : BitVec 5) : (s.owe lat w fl).curSlot = s.curSlot := rfl
@[simp] theorem State.owe_focus (s : State) (lat : Nat) (w : Write) (fl : BitVec 5) : (s.owe lat w fl).focus = s.focus := rfl
@[simp] theorem State.owe_served (s : State) (lat : Nat) (w : Write) (fl : BitVec 5) : (s.owe lat w fl).served = s.served := rfl
@[simp] theorem State.owe_picked (s : State) (lat : Nat) (w : Write) (fl : BitVec 5) : (s.owe lat w fl).picked = s.picked := rfl
@[simp] theorem State.owe_fresh (s : State) (lat : Nat) (w : Write) (fl : BitVec 5) : (s.owe lat w fl).fresh = s.fresh := rfl
@[simp] theorem State.owe_stops (s : State) (lat : Nat) (w : Write) (fl : BitVec 5) : (s.owe lat w fl).stops = s.stops := rfl
@[simp] theorem State.owe_dies (s : State) (lat : Nat) (w : Write) (fl : BitVec 5) : (s.owe lat w fl).dies = s.dies := rfl
@[simp] theorem State.owe_chains (s : State) (lat : Nat) (w : Write) (fl : BitVec 5) : (s.owe lat w fl).chains = s.chains := rfl
@[simp] theorem State.owe_dev (s : State) (lat : Nat) (w : Write) (fl : BitVec 5) : (s.owe lat w fl).dev = s.dev := rfl
@[simp] theorem State.owe_mem (s : State) (lat : Nat) (w : Write) (fl : BitVec 5) : (s.owe lat w fl).mem = s.mem := rfl

@[simp] theorem State.oweVar_nc (s : State) (a : List (Nat × Nat)) (b : List Nat) (w : List Write) (fl : List (BitVec 5)) (d : Bool) : ((s.oweVar a b w fl d).2).nc = s.nc := rfl
@[simp] theorem State.oweVar_turn (s : State) (a : List (Nat × Nat)) (b : List Nat) (w : List Write) (fl : List (BitVec 5)) (d : Bool) : ((s.oweVar a b w fl d).2).turn = s.turn := rfl
@[simp] theorem State.oweVar_curTile (s : State) (a : List (Nat × Nat)) (b : List Nat) (w : List Write) (fl : List (BitVec 5)) (d : Bool) : ((s.oweVar a b w fl d).2).curTile = s.curTile := rfl
@[simp] theorem State.oweVar_curSlot (s : State) (a : List (Nat × Nat)) (b : List Nat) (w : List Write) (fl : List (BitVec 5)) (d : Bool) : ((s.oweVar a b w fl d).2).curSlot = s.curSlot := rfl
@[simp] theorem State.oweVar_focus (s : State) (a : List (Nat × Nat)) (b : List Nat) (w : List Write) (fl : List (BitVec 5)) (d : Bool) : ((s.oweVar a b w fl d).2).focus = s.focus := rfl
@[simp] theorem State.oweVar_agenda (s : State) (a : List (Nat × Nat)) (b : List Nat) (w : List Write) (fl : List (BitVec 5)) (d : Bool) : ((s.oweVar a b w fl d).2).agenda = s.agenda := rfl
@[simp] theorem State.oweVar_served (s : State) (a : List (Nat × Nat)) (b : List Nat) (w : List Write) (fl : List (BitVec 5)) (d : Bool) : ((s.oweVar a b w fl d).2).served = s.served := rfl
@[simp] theorem State.oweVar_picked (s : State) (a : List (Nat × Nat)) (b : List Nat) (w : List Write) (fl : List (BitVec 5)) (d : Bool) : ((s.oweVar a b w fl d).2).picked = s.picked := rfl
@[simp] theorem State.oweVar_fresh (s : State) (a : List (Nat × Nat)) (b : List Nat) (w : List Write) (fl : List (BitVec 5)) (d : Bool) : ((s.oweVar a b w fl d).2).fresh = s.fresh := rfl
@[simp] theorem State.oweVar_stops (s : State) (a : List (Nat × Nat)) (b : List Nat) (w : List Write) (fl : List (BitVec 5)) (d : Bool) : ((s.oweVar a b w fl d).2).stops = s.stops := rfl
@[simp] theorem State.oweVar_dies (s : State) (a : List (Nat × Nat)) (b : List Nat) (w : List Write) (fl : List (BitVec 5)) (d : Bool) : ((s.oweVar a b w fl d).2).dies = s.dies := rfl
@[simp] theorem State.oweVar_chains (s : State) (a : List (Nat × Nat)) (b : List Nat) (w : List Write) (fl : List (BitVec 5)) (d : Bool) : ((s.oweVar a b w fl d).2).chains = s.chains := rfl
@[simp] theorem State.oweVar_dev (s : State) (a : List (Nat × Nat)) (b : List Nat) (w : List Write) (fl : List (BitVec 5)) (d : Bool) : ((s.oweVar a b w fl d).2).dev = s.dev := rfl
@[simp] theorem State.oweVar_mem (s : State) (a : List (Nat × Nat)) (b : List Nat) (w : List Write) (fl : List (BitVec 5)) (d : Bool) : ((s.oweVar a b w fl d).2).mem = s.mem := rfl

@[simp] theorem State.oweLater_nc (s : State) (d : SliceOp) : ((s.oweLater d).2).nc = s.nc := rfl
@[simp] theorem State.oweLater_turn (s : State) (d : SliceOp) : ((s.oweLater d).2).turn = s.turn := rfl
@[simp] theorem State.oweLater_curTile (s : State) (d : SliceOp) : ((s.oweLater d).2).curTile = s.curTile := rfl
@[simp] theorem State.oweLater_curSlot (s : State) (d : SliceOp) : ((s.oweLater d).2).curSlot = s.curSlot := rfl
@[simp] theorem State.oweLater_focus (s : State) (d : SliceOp) : ((s.oweLater d).2).focus = s.focus := rfl
@[simp] theorem State.oweLater_agenda (s : State) (d : SliceOp) : ((s.oweLater d).2).agenda = s.agenda := rfl
@[simp] theorem State.oweLater_served (s : State) (d : SliceOp) : ((s.oweLater d).2).served = s.served := rfl
@[simp] theorem State.oweLater_picked (s : State) (d : SliceOp) : ((s.oweLater d).2).picked = s.picked := rfl
@[simp] theorem State.oweLater_fresh (s : State) (d : SliceOp) : ((s.oweLater d).2).fresh = s.fresh := rfl
@[simp] theorem State.oweLater_stops (s : State) (d : SliceOp) : ((s.oweLater d).2).stops = s.stops := rfl
@[simp] theorem State.oweLater_dies (s : State) (d : SliceOp) : ((s.oweLater d).2).dies = s.dies := rfl
@[simp] theorem State.oweLater_chains (s : State) (d : SliceOp) : ((s.oweLater d).2).chains = s.chains := rfl
@[simp] theorem State.oweLater_dev (s : State) (d : SliceOp) : ((s.oweLater d).2).dev = s.dev := rfl
@[simp] theorem State.oweLater_mem (s : State) (d : SliceOp) : ((s.oweLater d).2).mem = s.mem := rfl

@[simp] theorem State.oweStatus_nc (s : State) (lat : Nat) (d : SliceOp) (v : Nat) : (s.oweStatus lat d v).nc = s.nc := rfl
@[simp] theorem State.oweStatus_turn (s : State) (lat : Nat) (d : SliceOp) (v : Nat) : (s.oweStatus lat d v).turn = s.turn := rfl
@[simp] theorem State.oweStatus_curTile (s : State) (lat : Nat) (d : SliceOp) (v : Nat) : (s.oweStatus lat d v).curTile = s.curTile := rfl
@[simp] theorem State.oweStatus_curSlot (s : State) (lat : Nat) (d : SliceOp) (v : Nat) : (s.oweStatus lat d v).curSlot = s.curSlot := rfl
@[simp] theorem State.oweStatus_focus (s : State) (lat : Nat) (d : SliceOp) (v : Nat) : (s.oweStatus lat d v).focus = s.focus := rfl
@[simp] theorem State.oweStatus_served (s : State) (lat : Nat) (d : SliceOp) (v : Nat) : (s.oweStatus lat d v).served = s.served := rfl
@[simp] theorem State.oweStatus_picked (s : State) (lat : Nat) (d : SliceOp) (v : Nat) : (s.oweStatus lat d v).picked = s.picked := rfl
@[simp] theorem State.oweStatus_fresh (s : State) (lat : Nat) (d : SliceOp) (v : Nat) : (s.oweStatus lat d v).fresh = s.fresh := rfl
@[simp] theorem State.oweStatus_stops (s : State) (lat : Nat) (d : SliceOp) (v : Nat) : (s.oweStatus lat d v).stops = s.stops := rfl
@[simp] theorem State.oweStatus_dies (s : State) (lat : Nat) (d : SliceOp) (v : Nat) : (s.oweStatus lat d v).dies = s.dies := rfl
@[simp] theorem State.oweStatus_chains (s : State) (lat : Nat) (d : SliceOp) (v : Nat) : (s.oweStatus lat d v).chains = s.chains := rfl
@[simp] theorem State.oweStatus_dev (s : State) (lat : Nat) (d : SliceOp) (v : Nat) : (s.oweStatus lat d v).dev = s.dev := rfl
@[simp] theorem State.oweStatus_mem (s : State) (lat : Nat) (d : SliceOp) (v : Nat) : (s.oweStatus lat d v).mem = s.mem := rfl

@[simp] theorem State.settle_nc (s : State) (n j id lat v : Nat) : (s.settle n j id lat v).nc = s.nc := rfl
@[simp] theorem State.settle_turn (s : State) (n j id lat v : Nat) : (s.settle n j id lat v).turn = s.turn := rfl
@[simp] theorem State.settle_curTile (s : State) (n j id lat v : Nat) : (s.settle n j id lat v).curTile = s.curTile := rfl
@[simp] theorem State.settle_curSlot (s : State) (n j id lat v : Nat) : (s.settle n j id lat v).curSlot = s.curSlot := rfl
@[simp] theorem State.settle_focus (s : State) (n j id lat v : Nat) : (s.settle n j id lat v).focus = s.focus := rfl
@[simp] theorem State.settle_served (s : State) (n j id lat v : Nat) : (s.settle n j id lat v).served = s.served := rfl
@[simp] theorem State.settle_picked (s : State) (n j id lat v : Nat) : (s.settle n j id lat v).picked = s.picked := rfl
@[simp] theorem State.settle_fresh (s : State) (n j id lat v : Nat) : (s.settle n j id lat v).fresh = s.fresh := rfl
@[simp] theorem State.settle_nextId (s : State) (n j id lat v : Nat) : (s.settle n j id lat v).nextId = s.nextId := rfl
@[simp] theorem State.settle_stops (s : State) (n j id lat v : Nat) : (s.settle n j id lat v).stops = s.stops := rfl
@[simp] theorem State.settle_dies (s : State) (n j id lat v : Nat) : (s.settle n j id lat v).dies = s.dies := rfl
@[simp] theorem State.settle_chains (s : State) (n j id lat v : Nat) : (s.settle n j id lat v).chains = s.chains := rfl
@[simp] theorem State.settle_dev (s : State) (n j id lat v : Nat) : (s.settle n j id lat v).dev = s.dev := rfl
@[simp] theorem State.settle_mem (s : State) (n j id lat v : Nat) : (s.settle n j id lat v).mem = s.mem := rfl

@[simp] theorem State.take_nc (s : State) : (s.take.2).nc = s.nc := rfl
@[simp] theorem State.take_turn (s : State) : (s.take.2).turn = s.turn := rfl
@[simp] theorem State.take_curTile (s : State) : (s.take.2).curTile = s.curTile := rfl
@[simp] theorem State.take_curSlot (s : State) : (s.take.2).curSlot = s.curSlot := rfl
@[simp] theorem State.take_focus (s : State) : (s.take.2).focus = s.focus := rfl
@[simp] theorem State.take_agenda (s : State) : (s.take.2).agenda = s.agenda := rfl
@[simp] theorem State.take_served (s : State) : (s.take.2).served = s.served := rfl
@[simp] theorem State.take_picked (s : State) : (s.take.2).picked = s.picked := rfl
@[simp] theorem State.take_fresh (s : State) : (s.take.2).fresh = s.fresh := rfl
@[simp] theorem State.take_tiles (s : State) : (s.take.2).tiles = s.tiles := rfl
@[simp] theorem State.take_stops (s : State) : (s.take.2).stops = s.stops := rfl
@[simp] theorem State.take_dies (s : State) : (s.take.2).dies = s.dies := rfl
@[simp] theorem State.take_chains (s : State) : (s.take.2).chains = s.chains := rfl
@[simp] theorem State.take_dev (s : State) : (s.take.2).dev = s.dev := rfl
@[simp] theorem State.take_mem (s : State) : (s.take.2).mem = s.mem := rfl

@[simp] theorem State.draw_nc (s : State) : (s.draw.2).nc = s.nc := rfl
@[simp] theorem State.draw_turn (s : State) : (s.draw.2).turn = s.turn := rfl
@[simp] theorem State.draw_curTile (s : State) : (s.draw.2).curTile = s.curTile := rfl
@[simp] theorem State.draw_curSlot (s : State) : (s.draw.2).curSlot = s.curSlot := rfl
@[simp] theorem State.draw_focus (s : State) : (s.draw.2).focus = s.focus := rfl
@[simp] theorem State.draw_agenda (s : State) : (s.draw.2).agenda = s.agenda := rfl
@[simp] theorem State.draw_served (s : State) : (s.draw.2).served = s.served := rfl
@[simp] theorem State.draw_picked (s : State) : (s.draw.2).picked = s.picked := rfl
@[simp] theorem State.draw_nextId (s : State) : (s.draw.2).nextId = s.nextId := rfl
@[simp] theorem State.draw_tiles (s : State) : (s.draw.2).tiles = s.tiles := rfl
@[simp] theorem State.draw_stops (s : State) : (s.draw.2).stops = s.stops := rfl
@[simp] theorem State.draw_dies (s : State) : (s.draw.2).dies = s.dies := rfl
@[simp] theorem State.draw_chains (s : State) : (s.draw.2).chains = s.chains := rfl
@[simp] theorem State.draw_dev (s : State) : (s.draw.2).dev = s.dev := rfl
@[simp] theorem State.draw_mem (s : State) : (s.draw.2).mem = s.mem := rfl

@[simp] theorem State.drawDelay_nc (s : State) : (s.drawDelay.2).nc = s.nc := rfl
@[simp] theorem State.drawDelay_turn (s : State) : (s.drawDelay.2).turn = s.turn := rfl
@[simp] theorem State.drawDelay_curTile (s : State) : (s.drawDelay.2).curTile = s.curTile := rfl
@[simp] theorem State.drawDelay_curSlot (s : State) : (s.drawDelay.2).curSlot = s.curSlot := rfl
@[simp] theorem State.drawDelay_focus (s : State) : (s.drawDelay.2).focus = s.focus := rfl
@[simp] theorem State.drawDelay_agenda (s : State) : (s.drawDelay.2).agenda = s.agenda := rfl
@[simp] theorem State.drawDelay_served (s : State) : (s.drawDelay.2).served = s.served := rfl
@[simp] theorem State.drawDelay_picked (s : State) : (s.drawDelay.2).picked = s.picked := rfl
@[simp] theorem State.drawDelay_nextId (s : State) : (s.drawDelay.2).nextId = s.nextId := rfl
@[simp] theorem State.drawDelay_tiles (s : State) : (s.drawDelay.2).tiles = s.tiles := rfl
@[simp] theorem State.drawDelay_stops (s : State) : (s.drawDelay.2).stops = s.stops := rfl
@[simp] theorem State.drawDelay_dies (s : State) : (s.drawDelay.2).dies = s.dies := rfl
@[simp] theorem State.drawDelay_chains (s : State) : (s.drawDelay.2).chains = s.chains := rfl
@[simp] theorem State.drawDelay_dev (s : State) : (s.drawDelay.2).dev = s.dev := rfl
@[simp] theorem State.drawDelay_mem (s : State) : (s.drawDelay.2).mem = s.mem := rfl

/-! ### Fields of a tile -/

@[simp] theorem Tile.setJet_inReset (x : Tile) (j : Nat) (v : Jet) : (x.setJet j v).inReset = x.inReset := rfl
@[simp] theorem Tile.setJet_gated (x : Tile) (j : Nat) (v : Jet) : (x.setJet j v).gated = x.gated := rfl
@[simp] theorem Tile.setJet_gatedAt (x : Tile) (j : Nat) (v : Jet) : (x.setJet j v).gatedAt = x.gatedAt := rfl
@[simp] theorem Tile.setJet_waking (x : Tile) (j : Nat) (v : Jet) : (x.setJet j v).waking = x.waking := rfl
@[simp] theorem Tile.setJet_fpten (x : Tile) (j : Nat) (v : Jet) : (x.setJet j v).fpten = x.fpten := rfl
@[simp] theorem Tile.setJet_issuectl (x : Tile) (j : Nat) (v : Jet) : (x.setJet j v).issuectl = x.issuectl := rfl
@[simp] theorem Tile.setJet_stealctl (x : Tile) (j : Nat) (v : Jet) : (x.setJet j v).stealctl = x.stealctl := rfl
@[simp] theorem Tile.setJet_prioage (x : Tile) (j : Nat) (v : Jet) : (x.setJet j v).prioage = x.prioage := rfl
@[simp] theorem Tile.setJet_dqspill (x : Tile) (j : Nat) (v : Jet) : (x.setJet j v).dqspill = x.dqspill := rfl
@[simp] theorem Tile.setJet_dqspillNext (x : Tile) (j : Nat) (v : Jet) : (x.setJet j v).dqspillNext = x.dqspillNext := rfl
@[simp] theorem Tile.setJet_lqmap (x : Tile) (j : Nat) (v : Jet) : (x.setJet j v).lqmap = x.lqmap := rfl
@[simp] theorem Tile.setJet_poolways (x : Tile) (j : Nat) (v : Jet) : (x.setJet j v).poolways = x.poolways := rfl
@[simp] theorem Tile.setJet_stint (x : Tile) (j : Nat) (v : Jet) : (x.setJet j v).stint = x.stint := rfl
@[simp] theorem Tile.setJet_mxFenced (x : Tile) (j : Nat) (v : Jet) : (x.setJet j v).mxFenced = x.mxFenced := rfl
@[simp] theorem Tile.setJet_mxDead (x : Tile) (j : Nat) (v : Jet) : (x.setJet j v).mxDead = x.mxDead := rfl
@[simp] theorem Tile.setJet_capkey (x : Tile) (j : Nat) (v : Jet) : (x.setJet j v).capkey = x.capkey := rfl
@[simp] theorem Tile.setJet_savectl (x : Tile) (j : Nat) (v : Jet) : (x.setJet j v).savectl = x.savectl := rfl
@[simp] theorem Tile.setJet_savectlNext (x : Tile) (j : Nat) (v : Jet) : (x.setJet j v).savectlNext = x.savectlNext := rfl
@[simp] theorem Tile.setJet_slotSeq (x : Tile) (j : Nat) (v : Jet) : (x.setJet j v).slotSeq = x.slotSeq := rfl
@[simp] theorem Tile.setJet_heldSlots (x : Tile) (j : Nat) (v : Jet) : (x.setJet j v).heldSlots = x.heldSlots := rfl
@[simp] theorem Tile.setJet_limbo (x : Tile) (j : Nat) (v : Jet) : (x.setJet j v).limbo = x.limbo := rfl
@[simp] theorem Tile.setJet_last (x : Tile) (j : Nat) (v : Jet) : (x.setJet j v).last = x.last := rfl
@[simp] theorem Tile.setJet_ready (x : Tile) (j : Nat) (v : Jet) : (x.setJet j v).ready = x.ready := rfl
@[simp] theorem Tile.setJet_reserver (x : Tile) (j : Nat) (v : Jet) : (x.setJet j v).reserver = x.reserver := rfl
@[simp] theorem Tile.setJet_reserved (x : Tile) (j : Nat) (v : Jet) : (x.setJet j v).reserved = x.reserved := rfl
@[simp] theorem Tile.setJet_resOrder (x : Tile) (j : Nat) (v : Jet) : (x.setJet j v).resOrder = x.resOrder := rfl
@[simp] theorem Tile.setJet_saves (x : Tile) (j : Nat) (v : Jet) : (x.setJet j v).saves = x.saves := rfl
@[simp] theorem Tile.setJet_preempting (x : Tile) (j : Nat) (v : Jet) : (x.setJet j v).preempting = x.preempting := rfl
@[simp] theorem Tile.setJet_weir (x : Tile) (j : Nat) (v : Jet) : (x.setJet j v).weir = x.weir := rfl
@[simp] theorem Tile.setJet_deque (x : Tile) (j : Nat) (v : Jet) : (x.setJet j v).deque = x.deque := rfl
@[simp] theorem Tile.setJet_spilledTasks (x : Tile) (j : Nat) (v : Jet) : (x.setJet j v).spilledTasks = x.spilledTasks := rfl
@[simp] theorem Tile.setJet_spillHead (x : Tile) (j : Nat) (v : Jet) : (x.setJet j v).spillHead = x.spillHead := rfl
@[simp] theorem Tile.setJet_lastVictim (x : Tile) (j : Nat) (v : Jet) : (x.setJet j v).lastVictim = x.lastVictim := rfl
@[simp] theorem Tile.setJet_increments (x : Tile) (j : Nat) (v : Jet) : (x.setJet j v).increments = x.increments := rfl
@[simp] theorem Tile.setJet_lastWrites (x : Tile) (j : Nat) (v : Jet) : (x.setJet j v).lastWrites = x.lastWrites := rfl
@[simp] theorem Tile.setJet_tables (x : Tile) (j : Nat) (v : Jet) : (x.setJet j v).tables = x.tables := rfl
@[simp] theorem Tile.setJet_l1At (x : Tile) (j : Nat) (v : Jet) : (x.setJet j v).l1At = x.l1At := rfl
@[simp] theorem Tile.setJet_thirst (x : Tile) (j : Nat) (v : Jet) : (x.setJet j v).thirst = x.thirst := rfl
@[simp] theorem Tile.setJet_backoff (x : Tile) (j : Nat) (v : Jet) : (x.setJet j v).backoff = x.backoff := rfl
@[simp] theorem Tile.setJet_refused (x : Tile) (j : Nat) (v : Jet) : (x.setJet j v).refused = x.refused := rfl
@[simp] theorem Tile.setJet_workIn (x : Tile) (j : Nat) (v : Jet) : (x.setJet j v).workIn = x.workIn := rfl
@[simp] theorem Tile.setJet_workOut (x : Tile) (j : Nat) (v : Jet) : (x.setJet j v).workOut = x.workOut := rfl
@[simp] theorem Tile.setJet_pieces (x : Tile) (j : Nat) (v : Jet) : (x.setJet j v).pieces = x.pieces := rfl
@[simp] theorem Tile.setJet_trackers (x : Tile) (j : Nat) (v : Jet) : (x.setJet j v).trackers = x.trackers := rfl
@[simp] theorem Tile.setJet_lqSeq (x : Tile) (j : Nat) (v : Jet) : (x.setJet j v).lqSeq = x.lqSeq := rfl
@[simp] theorem Tile.setJet_lqOpen (x : Tile) (j : Nat) (v : Jet) : (x.setJet j v).lqOpen = x.lqOpen := rfl
@[simp] theorem Tile.setJet_huskSet (x : Tile) (j : Nat) (v : Jet) : (x.setJet j v).huskSet = x.huskSet := rfl
@[simp] theorem Tile.setJet_huskMore (x : Tile) (j : Nat) (v : Jet) : (x.setJet j v).huskMore = x.huskMore := rfl
@[simp] theorem Tile.setJet_pool (x : Tile) (j : Nat) (v : Jet) : (x.setJet j v).pool = x.pool := rfl
@[simp] theorem Tile.setJet_guards (x : Tile) (j : Nat) (v : Jet) : (x.setJet j v).guards = x.guards := rfl
@[simp] theorem Tile.setJet_heldWrites (x : Tile) (j : Nat) (v : Jet) : (x.setJet j v).heldWrites = x.heldWrites := rfl
@[simp] theorem Tile.setJet_stashMaps (x : Tile) (j : Nat) (v : Jet) : (x.setJet j v).stashMaps = x.stashMaps := rfl
@[simp] theorem Tile.setJet_stash (x : Tile) (j : Nat) (v : Jet) : (x.setJet j v).stash = x.stash := rfl
@[simp] theorem Tile.setJet_l1 (x : Tile) (j : Nat) (v : Jet) : (x.setJet j v).l1 = x.l1 := rfl
@[simp] theorem Tile.setJet_wc (x : Tile) (j : Nat) (v : Jet) : (x.setJet j v).wc = x.wc := rfl
@[simp] theorem Tile.setJet_unacked (x : Tile) (j : Nat) (v : Jet) : (x.setJet j v).unacked = x.unacked := rfl
@[simp] theorem Tile.setJet_tlb (x : Tile) (j : Nat) (v : Jet) : (x.setJet j v).tlb = x.tlb := rfl
@[simp] theorem Tile.setJet_icache (x : Tile) (j : Nat) (v : Jet) : (x.setJet j v).icache = x.icache := rfl
@[simp] theorem Tile.setJet_ifetch (x : Tile) (j : Nat) (v : Jet) : (x.setJet j v).ifetch = x.ifetch := rfl
@[simp] theorem Tile.setJet_acc (x : Tile) (j : Nat) (v : Jet) : (x.setJet j v).acc = x.acc := rfl
@[simp] theorem Tile.setJet_nests (x : Tile) (j : Nat) (v : Jet) : (x.setJet j v).nests = x.nests := rfl
@[simp] theorem Tile.setJet_fences (x : Tile) (j : Nat) (v : Jet) : (x.setJet j v).fences = x.fences := rfl
@[simp] theorem Tile.setJet_poolIn (x : Tile) (j : Nat) (v : Jet) : (x.setJet j v).poolIn = x.poolIn := rfl
@[simp] theorem Tile.setJet_divBusy (x : Tile) (j : Nat) (v : Jet) : (x.setJet j v).divBusy = x.divBusy := rfl
@[simp] theorem Tile.setJet_fdivBusy (x : Tile) (j : Nat) (v : Jet) : (x.setJet j v).fdivBusy = x.fdivBusy := rfl
@[simp] theorem Tile.setJet_laneBusy (x : Tile) (j : Nat) (v : Jet) : (x.setJet j v).laneBusy = x.laneBusy := rfl
@[simp] theorem Tile.setJet_templates (x : Tile) (j : Nat) (v : Jet) : (x.setJet j v).templates = x.templates := rfl
@[simp] theorem Tile.setJet_chans (x : Tile) (j : Nat) (v : Jet) : (x.setJet j v).chans = x.chans := rfl
@[simp] theorem Tile.setJet_copyQ (x : Tile) (j : Nat) (v : Jet) : (x.setJet j v).copyQ = x.copyQ := rfl
@[simp] theorem Tile.setJet_subs (x : Tile) (j : Nat) (v : Jet) : (x.setJet j v).subs = x.subs := rfl
@[simp] theorem Tile.setJet_mcWait (x : Tile) (j : Nat) (v : Jet) : (x.setJet j v).mcWait = x.mcWait := rfl
@[simp] theorem Tile.setJet_mx (x : Tile) (j : Nat) (v : Jet) : (x.setJet j v).mx = x.mx := rfl
@[simp] theorem Tile.setJet_addws (x : Tile) (j : Nat) (v : Jet) : (x.setJet j v).addws = x.addws := rfl
@[simp] theorem Tile.setJet_wayPend (x : Tile) (j : Nat) (v : Jet) : (x.setJet j v).wayPend = x.wayPend := rfl
@[simp] theorem Tile.setJet_mergeLeaves (x : Tile) (j : Nat) (v : Jet) : (x.setJet j v).mergeLeaves = x.mergeLeaves := rfl
@[simp] theorem Tile.setJet_gangs (x : Tile) (j : Nat) (v : Jet) : (x.setJet j v).gangs = x.gangs := rfl
@[simp] theorem Tile.setJet_fenced (x : Tile) (j : Nat) (v : Jet) : (x.setJet j v).fenced = x.fenced := rfl
@[simp] theorem Tile.setJet_poison (x : Tile) (j : Nat) (v : Jet) : (x.setJet j v).poison = x.poison := rfl

@[simp] theorem Tile.modJet_inReset (x : Tile) (j : Nat) (f : Jet → Jet) : (x.modJet j f).inReset = x.inReset := rfl
@[simp] theorem Tile.modJet_gated (x : Tile) (j : Nat) (f : Jet → Jet) : (x.modJet j f).gated = x.gated := rfl
@[simp] theorem Tile.modJet_gatedAt (x : Tile) (j : Nat) (f : Jet → Jet) : (x.modJet j f).gatedAt = x.gatedAt := rfl
@[simp] theorem Tile.modJet_waking (x : Tile) (j : Nat) (f : Jet → Jet) : (x.modJet j f).waking = x.waking := rfl
@[simp] theorem Tile.modJet_fpten (x : Tile) (j : Nat) (f : Jet → Jet) : (x.modJet j f).fpten = x.fpten := rfl
@[simp] theorem Tile.modJet_issuectl (x : Tile) (j : Nat) (f : Jet → Jet) : (x.modJet j f).issuectl = x.issuectl := rfl
@[simp] theorem Tile.modJet_stealctl (x : Tile) (j : Nat) (f : Jet → Jet) : (x.modJet j f).stealctl = x.stealctl := rfl
@[simp] theorem Tile.modJet_prioage (x : Tile) (j : Nat) (f : Jet → Jet) : (x.modJet j f).prioage = x.prioage := rfl
@[simp] theorem Tile.modJet_dqspill (x : Tile) (j : Nat) (f : Jet → Jet) : (x.modJet j f).dqspill = x.dqspill := rfl
@[simp] theorem Tile.modJet_dqspillNext (x : Tile) (j : Nat) (f : Jet → Jet) : (x.modJet j f).dqspillNext = x.dqspillNext := rfl
@[simp] theorem Tile.modJet_lqmap (x : Tile) (j : Nat) (f : Jet → Jet) : (x.modJet j f).lqmap = x.lqmap := rfl
@[simp] theorem Tile.modJet_poolways (x : Tile) (j : Nat) (f : Jet → Jet) : (x.modJet j f).poolways = x.poolways := rfl
@[simp] theorem Tile.modJet_stint (x : Tile) (j : Nat) (f : Jet → Jet) : (x.modJet j f).stint = x.stint := rfl
@[simp] theorem Tile.modJet_mxFenced (x : Tile) (j : Nat) (f : Jet → Jet) : (x.modJet j f).mxFenced = x.mxFenced := rfl
@[simp] theorem Tile.modJet_mxDead (x : Tile) (j : Nat) (f : Jet → Jet) : (x.modJet j f).mxDead = x.mxDead := rfl
@[simp] theorem Tile.modJet_capkey (x : Tile) (j : Nat) (f : Jet → Jet) : (x.modJet j f).capkey = x.capkey := rfl
@[simp] theorem Tile.modJet_savectl (x : Tile) (j : Nat) (f : Jet → Jet) : (x.modJet j f).savectl = x.savectl := rfl
@[simp] theorem Tile.modJet_savectlNext (x : Tile) (j : Nat) (f : Jet → Jet) : (x.modJet j f).savectlNext = x.savectlNext := rfl
@[simp] theorem Tile.modJet_slotSeq (x : Tile) (j : Nat) (f : Jet → Jet) : (x.modJet j f).slotSeq = x.slotSeq := rfl
@[simp] theorem Tile.modJet_heldSlots (x : Tile) (j : Nat) (f : Jet → Jet) : (x.modJet j f).heldSlots = x.heldSlots := rfl
@[simp] theorem Tile.modJet_limbo (x : Tile) (j : Nat) (f : Jet → Jet) : (x.modJet j f).limbo = x.limbo := rfl
@[simp] theorem Tile.modJet_last (x : Tile) (j : Nat) (f : Jet → Jet) : (x.modJet j f).last = x.last := rfl
@[simp] theorem Tile.modJet_ready (x : Tile) (j : Nat) (f : Jet → Jet) : (x.modJet j f).ready = x.ready := rfl
@[simp] theorem Tile.modJet_reserver (x : Tile) (j : Nat) (f : Jet → Jet) : (x.modJet j f).reserver = x.reserver := rfl
@[simp] theorem Tile.modJet_reserved (x : Tile) (j : Nat) (f : Jet → Jet) : (x.modJet j f).reserved = x.reserved := rfl
@[simp] theorem Tile.modJet_resOrder (x : Tile) (j : Nat) (f : Jet → Jet) : (x.modJet j f).resOrder = x.resOrder := rfl
@[simp] theorem Tile.modJet_saves (x : Tile) (j : Nat) (f : Jet → Jet) : (x.modJet j f).saves = x.saves := rfl
@[simp] theorem Tile.modJet_preempting (x : Tile) (j : Nat) (f : Jet → Jet) : (x.modJet j f).preempting = x.preempting := rfl
@[simp] theorem Tile.modJet_weir (x : Tile) (j : Nat) (f : Jet → Jet) : (x.modJet j f).weir = x.weir := rfl
@[simp] theorem Tile.modJet_deque (x : Tile) (j : Nat) (f : Jet → Jet) : (x.modJet j f).deque = x.deque := rfl
@[simp] theorem Tile.modJet_spilledTasks (x : Tile) (j : Nat) (f : Jet → Jet) : (x.modJet j f).spilledTasks = x.spilledTasks := rfl
@[simp] theorem Tile.modJet_spillHead (x : Tile) (j : Nat) (f : Jet → Jet) : (x.modJet j f).spillHead = x.spillHead := rfl
@[simp] theorem Tile.modJet_lastVictim (x : Tile) (j : Nat) (f : Jet → Jet) : (x.modJet j f).lastVictim = x.lastVictim := rfl
@[simp] theorem Tile.modJet_increments (x : Tile) (j : Nat) (f : Jet → Jet) : (x.modJet j f).increments = x.increments := rfl
@[simp] theorem Tile.modJet_lastWrites (x : Tile) (j : Nat) (f : Jet → Jet) : (x.modJet j f).lastWrites = x.lastWrites := rfl
@[simp] theorem Tile.modJet_tables (x : Tile) (j : Nat) (f : Jet → Jet) : (x.modJet j f).tables = x.tables := rfl
@[simp] theorem Tile.modJet_l1At (x : Tile) (j : Nat) (f : Jet → Jet) : (x.modJet j f).l1At = x.l1At := rfl
@[simp] theorem Tile.modJet_thirst (x : Tile) (j : Nat) (f : Jet → Jet) : (x.modJet j f).thirst = x.thirst := rfl
@[simp] theorem Tile.modJet_backoff (x : Tile) (j : Nat) (f : Jet → Jet) : (x.modJet j f).backoff = x.backoff := rfl
@[simp] theorem Tile.modJet_refused (x : Tile) (j : Nat) (f : Jet → Jet) : (x.modJet j f).refused = x.refused := rfl
@[simp] theorem Tile.modJet_workIn (x : Tile) (j : Nat) (f : Jet → Jet) : (x.modJet j f).workIn = x.workIn := rfl
@[simp] theorem Tile.modJet_workOut (x : Tile) (j : Nat) (f : Jet → Jet) : (x.modJet j f).workOut = x.workOut := rfl
@[simp] theorem Tile.modJet_pieces (x : Tile) (j : Nat) (f : Jet → Jet) : (x.modJet j f).pieces = x.pieces := rfl
@[simp] theorem Tile.modJet_trackers (x : Tile) (j : Nat) (f : Jet → Jet) : (x.modJet j f).trackers = x.trackers := rfl
@[simp] theorem Tile.modJet_lqSeq (x : Tile) (j : Nat) (f : Jet → Jet) : (x.modJet j f).lqSeq = x.lqSeq := rfl
@[simp] theorem Tile.modJet_lqOpen (x : Tile) (j : Nat) (f : Jet → Jet) : (x.modJet j f).lqOpen = x.lqOpen := rfl
@[simp] theorem Tile.modJet_huskSet (x : Tile) (j : Nat) (f : Jet → Jet) : (x.modJet j f).huskSet = x.huskSet := rfl
@[simp] theorem Tile.modJet_huskMore (x : Tile) (j : Nat) (f : Jet → Jet) : (x.modJet j f).huskMore = x.huskMore := rfl
@[simp] theorem Tile.modJet_pool (x : Tile) (j : Nat) (f : Jet → Jet) : (x.modJet j f).pool = x.pool := rfl
@[simp] theorem Tile.modJet_guards (x : Tile) (j : Nat) (f : Jet → Jet) : (x.modJet j f).guards = x.guards := rfl
@[simp] theorem Tile.modJet_heldWrites (x : Tile) (j : Nat) (f : Jet → Jet) : (x.modJet j f).heldWrites = x.heldWrites := rfl
@[simp] theorem Tile.modJet_stashMaps (x : Tile) (j : Nat) (f : Jet → Jet) : (x.modJet j f).stashMaps = x.stashMaps := rfl
@[simp] theorem Tile.modJet_stash (x : Tile) (j : Nat) (f : Jet → Jet) : (x.modJet j f).stash = x.stash := rfl
@[simp] theorem Tile.modJet_l1 (x : Tile) (j : Nat) (f : Jet → Jet) : (x.modJet j f).l1 = x.l1 := rfl
@[simp] theorem Tile.modJet_wc (x : Tile) (j : Nat) (f : Jet → Jet) : (x.modJet j f).wc = x.wc := rfl
@[simp] theorem Tile.modJet_unacked (x : Tile) (j : Nat) (f : Jet → Jet) : (x.modJet j f).unacked = x.unacked := rfl
@[simp] theorem Tile.modJet_tlb (x : Tile) (j : Nat) (f : Jet → Jet) : (x.modJet j f).tlb = x.tlb := rfl
@[simp] theorem Tile.modJet_icache (x : Tile) (j : Nat) (f : Jet → Jet) : (x.modJet j f).icache = x.icache := rfl
@[simp] theorem Tile.modJet_ifetch (x : Tile) (j : Nat) (f : Jet → Jet) : (x.modJet j f).ifetch = x.ifetch := rfl
@[simp] theorem Tile.modJet_acc (x : Tile) (j : Nat) (f : Jet → Jet) : (x.modJet j f).acc = x.acc := rfl
@[simp] theorem Tile.modJet_nests (x : Tile) (j : Nat) (f : Jet → Jet) : (x.modJet j f).nests = x.nests := rfl
@[simp] theorem Tile.modJet_fences (x : Tile) (j : Nat) (f : Jet → Jet) : (x.modJet j f).fences = x.fences := rfl
@[simp] theorem Tile.modJet_poolIn (x : Tile) (j : Nat) (f : Jet → Jet) : (x.modJet j f).poolIn = x.poolIn := rfl
@[simp] theorem Tile.modJet_divBusy (x : Tile) (j : Nat) (f : Jet → Jet) : (x.modJet j f).divBusy = x.divBusy := rfl
@[simp] theorem Tile.modJet_fdivBusy (x : Tile) (j : Nat) (f : Jet → Jet) : (x.modJet j f).fdivBusy = x.fdivBusy := rfl
@[simp] theorem Tile.modJet_laneBusy (x : Tile) (j : Nat) (f : Jet → Jet) : (x.modJet j f).laneBusy = x.laneBusy := rfl
@[simp] theorem Tile.modJet_templates (x : Tile) (j : Nat) (f : Jet → Jet) : (x.modJet j f).templates = x.templates := rfl
@[simp] theorem Tile.modJet_chans (x : Tile) (j : Nat) (f : Jet → Jet) : (x.modJet j f).chans = x.chans := rfl
@[simp] theorem Tile.modJet_copyQ (x : Tile) (j : Nat) (f : Jet → Jet) : (x.modJet j f).copyQ = x.copyQ := rfl
@[simp] theorem Tile.modJet_subs (x : Tile) (j : Nat) (f : Jet → Jet) : (x.modJet j f).subs = x.subs := rfl
@[simp] theorem Tile.modJet_mcWait (x : Tile) (j : Nat) (f : Jet → Jet) : (x.modJet j f).mcWait = x.mcWait := rfl
@[simp] theorem Tile.modJet_mx (x : Tile) (j : Nat) (f : Jet → Jet) : (x.modJet j f).mx = x.mx := rfl
@[simp] theorem Tile.modJet_addws (x : Tile) (j : Nat) (f : Jet → Jet) : (x.modJet j f).addws = x.addws := rfl
@[simp] theorem Tile.modJet_wayPend (x : Tile) (j : Nat) (f : Jet → Jet) : (x.modJet j f).wayPend = x.wayPend := rfl
@[simp] theorem Tile.modJet_mergeLeaves (x : Tile) (j : Nat) (f : Jet → Jet) : (x.modJet j f).mergeLeaves = x.mergeLeaves := rfl
@[simp] theorem Tile.modJet_gangs (x : Tile) (j : Nat) (f : Jet → Jet) : (x.modJet j f).gangs = x.gangs := rfl
@[simp] theorem Tile.modJet_fenced (x : Tile) (j : Nat) (f : Jet → Jet) : (x.modJet j f).fenced = x.fenced := rfl
@[simp] theorem Tile.modJet_poison (x : Tile) (j : Nat) (f : Jet → Jet) : (x.modJet j f).poison = x.poison := rfl

@[simp] theorem Tile.modChan_inReset (x : Tile) (c : Nat) (f : Channel → Channel) : (x.modChan c f).inReset = x.inReset := rfl
@[simp] theorem Tile.modChan_gated (x : Tile) (c : Nat) (f : Channel → Channel) : (x.modChan c f).gated = x.gated := rfl
@[simp] theorem Tile.modChan_gatedAt (x : Tile) (c : Nat) (f : Channel → Channel) : (x.modChan c f).gatedAt = x.gatedAt := rfl
@[simp] theorem Tile.modChan_waking (x : Tile) (c : Nat) (f : Channel → Channel) : (x.modChan c f).waking = x.waking := rfl
@[simp] theorem Tile.modChan_fpten (x : Tile) (c : Nat) (f : Channel → Channel) : (x.modChan c f).fpten = x.fpten := rfl
@[simp] theorem Tile.modChan_issuectl (x : Tile) (c : Nat) (f : Channel → Channel) : (x.modChan c f).issuectl = x.issuectl := rfl
@[simp] theorem Tile.modChan_stealctl (x : Tile) (c : Nat) (f : Channel → Channel) : (x.modChan c f).stealctl = x.stealctl := rfl
@[simp] theorem Tile.modChan_prioage (x : Tile) (c : Nat) (f : Channel → Channel) : (x.modChan c f).prioage = x.prioage := rfl
@[simp] theorem Tile.modChan_dqspill (x : Tile) (c : Nat) (f : Channel → Channel) : (x.modChan c f).dqspill = x.dqspill := rfl
@[simp] theorem Tile.modChan_dqspillNext (x : Tile) (c : Nat) (f : Channel → Channel) : (x.modChan c f).dqspillNext = x.dqspillNext := rfl
@[simp] theorem Tile.modChan_lqmap (x : Tile) (c : Nat) (f : Channel → Channel) : (x.modChan c f).lqmap = x.lqmap := rfl
@[simp] theorem Tile.modChan_poolways (x : Tile) (c : Nat) (f : Channel → Channel) : (x.modChan c f).poolways = x.poolways := rfl
@[simp] theorem Tile.modChan_stint (x : Tile) (c : Nat) (f : Channel → Channel) : (x.modChan c f).stint = x.stint := rfl
@[simp] theorem Tile.modChan_mxFenced (x : Tile) (c : Nat) (f : Channel → Channel) : (x.modChan c f).mxFenced = x.mxFenced := rfl
@[simp] theorem Tile.modChan_mxDead (x : Tile) (c : Nat) (f : Channel → Channel) : (x.modChan c f).mxDead = x.mxDead := rfl
@[simp] theorem Tile.modChan_capkey (x : Tile) (c : Nat) (f : Channel → Channel) : (x.modChan c f).capkey = x.capkey := rfl
@[simp] theorem Tile.modChan_savectl (x : Tile) (c : Nat) (f : Channel → Channel) : (x.modChan c f).savectl = x.savectl := rfl
@[simp] theorem Tile.modChan_savectlNext (x : Tile) (c : Nat) (f : Channel → Channel) : (x.modChan c f).savectlNext = x.savectlNext := rfl
@[simp] theorem Tile.modChan_jets (x : Tile) (c : Nat) (f : Channel → Channel) : (x.modChan c f).jets = x.jets := rfl
@[simp] theorem Tile.modChan_slotSeq (x : Tile) (c : Nat) (f : Channel → Channel) : (x.modChan c f).slotSeq = x.slotSeq := rfl
@[simp] theorem Tile.modChan_heldSlots (x : Tile) (c : Nat) (f : Channel → Channel) : (x.modChan c f).heldSlots = x.heldSlots := rfl
@[simp] theorem Tile.modChan_limbo (x : Tile) (c : Nat) (f : Channel → Channel) : (x.modChan c f).limbo = x.limbo := rfl
@[simp] theorem Tile.modChan_last (x : Tile) (c : Nat) (f : Channel → Channel) : (x.modChan c f).last = x.last := rfl
@[simp] theorem Tile.modChan_ready (x : Tile) (c : Nat) (f : Channel → Channel) : (x.modChan c f).ready = x.ready := rfl
@[simp] theorem Tile.modChan_reserver (x : Tile) (c : Nat) (f : Channel → Channel) : (x.modChan c f).reserver = x.reserver := rfl
@[simp] theorem Tile.modChan_reserved (x : Tile) (c : Nat) (f : Channel → Channel) : (x.modChan c f).reserved = x.reserved := rfl
@[simp] theorem Tile.modChan_resOrder (x : Tile) (c : Nat) (f : Channel → Channel) : (x.modChan c f).resOrder = x.resOrder := rfl
@[simp] theorem Tile.modChan_saves (x : Tile) (c : Nat) (f : Channel → Channel) : (x.modChan c f).saves = x.saves := rfl
@[simp] theorem Tile.modChan_preempting (x : Tile) (c : Nat) (f : Channel → Channel) : (x.modChan c f).preempting = x.preempting := rfl
@[simp] theorem Tile.modChan_weir (x : Tile) (c : Nat) (f : Channel → Channel) : (x.modChan c f).weir = x.weir := rfl
@[simp] theorem Tile.modChan_deque (x : Tile) (c : Nat) (f : Channel → Channel) : (x.modChan c f).deque = x.deque := rfl
@[simp] theorem Tile.modChan_spilledTasks (x : Tile) (c : Nat) (f : Channel → Channel) : (x.modChan c f).spilledTasks = x.spilledTasks := rfl
@[simp] theorem Tile.modChan_spillHead (x : Tile) (c : Nat) (f : Channel → Channel) : (x.modChan c f).spillHead = x.spillHead := rfl
@[simp] theorem Tile.modChan_lastVictim (x : Tile) (c : Nat) (f : Channel → Channel) : (x.modChan c f).lastVictim = x.lastVictim := rfl
@[simp] theorem Tile.modChan_increments (x : Tile) (c : Nat) (f : Channel → Channel) : (x.modChan c f).increments = x.increments := rfl
@[simp] theorem Tile.modChan_lastWrites (x : Tile) (c : Nat) (f : Channel → Channel) : (x.modChan c f).lastWrites = x.lastWrites := rfl
@[simp] theorem Tile.modChan_tables (x : Tile) (c : Nat) (f : Channel → Channel) : (x.modChan c f).tables = x.tables := rfl
@[simp] theorem Tile.modChan_l1At (x : Tile) (c : Nat) (f : Channel → Channel) : (x.modChan c f).l1At = x.l1At := rfl
@[simp] theorem Tile.modChan_thirst (x : Tile) (c : Nat) (f : Channel → Channel) : (x.modChan c f).thirst = x.thirst := rfl
@[simp] theorem Tile.modChan_backoff (x : Tile) (c : Nat) (f : Channel → Channel) : (x.modChan c f).backoff = x.backoff := rfl
@[simp] theorem Tile.modChan_refused (x : Tile) (c : Nat) (f : Channel → Channel) : (x.modChan c f).refused = x.refused := rfl
@[simp] theorem Tile.modChan_workIn (x : Tile) (c : Nat) (f : Channel → Channel) : (x.modChan c f).workIn = x.workIn := rfl
@[simp] theorem Tile.modChan_workOut (x : Tile) (c : Nat) (f : Channel → Channel) : (x.modChan c f).workOut = x.workOut := rfl
@[simp] theorem Tile.modChan_pieces (x : Tile) (c : Nat) (f : Channel → Channel) : (x.modChan c f).pieces = x.pieces := rfl
@[simp] theorem Tile.modChan_trackers (x : Tile) (c : Nat) (f : Channel → Channel) : (x.modChan c f).trackers = x.trackers := rfl
@[simp] theorem Tile.modChan_lqSeq (x : Tile) (c : Nat) (f : Channel → Channel) : (x.modChan c f).lqSeq = x.lqSeq := rfl
@[simp] theorem Tile.modChan_lqOpen (x : Tile) (c : Nat) (f : Channel → Channel) : (x.modChan c f).lqOpen = x.lqOpen := rfl
@[simp] theorem Tile.modChan_huskSet (x : Tile) (c : Nat) (f : Channel → Channel) : (x.modChan c f).huskSet = x.huskSet := rfl
@[simp] theorem Tile.modChan_huskMore (x : Tile) (c : Nat) (f : Channel → Channel) : (x.modChan c f).huskMore = x.huskMore := rfl
@[simp] theorem Tile.modChan_pool (x : Tile) (c : Nat) (f : Channel → Channel) : (x.modChan c f).pool = x.pool := rfl
@[simp] theorem Tile.modChan_guards (x : Tile) (c : Nat) (f : Channel → Channel) : (x.modChan c f).guards = x.guards := rfl
@[simp] theorem Tile.modChan_heldWrites (x : Tile) (c : Nat) (f : Channel → Channel) : (x.modChan c f).heldWrites = x.heldWrites := rfl
@[simp] theorem Tile.modChan_stashMaps (x : Tile) (c : Nat) (f : Channel → Channel) : (x.modChan c f).stashMaps = x.stashMaps := rfl
@[simp] theorem Tile.modChan_stash (x : Tile) (c : Nat) (f : Channel → Channel) : (x.modChan c f).stash = x.stash := rfl
@[simp] theorem Tile.modChan_l1 (x : Tile) (c : Nat) (f : Channel → Channel) : (x.modChan c f).l1 = x.l1 := rfl
@[simp] theorem Tile.modChan_wc (x : Tile) (c : Nat) (f : Channel → Channel) : (x.modChan c f).wc = x.wc := rfl
@[simp] theorem Tile.modChan_unacked (x : Tile) (c : Nat) (f : Channel → Channel) : (x.modChan c f).unacked = x.unacked := rfl
@[simp] theorem Tile.modChan_tlb (x : Tile) (c : Nat) (f : Channel → Channel) : (x.modChan c f).tlb = x.tlb := rfl
@[simp] theorem Tile.modChan_icache (x : Tile) (c : Nat) (f : Channel → Channel) : (x.modChan c f).icache = x.icache := rfl
@[simp] theorem Tile.modChan_ifetch (x : Tile) (c : Nat) (f : Channel → Channel) : (x.modChan c f).ifetch = x.ifetch := rfl
@[simp] theorem Tile.modChan_acc (x : Tile) (c : Nat) (f : Channel → Channel) : (x.modChan c f).acc = x.acc := rfl
@[simp] theorem Tile.modChan_nests (x : Tile) (c : Nat) (f : Channel → Channel) : (x.modChan c f).nests = x.nests := rfl
@[simp] theorem Tile.modChan_fences (x : Tile) (c : Nat) (f : Channel → Channel) : (x.modChan c f).fences = x.fences := rfl
@[simp] theorem Tile.modChan_poolIn (x : Tile) (c : Nat) (f : Channel → Channel) : (x.modChan c f).poolIn = x.poolIn := rfl
@[simp] theorem Tile.modChan_divBusy (x : Tile) (c : Nat) (f : Channel → Channel) : (x.modChan c f).divBusy = x.divBusy := rfl
@[simp] theorem Tile.modChan_fdivBusy (x : Tile) (c : Nat) (f : Channel → Channel) : (x.modChan c f).fdivBusy = x.fdivBusy := rfl
@[simp] theorem Tile.modChan_laneBusy (x : Tile) (c : Nat) (f : Channel → Channel) : (x.modChan c f).laneBusy = x.laneBusy := rfl
@[simp] theorem Tile.modChan_templates (x : Tile) (c : Nat) (f : Channel → Channel) : (x.modChan c f).templates = x.templates := rfl
@[simp] theorem Tile.modChan_copyQ (x : Tile) (c : Nat) (f : Channel → Channel) : (x.modChan c f).copyQ = x.copyQ := rfl
@[simp] theorem Tile.modChan_subs (x : Tile) (c : Nat) (f : Channel → Channel) : (x.modChan c f).subs = x.subs := rfl
@[simp] theorem Tile.modChan_mcWait (x : Tile) (c : Nat) (f : Channel → Channel) : (x.modChan c f).mcWait = x.mcWait := rfl
@[simp] theorem Tile.modChan_mx (x : Tile) (c : Nat) (f : Channel → Channel) : (x.modChan c f).mx = x.mx := rfl
@[simp] theorem Tile.modChan_addws (x : Tile) (c : Nat) (f : Channel → Channel) : (x.modChan c f).addws = x.addws := rfl
@[simp] theorem Tile.modChan_wayPend (x : Tile) (c : Nat) (f : Channel → Channel) : (x.modChan c f).wayPend = x.wayPend := rfl
@[simp] theorem Tile.modChan_mergeLeaves (x : Tile) (c : Nat) (f : Channel → Channel) : (x.modChan c f).mergeLeaves = x.mergeLeaves := rfl
@[simp] theorem Tile.modChan_gangs (x : Tile) (c : Nat) (f : Channel → Channel) : (x.modChan c f).gangs = x.gangs := rfl
@[simp] theorem Tile.modChan_fenced (x : Tile) (c : Nat) (f : Channel → Channel) : (x.modChan c f).fenced = x.fenced := rfl
@[simp] theorem Tile.modChan_poison (x : Tile) (c : Nat) (f : Channel → Channel) : (x.modChan c f).poison = x.poison := rfl

@[simp] theorem Tile.modWeir_inReset (x : Tile) (f : Weir → Weir) : (x.modWeir f).inReset = x.inReset := rfl
@[simp] theorem Tile.modWeir_gated (x : Tile) (f : Weir → Weir) : (x.modWeir f).gated = x.gated := rfl
@[simp] theorem Tile.modWeir_gatedAt (x : Tile) (f : Weir → Weir) : (x.modWeir f).gatedAt = x.gatedAt := rfl
@[simp] theorem Tile.modWeir_waking (x : Tile) (f : Weir → Weir) : (x.modWeir f).waking = x.waking := rfl
@[simp] theorem Tile.modWeir_fpten (x : Tile) (f : Weir → Weir) : (x.modWeir f).fpten = x.fpten := rfl
@[simp] theorem Tile.modWeir_issuectl (x : Tile) (f : Weir → Weir) : (x.modWeir f).issuectl = x.issuectl := rfl
@[simp] theorem Tile.modWeir_stealctl (x : Tile) (f : Weir → Weir) : (x.modWeir f).stealctl = x.stealctl := rfl
@[simp] theorem Tile.modWeir_prioage (x : Tile) (f : Weir → Weir) : (x.modWeir f).prioage = x.prioage := rfl
@[simp] theorem Tile.modWeir_dqspill (x : Tile) (f : Weir → Weir) : (x.modWeir f).dqspill = x.dqspill := rfl
@[simp] theorem Tile.modWeir_dqspillNext (x : Tile) (f : Weir → Weir) : (x.modWeir f).dqspillNext = x.dqspillNext := rfl
@[simp] theorem Tile.modWeir_lqmap (x : Tile) (f : Weir → Weir) : (x.modWeir f).lqmap = x.lqmap := rfl
@[simp] theorem Tile.modWeir_poolways (x : Tile) (f : Weir → Weir) : (x.modWeir f).poolways = x.poolways := rfl
@[simp] theorem Tile.modWeir_stint (x : Tile) (f : Weir → Weir) : (x.modWeir f).stint = x.stint := rfl
@[simp] theorem Tile.modWeir_mxFenced (x : Tile) (f : Weir → Weir) : (x.modWeir f).mxFenced = x.mxFenced := rfl
@[simp] theorem Tile.modWeir_mxDead (x : Tile) (f : Weir → Weir) : (x.modWeir f).mxDead = x.mxDead := rfl
@[simp] theorem Tile.modWeir_capkey (x : Tile) (f : Weir → Weir) : (x.modWeir f).capkey = x.capkey := rfl
@[simp] theorem Tile.modWeir_savectl (x : Tile) (f : Weir → Weir) : (x.modWeir f).savectl = x.savectl := rfl
@[simp] theorem Tile.modWeir_savectlNext (x : Tile) (f : Weir → Weir) : (x.modWeir f).savectlNext = x.savectlNext := rfl
@[simp] theorem Tile.modWeir_jets (x : Tile) (f : Weir → Weir) : (x.modWeir f).jets = x.jets := rfl
@[simp] theorem Tile.modWeir_slotSeq (x : Tile) (f : Weir → Weir) : (x.modWeir f).slotSeq = x.slotSeq := rfl
@[simp] theorem Tile.modWeir_heldSlots (x : Tile) (f : Weir → Weir) : (x.modWeir f).heldSlots = x.heldSlots := rfl
@[simp] theorem Tile.modWeir_limbo (x : Tile) (f : Weir → Weir) : (x.modWeir f).limbo = x.limbo := rfl
@[simp] theorem Tile.modWeir_last (x : Tile) (f : Weir → Weir) : (x.modWeir f).last = x.last := rfl
@[simp] theorem Tile.modWeir_ready (x : Tile) (f : Weir → Weir) : (x.modWeir f).ready = x.ready := rfl
@[simp] theorem Tile.modWeir_reserver (x : Tile) (f : Weir → Weir) : (x.modWeir f).reserver = x.reserver := rfl
@[simp] theorem Tile.modWeir_reserved (x : Tile) (f : Weir → Weir) : (x.modWeir f).reserved = x.reserved := rfl
@[simp] theorem Tile.modWeir_resOrder (x : Tile) (f : Weir → Weir) : (x.modWeir f).resOrder = x.resOrder := rfl
@[simp] theorem Tile.modWeir_saves (x : Tile) (f : Weir → Weir) : (x.modWeir f).saves = x.saves := rfl
@[simp] theorem Tile.modWeir_preempting (x : Tile) (f : Weir → Weir) : (x.modWeir f).preempting = x.preempting := rfl
@[simp] theorem Tile.modWeir_deque (x : Tile) (f : Weir → Weir) : (x.modWeir f).deque = x.deque := rfl
@[simp] theorem Tile.modWeir_spilledTasks (x : Tile) (f : Weir → Weir) : (x.modWeir f).spilledTasks = x.spilledTasks := rfl
@[simp] theorem Tile.modWeir_spillHead (x : Tile) (f : Weir → Weir) : (x.modWeir f).spillHead = x.spillHead := rfl
@[simp] theorem Tile.modWeir_lastVictim (x : Tile) (f : Weir → Weir) : (x.modWeir f).lastVictim = x.lastVictim := rfl
@[simp] theorem Tile.modWeir_increments (x : Tile) (f : Weir → Weir) : (x.modWeir f).increments = x.increments := rfl
@[simp] theorem Tile.modWeir_lastWrites (x : Tile) (f : Weir → Weir) : (x.modWeir f).lastWrites = x.lastWrites := rfl
@[simp] theorem Tile.modWeir_tables (x : Tile) (f : Weir → Weir) : (x.modWeir f).tables = x.tables := rfl
@[simp] theorem Tile.modWeir_l1At (x : Tile) (f : Weir → Weir) : (x.modWeir f).l1At = x.l1At := rfl
@[simp] theorem Tile.modWeir_thirst (x : Tile) (f : Weir → Weir) : (x.modWeir f).thirst = x.thirst := rfl
@[simp] theorem Tile.modWeir_backoff (x : Tile) (f : Weir → Weir) : (x.modWeir f).backoff = x.backoff := rfl
@[simp] theorem Tile.modWeir_refused (x : Tile) (f : Weir → Weir) : (x.modWeir f).refused = x.refused := rfl
@[simp] theorem Tile.modWeir_workIn (x : Tile) (f : Weir → Weir) : (x.modWeir f).workIn = x.workIn := rfl
@[simp] theorem Tile.modWeir_workOut (x : Tile) (f : Weir → Weir) : (x.modWeir f).workOut = x.workOut := rfl
@[simp] theorem Tile.modWeir_pieces (x : Tile) (f : Weir → Weir) : (x.modWeir f).pieces = x.pieces := rfl
@[simp] theorem Tile.modWeir_trackers (x : Tile) (f : Weir → Weir) : (x.modWeir f).trackers = x.trackers := rfl
@[simp] theorem Tile.modWeir_lqSeq (x : Tile) (f : Weir → Weir) : (x.modWeir f).lqSeq = x.lqSeq := rfl
@[simp] theorem Tile.modWeir_lqOpen (x : Tile) (f : Weir → Weir) : (x.modWeir f).lqOpen = x.lqOpen := rfl
@[simp] theorem Tile.modWeir_huskSet (x : Tile) (f : Weir → Weir) : (x.modWeir f).huskSet = x.huskSet := rfl
@[simp] theorem Tile.modWeir_huskMore (x : Tile) (f : Weir → Weir) : (x.modWeir f).huskMore = x.huskMore := rfl
@[simp] theorem Tile.modWeir_pool (x : Tile) (f : Weir → Weir) : (x.modWeir f).pool = x.pool := rfl
@[simp] theorem Tile.modWeir_guards (x : Tile) (f : Weir → Weir) : (x.modWeir f).guards = x.guards := rfl
@[simp] theorem Tile.modWeir_heldWrites (x : Tile) (f : Weir → Weir) : (x.modWeir f).heldWrites = x.heldWrites := rfl
@[simp] theorem Tile.modWeir_stashMaps (x : Tile) (f : Weir → Weir) : (x.modWeir f).stashMaps = x.stashMaps := rfl
@[simp] theorem Tile.modWeir_stash (x : Tile) (f : Weir → Weir) : (x.modWeir f).stash = x.stash := rfl
@[simp] theorem Tile.modWeir_l1 (x : Tile) (f : Weir → Weir) : (x.modWeir f).l1 = x.l1 := rfl
@[simp] theorem Tile.modWeir_wc (x : Tile) (f : Weir → Weir) : (x.modWeir f).wc = x.wc := rfl
@[simp] theorem Tile.modWeir_unacked (x : Tile) (f : Weir → Weir) : (x.modWeir f).unacked = x.unacked := rfl
@[simp] theorem Tile.modWeir_tlb (x : Tile) (f : Weir → Weir) : (x.modWeir f).tlb = x.tlb := rfl
@[simp] theorem Tile.modWeir_icache (x : Tile) (f : Weir → Weir) : (x.modWeir f).icache = x.icache := rfl
@[simp] theorem Tile.modWeir_ifetch (x : Tile) (f : Weir → Weir) : (x.modWeir f).ifetch = x.ifetch := rfl
@[simp] theorem Tile.modWeir_acc (x : Tile) (f : Weir → Weir) : (x.modWeir f).acc = x.acc := rfl
@[simp] theorem Tile.modWeir_nests (x : Tile) (f : Weir → Weir) : (x.modWeir f).nests = x.nests := rfl
@[simp] theorem Tile.modWeir_fences (x : Tile) (f : Weir → Weir) : (x.modWeir f).fences = x.fences := rfl
@[simp] theorem Tile.modWeir_poolIn (x : Tile) (f : Weir → Weir) : (x.modWeir f).poolIn = x.poolIn := rfl
@[simp] theorem Tile.modWeir_divBusy (x : Tile) (f : Weir → Weir) : (x.modWeir f).divBusy = x.divBusy := rfl
@[simp] theorem Tile.modWeir_fdivBusy (x : Tile) (f : Weir → Weir) : (x.modWeir f).fdivBusy = x.fdivBusy := rfl
@[simp] theorem Tile.modWeir_laneBusy (x : Tile) (f : Weir → Weir) : (x.modWeir f).laneBusy = x.laneBusy := rfl
@[simp] theorem Tile.modWeir_templates (x : Tile) (f : Weir → Weir) : (x.modWeir f).templates = x.templates := rfl
@[simp] theorem Tile.modWeir_chans (x : Tile) (f : Weir → Weir) : (x.modWeir f).chans = x.chans := rfl
@[simp] theorem Tile.modWeir_copyQ (x : Tile) (f : Weir → Weir) : (x.modWeir f).copyQ = x.copyQ := rfl
@[simp] theorem Tile.modWeir_subs (x : Tile) (f : Weir → Weir) : (x.modWeir f).subs = x.subs := rfl
@[simp] theorem Tile.modWeir_mcWait (x : Tile) (f : Weir → Weir) : (x.modWeir f).mcWait = x.mcWait := rfl
@[simp] theorem Tile.modWeir_mx (x : Tile) (f : Weir → Weir) : (x.modWeir f).mx = x.mx := rfl
@[simp] theorem Tile.modWeir_addws (x : Tile) (f : Weir → Weir) : (x.modWeir f).addws = x.addws := rfl
@[simp] theorem Tile.modWeir_wayPend (x : Tile) (f : Weir → Weir) : (x.modWeir f).wayPend = x.wayPend := rfl
@[simp] theorem Tile.modWeir_mergeLeaves (x : Tile) (f : Weir → Weir) : (x.modWeir f).mergeLeaves = x.mergeLeaves := rfl
@[simp] theorem Tile.modWeir_gangs (x : Tile) (f : Weir → Weir) : (x.modWeir f).gangs = x.gangs := rfl
@[simp] theorem Tile.modWeir_fenced (x : Tile) (f : Weir → Weir) : (x.modWeir f).fenced = x.fenced := rfl
@[simp] theorem Tile.modWeir_poison (x : Tile) (f : Weir → Weir) : (x.modWeir f).poison = x.poison := rfl

@[simp] theorem Tile.setSave_inReset (x : Tile) (e : Nat) (v : Option SaveEntry) : (x.setSave e v).inReset = x.inReset := rfl
@[simp] theorem Tile.setSave_gated (x : Tile) (e : Nat) (v : Option SaveEntry) : (x.setSave e v).gated = x.gated := rfl
@[simp] theorem Tile.setSave_gatedAt (x : Tile) (e : Nat) (v : Option SaveEntry) : (x.setSave e v).gatedAt = x.gatedAt := rfl
@[simp] theorem Tile.setSave_waking (x : Tile) (e : Nat) (v : Option SaveEntry) : (x.setSave e v).waking = x.waking := rfl
@[simp] theorem Tile.setSave_fpten (x : Tile) (e : Nat) (v : Option SaveEntry) : (x.setSave e v).fpten = x.fpten := rfl
@[simp] theorem Tile.setSave_issuectl (x : Tile) (e : Nat) (v : Option SaveEntry) : (x.setSave e v).issuectl = x.issuectl := rfl
@[simp] theorem Tile.setSave_stealctl (x : Tile) (e : Nat) (v : Option SaveEntry) : (x.setSave e v).stealctl = x.stealctl := rfl
@[simp] theorem Tile.setSave_prioage (x : Tile) (e : Nat) (v : Option SaveEntry) : (x.setSave e v).prioage = x.prioage := rfl
@[simp] theorem Tile.setSave_dqspill (x : Tile) (e : Nat) (v : Option SaveEntry) : (x.setSave e v).dqspill = x.dqspill := rfl
@[simp] theorem Tile.setSave_dqspillNext (x : Tile) (e : Nat) (v : Option SaveEntry) : (x.setSave e v).dqspillNext = x.dqspillNext := rfl
@[simp] theorem Tile.setSave_lqmap (x : Tile) (e : Nat) (v : Option SaveEntry) : (x.setSave e v).lqmap = x.lqmap := rfl
@[simp] theorem Tile.setSave_poolways (x : Tile) (e : Nat) (v : Option SaveEntry) : (x.setSave e v).poolways = x.poolways := rfl
@[simp] theorem Tile.setSave_stint (x : Tile) (e : Nat) (v : Option SaveEntry) : (x.setSave e v).stint = x.stint := rfl
@[simp] theorem Tile.setSave_mxFenced (x : Tile) (e : Nat) (v : Option SaveEntry) : (x.setSave e v).mxFenced = x.mxFenced := rfl
@[simp] theorem Tile.setSave_mxDead (x : Tile) (e : Nat) (v : Option SaveEntry) : (x.setSave e v).mxDead = x.mxDead := rfl
@[simp] theorem Tile.setSave_capkey (x : Tile) (e : Nat) (v : Option SaveEntry) : (x.setSave e v).capkey = x.capkey := rfl
@[simp] theorem Tile.setSave_savectl (x : Tile) (e : Nat) (v : Option SaveEntry) : (x.setSave e v).savectl = x.savectl := rfl
@[simp] theorem Tile.setSave_savectlNext (x : Tile) (e : Nat) (v : Option SaveEntry) : (x.setSave e v).savectlNext = x.savectlNext := rfl
@[simp] theorem Tile.setSave_jets (x : Tile) (e : Nat) (v : Option SaveEntry) : (x.setSave e v).jets = x.jets := rfl
@[simp] theorem Tile.setSave_slotSeq (x : Tile) (e : Nat) (v : Option SaveEntry) : (x.setSave e v).slotSeq = x.slotSeq := rfl
@[simp] theorem Tile.setSave_heldSlots (x : Tile) (e : Nat) (v : Option SaveEntry) : (x.setSave e v).heldSlots = x.heldSlots := rfl
@[simp] theorem Tile.setSave_limbo (x : Tile) (e : Nat) (v : Option SaveEntry) : (x.setSave e v).limbo = x.limbo := rfl
@[simp] theorem Tile.setSave_last (x : Tile) (e : Nat) (v : Option SaveEntry) : (x.setSave e v).last = x.last := rfl
@[simp] theorem Tile.setSave_ready (x : Tile) (e : Nat) (v : Option SaveEntry) : (x.setSave e v).ready = x.ready := rfl
@[simp] theorem Tile.setSave_reserver (x : Tile) (e : Nat) (v : Option SaveEntry) : (x.setSave e v).reserver = x.reserver := rfl
@[simp] theorem Tile.setSave_reserved (x : Tile) (e : Nat) (v : Option SaveEntry) : (x.setSave e v).reserved = x.reserved := rfl
@[simp] theorem Tile.setSave_resOrder (x : Tile) (e : Nat) (v : Option SaveEntry) : (x.setSave e v).resOrder = x.resOrder := rfl
@[simp] theorem Tile.setSave_preempting (x : Tile) (e : Nat) (v : Option SaveEntry) : (x.setSave e v).preempting = x.preempting := rfl
@[simp] theorem Tile.setSave_weir (x : Tile) (e : Nat) (v : Option SaveEntry) : (x.setSave e v).weir = x.weir := rfl
@[simp] theorem Tile.setSave_deque (x : Tile) (e : Nat) (v : Option SaveEntry) : (x.setSave e v).deque = x.deque := rfl
@[simp] theorem Tile.setSave_spilledTasks (x : Tile) (e : Nat) (v : Option SaveEntry) : (x.setSave e v).spilledTasks = x.spilledTasks := rfl
@[simp] theorem Tile.setSave_spillHead (x : Tile) (e : Nat) (v : Option SaveEntry) : (x.setSave e v).spillHead = x.spillHead := rfl
@[simp] theorem Tile.setSave_lastVictim (x : Tile) (e : Nat) (v : Option SaveEntry) : (x.setSave e v).lastVictim = x.lastVictim := rfl
@[simp] theorem Tile.setSave_increments (x : Tile) (e : Nat) (v : Option SaveEntry) : (x.setSave e v).increments = x.increments := rfl
@[simp] theorem Tile.setSave_lastWrites (x : Tile) (e : Nat) (v : Option SaveEntry) : (x.setSave e v).lastWrites = x.lastWrites := rfl
@[simp] theorem Tile.setSave_tables (x : Tile) (e : Nat) (v : Option SaveEntry) : (x.setSave e v).tables = x.tables := rfl
@[simp] theorem Tile.setSave_l1At (x : Tile) (e : Nat) (v : Option SaveEntry) : (x.setSave e v).l1At = x.l1At := rfl
@[simp] theorem Tile.setSave_thirst (x : Tile) (e : Nat) (v : Option SaveEntry) : (x.setSave e v).thirst = x.thirst := rfl
@[simp] theorem Tile.setSave_backoff (x : Tile) (e : Nat) (v : Option SaveEntry) : (x.setSave e v).backoff = x.backoff := rfl
@[simp] theorem Tile.setSave_refused (x : Tile) (e : Nat) (v : Option SaveEntry) : (x.setSave e v).refused = x.refused := rfl
@[simp] theorem Tile.setSave_workIn (x : Tile) (e : Nat) (v : Option SaveEntry) : (x.setSave e v).workIn = x.workIn := rfl
@[simp] theorem Tile.setSave_workOut (x : Tile) (e : Nat) (v : Option SaveEntry) : (x.setSave e v).workOut = x.workOut := rfl
@[simp] theorem Tile.setSave_pieces (x : Tile) (e : Nat) (v : Option SaveEntry) : (x.setSave e v).pieces = x.pieces := rfl
@[simp] theorem Tile.setSave_trackers (x : Tile) (e : Nat) (v : Option SaveEntry) : (x.setSave e v).trackers = x.trackers := rfl
@[simp] theorem Tile.setSave_lqSeq (x : Tile) (e : Nat) (v : Option SaveEntry) : (x.setSave e v).lqSeq = x.lqSeq := rfl
@[simp] theorem Tile.setSave_lqOpen (x : Tile) (e : Nat) (v : Option SaveEntry) : (x.setSave e v).lqOpen = x.lqOpen := rfl
@[simp] theorem Tile.setSave_huskSet (x : Tile) (e : Nat) (v : Option SaveEntry) : (x.setSave e v).huskSet = x.huskSet := rfl
@[simp] theorem Tile.setSave_huskMore (x : Tile) (e : Nat) (v : Option SaveEntry) : (x.setSave e v).huskMore = x.huskMore := rfl
@[simp] theorem Tile.setSave_pool (x : Tile) (e : Nat) (v : Option SaveEntry) : (x.setSave e v).pool = x.pool := rfl
@[simp] theorem Tile.setSave_guards (x : Tile) (e : Nat) (v : Option SaveEntry) : (x.setSave e v).guards = x.guards := rfl
@[simp] theorem Tile.setSave_heldWrites (x : Tile) (e : Nat) (v : Option SaveEntry) : (x.setSave e v).heldWrites = x.heldWrites := rfl
@[simp] theorem Tile.setSave_stashMaps (x : Tile) (e : Nat) (v : Option SaveEntry) : (x.setSave e v).stashMaps = x.stashMaps := rfl
@[simp] theorem Tile.setSave_stash (x : Tile) (e : Nat) (v : Option SaveEntry) : (x.setSave e v).stash = x.stash := rfl
@[simp] theorem Tile.setSave_l1 (x : Tile) (e : Nat) (v : Option SaveEntry) : (x.setSave e v).l1 = x.l1 := rfl
@[simp] theorem Tile.setSave_wc (x : Tile) (e : Nat) (v : Option SaveEntry) : (x.setSave e v).wc = x.wc := rfl
@[simp] theorem Tile.setSave_unacked (x : Tile) (e : Nat) (v : Option SaveEntry) : (x.setSave e v).unacked = x.unacked := rfl
@[simp] theorem Tile.setSave_tlb (x : Tile) (e : Nat) (v : Option SaveEntry) : (x.setSave e v).tlb = x.tlb := rfl
@[simp] theorem Tile.setSave_icache (x : Tile) (e : Nat) (v : Option SaveEntry) : (x.setSave e v).icache = x.icache := rfl
@[simp] theorem Tile.setSave_ifetch (x : Tile) (e : Nat) (v : Option SaveEntry) : (x.setSave e v).ifetch = x.ifetch := rfl
@[simp] theorem Tile.setSave_acc (x : Tile) (e : Nat) (v : Option SaveEntry) : (x.setSave e v).acc = x.acc := rfl
@[simp] theorem Tile.setSave_nests (x : Tile) (e : Nat) (v : Option SaveEntry) : (x.setSave e v).nests = x.nests := rfl
@[simp] theorem Tile.setSave_fences (x : Tile) (e : Nat) (v : Option SaveEntry) : (x.setSave e v).fences = x.fences := rfl
@[simp] theorem Tile.setSave_poolIn (x : Tile) (e : Nat) (v : Option SaveEntry) : (x.setSave e v).poolIn = x.poolIn := rfl
@[simp] theorem Tile.setSave_divBusy (x : Tile) (e : Nat) (v : Option SaveEntry) : (x.setSave e v).divBusy = x.divBusy := rfl
@[simp] theorem Tile.setSave_fdivBusy (x : Tile) (e : Nat) (v : Option SaveEntry) : (x.setSave e v).fdivBusy = x.fdivBusy := rfl
@[simp] theorem Tile.setSave_laneBusy (x : Tile) (e : Nat) (v : Option SaveEntry) : (x.setSave e v).laneBusy = x.laneBusy := rfl
@[simp] theorem Tile.setSave_templates (x : Tile) (e : Nat) (v : Option SaveEntry) : (x.setSave e v).templates = x.templates := rfl
@[simp] theorem Tile.setSave_chans (x : Tile) (e : Nat) (v : Option SaveEntry) : (x.setSave e v).chans = x.chans := rfl
@[simp] theorem Tile.setSave_copyQ (x : Tile) (e : Nat) (v : Option SaveEntry) : (x.setSave e v).copyQ = x.copyQ := rfl
@[simp] theorem Tile.setSave_subs (x : Tile) (e : Nat) (v : Option SaveEntry) : (x.setSave e v).subs = x.subs := rfl
@[simp] theorem Tile.setSave_mcWait (x : Tile) (e : Nat) (v : Option SaveEntry) : (x.setSave e v).mcWait = x.mcWait := rfl
@[simp] theorem Tile.setSave_mx (x : Tile) (e : Nat) (v : Option SaveEntry) : (x.setSave e v).mx = x.mx := rfl
@[simp] theorem Tile.setSave_addws (x : Tile) (e : Nat) (v : Option SaveEntry) : (x.setSave e v).addws = x.addws := rfl
@[simp] theorem Tile.setSave_wayPend (x : Tile) (e : Nat) (v : Option SaveEntry) : (x.setSave e v).wayPend = x.wayPend := rfl
@[simp] theorem Tile.setSave_mergeLeaves (x : Tile) (e : Nat) (v : Option SaveEntry) : (x.setSave e v).mergeLeaves = x.mergeLeaves := rfl
@[simp] theorem Tile.setSave_gangs (x : Tile) (e : Nat) (v : Option SaveEntry) : (x.setSave e v).gangs = x.gangs := rfl
@[simp] theorem Tile.setSave_fenced (x : Tile) (e : Nat) (v : Option SaveEntry) : (x.setSave e v).fenced = x.fenced := rfl
@[simp] theorem Tile.setSave_poison (x : Tile) (e : Nat) (v : Option SaveEntry) : (x.setSave e v).poison = x.poison := rfl

@[simp] theorem Tile.setTracker_inReset (x : Tile) (e : Nat) (v : Option Tracker) : (x.setTracker e v).inReset = x.inReset := rfl
@[simp] theorem Tile.setTracker_gated (x : Tile) (e : Nat) (v : Option Tracker) : (x.setTracker e v).gated = x.gated := rfl
@[simp] theorem Tile.setTracker_gatedAt (x : Tile) (e : Nat) (v : Option Tracker) : (x.setTracker e v).gatedAt = x.gatedAt := rfl
@[simp] theorem Tile.setTracker_waking (x : Tile) (e : Nat) (v : Option Tracker) : (x.setTracker e v).waking = x.waking := rfl
@[simp] theorem Tile.setTracker_fpten (x : Tile) (e : Nat) (v : Option Tracker) : (x.setTracker e v).fpten = x.fpten := rfl
@[simp] theorem Tile.setTracker_issuectl (x : Tile) (e : Nat) (v : Option Tracker) : (x.setTracker e v).issuectl = x.issuectl := rfl
@[simp] theorem Tile.setTracker_stealctl (x : Tile) (e : Nat) (v : Option Tracker) : (x.setTracker e v).stealctl = x.stealctl := rfl
@[simp] theorem Tile.setTracker_prioage (x : Tile) (e : Nat) (v : Option Tracker) : (x.setTracker e v).prioage = x.prioage := rfl
@[simp] theorem Tile.setTracker_dqspill (x : Tile) (e : Nat) (v : Option Tracker) : (x.setTracker e v).dqspill = x.dqspill := rfl
@[simp] theorem Tile.setTracker_dqspillNext (x : Tile) (e : Nat) (v : Option Tracker) : (x.setTracker e v).dqspillNext = x.dqspillNext := rfl
@[simp] theorem Tile.setTracker_lqmap (x : Tile) (e : Nat) (v : Option Tracker) : (x.setTracker e v).lqmap = x.lqmap := rfl
@[simp] theorem Tile.setTracker_poolways (x : Tile) (e : Nat) (v : Option Tracker) : (x.setTracker e v).poolways = x.poolways := rfl
@[simp] theorem Tile.setTracker_stint (x : Tile) (e : Nat) (v : Option Tracker) : (x.setTracker e v).stint = x.stint := rfl
@[simp] theorem Tile.setTracker_mxFenced (x : Tile) (e : Nat) (v : Option Tracker) : (x.setTracker e v).mxFenced = x.mxFenced := rfl
@[simp] theorem Tile.setTracker_mxDead (x : Tile) (e : Nat) (v : Option Tracker) : (x.setTracker e v).mxDead = x.mxDead := rfl
@[simp] theorem Tile.setTracker_capkey (x : Tile) (e : Nat) (v : Option Tracker) : (x.setTracker e v).capkey = x.capkey := rfl
@[simp] theorem Tile.setTracker_savectl (x : Tile) (e : Nat) (v : Option Tracker) : (x.setTracker e v).savectl = x.savectl := rfl
@[simp] theorem Tile.setTracker_savectlNext (x : Tile) (e : Nat) (v : Option Tracker) : (x.setTracker e v).savectlNext = x.savectlNext := rfl
@[simp] theorem Tile.setTracker_jets (x : Tile) (e : Nat) (v : Option Tracker) : (x.setTracker e v).jets = x.jets := rfl
@[simp] theorem Tile.setTracker_slotSeq (x : Tile) (e : Nat) (v : Option Tracker) : (x.setTracker e v).slotSeq = x.slotSeq := rfl
@[simp] theorem Tile.setTracker_heldSlots (x : Tile) (e : Nat) (v : Option Tracker) : (x.setTracker e v).heldSlots = x.heldSlots := rfl
@[simp] theorem Tile.setTracker_limbo (x : Tile) (e : Nat) (v : Option Tracker) : (x.setTracker e v).limbo = x.limbo := rfl
@[simp] theorem Tile.setTracker_last (x : Tile) (e : Nat) (v : Option Tracker) : (x.setTracker e v).last = x.last := rfl
@[simp] theorem Tile.setTracker_ready (x : Tile) (e : Nat) (v : Option Tracker) : (x.setTracker e v).ready = x.ready := rfl
@[simp] theorem Tile.setTracker_reserver (x : Tile) (e : Nat) (v : Option Tracker) : (x.setTracker e v).reserver = x.reserver := rfl
@[simp] theorem Tile.setTracker_reserved (x : Tile) (e : Nat) (v : Option Tracker) : (x.setTracker e v).reserved = x.reserved := rfl
@[simp] theorem Tile.setTracker_resOrder (x : Tile) (e : Nat) (v : Option Tracker) : (x.setTracker e v).resOrder = x.resOrder := rfl
@[simp] theorem Tile.setTracker_saves (x : Tile) (e : Nat) (v : Option Tracker) : (x.setTracker e v).saves = x.saves := rfl
@[simp] theorem Tile.setTracker_preempting (x : Tile) (e : Nat) (v : Option Tracker) : (x.setTracker e v).preempting = x.preempting := rfl
@[simp] theorem Tile.setTracker_weir (x : Tile) (e : Nat) (v : Option Tracker) : (x.setTracker e v).weir = x.weir := rfl
@[simp] theorem Tile.setTracker_deque (x : Tile) (e : Nat) (v : Option Tracker) : (x.setTracker e v).deque = x.deque := rfl
@[simp] theorem Tile.setTracker_spilledTasks (x : Tile) (e : Nat) (v : Option Tracker) : (x.setTracker e v).spilledTasks = x.spilledTasks := rfl
@[simp] theorem Tile.setTracker_spillHead (x : Tile) (e : Nat) (v : Option Tracker) : (x.setTracker e v).spillHead = x.spillHead := rfl
@[simp] theorem Tile.setTracker_lastVictim (x : Tile) (e : Nat) (v : Option Tracker) : (x.setTracker e v).lastVictim = x.lastVictim := rfl
@[simp] theorem Tile.setTracker_increments (x : Tile) (e : Nat) (v : Option Tracker) : (x.setTracker e v).increments = x.increments := rfl
@[simp] theorem Tile.setTracker_lastWrites (x : Tile) (e : Nat) (v : Option Tracker) : (x.setTracker e v).lastWrites = x.lastWrites := rfl
@[simp] theorem Tile.setTracker_tables (x : Tile) (e : Nat) (v : Option Tracker) : (x.setTracker e v).tables = x.tables := rfl
@[simp] theorem Tile.setTracker_l1At (x : Tile) (e : Nat) (v : Option Tracker) : (x.setTracker e v).l1At = x.l1At := rfl
@[simp] theorem Tile.setTracker_thirst (x : Tile) (e : Nat) (v : Option Tracker) : (x.setTracker e v).thirst = x.thirst := rfl
@[simp] theorem Tile.setTracker_backoff (x : Tile) (e : Nat) (v : Option Tracker) : (x.setTracker e v).backoff = x.backoff := rfl
@[simp] theorem Tile.setTracker_refused (x : Tile) (e : Nat) (v : Option Tracker) : (x.setTracker e v).refused = x.refused := rfl
@[simp] theorem Tile.setTracker_workIn (x : Tile) (e : Nat) (v : Option Tracker) : (x.setTracker e v).workIn = x.workIn := rfl
@[simp] theorem Tile.setTracker_workOut (x : Tile) (e : Nat) (v : Option Tracker) : (x.setTracker e v).workOut = x.workOut := rfl
@[simp] theorem Tile.setTracker_pieces (x : Tile) (e : Nat) (v : Option Tracker) : (x.setTracker e v).pieces = x.pieces := rfl
@[simp] theorem Tile.setTracker_lqSeq (x : Tile) (e : Nat) (v : Option Tracker) : (x.setTracker e v).lqSeq = x.lqSeq := rfl
@[simp] theorem Tile.setTracker_lqOpen (x : Tile) (e : Nat) (v : Option Tracker) : (x.setTracker e v).lqOpen = x.lqOpen := rfl
@[simp] theorem Tile.setTracker_huskSet (x : Tile) (e : Nat) (v : Option Tracker) : (x.setTracker e v).huskSet = x.huskSet := rfl
@[simp] theorem Tile.setTracker_huskMore (x : Tile) (e : Nat) (v : Option Tracker) : (x.setTracker e v).huskMore = x.huskMore := rfl
@[simp] theorem Tile.setTracker_pool (x : Tile) (e : Nat) (v : Option Tracker) : (x.setTracker e v).pool = x.pool := rfl
@[simp] theorem Tile.setTracker_guards (x : Tile) (e : Nat) (v : Option Tracker) : (x.setTracker e v).guards = x.guards := rfl
@[simp] theorem Tile.setTracker_heldWrites (x : Tile) (e : Nat) (v : Option Tracker) : (x.setTracker e v).heldWrites = x.heldWrites := rfl
@[simp] theorem Tile.setTracker_stashMaps (x : Tile) (e : Nat) (v : Option Tracker) : (x.setTracker e v).stashMaps = x.stashMaps := rfl
@[simp] theorem Tile.setTracker_stash (x : Tile) (e : Nat) (v : Option Tracker) : (x.setTracker e v).stash = x.stash := rfl
@[simp] theorem Tile.setTracker_l1 (x : Tile) (e : Nat) (v : Option Tracker) : (x.setTracker e v).l1 = x.l1 := rfl
@[simp] theorem Tile.setTracker_wc (x : Tile) (e : Nat) (v : Option Tracker) : (x.setTracker e v).wc = x.wc := rfl
@[simp] theorem Tile.setTracker_unacked (x : Tile) (e : Nat) (v : Option Tracker) : (x.setTracker e v).unacked = x.unacked := rfl
@[simp] theorem Tile.setTracker_tlb (x : Tile) (e : Nat) (v : Option Tracker) : (x.setTracker e v).tlb = x.tlb := rfl
@[simp] theorem Tile.setTracker_icache (x : Tile) (e : Nat) (v : Option Tracker) : (x.setTracker e v).icache = x.icache := rfl
@[simp] theorem Tile.setTracker_ifetch (x : Tile) (e : Nat) (v : Option Tracker) : (x.setTracker e v).ifetch = x.ifetch := rfl
@[simp] theorem Tile.setTracker_acc (x : Tile) (e : Nat) (v : Option Tracker) : (x.setTracker e v).acc = x.acc := rfl
@[simp] theorem Tile.setTracker_nests (x : Tile) (e : Nat) (v : Option Tracker) : (x.setTracker e v).nests = x.nests := rfl
@[simp] theorem Tile.setTracker_fences (x : Tile) (e : Nat) (v : Option Tracker) : (x.setTracker e v).fences = x.fences := rfl
@[simp] theorem Tile.setTracker_poolIn (x : Tile) (e : Nat) (v : Option Tracker) : (x.setTracker e v).poolIn = x.poolIn := rfl
@[simp] theorem Tile.setTracker_divBusy (x : Tile) (e : Nat) (v : Option Tracker) : (x.setTracker e v).divBusy = x.divBusy := rfl
@[simp] theorem Tile.setTracker_fdivBusy (x : Tile) (e : Nat) (v : Option Tracker) : (x.setTracker e v).fdivBusy = x.fdivBusy := rfl
@[simp] theorem Tile.setTracker_laneBusy (x : Tile) (e : Nat) (v : Option Tracker) : (x.setTracker e v).laneBusy = x.laneBusy := rfl
@[simp] theorem Tile.setTracker_templates (x : Tile) (e : Nat) (v : Option Tracker) : (x.setTracker e v).templates = x.templates := rfl
@[simp] theorem Tile.setTracker_chans (x : Tile) (e : Nat) (v : Option Tracker) : (x.setTracker e v).chans = x.chans := rfl
@[simp] theorem Tile.setTracker_copyQ (x : Tile) (e : Nat) (v : Option Tracker) : (x.setTracker e v).copyQ = x.copyQ := rfl
@[simp] theorem Tile.setTracker_subs (x : Tile) (e : Nat) (v : Option Tracker) : (x.setTracker e v).subs = x.subs := rfl
@[simp] theorem Tile.setTracker_mcWait (x : Tile) (e : Nat) (v : Option Tracker) : (x.setTracker e v).mcWait = x.mcWait := rfl
@[simp] theorem Tile.setTracker_mx (x : Tile) (e : Nat) (v : Option Tracker) : (x.setTracker e v).mx = x.mx := rfl
@[simp] theorem Tile.setTracker_addws (x : Tile) (e : Nat) (v : Option Tracker) : (x.setTracker e v).addws = x.addws := rfl
@[simp] theorem Tile.setTracker_wayPend (x : Tile) (e : Nat) (v : Option Tracker) : (x.setTracker e v).wayPend = x.wayPend := rfl
@[simp] theorem Tile.setTracker_mergeLeaves (x : Tile) (e : Nat) (v : Option Tracker) : (x.setTracker e v).mergeLeaves = x.mergeLeaves := rfl
@[simp] theorem Tile.setTracker_gangs (x : Tile) (e : Nat) (v : Option Tracker) : (x.setTracker e v).gangs = x.gangs := rfl
@[simp] theorem Tile.setTracker_fenced (x : Tile) (e : Nat) (v : Option Tracker) : (x.setTracker e v).fenced = x.fenced := rfl
@[simp] theorem Tile.setTracker_poison (x : Tile) (e : Nat) (v : Option Tracker) : (x.setTracker e v).poison = x.poison := rfl

/-! ### Fields of a jet -/

@[simp] theorem Jet.stepped_status (j : Jet) (h : Hdr) (len tc : Nat) : (j.stepped h len tc).status = j.status := rfl
@[simp] theorem Jet.stepped_key (j : Jet) (h : Hdr) (len tc : Nat) : (j.stepped h len tc).key = j.key := rfl
@[simp] theorem Jet.stepped_entry (j : Jet) (h : Hdr) (len tc : Nat) : (j.stepped h len tc).entry = j.entry := rfl
@[simp] theorem Jet.stepped_frame (j : Jet) (h : Hdr) (len tc : Nat) : (j.stepped h len tc).frame = j.frame := rfl
@[simp] theorem Jet.stepped_granBase (j : Jet) (h : Hdr) (len tc : Nat) : (j.stepped h len tc).granBase = j.granBase := rfl
@[simp] theorem Jet.stepped_grans (j : Jet) (h : Hdr) (len tc : Nat) : (j.stepped h len tc).grans = j.grans := rfl
@[simp] theorem Jet.stepped_views (j : Jet) (h : Hdr) (len tc : Nat) : (j.stepped h len tc).views = j.views := rfl
@[simp] theorem Jet.stepped_masks (j : Jet) (h : Hdr) (len tc : Nat) : (j.stepped h len tc).masks = j.masks := rfl
@[simp] theorem Jet.stepped_fpflags (j : Jet) (h : Hdr) (len tc : Nat) : (j.stepped h len tc).fpflags = j.fpflags := rfl
@[simp] theorem Jet.stepped_range (j : Jet) (h : Hdr) (len tc : Nat) : (j.stepped h len tc).range = j.range := rfl
@[simp] theorem Jet.stepped_cdis (j : Jet) (h : Hdr) (len tc : Nat) : (j.stepped h len tc).cdis = j.cdis := rfl
@[simp] theorem Jet.stepped_wait (j : Jet) (h : Hdr) (len tc : Nat) : (j.stepped h len tc).wait = j.wait := rfl
@[simp] theorem Jet.stepped_owed (j : Jet) (h : Hdr) (len tc : Nat) : (j.stepped h len tc).owed = j.owed := rfl
@[simp] theorem Jet.stepped_pend (j : Jet) (h : Hdr) (len tc : Nat) : (j.stepped h len tc).pend = j.pend := rfl
@[simp] theorem Jet.stepped_role (j : Jet) (h : Hdr) (len tc : Nat) : (j.stepped h len tc).role = j.role := rfl
@[simp] theorem Jet.stepped_level (j : Jet) (h : Hdr) (len tc : Nat) : (j.stepped h len tc).level = j.level := rfl
@[simp] theorem Jet.stepped_ceiling (j : Jet) (h : Hdr) (len tc : Nat) : (j.stepped h len tc).ceiling = j.ceiling := rfl
@[simp] theorem Jet.stepped_inst (j : Jet) (h : Hdr) (len tc : Nat) : (j.stepped h len tc).inst = j.inst := rfl
@[simp] theorem Jet.stepped_seq (j : Jet) (h : Hdr) (len tc : Nat) : (j.stepped h len tc).seq = j.seq := rfl
@[simp] theorem Jet.stepped_resident (j : Jet) (h : Hdr) (len tc : Nat) : (j.stepped h len tc).resident = j.resident := rfl
@[simp] theorem Jet.stepped_firstRes (j : Jet) (h : Hdr) (len tc : Nat) : (j.stepped h len tc).firstRes = j.firstRes := rfl
@[simp] theorem Jet.stepped_interrupted (j : Jet) (h : Hdr) (len tc : Nat) : (j.stepped h len tc).interrupted = j.interrupted := rfl
@[simp] theorem Jet.stepped_replay (j : Jet) (h : Hdr) (len tc : Nat) : (j.stepped h len tc).replay = j.replay := rfl
@[simp] theorem Jet.stepped_replayOrd (j : Jet) (h : Hdr) (len tc : Nat) : (j.stepped h len tc).replayOrd = j.replayOrd := rfl
@[simp] theorem Jet.stepped_spill (j : Jet) (h : Hdr) (len tc : Nat) : (j.stepped h len tc).spill = j.spill := rfl
@[simp] theorem Jet.stepped_casc (j : Jet) (h : Hdr) (len tc : Nat) : (j.stepped h len tc).casc = j.casc := rfl
@[simp] theorem Jet.stepped_fwdQ (j : Jet) (h : Hdr) (len tc : Nat) : (j.stepped h len tc).fwdQ = j.fwdQ := rfl
@[simp] theorem Jet.stepped_gang (j : Jet) (h : Hdr) (len tc : Nat) : (j.stepped h len tc).gang = j.gang := rfl
@[simp] theorem Jet.stepped_freeAt (j : Jet) (h : Hdr) (len tc : Nat) : (j.stepped h len tc).freeAt = j.freeAt := rfl
@[simp] theorem Jet.stepped_poison (j : Jet) (h : Hdr) (len tc : Nat) : (j.stepped h len tc).poison = j.poison := rfl

@[simp] theorem Jet.branched_status (j : Jet) (h : Hdr) (p : BitVec 64) (tc : Nat) : (j.branched h p tc).status = j.status := rfl
@[simp] theorem Jet.branched_key (j : Jet) (h : Hdr) (p : BitVec 64) (tc : Nat) : (j.branched h p tc).key = j.key := rfl
@[simp] theorem Jet.branched_entry (j : Jet) (h : Hdr) (p : BitVec 64) (tc : Nat) : (j.branched h p tc).entry = j.entry := rfl
@[simp] theorem Jet.branched_frame (j : Jet) (h : Hdr) (p : BitVec 64) (tc : Nat) : (j.branched h p tc).frame = j.frame := rfl
@[simp] theorem Jet.branched_granBase (j : Jet) (h : Hdr) (p : BitVec 64) (tc : Nat) : (j.branched h p tc).granBase = j.granBase := rfl
@[simp] theorem Jet.branched_grans (j : Jet) (h : Hdr) (p : BitVec 64) (tc : Nat) : (j.branched h p tc).grans = j.grans := rfl
@[simp] theorem Jet.branched_views (j : Jet) (h : Hdr) (p : BitVec 64) (tc : Nat) : (j.branched h p tc).views = j.views := rfl
@[simp] theorem Jet.branched_masks (j : Jet) (h : Hdr) (p : BitVec 64) (tc : Nat) : (j.branched h p tc).masks = j.masks := rfl
@[simp] theorem Jet.branched_fpflags (j : Jet) (h : Hdr) (p : BitVec 64) (tc : Nat) : (j.branched h p tc).fpflags = j.fpflags := rfl
@[simp] theorem Jet.branched_range (j : Jet) (h : Hdr) (p : BitVec 64) (tc : Nat) : (j.branched h p tc).range = j.range := rfl
@[simp] theorem Jet.branched_cdis (j : Jet) (h : Hdr) (p : BitVec 64) (tc : Nat) : (j.branched h p tc).cdis = j.cdis := rfl
@[simp] theorem Jet.branched_wait (j : Jet) (h : Hdr) (p : BitVec 64) (tc : Nat) : (j.branched h p tc).wait = j.wait := rfl
@[simp] theorem Jet.branched_owed (j : Jet) (h : Hdr) (p : BitVec 64) (tc : Nat) : (j.branched h p tc).owed = j.owed := rfl
@[simp] theorem Jet.branched_pend (j : Jet) (h : Hdr) (p : BitVec 64) (tc : Nat) : (j.branched h p tc).pend = j.pend := rfl
@[simp] theorem Jet.branched_role (j : Jet) (h : Hdr) (p : BitVec 64) (tc : Nat) : (j.branched h p tc).role = j.role := rfl
@[simp] theorem Jet.branched_level (j : Jet) (h : Hdr) (p : BitVec 64) (tc : Nat) : (j.branched h p tc).level = j.level := rfl
@[simp] theorem Jet.branched_ceiling (j : Jet) (h : Hdr) (p : BitVec 64) (tc : Nat) : (j.branched h p tc).ceiling = j.ceiling := rfl
@[simp] theorem Jet.branched_inst (j : Jet) (h : Hdr) (p : BitVec 64) (tc : Nat) : (j.branched h p tc).inst = j.inst := rfl
@[simp] theorem Jet.branched_seq (j : Jet) (h : Hdr) (p : BitVec 64) (tc : Nat) : (j.branched h p tc).seq = j.seq := rfl
@[simp] theorem Jet.branched_resident (j : Jet) (h : Hdr) (p : BitVec 64) (tc : Nat) : (j.branched h p tc).resident = j.resident := rfl
@[simp] theorem Jet.branched_firstRes (j : Jet) (h : Hdr) (p : BitVec 64) (tc : Nat) : (j.branched h p tc).firstRes = j.firstRes := rfl
@[simp] theorem Jet.branched_interrupted (j : Jet) (h : Hdr) (p : BitVec 64) (tc : Nat) : (j.branched h p tc).interrupted = j.interrupted := rfl
@[simp] theorem Jet.branched_replay (j : Jet) (h : Hdr) (p : BitVec 64) (tc : Nat) : (j.branched h p tc).replay = j.replay := rfl
@[simp] theorem Jet.branched_replayOrd (j : Jet) (h : Hdr) (p : BitVec 64) (tc : Nat) : (j.branched h p tc).replayOrd = j.replayOrd := rfl
@[simp] theorem Jet.branched_spill (j : Jet) (h : Hdr) (p : BitVec 64) (tc : Nat) : (j.branched h p tc).spill = j.spill := rfl
@[simp] theorem Jet.branched_casc (j : Jet) (h : Hdr) (p : BitVec 64) (tc : Nat) : (j.branched h p tc).casc = j.casc := rfl
@[simp] theorem Jet.branched_fwdQ (j : Jet) (h : Hdr) (p : BitVec 64) (tc : Nat) : (j.branched h p tc).fwdQ = j.fwdQ := rfl
@[simp] theorem Jet.branched_gang (j : Jet) (h : Hdr) (p : BitVec 64) (tc : Nat) : (j.branched h p tc).gang = j.gang := rfl
@[simp] theorem Jet.branched_freeAt (j : Jet) (h : Hdr) (p : BitVec 64) (tc : Nat) : (j.branched h p tc).freeAt = j.freeAt := rfl
@[simp] theorem Jet.branched_poison (j : Jet) (h : Hdr) (p : BitVec 64) (tc : Nat) : (j.branched h p tc).poison = j.poison := rfl

@[simp] theorem Jet.put_status (j : Jet) (w : Write) : (j.put w).status = j.status := rfl
@[simp] theorem Jet.put_key (j : Jet) (w : Write) : (j.put w).key = j.key := rfl
@[simp] theorem Jet.put_pc (j : Jet) (w : Write) : (j.put w).pc = j.pc := rfl
@[simp] theorem Jet.put_entry (j : Jet) (w : Write) : (j.put w).entry = j.entry := rfl
@[simp] theorem Jet.put_granBase (j : Jet) (w : Write) : (j.put w).granBase = j.granBase := rfl
@[simp] theorem Jet.put_grans (j : Jet) (w : Write) : (j.put w).grans = j.grans := rfl
@[simp] theorem Jet.put_views (j : Jet) (w : Write) : (j.put w).views = j.views := rfl
@[simp] theorem Jet.put_fpflags (j : Jet) (w : Write) : (j.put w).fpflags = j.fpflags := rfl
@[simp] theorem Jet.put_range (j : Jet) (w : Write) : (j.put w).range = j.range := rfl
@[simp] theorem Jet.put_cdis (j : Jet) (w : Write) : (j.put w).cdis = j.cdis := rfl
@[simp] theorem Jet.put_yieldMark (j : Jet) (w : Write) : (j.put w).yieldMark = j.yieldMark := rfl
@[simp] theorem Jet.put_wait (j : Jet) (w : Write) : (j.put w).wait = j.wait := rfl
@[simp] theorem Jet.put_stallTill (j : Jet) (w : Write) : (j.put w).stallTill = j.stallTill := rfl
@[simp] theorem Jet.put_owed (j : Jet) (w : Write) : (j.put w).owed = j.owed := rfl
@[simp] theorem Jet.put_pend (j : Jet) (w : Write) : (j.put w).pend = j.pend := rfl
@[simp] theorem Jet.put_role (j : Jet) (w : Write) : (j.put w).role = j.role := rfl
@[simp] theorem Jet.put_level (j : Jet) (w : Write) : (j.put w).level = j.level := rfl
@[simp] theorem Jet.put_ceiling (j : Jet) (w : Write) : (j.put w).ceiling = j.ceiling := rfl
@[simp] theorem Jet.put_inst (j : Jet) (w : Write) : (j.put w).inst = j.inst := rfl
@[simp] theorem Jet.put_seq (j : Jet) (w : Write) : (j.put w).seq = j.seq := rfl
@[simp] theorem Jet.put_resident (j : Jet) (w : Write) : (j.put w).resident = j.resident := rfl
@[simp] theorem Jet.put_firstRes (j : Jet) (w : Write) : (j.put w).firstRes = j.firstRes := rfl
@[simp] theorem Jet.put_interrupted (j : Jet) (w : Write) : (j.put w).interrupted = j.interrupted := rfl
@[simp] theorem Jet.put_replay (j : Jet) (w : Write) : (j.put w).replay = j.replay := rfl
@[simp] theorem Jet.put_contPc (j : Jet) (w : Write) : (j.put w).contPc = j.contPc := rfl
@[simp] theorem Jet.put_replayOrd (j : Jet) (w : Write) : (j.put w).replayOrd = j.replayOrd := rfl
@[simp] theorem Jet.put_spill (j : Jet) (w : Write) : (j.put w).spill = j.spill := rfl
@[simp] theorem Jet.put_casc (j : Jet) (w : Write) : (j.put w).casc = j.casc := rfl
@[simp] theorem Jet.put_fwdQ (j : Jet) (w : Write) : (j.put w).fwdQ = j.fwdQ := rfl
@[simp] theorem Jet.put_gang (j : Jet) (w : Write) : (j.put w).gang = j.gang := rfl
@[simp] theorem Jet.put_start (j : Jet) (w : Write) : (j.put w).start = j.start := rfl
@[simp] theorem Jet.put_freeAt (j : Jet) (w : Write) : (j.put w).freeAt = j.freeAt := rfl

@[simp] theorem Jet.setView_status (j : Jet) (k : Nat) (v : BitVec 64) : (j.setView k v).status = j.status := rfl
@[simp] theorem Jet.setView_key (j : Jet) (k : Nat) (v : BitVec 64) : (j.setView k v).key = j.key := rfl
@[simp] theorem Jet.setView_pc (j : Jet) (k : Nat) (v : BitVec 64) : (j.setView k v).pc = j.pc := rfl
@[simp] theorem Jet.setView_entry (j : Jet) (k : Nat) (v : BitVec 64) : (j.setView k v).entry = j.entry := rfl
@[simp] theorem Jet.setView_frame (j : Jet) (k : Nat) (v : BitVec 64) : (j.setView k v).frame = j.frame := rfl
@[simp] theorem Jet.setView_granBase (j : Jet) (k : Nat) (v : BitVec 64) : (j.setView k v).granBase = j.granBase := rfl
@[simp] theorem Jet.setView_grans (j : Jet) (k : Nat) (v : BitVec 64) : (j.setView k v).grans = j.grans := rfl
@[simp] theorem Jet.setView_masks (j : Jet) (k : Nat) (v : BitVec 64) : (j.setView k v).masks = j.masks := rfl
@[simp] theorem Jet.setView_fpflags (j : Jet) (k : Nat) (v : BitVec 64) : (j.setView k v).fpflags = j.fpflags := rfl
@[simp] theorem Jet.setView_range (j : Jet) (k : Nat) (v : BitVec 64) : (j.setView k v).range = j.range := rfl
@[simp] theorem Jet.setView_cdis (j : Jet) (k : Nat) (v : BitVec 64) : (j.setView k v).cdis = j.cdis := rfl
@[simp] theorem Jet.setView_yieldMark (j : Jet) (k : Nat) (v : BitVec 64) : (j.setView k v).yieldMark = j.yieldMark := rfl
@[simp] theorem Jet.setView_wait (j : Jet) (k : Nat) (v : BitVec 64) : (j.setView k v).wait = j.wait := rfl
@[simp] theorem Jet.setView_stallTill (j : Jet) (k : Nat) (v : BitVec 64) : (j.setView k v).stallTill = j.stallTill := rfl
@[simp] theorem Jet.setView_owed (j : Jet) (k : Nat) (v : BitVec 64) : (j.setView k v).owed = j.owed := rfl
@[simp] theorem Jet.setView_pend (j : Jet) (k : Nat) (v : BitVec 64) : (j.setView k v).pend = j.pend := rfl
@[simp] theorem Jet.setView_role (j : Jet) (k : Nat) (v : BitVec 64) : (j.setView k v).role = j.role := rfl
@[simp] theorem Jet.setView_level (j : Jet) (k : Nat) (v : BitVec 64) : (j.setView k v).level = j.level := rfl
@[simp] theorem Jet.setView_ceiling (j : Jet) (k : Nat) (v : BitVec 64) : (j.setView k v).ceiling = j.ceiling := rfl
@[simp] theorem Jet.setView_inst (j : Jet) (k : Nat) (v : BitVec 64) : (j.setView k v).inst = j.inst := rfl
@[simp] theorem Jet.setView_seq (j : Jet) (k : Nat) (v : BitVec 64) : (j.setView k v).seq = j.seq := rfl
@[simp] theorem Jet.setView_resident (j : Jet) (k : Nat) (v : BitVec 64) : (j.setView k v).resident = j.resident := rfl
@[simp] theorem Jet.setView_firstRes (j : Jet) (k : Nat) (v : BitVec 64) : (j.setView k v).firstRes = j.firstRes := rfl
@[simp] theorem Jet.setView_interrupted (j : Jet) (k : Nat) (v : BitVec 64) : (j.setView k v).interrupted = j.interrupted := rfl
@[simp] theorem Jet.setView_replay (j : Jet) (k : Nat) (v : BitVec 64) : (j.setView k v).replay = j.replay := rfl
@[simp] theorem Jet.setView_contPc (j : Jet) (k : Nat) (v : BitVec 64) : (j.setView k v).contPc = j.contPc := rfl
@[simp] theorem Jet.setView_replayOrd (j : Jet) (k : Nat) (v : BitVec 64) : (j.setView k v).replayOrd = j.replayOrd := rfl
@[simp] theorem Jet.setView_spill (j : Jet) (k : Nat) (v : BitVec 64) : (j.setView k v).spill = j.spill := rfl
@[simp] theorem Jet.setView_casc (j : Jet) (k : Nat) (v : BitVec 64) : (j.setView k v).casc = j.casc := rfl
@[simp] theorem Jet.setView_fwdQ (j : Jet) (k : Nat) (v : BitVec 64) : (j.setView k v).fwdQ = j.fwdQ := rfl
@[simp] theorem Jet.setView_gang (j : Jet) (k : Nat) (v : BitVec 64) : (j.setView k v).gang = j.gang := rfl
@[simp] theorem Jet.setView_start (j : Jet) (k : Nat) (v : BitVec 64) : (j.setView k v).start = j.start := rfl
@[simp] theorem Jet.setView_freeAt (j : Jet) (k : Nat) (v : BitVec 64) : (j.setView k v).freeAt = j.freeAt := rfl
@[simp] theorem Jet.setView_poison (j : Jet) (k : Nat) (v : BitVec 64) : (j.setView k v).poison = j.poison := rfl

/-! ### Reading back -/

@[simp] theorem State.tile_setTile_same (s : State) (n : Nat) (x : Tile) : (s.setTile n x).tile n = x := by
  simp [State.setTile, State.tile]
theorem State.tile_setTile_ne (s : State) {n m : Nat} (x : Tile) (h : m ≠ n) : (s.setTile n x).tile m = s.tile m := by
  simp [State.setTile, State.tile, h]
@[simp] theorem State.tile_modTile_same (s : State) (n : Nat) (f : Tile → Tile) : (s.modTile n f).tile n = f (s.tile n) := by
  simp [State.modTile]
theorem State.tile_modTile_ne (s : State) {n m : Nat} (f : Tile → Tile) (h : m ≠ n) : (s.modTile n f).tile m = s.tile m := by
  simp [State.modTile, State.tile_setTile_ne, h]
@[simp] theorem Tile.jet_setJet_same (x : Tile) (j : Nat) (v : Jet) : (x.setJet j v).jet j = v := by
  simp [Tile.setJet, Tile.jet]
theorem Tile.jet_setJet_ne (x : Tile) {j k : Nat} (v : Jet) (h : k ≠ j) : (x.setJet j v).jet k = x.jet k := by
  simp [Tile.setJet, Tile.jet, h]
@[simp] theorem Tile.jet_modJet_same (x : Tile) (j : Nat) (f : Jet → Jet) : (x.modJet j f).jet j = f (x.jet j) := by
  simp [Tile.modJet]
theorem Tile.jet_modJet_ne (x : Tile) {j k : Nat} (f : Jet → Jet) (h : k ≠ j) : (x.modJet j f).jet k = x.jet k := by
  simp [Tile.modJet, Tile.jet_setJet_ne, h]
@[simp] theorem State.jet_modJet_same (s : State) (n j : Nat) (f : Jet → Jet) : (s.modJet n j f).jet n j = f (s.jet n j) := by
  simp [State.modJet, State.jet]
@[simp] theorem State.here_modHere (s : State) (f : Tile → Tile) : (s.modHere f).here = f s.here := by
  simp [State.modHere, State.here]
@[simp] theorem State.here_modCur (s : State) (f : Jet → Jet) : (s.modCur f).here = s.here.modJet s.curSlot f := by
  simp [State.modCur, State.modJet, State.here]
@[simp] theorem State.cur_modCur (s : State) (f : Jet → Jet) : (s.modCur f).cur = f s.cur := by
  simp [State.modCur, State.cur, State.modJet, State.jet]
theorem State.tile_modCur_ne (s : State) {m : Nat} (f : Jet → Jet) (h : m ≠ s.curTile) : (s.modCur f).tile m = s.tile m := by
  simp [State.modCur, State.modJet, State.tile_modTile_ne, h]
theorem State.tile_modHere_ne (s : State) {m : Nat} (f : Tile → Tile) (h : m ≠ s.curTile) : (s.modHere f).tile m = s.tile m := by
  simp [State.modHere, State.tile_modTile_ne, h]
theorem State.cur_eq (s : State) : s.cur = s.here.jet s.curSlot := rfl
@[simp] theorem State.stop_modStop_same (s : State) (n : Nat) (f : Stop → Stop) : (s.modStop n f).stop n = f (s.stop n) := by
  simp [State.modStop, State.stop]
theorem State.stop_modStop_ne (s : State) {n m : Nat} (f : Stop → Stop) (h : m ≠ n) : (s.modStop n f).stop m = s.stop m := by
  simp [State.modStop, State.stop, h]
@[simp] theorem State.die_modDie_same (s : State) (n : Nat) (f : Die → Die) : (s.modDie n f).die n = f (s.die n) := by
  simp [State.modDie, State.die]
theorem State.die_modDie_ne (s : State) {n m : Nat} (f : Die → Die) (h : m ≠ n) : (s.modDie n f).die m = s.die m := by
  simp [State.modDie, State.die, h]
@[simp] theorem State.chain_modChain_same (s : State) (n : Nat) (f : Chain → Chain) : (s.modChain n f).chain n = f (s.chain n) := by
  simp [State.modChain, State.chain]
theorem State.chain_modChain_ne (s : State) {n m : Nat} (f : Chain → Chain) (h : m ≠ n) : (s.modChain n f).chain m = s.chain m := by
  simp [State.modChain, State.chain, h]
@[simp] theorem State.modDev_dev (s : State) (f : Dev → Dev) : (s.modDev f).dev = f s.dev := rfl
@[simp] theorem Tile.chan_modChan_same (x : Tile) (c : Nat) (f : Channel → Channel) : (x.modChan c f).chan c = f (x.chan c) := by
  simp [Tile.modChan, Tile.chan]
theorem Tile.chan_modChan_ne (x : Tile) {c d : Nat} (f : Channel → Channel) (h : d ≠ c) : (x.modChan c f).chan d = x.chan d := by
  simp [Tile.modChan, Tile.chan, h]
@[simp] theorem Tile.modWeir_weir (x : Tile) (f : Weir → Weir) : (x.modWeir f).weir = f x.weir := rfl
@[simp] theorem State.at_agenda (s : State) (d : Nat) (e : Instr) (f : Focus) : (s.at_ d e f).agenda = agendaInsert s.agenda d f e := rfl
@[simp] theorem State.after_agenda (s : State) (n : Nat) (e : Instr) (f : Focus) :
    (s.after n e f).agenda = agendaInsert s.agenda (s.nc + 2 * n) f e := rfl
@[simp] theorem State.tc_eq (s : State) : s.tc = s.nc / 2 := rfl

end Sys2Proof.Machine
end

