-- ==== Sys2Proof/Laws/Issue.lean ====
section
/-!
SUPPORT. What the operations that issue an instruction can do: the checks at issue, owing a result, going on behind the instruction, a trap.
-/

namespace Sys2Proof.Machine

/-! ### The checks at issue -/

/-- Where the checks pass, a guarded instruction has its own effect. -/
theorem State.guarded_of_admits {i : Instr} {s : State} (k : State → State) (h : s.admits i = true) :
    s.guarded (footOf i s) k = .next (k s) := by
  simp only [State.admits, Bool.and_eq_true, Option.isNone_iff_eq_none, Bool.or_eq_true, Bool.not_eq_true'] at h
  obtain ⟨⟨⟨h1, h2⟩, h3⟩, h4⟩ := h
  unfold State.guarded
  rw [h1, h2]
  rcases h3 with h3 | h3 <;> simp [h3, h4]

/-- An instruction that is guarded with its own footprint completes where its checks pass. -/
theorem State.completes {i : Instr} {s : State} {k : State → State} {P : State → Prop} (he : exec i s = s.guarded (footOf i s) k) (hP : P (k s)) :
    s.admits i = true → ∃ t, exec i s = .next t ∧ P t :=
  fun ha => ⟨k s, by rw [he, State.guarded_of_admits k ha], hP⟩

/-- A guarded instruction answers a next state: its own effect, or the trap of the first check that fails. -/
theorem State.guarded_cases (s : State) (fp : Foot) (k : State → State) :
    s.guarded fp k = .next (k s) ∨ (∃ c, fp.ill = some c ∧ s.guarded fp k = .next (s.illegal c)) ∨
    (∃ n, s.cur.outside fp = some n ∧ s.guarded fp k = .next (s.trap { cause := 3, info := n })) ∨
    (∃ o, s.cur.early fp = some o ∧ s.guarded fp k = .next (s.trap { cause := 4, info := o.issued })) ∨
    (∃ n, s.cur.tainted fp = some n ∧ s.guarded fp k = .next (s.trap { cause := 8, info := 2 })) := by
  unfold State.guarded
  split
  · exact .inr (.inl ⟨_, ‹_›, rfl⟩)
  · split
    · exact .inr (.inr (.inl ⟨_, ‹_›, rfl⟩))
    · split
      · rename_i o h
        split at h
        · exact .inr (.inr (.inr (.inl ⟨_, h, rfl⟩)))
        · cases h
      · split
        · exact .inr (.inr (.inr (.inr ⟨_, ‹_›, rfl⟩)))
        · exact .inl rfl

/-- A guarded instruction never stops the machine. -/
theorem State.guarded_next (s : State) (fp : Foot) (k : State → State) : ∃ t, s.guarded fp k = .next t := by
  rcases s.guarded_cases fp k with h | ⟨_, -, h⟩ | ⟨_, -, h⟩ | ⟨_, -, h⟩ | ⟨_, -, h⟩ <;> exact ⟨_, h⟩

/-! ### Frames of the issuing jet -/

theorem State.modTile_modTile (s : State) (n : Nat) (f g : Tile → Tile) : (s.modTile n f).modTile n g = s.modTile n (fun x => g (f x)) := by
  simp [State.modTile, State.setTile, State.tile]

theorem Tile.modJet_modJet (x : Tile) (j : Nat) (f g : Jet → Jet) : (x.modJet j f).modJet j g = x.modJet j (fun y => g (f y)) := by
  simp [Tile.modJet, Tile.setJet, Tile.jet]

/-- The tiles with the issuing tile changed by `g` and the issuing jet replaced. -/
def State.tilesWith (s : State) (g : Tile → Tile) (j : Jet) : Tbl Tile := Tbl.set s.tiles s.curTile ((g s.here).setJet s.curSlot j)

/-- A new state whose tiles are the old ones with the issuing tile and jet changed keeps everything else. -/
theorem JetFrame.of_tiles {s u : State} {g : Tile → Tile} {j : Jet} (hg : ∀ x, (g x).jets = x.jets)
    (hu : u = ({ s with agenda := u.agenda, nextId := u.nextId, tiles := s.tilesWith g j } : State)) : JetFrame s u g ∧ u.cur = j := by
  have hh : u.here = (g s.here).setJet s.curSlot j := by
    rw [hu]; simp [State.here, State.tile, State.tilesWith]
  have hc : u.curSlot = s.curSlot := by rw [hu]
  refine ⟨⟨by rw [hu], ?_, ?_, ?_⟩, ?_⟩
  · intro n hn
    rw [hu]; simp [State.tile, State.tilesWith, hn]
  · rw [hh]; rfl
  · intro k hk
    rw [hh, Tile.jet_setJet_ne _ _ hk]
    simp [Tile.jet, hg]
  · show u.here.jet u.curSlot = _
    rw [hh, hc, Tile.jet_setJet_same]

/-- The same for an instruction that has issued. -/
theorem Issued.of_tiles {s u : State} {h : Hdr} {len : Nat} {g : Tile → Tile} {os : List Owed} {es : List (Nat × Focus × Instr)}
    (hg : ∀ x, (g x).jets = x.jets)
    (hu : u = ({ s with agenda := withEvents s.agenda es, nextId := u.nextId, tiles := s.tilesWith g (s.cur.behind h len s.tc os) } : State)) :
    Issued s u h len g os es := by
  have := JetFrame.of_tiles (u := u) (j := s.cur.behind h len s.tc os) hg (by rw [hu])
  exact ⟨this.1, this.2, by rw [hu]⟩

@[simp] theorem Tile.setJet_setJet (x : Tile) (j : Nat) (v w : Jet) : (x.setJet j v).setJet j w = x.setJet j w := by
  simp [Tile.setJet]

/-- An update of the issuing jet, as an update of the table of tiles. -/
theorem State.modCur_tiles (s : State) (f : Jet → Jet) :
    s.modCur f = { s with tiles := Tbl.set s.tiles s.curTile (s.here.setJet s.curSlot (f s.cur)) } := rfl

/-- An update of the issuing tile, as an update of the table of tiles. -/
theorem State.modHere_tiles (s : State) (g : Tile → Tile) : s.modHere g = { s with tiles := Tbl.set s.tiles s.curTile (g s.here) } := rfl

theorem State.cur_modHere (s : State) {g : Tile → Tile} (hg : ∀ x, (g x).jets = x.jets) : (s.modHere g).cur = s.cur := by
  simp [State.cur_eq, Tile.jet, hg]

/-! ### Owing results -/

/-- A result of fixed latency is owed and the jet goes on. -/
theorem State.owe_result (s : State) (h : Hdr) (len lat : Nat) (w : Write) (fl : BitVec 5) :
    Result s ((s.owe lat w fl).advance h len) h len id lat w fl := by
  refine Issued.of_tiles (fun _ => rfl) ?_
  simp [State.tilesWith, State.advance, State.owe, State.modCur_tiles, State.tile, State.here, State.cur_eq, Jet.stepped, Jet.behind, withEvents,
    State.evt, State.fixedOwed, State.after, State.at_, State.tc]

/-- A status that is known is owed and the jet goes on, after a change of the issuing tile that leaves its jets alone. -/
theorem State.oweStatus_status (s : State) (h : Hdr) (len lat : Nat) (d : SliceOp) (v : Nat) {g : Tile → Tile} (hg : ∀ x, (g x).jets = x.jets) :
    Status s ((((s.modHere g).oweStatus lat d v)).advance h len) h len g lat d v := by
  have hj : ∀ x k, (g x).jet k = x.jet k := fun x k => by simp [Tile.jet, hg]
  refine Issued.of_tiles hg ?_
  simp only [State.oweStatus, State.oweVar, s.cur_modHere hg]
  simp [State.tilesWith, State.advance, State.modHere_tiles, State.modCur_tiles, State.tile, State.here, State.cur_eq, hj,
    Jet.stepped, Jet.behind, withEvents, State.evt, State.varOwed, State.after, State.at_, State.tc]

/-- A status that is known is owed and the jet goes on. -/
theorem State.oweStatus_status_id (s : State) (h : Hdr) (len lat : Nat) (d : SliceOp) (v : Nat) :
    Status s ((s.oweStatus lat d v).advance h len) h len id lat d v := by
  refine Issued.of_tiles (fun _ => rfl) ?_
  simp [State.tilesWith, State.advance, State.oweStatus, State.oweVar, State.modCur_tiles, State.tile, State.here, State.cur_eq, Jet.stepped, Jet.behind,
    withEvents, State.evt, State.varOwed, State.after, State.at_, State.tc]

/-- A result whose value comes later is owed, its event is to come, and the jet goes on. -/
theorem State.oweVar_pending (s : State) (h : Hdr) (len : Nat) (dst : List (Nat × Nat)) (lat : Nat) (e : Instr) (d data : Nat)
    {g : Tile → Tile} (hg : ∀ x, (g x).jets = x.jets) :
    Pending s ((((s.modHere g).oweVar dst [] [] [] false).2.after lat e ⟨s.curTile, s.curSlot, s.nextId, d, data⟩).advance h len) h len g dst lat e d data := by
  have hj : ∀ x k, (g x).jet k = x.jet k := fun x k => by simp [Tile.jet, hg]
  refine Issued.of_tiles hg ?_
  simp only [State.oweVar, s.cur_modHere hg]
  simp [State.tilesWith, State.advance, State.modHere_tiles, State.modCur_tiles, State.tile, State.here, State.cur_eq, hj,
    Jet.stepped, Jet.behind, withEvents, State.evt, State.varOwed, State.after, State.at_, State.tc]

/-- An instruction that owes nothing goes on, after a change of the issuing tile that leaves its jets alone. -/
theorem State.advance_issued (s : State) (h : Hdr) (len : Nat) {g : Tile → Tile} (hg : ∀ x, (g x).jets = x.jets) :
    Issued s ((s.modHere g).advance h len) h len g [] [] := by
  have hj : ∀ x k, (g x).jet k = x.jet k := fun x k => by simp [Tile.jet, hg]
  refine Issued.of_tiles hg ?_
  simp [State.tilesWith, State.advance, State.modHere_tiles, State.modCur_tiles, State.tile, State.here, State.cur_eq, hj,
    Jet.stepped, Jet.behind, withEvents, State.tc]

end Sys2Proof.Machine
end

