-- ==== Sys2Proof/Laws/Access.lean ====
section
/-!
SUPPORT. What asking for an access and sending its parts can change (`Reached`): never memory, a pool or a jet.
-/

namespace Sys2Proof.Machine

/-! ### Reached, step by step -/

theorem Reached.refl (n : Nat) (s : State) : Reached n s s :=
  ⟨rfl, fun _ _ => rfl, rfl, fun _ => ⟨[], by simp⟩, fun _ => rfl⟩

theorem Reached.trans {n : Nat} {s t u : State} (h : Reached n s t) (k : Reached n t u) : Reached n s u := by
  refine ⟨?_, fun m hm => (k.others m hm).trans (h.others m hm), ?_, fun q => ?_, fun d => ?_⟩
  · rw [k.rest, h.rest]
  · rw [k.tile, h.tile]
  · obtain ⟨l, hl⟩ := h.network q
    obtain ⟨l', hl'⟩ := k.network q
    exact ⟨l ++ l', by rw [hl', hl, List.append_assoc]⟩
  · rw [k.caches, h.caches]

theorem Reached.foldl {α : Type} {n : Nat} (f : State → α → State) (hf : ∀ s a, Reached n s (f s a)) (l : List α) (s : State) :
    Reached n s (l.foldl f s) := by
  induction l generalizing s with
  | nil => exact .refl n s
  | cons a l ih => exact (hf s a).trans (ih _)

/-- A change of the tile within its lists of accesses and its caches. -/
theorem Reached.modTile {n : Nat} {s : State} {f : Tile → Tile}
    (hf : ∀ x, f x = { x with tlb := (f x).tlb, acc := (f x).acc, poolIn := (f x).poolIn, l1 := (f x).l1, l1At := (f x).l1At, wc := (f x).wc,
                              unacked := (f x).unacked, stash := (f x).stash }) :
    Reached n s (s.modTile n f) := by
  refine ⟨rfl, fun m hm => ?_, ?_, fun q => ⟨[], by simp [State.stop]⟩, fun d => rfl⟩
  · simp [State.modTile, State.setTile, State.tile, hm]
  · have : (s.modTile n f).tile n = f (s.tile n) := by simp [State.modTile, State.setTile, State.tile]
    rw [this]; exact hf _

theorem Reached.modAcc (n id : Nat) (f : Access → Access) (s : State) : Reached n s (s.modAcc n id f) := .modTile fun _ => rfl
theorem Reached.modPart (n id ix : Nat) (f : Part → Part) (s : State) : Reached n s (s.modPart n id ix f) := .modAcc n id _ s

theorem Reached.at_ (n : Nat) (s : State) (d : Nat) (e : Instr) (f : Focus) : Reached n s (s.at_ d e f) :=
  ⟨rfl, fun _ _ => rfl, rfl, fun q => ⟨[], by simp [State.stop]⟩, fun _ => rfl⟩
theorem Reached.after (n : Nat) (s : State) (d : Nat) (e : Instr) (f : Focus) : Reached n s (s.after d e f) := .at_ n s _ e f

theorem Reached.injectTo (n dev src dst : Nat) (port : Endpoint) (fl d : Nat) (b : Pkt) (s : State) :
    Reached n s (s.injectTo dev src dst port fl d b) := by
  refine ⟨rfl, fun _ _ => rfl, rfl, fun q => ?_, fun _ => rfl⟩
  by_cases h : q = src
  · subst h
    refine ⟨[s.packet dev q dst port fl d b], ?_⟩
    simp only [State.injectTo, State.modStop, State.stop, Tbl.get_set_same]
  · exact ⟨[], by simp [State.injectTo, State.modStop, State.stop, h]⟩
theorem Reached.inject (n src dst : Nat) (port : Endpoint) (fl d : Nat) (b : Pkt) (s : State) :
    Reached n s (s.inject src dst port fl d b) := .injectTo n s.dev.device.toNat src dst port fl d b s

theorem Reached.take (n : Nat) (s : State) : Reached n s s.take.2 :=
  ⟨rfl, fun _ _ => rfl, rfl, fun q => ⟨[], by simp [State.take, State.stop]⟩, fun _ => rfl⟩

theorem Reached.modCache (n k : Nat) (f : Die → Die) (hf : ∀ x, f x = { x with tcache := (f x).tcache, walks := (f x).walks }) (s : State) : Reached n s (s.modDie k f) := by
  refine ⟨rfl, fun _ _ => rfl, rfl, fun q => ⟨[], by simp [State.stop]⟩, fun d => ?_⟩
  by_cases h : d = k
  · subst h; simp only [State.modDie, State.die, Tbl.get_set_same]; exact hf _
  · simp only [State.modDie, State.die, Tbl.get_set_ne _ _ _ h]

theorem Reached.cacheXlate (n va : Nat) (e : TlbEntry) (s : State) : Reached n s (s.cacheXlate n va e) :=
  (Reached.modTile fun _ => rfl).trans (.modCache n _ _ (fun _ => rfl) _)

theorem Reached.cacheFor (n va nb : Nat) (st : Bool) (s : State) : Reached n s (s.cacheFor n va nb st) := by
  refine Reached.foldl _ (fun s e => ?_) _ s
  dsimp only
  split
  · exact .refl n s
  · split
    · exact .cacheXlate n _ _ s
    · exact .refl n s

theorem Reached.askUnit (n q id pa nb d : Nat) (s : State) : Reached n s (s.askUnit q id pa nb d) := by
  unfold State.askUnit
  exact .injectTo n _ _ _ _ _ _ _ _

/-- The requests for the nodes of a walk, one after another. -/
theorem Reached.asks {α β : Type} {n : Nat} (f : α → State × β → State × β) (hf : ∀ a m, Reached n m.1 (f a m).1) (l : List α) (m : State × β) :
    Reached n m.1 (l.foldr f m).1 := by
  induction l with
  | nil => exact .refl n m.1
  | cons a l ih => exact ih.trans (hf a _)

theorem Reached.walkBegins (n va : Nat) (s : State) : Reached n s (s.walkBegins n va) := by
  unfold State.walkBegins
  dsimp only
  split
  · exact .refl n s
  · exact (Reached.asks (fun a (m : State × Nat) => (m.1.askUnit (walkerStop (dieOf n) va) (unitId 0 0) a 8 (2 * m.2 + 28),
      m.2 + s.l2Cost (walkerStop (dieOf n) va) a)) (fun a m => .askUnit n _ _ a 8 _ m.1) _ (s, _)).trans (.modCache n _ _ (fun _ => rfl) _)

theorem Reached.walksBegin (n va nb : Nat) (st : Bool) (s : State) : Reached n s (s.walksBegin n va nb st) := by
  refine Reached.foldl _ (fun s e => ?_) _ s
  dsimp only
  split
  · exact .refl n s
  · exact .walkBegins n _ s

/-- A tile that differs from another in its L1 and its accesses alone. -/
def Tile.L1Acc (x y : Tile) : Prop := y = { x with l1 := y.l1, l1At := y.l1At, acc := y.acc }

theorem Tile.L1Acc.trans {x y z : Tile} (h : x.L1Acc y) (k : y.L1Acc z) : x.L1Acc z := by
  unfold Tile.L1Acc at *
  rw [k, h]

theorem Tile.l1Flash_l1Acc (x : Tile) (all : Bool) : x.L1Acc (x.l1Flash all) := rfl
theorem Tile.l1Drop_l1Acc (x : Tile) (l : Nat) : x.L1Acc (x.l1Drop l) := rfl

/-- What a performed part does to its tile: its L1 and its accesses alone. -/
theorem Tile.seen_l1Acc (x : Tile) (a : Access) (ix : Nat) : x.L1Acc (x.seen a ix) := by
  have first : x.L1Acc (if a.acq && a.sc != .tile then x.l1Flash false else x) := by
    split
    · exact x.l1Flash_l1Acc false
    · rfl
  unfold Tile.seen
  dsimp only
  split
  · split
    · exact first.trans (Tile.l1Drop_l1Acc _ _)
    · exact first
  · exact first

theorem Reached.modL1 {n : Nat} {s : State} {f : Tile → Tile} (hf : ∀ x : Tile, x.L1Acc (f x)) : Reached n s (s.modTile n f) :=
  .modTile fun x => by
    have h := hf x
    unfold Tile.L1Acc at h
    rw [h]

/-! ### Sending the parts of an access -/

theorem Reached.returns (n id ix d v : Nat) (s : State) : Reached n s (s.returns n id ix d v) := .after n s d _ _

theorem Reached.markPerformed (n id ix : Nat) (s : State) : Reached n s (s.markPerformed n id ix) := by
  have h := Reached.modPart n id ix (fun p => { p with performed := true }) s
  unfold State.markPerformed
  dsimp only
  split
  · exact h
  · exact h.trans (.modL1 fun x => x.seen_l1Acc _ ix)

theorem Reached.markStored (n id ix : Nat) (s : State) : Reached n s (s.markStored n id ix) := .modPart n id ix _ s

theorem Reached.sendPool (n : Nat) (a : Access) (ix : Nat) (p : Part) (s : State) : Reached n s (s.sendPool n a ix p) := by
  unfold State.sendPool
  dsimp only
  split
  · exact (Reached.modPart n a.id ix _ s).trans (.modTile fun _ => rfl)
  · exact (Reached.modPart n a.id ix _ s).trans (.injectTo n _ _ _ _ _ _ _ _)

theorem Reached.wcStore (n tc id addr nb en data : Nat) (s : State) : Reached n s (s.modTile n fun x => x.wcStore tc id addr nb en data) := by
  refine .modTile fun x => ?_
  unfold Tile.wcStore
  dsimp only
  split <;> rfl

/-- A part that is answered within the tile. -/
theorem Reached.answered (n id ix d v : Nat) (f : Part → Part) (s : State) :
    Reached n s (((s.modPart n id ix f).markPerformed n id ix).returns n id ix d v) :=
  (Reached.modPart n id ix f s).trans ((Reached.markPerformed n id ix _).trans (.returns n id ix d v _))

/-- A part that asks its home. -/
theorem Reached.asked (n id ix dev src dst : Nat) (port : Endpoint) (fl d : Nat) (b : Pkt) (f : Part → Part) (s : State) :
    Reached n s ((s.modPart n id ix f).injectTo dev src dst port fl d b) :=
  (Reached.modPart n id ix f s).trans (.injectTo n dev src dst port fl d b _)

theorem Tile.l1Start_l1Acc (x : Tile) (tc : Nat) (a : Access) : x.L1Acc (x.l1Start tc a) := by
  unfold Tile.l1Start
  split <;> rfl

/-- A read of the L1 starts, and goes on to its home. -/
theorem Reached.l1Start (n tc : Nat) (a : Access) (s : State) : Reached n s (s.modTile n fun x => x.l1Start tc a) := .modL1 fun x => x.l1Start_l1Acc tc a

theorem Reached.sendCached (n : Nat) (a : Access) (ix : Nat) (p : Part) (s : State) : Reached n s (s.sendCached n a ix p) := by
  have read := (Reached.l1Start n s.tc a s).trans (.asked n a.id ix (paDev p.addr) n (homeOf p.addr) .l2 1 28 (.read n a.id ix (128 * (p.addr / 128)) 128)
    (fun p' => { p' with sent := true, own := (s.tile n).buffered (p.addr / 128) }) _)
  unfold State.sendCached
  dsimp only
  split
  · exact .refl n s
  · split
    · exact (Reached.modPart n a.id ix _ s).trans (.wcStore n _ _ _ _ _ _ _)
    · split
      · refine Reached.trans ?_ (.answered n a.id ix _ _ _ _)
        refine Reached.trans ?_ (.modAcc n a.id _ _)
        exact .modL1 fun x => (x.l1Start_l1Acc s.tc a).trans rfl
      · split
        · split
          · exact (Reached.l1Start n s.tc a s).trans (.answered n a.id ix _ _ _ _)
          · exact read
        · exact read

theorem Reached.sendBypass (n : Nat) (a : Access) (ix : Nat) (p : Part) (s : State) : Reached n s (s.sendBypass n a ix p) := by
  have h : Reached n s ((s.modPart n a.id ix fun p => { p with sent := true }).modTile n fun x => x.l1Drop (p.addr / 128)) :=
    (Reached.modPart n a.id ix _ s).trans (.modTile fun _ => rfl)
  unfold State.sendBypass
  dsimp only
  split
  · exact .refl n s
  · split
    · exact h.trans (.injectTo n _ _ _ _ _ _ _ _)
    · split
      · exact h.trans ((Reached.modTile fun _ => rfl).trans (.injectTo n _ _ _ _ _ _ _ _))
      · exact h.trans (.injectTo n _ _ _ _ _ _ _ _)

theorem Reached.sendStash (n : Nat) (a : Access) (ix : Nat) (p : Part) (s : State) : Reached n s (s.sendStash n a ix p) := by
  have drop : Reached n s (s.modTile n fun x => x.l1Drop (p.addr / 128)) := .modTile fun _ => rfl
  unfold State.sendStash
  dsimp only
  split
  · exact .refl n s
  · generalize (s.modTile n fun x => x.l1Drop (p.addr / 128)) = u at drop ⊢
    split
    · split
      · refine Reached.trans ?_ (.answered n a.id ix _ _ _ _)
        split
        · refine Reached.trans ?_ (.modAcc n a.id _ _)
          refine drop.trans ?_
          exact .modTile fun _ => rfl
        · refine drop.trans ?_
          exact .modTile fun _ => rfl
      · split
        · refine drop.trans (Reached.trans ?_ (.markStored n a.id ix _))
          refine Reached.trans ?_ (.modTile fun _ => rfl)
          refine Reached.trans ?_ (.modPart n a.id ix _ _)
          exact .modTile fun _ => rfl
        · exact drop.trans (.asked n a.id ix _ _ _ _ _ _ _ _ _)
    · exact drop.trans (.asked n a.id ix _ _ _ _ _ _ _ _ _)

theorem Reached.tryPart (n id ix : Nat) (s : State) : Reached n s (s.tryPart n id ix) := by
  unfold State.tryPart
  split
  · exact .refl n s
  · split
    · exact .refl n s
    · split
      · exact .refl n s
      · split
        · exact .sendPool n _ ix _ s
        · exact .sendCached n _ ix _ s
        · exact .sendStash n _ ix _ s
        · exact .sendBypass n _ ix _ s

/-- Sending what may leave changes nothing but the accesses, the caches and the network. -/
theorem Reached.pump (n : Nat) (s : State) : Reached n s (s.pump n) := by
  unfold State.pump
  dsimp only
  refine Reached.trans (Reached.modTile (f := Tile.coverWc) fun _ => rfl) ?_
  refine Reached.trans ?_ (Reached.modTile (f := Tile.sweep) fun _ => rfl)
  exact Reached.foldl _ (fun s a => Reached.foldl _ (fun s ix => .tryPart n _ ix s) _ s) _ _

/-! ### An access enters -/

/-- Only the issuing jet's owed results and the next number differ. -/
structure Owing (s t : State) (os : List Owed) : Prop where
  rest : t = { s with tiles := t.tiles, nextId := t.nextId }
  others : ∀ m, m ≠ s.curTile → t.tile m = s.tile m
  tile : t.here = { s.here with jets := t.here.jets }
  slots : ∀ k, k ≠ s.curSlot → t.here.jet k = s.here.jet k
  jet : t.cur = { s.cur with owed := s.cur.owed ++ os }

theorem Owing.none (s : State) (n : Nat) : Owing s { s with nextId := n } [] :=
  ⟨rfl, fun _ _ => rfl, rfl, fun _ _ => rfl, by simp [State.cur_eq, State.here, State.tile]⟩

theorem Owing.oweVar (s : State) (n : Nat) (dst : List (Nat × Nat)) (mdst : List Nat) (w : List Write) (fl : List (BitVec 5)) (df : Bool) :
    ∃ o, Owing s (({ s with nextId := n } : State).oweVar dst mdst w fl df).2 [o] ∧
      (o.dst, o.mdst, o.w, o.fixed, o.pc) = (dst, mdst, w, false, s.cur.pc) := by
  refine ⟨⟨n, false, 0, dst, mdst, w, fl, s.tc, s.cur.pc, df, s.cur.ordOf n⟩, ⟨rfl, fun m hm => ?_, ?_, fun k hk => ?_, ?_⟩, rfl⟩
  · simp [State.oweVar, State.modCur_tiles, State.tile, hm]
  · simp [State.oweVar, State.modCur_tiles, State.tile, State.here, Tile.setJet]
  · simp only [State.oweVar, State.modCur_tiles, State.tile, State.here, Tbl.get_set_same]
    exact Tile.jet_setJet_ne _ _ hk
  · simp [State.oweVar, State.modCur_tiles, State.cur_eq, State.here, State.tile, State.tc]

/-- The state in which a request has entered, before its parts are sent: the jet owes its value. -/
theorem State.enter_reached (s : State) (r : Req) (p : Option (List Part)) (b : Bool) :
    ∃ s1 os, Owing s s1 os ∧ Reached s.curTile s1 (s.enter r p b) ∧
      os.map (fun (o : Owed) => (o.dst, o.mdst, o.w, o.fixed, o.pc)) = if r.dst = [] then [] else [(r.dst, [], [], false, s.cur.pc)] := by
  have tail (s2 : State) (id stage : Nat) (ac : Access) :
      Reached s.curTile s2 (State.pump (
        let s3 := s2.modTile s.curTile fun x => { x with acc := insertAcc x.acc ac }
        if stage = 2 then s3.cacheFor s.curTile r.va r.nb r.stash
        else if stage = 1 then (s3.walksBegin s.curTile r.va r.nb r.stash).after (s.xlateCost s.curTile r.va r.nb r.stash) .tlbWalkDone ⟨s.curTile, id, 0, 0, 0⟩ else s3) s.curTile) := by
    have h3 : Reached s.curTile s2 (s2.modTile s.curTile fun x => { x with acc := insertAcc x.acc ac }) := .modTile fun _ => rfl
    dsimp only
    split
    · exact h3.trans ((Reached.cacheFor _ _ _ _ _).trans (.pump _ _))
    · split
      · exact h3.trans (((Reached.walksBegin _ _ _ _ _).trans (Reached.after _ _ _ _ _)).trans (.pump _ _))
      · exact h3.trans (.pump _ _)
  obtain ⟨n, hn⟩ : ∃ n, (s.accId s.curTile s.cur.key s.cur.pc r.beat).2 = { s with nextId := n } := by
    unfold State.accId
    split
    · exact ⟨s.nextId, rfl⟩
    · exact ⟨s.nextId + 1, rfl⟩
  by_cases hd : r.dst = []
  · refine ⟨{ s with nextId := n }, [], .none s n, ?_, by simp [hd]⟩
    unfold State.enter
    simp only [hd, List.isEmpty_nil, if_true, hn]
    exact tail _ _ _ _
  · have hd' : r.dst.isEmpty = false := by simp [hd]
    obtain ⟨o, ho, hf⟩ := Owing.oweVar s n r.dst [] [] [0] false
    refine ⟨_, [o], ho, ?_, by simp only [List.map_cons, List.map_nil, hf, hd, if_false]⟩
    unfold State.enter
    simp only [hd', Bool.false_eq_true, if_false, hn]
    exact tail _ _ _ _

/-- Accesses have entered: besides what `Reached` allows, the issuing jet owes `os` more. -/
structure Entering (s t : State) (os : List Owed) : Prop where
  rest : t = { s with tiles := t.tiles, stops := t.stops, dies := t.dies, agenda := t.agenda, nextId := t.nextId }
  others : ∀ m, m ≠ s.curTile → t.tile m = s.tile m
  tile : t.here = { s.here with
    jets := t.here.jets, tlb := t.here.tlb, acc := t.here.acc, poolIn := t.here.poolIn, l1 := t.here.l1, l1At := t.here.l1At, wc := t.here.wc,
    unacked := t.here.unacked, stash := t.here.stash }
  slots : ∀ k, k ≠ s.curSlot → t.here.jet k = s.here.jet k
  jet : t.cur = { s.cur with owed := s.cur.owed ++ os }
  network : ∀ q, ∃ l, t.stop q = { s.stop q with inject := (s.stop q).inject ++ l }
  caches : ∀ d, t.die d = { s.die d with tcache := (t.die d).tcache, walks := (t.die d).walks }

theorem Entering.refl (s : State) : Entering s s [] :=
  ⟨rfl, fun _ _ => rfl, rfl, fun _ _ => rfl, by simp, fun _ => ⟨[], by simp⟩, fun _ => rfl⟩

theorem Entering.trans {s t u : State} {os os' : List Owed} (h : Entering s t os) (k : Entering t u os') : Entering s u (os ++ os') := by
  have ht : t.curTile = s.curTile := by rw [h.rest]
  have hs : t.curSlot = s.curSlot := by rw [h.rest]
  refine ⟨?_, fun m hm => ?_, ?_, fun j hj => ?_, ?_, fun q => ?_, fun d => ?_⟩
  · rw [k.rest, h.rest]
  · rw [k.others m (by rw [ht]; exact hm), h.others m hm]
  · rw [k.tile, h.tile]
  · rw [k.slots j (by rw [hs]; exact hj), h.slots j hj]
  · rw [k.jet, h.jet]; simp
  · obtain ⟨l, hl⟩ := h.network q
    obtain ⟨l', hl'⟩ := k.network q
    exact ⟨l ++ l', by rw [hl', hl, List.append_assoc]⟩
  · rw [k.caches, h.caches]

theorem Entering.of {s s1 u : State} {os : List Owed} (ho : Owing s s1 os) (hr : Reached s.curTile s1 u) : Entering s u os := by
  have hct : u.curTile = s.curTile := by rw [hr.rest, ho.rest]
  have hcs : u.curSlot = s.curSlot := by rw [hr.rest, ho.rest]
  have h1t : s1.curTile = s.curTile := by rw [ho.rest]
  have h1s : s1.curSlot = s.curSlot := by rw [ho.rest]
  have h1h : s1.here = s1.tile s.curTile := by rw [State.here, h1t]
  have huh : u.here = u.tile s.curTile := by rw [State.here, hct]
  have hj : u.here.jets = s1.here.jets := by rw [huh, hr.tile, h1h]
  refine ⟨by rw [hr.rest, ho.rest], fun m hm => by rw [hr.others m hm, ho.others m hm], ?_, fun k hk => ?_, ?_, fun q => ?_, fun d => ?_⟩
  · rw [huh, hr.tile, ← h1h, ho.tile]
  · rw [← ho.slots k hk, Tile.jet, Tile.jet, hj]
  · rw [← ho.jet, State.cur_eq, State.cur_eq, hcs, h1s, Tile.jet, Tile.jet, hj]
  · obtain ⟨l, hl⟩ := hr.network q
    have : s1.stop q = s.stop q := by rw [ho.rest]; rfl
    exact ⟨l, by rw [← this, ← hl]⟩
  · have : s1.die d = s.die d := by rw [ho.rest]; rfl
    rw [← this]; exact hr.caches d

/-- An access enters: its jet owes its value, and nothing else of any jet, no pool and no byte of memory changes. -/
theorem State.enter_entering (s : State) (r : Req) (p : Option (List Part)) (b : Bool) :
    ∃ os, Entering s (s.enter r p b) os ∧
      os.map (fun (o : Owed) => (o.dst, o.mdst, o.w, o.fixed, o.pc)) = if r.dst = [] then [] else [(r.dst, [], [], false, s.cur.pc)] := by
  obtain ⟨s1, os, ho, hr, hm⟩ := s.enter_reached r p b
  exact ⟨os, .of ho hr, hm⟩

/-- A jet whose accesses have entered goes on. -/
theorem Entered.of {s u : State} {os : List Owed} (h : Hdr) (len : Nat) (hu : Entering s u os) :
    Entered s (u.advance h len) h len os s.cur.spill := by
  have hct : u.curTile = s.curTile := by rw [hu.rest]
  have hcs : u.curSlot = s.curSlot := by rw [hu.rest]
  have hnc : u.nc = s.nc := by rw [hu.rest]
  have hadv : (u.advance h len).here = u.here.setJet s.curSlot (u.cur.stepped h len u.tc) := by
    simp [State.advance, State.modCur_tiles, State.here, State.tile, hcs]
  refine ⟨?_, fun m hm => ?_, ?_, fun k hk => ?_, ?_, fun q => ?_, hu.caches⟩
  · exact congrArg (fun v : State => { v with tiles := (u.advance h len).tiles }) hu.rest
  · rw [← hu.others m hm]
    simp [State.advance, State.modCur_tiles, State.tile, hct, hm]
  · rw [hadv]
    conv_lhs => rw [Tile.setJet, hu.tile]
    rfl
  · rw [hadv, Tile.jet_setJet_ne _ _ hk, hu.slots k hk]
  · rw [State.cur_eq, hadv]
    have : (u.advance h len).curSlot = s.curSlot := hcs
    rw [this, Tile.jet_setJet_same, hu.jet]
    simp [Jet.stepped, Jet.behind, State.tc, hnc]
  · exact hu.network q

/-- An instruction that asks for one access, and is guarded by its own footprint. -/
theorem Asks.of {s : State} {i : Instr} {h : Hdr} {len : Nat} {r : Req} {fp : Foot} {k : State → State} (hf : footOf i s = fp)
    (he : exec i s = s.guarded fp k) (hk : k s = s.accessAll h len [r]) : Asks s i h len r := by
  intro ha
  rw [he, ← hf, State.guarded_of_admits k ha, hk]
  refine ⟨fun p hp => ?_, fun c hc => ?_⟩
  · obtain ⟨os, he, hm⟩ := s.enter_entering r p true
    refine ⟨_, os, ?_, rfl, .of h len he, hm⟩
    simp [State.accessAll, hp]
  · simp [State.accessAll, hc]

end Sys2Proof.Machine
end

