-- ==== Sys2Proof/Laws/Exec.lean ====
section
/-!
SUPPORT. What every instruction answers: a program's instruction is its checks followed by its own effect; an event always answers a next state.
-/

namespace Sys2Proof.Machine

set_option linter.unusedTactic false
set_option linter.unreachableTactic false

/-- Every instruction of a program but `trap` checks its footprint first, and then has its own effect. -/
theorem exec_guarded (i : Instr) (s : State) (h : i.encoded = true) (hn : i.isTrap = false) : ∃ k, exec i s = s.guarded (footOf i s) k := by
  cases i <;> first
    | (exact ⟨_, by dsimp only [exec,
      State.arith2, State.arith3, State.arithI, State.atomic, State.branchIf, State.cmp, State.cmpi, State.csrw, State.divide, State.fence,
      State.followed, State.huskAsk, State.lane, State.load, State.maskResult, State.nest, State.patternOp, State.result, State.sendOut,
      State.shift, State.spillFill, State.store, execAbsS, execAcornCapture, execAcornMove, execActl, execAddS, execAddZ, execAddiS,
      execAddiZ, execAddw, execAddwUpdate, execAmo, execAmoAgg, execAmoAr, execAnd, execAndi, execAndn, execArm, execBasinExamine, execBdef,
      execBfi, execBfree, execBfxS, execBfxZ, execBmany, execBmnone, execBnz, execBpack, execBr, execBrev, execBrx, execBstat, execBunpk,
      execBz, execCabt, execCall, execCancel, execCancelClr, execCapk, execCasc, execCascFormed, execCascx, execCascxStop, execCclr,
      execCdis, execChainBlockRead, execChainOutput, execCisternDeposit, execClz, execCmpEq, execCmpLeS, execCmpLeZ, execCmpLtS, execCmpLtZ,
      execCmpNe, execCmpiEq, execCmpiLtS, execCmpiLtZ, execCombineSlotFill, execContextRestore, execContextSaved, execCopyAccept,
      execCopyReadReturn, execCopySourceRead, execCpy, execCpyCmp, execCrd, execCres, execCsrr, execCsrw, execCstat, execCstatClr, execCtpl,
      execCtz, execDequeTake, execDifS, execDifZ, execDivS, execDivZ, execDqnt, execDqspillWrite, execDrainRecord, execDrainRingReadback,
      execEccError, execExit, execFabs, execFadd, execFcmp, execFcvtBf, execFcvtF, execFcvtI, execFdiv, execFence, execFenceAll,
      execFenceComplete, execFexp2T, execFfma, execFill, execFmax, execFmin, execFmul, execFneg, execFork, execForwardedIssue, execFsqrt,
      execFsub, execGang, execGangEnd, execGateListArrival, execGather, execGovernorReport, execGroupPlace, execGuardEntryFree,
      execHostRegisterWrite, execHuskCopyDone, execHuskRequest, execHusked, execIcacheFill, execIcvtF, execInputTimerExpiry,
      execJournalRegionRead, execJournalWrite, execJtailWrite, execKill, execL2Fill, execL2Request, execLandingWrite, execLaneBeatWrite,
      execLaucCredit, execLaucInbound, execLaunchDispatch, execLayerDone, execLdAcqS, execLdAcqZ, execLdS, execLdZ, execLinkRetry,
      execLivePreempt, execLoadReturn, execLoop, execMalformedPacket, execMand, execMatrixAccept, execMatrixCompletion, execMatrixFreeze,
      execMatrixPark, execMatrixSelftest, execMatrixStep, execMaxS, execMaxZ, execMboxCounter, execMboxEvictSlot, execMboxFramePool,
      execMboxFreeOverflow, execMboxGrantRange, execMboxNetctl, execMboxOverflowCounts, execMboxQuote, execMboxRelease, execMboxSelftest,
      execMcCatchupRead, execMcCopyDrop, execMcJoinAck, execMcJoinArrival, execMcLineLand, execMcReplicate, execMcStreamIdle,
      execMcStreamLineSend, execMcStreamRequest, execMcrd, execMemoryWindowAccess, execMergeJoinArrival, execMergePartial,
      execMessageWindowWrite, execMfirst, execMinS, execMinZ, execMnot, execMor, execMovS, execMovZ, execMovi, execMovih, execMpopc,
      execMrgJoin, execMrgLeave, execMrgPut, execMset, execMtestAll, execMtestAny, execMulS, execMulZ, execMulhS, execMulhZ, execMx,
      execMxor, execMxqAbort, execMxqResume, execMxqStatus, execNegS, execNestAdd, execNestBeat, execNestMacc, execNestMax, execNestMin,
      execNestMov, execNestMul, execNestRmax, execNestRmin, execNestRsum, execNestSub, execNop, execNopW, execNot, execOr, execOri,
      execOverflowDelivery, execOverflowEntryFree, execOwedReturnSaved, execPageFaultForward, execPageFaultReply, execParkedRunResume,
      execPdef, execPdel, execPdis, execPen, execPinwait, execPinwaitDone, execPopc, execPowerLoss, execPowerOn, execPrecisionMessage,
      execPref, execPrio, execPriorityAgeing, execPtpLockStep, execPtpTimeAdjustment, execQnt, execRefusedHostAccess, execRemS, execRemZ,
      execRemotePoolAccess, execResidency, execResultWriteback, execResume, execRet, execRingRefillReturn, execRingrtyWrite, execRnext,
      execRol, execRouteToken, execRouterForward, execSar, execSari, execSavectlWrite, execSel, execSelftest, execSelftestDone, execSend,
      execSendAccept, execSendAck, execSendRel, execSendRelAll, execSendRelease, execSendRetry, execSendc, execShl, execShli, execShr,
      execShri, execSnapshotTake, execSpill, execSt, execStRel, execStashEvict, execStashFlush, execStashMap, execStatusResultWrite,
      execStealAnswer, execStealWakeExpiry, execSub, execSubnetDisable, execSubnetEnable, execSystolicWaitTimeout, execTdef,
      execTemperatureFall, execThermalThrottle, execThermalTrip, execThirstArrival, execThirstBackoffExpiry, execThirstRound,
      execThresholdTuning, execTileGate, execTileWake, execTimeadjWrite, execTlbWalkDone, execTlbinv, execTlbinvComplete,
      execTrackerAcknowledgement, execTrackerChange, execTrap, execTtCompletionReport, execTtSlot, execUnsub, execVabs, execVadd, execVand,
      execVbcast, execVcmp, execVcmpr, execVdif, execVexpd, execVmax, execVmin, execVmov, execVmul, execVmulh, execVneg, execVnot, execVor,
      execVperm, execVpopc, execVred, execVsar, execVscan, execVsel, execVshl, execVshr, execVwrd, execVwset, execVxor, execWayRemoval,
      execWaymask, execWcDrain, execWriteAck, execWriteRefusalResend, execWsig, execXgo, execXor, execXori, execXrepl, execXsnap]; exact rfl⟩)
    | (cases h; done)
    | (cases hn; done)

/-! ### Events -/

/-- Both branches answer a next state. -/
theorem ite_next {c : Prop} [Decidable c] {a b : Out} (ha : ∃ t, a = .next t) (hb : ∃ t, b = .next t) :
    ∃ t, (if c then a else b) = .next t := by
  split
  · exact ha
  · exact hb
theorem execNestBeat_next (s : State) : ∃ t, execNestBeat s = .next t := by
  unfold execNestBeat
  try dsimp only
  repeat' first | exact ⟨_, rfl⟩ | apply ite_next | split
theorem execLaneBeatWrite_next (s : State) : ∃ t, execLaneBeatWrite s = .next t := by
  unfold execLaneBeatWrite
  try dsimp only
  repeat' first | exact ⟨_, rfl⟩ | apply ite_next | split
theorem execResultWriteback_next (s : State) : ∃ t, execResultWriteback s = .next t := by
  unfold execResultWriteback
  try dsimp only
  repeat' first | exact ⟨_, rfl⟩ | apply ite_next | split
theorem execLoadReturn_next (s : State) : ∃ t, execLoadReturn s = .next t := by
  unfold execLoadReturn
  try dsimp only
  repeat' first | exact ⟨_, rfl⟩ | apply ite_next | split
theorem execIcacheFill_next (s : State) : ∃ t, execIcacheFill s = .next t := by
  unfold execIcacheFill
  try dsimp only
  repeat' first | exact ⟨_, rfl⟩ | apply ite_next | split
theorem execForwardedIssue_next (s : State) : ∃ t, execForwardedIssue s = .next t := by
  unfold execForwardedIssue
  try dsimp only
  repeat' first | exact ⟨_, rfl⟩ | apply ite_next | split
theorem execCascFormed_next (s : State) : ∃ t, execCascFormed s = .next t := by
  unfold execCascFormed
  try dsimp only
  repeat' first | exact ⟨_, rfl⟩ | apply ite_next | split
theorem execResidency_next (s : State) : ∃ t, execResidency s = .next t := by
  unfold execResidency
  try dsimp only
  repeat' first | exact ⟨_, rfl⟩ | apply ite_next | split
theorem execPriorityAgeing_next (s : State) : ∃ t, execPriorityAgeing s = .next t := by
  unfold execPriorityAgeing
  try dsimp only
  repeat' first | exact ⟨_, rfl⟩ | apply ite_next | split
theorem execLivePreempt_next (s : State) : ∃ t, execLivePreempt s = .next t := by
  unfold execLivePreempt
  try dsimp only
  repeat' first | exact ⟨_, rfl⟩ | apply ite_next | split
theorem execContextSaved_next (s : State) : ∃ t, execContextSaved s = .next t := by
  unfold execContextSaved
  try dsimp only
  repeat' first | exact ⟨_, rfl⟩ | apply ite_next | split
theorem execOwedReturnSaved_next (s : State) : ∃ t, execOwedReturnSaved s = .next t := by
  unfold execOwedReturnSaved
  try dsimp only
  repeat' first | exact ⟨_, rfl⟩ | apply ite_next | split
theorem execContextRestore_next (s : State) : ∃ t, execContextRestore s = .next t := by
  unfold execContextRestore
  try dsimp only
  repeat' first | exact ⟨_, rfl⟩ | apply ite_next | split
theorem execMatrixPark_next (s : State) : ∃ t, execMatrixPark s = .next t := by
  unfold execMatrixPark
  try dsimp only
  repeat' first | exact ⟨_, rfl⟩ | apply ite_next | split
theorem execParkedRunResume_next (s : State) : ∃ t, execParkedRunResume s = .next t := by
  unfold execParkedRunResume
  try dsimp only
  repeat' first | exact ⟨_, rfl⟩ | apply ite_next | split
theorem execSendAccept_next (s : State) : ∃ t, execSendAccept s = .next t := by
  unfold execSendAccept
  try dsimp only
  repeat' first | exact ⟨_, rfl⟩ | apply ite_next | split
theorem execSendRetry_next (s : State) : ∃ t, execSendRetry s = .next t := by
  unfold execSendRetry
  try dsimp only
  repeat' first | exact ⟨_, rfl⟩ | apply ite_next | split
theorem execSendRelease_next (s : State) : ∃ t, execSendRelease s = .next t := by
  unfold execSendRelease
  try dsimp only
  repeat' first | exact ⟨_, rfl⟩ | apply ite_next | split
theorem execSendAck_next (s : State) : ∃ t, execSendAck s = .next t := by
  unfold execSendAck
  try dsimp only
  repeat' first | exact ⟨_, rfl⟩ | apply ite_next | split
theorem execBasinExamine_next (s : State) : ∃ t, execBasinExamine s = .next t := by
  unfold execBasinExamine
  try dsimp only
  repeat' first | exact ⟨_, rfl⟩ | apply ite_next | split
theorem execRingRefillReturn_next (s : State) : ∃ t, execRingRefillReturn s = .next t := by
  unfold execRingRefillReturn
  try dsimp only
  repeat' first | exact ⟨_, rfl⟩ | apply ite_next | split
theorem execDequeTake_next (s : State) : ∃ t, execDequeTake s = .next t := by
  unfold execDequeTake
  try dsimp only
  repeat' first | exact ⟨_, rfl⟩ | apply ite_next | split
theorem execThirstRound_next (s : State) : ∃ t, execThirstRound s = .next t := by
  unfold execThirstRound
  try dsimp only
  repeat' first | exact ⟨_, rfl⟩ | apply ite_next | split
theorem execThirstBackoffExpiry_next (s : State) : ∃ t, execThirstBackoffExpiry s = .next t := by
  unfold execThirstBackoffExpiry
  try dsimp only
  repeat' first | exact ⟨_, rfl⟩ | apply ite_next | split
theorem execThirstArrival_next (s : State) : ∃ t, execThirstArrival s = .next t := by
  unfold execThirstArrival
  try dsimp only
  repeat' first | exact ⟨_, rfl⟩ | apply ite_next | split
theorem execStealAnswer_next (s : State) : ∃ t, execStealAnswer s = .next t := by
  unfold execStealAnswer
  try dsimp only
  repeat' first | exact ⟨_, rfl⟩ | apply ite_next | split
theorem execTrackerChange_next (s : State) : ∃ t, execTrackerChange s = .next t := by
  unfold execTrackerChange
  try dsimp only
  repeat' first | exact ⟨_, rfl⟩ | apply ite_next | split
theorem execLaunchDispatch_next (s : State) : ∃ t, execLaunchDispatch s = .next t := by
  unfold execLaunchDispatch
  repeat' first | exact ⟨_, rfl⟩ | apply ite_next | split
theorem execHuskRequest_next (s : State) : ∃ t, execHuskRequest s = .next t := by
  unfold execHuskRequest
  try dsimp only
  repeat' first | exact ⟨_, rfl⟩ | apply ite_next | split
theorem execHuskCopyDone_next (s : State) : ∃ t, execHuskCopyDone s = .next t := by
  unfold execHuskCopyDone
  try dsimp only
  repeat' first | exact ⟨_, rfl⟩ | apply ite_next | split
theorem execTtSlot_next (s : State) : ∃ t, execTtSlot s = .next t := by
  unfold execTtSlot
  try dsimp only
  repeat' first | exact ⟨_, rfl⟩ | apply ite_next | split
theorem execTtCompletionReport_next (s : State) : ∃ t, execTtCompletionReport s = .next t := by
  unfold execTtCompletionReport
  try dsimp only
  repeat' first | exact ⟨_, rfl⟩ | apply ite_next | split
theorem execWcDrain_next (s : State) : ∃ t, execWcDrain s = .next t := by
  unfold execWcDrain
  try dsimp only
  repeat' first | exact ⟨_, rfl⟩ | apply ite_next | split
theorem execWriteAck_next (s : State) : ∃ t, execWriteAck s = .next t := by
  unfold execWriteAck
  try dsimp only
  repeat' first | exact ⟨_, rfl⟩ | apply ite_next | split
theorem execFenceComplete_next (s : State) : ∃ t, execFenceComplete s = .next t := by
  unfold execFenceComplete
  try dsimp only
  repeat' first | exact ⟨_, rfl⟩ | apply ite_next | split
theorem execTlbWalkDone_next (s : State) : ∃ t, execTlbWalkDone s = .next t := by
  unfold execTlbWalkDone
  try dsimp only
  repeat' first | exact ⟨_, rfl⟩ | apply ite_next | split
theorem execL2Request_next (s : State) : ∃ t, execL2Request s = .next t := by
  unfold execL2Request
  try dsimp only
  repeat' first | exact ⟨_, rfl⟩ | apply ite_next | split
theorem execL2Fill_next (s : State) : ∃ t, execL2Fill s = .next t := by
  unfold execL2Fill
  try dsimp only
  repeat' first | exact ⟨_, rfl⟩ | apply ite_next | split
theorem execRemotePoolAccess_next (s : State) : ∃ t, execRemotePoolAccess s = .next t := by
  unfold execRemotePoolAccess
  try dsimp only
  repeat' first | exact ⟨_, rfl⟩ | apply ite_next | split
theorem execEccError_next (s : State) : ∃ t, execEccError s = .next t := by
  unfold execEccError
  try dsimp only
  repeat' first | exact ⟨_, rfl⟩ | apply ite_next | split
theorem execSelftestDone_next (s : State) : ∃ t, execSelftestDone s = .next t := by
  unfold execSelftestDone
  try dsimp only
  repeat' first | exact ⟨_, rfl⟩ | apply ite_next | split
theorem execTlbinvComplete_next (s : State) : ∃ t, execTlbinvComplete s = .next t := by
  unfold execTlbinvComplete
  try dsimp only
  repeat' first | exact ⟨_, rfl⟩ | apply ite_next | split
theorem execPinwaitDone_next (s : State) : ∃ t, execPinwaitDone s = .next t := by
  unfold execPinwaitDone
  try dsimp only
  repeat' first | exact ⟨_, rfl⟩ | apply ite_next | split
theorem execWayRemoval_next (s : State) : ∃ t, execWayRemoval s = .next t := by
  unfold execWayRemoval
  try dsimp only
  repeat' first | exact ⟨_, rfl⟩ | apply ite_next | split
theorem execCopyAccept_next (s : State) : ∃ t, execCopyAccept s = .next t := by
  unfold execCopyAccept
  try dsimp only
  repeat' first | exact ⟨_, rfl⟩ | apply ite_next | split
theorem execCopySourceRead_next (s : State) : ∃ t, execCopySourceRead s = .next t := by
  unfold execCopySourceRead
  try dsimp only
  repeat' first | exact ⟨_, rfl⟩ | apply ite_next | split
theorem execCopyReadReturn_next (s : State) : ∃ t, execCopyReadReturn s = .next t := by
  unfold execCopyReadReturn
  try dsimp only
  repeat' first | exact ⟨_, rfl⟩ | apply ite_next | split
theorem execLandingWrite_next (s : State) : ∃ t, execLandingWrite s = .next t := by
  unfold execLandingWrite
  try dsimp only
  repeat' first | exact ⟨_, rfl⟩ | apply ite_next | split
theorem execGuardEntryFree_next (s : State) : ∃ t, execGuardEntryFree s = .next t := by
  unfold execGuardEntryFree
  try dsimp only
  repeat' first | exact ⟨_, rfl⟩ | apply ite_next | split
theorem execMcJoinArrival_next (s : State) : ∃ t, execMcJoinArrival s = .next t := by
  unfold execMcJoinArrival
  try dsimp only
  repeat' first | exact ⟨_, rfl⟩ | apply ite_next | split
theorem execMcJoinAck_next (s : State) : ∃ t, execMcJoinAck s = .next t := by
  unfold execMcJoinAck
  try dsimp only
  repeat' first | exact ⟨_, rfl⟩ | apply ite_next | split
theorem execMcStreamRequest_next (s : State) : ∃ t, execMcStreamRequest s = .next t := by
  unfold execMcStreamRequest
  try dsimp only
  repeat' first | exact ⟨_, rfl⟩ | apply ite_next | split
theorem execMcStreamLineSend_next (s : State) : ∃ t, execMcStreamLineSend s = .next t := by
  unfold execMcStreamLineSend
  try dsimp only
  repeat' first | exact ⟨_, rfl⟩ | apply ite_next | split
theorem execMcReplicate_next (s : State) : ∃ t, execMcReplicate s = .next t := by
  unfold execMcReplicate
  try dsimp only
  repeat' first | exact ⟨_, rfl⟩ | apply ite_next | split
theorem execMcCopyDrop_next (s : State) : ∃ t, execMcCopyDrop s = .next t := by
  unfold execMcCopyDrop
  try dsimp only
  repeat' first | exact ⟨_, rfl⟩ | apply ite_next | split
theorem execMcLineLand_next (s : State) : ∃ t, execMcLineLand s = .next t := by
  unfold execMcLineLand
  try dsimp only
  repeat' first | exact ⟨_, rfl⟩ | apply ite_next | split
theorem execMcCatchupRead_next (s : State) : ∃ t, execMcCatchupRead s = .next t := by
  unfold execMcCatchupRead
  try dsimp only
  repeat' first | exact ⟨_, rfl⟩ | apply ite_next | split
theorem execMcStreamIdle_next (s : State) : ∃ t, execMcStreamIdle s = .next t := by
  unfold execMcStreamIdle
  try dsimp only
  repeat' first | exact ⟨_, rfl⟩ | apply ite_next | split
theorem execRouterForward_next (s : State) : ∃ t, execRouterForward s = .next t := by
  unfold execRouterForward
  try dsimp only
  repeat' first | exact ⟨_, rfl⟩ | apply ite_next | split
theorem execInputTimerExpiry_next (s : State) : ∃ t, execInputTimerExpiry s = .next t := by
  unfold execInputTimerExpiry
  try dsimp only
  repeat' first | exact ⟨_, rfl⟩ | apply ite_next | split
theorem execAcornMove_next (s : State) : ∃ t, execAcornMove s = .next t := by
  unfold execAcornMove
  try dsimp only
  repeat' first | exact ⟨_, rfl⟩ | apply ite_next | split
theorem execAcornCapture_next (s : State) : ∃ t, execAcornCapture s = .next t := by
  unfold execAcornCapture
  try dsimp only
  repeat' first | exact ⟨_, rfl⟩ | apply ite_next | split
theorem execOverflowDelivery_next (s : State) : ∃ t, execOverflowDelivery s = .next t := by
  unfold execOverflowDelivery
  try dsimp only
  repeat' first | exact ⟨_, rfl⟩ | apply ite_next | split
theorem execDrainRecord_next (s : State) : ∃ t, execDrainRecord s = .next t := by
  unfold execDrainRecord
  try dsimp only
  repeat' first | exact ⟨_, rfl⟩ | apply ite_next | split
theorem execGovernorReport_next (s : State) : ∃ t, execGovernorReport s = .next t := by
  unfold execGovernorReport
  try dsimp only
  repeat' first | exact ⟨_, rfl⟩ | apply ite_next | split
theorem execSubnetEnable_next (s : State) : ∃ t, execSubnetEnable s = .next t := by
  unfold execSubnetEnable
  try dsimp only
  repeat' first | exact ⟨_, rfl⟩ | apply ite_next | split
theorem execSubnetDisable_next (s : State) : ∃ t, execSubnetDisable s = .next t := by
  unfold execSubnetDisable
  try dsimp only
  repeat' first | exact ⟨_, rfl⟩ | apply ite_next | split
theorem execLinkRetry_next (s : State) : ∃ t, execLinkRetry s = .next t := by
  unfold execLinkRetry
  try dsimp only
  repeat' first | exact ⟨_, rfl⟩ | apply ite_next | split
theorem execMalformedPacket_next (s : State) : ∃ t, execMalformedPacket s = .next t := by
  unfold execMalformedPacket
  try dsimp only
  repeat' first | exact ⟨_, rfl⟩ | apply ite_next | split
theorem execLaucInbound_next (s : State) : ∃ t, execLaucInbound s = .next t := by
  unfold execLaucInbound
  try dsimp only
  repeat' first | exact ⟨_, rfl⟩ | apply ite_next | split
theorem execLaucCredit_next (s : State) : ∃ t, execLaucCredit s = .next t := by
  unfold execLaucCredit
  try dsimp only
  repeat' first | exact ⟨_, rfl⟩ | apply ite_next | split
theorem execMergePartial_next (s : State) : ∃ t, execMergePartial s = .next t := by
  unfold execMergePartial
  try dsimp only
  repeat' first | exact ⟨_, rfl⟩ | apply ite_next | split
theorem execMergeJoinArrival_next (s : State) : ∃ t, execMergeJoinArrival s = .next t := by
  unfold execMergeJoinArrival
  try dsimp only
  repeat' first | exact ⟨_, rfl⟩ | apply ite_next | split
theorem execMatrixAccept_next (s : State) : ∃ t, execMatrixAccept s = .next t := by
  unfold execMatrixAccept
  try dsimp only
  repeat' first | exact ⟨_, rfl⟩ | apply ite_next | split
theorem execMatrixStep_next (s : State) : ∃ t, execMatrixStep s = .next t := by
  unfold execMatrixStep
  try dsimp only
  repeat' first | exact ⟨_, rfl⟩ | apply ite_next | split
theorem execSystolicWaitTimeout_next (s : State) : ∃ t, execSystolicWaitTimeout s = .next t := by
  unfold execSystolicWaitTimeout
  try dsimp only
  repeat' first | exact ⟨_, rfl⟩ | apply ite_next | split
theorem execPrecisionMessage_next (s : State) : ∃ t, execPrecisionMessage s = .next t := by
  unfold execPrecisionMessage
  try dsimp only
  repeat' first | exact ⟨_, rfl⟩ | apply ite_next | split
theorem execChainOutput_next (s : State) : ∃ t, execChainOutput s = .next t := by
  unfold execChainOutput
  try dsimp only
  repeat' first | exact ⟨_, rfl⟩ | apply ite_next | split
theorem execCisternDeposit_next (s : State) : ∃ t, execCisternDeposit s = .next t := by
  unfold execCisternDeposit
  try dsimp only
  repeat' first | exact ⟨_, rfl⟩ | apply ite_next | split
theorem execMatrixCompletion_next (s : State) : ∃ t, execMatrixCompletion s = .next t := by
  unfold execMatrixCompletion
  try dsimp only
  repeat' first | exact ⟨_, rfl⟩ | apply ite_next | split
theorem execMatrixFreeze_next (s : State) : ∃ t, execMatrixFreeze s = .next t := by
  unfold execMatrixFreeze
  try dsimp only
  repeat' first | exact ⟨_, rfl⟩ | apply ite_next | split
theorem execMatrixSelftest_next (s : State) : ∃ t, execMatrixSelftest s = .next t := by
  unfold execMatrixSelftest
  try dsimp only
  repeat' first | exact ⟨_, rfl⟩ | apply ite_next | split
theorem execAddwUpdate_next (s : State) : ∃ t, execAddwUpdate s = .next t := by
  unfold execAddwUpdate
  try dsimp only
  repeat' first | exact ⟨_, rfl⟩ | apply ite_next | split
theorem execChainBlockRead_next (s : State) : ∃ t, execChainBlockRead s = .next t := by
  unfold execChainBlockRead
  try dsimp only
  repeat' first | exact ⟨_, rfl⟩ | apply ite_next | split
theorem execGateListArrival_next (s : State) : ∃ t, execGateListArrival s = .next t := by
  unfold execGateListArrival
  try dsimp only
  repeat' first | exact ⟨_, rfl⟩ | apply ite_next | split
theorem execRouteToken_next (s : State) : ∃ t, execRouteToken s = .next t := by
  unfold execRouteToken
  try dsimp only
  repeat' first | exact ⟨_, rfl⟩ | apply ite_next | split
theorem execSnapshotTake_next (s : State) : ∃ t, execSnapshotTake s = .next t := by
  unfold execSnapshotTake
  try dsimp only
  repeat' first | exact ⟨_, rfl⟩ | apply ite_next | split
theorem execGather_next (s : State) : ∃ t, execGather s = .next t := by
  unfold execGather
  try dsimp only
  repeat' first | exact ⟨_, rfl⟩ | apply ite_next | split
theorem execGroupPlace_next (s : State) : ∃ t, execGroupPlace s = .next t := by
  unfold execGroupPlace
  try dsimp only
  repeat' first | exact ⟨_, rfl⟩ | apply ite_next | split
theorem execCombineSlotFill_next (s : State) : ∃ t, execCombineSlotFill s = .next t := by
  unfold execCombineSlotFill
  try dsimp only
  repeat' first | exact ⟨_, rfl⟩ | apply ite_next | split
theorem execLayerDone_next (s : State) : ∃ t, execLayerDone s = .next t := by
  unfold execLayerDone
  try dsimp only
  repeat' first | exact ⟨_, rfl⟩ | apply ite_next | split
theorem execTileGate_next (s : State) : ∃ t, execTileGate s = .next t := by
  unfold execTileGate
  try dsimp only
  repeat' first | exact ⟨_, rfl⟩ | apply ite_next | split
theorem execTileWake_next (s : State) : ∃ t, execTileWake s = .next t := by
  unfold execTileWake
  try dsimp only
  repeat' first | exact ⟨_, rfl⟩ | apply ite_next | split
theorem execStealWakeExpiry_next (s : State) : ∃ t, execStealWakeExpiry s = .next t := by
  unfold execStealWakeExpiry
  try dsimp only
  repeat' first | exact ⟨_, rfl⟩ | apply ite_next | split
theorem execMessageWindowWrite_next (s : State) : ∃ t, execMessageWindowWrite s = .next t := by
  unfold execMessageWindowWrite
  try dsimp only
  repeat' first | exact ⟨_, rfl⟩ | apply ite_next | split
theorem execMemoryWindowAccess_next (s : State) : ∃ t, execMemoryWindowAccess s = .next t := by
  unfold execMemoryWindowAccess
  try dsimp only
  repeat' first | exact ⟨_, rfl⟩ | apply ite_next | split
theorem execRefusedHostAccess_next (s : State) : ∃ t, execRefusedHostAccess s = .next t := by
  unfold execRefusedHostAccess
  try dsimp only
  repeat' first | exact ⟨_, rfl⟩ | apply ite_next | split
theorem execJournalRegionRead_next (s : State) : ∃ t, execJournalRegionRead s = .next t := by
  unfold execJournalRegionRead
  try dsimp only
  repeat' first | exact ⟨_, rfl⟩ | apply ite_next | split
theorem execJournalWrite_next (s : State) : ∃ t, execJournalWrite s = .next t := by
  unfold execJournalWrite
  try dsimp only
  repeat' first | exact ⟨_, rfl⟩ | apply ite_next | split
theorem execJtailWrite_next (s : State) : ∃ t, execJtailWrite s = .next t := by
  unfold execJtailWrite
  try dsimp only
  repeat' first | exact ⟨_, rfl⟩ | apply ite_next | split
theorem execTimeadjWrite_next (s : State) : ∃ t, execTimeadjWrite s = .next t := by
  unfold execTimeadjWrite
  try dsimp only
  repeat' first | exact ⟨_, rfl⟩ | apply ite_next | split
theorem execHostRegisterWrite_next (s : State) : ∃ t, execHostRegisterWrite s = .next t := by
  unfold execHostRegisterWrite
  try dsimp only
  repeat' first | exact ⟨_, rfl⟩ | apply ite_next | split
theorem execPageFaultForward_next (s : State) : ∃ t, execPageFaultForward s = .next t := by
  unfold execPageFaultForward
  try dsimp only
  repeat' first | exact ⟨_, rfl⟩ | apply ite_next | split
theorem execPageFaultReply_next (s : State) : ∃ t, execPageFaultReply s = .next t := by
  unfold execPageFaultReply
  try dsimp only
  repeat' first | exact ⟨_, rfl⟩ | apply ite_next | split
theorem execOverflowEntryFree_next (s : State) : ∃ t, execOverflowEntryFree s = .next t := by
  unfold execOverflowEntryFree
  try dsimp only
  repeat' first | exact ⟨_, rfl⟩ | apply ite_next | split
theorem execPtpLockStep_next (s : State) : ∃ t, execPtpLockStep s = .next t := by
  unfold execPtpLockStep
  try dsimp only
  repeat' first | exact ⟨_, rfl⟩ | apply ite_next | split
theorem execMboxRelease_next (s : State) : ∃ t, execMboxRelease s = .next t := by
  unfold execMboxRelease
  try dsimp only
  repeat' first | exact ⟨_, rfl⟩ | apply ite_next | split
theorem execMboxNetctl_next (s : State) : ∃ t, execMboxNetctl s = .next t := by
  unfold execMboxNetctl
  try dsimp only
  repeat' first | exact ⟨_, rfl⟩ | apply ite_next | split
theorem execMboxCounter_next (s : State) : ∃ t, execMboxCounter s = .next t := by
  unfold execMboxCounter
  try dsimp only
  repeat' first | exact ⟨_, rfl⟩ | apply ite_next | split
theorem execMboxOverflowCounts_next (s : State) : ∃ t, execMboxOverflowCounts s = .next t := by
  unfold execMboxOverflowCounts
  try dsimp only
  repeat' first | exact ⟨_, rfl⟩ | apply ite_next | split
theorem execMboxFreeOverflow_next (s : State) : ∃ t, execMboxFreeOverflow s = .next t := by
  unfold execMboxFreeOverflow
  try dsimp only
  repeat' first | exact ⟨_, rfl⟩ | apply ite_next | split
theorem execMboxSelftest_next (s : State) : ∃ t, execMboxSelftest s = .next t := by
  unfold execMboxSelftest
  try dsimp only
  repeat' first | exact ⟨_, rfl⟩ | apply ite_next | split
theorem execMboxEvictSlot_next (s : State) : ∃ t, execMboxEvictSlot s = .next t := by
  unfold execMboxEvictSlot
  try dsimp only
  repeat' first | exact ⟨_, rfl⟩ | apply ite_next | split
theorem execMboxQuote_next (s : State) : ∃ t, execMboxQuote s = .next t := by
  unfold execMboxQuote
  try dsimp only
  repeat' first | exact ⟨_, rfl⟩ | apply ite_next | split
theorem execMboxFramePool_next (s : State) : ∃ t, execMboxFramePool s = .next t := by
  unfold execMboxFramePool
  try dsimp only
  repeat' first | exact ⟨_, rfl⟩ | apply ite_next | split
theorem execMboxGrantRange_next (s : State) : ∃ t, execMboxGrantRange s = .next t := by
  unfold execMboxGrantRange
  try dsimp only
  repeat' first | exact ⟨_, rfl⟩ | apply ite_next | split
theorem execPowerOn_next (s : State) : ∃ t, execPowerOn s = .next t := by
  unfold execPowerOn
  try dsimp only
  repeat' first | exact ⟨_, rfl⟩ | apply ite_next | split
theorem execThermalThrottle_next (s : State) : ∃ t, execThermalThrottle s = .next t := by
  unfold execThermalThrottle
  try dsimp only
  repeat' first | exact ⟨_, rfl⟩ | apply ite_next | split
theorem execThermalTrip_next (s : State) : ∃ t, execThermalTrip s = .next t := by
  unfold execThermalTrip
  try dsimp only
  repeat' first | exact ⟨_, rfl⟩ | apply ite_next | split
theorem execPowerLoss_next (s : State) : ∃ t, execPowerLoss s = .next t := by
  unfold execPowerLoss
  try dsimp only
  repeat' first | exact ⟨_, rfl⟩ | apply ite_next | split
theorem execTemperatureFall_next (s : State) : ∃ t, execTemperatureFall s = .next t := by
  unfold execTemperatureFall
  try dsimp only
  repeat' first | exact ⟨_, rfl⟩ | apply ite_next | split
theorem execPtpTimeAdjustment_next (s : State) : ∃ t, execPtpTimeAdjustment s = .next t := by
  unfold execPtpTimeAdjustment
  try dsimp only
  repeat' first | exact ⟨_, rfl⟩ | apply ite_next | split
theorem execThresholdTuning_next (s : State) : ∃ t, execThresholdTuning s = .next t := by
  unfold execThresholdTuning
  try dsimp only
  repeat' first | exact ⟨_, rfl⟩ | apply ite_next | split
theorem execDrainRingReadback_next (s : State) : ∃ t, execDrainRingReadback s = .next t := by
  unfold execDrainRingReadback
  try dsimp only
  repeat' first | exact ⟨_, rfl⟩ | apply ite_next | split
theorem execTrackerAcknowledgement_next (s : State) : ∃ t, execTrackerAcknowledgement s = .next t := by
  unfold execTrackerAcknowledgement
  try dsimp only
  repeat' first | exact ⟨_, rfl⟩ | apply ite_next | split
theorem execStatusResultWrite_next (s : State) : ∃ t, execStatusResultWrite s = .next t := by
  unfold execStatusResultWrite
  try dsimp only
  repeat' first | exact ⟨_, rfl⟩ | apply ite_next | split
theorem execWriteRefusalResend_next (s : State) : ∃ t, execWriteRefusalResend s = .next t := by
  unfold execWriteRefusalResend
  try dsimp only
  repeat' first | exact ⟨_, rfl⟩ | apply ite_next | split

/-- `trap` traps (R347, R350). -/
theorem execTrap_next (h : Hdr) (a : SliceOp) (c : BitVec 16) (s : State) : ∃ t, execTrap h a c s = .next t := by
  unfold execTrap
  split <;> exact ⟨_, rfl⟩

/-- Every instruction and event answers a next state. -/
theorem exec_next (i : Instr) (s : State) : ∃ t, exec i s = .next t := by
  by_cases h : i.encoded = true
  · by_cases hn : i.isTrap = false
    · obtain ⟨k, hk⟩ := exec_guarded i s h hn
      rw [hk]
      exact s.guarded_next _ _
    · cases i <;> first
        | (exact absurd rfl hn)
        | (simp only [exec]; exact execTrap_next _ _ _ s)
  · cases i <;> first
      | (exact absurd rfl h)
      | (simp only [exec,
        execNestBeat_next, execLaneBeatWrite_next, execResultWriteback_next, execLoadReturn_next, execIcacheFill_next,
        execForwardedIssue_next, execCascFormed_next, execResidency_next, execPriorityAgeing_next, execLivePreempt_next,
        execContextSaved_next, execOwedReturnSaved_next, execContextRestore_next, execMatrixPark_next, execParkedRunResume_next,
        execSendAccept_next, execSendRetry_next, execSendRelease_next, execSendAck_next, execBasinExamine_next, execRingRefillReturn_next,
        execDequeTake_next, execThirstRound_next, execThirstBackoffExpiry_next, execThirstArrival_next, execStealAnswer_next,
        execTrackerChange_next, execLaunchDispatch_next, execHuskRequest_next, execHuskCopyDone_next, execTtSlot_next,
        execTtCompletionReport_next, execWcDrain_next, execWriteAck_next, execFenceComplete_next, execTlbWalkDone_next, execL2Request_next,
        execL2Fill_next, execRemotePoolAccess_next, execEccError_next, execSelftestDone_next, execTlbinvComplete_next, execPinwaitDone_next,
        execWayRemoval_next, execCopyAccept_next, execCopySourceRead_next, execCopyReadReturn_next, execLandingWrite_next,
        execGuardEntryFree_next, execMcJoinArrival_next, execMcJoinAck_next, execMcStreamRequest_next, execMcStreamLineSend_next,
        execMcReplicate_next, execMcCopyDrop_next, execMcLineLand_next, execMcCatchupRead_next, execMcStreamIdle_next,
        execRouterForward_next, execInputTimerExpiry_next, execAcornMove_next, execAcornCapture_next, execOverflowDelivery_next,
        execDrainRecord_next, execGovernorReport_next, execSubnetEnable_next, execSubnetDisable_next, execLinkRetry_next,
        execMalformedPacket_next, execLaucInbound_next, execLaucCredit_next, execMergePartial_next, execMergeJoinArrival_next,
        execMatrixAccept_next, execMatrixStep_next, execSystolicWaitTimeout_next, execPrecisionMessage_next, execChainOutput_next,
        execCisternDeposit_next, execMatrixCompletion_next, execMatrixFreeze_next, execMatrixSelftest_next, execAddwUpdate_next,
        execChainBlockRead_next, execGateListArrival_next, execRouteToken_next, execSnapshotTake_next, execGather_next, execGroupPlace_next,
        execCombineSlotFill_next, execLayerDone_next, execTileGate_next, execTileWake_next, execStealWakeExpiry_next,
        execMessageWindowWrite_next, execMemoryWindowAccess_next, execRefusedHostAccess_next, execJournalRegionRead_next,
        execJournalWrite_next, execJtailWrite_next, execTimeadjWrite_next, execHostRegisterWrite_next, execPageFaultForward_next,
        execPageFaultReply_next, execOverflowEntryFree_next, execPtpLockStep_next, execMboxRelease_next, execMboxNetctl_next,
        execMboxCounter_next, execMboxOverflowCounts_next, execMboxFreeOverflow_next, execMboxSelftest_next, execMboxEvictSlot_next,
        execMboxQuote_next, execMboxFramePool_next, execMboxGrantRange_next, execPowerOn_next, execThermalThrottle_next,
        execThermalTrip_next, execPowerLoss_next, execTemperatureFall_next, execPtpTimeAdjustment_next, execThresholdTuning_next,
        execDrainRingReadback_next, execTrackerAcknowledgement_next, execStatusResultWrite_next, execWriteRefusalResend_next])

end Sys2Proof.Machine
end

