-- ==== Sys2Proof/Laws/Lane.lean ====
section
/-!
SUPPORT. What issuing a lane instruction can do: what it owes and when it is written (R110, R132, R133).
-/

namespace Sys2Proof.Machine

/-- The tile while the lane unit is taken. -/
def Tile.laneTaken (tc nb div : Nat) (x : Tile) : Tile :=
  { x with laneBusy := tc + nb, fdivBusy := if div = 0 then x.fdivBusy else tc + div }

@[simp] theorem Tile.laneTaken_jet (tc nb div : Nat) (x : Tile) (k : Nat) : (Tile.laneTaken tc nb div x).jet k = x.jet k := rfl

theorem LaneIssued.of_tiles {s u : State} {h : Hdr} {nb div : Nat} {r : Owed} {es : List (Nat × Focus × Instr)} {pd : List PendRead}
    (hp : nb = 1 → pd = s.cur.pend) (hr : r.id = s.nextId ∧ r.pc = s.cur.pc ∧ r.issued = s.tc)
    (hu : u = ({ s with agenda := withEvents s.agenda es, nextId := u.nextId,
                        tiles := s.tilesWith (Tile.laneTaken s.tc nb div) { s.cur.behind h 12 s.tc [r] with pend := pd } } : State)) :
    LaneIssued s u h nb div r es := by
  have := JetFrame.of_tiles (u := u) (g := Tile.laneTaken s.tc nb div) (j := { s.cur.behind h 12 s.tc [r] with pend := pd }) (fun _ => rfl) (by rw [hu])
  refine ⟨this.1, by rw [this.2], fun h1 => by rw [this.2]; exact hp h1, by rw [hu], hr⟩

theorem State.laneStart_eq (s : State) (nb div : Nat) : s.laneStart nb div = s.modHere (Tile.laneTaken s.tc nb div) := rfl

/-- Events added in order, as a fold over their delays. -/
theorem State.foldl_after (s : State) (l : List Nat) (d : Nat → Nat) (e : Instr) (f : Focus) :
    l.foldl (fun s k => s.after (d k) e f) s = { s with agenda := withEvents s.agenda (l.map fun k => (s.nc + 2 * d k, f, e)) } := by
  induction l generalizing s with
  | nil => rfl
  | cons a l ih => rw [List.foldl_cons, ih]; rfl

/-- A lane instruction of one beat. -/
theorem State.laneOne_issued (s : State) (h : Hdr) (p : LanePlan) (w : Write) :
    ∃ r es, LaneIssued s (((s.laneStart 1 p.divide).laneOne p w).advance h 12) h 1 p.divide r es ∧ r.w = [w] ∧ r.flags = [BitVec.ofNat 5 p.flags] ∧
      r.fixed = (!p.var) ∧ es = if p.var then [s.evt p.lat .laneBeatWrite 0 0] else [s.evt (p.lat + b2n p.fp.cross) .resultWriteback 0 0] := by
  cases hv : p.var
  · refine ⟨s.fixedOwed (p.lat + b2n p.fp.cross) w (BitVec.ofNat 5 p.flags), _, LaneIssued.of_tiles (pd := s.cur.pend) (fun _ => rfl)
      ⟨rfl, rfl, rfl⟩ ?_, rfl, rfl, rfl, rfl⟩
    simp only [State.laneOne, hv, State.laneStart_eq, State.owe, Bool.false_eq_true, if_false]
    simp only [s.cur_modHere (g := Tile.laneTaken s.tc 1 p.divide) (fun _ => rfl)]
    simp [State.tilesWith, State.advance, State.modHere_tiles, State.modCur_tiles, State.tile, State.here, State.cur_eq, Jet.stepped,
      Jet.behind, withEvents, State.evt, State.fixedOwed, State.after, State.at_, State.tc]
  · refine ⟨s.varOwed p.fp.dst p.fp.mdst [w] [BitVec.ofNat 5 p.flags] true, _, LaneIssued.of_tiles (pd := s.cur.pend) (fun _ => rfl)
      ⟨rfl, rfl, rfl⟩ ?_, rfl, rfl, rfl, rfl⟩
    simp only [State.laneOne, hv, State.laneStart_eq, State.oweVar, if_true]
    simp only [s.cur_modHere (g := Tile.laneTaken s.tc 1 p.divide) (fun _ => rfl)]
    simp [State.tilesWith, State.advance, State.modHere_tiles, State.modCur_tiles, State.tile, State.here, State.cur_eq, Jet.stepped,
      Jet.behind, withEvents, State.evt, State.varOwed, State.after, State.at_, State.tc]

/-- A lane instruction of several beats. -/
theorem State.laneMany_issued (s : State) (h : Hdr) (p : LanePlan) (hb : p.beats.length ≠ 1) :
    ∃ r es, LaneIssued s (((s.laneStart p.beats.length p.divide).laneMany p).advance h 12) h p.beats.length p.divide r es ∧
      r.w = p.beats.map (·.w) ∧ r.flags = (p.beats.map fun b => BitVec.ofNat 5 b.flags) ∧ r.fixed = false ∧
      r.defer = (p.whole || p.defers s.here.fpten) ∧
      es = if p.whole then [s.evt p.lat .laneBeatWrite 0 0]
        else if r.defer then [s.evt (p.lat + p.beats.length - 1) .laneBeatWrite 0 0]
        else (List.range p.beats.length).map fun k => s.evt (p.lat + k) .laneBeatWrite 0 0 := by
  have hf : (s.modHere (Tile.laneTaken s.tc p.beats.length p.divide)).here.fpten = s.here.fpten := by simp [Tile.laneTaken]
  refine ⟨s.varOwed p.fp.dst p.fp.mdst (p.beats.map (·.w)) (p.beats.map fun b => BitVec.ofNat 5 b.flags) (p.whole || p.defers s.here.fpten), _,
    LaneIssued.of_tiles (pd := s.cur.pend ++ p.beats.mapIdx fun k b => ⟨b.reads, s.tc + k⟩) (fun h => absurd h hb) ⟨rfl, rfl, rfl⟩ ?_,
    rfl, rfl, rfl, rfl, rfl⟩
  simp only [State.laneMany, State.laneStart_eq, State.oweVar]
  simp only [s.cur_modHere (g := Tile.laneTaken s.tc p.beats.length p.divide) (fun _ => rfl), hf, State.foldl_after]
  have hd : (s.varOwed p.fp.dst p.fp.mdst (p.beats.map (·.w)) (p.beats.map fun b => BitVec.ofNat 5 b.flags) (p.whole || p.defers s.here.fpten)).defer =
    (p.whole || p.defers s.here.fpten) := rfl
  rw [hd]
  cases hw : p.whole <;> cases hq : p.defers s.here.fpten <;>
  simp [State.tilesWith, State.advance, State.modHere_tiles, State.modCur_tiles, State.tile, State.here, State.cur_eq, Jet.stepped,
    Jet.behind, withEvents, State.evt, State.varOwed, State.after, State.at_, State.tc]

end Sys2Proof.Machine
end

