-- ==== Sys2Proof/Laws/Memory.lean ====
section
/-!
SUPPORT. The laws of memory: what is read back after a write, and that every write keeps the canonical form.
-/

namespace Sys2Proof.Machine

/-! ### One byte -/

theorem Memory.mem_insert {m : Memory} {a : Nat} {b : Byte} {c : Host.Cell} (h : c ∈ Memory.insert m a b) : c = (a, b) ∨ c ∈ m := by
  induction m with
  | nil => simpa [Memory.insert] using h
  | cons e r ih =>
    simp only [Memory.insert] at h
    split at h
    · rcases List.mem_cons.1 h with h | h <;> simp [h]
    · split at h
      · rcases List.mem_cons.1 h with h | h
        · simp [h]
        · exact .inr h
      · rcases List.mem_cons.1 h with h | h
        · simp [h]
        · rcases ih h with h | h <;> simp [h]

theorem Memory.insert_wf {m : Memory} {a : Nat} {b : Byte} (hm : Memory.wf m) (hb : b ≠ 0) : Memory.wf (Memory.insert m a b) := by
  induction m with
  | nil => exact ⟨by simp [Memory.insert], fun c hc => by rw [List.mem_singleton.1 hc]; exact hb⟩
  | cons e r ih =>
    obtain ⟨hs, hz⟩ := hm
    rw [List.pairwise_cons] at hs
    have hr : Memory.wf r := ⟨hs.2, fun c hc => hz c (List.mem_cons_of_mem _ hc)⟩
    simp only [Memory.insert]
    split
    · rename_i he
      subst he
      exact ⟨List.pairwise_cons.2 hs, fun c hc => by
        rcases List.mem_cons.1 hc with rfl | hc
        · exact hb
        · exact hr.2 c hc⟩
    · split
      · rename_i hlt
        refine ⟨List.pairwise_cons.2 ⟨fun c hc => ?_, List.pairwise_cons.2 hs⟩, fun c hc => ?_⟩
        · rcases List.mem_cons.1 hc with rfl | hc
          · exact hlt
          · exact Nat.lt_trans hlt (hs.1 c hc)
        · rcases List.mem_cons.1 hc with rfl | hc
          · exact hb
          · exact hz c hc
      · rename_i hne hge
        refine ⟨List.pairwise_cons.2 ⟨fun c hc => ?_, (ih hr).1⟩, fun c hc => ?_⟩
        · rcases Memory.mem_insert hc with rfl | hc
          · exact Nat.lt_of_le_of_ne (Nat.le_of_not_lt hge) hne
          · exact hs.1 c hc
        · rcases List.mem_cons.1 hc with rfl | hc
          · exact hz _ (List.mem_cons_self ..)
          · exact (ih hr).2 c hc

theorem Memory.filter_wf {m : Memory} (hm : Memory.wf m) (p : Host.Cell → Bool) : Memory.wf (m.filter p) :=
  ⟨hm.1.filter p, fun c hc => hm.2 c (List.mem_filter.1 hc).1⟩

/-- A write of one byte keeps the canonical form. -/
theorem Memory.write_wf {m : Memory} (hm : Memory.wf m) (a : Nat) (b : Byte) : Memory.wf (m.write a b) := by
  unfold Memory.write
  split
  · exact Memory.filter_wf hm _
  · rename_i hb
    exact Memory.insert_wf hm hb

theorem Memory.read_insert_same (m : Memory) (a : Nat) (b : Byte) : (Memory.insert m a b).read a = b := by
  induction m with
  | nil => simp [Memory.insert, Memory.read]
  | cons e r ih =>
    simp only [Memory.insert]
    split
    · simp [Memory.read]
    · rename_i hne
      split
      · simp [Memory.read]
      · simp [Memory.read, hne, ih]

theorem Memory.read_insert_ne (m : Memory) {a a' : Nat} (b : Byte) (h : a' ≠ a) : (Memory.insert m a b).read a' = m.read a' := by
  induction m with
  | nil => simp [Memory.insert, Memory.read, Ne.symm h]
  | cons e r ih =>
    simp only [Memory.insert]
    split
    · rename_i he
      simp [Memory.read, he, Ne.symm h]
    · split
      · simp [Memory.read, Ne.symm h]
      · simp [Memory.read, ih]

theorem Memory.read_filter_same (m : Memory) (a : Nat) : Memory.read (m.filter (fun c => c.1 != a)) a = 0 := by
  induction m with
  | nil => rfl
  | cons e r ih =>
    rw [List.filter_cons]
    split
    · rename_i he
      simp only [bne_iff_ne, ne_eq] at he
      simp [Memory.read, he, ih]
    · exact ih

theorem Memory.read_filter_ne (m : Memory) {a a' : Nat} (h : a' ≠ a) : Memory.read (m.filter (fun c => c.1 != a)) a' = m.read a' := by
  induction m with
  | nil => rfl
  | cons e r ih =>
    rw [List.filter_cons]
    split
    · simp [Memory.read, ih]
    · rename_i he
      simp only [bne_iff_ne, ne_eq, Decidable.not_not] at he
      simp [Memory.read, he, Ne.symm h, ih]

/-- A byte that was written reads as it was written. -/
@[simp] theorem Memory.read_write_same (m : Memory) (a : Nat) (b : Byte) : (m.write a b).read a = b := by
  unfold Memory.write
  split
  · rename_i hb
    rw [Memory.read_filter_same, hb]
  · exact Memory.read_insert_same m a b

/-- Every other byte reads as before. -/
theorem Memory.read_write_ne (m : Memory) {a a' : Nat} (b : Byte) (h : a' ≠ a) : (m.write a b).read a' = m.read a' := by
  unfold Memory.write
  split
  · exact Memory.read_filter_ne m h
  · exact Memory.read_insert_ne m b h

/-! ### Several bytes -/

/-- A write of several bytes keeps the canonical form. -/
theorem Memory.writeN_wf {m : Memory} (hm : Memory.wf m) (a n v : Nat) : Memory.wf (m.writeN a n v) := by
  induction n generalizing m a v with
  | zero => exact hm
  | succ n ih => exact ih (Memory.write_wf hm _ _) _ _

/-- A write under nibble enables keeps the canonical form. -/
theorem Memory.writeEn_wf {m : Memory} (hm : Memory.wf m) (a n en v : Nat) : Memory.wf (m.writeEn a n en v) :=
  Memory.writeN_wf hm _ _ _

/-- A write of `n` bytes at `a` leaves every byte outside them as it was. -/
theorem Memory.read_writeN_outside (m : Memory) (a n v : Nat) {a' : Nat} (h : a' < a ∨ a + n ≤ a') : (m.writeN a n v).read a' = m.read a' := by
  induction n generalizing m a v with
  | zero => rfl
  | succ n ih =>
    rw [Memory.writeN, ih _ _ _ (by omega), Memory.read_write_ne _ _ (by omega)]

theorem Memory.read_writeEn_outside (m : Memory) (a n en v : Nat) {a' : Nat} (h : a' < a ∨ a + n ≤ a') :
    (m.writeEn a n en v).read a' = m.read a' :=
  Memory.read_writeN_outside m a n _ h

/-- Byte `k` of what `n` bytes at `a` were written with. -/
theorem Memory.read_writeN_inside (m : Memory) (a n v k : Nat) (h : k < n) :
    (m.writeN a n v).read (a + k) = BitVec.ofNat 8 (v / 256 ^ k) := by
  induction n generalizing m a v k with
  | zero => omega
  | succ n ih =>
    rw [Memory.writeN]
    cases k with
    | zero => rw [Memory.read_writeN_outside _ _ _ _ (by omega)]; simp
    | succ k =>
      have := ih (m.write a (BitVec.ofNat 8 v)) (a + 1) (v / 256) k (by omega)
      rw [show a + (k + 1) = a + 1 + k by omega, this, Nat.div_div_eq_div_mul, Nat.pow_succ, Nat.mul_comm 256]

/-- What was written is what is read back. -/
theorem Memory.readN_writeN_same (m : Memory) (a n v : Nat) : (m.writeN a n v).readN a n = v % 256 ^ n := by
  induction n generalizing m a v with
  | zero => simp [Memory.readN, Nat.mod_one]
  | succ n ih =>
    rw [Memory.writeN, Memory.readN, ih, Memory.read_writeN_outside _ _ _ _ (by omega), Memory.read_write_same, Nat.pow_succ,
      Nat.mul_comm (256 ^ n), Nat.mod_mul, BitVec.toNat_ofNat]

theorem Memory.readN_congr {m m' : Memory} {a n : Nat} (h : ∀ k, k < n → m'.read (a + k) = m.read (a + k)) : m'.readN a n = m.readN a n := by
  induction n generalizing a with
  | zero => rfl
  | succ n ih =>
    have h0 := h 0 (by omega)
    simp only [Nat.add_zero] at h0
    rw [Memory.readN, Memory.readN, h0, ih fun k hk => by
      have := h (k + 1) (by omega)
      rwa [show a + (k + 1) = a + 1 + k by omega] at this]

/-- A read of bytes that a write does not touch gives what it gave before. -/
theorem Memory.readN_writeN_apart (m : Memory) (a n v b k : Nat) (h : b + k ≤ a ∨ a + n ≤ b) : (m.writeN a n v).readN b k = m.readN b k :=
  Memory.readN_congr fun i hi => Memory.read_writeN_outside m a n v (by omega)

/-! ### The state's memory -/

@[simp] theorem State.reset_mem_wf : Memory.wf State.reset.mem := by simp [State.reset, Memory.wf]

/-- Recalling a stash copy, reading and writing at a home keep the canonical form. -/
theorem State.recall_mem_wf {s : State} (h : Memory.wf s.mem) (pa : Nat) (w : Bool) : Memory.wf (s.recall pa w).mem := by
  have hf : ∀ (l : List Nat) (g : Tile → Tile) (s : State), (l.foldl (fun (s : State) t => s.modTile t g) s).mem = s.mem := by
    intro l g
    induction l with
    | nil => intro s; rfl
    | cons a r ih => intro s; rw [List.foldl_cons, ih]; rfl
  unfold State.recall
  dsimp only
  split
  · exact h
  · split
    all_goals
      change Memory.wf (List.foldl _ _ _ : State).mem
      rw [hf]
      split
      · exact h
      · split
        · exact h
        · exact Memory.writeN_wf h _ _ _

/-- What an access at the home does before its bytes are read or written keeps the form of memory. -/
theorem State.homeUse_mem_wf {s : State} (h : Memory.wf s.mem) (pa n : Nat) (w : Bool) : Memory.wf (s.homeUse pa n w).mem := by
  unfold State.homeUse
  induction linesOf pa n generalizing s with
  | nil => exact h
  | cons l r ih => exact ih (State.recall_mem_wf h (128 * l) w)

theorem State.homeRead_mem_wf {s : State} (h : Memory.wf s.mem) (pa n : Nat) : Memory.wf (s.homeRead pa n).2.mem :=
  State.homeUse_mem_wf h pa n false

theorem State.homeWrite_mem_wf {s : State} (h : Memory.wf s.mem) (pa n en v : Nat) : Memory.wf (s.homeWrite pa n en v).mem :=
  Memory.writeEn_wf (State.homeUse_mem_wf h pa n true) _ _ _ _

end Sys2Proof.Machine
end

