-- ==== Sys2Proof/Laws/PerInstr.lean ====
section
/-!
SUPPORT. What holds of every instruction as syntax, one lemma per constructor: its encoding stands in the opcode map (R43) under the opcode and
with the length code (R23) that the map gives it.
-/

namespace Sys2Proof

/-- The head of an instruction's word: its length code and its opcode. -/
theorem head_packF (op code : Nat) (h : Hdr) (l : List (Nat × Nat)) (ho : op < 1024) (hc : code < 4) :
    fld (packF (hdrF op code h ++ l)) 6 10 = op ∧ fld (packF (hdrF op code h ++ l)) 0 2 = code := by
  have hs := h.stall.isLt
  have hy : b2n h.y < 2 := by cases h.y <;> decide
  simp only [hdrF, List.cons_append, List.nil_append, packF, fld]
  constructor <;> omega

end Sys2Proof

namespace Sys2Proof.Laws.Opcode

/-- An instruction's word carries an opcode of the map and that row's length code. -/
def Statement (i : Instr) : Prop :=
  i.encoded = true → ∃ r, opRow (fld (encode i) 6 10) = some r ∧ fld (encode i) 0 2 = r.len

/-- The statement holds of an instruction whose word begins with an opcode of the map and its row's length code. -/
theorem of_row {i : Instr} (op code : Nat) {h : Hdr} {l : List (Nat × Nat)} {r : Row} (he : encode i = packF (hdrF op code h ++ l))
    (hr : opRow op = some r) (hl : r.len = code) (ho : op < 1024) (hc : code < 4) : Statement i := fun _ => by
  obtain ⟨h1, h2⟩ := head_packF op code h l ho hc
  exact ⟨r, by rw [he, h1, hr], by rw [he, h2, hl]⟩

/-- An event has no word. -/
theorem of_event {i : Instr} (h : i.encoded = false) : Statement i := fun h' => absurd h' (by simp [h])

theorem addZ (h : Hdr) (o : R3) : Statement (.addZ h o) := of_row 0x000 0 rfl rfl rfl (by decide) (by decide)
theorem addS (h : Hdr) (o : R3) : Statement (.addS h o) := of_row 0x001 0 rfl rfl rfl (by decide) (by decide)
theorem difZ (h : Hdr) (o : R3) : Statement (.difZ h o) := of_row 0x002 0 rfl rfl rfl (by decide) (by decide)
theorem difS (h : Hdr) (o : R3) : Statement (.difS h o) := of_row 0x003 0 rfl rfl rfl (by decide) (by decide)
theorem addiZ (h : Hdr) (o : R2) (imm : BitVec 32) : Statement (.addiZ h o imm) := of_row 0x004 1 rfl rfl rfl (by decide) (by decide)
theorem addiS (h : Hdr) (o : R2) (imm : BitVec 32) : Statement (.addiS h o imm) := of_row 0x005 1 rfl rfl rfl (by decide) (by decide)
theorem mulZ (h : Hdr) (o : R3) : Statement (.mulZ h o) := of_row 0x006 0 rfl rfl rfl (by decide) (by decide)
theorem mulS (h : Hdr) (o : R3) : Statement (.mulS h o) := of_row 0x007 0 rfl rfl rfl (by decide) (by decide)
theorem mulhZ (h : Hdr) (o : R3) : Statement (.mulhZ h o) := of_row 0x008 0 rfl rfl rfl (by decide) (by decide)
theorem mulhS (h : Hdr) (o : R3) : Statement (.mulhS h o) := of_row 0x009 0 rfl rfl rfl (by decide) (by decide)
theorem divZ (h : Hdr) (o : R3) : Statement (.divZ h o) := of_row 0x00a 0 rfl rfl rfl (by decide) (by decide)
theorem divS (h : Hdr) (o : R3) : Statement (.divS h o) := of_row 0x00b 0 rfl rfl rfl (by decide) (by decide)
theorem remZ (h : Hdr) (o : R3) : Statement (.remZ h o) := of_row 0x00c 0 rfl rfl rfl (by decide) (by decide)
theorem remS (h : Hdr) (o : R3) : Statement (.remS h o) := of_row 0x00d 0 rfl rfl rfl (by decide) (by decide)
theorem minZ (h : Hdr) (o : R3) : Statement (.minZ h o) := of_row 0x00e 0 rfl rfl rfl (by decide) (by decide)
theorem minS (h : Hdr) (o : R3) : Statement (.minS h o) := of_row 0x00f 0 rfl rfl rfl (by decide) (by decide)
theorem maxZ (h : Hdr) (o : R3) : Statement (.maxZ h o) := of_row 0x010 0 rfl rfl rfl (by decide) (by decide)
theorem maxS (h : Hdr) (o : R3) : Statement (.maxS h o) := of_row 0x011 0 rfl rfl rfl (by decide) (by decide)
theorem absS (h : Hdr) (o : R2) : Statement (.absS h o) := of_row 0x012 0 rfl rfl rfl (by decide) (by decide)
theorem negS (h : Hdr) (o : R2) : Statement (.negS h o) := of_row 0x013 0 rfl rfl rfl (by decide) (by decide)
theorem vadd (h : Hdr) (o : L3) : Statement (.vadd h o) := of_row 0x020 1 rfl rfl rfl (by decide) (by decide)
theorem vdif (h : Hdr) (o : L3) : Statement (.vdif h o) := of_row 0x021 1 rfl rfl rfl (by decide) (by decide)
theorem vmul (h : Hdr) (o : L3) : Statement (.vmul h o) := of_row 0x022 1 rfl rfl rfl (by decide) (by decide)
theorem vmulh (h : Hdr) (o : L3) : Statement (.vmulh h o) := of_row 0x023 1 rfl rfl rfl (by decide) (by decide)
theorem vmin (h : Hdr) (o : L3) : Statement (.vmin h o) := of_row 0x024 1 rfl rfl rfl (by decide) (by decide)
theorem vmax (h : Hdr) (o : L3) : Statement (.vmax h o) := of_row 0x025 1 rfl rfl rfl (by decide) (by decide)
theorem vabs (h : Hdr) (o : L3) : Statement (.vabs h o) := of_row 0x026 1 rfl rfl rfl (by decide) (by decide)
theorem vneg (h : Hdr) (o : L3) : Statement (.vneg h o) := of_row 0x027 1 rfl rfl rfl (by decide) (by decide)
theorem and (h : Hdr) (o : R3) : Statement (.and h o) := of_row 0x040 0 rfl rfl rfl (by decide) (by decide)
theorem or (h : Hdr) (o : R3) : Statement (.or h o) := of_row 0x041 0 rfl rfl rfl (by decide) (by decide)
theorem xor (h : Hdr) (o : R3) : Statement (.xor h o) := of_row 0x042 0 rfl rfl rfl (by decide) (by decide)
theorem andn (h : Hdr) (o : R3) : Statement (.andn h o) := of_row 0x043 0 rfl rfl rfl (by decide) (by decide)
theorem not (h : Hdr) (o : R2) : Statement (.not h o) := of_row 0x044 0 rfl rfl rfl (by decide) (by decide)
theorem andi (h : Hdr) (o : R2) (imm : BitVec 16) : Statement (.andi h o imm) := of_row 0x045 0 rfl rfl rfl (by decide) (by decide)
theorem ori (h : Hdr) (o : R2) (imm : BitVec 16) : Statement (.ori h o imm) := of_row 0x046 0 rfl rfl rfl (by decide) (by decide)
theorem xori (h : Hdr) (o : R2) (imm : BitVec 16) : Statement (.xori h o imm) := of_row 0x047 0 rfl rfl rfl (by decide) (by decide)
theorem shl (h : Hdr) (o : R3) : Statement (.shl h o) := of_row 0x048 0 rfl rfl rfl (by decide) (by decide)
theorem shr (h : Hdr) (o : R3) : Statement (.shr h o) := of_row 0x049 0 rfl rfl rfl (by decide) (by decide)
theorem sar (h : Hdr) (o : R3) : Statement (.sar h o) := of_row 0x04a 0 rfl rfl rfl (by decide) (by decide)
theorem rol (h : Hdr) (o : R3) : Statement (.rol h o) := of_row 0x04b 0 rfl rfl rfl (by decide) (by decide)
theorem shli (h : Hdr) (o : R2) (n : BitVec 6) : Statement (.shli h o n) := of_row 0x04c 0 rfl rfl rfl (by decide) (by decide)
theorem shri (h : Hdr) (o : R2) (n : BitVec 6) : Statement (.shri h o n) := of_row 0x04d 0 rfl rfl rfl (by decide) (by decide)
theorem sari (h : Hdr) (o : R2) (n : BitVec 6) : Statement (.sari h o n) := of_row 0x04e 0 rfl rfl rfl (by decide) (by decide)
theorem bfxZ (h : Hdr) (o : R2) (lsb len : BitVec 6) : Statement (.bfxZ h o lsb len) := of_row 0x050 0 rfl rfl rfl (by decide) (by decide)
theorem bfxS (h : Hdr) (o : R2) (lsb len : BitVec 6) : Statement (.bfxS h o lsb len) := of_row 0x051 0 rfl rfl rfl (by decide) (by decide)
theorem bfi (h : Hdr) (o : R2) (lsb len : BitVec 6) : Statement (.bfi h o lsb len) := of_row 0x052 0 rfl rfl rfl (by decide) (by decide)
theorem popc (h : Hdr) (o : R2) : Statement (.popc h o) := of_row 0x053 0 rfl rfl rfl (by decide) (by decide)
theorem clz (h : Hdr) (o : R2) : Statement (.clz h o) := of_row 0x054 0 rfl rfl rfl (by decide) (by decide)
theorem ctz (h : Hdr) (o : R2) : Statement (.ctz h o) := of_row 0x055 0 rfl rfl rfl (by decide) (by decide)
theorem brev (h : Hdr) (o : R2) : Statement (.brev h o) := of_row 0x056 0 rfl rfl rfl (by decide) (by decide)
theorem vand (h : Hdr) (o : L3) : Statement (.vand h o) := of_row 0x060 1 rfl rfl rfl (by decide) (by decide)
theorem vor (h : Hdr) (o : L3) : Statement (.vor h o) := of_row 0x061 1 rfl rfl rfl (by decide) (by decide)
theorem vxor (h : Hdr) (o : L3) : Statement (.vxor h o) := of_row 0x062 1 rfl rfl rfl (by decide) (by decide)
theorem vnot (h : Hdr) (o : L3) : Statement (.vnot h o) := of_row 0x063 1 rfl rfl rfl (by decide) (by decide)
theorem vshl (h : Hdr) (o : L3) : Statement (.vshl h o) := of_row 0x064 1 rfl rfl rfl (by decide) (by decide)
theorem vshr (h : Hdr) (o : L3) : Statement (.vshr h o) := of_row 0x065 1 rfl rfl rfl (by decide) (by decide)
theorem vsar (h : Hdr) (o : L3) : Statement (.vsar h o) := of_row 0x066 1 rfl rfl rfl (by decide) (by decide)
theorem vpopc (h : Hdr) (o : L3) : Statement (.vpopc h o) := of_row 0x067 1 rfl rfl rfl (by decide) (by decide)
theorem cmpEq (h : Hdr) (o : R3) : Statement (.cmpEq h o) := of_row 0x080 0 rfl rfl rfl (by decide) (by decide)
theorem cmpNe (h : Hdr) (o : R3) : Statement (.cmpNe h o) := of_row 0x081 0 rfl rfl rfl (by decide) (by decide)
theorem cmpLtS (h : Hdr) (o : R3) : Statement (.cmpLtS h o) := of_row 0x082 0 rfl rfl rfl (by decide) (by decide)
theorem cmpLtZ (h : Hdr) (o : R3) : Statement (.cmpLtZ h o) := of_row 0x083 0 rfl rfl rfl (by decide) (by decide)
theorem cmpLeS (h : Hdr) (o : R3) : Statement (.cmpLeS h o) := of_row 0x084 0 rfl rfl rfl (by decide) (by decide)
theorem cmpLeZ (h : Hdr) (o : R3) : Statement (.cmpLeZ h o) := of_row 0x085 0 rfl rfl rfl (by decide) (by decide)
theorem cmpiEq (h : Hdr) (o : R2) (imm : BitVec 16) : Statement (.cmpiEq h o imm) := of_row 0x08c 0 rfl rfl rfl (by decide) (by decide)
theorem cmpiLtS (h : Hdr) (o : R2) (imm : BitVec 16) : Statement (.cmpiLtS h o imm) := of_row 0x08d 0 rfl rfl rfl (by decide) (by decide)
theorem cmpiLtZ (h : Hdr) (o : R2) (imm : BitVec 16) : Statement (.cmpiLtZ h o imm) := of_row 0x08e 0 rfl rfl rfl (by decide) (by decide)
theorem sel (h : Hdr) (o : R4) : Statement (.sel h o) := of_row 0x086 2 rfl rfl rfl (by decide) (by decide)
theorem movZ (h : Hdr) (o : R2) : Statement (.movZ h o) := of_row 0x087 0 rfl rfl rfl (by decide) (by decide)
theorem movS (h : Hdr) (o : R2) : Statement (.movS h o) := of_row 0x088 0 rfl rfl rfl (by decide) (by decide)
theorem movi (h : Hdr) (d : SliceOp) (imm : BitVec 32) : Statement (.movi h d imm) := of_row 0x089 1 rfl rfl rfl (by decide) (by decide)
theorem movih (h : Hdr) (d : SliceOp) (imm : BitVec 32) : Statement (.movih h d imm) := of_row 0x08a 1 rfl rfl rfl (by decide) (by decide)
theorem vwset (h : Hdr) (v : BitVec 4) (src : ViewSrc) : Statement (.vwset h v src) := by
  cases src <;> exact of_row 0x090 2 rfl rfl rfl (by decide) (by decide)
theorem vwrd (h : Hdr) (d : SliceOp) (v : BitVec 4) : Statement (.vwrd h d v) := of_row 0x091 0 rfl rfl rfl (by decide) (by decide)
theorem vcmp (h : Hdr) (o : LM) : Statement (.vcmp h o) := of_row 0x0a0 1 rfl rfl rfl (by decide) (by decide)
theorem vsel (h : Hdr) (o : L3) : Statement (.vsel h o) := of_row 0x0a1 1 rfl rfl rfl (by decide) (by decide)
theorem vmov (h : Hdr) (o : L3) : Statement (.vmov h o) := of_row 0x0a2 1 rfl rfl rfl (by decide) (by decide)
theorem fadd (h : Hdr) (o : L3) : Statement (.fadd h o) := of_row 0x0c0 1 rfl rfl rfl (by decide) (by decide)
theorem fsub (h : Hdr) (o : L3) : Statement (.fsub h o) := of_row 0x0c1 1 rfl rfl rfl (by decide) (by decide)
theorem fmul (h : Hdr) (o : L3) : Statement (.fmul h o) := of_row 0x0c2 1 rfl rfl rfl (by decide) (by decide)
theorem ffma (h : Hdr) (o : L3) : Statement (.ffma h o) := of_row 0x0c3 1 rfl rfl rfl (by decide) (by decide)
theorem fmin (h : Hdr) (o : L3) : Statement (.fmin h o) := of_row 0x0c4 1 rfl rfl rfl (by decide) (by decide)
theorem fmax (h : Hdr) (o : L3) : Statement (.fmax h o) := of_row 0x0c5 1 rfl rfl rfl (by decide) (by decide)
theorem fcmp (h : Hdr) (o : LM) : Statement (.fcmp h o) := of_row 0x0c6 1 rfl rfl rfl (by decide) (by decide)
theorem fdiv (h : Hdr) (o : L3) : Statement (.fdiv h o) := of_row 0x0c7 1 rfl rfl rfl (by decide) (by decide)
theorem fsqrt (h : Hdr) (o : L3) : Statement (.fsqrt h o) := of_row 0x0c8 1 rfl rfl rfl (by decide) (by decide)
theorem fexp2T (h : Hdr) (o : L3) : Statement (.fexp2T h o) := of_row 0x0c9 1 rfl rfl rfl (by decide) (by decide)
theorem fabs (h : Hdr) (o : L3) : Statement (.fabs h o) := of_row 0x0ca 1 rfl rfl rfl (by decide) (by decide)
theorem fneg (h : Hdr) (o : L3) : Statement (.fneg h o) := of_row 0x0cb 1 rfl rfl rfl (by decide) (by decide)
theorem vperm (h : Hdr) (o : L3) : Statement (.vperm h o) := of_row 0x100 1 rfl rfl rfl (by decide) (by decide)
theorem vbcast (h : Hdr) (o : L3) : Statement (.vbcast h o) := of_row 0x101 1 rfl rfl rfl (by decide) (by decide)
theorem vred (h : Hdr) (o : L3) : Statement (.vred h o) := of_row 0x103 1 rfl rfl rfl (by decide) (by decide)
theorem vscan (h : Hdr) (o : L3) : Statement (.vscan h o) := of_row 0x104 1 rfl rfl rfl (by decide) (by decide)
theorem vcmpr (h : Hdr) (o : L3) : Statement (.vcmpr h o) := of_row 0x105 1 rfl rfl rfl (by decide) (by decide)
theorem vexpd (h : Hdr) (o : L3) : Statement (.vexpd h o) := of_row 0x106 1 rfl rfl rfl (by decide) (by decide)
theorem mand (h : Hdr) (d a b : BitVec 3) : Statement (.mand h d a b) := of_row 0x107 0 rfl rfl rfl (by decide) (by decide)
theorem mor (h : Hdr) (d a b : BitVec 3) : Statement (.mor h d a b) := of_row 0x108 0 rfl rfl rfl (by decide) (by decide)
theorem mxor (h : Hdr) (d a b : BitVec 3) : Statement (.mxor h d a b) := of_row 0x109 0 rfl rfl rfl (by decide) (by decide)
theorem mnot (h : Hdr) (d a : BitVec 3) : Statement (.mnot h d a) := of_row 0x10a 0 rfl rfl rfl (by decide) (by decide)
theorem mset (h : Hdr) (d : BitVec 3) (count : BitVec 9) : Statement (.mset h d count) := of_row 0x10b 0 rfl rfl rfl (by decide) (by decide)
theorem mtestAny (h : Hdr) (d : SliceOp) (a : BitVec 3) : Statement (.mtestAny h d a) := of_row 0x10c 0 rfl rfl rfl (by decide) (by decide)
theorem mtestAll (h : Hdr) (d : SliceOp) (a : BitVec 3) : Statement (.mtestAll h d a) := of_row 0x10d 0 rfl rfl rfl (by decide) (by decide)
theorem mpopc (h : Hdr) (d : SliceOp) (a : BitVec 3) : Statement (.mpopc h d a) := of_row 0x10e 0 rfl rfl rfl (by decide) (by decide)
theorem mfirst (h : Hdr) (d : SliceOp) (a : BitVec 3) : Statement (.mfirst h d a) := of_row 0x10f 0 rfl rfl rfl (by decide) (by decide)
theorem fcvtBf (h : Hdr) (o : L3) : Statement (.fcvtBf h o) := of_row 0x140 1 rfl rfl rfl (by decide) (by decide)
theorem fcvtF (h : Hdr) (o : L3) : Statement (.fcvtF h o) := of_row 0x141 1 rfl rfl rfl (by decide) (by decide)
theorem icvtF (h : Hdr) (o : L3) : Statement (.icvtF h o) := of_row 0x142 1 rfl rfl rfl (by decide) (by decide)
theorem fcvtI (h : Hdr) (o : L3) : Statement (.fcvtI h o) := of_row 0x143 1 rfl rfl rfl (by decide) (by decide)
theorem qnt (h : Hdr) (o : L3) : Statement (.qnt h o) := of_row 0x144 1 rfl rfl rfl (by decide) (by decide)
theorem dqnt (h : Hdr) (o : L3) : Statement (.dqnt h o) := of_row 0x145 1 rfl rfl rfl (by decide) (by decide)
theorem bpack (h : Hdr) (o : L3) : Statement (.bpack h o) := of_row 0x146 1 rfl rfl rfl (by decide) (by decide)
theorem bunpk (h : Hdr) (o : L3) : Statement (.bunpk h o) := of_row 0x147 1 rfl rfl rfl (by decide) (by decide)
theorem nop (h : Hdr) : Statement (.nop h) := of_row 0x180 0 rfl rfl rfl (by decide) (by decide)
theorem nopW (h : Hdr) : Statement (.nopW h) := of_row 0x181 1 rfl rfl rfl (by decide) (by decide)
theorem br (h : Hdr) (imm : BitVec 32) : Statement (.br h imm) := of_row 0x182 1 rfl rfl rfl (by decide) (by decide)
theorem bz (h : Hdr) (a : SliceOp) (imm : BitVec 32) : Statement (.bz h a imm) := of_row 0x183 1 rfl rfl rfl (by decide) (by decide)
theorem bnz (h : Hdr) (a : SliceOp) (imm : BitVec 32) : Statement (.bnz h a imm) := of_row 0x184 1 rfl rfl rfl (by decide) (by decide)
theorem bmany (h : Hdr) (m : BitVec 3) (imm : BitVec 32) : Statement (.bmany h m imm) := of_row 0x185 1 rfl rfl rfl (by decide) (by decide)
theorem bmnone (h : Hdr) (m : BitVec 3) (imm : BitVec 32) : Statement (.bmnone h m imm) := of_row 0x186 1 rfl rfl rfl (by decide) (by decide)
theorem call (h : Hdr) (d : SliceOp) (imm : BitVec 32) : Statement (.call h d imm) := of_row 0x187 1 rfl rfl rfl (by decide) (by decide)
theorem ret (h : Hdr) (a : SliceOp) : Statement (.ret h a) := of_row 0x188 0 rfl rfl rfl (by decide) (by decide)
theorem brx (h : Hdr) (a b : SliceOp) : Statement (.brx h a b) := of_row 0x189 0 rfl rfl rfl (by decide) (by decide)
theorem loop (h : Hdr) (d : SliceOp) (imm : BitVec 32) : Statement (.loop h d imm) := of_row 0x18a 1 rfl rfl rfl (by decide) (by decide)
theorem exit (h : Hdr) : Statement (.exit h) := of_row 0x18b 0 rfl rfl rfl (by decide) (by decide)
theorem casc (h : Hdr) (o : R2) (n : BitVec 4) (dir : BitVec 2) : Statement (.casc h o n dir) := of_row 0x18c 2 rfl rfl rfl (by decide) (by decide)
theorem cascx (h : Hdr) : Statement (.cascx h) := of_row 0x18d 2 rfl rfl rfl (by decide) (by decide)
theorem cascxStop (h : Hdr) : Statement (.cascxStop h) := of_row 0x18d 2 rfl rfl rfl (by decide) (by decide)
theorem cdis (h : Hdr) (d : SliceOp) : Statement (.cdis h d) := of_row 0x18e 0 rfl rfl rfl (by decide) (by decide)
theorem ldZ (h : Hdr) (o : MemF) : Statement (.ldZ h o) := of_row 0x1c0 2 rfl rfl rfl (by decide) (by decide)
theorem ldS (h : Hdr) (o : MemF) : Statement (.ldS h o) := of_row 0x1c1 2 rfl rfl rfl (by decide) (by decide)
theorem st (h : Hdr) (o : MemF) : Statement (.st h o) := of_row 0x1c2 2 rfl rfl rfl (by decide) (by decide)
theorem ldAcqZ (h : Hdr) (o : MemF) : Statement (.ldAcqZ h o) := of_row 0x1c3 2 rfl rfl rfl (by decide) (by decide)
theorem ldAcqS (h : Hdr) (o : MemF) : Statement (.ldAcqS h o) := of_row 0x1c4 2 rfl rfl rfl (by decide) (by decide)
theorem stRel (h : Hdr) (o : MemF) : Statement (.stRel h o) := of_row 0x1c5 2 rfl rfl rfl (by decide) (by decide)
theorem pref (h : Hdr) (o : MemF) : Statement (.pref h o) := of_row 0x1c6 2 rfl rfl rfl (by decide) (by decide)
theorem stashMap (h : Hdr) (o : R3) (e : BitVec 3) : Statement (.stashMap h o e) := of_row 0x1c7 2 rfl rfl rfl (by decide) (by decide)
theorem stashFlush (h : Hdr) (o : R3) : Statement (.stashFlush h o) := of_row 0x1c8 2 rfl rfl rfl (by decide) (by decide)
theorem stashEvict (h : Hdr) (o : R3) : Statement (.stashEvict h o) := of_row 0x1c9 2 rfl rfl rfl (by decide) (by decide)
theorem spill (h : Hdr) (o : MemF) : Statement (.spill h o) := of_row 0x1ca 2 rfl rfl rfl (by decide) (by decide)
theorem fill (h : Hdr) (o : MemF) : Statement (.fill h o) := of_row 0x1cb 2 rfl rfl rfl (by decide) (by decide)
theorem amo (h : Hdr) (o : MemF) : Statement (.amo h o) := of_row 0x200 2 rfl rfl rfl (by decide) (by decide)
theorem amoAr (h : Hdr) (o : MemF) : Statement (.amoAr h o) := of_row 0x201 2 rfl rfl rfl (by decide) (by decide)
theorem amoAgg (h : Hdr) (o : MemF) : Statement (.amoAgg h o) := of_row 0x202 2 rfl rfl rfl (by decide) (by decide)
theorem fence (h : Hdr) (sc : Scope) : Statement (.fence h sc) := of_row 0x203 0 rfl rfl rfl (by decide) (by decide)
theorem fenceAll (h : Hdr) (sc : Scope) : Statement (.fenceAll h sc) := of_row 0x204 0 rfl rfl rfl (by decide) (by decide)
theorem wsig (h : Hdr) (o : WsigF) : Statement (.wsig h o) := of_row 0x205 2 rfl rfl rfl (by decide) (by decide)
theorem pinwait (h : Hdr) (o : R3) : Statement (.pinwait h o) := of_row 0x206 2 rfl rfl rfl (by decide) (by decide)
theorem ctpl (h : Hdr) (o : R2) (t : BitVec 6) : Statement (.ctpl h o t) := of_row 0x240 2 rfl rfl rfl (by decide) (by decide)
theorem cpy (h : Hdr) (o : CpyF) : Statement (.cpy h o) := of_row 0x241 2 rfl rfl rfl (by decide) (by decide)
theorem cpyCmp (h : Hdr) (o : CpyF) (m : BitVec 3) : Statement (.cpyCmp h o m) := of_row 0x242 2 rfl rfl rfl (by decide) (by decide)
theorem cres (h : Hdr) (d : SliceOp) (ch : BitVec 3) : Statement (.cres h d ch) := of_row 0x243 0 rfl rfl rfl (by decide) (by decide)
theorem cabt (h : Hdr) (d : SliceOp) (ch : BitVec 3) : Statement (.cabt h d ch) := of_row 0x244 0 rfl rfl rfl (by decide) (by decide)
theorem cstat (h : Hdr) (d : SliceOp) (ch : BitVec 3) : Statement (.cstat h d ch) := of_row 0x245 0 rfl rfl rfl (by decide) (by decide)
theorem cstatClr (h : Hdr) (d : SliceOp) (ch : BitVec 3) : Statement (.cstatClr h d ch) := of_row 0x245 0 rfl rfl rfl (by decide) (by decide)
theorem sub (h : Hdr) (o : R2) (tag : BitVec 12) (ch : BitVec 3) : Statement (.sub h o tag ch) := of_row 0x246 1 rfl rfl rfl (by decide) (by decide)
theorem unsub (h : Hdr) (d : SliceOp) (tag : BitVec 12) : Statement (.unsub h d tag) := of_row 0x247 1 rfl rfl rfl (by decide) (by decide)
theorem mcrd (h : Hdr) (o : R3) (tag : BitVec 12) (lines : BitVec 6) : Statement (.mcrd h o tag lines) := of_row 0x248 2 rfl rfl rfl (by decide) (by decide)
theorem bdef (h : Hdr) (o : R2) : Statement (.bdef h o) := of_row 0x280 2 rfl rfl rfl (by decide) (by decide)
theorem bfree (h : Hdr) (o : R2) : Statement (.bfree h o) := of_row 0x281 0 rfl rfl rfl (by decide) (by decide)
theorem pdef (h : Hdr) (o : R3) : Statement (.pdef h o) := of_row 0x282 2 rfl rfl rfl (by decide) (by decide)
theorem pdel (h : Hdr) (d : SliceOp) (ix : BitVec 5) : Statement (.pdel h d ix) := of_row 0x283 0 rfl rfl rfl (by decide) (by decide)
theorem pen (h : Hdr) (d : SliceOp) (ix : BitVec 5) : Statement (.pen h d ix) := of_row 0x284 0 rfl rfl rfl (by decide) (by decide)
theorem pdis (h : Hdr) (d : SliceOp) (ix : BitVec 5) : Statement (.pdis h d ix) := of_row 0x285 0 rfl rfl rfl (by decide) (by decide)
theorem send (h : Hdr) (o : R2) (size : BitVec 2) : Statement (.send h o size) := of_row 0x286 2 rfl rfl rfl (by decide) (by decide)
theorem sendRel (h : Hdr) (o : R2) (size : BitVec 2) (sc : Scope) : Statement (.sendRel h o size sc) := of_row 0x287 2 rfl rfl rfl (by decide) (by decide)
theorem sendRelAll (h : Hdr) (o : R2) (size : BitVec 2) (sc : Scope) : Statement (.sendRelAll h o size sc) := of_row 0x288 2 rfl rfl rfl (by decide) (by decide)
theorem sendc (h : Hdr) (o : R2) : Statement (.sendc h o) := of_row 0x289 2 rfl rfl rfl (by decide) (by decide)
theorem arm (h : Hdr) (o : R2) : Statement (.arm h o) := of_row 0x28a 2 rfl rfl rfl (by decide) (by decide)
theorem bstat (h : Hdr) (o : R2) : Statement (.bstat h o) := of_row 0x28b 0 rfl rfl rfl (by decide) (by decide)
theorem fork (h : Hdr) (o : R4) (ctl : BitVec 16) (imm : BitVec 32) : Statement (.fork h o ctl imm) := of_row 0x2c0 2 rfl rfl rfl (by decide) (by decide)
theorem rnext (h : Hdr) (o : R2) : Statement (.rnext h o) := of_row 0x2c1 0 rfl rfl rfl (by decide) (by decide)
theorem cancel (h : Hdr) (o : R2) (imm : BitVec 16) : Statement (.cancel h o imm) := of_row 0x2c2 0 rfl rfl rfl (by decide) (by decide)
theorem cancelClr (h : Hdr) (o : R2) (imm : BitVec 16) : Statement (.cancelClr h o imm) := of_row 0x2c3 0 rfl rfl rfl (by decide) (by decide)
theorem husked (h : Hdr) (o : R2) : Statement (.husked h o) := of_row 0x2c4 0 rfl rfl rfl (by decide) (by decide)
theorem gang (h : Hdr) (o : R2) : Statement (.gang h o) := of_row 0x2c5 2 rfl rfl rfl (by decide) (by decide)
theorem gangEnd (h : Hdr) (d : SliceOp) : Statement (.gangEnd h d) := of_row 0x2c5 2 rfl rfl rfl (by decide) (by decide)
theorem prio (h : Hdr) (d : SliceOp) (lvl : BitVec 3) : Statement (.prio h d lvl) := of_row 0x2c6 0 rfl rfl rfl (by decide) (by decide)
theorem tdef (h : Hdr) (o : R2) (id : BitVec 8) : Statement (.tdef h o id) := of_row 0x300 2 rfl rfl rfl (by decide) (by decide)
theorem mx (h : Hdr) (a : ElemOp) : Statement (.mx h a) := of_row 0x301 2 rfl rfl rfl (by decide) (by decide)
theorem mxqStatus (h : Hdr) (d : SliceOp) : Statement (.mxqStatus h d) := of_row 0x302 0 rfl rfl rfl (by decide) (by decide)
theorem mxqResume (h : Hdr) (d : SliceOp) : Statement (.mxqResume h d) := of_row 0x302 0 rfl rfl rfl (by decide) (by decide)
theorem mxqAbort (h : Hdr) (d : SliceOp) : Statement (.mxqAbort h d) := of_row 0x302 0 rfl rfl rfl (by decide) (by decide)
theorem addw (h : Hdr) (o : R4) (kind : BitVec 2) (signed : Bool) (k : BitVec 9) : Statement (.addw h o kind signed k) := of_row 0x303 2 rfl rfl rfl (by decide) (by decide)
theorem crd (h : Hdr) (o : R3) (bf : Bool) : Statement (.crd h o bf) := of_row 0x304 2 rfl rfl rfl (by decide) (by decide)
theorem cclr (h : Hdr) (o : R2) (nm1 : BitVec 8) : Statement (.cclr h o nm1) := of_row 0x305 2 rfl rfl rfl (by decide) (by decide)
theorem actl (h : Hdr) (o : R2) (t : BitVec 4) : Statement (.actl h o t) := of_row 0x306 2 rfl rfl rfl (by decide) (by decide)
theorem capk (h : Hdr) (a : SliceOp) (imm : BitVec 32) : Statement (.capk h a imm) := of_row 0x307 1 rfl rfl rfl (by decide) (by decide)
theorem xgo (h : Hdr) (o : R2) (chain : Bool) : Statement (.xgo h o chain) := of_row 0x340 2 rfl rfl rfl (by decide) (by decide)
theorem xsnap (h : Hdr) (o : R2) (chain : Bool) : Statement (.xsnap h o chain) := of_row 0x341 2 rfl rfl rfl (by decide) (by decide)
theorem xrepl (h : Hdr) (o : R3) (chain : Bool) : Statement (.xrepl h o chain) := of_row 0x342 2 rfl rfl rfl (by decide) (by decide)
theorem mrgJoin (h : Hdr) (o : R2) (tag : BitVec 12) (x chain : Bool) : Statement (.mrgJoin h o tag x chain) := of_row 0x343 2 rfl rfl rfl (by decide) (by decide)
theorem mrgPut (h : Hdr) (o : R2) (tag : BitVec 12) : Statement (.mrgPut h o tag) := of_row 0x343 2 rfl rfl rfl (by decide) (by decide)
theorem mrgLeave (h : Hdr) (d : SliceOp) (tag : BitVec 12) : Statement (.mrgLeave h d tag) := of_row 0x343 2 rfl rfl rfl (by decide) (by decide)
theorem trap (h : Hdr) (a : SliceOp) (code : BitVec 16) : Statement (.trap h a code) := of_row 0x380 0 rfl rfl rfl (by decide) (by decide)
theorem resume (h : Hdr) (o : R3) : Statement (.resume h o) := of_row 0x381 0 rfl rfl rfl (by decide) (by decide)
theorem kill (h : Hdr) (o : R2) : Statement (.kill h o) := of_row 0x382 0 rfl rfl rfl (by decide) (by decide)
theorem csrr (h : Hdr) (d : SliceOp) (reg : BitVec 12) : Statement (.csrr h d reg) := of_row 0x383 0 rfl rfl rfl (by decide) (by decide)
theorem csrw (h : Hdr) (a : SliceOp) (reg : BitVec 12) : Statement (.csrw h a reg) := of_row 0x384 0 rfl rfl rfl (by decide) (by decide)
theorem ringrtyWrite (h : Hdr) (a : SliceOp) : Statement (.ringrtyWrite h a) := of_row 0x384 0 rfl rfl rfl (by decide) (by decide)
theorem savectlWrite (h : Hdr) (a : SliceOp) : Statement (.savectlWrite h a) := of_row 0x384 0 rfl rfl rfl (by decide) (by decide)
theorem dqspillWrite (h : Hdr) (a : SliceOp) : Statement (.dqspillWrite h a) := of_row 0x384 0 rfl rfl rfl (by decide) (by decide)
theorem tlbinv (h : Hdr) (o : R3) (sc : BitVec 2) : Statement (.tlbinv h o sc) := of_row 0x385 2 rfl rfl rfl (by decide) (by decide)
theorem waymask (h : Hdr) (o : R2) (m : BitVec 16) : Statement (.waymask h o m) := of_row 0x386 0 rfl rfl rfl (by decide) (by decide)
theorem selftest (h : Hdr) (o : R2) (kind : BitVec 3) : Statement (.selftest h o kind) := of_row 0x387 2 rfl rfl rfl (by decide) (by decide)
theorem nestMov (h : Hdr) (o : NestF) : Statement (.nestMov h o) := of_row 0x3c0 3 rfl rfl rfl (by decide) (by decide)
theorem nestAdd (h : Hdr) (o : NestF) : Statement (.nestAdd h o) := of_row 0x3c1 3 rfl rfl rfl (by decide) (by decide)
theorem nestSub (h : Hdr) (o : NestF) : Statement (.nestSub h o) := of_row 0x3c2 3 rfl rfl rfl (by decide) (by decide)
theorem nestMul (h : Hdr) (o : NestF) : Statement (.nestMul h o) := of_row 0x3c3 3 rfl rfl rfl (by decide) (by decide)
theorem nestMin (h : Hdr) (o : NestF) : Statement (.nestMin h o) := of_row 0x3c4 3 rfl rfl rfl (by decide) (by decide)
theorem nestMax (h : Hdr) (o : NestF) : Statement (.nestMax h o) := of_row 0x3c5 3 rfl rfl rfl (by decide) (by decide)
theorem nestMacc (h : Hdr) (o : NestF) : Statement (.nestMacc h o) := of_row 0x3c6 3 rfl rfl rfl (by decide) (by decide)
theorem nestRsum (h : Hdr) (o : NestF) : Statement (.nestRsum h o) := of_row 0x3c7 3 rfl rfl rfl (by decide) (by decide)
theorem nestRmax (h : Hdr) (o : NestF) : Statement (.nestRmax h o) := of_row 0x3c8 3 rfl rfl rfl (by decide) (by decide)
theorem nestRmin (h : Hdr) (o : NestF) : Statement (.nestRmin h o) := of_row 0x3c9 3 rfl rfl rfl (by decide) (by decide)
theorem nestBeat : Statement .nestBeat := of_event rfl
theorem laneBeatWrite : Statement .laneBeatWrite := of_event rfl
theorem resultWriteback : Statement .resultWriteback := of_event rfl
theorem loadReturn : Statement .loadReturn := of_event rfl
theorem icacheFill : Statement .icacheFill := of_event rfl
theorem forwardedIssue : Statement .forwardedIssue := of_event rfl
theorem cascFormed : Statement .cascFormed := of_event rfl
theorem residency : Statement .residency := of_event rfl
theorem priorityAgeing : Statement .priorityAgeing := of_event rfl
theorem livePreempt : Statement .livePreempt := of_event rfl
theorem contextSaved : Statement .contextSaved := of_event rfl
theorem owedReturnSaved : Statement .owedReturnSaved := of_event rfl
theorem contextRestore : Statement .contextRestore := of_event rfl
theorem matrixPark : Statement .matrixPark := of_event rfl
theorem parkedRunResume : Statement .parkedRunResume := of_event rfl
theorem sendAccept : Statement .sendAccept := of_event rfl
theorem sendRetry : Statement .sendRetry := of_event rfl
theorem sendRelease : Statement .sendRelease := of_event rfl
theorem sendAck : Statement .sendAck := of_event rfl
theorem basinExamine : Statement .basinExamine := of_event rfl
theorem ringRefillReturn : Statement .ringRefillReturn := of_event rfl
theorem dequeTake : Statement .dequeTake := of_event rfl
theorem thirstRound : Statement .thirstRound := of_event rfl
theorem thirstBackoffExpiry : Statement .thirstBackoffExpiry := of_event rfl
theorem thirstArrival : Statement .thirstArrival := of_event rfl
theorem stealAnswer : Statement .stealAnswer := of_event rfl
theorem trackerChange : Statement .trackerChange := of_event rfl
theorem launchDispatch : Statement .launchDispatch := of_event rfl
theorem huskRequest : Statement .huskRequest := of_event rfl
theorem huskCopyDone : Statement .huskCopyDone := of_event rfl
theorem ttSlot : Statement .ttSlot := of_event rfl
theorem ttCompletionReport : Statement .ttCompletionReport := of_event rfl
theorem wcDrain : Statement .wcDrain := of_event rfl
theorem writeAck : Statement .writeAck := of_event rfl
theorem fenceComplete : Statement .fenceComplete := of_event rfl
theorem tlbWalkDone : Statement .tlbWalkDone := of_event rfl
theorem l2Request : Statement .l2Request := of_event rfl
theorem l2Fill : Statement .l2Fill := of_event rfl
theorem remotePoolAccess : Statement .remotePoolAccess := of_event rfl
theorem eccError : Statement .eccError := of_event rfl
theorem selftestDone : Statement .selftestDone := of_event rfl
theorem tlbinvComplete : Statement .tlbinvComplete := of_event rfl
theorem pinwaitDone : Statement .pinwaitDone := of_event rfl
theorem wayRemoval : Statement .wayRemoval := of_event rfl
theorem copyAccept : Statement .copyAccept := of_event rfl
theorem copySourceRead : Statement .copySourceRead := of_event rfl
theorem copyReadReturn : Statement .copyReadReturn := of_event rfl
theorem landingWrite : Statement .landingWrite := of_event rfl
theorem guardEntryFree : Statement .guardEntryFree := of_event rfl
theorem mcJoinArrival : Statement .mcJoinArrival := of_event rfl
theorem mcJoinAck : Statement .mcJoinAck := of_event rfl
theorem mcStreamRequest : Statement .mcStreamRequest := of_event rfl
theorem mcStreamLineSend : Statement .mcStreamLineSend := of_event rfl
theorem mcReplicate : Statement .mcReplicate := of_event rfl
theorem mcCopyDrop : Statement .mcCopyDrop := of_event rfl
theorem mcLineLand : Statement .mcLineLand := of_event rfl
theorem mcCatchupRead : Statement .mcCatchupRead := of_event rfl
theorem mcStreamIdle : Statement .mcStreamIdle := of_event rfl
theorem routerForward : Statement .routerForward := of_event rfl
theorem inputTimerExpiry : Statement .inputTimerExpiry := of_event rfl
theorem acornMove : Statement .acornMove := of_event rfl
theorem acornCapture : Statement .acornCapture := of_event rfl
theorem overflowDelivery : Statement .overflowDelivery := of_event rfl
theorem drainRecord : Statement .drainRecord := of_event rfl
theorem governorReport : Statement .governorReport := of_event rfl
theorem subnetEnable : Statement .subnetEnable := of_event rfl
theorem subnetDisable : Statement .subnetDisable := of_event rfl
theorem linkRetry : Statement .linkRetry := of_event rfl
theorem malformedPacket : Statement .malformedPacket := of_event rfl
theorem laucInbound : Statement .laucInbound := of_event rfl
theorem laucCredit : Statement .laucCredit := of_event rfl
theorem mergePartial : Statement .mergePartial := of_event rfl
theorem mergeJoinArrival : Statement .mergeJoinArrival := of_event rfl
theorem matrixAccept : Statement .matrixAccept := of_event rfl
theorem matrixStep : Statement .matrixStep := of_event rfl
theorem systolicWaitTimeout : Statement .systolicWaitTimeout := of_event rfl
theorem precisionMessage : Statement .precisionMessage := of_event rfl
theorem chainOutput : Statement .chainOutput := of_event rfl
theorem cisternDeposit : Statement .cisternDeposit := of_event rfl
theorem matrixCompletion : Statement .matrixCompletion := of_event rfl
theorem matrixFreeze : Statement .matrixFreeze := of_event rfl
theorem matrixSelftest : Statement .matrixSelftest := of_event rfl
theorem addwUpdate : Statement .addwUpdate := of_event rfl
theorem chainBlockRead : Statement .chainBlockRead := of_event rfl
theorem gateListArrival : Statement .gateListArrival := of_event rfl
theorem routeToken : Statement .routeToken := of_event rfl
theorem snapshotTake : Statement .snapshotTake := of_event rfl
theorem gather : Statement .gather := of_event rfl
theorem groupPlace : Statement .groupPlace := of_event rfl
theorem combineSlotFill : Statement .combineSlotFill := of_event rfl
theorem layerDone : Statement .layerDone := of_event rfl
theorem tileGate : Statement .tileGate := of_event rfl
theorem tileWake : Statement .tileWake := of_event rfl
theorem stealWakeExpiry : Statement .stealWakeExpiry := of_event rfl
theorem messageWindowWrite : Statement .messageWindowWrite := of_event rfl
theorem memoryWindowAccess : Statement .memoryWindowAccess := of_event rfl
theorem refusedHostAccess : Statement .refusedHostAccess := of_event rfl
theorem journalRegionRead : Statement .journalRegionRead := of_event rfl
theorem journalWrite : Statement .journalWrite := of_event rfl
theorem jtailWrite : Statement .jtailWrite := of_event rfl
theorem timeadjWrite : Statement .timeadjWrite := of_event rfl
theorem hostRegisterWrite : Statement .hostRegisterWrite := of_event rfl
theorem pageFaultForward : Statement .pageFaultForward := of_event rfl
theorem pageFaultReply : Statement .pageFaultReply := of_event rfl
theorem overflowEntryFree : Statement .overflowEntryFree := of_event rfl
theorem ptpLockStep : Statement .ptpLockStep := of_event rfl
theorem mboxRelease : Statement .mboxRelease := of_event rfl
theorem mboxNetctl : Statement .mboxNetctl := of_event rfl
theorem mboxCounter : Statement .mboxCounter := of_event rfl
theorem mboxOverflowCounts : Statement .mboxOverflowCounts := of_event rfl
theorem mboxFreeOverflow : Statement .mboxFreeOverflow := of_event rfl
theorem mboxSelftest : Statement .mboxSelftest := of_event rfl
theorem mboxEvictSlot : Statement .mboxEvictSlot := of_event rfl
theorem mboxQuote : Statement .mboxQuote := of_event rfl
theorem mboxFramePool : Statement .mboxFramePool := of_event rfl
theorem mboxGrantRange : Statement .mboxGrantRange := of_event rfl
theorem powerOn : Statement .powerOn := of_event rfl
theorem thermalThrottle : Statement .thermalThrottle := of_event rfl
theorem thermalTrip : Statement .thermalTrip := of_event rfl
theorem powerLoss : Statement .powerLoss := of_event rfl
theorem temperatureFall : Statement .temperatureFall := of_event rfl
theorem ptpTimeAdjustment : Statement .ptpTimeAdjustment := of_event rfl
theorem thresholdTuning : Statement .thresholdTuning := of_event rfl
theorem drainRingReadback : Statement .drainRingReadback := of_event rfl
theorem trackerAcknowledgement : Statement .trackerAcknowledgement := of_event rfl
theorem statusResultWrite : Statement .statusResultWrite := of_event rfl
theorem writeRefusalResend : Statement .writeRefusalResend := of_event rfl

end Sys2Proof.Laws.Opcode
end

