-- ==== Sys2Proof/Tests/Slice0.lean ====
section
/-!
SUPPORT. Tests: words written out from the encoding tables, ill-formed terms that the checks refuse, single steps with values from the spec, and
states that meet the hypotheses of the statements.
-/

namespace Sys2Proof.Tests

open Sys2Proof Sys2Proof.Machine

/-! ### Decoding: a word for every constructor, from the tables of R23, R31, R36 to R41 and R43 and each instruction's own fields -/

/-- A slice operand by its first slice and its width minus 1. -/
abbrev n (s : BitVec 12) (w : BitVec 4) : SliceOp := .sl s w
abbrev is (w : Nat) (i : Instr) : Prop := decode w = .ok i

/-- Group 0: integer arithmetic. -/
theorem test_decode_group0_1 :
    is 0x201010304070000 (.addZ ⟨false, 0⟩ ⟨(n 64 7), (n 16 3), (n 32 1)⟩) ∧
    is 0x201010304070044 (.addS ⟨false, 1⟩ ⟨(n 64 7), (n 16 3), (n 32 1)⟩) ∧
    is 0x201010304070088 (.difZ ⟨false, 2⟩ ⟨(n 64 7), (n 16 3), (n 32 1)⟩) ∧
    is 0x2010103040700cc (.difS ⟨false, 3⟩ ⟨(n 64 7), (n 16 3), (n 32 1)⟩) ∧
    is 0x201010304070198 (.mulZ ⟨false, 6⟩ ⟨(n 64 7), (n 16 3), (n 32 1)⟩) ∧
    is 0x2010103040701dc (.mulS ⟨false, 7⟩ ⟨(n 64 7), (n 16 3), (n 32 1)⟩) ∧
    is 0x201010304070200 (.mulhZ ⟨false, 0⟩ ⟨(n 64 7), (n 16 3), (n 32 1)⟩) ∧
    is 0x201010304070244 (.mulhS ⟨false, 1⟩ ⟨(n 64 7), (n 16 3), (n 32 1)⟩) ∧
    is 0x201010304070288 (.divZ ⟨false, 2⟩ ⟨(n 64 7), (n 16 3), (n 32 1)⟩) ∧
    is 0x2010103040702cc (.divS ⟨false, 3⟩ ⟨(n 64 7), (n 16 3), (n 32 1)⟩) ∧
    is 0x201010304070310 (.remZ ⟨false, 4⟩ ⟨(n 64 7), (n 16 3), (n 32 1)⟩) ∧
    is 0x201010304070354 (.remS ⟨false, 5⟩ ⟨(n 64 7), (n 16 3), (n 32 1)⟩) := by decide

/-- Group 0: integer arithmetic. -/
theorem test_decode_group0_2 :
    is 0x201010304070398 (.minZ ⟨false, 6⟩ ⟨(n 64 7), (n 16 3), (n 32 1)⟩) ∧
    is 0x2010103040703dc (.minS ⟨false, 7⟩ ⟨(n 64 7), (n 16 3), (n 32 1)⟩) ∧
    is 0x201010304070400 (.maxZ ⟨false, 0⟩ ⟨(n 64 7), (n 16 3), (n 32 1)⟩) ∧
    is 0x201010304070444 (.maxS ⟨false, 1⟩ ⟨(n 64 7), (n 16 3), (n 32 1)⟩) ∧
    is 0xffff010304070488 (.absS ⟨false, 2⟩ ⟨(n 64 7), (n 16 3)⟩) ∧
    is 0xffff0103040704cc (.negS ⟨false, 3⟩ ⟨(n 64 7), (n 16 3)⟩) ∧
    is 0x89abcdef000001030407010d (.addiZ ⟨false, 3⟩ ⟨(n 64 7), (n 16 3)⟩ 0x89abcdef) ∧
    is 0x89abcdef000001030407014d (.addiS ⟨false, 3⟩ ⟨(n 64 7), (n 16 3)⟩ 0x89abcdef) ∧
    is 0x6a07592bc030530050801 (.vadd ⟨false, 0⟩ ⟨.view 3 5, .slice (n 48 5), .view 9 700, ⟨0, 0, true, true, 5, .int, .rne, .merge, 6⟩⟩) ∧
    is 0x6a07592bc030530050841 (.vdif ⟨false, 0⟩ ⟨.view 3 5, .slice (n 48 5), .view 9 700, ⟨0, 0, true, true, 5, .int, .rne, .merge, 6⟩⟩) ∧
    is 0x6a07592bc030530050881 (.vmul ⟨false, 0⟩ ⟨.view 3 5, .slice (n 48 5), .view 9 700, ⟨0, 0, true, true, 5, .int, .rne, .merge, 6⟩⟩) ∧
    is 0x6a07592bc030530050901 (.vmin ⟨false, 0⟩ ⟨.view 3 5, .slice (n 48 5), .view 9 700, ⟨0, 0, true, true, 5, .int, .rne, .merge, 6⟩⟩) := by decide

/-- Group 0: integer arithmetic. -/
theorem test_decode_group0_3 :
    is 0x6a07592bc030530050941 (.vmax ⟨false, 0⟩ ⟨.view 3 5, .slice (n 48 5), .view 9 700, ⟨0, 0, true, true, 5, .int, .rne, .merge, 6⟩⟩) ∧
    is 0x4408d92bc0302300508c1 (.vmulh ⟨false, 0⟩ ⟨.view 3 5, .slice (n 48 2), .view 9 700, ⟨0, 0, true, false, 2, .int, .rne, .zero, 1⟩⟩) ∧
    is 0x6e001ffff030730050981 (.vabs ⟨false, 0⟩ ⟨.view 3 5, .slice (n 48 7), .slice .nz, ⟨0, 0, true, true, 7, .int, .rne, .none, 0⟩⟩) ∧
    is 0x40001ffff0300300509c1 (.vneg ⟨false, 0⟩ ⟨.view 3 5, .slice (n 48 0), .slice .nz, ⟨0, 0, true, false, 0, .int, .rne, .none, 0⟩⟩) := by decide

/-- Group 1: logic, shifts and bit fields. -/
theorem test_decode_group1_1 :
    is 0x201010304071000 (.and ⟨false, 0⟩ ⟨(n 64 7), (n 16 3), (n 32 1)⟩) ∧
    is 0x201010304071044 (.or ⟨false, 1⟩ ⟨(n 64 7), (n 16 3), (n 32 1)⟩) ∧
    is 0x201010304071088 (.xor ⟨false, 2⟩ ⟨(n 64 7), (n 16 3), (n 32 1)⟩) ∧
    is 0x2010103040710cc (.andn ⟨false, 3⟩ ⟨(n 64 7), (n 16 3), (n 32 1)⟩) ∧
    is 0x201010304071200 (.shl ⟨false, 0⟩ ⟨(n 64 7), (n 16 3), (n 32 1)⟩) ∧
    is 0x201010304071244 (.shr ⟨false, 1⟩ ⟨(n 64 7), (n 16 3), (n 32 1)⟩) ∧
    is 0x201010304071288 (.sar ⟨false, 2⟩ ⟨(n 64 7), (n 16 3), (n 32 1)⟩) ∧
    is 0x2010103040712cc (.rol ⟨false, 3⟩ ⟨(n 64 7), (n 16 3), (n 32 1)⟩) ∧
    is 0xffff010304071110 (.not ⟨false, 4⟩ ⟨(n 64 7), (n 16 3)⟩) ∧
    is 0xffff0103040714cc (.popc ⟨false, 3⟩ ⟨(n 64 7), (n 16 3)⟩) ∧
    is 0xffff010304071510 (.clz ⟨false, 4⟩ ⟨(n 64 7), (n 16 3)⟩) ∧
    is 0xffff010304071554 (.ctz ⟨false, 5⟩ ⟨(n 64 7), (n 16 3)⟩) := by decide

/-- Group 1: logic, shifts and bit fields. -/
theorem test_decode_group1_2 :
    is 0xffff010304071598 (.brev ⟨false, 6⟩ ⟨(n 64 7), (n 16 3)⟩) ∧
    is 0x8765010304071164 (.andi ⟨true, 1⟩ ⟨(n 64 7), (n 16 3)⟩ 0x8765) ∧
    is 0x87650103040711a4 (.ori ⟨true, 1⟩ ⟨(n 64 7), (n 16 3)⟩ 0x8765) ∧
    is 0x87650103040711e4 (.xori ⟨true, 1⟩ ⟨(n 64 7), (n 16 3)⟩ 0x8765) ∧
    is 0x2d010304071324 (.shli ⟨true, 1⟩ ⟨(n 64 7), (n 16 3)⟩ 0x2d) ∧
    is 0x2d010304071364 (.shri ⟨true, 1⟩ ⟨(n 64 7), (n 16 3)⟩ 0x2d) ∧
    is 0x2d0103040713a4 (.sari ⟨true, 1⟩ ⟨(n 64 7), (n 16 3)⟩ 0x2d) ∧
    is 0x468010304071424 (.bfxZ ⟨true, 1⟩ ⟨(n 64 7), (n 16 3)⟩ 40 17) ∧
    is 0x468010304071464 (.bfxS ⟨true, 1⟩ ⟨(n 64 7), (n 16 3)⟩ 40 17) ∧
    is 0x4680103040714a4 (.bfi ⟨true, 1⟩ ⟨(n 64 7), (n 16 3)⟩ 40 17) ∧
    is 0x1e07d92bc030f30051801 (.vand ⟨false, 0⟩ ⟨.view 3 5, .slice (n 48 15), .view 9 700, ⟨0, 0, false, false, 15, .int, .rne, .merge, 7⟩⟩) ∧
    is 0x1e07d92bc030f30051841 (.vor ⟨false, 0⟩ ⟨.view 3 5, .slice (n 48 15), .view 9 700, ⟨0, 0, false, false, 15, .int, .rne, .merge, 7⟩⟩) := by decide

/-- Group 1: logic, shifts and bit fields. -/
theorem test_decode_group1_3 :
    is 0x1e07d92bc030f30051881 (.vxor ⟨false, 0⟩ ⟨.view 3 5, .slice (n 48 15), .view 9 700, ⟨0, 0, false, false, 15, .int, .rne, .merge, 7⟩⟩) ∧
    is 0x6001ffff0303300518c1 (.vnot ⟨false, 0⟩ ⟨.view 3 5, .slice (n 48 3), .slice .nz, ⟨0, 0, false, false, 3, .int, .rne, .none, 0⟩⟩) ∧
    is 0x2001ffff0301300519c1 (.vpopc ⟨false, 0⟩ ⟨.view 3 5, .slice (n 48 1), .slice .nz, ⟨0, 0, false, false, 1, .int, .rne, .none, 0⟩⟩) ∧
    is 0x2100e003ffff400120001901 (.vshl ⟨false, 0⟩ ⟨.view 2 0, .view 4 1, .slice .nz, ⟨33, 0, false, false, 7, .int, .rne, .none, 0⟩⟩) ∧
    is 0x2100e003ffff400120001941 (.vshr ⟨false, 0⟩ ⟨.view 2 0, .view 4 1, .slice .nz, ⟨33, 0, false, false, 7, .int, .rne, .none, 0⟩⟩) ∧
    is 0x2100e003ffff400120001981 (.vsar ⟨false, 0⟩ ⟨.view 2 0, .view 4 1, .slice .nz, ⟨33, 0, false, false, 7, .int, .rne, .none, 0⟩⟩) := by decide

/-- Group 2: compares, moves and views. -/
theorem test_decode_group2_1 :
    is 0x201010304072000 (.cmpEq ⟨false, 0⟩ ⟨(n 64 7), (n 16 3), (n 32 1)⟩) ∧
    is 0x201010304072044 (.cmpNe ⟨false, 1⟩ ⟨(n 64 7), (n 16 3), (n 32 1)⟩) ∧
    is 0x201010304072088 (.cmpLtS ⟨false, 2⟩ ⟨(n 64 7), (n 16 3), (n 32 1)⟩) ∧
    is 0x2010103040720cc (.cmpLtZ ⟨false, 3⟩ ⟨(n 64 7), (n 16 3), (n 32 1)⟩) ∧
    is 0x201010304072110 (.cmpLeS ⟨false, 4⟩ ⟨(n 64 7), (n 16 3), (n 32 1)⟩) ∧
    is 0x201010304072154 (.cmpLeZ ⟨false, 5⟩ ⟨(n 64 7), (n 16 3), (n 32 1)⟩) ∧
    is 0xfffe010304072324 (.cmpiEq ⟨true, 1⟩ ⟨(n 64 7), (n 16 3)⟩ 0xfffe) ∧
    is 0xfffe010304072364 (.cmpiLtS ⟨true, 1⟩ ⟨(n 64 7), (n 16 3)⟩ 0xfffe) ∧
    is 0xfffe0103040723a4 (.cmpiLtZ ⟨true, 1⟩ ⟨(n 64 7), (n 16 3)⟩ 0xfffe) ∧
    is 0x6020201010304072182 (.sel ⟨false, 0⟩ ⟨(n 64 7), (n 16 3), (n 32 1), (n 96 2)⟩) ∧
    is 0xffff0103040721dc (.movZ ⟨false, 7⟩ ⟨(n 64 7), (n 16 3)⟩) ∧
    is 0xffff010304072200 (.movS ⟨false, 0⟩ ⟨(n 64 7), (n 16 3)⟩) := by decide

/-- Group 2: compares, moves and views. -/
theorem test_decode_group2_2 :
    is 0xfffffffe0000ffff04072241 (.movi ⟨false, 0⟩ (n 64 7) 0xfffffffe) ∧
    is 0x70000ffff040f2281 (.movih ⟨false, 0⟩ (n 64 15) 7) ∧
    is 0x321d234000b00093ff02001ffff2402 (.vwset ⟨false, 0⟩ 11 (.imm 0x200109ffc321d234)) ∧
    is 0x15ffffffff020fffff2402 (.vwset ⟨false, 0⟩ 5 (.reg (n 32 15))) ∧
    is 0xdffff04072440 (.vwrd ⟨false, 0⟩ (n 64 7) 13) ∧
    is 0x2c60541000030300062801 (.vcmp ⟨false, 0⟩ ⟨6, .slice (n 48 3), .view 1 0, ⟨0, 5, true, false, 3, .int, .rne, .merge, 2⟩⟩) ∧
    is 0xe05d92bc030730052841 (.vsel ⟨false, 0⟩ ⟨.view 3 5, .slice (n 48 7), .view 9 700, ⟨0, 0, false, false, 7, .int, .rne, .merge, 3⟩⟩) ∧
    is 0x1099ffff030330052881 (.vmov ⟨false, 0⟩ ⟨.view 3 5, .slice (n 48 3), .slice .nz, ⟨0, 0, false, false, 0, .bf16, .rne, .zero, 3⟩⟩) := by decide

/-- Group 3: floating-point arithmetic. -/
theorem test_decode_group3 :
    is 0x8a592bc030730053001 (.fadd ⟨false, 0⟩ ⟨.view 3 5, .slice (n 48 7), .view 9 700, ⟨0, 0, false, false, 0, .f32, .rne, .zero, 4⟩⟩) ∧
    is 0x9a592bc030730053041 (.fsub ⟨false, 0⟩ ⟨.view 3 5, .slice (n 48 7), .view 9 700, ⟨0, 0, false, false, 0, .f32, .rtz, .zero, 4⟩⟩) ∧
    is 0xaa592bc030730053081 (.fmul ⟨false, 0⟩ ⟨.view 3 5, .slice (n 48 7), .view 9 700, ⟨0, 0, false, false, 0, .f32, .rup, .zero, 4⟩⟩) ∧
    is 0xba592bc0307300530c1 (.ffma ⟨false, 0⟩ ⟨.view 3 5, .slice (n 48 7), .view 9 700, ⟨0, 0, false, false, 0, .f32, .rdn, .zero, 4⟩⟩) ∧
    is 0xba592bc0307300531c1 (.fdiv ⟨false, 0⟩ ⟨.view 3 5, .slice (n 48 7), .view 9 700, ⟨0, 0, false, false, 0, .f32, .rdn, .zero, 4⟩⟩) ∧
    is 0x100592bc030330053101 (.fmin ⟨false, 0⟩ ⟨.view 3 5, .slice (n 48 3), .view 9 700, ⟨0, 0, false, false, 0, .bf16, .rne, .none, 0⟩⟩) ∧
    is 0x100592bc030330053141 (.fmax ⟨false, 0⟩ ⟨.view 3 5, .slice (n 48 3), .view 9 700, ⟨0, 0, false, false, 0, .bf16, .rne, .none, 0⟩⟩) ∧
    is 0x38086c1000030700073181 (.fcmp ⟨false, 0⟩ ⟨7, .slice (n 48 7), .view 1 0, ⟨0, 7, false, false, 0, .f32, .rne, .merge, 5⟩⟩) ∧
    is 0xa01ffff030730053201 (.fsqrt ⟨false, 0⟩ ⟨.view 3 5, .slice (n 48 7), .slice .nz, ⟨0, 0, false, false, 0, .f32, .rup, .none, 0⟩⟩) ∧
    is 0x1001ffff030330053241 (.fexp2T ⟨false, 0⟩ ⟨.view 3 5, .slice (n 48 3), .slice .nz, ⟨0, 0, false, false, 0, .bf16, .rne, .none, 0⟩⟩) ∧
    is 0x801ffff030730053281 (.fabs ⟨false, 0⟩ ⟨.view 3 5, .slice (n 48 7), .slice .nz, ⟨0, 0, false, false, 0, .f32, .rne, .none, 0⟩⟩) ∧
    is 0x1001ffff0303300532c1 (.fneg ⟨false, 0⟩ ⟨.view 3 5, .slice (n 48 3), .slice .nz, ⟨0, 0, false, false, 0, .bf16, .rne, .none, 0⟩⟩) := by decide

/-- Group 4: permute, reduce, compress and masks. -/
theorem test_decode_group4_1 :
    is 0x84d92bc030730054001 (.vperm ⟨false, 0⟩ ⟨.view 3 5, .slice (n 48 7), .view 9 700, ⟨0, 0, false, false, 0, .f32, .rne, .merge, 1⟩⟩) ∧
    is 0xff000003ffff800000004041 (.vbcast ⟨false, 0⟩ ⟨.view 0 0, .view 8 0, .slice .nz, ⟨255, 0, false, false, 0, .int, .rne, .none, 0⟩⟩) ∧
    is 0x146001ffff0303300540c1 (.vred ⟨false, 0⟩ ⟨.view 3 5, .slice (n 48 3), .slice .nz, ⟨0, 2, true, false, 3, .int, .rne, .none, 0⟩⟩) ∧
    is 0xb01ffff030730054101 (.vscan ⟨false, 0⟩ ⟨.view 3 5, .slice (n 48 7), .slice .nz, ⟨0, 0, false, false, 0, .f32, .rdn, .none, 0⟩⟩) ∧
    is 0x60b1ffff030330054141 (.vcmpr ⟨false, 0⟩ ⟨.view 3 5, .slice (n 48 3), .slice .nz, ⟨0, 0, false, false, 3, .int, .rne, .zero, 6⟩⟩) ∧
    is 0x6071ffff030330054181 (.vexpd ⟨false, 0⟩ ⟨.view 3 5, .slice (n 48 3), .slice .nz, ⟨0, 0, false, false, 3, .int, .rne, .merge, 6⟩⟩) ∧
    is 0x70002000141c0 (.mand ⟨false, 0⟩ 1 2 7) ∧
    is 0x7000200014200 (.mor ⟨false, 0⟩ 1 2 7) ∧
    is 0x7000200014240 (.mxor ⟨false, 0⟩ 1 2 7) ∧
    is 0xffff000600034280 (.mnot ⟨false, 0⟩ 3 6) ∧
    is 0x100ffff000542c0 (.mset ⟨false, 0⟩ 5 256) ∧
    is 0xffff000404074300 (.mtestAny ⟨false, 0⟩ (n 64 7) 4) := by decide

/-- Group 4: permute, reduce, compress and masks. -/
theorem test_decode_group4_2 :
    is 0xffff000404074340 (.mtestAll ⟨false, 0⟩ (n 64 7) 4) ∧
    is 0xffff000404074380 (.mpopc ⟨false, 0⟩ (n 64 7) 4) ∧
    is 0xffff0004040743c0 (.mfirst ⟨false, 0⟩ (n 64 7) 4) := by decide

/-- Group 5: conversions and quantization. -/
theorem test_decode_group5 :
    is 0x800ffff030700035001 (.fcvtBf ⟨false, 0⟩ ⟨.slice (n 0 3), .slice (n 48 7), .slice .nz, ⟨0, 0, false, false, 0, .f32, .rne, .none, 0⟩⟩) ∧
    is 0x800ffff030300075041 (.fcvtF ⟨false, 0⟩ ⟨.slice (n 0 7), .slice (n 48 3), .slice .nz, ⟨0, 0, false, false, 0, .f32, .rne, .none, 0⟩⟩) ∧
    is 0x5f100ffff030f00035081 (.icvtF ⟨false, 0⟩ ⟨.slice (n 0 3), .slice (n 48 15), .slice .nz, ⟨0, 0, true, false, 15, .bf16, .rtz, .none, 0⟩⟩) ∧
    is 0x4b00ffff0307000250c1 (.fcvtI ⟨false, 0⟩ ⟨.slice (n 0 2), .slice (n 48 7), .slice .nz, ⟨0, 0, false, false, 2, .f32, .rdn, .none, 0⟩⟩) ∧
    is 0x2800020f030700015101 (.qnt ⟨false, 0⟩ ⟨.slice (n 0 1), .slice (n 48 7), .slice (n 32 15), ⟨0, 0, false, false, 1, .f32, .rne, .none, 0⟩⟩) ∧
    is 0x3000020f030100035141 (.dqnt ⟨false, 0⟩ ⟨.slice (n 0 3), .slice (n 48 1), .slice (n 32 15), ⟨0, 0, false, false, 1, .bf16, .rne, .none, 0⟩⟩) ∧
    is 0x584000ffff0302000f5181 (.bpack ⟨false, 0⟩ ⟨.slice (n 0 15), .slice (n 48 2), .slice .nz, ⟨0, 11, false, false, 2, .int, .rne, .none, 0⟩⟩) ∧
    is 0x3c4000ffff030f000251c1 (.bunpk ⟨false, 0⟩ ⟨.slice (n 0 2), .slice (n 48 15), .slice .nz, ⟨0, 7, true, false, 2, .int, .rne, .none, 0⟩⟩) := by decide

/-- Group 6: control flow and cascade. -/
theorem test_decode_group6_1 :
    is 0xffffffffffff6000 (.nop ⟨false, 0⟩) ∧
    is 0xffffffff6041 (.nopW ⟨false, 0⟩) ∧
    is 0xffffffe00000ffffffff6081 (.br ⟨false, 0⟩ 0xffffffe0) ∧
    is 0x4000000103ffff60c1 (.bz ⟨false, 0⟩ (n 16 3) 64) ∧
    is 0x4000000103ffff6101 (.bnz ⟨false, 0⟩ (n 16 3) 64) ∧
    is 0x2000000006ffff6141 (.bmany ⟨false, 0⟩ 6 32) ∧
    is 0x2000000006ffff6181 (.bmnone ⟨false, 0⟩ 6 32) ∧
    is 0x800000ffff020f61c1 (.call ⟨false, 0⟩ (n 32 15) 0x80) ∧
    is 0xffff020fffff6200 (.ret ⟨false, 0⟩ (n 32 15)) ∧
    is 0x201020fffff6240 (.brx ⟨false, 0⟩ (n 32 15) (n 32 1)) ∧
    is 0xffffffc00000ffff06026281 (.loop ⟨false, 0⟩ (n 96 2) 0xffffffc0) ∧
    is 0xffffffffffff62c0 (.exit ⟨false, 0⟩) := by decide

/-- Group 6: control flow and cascade. -/
theorem test_decode_group6_2 :
    is 0x27ffffffff010304076302 (.casc ⟨false, 0⟩ ⟨(n 64 7), (n 16 3)⟩ 7 2) ∧
    is 0xffffffffffffffff6342 (.cascx ⟨false, 0⟩) ∧
    is 0x1ffffffffffffffff6342 (.cascxStop ⟨false, 0⟩) ∧
    is 0xffffffff04076380 (.cdis ⟨false, 0⟩ (n 64 7)) := by decide

/-- Group 7: loads, stores, stash and spill. -/
theorem test_decode_group7 :
    is 0xffff0142fffffff80201000f04077002 (.ldZ ⟨false, 0⟩ ⟨.slice (n 64 7), (n 0 15), (n 32 1), 0xfffffff8, 2, .tile, .strict, .streaming, 0, false, .nz⟩) ∧
    is 0xffff0282fffffff80201000f04077042 (.ldS ⟨false, 0⟩ ⟨.slice (n 64 7), (n 0 15), (n 32 1), 0xfffffff8, 2, .tile, .release, .keep, 0, false, .nz⟩) ∧
    is 0xffff00c2fffffff80201000f04077082 (.st ⟨false, 0⟩ ⟨.slice (n 64 7), (n 0 15), (n 32 1), 0xfffffff8, 2, .tile, .free, .normal, 0, false, .nz⟩) ∧
    is 0xffff0012fffffff80201000f040770c2 (.ldAcqZ ⟨false, 0⟩ ⟨.slice (n 64 7), (n 0 15), (n 32 1), 0xfffffff8, 2, .device, .page, .normal, 0, false, .nz⟩) ∧
    is 0xffff0022fffffff80201000f04077102 (.ldAcqS ⟨false, 0⟩ ⟨.slice (n 64 7), (n 0 15), (n 32 1), 0xfffffff8, 2, .system, .page, .normal, 0, false, .nz⟩) ∧
    is 0xffff0062fffffff80201000f04077142 (.stRel ⟨false, 0⟩ ⟨.slice (n 64 7), (n 0 15), (n 32 1), 0xfffffff8, 2, .system, .strict, .normal, 0, false, .nz⟩) ∧
    is 0xffff0207fffffff80201000fffff7182 (.pref ⟨false, 0⟩ ⟨.slice .nz, (n 0 15), (n 32 1), 0xfffffff8, 7, .tile, .page, .keep, 0, false, .nz⟩) ∧
    is 0x5ffff0201000f040771c2 (.stashMap ⟨false, 0⟩ ⟨(n 64 7), (n 0 15), (n 32 1)⟩ 5) ∧
    is 0xffff0201000f04077202 (.stashFlush ⟨false, 0⟩ ⟨(n 64 7), (n 0 15), (n 32 1)⟩) ∧
    is 0xffff0201000f04077242 (.stashEvict ⟨false, 0⟩ ⟨(n 64 7), (n 0 15), (n 32 1)⟩) ∧
    is 0xffff00c0fffffff80201000f06057282 (.spill ⟨false, 0⟩ ⟨.slice (n 96 5), (n 0 15), (n 32 1), 0xfffffff8, 0, .tile, .free, .normal, 0, false, .nz⟩) ∧
    is 0xffff0008fffffff80201000f300272c2 (.fill ⟨false, 0⟩ ⟨.view 3 2, (n 0 15), (n 32 1), 0xfffffff8, 0, .tile, .page, .normal, 0, false, .nz⟩) := by decide

/-- Group 8: atomics, fences and write-then-signal. -/
theorem test_decode_group8 :
    is 0x5072002fffffff80201000f04078002 (.amo ⟨false, 0⟩ ⟨.slice (n 64 7), (n 0 15), (n 32 1), 0xfffffff8, 2, .tile, .page, .normal, 8, false, (n 80 7)⟩) ∧
    is 0xffff4813fffffff80201000f040f8042 (.amoAr ⟨false, 0⟩ ⟨.slice (n 64 15), (n 0 15), (n 32 1), 0xfffffff8, 3, .device, .page, .normal, 2, true, .nz⟩) ∧
    is 0xffff040afffffff80201000f10008082 (.amoAgg ⟨false, 0⟩ ⟨.view 1 0, (n 0 15), (n 32 1), 0xfffffff8, 2, .tile, .page, .normal, 1, false, .nz⟩) ∧
    is 0x1ffffffff80c0 (.fence ⟨false, 0⟩ .device) ∧
    is 0x2ffffffff8100 (.fenceAll ⟨false, 0⟩ .system) ∧
    is 0x27c0602010f000f040f8142 (.wsig ⟨false, 0⟩ ⟨(n 64 15), (n 0 15), (n 16 15), (n 96 2), 4, true, 7, .system⟩) ∧
    is 0xffff0201000f04078182 (.pinwait ⟨false, 0⟩ ⟨(n 64 7), (n 0 15), (n 32 1)⟩) := by decide

/-- Group 9: landing and multicast. -/
theorem test_decode_group9 :
    is 0x3fffffffff000f04079002 (.ctpl ⟨false, 0⟩ ⟨(n 64 7), (n 0 15)⟩ 63) ∧
    is 0x10e0307020f000fffff9042 (.cpy ⟨false, 0⟩ ⟨(n 0 15), (n 32 15), (n 48 7), 6, 33⟩) ∧
    is 0x5010e0307020f000fffff9082 (.cpyCmp ⟨false, 0⟩ ⟨(n 0 15), (n 32 15), (n 48 7), 6, 33⟩ 5) ∧
    is 0x7ffff040790c0 (.cres ⟨false, 0⟩ (n 64 7) 7) ∧
    is 0x6ffff04079100 (.cabt ⟨false, 0⟩ (n 64 7) 6) ∧
    is 0x5ffff04079140 (.cstat ⟨false, 0⟩ (n 64 7) 5) ∧
    is 0xdffff04079140 (.cstatClr ⟨false, 0⟩ (n 64 7) 5) ∧
    is 0x3abc0000000f04079181 (.sub ⟨false, 0⟩ ⟨(n 64 7), (n 0 15)⟩ 0xabc 3) ∧
    is 0xabc0000ffff040791c1 (.unsub ⟨false, 0⟩ (n 64 7) 0xabc) ∧
    is 0x3fabc0000ffff020f000f04079202 (.mcrd ⟨false, 0⟩ ⟨(n 64 7), (n 0 15), (n 32 15)⟩ 0xabc 63) := by decide

/-- Group A: basins, patterns and sends. -/
theorem test_decode_groupa :
    is 0xffffffff000f0407a002 (.bdef ⟨false, 0⟩ ⟨(n 64 7), (n 0 15)⟩) ∧
    is 0xffff01070407a040 (.bfree ⟨false, 0⟩ ⟨(n 64 7), (n 16 7)⟩) ∧
    is 0xffff020f000f0602a082 (.pdef ⟨false, 0⟩ ⟨(n 96 2), (n 0 15), (n 32 15)⟩) ∧
    is 0x1fffff0407a0c0 (.pdel ⟨false, 0⟩ (n 64 7) 31) ∧
    is 0x1fffff0407a100 (.pen ⟨false, 0⟩ (n 64 7) 31) ∧
    is 0x1fffff0407a140 (.pdis ⟨false, 0⟩ (n 64 7) 31) ∧
    is 0x2ffffffff000f0407a182 (.send ⟨false, 0⟩ ⟨(n 64 7), (n 0 15)⟩ 2) ∧
    is 0x9ffffffff000f0407a1c2 (.sendRel ⟨false, 0⟩ ⟨(n 64 7), (n 0 15)⟩ 1 .system) ∧
    is 0x9ffffffff000f0407a202 (.sendRelAll ⟨false, 0⟩ ⟨(n 64 7), (n 0 15)⟩ 1 .system) ∧
    is 0xffffffff01030407a242 (.sendc ⟨false, 0⟩ ⟨(n 64 7), (n 16 3)⟩) ∧
    is 0xffffffff01030407a282 (.arm ⟨false, 0⟩ ⟨(n 64 7), (n 16 3)⟩) ∧
    is 0xffff01070407a2c0 (.bstat ⟨false, 0⟩ ⟨(n 64 7), (n 16 7)⟩) := by decide

/-- Group B: work. -/
theorem test_decode_groupb :
    is 0xffffff80ffffffff00cb000b0407b002 (.fork ⟨false, 0⟩ ⟨(n 64 7), (n 0 11), (n 12 11), .nz⟩ 0xffff 0xffffff80) ∧
    is 0xffff050b040bb040 (.rnext ⟨false, 0⟩ ⟨(n 64 11), (n 80 11)⟩) ∧
    is 0x1234ffff0407b080 (.cancel ⟨false, 0⟩ ⟨(n 64 7), .nz⟩ 0x1234) ∧
    is 0x1234ffff0407b0c0 (.cancelClr ⟨false, 0⟩ ⟨(n 64 7), .nz⟩ 0x1234) ∧
    is 0x1030407b100 (.husked ⟨false, 0⟩ ⟨(n 64 7), (n 16 3)⟩) ∧
    is 0xffffffff000f0407b142 (.gang ⟨false, 0⟩ ⟨(n 64 7), (n 0 15)⟩) ∧
    is 0x1ffffffffffff0407b142 (.gangEnd ⟨false, 0⟩ (n 64 7)) ∧
    is 0x5ffff0407b180 (.prio ⟨false, 0⟩ (n 64 7) 5) := by decide

/-- Group C: matrix and cisterns. -/
theorem test_decode_groupc :
    is 0xc8ffffffff000f0407c002 (.tdef ⟨false, 0⟩ ⟨(n 64 7), (n 0 15)⟩ 200) ∧
    is 0x1ffffffff4000ffffc042 (.mx ⟨false, 0⟩ (.view 4 0)) ∧
    is 0xffff0407c080 (.mxqStatus ⟨false, 0⟩ (n 64 7)) ∧
    is 0x1ffff0407c080 (.mxqResume ⟨false, 0⟩ (n 64 7)) ∧
    is 0x2ffff0407c080 (.mxqAbort ⟨false, 0⟩ (n 64 7)) ∧
    is 0x1ff0006ffff0201000f0407c0c2 (.addw ⟨false, 0⟩ ⟨(n 64 7), (n 0 15), (n 32 1), .nz⟩ 2 true 0x1ff) ∧
    is 0x1ffff0201000f0403c102 (.crd ⟨false, 0⟩ ⟨(n 64 3), (n 0 15), (n 32 1)⟩ true) ∧
    is 0xff0000ffffffff000f0407c142 (.cclr ⟨false, 0⟩ ⟨(n 64 7), (n 0 15)⟩ 255) ∧
    is 0xfffffffff000f0407c182 (.actl ⟨false, 0⟩ ⟨(n 64 7), (n 0 15)⟩ 15) ∧
    is 0x123456780000ffffffffc1c1 (.capk ⟨false, 0⟩ .nz 0x12345678) := by decide

/-- Group D: expert chains and merge trees. -/
theorem test_decode_groupd :
    is 0x1ffffffff000f0407d002 (.xgo ⟨false, 0⟩ ⟨(n 64 7), (n 0 15)⟩ true) ∧
    is 0x1ffffffff000f0407d042 (.xsnap ⟨false, 0⟩ ⟨(n 64 7), (n 0 15)⟩ true) ∧
    is 0x1ffff020f01030407d082 (.xrepl ⟨false, 0⟩ ⟨(n 64 7), (n 16 3), (n 32 15)⟩ true) ∧
    is 0xfff000cffffffffffff0407d0c2 (.mrgJoin ⟨false, 0⟩ ⟨(n 64 7), .nz⟩ 0xfff true true) ∧
    is 0x90001ffffffff000f0407d0c2 (.mrgPut ⟨false, 0⟩ ⟨(n 64 7), (n 0 15)⟩ 9) ∧
    is 0x90002ffffffffffff0407d0c2 (.mrgLeave ⟨false, 0⟩ (n 64 7) 9) := by decide

/-- Group E: system. -/
theorem test_decode_groupe :
    is 0xbeef0103ffffe000 (.trap ⟨false, 0⟩ (n 16 3) 0xbeef) ∧
    is 0x20f01030407e040 (.resume ⟨false, 0⟩ ⟨(n 64 7), (n 16 3), (n 32 15)⟩) ∧
    is 0xffff01030407e080 (.kill ⟨false, 0⟩ ⟨(n 64 7), (n 16 3)⟩) ∧
    is 0x17ffff0407e0c0 (.csrr ⟨false, 0⟩ (n 64 7) 0x17) ∧
    is 0x50103ffffe100 (.csrw ⟨false, 0⟩ (n 16 3) 5) ∧
    is 0xf0103ffffe100 (.ringrtyWrite ⟨false, 0⟩ (n 16 3)) ∧
    is 0xe0103ffffe100 (.savectlWrite ⟨false, 0⟩ (n 16 3)) ∧
    is 0x80103ffffe100 (.dqspillWrite ⟨false, 0⟩ (n 16 3)) ∧
    is 0x2ffff0201000f0407e142 (.tlbinv ⟨false, 0⟩ ⟨(n 64 7), (n 0 15), (n 32 1)⟩ 2) ∧
    is 0x8001ffff0407e180 (.waymask ⟨false, 0⟩ ⟨(n 64 7), .nz⟩ 0x8001) ∧
    is 0x6ffffffff01030407e1c2 (.selftest ⟨false, 0⟩ ⟨(n 64 7), (n 16 3)⟩ 6) := by decide

/-- Group F: loop nests. -/
theorem test_decode_groupf :
    is 0x481880000000003d827e01fe817f00ff8040400c02007ffffff56782009f003 (.nestMov ⟨false, 0⟩ ⟨.view 2 9, .pool 0x5678, none, 0x400c02007ff, 0xf609f807fa05fc03fe01, 3, .int, .rne, false, false, .merge, 1⟩) ∧
    is 0x8383fc837d02fd827e01fe817f00ff8040400c02007ff123456782009f043 (.nestAdd ⟨false, 0⟩ ⟨.view 2 9, .pool 0x5678, some (.pool 0x1234), 0x400c02007ff, 0xff20df40bf609f807fa05fc03fe01, 0, .f32, .rtz, false, false, .none, 0⟩) ∧
    is 0x10383fc837d02fd827e01fe817f00ff8040400c02007ff123456782009f083 (.nestSub ⟨false, 0⟩ ⟨.view 2 9, .pool 0x5678, some (.pool 0x1234), 0x400c02007ff, 0xff20df40bf609f807fa05fc03fe01, 0, .f32, .rup, false, false, .none, 0⟩) ∧
    is 0x18383fc837d02fd827e01fe817f00ff8040400c02007ff123456782009f0c3 (.nestMul ⟨false, 0⟩ ⟨.view 2 9, .pool 0x5678, some (.pool 0x1234), 0x400c02007ff, 0xff20df40bf609f807fa05fc03fe01, 0, .f32, .rdn, false, false, .none, 0⟩) ∧
    is 0x10383fc837d02fd827e01fe817f00ff8040400c02007ff123456782009f183 (.nestMacc ⟨false, 0⟩ ⟨.view 2 9, .pool 0x5678, some (.pool 0x1234), 0x400c02007ff, 0xff20df40bf609f807fa05fc03fe01, 0, .f32, .rup, false, false, .none, 0⟩) ∧
    is 0x63983fc837d02fd827e01fe817f00ff8040400c02007ff123456782009f103 (.nestMin ⟨false, 0⟩ ⟨.view 2 9, .pool 0x5678, some (.pool 0x1234), 0x400c02007ff, 0xff20df40bf609f807fa05fc03fe01, 7, .int, .rne, true, true, .none, 0⟩) ∧
    is 0x63983fc837d02fd827e01fe817f00ff8040400c02007ff123456782009f143 (.nestMax ⟨false, 0⟩ ⟨.view 2 9, .pool 0x5678, some (.pool 0x1234), 0x400c02007ff, 0xff20df40bf609f807fa05fc03fe01, 7, .int, .rne, true, true, .none, 0⟩) ∧
    is 0x10480000000003d827e01fe817f00ff8040400c02007ffffff56782009f1c3 (.nestRsum ⟨false, 0⟩ ⟨.view 2 9, .pool 0x5678, none, 0x400c02007ff, 0xf609f807fa05fc03fe01, 0, .bf16, .rup, false, false, .none, 0⟩) ∧
    is 0xbc7880000000003d827e01fe817f00ff8040400c02007ffffff56782009f203 (.nestRmax ⟨false, 0⟩ ⟨.view 2 9, .pool 0x5678, none, 0x400c02007ff, 0xf609f807fa05fc03fe01, 15, .int, .rne, false, true, .zero, 7⟩) ∧
    is 0xbc7880000000003d827e01fe817f00ff8040400c02007ffffff56782009f243 (.nestRmin ⟨false, 0⟩ ⟨.view 2 9, .pool 0x5678, none, 0x400c02007ff, 0xf609f807fa05fc03fe01, 15, .int, .rne, false, true, .zero, 7⟩) := by decide

/-! ### Ill-formed terms: each check refuses one, with its sub-code (R42) -/

/-- Every term is ill formed, and the lowest sub-code of its violated checks is the one beside it. -/
def refused (l : List (Instr × Nat)) : Bool := l.all fun e => !e.1.wf && lowest e.1.checks == some e.2
def h0 : Hdr := ⟨false, 0⟩
/-- A slice operand that reaches slice 4095 (R32). -/
def far : SliceOp := n 4088 7
def ictl : LaneCtl := ⟨0, 0, false, false, 7, .int, .rne, .none, 0⟩
def fctl : LaneCtl := ⟨0, 0, false, false, 0, .f32, .rne, .none, 0⟩
def el (s : BitVec 12) (w : BitVec 4) : ElemOp := .slice (n s w)
def l3 (c : LaneCtl) : L3 := ⟨el 0 7, el 16 7, el 32 7, c⟩
def l2 (c : LaneCtl) : L3 := ⟨el 0 7, el 16 7, .slice .nz, c⟩
def memf : MemF := ⟨el 64 7, n 0 15, .nz, 0, 2, .tile, .page, .normal, 0, false, .nz⟩
def nestf : NestF := ⟨.view 0 0, .view 1 0, some (.view 2 0), 0, 0, 7, .int, .rne, false, false, .none, 0⟩

theorem test_wf_good : (Instr.vadd h0 (l3 ictl)).wf = true ∧ (Instr.fadd h0 (l3 fctl)).wf = true ∧ (Instr.ldZ h0 memf).wf = true ∧
    (Instr.nestAdd h0 nestf).wf = true ∧ (Instr.amo h0 { memf with afn := 1 }).wf = true ∧ (Instr.vabs h0 (l2 { ictl with signed := true })).wf = true := by decide

/-- Operands past slice 4094, of another width than the entry demands, or in a field that is not used (R32, R33). -/
theorem test_wf_operands :
    refused [((.addZ h0 ⟨far, .nz, .nz⟩), 5), ((.addZ h0 ⟨.nz, far, .nz⟩), 5), ((.addZ h0 ⟨.nz, .nz, far⟩), 5), ((.sel h0 ⟨.nz, .nz, .nz, far⟩), 5),
    ((.movih h0 (n 0 7) 1), 6), ((.call h0 (n 0 7) 0), 6), ((.ret h0 (n 0 3)), 6), ((.brx h0 (n 0 15) far), 5), ((.vwset h0 0 (.reg (n 0 7))), 6),
    ((.vadd h0 { l3 ictl with d := el 0 3 }), 6), ((.vadd h0 { l3 ictl with a := el 0 3 }), 6), ((.vadd h0 { l3 ictl with b := el 0 3 }), 6),
    ((.vmov h0 (l3 ictl)), 7), ((.vmov h0 { l2 ictl with b := .view 0 0 }), 3), ((.bdef h0 ⟨n 0 3, n 16 15⟩), 6), ((.rnext h0 ⟨n 0 11, n 16 7⟩), 6),
    ((.fork h0 ⟨.nz, n 0 11, n 12 7, .nz⟩ 0 0), 6), ((.mcrd h0 ⟨.nz, n 0 15, n 16 7⟩ 0 0), 6), ((.cpy h0 ⟨n 0 15, n 16 15, n 32 3, 0, 0⟩), 6),
    ((.crd h0 ⟨n 0 7, n 16 15, .nz⟩ true), 6), ((.xrepl h0 ⟨.nz, .nz, n 0 7⟩ false), 6), ((.resume h0 ⟨.nz, .nz, n 0 7⟩), 6)] = true := by decide

/-- Fields of F96L that an instruction does not use or whose value it does not take (R38, R42, R135, R139 to R148). -/
theorem test_wf_lanes :
    refused [((.vadd h0 (l3 { ictl with mask := 1 })), 4), ((.vadd h0 (l3 { ictl with rm := .rtz })), 3), ((.vadd h0 (l3 { ictl with subfn := 1 })), 3),
    ((.vadd h0 (l3 { ictl with aux8 := 1 })), 3), ((.vadd h0 (l3 fctl)), 6), ((.vand h0 (l3 { ictl with signed := true })), 3),
    ((.vand h0 (l3 { ictl with sat := true })), 3), ((.vmulh h0 (l3 { ictl with sat := true })), 3), ((.vabs h0 (l2 ictl)), 4),
    ((.vshl h0 (l3 { ictl with aux8 := 1 })), 3), ((.fadd h0 (l3 ictl)), 3), ((.fadd h0 (l3 { ictl with iwidth := 0, cls := .int })), 6), ((.fadd h0 (l3 { fctl with sat := true })), 3),
    ((.fmin h0 (l3 { fctl with rm := .rup })), 3), ((.fcmp h0 ⟨0, el 0 7, el 16 7, { fctl with subfn := 8 }⟩), 4),
    ((.vcmp h0 ⟨0, el 0 7, el 16 7, { ictl with subfn := 6 }⟩), 4), ((.vsel h0 (l3 ictl)), 4), ((.vbcast h0 (l2 { ictl with aux8 := 1 })), 4),
    ((.vred h0 (l2 { ictl with subfn := 6 })), 4), ((.vred h0 (l2 { ictl with subfn := 4, signed := true })), 3), ((.vscan h0 (l2 { ictl with subfn := 3 })), 4), ((.vcmpr h0 (l2 ictl)), 4),
    ((.fcvtBf h0 ⟨el 0 3, el 16 7, .slice .nz, { fctl with cls := .bf16 }⟩), 6), ((.vred h0 (l2 { ictl with rm := .rtz })), 3), ((.vscan h0 (l2 { fctl with rm := .rup, subfn := 1 })), 3), ((.icvtF h0 ⟨el 0 7, el 16 3, .slice .nz, { fctl with iwidth := 3, sat := true }⟩), 3),
    ((.qnt h0 ⟨el 0 1, el 16 7, .view 0 0, { fctl with iwidth := 1 }⟩), 6), ((.bpack h0 ⟨el 0 15, el 16 0, .slice .nz, { ictl with iwidth := 0, subfn := 4 }⟩), 4),
    ((.bunpk h0 ⟨el 0 0, el 16 15, .slice .nz, { ictl with iwidth := 0, mmode := .zero }⟩), 4)] = true := by decide

/-- Immediates and control fields out of range. -/
theorem test_wf_fields :
    refused [((.bfxZ h0 ⟨.nz, .nz⟩ 40 24), 4), ((.bfi h0 ⟨.nz, .nz⟩ 1 63), 4), ((.mset h0 0 257), 4), ((.casc h0 ⟨.nz, .nz⟩ 0 0), 4),
    ((.send h0 ⟨n 0 7, n 16 15⟩ 3), 4), ((.fork h0 ⟨.nz, n 0 11, n 12 11, n 32 0⟩ 1 0), 3), ((.cancel h0 ⟨.nz, n 0 3⟩ 1), 3),
    ((.addw h0 ⟨.nz, n 0 15, n 16 7, .nz⟩ 3 false 0), 4), ((.addw h0 ⟨.nz, n 0 15, n 16 7, .nz⟩ 0 true 0), 3), ((.addw h0 ⟨.nz, n 0 15, n 16 7, n 32 7⟩ 0 false 0), 7),
    ((.capk h0 (n 0 7) 1), 3), ((.mrgJoin h0 ⟨.nz, n 0 7⟩ 0 false false), 4), ((.mrgJoin h0 ⟨.nz, n 0 7⟩ 1 false true), 3),
    ((.mrgJoin h0 ⟨.nz, n 0 7⟩ 1 true true), 7), ((.mrgPut h0 ⟨.nz, n 0 15⟩ 0), 4), ((.csrr h0 .nz 0x18), 4), ((.csrw h0 .nz 0x18), 4),
    ((.csrw h0 .nz 2), 6), ((.csrw h0 .nz 14), 4), ((.tlbinv h0 ⟨.nz, n 0 15, .nz⟩ 3), 4), ((.waymask h0 ⟨.nz, n 0 3⟩ 1), 3),
    ((.selftest h0 ⟨.nz, .nz⟩ 7), 4), ((.wsig h0 ⟨n 0 15, n 16 15, n 32 15, .nz, 6, false, 1, .tile⟩), 4),
    ((.wsig h0 ⟨n 0 15, n 16 15, n 32 15, .nz, 0, false, 0, .tile⟩), 4)] = true := by decide

/-- The fields of F128M and F256N (R39, R41, R81, R149, R226, R228, R229). -/
theorem test_wf_memory :
    refused [((.ldZ h0 { memf with a := n 0 7 }), 6), ((.ldZ h0 { memf with size := 4 }), 6), ((.ldZ h0 { memf with size := 3 }), 6), ((.ldZ h0 { memf with afn := 1 }), 3),
    ((.ldZ h0 { memf with asigned := true }), 3), ((.ldZ h0 { memf with c := n 0 0 }), 7), ((.ldZ h0 { memf with scope := .device }), 3), ((.ldZ h0 { memf with x := far }), 5),
    ((.pref h0 memf), 7), ((.spill h0 memf), 6), ((.amo h0 memf), 4), ((.amo h0 { memf with afn := 10 }), 4), ((.amo h0 { memf with afn := 1, size := 1 }), 6),
    ((.amo h0 { memf with afn := 9, size := 3, d := el 64 15 }), 6), ((.amo h0 { memf with afn := 1, asigned := true }), 3), ((.amo h0 { memf with afn := 1, d := .view 0 0 }), 6),
    ((.amo h0 { memf with afn := 1, c := n 0 0 }), 7), ((.amoAgg h0 { memf with afn := 2, d := .view 0 0 }), 4), ((.amoAgg h0 { memf with afn := 1 }), 6)] = true := by decide
theorem test_wf_nest :
    refused [((.nestAdd h0 { nestf with mask := 1 }), 4), ((.nestAdd h0 { nestf with cls := .f32 }), 3), ((.nestAdd h0 { nestf with rm := .rtz }), 3),
    ((.nestMov h0 { nestf with b := none, signed := true }), 3), ((.nestAdd h0 { nestf with a := .pool 0, iwidth := 2 }), 6), ((.nestAdd h0 { nestf with b := none }), 7),
    ((.nestMov h0 nestf), 7), ((.nestRmax h0 { nestf with b := none, cls := .f32, iwidth := 0, rm := .rtz }), 3), ((.nestRsum h0 { nestf with b := none, strides := 0x100000000000000000000 }), 3)] = true := by decide

/-- Words that are no instruction: a length of another format, no such function, a reserved value, a reserved bit, a mask above 7 (R31 to R33, R42). -/
theorem test_decode_refuses :
    decode 0x10304070001 = .error 2 ∧ decode 0x201010304070500 = .error 1 ∧ decode 0x18000107000704073001 = .error 4 ∧
    decode 0x8c00107000704073001 = .error 4 ∧ decode 0xc000107000704073001 = .error 3 ∧ decode 0x70002000841c0 = .error 5 ∧
    decode 0x3ffffffff80c0 = .error 4 ∧ decode 0x4ffffffff80c0 = .error 3 ∧ decode 0xffff030200000000ffff000f04077002 = .error 4 ∧
    decode 0xffff800200000000ffff000f04077002 = .error 3 ∧ decode 0x2ffffffffffffffff6342 = .error 3 ∧ decode 0x100000000000000000000000000000000000000000000000ffff00000000f003 = .error 3 ∧
    decode 0x1002ffff0407e0c0 = .error 3 ∧ decode 0x2010103fff00000 = .error 5 := by decide

/-! ### A small machine: one running jet of 32 granules in slot 0 of tile 0, and a page of memory that is mapped onto itself -/

def jet0 : Jet := { Jet.empty with status := .running, key := 7, grans := 32, level := 3, ceiling := 5, inst := 9, pc := 0x40000000, entry := 0x40000040 }
def page : TlbEntry := { vbase := 2 ^ 30, size := 2 ^ 30, pbase := 2 ^ 30, kind := .release, hc := false, r := true, w := true, x := true }
/-- The machine with these frame bits, changed at tile 0 and in its jet. -/
def demoWith (bits : Nat) (g : Tile → Tile) (k : Jet → Jet) : State :=
  { State.reset with
    nextId := 5
    nc := 100
    turn := .jet 0 0
    tiles := [(0, g { Tile.reset with tlb := [page], jets := [(0, k { jet0 with frame := ⟨bits⟩ })] })] }
def demo (bits : Nat) : State := demoWith bits id id
/-- An event at these places, at a machine changed at tile 0. -/
def at_ (a b c d data : Nat) (s : State) : State := { s with focus := ⟨a, b, c, d, data⟩ }
def all (s : State) (l : List Instr) : Bool := l.all s.admits
def q3 : R3 := ⟨n 64 7, n 0 7, n 16 7⟩
def q2 : R2 := ⟨n 64 7, n 0 7⟩
/-- An address operand in slices 0 to 15. -/
def q2a : R2 := ⟨n 64 7, n 0 15⟩
def q3a : R3 := ⟨n 64 7, n 0 15, n 16 15⟩

/-! ### Hypotheses that are met: scalar, lane and control instructions -/

theorem witness_ScalarArithmetic : all (demo 5) [.addZ h0 q3, .addS h0 q3, .difZ h0 q3, .difS h0 q3, .mulZ h0 q3, .mulS h0 q3, .mulhZ h0 q3, .mulhS h0 q3,
    .minZ h0 q3, .minS h0 q3, .maxZ h0 q3, .maxS h0 q3, .divZ h0 q3, .divS h0 q3, .remZ h0 q3, .remS h0 q3, .addiZ h0 q2 7, .addiS h0 q2 7, .absS h0 q2,
    .negS h0 q2] = true := by decide
theorem witness_ScalarLogic : all (demo 5) [.and h0 q3, .or h0 q3, .xor h0 q3, .andn h0 q3, .shl h0 q3, .shr h0 q3, .sar h0 q3, .rol h0 q3, .not h0 q2, .andi h0 q2 1,
    .ori h0 q2 1, .xori h0 q2 1, .shli h0 q2 63, .shri h0 q2 0, .sari h0 q2 31] = true := by decide
theorem witness_BitFields : all (demo 5) [.bfxZ h0 q2 0 63, .bfxS h0 q2 63 0, .bfi h0 q2 3 4, .popc h0 q2, .clz h0 q2, .ctz h0 q2, .brev h0 q2] = true := by decide
theorem witness_ComparesAndMoves : all (demo 5) [.cmpEq h0 q3, .cmpNe h0 q3, .cmpLtS h0 q3, .cmpLtZ h0 q3, .cmpLeS h0 q3, .cmpLeZ h0 q3, .cmpiEq h0 q2 1, .cmpiLtS h0 q2 1,
    .cmpiLtZ h0 q2 1, .sel h0 ⟨n 64 7, n 0 7, n 16 7, n 32 7⟩, .movZ h0 q2, .movS h0 q2, .movi h0 (n 64 7) 1, .movih h0 (n 64 15) 1] = true := by decide
theorem witness_Views : all (demo 5) [.vwset h0 15 (.imm 1), .vwset h0 0 (.reg (n 0 15)), .vwrd h0 (n 64 15) 15] = true ∧
    decode 0x000fffff040f2440 = .ok (.vwrd h0 (n 64 15) 15) := by decide
theorem witness_LaneInteger : all (demo 5) ([Instr.vadd h0, .vdif h0, .vmul h0, .vmulh h0, .vmin h0, .vmax h0, .vand h0, .vor h0, .vxor h0, .vshl h0, .vshr h0,
      .vsar h0].map (· (l3 ictl)) ++ [Instr.vabs h0 (l2 { ictl with signed := true }), .vneg h0 (l2 { ictl with signed := true }), .vnot h0 (l2 ictl), .vpopc h0 (l2 ictl),
      .vmov h0 (l2 ictl), .vsel h0 (l3 { ictl with mmode := .merge })]) = true ∧ (demo 5).here.fpten = 0 := by decide
theorem witness_LaneFloat : all (demo 5) ([Instr.fadd h0, .fsub h0, .fmul h0, .ffma h0, .fmin h0, .fmax h0, .fdiv h0].map (· (l3 fctl)) ++
      [Instr.fsqrt h0, .fexp2T h0, .fabs h0, .fneg h0].map (· (l2 fctl)) ++ [.fcvtBf h0 ⟨el 0 3, el 16 7, .slice .nz, fctl⟩, .fcvtF h0 ⟨el 0 7, el 16 3, .slice .nz, fctl⟩,
      .icvtF h0 ⟨el 0 7, el 16 3, .slice .nz, { fctl with iwidth := 3 }⟩, .fcvtI h0 ⟨el 0 3, el 16 7, .slice .nz, { fctl with iwidth := 3 }⟩,
      .qnt h0 ⟨el 0 1, el 16 7, el 32 15, { fctl with iwidth := 1 }⟩, .dqnt h0 ⟨el 0 7, el 16 1, el 32 15, { fctl with iwidth := 1 }⟩]) = true ∧
    (demo 5).here.fpten = 0 := by decide
theorem witness_LaneCompare : all (demo 5) [.vcmp h0 ⟨3, el 0 7, el 16 7, { ictl with subfn := 5 }⟩, .fcmp h0 ⟨3, el 0 7, el 16 7, { fctl with subfn := 7 }⟩] = true ∧
    (demo 5).here.fpten = 0 := by decide
theorem witness_WholeVector : all (demo 5) ([Instr.vperm h0 (l3 ictl), .vbcast h0 (l2 ictl), .vred h0 (l2 ictl), .vscan h0 (l2 ictl), .vcmpr h0 (l2 { ictl with mmode := .merge }),
      .vexpd h0 (l2 ictl), .bpack h0 ⟨el 0 15, el 16 7, .slice .nz, ictl⟩, .bunpk h0 ⟨el 0 7, el 16 15, .slice .nz, ictl⟩]) = true ∧ (demo 5).here.fpten = 0 := by decide
theorem witness_Masks : all (demo 5) [.mand h0 0 1 7, .mor h0 0 1 7, .mxor h0 0 1 7, .mnot h0 0 7, .mset h0 7 256, .mtestAny h0 (n 64 7) 0, .mtestAll h0 (n 64 7) 0,
    .mpopc h0 (n 64 7) 0, .mfirst h0 (n 64 7) 0] = true ∧ decode 0x0101ffff000542c0 = .error 4 ∧ decode 0x0100ffff000542c0 = .ok (.mset h0 5 256) := by decide
theorem witness_ControlFlow : all (demo 5) [.br h0 32, .bz h0 (n 0 7) 32, .bnz h0 (n 0 7) 32, .bmany h0 0 32, .bmnone h0 0 32, .ret h0 (n 0 15), .brx h0 (n 0 15) (n 16 7),
    .call h0 (n 0 15) 32, .loop h0 (n 0 7) 32, .nop h0, .nopW h0] = true := by decide
/-- An address whose next would be the tail word, and one before it. -/
theorem witness_NextAddress : (0x10 + BitVec.ofNat 64 12).toNat % 32 = 28 ∧ nextPc 0x10 12 = 0x20 ∧ (0x10 + BitVec.ofNat 64 8).toNat % 32 ≠ 28 := by decide
/-! ### Hypotheses that are met: cascades, memory, fences, copies and multicast -/

/-- The value of slices 0 to 15, and of slices 16 to 31. -/
def f2 (a b : Nat) : Nat := a + b * 2 ^ 64
def okQ {α : Type} (x : Except Nat α) : Bool := match x with | .ok _ => true | .error _ => false
def errIs {α : Type} (x : Except Nat α) (c : Nat) : Bool := match x with | .ok _ => false | .error d => d == c
def partsIn (x : Except Nat (Option (List Part))) : Option Nat := match x with | .ok (some l) => some l.length | _ => none
def walks (x : Except Nat (Option (List Part))) : Bool := match x with | .ok none => true | _ => false

/-- The header that lets a body lead a cascade stands 8 bytes before the jet's entry. -/
def demoHeader (bits : Nat) : State := { demo bits with mem := [(2 ^ 30 + 0x39, 2)] }
theorem witness_ExitAndCascade :
    all (demo 5) [.exit h0, .casc h0 q2 3 1, .cascx h0, .cascxStop h0, .cdis h0 (n 0 7)] = true ∧ (demo 5).cur.gang = none ∧ (demo 5).cur.casc = .none ∧ (demo 5).here.heldSlots = [] ∧
    (((demo 5).header 0 (demo 5).cur.entry.toNat).map hdrCasc).getD false = false ∧
    (((demoHeader 5).header 0 (demoHeader 5).cur.entry.toNat).map hdrCasc).getD false = true ∧ (demoHeader 5).admits (.casc h0 q2 15 3) = true ∧
    (let s := demoWith 5 id fun j => { j with casc := .follower 1 2 3 }; s.admits (.cascxStop h0) = true ∧ s.cur.gang = none) := by decide +kernel

/-- A load in the page, in the own pool, at an address that no table maps, and past the end of a pool. -/
def ldAt (s : State) (va nb : Nat) : Except Nat (Option (List Part)) :=
  s.check 0 { op := .load false, va := va, nb := nb, rep := va, dst := [(64, 8)] }
theorem witness_LoadsAndStores :
    all (demo (2 ^ 30)) [.ldZ h0 memf, .ldS h0 memf, .st h0 memf, .ldAcqZ h0 { memf with scope := .system }, .ldAcqS h0 memf, .stRel h0 { memf with scope := .device },
      .pref h0 { memf with d := .slice .nz, size := 7 }] = true ∧
    partsIn (ldAt (demo 0) (2 ^ 30) 4) = some 1 ∧ partsIn (ldAt (demo 0) (2 ^ 30 + 126) 4) = some 2 ∧ partsIn (ldAt (demo 0) 4 4) = some 1 ∧
    errIs (ldAt (demo 0) (2 ^ 57) 4) 5 = true ∧ errIs (ldAt (demo 0) (2 ^ 40 + 2 ^ 20 - 2) 4) 10 = true ∧ walks (ldAt (demo 0) (2 ^ 35) 4) = true ∧
    partsIn ((demo 0).check 0 { op := .pref, va := 2 ^ 30, nb := 128, rep := 2 ^ 30 }) = some 1 ∧
    errIs ((demo 0).check 0 { op := .pref, va := 2 ^ 57, nb := 128, rep := 2 ^ 57 }) 5 = true := by decide
theorem witness_Atomics :
    all (demo (2 ^ 30)) [.amo h0 { memf with afn := 9 }, .amoAr h0 { memf with afn := 8, c := n 32 7, scope := .device }] = true ∧
    (demoWith (2 ^ 30) id fun j => { j with views := [(1, BitVec.ofNat 64 (64 + 7 * 2 ^ 14 + 3 * 2 ^ 18 + 8 * 2 ^ 26))] }).admits
      (.amoAgg h0 { memf with afn := 1, d := .view 1 0 }) = true ∧
    partsIn ((demo 0).check 0 { op := .amo, va := 2 ^ 30 + 4, nb := 4, rep := 2 ^ 30 + 4, dst := [(64, 8)] }) = some 1 ∧
    errIs ((demo 0).check 0 { op := .amo, va := 2 ^ 30 + 2, nb := 4, rep := 2 ^ 30 + 2, dst := [(64, 8)] }) 7 = true := by decide
theorem witness_AtomicFunctions : (255 : Nat) < 2 ^ (8 * 4) ∧ (0xffffffff : Nat) < 2 ^ (8 * 4) ∧ (2 ^ 64 - 1 : Nat) < 2 ^ (8 * 8) := by decide
def spillAt (na : Nat) : State := demo na
theorem witness_SpillAndFill :
    all (spillAt (2 ^ 31)) [.spill h0 { memf with size := 0 }, .fill h0 { memf with size := 0 }] = true ∧ (spillAt 0).cur.spill = none ∧
    ((spillAt 0).cur.spillFrom { memf with size := 0 } false).o = { memf with size := 0 } ∧ ((spillAt 0).cur.spillFrom { memf with size := 0 } true).fill = true ∧
    partsIn ((spillAt 0).check 0 { op := .store, va := 2 ^ 30, nb := 4, rep := 2 ^ 31, enables := 255, gather := [(64, 8)], beat := some 0 }) = some 1 ∧
    errIs ((spillAt 0).check 0 { op := .store, va := 2 ^ 57, nb := 4, rep := 2 ^ 58, enables := 255, gather := [(64, 8)], beat := some 0 }) 5 = true ∧
    (let q : SpillSt := { pc := jet0.pc, fill := true, o := { memf with size := 0 }, vd := 0, na := 2 ^ 31, beat := 1, owedId := 4, stopped := true }
     let s := demoWith 0 id fun j => { j with spill := some q }; s.cur.spill = some q ∧ q.stopped = true ∧ q.pc = s.cur.pc) := by decide
def wsigf : WsigF := ⟨n 64 15, n 0 15, n 16 15, n 32 7, 0, false, 1, .device⟩
def payAt (va : Nat) : Req := { op := .store, va := va, nb := 8, rep := va, enables := 2 ^ 16 - 1, from_ := 50, gather := [(64, 16)], direct := true }
def flagAt (va : Nat) : Req := { op := .wsigFlag, va := va, nb := 4, rep := va, sc := .device, rel := true, afn := 1, direct := true }
theorem witness_WriteAndSignal :
    (demo (f2 (2 ^ 30) (2 ^ 30 + 64))).admits (.wsig h0 wsigf) = true ∧ okQ ((demo 0).check 0 (payAt (2 ^ 30))) = true ∧ okQ ((demo 0).check 0 (flagAt (2 ^ 30 + 64))) = true ∧
    errIs ((demo 0).check 0 (payAt (2 ^ 30 + 1))) 7 = true ∧ errIs ((demo 0).check 0 (flagAt (2 ^ 57))) 5 = true ∧
    okQ (((demo 0).enter (payAt (2 ^ 30)) (match (demo 0).check 0 (payAt (2 ^ 30)) with | .ok p => p | .error _ => none) true).check 0 (flagAt (2 ^ 30 + 64))) = true := by decide
theorem witness_AccessEnters : (payAt (2 ^ 30)).op ≠ .pref ∧ (payAt (2 ^ 30)).dst = [] ∧ (payAt (2 ^ 30)).beat = none ∧ (∀ a ∈ (demo 0).here.acc, a.stage ≠ 3) := by decide

def stashLine : StashLine := { va := 2 ^ 23, pa := 2 ^ 23, data := 5, owned := true, free := false }
def demoStash (bits : Nat) : State := demoWith bits (fun x => { x with poolways := 0x8000, stash := [stashLine], stashMaps := [(2, some (2 ^ 30, 256))] }) id
theorem witness_FencesAndStash :
    all (demo (f2 (2 ^ 30) 128)) [.fence h0 .tile, .fenceAll h0 .system, .stashFlush h0 q3a, .stashEvict h0 q3a, .stashMap h0 q3a 7, .pinwait h0 q3a] = true ∧
    (demo 0).here.poolways = 0 ∧ (demoStash 0).here.poolways ≠ 0 ∧
    (SliceOp.get (n 0 15) (demoStash (f2 (2 ^ 30 + 64) 128)).cur.frame % 128 ≠ 0) ∧
    -- an overlap with entry 2, and with nothing but entry 2 itself
    (∃ m ∈ (demoStash 0).here.stashMaps, m.1 ≠ 3 ∧ m.2 = some (2 ^ 30, 256)) ∧ (demoStash (f2 (2 ^ 30) 128)).admits (.stashMap h0 q3a 2) = true ∧
    fld (2 ^ 46) 46 1 = 1 ∧ fld (2 ^ 30) 46 1 = 0 ∧ fld (2 ^ 30) 0 40 + 128 ≤ Config.dieBytes := by decide

/-- A template of one element, one with a reserved bit, one whose destinations fall, and one whose counts differ. -/
def tplWord (k : Nat) : Nat := match k with
  | 0 => 0
  | 1 => 2 ^ 500
  | 2 => 1 + 1 * 2 ^ 48 + (2 ^ 32 - 1) * 2 ^ 64
  | _ => 1
def tplStatus (r : Nat) : Nat :=
  let t0 := tplOf r
  if fld r 491 21 ≠ 0 ∨ 4 < fld r 488 3 then 1 else if rises t0.esize t0.levels 0 = false then 2
  else if t0.srcCount ≠ t0.dstCount ∨ 2 ^ 32 ≤ t0.srcCount * t0.esize then 3 else 0
theorem witness_CopyIssue :
    all (demo 0) [.ctpl h0 ⟨n 200 7, n 0 15⟩ 63, .cpy h0 ⟨n 0 15, n 16 15, n 32 7, 7, 63⟩, .cpyCmp h0 ⟨n 0 15, n 16 15, .nz, 0, 0⟩ 7] = true ∧
    tplStatus (tplWord 0) = 0 ∧ tplStatus (tplWord 1) = 1 ∧ tplStatus (tplWord 2) = 2 ∧ tplStatus (tplWord 3) = 3 := by decide +kernel
theorem witness_TemplateOrder : (∀ x ∈ [(⟨4, 1, 4, 1⟩ : TplLevel), ⟨-8, 3, 0, 1⟩], 1 ≤ x.dext) ∧ rises 4 [⟨4, 3, 0, 3⟩, ⟨12, 2, 0, 2⟩] 0 = true ∧
    rises 4 [⟨4, 3, 0, 3⟩, ⟨8, 2, 0, 2⟩] 0 = false := by decide
def demoChan (c : Channel) : State := demoWith 0 (fun x => { x with chans := [(3, c)] }) id
theorem witness_ChannelControl :
    all (demo 0) [.cres h0 (n 0 7) 3, .cabt h0 (n 0 7) 3, .cstat h0 (n 0 7) 7, .cstatClr h0 (n 0 7) 0] = true ∧ ((demo 0).here.chan 3).state = .idle ∧
    (let s := demoChan { Channel.idle with state := .frozen }; (s.here.chan 3).state = .frozen ∧ (s.here.chan 3).servesCopy = true ∧ (s.here.chan 3).done = 0 ∧ s.admits (.cres h0 (n 0 7) 3) = true) ∧
    (let s := demoChan { Channel.idle with state := .landing, done := 0x3f001 }; (s.here.chan 3).state = .landing ∧ (s.here.chan 3).servesCopy = true ∧ (s.here.chan 3).done ≠ 0 ∧
      s.admits (.cabt h0 (n 0 7) 3) = true) ∧
    (let s := demoChan { Channel.idle with state := .landing, use := .matrix }; (s.here.chan 3).servesCopy = false ∧ s.admits (.cabt h0 (n 0 7) 3) = true) ∧
    (let s := demoChan { Channel.idle with state := .done }; s.admits (.cstatClr h0 (n 0 7) 3) = true) := by decide
def sub0 : Subscr :=
  { tag := 0x5a7, chan := 3, lines := 1, dst := 0, src := 2 ^ 30, home := 8, pas := [2 ^ 30], slot := 0, owedId := 4, acked := true, gone := false, started := false,
    mask := 0, lastIx := 0, lastPkt := 0, over_ := false, got := [], wanted := [], asked := [], next := 0, accepted := 0 }
def strictPage : TlbEntry := { page with kind := .strict }
def plainLines (x : Except Nat (List (Option (PageKind × Bool × Nat)))) : Bool := match x with
  | .ok l => !(l.contains none || (l.filterMap id).any (fun e => e.1 == .io) || !oneHome (l.filterMap id) || dieOf (homeOf (2 ^ 30)) != 0)
  | .error _ => false
def firstStrict (x : Except Nat (List (Option (PageKind × Bool × Nat)))) : Bool := match x with
  | .ok l => (l.filterMap id).any fun e => e.1 == .strict
  | .error _ => false
theorem witness_Multicast :
    all (demo (2 ^ 30)) [.sub h0 q2a 0x5a7 3, .unsub h0 (n 64 7) 0x5a7, .mcrd h0 q3a 0x5a7 0] = true ∧ okQ ((demo 0).streamLines 0 (2 ^ 30) 1) = true ∧
    errIs ((demo 0).streamLines 0 (2 ^ 57) 1) 5 = true ∧ (demo 0).here.subOf 0x5a7 = none ∧
    plainLines ((demo 0).streamLines 0 (2 ^ 30) 1) = true ∧ (demo 0).here.scratch 0 128 = true ∧ (demo 0).here.wayGoing 0 128 = false ∧ (SliceOp.get (n 0 15) (demo (2 ^ 30 + 64)).cur.frame % 128 ≠ 0) ∧
    (let s := demoWith 0 (fun x => { x with subs := [sub0], chans := [(3, { Channel.idle with state := .landing, use := .mcast })] }) id
     s.admits (.unsub h0 (n 64 7) 0x5a7) = true ∧ s.here.subOf 0x5a7 = some sub0 ∧ (s.here.chan 3).state = .landing ∧ (s.here.chan 3).use = .mcast ∧ (s.here.chan 3).accepted = sub0.accepted ∧ sub0.acked = true ∧
       (s.here.subs.filter fun b => !b.gone).Pairwise (fun b c => b.tag ≠ c.tag)) ∧
    (let s := demoWith (2 ^ 30) (fun x => { x with tlb := [strictPage] }) id
     s.admits (.mcrd h0 q3a 0x5a7 0) = true ∧ firstStrict (s.streamLines 0 (2 ^ 30) 1) = true) := by decide

/-! ### Hypotheses that are met: basins, patterns, sends and work -/

def weirWith (bits : Nat) (g : Weir → Weir) : State := demoWith bits (fun x => { x with weir := g x.weir }) id
/-- The form of a basin record (R158). -/
def basinForm (r : Nat) : Bool :=
  decide (fld r 32 32 = 0 ∧ fld r 12 5 = 0 ∧ fld r 3 1 = 0 ∧ fld r 0 2 ≠ 3 ∧ fld r 4 2 ≠ 3 ∧ fld r 64 6 = 0 ∧ fld r 22 10 ≤ 512 ∧ (fld r 0 2 = 2 ∨ fld r 2 1 = 0) ∧
    (fld r 0 2 = 1 → fld r 4 2 = 0 ∧ fld r 22 10 ≤ 1 ∧ fld r 17 1 = 0) ∧ (fld r 0 2 = 2 → fld r 4 2 = 2))
/-- A message basin of 64 B at index 5 with a reserve of 4, one at a free index, an engine basin at index 6, and a counter at index 0. -/
def msg5 : Nat := 2 * 2 ^ 4 + 5 * 2 ^ 6 + 4 * 2 ^ 22
def msgAny : Nat := 2 * 2 ^ 4 + 63 * 2 ^ 6 + 4 * 2 ^ 22
def eng6 : Nat := 2 + 2 * 2 ^ 4 + 6 * 2 ^ 6 + 4 * 2 ^ 22
def ctr0 : Nat := 1
def plain5 : Basin := Basin.plain 4
def engine6 : Basin := { Basin.plain 4 with kind := .engine }
def handle5 : Nat := (handleOf 0 0 5 1).toNat
def pat0 : Pattern := { entry := 0x40000040, patch := 0, inst := 9, basins := [5], inherit := false, rotate := false, enable := true, action := false, engCopy := false, prio := 3, grans := 1,
                        role := 0, badHeader := false, command := 0, held := none, by_ := 0 }
theorem witness_Basins :
    all (demo 0) [.bdef h0 q2a, .bfree h0 ⟨n 64 7, n 0 7⟩, .bstat h0 ⟨n 64 15, n 0 7⟩] = true ∧
    [msg5, msgAny, eng6, ctr0].all basinForm = true ∧ basinForm 3 = false ∧ basinForm (2 ^ 40) = false ∧ fld (msg5 + 57 * 2 ^ 6) 6 6 = 62 ∧ fld msg5 6 6 = 5 := by decide
theorem witness_BasinStates :
    ((demo 0).here.weir.basin 5).isNone = true ∧ ((demo 0).here.weir.basin 62).isNone = false ∧ (weirWith 0 fun w => w.setBasin 5 (some plain5)).here.weir.basin 5 = some plain5 ∧
    ((List.range 62).all fun k => ((weirWith 0 fun w => (List.range 62).foldl (fun w k => w.setBasin k (some plain5)) w).here.weir.basin k).isSome) = true ∧
    ((demo 0).here.engineBasin false).isSome = false ∧ ((weirWith 0 fun w => w.setBasin 6 (some engine6)).here.engineBasin false).isSome = true ∧
    (demo 0).here.reserves + 4 ≤ 448 ∧ 448 < (demo 0).here.reserves + 512 ∧
    hDev (BitVec.ofNat 32 handle5) = 0 ∧ hTile (BitVec.ofNat 32 handle5) = 0 ∧ hIndex (BitVec.ofNat 32 handle5) = 5 ∧ hTile 0x40000 ≠ 0 ∧
    (demo 0).live 0 (BitVec.ofNat 32 handle5) = false ∧ (weirWith 0 fun w => w.setBasin 5 (some plain5)).live 0 (BitVec.ofNat 32 handle5) = true ∧
    (demo 0).live 0 (handleOf 0 0 63 1) = true ∧
    -- a `bstat` about to be answered, of a handle that is not live and of one that is
    (let o : Owed := ⟨4, false, 0, [(64, 8)], [], [], [], 50, 0x40000000, false, 4⟩
     let s (w : Weir → Weir) : State := at_ 0 0 4 9 handle5 (demoWith 0 (fun x => { x with weir := w x.weir }) fun j => { j with owed := [o] })
     let u := s fun w => w.setBasin 5 (some plain5)
     (s id).focus.d = 9 ∧ ((s id).jet 0 0).findOwed 4 = some o ∧ (s id).live 0 (BitVec.ofNat 32 handle5) = false ∧
     (u.jet 0 0).findOwed 4 = some o ∧ u.live 0 (BitVec.ofNat 32 handle5) = true ∧ (u.tile 0).weir.basin (hIndex (BitVec.ofNat 32 handle5)) = some plain5) ∧
    (∃ e ∈ (weirWith 0 fun w => w.setPattern 0 (some pat0)).here.weir.patterns, e.2.map (·.basins) = some [5]) := by decide

/-- The form of a pattern record (R174, R175), and records for a body and for a command on basin 5 at entry 1. -/
def patForm (r : Nat) (image : Bool) : Bool :=
  fld r 96 16 == 0 && fld r 9 56 == 0 && (fld r 66 1 == 1 || fld r 65 1 == 0) && (decide (fld r 66 1 = 1) == image) &&
    (List.range 4).all (fun k => (decide (k ≤ fld r 70 2) || fld r (72 + 6 * k) 6 == 0) && fld r (128 + 16 * k) 1 == 0) && (decide (fld r 0 6 < 32) || fld r 0 6 == 63)
def body1 : Nat := 1 + 3 * 2 ^ 6 + 2 ^ 67 + 5 * 2 ^ 72 + 0x40000040 * 2 ^ 192
def command1 : Nat := 1 + 2 ^ 66 + 5 * 2 ^ 72
def pats (ix : Nat) : State := weirWith 0 fun w => (w.setBasin 5 (some plain5)).setPattern ix (some pat0)
theorem witness_Patterns :
    all (demo 0) [.pdef h0 ⟨n 64 7, n 0 15, .nz⟩, .pdef h0 ⟨n 300 7, n 0 15, n 64 15⟩, .pdel h0 (n 64 7) 31, .pen h0 (n 64 7) 0, .pdis h0 (n 64 7) 1] = true ∧
    ((demo 0).here.weir.pattern 1).isNone = true ∧ ((pats 1).here.weir.pattern 1).isNone = false ∧ ((pats 1).here.weir.pattern 1).map (·.basins) = some [5] ∧
    ((List.range 32).all fun k => ((weirWith 0 fun w => (List.range 32).foldl (fun w k => w.setPattern k (some pat0)) w).here.weir.pattern k).isSome) = true := by decide
theorem witness_PatternRecords :
    patForm body1 false = true ∧ patForm command1 true = true ∧ patForm (2 ^ 96) false = false ∧ fld (body1 + 62) 0 6 = 63 ∧ fld body1 66 1 = 0 ∧ fld command1 66 1 = 1 ∧
    (demo 0).here.weir.basin 5 = none ∧ (pats 1).here.weir.basin 5 = some plain5 ∧ ¬ [5, 5].Nodup ∧ [5].Nodup ∧
    (weirWith 0 fun w => w.setBasin 6 (some engine6)).here.weir.basin 6 = some engine6 ∧ engine6.kind = .engine ∧ plain5.kind ≠ .engine ∧
    ((pats 1).here.engineBasin false).isNone = true ∧ ((weirWith 0 fun w => w.setBasin 6 (some engine6)).here.engineBasin false).isNone = false ∧
    (pats 1).here.patchesOk body1 = true ∧ (pats 1).here.patchesOk (command1 + 2 ^ 128 * 0xa000) = false := by decide
theorem witness_Sends :
    all (demo 0) [.send h0 ⟨n 64 7, n 0 15⟩ 2, .sendRel h0 ⟨n 64 7, n 0 15⟩ 0 .system, .sendRelAll h0 ⟨n 64 7, .nz⟩ 1 .device, .sendc h0 ⟨n 64 7, n 0 3⟩,
      .arm h0 ⟨n 64 7, n 0 15⟩] = true := by decide
def forkBits (lo hi : Nat) : Nat := lo + hi * 2 ^ 48
theorem witness_WorkInstructions :
    all (demo (forkBits 3 9)) [.fork h0 ⟨n 64 7, n 0 11, n 12 11, .nz⟩ 1 32, .fork h0 ⟨n 64 7, n 0 11, n 12 11, n 24 7⟩ 0 32, .rnext h0 ⟨n 64 11, n 80 11⟩, .cancel h0 ⟨n 64 7, .nz⟩ 9,
      .cancelClr h0 ⟨n 64 7, n 0 3⟩ 0, .husked h0 ⟨n 64 7, .nz⟩, .prio h0 (n 64 7) 7] = true ∧
    SliceOp.get (n 0 11) (demo (forkBits 3 9)).cur.frame = 3 ∧ SliceOp.get (n 12 11) (demo (forkBits 3 9)).cur.frame = 9 ∧
    trunc ((jet0.pc.toNat : Int) + sext 32 32) 64 % 32 = 0 ∧ trunc ((jet0.pc.toNat : Int) + sext 33 32) 64 % 32 ≠ 0 ∧
    (jet0.inst ∉ (demo 0).here.huskSet ∧ (demo 0).here.huskMore = false) ∧
    (demoWith 0 (fun x => { x with huskMore := true }) id).here.huskMore = true ∧ jet0.inst ∈ (demoWith 0 (fun x => { x with huskSet := [9] }) id).here.huskSet := by decide
def task0 : Task := { done := 3, entry := 0x40000040, tindex := 2, ttile := 5, tracked := true, barrier := true, frame := 7, role := 1, prio := 6, inst := 9, grain := 4, hi := 100, lo := 50 }
theorem witness_TaskRecord : task0.entry.toNat % 32 = 0 ∧ task0.entry.toNat < 2 ^ 57 ∧ fld task0.image 96 24 = 4 := by decide
def gang0 (ended : Bool) : Gang := { id := 2, members := [(0, 0, 0)], pipes := [], pats := [(0, 1)], ended := ended }
def gangs (ended : Bool) : State := demoWith 0 (fun x => { x with gangs := [gang0 ended] }) fun j => { j with gang := some (2, 0) }
theorem witness_Gangs : all (demo 0) [.gang h0 q2a, .gangEnd h0 (n 64 7)] = true ∧ ((demo 0).cur.gang.bind fun g => (demo 0).gangOf g.1) = none ∧
    (gangs false).admits (.gangEnd h0 (n 64 7)) = true ∧ ((gangs false).cur.gang.bind fun g => (gangs false).gangOf g.1) = some (0, gang0 false) ∧
    ((gangs true).cur.gang.bind fun g => (gangs true).gangOf g.1) = some (0, gang0 true) := by decide

/-! ### Hypotheses that are met: the matrix engine, cisterns and experts -/

/-- A tensor entry of scale 1.0, one with a reserved bit, one of scale 0, and one whose two outlier channels fall. -/
def tenWord (k : Nat) : Nat := match k with
  | 0 => 0x3f800000 * 2 ^ 128
  | 1 => 1
  | 2 => 0
  | _ => 0x3f800000 * 2 ^ 128 + 2 * 2 ^ 201 + 9 * 2 ^ 176 + 5 * 2 ^ 384 + 4 * 2 ^ 400
def tenStatus (e : Nat) : Nat :=
  if fld e 704 320 ≠ 0 ∨ fld e 352 32 ≠ 0 ∨ fld e 206 50 ≠ 0 ∨ fld e 0 3 ≠ 0 ∨ fld e 198 2 = 3 ∨ 16 < fld e 201 5 then 1
  else if (posFin (fld e 128 32)).isSome = false then 2
  else if fld e 201 5 = 0 ∨ (fld e 198 2 = 0 ∧ (∀ k, k < fld e 201 5 → fld e (384 + 16 * k) 16 ≤ fld e 176 16) ∧
      ∀ k, k < fld e 201 5 → k + 1 < fld e 201 5 → fld e (384 + 16 * k) 16 < fld e (384 + 16 * (k + 1)) 16) then 0 else 3
def cmd0 : MxCmd := { img := 0, checked := false, issuer := .tile 0, inst := 9, jet := 7, upTo := 5, arrived := 0 }
def run0 : Run := { cmd := cmd0, tA := 0, tB := 0, tO := 0, rA := 0, rB := 0, qab := [], qa := [], qb := [], step := 0, readyAt := 0, lastAt := 0, outNext := 0, made := 0, flags := 0,
                    state := .running, precSent := 0, acceptedAt := 0, exps := none, bias := none, pinned := [], fault := none, inA := [], inB := [], part := 0 }
def mxWith (g : Matrix → Matrix) : State := demoWith 0 (fun x => { x with mx := g x.mx }) id
theorem witness_MatrixInstructions :
    all (demo (2 ^ 30)) [.tdef h0 q2a 255, .mx h0 (el 0 15), .mxqStatus h0 (n 64 15), .mxqResume h0 (n 64 7), .mxqAbort h0 (n 64 7), .actl h0 q2a 15, .capk h0 .nz 5,
      .capk h0 (n 0 7) 0] = true ∧ tenStatus (tenWord 0) = 0 ∧ tenStatus (tenWord 1) = 1 ∧ tenStatus (tenWord 2) = 2 ∧ tenStatus (tenWord 3) = 3 ∧
    (demo 0).here.mx.run = none ∧ (demo 0).here.mxDead = false ∧ (demo 0).here.engineBasin false = none ∧
    (mxWith fun m => { m with run := some { run0 with state := .frozen } }).here.mx.run = some { run0 with state := .frozen } ∧ mxCist run0.img = false ∧
    okQ ((demo 0).partsOf 0 .read .page true (2 ^ 30) 528) = true ∧ errIs ((demo 0).partsOf 0 .read .page true (2 ^ 57) 528) 5 = true := by decide +kernel
theorem witness_CisternInstructions :
    all (demo 0x100) [.addw h0 ⟨n 64 1, n 0 15, n 32 7, .nz⟩ 0 false 0, .addw h0 ⟨n 64 1, n 0 15, n 32 7, n 40 7⟩ 1 false 0, .addw h0 ⟨n 64 1, n 0 15, n 32 3, .nz⟩ 2 true 0x1ff,
      .crd h0 ⟨n 64 7, n 0 15, .nz⟩ false, .cclr h0 q2a 255] = true ∧
    (0x100 % 8 = 0 ∧ (poolOf 0 0 0x100).isSome = true) ∧ (0x101 % 8 ≠ 0) ∧ (poolOf 0 0 (2 ^ 30)).isSome = false ∧ 255 < 0x100 ∧
    2 ^ 20 < 0xffff8 % 2 ^ 20 + (8 + 48 * 1) ∧ 0x100 % 2 ^ 20 + (8 + 48 * 256) ≤ 2 ^ 20 ∧ okQ ((demo 0).partOf 0 .write .page false (0, 0x100, 8 + 48 * 256)) = true ∧
    fpDec pF32 0x3f800000 = .fin false 0x800000 (-23) := by decide
def leaves (b : Bool) : State := demoWith (2 ^ 30) (fun x => { x with mergeLeaves := [(9, 3, b)] }) id
/-- A list of one entry for k = 1, and one for k = 0. -/
def list1 : Nat := 1 * 2 ^ 384 + 1 * 2 ^ 400
theorem witness_ExpertInstructions :
    all (demo (2 ^ 30)) [.xgo h0 q2a true, .xsnap h0 q2a false, .xrepl h0 ⟨n 64 7, n 0 7, n 16 15⟩ true, .mrgJoin h0 ⟨n 64 7, .nz⟩ 9 true false, .mrgJoin h0 ⟨n 64 7, n 0 7⟩ 9 false false,
      .mrgPut h0 q2a 9, .mrgLeave h0 (n 64 7) 9] = true ∧ (2 ^ 30) % 64 = 0 ∧ (2 ^ 30 + 32) % 64 ≠ 0 ∧ ((demo 0).chain 1).queue.length < 4 ∧
    4 ≤ (({ demo 0 with chains := [(1, { Chain.empty with queue := List.replicate 4 ⟨0, 0, 7, 0, 9⟩ })] } : State).chain 1).queue.length ∧
    okQ ((demo 0).partsOf 0 .write .page true (2 ^ 30) 4112) = true ∧ errIs ((demo 0).partsOf 0 .write .page true (2 ^ 57) 4112) 5 = true ∧
    (demo 0).here.leafOf 9 = none ∧ (leaves true).here.leafOf 9 = some (9, 3, true) ∧ ((leaves false).here.leafOf 9).isSome = true ∧
    hDev 0x10000000 ≠ 0 ∧ dieOf (hTile 0x4000000) ≠ 0 ∧ dieOf (hTile (BitVec.ofNat 32 handle5)) = 0 ∧
    (fld (2 ^ 22) 0 22 = 0 ∧ fld (15 * 2 ^ 2) 2 5 < 16 ∧ fld (31 * 2 ^ 2) 2 5 = 31 ∧ ¬ (fld (16 * 2 ^ 2) 2 5 < 16 ∨ fld (16 * 2 ^ 2) 2 5 = 31)) := by decide
theorem witness_ExpertLists : 1 ≤ fld list1 400 8 ∧ fld list1 400 8 ≤ 8 ∧ fld list1 384 16 ≤ fld list1 400 8 ∧ ¬ (1 ≤ fld 0 400 8) := by decide +kernel
theorem witness_MergedLists : fld (BitVec.ofNat 512 list1).toNat 400 8 ≤ 8 ∧ (fpDec pF32 0).lt (fpDec pF32 0x3f800000) = true ∧ (fpDec pF32 0).isNan = false ∧
    (fpDec pF32 0x7fc00000).isNan = true ∧ rankLe (5, 0) (5, 1) = true := by decide +kernel
def routing0 : Routing := { ctr := [], reps := [], slots := [], disp := 0, drops := 0 }
theorem witness_TokenRouting : (∀ e ∈ [(0, (2, [31, 31])), (3, ((1 : Nat), [5]))], e.2.1 ≠ 0) ∧ (routing0.slots.filter fun x => !x.zero).map (·.e) = [] ∧
    (∀ x ∈ routing0.slots, x.zero = true) := by decide


/-! ### Hypotheses that are met: traps, jets, state registers, units and nests -/

/-- A second jet in slot 1, with this status and number `seq`, and a context saved in entry 2. -/
def jet1 (st : JetStatus) : Jet := { jet0 with status := st, key := 8, seq := 3, granBase := 32 }
def twoJets (st : JetStatus) (bits : Nat) : State := demoWith bits (fun x => x.setJet 1 (jet1 st)) id
def savedCtx (saved : Bool) : SaveEntry :=
  { jet := { jet0 with key := 12 }, slot := 1, doneAt := 0, saved := saved, chans := [], recAt := 0, frameAt := 512, bytes := 2560 }
def withSave (saved : Bool) (bits : Nat) : State := demoWith bits (fun x => { x with saves := [(2, some (savedCtx saved))] }) id
theorem witness_TrapEntry : (1023 : Nat) < Config.tiles ∧ (jet1 .running).contPc = none ∧ ({ cause := 255 } : Flt).cause < 2 ^ 8 ∧ ({ cause := 12 } : Flt).sub < 2 ^ 8 := by decide
/-- A view whose reserved bits are set is illegal, a slice past the frame is outside it, and a slice still owed is read too early under checking. -/
theorem witness_ChecksAtIssue :
    (footOf (.vwset h0 0 (.reg (n 0 15))) (demo (2 ^ 62))).ill = some 4 ∧ (Instr.vwset h0 0 (.reg (n 0 15))).encoded = true ∧
    (let s := demoWith 0 id fun j => { j with grans := 1 }; (footOf (.addZ h0 ⟨n 64 7, n 4090 3, n 0 7⟩) s).ill = none ∧ (s.cur.outside (footOf (.addZ h0 ⟨n 64 7, n 4090 3, n 0 7⟩) s)).isSome = true) ∧
    (let s := demoWith 0 (fun x => { x with issuectl := 2 }) fun j => { j with owed := [⟨4, true, 60, [(0, 8)], [], [⟨[(0, 8, 7)], []⟩], [], 50, 0x40000000, false, 4⟩] }
     let f := footOf (.addZ h0 q3) s
     f.ill = none ∧ s.cur.outside f = none ∧ s.here.checking = true ∧ (s.cur.early f).isSome = true) ∧
    (let s := demoWith 0 id fun j => { j with poison := [0] }
     let f := footOf (.addZ h0 q3) s
     f.ill = none ∧ s.cur.outside f = none ∧ s.here.checking = false ∧ s.cur.tainted f = some 0) := by decide
theorem witness_JetControl :
    all (demo 0) [.trap h0 (n 0 7) 65535, .trap h0 .nz 0, .resume h0 ⟨n 64 7, n 0 7, n 16 15⟩, .resume h0 ⟨n 64 7, n 0 7, .nz⟩, .kill h0 q2] = true ∧
    -- a resumed jet that is not there, one that runs, one that is suspended
    (let s := twoJets .running 25; s.here.jetById 25 = some 1 ∧ s.here.jetById 26 = none ∧ (s.jet 0 1).status ≠ .suspended ∧ (s.cur.id16 0).toNat = 0 ∧ s.here.jetById 0 = some 0) ∧
    (let s := twoJets .suspended 25; s.here.jetById 25 = some 1 ∧ (s.jet 0 1).status = .suspended ∧ q3.a.get s.cur.frame = 25 ∧ s.admits (.resume h0 ⟨n 64 7, n 0 7, .nz⟩) = true) ∧
    (let s := demo 0x10000; q3.a.get s.cur.frame / 2 ^ 16 % 2 = 1) ∧
    (∀ k ∈ [0, 1], (twoJets .running 0).here.jetById (8 * 3 * k + k) = some k) ∧
    -- a killed save entry: free, still being saved, saved
    (let s := withSave true 0x10002; s.admits (.kill h0 q2) = true ∧ q2.a.get s.cur.frame % 16 = 2 ∧ (s.here.save 2).isSome = true ∧ (s.here.save 3) = none ∧
      (s.here.save 2).map (·.saved) = some true) ∧
    (let s := withSave false 0x10002; s.admits (.kill h0 q2) = true ∧ s.here.save 2 = some (savedCtx false) ∧ (savedCtx false).slot ≠ s.curSlot) := by decide
theorem witness_RegisterReads :
    all (demo 0) ((List.range 24).map fun r => .csrr h0 (n 64 15) (BitVec.ofNat 12 r)) = true := by decide
theorem witness_RegisterWrites :
    all (demo 0) (([3, 4, 5, 6, 7, 9, 11, 12].map fun r => .csrw h0 (n 0 15) (BitVec.ofNat 12 r)) ++ [.savectlWrite h0 (n 0 15), .dqspillWrite h0 (n 0 15), .ringrtyWrite h0 (n 0 15)]) = true ∧
    (∀ e ∈ (demo 0).here.saves, e.2 = none) ∧ (∃ e ∈ (withSave true 0).here.saves, e.2 ≠ none) ∧
    (let s : State := { demo 0 with nc := 101, dev := { (demo 0).dev with powered := true } }; s.dev.powered = true ∧ s.nc % 2 = 1) ∧ (withSave true 0).admits (.savectlWrite h0 (n 0 15)) = true ∧
    (demo 0).here.spilledTasks = [] ∧ (demoWith 0 (fun x => { x with spilledTasks := [(5, false)] }) id).here.spilledTasks ≠ [] ∧
    (demoWith 0 (fun x => { x with spilledTasks := [(5, false)] }) id).admits (.dqspillWrite h0 (n 0 15)) = true ∧
    (demo (2 ^ 32)).admits (.ringrtyWrite h0 (n 0 15)) = true ∧ (demo 0).live 0 (BitVec.ofNat 32 handle5) = false ∧
    (let s := demoWith handle5 (fun x => { x with weir := x.weir.setBasin 5 (some { plain5 with ringEn := true, ringStopped := true }) }) id
     s.admits (.ringrtyWrite h0 (n 0 15)) = true ∧ s.live 0 (BitVec.ofNat 32 ((n 0 15).get s.cur.frame)) = true ∧
       s.here.weir.basin (hIndex (BitVec.ofNat 32 handle5)) = some { plain5 with ringEn := true, ringStopped := true }) := by decide
theorem witness_UnitInstructions :
    all (demo 0) [.tlbinv h0 q3a 0, .tlbinv h0 q3a 1, .tlbinv h0 q3a 2, .waymask h0 ⟨n 64 7, n 0 3⟩ 0, .waymask h0 ⟨n 64 7, .nz⟩ 0xc000, .selftest h0 ⟨n 64 7, n 0 3⟩ 0,
      .selftest h0 ⟨n 64 7, .nz⟩ 6] = true ∧
    (2 ^ 57 < (2 ^ 57 : Nat) + 1 ∧ (2 ^ 57 : Nat) + 0 ≤ 2 ^ 57) ∧ (∃ e ∈ (demo 0).tiles, e.1 = 0) ∧
    -- no way waits and none is held; one waits; a way that would leave holds a saved context
    (demo 0).here.wayPend.isSome = false ∧ (∀ w < 16, (demo 0).here.wayHeld w = false) ∧
    (demoWith 0 (fun x => { x with wayPend := some ⟨1, 0, 0, 4⟩ }) id).here.wayPend.isSome = true ∧
    (let s := withSave true 3
     s.admits (.waymask h0 ⟨n 64 7, n 0 3⟩ 0) = true ∧ s.here.wayPend.isSome = false ∧ (BitVec.ofNat 16 ((n 0 3).get s.cur.frame)).getLsbD 0 = true ∧
       s.here.poolways.getLsbD 0 = false ∧ s.here.wayHeld 0 = true) ∧
    ((16 : Nat) ≤ (n 0 3).get (demo 16).cur.frame ∧ (n 0 3).get (demo 15).cur.frame < 16) := by decide

/-- An integer reduction, a movement and a merge over 3 · 5 elements of a view and the pool. -/
def nestF (ext : List Nat) (d a : NestOp) (b : Option NestOp) : NestF :=
  ⟨d, a, b, BitVec.ofNat 50 ((List.range 5).foldl (fun v l => v + (ext.getD l 1 - 1) * 2 ^ (10 * l)) 0), 0x0000000001000000000100000001, 7, .int, .rne, false, false, .none, 0⟩
def nestSt0 (stopped : Bool) : NestSt :=
  { id := 3, num := 3, pool := 0, key := 7, slot := 0, inst := 9, jetid := 0, pc := 0x40000000, fn := 0, o := nestF [3, 5] (.pool 0) (.pool 64) none, vd := 0, va := 0, vb := 0, mask := 0,
    src := [], old := [], idx := [2, 0, 0, 0, 0], acc := 0, accSet := false, blk := [], fl := 0, owed := [], stopped := stopped, finished := false }
def nestsHere (stopped : Bool) : State := demoWith 0 (fun x => { x with nests := [nestSt0 stopped] }) id
def nestView : BitVec 64 := BitVec.ofNat 64 (64 + 7 * 2 ^ 14 + 3 * 2 ^ 18 + 8 * 2 ^ 26)
def nestDemo : State := demoWith 0 id fun j => { j with views := [(1, nestView)] }
theorem witness_NestIssue :
    all (demo 0) [.nestMov h0 (nestF [3, 5] (.pool 0) (.pool 64) none), .nestAdd h0 (nestF [1023] (.pool 0) (.pool 64) (some (.pool 128))), .nestSub h0 (nestF [1] (.pool 0) (.pool 64) (some (.pool 128))),
      .nestMul h0 (nestF [2] (.pool 0) (.pool 64) (some (.pool 128))), .nestMin h0 (nestF [2] (.pool 0) (.pool 64) (some (.pool 128))), .nestMax h0 (nestF [2] (.pool 0) (.pool 64) (some (.pool 128))),
      .nestMacc h0 (nestF [2, 1, 1, 1, 2] (.pool 0) (.pool 64) (some (.pool 128)))] = true ∧
    all nestDemo [.nestRsum h0 (nestF [3] (.view 1 0) (.pool 0) none), .nestRmax h0 (nestF [3] (.view 1 0) (.pool 0) none), .nestRmin h0 (nestF [3] (.view 1 0) (.pool 0) none)] = true ∧
    (demo 0).here.nests = [] ∧ (let s := nestsHere true; s.admits (.nestMov h0 (nestSt0 true).o) = true ∧ (nestSt0 true) ∈ s.here.nests ∧ (nestSt0 true).key = s.cur.key ∧
      (nestSt0 true).pc = s.cur.pc ∧ (nestSt0 true).stopped = true) := by decide
theorem witness_NestOrder : (nestSt0 false).idx.length = 5 ∧ (∀ l < 5, (nestSt0 false).i l < (nestSt0 false).o.extent l) ∧ (nestSt0 false).nextIdx = some [0, 1, 0, 0, 0] ∧
    ({ nestSt0 false with idx := [0, 4, 0, 0, 0] } : NestSt).nextIdx = none := by decide

/-! ### Hypotheses that are met: results, issue, residency -/

def owed0 (defer : Bool) (w : List Write) (fl : List (BitVec 5)) : Owed := ⟨4, true, 60, [(0, 8)], [], w, fl, 50, 0x40000000, defer, 4⟩
def owing (x : Owed) : State := demoWith 0 (fun x => { x with fpten := 1 }) fun j => { j with owed := [x] }
def wr (v : Nat) : Write := ⟨[(0, 8, v)], []⟩
/-- A translated load of one part, of the jet in slot 0. -/
def part0 : Part := { off := 0, nb := 4, va := 2 ^ 30, kind := .release, path := .cached, pool := 0, addr := 2 ^ 30, sent := true, performed := true, acked := true }
def acc0 (op : AccOp) (dst : List (Nat × Nat)) : Access :=
  { id := 30, jet := 7, slot := 0, inst := 9, jetid := 0, pc := 0x40000000, op := op, va := 2 ^ 30, nb := 4, rep := 2 ^ 30, sc := .tile, acq := false, rel := false, ov := .page,
    hint := .normal, direct := false, whole := false, afn := 0, asigned := false, data := 0, enables := 0, cmp := 0, dst := dst, owedId := 4, parts := [part0], from_ := 0,
    stage := 2, gather := [], cause := 0, value := 5, flags := 0, beat := none }
def accessing (a : Access) (g : Tile → Tile) : State := demoWith 0 (fun x => g { x with acc := [a] }) fun j => { j with owed := [owed0 false [] []] }
def land0 (pool : List (Nat × Nat)) : NestLand := ⟨[(0, 8, 5)], pool, 1⟩
theorem witness_ResultsArrive :
    (let s := at_ 0 0 4 0 0 (owing (owed0 true [wr 5, wr 6] [0, 2])); (s.jet 0 0).findOwed 4 = some (owed0 true [wr 5, wr 6] [0, 2]) ∧ [(0 : BitVec 5), 2].foldl (· ||| ·) 0 &&& (s.tile 0).fpten = 0 ∧
      s.focus.d = 0 ∧ (s.tile 0).slotOf (s.jet 0 0).key = some 0) ∧
    (let s := at_ 0 0 4 0 0 (owing (owed0 true [wr 5] [1])); (s.jet 0 0).findOwed 4 = some (owed0 true [wr 5] [1]) ∧ [(1 : BitVec 5)].foldl (· ||| ·) 0 &&& (s.tile 0).fpten ≠ 0 ∧ (s.jet 0 0).status = .running) ∧
    (let s := at_ 0 0 4 0 0 (owing (owed0 false [wr 5, wr 6] [0, 2])); (s.jet 0 0).findOwed 4 = some (owed0 false [wr 5, wr 6] [0, 2])) ∧
    (let s := at_ 0 0 4 0 0 (owing (owed0 false [wr 5] [2])); (s.jet 0 0).findOwed 4 = some (owed0 false [wr 5] [2])) ∧
    (let a := acc0 (.load false) [(0, 8)]; let s := at_ 0 30 0 1 0 (accessing a id); s.focus.d = 1 ∧ (s.tile 0).access 30 = some a ∧ (s.tile 0).slotOf a.jet = some 0) ∧
    (let a := acc0 (.load false) [(0, 8)]; let s := at_ 0 30 0 0 0 (accessing a id); s.focus.d = 0 ∧ (s.tile 0).access 30 = some a ∧ a.parts = [part0] ∧ a.cause = 0 ∧ a.op = .load false) := by decide
theorem witness_NestBeats :
    (let z := { nestSt0 false with owed := [land0 [(0, 5)]] }
     let s := at_ 0 0 3 1 0 (demoWith 0 (fun x => { x with nests := [z] }) id)
     (s.tile 0).nests.find? (fun z => z.id == 3) = some z ∧ (s.tile 0).slotOf z.key = some 0 ∧ (s.tile 0).addwBusy 0 z.o.size = false ∧ (s.tile 0).guardWrite 0 0 z.o.size (0, 0) = false) ∧
    (let z := { nestSt0 false with o := nestF [5] (.pool 0xffff) (.pool 0) none }
     let s := at_ 0 0 3 0 0 (demoWith 0 (fun x => { x with nests := [z] }) id)
     (s.tile 0).nests.find? (fun z => z.id == 3) = some z ∧ z.stopped = false ∧ z.finished = false ∧ (s.jet 0 0).status = .running ∧
       z.faults (s.tile 0) (s.jet 0 0).limit ≠ []) ∧
    -- a beat of a movement from view 0 to view 1, and the last block of a reduction
    (let z := { nestSt0 false with o := nestF [2] (.view 1 0) (.view 1 0) none, vd := nestView, va := nestView, idx := [0, 0, 0, 0, 0] }
     let s := at_ 0 0 3 0 0 (demoWith 0 (fun x => { x with nests := [z] }) id)
     (s.tile 0).nests.find? (fun z => z.id == 3) = some z ∧ z.owed = [] ∧ z.o.anyPool = false ∧ (s.jet 0 0).status = .running ∧
       ((z.lanes (s.tile 0) (s.jet 0 0).limit).all fun | .ok _ => true | .error _ => false) = true ∧ z.red = false ∧
       ({ z with fn := 7 } : NestSt).red = true ∧ ({ z with fn := 7 } : NestSt).lastBlock = true ∧
       ((match ({ z with fn := 7 } : NestSt).locate (s.tile 0) (s.jet 0 0).limit 0 [0, 0, 0, 0, 0] with | .ok _ => true | .error _ => false) = true)) := by decide

def follower0 : Jet := { jet0 with casc := .follower 1 3 1, fwdQ := [(1, .nop h0, 0x40000008, 0)] }
theorem witness_IssueEvents :
    (let s := at_ 0 0 0 0 0 (demoWith 0 id fun _ => follower0); (s.jet 0 0).fwdQ = [(1, .nop h0, 0x40000008, 0)]) ∧
    -- a line of two tiles to the west: free; with its first link in use; with a gated tile
    (let s := at_ 0 0 4 5 (2 + 16) (owing (owed0 false [] [])); s.focus.data < 64 ∧ (s.jet 0 0).findOwed 4 = some (owed0 false [] []) ∧ s.focus.c ≠ s.focus.d ∧ (s.tile 0).slotOf (s.jet 0 0).key = some 0 ∧
      0 ∉ [alongLine 0 1 1, alongLine 0 1 2] ∧ (s.jet 0 0).status = .running ∧ (∀ v ∈ [alongLine 0 1 1, alongLine 0 1 2], (s.tile v).took s.tc = false) ∧
      (s.jet 0 0).owed.Pairwise (fun a b => a.id ≠ b.id) ∧ (∀ l ∈ lineLinks 0 1 2, s.linkTaken l = false) ∧ ∀ v ∈ [alongLine 0 1 1, alongLine 0 1 2], s.canFollow v 32 = true) ∧
    (let s := at_ 0 0 4 5 (2 + 16) { owing (owed0 false [] []) with stops := [(15, { Stop.empty with fencedSys := [1] })] }; ∃ l ∈ lineLinks 0 1 2, s.linkTaken l = true) ∧
    (let s := at_ 0 0 4 5 (2 + 16) ((owing (owed0 false [] [])).modTile 14 fun x => { x with gated := true })
     (∀ l ∈ lineLinks 0 1 2, s.linkTaken l = false) ∧ ∃ v ∈ [alongLine 0 1 1, alongLine 0 1 2], s.canFollow v 32 = false) ∧
    -- a line of the page, and one that has no translation and a jet that waits for it
    okQ ((demo 0).partOf 0 .fetch .page true (0, 128 * 0x800000, 128)) = true ∧ (demo 0).poisoned (2 ^ 30) 128 = false ∧ (demo 0).stops = [] ∧
    (let s := demoWith 0 id fun j => { j with pc := BitVec.ofNat 64 (2 ^ 57) }; errIs (s.partOf 0 .fetch .page true (0, 128 * 2 ^ 50, 128)) 5 = true ∧ ((s.tile 0).waitFor (2 ^ 50)).map (·.1) = [0]) := by decide +kernel

def ready0 (id level grans : Nat) (saved : Option Nat) : Ready :=
  { id := id, entry := 0x40000040, level := BitVec.ofNat 3 level, inst := 9, grans := grans, role := 0, arrival := 0, waitFrom := 0, bypass := 0, payloads := [], task := none, saved := saved,
    badHeader := false, bad := [] }
def readies (l : List Ready) : State := demoWith 0 (fun x => { x with ready := l }) id
/-- Every slot of tile 0 taken, slot 7 by a jet of level 3, a save area of one entry, and a live record. -/
def pressed : State := demoWith 0 (fun x => { (List.range 7).foldl (fun y k => y.setJet (k + 1) { jet0 with key := 20 + k, granBase := 32 * (k + 1), level := 5 }) x with
    ready := [ready0 21 7 1 none], savectl := BitVec.ofNat 64 (2 ^ 34) }) id
/-- Hypotheses of `ResidencyEvents`. -/
theorem witness_Residency :
    (let s := at_ 0 0 0 0 0 (readies [ready0 21 3 1 none]); (s.tile 0).freeSlot s.tc = some 1 ∧ (s.tile 0).reserver = none ∧ (s.tile 0).readyOrder = [ready0 21 3 1 none] ∧
      s.husked 0 9 = false ∧ (s.tile 0).fits s.tc 1 = some 32) ∧
    ((readies [ready0 21 3 1 none]).tile 0).ready[0]? = some (ready0 21 3 1 none) ∧
    (let s := at_ 0 0 0 0 0 pressed; s.liveNeed 0 = some (ready0 21 7 1 none)) ∧
    (let s := at_ 0 1 21 0 0 pressed; s.focus.b ≠ 0 ∧ (s.tile 0).victimSlot = some 0 ∧ (s.tile 0).freeSaves = [0] ∧ ready0 21 7 1 none ∈ (s.tile 0).ready ∧
      ((s.tile 0).slotFor s.tc true).isNone = true) := by decide +kernel
/-- R386: the run of a victim that is parked before pass 31 is parked 1, pass 31, state 1 and the source tile in word 9 (R354). -/
theorem test_word9 : ((mxWith fun m => { m with parked := some { run0 with cmd := { cmd0 with jet := 7, issuer := .tile 5 }, step := 31 }, parkFor := some 7 }).tile 0).parkedWord 7 =
    1 * 2 ^ 5 + 31 * 2 ^ 6 + 1 * 2 ^ 38 + 5 * 2 ^ 41 := by decide +kernel
/-- R354: a stopped `nest` goes on from the indices and the views that its record holds. -/
theorem test_progress :
    (let z : NestSt := { nestSt0 true with pc := 0x40000040, idx := [3, 2, 1, 0, 0], key := 12 }
     let v := { savedCtx true with jet := { (savedCtx true).jet with grans := 1, interrupted := [⟨0x40000040, [3], 3⟩] } }
     let x := { (demo 0).tile 0 with nests := [z] }
     let p := (x.writeRecord v.jet v).1.readProgress { v with frameAt := 256 } v.jet
     p.1.nests = [z] ∧ p.2.interrupted = v.jet.interrupted) := by decide +kernel
theorem witness_ResidencyEvents :
    (let v := { savedCtx false with slot := 0 }; let s := at_ 0 2 0 0 0 (demoWith 0 (fun x => { x with saves := [(2, some v)] }) id)
     (s.tile 0).save 2 = some v ∧ s.focus.d = 0 ∧ (∀ e ∈ (s.tile 0).saves, ∀ w, e.2 = some w → w.saved = true ∨ w.doneAt = 0) ∧ 1 ≤ ((s.tile 0).jet v.slot).grans ∧ 1 ≤ s.tc) ∧
    (let s := at_ 0 2 0 1 0 (withSave false 0); (s.tile 0).save 2 = some (savedCtx false) ∧ s.focus.d ≠ 0 ∧ (savedCtx false).saved = false) ∧
    (let a := { acc0 (.load false) [(0, 8)] with jet := 12 }; let s := at_ 0 30 0 1 0 (accessing a fun x => { x with saves := [(2, some (savedCtx true))] })
     (s.tile 0).access 30 = some a ∧ (s.tile 0).slotOf 12 = none ∧ (s.tile 0).saveOf 12 = some 2 ∧ (s.tile 0).save 2 = some (savedCtx true)) ∧
    (let s := at_ 0 1 2 32 0 (withSave true 0); (s.tile 0).save s.focus.c = some (savedCtx true)) ∧
    (let s := at_ 0 0 0 0 0 (mxWith fun m => { m with run := some run0, parkAsked := some 5 }); (s.tile 0).mx.run = some run0 ∧ run0.step < run0.total) ∧
    (let s := at_ 0 0 0 0 0 (mxWith fun m => { m with parked := some run0 }); (s.tile 0).mx.parked = some run0) := by decide +kernel
theorem witness_ContextRecord : (∀ c ∈ (savedCtx false).chans, c < 8) ∧ 1 ≤ jet0.grans ∧ jet0.grans ≤ 128 ∧ (1 : Nat) ≤ 128 := by decide

/-! ### Hypotheses that are met: memory and the weir -/

def packet0 (b : Pkt) : Packet := ⟨0, 0, .l2, 0, 3, 1, b, false, 0, b.sport⟩
def withStop (g : Stop → Stop) (s : State) : State := s.modStop 0 g
def poolReq0 (op : PoolOp) : PoolReq := ⟨0, 2, 30, 0, op, 64, 4, 100, false, false⟩
/-- A window of channel 3 that is landing over the bytes from 64 on. -/
def landing0 : Channel := { Channel.idle with state := .landing, wm := 0, winLo := 0, winHi := 128, winVa := 0, guarded := true }
def readyOf (s : State) (k : PoolReq) : Bool := decide ((s.tile 0).poolIn.find? (fun q => (s.tile 0).poolReady 0 0 s.nc q && q.tile == 2 && q.acc == 30 && q.part == 0) = some k)
def full64 : List (Nat × List Packet) := (List.range 64).map fun k => (k + 1000, [])
theorem witness_MemoryEvents :
    (let a := { acc0 (.load false) [(0, 8)] with stage := 1, parts := [] }; let s := at_ 0 30 0 0 0 (accessing a id)
     (s.tile 0).access 30 = some a ∧ a.stage = 1 ∧ a.op ≠ .pref ∧ okQ (s.partsOf 0 a.op.need a.ov a.direct a.va a.nb) = true) ∧
    (let a := { acc0 (.load false) [(0, 8)] with stage := 1, parts := [], va := 2 ^ 35 }; let s := at_ 0 30 0 0 0 (accessing a id)
     (s.tile 0).access 30 = some a ∧ errIs (s.partsOf 0 a.op.need a.ov a.direct a.va a.nb) 5 = true ∧ (s.tile 0).slotOf a.jet = some 0 ∧ (s.jet 0 0).status = .running) ∧
    (let k := packet0 (.write 3 [30] 5 0xff 77); let s := at_ 0 0 0 0 0 (withStop (fun h => { h with l2In := [k], l2Lines := [5] }) (demo 0)); (s.stop 0).l2In = [k] ∧ 5 ∈ (s.stop 0).l2Lines ∧ (s.stop 0).misses = [] ∧ (s.stop 0).missWait = [] ∧ homeOf (128 * 5) = 0 ∧ s.stops.all (fun e => e.2.dir.isEmpty) = true) ∧
    (let k := packet0 (.write 3 [30] 5 0xff 77); let s := at_ 0 0 0 0 0 (withStop (fun h => { h with l2In := [k] }) (demo 0))
     (s.stop 0).l2In = [k] ∧ k.line ∉ (s.stop 0).l2Lines ∧ (∀ m ∈ (s.stop 0).misses, m.1 ≠ k.line) ∧ (s.stop 0).missWait = [] ∧ (s.stop 0).misses.length < 64) ∧
    (let k := packet0 (.write 3 [30] 5 0xff 77); let s := at_ 0 5 0 0 0 (withStop (fun h => { h with misses := [(5, [k])] }) (demo 0))
     (s.stop 0).misses.find? (fun m => m.1 == s.focus.b) = some (5, [k]) ∧ k.body = .write 3 [30] s.focus.b 0xff 77 ∧ (s.stop 0).missWait = []) ∧
    (let k := packet0 (.write 3 [30] 6 0xff 77); let s := at_ 0 5 0 0 0 (withStop (fun h => { h with missWait := [k] }) (demo 0))
     (s.stop 0).misses.find? (fun m => m.1 == s.focus.b) = none ∧ (s.stop 0).missWait = [k] ∧ k.line ≠ s.focus.b ∧ k.line ∉ (s.stop 0).l2Lines) ∧
    -- a store to tile 2's pool that was refused
    (let p := { part0 with path := .pool, pool := 2, addr := 64 }; let a := { acc0 .store [] with gather := [], parts := [p] }; let s := at_ 0 30 0 0 0 (accessing a id)
     s.here.acc = [a] ∧ s.here.nests = [] ∧ s.here.fences = [] ∧ s.focus.b = a.id ∧ s.focus.c = 0 ∧ a.op = .store ∧ a.rel = false ∧ a.beat = none ∧ a.stage = 2 ∧ a.parts = [p] ∧
       p.path = .pool ∧ p.pool ≠ 1024 * s.dev.device.toNat + 0) ∧
    (let s := at_ 0 5 0 0 0 (demo 0); (s.stop 0).misses.find? (fun m => m.1 == s.focus.b) = none ∧ ((s.stop 0).l2Lines.filter fun l => l2Set l == l2Set s.focus.b && l != s.focus.b).length < 12) := by decide +kernel
/-- Hypotheses of `MemoryEvents`. -/
theorem witness_PoolEvents :
    (let s := at_ 0 2 30 0 0 (demoWith 0 (fun x => { x with poolIn := [poolReq0 (.write 0xff 7)] }) id); readyOf s (poolReq0 (.write 0xff 7)) = true ∧ (s.tile 0).guardWrite 0 64 4 (0, 2) = false ∧ (s.tile 0).scratch 64 4 = true) ∧
    (let s := at_ 0 2 30 0 0 (demoWith 0 (fun x => { x with poolIn := [poolReq0 (.write 0xff 7)], chans := [(3, landing0)] }) id)
     readyOf s (poolReq0 (.write 0xff 7)) = true ∧ (s.tile 0).guardWrite 0 64 4 (0, 2) = true ∧ (s.tile 0).heldWrites.length < 8) ∧
    (let s := at_ 0 2 30 0 0 (demoWith 0 (fun x => { x with poolIn := [poolReq0 .read] }) id); readyOf s (poolReq0 .read) = true ∧ (s.tile 0).readGuard 0 0 (poolReq0 .read) = .clear) ∧
    (let e : WcEntry := ⟨5, 0xff, 7, 40, [30], false⟩; (at_ 0 5 0 0 0 (demoWith 0 (fun x => { x with wc := [e] }) id)).here.wcFind 5 = some e) ∧
    (let s := at_ 0 5 0 0 0 (demoWith 0 (fun x => { x with unacked := [(5, [30])] }) id); s.focus.b < 2 ^ 64 ∧ (s.tile 0).unacked.find? (fun e => e.1 == s.focus.b) = some (5, [30])) ∧
    (let s := at_ 0 31 0 0 0 (demoWith 0 (fun x => { x with fences := [⟨7, 31, true, .system, true⟩] }) id)
     (s.tile 0).fences.find? (fun e => e.upTo == s.focus.b) = some ⟨7, 31, true, .system, true⟩ ∧ Scope.system ≠ .tile) ∧
    (let s := at_ 0 0 4 128 0 (owing (owed0 false [] [])); (s.jet 0 s.focus.b).findOwed s.focus.c = some (owed0 false [] []) ∧ ∀ y ∈ s.stops, ∀ p ∈ y.2.pins, p.2 = 0) ∧
    (let s := at_ 0 0 4 128 256 (withStop (fun h => { h with pins := [(2, 1)] }) (demo 0)); (0, { Stop.empty with pins := [(2, 1)] }) ∈ s.stops ∧ 128 * 2 < s.focus.data + s.focus.d ∧ s.focus.data < 128 * 2 + 128) := by
  decide +kernel

def msg0 (op : SendOp) (src : Src) (payload seq : Nat) : SendMsg :=
  { handle := BitVec.ofNat 32 handle5, src := src, seq := seq, base := 0, inst := 9, op := op, size := 64, payload := payload, rel := none, relAll := false, tt := none, hostEntry := none }
def weirAt (b c d : Nat) (g : Weir → Weir) : State := at_ 0 b c d 0 (weirWith 0 g)
def counter5 : Basin := { Basin.plain 4 with kind := .counter, threshold := 3 }
def arrives (s : State) (m : SendMsg) (k : Basin) : Bool := (s.chainOf 0 m).isNone && (s.refuses 0 m).isNone && decide ((s.tile 0).weir.basin (hIndex m.handle) = some k)
/-- Hypotheses of `WeirEvents`. -/
theorem witness_SendArrivals :
    (let m := msg0 .data (.tile 0) 7 0; let s := weirAt 1 0 0 fun w => { w.setBasin 5 (some plain5) with localIn := [(100, m)] }
     s.focus.b ≠ 0 ∧ (s.tile 0).weir.localIn = [(100, m)] ∧ arrives s m plain5 = true ∧ plain5.ring = [] ∧ (s.tile 0).granted 5 plain5 = true) ∧
    (let m := msg0 .add (.tile 0) (2 ^ 64 - 1) 0; let s := weirAt 1 0 0 fun w => { w.setBasin 5 (some counter5) with localIn := [(100, m)] }; arrives s m counter5 = true) ∧
    (let m := msg0 .arm (.tile 0) 1 0; let s := weirAt 1 0 0 fun w => { w.setBasin 5 (some counter5) with localIn := [(100, m)] }; arrives s m counter5 = true) ∧
    (let m := msg0 .data (.tile 0) 7 0; let s := weirAt 1 0 0 fun w => { w with localIn := [(100, m)] }; (s.chainOf 0 m).isNone = true ∧ s.refuses 0 m = some 1) ∧
    (let m := msg0 .data (.tile 8) 7 0; let s := weirAt 0 0 0 fun w => { w.setBasin 5 (some plain5) with netIn := [m] }
     s.focus.b = 0 ∧ (s.tile 0).weir.reseq = [] ∧ arrives s m plain5 = true ∧ (s.tile 0).granted 5 plain5 = true ∧ m.seq = (s.tile 0).weir.nextOf m) ∧
    (let m := msg0 .data (.tile 8) 7 1; let s := weirAt 0 0 0 fun w => { w with netIn := [m] }; (s.tile 0).weir.reseq = [] ∧ m.seq ≠ (s.tile 0).weir.nextOf m) := by decide
def out0 (h : BitVec 32) (released retry : Bool) : OutEntry := ⟨{ msg0 .data (.tile 0) 7 2 with handle := h }, 0, 0, released, retry, 40⟩
/-- Hypotheses of `WeirEvents`. -/
theorem witness_SendsLeave :
    (let o := out0 (BitVec.ofNat 32 handle5) false false; let s := weirAt 0 0 0 fun w => { w with outbound := [o] }
     (s.tile 0).releaseIx = some 0 ∧ (s.tile 0).weir.outbound[0]? = some o ∧ s.noSuch o.m = false ∧ hDev o.m.handle = 0 ∧ hTile o.m.handle = 0) ∧
    (let o := out0 (handleOf 0 7 5 1) false false; let s := weirAt 0 0 0 fun w => { w with outbound := [o] }; (s.tile 0).releaseIx = some 0 ∧ s.noSuch o.m = false ∧ hTile o.m.handle ≠ 0) ∧
    (let o := out0 (handleOf 0 7 5 1) true false; let s := weirAt (handleOf 0 7 5 1).toNat 2 1 fun w => { w with outbound := [o] }
     s.focus.d = 1 ∧ o.released = true ∧ o.m.handle.toNat = s.focus.b ∧ o.m.seq = s.focus.c) ∧
    (let o := out0 (handleOf 0 7 5 1) true true; let s := weirAt 0 0 0 fun w => { w with outbound := [o] }; s.focus.b ≠ 1 ∧ (s.tile 0).weir.outbound.find? (·.retry) = some o) := by decide
def held0 : Held := ⟨50, 7, 64, 9, .tile 0, none, false, none, []⟩
def full5 : Basin := { plain5 with slots := [held0] }
def fires0 (p : Pattern) : State := weirAt 5 1 0 fun w => { (w.setBasin 5 (some full5)).setBasin 6 (some engine6) with patterns := [(1, some p)] }
/-- Hypotheses of `WeirEvents`. -/
theorem witness_PatternsFire :
    (let s := fires0 pat0; (s.chosen 0 5).2 = some (1, pat0) ∧ (s.chosen 0 6).2 = none ∧ pat0.basins.Nodup ∧ pat0.action = false ∧ pat0.held = none ∧ (s.tile 0).ready.length < 64 ∧
      (s.tile 0).huskSet = [] ∧ (s.tile 0).huskMore = false) ∧
    (let s := (fires0 pat0).modTile 0 fun x => { x with ready := List.replicate 64 (ready0 21 3 1 none) }; (s.chosen 0 5).2 = some (1, pat0) ∧ 64 ≤ (s.tile 0).ready.length) ∧
    (let s := fires0 { pat0 with action := true }; (s.chosen 0 5).2.map (·.1) = some 1 ∧ ((s.tile 0).liveBasins.find? (fun e => e.2.kind == .engine && e.2.engCopy == false)).map (·.1) = some 6) ∧
    (let s := weirAt 5 1 0 fun w => w.setBasin 5 (some { plain5 with ringEn := true, ringLog := 6, ringBase := BitVec.ofNat 64 (2 ^ 30), ring := [held0], refilling := true })
     ((s.tile 0).weir.basin 5).map (·.ring) = some [held0] ∧ (s.tile 0).weir.gen 5 = s.focus.c ∧ okQ (s.agentRead 0 (2 ^ 30) 64) = true) := by decide +kernel

/-! ### Hypotheses that are met: work, copies and multicast -/

def dq (k : Task) : DqEntry := ⟨11, k, true⟩
def task1 : Task := { task0 with frame := 0, tracked := false, hi := 102, lo := 50 }
def workIn (w : WorkMsg) (g : Tile → Tile) : State := at_ 0 0 0 0 0 (demoWith 0 (fun x => { g x with workIn := [(90, w)] }) id)
def tracked (n : Nat) : State → Option Nat := fun s => ((s.tile 0).tracker 2).map (·.count - n)
def trackers (n : Nat) : Tile → Tile := fun x => { x with trackers := [(2, some ⟨n, 0, 5, 0, 9, none⟩)] }
/-- Hypotheses of `WorkEvents`. -/
theorem witness_Deque :
    (let s := at_ 0 0 0 0 0 (demoWith 0 (fun x => { x with deque := [dq task1] }) id); (s.tile 0).spilledTasks = [] ∧ (s.tile 0).deque = [] ++ [dq task1] ∧ (s.tile 0).ownerTake.map (·.1) = some task1 ∧
      (s.tile 0).freeSlot s.tc = some 1 ∧ s.husked 0 9 = false ∧ (s.tile 0).fits s.tc 1 = some 32) ∧
    (let s := at_ 0 0 0 0 0 (demoWith 0 (fun x => { x with deque := [dq task0], huskSet := [9] }) id); (s.tile 0).ownerTake.map (·.1) = some task0 ∧ (s.tile 0).freeSlot s.tc = some 1 ∧ s.husked 0 task0.inst = true) ∧
    (Tile.reset.nextVisit 0 0 = some (0, 0) ∧ Tile.reset.nextVisit 2 8 = none ∧ ({ Tile.reset with stealctl := 0 } : Tile).nextVisit 0 0 = none) ∧
    (let s := at_ 0 300 0 0 0 (demoWith 0 (fun x => { x with backoff := some 300 }) id); (s.tile 0).backoff = some s.focus.b) := by decide +kernel
/-- Hypotheses of `WorkEvents`. -/
theorem witness_WorkMessages :
    (let s := workIn (.thirst 1023) fun x => { x with gated := true }; (s.tile 0).workHead s.nc WorkMsg.isThirst = some (90, .thirst 1023) ∧ (s.tile 0).gated = true) ∧
    (let s := workIn (.thirst 1023) fun x => { x with deque := [dq task1] }; (s.tile 0).workHead s.nc WorkMsg.isThirst = some (90, .thirst 1023) ∧ (s.tile 0).gated = false ∧ (s.tile 0).inReset = false ∧
      (s.tile 0).huskSet = [] ∧ (s.tile 0).huskMore = false ∧ (s.tile 0).topTask = some (task1, false) ∧ task1.tracked = false ∧ 2 ≤ task1.n) ∧
    (let s := workIn (.answer (some task1)) id; (s.tile 0).workHead s.nc WorkMsg.isAnswer = some (90, .answer (some task1))) ∧
    (let s := workIn (.answer none) id; (s.tile 0).workHead s.nc WorkMsg.isAnswer = some (90, .answer none)) ∧
    (let s := workIn (.track 2 true 7 (some 4)) (trackers 1); (s.tile 0).workHead s.nc WorkMsg.isTrack = some (90, .track 2 true 7 (some 4)) ∧ ((s.tile 0).tracker 2).isSome = true) ∧
    (let s := workIn (.track 2 false 7 none) (trackers 2); ((s.tile 0).tracker 2).map (·.count - 1) = some 1) ∧
    (let s := workIn (.track 2 false 7 none) (trackers 1); ((s.tile 0).tracker 2).map (·.count - 1) = some 0) ∧
    (let s := workIn (.trackAck (some 4)) fun x => { x with pieces := [⟨4, task1, 7⟩] }; (s.tile 0).workHead s.nc WorkMsg.isAck = some (90, .trackAck (some 4)) ∧ (s.tile 0).pieces.find? (fun p => p.id == 4) = some ⟨4, task1, 7⟩) ∧
    (let s := workIn (.trackAck (some 4)) id; (s.tile 0).pieces.find? (fun p => p.id == 4) = none) := by decide +kernel
/-- A launch queue at basin 5 with a record of this image at its head. -/
def queued (image : Nat) (g : Tile → Tile) : State :=
  at_ 0 0 0 0 0 (demoWith 0 (fun x => { g x with lqmap := 0x85, weir := x.weir.setBasin 5 (some { Basin.plain 4 with msize := 32, slots := [⟨50, image, 32, 9, .host, none, false, none, []⟩] }) }) id)
def huskReq0 (clear : Bool) (tt : Option Nat) : HuskReq := ⟨clear, 9, 0, 0, 7, 4, 90, tt⟩
def husky (l : List (BitVec 16)) (q : HuskReq) : State := { owing (owed0 false [] []) with dev := { Dev.reset with husks := l, huskQ := [q] } }
/-- Hypotheses of `WorkEvents`. -/
theorem witness_Dispatch :
    ((queued task1.image id).dispatchable 0).map (·.2.2) = some .go ∧ ((queued (2 ^ 256 - 1) id).dispatchable 0).map (·.2.2) = some .malformed ∧
    ((queued task1.image fun x => { x with huskSet := [9] }).dispatchable 0).map (·.2.2) = some .husked ∧
    (let s := husky [] (huskReq0 false (some 1)); s.dev.huskFirst s.nc = some (huskReq0 false (some 1)) ∧ (9 : BitVec 16) ∉ s.dev.husks ∧ s.dev.husks.length < 64) ∧
    (let s := husky [9] (huskReq0 true (some 1)); s.dev.huskFirst s.nc = some (huskReq0 true (some 1)) ∧ (9 : BitVec 16) ∈ s.dev.husks) ∧
    (let s := husky [9] (huskReq0 false none); (s.jet 0 0).findOwed 4 = some (owed0 false [] []) ∧ (9 : BitVec 16) ∈ s.dev.husks) ∧
    (let s := husky [] (huskReq0 true none); (s.jet 0 0).findOwed 4 = some (owed0 false [] []) ∧ (9 : BitVec 16) ∉ s.dev.husks) ∧
    ({ Dev.reset with huskCopy := some (huskReq0 false none, 0, 0) } : Dev).huskCopy = some (huskReq0 false none, 0, 0) := by decide +kernel
def ttAt (rule : Nat) (z : TtState) (b : Nat) : State :=
  { at_ 3 b 0 0 0 (demo 0) with dev := { Dev.reset with tlt := [(3, BitVec.ofNat 512 (rule * 2 ^ 160 + 2 ^ 162))], ttState := [(3, z)] } }
/-- Hypotheses of `WorkEvents`. -/
theorem witness_TimeTriggered :
    (Tbl.get TtState.idle (ttAt 0 TtState.idle 0).dev.ttState 3).open_ = false ∧
    (let z : TtState := ⟨1, true, 9, false, false, 0⟩
     (∀ r ∈ [0, 1], ttRule (Tbl.get 0 (ttAt r z 9).dev.tlt 3) = r) ∧ (Tbl.get TtState.idle (ttAt 0 z 9).dev.ttState 3).open_ = true ∧ BitVec.ofNat 16 (ttAt 0 z 9).focus.b = z.openInst ∧ z.deferred = false) ∧
    (let z : TtState := ⟨1, true, 9, true, false, 1⟩; (Tbl.get TtState.idle (ttAt 1 z 9).dev.ttState 3).deferred = true ∧ ttRule (Tbl.get 0 (ttAt 1 z 9).dev.tlt 3) = 1) := by decide +kernel

/-- A command for channel 3 with template 1, from the page to the pool. -/
def copyImg (done : Nat) : BitVec 512 := BitVec.ofNat 512 (2 ^ 30 * 2 ^ 64 + 0x100 * 2 ^ 128 + done * 2 ^ 192 + 2 ^ 232 + 3 * 2 ^ 240)
def copyCmd (checked : Bool) : CopyCmd := ⟨copyImg handle5, checked, .tile 0, 9, 7, 0, 40, none⟩
def tpl4 : Template := ⟨0, 4, []⟩
def chan3 (ps : List Piece) : Channel := { Channel.idle with state := .landing, dst := 0x100, src := 2 ^ 30, tpl := tpl4, total := 1, winLo := 0x100, winHi := 0x104, winVa := 0x100, wm := 0x100, pieces := ps, guarded := true }
def copying (c : Channel) (f : State → State) : State := f (demoWith 0 (fun x => { x with chans := [(3, c)], templates := [(1, some tpl4)] }) id)
def piece (v : Option Nat) (fr : Nat) (bad : Option (Nat × Nat)) : Piece := ⟨0, 0, 4, v, fr, bad, 0⟩
def queue (k : CopyCmd) (t : Tbl (Option Template)) : State := at_ 0 0 0 0 0 (demoWith 0 (fun x => { x with copyQ := [k], templates := t }) id)
/-- Hypotheses of `CopyEvents`. -/
theorem witness_Copies :
    (let s := queue (copyCmd false) [(1, some tpl4)]; s.copyHead 0 = some (true, copyCmd false) ∧ s.gatherOf (copyCmd false) = none ∧ (match s.checkCopy 0 (copyCmd false) with | .ok c => c.total | .error _ => 0) = 1) ∧
    (let s := queue (copyCmd true) [(1, some tpl4)]; s.copyHead 0 = some (true, copyCmd true) ∧ s.gatherOf (copyCmd true) = none ∧ (s.tile 0).capOk (fld (copyCmd true).img.toNat 0 64) true (copyCmd true).issuer = false) ∧
    (let s := queue (copyCmd false) []; s.copyHead 0 = some (true, copyCmd false) ∧ Tbl.get none (s.tile 0).templates (fld (copyCmd false).img.toNat 232 6) = none) ∧
    (let s := copying (chan3 []) (at_ 0 0 0 0 0); (s.tile 0).reader s.tc = some (3, chan3 []) ∧
      ((match s.partsOf 0 .read .page true (2 ^ 30) 4 with | .ok [p] => p.path != .pool | _ => false) = true)) ∧
    -- a source in the own pool, in another tile's pool, and one that no table maps
    (let s := copying { chan3 [] with src := 64 } (at_ 0 0 0 0 0); (s.tile 0).reader s.tc = some (3, { chan3 [] with src := 64 }) ∧
      ((match s.partsOf 0 .read .page true 64 4 with | .ok [p] => p.path == .pool && p.pool == 0 | _ => false) = true)) ∧
    (let c := { chan3 [] with src := 2 ^ 40 + 2 ^ 20 }; let s := copying c (at_ 0 0 0 0 0); (s.tile 0).reader s.tc = some (3, c) ∧
      ((match s.partsOf 0 .read .page true (2 ^ 40 + 2 ^ 20) 4 with | .ok [p] => p.path == .pool && p.pool == 1 | _ => false) = true)) ∧
    (let c := { chan3 [] with src := 2 ^ 57 }; let s := copying c (at_ 0 0 0 0 0); (s.tile 0).reader s.tc = some (3, c) ∧ errIs (s.partsOf 0 .read .page true (2 ^ 57) 4) 5 = true) := by decide +kernel
/-- A read of channel 3 that comes back: its piece is out, and its guard answers this. -/
def readsBack (s : State) (p : Piece) (g : Guarded) : Bool :=
  let c := (s.tile 0).chan 3
  decide (c.accepted = s.focus.data) && c.state == .landing && decide (c.pieces.find? (fun p => p.elem == s.focus.c && p.off == s.focus.d && p.out) = some p) &&
    decide (s.engineGuard 0 ((c.srcVa p.elem + p.off) % 2 ^ 64) p.nb (some (0, 3)) = g)
/-- Hypotheses of `CopyEvents`. -/
theorem witness_CopyReads :
    (let s := copying (chan3 [piece none 0 none]) (at_ 0 3 0 0 0); readsBack s (piece none 0 none) .clear = true ∧ okQ (s.engineRead 0 (2 ^ 30) 4) = true) ∧
    (let s := copying { chan3 [piece none 0 none] with src := 2 ^ 57 } (at_ 0 3 0 0 0); readsBack s (piece none 0 none) .clear = true ∧ errIs (s.engineRead 0 (2 ^ 57) 4) 5 = true) ∧
    -- a source in the own pool under a landing window, and under an aborted one
    (let s := (copying { chan3 [piece none 0 none] with src := 64 } (at_ 0 3 0 0 0)).modTile 0 fun x => x.modChan 4 fun _ => landing0
     s.poolAt 0 64 = some (0, 64) ∧ readsBack s (piece none 0 none) .stall = true) ∧
    (let s := (copying { chan3 [piece none 0 none] with src := 64 } (at_ 0 3 0 0 0)).modTile 0 fun x => x.modChan 4 fun _ => { landing0 with state := .aborted }
     readsBack s (piece none 0 none) (.aborted 4) = true) ∧
    -- a read performed, on its way back: the channel's next, and one behind it when the buffer is full
    (let p := piece (some 7) (2 ^ 64) none; let s := copying (chan3 [p]) (at_ 0 3 0 0 0); readsBack s p .clear = true ∧ (chan3 [p]).pieces.head? = some p) ∧
    (let p : Piece := { piece (some 7) (2 ^ 64) none with off := 4 }; let q := { piece (some 7) 0 none with nb := 4096 }; let s := copying (chan3 [q, p]) (at_ 0 3 0 4 0)
     readsBack s p .clear = true ∧ p.data.isSome = true ∧ (chan3 [q, p]).pieces.head? ≠ some p ∧ 4096 < (s.tile 0).reorder + p.nb) := by decide +kernel
/-- A copy that was aborted while its last write was on its way, and that write's acknowledgement where its channel is `k` by now. -/
def left0 : Channel := { chan3 [] with flying := true, accepted := 40, done := 0x3f001, state := .aborted, status := 6 }
def lastWritten (k : Channel) : Bool :=
  let s := (copying k (at_ 0 3 1 40 0)).modTile 0 fun x => { x with lastWrites := [(3, left0)] }
  decide (s.focus.c = 1) && !((s.tile 0).chan 3).flying && decide ((s.tile 0).lastWrites.find? (fun e => e.1 == s.focus.b && e.2.accepted == s.focus.d) = some (3, left0))
/-- Hypotheses of `CopyEvents`. -/
theorem witness_Landings :
    (let c := chan3 [piece (some 7) 0 none]; let s := copying c (at_ 0 0 0 0 0)
     s.focus.c ≠ 1 ∧ s.lander 0 = some (3, c) ∧ c.badHead = none ∧ c.nextWrite s.tc = some (0x100, 4, 7) ∧ ((match s.partsOf 0 .write .page false 0x100 4 with | .ok [p] => p.path == .pool && p.pool == 0 | _ => false) = true) ∧ (c.landedBy 4).complete = true) ∧
    (let c := { chan3 [piece (some 7) 0 none] with total := 2 }; (c.landedBy 4).complete = false) ∧
    (let c := { chan3 [piece (some 7) 0 none] with dst := 2 ^ 30 + 64 }; let s := copying c (at_ 0 0 0 0 0)
     s.lander 0 = some (3, c) ∧ c.nextWrite s.tc = some (2 ^ 30 + 64, 4, 7) ∧ ((match s.partsOf 0 .write .page false (2 ^ 30 + 64) 4 with | .ok [p] => p.path != .pool && !paIo p.addr && p.path != .stash | _ => false) = true)) ∧
    (let c := { chan3 [piece (some 7) 0 none] with dst := 2 ^ 30 + 64 }
     let s := (copying c (at_ 0 0 0 0 0)).modTile 0 fun x => { x with poolways := 0x8000, stash := [{ stashLine with va := 2 ^ 23, pa := 2 ^ 23 }], stashMaps := [(2, some (2 ^ 30, 256))] }
     s.lander 0 = some (3, c) ∧ ((match s.partsOf 0 .write .page false (2 ^ 30 + 64) 4 with | .ok [p] => p.path == .stash | _ => false) = true) ∧
       stashLine ∈ (s.tile 0).stash ∧ stashLine.va = (2 ^ 30 + 64) / 128 ∧ stashLine.owned = true) ∧
    (let c := { chan3 [piece (some 7) 0 none] with flying := true }; let s := copying c (at_ 0 3 1 0 0); s.focus.c = 1 ∧ (s.tile 0).chan s.focus.b = c ∧ c.flying = true ∧ c.accepted = s.focus.d) := by decide +kernel
/-- Hypotheses of `CopyEvents`. -/
theorem witness_LastWrites :
    -- the last write of a channel that was aborted: the channel as it was left, and one that has taken a command since
    (∀ k ∈ [{ left0 with flying := false }, { chan3 [] with accepted := 41 }], lastWritten k = true) ∧ left0.done ≠ 0 ∧
    (({ left0 with flying := false } : Channel).accepted = (left0.landedBy left0.flightBytes).accepted) ∧ (41 : Nat) ≠ (left0.landedBy left0.flightBytes).accepted ∧
    -- a landing write to tile 1's pool, and one of tile 2 that comes to this tile's
    (let c := { chan3 [piece (some 7) 0 none] with dst := 2 ^ 40 + 2 ^ 20 + 64 }; let s := copying c (at_ 0 0 0 0 0)
     s.lander 0 = some (3, c) ∧ c.nextWrite s.tc = some (2 ^ 40 + 2 ^ 20 + 64, 4, 7) ∧
       ((match s.partsOf 0 .write .page false (2 ^ 40 + 2 ^ 20 + 64) 4 with | .ok [p] => p.path == .pool && p.pool == 1 | _ => false) = true)) ∧
    (let q : PoolReq := { poolReq0 (.land 3 7 68) with acc := 2 ^ 65 + 3 + 8 * 40 }
     let s := at_ 0 2 (2 ^ 65 + 3 + 8 * 40) 0 0 (demoWith 0 (fun x => { x with poolIn := [q], guards := [⟨2, 3, 64, 128, 64, .landing, 40⟩] }) id)
     (s.tile 0).poolIn.find? (fun q => (s.tile 0).poolReady 0 0 s.nc q && q.tile == 2 && q.acc == 2 ^ 65 + 3 + 8 * 40 && q.part == 0) = some q ∧ q.op = .land 3 7 68) ∧
    (let c := chan3 [piece none 0 (some (5, 2 ^ 57))]; let s := copying c (at_ 0 0 0 0 0); s.lander 0 = some (3, c) ∧ c.badHead = some (5, 2 ^ 57)) ∧
    (let c := { chan3 [] with needGuard := true, winVa := 2 ^ 40 + 2 ^ 20, winLo := 0, winHi := 64 }; let s := copying c (at_ 0 0 0 0 0)
     s.guardWaiter 0 = some 3 ∧ s.poolAt 0 c.winVa = some (1, 0) ∧ c.winLo < c.winHi ∧ (s.tile 1).guestWindows 1 < 8) := by decide +kernel
def stopAt (b c d : Nat) (g : Stop → Stop) : State := at_ 0 b c d 0 (withStop g (demo 0))
def joinPk (leave : Bool) (upTo : Nat) : Packet := packet0 (.mcJoin 3 0x5a7 8 leave upTo)
def ent (l : Tbl Nat) : McEntry := ⟨8, 0x5a7, l⟩
/-- Hypotheses of `CopyEvents`. -/
theorem witness_Joins :
    (let s := stopAt 0 0 0 fun h => { h with joinIn := [(2, joinPk false 1024)] }; (s.stop 0).joinIn = [(2, joinPk false 1024)] ∧ (s.stop 0).mcFind 8 0x5a7 = none ∧ (s.stop 0).mc.length < 64) ∧
    (let s := stopAt 0 0 0 fun h => { h with joinIn := [(2, joinPk false 1024)], mc := [ent [(2, 1)]] }; (s.stop 0).mcFind 8 0x5a7 = some (ent [(2, 1)])) ∧
    (let s := stopAt 0 0 0 fun h => { h with joinIn := [(2, joinPk false 1024)], mc := (List.range 64).map fun k => ⟨k, 1, []⟩ }; (s.stop 0).mcFind 8 0x5a7 = none ∧ 64 ≤ (s.stop 0).mc.length) ∧
    (let s := stopAt 0 0 0 fun h => { h with joinIn := [(2, joinPk true 1024)], mc := [ent [(2, 1)]] }
     (0 : Nat) ≠ 1024 ∧ (s.stop 0).mcFind 8 0x5a7 = some (ent [(2, 1)]) ∧ ∀ g ∈ (s.stop 0).mc, g.home = 8 → g.tag = 0x5a7 → g = ent [(2, 1)]) ∧
    (stopAt 0 0 0 fun h => { h with joinIn := [(2, joinPk true 0)] }).here.mcWait = [] ∧
    (let b := { sub0 with acked := false }; let s := at_ 0 0x5a7 0 0 0 (demoWith 0 (fun x => { x with subs := [b] }) fun j => { j with owed := [owed0 false [] []] })
     s.focus.c ≠ 7 ∧ (s.tile 0).subs.find? (fun b => b.tag == s.focus.b && !b.acked) = some b ∧ (s.jet 0 b.slot).findOwed b.owedId = some (owed0 false [] []) ∧ b.gone = false) := by decide +kernel
def wait0 : McWait := ⟨7, 0, 0x5a7, 2 ^ 30, 1, 0, 4, [2 ^ 30], 0⟩
def reqPk : Packet := packet0 (.mcRequest 3 0x5a7 (2 ^ 30) 1 0 4 [2 ^ 30, 2 ^ 30 + 128])
def stream0 : Stream := ⟨0x5a7, 2 ^ 30, 1, some 0, 0, [], 0, [2 ^ 30, 2 ^ 30 + 128]⟩
def linePk (ix : Nat) : Packet := packet0 (.mcLine 8 0x5a7 (2 ^ 30) 4 15 ix 77)
def sub4 : Subscr := { sub0 with lines := 4, started := true, mask := 15, lastIx := 1, pas := [2 ^ 30, 2 ^ 30 + 128, 2 ^ 30 + 256, 2 ^ 30 + 384], next := 0 }
def subbed (b : Subscr) (f : State → State) : State :=
  f (demoWith 0 (fun x => { x with subs := [b], chans := [(3, { Channel.idle with state := .landing, use := .mcast, winHi := 512 })] }) id)
/-- A stream whose first held line is due, at a tag that counts at a port. -/
def dueAt (e : Machine.Stream) : Bool :=
  let s := stopAt 1 0 0 fun h => { h with streams := [e], mc := [⟨0, 0x5a7, [(4, 1)]⟩] }
  decide (s.focus.b ≠ 0) && decide ((s.stop 0).streamDue s.nc = some (e, 0, 77)) && decide ((s.stop 0).mcFind 0 e.tag = some ⟨0, 0x5a7, [(4, 1)]⟩)
/-- Hypotheses of `CopyEvents`. -/
theorem witness_Streams :
    (let s := at_ 0 1 0 0 0 (demoWith 0 (fun x => { x with mcWait := [wait0] }) id); (s.tile 0).mcReady s.tc = some wait0) ∧
    (let s := stopAt 0 0 0 fun h => { h with streamWait := [reqPk] }; (s.stop 0).streamWait = [reqPk] ∧ (s.stop 0).streams = [] ∧ selected 1 2 ≠ [] ∧ selected 4 2 = []) ∧
    (let s := stopAt 0 0 0 fun h => { h with streamWait := [reqPk], streams := [stream0] }; ∃ e ∈ (s.stop 0).streams, e.tag = 0x5a7 ∧ e.src = 2 ^ 30 ∧ e.mask = 1 ∧ e.pas = [2 ^ 30, 2 ^ 30 + 128]) ∧
    (let s := stopAt 0 0 0 fun h => { h with streams := [stream0] }; (s.stop 0).streamReads s.nc = some (stream0, 0) ∧ stream0.pas[0]? = some (2 ^ 30) ∧ 2 ^ 30 / 128 ∉ (s.stop 0).l2Lines) ∧
    (let s := stopAt 0 0 0 fun h => { h with streams := [stream0], l2Lines := [2 ^ 30 / 128] }
     (s.stop 0).streamReads s.nc = some (stream0, 0) ∧ 2 ^ 30 / 128 ∈ (s.stop 0).l2Lines ∧ (s.stop (homeOf (2 ^ 30))).dirOf (2 ^ 30 / 128) = none) ∧
    -- a line that was read is due: another follows, and none does
    (∀ e ∈ [{ stream0 with held := [(0, 77)], next := none }, { stream0 with held := [(0, 77), (1, 78)], next := none }, { stream0 with held := [(0, 77)], next := some 1, mask := 3 }],
      dueAt e = true) ∧
    (let s := stopAt 0 0 0 fun h => { h with inputs := [(2, [linePk 1])], mc := [ent [(4, 1)]] }; s.replicable 0 = some (2, linePk 1) ∧ (s.stop 0).mcFind 8 0x5a7 = some (ent [(4, 1)])) ∧
    (let s := { stopAt 0 0 0 fun h => { h with mcOut := [(2, linePk 1, 0)] } with nc := 10000 }; s.staleCopy 0 = some (2, linePk 1, 0)) := by decide +kernel
/-- Hypotheses of `CopyEvents`. -/
theorem witness_Lines :
    (let s := subbed { sub4 with got := [(0, 77)] } (at_ 0 0 0 0 0); (s.stop 0).mcIn = [] ∧ (s.mcLander 0).map (fun e => (e.2.1, e.2.2)) = some (0, 77)) ∧
    (let s := withStop (fun h => { h with mcIn := [linePk 3] }) (subbed sub4 (at_ 0 0 0 0 0))
     (s.stop 0).mcIn.filter (fun k => decide (k.readyAt / 2 < s.tc)) = [linePk 3] ∧ (s.tile 0).subOf 0x5a7 = some sub4 ∧ sub4.src = 2 ^ 30 ∧ sub4.lines = 4 ∧ sub4.over_ = false ∧
       ((s.tile 0).chan 3).state = .landing ∧ sub4.mask = 15 ∧ sub4.lastIx < 3) ∧
    (let s := withStop (fun h => { h with mcIn := [linePk 3] }) (at_ 0 0 0 0 0 (demo 0)); (s.tile 0).subOf 0x5a7 = none ∧ s.mcLander 0 = none) ∧
    (let b := { sub4 with wanted := [2] }; let s := subbed b (at_ 0 0 0 0 0); (s.tile 0).mcCatchup = some (b, 2) ∧ ((match s.streamLines 0 (b.src + 256) 1 with | .ok [some _] => true | _ => false) = true)) ∧
    (let b := { sub4 with asked := [2] }; let s := subbed b (at_ 0 0x5a7 2 1 0); s.focus.d = 1 ∧ (s.tile 0).subOf s.focus.b = some b ∧ s.focus.c ∈ b.asked) ∧
    (let s := { subbed sub4 (at_ 0 0 0 0 0) with nc := 100000 }; s.mcIdle 0 = some sub4) := by decide +kernel

/-! ### Hypotheses that are met: the network -/

def to_ (dst : Nat) (port : Endpoint) (b : Pkt) : Packet := ⟨0, dst, port, 0, 3, 1, b, false, 0, b.sport⟩
def sendPk (dst : Nat) : Packet := to_ dst .weir (.send (msg0 .data (.tile 3) 7 0))
def calm (s : State) : Bool := s.laneNext.isNone && (s.reservedReady 0).isNone && (s.copyReady 0).isNone
def acorn0 (h : Option Capture) (f : State → State) (g : Stop → Stop) : State := let s := f (stopAt 0 0 0 g); { s with dev := { s.dev with acorn := ⟨0, 0, h⟩ } }
def capture0 (full : Bool) : Capture := ⟨90, 5, sendPk 0, full⟩
def ringed (n : Nat) (s : State) : State := s.modDie 0 fun d => { d with drainRing := List.replicate n (8, sendPk 1) }
/-- Hypotheses of `NetworkEvents`. -/
theorem witness_Routers :
    (let s := stopAt 0 0 0 fun h => { h with inject := [sendPk 7] }; calm s = true ∧ s.entering 0 = some (sendPk 7, 0)) ∧
    (let s := stopAt 0 0 0 fun h => { h with inputs := [(4, [sendPk 7])] }; calm s = true ∧ s.entering 0 = none ∧ s.movable 0 = some (4, 2, 0) ∧ (s.stop 0).buf 4 = [sendPk 7] ∧ (acrossPort 0 2).1 ≠ 0) ∧
    (let s := stopAt 0 0 0 fun h => { h with inputs := [(0, [sendPk 0])] }; calm s = true ∧ s.movable 0 = some (0, 4, 0) ∧ (s.stop 0).buf 0 = [sendPk 0]) ∧
    (let s := stopAt 0 0 0 fun h => { h with mcOut := [(2, linePk 1, 90)] }; s.laneNext = none ∧ s.reservedReady 0 = none ∧ s.copyReady 0 = some (2, linePk 1, 90) ∧ (acrossPort 0 2).1 ≠ 0) ∧
    (let s := stopAt 0 0 0 fun h => { h with reserved := [(2, some (sendPk 0))] }; s.laneNext = none ∧ s.reservedReady 0 = some (2, sendPk 0)) ∧
    -- the overflow lane's header at its first link, and a Lauc port with a packet
    (let s := { acorn0 (some (capture0 false)) id id with nc := 200 }; s.laneNext.map (·.1) = some 5 ∧ s.dev.acorn.held = some (capture0 false)) ∧
    (let s := { at_ (laucStop 0) 0 0 0 0 (demo 0) with dev := { Dev.reset with lauc := [(0, { Lauc.empty with out := [sendPk 5] })] } }
     (s.reservedReady (laucStop 0)).isNone = true ∧ s.copyReady (laucStop 0) = none ∧ s.entering (laucStop 0) = none ∧ s.movable (laucStop 0) = none ∧
       laucAt (laucStop 0) = some 0 ∧ s.laucReady 0 = true) ∧
    (demo 0).routeChoice 0 (sendPk 7) = some (2, 0) ∧
    (let s := { stopAt 0 0 0 fun h => { h with inputs := [(4, [sendPk 7])] } with nc := 100000 }; s.expiring 0 = some 4) := by decide +kernel
/-- Hypotheses of `NetworkEvents`. -/
theorem witness_Overflow :
    (let s := acorn0 none id fun h => { h with inputs := [(4, [sendPk 7])] }; s.drainHead s.dev.acorn.pos = some (4, sendPk 7)) ∧
    (let s := acorn0 (some (capture0 false)) id id; s.dev.acorn.held = some (capture0 false) ∧ (capture0 false).packet.ddev = 0 ∧ Tbl.get none (s.stop 0).reserved (endpointIx .weir) = none) ∧
    (let s := acorn0 (some (capture0 false)) id fun h => { h with reserved := [(2, some (sendPk 0))] }
     Tbl.get none (s.stop 0).reserved (endpointIx .weir) = some (sendPk 0) ∧ (s.die (dieOf 0)).drainRing.length < 65536) ∧
    (let s := ringed 2 (demo 0); s.readback = some (0, 8, sendPk 1)) ∧ (capture0 false).full = false := by decide +kernel
/-- A hypothesis of `NetworkEvents`: a drain ring of 65,536 packets. -/
theorem witness_FullRing : 65536 ≤ ((ringed 65536 (demo 0)).die (dieOf 0)).drainRing.length := by
  have h (m : Nat) : ((ringed m (demo 0)).die (dieOf 0)).drainRing = List.replicate m (8, sendPk 1) := rfl
  rw [h, List.length_replicate]
/-- Hypotheses of `NetworkEvents`. -/
theorem witness_Subnets :
    (let d : Die := { Die.reset with netctl := 0x1000C0400901 }; fld d.netctl.toNat 7 1 = 0 ∧ d.rising = [] ∧ d.draining = [] ∧ fld d.netctl.toNat 8 8 ≤ 9 ∧ d.nextSub = some 1) ∧
    (let d : Die := { Die.reset with netctl := 0x1000C0400803, govLow := 349 }; d.topSub ≠ 0 ∧ 350 ≤ d.govLow + 1 ∧ 0 < fld d.netctl.toNat 8 8) ∧
    (let s := (at_ 0 1 0 0 0 (demo 0)).modDie 0 fun d => { d with draining := [1] }; s.drainedSub 0 = some 1 ∧ s.focus.b < 64) := by decide +kernel
/-- Hypotheses of `NetworkEvents`. -/
theorem witness_Ports :
    (let s := stopAt 2 0 0 fun h => { h with linkFails := [(2, 6)] }; Tbl.get 0 (s.stop 0).linkFails s.focus.b + 1 < 8) ∧
    (let s := stopAt 2 0 0 fun h => { h with linkFails := [(2, 7)] }; 8 ≤ Tbl.get 0 (s.stop 0).linkFails s.focus.b + 1) ∧
    (let s := { stopAt 0 0 0 id with dev := { Dev.reset with lauc := [(0, { Lauc.empty with linkIn := [(0, sendPk 5)] })] } }
     (Tbl.get Lauc.empty s.dev.lauc 0).linkIn = [(0, sendPk 5)] ∧ ((s.stop (laucStop 0)).buf 7).length < 256) ∧ ({ Dev.reset with jwait := [] } : Dev).released = true ∧ Dev.reset.duty.getLsbD 5 = false := by
  decide +kernel
/-- Hypotheses of `NetworkEvents`. -/
theorem witness_Ways : (1023 : Nat) < 1024 ∧ dieOf 0 = dieOf 255 ∧ dieOf 0 ≠ dieOf 256 := by decide

/-! ### Hypotheses that are met: the matrix engine, merge trees and expert chains -/

/-- One row of 64 columns at an address, and one with an outlier channel whose values and basin are given. -/
def ten1 (base : Nat) : BitVec 1024 := BitVec.ofNat 1024 (base + 8 * 2 ^ 64 + 8 * 2 ^ 96 + 0x3f800000 * 2 ^ 128 + 63 * 2 ^ 176)
def tenOut1 (base : Nat) : BitVec 1024 := BitVec.ofNat 1024 ((ten1 base).toNat + 2 ^ 201 + handle5 * 2 ^ 320 + 5 * 2 ^ 384 + (2 ^ 30 + 4096) * 2 ^ 640)
def img1 (cist : Bool) (krun : Nat) : BitVec 512 :=
  BitVec.ofNat 512 (handle5 * 2 ^ 64 + krun * 2 ^ 138 + 1 * 2 ^ 160 + 2 * 2 ^ 168 + 3 * 2 ^ 176 + (if cist then 2 ^ 264 + 0x100 * 2 ^ 288 else 3 * 2 ^ 265))
def cmd1 (cist : Bool) (krun : Nat) : MxCmd := { cmd0 with img := img1 cist krun, jet := 0, arrived := 40 }
def run1 (cist : Bool) (krun : Nat) (base : Nat) : Run := { run0 with cmd := cmd1 cist krun, tA := ten1 base, tB := ten1 (2 ^ 30 + 256), tO := ten1 (2 ^ 30 + 512), pinned := [2 ^ 30 / 128, 2 ^ 30 / 128 + 2] }
def running (r : Run) (b : Nat) : State := at_ 0 b 0 0 0 (mxWith fun m => { m with run := some r })
def okP {α β : Type} (x : Except β α) : Bool := match x with | .ok _ => true | .error _ => false
/-- What its step's lines cost a run: the latency, and whether one waits for a pin. -/
def pinCost (s : State) (r : Run) : Nat × Bool :=
  (s.pinAll 0 ((s.opLines 0 ((r.fetches r.step).1 ++ (r.fetches r.step).2)).filter fun e => !r.pinned.contains e.1)).2
def stallsAt (x : Except (Nat × Nat) (List Nat × State)) : Option (Nat × Nat) := match x with | .error e => some e | .ok _ => none
def biasOf (r : Run) : Run := { r with cmd := { r.cmd with img := BitVec.ofNat 512 (r.img + 2 ^ 261 + (2 ^ 30 + 1024) * 2 ^ 352) } }
def ids (a : BitVec 1024) : Tbl (BitVec 1024) := [(1, a), (2, ten1 (2 ^ 30 + 256)), (3, BitVec.ofNat 1024 ((ten1 (2 ^ 30 + 512)).toNat + 2 ^ 199))]
def queuedMx (a : BitVec 1024) (dead : Bool) : State :=
  at_ 0 0 0 0 0 (demoWith 0 (fun x => { x with mxDead := dead, mx := { x.mx with localQ := [cmd1 false 63], tids := ids a } }) id)
/-- Hypotheses of `MatrixAndExpertEvents`. -/
theorem witness_MatrixAccept :
    (let s := queuedMx (ten1 (2 ^ 30)) true; (s.mxHead 0).map (·.1) = some true ∧ (s.tile 0).mxDead = true) ∧
    (let s := queuedMx 0 false; (s.mxHead 0).map (·.1) = some true ∧ s.mxBad 0 (s.mxRun 0 (cmd1 false 63)) = true) ∧
    (let s := queuedMx (ten1 (2 ^ 30)) false; (s.mxHead 0).map (·.1) = some true ∧ (cmd1 false 63).checked = false ∧ (s.tile 0).mxDead = false ∧ s.mxBad 0 (s.mxRun 0 (cmd1 false 63)) = false ∧
      s.linkRefused 0 (img1 false 63).toNat = false ∧ mxCist (img1 false 63).toNat = false) := by decide +kernel
/-- Hypotheses of `MatrixAndExpertEvents`. -/
theorem witness_MatrixRuns :
    (let r := run1 false 127 (2 ^ 30); let s := running r 0; let w := r.fetches r.step
     r.total = 2 ∧ pinCost s r = (0, false) ∧ okP (s.readEach 0 8 (r.own 0) w.1) = true ∧ okP (s.readEach 0 8 (r.own 0) w.2) = true ∧ w.1.length = 1 ∧ mxAin r.img = false ∧
       mxBin r.img = false ∧ mxAout r.img = false ∧ mxBout r.img = false) ∧
    (run1 false 63 (2 ^ 30)).total ≤ 1 ∧ ([3] : List Nat)[0]? = some 3 ∧
    -- an operand that no table maps, one under a landing window, lines that are not pinned yet, and a set with no pin left
    (let r := run1 false 63 (2 ^ 57); let s := running r 0; pinCost s r = (0, false) ∧ (stallsAt (s.readEach 0 8 (r.own 0) (r.fetches r.step).1)).map (·.1) = some 5) ∧
    (let r := run1 false 63 64; let s := (running r 0).modTile 0 fun x => x.modChan 4 fun _ => landing0
     pinCost s r = (0, false) ∧ stallsAt (s.readEach 0 8 (r.own 0) (r.fetches r.step).1) = some (0, 64)) ∧
    (let r := { run1 false 63 (2 ^ 30) with pinned := [] }; (pinCost (running r 0) r).1 ≠ 0) ∧
    (let r := { run1 false 63 (2 ^ 30) with pinned := [] }
     let s := (running r 0).modStop (homeOf (2 ^ 30)) fun h => { h with l2Lines := [2 ^ 30 / 128], pins := [(2 ^ 30 / 128, 3)] }; (pinCost s r).2 = true) ∧
    mxCist (run1 true 63 (2 ^ 30)).img = true ∧ mxCist (run1 false 63 (2 ^ 30)).img = false := by decide +kernel
/-- Hypotheses of `MatrixAndExpertEvents`. -/
theorem witness_MatrixOutputs :
    (let r := { run1 false 63 (2 ^ 30) with tA := tenOut1 (2 ^ 30) }; let s := running r 0; r.precs[r.precSent]? = some (0, 0, 0) ∧ r.rows = 1 ∧ okP (s.readEach 0 2 (r.own 0) [2 ^ 30 + 4096]) = true) ∧
    (let r := run1 false 63 (2 ^ 30); let s := running r 0; (match s.readExps 0 r with | .ok (r1, s1) => (s1.readBias 0 r1).2.2.isNone | .error _ => false) = true) ∧
    (let r := run1 true 63 (2 ^ 30); okP ((running r 0).readExps 0 r) = true) ∧
    ({ run1 false 63 0 with fault := some (5, 2 ^ 57) } : Run).fault = some (5, 2 ^ 57) ∧
    (let r := run1 false 127 0; (2 ≤ (running r 2).focus.b) ∧ r.step < r.total) ∧
    (let o : AddwOp := ⟨3, 0, 0, 30, 0, 0x108, 0x100, 0, 1, 0, true⟩; (demoWith 0 (fun x => { x with addws := [o] }) id).here.addws.find? (fun o => o.id == 3) = some o) := by decide +kernel

def listR (round : Nat) : BitVec 512 := BitVec.ofNat 512 (list1 + round * 2 ^ 408 + 0x3f800000 * 2 ^ 16)
def mround (got : Nat) : MergeRound := ⟨7, got, listR 7, 90⟩
def mentry (root : Nat) (chain : Option Nat) (rs : List MergeRound) : MergeEntry := ⟨9, root, chain, BitVec.ofNat 32 handle5, [(2, 2)], rs, true⟩
def trees (l : List MergeEntry) (ins : List (Nat × Packet)) : State := stopAt 0 0 0 fun h => { h with merge := l, mergeIn := ins }
def listPk : Packet := packet0 (.merge 9 8 (listR 7))
def joinTree (root : Nat) (hd : BitVec 32) : Packet := packet0 (.mergeJoin 3 9 root 0 4 false none hd Config.tiles)
/-- Hypotheses of `MatrixAndExpertEvents`. -/
theorem witness_MergeTrees :
    ((trees [mentry 8 none [mround 2]] []).treeReady 0 = some (mentry 8 none [mround 2], mround 2)) ∧
    ((trees [mentry 0 none [mround 2]] []).treeReady 0 = some (mentry 0 none [mround 2], mround 2)) ∧
    (let s := trees [mentry 8 none []] [(2, listPk)]; s.treeReady 0 = none ∧ (s.stop 0).nextPartial = some (2, listPk) ∧ (s.stop 0).tree 9 8 = some (mentry 8 none [])) ∧
    (let s := trees [mentry 8 none [mround 1]] [(2, listPk)]; s.treeReady 0 = none ∧ (s.stop 0).nextPartial = some (2, listPk) ∧ (mround 1).round = fld (listR 7).toNat 408 8) ∧
    (let s := trees [] [(2, listPk)]; (s.stop 0).nextPartial = some (2, listPk) ∧ (s.stop 0).tree 9 8 = none) ∧
    ((trees [mentry 0 (some 0) [mround 2]] []).gateReady 0).map (·.1) = some 0 ∧
    -- a join at a tree's entry, one that makes it, one whose root is not live, one at a full table; a leave
    (let s := stopAt 0 0 0 fun h => { h with treeIn := [(2, joinTree 8 0)], merge := [mentry 8 none []] }
     (s.stop 0).nextJoin = some (2, joinTree 8 0) ∧ (s.stop 0).tree 9 8 = some (mentry 8 none []) ∧ s.live 8 0 = false) ∧
    (let s := stopAt 0 0 0 fun h => { h with treeIn := [(2, joinTree 8 (handleOf 0 8 63 1))], merge := [mentry 8 none []] }
     (s.stop 0).nextJoin = some (2, joinTree 8 (handleOf 0 8 63 1)) ∧ s.live 8 (handleOf 0 8 63 1) = true) ∧
    (let s := stopAt 0 0 0 fun h => { h with treeIn := [(2, joinTree 8 0)] }; (s.stop 0).nextJoin = some (2, joinTree 8 0) ∧ (s.stop 0).tree 9 8 = none ∧ (s.stop 0).merge.length < 16 ∧ (0 : Nat) ≠ 8) ∧
    (let s := stopAt 0 0 0 fun h => { h with treeIn := [(2, joinTree 0 (handleOf 0 0 63 1))] }; (s.stop 0).nextJoin.isSome = true ∧ s.live 0 (handleOf 0 0 63 1) = true) ∧
    (let s := stopAt 0 0 0 fun h => { h with treeIn := [(2, joinTree 0 (BitVec.ofNat 32 handle5))] }; (s.stop 0).nextJoin.isSome = true ∧ (3 : Nat) ≠ 0 ∧ s.live 0 (BitVec.ofNat 32 handle5) = false) ∧
    (let s := stopAt 0 0 0 fun h => { h with treeIn := [(2, joinTree 8 0)], merge := List.replicate 16 (mentry 5 none []) }
     (s.stop 0).nextJoin.isSome = true ∧ (s.stop 0).tree 9 8 = none ∧ 16 ≤ (s.stop 0).merge.length) ∧
    (let k := packet0 (.mergeJoin 3 9 8 0 0 true none 0 Config.tiles); let s := stopAt 0 0 0 fun h => { h with treeIn := [(2, k)], merge := [mentry 8 none []] }
     (s.stop 0).nextJoin = some (2, k) ∧ 0 ≠ Config.tiles ∧ (s.stop 0).tree 9 8 = some (mentry 8 none [])) := by decide +kernel

/-- A layer of one token and one expert of chain 0: capacity 1, k = 1, with its replica in pond 0 or in any. -/
def block1 : Nat := 1 * 2 ^ 544 + 3 * 2 ^ 521 + 5 * 2 ^ 592 + 9 * 2 ^ 580 + handle5 * 2 ^ 608 + (2 ^ 30) * 2 ^ 704 + 0x2000 * 2 ^ 768 + (2 ^ 30 + 8192) * 2 ^ 896
def group1 (slot : Option Nat) (gather : Nat) : Group :=
  { e := 0, i := 0, toks := [0], slot := slot, fresh := false, gather := gather, went := 0, installAt := none, blocks := 1, nextBlock := 0, again := [], sent := [], done := 0, installed := [], filled := false }
def layer1 (phase : LayerPhase) (pond : Nat) (gs : List Group) : Layer :=
  { block := block1, inst := 9, phase := phase, from_ := 0, xent := (ten1 (2 ^ 30)).toNat, n := 1, nextTok := 0, reps := [(0, (1, [pond]))], slots := [(0, [⟨0, 0, 0x3f800000, false, true⟩])], groups := gs,
    fenced := [], rowQ := [], landed := 0, out := 0, status := 0, dispatches := 1, drops := 0 }
def chained (c : Chain) (b : Nat) (f : Tile → Tile) : State :=
  let s := at_ 0 b 0 0 0 (demoWith 0 f id)
  { s with chains := [(0, c)], tiles := s.tiles ++ if chainStop 0 = 0 then [] else [(chainStop 0, { Tile.reset with tlb := [page] })] }
def layers (l : Layer) (b : Nat) : State := chained { Chain.empty with layer := some l } b fun x => { x with weir := x.weir.setBasin 6 (some engine6) }
def blockQ (addr : Nat) : State := chained { Chain.empty with queue := [⟨addr, 0, 0, 0, 9⟩] } 0 id
def snap0 (image : Option Nat) (w : Nat) : SnapReq := ⟨2 ^ 30, [part0], 0, 0, 4, 0, image, w, 0⟩
def snapped (r : SnapReq) : State :=
  let s := owing (owed0 false [] [])
  { s with tiles := s.tiles ++ (if chainStop 0 = 0 then [] else [(chainStop 0, { Tile.reset with tlb := [page] })]), chains := [(0, { Chain.empty with snaps := [r] })] }
/-- Hypotheses of `MatrixAndExpertEvents`. -/
theorem witness_Chains :
    (errIs (((blockQ (2 ^ 57)).asks (chainStop 0) (2 ^ 57) 512).engineRead (chainStop 0) (2 ^ 57) 512) 5 = true) ∧ okQ (((blockQ (2 ^ 30)).asks (chainStop 0) (2 ^ 30) 512).engineRead (chainStop 0) (2 ^ 30) 512) = true ∧ lbReserved block1 = false ∧
    (let s := chained { Chain.empty with layer := some (layer1 .route 0 []), gates := [(9, listR 0)] } 0 id; (s.nextGate 0).map (·.2) = some (9, listR 0)) ∧
    -- a snapshot that is due, one whose writing goes on, one at its last bytes
    (let r := snap0 none 0; ({ Chain.empty with snaps := [r] } : Chain).snaps = [r] ∧ r.from_ ≤ (snapped r).tc ∧ r.image = none ∧ ((snapped r).chain 0).snapWrite = none ∧ ((snapped r).chain 0).snapOver = none) ∧
    (let r := snap0 (some 7) 63; ((snapped r).chain 0).snapOver = none ∧ ((snapped r).chain 0).snapWrite = some r) ∧
    (let r := snap0 (some 7) 65; (snapped r).chain 0 = { Chain.empty with snaps := [r] } ∧ ((snapped r).chain 0).snapWrite = none ∧ ((snapped r).chain 0).snapOver = some r ∧ ((snapped r).jet 0 0).findOwed 4 = some (owed0 false [] [])) ∧
    (layers (layer1 .product 0 [group1 none 3]) 0).gatherFailed 0 = true ∧
    (let s := (layers (layer1 .product 0 [group1 none 0]) 0).modTile (pondTile 0 0 0) fun x => { x with weir := x.weir.setBasin 7 (some { engine6 with engCopy := true }) }
     s.gatherFailed 0 = false ∧ (s.gatherNext 0).map (fun e => (e.2.1, e.2.2.2.1)) = some (0, pondTile 0 0 0)) := by decide +kernel
/-- Hypotheses of `MatrixAndExpertEvents`. -/
theorem witness_Placement :
    (let l := layer1 .product 0 [group1 none 2]; let s := layers l 0; s.focus.b ≠ 1 ∧ l.toInstall = none ∧ l.toPlace = some (0, group1 none 2) ∧ s.placeOf 0 l (group1 none 2) = .slot 0 false) ∧
    (let l := layer1 .product 31 [group1 none 0]; let s := { layers l 0 with dev := { Dev.reset with duty := 4 } }; l.toInstall = none ∧ l.toPlace = some (0, group1 none 0) ∧ s.placeOf 0 l (group1 none 0) = .ask) ∧
    (let l := layer1 .product 0 [group1 (some 0) 2]; let s := layers l 0; l.toInstall = some (0, group1 (some 0) 2) ∧ okQ ((s.asks (chainStop 0) (lbEtab block1) 128).engineRead (chainStop 0) (lbEtab block1) 128) = true) ∧
    entriesOk block1 (ten1 0).toNat (ten1 0).toNat 1 = true ∧ entriesOk block1 (ten1 0).toNat (ten1 0).toNat 2 = false ∧
    (let g := { group1 (some 0) 2 with installAt := some 0 }; let l := layer1 .product 0 [g]; let s := layers l 1
     s.focus.b = 1 ∧ ((s.enterAll 0).toSend 0).map (fun e => (e.1, e.2.2.1, e.2.2.2.1)) = some (0, 0, 0) ∧ (0, 0) ∈ s.toEnter 0 ∧ (∀ e ∈ s.toEnter 0, e.2 = 0 → e.1 = 0)) := by decide +kernel
def askedRow (s : State) (l : Layer) (tok off m : Nat) : State :=
  ((Tbl.get [] l.slots tok).filter fun x => !x.zero).foldl (fun (s : State) x => s.asks (chainStop 0) (l.yAddr x tok (off / 4)) m) s
/-- Hypotheses of `MatrixAndExpertEvents`. -/
theorem witness_Combine :
    (let l := layer1 .product 0 [{ group1 (some 0) 2 with sent := [(7, 0)] }]; l.status = 0 ∧ ∃ g ∈ l.groups, ∃ b ∈ g.sent, b.1 = 7) ∧
    (let l := { layer1 .product 0 [{ group1 (some 0) 2 with filled := true }] with rowQ := [(0, 0)] }; let s := layers l 1
     s.focus.b ≠ 0 ∧ l.rowQ = [(0, 0)] ∧ (lbObuf l.block + 4 * l.n * 0 + 0) % 2 ^ 64 = 2 ^ 30 + 8192 ∧
       (match (askedRow s l 0 0 4).combineRun 0 l 0 0 1 with | .ok (_, s1) => okQ (s1.partsOf (chainStop 0) .write .page true (2 ^ 30 + 8192) 4) | .error _ => false) = true) ∧
    -- a row whose values are at an address that no table maps
    (let l := { layer1 .product 0 [{ group1 (some 0) 2 with filled := true }] with rowQ := [(0, 0)], block := block1 + (2 ^ 57) * 2 ^ 832 }; let s := layers l 1
     (match (askedRow s l 0 0 4).combineRun 0 l 0 0 1 with | .ok _ => false | .error _ => true) = true) ∧
    lbDone block1 ≠ 0 := by decide +kernel

/-! ### Hypotheses that are met: host, units, the machine -/

def withDev (g : Dev → Dev) (s : State) : State := { s with dev := g s.dev }
def hostAt (a b c d data : Nat) (g : Dev → Dev) : State := withDev g (at_ a b c d data (demo 0))
def test1 (units : List Nat) (kind : Nat) : SelfTest := ⟨5, 0, kind, units, false, false, 0, some 4, 0⟩
def inval0 : Inval := ⟨0, 0, 4, [(0, 30)], [], [], [], []⟩
/-- Hypotheses of `HostAndUnitEvents`. -/
theorem witness_Units :
    (let s := hostAt 0 7 0 1 99 id; s.focus.b = 7 ∧ s.focus.d = 1) ∧
    (let s := hostAt 0 0 0 1 3 id; s.focus.b = 0 ∧ s.focus.d = 1 ∧ (s.jet 0 0).status ≠ .free ∧ 8 * (s.jet 0 0).granBase ≤ s.focus.data ∧ s.focus.data < 8 * ((s.jet 0 0).granBase + (s.jet 0 0).grans)) ∧
    (let s := hostAt 0 1 0 1 (16 * 5 + 3) id; s.focus.b = 1 ∧ s.focus.d = 1 ∧ s.focus.data / 16 = 5) ∧
    (let s := hostAt 0 10 3 0 0 id; s.focus.b = 10 ∧ s.focus.d ≠ 1 ∧ s.focus.c < 5 ∧ s.dev.duty.getLsbD 3 = false) ∧ (let s := hostAt 0 2 3 1 99 id; s.focus.b = 2 ∧ s.focus.b < 7 ∧ s.dev.duty.getLsbD 3 = false) ∧
    (let s := hostAt 0 6 3 0 0 fun d => { d with duty := 8 }; s.focus.b < 7 ∧ s.dev.duty.getLsbD 3 = true ∧ s.dev.released = true ∧ s.dev.jwait.length < 256) ∧
    (let s := hostAt 0 5 0 0 0 fun d => { d with selftests := [test1 [15] 0] }; s.dev.selftests.find? (fun r => r.id == s.focus.b) = some (test1 [15] 0) ∧ s.unitBusy 0 0 15 = false) ∧
    (let s := hostAt 0 5 0 0 0 fun d => { d with selftests := [test1 [0] 0] }; s.dev.selftests.find? (fun r => r.id == s.focus.b) = some (test1 [0] 0) ∧ s.unitBusy 0 0 0 = true) ∧
    (let s := withDev (fun d => { d with tlbinvs := [inval0] }) (at_ 0 0 4 0 0 (demo 0)); s.dev.tlbinvs.find? (fun r => r.tile == 0 && r.owedId == s.focus.c) = some inval0 ∧ s.invalDone inval0 = true) ∧
    (let s := withDev (fun d => { d with tlbinvs := [inval0] }) (at_ 0 0 4 0 0 (accessing { acc0 .store [] with parts := [{ part0 with performed := false }] } id)); s.invalDone inval0 = false) ∧
    (demoWith 0 (fun x => { x with wayPend := some ⟨3, 1, 0, 4⟩ }) id).here.wayPend = some ⟨3, 1, 0, 4⟩ ∧ ((0 : BitVec 16) ||| 1 ≠ 3) ∧ ((2 : BitVec 16) ||| 1 = 3) := by decide +kernel
def entry5 : BitVec 64 := BitVec.ofNat 64 (handle5 + 2 * 2 ^ 48 + 2 ^ 50)
/-- Hypotheses of `HostAndUnitEvents`. -/
theorem witness_Windows :
    (let s := hostAt 0 64 0 0 77 fun d => { d with hbtab := [(0, entry5)] }
     s.focus.b = 64 ∧ s.focus.a % 64 = 0 ∧ s.focus.a < 2 ^ 18 ∧ fld (Tbl.get 0 s.dev.hbtab 0).toNat 50 1 = 1 ∧ fld (Tbl.get 0 s.dev.hbtab 0).toNat 48 2 ≠ 3 ∧ s.dev.released = true ∧ s.dev.duty.getLsbD 5 = false ∧
       (s.here.queueOf 5).isSome = false) ∧
    ((queued 0 id).here.queueOf 5).isSome = true ∧ ¬ ((64 : Nat) = 64 ∧ 32 % 64 = 0) ∧
    (let s := hostAt 0 64 1 0 77 id; 0 < s.focus.b ∧ s.focus.a % 64 + s.focus.b ≤ 64 ∧ s.focus.a < regBase ∧ s.windowPa (s.dev.winbase.toNat + s.focus.a) = true ∧ (s.stop (homeOf 0)).dirOf 0 = none ∧ s.focus.c = 1) ∧
    (let s := hostAt regBase 8 0 0 0 id; regBase ≤ s.focus.a ∧ s.focus.a + s.focus.b ≤ 2 ^ 36 ∧ s.focus.c ≠ 1) ∧ ¬ (33 % 64 + 32 ≤ 64) ∧
    (let s := hostAt 2 8 1 0 0 id; s.focus.c = 1 ∧ s.focus.a ≠ 4) ∧ (let s := hostAt 4 8 1 0 0 id; s.focus.c = 1 ∧ s.focus.a = 4) ∧ ((0 : BitVec 64).getLsbD 4 = false ∧ (16 : BitVec 64).getLsbD 4 = true) ∧
    (let s := hostAt 0x38 8 0 0 1 id; s.focus.a = 0x38 ∧ s.focus.b = 8) ∧ (0x100 + 8 * 63 = 0x2f8) ∧ (let s := hostAt 0x18 8 0 0 30 fun d => { d with released := false }; s.focus.a ∈ [0x00, 0x10, 0x18] ∧ s.dev.released = false) := by
  decide +kernel
def jrec0 : JRec := ⟨1, 2, 3, 4, 5, 6⟩
def fault0 (cause : Nat) : SendMsg := { msg0 .data (.tile 7) (cause * 2 ^ 80 + 7 * 2 ^ 118 + handle5 * 2 ^ 160 + 2 ^ 35 * 2 ^ 448) 0 with handle := handleOf 0 0 62 0 }
def faulting (cause : Nat) (g : Dev → Dev) : State := hostAt 0 0 0 0 0 fun d => g { d with pfIn := [fault0 cause] }
def granted0 (pool : Nat × Nat) (d : Dev) : Dev := { d with ranges := [(0, some (2 ^ 35, 2 ^ 20, 0, 7))], framePool := pool, ptroot := BitVec.ofNat 64 (2 ^ 20) }
def mapped (s : State) : Option Unit :=
  (({ s with dev := { s.dev with pfIn := s.dev.pfIn.tail } } : State).mapFrom (2 ^ 35) (7 * 4 + 3) ptLevels s.dev.ptroot.toNat).map fun _ => ()
/-- Hypotheses of `HostAndUnitEvents`. -/
theorem witness_Agent :
    (let s := hostAt 0 0 0 0 0 fun d => { d with jwait := [jrec0] }; s.dev.jwait = [jrec0] ∧ s.dev.jfull = false ∧ (s.stop (homeOf 0)).dirOf 0 = none) ∧
    ({ Dev.reset with jhead := 1023 } : Dev).jfull = true ∧
    (let s := faulting 5 fun d => { d with duty := 1 }; s.dev.duty.getLsbD 0 = true ∧ s.dev.released = true ∧ s.dev.jwait.length < 256 ∧ s.dev.pfIn = [fault0 5]) ∧
    (let s := faulting 6 id; s.dev.duty.getLsbD 0 = false ∧ fld (fault0 6).payload 80 8 ≠ 5) ∧ (let s := faulting 5 id; fld (fault0 5).payload 80 8 = 5 ∧ s.dev.rangeOf (2 ^ 35) = none) ∧
    (let s := faulting 5 (granted0 (0, 0)); s.dev.rangeOf (2 ^ 35) = some (0, 7) ∧ mapped s = none) ∧ (let s := { faulting 5 (granted0 (0, 0)) with mem := [(2 ^ 20, 1), (2 ^ 20 + 2, 0x10), (2 ^ 20 + 256, 3)] }; (mapped s).isSome = true) ∧
    ({ Dev.reset with pfOut := [⟨5, 2 ^ 35, 0, 9⟩] } : Dev).pfOut = [⟨5, 2 ^ 35, 0, 9⟩] ∧
    (let s := hostAt 0 0 0 0 1000001 id; s.dev.duty.getLsbD 4 = false ∧ s.dev.ptpLocked = false ∧ s.dev.time + 1000000 < s.focus.data ∧ s.focus.data < 2 ^ 64) ∧
    (let s := hostAt 0 0 0 0 1000000 id; s.focus.data ≤ s.dev.time + 1000000 ∧ sext s.focus.data 64 ≤ 1000000) ∧
    fld Die.reset.netctl.toNat 6 1 = 0 ∧ fld ({ Die.reset with netctl := 0x1000C0400841 } : Die).netctl.toNat 6 1 = 1 ∧ (3 : BitVec 64).getLsbD 1 = true := by decide +kernel
def boxed (m : Nat) (g : Dev → Dev) : State := hostAt 0 0 0 0 0 fun d => g { d with mbox := BitVec.ofNat 512 m }
/-- Hypotheses of `HostAndUnitEvents`. -/
theorem witness_Mailbox :
    mbByte (boxed (2 ^ 496) id).mb 62 ≠ 0 ∧
    (let s := boxed 1 id; mbZero s.mb [] = true ∧ s.dev.released = true) ∧ (let s := boxed 1 fun d => { d with released := false }; mbZero s.mb [] = true ∧ s.dev.released = false) ∧
    (∀ v ∈ [0, 1], let m := (boxed (2 + 3 * 2 ^ 8 + v * 2 ^ 16 + 0x1000000000000 * v * 2 ^ 64) id).mb; mbZero m [(1, 2), (8, 8)] = true ∧ mbByte m 1 < 4 ∧ mbByte m 2 = v) ∧
    (let s := boxed (3 + 2 ^ 8 + 1023 * 2 ^ 32 + 12 * 2 ^ 48) id; mbZero s.mb [(1, 2), (4, 3)] = true ∧ mbByte s.mb 1 = 1 ∧ mbByte s.mb 2 = 0 ∧ mbField s.mb 4 2 < 1024 ∧ mbByte s.mb 6 < 13 ∧
      Tbl.get 0 (s.stop 1023).counters 12 < 2 ^ 64) ∧
    (let s := boxed (4 + 3 * 2 ^ 8 + 1023 * 2 ^ 32) id; mbZero s.mb [(1, 1), (4, 2)] = true ∧ mbByte s.mb 1 < 4 ∧ dieOf (mbField s.mb 4 2) = mbByte s.mb 1) ∧
    (let s := boxed (5 + 3 * 2 ^ 8 + 4095 * 2 ^ 32 + 2 ^ 48) fun d => { d with duty := 2 }; mbZero s.mb [(1, 1), (4, 4)] = true ∧ mbByte s.mb 1 < 4 ∧ mbField s.mb 4 2 + mbField s.mb 6 2 ≤ 4096 ∧ s.dev.duty.getLsbD 1 = true) ∧
    (let s := boxed (6 + 1023 * 2 ^ 32 + 6 * 2 ^ 48 + 8 * 2 ^ 56) id; mbZero s.mb [(4, 4)] = true ∧ mbField s.mb 4 2 < 1024 ∧ mbByte s.mb 6 < 7 ∧ mbByte s.mb 7 ≠ 255 ∧ unitCount (mbByte s.mb 6) ≤ mbByte s.mb 7) ∧
    (let s := boxed (6 + 6 * 2 ^ 48 + 7 * 2 ^ 56) id; mbZero s.mb [(4, 4)] = true ∧ mbByte s.mb 7 < unitCount (mbByte s.mb 6)) ∧
    (let s := { boxed (7 + 3 * 2 ^ 8 + 2 ^ 16 + 15 * 2 ^ 24) fun d => { d with duty := 4 } with chains := [(7, { Chain.empty with waitEvict := true })] }
     mbZero s.mb [(1, 3)] = true ∧ mbByte s.mb 1 < 4 ∧ mbByte s.mb 2 < 2 ∧ mbByte s.mb 3 < 16 ∧ s.dev.duty.getLsbD 2 = true ∧ (s.chain 7).waitEvict = true) ∧
    (let s := boxed (8 + 2 ^ 30 * 2 ^ 320) id; mbZero s.mb [(8, 40)] = true ∧ s.windowPa (mbField s.mb 40 8) = true ∧ s.windowPa (mbField s.mb 40 8 + 4095) = true ∧ mbField s.mb 40 8 < 2 ^ 48 ∧ s.dev.leaf < 2 ^ 20) ∧
    2 ^ 20 ≤ ({ Dev.reset with leaf := 2 ^ 20 } : Dev).leaf ∧
    (let s := boxed (9 + 2 ^ 30 * 2 ^ 64 + 65536 * 2 ^ 128) id; mbZero s.mb [(8, 16)] = true ∧ mbField s.mb 8 8 % 65536 = 0 ∧ mbField s.mb 16 8 % 65536 = 0 ∧ s.hbmRange (mbField s.mb 8 8) (mbField s.mb 16 8) = true) ∧
    (let s := boxed (10 + 2 ^ 30 * 2 ^ 64 + 65536 * 2 ^ 128 + 3 * 2 ^ 192 + 7 * 2 ^ 200 + 15 * 2 ^ 208) id
     mbZero s.mb [(8, 19)] = true ∧ mbField s.mb 8 8 % 65536 = 0 ∧ mbField s.mb 16 8 % 65536 = 0 ∧ mbByte s.mb 24 < 4 ∧ mbByte s.mb 25 < 8 ∧ mbByte s.mb 26 < 16) ∧
    ({ Dev.reset with powered := false } : Dev).powered = false ∧ Dev.reset.powered = true := by decide +kernel

/-- A line of the instruction cache at the jet's program counter. -/
def cached (v : Nat) : State := demoWith 5 (fun x => { x with icache := [⟨2 ^ 30 / 128, v⟩] }) id
theorem witness_StepRunsDecoded :
    (let s := cached 0xffffffffffff6000; s.turn = .jet 0 0 ∧ (s.jet 0 0).status = .running ∧ (s.jet 0 0).start = none ∧ (s.jet 0 0).pc.toNat % 4 = 0 ∧ (s.jet 0 0).pc.toNat % 32 ≠ 28 ∧
      ((s.tile 0).iline (s.jet 0 0).pc).map (fun l => decode (l.bytes (s.jet 0 0).pc (lenBytes (fld (l.bytes (s.jet 0 0).pc 2) 0 2)))) = some (.ok (.nop h0)) ∧ ((s.jet 0 0).casc == .none) = true) ∧
    (let s := { demo 0 with turn := .forward 0 0 (.nop h0) 0x40000008 0 }; s.turn = .forward 0 0 (.nop h0) 0x40000008 0 ∧ (s.jet 0 0).status = .running ∧ (s.jet 0 0).casc = .none) ∧
    ((cached 0xffffffffffff7fc0).here.iline jet0.pc).map (fun l => !okQ (decode (l.bytes jet0.pc (lenBytes (fld (l.bytes jet0.pc 2) 0 2))))) = some true ∧ (demo 0).here.iline jet0.pc = none ∧
    (let j : Jet := { jet0 with pc := 0x40000014 }; j.pc.toNat % 32 ≠ 28 ∧ 32 < j.pc.toNat % 32 + 16) ∧ ({ jet0 with pc := 0x40000002 } : Jet).pc.toNat % 4 ≠ 0 ∧
    decodeTableWord 64 0x00870007040701c8 = some (.mulS ⟨false, 2⟩ ⟨n 64 7, n 0 7, n 8 7⟩) ∧ 64 = 8 * lenBytes (fld 0x00870007040701c8 0 2) := by decide +kernel
theorem witness_RoundTrip : (Instr.mulS ⟨true, 7⟩ ⟨n 4087 7, n 0 7, n 8 7⟩).encoded = true ∧ (Instr.mulS ⟨true, 7⟩ ⟨n 4087 7, n 0 7, n 8 7⟩).wf = true ∧ (Instr.nestMov h0 (nestF [1023] (.pool 0) (.pool 64) none)).wf = true := by
  decide
theorem witness_NeverStops : State.reset.turnOk = true ∧ (demo 0).turnOk = true := by decide

/-! ### Hypotheses that are met: further clauses -/

/-- Hypotheses of `IssueEvents` and `ResidencyEvents`. -/
theorem witness_LineAndContext :
    okP ((demo 0).fetchPart 0 0x800000) = true ∧ (let s := at_ 0 0x800000 5 1 77 (demo 0); s.focus.d = 1 ∧ s.focus.c ≠ 0) ∧
    (let v := { savedCtx false with slot := 0 }; let s := at_ 0 2 0 1 3 (demoWith 0 (fun x => { x with saves := [(2, some v)] }) id)
     (s.tile 0).save 2 = some v ∧ s.focus.d ≠ 0 ∧ v.saved = false ∧ s.focus.data + 1 < frameWrites ((s.tile 0).jet v.slot).grans ∧
       frameWrites ((s.tile 0).jet v.slot).grans ≤ 7 + 1) := by decide +kernel
/-- Hypotheses of `ResultsArrive` and `MemoryEvents`. -/
theorem witness_Returns :
    (∀ op ∈ [AccOp.load true, .agg [3, 4]], let a := acc0 op [(0, 8)]
     a.parts = [part0] ∧ a.cause = 0 ∧ a.op = op) ∧
    (let s := at_ 0 30 0 0 5 (accessing (acc0 (.agg [3, 4]) [(0, 8), (8, 8)]) id); s.focus.d = 0 ∧ (s.tile 0).access 30 = some (acc0 (.agg [3, 4]) [(0, 8), (8, 8)]) ∧ (s.tile 0).slotOf 7 = some 0) ∧
    (let k := packet0 (.read 3 (2 ^ 66 + 5) 0 (128 * 5) 128); let s := at_ 0 0 0 0 0 (withStop (fun h => { h with l2In := [k], l2Lines := [5] }) (demo 0))
     (s.stop 0).l2In = [k] ∧ k.sdev = s.dev.device.toNat ∧ (s.tile 3).access (2 ^ 66 + 5) = none ∧ 128 * 5 / 128 ∈ (s.stop 0).l2Lines ∧ s.poisoned (128 * 5) 128 = false ∧
       s.stops.all (fun e => e.2.dir.isEmpty) = true) ∧
    (demo 0).here.tables = [] := by decide +kernel
/-- Hypotheses of `AccessEnters`: a part that nothing holds back, one that waits for an older access of its jet to the same byte, and one whose line is being written. -/
theorem witness_PartsTried :
    (let p := { part0 with sent := false, performed := false, acked := false }
     let a := { acc0 (.load false) [(0, 8)] with parts := [p] }
     let s := accessing a id
     s.here.acc = [a] ∧ a.stage = 2 ∧ a.gather = [] ∧ p.sent = false ∧ a.isStore = false ∧ s.holds 0 a p = false ∧ p.path = .cached ∧ s.cacheWaits 0 a p = false ∧
       (s.modTile 0 fun x => { x with unacked := [(2 ^ 30 / 128, [3])] }).cacheWaits 0 a p = true) ∧
    (let p := { part0 with sent := false, performed := false, acked := false }
     let b := { acc0 .store [] with id := 29, parts := [{ p with path := .bypass }] }
     let a := { acc0 (.load false) [(0, 8)] with parts := [p] }
     let s := demoWith 0 (fun x => { x with acc := [b, a] }) id
     s.holds 0 a p = true ∧ s.here.access 30 = some a ∧ s.here.acc.Pairwise (fun a b => a.id < b.id)) ∧
    (let p := { part0 with sent := false, performed := false, acked := false, path := .pool, pool := 0, addr := 64 }
     let a := { acc0 (.load false) [(0, 8)] with parts := [p] }
     (accessing a id).holds 0 a p = false ∧ p.path = .pool) ∧
    (∀ r ∈ [Path.stash, .bypass], let p := { part0 with path := r }; (demo 0).here.wcLine (p.addr / 128) = false ∧ (demo 0).here.unackedLine (p.addr / 128) = false) := by decide +kernel
/-- Hypotheses of `FencesAndStash`: an owned line that is evicted and a poisoned word of it. -/
theorem witness_StashLines :
    (∀ l ∈ [{ stashLine with bad := [3] }], ∀ k ∈ l.bad, k < 16) ∧ stashLine.owned = true ∧ [stashLine].Pairwise (fun l m => l.pa ≠ m.pa) := by decide
/-- Hypotheses of `WeirEvents`: a report that goes back over Lauc port 2. -/
theorem witness_Reports :
    (let o := { out0 (handleOf 1 7 5 1) false false with m := { (out0 (handleOf 1 7 5 1) false false).m with via := some 2 } }; let s := weirAt 0 0 0 fun w => { w with outbound := [o] }
     (s.tile 0).releaseIx = some 0 ∧ (s.tile 0).weir.outbound[0]? = some o ∧ s.noSuch o.m = false ∧ hDev o.m.handle ≠ 0 ∧ o.m.via = some 2) := by decide
/-- Hypotheses of `WorkEvents`: a task comes to a deque of 32 with no place to spill, and with one. -/
theorem witness_FullDeque :
    (let s := workIn (.answer (some task1)) fun x => { x with deque := List.replicate 32 (dq task1) }
     (s.tile 0).workHead s.nc WorkMsg.isAnswer = some (90, .answer (some task1)) ∧ 32 ≤ (s.tile 0).deque.length ∧ (s.tile 0).spillArea.2 ≤ (s.tile 0).spilledTasks.length) ∧
    (let s := workIn (.answer (some task1)) fun x => { x with deque := List.replicate 32 (dq task1), dqspill := BitVec.ofNat 64 (2 ^ 20 * 4 + 32 * 128) }
     (s.tile 0).workHead s.nc WorkMsg.isAnswer = some (90, .answer (some task1)) ∧ (s.tile 0).spilledTasks.length < (s.tile 0).spillArea.2) ∧
    (let z : TtState := ⟨1, true, 9, false, true, 0⟩; (Tbl.get TtState.idle (ttAt 2 z 9).dev.ttState 3).husking = true) ∧
    (let z : TtState := ⟨1, true, 9, false, false, 0⟩; let s := ttAt 2 z 9; ttRule (Tbl.get 0 s.dev.tlt 3) = 2 ∧ ttInst (Tbl.get 0 s.dev.tlt 3) z.slot ∉ s.dev.husks) := by decide +kernel
/-- Hypotheses of `RegisterWrites`. -/
theorem witness_ReadOnly : lowest (n 0 15).ck = none ∧ (23 : BitVec 12).toNat ∈ [0, 1, 2, 10, 13, 16, 17, 18, 19, 20, 21, 22, 23] ∧ 24 ≤ (24 : BitVec 12).toNat ∧
    decode (encode (.csrw h0 (n 0 15) 0)) = .error 6 := by decide +kernel
/-- Hypotheses of `NetworkEvents`: a fault record at the paging endpoint, packets of two endpoints in a drain ring, a failed flit and a packet at a Lauc port. -/
theorem witness_Endpoints :
    (let m := { msg0 .data (.tile 7) 7 0 with handle := handleOf 0 0 62 0 }; let k := { packet0 (.send m) with dport := .mgmt }
     let s := stopAt 0 0 0 fun h => { h with inputs := [(0, [k])] }
     calm s = true ∧ s.entering 0 = none ∧ s.movable 0 = some (0, 4, 0) ∧ (s.stop 0).buf 0 = [k] ∧ s.dev.pfHeld = [] ∧ s.dev.pfNext = [] ∧ m.seq = m.base ∧ m.op = .data ∧ m.size = 64) ∧
    (let s := withDev (fun d => { d with lauc := [(0, { Lauc.empty with sent := [(7, sendPk 5)] })] }) (at_ (laucStop 0) 7 0 0 0 (demo 0))
     laucAt (laucStop 0) = some 0 ∧ s.focus.b = 7 ∧ (Tbl.get Lauc.empty s.dev.lauc 0).sent = [] ++ [(7, sendPk 5)]) := by decide +kernel
/-- Hypotheses of `MatrixAndExpertEvents`: the test that follows a residue mismatch, and a host-assisted one. -/
theorem witness_MatrixTests :
    (let s := running (run1 false 127 0) 1; s.focus.b = 1 ∧ 0 < (at_ 0 1 3 0 0 s).focus.c ∧ s.dev.released = true ∧ s.dev.duty.getLsbD 5 = false) ∧
    (let s := withDev (fun d => { d with duty := 8 }) (running (run1 false 127 0) 2); 2 ≤ s.focus.b ∧ s.dev.duty.getLsbD 3 = true) := by decide +kernel
/-- Hypotheses of `MatrixAndExpertEvents`: a tile that answers status 5. -/
theorem witness_FencedTile :
    (let l := layer1 .product 0 [{ group1 (some 0) 2 with sent := [(7, 0)] }]; let s := at_ 0 0 7 5 0 (layers l 0)
     s.focus.b = 0 ∧ s.focus.d = 5 ∧ l.status = 0 ∧ ∃ g ∈ l.groups, ∃ b ∈ g.sent, b.1 = s.focus.c) := by decide +kernel

/-- Hypotheses of `HostAndUnitEvents`: a stash way, units in use, another device's memory. -/
theorem witness_UnitForms :
    (let s := (hostAt 0 2 3 1 0 id).modTile 0 fun x => { x with poolways := 1, stash := [{ stashLine with va := 512 }] }
     s.focus.b = 2 ∧ s.focus.d = 1 ∧ (s.tile 0).poolways.getLsbD 0 = true ∧ s.focus.data < 8192 ∧ 512 % 512 = s.focus.data / 16) ∧
    (hostAt 0 2 3 1 8192 id).here.poolways.getLsbD (8192 / 8192) = false ∧
    (∀ u ∈ [0, 1], ((demo 0).modTile 0 fun x => { x with weir := (List.range 62).foldl (fun w k => w.setBasin k (some { Basin.plain 8 with slots := List.replicate 8 held0 })) x.weir }).unitBusy 0 6 u = true) ∧
    (let s := hostAt 64 8 1 0 0 fun d => { d with winbase := BitVec.ofNat 64 (3 * 2 ^ 42) }
     let pa := s.dev.winbase.toNat + s.focus.a
     s.windowPa pa = false ∧ paOk pa = true ∧ paIo pa = false ∧ paDev pa ≠ 0) := by decide +kernel
/-- Hypotheses of `HostAndUnitEvents`: each command's value that is out of range. -/
theorem witness_MailboxRanges :
    (∀ l ∈ [[], [(1, 2), (8, 8)], [(1, 2), (4, 3)], [(1, 1), (4, 4)], [(4, 4)], [(1, 3)], [(8, 40)], [(8, 16)], [(8, 19)]], mbZero (boxed (2 ^ 496) id).mb l = false) ∧
    4 ≤ mbByte (boxed (4 * 2 ^ 8) id).mb 1 ∧ 2 ≤ mbByte (boxed (2 * 2 ^ 16) id).mb 2 ∧ 4 ≤ mbByte (boxed (4 * 2 ^ 16) id).mb 2 ∧
    (let m := (boxed (2 ^ 16 + 4 * 2 ^ 32 + 5 * 2 ^ 48) id).mb; mbByte m 2 = 1 ∧ 4 ≤ mbByte m 4 ∧ 5 ≤ mbByte m 6) ∧
    (let m := (boxed (1024 * 2 ^ 32 + 13 * 2 ^ 48) id).mb; mbByte m 2 ≠ 1 ∧ 1024 ≤ mbField m 4 2 ∧ mbByte m 2 = 0 ∧ 13 ≤ mbByte m 6) ∧
    dieOf (mbField (boxed (3 * 2 ^ 8) id).mb 4 2) ≠ 3 ∧ 4096 < mbField (boxed (4096 * 2 ^ 32 + 2 ^ 48) id).mb 4 2 + mbField (boxed (4096 * 2 ^ 32 + 2 ^ 48) id).mb 6 2 ∧
    7 ≤ mbByte (boxed (7 * 2 ^ 48) id).mb 6 ∧ 16 ≤ mbByte (boxed (16 * 2 ^ 24) id).mb 3 ∧
    (let s := boxed ((2 ^ 46) * 2 ^ 320) id; s.windowPa (mbField s.mb 40 8) = false) ∧
    (let s := boxed ((2 ^ 46) * 2 ^ 64 + 2 ^ 16 * 2 ^ 128) id; s.hbmRange (mbField s.mb 8 8) (mbField s.mb 16 8) = false) ∧ mbField (boxed (2 ^ 64) id).mb 8 8 % 65536 ≠ 0 ∧
    mbField (boxed (2 ^ 128) id).mb 16 8 % 65536 ≠ 0 ∧ 4 ≤ mbByte (boxed (4 * 2 ^ 192) id).mb 24 ∧ 8 ≤ mbByte (boxed (8 * 2 ^ 200) id).mb 25 ∧ 16 ≤ mbByte (boxed (16 * 2 ^ 208) id).mb 26 := by
  decide +kernel
/-- Hypotheses of `HostAndUnitEvents`: power-on where the signature verifies and where it does not, and a duty of the host. -/
theorem witness_Power :
    (let s := hostAt 3 0 0 0 99 fun d => { d with powered := false }; s.dev.powered = false ∧ s.focus.b = 0) ∧ (hostAt 3 1 0 0 99 fun d => { d with powered := false }).focus.b ≠ 0 ∧
    (let s := hostAt 0 0 0 0 0 fun d => { d with duty := 64 }; s.dev.duty.getLsbD 6 = true) ∧ (hostAt 0 1 0 0 0 id).focus.b = 1 := by decide +kernel

/-- Hypotheses of `MergedLists` and `TokenRouting`: two scores of which neither is greater, entries of which no two have one rank; a choice with room, one that is held, one that is full,
with a candidate and with none. -/
theorem witness_ListsAndChoices :
    ((fpDec pF32 0).isNan = false ∧ (fpDec pF32 0x80000000).isNan = false ∧ (fpDec pF32 0).lt (fpDec pF32 0x80000000) = false ∧ (fpDec pF32 0x80000000).lt (fpDec pF32 0) = false) ∧
    (listEntries list1 ++ listEntries (list1 + 1 + 0x3f800000 * 2 ^ 16)).Pairwise (fun p q => rankLe p q = false ∨ rankLe q p = false) ∧
    (routing0.has 3 = false ∧ (ctrAt routing0.ctr 3).1 ≠ 1 ∧ (routing0.take [] 0 3 0x3f800000).has 3 = true) := by decide +kernel
/-- Hypotheses of `AtomicFunctions`: 1.0 and 0 stand for their numbers, and infinities and NaNs are what they are. -/
theorem witness_Numbers : (fpDec pF32 0x3f800000).Is 1 ∧ (fpDec pF32 0).Is 0 ∧ (fpDec pBf 0xbf80).Is (-1) ∧ fpDec pF32 0x7f800000 = .inf false ∧ (fpDec pF32 0x7f800001).isNan = true := by
  refine ⟨?_, ?_, ?_, by decide +kernel, by decide +kernel⟩
  · have h : fpDec pF32 0x3f800000 = .fin false 0x800000 (-23) := by decide +kernel
    rw [h]; norm_num [Fp.Is]
  · have h : fpDec pF32 0 = .fin false 0 (-149) := by decide +kernel
    rw [h]; norm_num [Fp.Is]
  · have h : fpDec pBf 0xbf80 = .fin true 0x80 (-7) := by decide +kernel
    rw [h]; norm_num [Fp.Is]

/-! ### Single steps, with the values of the spec's worked examples -/

/-- The slice writes of the results that an instruction owes after it, beat by beat, their mask writes, and their flags. -/
def owes (i : Instr) (s : State) : List (List (Nat × Nat × Nat)) := match exec i s with | .next t => t.cur.owed.flatMap fun o => o.w.map (·.sl) | _ => []
def owesMasks (i : Instr) (s : State) : List (List (Nat × Nat)) := match exec i s with | .next t => t.cur.owed.flatMap fun o => o.w.map fun w => w.masks.map fun m => (m.1, m.2.toNat) | _ => []
def owesFlags (i : Instr) (s : State) : BitVec 5 := match exec i s with | .next t => t.cur.owed.foldl (fun f o => o.flags.foldl (· ||| ·) f) 0 | _ => 0
def pcAfter (i : Instr) (s : State) : Nat := match exec i s with | .next t => t.cur.pc.toNat | _ => 0
/-- The value of slices `a` to `a + n - 1` among the results owed. -/
def owed_ (i : Instr) (s : State) (a k : Nat) : List Nat := (owes i s).flatMap fun b => (b.filter fun e => e.1 == a && e.2.1 == k).map fun e => e.2.2

-- chapter 4's worked example: n64.16 := 2 · tbl; n40.8; n44.8 across slices 47/48
theorem test_example_add : owed_ (.addZ h0 ⟨n 64 15, n 0 15, n 0 15⟩) (demo 0x123456789) 64 16 = [0x2468acf12] := by decide
theorem test_example_mov : owed_ (.movZ ⟨false, 1⟩ ⟨n 56 7, n 44 7⟩) (demo (0x00654421 * 2 ^ 160 + 0x100 * 2 ^ 192)) 56 8 = [0x01000065] := by decide
-- R72, R73: the sum and the product wrap at D's width, after the sources are extended
theorem test_add_wraps : owed_ (.addZ h0 q3) (demo (0xffffffff + 2 * 2 ^ 64)) 64 8 = [1] := by decide
theorem test_mulh_signed : owed_ (.mulhS h0 q3) (demo (0xffffffff + 2 * 2 ^ 64)) 64 8 = [0xffffffff] := by decide
-- R94: `br` from 0x40000000 by 32, and `loop` at 1 falls through behind its 12 bytes
theorem test_br : pcAfter (.br h0 0xffffffe0) (demo 0) = 0x3fffffe0 := by decide
theorem test_loop : pcAfter (.loop h0 (n 0 7) 32) (demo 1) = 0x4000000c ∧ pcAfter (.loop h0 (n 0 7) 32) (demo 2) = 0x40000020 := by decide

/-- Chapter 7's worked example: A at n0, B at n64, the products at n128. -/
def lanesOf (l : List Nat) : Nat := l.zipIdx.foldl (fun m e => m + e.1 * 2 ^ (32 * e.2)) 0
def exA : List Nat := [0x3f800000, 0x40000000, 0x40400000, 0x40800000, 0xbf800000, 0x3f000000, 0x41000000, 0x40200000]
def exB : List Nat := [0x40000000, 0x3f800000, 0x40800000, 0x40800000, 0x00000000, 0x3fc00000, 0x40000000, 0x40400000]
def exP : List Nat := [0x40000000, 0, 0x41400000, 0, 0x80000000, 0x3f400000, 0, 0x40f00000]
def viewAt (base : Nat) : BitVec 64 := BitVec.ofNat 64 (base + 7 * 2 ^ 14 + 7 * 2 ^ 18 + 8 * 2 ^ 26)
def example7 : State := demoWith (lanesOf exA + lanesOf exB * 2 ^ 256 + lanesOf exP * 2 ^ 512) id fun j =>
  { j with views := [(0, viewAt 0), (1, viewAt 64), (2, viewAt 128)], masks := [(1, 0xb5)] }
theorem test_example_fcmp : owesMasks (.fcmp h0 ⟨1, .view 0 0, .view 1 0, { fctl with subfn := 1 }⟩) example7 = [[(1, 0xb5)]] := by decide +kernel
theorem test_example_fmul :
    ((owes (.fmul h0 ⟨.view 2 0, .view 0 0, .view 1 0, { fctl with mmode := .zero, mask := 1 }⟩) example7).flatten.map (·.2.2)) = exP ∧
      owesFlags (.fmul h0 ⟨.view 2 0, .view 0 0, .view 1 0, { fctl with mmode := .zero, mask := 1 }⟩) example7 = 0 := by decide +kernel
theorem test_example_vred : owed_ (.vred h0 ⟨el 192 7, .view 2 0, .slice .nz, fctl⟩) example7 192 8 = [0x41b20000] := by decide +kernel
-- R111's example, and T[32] of R138
theorem test_bf16_tie : owed_ (.fcvtBf h0 ⟨el 64 3, el 0 7, .slice .nz, fctl⟩) (demo 0x3f808000) 64 4 = [0x3f80] ∧
    owesFlags (.fcvtBf h0 ⟨el 64 3, el 0 7, .slice .nz, fctl⟩) (demo 0x3f808000) ≠ 0 := by decide +kernel
theorem test_fexp2 : owed_ (.fexp2T h0 ⟨el 64 7, el 0 7, .slice .nz, fctl⟩) (demo 0x3f000000) 64 8 = [0x3fb504f3] := by decide +kernel
-- R14's example: CD2, row 6, column 5, device 0 is tile 613
theorem test_tile_613 : tileAt 2 6 5 = 613 ∧ poolOf 0 0 0x10026500000 = some (0, 613, 0) := by decide
-- R350: `trap` suspends its jet behind itself
theorem test_trap : (match exec (.trap h0 .nz 7) (demo 0) with | .next t => ((t.jet 0 0).status, (t.jet 0 0).pc.toNat) | _ => (.free, 0)) = (.suspended, 0x40000008) := by decide +kernel
-- the first instruction after reset: `mul.s n64.8, n0.8, n8.8 stall 2` as R43 encodes it, and `exit`
theorem test_first_step : (match step (State.reset.withFetchWord 64 0x00870007040701c8) with | .next t => (t.jet 0 0).owed.map (·.dst) | _ => []) = [[(64, 8)]] := by decide +kernel
theorem test_first_exit : (match step (State.reset.withFetchWord 64 0xffffffffffff62c0) with | .next t => (t.jet 0 0).status == .free | _ => false) = true := by decide +kernel
-- R285: a lap of the acorn over its 1,024 stops takes 1,536 network cycles; R17, R282: at CD0 (15,15), the exit stop for both other dies, a diagonal packet has both ports
theorem test_lap : ((List.range 1024).foldl (fun (e : Nat × Nat) _ => ((acornNext e.1).1, e.2 + (acornNext e.1).2)) (0, 0)) = (0, 1536) := by decide +kernel
theorem test_corner : toward (tileAt 0 15 15) (tileAt 3 15 15) = [5, 6] := by decide +kernel

end Sys2Proof.Tests
end

section
/-!
SUPPORT and PROOFS. What a branch leaves behind it, what a decoded word says of its row, and O11 of these.
-/

namespace Sys2Proof

/-! ### Reading a word back from the decoder -/

/-- No sub-code is raised just where no check is violated (R42). -/
theorem lowest_eq_none_iff (l : Chk) : lowest l = none ↔ ∀ e ∈ l, e.1 = false := by
  induction l with
  | nil => simp [lowest]
  | cons e r ih => cases h : e.1 <;> simp [lowest, h, ih]

/-- What a decoded word says: it is read by its opcode's row, and violates neither that row's checks nor its instruction's (R42). -/
theorem decode_ok_row {w : Nat} {i : Instr} {r : Row} (hr : opRow (fld w 6 10) = some r) (h : decode w = .ok i) :
    i = r.read w ∧ (∀ e ∈ r.bad w, e.1 = false) ∧ ∀ e ∈ i.checks, e.1 = false := by
  simp only [decode, hr] at h
  split at h
  · split at h
    · cases h
    · next hl =>
      obtain rfl := Except.ok.inj h
      rw [lowest_eq_none_iff] at hl
      exact ⟨rfl, fun e he => hl e (List.mem_append_left _ he), fun e he => hl e (List.mem_append_right _ he)⟩
  · cases h

/-- A field that must be unused is all ones where its check passes (R33). -/
@[simp] theorem unused_passes (n : Nat) : (∀ e ∈ unused n, e.1 = false) ↔ n = 0xffff := by simp [unused]

/-- A field that must be zero is zero where its check passes (R33). -/
@[simp] theorem zeroes_passes (n : Nat) : (∀ e ∈ zeroes n, e.1 = false) ↔ n = 0 := by simp [zeroes]

/-- A field is zero where its low and its high part are. -/
theorem fld_eq_zero_of_parts {w lo m n : Nat} (hl : fld w lo m = 0) (hh : fld w (lo + m) n = 0) : fld w lo (m + n) = 0 := by
  simp only [fld, Nat.pow_add] at *
  rw [← Nat.div_div_eq_div_mul] at hh
  rw [Nat.mod_mul, hl, hh, Nat.mul_zero]

/-- A word of `nop` has no operand (R44). -/
theorem decode_nop {w : Nat} {i : Instr} (h : decode w = .ok i) (hop : fld w 6 10 = 0x180) :
    i = .nop (hdrOf w) ∧ fD w = 0xffff ∧ fA w = 0xffff ∧ fB w = 0xffff := by
  obtain ⟨hi, hbad, -⟩ := decode_ok_row (r := rA0 .nop) (by rw [hop]; rfl) h
  simp only [rA0, List.forall_mem_append, unused_passes] at hi hbad
  obtain ⟨⟨hd, ha⟩, hb⟩ := hbad
  exact ⟨hi, hd, ha, hb⟩

/-- A word of `nop.w` has no operand, and zeros from bit 48 on (R44). -/
theorem decode_nopW {w : Nat} {i : Instr} (h : decode w = .ok i) (hop : fld w 6 10 = 0x181) :
    i = .nopW (hdrOf w) ∧ fD w = 0xffff ∧ fA w = 0xffff ∧ fld w 48 48 = 0 := by
  obtain ⟨hi, hbad, -⟩ := decode_ok_row (r := rIn .nopW) (by rw [hop]; rfl) h
  simp only [rIn, iRes, fI32, List.forall_mem_append, unused_passes, zeroes_passes] at hi hbad
  obtain ⟨⟨⟨hres, hd⟩, ha⟩, himm⟩ := hbad
  exact ⟨hi, hd, ha, fld_eq_zero_of_parts hres himm⟩

end Sys2Proof

namespace Sys2Proof.Machine

/-! ### What a branch leaves behind it -/

/-- A new state whose issuing jet has jumped, and which has no other change but what is owed and to come. -/
theorem Jumped.of_tiles {s u : State} {h : Hdr} {target : BitVec 64} {os : List Owed} {es : List (Nat × Focus × Instr)}
    (hu : u = ({ s with agenda := withEvents s.agenda es, nextId := u.nextId, tiles := s.tilesWith id (s.cur.jumped h target s.tc os) } : State)) :
    Jumped s u h target os es := by
  obtain ⟨hframe, hjet⟩ := JetFrame.of_tiles (u := u) (g := id) (j := s.cur.jumped h target s.tc os) (fun _ => rfl) (by rw [hu])
  exact ⟨hframe, hjet, by rw [hu]⟩

/-- A jet that takes a branch owes nothing for it. -/
theorem State.goto_jumped (s : State) (h : Hdr) (target : BitVec 64) : Jumped s (s.goto h target) h target [] [] := by
  refine Jumped.of_tiles ?_
  simp [State.goto, State.modCur_tiles, State.tilesWith, Jet.branched, Jet.jumped, withEvents]

/-- A jet that takes a branch and owes its D a result of fixed latency. -/
theorem State.owe_goto_jumped (s : State) (h : Hdr) (target : BitVec 64) (lat : Nat) (w : Write) (fl : BitVec 5) :
    Jumped s ((s.owe lat w fl).goto h target) h target [s.fixedOwed lat w fl] [s.evt lat .resultWriteback 0 0] := by
  refine Jumped.of_tiles ?_
  simp [State.tilesWith, State.goto, State.owe, State.modCur_tiles, State.tile, State.here, State.cur_eq, Jet.branched, Jet.jumped, withEvents,
    State.evt, State.fixedOwed, State.after, State.at_, State.tc]

/-- A conditional branch goes to the relative target where it is taken, and otherwise behind its 12 bytes (R94). -/
theorem State.branchIf_jumped {i : Instr} {s : State} {h : Hdr} {imm : BitVec 32} (take : Bool)
    (he : exec i s = s.branchIf h (footOf i s) take imm) : s.admits i = true →
    ∃ t, exec i s = .next t ∧ Jumped s t h (if take then s.cur.pc + imm.signExtend 64 else nextPc s.cur.pc 12) [] [] :=
  State.completes he (s.goto_jumped h _)

/-- A no-operation of `len` bytes goes on behind itself. -/
theorem State.advance_issued_id (s : State) (h : Hdr) (len : Nat) : Issued s (s.advance h len) h len id [] [] :=
  Issued.of_tiles (fun _ => rfl) <| by
    simp [State.tilesWith, State.advance, State.modCur_tiles, Jet.stepped, Jet.behind, withEvents]

/-- `loop` has one source, its counter, whose crossing of a granule is all that delays the result (R66, R94). -/
theorem footLoop_latency (d : SliceOp) : (footLoop d).latency = 1 + b2n d.crosses := by
  simp [footLoop, footS, Foot.latency]

/-- `loop` owes its counter less one, and goes back unless that is 0 (R94). -/
theorem State.loop_jumped (s : State) (h : Hdr) (d : SliceOp) (imm : BitVec 32) :
    let c := trunc ((d.get s.cur.frame : Int) - 1) (4 * d.width)
    s.admits (.loop h d imm) = true → ∃ t, exec (.loop h d imm) s = .next t ∧
      Jumped s t h (if c = 0 then nextPc s.cur.pc 12 else s.cur.pc + imm.signExtend 64)
        [s.fixedOwed (1 + b2n d.crosses) (d.put c) 0] [s.evt (1 + b2n d.crosses) .resultWriteback 0 0] := by
  intro c
  have htarget : (if c = 0 then nextPc s.cur.pc 12 else s.cur.pc + imm.signExtend 64) =
      if c != 0 then relTarget s.cur.pc imm else nextPc s.cur.pc 12 := by simp [relTarget]
  rw [htarget, ← footLoop_latency]
  exact State.completes (k := fun s =>
    let c := trunc ((d.get s.cur.frame : Int) - 1) (4 * d.width)
    (s.owe (footLoop d).latency (d.put c) 0).goto h (if c != 0 then relTarget s.cur.pc imm else nextPc s.cur.pc 12)) rfl
    (s.owe_goto_jumped h _ _ _ 0)

/-- Settles O11: every instruction of control flow is its checks followed by a branch, by a result owed and a branch, or by going on, and a word of
a no-operation is what its row's checks leave of it. -/
theorem controlFlow : Obligations.ControlFlow := by
  intro h a b d m imm s
  refine ⟨?br, ?bz, ?bnz, ?bmany, ?bmnone, ?ret, ?brx, ?call, ?loop, ?nop, ?nopW, by decide, by decide, fun _ _ => decode_nop, fun _ _ => decode_nopW⟩
  case br => exact State.branchIf_jumped true rfl
  case bz => simpa using State.branchIf_jumped (i := .bz h a imm) (a.get s.cur.frame == 0) rfl
  case bnz => simpa using State.branchIf_jumped (i := .bnz h a imm) (a.get s.cur.frame != 0) rfl
  case bmany => simpa using State.branchIf_jumped (i := .bmany h m imm) (s.cur.mask m.toNat != 0) rfl
  case bmnone => simpa using State.branchIf_jumped (i := .bmnone h m imm) (s.cur.mask m.toNat == 0) rfl
  case ret => exact State.completes (k := fun s => s.goto h (BitVec.ofNat 64 (a.get s.cur.frame))) rfl (s.goto_jumped h _)
  case brx =>
    exact State.completes (k := fun s => s.goto h (BitVec.ofNat 64 (a.get s.cur.frame + 32 * b.get s.cur.frame))) rfl (s.goto_jumped h _)
  case call =>
    exact State.completes (k := fun s => (s.owe 1 (d.put (nextPc s.cur.pc 12).toNat) 0).goto h (relTarget s.cur.pc imm)) rfl
      (s.owe_goto_jumped h _ 1 _ 0)
  case loop => exact s.loop_jumped h d imm
  case nop => exact State.completes (k := fun s => s.advance h 8) rfl (s.advance_issued_id h 8)
  case nopW => exact State.completes (k := fun s => s.advance h 12) rfl (s.advance_issued_id h 12)

end Sys2Proof.Machine
end

section
/-!
SUPPORT and PROOFS. An instruction that changes its own jet alone, a value cut to its destination, a slice field that encodes back to itself, and O5
of these.
-/

namespace Sys2Proof

/-! ### Fields and operands -/

/-- A field of `n` bits is below `2 ^ n`. -/
theorem fld_lt (w lo n : Nat) : fld w lo n < 2 ^ n := Nat.mod_lt _ (Nat.two_pow_pos n)

/-- What stands in a field above its low `k` bits is the field that begins there. -/
theorem fld_div_two_pow (w lo k n : Nat) : fld w lo (k + n) / 2 ^ k = fld w (lo + k) n := by
  simp only [fld, Nat.pow_add, Nat.mod_mul_right_div_self, Nat.div_div_eq_div_mul]

/-- The low `k` bits of a field are all that a register number of `k` bits takes of it. -/
theorem ofNat_fld (w lo k n : Nat) : BitVec.ofNat k (fld w lo (k + n)) = BitVec.ofNat k (fld w lo k) := by
  apply BitVec.eq_of_toNat_eq
  simp only [BitVec.toNat_ofNat, fld, Nat.pow_add, Nat.mod_mul_right_mod, Nat.mod_mod]

/-- A slice field of 16 bits is encoded as it was decoded (R31). -/
theorem SliceOp.enc_dec {n : Nat} (hn : n < 2 ^ 16) : (SliceOp.dec n).enc = n := by
  unfold SliceOp.dec
  split
  · next h => exact h.symm
  · simp only [SliceOp.enc, BitVec.toNat_ofNat]
    omega

/-- A natural number is cut to `n` bits by its remainder (R9). -/
theorem trunc_natCast (v n : Nat) : trunc (v : Int) n = v % 2 ^ n := by
  rw [trunc, ← Int.natCast_emod, Int.toNat_natCast]

/-- A word of `vwrd` names D and the view of its low four bits, A is unused, and zeros follow the view (R80). -/
theorem decode_vwrd {w : Nat} {i : Instr} (h : decode w = .ok i) (hop : fld w 6 10 = 0x091) :
    i = .vwrd (hdrOf w) (oD w) (BitVec.ofNat 4 (fld w 48 4)) ∧ (oD w).enc = fD w ∧ fA w = 0xffff ∧ fld w 52 12 = 0 := by
  obtain ⟨hi, hbad, -⟩ := decode_ok_row (r := rBD 4 .vwrd) (by rw [hop]; rfl) h
  simp only [rBD, fI16, List.forall_mem_append, unused_passes, zeroes_passes] at hi hbad
  obtain ⟨hzero, ha⟩ := hbad
  rw [ofNat_fld w 48 4 12] at hi
  rw [fld_div_two_pow w 48 4 12] at hzero
  exact ⟨hi, SliceOp.enc_dec (fld_lt w 16 16), ha, hzero⟩

/-- What the register form writes at issue has its two reserved bits clear: otherwise the value would have been illegal (R79). -/
theorem ViewSrc.val_lt_of_legal {a : SliceOp} {f : Machine.Frame} (h : ((ViewSrc.reg a).foot f).ill = none) :
    ((ViewSrc.reg a).val f).toNat < 2 ^ 62 := by
  simpa [ViewSrc.foot] using h

end Sys2Proof

namespace Sys2Proof.Machine

/-! ### Changes of the issuing jet alone -/

/-- An instruction that is admitted is legal with the operands it has. -/
theorem State.legal_of_admits {i : Instr} {s : State} (h : s.admits i = true) : (footOf i s).ill = none := by
  simp only [State.admits, Bool.and_eq_true, Option.isNone_iff_eq_none] at h
  obtain ⟨⟨⟨hill, -⟩, -⟩, -⟩ := h
  exact hill

/-- A change of the issuing jet leaves everything else as it was. -/
theorem State.modCur_jetFrame (s : State) (f : Jet → Jet) : JetFrame s (s.modCur f) id :=
  (JetFrame.of_tiles (g := id) (j := f s.cur) (fun _ => rfl) (by simp [State.modCur_tiles, State.tilesWith])).1

/-- A change of the issuing jet, and going on behind the instruction, are one change of that jet. -/
theorem State.modCur_advance (s : State) (f : Jet → Jet) (h : Hdr) (len : Nat) :
    (s.modCur f).advance h len = s.modCur fun j => (f j).stepped h len s.tc := by
  simp [State.advance, State.modCur, State.modJet, State.modTile_modTile, Tile.modJet_modJet, State.tc]

/-- A view register reads back what was written to it. -/
@[simp] theorem Jet.view_setView_same (j : Jet) (k : Nat) (v : BitVec 64) : (j.setView k v).view k = v := by
  simp [Jet.view, Jet.setView]

/-- The other view registers keep their values. -/
theorem Jet.view_setView_ne (j : Jet) {k k' : Nat} (v : BitVec 64) (h : k' ≠ k) : (j.setView k v).view k' = j.view k' := by
  simp [Jet.view, Jet.setView, h]

/-- Going on behind an instruction changes no view register. -/
@[simp] theorem Jet.view_stepped (j : Jet) (h : Hdr) (len tc k : Nat) : (j.stepped h len tc).view k = j.view k := rfl

/-- Behind an instruction that wrote a view register and owes nothing, the jet has other views and is otherwise as behind any instruction. -/
theorem Jet.setView_stepped (j : Jet) (k : Nat) (v : BitVec 64) (h : Hdr) (len tc : Nat) :
    (j.setView k v).stepped h len tc = { j.behind h len tc [] with views := (j.setView k v).views } := by
  simp [Jet.stepped, Jet.behind, Jet.setView]

/-- Where its checks pass, `vwset` writes its source's value to the view register and goes on, and nothing is owed or to come (R72, R79). -/
theorem State.vwset_completes {h : Hdr} {v : BitVec 4} {src : ViewSrc} {s : State} (ha : s.admits (.vwset h v src) = true) :
    ∃ t, exec (.vwset h v src) s = .next t ∧ JetFrame s t id ∧ t.agenda = s.agenda ∧
      t.cur = (s.cur.setView v.toNat (src.val s.cur.frame)).stepped h 16 s.tc := by
  refine State.completes (k := fun s => (s.modCur fun j => j.setView v.toNat (src.val j.frame)).advance h 16) rfl ?_ ha
  rw [State.modCur_advance]
  exact ⟨s.modCur_jetFrame _, rfl, s.cur_modCur _⟩

/-- Where its checks pass, `vwrd` owes D the view register's value, cut to D's width, for the next tc (R80). -/
theorem State.vwrd_completes (h : Hdr) (d : SliceOp) (v : BitVec 4) (s : State) : s.admits (.vwrd h d v) = true →
    ∃ t, exec (.vwrd h d v) s = .next t ∧ Result s t h 8 id 1 (d.put ((s.cur.view v.toNat).toNat % 2 ^ (4 * d.width))) 0 := by
  rw [← trunc_natCast]
  exact State.completes (k := fun s => (s.owe 1 (d.put (trunc (s.cur.view v.toNat).toNat (4 * d.width))) 0).advance h 8) rfl
    (s.owe_result h 8 1 _ 0)

/-- Settles O5: `vwset` changes its own jet alone, by one view register; `vwrd` owes what that register holds; and a word of `vwrd` is what its
row's checks leave of it. -/
theorem views : Obligations.Views := by
  intro h v src d s
  refine ⟨fun ha => ?vwset, s.vwrd_completes h d v, fun w i hd hop => ⟨oD w, decode_vwrd hd hop⟩⟩
  case vwset =>
    obtain ⟨t, hexec, hframe, hagenda, hcur⟩ := State.vwset_completes ha
    have hview : t.cur.view v.toNat = src.val s.cur.frame := by simp [hcur]
    refine ⟨t, hexec, hframe, hagenda, ?behind, fun k hk => ?others, fun x hx => ?imm, fun a hreg => ?reg⟩
    case behind => rw [hcur, Jet.setView_stepped]
    case others => rw [hcur, Jet.view_stepped, Jet.view_setView_ne _ _ hk]
    case imm =>
      subst hx
      exact hview.trans (BitVec.ofNat_toNat 64 x)
    case reg =>
      subst hreg
      exact ⟨hview, hview ▸ ViewSrc.val_lt_of_legal (State.legal_of_admits ha)⟩

end Sys2Proof.Machine
end

section
/-!
SUPPORT and PROOFS. What the bit counts say of a number's bits, the rows of the mask instructions, and O10 of these.
-/

namespace Sys2Proof

/-! ### Rows with mask fields -/

/-- Checks that pass raise no sub-code: those behind them decide (R42). -/
theorem lowest_append_of_passes {l : Chk} (r : Chk) (h : ∀ e ∈ l, e.1 = false) : lowest (l ++ r) = lowest r := by
  induction l with
  | nil => rfl
  | cons e l ih =>
    obtain ⟨he, hl⟩ := List.forall_mem_cons.mp h
    simpa [lowest, he] using ih hl

/-- A field of a mask kind names one of the eight masks where its check passes (R32). -/
@[simp] theorem maskOk_passes (n : Nat) : (∀ e ∈ maskOk n, e.1 = false) ↔ n < 8 := by simp [maskOk]

/-- A word of a row with three mask fields (R145). -/
theorem decode_rAmmm {w : Nat} {i : Instr} {k : Hdr → BitVec 3 → BitVec 3 → BitVec 3 → Instr} (h : decode w = .ok i)
    (hr : opRow (fld w 6 10) = some (rAmmm k)) :
    i = k (hdrOf w) (BitVec.ofNat 3 (fD w)) (BitVec.ofNat 3 (fA w)) (BitVec.ofNat 3 (fB w)) ∧ fD w < 8 ∧ fA w < 8 ∧ fB w < 8 := by
  obtain ⟨hi, hbad, -⟩ := decode_ok_row hr h
  simp only [rAmmm, List.forall_mem_append, maskOk_passes] at hi hbad
  obtain ⟨⟨hd, ha⟩, hb⟩ := hbad
  exact ⟨hi, hd, ha, hb⟩

/-- A word of a row with two mask fields has no B (R145). -/
theorem decode_rAmm {w : Nat} {i : Instr} {k : Hdr → BitVec 3 → BitVec 3 → Instr} (h : decode w = .ok i)
    (hr : opRow (fld w 6 10) = some (rAmm k)) :
    i = k (hdrOf w) (BitVec.ofNat 3 (fD w)) (BitVec.ofNat 3 (fA w)) ∧ fD w < 8 ∧ fA w < 8 ∧ fB w = 0xffff := by
  obtain ⟨hi, hbad, -⟩ := decode_ok_row hr h
  simp only [rAmm, List.forall_mem_append, maskOk_passes, unused_passes] at hi hbad
  obtain ⟨⟨hd, ha⟩, hb⟩ := hbad
  exact ⟨hi, hd, ha, hb⟩

/-- A word of a row with a slice destination and a mask source has no B, and its D is encoded as it was decoded (R145). -/
theorem decode_rADm {w : Nat} {i : Instr} {k : Hdr → SliceOp → BitVec 3 → Instr} (h : decode w = .ok i)
    (hr : opRow (fld w 6 10) = some (rADm k)) :
    ∃ e, i = k (hdrOf w) e (BitVec.ofNat 3 (fA w)) ∧ e.enc = fD w ∧ fA w < 8 ∧ fB w = 0xffff := by
  obtain ⟨hi, hbad, -⟩ := decode_ok_row hr h
  simp only [rADm, List.forall_mem_append, maskOk_passes, unused_passes] at hi hbad
  obtain ⟨ha, hb⟩ := hbad
  exact ⟨oD w, hi, SliceOp.enc_dec (fld_lt w 16 16), ha, hb⟩

/-- `mset` takes its count from the low nine bits of imm16 (R145). -/
theorem rBset_mset_read (w : Nat) : (rBset .mset).read w = .mset (hdrOf w) (BitVec.ofNat 3 (fD w)) (BitVec.ofNat 9 (fld w 48 9)) :=
  congrArg (Instr.mset (hdrOf w) (BitVec.ofNat 3 (fD w))) (ofNat_fld w 48 9 7)

/-- The checks of `mset` on its fields: D names a mask, the bits of imm16 from bit 57 on are zero, and A is unused (R145). -/
theorem rBset_mset_passes (w : Nat) : (∀ e ∈ (rBset .mset).bad w, e.1 = false) ↔ (fD w < 8 ∧ fld w 57 7 = 0) ∧ fA w = 0xffff := by
  have hzero : fI16 w / 512 = fld w 57 7 := fld_div_two_pow w 48 9 7
  simp only [rBset, hzero, List.forall_mem_append, maskOk_passes, zeroes_passes, unused_passes]

/-- A register of a field's width holds the field. -/
theorem toNat_ofNat_fld (w lo n : Nat) : (BitVec.ofNat n (fld w lo n)).toNat = fld w lo n := by
  rw [BitVec.toNat_ofNat, Nat.mod_eq_of_lt (fld_lt w lo n)]

/-- A word of `mset` names D and a count of at most 256, has no A, and zeros follow the count (R145). -/
theorem decode_mset {w : Nat} {i : Instr} (h : decode w = .ok i) (hop : fld w 6 10 = 0x10b) :
    i = .mset (hdrOf w) (BitVec.ofNat 3 (fD w)) (BitVec.ofNat 9 (fld w 48 9)) ∧ fD w < 8 ∧ fA w = 0xffff ∧ fld w 57 7 = 0 ∧
      fld w 48 9 ≤ 256 := by
  obtain ⟨hi, hbad, hcount⟩ := decode_ok_row (r := rBset .mset) (by rw [hop]; rfl) h
  rw [rBset_mset_read] at hi
  subst hi
  obtain ⟨⟨hd, hzero⟩, ha⟩ := (rBset_mset_passes w).mp hbad
  simp only [Instr.checks, List.forall_mem_singleton, toNat_ofNat_fld, decide_eq_false_iff_not, Nat.not_lt] at hcount
  exact ⟨rfl, hd, ha, hzero, hcount⟩

/-- A word of `mset` whose only fault is a count above 256 raises sub-code 4 (R145). -/
theorem decode_mset_count_error {w : Nat} (hop : fld w 6 10 = 0x10b) (hlen : fld w 0 2 = 0) (hd : fD w < 8) (ha : fA w = 0xffff)
    (hzero : fld w 57 7 = 0) (hcount : 256 < fld w 48 9) : decode w = .error 4 := by
  have hrow : opRow (fld w 6 10) = some (rBset .mset) := by rw [hop]; rfl
  have hbad := (rBset_mset_passes w).mpr ⟨⟨hd, hzero⟩, ha⟩
  have hlowest : lowest ((rBset .mset).bad w ++ ((rBset .mset).read w).checks) = some 4 := by
    rw [lowest_append_of_passes _ hbad, rBset_mset_read, Instr.checks, toNat_ofNat_fld, decide_eq_true hcount]
    rfl
  have hcode : fld w 0 2 = (rBset .mset).len := hlen
  simp only [decode, hrow, hlowest, if_pos hcode]

end Sys2Proof

namespace Sys2Proof.Machine

/-! ### Counts of bits -/

/-- The number of 1 bits among the low `n` is the number of places with a 1 (R145). -/
theorem popBits_eq_length_filter (n x : Nat) : popBits n x = ((List.range n).filter fun k => x.testBit k).length := by
  induction n generalizing x with
  | zero => rfl
  | succ n ih =>
    rw [popBits, ih, List.range_succ_eq_map, List.filter_cons, List.filter_map, Nat.testBit_zero]
    have hshift : ((fun k => x.testBit k) ∘ Nat.succ) = fun k => (x / 2).testBit k := funext fun k => Nat.testBit_succ x k
    rw [hshift]
    rcases Nat.mod_two_eq_zero_or_one x with h | h <;> simp [h, Nat.add_comm]

/-- The number of 0 bits below the lowest 1 of the low `n` is at most `n`. -/
theorem ctzBits_le (n x : Nat) : ctzBits n x ≤ n := by
  induction n generalizing x with
  | zero => exact Nat.le_refl 0
  | succ n ih =>
    have := ih (x / 2)
    rw [ctzBits]
    split <;> omega

/-- Below the lowest 1 all bits are 0. -/
theorem testBit_of_lt_ctzBits {n x k : Nat} (hk : k < ctzBits n x) : x.testBit k = false := by
  induction n generalizing x k with
  | zero => cases hk
  | succ n ih =>
    rw [ctzBits] at hk
    split at hk
    · cases hk
    · next heven =>
      cases k with
      | zero => simpa [Nat.testBit_zero] using heven
      | succ k =>
        rw [Nat.testBit_succ]
        exact ih (by omega)

/-- Where the low `n` bits are not all 0, there is a 1 above the zeros that are counted. -/
theorem testBit_ctzBits {n x : Nat} (h : ctzBits n x < n) : x.testBit (ctzBits n x) = true := by
  induction n generalizing x with
  | zero => cases h
  | succ n ih =>
    rw [ctzBits] at h ⊢
    split at h
    · next hodd => simp [hodd, Nat.testBit_zero]
    · next heven =>
      rw [if_neg heven, Nat.add_comm, Nat.testBit_succ]
      exact ih (by omega)

/-! ### Bits of a mask -/

/-- A truth value is written as 0 or 1. -/
theorem b2n_le_one (b : Bool) : b2n b ≤ 1 := by cases b <;> decide

/-- It is written as 1 just where it is true. -/
theorem b2n_eq_one_iff (b : Bool) : b2n b = 1 ↔ b = true := by cases b <;> decide

/-- The bits below a count, in a mask of `n` bits (R145). -/
theorem getLsbD_ofNat_two_pow_sub_one {n k : Nat} (c : Nat) (hk : k < n) : (BitVec.ofNat n (2 ^ c - 1)).getLsbD k = decide (k < c) := by
  rw [BitVec.getLsbD_ofNat, Nat.testBit_two_pow_sub_one, decide_eq_true hk, Bool.true_and]

/-- A word differs from 0 in some bit. -/
theorem bne_zero_iff_exists {n : Nat} (m : BitVec n) : (m != 0) = true ↔ ∃ k, k < n ∧ m.getLsbD k = true := by
  rw [bne_iff_ne, ne_eq, ← not_iff_not, not_not]
  constructor
  · rintro rfl ⟨k, -, hk⟩
    simp at hk
  · intro h
    refine BitVec.eq_of_getLsbD_eq fun k hk => ?_
    have : m.getLsbD k ≠ true := fun hm => h ⟨k, hk, hm⟩
    simpa using this

/-- A word is all ones where each of its bits is. -/
theorem beq_allOnes_iff_forall {n : Nat} (m : BitVec n) : (m == BitVec.allOnes n) = true ↔ ∀ k, k < n → m.getLsbD k = true := by
  rw [beq_iff_eq]
  constructor
  · rintro rfl k hk
    simpa using hk
  · exact fun h => BitVec.eq_of_getLsbD_eq fun k hk => by simp [h k hk, hk]

/-! ### Mask instructions -/

/-- Where its checks pass, an instruction that owes a result of fixed latency and goes on has no other effect (R34). -/
theorem State.owe_completes {i : Instr} {s : State} {h : Hdr} {len lat : Nat} {w : Write}
    (he : exec i s = s.guarded (footOf i s) fun s => (s.owe lat w 0).advance h len) : s.admits i = true →
    ∃ t, exec i s = .next t ∧ Result s t h len id lat w 0 :=
  State.completes he (s.owe_result h len lat w 0)

/-- Where its checks pass, a mask instruction owes its mask for the next tc (R145). -/
theorem State.maskResult_completes {i : Instr} {s : State} {h : Hdr} {d : BitVec 3} {m : BitVec 256} {bit : Nat → Bool}
    (he : exec i s = s.maskResult h (footOf i s) d m) (hbit : ∀ k, k < 256 → m.getLsbD k = bit k) : s.admits i = true →
    ∃ t v, exec i s = .next t ∧ Result s t h 8 id 1 ⟨[], [(d.toNat, v)]⟩ 0 ∧ ∀ k, k < 256 → v.getLsbD k = bit k := by
  intro ha
  obtain ⟨t, hexec, hresult⟩ := State.owe_completes he ha
  exact ⟨t, m, hexec, hresult, hbit⟩

/-- No slice source can delay the result of a mask test (R66, R145). -/
theorem footT_latency (d : SliceOp) (a : BitVec 3) : (footT d a).latency = 1 := rfl

/-- Where its checks pass, a test or count of a mask owes D its value, cut to D's width, for the next tc (R145). -/
theorem State.maskTest_completes {i : Instr} {s : State} {h : Hdr} {d : SliceOp} {a : BitVec 3} {v : Nat} {ok : Nat → Prop}
    (hf : footOf i s = footT d a) (he : exec i s = s.result h 8 (footOf i s) d v) (hv : ok v) : s.admits i = true →
    ∃ t v, exec i s = .next t ∧ Result s t h 8 id 1 (d.put (v % 2 ^ (4 * d.width))) 0 ∧ ok v := by
  intro ha
  obtain ⟨t, hexec, hresult⟩ := State.owe_completes he ha
  rw [hf, footT_latency, trunc_natCast] at hresult
  exact ⟨t, v, hexec, hresult, hv⟩

/-- Settles O10: a mask instruction is its checks followed by an owed mask or an owed count, whose bits and value are those of the operations on
all 256 bits, and its word is what its row's checks leave of it. -/
theorem masks : Obligations.Masks := by
  intro h dm a b count d s
  refine ⟨?mand, ?mor, ?mxor, ?mnot, ?mset, ?mtestAny, ?mtestAll, ?mpopc, ?mfirst,
    fun w i hd => ⟨?words3, fun hop => ?word2, decode_mset hd, ?wordsD⟩, fun _ => decode_mset_count_error⟩
  case mand => exact State.maskResult_completes rfl fun k _ => BitVec.getLsbD_and
  case mor => exact State.maskResult_completes rfl fun k _ => BitVec.getLsbD_or
  case mxor => exact State.maskResult_completes rfl fun k _ => BitVec.getLsbD_xor
  case mnot => exact State.maskResult_completes rfl fun k hk => by simp [hk]
  case mset => exact State.maskResult_completes rfl fun k hk => getLsbD_ofNat_two_pow_sub_one count.toNat hk
  case mtestAny => exact State.maskTest_completes rfl rfl ⟨b2n_le_one _, (b2n_eq_one_iff _).trans (bne_zero_iff_exists _)⟩
  case mtestAll => exact State.maskTest_completes rfl rfl ⟨b2n_le_one _, (b2n_eq_one_iff _).trans (beq_allOnes_iff_forall _)⟩
  case mpopc => exact State.maskTest_completes rfl rfl (popBits_eq_length_filter 256 _)
  case mfirst => exact State.maskTest_completes rfl rfl ⟨ctzBits_le 256 _, fun _ => testBit_of_lt_ctzBits, testBit_ctzBits⟩
  case words3 =>
    intro op mk hmem hop
    simp only [List.mem_cons, Prod.mk.injEq, List.not_mem_nil, or_false] at hmem
    obtain ⟨rfl, rfl⟩ | ⟨rfl, rfl⟩ | ⟨rfl, rfl⟩ := hmem <;> exact decode_rAmmm hd (by rw [hop]; rfl)
  case word2 => exact decode_rAmm hd (by rw [hop]; rfl)
  case wordsD =>
    intro op mk hmem hop
    simp only [List.mem_cons, Prod.mk.injEq, List.not_mem_nil, or_false] at hmem
    obtain ⟨rfl, rfl⟩ | ⟨rfl, rfl⟩ | ⟨rfl, rfl⟩ | ⟨rfl, rfl⟩ := hmem <;> exact decode_rADm hd (by rw [hop]; rfl)

end Sys2Proof.Machine
end

section
/-!
SUPPORT and PROOFS. A word read back field by field, the rows of the opcode map on the words their encoders make, and O59 of these.
-/

namespace Sys2Proof

/-! ### Fields of a word that was joined of fields -/

/-- The lowest field of a joined word. -/
theorem fld_packF_head (n v : Nat) (l : List (Nat × Nat)) : fld (packF ((n, v) :: l)) 0 n = v % 2 ^ n := by
  simp [fld, packF]

/-- A field above the lowest one is a field of the rest. -/
theorem fld_packF_skip {m lo : Nat} (v n : Nat) (l : List (Nat × Nat)) (h : m ≤ lo) :
    fld (packF ((m, v) :: l)) lo n = fld (packF l) (lo - m) n := by
  obtain ⟨k, rfl⟩ := Nat.exists_eq_add_of_le h
  have hdiv : (v % 2 ^ m + 2 ^ m * packF l) / 2 ^ m = packF l := by
    rw [Nat.add_mul_div_left _ _ (Nat.two_pow_pos m), Nat.div_eq_of_lt (Nat.mod_lt _ (Nat.two_pow_pos m)), Nat.zero_add]
  rw [Nat.add_sub_cancel_left, fld, packF, Nat.pow_add, ← Nat.div_div_eq_div_mul, hdiv, fld]

/-- A joined word has no bit above its fields. -/
theorem packF_lt (l : List (Nat × Nat)) : packF l < 2 ^ (l.map (·.1)).sum := by
  induction l with
  | nil => simp [packF]
  | cons e l ih =>
    obtain ⟨n, v⟩ := e
    have hv := Nat.mod_lt v (Nat.two_pow_pos n)
    rw [List.map_cons, List.sum_cons, Nat.pow_add, packF]
    calc v % 2 ^ n + 2 ^ n * packF l < 2 ^ n + 2 ^ n * packF l := Nat.add_lt_add_right hv _
      _ = 2 ^ n * (packF l + 1) := by ring
      _ ≤ 2 ^ n * 2 ^ (l.map (·.1)).sum := Nat.mul_le_mul_left _ ih

/-- The bit of a truth value reads back. -/
@[simp] theorem b2n_mod_two_beq (b : Bool) : (b2n b % 2 == 1) = b := by cases b <;> rfl

@[simp] theorem Cls.dec_enc (c : Cls) : Cls.dec (c.enc % 4) = c := by cases c <;> rfl
@[simp] theorem Rm.dec_enc (c : Rm) : Rm.dec (c.enc % 4) = c := by cases c <;> rfl
@[simp] theorem MMode.dec_enc (c : MMode) : MMode.dec (c.enc % 4) = c := by cases c <;> rfl
@[simp] theorem Scope.dec_enc (c : Scope) : Scope.dec (c.enc % 4) = c := by cases c <;> rfl
@[simp] theorem KindOv.dec_enc (c : KindOv) : KindOv.dec (c.enc % 4) = c := by cases c <;> rfl
@[simp] theorem Hint.dec_enc (c : Hint) : Hint.dec (c.enc % 4) = c := by cases c <;> rfl

/-- The value 3 is reserved in the fields of class, mask mode, scope and hint (R38, R39). -/
@[simp] theorem Cls.enc_ne_three (c : Cls) : c.enc % 4 ≠ 3 := by cases c <;> decide
@[simp] theorem MMode.enc_ne_three (c : MMode) : c.enc % 4 ≠ 3 := by cases c <;> decide
@[simp] theorem Scope.enc_ne_three (c : Scope) : c.enc % 4 ≠ 3 := by cases c <;> decide
@[simp] theorem Hint.enc_ne_three (c : Hint) : c.enc % 4 ≠ 3 := by cases c <;> decide

/-- A register's number is below the modulus of a field that holds it. -/
theorem toNat_mod_of_le {n m : Nat} (x : BitVec n) (h : 2 ^ n ≤ m) : x.toNat % m = x.toNat :=
  Nat.mod_eq_of_lt (Nat.lt_of_lt_of_le x.isLt h)

/-- No check of a list is violated (R42). -/
def Chk.Passes (l : Chk) : Prop := ∀ e ∈ l, e.1 = false

@[simp] theorem Chk.passes_nil : Chk.Passes [] := by simp [Chk.Passes]
@[simp] theorem Chk.passes_cons (b : Bool) (c : Nat) (l : Chk) : Chk.Passes ((b, c) :: l) ↔ b = false ∧ Chk.Passes l := by
  simp [Chk.Passes]
@[simp] theorem Chk.passes_append (l m : Chk) : Chk.Passes (l ++ m) ↔ Chk.Passes l ∧ Chk.Passes m := List.forall_mem_append
@[simp] theorem Chk.passes_zeroes (n : Nat) : Chk.Passes (zeroes n) ↔ n = 0 := by simp [zeroes]
@[simp] theorem Chk.passes_unused (n : Nat) : Chk.Passes (unused n) ↔ n = 0xffff := by simp [unused]
@[simp] theorem Chk.passes_reserved (n v : Nat) : Chk.Passes (reserved n v) ↔ n ≠ v := by simp [reserved]
@[simp] theorem Chk.passes_maskOk (n : Nat) : Chk.Passes (maskOk n) ↔ n < 8 := by simp [maskOk]

/-- An instruction is well formed where its checks pass. -/
theorem Instr.wf_iff (i : Instr) : i.wf = true ↔ Chk.Passes i.checks := by
  rw [Instr.wf, Option.isNone_iff_eq_none, lowest_eq_none_iff, Chk.Passes]

/-! ### The fields of each format -/

/-- The header of every format (R23). -/
theorem hdrOf_packF (op code : Nat) (h : Hdr) (l : List (Nat × Nat)) : hdrOf (packF (hdrF op code h ++ l)) = h := by
  simp [hdrOf, hdrF, fld_packF_head, fld_packF_skip, toNat_mod_of_le]

section
variable (op : Nat) (h : Hdr)

section
variable (d a b : Nat)
@[simp] theorem hdrOf_encA : hdrOf (encA op h d a b) = h := hdrOf_packF op 0 h _
@[simp] theorem fD_encA : fD (encA op h d a b) = d % 65536 := by simp [fD, encA, hdrF, fld_packF_head, fld_packF_skip]
@[simp] theorem fA_encA : fA (encA op h d a b) = a % 65536 := by simp [fA, encA, hdrF, fld_packF_head, fld_packF_skip]
@[simp] theorem fB_encA : fB (encA op h d a b) = b % 65536 := by simp [fB, encA, hdrF, fld_packF_head, fld_packF_skip]
@[simp] theorem fI16_encA : fI16 (encA op h d a b) = b % 65536 := fB_encA op h d a b
end

section
variable (d a i : Nat)
@[simp] theorem hdrOf_encI : hdrOf (encI op h d a i) = h := hdrOf_packF op 1 h _
@[simp] theorem fD_encI : fD (encI op h d a i) = d % 65536 := by simp [fD, encI, hdrF, fld_packF_head, fld_packF_skip]
@[simp] theorem fA_encI : fA (encI op h d a i) = a % 65536 := by simp [fA, encI, hdrF, fld_packF_head, fld_packF_skip]
@[simp] theorem iRes_encI : iRes (encI op h d a i) = zeroes 0 := by simp [iRes, encI, hdrF, fld_packF_head, fld_packF_skip]
@[simp] theorem fI32_encI : fI32 (encI op h d a i) = i % 4294967296 := by simp [fI32, encI, hdrF, fld_packF_head, fld_packF_skip]
end

section
variable (d a b kd ka kb : Nat) (c : LaneCtl)
@[simp] theorem hdrOf_encL : hdrOf (encL op h d a b kd ka kb c) = h := hdrOf_packF op 1 h _
@[simp] theorem fD_encL : fD (encL op h d a b kd ka kb c) = d % 65536 := by simp [fD, encL, hdrF, fld_packF_head, fld_packF_skip]
@[simp] theorem fA_encL : fA (encL op h d a b kd ka kb c) = a % 65536 := by simp [fA, encL, hdrF, fld_packF_head, fld_packF_skip]
@[simp] theorem fB_encL : fB (encL op h d a b kd ka kb c) = b % 65536 := by simp [fB, encL, hdrF, fld_packF_head, fld_packF_skip]
@[simp] theorem kindD_encL : fld (encL op h d a b kd ka kb c) 64 1 = kd % 2 := by simp [encL, hdrF, fld_packF_head, fld_packF_skip]
@[simp] theorem kindA_encL : fld (encL op h d a b kd ka kb c) 65 1 = ka % 2 := by simp [encL, hdrF, fld_packF_head, fld_packF_skip]
@[simp] theorem kindB_encL : fld (encL op h d a b kd ka kb c) 66 1 = kb % 2 := by simp [encL, hdrF, fld_packF_head, fld_packF_skip]
theorem lCls_encL : lCls (encL op h d a b kd ka kb c) = c.cls.enc % 4 := by simp [lCls, encL, hdrF, fld_packF_head, fld_packF_skip]
theorem lMode_encL : lMode (encL op h d a b kd ka kb c) = c.mmode.enc % 4 := by simp [lMode, encL, hdrF, fld_packF_head, fld_packF_skip]
@[simp] theorem lCtl_encL : lCtl (encL op h d a b kd ka kb c) = c := by
  simp only [lCtl, lCls_encL, lMode_encL]
  simp [encL, hdrF, fld_packF_head, fld_packF_skip, toNat_mod_of_le]
/-- Nothing reserved is encoded. -/
@[simp] theorem lRawG_encL : Chk.Passes (lRawG (encL op h d a b kd ka kb c)) := by
  simp only [lRawG, lCls_encL, lMode_encL]
  simp [encL, hdrF, fld_packF_head, fld_packF_skip]
@[simp] theorem lRaw_encL : Chk.Passes (lRaw (encL op h d a b kd ka kb c)) := by
  simp [lRaw, lCls_encL]
end

section
variable (d a b c ctl imm : Nat)
@[simp] theorem hdrOf_encC : hdrOf (encC op h d a b c ctl imm) = h := hdrOf_packF op 2 h _
@[simp] theorem fD_encC : fD (encC op h d a b c ctl imm) = d % 65536 := by simp [fD, encC, hdrF, fld_packF_head, fld_packF_skip]
@[simp] theorem fA_encC : fA (encC op h d a b c ctl imm) = a % 65536 := by simp [fA, encC, hdrF, fld_packF_head, fld_packF_skip]
@[simp] theorem fB_encC : fB (encC op h d a b c ctl imm) = b % 65536 := by simp [fB, encC, hdrF, fld_packF_head, fld_packF_skip]
@[simp] theorem fC_encC : fC (encC op h d a b c ctl imm) = c % 65536 := by simp [fC, encC, hdrF, fld_packF_head, fld_packF_skip]
@[simp] theorem fCtl_encC : fCtl (encC op h d a b c ctl imm) = ctl % 65536 := by simp [fCtl, encC, hdrF, fld_packF_head, fld_packF_skip]
@[simp] theorem fImm_encC : fImm (encC op h d a b c ctl imm) = imm % 4294967296 := by simp [fImm, encC, hdrF, fld_packF_head, fld_packF_skip]
end
end

/-! ### Operands -/

/-- A slice operand that its own field gives back: every one but the run that `nz` stands for (R32). -/
def SliceOp.Legal (o : SliceOp) : Prop := SliceOp.dec o.enc = o
def ElemOp.Legal (o : ElemOp) : Prop := ElemOp.dec o.kind o.enc = o

theorem SliceOp.enc_lt (o : SliceOp) : o.enc < 65536 := by
  cases o with
  | nz => decide
  | sl s w =>
    have := s.isLt
    have := w.isLt
    simp only [SliceOp.enc]
    omega
@[simp] theorem SliceOp.enc_mod (o : SliceOp) : o.enc % 65536 = o.enc := Nat.mod_eq_of_lt o.enc_lt

@[simp] theorem ElemOp.enc_mod (o : ElemOp) : o.enc % 65536 = o.enc := by
  cases o with
  | slice o => exact o.enc_mod
  | view v f =>
    have := v.isLt
    have := f.isLt
    simp only [ElemOp.enc]
    omega
@[simp] theorem ElemOp.kind_mod (o : ElemOp) : o.kind % 2 = o.kind := by cases o <;> rfl

theorem SliceOp.legal_nz : SliceOp.nz.Legal := rfl
theorem SliceOp.legal_of_ck {o : SliceOp} (h : Chk.Passes o.ck) : o.Legal := by
  cases o with
  | nz => rfl
  | sl s w =>
    have := s.isLt
    have := w.isLt
    simp only [SliceOp.ck, Chk.passes_cons, decide_eq_false_iff_not, Nat.not_lt, Chk.passes_nil, and_true] at h
    have hne : s.toNat * 16 + w.toNat ≠ 65535 := by omega
    have hdiv : (s.toNat * 16 + w.toNat) / 16 = s.toNat := by omega
    rw [SliceOp.Legal, SliceOp.enc, SliceOp.dec, if_neg hne, hdiv, BitVec.ofNat_toNat, BitVec.setWidth_eq]
    congr 1
    apply BitVec.eq_of_toNat_eq
    simp only [BitVec.toNat_ofNat]
    omega
theorem SliceOp.legal_of_ckW {o : SliceOp} {n : Nat} (h : Chk.Passes (o.ckW n)) : o.Legal :=
  legal_of_ck ((Chk.passes_append _ _).mp h).1
theorem SliceOp.eq_nz_of_ckNo {o : SliceOp} (h : Chk.Passes o.ckNo) : o = .nz := by
  cases o with
  | nz => rfl
  | sl s w => simp [SliceOp.ckNo, SliceOp.isNz] at h

theorem ElemOp.legal_view (v : BitVec 4) (f : BitVec 12) : (ElemOp.view v f).Legal := by
  have := f.isLt
  have hdiv : (v.toNat * 4096 + f.toNat) / 4096 = v.toNat := by omega
  rw [ElemOp.Legal, ElemOp.kind, ElemOp.enc, ElemOp.dec, if_neg (by decide), hdiv, BitVec.ofNat_toNat, BitVec.setWidth_eq]
  congr 1
  apply BitVec.eq_of_toNat_eq
  simp only [BitVec.toNat_ofNat]
  omega
theorem ElemOp.legal_slice {o : SliceOp} (h : o.Legal) : (ElemOp.slice o).Legal := congrArg ElemOp.slice h
theorem ElemOp.legal_of_ck {o : ElemOp} (h : Chk.Passes o.ck) : o.Legal := by
  cases o with
  | slice o => exact legal_slice (SliceOp.legal_of_ck h)
  | view v f => exact legal_view v f
theorem ElemOp.legal_of_ckW {o : ElemOp} {n : Nat} (h : Chk.Passes (o.ckW n)) : o.Legal := by
  cases o with
  | slice o => exact legal_slice (SliceOp.legal_of_ckW h)
  | view v f => exact legal_view v f
theorem ElemOp.legal_of_ckNo {o : ElemOp} (h : Chk.Passes o.ckNo) : o.Legal := by
  cases o with
  | slice o => exact legal_slice (SliceOp.eq_nz_of_ckNo h ▸ SliceOp.legal_nz)
  | view v f => exact legal_view v f
theorem ElemOp.legal_of_ckScale {o : ElemOp} (h : Chk.Passes o.ckScale) : o.Legal := legal_of_ckW ((Chk.passes_append _ _).mp h).1

@[simp] theorem NestOp.enc_mod (o : NestOp) : o.enc % 65536 = o.enc := by
  cases o with
  | pool b => exact Nat.mod_eq_of_lt b.isLt
  | view v f =>
    have := v.isLt
    have := f.isLt
    simp only [NestOp.enc]
    omega
@[simp] theorem NestOp.kind_mod (o : NestOp) : o.kind % 2 = o.kind := by cases o <;> rfl
@[simp] theorem NestOp.dec_enc (o : NestOp) : NestOp.dec o.kind o.enc = o := by
  cases o with
  | pool b => simp [NestOp.dec, NestOp.kind, NestOp.enc]
  | view v f =>
    have := f.isLt
    have hdiv : (v.toNat * 4096 + f.toNat) / 4096 = v.toNat := by omega
    rw [NestOp.kind, NestOp.enc, NestOp.dec, if_pos rfl, hdiv, BitVec.ofNat_toNat, BitVec.setWidth_eq]
    congr 1
    apply BitVec.eq_of_toNat_eq
    simp only [BitVec.toNat_ofNat]
    omega

/-! ### Formats whose operands are read together -/

/-- The operands of F128M are those that were encoded (R39). -/
structure MemF.Legal (o : MemF) : Prop where
  d : o.d.Legal
  a : o.a.Legal
  x : o.x.Legal
  c : o.c.Legal

section
variable (op : Nat) (h : Hdr)

@[simp] theorem hdrOf_encM (o : MemF) : hdrOf (encM op h o) = h := hdrOf_packF op 2 h _
theorem mF_encM {o : MemF} (ho : o.Legal) : mF (encM op h o) = o := by
  obtain ⟨hd, ha, hx, hc⟩ := ho
  simp only [SliceOp.Legal, ElemOp.Legal] at hd ha hx hc
  simp [mF, oA, oB, fA, fB, fD, encM, hdrF, fld_packF_head, fld_packF_skip, toNat_mod_of_le, hd, ha, hx, hc]
@[simp] theorem scope_encM (o : MemF) : fld (encM op h o) 100 2 = o.scope.enc % 4 := by simp [encM, hdrF, fld_packF_head, fld_packF_skip]
@[simp] theorem mRaw_encM (o : MemF) : Chk.Passes (mRaw (encM op h o)) := by
  simp [mRaw, encM, hdrF, fld_packF_head, fld_packF_skip]

@[simp] theorem hdrOf_encN (o : NestF) : hdrOf (encN op h o) = h := hdrOf_packF op 3 h _
theorem nCls_encN (o : NestF) : nCls (encN op h o) = o.cls.enc % 4 := by simp [nCls, encN, hdrF, fld_packF_head, fld_packF_skip]
theorem nMode_encN (o : NestF) : nMode (encN op h o) = o.mmode.enc % 4 := by simp [nMode, encN, hdrF, fld_packF_head, fld_packF_skip]
theorem nF_encN (o : NestF) : nF (encN op h o) o.b = o := by
  simp only [nF, nCls_encN, nMode_encN]
  simp [fA, fD, encN, hdrF, fld_packF_head, fld_packF_skip, toNat_mod_of_le]
@[simp] theorem nRaw_encN (o : NestF) : Chk.Passes (nRaw (encN op h o)) := by
  simp only [nRaw, nCls_encN, nMode_encN]
  simp [encN, hdrF, fld_packF_head, fld_packF_skip]
theorem second_encN {o : NestF} (hb : o.b.isSome = true) : some (NestOp.dec (fld (encN op h o) 236 1) (fB (encN op h o))) = o.b := by
  obtain ⟨b, hb⟩ := Option.isSome_iff_exists.mp hb
  simp [hb, fB, encN, hdrF, fld_packF_head, fld_packF_skip]
theorem noSecond_encN {o : NestF} (hb : o.b = none) : fB (encN op h o) = 0xffff ∧ fld (encN op h o) 236 1 = 0 := by
  simp [hb, fB, encN, hdrF, fld_packF_head, fld_packF_skip]
end

/-! ### Rows on the words that their encoders make -/

theorem Chk.Passes.left {l m : Chk} (h : Chk.Passes (l ++ m)) : Chk.Passes l := ((Chk.passes_append l m).mp h).1
theorem Chk.Passes.right {l m : Chk} (h : Chk.Passes (l ++ m)) : Chk.Passes m := ((Chk.passes_append l m).mp h).2

theorem SliceOp.Legal.dec_enc {o : SliceOp} (h : o.Legal) : SliceOp.dec o.enc = o := h
theorem ElemOp.Legal.dec_enc {o : ElemOp} (h : o.Legal) : ElemOp.dec o.kind o.enc = o := h

/-- The opcode map has 1,024 places (R43). -/
theorem lt_of_opRow {op : Nat} {r : Row} (h : opRow op = some r) : op < 1024 := by
  by_contra hop
  have h16 : 16 ≤ op / 64 := by omega
  unfold opRow at h
  split at h <;> first | omega | cases h

/-- An instruction's word is decoded to it, and has no more bits than its format. -/
def Instr.RoundTrips (i : Instr) : Prop :=
  decode (encode i) = .ok i ∧ encode i < 2 ^ (8 * lenBytes (fld (encode i) 0 2)) ∧
    decodeTableWord (8 * lenBytes (fld (encode i) 0 2)) (encode i) = some i

/-- An instruction round-trips where its row reads its word back to it and finds no fault in the word. -/
theorem Row.roundTrips {i : Instr} {r : Row} {op : Nat} {h : Hdr} {l : List (Nat × Nat)} (he : encode i = packF (hdrF op r.len h ++ l))
    (hr : opRow op = some r) (hsum : (l.map (·.1)).sum + 16 = 8 * lenBytes r.len) (hc : r.len < 4) (hw : Chk.Passes i.checks)
    (hread : r.read (encode i) = i) (hbad : Chk.Passes (r.bad (encode i))) : i.RoundTrips := by
  obtain ⟨hop, hlen⟩ := head_packF op r.len h l (lt_of_opRow hr) hc
  rw [← he] at hop hlen
  have hdec : decode (encode i) = .ok i := by
    have hnone : lowest (r.bad (encode i) ++ i.checks) = none := by
      rw [lowest_eq_none_iff]
      exact List.forall_mem_append.mpr ⟨hbad, hw⟩
    simp only [decode, hop, hr, hlen, if_true, hread, hnone]
  have hlt : encode i < 2 ^ (8 * lenBytes (fld (encode i) 0 2)) := by
    have hbits : ((hdrF op r.len h ++ l).map (·.1)).sum = (l.map (·.1)).sum + 16 := by
      rw [List.map_append, List.sum_append, Nat.add_comm]
      rfl
    rw [hlen, ← hsum, ← hbits, he]
    exact packF_lt (hdrF op r.len h ++ l)
  exact ⟨hdec, hlt, by rw [decodeTableWord, Nat.mod_eq_of_lt hlt, hdec]⟩

section
variable {i : Instr} {r : Row} {op : Nat} {h : Hdr}

theorem Row.roundTripsA {d a b : Nat} (he : encode i = encA op h d a b) (hr : opRow op = some r) (hw : Chk.Passes i.checks) (hlen : r.len = 0)
    (hread : r.read (encA op h d a b) = i) (hbad : Chk.Passes (r.bad (encA op h d a b))) : i.RoundTrips :=
  Row.roundTrips (by rw [he, hlen]; rfl) hr (by rw [hlen]; rfl) (by rw [hlen]; decide) hw (by rw [he, hread]) (by rw [he]; exact hbad)

theorem Row.roundTripsI {d a m : Nat} (he : encode i = encI op h d a m) (hr : opRow op = some r) (hw : Chk.Passes i.checks) (hlen : r.len = 1)
    (hread : r.read (encI op h d a m) = i) (hbad : Chk.Passes (r.bad (encI op h d a m))) : i.RoundTrips :=
  Row.roundTrips (by rw [he, hlen]; rfl) hr (by rw [hlen]; rfl) (by rw [hlen]; decide) hw (by rw [he, hread]) (by rw [he]; exact hbad)

theorem Row.roundTripsL {d a b kd ka kb : Nat} {c : LaneCtl} (he : encode i = encL op h d a b kd ka kb c) (hr : opRow op = some r)
    (hw : Chk.Passes i.checks) (hlen : r.len = 1) (hread : r.read (encL op h d a b kd ka kb c) = i)
    (hbad : Chk.Passes (r.bad (encL op h d a b kd ka kb c))) : i.RoundTrips :=
  Row.roundTrips (by rw [he, hlen]; rfl) hr (by rw [hlen]; rfl) (by rw [hlen]; decide) hw (by rw [he, hread]) (by rw [he]; exact hbad)

theorem Row.roundTripsM {o : MemF} (he : encode i = encM op h o) (hr : opRow op = some r) (hw : Chk.Passes i.checks) (hlen : r.len = 2)
    (hread : r.read (encM op h o) = i) (hbad : Chk.Passes (r.bad (encM op h o))) : i.RoundTrips :=
  Row.roundTrips (by rw [he, hlen]; rfl) hr (by rw [hlen]; rfl) (by rw [hlen]; decide) hw (by rw [he, hread]) (by rw [he]; exact hbad)

theorem Row.roundTripsC {d a b c ctl imm : Nat} (he : encode i = encC op h d a b c ctl imm) (hr : opRow op = some r) (hw : Chk.Passes i.checks)
    (hlen : r.len = 2) (hread : r.read (encC op h d a b c ctl imm) = i) (hbad : Chk.Passes (r.bad (encC op h d a b c ctl imm))) : i.RoundTrips :=
  Row.roundTrips (by rw [he, hlen]; rfl) hr (by rw [hlen]; rfl) (by rw [hlen]; decide) hw (by rw [he, hread]) (by rw [he]; exact hbad)

theorem Row.roundTripsN {o : NestF} (he : encode i = encN op h o) (hr : opRow op = some r) (hw : Chk.Passes i.checks) (hlen : r.len = 3)
    (hread : r.read (encN op h o) = i) (hbad : Chk.Passes (r.bad (encN op h o))) : i.RoundTrips :=
  Row.roundTrips (by rw [he, hlen]; rfl) hr (by rw [hlen]; rfl) (by rw [hlen]; decide) hw (by rw [he, hread]) (by rw [he]; exact hbad)
end

section
variable {op : Nat} {h : Hdr}

/-- A number's low bits make the register they are. -/
theorem ofNat_eq_of_mod {n x : Nat} {m : BitVec n} (h : x % 2 ^ n = m.toNat) : BitVec.ofNat n x = m :=
  BitVec.eq_of_toNat_eq (by rw [BitVec.toNat_ofNat, h])

@[simp] theorem mask_lt_eight (m : BitVec 3) : m.toNat < 8 := m.isLt

/-- What of a field is above a register's bits is 0. -/
theorem toNat_div_two_pow {n : Nat} (x : BitVec n) : x.toNat / 2 ^ n = 0 := Nat.div_eq_of_lt x.isLt

theorem ofNat_toNat_mod {n m : Nat} (x : BitVec n) (h : 2 ^ n ≤ m) : BitVec.ofNat n (x.toNat % m) = x := by
  rw [toNat_mod_of_le x h, BitVec.ofNat_toNat, BitVec.setWidth_eq]

/-- The element operands of F96L are those that were encoded (R38). -/
structure L3.Legal (o : L3) : Prop where
  d : o.d.Legal
  a : o.a.Legal
  b : o.b.Legal
structure LM.Legal (o : LM) : Prop where
  a : o.a.Legal
  b : o.b.Legal

/-- The slice operands of the scalar formats are those that were encoded. -/
structure R2.Legal (o : R2) : Prop where
  d : o.d.Legal
  a : o.a.Legal
structure R3.Legal (o : R3) : Prop where
  d : o.d.Legal
  a : o.a.Legal
  b : o.b.Legal
structure R4.Legal (o : R4) : Prop where
  d : o.d.Legal
  a : o.a.Legal
  b : o.b.Legal
  c : o.c.Legal

theorem R2.legal_of_ck {o : R2} (h : Chk.Passes o.ck) : o.Legal := ⟨SliceOp.legal_of_ck h.left, SliceOp.legal_of_ck h.right⟩
theorem R2.legal_of_ckA {o : R2} {n : Nat} (h : Chk.Passes (o.ckA n)) : o.Legal := ⟨SliceOp.legal_of_ck h.left, SliceOp.legal_of_ckW h.right⟩
theorem R3.legal_of_ck {o : R3} (h : Chk.Passes o.ck) : o.Legal :=
  ⟨SliceOp.legal_of_ck h.left.left, SliceOp.legal_of_ck h.left.right, SliceOp.legal_of_ck h.right⟩
theorem R4.legal_of_ck {o : R4} (h : Chk.Passes o.ck) : o.Legal :=
  ⟨SliceOp.legal_of_ck h.left.left.left, SliceOp.legal_of_ck h.left.left.right, SliceOp.legal_of_ck h.left.right, SliceOp.legal_of_ck h.right⟩

theorem rA3_roundTrips {k : Hdr → R3 → Instr} {o : R3} (he : encode (k h o) = encA op h o.d.enc o.a.enc o.b.enc) (hr : opRow op = some (rA3 k))
    (hw : Chk.Passes (k h o).checks) (ho : o.Legal) : (k h o).RoundTrips :=
  Row.roundTripsA he hr hw rfl (by simp [rA3, r3, oD, oA, oB, ho.d.dec_enc, ho.a.dec_enc, ho.b.dec_enc]) (by simp [rA3])

theorem rA2_roundTrips {k : Hdr → R2 → Instr} {o : R2} (he : encode (k h o) = encA op h o.d.enc o.a.enc 0xffff) (hr : opRow op = some (rA2 k))
    (hw : Chk.Passes (k h o).checks) (ho : o.Legal) : (k h o).RoundTrips :=
  Row.roundTripsA he hr hw rfl (by simp [rA2, r2, oD, oA, ho.d.dec_enc, ho.a.dec_enc]) (by simp [rA2])

theorem rB2_roundTrips {n : Nat} {k : Hdr → R2 → BitVec n → Instr} {o : R2} {m : BitVec n} (he : encode (k h o m) = encA op h o.d.enc o.a.enc m.toNat)
    (hr : opRow op = some (rB2 n k)) (hw : Chk.Passes (k h o m).checks) (hn : 2 ^ n ≤ 65536) (ho : o.Legal) : (k h o m).RoundTrips :=
  Row.roundTripsA he hr hw rfl (by simp [rB2, r2, oD, oA, ho.d.dec_enc, ho.a.dec_enc, ofNat_toNat_mod m hn])
    (by simp [rB2, toNat_mod_of_le m hn, toNat_div_two_pow])

theorem rA0_roundTrips {k : Hdr → Instr} (he : encode (k h) = encA op h 0xffff 0xffff 0xffff)
    (hr : opRow op = some (rA0 k)) (hw : Chk.Passes (k h).checks) : (k h).RoundTrips :=
  Row.roundTripsA he hr hw rfl (by simp [rA0]) (by simp [rA0])

theorem rAD_roundTrips {k : Hdr → SliceOp → Instr} {d : SliceOp} (he : encode (k h d) = encA op h d.enc 0xffff 0xffff)
    (hr : opRow op = some (rAD k)) (hw : Chk.Passes (k h d).checks) (hd : d.Legal) : (k h d).RoundTrips :=
  Row.roundTripsA he hr hw rfl (by simp [rAD, oD, hd.dec_enc]) (by simp [rAD])

theorem rAA_roundTrips {k : Hdr → SliceOp → Instr} {a : SliceOp} (he : encode (k h a) = encA op h 0xffff a.enc 0xffff)
    (hr : opRow op = some (rAA k)) (hw : Chk.Passes (k h a).checks) (ha : a.Legal) : (k h a).RoundTrips :=
  Row.roundTripsA he hr hw rfl (by simp [rAA, oA, ha.dec_enc]) (by simp [rAA])

theorem rAAB_roundTrips {k : Hdr → SliceOp → SliceOp → Instr} {a b : SliceOp} (he : encode (k h a b) = encA op h 0xffff a.enc b.enc)
    (hr : opRow op = some (rAAB k)) (hw : Chk.Passes (k h a b).checks) (ha : a.Legal) (hb : b.Legal) : (k h a b).RoundTrips :=
  Row.roundTripsA he hr hw rfl (by simp [rAAB, oA, oB, ha.dec_enc, hb.dec_enc]) (by simp [rAAB])

theorem rAmmm_roundTrips {k : Hdr → BitVec 3 → BitVec 3 → BitVec 3 → Instr} {d a b : BitVec 3} (he : encode (k h d a b) = encA op h d.toNat a.toNat b.toNat)
    (hr : opRow op = some (rAmmm k)) (hw : Chk.Passes (k h d a b).checks) : (k h d a b).RoundTrips :=
  Row.roundTripsA he hr hw rfl (by simp [rAmmm, mreg, toNat_mod_of_le]) (by simp [rAmmm, toNat_mod_of_le])

theorem rAmm_roundTrips {k : Hdr → BitVec 3 → BitVec 3 → Instr} {d a : BitVec 3} (he : encode (k h d a) = encA op h d.toNat a.toNat 0xffff)
    (hr : opRow op = some (rAmm k)) (hw : Chk.Passes (k h d a).checks) : (k h d a).RoundTrips :=
  Row.roundTripsA he hr hw rfl (by simp [rAmm, mreg, toNat_mod_of_le]) (by simp [rAmm, toNat_mod_of_le])

theorem rADm_roundTrips {k : Hdr → SliceOp → BitVec 3 → Instr} {d : SliceOp} {a : BitVec 3} (he : encode (k h d a) = encA op h d.enc a.toNat 0xffff)
    (hr : opRow op = some (rADm k)) (hw : Chk.Passes (k h d a).checks) (hd : d.Legal) : (k h d a).RoundTrips :=
  Row.roundTripsA he hr hw rfl (by simp [rADm, mreg, oD, hd.dec_enc, toNat_mod_of_le]) (by simp [rADm, toNat_mod_of_le])

theorem rBD_roundTrips {n : Nat} {k : Hdr → SliceOp → BitVec n → Instr} {d : SliceOp} {m : BitVec n} (he : encode (k h d m) = encA op h d.enc 0xffff m.toNat)
    (hr : opRow op = some (rBD n k)) (hw : Chk.Passes (k h d m).checks) (hn : 2 ^ n ≤ 65536) (hd : d.Legal) : (k h d m).RoundTrips :=
  Row.roundTripsA he hr hw rfl (by simp [rBD, oD, hd.dec_enc, ofNat_toNat_mod m hn]) (by simp [rBD, toNat_mod_of_le m hn, toNat_div_two_pow])

theorem rBA_roundTrips {n : Nat} {k : Hdr → SliceOp → BitVec n → Instr} {a : SliceOp} {m : BitVec n} (he : encode (k h a m) = encA op h 0xffff a.enc m.toNat)
    (hr : opRow op = some (rBA n k)) (hw : Chk.Passes (k h a m).checks) (hn : 2 ^ n ≤ 65536) (ha : a.Legal) : (k h a m).RoundTrips :=
  Row.roundTripsA he hr hw rfl (by simp [rBA, oA, ha.dec_enc, ofNat_toNat_mod m hn]) (by simp [rBA, toNat_mod_of_le m hn, toNat_div_two_pow])

theorem rBset_roundTrips {k : Hdr → BitVec 3 → BitVec 9 → Instr} {d : BitVec 3} {m : BitVec 9} (he : encode (k h d m) = encA op h d.toNat 0xffff m.toNat)
    (hr : opRow op = some (rBset k)) (hw : Chk.Passes (k h d m).checks) : (k h d m).RoundTrips :=
  Row.roundTripsA he hr hw rfl (by simp [rBset, mreg, toNat_mod_of_le]) (by simp [rBset, toNat_mod_of_le, m.isLt])

theorem rBfence_roundTrips {k : Hdr → Scope → Instr} {sc : Scope} (he : encode (k h sc) = encA op h 0xffff 0xffff sc.enc)
    (hr : opRow op = some (rBfence k)) (hw : Chk.Passes (k h sc).checks) : (k h sc).RoundTrips :=
  Row.roundTripsA he hr hw rfl (by simp [rBfence]) (by cases sc <;> simp [rBfence, Scope.enc])

theorem rBbf_roundTrips {k : Hdr → R2 → BitVec 6 → BitVec 6 → Instr} {o : R2} {lsb len : BitVec 6} (he : encode (k h o lsb len) = encA op h o.d.enc o.a.enc (len.toNat * 64 + lsb.toNat))
    (hr : opRow op = some (rBbf k)) (hw : Chk.Passes (k h o lsb len).checks) (ho : o.Legal) : (k h o lsb len).RoundTrips := by
  have hlsb : BitVec.ofNat 6 ((len.toNat * 64 + lsb.toNat) % 65536) = lsb := ofNat_eq_of_mod (by omega)
  have hlen : BitVec.ofNat 6 ((len.toNat * 64 + lsb.toNat) % 65536 / 64) = len := ofNat_eq_of_mod (by omega)
  have hzero : (len.toNat * 64 + lsb.toNat) % 65536 < 4096 := by omega
  exact Row.roundTripsA he hr hw rfl (by simp [rBbf, r2, oD, oA, ho.d.dec_enc, ho.a.dec_enc, hlsb, hlen]) (by simp [rBbf, hzero])

theorem rI2_roundTrips {k : Hdr → R2 → BitVec 32 → Instr} {o : R2} {m : BitVec 32} (he : encode (k h o m) = encI op h o.d.enc o.a.enc m.toNat)
    (hr : opRow op = some (rI2 k)) (hw : Chk.Passes (k h o m).checks) (ho : o.Legal) : (k h o m).RoundTrips :=
  Row.roundTripsI he hr hw rfl (by simp [rI2, r2, oD, oA, ho.d.dec_enc, ho.a.dec_enc, toNat_mod_of_le]) (by simp [rI2])

theorem rID_roundTrips {k : Hdr → SliceOp → BitVec 32 → Instr} {d : SliceOp} {m : BitVec 32} (he : encode (k h d m) = encI op h d.enc 0xffff m.toNat)
    (hr : opRow op = some (rID k)) (hw : Chk.Passes (k h d m).checks) (hd : d.Legal) : (k h d m).RoundTrips :=
  Row.roundTripsI he hr hw rfl (by simp [rID, oD, hd.dec_enc, toNat_mod_of_le]) (by simp [rID])

theorem rIA_roundTrips {k : Hdr → SliceOp → BitVec 32 → Instr} {a : SliceOp} {m : BitVec 32} (he : encode (k h a m) = encI op h 0xffff a.enc m.toNat)
    (hr : opRow op = some (rIA k)) (hw : Chk.Passes (k h a m).checks) (ha : a.Legal) : (k h a m).RoundTrips :=
  Row.roundTripsI he hr hw rfl (by simp [rIA, oA, ha.dec_enc, toNat_mod_of_le]) (by simp [rIA])

theorem rIm_roundTrips {k : Hdr → BitVec 3 → BitVec 32 → Instr} {a : BitVec 3} {m : BitVec 32} (he : encode (k h a m) = encI op h 0xffff a.toNat m.toNat)
    (hr : opRow op = some (rIm k)) (hw : Chk.Passes (k h a m).checks) : (k h a m).RoundTrips :=
  Row.roundTripsI he hr hw rfl (by simp [rIm, mreg, toNat_mod_of_le]) (by simp [rIm, toNat_mod_of_le])

theorem rIbr_roundTrips {k : Hdr → BitVec 32 → Instr} {m : BitVec 32} (he : encode (k h m) = encI op h 0xffff 0xffff m.toNat)
    (hr : opRow op = some (rIbr k)) (hw : Chk.Passes (k h m).checks) : (k h m).RoundTrips :=
  Row.roundTripsI he hr hw rfl (by simp [rIbr, toNat_mod_of_le]) (by simp [rIbr])

theorem rIn_roundTrips {k : Hdr → Instr} (he : encode (k h) = encI op h 0xffff 0xffff 0)
    (hr : opRow op = some (rIn k)) (hw : Chk.Passes (k h).checks) : (k h).RoundTrips :=
  Row.roundTripsI he hr hw rfl (by simp [rIn]) (by simp [rIn])

theorem rL_roundTrips {k : Hdr → L3 → Instr} {o : L3} (he : encode (k h o) = encL op h o.d.enc o.a.enc o.b.enc o.d.kind o.a.kind o.b.kind o.c)
    (hr : opRow op = some (rL k)) (hw : Chk.Passes (k h o).checks) (ho : o.Legal) : (k h o).RoundTrips :=
  Row.roundTripsL he hr hw rfl (by simp [rL, ho.d.dec_enc, ho.a.dec_enc, ho.b.dec_enc]) (by simp [rL])

theorem rLg_roundTrips {k : Hdr → L3 → Instr} {o : L3} (he : encode (k h o) = encL op h o.d.enc o.a.enc o.b.enc o.d.kind o.a.kind o.b.kind o.c)
    (hr : opRow op = some (rLg k)) (hw : Chk.Passes (k h o).checks) (ho : o.Legal) : (k h o).RoundTrips :=
  Row.roundTripsL he hr hw rfl (by simp [rLg, ho.d.dec_enc, ho.a.dec_enc, ho.b.dec_enc]) (by simp [rLg])

theorem rLm_roundTrips {k : Hdr → LM → Instr} {o : LM} (he : encode (k h o) = encL op h o.dm.toNat o.a.enc o.b.enc 0 o.a.kind o.b.kind o.c)
    (hr : opRow op = some (rLm k)) (hw : Chk.Passes (k h o).checks) (ho : o.Legal) : (k h o).RoundTrips :=
  Row.roundTripsL he hr hw rfl (by simp [rLm, mreg, ho.a.dec_enc, ho.b.dec_enc, toNat_mod_of_le]) (by simp [rLm, toNat_mod_of_le])

theorem rM_roundTrips {k : Hdr → MemF → Instr} {o : MemF} (he : encode (k h o) = encM op h o)
    (hr : opRow op = some (rM k)) (hw : Chk.Passes (k h o).checks) (ho : o.Legal) : (k h o).RoundTrips :=
  Row.roundTripsM he hr hw rfl (by simp [rM, mF_encM op h ho]) (by simp [rM])

theorem rMt_roundTrips {k : Hdr → MemF → Instr} {o : MemF} (he : encode (k h o) = encM op h o)
    (hr : opRow op = some (rMt k)) (hw : Chk.Passes (k h o).checks) (ho : o.Legal) (hsc : o.scope = .tile) : (k h o).RoundTrips :=
  Row.roundTripsM he hr hw rfl (by simp [rMt, mF_encM op h ho]) (by simp [rMt, hsc, Scope.enc])

theorem rC4_roundTrips {k : Hdr → R4 → Instr} {o : R4} (he : encode (k h o) = encC op h o.d.enc o.a.enc o.b.enc o.c.enc 0 0)
    (hr : opRow op = some (rC4 k)) (hw : Chk.Passes (k h o).checks) (ho : o.Legal) : (k h o).RoundTrips :=
  Row.roundTripsC he hr hw rfl (by simp [rC4, r4, oD, oA, oB, oC, ho.d.dec_enc, ho.a.dec_enc, ho.b.dec_enc, ho.c.dec_enc]) (by simp [rC4, cRaw])

theorem rC3_roundTrips {n : Nat} {k : Hdr → R3 → BitVec n → Instr} {o : R3} {m : BitVec n} (he : encode (k h o m) = encC op h o.d.enc o.a.enc o.b.enc 0xffff m.toNat 0)
    (hr : opRow op = some (rC3 n k)) (hw : Chk.Passes (k h o m).checks) (hn : 2 ^ n ≤ 65536) (ho : o.Legal) : (k h o m).RoundTrips :=
  Row.roundTripsC he hr hw rfl (by simp [rC3, r3, ctl, oD, oA, oB, ho.d.dec_enc, ho.a.dec_enc, ho.b.dec_enc, ofNat_toNat_mod m hn]) (by simp [rC3, cRaw, toNat_mod_of_le m hn, toNat_div_two_pow])

theorem rC3i_roundTrips {k : Hdr → R3 → Instr} {o : R3} (he : encode (k h o) = encC op h o.d.enc o.a.enc o.b.enc 0xffff 0 0)
    (hr : opRow op = some (rC3i k)) (hw : Chk.Passes (k h o).checks) (ho : o.Legal) : (k h o).RoundTrips :=
  Row.roundTripsC he hr hw rfl (by simp [rC3i, r3, oD, oA, oB, ho.d.dec_enc, ho.a.dec_enc, ho.b.dec_enc]) (by simp [rC3i, cRaw])

theorem rC2_roundTrips {n : Nat} {k : Hdr → R2 → BitVec n → Instr} {o : R2} {m : BitVec n} (he : encode (k h o m) = encC op h o.d.enc o.a.enc 0xffff 0xffff m.toNat 0)
    (hr : opRow op = some (rC2 n k)) (hw : Chk.Passes (k h o m).checks) (hn : 2 ^ n ≤ 65536) (ho : o.Legal) : (k h o m).RoundTrips :=
  Row.roundTripsC he hr hw rfl (by simp [rC2, r2, ctl, oD, oA, ho.d.dec_enc, ho.a.dec_enc, ofNat_toNat_mod m hn]) (by simp [rC2, cRaw, toNat_mod_of_le m hn, toNat_div_two_pow])

theorem rC2i_roundTrips {k : Hdr → R2 → Instr} {o : R2} (he : encode (k h o) = encC op h o.d.enc o.a.enc 0xffff 0xffff 0 0)
    (hr : opRow op = some (rC2i k)) (hw : Chk.Passes (k h o).checks) (ho : o.Legal) : (k h o).RoundTrips :=
  Row.roundTripsC he hr hw rfl (by simp [rC2i, r2, oD, oA, ho.d.dec_enc, ho.a.dec_enc]) (by simp [rC2i, cRaw])

theorem rChain_roundTrips {k : Hdr → R2 → Bool → Instr} {o : R2} {x : Bool} (he : encode (k h o x) = encC op h o.d.enc o.a.enc 0xffff 0xffff (b2n x) 0)
    (hr : opRow op = some (rChain k)) (hw : Chk.Passes (k h o x).checks) (ho : o.Legal) : (k h o x).RoundTrips :=
  Row.roundTripsC he hr hw rfl (by cases x <;> simp [rChain, r2, oD, oA, ho.d.dec_enc, ho.a.dec_enc, b2n]) (by cases x <;> simp [rChain, cRaw, b2n])

theorem rCrel_roundTrips {k : Hdr → R2 → BitVec 2 → Scope → Instr} {o : R2} {z : BitVec 2} {sc : Scope}
    (he : encode (k h o z sc) = encC op h o.d.enc o.a.enc 0xffff 0xffff (sc.enc * 4 + z.toNat) 0)
    (hr : opRow op = some (rCrel k)) (hw : Chk.Passes (k h o z sc).checks) (ho : o.Legal) : (k h o z sc).RoundTrips := by
  have hlt : sc.enc < 3 := by cases sc <;> decide
  have hz : BitVec.ofNat 2 ((sc.enc * 4 + z.toNat) % 65536) = z := ofNat_eq_of_mod (by omega)
  have hsc : (sc.enc * 4 + z.toNat) % 65536 / 4 % 4 = sc.enc % 4 := by omega
  have hzero : (sc.enc * 4 + z.toNat) % 65536 < 16 := by omega
  exact Row.roundTripsC he hr hw rfl (by simp [rCrel, r2, ctl, oD, oA, ho.d.dec_enc, ho.a.dec_enc, hz, hsc]) (by simp [rCrel, cRaw, hsc, hzero])

theorem casc_roundTrips {o : R2} {n : BitVec 4} {dir : BitVec 2} (hw : Chk.Passes (Instr.casc h o n dir).checks) (ho : o.Legal) :
    (Instr.casc h o n dir).RoundTrips := by
  have hn : BitVec.ofNat 4 ((dir.toNat * 16 + n.toNat) % 65536) = n := ofNat_eq_of_mod (by omega)
  have hdir : BitVec.ofNat 2 ((dir.toNat * 16 + n.toNat) % 65536 / 16) = dir := ofNat_eq_of_mod (by omega)
  have hzero : (dir.toNat * 16 + n.toNat) % 65536 < 64 := by omega
  exact Row.roundTripsC rfl rfl hw rfl (by simp [r2, ctl, oD, oA, ho.d.dec_enc, ho.a.dec_enc, hn, hdir]) (by simp [cRaw, hzero])

theorem cpy_roundTrips {o : CpyF} (hw : Chk.Passes (Instr.cpy h o).checks) (ha : o.a.Legal) (hb : o.b.Legal) (hc : o.c.Legal) :
    (Instr.cpy h o).RoundTrips := by
  have hch : BitVec.ofNat 3 ((o.tpl.toNat * 8 + o.ch.toNat) % 65536) = o.ch := ofNat_eq_of_mod (by omega)
  have htpl : BitVec.ofNat 6 ((o.tpl.toNat * 8 + o.ch.toNat) % 65536 / 8) = o.tpl := ofNat_eq_of_mod (by omega)
  have hzero : (o.tpl.toNat * 8 + o.ch.toNat) % 65536 < 512 := by omega
  exact Row.roundTripsC (r := rCpy) rfl rfl hw rfl (by simp [rCpy, ctl, oA, oB, oC, ha.dec_enc, hb.dec_enc, hc.dec_enc, hch, htpl]) (by simp [rCpy, cRaw, hzero])

theorem cpyCmp_roundTrips {o : CpyF} {m : BitVec 3} (hw : Chk.Passes (Instr.cpyCmp h o m).checks) (ha : o.a.Legal) (hb : o.b.Legal)
    (hc : o.c.Legal) : (Instr.cpyCmp h o m).RoundTrips := by
  have hch : BitVec.ofNat 3 ((o.tpl.toNat * 8 + o.ch.toNat) % 65536) = o.ch := ofNat_eq_of_mod (by omega)
  have htpl : BitVec.ofNat 6 ((o.tpl.toNat * 8 + o.ch.toNat) % 65536 / 8) = o.tpl := ofNat_eq_of_mod (by omega)
  have hzero : (o.tpl.toNat * 8 + o.ch.toNat) % 65536 < 512 := by omega
  exact Row.roundTripsC (r := rCpyCmp) rfl rfl hw rfl
    (by simp [rCpyCmp, ctl, imm, oA, oB, oC, ha.dec_enc, hb.dec_enc, hc.dec_enc, hch, htpl, toNat_mod_of_le]) (by simp [rCpyCmp, cRaw, hzero, toNat_mod_of_le])

theorem sub_roundTrips {o : R2} {tag : BitVec 12} {ch : BitVec 3} (hw : Chk.Passes (Instr.sub h o tag ch).checks) (ho : o.Legal) :
    (Instr.sub h o tag ch).RoundTrips := by
  have htag : BitVec.ofNat 12 ((ch.toNat * 4096 + tag.toNat) % 4294967296) = tag := ofNat_eq_of_mod (by omega)
  have hch : BitVec.ofNat 3 ((ch.toNat * 4096 + tag.toNat) % 4294967296 / 4096) = ch := ofNat_eq_of_mod (by omega)
  have hzero : (ch.toNat * 4096 + tag.toNat) % 4294967296 < 32768 := by omega
  exact Row.roundTripsI (r := rIsub) rfl rfl hw rfl (by simp [rIsub, r2, oD, oA, ho.d.dec_enc, ho.a.dec_enc, htag, hch]) (by simp [rIsub, hzero])

theorem unsub_roundTrips {d : SliceOp} {tag : BitVec 12} (hw : Chk.Passes (Instr.unsub h d tag).checks) (hd : d.Legal) :
    (Instr.unsub h d tag).RoundTrips :=
  Row.roundTripsI (r := rIunsub) rfl rfl hw rfl (by simp [rIunsub, oD, hd.dec_enc, toNat_mod_of_le]) (by simp [rIunsub, toNat_mod_of_le, tag.isLt])

theorem mcrd_roundTrips {o : R3} {tag : BitVec 12} {n : BitVec 6} (hw : Chk.Passes (Instr.mcrd h o tag n).checks) (ho : o.Legal) :
    (Instr.mcrd h o tag n).RoundTrips := by
  have htag : BitVec.ofNat 12 ((n.toNat * 4096 + tag.toNat) % 4294967296) = tag := ofNat_eq_of_mod (by omega)
  have hn : BitVec.ofNat 6 ((n.toNat * 4096 + tag.toNat) % 4294967296 / 4096) = n := ofNat_eq_of_mod (by omega)
  have hzero : (n.toNat * 4096 + tag.toNat) % 4294967296 < 262144 := by omega
  exact Row.roundTripsC (r := rMcrd) rfl rfl hw rfl (by simp [rMcrd, r3, imm, oD, oA, oB, ho.d.dec_enc, ho.a.dec_enc, ho.b.dec_enc, htag, hn])
    (by simp [rMcrd, cRaw, hzero])

theorem wsig_roundTrips {o : WsigF} (hw : Chk.Passes (Instr.wsig h o).checks) (hd : o.d.Legal) (ha : o.a.Legal) (hb : o.b.Legal)
    (hc : o.c.Legal) : (Instr.wsig h o).RoundTrips := by
  have hlt : o.scope.enc < 3 := by cases o.scope <;> decide
  have hbit : b2n o.f8 ≤ 1 := by cases o.f8 <;> decide
  generalize hq : (o.size.toNat + 8 * b2n o.f8 + 16 * o.fn.toNat + 256 * o.scope.enc) % 65536 = q
  have hsize : BitVec.ofNat 3 q = o.size := ofNat_eq_of_mod (by omega)
  have hf8 : q / 8 % 2 = b2n o.f8 % 2 := by omega
  have hfn : BitVec.ofNat 4 (q / 16) = o.fn := ofNat_eq_of_mod (by omega)
  have hsc : q / 256 % 4 = o.scope.enc % 4 := by omega
  have hzero : q < 1024 := by omega
  exact Row.roundTripsC (r := rWsig) rfl rfl hw rfl
    (by simp [rWsig, ctl, oD, oA, oB, oC, hd.dec_enc, ha.dec_enc, hb.dec_enc, hc.dec_enc, hq, hsize, hf8, hfn, hsc]) (by simp [rWsig, cRaw, hq, hsc, hzero])

theorem addw_roundTrips {o : R4} {kind : BitVec 2} {sg : Bool} {k : BitVec 9} (hw : Chk.Passes (Instr.addw h o kind sg k).checks) (ho : o.Legal) :
    (Instr.addw h o kind sg k).RoundTrips := by
  have hbit : b2n sg ≤ 1 := by cases sg <;> decide
  generalize hq : (kind.toNat + 4 * b2n sg) % 65536 = q
  have hkind : BitVec.ofNat 2 q = kind := ofNat_eq_of_mod (by omega)
  have hsg : q / 4 % 2 = b2n sg % 2 := by omega
  have hzero : q < 8 := by omega
  exact Row.roundTripsC (r := rAddw) rfl rfl hw rfl
    (by simp [rAddw, r4, ctl, imm, oD, oA, oB, oC, ho.d.dec_enc, ho.a.dec_enc, ho.b.dec_enc, ho.c.dec_enc, hq, hkind, hsg, toNat_mod_of_le])
    (by simp [rAddw, cRaw, hq, hzero, toNat_mod_of_le, k.isLt])

theorem mrgJoin_roundTrips {o : R2} {tag : BitVec 12} {x n : Bool} (hw : Chk.Passes (Instr.mrgJoin h o tag x n).checks) (ho : o.Legal) :
    (Instr.mrgJoin h o tag x n).RoundTrips :=
  Row.roundTripsC (r := rMrg) rfl rfl hw rfl
    (by cases x <;> cases n <;> simp [rMrg, r2, imm, oD, oA, ho.d.dec_enc, ho.a.dec_enc, b2n, toNat_mod_of_le])
    (by cases x <;> cases n <;> simp [rMrg, cRaw, b2n, toNat_mod_of_le, tag.isLt])

theorem mrgPut_roundTrips {o : R2} {tag : BitVec 12} (hw : Chk.Passes (Instr.mrgPut h o tag).checks) (ho : o.Legal) :
    (Instr.mrgPut h o tag).RoundTrips :=
  Row.roundTripsC (r := rMrg) rfl rfl hw rfl (by simp [rMrg, r2, imm, oD, oA, ho.d.dec_enc, ho.a.dec_enc, toNat_mod_of_le])
    (by simp [rMrg, cRaw, toNat_mod_of_le, tag.isLt])

theorem mrgLeave_roundTrips {d : SliceOp} {tag : BitVec 12} (hw : Chk.Passes (Instr.mrgLeave h d tag).checks) (hd : d.Legal) :
    (Instr.mrgLeave h d tag).RoundTrips :=
  Row.roundTripsC (r := rMrg) rfl rfl hw rfl (by simp [rMrg, imm, oD, hd.dec_enc, toNat_mod_of_le]) (by simp [rMrg, cRaw, toNat_mod_of_le, tag.isLt])

/-- A field of a register, as the register of its bits. -/
theorem ofNat_fld_toNat {w : Nat} (x : BitVec w) (lo n : Nat) : BitVec.ofNat n (fld x.toNat lo n) = x.extractLsb' lo n := by
  apply BitVec.eq_of_toNat_eq
  simp [fld, BitVec.extractLsb'_toNat, Nat.shiftRight_eq_div_pow]

/-- The four fields of `vwset` are the value's bits, high to low (R79). -/
theorem view_fields_append (v : BitVec 62) :
    BitVec.ofNat 14 (fld v.toNat 48 14) ++ BitVec.ofNat 8 (fld v.toNat 40 8) ++ BitVec.ofNat 14 (fld v.toNat 26 14) ++ BitVec.ofNat 26 (fld v.toNat 0 26) = v := by
  simp only [ofNat_fld_toNat]
  apply BitVec.eq_of_getLsbD_eq
  intro k hk
  simp only [BitVec.getLsbD_append, BitVec.getLsbD_extractLsb']
  split
  · simp [*]
  · split
    · simp; grind
    · split <;> grind

theorem vwset_roundTrips {v : BitVec 4} {src : ViewSrc} (hw : Chk.Passes (Instr.vwset h v src).checks) : (Instr.vwset h v src).RoundTrips := by
  cases src with
  | imm val =>
    have hA : fld val.toNat 48 14 < 16384 := fld_lt val.toNat 48 14
    have hB : fld val.toNat 26 14 < 16384 := fld_lt val.toNat 26 14
    have hC : fld val.toNat 40 8 < 256 := fld_lt val.toNat 40 8
    have hI : fld val.toNat 0 26 < 67108864 := fld_lt val.toNat 0 26
    have hmodA : fld val.toNat 48 14 % 65536 = fld val.toNat 48 14 := by omega
    have hmodB : fld val.toNat 26 14 % 65536 = fld val.toNat 26 14 := by omega
    have hmodC : fld val.toNat 40 8 % 65536 = fld val.toNat 40 8 := by omega
    have hmodI : fld val.toNat 0 26 % 4294967296 = fld val.toNat 0 26 := by omega
    have hmode : v.toNat / 16 % 2 ≠ 1 := by omega
    have hv : v.toNat < 32 := by omega
    exact Row.roundTripsC (r := rVwset) rfl rfl hw rfl
      (by simp [rVwset, ctl, hmodA, hmodB, hmodC, hmodI, hmode, toNat_mod_of_le, view_fields_append])
      (by simp [rVwset, hmodA, hmodB, hmodC, hmodI, hmode, toNat_mod_of_le, hv, hA, hB, hC, hI])
  | reg a =>
    have ha : a.Legal := SliceOp.legal_of_ckW hw
    have hq : (16 + v.toNat) % 65536 = 16 + v.toNat := by omega
    have hmode : (v.toNat / 16 + 1) % 2 = 1 := by omega
    have hv : BitVec.ofNat 4 (16 + v.toNat) = v := ofNat_eq_of_mod (by omega)
    have hzero : 16 + v.toNat < 32 := by omega
    exact Row.roundTripsC (r := rVwset) rfl rfl hw rfl (by simp [rVwset, ctl, oA, ha.dec_enc, hq, hmode, hv]) (by simp [rVwset, hq, hmode, hzero])

theorem cascx_roundTrips (hw : Chk.Passes (Instr.cascx h).checks) : (Instr.cascx h).RoundTrips :=
  Row.roundTripsC (r := rCascx) rfl rfl hw rfl (by simp [rCascx]) (by simp [rCascx, cRaw])

theorem cascxStop_roundTrips (hw : Chk.Passes (Instr.cascxStop h).checks) : (Instr.cascxStop h).RoundTrips :=
  Row.roundTripsC (r := rCascx) rfl rfl hw rfl (by simp [rCascx]) (by simp [rCascx, cRaw])

theorem gang_roundTrips {o : R2} (hw : Chk.Passes (Instr.gang h o).checks) (ho : o.Legal) : (Instr.gang h o).RoundTrips :=
  Row.roundTripsC (r := rGang) rfl rfl hw rfl (by simp [rGang, r2, oD, oA, ho.d.dec_enc, ho.a.dec_enc]) (by simp [rGang, cRaw])

theorem gangEnd_roundTrips {d : SliceOp} (hw : Chk.Passes (Instr.gangEnd h d).checks) (hd : d.Legal) : (Instr.gangEnd h d).RoundTrips :=
  Row.roundTripsC (r := rGang) rfl rfl hw rfl (by simp [rGang, oD, hd.dec_enc]) (by simp [rGang, cRaw])

theorem fork_roundTrips {o : R4} {c : BitVec 16} {m : BitVec 32} (hw : Chk.Passes (Instr.fork h o c m).checks) (ho : o.Legal) :
    (Instr.fork h o c m).RoundTrips :=
  Row.roundTripsC (r := rFork) rfl rfl hw rfl
    (by simp [rFork, r4, ctl, imm, oD, oA, oB, oC, ho.d.dec_enc, ho.a.dec_enc, ho.b.dec_enc, ho.c.dec_enc, toNat_mod_of_le]) (by simp [rFork])

theorem mx_roundTrips {a : ElemOp} (hw : Chk.Passes (Instr.mx h a).checks) (ha : a.Legal) : (Instr.mx h a).RoundTrips := by
  have hkind : a.kind < 2 := by cases a <;> simp [ElemOp.kind]
  have hmod : a.kind % 65536 = a.kind := by omega
  exact Row.roundTripsC (r := rMx) rfl rfl hw rfl (by simp [rMx, hmod, ha.dec_enc]) (by simp [rMx, cRaw, hmod, hkind])

theorem mxqStatus_roundTrips {d : SliceOp} (hw : Chk.Passes (Instr.mxqStatus h d).checks) (hd : d.Legal) : (Instr.mxqStatus h d).RoundTrips :=
  Row.roundTripsA (r := rMxq) rfl rfl hw rfl (by simp [rMxq, oD, hd.dec_enc]) (by simp [rMxq])

theorem mxqResume_roundTrips {d : SliceOp} (hw : Chk.Passes (Instr.mxqResume h d).checks) (hd : d.Legal) : (Instr.mxqResume h d).RoundTrips :=
  Row.roundTripsA (r := rMxq) rfl rfl hw rfl (by simp [rMxq, oD, hd.dec_enc]) (by simp [rMxq])

theorem mxqAbort_roundTrips {d : SliceOp} (hw : Chk.Passes (Instr.mxqAbort h d).checks) (hd : d.Legal) : (Instr.mxqAbort h d).RoundTrips :=
  Row.roundTripsA (r := rMxq) rfl rfl hw rfl (by simp [rMxq, oD, hd.dec_enc]) (by simp [rMxq])

theorem crd_roundTrips {o : R3} {bf : Bool} (hw : Chk.Passes (Instr.crd h o bf).checks) (ho : o.Legal) : (Instr.crd h o bf).RoundTrips :=
  Row.roundTripsC (r := rCrd) rfl rfl hw rfl
    (by cases bf <;> simp [rCrd, r3, b2n, oD, oA, oB, ho.d.dec_enc, ho.a.dec_enc, ho.b.dec_enc]) (by cases bf <;> simp [rCrd, cRaw, b2n])

theorem xrepl_roundTrips {o : R3} {x : Bool} (hw : Chk.Passes (Instr.xrepl h o x).checks) (ho : o.Legal) : (Instr.xrepl h o x).RoundTrips :=
  Row.roundTripsC (r := rXrepl) rfl rfl hw rfl
    (by cases x <;> simp [rXrepl, r3, b2n, oD, oA, oB, ho.d.dec_enc, ho.a.dec_enc, ho.b.dec_enc]) (by cases x <;> simp [rXrepl, cRaw, b2n])

theorem cclr_roundTrips {o : R2} {n : BitVec 8} (hw : Chk.Passes (Instr.cclr h o n).checks) (ho : o.Legal) : (Instr.cclr h o n).RoundTrips :=
  Row.roundTripsC (r := rCclr) rfl rfl hw rfl (by simp [rCclr, r2, imm, oD, oA, ho.d.dec_enc, ho.a.dec_enc, toNat_mod_of_le])
    (by simp [rCclr, cRaw, toNat_mod_of_le, n.isLt])

theorem cstat_roundTrips {d : SliceOp} {c : BitVec 3} (hw : Chk.Passes (Instr.cstat h d c).checks) (hd : d.Legal) : (Instr.cstat h d c).RoundTrips := by
  have hclr : c.toNat / 8 % 2 ≠ 1 := by omega
  have hzero : c.toNat < 16 := by omega
  exact Row.roundTripsA (r := rCstat) rfl rfl hw rfl (by simp [rCstat, oD, hd.dec_enc, toNat_mod_of_le, hclr]) (by simp [rCstat, toNat_mod_of_le, hzero])

theorem cstatClr_roundTrips {d : SliceOp} {c : BitVec 3} (hw : Chk.Passes (Instr.cstatClr h d c).checks) (hd : d.Legal) :
    (Instr.cstatClr h d c).RoundTrips := by
  have hq : (8 + c.toNat) % 65536 = 8 + c.toNat := by omega
  have hclr : (c.toNat / 8 + 1) % 2 = 1 := by omega
  have hc : BitVec.ofNat 3 (8 + c.toNat) = c := ofNat_eq_of_mod (by omega)
  have hzero : 8 + c.toNat < 16 := by omega
  exact Row.roundTripsA (r := rCstat) rfl rfl hw rfl (by simp [rCstat, oD, hd.dec_enc, hq, hclr, hc]) (by simp [rCstat, hq, hzero])

theorem husked_roundTrips {o : R2} (hw : Chk.Passes (Instr.husked h o).checks) (ho : o.Legal) : (Instr.husked h o).RoundTrips :=
  Row.roundTripsA (r := rHusked) rfl rfl hw rfl (by simp [rHusked, r2, oD, oA, ho.d.dec_enc, ho.a.dec_enc]) (by simp [rHusked])

/-- A `csrw` names no register that has a row of its own (R352). -/
theorem csrw_roundTrips {a : SliceOp} {r : BitVec 12} (hw : Chk.Passes (Instr.csrw h a r).checks) : (Instr.csrw h a r).RoundTrips := by
  have ha : a.Legal := SliceOp.legal_of_ck hw.left
  have hown := hw.right
  simp only [Chk.passes_cons, Bool.or_eq_false_iff, beq_eq_false_iff_ne, ne_eq] at hown
  obtain ⟨-, -, ⟨⟨h8, h14⟩, h15⟩, -⟩ := hown
  have hne {k : Nat} (h : ¬ r = BitVec.ofNat 12 k) : r.toNat ≠ k := fun he => h (by rw [← he, BitVec.ofNat_toNat, BitVec.setWidth_eq])
  have hzero : r.toNat < 4096 := r.isLt
  exact Row.roundTripsA (r := rCsrw) rfl rfl hw rfl
    (by simp [rCsrw, oA, ha.dec_enc, toNat_mod_of_le, hne (k := 8) h8, hne (k := 14) h14, hne (k := 15) h15])
    (by simp [rCsrw, toNat_mod_of_le, hzero])

theorem ringrtyWrite_roundTrips {a : SliceOp} (hw : Chk.Passes (Instr.ringrtyWrite h a).checks) : (Instr.ringrtyWrite h a).RoundTrips :=
  have ha : a.Legal := SliceOp.legal_of_ck hw
  Row.roundTripsA (r := rCsrw) rfl rfl hw rfl (by simp [rCsrw, oA, ha.dec_enc]) (by simp [rCsrw])

theorem savectlWrite_roundTrips {a : SliceOp} (hw : Chk.Passes (Instr.savectlWrite h a).checks) : (Instr.savectlWrite h a).RoundTrips :=
  have ha : a.Legal := SliceOp.legal_of_ck hw
  Row.roundTripsA (r := rCsrw) rfl rfl hw rfl (by simp [rCsrw, oA, ha.dec_enc]) (by simp [rCsrw])

theorem dqspillWrite_roundTrips {a : SliceOp} (hw : Chk.Passes (Instr.dqspillWrite h a).checks) : (Instr.dqspillWrite h a).RoundTrips :=
  have ha : a.Legal := SliceOp.legal_of_ck hw
  Row.roundTripsA (r := rCsrw) rfl rfl hw rfl (by simp [rCsrw, oA, ha.dec_enc]) (by simp [rCsrw])

/-- A `nest` of one source has no B (R149). -/
theorem rN1_roundTrips {k : Hdr → NestF → Instr} {o : NestF} (he : encode (k h o) = encN op h o) (hr : opRow op = some (rN1 k))
    (hw : Chk.Passes (k h o).checks) (hb : o.b = none) : (k h o).RoundTrips := by
  obtain ⟨hfield, hkind⟩ := noSecond_encN op h hb
  have hread : nF (encN op h o) none = o := hb ▸ nF_encN op h o
  exact Row.roundTripsN he hr hw rfl (by simp [rN1, hread]) (by simp [rN1, hfield, hkind])

/-- A `nest` of two sources has a B (R149). -/
theorem rN2_roundTrips {k : Hdr → NestF → Instr} {o : NestF} (he : encode (k h o) = encN op h o) (hr : opRow op = some (rN2 k))
    (hw : Chk.Passes (k h o).checks) (hb : o.b.isSome = true) : (k h o).RoundTrips :=
  Row.roundTripsN he hr hw rfl (by simp [rN2, second_encN op h hb, nF_encN]) (by simp [rN2])

end

/-! ### Legal operands, by the checks of each kind of instruction -/

theorem R3.legal_of {o : R3} {m n : Nat} (h : Chk.Passes (o.d.ck ++ o.a.ckW m ++ o.b.ckW n)) : o.Legal :=
  ⟨SliceOp.legal_of_ck h.left.left, SliceOp.legal_of_ckW h.left.right, SliceOp.legal_of_ckW h.right⟩
theorem R3.legal_of_ckW_a {o : R3} {n : Nat} (h : Chk.Passes (o.d.ck ++ o.a.ckW n ++ o.b.ck)) : o.Legal :=
  ⟨SliceOp.legal_of_ck h.left.left, SliceOp.legal_of_ckW h.left.right, SliceOp.legal_of_ck h.right⟩
theorem R3.legal_of_ckW_b {o : R3} {n : Nat} (h : Chk.Passes (o.d.ck ++ o.a.ck ++ o.b.ckW n)) : o.Legal :=
  ⟨SliceOp.legal_of_ck h.left.left, SliceOp.legal_of_ck h.left.right, SliceOp.legal_of_ckW h.right⟩
theorem R2.legal_of_ckW {o : R2} {m n : Nat} (h : Chk.Passes (o.d.ckW m ++ o.a.ckW n)) : o.Legal :=
  ⟨SliceOp.legal_of_ckW h.left, SliceOp.legal_of_ckW h.right⟩
theorem R2.legal_of_ckW_d {o : R2} {n : Nat} (h : Chk.Passes (o.d.ckW n ++ o.a.ck)) : o.Legal :=
  ⟨SliceOp.legal_of_ckW h.left, SliceOp.legal_of_ck h.right⟩

theorem L3.legal_of_w3 {o : L3} (h : Chk.Passes o.w3) : o.Legal :=
  ⟨ElemOp.legal_of_ckW h.left.left, ElemOp.legal_of_ckW h.left.right, ElemOp.legal_of_ckW h.right⟩
theorem L3.legal_of_w2 {o : L3} (h : Chk.Passes o.w2) : o.Legal :=
  ⟨ElemOp.legal_of_ckW h.left.left, ElemOp.legal_of_ckW h.left.right, ElemOp.legal_of_ckNo h.right⟩
/-- A conversion of one source (R147, R148). -/
theorem L3.legal_of_conv {o : L3} {m n : Nat} (h : Chk.Passes (o.d.ckW m ++ o.a.ckW n ++ o.b.ckNo)) : o.Legal :=
  ⟨ElemOp.legal_of_ckW h.left.left, ElemOp.legal_of_ckW h.left.right, ElemOp.legal_of_ckNo h.right⟩
/-- A conversion with a scale (R146). -/
theorem L3.legal_of_scaled {o : L3} {m n : Nat} (h : Chk.Passes (o.d.ckW m ++ o.a.ckW n ++ o.b.ckScale)) : o.Legal :=
  ⟨ElemOp.legal_of_ckW h.left.left, ElemOp.legal_of_ckW h.left.right, ElemOp.legal_of_ckScale h.right⟩
theorem L3.legal_of_int3 {o : L3} (h : Chk.Passes o.int3) : o.Legal := legal_of_w3 h.left.left
theorem L3.legal_of_fp3 {o : L3} (h : Chk.Passes o.fp3) : o.Legal := legal_of_w3 h.left.left
theorem L3.legal_of_fp2 {o : L3} (h : Chk.Passes o.fp2) : o.Legal := legal_of_w2 h.left.left
theorem L3.legal_of_move2 {o : L3} (h : Chk.Passes o.move2) : o.Legal := legal_of_w2 h.left.left
theorem LM.legal_of_w {o : LM} (h : Chk.Passes o.w) : o.Legal := ⟨ElemOp.legal_of_ckW h.left, ElemOp.legal_of_ckW h.right⟩

theorem MemF.legal_of_plain {o : MemF} (ha : Chk.Passes o.addr) (hp : Chk.Passes o.plain) (hd : o.d.Legal) : o.Legal :=
  ⟨hd, SliceOp.legal_of_ckW ha.left, SliceOp.legal_of_ck ha.right, SliceOp.eq_nz_of_ckNo hp.right ▸ SliceOp.legal_nz⟩
theorem MemF.d_legal_of_small {o : MemF} (h : Chk.Passes o.small) : o.d.Legal := by
  unfold MemF.small at h
  cases hd : o.d with
  | slice d =>
    rw [hd] at h
    exact ElemOp.legal_slice (SliceOp.legal_of_ck h.left)
  | view v f => exact ElemOp.legal_view v f
/-- A load or a store (R226). -/
theorem MemF.legal_of_access {o : MemF} (h : Chk.Passes (o.addr ++ o.plain ++ o.small)) : o.Legal :=
  legal_of_plain h.left.left h.left.right (d_legal_of_small h.right)
theorem MemF.legal_of_nibble {o : MemF} (h : Chk.Passes o.nibble) : o.Legal := by
  refine legal_of_plain h.left.left.left h.left.left.right ?_
  have hslice := h.right
  cases hd : o.d with
  | slice d =>
    rw [hd] at hslice
    exact ElemOp.legal_slice (SliceOp.legal_of_ck hslice.left)
  | view v f => exact ElemOp.legal_view v f
theorem MemF.tile_of_noScope {o : MemF} (h : Chk.Passes o.noScope) : o.scope = .tile := by
  simpa [MemF.noScope] using h
theorem MemF.legal_of_atomic {o : MemF} (h : Chk.Passes o.atomic) : o.Legal := by
  have haddr := h.left.left.left
  have hcmp := h.left.right
  have hslice := h.right
  refine ⟨?_, SliceOp.legal_of_ckW haddr.left, SliceOp.legal_of_ck haddr.right, ?_⟩
  · cases hd : o.d with
    | slice d =>
      rw [hd] at hslice
      exact ElemOp.legal_slice (SliceOp.legal_of_ckW hslice)
    | view v f => exact ElemOp.legal_view v f
  · split at hcmp
    · exact SliceOp.legal_of_ck hcmp
    · exact SliceOp.eq_nz_of_ckNo hcmp ▸ SliceOp.legal_nz
theorem MemF.legal_of_agg {o : MemF} (h : Chk.Passes o.agg) : o.Legal := by
  have haddr := h.left.left.left.left
  have hcmp := h.left.left.right
  have hslice := h.right
  refine ⟨?_, SliceOp.legal_of_ckW haddr.left, SliceOp.legal_of_ck haddr.right, SliceOp.eq_nz_of_ckNo hcmp ▸ SliceOp.legal_nz⟩
  cases hd : o.d with
  | slice d =>
    rw [hd] at hslice
    exact ElemOp.legal_slice (SliceOp.legal_of_ck hslice.left)
  | view v f => exact ElemOp.legal_view v f

theorem NestF.no_second_of_ck1 {o : NestF} {r t : Bool} (h : Chk.Passes (o.ck1 r t)) : o.b = none := by
  have := h.right
  simp only [Chk.passes_cons, Option.isSome_eq_false_iff, Option.isNone_iff_eq_none] at this
  exact this.1
theorem NestF.second_of_ck2 {o : NestF} {r t : Bool} (h : Chk.Passes (o.ck2 r t)) : o.b.isSome = true := by
  have := h.right
  simpa [Option.isSome_iff_ne_none] using this

/-! ### The whole opcode map -/

/-- Every well-formed instruction of the opcode map is what its word decodes to: each through its row. -/
theorem Instr.roundTrips {i : Instr} (he : i.encoded = true) (hwf : i.wf = true) : i.RoundTrips := by
  have hw : Chk.Passes i.checks := i.wf_iff.mp hwf
  cases i with
  | addZ h o | addS h o | difZ h o | difS h o | mulZ h o | mulS h o | mulhZ h o | mulhS h o | divZ h o | divS h o | remZ h o | remS h o
  | minZ h o | minS h o | maxZ h o | maxS h o | and h o | or h o | xor h o | andn h o | shl h o | shr h o | sar h o | rol h o | cmpEq h o
  | cmpNe h o | cmpLtS h o | cmpLtZ h o | cmpLeS h o | cmpLeZ h o =>
    exact rA3_roundTrips rfl rfl hw (R3.legal_of_ck hw)
  | resume h o => exact rA3_roundTrips rfl rfl hw (R3.legal_of_ckW_b hw)
  | absS h o | negS h o | not h o | popc h o | clz h o | ctz h o | brev h o | movZ h o | movS h o | kill h o =>
    exact rA2_roundTrips rfl rfl hw (R2.legal_of_ck hw)
  | bfree h o | bstat h o => exact rA2_roundTrips rfl rfl hw (R2.legal_of_ckA hw)
  | rnext h o => exact rA2_roundTrips rfl rfl hw (R2.legal_of_ckW hw)
  | addiZ h o m | addiS h o m => exact rI2_roundTrips rfl rfl hw (R2.legal_of_ck hw)
  | andi h o m | ori h o m | xori h o m | shli h o m | shri h o m | sari h o m | cmpiEq h o m | cmpiLtS h o m | cmpiLtZ h o m =>
    exact rB2_roundTrips rfl rfl hw (by decide) (R2.legal_of_ck hw)
  | cancel h o m | cancelClr h o m | waymask h o m => exact rB2_roundTrips rfl rfl hw (by decide) (R2.legal_of_ck hw.left)
  | bfxZ h o lsb len | bfxS h o lsb len | bfi h o lsb len => exact rBbf_roundTrips rfl rfl hw (R2.legal_of_ck hw.left)
  | sel h o => exact rC4_roundTrips rfl rfl hw (R4.legal_of_ck hw)
  | movi h d m  | loop h d m => exact rID_roundTrips rfl rfl hw (SliceOp.legal_of_ck hw)
  | call h d m => exact rID_roundTrips rfl rfl hw (SliceOp.legal_of_ckW hw)
  | movih h d m => exact rID_roundTrips rfl rfl hw (SliceOp.legal_of_ck hw.left)
  | vwset h v src => exact vwset_roundTrips hw
  | vwrd h d m => exact rBD_roundTrips rfl rfl hw (by decide) (SliceOp.legal_of_ck hw)
  | cres h d m | cabt h d m | pdel h d m | pen h d m | pdis h d m | prio h d m => exact rBD_roundTrips rfl rfl hw (by decide) (SliceOp.legal_of_ck hw)
  | csrr h d m => exact rBD_roundTrips rfl rfl hw (by decide) (SliceOp.legal_of_ck hw.left)
  | trap h a m => exact rBA_roundTrips rfl rfl hw (by decide) (SliceOp.legal_of_ck hw)
  | vadd h o | vdif h o | vmul h o | vmin h o | vmax h o => exact rL_roundTrips rfl rfl hw (L3.legal_of_int3 hw)
  | vmulh h o => exact rL_roundTrips rfl rfl hw (L3.legal_of_int3 hw.left)
  | vand h o | vor h o | vxor h o => exact rL_roundTrips rfl rfl hw (L3.legal_of_int3 hw.left.left)
  | vabs h o | vneg h o => exact rL_roundTrips rfl rfl hw (L3.legal_of_w2 hw.left.left.left)
  | vnot h o | vpopc h o => exact rL_roundTrips rfl rfl hw (L3.legal_of_w2 hw.left.left.left.left)
  | vshl h o | vshr h o | vsar h o => exact rL_roundTrips rfl rfl hw (L3.legal_of_w3 hw.left.left.left.left)
  | vsel h o => exact rL_roundTrips rfl rfl hw (L3.legal_of_w3 hw.left.left.left)
  | vmov h o | vexpd h o => exact rL_roundTrips rfl rfl hw (L3.legal_of_move2 hw)
  | vcmpr h o => exact rL_roundTrips rfl rfl hw (L3.legal_of_move2 hw.left)
  | fadd h o | fsub h o | fmul h o | ffma h o | fdiv h o => exact rL_roundTrips rfl rfl hw (L3.legal_of_fp3 hw)
  | fmin h o | fmax h o => exact rL_roundTrips rfl rfl hw (L3.legal_of_fp3 hw.left)
  | fsqrt h o => exact rL_roundTrips rfl rfl hw (L3.legal_of_fp2 hw)
  | fexp2T h o | fabs h o | fneg h o => exact rL_roundTrips rfl rfl hw (L3.legal_of_fp2 hw.left)
  | vperm h o =>
    have hops := hw.left.left
    exact rL_roundTrips rfl rfl hw ⟨ElemOp.legal_of_ckW hops.left.left, ElemOp.legal_of_ckW hops.left.right, ElemOp.legal_of_ck hops.right⟩
  | vbcast h o => exact rL_roundTrips rfl rfl hw (L3.legal_of_w2 hw.left.left)
  | vred h o => exact rL_roundTrips rfl rfl hw (L3.legal_of_w2 hw.left.left.left.left.left.left)
  | vscan h o => exact rL_roundTrips rfl rfl hw (L3.legal_of_w2 hw.left.left.left.left.left)
  | vcmp h o => exact rLm_roundTrips rfl rfl hw (LM.legal_of_w hw.left.left.left.left)
  | fcmp h o => exact rLm_roundTrips rfl rfl hw (LM.legal_of_w hw.left.left.left)
  | fcvtBf h o | fcvtF h o => exact rL_roundTrips rfl rfl hw (L3.legal_of_conv hw.left.left.left.left)
  | icvtF h o | fcvtI h o => exact rLg_roundTrips rfl rfl hw (L3.legal_of_conv hw.left.left)
  | qnt h o | dqnt h o => exact rLg_roundTrips rfl rfl hw (L3.legal_of_scaled hw.left.left.left.left)
  | bpack h o => exact rLg_roundTrips rfl rfl hw (L3.legal_of_conv hw.left.left.left)
  | bunpk h o => exact rLg_roundTrips rfl rfl hw (L3.legal_of_conv hw.left)
  | mand h d a b | mor h d a b | mxor h d a b => exact rAmmm_roundTrips rfl rfl hw
  | mnot h d a => exact rAmm_roundTrips rfl rfl hw
  | mset h d n => exact rBset_roundTrips rfl rfl hw
  | mtestAny h d a | mtestAll h d a | mpopc h d a | mfirst h d a => exact rADm_roundTrips rfl rfl hw (SliceOp.legal_of_ck hw)
  | nop h | exit h => exact rA0_roundTrips rfl rfl hw
  | nopW h => exact rIn_roundTrips rfl rfl hw
  | br h m => exact rIbr_roundTrips rfl rfl hw
  | bz h a m | bnz h a m => exact rIA_roundTrips rfl rfl hw (SliceOp.legal_of_ck hw)
  | capk h a m => exact rIA_roundTrips rfl rfl hw (SliceOp.legal_of_ck hw.left)
  | bmany h a m | bmnone h a m => exact rIm_roundTrips rfl rfl hw
  | ret h a => exact rAA_roundTrips rfl rfl hw (SliceOp.legal_of_ckW hw)
  | brx h a b => exact rAAB_roundTrips rfl rfl hw (SliceOp.legal_of_ckW hw.left) (SliceOp.legal_of_ck hw.right)
  | casc h o n dir => exact casc_roundTrips hw (R2.legal_of_ck hw.left)
  | cascx h => exact cascx_roundTrips hw
  | cascxStop h => exact cascxStop_roundTrips hw
  | cdis h d => exact rAD_roundTrips rfl rfl hw (SliceOp.legal_of_ck hw)
  | ldZ h o | ldS h o | st h o => exact rMt_roundTrips rfl rfl hw (MemF.legal_of_access hw.left) (MemF.tile_of_noScope hw.right)
  | ldAcqZ h o | ldAcqS h o | stRel h o => exact rM_roundTrips rfl rfl hw (MemF.legal_of_access hw)
  | pref h o =>
    have hplain := hw.left.left
    exact rMt_roundTrips rfl rfl hw (MemF.legal_of_plain hplain.left hplain.right (ElemOp.legal_of_ckNo hw.right)) (MemF.tile_of_noScope hw.left.right)
  | spill h o | fill h o => exact rMt_roundTrips rfl rfl hw (MemF.legal_of_nibble hw) (MemF.tile_of_noScope hw.left.right)
  | amo h o => exact rMt_roundTrips rfl rfl hw (MemF.legal_of_atomic hw.left) (MemF.tile_of_noScope hw.right)
  | amoAr h o => exact rM_roundTrips rfl rfl hw (MemF.legal_of_atomic hw)
  | amoAgg h o => exact rMt_roundTrips rfl rfl hw (MemF.legal_of_agg hw) (MemF.tile_of_noScope hw.left.left.left.right)
  | stashMap h o m => exact rC3_roundTrips rfl rfl hw (by decide) (R3.legal_of_ckW_a hw)
  | stashFlush h o | stashEvict h o | pinwait h o => exact rC3i_roundTrips rfl rfl hw (R3.legal_of_ckW_a hw)
  | fence h sc | fenceAll h sc => exact rBfence_roundTrips rfl rfl hw
  | wsig h o =>
    have hops := hw.left
    exact wsig_roundTrips hw (SliceOp.legal_of_ckW hops.left.left.left) (SliceOp.legal_of_ckW hops.left.left.right) (SliceOp.legal_of_ckW hops.left.right)
      (SliceOp.legal_of_ck hops.right)
  | ctpl h o m | tdef h o m | actl h o m => exact rC2_roundTrips rfl rfl hw (by decide) (R2.legal_of_ckA hw)
  | selftest h o m => exact rC2_roundTrips rfl rfl hw (by decide) (R2.legal_of_ck hw.left)
  | send h o m => exact rC2_roundTrips rfl rfl hw (by decide) (R2.legal_of_ckW hw.left)
  | cpy h o => exact cpy_roundTrips hw (SliceOp.legal_of_ckW hw.left.left) (SliceOp.legal_of_ckW hw.left.right) (SliceOp.legal_of_ckW hw.right)
  | cpyCmp h o m =>
    exact cpyCmp_roundTrips hw (SliceOp.legal_of_ckW hw.left.left) (SliceOp.legal_of_ckW hw.left.right) (SliceOp.legal_of_ckW hw.right)
  | cstat h d m => exact cstat_roundTrips hw (SliceOp.legal_of_ck hw)
  | cstatClr h d m => exact cstatClr_roundTrips hw (SliceOp.legal_of_ck hw)
  | sub h o tag ch => exact sub_roundTrips hw (R2.legal_of_ckA hw)
  | unsub h d tag => exact unsub_roundTrips hw (SliceOp.legal_of_ck hw)
  | mcrd h o tag n => exact mcrd_roundTrips hw (R3.legal_of hw)
  | bdef h o => exact rC2i_roundTrips rfl rfl hw (R2.legal_of_ckW hw)
  | sendc h o | arm h o => exact rC2i_roundTrips rfl rfl hw (R2.legal_of_ckW_d hw)
  | pdef h o => exact rC3i_roundTrips rfl rfl hw (R3.legal_of hw)
  | sendRel h o z sc | sendRelAll h o z sc => exact rCrel_roundTrips rfl rfl hw (R2.legal_of_ckW hw.left)
  | fork h o m n =>
    have hops := hw.left
    exact fork_roundTrips hw ⟨SliceOp.legal_of_ck hops.left.left.left, SliceOp.legal_of_ckW hops.left.left.right, SliceOp.legal_of_ckW hops.left.right,
      SliceOp.legal_of_ck hops.right⟩
  | husked h o => exact husked_roundTrips hw (R2.legal_of_ck hw)
  | gang h o => exact gang_roundTrips hw (R2.legal_of_ckA hw)
  | gangEnd h d => exact gangEnd_roundTrips hw (SliceOp.legal_of_ck hw)
  | mx h a => exact mx_roundTrips hw (ElemOp.legal_of_ckW hw)
  | mxqStatus h d => exact mxqStatus_roundTrips hw (SliceOp.legal_of_ck hw)
  | mxqResume h d => exact mxqResume_roundTrips hw (SliceOp.legal_of_ck hw)
  | mxqAbort h d => exact mxqAbort_roundTrips hw (SliceOp.legal_of_ck hw)
  | addw h o kind sg k =>
    have hops := hw.left
    have hb : o.b.Legal := by
      have hb := hops.left.right
      split at hb
      · exact SliceOp.legal_of_ck hb
      · exact SliceOp.legal_of_ckW hb
    have hc : o.c.Legal := by
      have hc := hops.right
      split at hc
      · exact SliceOp.legal_of_ckW hc
      · exact SliceOp.eq_nz_of_ckNo hc ▸ SliceOp.legal_nz
    exact addw_roundTrips hw ⟨SliceOp.legal_of_ck hops.left.left.left, SliceOp.legal_of_ckW hops.left.left.right, hb, hc⟩
  | crd h o bf => exact crd_roundTrips hw ⟨SliceOp.legal_of_ckW hw.left.left, SliceOp.legal_of_ckW hw.left.right, SliceOp.legal_of_ck hw.right⟩
  | cclr h o n => exact cclr_roundTrips hw (R2.legal_of_ckA hw)
  | xgo h o x | xsnap h o x => exact rChain_roundTrips rfl rfl hw (R2.legal_of_ckA hw)
  | xrepl h o x => exact xrepl_roundTrips hw (R3.legal_of_ckW_b hw)
  | mrgJoin h o tag x n =>
    have ha : o.a.Legal := by
      have ha := hw.left.right
      split at ha
      · exact SliceOp.eq_nz_of_ckNo ha ▸ SliceOp.legal_nz
      · exact SliceOp.legal_of_ckW ha
    exact mrgJoin_roundTrips hw ⟨SliceOp.legal_of_ck hw.left.left, ha⟩
  | mrgPut h o tag => exact mrgPut_roundTrips hw (R2.legal_of_ckA hw.left)
  | mrgLeave h d tag => exact mrgLeave_roundTrips hw (SliceOp.legal_of_ck hw.left)
  | csrw h a r => exact csrw_roundTrips hw
  | ringrtyWrite h a => exact ringrtyWrite_roundTrips hw
  | savectlWrite h a => exact savectlWrite_roundTrips hw
  | dqspillWrite h a => exact dqspillWrite_roundTrips hw
  | tlbinv h o sc => exact rC3_roundTrips rfl rfl hw (by decide) (R3.legal_of_ckW_a hw.left)
  | nestMov h o | nestRsum h o | nestRmax h o | nestRmin h o => exact rN1_roundTrips rfl rfl hw (NestF.no_second_of_ck1 hw)
  | nestAdd h o | nestSub h o | nestMul h o | nestMin h o | nestMax h o | nestMacc h o => exact rN2_roundTrips rfl rfl hw (NestF.second_of_ck2 hw)
  | _ => cases he

/-- Settles O59: each row of the opcode map reads the word that its instruction's encoder makes back to the instruction. -/
theorem roundTrip : Obligations.RoundTrip := fun _ he hwf => Instr.roundTrips he hwf

end Sys2Proof
end

section
/-!
SUPPORT and PROOFS. Whose turn it is after a step, and O60, O12, O58 of these.
-/

namespace Sys2Proof.Machine

/-! ### The turn passes to the machine or to a running jet -/

theorem State.turnOk_of_scan {s : State} (h : s.turn = .scan) : s.turnOk = true := by rw [State.turnOk, h]

/-- A turn that is passed on is the machine's, or one that a running jet can take. -/
theorem State.passOn_turnOk (s : State) : s.passOn.turnOk = true := by
  unfold State.passOn
  split
  · assumption
  · rfl

/-- After an event the turn is passed on. -/
theorem State.happened_turnOk {o : Out} (h : ∃ t, o = .next t) : ∃ t, State.happened o = .next t ∧ t.turnOk = true := by
  obtain ⟨t, rfl⟩ := h
  exact ⟨t.passOn, rfl, t.passOn_turnOk⟩

/-- After a jet's instruction the turn is the machine's. -/
theorem State.issued_turnOk (s : State) (t j : Nat) (i : Instr) {o : Out} (h : ∃ t, o = .next t) :
    ∃ u, s.issued t j i o = .next u ∧ u.turnOk = true := by
  obtain ⟨u, rfl⟩ := h
  exact ⟨_, rfl, rfl⟩

/-- After a forwarded instruction the turn is the machine's. -/
theorem State.followed_turnOk (t j : Nat) (pc : BitVec 64) (differs : Bool) {o : Out} (h : ∃ t, o = .next t) :
    ∃ u, State.followed t j pc differs o = .next u ∧ u.turnOk = true := by
  obtain ⟨u, rfl⟩ := h
  exact ⟨_, rfl, rfl⟩

/-- A fetch fault traps its jet, and the turn is the machine's. -/
theorem State.fetchFault_turnOk (s : State) (t j : Nat) (f : Flt) : (s.fetchFault t j f).turnOk = true := rfl

/-- The step of a running jet: what is fetched decides it, and every way on leaves the turn to the machine. -/
theorem step_jet_turnOk {s : State} {t j : Nat} (hturn : s.turn = .jet t j) (hrun : (s.jet t j).status = .running) :
    ∃ u, step s = .next u ∧ u.turnOk = true := by
  simp only [step, hturn, hrun, if_true]
  split
  · exact ⟨_, rfl, s.fetchFault_turnOk t j _⟩
  · exact ⟨_, rfl, rfl⟩
  · exact s.issued_turnOk t j _ (exec_next _ _)

/-- The machine's step: an event, a unit that is ready, or the passing of time. -/
theorem step_scan_turnOk {s : State} (hturn : s.turn = .scan) : ∃ u, step s = .next u ∧ u.turnOk = true := by
  simp only [step, hturn]
  split
  · exact State.happened_turnOk (exec_next _ _)
  · split
    · exact State.happened_turnOk (exec_next _ _)
    · exact ⟨_, rfl, State.passOn_turnOk _⟩

/-- A step of a live state answers a live state. -/
theorem step_turnOk {s : State} (h : s.turnOk = true) : ∃ t, step s = .next t ∧ t.turnOk = true := by
  cases hturn : s.turn with
  | scan => exact step_scan_turnOk hturn
  | jet t j =>
    simp only [State.turnOk, hturn, beq_iff_eq] at h
    exact step_jet_turnOk hturn h
  | forward t j i pc out =>
    simp only [State.turnOk, hturn, beq_iff_eq] at h
    simp only [step, hturn, h, if_true]
    exact State.followed_turnOk t j pc _ (exec_next _ _)

/-- A run of one step more is a step and the run from its state. -/
theorem core_run_succ {s t : State} (k : Nat) (h : step s = .next t) : core.run (k + 1) s = core.run k t := by
  have hstep : core.step s = .next t := h
  refine (Host.Core.run.eq_2 core s k).trans ?_
  rw [hstep]

/-- A live state runs for ever: its steps, one after another. -/
theorem State.runs_of_turnOk {s : State} (h : s.turnOk = true) : s.Runs := by
  intro k
  induction k generalizing s with
  | zero => exact ⟨s, rfl⟩
  | succ k ih =>
    obtain ⟨t, ht, hok⟩ := step_turnOk h
    obtain ⟨u, hu⟩ := ih hok
    exact ⟨u, (core_run_succ k ht).trans hu⟩

/-- The jet whose code is placed runs. -/
theorem Tile.placeCode_running (x : Tile) (j w : Nat) : ((x.placeCode j w).jet j).status = .running := by
  simp [Tile.placeCode, Tile.setJet, Tile.jet]

/-- A state that is to run an instruction is live: its jet runs. -/
theorem State.withFetchWord_turnOk (s : State) (nbits w : Nat) : (s.withFetchWord nbits w).turnOk = true := by
  have hrun : ((s.withFetchWord nbits w).jet s.curTile s.curSlot).status = .running := by
    simp only [State.withFetchWord, State.jet, State.tile_modTile_same]
    exact Tile.placeCode_running _ _ _
  have hturn : (s.withFetchWord nbits w).turn = .jet s.curTile s.curSlot := rfl
  simp only [State.turnOk, hturn, hrun, beq_self_eq_true]

/-- Settles O60: every instruction and event answers a next state, and every step passes the turn on to the machine or to a running jet. -/
theorem neverStops : Obligations.NeverStops :=
  ⟨fun _ => step_turnOk, fun _ => State.runs_of_turnOk, State.runs_of_turnOk rfl, exec_next, State.withFetchWord_turnOk⟩

/-- Settles O12: the tail word of a block is stepped over (R26). -/
theorem nextAddress : Obligations.NextAddress := by
  intro a len n
  have hnext : nextPc a len = if n.toNat % 32 = 28 then n + 4 else n := rfl
  refine ⟨fun htail => ?_, fun hbody => by rw [hnext, if_neg hbody]⟩
  rw [hnext, if_pos htail]
  refine ⟨rfl, ?_⟩
  rw [BitVec.toNat_add]
  have hfour : (4 : BitVec 64).toNat = 4 := rfl
  omega

/-! ### What is fetched -/

/-- A program counter that may be fetched from: the jet begins at no fault, and its address is aligned and no tail word (R25, R28). -/
structure Jet.Fetchable (j : Jet) : Prop where
  start : j.start = none
  aligned : j.pc.toNat % 4 = 0
  body : j.pc.toNat % 32 ≠ 28

/-- The bytes of the instruction at a jet's program counter, in its line. -/
def ILine.size (l : ILine) (j : Jet) : Nat := lenBytes (fld (l.bytes j.pc 2) 0 2)

theorem Tile.fetch_misaligned {x : Tile} {j : Jet} (h : j.pc.toNat % 4 ≠ 0) : x.fetch j = .fault { cause := 2, addr := j.pc.toNat } := by
  have hbits : (fld j.pc.toNat 0 2 != 0) = true := by simpa [fld] using h
  simp [Tile.fetch, hbits]

theorem Tile.fetch_miss {x : Tile} {j : Jet} (hj : j.Fetchable) (h : x.iline j.pc = none) : x.fetch j = .miss := by
  simp [Tile.fetch, hj.start, fld, hj.aligned, hj.body, h]

/-- An instruction that would pass the end of its block is a fault (R25). -/
theorem Tile.fetch_passes_end {x : Tile} {j : Jet} {l : ILine} (hj : j.Fetchable) (h : x.iline j.pc = some l)
    (hend : 32 < j.pc.toNat % 32 + l.size j) : x.fetch j = .fault { cause := 2, addr := j.pc.toNat } := by
  rw [ILine.size] at hend
  simp [Tile.fetch, hj.start, hj.body, h, hend, show fld j.pc.toNat 0 2 = 0 by simpa [fld] using hj.aligned]

/-- Otherwise the decoder says what is fetched (R42). -/
theorem Tile.fetch_line {x : Tile} {j : Jet} {l : ILine} (hj : j.Fetchable) (h : x.iline j.pc = some l) (hend : j.pc.toNat % 32 + l.size j ≤ 32) :
    x.fetch j = match decode (l.bytes j.pc (l.size j)) with
      | .error c => .fault { cause := 1, info := c, sub := c }
      | .ok i => .instr i := by
  rw [ILine.size] at *
  simp [Tile.fetch, hj.start, hj.body, h, Nat.not_lt.mpr hend, show fld j.pc.toNat 0 2 = 0 by simpa [fld] using hj.aligned] <;> rfl

theorem step_of_instr {s : State} {n k : Nat} {i : Instr} (hturn : s.turn = .jet n k) (hrun : (s.jet n k).status = .running)
    (hf : (s.tile n).fetch (s.jet n k) = .instr i) : step s = s.issued n k i (exec i { s with curTile := n, curSlot := k }) := by
  simp only [step, hturn, hrun, if_true, hf]

theorem step_of_fault {s : State} {n k : Nat} {f : Flt} (hturn : s.turn = .jet n k) (hrun : (s.jet n k).status = .running)
    (hf : (s.tile n).fetch (s.jet n k) = .fault f) : step s = .next (s.fetchFault n k f) := by
  simp only [step, hturn, hrun, if_true, hf]

theorem step_of_miss {s : State} {n k : Nat} (hturn : s.turn = .jet n k) (hrun : (s.jet n k).status = .running)
    (hf : (s.tile n).fetch (s.jet n k) = .miss) : step s = .next { s with turn := .scan } := by
  simp only [step, hturn, hrun, if_true, hf]

theorem step_of_forward {s : State} {n k : Nat} {i : Instr} {pc : BitVec 64} {out : Nat} (hturn : s.turn = .forward n k i pc out)
    (hrun : (s.jet n k).status = .running) :
    step s = State.followed n k pc ((s.jet n k).outcomeOf i != out) (exec i { s with curTile := n, curSlot := k }) := by
  unfold step
  rw [hturn]
  exact if_pos hrun

/-- No jet but a leader passes its instructions on (R99). -/
theorem State.relay_of_not_leader {s t : State} {n k : Nat} (i : Instr) (h : ∀ d m, (s.jet n k).casc ≠ .leader d m) : s.relay t n k i = t := by
  unfold State.relay
  split
  · next d m hc => exact absurd hc (h d m)
  · rfl

/-! ### Code that is placed -/

/-- The program counter of placed code: the block of the jet's own. -/
def Jet.blockPc (j : Jet) : BitVec 64 := BitVec.ofNat 64 (j.pc.toNat / 32 * 32)

theorem Jet.blockPc_toNat (j : Jet) : j.blockPc.toNat = j.pc.toNat / 32 * 32 := by
  have := j.pc.isLt
  rw [Jet.blockPc, BitVec.toNat_ofNat, Nat.mod_eq_of_lt]
  omega

/-- A field of 32 bytes or fewer that stands in a number at a place, with other bits below and above it, reads back. -/
theorem fld_placed (old w p n : Nat) (hn : n ≤ 256) :
    fld (old % 2 ^ p + w % 2 ^ 256 * 2 ^ p + old / 2 ^ (p + 256) * 2 ^ (p + 256)) p n = w % 2 ^ n := by
  have hlow : old % 2 ^ p < 2 ^ p := Nat.mod_lt _ (Nat.two_pow_pos p)
  have hsplit : old % 2 ^ p + w % 2 ^ 256 * 2 ^ p + old / 2 ^ (p + 256) * 2 ^ (p + 256) =
      old % 2 ^ p + 2 ^ p * (w % 2 ^ 256 + 2 ^ 256 * (old / 2 ^ (p + 256))) := by
    rw [Nat.pow_add]
    ring
  have hdvd : 2 ^ n ∣ 2 ^ 256 := Nat.pow_dvd_pow 2 hn
  rw [fld, hsplit, Nat.add_mul_div_left _ _ (Nat.two_pow_pos p), Nat.div_eq_of_lt hlow, Nat.zero_add, Nat.add_mod,
    Nat.mod_eq_zero_of_dvd (hdvd.mul_right _), Nat.add_zero, Nat.mod_mod, Nat.mod_mod_of_dvd _ hdvd]

/-- Where code is placed, its line is cached and its jet, running at the block's start, reads it from there. -/
theorem Tile.placeCode_line (x : Tile) (j w : Nat) :
    ((x.placeCode j w).jet j).pc = (x.jet j).blockPc ∧ ((x.placeCode j w).jet j).Fetchable ∧
      ∃ l, (x.placeCode j w).iline (x.jet j).blockPc = some l ∧ ∀ n, n ≤ 32 → l.bytes (x.jet j).blockPc n = w % 2 ^ (8 * n) := by
  have hjet : (x.placeCode j w).jet j =
      { x.jet j with status := .running, pc := (x.jet j).blockPc, start := none, grans := if (x.jet j).grans = 0 then 128 else (x.jet j).grans } := by
    simp [Tile.placeCode, Tile.setJet, Tile.jet, Jet.blockPc]
  have hpc := (x.jet j).blockPc_toNat
  refine ⟨by rw [hjet], ⟨by rw [hjet], ?_, ?_⟩, ?_⟩
  · rw [hjet]
    show (x.jet j).blockPc.toNat % 4 = 0
    omega
  · rw [hjet]
    show (x.jet j).blockPc.toNat % 32 ≠ 28
    omega
  · refine ⟨⟨lineOf (x.jet j).blockPc, _⟩, List.find?_cons_of_pos (beq_self_eq_true _), fun n hn => ?_⟩
    exact fld_placed _ w _ (8 * n) (by omega)

/-- What a state that is to run a word fetches is what the word decodes to (log 2). -/
theorem State.withFetchWord_fetch {s : State} {nbits w : Nat} {i : Instr} (hn : nbits = 8 * lenBytes (fld w 0 2))
    (hd : decodeTableWord nbits w = some i) :
    let u := s.withFetchWord nbits w
    (u.tile s.curTile).fetch (u.jet s.curTile s.curSlot) = .instr i := by
  intro u
  have htile : u.tile s.curTile = (s.tile s.curTile).placeCode s.curSlot (w % 2 ^ nbits) := State.tile_modTile_same _ _ _
  rw [State.jet, htile]
  obtain ⟨hpc, hfetch, l, hl, hbytes⟩ := (s.tile s.curTile).placeCode_line s.curSlot (w % 2 ^ nbits)
  generalize (s.tile s.curTile).placeCode s.curSlot (w % 2 ^ nbits) = x at *
  rw [← hpc] at hl hbytes
  have hlen : 8 ≤ lenBytes (fld w 0 2) ∧ lenBytes (fld w 0 2) ≤ 32 := by
    unfold lenBytes
    split_ifs <;> decide
  have hcode : fld (w % 2 ^ nbits % 2 ^ 16) 0 2 = fld w 0 2 := by
    have h16 : 2 ^ 16 ∣ 2 ^ nbits := Nat.pow_dvd_pow 2 (by omega)
    rw [Nat.mod_mod_of_dvd _ h16]
    simp only [fld]
    omega
  have hsize : l.size (x.jet s.curSlot) = lenBytes (fld w 0 2) := by rw [ILine.size, hbytes 2 (by omega), hcode]
  have hword : l.bytes (x.jet s.curSlot).pc (l.size (x.jet s.curSlot)) = w % 2 ^ nbits := by
    rw [hsize, hbytes _ hlen.2, ← hn, Nat.mod_mod]
  have hblock : (x.jet s.curSlot).pc.toNat % 32 = 0 := by
    rw [hpc, Jet.blockPc_toNat]
    omega
  have hok : decode (w % 2 ^ nbits) = .ok i := by
    unfold decodeTableWord at hd
    split at hd
    · next hdec => rw [hdec, Option.some.inj hd]
    · cases hd
  rw [Tile.fetch_line hfetch hl (by omega), hword, hok]

/-- Settles O56: what stands at the program counter decides the step, and code that is placed is what is fetched. -/
theorem stepRunsDecoded : Obligations.StepRunsDecoded := by
  intro s n k j x at_ turn entered size traps
  refine ⟨?runs, fun t i => State.relay_of_not_leader i, ?refused, ?end_, ?misaligned, ?forward, ?miss, ?placed⟩
  case runs =>
    rintro l i t ⟨⟨hturn, hrun⟩, hstart, halign, hbody⟩ hl hend hd he
    have hf : x.fetch j = .instr i := by
      rw [Tile.fetch_line ⟨hstart, halign, hbody⟩ hl hend, show decode (l.bytes j.pc (l.size j)) = .ok i from hd]
    rw [step_of_instr hturn hrun hf]
    rw [show exec i { s with curTile := n, curSlot := k } = .next t from he]
    rfl
  case refused =>
    rintro l c ⟨⟨hturn, hrun⟩, hstart, halign, hbody⟩ hl hend hd
    have hf : x.fetch j = .fault { cause := 1, info := c, sub := c } := by
      rw [Tile.fetch_line ⟨hstart, halign, hbody⟩ hl hend, show decode (l.bytes j.pc (l.size j)) = .error c from hd]
    exact step_of_fault hturn hrun hf
  case end_ =>
    rintro l ⟨⟨hturn, hrun⟩, hstart, halign, hbody⟩ hl hend
    exact step_of_fault hturn hrun (Tile.fetch_passes_end ⟨hstart, halign, hbody⟩ hl hend)
  case misaligned =>
    rintro ⟨hturn, hrun⟩ halign
    exact step_of_fault hturn hrun (Tile.fetch_misaligned halign)
  case forward =>
    intro i pc out t hturn hrun he
    rw [step_of_forward hturn hrun, show exec i { s with curTile := n, curSlot := k } = .next t from he]
    rfl
  case miss =>
    rintro ⟨⟨hturn, hrun⟩, hstart, halign, hbody⟩ hl
    exact step_of_miss hturn hrun (Tile.fetch_miss ⟨hstart, halign, hbody⟩ hl)
  case placed =>
    intro nbits w i hn hd u
    have hrun : (u.jet s.curTile s.curSlot).status = .running := by
      simp only [u, State.withFetchWord, State.jet, State.tile_modTile_same]
      exact Tile.placeCode_running _ _ _
    exact step_of_instr rfl hrun (State.withFetchWord_fetch hn hd)

/-! ### Words of the spec, and the state after reset -/

/-- Settles O57: the decoder computes each of them. -/
theorem decodeWords : Obligations.DecodeWords := by
  refine ⟨?_, ?_, ?_, ?_, ?_, ?_, ?_, ?_, ?_, ?_, ?_, ?_, ?_, ?_, ?_, ?_, ?_, ?_, ?_, ?_, ?_, ?_, ?_, ?_, ?_⟩ <;> rfl

/-- Settles O58: every tile, die and chain is the default of its table, which reset has not written. -/
theorem resetState : Obligations.ResetState :=
  ⟨rfl, State.reset_mem_wf, rfl, rfl, rfl, rfl, rfl, rfl,
    fun _ => ⟨State.reset_mem_wf, fun _ => rfl, fun _ => rfl, rfl, rfl, fun _ => rfl, rfl, rfl, rfl, rfl, rfl, rfl, rfl, rfl⟩, fun _ => ⟨rfl, rfl⟩, fun _ => ⟨rfl, rfl⟩⟩

end Sys2Proof.Machine
end

section
/-!
SUPPORT and PROOFS. What the scalar instructions compute, as the numbers and bits of their sources, and O1 to O4 of these.
-/

namespace Sys2Proof

/-! ### Sources and truncation -/

/-- A source taken as an unsigned number is no less than 0 (R65). -/
theorem SliceOp.src_unsigned_nonneg (o : SliceOp) (f : Machine.Frame) (w : Nat) : 0 ≤ o.src f false w := Int.natCast_nonneg _

/-- A source taken as an unsigned number is less than 2 ^ (4 · w) (R65). -/
theorem SliceOp.src_unsigned_lt (o : SliceOp) (f : Machine.Frame) (w : Nat) : (o.src f false w).toNat < 2 ^ (4 * w) :=
  lt_of_lt_of_le (Nat.mod_lt _ (by positivity)) (Nat.pow_le_pow_right (by decide) (by omega))

/-- An unsigned source is the number it is read as. -/
theorem SliceOp.src_unsigned_toNat (o : SliceOp) (f : Machine.Frame) (w : Nat) : ((o.src f false w).toNat : Int) = o.src f false w :=
  Int.toNat_of_nonneg (o.src_unsigned_nonneg f w)

/-- A slice operand has a slice at least. -/
theorem SliceOp.width_pos (o : SliceOp) : 0 < o.width := by
  cases o with
  | nz => decide
  | sl => exact Nat.succ_pos _

/-- A truncated value fits. -/
theorem trunc_lt (v : Int) (n : Nat) : trunc v n < 2 ^ n := by
  have hpos : (0 : Int) < (2 ^ n : Nat) := by positivity
  have := Int.emod_lt_of_pos v hpos
  have := Int.emod_nonneg v hpos.ne'
  unfold trunc
  omega

/-- A number that fits is not changed by truncation. -/
theorem trunc_of_lt {v n : Nat} (h : v < 2 ^ n) : trunc (v : Int) n = v := by rw [trunc_natCast, Nat.mod_eq_of_lt h]

/-! ### Latencies -/

section
open Machine

theorem R3.foot_latency (o : R3) (lat : Nat) : (R3.foot o lat).latency = lat + b2n (o.a.crosses || o.b.crosses) := by
  simp [R3.foot, footS, Foot.latency]

theorem R3.footShift_latency (o : R3) : (R3.footShift o).latency = 1 + b2n (o.a.crosses || o.b.crosses) := by
  simp [R3.footShift, footS, Foot.latency]

theorem R3.footCmp_latency (o : R3) : (R3.footCmp o).latency = 1 + b2n (o.a.crosses || o.b.crosses) := by
  simp [R3.footCmp, footS, Foot.latency]

theorem R2.foot_latency (o : R2) : (R2.foot o 1).latency = 1 + b2n o.a.crosses := by
  simp [R2.foot, footS, Foot.latency]

theorem R2.footOwn_latency (o : R2) : (R2.footOwn o).latency = 1 + b2n o.a.crosses := by
  simp [R2.footOwn, footS, Foot.latency]

theorem R2.footBfi_latency (o : R2) : (R2.footBfi o).latency = 1 + b2n (o.d.crosses || o.a.crosses) := by
  simp [R2.footBfi, footS, Foot.latency]

theorem R4.footSel_latency (o : R4) : (R4.footSel o).latency = 1 + b2n (o.a.crosses || o.b.crosses || o.c.crosses) := by
  simp [R4.footSel, footS, Foot.latency, Bool.or_assoc]

theorem footS_self_latency (d : SliceOp) : (footS d [d] [] 1).latency = 1 + b2n d.crosses := by
  simp [footS, Foot.latency]

end

end Sys2Proof

namespace Sys2Proof.Machine

/-! ### What issuing a scalar instruction does -/

/-- Where its checks pass, an instruction of one result owes it, cut to D's width, and has no other effect (R34, R65). -/
theorem State.result_completes {i : Instr} {s : State} {h : Hdr} {len lat : Nat} {fp : Foot} {d : SliceOp} {v v' : Int}
    (hf : footOf i s = fp) (he : exec i s = s.result h len fp d v) (hlat : fp.latency = lat) (hv : v = v') : s.admits i = true →
    ∃ t, exec i s = .next t ∧ Result s t h len id lat (d.put (trunc v' (4 * d.width))) 0 := by
  subst hf hlat hv
  exact State.owe_completes he

/-- A result is owed, the tile's divider is taken, and the jet goes on (R74). -/
theorem State.owe_divBusy_result (s : State) (h : Hdr) (len lat busy : Nat) (w : Write) (fl : BitVec 5) :
    Result s (((s.owe lat w fl).modHere fun x => { x with divBusy := busy }).advance h len) h len (fun x => { x with divBusy := busy }) lat w fl := by
  refine Issued.of_tiles (fun _ => rfl) ?_
  simp [State.tilesWith, State.advance, State.owe, State.modHere_tiles, State.modCur_tiles, State.tile, State.here, State.cur_eq, Jet.stepped,
    Jet.behind, withEvents, State.evt, State.fixedOwed, State.after, State.at_, State.tc, Tile.setJet, Tile.jet]

/-- Where its checks pass, a division owes its result after 18 tc and takes the tile's divider (R74). -/
theorem State.divide_completes {i : Instr} {s : State} {h : Hdr} {o : R3} {signed : Bool} {f : Int → Int → Int} {v : Int}
    (hf : footOf i s = R3.foot o 18) (he : exec i s = s.divide h o signed f)
    (hv : f (o.a.src s.cur.frame signed o.d.width) (o.b.src s.cur.frame signed o.d.width) = v) : s.admits i = true →
    ∃ t, exec i s = .next t ∧ Result s t h 8 (fun x => { x with divBusy := s.tc + 18 }) (18 + b2n (o.a.crosses || o.b.crosses))
      (o.d.put (trunc v (4 * o.d.width))) 0 := by
  subst hv
  refine State.completes (by rw [hf, he]; rfl) ?_
  rw [← R3.foot_latency]
  exact s.owe_divBusy_result h 8 _ _ _ 0

/-! ### Arithmetic (R73) -/

/-- The remainder of R73 is that of division toward zero. -/
theorem rem_eq (a b : Int) : rem a b = if b = 0 then a else a.tmod b := by
  rw [rem, Int.tmod_def]

theorem quot_of_nonneg {a : Int} (b : Int) (ha : 0 ≤ a) : quot a b = if b = 0 then -1 else a / b := by
  rw [quot, Int.tdiv_eq_ediv_of_nonneg ha]

theorem rem_of_nonneg {a : Int} (b : Int) (ha : 0 ≤ a) : rem a b = if b = 0 then a else a % b := by
  rw [rem_eq, Int.tmod_eq_emod_of_nonneg ha]

/-- A number is negated where it is less than 0: its absolute value. -/
theorem ite_neg_eq_abs (a : Int) : (if a < 0 then -a else a) = |a| := by
  split
  · exact (abs_of_neg ‹_›).symm
  · exact (abs_of_nonneg (not_lt.mp ‹_›)).symm

/-- Settles O1: each arithmetic instruction owes one result, whose value is the exact one. -/
theorem scalarArithmetic : Obligations.ScalarArithmetic := by
  unfold Obligations.ScalarArithmetic
  intro h o p imm s
  have ha := o.a.src_unsigned_nonneg s.cur.frame o.d.width
  have hlat := R3.foot_latency o
  have hlat2 := R2.foot_latency p
  refine ⟨State.result_completes rfl rfl (hlat 1) rfl, State.result_completes rfl rfl (hlat 1) rfl,
    State.result_completes rfl rfl (hlat 1) rfl, State.result_completes rfl rfl (hlat 1) rfl,
    State.result_completes rfl rfl (hlat 3) rfl, State.result_completes rfl rfl (hlat 3) rfl,
    State.result_completes rfl rfl (hlat 3) ?mulhZ, State.result_completes rfl rfl (hlat 3) ?mulhS,
    State.result_completes rfl rfl (hlat 1) ?minZ, State.result_completes rfl rfl (hlat 1) ?minS,
    State.result_completes rfl rfl (hlat 1) ?maxZ, State.result_completes rfl rfl (hlat 1) ?maxS,
    State.divide_completes rfl rfl (quot_of_nonneg _ ha), State.divide_completes rfl rfl rfl,
    State.divide_completes rfl rfl (rem_of_nonneg _ ha), State.divide_completes rfl rfl (rem_eq _ _),
    State.result_completes rfl rfl hlat2 rfl, State.result_completes rfl rfl hlat2 rfl,
    State.result_completes rfl rfl hlat2 ?absS, State.result_completes rfl rfl hlat2 rfl⟩
  case mulhZ | mulhS => exact congrArg (_ / ·) (Nat.cast_pow 2 _)
  case minZ | minS => exact (min_def _ _).symm
  case maxZ | maxS => exact (max_def' _ _).symm
  case absS => exact ite_neg_eq_abs _

/-! ### Logic and shifts (R75) -/

/-- All ones but the bits of a number that fits. -/
theorem notN_of_lt {n b : Nat} (h : b < 2 ^ n) : notN n b = 2 ^ n - 1 - b := by rw [notN, Nat.mod_eq_of_lt h]

theorem shlF_natCast (n a k : Nat) : shlF n a k = if n ≤ k then 0 else ((a * 2 ^ k : Nat) : Int) := by
  rw [shlF, Nat.cast_mul]

theorem shrF_natCast (n a k : Nat) : shrF n a k = if n ≤ k then 0 else ((a / 2 ^ k : Nat) : Int) := by
  rw [shrF, Int.natCast_div]

theorem sarF_eq (n : Nat) (a : Int) (k : Nat) : sarF n a k = if n ≤ k then (if a < 0 then -1 else 0) else a / 2 ^ k := by
  rw [sarF, Nat.cast_pow, Nat.cast_ofNat]

theorem rolF_natCast (n a k : Nat) : rolF n a k = ((a * 2 ^ (k % n) + a / 2 ^ (n - k % n) : Nat) : Int) := by
  rw [rolF, Nat.cast_add, Nat.cast_mul, Int.natCast_div]

/-- Settles O2: each logic instruction and shift owes one result, whose value is R75's. -/
theorem scalarLogic : Obligations.ScalarLogic := by
  unfold Obligations.ScalarLogic
  intro h o p imm c s
  have haz := o.a.src_unsigned_toNat s.cur.frame o.d.width
  have hpz := p.a.src_unsigned_toNat s.cur.frame p.d.width
  have hlat := R3.foot_latency o 1
  have hshift := R3.footShift_latency o
  have hlat2 := R2.foot_latency p
  refine ⟨State.result_completes rfl rfl hlat rfl, State.result_completes rfl rfl hlat rfl, State.result_completes rfl rfl hlat rfl,
    State.result_completes rfl rfl hlat ?andn,
    State.result_completes rfl rfl hshift ?shl, State.result_completes rfl rfl hshift ?shr,
    State.result_completes rfl rfl hshift (sarF_eq _ _ _), State.result_completes rfl rfl hshift ?rol,
    State.result_completes rfl rfl hlat2 ?not,
    State.result_completes rfl rfl hlat2 rfl, State.result_completes rfl rfl hlat2 rfl, State.result_completes rfl rfl hlat2 rfl,
    State.result_completes rfl rfl hlat2 ?shli, State.result_completes rfl rfl hlat2 ?shri, State.result_completes rfl rfl hlat2 (sarF_eq _ _ _)⟩
  case andn => exact congrArg (fun x => ((_ &&& x : Nat) : Int)) (notN_of_lt (o.b.src_unsigned_lt _ _))
  case not => exact congrArg Nat.cast (notN_of_lt (p.a.src_unsigned_lt _ _))
  case shl => rw [← shlF_natCast, haz]
  case shr => rw [← shrF_natCast, haz]
  case rol => rw [← rolF_natCast, haz]
  case shli => rw [← shlF_natCast, hpz]
  case shri => rw [← shrF_natCast, hpz]

/-! ### Bit fields and counts (R76) -/

/-- Bit `k` of a number in which a field is replaced. -/
theorem testBit_insertBits (old v lsb n k : Nat) :
    (insertBits old v lsb n).testBit k = if lsb ≤ k ∧ k < lsb + n then v.testBit (k - lsb) else old.testBit k := by
  have hlow : old % 2 ^ lsb < 2 ^ lsb := Nat.mod_lt _ (by positivity)
  have hfield : v % 2 ^ n < 2 ^ n := Nat.mod_lt _ (by positivity)
  have hform : insertBits old v lsb n = 2 ^ lsb * (2 ^ n * (old / 2 ^ (lsb + n)) + v % 2 ^ n) + old % 2 ^ lsb := by
    rw [insertBits, Nat.pow_add]
    ring
  rw [hform, Nat.testBit_two_pow_mul_add _ hlow, Nat.testBit_mod_two_pow]
  split
  · next hk => simp [hk, Nat.not_le.mpr hk]
  · next hk =>
    rw [Nat.testBit_two_pow_mul_add _ hfield, Nat.testBit_mod_two_pow, Nat.testBit_div_two_pow]
    split
    · next hn =>
      rw [if_pos (by omega)]
      simp [hn]
    · next hn =>
      rw [if_neg (by omega)]
      congr 1
      omega

/-- The reversed bits are no more than the bits. -/
theorem revBits_lt (n x : Nat) : revBits n x < 2 ^ n := by
  induction n generalizing x with
  | zero => exact Nat.one_pos
  | succ n ih =>
    have hrest := ih (x / 2)
    rw [revBits, Nat.pow_succ]
    rcases Nat.mod_two_eq_zero_or_one x with h | h <;> rw [h] <;> omega

/-- Bit `k` of the reversed bits. -/
theorem testBit_revBits {n k : Nat} (x : Nat) (hk : k < n) : (revBits n x).testBit k = x.testBit (n - 1 - k) := by
  induction n generalizing x with
  | zero => cases hk
  | succ n ih =>
    rw [revBits, Nat.mul_comm, Nat.testBit_two_pow_mul_add _ (revBits_lt n _)]
    split
    · next hlt =>
      rw [ih _ hlt, show n + 1 - 1 - k = (n - 1 - k) + 1 by omega, Nat.testBit_succ]
    · next hge =>
      rw [show k - n = 0 by omega, show n + 1 - 1 - k = 0 by omega]
      simp [Nat.testBit_zero]

theorem clzBits_le (n x : Nat) : clzBits n x ≤ n := by
  rw [clzBits]
  split <;> omega

/-- Where the low `n` bits are not all 0, their highest 1 stands below the zeros that are counted. -/
theorem clzBits_eq {n x : Nat} (h : x % 2 ^ n ≠ 0) : clzBits n x < n ∧ n - 1 - clzBits n x = Nat.log2 (x % 2 ^ n) := by
  have hlog : Nat.log2 (x % 2 ^ n) < n := (Nat.log2_lt h).mpr (Nat.mod_lt _ (by positivity))
  rw [clzBits, if_neg h]
  omega

/-- The bits that `clz` counts are 0. -/
theorem testBit_of_le_clzBits {n x k : Nat} (hlow : n - clzBits n x ≤ k) (hk : k < n) : x.testBit k = false := by
  have hmod : (x % 2 ^ n).testBit k = x.testBit k := by rw [Nat.testBit_mod_two_pow, decide_eq_true hk, Bool.true_and]
  rw [← hmod]
  by_cases h : x % 2 ^ n = 0
  · rw [h, Nat.zero_testBit]
  · obtain ⟨hlt, hlog⟩ := clzBits_eq h
    exact Nat.testBit_lt_two_pow ((Nat.log2_lt h).mp (by omega))

/-- The bit below those that `clz` counts is 1. -/
theorem testBit_clzBits {n x : Nat} (h : clzBits n x < n) : x.testBit (n - 1 - clzBits n x) = true := by
  have hne : x % 2 ^ n ≠ 0 := by
    intro h0
    rw [clzBits, if_pos h0] at h
    omega
  obtain ⟨-, hlog⟩ := clzBits_eq hne
  have hbit := Nat.testBit_log2 hne
  rw [Nat.testBit_mod_two_pow, Bool.and_eq_true] at hbit
  rw [hlog]
  exact hbit.2

/-- The signed reading of a field of `n + 1` bits (R9). -/
theorem sext_succ_of_lt {x n : Nat} (hx : x < 2 ^ (n + 1)) : sext x (n + 1) = if x < 2 ^ n then (x : Int) else (x : Int) - 2 ^ (n + 1) := by
  rw [sext, if_neg (Nat.succ_ne_zero n), Nat.mod_eq_of_lt hx, Nat.add_sub_cancel, Nat.cast_pow, Nat.cast_ofNat]

/-- Where its checks pass, an instruction of one result owes a value that fits D, of which is true what is true of the value cut to D. -/
theorem State.result_completes_of {i : Instr} {s : State} {h : Hdr} {len lat : Nat} {fp : Foot} {d : SliceOp} {v : Int} {ok : Nat → Prop}
    (hf : footOf i s = fp) (he : exec i s = s.result h len fp d v) (hlat : fp.latency = lat) (hok : ok (trunc v (4 * d.width))) :
    s.admits i = true → ∃ t v, exec i s = .next t ∧ v < 2 ^ (4 * d.width) ∧ ok v ∧ Result s t h len id lat (d.put v) 0 := by
  intro ha
  obtain ⟨t, hexec, hresult⟩ := State.result_completes hf he hlat rfl ha
  exact ⟨t, _, hexec, trunc_lt _ _, hok, hresult⟩

/-- Settles O3: each bit-field instruction owes one result, read bit by bit or as a count. -/
theorem bitFields : Obligations.BitFields := by
  unfold Obligations.BitFields
  intro h p lsb len s
  have hown := R2.footOwn_latency p
  refine ⟨State.result_completes_of rfl rfl hown ?bfxZ, State.result_completes_of rfl rfl hown ?bfxS,
    State.result_completes_of rfl rfl (R2.footBfi_latency p) ?bfi, State.result_completes_of rfl rfl hown ?popc,
    State.result_completes_of rfl rfl hown ?clz, State.result_completes_of rfl rfl hown ?ctz,
    State.result_completes_of rfl rfl (R2.foot_latency p) ?brev⟩
  case bfxZ => rw [zext, trunc_natCast, Nat.mod_eq_of_lt (fld_lt _ _ _), fld]
  case bfxS => rw [sext_succ_of_lt (fld_lt _ _ _), fld]
  case bfi =>
    intro k hk
    rw [trunc_natCast, Nat.testBit_mod_two_pow, decide_eq_true hk, Bool.true_and, testBit_insertBits]
  case popc => rw [trunc_natCast, popBits_eq_length_filter]
  case clz =>
    exact ⟨_, trunc_natCast _ _, clzBits_le _ _, fun k hlow hk => testBit_of_le_clzBits hlow hk, testBit_clzBits⟩
  case ctz =>
    exact ⟨_, trunc_natCast _ _, ctzBits_le _ _, fun k hk => testBit_of_lt_ctzBits hk, testBit_ctzBits⟩
  case brev =>
    intro k hk
    rw [trunc_of_lt (revBits_lt _ _), testBit_revBits _ hk]

/-! ### Compares and moves (R77, R78) -/

/-- A truth value fits every destination. -/
theorem trunc_b2n (b : Bool) (d : SliceOp) : trunc (b2n b : Nat) (4 * d.width) = b2n b := by
  have hpow : 2 ^ 1 ≤ 2 ^ (4 * d.width) := Nat.pow_le_pow_right (by decide) (by have := d.width_pos; omega)
  have hle := b2n_le_one b
  exact trunc_of_lt (by omega)

/-- Where its checks pass, a compare owes 1 where its relation holds and 0 where it does not (R77). -/
theorem State.compare_completes {i : Instr} {s : State} {h : Hdr} {lat : Nat} {fp : Foot} {d : SliceOp} {b : Bool} {r : Prop}
    (hf : footOf i s = fp) (he : exec i s = s.result h 8 fp d (b2n b : Nat)) (hlat : fp.latency = lat) (hr : b = true ↔ r) :
    s.admits i = true → ∃ t v, exec i s = .next t ∧ (r → v = 1) ∧ (¬ r → v = 0) ∧ Result s t h 8 id lat (d.put v) 0 := by
  intro ha
  obtain ⟨t, hexec, hresult⟩ := State.result_completes hf he hlat rfl ha
  rw [trunc_b2n] at hresult
  refine ⟨t, b2n b, hexec, fun h => ?_, fun h => ?_, hresult⟩
  · exact (b2n_eq_one_iff b).mpr (hr.mpr h)
  · rw [Bool.eq_false_iff.mpr (mt hr.mp h)]
    rfl

theorem sext_toNat {n : Nat} (x : BitVec n) (hn : 0 < n) : sext x.toNat n = x.toInt := by
  rw [sext, if_neg hn.ne', Nat.mod_eq_of_lt x.isLt, BitVec.toInt_eq_toNat_cond]
  have hpow := Nat.two_pow_pred_mul_two hn
  have hiff : x.toNat < 2 ^ (n - 1) ↔ 2 * x.toNat < 2 ^ n := by omega
  simp only [hiff]

/-- A 16-bit immediate fits a compare of no less than 16 bits (R77). -/
theorem trunc_zext_imm16 (imm : BitVec 16) (w : Nat) : (trunc (zext imm.toNat 16) (4 * max w 4) : Int) = imm.toNat := by
  have hpow : 2 ^ 16 ≤ 2 ^ (4 * max w 4) := Nat.pow_le_pow_right (by decide) (by omega)
  rw [zext, Nat.mod_eq_of_lt imm.isLt, trunc_of_lt (lt_of_lt_of_le imm.isLt hpow)]

/-- Settles O4: a compare owes a truth value, a move or a select the value it takes. -/
theorem comparesAndMoves : Obligations.ComparesAndMoves := by
  unfold Obligations.ComparesAndMoves
  intro h o p q d imm im s
  have hcmp := R3.footCmp_latency o
  have hown := R2.footOwn_latency p
  have hlat := R2.foot_latency p
  have hsext : sext im.toNat 32 = im.toInt := sext_toNat im (by decide)
  refine ⟨State.compare_completes rfl rfl hcmp beq_iff_eq, State.compare_completes rfl rfl hcmp bne_iff_ne,
    State.compare_completes rfl rfl hcmp decide_eq_true_iff, State.compare_completes rfl rfl hcmp decide_eq_true_iff,
    State.compare_completes rfl rfl hcmp decide_eq_true_iff, State.compare_completes rfl rfl hcmp decide_eq_true_iff,
    State.compare_completes rfl rfl hown beq_iff_eq, State.compare_completes rfl rfl hown decide_eq_true_iff,
    State.compare_completes rfl rfl hown ?cmpiLtZ, State.result_completes rfl rfl (R4.footSel_latency q) ?sel,
    State.result_completes rfl rfl hlat rfl, State.result_completes rfl rfl hlat rfl,
    State.result_completes rfl rfl rfl hsext, State.result_completes rfl rfl (footS_self_latency d) ?movih⟩
  case cmpiLtZ => exact decide_eq_true_iff.trans (by rw [if_neg Bool.false_ne_true, trunc_zext_imm16])
  case sel => exact ite_not _ _ _
  case movih => rw [hsext, zext, Nat.cast_pow, Nat.cast_ofNat]

end Sys2Proof.Machine
end

section
/-!
SUPPORT and PROOFS. The writes and flags of a lane instruction's beats, taken together, and O6 to O9 of these.
-/

namespace Sys2Proof.Machine

/-! ### Flags of several elements -/

/-- Flags gathered from a list, on top of others. -/
theorem foldl_or_init {α : Type} (g : α → Nat) (x : Nat) (l : List α) :
    l.foldl (fun f e => f ||| g e) x = x ||| l.foldl (fun f e => f ||| g e) 0 := by
  induction l generalizing x with
  | nil => simp
  | cons a l ih => rw [List.foldl_cons, ih, List.foldl_cons, ih (0 ||| g a), Nat.zero_or, Nat.or_assoc]

/-- Flags gathered part by part. -/
theorem foldl_or_flatMap {α β : Type} (g : β → Nat) (p : α → List β) (l : List α) :
    (l.flatMap p).foldl (fun f e => f ||| g e) 0 = l.foldl (fun f a => f ||| (p a).foldl (fun f e => f ||| g e) 0) 0 := by
  induction l with
  | nil => rfl
  | cons a l ih =>
    rw [List.flatMap_cons, List.foldl_append, foldl_or_init, ih, List.foldl_cons, Nat.zero_or,
      ← foldl_or_init (fun a => (p a).foldl (fun f e => f ||| g e) 0)]

/-- Nothing is raised where no part raises anything. -/
theorem foldl_or_zero {α : Type} (l : List α) : l.foldl (fun f (_ : α) => f ||| 0) 0 = 0 := by
  induction l with
  | nil => rfl
  | cons a l ih => exact ih

/-- The flags of beats, as flags of `fpflags`. -/
theorem foldl_or_ofNat {α : Type} (g : α → Nat) (l : List α) (x : Nat) :
    (l.map fun b => BitVec.ofNat 5 (g b)).foldl (· ||| ·) (BitVec.ofNat 5 x) = BitVec.ofNat 5 (l.foldl (fun f b => f ||| g b) x) := by
  induction l generalizing x with
  | nil => rfl
  | cons a l ih => rw [List.map_cons, List.foldl_cons, ← BitVec.ofNat_or, ih, List.foldl_cons]

/-! ### Elements by beats (R129) -/

/-- The elements of the first `m` beats of `L` elements, of `n` in all. -/
theorem beats_elements (L n m : Nat) :
    (List.range m).flatMap (fun b => (List.range (min L (n - L * b))).map (L * b + ·)) = List.range (min n (L * m)) := by
  induction m with
  | zero => simp
  | succ m ih =>
    rw [List.range_succ, List.flatMap_append, ih, List.flatMap_singleton, Nat.mul_succ]
    by_cases hle : L * m ≤ n
    · rw [show min n (L * m + L) = L * m + min L (n - L * m) by omega, List.range_add, show min n (L * m) = L * m by omega]
    · rw [show min L (n - L * m) = 0 by omega, show min n (L * m + L) = min n (L * m) by omega]
      simp

/-- So many beats hold all elements. -/
theorem le_mul_ceilDiv {L : Nat} (n : Nat) (hL : 0 < L) : n ≤ L * ceilDiv n L := by
  have hdiv := Nat.div_add_mod (n + L - 1) L
  have hmod := Nat.mod_lt (n + L - 1) hL
  unfold ceilDiv
  omega

/-- One beat at least holds an element. -/
theorem ceilDiv_pos {L n : Nat} (hL : 0 < L) (hn : 0 < n) : 0 < ceilDiv n L := Nat.div_pos (by omega) hL

/-- The last beat holds an element. -/
theorem mul_ceilDiv_pred_lt {L n : Nat} (hL : 0 < L) (hn : 0 < n) : L * (ceilDiv n L - 1) < n := by
  have hle : L * ceilDiv n L ≤ n + L - 1 := Nat.mul_div_le _ _
  have hpos := ceilDiv_pos hL hn
  have hmul : L * ceilDiv n L = L * (ceilDiv n L - 1) + L := by rw [← Nat.mul_succ, Nat.succ_eq_add_one, Nat.sub_add_cancel hpos]
  omega

theorem laneL_pos (c : LaneCtl) : 0 < laneL c := by
  unfold laneL
  split
  · decide
  · decide
  · exact Nat.div_pos (by have := c.iwidth.isLt; omega) (Nat.succ_pos _)

theorem wideL_pos {eD eA : Nat} (hD : 0 < eD) (hD16 : eD ≤ 16) (hA : eA ≤ 16) : 0 < wideL eD eA :=
  Nat.div_pos (by omega) (by omega)

theorem Jet.shapeN_pos (j : Jet) (o : ElemOp) : 0 < j.shapeN o := by
  cases o with
  | slice => exact Nat.one_pos
  | view => exact Nat.le_max_left _ _

@[simp] theorem beatsOf_length (L n : Nat) (d : Operand) (reads : Nat → List (Nat × Nat)) (r : Nat → Fl Nat) :
    (beatsOf L n d reads r).length = ceilDiv n L := by simp [beatsOf]

/-- The writes of all beats are those of all elements, in order. -/
theorem beatsOf_slices {L n : Nat} (d : Operand) (reads : Nat → List (Nat × Nat)) (r : Nat → Fl Nat) (hL : 0 < L) :
    ((beatsOf L n d reads r).map (·.w)).flatMap (·.sl) = (List.range n).flatMap fun e => d.put e (r e).1 := by
  have hall := beats_elements L n (ceilDiv n L)
  rw [Nat.min_eq_left (le_mul_ceilDiv n hL)] at hall
  rw [← hall, List.flatMap_assoc, beatsOf, List.map_map, List.flatMap_map]
  exact congrArg (List.flatMap · _) (funext fun b => by simp [List.flatMap_map])

/-- The beats write no mask. -/
theorem beatsOf_masks (L n : Nat) (d : Operand) (reads : Nat → List (Nat × Nat)) (r : Nat → Fl Nat) :
    ((beatsOf L n d reads r).map (·.w)).flatMap (·.masks) = [] := by
  rw [beatsOf, List.map_map, List.flatMap_map, List.flatMap_eq_nil_iff]
  exact fun _ _ => rfl

/-- The flags of all beats are those of all elements. -/
theorem beatsOf_flags {L n : Nat} (d : Operand) (reads : Nat → List (Nat × Nat)) (r : Nat → Fl Nat) (hL : 0 < L) :
    (beatsOf L n d reads r).foldl (fun f b => f ||| b.flags) 0 = (List.range n).foldl (fun f e => f ||| (r e).2) 0 := by
  have hall := beats_elements L n (ceilDiv n L)
  rw [Nat.min_eq_left (le_mul_ceilDiv n hL)] at hall
  rw [← hall, foldl_or_flatMap, beatsOf, List.foldl_map]
  simp only [List.foldl_map]

/-! ### What issuing a lane instruction does -/

theorem LanePlan.foot_cross (p : LanePlan) (fpten : BitVec 5) : (p.foot fpten).cross = p.fp.cross := by
  unfold LanePlan.foot
  split <;> rfl

theorem LanePlan.foot_eq_of_le_one {p : LanePlan} (hb : p.beats.length ≤ 1) (fpten : BitVec 5) : p.foot fpten = p.fp := by
  simp [LanePlan.foot, hb]

/-- Where its checks pass and no enabled flag is raised in its issue tc, a lane instruction of one beat has begun with it. -/
theorem State.lane_one {i : Instr} {s : State} {h : Hdr} {p : LanePlan} {b : Beat} (hf : footOf i s = p.foot s.here.fpten)
    (he : exec i s = s.lane h p) (hb : p.beats = [b]) (ha : s.admits i = true) (hflags : BitVec.ofNat 5 p.flags &&& s.here.fpten = 0) :
    exec i s = .next (((s.laneStart 1 p.divide).laneOne p b.w).advance h 12) := by
  rw [he, State.lane, ← hf, State.guarded_of_admits _ ha]
  simp [hb, hflags]

/-- Where its checks pass, a lane instruction of several beats has begun with the first. -/
theorem State.lane_many {i : Instr} {s : State} {h : Hdr} {p : LanePlan} (hf : footOf i s = p.foot s.here.fpten)
    (he : exec i s = s.lane h p) (hb : p.beats.length ≠ 1) (ha : s.admits i = true) :
    exec i s = .next (((s.laneStart p.beats.length p.divide).laneMany p).advance h 12) := by
  rw [he, State.lane, ← hf, State.guarded_of_admits _ ha]
  split
  · next hone => exact absurd (by rw [hone]; rfl) hb
  · rfl

/-- What a lane instruction owes: the writes of its beats, and their flags. -/
theorem LanePlan.raised_of_flags (p : LanePlan) {r : Owed} (hr : r.flags = p.beats.map fun b => BitVec.ofNat 5 b.flags) :
    r.raised = BitVec.ofNat 5 p.flags := by
  rw [Owed.raised, hr]
  exact foldl_or_ofNat _ _ 0

/-- A lane instruction whose beats are written one by one completes with the writes of its beats. -/
theorem State.lane_beatsDone {i : Instr} {s : State} {h : Hdr} {p : LanePlan} {all : BitVec 5} {ok : Owed → Prop}
    (hf : footOf i s = p.foot s.here.fpten) (he : exec i s = s.lane h p) (hwhole : p.whole = false) (hvar : p.var = false)
    (hall : BitVec.ofNat 5 p.flags = all) (hok : ∀ r : Owed, r.w = p.beats.map (·.w) → ok r) :
    BeatsDone s i h p.beats.length p.lat p.divide all ok := by
  subst hall
  intro ha hflags
  by_cases hone : p.beats.length = 1
  · obtain ⟨b, hb⟩ := List.length_eq_one_iff.mp hone
    obtain ⟨r, es, hissued, hw, hfl, hfixed, hes⟩ := s.laneOne_issued h p b.w
    have hraised : r.raised = BitVec.ofNat 5 p.flags := by
      simp [Owed.raised, hfl]
    refine ⟨_, r, es, State.lane_one hf he hb ha (hflags hone), hone ▸ hissued, hraised, hok r (by rw [hw, hb]; rfl), fun _ => ?_, absurd hone⟩
    rw [hf, p.foot_cross]
    exact ⟨by rw [hfixed, hvar]; rfl, by rw [hes, hvar]; rfl⟩
  · obtain ⟨r, es, hissued, hw, hfl, hfixed, hdefer, hes⟩ := s.laneMany_issued h p hone
    refine ⟨_, r, es, State.lane_many hf he hone ha, hissued, p.raised_of_flags hfl, hok r hw, fun h1 => absurd h1 hone,
      fun _ => ⟨hfixed, fun hten => ?_, by rw [hes, hwhole]; rfl⟩⟩
    rw [hdefer, LanePlan.defers, bne_iff_ne.mpr hten, Bool.true_or, Bool.or_true]

/-- An element-wise instruction completes with what each element is to receive. -/
theorem State.lane_elements {i : Instr} {s : State} {h : Hdr} {p : LanePlan} {n L lat div : Nat} {d : Operand}
    {reads : Nat → List (Nat × Nat)} {v : Nat → Fl Nat} (hf : footOf i s = p.foot s.here.fpten) (he : exec i s = s.lane h p)
    (hbeats : p.beats = beatsOf L n d reads v) (hwhole : p.whole = false) (hvar : p.var = false) (hlat : p.lat = lat) (hdiv : p.divide = div)
    (hL : 0 < L) : LaneDone s i h n L lat div d v := by
  have hnb : p.beats.length = ceilDiv n L := by rw [hbeats, beatsOf_length]
  have hflags : p.flags = (List.range n).foldl (fun f e => f ||| (v e).2) 0 := by rw [LanePlan.flags, hbeats, beatsOf_flags d reads v hL]
  have hdone := State.lane_beatsDone (ok := fun r => r.maskWrites = [] ∧ r.slices = (List.range n).flatMap fun e => d.put e (v e).1)
    hf he hwhole hvar rfl fun r hw => by
      rw [Owed.maskWrites, Owed.slices, hw, hbeats, beatsOf_masks, beatsOf_slices d reads v hL]
      exact ⟨rfl, rfl⟩
  rw [hnb, hlat, hdiv, hflags] at hdone
  exact hdone

/-! ### Element-wise forms (R130) -/

/-- What element `e` of a result receives: `f` of it where it is active; in zero mode 0 and otherwise its old value where it is not (R130). -/
def Jet.elem (j : Jet) (c : LaneCtl) (d : Operand) (f : Nat → Fl Nat) (e : Nat) : Fl Nat :=
  if j.active c e then f e else (if c.mmode == .zero then 0 else d.val j.frame e, 0)

/-- An element-wise instruction of form `elementwise` completes with its operation on each active element. -/
theorem State.elementwise_done {i : Instr} {s : State} {h : Hdr} {p : LanePlan} {o : L3} {eD eA L lat : Nat} {eB : Option Nat} {dread ill : Bool}
    {f : Nat → Nat → Nat → Fl Nat} {g : Nat → Fl Nat}
    (hf : footOf i s = p.foot s.here.fpten) (he : exec i s = s.lane h p) (hp : p = s.cur.elementwise o eD eA eB L lat dread ill f) (hL : 0 < L)
    (hg : ∀ e, f ((s.cur.use o.a (s.cur.shapeN o.d)).val s.cur.frame e)
      ((if eB.isSome then s.cur.use o.b (s.cur.shapeN o.d) else .zero).val s.cur.frame e)
      ((s.cur.use o.d (s.cur.shapeN o.d)).val s.cur.frame e) = g e) :
    LaneDone s i h (s.cur.shapeN o.d) L lat 0 (s.cur.use o.d (s.cur.shapeN o.d)) (s.cur.elem o.c (s.cur.use o.d (s.cur.shapeN o.d)) g) := by
  subst hp
  obtain rfl := funext hg
  exact State.lane_elements hf he rfl rfl rfl rfl rfl hL

/-- The same for an integer operation, which raises no flag. -/
theorem State.elementwise_done_int {i : Instr} {s : State} {h : Hdr} {p : LanePlan} {o : L3} {eD eA L lat : Nat} {eB : Option Nat} {dread ill : Bool}
    {f : Nat → Nat → Nat → Fl Nat} {g : Nat → Nat}
    (hf : footOf i s = p.foot s.here.fpten) (he : exec i s = s.lane h p) (hp : p = s.cur.elementwise o eD eA eB L lat dread ill f) (hL : 0 < L)
    (hg : ∀ e, f ((s.cur.use o.a (s.cur.shapeN o.d)).val s.cur.frame e)
      ((if eB.isSome then s.cur.use o.b (s.cur.shapeN o.d) else .zero).val s.cur.frame e)
      ((s.cur.use o.d (s.cur.shapeN o.d)).val s.cur.frame e) = (g e, 0)) :
    LaneDone s i h (s.cur.shapeN o.d) L lat 0 (s.cur.use o.d (s.cur.shapeN o.d)) fun e =>
      (if s.cur.active o.c e then g e else if o.c.mmode == .zero then 0 else (s.cur.use o.d (s.cur.shapeN o.d)).val s.cur.frame e, 0) := by
  have hdone := State.elementwise_done hf he hp hL hg
  have heq : s.cur.elem o.c (s.cur.use o.d (s.cur.shapeN o.d)) (fun e => (g e, 0)) = fun e =>
      (if s.cur.active o.c e then g e else if o.c.mmode == .zero then 0 else (s.cur.use o.d (s.cur.shapeN o.d)).val s.cur.frame e, 0) :=
    funext fun e => by unfold Jet.elem; split <;> rfl
  rwa [heq] at hdone

/-! The element-wise plans, each as an `elementwise` of its operand widths and its operation. -/

theorem planInt3_eq (lat : Nat) (f : Nat → Int → Int → Int) (j : Jet) (o : L3) :
    planInt3 lat f j o = j.elementwise o o.c.e o.c.e (some o.c.e) (laneL o.c) lat false false fun a b _ =>
      (o.c.fit (f (4 * o.c.e) (o.c.rdInt a) (o.c.rdInt b)), 0) := rfl

theorem planInt2_eq (f : Nat → Int → Int) (j : Jet) (o : L3) :
    planInt2 f j o = j.elementwise o o.c.e o.c.e none (laneL o.c) 1 false false fun a _ _ => (o.c.fit (f (4 * o.c.e) (o.c.rdInt a)), 0) := rfl

theorem planShift_eq (signed : Bool) (f : Nat → Int → Nat → Int) (j : Jet) (o : L3) :
    planShift signed f j o = j.elementwise o o.c.e o.c.e (some o.c.e) (laneL o.c) 1 false false fun a b _ =>
      (trunc (f (4 * o.c.e) (if signed then sext a (4 * o.c.e) else zext a (4 * o.c.e)) (if o.b = .slice .nz then o.c.aux8.toNat else b))
        (4 * o.c.e), 0) := rfl

theorem Jet.lane2_eq (j : Jet) (o : L3) (lat : Nat) (f : Nat → Fl Nat) :
    j.lane2 o lat f = j.elementwise o o.c.e o.c.e none (laneL o.c) lat false false fun a _ _ => f a := rfl

theorem planFp3_eq (f : Nat → Rm → Nat → Nat → Fl Nat) (j : Jet) (o : L3) :
    planFp3 f j o = j.elementwise o o.c.e o.c.e (some o.c.e) (laneL o.c) 4 false false fun a b _ => f o.c.p o.c.rm a b := rfl

theorem planFp2_eq (lat : Nat) (f : Nat → Nat → Fl Nat) (j : Jet) (o : L3) :
    planFp2 lat f j o = j.elementwise o o.c.e o.c.e none (laneL o.c) lat false false fun a _ _ => f o.c.p a := rfl

theorem Jet.convert_eq (j : Jet) (o : L3) (eD eA : Nat) (f : Nat → Fl Nat) :
    j.convert o eD eA f = j.elementwise o eD eA none (wideL eD eA) 4 false false fun a _ _ => f a := rfl

theorem Jet.scaled_eq (j : Jet) (o : L3) (eD eA : Nat) (f : Nat → Fl Nat) :
    j.scaled o eD eA f = j.elementwise o eD eA (some 16) (wideL eD eA) 4 false false fun a _ _ => f a := rfl

/-! ### Integer elements (R139) -/

/-- A left shift of `n`-bit elements. -/
theorem trunc_shlF (a n k : Nat) : trunc (shlF n (zext a n) k) n = if n ≤ k then 0 else a % 2 ^ n * 2 ^ k % 2 ^ n := by
  rw [zext, shlF_natCast]
  split
  · simp [trunc]
  · rw [trunc_natCast]

/-- A right shift of `n`-bit elements. -/
theorem trunc_shrF (a n k : Nat) : trunc (shrF n (zext a n) k) n = if n ≤ k then 0 else a % 2 ^ n / 2 ^ k := by
  rw [zext, shrF_natCast]
  split
  · simp [trunc]
  · exact trunc_of_lt (lt_of_le_of_lt (Nat.div_le_self _ _) (Nat.mod_lt _ (by positivity)))

/-- Settles O6: each integer lane instruction is element-wise, or `vsel`, whose elements are all active. -/
theorem laneInteger : Obligations.LaneInteger := by
  unfold Obligations.LaneInteger
  intro h o s
  have hL := laneL_pos o.c
  refine ⟨State.elementwise_done_int rfl rfl (planInt3_eq _ _ _ _) hL fun _ => rfl,
    State.elementwise_done_int rfl rfl (planInt3_eq _ _ _ _) hL fun _ => rfl,
    State.elementwise_done_int rfl rfl (planInt3_eq _ _ _ _) hL fun _ => rfl,
    State.elementwise_done_int rfl rfl (planInt3_eq _ _ _ _) hL ?vmulh,
    State.elementwise_done_int rfl rfl (planInt3_eq _ _ _ _) hL ?vmin,
    State.elementwise_done_int rfl rfl (planInt3_eq _ _ _ _) hL ?vmax,
    State.elementwise_done_int rfl rfl (planInt2_eq _ _ _) hL ?vabs,
    State.elementwise_done_int rfl rfl (planInt2_eq _ _ _) hL fun _ => rfl,
    State.elementwise_done_int rfl rfl (planInt3_eq _ _ _ _) hL fun _ => rfl,
    State.elementwise_done_int rfl rfl (planInt3_eq _ _ _ _) hL fun _ => rfl,
    State.elementwise_done_int rfl rfl (planInt3_eq _ _ _ _) hL fun _ => rfl,
    State.elementwise_done_int rfl rfl (planInt2_eq _ _ _) hL fun _ => rfl,
    State.elementwise_done_int rfl rfl (planShift_eq _ _ _ _) hL ?vshl,
    State.elementwise_done_int rfl rfl (planShift_eq _ _ _ _) hL ?vshr,
    State.elementwise_done_int rfl rfl (planShift_eq _ _ _ _) hL ?vsar,
    State.elementwise_done_int rfl rfl (planInt2_eq _ _ _) hL fun _ => rfl,
    State.elementwise_done_int rfl rfl (Jet.lane2_eq _ _ _ _) hL fun _ => rfl,
    State.lane_elements rfl rfl rfl rfl rfl rfl rfl hL⟩
  case vmulh => exact fun e => congrArg (fun q => (o.c.fit (_ / q), 0)) (Nat.cast_pow 2 _)
  case vmin => exact fun e => congrArg (fun r => (o.c.fit r, 0)) (min_def _ _).symm
  case vmax => exact fun e => congrArg (fun r => (o.c.fit r, 0)) (max_def' _ _).symm
  case vabs => exact fun e => congrArg (fun r => (o.c.fit r, 0)) (ite_neg_eq_abs _)
  case vshl => exact fun e => congrArg (·, 0) (trunc_shlF _ _ _)
  case vshr => exact fun e => congrArg (·, 0) (trunc_shrF _ _ _)
  case vsar => exact fun e => congrArg (fun r => (trunc r (4 * o.c.e), 0)) (sarF_eq _ _ _)

/-! ### Floating-point elements (R135 to R138, R146, R147) -/

theorem fpw_le (c : LaneCtl) : 0 < c.fpw ∧ c.fpw ≤ 16 := by
  unfold LaneCtl.fpw
  split <;> decide

theorem iwidth_le (c : LaneCtl) : c.iwidth.toNat + 1 ≤ 16 := c.iwidth.isLt

/-- Settles O7: each floating-point lane instruction is element-wise. -/
theorem laneFloat : Obligations.LaneFloat := by
  unfold Obligations.LaneFloat
  intro h o s
  have hL := laneL_pos o.c
  obtain ⟨hfp, hfp16⟩ := fpw_le o.c
  have hi := iwidth_le o.c
  have hLif := wideL_pos (Nat.succ_pos o.c.iwidth.toNat) hi hfp16
  have hLfi := wideL_pos hfp hfp16 hi
  exact ⟨State.elementwise_done rfl rfl (planFp3_eq _ _ _) hL fun _ => rfl,
    State.elementwise_done rfl rfl (planFp3_eq _ _ _) hL fun _ => rfl,
    State.elementwise_done rfl rfl (planFp3_eq _ _ _) hL fun _ => rfl,
    State.elementwise_done rfl rfl rfl hL fun _ => rfl,
    State.elementwise_done rfl rfl (planFp3_eq _ _ _) hL fun _ => rfl,
    State.elementwise_done rfl rfl (planFp3_eq _ _ _) hL fun _ => rfl,
    State.lane_elements rfl rfl rfl rfl rfl rfl rfl hL,
    State.lane_elements rfl rfl rfl rfl rfl rfl rfl hL,
    State.elementwise_done rfl rfl (planFp2_eq _ _ _ _) hL fun _ => rfl,
    State.elementwise_done rfl rfl (planFp2_eq _ _ _ _) hL fun _ => rfl,
    State.elementwise_done rfl rfl (planFp2_eq _ _ _ _) hL fun _ => rfl,
    State.elementwise_done rfl rfl (Jet.convert_eq _ _ _ _ _) (wideL_pos (by decide) (by decide) (by decide)) fun _ => rfl,
    State.elementwise_done rfl rfl (Jet.convert_eq _ _ _ _ _) (wideL_pos (by decide) (by decide) (by decide)) fun _ => rfl,
    State.elementwise_done rfl rfl (Jet.convert_eq _ _ _ _ _) hLfi fun _ => rfl,
    State.elementwise_done rfl rfl (Jet.convert_eq _ _ _ _ _) hLif fun _ => rfl,
    State.elementwise_done rfl rfl (Jet.scaled_eq _ _ _ _ _) hLif fun _ => rfl,
    State.elementwise_done rfl rfl (Jet.scaled_eq _ _ _ _ _) hLfi fun _ => rfl⟩

/-! ### Compares (R131, R136, R140) -/

/-- The bits of a number made of them. -/
theorem testBit_foldr_bits (l : List Bool) (k : Nat) : (l.foldr (fun b n => b2n b + 2 * n) 0).testBit k = l.getD k false := by
  induction l generalizing k with
  | nil => simp
  | cons b l ih =>
    rw [List.foldr_cons]
    cases k with
    | zero =>
      rw [Nat.testBit_zero, List.getD_cons_zero]
      cases b <;> simp [b2n]
    | succ k =>
      have hle := b2n_le_one b
      rw [Nat.testBit_succ, List.getD_cons_succ, ← ih]
      congr 1
      omega

theorem maskOf_getLsbD (l : List Bool) {k : Nat} (hk : k < 256) : (maskOf l).getLsbD k = l.getD k false := by
  rw [maskOf, BitVec.getLsbD_ofNat, decide_eq_true hk, Bool.true_and, testBit_foldr_bits]

/-- A list taken in parts of `L`. -/
theorem flatMap_drop_take {α : Type} (l : List α) (L m : Nat) : (List.range m).flatMap (fun k => (l.drop (L * k)).take L) = l.take (L * m) := by
  induction m with
  | zero => simp
  | succ m ih => rw [List.range_succ, List.flatMap_append, ih, List.flatMap_singleton, Nat.mul_succ, List.take_add]

/-- The relation and flags of element `e` of a compare; an inactive bit keeps its value in merge mode and is 0 otherwise (R130). -/
def Jet.cmpElem (j : Jet) (o : LM) (r : Nat → Fl Bool) (e : Nat) : Fl Bool :=
  if j.active o.c e then r e else (o.c.mmode == .merge && (j.mask o.dm.toNat).getLsbD e, 0)

/-- The mask that beat `k` of a compare over `n` elements writes. -/
def Jet.cmpMask (j : Jet) (o : LM) (n : Nat) (r : Nat → Fl Bool) (k : Nat) : BitVec 256 :=
  maskOf ((((List.range n).map (j.cmpElem o r)).take (laneL o.c * k + laneL o.c)).map (·.1) ++
    (if k + 1 = ceilDiv n (laneL o.c) then [] else (List.range 256).map fun i => (j.mask o.dm.toNat).getLsbD i).drop (laneL o.c * k + laneL o.c))

/-- What a compare works out: a beat for each `L` elements, with its mask and its elements' flags (R132). -/
theorem Jet.compare_beats (j : Jet) (o : LM) (lat : Nat) {f : Nat → Nat → Fl Bool} {r : Nat → Fl Bool}
    (hr : ∀ e, f ((j.use o.a (j.shapeN o.shape)).val j.frame e) ((j.use o.b (j.shapeN o.shape)).val j.frame e) = r e) :
    ∃ reads : Nat → List (Nat × Nat), (j.compare o lat f).beats = (List.range (ceilDiv (j.shapeN o.shape) (laneL o.c))).map fun k =>
      ({ w := ⟨[], [(o.dm.toNat, j.cmpMask o (j.shapeN o.shape) r k)]⟩,
         flags := ((((List.range (j.shapeN o.shape)).map (j.cmpElem o r)).drop (laneL o.c * k)).take (laneL o.c)).foldl (fun fl x => fl ||| x.2) 0,
         reads := reads k } : Beat) := by
  obtain rfl := funext hr
  exact ⟨_, rfl⟩

/-- Bit `e` of the mask that beat `k` writes. -/
theorem Jet.cmpMask_getLsbD (j : Jet) (o : LM) {n k e : Nat} (r : Nat → Fl Bool) (hn : 0 < n) (hk : k < ceilDiv n (laneL o.c))
    (he : e < 256) : (j.cmpMask o n r k).getLsbD e =
      if laneL o.c * (k + 1) ≤ e ∧ k + 1 ≠ ceilDiv n (laneL o.c) then (j.mask o.dm.toNat).getLsbD e
      else decide (e < n) && (j.cmpElem o r e).1 := by
  have hL := laneL_pos o.c
  have hfirst : (((List.range n).map (j.cmpElem o r)).take (laneL o.c * k + laneL o.c)).map (·.1) =
      (List.range (min (laneL o.c * k + laneL o.c) n)).map fun e => (j.cmpElem o r e).1 := by
    rw [← List.map_take, List.take_range, List.map_map]
    rfl
  rw [Jet.cmpMask, maskOf_getLsbD _ he, hfirst, Nat.mul_succ]
  by_cases hlast : k + 1 = ceilDiv n (laneL o.c)
  · have hall : n ≤ laneL o.c * k + laneL o.c := by
      have := le_mul_ceilDiv n hL
      rwa [← hlast, Nat.mul_succ] at this
    rw [if_pos hlast, if_neg (by simp [hlast]), Nat.min_eq_right hall, List.drop_nil, List.append_nil]
    by_cases hen : e < n <;> simp [hen, List.getD_eq_getElem?_getD]
  · have hpart : laneL o.c * k + laneL o.c ≤ n := by
      have hlt := mul_ceilDiv_pred_lt hL hn
      have hmono : laneL o.c * (k + 1) ≤ laneL o.c * (ceilDiv n (laneL o.c) - 1) := Nat.mul_le_mul_left _ (by omega)
      rw [Nat.mul_succ] at hmono
      omega
    rw [if_neg hlast, Nat.min_eq_left hpart]
    by_cases hge : laneL o.c * k + laneL o.c ≤ e
    · rw [if_pos ⟨hge, hlast⟩, List.getD_eq_getElem?_getD, List.getElem?_append_right (by simpa using hge)]
      simp [Nat.add_sub_cancel' hge, he]
    · rw [if_neg (by simp [hge]), List.getD_eq_getElem?_getD, List.getElem?_append_left (by simpa using hge)]
      simp [Nat.lt_of_not_le hge, show e < n by omega]

/-- A compare completes with a mask for each beat and the flags of its active elements. -/
theorem State.compare_done {i : Instr} {s : State} {h : Hdr} {p : LanePlan} {o : LM} {lat : Nat} {f : Nat → Nat → Fl Bool} {r : Nat → Fl Bool}
    (hf : footOf i s = p.foot s.here.fpten) (he : exec i s = s.lane h p) (hp : p = s.cur.compare o lat f)
    (hr : ∀ e, f ((s.cur.use o.a (s.cur.shapeN o.shape)).val s.cur.frame e) ((s.cur.use o.b (s.cur.shapeN o.shape)).val s.cur.frame e) = r e) :
    BeatsDone s i h (ceilDiv (s.cur.shapeN o.shape) (laneL o.c)) lat 0
      (BitVec.ofNat 5 ((List.range (s.cur.shapeN o.shape)).foldl (fun fl e => fl ||| if s.cur.active o.c e then (r e).2 else 0) 0)) fun q =>
        q.slices = [] ∧ ∃ ms : List (BitVec 256), q.maskWrites = ms.map (fun m => (o.dm.toNat, m)) ∧
          ms.length = ceilDiv (s.cur.shapeN o.shape) (laneL o.c) ∧
          ∀ k e, k < ceilDiv (s.cur.shapeN o.shape) (laneL o.c) → e < 256 → (ms.getD k 0).getLsbD e =
            if laneL o.c * (k + 1) ≤ e ∧ k + 1 ≠ ceilDiv (s.cur.shapeN o.shape) (laneL o.c) then (s.cur.mask o.dm.toNat).getLsbD e
            else decide (e < s.cur.shapeN o.shape) && if s.cur.active o.c e then (r e).1
              else o.c.mmode == .merge && (s.cur.mask o.dm.toNat).getLsbD e := by
  obtain ⟨reads, hbeats⟩ := s.cur.compare_beats o lat hr
  have hlen : p.beats.length = ceilDiv (s.cur.shapeN o.shape) (laneL o.c) := by rw [hp, hbeats, List.length_map, List.length_range]
  have hlat : p.lat = lat := by rw [hp]; rfl
  have hdiv : p.divide = 0 := by rw [hp]; rfl
  rw [← hlen, ← hlat, ← hdiv]
  refine State.lane_beatsDone hf he (by rw [hp]; rfl) (by rw [hp]; rfl) ?flags fun q hq => ?writes
  case flags =>
    have hall : s.cur.shapeN o.shape ≤ laneL o.c * ceilDiv (s.cur.shapeN o.shape) (laneL o.c) := le_mul_ceilDiv _ (laneL_pos o.c)
    rw [LanePlan.flags, hp, hbeats, List.foldl_map, ← foldl_or_flatMap, flatMap_drop_take, List.take_of_length_le (by simpa using hall),
      List.foldl_map]
    congr 1
    congr 1
    funext fl e
    unfold Jet.cmpElem
    split <;> rfl
  case writes =>
    rw [hp, hbeats, List.map_map] at hq
    refine ⟨?_, (List.range (ceilDiv (s.cur.shapeN o.shape) (laneL o.c))).map (s.cur.cmpMask o (s.cur.shapeN o.shape) r), ?_, ?_, fun k e hk he => ?_⟩
    · rw [Owed.slices, hq, List.flatMap_map, List.flatMap_eq_nil_iff]
      exact fun _ _ => rfl
    · rw [Owed.maskWrites, hq, List.flatMap_map, List.map_map]
      exact List.flatMap_pure_eq_map _ _
    · rw [List.length_map, List.length_range, hlen]
    · rw [hlen] at hk ⊢
      have hget : ∀ (g : Nat → BitVec 256) (m : Nat), k < m → ((List.range m).map g).getD k 0 = g k := fun g m h => by
        simp [List.getD_eq_getElem?_getD, h]
      rw [hget _ _ hk, Jet.cmpMask_getLsbD _ _ _ (s.cur.shapeN_pos _) hk he]
      congr 2
      unfold Jet.cmpElem
      split <;> rfl

/-- The relation of `vcmp`, as the comparison it names (R140). -/
theorem cmpInt_eq (sub : Nat) (a b : Int) : cmpInt sub a b =
    match sub with
    | 0 => decide (a = b)
    | 1 => decide (a ≠ b)
    | 2 => decide (a < b)
    | 3 => decide (a ≤ b)
    | 4 => decide (b < a)
    | _ => decide (b ≤ a) :=
  match sub with
  | 0 => rfl
  | 1 => by simp [cmpInt, bne, beq_eq_decide]
  | 2 => rfl
  | 3 => rfl
  | 4 => rfl
  | _ + 5 => rfl

/-- Settles O8: each compare writes its mask beat by beat. -/
theorem laneCompare : Obligations.LaneCompare := by
  unfold Obligations.LaneCompare
  intro h o s
  exact ⟨State.compare_done rfl rfl rfl fun _ => rfl, State.compare_done rfl rfl rfl fun _ => congrArg (·, 0) (cmpInt_eq _ _ _)⟩

/-! ### Whole-vector instructions (R132, R141 to R144, R148) -/

/-- The writes and flags of the beats that make all their writes with the last. -/
theorem wholeBeats {n : Nat} (hn : 0 < n) (w : List (Nat × Nat × Nat)) (fl : Nat) (reads : Nat → List (Nat × Nat)) :
    let bs : List Beat := (List.range n).map fun k => { w := ⟨if k + 1 = n then w else [], []⟩, flags := if k + 1 = n then fl else 0, reads := reads k }
    (bs.map (·.w)).flatMap (·.sl) = w ∧ (bs.map (·.w)).flatMap (·.masks) = [] ∧ bs.foldl (fun f b => f ||| b.flags) 0 = fl := by
  obtain ⟨m, rfl⟩ := Nat.exists_eq_succ_of_ne_zero hn.ne'
  have hbefore : ∀ k ∈ List.range m, ¬ k + 1 = m + 1 := fun k hk => by
    have := List.mem_range.mp hk
    omega
  simp only [List.map_map, List.flatMap_map, List.foldl_map, Nat.succ_eq_add_one, List.range_succ, List.flatMap_append, List.flatMap_singleton,
    List.foldl_append, List.foldl_cons, List.foldl_nil, if_true, Function.comp_apply]
  refine ⟨?_, ?_, ?_⟩
  · rw [List.flatMap_eq_nil_iff.mpr fun k hk => if_neg (hbefore k hk), List.nil_append]
  · rw [List.flatMap_eq_nil_iff.mpr fun _ _ => rfl, List.nil_append]
  · rw [List.foldl_ext _ (fun f _ => f ||| 0) 0 fun f k hk => by rw [if_neg (hbefore k hk)], foldl_or_zero, Nat.zero_or]

/-- A whole-vector instruction completes with its writes, made together. -/
theorem State.whole_done {i : Instr} {s : State} {h : Hdr} {p : LanePlan} {fp : Foot} {n L lat fl : Nat} {var : Bool}
    {w w' : List (Nat × Nat × Nat)} {reads : Nat → List (Nat × Nat)} (hf : footOf i s = p.foot s.here.fpten) (he : exec i s = s.lane h p)
    (hp : p = wholePlan fp n L lat fl var w reads) (hw' : w = w') (hn : 0 < n) (hL : 0 < L) :
    WholeDone s i h (ceilDiv n L) lat var w' [] fl := by
  subst hw'
  obtain ⟨hsl, hmasks, hfl⟩ := wholeBeats (ceilDiv_pos hL hn) w fl reads
  have hlen : p.beats.length = ceilDiv n L := by rw [hp, wholePlan, List.length_map, List.length_range]
  have hpf : p.flags = fl := by rw [LanePlan.flags, hp]; exact hfl
  have hps : (p.beats.map (·.w)).flatMap (·.sl) = w := by rw [hp]; exact hsl
  have hpm : (p.beats.map (·.w)).flatMap (·.masks) = [] := by rw [hp]; exact hmasks
  have hvar : p.var = var := by rw [hp]; rfl
  have hlat : p.lat = lat := by rw [hp]; rfl
  have hdiv : p.divide = 0 := by rw [hp]; rfl
  have hwhole : p.whole = true := by rw [hp]; rfl
  intro ha hflags
  by_cases hone : ceilDiv n L = 1
  · obtain ⟨b, hb⟩ := List.length_eq_one_iff.mp (hlen.trans hone)
    obtain ⟨r, es, hissued, hw, hrfl, hfixed, hes⟩ := s.laneOne_issued h p b.w
    have hrw : r.w = p.beats.map (·.w) := by rw [hw, hb]; rfl
    have hraised : r.raised = BitVec.ofNat 5 fl := by simp [Owed.raised, hrfl, hpf]
    refine ⟨_, r, es, State.lane_one hf he hb ha (hpf ▸ hflags hone), ?_, by rw [Owed.maskWrites, hrw, hpm], hraised, by rw [Owed.slices, hrw, hps], ?_, ?_⟩
    · rw [hone, ← hdiv]
      exact hissued
    · rw [hfixed, hvar, decide_eq_true hone, Bool.true_and]
    · rw [hes, hf, p.foot_cross, hvar, hlat]
      cases var <;> simp [hone]
  · obtain ⟨r, es, hissued, hw, hrfl, hfixed, -, hes⟩ := s.laneMany_issued h p (hlen ▸ hone)
    refine ⟨_, r, es, State.lane_many hf he (hlen ▸ hone) ha, ?_, by rw [Owed.maskWrites, hw, hpm], hpf ▸ p.raised_of_flags hrfl,
      by rw [Owed.slices, hw, hps], ?_, ?_⟩
    · rw [← hlen, ← hdiv]
      exact hissued
    · rw [hfixed, decide_eq_false hone, Bool.false_and]
    · rw [hes, hwhole, if_pos rfl, hlat, if_neg (fun hc => hone hc.1)]

/-- One bit of a number, as a summand of a word of bits. -/
theorem fld_one_mul (x lo e : Nat) : fld x lo 1 * 2 ^ e = if x.testBit lo then 2 ^ e else 0 := by
  have hmod := Nat.mod_two_eq_zero_or_one (x / 2 ^ lo)
  have hbit : x.testBit lo = decide (x / 2 ^ lo % 2 = 1) := Nat.testBit_eq_decide_div_mod_eq
  rw [fld, hbit, Nat.pow_one]
  rcases hmod with h | h <;> simp [h]

/-- Settles O9: each whole-vector instruction makes its writes together, element by element what its operation gives. -/
theorem wholeVector : Obligations.WholeVector := by
  unfold Obligations.WholeVector
  intro h o s
  have hL := laneL_pos o.c
  have hd := s.cur.shapeN_pos o.d
  have ha := s.cur.shapeN_pos o.a
  have hw : 0 < 256 / (o.c.iwidth.toNat + 1) := Nat.div_pos (by have := iwidth_le o.c; omega) (Nat.succ_pos _)
  refine ⟨State.whole_done rfl rfl rfl ?vperm hd hL, State.whole_done rfl rfl rfl rfl hd hL, State.whole_done rfl rfl rfl rfl hd hL,
    State.whole_done rfl rfl rfl ?vcmpr ha hL, State.whole_done rfl rfl rfl rfl ha hL,
    State.whole_done rfl rfl rfl ?vscan hd hL, State.whole_done rfl rfl rfl ?bpack (by omega) hw,
    State.whole_done rfl rfl rfl ?bunpk (by omega) hw⟩
  case vperm =>
    refine congrArg (List.flatMap · _) (funext fun e => congrArg (Operand.put _ e) ?_)
    refine ite_congr rfl (fun _ => ?_) fun _ => rfl
    by_cases hk : (s.cur.use o.b (s.cur.shapeN o.d)).val s.cur.frame e < s.cur.avail o.a <;> simp [hk]
  case vcmpr =>
    simp only [List.length_map, Jet.actives]
    refine congrArg (fun l => (List.mapIdx _ l).flatten) ?_
    split <;> simp
  case vscan =>
    refine congrArg (List.flatMap · _) (funext fun e => congrArg (Operand.put _ e) ?_)
    refine ite_congr rfl (fun _ => ?_) fun _ => rfl
    exact (List.getD_eq_getElem?_getD ..).symm
  case bpack =>
    refine congrArg (List.flatMap · _) (funext fun k => congrArg (Operand.put _ k) ?_)
    exact congrArg (fun g => (List.map g _).sum) (funext fun e => fld_one_mul _ _ _)
  case bunpk =>
    refine congrArg (List.flatMap · _) (funext fun e => congrArg (Operand.put _ e) ?_)
    simp only [fld_one_mul]

end Sys2Proof.Machine
end

section
/-!
SUPPORT and PROOFS. What the instructions that reach memory ask for, and O14, O15, O17 and O18 of these.
-/

namespace Sys2Proof.Machine

/-! ### Loads, stores, prefetches and atomics -/

/-- The request of a load (R226, R227, R267). -/
def State.loadReq (s : State) (o : MemF) (signed acq : Bool) : Req :=
  { op := .load (signed && match o.d with | .slice _ => true | .view _ _ => false), va := MemF.ea o s.cur.frame, nb := MemF.nb o,
    rep := MemF.ea o s.cur.frame, sc := o.scope, acq := acq, ov := o.kind, hint := o.hint, dst := slotsOf (s.cur.memSlots o),
    direct := acq && o.scope != .tile }

/-- The request of a store (R226, R227, R268). -/
def State.storeReq (s : State) (o : MemF) (rel : Bool) : Req :=
  { op := .store, va := MemF.ea o s.cur.frame, nb := MemF.nb o, rep := MemF.ea o s.cur.frame, sc := o.scope, rel := rel, ov := o.kind,
    hint := o.hint, data := s.cur.frame.gather (slotsOf (s.cur.memSlots o)) % 2 ^ (8 * MemF.nb o), enables := fullEn (MemF.nb o), from_ := s.tc,
    gather := if (match o.d with | .slice _ => true | .view _ _ => false) then [] else slotsOf (s.cur.memSlots o) }

/-- The request of an atomic (R228). -/
def State.atomicReq (s : State) (o : MemF) (ar : Bool) : Req :=
  { op := .amo, va := MemF.ea o s.cur.frame, nb := MemF.nb o, rep := MemF.ea o s.cur.frame, sc := o.scope, acq := ar, rel := ar, ov := o.kind,
    hint := o.hint, afn := o.afn.toNat, asigned := o.asigned, data := s.cur.frame.gather (slotsOf (s.cur.memSlots o)), cmp := o.c.get s.cur.frame,
    dst := slotsOf (s.cur.memSlots o) }

/-- The request of an aggregated atomic (R229). -/
def State.aggReq (s : State) (o : MemF) : Req :=
  { op := .agg ((slotsOf (s.cur.aggElems o)).map fun e => s.cur.frame.read e.1 e.2), va := MemF.ea o s.cur.frame, nb := MemF.nb o,
    rep := MemF.ea o s.cur.frame, sc := o.scope, ov := o.kind, hint := o.hint, afn := o.afn.toNat,
    data := ((slotsOf (s.cur.aggElems o)).map fun e => s.cur.frame.read e.1 e.2).sum, dst := slotsOf (s.cur.aggElems o) }

theorem State.load_asks {i : Instr} {s : State} {h : Hdr} {o : MemF} {signed acq : Bool} (hf : footOf i s = s.cur.loadFoot o)
    (he : exec i s = s.load h o signed acq) : Asks s i h 16 (s.loadReq o signed acq) :=
  .of (k := fun s => s.accessAll h 16 [s.loadReq o signed acq]) hf he rfl

theorem State.store_asks {i : Instr} {s : State} {h : Hdr} {o : MemF} {rel : Bool} (hf : footOf i s = s.cur.storeFoot o)
    (he : exec i s = s.store h o rel) : Asks s i h 16 (s.storeReq o rel) :=
  .of (k := fun s => s.accessAll h 16 [s.storeReq o rel]) hf he rfl

theorem State.atomic_asks {i : Instr} {s : State} {h : Hdr} {o : MemF} {ar : Bool} (hf : footOf i s = s.cur.amoFoot o)
    (he : exec i s = s.atomic h o ar) : Asks s i h 16 (s.atomicReq o ar) :=
  .of (k := fun s => s.accessAll h 16 [s.atomicReq o ar]) hf he rfl

theorem State.amoAgg_asks (s : State) (h : Hdr) (o : MemF) : Asks s (.amoAgg h o) h 16 (s.aggReq o) :=
  .of (fp := s.cur.aggFoot o) (k := fun s => s.accessAll h 16 [s.aggReq o]) rfl rfl rfl

/-- The parts of a prefetch that a cache or the stash can take (R230). -/
def prefParts (ps : List Part) : List Part := ps.filter fun (p : Part) => p.path == .cached || p.path == .stash

/-- The state after a prefetch, before its jet goes on: one that would fault, or that no cache can take, is dropped (R230). -/
def State.prefetch (s : State) (r : Req) : State :=
  match s.check s.curTile r with
  | .error _ => s
  | .ok none => s.enter r none true
  | .ok (some l) => if (prefParts l).isEmpty then s else s.enter r (some (prefParts l)) true

theorem State.prefetch_error {s : State} {r : Req} {c : Nat} (h : s.check s.curTile r = .error c) : s.prefetch r = s := by
  rw [State.prefetch, h]

theorem State.prefetch_walk {s : State} {r : Req} (h : s.check s.curTile r = .ok none) : s.prefetch r = s.enter r none true := by
  rw [State.prefetch, h]

theorem State.prefetch_parts {s : State} {r : Req} {ps : List Part} (h : s.check s.curTile r = .ok (some ps)) :
    s.prefetch r = if prefParts ps = [] then s else s.enter r (some (prefParts ps)) true := by
  simp only [State.prefetch, h, List.isEmpty_iff]

/-- A prefetch owes nothing. -/
theorem State.prefetch_entering (s : State) {r : Req} (hr : r.dst = []) : Entering s (s.prefetch r) [] := by
  have enters (p : Option (List Part)) : Entering s (s.enter r p true) [] := by
    obtain ⟨os, hos, hdst⟩ := s.enter_entering r p true
    rw [if_pos hr, List.map_eq_nil_iff] at hdst
    exact hdst ▸ hos
  match h : s.check s.curTile r with
  | .error _ => rw [State.prefetch_error h]; exact .refl s
  | .ok none => rw [State.prefetch_walk h]; exact enters none
  | .ok (some ps) =>
    rw [State.prefetch_parts h]
    split
    · exact .refl s
    · exact enters _

/-- The request of a prefetch (R230). -/
def prefReq (o : MemF) (f : Frame) : Req := { op := .pref, va := MemF.ea o f, nb := MemF.nb o, rep := MemF.ea o f, ov := o.kind, hint := o.hint }

/-- Where its checks pass, a prefetch has asked for what may be brought nearer, and its jet goes on. -/
theorem State.pref_completes {s : State} {h : Hdr} {o : MemF} (ha : s.admits (.pref h o) = true) :
    exec (.pref h o) s = .next ((s.prefetch (prefReq o s.cur.frame)).advance h 16) :=
  State.guarded_of_admits (fun s => (s.prefetch (prefReq o s.cur.frame)).advance h 16) ha

/-- Settles O14: a load or a store asks for one access; a prefetch asks for what can be brought nearer, or is dropped. -/
theorem loadsAndStores : Obligations.LoadsAndStores := by
  unfold Obligations.LoadsAndStores
  intro h o s
  refine ⟨State.load_asks rfl rfl, State.load_asks rfl rfl, State.load_asks rfl rfl, State.load_asks rfl rfl, State.store_asks rfl rfl,
    State.store_asks rfl rfl, fun ha => ?_⟩
  refine ⟨_, State.pref_completes ha, .of h 16 (s.prefetch_entering rfl), ?_, ?_, ?_⟩
  · rintro ⟨c, hc⟩
    exact congrArg (·.advance h 16) (State.prefetch_error hc)
  · exact fun hc => congrArg (·.advance h 16) (State.prefetch_walk hc)
  · exact fun ps hc => (congrArg (·.advance h 16) (State.prefetch_parts hc)).trans (apply_ite (fun u : State => u.advance h 16) _ _ _)

/-- Settles O15: an atomic asks for one access. -/
theorem atomics : Obligations.Atomics := by
  unfold Obligations.Atomics
  exact fun h o s => ⟨State.atomic_asks rfl rfl, State.atomic_asks rfl rfl, s.amoAgg_asks h o⟩

/-- What an access that enters owes: its destination, where it has one. -/
theorem State.enter_entering_dst (s : State) (r : Req) (p : Option (List Part)) (b : Bool) :
    ∃ os, Entering s (s.enter r p b) os ∧ os.map (·.dst) = if r.dst = [] then [] else [r.dst] := by
  obtain ⟨os, hos, hmap⟩ := s.enter_entering r p b
  refine ⟨os, hos, ?_⟩
  have hdst := congrArg (List.map Prod.fst) hmap
  rw [List.map_map] at hdst
  exact hdst.trans (by split <;> rfl)

/-! ### wsig -/

/-- Two accesses that pass their checks enter one behind the other. -/
theorem State.accessAll_two {s : State} {a b : Req} {p q q2 : Option (List Part)} (h : Hdr) (len : Nat) (ha : s.check s.curTile a = .ok p)
    (hb : s.check s.curTile b = .ok q2) (hq : (s.enter a p true).check s.curTile b = .ok q) :
    s.accessAll h len [a, b] = ((s.enter a p true).enter b q true).advance h len := by
  have hcur : (s.enter a p true).curTile = s.curTile := by
    obtain ⟨os, hos, -⟩ := s.enter_entering a p true
    rw [hos.rest]
  simp [State.accessAll, ha, hb, hcur, hq]

/-- The flag alone is refused. -/
theorem State.accessAll_second_refused {s : State} {a b : Req} {p : Option (List Part)} {c : Nat} (h : Hdr) (len : Nat)
    (ha : s.check s.curTile a = .ok p) (hb : s.check s.curTile b = .error c) : s.accessAll h len [a, b] = s.trap (dataFault c b.rep b.nb) := by
  simp [State.accessAll, ha, hb]

/-- The payload alone is refused. -/
theorem State.accessAll_first_refused {s : State} {a b : Req} {p : Option (List Part)} {c : Nat} (h : Hdr) (len : Nat)
    (ha : s.check s.curTile a = .error c) (hb : s.check s.curTile b = .ok p) : s.accessAll h len [a, b] = s.trap (dataFault c a.rep a.nb) := by
  simp [State.accessAll, ha, hb]

/-- Both are refused: the lesser cause is reported (R388). -/
theorem State.accessAll_both_refused {s : State} {a b : Req} {c d : Nat} (h : Hdr) (len : Nat) (ha : s.check s.curTile a = .error c)
    (hb : s.check s.curTile b = .error d) :
    s.accessAll h len [a, b] = s.trap (if d < c then dataFault d b.rep b.nb else dataFault c a.rep a.nb) := by
  simp only [State.accessAll, List.filterMap_cons, ha, hb, List.filterMap_nil, List.foldl_cons, List.foldl_nil]
  split <;> rfl

/-- Two accesses that give no value enter and owe nothing. -/
theorem State.enter_two_entering (s : State) {a b : Req} (p q : Option (List Part)) (ha : a.dst = []) (hb : b.dst = []) :
    Entering s ((s.enter a p true).enter b q true) [] := by
  obtain ⟨os, hos, hdst⟩ := s.enter_entering a p true
  obtain ⟨os', hos', hdst'⟩ := (s.enter a p true).enter_entering b q true
  rw [if_pos ha, List.map_eq_nil_iff] at hdst
  rw [if_pos hb, List.map_eq_nil_iff] at hdst'
  subst hdst hdst'
  exact hos.trans hos'

/-- The write that `wsig` asks for (R232). -/
def wsigPayload (o : WsigF) (f : Frame) (tc : Nat) : Req :=
  { op := .store, va := o.a.get f, nb := WsigF.nb o, rep := o.a.get f, enables := fullEn (WsigF.nb o), from_ := tc,
    data := SliceOp.getRun o.d f (2 * WsigF.nb o), gather := SliceOp.run o.d (2 * WsigF.nb o), direct := true }

/-- The flag function that `wsig` asks for behind it (R232). -/
def wsigFlagReq (o : WsigF) (f : Frame) : Req :=
  { op := .wsigFlag, va := o.b.get f, nb := if o.f8 then 8 else 4, rep := o.b.get f, sc := o.scope, rel := true, afn := o.fn.toNat,
    data := o.c.get f, cmp := o.c.get f, direct := true }

/-- Where its checks pass, `wsig` asks for both. -/
theorem State.wsig_completes {s : State} {h : Hdr} {o : WsigF} (ha : s.admits (.wsig h o) = true) :
    exec (.wsig h o) s = .next (s.accessAll h 16 [wsigPayload o s.cur.frame s.tc, wsigFlagReq o s.cur.frame]) :=
  State.guarded_of_admits (fun s => s.accessAll h 16 [wsigPayload o s.cur.frame s.tc, wsigFlagReq o s.cur.frame]) ha

/-- Settles O18: both accesses of `wsig` enter, or the instruction traps with the lesser cause. -/
theorem writeAndSignal : Obligations.WriteAndSignal := by
  unfold Obligations.WriteAndSignal
  intro h o s f nb c pay flag ha
  have hexec : exec (.wsig h o) s = .next (s.accessAll h 16 [pay, flag]) := State.wsig_completes ha
  refine ⟨fun p q q2 hp hq2 hq => ?_, fun p c hp hc => ?_, fun p c hp hc => ?_, fun c d hc hd => ?_⟩
  · rw [State.accessAll_two h 16 hp hq2 hq] at hexec
    exact ⟨_, hexec, .of h 16 (s.enter_two_entering p q rfl rfl), rfl⟩
  · rw [hexec, State.accessAll_second_refused h 16 hp hc]
  · rw [hexec, State.accessAll_first_refused h 16 hc hp]
  · rw [hexec, State.accessAll_both_refused h 16 hc hd]

/-! ### spill and fill (R81, R82) -/

/-- The jet of a `spill` or `fill` sees the view that its progress latched. -/
def Jet.latched (j : Jet) (d : ElemOp) (vd : BitVec 64) : Jet := match d with | .view k _ => j.setView k.toNat vd | .slice _ => j

/-- The slices of a view are those of the register's value (R81). -/
theorem Jet.slots_congr {j j' : Jet} {k : BitVec 4} (hlim : j.limit = j'.limit) (hview : j.view k.toNat = j'.view k.toNat) (off : BitVec 12) (n : Nat) :
    j.slots k off n = j'.slots k off n := by
  simp only [Jet.slots, hlim, hview]

/-- The progress a `spill` or `fill` begins with, where none of its own was stopped. -/
theorem Jet.spillFrom_fresh {j : Jet} {o : MemF} {fill : Bool} (h : ∀ q, j.spill = some q → ¬ (q.stopped = true ∧ q.pc = j.pc)) :
    j.spillFrom o fill =
      { pc := j.pc, fill := fill, o := o, vd := match o.d with | .view k _ => j.view k.toNat | .slice _ => 0,
        na := MemF.ea o j.frame, beat := 0, owedId := 0, stopped := false } := by
  unfold Jet.spillFrom
  split
  · next q hq =>
    rw [if_neg (by simpa using h q hq)] <;> rfl
  · rfl

/-- The progress it goes on with. -/
theorem Jet.spillFrom_resumed {j : Jet} {q : SpillSt} (o : MemF) (fill : Bool) (hq : j.spill = some q) (hstop : q.stopped = true) (hpc : q.pc = j.pc) :
    j.spillFrom o fill = { q with stopped := false } := by
  simp [Jet.spillFrom, hq, hstop, hpc]

/-- The slices a `spill` or `fill` moves are those of the view that its progress latched (R72). -/
theorem Jet.spillSlots_latched (j : Jet) (o : MemF) (fill : Bool) :
    (j.spillView o).spillSlots o = (j.latched o.d (j.spillFrom o fill).vd).spillSlots o := by
  match hd : o.d with
  | .slice _ => simp [Jet.spillSlots, Jet.dataSlots, hd]
  | .view k off =>
    simp only [Jet.spillSlots, Jet.dataSlots, hd, Jet.latched]
    by_cases hgo : ∃ q, j.spill = some q ∧ q.stopped = true ∧ q.pc = j.pc
    · obtain ⟨q, hq, hstop, hpc⟩ := hgo
      simp [Jet.spillView, hq, hd, hstop, hpc, Jet.spillFrom_resumed o fill hq hstop hpc]
    · have hfresh := Jet.spillFrom_fresh (o := o) (fill := fill) fun q hq hs => hgo ⟨q, hq, hs⟩
      have hview : j.spillView o = j := by
        unfold Jet.spillView
        split
        · next hq _ => exact if_neg fun hs => hgo ⟨_, hq, by simpa using hs⟩
        · rfl
      rw [hview]
      refine Jet.slots_congr (j := j) (j' := j.setView k.toNat (j.spillFrom o fill).vd) rfl ?_ off _
      rw [Jet.view_setView_same, hfresh, hd]

/-- The beats that are still to come. -/
def spillBeats (o : MemF) (p : SpillSt) : List Nat := (List.range (ceilDiv (spillLen o) 16)).filter fun b => decide (p.beat ≤ b)

/-- The state after `spill` or `fill` has asked for its beats, the first of them checked now. -/
def State.spillGo (s : State) (h : Hdr) (p : SpillSt) (req : Nat → Req) : List Nat → State
  | [] => s.advance h 16
  | b :: bs =>
    match s.check s.curTile (req b) with
    | .error c => s.trap (dataFault c (req b).rep (req b).nb)
    | .ok x => (bs.foldl (fun (s : State) b => s.enter (req b) none false) ((s.modCur fun j => { j with spill := some p }).enter (req b) x true)).advance h 16

/-- An access that enters takes no time. -/
theorem State.enter_tc (s : State) (r : Req) (p : Option (List Part)) (b : Bool) : (s.enter r p b).tc = s.tc := by
  obtain ⟨os, hos, -⟩ := s.enter_entering r p b
  rw [State.tc, hos.rest, State.tc]

/-- Requests that are made for the tc of the state are made for that of the first. -/
theorem State.enters_tc (req : Nat → Nat → Req) (l : List Nat) (s : State) :
    l.foldl (fun (u : State) b => u.enter (req u.tc b) none false) s = l.foldl (fun (u : State) b => u.enter (req s.tc b) none false) s := by
  induction l generalizing s with
  | nil => rfl
  | cons b l ih => rw [List.foldl_cons, ih, State.enter_tc, List.foldl_cons]

/-- What `spill` and `fill` do where their checks pass. -/
theorem State.spillFill_eq (s : State) (h : Hdr) (o : MemF) (fill : Bool) :
    s.spillFill h o fill = s.guarded (s.cur.spillFoot o fill) fun s =>
      s.spillGo h (s.cur.spillFrom o fill) (beatReq (s.cur.spillFrom o fill) s.cur.frame (slotsOf ((s.cur.spillView o).spillSlots o)) s.tc)
        (spillBeats o (s.cur.spillFrom o fill)) := by
  unfold State.spillFill
  congr 1
  funext u
  dsimp only
  unfold spillBeats
  generalize (List.range (ceilDiv (spillLen o) 16)).filter _ = l
  cases l with
  | nil => rfl
  | cons b bs =>
    unfold State.spillGo
    dsimp only
    match u.check u.curTile (beatReq (u.cur.spillFrom o fill) u.cur.frame (slotsOf ((u.cur.spillView o).spillSlots o)) u.tc b) with
    | .error _ => rfl
    | .ok _ =>
      refine congrArg (fun v : State => v.advance h 16) ((State.enters_tc (fun tc b => beatReq _ _ _ tc b) bs _).trans ?_)
      rw [State.enter_tc]
      rfl

/-- Beats enter one after another; each owes the slices that it fills. -/
theorem State.enters_entering (s : State) (req : Nat → Req) (l : List Nat) :
    ∃ os, Entering s (l.foldl (fun (s : State) b => s.enter (req b) none false) s) os ∧
      os.map (·.dst) = (l.map fun b => (req b).dst).filter (· ≠ []) := by
  induction l generalizing s with
  | nil => exact ⟨[], .refl s, rfl⟩
  | cons b l ih =>
    obtain ⟨os, hos, hdst⟩ := s.enter_entering_dst (req b) none false
    obtain ⟨os', hos', hdst'⟩ := ih (s.enter (req b) none false)
    refine ⟨os ++ os', hos.trans hos', ?_⟩
    rw [List.map_append, hdst, hdst', List.map_cons, List.filter_cons]
    split <;> simp_all

/-- A jet that notes its progress, and whose accesses have then entered, goes on. -/
theorem Entered.of_spill {s u : State} {p : SpillSt} {os : List Owed} (h : Hdr) (len : Nat)
    (hu : Entering (s.modCur fun j => { j with spill := some p }) u os) : Entered s (u.advance h len) h len os (some p) := by
  obtain ⟨hrest, hothers, htile, hslots, hjet, hnetwork, hcaches⟩ := Entered.of h len hu
  have hhere : (s.modCur fun j => { j with spill := some p }).here = s.here.setJet s.curSlot { s.cur with spill := some p } := by
    simp [State.modCur_tiles, State.here, State.tile]
  have hcur : (s.modCur fun j => { j with spill := some p }).cur = { s.cur with spill := some p } := by
    rw [State.cur_eq, hhere]
    exact Tile.jet_setJet_same ..
  refine ⟨hrest, fun m hm => ?_, ?_, fun k hk => ?_, ?_, hnetwork, hcaches⟩
  · rw [hothers m hm]
    simp [State.modCur_tiles, State.tile, hm]
  · rw [htile, hhere]
    rfl
  · rw [hslots k hk, hhere]
    exact Tile.jet_setJet_ne _ _ hk
  · rw [hjet, hcur]
    rfl

/-- The beats of a `spill` or `fill` enter, the first with what its check found; each owes the slices that it fills. -/
theorem State.spillGo_entered (s : State) (h : Hdr) (p : SpillSt) (req : Nat → Req) (b : Nat) (bs : List Nat) (ps : Option (List Part)) :
    ∃ os, Entered s ((bs.foldl (fun (s : State) b => s.enter (req b) none false)
        ((s.modCur fun j => { j with spill := some p }).enter (req b) ps true)).advance h 16) h 16 os (some p) ∧
      os.map (·.dst) = ((b :: bs).map fun b => (req b).dst).filter (· ≠ []) := by
  obtain ⟨os, hos, hdst⟩ := (s.modCur fun j => { j with spill := some p }).enter_entering_dst (req b) ps true
  obtain ⟨os', hos', hdst'⟩ := State.enters_entering _ req bs
  refine ⟨os ++ os', .of_spill h 16 (hos.trans hos'), ?_⟩
  rw [List.map_append, hdst, hdst', List.map_cons, List.filter_cons]
  split <;> simp_all

/-- Where its checks pass, a `spill` or `fill` asks for the beats that are still to come. -/
theorem State.spillFill_completes {s : State} {h : Hdr} {o : MemF} {fill : Bool} (ha : s.admits (if fill then .fill h o else .spill h o) = true) :
    exec (if fill then .fill h o else .spill h o) s = .next
      (s.spillGo h (s.cur.spillFrom o fill) (beatReq (s.cur.spillFrom o fill) s.cur.frame (slotsOf ((s.cur.spillView o).spillSlots o)) s.tc)
        (spillBeats o (s.cur.spillFrom o fill))) := by
  have hexec : exec (if fill then .fill h o else .spill h o) s = s.spillFill h o fill := by cases fill <;> rfl
  have hfoot : footOf (if fill then .fill h o else .spill h o) s = s.cur.spillFoot o fill := by cases fill <;> rfl
  rw [hexec, State.spillFill_eq, ← hfoot, State.guarded_of_admits _ ha]

/-- The runs that a `fill` owes; a `spill` owes none. -/
theorem filledRuns (fill : Bool) (runs : Nat → List (Nat × Nat)) (bs : List Nat) :
    (bs.map fun b => if fill then runs b else []).filter (· ≠ []) = (if fill then bs.map runs else []).filter (· ≠ []) := by
  cases fill
  · simp
  · rfl

/-- Settles O17: the beats of a `spill` or `fill` enter, from the one that an interruption left. -/
theorem spillAndFill : Obligations.SpillAndFill := by
  unfold Obligations.SpillAndFill
  intro h o fill s i f na p j l n beats req
  refine ⟨fun hq => ?_, fun q hq hstop hpc => Jet.spillFrom_resumed o fill hq hstop hpc, fun ha ho hfill => ?_⟩
  · have hp : p = _ := Jet.spillFrom_fresh hq
    rw [hp]
    exact ⟨rfl, rfl, rfl⟩
  · have hl : slotsOf ((s.cur.spillView o).spillSlots o) = l := congrArg slotsOf (Jet.spillSlots_latched s.cur o fill)
    have hreq : beatReq p f l s.tc = req := funext fun b => by simp only [beatReq, ho, hfill] <;> rfl
    have hexec : exec i s = .next (s.spillGo h p req beats) := by
      rw [← hreq, ← hl]
      exact State.spillFill_completes ha
    have hdsts (bs : List Nat) : (bs.map fun b => (req b).dst).filter (· ≠ []) = (if fill then bs.map (beatRuns l) else []).filter (· ≠ []) :=
      filledRuns fill (beatRuns l) bs
    refine ⟨fun hnil => ?_, fun b bs ps hcons hc => ?_, fun b bs c hcons hc => ?_⟩
    · rw [hexec, hnil]
      exact ⟨_, rfl, .of h 16 (.refl s)⟩
    · obtain ⟨os, hos, hdst⟩ := s.spillGo_entered h p req b bs ps
      refine ⟨_, os, ?_, hos, rfl, ?_⟩
      · rw [hexec, hcons, State.spillGo, hc]
      · rw [hdst, hcons, hdsts]
    · rw [hexec, hcons, State.spillGo, hc]

end Sys2Proof.Machine
end

section
/-!
SUPPORT and PROOFS. What a step that is no access may leave as it is, the copy engine's instructions, and O21 to O23 of these.
-/

namespace Sys2Proof.Machine

/-! ### Statuses -/

/-- Where its checks pass, an instruction that changes its tile by `g` and owes a known status has no other effect (R67). -/
theorem State.status_completes {i : Instr} {s : State} {h : Hdr} {len lat : Nat} {d : SliceOp} {v : Nat} {g : Tile → Tile}
    (he : exec i s = s.guarded (footOf i s) fun s => ((s.modHere g).oweStatus lat d v).advance h len) (hg : ∀ x, (g x).jets = x.jets) :
    s.admits i = true → ∃ t, exec i s = .next t ∧ Status s t h len g lat d v :=
  State.completes he (s.oweStatus_status h len lat d v hg)

/-! ### ctpl, cpy and cpy.cmp -/

/-- The status of `ctpl` as R238 orders it. -/
theorem tplStatus_eq (r : Nat) : tplStatus r =
    if fld r 491 21 ≠ 0 ∨ 4 < fld r 488 3 then 1 else if rises (tplOf r).esize (tplOf r).levels 0 = false then 2
    else if (tplOf r).srcCount ≠ (tplOf r).dstCount ∨ 2 ^ 32 ≤ (tplOf r).srcCount * (tplOf r).esize then 3 else 0 := by
  simp only [tplStatus, Bool.or_eq_true, bne_iff_ne, decide_eq_true_eq, Bool.not_eq_true']
  rfl

/-- What `ctpl` does to its tile: where its status is 0 it installs its template. -/
def Tile.ctplTaken (r st k : Nat) (x : Tile) : Tile := if st = 0 then { x with templates := Tbl.set x.templates k (some (tplOf r)) } else x

theorem Tile.ctplTaken_jets (r st k : Nat) (x : Tile) : (Tile.ctplTaken r st k x).jets = x.jets := by
  unfold Tile.ctplTaken
  split <;> rfl

/-- An update that leaves the issuing tile as it is leaves the state as it reads. -/
theorem State.ctpl_status (s : State) (h : Hdr) (d : SliceOp) (r st k : Nat) :
    Status s (((if st = 0 then s.modHere fun x => { x with templates := Tbl.set x.templates k (some (tplOf r)) } else s).oweStatus 4 d st).advance h 16)
      h 16 (Tile.ctplTaken r st k) 4 d st := by
  by_cases hst : st = 0
  · have hg : Tile.ctplTaken r st k = fun x => { x with templates := Tbl.set x.templates k (some (tplOf r)) } := funext fun _ => if_pos hst
    rw [if_pos hst, hg]
    exact s.oweStatus_status h 16 4 d st fun _ => rfl
  · have hg : Tile.ctplTaken r st k = id := funext fun _ => if_neg hst
    rw [if_neg hst, hg]
    exact s.oweStatus_status_id h 16 4 d st

/-- Where its checks pass, `ctpl` answers its status, and takes its template where that is 0 (R238). -/
theorem State.ctpl_completes (s : State) (h : Hdr) (o : R2) (k : BitVec 6) : s.admits (.ctpl h o k) = true →
    ∃ t, exec (.ctpl h o k) s = .next t ∧ Status s t h 16 (Tile.ctplTaken (SliceOp.getRun o.a s.cur.frame 128)
      (tplStatus (SliceOp.getRun o.a s.cur.frame 128)) k.toNat) 4 o.d (tplStatus (SliceOp.getRun o.a s.cur.frame 128)) :=
  State.completes (k := fun s => ((if tplStatus (SliceOp.getRun o.a s.cur.frame 128) = 0
      then s.modHere fun x => { x with templates := Tbl.set x.templates k.toNat (some (tplOf (SliceOp.getRun o.a s.cur.frame 128))) } else s).oweStatus 4 o.d
      (tplStatus (SliceOp.getRun o.a s.cur.frame 128))).advance h 16) rfl (s.ctpl_status h o.d _ _ _)

/-- The command that a local `cpy` builds of an image. -/
def State.localCopy (s : State) (img : Nat) : CopyCmd :=
  { img := BitVec.ofNat 512 img, checked := false, issuer := .tile s.curTile, inst := s.cur.inst, jet := s.cur.key, upTo := s.nextId, arrived := s.tc,
    ahead := none }

/-- The bytes of the own pool that a command will land in (R240). -/
def State.landsAt (s : State) (c : CopyCmd) : Option (Nat × Nat) :=
  match s.checkCopy s.curTile c with
  | .ok k => (s.poolAt s.curTile k.lowVa).bind fun e => if e.1 = s.curTile then some (e.2, k.bytes) else none
  | .error _ => none

/-- What the own pool's bytes are is read off the command that passes its checks. -/
theorem State.landsAt_some {s : State} {c : CopyCmd} {e : Nat × Nat} (h : s.landsAt c = some e) :
    ∃ k, s.checkCopy s.curTile c = .ok k ∧ s.poolAt s.curTile k.lowVa = some (s.curTile, e.1) ∧ e.2 = k.bytes := by
  unfold State.landsAt at h
  split at h
  · next k hk =>
    obtain ⟨⟨n, p⟩, hpool, hhere⟩ := Option.bind_eq_some_iff.mp h
    split at hhere
    · next hn =>
      cases hhere
      exact ⟨k, hk, by rw [hpool]; exact congrArg (fun n => some (n, p)) hn, rfl⟩
    · cases hhere
  · cases h

/-- The queue after a local command of an image, and the bytes of the own pool that it names. -/
def Queued (s t : State) (h : Hdr) (img : Nat) (w : Option (Nat × Nat)) : Prop :=
  Issued s t h 16 (fun x => { x with copyQ := x.copyQ ++ [{ s.localCopy img with ahead := w }] }) [] [] ∧
    ∀ e, w = some e → ∃ k, s.checkCopy s.curTile (s.localCopy img) = .ok k ∧ s.poolAt s.curTile k.lowVa = some (s.curTile, e.1) ∧ e.2 = k.bytes

/-- A command joins the local queue, and its jet goes on. -/
theorem State.queueCopy_queued (s : State) (h : Hdr) (img : Nat) : ∃ w, Queued s ((s.queueCopy img).advance h 16) h img w :=
  ⟨s.landsAt (s.localCopy img), s.advance_issued h 16 fun _ => rfl, fun _ => State.landsAt_some⟩

/-- Where its checks pass, `cpy` puts its command behind the local queue (R239, R240). -/
theorem State.cpy_completes (s : State) (h : Hdr) (q : CpyF) (ha : s.admits (.cpy h q) = true) :
    ∃ t w, exec (.cpy h q) s = .next t ∧ Queued s t h (cpyImage q s.cur.frame false 0) w := by
  obtain ⟨w, hw⟩ := s.queueCopy_queued h (cpyImage q s.cur.frame false 0)
  exact ⟨_, w, State.guarded_of_admits (fun s => (s.queueCopy (cpyImage q s.cur.frame false 0)).advance h 16) ha, hw⟩

/-- Where its checks pass, `cpy.cmp` does, with the rows of its mask. -/
theorem State.cpyCmp_completes (s : State) (h : Hdr) (q : CpyF) (m : BitVec 3) (ha : s.admits (.cpyCmp h q m) = true) :
    ∃ t w, exec (.cpyCmp h q m) s = .next t ∧ Queued s t h (cpyImage q s.cur.frame true (s.cur.mask m.toNat).toNat) w := by
  obtain ⟨w, hw⟩ := s.queueCopy_queued h (cpyImage q s.cur.frame true (s.cur.mask m.toNat).toNat)
  exact ⟨_, w, State.guarded_of_admits (fun s => (s.queueCopy (cpyImage q s.cur.frame true (s.cur.mask m.toNat).toNat)).advance h 16) ha, hw⟩

/-- Settles O21: `ctpl` owes its status, and a copy instruction puts one command into the queue. -/
theorem copyIssue : Obligations.CopyIssue := by
  unfold Obligations.CopyIssue
  intro h o q tpl m s f r t0 st take image queued
  have hcpy : image 0 0 = cpyImage q f false 0 := by simp only [image, cpyImage, b2n, show (0 : BitVec 256).toNat = 0 from rfl, Bool.false_eq_true, if_false]
  have hcmp : image 1 (s.cur.mask m.toNat) = cpyImage q f true (s.cur.mask m.toNat).toNat := by simp only [image, cpyImage, b2n, if_true]
  rw [hcpy, hcmp]
  refine ⟨?_, s.cpy_completes h q, s.cpyCmp_completes h q m⟩
  have hctpl := s.ctpl_completes h o tpl
  rw [tplStatus_eq] at hctpl
  exact hctpl

/-! ### The order of a template's elements (R237, R238) -/

/-- The number of elements of levels, the product of their extents. -/
def extentOf (l : List TplLevel) : Nat := l.foldl (fun n x => n * x.dext) 1

theorem extentOf_cons (x : TplLevel) (l : List TplLevel) : extentOf (x :: l) = x.dext * extentOf l := by
  have hmul : ∀ (l : List TplLevel) (a : Nat), l.foldl (fun n x => n * x.dext) a = a * l.foldl (fun n x => n * x.dext) 1 := by
    intro l
    induction l with
    | nil => simp
    | cons y l ih =>
      intro a
      rw [List.foldl_cons, ih, List.foldl_cons, ih (1 * y.dext), Nat.one_mul, Nat.mul_assoc]
  rw [extentOf, List.foldl_cons, hmul, Nat.one_mul, extentOf]

theorem extentOf_pos {l : List TplLevel} (h : ∀ x ∈ l, 1 ≤ x.dext) : 1 ≤ extentOf l := by
  induction l with
  | nil => exact Nat.le_refl 1
  | cons x l ih =>
    rw [extentOf_cons]
    exact Nat.mul_pos (h x List.mem_cons_self) (ih fun y hy => h y (List.mem_cons_of_mem x hy))

/-- The destination offset of element `k` of levels. -/
def levelsAt (l : List TplLevel) (k : Nat) : Int := offsetAt (l.map fun x => (x.dext, x.dstr)) k

theorem levelsAt_cons (x : TplLevel) (l : List TplLevel) (k : Nat) : levelsAt (x :: l) k = (k % x.dext : Nat) * x.dstr + levelsAt l (k / x.dext) := rfl

/-- Every element lies at least `gap` above the one before it. -/
def stepsBy (gap : Int) (l : List TplLevel) : Prop := ∀ k, k + 1 < extentOf l → levelsAt l k + gap ≤ levelsAt l (k + 1)

/-- Two elements of one row of the innermost level. -/
theorem levelsAt_row (x : TplLevel) (l : List TplLevel) {q m : Nat} (hm : m + 1 < x.dext) :
    levelsAt (x :: l) (x.dext * q + m + 1) = levelsAt (x :: l) (x.dext * q + m) + x.dstr := by
  have hpos : 0 < x.dext := by omega
  have hlt : m < x.dext := by omega
  rw [levelsAt_cons, levelsAt_cons, Nat.add_assoc, Nat.mul_add_mod, Nat.mul_add_mod, Nat.mod_eq_of_lt hm, Nat.mod_eq_of_lt hlt,
    Nat.mul_add_div hpos, Nat.mul_add_div hpos, Nat.div_eq_of_lt hm, Nat.div_eq_of_lt hlt]
  push_cast
  ring

/-- The last element of a row, and the first of the next. -/
theorem levelsAt_carry (x : TplLevel) (l : List TplLevel) (q : Nat) {m : Nat} (hm : m + 1 = x.dext) :
    levelsAt (x :: l) (x.dext * q + m) = ((x.dext : Int) - 1) * x.dstr + levelsAt l q ∧ levelsAt (x :: l) (x.dext * q + m + 1) = levelsAt l (q + 1) := by
  have hpos : 0 < x.dext := by omega
  constructor
  · have hlt : m < x.dext := by omega
    rw [levelsAt_cons, Nat.mul_add_mod, Nat.mod_eq_of_lt hlt, Nat.mul_add_div hpos, Nat.div_eq_of_lt hlt, ← hm]
    push_cast
    ring_nf
  · rw [levelsAt_cons, Nat.add_assoc, hm, ← Nat.mul_succ, Nat.mul_mod_right, Nat.mul_div_cancel_left _ hpos]
    simp

/-- Elements step by `gap` where the innermost level does, and the others by so much more as it goes back. -/
theorem stepsBy_cons {x : TplLevel} {l : List TplLevel} (gap : Int) (hx : 1 ≤ x.dext) (hl : ∀ y ∈ l, 1 ≤ y.dext) :
    stepsBy gap (x :: l) ↔ (x.dext = 1 ∨ gap ≤ x.dstr) ∧ stepsBy (gap + ((x.dext : Int) - 1) * x.dstr) l := by
  have hn := extentOf_pos hl
  constructor
  · intro h
    refine ⟨?_, fun q hq => ?_⟩
    · by_cases hone : x.dext = 1
      · exact .inl hone
      · have hm : 0 + 1 < x.dext := by omega
        have hstep := h (x.dext * 0 + 0) (by rw [extentOf_cons]; nlinarith)
        rw [levelsAt_row x l hm] at hstep
        exact .inr (by omega)
    · have hm : (x.dext - 1) + 1 = x.dext := by omega
      obtain ⟨hlast, hfirst⟩ := levelsAt_carry x l q hm
      have hlt : x.dext * q + (x.dext - 1) + 1 < extentOf (x :: l) := by
        rw [extentOf_cons, Nat.add_assoc, hm, ← Nat.mul_succ]
        exact Nat.mul_lt_mul_of_pos_left hq hx
      have hstep := h _ hlt
      rw [hlast, hfirst] at hstep
      linarith
  · rintro ⟨hrow, hrest⟩ k hk
    have hdm : x.dext * (k / x.dext) + k % x.dext = k := Nat.div_add_mod k x.dext
    have hmod : k % x.dext < x.dext := Nat.mod_lt _ hx
    rw [← hdm]
    by_cases hm : k % x.dext + 1 < x.dext
    · rw [levelsAt_row x l hm]
      have hgap := hrow.resolve_left (by omega)
      omega
    · have hlast : k % x.dext + 1 = x.dext := by omega
      have hq : k / x.dext + 1 < extentOf l := by
        rw [extentOf_cons] at hk
        have : x.dext * (k / x.dext + 1) < x.dext * extentOf l := by rw [Nat.mul_succ]; omega
        exact Nat.lt_of_mul_lt_mul_left this
      obtain ⟨hfrom, hto⟩ := levelsAt_carry x l (k / x.dext) hlast
      rw [hfrom, hto]
      have := hrest _ hq
      linarith

/-- The check of levels, given how far those below go back. -/
theorem rises_iff_stepsBy (es : Nat) {l : List TplLevel} (hl : ∀ x ∈ l, 1 ≤ x.dext) (back : Int) :
    rises es l back = true ↔ stepsBy (es + back) l := by
  induction l generalizing back with
  | nil => exact ⟨fun _ k hk => absurd hk (by simp [extentOf]), fun _ => rfl⟩
  | cons x l ih =>
    have hrest : ∀ y ∈ l, 1 ≤ y.dext := fun y hy => hl y (List.mem_cons_of_mem x hy)
    have hle : ((es : Int) ≤ x.dstr - back) ↔ (es : Int) + back ≤ x.dstr := by omega
    rw [rises, Bool.and_eq_true, Bool.or_eq_true, beq_iff_eq, decide_eq_true_iff, hle, ih hrest,
      stepsBy_cons _ (hl x List.mem_cons_self) hrest, add_assoc]

/-- Settles O22: by induction on the levels, with how far those below go back. -/
theorem templateOrder : Obligations.TemplateOrder := by
  unfold Obligations.TemplateOrder
  intro es l hl
  have h := rises_iff_stepsBy es hl 0
  rw [add_zero] at h
  exact h

/-! ### cabt and the number of its tile -/

/-- A state whose turn is a jet of tile 65536, whose channel 0 has begun a copy with a done handle and a watermark of 0. -/
def farTile : State :=
  { State.reset with
    curTile := 65536
    tiles := [(65536, { Tile.reset with chans := [(0, { Channel.idle with state := .landing, use := .copy, done := 1 })] })] }

/-- What `cabt` of channel 0 leaves of it. -/
def farTileAborted : State := ((farTile.retireChan 65536 0 1).oweStatus 2 .nz 0).advance ⟨false, 0⟩ 8

theorem farTile_cabt : exec (.cabt ⟨false, 0⟩ .nz 0) farTile = .next farTileAborted := rfl

/-- The one message that it sends, and what stands where the watermark is to stand. -/
theorem farTileAborted_outbound : farTileAborted.here.weir.outbound.map (fun e => fld e.m.payload 64 64) = [1] := rfl

/-- Refutes O23: the done message gives its tile 16 bits, which a state is not said to keep to; `cabt` on tile 65536 sends a watermark of 1 where its
channel has 0. -/
theorem not_channelControl : ¬ Obligations.ChannelControl := by
  unfold Obligations.ChannelControl
  intro hall
  obtain ⟨-, habt, -⟩ := hall ⟨false, 0⟩ .nz 0 farTile
  obtain ⟨habort, -⟩ := habt rfl
  obtain ⟨t, u, hexec, hstatus, -, -, -, hsent⟩ := habort (.inl rfl) rfl
  obtain ⟨e, hout, -, -, -, -, -, -, hwm⟩ := hsent (by decide) rfl
  rw [farTile_cabt] at hexec
  cases hexec
  have hweir : farTileAborted.here.weir = u.here.weir := by rw [hstatus.frame.tile]; rfl
  have hmsg := farTileAborted_outbound
  rw [hweir, hout] at hmsg
  have hfar : farTile.here.weir.outbound = [] := rfl
  have hzero : (farTile.here.chan 0).wm.toNat = 0 := rfl
  rw [hfar, List.nil_append, List.map_singleton, hwm] at hmsg
  exact absurd (hzero.symm.trans (List.singleton_inj.mp hmsg)) (by decide)

end Sys2Proof.Machine
end

section
/-!
SUPPORT and PROOFS. The instructions of the weir, of work and of gangs, and O27 to O30 of these.
-/

namespace Sys2Proof.Machine

/-! ### Changes that leave jets and pools alone -/

theorem Kept.refl (s : State) : Kept s s := ⟨rfl, fun _ => rfl, fun _ _ => rfl, rfl, rfl, rfl, rfl⟩

theorem Kept.trans {s t u : State} (h : Kept s t) (k : Kept t u) : Kept s u := by
  obtain ⟨hnc, hturn, htile, hslot⟩ := h.time
  obtain ⟨knc, kturn, ktile, kslot⟩ := k.time
  exact ⟨k.mem.trans h.mem, fun n => (k.pools n).trans (h.pools n), fun n j => (k.jets n j).trans (h.jets n j),
    knc.trans hnc, kturn.trans hturn, ktile.trans htile, kslot.trans hslot⟩

/-- A change of a tile that leaves its pool and its jets alone. -/
theorem Kept.modTile (s : State) (n : Nat) {f : Tile → Tile} (hpool : ∀ x, (f x).pool = x.pool) (hjets : ∀ x, (f x).jets = x.jets) :
    Kept s (s.modTile n f) := by
  have htile (m : Nat) : ((s.modTile n f).tile m).pool = (s.tile m).pool ∧ ((s.modTile n f).tile m).jets = (s.tile m).jets := by
    by_cases hm : m = n
    · subst hm
      simp [hpool, hjets]
    · rw [State.tile_modTile_ne s f hm]
      exact ⟨rfl, rfl⟩
  refine ⟨rfl, fun m => (htile m).1, fun m j => ?_, rfl, rfl, rfl, rfl⟩
  rw [State.jet, Tile.jet, (htile m).2]
  rfl

/-- Steps that each leave jets and pools alone. -/
theorem Kept.foldl {α : Type} {f : State → α → State} (hf : ∀ s a, Kept s (f s a)) (l : List α) (s : State) : Kept s (l.foldl f s) := by
  induction l generalizing s with
  | nil => exact .refl s
  | cons a l ih => exact (hf s a).trans (ih _)

/-- An instruction that has issued, seen in its jet alone. -/
theorem Issued.wentOn {s t : State} {h : Hdr} {len : Nat} {g : Tile → Tile} {os : List Owed} {es : List (Nat × Focus × Instr)}
    (hi : Issued s t h len g os es) (hg : ∀ x, (g x).pool = x.pool) : WentOn s t h len os := by
  obtain ⟨⟨hrest, hothers, htile, hslots⟩, hjet, -⟩ := hi
  have hct : t.curTile = s.curTile := by rw [hrest]
  have hcs : t.curSlot = s.curSlot := by rw [hrest]
  have hhere : t.tile s.curTile = t.here := by rw [State.here, hct]
  refine ⟨by rw [hrest], fun n => ?_, fun n k hnk => ?_, ?_, by rw [hrest], by rw [hrest], hct, hcs⟩
  · by_cases hn : n = s.curTile
    · rw [hn, hhere, htile]
      exact hg _
    · rw [hothers n hn]
  · by_cases hn : n = s.curTile
    · subst hn
      rw [State.jet, hhere]
      exact hslots k fun hk => hnk (by rw [hk])
    · rw [State.jet, hothers n hn]
      rfl
  · rw [State.jet, hhere, ← hcs]
    exact hjet

/-! ### Results that come later -/

/-- Owing a result and changing the tile besides its jets come to the same in either order. -/
theorem State.oweVar_modHere (s : State) {g : Tile → Tile} (hjets : ∀ x, (g x).jets = x.jets)
    (hset : ∀ (x : Tile) k v, g (x.setJet k v) = (g x).setJet k v) (dst : List (Nat × Nat)) :
    (s.oweVar dst [] [] [] false).2.modHere g = ((s.modHere g).oweVar dst [] [] [] false).2 := by
  have hj : ∀ x k, (g x).jet k = x.jet k := fun x k => by simp [Tile.jet, hjets]
  simp only [State.oweVar, s.cur_modHere hjets]
  simp [State.modHere_tiles, State.modCur_tiles, State.tile, State.here, State.cur_eq, hj, hset, State.tc]

/-- A result is owed that comes when something else tells it, after a change of the issuing tile that leaves its jets alone. -/
theorem State.oweVar_issued (s : State) (h : Hdr) (len : Nat) (dst : List (Nat × Nat)) {g : Tile → Tile} (hg : ∀ x, (g x).jets = x.jets) :
    Issued s (((s.modHere g).oweVar dst [] [] [] false).2.advance h len) h len g [s.varOwed dst [] [] [] false] [] := by
  have hj : ∀ x k, (g x).jet k = x.jet k := fun x k => by simp [Tile.jet, hg]
  refine Issued.of_tiles hg ?_
  simp only [State.oweVar, s.cur_modHere hg]
  simp [State.tilesWith, State.advance, State.modHere_tiles, State.modCur_tiles, State.tile, State.here, State.cur_eq, hj,
    Jet.stepped, Jet.behind, withEvents, State.varOwed, State.tc]

/-- The same where nothing of the tile is changed. -/
theorem State.oweVar_issued_id (s : State) (h : Hdr) (len : Nat) (dst : List (Nat × Nat)) :
    Issued s ((s.oweVar dst [] [] [] false).2.advance h len) h len id [s.varOwed dst [] [] [] false] [] := by
  refine Issued.of_tiles (fun _ => rfl) ?_
  simp [State.oweVar, State.tilesWith, State.advance, State.modCur_tiles, State.tile, State.here, State.cur_eq,
    Jet.stepped, Jet.behind, withEvents, State.varOwed, State.tc]

/-- A result is owed that an event will bring. -/
theorem State.oweVar_pending_id (s : State) (h : Hdr) (len : Nat) (dst : List (Nat × Nat)) (lat : Nat) (e : Instr) (d data : Nat) :
    Pending s (((s.oweVar dst [] [] [] false).2.after lat e ⟨s.curTile, s.curSlot, s.nextId, d, data⟩).advance h len) h len id dst lat e d data := by
  refine Issued.of_tiles (fun _ => rfl) ?_
  simp [State.oweVar, State.tilesWith, State.advance, State.modCur_tiles, State.tile, State.here, State.cur_eq,
    Jet.stepped, Jet.behind, withEvents, State.evt, State.varOwed, State.after, State.at_, State.tc]

/-! ### Sends (R166, R167) -/

/-- Where its checks pass, a send puts its message into the outbound buffer, and has no other effect. -/
theorem State.send_completes {i : Instr} {s : State} {h : Hdr} {k : State → State} {m : SendMsg}
    (he : exec i s = s.guarded (footOf i s) k) (hk : k s = (s.post s.curTile s.cur.key m).advance h 16) : s.admits i = true →
    ∃ t, exec i s = .next t ∧ Issued s t h 16 (fun x => { x with weir := { x.weir with outbound :=
      x.weir.outbound ++ [⟨m, s.cur.key, s.nextId, false, false, s.tc⟩] } }) [] [] := by
  refine State.completes he ?_
  rw [hk]
  exact s.advance_issued h 16 fun _ => rfl

/-- The message of a send of data (R166). -/
def State.dataSent (s : State) (o : R2) (size : BitVec 2) (rel : Option Scope) (all : Bool) : State :=
  s.jetSend (o.d.get s.cur.frame) .data (msgBytes size) (SliceOp.getRun o.a s.cur.frame (2 * msgBytes size)) rel all

/-- The addition of `sendc` (R172). -/
def State.addSent (s : State) (o : R2) : State :=
  s.jetSend (o.d.get s.cur.frame) .add 16 (o.a.get s.cur.frame)
    (some (if hDev (BitVec.ofNat 32 (o.d.get s.cur.frame)) = s.dev.device.toNat then .device else .system)) false

/-- The threshold of `arm` (R172). -/
def State.armSent (s : State) (o : R2) : State := s.jetSend (o.d.get s.cur.frame) .arm 16 (o.a.get s.cur.frame) none false

/-- Settles O27: every send posts one message. -/
theorem sends : Obligations.Sends := by
  unfold Obligations.Sends
  intro h o size sc s
  exact ⟨State.send_completes (k := fun s => (s.dataSent o size none false).advance h 16) rfl rfl,
    State.send_completes (k := fun s => (s.dataSent o size (some sc) false).advance h 16) rfl rfl,
    State.send_completes (k := fun s => (s.dataSent o size (some sc) true).advance h 16) rfl rfl,
    State.send_completes (k := fun s => (s.addSent o).advance h 16) rfl rfl,
    State.send_completes (k := fun s => (s.armSent o).advance h 16) rfl rfl⟩

/-! ### Work (R185, R186, R196, R197, R200) -/

/-- Where its checks pass, `cancel` or `cancel.clr` sends a request to the husk master (R196). -/
theorem State.huskAsk_completes {i : Instr} {s : State} {h : Hdr} {o : R2} {imm : BitVec 16} {clear : Bool} (hf : footOf i s = footRun o.d o.a 0 [])
    (he : exec i s = s.huskAsk h o imm clear) (ha : s.admits i = true) : ∃ t, exec i s = .next t ∧
      t = { s with tiles := t.tiles, nextId := t.nextId, dev := { s.dev with huskQ := s.dev.huskQ ++
        [{ clear := clear, inst := instOf o imm s.cur.frame, tile := s.curTile, slot := s.curSlot, key := s.cur.key, owedId := s.nextId,
           arriveAt := evenUp (s.nc + wayCost s.curTile 0), tt := none }] } } ∧
      WentOn s t h 8 [s.varOwed o.d.range [] [] [] false] := by
  let r : HuskReq := { clear := clear, inst := instOf o imm s.cur.frame, tile := s.curTile, slot := s.curSlot, key := s.cur.key, owedId := s.nextId,
                       arriveAt := evenUp (s.nc + wayCost s.curTile 0), tt := none }
  have hexec : exec i s = .next (((s.modDev fun d => { d with huskQ := d.huskQ ++ [r] }).oweVar o.d.range [] [] [] false).2.advance h 8) := by
    rw [he, State.huskAsk, ← hf, State.guarded_of_admits _ ha]
    rfl
  have hissued := (s.modDev fun d => { d with huskQ := d.huskQ ++ [r] }).oweVar_issued_id h 8 o.d.range
  obtain ⟨hmem, hpools, hjets, hjet, htime⟩ := hissued.wentOn fun _ => rfl
  refine ⟨_, hexec, ?_, hmem, hpools, hjets, hjet, htime⟩
  have hagenda := hissued.events
  have hrest := hissued.frame.rest
  rw [hagenda] at hrest
  exact hrest

/-- The status that `fork` has at issue, 0 where it is not known yet (R185). -/
def forkStatus (g lo hi target : Nat) : Nat :=
  if g = 0 ∨ 2 ^ 24 ≤ g then 2 else if hi < lo then 3 else if target % 32 ≠ 0 ∨ 2 ^ 57 ≤ target then 4 else 0

/-- The tile with pieces noted of which their trackers must hear (R192). -/
def Tile.noted (l : List (Nat × Nat × Nat)) (x : Tile) : Tile := { x with increments := x.increments ++ l }

theorem Tile.noted_nil : Tile.noted [] = id := funext fun x => by simp [Tile.noted]

/-- What a `fork` that goes on does: it asks for its header, and a tracked piece is noted (R185, R192). -/
theorem State.fork_pending (s : State) (h : Hdr) (d : SliceOp) (lat : Nat) (k : Task) :
    Pending s (((if k.tracked then (s.oweLater d).2.modHere (Tile.noted [(k.ttile.toNat, k.tindex.toNat, s.nextId)])
        else (s.oweLater d).2).after lat .statusResultWrite ⟨s.curTile, s.curSlot, s.nextId, 2, k.image⟩).advance h 16) h 16
      (Tile.noted (if k.tracked then [(k.ttile.toNat, k.tindex.toNat, s.nextId)] else [])) d.range lat .statusResultWrite 2 k.image := by
  by_cases hk : k.tracked = true
  · rw [if_pos hk, if_pos hk, State.oweLater, s.oweVar_modHere (g := Tile.noted _) (fun _ => rfl) (fun _ _ _ => rfl)]
    exact s.oweVar_pending h 16 d.range lat .statusResultWrite 2 k.image fun _ => rfl
  · rw [if_neg hk, if_neg hk, Tile.noted_nil]
    exact s.oweVar_pending_id h 16 d.range lat .statusResultWrite 2 k.image

/-- What `fork` does where its checks pass, by its status at issue. -/
theorem State.fork_exec {s : State} {h : Hdr} {o : R4} {ctl : BitVec 16} {imm : BitVec 32} (ha : s.admits (.fork h o ctl imm) = true) :
    let g := if o.c.isNz then ctl.toNat else o.c.get s.cur.frame
    let target := trunc ((s.cur.pc.toNat : Int) + sext imm.toNat 32) 64
    let st := forkStatus g (o.a.get s.cur.frame) (o.b.get s.cur.frame) target
    let k := s.cur.forkTask target (o.a.get s.cur.frame) (o.b.get s.cur.frame) g
    exec (.fork h o ctl imm) s = .next (if st ≠ 0 then (s.oweStatus 4 o.d st).advance h 16 else
      ((if k.tracked then (s.oweLater o.d).2.modHere (Tile.noted [(k.ttile.toNat, k.tindex.toNat, s.nextId)]) else (s.oweLater o.d).2).after
        (max 4 (s.headerCost s.curTile target)) .statusResultWrite ⟨s.curTile, s.curSlot, s.nextId, 2, k.image⟩).advance h 16) := by
  change execFork h o ctl imm s = _
  unfold execFork
  refine (State.guarded_of_admits (i := .fork h o ctl imm) _ ha).trans (congrArg _ ?_)
  simp only [bne_iff_ne]
  rfl

/-- The program number that `husked` asks about (R197). -/
def huskedOf (o : R2) (j : Jet) : BitVec 16 := if o.a.isNz then j.inst else BitVec.ofNat 16 (o.a.get j.frame)

theorem State.husked_exec {s : State} {h : Hdr} {o : R2} (ha : s.admits (.husked h o) = true) :
    exec (.husked h o) s = .next ((s.oweStatus (if s.here.huskHit (huskedOf o s.cur) then 2 else 12) o.d
      (b2n (s.husked s.curTile (huskedOf o s.cur)))).advance h 8) := by
  change execHusked h o s = _
  unfold execHusked
  exact State.guarded_of_admits (i := .husked h o) _ ha

/-- The die's table answers, where the tile's set has not the program number and there are more than it holds (R197). -/
theorem State.husked_far {s : State} {h : Hdr} {o : R2} (ha : s.admits (.husked h o) = true) (hmiss : huskedOf o s.cur ∉ s.here.huskSet)
    (hmore : s.here.huskMore = true) : exec (.husked h o) s = .next ((s.oweStatus 12 o.d
      (b2n ((s.die (dieOf s.curTile)).huskTable.contains (huskedOf o s.cur)))).advance h 8) := by
  have hset : s.here.huskSet.contains (huskedOf o s.cur) = false := by simpa using hmiss
  have hval : s.husked s.curTile (huskedOf o s.cur) = (s.die (dieOf s.curTile)).huskTable.contains (huskedOf o s.cur) := by
    rw [State.husked, show s.tile s.curTile = s.here from rfl, hset, hmore, Bool.false_or, Bool.true_and]
  have hlat : s.here.huskHit (huskedOf o s.cur) = false := by rw [Tile.huskHit, hset, hmore]; rfl
  rw [State.husked_exec ha, hval, hlat]
  rfl

/-- Otherwise the tile's set answers. -/
theorem State.husked_near {s : State} {h : Hdr} {o : R2} (ha : s.admits (.husked h o) = true)
    (hnear : ¬ (huskedOf o s.cur ∉ s.here.huskSet ∧ s.here.huskMore = true)) :
    exec (.husked h o) s = .next ((s.oweStatus 2 o.d (if huskedOf o s.cur ∈ s.here.huskSet then 1 else 0)).advance h 8) := by
  rw [State.husked_exec ha]
  by_cases hmem : huskedOf o s.cur ∈ s.here.huskSet
  · have hset : s.here.huskSet.contains (huskedOf o s.cur) = true := List.contains_iff_mem.mpr hmem
    rw [if_pos hmem, State.husked, show s.tile s.curTile = s.here from rfl, Tile.huskHit, hset]
    rfl
  · have hset : s.here.huskSet.contains (huskedOf o s.cur) = false := by simpa using hmem
    have hmore : s.here.huskMore = false := Bool.eq_false_iff.mpr fun hm => hnear ⟨hmem, hm⟩
    rw [if_neg hmem, State.husked, show s.tile s.curTile = s.here from rfl, Tile.huskHit, hset, hmore]
    rfl

theorem State.prio_exec {s : State} {h : Hdr} {d : SliceOp} {lvl : BitVec 3} (ha : s.admits (.prio h d lvl) = true) :
    exec (.prio h d lvl) s = .next (((s.owe 1 (d.put s.cur.level.toNat) 0).modCur fun j =>
      { j with level := if lvl.toNat ≤ j.ceiling.toNat then lvl else j.ceiling }).advance h 8) := by
  change execPrio h d lvl s = _
  unfold execPrio
  exact State.guarded_of_admits (i := .prio h d lvl) _ ha

/-- What `prio` makes of its jet (R200). -/
theorem State.prio_jet (s : State) (h : Hdr) (d : SliceOp) (lvl : BitVec 3) :
    let t := ((s.owe 1 (d.put s.cur.level.toNat) 0).modCur fun j => { j with level := if lvl.toNat ≤ j.ceiling.toNat then lvl else j.ceiling }).advance h 8
    JetFrame s t id ∧
      t.cur = { s.cur.behind h 8 s.tc [s.fixedOwed 1 (d.put s.cur.level.toNat) 0] with level := if lvl ≤ s.cur.ceiling then lvl else s.cur.ceiling } ∧
      t.agenda = withEvents s.agenda [s.evt 1 .resultWriteback 0 0] := by
  have hf := JetFrame.of_tiles (s := s) (g := id)
    (u := ((s.owe 1 (d.put s.cur.level.toNat) 0).modCur fun j => { j with level := if lvl.toNat ≤ j.ceiling.toNat then lvl else j.ceiling }).advance h 8)
    (j := { s.cur.behind h 8 s.tc [s.fixedOwed 1 (d.put s.cur.level.toNat) 0] with level := if lvl ≤ s.cur.ceiling then lvl else s.cur.ceiling })
    (fun _ => rfl) (by
      simp [State.tilesWith, State.advance, State.owe, State.modCur_tiles, State.tile, State.here, State.cur_eq, Jet.stepped, Jet.behind,
        State.fixedOwed, State.after, State.at_, State.tc, BitVec.le_def])
  exact ⟨hf.1, hf.2, rfl⟩

/-- Settles O28: each work instruction owes one result, known at issue or to come with an event. -/
theorem workInstructions : Obligations.WorkInstructions := by
  unfold Obligations.WorkInstructions
  intro h o p ctl imm inst d lvl s f j lo hi g target bad task who asks asked hit further
  refine ⟨fun ha => ⟨fun hbad => ?fork, fun hbad => ?forkLater⟩, fun ha => ?rnext, State.huskAsk_completes rfl rfl, State.huskAsk_completes rfl rfl,
    fun ha => ⟨fun hfar => ?huskedFar, fun hnear => ?huskedNear⟩, fun ha => ?prio⟩
  case fork =>
    exact ⟨_, (State.fork_exec ha).trans (congrArg _ (if_pos hbad)), s.oweStatus_status_id h 16 4 o.d _⟩
  case forkLater =>
    exact ⟨_, (State.fork_exec ha).trans (congrArg _ (if_neg (not_not_intro hbad))), s.fork_pending h o.d _ task⟩
  case rnext =>
    exact ⟨_, State.guarded_of_admits (fun s => ((s.oweVar (p.d.range ++ p.a.range) [] [] [] false).2.after 1 .statusResultWrite
      ⟨s.curTile, s.curSlot, s.nextId, 3, b2n p.d.isNz⟩).advance h 8) ha, s.oweVar_pending_id h 8 _ 1 _ 3 _⟩
  case huskedFar =>
    obtain ⟨hmiss, hmore⟩ := hfar
    refine ⟨_, _, State.husked_far ha hmiss hmore, s.oweStatus_status_id h 8 12 p.d _, ?_, ?_⟩
    · exact (b2n_eq_one_iff _).trans List.contains_iff_mem
    · have := b2n_le_one ((s.die (dieOf s.curTile)).huskTable.contains (huskedOf p s.cur))
      omega
  case huskedNear => exact ⟨_, State.husked_near ha hnear, s.oweStatus_status_id h 8 2 p.d _⟩
  case prio => exact ⟨_, State.prio_exec ha, s.prio_jet h d lvl⟩

/-! ### The task record (R182) -/

/-- The fields of a task record's image, lowest first, with their widths (R182). -/
def Task.fields (k : Task) : List (Nat × Nat) :=
  [(48, k.lo.toNat), (48, k.hi.toNat), (24, k.grain.toNat), (16, k.inst.toNat), (3, k.prio.toNat), (2, k.role.toNat), (7, k.frame.toNat),
    (1, b2n k.barrier), (1, b2n k.tracked), (10, k.ttile.toNat), (4, k.tindex.toNat), (8, 0), (52, fld k.entry.toNat 5 52), (32, k.done.toNat)]

theorem b2n_mod_two (b : Bool) : b2n b % 2 ^ 1 = b2n b := by cases b <;> rfl

/-- The image is its fields packed. -/
theorem Task.image_eq_packF (k : Task) : k.image = packF k.fields := by
  simp only [Task.image, Task.fields, packF, b2n_mod_two, BitVec.toNat_mod_cancel, Nat.mod_eq_of_lt (fld_lt _ _ _), Nat.zero_mod]
  ring

theorem b2n_lt_two (b : Bool) : b2n b < 2 := by cases b <;> decide

/-! Each field of the image is in its place. -/

theorem Task.lo_image (k : Task) : fld k.image 0 48 = k.lo.toNat := by
  simp [k.image_eq_packF, Task.fields, fld_packF_head, fld_packF_skip, toNat_mod_of_le, Nat.mod_eq_of_lt (b2n_lt_two _)]

theorem Task.hi_image (k : Task) : fld k.image 48 48 = k.hi.toNat := by
  simp [k.image_eq_packF, Task.fields, fld_packF_head, fld_packF_skip, toNat_mod_of_le, Nat.mod_eq_of_lt (b2n_lt_two _)]

theorem Task.grain_image (k : Task) : fld k.image 96 24 = k.grain.toNat := by
  simp [k.image_eq_packF, Task.fields, fld_packF_head, fld_packF_skip, toNat_mod_of_le, Nat.mod_eq_of_lt (b2n_lt_two _)]

theorem Task.inst_image (k : Task) : fld k.image 120 16 = k.inst.toNat := by
  simp [k.image_eq_packF, Task.fields, fld_packF_head, fld_packF_skip, toNat_mod_of_le, Nat.mod_eq_of_lt (b2n_lt_two _)]

theorem Task.prio_image (k : Task) : fld k.image 136 3 = k.prio.toNat := by
  simp [k.image_eq_packF, Task.fields, fld_packF_head, fld_packF_skip, toNat_mod_of_le, Nat.mod_eq_of_lt (b2n_lt_two _)]

theorem Task.role_image (k : Task) : fld k.image 139 2 = k.role.toNat := by
  simp [k.image_eq_packF, Task.fields, fld_packF_head, fld_packF_skip, toNat_mod_of_le, Nat.mod_eq_of_lt (b2n_lt_two _)]

theorem Task.frame_image (k : Task) : fld k.image 141 7 = k.frame.toNat := by
  simp [k.image_eq_packF, Task.fields, fld_packF_head, fld_packF_skip, toNat_mod_of_le, Nat.mod_eq_of_lt (b2n_lt_two _)]

theorem Task.barrier_image (k : Task) : fld k.image 148 1 = b2n k.barrier := by
  simp [k.image_eq_packF, Task.fields, fld_packF_head, fld_packF_skip, toNat_mod_of_le, Nat.mod_eq_of_lt (b2n_lt_two _)]

theorem Task.tracked_image (k : Task) : fld k.image 149 1 = b2n k.tracked := by
  simp [k.image_eq_packF, Task.fields, fld_packF_head, fld_packF_skip, toNat_mod_of_le, Nat.mod_eq_of_lt (b2n_lt_two _)]

theorem Task.ttile_image (k : Task) : fld k.image 150 10 = k.ttile.toNat := by
  simp [k.image_eq_packF, Task.fields, fld_packF_head, fld_packF_skip, toNat_mod_of_le, Nat.mod_eq_of_lt (b2n_lt_two _)]

theorem Task.tindex_image (k : Task) : fld k.image 160 4 = k.tindex.toNat := by
  simp [k.image_eq_packF, Task.fields, fld_packF_head, fld_packF_skip, toNat_mod_of_le, Nat.mod_eq_of_lt (b2n_lt_two _)]

theorem Task.zero_image (k : Task) : fld k.image 164 8 = 0 := by
  simp [k.image_eq_packF, Task.fields, fld_packF_head, fld_packF_skip]

theorem Task.entry_image (k : Task) : fld k.image 172 52 = fld k.entry.toNat 5 52 := by
  rw [k.image_eq_packF, Task.fields]
  simp only [fld_packF_skip, fld_packF_head, Nat.reduceLeDiff, Nat.reduceSub]
  exact Nat.mod_eq_of_lt (fld_lt _ _ _)

theorem Task.done_image (k : Task) : fld k.image 224 32 = k.done.toNat := by
  simp [k.image_eq_packF, Task.fields, fld_packF_head, fld_packF_skip, toNat_mod_of_le]

/-- An aligned entry below 2 ^ 57 is 32 times its field. -/
theorem Task.entry_eq {k : Task} (halign : k.entry.toNat % 32 = 0) (hsize : k.entry.toNat < 2 ^ 57) : 32 * fld k.entry.toNat 5 52 = k.entry.toNat := by
  rw [fld]
  omega

/-- The record is read back from its image. -/
theorem Task.ofImage_image {k : Task} (halign : k.entry.toNat % 32 = 0) (hsize : k.entry.toNat < 2 ^ 57) : Task.ofImage k.image = k := by
  have hbit (b : Bool) : (b2n b == 1) = b := by cases b <;> rfl
  rw [Task.ofImage, k.lo_image, k.hi_image, k.grain_image, k.inst_image, k.prio_image, k.role_image, k.frame_image, k.barrier_image,
    k.tracked_image, k.ttile_image, k.tindex_image, k.entry_image, k.done_image, hbit, hbit, Nat.mul_comm, Task.entry_eq halign hsize]
  simp only [BitVec.ofNat_toNat, BitVec.setWidth_eq]

theorem Task.image_lt (k : Task) : k.image < 2 ^ 256 := by
  have h := packF_lt k.fields
  rw [← k.image_eq_packF] at h
  simpa [Task.fields] using h

/-- Settles O29: the image is a packing of the record's fields. -/
theorem taskRecord : Obligations.TaskRecord := by
  unfold Obligations.TaskRecord
  intro k halign hsize n
  exact ⟨k.image_lt, Task.ofImage_image halign hsize, k.lo_image, k.hi_image, k.grain_image, k.inst_image, k.prio_image, k.role_image, k.frame_image,
    k.barrier_image, k.tracked_image, k.ttile_image, k.tindex_image, k.zero_image, k.entry_image ▸ Task.entry_eq halign hsize, k.done_image⟩

/-! ### Gangs (R202, R204) -/

/-- A pattern that a gang holds is dropped, another stays. -/
def droppedOf (g : Nat) (p : Option Pattern) : Option Pattern := p.filter fun q => q.held.map (·.1) ≠ some g

theorem droppedOf_some (g : Nat) (q : Pattern) : droppedOf g (some q) = if q.held.map (·.1) = some g then none else some q := by
  rw [droppedOf, Option.filter_some]
  by_cases h : q.held.map (·.1) = some g
  · rw [if_pos h, if_neg (by simpa using h)]
  · rw [if_neg h, if_pos (by simpa using h)]

theorem droppedOf_droppedOf (g : Nat) (p : Option Pattern) : droppedOf g (droppedOf g p) = droppedOf g p := by
  simp [droppedOf, Option.filter_filter]

theorem Weir.pattern_setPattern_same (w : Weir) (i : Nat) (v : Option Pattern) : (w.setPattern i v).pattern i = v := Tbl.get_set_same ..
theorem Weir.pattern_setPattern_ne (w : Weir) {i k : Nat} (v : Option Pattern) (h : k ≠ i) : (w.setPattern i v).pattern k = w.pattern k :=
  Tbl.get_set_ne _ _ _ h

theorem Weir.pattern_dropHeld (w : Weir) (ix g k : Nat) :
    (w.dropHeld ix g).pattern k = if k = ix then droppedOf g (w.pattern ix) else w.pattern k := by
  unfold Weir.dropHeld
  split
  · next p hp =>
    rw [hp, droppedOf_some]
    by_cases hk : k = ix
    · subst hk
      split
      · rw [if_pos rfl, Weir.pattern_setPattern_same]
      · rw [if_pos rfl, hp]
    · rw [if_neg hk]
      split
      · rw [Weir.pattern_setPattern_ne _ _ hk]
      · rfl
  · next hp =>
    by_cases hk : k = ix
    · subst hk
      rw [if_pos rfl, hp]
      rfl
    · rw [if_neg hk]

/-- The state with the patterns at these places dropped that gang `g` holds (R204). -/
def State.dropPats (s : State) (g : Nat) (l : List (Nat × Nat)) : State :=
  l.foldl (fun (s : State) p => s.modTile p.1 fun y => y.modWeir fun w => w.dropHeld p.2 g) s

theorem State.dropPats_kept (s : State) (g : Nat) (l : List (Nat × Nat)) : Kept s (s.dropPats g l) :=
  Kept.foldl (f := fun (s : State) (p : Nat × Nat) => s.modTile p.1 fun y => y.modWeir fun w => w.dropHeld p.2 g)
    (fun s p => Kept.modTile s p.1 (f := fun y => y.modWeir fun w => w.dropHeld p.2 g) (fun _ => rfl) fun _ => rfl) l s

theorem State.dropPats_gangs (s : State) (g : Nat) (l : List (Nat × Nat)) (n : Nat) : ((s.dropPats g l).tile n).gangs = (s.tile n).gangs := by
  induction l generalizing s with
  | nil => rfl
  | cons p l ih =>
    rw [State.dropPats, List.foldl_cons]
    refine (ih _).trans ?_
    by_cases hn : n = p.1
    · subst hn
      rw [State.tile_modTile_same]
      rfl
    · rw [State.tile_modTile_ne _ _ hn]

theorem State.dropPats_pattern (s : State) (g : Nat) (l : List (Nat × Nat)) (n i : Nat) :
    ((s.dropPats g l).tile n).weir.pattern i = if (n, i) ∈ l then droppedOf g ((s.tile n).weir.pattern i) else (s.tile n).weir.pattern i := by
  induction l generalizing s with
  | nil => rfl
  | cons p l ih =>
    have hstep : ((s.modTile p.1 fun y => y.modWeir fun w => w.dropHeld p.2 g).tile n).weir.pattern i =
        if (n, i) = p then droppedOf g ((s.tile n).weir.pattern i) else (s.tile n).weir.pattern i := by
      by_cases hn : n = p.1
      · subst hn
        rw [State.tile_modTile_same]
        refine (Weir.pattern_dropHeld _ _ _ _).trans ?_
        by_cases hi : i = p.2
        · subst hi
          simp
        · rw [if_neg hi, if_neg fun h => hi (congrArg Prod.snd h)]
      · rw [State.tile_modTile_ne _ _ hn, if_neg fun h => hn (congrArg Prod.fst h)]
    rw [State.dropPats, List.foldl_cons]
    refine (ih _).trans ?_
    rw [hstep]
    by_cases hp : (n, i) = p
    · by_cases hl : (n, i) ∈ l <;> simp [hp, droppedOf_droppedOf]
    · simp [hp]

/-- The state with a gang marked as ended, its patterns dropped (R204). -/
def State.gangEnded (s : State) (k : Nat) (g : Gang) : State :=
  (s.dropPats g.id g.pats).modTile k fun y => { y with gangs := y.gangs.map fun z => if z.id = g.id then { z with ended := true } else z }

theorem State.gangEnded_kept (s : State) (k : Nat) (g : Gang) : Kept s (s.gangEnded k g) :=
  (s.dropPats_kept g.id g.pats).trans (Kept.modTile _ k (fun _ => rfl) fun _ => rfl)

theorem State.gangEnded_gangs (s : State) (k : Nat) (g : Gang) :
    ((s.gangEnded k g).tile k).gangs = (s.tile k).gangs.map fun z => if z.id = g.id then { z with ended := true } else z := by
  rw [State.gangEnded, State.tile_modTile_same, State.dropPats_gangs]

theorem State.gangEnded_pattern (s : State) (k : Nat) (g : Gang) (n i : Nat) : ((s.gangEnded k g).tile n).weir.pattern i =
    if (n, i) ∈ g.pats then droppedOf g.id ((s.tile n).weir.pattern i) else (s.tile n).weir.pattern i := by
  rw [← State.dropPats_pattern, State.gangEnded]
  by_cases hn : n = k
  · subst hn
    rw [State.tile_modTile_same]
  · rw [State.tile_modTile_ne _ _ hn]

/-- What `gang.end` does, by the gang of its jet. -/
theorem State.gangEnd_exec {s : State} {h : Hdr} {d : SliceOp} (ha : s.admits (.gangEnd h d) = true) :
    exec (.gangEnd h d) s = .next (match s.cur.gang.bind fun g => s.gangOf g.1 with
      | some (t, x) => if x.ended then (s.oweStatus 4 d 1).advance h 16 else (((s.gangEnded t x).oweStatus 4 d 0).advance h 16).gangSettle x.id
      | none => (s.oweStatus 4 d 1).advance h 16) := by
  change execGangEnd h d s = _
  unfold execGangEnd
  exact State.guarded_of_admits (i := .gangEnd h d) _ ha

theorem State.gang_exec {s : State} {h : Hdr} {o : R2} (ha : s.admits (.gang h o) = true) :
    exec (.gang h o) s = .next (((({ s with fresh := s.fresh + 1 } : State).oweVar o.d.range [] [] [] false).2.after (1 + Config.freeDelay s.fresh % 40)
      .statusResultWrite ⟨s.curTile, s.curSlot, s.nextId, 4,
        SliceOp.getRun o.a s.cur.frame 128 + s.cur.level.toNat * 2 ^ 512 + s.cur.inst.toNat * 2 ^ 515 + (s.tc + 40) * 2 ^ 531⟩).advance h 16) := by
  change execGang h o s = _
  unfold execGang
  exact State.guarded_of_admits (i := .gang h o) _ ha

/-- Settles O30: `gang` owes a status that comes within 40 tc; `gang.end` answers 1, or drops the gang's patterns and marks it ended. -/
theorem gangs : Obligations.Gangs := by
  unfold Obligations.Gangs
  intro h o d s img mine
  refine ⟨fun ha => ?gang, fun ha => ⟨fun hover => ?ended, fun k g hg hlive => ?live⟩⟩
  case gang =>
    exact ⟨_, _, State.gang_exec ha, by omega, by omega, ({ s with fresh := s.fresh + 1 } : State).oweVar_pending_id h 16 o.d.range _ _ 4 img⟩
  case ended =>
    refine ⟨_, ?_, s.oweStatus_status_id h 16 4 d 1⟩
    rw [State.gangEnd_exec ha]
    match hm : s.cur.gang.bind fun g => s.gangOf g.1 with
    | some (k, g) => simp only [hover k g hm, if_true]
    | none => rfl
  case live =>
    refine ⟨_, s.gangEnded k g, _, ?_, (s.gangEnded k g).oweStatus_status_id h 16 4 d 0, rfl, s.gangEnded_kept k g, ?_, ?_, s.gangEnded_gangs k g⟩
    · rw [State.gangEnd_exec ha]
      simp only [show s.cur.gang.bind (fun g => s.gangOf g.1) = some (k, g) from hg, hlive, Bool.false_eq_true, if_false]
    · intro p hp q hq
      rw [State.gangEnded_pattern, if_pos hp, hq, droppedOf_some]
    · intro n i hni
      rw [State.gangEnded_pattern, if_neg hni]

end Sys2Proof.Machine
end

section
/-!
SUPPORT and PROOFS. The definitions of basins and patterns (R158 to R161, R174 to R181): O25 and O26.
-/

namespace Sys2Proof.Machine

/-- The lowest index that is free, where there is one. -/
theorem find?_range_least {n k : Nat} {p : Nat → Bool} (hk : k < n) (hp : p k = true) (hl : ∀ l, l < k → p l = false) :
    (List.range n).find? p = some k :=
  List.find?_range_eq_some.mpr ⟨hp, List.mem_range.mpr hk, fun j hj => by simp [hl j hj]⟩

theorem find?_range_none {n : Nat} {p : Nat → Bool} (hl : ∀ l, l < n → p l = false) : (List.range n).find? p = none :=
  List.find?_eq_none.mpr fun j hj => by simp [hl j (List.mem_range.mp hj)]

/-! ### Patterns (R174 to R176) -/

/-- A pattern record keeps its form (R174, R175). -/
def PatForm (r : Nat) (hasImg : Bool) : Prop :=
  fld r 96 16 = 0 ∧ fld r 9 56 = 0 ∧ (fld r 66 1 = 1 ∨ fld r 65 1 = 0) ∧ (fld r 66 1 = 1 ↔ hasImg = true) ∧
    (∀ k, k < 4 → (k ≤ fld r 70 2 ∨ fld r (72 + 6 * k) 6 = 0) ∧ fld r (128 + 16 * k) 1 = 0) ∧ (fld r 0 6 < 32 ∨ fld r 0 6 = 63)

theorem patRecOk_iff (r : Nat) (hasImg : Bool) : patRecOk r hasImg = true ↔ PatForm r hasImg := by
  have himg : (fld r 66 1 == 1) = hasImg ↔ (fld r 66 1 = 1 ↔ hasImg = true) := by
    rw [Bool.eq_iff_iff, beq_iff_eq]
  simp only [patRecOk, PatForm, Bool.and_eq_true, Bool.or_eq_true, beq_iff_eq, himg, List.all_eq_true, List.mem_range, decide_eq_true_eq, and_assoc]

/-- The index that a record asks for: its own, or the lowest that is free (R175). -/
def PatIndex (x : Tile) (r k : Nat) : Prop :=
  (fld r 0 6 ≠ 63 → k = fld r 0 6 ∧ (x.weir.pattern k).isNone = true) ∧
    (fld r 0 6 = 63 → k < 32 ∧ (x.weir.pattern k).isNone = true ∧ ∀ l, l < k → (x.weir.pattern l).isNone = false)

/-- Whether one of these basins is an engine basin. -/
def Tile.anyEngine (x : Tile) (bs : List Nat) : Bool := bs.any fun b => match x.weir.basin b with | some k => k.kind == .engine | none => false

/-- A basin of the record is an engine basin (R175 status 4). -/
def AnyEngine (x : Tile) (bs : List Nat) : Prop := ∃ b ∈ bs, ∃ k, x.weir.basin b = some k ∧ k.kind = .engine

theorem anyEngine_iff (x : Tile) (bs : List Nat) :
    x.anyEngine bs = true ↔ AnyEngine x bs := by
  rw [Tile.anyEngine, List.any_eq_true]
  refine exists_congr fun b => and_congr_right fun _ => ?_
  cases x.weir.basin b with
  | none => simp
  | some k => simp

theorem pdefCheck_form {x : Tile} {r : Nat} {hasImg : Bool} (h : ¬ PatForm r hasImg) : x.pdefCheck r hasImg = .error 7 := by
  rw [Tile.pdefCheck, if_pos]
  simpa [← patRecOk_iff] using h

theorem pdefCheck_full {x : Tile} {r : Nat} {hasImg : Bool} (h : PatForm r hasImg) (h63 : fld r 0 6 = 63)
    (hfull : ∀ k, k < 32 → (x.weir.pattern k).isNone = false) : x.pdefCheck r hasImg = .error 1 := by
  rw [Tile.pdefCheck, if_neg (by simpa using (patRecOk_iff r hasImg).mpr h), if_pos ⟨h63, find?_range_none hfull⟩]

theorem pdefCheck_taken {x : Tile} {r : Nat} {hasImg : Bool} (h : PatForm r hasImg) (h63 : fld r 0 6 ≠ 63)
    (htaken : (x.weir.pattern (fld r 0 6)).isNone = false) : x.pdefCheck r hasImg = .error 2 := by
  have hsome : (x.weir.pattern (fld r 0 6)).isSome = true := by simpa [Option.isSome_iff_ne_none] using htaken
  rw [Tile.pdefCheck, if_neg (by simpa using (patRecOk_iff r hasImg).mpr h), if_neg fun c => h63 c.1, if_neg h63, if_pos (by simp [h63, hsome])]

/-- Where a record keeps its form and has an index, its basins decide (R175 statuses 3 to 6). -/
theorem pdefCheck_index {x : Tile} {r k : Nat} {hasImg : Bool} (h : PatForm r hasImg) (hk : PatIndex x r k) : x.pdefCheck r hasImg =
    if (patBasins r).any fun b => (x.weir.basin b).isNone then .error 3
    else if !(patBasins r).Nodup || x.anyEngine (patBasins r) then .error 4
    else if !x.patchesOk r then .error 5
    else if fld r 66 1 == 1 && (x.engineBasin (fld r 65 1 == 1)).isNone then .error 6 else .ok k := by
  rw [Tile.pdefCheck, if_neg (by simpa using (patRecOk_iff r hasImg).mpr h)]
  obtain ⟨hown, hlow⟩ := hk
  by_cases h63 : fld r 0 6 = 63
  · obtain ⟨hk32, hfree, hleast⟩ := hlow h63
    rw [find?_range_least (p := fun i => (x.weir.pattern i).isNone) hk32 hfree hleast, if_pos h63, if_neg (by simp), if_neg (by simp [h63])]
    rfl
  · obtain ⟨rfl, hfree⟩ := hown h63
    rw [if_neg h63, if_neg fun c => h63 c.1, if_neg (by simpa [h63] using hfree)]
    rfl

/-- The conditions of statuses 3 to 6 as R175 words them. -/
structure PatUsable (x : Tile) (r : Nat) : Prop where
  there : ¬ ∃ b ∈ patBasins r, x.weir.basin b = none
  once : ¬ (¬ (patBasins r).Nodup ∨ AnyEngine x (patBasins r))
  patched : x.patchesOk r = true

theorem pdefCheck_gone {x : Tile} {r k : Nat} {hasImg : Bool} (h : PatForm r hasImg) (hk : PatIndex x r k)
    (hgone : ∃ b ∈ patBasins r, x.weir.basin b = none) : x.pdefCheck r hasImg = .error 3 := by
  rw [pdefCheck_index h hk, if_pos (by simpa using hgone)]

theorem pdefCheck_twice {x : Tile} {r k : Nat} {hasImg : Bool} (h : PatForm r hasImg) (hk : PatIndex x r k)
    (hthere : ¬ ∃ b ∈ patBasins r, x.weir.basin b = none) (htwice : ¬ (patBasins r).Nodup ∨ AnyEngine x (patBasins r)) :
    x.pdefCheck r hasImg = .error 4 := by
  rw [pdefCheck_index h hk, if_neg (by simpa using hthere), if_pos]
  rw [Bool.or_eq_true, anyEngine_iff]
  simpa using htwice

theorem pdefCheck_patches {x : Tile} {r k : Nat} {hasImg : Bool} (h : PatForm r hasImg) (hk : PatIndex x r k)
    (hthere : ¬ ∃ b ∈ patBasins r, x.weir.basin b = none) (honce : ¬ (¬ (patBasins r).Nodup ∨ AnyEngine x (patBasins r))) :
    x.pdefCheck r hasImg =
      if !x.patchesOk r then .error 5 else if fld r 66 1 == 1 && (x.engineBasin (fld r 65 1 == 1)).isNone then .error 6 else .ok k := by
  rw [pdefCheck_index h hk, if_neg (by simpa using hthere), if_neg]
  rw [Bool.or_eq_true, anyEngine_iff]
  simpa using honce

theorem pdefCheck_usable {x : Tile} {r k : Nat} {hasImg : Bool} (h : PatForm r hasImg) (hk : PatIndex x r k) (hu : PatUsable x r) :
    x.pdefCheck r hasImg = if fld r 66 1 == 1 && (x.engineBasin (fld r 65 1 == 1)).isNone then .error 6 else .ok k := by
  obtain ⟨hthere, honce, hpatched⟩ := hu
  rw [pdefCheck_patches h hk hthere honce, if_neg (by simp [hpatched])]

/-- The weir with the basins of a list to be examined from tc `tc` on (R178). -/
def Weir.lookTo (tc : Nat) (l : List Nat) (w : Weir) : Weir := { w with examine := w.examine ++ l.map fun b => (b, tc) }

theorem foldl_look (tc : Nat) (l : List Nat) (w : Weir) : l.foldl (fun (w : Weir) b => w.look b tc) w = w.lookTo tc l := by
  induction l generalizing w with
  | nil => simp [Weir.lookTo]
  | cons b l ih =>
    rw [List.foldl_cons, ih]
    simp [Weir.look, Weir.lookTo]

/-- The pattern that `pdef` installs (R174). -/
def State.pdefPat (s : State) (o : R3) : Pattern := patOfRec (SliceOp.getRun o.a s.cur.frame 64) (SliceOp.getRun o.b s.cur.frame 128) none

/-- What `pdef` does once its checks have passed. -/
def State.pdefGo (h : Hdr) (o : R3) (s : State) : State :=
  let r := SliceOp.getRun o.a s.cur.frame 64
  let p := s.pdefPat o
  match s.here.pdefCheck r (!o.b.isNz) with
  | .error st => (s.oweStatus 4 o.d st).advance h 16
  | .ok ix =>
    let place (s : State) (p : Pattern) : State := s.modHere fun x => x.modWeir fun w => w.setPattern ix (some p)
    if p.action then (((place s p).lookAll s.curTile p).oweStatus 4 o.d (16 * ix)).advance h 16
    else
      let w := (place s { p with grans := 0, by_ := s.nextId }).oweLater o.d
      (w.2.after (max 4 (s.headerCost s.curTile p.entry.toNat)) .statusResultWrite ⟨s.curTile, s.curSlot, w.1, 1, ix + 32 * p.entry.toNat⟩).advance h 16

theorem State.pdef_exec {s : State} {h : Hdr} {o : R3} (ha : s.admits (.pdef h o) = true) : exec (.pdef h o) s = .next (s.pdefGo h o) :=
  State.guarded_of_admits (i := .pdef h o) (fun s => s.pdefGo h o) ha

theorem State.pdef_fails {s : State} {h : Hdr} {o : R3} {st : Nat} (ha : s.admits (.pdef h o) = true)
    (hc : s.here.pdefCheck (SliceOp.getRun o.a s.cur.frame 64) (!o.b.isNz) = .error st) :
    ∃ t, exec (.pdef h o) s = .next t ∧ Status s t h 16 id 4 o.d st := by
  refine ⟨_, State.pdef_exec ha, ?_⟩
  simp only [State.pdefGo, hc]
  exact s.oweStatus_status_id h 16 4 o.d st

/-- The tile with a pattern in its place whose basins are examined where it is enabled. -/
def Tile.withPattern (tc ix : Nat) (p : Pattern) (x : Tile) : Tile :=
  { x with weir := (if p.enable then Weir.lookTo tc p.basins else id) (x.weir.setPattern ix (some p)) }

theorem State.lookAll_modHere (s : State) (ix : Nat) (p : Pattern) :
    (s.modHere fun x => x.modWeir fun w => w.setPattern ix (some p)).lookAll s.curTile p = s.modHere (Tile.withPattern (s.tc + 1) ix p) := by
  unfold State.lookAll
  by_cases he : p.enable
  · rw [if_pos he]
    simp only [foldl_look]
    rw [← show (s.modHere fun x => x.modWeir fun w => w.setPattern ix (some p)).curTile = s.curTile from rfl]
    change (s.modTile s.curTile _).modTile s.curTile _ = s.modTile s.curTile _
    rw [State.modTile_modTile]
    congr 1
    funext x
    simp [Tile.withPattern, he, Tile.modWeir]
  · rw [if_neg he]
    congr 1
    funext x
    simp [Tile.withPattern, he, Tile.modWeir]

theorem State.pdef_sends {s : State} {h : Hdr} {o : R3} {k : Nat} (ha : s.admits (.pdef h o) = true)
    (hc : s.here.pdefCheck (SliceOp.getRun o.a s.cur.frame 64) (!o.b.isNz) = .ok k) (hsend : (s.pdefPat o).action = true) :
    ∃ t, exec (.pdef h o) s = .next t ∧ Status s t h 16 (Tile.withPattern (s.tc + 1) k (s.pdefPat o)) 4 o.d (16 * k) := by
  refine ⟨_, State.pdef_exec ha, ?_⟩
  simp only [State.pdefGo, hc, hsend, if_true, State.lookAll_modHere]
  exact s.oweStatus_status h 16 4 o.d (16 * k) fun _ => rfl

theorem State.pdef_waits {s : State} {h : Hdr} {o : R3} {k : Nat} (ha : s.admits (.pdef h o) = true)
    (hc : s.here.pdefCheck (SliceOp.getRun o.a s.cur.frame 64) (!o.b.isNz) = .ok k) (hsend : (s.pdefPat o).action = false) :
    ∃ t, exec (.pdef h o) s = .next t ∧
      Pending s t h 16 (fun x => x.modWeir fun w => w.setPattern k (some { s.pdefPat o with grans := 0, by_ := s.nextId })) o.d.range
        (max 4 (s.headerCost s.curTile (s.pdefPat o).entry.toNat)) .statusResultWrite 1 (k + 32 * (s.pdefPat o).entry.toNat) := by
  refine ⟨_, State.pdef_exec ha, ?_⟩
  simp only [State.pdefGo, hc, hsend, Bool.false_eq_true, if_false]
  exact s.oweVar_pending h 16 o.d.range _ _ _ _ fun _ => rfl

/-- What an instruction that changes a pattern does, by whether one stands at its index (R176). -/
theorem State.patternOp_completes {i : Instr} {s : State} {h : Hdr} {d : SliceOp} {ix : BitVec 5} {f : Pattern → Option Pattern} {look : Bool}
    {g : Pattern → Weir → Weir} (hf : footOf i s = { dst := d.range }) (he : exec i s = s.patternOp h d ix f look)
    (hg : ∀ p w, (if look then p.basins.foldl (fun (w : Weir) b => w.look b (s.tc + 1)) (w.setPattern ix.toNat (f p)) else w.setPattern ix.toNat (f p)) = g p w)
    (ha : s.admits i = true) :
    ((s.here.weir.pattern ix.toNat).isNone = true → ∃ t, exec i s = .next t ∧ Status s t h 8 id 4 d 1) ∧
      ∀ p, s.here.weir.pattern ix.toNat = some p → ∃ t, exec i s = .next t ∧ Status s t h 8 (fun x => { x with weir := g p x.weir }) 4 d 0 := by
  have hexec := he
  rw [State.patternOp, ← hf, State.guarded_of_admits _ ha] at hexec
  refine ⟨fun hnone => ⟨_, hexec, ?_⟩, fun p hp => ⟨_, hexec, ?_⟩⟩
  · rw [Option.isNone_iff_eq_none] at hnone
    simp only [hnone]
    exact s.oweStatus_status_id h 8 4 d 1
  · simp only [hp, hg]
    exact s.oweStatus_status h 8 4 d 0 fun _ => rfl

/-- Settles O26: `pdef` by its checks in order; the other three by whether a pattern stands at their index. -/
theorem patterns : Obligations.Patterns := by
  unfold Obligations.Patterns
  intro h o d ix s f w r img bs sends form free gives engine p look on
  have hform : form ↔ PatForm r (!o.b.isNz) := by
    simp only [form, PatForm, sends, Bool.not_eq_true']
  have hpat : s.pdefPat o = p := rfl
  have hentry : p.entry.toNat = fld r 192 64 := by
    simp only [p, BitVec.toNat_ofNat]
    exact Nat.mod_eq_of_lt (fld_lt _ _ _)
  refine ⟨fun ha => ⟨fun hf => ?_, fun hf h63 hfull => ?_, fun hf h63 htaken => ?_, fun k hf hown hlow => ?_⟩, ?_, ?_, ?_⟩
  · exact State.pdef_fails ha (pdefCheck_form (mt hform.mpr hf))
  · exact State.pdef_fails ha (pdefCheck_full (hform.mp hf) h63 hfull)
  · exact State.pdef_fails ha (pdefCheck_taken (hform.mp hf) h63 htaken)
  · have hk : PatIndex s.here r k := ⟨hown, hlow⟩
    have hF := hform.mp hf
    intro gone twice patched noEngine
    refine ⟨fun hgone => ?_, fun hgone htwice => ?_, fun hgone htwice hpatched => ?_, fun hgone htwice hpatched hnoE => ?_,
      fun hgone htwice hpatched hnoE hsends => ?_, fun hgone htwice hpatched hsends => ?_⟩
    · exact State.pdef_fails ha (pdefCheck_gone hF hk hgone)
    · exact State.pdef_fails ha (pdefCheck_twice hF hk hgone htwice)
    · refine State.pdef_fails ha ((pdefCheck_patches hF hk hgone htwice).trans (if_pos ?_))
      simpa [patched] using hpatched
    · refine State.pdef_fails ha ((pdefCheck_usable hF hk ⟨hgone, htwice, hpatched⟩).trans (if_pos ?_))
      simpa [noEngine, sends] using hnoE
    · have hc : s.here.pdefCheck r (!o.b.isNz) = .ok k := (pdefCheck_usable hF hk ⟨hgone, htwice, hpatched⟩).trans
        (if_neg (by simpa [noEngine, sends] using hnoE))
      obtain ⟨t, hexec, hst⟩ := State.pdef_sends ha hc (by simpa [hpat, p, sends] using hsends)
      exact ⟨t, hexec, hst⟩
    · have hc : s.here.pdefCheck r (!o.b.isNz) = .ok k := (pdefCheck_usable hF hk ⟨hgone, htwice, hpatched⟩).trans
        (if_neg (by simp [show ¬ fld r 66 1 = 1 from hsends]))
      have hw := State.pdef_waits ha hc (by simpa [hpat, p, sends] using hsends)
      rw [hpat, hentry] at hw
      exact hw
  · exact State.patternOp_completes (f := fun _ => none) (look := false) rfl rfl fun _ _ => rfl
  · exact State.patternOp_completes (f := fun p => some { p with enable := true }) (look := true) rfl rfl fun p w => foldl_look _ _ _
  · exact State.patternOp_completes (f := fun p => some { p with enable := false }) (look := false) rfl rfl fun _ _ => rfl

/-! ### Basins (R158 to R161, R181) -/

/-- A basin record keeps its form (R159). -/
def BasinForm (r : Nat) : Prop :=
  fld r 32 32 = 0 ∧ fld r 12 5 = 0 ∧ fld r 3 1 = 0 ∧ fld r 0 2 ≠ 3 ∧ fld r 4 2 ≠ 3 ∧ fld r 64 6 = 0 ∧ fld r 22 10 ≤ 512 ∧ (fld r 0 2 = 2 ∨ fld r 2 1 = 0) ∧
    (fld r 0 2 = 1 → fld r 4 2 = 0 ∧ fld r 22 10 ≤ 1 ∧ fld r 17 1 = 0) ∧ (fld r 0 2 = 2 → fld r 4 2 = 2)

theorem basinRecOk_iff (r : Nat) : basinRecOk r = true ↔ BasinForm r := by
  simp only [basinRecOk, BasinForm, Bool.and_eq_true, Bool.or_eq_true, beq_iff_eq, bne_iff_ne, decide_eq_true_eq, and_assoc, ne_eq,
    ← Classical.or_iff_not_imp_left, imp_iff_not_or]

/-- The index that a record asks for: its own, or the lowest that is free (R160). -/
def BasinIndex (x : Tile) (r k : Nat) : Prop :=
  fld r 6 6 ≠ 62 ∧ (fld r 6 6 ≠ 63 → k = fld r 6 6 ∧ (x.weir.basin (fld r 6 6)).isNone = true) ∧
    (fld r 6 6 = 63 → k < 62 ∧ (x.weir.basin k).isNone = true ∧ ∀ l, l < k → (x.weir.basin l).isNone = false)

theorem basinIndex_form {x : Tile} {r : Nat} (h : ¬ BasinForm r) : x.basinIndex r = .error 4 := by
  rw [Tile.basinIndex, if_pos]
  simpa [← basinRecOk_iff] using h

theorem basinIndex_of_form {x : Tile} {r : Nat} (h : BasinForm r) : x.basinIndex r =
    if fld r 6 6 = 62 then .error 6
    else if fld r 6 6 != 63 && (x.weir.basin (fld r 6 6)).isSome then .error 1
    else if fld r 6 6 = 63 ∧ ((List.range 62).find? fun i => (x.weir.basin i).isNone) = none then .error 2
    else if fld r 0 2 = 2 ∧ (x.engineBasin (fld r 2 1 == 1)).isSome then .error 5
    else if 448 < x.reserves + fld r 22 10 then .error 3
    else .ok (if fld r 6 6 = 63 then ((List.range 62).find? fun i => (x.weir.basin i).isNone).getD 0 else fld r 6 6) := by
  rw [Tile.basinIndex, if_neg (by simpa using (basinRecOk_iff r).mpr h)]

theorem basinIndex_taken {x : Tile} {r : Nat} (h : BasinForm r) (h62 : fld r 6 6 ≠ 62) (h63 : fld r 6 6 ≠ 63)
    (htaken : (x.weir.basin (fld r 6 6)).isNone = false) : x.basinIndex r = .error 1 := by
  have hsome : (x.weir.basin (fld r 6 6)).isSome = true := by simpa [Option.isSome_iff_ne_none] using htaken
  rw [basinIndex_of_form h, if_neg h62, if_pos (by simp [h63, hsome])]

theorem basinIndex_full {x : Tile} {r : Nat} (h : BasinForm r) (h63 : fld r 6 6 = 63)
    (hfull : ∀ k, k < 62 → (x.weir.basin k).isNone = false) : x.basinIndex r = .error 2 := by
  rw [basinIndex_of_form h, if_neg (by omega), if_neg (by simp [h63]), if_pos ⟨h63, find?_range_none hfull⟩]

/-- Where a record keeps its form and has an index, its engine and the reserves decide. -/
theorem basinIndex_index {x : Tile} {r k : Nat} (h : BasinForm r) (hk : BasinIndex x r k) : x.basinIndex r =
    if fld r 0 2 = 2 ∧ (x.engineBasin (fld r 2 1 == 1)).isSome then .error 5 else if 448 < x.reserves + fld r 22 10 then .error 3 else .ok k := by
  obtain ⟨h62, hown, hlow⟩ := hk
  rw [basinIndex_of_form h, if_neg h62]
  by_cases h63 : fld r 6 6 = 63
  · obtain ⟨hk62, hfree, hleast⟩ := hlow h63
    rw [find?_range_least (p := fun i => (x.weir.basin i).isNone) hk62 hfree hleast, if_neg (by simp [h63]), if_neg (by simp), if_pos h63]
    rfl
  · obtain ⟨rfl, hfree⟩ := hown h63
    rw [if_neg (by simpa [h63] using hfree), if_neg fun c => h63 c.1, if_neg h63]

/-- The tile with a basin in its place. -/
def Tile.withBasin (k : Nat) (b : Basin) (x : Tile) : Tile := x.modWeir fun w => w.setBasin k (some b)

/-- What `bdef` does once its checks have passed. -/
def State.bdefGo (h : Hdr) (o : R2) (s : State) : State :=
  let r := SliceOp.getRun o.a s.cur.frame 32
  match s.here.basinIndex r with
  | .error c => (s.oweStatus 4 o.d c).advance h 16
  | .ok ix => ((s.modHere (Tile.withBasin ix (basinOfRec r))).oweStatus 4 o.d (handleOf s.dev.device s.curTile ix (s.here.weir.gen ix)).toNat).advance h 16

theorem State.bdef_exec {s : State} {h : Hdr} {o : R2} (ha : s.admits (.bdef h o) = true) : exec (.bdef h o) s = .next (s.bdefGo h o) :=
  State.guarded_of_admits (i := .bdef h o) (fun s => s.bdefGo h o) ha

theorem State.bdef_fails {s : State} {h : Hdr} {o : R2} {c : Nat} (ha : s.admits (.bdef h o) = true)
    (hc : s.here.basinIndex (SliceOp.getRun o.a s.cur.frame 32) = .error c) : ∃ t, exec (.bdef h o) s = .next t ∧ Status s t h 16 id 4 o.d c := by
  refine ⟨_, State.bdef_exec ha, ?_⟩
  simp only [State.bdefGo, hc]
  exact s.oweStatus_status_id h 16 4 o.d c

theorem State.bdef_defines {s : State} {h : Hdr} {o : R2} {k : Nat} (ha : s.admits (.bdef h o) = true)
    (hc : s.here.basinIndex (SliceOp.getRun o.a s.cur.frame 32) = .ok k) : ∃ t, exec (.bdef h o) s = .next t ∧
      Status s t h 16 (Tile.withBasin k (basinOfRec (SliceOp.getRun o.a s.cur.frame 32))) 4 o.d
        (handleOf s.dev.device s.curTile k (s.here.weir.gen k)).toNat := by
  refine ⟨_, State.bdef_exec ha, ?_⟩
  simp only [State.bdefGo, hc]
  exact s.oweStatus_status h 16 4 o.d _ fun _ => rfl

/-- A basin that a record defines has the kind the record says, and holds nothing. -/
theorem basinOfRec_kind (r : Nat) : (fld r 0 2 = 0 → (basinOfRec r).kind = .message) ∧ (fld r 0 2 = 1 → (basinOfRec r).kind = .counter) ∧
    (fld r 0 2 = 2 → (basinOfRec r).kind = .engine) := by
  refine ⟨fun h => ?_, fun h => ?_, fun h => ?_⟩ <;> simp [basinOfRec, h]

/-! What `bfree` does (R155, R161). -/

/-- A change of the network's stops alone. -/
theorem State.ackSend_stops (s : State) (t : Nat) (m : SendMsg) (retry : Bool) : ∃ l, s.ackSend t m retry = { s with stops := l } := by
  unfold State.ackSend
  split <;> exact ⟨_, rfl⟩

theorem State.ackSends_stops (s : State) (t : Nat) (l : List SendMsg) :
    ∃ k, l.foldl (fun (s : State) m => s.ackSend t m false) s = { s with stops := k } := by
  induction l generalizing s with
  | nil => exact ⟨s.stops, rfl⟩
  | cons m l ih =>
    obtain ⟨k, hk⟩ := s.ackSend_stops t m false
    obtain ⟨k', hk'⟩ := ih { s with stops := k }
    exact ⟨k', by rw [List.foldl_cons, hk, hk']⟩

/-- The tile of a basin that is freed: the generation advances, and what named the basin is dropped. -/
def Tile.basinFreed (ix : Nat) (hd : BitVec 32) (x : Tile) : Tile :=
  { x.modWeir fun w =>
      { w with gens := Tbl.set w.gens ix (w.gen ix % 4095 + 1)
               basins := Tbl.set w.basins ix none
               examine := w.examine.filter fun e => e.1 != ix
               blocked := w.blocked.filter (· != ix)
               reseq := w.reseq.map fun e => if e.basin = hd then { e with held := [], gone := e.gone ++ e.held.map (·.seq) } else e } with
    ready := x.ready.map fun q => { q with payloads := q.payloads.map fun p => if p.2.2 = some ix then (p.1, p.2.1, some 64) else p } }

theorem State.freeBasin_eq (s : State) (t ix : Nat) : ∃ (k : Tbl Stop) (d : Dev), s.freeBasin t ix =
    { ({ s with stops := k } : State).modTile t (Tile.basinFreed ix (handleOf s.dev.device t ix ((s.tile t).weir.gen ix))) with dev := d } := by
  obtain ⟨k, hk⟩ := s.ackSends_stops t (((s.tile t).weir.reseq.filter fun e => e.basin == handleOf s.dev.device t ix ((s.tile t).weir.gen ix)).flatMap (·.held))
  exact ⟨k, (s.freeBasin t ix).dev, by rw [← hk]; rfl⟩

theorem State.freeBasin_kept (s : State) (t ix : Nat) : Kept s (s.freeBasin t ix) := by
  obtain ⟨k, d, hk⟩ := s.freeBasin_eq t ix
  obtain ⟨hmem, hpools, hjets, htime⟩ := Kept.modTile { s with stops := k } t
    (f := Tile.basinFreed ix (handleOf s.dev.device t ix ((s.tile t).weir.gen ix))) (fun _ => rfl) fun _ => rfl
  rw [hk]
  exact ⟨hmem, hpools, hjets, htime⟩

theorem State.freeBasin_tile (s : State) (t ix : Nat) :
    (s.freeBasin t ix).tile t = Tile.basinFreed ix (handleOf s.dev.device t ix ((s.tile t).weir.gen ix)) (s.tile t) := by
  obtain ⟨k, d, hk⟩ := s.freeBasin_eq t ix
  rw [hk]
  exact State.tile_modTile_same { s with stops := k } t _

theorem Tile.basinFreed_basin (ix : Nat) (hd : BitVec 32) (x : Tile) (k : Nat) :
    (Tile.basinFreed ix hd x).weir.basin k = if k = ix then none else x.weir.basin k := by
  by_cases h : k = ix
  · subst h
    rw [if_pos rfl]
    exact Tbl.get_set_same ..
  · rw [if_neg h]
    exact Tbl.get_set_ne _ _ _ h

theorem Tile.basinFreed_gen (ix : Nat) (hd : BitVec 32) (x : Tile) (k : Nat) :
    (Tile.basinFreed ix hd x).weir.gen k = if k = ix then x.weir.gen ix % 4095 + 1 else x.weir.gen k := by
  by_cases h : k = ix
  · subst h
    rw [if_pos rfl]
    exact Tbl.get_set_same ..
  · rw [if_neg h]
    exact Tbl.get_set_ne _ _ _ h

/-- The handle that `bfree` names. -/
def State.handleIn (s : State) (o : R2) : BitVec 32 := BitVec.ofNat 32 (o.a.get s.cur.frame)

/-- An installed pattern names basin `ix` (R161 status 4). -/
def Tile.inPattern (x : Tile) (ix : Nat) : Prop := ∃ e ∈ x.weir.patterns, ∃ p, e.2 = some p ∧ ix ∈ p.basins

/-- The status of `bfree` (R161). -/
def State.bfreeStatus (s : State) (hd : BitVec 32) : Nat :=
  if hDev hd != s.dev.device.toNat || hTile hd != s.curTile then 1 else if !s.live s.curTile hd then 2
  else if hIndex hd = 62 ∨ hIndex hd = 63 then 3
  else if (s.here.weir.patterns.any fun e => match e.2 with | some p => p.basins.contains (hIndex hd) | none => false) then 4 else 0

theorem State.bfree_exec {s : State} {h : Hdr} {o : R2} (ha : s.admits (.bfree h o) = true) : exec (.bfree h o) s =
    .next (((if s.bfreeStatus (s.handleIn o) = 0 then s.freeBasin s.curTile (hIndex (s.handleIn o)) else s).oweStatus 4 o.d (s.bfreeStatus (s.handleIn o))).advance h 8) :=
  State.guarded_of_admits (i := .bfree h o) (fun s =>
    ((if s.bfreeStatus (s.handleIn o) = 0 then s.freeBasin s.curTile (hIndex (s.handleIn o)) else s).oweStatus 4 o.d (s.bfreeStatus (s.handleIn o))).advance h 8) ha

theorem Tile.inPattern_iff (x : Tile) (ix : Nat) :
    (x.weir.patterns.any fun e => match e.2 with | some p => p.basins.contains ix | none => false) = true ↔ x.inPattern ix := by
  rw [List.any_eq_true]
  refine exists_congr fun e => and_congr_right fun _ => ?_
  cases e.2 with
  | none => simp
  | some p => simp

/-- `bfree` fails with the first status that holds. -/
theorem State.bfree_fails {s : State} {h : Hdr} {o : R2} {v : Nat} (ha : s.admits (.bfree h o) = true) (hv : s.bfreeStatus (s.handleIn o) = v)
    (h0 : v ≠ 0) : ∃ t, exec (.bfree h o) s = .next t ∧ Status s t h 8 id 4 o.d v := by
  refine ⟨_, State.bfree_exec ha, ?_⟩
  rw [hv, if_neg h0]
  exact s.oweStatus_status_id h 8 4 o.d v

/-- `bfree` frees its basin where no status is against it. -/
theorem State.bfree_frees {s : State} {h : Hdr} {o : R2} (ha : s.admits (.bfree h o) = true) (hv : s.bfreeStatus (s.handleIn o) = 0) :
    ∃ t, exec (.bfree h o) s = .next t ∧ Status (s.freeBasin s.curTile (hIndex (s.handleIn o))) t h 8 id 4 o.d 0 := by
  refine ⟨_, State.bfree_exec ha, ?_⟩
  rw [hv, if_pos rfl]
  exact (s.freeBasin s.curTile (hIndex (s.handleIn o))).oweStatus_status_id h 8 4 o.d 0

/-! What the weir is asked, and answers (R172, R181). -/

/-- The tile whose weir is asked once more. -/
def Tile.asking (q : Nat × Nat × Nat × BitVec 32) (x : Tile) : Tile := { x with weir := { x.weir with asks := x.weir.asks ++ [q] } }

/-- `bstat` puts its question to the weir. -/
theorem State.bstat_completes {s : State} {h : Hdr} {o : R2} : s.admits (.bstat h o) = true → ∃ t, exec (.bstat h o) s = .next t ∧
    Issued s t h 8 (Tile.asking (s.tc + 4, s.curSlot, s.nextId, s.handleIn o)) [s.varOwed o.d.range [] [] [] false] [] := by
  refine State.completes (k := fun s => ((s.oweVar o.d.range [] [] [] false).2.modHere (Tile.asking (s.tc + 4, s.curSlot, s.nextId, s.handleIn o))).advance h 8) rfl ?_
  rw [s.oweVar_modHere (g := Tile.asking (s.tc + 4, s.curSlot, s.nextId, s.handleIn o)) (fun _ => rfl) fun _ _ _ => rfl]
  exact s.oweVar_issued h 8 o.d.range fun _ => rfl

/-- What a basin tells of itself (R181). -/
def Basin.told (b : Basin) : Nat :=
  if b.kind = .counter then b.count.toNat
  else b.slots.length * 2 ^ 48 + b.ring.length * 2 ^ 32 + b.reserve * 2 ^ 22 + min 63 b.overflowed * 2 ^ 16

theorem State.basinStat_live {s : State} {t : Nat} {hd : BitVec 32} {b : Basin} (hl : s.live t hd = true) (hb : (s.tile t).weir.basin (hIndex hd) = some b) :
    s.basinStat t hd = b.told := by
  rw [State.basinStat, if_neg (by simp [hl]), hb]
  unfold Basin.told
  cases hk : b.kind <;> simp [hk]

theorem State.basinStat_dead {s : State} {t : Nat} {hd : BitVec 32} (hl : s.live t hd = false) : s.basinStat t hd = 2 ^ 64 - 1 := by
  rw [State.basinStat, if_pos (by simp [hl])]

theorem Jet.owes_of_findOwed {j : Jet} {id : Nat} {w : Owed} (h : j.findOwed id = some w) : j.owes id = true :=
  List.any_eq_true.mpr ⟨w, List.mem_of_find?_eq_some h, List.find?_some (p := fun o : Owed => o.id == id) h⟩

/-- A value that is known stands in the result that waited for it. -/
theorem Jet.findOwed_fillOwed {j : Jet} {id v : Nat} {w : Owed} (h : j.findOwed id = some w) :
    (j.fillOwed id v).findOwed id = some { w with w := [⟨scatter w.dst v, []⟩], flags := [0] } := by
  have hid : (w.id == id) = true := List.find?_some (p := fun o : Owed => o.id == id) h
  have hkey : ((fun o : Owed => o.id == id) ∘ fun o => if o.id = id then { o with w := [⟨scatter o.dst v, []⟩], flags := [0] } else o) =
      fun o => o.id == id := by
    funext o
    by_cases ho : o.id = id <;> simp [ho]
  have hw : j.owed.find? (fun o => o.id == id) = some w := h
  rw [Jet.findOwed, Jet.fillOwed, List.find?_map, hkey, hw, Option.map_some, if_pos (by simpa using hid)]

theorem agendaInsert_mem (l : List (Nat × Focus × Instr)) (d : Nat) (f : Focus) (e : Instr) : (d, f, e) ∈ agendaInsert l d f e := by
  induction l with
  | nil => exact List.mem_singleton.mpr rfl
  | cons x l ih =>
    obtain ⟨d', f', e'⟩ := x
    rw [agendaInsert]
    split
    · exact List.mem_cons_self
    · exact List.mem_cons_of_mem _ ih

/-- The tile where a value that a jet waits for is known. -/
def Tile.settled (slot id v : Nat) (x : Tile) : Tile :=
  if (x.jet slot).owes id then x.modJet slot fun j => j.fillOwed id v
  else { x with saves := x.saves.map fun e => (e.1, e.2.map fun w => { w with jet := w.jet.fillOwed id v }) }

theorem State.settle_tile (s : State) (t slot id lat v : Nat) : (s.settle t slot id lat v).tile t = Tile.settled slot id v (s.tile t) :=
  s.tile_modTile_same t (Tile.settled slot id v)

/-- A value that a running jet waits for is written in this tc (R67). -/
theorem State.settle_now {s : State} {t slot id v : Nat} {w : Owed} (h : (s.jet t slot).findOwed id = some w) :
    ((s.settle t slot id 0 v).jet t slot).findOwed id = some { w with w := [⟨scatter w.dst v, []⟩], flags := [0] } ∧
      (s.nc, ⟨t, slot, id, 0, 0⟩, Instr.statusResultWrite) ∈ (s.settle t slot id 0 v).agenda ∧ (s.settle t slot id 0 v).mem = s.mem := by
  have howes : ((s.tile t).jet slot).owes id = true := Jet.owes_of_findOwed h
  refine ⟨?_, agendaInsert_mem _ _ _ _, rfl⟩
  rw [State.jet, State.settle_tile, Tile.settled, if_pos howes, Tile.jet_modJet_same]
  exact Jet.findOwed_fillOwed h

/-- The tile whose weir has given answer `c`. -/
def Tile.answered (c : Nat) (x : Tile) : Tile := x.modWeir fun w => { w with asks := w.asks.filter fun e => e.2.2.1 != c }

theorem State.bstatAnswer_exec {s : State} (hd : s.focus.d = 9) : exec .statusResultWrite s =
    .next ((s.modTile s.focus.a (Tile.answered s.focus.c)).settle s.focus.a s.focus.b s.focus.c 0 (s.basinStat s.focus.a (BitVec.ofNat 32 s.focus.data))) := by
  change execStatusResultWrite s = _
  simp only [execStatusResultWrite, hd]
  rfl

/-- Settles O25: `bdef` and `bfree` by their checks in order; `bstat` by its question and the weir's answer. -/
theorem basins : Obligations.Basins := by
  unfold Obligations.Basins
  intro h o s f x r kind msize ix reserve form free ends hd i fenced
  have hform : form ↔ BasinForm r := Iff.rfl
  refine ⟨fun ha => ⟨fun hf => ?_, fun hf h62 => ?_, fun hf h62 h63 htaken => ?_, fun hf h63 hfull => ?_, fun k hf h62 hown hlow => ?_⟩, fun ha => ?_, ?_, ?_⟩
  · exact State.bdef_fails ha (basinIndex_form hf)
  · exact State.bdef_fails ha ((basinIndex_of_form hf).trans (if_pos h62))
  · exact State.bdef_fails ha (basinIndex_taken hf h62 h63 htaken)
  · exact State.bdef_fails ha (basinIndex_full hf h63 hfull)
  · have hk : BasinIndex x r k := ⟨h62, hown, hlow⟩
    intro twice
    refine ⟨fun htwice => ?_, fun honce hroom => ?_, fun honce hroom => ?_⟩
    · exact State.bdef_fails ha ((basinIndex_index hf hk).trans (if_pos htwice))
    · exact State.bdef_fails ha ((basinIndex_index hf hk).trans ((if_neg honce).trans (if_pos hroom)))
    · obtain ⟨t, hexec, hstatus⟩ := State.bdef_defines ha ((basinIndex_index hf hk).trans ((if_neg honce).trans (if_neg (by omega))))
      obtain ⟨hmessage, hcounter, hengine⟩ := basinOfRec_kind r
      exact ⟨t, basinOfRec r, ⟨hexec, hstatus⟩, rfl, rfl, rfl, rfl, rfl, hmessage, hcounter, fun h2 => ⟨hengine h2, rfl⟩, rfl, rfl, rfl, rfl, rfl⟩
  · intro away gives live
    have haway : (hDev hd != s.dev.device.toNat || hTile hd != s.curTile) = true ↔ away := by simp [away]
    have hfenced := Tile.inPattern_iff x i
    have hstatus : s.bfreeStatus (s.handleIn o) = if hDev hd != s.dev.device.toNat || hTile hd != s.curTile then 1 else if !s.live s.curTile hd then 2
        else if i = 62 ∨ i = 63 then 3
        else if (x.weir.patterns.any fun e => match e.2 with | some p => p.basins.contains i | none => false) then 4 else 0 := rfl
    refine ⟨fun hw => ?_, fun hw hl => ?_, fun hw hl h3 => ?_, fun hw hl h62 h63 hf => ?_, fun hw hl h62 h63 hf => ?_⟩
    · exact State.bfree_fails ha (hstatus.trans (if_pos (haway.mpr hw))) (by decide)
    · rw [if_neg (mt haway.mp hw), if_pos (by simpa [live] using hl)] at hstatus
      exact State.bfree_fails ha hstatus (by decide)
    · rw [if_neg (mt haway.mp hw), if_neg (by simpa [live] using hl), if_pos h3] at hstatus
      exact State.bfree_fails ha hstatus (by decide)
    · rw [if_neg (mt haway.mp hw), if_neg (by simpa [live] using hl), if_neg (by omega), if_pos (hfenced.mpr hf)] at hstatus
      exact State.bfree_fails ha hstatus (by decide)
    · rw [if_neg (mt haway.mp hw), if_neg (by simpa [live] using hl), if_neg (by omega), if_neg (mt hfenced.mp hf)] at hstatus
      obtain ⟨t, hexec, hst⟩ := State.bfree_frees ha hstatus
      have htile : (s.freeBasin s.curTile i).here = _ := (show _ = (s.freeBasin s.curTile i).tile s.curTile by
        rw [State.here, (s.freeBasin_kept s.curTile i).time.2.2.1]).trans (s.freeBasin_tile s.curTile i)
      refine ⟨t, _, hexec, hst, s.freeBasin_kept _ _, ?_, ?_, fun k hk => ⟨?_, ?_⟩, ?_⟩
      · exact (congrArg (·.weir.basin i) htile).trans ((Tile.basinFreed_basin ..).trans (if_pos rfl))
      · exact (congrArg (·.weir.gen i) htile).trans ((Tile.basinFreed_gen ..).trans (if_pos rfl))
      · exact (congrArg (·.weir.basin k) htile).trans ((Tile.basinFreed_basin ..).trans (if_neg hk))
      · exact (congrArg (·.weir.gen k) htile).trans ((Tile.basinFreed_gen ..).trans (if_neg hk))
      · exact congrArg (·.weir.patterns) htile
  · exact State.bstat_completes
  · intro w v hd9 hw hv
    have hvalue : s.basinStat s.focus.a (BitVec.ofNat 32 s.focus.data) = v := by
      rcases hv with ⟨hdead, rfl⟩ | ⟨hlive, b, hb, rfl⟩
      · exact State.basinStat_dead hdead
      · exact State.basinStat_live hlive hb
    have hw' : ((s.modTile s.focus.a (Tile.answered s.focus.c)).jet s.focus.a s.focus.b).findOwed s.focus.c = some w := by
      rw [State.jet, State.tile_modTile_same]
      exact hw
    obtain ⟨hfound, hagenda, hmem⟩ := State.settle_now (v := v) hw'
    exact ⟨_, _, (State.bstatAnswer_exec hd9).trans (by rw [hvalue]), hfound, rfl, hagenda, hmem⟩

end Sys2Proof.Machine
end

section
/-!
SUPPORT and PROOFS. Traps and the checks at issue (R346 to R349), the state registers (R352): O36, O37, O39 and O40.
-/

namespace Sys2Proof.Machine

/-! ### Checks at issue (R347) -/

/-- `trap` checks nothing but that its operand lies in the frame (R347). -/
theorem exec_trap_outside {h : Hdr} {a : SliceOp} {code : BitVec 16} {s : State} {n : Nat} (hn : s.cur.outside (footRead a) = some n) :
    exec (.trap h a code) s = .next (s.trap { cause := 3, info := n }) := by
  change execTrap h a code s = _
  rw [execTrap, hn]

theorem State.guarded_ill {s : State} {fp : Foot} {c : Nat} (k : State → State) (hill : fp.ill = some c) :
    s.guarded fp k = .next (s.illegal c) := by
  rw [State.guarded, hill]

theorem State.guarded_outside {s : State} {fp : Foot} {n : Nat} (k : State → State) (hill : fp.ill = none) (hout : s.cur.outside fp = some n) :
    s.guarded fp k = .next (s.trap { cause := 3, info := n }) := by
  rw [State.guarded, hill, hout]

theorem State.guarded_early {s : State} {fp : Foot} {o : Owed} (k : State → State) (hill : fp.ill = none) (hout : s.cur.outside fp = none)
    (hck : s.here.checking = true) (hearly : s.cur.early fp = some o) : s.guarded fp k = .next (s.trap { cause := 4, info := o.issued }) := by
  rw [State.guarded, hill, hout, if_pos hck, hearly]

theorem State.guarded_tainted {s : State} {fp : Foot} {w : Nat} (k : State → State) (hill : fp.ill = none) (hout : s.cur.outside fp = none)
    (hearly : s.here.checking = true → s.cur.early fp = none) (htaint : s.cur.tainted fp = some w) :
    s.guarded fp k = .next (s.trap { cause := 8, info := 2 }) := by
  have hnone : (if s.here.checking then s.cur.early fp else none) = none := by
    split
    · next hck => exact hearly hck
    · rfl
  rw [State.guarded, hill, hout, hnone, htaint]

theorem Instr.eq_trap_of_isTrap {i : Instr} (h : i.isTrap = true) : ∃ hd a code, i = .trap hd a code := by
  unfold Instr.isTrap at h
  split at h
  · exact ⟨_, _, _, rfl⟩
  · cases h

/-- Settles O37: every instruction of a program but `trap` is guarded by its footprint, and `trap` checks its frame range alone. -/
theorem checksAtIssue : Obligations.ChecksAtIssue := by
  unfold Obligations.ChecksAtIssue
  intro i s hi
  cases htrap : i.isTrap with
  | true =>
    obtain ⟨h, a, code, rfl⟩ := Instr.eq_trap_of_isTrap htrap
    exact ⟨fun c hc => (nomatch hc), fun n _ hn => exec_trap_outside hn, fun _ _ _ h => (nomatch (show true = false from h)), fun _ _ _ h => (nomatch (show true = false from h))⟩
  | false =>
    obtain ⟨k, hk⟩ := exec_guarded i s hi htrap
    rw [hk]
    exact ⟨fun c hill => State.guarded_ill k hill, fun n hill hout => State.guarded_outside k hill hout,
      fun o hill hout _ hck hearly => State.guarded_early k hill hout hck hearly,
      fun w hill hout _ hearly htaint => State.guarded_tainted k hill hout hearly htaint⟩

/-! ### Taking a trap (R346, R348, R349) -/

/-- The fields of a fault record, lowest first (R348). -/
def faultFields (s : State) (t : Nat) (f : Flt) (pc : BitVec 64) (inst jet : BitVec 16) : List (Nat × Nat) :=
  [(64, 0), (16, f.tcode), (8, f.cause), (8, f.sub), (5, f.flags.toNat), (3, 0), (8, f.unit), (3, 0), (3, f.chan), (10, t), (16, jet.toNat), (16, inst.toNat),
   (32, f.handle.toNat), (64, s.dev.time), (64, f.addr2), (64, f.info), (64, pc.toNat), (64, f.addr)]

theorem faultRecord_eq_packF (s : State) (t : Nat) (f : Flt) (pc : BitVec 64) (inst jet : BitVec 16) :
    faultRecord s t f pc inst jet = packF (faultFields s t f pc inst jet) := by
  have h320 : (2 : Nat) ^ 320 = 2 ^ 160 * 2 ^ 160 := by rw [← Nat.pow_add]
  have h384 : (2 : Nat) ^ 384 = 2 ^ 192 * 2 ^ 192 := by rw [← Nat.pow_add]
  have h448 : (2 : Nat) ^ 448 = 2 ^ 224 * 2 ^ 224 := by rw [← Nat.pow_add]
  simp only [faultRecord, faultFields, packF, BitVec.toNat_mod_cancel, Nat.zero_mod, h320, h384, h448]
  ring_nf

section
variable (s : State) (t : Nat) (f : Flt) (pc : BitVec 64) (inst jet : BitVec 16)

theorem faultRecord_tcode : fld (faultRecord s t f pc inst jet) 64 16 = f.tcode % 2 ^ 16 := by
  simp only [faultRecord_eq_packF, faultFields, fld_packF_skip, fld_packF_head, Nat.reduceLeDiff, Nat.reduceSub]
theorem faultRecord_cause : fld (faultRecord s t f pc inst jet) 80 8 = f.cause % 2 ^ 8 := by
  simp only [faultRecord_eq_packF, faultFields, fld_packF_skip, fld_packF_head, Nat.reduceLeDiff, Nat.reduceSub]
theorem faultRecord_sub : fld (faultRecord s t f pc inst jet) 88 8 = f.sub % 2 ^ 8 := by
  simp only [faultRecord_eq_packF, faultFields, fld_packF_skip, fld_packF_head, Nat.reduceLeDiff, Nat.reduceSub]
theorem faultRecord_flags : fld (faultRecord s t f pc inst jet) 96 5 = f.flags.toNat := by
  simp only [faultRecord_eq_packF, faultFields, fld_packF_skip, fld_packF_head, Nat.reduceLeDiff, Nat.reduceSub, BitVec.toNat_mod_cancel]
theorem faultRecord_tile : fld (faultRecord s t f pc inst jet) 118 10 = t % 2 ^ 10 := by
  simp only [faultRecord_eq_packF, faultFields, fld_packF_skip, fld_packF_head, Nat.reduceLeDiff, Nat.reduceSub]
theorem faultRecord_jet : fld (faultRecord s t f pc inst jet) 128 16 = jet.toNat := by
  simp only [faultRecord_eq_packF, faultFields, fld_packF_skip, fld_packF_head, Nat.reduceLeDiff, Nat.reduceSub, BitVec.toNat_mod_cancel]
theorem faultRecord_inst : fld (faultRecord s t f pc inst jet) 144 16 = inst.toNat := by
  simp only [faultRecord_eq_packF, faultFields, fld_packF_skip, fld_packF_head, Nat.reduceLeDiff, Nat.reduceSub, BitVec.toNat_mod_cancel]
theorem faultRecord_time : fld (faultRecord s t f pc inst jet) 192 64 = s.dev.time % 2 ^ 64 := by
  simp only [faultRecord_eq_packF, faultFields, fld_packF_skip, fld_packF_head, Nat.reduceLeDiff, Nat.reduceSub]
theorem faultRecord_info : fld (faultRecord s t f pc inst jet) 320 64 = f.info % 2 ^ 64 := by
  simp only [faultRecord_eq_packF, faultFields, fld_packF_skip, fld_packF_head, Nat.reduceLeDiff, Nat.reduceSub]
theorem faultRecord_pc : fld (faultRecord s t f pc inst jet) 384 64 = pc.toNat := by
  simp only [faultRecord_eq_packF, faultFields, fld_packF_skip, fld_packF_head, Nat.reduceLeDiff, Nat.reduceSub, BitVec.toNat_mod_cancel]
theorem faultRecord_addr : fld (faultRecord s t f pc inst jet) 448 64 = f.addr % 2 ^ 64 := by
  simp only [faultRecord_eq_packF, faultFields, fld_packF_skip, fld_packF_head, Nat.reduceLeDiff, Nat.reduceSub]
end

/-- The fields of a handle, lowest first (R155). -/
theorem handleOf_eq_packF (dev : BitVec 4) (t ix gen : Nat) : (handleOf dev t ix gen).toNat =
    packF [(12, gen), (6, ix), (4, colOf t), (4, rowOf t), (2, dieOf t), (4, dev.toNat)] := by
  simp only [handleOf, BitVec.toNat_append, BitVec.toNat_ofNat, packF, BitVec.toNat_mod_cancel]
  rw [← Nat.shiftLeft_add_eq_or_of_lt (Nat.mod_lt _ (by decide)), ← Nat.shiftLeft_add_eq_or_of_lt (Nat.mod_lt _ (by decide)),
    ← Nat.shiftLeft_add_eq_or_of_lt (Nat.mod_lt _ (by decide)), ← Nat.shiftLeft_add_eq_or_of_lt (Nat.mod_lt _ (by decide)),
    ← Nat.shiftLeft_add_eq_or_of_lt (Nat.mod_lt _ (by decide))]
  simp only [Nat.shiftLeft_eq]
  ring

theorem hIndex_handleOf (dev : BitVec 4) (t ix gen : Nat) : hIndex (handleOf dev t ix gen) = ix % 64 := by
  rw [hIndex, handleOf_eq_packF, fld_packF_skip _ _ _ (by decide)]
  exact fld_packF_head _ _ _

/-- The handle of a basin names its tile. -/
theorem hTile_handleOf (dev : BitVec 4) {t : Nat} (ht : t < Config.tiles) (ix gen : Nat) : hTile (handleOf dev t ix gen) = t := by
  have hlt : t < 1024 := ht
  simp only [hTile, handleOf_eq_packF, fld_packF_skip, fld_packF_head, Nat.reduceLeDiff, Nat.reduceSub, tileAt, dieOf, rowOf, colOf]
  omega

/-- The jet of a slot that is suspended on `stay` (R349). -/
def Jet.trapped (j : Jet) (stay : BitVec 64) : Jet :=
  { j with
    status := .suspended
    pc := j.contPc.getD stay
    interrupted := (if j.contPc.isSome then [⟨stay, [], j.replayOrd⟩] else []) ++ j.interrupted ++ j.replay
    replay := []
    contPc := none
    casc := .none
    fwdQ := [] }

/-- The fault message that a trap of a jet sends. -/
def State.trapMsg (s : State) (n k : Nat) (f : Flt) (pc : BitVec 64) : SendMsg :=
  faultMsg s n n (faultRecord s n f pc (s.jet n k).inst ((s.jet n k).id16 k)) (s.jet n k).inst

/-- The tile whose weir will take a message of its own. -/
def Tile.arriving (d : Nat) (m : SendMsg) (x : Tile) : Tile := x.modWeir fun w => { w with localIn := w.localIn ++ [(d, m)] }

theorem State.trapAt_eq (s : State) (n k : Nat) (f : Flt) (pc stay : BitVec 64) : s.trapAt n k f pc stay =
    s.modTile n fun x => (Tile.arriving (s.nc + 6) (s.trapMsg n k f pc) x).modJet k fun j => j.trapped stay := by
  unfold State.trapAt State.reportJet State.sendLocal State.modJet
  rw [State.modTile_modTile]
  rfl

theorem State.trapAt_jet (s : State) (n k : Nat) (f : Flt) (pc stay : BitVec 64) : (s.trapAt n k f pc stay).jet n k = (s.jet n k).trapped stay := by
  rw [State.trapAt_eq, State.jet, State.tile_modTile_same, Tile.jet_modJet_same]
  rfl

/-- Settles O36: a trap sends one record and suspends one jet. -/
theorem trapEntry : Obligations.TrapEntry := by
  unfold Obligations.TrapEntry
  intro s n k f at_ stay hn j t u
  have hu : u = j.trapped stay := s.trapAt_jet n k f at_ stay
  have hother (m : Nat) (hm : m ≠ n) : t.tile m = s.tile m := by
    change (s.trapAt n k f at_ stay).tile m = _
    rw [State.trapAt_eq, State.tile_modTile_ne _ _ hm]
  have htile : t.tile n = (Tile.arriving (s.nc + 6) (s.trapMsg n k f at_) (s.tile n)).modJet k fun j => j.trapped stay := by
    change (s.trapAt n k f at_ stay).tile n = _
    rw [State.trapAt_eq, State.tile_modTile_same]
  refine ⟨by rw [hu]; rfl, by rw [hu]; rfl, by rw [hu]; rfl, by rw [hu]; rfl, by rw [hu]; rfl, by rw [hu]; rfl, by rw [hu]; rfl, by rw [hu]; rfl,
    by rw [hu]; rfl, fun hc => ?_, fun m i hmi => ?_, rfl, fun m => ?_, rfl, hother, s.trapMsg n k f at_, ?_, ?_, ?_, rfl, ?_⟩
  · rw [hu, Jet.trapped, hc]
    rfl
  · by_cases hm : m = n
    · subst hm
      rw [State.jet, htile, Tile.jet_modJet_ne _ _ fun hi => hmi (by rw [hi])]
      rfl
    · rw [State.jet, hother m hm]
      rfl
  · by_cases hm : m = n
    · rw [hm, htile]
      rfl
    · rw [hother m hm]
  · rw [htile]
    rfl
  · exact hTile_handleOf _ hn _ _
  · exact hIndex_handleOf _ _ _ _
  · have hpay : (s.trapMsg n k f at_).payload = faultRecord s n f at_ j.inst (j.id16 k) := rfl
    rw [hpay]
    exact ⟨fun hc => (faultRecord_cause ..).trans (Nat.mod_eq_of_lt hc), fun hs => (faultRecord_sub ..).trans (Nat.mod_eq_of_lt hs), faultRecord_flags ..,
      faultRecord_jet .., faultRecord_inst .., (faultRecord_tile ..).trans (Nat.mod_eq_of_lt hn), faultRecord_time .., faultRecord_info .., faultRecord_pc ..,
      faultRecord_addr .., faultRecord_tcode ..⟩

/-! ### What `csrr` reads (R352) -/

/-- A number of a register, cut to D's width. -/
theorem trunc_natCast (v n : Nat) : trunc (v : Int) n = v % 2 ^ n := by
  rw [trunc]
  norm_cast

theorem State.csrr_completes {h : Hdr} {d : SliceOp} {r : BitVec 12} {s : State} {n v : Nat} (hr : r.toNat = n) (hv : s.csrRead n = v)
    (ha : s.admits (.csrr h d r) = true) : ∃ t, exec (.csrr h d r) s = .next t ∧ Result s t h 8 id 1 (d.put (v % 2 ^ (4 * d.width))) 0 := by
  rw [← trunc_natCast]
  exact State.result_completes (fp := footS d [] [] 1) (v := (s.csrRead r.toNat : Nat)) rfl rfl rfl (by rw [hr, hv]) ha

theorem Jet.id16_toNat (j : Jet) (k : Nat) : (j.id16 k).toNat = j.seq.toNat * 8 + k % 8 := by
  rw [Jet.id16, BitVec.toNat_append, BitVec.toNat_ofNat, ← Nat.shiftLeft_add_eq_or_of_lt (Nat.mod_lt _ (by decide)), Nat.shiftLeft_eq]

/-- Settles O39: each register is read from its place. -/
theorem registerReads : Obligations.RegisterReads := by
  unfold Obligations.RegisterReads
  intro h d r s x reads
  have hreads {n v : Nat} (hv : s.csrRead n = v) : reads n v := fun hr ha => State.csrr_completes hr hv ha
  refine ⟨hreads (s.cur.id16_toNat s.curSlot), hreads rfl, hreads rfl, hreads rfl, hreads rfl, hreads rfl, hreads rfl, hreads rfl, hreads rfl,
    hreads rfl, hreads rfl, hreads rfl, hreads rfl, hreads rfl, hreads rfl, hreads rfl, fun k hk => hreads ?_⟩
  match k, hk with
  | 0, _ | 1, _ | 2, _ | 3, _ | 4, _ | 5, _ | 6, _ | 7, _ => rfl

/-! ### What a masked register keeps (R89, R184, R193, R341, R353) -/

/-- The bits of a number that a mask of two parts lets through. -/
theorem land_split (v n a b : Nat) (ha : a < 2 ^ n) : v &&& (2 ^ n * b + a) = 2 ^ n * (v / 2 ^ n &&& b) + (v % 2 ^ n &&& a) := by
  have hlow : v % 2 ^ n &&& a < 2 ^ n := Nat.lt_of_le_of_lt Nat.and_le_right ha
  refine Nat.eq_of_testBit_eq fun j => ?_
  rw [Nat.testBit_and, Nat.testBit_two_pow_mul_add _ ha, Nat.testBit_two_pow_mul_add _ hlow]
  by_cases hj : j < n
  · simp [hj, Nat.testBit_mod_two_pow]
  · rw [if_neg hj, if_neg hj, Nat.testBit_and, Nat.testBit_div_two_pow, Nat.sub_add_cancel (Nat.le_of_not_lt hj)]

/-- A field that the mask keeps whole, or drops whole. -/
theorem land_keep (v n b : Nat) : v &&& (2 ^ n * b + (2 ^ n - 1)) = 2 ^ n * (v / 2 ^ n &&& b) + v % 2 ^ n := by
  rw [land_split v n (2 ^ n - 1) b (Nat.sub_lt (Nat.two_pow_pos n) Nat.one_pos), Nat.and_two_pow_sub_one_eq_mod, Nat.mod_mod]
theorem land_drop (v n b : Nat) : v &&& (2 ^ n * b) = 2 ^ n * (v / 2 ^ n &&& b) := by
  rw [← Nat.add_zero (2 ^ n * b), land_split v n 0 b (Nat.two_pow_pos n), Nat.and_zero, Nat.add_zero]

theorem savectlOf_eq (v : Nat) : savectlOf v = BitVec.ofNat 64 (fld v 0 10 + fld v 14 21 * 2 ^ 14) := by
  have hmask : 0x7FFFFC3FF = (2 ^ 10 * (2 ^ 4 * (2 ^ 21 - 1)) + (2 ^ 10 - 1)) := by norm_num
  rw [savectlOf, ← BitVec.ofNat_and, hmask, land_keep, land_drop, Nat.and_two_pow_sub_one_eq_mod, Nat.div_div_eq_div_mul]
  congr 1
  simp only [fld, Nat.pow_zero, Nat.div_one, ← Nat.pow_add]
  omega

theorem dqspillOf_eq (v : Nat) : dqspillOf v = BitVec.ofNat 64 (fld v 5 27 * 2 ^ 5) := by
  have hmask : 0xFFFFFFE0 = 2 ^ 5 * (2 ^ 27 - 1) := by norm_num
  rw [dqspillOf, ← BitVec.ofNat_and, hmask, land_drop, Nat.and_two_pow_sub_one_eq_mod, fld, Nat.mul_comm]

theorem curlayerOf_eq (v : Nat) : curlayerOf v = BitVec.ofNat 64 (fld v 0 6 + fld v 8 56 * 2 ^ 8) := by
  have hmask : 0xFFFFFFFFFFFFFF3F = (2 ^ 6 * (2 ^ 2 * (2 ^ 56 - 1)) + (2 ^ 6 - 1)) := by norm_num
  rw [curlayerOf, ← BitVec.ofNat_and, hmask, land_keep, land_drop, Nat.and_two_pow_sub_one_eq_mod, Nat.div_div_eq_div_mul]
  congr 1
  simp only [fld, Nat.pow_zero, Nat.div_one, ← Nat.pow_add]
  omega

/-- One byte of `lqmap`: bit 6 reads as zero. -/
theorem land_byte (v b : Nat) : v &&& (2 ^ 8 * b + 0xBF) = 2 ^ 8 * (v / 2 ^ 8 &&& b) + (fld v 0 6 + fld v 7 1 * 2 ^ 7) := by
  have hmask : 0xBF = 2 ^ 6 * (2 ^ 1 * (2 ^ 1 - 1)) + (2 ^ 6 - 1) := by decide
  rw [land_split v 8 0xBF b (by decide), hmask, land_keep, land_drop, Nat.and_two_pow_sub_one_eq_mod]
  simp only [fld]
  omega

theorem foldl_four (f : Nat → Nat) (n : Nat) : (List.range 4).foldl (fun m q => m + f q * 2 ^ (n * q)) 0 =
    0 + f 0 * 2 ^ (n * 0) + f 1 * 2 ^ (n * 1) + f 2 * 2 ^ (n * 2) + f 3 * 2 ^ (n * 3) := by
  rw [show List.range 4 = [0, 1, 2, 3] from rfl, List.foldl_cons, List.foldl_cons, List.foldl_cons, List.foldl_cons, List.foldl_nil]

theorem lqmapOf_eq (v : Nat) : lqmapOf v =
    BitVec.ofNat 32 ((List.range 4).foldl (fun m q => m + (fld v (8 * q) 6 + fld v (8 * q + 7) 1 * 2 ^ 7) * 2 ^ (8 * q)) 0) := by
  have hmask : 0xBFBFBFBF = 2 ^ 8 * (2 ^ 8 * (2 ^ 8 * (2 ^ 8 * 0 + 0xBF) + 0xBF) + 0xBF) + 0xBF := by decide
  rw [lqmapOf, ← BitVec.ofNat_and, foldl_four fun q => fld v (8 * q) 6 + fld v (8 * q + 7) 1 * 2 ^ 7, hmask, land_byte, land_byte, land_byte, land_byte,
    Nat.and_zero]
  simp only [fld, Nat.div_div_eq_div_mul, ← Nat.pow_add, Nat.reduceAdd, Nat.reduceMul, Nat.zero_add]
  congr 1
  ring

/-! ### What `csrw` writes (R352) -/

/-- Where its checks pass, a `csrw` has its effect on the issuing tile, and the jet goes on. -/
theorem State.csrw_completes {i : Instr} {s : State} {h : Hdr} {a : SliceOp} {f : State → Nat → State} {g : Tile → Tile}
    (hf : footOf i s = footRead a) (he : exec i s = s.csrw h a f) (hg : ∀ x, (g x).jets = x.jets) (hs : f s (a.get s.cur.frame) = s.modHere g)
    (ha : s.admits i = true) : ∃ t, exec i s = .next t ∧ Issued s t h 8 g [] [] := by
  refine State.completes (k := fun s => (f s (a.get s.cur.frame)).advance h 8) (by rw [he, hf]; rfl) ?_ ha
  rw [hs]
  exact s.advance_issued h 8 hg

theorem State.csrw_exec {s : State} {h : Hdr} {a : SliceOp} {r : BitVec 12} (ha : s.admits (.csrw h a r) = true) :
    exec (.csrw h a r) s = .next ((s.csrWrite r.toNat (a.get s.cur.frame)).advance h 8) :=
  State.guarded_of_admits (i := .csrw h a r) (fun s => (s.csrWrite r.toNat (a.get s.cur.frame)).advance h 8) ha

theorem State.csrw_sets {s : State} {h : Hdr} {a : SliceOp} {r : BitVec 12} {n : Nat} {g : Tile → Tile} (hg : ∀ x, (g x).jets = x.jets)
    (hs : s.csrWrite n (a.get s.cur.frame) = s.modHere g) (hr : r.toNat = n) (ha : s.admits (.csrw h a r) = true) :
    ∃ t, exec (.csrw h a r) s = .next t ∧ Issued s t h 8 g [] [] := by
  subst hr
  refine ⟨_, State.csrw_exec ha, ?_⟩
  rw [hs]
  exact s.advance_issued h 8 hg

/-- An instruction that has changed its own jet before it goes on. -/
theorem State.modCur_advance_frame (s : State) (h : Hdr) (len : Nat) (f : Jet → Jet) :
    JetFrame s ((s.modCur f).advance h len) id ∧ ((s.modCur f).advance h len).cur = (f s.cur).behind h len s.tc [] := by
  obtain ⟨⟨hrest, hothers, htile, hslots⟩, hjet, -⟩ := (s.modCur f).advance_issued_id h len
  have hhere : (s.modCur f).here = s.here.modJet s.curSlot f := s.tile_modTile_same s.curTile _
  have hcur : (s.modCur f).cur = f s.cur := by
    rw [State.cur_eq, hhere]
    exact Tile.jet_modJet_same ..
  refine ⟨⟨hrest, fun n hn => (hothers n hn).trans (State.tile_modTile_ne _ _ hn), ?_, fun k hk => (hslots k hk).trans ?_⟩, ?_⟩
  · rw [htile, hhere]
    rfl
  · rw [hhere, Tile.jet_modJet_ne _ _ hk]
  · rw [hjet, hcur]
    rfl

/-! A `csrw` that names no register that can be written (R42). -/

theorem lowest_append {l m : Chk} (hl : lowest l = none) : lowest (l ++ m) = lowest m := by
  induction l with
  | nil => rfl
  | cons e l ih =>
    obtain ⟨b, c⟩ := e
    cases b with
    | false => exact ih hl
    | true => cases hl

/-- What the decoder makes of a word of the shortest format. -/
theorem decode_encA {op : Nat} {h : Hdr} {d a b : Nat} {r : Row} {i : Instr} {c : Nat} (hr : opRow op = some r) (hlen : r.len = 0)
    (hread : r.read (encA op h d a b) = i) (hbad : lowest (r.bad (encA op h d a b)) = none) (hc : lowest i.checks = some c) :
    decode (encA op h d a b) = .error c := by
  obtain ⟨hop, hlen'⟩ := head_packF op 0 h [(16, d), (16, a), (16, b)] (lt_of_opRow hr) (by decide)
  have hfields : encA op h d a b = packF (hdrF op 0 h ++ [(16, d), (16, a), (16, b)]) := rfl
  rw [← hfields] at hop hlen'
  have hchecks : lowest (r.bad (encA op h d a b) ++ i.checks) = some c := by rw [lowest_append hbad, hc]
  simp only [decode, hop, hr, hlen', hlen, if_true, hread, hchecks]

theorem csrw_decodes {h : Hdr} {a : SliceOp} {r : BitVec 12} {c : Nat} (ha : lowest a.ck = none) (h8 : r.toNat ≠ 8) (h14 : r.toNat ≠ 14) (h15 : r.toNat ≠ 15)
    (hc : lowest [(decide (0x17 < r.toNat), 4), (csrReadOnly r.toNat, 6), (r == 8 || r == 14 || r == 15, 4)] = some c) :
    decode (encode (.csrw h a r)) = .error c := by
  have hlegal : a.Legal := SliceOp.legal_of_ck ((lowest_eq_none_iff _).mp ha)
  have hlt : r.toNat < 4096 := r.isLt
  refine decode_encA (r := rCsrw) (i := .csrw h a r) rfl rfl ?_ ?_ ?_
  · simp [rCsrw, oA, hlegal.dec_enc, toNat_mod_of_le, h8, h14, h15]
  · refine (lowest_eq_none_iff _).mpr ?_
    change Chk.Passes _
    simp [rCsrw, toNat_mod_of_le, hlt]
  · exact (lowest_append ha).trans hc

theorem csrw_readOnly {h : Hdr} {a : SliceOp} {r : BitVec 12} (ha : lowest a.ck = none)
    (hr : r.toNat ∈ [0, 1, 2, 10, 13, 16, 17, 18, 19, 20, 21, 22, 23]) : decode (encode (.csrw h a r)) = .error 6 := by
  have hlist : ∀ n ∈ [0, 1, 2, 10, 13, 16, 17, 18, 19, 20, 21, 22, 23], n ≤ 23 ∧ n ≠ 8 ∧ n ≠ 14 ∧ n ≠ 15 ∧ csrReadOnly n = true := by decide
  obtain ⟨hle, h8, h14, h15, hro⟩ := hlist _ hr
  refine csrw_decodes ha h8 h14 h15 ?_
  have hown : (r == 8 || r == 14 || r == 15) = false := by
    simp only [Bool.or_eq_false_iff, beq_eq_false_iff_ne, ne_eq]
    exact ⟨⟨fun e => h8 (by rw [e]; rfl), fun e => h14 (by rw [e]; rfl)⟩, fun e => h15 (by rw [e]; rfl)⟩
  rw [hro, hown, decide_eq_false (by omega)]
  rfl

theorem csrw_noRegister {h : Hdr} {a : SliceOp} {r : BitVec 12} (ha : lowest a.ck = none) (hr : 24 ≤ r.toNat) :
    decode (encode (.csrw h a r)) = .error 4 := by
  refine csrw_decodes ha (by omega) (by omega) (by omega) ?_
  rw [decide_eq_true (by omega)]
  cases csrReadOnly r.toNat <;> cases (r == 8 || r == 14 || r == 15) <;> rfl

/-! ### The layer of a die at the start of a tile cycle (R341) -/

/-- No die's `curlayer` differs. -/
def Layered (s t : State) : Prop := ∀ d, (t.die d).curlayer = (s.die d).curlayer

theorem Layered.refl (s : State) : Layered s s := fun _ => rfl
theorem Layered.trans {s t u : State} (h : Layered s t) (k : Layered t u) : Layered s u := fun d => (k d).trans (h d)
theorem Layered.of_dies {s t : State} (h : t.dies = s.dies) : Layered s t := fun d => by rw [State.die, State.die, h]
theorem Layered.of_reached {n : Nat} {s t : State} (h : Reached n s t) : Layered s t := fun d => by rw [h.caches d]
theorem Layered.foldl {α : Type} {f : State → α → State} (hf : ∀ s a, Layered s (f s a)) (l : List α) (s : State) : Layered s (l.foldl f s) := by
  induction l generalizing s with
  | nil => exact .refl s
  | cons a l ih => exact (hf s a).trans (ih _)

theorem Layered.ite {c : Prop} [Decidable c] {s a b : State} (ha : Layered s a) (hb : Layered s b) : Layered s (if c then a else b) := by
  split
  · exact ha
  · exact hb

theorem Layered.modTile (s : State) (n : Nat) (f : Tile → Tile) : Layered s (s.modTile n f) := .of_dies rfl

theorem State.asks_stops (s : State) (t va n : Nat) : ∃ l, s.asks t va n = { s with stops := l } := by
  unfold State.asks
  split
  · exact ⟨s.stops, rfl⟩
  · next l _ =>
    clear * -
    induction l generalizing s with
    | nil => exact ⟨s.stops, rfl⟩
    | cons p l ih =>
      rw [List.foldl_cons]
      split
      · split
        · exact ih s
        · obtain ⟨k, hk⟩ := ih _
          exact ⟨k, hk⟩
      · obtain ⟨k, hk⟩ := ih _
        exact ⟨k, hk⟩

theorem Layered.asks (s : State) (t va n : Nat) : Layered s (s.asks t va n) := by
  obtain ⟨l, hl⟩ := s.asks_stops t va n
  exact .of_dies (by rw [hl])

theorem Layered.startRefill (s : State) (t b : Nat) : Layered s (s.startRefill t b) := by
  unfold State.startRefill
  split
  · exact .refl s
  · split
    · exact .refl s
    · exact (Layered.asks s t _ 64).trans (.of_dies rfl)

theorem Layered.startFetch (s : State) (t line : Nat) : Layered s (s.startFetch t line) := by
  unfold State.startFetch
  split
  · exact (Layered.of_reached (.walkBegins t (128 * line) s)).trans (.of_dies rfl)
  · exact (Layered.of_reached (.walkBegins t (128 * line) s)).trans (.of_dies rfl)

theorem Layered.accFault (s : State) (t id : Nat) (f : Flt) : Layered s (s.accFault t id f) := by
  unfold State.accFault
  split
  · exact .refl s
  · split
    · exact .of_dies rfl
    · split
      · split <;> exact .of_dies rfl
      · split <;> exact .of_dies rfl

theorem Layered.beginAcc (s : State) (t : Nat) (a : Access) : Layered s (s.beginAcc t a) := by
  unfold State.beginAcc
  split
  · exact .accFault s t a.id _
  · exact (Layered.modTile s t _).trans (.of_reached (.cacheFor t _ _ _ _))
  · exact ((Layered.modTile s t _).trans (.of_reached (.walksBegin t _ _ _ _))).trans (.of_dies rfl)

theorem Layered.gatherBeat (s : State) (t : Nat) (a : Access) : Layered s (s.gatherBeat t a) := by
  unfold State.gatherBeat
  split
  · exact .refl s
  · split <;> exact .of_dies rfl

theorem Layered.unitBack (s : State) (t id v c : Nat) : Layered s (s.unitBack t id v c) := by
  unfold State.unitBack
  split
  · exact .of_dies rfl
  · refine .of_dies ?_
    dsimp only
    cases (s.tile t).pieceOf (id % 2 ^ 66) <;> rfl
  · exact .of_dies rfl
  · exact .of_dies rfl
  · exact .of_dies rfl
  · exact .refl s

theorem Layered.startAddw (s : State) (t : Nat) : Layered s (s.startAddw t) := by
  refine Layered.foldl (fun s o => ?_) _ s
  dsimp only
  split
  · exact .refl s
  · exact .of_dies rfl

theorem Layered.answer (s : State) (by_ : Endpoint) (o dev t id ix d nb v flags : Nat) (atomic : Bool) :
    Layered s (s.answer by_ o dev t id ix d nb v flags atomic) := by
  unfold State.answer
  split
  · exact .of_dies rfl
  · split <;> exact .of_dies rfl

theorem Layered.markPerformed (s : State) (n id ix : Nat) : Layered s (s.markPerformed n id ix) := .of_reached (.markPerformed n id ix s)

theorem Layered.poolPerform (s : State) (o : Nat) (q : PoolReq) : Layered s (s.poolPerform o q) := by
  have hback (s : State) (own : Bool) (v fl x d e : Nat) (atomic : Bool) : Layered s (if own then
      (s.modAcc q.tile q.acc fun a => { a with flags := a.flags ||| BitVec.ofNat 5 fl }).returns q.tile q.acc q.part (d + x) v
      else s.answer .tile o q.dev q.tile q.acc q.part (e + 2 * x) q.nb v fl atomic) := by
    split
    · exact .of_dies rfl
    · exact Layered.answer _ _ _ _ _ _ _ _ _ _ _ _
  have hperformed (s : State) (here : Bool) : Layered s (if here then s.markPerformed q.tile q.acc q.part else s) := by
    split
    · exact Layered.markPerformed _ _ _ _
    · exact .refl s
  unfold State.poolPerform
  dsimp only
  split
  · split
    · exact .of_dies rfl
    · refine Layered.trans ?_ (hback _ _ _ _ _ _ _ _)
      refine Layered.trans ?_ (hperformed _ _)
      split <;> exact .of_dies rfl
  · split
    · exact .of_dies rfl
    · split
      · exact (Layered.modTile s o _).trans (Layered.unitBack _ _ _ _ _)
      · split <;> exact .of_dies rfl
  · exact .of_dies rfl
  · exact (Layered.of_dies (t := (s.take.2.modTile o _)) rfl).trans (Layered.startAddw _ _)
  · have hdone (bad here : Bool) (f : Access → Access) (g : Tile → Tile) :
        Layered s (if bad then (if here then s.modAcc q.tile q.acc f else s) else s.modTile o g) :=
      .ite (.ite (.of_dies rfl) (.refl s)) (.of_dies rfl)
    refine .ite ((hdone _ _ _ _).trans (.of_dies rfl)) (.ite ((hdone _ _ _ _).trans (.of_dies rfl)) ?_)
    exact ((hdone _ _ _ _).trans (hperformed _ _)).trans (hback _ _ _ _ _ _ _ _)

theorem Layered.landHeld (s : State) (t n : Nat) : Layered s (s.landHeld t n) := by
  induction n generalizing s with
  | zero => exact .refl s
  | succ n ih =>
    rw [State.landHeld]
    split
    · exact .refl s
    · exact ((Layered.modTile s t _).trans (Layered.poolPerform _ _ _)).trans (ih _)

theorem Layered.tcAccess (s : State) (t : Nat) : Layered s (s.tcAccess t) := by
  unfold State.tcAccess
  refine ((((Layered.landHeld s t 8).trans (Layered.foldl (fun s a => ?_) _ _)).trans (Layered.foldl (fun s a => ?_) _ _)).trans (.modTile _ _ _)).trans
    (.of_reached (.pump t _))
  · exact .ite (.beginAcc s t a) (.refl s)
  · exact .ite (.gatherBeat s t a) (.refl s)

theorem Layered.tickTile (s : State) (t : Nat) : Layered s (s.tickTile t) :=
  (((Layered.modTile s t _).trans (.tcAccess _ t)).trans (.foldl (fun s b => .startRefill s t b) _ _)).trans (.foldl (fun s l => .startFetch s t l) _ _)

/-- The layer that a `csrw` of this tile cycle has set is the die's from the next on. -/
def Die.nextLayer (x : Die) : Die := { x with curlayer := x.curNext.getD x.curlayer, curNext := none }

theorem State.nextLayers_curlayer (s : State) {d : Nat} (hd : d < 4) :
    (((List.range 4).foldl (fun (s : State) d => s.modDie d Die.nextLayer) s).die d).curlayer = (s.die d).curNext.getD (s.die d).curlayer := by
  have hsame (s : State) (n : Nat) : (s.modDie n Die.nextLayer).die n = (s.die n).nextLayer := Tbl.get_set_same ..
  have hne (s : State) {n m : Nat} (h : m ≠ n) : (s.modDie n Die.nextLayer).die m = s.die m := Tbl.get_set_ne _ _ _ h
  rw [show List.range 4 = [0, 1, 2, 3] from rfl, List.foldl_cons, List.foldl_cons, List.foldl_cons, List.foldl_cons, List.foldl_nil]
  match d, hd with
  | 0, _ => rw [hne _ (by decide), hne _ (by decide), hne _ (by decide), hsame]; rfl
  | 1, _ => rw [hne _ (by decide), hne _ (by decide), hsame, hne _ (by decide)]; rfl
  | 2, _ => rw [hne _ (by decide), hsame, hne _ (by decide), hne _ (by decide)]; rfl
  | 3, _ => rw [hsame, hne _ (by decide), hne _ (by decide), hne _ (by decide)]; rfl

theorem State.tick_curlayer {s : State} (hpow : s.dev.powered = true) (hnc : s.nc % 2 = 1) {d : Nat} (hd : d < 4) :
    (s.tick.die d).curlayer = (s.die d).curNext.getD (s.die d).curlayer := by
  have hgo : ¬ ((!s.dev.powered || decide ((s.nc + 1) % 2 = 1)) = true) := by
    simp [hpow]
    omega
  unfold State.tick
  dsimp only
  rw [if_neg (by simpa using hgo)]
  exact (Layered.foldl (fun s t => Layered.tickTile s t) _ _ d).trans (State.nextLayers_curlayer _ hd)

/-! ### Registers that have a row of their own -/

theorem State.modTile_congr {s : State} {n : Nat} {f g : Tile → Tile} (h : f (s.tile n) = g (s.tile n)) : s.modTile n f = s.modTile n g := by
  rw [State.modTile, State.modTile, h]

theorem State.savectlWrite_completes {s : State} {h : Hdr} {a : SliceOp} {g : Tile → Tile} (hg : ∀ x, (g x).jets = x.jets)
    (hs : { s.here with savectlNext := some (savectlOf (a.get s.cur.frame)) }.applySavectl = g s.here) (ha : s.admits (.savectlWrite h a) = true) :
    ∃ t, exec (.savectlWrite h a) s = .next t ∧ Issued s t h 8 g [] [] := by
  refine State.csrw_completes (f := fun s v => s.modHere fun x => { x with savectlNext := some (savectlOf v) }.applySavectl) rfl rfl hg ?_ ha
  exact State.modTile_congr hs

theorem State.dqspillWrite_completes {s : State} {h : Hdr} {a : SliceOp} {g : Tile → Tile} (hg : ∀ x, (g x).jets = x.jets)
    (hs : { s.here with dqspillNext := some (dqspillOf (a.get s.cur.frame)) }.applyDqspill = g s.here) (ha : s.admits (.dqspillWrite h a) = true) :
    ∃ t, exec (.dqspillWrite h a) s = .next t ∧ Issued s t h 8 g [] [] := by
  refine State.csrw_completes (f := fun s v => s.modHere fun x => { x with dqspillNext := some (dqspillOf v) }.applyDqspill) rfl rfl hg ?_ ha
  exact State.modTile_congr hs

/-- The tile whose ring of basin `b` may be refilled again (R164). -/
def Tile.ringGoes (b : Nat) (x : Tile) : Tile := x.modWeir fun w => w.modBasin b fun k => { k with ringStopped := false }

/-- The tile whose ring of basin `b` is being refilled. -/
def Tile.refills (b : Nat) (x : Tile) : Tile := x.modWeir fun w => w.modBasin b fun k => { k with refilling := true }

theorem State.startRefill_cases (s : State) (t b : Nat) : s.startRefill t b = s ∨
    ∃ l fr d f, s.startRefill t b = (({ s with stops := l, fresh := fr } : State).modTile t (Tile.refills b)).after d .ringRefillReturn f := by
  unfold State.startRefill
  split
  · exact .inl rfl
  · next k _ =>
    split
    · exact .inl rfl
    · obtain ⟨l, hl⟩ := s.asks_stops t (k.ringBase.toNat + 64 * k.ringHead) 64
      refine .inr ⟨l, s.fresh + 1, s.agentCost t (k.ringBase.toNat + 64 * k.ringHead) + Config.freeDelay s.fresh, ⟨t, b, (s.tile t).weir.gen b, 0, 0⟩, ?_⟩
      dsimp only
      rw [hl]
      rfl

/-- A refill that begins leaves what the basin holds, and everything else of the issuing jet. -/
theorem State.startRefill_here (s : State) (b : Nat) : let t := s.startRefill s.curTile b
    (t.here = s.here ∨ t.here = s.here.refills b) ∧ t.mem = s.mem ∧ t.tc = s.tc ∧ t.curTile = s.curTile ∧ t.curSlot = s.curSlot := by
  intro t
  rcases s.startRefill_cases s.curTile b with hsame | ⟨l, fr, d, f, hnew⟩
  · rw [show t = s from hsame]
    exact ⟨.inl rfl, rfl, rfl, rfl, rfl⟩
  · rw [show t = _ from hnew]
    exact ⟨.inr (State.tile_modTile_same { s with stops := l, fresh := fr } s.curTile _), rfl, rfl, rfl, rfl⟩

theorem Tile.refills_jets (x : Tile) (b : Nat) : (x.refills b).jets = x.jets := rfl

theorem Tile.basin_modBasin (w : Weir) {b : Nat} {k : Basin} (f : Basin → Basin) (h : w.basin b = some k) : (w.modBasin b f).basin b = some (f k) := by
  rw [Weir.modBasin, h]
  exact Tbl.get_set_same ..

/-- The state whose ring refills go on. -/
def State.ringRetried (s : State) (b : Nat) : State := (s.modHere (Tile.ringGoes b)).startRefill s.curTile b

theorem State.ringRetried_basin {s : State} {b : Nat} {k : Basin} (hb : s.here.weir.basin b = some k) :
    ∃ k', (s.ringRetried b).here.weir.basin b = some k' ∧ k'.ringStopped = false ∧ k'.slots = k.slots ∧ k'.ring = k.ring := by
  have hgo : (s.modHere (Tile.ringGoes b)).here.weir.basin b = some { k with ringStopped := false } := by
    rw [show (s.modHere (Tile.ringGoes b)).here = s.here.ringGoes b from State.tile_modTile_same s s.curTile _]
    exact Tile.basin_modBasin _ _ hb
  obtain ⟨hhere, -⟩ := (s.modHere (Tile.ringGoes b)).startRefill_here b
  rcases hhere with hsame | hnew
  · exact ⟨{ k with ringStopped := false }, (congrArg (·.weir.basin b) hsame).trans hgo, rfl, rfl, rfl⟩
  · exact ⟨{ k with ringStopped := false, refilling := true }, (congrArg (·.weir.basin b) hnew).trans (Tile.basin_modBasin _ _ hgo), rfl, rfl, rfl⟩

theorem State.ringRetried_cur (s : State) (b : Nat) : (s.ringRetried b).mem = s.mem ∧ (s.ringRetried b).tc = s.tc ∧ (s.ringRetried b).cur = s.cur := by
  obtain ⟨hhere, hmem, htc, -, hslot⟩ := (s.modHere (Tile.ringGoes b)).startRefill_here b
  refine ⟨hmem, htc, ?_⟩
  have hjets : (s.ringRetried b).here.jets = s.here.jets := by
    have hgo : (s.modHere (Tile.ringGoes b)).here.jets = s.here.jets := by
      rw [show (s.modHere (Tile.ringGoes b)).here = s.here.ringGoes b from State.tile_modTile_same s s.curTile _]
      rfl
    rcases hhere with hsame | hnew
    · exact (congrArg (·.jets) hsame).trans hgo
    · exact (congrArg (·.jets) hnew).trans hgo
  rw [State.cur_eq, State.cur_eq, Tile.jet, Tile.jet, hjets, show (s.ringRetried b).curSlot = s.curSlot from hslot]

theorem State.ringrty_exec {s : State} {h : Hdr} {a : SliceOp} (ha : s.admits (.ringrtyWrite h a) = true) : exec (.ringrtyWrite h a) s =
    .next ((if a.get s.cur.frame < 2 ^ 32 ∧ s.live s.curTile (BitVec.ofNat 32 (a.get s.cur.frame)) = true
      then s.ringRetried (hIndex (BitVec.ofNat 32 (a.get s.cur.frame))) else s).advance h 8) :=
  State.guarded_of_admits (i := .ringrtyWrite h a) (fun s => (if a.get s.cur.frame < 2 ^ 32 ∧ s.live s.curTile (BitVec.ofNat 32 (a.get s.cur.frame)) = true
      then s.ringRetried (hIndex (BitVec.ofNat 32 (a.get s.cur.frame))) else s).advance h 8) ha

/-- Settles O40: each register's write, by its own fields. -/
theorem registerWrites : Obligations.RegisterWrites := by
  unfold Obligations.RegisterWrites
  intro h a r s v hd sets does save spill queues
  refine ⟨fun hr ha => ?_, fun hr ha => State.csrw_sets (fun _ => rfl) rfl hr ha, fun hr ha => State.csrw_sets (fun _ => rfl) rfl hr ha,
    fun hr ha => State.csrw_sets (fun _ => rfl) rfl hr ha, fun hr ha => State.csrw_sets (fun _ => rfl) rfl hr ha,
    fun hr ha => State.csrw_sets (fun _ => rfl) ?_ hr ha, fun hr ha => State.csrw_sets (fun _ => rfl) rfl hr ha, fun hr ha => ?_,
    fun hpow hnc d hd => State.tick_curlayer hpow hnc hd, csrw_readOnly, csrw_noRegister, fun hused => ?_, fun hfree => ?_, fun hfull => ?_, fun hempty => ?_,
    fun hdead ha => ?_, fun b hv hlive hb ha => ?_⟩
  · obtain ⟨hframe, hcur⟩ := s.modCur_advance_frame h 8 fun j => { j with fpflags := BitVec.ofNat 5 v }
    refine ⟨_, State.csrw_exec ha, ?_⟩
    rw [hr]
    exact ⟨hframe, hcur, rfl⟩
  · rw [show queues = lqmapOf v from (lqmapOf_eq v).symm]
    rfl
  · refine ⟨_, s.modDie (dieOf s.curTile) fun d => { d with curNext := some (curlayerOf v) }, State.csrw_exec ha, ?_, ?_⟩
    · rw [hr]
      exact State.advance_issued_id _ h 8
    · rw [curlayerOf_eq]
  · refine State.savectlWrite_completes (fun _ => rfl) ?_
    obtain ⟨e, he, hne⟩ := hused
    have hall : ¬ (s.here.saves.all fun e => e.2.isNone) = true := fun hall => hne (by simpa using List.all_eq_true.mp hall e he)
    rw [savectlOf_eq, Tile.applySavectl]
    exact if_neg hall
  · refine State.savectlWrite_completes (fun _ => rfl) ?_
    have hall : (s.here.saves.all fun e => e.2.isNone) = true := List.all_eq_true.mpr fun e he => by rw [hfree e he]; rfl
    rw [savectlOf_eq, Tile.applySavectl]
    exact if_pos hall
  · refine State.dqspillWrite_completes (fun _ => rfl) ?_
    rw [dqspillOf_eq, Tile.applyDqspill]
    exact if_neg (by simpa using hfull)
  · refine State.dqspillWrite_completes (fun _ => rfl) ?_
    rw [dqspillOf_eq, Tile.applyDqspill]
    exact if_pos (by simpa using hempty)
  · have hno : ¬ (v < 2 ^ 32 ∧ s.live s.curTile hd = true) := fun ⟨hv, hl⟩ => hdead.elim (fun h => absurd hv (by omega)) fun h => by simp [h] at hl
    refine ⟨_, State.ringrty_exec ha, ?_⟩
    rw [if_neg hno]
    exact s.advance_issued_id h 8
  · obtain ⟨k, hk, hstop, hslots, hring⟩ := State.ringRetried_basin hb
    obtain ⟨hmem, htc, hcur⟩ := s.ringRetried_cur (hIndex hd)
    obtain ⟨⟨hrest, -, htile, -⟩, hjet, -⟩ := (s.ringRetried (hIndex hd)).advance_issued_id h 8
    refine ⟨_, k, State.ringrty_exec ha, ?_⟩
    rw [if_pos (show v < 2 ^ 32 ∧ s.live s.curTile hd = true from ⟨hv, hlive⟩)]
    refine ⟨(congrArg (·.weir.basin (hIndex hd)) htile).trans hk, hstop, hslots, hring, ?_, by rw [hjet, hcur, htc]⟩
    rw [hrest]
    exact hmem

end Sys2Proof.Machine
end

section
/-!
SUPPORT and PROOFS. `trap`, `resume` and `kill` (R350, R351, R388): O38.
-/

namespace Sys2Proof.Machine

/-! ### Changes that leave jets, pools and the save area alone -/

/-- No jet, pool or saved context and no byte of memory differs, nor whose turn it is and when. -/
structure CoreKept (s t : State) : Prop where
  mem : t.mem = s.mem
  pools : ∀ n, (t.tile n).pool = (s.tile n).pool
  jets : ∀ n, (t.tile n).jets = (s.tile n).jets
  saves : ∀ n, (t.tile n).saves = (s.tile n).saves
  time : t.nc = s.nc ∧ t.turn = s.turn ∧ t.curTile = s.curTile ∧ t.curSlot = s.curSlot

theorem CoreKept.refl (s : State) : CoreKept s s := ⟨rfl, fun _ => rfl, fun _ => rfl, fun _ => rfl, rfl, rfl, rfl, rfl⟩

theorem CoreKept.trans {s t u : State} (h : CoreKept s t) (k : CoreKept t u) : CoreKept s u := by
  obtain ⟨hnc, hturn, htile, hslot⟩ := h.time
  obtain ⟨knc, kturn, ktile, kslot⟩ := k.time
  exact ⟨k.mem.trans h.mem, fun n => (k.pools n).trans (h.pools n), fun n => (k.jets n).trans (h.jets n), fun n => (k.saves n).trans (h.saves n),
    knc.trans hnc, kturn.trans hturn, ktile.trans htile, kslot.trans hslot⟩

theorem CoreKept.kept {s t : State} (h : CoreKept s t) : Kept s t :=
  ⟨h.mem, h.pools, fun n k => by rw [State.jet, State.jet, Tile.jet, Tile.jet, h.jets n], h.time⟩

/-- A tile whose jets, pool and save area are as before. -/
def Tile.SameCore (x y : Tile) : Prop := y.pool = x.pool ∧ y.jets = x.jets ∧ y.saves = x.saves

theorem CoreKept.modTile (s : State) (n : Nat) {f : Tile → Tile} (hf : ∀ x : Tile, x.SameCore (f x)) : CoreKept s (s.modTile n f) := by
  have htile (m : Nat) : (s.tile m).SameCore ((s.modTile n f).tile m) := by
    by_cases hm : m = n
    · rw [hm, State.tile_modTile_same]
      exact hf _
    · rw [State.tile_modTile_ne _ _ hm]
      exact ⟨rfl, rfl, rfl⟩
  exact ⟨rfl, fun m => (htile m).1, fun m => (htile m).2.1, fun m => (htile m).2.2, rfl, rfl, rfl, rfl⟩

theorem CoreKept.foldl {α : Type} {f : State → α → State} (hf : ∀ s a, CoreKept s (f s a)) (l : List α) (s : State) : CoreKept s (l.foldl f s) := by
  induction l generalizing s with
  | nil => exact .refl s
  | cons a l ih => exact (hf s a).trans (ih _)

theorem CoreKept.ite {c : Prop} [Decidable c] {s a b : State} (ha : CoreKept s a) (hb : CoreKept s b) : CoreKept s (if c then a else b) := by
  split
  · exact ha
  · exact hb

/-- Stops, chains and the agent hold no jet. -/
theorem CoreKept.of_tiles {s t : State} (hmem : t.mem = s.mem) (htiles : t.tiles = s.tiles)
    (htime : t.nc = s.nc ∧ t.turn = s.turn ∧ t.curTile = s.curTile ∧ t.curSlot = s.curSlot) : CoreKept s t := by
  have htile (n : Nat) : t.tile n = s.tile n := by rw [State.tile, State.tile, htiles]
  exact ⟨hmem, fun n => by rw [htile], fun n => by rw [htile], fun n => by rw [htile], htime⟩

/-! ### The end of a piece, of a channel, of a gang's slot -/

theorem CoreKept.sendWork (s : State) (t dst : Nat) (m : WorkMsg) : CoreKept s (s.sendWork t dst m) :=
  .ite (.modTile s t fun _ => ⟨rfl, rfl, rfl⟩) (.of_tiles rfl rfl ⟨rfl, rfl, rfl, rfl⟩)

theorem CoreKept.pieceEnds (s : State) (t ttile tindex : Nat) : CoreKept s (s.pieceEnds t ttile tindex) :=
  .ite (.modTile s t fun _ => ⟨rfl, rfl, rfl⟩) (.sendWork ..)

theorem CoreKept.rangeEnds (s : State) (t : Nat) (j : Jet) (release : Bool) : CoreKept s (s.rangeEnds t j release) :=
  .ite (.ite (.modTile s t fun _ => ⟨rfl, rfl, rfl⟩) (.pieceEnds ..)) (.refl s)

theorem CoreKept.modGuards (s : State) (t ch : Nat) {f : Tile → Tile} (hf : ∀ x : Tile, x.SameCore (f x)) : CoreKept s (s.modGuards t ch f) :=
  .foldl (f := fun (s : State) (e : Nat × Tile) => s.modTile e.1 f) (fun s e => .modTile s e.1 hf) _ s

theorem CoreKept.dropGuard (s : State) (t ch : Nat) : CoreKept s (s.dropGuard t ch) := .modGuards s t ch fun _ => ⟨rfl, rfl, rfl⟩

theorem CoreKept.setChan (s : State) (t ch : Nat) (st : ChanState) : CoreKept s (s.setChan t ch st) :=
  (CoreKept.modTile s t (f := fun x => x.modChan ch fun c => { c with state := st }) fun _ => ⟨rfl, rfl, rfl⟩).trans (.modGuards _ t ch fun _ => ⟨rfl, rfl, rfl⟩)

theorem CoreKept.gatherOver (s : State) (c : Channel) (st : Nat) : CoreKept s (s.gatherOver c st) := by
  unfold State.gatherOver
  split
  · exact .of_tiles rfl rfl ⟨rfl, rfl, rfl, rfl⟩
  · exact .refl s

theorem CoreKept.doneMessage (s : State) (t ch st wm count : Nat) (done : BitVec 32) (inst : BitVec 16) :
    CoreKept s (s.doneMessage t ch st wm count done inst) :=
  CoreKept.ite (c := done = 0) (.refl s) (.modTile s t fun _ => ⟨rfl, rfl, rfl⟩)

theorem CoreKept.retireChan (s : State) (t ch st : Nat) : CoreKept s (s.retireChan t ch st) := by
  unfold State.retireChan
  refine CoreKept.trans (.gatherOver s ((s.tile t).chan ch) st) ?_
  refine CoreKept.trans (CoreKept.ite (c := st = 0) ((CoreKept.dropGuard _ t ch).trans (.setChan _ t ch .done)) (.setChan _ t ch .aborted)) ?_
  refine CoreKept.trans (.modTile _ t (f := fun x =>
    { x.modChan ch fun c => { c with status := st, needGuard := false, flying := false, pieces := [], writes := [] } with
      lastWrites := if ((s.tile t).chan ch).flying then x.lastWrites ++ [(ch, { (s.tile t).chan ch with status := st })] else x.lastWrites })
    fun _ => ⟨rfl, rfl, rfl⟩) ?_
  exact .ite (.refl _) (.doneMessage ..)

theorem CoreKept.abortChans (s : State) (t : Nat) (l : List Nat) : CoreKept s (s.abortChans t l) :=
  .foldl (fun s c => (CoreKept.modTile s t (f := fun x => x.modChan c fun k => { k with suspended := false, guarded := true }) fun _ => ⟨rfl, rfl, rfl⟩).trans
    (.retireChan _ t c 1)) l s

theorem CoreKept.freeBasin (s : State) (t ix : Nat) : CoreKept s (s.freeBasin t ix) := by
  obtain ⟨k, d, hk⟩ := s.freeBasin_eq t ix
  obtain ⟨hmem, hpools, hjets, hsaves, htime⟩ := CoreKept.modTile { s with stops := k } t
    (f := Tile.basinFreed ix (handleOf s.dev.device t ix ((s.tile t).weir.gen ix))) fun _ => ⟨rfl, rfl, rfl⟩
  rw [hk]
  exact ⟨hmem, hpools, hjets, hsaves, htime⟩

theorem Tile.SameCore.refl (x : Tile) : x.SameCore x := ⟨rfl, rfl, rfl⟩
theorem Tile.SameCore.trans {x y z : Tile} (h : x.SameCore y) (k : y.SameCore z) : x.SameCore z :=
  ⟨k.1.trans h.1, k.2.1.trans h.2.1, k.2.2.trans h.2.2⟩
theorem Tile.SameCore.foldl {α : Type} {f : Tile → α → Tile} (hf : ∀ (x : Tile) a, x.SameCore (f x a)) (l : List α) (x : Tile) : x.SameCore (l.foldl f x) := by
  induction l generalizing x with
  | nil => exact .refl x
  | cons a l ih => exact (hf x a).trans (ih _)

theorem Tile.SameCore.ite {c : Prop} [Decidable c] {x a b : Tile} (ha : x.SameCore a) (hb : x.SameCore b) : x.SameCore (if c then a else b) := by
  split
  · exact ha
  · exact hb

theorem Tile.SameCore.freed (x : Tile) (base n : Nat) : x.SameCore (x.freed base n) := .ite ⟨rfl, rfl, rfl⟩ (.refl x)
theorem Tile.SameCore.lookRunless (x : Tile) (tc : Nat) : x.SameCore (x.lookRunless tc) :=
  .foldl (f := fun (x : Tile) (h : Nat × Nat × Nat) => x.lookHeld h.1 tc) (fun _ _ => ⟨rfl, rfl, rfl⟩) _ x

/-- The slot of a member of an ended gang goes back to its tile (R204). -/
def Tile.slotBack (tc slot : Nat) (y : Tile) : Tile :=
  let h := y.heldSlots.find? fun h => h.1 == slot
  let z := { y with heldSlots := y.heldSlots.filter fun h => h.1 != slot }
  match h with | some h => (z.freed h.2.1 h.2.2).lookRunless tc | none => z

theorem Tile.SameCore.slotBack (tc slot : Nat) (y : Tile) : y.SameCore (y.slotBack tc slot) := by
  unfold Tile.slotBack
  dsimp only
  split
  · next h _ =>
    exact (Tile.SameCore.freed { y with heldSlots := y.heldSlots.filter fun h => h.1 != slot } h.2.1 h.2.2).trans (.lookRunless _ tc)
  · exact ⟨rfl, rfl, rfl⟩

/-- The slots of the members that have no jet go back. -/
def State.slotsBack (s : State) (busy : Nat × Nat × Nat → Bool) (l : List (Nat × Nat × Nat)) : State :=
  l.foldl (fun (s : State) m => if busy m then s else s.modTile m.2.1 (Tile.slotBack s.tc m.2.2)) s

theorem CoreKept.slotsBack (s : State) (busy : Nat × Nat × Nat → Bool) (l : List (Nat × Nat × Nat)) : CoreKept s (s.slotsBack busy l) :=
  CoreKept.foldl (f := fun (s : State) (m : Nat × Nat × Nat) => if busy m then s else s.modTile m.2.1 (Tile.slotBack s.tc m.2.2))
    (fun s m => .ite (.refl s) (.modTile s m.2.1 (.slotBack s.tc m.2.2))) l s

/-- The pipes of an ended gang are freed. -/
def State.pipesFreed (s : State) (l : List (Nat × Nat × BitVec 32)) : State :=
  l.foldl (fun (s : State) p => if s.live p.2.1 p.2.2 then s.freeBasin p.2.1 (hIndex p.2.2) else s) s

theorem CoreKept.pipesFreed (s : State) (l : List (Nat × Nat × BitVec 32)) : CoreKept s (s.pipesFreed l) :=
  CoreKept.foldl (f := fun (s : State) (p : Nat × Nat × BitVec 32) => if s.live p.2.1 p.2.2 then s.freeBasin p.2.1 (hIndex p.2.2) else s)
    (fun s p => .ite (.freeBasin s p.2.1 (hIndex p.2.2)) (.refl s)) l s

theorem CoreKept.gangSettle (s : State) (g : Nat) : CoreKept s (s.gangSettle g) := by
  unfold State.gangSettle
  split
  · exact .refl s
  · next t x _ =>
    let busy (m : Nat × Nat × Nat) : Bool := (s.tile m.2.1).hasMember g m.1
    have hback := CoreKept.slotsBack s busy x.members
    refine .ite (.refl s) (.ite (hback.trans ?_) ((hback.trans (.pipesFreed _ x.pipes)).trans ?_))
    · exact .modTile _ t (f := fun y => { y with gangs := y.gangs.map fun z => if z.id = g then { z with members := z.members.filter busy } else z })
        fun _ => ⟨rfl, rfl, rfl⟩
    · exact .modTile _ t (f := fun y => { y with gangs := y.gangs.filter fun z => z.id != g }) fun _ => ⟨rfl, rfl, rfl⟩

/-! ### What a kill does to the slots of its tile (R351) -/

/-- The jet of a slot is gone, no other jet and no byte of memory differs. -/
structure Gone (t slot : Nat) (s u : State) : Prop where
  mem : u.mem = s.mem
  gone : (u.jet t slot).status = .free
  others : ∀ m i, (m, i) ≠ (t, slot) → u.jet m i = s.jet m i
  time : u.nc = s.nc ∧ u.turn = s.turn ∧ u.curTile = s.curTile ∧ u.curSlot = s.curSlot

theorem Gone.after {t slot : Nat} {s u v : State} (h : Gone t slot s u) (k : Kept u v) : Gone t slot s v := by
  obtain ⟨knc, kturn, ktile, kslot⟩ := k.time
  obtain ⟨hnc, hturn, htile, hslot⟩ := h.time
  exact ⟨k.mem.trans h.mem, by rw [k.jets]; exact h.gone, fun m i hm => (k.jets m i).trans (h.others m i hm),
    knc.trans hnc, kturn.trans hturn, ktile.trans htile, kslot.trans hslot⟩

theorem Gone.behind {t slot : Nat} {s u v : State} (h : CoreKept s u) (k : Gone t slot u v) : Gone t slot s v := by
  obtain ⟨knc, kturn, ktile, kslot⟩ := k.time
  obtain ⟨hnc, hturn, htile, hslot⟩ := h.time
  exact ⟨k.mem.trans h.mem, k.gone, fun m i hm => (k.others m i hm).trans (h.kept.jets m i),
    knc.trans hnc, kturn.trans hturn, ktile.trans htile, kslot.trans hslot⟩

theorem Gone.modTile {t slot : Nat} (s : State) {f : Tile → Tile} (hgone : ∀ x, ((f x).jet slot).status = .free)
    (hothers : ∀ x i, i ≠ slot → (f x).jet i = x.jet i) : Gone t slot s (s.modTile t f) := by
  refine ⟨rfl, ?_, fun m i hm => ?_, rfl, rfl, rfl, rfl⟩
  · rw [State.jet, State.tile_modTile_same]
    exact hgone _
  · rw [State.jet, State.jet]
    by_cases ht : m = t
    · subst ht
      rw [State.tile_modTile_same]
      exact hothers _ _ fun hi => hm (by rw [hi])
    · rw [State.tile_modTile_ne _ _ ht]

theorem Tile.SameCore.jet {x y : Tile} (h : x.SameCore y) (i : Nat) : y.jet i = x.jet i := by rw [Tile.jet, Tile.jet, h.2.1]

theorem Tile.SameCore.slotLeft (x : Tile) (slot tc : Nat) : x.SameCore (x.slotLeft slot tc) := .ite ⟨rfl, rfl, rfl⟩ (.refl x)

theorem Tile.SameCore.unpark (x : Tile) (key : Nat) : x.SameCore (x.unpark key) := .ite ⟨rfl, rfl, rfl⟩ (.refl x)

theorem Tile.SameCore.applySavectl (x : Tile) : x.SameCore x.applySavectl := by
  unfold Tile.applySavectl
  split
  · exact .ite ⟨rfl, rfl, rfl⟩ (.refl x)
  · exact .refl x

theorem Tile.freeSave_pool (x : Tile) (e : Nat) : (x.freeSave e).pool = x.pool := (Tile.SameCore.applySavectl _).1
theorem Tile.freeSave_jets (x : Tile) (e : Nat) : (x.freeSave e).jets = x.jets := (Tile.SameCore.applySavectl _).2.1
theorem Tile.freeSave_save (x : Tile) (e : Nat) : (x.freeSave e).save e = none := by
  rw [Tile.freeSave, Tile.save, (Tile.SameCore.applySavectl _).2.2]
  exact Tbl.get_set_same ..

/-- What `vacate` leaves is a tile whose slot is empty. -/
theorem Tile.vacate_jet (x : Tile) (slot tc i : Nat) : ∃ e : Jet, e.status = .free ∧ (x.vacate slot tc).jet i = if i = slot then e else x.jet i := by
  unfold Tile.vacate
  refine ⟨{ Jet.empty with freeAt := tc + 1, granBase := (x.jet slot).granBase, grans := if x.inHeldRun slot then 0 else (x.jet slot).grans }, rfl, ?_⟩
  have hset (e : Jet) : (x.setJet slot e).jet i = if i = slot then e else x.jet i := by
    by_cases hi : i = slot
    · rw [hi, if_pos rfl, Tile.jet_setJet_same]
    · rw [if_neg hi, Tile.jet_setJet_ne _ _ hi]
  rw [← hset]
  refine Tile.SameCore.jet ((Tile.SameCore.slotLeft _ slot tc).trans (.ite (.refl _) ?_)) i
  exact (Tile.SameCore.freed _ _ _).trans (.lookRunless _ _)

theorem State.killJet_gone (s : State) (t slot : Nat) : Gone t slot s (s.killJet t slot) := by
  unfold State.killJet
  refine Gone.behind ((CoreKept.rangeEnds s t (s.jet t slot) false).trans (.modTile _ t (f := fun x => x.cutBeats (s.jet t slot).key) fun _ => ⟨rfl, rfl, rfl⟩)) ?_
  dsimp only
  split
  · refine Gone.modTile _ (fun x => ?_) fun x i hi => ?_
    · obtain ⟨e, he, hjet⟩ := x.vacate_jet slot s.tc slot
      rw [hjet, if_pos rfl, he]
    · obtain ⟨e, -, hjet⟩ := x.vacate_jet slot s.tc i
      rw [hjet, if_neg hi]
  · have hleft (x : Tile) (i : Nat) (l : List (Nat × Nat × List Nat)) :
        Tile.jet { (x.setJet slot { Jet.empty with freeAt := s.tc + 1 }).slotLeft slot s.tc with limbo := l } i = (x.setJet slot { Jet.empty with freeAt := s.tc + 1 }).jet i :=
      Tile.SameCore.jet (Tile.SameCore.slotLeft (x.setJet slot { Jet.empty with freeAt := s.tc + 1 }) slot s.tc) i
    refine Gone.modTile _ (fun x => ?_) fun x i hi => ?_
    · rw [hleft, Tile.jet_setJet_same]
      rfl
    · rw [hleft, Tile.jet_setJet_ne _ _ hi]

theorem State.jetKill_gone (s : State) (t slot : Nat) : Gone t slot s (s.jetKill t slot) := by
  unfold State.jetKill
  split
  · exact (s.killJet_gone t slot).after (CoreKept.gangSettle ..).kept
  · exact s.killJet_gone t slot

/-- Jets differ in no more than what is forwarded to them. -/
structure Forwarded (s u : State) : Prop where
  mem : u.mem = s.mem
  jets : ∀ m i, { u.jet m i with fwdQ := (s.jet m i).fwdQ } = s.jet m i
  time : u.nc = s.nc ∧ u.turn = s.turn ∧ u.curTile = s.curTile ∧ u.curSlot = s.curSlot

theorem Forwarded.refl (s : State) : Forwarded s s := ⟨rfl, fun _ _ => rfl, rfl, rfl, rfl, rfl⟩

theorem Forwarded.trans {s t u : State} (h : Forwarded s t) (k : Forwarded t u) : Forwarded s u := by
  obtain ⟨hnc, hturn, htile, hslot⟩ := h.time
  obtain ⟨knc, kturn, ktile, kslot⟩ := k.time
  exact ⟨k.mem.trans h.mem, fun m i => (congrArg (fun j : Jet => { j with fwdQ := (s.jet m i).fwdQ }) (k.jets m i)).trans (h.jets m i),
    knc.trans hnc, kturn.trans hturn, ktile.trans htile, kslot.trans hslot⟩

theorem Forwarded.modJet (s : State) (n k : Nat) (q : Jet → List (Nat × Instr × BitVec 64 × Nat)) :
    Forwarded s (s.modJet n k fun j => { j with fwdQ := q j }) := by
  refine ⟨rfl, fun m i => ?_, rfl, rfl, rfl, rfl⟩
  by_cases hmi : m = n ∧ i = k
  · obtain ⟨rfl, rfl⟩ := hmi
    simp [State.jet, State.modJet]
  · have hne : (s.modJet n k fun j => { j with fwdQ := q j }).jet m i = s.jet m i := by
      rw [State.jet, State.jet, State.modJet]
      by_cases hm : m = n
      · subst hm
        rw [State.tile_modTile_same, Tile.jet_modJet_ne _ _ fun hi => hmi ⟨rfl, hi⟩]
      · rw [State.tile_modTile_ne _ _ hm]
    rw [hne]

theorem State.cascadeKilled_forwarded (s : State) (t : Nat) (j : Jet) : Forwarded s (s.cascadeKilled t j) := by
  unfold State.cascadeKilled
  split
  · next dir n _ =>
    unfold State.forwardTo
    generalize s.followers t j.key dir n = l
    induction l generalizing s with
    | nil => exact .refl s
    | cons e l ih => exact (Forwarded.modJet s e.2.1 e.2.2 _).trans (ih _)
  · exact .refl s

/-- A resident jet that is killed is gone from its slot; others hear at most of the end of its cascade. -/
theorem State.killResident_gone (s : State) (t slot : Nat) : Gone t slot (s.cascadeKilled t (s.jet t slot)) (s.killResident t slot) := by
  unfold State.killResident
  have hgone := (State.jetKill_gone (s.cascadeKilled t (s.jet t slot)) t slot).after
    (CoreKept.modTile _ t (f := fun x => (x.discard (s.jet t slot).key true).unpark (s.jet t slot).key) fun x =>
      Tile.SameCore.trans (y := x.discard (s.jet t slot).key true) ⟨rfl, rfl, rfl⟩ (.unpark _ _)).kept
  dsimp only
  split
  · next k v _ =>
    refine (hgone.after (CoreKept.abortChans _ t v.chans).kept).after (Kept.modTile _ t (fun x => ?_) fun x => ?_)
    · exact Tile.freeSave_pool ..
    · exact Tile.freeSave_jets ..
  · exact hgone

/-- A jet that is killed, seen from the jet that kills it. -/
theorem State.killResident_others (s : State) {slot : Nat} (h : slot ≠ s.curSlot) :
    ((s.killResident s.curTile slot).jet s.curTile slot).status = .free ∧ (s.killResident s.curTile slot).mem = s.mem ∧
      { (s.killResident s.curTile slot).cur with fwdQ := s.cur.fwdQ } = s.cur := by
  obtain ⟨fmem, fjets, -, -, ftile, fslot⟩ := s.cascadeKilled_forwarded s.curTile (s.jet s.curTile slot)
  obtain ⟨hmem, hgone, hothers, -, -, htile, hslot⟩ := s.killResident_gone s.curTile slot
  refine ⟨hgone, hmem.trans fmem, ?_⟩
  have hcur : (s.killResident s.curTile slot).cur = (s.cascadeKilled s.curTile (s.jet s.curTile slot)).jet s.curTile s.curSlot := by
    rw [State.cur, htile, hslot, ftile, fslot]
    exact hothers _ _ fun heq => h (Prod.mk.inj heq).2.symm
  rw [hcur]
  exact fjets s.curTile s.curSlot

/-- A saved context that is killed is gone from the save area. -/
theorem State.killSaved_gone (s : State) (t e : Nat) (v : SaveEntry) :
    ((s.killSaved t e v).tile t).save e = none ∧ (s.killSaved t e v).mem = s.mem ∧ (s.killSaved t e v).curTile = s.curTile := by
  have hpre := (CoreKept.rangeEnds s t v.jet false).trans (.abortChans _ t v.chans)
  have hfreed (f : Tile → Tile) : ((((s.rangeEnds t v.jet false).abortChans t v.chans).modTile t fun x => (f x).freeSave e).tile t).save e = none := by
    rw [State.tile_modTile_same]
    exact Tile.freeSave_save ..
  unfold State.killSaved
  dsimp only
  split
  · next g _ _ =>
    have hsettle (u : State) := CoreKept.gangSettle u g
    refine ⟨?_, (hsettle _).mem.trans hpre.mem, (hsettle _).time.2.2.1.trans hpre.time.2.2.1⟩
    rw [Tile.save, (hsettle _).saves]
    exact hfreed _
  · exact ⟨hfreed _, hpre.mem, hpre.time.2.2.1⟩

/-! ### Coming back from a trap (R351) -/

theorem insertIntr_perm (l : List Interrupted) (i : Interrupted) : (insertIntr l i).Perm (i :: l) := by
  induction l with
  | nil => exact .refl _
  | cons k l ih =>
    rw [insertIntr]
    split
    · exact .refl _
    · exact (ih.cons k).trans (.swap i k l)

theorem sortIntr_perm (l : List Interrupted) : (sortIntr l).Perm l := by
  have hfold (l m : List Interrupted) : (l.foldl insertIntr m).Perm (m ++ l) := by
    induction l generalizing m with
    | nil => simp
    | cons i l ih =>
      rw [List.foldl_cons]
      refine (ih _).trans (((insertIntr_perm m i).append_right l).trans ?_)
      exact (List.perm_middle (l₁ := m)).symm
  exact hfold l []

/-- The address that `resume` gives, where it gives one. -/
def State.newPc (s : State) (o : R3) : Option (BitVec 64) := if o.b.isNz then none else some (BitVec.ofNat 64 (o.b.get s.cur.frame))

/-- The state in which the jet of a slot is resumed (R351, R388). -/
def State.resumeJet (s : State) (slot : Nat) (target : Option (BitVec 64)) : State :=
  let s1 := s.modJet s.curTile slot fun j => j.resumed (s.tc + 2) target
  if target.isSome then s1.modHere fun x => x.discard (s.jet s.curTile slot).key false else s1

theorem State.resumeJet_jets (s : State) (slot : Nat) (target : Option (BitVec 64)) :
    (s.resumeJet slot target).jet s.curTile slot = (s.jet s.curTile slot).resumed (s.tc + 2) target ∧
      ∀ m i, (m, i) ≠ (s.curTile, slot) → (s.resumeJet slot target).jet m i = s.jet m i := by
  have hkept : Kept (s.modJet s.curTile slot fun j => j.resumed (s.tc + 2) target) (s.resumeJet slot target) := by
    unfold State.resumeJet
    split
    · exact Kept.modTile _ _ (fun _ => rfl) fun _ => rfl
    · exact .refl _
  refine ⟨?_, fun m i hmi => ?_⟩
  · rw [hkept.jets]
    exact (congrArg (fun x : Tile => x.jet slot) (s.tile_modTile_same s.curTile _)).trans (Tile.jet_modJet_same ..)
  · rw [hkept.jets, State.jet, State.jet, State.modJet]
    by_cases hm : m = s.curTile
    · subst hm
      rw [State.tile_modTile_same, Tile.jet_modJet_ne _ _ fun hi => hmi (by rw [hi])]
    · rw [State.tile_modTile_ne _ _ hm]

theorem State.resumeJet_mem (s : State) (slot : Nat) (target : Option (BitVec 64)) : (s.resumeJet slot target).mem = s.mem := by
  unfold State.resumeJet
  split <;> rfl

/-- What `resume` does once its checks have passed. -/
def State.resumeGo (s : State) (h : Hdr) (o : R3) : State :=
  match (if fld (o.a.get s.cur.frame) 16 1 = 1 then none else s.here.jetById (fld (o.a.get s.cur.frame) 0 16)) with
  | none => (s.oweStatus 2 o.d 1).advance h 8
  | some slot =>
    if (s.jet s.curTile slot).status = .suspended then ((s.resumeJet slot (s.newPc o)).oweStatus 2 o.d 0).advance h 8
    else (s.oweStatus 2 o.d 2).advance h 8

theorem State.resume_exec {s : State} {h : Hdr} {o : R3} (ha : s.admits (.resume h o) = true) : exec (.resume h o) s = .next (s.resumeGo h o) :=
  State.guarded_of_admits (i := .resume h o) (fun s => s.resumeGo h o) ha

/-- What `kill` does once its checks have passed. -/
def State.killGo (s : State) (h : Hdr) (o : R2) : State :=
  let a := o.a.get s.cur.frame
  let t := s.curTile
  if fld a 16 1 = 1 then
    match s.here.save (fld a 0 4) with
    | some v => ((if v.saved then s.killSaved t (fld a 0 4) v else s.killResident t v.slot).oweStatus 2 o.d 0).advance h 8
    | none => (s.oweStatus 2 o.d 1).advance h 8
  else
    match s.here.jetById (fld a 0 16) with
    | none => (s.oweStatus 2 o.d 1).advance h 8
    | some slot =>
      if slot = s.curSlot then (s.oweStatus 2 o.d 2).advance h 8
      else ((s.killResident t slot).oweStatus 2 o.d 0).advance h 8

theorem State.kill_exec {s : State} {h : Hdr} {o : R2} (ha : s.admits (.kill h o) = true) : exec (.kill h o) s = .next (s.killGo h o) :=
  State.guarded_of_admits (i := .kill h o) (fun s => s.killGo h o) ha

theorem Jet.resumed_fields (j : Jet) (tc : Nat) (p : Option (BitVec 64)) :
    (j.resumed tc p).status = .running ∧ (j.resumed tc p).stallTill = tc ∧ (j.resumed tc p).interrupted = [] ∧ (j.resumed tc p).frame = j.frame := by
  cases p <;> exact ⟨rfl, rfl, rfl, rfl⟩

/-- Settles O38: `trap` by its frame range, `resume` and `kill` by the jet or context they name. -/
theorem jetControl : Obligations.JetControl := by
  unfold Obligations.JetControl
  intro h a code o p s f n v w named gives
  have hbit (x : Nat) : fld x 16 1 = x / 2 ^ 16 % 2 := rfl
  have hid (x : Nat) : fld x 0 16 = x % 2 ^ 16 := by rw [fld, Nat.pow_zero, Nat.div_one]
  have hentry (x : Nat) : fld x 0 4 = x % 16 := by rw [fld, Nat.pow_zero, Nat.div_one, show (2 : Nat) ^ 4 = 16 from rfl]
  refine ⟨fun hin => ?_, fun ha => ?_, fun ha => ?_⟩
  · change execTrap h a code s = _
    rw [execTrap, show s.cur.outside (footRead a) = none from hin]
  · have hgo (hb : v / 2 ^ 16 % 2 = 0) {k : Nat} (hk : named v k) : (if fld (o.a.get s.cur.frame) 16 1 = 1 then none
        else s.here.jetById (fld (o.a.get s.cur.frame) 0 16)) = some k := by
      rw [if_neg (by rw [hbit]; exact fun h1 => absurd (hb.symm.trans h1) (by decide)), hid]
      exact hk
    refine ⟨fun hnone => ?_, fun k hb hk hst => ?_, fun k hb hk hst => ?_⟩
    · refine ⟨_, State.resume_exec ha, ?_⟩
      have hno : (if fld (o.a.get s.cur.frame) 16 1 = 1 then none else s.here.jetById (fld (o.a.get s.cur.frame) 0 16)) = none := by
        split
        · rfl
        · next hb =>
          rw [hbit] at hb
          rw [hid]
          exact Option.eq_none_iff_forall_not_mem.mpr fun k hk => hnone.elim (fun h1 => hb h1) fun h2 => h2 k hk
      rw [State.resumeGo, hno]
      exact s.oweStatus_status_id h 8 2 o.d 1
    · refine ⟨_, State.resume_exec ha, ?_⟩
      simp only [State.resumeGo, hgo hb hk]
      rw [if_neg hst]
      exact s.oweStatus_status_id h 8 2 o.d 2
    · obtain ⟨hjet, hothers⟩ := s.resumeJet_jets k (s.newPc o)
      obtain ⟨hrun, hstall, hintr, hframe⟩ := (s.jet n k).resumed_fields (s.tc + 2) (s.newPc o)
      refine ⟨s.resumeJet k (s.newPc o), ⟨_, State.resume_exec ha, ?_⟩, ?_, ?_, ?_, ?_, s.resumeJet_mem k _, hothers, fun hnz => ?_, fun hnz => ?_⟩
      · simp only [State.resumeGo, hgo hb hk]
        rw [if_pos hst]
        exact (s.resumeJet k (s.newPc o)).oweStatus_status_id h 8 2 o.d 0
      · exact (congrArg Jet.status hjet).trans hrun
      · exact (congrArg Jet.stallTill hjet).trans hstall
      · exact (congrArg Jet.interrupted hjet).trans hintr
      · exact (congrArg Jet.frame hjet).trans hframe
      · rw [State.newPc, if_pos hnz] at hjet
        rw [State.newPc, if_pos hnz]
        exact ⟨(congrArg Jet.pc hjet).trans rfl, (congrArg Jet.replay hjet) ▸ sortIntr_perm _⟩
      · rw [State.newPc, if_neg (by simp [hnz])] at hjet
        rw [State.newPc, if_neg (by simp [hnz])]
        exact ⟨(congrArg Jet.pc hjet).trans rfl, (congrArg Jet.replay hjet).trans rfl⟩
  · have hjet (hb : w / 2 ^ 16 % 2 = 0) : s.killGo h p = match s.here.jetById (w % 2 ^ 16) with
        | none => (s.oweStatus 2 p.d 1).advance h 8
        | some slot => if slot = s.curSlot then (s.oweStatus 2 p.d 2).advance h 8
          else ((s.killResident s.curTile slot).oweStatus 2 p.d 0).advance h 8 := by
      rw [State.killGo, if_neg (by rw [hbit]; exact fun h1 => absurd (hb.symm.trans h1) (by decide)), hid]
    have hsave (hb : w / 2 ^ 16 % 2 = 1) : s.killGo h p = match s.here.save (w % 16) with
        | some v => ((if v.saved then s.killSaved s.curTile (w % 16) v else s.killResident s.curTile v.slot).oweStatus 2 p.d 0).advance h 8
        | none => (s.oweStatus 2 p.d 1).advance h 8 := by
      rw [State.killGo, if_pos (by rw [hbit]; exact hb), hentry]
    refine ⟨fun hb hnone => ⟨_, State.kill_exec ha, ?_⟩, fun hb hk => ⟨_, State.kill_exec ha, ?_⟩, fun k hb hk hne => ?_,
      fun hb he => ⟨_, State.kill_exec ha, ?_⟩, fun e hb he hsv hne => ?_, fun e hb he hsv => ?_⟩
    · rw [hjet hb, show s.here.jetById (w % 2 ^ 16) = none from Option.eq_none_iff_forall_not_mem.mpr fun k hk => hnone k hk]
      exact s.oweStatus_status_id h 8 2 p.d 1
    · rw [hjet hb]
      simp only [show s.here.jetById (w % 2 ^ 16) = some s.curSlot from hk, if_true]
      exact s.oweStatus_status_id h 8 2 p.d 2
    · obtain ⟨hgone, hmem, hcur⟩ := s.killResident_others hne
      refine ⟨s.killResident s.curTile k, ⟨_, State.kill_exec ha, ?_⟩, hgone, hmem, hcur⟩
      rw [hjet hb]
      simp only [show s.here.jetById (w % 2 ^ 16) = some k from hk]
      rw [if_neg hne]
      exact (s.killResident s.curTile k).oweStatus_status_id h 8 2 p.d 0
    · rw [hsave hb, he]
      exact s.oweStatus_status_id h 8 2 p.d 1
    · obtain ⟨hgone, hmem, -⟩ := s.killResident_others hne
      refine ⟨s.killResident s.curTile e.slot, ⟨_, State.kill_exec ha, ?_⟩, hgone, hmem⟩
      rw [hsave hb]
      simp only [he, hsv, Bool.false_eq_true, if_false]
      exact (s.killResident s.curTile e.slot).oweStatus_status_id h 8 2 p.d 0
    · obtain ⟨hgone, hmem, htile⟩ := s.killSaved_gone s.curTile (w % 16) e
      refine ⟨s.killSaved s.curTile (w % 16) e, ⟨_, State.kill_exec ha, ?_⟩, ?_, hmem⟩
      · rw [hsave hb]
        simp only [he, hsv, if_true]
        exact (s.killSaved s.curTile (w % 16) e).oweStatus_status_id h 8 2 p.d 0
      · rw [State.here, htile]
        exact hgone

end Sys2Proof.Machine
end

section
/-!
SUPPORT and PROOFS. The loop-nest instruction (R149 to R152): its order of indices (O43) and its issue (O42).
-/

namespace Sys2Proof.Machine

/-! ### The odometer (R151) -/

/-- The place of a list of indices, lowest level first, in the order of the levels. -/
def placeOf : List Nat → List Nat → Nat
  | x :: xs, i :: is => i + x * placeOf xs is
  | _, _ => 0

/-- As many places as the levels have. -/
def placesOf : List Nat → Nat
  | x :: xs => x * placesOf xs
  | [] => 1

/-- Each index lies within its level. -/
def Within (xs is : List Nat) : Prop := List.Forall₂ (fun x i => i < x) xs is

theorem placeOf_lt {xs is : List Nat} (h : Within xs is) : placeOf xs is < placesOf xs := by
  induction h with
  | nil => exact Nat.one_pos
  | @cons x i xs is hi _ ih =>
    rw [placeOf, placesOf]
    calc i + x * placeOf xs is < x + x * placeOf xs is := Nat.add_lt_add_right hi _
      _ = x * (placeOf xs is + 1) := by ring
      _ ≤ x * placesOf xs := Nat.mul_le_mul_left x ih

/-- Raising the indices of outer levels goes to the next place, or ends behind the last. -/
theorem bump_spec {xs is : List Nat} (h : Within xs is) :
    (∀ js, bump xs is = some js → Within xs js ∧ placeOf xs js = placeOf xs is + 1) ∧ (bump xs is = none ↔ placeOf xs is + 1 = placesOf xs) := by
  induction h with
  | nil => exact ⟨fun _ h => (nomatch h), fun _ => rfl, fun _ => rfl⟩
  | @cons x i xs is hi hrest ih =>
    obtain ⟨hsome, hnone⟩ := ih
    by_cases hup : i + 1 < x
    · have hbump : bump (x :: xs) (i :: is) = some ((i + 1) :: is) := if_pos hup
      refine ⟨fun js hjs => ?_, fun hn => (by rw [hbump] at hn; cases hn), fun hlast => ?_⟩
      · obtain rfl : (i + 1) :: is = js := Option.some.inj (hbump.symm.trans hjs)
        exact ⟨.cons hup hrest, by rw [placeOf, placeOf]; omega⟩
      · have hle : x * placeOf xs is + x ≤ x * placesOf xs := by
          rw [← Nat.mul_succ]
          exact Nat.mul_le_mul_left x (placeOf_lt hrest)
        rw [placeOf, placesOf] at hlast
        omega
    · obtain rfl : i + 1 = x := by omega
      have hbump : bump ((i + 1) :: xs) (i :: is) = (bump xs is).map fun r => 0 :: r := if_neg hup
      refine ⟨fun js hjs => ?_, ?_⟩
      · rw [hbump, Option.map_eq_some_iff] at hjs
        obtain ⟨r, hr, rfl⟩ := hjs
        obtain ⟨hwithin, hplace⟩ := hsome r hr
        refine ⟨.cons (Nat.succ_pos i) hwithin, ?_⟩
        rw [placeOf, placeOf, hplace]
        ring
      · rw [hbump, Option.map_eq_none_iff, hnone, placeOf, placesOf]
        constructor
        · intro hlast
          rw [← hlast]
          ring
        · intro hlast
          have hmul : (i + 1) * (placeOf xs is + 1) = (i + 1) * placesOf xs := by
            rw [← hlast]
            ring
          exact Nat.eq_of_mul_eq_mul_left (Nat.succ_pos i) hmul

theorem NestSt.nextIdx_eq (n : NestSt) {i0 i1 i2 i3 i4 : Nat} (h : n.idx = [i0, i1, i2, i3, i4]) : n.nextIdx =
    if i0 + n.count < n.o.extent 0 then some [i0 + n.count, i1, i2, i3, i4]
    else (bump [n.o.extent 1, n.o.extent 2, n.o.extent 3, n.o.extent 4] [i1, i2, i3, i4]).map fun r => 0 :: r := by
  rw [NestSt.nextIdx, NestSt.i, h]
  rfl

/-- Settles O43: a beat raises level 0 by its elements, or the outer levels by one where level 0 is done. -/
theorem nestOrder : Obligations.NestOrder := by
  unfold Obligations.NestOrder
  intro n hlen hin place all
  match hidx : n.idx, hlen with
  | [i0, i1, i2, i3, i4], _ =>
    have hi (l v : Nat) (h : [i0, i1, i2, i3, i4][l]? = some v) (hl : l < 5) : v < n.o.extent l := by
      have hl' := hin l hl
      rw [NestSt.i, hidx, h] at hl'
      exact hl'
    have h0 := hi 0 i0 rfl (by decide)
    have hrest : Within [n.o.extent 1, n.o.extent 2, n.o.extent 3, n.o.extent 4] [i1, i2, i3, i4] :=
      .cons (hi 1 i1 rfl (by decide)) (.cons (hi 2 i2 rfl (by decide)) (.cons (hi 3 i3 rfl (by decide)) (.cons (hi 4 i4 rfl (by decide)) .nil)))
    have hi0 : n.i 0 = i0 := by rw [NestSt.i, hidx]; rfl
    have hcount : n.count = min (laneL n.o.ctl) (n.o.extent 0 - i0) := by rw [NestSt.count, hi0]
    have hL := laneL_pos n.o.ctl
    have hplace (j0 j1 j2 j3 j4 : Nat) : place [j0, j1, j2, j3, j4] =
        j0 + n.o.extent 0 * placeOf [n.o.extent 1, n.o.extent 2, n.o.extent 3, n.o.extent 4] [j1, j2, j3, j4] := by
      simp only [place, placeOf, List.getD_cons_zero, List.getD_cons_succ, Nat.mul_zero, Nat.add_zero]
    have hall : all = n.o.extent 0 * placesOf [n.o.extent 1, n.o.extent 2, n.o.extent 3, n.o.extent 4] := by
      simp only [all, placesOf]
      ring
    obtain ⟨hsome, hnone⟩ := bump_spec hrest
    have hlt := placeOf_lt hrest
    have hbound (j0 j1 j2 j3 j4 : Nat) (hj0 : j0 < n.o.extent 0) (hj : Within [n.o.extent 1, n.o.extent 2, n.o.extent 3, n.o.extent 4] [j1, j2, j3, j4]) :
        ∀ l, l < 5 → [j0, j1, j2, j3, j4].getD l 0 < n.o.extent l := by
      cases hj with | cons h1 hj => cases hj with | cons h2 hj => cases hj with | cons h3 hj => cases hj with | cons h4 _ =>
      intro l hl
      match l, hl with
      | 0, _ => exact hj0
      | 1, _ => exact h1
      | 2, _ => exact h2
      | 3, _ => exact h3
      | 4, _ => exact h4
    refine ⟨by omega, by omega, fun ix hix => ?_, ?_⟩
    · rw [n.nextIdx_eq hidx] at hix
      split at hix
      · next hup =>
        obtain rfl := Option.some.inj hix
        exact ⟨by rw [hplace, hplace]; omega, rfl, hbound _ _ _ _ _ hup hrest⟩
      · next hend =>
        obtain ⟨r, hr, rfl⟩ := Option.map_eq_some_iff.mp hix
        obtain ⟨hwithin, hnext⟩ := hsome r hr
        have hfull : i0 + n.count = n.o.extent 0 := by omega
        match r, hwithin with
        | [j1, j2, j3, j4], hwithin =>
          refine ⟨?_, rfl, hbound _ _ _ _ _ (by omega) hwithin⟩
          rw [hplace, hplace, hnext, Nat.mul_succ]
          omega
    · rw [n.nextIdx_eq hidx, hplace, hall]
      split
      · next hup =>
        refine ⟨fun h => (nomatch h), fun h => ?_⟩
        have hle := Nat.mul_le_mul_left (n.o.extent 0) hlt
        rw [Nat.succ_eq_add_one, Nat.mul_succ] at hle
        omega
      · next hend =>
        have hfull : i0 + n.count = n.o.extent 0 := by omega
        rw [Option.map_eq_none_iff, hnone]
        have hmul : i0 + n.o.extent 0 * placeOf [n.o.extent 1, n.o.extent 2, n.o.extent 3, n.o.extent 4] [i1, i2, i3, i4] + n.count =
            n.o.extent 0 * (placeOf [n.o.extent 1, n.o.extent 2, n.o.extent 3, n.o.extent 4] [i1, i2, i3, i4] + 1) := by
          rw [Nat.mul_succ]
          omega
        rw [hmul]
        exact ⟨fun h => by rw [h], fun h => Nat.eq_of_mul_eq_mul_left (by omega) h⟩

/-! ### The issue of a nest (R149 to R152) -/

/-- A result is owed that an event brings, after a change of the issuing tile that leaves its jets alone. -/
theorem State.oweVar_then_after (s : State) (h : Hdr) (len : Nat) (dst : List (Nat × Nat)) (flags : List (BitVec 5)) (lat : Nat) (e : Instr)
    {g : Tile → Tile} (hg : ∀ x, (g x).jets = x.jets) (hset : ∀ (x : Tile) k v, g (x.setJet k v) = (g x).setJet k v) :
    Issued s ((((s.oweVar dst [] [] flags false).2.modHere g).after lat e ⟨s.curTile, s.curSlot, s.nextId, 0, 0⟩).advance h len) h len g
      [s.varOwed dst [] [] flags false] [s.evt lat e 0 0] := by
  have hj : ∀ x k, (g x).jet k = x.jet k := fun x k => by simp [Tile.jet, hg]
  refine Issued.of_tiles hg ?_
  simp [State.oweVar, State.tilesWith, State.advance, State.modHere_tiles, State.modCur_tiles, State.tile, State.here, State.cur_eq, hj, hset,
    Jet.stepped, Jet.behind, withEvents, State.evt, State.varOwed, State.after, State.at_, State.tc]

/-- A stopped `nest` of the issuing jet's instruction (R152). -/
def State.ownNest (s : State) (m : NestSt) : Bool := m.key == s.cur.key && m.pc == s.cur.pc && m.stopped

theorem State.ownNest_iff (s : State) (m : NestSt) : s.ownNest m = true ↔ m.key = s.cur.key ∧ m.pc = s.cur.pc ∧ m.stopped = true := by
  simp [State.ownNest, and_assoc]

/-- The `nest` that begins or goes on. -/
def State.nestBegun (s : State) (fn : Nat) (o : NestF) : NestSt :=
  { s.nestFrom fn o s.nextId with src := granulesOf (s.nestFoot fn o).src, old := s.cur.owedOld (s.nestFoot fn o).src }

theorem State.nestBegun_own (s : State) (fn : Nat) (o : NestF) : (s.nestBegun fn o).key = s.cur.key ∧ (s.nestBegun fn o).pc = s.cur.pc := by
  unfold State.nestBegun State.nestFrom
  dsimp only
  split
  · next m hm =>
    obtain ⟨hkey, hpc, -⟩ := (s.ownNest_iff m).mp (List.find?_some hm)
    exact ⟨hkey, hpc⟩
  · exact ⟨rfl, rfl⟩

/-- A `nest` that finds none stopped begins at its first indices. -/
theorem State.nestFrom_fresh {s : State} (fn : Nat) (o : NestF) (id : Nat) (h : ∀ m ∈ s.here.nests, ¬ s.ownNest m = true) : s.nestFrom fn o id =
    { id := id, num := s.cur.ordOf id, pool := 1024 * s.dev.device.toNat + s.curTile, key := s.cur.key, slot := s.curSlot, inst := s.cur.inst,
      jetid := s.cur.id16 s.curSlot, pc := s.cur.pc, fn := fn, o := o, vd := s.cur.latch (some o.d), va := s.cur.latch (some o.a), vb := s.cur.latch o.b,
      mask := s.cur.mask o.mask.toNat, src := [], old := [], idx := [0, 0, 0, 0, 0], acc := 0, accSet := false, blk := [], fl := 0, owed := [],
      stopped := false, finished := false } := by
  have hnone : (s.here.nests.find? fun n => n.key == s.cur.key && n.pc == s.cur.pc && n.stopped) = none := List.find?_eq_none.mpr h
  rw [State.nestFrom, hnone]

/-- A `nest` goes on with the first that its jet has stopped there. -/
theorem State.nestFrom_stopped {s : State} (fn : Nat) (o : NestF) (id : Nat) {m : NestSt} {l l' : List NestSt} (hl : s.here.nests = l ++ m :: l')
    (hfirst : ∀ k ∈ l, ¬ s.ownNest k = true) (hm : s.ownNest m = true) :
    s.nestFrom fn o id = { m with id := id, was := m.id :: m.was, slot := s.curSlot, fn := fn, o := o, stopped := false } := by
  have hsome : (s.here.nests.find? fun n => n.key == s.cur.key && n.pc == s.cur.pc && n.stopped) = some m := by
    change s.here.nests.find? s.ownNest = some m
    rw [hl, List.find?_append, List.find?_eq_none.mpr hfirst, Option.none_or]
    exact List.find?_cons_of_pos hm
  rw [State.nestFrom, hsome]

/-- The nests of the issuing tile once this one has begun. -/
def State.nestsBegun (s : State) (fn : Nat) (o : NestF) : List NestSt :=
  (s.here.nests.filter fun m => !s.ownNest m) ++ [s.nestBegun fn o]

def Tile.withNests (l : List NestSt) (x : Tile) : Tile := { x with nests := l }

/-- What a `nest` does where its checks pass. -/
theorem State.nest_completes {i : Instr} {s : State} {h : Hdr} {fn : Nat} {o : NestF} (hf : footOf i s = s.nestFoot fn o) (he : exec i s = s.nest h fn o)
    (ha : s.admits i = true) : ∃ t, exec i s = .next t ∧ t.here.nests = s.nestsBegun fn o ∧
      Issued s t h 32 (Tile.withNests (s.nestsBegun fn o)) [s.varOwed (granulesOf (s.nestFoot fn o).dst) [] [] [0] false] [s.evt 1 .nestBeat 0 0] := by
  have hissued := s.oweVar_then_after h 32 (granulesOf (s.nestFoot fn o).dst) [0] 1 .nestBeat (g := Tile.withNests (s.nestsBegun fn o))
    (fun _ => rfl) fun _ _ _ => rfl
  refine ⟨_, ?_, congrArg Tile.nests hissued.frame.tile, hissued⟩
  rw [he, State.nest, ← hf, State.guarded_of_admits _ ha, hf]
  have hnests : (s.oweVar (granulesOf (s.nestFoot fn o).dst) [] [] [0] false).2.here.nests = s.here.nests := by
    simp [State.oweVar, State.here, State.modCur_tiles, State.tile]
  obtain ⟨hkey, hpc⟩ := s.nestBegun_own fn o
  have hmod : (s.oweVar (granulesOf (s.nestFoot fn o).dst) [] [] [0] false).2.modHere (fun x => { x with
      nests := (x.nests.filter fun m => !(m.key == (s.nestBegun fn o).key && m.pc == (s.nestBegun fn o).pc && m.stopped)) ++ [s.nestBegun fn o] }) =
      (s.oweVar (granulesOf (s.nestFoot fn o).dst) [] [] [0] false).2.modHere (Tile.withNests (s.nestsBegun fn o)) := by
    refine State.modTile_congr ?_
    rw [hkey, hpc]
    exact congrArg (fun l => Tile.withNests ((l.filter fun m => !s.ownNest m) ++ [s.nestBegun fn o]) (s.oweVar _ [] [] [0] false).2.here) hnests
  exact congrArg (fun u : State => Host.Outcome.next ((u.after 1 .nestBeat ⟨s.curTile, s.curSlot, s.nextId, 0, 0⟩).advance h 32)) hmod

theorem State.mem_nestsBegun (s : State) (fn : Nat) (o : NestF) (m : NestSt) :
    m ∈ s.nestsBegun fn o ↔ m = s.nestBegun fn o ∨ (m ∈ s.here.nests ∧ ¬ s.ownNest m = true) := by
  rw [State.nestsBegun, List.mem_append, List.mem_singleton, List.mem_filter, or_comm]
  simp

/-- The `nest` begins at its first indices, for the issuing jet (R149, R152). -/
def State.FreshNest (s : State) (o : NestF) (fn : Nat) (n : NestSt) : Prop :=
  n.id = s.nextId ∧ n.key = s.cur.key ∧ n.pc = s.cur.pc ∧ n.fn = fn ∧ n.o = o ∧ n.idx = [0, 0, 0, 0, 0] ∧
    n.mask = s.cur.mask o.mask.toNat ∧ n.owed = [] ∧ n.was = [] ∧ n.accSet = false ∧ n.fl = 0 ∧ n.stopped = false ∧ n.finished = false

/-- A stopped `nest` of the issuing jet's instruction, as a proposition. -/
def State.MineNest (s : State) (m : NestSt) : Prop := m.key = s.cur.key ∧ m.pc = s.cur.pc ∧ m.stopped = true

theorem State.nestBegun_fresh {s : State} (fn : Nat) (o : NestF) (h : ∀ m ∈ s.here.nests, ¬ s.ownNest m = true) : s.FreshNest o fn (s.nestBegun fn o) := by
  rw [State.nestBegun, State.nestFrom_fresh fn o s.nextId h]
  exact ⟨rfl, rfl, rfl, rfl, rfl, rfl, rfl, rfl, rfl, rfl, rfl, rfl, rfl⟩

/-- Each `nest` begins, or goes on, and what it is to do is its own. -/
theorem State.nest_starts {i : Instr} {s : State} {h : Hdr} {fn : Nat} {o : NestF} {does : NestSt → Prop} (hf : footOf i s = s.nestFoot fn o)
    (he : exec i s = s.nest h fn o) (hdoes : ∀ n : NestSt, n.fn = fn → n.o = o → does n) (ha : s.admits i = true) : ∃ t n, exec i s = .next t ∧
      Issued s t h 32 (fun x => { x with nests := t.here.nests }) [s.varOwed (granulesOf (s.nestFoot fn o).dst) [] [] [0] false] [s.evt 1 .nestBeat 0 0] ∧
      (∀ m, m ∈ t.here.nests ↔ m = n ∨ (m ∈ s.here.nests ∧ ¬ s.MineNest m)) ∧
      ((∀ m ∈ s.here.nests, ¬ s.MineNest m) → s.FreshNest o fn n ∧ does n) ∧
      (∀ m, (∃ l l', s.here.nests = l ++ m :: l' ∧ ∀ k ∈ l, ¬ s.MineNest k) → s.MineNest m →
        n = { m with id := s.nextId, was := m.id :: m.was, slot := s.curSlot, fn := fn, o := o, stopped := false, src := n.src, old := n.old }) := by
  obtain ⟨t, hexec, hnests, hissued⟩ := State.nest_completes hf he ha
  refine ⟨t, s.nestBegun fn o, hexec, ?_, fun m => ?_, fun hnone => ?_, fun m ⟨l, l', hl, hfirst⟩ hm => ?_⟩
  · rw [hnests]
    exact hissued
  · rw [hnests, s.mem_nestsBegun, s.ownNest_iff]
    rfl
  · have hfresh := State.nestBegun_fresh fn o fun m hm => mt (s.ownNest_iff m).mp (hnone m hm)
    exact ⟨hfresh, hdoes _ hfresh.2.2.2.1 hfresh.2.2.2.2.1⟩
  · have hgoes := State.nestFrom_stopped fn o s.nextId hl (fun k hk => mt (s.ownNest_iff k).mp (hfirst k hk)) ((s.ownNest_iff m).mpr hm)
    rw [State.nestBegun, hgoes]

/-! What a `nest` does to each element (R150). -/

theorem nestCtl_width (o : NestF) : 4 * o.ctl.e = 4 * (match o.cls with | .int => o.iwidth.toNat + 1 | .bf16 => 4 | .f32 => 8) := by
  rw [LaneCtl.e, NestF.ctl]
  cases o.cls <;> rfl

theorem nestCtl_format (o : NestF) : o.ctl.p = if o.cls = .bf16 then pBf else pF32 := by
  rw [LaneCtl.p]
  change (if o.cls == .bf16 then pBf else pF32) = _
  cases o.cls <;> rfl

/-- An element-wise operation by its floating-point and its integer side. -/
theorem NestSt.calc_of {n : NestSt} (h0 : n.fn ≠ 0) (a b d : Nat) : n.calc a b d =
    if n.o.ctl.fp then
      match n.fn with
      | 1 => addFp n.o.ctl.p n.o.ctl.rm a b
      | 2 => subFp n.o.ctl.p n.o.ctl.rm a b
      | 3 => mulFp n.o.ctl.p n.o.ctl.rm a b
      | 4 => minmaxFp n.o.ctl.p false a b
      | 5 => minmaxFp n.o.ctl.p true a b
      | _ => fmaFp n.o.ctl.p n.o.ctl.rm a b d
    else (n.o.ctl.fit (match n.fn with
      | 1 => n.o.ctl.rdInt a + n.o.ctl.rdInt b
      | 2 => n.o.ctl.rdInt a - n.o.ctl.rdInt b
      | 3 => n.o.ctl.rdInt a * n.o.ctl.rdInt b
      | 4 => if n.o.ctl.rdInt a ≤ n.o.ctl.rdInt b then n.o.ctl.rdInt a else n.o.ctl.rdInt b
      | 5 => if n.o.ctl.rdInt b ≤ n.o.ctl.rdInt a then n.o.ctl.rdInt a else n.o.ctl.rdInt b
      | _ => n.o.ctl.rdInt d + n.o.ctl.rdInt a * n.o.ctl.rdInt b), 0) := by
  rw [NestSt.calc, if_neg h0] <;> rfl

/-- How a block joins what a reduction has (R123, R124). -/
theorem NestSt.combine_fp {n : NestSt} (hfp : n.o.ctl.fp = true) (blk : List Nat) (acc : Nat) :
    ({ n with accSet := true, acc := (acc : Int) }.combine (blk.map some)).1 =
      ((fpOp n.redOp n.o.ctl.rm acc (tree (fpOp n.redOp n.o.ctl.rm) (fpIdent n.redOp) (blk.map fun x => (n.o.ctl.widen x).1)).1).1 : Int) := by
  rw [NestSt.combine]
  dsimp only
  rw [if_pos hfp, if_pos rfl, Int.toNat_natCast, List.map_map, List.map_map]
  rfl

theorem NestSt.combine_int {n : NestSt} (hfp : n.o.ctl.fp = false) (blk : List Nat) (acc : Int) :
    ({ n with accSet := true, acc := acc }.combine (blk.map some)).1 = blk.foldl (fun a x => intOp n.redOp a (n.o.ctl.redInt n.redOp x)) acc := by
  rw [NestSt.combine]
  dsimp only
  rw [if_neg (by rw [hfp]; decide), if_pos rfl, List.foldl_map]
  rfl

/-- An element-wise `nest` does `g` to floating-point elements, and to integers what `v` gives, fitted to the class. -/
def EachDoes (o : NestF) (g : Nat → Nat → Nat → Nat × Nat) (v : Int → Int → Int → Int) (n : NestSt) : Prop :=
  ∀ a b d, n.calc a b d = if o.ctl.fp then g a b d else (o.ctl.fit (v (o.ctl.rdInt a) (o.ctl.rdInt b) (o.ctl.rdInt d)), 0)

/-- A reduction joins by `g` the tree of a floating-point block, whose identity is `e`, and by `v` the integers of a block one by one. -/
def BlockDoes (o : NestF) (g : Nat → Nat → Nat × Nat) (e : Nat) (v : Int → Int → Int) (n : NestSt) : Prop :=
  ∀ (blk : List Nat) (acc : Nat) (r : Int),
    (o.ctl.fp = true → ({ n with accSet := true, acc := (acc : Int) }.combine (blk.map some)).1 =
      ((g acc (tree g e (blk.map fun x => (o.ctl.widen x).1)).1).1 : Int)) ∧
    (o.ctl.fp = false → ({ n with accSet := true, acc := r }.combine (blk.map some)).1 = blk.foldl (fun a x => v a (o.ctl.rdInt x)) r)

section
variable {n : NestSt} {o : NestF}

theorem eachDoes_add (hn : n.fn = 1) (ho : n.o = o) : EachDoes o (fun a b _ => addFp o.ctl.p o.rm a b) (fun a b _ => a + b) n := fun a b d => by
  subst ho
  rw [NestSt.calc_of (by rw [hn]; decide), hn]
  rfl
theorem eachDoes_sub (hn : n.fn = 2) (ho : n.o = o) : EachDoes o (fun a b _ => subFp o.ctl.p o.rm a b) (fun a b _ => a - b) n := fun a b d => by
  subst ho
  rw [NestSt.calc_of (by rw [hn]; decide), hn]
  rfl
theorem eachDoes_mul (hn : n.fn = 3) (ho : n.o = o) : EachDoes o (fun a b _ => mulFp o.ctl.p o.rm a b) (fun a b _ => a * b) n := fun a b d => by
  subst ho
  rw [NestSt.calc_of (by rw [hn]; decide), hn]
  rfl
theorem eachDoes_min (hn : n.fn = 4) (ho : n.o = o) : EachDoes o (fun a b _ => minmaxFp o.ctl.p false a b) (fun a b _ => if a ≤ b then a else b) n := fun a b d => by
  subst ho
  rw [NestSt.calc_of (by rw [hn]; decide), hn]
  rfl
theorem eachDoes_max (hn : n.fn = 5) (ho : n.o = o) : EachDoes o (fun a b _ => minmaxFp o.ctl.p true a b) (fun a b _ => if b ≤ a then a else b) n := fun a b d => by
  subst ho
  rw [NestSt.calc_of (by rw [hn]; decide), hn]
  rfl
theorem eachDoes_macc (hn : n.fn = 6) (ho : n.o = o) : EachDoes o (fun a b d => fmaFp o.ctl.p o.rm a b d) (fun a b d => d + a * b) n := fun a b d => by
  subst ho
  rw [NestSt.calc_of (by rw [hn]; decide), hn]
  rfl

theorem blockDoes_of {g : Nat → Nat → Nat × Nat} {e : Nat} {v : Int → Int → Int} (ho : n.o = o) (hg : fpOp n.redOp o.rm = g) (he : fpIdent n.redOp = e)
    (hv : ∀ a x, intOp n.redOp a (o.ctl.redInt n.redOp x) = v a (o.ctl.rdInt x)) : BlockDoes o g e v n := fun blk acc r => by
  subst ho hg he
  refine ⟨fun hfp => NestSt.combine_fp hfp blk acc, fun hfp => (NestSt.combine_int hfp blk r).trans ?_⟩
  simp only [hv]

theorem blockDoes_sum (hn : n.fn = 7) (ho : n.o = o) : BlockDoes o (fun x y => addFp pF32 o.rm x y) 0x80000000 (fun a x => a + x) n := by
  have hop : n.redOp = 0 := by rw [NestSt.redOp, hn]; rfl
  exact blockDoes_of ho (by rw [hop]; rfl) (by rw [hop]; rfl) fun _ _ => by rw [hop]; rfl
theorem blockDoes_max (hn : n.fn = 8) (ho : n.o = o) : BlockDoes o (fun x y => minmaxFp pF32 true x y) 0xff800000 (fun a x => if x ≤ a then a else x) n := by
  have hop : n.redOp = 2 := by rw [NestSt.redOp, hn]; rfl
  exact blockDoes_of ho (by rw [hop]; rfl) (by rw [hop]; rfl) fun _ _ => by rw [hop]; rfl
theorem blockDoes_min (hn : n.fn = 9) (ho : n.o = o) : BlockDoes o (fun x y => minmaxFp pF32 false x y) 0x7f800000 (fun a x => if a ≤ x then a else x) n := by
  have hop : n.redOp = 1 := by rw [NestSt.redOp, hn]; rfl
  exact blockDoes_of ho (by rw [hop]; rfl) (by rw [hop]; rfl) fun _ _ => by rw [hop]; rfl
end

/-- Settles O42: the ten operations begin in one way, and each does its own to an element or to a block. -/
theorem nestIssue : Obligations.NestIssue := by
  unfold Obligations.NestIssue
  intro h o s fresh mine starts fp w rd cut fmt each wide folds
  have hw : w = 4 * o.ctl.e := (nestCtl_width o).symm
  have hrd : rd = o.ctl.rdInt := by
    funext x
    change (if o.signed then sext x w else zext x w) = if o.signed then sext x (4 * o.ctl.e) else zext x (4 * o.ctl.e)
    rw [hw]
  have hcut : cut = o.ctl.fit := by
    funext r
    change trunc (if o.sat then clampTo w o.signed r else r) w = trunc (if o.sat then clampTo (4 * o.ctl.e) o.signed r else r) (4 * o.ctl.e)
    rw [hw]
  have hfmt : fmt = o.ctl.p := (nestCtl_format o).symm
  have hwide : wide = fun x => (o.ctl.widen x).1 := by
    funext x
    change (if o.cls = .bf16 then (bfToF32 x).1 else x) = (if o.cls == .bf16 then bfToF32 x else (x, 0)).1
    cases o.cls <;> rfl
  have heach : each = EachDoes o := by
    funext g v n
    change (∀ a b d, n.calc a b d = if fp then g a b d else (cut (v (rd a) (rd b) (rd d)), 0)) = _
    rw [hcut, hrd]
    rfl
  have hfolds : folds = BlockDoes o := by
    funext g e v n
    change (∀ (blk : List Nat) (acc : Nat) (r : Int),
      (fp = true → ({ n with accSet := true, acc := (acc : Int) }.combine (blk.map some)).1 = ((g acc (tree g e (blk.map wide)).1).1 : Int)) ∧
      (fp = false → ({ n with accSet := true, acc := r }.combine (blk.map some)).1 = blk.foldl (fun a x => v a (rd x)) r)) = _
    rw [hwide, hrd]
    rfl
  have hstarts {fn : Nat} {i : Instr} {does : NestSt → Prop} (hf : footOf i s = s.nestFoot fn o) (he : exec i s = s.nest h fn o)
      (hdoes : ∀ n : NestSt, n.fn = fn → n.o = o → does n) : starts fn i does := State.nest_starts hf he hdoes
  rw [heach, hfolds, hfmt]
  exact ⟨hstarts rfl rfl fun n hn _ a b d => by rw [NestSt.calc, if_pos hn], hstarts rfl rfl fun _ => eachDoes_add, hstarts rfl rfl fun _ => eachDoes_sub,
    hstarts rfl rfl fun _ => eachDoes_mul, hstarts rfl rfl fun _ => eachDoes_min, hstarts rfl rfl fun _ => eachDoes_max, hstarts rfl rfl fun _ => eachDoes_macc,
    hstarts rfl rfl fun _ => blockDoes_sum, hstarts rfl rfl fun _ => blockDoes_max, hstarts rfl rfl fun _ => blockDoes_min⟩

end Sys2Proof.Machine
end

section
/-!
SUPPORT and PROOFS. Ways through the network (R282, R285): O53.
-/

namespace Sys2Proof.Machine

/-! ### Torus directions (R282) -/

theorem rowOf_lt (t : Nat) : rowOf t < 16 := Nat.mod_lt _ (by decide)
theorem colOf_lt (t : Nat) : colOf t < 16 := Nat.mod_lt _ (by decide)

theorem rowOf_tileAt (d r c : Nat) : rowOf (tileAt d r c) = r % 16 := by
  rw [rowOf, tileAt]
  omega
theorem colOf_tileAt (d r c : Nat) : colOf (tileAt d r c) = c % 16 := by
  rw [colOf, tileAt]
  omega

/-- One hop along a ring of 16 comes nearer where the way on that side is not the longer. -/
theorem ringDist_up : ∀ a b : Fin 16, (ringDist ((a.val + 1) % 16) b.val + 1 = ringDist a.val b.val ↔
    1 ≤ (b.val + 16 - a.val) % 16 ∧ (b.val + 16 - a.val) % 16 ≤ 8) := by decide
theorem ringDist_down : ∀ a b : Fin 16, (ringDist ((a.val + 15) % 16) b.val + 1 = ringDist a.val b.val ↔ 8 ≤ (b.val + 16 - a.val) % 16) := by decide

theorem hops_east {d q x : Nat} : hops (tileAt d (rowOf q) (colOf q + 1)) x + 1 = hops q x ↔
    1 ≤ (colOf x + 16 - colOf q) % 16 ∧ (colOf x + 16 - colOf q) % 16 ≤ 8 := by
  rw [hops, hops, rowOf_tileAt, colOf_tileAt, Nat.mod_eq_of_lt (rowOf_lt q), ← ringDist_up ⟨colOf q, colOf_lt q⟩ ⟨colOf x, colOf_lt x⟩]
  dsimp only
  omega
theorem hops_west {d q x : Nat} : hops (tileAt d (rowOf q) (colOf q + 15)) x + 1 = hops q x ↔ 8 ≤ (colOf x + 16 - colOf q) % 16 := by
  rw [hops, hops, rowOf_tileAt, colOf_tileAt, Nat.mod_eq_of_lt (rowOf_lt q), ← ringDist_down ⟨colOf q, colOf_lt q⟩ ⟨colOf x, colOf_lt x⟩]
  dsimp only
  omega
theorem hops_south {d q x : Nat} : hops (tileAt d (rowOf q + 1) (colOf q)) x + 1 = hops q x ↔
    1 ≤ (rowOf x + 16 - rowOf q) % 16 ∧ (rowOf x + 16 - rowOf q) % 16 ≤ 8 := by
  rw [hops, hops, rowOf_tileAt, colOf_tileAt, Nat.mod_eq_of_lt (colOf_lt q), ← ringDist_up ⟨rowOf q, rowOf_lt q⟩ ⟨rowOf x, rowOf_lt x⟩]
  dsimp only
  omega
theorem hops_north {d q x : Nat} : hops (tileAt d (rowOf q + 15) (colOf q)) x + 1 = hops q x ↔ 8 ≤ (rowOf x + 16 - rowOf q) % 16 := by
  rw [hops, hops, rowOf_tileAt, colOf_tileAt, Nat.mod_eq_of_lt (colOf_lt q), ← ringDist_down ⟨rowOf q, rowOf_lt q⟩ ⟨rowOf x, rowOf_lt x⟩]
  dsimp only
  omega

/-- A direction along a ring is productive by the way that is left on that side. -/
theorem mem_side (n a b o : Nat) : o ∈ (if n = 0 then [] else if n < 8 then [a] else if n = 8 then [a, b] else [b]) ↔
    (o = a ∧ 1 ≤ n ∧ n ≤ 8) ∨ (o = b ∧ 8 ≤ n) := by
  split_ifs <;> simp only [List.not_mem_nil, List.mem_cons, or_false, false_iff] <;> omega

theorem mem_torusDirs (q x o : Nat) : o ∈ torusDirs q x ↔
    (o = 2 ∧ 1 ≤ (colOf x + 16 - colOf q) % 16 ∧ (colOf x + 16 - colOf q) % 16 ≤ 8) ∨ (o = 0 ∧ 8 ≤ (colOf x + 16 - colOf q) % 16) ∨
    (o = 3 ∧ 1 ≤ (rowOf x + 16 - rowOf q) % 16 ∧ (rowOf x + 16 - rowOf q) % 16 ≤ 8) ∨ (o = 1 ∧ 8 ≤ (rowOf x + 16 - rowOf q) % 16) := by
  rw [torusDirs, List.mem_append, mem_side _ 2 0 o, mem_side _ 3 1 o, or_assoc]

theorem torusDirs_productive (q x o : Nat) : o ∈ torusDirs q x ↔ o < 4 ∧ hops (acrossPort q o).1 x + 1 = hops q x := by
  rw [mem_torusDirs]
  match o with
  | 0 => rw [show (acrossPort q 0).1 = tileAt (dieOf q) (rowOf q) (colOf q + 15) from rfl, hops_west]; simp
  | 1 => rw [show (acrossPort q 1).1 = tileAt (dieOf q) (rowOf q + 15) (colOf q) from rfl, hops_north]; simp
  | 2 => rw [show (acrossPort q 2).1 = tileAt (dieOf q) (rowOf q) (colOf q + 1) from rfl, hops_east]; simp
  | 3 => rw [show (acrossPort q 3).1 = tileAt (dieOf q) (rowOf q + 1) (colOf q) from rfl, hops_south]; simp
  | o + 4 => exact ⟨fun h => by omega, fun h => by omega⟩

/-! ### The ring of the acorn (R285) -/

/-- The place of a die in the ring, and the die at a place. -/
def dieRank (d : Nat) : Nat := if d = 2 then 3 else if d = 3 then 2 else d

/-- The place of a stop in the ring: die by die, its rows there and back. -/
def ringPlace (p : Nat) : Nat := 256 * dieRank (p / 256) + 16 * (p / 16 % 16) + if p / 16 % 2 = 0 then p % 16 else 15 - p % 16

/-- The stop at a place of the ring. -/
def ringStop (k : Nat) : Nat := 256 * dieRank (k / 256) + 16 * (k / 16 % 16) + if k / 16 % 2 = 0 then k % 16 else 15 - k % 16

theorem dieRank_dieRank {d : Nat} (h : d < 4) : dieRank (dieRank d) = d := by
  match d, h with
  | 0, _ | 1, _ | 2, _ | 3, _ => rfl

theorem dieRank_lt {d : Nat} (h : d < 4) : dieRank d < 4 := by
  match d, h with
  | 0, _ | 1, _ | 2, _ | 3, _ => decide

theorem ringStop_ringPlace {p : Nat} (h : p < 1024) : ringStop (ringPlace p) = p := by
  have hd : p / 256 < 4 := by omega
  have hrank := dieRank_dieRank hd
  have hplace : ringPlace p / 256 = dieRank (p / 256) ∧ ringPlace p / 16 % 16 = p / 16 % 16 ∧
      ringPlace p % 16 = if p / 16 % 2 = 0 then p % 16 else 15 - p % 16 := by
    rw [ringPlace]
    split <;> omega
  obtain ⟨hdie, hrow, hcol⟩ := hplace
  have hpar : ringPlace p / 16 % 2 = p / 16 % 2 := by omega
  rw [ringStop, hdie, hrow, hpar, hcol, hrank]
  split <;> omega

theorem ringPlace_lt {p : Nat} (h : p < 1024) : ringPlace p < 1024 := by
  have hrank := dieRank_lt (show p / 256 < 4 by omega)
  rw [ringPlace]
  split <;> omega

/-- The die behind a die in the ring. -/
def dieNext (d : Nat) : Nat := match d with | 0 => 1 | 1 => 3 | 3 => 2 | _ => 0

theorem dieNext_lt {d : Nat} (h : d < 4) : dieNext d < 4 := by
  match d, h with
  | 0, _ | 1, _ | 2, _ | 3, _ => decide

theorem dieRank_dieNext {d : Nat} (h : d < 4) : dieRank (dieNext d) = (dieRank d + 1) % 4 := by
  match d, h with
  | 0, _ | 1, _ | 2, _ | 3, _ => rfl

theorem ringPlace_tileAt {d r c : Nat} (hr : r < 16) (hc : c < 16) : ringPlace (tileAt d r c) = 256 * dieRank d + 16 * r + if r % 2 = 0 then c else 15 - c := by
  have hparts : tileAt d r c / 256 = d ∧ tileAt d r c / 16 % 16 = r ∧ tileAt d r c % 16 = c := by
    rw [tileAt]
    omega
  obtain ⟨hdie, hrow, hcol⟩ := hparts
  have hpar : tileAt d r c / 16 % 2 = r % 2 := by omega
  rw [ringPlace, hdie, hrow, hcol, hpar]

/-- The stop behind a stop: along its row, on to the next row, or to the next die. -/
theorem acornNext_tileAt {d r c : Nat} (hr : r < 16) (hc : c < 16) : (acornNext (tileAt d r c)).1 =
    if r % 2 = 0 then (if c < 15 then tileAt d r (c + 1) else tileAt d (r + 1) c)
    else if 0 < c then tileAt d r (c - 1) else if r < 15 then tileAt d (r + 1) 0 else tileAt (dieNext d) 0 0 := by
  have hparts : dieOf (tileAt d r c) = d ∧ rowOf (tileAt d r c) = r ∧ colOf (tileAt d r c) = c := by
    rw [dieOf, rowOf_tileAt, colOf_tileAt, tileAt]
    omega
  obtain ⟨hdie, hrow, hcol⟩ := hparts
  have hup : c < 15 → tileAt d r c + 1 = tileAt d r (c + 1) := fun h => by
    rw [tileAt, tileAt]
    omega
  have hdown : 0 < c → tileAt d r c - 1 = tileAt d r (c - 1) := fun h => by
    rw [tileAt, tileAt]
    omega
  unfold acornNext
  simp only [hdie, hrow, hcol]
  split
  · split
    · next h => exact hup h
    · rfl
  · split
    · next h => exact hdown h
    · split <;> rfl

theorem tileAt_parts (p : Nat) : tileAt (dieOf p) (rowOf p) (colOf p) = p := by
  rw [tileAt, dieOf, rowOf, colOf]
  omega

theorem tileAt_lt {d r c : Nat} (hd : d < 4) : tileAt d r c < 1024 := by
  rw [tileAt]
  omega

theorem acornNext_lt {p : Nat} (h : p < 1024) : (acornNext p).1 < 1024 := by
  have hd : dieOf p < 4 := by
    rw [dieOf]
    omega
  rw [← tileAt_parts p, acornNext_tileAt (rowOf_lt p) (colOf_lt p)]
  split_ifs
  · exact tileAt_lt hd
  · exact tileAt_lt hd
  · exact tileAt_lt hd
  · exact tileAt_lt hd
  · exact tileAt_lt (dieNext_lt hd)

/-- The stop behind a stop has the next place, and the last comes back to the first. -/
theorem ringPlace_acornNext {p : Nat} (h : p < 1024) : ringPlace (acornNext p).1 = (ringPlace p + 1) % 1024 := by
  have hd : dieOf p < 4 := by
    rw [dieOf]
    omega
  have hr := rowOf_lt p
  have hc := colOf_lt p
  have hrank := dieRank_lt hd
  have hnext := dieRank_dieNext hd
  rw [← tileAt_parts p, acornNext_tileAt hr hc, ringPlace_tileAt hr hc]
  generalize dieOf p = d at *
  generalize rowOf p = r at *
  generalize colOf p = c at *
  by_cases heven : r % 2 = 0
  · rw [if_pos heven, if_pos heven]
    by_cases hend : c < 15
    · rw [if_pos hend, ringPlace_tileAt hr (by omega), if_pos heven]
      omega
    · rw [if_neg hend, ringPlace_tileAt (by omega) hc, if_neg (by omega)]
      omega
  · rw [if_neg heven, if_neg heven]
    by_cases hend : 0 < c
    · rw [if_pos hend, ringPlace_tileAt hr (by omega), if_neg heven]
      omega
    · rw [if_neg hend]
      by_cases hrow : r < 15
      · rw [if_pos hrow, ringPlace_tileAt (by omega) (by decide), if_pos (by omega)]
        omega
      · rw [if_neg hrow, ringPlace_tileAt (by decide) (by decide), hnext, if_pos rfl]
        omega

theorem acornNext_inj {p q : Nat} (hp : p < 1024) (hq : q < 1024) (h : (acornNext p).1 = (acornNext q).1) : p = q := by
  have hplace := congrArg ringPlace h
  rw [ringPlace_acornNext hp, ringPlace_acornNext hq] at hplace
  have hp' := ringPlace_lt hp
  have hq' := ringPlace_lt hq
  have heq : ringPlace p = ringPlace q := by omega
  rw [← ringStop_ringPlace hp, heq, ringStop_ringPlace hq]

/-- After `k` hops from stop 0 the acorn is at the stop of place `k`. -/
theorem acorn_after {k : Nat} (hk : k < 1024) : let p := (List.range k).foldl (fun p _ => (acornNext p).1) 0
    p < 1024 ∧ ringPlace p = k := by
  induction k with
  | zero => exact ⟨by decide, rfl⟩
  | succ k ih =>
    obtain ⟨hlt, hplace⟩ := ih (by omega)
    rw [List.range_succ, List.foldl_append]
    exact ⟨acornNext_lt hlt, by rw [List.foldl_cons, List.foldl_nil, ringPlace_acornNext hlt, hplace]; omega⟩

/-- Settles O53: the torus directions are the productive ones, and the acorn's ring has one place for each stop. -/
theorem ways : Obligations.Ways := by
  refine ⟨fun q x o _ _ _ => torusDirs_productive q x o, fun p hp => acornNext_lt hp, fun p q hp hq h => acornNext_inj hp hq h, fun q hq => ?_⟩
  obtain ⟨hlt, hplace⟩ := acorn_after (ringPlace_lt hq)
  exact ⟨ringPlace q, ringPlace_lt hq, (ringStop_ringPlace hlt).symm.trans ((congrArg ringStop hplace).trans (ringStop_ringPlace hq))⟩

end Sys2Proof.Machine
end

section
/-!
SUPPORT. The real numbers that floating-point data stand for (R105, R106), their order and their sum.
-/

namespace Sys2Proof.Machine

/-- The sign of a datum as a factor. -/
noncomputable def signOf (s : Bool) : ℝ := if s then -1 else 1

/-- The real number of a finite datum; 0 for another. -/
noncomputable def Fp.value : Fp → ℝ
  | .fin s m e => signOf s * (m : ℝ) * (2 : ℝ) ^ e
  | _ => 0

theorem Fp.is_fin (s : Bool) (m : Nat) (e : Int) (v : ℝ) : (Fp.fin s m e).Is v ↔ v = (Fp.fin s m e).value := by
  rw [Fp.Is, Fp.value, signOf]

theorem signOf_not (s : Bool) : signOf (!s) = -signOf s := by
  cases s <;> simp [signOf]

theorem two_zpow_pos (e : Int) : (0 : ℝ) < 2 ^ e := zpow_pos (by norm_num) e

/-- A number in units of a smaller power of two. -/
theorem units_value (m : Nat) {e d : Int} (h : d ≤ e) : ((m * 2 ^ (e - d).toNat : Nat) : ℝ) * 2 ^ d = m * (2 : ℝ) ^ e := by
  have hsub : (((e - d).toNat : Int)) = e - d := Int.toNat_of_nonneg (by omega)
  rw [Nat.cast_mul, Nat.cast_pow, Nat.cast_ofNat, ← zpow_natCast, hsub, mul_assoc, ← zpow_add₀ (by norm_num : (2 : ℝ) ≠ 0), sub_add_cancel]

/-- The sum of two finite data is exact (R106). -/
theorem addDy_value (s t : Bool) (m n : Nat) (e f : Int) :
    ((addDy s m e t n f).1 : ℝ) * 2 ^ (addDy s m e t n f).2 = (Fp.fin s m e).value + (Fp.fin t n f).value := by
  have hm := units_value m (min_le_left e f)
  have hn := units_value n (min_le_right e f)
  rw [addDy, Fp.value, Fp.value, mul_assoc, mul_assoc, ← hm, ← hn]
  cases s <;> cases t <;> simp [signOf] <;> ring

/-- Comparing finite data compares their numbers. -/
theorem Fp.lt_fin (s t : Bool) (m n : Nat) (e f : Int) : (Fp.fin s m e).lt (.fin t n f) = true ↔ (Fp.fin s m e).value < (Fp.fin t n f).value := by
  have hsum := addDy_value t (!s) n m f e
  have hneg : (Fp.fin (!s) m e).value = -(Fp.fin s m e).value := by
    rw [Fp.value, Fp.value, signOf_not]
    ring
  have hpos := two_zpow_pos (addDy t n f (!s) m e).2
  rw [Fp.lt, decide_eq_true_eq, ← Int.cast_pos (R := ℝ), ← mul_pos_iff_of_pos_right hpos, hsum, hneg]
  constructor <;> intro h <;> linarith

/-- Where a datum lies: below, on or above the real line (R105). -/
noncomputable def Fp.spot : Fp → EReal
  | .inf s => if s then ⊥ else ⊤
  | x => (x.value : EReal)

/-- Comparing data that are no NaNs compares where they lie. -/
theorem Fp.lt_iff {a b : Fp} (ha : a.isNan = false) (hb : b.isNan = false) : a.lt b = true ↔ a.spot < b.spot := by
  match a, b, ha, hb with
  | .inf s, .inf t, _, _ => cases s <;> cases t <;> simp [Fp.lt, Fp.spot]
  | .inf s, .fin t n f, _, _ => cases s <;> simp [Fp.lt, Fp.spot]
  | .fin s m e, .inf t, _, _ => cases t <;> simp [Fp.lt, Fp.spot]
  | .fin s m e, .fin t n f, _, _ =>
    change _ ↔ ((Fp.fin s m e).value : EReal) < ((Fp.fin t n f).value : EReal)
    rw [Fp.lt_fin, EReal.coe_lt_coe_iff]

end Sys2Proof.Machine
end

section
/-!
SUPPORT and PROOFS. Lists of scored entries (R296): the order of their entries, their 64 bytes, and merging.
-/

namespace Sys2Proof.Machine

/-- The place of an entry in the order of R296: NaNs last, then by descending score, then by ascending id. -/
noncomputable def rankKey (p : Nat × Nat) : ℕ ×ₗ (ERealᵒᵈ ×ₗ ℕ) :=
  toLex ((fpDec pF32 p.1).isNan.toNat, toLex (OrderDual.toDual (fpDec pF32 p.1).spot, p.2))

theorem Fp.spot_of_isNan {x : Fp} (h : x.isNan = true) : x.spot = 0 := by
  cases x <;> simp_all [Fp.isNan, Fp.spot, Fp.value]

/-- The order of entries is that of their places. -/
theorem rankLe_iff (p q : Nat × Nat) : rankLe p q = true ↔ rankKey p ≤ rankKey q := by
  rw [rankKey, rankKey, Prod.Lex.toLex_le_toLex, Prod.Lex.toLex_le_toLex, rankLe]
  dsimp only
  cases hp : (fpDec pF32 p.1).isNan <;> cases hq : (fpDec pF32 q.1).isNan
  · have hlt := Fp.lt_iff hp hq
    have hgt := Fp.lt_iff hq hp
    rw [OrderDual.toDual_lt_toDual, OrderDual.toDual_inj]
    rcases lt_trichotomy (fpDec pF32 p.1).spot (fpDec pF32 q.1).spot with h | h | h
    · simp [hlt.2 h, Bool.eq_false_iff.2 (mt hgt.1 h.not_gt), h.not_gt, h.ne]
    · simp [Bool.eq_false_iff.2 (mt hlt.1 (h ▸ lt_irrefl _)), Bool.eq_false_iff.2 (mt hgt.1 (h ▸ lt_irrefl _)), h]
    · simp [hgt.2 h, h]
  · simp
  · simp
  · simp [Fp.spot_of_isNan hp, Fp.spot_of_isNan hq]

theorem rankLe_total (p q : Nat × Nat) : rankLe p q = true ∨ rankLe q p = true := by
  rw [rankLe_iff, rankLe_iff]
  exact le_total _ _

theorem rankLe_trans (p q r : Nat × Nat) (h : rankLe p q = true) (h' : rankLe q r = true) : rankLe p r = true := by
  rw [rankLe_iff] at *
  exact h.trans h'

/-- The entry of the higher score is the earlier one. -/
theorem rankLe_of_score {p q : Nat × Nat} (h : (fpDec pF32 q.1).lt (fpDec pF32 p.1) = true) : rankLe p q = true ∧ rankLe q p = false := by
  have hp : (fpDec pF32 p.1).isNan = false := by
    cases hx : fpDec pF32 p.1 <;> cases hy : fpDec pF32 q.1 <;> simp_all [Fp.lt, Fp.isNan]
  have hq : (fpDec pF32 q.1).isNan = false := by
    cases hx : fpDec pF32 q.1 <;> simp_all [Fp.lt, Fp.isNan]
  have hlt : ¬ (fpDec pF32 p.1).lt (fpDec pF32 q.1) = true := by
    rw [Fp.lt_iff hp hq]
    exact ((Fp.lt_iff hq hp).1 h).not_gt
  simp [rankLe, hp, hq, h, hlt]

theorem rankLe_of_nan {p q : Nat × Nat} (hp : (fpDec pF32 p.1).isNan = false) (hq : (fpDec pF32 q.1).isNan = true) :
    rankLe p q = true ∧ rankLe q p = false := by
  simp [rankLe, hp, hq]

theorem rankLe_of_tie {p q : Nat × Nat} (hp : (fpDec pF32 p.1).isNan = false) (hq : (fpDec pF32 q.1).isNan = false)
    (h : (fpDec pF32 p.1).lt (fpDec pF32 q.1) = false) (h' : (fpDec pF32 q.1).lt (fpDec pF32 p.1) = false) : rankLe p q = true ↔ p.2 ≤ q.2 := by
  simp [rankLe, hp, hq, h, h']

/-! The 64 bytes of a list. -/

/-- The number that entries make, 6 bytes each, the first lowest. -/
def entryBits : List (Nat × Nat) → Nat
  | [] => 0
  | p :: r => p.2 + p.1 * 2 ^ 16 + 2 ^ 48 * entryBits r

/-- Entries whose scores and ids have the widths of their fields. -/
def Narrow (es : List (Nat × Nat)) : Prop := ∀ p ∈ es, p.1 < 2 ^ 32 ∧ p.2 < 2 ^ 16

theorem Narrow.head {p : Nat × Nat} {r : List (Nat × Nat)} (h : Narrow (p :: r)) : p.1 < 2 ^ 32 ∧ p.2 < 2 ^ 16 := h p List.mem_cons_self

theorem Narrow.tail {p : Nat × Nat} {r : List (Nat × Nat)} (h : Narrow (p :: r)) : Narrow r := fun q hq => h q (List.mem_cons_of_mem _ hq)

theorem foldl_entryBits (es : List (Nat × Nat)) (i m : Nat) :
    (es.zipIdx i).foldl (fun m e => m + (e.1.2 + e.1.1 * 2 ^ 16) * 2 ^ (48 * e.2)) m = m + 2 ^ (48 * i) * entryBits es := by
  induction es generalizing i m with
  | nil => rw [List.zipIdx_nil, List.foldl_nil, entryBits, Nat.mul_zero, Nat.add_zero]
  | cons p r ih =>
    rw [List.zipIdx_cons, List.foldl_cons, ih, entryBits, show 48 * (i + 1) = 48 * i + 48 by omega, Nat.pow_add]
    ring

theorem entryBits_lt {es : List (Nat × Nat)} (h : Narrow es) : entryBits es < 2 ^ (48 * es.length) := by
  induction es with
  | nil => exact Nat.one_pos
  | cons p r ih =>
    obtain ⟨hs, hi⟩ := h.head
    have hr := ih h.tail
    rw [entryBits, List.length_cons, show 48 * (r.length + 1) = 48 * r.length + 48 by omega, Nat.pow_add]
    generalize 2 ^ (48 * r.length) = T at hr
    omega

/-- Six bytes further on stand the later entries. -/
theorem fld_entryBits_cons {p : Nat × Nat} {r : List (Nat × Nat)} (h : Narrow (p :: r)) (X lo n : Nat) :
    fld (entryBits (p :: r) + 2 ^ (48 * (p :: r).length) * X) (48 + lo) n = fld (entryBits r + 2 ^ (48 * r.length) * X) lo n := by
  obtain ⟨hs, hi⟩ := h.head
  have hdiv : (entryBits (p :: r) + 2 ^ (48 * (p :: r).length) * X) / 2 ^ 48 = entryBits r + 2 ^ (48 * r.length) * X := by
    rw [entryBits, List.length_cons, show 48 * (r.length + 1) = 48 + 48 * r.length by omega, Nat.pow_add, Nat.mul_assoc]
    generalize 2 ^ (48 * r.length) * X = T
    omega
  rw [fld, fld, Nat.pow_add, ← Nat.div_div_eq_div_mul, hdiv]

theorem fld_entryBits_id {es : List (Nat × Nat)} (h : Narrow es) (X : Nat) {i : Nat} (hi : i < es.length) :
    fld (entryBits es + 2 ^ (48 * es.length) * X) (48 * i) 16 = es[i].2 := by
  induction es generalizing i with
  | nil => simp at hi
  | cons p r ih =>
    cases i with
    | zero =>
      obtain ⟨hs, hid⟩ := h.head
      rw [entryBits, List.length_cons, show 48 * (r.length + 1) = 48 + 48 * r.length by omega, Nat.pow_add, Nat.mul_assoc, List.getElem_cons_zero, fld]
      generalize 2 ^ (48 * r.length) * X = T
      omega
    | succ j =>
      rw [show 48 * (j + 1) = 48 + 48 * j by omega, fld_entryBits_cons h, ih h.tail, List.getElem_cons_succ]

theorem fld_entryBits_score {es : List (Nat × Nat)} (h : Narrow es) (X : Nat) {i : Nat} (hi : i < es.length) :
    fld (entryBits es + 2 ^ (48 * es.length) * X) (48 * i + 16) 32 = es[i].1 := by
  induction es generalizing i with
  | nil => simp at hi
  | cons p r ih =>
    cases i with
    | zero =>
      obtain ⟨hs, hid⟩ := h.head
      rw [entryBits, List.length_cons, show 48 * (r.length + 1) = 48 + 48 * r.length by omega, Nat.pow_add, Nat.mul_assoc, List.getElem_cons_zero, fld]
      generalize 2 ^ (48 * r.length) * X = T
      omega
    | succ j =>
      rw [show 48 * (j + 1) + 16 = 48 + (48 * j + 16) by omega, fld_entryBits_cons h, ih h.tail, List.getElem_cons_succ]

/-- The last 16 bytes of a list: its length, its k, its round and its leaves. -/
def listHead (leaves round k n : Nat) : Nat := packF [(16, n), (8, k), (8, round), (32, leaves)]

/-- A list's bytes are its entries and, behind them, its last 16 bytes. -/
theorem listOf_toNat {leaves round k : Nat} {es : List (Nat × Nat)} (hes : Narrow es) (hn : es.length ≤ 8) (hround : round < 2 ^ 8) (hk : k < 2 ^ 8) :
    (listOf leaves round k es).toNat = entryBits es + 2 ^ 384 * listHead leaves round k es.length := by
  have hbits : entryBits es < 2 ^ 384 := (entryBits_lt hes).trans_le (Nat.pow_le_pow_right Nat.two_pos (Nat.mul_le_mul_left 48 hn))
  rw [listOf, BitVec.toNat_ofNat, foldl_entryBits, listHead]
  simp only [packF]
  omega

theorem fld_listOf_high {leaves round k : Nat} {es : List (Nat × Nat)} (hes : Narrow es) (hn : es.length ≤ 8) (hround : round < 2 ^ 8) (hk : k < 2 ^ 8) (lo n : Nat) :
    fld (listOf leaves round k es).toNat (384 + lo) n = fld (listHead leaves round k es.length) lo n := by
  have hbits : entryBits es < 2 ^ 384 := (entryBits_lt hes).trans_le (Nat.pow_le_pow_right Nat.two_pos (Nat.mul_le_mul_left 48 hn))
  rw [listOf_toNat hes hn hround hk, fld, fld, Nat.pow_add, ← Nat.div_div_eq_div_mul, Nat.add_mul_div_left _ _ (Nat.two_pow_pos 384), Nat.div_eq_of_lt hbits, Nat.zero_add]

theorem fld_listOf_low {leaves round k : Nat} {es : List (Nat × Nat)} (hes : Narrow es) (hn : es.length ≤ 8) (hround : round < 2 ^ 8) (hk : k < 2 ^ 8) :
    ∃ X, (listOf leaves round k es).toNat = entryBits es + 2 ^ (48 * es.length) * X := by
  refine ⟨2 ^ (384 - 48 * es.length) * listHead leaves round k es.length, ?_⟩
  rw [listOf_toNat hes hn hround hk, ← Nat.mul_assoc, ← Nat.pow_add, show 48 * es.length + (384 - 48 * es.length) = 384 by omega]

/-- The length, k, round and leaves of a list. -/
theorem listOf_fields {leaves round k : Nat} {es : List (Nat × Nat)} (hes : Narrow es) (hn : es.length ≤ 8) (hround : round < 2 ^ 8) (hk : k < 2 ^ 8) :
    fld (listOf leaves round k es).toNat 384 16 = es.length ∧ fld (listOf leaves round k es).toNat 400 8 = k ∧
      fld (listOf leaves round k es).toNat 408 8 = round ∧ fld (listOf leaves round k es).toNat 416 32 = leaves % 2 ^ 32 := by
  have hhigh := fld_listOf_high (leaves := leaves) hes hn hround hk
  refine ⟨(hhigh 0 16).trans ?_, (hhigh 16 8).trans ?_, (hhigh 24 8).trans ?_, (hhigh 32 32).trans ?_⟩ <;>
    rw [listHead] <;> simp [fld_packF_head, fld_packF_skip] <;> omega

/-- A list gives its entries back. -/
theorem listEntries_listOf {leaves round k : Nat} {es : List (Nat × Nat)} (hes : Narrow es) (hn : es.length ≤ 8) (hround : round < 2 ^ 8) (hk : k < 2 ^ 8) :
    listEntries (listOf leaves round k es).toNat = es := by
  obtain ⟨hlen, -, -, -⟩ := listOf_fields (leaves := leaves) hes hn hround hk
  obtain ⟨X, hX⟩ := fld_listOf_low (leaves := leaves) hes hn hround hk
  have hmin : min 8 es.length = es.length := by omega
  apply List.ext_getElem
  · rw [listEntries, List.length_map, List.length_range, hlen, hmin]
  · intro i h₁ h₂
    simp only [listEntries, List.getElem_map, List.getElem_range]
    rw [hX, fld_entryBits_score hes X h₂, fld_entryBits_id hes X h₂]

/-- What a list holds has the widths of its fields. -/
theorem listEntries_narrow (l : Nat) : Narrow (listEntries l) := by
  intro p hp
  obtain ⟨i, -, rfl⟩ := List.mem_map.1 hp
  exact ⟨fld_lt _ _ _, fld_lt _ _ _⟩

/-! Merging. -/

/-- All entries of two lists in their order. -/
def ranked (a b : BitVec 512) : List (Nat × Nat) := (listEntries a.toNat ++ listEntries b.toNat).mergeSort rankLe

/-- The best of all entries, as many as the smaller k. -/
def best (a b : BitVec 512) : List (Nat × Nat) := (ranked a b).take (min (fld a.toNat 400 8) (fld b.toNat 400 8))

theorem ranked_perm (a b : BitVec 512) : (ranked a b).Perm (listEntries a.toNat ++ listEntries b.toNat) := List.mergeSort_perm _ _

theorem ranked_pairwise (a b : BitVec 512) : (ranked a b).Pairwise (fun p q => rankLe p q = true) :=
  List.pairwise_mergeSort (fun p q r => rankLe_trans p q r) (fun p q => by simpa using rankLe_total p q) _

theorem best_narrow (a b : BitVec 512) : Narrow (best a b) := by
  intro p hp
  have hmem := (ranked_perm a b).mem_iff.1 (List.mem_of_mem_take hp)
  exact (List.mem_append.1 hmem).elim (listEntries_narrow _ p) (listEntries_narrow _ p)

theorem best_length (a b : BitVec 512) :
    (best a b).length = min (min (fld a.toNat 400 8) (fld b.toNat 400 8)) (listEntries a.toNat ++ listEntries b.toNat).length := by
  rw [best, List.length_take, (ranked_perm a b).length_eq]

section
variable {a b : BitVec 512} (hk : fld a.toNat 400 8 ≤ 8)
include hk

theorem best_length_le : (best a b).length ≤ 8 := by
  rw [best_length]
  omega

/-- What a merged list holds is the best of both. -/
theorem listEntries_mergeLists : listEntries (mergeLists a b).toNat = best a b :=
  listEntries_listOf (best_narrow a b) (best_length_le hk) (fld_lt _ _ _) (by omega)

theorem mergeLists_fields : fld (mergeLists a b).toNat 384 16 = (best a b).length ∧
    fld (mergeLists a b).toNat 416 32 = (fld a.toNat 416 32 + fld b.toNat 416 32) % 2 ^ 32 ∧ fld (mergeLists a b).toNat 408 8 = fld a.toNat 408 8 := by
  obtain ⟨hlen, -, hround, hleaves⟩ := listOf_fields (leaves := fld a.toNat 416 32 + fld b.toNat 416 32) (best_narrow a b) (best_length_le hk)
    (fld_lt a.toNat 408 8) (show min (fld a.toNat 400 8) (fld b.toNat 400 8) < 2 ^ 8 by omega)
  exact ⟨hlen, hleaves, hround⟩

end

theorem best_pairwise (a b : BitVec 512) : (best a b).Pairwise (fun p q => rankLe p q = true) := (ranked_pairwise a b).sublist (List.take_sublist _ _)

theorem best_subperm (a b : BitVec 512) : (best a b).Subperm (listEntries a.toNat ++ listEntries b.toNat) :=
  (List.take_sublist _ _).subperm.trans (ranked_perm a b).subperm

/-- What is left out comes behind what is kept. -/
theorem best_before (a b : BitVec 512) {e k : Nat × Nat} (he : e ∈ listEntries a.toNat ++ listEntries b.toNat) (hout : e ∉ best a b) (hin : k ∈ best a b) :
    rankLe k e = true := by
  have hmem := (ranked_perm a b).mem_iff.2 he
  have hsplit := List.take_append_drop (min (fld a.toNat 400 8) (fld b.toNat 400 8)) (ranked a b)
  have hdrop : e ∈ (ranked a b).drop (min (fld a.toNat 400 8) (fld b.toNat 400 8)) := by
    rw [← hsplit, List.mem_append] at hmem
    exact hmem.resolve_left hout
  have hpair := ranked_pairwise a b
  rw [← hsplit] at hpair
  exact (List.pairwise_append.1 hpair).2.2 k hin e hdrop

/-- The order in which two lists come does not change the ranks. -/
theorem ranked_comm_key (a b : BitVec 512) : (ranked a b).map rankKey = (ranked b a).map rankKey := by
  have hperm : (ranked a b).Perm (ranked b a) := (ranked_perm a b).trans (List.perm_append_comm.trans (ranked_perm b a).symm)
  have hsorted : ∀ a b : BitVec 512, ((ranked a b).map rankKey).Pairwise (· ≤ ·) := fun a b =>
    List.pairwise_map.2 ((ranked_pairwise a b).imp fun h => (rankLe_iff _ _).1 h)
  exact (hperm.map rankKey).eq_of_pairwise (fun _ _ _ _ => le_antisymm) (hsorted a b) (hsorted b a)

theorem best_comm_key (a b : BitVec 512) : (best a b).map rankKey = (best b a).map rankKey := by
  rw [best, best, List.map_take, List.map_take, ranked_comm_key, min_comm]

theorem best_comm_rank (a b : BitVec 512) : List.Forall₂ (fun p q => rankLe p q = true ∧ rankLe q p = true) (best a b) (best b a) := by
  have hkey : List.Forall₂ (fun p q => rankKey p = rankKey q) (best a b) (best b a) := by
    have heq := best_comm_key a b
    rw [← List.forall₂_eq_eq_eq, List.forall₂_map_left_iff, List.forall₂_map_right_iff] at heq
    exact heq
  refine hkey.imp fun p q h => ?_
  rw [rankLe_iff, rankLe_iff, h]
  exact ⟨le_refl _, le_refl _⟩

/-- Where no two entries have one rank, the order in which two lists come does not matter. -/
theorem best_comm (a b : BitVec 512) (h : (listEntries a.toNat ++ listEntries b.toNat).Pairwise (fun p q => rankLe p q = false ∨ rankLe q p = false)) :
    best a b = best b a := by
  have hperm : (ranked a b).Perm (ranked b a) := (ranked_perm a b).trans (List.perm_append_comm.trans (ranked_perm b a).symm)
  have hstrict : (ranked a b).Pairwise (fun p q => rankLe p q = false ∨ rankLe q p = false) :=
    ((ranked_perm a b).symm.pairwise_iff Or.symm).1 h
  have hanti : ∀ p q, p ∈ ranked a b → q ∈ ranked b a → rankLe p q = true → rankLe q p = true → p = q := by
    intro p q hp hq hpq hqp
    by_contra hne
    have : Std.Symm fun p q : Nat × Nat => rankLe p q = false ∨ rankLe q p = false := ⟨fun _ _ => Or.symm⟩
    have hno := hstrict.forall hp (hperm.mem_iff.2 hq) hne
    simp [hpq, hqp] at hno
  rw [best, best, hperm.eq_of_pairwise hanti (ranked_pairwise a b) (ranked_pairwise b a), min_comm]

/-- Settles O34: an entry's place in the order is a key in a linear order; a merged list holds the first entries of the sorted whole. -/
theorem mergedLists : Obligations.MergedLists := by
  unfold Obligations.MergedLists
  refine ⟨fun a b ha hb => ?_, rankLe_total, rankLe_trans, fun p q => rankLe_of_score, fun p q => rankLe_of_nan, fun p q => rankLe_of_tie, fun a b ha hb => ?_⟩
  · obtain ⟨hlen, hleaves, hround⟩ := mergeLists_fields (b := b) ha
    dsimp only
    rw [listEntries_mergeLists ha]
    exact ⟨hlen.trans (best_length a b), hleaves, hround, best_pairwise a b, best_subperm a b, fun e he hout k hin => best_before a b he hout hin⟩
  · dsimp only
    rw [listEntries_mergeLists ha, listEntries_mergeLists hb]
    exact ⟨best_comm_rank a b, best_comm a b⟩

end Sys2Proof.Machine
end

section
/-!
SUPPORT and PROOFS. Parts written one behind the other into a pool and read back, and the context record (R354).
-/

namespace Sys2Proof.Machine

/-! Writes under full enables. -/

theorem mergeNib_full (old v n : Nat) : mergeNib old v (2 ^ n - 1) n = v % 16 ^ n := by
  induction n generalizing old v with
  | zero => rw [mergeNib, Nat.pow_zero, Nat.mod_one]
  | succ n ih =>
    have hpos := Nat.two_pow_pos n
    have hodd : (2 ^ (n + 1) - 1) % 2 = 1 := by
      rw [Nat.pow_succ]
      omega
    have hhalf : (2 ^ (n + 1) - 1) / 2 = 2 ^ n - 1 := by
      rw [Nat.pow_succ]
      omega
    rw [mergeNib, if_pos hodd, hhalf, ih, Nat.pow_succ, Nat.mul_comm (16 ^ n), Nat.mod_mul]

/-- Under full enables all bytes are written. -/
theorem Memory.readN_writeEn_full (m : Memory) (a n v : Nat) : (m.writeEn a n (fullEn n) v).readN a n = v % 256 ^ n := by
  rw [Memory.writeEn, Memory.readN_writeN_same, fullEn, mergeNib_full, Nat.pow_mul, show 16 ^ 2 = 256 by norm_num, Nat.mod_mod]

theorem Memory.readN_writeEn_apart (m : Memory) (a n en v b k : Nat) (h : b + k ≤ a ∨ a + n ≤ b) : (m.writeEn a n en v).readN b k = m.readN b k :=
  Memory.readN_writeN_apart m a n _ b k h

/-! Parts one behind the other. -/

/-- The bytes of parts. -/
def partBytes (ps : List (Nat × Nat)) : Nat := (ps.map (·.1)).sum

theorem Tile.writeParts_outside (ps : List (Nat × Nat)) (x : Tile) (a : Nat) {b : Nat} (h : b < a ∨ a + partBytes ps ≤ b) :
    (x.writeParts a ps).pool.read b = x.pool.read b := by
  induction ps generalizing x a with
  | nil => rfl
  | cons p r ih =>
    obtain ⟨n, v⟩ := p
    have hsum : partBytes ((n, v) :: r) = n + partBytes r := rfl
    rw [Tile.writeParts, ih _ _ (by omega)]
    exact Memory.read_writeEn_outside _ _ _ _ _ (by omega)

theorem Tile.readParts_congr (ns : List Nat) {x y : Tile} (a : Nat) (h : ∀ b, a ≤ b → b < a + ns.sum → x.pool.read b = y.pool.read b) :
    x.readParts a ns = y.readParts a ns := by
  induction ns generalizing a with
  | nil => rfl
  | cons n r ih =>
    rw [List.sum_cons] at h
    rw [Tile.readParts, Tile.readParts, ih (a + n) fun b hb hb' => h b (by omega) (by omega)]
    exact congrArg (· :: _) (Memory.readN_congr fun k hk => h (a + k) (by omega) (by omega))

theorem Tile.readParts_append (ns ms : List Nat) (x : Tile) (a : Nat) : x.readParts a (ns ++ ms) = x.readParts a ns ++ x.readParts (a + ns.sum) ms := by
  induction ns generalizing a with
  | nil => rfl
  | cons n r ih => rw [List.cons_append, Tile.readParts, Tile.readParts, ih, List.cons_append, List.sum_cons, Nat.add_assoc]

theorem Tile.readParts_length (ns : List Nat) (x : Tile) (a : Nat) : (x.readParts a ns).length = ns.length := by
  induction ns generalizing a with
  | nil => rfl
  | cons n r ih => rw [Tile.readParts, List.length_cons, List.length_cons, ih]

/-- Parts read back are what was written, each cut to its bytes. -/
theorem Tile.readParts_writeParts (ps : List (Nat × Nat)) (x : Tile) (a : Nat) :
    (x.writeParts a ps).readParts a (ps.map (·.1)) = ps.map fun p => p.2 % 256 ^ p.1 := by
  induction ps generalizing x a with
  | nil => rfl
  | cons p r ih =>
    obtain ⟨n, v⟩ := p
    have hfirst : (x.writeParts a ((n, v) :: r)).poolRead a n = v % 256 ^ n := by
      rw [Tile.writeParts, Tile.poolRead, Memory.readN_congr fun k hk => Tile.writeParts_outside r _ (a + n) (by omega)]
      exact Memory.readN_writeEn_full _ _ _ _
    rw [List.map_cons, List.map_cons, Tile.readParts, hfirst, Tile.writeParts, ih]

/-- Of a longer row of parts the first ones, those behind them and so on are read back. -/
theorem Tile.readParts_split {x : Tile} {a : Nat} {ps qs : List (Nat × Nat)}
    (h : x.readParts a ((ps ++ qs).map (·.1)) = (ps ++ qs).map fun p => p.2 % 256 ^ p.1) :
    x.readParts a (ps.map (·.1)) = (ps.map fun p => p.2 % 256 ^ p.1) ∧
      x.readParts (a + partBytes ps) (qs.map (·.1)) = qs.map fun p => p.2 % 256 ^ p.1 := by
  rw [List.map_append, List.map_append, Tile.readParts_append] at h
  exact List.append_inj h (by rw [Tile.readParts_length, List.length_map, List.length_map])

/-! Bit maps of numbers. -/

theorem testBit_bitMap (l : List Nat) (k : Nat) : (bitMap l).testBit k = decide (k ∈ l) := by
  have hgen : ∀ (l : List Nat) (m : Nat), (l.foldl (fun m k => m ||| 2 ^ k) m).testBit k = (m.testBit k || decide (k ∈ l)) := by
    intro l
    induction l with
    | nil => simp
    | cons i r ih =>
      intro m
      rw [List.foldl_cons, ih, Nat.testBit_or, Nat.testBit_two_pow, Bool.or_assoc]
      simp [Bool.or_comm, eq_comm]
  rw [bitMap, hgen]
  simp

theorem bitMap_lt {l : List Nat} {n : Nat} (h : ∀ k ∈ l, k < n) : bitMap l < 2 ^ n := by
  apply Nat.lt_pow_two_of_testBit
  intro i hi
  rw [testBit_bitMap, decide_eq_false_iff_not]
  exact fun hmem => absurd (h i hmem) (by omega)

/-- The numbers that the bit map of some numbers below `n` names. -/
theorem mapBits_bitMap (n : Nat) (P : Nat → Bool) : mapBits n (bitMap ((List.range n).filter P)) = (List.range n).filter P := by
  apply List.filter_congr
  intro k hk
  simp [testBit_bitMap, List.mem_range.1 hk]

theorem bitMap_filter_lt (n : Nat) (P : Nat → Bool) : bitMap ((List.range n).filter P) < 2 ^ n :=
  bitMap_lt fun _ hk => List.mem_range.1 (List.mem_filter.1 hk).1

/-! Tables filled from a row of numbers. -/

theorem Tbl.get_foldl_set {α : Type} (d : α) (f : Nat → α) (g : Nat → Nat) (h : Nat → α) (l : List Nat) (t : Tbl α) (k : Nat) (hh : ∀ k, f (g k) = h k) :
    Tbl.get d ((l.zip (l.map g)).foldl (fun t e => Tbl.set t e.1 (f e.2)) t) k = if k ∈ l then h k else Tbl.get d t k := by
  induction l generalizing t with
  | nil => rfl
  | cons i r ih =>
    rw [List.map_cons, List.zip_cons_cons, List.foldl_cons, ih]
    by_cases hr : k ∈ r
    · rw [if_pos hr, if_pos (List.mem_cons_of_mem _ hr)]
    · by_cases hi : k = i
      · subst hi
        rw [if_neg hr, if_pos List.mem_cons_self, Tbl.get_set_same, hh]
      · rw [if_neg hr, if_neg (by simp [hi, hr]), Tbl.get_set_ne d t _ hi]

/-- A table filled from the numbers whose value is not 0 gives every value. -/
theorem Tbl.get_filled {w n k : Nat} (v : Nat → BitVec w) {M : Nat} (hM : 2 ^ w = M) (hk : k < n) :
    Tbl.get 0 ((((List.range n).filter fun k => v k != 0).zip (((List.range n).filter fun k => v k != 0).map fun k => (v k).toNat % M)).foldl
      (fun t e => Tbl.set t e.1 (BitVec.ofNat w e.2)) []) k = v k := by
  rw [Tbl.get_foldl_set 0 (BitVec.ofNat w) (fun k => (v k).toNat % M) v _ _ _ fun k => by
    rw [← hM, Nat.mod_eq_of_lt (v k).isLt, BitVec.ofNat_toNat, BitVec.setWidth_eq]]
  split
  · rfl
  · next hout =>
    have hzero : v k = 0 := by
      by_contra hne
      exact hout (List.mem_filter.2 ⟨List.mem_range.2 hk, by simpa using hne⟩)
    rw [hzero]
    rfl

end Sys2Proof.Machine
end

section
/-!
PROOFS. A context record read back is the jet that was written (R354).
-/

namespace Sys2Proof.Machine

/-- The parts of a record behind its sixteen words. -/
def Tile.recordTail (x : Tile) (j : Jet) (v : SaveEntry) : List (Nat × Nat) :=
  v.chans.map (fun c => (8, (x.chan c).wm.toNat)) ++ (x.latched j).map (fun l => (8, l.2.toNat)) ++ (x.plainIntr j).map fun i => (8, i.pc.toNat)

/-- The numbers of a jet's views that are not 0. -/
def Jet.setViews (j : Jet) : List Nat := (List.range 16).filter fun k => j.view k != 0

/-- The numbers of a jet's masks that are not 0. -/
def Jet.setMasks (j : Jet) : List Nat := (List.range 8).filter fun k => j.mask k != 0

/-- A record's head: its words, its views, its masks and the rest. -/
theorem Tile.recordHead_eq (x : Tile) (j : Jet) (v : SaveEntry) :
    x.recordHead j v = (x.coreWords j v).map (fun w => (8, w)) ++ (j.setViews.map (fun k => (8, (j.view k).toNat)) ++
      (j.setMasks.map (fun k => (32, (j.mask k).toNat)) ++ x.recordTail j v)) := by
  simp only [Tile.recordHead, Tile.recordTail, Jet.setViews, Jet.setMasks, List.append_assoc]

/-- The bytes of a record before its frame. -/
def Tile.headBytes (x : Tile) (j : Jet) (v : SaveEntry) : Nat := ceilDiv (partBytes (x.recordHead j v)) 64 * 64

theorem le_ceilDiv_mul (n : Nat) : n ≤ ceilDiv n 64 * 64 := by
  rw [ceilDiv]
  omega

/-- The eight bytes of a number. -/
def wordOf (n : Nat) : Nat := n % 256 ^ 8

/-- Word 1 of a record: flags, role, level, program number and identifier. -/
def Jet.word1 (j : Jet) (slot : Nat) : Nat :=
  b2n j.cdis * 2 ^ 14 + j.fpflags.toNat * 2 ^ 15 + (j.grans - 1) % 128 * 2 ^ 20 + j.role.toNat * 2 ^ 27 + j.level.toNat * 2 ^ 29 +
    j.inst.toNat * 2 ^ 32 + (j.id16 slot).toNat * 2 ^ 48

/-- Word 4 of a record: the grain and the tracker. -/
def LiveRange.word4 (r : LiveRange) : Nat :=
  r.grain.toNat + b2n r.has * 2 ^ 24 + b2n r.tracked * 2 ^ 25 + r.ttile.toNat * 2 ^ 26 + r.tindex.toNat * 2 ^ 36

/-- Word 10 of a record: which channels, views and masks it holds. -/
def Tile.word10 (x : Tile) (j : Jet) (v : SaveEntry) : Nat :=
  bitMap v.chans + bitMap j.setViews * 2 ^ 8 + bitMap j.setMasks * 2 ^ 24 + j.awaited.length * 2 ^ 32 + bitMap ((x.latched j).map (·.1)) * 2 ^ 40

/-- The words of a record that are read back as fields. -/
theorem Tile.coreWords_eq (x : Tile) (j : Jet) (v : SaveEntry) : ∃ w5 w6 w7 w8 w9 r, x.coreWords j v =
    [j.pc.toNat, j.word1 v.slot, j.range.lo.toNat, j.range.hi.toNat, j.range.word4, w5, w6, w7, w8, w9, x.word10 j v] ++ r :=
  ⟨_, _, _, _, _, _, rfl⟩

/-- What is written: the head, then the frame. -/
theorem Tile.writeRecord_eq (x : Tile) (j : Jet) (v : SaveEntry) :
    x.writeRecord j v = (((x.writeParts v.recAt (x.recordHead j v)).writeParts (v.recAt + x.headBytes j v) [(64 * j.grans, j.frame.bits % 2 ^ (512 * j.grans))]),
      { v with jet := j, frameAt := v.recAt + x.headBytes j v, bytes := x.headBytes j v + 64 * j.grans, saved := true }) := by
  simp only [Tile.writeRecord, Tile.writeHead, Tile.headBytes, partBytes]

section
variable (x : Tile) (j : Jet) (v : SaveEntry)

/-- The head is read back from the whole record. -/
theorem Tile.writeRecord_head : (x.writeRecord j v).1.readParts v.recAt ((x.recordHead j v).map (·.1)) = (x.recordHead j v).map fun p => p.2 % 256 ^ p.1 := by
  rw [← Tile.readParts_writeParts (x.recordHead j v) x v.recAt]
  refine Tile.readParts_congr _ _ fun b hb hb' => ?_
  rw [Tile.writeRecord_eq]
  have hlen : partBytes (x.recordHead j v) ≤ x.headBytes j v := le_ceilDiv_mul _
  exact Tile.writeParts_outside _ _ _ (.inl (by change b < v.recAt + partBytes (x.recordHead j v) at hb'; omega))

theorem Tile.writeRecord_frame : (x.writeRecord j v).1.poolRead (x.writeRecord j v).2.frameAt (64 * j.grans) = j.frame.bits % 2 ^ (512 * j.grans) := by
  have hback := Tile.readParts_writeParts [(64 * j.grans, j.frame.bits % 2 ^ (512 * j.grans))] (x.writeParts v.recAt (x.recordHead j v)) (v.recAt + x.headBytes j v)
  rw [List.map_singleton, List.map_singleton, Tile.readParts, Tile.readParts] at hback
  rw [Tile.writeRecord_eq]
  refine (List.singleton_inj.1 hback).trans ?_
  rw [show 256 = 2 ^ 8 by norm_num, ← Nat.pow_mul, show 8 * (64 * j.grans) = 512 * j.grans by omega, Nat.mod_mod]

theorem Tile.writeRecord_outside {b : Nat} (h : b < v.recAt ∨ v.recAt + (x.writeRecord j v).2.bytes ≤ b) : (x.writeRecord j v).1.pool.read b = x.pool.read b := by
  have hlen : partBytes (x.recordHead j v) ≤ x.headBytes j v := le_ceilDiv_mul _
  have hbytes : (x.writeRecord j v).2.bytes = x.headBytes j v + 64 * j.grans := rfl
  have hone : partBytes [(64 * j.grans, j.frame.bits % 2 ^ (512 * j.grans))] = 64 * j.grans := rfl
  rw [Tile.writeRecord_eq, Tile.writeParts_outside _ _ _ (by omega), Tile.writeParts_outside _ _ _ (by omega)]

/-- The sixteen words are read back. -/
theorem Tile.writeRecord_words : (x.writeRecord j v).1.readParts v.recAt (List.replicate 16 8) = (x.coreWords j v).map wordOf := by
  have hhead := x.writeRecord_head j v
  rw [Tile.recordHead_eq] at hhead
  have hwords := (Tile.readParts_split hhead).1
  rw [List.map_map, List.map_map] at hwords
  exact hwords

theorem Tile.writeRecord_views : (x.writeRecord j v).1.readParts (v.recAt + 128) (j.setViews.map fun _ => 8) = j.setViews.map fun k => (j.view k).toNat % 256 ^ 8 := by
  have hhead := x.writeRecord_head j v
  rw [Tile.recordHead_eq] at hhead
  have hviews := (Tile.readParts_split (Tile.readParts_split hhead).2).1
  rw [List.map_map, List.map_map] at hviews
  exact hviews

theorem Tile.writeRecord_masks : (x.writeRecord j v).1.readParts (v.recAt + 128 + 8 * j.setViews.length) (j.setMasks.map fun _ => 32) =
    j.setMasks.map fun k => (j.mask k).toNat % 256 ^ 32 := by
  have hhead := x.writeRecord_head j v
  rw [Tile.recordHead_eq] at hhead
  have hmasks := (Tile.readParts_split (Tile.readParts_split (Tile.readParts_split hhead).2).2).1
  have hbytes : partBytes (j.setViews.map fun k => (8, (j.view k).toNat)) = 8 * j.setViews.length := by
    rw [partBytes, List.map_map, show ((fun p : Nat × Nat => p.1) ∘ fun k => (8, (j.view k).toNat)) = fun _ => 8 from rfl, List.map_const', List.sum_replicate, smul_eq_mul, Nat.mul_comm]
  rw [hbytes, List.map_map, List.map_map] at hmasks
  exact hmasks

end

/-! The fields of the words. -/

theorem Tile.word10_maps (x : Tile) (j : Jet) {v : SaveEntry} (h : ∀ c ∈ v.chans, c < 8) {w : Nat} (hw : w = wordOf (x.word10 j v)) :
    mapBits 16 (fld w 8 16) = j.setViews ∧ mapBits 8 (fld w 24 8) = j.setMasks := by
  rw [wordOf, Tile.word10] at hw
  have hc := bitMap_lt h
  have hv : bitMap j.setViews < 2 ^ 16 := bitMap_filter_lt 16 _
  have hm : bitMap j.setMasks < 2 ^ 8 := bitMap_filter_lt 8 _
  have hviews : fld w 8 16 = bitMap j.setViews := by
    rw [fld]
    omega
  have hmasks : fld w 24 8 = bitMap j.setMasks := by
    rw [fld]
    omega
  rw [hviews, hmasks]
  exact ⟨mapBits_bitMap 16 _, mapBits_bitMap 8 _⟩

theorem Jet.word1_fields (j : Jet) (slot : Nat) {w : Nat} (hw : w = wordOf (j.word1 slot)) :
    BitVec.ofNat 16 (fld w 32 16) = j.inst ∧ BitVec.ofNat 3 (fld w 29 3) = j.level ∧ BitVec.ofNat 2 (fld w 27 2) = j.role ∧
      BitVec.ofNat 5 (fld w 15 5) = j.fpflags ∧ (fld w 14 1 == 1) = j.cdis := by
  rw [wordOf, Jet.word1] at hw
  have hcdis : b2n j.cdis < 2 := by cases j.cdis <;> decide
  have hflags := j.fpflags.isLt
  have hrole := j.role.isLt
  have hlevel := j.level.isLt
  have hinst := j.inst.isLt
  have hid := (j.id16 slot).isLt
  have h32 : fld w 32 16 = j.inst.toNat := by rw [fld]; omega
  have h29 : fld w 29 3 = j.level.toNat := by rw [fld]; omega
  have h27 : fld w 27 2 = j.role.toNat := by rw [fld]; omega
  have h15 : fld w 15 5 = j.fpflags.toNat := by rw [fld]; omega
  have h14 : fld w 14 1 = b2n j.cdis := by rw [fld]; omega
  rw [h32, h29, h27, h15, h14]
  refine ⟨?_, ?_, ?_, ?_, ?_⟩
  · simp
  · simp
  · simp
  · simp
  · cases j.cdis <;> rfl

theorem LiveRange.word4_fields (r : LiveRange) {w : Nat} (hw : w = wordOf r.word4) :
    (fld w 24 1 == 1) = r.has ∧ BitVec.ofNat 24 w = r.grain ∧ (fld w 25 1 == 1) = r.tracked ∧ BitVec.ofNat 10 (fld w 26 10) = r.ttile ∧
      BitVec.ofNat 4 (fld w 36 4) = r.tindex := by
  rw [wordOf, LiveRange.word4] at hw
  have hhas : b2n r.has < 2 := by cases r.has <;> decide
  have htracked : b2n r.tracked < 2 := by cases r.tracked <;> decide
  have hgrain := r.grain.isLt
  have htile := r.ttile.isLt
  have hindex := r.tindex.isLt
  have h24 : fld w 24 1 = b2n r.has := by rw [fld]; omega
  have h25 : fld w 25 1 = b2n r.tracked := by rw [fld]; omega
  have h26 : fld w 26 10 = r.ttile.toNat := by rw [fld]; omega
  have h36 : fld w 36 4 = r.tindex.toNat := by rw [fld]; omega
  have h0 : w % 2 ^ 24 = r.grain.toNat := by omega
  rw [h24, h25, h26, h36]
  refine ⟨?_, ?_, ?_, ?_, ?_⟩
  · cases r.has <;> rfl
  · apply BitVec.eq_of_toNat_eq
    rw [BitVec.toNat_ofNat, h0]
  · cases r.tracked <;> rfl
  · simp
  · simp

/-- A number of fewer bits than a word is read back from the word. -/
theorem ofNat_word {n : Nat} (b : BitVec n) (h : n ≤ 64) : BitVec.ofNat n (wordOf b.toNat) = b := by
  have hlt : b.toNat < 256 ^ 8 := b.isLt.trans_le ((Nat.pow_le_pow_right Nat.two_pos h).trans (by norm_num))
  rw [wordOf, Nat.mod_eq_of_lt hlt, BitVec.ofNat_toNat, BitVec.setWidth_eq]

/-- The range is read back from words 2, 3 and 4. -/
theorem LiveRange.readBack (r : LiveRange) :
    ({ has := fld (wordOf r.word4) 24 1 == 1, lo := BitVec.ofNat 48 (wordOf r.lo.toNat), hi := BitVec.ofNat 48 (wordOf r.hi.toNat),
       grain := BitVec.ofNat 24 (wordOf r.word4), tracked := fld (wordOf r.word4) 25 1 == 1, ttile := BitVec.ofNat 10 (fld (wordOf r.word4) 26 10),
       tindex := BitVec.ofNat 4 (fld (wordOf r.word4) 36 4) } : LiveRange) = r := by
  obtain ⟨hhas, hgrain, htracked, htile, hindex⟩ := r.word4_fields rfl
  rw [hhas, hgrain, htracked, htile, hindex, ofNat_word r.lo (by omega), ofNat_word r.hi (by omega)]

section
variable (x : Tile) (j : Jet) (v : SaveEntry)

/-- The views and masks are read back into their tables. -/
theorem Tile.filledViews {k : Nat} (hk : k < 16) :
    Tbl.get 0 ((j.setViews.zip ((x.writeRecord j v).1.readParts (v.recAt + 128) (j.setViews.map fun _ => 8))).foldl
      (fun t e => Tbl.set t e.1 (BitVec.ofNat 64 e.2)) []) k = j.view k := by
  rw [Tile.writeRecord_views]
  exact Tbl.get_filled j.view (by norm_num) hk

theorem Tile.filledMasks {k : Nat} (hk : k < 8) :
    Tbl.get 0 ((j.setMasks.zip ((x.writeRecord j v).1.readParts (v.recAt + 128 + 8 * j.setViews.length) (j.setMasks.map fun _ => 32))).foldl
      (fun t e => Tbl.set t e.1 (BitVec.ofNat 256 e.2)) []) k = j.mask k := by
  rw [Tile.writeRecord_masks]
  exact Tbl.get_filled j.mask (by norm_num) hk

end

/-- The jet that is read back, by the words of its record. -/
theorem Tile.readRecord_eq {x : Tile} {v : SaveEntry} {w0 w1 w2 w3 w4 w5 w6 w7 w8 w9 w10 : Nat} {r : List Nat}
    (h : x.readParts v.recAt (List.replicate 16 8) = w0 :: w1 :: w2 :: w3 :: w4 :: w5 :: w6 :: w7 :: w8 :: w9 :: w10 :: r) :
    x.readRecord v =
      { v.jet with
        pc := BitVec.ofNat 64 w0
        inst := BitVec.ofNat 16 (fld w1 32 16)
        level := BitVec.ofNat 3 (fld w1 29 3)
        role := BitVec.ofNat 2 (fld w1 27 2)
        fpflags := BitVec.ofNat 5 (fld w1 15 5)
        cdis := fld w1 14 1 == 1
        range := { has := fld w4 24 1 == 1, lo := BitVec.ofNat 48 w2, hi := BitVec.ofNat 48 w3, grain := BitVec.ofNat 24 w4,
                   tracked := fld w4 25 1 == 1, ttile := BitVec.ofNat 10 (fld w4 26 10), tindex := BitVec.ofNat 4 (fld w4 36 4) }
        views := ((mapBits 16 (fld w10 8 16)).zip (x.readParts (v.recAt + 128) ((mapBits 16 (fld w10 8 16)).map fun _ => 8))).foldl
          (fun t e => Tbl.set t e.1 (BitVec.ofNat 64 e.2)) []
        masks := ((mapBits 8 (fld w10 24 8)).zip (x.readParts (v.recAt + 128 + 8 * (mapBits 16 (fld w10 8 16)).length) ((mapBits 8 (fld w10 24 8)).map fun _ => 32))).foldl
          (fun t e => Tbl.set t e.1 (BitVec.ofNat 256 e.2)) []
        frame := ⟨x.poolRead v.frameAt (64 * v.jet.grans)⟩ } := by
  rw [Tile.readRecord, h]
  rfl

/-- Settles O47: the parts of a record are read back as they were written, and the bit maps of word 10 say which views and masks there are. -/
theorem contextRecord : Obligations.ContextRecord := by
  unfold Obligations.ContextRecord
  intro x j v hchans _ _
  dsimp only
  obtain ⟨hviews, hmasks⟩ := x.word10_maps j hchans rfl
  obtain ⟨hinst, hlevel, hrole, hflags, hcdis⟩ := j.word1_fields v.slot rfl
  obtain ⟨w5, w6, w7, w8, w9, r, hcore⟩ := x.coreWords_eq j v
  have hwords := x.writeRecord_words j v
  have hframe := x.writeRecord_frame j v
  have hat : (x.writeRecord j v).2.recAt = v.recAt := by rw [Tile.writeRecord_eq]
  have hjet : (x.writeRecord j v).2.jet = j := by rw [Tile.writeRecord_eq]
  rw [hcore, ← hat, List.cons_append, List.map_cons] at hwords
  rw [Tile.readRecord_eq hwords, hviews, hmasks, hat, hjet]
  exact ⟨ofNat_word j.pc (by omega), hinst, hlevel, hrole, hflags, hcdis, j.range.readBack, fun k hk => x.filledViews j v hk, fun k hk => x.filledMasks j v hk,
    hframe, fun b hb => x.writeRecord_outside j v hb⟩

end Sys2Proof.Machine
end

section
/-!
SUPPORT and PROOFS. Routing a token (R334, R336): what one choice does, and what every run of choices keeps.
-/

namespace Sys2Proof.Machine

/-- The experts that a routing's slots hold. -/
def Routing.held (r : Routing) : List Nat := (r.slots.filter fun x => !x.zero).map (·.e)

/-- Slots that hold nothing are put behind. -/
def Routing.pad (r : Routing) (n : Nat) : Routing := { r with slots := r.slots ++ List.replicate n zeroSlot }

/-- What one choice does to a routing: it merges, it takes capacity, or it is dropped. -/
inductive Routing.Chooses (tbl : Tbl (Nat × List Nat)) (t E cap : Nat) (r : Routing) : Routing → Prop
  | merge (e s : Nat) : Routing.Chooses tbl t E cap r (r.merge e s)
  | take (e s : Nat) : e ∉ r.held → (ctrAt r.ctr e).1 ≠ cap → Routing.Chooses tbl t E cap r (r.take tbl t e s)
  | lose (e : Nat) : Routing.Chooses tbl t E cap r (r.lose E e)

theorem Routing.has_iff (r : Routing) (e : Nat) : r.has e = true ↔ e ∈ r.held := by
  simp [Routing.has, Routing.held, and_assoc]

theorem Routing.has_eq_false (r : Routing) (e : Nat) : r.has e = false ↔ e ∉ r.held := by
  rw [← Routing.has_iff, Bool.not_eq_true]

/-! What each outcome does. -/

/-- A slot with another weight where its expert is the given one. -/
def TokSlot.adds (e s : Nat) (x : TokSlot) : TokSlot := if !x.zero && x.e == e then { x with w := BitVec.ofNat 32 (addFp pF32 .rne x.w.toNat s).1 } else x

theorem TokSlot.adds_place (e s : Nat) (x : TokSlot) : (x.adds e s).e = x.e ∧ (x.adds e s).i = x.i ∧ (x.adds e s).zero = x.zero := by
  rw [TokSlot.adds]
  split <;> exact ⟨rfl, rfl, rfl⟩

theorem Routing.merge_slots (r : Routing) (e s : Nat) : (r.merge e s).slots = r.slots.map (TokSlot.adds e s) ++ [zeroSlot] := rfl

theorem Routing.lose_slots (r : Routing) (E e : Nat) : (r.lose E e).slots = r.slots ++ [zeroSlot] := by
  rw [Routing.lose]
  split <;> rfl

theorem Routing.lose_reps (r : Routing) (E e : Nat) : (r.lose E e).reps = r.reps := by
  rw [Routing.lose]
  split <;> rfl

theorem Routing.lose_disp (r : Routing) (E e : Nat) : (r.lose E e).disp = r.disp := by
  rw [Routing.lose]
  split <;> rfl

theorem Routing.lose_drops (r : Routing) (E e : Nat) : (r.lose E e).drops = r.drops + b2n (decide (e < E)) := by
  rw [Routing.lose]
  split <;> next h => simp [h, b2n]

theorem Routing.held_merge (r : Routing) (e s : Nat) : (r.merge e s).held = r.held := by
  have hzero : ((fun x : TokSlot => !x.zero) ∘ TokSlot.adds e s) = fun x => !x.zero := funext fun x => by simp [(x.adds_place e s).2.2]
  have he : ((fun x : TokSlot => x.e) ∘ TokSlot.adds e s) = fun x => x.e := funext fun x => (x.adds_place e s).1
  rw [Routing.held, Routing.merge_slots, List.filter_append, List.filter_map, hzero, List.map_append, List.map_map, he]
  exact List.append_nil _

theorem Routing.held_take (r : Routing) (tbl : Tbl (Nat × List Nat)) (t e s : Nat) : (r.take tbl t e s).held = r.held ++ [e] := by
  rw [Routing.held, Routing.take, List.filter_append, List.map_append]
  rfl

theorem Routing.held_lose (r : Routing) (E e : Nat) : (r.lose E e).held = r.held := by
  rw [Routing.held, Routing.lose_slots, List.filter_append, List.map_append]
  exact List.append_nil _

theorem Routing.held_pad (r : Routing) (n : Nat) : (r.pad n).held = r.held := by
  have hnone : (List.replicate n zeroSlot).filter (fun x => !x.zero) = [] := by
    rw [List.filter_eq_nil_iff]
    intro x hx
    rw [List.eq_of_mem_replicate hx]
    decide
  rw [Routing.held, Routing.pad, List.filter_append, hnone, List.append_nil]
  rfl

theorem ctrAt_set (c : Tbl (Nat × Nat × Nat × BitVec 32)) (e e' : Nat) (v : Nat × Nat × Nat × BitVec 32) :
    ctrAt (Tbl.set c e v) e' = if e' = e then v else ctrAt c e' := by
  split
  · next h => rw [h, ctrAt, Tbl.get_set_same]
  · next h => rw [ctrAt, Tbl.get_set_ne _ _ _ h, ctrAt]

/-- Of an expert's counters a merge leaves the first two. -/
theorem Routing.ctr_merge (r : Routing) (e s e' : Nat) :
    (ctrAt (r.merge e s).ctr e').1 = (ctrAt r.ctr e').1 ∧ (ctrAt (r.merge e s).ctr e').2.1 = (ctrAt r.ctr e').2.1 := by
  rw [Routing.merge]
  dsimp only
  rw [ctrAt_set]
  split
  · next h => rw [h]; exact ⟨rfl, rfl⟩
  · exact ⟨rfl, rfl⟩

theorem Routing.ctr_take (r : Routing) (tbl : Tbl (Nat × List Nat)) (t e s e' : Nat) :
    (ctrAt (r.take tbl t e s).ctr e').1 = if e' = e then inc32 (ctrAt r.ctr e).1 else (ctrAt r.ctr e').1 := by
  rw [Routing.take]
  dsimp only
  rw [ctrAt_set]
  split <;> rfl

theorem Routing.ctr_lose (r : Routing) (E e e' : Nat) :
    ctrAt (r.lose E e).ctr e' =
      if e' = e ∧ e < E then ((ctrAt r.ctr e).1, inc32 (ctrAt r.ctr e).2.1, (ctrAt r.ctr e).2.2.1, (ctrAt r.ctr e).2.2.2) else ctrAt r.ctr e' := by
  rw [Routing.lose]
  dsimp only
  split
  · next h =>
    rw [ctrAt_set]
    simp [h]
  · next h => simp [h]

theorem Routing.ctr_lose_count (r : Routing) (E e e' : Nat) : (ctrAt (r.lose E e).ctr e').1 = (ctrAt r.ctr e').1 := by
  rw [Routing.ctr_lose]
  split
  · next h => rw [h.1]
  · rfl

/-! Runs of choices. -/

section
variable {tbl : Tbl (Nat × List Nat)} {t E cap : Nat}

/-- A choice that no slot holds, or that is no expert, has one of the three outcomes. -/
theorem Routing.seek_chooses (orig : Nat) (rest : List (Nat × Nat)) (r : Routing) (e s : Nat) (h : E ≤ e ∨ r.has e = false) :
    Routing.Chooses tbl t E cap r (Routing.seek tbl t E cap orig rest r e s).1 := by
  have htake (e s : Nat) (h : E ≤ e ∨ r.has e = false) (hc : ¬ (decide (E ≤ e) || (ctrAt r.ctr e).1 == cap) = true) : Routing.Chooses tbl t E cap r (r.take tbl t e s) := by
    simp only [Bool.or_eq_true, decide_eq_true_eq, beq_iff_eq, not_or] at hc
    exact .take e s ((r.has_eq_false e).1 (h.resolve_left hc.1)) hc.2
  induction rest generalizing e s with
  | nil =>
    rw [Routing.seek]
    split
    · exact .lose orig
    · next hc => exact htake e s h hc
  | cons c rest ih =>
    rw [Routing.seek]
    split
    · split
      · exact .merge c.2 c.1
      · next hno => exact ih c.2 c.1 (.inr (Bool.eq_false_iff.2 hno))
    · next hc => exact htake e s h hc

/-- The first choice of a run is one of the three outcomes, and the run goes on from it. -/
theorem Routing.run_cons (c : Nat × Nat) (cs : List (Nat × Nat)) (n : Nat) (r : Routing) (rest : List (Nat × Nat)) :
    ∃ u rest', Routing.Chooses tbl t E cap r u ∧ Routing.run tbl t E cap (c :: cs) n r rest = Routing.run tbl t E cap cs n u rest' := by
  rw [Routing.run]
  split
  · exact ⟨_, _, .merge c.2 c.1, rfl⟩
  · next h =>
    refine ⟨_, _, Routing.seek_chooses c.2 rest r c.2 c.1 ?_, rfl⟩
    by_cases he : E ≤ c.2
    · exact .inl he
    · exact .inr (Bool.eq_false_iff.2 fun hh => h ⟨by omega, hh⟩)

/-- What every outcome of a choice keeps, a run keeps. -/
theorem Routing.run_keeps (R : Routing → Routing → Prop) (hpad : ∀ r n, R r (r.pad n)) (htrans : ∀ a b c, R a b → R b c → R a c)
    (hstep : ∀ r u, Routing.Chooses tbl t E cap r u → R r u) (cs : List (Nat × Nat)) (n : Nat) (r : Routing) (rest : List (Nat × Nat)) :
    R r (Routing.run tbl t E cap cs n r rest) := by
  induction cs generalizing r rest with
  | nil => exact hpad r n
  | cons c cs ih =>
    obtain ⟨u, rest', hu, hrun⟩ := Routing.run_cons (tbl := tbl) (t := t) (E := E) (cap := cap) c cs n r rest
    rw [hrun]
    exact htrans _ _ _ (hstep r u hu) (ih u rest')

theorem Routing.Chooses.slots_length {r u : Routing} (h : Routing.Chooses tbl t E cap r u) : u.slots.length = r.slots.length + 1 := by
  cases h with
  | merge e s => simp [Routing.merge_slots]
  | take e s => simp [Routing.take]
  | lose e => simp [Routing.lose_slots]

/-- Every choice gives one slot. -/
theorem Routing.run_slots_length (cs : List (Nat × Nat)) (n : Nat) (r : Routing) (rest : List (Nat × Nat)) :
    (Routing.run tbl t E cap cs n r rest).slots.length = r.slots.length + cs.length + n := by
  induction cs generalizing r rest with
  | nil => simp [Routing.run]
  | cons c cs ih =>
    obtain ⟨u, rest', hu, hrun⟩ := Routing.run_cons (tbl := tbl) (t := t) (E := E) (cap := cap) c cs n r rest
    rw [hrun, ih, hu.slots_length, List.length_cons]
    omega

/-- No expert is held twice. -/
theorem Routing.run_nodup (cs : List (Nat × Nat)) (n : Nat) (r : Routing) (rest : List (Nat × Nat)) :
    r.held.Nodup → (Routing.run tbl t E cap cs n r rest).held.Nodup := by
  refine Routing.run_keeps (fun r u => r.held.Nodup → u.held.Nodup) (fun r n h => ?_) (fun _ _ _ f g h => g (f h)) (fun r u hu h => ?_) cs n r rest
  · rwa [Routing.held_pad]
  · cases hu with
    | merge e s => rwa [Routing.held_merge]
    | take e s hout =>
      rw [Routing.held_take]
      exact List.nodup_append.2 ⟨h, List.nodup_singleton e, fun a ha b hb hab => hout (by rw [List.mem_singleton.1 hb] at hab; exact hab ▸ ha)⟩
    | lose e => rwa [Routing.held_lose]

/-- No expert's count passes the capacity. -/
theorem Routing.run_capacity (cs : List (Nat × Nat)) (n : Nat) (r : Routing) (rest : List (Nat × Nat)) :
    (∀ e, (ctrAt r.ctr e).1 ≤ cap) → ∀ e, (ctrAt (Routing.run tbl t E cap cs n r rest).ctr e).1 ≤ cap := by
  refine Routing.run_keeps (fun r u => (∀ e, (ctrAt r.ctr e).1 ≤ cap) → ∀ e, (ctrAt u.ctr e).1 ≤ cap) (fun _ _ h => h) (fun _ _ _ f g h => g (f h))
    (fun r u hu h e' => ?_) cs n r rest
  cases hu with
  | merge e s => exact (r.ctr_merge e s e').1.trans_le (h e')
  | take e s hout hroom =>
    have hcap := h e
    rw [Routing.ctr_take]
    split
    · rw [inc32]
      omega
    · exact h e'
  | lose e => exact (r.ctr_lose_count E e e').trans_le (h e')

/-- No expert's count falls. -/
theorem Routing.run_counts_rise (cs : List (Nat × Nat)) (n : Nat) (r : Routing) (rest : List (Nat × Nat)) (h : ∀ e, (ctrAt r.ctr e).1 < 2 ^ 32) (e : Nat) :
    (ctrAt r.ctr e).1 ≤ (ctrAt (Routing.run tbl t E cap cs n r rest).ctr e).1 := by
  refine (Routing.run_keeps (fun r u => (∀ e, (ctrAt r.ctr e).1 < 2 ^ 32) → (∀ e, (ctrAt u.ctr e).1 < 2 ^ 32) ∧ ∀ e, (ctrAt r.ctr e).1 ≤ (ctrAt u.ctr e).1)
    (fun _ _ h => ⟨h, fun _ => Nat.le_refl _⟩) (fun _ _ _ f g h => ⟨(g (f h).1).1, fun e => ((f h).2 e).trans ((g (f h).1).2 e)⟩) (fun r u hu h => ?_) cs n r rest h).2 e
  cases hu with
  | merge e s => exact ⟨fun e' => (r.ctr_merge e s e').1.trans_lt (h e'), fun e' => (r.ctr_merge e s e').1.ge⟩
  | take e s =>
    have hlt := h e
    refine ⟨fun e' => ?_, fun e' => ?_⟩ <;> rw [Routing.ctr_take] <;> split
    · rw [inc32]
      omega
    · exact h e'
    · next he =>
      rw [he, inc32]
      omega
    · exact Nat.le_refl _
  | lose e => exact ⟨fun e' => (r.ctr_lose_count E e e').trans_lt (h e'), fun e' => (r.ctr_lose_count E e e').ge⟩

/-- A dispatch for each expert that is newly held. -/
theorem Routing.run_dispatches (cs : List (Nat × Nat)) (n : Nat) (r : Routing) (rest : List (Nat × Nat)) :
    (Routing.run tbl t E cap cs n r rest).held.length + r.disp = r.held.length + (Routing.run tbl t E cap cs n r rest).disp := by
  refine Routing.run_keeps (fun r u => u.held.length + r.disp = r.held.length + u.disp) (fun r n => ?_) (fun _ _ _ f g => by omega) (fun r u hu => ?_) cs n r rest
  · rw [Routing.held_pad]
    rfl
  · cases hu with
    | merge e s =>
      rw [Routing.held_merge]
      rfl
    | take e s =>
      have hdisp : (r.take tbl t e s).disp = r.disp + 1 := rfl
      rw [Routing.held_take, List.length_append, List.length_singleton, hdisp]
      omega
    | lose e => rw [Routing.held_lose, Routing.lose_disp]

/-- An expert's count rises by the slots that newly hold it. -/
theorem Routing.run_counts (hcap : cap < 2 ^ 32) (cs : List (Nat × Nat)) (n : Nat) (r : Routing) (rest : List (Nat × Nat)) (h : ∀ e, (ctrAt r.ctr e).1 ≤ cap) (e : Nat) :
    (ctrAt (Routing.run tbl t E cap cs n r rest).ctr e).1 + r.held.count e = (ctrAt r.ctr e).1 + (Routing.run tbl t E cap cs n r rest).held.count e := by
  refine (Routing.run_keeps (fun r u => (∀ e, (ctrAt r.ctr e).1 ≤ cap) → (∀ e, (ctrAt u.ctr e).1 ≤ cap) ∧
      ∀ e, (ctrAt u.ctr e).1 + r.held.count e = (ctrAt r.ctr e).1 + u.held.count e) (fun r n h => ?_)
    (fun a b c f g h => ⟨(g (f h).1).1, fun e => ?_⟩) (fun r u hu h => ?_) cs n r rest h).2 e
  · rw [Routing.held_pad]
    exact ⟨h, fun _ => rfl⟩
  · have h1 := (f h).2 e
    have h2 := (g (f h).1).2 e
    omega
  · cases hu with
    | merge e s =>
      rw [Routing.held_merge]
      exact ⟨fun e' => (r.ctr_merge e s e').1.trans_le (h e'), fun e' => by rw [(r.ctr_merge e s e').1]⟩
    | take e s hout hroom =>
      have hle := h e
      have hinc : inc32 (ctrAt r.ctr e).1 = (ctrAt r.ctr e).1 + 1 := by
        rw [inc32]
        omega
      rw [Routing.held_take]
      refine ⟨fun e' => ?_, fun e' => ?_⟩ <;> rw [Routing.ctr_take, hinc] <;> split
      · omega
      · exact h e'
      · next he =>
        rw [he, List.count_append, List.count_singleton_self]
        omega
      · next he => rw [List.count_append, List.count_singleton, if_neg (by simpa using Ne.symm he), Nat.add_zero]
    | lose e =>
      rw [Routing.held_lose]
      exact ⟨fun e' => (r.ctr_lose_count E e e').trans_le (h e'), fun e' => by rw [r.ctr_lose_count E e e']⟩

end

/-! Where a slot's replica is. -/

/-- The slots that hold an expert go to the replica of the token's number. -/
def Routing.Placed (t : Nat) (r : Routing) : Prop :=
  ∀ x ∈ r.slots, x.zero = true ∨ ((Tbl.get (0, []) r.reps x.e).1 ≠ 0 ∧ x.i = t % (Tbl.get (0, []) r.reps x.e).1)

/-- The number of replicas read for an expert at its first token. -/
def Routing.repOf (r : Routing) (tbl : Tbl (Nat × List Nat)) (e : Nat) : Nat × List Nat :=
  match r.reps.find? fun x => x.1 == e with | some x => x.2 | none => Tbl.get (1, [31]) tbl e

theorem Tbl.get_of_find {α : Type} (d : α) {l : Tbl α} {k : Nat} {x : Nat × α} (h : (l.find? fun x => x.1 == k) = some x) : Tbl.get d l k = x.2 := by
  induction l with
  | nil => exact absurd h (by simp)
  | cons p l ih =>
    obtain ⟨i, v⟩ := p
    rw [List.find?_cons] at h
    rw [Tbl.get]
    by_cases hi : i = k
    · simp only [hi, beq_self_eq_true, Option.some.injEq] at h
      rw [if_pos hi, ← h]
    · simp only [beq_eq_false_iff_ne.2 hi] at h
      rw [if_neg hi, ih h]

theorem Tbl.get_of_find_none {α : Type} (d : α) {l : Tbl α} {k : Nat} (h : (l.find? fun x => x.1 == k) = none) : Tbl.get d l k = d := by
  induction l with
  | nil => rfl
  | cons p l ih =>
    obtain ⟨i, v⟩ := p
    rw [List.find?_eq_none] at h
    have hi : i ≠ k := by simpa using h (i, v) List.mem_cons_self
    rw [Tbl.get, if_neg hi, ih (List.find?_eq_none.2 fun q hq => h q (List.mem_cons_of_mem _ hq))]

theorem Tbl.mem_set {α : Type} {l : Tbl α} {k : Nat} {v : α} {p : Nat × α} (h : p ∈ Tbl.set l k v) : p = (k, v) ∨ p ∈ l := by
  induction l with
  | nil => exact .inl (List.mem_singleton.1 h)
  | cons q l ih =>
    obtain ⟨i, w⟩ := q
    rw [Tbl.set] at h
    split at h
    · exact (List.mem_cons.1 h).imp id fun h => List.mem_cons_of_mem _ h
    · split at h
      · exact List.mem_cons.1 h
      · rcases List.mem_cons.1 h with h | h
        · exact .inr (h ▸ List.mem_cons_self)
        · exact (ih h).imp id fun h => List.mem_cons_of_mem _ h

/-- All replica entries read, and those of the table, name a replica. -/
theorem Routing.run_placed {tbl : Tbl (Nat × List Nat)} {t E cap : Nat} (htbl : ∀ e, (Tbl.get (1, [31]) tbl e).1 ≠ 0) (cs : List (Nat × Nat)) (n : Nat) (r : Routing)
    (rest : List (Nat × Nat)) (hreps : ∀ e ∈ r.reps, e.2.1 ≠ 0) (h : r.Placed t) : (Routing.run tbl t E cap cs n r rest).Placed t := by
  have hzero (r : Routing) (h : r.Placed t) (n : Nat) (x : TokSlot) (hx : x ∈ List.replicate n zeroSlot) : x.zero = true := by
    rw [List.eq_of_mem_replicate hx]
    rfl
  refine (Routing.run_keeps (fun r u => (∀ e ∈ r.reps, e.2.1 ≠ 0) ∧ r.Placed t → (∀ e ∈ u.reps, e.2.1 ≠ 0) ∧ u.Placed t) (fun r n h => ⟨h.1, fun x hx => ?_⟩)
    (fun _ _ _ f g h => g (f h)) (fun r u hu h => ?_) cs n r rest ⟨hreps, h⟩).2
  · exact (List.mem_append.1 hx).elim (h.2 x) fun hx => .inl (hzero r h.2 n x hx)
  · obtain ⟨hreps, hplaced⟩ := h
    cases hu with
    | merge e s =>
      refine ⟨hreps, fun x hx => ?_⟩
      rw [Routing.merge_slots, List.mem_append] at hx
      rcases hx with hx | hx
      · obtain ⟨y, hy, rfl⟩ := List.mem_map.1 hx
        obtain ⟨he, hi, hz⟩ := y.adds_place e s
        rw [he, hi, hz]
        exact hplaced y hy
      · exact .inl (by rw [List.mem_singleton.1 hx]; rfl)
    | take e s =>
      have hrep : (r.repOf tbl e).1 ≠ 0 := by
        rw [Routing.repOf]
        split
        · next x hx => exact hreps x (List.mem_of_find?_eq_some hx)
        · exact htbl e
      have hnew : (r.take tbl t e s).reps = Tbl.set r.reps e (r.repOf tbl e) := rfl
      refine ⟨fun p hp => ?_, fun x hx => ?_⟩
      · rw [hnew] at hp
        rcases Tbl.mem_set hp with rfl | hp
        · exact hrep
        · exact hreps p hp
      · rw [hnew]
        rcases List.mem_append.1 (show x ∈ r.slots ++ [_] from hx) with hx | hx
        · refine (hplaced x hx).imp id fun ⟨hne, hi⟩ => ?_
          by_cases hxe : x.e = e
          · have hfind : r.repOf tbl e = Tbl.get (0, []) r.reps e := by
              rw [hxe] at hne
              rw [Routing.repOf]
              split
              · next y hy => rw [Tbl.get_of_find _ hy]
              · next hf => exact absurd (congrArg Prod.fst (Tbl.get_of_find_none (0, []) hf)) hne
            rw [hxe] at hi hne ⊢
            rw [Tbl.get_set_same, hfind]
            exact ⟨hne, hi⟩
          · rw [Tbl.get_set_ne _ _ _ hxe]
            exact ⟨hne, hi⟩
        · rw [List.mem_singleton.1 hx]
          dsimp only
          rw [Tbl.get_set_same]
          exact .inr ⟨hrep, rfl⟩
    | lose e =>
      rw [Routing.lose_reps]
      refine ⟨hreps, fun x hx => ?_⟩
      rw [Routing.lose_slots, List.mem_append] at hx
      rw [Routing.lose_reps]
      rcases hx with hx | hx
      · exact hplaced x hx
      · exact .inl (by rw [List.mem_singleton.1 hx]; rfl)

/-! The first choice of a run, by its case. -/

/-- A choice takes capacity. -/
def Routing.Took (r u : Routing) (c : Nat × Nat) : Prop :=
  (∃ x, u.slots = r.slots ++ [x] ∧ x.zero = false ∧ x.e = c.2 ∧ x.w = BitVec.ofNat 32 c.1) ∧ u.disp = r.disp + 1 ∧
    (ctrAt u.ctr c.2).1 = inc32 (ctrAt r.ctr c.2).1 ∧ (ctrAt u.ctr c.2).2.2.2 = psumAdd (ctrAt r.ctr c.2) c.1 ∧
    (∀ e, e ≠ c.2 → ctrAt u.ctr e = ctrAt r.ctr e) ∧ u.drops = r.drops

theorem Routing.took_take (r : Routing) (tbl : Tbl (Nat × List Nat)) (t : Nat) (c : Nat × Nat) : r.Took (r.take tbl t c.2 c.1) c := by
  have hctr (e : Nat) : ctrAt (r.take tbl t c.2 c.1).ctr e = _ := ctrAt_set _ _ _ _
  refine ⟨⟨_, rfl, rfl, rfl, rfl⟩, rfl, ?_, ?_, fun e he => ?_, rfl⟩
  · rw [hctr, if_pos rfl]
  · rw [hctr, if_pos rfl]
  · rw [hctr, if_neg he]

section
variable (tbl : Tbl (Nat × List Nat)) (t : Nat) {E cap : Nat} {c : Nat × Nat} (cs : List (Nat × Nat)) (n : Nat) {r : Routing}

theorem Routing.run_not_held (rest : List (Nat × Nat)) (h : E ≤ c.2 ∨ r.has c.2 = false) :
    Routing.run tbl t E cap (c :: cs) n r rest =
      Routing.run tbl t E cap cs n (Routing.seek tbl t E cap c.2 rest r c.2 c.1).1 (Routing.seek tbl t E cap c.2 rest r c.2 c.1).2 := by
  have hno : ¬ (c.2 < E ∧ r.has c.2 = true) := fun ⟨hlt, hhas⟩ => h.elim (by omega) (by simp [hhas])
  rw [Routing.run, if_neg hno]

/-- A choice that has room takes it. -/
theorem Routing.run_room (rest : List (Nat × Nat)) (hlt : c.2 < E) (hhas : r.has c.2 = false) (hroom : (ctrAt r.ctr c.2).1 ≠ cap) :
    Routing.run tbl t E cap (c :: cs) n r rest = Routing.run tbl t E cap cs n (r.take tbl t c.2 c.1) rest := by
  have hseek : Routing.seek tbl t E cap c.2 rest r c.2 c.1 = (r.take tbl t c.2 c.1, rest) := by
    cases rest <;> simp [Routing.seek, hlt, hroom]
  rw [Routing.run_not_held tbl t cs n rest (.inr hhas), hseek]

theorem full_cond (hfull : E ≤ c.2 ∨ r.has c.2 = false ∧ (ctrAt r.ctr c.2).1 = cap) : (decide (E ≤ c.2) || (ctrAt r.ctr c.2).1 == cap) = true := by
  rw [Bool.or_eq_true, decide_eq_true_eq, beq_iff_eq]
  exact hfull.imp id (·.2)

/-- A choice that is full gives way to the next candidate, which has room. -/
theorem Routing.run_next {d : Nat × Nat} (rest : List (Nat × Nat)) (hfull : E ≤ c.2 ∨ r.has c.2 = false ∧ (ctrAt r.ctr c.2).1 = cap) (hlt : d.2 < E)
    (hhas : r.has d.2 = false) (hroom : (ctrAt r.ctr d.2).1 ≠ cap) :
    Routing.run tbl t E cap (c :: cs) n r (d :: rest) = Routing.run tbl t E cap cs n (r.take tbl t d.2 d.1) rest := by
  have hseek : Routing.seek tbl t E cap c.2 (d :: rest) r c.2 c.1 = (r.take tbl t d.2 d.1, rest) := by
    rw [Routing.seek, if_pos (full_cond hfull), if_neg (by simp [hhas])]
    cases rest <;> simp [Routing.seek, hlt, hroom]
  rw [Routing.run_not_held tbl t cs n (d :: rest) (hfull.imp id (·.1)), hseek]

/-- A choice that a slot holds merges into it. -/
theorem Routing.run_held (rest : List (Nat × Nat)) (hlt : c.2 < E) (hhas : r.has c.2 = true) :
    Routing.run tbl t E cap (c :: cs) n r rest = Routing.run tbl t E cap cs n (r.merge c.2 c.1) rest := by
  rw [Routing.run, if_pos ⟨hlt, hhas⟩]

/-- A choice that is full and finds no candidate is dropped. -/
theorem Routing.run_none (hfull : E ≤ c.2 ∨ r.has c.2 = false ∧ (ctrAt r.ctr c.2).1 = cap) :
    Routing.run tbl t E cap (c :: cs) n r [] = Routing.run tbl t E cap cs n (r.lose E c.2) [] := by
  rw [Routing.run_not_held tbl t cs n [] (hfull.imp id (·.1)), Routing.seek, if_pos (full_cond hfull)]

end

/-- Settles O35: every choice merges, takes or is dropped; what these three keep, a run keeps. -/
theorem tokenRouting : Obligations.TokenRouting := by
  unfold Obligations.TokenRouting
  intro tbl t E cap n cs rest r
  refine ⟨Routing.run_slots_length cs n r rest, Routing.run_nodup cs n r rest, Routing.run_capacity cs n r rest, fun h e => Routing.run_counts_rise cs n r rest h e,
    fun htbl hreps h => Routing.run_placed htbl cs n r rest hreps h, Routing.run_dispatches cs n r rest, fun hcap h e => Routing.run_counts hcap cs n r rest h e, ?_, ?_, ?_, ?_⟩
  · rintro c cs' rfl hlt hhas hroom
    exact ⟨_, Routing.run_room tbl t cs' n rest hlt hhas hroom, r.took_take tbl t c⟩
  · rintro c d cs' rest' rfl rfl hfull hlt hhas hroom
    exact ⟨_, Routing.run_next tbl t cs' n rest' hfull hlt hhas hroom, r.took_take tbl t d⟩
  · rintro c cs' rfl hlt hhas
    obtain ⟨hcount, hsecond⟩ := r.ctr_merge c.2 c.1 c.2
    have hctr : ctrAt (r.merge c.2 c.1).ctr c.2 = _ := ctrAt_set _ _ _ _
    refine ⟨_, Routing.run_held tbl t cs' n rest hlt hhas, r.held_merge c.2 c.1, (Routing.Chooses.merge (tbl := tbl) (t := t) (E := E) (cap := cap) c.2 c.1).slots_length, hcount, hsecond, ?_⟩
    rw [hctr, if_pos rfl]
  · rintro c cs' rfl rfl hfull
    refine ⟨_, Routing.run_none tbl t cs' n hfull, r.lose_slots E c.2, fun e he => ?_, r.ctr_lose_count E c.2 c.2, ?_, r.lose_drops E c.2⟩
    · rw [Routing.ctr_lose, if_neg (fun h => he h.1)]
    · rw [Routing.ctr_lose]
      by_cases hlt : c.2 < E <;> simp [hlt]

end Sys2Proof.Machine
end

section
/-!
SUPPORT and PROOFS. The instructions of the expert chains and of merge trees (R332, R337, R343, R344), and O33.
-/

namespace Sys2Proof.Machine

/-! ### Translations kept at hand -/

/-- Only the translations that a tile and its die keep at hand differ. -/
structure Cached (n : Nat) (s t : State) : Prop where
  rest : t = { s with tiles := t.tiles, dies := t.dies }
  others : ∀ m, m ≠ n → t.tile m = s.tile m
  tile : t.tile n = { s.tile n with tlb := (t.tile n).tlb }

theorem Cached.refl (n : Nat) (s : State) : Cached n s s := ⟨rfl, fun _ _ => rfl, rfl⟩

theorem Cached.trans {n : Nat} {s t u : State} (h : Cached n s t) (k : Cached n t u) : Cached n s u :=
  ⟨by rw [k.rest, h.rest], fun m hm => (k.others m hm).trans (h.others m hm), by rw [k.tile, h.tile]⟩

theorem Cached.modTile (s : State) (n : Nat) {f : Tile → Tile} (hf : ∀ x, f x = { x with tlb := (f x).tlb }) : Cached n s (s.modTile n f) := by
  refine ⟨rfl, fun m hm => State.tile_modTile_ne s f hm, ?_⟩
  rw [State.tile_modTile_same]
  exact hf _

theorem Cached.modDie (n : Nat) (s : State) (k : Nat) (f : Die → Die) : Cached n s (s.modDie k f) := ⟨rfl, fun _ _ => rfl, rfl⟩

theorem Cached.cacheXlate (n va : Nat) (e : TlbEntry) (s : State) : Cached n s (s.cacheXlate n va e) :=
  (Cached.modTile s n fun _ => rfl).trans (.modDie n _ _ _)

theorem Cached.cacheFor (n va nb : Nat) (st : Bool) (s : State) : Cached n s (s.cacheFor n va nb st) := by
  unfold State.cacheFor
  induction lineParts va nb generalizing s with
  | nil => exact .refl n s
  | cons e l ih =>
    rw [List.foldl_cons]
    refine Cached.trans ?_ (ih _)
    dsimp only
    split
    · exact .refl n s
    · split
      · exact .cacheXlate n _ _ s
      · exact .refl n s

section
variable {s t : State} (h : Cached s.curTile s t)
include h

theorem Cached.curTile : t.curTile = s.curTile := by rw [h.rest]

theorem Cached.here : t.here = { s.here with tlb := t.here.tlb } := by
  rw [State.here, h.curTile]
  exact h.tile

theorem Cached.cur : t.cur = s.cur := by
  have hslot : t.curSlot = s.curSlot := by rw [h.rest]
  rw [State.cur_eq, State.cur_eq, hslot, h.here]
  rfl

/-- The result that would be owed is the same. -/
theorem Cached.varOwed (dst : List (Nat × Nat)) : t.varOwed dst [] [] [] false = s.varOwed dst [] [] [] false := by
  have hid : t.nextId = s.nextId := by rw [h.rest]
  have htc : t.tc = s.tc := by rw [h.rest]; rfl
  rw [State.varOwed, State.varOwed, hid, htc, h.cur]

end

/-! ### `xgo`, `xsnap` and `xrepl` -/

/-- Appends a block's address to a chain's queue. -/
def Chain.queued (q : XgoReq) (c : Chain) : Chain := { c with queue := c.queue ++ [q] }

/-- Appends a snapshot to a chain's requests. -/
def Chain.asked (r : SnapReq) (c : Chain) : Chain := { c with snaps := c.snaps ++ [r] }

/-- `xgo` behind its checks. -/
def State.xgoGo (h : Hdr) (o : R2) (chain : Bool) (s : State) : State :=
  let a := o.a.get s.cur.frame
  let k := 2 * dieOf s.curTile + b2n chain
  if a % 64 != 0 then (s.oweStatus 2 o.d 2).advance h 16
  else if 4 ≤ (s.chain k).queue.length then (s.oweStatus 2 o.d 1).advance h 16
  else ((s.modChain k (Chain.queued ⟨a, s.curTile, s.cur.key, s.nextId, s.cur.inst⟩)).oweStatus 2 o.d 0).advance h 16

/-- `xsnap` behind its checks. -/
def State.xsnapGo (h : Hdr) (o : R2) (chain : Bool) (s : State) : State :=
  let t := s.curTile
  let a := o.a.get s.cur.frame
  let k := 2 * dieOf t + b2n chain
  if a % 16 != 0 then s.trap (dataFault 7 a 16)
  else
    match s.partsOf t .write .page true a 4112 with
    | .error _ => (s.oweStatus 2 o.d 1).advance h 16
    | .ok ps =>
      (((s.cacheFor t a 4112).oweLater o.d).2.modChain k (Chain.asked ⟨a, ps, t, s.curSlot, (s.cacheFor t a 4112).nextId,
        s.tc + s.xlateCost t a 4112 + ceilDiv (hops t (chainStop k)) 2 + 1, none, 0, 0⟩)).advance h 16

/-- `xrepl` behind its checks. -/
def State.xreplGo (h : Hdr) (o : R3) (chain : Bool) (s : State) : State :=
  let e := o.a.get s.cur.frame
  let d := o.b.get s.cur.frame
  let k := 2 * dieOf s.curTile + b2n chain
  if replOk e d then ((s.oweLater o.d).2.after 4 .statusResultWrite ⟨s.curTile, s.curSlot, s.nextId, 8, k + 8 * (e + 256 * d)⟩).advance h 16
  else (s.oweStatus 4 o.d 1).advance h 16

section
variable {s : State} {h : Hdr}

theorem State.xgo_exec {o : R2} {chain : Bool} (ha : s.admits (.xgo h o chain) = true) : exec (.xgo h o chain) s = .next (s.xgoGo h o chain) :=
  State.guarded_of_admits (i := .xgo h o chain) (fun s => s.xgoGo h o chain) ha

theorem State.xsnap_exec {o : R2} {chain : Bool} (ha : s.admits (.xsnap h o chain) = true) : exec (.xsnap h o chain) s = .next (s.xsnapGo h o chain) :=
  State.guarded_of_admits (i := .xsnap h o chain) (fun s => s.xsnapGo h o chain) ha

theorem State.xrepl_exec {o : R3} {chain : Bool} (ha : s.admits (.xrepl h o chain) = true) : exec (.xrepl h o chain) s = .next (s.xreplGo h o chain) :=
  State.guarded_of_admits (i := .xrepl h o chain) (fun s => s.xreplGo h o chain) ha

end

/-- What `xsnap` leaves and changes where its bytes can be written. -/
theorem State.xsnapGo_ok {s : State} {o : R2} {chain : Bool} {h : Hdr} {ps : List Part} (ha : o.a.get s.cur.frame % 16 = 0)
    (hps : s.partsOf s.curTile .write .page true (o.a.get s.cur.frame) 4112 = .ok ps) :
    let t := s.xsnapGo h o chain
    let k := 2 * dieOf s.curTile + b2n chain
    t.cur = s.cur.behind h 16 s.tc [s.varOwed o.d.range [] [] [] false] ∧ t.mem = s.mem ∧ t.agenda = s.agenda ∧
      (∀ m, m ≠ s.curTile → t.tile m = s.tile m) ∧ (∀ c, c ≠ k → t.chain c = s.chain c) ∧
      ∃ from_, t.chain k = { s.chain k with snaps := (s.chain k).snaps ++ [⟨o.a.get s.cur.frame, ps, s.curTile, s.curSlot, s.nextId, from_, none, 0, 0⟩] } := by
  intro t k
  have hcached := Cached.cacheFor s.curTile (o.a.get s.cur.frame) 4112 false s
  have hid : (s.cacheFor s.curTile (o.a.get s.cur.frame) 4112).nextId = s.nextId := by rw [hcached.rest]
  have hgo : t = (((s.cacheFor s.curTile (o.a.get s.cur.frame) 4112).modChain k (Chain.asked ⟨o.a.get s.cur.frame, ps, s.curTile, s.curSlot, s.nextId,
      s.tc + s.xlateCost s.curTile (o.a.get s.cur.frame) 4112 + ceilDiv (hops s.curTile (chainStop k)) 2 + 1, none, 0, 0⟩)).oweLater o.d).2.advance h 16 := by
    rw [← hid]
    simp only [t, State.xsnapGo, ha, hps, bne_self_eq_false, Bool.false_eq_true, if_false]
    rfl
  generalize s.cacheFor s.curTile (o.a.get s.cur.frame) 4112 = u at hcached hgo hid
  have hchain (c : Nat) : u.chain c = s.chain c := by rw [hcached.rest]; rfl
  obtain ⟨hframe, hjet, hagenda⟩ := State.oweVar_issued_id (u.modChain k (Chain.asked ⟨o.a.get s.cur.frame, ps, s.curTile, s.curSlot, s.nextId,
      s.tc + s.xlateCost s.curTile (o.a.get s.cur.frame) 4112 + ceilDiv (hops s.curTile (chainStop k)) 2 + 1, none, 0, 0⟩)) h 16 o.d.range
  rw [hgo]
  refine ⟨hjet.trans ?_, ?_, hagenda.trans ?_, fun m hm => (hframe.others m ?_).trans (hcached.others m hm), fun c hc => ?_, s.tc + s.xlateCost s.curTile (o.a.get s.cur.frame) 4112 + ceilDiv (hops s.curTile (chainStop k)) 2 + 1, ?_⟩
  · change u.cur.behind h 16 u.tc [u.varOwed o.d.range [] [] [] false] = _
    rw [hcached.cur, hcached.varOwed, show u.tc = s.tc by rw [hcached.rest]; rfl]
  · exact (congrArg State.mem hframe.rest).trans (by rw [State.modChain, hcached.rest])
  · change u.agenda = s.agenda
    rw [hcached.rest]
  · exact fun heq => hm (heq.trans hcached.curTile)
  · refine Eq.trans ?_ (hchain c)
    exact Tbl.get_set_ne _ _ _ hc
  · refine Eq.trans (Tbl.get_set_same _ _ _ _) ?_
    rw [hchain]
    rfl

/-- The form of a replica descriptor, position by position (R337). -/
theorem replOk_iff (e d : Nat) : replOk e d = true ↔ e ≤ 255 ∧ d < 2 ^ 22 ∧ ∀ i, i ≤ d % 4 → fld d (2 + 5 * i) 5 < 16 ∨ fld d (2 + 5 * i) 5 = 31 := by
  simp only [replOk, Bool.and_eq_true, decide_eq_true_eq, List.all_eq_true, List.mem_range, Bool.or_eq_true, beq_iff_eq, and_assoc, Nat.lt_succ_iff]

/-! ### Merge trees -/

/-- The tile becomes a leaf of a tree that has not answered. -/
def Tile.leafing (tag root : Nat) (y : Tile) : Tile := { y with mergeLeaves := y.mergeLeaves ++ [(tag, root, false)] }

/-- The tile is no leaf of a tag's tree any more. -/
def Tile.unleafed (tag : Nat) (y : Tile) : Tile := { y with mergeLeaves := y.mergeLeaves.filter fun e => e.1 != tag }

/-- `mrg.join` behind its checks. -/
def State.mrgJoinGo (h : Hdr) (o : R2) (tag : BitVec 12) (x chain : Bool) (s : State) : State :=
  let t := s.curTile
  let hd := BitVec.ofNat 32 (o.a.get s.cur.frame)
  let k := 2 * dieOf t + b2n chain
  let root := if x then chainStop k else hTile hd
  if (s.here.leafOf tag.toNat).isSome then (s.oweStatus 2 o.d 3).advance h 16
  else if !x && (hDev hd != s.dev.device.toNat || dieOf root != dieOf t) then (s.oweStatus 2 o.d 2).advance h 16
  else
    (((s.oweLater o.d).2.modHere (Tile.leafing tag.toNat root)).inject t t .ni 1 4
      (.mergeJoin t tag.toNat root s.curSlot s.nextId false (if x then some k else none) (if x then 0 else hd) (Config.tiles))).advance h 16

/-- `mrg.put` of a leaf whose tree is rooted at `root`. -/
def State.mrgPutLeaf (h : Hdr) (o : R2) (tag : BitVec 12) (root : Nat) (s : State) : State :=
  let t := s.curTile
  let l := SliceOp.getRun o.a s.cur.frame 128
  let k := fld l 400 8
  if k = 0 ∨ 8 < k ∨ k < fld l 384 16 then (s.oweStatus 2 o.d 2).advance h 16
  else ((s.inject t t .ni 2 4 (.merge tag.toNat root (BitVec.ofNat 512 (l % 2 ^ 416 + 2 ^ 416)))).oweStatus 2 o.d 0).advance h 16

/-- `mrg.leave` of a leaf whose tree is rooted at `root`. -/
def State.mrgLeaveLeaf (h : Hdr) (d : SliceOp) (tag : BitVec 12) (root : Nat) (s : State) : State :=
  (((s.modHere (Tile.unleafed tag.toNat)).inject s.curTile s.curTile .ni 1 4 (.mergeJoin s.curTile tag.toNat root 0 0 true none 0 Config.tiles)).oweStatus 2 d 0).advance h 16

/-- The root of the tree that the tile is an answered leaf of. -/
def Tile.leafRoot (x : Tile) (tag : Nat) : Option Nat :=
  match x.leafOf tag with
  | some (_, r, true) => some r
  | _ => none

/-- An answered leaf of a tag has that tag. -/
theorem Tile.leafOf_iff (x : Tile) (tag r : Nat) : x.leafOf tag = some (tag, r, true) ↔ x.leafRoot tag = some r := by
  rw [Tile.leafRoot]
  constructor
  · intro h
    rw [h]
  · intro h
    split at h
    · next i q hleaf =>
      have htag : i = tag := by simpa using List.find?_some hleaf
      rw [hleaf, htag, Option.some.inj h]
    · exact absurd h (by simp)

section
variable {s : State} {h : Hdr} {tag : BitVec 12}

theorem State.mrgJoin_exec {o : R2} {x chain : Bool} (ha : s.admits (.mrgJoin h o tag x chain) = true) :
    exec (.mrgJoin h o tag x chain) s = .next (s.mrgJoinGo h o tag x chain) :=
  State.guarded_of_admits (i := .mrgJoin h o tag x chain) (fun s => s.mrgJoinGo h o tag x chain) ha

theorem State.mrgPut_exec {o : R2} (ha : s.admits (.mrgPut h o tag) = true) :
    exec (.mrgPut h o tag) s = .next (match s.here.leafRoot tag.toNat with
      | some r => s.mrgPutLeaf h o tag r
      | none => (s.oweStatus 2 o.d 1).advance h 16) := by
  change execMrgPut h o tag s = _
  unfold execMrgPut
  refine (State.guarded_of_admits (i := .mrgPut h o tag) _ ha).trans (congrArg _ ?_)
  dsimp only
  rw [Tile.leafRoot]
  generalize s.here.leafOf tag.toNat = leaf
  match leaf with
  | none => rfl
  | some (_, _, false) => rfl
  | some (_, _, true) => rfl

theorem State.mrgLeave_exec {d : SliceOp} (ha : s.admits (.mrgLeave h d tag) = true) :
    exec (.mrgLeave h d tag) s = .next (match s.here.leafRoot tag.toNat with
      | some r => s.mrgLeaveLeaf h d tag r
      | none => (s.oweStatus 2 d 1).advance h 16) := by
  change execMrgLeave h d tag s = _
  unfold execMrgLeave
  refine (State.guarded_of_admits (i := .mrgLeave h d tag) _ ha).trans (congrArg _ ?_)
  dsimp only
  rw [Tile.leafRoot]
  generalize s.here.leafOf tag.toNat = leaf
  match leaf with
  | none => rfl
  | some (_, _, false) => rfl
  | some (_, _, true) => rfl

end

/-- What goes into the tree when a tile joins. -/
theorem State.mrgJoin_issued (s : State) (h : Hdr) (o : R2) (tag root : Nat) (flits d : Nat) (b : Pkt) :
    Issued (s.inject s.curTile s.curTile .ni flits d b) ((((s.oweLater o.d).2.modHere (Tile.leafing tag root)).inject s.curTile s.curTile .ni flits d b).advance h 16) h 16
      (Tile.leafing tag root) [(s.inject s.curTile s.curTile .ni flits d b).varOwed o.d.range [] [] [] false] [] := by
  have horder : (((s.oweLater o.d).2.modHere (Tile.leafing tag root)).inject s.curTile s.curTile .ni flits d b) =
      (((s.inject s.curTile s.curTile .ni flits d b).modHere (Tile.leafing tag root)).oweVar o.d.range [] [] [] false).2 :=
    (State.oweVar_modHere (s.inject s.curTile s.curTile .ni flits d b) (g := Tile.leafing tag root) (fun _ => rfl) (fun _ _ _ => rfl) o.d.range)
  rw [horder]
  exact State.oweVar_issued _ h 16 o.d.range fun _ => rfl

theorem State.mrgLeave_status (s : State) (h : Hdr) (d : SliceOp) (tag : Nat) (b : Pkt) :
    Status (s.inject s.curTile s.curTile .ni 1 4 b)
      ((((s.modHere (Tile.unleafed tag)).inject s.curTile s.curTile .ni 1 4 b).oweStatus 2 d 0).advance h 16) h 16 (Tile.unleafed tag) 2 d 0 :=
  State.oweStatus_status (s.inject s.curTile s.curTile .ni 1 4 b) h 16 2 d 0 (g := Tile.unleafed tag) fun _ => rfl

/-- The list of a leaf: its entries, its k and its round as they are, its leaves 1 and its reserved bits 0. -/
theorem fld_leafList (l : Nat) :
    fld (BitVec.ofNat 512 (l % 2 ^ 416 + 2 ^ 416)).toNat 416 32 = 1 ∧ fld (BitVec.ofNat 512 (l % 2 ^ 416 + 2 ^ 416)).toNat 0 416 = fld l 0 416 ∧
      fld (BitVec.ofNat 512 (l % 2 ^ 416 + 2 ^ 416)).toNat 448 64 = 0 := by
  have hlt := Nat.mod_lt l (Nat.two_pow_pos 416)
  have htop : l % 2 ^ 416 + 2 ^ 416 < 2 ^ 417 := by
    rw [Nat.pow_succ 2 416]
    omega
  have hnat : (BitVec.ofNat 512 (l % 2 ^ 416 + 2 ^ 416)).toNat = l % 2 ^ 416 + 2 ^ 416 := by
    rw [BitVec.toNat_ofNat, Nat.mod_eq_of_lt (htop.trans (Nat.pow_lt_pow_right (by omega) (by omega)))]
  rw [hnat, fld, fld, fld, fld]
  refine ⟨?_, ?_, ?_⟩
  · rw [Nat.add_div_right _ (Nat.two_pow_pos 416), Nat.div_eq_of_lt hlt]
    rfl
  · rw [Nat.pow_zero, Nat.div_one, Nat.div_one, Nat.add_mod_right, Nat.mod_mod]
  · rw [Nat.div_eq_of_lt (htop.trans (Nat.pow_lt_pow_right (by omega) (by omega))), Nat.zero_mod]

/-- Settles O33: each instruction behind its checks, by the cases of its status. -/
theorem expertInstructions : Obligations.ExpertInstructions := by
  unfold Obligations.ExpertInstructions
  intro h o p d tag x chain s f n k a gives tree leaf none_ hd root l held foreign listed e w pond described
  refine ⟨fun ha => ?xgo, fun ha => ?xsnap, fun ha => ?xrepl, fun ha => ?join, fun ha => ?put, fun ha => ?leave⟩
  case xgo =>
    have hexec := State.xgo_exec ha
    refine ⟨fun hmis => ⟨_, hexec.trans (congrArg _ (if_pos (bne_iff_ne.2 hmis))), s.oweStatus_status_id h 16 2 o.d 2⟩, fun hal hfull => ?_, fun hal hroom => ?_⟩
    · refine ⟨_, hexec.trans (congrArg _ ((if_neg ?_).trans (if_pos hfull))), s.oweStatus_status_id h 16 2 o.d 1⟩
      exact fun hmis => bne_iff_ne.1 hmis hal
    · refine ⟨_, hexec.trans (congrArg _ ((if_neg ?_).trans (if_neg (Nat.not_le.2 hroom)))), State.oweStatus_status_id _ h 16 2 o.d 0⟩
      exact fun hmis => bne_iff_ne.1 hmis hal
  case xsnap =>
    have hexec := State.xsnap_exec ha
    refine ⟨fun hmis => hexec.trans (congrArg _ (if_pos (bne_iff_ne.2 hmis))), fun c hal hc => ?_, fun ps hal hps => ⟨_, hexec, State.xsnapGo_ok hal hps⟩⟩
    have hgo : s.xsnapGo h o chain = (s.oweStatus 2 o.d 1).advance h 16 := by
      simp only [State.xsnapGo]
      rw [if_neg fun hmis => bne_iff_ne.1 hmis hal, hc]
    rw [hgo] at hexec
    exact ⟨_, hexec, s.oweStatus_status_id h 16 2 o.d 1⟩
  case xrepl =>
    have hexec := State.xrepl_exec ha
    exact ⟨fun hbad => ⟨_, hexec.trans (congrArg _ (if_neg fun hok => hbad ((replOk_iff _ _).1 hok))), s.oweStatus_status_id h 16 4 p.d 1⟩,
      fun hok => ⟨_, hexec.trans (congrArg _ (if_pos ((replOk_iff _ _).2 hok))), s.oweVar_pending_id h 16 p.d.range 4 .statusResultWrite 8 _⟩⟩
  case join =>
    have hexec := State.mrgJoin_exec ha
    have hforeign : (!x && (hDev hd != s.dev.device.toNat || dieOf root != dieOf n)) = true ↔ foreign := by
      simp only [foreign, Bool.and_eq_true, Bool.not_eq_true', Bool.or_eq_true, bne_iff_ne]
    refine ⟨fun hheld => ⟨_, hexec.trans (congrArg _ (if_pos hheld)), s.oweStatus_status_id h 16 2 o.d 3⟩,
      fun hno hfor => ⟨_, hexec.trans (congrArg _ ((if_neg hno).trans (if_pos (hforeign.2 hfor)))), s.oweStatus_status_id h 16 2 o.d 2⟩,
      fun hno hfor => ⟨_, _, hexec.trans (congrArg _ ((if_neg hno).trans (if_neg (mt hforeign.1 hfor)))), rfl, s.mrgJoin_issued h o tag.toNat root 1 4 _⟩⟩
  case put =>
    have hexec := State.mrgPut_exec ha
    refine ⟨fun hnone => ?_, fun r hleaf hbad => ?_, fun r hleaf hlist => ?_⟩
    · have hroot : s.here.leafRoot tag.toNat = none := Option.eq_none_iff_forall_ne_some.2 fun r hr => hnone r ((s.here.leafOf_iff tag.toNat r).2 hr)
      rw [hroot] at hexec
      exact ⟨_, hexec, s.oweStatus_status_id h 16 2 o.d 1⟩
    · rw [(s.here.leafOf_iff tag.toNat r).1 hleaf] at hexec
      refine ⟨_, hexec.trans (congrArg _ (if_pos ?_)), s.oweStatus_status_id h 16 2 o.d 2⟩
      change fld l 400 8 = 0 ∨ 8 < fld l 400 8 ∨ fld l 400 8 < fld l 384 16
      by_contra hc
      exact hbad ⟨by omega, by omega, by omega⟩
    · rw [(s.here.leafOf_iff tag.toNat r).1 hleaf] at hexec
      obtain ⟨hpos, hle, hlen⟩ := hlist
      refine ⟨_, _, rfl, ⟨_, hexec.trans (congrArg _ (if_neg ?_)), State.oweStatus_status_id _ h 16 2 o.d 0⟩, fld_leafList l⟩
      change ¬ (fld l 400 8 = 0 ∨ 8 < fld l 400 8 ∨ fld l 400 8 < fld l 384 16)
      omega
  case leave =>
    have hexec := State.mrgLeave_exec ha
    refine ⟨fun hnone => ?_, fun r hleaf => ?_⟩
    · have hroot : s.here.leafRoot tag.toNat = none := Option.eq_none_iff_forall_ne_some.2 fun r hr => hnone r ((s.here.leafOf_iff tag.toNat r).2 hr)
      rw [hroot] at hexec
      exact ⟨_, hexec, s.oweStatus_status_id h 16 2 d 1⟩
    · rw [(s.here.leafOf_iff tag.toNat r).1 hleaf] at hexec
      exact ⟨_, _, hexec, rfl, s.mrgLeave_status h d tag.toNat _⟩

end Sys2Proof.Machine
end

section
/-!
PROOFS. O31: what `actl` leaves of its tile.
-/

namespace Sys2Proof.Machine

/-- `actl` of the table at pool address 0. -/
def actlZero : Instr := .actl ⟨false, 0⟩ ⟨.nz, .nz⟩ 0

/-- Right after reset `actl` issues. -/
theorem reset_admits_actl : State.reset.admits actlZero = true := by decide

/-- The table lies in a scratch way of the tile's own pool. -/
theorem reset_actl_parts : ∃ l, State.reset.partsOf State.reset.curTile .read .page true 0 528 = .ok l := ⟨_, rfl⟩

/-- The tile notes the read of the table. -/
theorem reset_actl_tables : ∃ t, exec actlZero State.reset = .next t ∧ t.here.tables.length = 1 := ⟨_, rfl, rfl⟩

/-- Refutes O31: `actl` of pool address 0, right after reset, adds its read to the tile's table reads, which the statement's frame for an access leaves as they were. -/
theorem not_matrixInstructions : ¬ Obligations.MatrixInstructions := by
  unfold Obligations.MatrixInstructions
  intro hall
  obtain ⟨-, -, -, -, -, hactl, -⟩ := hall ⟨false, 0⟩ ⟨.nz, .nz⟩ 0 (.slice .nz) .nz 0 0 State.reset
  obtain ⟨l, hl⟩ := reset_actl_parts
  obtain ⟨t, hexec, hentered, -⟩ := (hactl reset_admits_actl).2 l hl
  obtain ⟨u, hexec', htables⟩ := reset_actl_tables
  have htu : t = u := by
    rw [actlZero, hexec] at hexec'
    injection hexec'
  rw [← htu, hentered.tile] at htables
  exact absurd (show State.reset.here.tables.length = 1 from htables) (by decide)

end Sys2Proof.Machine
end

section
/-!
SUPPORT and PROOFS. Fences, the stash instructions and pinwait (R219, R220, R231, R233, R270): O20.
-/

namespace Sys2Proof.Machine

/-! ### Lines cleaned -/

/-- A line leaves a stash, or is owned no more. -/
def lineLeft (drop : Bool) (l : StashLine) (stash : List StashLine) : List StashLine :=
  if drop then stash.filter (·.va != l.va) else stash.map fun m => if m.va = l.va then { m with owned := false } else m

/-- The same of a tile. -/
def Tile.lineLeft (drop : Bool) (l : StashLine) (x : Tile) : Tile := { x with stash := Machine.lineLeft drop l x.stash }

/-- A line of the stash of tile `t` is cleaned: an owned one goes home, and it stays shared or is dropped (R219, R220). -/
def State.cleanLine (t : Nat) (drop : Bool) (s : State) (l : StashLine) : State :=
  ((if l.owned then s.stashHome l else s).modTile t (Tile.lineLeft drop l)).modStop (homeOf (128 * l.pa)) fun x =>
      if drop then x.dirLeave l.pa t
      else { x with dir := x.dir.map fun d => if d.line = l.pa ∧ d.owner = some t then { d with owner := none, sharers := [t] } else d }

theorem State.stashClean_eq (s : State) (t : Nat) (ls : List StashLine) (drop : Bool) : s.stashClean t ls drop = ls.foldl (State.cleanLine t drop) s := rfl

/-- Only the stash of tile `n`, directories, memory and poison differ. -/
structure StashOnly (n : Nat) (s u : State) : Prop where
  rest : u = { s with mem := u.mem, tiles := u.tiles, stops := u.stops, dev := { s.dev with poison := u.dev.poison } }
  others : ∀ m, m ≠ n → u.tile m = s.tile m
  tile : u.tile n = { s.tile n with stash := (u.tile n).stash }
  network : ∀ q, u.stop q = { s.stop q with dir := (u.stop q).dir }

theorem StashOnly.refl (n : Nat) (s : State) : StashOnly n s s := ⟨rfl, fun _ _ => rfl, rfl, fun _ => rfl⟩

theorem StashOnly.trans {n : Nat} {s u v : State} (h : StashOnly n s u) (k : StashOnly n u v) : StashOnly n s v := by
  refine ⟨?_, fun m hm => (k.others m hm).trans (h.others m hm), ?_, fun q => ?_⟩
  · rw [k.rest, h.rest]
  · rw [k.tile, h.tile]
  · rw [k.network q, h.network q]

theorem StashOnly.stashHome (n : Nat) (s : State) (l : StashLine) : StashOnly n s (s.stashHome l) := ⟨rfl, fun _ _ => rfl, rfl, fun _ => rfl⟩

theorem StashOnly.modTile (s : State) (n : Nat) {f : Tile → Tile} (hf : ∀ x, f x = { x with stash := (f x).stash }) : StashOnly n s (s.modTile n f) := by
  refine ⟨rfl, fun m hm => State.tile_modTile_ne s f hm, ?_, fun _ => rfl⟩
  rw [State.tile_modTile_same]
  exact hf _

theorem StashOnly.modStop (n : Nat) (s : State) (q : Nat) {f : Stop → Stop} (hf : ∀ x, f x = { x with dir := (f x).dir }) : StashOnly n s (s.modStop q f) := by
  refine ⟨rfl, fun _ _ => rfl, rfl, fun p => ?_⟩
  by_cases hp : p = q
  · subst hp
    simp only [State.modStop, State.stop, Tbl.get_set_same]
    exact hf _
  · simp only [State.modStop, State.stop, Tbl.get_set_ne _ _ _ hp]

theorem StashOnly.cleanLine (t : Nat) (drop : Bool) (s : State) (l : StashLine) : StashOnly t s (s.cleanLine t drop l) := by
  have hhome : StashOnly t s (if l.owned then s.stashHome l else s) := by
    split
    · exact .stashHome t s l
    · exact .refl t s
  refine (hhome.trans (.modTile _ t fun _ => rfl)).trans (.modStop t _ _ fun x => ?_)
  cases drop <;> rfl

theorem StashOnly.foldl (t : Nat) (drop : Bool) (ls : List StashLine) (s : State) : StashOnly t s (ls.foldl (State.cleanLine t drop) s) := by
  induction ls generalizing s with
  | nil => exact .refl t s
  | cons l ls ih => exact (StashOnly.cleanLine t drop s l).trans (ih _)

/-- What is left of a stash when the lines `ls` are cleaned. -/
def stashLeft (ls : List StashLine) (drop : Bool) (stash : List StashLine) : List StashLine :=
  if drop then stash.filter (fun m => !(ls.any fun l => l.va == m.va))
  else stash.map fun m => if ls.any (fun l => l.va == m.va) then { m with owned := false } else m

theorem stashLeft_nil (drop : Bool) (stash : List StashLine) : stashLeft [] drop stash = stash := by
  cases drop <;> simp [stashLeft]

theorem stashLeft_cons (l : StashLine) (ls : List StashLine) (drop : Bool) (stash : List StashLine) :
    stashLeft (l :: ls) drop stash = stashLeft ls drop (lineLeft drop l stash) := by
  cases drop with
  | true =>
    simp only [stashLeft, lineLeft, if_true, List.filter_filter, List.any_cons, Bool.not_or]
    refine List.filter_congr fun m _ => ?_
    rw [Bool.and_comm, bne, Bool.beq_comm]
  | false =>
    simp only [stashLeft, lineLeft, Bool.false_eq_true, if_false, List.map_map, List.any_cons]
    refine List.map_congr_left fun m _ => ?_
    by_cases hm : l.va = m.va
    · simp [hm]
    · simp [hm, Ne.symm hm]

theorem State.cleanLine_stash (t : Nat) (drop : Bool) (s : State) (l : StashLine) :
    ((s.cleanLine t drop l).tile t).stash = lineLeft drop l (s.tile t).stash := by
  have htile : (if l.owned then s.stashHome l else s).tile t = s.tile t := by split <;> rfl
  change (((if l.owned then s.stashHome l else s).modTile t (Tile.lineLeft drop l)).tile t).stash = _
  rw [State.tile_modTile_same, htile]
  rfl

theorem State.foldl_cleanLine_stash (t : Nat) (drop : Bool) (ls : List StashLine) (s : State) :
    ((ls.foldl (State.cleanLine t drop) s).tile t).stash = stashLeft ls drop (s.tile t).stash := by
  induction ls generalizing s with
  | nil => rw [List.foldl_nil, stashLeft_nil]
  | cons l ls ih => rw [List.foldl_cons, ih, State.cleanLine_stash, stashLeft_cons]

theorem State.cleanLine_mem (t : Nat) (drop : Bool) (s : State) (l : StashLine) : (s.cleanLine t drop l).mem = if l.owned then s.mem.writeN (128 * l.pa) 128 l.data else s.mem := by
  change (if l.owned then s.stashHome l else s).mem = _
  split <;> rfl

theorem State.cleanLine_poison (t : Nat) (drop : Bool) (s : State) (l : StashLine) :
    (s.cleanLine t drop l).dev.poison = if l.owned then (s.dev.poison.filter fun w => w / 16 != l.pa) ++ l.bad.map fun w => 16 * l.pa + w else s.dev.poison := by
  change (if l.owned then s.stashHome l else s).dev.poison = _
  split <;> rfl

/-- Every byte outside the lines written back is as before. -/
theorem State.foldl_cleanLine_outside (t : Nat) (drop : Bool) {b : Nat} (ls : List StashLine) (s : State)
    (h : ∀ l ∈ ls, l.owned = true → ¬ (128 * l.pa ≤ b ∧ b < 128 * l.pa + 128)) : (ls.foldl (State.cleanLine t drop) s).mem.read b = s.mem.read b := by
  induction ls generalizing s with
  | nil => rfl
  | cons l ls ih =>
    rw [List.foldl_cons, ih _ fun m hm => h m (List.mem_cons_of_mem _ hm), State.cleanLine_mem]
    split
    · next hown =>
      have hout := h l List.mem_cons_self hown
      exact Memory.read_writeN_outside _ _ _ _ (by omega)
    · rfl

/-- A line written back stands in memory. -/
theorem State.foldl_cleanLine_inside (t : Nat) (drop : Bool) (ls : List StashLine) (s : State) (hls : ls.Pairwise (fun l m => l.pa ≠ m.pa)) {l : StashLine} (hl : l ∈ ls)
    (hown : l.owned = true) {k : Nat} (hk : k < 128) : (ls.foldl (State.cleanLine t drop) s).mem.read (128 * l.pa + k) = BitVec.ofNat 8 (l.data / 256 ^ k) := by
  induction ls generalizing s with
  | nil => exact absurd hl (by simp)
  | cons m ls ih =>
    obtain ⟨hhead, htail⟩ := List.pairwise_cons.1 hls
    rcases List.mem_cons.1 hl with rfl | hl
    · rw [List.foldl_cons, State.foldl_cleanLine_outside t drop ls, State.cleanLine_mem, if_pos hown]
      · exact Memory.read_writeN_inside _ _ _ _ _ hk
      · intro m hm _
        have hne := hhead m hm
        omega
    · exact ih _ htail hl

/-- Every word outside the lines written back is poisoned as before. -/
theorem State.foldl_cleanLine_poison (t : Nat) (drop : Bool) {w : Nat} (ls : List StashLine) (s : State) (hbad : ∀ l ∈ ls, ∀ k ∈ l.bad, k < 16)
    (h : ∀ l ∈ ls, l.owned = true → w / 16 ≠ l.pa) : w ∈ (ls.foldl (State.cleanLine t drop) s).dev.poison ↔ w ∈ s.dev.poison := by
  induction ls generalizing s with
  | nil => rfl
  | cons l ls ih =>
    rw [List.foldl_cons, ih _ (fun m hm => hbad m (List.mem_cons_of_mem _ hm)) fun m hm => h m (List.mem_cons_of_mem _ hm), State.cleanLine_poison]
    split
    · next hown =>
      have hne := h l List.mem_cons_self hown
      have hnew : w ∉ l.bad.map fun k => 16 * l.pa + k := by
        intro hw
        obtain ⟨k, hk, rfl⟩ := List.mem_map.1 hw
        have hlt := hbad l List.mem_cons_self k hk
        omega
      simp [hne, hnew]
    · rfl

/-- What cleaning lines of the issuing tile's stash leaves and changes. -/
def State.Cleaned (s : State) (ls : List StashLine) (drop : Bool) (u : State) : Prop :=
  u = { s with mem := u.mem, tiles := u.tiles, stops := u.stops, dev := { s.dev with poison := u.dev.poison } } ∧ (∀ m, m ≠ s.curTile → u.tile m = s.tile m) ∧
    u.here = { s.here with stash :=
      if drop then s.here.stash.filter (fun m => !(ls.any fun l => l.va == m.va))
      else s.here.stash.map fun m => if ls.any (fun l => l.va == m.va) then { m with owned := false } else m } ∧
    (∀ q, u.stop q = { s.stop q with dir := (u.stop q).dir }) ∧
    (∀ b, (∀ l ∈ ls, l.owned = true → ¬ (128 * l.pa ≤ b ∧ b < 128 * l.pa + 128)) → u.mem.read b = s.mem.read b) ∧
    ((∀ l ∈ ls, ∀ k ∈ l.bad, k < 16) → ∀ w, (∀ l ∈ ls, l.owned = true → w / 16 ≠ l.pa) → (w ∈ u.dev.poison ↔ w ∈ s.dev.poison)) ∧
    (ls.Pairwise (fun l m => l.pa ≠ m.pa) → ∀ l ∈ ls, l.owned = true → ∀ k, k < 128 → u.mem.read (128 * l.pa + k) = BitVec.ofNat 8 (l.data / 256 ^ k))

theorem State.stashClean_cleaned (s : State) (ls : List StashLine) (drop : Bool) : s.Cleaned ls drop (s.stashClean s.curTile ls drop) := by
  rw [State.stashClean_eq]
  have honly := StashOnly.foldl s.curTile drop ls s
  have hcur : (ls.foldl (State.cleanLine s.curTile drop) s).curTile = s.curTile := by rw [honly.rest]
  refine ⟨honly.rest, honly.others, ?_, honly.network, fun b hb => State.foldl_cleanLine_outside s.curTile drop ls s hb,
    fun hbad w hw => State.foldl_cleanLine_poison s.curTile drop ls s hbad hw, fun hls l hl hown k hk => State.foldl_cleanLine_inside s.curTile drop ls s hls hl hown hk⟩
  rw [State.here, hcur, honly.tile, State.foldl_cleanLine_stash]
  rfl

/-! ### The instructions -/

/-- A fence is noted. -/
def Tile.fencedBy (f : FenceSt) (x : Tile) : Tile := { x with fences := x.fences ++ [f] }

/-- An entry of the stash map is set. -/
def Tile.mapped (e : Nat) (r : Option (Nat × Nat)) (x : Tile) : Tile := { x with stashMaps := Tbl.set x.stashMaps e r }

/-- The number is taken and a fence noted under it (R270). -/
theorem State.fence_issued (s : State) (h : Hdr) (len : Nat) (f : FenceSt) :
    Issued s ((s.take.2.modHere (Tile.fencedBy f)).advance h len) h len (Tile.fencedBy f) [] [] := by
  have hj : ∀ x k, (Tile.fencedBy f x).jet k = x.jet k := fun _ _ => rfl
  refine Issued.of_tiles (fun _ => rfl) ?_
  simp [State.take, State.tilesWith, State.advance, State.modHere_tiles, State.modCur_tiles, State.tile, State.here, State.cur_eq, hj,
    Jet.stepped, Jet.behind, withEvents, State.tc]

section
variable {s : State} {h : Hdr}

theorem State.fence_exec {i : Instr} {all : Bool} {sc : Scope} (he : exec i s = s.fence h all sc) (hf : footOf i s = {}) (ha : s.admits i = true) :
    exec i s = .next ((s.take.2.modHere (Tile.fencedBy ⟨s.cur.key, s.nextId, all, sc, false⟩)).advance h 8) := by
  rw [he, State.fence, ← hf]
  exact State.guarded_of_admits (i := i) (fun s => (s.take.2.modHere (Tile.fencedBy ⟨s.cur.key, s.nextId, all, sc, false⟩)).advance h 8) ha

theorem State.stashFlush_exec {o : R3} (ha : s.admits (.stashFlush h o) = true) :
    let l := s.here.stashIn (o.a.get s.cur.frame) (o.b.get s.cur.frame)
    exec (.stashFlush h o) s = .next (((s.stashClean s.curTile l false).oweStatus (s.stashCost s.curTile l) o.d 0).advance h 16) :=
  State.guarded_of_admits (i := .stashFlush h o) (fun s =>
    ((s.stashClean s.curTile (s.here.stashIn (o.a.get s.cur.frame) (o.b.get s.cur.frame)) false).oweStatus
      (s.stashCost s.curTile (s.here.stashIn (o.a.get s.cur.frame) (o.b.get s.cur.frame))) o.d 0).advance h 16) ha

/-- `stash.evict` behind its checks. -/
def State.stashEvictGo (h : Hdr) (o : R3) (s : State) : State :=
  let a := o.a.get s.cur.frame
  let n := o.b.get s.cur.frame
  let u := s.stashClean s.curTile (s.here.stashIn a n) true
  ((u.oweVar o.d.range [] [] [] false).2.after (s.stashCost s.curTile (s.here.stashIn a n)) .statusResultWrite ⟨s.curTile, s.curSlot, u.nextId, 10, a + 2 ^ 64 * n⟩).advance h 16

theorem State.stashEvict_exec {o : R3} (ha : s.admits (.stashEvict h o) = true) : exec (.stashEvict h o) s = .next (s.stashEvictGo h o) :=
  State.guarded_of_admits (i := .stashEvict h o) (fun s => s.stashEvictGo h o) ha

/-- `pinwait` behind its checks. -/
def State.pinwaitGo (h : Hdr) (o : R3) (s : State) : State :=
  let a := o.a.get s.cur.frame
  let n := o.b.get s.cur.frame
  if fld a 46 1 = 1 ∨ Config.dieBytes < fld a 0 40 + n then (s.oweStatus 4 o.d 1).advance h 16
  else ((s.oweVar o.d.range [] [] [] false).2.after 64 .pinwaitDone ⟨s.curTile, s.curSlot, s.nextId, n, a⟩).advance h 16

theorem State.pinwait_exec {o : R3} (ha : s.admits (.pinwait h o) = true) : exec (.pinwait h o) s = .next (s.pinwaitGo h o) :=
  State.guarded_of_admits (i := .pinwait h o) (fun s => s.pinwaitGo h o) ha

/-- The lines in the range that an entry of the stash map holds. -/
def Tile.mapHeld (x : Tile) (e : Nat) : List StashLine := match Tbl.get none x.stashMaps e with | some (b, k) => x.stashIn b k | none => []

/-- Whether another entry of the stash map meets a range. -/
def Tile.mapClash (x : Tile) (e a n : Nat) : Bool :=
  n != 0 && x.stashMaps.any fun m => m.1 != e && match m.2 with
    | some (b, k) => decide (a < b + k) && decide (b < a + n)
    | none => false

/-- The status of `stash.map`. -/
def Tile.mapStatus (x : Tile) (e a n : Nat) : Nat :=
  if x.poolways = 0 then 1 else if a % 128 != 0 || n % 128 != 0 || decide (2 ^ 32 < n) then 2 else if x.mapClash e a n then 3 else 0

/-- `stash.map` behind its checks. -/
def State.stashMapGo (h : Hdr) (o : R3) (e : Nat) (s : State) : State :=
  let a := o.a.get s.cur.frame
  let n := o.b.get s.cur.frame
  let st := s.here.mapStatus e a n
  if st != 0 then (s.oweStatus 1 o.d st).advance h 16
  else (((s.stashClean s.curTile (s.here.mapHeld e) true).modHere (Tile.mapped e (if n = 0 then none else some (a, n)))).oweStatus
    (s.stashCost s.curTile (s.here.mapHeld e)) o.d 0).advance h 16

theorem State.stashMap_exec {o : R3} {e : BitVec 3} (ha : s.admits (.stashMap h o e) = true) : exec (.stashMap h o e) s = .next (s.stashMapGo h o e.toNat) := by
  change execStashMap h o e s = _
  unfold execStashMap
  exact State.guarded_of_admits (i := .stashMap h o e) _ ha

end

theorem Tile.mapClash_iff (x : Tile) (e a n : Nat) :
    x.mapClash e a n = true ↔ n ≠ 0 ∧ ∃ m ∈ x.stashMaps, m.1 ≠ e ∧ ∃ b k, m.2 = some (b, k) ∧ a < b + k ∧ b < a + n := by
  simp only [Tile.mapClash, Bool.and_eq_true, bne_iff_ne, List.any_eq_true]
  refine and_congr_right fun _ => exists_congr fun m => and_congr_right fun _ => and_congr_right fun _ => ?_
  obtain ⟨i, r⟩ := m
  cases r with
  | none => simp
  | some r =>
    obtain ⟨b, k⟩ := r
    simp

/-- `stash.map` answers a status that is not 0 and does nothing else. -/
theorem State.stashMapGo_refused {s : State} {h : Hdr} {o : R3} {e v : Nat} (hv : s.here.mapStatus e (o.a.get s.cur.frame) (o.b.get s.cur.frame) = v) (hne : v ≠ 0) :
    s.stashMapGo h o e = (s.oweStatus 1 o.d v).advance h 16 := by
  subst hv
  exact if_pos (bne_iff_ne.2 hne)

theorem State.stashMapGo_done {s : State} {h : Hdr} {o : R3} {e : Nat} (hv : s.here.mapStatus e (o.a.get s.cur.frame) (o.b.get s.cur.frame) = 0) :
    s.stashMapGo h o e = (((s.stashClean s.curTile (s.here.mapHeld e) true).modHere
      (Tile.mapped e (if o.b.get s.cur.frame = 0 then none else some (o.a.get s.cur.frame, o.b.get s.cur.frame)))).oweStatus
        (s.stashCost s.curTile (s.here.mapHeld e)) o.d 0).advance h 16 :=
  if_neg fun hne => bne_iff_ne.1 hne hv

/-- The order of the statuses of `stash.map` (R231). -/
theorem Tile.mapStatus_of_fit {x : Tile} {e a n : Nat} (hways : x.poolways ≠ 0) (ha : a % 128 = 0) (hn : n % 128 = 0) (hlt : n ≤ 2 ^ 32) :
    x.mapStatus e a n = if x.mapClash e a n then 3 else 0 := by
  rw [Tile.mapStatus, if_neg hways, if_neg]
  simpa [ha, hn] using hlt

/-- Settles O20: what cleaning lines does, line by line, and each instruction behind its checks. -/
theorem fencesAndStash : Obligations.FencesAndStash := by
  unfold Obligations.FencesAndStash
  intro h o e sc s f a n x within lines held cost clash fence maps cleaned
  have hlines : x.stashIn a n = lines := List.filter_congr fun l _ => (Bool.decide_and _ _).symm
  refine ⟨fun ha => ?_, fun ha => ?_, fun ha => ?flush, fun ha => ?evict, fun ha => ⟨fun hways => ?_, fun hways hbad => ?_, fun hways hal hn hlt hclash => ?_, fun hways hal hn hlt hclash => ?_⟩, fun ha => ?pin⟩
  · exact ⟨_, State.fence_exec rfl rfl ha, s.fence_issued h 8 _⟩
  · exact ⟨_, State.fence_exec rfl rfl ha, s.fence_issued h 8 _⟩
  case flush =>
    have hexec := State.stashFlush_exec ha
    have hclean := s.stashClean_cleaned lines false
    rw [hlines] at hexec
    exact ⟨_, _, hexec, hclean, State.oweStatus_status_id _ h 16 (cost lines) o.d 0⟩
  case evict =>
    have hexec := State.stashEvict_exec ha
    have hclean := s.stashClean_cleaned lines true
    rw [State.stashEvictGo, hlines] at hexec
    refine ⟨_, _, hexec, hclean, ?_⟩
    have htile : (s.stashClean s.curTile lines true).curTile = s.curTile := by rw [hclean.1]
    have hslot : (s.stashClean s.curTile lines true).curSlot = s.curSlot := by rw [hclean.1]
    have hpend := (s.stashClean s.curTile lines true).oweVar_pending_id h 16 o.d.range (cost lines) .statusResultWrite 10 (a + 2 ^ 64 * n)
    rw [htile, hslot] at hpend
    exact hpend
  case pin =>
    intro bad
    exact ⟨fun hbad => ⟨_, (State.pinwait_exec ha).trans (congrArg _ (if_pos hbad)), s.oweStatus_status_id h 16 4 o.d 1⟩,
      fun hbad => ⟨_, (State.pinwait_exec ha).trans (congrArg _ (if_neg hbad)), s.oweVar_pending_id h 16 o.d.range 64 .pinwaitDone n a⟩⟩
  · exact ⟨_, (State.stashMap_exec ha).trans (congrArg _ (State.stashMapGo_refused (if_pos hways) (by decide))), s.oweStatus_status_id h 16 1 o.d 1⟩
  · refine ⟨_, (State.stashMap_exec ha).trans (congrArg _ (State.stashMapGo_refused ((if_neg hways).trans (if_pos ?_)) (by decide))), s.oweStatus_status_id h 16 1 o.d 2⟩
    simpa [or_assoc] using hbad
  · refine ⟨_, (State.stashMap_exec ha).trans (congrArg _ (State.stashMapGo_refused ((Tile.mapStatus_of_fit hways hal hn hlt).trans (if_pos ?_)) (by decide))),
      s.oweStatus_status_id h 16 1 o.d 3⟩
    exact (x.mapClash_iff e.toNat a n).2 hclash
  · have hdone := State.stashMapGo_done (h := h) (o := o) ((Tile.mapStatus_of_fit (e := e.toNat) hways hal hn hlt).trans (if_neg (mt (x.mapClash_iff e.toNat a n).1 hclash)))
    exact ⟨_, _, (State.stashMap_exec ha).trans (congrArg _ hdone), s.stashClean_cleaned held true,
      State.oweStatus_status _ h 16 (cost held) o.d 0 (g := Tile.mapped e.toNat (if n = 0 then none else some (a, n))) fun _ => rfl⟩

end Sys2Proof.Machine
end

section
/-!
PROOFS. O44: a status that comes to a jet whose frame is being saved.
-/

namespace Sys2Proof.Machine

/-- A status of 5 for slice 0 that is owed. -/
def statusFive : Owed :=
  { id := 7, fixed := false, due := 0, dst := [(0, 2)], mdst := [], w := [⟨[(0, 2, 5)], []⟩], flags := [0], issued := 0, pc := 0, defer := false, ord := 0 }

/-- The jet that it is owed to, in slot 0 of tile 0. -/
def owingJet : Jet := { Jet.empty with status := .suspended, key := 1, owed := [statusFive] }

/-- The jet's frame is being written at pool address 64 (R355), and its status comes. -/
def savingState : State :=
  { State.reset with
    focus := ⟨0, 0, 7, 0, 0⟩
    tiles := [(0, { Tile.reset with
      jets := [(0, owingJet)]
      saves := [(0, some { jet := owingJet, slot := 0, doneAt := 0, saved := false, chans := [], recAt := 0, frameAt := 64, bytes := 128 })] })] }

/-- The status goes into the record too. -/
theorem savingState_pool : ∃ t, exec .statusResultWrite savingState = .next t ∧ (t.tile 0).pool = [(64, 5)] := ⟨_, rfl, rfl⟩

/-- Refutes O44: a status of a jet that is being saved is written in its record as well, while the statement has the jet alone change. -/
theorem not_resultsArrive : ¬ Obligations.ResultsArrive := by
  unfold Obligations.ResultsArrive
  intro hall
  obtain ⟨-, -, -, -, hstatus, -⟩ := hall savingState
  have hexec := hstatus statusFive rfl rfl rfl
  obtain ⟨t, hexec', hpool⟩ := savingState_pool
  rw [hexec] at hexec'
  injection hexec' with htile
  rw [← htile] at hpool
  exact absurd (show ([] : Memory) = [(64, 5)] from hpool) (by decide)

end Sys2Proof.Machine
end

section
/-!
SUPPORT and PROOFS. `tlbinv`, `waymask` and `selftest` as they issue (R234, R254, R360), and O41.
-/

namespace Sys2Proof.Machine

/-! ### tlbinv -/

/-- The tile where the entries of a range have left its TLB, and the instruction cache is empty. -/
def Tile.invalidated (a n : Nat) (x : Tile) : Tile := { x with tlb := x.tlb.filter (fun e => !e.inRange a n), icache := [] }

/-- Of the tiles, those named have dropped the entries of a range; else only caches of dies differ. -/
structure Invalidated (a n : Nat) (us : List Nat) (s u : State) : Prop where
  rest : u = { s with tiles := u.tiles, dies := u.dies }
  inside : ∀ m, m ∈ us → u.tile m = (s.tile m).invalidated a n
  outside : ∀ m, m ∉ us → u.tile m = s.tile m

theorem Tile.invalidated_twice (a n : Nat) (x : Tile) : (x.invalidated a n).invalidated a n = x.invalidated a n := by
  simp [Tile.invalidated, List.filter_filter]

theorem Invalidated.nil (a n : Nat) (s : State) : Invalidated a n [] s s := ⟨rfl, fun _ hm => absurd hm List.not_mem_nil, fun _ _ => rfl⟩

theorem Invalidated.modTile (a n m : Nat) (s : State) : Invalidated a n [m] s (s.modTile m (Tile.invalidated a n)) := by
  refine ⟨rfl, fun k hk => ?_, fun k hk => State.tile_modTile_ne s _ (by simpa using hk)⟩
  obtain rfl : k = m := by simpa using hk
  exact State.tile_modTile_same s k _

theorem Invalidated.append {a n : Nat} {us vs : List Nat} {s u v : State} (h : Invalidated a n us s u) (k : Invalidated a n vs u v) :
    Invalidated a n (us ++ vs) s v := by
  refine ⟨by rw [k.rest, h.rest], fun m hm => ?_, fun m hm => ?_⟩
  · by_cases hv : m ∈ vs <;> by_cases hu : m ∈ us
    · rw [k.inside m hv, h.inside m hu, Tile.invalidated_twice]
    · rw [k.inside m hv, h.outside m hu]
    · rw [k.outside m hv, h.inside m hu]
    · exact absurd hm (by simp [hu, hv])
  · rw [k.outside m (fun hv => hm (List.mem_append_right _ hv)), h.outside m (fun hu => hm (List.mem_append_left _ hu))]

theorem Invalidated.tiles (a n : Nat) (us : List Nat) (s : State) :
    Invalidated a n us s (us.foldl (fun (s : State) u => s.modTile u (Tile.invalidated a n)) s) := by
  induction us generalizing s with
  | nil => exact .nil a n s
  | cons u us ih => exact (Invalidated.modTile a n u s).append (ih _)

theorem Invalidated.dies {a n : Nat} {us : List Nat} {s : State} (f : Die → Die) (ds : List Nat) (u : State) (h : Invalidated a n us s u) :
    Invalidated a n us s (ds.foldl (fun (s : State) d => s.modDie d f) u) := by
  induction ds generalizing u with
  | nil => exact h
  | cons d ds ih =>
    exact ih _ ⟨congrArg (fun v : State => { v with dies := (u.modDie d f).dies }) h.rest, h.inside, h.outside⟩

theorem State.invalidate_spec (s : State) (t sc a n : Nat) : Invalidated a n (s.scopeTiles t sc) s (s.invalidate t sc a n) :=
  .dies _ _ _ (.tiles a n _ s)

theorem State.mem_scopeTiles (s : State) {t sc u : Nat} :
    u ∈ s.scopeTiles t sc ↔ (sc = 0 ∧ u = t) ∨ ((∃ e ∈ s.tiles, e.1 = u) ∧ ((sc = 1 ∧ dieOf u = dieOf t) ∨ 2 ≤ sc)) := by
  match sc with
  | 0 => simp [State.scopeTiles]
  | 1 => simp [State.scopeTiles]
  | k + 2 => simp [State.scopeTiles]

/-- What an invalidation has still to wait for. -/
def State.invalOf (s : State) (t sc a n : Nat) : Inval :=
  let us := s.scopeTiles t sc
  { tile := t, slot := s.curSlot, owedId := s.nextId
    accs := us.flatMap fun u => (s.tile u).inFlight u a n
    reads := us.flatMap fun u => s.readsInFlight u a n
    writes := us.flatMap fun u => s.writesInFlight u a n
    streams := s.openStreams.filter fun e => us.any fun u => s.pageIn u e.2.1 (128 * e.2.2.length) a n
    catchups := us.flatMap fun u => s.catchupsInFlight u a n }

/-- How long an invalidation of a scope takes at least. -/
def invalLat (sc : Nat) : Nat := match sc with | 0 => 4 | 1 => 48 | _ => 160

/-- The machine as `tlbinv` leaves it before its status is owed. -/
def State.tlbinvBegun (s : State) (t sc a n : Nat) : State :=
  (s.invalidate t sc a n).modDev fun d => { d with tlbinvs := d.tlbinvs ++ [{ s.invalOf t sc a n with owedId := (s.invalidate t sc a n).nextId }] }

def State.tlbinvGo (h : Hdr) (o : R3) (sc : Nat) (s : State) : State :=
  let a := o.a.get s.cur.frame
  let n := o.b.get s.cur.frame
  if 2 ^ 57 < a + n then (s.oweStatus 2 o.d 1).advance h 16
  else
    let u := s.tlbinvBegun s.curTile sc a n
    ((u.oweVar o.d.range [] [] [] false).2.after (invalLat sc) .tlbinvComplete ⟨s.curTile, s.curSlot, u.nextId, 0, 0⟩).advance h 16

theorem State.tlbinv_exec {s : State} {h : Hdr} {o : R3} {sc : BitVec 2} (ha : s.admits (.tlbinv h o sc) = true) :
    exec (.tlbinv h o sc) s = .next (s.tlbinvGo h o sc.toNat) :=
  State.guarded_of_admits (i := .tlbinv h o sc) (fun s => s.tlbinvGo h o sc.toNat) ha

theorem State.tlbinvBegun_rest (s : State) (t sc a n : Nat) : s.tlbinvBegun t sc a n =
    { s with tiles := (s.tlbinvBegun t sc a n).tiles, dies := (s.tlbinvBegun t sc a n).dies, dev := (s.tlbinvBegun t sc a n).dev } :=
  congrArg (fun v : State => { v with dev := (s.tlbinvBegun t sc a n).dev }) (s.invalidate_spec t sc a n).rest

theorem Invalidated.jets {a n : Nat} {us : List Nat} {s u : State} (h : Invalidated a n us s u) (m : Nat) : (u.tile m).jets = (s.tile m).jets := by
  by_cases hm : m ∈ us
  · rw [h.inside m hm]; rfl
  · rw [h.outside m hm]

theorem Invalidated.pool {a n : Nat} {us : List Nat} {s u : State} (h : Invalidated a n us s u) (m : Nat) : (u.tile m).pool = (s.tile m).pool := by
  by_cases hm : m ∈ us
  · rw [h.inside m hm]; rfl
  · rw [h.outside m hm]

/-- A tile that an instruction has issued on has the pool and the TLB of what `g` makes of it. -/
theorem Issued.tile_as {s t : State} {h : Hdr} {len : Nat} {os : List Owed} {es : List (Nat × Focus × Instr)} (k : Issued s t h len id os es) (m : Nat) :
    (t.tile m).pool = (s.tile m).pool ∧ (t.tile m).tlb = (s.tile m).tlb := by
  by_cases hm : m = s.curTile
  · have hcur : t.curTile = s.curTile := by rw [k.frame.rest]
    have htile := k.frame.tile
    rw [State.here, hcur, ← hm] at htile
    rw [htile, State.here, ← hm]
    exact ⟨rfl, rfl⟩
  · rw [k.frame.others m hm]
    exact ⟨rfl, rfl⟩

theorem TlbEntry.inRange_iff (e : TlbEntry) (a n : Nat) : e.inRange a n = true ↔ n = 0 ∨ (a < e.vbase + e.size ∧ e.vbase < a + n) := by
  simp [TlbEntry.inRange]

theorem Tile.mem_invalidated (a n : Nat) (x : Tile) (e : TlbEntry) :
    e ∈ (x.invalidated a n).tlb ↔ e ∈ x.tlb ∧ ¬ (n = 0 ∨ (a < e.vbase + e.size ∧ e.vbase < a + n)) := by
  rw [← e.inRange_iff a n]
  simp [Tile.invalidated]

/-- What `tlbinv` does of a range inside 2^57. -/
theorem State.tlbinv_drops {s : State} {h : Hdr} {o : R3} {sc a n : Nat} (hle : a + n ≤ 2 ^ 57) (hav : o.a.get s.cur.frame = a) (hnv : o.b.get s.cur.frame = n)
    {t : State} (ht : s.tlbinvGo h o sc = t) :
    t.cur = s.cur.behind h 16 s.tc [s.varOwed o.d.range [] [] [] false] ∧ t.mem = s.mem ∧
      (s.nc + 2 * invalLat sc, ⟨s.curTile, s.curSlot, s.nextId, 0, 0⟩, Instr.tlbinvComplete) ∈ t.agenda ∧
      (∀ u ∈ s.scopeTiles s.curTile sc, ∀ e, e ∈ (t.tile u).tlb ↔ e ∈ (s.tile u).tlb ∧ ¬ (n = 0 ∨ (a < e.vbase + e.size ∧ e.vbase < a + n))) ∧
      (∀ u, u ∉ s.scopeTiles s.curTile sc → u ≠ s.curTile → t.tile u = s.tile u) ∧ ∀ u, (t.tile u).pool = (s.tile u).pool := by
  obtain ⟨v, hv⟩ : ∃ v, s.tlbinvBegun s.curTile sc a n = v := ⟨_, rfl⟩
  have hrest := s.tlbinvBegun_rest s.curTile sc a n
  have hinv : Invalidated a n (s.scopeTiles s.curTile sc) s (s.invalidate s.curTile sc a n) := s.invalidate_spec s.curTile sc a n
  have htiles : ∀ m, v.tile m = (s.invalidate s.curTile sc a n).tile m := fun m => by rw [← hv]; rfl
  rw [hv] at hrest
  have hct : v.curTile = s.curTile := by rw [hrest]
  have hcs : v.curSlot = s.curSlot := by rw [hrest]
  have hid : v.nextId = s.nextId := by rw [hrest]
  have htc : v.tc = s.tc := by rw [State.tc, State.tc, hrest]
  have hcur : v.cur = s.cur := by
    rw [State.cur, State.cur, hct, hcs, State.jet, State.jet, Tile.jet, Tile.jet, htiles, hinv.jets]
  have howed : v.varOwed o.d.range [] [] [] false = s.varOwed o.d.range [] [] [] false := by rw [State.varOwed, State.varOwed, hid, htc, hcur]
  have hnot : ¬ 2 ^ 57 < o.a.get s.cur.frame + o.b.get s.cur.frame := by rw [hav, hnv]; exact Nat.not_lt.2 hle
  rw [State.tlbinvGo, if_neg hnot, hav, hnv, hv, ← hct, ← hcs] at ht
  have hpend : Pending v t h 16 id o.d.range (invalLat sc) .tlbinvComplete 0 0 := by
    rw [← ht]
    exact v.oweVar_pending_id h 16 o.d.range (invalLat sc) .tlbinvComplete 0 0
  refine ⟨by rw [hpend.jet, hcur, htc, howed], ?_, ?_, fun u hu e => ?_, fun u hu hne => ?_, fun u => ?_⟩
  · rw [hpend.frame.rest, hrest]
  · rw [hpend.events, ← hct, ← hcs, ← hid, show s.nc = v.nc by rw [hrest]]
    exact agendaInsert_mem _ _ _ _
  · rw [(hpend.tile_as u).2, htiles, hinv.inside u hu]
    exact (s.tile u).mem_invalidated a n e
  · rw [hpend.frame.others u (by rwa [hct]), htiles, hinv.outside u hu]
  · rw [(hpend.tile_as u).1, htiles, hinv.pool]

/-! ### waymask -/

/-- Between two states of a tile, ways may have left the stash's scratch mask, but for those in `ws`; the pending change of ways is as before. -/
structure WayStep (ws : List Nat) (x y : Tile) : Prop where
  pend : y.wayPend = x.wayPend
  ways : ∀ w, w < 16 → y.poolways.getLsbD w = true → x.poolways.getLsbD w = true ∨ w ∈ ws

theorem WayStep.refl (x : Tile) : WayStep [] x x := ⟨rfl, fun _ _ hw => .inl hw⟩

theorem WayStep.same {x y : Tile} (hpend : y.wayPend = x.wayPend) (hways : y.poolways = x.poolways) : WayStep [] x y :=
  ⟨hpend, fun _ _ hw => .inl (hways ▸ hw)⟩

theorem WayStep.trans {ws vs : List Nat} {x y z : Tile} (h : WayStep ws x y) (k : WayStep vs y z) : WayStep (ws ++ vs) x z := by
  refine ⟨k.pend.trans h.pend, fun w hlt hw => ?_⟩
  rcases k.ways w hlt hw with hy | hv
  · exact (h.ways w hlt hy).imp_right (List.mem_append_left _)
  · exact .inr (List.mem_append_right _ hv)

theorem getLsbD_bit (w v : Nat) (hw : w < 16) : (BitVec.ofNat 16 (2 ^ v)).getLsbD w = decide (v = w) := by
  rw [BitVec.getLsbD_ofNat, Nat.testBit_two_pow, decide_eq_true hw, Bool.true_and]

theorem WayStep.wayOut (x : Tile) (w : Nat) : WayStep [w] x (x.wayOut w) := by
  refine ⟨rfl, fun v hlt hv => ?_⟩
  have hbits : (x.poolways ||| BitVec.ofNat 16 (2 ^ w)).getLsbD v = true := hv
  rw [BitVec.getLsbD_or, getLsbD_bit v w hlt, Bool.or_eq_true, decide_eq_true_iff] at hbits
  exact hbits.imp_right fun h => by simp [h]

theorem WayStep.wayOuts (ws : List Nat) (x : Tile) : WayStep ws x (ws.foldl Tile.wayOut x) := by
  induction ws generalizing x with
  | nil => exact .refl x
  | cons w ws ih => exact (WayStep.wayOut x w).trans (ih _)

/-- A way of the mask is the stash's. -/
def Tile.wayIn (x : Tile) (w : Nat) : Tile := { x.zeroWay w with poolways := x.poolways &&& ~~~BitVec.ofNat 16 (2 ^ w) }

theorem Tile.foldl_wayIn (ws : List Nat) (x : Tile) : (ws.foldl Tile.wayIn x).wayPend = x.wayPend ∧
    ∀ w, w < 16 → ((ws.foldl Tile.wayIn x).poolways.getLsbD w = true ↔ x.poolways.getLsbD w = true ∧ w ∉ ws) := by
  induction ws generalizing x with
  | nil => exact ⟨rfl, fun w _ => by simp⟩
  | cons v ws ih =>
    obtain ⟨hpend, hways⟩ := ih (x.wayIn v)
    refine ⟨hpend, fun w hlt => (hways w hlt).trans ?_⟩
    have hbits : (x.wayIn v).poolways.getLsbD w = (x.poolways.getLsbD w && !decide (v = w)) := by
      rw [← getLsbD_bit w v hlt, Tile.wayIn, BitVec.getLsbD_and, BitVec.getLsbD_not]
      simp [hlt]
    rw [hbits]
    simp only [Bool.and_eq_true, Bool.not_eq_true', decide_eq_false_iff_not, List.mem_cons, not_or, and_assoc, @eq_comm _ w v]

/-- The tile whose stash map is empty where no way is scratch. -/
def Tile.unmapped (x : Tile) : Tile := if x.poolways = 0 then { x with stashMaps := [] } else x

theorem Tile.unmapped_ways (x : Tile) : x.unmapped.wayPend = x.wayPend ∧ x.unmapped.poolways = x.poolways := by
  unfold Tile.unmapped
  split <;> exact ⟨rfl, rfl⟩

/-- Ways that come to the stash leave the scratch mask, and no other change of it. -/
theorem State.waysIn_step (s : State) (t : Nat) (ws : List Nat) :
    ((s.waysIn t ws).tile t).wayPend = (s.tile t).wayPend ∧
      ∀ w, w < 16 → (((s.waysIn t ws).tile t).poolways.getLsbD w = true ↔ (s.tile t).poolways.getLsbD w = true ∧ w ∉ ws) := by
  match ws with
  | [] => exact ⟨rfl, fun w _ => by simp [State.waysIn]⟩
  | v :: ws =>
    obtain ⟨hpend, hways⟩ := Tile.foldl_wayIn (v :: ws) (s.tile t)
    have hclean := fun ls => (StashOnly.foldl t true ls (s.modTile t fun x => (v :: ws).foldl Tile.wayIn x)).tile
    have hlast : ∀ u : State, (u.modTile t Tile.unmapped).tile t = (u.tile t).unmapped := fun u => State.tile_modTile_same u t _
    have hin : ∃ ls, (s.waysIn t (v :: ws)).tile t = ((((s.modTile t fun x => (v :: ws).foldl Tile.wayIn x).stashClean t ls true)).tile t).unmapped :=
      ⟨_, hlast _⟩
    obtain ⟨ls, hin⟩ := hin
    rw [hin, (Tile.unmapped_ways _).1, (Tile.unmapped_ways _).2, State.stashClean_eq, hclean, State.tile_modTile_same]
    exact ⟨hpend, hways⟩

theorem State.waysIn_here (s : State) (t : Nat) (ws : List Nat) : (s.waysIn t ws).curTile = s.curTile ∧ (s.waysIn t ws).curSlot = s.curSlot := by
  match ws with
  | [] => exact ⟨rfl, rfl⟩
  | v :: ws =>
    have hclean := fun ls => (StashOnly.foldl t true ls (s.modTile t fun x => (v :: ws).foldl Tile.wayIn x)).rest
    have hin : ∃ ls f, s.waysIn t (v :: ws) = ((s.modTile t fun x => (v :: ws).foldl Tile.wayIn x).stashClean t ls true).modTile t f := ⟨_, _, rfl⟩
    obtain ⟨ls, f, hin⟩ := hin
    rw [hin, State.stashClean_eq, State.modTile_curTile, State.modTile_curSlot, hclean]
    exact ⟨rfl, rfl⟩

/-- What becomes of a jet leaves the ways of its tile as they are. -/
theorem WayStep.modJet (s : State) (n k : Nat) (f : Jet → Jet) (m : Nat) : WayStep [] (s.tile m) ((s.modJet n k f).tile m) := by
  by_cases hm : m = n
  · subst hm
    rw [State.modJet, State.tile_modTile_same]
    exact .same rfl rfl
  · rw [State.modJet, State.tile_modTile_ne _ _ hm]
    exact .refl _

theorem WayStep.settle (s : State) (t slot id lat v : Nat) : WayStep [] (s.tile t) ((s.settle t slot id lat v).tile t) := by
  rw [State.settle_tile, Tile.settled]
  split <;> exact .same rfl rfl

/-- The ways that a change of the scratch mask takes from the stash, and those it gives back. -/
def Tile.waysOut (x : Tile) (new : BitVec 16) : List Nat := (List.range 16).filter fun w => new.getLsbD w && !x.poolways.getLsbD w
def Tile.waysBack (x : Tile) (new : BitVec 16) : List Nat := (List.range 16).filter fun w => x.poolways.getLsbD w && !new.getLsbD w

/-- The machine after the ways of a change that can change at once. -/
def State.waysChanged (s : State) (new : BitVec 16) : State :=
  (s.waysIn s.curTile (s.here.waysBack new)).modTile s.curTile fun y =>
    ((s.here.waysOut new).filter fun w => !s.wayBusy s.curTile w).foldl Tile.wayOut y

/-- How long the ways that leave the stash take to be written back. -/
def State.waysCost (s : State) (new : BitVec 16) : Nat :=
  s.stashCost s.curTile (overfull (((List.range 16).filter fun w => s.here.poolways.getLsbD w && new.getLsbD w && !s.here.fenced.contains (2, w)).length) s.here.stash [])

def State.waymaskNew (s : State) (o : R2) (m : BitVec 16) : BitVec 16 := if o.a.isNz then m else BitVec.ofNat 16 (o.a.get s.cur.frame)

/-- A change of ways that is accepted: it is done, or it waits for channels. -/
def State.waysAsked (s : State) (h : Hdr) (d : SliceOp) (new : BitVec 16) : State :=
  let p := (s.waysChanged new).oweVar d.range [] [] [] false
  if (p.2.tile s.curTile).poolways = new then (p.2.settle s.curTile s.curSlot p.1 (s.waysCost new) 0).advance h 8
  else (p.2.modTile s.curTile fun y => { y with wayPend := some ⟨new, 0, s.curSlot, p.1⟩ }).advance h 8

def State.waymaskGo (h : Hdr) (o : R2) (m : BitVec 16) (s : State) : State :=
  if s.here.wayPend.isSome then (s.oweStatus 1 o.d 1).advance h 8
  else if (s.here.waysOut (s.waymaskNew o m)).any s.here.wayHeld then (s.oweStatus 1 o.d 2).advance h 8
  else s.waysAsked h o.d (s.waymaskNew o m)

theorem State.waymask_exec {s : State} {h : Hdr} {o : R2} {m : BitVec 16} (ha : s.admits (.waymask h o m) = true) :
    exec (.waymask h o m) s = .next (s.waymaskGo h o m) :=
  State.guarded_of_admits (i := .waymask h o m) (fun s => s.waymaskGo h o m) ha

theorem WayStep.waysChanged (s : State) (new : BitVec 16) : WayStep (s.here.waysOut new) (s.here) ((s.waysChanged new).tile s.curTile) ∧
    ∀ w, w < 16 → new.getLsbD w = false → ((s.waysChanged new).tile s.curTile).poolways.getLsbD w = false := by
  obtain ⟨hpend, hin⟩ := s.waysIn_step s.curTile (s.here.waysBack new)
  have hout := WayStep.wayOuts ((s.here.waysOut new).filter fun w => !s.wayBusy s.curTile w) ((s.waysIn s.curTile (s.here.waysBack new)).tile s.curTile)
  rw [State.waysChanged, State.tile_modTile_same]
  refine ⟨⟨hout.pend.trans hpend, fun w hlt hw => ?_⟩, fun w hlt hnew => ?_⟩
  · exact (hout.ways w hlt hw).imp (fun h => ((hin w hlt).1 h).1) fun h => (List.mem_filter.1 h).1
  · refine Bool.eq_false_iff.2 fun hw => ?_
    rcases hout.ways w hlt hw with hold | hmem
    · obtain ⟨hold, hkept⟩ := (hin w hlt).1 hold
      exact hkept (List.mem_filter.2 ⟨List.mem_range.2 hlt, by simp [show s.here.poolways.getLsbD w = true from hold, hnew]⟩)
    · have hset := (List.mem_filter.1 (List.mem_filter.1 hmem).1).2
      rw [hnew] at hset
      exact Bool.noConfusion hset

/-- What an accepted change of ways leaves of the tile. -/
theorem State.waysAsked_here (s : State) (h : Hdr) (d : SliceOp) (new : BitVec 16) (hp : s.here.wayPend = none) :
    ((s.waysAsked h d new).here.poolways = new ∧ (s.waysAsked h d new).here.wayPend = none ∨
      ∃ q, (s.waysAsked h d new).here.wayPend = some q ∧ q.mask = new ∧ q.slot = s.curSlot) ∧
    ∀ w, w < 16 → new.getLsbD w = false → (s.waysAsked h d new).here.poolways.getLsbD w = false := by
  obtain ⟨hstep, hclear⟩ := WayStep.waysChanged s new
  obtain ⟨u, hu⟩ : ∃ u, (s.waysChanged new).oweVar d.range [] [] [] false = u := ⟨_, rfl⟩
  have hct : u.2.curTile = s.curTile := by rw [← hu]; exact (s.waysIn_here s.curTile _).1
  have howe : WayStep [] ((s.waysChanged new).tile s.curTile) (u.2.tile s.curTile) := by rw [← hu]; exact .modJet _ _ _ _ _
  have hpend : (u.2.tile s.curTile).wayPend = none := howe.pend.trans (hstep.pend.trans hp)
  have hzero : ∀ x : Tile, (∀ w, w < 16 → x.poolways.getLsbD w = true → (u.2.tile s.curTile).poolways.getLsbD w = true) → ∀ w, w < 16 → new.getLsbD w = false → x.poolways.getLsbD w = false := by
    refine fun x hx w hlt hnew => Bool.eq_false_iff.2 fun hw => ?_
    have hold := (howe.ways w hlt (hx w hlt hw)).resolve_right List.not_mem_nil
    rw [hclear w hlt hnew] at hold
    exact Bool.noConfusion hold
  have hlast : ∀ v : State, v.curTile = s.curTile → (v.advance h 8).here.wayPend = (v.tile s.curTile).wayPend ∧
      (v.advance h 8).here.poolways = (v.tile s.curTile).poolways := by
    intro v hv
    rw [State.advance, State.here_modCur, State.here, hv]
    exact ⟨rfl, rfl⟩
  rw [State.waysAsked, hu]
  split
  next heq =>
    have hset := WayStep.settle u.2 s.curTile s.curSlot u.1 (s.waysCost new) 0
    obtain ⟨hpe, hwe⟩ := hlast (u.2.settle s.curTile s.curSlot u.1 (s.waysCost new) 0) hct
    rw [hpe, hwe]
    refine ⟨.inl ⟨?_, hset.pend.trans hpend⟩, hzero _ fun w hlt hw => (hset.ways w hlt hw).resolve_right List.not_mem_nil⟩
    rw [State.settle_tile, Tile.settled]
    split <;> exact heq
  next heq =>
    obtain ⟨hpe, hwe⟩ := hlast (u.2.modTile s.curTile fun y => { y with wayPend := some ⟨new, 0, s.curSlot, u.1⟩ }) hct
    rw [hpe, hwe, State.tile_modTile_same]
    exact ⟨.inr ⟨_, rfl, rfl, rfl⟩, hzero _ fun _ _ hw => hw⟩

/-! ### selftest -/

def State.selftestGo (h : Hdr) (o : R2) (kind : Nat) (s : State) : State :=
  if !o.a.isNz && decide (unitCount kind ≤ o.a.get s.cur.frame) then (s.oweStatus 2 o.d 2).advance h 16
  else
    let p := s.oweVar o.d.range [] [] [] false
    (p.2.startTest { id := 0, tile := s.curTile, kind := kind, units := if o.a.isNz then List.range (unitCount kind) else [o.a.get s.cur.frame], mbox := false,
                     byError := false, slot := s.curSlot, owedId := some p.1, result := 0 }).advance h 16

theorem State.selftest_exec {s : State} {h : Hdr} {o : R2} {kind : BitVec 3} (ha : s.admits (.selftest h o kind) = true) :
    exec (.selftest h o kind) s = .next (s.selftestGo h o kind.toNat) :=
  State.guarded_of_admits (i := .selftest h o kind) (fun s => s.selftestGo h o kind.toNat) ha

/-- The delay that is drawn for a test. -/
def State.testDelay (s : State) : Nat := 1 + Config.freeDelay s.fresh % 4096

/-- A test that is started stands in the device's list and is to be made within 4,096 tc. -/
theorem State.startTest_spec (s : State) (r : SelfTest) :
    (s.startTest r).dev.selftests = s.dev.selftests ++ [{ r with id := s.nextId }] ∧
      (s.nc + 2 * s.testDelay, ⟨r.tile, s.nextId, 0, 0, 0⟩, Instr.selftestDone) ∈ (s.startTest r).agenda :=
  ⟨rfl, agendaInsert_mem _ _ _ _⟩

theorem State.testDelay_bounds (s : State) : 1 ≤ s.testDelay ∧ s.testDelay ≤ 4096 := by
  unfold State.testDelay
  omega

/-- A test that is started leaves the jet that asks for it. -/
theorem State.startTest_cur (s : State) (r : SelfTest) (h : Hdr) : ((s.startTest r).advance h 16).cur = (s.advance h 16).cur := rfl

/-- Settles O41: the three instructions by their branches; `tlbinv` by what dropping entries leaves of each tile, `waymask` by what each change of ways does to the mask. -/
theorem unitInstructions : Obligations.UnitInstructions := by
  unfold Obligations.UnitInstructions
  intro h o p sc m kind s f x a n i1 i2 i3 inScope meets wait new leaves units
  refine ⟨fun ha => ⟨fun hlt => ?_, fun hle => ?_⟩, fun ha => ⟨fun hp => ?_, fun hp hheld => ?_, fun hp hheld => ?_⟩, fun ha => ⟨fun hz hle => ?_, fun hu => ?_⟩⟩
  · exact ⟨_, (State.tlbinv_exec ha).trans (congrArg _ (if_pos hlt)), s.oweStatus_status_id h 16 2 o.d 1⟩
  · obtain ⟨hcur, hmem, hev, hin, hout, hpool⟩ := State.tlbinv_drops (h := h) (o := o) (sc := sc.toNat) hle rfl rfl rfl
    have hwait : invalLat sc.toNat = wait := by
      simp only [wait]
      match sc.toNat with
      | 0 => rfl
      | 1 => rfl
      | k + 2 => rw [if_neg (by omega), if_neg (by omega)]; rfl
    rw [hwait] at hev
    refine ⟨_, State.tlbinv_exec ha, hcur, hmem, hev, fun u hu hex => hin u (s.mem_scopeTiles.2 ?_), fun u hu => hout u (mt s.mem_scopeTiles.1 ?_) fun h => hu (.inl h), hpool⟩
    · rcases Nat.eq_zero_or_pos sc.toNat with h0 | hpos
      · exact .inl ⟨h0, hu.resolve_right fun hu => by omega⟩
      · exact .inr ⟨hex, by
          rcases hu with hu | hu
          · subst hu; omega
          · exact hu⟩
    · rintro (⟨-, rfl⟩ | ⟨-, hs⟩)
      · exact hu (.inl rfl)
      · exact hu (.inr hs)
  · exact ⟨_, (State.waymask_exec ha).trans (congrArg _ (if_pos hp)), s.oweStatus_status_id h 8 1 p.d 1⟩
  · obtain ⟨w, ⟨hlt, hnew, hold⟩, hw⟩ := hheld
    have hany : (s.here.waysOut (s.waymaskNew p m)).any s.here.wayHeld = true :=
      List.any_eq_true.2 ⟨w, List.mem_filter.2 ⟨List.mem_range.2 hlt, Bool.and_eq_true_iff.2 ⟨hnew, by rw [show s.here.poolways.getLsbD w = false from hold]; rfl⟩⟩, hw⟩
    exact ⟨_, (State.waymask_exec ha).trans (congrArg _ ((if_neg (Bool.eq_false_iff.1 hp)).trans (if_pos hany))), s.oweStatus_status_id h 8 1 p.d 2⟩
  · have hnone : ¬ (s.here.waysOut (s.waymaskNew p m)).any s.here.wayHeld = true := by
      refine fun hany => ?_
      obtain ⟨w, hmem, hw⟩ := List.any_eq_true.1 hany
      obtain ⟨hr, hb⟩ := List.mem_filter.1 hmem
      obtain ⟨hnew, hold⟩ := Bool.and_eq_true_iff.1 hb
      rw [hheld w ⟨List.mem_range.1 hr, hnew, by simpa using hold⟩] at hw
      exact Bool.noConfusion hw
    exact ⟨_, (State.waymask_exec ha).trans (congrArg _ ((if_neg (Bool.eq_false_iff.1 hp)).trans (if_neg hnone))),
      s.waysAsked_here h p.d new (Option.isNone_iff_eq_none.1 (by simpa using hp))⟩
  · exact ⟨_, (State.selftest_exec ha).trans (congrArg _ (if_pos (by simp [hz]; exact hle))), s.oweStatus_status_id h 16 2 p.d 2⟩
  · have hnot : ¬ (!p.a.isNz && decide (unitCount kind.toNat ≤ p.a.get s.cur.frame)) = true := by
      rcases hu with hz | hlt
      · simp [hz]
      · simp; exact fun _ => hlt
    obtain ⟨hlist, hev⟩ := State.startTest_spec (s.oweVar p.d.range [] [] [] false).2
      { id := 0, tile := s.curTile, kind := kind.toNat, units := if p.a.isNz then List.range (unitCount kind.toNat) else [p.a.get s.cur.frame], mbox := false,
        byError := false, slot := s.curSlot, owedId := some s.nextId, result := 0 }
    exact ⟨_, _, _, (State.selftest_exec ha).trans (congrArg _ (if_neg hnot)), (s.oweVar_issued_id h 16 p.d.range).jet, hlist, rfl, rfl, rfl, rfl, hev,
      (State.testDelay_bounds _).1, (State.testDelay_bounds _).2, rfl⟩

end Sys2Proof.Machine
end

section
/-!
SUPPORT and PROOFS. `sub`, `unsub` and `mcrd` as they issue (R255 to R258), and O24.
-/

namespace Sys2Proof.Machine

/-! ### Going on -/

theorem Cached.core {n : Nat} {s t : State} (h : Cached n s t) : CoreKept s t := by
  have htile : ∀ m, (t.tile m).pool = (s.tile m).pool ∧ (t.tile m).jets = (s.tile m).jets ∧ (t.tile m).saves = (s.tile m).saves := by
    intro m
    by_cases hm : m = n
    · subst hm
      rw [h.tile]
      exact ⟨rfl, rfl, rfl⟩
    · rw [h.others m hm]
      exact ⟨rfl, rfl, rfl⟩
  exact ⟨by rw [h.rest], fun m => (htile m).1, fun m => (htile m).2.1, fun m => (htile m).2.2, by rw [h.rest], by rw [h.rest], by rw [h.rest], by rw [h.rest]⟩

/-- Where two states agree on jets and pools, so do they when the jet in turn has gone on. -/
theorem CoreKept.advance {u v : State} (k : CoreKept u v) (h : Hdr) (len : Nat) : CoreKept (u.advance h len) (v.advance h len) := by
  obtain ⟨hmem, hpools, hjets, hsaves, hnc, hturn, hct, hcs⟩ := k
  have htc : v.tc = u.tc := by rw [State.tc, State.tc, hnc]
  have htile : ∀ m, ((v.advance h len).tile m).pool = ((u.advance h len).tile m).pool ∧ ((v.advance h len).tile m).jets = ((u.advance h len).tile m).jets ∧
      ((v.advance h len).tile m).saves = ((u.advance h len).tile m).saves := by
    intro m
    by_cases hm : m = u.curTile
    · have hu : (u.advance h len).tile m = (u.tile m).modJet u.curSlot fun j => j.stepped h len u.tc := by
        rw [hm]; exact u.here_modCur _
      have hv : (v.advance h len).tile m = (v.tile m).modJet v.curSlot fun j => j.stepped h len v.tc := by
        rw [hm, ← hct]; exact v.here_modCur _
      rw [hu, hv, hcs, htc]
      refine ⟨hpools m, ?_, hsaves m⟩
      simp only [Tile.modJet, Tile.setJet, Tile.jet, hjets m]
    · rw [State.advance, State.advance, State.tile_modCur_ne v _ (by rwa [hct]), State.tile_modCur_ne u _ hm]
      exact ⟨hpools m, hjets m, hsaves m⟩
  exact ⟨hmem, fun m => (htile m).1, fun m => (htile m).2.1, fun m => (htile m).2.2, hnc, hturn, hct, hcs⟩

theorem WentOn.core {s t u : State} {h : Hdr} {len : Nat} {os : List Owed} (w : WentOn s t h len os) (k : CoreKept t u) : WentOn s u h len os := by
  obtain ⟨hmem, hpools, hjets, hjet, hnc, hturn, hct, hcs⟩ := w
  have kjet : ∀ n i, u.jet n i = t.jet n i := fun n i => by rw [State.jet, State.jet, Tile.jet, Tile.jet, k.jets]
  exact ⟨k.mem.trans hmem, fun n => (k.pools n).trans (hpools n), fun n i hni => (kjet n i).trans (hjets n i hni), (kjet _ _).trans hjet,
    k.time.1.trans hnc, k.time.2.1.trans hturn, k.time.2.2.1.trans hct, k.time.2.2.2.trans hcs⟩

/-- What goes on after its translations were kept at hand, has gone on. -/
theorem Cached.wentOn {s s1 t : State} {h : Hdr} {len : Nat} {d : List (Nat × Nat)} (hc : Cached s.curTile s s1)
    (w : WentOn s1 t h len [s1.varOwed d [] [] [] false]) : WentOn s t h len [s.varOwed d [] [] [] false] := by
  have hk := hc.core
  obtain ⟨hnc, hturn, hct, hcs⟩ := hk.time
  have hjets : ∀ n i, s1.jet n i = s.jet n i := fun n i => by rw [State.jet, State.jet, Tile.jet, Tile.jet, hk.jets]
  have htc : s1.tc = s.tc := by rw [State.tc, State.tc, hnc]
  obtain ⟨wmem, wpools, wjets, wjet, wtime⟩ := w
  rw [hct, hcs] at wjets
  rw [hct, hcs, hc.varOwed, hc.cur, htc] at wjet
  rw [hnc, hturn, hct, hcs] at wtime
  exact ⟨wmem.trans hk.mem, fun n => (wpools n).trans (hk.pools n), fun n i hni => (wjets n i hni).trans (hjets n i), wjet, wtime⟩

/-! ### Guards -/

/-- Only the guard entries of tiles differ. -/
structure GuardsOnly (s u : State) : Prop where
  rest : u = { s with tiles := u.tiles }
  tile : ∀ m, u.tile m = { s.tile m with guards := (u.tile m).guards }

theorem GuardsOnly.refl (s : State) : GuardsOnly s s := ⟨rfl, fun _ => rfl⟩

theorem GuardsOnly.trans {s u v : State} (h : GuardsOnly s u) (k : GuardsOnly u v) : GuardsOnly s v :=
  ⟨by rw [k.rest, h.rest], fun m => by rw [k.tile m, h.tile m]⟩

theorem GuardsOnly.modTile (s : State) (n : Nat) {f : Tile → Tile} (hf : ∀ x, f x = { x with guards := (f x).guards }) : GuardsOnly s (s.modTile n f) := by
  refine ⟨rfl, fun m => ?_⟩
  by_cases hm : m = n
  · subst hm
    rw [State.tile_modTile_same]
    exact hf _
  · rw [State.tile_modTile_ne s f hm]

theorem GuardsOnly.modGuards (s : State) (t ch : Nat) {f : Tile → Tile} (hf : ∀ x, f x = { x with guards := (f x).guards }) : GuardsOnly s (s.modGuards t ch f) := by
  have hfold : ∀ (l : List (Nat × Tile)) (u : State), GuardsOnly u (l.foldl (fun (s : State) e => s.modTile e.1 f) u) := by
    intro l
    induction l with
    | nil => exact .refl
    | cons e l ih => exact fun u => (GuardsOnly.modTile u e.1 hf).trans (ih _)
  exact hfold _ s

theorem GuardsOnly.dropGuard (s : State) (t ch : Nat) : GuardsOnly s (s.dropGuard t ch) := .modGuards s t ch fun _ => rfl

/-- A channel in another state. -/
def Channel.inState (st : ChanState) (c : Channel) : Channel := { c with state := st }

/-- What a channel's new state leaves of the channels of its tile, and of their place. -/
theorem State.setChan_tile (s : State) (t ch : Nat) (st : ChanState) : ∃ g, (s.setChan t ch st).tile t =
    { (s.tile t).modChan ch (Channel.inState st) with guards := g } := by
  have hg := (GuardsOnly.modGuards (s.modTile t fun x => x.modChan ch fun c => { c with state := st }) t ch
    (f := fun x => { x with guards := x.guards.map fun g => if g.tile = t ∧ g.chan = ch then { g with state := st } else g }) fun _ => rfl).tile t
  rw [State.tile_modTile_same] at hg
  exact ⟨_, hg⟩

theorem State.setChan_stops (s : State) (t ch : Nat) (st : ChanState) : (s.setChan t ch st).stops = s.stops := by
  rw [State.setChan, (GuardsOnly.modGuards (s.modTile t fun x => x.modChan ch fun c => { c with state := st }) t ch
    (f := fun x => { x with guards := x.guards.map fun g => if g.tile = t ∧ g.chan = ch then { g with state := st } else g }) fun _ => rfl).rest]
  rfl

theorem State.doneMessage_tile (s : State) (t ch st wm count : Nat) (done : BitVec 32) (inst : BitVec 16) :
    (∃ w, (s.doneMessage t ch st wm count done inst).tile t = { s.tile t with weir := w }) ∧ (s.doneMessage t ch st wm count done inst).stops = s.stops := by
  unfold State.doneMessage
  split
  · exact ⟨⟨_, rfl⟩, rfl⟩
  · exact ⟨⟨_, State.tile_modTile_same ..⟩, rfl⟩

theorem State.gatherOver_tile (s : State) (c : Channel) (st t : Nat) : (s.gatherOver c st).tile t = s.tile t ∧ (s.gatherOver c st).stops = s.stops := by
  unfold State.gatherOver
  split <;> exact ⟨rfl, rfl⟩

/-- A channel that has retired with a status. -/
def Channel.closed (st : Nat) (c : Channel) : Channel := { c with status := st, needGuard := false, flying := false, pieces := [], writes := [] }

/-- The tile where a channel has retired with status 1; a write of it that is on its way is kept apart. -/
def Tile.chanClosed (ch : Nat) (c : Channel) (x : Tile) : Tile :=
  { x.modChan ch (Channel.closed 1) with lastWrites := if c.flying then x.lastWrites ++ [(ch, { c with status := 1 })] else x.lastWrites }

/-- The machine where a channel is aborted, before its message goes. -/
def State.chanAborted (s : State) (t ch : Nat) : State :=
  ((s.gatherOver ((s.tile t).chan ch) 1).setChan t ch .aborted).modTile t (Tile.chanClosed ch ((s.tile t).chan ch))

theorem State.chanAborted_tile (s : State) (t ch : Nat) : ((s.chanAborted t ch).tile t).chans = Tbl.set (s.tile t).chans ch ((((s.tile t).chan ch).inState .aborted).closed 1) ∧
    ((s.chanAborted t ch).tile t).subs = (s.tile t).subs ∧ (s.chanAborted t ch).stops = s.stops := by
  let u := s.gatherOver ((s.tile t).chan ch) 1
  obtain ⟨g, hg⟩ := u.setChan_tile t ch .aborted
  rw [(s.gatherOver_tile ((s.tile t).chan ch) 1 t).1] at hg
  have htile : (s.chanAborted t ch).tile t = Tile.chanClosed ch ((s.tile t).chan ch) ((u.setChan t ch .aborted).tile t) := State.tile_modTile_same ..
  have hstops : (s.chanAborted t ch).stops = s.stops := (u.setChan_stops t ch .aborted).trans (s.gatherOver_tile ((s.tile t).chan ch) 1 t).2
  rw [htile, hg]
  refine ⟨?_, rfl, hstops⟩
  simp only [Tile.chanClosed, Tile.modChan, Tile.chan, Tbl.set_set, Tbl.get_set_same]

/-- An aborted channel, and what of its tile is as before. -/
theorem State.retireChan_aborted (s : State) (t ch : Nat) :
    (((s.retireChan t ch 1).tile t).chan ch).state = .aborted ∧ (((s.retireChan t ch 1).tile t).chan ch).status = 1 ∧
      ((s.retireChan t ch 1).tile t).subs = (s.tile t).subs ∧ (s.retireChan t ch 1).stops = s.stops := by
  obtain ⟨c, hc⟩ : ∃ c, (s.tile t).chan ch = c := ⟨_, rfl⟩
  have hdef : s.retireChan t ch 1 = if c.flying then s.chanAborted t ch else (s.chanAborted t ch).doneMessage t ch 1 c.wm.toNat c.count c.done c.inst := by
    rw [← hc]
    rfl
  obtain ⟨hchans, hsubs, hstops⟩ := s.chanAborted_tile t ch
  have hchan : ((s.chanAborted t ch).tile t).chan ch = (((s.tile t).chan ch).inState .aborted).closed 1 := by
    rw [Tile.chan, hchans, Tbl.get_set_same]
  rw [hdef]
  split
  · rw [hchan]
    exact ⟨rfl, rfl, hsubs, hstops⟩
  · obtain ⟨⟨w, hw⟩, hdone⟩ := (s.chanAborted t ch).doneMessage_tile t ch 1 c.wm.toNat c.count c.done c.inst
    have hsame : ({ (s.chanAborted t ch).tile t with weir := w } : Tile).chan ch = ((s.chanAborted t ch).tile t).chan ch := rfl
    rw [hw, hdone, hsame, hchan]
    exact ⟨rfl, rfl, hsubs, hstops⟩

/-- A join or a leave that sets out is the last of what its router's own port is given. -/
theorem State.sendJoin_inject (s : State) (t tag home : Nat) (leave : Bool) (upTo d : Nat) (u : State) (hstops : u.stops = s.stops) (hnc : u.nc = s.nc) :
    ∃ e, ((u.sendJoin t tag home leave upTo d).stop t).inject = (s.stop t).inject ++ [e] ∧ e.body = .mcJoin t tag home leave upTo ∧ e.readyAt = s.nc + d := by
  have hin := congrArg Stop.inject (State.stop_modStop_same u t fun x => { x with inject := x.inject ++ [u.packet u.dev.device.toNat t t .ni 1 d (.mcJoin t tag home leave upTo)] })
  have hold : (u.stop t).inject = (s.stop t).inject := by rw [State.stop, State.stop, hstops]
  rw [← hold, ← hnc]
  exact ⟨_, hin, rfl, rfl⟩

/-! ### `unsub` -/

/-- The tile where a subscription is gone from the match table. -/
def Tile.subDropped (b : Subscr) (x : Tile) : Tile := { x with subs := x.subs.filter (· != b) }

/-- The tile where a subscription that waits for its join's answer is gone. -/
def Tile.subGone (tag : Nat) (x : Tile) : Tile := x.modSub tag fun b => { b with gone := true }

/-- The machine after `unsub` of a subscription, before its channel ends. -/
def State.subLeft (s : State) (b : Subscr) : State :=
  if b.acked then (s.modHere (Tile.subDropped b)).sendJoin s.curTile b.tag b.home true wholeWay 0 else s.modHere (Tile.subGone b.tag)

/-- The machine after `unsub` of a subscription, before its status is owed. -/
def State.unsubbed (s : State) (b : Subscr) : State :=
  if (s.subLeft b).here.subLands b then (s.subLeft b).retireChan s.curTile b.chan 1 else s.subLeft b

def State.unsubGo (h : Hdr) (d : SliceOp) (tag : Nat) (s : State) : State :=
  match s.here.subOf tag with
  | none => (s.oweStatus 2 d 1).advance h 12
  | some b => ((s.unsubbed b).oweStatus 2 d 0).advance h 12

theorem State.unsub_exec {s : State} {h : Hdr} {d : SliceOp} {tag : BitVec 12} (ha : s.admits (.unsub h d tag) = true) :
    exec (.unsub h d tag) s = .next (s.unsubGo h d tag.toNat) :=
  State.guarded_of_admits (i := .unsub h d tag) (fun s => s.unsubGo h d tag.toNat) ha

theorem State.subLeft_core (s : State) (b : Subscr) : CoreKept s (s.subLeft b) :=
  .ite ((CoreKept.modTile s s.curTile (f := Tile.subDropped b) fun _ => ⟨rfl, rfl, rfl⟩).trans (.of_tiles rfl rfl ⟨rfl, rfl, rfl, rfl⟩))
    (.modTile s s.curTile (f := Tile.subGone b.tag) fun _ => ⟨rfl, rfl, rfl⟩)

theorem State.unsubbed_core (s : State) (b : Subscr) : CoreKept s (s.unsubbed b) :=
  .ite ((s.subLeft_core b).trans (.retireChan ..)) (s.subLeft_core b)

theorem State.subLeft_tile (s : State) (b : Subscr) : (s.subLeft b).tile s.curTile = if b.acked then s.here.subDropped b else s.here.subGone b.tag := by
  unfold State.subLeft
  split <;> exact State.tile_modTile_same ..

theorem State.subLeft_chan (s : State) (b : Subscr) (ch : Nat) : ((s.subLeft b).tile s.curTile).chan ch = s.here.chan ch := by
  rw [s.subLeft_tile b]
  split <;> rfl

theorem State.subLeft_here (s : State) (b : Subscr) : (s.subLeft b).here = (s.subLeft b).tile s.curTile := by
  rw [State.here, (s.subLeft_core b).time.2.2.1]

/-- No entry of the match table has the tag of one that is gone. -/
theorem State.subLeft_subOf {s : State} {b : Subscr} {tag : Nat} (hb : s.here.subOf tag = some b)
    (hp : (s.here.subs.filter fun b => !b.gone).Pairwise fun b c => b.tag ≠ c.tag) : ((s.subLeft b).tile s.curTile).subOf tag = none := by
  have hmem : b ∈ s.here.subs := List.mem_of_find?_eq_some hb
  obtain ⟨htag, hlive⟩ : b.tag = tag ∧ b.gone = false := by simpa using List.find?_some (p := fun b : Subscr => b.tag == tag && !b.gone) hb
  rw [s.subLeft_tile b]
  refine List.find?_eq_none.2 fun c hc hct => ?_
  obtain ⟨hctag, hclive⟩ : c.tag = tag ∧ c.gone = false := by simpa using hct
  split at hc
  next =>
    obtain ⟨hcs, hne⟩ := List.mem_filter.1 hc
    have hneq : c ≠ b := by simpa using hne
    have hin : ∀ d : Subscr, d ∈ s.here.subs → d.gone = false → d ∈ s.here.subs.filter fun b => !b.gone := fun d hd hg => List.mem_filter.2 ⟨hd, by simp [hg]⟩
    have : Std.Symm fun b c : Subscr => b.tag ≠ c.tag := ⟨fun _ _ h => h.symm⟩
    exact hp.forall (hin c hcs hclive) (hin b hmem hlive) hneq (hctag.trans htag.symm)
  next =>
    obtain ⟨e, -, rfl⟩ := List.mem_map.1 hc
    by_cases hif : e.tag = b.tag ∧ (!e.gone) = true
    · rw [if_pos hif] at hclive
      exact Bool.noConfusion hclive
    · rw [if_neg hif] at hctag hclive
      exact hif ⟨hctag.trans htag.symm, by rw [hclive]; rfl⟩

/-- What `unsub` leaves of the match table, of the channel and of the tile's router. -/
theorem State.unsubbed_left (s : State) (b : Subscr) :
    (s.unsubbed b).stops = (s.subLeft b).stops ∧ (s.unsubbed b).here.subs = ((s.subLeft b).tile s.curTile).subs ∧
      (s.here.subLands b = true → ((s.unsubbed b).here.chan b.chan).state = .aborted ∧ ((s.unsubbed b).here.chan b.chan).status = 1) := by
  have hhere : (s.unsubbed b).here = (s.unsubbed b).tile s.curTile := by rw [State.here, (s.unsubbed_core b).time.2.2.1]
  have hlands : (s.subLeft b).here.subLands b = s.here.subLands b := by rw [Tile.subLands, Tile.subLands, s.subLeft_here, s.subLeft_chan]
  rw [hhere, State.unsubbed, hlands]
  split
  next =>
    obtain ⟨hstate, hstatus, hsubs, hstops⟩ := (s.subLeft b).retireChan_aborted s.curTile b.chan
    exact ⟨hstops, hsubs, fun _ => ⟨hstate, hstatus⟩⟩
  next hno => exact ⟨rfl, rfl, fun h => absurd h hno⟩

/-- A tile that is no longer in a multicast sends its leave from its own router. -/
theorem State.subLeft_inject {s : State} {b : Subscr} (hb : b.acked = true) : ∃ e, ((s.subLeft b).stop s.curTile).inject = (s.stop s.curTile).inject ++ [e] ∧
    e.body = .mcJoin s.curTile b.tag b.home true wholeWay := by
  have hadd := s.sendJoin_inject s.curTile b.tag b.home true wholeWay 0 (s.modHere (Tile.subDropped b)) rfl rfl
  rw [State.subLeft, if_pos hb]
  obtain ⟨e, hin, hbody, -⟩ := hadd
  exact ⟨e, hin, hbody⟩

/-! ### `sub` -/

/-- The subscription that `sub` adds to the match table. -/
def newSub (rec tag ch slot owedId accepted : Nat) (pas : List Nat) : Subscr :=
  { tag := tag, chan := ch, lines := fld rec 116 6 + 1, dst := fld rec 96 20, src := fld rec 0 64, home := homeOf (pas.headD 0), pas := pas, slot := slot, owedId := owedId
    accepted := accepted, acked := false, gone := false, started := false, mask := 0, lastIx := 0, lastPkt := 0, over_ := false, got := [], wanted := [], asked := [], next := 0 }

/-- The channel that `sub` opens, before its window. -/
def newSubChan (rec accepted tc : Nat) (inst : BitVec 16) (old : Channel) : Channel :=
  { Channel.idle with state := .landing, use := .mcast, done := BitVec.ofNat 32 (fld rec 64 32), inst := inst, dst := fld rec 96 20
                      accepted := accepted, from_ := tc, status := old.status }

/-- The tile with a new subscription and its channel. -/
def Tile.subAdded (ch : Nat) (f : Channel → Channel) (b : Subscr) (x : Tile) : Tile := { x.modChan ch f with subs := x.subs ++ [b] }

/-- The channel whose window stands in its own tile's pool. -/
def Channel.windowed (a n : Nat) (c : Channel) : Channel :=
  { c with winVa := a, winLo := a, winHi := a + n, wm := BitVec.ofNat 64 a, guarded := n != 0, needGuard := false }

/-- A window that lies in the tile's own pool opens there. -/
theorem State.openWindow_own (s : State) (t ch n : Nat) {a : Nat} (ha : a < 2 ^ 20) :
    s.openWindow t ch a n = s.modTile t fun x => x.modChan ch (Channel.windowed a n) := by
  have hpool : s.poolAt t a = some (t, a) := by
    rw [State.poolAt, show poolOf s.dev.device.toNat t a = some (s.dev.device.toNat, t, a) from if_pos ha]
    exact if_pos rfl
  have hch : (fun c : Channel => { c with winVa := a, winLo := a, winHi := a + n, wm := BitVec.ofNat 64 a, guarded := t == t && n != 0, needGuard := false }) =
      Channel.windowed a n := by
    funext c
    rw [Channel.windowed, beq_self_eq_true, Bool.true_and]
  simp only [State.openWindow, hpool, true_or, if_true, hch]

/-- The machine where `sub` has its match entry and its channel's window. -/
def State.subOpened (u : State) (t ch : Nat) (f : Nat → Channel → Channel) (b : Nat → Subscr) (a n : Nat) : State :=
  let q := (u.dropGuard t ch).take
  (q.2.modTile t (Tile.subAdded ch (f q.1) (b q.1))).openWindow t ch a n

theorem State.subOpened_own (u : State) (t ch : Nat) (f : Nat → Channel → Channel) (b : Nat → Subscr) (n : Nat) {a : Nat} (ha : a < 2 ^ 20) :
    CoreKept u (u.subOpened t ch f b a n) ∧ (u.subOpened t ch f b a n).stops = u.stops ∧
      ((u.subOpened t ch f b a n).tile t).subs = (u.tile t).subs ++ [b u.nextId] ∧
      ((u.subOpened t ch f b a n).tile t).chan ch = (f u.nextId ((u.tile t).chan ch)).windowed a n := by
  have hguard := GuardsOnly.dropGuard u t ch
  have hid : (u.dropGuard t ch).nextId = u.nextId := by rw [hguard.rest]
  have hopen : u.subOpened t ch f b a n = ((u.dropGuard t ch).take.2.modTile t (Tile.subAdded ch (f u.nextId) (b u.nextId))).modTile t
      fun x => x.modChan ch (Channel.windowed a n) := by
    rw [← hid]
    exact State.openWindow_own _ t ch n ha
  have htile : (u.subOpened t ch f b a n).tile t =
      (((u.dropGuard t ch).tile t).subAdded ch (f u.nextId) (b u.nextId)).modChan ch (Channel.windowed a n) := by
    rw [hopen, State.tile_modTile_same, State.tile_modTile_same]
    rfl
  have hold := hguard.tile t
  refine ⟨?_, ?_, ?_, ?_⟩
  · rw [hopen]
    have htake : CoreKept (u.dropGuard t ch) (u.dropGuard t ch).take.2 := .of_tiles rfl rfl ⟨rfl, rfl, rfl, rfl⟩
    exact (((CoreKept.dropGuard u t ch).trans htake).trans (.modTile _ t (f := Tile.subAdded ch (f u.nextId) (b u.nextId)) fun _ => ⟨rfl, rfl, rfl⟩)).trans
      (.modTile _ t (f := fun x => x.modChan ch (Channel.windowed a n)) fun _ => ⟨rfl, rfl, rfl⟩)
  · rw [hopen]
    change (u.dropGuard t ch).stops = _
    rw [hguard.rest]
  · rw [htile, hold]
    rfl
  · rw [htile, Tile.chan_modChan_same, Tile.chan, Tile.subAdded]
    dsimp only [Tile.modChan]
    rw [Tbl.get_set_same, hold]
    rfl

def State.subGo (h : Hdr) (o : R2) (tag ch : Nat) (s : State) : State :=
  let r := SliceOp.getRun o.a s.cur.frame 32
  let n := fld r 116 6 + 1
  match s.streamLines s.curTile (fld r 0 64) n with
  | .error c => s.trap (dataFault c (fld r 0 64) (128 * n))
  | .ok l =>
    let cost := s.xlateCost s.curTile (fld r 0 64) (128 * n)
    let u := s.cacheFor s.curTile (fld r 0 64) (128 * n)
    let st := s.subStatus s.curTile r tag ch l
    if st != 0 then (u.oweStatus (cost + 2) o.d st).advance h 12
    else
      let pas := l.filterMap fun e => e.map (·.2.2)
      let p := u.oweVar o.d.range [] [] [] false
      ((p.2.subOpened s.curTile ch (fun id => newSubChan r id s.tc s.cur.inst) (fun id => newSub r tag ch s.curSlot p.1 id pas) (fld r 96 20) (128 * n)).sendJoin s.curTile tag
        (homeOf (pas.headD 0)) false wholeWay (4 + 2 * cost)).advance h 12

theorem State.sub_exec {s : State} {h : Hdr} {o : R2} {tag : BitVec 12} {ch : BitVec 3} (ha : s.admits (.sub h o tag ch) = true) :
    exec (.sub h o tag ch) s = .next (s.subGo h o tag.toNat ch.toNat) :=
  State.guarded_of_admits (i := .sub h o tag ch) (fun s => s.subGo h o tag.toNat ch.toNat) ha

/-! ### `mcrd` -/

/-- The tile where a request for a stream waits. -/
def Tile.mcWaiting (w : McWait) (x : Tile) : Tile := { x with mcWait := x.mcWait ++ [w] }

def State.mcrdGo (h : Hdr) (o : R3) (tag lines : Nat) (s : State) : State :=
  let a := o.a.get s.cur.frame
  let n := lines + 1
  match s.streamLines s.curTile a n with
  | .error c => s.trap (dataFault c a (128 * n))
  | .ok l =>
    let cost := s.xlateCost s.curTile a (128 * n)
    let u := s.cacheFor s.curTile a (128 * n)
    let st := mcrdStatus a l
    if st != 0 then (u.oweStatus (cost + 2) o.d st).advance h 16
    else
      let p := u.oweVar o.d.range [] [] [] false
      (p.2.modHere (Tile.mcWaiting { jet := s.cur.key, upTo := s.nextId, tag := tag, src := a, mask := BitVec.ofNat 64 (o.b.get s.cur.frame), slot := s.curSlot,
                                     owedId := p.1, pas := l.filterMap (fun e => e.map (·.2.2)), from_ := s.tc + cost })).advance h 16

theorem State.mcrd_exec {s : State} {h : Hdr} {o : R3} {tag : BitVec 12} {lines : BitVec 6} (ha : s.admits (.mcrd h o tag lines) = true) :
    exec (.mcrd h o tag lines) s = .next (s.mcrdGo h o tag.toNat lines.toNat) :=
  State.guarded_of_admits (i := .mcrd h o tag lines) (fun s => s.mcrdGo h o tag.toNat lines.toNat) ha

/-- The lines that were translated, by their home addresses. -/
theorem pas_eq (l : List (Option (PageKind × Bool × Nat))) : (l.filterMap fun e => e.map (·.2.2)) = (l.filterMap fun e => e).map fun e => e.2.2 := by
  induction l with
  | nil => rfl
  | cons e l ih => cases e <;> simp [ih]

theorem any_isNone_eq (l : List (Option (PageKind × Bool × Nat))) : (l.any (·.isNone)) = l.contains none := by
  induction l with
  | nil => rfl
  | cons e l ih => cases e <;> simp_all

/-- What `mcrd` finds against its lines, in words. -/
theorem mcrdStatus_eq (a : Nat) (l : List (Option (PageKind × Bool × Nat))) : mcrdStatus a l =
    if a % 128 ≠ 0 ∨ none ∈ l then 1
    else if ∃ e ∈ l.filterMap fun e => e, e.1 = .strict ∨ e.1 = .io ∨ e.2.1 = true then 2
    else if oneHome (l.filterMap fun e => e) = false then 1 else 0 := by
  unfold mcrdStatus
  refine if_congr (by rw [any_isNone_eq]; simp) rfl (if_congr ?_ rfl (if_congr (by rw [Bool.not_eq_true']; rfl) rfl rfl))
  rw [List.any_eq_true]
  exact exists_congr fun e => and_congr_right fun _ => by simp [or_assoc]

/-- What `sub` finds against it, in words. -/
theorem State.subStatus_eq (s : State) (rec tag ch : Nat) (l : List (Option (PageKind × Bool × Nat))) :
    s.subStatus s.curTile rec tag ch l =
      if (fld rec 122 6 != 0 || fld rec 0 7 != 0 || fld rec 96 20 % 128 != 0 || l.contains none || ((l.filterMap fun e => e).any fun e => e.1 == .io) ||
          !oneHome (l.filterMap fun e => e) || (((l.filterMap fun e => e).map fun e => e.2.2).any fun pa => dieOf (homeOf pa) != dieOf s.curTile || paDev pa != s.dev.device.toNat) ||
          !s.here.scratch (fld rec 96 20) (128 * (fld rec 116 6 + 1)) || s.here.wayGoing (fld rec 96 20) (128 * (fld rec 116 6 + 1))) = true then 3
      else if (s.here.chan ch).state = .landing ∨ (s.here.chan ch).state = .frozen then 4
      else if ∃ b ∈ s.here.subs, b.tag = tag ∧ b.gone = false then 5 else if 16 ≤ (s.here.subs.filter fun b => !b.gone).length then 1 else 0 := by
  unfold State.subStatus
  refine if_congr ?_ rfl (if_congr ?_ rfl (if_congr ?_ rfl rfl))
  · rw [any_isNone_eq, List.any_map]
    rfl
  · change (!((s.here.chan ch).state != .landing && (s.here.chan ch).state != .frozen)) = true ↔ _
    simp only [Bool.not_and, Bool.not_eq_true', Bool.or_eq_true, bne_eq_false_iff_eq]
  · change ((s.here.subs.find? fun b => b.tag == tag && !b.gone)).isSome = true ↔ _
    simp only [List.find?_isSome, Bool.and_eq_true, beq_iff_eq, Bool.not_eq_true']

/-- What `sub` leaves where it is accepted. -/
theorem State.subGo_done {s : State} {h : Hdr} {o : R2} {tag ch rec n cost : Nat} {pas : List Nat} {u p v t : State} (hu : Cached s.curTile s u)
    (hp : (u.oweVar o.d.range [] [] [] false).2 = p)
    (hv : p.subOpened s.curTile ch (fun id => newSubChan rec id s.tc s.cur.inst) (fun id => newSub rec tag ch s.curSlot u.nextId id pas) (fld rec 96 20) n = v)
    (ht : (v.sendJoin s.curTile tag (homeOf (pas.headD 0)) false wholeWay (4 + 2 * cost)).advance h 12 = t) :
    WentOn s t h 12 [s.varOwed o.d.range [] [] [] false] ∧
      t.here.subs = s.here.subs ++ [newSub rec tag ch s.curSlot s.nextId (s.nextId + 1) pas] ∧
      (∃ c, t.here.chan ch = ((newSubChan rec (s.nextId + 1) s.tc s.cur.inst c)).windowed (fld rec 96 20) n) ∧
      ∃ e, (t.stop s.curTile).inject = (s.stop s.curTile).inject ++ [e] ∧ e.body = .mcJoin s.curTile tag (homeOf (pas.headD 0)) false wholeWay ∧
        e.readyAt = s.nc + (4 + 2 * cost) := by
  obtain ⟨hcore, hstops, hsubs, hchan⟩ := p.subOpened_own s.curTile ch (fun id => newSubChan rec id s.tc s.cur.inst)
    (fun id => newSub rec tag ch s.curSlot u.nextId id pas) n (fld_lt rec 96 20)
  rw [hv] at hcore hstops hsubs hchan
  have hid : u.nextId = s.nextId := by rw [hu.rest]
  have hpid : p.nextId = s.nextId + 1 := by rw [← hp, ← hid]; rfl
  have hpsubs : (p.tile s.curTile).subs = s.here.subs := by
    rw [← hp, ← hu.curTile]
    refine (congrArg Tile.subs (State.here_modCur { u with nextId := u.nextId + 1 } _)).trans ?_
    change u.here.subs = s.here.subs
    rw [hu.here]
  have hvnc : v.nc = s.nc := by rw [hcore.time.1, ← hp]; exact hu.core.time.1
  have hvct : v.curTile = s.curTile := by rw [hcore.time.2.2.1, ← hp]; exact hu.curTile
  have hvstops : v.stops = s.stops := by
    rw [hstops, ← hp]
    change u.stops = s.stops
    rw [hu.rest]
  have hthere : t.here = (v.tile s.curTile).modJet v.curSlot fun j => j.stepped h 12 v.tc := by
    rw [← ht, ← hvct]
    exact State.here_modCur ..
  refine ⟨?_, ?_, ?_, ?_⟩
  · have hw : WentOn u (p.advance h 12) h 12 [u.varOwed o.d.range [] [] [] false] := by
      rw [← hp]
      exact (u.oweVar_issued_id h 12 o.d.range).wentOn fun _ => rfl
    rw [← ht]
    exact (hu.wentOn hw).core ((hcore.trans (.of_tiles (t := v.sendJoin s.curTile tag (homeOf (pas.headD 0)) false wholeWay (4 + 2 * cost)) rfl rfl ⟨rfl, rfl, rfl, rfl⟩)).advance h 12)
  · rw [hthere]
    refine hsubs.trans ?_
    rw [hpsubs, hid, hpid]
  · rw [hthere]
    exact ⟨_, hchan.trans (by rw [hpid])⟩
  · rw [← ht]
    exact s.sendJoin_inject s.curTile tag _ false wholeWay (4 + 2 * cost) v hvstops hvnc

theorem State.subGo_error {s : State} {h : Hdr} {o : R2} {tag ch c : Nat}
    (hl : s.streamLines s.curTile (fld (SliceOp.getRun o.a s.cur.frame 32) 0 64) (fld (SliceOp.getRun o.a s.cur.frame 32) 116 6 + 1) = .error c) :
    s.subGo h o tag ch = s.trap (dataFault c (fld (SliceOp.getRun o.a s.cur.frame 32) 0 64) (128 * (fld (SliceOp.getRun o.a s.cur.frame 32) 116 6 + 1))) := by
  simp only [State.subGo, hl]

theorem State.mcrdGo_error {s : State} {h : Hdr} {o : R3} {tag lines c : Nat} (hl : s.streamLines s.curTile (o.a.get s.cur.frame) (lines + 1) = .error c) :
    s.mcrdGo h o tag lines = s.trap (dataFault c (o.a.get s.cur.frame) (128 * (lines + 1))) := by
  simp only [State.mcrdGo, hl]

theorem State.mcrdGo_status {s : State} {h : Hdr} {o : R3} {tag lines : Nat} {l : List (Option (PageKind × Bool × Nat))}
    (hl : s.streamLines s.curTile (o.a.get s.cur.frame) (lines + 1) = .ok l) (hst : mcrdStatus (o.a.get s.cur.frame) l ≠ 0) :
    s.mcrdGo h o tag lines = ((s.cacheFor s.curTile (o.a.get s.cur.frame) (128 * (lines + 1))).oweStatus
      (s.xlateCost s.curTile (o.a.get s.cur.frame) (128 * (lines + 1)) + 2) o.d (mcrdStatus (o.a.get s.cur.frame) l)).advance h 16 := by
  simp only [State.mcrdGo, hl]
  exact if_pos (bne_iff_ne.2 hst)

/-- What `mcrd` leaves where it is accepted. -/
theorem State.mcrdGo_done {s : State} {h : Hdr} {o : R3} {tag lines : Nat} {l : List (Option (PageKind × Bool × Nat))}
    (hl : s.streamLines s.curTile (o.a.get s.cur.frame) (lines + 1) = .ok l) (hst : mcrdStatus (o.a.get s.cur.frame) l = 0) :
    WentOn s (s.mcrdGo h o tag lines) h 16 [s.varOwed o.d.range [] [] [] false] ∧ (s.mcrdGo h o tag lines).here.mcWait = s.here.mcWait ++
      [{ jet := s.cur.key, upTo := s.nextId, tag := tag, src := o.a.get s.cur.frame, mask := BitVec.ofNat 64 (o.b.get s.cur.frame), slot := s.curSlot, owedId := s.nextId,
         pas := (l.filterMap fun e => e).map fun e => e.2.2, from_ := s.tc + s.xlateCost s.curTile (o.a.get s.cur.frame) (128 * (lines + 1)) }] := by
  have hu := Cached.cacheFor s.curTile (o.a.get s.cur.frame) (128 * (lines + 1)) false s
  obtain ⟨u, hueq⟩ : ∃ u, s.cacheFor s.curTile (o.a.get s.cur.frame) (128 * (lines + 1)) = u := ⟨_, rfl⟩
  have hid : u.nextId = s.nextId := by rw [← hueq, hu.rest]
  have hgo : ∃ w : McWait, s.mcrdGo h o tag lines = ((u.oweVar o.d.range [] [] [] false).2.modHere (Tile.mcWaiting w)).advance h 16 ∧
      w = { jet := s.cur.key, upTo := s.nextId, tag := tag, src := o.a.get s.cur.frame, mask := BitVec.ofNat 64 (o.b.get s.cur.frame), slot := s.curSlot, owedId := s.nextId,
            pas := (l.filterMap fun e => e).map fun e => e.2.2, from_ := s.tc + s.xlateCost s.curTile (o.a.get s.cur.frame) (128 * (lines + 1)) } := by
    refine ⟨_, ?_, rfl⟩
    simp only [State.mcrdGo, hl]
    rw [if_neg (by rw [hst]; decide), ← pas_eq, ← hid, ← hueq]
    rfl
  obtain ⟨w, hgo, hw⟩ := hgo
  rw [hueq] at hu
  have hi : Issued u (s.mcrdGo h o tag lines) h 16 (Tile.mcWaiting w) [u.varOwed o.d.range [] [] [] false] [] := by
    rw [hgo, State.oweVar_modHere u (g := Tile.mcWaiting w) (fun _ => rfl) (fun _ _ _ => rfl)]
    exact u.oweVar_issued h 16 o.d.range fun _ => rfl
  refine ⟨hu.wentOn (hi.wentOn fun _ => rfl), ?_⟩
  rw [hi.frame.tile, ← hw]
  change u.here.mcWait ++ [w] = _
  rw [hu.here]

theorem State.subGo_status {s : State} {h : Hdr} {o : R2} {tag ch rec : Nat} {l : List (Option (PageKind × Bool × Nat))} (hrec : SliceOp.getRun o.a s.cur.frame 32 = rec)
    (hl : s.streamLines s.curTile (fld rec 0 64) (fld rec 116 6 + 1) = .ok l) (hst : s.subStatus s.curTile rec tag ch l ≠ 0) :
    s.subGo h o tag ch = ((s.cacheFor s.curTile (fld rec 0 64) (128 * (fld rec 116 6 + 1))).oweStatus (s.xlateCost s.curTile (fld rec 0 64) (128 * (fld rec 116 6 + 1)) + 2)
      o.d (s.subStatus s.curTile rec tag ch l)).advance h 12 := by
  subst hrec
  simp only [State.subGo, hl]
  exact if_pos (bne_iff_ne.2 hst)

theorem State.subGo_ok {s : State} {h : Hdr} {o : R2} {tag ch rec : Nat} {l : List (Option (PageKind × Bool × Nat))} (hrec : SliceOp.getRun o.a s.cur.frame 32 = rec)
    (hl : s.streamLines s.curTile (fld rec 0 64) (fld rec 116 6 + 1) = .ok l) (hst : s.subStatus s.curTile rec tag ch l = 0) :
    ∃ u p v, Cached s.curTile s u ∧ (u.oweVar o.d.range [] [] [] false).2 = p ∧
      p.subOpened s.curTile ch (fun id => newSubChan rec id s.tc s.cur.inst) (fun id => newSub rec tag ch s.curSlot u.nextId id ((l.filterMap fun e => e).map fun e => e.2.2))
        (fld rec 96 20) (128 * (fld rec 116 6 + 1)) = v ∧
      (v.sendJoin s.curTile tag (homeOf (((l.filterMap fun e => e).map fun e => e.2.2).headD 0)) false wholeWay
        (4 + 2 * s.xlateCost s.curTile (fld rec 0 64) (128 * (fld rec 116 6 + 1)))).advance h 12 = s.subGo h o tag ch := by
  subst hrec
  refine ⟨_, _, _, Cached.cacheFor s.curTile (fld (SliceOp.getRun o.a s.cur.frame 32) 0 64) (128 * (fld (SliceOp.getRun o.a s.cur.frame 32) 116 6 + 1)) false s, rfl, rfl, ?_⟩
  simp only [State.subGo, hl]
  rw [if_neg (by rw [hst]; decide), ← pas_eq]
  rfl

/-- Settles O24: each instruction by its branches; an accepted `sub` by what its entry, its window and its join change in turn. -/
theorem multicast : Obligations.Multicast := by
  unfold Obligations.Multicast
  intro h o p d tag ch lines s f x r src dst n cost a k costA
  refine ⟨fun ha => ⟨fun c hc => ?_, fun l hl => ?_⟩, fun ha => ⟨fun hnone => ?_, fun b hb => ?_⟩, fun ha => ⟨fun c hc => ?_, fun l hl => ?_⟩⟩
  · exact (State.sub_exec ha).trans (congrArg _ (State.subGo_error hc))
  · intro got pas bad st
    have hst : s.subStatus s.curTile r tag.toNat ch.toNat l = st := s.subStatus_eq r tag.toNat ch.toNat l
    refine ⟨fun hne => ?_, fun h0 => ?_⟩
    · rw [← hst] at hne ⊢
      exact ⟨_, (State.sub_exec ha).trans (congrArg _ (State.subGo_status rfl hl hne)), State.oweStatus_status_id ..⟩
    · obtain ⟨u, p, v, hu, hp, hv, ht⟩ := State.subGo_ok (h := h) (o := o) rfl hl (hst.trans h0)
      obtain ⟨hwent, hsubs, ⟨c, hc⟩, e, hin, hbody, hat⟩ := State.subGo_done hu hp hv ht
      refine ⟨_, _, State.sub_exec ha, hwent, hsubs, rfl, rfl, rfl, rfl, rfl, rfl, rfl, ?_, e, hin, hbody, by rw [hat, Nat.add_assoc]⟩
      rw [hc]
      exact ⟨rfl, rfl, rfl, rfl, rfl, rfl⟩
  · refine ⟨_, (State.unsub_exec ha).trans (congrArg _ ?_), s.oweStatus_status_id h 12 2 d 1⟩
    rw [State.unsubGo, hnone]
  · obtain ⟨hstops, hsubs, hchan⟩ := s.unsubbed_left b
    refine ⟨_, s.unsubbed b, (State.unsub_exec ha).trans (congrArg (a₂ := ((s.unsubbed b).oweStatus 2 d 0).advance h 12) _ ?_), State.oweStatus_status_id _ h 12 2 d 0, (s.unsubbed_core b).kept,
      fun hp => ?_, fun hland huse hacc => hchan ?_, fun hacked => ?_⟩
    · rw [State.unsubGo, hb]
    · rw [Tile.subOf, hsubs]
      exact State.subLeft_subOf hb hp
    · rw [Tile.subLands]
      change ((x.chan b.chan).state == .landing && (x.chan b.chan).use == .mcast && (x.chan b.chan).accepted == b.accepted) = true
      rw [hland, huse, hacc]
      simp
    · obtain ⟨e, hin, hbody⟩ := s.subLeft_inject hacked
      refine ⟨e, ?_, hbody⟩
      rw [State.stop, hstops]
      exact hin
  · exact (State.mcrd_exec ha).trans (congrArg _ (State.mcrdGo_error hc))
  · intro got st
    have hst : mcrdStatus a l = st := mcrdStatus_eq a l
    refine ⟨fun hne => ?_, fun h0 => ?_⟩
    · rw [← hst] at hne ⊢
      exact ⟨_, (State.mcrd_exec ha).trans (congrArg _ (State.mcrdGo_status hl hne)), State.oweStatus_status_id ..⟩
    · obtain ⟨hwent, hwait⟩ := State.mcrdGo_done (h := h) (o := p) (tag := tag.toNat) hl (hst.trans h0)
      exact ⟨_, State.mcrd_exec ha, hwent, hwait⟩

end Sys2Proof.Machine
end

section
/-!
PROOFS. O45: what a fetch's walk leaves of memory.
-/

namespace Sys2Proof.Machine

/-- The byte of memory at `a` after an outcome. -/
def byteAfter (o : Out) (a : Nat) : Option Byte := match o with | .next t => some (t.mem.read a) | _ => none

theorem byteAfter_next {o : Out} {t : State} {a : Nat} {b : Byte} (h : byteAfter o a = some b) (ho : o = .next t) : t.mem.read a = b := by
  subst ho
  exact Option.some.inj h

/-- The cause that a check gives, if it fails. -/
def causeOf {α : Type} (x : Except Nat α) : Option Nat := match x with | .ok _ => none | .error c => some c

theorem causeOf_some {α : Type} {x : Except Nat α} {c : Nat} (h : causeOf x = some c) : x = .error c := by
  match x, h with
  | .error d, h => rw [Option.some.inj h]

/-- A line of the page tables that the stash of tile 0 owns: its second entry has been written there, and its home has not. -/
def tableLine : StashLine := { va := 2 ^ 13, pa := 0, data := 2 ^ 64, owned := true, free := false }

/-- Right after reset, but for that line and the directory that knows of it: a fetch of line 2^14 of tile 0 comes back. -/
def tableRecalled : State :=
  { ((State.reset.modTile 0 fun x => { x with stash := [tableLine] }).modStop 0 fun x => { x with dir := [⟨0, some 0, []⟩] }) with
    focus := ⟨0, 2 ^ 14, 0, 0, 0⟩ }

/-- The fetch finds no page, as the first entry of the tables is not valid. -/
theorem tableRecalled_fetch : causeOf (tableRecalled.fetchPart 0 (2 ^ 14)) = some 5 := by decide +kernel

theorem tableRecalled_fill : byteAfter (exec .icacheFill tableRecalled) 8 = some 1 := by decide +kernel

theorem tableRecalled_before : tableRecalled.mem.read 8 = 0 := by decide +kernel

/-- Refutes O45: the walk of a fetch reads an entry of the page tables whose line a stash owns; its home recalls the line (R220), and memory has its bytes. -/
theorem not_issueEvents : ¬ Obligations.IssueEvents := by
  unfold Obligations.IssueEvents
  intro hall
  obtain ⟨-, -, hfill, -⟩ := hall tableRecalled
  have herr : tableRecalled.fetchPart 0 (2 ^ 14) = .error 5 := causeOf_some tableRecalled_fetch
  obtain ⟨t, hexec, hmem, -⟩ := hfill 5 herr
  have hbyte := byteAfter_next tableRecalled_fill hexec
  rw [hmem, tableRecalled_before] at hbyte
  exact absurd hbyte (by decide)

end Sys2Proof.Machine
end

section
/-!
SUPPORT and PROOFS. Residency, ageing, live pre-emption, saves and restores, and parked runs (R84, R87, R198, R199, R326, R354 to R358), and O46.
-/

namespace Sys2Proof.Machine

/-! ### Events that stay in their tile -/

/-- Memory, the time and every tile but `n` are as before. -/
structure WithinTile (n : Nat) (s t : State) : Prop where
  mem : t.mem = s.mem
  time : t.nc = s.nc
  others : ∀ m, m ≠ n → t.tile m = s.tile m

theorem WithinTile.refl (n : Nat) (s : State) : WithinTile n s s := ⟨rfl, rfl, fun _ _ => rfl⟩

theorem WithinTile.trans {n : Nat} {s t u : State} (h : WithinTile n s t) (k : WithinTile n t u) : WithinTile n s u :=
  ⟨k.mem.trans h.mem, k.time.trans h.time, fun m hm => (k.others m hm).trans (h.others m hm)⟩

theorem WithinTile.modTile (n : Nat) (s : State) (f : Tile → Tile) : WithinTile n s (s.modTile n f) := ⟨rfl, rfl, fun _ hm => State.tile_modTile_ne s f hm⟩

theorem WithinTile.at_ (n : Nat) (s : State) (d : Nat) (e : Instr) (f : Focus) : WithinTile n s (s.at_ d e f) := ⟨rfl, rfl, fun _ _ => rfl⟩

theorem WithinTile.take (n : Nat) (s : State) : WithinTile n s s.take.2 := ⟨rfl, rfl, fun _ _ => rfl⟩

theorem WithinTile.and {n : Nat} {s t : State} (h : WithinTile n s t) : t.mem = s.mem ∧ t.nc = s.nc ∧ ∀ m, m ≠ n → t.tile m = s.tile m :=
  ⟨h.mem, h.time, h.others⟩

/-! ### Residency (R84, R87) -/

theorem Tile.unblock_core (x : Tile) (tc : Nat) : x.SameCore (x.unblock tc) := .ite (.refl x) ⟨rfl, rfl, rfl⟩

theorem Tile.unready_core (x : Tile) (id tc : Nat) : x.SameCore (x.unready id tc) :=
  (x.unblock_core (tc + 1)).trans ⟨rfl, rfl, rfl⟩

theorem Tile.unready_slotSeq (x : Tile) (id tc : Nat) : (x.unready id tc).slotSeq = x.slotSeq := by
  unfold Tile.unready Tile.unblock
  dsimp only
  split <;> rfl

theorem Tile.mem_unready (x : Tile) (id tc : Nat) : ∀ r ∈ (x.unready id tc).ready, r.id ≠ id := by
  intro r hr
  simpa using (List.mem_filter.1 hr).2

/-- The tile with a record's jet in a slot. -/
def Tile.seated (k b key tc : Nat) (q : Ready) (x : Tile) : Tile :=
  { x.setJet k (q.jet key (Tbl.get 0 x.slotSeq k) b tc) with slotSeq := Tbl.set x.slotSeq k (Tbl.get 0 x.slotSeq k + 1) }

theorem State.reside_eq (s : State) (n k b : Nat) (q : Ready) : s.reside n k b q = s.take.2.modTile n (Tile.seated k b s.nextId s.tc q) := rfl

theorem State.reside_tile (s : State) (n k b : Nat) (q : Ready) : (s.reside n k b q).tile n = (s.tile n).seated k b s.nextId s.tc q :=
  State.tile_modTile_same s.take.2 n _

/-- A record that is no saved context becomes a jet of its tile. -/
theorem State.seatJet_fresh {s : State} {n k b : Nat} {q : Ready} (hq : q.saved = none) : s.seatJet n k b q = (s.modTile n fun x => x.unready q.id s.tc).reside n k b q := by
  simp only [State.seatJet, hq]

/-- What making a record resident leaves. -/
theorem State.seatJet_spec {s : State} {n k b : Nat} {q : Ready} (hq : q.saved = none) : WithinTile n s (s.seatJet n k b q) ∧
    (s.seatJet n k b q).jet n k = q.jet s.nextId (Tbl.get 0 (s.tile n).slotSeq k) b s.tc ∧ (∀ i, i ≠ k → (s.seatJet n k b q).jet n i = s.jet n i) ∧
    ((s.seatJet n k b q).tile n).pool = (s.tile n).pool ∧ ∀ r ∈ ((s.seatJet n k b q).tile n).ready, r.id ≠ q.id := by
  have htile : (s.seatJet n k b q).tile n = ((s.tile n).unready q.id s.tc).seated k b s.nextId s.tc q := by
    rw [State.seatJet_fresh hq, State.reside_tile, State.tile_modTile_same]
    rfl
  refine ⟨?_, ?_, fun i hi => ?_, ?_, ?_⟩
  · rw [State.seatJet_fresh hq, State.reside_eq]
    exact ((WithinTile.modTile n s _).trans (.take n _)).trans (.modTile n _ _)
  · rw [State.jet, htile, ← (s.tile n).unready_slotSeq q.id s.tc]
    exact Tile.jet_setJet_same ..
  · rw [State.jet, htile]
    exact (Tile.jet_setJet_ne _ _ hi).trans (((s.tile n).unready_core q.id s.tc).jet i)
  · rw [htile]
    exact ((s.tile n).unready_core q.id s.tc).1
  · rw [htile]
    exact (s.tile n).mem_unready q.id s.tc

/-- Where no record is reserved for, the first in order that finds a frame is made resident. -/
theorem State.residency_exec {s : State} {k b : Nat} {q : Ready} {l : List Ready} (hk : (s.tile s.focus.a).freeSlot s.tc = some k)
    (hr : (s.tile s.focus.a).reserver = none) (ho : (s.tile s.focus.a).readyOrder = q :: l) (hh : s.husked s.focus.a q.inst = false)
    (hf : (s.tile s.focus.a).fits s.tc q.grans = some b) : exec .residency s = .next (s.seatJet s.focus.a k b q) := by
  change execResidency s = _
  have hall : (q :: l).filter (fun q => some q.id != (none : Option Nat) && (!false || q.level == 7)) = q :: l := by simp
  simp only [execResidency, Tile.slotFor, hk, hr, ho, Option.isNone_some, Option.bind_none, hall, State.searchReady, hh, Bool.false_eq_true, false_and, if_false, hf, List.foldl_nil]

/-! ### Live pre-emption (R198, R355) -/

theorem Tile.askPark_core (x : Tile) (key : Nat) : x.SameCore (x.askPark key) ∧ (x.askPark key).preempting = x.preempting := by
  unfold Tile.askPark
  split
  · split <;> exact ⟨⟨rfl, rfl, rfl⟩, rfl⟩
  · exact ⟨.refl x, rfl⟩

/-- Pool, frames and program counters are as before. -/
structure FramesKept (x y : Tile) : Prop where
  pool : y.pool = x.pool
  frame : ∀ i, (y.jet i).frame = (x.jet i).frame
  pc : ∀ i, (y.jet i).pc = (x.jet i).pc

theorem FramesKept.refl (x : Tile) : FramesKept x x := ⟨rfl, fun _ => rfl, fun _ => rfl⟩

theorem FramesKept.trans {x y z : Tile} (h : FramesKept x y) (k : FramesKept y z) : FramesKept x z :=
  ⟨k.pool.trans h.pool, fun i => (k.frame i).trans (h.frame i), fun i => (k.pc i).trans (h.pc i)⟩

theorem FramesKept.of_core {x y : Tile} (h : x.SameCore y) : FramesKept x y := ⟨h.1, fun i => by rw [h.jet], fun i => by rw [h.jet]⟩

theorem FramesKept.modJet (x : Tile) (k : Nat) {f : Jet → Jet} (hf : ∀ j, (f j).frame = j.frame ∧ (f j).pc = j.pc) : FramesKept x (x.modJet k f) := by
  refine ⟨rfl, fun i => ?_, fun i => ?_⟩ <;> by_cases hi : i = k
  · rw [hi, Tile.jet_modJet_same]; exact (hf _).1
  · rw [Tile.jet_modJet_ne _ _ hi]
  · rw [hi, Tile.jet_modJet_same]; exact (hf _).2
  · rw [Tile.jet_modJet_ne _ _ hi]

/-- A change of one tile that keeps pool, frames and program counters. -/
structure HaltStep (n : Nat) (s t : State) : Prop where
  within : WithinTile n s t
  frames : FramesKept (s.tile n) (t.tile n)

theorem HaltStep.refl (n : Nat) (s : State) : HaltStep n s s := ⟨.refl n s, .refl _⟩

theorem HaltStep.trans {n : Nat} {s t u : State} (h : HaltStep n s t) (k : HaltStep n t u) : HaltStep n s u := ⟨h.within.trans k.within, h.frames.trans k.frames⟩

theorem HaltStep.modTile (n : Nat) (s : State) {f : Tile → Tile} (hf : ∀ x, FramesKept x (f x)) : HaltStep n s (s.modTile n f) :=
  ⟨.modTile n s f, by rw [State.tile_modTile_same]; exact hf _⟩

theorem HaltStep.modJet (n k : Nat) (s : State) {f : Jet → Jet} (hf : ∀ j, (f j).frame = j.frame ∧ (f j).pc = j.pc) : HaltStep n s (s.modJet n k f) :=
  .modTile n s (f := fun x => x.modJet k f) fun x => .modJet x k hf

theorem HaltStep.haltNest (n : Nat) (s : State) (z : NestSt) : HaltStep n s (s.haltNest n z) := by
  have hnest : HaltStep n s (s.modNest n z.id NestSt.halted) :=
    .modTile n s (f := fun x => { x with nests := x.nests.map fun m => if m.id = z.id then m.halted else m }) fun _ => .of_core ⟨rfl, rfl, rfl⟩
  unfold State.haltNest
  dsimp only
  split
  · exact hnest.trans (.modJet n _ _ fun _ => ⟨rfl, rfl⟩)
  · exact hnest

theorem HaltStep.stopNest (n k : Nat) (s : State) : HaltStep n s (s.stopNest n k) := by
  unfold State.stopNest
  split
  · exact .refl n s
  · exact (HaltStep.haltNest n s _).trans (.modJet n k _ fun _ => ⟨rfl, rfl⟩)

theorem FramesKept.stopSpill (x : Tile) (k : Nat) : FramesKept x (x.stopSpill k) := by
  unfold Tile.stopSpill
  dsimp only
  split
  · exact .refl x
  · exact FramesKept.trans (y := { x with acc := x.acc.filter fun b => !(x.unbegun (x.jet k).key).any fun c => c.id == b.id }) (.of_core ⟨rfl, rfl, rfl⟩)
      (.modJet _ k fun _ => ⟨rfl, rfl⟩)

/-- A jet that is halted (R355). -/
def Jet.halted (j : Jet) : Jet :=
  { j with status := .saving, casc := .none, fwdQ := [], interrupted := sortIntr (j.interrupted ++ j.replay), replay := [] }

/-- The jet that is halted, and the channels that stop with it. -/
def Tile.halting (k : Nat) (chans : List Nat) (x : Tile) : Tile :=
  { x.modJet k Jet.halted with
    chans := x.chans.map fun c => if chans.contains c.1 then (c.1, { c.2 with suspended := true, guarded := false }) else c }

/-- The tile whose save entry is taken by a halted jet. -/
def Tile.savingIn (k e : Nat) (chans : List Nat) (x : Tile) : Tile :=
  x.setSave e (some { jet := x.jet k, slot := k, doneAt := 0, saved := false, chans := chans, recAt := x.saveAddr e, frameAt := 0, bytes := 0 })

theorem State.halt_spec (s : State) (n k e : Nat) : HaltStep n s (s.halt n k e) ∧ ((s.halt n k e).jet n k).status = .saving ∧
    ∃ v, ((s.halt n k e).tile n).save e = some v ∧ v.slot = k ∧ v.saved = false := by
  let u := (s.stopNest n k).modTile n fun x => x.stopSpill k
  have hdef : s.halt n k e = (u.modTile n (Tile.halting k (s.suspends n (s.jet n k).key))).modTile n (Tile.savingIn k e (s.suspends n (s.jet n k).key)) := rfl
  have htile : (s.halt n k e).tile n = ((u.tile n).halting k (s.suspends n (s.jet n k).key)).savingIn k e (s.suspends n (s.jet n k).key) := by
    rw [hdef, State.tile_modTile_same, State.tile_modTile_same]
  refine ⟨?_, ?_, ?_⟩
  · have hstop : HaltStep n (s.stopNest n k) u := .modTile n _ (f := fun x => x.stopSpill k) fun x => .stopSpill x k
    have hhalt (c : List Nat) : HaltStep n u (u.modTile n (Tile.halting k c)) := .modTile n u fun x =>
      (FramesKept.modJet x k (f := Jet.halted) fun _ => ⟨rfl, rfl⟩).trans (.of_core (y := x.halting k c) ⟨rfl, rfl, rfl⟩)
    have hsave (c : List Nat) (w : State) : HaltStep n w (w.modTile n (Tile.savingIn k e c)) := .modTile n w fun x => ⟨rfl, fun _ => rfl, fun _ => rfl⟩
    rw [hdef]
    exact (((HaltStep.stopNest n k s).trans hstop).trans (hhalt _)).trans (hsave _ _)
  · rw [State.jet, htile]
    exact congrArg Jet.status (Tile.jet_modJet_same (u.tile n) k Jet.halted)
  · rw [htile]
    exact ⟨_, Tbl.get_set_same .., rfl, rfl⟩

/-! ### Saves (R355, R358, R385) -/

theorem foldl_fixed {α β : Type} (f : β → α → β) (b : β) (l : List α) (h : ∀ a ∈ l, f b a = b) : l.foldl f b = b := by
  induction l with
  | nil => rfl
  | cons a l ih =>
    rw [List.foldl_cons, h a List.mem_cons_self]
    exact ih fun c hc => h c (List.mem_cons_of_mem _ hc)

/-- A save entry whose save's last tc is known. -/
def Tile.saveTimed (e done : Nat) (v : SaveEntry) (x : Tile) : Tile := x.setSave e (some { v with doneAt := done })

/-- Where no save goes on, the writes of a frame begin within 8 tc. -/
theorem State.contextSaved_begins {s : State} {v : SaveEntry} (hv : (s.tile s.focus.a).save s.focus.b = some v) (hd : s.focus.d = 0)
    (hfree : ∀ e w, (e, some w) ∈ (s.tile s.focus.a).saves → w.saved = true ∨ w.doneAt = 0) (htc : 1 ≤ s.tc) :
    ∃ d, d ≤ 8 ∧ exec .contextSaved s = .next ((s.drawDelay.2.modTile s.focus.a (Tile.saveTimed s.focus.b
      (s.tc + d + frameWrites ((s.tile s.focus.a).jet v.slot).grans - 1) v)).at_ (2 * (s.tc + d)) .contextSaved ⟨s.focus.a, s.focus.b, 0, 1, 0⟩) := by
  have hmax : max (s.tc + s.drawDelay.1 % 9) (0 + 1) = s.tc + s.drawDelay.1 % 9 := Nat.max_eq_left (by omega)
  refine ⟨s.drawDelay.1 % 9, by omega, ?_⟩
  change execContextSaved s = _
  simp only [execContextSaved, hv, hd, if_true]
  rw [foldl_fixed _ 0 (s.tile s.focus.a).saves ?_, hmax]
  · rfl
  · rintro ⟨e, w⟩ hmem
    match w, hmem with
    | none, _ => rfl
    | some w, hmem =>
      rcases hfree e w hmem with h | h
      · simp [h]
      · simp [h]

/-- The record of a save with its head, which the first write of the frame is behind. -/
def Tile.saveHead (x : Tile) (k : Nat) (v : SaveEntry) : Tile × SaveEntry :=
  if k = 0 then x.writeHead (x.jet v.slot) { v with park := x.parkedWord (x.jet v.slot).key } else (x, v)

theorem State.contextSaved_writes {s : State} {v : SaveEntry} (hv : (s.tile s.focus.a).save s.focus.b = some v) (hd : s.focus.d ≠ 0) (hs : v.saved = false)
    (hk : s.focus.data + 1 < frameWrites ((s.tile s.focus.a).jet v.slot).grans) : exec .contextSaved s =
      .next ((s.modTile s.focus.a fun _ => ((((s.tile s.focus.a).saveHead s.focus.data v).1.writeFrame ((s.tile s.focus.a).jet v.slot)
        ((s.tile s.focus.a).saveHead s.focus.data v).2 s.focus.data).setSave s.focus.b (some ((s.tile s.focus.a).saveHead s.focus.data v).2))).at_
        (2 * (s.tc + 1)) .contextSaved ⟨s.focus.a, s.focus.b, 0, 1, s.focus.data + 1⟩) := by
  change execContextSaved s = _
  unfold execContextSaved
  dsimp only
  rw [hv]
  dsimp only
  rw [if_neg hd, if_neg (Bool.eq_false_iff.1 hs), if_pos hk]
  rfl

theorem State.contextSaved_ends {s : State} {v : SaveEntry} (hv : (s.tile s.focus.a).save s.focus.b = some v) (hd : s.focus.d ≠ 0) (hs : v.saved = false)
    (hk : frameWrites ((s.tile s.focus.a).jet v.slot).grans ≤ s.focus.data + 1) : ∃ (y : Tile) (w : SaveEntry), exec .contextSaved s =
      .next (s.saveEnds s.focus.a s.focus.b v.slot ((s.tile s.focus.a).jet v.slot) (y.closeRecord ((s.tile s.focus.a).jet v.slot) w)) := by
  have hexec : exec .contextSaved s = execContextSaved s := rfl
  rw [hexec, execContextSaved]
  dsimp only
  rw [hv]
  dsimp only
  rw [if_neg hd, if_neg (Bool.eq_false_iff.1 hs), if_neg (Nat.not_lt.2 hk)]
  exact ⟨_, _, rfl⟩

theorem Tile.writeParts_core (ps : List (Nat × Nat)) (x : Tile) (a : Nat) : (x.writeParts a ps).jets = x.jets ∧ (x.writeParts a ps).saves = x.saves := by
  induction ps generalizing x a with
  | nil => exact ⟨rfl, rfl⟩
  | cons p ps ih => exact ih (x.poolWrite a p.1 (fullEn p.1) p.2) (a + p.1)

theorem Tile.saveHead_spec (x : Tile) (k : Nat) (v : SaveEntry) : (x.saveHead k v).1.jets = x.jets ∧ (x.saveHead k v).2.saved = v.saved ∧
    (1 ≤ k → (x.saveHead k v).2.frameAt = v.frameAt) := by
  unfold Tile.saveHead
  split
  next hk => exact ⟨(Tile.writeParts_core _ _ _).1, rfl, fun h => absurd hk (by omega)⟩
  next => exact ⟨rfl, rfl, fun _ => rfl⟩

theorem fld_lt_bytes (w lo n : Nat) : fld w lo (8 * n) < 256 ^ n := by
  have h := fld_lt w lo (8 * n)
  rwa [Nat.pow_mul] at h

theorem Tile.writeFrame_part (x : Tile) (j : Jet) (v : SaveEntry) {k n : Nat} (hn : min 256 (64 * j.grans - 256 * k) = n) :
    (x.writeFrame j v k).poolRead (v.frameAt + 256 * k) n = fld j.frame.bits (2048 * k) (8 * n) := by
  have hw : x.writeFrame j v k = x.poolWrite (v.frameAt + 256 * k) n (fullEn n) (fld j.frame.bits (2048 * k) (8 * n)) := by
    rw [Tile.writeFrame, hn]
    rfl
  rw [hw]
  exact (Memory.readN_writeEn_full ..).trans (Nat.mod_eq_of_lt (fld_lt_bytes _ _ n))

/-- A write of the frame that is not the last stands in the pool. -/
theorem Tile.writeFrame_read (x : Tile) (j : Jet) (v : SaveEntry) {k : Nat} (hk : k + 1 < frameWrites j.grans) :
    (x.writeFrame j v k).poolRead (v.frameAt + 256 * k) 256 = fld j.frame.bits (2048 * k) 2048 ∧ (x.writeFrame j v k).jets = x.jets := by
  refine ⟨x.writeFrame_part j v (n := 256) ?_, (Tile.writeParts_core _ _ _).1⟩
  unfold frameWrites ceilDiv at hk
  omega

theorem mem_insertReady (q : Ready) (first : Nat) (l : List Ready) : q ∈ insertReady q first l := by
  induction l with
  | nil => exact List.mem_singleton.2 rfl
  | cons r l ih =>
    rw [insertReady]
    split
    · exact List.mem_cons_self
    · exact List.mem_cons_of_mem _ ih

theorem Tile.vacate_saves (x : Tile) (slot tc : Nat) : (x.vacate slot tc).saves = x.saves := by
  unfold Tile.vacate
  refine (Tile.SameCore.trans (y := _) (Tile.SameCore.slotLeft (x.setJet slot { Jet.empty with freeAt := tc + 1, granBase := (x.jet slot).granBase, grans := if x.inHeldRun slot then 0 else (x.jet slot).grans }) slot tc) ?_).2.2
  exact .ite (.refl _) ((Tile.SameCore.freed _ _ _).trans (.lookRunless _ _))

theorem Tile.giveRun_core (x : Tile) (slot : Nat) : x.SameCore (x.giveRun slot) := .ite ⟨rfl, rfl, rfl⟩ (.refl x)

/-- What closing a record leaves in its entry. -/
theorem Tile.closeRecord_entry (x : Tile) (j : Jet) (v : SaveEntry) : (x.closeRecord j v).2.jet = j ∧ (x.closeRecord j v).2.saved = true := by
  unfold Tile.closeRecord
  dsimp only
  split <;> exact ⟨rfl, rfl⟩

/-- The record of a context that has been saved. -/
def savedRecord (id e time : Nat) (j : Jet) : Ready :=
  { id := id, entry := j.entry, level := j.level, inst := j.inst, grans := j.grans, role := j.role, arrival := j.firstRes
    waitFrom := time, bypass := 0, payloads := [], task := none, saved := some e, badHeader := false, bad := [] }

/-- The tile where a save has ended. -/
def Tile.saveEnded (e slot tc : Nat) (q : Ready) (p : Tile × SaveEntry) : Tile :=
  let y := ((p.1.setSave e (some p.2)).giveRun slot).vacate slot tc
  { y with ready := insertReady q q.arrival y.ready, preempting := y.preempting.filter fun k => k.2 != e }

theorem State.saveEnds_eq (s : State) (t e slot : Nat) (j : Jet) (p : Tile × SaveEntry) :
    s.saveEnds t e slot j p = s.take.2.modTile t fun _ => Tile.saveEnded e slot s.tc (savedRecord s.nextId e s.dev.time j) p := rfl

theorem Tile.saveEnded_spec (e slot tc : Nat) (q : Ready) (p : Tile × SaveEntry) : ((Tile.saveEnded e slot tc q p).jet slot).status = .free ∧
    (Tile.saveEnded e slot tc q p).save e = some p.2 ∧ q ∈ (Tile.saveEnded e slot tc q p).ready := by
  refine ⟨?_, ?_, mem_insertReady _ _ _⟩
  · obtain ⟨f, hf, hjet⟩ := Tile.vacate_jet ((p.1.setSave e (some p.2)).giveRun slot) slot tc slot
    refine (congrArg Jet.status (hjet.trans (if_pos rfl))).trans hf
  · change Tbl.get none (((p.1.setSave e (some p.2)).giveRun slot).vacate slot tc).saves e = _
    rw [Tile.vacate_saves, (Tile.giveRun_core _ _).2.2]
    exact Tbl.get_set_same ..

/-! ### Values that come back to a saved context (R355) -/

theorem Tile.imageWrite_saves (x : Tile) (v : SaveEntry) (sl : List (Nat × Nat × Nat)) : (x.imageWrite v sl).saves = x.saves := by
  unfold Tile.imageWrite
  induction sl generalizing x with
  | nil => rfl
  | cons e sl ih => exact ih (x.poolWrite _ _ _ _)

theorem Tile.poolWrite_saves (x : Tile) (a n en v : Nat) : (x.poolWrite a n en v).saves = x.saves := rfl

theorem Tile.imageCount_saves (x : Tile) (v : SaveEntry) : (x.imageCount v).saves = x.saves := by
  rw [Tile.imageCount, Tile.poolWrite_saves, Tile.poolWrite_saves]

/-- A change of a saved context stands in its entry. -/
theorem Tile.modOwner_saved {x : Tile} {key e : Nat} {v : SaveEntry} (sl : List (Nat × Nat × Nat)) (f : Jet → Jet) (hslot : x.slotOf key = none) (he : x.saveOf key = some e)
    (hv : x.save e = some v) : (x.modOwner key sl f).save e = some { v with jet := f v.jet } := by
  simp only [Tile.modOwner, hslot, he, hv]
  rw [Tile.save, Tile.imageCount_saves, Tile.imageWrite_saves]
  exact Tbl.get_set_same ..

/-! ### Restores (R354, R358) -/

theorem Tile.readProgress_spec (x : Tile) (v : SaveEntry) (j : Jet) : (x.readProgress v j).1.pool = x.pool ∧ (x.readProgress v j).2.frame = j.frame ∧ (x.readProgress v j).2.pc = j.pc :=
  ⟨rfl, rfl, rfl⟩

/-- The jet of a context that is restored. -/
def Jet.restored (j : Jet) (base seq tc bytes : Nat) (replay : List Interrupted) : Jet :=
  { j with
    status := .running, granBase := base, seq := BitVec.ofNat 13 seq, resident := tc, wait := 0, yieldMark := false
    stallTill := tc + 6 + ceilDiv bytes 256, replay := replay, interrupted := [], pend := [], owed := j.awaited }

/-- The tile where a context is restored, before its channels wake. -/
def Tile.restored (x : Tile) (v : SaveEntry) (slot e base tc : Nat) : Tile :=
  let p := x.readProgress v (x.readRecord v)
  { ((p.1.setJet slot (p.2.restored base (Tbl.get 0 x.slotSeq slot) tc v.bytes (p.1.replayOf p.2))).freeSave e).unpark p.2.key with
    slotSeq := Tbl.set x.slotSeq slot (Tbl.get 0 x.slotSeq slot + 1) }

theorem State.contextRestore_exec {s : State} {v : SaveEntry} (hv : (s.tile s.focus.a).save s.focus.c = some v) :
    exec .contextRestore s = .next ((s.modTile s.focus.a fun _ => (s.tile s.focus.a).restored v s.focus.b s.focus.c s.focus.d s.tc).wakeChans s.focus.a v.chans) := by
  change execContextRestore s = _
  simp only [execContextRestore, hv]
  rfl

theorem Tile.restored_spec (x : Tile) (v : SaveEntry) (slot e base tc : Nat) : ((x.restored v slot e base tc).jet slot).status = .running ∧
    ((x.restored v slot e base tc).jet slot).stallTill = tc + 6 + ceilDiv v.bytes 256 ∧ ((x.restored v slot e base tc).jet slot).frame = (x.readRecord v).frame ∧
    ((x.restored v slot e base tc).jet slot).pc = (x.readRecord v).pc ∧ (x.restored v slot e base tc).save e = none ∧ (x.restored v slot e base tc).pool = x.pool := by
  let p := x.readProgress v (x.readRecord v)
  let y := p.1.setJet slot (p.2.restored base (Tbl.get 0 x.slotSeq slot) tc v.bytes (p.1.replayOf p.2))
  have hpark := Tile.SameCore.unpark (y.freeSave e) p.2.key
  have hjet : (x.restored v slot e base tc).jet slot = p.2.restored base (Tbl.get 0 x.slotSeq slot) tc v.bytes (p.1.replayOf p.2) := by
    change ((y.freeSave e).unpark p.2.key).jet slot = _
    rw [hpark.jet, Tile.jet, Tile.freeSave_jets]
    exact Tile.jet_setJet_same ..
  have hsave : (x.restored v slot e base tc).save e = none := by
    change Tbl.get none ((y.freeSave e).unpark p.2.key).saves e = none
    rw [hpark.2.2]
    exact Tile.freeSave_save y e
  have hpool : (x.restored v slot e base tc).pool = x.pool := hpark.1.trans (Tile.freeSave_pool y e)
  rw [hjet]
  exact ⟨rfl, rfl, rfl, rfl, hsave, hpool⟩

theorem State.wakeChans_core (s : State) (n : Nat) (l : List Nat) : WithinTile n s (s.wakeChans n l) ∧ (s.tile n).SameCore ((s.wakeChans n l).tile n) := by
  unfold State.wakeChans
  induction l generalizing s with
  | nil => exact ⟨.refl n s, .refl _⟩
  | cons k l ih =>
    obtain ⟨hin, hcore⟩ := ih (s.modTile n fun x => x.modChan k fun c => { c with suspended := false, guarded := true })
    rw [State.tile_modTile_same] at hcore
    exact ⟨(WithinTile.modTile n s _).trans hin, Tile.SameCore.trans ⟨rfl, rfl, rfl⟩ hcore⟩

/-! ### Returns to a saved context, and the events of this part -/

/-- What a beat of a value leaves of a saved context. -/
theorem State.returnBeat_saved {s : State} {n e : Nat} {a : Access} {v : SaveEntry} (ha : ∀ l, a.op ≠ .agg l) (hslot : (s.tile n).slotOf a.jet = none)
    (he : (s.tile n).saveOf a.jet = some e) (hv : (s.tile n).save e = some v) : WithinTile n s (s.returnBeat n a a.value) ∧
      ∃ w, ((s.returnBeat n a a.value).tile n).save e = some w ∧ w.jet.frame = v.jet.frame.apply (scatter (takeRuns a.dst 16) a.value) := by
  obtain ⟨f, g, hf, hdef⟩ : ∃ (f : Jet → Jet) (g : Access → Access), (∀ j, (f j).frame = j.frame.apply (scatter (takeRuns a.dst 16) a.value)) ∧
      (s.returnBeat n a a.value = (s.modTile n fun x => x.modOwner a.jet (scatter (takeRuns a.dst 16) a.value) f).modAcc n a.id g ∨
        s.returnBeat n a a.value = ((s.modTile n fun x => x.modOwner a.jet (scatter (takeRuns a.dst 16) a.value) f).modAcc n a.id g).after 1 .loadReturn ⟨n, a.id, 0, 1, 0⟩) := by
    have hall : (match a.op with | .agg _ => true | _ => false) = false := by
      cases h : a.op <;> first | rfl | exact absurd h (ha _)
    simp only [State.returnBeat, hall, Bool.false_eq_true, if_false, hslot, he, Option.isNone_some, Bool.and_false]
    split
    · exact ⟨_, _, fun _ => rfl, .inl rfl⟩
    · exact ⟨_, _, fun _ => rfl, .inr rfl⟩
  obtain ⟨u, hu⟩ : ∃ u, (s.modTile n fun x => x.modOwner a.jet (scatter (takeRuns a.dst 16) a.value) f).modAcc n a.id g = u := ⟨_, rfl⟩
  have hin : WithinTile n s u := by
    rw [← hu]
    exact (WithinTile.modTile n s _).trans (.modTile n _ fun x => x.modAcc a.id g)
  have hsave : (u.tile n).save e = some { v with jet := f v.jet } := by
    have htile : u.tile n = Tile.modAcc ((s.tile n).modOwner a.jet (scatter (takeRuns a.dst 16) a.value) f) a.id g := by
      rw [← hu, State.modAcc, State.tile_modTile_same, State.tile_modTile_same]
    rw [htile]
    exact Tile.modOwner_saved _ f hslot he hv
  rw [hu] at hdef
  rcases hdef with h | h <;> rw [h]
  · exact ⟨hin, _, hsave, hf _⟩
  · exact ⟨hin.trans (.at_ n _ _ _ _), _, hsave, hf _⟩

/-- The tile whose request has its victim. -/
def Tile.victimTaken (id e key : Nat) (x : Tile) : Tile :=
  { x with
    preempting := x.preempting.map fun p => if p.1 = id then (id, e) else p
    mx := { x.mx with parkAsked := if x.mx.parkAsked = some id then some key else x.mx.parkAsked
                      parkFor := if x.mx.parkFor = some id then some key else x.mx.parkFor } }

/-- The tile where a record asks for a victim. -/
def Tile.victimAsked (id : Nat) (x : Tile) : Tile := { x with preempting := x.preempting ++ [(id, 16)] }.askPark id

theorem Tile.victimAsked_core (id : Nat) (x : Tile) : x.SameCore (x.victimAsked id) ∧ (x.victimAsked id).preempting = x.preempting ++ [(id, 16)] := by
  obtain ⟨hcore, hpre⟩ := Tile.askPark_core { x with preempting := x.preempting ++ [(id, 16)] } id
  exact ⟨Tile.SameCore.trans ⟨rfl, rfl, rfl⟩ hcore, hpre⟩

theorem Kept.at_ (s : State) (d : Nat) (e : Instr) (f : Focus) : Kept s (s.at_ d e f) := ⟨rfl, fun _ => rfl, fun _ _ => rfl, rfl, rfl, rfl, rfl⟩

theorem Kept.drawDelay (s : State) : Kept s s.drawDelay.2 := ⟨rfl, fun _ => rfl, fun _ _ => rfl, rfl, rfl, rfl, rfl⟩

theorem liveNeed_asked {s : State} {q : Ready} (hb : s.focus.b = 0) (hq : s.liveNeed s.focus.a = some q) : exec .livePreempt s =
    .next ((s.modTile s.focus.a (Tile.victimAsked q.id)).after (Config.preemptDelay s.focus.a % 61) .livePreempt
      ⟨s.focus.a, 1, q.id, 0, 0⟩) := by
  change execLivePreempt s = _
  simp only [execLivePreempt, hb, if_true, hq]
  rfl

theorem victim_halted {s : State} {k e : Nat} {l : List Nat} (hb : s.focus.b ≠ 0) (hk : (s.tile s.focus.a).victimSlot = some k) (he : (s.tile s.focus.a).freeSaves = e :: l)
    (hneed : ((s.tile s.focus.a).ready.any fun q => q.id == s.focus.c && (((s.tile s.focus.a).slotFor s.tc true).isNone || ((s.tile s.focus.a).fits s.tc q.grans).isNone)) = true) :
    ∃ f : Tile → Tile, (∀ x : Tile, x.SameCore (f x)) ∧ exec .livePreempt s = .next ((s.halt s.focus.a k e).modTile s.focus.a f) := by
  have hexec : exec .livePreempt s = execLivePreempt s := rfl
  rw [hexec, execLivePreempt]
  dsimp only
  rw [if_neg hb, hk, he, List.head?_cons]
  dsimp only
  rw [hneed, if_neg (by decide)]
  exact ⟨Tile.victimTaken s.focus.c e ((s.tile s.focus.a).jet k).key, fun _ => ⟨rfl, rfl, rfl⟩, rfl⟩

/-- The tile whose run is parked for whom asked for it. -/
def Tile.parked (r : Run) (x : Tile) : Tile := { x with mx := { x.mx with run := none, parked := some r, parkFor := x.mx.parkAsked, parkAsked := none } }

/-- The tile whose parked run goes on. -/
def Tile.unparked (tc : Nat) (x : Tile) : Tile := { x with mx := { x.mx with run := x.mx.parked.map fun r => { r with readyAt := tc + 1 }, parked := none } }

/-- Settles O46: each event by the tile it changes, and what it changes there. -/
theorem residencyEvents : Obligations.ResidencyEvents := by
  unfold Obligations.ResidencyEvents
  intro s n x quiet
  refine ⟨fun k q b l hk hr ho hsaved hh hf => ?seat, ?age, fun q hb hq => ?ask, fun k e l hb hk he hneed => ?halt, fun v hv hd hfree _ htc => ?begin_, fun v hv hd hs hk => ?write,
    fun v hv hd hs hk => ?last, fun a e v hd ha hop hslot he hv => ?owed, fun v hv => ?back, fun r hr hlt => ?park, fun r hr => ?go⟩
  case seat =>
    obtain ⟨hin, hjet, hothers, hpool, hready⟩ := State.seatJet_spec (s := s) (n := n) (k := k) (b := b) hsaved
    exact ⟨_, State.residency_exec hk hr ho hh hf, hin.and, hjet, congrArg Jet.stallTill hjet, congrArg Jet.pc hjet, hothers, hpool, hready⟩
  case age =>
    refine ⟨_, rfl, .modTile s n (f := fun x => { x with ready := x.ready.map fun q => if q.id = s.focus.b then { q with level := q.level + 1, waitFrom := s.dev.time } else q })
      (fun _ => rfl) fun _ => rfl, ?_, fun i q hq => ?_⟩
    · rw [State.tile_modTile_same]
      exact List.length_map _
    · rw [State.tile_modTile_same]
      exact (List.getElem?_map ..).trans (congrArg (Option.map _) hq)
  case ask =>
    refine ⟨_, Config.preemptDelay n % 61, liveNeed_asked hb hq, ?_, ?_, by omega, agendaInsert_mem _ _ _ _⟩
    · exact (Kept.modTile s n (f := Tile.victimAsked q.id) (fun x => (x.victimAsked_core q.id).1.1) fun x => (x.victimAsked_core q.id).1.2.1).trans (.at_ _ _ _ _)
    · change (q.id, 16) ∈ ((s.modTile n (Tile.victimAsked q.id)).tile n).preempting
      rw [State.tile_modTile_same, (Tile.victimAsked_core _ _).2]
      exact List.mem_append_right _ (List.mem_singleton.2 rfl)
  case halt =>
    obtain ⟨q, hq, hid, hno⟩ := hneed
    obtain ⟨f, hf, hexec⟩ := victim_halted hb hk he (List.any_eq_true.2 ⟨q, hq, by rw [hid, beq_self_eq_true, Bool.true_and, Bool.or_eq_true]; exact hno⟩)
    obtain ⟨hstep, hstatus, v, hv, hvk, hvs⟩ := s.halt_spec n k e
    have htile : ((s.halt n k e).modTile n f).tile n = f ((s.halt n k e).tile n) := State.tile_modTile_same ..
    refine ⟨_, v, hexec, (hstep.within.trans (.modTile n _ f)).and, ?_, ?_, ?_, ?_, hvk, hvs, ?_⟩
    · rw [State.jet, htile, (hf _).jet]
      exact hstatus
    · rw [State.jet, htile, (hf _).jet]
      exact hstep.frames.frame k
    · rw [State.jet, htile, (hf _).jet]
      exact hstep.frames.pc k
    · rw [htile, Tile.save, (hf _).2.2]
      exact hv
    · rw [htile, (hf _).1]
      exact hstep.frames.pool
  case begin_ =>
    obtain ⟨d, hd8, hexec⟩ := State.contextSaved_begins hv hd hfree htc
    refine ⟨_, d, hexec, ?_, hd8, agendaInsert_mem _ _ _ _, ?_⟩
    · exact ((Kept.drawDelay s).trans (.modTile _ n (f := Tile.saveTimed s.focus.b (s.tc + d + frameWrites (x.jet v.slot).grans - 1) v) (fun _ => rfl) fun _ => rfl)).trans
        (.at_ _ _ _ _)
    · refine ⟨{ v with doneAt := s.tc + d + frameWrites (x.jet v.slot).grans - 1 }, ?_, rfl⟩
      refine (congrArg (fun y : Tile => y.save s.focus.b) (State.tile_modTile_same s.drawDelay.2 n (Tile.saveTimed s.focus.b (s.tc + d + frameWrites (x.jet v.slot).grans - 1) v))).trans ?_
      exact Tbl.get_set_same ..
  case write =>
    obtain ⟨hjets, hsaved, hframe⟩ := x.saveHead_spec s.focus.data v
    obtain ⟨hread, hwrite⟩ := (x.saveHead s.focus.data v).1.writeFrame_read (x.jet v.slot) (x.saveHead s.focus.data v).2 hk
    obtain ⟨y, hy⟩ : ∃ y, ((x.saveHead s.focus.data v).1.writeFrame (x.jet v.slot) (x.saveHead s.focus.data v).2 s.focus.data).setSave s.focus.b
      (some (x.saveHead s.focus.data v).2) = y := ⟨_, rfl⟩
    have htile : (s.modTile n fun _ => y).tile n = y := State.tile_modTile_same ..
    have hexec := State.contextSaved_writes hv hd hs hk
    rw [hy] at hexec
    refine ⟨_, (x.saveHead s.focus.data v).2, hexec, ((WithinTile.modTile n s fun _ => y).trans (.at_ n _ _ _ _)).and, fun i => ?_, ?_, hsaved.trans hs, hframe, ?_, agendaInsert_mem _ _ _ _⟩
    · change ((s.modTile n fun _ => y).tile n).jet i = x.jet i
      rw [htile, ← hy]
      exact congrArg (fun l => Tbl.get Jet.empty l i) (hwrite.trans hjets)
    · change ((s.modTile n fun _ => y).tile n).save s.focus.b = _
      rw [htile, ← hy]
      exact Tbl.get_set_same ..
    · change ((s.modTile n fun _ => y).tile n).poolRead _ _ = _
      rw [htile, ← hy]
      exact hread
  case last =>
    obtain ⟨y, w, hexec⟩ := State.contextSaved_ends hv hd hs hk
    obtain ⟨hjet, hsaved⟩ := y.closeRecord_entry (x.jet v.slot) w
    rw [State.saveEnds_eq] at hexec
    obtain ⟨p, hp⟩ : ∃ p, y.closeRecord (x.jet v.slot) w = p := ⟨_, rfl⟩
    rw [hp] at hexec hjet hsaved
    obtain ⟨hfree, hsave, hready⟩ := Tile.saveEnded_spec s.focus.b v.slot s.tc (savedRecord s.nextId s.focus.b s.dev.time (x.jet v.slot)) p
    have htile : (s.take.2.modTile n fun _ => Tile.saveEnded s.focus.b v.slot s.tc (savedRecord s.nextId s.focus.b s.dev.time (x.jet v.slot)) p).tile n = _ := State.tile_modTile_same ..
    refine ⟨_, p.2, savedRecord s.nextId s.focus.b s.dev.time (x.jet v.slot), hexec, ((WithinTile.take n s).trans (.modTile n _ _)).and, ?_, ?_, hsaved, hjet, ?_, rfl, rfl⟩
    · rw [State.jet, htile]
      exact hfree
    · rw [htile]
      exact hsave
    · rw [htile]
      exact hready
  case owed =>
    obtain ⟨hin, w, hw, hframe⟩ := State.returnBeat_saved hop hslot he hv
    have hexec : exec .owedReturnSaved s = .next (s.returnBeat n a a.value) := by
      change execOwedReturnSaved s = _
      simp only [execOwedReturnSaved, hd, if_true, ha]
      rw [show (s.tile s.focus.a).access s.focus.b = some a from ha]
    exact ⟨_, w, hexec, hin.and, hw, hframe⟩
  case back =>
    obtain ⟨hstatus, hstall, hframe, hpc, hsave, hpool⟩ := x.restored_spec v s.focus.b s.focus.c s.focus.d s.tc
    obtain ⟨hin, hcore⟩ := (s.modTile n fun _ => x.restored v s.focus.b s.focus.c s.focus.d s.tc).wakeChans_core n v.chans
    rw [State.tile_modTile_same] at hcore
    refine ⟨_, State.contextRestore_exec hv, ((WithinTile.modTile n s _).trans hin).and, ?_, ?_, ?_, ?_, ?_, hcore.1.trans hpool⟩
    · rw [State.jet, hcore.jet]; exact hstatus
    · rw [State.jet, hcore.jet]; exact hstall
    · rw [State.jet, hcore.jet]; exact hframe
    · rw [State.jet, hcore.jet]; exact hpc
    · rw [Tile.save, hcore.2.2]; exact hsave
  case park =>
    have hexec : exec .matrixPark s = .next (s.modTile n (Tile.parked r)) := by
      refine congrArg Host.Outcome.next (State.modTile_congr (s := s) (n := n) ?_)
      have hrun : (s.tile n).mx.run = some r := hr
      dsimp only
      rw [hrun]
      exact if_pos hlt
    refine ⟨_, hexec, .modTile s n (f := Tile.parked r) (fun _ => rfl) fun _ => rfl, ?_⟩
    rw [State.tile_modTile_same]
    exact ⟨rfl, rfl, rfl, rfl⟩
  case go =>
    refine ⟨_, rfl, .modTile s n (f := Tile.unparked s.tc) (fun _ => rfl) fun _ => rfl, ?_⟩
    rw [State.tile_modTile_same]
    exact ⟨congrArg (Option.map _) hr, rfl⟩

end Sys2Proof.Machine
end

section
/-!
PROOFS. O55: a read through the memory window that crosses into a second line.
-/

namespace Sys2Proof.Machine

/-- Line 1 of memory, which the stash of tile 0 owns: its first byte has been written there, and its home has not. -/
def secondLine : StashLine := { va := 2 ^ 13, pa := 1, data := 1, owned := true, free := false }

/-- A device with `winbase` 120 whose host reads 16 bytes at offset 0 of the memory window: 8 of line 0, which no stash has, and 8 of line 1. -/
def windowAcross : State :=
  let s := (State.reset.modTile 0 fun x => { x with stash := [secondLine] }).modStop (homeOf 128) fun x => { x with dir := [⟨1, some 0, []⟩] }
  { s with dev := { s.dev with winbase := 120 }, focus := ⟨0, 16, 0, 0, 0⟩ }

theorem windowAcross_inside : 0 < windowAcross.focus.b ∧ windowAcross.focus.a % 64 + windowAcross.focus.b ≤ 64 ∧
    windowAcross.focus.a + windowAcross.focus.b ≤ 2 ^ 36 := by decide

theorem windowAcross_first : (windowAcross.stop (homeOf (windowAcross.dev.winbase.toNat + windowAcross.focus.a))).dirOf
    ((windowAcross.dev.winbase.toNat + windowAcross.focus.a) / 128) = none := by decide +kernel

theorem windowAcross_read : byteAfter (exec .memoryWindowAccess windowAcross) 128 = some 1 := by decide +kernel

theorem windowAcross_before : windowAcross.mem.read 128 = 0 := by decide +kernel

/-- Refutes O55: nothing keeps `winbase` to whole lines, so a read through the window may end in a second line; the stash that owns it is asked for its
bytes (R220), and memory changes. -/
theorem not_hostAndUnitEvents : ¬ Obligations.HostAndUnitEvents := by
  unfold Obligations.HostAndUnitEvents
  intro hall
  obtain ⟨-, -, -, -, -, -, -, -, -, -, -, -, -, -, -, -, -, -, -, -, -, -, hread, -⟩ := hall windowAcross
  obtain ⟨t, hexec, hkept, -⟩ := hread windowAcross_inside (by decide) (by decide) windowAcross_first (by decide)
  have hbyte := byteAfter_next windowAcross_read hexec
  rw [hkept.mem, windowAcross_before] at hbyte
  exact absurd hbyte (by decide)

end Sys2Proof.Machine
end

section
/-!
SUPPORT and PROOFS. O52, the routers: what enters a router, leaves it, and passes on.
-/

namespace Sys2Proof.Machine

theorem Kept.of_tiles {s t : State} (hmem : t.mem = s.mem) (htiles : t.tiles = s.tiles)
    (htime : t.nc = s.nc ∧ t.turn = s.turn ∧ t.curTile = s.curTile ∧ t.curSlot = s.curSlot) : Kept s t :=
  (CoreKept.of_tiles hmem htiles htime).kept

theorem Kept.modStop (s : State) (n : Nat) (f : Stop → Stop) : Kept s (s.modStop n f) := .of_tiles rfl rfl ⟨rfl, rfl, rfl, rfl⟩
theorem Kept.modDie (s : State) (n : Nat) (f : Die → Die) : Kept s (s.modDie n f) := .of_tiles rfl rfl ⟨rfl, rfl, rfl, rfl⟩
theorem Kept.modDev (s : State) (f : Dev → Dev) : Kept s (s.modDev f) := .of_tiles rfl rfl ⟨rfl, rfl, rfl, rfl⟩
theorem Kept.modChain (s : State) (n : Nat) (f : Chain → Chain) : Kept s (s.modChain n f) := .of_tiles rfl rfl ⟨rfl, rfl, rfl, rfl⟩
theorem Kept.modWeir (s : State) (n : Nat) (f : Weir → Weir) : Kept s (s.modTile n fun x => x.modWeir f) := .modTile s n (fun _ => rfl) fun _ => rfl

/-! ### What an update of one part of the machine leaves of another -/

@[simp] theorem State.stop_modDev (s : State) (f : Dev → Dev) (p : Nat) : (s.modDev f).stop p = s.stop p := rfl
@[simp] theorem State.die_modDev (s : State) (f : Dev → Dev) (p : Nat) : (s.modDev f).die p = s.die p := rfl
@[simp] theorem State.tile_modDev (s : State) (f : Dev → Dev) (p : Nat) : (s.modDev f).tile p = s.tile p := rfl
@[simp] theorem State.stop_modDie (s : State) (n : Nat) (f : Die → Die) (p : Nat) : (s.modDie n f).stop p = s.stop p := rfl
@[simp] theorem State.tile_modDie (s : State) (n : Nat) (f : Die → Die) (p : Nat) : (s.modDie n f).tile p = s.tile p := rfl
@[simp] theorem State.die_modStop (s : State) (n : Nat) (f : Stop → Stop) (p : Nat) : (s.modStop n f).die p = s.die p := rfl
@[simp] theorem State.tile_modStop (s : State) (n : Nat) (f : Stop → Stop) (p : Nat) : (s.modStop n f).tile p = s.tile p := rfl
@[simp] theorem State.stop_modTile (s : State) (n : Nat) (f : Tile → Tile) (p : Nat) : (s.modTile n f).stop p = s.stop p := rfl
@[simp] theorem State.die_modTile (s : State) (n : Nat) (f : Tile → Tile) (p : Nat) : (s.modTile n f).die p = s.die p := rfl

/-! ### The buffers of a stop -/

@[simp] theorem Stop.buf_setBuf_same (x : Stop) (key nc : Nat) (b : Bool) (l : List Packet) : (x.setBuf key nc b l).buf key = l :=
  Tbl.get_set_same _ _ _ _
theorem Stop.buf_setBuf_ne (x : Stop) {key key' : Nat} (nc : Nat) (b : Bool) (l : List Packet) (h : key' ≠ key) :
    (x.setBuf key nc b l).buf key' = x.buf key' := Tbl.get_set_ne _ _ _ h
@[simp] theorem Stop.buf_pop (x : Stop) (key nc since : Nat) : (x.pop key nc since).buf key = (x.buf key).tail := x.buf_setBuf_same key nc true _
@[simp] theorem Stop.use_buf (x : Stop) (out sub nc flits key : Nat) : (x.use out sub nc flits).buf key = x.buf key := by
  rw [Stop.use]
  split <;> rfl
@[simp] theorem Stop.use_reserved (x : Stop) (out sub nc flits : Nat) : (x.use out sub nc flits).reserved = x.reserved := by
  rw [Stop.use]
  split <;> rfl
@[simp] theorem Stop.use_mcOut (x : Stop) (out sub nc flits : Nat) : (x.use out sub nc flits).mcOut = x.mcOut := by
  rw [Stop.use]
  split <;> rfl
theorem Stop.use_outBusy (x : Stop) (out sub nc flits : Nat) :
    Tbl.get 0 (x.use out sub nc flits).outBusy (8 * sub + out) = max (Tbl.get 0 x.outBusy (8 * sub + out)) nc + flits := by
  rw [Stop.use]
  exact Tbl.get_set_same _ _ _ _
theorem Stop.use_counter (x : Stop) (out sub nc flits : Nat) :
    Tbl.get 0 (x.use out sub nc flits).counters sub = (Tbl.get 0 x.counters sub + flits) % 2 ^ 48 := by
  rw [Stop.use]
  split <;> exact Tbl.get_set_same _ _ _ _
@[simp] theorem Stop.count_same (x : Stop) (i n : Nat) : Tbl.get 0 (x.count i n).counters i = (Tbl.get 0 x.counters i + n) % 2 ^ 48 :=
  Tbl.get_set_same _ _ _ _
@[simp] theorem Stop.count_buf (x : Stop) (i n key : Nat) : (x.count i n).buf key = x.buf key := rfl
@[simp] theorem Stop.pop_counters (x : Stop) (key nc since : Nat) : (x.pop key nc since).counters = x.counters := rfl
@[simp] theorem Stop.pop_outBusy (x : Stop) (key nc since : Nat) : (x.pop key nc since).outBusy = x.outBusy := rfl
@[simp] theorem Stop.pop_mcOut (x : Stop) (key nc since : Nat) : (x.pop key nc since).mcOut = x.mcOut := rfl

/-! ### A head leaves a buffer -/

/-- What taking a head out of its buffer changes: its stop, and where the buffer is a Lauc port's, the credits of that port. -/
theorem State.popAt_eq (s : State) (q key since : Nat) :
    ∃ l, s.popAt q key since = (s.modStop q fun x => x.pop key s.nc since).modDev fun d => { d with lauc := l } := by
  rw [State.popAt]
  split
  · split
    · exact ⟨_, rfl⟩
    · exact ⟨s.dev.lauc, rfl⟩
  · exact ⟨s.dev.lauc, rfl⟩

theorem Kept.popAt (s : State) (q key since : Nat) : Kept s (s.popAt q key since) := by
  obtain ⟨l, hl⟩ := s.popAt_eq q key since
  rw [hl]
  exact (Kept.modStop s q _).trans (.modDev _ _)

@[simp] theorem State.popAt_stop (s : State) (q key since : Nat) : (s.popAt q key since).stop q = (s.stop q).pop key s.nc since := by
  obtain ⟨l, hl⟩ := s.popAt_eq q key since
  rw [hl]
  exact State.stop_modStop_same s q fun x => x.pop key s.nc since

theorem State.popAt_stop_ne (s : State) {q p : Nat} (key since : Nat) (h : p ≠ q) : (s.popAt q key since).stop p = s.stop p := by
  obtain ⟨l, hl⟩ := s.popAt_eq q key since
  rw [hl]
  exact State.stop_modStop_ne s (fun x => x.pop key s.nc since) h

theorem State.popAt_nc (s : State) (q key since : Nat) : (s.popAt q key since).nc = s.nc := (Kept.popAt s q key since).time.1

theorem State.popAt_tile (s : State) (q key since p : Nat) : (s.popAt q key since).tile p = s.tile p := by
  obtain ⟨l, hl⟩ := s.popAt_eq q key since
  rw [hl]
  rfl

theorem State.popAt_acorn (s : State) (q key since : Nat) : (s.popAt q key since).dev.acorn = s.dev.acorn := by
  obtain ⟨l, hl⟩ := s.popAt_eq q key since
  rw [hl]
  rfl

theorem State.popAt_dev (s : State) (q key since : Nat) : (s.popAt q key since).dev.device = s.dev.device ∧
    (s.popAt q key since).dev.pfHeld = s.dev.pfHeld ∧ (s.popAt q key since).dev.pfNext = s.dev.pfNext ∧ (s.popAt q key since).dev.pfIn = s.dev.pfIn := by
  obtain ⟨l, hl⟩ := s.popAt_eq q key since
  rw [hl]
  exact ⟨rfl, rfl, rfl, rfl⟩

/-! ### A packet leaves over an output -/

/-- A packet as the stop across an output has it. -/
def Packet.over (k : Packet) (nc out : Nat) : Packet := { k with readyAt := nc + (if out = 5 ∨ out = 6 then 16 else 1) }

/-- The way over an output to another stop of the device. -/
theorem State.forwardOut_across (s : State) {q out sub : Nat} {k : Packet} (hout : out < 7) (hne : out ≠ 4) (hq : (acrossPort q out).1 ≠ q) :
    Kept s (s.forwardOut q out sub k) ∧ (s.forwardOut q out sub k).stop q = (s.stop q).use out sub s.nc k.flits ∧
      ((s.forwardOut q out sub k).stop (acrossPort q out).1).buf (8 * sub + (acrossPort q out).2) =
        (s.stop (acrossPort q out).1).buf (8 * sub + (acrossPort q out).2) ++ [k.over s.nc out] := by
  have heq : s.forwardOut q out sub k = (s.modStop q fun x => x.use out sub s.nc k.flits).modStop (acrossPort q out).1 fun x =>
      x.setBuf (8 * sub + (acrossPort q out).2) s.nc false (x.buf (8 * sub + (acrossPort q out).2) ++ [k.over s.nc out]) := by
    rw [State.forwardOut]
    exact (if_neg hne).trans (if_neg (by omega))
  rw [heq]
  refine ⟨(Kept.modStop s q _).trans (.modStop _ _ _), ?_, ?_⟩
  · rw [State.stop_modStop_ne _ _ hq.symm, State.stop_modStop_same]
  · rw [State.stop_modStop_same, Stop.buf_setBuf_same, State.stop_modStop_ne _ _ hq]

/-- A message for a tile's weir. -/
theorem State.deliver_send (s : State) (q : Nat) {k : Packet} {m : SendMsg} (hbody : k.body = .send m) (hport : k.dport ≠ .mgmt) :
    s.deliver q k = s.modTile q fun x => x.modWeir fun w => { w with netIn := w.netIn ++ [m] } := by
  unfold State.deliver
  rw [hbody]
  exact if_neg hport

theorem State.deliver_mgmt (s : State) (q : Nat) {k : Packet} {m : SendMsg} (hbody : k.body = .send m) (hport : k.dport = .mgmt) :
    s.deliver q k = s.pageArrives m := by
  unfold State.deliver
  rw [hbody]
  exact if_pos hport

/-- What the router's local output gives to its endpoint. -/
theorem State.forwardOut_local (s : State) (q sub : Nat) (k : Packet) :
    s.forwardOut q 4 sub k = (s.modStop q fun x => x.use 4 sub s.nc k.flits).deliver q k := by
  rw [State.forwardOut]
  exact if_pos rfl

/-- A delivered message is at the weir of its tile, and nothing else than that weir differs. -/
theorem State.deliver_send_spec (s : State) (q : Nat) {k : Packet} {m : SendMsg} (hbody : k.body = .send m) (hport : k.dport ≠ .mgmt) :
    Kept s (s.deliver q k) ∧ (s.deliver q k).stops = s.stops ∧ ((s.deliver q k).tile q).weir.netIn = (s.tile q).weir.netIn ++ [m] := by
  rw [State.deliver_send s q hbody hport]
  exact ⟨.modWeir s q _, rfl, by rw [State.tile_modTile_same]; rfl⟩

/-! ### The router's choices -/

section
variable {s : State} (hlane : ∀ e, s.laneNext = some e → e.1 ≠ s.focus.a)
include hlane

theorem laneNext_elsewhere : (s.laneNext.any fun e => e.1 == s.focus.a) = false := by
  cases h : s.laneNext with
  | none => rfl
  | some e => exact beq_eq_false_iff_ne.mpr (hlane e h)

theorem routerForward_reserved {e : Nat} {k : Packet} (hres : s.reservedReady s.focus.a = some (e, k)) :
    exec .routerForward s = .next ((s.modStop s.focus.a fun x => { x with reserved := Tbl.set x.reserved e none }).deliver s.focus.a k) := by
  change execRouterForward s = _
  simp only [execRouterForward, laneNext_elsewhere hlane, hres, Bool.false_eq_true, if_false]

theorem routerForward_copy {e : Nat × Packet × Nat} (hres : s.reservedReady s.focus.a = none) (hcopy : s.copyReady s.focus.a = some e) :
    exec .routerForward s = .next ((s.modStop s.focus.a fun x => { x with mcOut := x.mcOut.erase e }).forwardOut s.focus.a e.1 0 e.2.1) := by
  change execRouterForward s = _
  simp only [execRouterForward, laneNext_elsewhere hlane, hres, hcopy, Bool.false_eq_true, if_false]

theorem routerForward_enters {k : Packet} {sub : Nat} (hres : s.reservedReady s.focus.a = none) (hcopy : s.copyReady s.focus.a = none)
    (henter : s.entering s.focus.a = some (k, sub)) : exec .routerForward s = .next (s.modStop s.focus.a fun x =>
      { x.setBuf (8 * sub + 4) s.nc false (x.buf (8 * sub + 4) ++ [k]) with inject := x.inject.erase k }) := by
  change execRouterForward s = _
  simp only [execRouterForward, laneNext_elsewhere hlane, hres, hcopy, henter, Bool.false_eq_true, if_false]

theorem routerForward_moves {key out sub : Nat} {k : Packet} {r : List Packet} (hres : s.reservedReady s.focus.a = none)
    (hcopy : s.copyReady s.focus.a = none) (henter : s.entering s.focus.a = none) (hmove : s.movable s.focus.a = some (key, out, sub))
    (hbuf : (s.stop s.focus.a).buf key = k :: r) :
    exec .routerForward s = .next ((s.popAt s.focus.a key s.nc).forwardOut s.focus.a out sub k) := by
  change execRouterForward s = _
  simp only [execRouterForward, laneNext_elsewhere hlane, hres, hcopy, henter, hmove, hbuf, Bool.false_eq_true, if_false]

theorem routerForward_lauc {p : Nat} (hres : s.reservedReady s.focus.a = none) (hcopy : s.copyReady s.focus.a = none)
    (henter : s.entering s.focus.a = none) (hmove : s.movable s.focus.a = none) (hlauc : laucAt s.focus.a = some p) (hready : s.laucReady p = true) :
    exec .routerForward s = .next (s.laucSend p) := by
  change execRouterForward s = _
  simp only [execRouterForward, laneNext_elsewhere hlane, hres, hcopy, henter, hmove, hlauc, hready, Bool.false_eq_true, if_false, if_true]

end

/-- A head that moves finds its link free. -/
theorem State.movable_free {s : State} {q key out sub : Nat} (h : s.movable q = some (key, out, sub)) :
    Tbl.get 0 (s.stop q).outBusy (8 * sub + out) ≤ s.nc := by
  obtain ⟨a, -, ha⟩ := List.exists_of_findSome?_eq_some h
  split at ha
  · exact absurd ha nofun
  · split at ha
    · exact absurd ha nofun
    · obtain ⟨c, -, hc⟩ := Option.bind_eq_some_iff.mp ha
      split at hc
      next hfree =>
        cases hc
        exact of_decide_eq_true (Bool.and_eq_true _ _ |>.mp hfree).1
      next => exact absurd hc nofun

/-- R281: a packet that can enter the router stands in its local input. -/
theorem routerForward_entered {s : State} {k : Packet} {sub : Nat} (hlane : ∀ e, s.laneNext = some e → e.1 ≠ s.focus.a)
    (hres : s.reservedReady s.focus.a = none) (hcopy : s.copyReady s.focus.a = none) (henter : s.entering s.focus.a = some (k, sub)) :
    ∃ t, exec .routerForward s = .next t ∧ Kept s t ∧
      (t.stop s.focus.a).buf (8 * sub + 4) = (s.stop s.focus.a).buf (8 * sub + 4) ++ [k] ∧ (t.stop s.focus.a).inject = (s.stop s.focus.a).inject.erase k := by
  refine ⟨_, routerForward_enters hlane hres hcopy henter, .modStop s _ _, ?_, ?_⟩
  · rw [State.stop_modStop_same]
    exact Stop.buf_setBuf_same _ _ s.nc false _
  · rw [State.stop_modStop_same]

/-- R281, R283: a head goes over a link to the stop across it. -/
theorem routerForward_across {s : State} {key out sub : Nat} {k : Packet} {r : List Packet} (hlane : ∀ e, s.laneNext = some e → e.1 ≠ s.focus.a)
    (hres : s.reservedReady s.focus.a = none) (hcopy : s.copyReady s.focus.a = none) (henter : s.entering s.focus.a = none)
    (hmove : s.movable s.focus.a = some (key, out, sub)) (hbuf : (s.stop s.focus.a).buf key = k :: r) (hout : out < 7) (hne : out ≠ 4)
    (hq : (acrossPort s.focus.a out).1 ≠ s.focus.a) :
    ∃ t, exec .routerForward s = .next t ∧ Kept s t ∧ (t.stop s.focus.a).buf key = r ∧
      Tbl.get 0 (t.stop s.focus.a).outBusy (8 * sub + out) = s.nc + k.flits ∧
      (t.stop (acrossPort s.focus.a out).1).buf (8 * sub + (acrossPort s.focus.a out).2) =
        (s.stop (acrossPort s.focus.a out).1).buf (8 * sub + (acrossPort s.focus.a out).2) ++ [k.over s.nc out] := by
  obtain ⟨hkept, hhere, hthere⟩ := (s.popAt s.focus.a key s.nc).forwardOut_across (sub := sub) (k := k) hout hne hq
  refine ⟨_, routerForward_moves hlane hres hcopy henter hmove hbuf, (Kept.popAt s _ _ _).trans hkept, ?_, ?_, ?_⟩
  · rw [hhere, Stop.use_buf, State.popAt_stop, Stop.buf_pop, hbuf, List.tail_cons]
  · rw [hhere, Stop.use_outBusy, State.popAt_stop, Stop.pop_outBusy, State.popAt_nc, max_eq_right (State.movable_free hmove)]
  · rw [hthere, State.popAt_stop_ne _ _ _ hq, State.popAt_nc]

/-- R281: a message comes to its tile's weir. -/
theorem routerForward_send {s : State} {key sub : Nat} {k : Packet} {r : List Packet} {m : SendMsg} (hlane : ∀ e, s.laneNext = some e → e.1 ≠ s.focus.a)
    (hres : s.reservedReady s.focus.a = none) (hcopy : s.copyReady s.focus.a = none) (henter : s.entering s.focus.a = none)
    (hmove : s.movable s.focus.a = some (key, 4, sub)) (hbuf : (s.stop s.focus.a).buf key = k :: r) (hbody : k.body = .send m) (hport : k.dport ≠ .mgmt) :
    ∃ t, exec .routerForward s = .next t ∧ Kept s t ∧ (t.stop s.focus.a).buf key = r ∧
      (t.tile s.focus.a).weir.netIn = (s.tile s.focus.a).weir.netIn ++ [m] := by
  have hexec := routerForward_moves hlane hres hcopy henter hmove hbuf
  rw [State.forwardOut_local] at hexec
  obtain ⟨hkept, hstops, hnet⟩ := ((s.popAt s.focus.a key s.nc).modStop s.focus.a fun x => x.use 4 sub (s.popAt s.focus.a key s.nc).nc k.flits).deliver_send_spec
    s.focus.a hbody hport
  refine ⟨_, hexec, ((Kept.popAt s _ _ _).trans (.modStop _ _ _)).trans hkept, ?_, ?_⟩
  · rw [State.stop, hstops]
    change ((State.modStop _ _ _).stop _).buf key = r
    rw [State.stop_modStop_same, Stop.use_buf, State.popAt_stop, Stop.buf_pop, hbuf, List.tail_cons]
  · rw [hnet]
    change ((s.popAt s.focus.a key s.nc).tile _).weir.netIn ++ _ = _
    rw [State.popAt_tile]

/-! ### Fault records for the management endpoint -/

theorem Kept.ackSend (s : State) (t : Nat) (m : SendMsg) (retry : Bool) : Kept s (s.ackSend t m retry) := by
  rw [State.ackSend]
  split <;> exact .modStop s _ _
@[simp] theorem State.ackSend_tiles (s : State) (t : Nat) (m : SendMsg) (retry : Bool) : (s.ackSend t m retry).tiles = s.tiles := by
  rw [State.ackSend]
  split <;> rfl
@[simp] theorem State.ackSend_dev (s : State) (t : Nat) (m : SendMsg) (retry : Bool) : (s.ackSend t m retry).dev = s.dev := by
  rw [State.ackSend]
  split <;> rfl

theorem State.pageDrain_empty {s : State} (src : Src) (n : Nat) (h : s.dev.pfHeld = []) : s.pageDrain src n = s := by
  cases n with
  | zero => rfl
  | succ n => rw [State.pageDrain, h, List.find?_nil]

/-- A fault record that comes in its turn is served next, and acknowledged. -/
def State.recordTaken (s : State) (m : SendMsg) : State :=
  (((s.modDev fun d => { d with pfHeld := d.pfHeld ++ [m] }).modDev fun d =>
    { d with pfHeld := d.pfHeld.filter (· != m), pfNext := (m.src, (m.seq + 1) % 32) :: d.pfNext.filter (·.1 != m.src) }).modDev fun d =>
      { d with pfIn := d.pfIn ++ [m] }).ackSend 0 m false

theorem State.recordTaken_pfHeld {s : State} (m : SendMsg) (h : s.dev.pfHeld = []) : (s.recordTaken m).dev.pfHeld = [] := by
  rw [State.recordTaken, State.ackSend_dev]
  change (s.dev.pfHeld ++ [m]).filter (· != m) = []
  simp [h]

/-- R368: the management endpoint takes a fault record that comes in its turn. -/
theorem State.pageArrives_record {s : State} {m : SendMsg} (hheld : s.dev.pfHeld = []) (hnext : ∀ e ∈ s.dev.pfNext, e.1 ≠ m.src) (hseq : m.seq = m.base)
    (hop : m.op = .data) (hsize : m.size = 64) : s.pageArrives m = s.recordTaken m := by
  have hnone : (s.dev.pfNext.find? fun e => e.1 == m.src) = none := List.find?_eq_none.mpr fun e he => by simpa using hnext e he
  have hfirst : ((s.dev.pfHeld ++ [m]).find? fun q => q.src == m.src && q.seq == ((s.dev.pfNext.find? fun e => e.1 == m.src).map (·.2)).getD q.base) = some m := by
    rw [hnone, hheld]
    simp [hseq]
  rw [State.pageArrives, State.pageDrain]
  dsimp only [State.modDev_dev]
  rw [hfirst]
  dsimp only
  rw [State.pageAccept, if_pos ⟨hop, hsize⟩]
  exact State.pageDrain_empty _ _ (State.recordTaken_pfHeld m hheld)

/-- What taking a fault record changes: its queue, and the network. -/
theorem State.recordTaken_spec (s : State) (m : SendMsg) :
    Kept s (s.recordTaken m) ∧ (s.recordTaken m).tiles = s.tiles ∧ (s.recordTaken m).dev.pfIn = s.dev.pfIn ++ [m] := by
  rw [State.recordTaken, State.ackSend_tiles, State.ackSend_dev]
  exact ⟨(((Kept.modDev s _).trans (.modDev _ _)).trans (.modDev _ _)).trans (.ackSend _ _ _ _), rfl, rfl⟩

/-- R368: a fault record comes to the paging endpoint. -/
theorem routerForward_record {s : State} {key sub : Nat} {k : Packet} {r : List Packet} {m : SendMsg} (hlane : ∀ e, s.laneNext = some e → e.1 ≠ s.focus.a)
    (hres : s.reservedReady s.focus.a = none) (hcopy : s.copyReady s.focus.a = none) (henter : s.entering s.focus.a = none)
    (hmove : s.movable s.focus.a = some (key, 4, sub)) (hbuf : (s.stop s.focus.a).buf key = k :: r) (hbody : k.body = .send m) (hport : k.dport = .mgmt)
    (hheld : s.dev.pfHeld = []) (hnext : ∀ e ∈ s.dev.pfNext, e.1 ≠ m.src) (hseq : m.seq = m.base) (hop : m.op = .data) (hsize : m.size = 64) :
    ∃ t, exec .routerForward s = .next t ∧ Kept s t ∧ t.dev.pfIn = s.dev.pfIn ++ [m] ∧ (t.tile s.focus.a).weir = (s.tile s.focus.a).weir := by
  have hexec := routerForward_moves hlane hres hcopy henter hmove hbuf
  obtain ⟨-, hpf, hpn, hpi⟩ := s.popAt_dev s.focus.a key s.nc
  rw [State.forwardOut_local, State.deliver_mgmt _ _ hbody hport] at hexec
  rw [State.pageArrives_record (by rw [State.modStop_dev, hpf, hheld]) (by rw [State.modStop_dev, hpn]; exact hnext) hseq hop hsize] at hexec
  refine ⟨_, hexec, ((Kept.popAt s _ _ _).trans (.modStop _ _ _)).trans (State.recordTaken_spec _ m).1, ?_, ?_⟩
  · rw [(State.recordTaken_spec _ m).2.2, State.modStop_dev, hpi]
  · rw [State.tile, (State.recordTaken_spec _ m).2.1]
    exact congrArg Tile.weir (s.popAt_tile _ _ _ _)

/-- R292: a stream copy leaves over its port. -/
theorem routerForward_copied {s : State} {e : Nat × Packet × Nat} (hlane : ∀ e, s.laneNext = some e → e.1 ≠ s.focus.a)
    (hres : s.reservedReady s.focus.a = none) (hcopy : s.copyReady s.focus.a = some e) (hout : e.1 < 7) (hne : e.1 ≠ 4)
    (hq : (acrossPort s.focus.a e.1).1 ≠ s.focus.a) :
    ∃ t, exec .routerForward s = .next t ∧ Kept s t ∧ (t.stop s.focus.a).mcOut = (s.stop s.focus.a).mcOut.erase e ∧
      (t.stop (acrossPort s.focus.a e.1).1).buf (acrossPort s.focus.a e.1).2 =
        (s.stop (acrossPort s.focus.a e.1).1).buf (acrossPort s.focus.a e.1).2 ++ [e.2.1.over s.nc e.1] := by
  obtain ⟨hkept, hhere, hthere⟩ := (s.modStop s.focus.a fun x => { x with mcOut := x.mcOut.erase e }).forwardOut_across (sub := 0) (k := e.2.1) hout hne hq
  rw [Nat.mul_zero, Nat.zero_add] at hthere
  refine ⟨_, routerForward_copy hlane hres hcopy, (Kept.modStop s _ _).trans hkept, ?_, ?_⟩
  · rw [hhere, Stop.use_mcOut, State.stop_modStop_same]
  · rw [hthere, State.stop_modStop_ne _ _ hq]
    rfl

/-- R287: a message leaves a reserved buffer for its tile's weir. -/
theorem routerForward_landed {s : State} {e : Nat} {k : Packet} {m : SendMsg} (hlane : ∀ e, s.laneNext = some e → e.1 ≠ s.focus.a)
    (hres : s.reservedReady s.focus.a = some (e, k)) (hbody : k.body = .send m) (hport : k.dport ≠ .mgmt) :
    ∃ t, exec .routerForward s = .next t ∧ Kept s t ∧ Tbl.get none (t.stop s.focus.a).reserved e = none ∧
      (t.tile s.focus.a).weir.netIn = (s.tile s.focus.a).weir.netIn ++ [m] := by
  obtain ⟨hkept, hstops, hnet⟩ := (s.modStop s.focus.a fun x => { x with reserved := Tbl.set x.reserved e none }).deliver_send_spec s.focus.a hbody hport
  refine ⟨_, routerForward_reserved hlane hres, (Kept.modStop s _ _).trans hkept, ?_, ?_⟩
  · rw [State.stop, hstops]
    change Tbl.get none ((State.modStop _ _ _).stop _).reserved e = none
    rw [State.stop_modStop_same]
    exact Tbl.get_set_same _ _ _ _
  · rw [hnet]
    rfl

/-- R286: a captured packet goes over the next link of its way. -/
theorem routerForward_lane {s : State} {out : Nat} {c : Capture} (hnext : s.laneNext = some (s.focus.a, out)) (hheld : s.dev.acorn.held = some c) :
    ∃ t, exec .routerForward s = .next t ∧ Kept s t ∧
      t.dev.acorn.held = some { c with stop := (acrossPort s.focus.a out).1, since := s.nc + (if out = 5 ∨ out = 6 then 15 else 0) } ∧
      Tbl.get 0 (t.stop s.focus.a).counters 0 = (Tbl.get 0 (s.stop s.focus.a).counters 0 + c.packet.flits) % 2 ^ 48 ∧
      Tbl.get 0 (t.stop s.focus.a).outBusy out = max (Tbl.get 0 (s.stop s.focus.a).outBusy out) s.nc + c.packet.flits := by
  have hexec : exec .routerForward s = .next s.laneStep := by
    change execRouterForward s = _
    simp only [execRouterForward, hnext, Option.any_some, beq_self_eq_true, if_true]
  have hstep : s.laneStep = (s.modStop s.focus.a fun x => x.use out 0 s.nc c.packet.flits).modDev fun d =>
      { d with acorn := { d.acorn with held := some { c with stop := (acrossPort s.focus.a out).1, since := s.nc + (if out = 5 ∨ out = 6 then 15 else 0) } } } := by
    rw [State.laneStep, hnext, hheld]
  have hstop : s.laneStep.stop s.focus.a = (s.stop s.focus.a).use out 0 s.nc c.packet.flits := by
    rw [hstep]
    exact State.stop_modStop_same s s.focus.a fun x => x.use out 0 s.nc c.packet.flits
  refine ⟨_, hexec, ?_, ?_, ?_, ?_⟩
  · rw [hstep]
    exact (Kept.modStop s _ _).trans (.modDev _ _)
  · rw [hstep]
    rfl
  · rw [hstop]
    exact Stop.use_counter _ _ _ _ _
  · rw [hstop]
    have h := Stop.use_outBusy (s.stop s.focus.a) out 0 s.nc c.packet.flits
    rw [Nat.mul_zero, Nat.zero_add] at h
    exact h

/-- A Lauc port that has sent a packet against a credit. -/
def Lauc.sends (l : Lauc) (nc : Nat) (k : Packet) (r : List Packet) : Lauc :=
  { l with out := r, credits := l.credits - 1, sent := l.sent ++ [(k.routeWord, { k with readyAt := nc + 160 })] }

/-- R290: a Lauc port sends its next packet against a credit. -/
theorem routerForward_leaves {s : State} {p : Nat} {k : Packet} {r : List Packet} (hlane : ∀ e, s.laneNext = some e → e.1 ≠ s.focus.a)
    (hres : s.reservedReady s.focus.a = none) (hcopy : s.copyReady s.focus.a = none) (henter : s.entering s.focus.a = none)
    (hmove : s.movable s.focus.a = none) (hlauc : laucAt s.focus.a = some p) (hready : s.laucReady p = true)
    (hbuf : (Tbl.get Lauc.empty s.dev.lauc p).out = k :: r) :
    ∃ t, exec .routerForward s = .next t ∧ Kept s t ∧ (Tbl.get Lauc.empty t.dev.lauc p).out = r ∧
      (Tbl.get Lauc.empty t.dev.lauc p).credits = (Tbl.get Lauc.empty s.dev.lauc p).credits - 1 ∧
      (Tbl.get Lauc.empty t.dev.lauc p).sent = (Tbl.get Lauc.empty s.dev.lauc p).sent ++ [(k.routeWord, { k with readyAt := s.nc + 160 })] := by
  have hs : s.laucSend p = (s.modStop (laucStop p) fun x => x.usePort 7 s.nc k.flits).modDev fun d =>
      { d with lauc := Tbl.set d.lauc p ((s.laucOf p).sends s.nc k r) } := by
    have hout : (s.laucOf p).out = k :: r := hbuf
    rw [State.laucSend, hout]
    rfl
  have hget : Tbl.get Lauc.empty (s.laucSend p).dev.lauc p = (s.laucOf p).sends s.nc k r := by
    rw [hs]
    exact Tbl.get_set_same _ _ _ _
  refine ⟨_, routerForward_lauc hlane hres hcopy henter hmove hlauc hready, ?_, ?_⟩
  · rw [hs]
    exact (Kept.modStop s _ _).trans (.modDev _ _)
  · rw [hget]
    exact ⟨rfl, rfl, rfl⟩

end Sys2Proof.Machine
end

section
/-!
PROOFS. O52, the router's choice and recovery from deadlock: the acorn, the overflow lane and the drain ring.
-/

namespace Sys2Proof.Machine

/-! ### The choice of an output (R283) -/

/-- Of two outputs with their free slots the one that a router takes. -/
def pickRoute (b : Option (Nat × Nat × Nat)) (e : Nat × Nat × Nat) : Option (Nat × Nat × Nat) :=
  match b with
  | none => some e
  | some m => if m.1 < e.1 || (m.1 == e.1 && (decide (e.2.1 < m.2.1) || (e.2.1 == m.2.1 && decide (outRank e.2.2 < outRank m.2.2)))) then some e else b

theorem pickRoute_some (m e : Nat × Nat × Nat) : ∃ x, pickRoute (some m) e = some x ∧ (x = m ∨ x = e) ∧ m.1 ≤ x.1 ∧ e.1 ≤ x.1 := by
  rw [pickRoute]
  split
  next h =>
    refine ⟨e, rfl, .inr rfl, ?_, Nat.le_refl _⟩
    rcases (Bool.or_eq_true _ _).mp h with hlt | heq
    · exact Nat.le_of_lt (of_decide_eq_true hlt)
    · exact Nat.le_of_eq (beq_iff_eq.mp ((Bool.and_eq_true _ _).mp heq).1)
  next h => exact ⟨m, rfl, .inl rfl, Nat.le_refl _, Nat.le_of_not_lt fun hlt => h (by simp [hlt])⟩

/-- The candidate that is taken is one of them, and none has more free slots. -/
theorem foldl_pickRoute (l : List (Nat × Nat × Nat)) (b : Nat × Nat × Nat) :
    ∃ x, l.foldl pickRoute (some b) = some x ∧ (x = b ∨ x ∈ l) ∧ b.1 ≤ x.1 ∧ ∀ e ∈ l, e.1 ≤ x.1 := by
  induction l generalizing b with
  | nil => exact ⟨b, rfl, .inl rfl, Nat.le_refl _, nofun⟩
  | cons a l ih =>
    obtain ⟨m, hm, hor, hb, ha⟩ := pickRoute_some b a
    obtain ⟨x, hx, hin, hle, hall⟩ := ih m
    refine ⟨x, by rw [List.foldl_cons, hm, hx], ?_, hb.trans hle, List.forall_mem_cons.mpr ⟨ha.trans hle, hall⟩⟩
    rcases hin with rfl | hmem
    · exact hor.imp_right fun h => List.mem_cons.mpr (.inl h)
    · exact .inr (List.mem_cons_of_mem _ hmem)

theorem foldl_pickRoute_none {l : List (Nat × Nat × Nat)} {x : Nat × Nat × Nat} (h : l.foldl pickRoute none = some x) :
    x ∈ l ∧ ∀ e ∈ l, e.1 ≤ x.1 := by
  cases l with
  | nil => exact absurd h nofun
  | cons a l =>
    obtain ⟨y, hy, hin, ha, hall⟩ := foldl_pickRoute l a
    rw [List.foldl_cons, show pickRoute none a = some a from rfl, hy] at h
    cases h
    exact ⟨hin.elim (fun h => h ▸ List.mem_cons_self) (List.mem_cons_of_mem _), List.forall_mem_cons.mpr ⟨ha, hall⟩⟩

/-- The outputs and subnets with a free slot, as a router compares them. -/
def State.routes (s : State) (q : Nat) (k : Packet) : List (Nat × Nat × Nat) :=
  (s.productive q k).flatMap fun o => (if k.onZero then [0] else [0, 1, 2, 3]).filterMap fun sub =>
    if s.freeAt q o sub k = 0 then none else some (s.freeAt q o sub k, sub, o)

theorem State.mem_routes {s : State} {q : Nat} {k : Packet} {e : Nat × Nat × Nat} : e ∈ s.routes q k ↔
    e.2.2 ∈ s.productive q k ∧ e.2.1 ∈ (if k.onZero then [0] else [0, 1, 2, 3]) ∧ s.freeAt q e.2.2 e.2.1 k ≠ 0 ∧ e.1 = s.freeAt q e.2.2 e.2.1 k := by
  obtain ⟨f, sub, o⟩ := e
  rw [State.routes, List.mem_flatMap]
  constructor
  · rintro ⟨p, hp, hmem⟩
    obtain ⟨i, hi, hite⟩ := List.mem_filterMap.mp hmem
    split at hite
    next => exact absurd hite nofun
    next hfree =>
      cases hite
      exact ⟨hp, hi, hfree, rfl⟩
  · rintro ⟨hp, hi, hfree, hf⟩
    exact ⟨o, hp, List.mem_filterMap.mpr ⟨sub, hi, (if_neg hfree).trans (by rw [← hf])⟩⟩

/-- R283: a router takes a productive output with a free slot, and one behind which no more are free. -/
theorem routeChoice_best {s : State} {q o sub : Nat} {k : Packet} (h : s.routeChoice q k = some (o, sub)) :
    o ∈ s.productive q k ∧ sub < 4 ∧ s.freeAt q o sub k ≠ 0 ∧
      ∀ p ∈ s.productive q k, ∀ i, i < 4 → k.onZero = false → s.freeAt q p i k ≤ s.freeAt q o sub k := by
  have hdef : s.routeChoice q k = ((s.routes q k).foldl pickRoute none).map fun e => (e.2.2, e.2.1) := rfl
  rw [hdef] at h
  obtain ⟨x, hx, heq⟩ := Option.map_eq_some_iff.mp h
  obtain ⟨ho, hsub⟩ := Prod.mk.inj heq
  obtain ⟨hmem, hall⟩ := foldl_pickRoute_none hx
  obtain ⟨hprod, hsubs, hfree, hval⟩ := State.mem_routes.mp hmem
  rw [ho, hsub] at hfree hval
  rw [hsub] at hsubs
  refine ⟨ho ▸ hprod, ?_, hfree, fun p hp i hi hzero => ?_⟩
  · revert hsubs
    cases k.onZero <;> simp <;> omega
  · by_cases hnone : s.freeAt q p i k = 0
    · exact hnone ▸ Nat.zero_le _
    · rw [← hval]
      refine hall (s.freeAt q p i k, i, p) (State.mem_routes.mpr ⟨hp, ?_, hnone, rfl⟩)
      rw [hzero]
      have hi4 : i = 0 ∨ i = 1 ∨ i = 2 ∨ i = 3 := by omega
      simpa using hi4

/-! ### Recovery (R284 to R287) -/

/-- R284: a timer that reaches the threshold is noted and counted. -/
theorem inputTimerExpiry_notes {s : State} {key : Nat} (h : s.expiring s.focus.a = some key) :
    ∃ t, exec .inputTimerExpiry s = .next t ∧ Kept s t ∧ (t.stop s.focus.a).expired = (s.stop s.focus.a).expired ++ [key] ∧
      Tbl.get 0 (t.stop s.focus.a).counters 4 = (Tbl.get 0 (s.stop s.focus.a).counters 4 + 1) % 2 ^ 48 := by
  have hexec : exec .inputTimerExpiry s = .next (s.modStop s.focus.a fun x => { x.count 4 1 with expired := x.expired ++ [key] }) := by
    change execInputTimerExpiry s = _
    simp only [execInputTimerExpiry, h]
  refine ⟨_, hexec, .modStop s _ _, ?_, ?_⟩ <;> rw [State.stop_modStop_same]
  exact Stop.count_same _ _ _

/-- R286: the stop where the acorn stands takes a head out of its input. -/
theorem acornCapture_takes {s : State} {key : Nat} {k : Packet} (h : s.drainHead s.dev.acorn.pos = some (key, k)) :
    ∃ t, exec .acornCapture s = .next t ∧ Kept s t ∧ (t.stop s.dev.acorn.pos).buf key = ((s.stop s.dev.acorn.pos).buf key).tail ∧
      t.dev.acorn.held = some ⟨s.nc, s.dev.acorn.pos, { k with drained := true }, false⟩ ∧
      Tbl.get 0 (t.stop s.dev.acorn.pos).counters 5 = (Tbl.get 0 (s.stop s.dev.acorn.pos).counters 5 + 1) % 2 ^ 48 := by
  have hexec : exec .acornCapture s = .next (((s.popAt s.dev.acorn.pos key (s.nc + 1)).modStop s.dev.acorn.pos fun x => x.count 5 1).modDev fun d =>
      { d with acorn := { d.acorn with held := some ⟨s.nc, s.dev.acorn.pos, { k with drained := true }, false⟩ } }) := by
    change execAcornCapture s = _
    simp only [execAcornCapture, h]
  refine ⟨_, hexec, ((Kept.popAt s _ _ _).trans (.modStop _ _ _)).trans (.modDev _ _), ?_, rfl, ?_⟩
  · rw [State.stop_modDev, State.stop_modStop_same, Stop.count_buf, State.popAt_stop, Stop.buf_pop]
  · rw [State.stop_modDev, State.stop_modStop_same, Stop.count_same, State.popAt_stop, Stop.pop_counters]

/-- What the delivery of a drained packet counts. -/
theorem State.countDrain_spec (s : State) (q : Nat) : Kept s (s.countDrain q) ∧ (s.countDrain q).stop q = (s.stop q).count 6 1 ∧
    (s.countDrain q).dev = s.dev ∧ ((s.countDrain q).die (dieOf q)).drainRing = (s.die (dieOf q)).drainRing := by
  refine ⟨(Kept.modStop s q _).trans (.modDie _ _ _), ?_, rfl, ?_⟩
  · exact State.stop_modStop_same s q fun x => x.count 6 1
  · rw [State.countDrain, State.die_modDie_same]
    rfl

theorem Kept.acornFree (s : State) : Kept s s.acornFree := .of_tiles rfl rfl ⟨rfl, rfl, rfl, rfl⟩
@[simp] theorem State.stop_acornFree (s : State) (q : Nat) : s.acornFree.stop q = s.stop q := rfl
@[simp] theorem State.die_acornFree (s : State) (q : Nat) : s.acornFree.die q = s.die q := rfl
theorem State.acornFree_acorn (s : State) : s.acornFree.dev.acorn = ⟨(acornNext s.dev.acorn.pos).1, s.nc + 1 + (acornNext s.dev.acorn.pos).2, none⟩ := rfl

/-- The stop of a captured packet of this device is its destination. -/
theorem State.drainStop_here {s : State} {k : Packet} (h : k.ddev = s.dev.device.toNat) : s.drainStop k = k.dst := by
  rw [State.drainStop, h, bne_self_eq_false]
  rfl

/-- R287: a drained packet that finds its reserved buffer empty enters it. -/
theorem overflowDelivery_enters {s : State} {c : Capture} (hheld : s.dev.acorn.held = some c) (hdev : c.packet.ddev = s.dev.device.toNat)
    (hfree : Tbl.get none (s.stop c.packet.dst).reserved (endpointIx c.packet.dport) = none) :
    ∃ t, exec .overflowDelivery s = .next t ∧ Kept s t ∧
      t.dev.acorn = ⟨(acornNext s.dev.acorn.pos).1, s.nc + 1 + (acornNext s.dev.acorn.pos).2, none⟩ ∧
      Tbl.get none (t.stop c.packet.dst).reserved (endpointIx c.packet.dport) = some c.packet ∧
      Tbl.get 0 (t.stop c.packet.dst).counters 6 = (Tbl.get 0 (s.stop c.packet.dst).counters 6 + 1) % 2 ^ 48 := by
  have hexec : exec .overflowDelivery s = .next ((s.modStop c.packet.dst fun x =>
      { x with reserved := Tbl.set x.reserved (endpointIx c.packet.dport) (some c.packet) }).countDrain c.packet.dst).acornFree := by
    change execOverflowDelivery s = _
    simp only [execOverflowDelivery, hheld, State.drainStop_here hdev, hdev, hfree, bne_self_eq_false, Bool.false_eq_true, if_false]
  obtain ⟨hkept, hstop, hdevs, -⟩ := (s.modStop c.packet.dst fun x =>
    { x with reserved := Tbl.set x.reserved (endpointIx c.packet.dport) (some c.packet) }).countDrain_spec c.packet.dst
  rw [State.stop_modStop_same] at hstop
  refine ⟨_, hexec, ((Kept.modStop s _ _).trans hkept).trans (.acornFree _), ?_, ?_, ?_⟩
  · rw [State.acornFree_acorn, hdevs, hkept.time.1]
    rfl
  · rw [State.stop_acornFree, hstop]
    exact Tbl.get_set_same _ _ _ _
  · rw [State.stop_acornFree, hstop, Stop.count_same]

/-- R287: a drained packet takes the place of the one that stands in its reserved buffer, which goes to the drain ring. -/
theorem overflowDelivery_spills {s : State} {c : Capture} {o : Packet} (hheld : s.dev.acorn.held = some c) (hdev : c.packet.ddev = s.dev.device.toNat)
    (hocc : Tbl.get none (s.stop c.packet.dst).reserved (endpointIx c.packet.dport) = some o) (hroom : (s.die (dieOf c.packet.dst)).drainRing.length < 65536) :
    ∃ t, exec .overflowDelivery s = .next t ∧ Kept s t ∧
      t.dev.acorn = ⟨(acornNext s.dev.acorn.pos).1, s.nc + 1 + (acornNext s.dev.acorn.pos).2, none⟩ ∧
      Tbl.get none (t.stop c.packet.dst).reserved (endpointIx c.packet.dport) = some c.packet ∧
      (t.die (dieOf c.packet.dst)).drainRing = (s.die (dieOf c.packet.dst)).drainRing ++ [(8 * c.packet.dst + endpointIx c.packet.dport, o)] := by
  have hexec : exec .overflowDelivery s = .next ((((s.modStop c.packet.dst fun x =>
      { x.count 7 1 with reserved := Tbl.set x.reserved (endpointIx c.packet.dport) (some c.packet) }).modDie (dieOf c.packet.dst) fun x =>
        { x with drainRing := x.drainRing ++ [(8 * c.packet.dst + endpointIx c.packet.dport, o)] }).countDrain c.packet.dst).acornFree) := by
    change execOverflowDelivery s = _
    simp only [execOverflowDelivery, hheld, State.drainStop_here hdev, hdev, hocc, hroom, bne_self_eq_false, Bool.false_eq_true, if_false, if_true]
  obtain ⟨hkept, hstop, hdevs, hring⟩ := ((s.modStop c.packet.dst fun x =>
    { x.count 7 1 with reserved := Tbl.set x.reserved (endpointIx c.packet.dport) (some c.packet) }).modDie (dieOf c.packet.dst) fun x =>
      { x with drainRing := x.drainRing ++ [(8 * c.packet.dst + endpointIx c.packet.dport, o)] }).countDrain_spec c.packet.dst
  rw [State.die_modDie_same] at hring
  refine ⟨_, hexec, (((Kept.modStop s _ _).trans (.modDie _ _ _)).trans hkept).trans (.acornFree _), ?_, ?_, hring⟩
  · rw [State.acornFree_acorn, hdevs, hkept.time.1]
    rfl
  · rw [State.stop_acornFree, hstop]
    rw [State.stop_modDie, State.stop_modStop_same]
    exact Tbl.get_set_same _ _ _ _

/-- A record joins those that wait, where the agent works by itself. -/
theorem State.journal_open {s : State} (kind outcome source : Nat) (lseq : BitVec 32) (digest : Nat) (hrel : s.dev.released = true)
    (hduty : s.dev.duty.getLsbD 5 = false) : (s.journal kind outcome source lseq digest).dev.jwait = s.dev.jwait ++
      [⟨BitVec.ofNat 64 s.dev.time, BitVec.ofNat 64 digest, lseq, BitVec.ofNat 16 source, BitVec.ofNat 4 kind, BitVec.ofNat 4 outcome⟩] := by
  rw [State.journal, State.modDev_dev, hrel, hduty]
  rfl

theorem Kept.journal (s : State) (k o q : Nat) (l : BitVec 32) (d : Nat) : Kept s (s.journal k o q l d) := .modDev s _

/-- R287: with the ring full the acorn stays captured, and the journal says so once. -/
theorem overflowDelivery_full {s : State} {c : Capture} {o : Packet} (hheld : s.dev.acorn.held = some c) (hdev : c.packet.ddev = s.dev.device.toNat)
    (hocc : Tbl.get none (s.stop c.packet.dst).reserved (endpointIx c.packet.dport) = some o)
    (hroom : 65536 ≤ (s.die (dieOf c.packet.dst)).drainRing.length) (hfull : c.full = false) :
    ∃ t, exec .overflowDelivery s = .next t ∧ Kept s t ∧ t.dev.acorn.held = some { c with full := true } ∧
      (s.dev.released = true → s.dev.duty.getLsbD 5 = false → t.dev.jwait = s.dev.jwait ++
        [⟨BitVec.ofNat 64 s.dev.time, BitVec.ofNat 64 65536, 0, BitVec.ofNat 16 (256 * dieOf c.packet.dst), BitVec.ofNat 4 4, BitVec.ofNat 4 0⟩]) := by
  have hexec : exec .overflowDelivery s = .next ((s.journal 4 0 (256 * dieOf c.packet.dst) 0 65536).modDev fun x =>
      { x with acorn := { x.acorn with held := some { c with full := true } } }) := by
    change execOverflowDelivery s = _
    simp only [execOverflowDelivery, hheld, State.drainStop_here hdev, hdev, hocc, hfull, Nat.not_lt.mpr hroom, bne_self_eq_false, Bool.false_eq_true, if_false]
  have hjwait := @State.journal_open s 4 0 (256 * dieOf c.packet.dst) 0 65536
  have hkept := Kept.journal s 4 0 (256 * dieOf c.packet.dst) 0 65536
  generalize s.journal 4 0 (256 * dieOf c.packet.dst) 0 65536 = u at hexec hjwait hkept
  refine ⟨_, hexec, hkept.trans (.modDev _ _), ?_, fun hrel hduty => ?_⟩ <;> rw [State.modDev_dev]
  exact hjwait hrel hduty

/-! ### The drain ring -/

/-- The oldest packet of each endpoint stands behind none of that endpoint, nor of one that has been seen. -/
theorem oldestEach_first {l : List (Nat × Packet)} {seen : List Nat} {e : Nat × Packet} (h : e ∈ oldestEach l seen) :
    e.1 ∉ seen ∧ ∃ a b, l = a ++ e :: b ∧ ∀ p ∈ a, p.1 ≠ e.1 := by
  induction l generalizing seen with
  | nil => exact absurd h nofun
  | cons x r ih =>
    rw [oldestEach] at h
    split at h
    next hseen =>
      obtain ⟨hnot, a, b, hl, ha⟩ := ih h
      refine ⟨hnot, x :: a, b, by rw [hl, List.cons_append], List.forall_mem_cons.mpr ⟨fun heq => hnot ?_, ha⟩⟩
      exact heq ▸ List.contains_iff_mem.mp hseen
    next hseen =>
      rcases List.mem_cons.mp h with rfl | hmem
      · exact ⟨fun hin => hseen (List.contains_iff_mem.mpr hin), [], r, rfl, List.forall_mem_nil _⟩
      · obtain ⟨hnot, a, b, hl, ha⟩ := ih hmem
        exact ⟨fun hin => hnot (List.mem_cons_of_mem _ hin), x :: a, b, by rw [hl, List.cons_append],
          List.forall_mem_cons.mpr ⟨fun heq => hnot (heq ▸ List.mem_cons_self), ha⟩⟩

/-- R287: what an endpoint takes back is its oldest. -/
theorem readback_oldest {s : State} {e key : Nat} {k : Packet} (h : s.readback = some (e, key, k)) :
    ∃ l r, (s.die e).drainRing = l ++ (key, k) :: r ∧ ∀ p ∈ l, p.1 ≠ key := by
  obtain ⟨d, -, hd⟩ := List.exists_of_findSome?_eq_some h
  obtain ⟨p, hp, hite⟩ := List.exists_of_findSome?_eq_some hd
  split at hite
  next =>
    cases hite
    exact (oldestEach_first hp).2
  next => exact absurd hite nofun

/-- R287: a message goes from the drain ring to its tile's weir. -/
theorem drainRingReadback_send {s : State} {e key : Nat} {k : Packet} {m : SendMsg} (h : s.readback = some (e, key, k)) (hbody : k.body = .send m)
    (hport : k.dport ≠ .mgmt) : ∃ t, exec .drainRingReadback s = .next t ∧ Kept s t ∧ (t.die e).drainRing = (s.die e).drainRing.erase (key, k) ∧
      (t.tile (key / 8)).weir.netIn = (s.tile (key / 8)).weir.netIn ++ [m] := by
  have hexec : exec .drainRingReadback s = .next ((s.modDie e fun x => { x with drainRing := x.drainRing.erase (key, k) }).deliver (key / 8) k) := by
    change execDrainRingReadback s = _
    simp only [execDrainRingReadback, h]
  rw [State.deliver_send _ _ hbody hport] at hexec
  refine ⟨_, hexec, (Kept.modDie s _ _).trans (.modWeir _ _ _), ?_, ?_⟩
  · rw [State.die_modTile, State.die_modDie_same]
  · rw [State.tile_modTile_same]
    rfl

/-- R287, R365: the record of a millisecond in which packets were drained. -/
theorem drainRecord_writes (s : State) : ∃ t, exec .drainRecord s = .next t ∧ Kept s t ∧ (t.die s.focus.a).drainedMs = 0 ∧
    (s.dev.released = true → s.dev.duty.getLsbD 5 = false → t.dev.jwait = s.dev.jwait ++
      [⟨BitVec.ofNat 64 s.dev.time, BitVec.ofNat 64 (s.die s.focus.a).drainedMs, 0, BitVec.ofNat 16 (256 * s.focus.a), BitVec.ofNat 4 4, BitVec.ofNat 4 0⟩]) :=
  ⟨_, rfl, (Kept.journal s _ _ _ _ _).trans (.modDie _ _ _), congrArg Die.drainedMs (State.die_modDie_same _ _ _),
    fun hrel hduty => State.journal_open _ _ _ _ _ hrel hduty⟩

end Sys2Proof.Machine
end

section
/-! SUPPORT and PROOFS. The subnets of a die and their governor (R288), links and Lauc ports (R279, R280, R290): each event by the stop, the
die or the port it changes. Settles the statement of the network's events. -/
namespace Sys2Proof.Machine

/-! ### Subnets -/

/-- The state in which the router's busy count has been taken. -/
def State.takesBusy (d : Nat) (s : State) (i : Nat) : State :=
  if (s.stop (256 * d + i)).busyFlits = 0 then s else s.modStop (256 * d + i) fun x => { x with busyFlits := 0 }

/-- Taking a count changes nothing but the counts, which stay 0 once they are. -/
theorem State.takesBusy_spec (d : Nat) (s : State) (i : Nat) : Kept s (s.takesBusy d i) ∧ (s.takesBusy d i).dies = s.dies ∧
    (s.takesBusy d i).fresh = s.fresh ∧ ((s.takesBusy d i).stop (256 * d + i)).busyFlits = 0 ∧
    ∀ p, (s.stop p).busyFlits = 0 → ((s.takesBusy d i).stop p).busyFlits = 0 := by
  rw [State.takesBusy]
  split
  next h => exact ⟨.refl s, rfl, rfl, h, fun _ hp => hp⟩
  next h =>
    refine ⟨.modStop s _ _, rfl, rfl, by rw [State.stop_modStop_same], fun p hp => ?_⟩
    by_cases heq : p = 256 * d + i
    · rw [heq, State.stop_modStop_same]
    · rw [State.stop_modStop_ne _ _ heq]
      exact hp

/-- All the routers of a list report: their counts are 0 after that. -/
theorem State.foldl_takesBusy (d : Nat) (l : List Nat) (s : State) : Kept s (l.foldl (State.takesBusy d) s) ∧
    (l.foldl (State.takesBusy d) s).dies = s.dies ∧ ∀ p, (s.stop p).busyFlits = 0 ∨ (∃ i ∈ l, p = 256 * d + i) →
      ((l.foldl (State.takesBusy d) s).stop p).busyFlits = 0 := by
  induction l generalizing s with
  | nil => exact ⟨.refl s, rfl, fun p h => h.elim id fun ⟨i, hi, _⟩ => absurd hi List.not_mem_nil⟩
  | cons x r ih =>
    obtain ⟨hkept, hdies, -, hzero, hstay⟩ := s.takesBusy_spec d x
    obtain ⟨hkept', hdies', hall⟩ := ih (s.takesBusy d x)
    refine ⟨hkept.trans hkept', hdies'.trans hdies, fun p hp => hall p ?_⟩
    rcases hp with hp | ⟨i, hi, rfl⟩
    · exact .inl (hstay p hp)
    · rcases List.mem_cons.mp hi with rfl | hi
      · exact .inl hzero
      · exact .inr ⟨i, hi, rfl⟩

/-- The state in which the routers of the die have reported and its governor has counted. -/
def State.reports (s : State) (d hi lo : Nat) : State :=
  ((List.range 256).foldl (State.takesBusy d) s).modDie d fun x => { x with govHigh := hi, govLow := lo }

theorem State.reports_spec (s : State) (d hi lo : Nat) : Kept s (s.reports d hi lo) ∧
    (∀ i, i < 256 → ((s.reports d hi lo).stop (256 * d + i)).busyFlits = 0) ∧
    (s.reports d hi lo).die d = { s.die d with govHigh := hi, govLow := lo } := by
  obtain ⟨hkept, hdies, hall⟩ := State.foldl_takesBusy d (List.range 256) s
  have hdie : ((List.range 256).foldl (State.takesBusy d) s).die d = s.die d := by rw [State.die, State.die, hdies]
  rw [State.reports]
  generalize (List.range 256).foldl (State.takesBusy d) s = u at hkept hall hdie
  exact ⟨hkept.trans (.modDie _ _ _), fun i hi => hall _ (.inr ⟨i, List.mem_range.mpr hi, rfl⟩), by rw [State.die_modDie_same, hdie]⟩

/-- Reports in a row at or above the on-threshold, and below the off-threshold (R288). -/
def State.reportsHigh (s : State) (d : Nat) : Nat := if fld (s.die d).netctl.toNat 24 8 ≤ s.busyAverage d then (s.die d).govHigh + 1 else 0
def State.reportsLow (s : State) (d : Nat) : Nat := if s.busyAverage d < fld (s.die d).netctl.toNat 16 8 then (s.die d).govLow + 1 else 0

/-- Whether the governor may start a change: not in host-assisted mode, nor while another is in progress. -/
def Die.Quiet (x : Die) : Prop := fld x.netctl.toNat 7 1 = 0 ∧ x.rising = [] ∧ x.draining = []

theorem governorReport_busy {s : State} (h : ¬ (s.die s.focus.a).Quiet) :
    ∃ hi lo, exec .governorReport s = .next (s.reports s.focus.a hi lo) := by
  have hbusy : (fld (s.die s.focus.a).netctl.toNat 7 1 = 1 || (!(s.die s.focus.a).rising.isEmpty || !(s.die s.focus.a).draining.isEmpty)) = true := by
    by_contra hfree
    rw [Bool.not_eq_true] at hfree
    simp only [Bool.or_eq_false_iff, decide_eq_false_iff_not, Bool.not_eq_false', List.isEmpty_iff] at hfree
    obtain ⟨hmode, hrising, hdraining⟩ := hfree
    exact h ⟨by have := fld_lt (s.die s.focus.a).netctl.toNat 7 1; omega, hrising, hdraining⟩
  exact ⟨_, _, by
    change execGovernorReport s = _
    rw [execGovernorReport, if_pos hbusy]
    rfl⟩

section
variable {s : State} (hquiet : (s.die s.focus.a).Quiet)
include hquiet

/-- With no change in progress the governor decides by its two counts. -/
theorem governorReport_decides : exec .governorReport s =
    let d := s.focus.a
    let t := s.reports d (s.reportsHigh d) (s.reportsLow d)
    if fld (s.die d).netctl.toNat 8 8 ≤ s.reportsHigh d && (s.die d).nextSub.isSome then
      .next ((t.modDie d fun x => { x with govHigh := 0 }).raise d ((s.die d).nextSub.getD 0))
    else if 350 ≤ s.reportsLow d && (s.die d).topSub != 0 then
      .next (t.modDie d fun y => { y with draining := [(s.die d).topSub], govLow := 0 })
    else .next t := by
  obtain ⟨hmode, hrising, hdraining⟩ := hquiet
  change execGovernorReport s = _
  simp only [execGovernorReport, hmode, hrising, hdraining, List.isEmpty_nil, Bool.not_true, Bool.or_false, Nat.zero_ne_one, decide_false, Bool.false_eq_true,
    if_false, Bool.not_false, and_true]
  rfl

end

/-- Powering up a subnet: it joins those that rise, and its event comes within 2 µs. -/
theorem State.raise_spec (s : State) (d sub : Nat) : Kept s (s.raise d sub) ∧ (s.raise d sub).stops = s.stops ∧
    (s.raise d sub).die d = { s.die d with rising := (s.die d).rising ++ [sub] } ∧
    ∃ due, s.nc < due ∧ due ≤ s.nc + 2800 ∧ (due, ⟨d, sub, 0, 0, 0⟩, Instr.subnetEnable) ∈ (s.raise d sub).agenda := by
  refine ⟨(Kept.drawDelay s).trans ((Kept.modDie _ _ _).trans (.at_ _ _ _ _)), rfl, ?_, s.nc + 1 + s.drawDelay.1 % 2800, by omega, by omega, ?_⟩
  · exact State.die_modDie_same s.drawDelay.2 d fun x => { x with rising := x.rising ++ [sub] }
  · exact agendaInsert_mem _ _ _ _

/-- R288: a report; the governor starts one change where its condition holds. -/
theorem governorReport_governs (s : State) : ∃ t, exec .governorReport s = .next t ∧ Kept s t ∧
    (∀ i, i < 256 → (t.stop (256 * s.focus.a + i)).busyFlits = 0) ∧ (t.die s.focus.a).netctl = (s.die s.focus.a).netctl ∧
    (∀ sub, (s.die s.focus.a).Quiet → fld (s.die s.focus.a).netctl.toNat 8 8 ≤ s.reportsHigh s.focus.a → (s.die s.focus.a).nextSub = some sub →
      (t.die s.focus.a).rising = [sub] ∧ ∃ due, s.nc < due ∧ due ≤ s.nc + 2800 ∧ (due, ⟨s.focus.a, sub, 0, 0, 0⟩, Instr.subnetEnable) ∈ t.agenda) ∧
    ((s.die s.focus.a).Quiet → (s.reportsHigh s.focus.a < fld (s.die s.focus.a).netctl.toNat 8 8 ∨ (s.die s.focus.a).nextSub = none) →
      350 ≤ s.reportsLow s.focus.a → (s.die s.focus.a).topSub ≠ 0 → (t.die s.focus.a).draining = [(s.die s.focus.a).topSub]) ∧
    ((s.die s.focus.a).Quiet → s.reportsHigh s.focus.a < fld (s.die s.focus.a).netctl.toNat 8 8 → s.reportsLow s.focus.a < 350 →
      (t.die s.focus.a).govHigh = s.reportsHigh s.focus.a ∧ (t.die s.focus.a).govLow = s.reportsLow s.focus.a ∧
      (t.die s.focus.a).rising = [] ∧ (t.die s.focus.a).draining = []) := by
  by_cases hquiet : (s.die s.focus.a).Quiet
  case neg =>
    obtain ⟨hi, lo, hexec⟩ := governorReport_busy hquiet
    obtain ⟨hkept, hzero, hdie⟩ := s.reports_spec s.focus.a hi lo
    exact ⟨_, hexec, hkept, hzero, by rw [hdie], fun _ h => absurd h hquiet, fun h => absurd h hquiet, fun h => absurd h hquiet⟩
  have hexec := governorReport_decides hquiet
  obtain ⟨-, hrising, hdraining⟩ := id hquiet
  obtain ⟨hkept, hzero, hdie⟩ := s.reports_spec s.focus.a (s.reportsHigh s.focus.a) (s.reportsLow s.focus.a)
  have hnc := hkept.time.1
  dsimp only at hexec
  generalize s.reports s.focus.a (s.reportsHigh s.focus.a) (s.reportsLow s.focus.a) = u at hexec hkept hzero hdie hnc
  split at hexec
  next hrise =>
    obtain ⟨hhi, hsub⟩ := Bool.and_eq_true_iff.mp hrise
    have hhi := of_decide_eq_true hhi
    obtain ⟨sub, hsub⟩ := Option.isSome_iff_exists.mp hsub
    rw [hsub, Option.getD_some] at hexec
    have hu := State.die_modDie_same u s.focus.a fun x => { x with govHigh := 0 }
    obtain ⟨hkept', hstops, hdie', due, hlt, hle, hmem⟩ := (u.modDie s.focus.a fun x => { x with govHigh := 0 }).raise_spec s.focus.a sub
    have hnc' : (u.modDie s.focus.a fun x => { x with govHigh := 0 }).nc = s.nc := hnc
    rw [hnc'] at hlt hle
    refine ⟨_, hexec, hkept.trans ((Kept.modDie _ _ _).trans hkept'), fun i hi => ?_, ?_, fun sub' _ _ hsub' => ⟨?_, due, hlt, hle, ?_⟩, fun _ h => ?_,
      fun _ h => absurd h (by omega)⟩
    · rw [State.stop, hstops]
      exact hzero i hi
    · rw [hdie', hu, hdie]
    · rw [hdie', hu, hdie, hrising, ← Option.some.inj (hsub.symm.trans hsub')]
      rfl
    · rw [← Option.some.inj (hsub.symm.trans hsub')]
      exact hmem
    · exact absurd h (by rw [hsub, not_or]; exact ⟨by omega, Option.some_ne_none _⟩)
  next hrise =>
    have hstay : ∀ sub, fld (s.die s.focus.a).netctl.toNat 8 8 ≤ s.reportsHigh s.focus.a → (s.die s.focus.a).nextSub ≠ some sub := fun sub hhi hsub =>
      hrise (by rw [hsub, Option.isSome_some, Bool.and_true]; exact decide_eq_true hhi)
    split at hexec
    next hdrain =>
      have hu := State.die_modDie_same u s.focus.a fun y => { y with draining := [(s.die s.focus.a).topSub], govLow := 0 }
      obtain ⟨hlo, -⟩ := Bool.and_eq_true_iff.mp hdrain
      have hlo := of_decide_eq_true hlo
      exact ⟨_, hexec, hkept.trans (.modDie _ _ _), hzero, by rw [hu, hdie], fun sub _ hhi hsub => absurd hsub (hstay sub hhi), fun _ _ _ _ => by rw [hu],
        fun _ _ h => absurd h (by omega)⟩
    next hdrain =>
      exact ⟨_, hexec, hkept, hzero, by rw [hdie], fun sub _ hhi hsub => absurd hsub (hstay sub hhi),
        fun _ _ hlo htop => absurd (by rw [Bool.and_eq_true_iff]; exact ⟨decide_eq_true hlo, bne_iff_ne.mpr htop⟩) hdrain,
        fun _ _ _ => by rw [hdie]; exact ⟨rfl, rfl, hrising, hdraining⟩⟩

/-- One bit of a word as a field. -/
theorem fld_getLsbD (x : BitVec 64) (i : Nat) : fld x.toNat i 1 = (x.getLsbD i).toNat := by
  have h := fld_one_mul x.toNat i 0
  rw [Nat.pow_zero, Nat.mul_one] at h
  rw [h, BitVec.testBit_toNat]
  cases x.getLsbD i <;> rfl

/-- A word whose bit is taken off it where it is set. -/
theorem getLsbD_clear_bit (x : BitVec 64) {k i : Nat} (hk : k < 64) (hi : i < 64) :
    (BitVec.ofNat 64 (x.toNat - (if x.getLsbD k then 2 ^ k else 0))).getLsbD i = (x.getLsbD i && i != k) := by
  cases hbit : x.getLsbD k
  case false =>
    rw [if_neg Bool.false_ne_true, Nat.sub_zero, BitVec.ofNat_toNat, BitVec.setWidth_eq]
    by_cases h : i = k
    · rw [h, hbit, Bool.false_and]
    · rw [bne_iff_ne.mpr h, Bool.and_true]
  case true =>
    have hpow : (BitVec.twoPow 64 k).toNat = 2 ^ k := by rw [BitVec.toNat_twoPow, Nat.mod_eq_of_lt (Nat.pow_lt_pow_right (by omega) hk)]
    have hdisj : (x &&& ~~~BitVec.twoPow 64 k) &&& BitVec.twoPow 64 k = 0#64 := by
      rw [BitVec.and_assoc, BitVec.and_comm (~~~_), BitVec.and_not_self]
      exact BitVec.and_zero
    have hsum : (x &&& ~~~BitVec.twoPow 64 k) + BitVec.twoPow 64 k = x := by
      rw [BitVec.add_eq_or_of_and_eq_zero _ _ hdisj]
      ext j hj
      simp only [BitVec.getElem_or, BitVec.getElem_and, BitVec.getElem_not, BitVec.getElem_twoPow]
      by_cases h : j = k
      · subst h
        rw [← BitVec.getLsbD_eq_getElem, hbit]
        simp
      · simp [h]
    have hle : 2 ^ k ≤ x.toNat := Nat.ge_two_pow_of_testBit (BitVec.testBit_toNat x ▸ hbit)
    have heq : BitVec.ofNat 64 (x.toNat - 2 ^ k) = x &&& ~~~BitVec.twoPow 64 k := by
      rw [← hpow, ← BitVec.toNat_sub_of_le (BitVec.le_def.mpr (hpow.symm ▸ hle)), BitVec.ofNat_toNat, BitVec.setWidth_eq]
      exact BitVec.sub_eq_iff_eq_add.mpr hsum.symm
    rw [if_pos rfl, heq]
    simp [hi, bne, beq_eq_decide, eq_comm]

/-- The next change of the host's mask: no stop, and no subnet that is enabled now, is touched. -/
theorem State.nextChange_spec (s : State) (d : Nat) : Kept s (s.nextChange d) ∧ ((s.nextChange d).die d).netctl = (s.die d).netctl ∧
    (fld (s.die d).netctl.toNat 7 1 = 0 ∨ (s.die d).rising ≠ [] ∨ (s.die d).draining ≠ [] → s.nextChange d = s) := by
  rw [State.nextChange]
  split
  next => exact ⟨.refl s, rfl, fun _ => rfl⟩
  next hmode =>
    have hno : ¬ (fld (s.die d).netctl.toNat 7 1 = 0 ∨ (s.die d).rising ≠ [] ∨ (s.die d).draining ≠ []) := fun h => hmode (by
      simpa only [Bool.not_eq_true', List.isEmpty_eq_false_iff] using h)
    split
    next sub _ =>
      obtain ⟨hkept, -, hdie, -⟩ := s.raise_spec d sub
      exact ⟨hkept, by rw [hdie], fun h => absurd h hno⟩
    next =>
      split
      next => exact ⟨.modDie _ _ _, by rw [State.die_modDie_same], fun h => absurd h hno⟩
      next => exact ⟨.refl s, rfl, fun h => absurd h hno⟩

/-- The record of a subnet that has come up, and of one that has been drained. -/
def Die.raised (sub : Nat) (x : Die) : Die :=
  { x.count 0 1 with netctl := x.netctl ||| BitVec.ofNat 64 (2 ^ sub), rising := x.rising.erase sub }
def Die.drained (sub : Nat) (x : Die) : Die :=
  { x.count 1 1 with netctl := BitVec.ofNat 64 (x.netctl.toNat - (if x.netctl.getLsbD sub then 2 ^ sub else 0)), draining := x.draining.erase sub }

theorem Die.raised_bit (x : Die) {sub i : Nat} (hi : i < 64) : (x.raised sub).netctl.getLsbD i = (x.netctl.getLsbD i || i == sub) := by
  rw [Die.raised, BitVec.getLsbD_or, BitVec.getLsbD_ofNat, Nat.testBit_two_pow, decide_eq_true hi, Bool.true_and, beq_eq_decide, decide_eq_decide.mpr eq_comm]

theorem Die.drained_bit (x : Die) {sub i : Nat} (hsub : sub < 64) (hi : i < 64) :
    (x.drained sub).netctl.getLsbD i = (x.netctl.getLsbD i && i != sub) := getLsbD_clear_bit _ hsub hi

/-- R288: a subnet that has risen is enabled. -/
theorem subnetEnable_enables {s : State} (hb : s.focus.b < 4) : ∃ t, exec .subnetEnable s = .next t ∧ Kept s t ∧
    (fld (s.die s.focus.a).netctl.toNat 7 1 = 0 ∨ (s.die s.focus.a).rising.erase s.focus.b ≠ [] ∨ (s.die s.focus.a).draining ≠ [] →
      (t.die s.focus.a).rising = (s.die s.focus.a).rising.erase s.focus.b ∧ (t.die s.focus.a).draining = (s.die s.focus.a).draining) ∧
    (∀ i, i < 64 → (t.die s.focus.a).netctl.getLsbD i = ((s.die s.focus.a).netctl.getLsbD i || i == s.focus.b)) := by
  have hexec : exec .subnetEnable s = .next ((s.modDie s.focus.a (Die.raised s.focus.b)).nextChange s.focus.a) := rfl
  have hdie := State.die_modDie_same s s.focus.a (Die.raised s.focus.b)
  obtain ⟨hkept, hctl, hstay⟩ := (s.modDie s.focus.a (Die.raised s.focus.b)).nextChange_spec s.focus.a
  rw [hdie] at hctl hstay
  refine ⟨_, hexec, (Kept.modDie s _ _).trans hkept, fun hno => ?_, fun i hi => ?_⟩
  · have hseven : fld ((s.die s.focus.a).raised s.focus.b).netctl.toNat 7 1 = fld (s.die s.focus.a).netctl.toNat 7 1 := by
      rw [fld_getLsbD, fld_getLsbD, Die.raised_bit _ (by omega), beq_false_of_ne (by omega), Bool.or_false]
    have heq := hstay (hseven.symm ▸ hno)
    have hdie' := (congrArg (State.die · s.focus.a) heq).trans hdie
    exact ⟨congrArg Die.rising hdie', (congrArg Die.draining hdie').trans rfl⟩
  · exact (congrArg (BitVec.getLsbD · i) hctl).trans (Die.raised_bit _ hi)

/-- R288: a subnet that has drained is no longer enabled. -/
theorem subnetDisable_disables {s : State} {sub : Nat} (h : s.drainedSub s.focus.a = some sub) (hsub : sub < 4) :
    ∃ t, exec .subnetDisable s = .next t ∧ Kept s t ∧
    (fld (s.die s.focus.a).netctl.toNat 7 1 = 0 ∨ (s.die s.focus.a).rising ≠ [] ∨ (s.die s.focus.a).draining.erase sub ≠ [] →
      (t.die s.focus.a).draining = (s.die s.focus.a).draining.erase sub ∧ (t.die s.focus.a).rising = (s.die s.focus.a).rising) ∧
    (∀ i, i < 64 → (t.die s.focus.a).netctl.getLsbD i = ((s.die s.focus.a).netctl.getLsbD i && i != sub)) := by
  have hexec : exec .subnetDisable s = .next ((s.modDie s.focus.a (Die.drained sub)).nextChange s.focus.a) := by
    change execSubnetDisable s = _
    simp only [execSubnetDisable, h]
    rfl
  have hdie := State.die_modDie_same s s.focus.a (Die.drained sub)
  obtain ⟨hkept, hctl, hstay⟩ := (s.modDie s.focus.a (Die.drained sub)).nextChange_spec s.focus.a
  rw [hdie] at hctl hstay
  refine ⟨_, hexec, (Kept.modDie s _ _).trans hkept, fun hno => ?_, fun i hi => ?_⟩
  · have hseven : fld ((s.die s.focus.a).drained sub).netctl.toNat 7 1 = fld (s.die s.focus.a).netctl.toNat 7 1 := by
      rw [fld_getLsbD, fld_getLsbD, Die.drained_bit _ (by omega) (by omega), bne_iff_ne.mpr (by omega), Bool.and_true]
    have heq := hstay (hseven.symm ▸ hno)
    have hdie' := (congrArg (State.die · s.focus.a) heq).trans hdie
    exact ⟨congrArg Die.draining hdie', (congrArg Die.rising hdie').trans rfl⟩
  · exact (congrArg (BitVec.getLsbD · i) hctl).trans (Die.drained_bit _ (by omega) hi)

/-! ### Links -/

/-- What a change that keeps a stop's field `g` leaves of it, at whatever stop it is made. -/
theorem State.modStop_keeps {α : Type} (g : Stop → α) {f : Stop → Stop} (hf : ∀ x, g (f x) = g x) (s : State) (p q : Nat) :
    g ((s.modStop p f).stop q) = g (s.stop q) := by
  by_cases h : q = p
  · rw [h, State.stop_modStop_same, hf]
  · rw [State.stop_modStop_ne _ _ h]

/-- The last packet of a list, 8 nc later. -/
def latePackets (l : List Packet) : List Packet :=
  match l.reverse with
  | k :: r => ({ k with readyAt := k.readyAt + 8 } :: r).reverse
  | [] => []
def lateSent (l : List (BitVec 64 × Packet)) : List (BitVec 64 × Packet) :=
  match l.reverse with
  | e :: r => ((e.1, { e.2 with readyAt := e.2.readyAt + 8 }) :: r).reverse
  | [] => []

theorem lateSent_append (l : List (BitVec 64 × Packet)) (e : BitVec 64 × Packet) :
    lateSent (l ++ [e]) = l ++ [(e.1, { e.2 with readyAt := e.2.readyAt + 8 })] := by
  rw [lateSent, List.reverse_append, List.reverse_singleton, List.singleton_append]
  simp only [List.reverse_cons, List.reverse_reverse]

/-- A stop whose output has failed once more. -/
def Stop.failsOnce (f : Focus) (n : Nat) (x : Stop) : Stop := { x.count 11 1 with
  linkFails := Tbl.set x.linkFails f.b n
  outBusy := Tbl.set x.outBusy (8 * f.c + f.b) (Tbl.get 0 x.outBusy (8 * f.c + f.b) + 8) }

/-- A stop whose input buffer gets its last packet 8 nc later. -/
def Stop.delays (key : Nat) (x : Stop) : Stop := { x with inputs := Tbl.set x.inputs key (latePackets (x.buf key)) }

/-- A stop one of whose links is fenced. -/
def Stop.fencesLink (b : Nat) (x : Stop) : Stop := { x with
  fencedPorts := if x.fencedPorts.contains b then x.fencedPorts else x.fencedPorts ++ [b], linkFails := Tbl.del x.linkFails b }

theorem Stop.fencesLink_mem (b : Nat) (x : Stop) : b ∈ (x.fencesLink b).fencedPorts := by
  rw [Stop.fencesLink]
  split
  next h => exact List.contains_iff_mem.mp h
  next => exact List.mem_append_right _ (List.mem_singleton_self b)

/-- The resend of the flit: the packet that left last comes 8 nc later. -/
def State.resends (s : State) (f : Focus) : State :=
  if f.b = 4 ∨ 7 < f.b then s
  else if f.b = 7 then
    match laucAt f.a with
    | none => s
    | some p => s.modDev fun d =>
      { d with lauc := Tbl.set d.lauc p { Tbl.get Lauc.empty d.lauc p with sent := lateSent (Tbl.get Lauc.empty d.lauc p).sent } }
  else s.modStop (acrossPort f.a f.b).1 (Stop.delays (8 * f.c + (acrossPort f.a f.b).2))

theorem State.resends_spec (s : State) (f : Focus) : Kept s (s.resends f) ∧
    ∀ q, ((s.resends f).stop q).linkFails = (s.stop q).linkFails ∧ ((s.resends f).stop q).fencedPorts = (s.stop q).fencedPorts := by
  rw [State.resends]
  split
  next => exact ⟨.refl s, fun _ => ⟨rfl, rfl⟩⟩
  next =>
    split
    next =>
      split
      next => exact ⟨.refl s, fun _ => ⟨rfl, rfl⟩⟩
      next => exact ⟨.modDev s _, fun _ => ⟨rfl, rfl⟩⟩
    next => exact ⟨.modStop s _ _, fun q => ⟨State.modStop_keeps Stop.linkFails (f := Stop.delays _) (fun _ => rfl) _ _ _,
        State.modStop_keeps Stop.fencedPorts (f := Stop.delays _) (fun _ => rfl) _ _ _⟩⟩

theorem State.resends_lauc {s : State} {f : Focus} {p : Nat} {l : List (BitVec 64 × Packet)} {e : BitVec 64 × Packet} (hp : laucAt f.a = some p)
    (hb : f.b = 7) (hsent : (Tbl.get Lauc.empty s.dev.lauc p).sent = l ++ [e]) :
    (Tbl.get Lauc.empty (s.resends f).dev.lauc p).sent = l ++ [(e.1, { e.2 with readyAt := e.2.readyAt + 8 })] := by
  simp only [State.resends, hb, hp, Nat.reduceEqDiff, Nat.lt_irrefl, or_self, if_false, if_true]
  rw [State.modDev_dev, Tbl.get_set_same, hsent, lateSent_append]

/-- The state after a link has failed, before its test is asked for. -/
def State.linkFailed (s : State) (f : Focus) (n : Nat) : State :=
  let t := (s.modStop f.a (Stop.failsOnce f n)).resends f
  if n < 8 then t else t.modStop f.a (Stop.fencesLink f.b)

theorem linkRetry_eq (s : State) : exec .linkRetry s = .next
    ((s.linkFailed s.focus (Tbl.get 0 (s.stop s.focus.a).linkFails s.focus.b + 1)).at_ (evenUp s.nc) .eccError ⟨s.focus.a, 10, s.focus.b, 0, 0⟩) := rfl

theorem State.linkFailed_spec (s : State) (f : Focus) (n : Nat) : Kept s (s.linkFailed f n) ∧
    (n < 8 → Tbl.get 0 ((s.linkFailed f n).stop f.a).linkFails f.b = n ∧ ((s.linkFailed f n).stop f.a).fencedPorts = (s.stop f.a).fencedPorts) ∧
    (8 ≤ n → f.b ∈ ((s.linkFailed f n).stop f.a).fencedPorts) ∧
    (s.linkFailed f n).dev = ((s.modStop f.a (Stop.failsOnce f n)).resends f).dev := by
  obtain ⟨hkept, hsame⟩ := (s.modStop f.a (Stop.failsOnce f n)).resends_spec f
  obtain ⟨hfails, hfenced⟩ := hsame f.a
  rw [State.stop_modStop_same] at hfails hfenced
  rw [State.linkFailed]
  generalize (s.modStop f.a (Stop.failsOnce f n)).resends f = u at hkept hfails hfenced
  split
  next hlt =>
    refine ⟨(Kept.modStop s _ _).trans hkept, fun _ => ⟨?_, hfenced⟩, fun h => absurd h (by omega), rfl⟩
    rw [hfails]
    exact Tbl.get_set_same _ _ _ _
  next hlt =>
    refine ⟨(Kept.modStop s _ _).trans (hkept.trans (.modStop _ _ _)), fun h => absurd h hlt, fun _ => ?_, rfl⟩
    rw [State.stop_modStop_same]
    exact Stop.fencesLink_mem _ _

/-- R279, R361: a flit that failed is sent again 8 nc later, the link's test is asked for, and after 8 failures the link is fenced. -/
theorem linkRetry_resends (s : State) : ∃ t, exec .linkRetry s = .next t ∧ Kept s t ∧
    (Tbl.get 0 (s.stop s.focus.a).linkFails s.focus.b + 1 < 8 →
      Tbl.get 0 (t.stop s.focus.a).linkFails s.focus.b = Tbl.get 0 (s.stop s.focus.a).linkFails s.focus.b + 1 ∧
      (t.stop s.focus.a).fencedPorts = (s.stop s.focus.a).fencedPorts) ∧
    (8 ≤ Tbl.get 0 (s.stop s.focus.a).linkFails s.focus.b + 1 → s.focus.b ∈ (t.stop s.focus.a).fencedPorts) ∧
    (evenUp s.nc, ⟨s.focus.a, 10, s.focus.b, 0, 0⟩, Instr.eccError) ∈ t.agenda ∧
    (∀ p l e, laucAt s.focus.a = some p → s.focus.b = 7 → (Tbl.get Lauc.empty s.dev.lauc p).sent = l ++ [e] →
      (Tbl.get Lauc.empty t.dev.lauc p).sent = l ++ [(e.1, { e.2 with readyAt := e.2.readyAt + 8 })]) := by
  obtain ⟨hkept, hfew, hmany, hdev⟩ := s.linkFailed_spec s.focus (Tbl.get 0 (s.stop s.focus.a).linkFails s.focus.b + 1)
  refine ⟨_, linkRetry_eq s, hkept.trans (.at_ _ _ _ _), hfew, hmany, agendaInsert_mem _ _ _ _, fun p l e hp hb hsent => ?_⟩
  rw [State.sched_dev, hdev]
  exact State.resends_lauc hp hb hsent

/-! ### Lauc ports -/

theorem State.journal_lauc (s : State) (k o q : Nat) (l : BitVec 32) (d : Nat) : (s.journal k o q l d).dev.lauc = s.dev.lauc := by
  rw [State.journal, State.modDev_dev]
  split <;> rfl

/-- A packet that has left a port's link frees its slot. -/
theorem State.laucOf_creditBack (s : State) (p : Nat) : Tbl.get Lauc.empty (s.creditBack p).dev.lauc p = { s.laucOf p with freed := (s.laucOf p).freed + 1 } := by
  rw [State.creditBack, State.modDev_dev, Tbl.get_set_same]

/-- The device record with the head of a port's link taken off. -/
def Dev.dropsHead (p : Nat) (d : Dev) : Dev :=
  { d with lauc := Tbl.set d.lauc p { Tbl.get Lauc.empty d.lauc p with linkIn := (Tbl.get Lauc.empty d.lauc p).linkIn.drop 1 } }

/-- R280: a malformed packet is removed, its slot is free again, and it is counted and journaled. -/
theorem malformedPacket_removes (s : State) : ∃ t, exec .malformedPacket s = .next t ∧ Kept s t ∧
    (Tbl.get Lauc.empty t.dev.lauc s.focus.a).linkIn = (Tbl.get Lauc.empty s.dev.lauc s.focus.a).linkIn.drop 1 ∧
    (Tbl.get Lauc.empty t.dev.lauc s.focus.a).freed = (Tbl.get Lauc.empty s.dev.lauc s.focus.a).freed + 1 ∧
    Tbl.get 0 (t.stop (laucStop s.focus.a)).counters 12 = (Tbl.get 0 (s.stop (laucStop s.focus.a)).counters 12 + 1) % 2 ^ 48 ∧
    (s.dev.released = true → s.dev.duty.getLsbD 5 = false → t.dev.jwait = s.dev.jwait ++
      [⟨BitVec.ofNat 64 s.dev.time, BitVec.ofNat 64 1, 0, BitVec.ofNat 16 (laucStop s.focus.a), BitVec.ofNat 4 2, BitVec.ofNat 4 2⟩]) := by
  have hin := (s.modDev (Dev.dropsHead s.focus.a)).laucOf_creditBack s.focus.a
  rw [State.laucOf, State.modDev_dev, Dev.dropsHead, Tbl.get_set_same] at hin
  have hexec : exec .malformedPacket s = .next ((((s.modDev (Dev.dropsHead s.focus.a)).creditBack s.focus.a).modStop (laucStop s.focus.a) fun x =>
    x.count 12 1).journal 2 2 (laucStop s.focus.a) 0 1) := rfl
  refine ⟨_, hexec, ((Kept.modDev s _).trans (.modDev _ _)).trans ((Kept.modStop _ _ _).trans (.journal _ _ _ _ _ _)), ?_, ?_, ?_,
    fun hrel hduty => State.journal_open _ _ _ _ _ hrel hduty⟩
  · rw [State.journal_lauc]
    exact (congrArg Lauc.linkIn hin).trans rfl
  · rw [State.journal_lauc]
    exact (congrArg Lauc.freed hin).trans rfl
  · have hstop := State.stop_modStop_same ((s.modDev (Dev.dropsHead s.focus.a)).creditBack s.focus.a) (laucStop s.focus.a) fun x => x.count 12 1
    exact (congrArg (fun x : Stop => Tbl.get 0 x.counters 12) hstop).trans (Stop.count_same _ _ _)

/-- R290: the port takes the packet from the link into its receive buffer. -/
theorem laucInbound_takes {s : State} {w : BitVec 64} {k : Packet} {r : List (BitVec 64 × Packet)}
    (hin : (Tbl.get Lauc.empty s.dev.lauc s.focus.a).linkIn = (w, k) :: r) (hroom : ((s.stop (laucStop s.focus.a)).buf 7).length < 256) :
    ∃ t, exec .laucInbound s = .next t ∧ Kept s t ∧ (Tbl.get Lauc.empty t.dev.lauc s.focus.a).linkIn = r ∧
      (t.stop (laucStop s.focus.a)).buf 7 = (s.stop (laucStop s.focus.a)).buf 7 ++ [{ (k.routed w).fromPort s.focus.a with readyAt := s.nc }] := by
  have hexec : exec .laucInbound s = .next ((s.modDev fun d =>
      { d with lauc := Tbl.set d.lauc s.focus.a { s.laucOf s.focus.a with linkIn := r } }).modStop (laucStop s.focus.a) fun x =>
        x.setBuf 7 s.nc false (x.buf 7 ++ [{ (k.routed w).fromPort s.focus.a with readyAt := s.nc }])) := by
    have hl : (s.laucOf s.focus.a).linkIn = (w, k) :: r := hin
    change execLaucInbound s = _
    simp only [execLaucInbound, hl, hroom, if_true]
  refine ⟨_, hexec, (Kept.modDev s _).trans (.modStop _ _ _), ?_, ?_⟩
  · rw [State.modStop_dev, State.modDev_dev, Tbl.get_set_same]
  · rw [State.stop_modStop_same, Stop.buf_setBuf_same, State.stop_modDev]

/-- R290: a credit comes back; nothing else of the port changes. -/
theorem laucCredit_counts (s : State) : ∃ t, exec .laucCredit s = .next t ∧ Kept s t ∧
    (Tbl.get Lauc.empty t.dev.lauc s.focus.a).credits = (Tbl.get Lauc.empty s.dev.lauc s.focus.a).credits + 1 ∧
    (Tbl.get Lauc.empty t.dev.lauc s.focus.a).out = (Tbl.get Lauc.empty s.dev.lauc s.focus.a).out ∧
    (Tbl.get Lauc.empty t.dev.lauc s.focus.a).sent = (Tbl.get Lauc.empty s.dev.lauc s.focus.a).sent := by
  refine ⟨_, rfl, .modDev s _, ?_⟩
  rw [State.modDev_dev, Tbl.get_set_same]
  exact ⟨rfl, rfl, rfl⟩

/-! ### The statement -/

/-- Settles O52: each event of routers, the acorn, subnets, links and Lauc ports by what it does to the stop, die or port it changes. -/
theorem networkEvents : Obligations.NetworkEvents := by
  intro s n h d dev ac noLane idle counted counted' journals captured passed lauc quiet hi lo fails
  refine ⟨fun k sub ⟨hl, hr, hc⟩ => routerForward_entered hl hr hc, fun key out sub k r ⟨hl, hr, hc⟩ => routerForward_across hl hr hc,
    fun key sub k r m ⟨hl, hr, hc⟩ => routerForward_send hl hr hc, fun key sub k r m ⟨hl, hr, hc⟩ => routerForward_record hl hr hc,
    fun e c hl hr hc hlt hne hce hcn => ?_, fun e k m hl hr => routerForward_landed hl hr, fun out c => routerForward_lane,
    fun p k r ⟨hl, hr, hc⟩ => routerForward_leaves hl hr hc, fun k o sub => routeChoice_best, fun key => inputTimerExpiry_notes, rfl,
    fun key k => acornCapture_takes, ?_, ?_, ?_, fun e key k => readback_oldest, fun e key k m => drainRingReadback_send, drainRecord_writes s,
    governorReport_governs s, subnetEnable_enables, fun sub => subnetDisable_disables, linkRetry_resends s, malformedPacket_removes s,
    fun w k r => laucInbound_takes, laucCredit_counts s⟩
  · subst hce
    exact routerForward_copied hl hr hc hlt hne hcn
  · rintro c q ⟨hheld, rfl, hdev⟩ hfree
    exact overflowDelivery_enters hheld hdev hfree
  · rintro c q o ⟨hheld, rfl, hdev⟩ hocc hroom
    exact overflowDelivery_spills hheld hdev hocc hroom
  · rintro c q o ⟨hheld, rfl, hdev⟩ hocc hroom hfull
    exact overflowDelivery_full hheld hdev hocc hroom hfull

end Sys2Proof.Machine
end

section
/-! SUPPORT and PROOFS. Deques, thieves and trackers (R183 to R192): what the events of work change in their tile, and the work message each of
them sends. -/
namespace Sys2Proof.Machine

/-! ### What every event of work keeps -/

/-- No byte of memory, no jet and no basin differs. -/
structure WorkKept (s t : State) : Prop where
  mem : t.mem = s.mem
  jets : ∀ m i, t.jet m i = s.jet m i
  basins : ∀ m, (t.tile m).weir.basins = (s.tile m).weir.basins

theorem WorkKept.refl (s : State) : WorkKept s s := ⟨rfl, fun _ _ => rfl, fun _ => rfl⟩

theorem WorkKept.trans {s t u : State} (h : WorkKept s t) (k : WorkKept t u) : WorkKept s u :=
  ⟨k.mem.trans h.mem, fun m i => (k.jets m i).trans (h.jets m i), fun m => (k.basins m).trans (h.basins m)⟩

theorem WorkKept.and {s t : State} (h : WorkKept s t) : t.mem = s.mem ∧ (∀ m i, t.jet m i = s.jet m i) ∧
    ∀ m, (t.tile m).weir.basins = (s.tile m).weir.basins := ⟨h.mem, h.jets, h.basins⟩

theorem WorkKept.of_tiles {s t : State} (hmem : t.mem = s.mem) (htiles : t.tiles = s.tiles) : WorkKept s t := by
  have htile (n : Nat) : t.tile n = s.tile n := by rw [State.tile, State.tile, htiles]
  exact ⟨hmem, fun m i => by rw [State.jet, State.jet, htile], fun m => by rw [htile]⟩

theorem WorkKept.modTile (s : State) (n : Nat) {f : Tile → Tile} (hf : ∀ x : Tile, (f x).jets = x.jets ∧ (f x).weir.basins = x.weir.basins) :
    WorkKept s (s.modTile n f) := by
  have htile (m : Nat) : ((s.modTile n f).tile m).jets = (s.tile m).jets ∧ ((s.modTile n f).tile m).weir.basins = (s.tile m).weir.basins := by
    by_cases h : m = n
    · rw [h, State.tile_modTile_same]
      exact hf _
    · rw [State.tile_modTile_ne s f h]
      exact ⟨rfl, rfl⟩
  exact ⟨rfl, fun m i => congrArg (Tbl.get Jet.empty · i) (htile m).1, fun m => (htile m).2⟩

theorem WorkKept.modStop (s : State) (n : Nat) (f : Stop → Stop) : WorkKept s (s.modStop n f) := .of_tiles rfl rfl
theorem WorkKept.modDev (s : State) (f : Dev → Dev) : WorkKept s (s.modDev f) := .of_tiles rfl rfl
theorem WorkKept.at_ (s : State) (d : Nat) (e : Instr) (f : Focus) : WorkKept s (s.at_ d e f) := .of_tiles rfl rfl
theorem WorkKept.take (s : State) : WorkKept s s.take.2 := .of_tiles rfl rfl

theorem WorkKept.sendWork (s : State) (n dst : Nat) (m : WorkMsg) : WorkKept s (s.sendWork n dst m) := by
  rw [State.sendWork]
  split
  · exact .modTile s n fun _ => ⟨rfl, rfl⟩
  · exact .of_tiles rfl rfl

/-! ### Work messages -/

/-- A work message of tile n is on its way: it comes to the tile itself 2 nc later, to another as a packet. -/
def WorkSent (s t : State) (n dst : Nat) (m : WorkMsg) : Prop :=
  if n = dst then (s.nc + 2, m) ∈ (t.tile n).workIn
  else ⟨s.dev.device.toNat, dst, .tile, s.dev.device.toNat, n, 1, .work m, false, s.nc, .tile⟩ ∈ (t.stop n).inject

theorem State.sendWork_sent (s : State) (n dst : Nat) (m : WorkMsg) : WorkSent s (s.sendWork n dst m) n dst m := by
  rw [WorkSent, State.sendWork]
  split
  · rw [State.tile_modTile_same]
    exact List.mem_append_right _ (List.mem_singleton_self _)
  · rw [State.inject, State.stop_modStop_same]
    exact List.mem_append_right _ (List.mem_singleton_self _)

/-- What sending a work message leaves of the tile: all but the messages that have come to it. -/
theorem State.sendWork_tile (s : State) (n dst : Nat) (m : WorkMsg) :
    ∃ l, (s.sendWork n dst m).tile n = { s.tile n with workIn := l } := by
  rw [State.sendWork]
  split
  · exact ⟨_, State.tile_modTile_same _ _ _⟩
  · exact ⟨(s.tile n).workIn, rfl⟩

theorem Tile.workHead_kind {x : Tile} {nc d : Nat} {is : WorkMsg → Bool} {m : WorkMsg} (h : x.workHead nc is = some (d, m)) : is m = true :=
  (Bool.and_eq_true_iff.mp (List.find?_some (p := fun w : Nat × WorkMsg => decide (w.1 ≤ nc) && is w.2) h)).2

/-- The tile without a message that has come to it. -/
def Tile.takesWork (w : Nat × WorkMsg) (x : Tile) : Tile := { x with workIn := x.workIn.erase w }

/-- The state in which an event has taken the oldest message of its kind. -/
def State.workTaken (s : State) (n : Nat) (w : Nat × WorkMsg) : State := s.modTile n (Tile.takesWork w)

theorem State.takeWork_some {s : State} {n d : Nat} {is : WorkMsg → Bool} {m : WorkMsg} (h : (s.tile n).workHead s.nc is = some (d, m)) :
    s.takeWork n is = (some m, s.workTaken n (d, m)) := by
  simp only [State.takeWork, h]
  rfl

theorem WorkKept.workTaken (s : State) (n : Nat) (w : Nat × WorkMsg) : WorkKept s (s.workTaken n w) := .modTile s n fun _ => ⟨rfl, rfl⟩

theorem State.workTaken_tile (s : State) (n : Nat) (w : Nat × WorkMsg) : (s.workTaken n w).tile n = (s.tile n).takesWork w := State.tile_modTile_same _ _ _

/-! ### The deque of a tile (R183) -/

theorem Tile.ownerTake_newest {x : Tile} {k : DqEntry} {l : List DqEntry} (h : x.deque = l ++ [k]) (hk : k.takable = true) :
    ∃ y, x.ownerTake = some (k.task, y) := by
  have hfind : x.deque.reverse.find? (·.takable) = some k := by
    rw [h, List.reverse_append, List.reverse_singleton, List.singleton_append]
    exact List.find?_cons_of_pos hk
  simp only [Tile.ownerTake, hfind]
  exact ⟨_, rfl⟩

theorem Tile.topTask_oldest {x : Tile} {k : DqEntry} {l : List DqEntry} (hsp : x.spilledTasks = []) (h : x.deque = k :: l) (hk : k.takable = true) :
    x.topTask = some (k.task, false) := by
  have hfind : x.deque.find? (·.takable) = some k := by
    rw [h]
    exact List.find?_cons_of_pos hk
  simp only [Tile.topTask, hsp, hfind, Option.map_some]

theorem Tile.applyDqspill_eq (x : Tile) : ∃ v w h, x.applyDqspill = { x with dqspill := v, dqspillNext := w, spillHead := h } := by
  rw [Tile.applyDqspill]
  split
  · split
    · exact ⟨_, _, _, rfl⟩
    · exact ⟨_, _, _, rfl⟩
  · exact ⟨_, _, _, rfl⟩

/-- What a tile is without the task that its owner takes. -/
theorem Tile.ownerTake_eq {x y : Tile} {k : Task} (h : x.ownerTake = some (k, y)) :
    ∃ d l v w p, y = { x with deque := d, spilledTasks := l, dqspill := v, dqspillNext := w, spillHead := p } := by
  rw [Tile.ownerTake] at h
  split at h
  · cases h
    exact ⟨_, _, _, _, _, rfl⟩
  · split at h
    · cases h
    · split at h
      · cases h
        obtain ⟨v, w, p, heq⟩ := ({ x with spilledTasks := x.spilledTasks.dropLast } : Tile).applyDqspill_eq
        exact ⟨_, _, _, _, _, heq⟩
      · cases h

/-- The state in which the owner has taken its task. -/
theorem State.setTile_taken {s : State} {n : Nat} {y : Tile} {k : Task} (h : (s.tile n).ownerTake = some (k, y)) :
    (s.setTile n y).mem = s.mem ∧ (s.setTile n y).tile n = y ∧ y.jets = (s.tile n).jets ∧ y.increments = (s.tile n).increments ∧
      ∀ m j, (s.setTile n y).jet m j = s.jet m j := by
  obtain ⟨d, l, v, w, p, rfl⟩ := Tile.ownerTake_eq h
  refine ⟨rfl, State.tile_modTile_same s n fun _ => _, rfl, rfl, fun m j => ?_⟩
  exact (WorkKept.modTile s n (f := fun x => { x with deque := d, spilledTasks := l, dqspill := v, dqspillNext := w, spillHead := p }) fun _ => ⟨rfl, rfl⟩).jets m j

/-- R183: the owner's task becomes a running jet of its tile. -/
theorem dequeTake_seats {s : State} {k : Task} {y : Tile} {i b : Nat} (hk : (s.tile s.focus.a).ownerTake = some (k, y))
    (hi : (s.tile s.focus.a).freeSlot s.tc = some i) (hh : s.husked s.focus.a k.inst = false)
    (hf : (s.tile s.focus.a).fits s.tc (k.frame.toNat + 1) = some b) :
    ∃ t, exec .dequeTake s = .next t ∧ t.mem = s.mem ∧ (t.tile s.focus.a).deque = y.deque ∧ (t.jet s.focus.a i).status = .running ∧
      (t.jet s.focus.a i).pc = k.entry ∧ (t.jet s.focus.a i).range = k.range ∧ (t.jet s.focus.a i).level = k.prio ∧ (t.jet s.focus.a i).inst = k.inst ∧
      (t.jet s.focus.a i).role = k.role ∧ (t.jet s.focus.a i).frame.bits = k.image % 2 ^ (512 * (k.frame.toNat + 1)) ∧
      ∀ m j, (m, j) ≠ (s.focus.a, i) → t.jet m j = s.jet m j := by
  obtain ⟨hmem, htile, -, -, hjets⟩ := State.setTile_taken hk
  let u := (s.setTile s.focus.a y).take.2
  let q := k.record (s.setTile s.focus.a y).nextId s.tc s.dev.time
  have hexec : exec .dequeTake s = .next (u.reside s.focus.a i b q) := by
    change execDequeTake s = _
    simp only [execDequeTake, hk, hi, hh, hf, Bool.false_eq_true, if_false]
    rfl
  have hreside : (u.reside s.focus.a i b q).tile s.focus.a = y.seated i b u.nextId u.tc q := by
    rw [State.reside_tile]
    exact congrArg (Tile.seated i b u.nextId u.tc q) htile
  have hjet : (u.reside s.focus.a i b q).jet s.focus.a i = q.jet u.nextId (Tbl.get 0 y.slotSeq i) b u.tc := by
    rw [State.jet, hreside]
    exact Tile.jet_setJet_same ..
  refine ⟨_, hexec, hmem, by rw [hreside]; rfl, ?_⟩
  rw [hjet]
  refine ⟨rfl, rfl, rfl, rfl, rfl, rfl, rfl, fun m j hmj => ?_⟩
  by_cases hm : m = s.focus.a
  · subst hm
    have hj : j ≠ i := fun h => hmj (by rw [h])
    rw [State.jet, hreside, ← hjets s.focus.a j, State.jet, htile]
    exact Tile.jet_setJet_ne _ _ hj
  · rw [State.jet, State.reside_eq, State.tile_modTile_ne _ _ hm]
    exact hjets m j

/-- R195: a husked task is discarded, and its tracker hears of it, behind what the tile owes it. -/
theorem dequeTake_discards {s : State} {k : Task} {y : Tile} {i : Nat} (hk : (s.tile s.focus.a).ownerTake = some (k, y))
    (hi : (s.tile s.focus.a).freeSlot s.tc = some i) (hh : s.husked s.focus.a k.inst = true) :
    ∃ t, exec .dequeTake s = .next t ∧ t.mem = s.mem ∧ (t.tile s.focus.a).deque = y.deque ∧ (k.tracked = true →
      ((s.tile s.focus.a).owesPlus k.ttile.toNat k.tindex.toNat = false →
        WorkSent s t s.focus.a k.ttile.toNat (.track k.tindex.toNat false s.focus.a none)) ∧
      ((s.tile s.focus.a).owesPlus k.ttile.toNat k.tindex.toNat = true →
        ⟨0, 0, k.ttile.toNat, .track k.tindex.toNat false s.focus.a none⟩ ∈ (t.tile s.focus.a).workOut)) := by
  obtain ⟨hmem, htile, -, hinc, -⟩ := State.setTile_taken hk
  have hexec : exec .dequeTake s = .next ((s.setTile s.focus.a y).taskEnds s.focus.a k) := by
    change execDequeTake s = _
    simp only [execDequeTake, hk, hi, hh, if_true]
  have howes : ((s.setTile s.focus.a y).tile s.focus.a).owesPlus k.ttile.toNat k.tindex.toNat = (s.tile s.focus.a).owesPlus k.ttile.toNat k.tindex.toNat := by
    rw [htile, Tile.owesPlus, Tile.owesPlus, hinc]
  rw [State.taskEnds] at hexec
  split at hexec
  case isFalse htr => exact ⟨_, hexec, hmem, by rw [htile], fun h => absurd h htr⟩
  case isTrue htr =>
    rw [State.pieceEnds, howes] at hexec
    split at hexec
    case isTrue ho =>
      refine ⟨_, hexec, hmem, ?_, fun _ => ⟨fun h => absurd (h.symm.trans ho) Bool.false_ne_true, fun _ => ?_⟩⟩
      · rw [State.tile_modTile_same, htile]
      · rw [State.tile_modTile_same]
        exact List.mem_append_right _ (List.mem_singleton_self _)
    case isFalse ho =>
      obtain ⟨l, hl⟩ := (s.setTile s.focus.a y).sendWork_tile s.focus.a k.ttile.toNat (.track k.tindex.toNat false s.focus.a none)
      exact ⟨_, hexec, ((WorkKept.sendWork _ _ _ _).mem).trans hmem, by rw [hl, htile], fun _ => ⟨fun _ => State.sendWork_sent _ _ _ _, fun h => absurd h ho⟩⟩

/-! ### Thirst (R189) -/

/-- The visit a round of thirst makes next. -/
def Tile.visit (x : Tile) : Option (Nat × Nat) :=
  match x.thirst with
  | some h => x.nextVisit h.domain h.sent
  | none => x.nextVisit 0 0

/-- The tile whose round has made a visit. -/
def Tile.visits (d n v : Nat) (x : Tile) : Tile := { x with thirst := some ⟨d, n + 1, true⟩, lastVictim := Tbl.set x.lastVictim d (some v) }

theorem thirstRound_visits {s : State} {d k : Nat} (h : (s.tile s.focus.a).visit = some (d, k)) :
    ∃ t, exec .thirstRound s = .next t ∧ WorkKept s t ∧ (t.tile s.focus.a).thirst = some ⟨d, k + 1, true⟩ ∧
      WorkSent s t s.focus.a ((s.tile s.focus.a).nextVictim s.focus.a d) (.thirst s.focus.a) ∧
      Tbl.get none (t.tile s.focus.a).lastVictim d = some ((s.tile s.focus.a).nextVictim s.focus.a d) := by
  let v := (s.tile s.focus.a).nextVictim s.focus.a d
  have hexec : exec .thirstRound s = .next ((s.modTile s.focus.a (Tile.visits d k v)).sendWork s.focus.a v (.thirst s.focus.a)) := by
    change execThirstRound s = _
    rw [Tile.visit] at h
    cases ht : (s.tile s.focus.a).thirst <;> rw [ht] at h <;> simp only [execThirstRound, ht, h] <;> rfl
  obtain ⟨l, hl⟩ := (s.modTile s.focus.a (Tile.visits d k v)).sendWork_tile s.focus.a v (.thirst s.focus.a)
  rw [State.tile_modTile_same] at hl
  refine ⟨_, hexec, (WorkKept.modTile s _ (f := Tile.visits d k v) fun _ => ⟨rfl, rfl⟩).trans (.sendWork _ _ _ _), by rw [hl]; rfl, State.sendWork_sent _ _ _ _, ?_⟩
  rw [hl]
  exact Tbl.get_set_same _ _ _ _

/-- The tile whose round was refused throughout. -/
def Tile.backsOff (due : Nat) (x : Tile) : Tile := { x with thirst := none, backoff := some due, refused := true }

theorem thirstRound_ends {s : State} (h : (s.tile s.focus.a).visit = none) :
    ∃ t due, exec .thirstRound s = .next t ∧ WorkKept s t ∧ (t.tile s.focus.a).thirst = none ∧ (t.tile s.focus.a).backoff = some due ∧
      (t.tile s.focus.a).refused = true ∧ due = s.nc + 2 * fld (s.tile s.focus.a).stealctl.toNat 4 12 ∧
      (due, ⟨s.focus.a, due, 0, 0, 0⟩, Instr.thirstBackoffExpiry) ∈ t.agenda := by
  let due := s.nc + 2 * fld (s.tile s.focus.a).stealctl.toNat 4 12
  have hexec : exec .thirstRound s = .next ((s.modTile s.focus.a (Tile.backsOff due)).at_ due
      .thirstBackoffExpiry ⟨s.focus.a, due, 0, 0, 0⟩) := by
    change execThirstRound s = _
    rw [Tile.visit] at h
    cases ht : (s.tile s.focus.a).thirst <;> rw [ht] at h <;> simp only [execThirstRound, ht, h] <;> rfl
  have htile := State.tile_modTile_same s s.focus.a (Tile.backsOff due)
  exact ⟨_, due, hexec, (WorkKept.modTile s _ (f := Tile.backsOff due) fun _ => ⟨rfl, rfl⟩).trans (.at_ _ _ _ _), congrArg Tile.thirst htile, congrArg Tile.backoff htile,
    congrArg Tile.refused htile, rfl, agendaInsert_mem _ _ _ _⟩

theorem thirstBackoffExpiry_ends {s : State} (h : (s.tile s.focus.a).backoff = some s.focus.b) :
    ∃ t, exec .thirstBackoffExpiry s = .next t ∧ WorkKept s t ∧ (t.tile s.focus.a).backoff = none ∧
      (t.tile s.focus.a).refused = ((s.tile s.focus.a).refused && (s.tile s.focus.a).thirsty s.tc) := by
  have hexec : exec .thirstBackoffExpiry s = .next (s.modTile s.focus.a fun x => { x with backoff := none, refused := x.refused && x.thirsty s.tc }) := by
    change execThirstBackoffExpiry s = _
    simp only [execThirstBackoffExpiry, h, if_true]
  refine ⟨_, hexec, .modTile s _ fun _ => ⟨rfl, rfl⟩, ?_⟩
  rw [State.tile_modTile_same]
  exact ⟨rfl, rfl⟩

/-! ### The victim of a thief (R190) -/

theorem thirstArrival_victim {s : State} {d th : Nat} (h : (s.tile s.focus.a).workHead s.nc WorkMsg.isThirst = some (d, .thirst th)) :
    exec .thirstArrival s = .next ((s.workTaken s.focus.a (d, .thirst th)).victim s.focus.a th) := by
  change execThirstArrival s = _
  simp only [execThirstArrival, State.takeWork_some h]

/-- R86, R189: a tile that gates, is in reset, or whose ready queue is full, refuses. -/
theorem thirstArrival_refuses {s : State} {d th : Nat} (h : (s.tile s.focus.a).workHead s.nc WorkMsg.isThirst = some (d, .thirst th))
    (hno : (s.tile s.focus.a).gated = true ∨ (s.tile s.focus.a).inReset = true ∨
      64 ≤ (s.tile s.focus.a).ready.length ∧ (s.tile s.focus.a).topTask.isSome = true) :
    ∃ t, exec .thirstArrival s = .next t ∧ WorkKept s t ∧ WorkSent s t s.focus.a th (.answer none) := by
  have hexec := thirstArrival_victim h
  have hcond : ((s.tile s.focus.a).gated || (s.tile s.focus.a).inReset ||
      (decide (64 ≤ (s.tile s.focus.a).ready.length) && (s.tile s.focus.a).topTask.isSome)) = true := by
    simpa only [Bool.or_eq_true, Bool.and_eq_true, decide_eq_true_eq, or_assoc] using hno
  rw [State.victim, if_pos (by rw [State.workTaken_tile]; exact hcond)] at hexec
  exact ⟨_, hexec, (WorkKept.workTaken _ _ _).trans (.sendWork _ _ _ _), State.sendWork_sent _ _ _ _⟩

theorem State.dropHusked_stop {s : State} {n : Nat} {k : Task} {sp : Bool} (htop : (s.tile n).topTask = some (k, sp)) (hh : s.husked n k.inst = false) (i : Nat) :
    s.dropHusked n i = s := by
  cases i with
  | zero => rfl
  | succ i => simp only [State.dropHusked, htop, hh, Bool.false_eq_true, if_false]

/-- The middle of a range of two grains or more lies inside it, a whole number of grains from its start. -/
theorem splitAt_between {lo hi g : Nat} (hg : g ≠ 0) (h : 2 ≤ (hi - lo) / g) :
    lo < splitAt lo hi g ∧ splitAt lo hi g < hi ∧ (splitAt lo hi g - lo) % g = 0 := by
  have hpos : 0 < g := Nat.pos_of_ne_zero hg
  have htwo : 2 * g ≤ hi - lo := (Nat.le_div_iff_mul_le hpos).mp h
  have hone : 1 ≤ (hi - lo) / (2 * g) := (Nat.le_div_iff_mul_le (by omega)).mpr (by omega)
  have hhalf : (hi - lo) / (2 * g) * g * 2 ≤ hi - lo := by
    rw [Nat.mul_assoc, Nat.mul_comm g 2]
    exact Nat.div_mul_le_self _ _
  have hstep : g ≤ (hi - lo) / (2 * g) * g := Nat.le_mul_of_pos_left g hone
  rw [splitAt]
  exact ⟨by omega, by omega, by rw [Nat.add_sub_cancel_left, Nat.mul_mod_left]⟩

theorem Task.n_split {k : Task} (h : 2 ≤ k.n) : k.grain.toNat ≠ 0 ∧ 2 ≤ (k.hi.toNat - k.lo.toNat) / k.grain.toNat := by
  rw [Task.n] at h
  split at h
  · omega
  · exact ⟨‹_›, h⟩

/-- The top task of a tile, where it is not spilled, stands in the deque. -/
theorem Tile.topTask_entry {x : Tile} {k : Task} (h : x.topTask = some (k, false)) : ∃ e, x.deque.find? (·.takable) = some e ∧ e.task = k := by
  rw [Tile.topTask] at h
  split at h
  · cases h
  · cases h
  · obtain ⟨e, he, hk⟩ := Option.map_eq_some_iff.mp h
    exact ⟨e, he, congrArg Prod.fst hk⟩

/-- The top task keeps its place in the deque with what is left of it. -/
theorem Tile.shrinkTop_eq {x : Tile} {k : Task} (h : x.topTask = some (k, false)) (k' : Task) :
    ∃ l, x.shrinkTop false k' = { x with deque := l } ∧ ∃ d ∈ l, d.task = k' := by
  obtain ⟨e, he, -⟩ := Tile.topTask_entry h
  refine ⟨x.deque.map fun d => if d.id = e.id then { d with task := k' } else d, ?_, { e with task := k' },
    List.mem_map.mpr ⟨e, List.mem_of_find?_eq_some he, if_pos rfl⟩, rfl⟩
  rw [Tile.shrinkTop, if_neg Bool.false_ne_true]
  simp only [he]

/-- R190: a thief is given the end of the oldest task's range, from its middle on. -/
theorem thirstArrival_splits {s : State} {d th : Nat} {k : Task} (h : (s.tile s.focus.a).workHead s.nc WorkMsg.isThirst = some (d, .thirst th))
    (hgated : (s.tile s.focus.a).gated = false) (hreset : (s.tile s.focus.a).inReset = false) (hready : (s.tile s.focus.a).ready.length < 64)
    (hhusks : ∀ i, s.husked s.focus.a i = false) (htop : (s.tile s.focus.a).topTask = some (k, false)) (htr : k.tracked = false) (hn : 2 ≤ k.n) :
    ∃ t mid, mid = k.lo.toNat + (k.hi.toNat - k.lo.toNat) / (2 * k.grain.toNat) * k.grain.toNat ∧ exec .thirstArrival s = .next t ∧ WorkKept s t ∧
      WorkSent s t s.focus.a th (.answer (some { k with lo := BitVec.ofNat 48 mid })) ∧ k.lo.toNat < mid ∧ mid < k.hi.toNat ∧
      (mid - k.lo.toNat) % k.grain.toNat = 0 ∧ ∃ d ∈ (t.tile s.focus.a).deque, d.task = { k with hi := BitVec.ofNat 48 mid } := by
  obtain ⟨hgrain, hsplit⟩ := Task.n_split hn
  obtain ⟨hlo, hhi, hmod⟩ := splitAt_between hgrain hsplit
  let mid := splitAt k.lo.toNat k.hi.toNat k.grain.toNat
  let u := s.workTaken s.focus.a (d, .thirst th)
  have hu : u.tile s.focus.a = (s.tile s.focus.a).takesWork (d, .thirst th) := State.workTaken_tile _ _ _
  have hutop : (u.tile s.focus.a).topTask = some (k, false) := by rw [hu]; exact htop
  have huhusk : u.husked s.focus.a k.inst = false := by
    rw [State.husked, hu]
    exact hhusks k.inst
  have hexec : exec .thirstArrival s = .next ((u.modTile s.focus.a fun x => x.shrinkTop false { k with hi := BitVec.ofNat 48 mid }).sendWork s.focus.a th
      (.answer (some { k with lo := BitVec.ofNat 48 mid }))) := by
    rw [thirstArrival_victim h]
    have hcond : ¬ ((u.tile s.focus.a).gated || (u.tile s.focus.a).inReset ||
        (decide (64 ≤ (u.tile s.focus.a).ready.length) && (u.tile s.focus.a).topTask.isSome)) = true := by
      rw [hu]
      change ¬ ((s.tile s.focus.a).gated || (s.tile s.focus.a).inReset || (decide (64 ≤ (s.tile s.focus.a).ready.length) && _)) = true
      simp [hgated, hreset, Nat.not_le.mpr hready]
    change Host.Outcome.next (u.victim s.focus.a th) = _
    rw [State.victim, if_neg hcond]
    simp only [State.dropHusked_stop hutop huhusk, hutop, hn, if_true, State.givePiece, htr, Bool.false_and, Bool.false_eq_true, if_false]
    rfl
  obtain ⟨l, hl, e, he, hek⟩ := Tile.shrinkTop_eq hutop { k with hi := BitVec.ofNat 48 mid }
  obtain ⟨w, hw⟩ := (u.modTile s.focus.a fun x => x.shrinkTop false { k with hi := BitVec.ofNat 48 mid }).sendWork_tile s.focus.a th
    (.answer (some { k with lo := BitVec.ofNat 48 mid }))
  rw [State.tile_modTile_same, hl] at hw
  have heq : (u.modTile s.focus.a fun x => x.shrinkTop false { k with hi := BitVec.ofNat 48 mid }) = u.modTile s.focus.a fun x => { x with deque := l } :=
    State.modTile_congr hl
  have hkept : WorkKept s (u.modTile s.focus.a fun x => x.shrinkTop false { k with hi := BitVec.ofNat 48 mid }) := by
    rw [heq]
    exact (WorkKept.workTaken s _ _).trans (.modTile u _ fun _ => ⟨rfl, rfl⟩)
  refine ⟨_, mid, rfl, hexec, hkept.trans (.sendWork _ _ _ _), State.sendWork_sent _ _ _ _, hlo, hhi, hmod, e, ?_, hek⟩
  rw [hw]
  exact he


/-! ### Answers to a thief (R183, R189) -/

theorem Tile.push_full {x : Tile} (e : DqEntry) (hlen : 32 ≤ x.deque.length) (hsp : x.spillArea.2 ≤ x.spilledTasks.length) : x.push e = none := by
  rw [Tile.push, if_neg (by omega), if_neg (by omega)]

/-- A push that finds room: the deque, one entry longer; where the oldest had to leave, it stands in the spill area. -/
theorem Tile.push_room {x : Tile} (e : DqEntry) (h : x.deque.length < 32 ∨ x.spilledTasks.length < x.spillArea.2) :
    ∃ p l, x.push e = some { x with pool := p, spilledTasks := l, deque :=
      (if 32 ≤ x.deque.length ∧ x.spilledTasks.length < x.spillArea.2 then x.deque.tail else x.deque) ++ [e] } ∧
      (x.deque.length < 32 → l = x.spilledTasks ∧ p = x.pool) := by
  by_cases hlen : x.deque.length < 32
  · refine ⟨x.pool, x.spilledTasks, ?_, fun _ => ⟨rfl, rfl⟩⟩
    rw [Tile.push, if_pos hlen, if_neg (by omega)]
  · have hsp := h.resolve_left hlen
    cases hd : x.deque with
    | nil => exact absurd (by rw [hd]; exact Nat.zero_lt_succ _) hlen
    | cons o r =>
      refine ⟨x.pool.writeN (x.spillAddr x.spilledTasks.length) 32 o.task.image, x.spilledTasks ++ [(o.id, o.takable)], ?_, fun hlt => absurd (hd ▸ hlt) hlen⟩
      · simp only [Tile.push, hd, hd ▸ hlen, hsp, if_true, if_false]
        rw [if_pos ⟨Nat.not_lt.mp (hd ▸ hlen), trivial⟩, List.tail_cons]

/-- The tile whose round has ended with a task. -/
def Tile.roundEnds (x : Tile) : Tile := { x with
  refused := false
  thirst := match x.thirst with | some h => if h.waiting then none else some h | none => none }

theorem stealAnswer_waits {s : State} {d : Nat} {k : Task} (h : (s.tile s.focus.a).workHead s.nc WorkMsg.isAnswer = some (d, .answer (some k)))
    (hlen : 32 ≤ (s.tile s.focus.a).deque.length) (hsp : (s.tile s.focus.a).spillArea.2 ≤ (s.tile s.focus.a).spilledTasks.length) :
    exec .stealAnswer s = .next s := by
  have hpush (id : Nat) : ((s.workTaken s.focus.a (d, .answer (some k))).take.2.tile s.focus.a).push ⟨id, k, true⟩ = none := by
    change ((s.workTaken s.focus.a (d, .answer (some k))).tile s.focus.a).push _ = none
    rw [State.workTaken_tile]
    exact Tile.push_full _ hlen hsp
  change execStealAnswer s = _
  simp only [execStealAnswer, State.takeWork_some h, hpush]

theorem stealAnswer_pushes {s : State} {d : Nat} {k : Task} (h : (s.tile s.focus.a).workHead s.nc WorkMsg.isAnswer = some (d, .answer (some k)))
    (hroom : (s.tile s.focus.a).deque.length < 32 ∨ (s.tile s.focus.a).spilledTasks.length < (s.tile s.focus.a).spillArea.2) :
    ∃ t, exec .stealAnswer s = .next t ∧ WorkKept s t ∧
      (t.tile s.focus.a).deque = (if 32 ≤ (s.tile s.focus.a).deque.length ∧ (s.tile s.focus.a).spilledTasks.length < (s.tile s.focus.a).spillArea.2
        then (s.tile s.focus.a).deque.tail else (s.tile s.focus.a).deque) ++ [⟨s.nextId, k, true⟩] ∧
      ((s.tile s.focus.a).deque.length < 32 → (t.tile s.focus.a).spilledTasks = (s.tile s.focus.a).spilledTasks ∧
        (t.tile s.focus.a).pool = (s.tile s.focus.a).pool) ∧ (t.tile s.focus.a).refused = false := by
  let u := (s.workTaken s.focus.a (d, .answer (some k))).take.2
  have hu : u.tile s.focus.a = (s.tile s.focus.a).takesWork (d, .answer (some k)) := State.workTaken_tile _ _ _
  obtain ⟨p, l, hpush, hsame⟩ := Tile.push_room (x := u.tile s.focus.a) ⟨s.nextId, k, true⟩ (by rw [hu]; exact hroom)
  generalize hy : ({ u.tile s.focus.a with pool := p, spilledTasks := l, deque := _ } : Tile) = y at hpush
  have hexec : exec .stealAnswer s = .next (u.setTile s.focus.a y.roundEnds) := by
    change execStealAnswer s = _
    rw [execStealAnswer, State.takeWork_some h]
    change (match (u.tile s.focus.a).push ⟨s.nextId, k, true⟩ with | none => _ | some x => _) = _
    rw [hpush]
    rfl
  have htile : (u.setTile s.focus.a y.roundEnds).tile s.focus.a = y.roundEnds := State.tile_modTile_same u s.focus.a fun _ => y.roundEnds
  have hkept : WorkKept u (u.setTile s.focus.a y.roundEnds) := by
    rw [← hy]
    exact .modTile u s.focus.a (f := fun x => Tile.roundEnds { x with pool := p, spilledTasks := l, deque := _ }) fun _ => ⟨rfl, rfl⟩
  refine ⟨_, hexec, ((WorkKept.workTaken s _ _).trans (.take _)).trans hkept, ?_, fun hlt => ?_, ?_⟩ <;> rw [htile, ← hy]
  · rw [hu]
    rfl
  · obtain ⟨hl, hp⟩ := hsame (by rw [hu]; exact hlt)
    rw [hu] at hl hp
    exact ⟨hl, hp⟩
  · rfl

theorem stealAnswer_refused {s : State} {d : Nat} (h : (s.tile s.focus.a).workHead s.nc WorkMsg.isAnswer = some (d, .answer none)) :
    ∃ t, exec .stealAnswer s = .next t ∧ WorkKept s t ∧ (t.tile s.focus.a).deque = (s.tile s.focus.a).deque ∧
      ∀ h, (t.tile s.focus.a).thirst = some h → h.waiting = false := by
  let u := s.workTaken s.focus.a (d, .answer none)
  let f (x : Tile) : Tile := { x with thirst := if x.thirsty s.tc then x.thirst.map fun h => { h with waiting := false } else none }
  have hexec : exec .stealAnswer s = .next (u.modTile s.focus.a f) := by
    change execStealAnswer s = _
    simp only [execStealAnswer, State.takeWork_some h]
    rfl
  have htile : (u.modTile s.focus.a f).tile s.focus.a = f ((s.tile s.focus.a).takesWork (d, .answer none)) := by
    rw [State.tile_modTile_same, State.workTaken_tile]
  refine ⟨_, hexec, (WorkKept.workTaken s _ _).trans (.modTile u _ (f := f) fun _ => ⟨rfl, rfl⟩), by rw [htile]; rfl, fun w hw => ?_⟩
  rw [htile] at hw
  change (if _ then _ else none) = _ at hw
  split at hw
  · obtain ⟨v, -, rfl⟩ := Option.map_eq_some_iff.mp hw
    rfl
  · cases hw

/-! ### Trackers (R192) -/

theorem Tile.tracker_setTracker (x : Tile) (i : Nat) (k : Option Tracker) : (x.setTracker i k).tracker i = k := Tbl.get_set_same _ _ _ _

theorem WorkKept.journal (s : State) (k o q : Nat) (l : BitVec 32) (d : Nat) : WorkKept s (s.journal k o q l d) := .modDev s _

theorem WorkKept.post (s : State) (n j : Nat) (m : SendMsg) : WorkKept s (s.post n j m) := .modTile s n fun _ => ⟨rfl, rfl⟩

/-- The message that tells the done basin of a launch of its outcome (R193). -/
def doneSignal (n seq : Nat) (done : BitVec 32) (inst : BitVec 16) (outcome : Nat) : SendMsg :=
  { plainMsg n done inst 16 (seq % 2 ^ 32 + inst.toNat * 2 ^ 32 + outcome * 2 ^ 48) with rel := some .device }

theorem doneSignal_payload (n seq : Nat) (done : BitVec 32) (inst : BitVec 16) (outcome : Nat) :
    (doneSignal n seq done inst outcome).payload = seq % 2 ^ 32 + inst.toNat * 2 ^ 32 + outcome * 2 ^ 48 := rfl

/-- The state in which a launch that is over is journaled and its signal is to be sent. -/
def State.signals (s : State) (n seq : Nat) (queue done : BitVec 32) (inst : BitVec 16) (outcome : Nat) : State :=
  if done = 0 then s.journal 1 outcome n (BitVec.ofNat 32 seq) queue.toNat
  else (s.journal 1 outcome n (BitVec.ofNat 32 seq) queue.toNat).post n 0 (doneSignal n seq done inst outcome)

theorem State.signals_spec (s : State) (n seq : Nat) (queue done : BitVec 32) (inst : BitVec 16) (outcome : Nat) :
    WorkKept s (s.signals n seq queue done inst outcome) ∧
    (∃ l, (s.signals n seq queue done inst outcome).tile n = { s.tile n with weir := { (s.tile n).weir with outbound := l } }) ∧
    (done ≠ 0 → ∃ o ∈ ((s.signals n seq queue done inst outcome).tile n).weir.outbound, o.m = doneSignal n seq done inst outcome) := by
  rw [State.signals]
  split
  next hd => exact ⟨.journal _ _ _ _ _ _, ⟨(s.tile n).weir.outbound, rfl⟩, fun h => absurd hd h⟩
  next =>
    let o : OutEntry := ⟨doneSignal n seq done inst outcome, 0, (s.journal 1 outcome n (BitVec.ofNat 32 seq) queue.toNat).nextId, false, false, s.tc⟩
    have htile := State.tile_modTile_same (s.journal 1 outcome n (BitVec.ofNat 32 seq) queue.toNat) n fun x => x.modWeir fun w =>
      { w with outbound := w.outbound ++ [o] }
    refine ⟨(WorkKept.journal s _ _ _ _ _).trans (.post _ _ _ _), ⟨_, htile⟩, fun _ => ⟨o, ?_, rfl⟩⟩
    rw [show ((s.journal 1 outcome n (BitVec.ofNat 32 seq) queue.toNat).post n 0 (doneSignal n seq done inst outcome)).tile n = _ from htile]
    exact List.mem_append_right _ (List.mem_singleton_self _)

/-- R192, R193: a launch that is over, seen in its tile: nothing changes but that its signal is to be sent. -/
theorem State.complete_spec (s : State) (n seq : Nat) (queue done : BitVec 32) (inst : BitVec 16) (outcome : Nat) (tt : Option Nat) :
    WorkKept s (s.complete n seq queue done inst outcome tt) ∧
    (∃ l, (s.complete n seq queue done inst outcome tt).tile n = { s.tile n with weir := { (s.tile n).weir with outbound := l } }) ∧
    (done ≠ 0 → ∃ o ∈ ((s.complete n seq queue done inst outcome tt).tile n).weir.outbound, o.m = doneSignal n seq done inst outcome) := by
  have h := s.signals_spec n seq queue done inst outcome
  cases tt with
  | none => exact h
  | some e =>
    obtain ⟨hkept, htile, hsig⟩ := h
    exact ⟨hkept.trans (.at_ _ _ _ _), htile, hsig⟩

theorem trackerChange_applies {s : State} {d ix src : Nat} {inc : Bool} {piece : Option Nat}
    (h : (s.tile s.focus.a).workHead s.nc WorkMsg.isTrack = some (d, .track ix inc src piece)) :
    exec .trackerChange s = .next (if inc then ((s.workTaken s.focus.a (d, .track ix inc src piece)).trackerAdd s.focus.a ix inc).sendWork s.focus.a src (.trackAck piece)
      else (s.workTaken s.focus.a (d, .track ix inc src piece)).trackerAdd s.focus.a ix inc) := by
  change execTrackerChange s = _
  simp only [execTrackerChange, State.takeWork_some h]

/-- A tracker that goes on counting. -/
theorem State.trackerAdd_counts {s : State} {n ix : Nat} {inc : Bool} {k : Tracker} (hk : (s.tile n).tracker ix = some k)
    (hn : (if inc then k.count + 1 else k.count - 1) ≠ 0) :
    s.trackerAdd n ix inc = s.modTile n fun x => x.setTracker ix (some { k with count := if inc then k.count + 1 else k.count - 1 }) := by
  simp only [State.trackerAdd, hk, bne_iff_ne.mpr hn, if_true]

theorem trackerChange_adds {s : State} {d ix src : Nat} {piece : Option Nat} {k : Tracker}
    (h : (s.tile s.focus.a).workHead s.nc WorkMsg.isTrack = some (d, .track ix true src piece)) (hk : (s.tile s.focus.a).tracker ix = some k) :
    ∃ t, exec .trackerChange s = .next t ∧ WorkKept s t ∧ (t.tile s.focus.a).tracker ix = some { k with count := k.count + 1 } ∧
      WorkSent s t s.focus.a src (.trackAck piece) := by
  have hu := State.workTaken_tile s s.focus.a (d, .track ix true src piece)
  have hadd := State.trackerAdd_counts (s := s.workTaken s.focus.a (d, .track ix true src piece)) (n := s.focus.a) (inc := true) (ix := ix) (k := k)
    (by rw [hu]; exact hk) (Nat.succ_ne_zero _)
  let u := (s.workTaken s.focus.a (d, .track ix true src piece)).modTile s.focus.a fun x => x.setTracker ix (some { k with count := k.count + 1 })
  have hexec : exec .trackerChange s = .next (u.sendWork s.focus.a src (.trackAck piece)) := by
    rw [trackerChange_applies h, if_pos rfl, hadd]
    rfl
  obtain ⟨l, hl⟩ := u.sendWork_tile s.focus.a src (.trackAck piece)
  rw [State.tile_modTile_same] at hl
  have hkept : WorkKept s u := (WorkKept.workTaken s _ _).trans (.modTile _ _ (f := fun x => x.setTracker ix (some { k with count := k.count + 1 })) fun _ => ⟨rfl, rfl⟩)
  refine ⟨_, hexec, hkept.trans (.sendWork _ _ _ _), ?_, State.sendWork_sent _ _ _ _⟩
  rw [hl]
  exact Tile.tracker_setTracker _ _ _

theorem trackerChange_takes {s : State} {d ix src : Nat} {piece : Option Nat} {k : Tracker}
    (h : (s.tile s.focus.a).workHead s.nc WorkMsg.isTrack = some (d, .track ix false src piece)) (hk : (s.tile s.focus.a).tracker ix = some k)
    (hn : k.count - 1 ≠ 0) :
    ∃ t, exec .trackerChange s = .next t ∧ WorkKept s t ∧ (t.tile s.focus.a).tracker ix = some { k with count := k.count - 1 } := by
  have hu := State.workTaken_tile s s.focus.a (d, .track ix false src piece)
  have hadd := State.trackerAdd_counts (s := s.workTaken s.focus.a (d, .track ix false src piece)) (n := s.focus.a) (inc := false) (ix := ix) (k := k)
    (by rw [hu]; exact hk) hn
  have hexec := trackerChange_applies h
  rw [if_neg Bool.false_ne_true, hadd] at hexec
  refine ⟨_, hexec, (WorkKept.workTaken s _ _).trans
    (.modTile _ _ (f := fun x => x.setTracker ix (some { k with count := k.count - 1 })) fun _ => ⟨rfl, rfl⟩), ?_⟩
  rw [State.tile_modTile_same]
  exact Tile.tracker_setTracker _ _ _

/-- The tile without the tracker of a launch that is over. -/
def Tile.closeLaunch (ix : Nat) (k : Tracker) (x : Tile) : Tile :=
  { x.setTracker ix none with lqOpen := x.lqOpen.filter fun e => e != (hIndex k.queue, k.seq) }

theorem State.trackerAdd_ends {s : State} {n ix : Nat} {k : Tracker} (hk : (s.tile n).tracker ix = some k) (hn : k.count - 1 = 0) :
    s.trackerAdd n ix false = (s.modTile n (Tile.closeLaunch ix k)).complete n k.seq k.queue k.done k.inst 0 k.tt := by
  simp only [State.trackerAdd, hk, Bool.false_eq_true, if_false, hn, bne_self_eq_false]
  rfl

/-- R192: with its last piece a launch is complete, and its done basin hears of it. -/
theorem trackerChange_ends {s : State} {d ix src : Nat} {piece : Option Nat} {k : Tracker}
    (h : (s.tile s.focus.a).workHead s.nc WorkMsg.isTrack = some (d, .track ix false src piece)) (hk : (s.tile s.focus.a).tracker ix = some k)
    (hn : k.count - 1 = 0) :
    ∃ t, exec .trackerChange s = .next t ∧ WorkKept s t ∧ (t.tile s.focus.a).tracker ix = none ∧
      (k.done ≠ 0 → ∃ o ∈ (t.tile s.focus.a).weir.outbound, o.m.handle = k.done ∧ o.m.size = 16 ∧ o.m.payload = k.seq % 2 ^ 32 + k.inst.toNat * 2 ^ 32) := by
  let u := s.workTaken s.focus.a (d, .track ix false src piece)
  have hu : (u.tile s.focus.a).tracker ix = some k := by
    rw [State.workTaken_tile]
    exact hk
  have hexec : exec .trackerChange s = .next ((u.modTile s.focus.a (Tile.closeLaunch ix k)).complete s.focus.a k.seq k.queue k.done k.inst 0 k.tt) := by
    rw [trackerChange_applies h, if_neg Bool.false_ne_true, State.trackerAdd_ends hu hn]
  obtain ⟨hkept, ⟨l, hl⟩, hsig⟩ := (u.modTile s.focus.a (Tile.closeLaunch ix k)).complete_spec s.focus.a k.seq k.queue k.done k.inst 0 k.tt
  rw [State.tile_modTile_same] at hl
  have hclosed : WorkKept s (u.modTile s.focus.a (Tile.closeLaunch ix k)) := (WorkKept.workTaken s _ _).trans (.modTile u _ fun _ => ⟨rfl, rfl⟩)
  refine ⟨_, hexec, hclosed.trans hkept, ?_, fun hdone => ?_⟩
  · rw [hl]
    exact Tile.tracker_setTracker _ _ _
  · obtain ⟨o, ho, hm⟩ := hsig hdone
    exact ⟨o, ho, by rw [hm]; rfl, by rw [hm]; rfl, by rw [hm, doneSignal_payload, Nat.zero_mul, Nat.add_zero]⟩

/-! ### Acknowledgements of a tracker (R185, R190) -/

/-- A +1 that is acknowledged is owed no more. -/
theorem Tile.plusFor_none (x : Tile) (id : Nat) : ∃ l, x.plusFor id none = { x with increments := l } ∧ ∀ e ∈ l, e.2.2 ≠ id := by
  refine ⟨_, rfl, fun e he => ?_⟩
  obtain ⟨c, -, hc⟩ := List.mem_filterMap.mp he
  split at hc
  · cases hc
  · cases hc
    assumption

section
variable {s : State} {d id : Nat} (h : (s.tile s.focus.a).workHead s.nc WorkMsg.isAck = some (d, .trackAck (some id)))
include h

/-- R190: the piece that the tracker has counted goes to its thief. -/
theorem trackerAcknowledgement_answers {p : PendPiece} (hp : (s.tile s.focus.a).pieces.find? (fun p => p.id == id) = some p) :
    ∃ t, exec .trackerAcknowledgement s = .next t ∧ WorkKept s t ∧ WorkSent s t s.focus.a p.thief (.answer (some p.task)) := by
  let u := (s.workTaken s.focus.a (d, .trackAck (some id))).modTile s.focus.a fun x => x.plusFor id none
  have hu : (u.tile s.focus.a).pieces = (s.tile s.focus.a).pieces := by
    rw [State.tile_modTile_same, State.workTaken_tile]
    rfl
  have hexec : exec .trackerAcknowledgement s = .next ((u.modTile s.focus.a fun x => { x with pieces := x.pieces.filter fun q => q.id != id }).sendWork
      s.focus.a p.thief (.answer (some p.task))) := by
    have hfind : (u.tile s.focus.a).pieces.find? (fun p => p.id == id) = some p := by rw [hu, hp]
    change execTrackerAcknowledgement s = _
    simp only [execTrackerAcknowledgement, State.takeWork_some h, u] at hfind ⊢
    simp only [hfind]
  have hkept : WorkKept s u := (WorkKept.workTaken s _ _).trans (.modTile _ _ (f := fun x => x.plusFor id none) fun _ => ⟨rfl, rfl⟩)
  exact ⟨_, hexec, hkept.trans (.trans (.modTile u _ (f := fun x => { x with pieces := x.pieces.filter fun q => q.id != id }) fun _ => ⟨rfl, rfl⟩)
    (.sendWork _ _ _ _)), State.sendWork_sent _ _ _ _⟩

/-- The tile in which a pushed task may be taken. -/
def Tile.mayTake (id : Nat) (x : Tile) : Tile := { x with
  deque := x.deque.map fun e => if e.id = id then { e with takable := true } else e
  spilledTasks := x.spilledTasks.map fun e => if e.1 = id then (e.1, true) else e }

/-- R185: a pushed task that its tracker has counted may be taken. -/
theorem trackerAcknowledgement_releases (hp : (s.tile s.focus.a).pieces.find? (fun p => p.id == id) = none) :
    ∃ t, exec .trackerAcknowledgement s = .next t ∧ WorkKept s t ∧ (∀ d ∈ (t.tile s.focus.a).deque, d.id = id → d.takable = true) ∧
      ∀ e ∈ (t.tile s.focus.a).increments, e.2.2 ≠ id := by
  let u := (s.workTaken s.focus.a (d, .trackAck (some id))).modTile s.focus.a fun x => x.plusFor id none
  have hu : u.tile s.focus.a = ((s.tile s.focus.a).takesWork (d, .trackAck (some id))).plusFor id none := by
    rw [State.tile_modTile_same, State.workTaken_tile]
  have hexec : exec .trackerAcknowledgement s = .next (u.modTile s.focus.a (Tile.mayTake id)) := by
    have hfind : (u.tile s.focus.a).pieces.find? (fun p => p.id == id) = none := by
      rw [hu]
      exact hp
    change execTrackerAcknowledgement s = _
    simp only [execTrackerAcknowledgement, State.takeWork_some h, u] at hfind ⊢
    simp only [hfind]
    rfl
  have hkept : WorkKept s u := (WorkKept.workTaken s _ _).trans (.modTile _ _ (f := fun x => x.plusFor id none) fun _ => ⟨rfl, rfl⟩)
  obtain ⟨l, hl, hnot⟩ := ((s.tile s.focus.a).takesWork (d, .trackAck (some id))).plusFor_none id
  refine ⟨_, hexec, hkept.trans (.modTile u _ fun _ => ⟨rfl, rfl⟩), ?_, ?_⟩ <;> rw [State.tile_modTile_same, hu, hl]
  · intro e he hid
    obtain ⟨c, -, rfl⟩ := List.mem_map.mp he
    by_cases hc : c.id = id
    · rw [if_pos hc]
    · rw [if_neg hc] at hid
      exact absurd hid hc
  · exact hnot

end

end Sys2Proof.Machine
end

section
/-! SUPPORT. What a unit that reads at a home can change (R208, R213, R220): the caches of the tile it reads for, and, where a stash
holds a line, the line's home; never a jet, a pool or a weir. -/
namespace Sys2Proof.Machine

/-- A step of a unit that reads: it touches instruction caches, TLBs and stashes, stops, translation caches and what a stash writes home. -/
structure UnitStep (s t : State) : Prop where
  rest : t = { s with tiles := t.tiles, stops := t.stops, dies := t.dies, dev := { s.dev with poison := t.dev.poison }, mem := t.mem }
  tile : ∀ m, t.tile m = { s.tile m with icache := (t.tile m).icache, tlb := (t.tile m).tlb, stash := (t.tile m).stash }

namespace UnitStep

theorem refl (s : State) : UnitStep s s := ⟨rfl, fun _ => rfl⟩

theorem trans {s t u : State} (h : UnitStep s t) (k : UnitStep t u) : UnitStep s u := by
  refine ⟨?_, fun m => ?_⟩
  · rw [k.rest, h.rest]
  · rw [k.tile, h.tile]

theorem foldl {α : Type} {f : State → α → State} (hf : ∀ s a, UnitStep s (f s a)) (l : List α) (s : State) : UnitStep s (l.foldl f s) := by
  induction l generalizing s with
  | nil => exact .refl s
  | cons a l ih => exact (hf s a).trans (ih _)

theorem foldr {α : Type} {f : α → State → State} (hf : ∀ a s, UnitStep s (f a s)) (l : List α) (s : State) : UnitStep s (l.foldr f s) := by
  induction l with
  | nil => exact .refl s
  | cons a l ih => exact ih.trans (hf a _)

theorem modTile {n : Nat} {s : State} {f : Tile → Tile} (hf : ∀ x, f x = { x with icache := (f x).icache, tlb := (f x).tlb, stash := (f x).stash }) :
    UnitStep s (s.modTile n f) := by
  refine ⟨rfl, fun m => ?_⟩
  by_cases h : m = n
  · rw [h, State.tile_modTile_same]
    exact hf _
  · rw [State.tile_modTile_ne s f h]

theorem modStop (n : Nat) (s : State) (f : Stop → Stop) : UnitStep s (s.modStop n f) := ⟨rfl, fun _ => rfl⟩
theorem modDie (n : Nat) (s : State) (f : Die → Die) : UnitStep s (s.modDie n f) := ⟨rfl, fun _ => rfl⟩
theorem stashHome (s : State) (l : StashLine) : UnitStep s (s.stashHome l) := ⟨rfl, fun _ => rfl⟩

end UnitStep

/-- The copies of a line that stashes hold are dropped. -/
def Tile.dropCopy (line : Nat) (x : Tile) : Tile := { x with stash := x.stash.filter (·.pa != line) }
/-- The copies of a line that stashes hold are owned no more. -/
def Tile.disown (line : Nat) (x : Tile) : Tile := { x with stash := x.stash.map fun l => if l.pa = line then { l with owned := false } else l }

theorem UnitStep.recall (s : State) (pa : Nat) (write : Bool) : UnitStep s (s.recall pa write) := by
  rw [State.recall]
  split
  next => exact .refl s
  next d hd =>
    have hhome : ∀ u, u = (match d.owner with
        | none => s
        | some o => match (s.tile o).stash.find? fun l => l.pa == pa / 128 && l.owned with | none => s | some l => s.stashHome l) → UnitStep s u := by
      rintro u rfl
      split
      · exact .refl s
      · split
        · exact .refl s
        · exact .stashHome s _
    dsimp only
    split
    · exact ((hhome _ rfl).trans (.foldl (f := fun u n => u.modTile n (Tile.dropCopy (pa / 128))) (fun _ _ => .modTile fun _ => rfl) _ _)).trans (.modStop _ _ _)
    · exact ((hhome _ rfl).trans (.foldl (f := fun u n => u.modTile n (Tile.disown (pa / 128))) (fun _ _ => .modTile fun _ => rfl) _ _)).trans (.modStop _ _ _)

/-- Where no stash holds a line, nothing is recalled. -/
theorem State.recall_calm {s : State} (h : ∀ q, (s.stop q).dir = []) (pa : Nat) (write : Bool) : s.recall pa write = s := by
  have hnone : (s.stop (homeOf pa)).dirOf (pa / 128) = none := by
    rw [Stop.dirOf, h]
    rfl
  simp only [State.recall, hnone]

/-- A step that keeps memory, and lets no stash hold a line, where none holds one. -/
def Calm (s t : State) : Prop := (∀ q, (s.stop q).dir = []) → t.mem = s.mem ∧ ∀ q, (t.stop q).dir = []

namespace Calm

theorem refl (s : State) : Calm s s := fun h => ⟨rfl, h⟩

theorem trans {s t u : State} (h : Calm s t) (k : Calm t u) : Calm s u := fun hdir => by
  obtain ⟨hmem, hdir'⟩ := h hdir
  obtain ⟨kmem, kdir⟩ := k hdir'
  exact ⟨kmem.trans hmem, kdir⟩

theorem foldl {α : Type} {f : State → α → State} (hf : ∀ s a, Calm s (f s a)) (l : List α) (s : State) : Calm s (l.foldl f s) := by
  induction l generalizing s with
  | nil => exact .refl s
  | cons a l ih => exact (hf s a).trans (ih _)

theorem foldr {α : Type} {f : α → State → State} (hf : ∀ a s, Calm s (f a s)) (l : List α) (s : State) : Calm s (l.foldr f s) := by
  induction l with
  | nil => exact .refl s
  | cons a l ih => exact ih.trans (hf a _)

theorem of_stops {s t : State} (hmem : t.mem = s.mem) (hstops : t.stops = s.stops) : Calm s t := fun h => ⟨hmem, fun q => by
  rw [State.stop, hstops]
  exact h q⟩

theorem modStop {n : Nat} {s : State} {f : Stop → Stop} (hf : ∀ x, (f x).dir = x.dir) : Calm s (s.modStop n f) :=
  fun h => ⟨rfl, fun q => (State.modStop_keeps Stop.dir hf s n q).trans (h q)⟩

theorem recalls (s : State) (pa : Nat) (write : Bool) : Calm s (s.recall pa write) := fun h => by
  rw [State.recall_calm h]
  exact ⟨rfl, h⟩

end Calm

/-- Both at once: a unit's step that leaves memory alone where no stash holds a line. -/
def UnitReads (s t : State) : Prop := UnitStep s t ∧ Calm s t

namespace UnitReads

theorem refl (s : State) : UnitReads s s := ⟨.refl s, .refl s⟩
theorem trans {s t u : State} (h : UnitReads s t) (k : UnitReads t u) : UnitReads s u := ⟨h.1.trans k.1, h.2.trans k.2⟩
theorem foldl {α : Type} {f : State → α → State} (hf : ∀ s a, UnitReads s (f s a)) (l : List α) (s : State) : UnitReads s (l.foldl f s) :=
  ⟨.foldl (fun s a => (hf s a).1) l s, .foldl (fun s a => (hf s a).2) l s⟩
theorem foldr {α : Type} {f : α → State → State} (hf : ∀ a s, UnitReads s (f a s)) (l : List α) (s : State) : UnitReads s (l.foldr f s) :=
  ⟨.foldr (fun a s => (hf a s).1) l s, .foldr (fun a s => (hf a s).2) l s⟩
theorem modTile {n : Nat} {s : State} {f : Tile → Tile} (hf : ∀ x, f x = { x with icache := (f x).icache, tlb := (f x).tlb, stash := (f x).stash }) :
    UnitReads s (s.modTile n f) := ⟨.modTile hf, .of_stops rfl rfl⟩
theorem modStop {n : Nat} {s : State} {f : Stop → Stop} (hf : ∀ x, (f x).dir = x.dir) : UnitReads s (s.modStop n f) := ⟨.modStop _ _ _, .modStop hf⟩
theorem modDie (n : Nat) (s : State) (f : Die → Die) : UnitReads s (s.modDie n f) := ⟨.modDie _ _ _, .of_stops rfl rfl⟩
theorem recalls (s : State) (pa : Nat) (write : Bool) : UnitReads s (s.recall pa write) := ⟨.recall _ _ _, .recalls _ _ _⟩

end UnitReads

theorem Stop.fill_dir (x : Stop) (line : Nat) : (x.fill line).dir = x.dir := by
  rw [Stop.fill]
  split
  · rfl
  · split <;> rfl

theorem UnitReads.l2Use (s : State) (line : Nat) (write : Bool) : UnitReads s (s.l2Use line write) := .modStop fun x => by
  dsimp only
  split
  · exact x.fill_dir line
  · exact x.fill_dir line

theorem UnitReads.unitUse (s : State) (pa n : Nat) (write : Bool) : UnitReads s (s.unitUse pa n write) := .foldl (fun s l => by
  dsimp only
  split
  · exact (UnitReads.recalls _ _ _).trans (.l2Use _ _ _)
  · exact .recalls _ _ _) _ s

theorem UnitReads.unitRead (s : State) (pa n : Nat) : UnitReads s (s.unitRead pa n).2 := by
  rw [State.unitRead]
  split
  · exact .unitUse s pa n false
  · exact .refl s

theorem UnitReads.askUnit (s : State) (q id pa n d : Nat) : UnitReads s (s.askUnit q id pa n d) :=
  .modStop (f := fun x => { x with inject := x.inject ++ [s.packet (s.homeDev pa) q (homePort pa).1 (homePort pa).2 1 d (.read q id 0 pa n)] }) fun _ => rfl

theorem UnitReads.walkReads (s : State) (t va : Nat) : UnitReads s (s.walkReads t va) := by
  rw [State.walkReads]
  split
  · exact .refl s
  · exact .foldr (fun a s => .unitRead s a 8) _ s

theorem UnitReads.cacheFor (s : State) (t va nb : Nat) (st : Bool) : UnitReads s (s.cacheFor t va nb st) := .foldl (fun s e => by
  dsimp only
  split
  · exact .refl s
  · split
    · exact (UnitReads.modTile fun _ => rfl).trans (.modDie _ _ _)
    · exact .refl s) _ s

theorem UnitReads.walked (s : State) (t va nb : Nat) (st : Bool) : UnitReads s (s.walked t va nb st) :=
  (UnitReads.foldl (fun s e => by
    dsimp only
    split
    · exact .refl s
    · exact .walkReads s _ _) _ s).trans (.cacheFor _ _ _ _ _)

theorem UnitReads.fetchLine (s : State) (t line : Nat) : UnitReads s (s.fetchLine t line).1 := by
  rw [State.fetchLine]
  have hwalked := UnitReads.walked s t (128 * line) 128 false
  split
  · exact hwalked
  · split
    · exact hwalked.trans (.askUnit _ _ _ _ _ _)
    · exact ((hwalked.trans (.askUnit _ _ _ _ _ _)).trans (.unitRead _ _ _)).trans (.modTile (f := fun x => x.ifill _) fun _ => rfl)

theorem Tile.touchLine_eq (x : Tile) (a : BitVec 64) : ∃ l, x.touchLine a = { x with icache := l } := by
  rw [Tile.touchLine]
  split
  · exact ⟨_, rfl⟩
  · exact ⟨x.icache, rfl⟩

theorem UnitReads.touchLine (s : State) (t : Nat) (a : BitVec 64) : UnitReads s (s.modTile t fun x => x.touchLine a) :=
  .modTile fun x => by
    obtain ⟨l, hl⟩ := x.touchLine_eq a
    rw [hl]

/-- The line at an address is touched where it is cached, or fetched. -/
def State.lineRead (s : State) (t a : Nat) : State :=
  match (s.tile t).iline (BitVec.ofNat 64 a) with
  | some _ => s.modTile t fun x => x.touchLine (BitVec.ofNat 64 a)
  | none => (s.fetchLine t (a / 128)).1

theorem State.headerRead_eq (s : State) (t entry : Nat) :
    s.headerRead t entry = if !hdrAligned entry then s else s.lineRead t (hdrAt entry) := rfl

theorem UnitReads.lineRead (s : State) (t a : Nat) : UnitReads s (s.lineRead t a) := by
  rw [State.lineRead]
  split
  · exact .touchLine s t _
  · exact .fetchLine s t _

/-- The header of a body is read through the tile's instruction cache. -/
theorem UnitReads.headerRead (s : State) (t entry : Nat) : UnitReads s (s.headerRead t entry) := by
  rw [State.headerRead_eq]
  split
  · exact .refl s
  · exact .lineRead s t _

end Sys2Proof.Machine
end

section
/-! SUPPORT and PROOFS. Launches (R191, R193), the husk master (R194, R196) and the time-triggered table (R205, R206). Settles the statement of
the events of work. -/
namespace Sys2Proof.Machine

/-! ### The dispatcher -/

/-- Memory as it was where no stash holds a line, and every jet as it was. -/
def CalmJets (s t : State) : Prop := ((∀ q, (s.stop q).dir = []) → t.mem = s.mem) ∧ ∀ m i, t.jet m i = s.jet m i

theorem CalmJets.trans_kept {s t u : State} (h : CalmJets s t) (k : WorkKept t u) : CalmJets s u :=
  ⟨fun hdir => k.mem.trans (h.1 hdir), fun m i => (k.jets m i).trans (h.2 m i)⟩

theorem UnitReads.calmJets {s t : State} (h : UnitReads s t) : CalmJets s t :=
  ⟨fun hdir => (h.2 hdir).1, fun m i => by rw [State.jet, State.jet, h.1.tile]; rfl⟩

theorem CalmJets.modTile {s t : State} (h : CalmJets s t) (n : Nat) {f : Tile → Tile} (hf : ∀ x : Tile, (f x).jets = x.jets) : CalmJets s (t.modTile n f) := by
  refine ⟨h.1, fun m i => ?_⟩
  by_cases hm : m = n
  · rw [State.jet, hm, State.tile_modTile_same, Tile.jet, hf]
    exact h.2 n i
  · rw [State.jet, State.tile_modTile_ne _ f hm]
    exact h.2 m i

theorem Tile.acquire_eq (x : Tile) (ms : List (Option Scope × Bool)) : ∃ a l, x.acquire ms = { x with acc := a, l1 := l } := by
  rw [Tile.acquire]
  split
  · exact ⟨_, _, rfl⟩
  · split
    · exact ⟨_, _, rfl⟩
    · exact ⟨x.acc, x.l1, rfl⟩

/-- The basin without its oldest message. -/
def Basin.pops (k : Basin) : Basin := { k with slots := k.slots.tail }

/-- The tile that has taken a launch record: its basin without its oldest, its queue's count one more. -/
def Tile.popsLaunch (b : Nat) (x : Tile) : Tile :=
  { x with weir := x.weir.modBasin b Basin.pops, lqSeq := Tbl.set x.lqSeq b (Tbl.get 0 x.lqSeq b + 1) }

theorem Tile.takeLaunch_eq (x : Tile) (b : Nat) (m : Held) : ∃ a l, x.takeLaunch b m = { x.popsLaunch b with acc := a, l1 := l } := by
  obtain ⟨a, l, h⟩ := x.acquire_eq [(m.rel, m.relAll)]
  exact ⟨a, l, by rw [Tile.takeLaunch, h]; rfl⟩

/-- The state u in which the dispatcher of tile n has taken a record. -/
def State.launchFrom (u : State) (n b : Nat) (m : Held) : State := u.modTile n fun x => x.takeLaunch b m

theorem State.launchFrom_spec {s u : State} (hread : UnitReads s u) (n b : Nat) (m : Held) : CalmJets s (u.launchFrom n b m) ∧
    ∃ a l i v w, (u.launchFrom n b m).tile n = { (s.tile n).popsLaunch b with acc := a, l1 := l, icache := i, tlb := v, stash := w } := by
  refine ⟨hread.calmJets.modTile n fun x => ?_, ?_⟩
  · obtain ⟨a, l, h⟩ := x.takeLaunch_eq b m
    rw [h]
    rfl
  · obtain ⟨a, l, h⟩ := (u.tile n).takeLaunch_eq b m
    rw [State.launchFrom, State.tile_modTile_same, h, hread.1.tile n]
    exact ⟨_, _, _, _, _, rfl⟩

/-- The state in which the header of a launch's body has been read and the record taken. -/
def State.launchTaken (s : State) (n b : Nat) (m : Held) : State := (s.headerRead n (Task.ofImage m.payload).entry.toNat).launchFrom n b m

theorem State.launchTaken_spec (s : State) (n b : Nat) (m : Held) : CalmJets s (s.launchTaken n b m) ∧
    ∃ a l i v w, (s.launchTaken n b m).tile n = { (s.tile n).popsLaunch b with acc := a, l1 := l, icache := i, tlb := v, stash := w } :=
  State.launchFrom_spec (UnitReads.headerRead s n (Task.ofImage m.payload).entry.toNat) n b m

theorem State.dispatch_of {s : State} {n b : Nat} {m : Held} {d : Dispatch} (h : s.dispatchable n = some (b, m, d)) : s.dispatchOf n b m = d := by
  rw [State.dispatchable] at h
  split at h
  · cases h
  obtain ⟨q, -, hq⟩ := List.exists_of_findSome?_eq_some h
  dsimp only at hq
  split at hq
  · cases hq
  obtain ⟨m', -, hm'⟩ := Option.bind_eq_some_iff.mp hq
  split at hm'
  · split at hm'
    · cases hm'
    · cases hm'
      rfl
  · cases hm'

/-- A launch that goes has a free tracker. -/
theorem State.dispatch_go {s : State} {n b : Nat} {m : Held} (h : s.dispatchOf n b m = .go) :
    ∃ i, (List.range 16).find? (fun i => ((s.tile n).tracker i).isNone) = some i := by
  rw [State.dispatchOf] at h
  split at h
  · cases h
  split at h
  · cases h
  split at h
  · cases h
  split at h
  · cases h
  next hfree =>
    rw [← Option.isSome_iff_exists, List.find?_isSome]
    simp only [Bool.or_eq_true, not_or, List.all_eq_true, not_forall] at hfree
    obtain ⟨⟨i, hi, hnone⟩, -⟩ := hfree
    exact ⟨i, hi, by rw [← Option.not_isSome, Bool.not_eq_true', ← Bool.not_eq_true]; exact hnone⟩

theorem launchDispatch_as {s : State} {b : Nat} {m : Held} {d : Dispatch} (h : s.dispatchable s.focus.a = some (b, m, d)) :
    exec .launchDispatch s = .next (s.dispatchAs s.focus.a b m d) := by
  change execLaunchDispatch s = _
  simp only [execLaunchDispatch, h]

/-- R191: the task a launch record becomes, counted by a tracker of the tile. -/
def launchTask (n ix hd : Nat) (k : Task) : Task :=
  { k with tracked := true, ttile := BitVec.ofNat 10 n, tindex := BitVec.ofNat 4 ix, frame := BitVec.ofNat 7 (fld hd 0 7), role := hdrRole hd }

/-- A launch whose record has been taken: its tracker i stands, and its task waits among the ready records. -/
def State.launchGoes (u s : State) (n b i hd : Nat) (m : Held) : State :=
  let k := launchTask n i hd (Task.ofImage m.payload)
  let seq := Tbl.get 0 (s.tile n).lqSeq b
  u.take.2.modTile n fun x => x.openLaunch b seq i ⟨1, k.done, seq, handleOf s.dev.device n b ((s.tile n).weir.gen b), k.inst, m.tt⟩
    { k.record u.nextId s.tc s.dev.time with badHeader := hdrBad hd }

/-- The tracker that a launch takes: the first free one. -/
def Tile.freeTracker (x : Tile) : Nat := ((List.range 16).find? fun i => (x.tracker i).isNone).getD 0

theorem State.dispatchAs_goes (s : State) (n b : Nat) (m : Held) :
    s.dispatchAs n b m .go = (s.launchTaken n b m).launchGoes s n b (s.tile n).freeTracker ((s.header n (Task.ofImage m.payload).entry.toNat).getD 0) m := rfl

/-- What a launch that goes leaves: one ready record more, and a tracker that counts one piece. -/
theorem State.launchGoes_spec {u s : State} {n b i : Nat} (hd : Nat) (m : Held) (hi : i < 16) {x : Tile} (hu : u.tile n = x) (hcalm : CalmJets s u)
    (hready : x.ready = (s.tile n).ready) :
    CalmJets s (u.launchGoes s n b i hd m) ∧ ∃ q k, ((u.launchGoes s n b i hd m).tile n).ready = (s.tile n).ready ++ [q] ∧ q.task = some k ∧
      k.tracked = true ∧ k.ttile = BitVec.ofNat 10 n ∧ k.tindex.toNat = i ∧ q.entry = k.entry ∧ k.lo = (Task.ofImage m.payload).lo ∧
      k.hi = (Task.ofImage m.payload).hi ∧ k.inst = (Task.ofImage m.payload).inst ∧
      ∃ r, ((u.launchGoes s n b i hd m).tile n).tracker i = some r ∧ r.count = 1 ∧ r.done = k.done ∧ r.seq = Tbl.get 0 (s.tile n).lqSeq b := by
  rw [State.launchGoes]
  generalize hk : launchTask n i hd (Task.ofImage m.payload) = k
  generalize hq : ({ k.record u.nextId s.tc s.dev.time with badHeader := hdrBad hd } : Ready) = q
  generalize hr : (⟨1, k.done, Tbl.get 0 (s.tile n).lqSeq b, handleOf s.dev.device n b ((s.tile n).weir.gen b), k.inst, m.tt⟩ : Tracker) = r
  have htile := State.tile_modTile_same u.take.2 n fun x => x.openLaunch b (Tbl.get 0 (s.tile n).lqSeq b) i r q
  rw [show u.take.2.tile n = x from hu] at htile
  refine ⟨CalmJets.modTile ⟨hcalm.1, hcalm.2⟩ _ (f := fun x => x.openLaunch b (Tbl.get 0 (s.tile n).lqSeq b) i r q) fun _ => rfl, q, k, ?_, by rw [← hq]; rfl, by rw [← hk]; rfl, by rw [← hk]; rfl, ?_, by rw [← hq]; rfl,
    by rw [← hk]; rfl, by rw [← hk]; rfl, by rw [← hk]; rfl, r, ?_, by rw [← hr], by rw [← hr], by rw [← hr]⟩
  · rw [htile, ← hready]
    rfl
  · rw [← hk]
    change (BitVec.ofNat 4 i).toNat = i
    rw [BitVec.toNat_ofNat]
    exact Nat.mod_eq_of_lt hi
  · rw [htile]
    exact Tile.tracker_setTracker _ _ _

theorem launchDispatch_goes {s : State} {b : Nat} {m : Held} (h : s.dispatchable s.focus.a = some (b, m, .go)) :
    ∃ t q i k, exec .launchDispatch s = .next t ∧ CalmJets s t ∧ (t.tile s.focus.a).ready = (s.tile s.focus.a).ready ++ [q] ∧ q.task = some k ∧
      k.tracked = true ∧ k.ttile = BitVec.ofNat 10 s.focus.a ∧ k.tindex.toNat = i ∧ q.entry = k.entry ∧
      k.lo = (Task.ofImage m.payload).lo ∧ k.hi = (Task.ofImage m.payload).hi ∧ k.inst = (Task.ofImage m.payload).inst ∧
      (s.tile s.focus.a).tracker i = none ∧
      ∃ r, (t.tile s.focus.a).tracker i = some r ∧ r.count = 1 ∧ r.done = k.done ∧ r.seq = Tbl.get 0 (s.tile s.focus.a).lqSeq b := by
  obtain ⟨i, hi⟩ := State.dispatch_go (State.dispatch_of h)
  have hi16 : i < 16 := List.mem_range.mp (List.mem_of_find?_eq_some hi)
  have hnone : (s.tile s.focus.a).tracker i = none := Option.isNone_iff_eq_none.mp (List.find?_some (p := fun i => ((s.tile s.focus.a).tracker i).isNone) hi)
  have hfree : (s.tile s.focus.a).freeTracker = i := by rw [Tile.freeTracker, hi, Option.getD_some]
  obtain ⟨hcalm, a, l, c, v, w, htile⟩ := s.launchTaken_spec s.focus.a b m
  have hexec := launchDispatch_as h
  rw [State.dispatchAs_goes, hfree] at hexec
  obtain ⟨hcalm', q, k, hready, htask, htr, htt, hti, hentry, hlo, hhi, hinst, hr⟩ :=
    State.launchGoes_spec (b := b) ((s.header s.focus.a (Task.ofImage m.payload).entry.toNat).getD 0) m hi16 htile hcalm rfl
  exact ⟨_, q, i, k, hexec, hcalm', hready, htask, htr, htt, hti, hentry, hlo, hhi, hinst, hnone, hr⟩

theorem doneSignal_outcome (n seq : Nat) (done : BitVec 32) (inst : BitVec 16) (outcome : Nat) :
    (doneSignal n seq done inst outcome).payload / 2 ^ 48 = outcome := by
  rw [doneSignal_payload]
  have := inst.isLt
  omega

theorem State.dispatchAs_ends {s : State} {n b : Nat} {m : Held} {d : Dispatch} (hd : d = .malformed ∨ d = .husked) :
    s.dispatchAs n b m d = (s.launchTaken n b m).complete n (Tbl.get 0 (s.tile n).lqSeq b) (handleOf s.dev.device n b ((s.tile n).weir.gen b))
      (Task.ofImage m.payload).done (Task.ofImage m.payload).inst (if d = .malformed then 2 else 1) m.tt := by
  rcases hd with rfl | rfl <;> rfl

/-- R193: a record that is none, or husked, is over with that outcome. -/
theorem launchDispatch_ends {s : State} {b : Nat} {m : Held} {d : Dispatch} (h : s.dispatchable s.focus.a = some (b, m, d)) (hd : d = .malformed ∨ d = .husked) :
    ∃ t, exec .launchDispatch s = .next t ∧ CalmJets s t ∧ (t.tile s.focus.a).ready = (s.tile s.focus.a).ready ∧
      Tbl.get 0 (t.tile s.focus.a).lqSeq b = Tbl.get 0 (s.tile s.focus.a).lqSeq b + 1 ∧
      (∀ k, (s.tile s.focus.a).weir.basin b = some k → ∃ l, (t.tile s.focus.a).weir.basin b = some l ∧ l.slots = k.slots.tail) ∧
      ((Task.ofImage m.payload).done ≠ 0 → ∃ o ∈ (t.tile s.focus.a).weir.outbound, o.m.handle = (Task.ofImage m.payload).done ∧
        o.m.payload / 2 ^ 48 = if d = .malformed then 2 else 1) := by
  have hexec := launchDispatch_as h
  rw [State.dispatchAs_ends hd] at hexec
  obtain ⟨hcalm, a, l, c, v, w, htile⟩ := s.launchTaken_spec s.focus.a b m
  obtain ⟨hkept, ⟨out, hout⟩, hsig⟩ := (s.launchTaken s.focus.a b m).complete_spec s.focus.a (Tbl.get 0 (s.tile s.focus.a).lqSeq b)
    (handleOf s.dev.device s.focus.a b ((s.tile s.focus.a).weir.gen b)) (Task.ofImage m.payload).done (Task.ofImage m.payload).inst (if d = .malformed then 2 else 1) m.tt
  rw [htile] at hout
  refine ⟨_, hexec, hcalm.trans_kept hkept, by rw [hout]; rfl, ?_, fun k hk => ?_, fun hdone => ?_⟩
  · rw [hout]
    exact Tbl.get_set_same 0 (s.tile s.focus.a).lqSeq b _
  · rw [hout]
    exact ⟨k.pops, Tile.basin_modBasin _ _ hk, rfl⟩
  · obtain ⟨o, ho, hm⟩ := hsig hdone
    exact ⟨o, ho, by rw [hm]; rfl, by rw [hm, doneSignal_outcome]⟩

/-! ### The husk master -/

/-- The list begins to be copied to every die and tile. -/
def State.huskCopies (s : State) (r : HuskReq) (l : List (BitVec 16)) : State :=
  (s.drawDelay.2.modDev fun x => { x with husks := l, huskCopy := some (r, 0, 0) }).after (1 + s.drawDelay.1) .huskCopyDone ⟨0, 0, 0, 0, 0⟩

/-- The master has taken a request. -/
def State.huskTaken (s : State) (r : HuskReq) : State := s.modDev fun d => { d with huskQ := d.huskQ.erase r }

theorem State.huskCopies_spec (s : State) (r : HuskReq) (l : List (BitVec 16)) : WorkKept s ((s.huskTaken r).huskCopies r l) ∧
    ((s.huskTaken r).huskCopies r l).dev.husks = l ∧ ((s.huskTaken r).huskCopies r l).dev.huskCopy = some (r, 0, 0) ∧
    ((s.huskTaken r).huskCopies r l).dev.huskQ = s.dev.huskQ.erase r := ⟨.of_tiles rfl rfl, rfl, rfl, rfl⟩

section
variable {s : State} {r : HuskReq} (h : s.dev.huskFirst s.nc = some r)
include h

theorem huskRequest_adds (hclear : r.clear = false) (hnew : r.inst ∉ s.dev.husks) (hroom : s.dev.husks.length < 64) :
    ∃ t, exec .huskRequest s = .next t ∧ WorkKept s t ∧ t.dev.husks = s.dev.husks ++ [r.inst] ∧ t.dev.huskCopy = some (r, 0, 0) ∧
      t.dev.huskQ = s.dev.huskQ.erase r := by
  have hhas : s.dev.husks.contains r.inst = false := by rwa [← Bool.not_eq_true, List.contains_iff_mem]
  have hexec : exec .huskRequest s = .next ((s.huskTaken r).huskCopies r (s.dev.husks ++ [r.inst])) := by
    change execHuskRequest s = _
    simp only [execHuskRequest, h, hclear, hhas, Bool.false_eq_true, if_false, if_neg (Nat.not_le.mpr hroom)]
    rfl
  exact ⟨_, hexec, s.huskCopies_spec r _⟩

theorem huskRequest_clears (hclear : r.clear = true) (hin : r.inst ∈ s.dev.husks) :
    ∃ t, exec .huskRequest s = .next t ∧ WorkKept s t ∧ r.inst ∉ t.dev.husks ∧ t.dev.huskCopy = some (r, 0, 0) := by
  have hhas : s.dev.husks.contains r.inst = true := List.contains_iff_mem.mpr hin
  have hexec : exec .huskRequest s = .next ((s.huskTaken r).huskCopies r (s.dev.husks.filter (· != r.inst))) := by
    change execHuskRequest s = _
    simp only [execHuskRequest, h, hclear, hhas, if_true]
    rfl
  obtain ⟨hkept, hlist, hcopy, -⟩ := s.huskCopies_spec r (s.dev.husks.filter (· != r.inst))
  refine ⟨_, hexec, hkept, fun hmem => ?_, hcopy⟩
  rw [hlist] at hmem
  exact bne_iff_ne.mp (List.mem_filter.mp hmem).2 rfl

/-- R196: a request that changes nothing is answered at once: 2 where the program number is husked, else 1. -/
theorem huskRequest_fails {o : Owed} (htt : r.tt = none) (ho : (s.jet r.tile r.slot).findOwed r.owedId = some o)
    (hno : r.clear = true ∧ r.inst ∉ s.dev.husks ∨ r.clear = false ∧ (r.inst ∈ s.dev.husks ∨ 64 ≤ s.dev.husks.length)) :
    ∃ t p, exec .huskRequest s = .next t ∧ t.dev.husks = s.dev.husks ∧ (t.jet r.tile r.slot).findOwed r.owedId = some p ∧
      p.w = [⟨scatter o.dst (if r.clear = false ∧ r.inst ∈ s.dev.husks then 2 else 1), []⟩] := by
  have hexec : exec .huskRequest s = .next ((s.huskTaken r).huskAnswer r (if r.clear = false ∧ r.inst ∈ s.dev.husks then 2 else 1)) := by
    change execHuskRequest s = _
    by_cases hin : r.inst ∈ s.dev.husks
    · have hclear : r.clear = false := hno.elim (fun h => absurd hin h.2) (·.1)
      simp only [execHuskRequest, h, hclear, hin, List.contains_iff_mem.mpr hin, Bool.false_eq_true, if_false, if_true, and_self]
      rfl
    · have hhas : s.dev.husks.contains r.inst = false := by rwa [← Bool.not_eq_true, List.contains_iff_mem]
      rcases hno with ⟨hclear, -⟩ | ⟨hclear, hfull⟩
      · simp only [execHuskRequest, h, hclear, hin, hhas, Bool.false_eq_true, if_false, if_true, and_false]
        rfl
      · simp only [execHuskRequest, h, hclear, hin, hhas, Bool.false_eq_true, if_false, and_false, if_pos (hfull.resolve_left hin)]
        rfl
  generalize (if r.clear = false ∧ r.inst ∈ s.dev.husks then 2 else 1) = v at hexec ⊢
  simp only [State.huskAnswer, htt] at hexec
  refine ⟨_, { o with w := [⟨scatter o.dst v, []⟩], flags := [0] }, hexec, rfl, ?_, rfl⟩
  have howes : (((s.huskTaken r).tile r.tile).jet r.slot).owes r.owedId = true := Jet.owes_of_findOwed ho
  rw [State.jet, State.settle_tile, Tile.settled, if_pos howes, Tile.jet_modJet_same]
  exact Jet.findOwed_fillOwed ho

end

/-- A die with the list of husks in its table, and a tile with as much of it as its set holds. -/
def Die.huskList (l : List (BitVec 16)) (x : Die) : Die := { x with huskTable := l }
def Tile.huskList (l : List (BitVec 16)) (x : Tile) : Tile := { x with huskSet := l.take 16, huskMore := decide (16 < l.length) }

theorem State.foldl_modDie (f : Die → Die) (l : List Nat) (s : State) : (l.foldl (fun (s : State) d => s.modDie d f) s).tiles = s.tiles ∧
    (l.foldl (fun (s : State) d => s.modDie d f) s).mem = s.mem ∧
    ∀ {α : Type} (g : Die → α) (v : α), (∀ x, g (f x) = v) → ∀ d, d ∈ l ∨ g (s.die d) = v → g ((l.foldl (fun (s : State) d => s.modDie d f) s).die d) = v := by
  induction l generalizing s with
  | nil => exact ⟨rfl, rfl, fun g v _ d h => h.resolve_left List.not_mem_nil⟩
  | cons a r ih =>
    obtain ⟨htiles, hmem, hdie⟩ := ih (s.modDie a f)
    refine ⟨htiles, hmem, fun g v hv d hd => hdie g v hv d ?_⟩
    by_cases ha : d = a
    · subst ha
      right
      rw [State.die_modDie_same, hv]
    · exact (hd.imp (fun h => (List.mem_cons.mp h).resolve_left ha) fun h => by rw [State.die_modDie_ne _ _ ha, h])

theorem State.foldl_modTile (f : Tile → Tile) (l : List Nat) (s : State) : (l.foldl (fun (s : State) n => s.modTile n f) s).dies = s.dies ∧
    (l.foldl (fun (s : State) n => s.modTile n f) s).mem = s.mem ∧
    ∀ {α : Type} (g : Tile → α) (v : α), (∀ x, g (f x) = v) → ∀ n, n ∈ l ∨ g (s.tile n) = v → g ((l.foldl (fun (s : State) n => s.modTile n f) s).tile n) = v := by
  induction l generalizing s with
  | nil => exact ⟨rfl, rfl, fun g v _ d h => h.resolve_left List.not_mem_nil⟩
  | cons a r ih =>
    obtain ⟨hdies, hmem, htile⟩ := ih (s.modTile a f)
    refine ⟨hdies, hmem, fun g v hv n hn => htile g v hv n ?_⟩
    by_cases ha : n = a
    · subst ha
      right
      rw [State.tile_modTile_same, hv]
    · exact (hn.imp (fun h => (List.mem_cons.mp h).resolve_left ha) fun h => by rw [State.tile_modTile_ne _ _ ha, h])

/-- Every die and every tile of a list holds the husks. -/
def State.huskCopied (ns : List Nat) (s : State) : State :=
  ns.foldl (fun (u : State) n => u.modTile n (Tile.huskList s.dev.husks))
    ((List.range 4).foldl (fun (u : State) d => u.modDie d (Die.huskList s.dev.husks)) s)

theorem State.huskCopied_spec (ns : List Nat) (s : State) : (s.huskCopied ns).mem = s.mem ∧
    (∀ d, d < 4 → ((s.huskCopied ns).die d).huskTable = s.dev.husks) ∧
    ∀ n ∈ ns, ((s.huskCopied ns).tile n).huskSet = s.dev.husks.take 16 ∧ ((s.huskCopied ns).tile n).huskMore = decide (16 < s.dev.husks.length) := by
  obtain ⟨-, hmem, hdie⟩ := State.foldl_modDie (Die.huskList s.dev.husks) (List.range 4) s
  obtain ⟨hdies, hmem', htile⟩ := State.foldl_modTile (Tile.huskList s.dev.husks) ns
    ((List.range 4).foldl (fun (u : State) d => u.modDie d (Die.huskList s.dev.husks)) s)
  refine ⟨hmem'.trans hmem, fun d hd => ?_, fun n hn => ⟨?_, ?_⟩⟩
  · have h := hdie Die.huskTable s.dev.husks (fun _ => rfl) d (.inl (List.mem_range.mpr hd))
    rwa [State.die, ← hdies] at h
  · exact htile Tile.huskSet _ (fun _ => rfl) n (.inl hn)
  · exact htile Tile.huskMore _ (fun _ => rfl) n (.inl hn)

/-- The copy is over, and its request is answered. -/
def State.huskDone (ns : List Nat) (s : State) : Out :=
  match s.dev.huskCopy with
  | none => .next s
  | some (r, _, _) => .next (((s.huskCopied ns).modDev fun d => { d with huskCopy := none }).huskAnswer r 0)

theorem huskCopyDone_eq (s : State) : exec .huskCopyDone s = s.huskDone (List.range Config.tiles) := rfl

/-- R194: a tile whose set holds the first 16 of the list, and whose die's table all of it, answers by the list. -/
theorem husked_iff {x : Tile} {l : List (BitVec 16)} (hset : x.huskSet = l.take 16) (hmore : x.huskMore = decide (16 < l.length)) (i : BitVec 16) :
    (x.huskSet.contains i || (x.huskMore && l.contains i)) = true ↔ i ∈ l := by
  rw [hset, hmore, Bool.or_eq_true, Bool.and_eq_true, decide_eq_true_eq, List.contains_iff_mem, List.contains_iff_mem]
  constructor
  · exact fun h => h.elim List.mem_of_mem_take And.right
  · intro h
    by_cases hlen : 16 < l.length
    · exact .inr ⟨hlen, h⟩
    · exact .inl (by rwa [List.take_of_length_le (by omega)])

theorem State.settle_husks (s : State) (n k id lat v m : Nat) : ((s.settle n k id lat v).tile m).huskSet = (s.tile m).huskSet ∧
    ((s.settle n k id lat v).tile m).huskMore = (s.tile m).huskMore := by
  by_cases h : m = n
  · rw [h, State.settle_tile, Tile.settled]
    split <;> exact ⟨rfl, rfl⟩
  · rw [show (s.settle n k id lat v).tile m = s.tile m from State.tile_modTile_ne s (Tile.settled k id v) h]
    exact ⟨rfl, rfl⟩

theorem State.huskDone_spec {s : State} {r : HuskReq} {a b : Nat} (h : s.dev.huskCopy = some (r, a, b)) (htt : r.tt = none) (ns : List Nat) :
    ∃ t, s.huskDone ns = .next t ∧ t.mem = s.mem ∧ t.dev.huskCopy = none ∧ (∀ d, d < 4 → (t.die d).huskTable = s.dev.husks) ∧
      ∀ m ∈ ns, dieOf m < 4 → ∀ i, t.husked m i = true ↔ i ∈ s.dev.husks := by
  obtain ⟨hmem, hdie, htile⟩ := s.huskCopied_spec ns
  have hexec : s.huskDone ns = .next (((s.huskCopied ns).modDev fun d => { d with huskCopy := none }).huskAnswer r 0) := by
    simp only [State.huskDone, h]
  simp only [State.huskAnswer, htt] at hexec
  generalize s.huskCopied ns = u at hexec hmem hdie htile
  refine ⟨_, hexec, hmem, rfl, hdie, fun m hm hm4 i => ?_⟩
  obtain ⟨hset, hmore⟩ := htile m hm
  obtain ⟨hset', hmore'⟩ := (u.modDev fun d => { d with huskCopy := none }).settle_husks r.tile r.slot r.owedId (wayCost 0 r.tile / 2 + 1) 0 m
  have htable := hdie (dieOf m) hm4
  rw [← husked_iff (hset'.trans hset) (hmore'.trans hmore), State.husked, ← htable]
  rfl

theorem huskCopyDone_copies {s : State} {r : HuskReq} {c : Nat × Nat} (h : s.dev.huskCopy = some (r, c)) (htt : r.tt = none) :
    ∃ t, exec .huskCopyDone s = .next t ∧ t.mem = s.mem ∧ t.dev.huskCopy = none ∧ (∀ d, d < 4 → (t.die d).huskTable = s.dev.husks) ∧
      ∀ m, m < Config.tiles → ∀ i, t.husked m i = true ↔ i ∈ s.dev.husks := by
  obtain ⟨a, b⟩ := c
  obtain ⟨t, hexec, hmem, hcopy, hdie, htile⟩ := State.huskDone_spec h htt (List.range Config.tiles)
  exact ⟨t, (huskCopyDone_eq s).trans hexec, hmem, hcopy, hdie, fun m hm =>
    htile m (List.mem_range.mpr hm) (Nat.div_lt_of_lt_mul hm)⟩

/-! ### The time-triggered table -/

/-- A field of a number replaced: what stands below it and above it. -/
theorem replace_fld (E lo w m : Nat) : E - fld E lo w * 2 ^ lo + m * 2 ^ lo = E % 2 ^ lo + 2 ^ lo * (m + 2 ^ w * (E / 2 ^ lo / 2 ^ w)) := by
  have hlow := Nat.mod_add_div E (2 ^ lo)
  have hmid := Nat.mod_add_div (E / 2 ^ lo) (2 ^ w)
  have hE : E = E % 2 ^ lo + 2 ^ lo * (fld E lo w) + 2 ^ lo * (2 ^ w * (E / 2 ^ lo / 2 ^ w)) := by
    rw [Nat.add_assoc, ← Nat.mul_add, fld, hmid, hlow]
  have hle : E - fld E lo w * 2 ^ lo = E % 2 ^ lo + 2 ^ lo * (2 ^ w * (E / 2 ^ lo / 2 ^ w)) := by
    rw [Nat.mul_comm (fld E lo w)]
    omega
  rw [hle, Nat.mul_add, Nat.mul_comm m]
  omega

theorem fld_replace {E lo w m : Nat} (hm : m < 2 ^ w) : fld (E - fld E lo w * 2 ^ lo + m * 2 ^ lo) lo w = m := by
  rw [replace_fld, fld, Nat.add_mul_div_left _ _ (Nat.two_pow_pos lo), Nat.div_eq_of_lt (Nat.mod_lt _ (Nat.two_pow_pos lo)), Nat.zero_add,
    Nat.add_mul_mod_self_left, Nat.mod_eq_of_lt hm]

theorem fld_replace_low (E lo w m : Nat) : fld (E - fld E lo w * 2 ^ lo + m * 2 ^ lo) 0 lo = fld E 0 lo := by
  rw [replace_fld, fld, fld, Nat.pow_zero, Nat.div_one, Nat.div_one, Nat.add_mul_mod_self_left, Nat.mod_mod]

theorem add_mul_lt_mul_succ {m a : Nat} (hm : m < a) (x : Nat) : m + a * x < a * (x + 1) := by
  rw [Nat.mul_succ]
  omega

theorem replace_lt {E lo w m N : Nat} (hm : m < 2 ^ w) (hN : lo + w ≤ N) (hE : E < 2 ^ N) : E - fld E lo w * 2 ^ lo + m * 2 ^ lo < 2 ^ N := by
  obtain ⟨k, rfl⟩ := Nat.exists_eq_add_of_le hN
  have htop : E / 2 ^ lo / 2 ^ w < 2 ^ k := by
    rw [Nat.div_div_eq_div_mul, ← Nat.pow_add]
    exact Nat.div_lt_of_lt_mul (by rwa [← Nat.pow_add])
  have hmid : m + 2 ^ w * (E / 2 ^ lo / 2 ^ w) < 2 ^ (w + k) := by
    rw [Nat.pow_add]
    calc m + 2 ^ w * (E / 2 ^ lo / 2 ^ w) < 2 ^ w * (E / 2 ^ lo / 2 ^ w + 1) := add_mul_lt_mul_succ hm _
      _ ≤ 2 ^ w * 2 ^ k := Nat.mul_le_mul_left _ htop
  rw [replace_fld, Nat.add_assoc, Nat.pow_add]
  calc E % 2 ^ lo + 2 ^ lo * (m + 2 ^ w * (E / 2 ^ lo / 2 ^ w))
      < 2 ^ lo * (m + 2 ^ w * (E / 2 ^ lo / 2 ^ w) + 1) := add_mul_lt_mul_succ (Nat.mod_lt E (Nat.two_pow_pos lo)) _
    _ ≤ 2 ^ lo * 2 ^ (w + k) := Nat.mul_le_mul_left _ hmid

/-- R205: a launch counts in bits 255:224 of its entry, a skip in bits 223:192, where the count stays at its greatest. -/
theorem ttCount_launch (e : BitVec 512) : fld (ttCount e false).toNat 224 32 = (fld e.toNat 224 32 + 1) % 2 ^ 32 := by
  have hm : (fld e.toNat 224 32 + 1) % 2 ^ 32 < 2 ^ 32 := Nat.mod_lt _ (Nat.two_pow_pos 32)
  have hlt := replace_lt hm (show 224 + 32 ≤ 512 by omega) e.isLt
  rw [ttCount]
  simp only [Bool.false_eq_true, if_false, BitVec.toNat_ofNat]
  rw [Nat.mod_eq_of_lt hlt, fld_replace hm]

theorem ttCount_skip (e : BitVec 512) : fld (ttCount e true).toNat 192 32 = min (fld e.toNat 192 32 + 1) (2 ^ 32 - 1) := by
  have hm : min (fld e.toNat 192 32 + 1) (2 ^ 32 - 1) < 2 ^ 32 := by omega
  have hlt := replace_lt hm (show 192 + 32 ≤ 512 by omega) e.isLt
  rw [ttCount]
  simp only [if_true, BitVec.toNat_ofNat]
  rw [Nat.mod_eq_of_lt hlt, fld_replace hm]

/-- The state of entry i in the agent's table. -/
def State.tt (s : State) (i : Nat) : TtState := Tbl.get TtState.idle s.dev.ttState i
def State.ttEntry (s : State) (i : Nat) : BitVec 512 := Tbl.get 0 s.dev.tlt i

theorem State.tt_modTt (s : State) (i : Nat) (f : TtState → TtState) : (s.modTt i f).tt i = f (s.tt i) := Tbl.get_set_same _ _ _ _

/-- The record that launch n of an entry sends, and its message (R206). -/
def ttPayload (e : BitVec 512) (n : Nat) : Nat := ttRec e - fld (ttRec e) 120 16 * 2 ^ 120 + (ttInst e n).toNat * 2 ^ 120
def ttMsg (e : BitVec 512) (i n : Nat) : SendMsg :=
  { handle := BitVec.ofNat 32 (fld e.toNat 128 32), src := .host, seq := 0, base := 0, inst := ttInst e n, op := .data, size := 32,
    payload := ttPayload e n, rel := none, relAll := false, tt := some i, hostEntry := none }

theorem ttPayload_inst (e : BitVec 512) (n : Nat) : fld (ttPayload e n) 120 16 = (ttInst e n).toNat := fld_replace (ttInst e n).isLt

theorem ttPayload_low (e : BitVec 512) (n : Nat) : fld (ttPayload e n) 0 120 = fld e.toNat 256 120 := by
  rw [ttPayload, fld_replace_low, ttRec, fld, fld, fld, Nat.pow_zero, Nat.div_one, Nat.mod_mod_of_dvd _ (Nat.pow_dvd_pow 2 (by omega))]

/-- A launch of an entry: its message goes out, its launch is counted, and it is open. -/
theorem State.ttLaunch_spec (s : State) (i n : Nat) : WorkKept s (s.ttLaunch i n) ∧
    (s.ttLaunch i n).dev.agentQ = s.dev.agentQ ++ [ttMsg (s.ttEntry i) i n] ∧ (s.ttLaunch i n).ttEntry i = ttCount (s.ttEntry i) false ∧
    (s.ttLaunch i n).tt i = { s.tt i with open_ := true, openInst := ttInst (s.ttEntry i) n, deferred := false } :=
  ⟨.of_tiles rfl rfl, rfl, Tbl.get_set_same _ _ _ _, Tbl.get_set_same _ _ _ _⟩

/-- A skip of an entry is counted. -/
theorem State.ttSkip_spec (s : State) (i : Nat) : WorkKept s (s.ttSkip i) ∧ (s.ttSkip i).dev.agentQ = s.dev.agentQ ∧
    (s.ttSkip i).ttEntry i = ttCount (s.ttEntry i) true ∧ (s.ttSkip i).tt i = s.tt i :=
  ⟨.of_tiles rfl rfl, rfl, Tbl.get_set_same _ _ _ _, rfl⟩

/-- The state in which an entry's next slot has come. -/
def State.ttNext (s : State) : State := s.modTt s.focus.a fun x => { x with slot := (s.tt s.focus.a).slot + 1 }

theorem WorkKept.ttNext (s : State) : WorkKept s s.ttNext := .of_tiles rfl rfl
theorem WorkKept.modTt (s : State) (i : Nat) (f : TtState → TtState) : WorkKept s (s.modTt i f) := .of_tiles rfl rfl

theorem ttSlot_launches {s : State} (hopen : (s.tt s.focus.a).open_ = false) (hhusk : (s.tt s.focus.a).husking = false) :
    ∃ t m, exec .ttSlot s = .next t ∧ WorkKept s t ∧ t.dev.agentQ = s.dev.agentQ ++ [m] ∧
      m.handle = BitVec.ofNat 32 (fld (s.ttEntry s.focus.a).toNat 128 32) ∧ m.size = 32 ∧ m.inst = ttInst (s.ttEntry s.focus.a) (s.tt s.focus.a).slot ∧
      fld m.payload 120 16 = (ttInst (s.ttEntry s.focus.a) (s.tt s.focus.a).slot).toNat ∧ fld m.payload 0 120 = fld (s.ttEntry s.focus.a).toNat 256 120 ∧
      fld (t.ttEntry s.focus.a).toNat 224 32 = (fld (s.ttEntry s.focus.a).toNat 224 32 + 1) % 2 ^ 32 ∧
      (t.tt s.focus.a).slot = (s.tt s.focus.a).slot + 1 ∧ (t.tt s.focus.a).open_ = true := by
  have hexec : exec .ttSlot s = .next (s.ttNext.ttLaunch s.focus.a (s.tt s.focus.a).slot) := by
    change execTtSlot s = _
    rw [State.tt] at hopen hhusk
    simp only [execTtSlot, hopen, hhusk, Bool.false_eq_true, if_false, Bool.not_false, if_true]
    rfl
  obtain ⟨hkept, hq, hentry, htt⟩ := s.ttNext.ttLaunch_spec s.focus.a (s.tt s.focus.a).slot
  refine ⟨_, ttMsg (s.ttEntry s.focus.a) s.focus.a (s.tt s.focus.a).slot, hexec, (WorkKept.ttNext s).trans hkept, hq, rfl, rfl, rfl,
    ttPayload_inst _ _, ttPayload_low _ _, ?_, ?_, ?_⟩
  · rw [hentry]
    exact ttCount_launch _
  · rw [htt, State.ttNext, State.tt_modTt]
  · rw [htt]

/-- R206: while a cancel is waited for, or where the rule says so, the slot is skipped. -/
theorem ttSlot_skips {s : State} (h : (s.tt s.focus.a).husking = true ∨ (s.tt s.focus.a).open_ = true ∧
      (ttRule (s.ttEntry s.focus.a) = 0 ∨ ttRule (s.ttEntry s.focus.a) = 1 ∧ (s.tt s.focus.a).deferred = true)) :
    ∃ t, exec .ttSlot s = .next t ∧ WorkKept s t ∧ t.dev.agentQ = s.dev.agentQ ∧
      fld (t.ttEntry s.focus.a).toNat 192 32 = min (fld (s.ttEntry s.focus.a).toNat 192 32 + 1) (2 ^ 32 - 1) ∧
      (t.tt s.focus.a).slot = (s.tt s.focus.a).slot + 1 := by
  have hexec : exec .ttSlot s = .next (s.ttNext.ttSkip s.focus.a) := by
    change execTtSlot s = _
    rw [State.tt, State.ttEntry] at h
    cases hhusk : (Tbl.get TtState.idle s.dev.ttState s.focus.a).husking with
    | true =>
      simp only [execTtSlot, hhusk, if_true]
      rfl
    | false =>
      obtain ⟨hopen, hrule⟩ := h.resolve_left (by rw [hhusk]; exact Bool.false_ne_true)
      rcases hrule with hrule | ⟨hrule, hdef⟩
      · simp only [execTtSlot, hhusk, hopen, hrule, Bool.false_eq_true, if_false, Bool.not_true]
        rfl
      · simp only [execTtSlot, hhusk, hopen, hrule, hdef, Bool.false_eq_true, if_false, Bool.not_true, if_true]
        rfl
  obtain ⟨hkept, hq, hentry, htt⟩ := s.ttNext.ttSkip_spec s.focus.a
  refine ⟨_, hexec, (WorkKept.ttNext s).trans hkept, hq, ?_, ?_⟩
  · rw [hentry]
    exact ttCount_skip _
  · rw [htt, State.ttNext, State.tt_modTt]

theorem ttSlot_defers {s : State} (hopen : (s.tt s.focus.a).open_ = true) (hhusk : (s.tt s.focus.a).husking = false)
    (hrule : ttRule (s.ttEntry s.focus.a) = 1) (hdef : (s.tt s.focus.a).deferred = false) :
    ∃ t, exec .ttSlot s = .next t ∧ WorkKept s t ∧ t.dev.agentQ = s.dev.agentQ ∧ t.ttEntry s.focus.a = s.ttEntry s.focus.a ∧
      (t.tt s.focus.a).deferred = true ∧ (t.tt s.focus.a).waits = (s.tt s.focus.a).slot := by
  have hexec : exec .ttSlot s = .next (s.ttNext.modTt s.focus.a fun x => { x with deferred := true, waits := (s.tt s.focus.a).slot }) := by
    change execTtSlot s = _
    rw [State.tt] at hopen hhusk hdef
    rw [State.ttEntry] at hrule
    simp only [execTtSlot, hhusk, hopen, hrule, hdef, Bool.false_eq_true, if_false, Bool.not_true]
    rfl
  refine ⟨_, hexec, (WorkKept.ttNext s).trans (.modTt _ _ _), rfl, rfl, ?_, ?_⟩ <;> rw [State.tt_modTt]

/-- R206: with rule 2 the launch that is open is cancelled. -/
theorem ttSlot_cancels {s : State} (hopen : (s.tt s.focus.a).open_ = true) (hrule : ttRule (s.ttEntry s.focus.a) = 2)
    (hnot : ttInst (s.ttEntry s.focus.a) (s.tt s.focus.a).slot ∉ s.dev.husks) (hhusk : (s.tt s.focus.a).husking = false) :
    ∃ t, exec .ttSlot s = .next t ∧ WorkKept s t ∧ t.ttEntry s.focus.a = s.ttEntry s.focus.a ∧ (t.tt s.focus.a).husking = true ∧
      (t.tt s.focus.a).waits = (s.tt s.focus.a).slot ∧ t.dev.huskQ = s.dev.huskQ ++ [ttHusk s.focus.a (s.tt s.focus.a).openInst false s.nc] := by
  have hexec : exec .ttSlot s = .next ((s.ttNext.modTt s.focus.a fun x => { x with husking := true, waits := (s.tt s.focus.a).slot }).modDev fun d =>
      { d with huskQ := d.huskQ ++ [ttHusk s.focus.a (s.tt s.focus.a).openInst false s.nc] }) := by
    have hhas : s.dev.husks.contains (ttInst (s.ttEntry s.focus.a) (s.tt s.focus.a).slot) = false := by rwa [← Bool.not_eq_true, List.contains_iff_mem]
    change execTtSlot s = _
    rw [State.tt] at hopen hhusk
    rw [State.ttEntry] at hrule
    rw [State.ttEntry, State.tt] at hhas
    simp only [execTtSlot, hhusk, hopen, hrule, hhas, Bool.false_eq_true, if_false, Bool.not_true]
    rfl
  have htt : ∀ u : State, (u.modDev fun d => { d with huskQ := d.huskQ ++ [ttHusk s.focus.a (s.tt s.focus.a).openInst false s.nc] }).tt s.focus.a = u.tt s.focus.a :=
    fun _ => rfl
  refine ⟨_, hexec, ((WorkKept.ttNext s).trans (.modTt _ _ _)).trans (.modDev _ _), rfl, ?_, ?_, rfl⟩ <;> rw [htt, State.tt_modTt]

/-- The clearing of a husked program number that a report asks for. -/
def State.ttClears (i : Nat) (e : BitVec 512) (inst : BitVec 16) (u : State) : State :=
  if ttRule e = 2 ∧ u.dev.husks.contains inst then u.modDev fun d => { d with huskQ := d.huskQ ++ [ttHusk i inst true u.nc] } else u

theorem State.ttClears_spec (i : Nat) (e : BitVec 512) (inst : BitVec 16) (u : State) : WorkKept u (u.ttClears i e inst) ∧
    (u.ttClears i e inst).tt i = u.tt i ∧ (u.ttClears i e inst).dev.agentQ = u.dev.agentQ := by
  rw [State.ttClears]
  split
  · exact ⟨.modDev u _, rfl, rfl⟩
  · exact ⟨.refl u, rfl, rfl⟩

/-- The state in which the launch of an entry is complete. -/
def State.ttClosed (s : State) : State := s.modTt s.focus.a fun x => { x with open_ := false }

theorem ttCompletionReport_eq {s : State} (hinst : BitVec.ofNat 16 s.focus.b = (s.tt s.focus.a).openInst) :
    exec .ttCompletionReport s = .next (State.ttClears s.focus.a (s.ttEntry s.focus.a) (BitVec.ofNat 16 s.focus.b)
      (if (s.tt s.focus.a).deferred then s.ttClosed.ttLaunch s.focus.a (s.tt s.focus.a).waits else s.ttClosed)) := by
  change execTtCompletionReport s = _
  rw [State.tt] at hinst
  rw [execTtCompletionReport]
  dsimp only
  rw [if_pos hinst]
  rfl

theorem ttCompletionReport_closes {s : State} (hinst : BitVec.ofNat 16 s.focus.b = (s.tt s.focus.a).openInst) (hdef : (s.tt s.focus.a).deferred = false) :
    ∃ t, exec .ttCompletionReport s = .next t ∧ WorkKept s t ∧ (t.tt s.focus.a).open_ = false ∧ t.dev.agentQ = s.dev.agentQ := by
  have hexec := ttCompletionReport_eq hinst
  rw [hdef, if_neg Bool.false_ne_true] at hexec
  obtain ⟨hkept, htt, hq⟩ := s.ttClosed.ttClears_spec s.focus.a (s.ttEntry s.focus.a) (BitVec.ofNat 16 s.focus.b)
  exact ⟨_, hexec, (WorkKept.modTt s _ _).trans hkept, by rw [htt, State.ttClosed, State.tt_modTt], hq⟩

/-- R206: a slot that was deferred is launched when the launch before it is complete. -/
theorem ttCompletionReport_launches {s : State} (hinst : BitVec.ofNat 16 s.focus.b = (s.tt s.focus.a).openInst) (hdef : (s.tt s.focus.a).deferred = true) :
    ∃ t m, exec .ttCompletionReport s = .next t ∧ WorkKept s t ∧ (t.tt s.focus.a).open_ = true ∧ (t.tt s.focus.a).deferred = false ∧
      t.dev.agentQ = s.dev.agentQ ++ [m] ∧ m.inst = ttInst (s.ttEntry s.focus.a) (s.tt s.focus.a).waits := by
  have hexec := ttCompletionReport_eq hinst
  rw [hdef, if_pos rfl] at hexec
  obtain ⟨hkept, hq, -, htt⟩ := s.ttClosed.ttLaunch_spec s.focus.a (s.tt s.focus.a).waits
  obtain ⟨hkept', htt', hq'⟩ := (s.ttClosed.ttLaunch s.focus.a (s.tt s.focus.a).waits).ttClears_spec s.focus.a (s.ttEntry s.focus.a) (BitVec.ofNat 16 s.focus.b)
  exact ⟨_, _, hexec, ((WorkKept.modTt s _ _).trans hkept).trans hkept', by rw [htt', htt], by rw [htt', htt], hq'.trans hq, rfl⟩

/-! ### The statement -/

/-- Settles O50: each event of work by what it takes from the deque, the trackers or the tables, and by the message it sends. -/
theorem workEvents : Obligations.WorkEvents := by
  intro s n x kept sends head e z entry asked calm
  refine ⟨fun k l => Tile.ownerTake_newest, fun k l => Tile.topTask_oldest, fun k y i b => dequeTake_seats, fun k y i => dequeTake_discards,
    fun d k hv => ?_, fun hv => ?_, fun hb => ?_, fun th ⟨d, hd⟩ hno => ?_, fun th k ⟨d, hd⟩ hg hr hq hh ht htr hn => ?_,
    fun k ⟨d, hd⟩ hl hs => stealAnswer_waits hd hl hs, fun k ⟨d, hd⟩ hroom => ?_, fun ⟨d, hd⟩ => ?_,
    fun ix src piece k ⟨d, hd⟩ hk => ?_, fun ix src piece k ⟨d, hd⟩ hk hn => ?_, fun ix src piece k ⟨d, hd⟩ hk hn => ?_,
    fun id p ⟨d, hd⟩ hp => ?_, fun id ⟨d, hd⟩ hp => ?_, fun b m => launchDispatch_goes, fun b m d => launchDispatch_ends,
    fun r hr hc hn hl => ?_, fun r hr hc hn => ?_, fun r o hr htt ho hno => huskRequest_fails hr htt ho hno, fun r c => huskCopyDone_copies,
    fun ho hh => ?_, fun h => ?_, fun ho hh hr hd => ?_, fun ho hr hn hh => ?_, fun hi hd => ?_, fun hi hd => ?_⟩
  · obtain ⟨t, hexec, hkept, hrest⟩ := thirstRound_visits (s := s) (d := d) (k := k) hv
    exact ⟨t, hexec, hkept.and, hrest⟩
  · obtain ⟨t, due, hexec, hkept, hrest⟩ := thirstRound_ends (s := s) hv
    exact ⟨t, due, hexec, hkept.and, hrest⟩
  · obtain ⟨t, hexec, hkept, hrest⟩ := thirstBackoffExpiry_ends hb
    exact ⟨t, hexec, hkept.and, hrest⟩
  · obtain ⟨t, hexec, hkept, hrest⟩ := thirstArrival_refuses hd hno
    exact ⟨t, hexec, hkept.and, hrest⟩
  · obtain ⟨t, mid, hmid, hexec, hkept, hrest⟩ := thirstArrival_splits hd hg hr hq hh ht htr hn
    exact ⟨t, mid, hmid, hexec, hkept.and, hrest⟩
  · obtain ⟨t, hexec, hkept, hrest⟩ := stealAnswer_pushes hd hroom
    exact ⟨t, hexec, hkept.and, hrest⟩
  · obtain ⟨t, hexec, hkept, hrest⟩ := stealAnswer_refused hd
    exact ⟨t, hexec, hkept.and, hrest⟩
  · obtain ⟨t, hexec, hkept, hrest⟩ := trackerChange_adds hd hk
    exact ⟨t, hexec, hkept.and, hrest⟩
  · obtain ⟨t, hexec, hkept, hrest⟩ := trackerChange_takes hd hk hn
    exact ⟨t, hexec, hkept.and, hrest⟩
  · obtain ⟨t, hexec, hkept, hrest⟩ := trackerChange_ends hd hk hn
    exact ⟨t, hexec, hkept.and, hrest⟩
  · obtain ⟨t, hexec, hkept, hrest⟩ := trackerAcknowledgement_answers hd hp
    exact ⟨t, hexec, hkept.and, hrest⟩
  · obtain ⟨t, hexec, hkept, hrest⟩ := trackerAcknowledgement_releases hd hp
    exact ⟨t, hexec, hkept.and, hrest⟩
  · obtain ⟨t, hexec, hkept, hrest⟩ := huskRequest_adds hr hc hn hl
    exact ⟨t, hexec, hkept.and, hrest⟩
  · obtain ⟨t, hexec, hkept, hrest⟩ := huskRequest_clears hr hc hn
    exact ⟨t, hexec, hkept.and, hrest⟩
  · obtain ⟨t, m, hexec, hkept, hrest⟩ := ttSlot_launches (s := s) ho hh
    exact ⟨t, m, hexec, hkept.and, hrest⟩
  · obtain ⟨t, hexec, hkept, hrest⟩ := ttSlot_skips (s := s) h
    exact ⟨t, hexec, hkept.and, hrest⟩
  · obtain ⟨t, hexec, hkept, hrest⟩ := ttSlot_defers (s := s) ho hh hr hd
    exact ⟨t, hexec, hkept.and, hrest⟩
  · obtain ⟨t, hexec, hkept, hrest⟩ := ttSlot_cancels (s := s) ho hr hn hh
    exact ⟨t, hexec, hkept.and, hrest⟩
  · obtain ⟨t, hexec, hkept, hrest⟩ := ttCompletionReport_closes (s := s) hi hd
    exact ⟨t, hexec, hkept.and, hrest⟩
  · obtain ⟨t, m, hexec, hkept, hrest⟩ := ttCompletionReport_launches (s := s) hi hd
    exact ⟨t, m, hexec, hkept.and, hrest⟩

end Sys2Proof.Machine
end

section
/-! SUPPORT and PROOFS. Acceptance at a weir (R163, R168 to R173): an arrival's basin, and no other, gets its message, its count or its threshold. -/
namespace Sys2Proof.Machine

/-- Basin b of tile n holds k, and its other basins are as before. -/
def Lands (s t : State) (n b : Nat) (k : Basin) : Prop :=
  (t.tile n).weir.basin b = some k ∧ ∀ c, c ≠ b → (t.tile n).weir.basin c = (s.tile n).weir.basin c

theorem Weir.basin_modBasin_ne (w : Weir) {b c : Nat} (f : Basin → Basin) (h : c ≠ b) : (w.modBasin b f).basin c = w.basin c := Tbl.get_set_ne _ _ _ h

/-- A step of the weir of tile n that changes one basin and what is to be examined. -/
structure WeirTakes (n b : Nat) (k : Basin) (s t : State) : Prop where
  kept : Kept s t
  lands : Lands s t n b k
  rest : (t.tile n).weir = { (s.tile n).weir with basins := (t.tile n).weir.basins, examine := (t.tile n).weir.examine }

/-- The weir with a basin changed, which is to be examined from the next tc on. -/
theorem WeirTakes.modBasin {s : State} {n b tc : Nat} {k : Basin} (f : Basin → Basin) (h : (s.tile n).weir.basin b = some k) :
    WeirTakes n b (f k) s (s.modTile n fun x => x.modWeir fun w => (w.modBasin b f).look b tc) ∧
      (b, tc) ∈ ((s.modTile n fun x => x.modWeir fun w => (w.modBasin b f).look b tc).tile n).weir.examine := by
  have htile := State.tile_modTile_same s n fun x => x.modWeir fun w => (w.modBasin b f).look b tc
  refine ⟨⟨.modWeir s n _, ⟨?_, fun c hc => ?_⟩, ?_⟩, ?_⟩ <;> rw [htile]
  · exact Tile.basin_modBasin _ _ h
  · exact Weir.basin_modBasin_ne _ _ hc
  · rfl
  · exact List.mem_append_right _ (List.mem_singleton_self _)

theorem WeirTakes.of_kept {n b : Nat} {k : Basin} {s t u : State} (h : WeirTakes n b k s t) (hkept : Kept t u)
    (htile : (u.tile n).weir = (t.tile n).weir) : WeirTakes n b k s u :=
  ⟨h.kept.trans hkept, by rw [Lands, htile]; exact h.lands, by rw [htile]; exact h.rest⟩

theorem WeirTakes.after_kept {n b : Nat} {k : Basin} {s t u : State} (hkept : Kept s t) (htile : (t.tile n).weir = (s.tile n).weir)
    (h : WeirTakes n b k t u) : WeirTakes n b k s u :=
  ⟨hkept.trans h.kept, by rw [Lands, ← htile]; exact h.lands, by rw [← htile]; exact h.rest⟩

/-! ### What accepting does -/

theorem State.hostRecord_dev (s : State) (m : SendMsg) (q : Nat) : ∃ f, s.hostRecord m q = s.modDev f := by
  rw [State.hostRecord]
  split
  · exact ⟨id, rfl⟩
  · exact ⟨_, rfl⟩

/-- A message placed in a slot of a basin without a ring. -/
def Basin.gains (h : Held) (k : Basin) : Basin := { k with slots := k.slots ++ [h] }

/-- A counter basin after an add, its count being c before (R172). -/
def Basin.counts (c : Nat) (m : SendMsg) (k : Basin) : Basin := { k with count := BitVec.ofNat 64 (min (c + m.payload) (2 ^ 64 - 1)), relScope := m.rel }

/-- A counter basin with a new threshold. -/
def Basin.arms (m : SendMsg) (k : Basin) : Basin := { k with threshold := BitVec.ofNat 64 m.payload }

theorem State.place_grants {s : State} {n b : Nat} {k : Basin} {m : SendMsg} (hring : k.ring = []) (hgrant : (s.tile n).granted b k = true) :
    s.place n b k m = s.modTile n fun x => x.modWeir fun w => (w.modBasin b (Basin.gains (heldOf m s.tc))).look b (s.tc + 1) := by
  simp only [State.place, hring, List.isEmpty_nil, Bool.not_true, Bool.false_eq_true, false_and, if_false, hgrant, and_self, if_true]
  rfl

section
variable {s : State} {n : Nat} {m : SendMsg} {k : Basin} (hchain : s.chainOf n m = none) (href : s.refuses n m = none)
  (hk : (s.tile n).weir.basin (hIndex m.handle) = some k)
include hchain href hk

/-- An accepted message is placed in its basin, after the record of a host's write. -/
theorem State.accept_data (hop : m.op = .data) : ∃ f, s.accept n m = (s.modDev f).place n (hIndex m.handle) k m := by
  obtain ⟨f, hf⟩ := s.hostRecord_dev m (match (s.tile n).queueOf (hIndex m.handle) with | some _ => (s.tile n).nextLaunch (hIndex m.handle) | none => 0)
  refine ⟨f, ?_⟩
  rw [← hf, State.accept]
  simp only [hchain, href, hk, hop] <;> rfl

/-- An accepted add counts in its basin. -/
theorem State.accept_add (hop : m.op = .add) : ∃ f,
    s.accept n m = (if 2 ^ 64 ≤ k.count.toNat + m.payload
      then ((s.modDev f).modTile n fun x => x.modWeir fun w => (w.modBasin (hIndex m.handle) (Basin.counts k.count.toNat m)).look (hIndex m.handle) (s.tc + 1)).journal 3 0 n m.handle 0
      else (s.modDev f).modTile n fun x => x.modWeir fun w => (w.modBasin (hIndex m.handle) (Basin.counts k.count.toNat m)).look (hIndex m.handle) (s.tc + 1)) := by
  obtain ⟨f, hf⟩ := s.hostRecord_dev m (match (s.tile n).queueOf (hIndex m.handle) with | some _ => (s.tile n).nextLaunch (hIndex m.handle) | none => 0)
  refine ⟨f, ?_⟩
  rw [← hf, State.accept]
  simp only [hchain, href, hk, hop] <;> rfl

/-- An accepted arm sets its basin's threshold. -/
theorem State.accept_arm (hop : m.op = .arm) : ∃ f, s.accept n m =
    (s.modDev f).modTile n fun x => x.modWeir fun w => (w.modBasin (hIndex m.handle) (Basin.arms m)).look (hIndex m.handle) (s.tc + 1) := by
  obtain ⟨f, hf⟩ := s.hostRecord_dev m (match (s.tile n).queueOf (hIndex m.handle) with | some _ => (s.tile n).nextLaunch (hIndex m.handle) | none => 0)
  refine ⟨f, ?_⟩
  rw [← hf, State.accept]
  simp only [hchain, href, hk, hop] <;> rfl

/-- R163: a message for a basin without a ring that is granted a slot stands behind the others. -/
theorem State.accept_places (hop : m.op = .data) (hring : k.ring = []) (hgrant : (s.tile n).granted (hIndex m.handle) k = true) :
    WeirTakes n (hIndex m.handle) (Basin.gains (heldOf m s.tc) k) s (s.accept n m) := by
  obtain ⟨f, hf⟩ := State.accept_data hchain href hk hop
  have htake := (WeirTakes.modBasin (s := s.modDev f) (tc := s.tc + 1) (Basin.gains (heldOf m s.tc)) hk).1
  have hplace := State.place_grants (s := s.modDev f) (b := hIndex m.handle) (m := m) hring hgrant
  rw [hf, hplace]
  exact htake.after_kept (.modDev s f) rfl

/-- R172: a sum that passes 2^64 − 1 stays there. -/
theorem State.accept_counts (hop : m.op = .add) : WeirTakes n (hIndex m.handle) (Basin.counts k.count.toNat m k) s (s.accept n m) ∧
    (hIndex m.handle, s.tc + 1) ∈ ((s.accept n m).tile n).weir.examine := by
  obtain ⟨f, hf⟩ := State.accept_add hchain href hk hop
  obtain ⟨htake, hlook⟩ := WeirTakes.modBasin (s := s.modDev f) (tc := s.tc + 1) (Basin.counts k.count.toNat m) hk
  have htake := htake.after_kept (.modDev s f) rfl
  rw [hf]
  split
  · exact ⟨htake.of_kept (.journal _ _ _ _ _ _) rfl, hlook⟩
  · exact ⟨htake, hlook⟩

theorem State.accept_arms (hop : m.op = .arm) : WeirTakes n (hIndex m.handle) (Basin.arms m k) s (s.accept n m) ∧
    (hIndex m.handle, s.tc + 1) ∈ ((s.accept n m).tile n).weir.examine := by
  obtain ⟨f, hf⟩ := State.accept_arm hchain href hk hop
  obtain ⟨htake, hlook⟩ := WeirTakes.modBasin (s := s.modDev f) (tc := s.tc + 1) (Basin.arms m) hk
  rw [hf]
  exact ⟨htake.after_kept (.modDev s f) rfl, hlook⟩

end

/-! ### Discards -/

theorem State.sendLocal_weir (s : State) (n : Nat) (m : SendMsg) : Kept s (s.sendLocal n m) ∧ ∀ b, ((s.sendLocal n m).tile n).weir.basin b = (s.tile n).weir.basin b :=
  ⟨.modWeir s n _, fun b => by rw [State.sendLocal, State.tile_modTile_same]; rfl⟩

theorem State.post_weir (s : State) (n j : Nat) (m : SendMsg) : Kept s (s.post n j m) ∧ ∀ b, ((s.post n j m).tile n).weir.basin b = (s.tile n).weir.basin b :=
  ⟨.modWeir s n _, fun b => by rw [State.post, State.tile_modTile_same]; rfl⟩

/-- A discard changes no basin: it is journaled, and a report of it is to be sent. -/
theorem State.discard_weir (s : State) (n : Nat) (m : SendMsg) (why : Nat) : Kept s (s.discard n m why) ∧
    ∀ b, ((s.discard n m why).tile n).weir.basin b = (s.tile n).weir.basin b := by
  rw [State.discard]
  split
  · obtain ⟨f, hf⟩ := s.hostRecord_dev m 0
    rw [hf]
    exact ⟨(Kept.modDev s f).trans (.journal _ _ _ _ _ _), fun _ => rfl⟩
  · exact ⟨.journal _ _ _ _ _ _, fun _ => rfl⟩
  next d _ =>
    have hkept := Kept.journal s 2 2 n (m.handle) 1
    have htile : (s.journal 2 2 n m.handle 1).tile n = s.tile n := rfl
    generalize s.journal 2 2 n m.handle 1 = u at hkept htile
    rw [State.reportTo]
    split
    · obtain ⟨hsent, hbasin⟩ := u.sendLocal_weir n (faultMsg u n n (faultRecord u n { cause := 17, info := why, handle := m.handle } 0 m.inst 0xffff) m.inst)
      exact ⟨hkept.trans hsent, fun b => (hbasin b).trans (by rw [htile])⟩
    · obtain ⟨hsent, hbasin⟩ := u.post_weir n 0 (faultMsg u n d (faultRecord u n { cause := 17, info := why, handle := m.handle } 0 m.inst 0xffff) m.inst)
      exact ⟨hkept.trans hsent, fun b => (hbasin b).trans (by rw [htile])⟩
  next port dev tile _ =>
    have hkept := Kept.journal s 2 2 n (m.handle) 1
    have htile : (s.journal 2 2 n m.handle 1).tile n = s.tile n := rfl
    generalize hfr : faultRecord s n { cause := 17, info := why, handle := m.handle } 0 m.inst 0xffff = fr
    generalize s.journal 2 2 n m.handle 1 = u at hkept htile
    obtain ⟨hsent, hbasin⟩ := u.post_weir n 0 { plainMsg n (handleOf (BitVec.ofNat 4 dev) tile 63 1) m.inst 64 fr with via := some port }
    exact ⟨hkept.trans hsent, fun b => (hbasin b).trans (by rw [htile])⟩

theorem State.accept_refused {s : State} {n why : Nat} {m : SendMsg} (hchain : s.chainOf n m = none) (href : s.refuses n m = some why) :
    s.accept n m = s.discard n m why := by
  simp only [State.accept, hchain, href]

/-! ### Arrivals from the tile itself -/

/-- The weir without its oldest arrival from the tile itself, and without the entry that it stood in. -/
def Weir.localTaken (m : SendMsg) (r : List (Nat × SendMsg)) (w : Weir) : Weir :=
  { w with localIn := r, outbound := if m.buffered then w.outbound.eraseP fun o => o.released && { o.m with buffered := true } == m else w.outbound }

/-- The weir without its oldest arrival from the network. -/
def Weir.netTaken (r : List SendMsg) (w : Weir) : Weir := { w with netIn := r }

/-- The tile that wakes for an arrival. -/
def Tile.wakes (x : Tile) : Tile := { x with waking := 1 }

theorem State.rouse_weir (s : State) (n : Nat) : Kept s (s.rouse n) ∧ ((s.rouse n).tile n).weir = (s.tile n).weir := by
  rw [State.rouse]
  split
  · refine ⟨(Kept.drawDelay s).trans ((Kept.modTile _ n (f := Tile.wakes) (fun _ => rfl) fun _ => rfl).trans (.at_ _ _ _ _)), ?_⟩
    exact (congrArg Tile.weir (State.tile_modTile_same s.drawDelay.2 n Tile.wakes)).trans rfl
  · exact ⟨.refl s, rfl⟩

theorem WeirTakes.rouse {n b : Nat} {k : Basin} {s t : State} (h : WeirTakes n b k s t) : WeirTakes n b k s (t.rouse n) := by
  obtain ⟨hkept, hweir⟩ := t.rouse_weir n
  exact h.of_kept hkept hweir

/-- What acceptance reads of a tile does not depend on what is on its way. -/
theorem State.refuses_modWeir (s : State) (n : Nat) (m : SendMsg) {f : Weir → Weir} (hb : ∀ w, (f w).basins = w.basins) (hg : ∀ w, (f w).gens = w.gens) :
    (s.modTile n fun x => x.modWeir f).refuses n m = s.refuses n m := by
  have hbasin (w : Weir) (b : Nat) : (f w).basin b = w.basin b := by rw [Weir.basin, Weir.basin, hb]
  have hgen (w : Weir) (b : Nat) : (f w).gen b = w.gen b := by rw [Weir.gen, Weir.gen, hg]
  simp only [State.refuses, State.live, State.tile_modTile_same, Tile.modWeir, hbasin, hgen]
  rfl

theorem Tile.granted_modWeir (x : Tile) (b : Nat) (k : Basin) {f : Weir → Weir} (hb : ∀ w, (f w).basins = w.basins) :
    (x.modWeir f).granted b k = x.granted b k := by
  simp only [Tile.granted, Tile.charge, Tile.inReady, Tile.need, Tile.freeSlots, Tile.liveBasins, Tile.fencedOf, Tile.modWeir, hb]
  rfl

section
variable {s : State} {m : SendMsg} {d : Nat} {r : List (Nat × SendMsg)} (hfocus : s.focus.b ≠ 0) (hin : (s.tile s.focus.a).weir.localIn = (d, m) :: r)
include hfocus hin

theorem sendAccept_local : exec .sendAccept s = .next (((s.modTile s.focus.a fun x => x.modWeir (Weir.localTaken m r)).accept s.focus.a m).rouse s.focus.a) := by
  change execSendAccept s = _
  simp only [execSendAccept, hfocus, if_false, hin]
  rfl

variable {k : Basin} (hchain : s.chainOf s.focus.a m = none)
include hchain

theorem sendAccept_local_refused {why : Nat} (href : s.refuses s.focus.a m = some why) :
    ∃ t, exec .sendAccept s = .next t ∧ Kept s t ∧ ∀ b, (t.tile s.focus.a).weir.basin b = (s.tile s.focus.a).weir.basin b := by
  have hexec := sendAccept_local hfocus hin
  let u := s.modTile s.focus.a fun x => x.modWeir (Weir.localTaken m r)
  have href' : u.refuses s.focus.a m = some why := (s.refuses_modWeir s.focus.a m (f := Weir.localTaken m r) (fun _ => rfl) fun _ => rfl).trans href
  rw [State.accept_refused (s := u) hchain href'] at hexec
  obtain ⟨hkept, hbasin⟩ := u.discard_weir s.focus.a m why
  obtain ⟨hkept', hweir⟩ := (u.discard s.focus.a m why).rouse_weir s.focus.a
  refine ⟨_, hexec, ((Kept.modWeir s _ _).trans hkept).trans hkept', fun b => ?_⟩
  rw [hweir, hbasin, State.tile_modTile_same]
  rfl

variable (href : s.refuses s.focus.a m = none) (hk : (s.tile s.focus.a).weir.basin (hIndex m.handle) = some k)
include href hk

/-- What the taken arrival finds is what stood there before. -/
theorem localTaken_meets : (s.modTile s.focus.a fun x => x.modWeir (Weir.localTaken m r)).refuses s.focus.a m = none ∧
    ((s.modTile s.focus.a fun x => x.modWeir (Weir.localTaken m r)).tile s.focus.a).weir.basin (hIndex m.handle) = some k :=
  ⟨(s.refuses_modWeir s.focus.a m (f := Weir.localTaken m r) (fun _ => rfl) fun _ => rfl).trans href, by rw [State.tile_modTile_same]; exact hk⟩

/-- Taking the arrival and rousing the tile change no basin. -/
theorem localTaken_takes {l : Basin} (h : WeirTakes s.focus.a (hIndex m.handle) l (s.modTile s.focus.a fun x => x.modWeir (Weir.localTaken m r))
      ((s.modTile s.focus.a fun x => x.modWeir (Weir.localTaken m r)).accept s.focus.a m)) :
    ∃ t, exec .sendAccept s = .next t ∧ Kept s t ∧ Lands s t s.focus.a (hIndex m.handle) l ∧
      (t.tile s.focus.a).weir.examine = (((s.modTile s.focus.a fun x => x.modWeir (Weir.localTaken m r)).accept s.focus.a m).tile s.focus.a).weir.examine := by
  have hexec := sendAccept_local hfocus hin
  obtain ⟨hkept, hweir⟩ := ((s.modTile s.focus.a fun x => x.modWeir (Weir.localTaken m r)).accept s.focus.a m).rouse_weir s.focus.a
  refine ⟨_, hexec, ((Kept.modWeir s _ _).trans h.kept).trans hkept, ?_, by rw [hweir]⟩
  obtain ⟨hhere, hothers⟩ := h.lands
  refine ⟨by rw [hweir]; exact hhere, fun c hc => ?_⟩
  rw [hweir, hothers c hc, State.tile_modTile_same]
  rfl

theorem sendAccept_local_places (hop : m.op = .data) (hring : k.ring = []) (hgrant : (s.tile s.focus.a).granted (hIndex m.handle) k = true) :
    ∃ t, exec .sendAccept s = .next t ∧ Kept s t ∧ Lands s t s.focus.a (hIndex m.handle) { k with slots := k.slots ++ [heldOf m s.tc] } := by
  obtain ⟨href', hk'⟩ := localTaken_meets hfocus hin hchain href hk
  have hgrant' : ((s.modTile s.focus.a fun x => x.modWeir (Weir.localTaken m r)).tile s.focus.a).granted (hIndex m.handle) k = true := by
    rw [State.tile_modTile_same, Tile.granted_modWeir _ _ _ (f := Weir.localTaken m r) fun _ => rfl]
    exact hgrant
  obtain ⟨t, hexec, hkept, hlands, -⟩ := localTaken_takes hfocus hin hchain href hk (State.accept_places (s := s.modTile s.focus.a fun x => x.modWeir (Weir.localTaken m r))
    hchain href' hk' hop hring hgrant')
  exact ⟨t, hexec, hkept, hlands⟩

theorem sendAccept_local_counts (hop : m.op = .add) : ∃ t l, exec .sendAccept s = .next t ∧ Kept s t ∧ Lands s t s.focus.a (hIndex m.handle) l ∧
    l.count.toNat = min (k.count.toNat + m.payload) (2 ^ 64 - 1) ∧ l.threshold = k.threshold ∧ (hIndex m.handle, s.tc + 1) ∈ (t.tile s.focus.a).weir.examine := by
  obtain ⟨href', hk'⟩ := localTaken_meets hfocus hin hchain href hk
  obtain ⟨htake, hlook⟩ := State.accept_counts (s := s.modTile s.focus.a fun x => x.modWeir (Weir.localTaken m r)) hchain href' hk' hop
  obtain ⟨t, hexec, hkept, hlands, hex⟩ := localTaken_takes hfocus hin hchain href hk htake
  refine ⟨t, _, hexec, hkept, hlands, ?_, rfl, by rw [hex]; exact hlook⟩
  rw [Basin.counts, BitVec.toNat_ofNat]
  omega

theorem sendAccept_local_arms (hop : m.op = .arm) : ∃ t l, exec .sendAccept s = .next t ∧ Kept s t ∧ Lands s t s.focus.a (hIndex m.handle) l ∧
    l.threshold = BitVec.ofNat 64 m.payload ∧ l.count = k.count ∧ (hIndex m.handle, s.tc + 1) ∈ (t.tile s.focus.a).weir.examine := by
  obtain ⟨href', hk'⟩ := localTaken_meets hfocus hin hchain href hk
  obtain ⟨htake, hlook⟩ := State.accept_arms (s := s.modTile s.focus.a fun x => x.modWeir (Weir.localTaken m r)) hchain href' hk' hop
  obtain ⟨t, hexec, hkept, hlands, hex⟩ := localTaken_takes hfocus hin hchain href hk htake
  exact ⟨t, _, hexec, hkept, hlands, rfl, rfl, by rw [hex]; exact hlook⟩

end

/-! ### Arrivals from the network (R169) -/

theorem State.ackSend_tile (s : State) (n : Nat) (m : SendMsg) (retry : Bool) (p : Nat) : (s.ackSend n m retry).tile p = s.tile p := by
  rw [State.tile, State.tile, State.ackSend_tiles]

theorem Weir.nextOf_setNext (w : Weir) (m : SendMsg) (q : Nat) : (w.setNext m q).nextOf m = q := by
  simp [Weir.nextOf, Weir.setNext]

section
variable {s : State} {m : SendMsg} {r : List SendMsg} (hfocus : s.focus.b = 0) (hin : (s.tile s.focus.a).weir.netIn = m :: r)
include hfocus hin

theorem sendAccept_net : exec .sendAccept s = .next (((s.modTile s.focus.a fun x => x.modWeir (Weir.netTaken r)).resequence s.focus.a m).rouse s.focus.a) := by
  change execSendAccept s = _
  simp only [execSendAccept, hfocus, if_true, hin]
  rfl

/-- R169: an arrival in its turn is accepted, and the next number of its source is awaited. -/
theorem sendAccept_net_places {k : Basin} (hres : ∀ e ∈ (s.tile s.focus.a).weir.reseq, ¬ (e.src = m.src ∧ e.basin = m.handle))
    (hchain : s.chainOf s.focus.a m = none) (href : s.refuses s.focus.a m = none)
    (hk : (s.tile s.focus.a).weir.basin (hIndex m.handle) = some k) (hop : m.op = .data) (hring : k.ring = [])
    (hgrant : (s.tile s.focus.a).granted (hIndex m.handle) k = true) (hseq : m.seq = (s.tile s.focus.a).weir.nextOf m) :
    ∃ t, exec .sendAccept s = .next t ∧ Kept s t ∧ Lands s t s.focus.a (hIndex m.handle) { k with slots := k.slots ++ [heldOf m s.tc] } ∧
      (t.tile s.focus.a).weir.nextOf m = (m.seq + 1) % 32 ∧ (t.tile s.focus.a).weir.netIn = r := by
  let u := s.modTile s.focus.a fun x => x.modWeir (Weir.netTaken r)
  have hu : u.tile s.focus.a = (s.tile s.focus.a).modWeir (Weir.netTaken r) := State.tile_modTile_same _ _ _
  have href' : u.refuses s.focus.a m = none := (s.refuses_modWeir s.focus.a m (f := Weir.netTaken r) (fun _ => rfl) fun _ => rfl).trans href
  have hk' : (u.tile s.focus.a).weir.basin (hIndex m.handle) = some k := by rw [hu]; exact hk
  have hgrant' : (u.tile s.focus.a).granted (hIndex m.handle) k = true := by
    rw [hu, Tile.granted_modWeir _ _ _ (f := Weir.netTaken r) fun _ => rfl]
    exact hgrant
  have htake := State.accept_places (s := u) hchain href' hk' hop hring hgrant'
  have hfind : (u.tile s.focus.a).weir.reseq.find? (fun e => e.src == m.src && e.basin == m.handle) = none := by
    rw [List.find?_eq_none, hu]
    exact fun e he hsame => hres e he (by simpa using hsame)
  have hnext : m.seq = (u.tile s.focus.a).weir.nextOf m := by rw [hu]; exact hseq
  let v := (u.accept s.focus.a m).ackSend s.focus.a m false
  have hv : v.tile s.focus.a = (u.accept s.focus.a m).tile s.focus.a := State.ackSend_tile _ _ _ _ _
  have hexec : exec .sendAccept s = .next ((v.modTile s.focus.a fun x => x.modWeir fun w => w.setNext m ((m.seq + 1) % 32)).rouse s.focus.a) := by
    rw [sendAccept_net hfocus hin]
    change Host.Outcome.next ((u.resequence s.focus.a m).rouse s.focus.a) = _
    simp only [State.resequence, hfind, if_pos hnext]
    rfl
  obtain ⟨hkept, hweir⟩ := (v.modTile s.focus.a fun x => x.modWeir fun w => w.setNext m ((m.seq + 1) % 32)).rouse_weir s.focus.a
  rw [State.tile_modTile_same, hv] at hweir
  obtain ⟨hhere, hothers⟩ := htake.lands
  refine ⟨_, hexec, ((Kept.modWeir s _ _).trans htake.kept).trans ((Kept.ackSend _ _ _ _).trans ((Kept.modWeir _ _ _).trans hkept)), ⟨?_, fun c hc => ?_⟩, ?_, ?_⟩ <;>
    rw [hweir]
  · exact hhere
  · refine (hothers c hc).trans ?_
    rw [hu]
    rfl
  · exact Weir.nextOf_setNext _ _ _
  · change ((u.accept s.focus.a m).tile s.focus.a).weir.netIn = r
    rw [htake.rest, hu]
    rfl

/-- The weir that holds an arrival out of its turn. -/
def Weir.holds (m : SendMsg) (w : Weir) : Weir := { w with reseq := w.reseq ++ [⟨m.src, m.handle, w.nextOf m, [m], []⟩] }

/-- R169: an arrival out of its turn is held. -/
theorem sendAccept_net_holds (hres : (s.tile s.focus.a).weir.reseq = []) (hseq : m.seq ≠ (s.tile s.focus.a).weir.nextOf m) :
    ∃ t, exec .sendAccept s = .next t ∧ Kept s t ∧
      (t.tile s.focus.a).weir.reseq = [⟨m.src, m.handle, (s.tile s.focus.a).weir.nextOf m, [m], []⟩] ∧
      ∀ b, (t.tile s.focus.a).weir.basin b = (s.tile s.focus.a).weir.basin b := by
  let u := s.modTile s.focus.a fun x => x.modWeir (Weir.netTaken r)
  have hu : u.tile s.focus.a = (s.tile s.focus.a).modWeir (Weir.netTaken r) := State.tile_modTile_same _ _ _
  have hexec : exec .sendAccept s = .next ((u.modTile s.focus.a fun x => x.modWeir (Weir.holds m)).rouse s.focus.a) := by
    rw [sendAccept_net hfocus hin]
    change Host.Outcome.next ((u.resequence s.focus.a m).rouse s.focus.a) = _
    have hnil : (u.tile s.focus.a).weir.reseq = [] := by rw [hu]; exact hres
    have hnext : ¬ m.seq = (u.tile s.focus.a).weir.nextOf m := by rw [hu]; exact hseq
    simp only [State.resequence, hnil, List.find?_nil, if_neg hnext, List.length_nil, List.map_nil, List.sum_nil, Nat.le_zero, OfNat.ofNat_ne_zero, or_self, if_false]
    rfl
  obtain ⟨hkept, hweir⟩ := (u.modTile s.focus.a fun x => x.modWeir (Weir.holds m)).rouse_weir s.focus.a
  rw [State.tile_modTile_same, hu] at hweir
  refine ⟨_, hexec, (Kept.modWeir s _ _).trans ((Kept.modWeir _ _ _).trans hkept), ?_, fun b => ?_⟩ <;> rw [hweir]
  · change (s.tile s.focus.a).weir.reseq ++ [_] = _
    rw [hres, List.nil_append]
    rfl
  · rfl

end

end Sys2Proof.Machine
end

section
/-! SUPPORT and PROOFS. Sends that go out (R169, R171): what release, acknowledgement and retry change in the outbound buffer and its windows. -/
namespace Sys2Proof.Machine

/-- The packet in which a send of tile n leaves. -/
def State.sendPacket (s : State) (n : Nat) (m : SendMsg) : Packet :=
  ⟨hDev m.handle, hTile m.handle, m.port, s.dev.device.toNat, n, 1 + (if m.size = 64 then 1 else 0), .send m, false, s.nc,
    match m.src with | .host => .host | _ => .tile⟩

theorem State.packet_send (s : State) (n : Nat) (m : SendMsg) :
    s.packet (hDev m.handle) n (hTile m.handle) m.port (1 + b2n (m.size == 64)) 0 (.send m) = s.sendPacket n m := by
  rw [State.packet, State.sendPacket, show b2n (m.size == 64) = if m.size = 64 then 1 else 0 by
    by_cases h : m.size = 64 <;> simp [b2n, h]]
  rfl

/-- A send leaves at its tile's stop, or across the port it answers. -/
def SendLeaves (s t : State) (n : Nat) (m : SendMsg) : Prop :=
  (m.via = none → s.sendPacket n m ∈ (t.stop n).inject) ∧ ∀ p, m.via = some p → s.sendPacket n m ∈ (Tbl.get Lauc.empty t.dev.lauc p).out

theorem State.sendOff_leaves (s : State) (n : Nat) (m : SendMsg) : Kept s (s.sendOff n m) ∧ (s.sendOff n m).tiles = s.tiles ∧ SendLeaves s (s.sendOff n m) n m := by
  rw [State.sendOff]
  split
  next p hvia =>
    rw [State.packet_send, SendLeaves, hvia]
    refine ⟨.modDev s _, rfl, nofun, fun p' hp => ?_⟩
    cases hp
    rw [State.toLauc, State.modDev_dev, Tbl.get_set_same]
    exact List.mem_append_right _ (List.mem_singleton_self _)
  next hvia =>
    rw [State.injectTo, State.packet_send, SendLeaves, hvia]
    refine ⟨.modStop s _ _, rfl, fun _ => ?_, nofun⟩
    rw [State.stop_modStop_same]
    exact List.mem_append_right _ (List.mem_singleton_self _)

theorem SendLeaves.of_same {s u t : State} {n : Nat} {m : SendMsg} (h : SendLeaves u t n m) (hdev : u.dev.device = s.dev.device) (hnc : u.nc = s.nc) :
    SendLeaves s t n m := by
  have hpkt : s.sendPacket n m = u.sendPacket n m := by rw [State.sendPacket, State.sendPacket, hdev, hnc]
  rw [SendLeaves, hpkt]
  exact h

/-! ### Release -/

section
variable {s : State} {i : Nat} {o : OutEntry} (hfocus : s.focus.b = 0) (hi : (s.tile s.focus.a).releaseIx = some i)
  (ho : (s.tile s.focus.a).weir.outbound[i]? = some o) (hthere : s.noSuch o.m = false)
include hfocus hi ho hthere

/-- R170: a send to a basin of the tile itself is there 3 tc later. -/
theorem sendRelease_local (hdev : hDev o.m.handle = s.dev.device.toNat) (htile : hTile o.m.handle = s.focus.a) (hport : o.m.port = .weir) :
    ∃ t, exec .sendRelease s = .next t ∧ Kept s t ∧
      (t.tile s.focus.a).weir.localIn = (s.tile s.focus.a).weir.localIn ++ [(s.nc + 6, { o.m with buffered := true })] ∧
      (t.tile s.focus.a).weir.outbound[i]? = some { o with released := true } := by
  let f (w : Weir) : Weir :=
    { w with outbound := w.outbound.modify i fun o => { o with released := true }, localIn := w.localIn ++ [(s.nc + 6, { o.m with buffered := true })] }
  have hexec : exec .sendRelease s = .next (s.modTile s.focus.a fun x => x.modWeir f) := by
    change execSendRelease s = _
    simp only [execSendRelease, hfocus, OfNat.zero_ne_ofNat, Nat.zero_ne_one, if_false, hi, ho, hthere, Bool.false_eq_true, hdev, htile, hport, and_self, if_true]
    rfl
  refine ⟨_, hexec, .modWeir s _ _, ?_, ?_⟩ <;> rw [State.tile_modTile_same]
  · rfl
  · change ((s.tile s.focus.a).weir.outbound.modify i _)[i]? = _
    rw [List.getElem?_modify_eq, ho]
    rfl

/-- R169: any other send leaves as a packet, with the next number of its window. -/
theorem sendRelease_away (haway : ¬ (hDev o.m.handle = s.dev.device.toNat ∧ hTile o.m.handle = s.focus.a ∧ o.m.port = .weir)) :
    ∃ t m, exec .sendRelease s = .next t ∧ Kept s t ∧
      m = { o.m with seq := (Tbl.get ⟨0, []⟩ (s.tile s.focus.a).weir.wins o.m.basin).next, base := m.base } ∧ SendLeaves s t s.focus.a m ∧
      (t.tile s.focus.a).weir.outbound[i]? = some { o with released := true, m := m } ∧
      (Tbl.get ⟨0, []⟩ (t.tile s.focus.a).weir.wins o.m.basin).next = (m.seq + 1) % 32 ∧
      m.seq ∈ (Tbl.get ⟨0, []⟩ (t.tile s.focus.a).weir.wins o.m.basin).unacked := by
  let win := Tbl.get ⟨0, []⟩ (s.tile s.focus.a).weir.wins o.m.basin
  let m : SendMsg := { o.m with seq := win.next, base := (win.unacked ++ [win.next]).headD 0 }
  let f (w : Weir) : Weir := { w with outbound := w.outbound.modify i fun o => { o with released := true, m := m }
                                      wins := Tbl.set w.wins o.m.basin ⟨(win.next + 1) % 32, win.unacked ++ [win.next]⟩ }
  let u := s.modTile s.focus.a fun x => x.modWeir f
  have hexec : exec .sendRelease s = .next (u.sendOff s.focus.a m) := by
    change execSendRelease s = _
    simp only [execSendRelease, hfocus, OfNat.zero_ne_ofNat, Nat.zero_ne_one, if_false, hi, ho, hthere, Bool.false_eq_true, if_neg haway]
    rfl
  obtain ⟨hkept, htiles, hleaves⟩ := u.sendOff_leaves s.focus.a m
  have hweir : ((u.sendOff s.focus.a m).tile s.focus.a).weir = f (s.tile s.focus.a).weir := by
    rw [State.tile, htiles]
    exact congrArg Tile.weir (State.tile_modTile_same s s.focus.a fun x => x.modWeir f)
  refine ⟨_, m, hexec, (Kept.modWeir s _ _).trans hkept, rfl, hleaves.of_same rfl rfl, ?_, ?_, ?_⟩ <;> rw [hweir]
  · change ((s.tile s.focus.a).weir.outbound.modify i _)[i]? = _
    rw [List.getElem?_modify_eq, ho]
    rfl
  · exact congrArg SendWin.next (Tbl.get_set_same _ _ _ _)
  · rw [show Tbl.get ⟨0, []⟩ (f (s.tile s.focus.a).weir).wins o.m.basin = ⟨(win.next + 1) % 32, win.unacked ++ [win.next]⟩ from Tbl.get_set_same _ _ _ _]
    exact List.mem_append_right _ (List.mem_singleton_self _)

end

/-! ### Acknowledgement and retry -/

/-- Whether the focus of an acknowledgement names this entry. -/
theorem out_named (o : OutEntry) (b c : Nat) : (o.released && (o.m.handle.toNat == b && o.m.seq == c)) = true ↔
    o.released = true ∧ o.m.handle.toNat = b ∧ o.m.seq = c := by simp

theorem sendAck_takes {s : State} (hd : s.focus.d ≠ 1) : ∃ t, exec .sendAck s = .next t ∧ Kept s t ∧
    (∀ o, o ∈ (t.tile s.focus.a).weir.outbound ↔ o ∈ (s.tile s.focus.a).weir.outbound ∧
      ¬ (o.released = true ∧ o.m.handle.toNat = s.focus.b ∧ o.m.seq = s.focus.c)) ∧
    s.focus.c ∉ (Tbl.get ⟨0, []⟩ (t.tile s.focus.a).weir.wins s.focus.b).unacked := by
  let f (w : Weir) : Weir := { w with outbound := w.outbound.filter fun o => !(o.released && (o.m.handle.toNat == s.focus.b && o.m.seq == s.focus.c))
                                      wins := Tbl.set w.wins s.focus.b (let v := Tbl.get ⟨0, []⟩ w.wins s.focus.b; { v with unacked := v.unacked.filter (· != s.focus.c) }) }
  have hexec : exec .sendAck s = .next (s.modTile s.focus.a fun x => x.modWeir f) := by
    change execSendAck s = _
    simp only [execSendAck, if_neg hd]
    rfl
  refine ⟨_, hexec, .modWeir s _ _, fun o => ?_, ?_⟩ <;> rw [State.tile_modTile_same]
  · change o ∈ List.filter _ _ ↔ _
    rw [List.mem_filter, Bool.not_eq_true', ← Bool.not_eq_true, out_named]
  · rw [show Tbl.get ⟨0, []⟩ ((s.tile s.focus.a).modWeir f).weir.wins s.focus.b = { Tbl.get ⟨0, []⟩ (s.tile s.focus.a).weir.wins s.focus.b with
      unacked := (Tbl.get ⟨0, []⟩ (s.tile s.focus.a).weir.wins s.focus.b).unacked.filter (· != s.focus.c) } from Tbl.get_set_same _ _ _ _]
    exact fun h => bne_iff_ne.mp (List.mem_filter.mp h).2 rfl

theorem sendAck_returns {s : State} {o : OutEntry} (hd : s.focus.d = 1) (ho : o ∈ (s.tile s.focus.a).weir.outbound) (hrel : o.released = true)
    (hb : o.m.handle.toNat = s.focus.b) (hc : o.m.seq = s.focus.c) :
    ∃ t, exec .sendAck s = .next t ∧ Kept s t ∧ { o with retry := true } ∈ (t.tile s.focus.a).weir.outbound := by
  let f (w : Weir) : Weir := { w with outbound := w.outbound.map fun o =>
    if o.released && (o.m.handle.toNat == s.focus.b && o.m.seq == s.focus.c) then { o with retry := true } else o }
  have hexec : exec .sendAck s = .next (s.modTile s.focus.a fun x => x.modWeir f) := by
    change execSendAck s = _
    simp only [execSendAck, if_pos hd]
    rfl
  refine ⟨_, hexec, .modWeir s _ _, ?_⟩
  rw [State.tile_modTile_same]
  exact List.mem_map.mpr ⟨o, ho, if_pos ((out_named o _ _).mpr ⟨hrel, hb, hc⟩)⟩

/-- R169: a returned send goes out again, with its number. -/
theorem sendRetry_resends {s : State} {o : OutEntry} (hb : s.focus.b ≠ 1) (ho : (s.tile s.focus.a).weir.outbound.find? (·.retry) = some o) :
    ∃ t m, exec .sendRetry s = .next t ∧ Kept s t ∧ m = { o.m with base := m.base } ∧ SendLeaves s t s.focus.a m ∧
      { o with retry := false } ∈ (t.tile s.focus.a).weir.outbound := by
  let m : SendMsg := { o.m with base := (Tbl.get ⟨0, []⟩ (s.tile s.focus.a).weir.wins o.m.basin).unacked.headD o.m.seq }
  let f (w : Weir) : Weir := { w with outbound := w.outbound.map fun p => if p = o then { p with retry := false } else p }
  let u := s.modTile s.focus.a fun x => x.modWeir f
  have hexec : exec .sendRetry s = .next (u.sendOff s.focus.a m) := by
    change execSendRetry s = _
    simp only [execSendRetry, if_neg hb, ho]
    rfl
  obtain ⟨hkept, htiles, hleaves⟩ := u.sendOff_leaves s.focus.a m
  have hweir : ((u.sendOff s.focus.a m).tile s.focus.a).weir = f (s.tile s.focus.a).weir := by
    rw [State.tile, htiles]
    exact congrArg Tile.weir (State.tile_modTile_same s s.focus.a fun x => x.modWeir f)
  refine ⟨_, m, hexec, (Kept.modWeir s _ _).trans hkept, rfl, hleaves.of_same rfl rfl, ?_⟩
  rw [hweir]
  exact List.mem_map.mpr ⟨o, List.mem_of_find?_eq_some ho, if_pos rfl⟩

end Sys2Proof.Machine
end

section
/-! SUPPORT and PROOFS. Matching, firing and ring refills (R164, R177 to R180). Settles the statement of the weir's events. -/
namespace Sys2Proof.Machine

/-! ### Matching where nothing is husked -/

section
variable {s : State} {n : Nat} (h : ∀ i, s.husked n i = false)
include h

theorem State.popHusked_none (b i : Nat) : s.popHusked n b i = s := by
  cases i with
  | zero => rfl
  | succ i =>
    rw [State.popHusked]
    split
    · rw [if_neg (by simp only [h, Bool.false_eq_true, false_and, not_false_eq_true])]
    · rfl

theorem State.foldl_popHusked_none (l : List Nat) : l.foldl (fun (s : State) c => s.popHusked n c 512) s = s := by
  induction l with
  | nil => rfl
  | cons c l ih => rw [List.foldl_cons, State.popHusked_none h, ih]

theorem State.chosenFrom_state (b : Nat) (l : List Nat) : (s.chosenFrom n b l).1 = s := by
  induction l with
  | nil => rfl
  | cons i r ih =>
    rw [State.chosenFrom]
    split
    · exact ih
    · simp only [State.foldl_popHusked_none h]
      split
      · split
        · rfl
        · exact ih
      · exact ih

/-- Testing patterns changes nothing where no message is husked. -/
theorem State.chosen_state (b : Nat) : s.chosen n b = (s, (s.chosen n b).2) := Prod.ext (State.chosenFrom_state h b _) rfl

end

/-! ### The examination of a basin -/

/-- The weir with the due examinations of a basin taken off. -/
def Weir.examined (b tc : Nat) (w : Weir) : Weir := { w with examine := w.examine.filter fun e => !(e.1 == b && decide (e.2 ≤ tc)) }

/-- The weir that has fired: the basin is examined again in the next tc. -/
def Weir.fired (b tc : Nat) (w : Weir) : Weir :=
  { w.examined b tc with examine := (b, tc + 1) :: (w.examined b tc).examine, firedAt := tc + 1 }

/-- The weir one of whose basins is blocked. -/
def Weir.blocks (b tc : Nat) (w : Weir) : Weir := { w.examined b tc with blocked := if w.blocked.contains b then w.blocked else w.blocked ++ [b] }

section
variable {s : State} (hhusk : ∀ i, s.husked s.focus.a i = false)
include hhusk

theorem basinExamine_none (hch : (s.chosen s.focus.a s.focus.b).2 = none) : ∃ t, exec .basinExamine s = .next t ∧ Kept s t ∧
    (∀ b, (t.tile s.focus.a).weir.basin b = (s.tile s.focus.a).weir.basin b) ∧
    ∀ e ∈ (t.tile s.focus.a).weir.examine, ¬ (e.1 = s.focus.b ∧ e.2 ≤ s.tc) := by
  have hexec : exec .basinExamine s = .next (s.modTile s.focus.a fun x => x.modWeir (Weir.examined s.focus.b s.tc)) := by
    change execBasinExamine s = _
    rw [execBasinExamine, State.chosen_state hhusk, hch]
    rfl
  refine ⟨_, hexec, .modWeir s _ _, fun b => ?_, fun e he hdue => ?_⟩
  · rw [State.tile_modTile_same]
    rfl
  · rw [State.tile_modTile_same] at he
    have hkeep := (List.mem_filter.mp he).2
    rw [Bool.not_eq_true', Bool.and_eq_false_iff, beq_eq_false_iff_ne, decide_eq_false_iff_not] at hkeep
    exact hkeep.elim (fun h => h hdue.1) fun h => h hdue.2

variable {ix : Nat} {p : Pattern} (hch : (s.chosen s.focus.a s.focus.b).2 = some (ix, p))
include hch

/-- R179: a body that finds the ready queue full blocks the basin. -/
theorem basinExamine_blocks (hact : p.action = false) (hfull : 64 ≤ (s.tile s.focus.a).ready.length) :
    ∃ t, exec .basinExamine s = .next t ∧ Kept s t ∧ (t.tile s.focus.a).ready = (s.tile s.focus.a).ready ∧
      (∀ b, (t.tile s.focus.a).weir.basin b = (s.tile s.focus.a).weir.basin b) ∧ s.focus.b ∈ (t.tile s.focus.a).weir.blocked := by
  have hexec : exec .basinExamine s = .next (s.modTile s.focus.a fun x => x.modWeir (Weir.blocks s.focus.b s.tc)) := by
    change execBasinExamine s = _
    rw [execBasinExamine, State.chosen_state hhusk, hch]
    simp only [hact, hfull, Bool.not_false, decide_true, Bool.and_self, if_true]
    rfl
  refine ⟨_, hexec, .modWeir s _ _, ?_, fun b => ?_, ?_⟩ <;> rw [State.tile_modTile_same]
  · rfl
  · rfl
  · change s.focus.b ∈ (if _ then _ else _)
    split
    next h => exact List.contains_iff_mem.mp h
    next => exact List.mem_append_right _ (List.mem_singleton_self _)

theorem basinExamine_fires (hheld : p.held = none) (hroom : p.action = true ∨ (s.tile s.focus.a).ready.length < 64) :
    exec .basinExamine s = .next ((s.fire s.focus.a ix p).modTile s.focus.a fun x => x.modWeir (Weir.fired s.focus.b s.tc)) := by
  have hgo : (!p.action && decide (64 ≤ (s.tile s.focus.a).ready.length)) = false := by
    rcases hroom with h | h
    · rw [h, Bool.not_true, Bool.false_and]
    · rw [decide_eq_false (by omega), Bool.and_false]
  change execBasinExamine s = _
  rw [execBasinExamine, State.chosen_state hhusk, hch]
  simp only [hgo, hheld, Option.isSome_none, Bool.false_and, Bool.false_eq_true, if_false]
  rfl

end

/-! ### What a firing takes -/

/-- The basins of a pattern after it has fired. -/
def Weir.afterFire (ix : Nat) (p : Pattern) (w : Weir) : Weir :=
  let w1 := p.basins.foldl (fun (w : Weir) b => w.modBasin b Basin.afterFire) w
  if p.rotate then p.basins.foldl (fun (w : Weir) b => w.modBasin b fun k => { k with rp := ix }) w1 else w1

theorem Weir.foldl_modBasin_rest (f : Basin → Basin) (l : List Nat) (w : Weir) :
    ∃ bs, l.foldl (fun (w : Weir) b => w.modBasin b f) w = { w with basins := bs } := by
  induction l generalizing w with
  | nil => exact ⟨w.basins, rfl⟩
  | cons c l ih =>
    obtain ⟨bs, h⟩ := ih (w.modBasin c f)
    exact ⟨bs, by rw [List.foldl_cons, h]; rfl⟩

theorem Weir.foldl_modBasin_notMem (f : Basin → Basin) {l : List Nat} {b : Nat} (w : Weir) (hb : b ∉ l) :
    (l.foldl (fun (w : Weir) b => w.modBasin b f) w).basin b = w.basin b := by
  induction l generalizing w with
  | nil => rfl
  | cons c l ih =>
    obtain ⟨hne, hb⟩ := not_or.mp (mt List.mem_cons.mpr hb)
    rw [List.foldl_cons, ih _ hb, Weir.basin_modBasin_ne _ _ hne]

/-- Basins of a list without repetition, each changed once. -/
theorem Weir.foldl_modBasin (f : Basin → Basin) {l : List Nat} {b : Nat} {w : Weir} {k : Basin} (hl : l.Nodup) (hb : b ∈ l) (hk : w.basin b = some k) :
    (l.foldl (fun (w : Weir) b => w.modBasin b f) w).basin b = some (f k) := by
  induction l generalizing w with
  | nil => exact absurd hb List.not_mem_nil
  | cons c l ih =>
    obtain ⟨hc, hl⟩ := List.nodup_cons.mp hl
    rw [List.foldl_cons]
    rcases List.mem_cons.mp hb with rfl | hb
    · rw [Weir.foldl_modBasin_notMem _ _ hc, Tile.basin_modBasin _ _ hk]
    · exact ih hl hb (by rw [Weir.basin_modBasin_ne _ _ (ne_of_mem_of_not_mem hb hc), hk])

theorem Weir.afterFire_rest (ix : Nat) (p : Pattern) (w : Weir) : ∃ bs, w.afterFire ix p = { w with basins := bs } := by
  obtain ⟨bs, h⟩ := Weir.foldl_modBasin_rest Basin.afterFire p.basins w
  rw [Weir.afterFire]
  split
  · obtain ⟨bs', h'⟩ := Weir.foldl_modBasin_rest (fun k => { k with rp := ix }) p.basins { w with basins := bs }
    exact ⟨bs', by rw [h, h']⟩
  · exact ⟨bs, h⟩

/-- R180: a firing takes the oldest message of each of its basins, or the threshold from a counter. -/
theorem Weir.afterFire_takes {ix : Nat} {p : Pattern} {w : Weir} {b : Nat} {k : Basin} (hl : p.basins.Nodup) (hb : b ∈ p.basins) (hk : w.basin b = some k) :
    ∃ l, (w.afterFire ix p).basin b = some l ∧ l.slots = (if k.kind = .counter then k.slots else k.slots.tail) ∧
      l.count = (if k.kind = .counter then k.count - k.threshold else k.count) := by
  have hafter : k.afterFire.slots = (if k.kind = .counter then k.slots else k.slots.tail) ∧
      k.afterFire.count = (if k.kind = .counter then k.count - k.threshold else k.count) := by
    rw [Basin.afterFire]
    cases k.kind <;> exact ⟨rfl, rfl⟩
  have hone := Weir.foldl_modBasin Basin.afterFire hl hb hk
  rw [Weir.afterFire]
  split
  · exact ⟨_, Weir.foldl_modBasin (fun k => { k with rp := ix }) hl hb hone, hafter⟩
  · exact ⟨_, hone, hafter⟩

/-- The tile after a firing has taken its messages, as an acquire of what their senders covered. -/
def Tile.firedFor (rels : List (Option Scope × Bool)) (ix : Nat) (p : Pattern) (x : Tile) : Tile := (x.acquire rels).modWeir (Weir.afterFire ix p)

theorem Tile.firedFor_eq (rels : List (Option Scope × Bool)) (ix : Nat) (p : Pattern) (x : Tile) :
    ∃ a l, x.firedFor rels ix p = { x with acc := a, l1 := l, weir := x.weir.afterFire ix p } := by
  obtain ⟨a, l, h⟩ := x.acquire_eq rels
  exact ⟨a, l, by rw [Tile.firedFor, h]; rfl⟩

theorem Kept.firedFor (s : State) (n : Nat) (rels : List (Option Scope × Bool)) (ix : Nat) (p : Pattern) : Kept s (s.modTile n (Tile.firedFor rels ix p)) :=
  .modTile s n (fun x => by
    obtain ⟨a, l, h⟩ := x.firedFor_eq rels ix p
    rw [h]) fun x => by
    obtain ⟨a, l, h⟩ := x.firedFor_eq rels ix p
    rw [h]

/-- What the basins of a pattern give. -/
def Tile.taking (x : Tile) (p : Pattern) : List (((Nat × Nat × Option Nat) × Option Held) × BasinKind × Option Scope) :=
  p.basins.filterMap fun b => (x.weir.basin b).map fun k => (k.taken b, k.kind, k.relScope)

theorem Tile.taking_payloads (x : Tile) (p : Pattern) :
    (x.taking p).map (fun e => e.1.1) = p.basins.filterMap fun b => (x.weir.basin b).map fun k => (k.taken b).1 := by
  rw [Tile.taking, List.map_filterMap]
  exact congrArg (List.filterMap · p.basins) (funext fun b => by rw [Option.map_map]; rfl)

/-- The releases that a firing consumes. -/
def Tile.rels (x : Tile) (p : Pattern) : List (Option Scope × Bool) :=
  (x.taking p).map fun e => match e.1.2 with | some m => (m.rel, m.relAll) | none => (e.2.2, false)

/-- The program number of what a pattern fires. -/
def Tile.firedInst (x : Tile) (p : Pattern) : BitVec 16 :=
  if p.inherit || p.action then (((x.taking p).head?.bind fun e => e.1.2).map (·.inst)).getD p.inst else p.inst

/-- The ready record of a body that is fired (R180). -/
def State.firedRecord (s : State) (n : Nat) (p : Pattern) : Ready :=
  { id := s.nextId, entry := p.entry, level := p.prio, inst := (s.tile n).firedInst p, grans := p.grans, role := p.role, arrival := s.tc,
    waitFrom := s.dev.time, bypass := 0, payloads := ((s.tile n).taking p).map fun e => e.1.1, task := none, saved := none, badHeader := p.badHeader,
    bad := ((s.tile n).taking p).zipIdx.flatMap fun e => (e.1.1.2.map (·.bad)).getD [] |>.map (8 * e.2 + ·) }

/-- The state in which a firing has taken its messages. -/
def State.firedTaken (s : State) (n ix : Nat) (p : Pattern) : State := s.modTile n (Tile.firedFor ((s.tile n).rels p) ix p)

theorem State.fire_body {s : State} {n ix : Nat} {p : Pattern} (hact : p.action = false) (hheld : p.held = none) :
    s.fire n ix p = (s.firedTaken n ix p).take.2.modTile n fun x => { x with ready := x.ready ++ [s.firedRecord n p] } := by
  rw [State.fire]
  simp only [hact, hheld, Bool.false_eq_true, if_false, State.firedRecord, Tile.firedInst, Tile.taking]
  rfl

theorem State.fire_command {s : State} {n ix : Nat} {p : Pattern} {e : Nat × Basin} (hact : p.action = true)
    (he : (s.tile n).liveBasins.find? (fun e => e.2.kind == .engine && e.2.engCopy == p.engCopy) = some e) :
    s.fire n ix p = (s.firedTaken n ix p).sendLocal n (plainMsg n (handleOf s.dev.device n e.1 ((s.tile n).weir.gen e.1)) ((s.tile n).firedInst p) 64
      (patchImage p.command.toNat p.patch ((((s.tile n).taking p).map fun e => e.1.1).map (·.1)))) := by
  rw [State.fire]
  simp only [hact, if_true, he, Option.map_some, Tile.firedInst, Tile.taking]
  rfl

/-- The tile after a firing: its weir, and its ready records, are all that differs besides what the acquire drops. -/
theorem State.firedTaken_tile (s : State) (n ix : Nat) (p : Pattern) :
    ∃ a l, (s.firedTaken n ix p).tile n = { s.tile n with acc := a, l1 := l, weir := (s.tile n).weir.afterFire ix p } := by
  rw [State.firedTaken, State.tile_modTile_same]
  exact Tile.firedFor_eq _ _ _ _

/-- What a firing took of its pattern's basins, seen in the tile of the state t. -/
def Took (s t : State) (n : Nat) (p : Pattern) : Prop := ∀ b ∈ p.basins, ∀ k, (s.tile n).weir.basin b = some k → ∃ l, (t.tile n).weir.basin b = some l ∧
  l.slots = (if k.kind = .counter then k.slots else k.slots.tail) ∧ l.count = (if k.kind = .counter then k.count - k.threshold else k.count)

theorem Took.of_basins {s t : State} {n ix : Nat} {p : Pattern} (hl : p.basins.Nodup)
    (h : (t.tile n).weir.basins = ((s.tile n).weir.afterFire ix p).basins) : Took s t n p := fun b hb k hk => by
  have hbasin : (t.tile n).weir.basin b = ((s.tile n).weir.afterFire ix p).basin b := by rw [Weir.basin, Weir.basin, h]
  rw [hbasin]
  exact Weir.afterFire_takes hl hb hk

section
variable {s : State} (hhusk : ∀ i, s.husked s.focus.a i = false) {ix : Nat} {p : Pattern}
  (hch : (s.chosen s.focus.a s.focus.b).2 = some (ix, p)) (hl : p.basins.Nodup) (hheld : p.held = none)
include hhusk hch hl hheld

/-- R180: a satisfied pattern fires its body. -/
theorem basinExamine_body (hact : p.action = false) (hroom : (s.tile s.focus.a).ready.length < 64) :
    ∃ t q, exec .basinExamine s = .next t ∧ Kept s t ∧ Took s t s.focus.a p ∧ (t.tile s.focus.a).ready = (s.tile s.focus.a).ready ++ [q] ∧
      q.entry = p.entry ∧ q.level = p.prio ∧ q.grans = p.grans ∧ q.role = p.role ∧ q.task = none ∧ q.saved = none ∧
      q.payloads = (p.basins.filterMap fun b => ((s.tile s.focus.a).weir.basin b).map fun k => (k.taken b).1) ∧ (p.inherit = false → q.inst = p.inst) ∧
      (s.focus.b, s.tc + 1) ∈ (t.tile s.focus.a).weir.examine ∧ (t.tile s.focus.a).weir.firedAt = s.tc + 1 := by
  let q := s.firedRecord s.focus.a p
  let f (x : Tile) : Tile := { x with ready := x.ready ++ [q] }
  let u := (s.firedTaken s.focus.a ix p).take.2
  have hexec := basinExamine_fires hhusk hch hheld (.inr hroom)
  rw [State.fire_body hact hheld] at hexec
  obtain ⟨a, l, htile⟩ := s.firedTaken_tile s.focus.a ix p
  have hlast : ((u.modTile s.focus.a f).modTile s.focus.a fun x => x.modWeir (Weir.fired s.focus.b s.tc)).tile s.focus.a =
      (f { s.tile s.focus.a with acc := a, l1 := l, weir := (s.tile s.focus.a).weir.afterFire ix p }).modWeir (Weir.fired s.focus.b s.tc) := by
    rw [State.tile_modTile_same, State.tile_modTile_same, show u.tile s.focus.a = _ from htile]
  have hkept : Kept s u := (Kept.firedFor s _ _ _ _).trans (.of_tiles rfl rfl ⟨rfl, rfl, rfl, rfl⟩)
  refine ⟨_, q, hexec, (hkept.trans (.modTile u _ (f := f) (fun _ => rfl) fun _ => rfl)).trans (.modWeir _ _ _), .of_basins (ix := ix) hl ?_, ?_,
    rfl, rfl, rfl, rfl, rfl, rfl, Tile.taking_payloads _ _, fun hin => ?_, ?_, ?_⟩
  · exact congrArg (fun x : Tile => x.weir.basins) hlast
  · exact congrArg Tile.ready hlast
  · change (if p.inherit || p.action then _ else p.inst) = p.inst
    rw [hin, hact]
    exact if_neg Bool.false_ne_true
  · have hex := congrArg (fun x : Tile => x.weir.examine) hlast
    rw [show (s.focus.b, s.tc + 1) ∈ _ ↔ _ from iff_of_eq (congrArg (fun l => (s.focus.b, s.tc + 1) ∈ l) hex)]
    exact List.mem_cons_self
  · exact congrArg (fun x : Tile => x.weir.firedAt) hlast

/-- R180: a satisfied pattern sends its engine a command. -/
theorem basinExamine_command {e : Nat × Basin} (hact : p.action = true)
    (he : (s.tile s.focus.a).liveBasins.find? (fun e => e.2.kind == .engine && e.2.engCopy == p.engCopy) = some e) :
    ∃ t m, exec .basinExamine s = .next t ∧ Kept s t ∧ Took s t s.focus.a p ∧ (t.tile s.focus.a).ready = (s.tile s.focus.a).ready ∧
      (t.tile s.focus.a).weir.localIn = (s.tile s.focus.a).weir.localIn ++ [(s.nc + 6, m)] ∧
      m.handle = handleOf s.dev.device s.focus.a e.1 ((s.tile s.focus.a).weir.gen e.1) ∧ m.size = 64 ∧
      m.payload = patchImage p.command.toNat p.patch (p.basins.filterMap fun b => ((s.tile s.focus.a).weir.basin b).map fun k => (k.taken b).1.1) := by
  let m := plainMsg s.focus.a (handleOf s.dev.device s.focus.a e.1 ((s.tile s.focus.a).weir.gen e.1)) ((s.tile s.focus.a).firedInst p) 64
    (patchImage p.command.toNat p.patch ((((s.tile s.focus.a).taking p).map fun e => e.1.1).map (·.1)))
  let f (w : Weir) : Weir := { w with localIn := w.localIn ++ [(s.nc + 6, m)] }
  have hexec := basinExamine_fires hhusk hch hheld (.inl hact)
  rw [State.fire_command hact he] at hexec
  obtain ⟨a, l, htile⟩ := s.firedTaken_tile s.focus.a ix p
  have hlast : (((s.firedTaken s.focus.a ix p).sendLocal s.focus.a m).modTile s.focus.a fun x => x.modWeir (Weir.fired s.focus.b s.tc)).tile s.focus.a =
      (({ s.tile s.focus.a with acc := a, l1 := l, weir := (s.tile s.focus.a).weir.afterFire ix p } : Tile).modWeir f).modWeir (Weir.fired s.focus.b s.tc) := by
    rw [State.sendLocal, State.tile_modTile_same, State.tile_modTile_same, htile]
    rfl
  obtain ⟨bs, hbs⟩ := (s.tile s.focus.a).weir.afterFire_rest ix p
  refine ⟨_, m, hexec, ((Kept.firedFor s _ _ _ _).trans (State.sendLocal_weir _ _ _).1).trans (.modWeir _ _ _), .of_basins (ix := ix) hl ?_, ?_, ?_, rfl, rfl, ?_⟩
  · exact congrArg (fun x : Tile => x.weir.basins) hlast
  · exact (congrArg Tile.ready hlast).trans rfl
  · refine (congrArg (fun x : Tile => x.weir.localIn) hlast).trans ?_
    change ((s.tile s.focus.a).weir.afterFire ix p).localIn ++ _ = _
    rw [hbs]
  · change patchImage _ _ _ = _
    rw [Tile.taking_payloads, List.map_filterMap]
    exact congrArg (fun l => patchImage p.command.toNat p.patch l) (congrArg (List.filterMap · p.basins) (funext fun b => by rw [Option.map_map]; rfl))

end

/-! ### Ring refills (R164) -/

theorem UnitReads.foldl_snd {α β : Type} {f : β × State → α → β × State} (hf : ∀ r a, UnitReads r.2 (f r a).2) (l : List α) (r : β × State) :
    UnitReads r.2 (l.foldl f r).2 := by
  induction l generalizing r with
  | nil => exact .refl r.2
  | cons a l ih => exact (hf r a).trans (ih _)

/-- What a unit's read at a virtual address can change. -/
theorem UnitReads.agentRead {s : State} {n va k : Nat} {v : Nat × State} (h : s.agentRead n va k = .ok v) : UnitReads s v.2 := by
  rw [State.agentRead] at h
  dsimp only at h
  split at h
  · cases h
  · split at h
    · cases h
    · cases h
      refine (UnitReads.walked s n va k false).trans (.foldl_snd (fun r p => ?_) _ (0, s.walked n va k))
      split
      · exact .refl r.2
      · exact .unitRead r.2 _ _

/-- The basin to which the oldest message of its ring has come back. -/
def Basin.refilled (m : Held) (r : List Held) (v tc : Nat) (k : Basin) : Basin := { k with
  slots := k.slots ++ [{ m with payload := v % 2 ^ (8 * k.msize), from_ := tc, bad := [] }]
  ring := r, ringHead := (k.ringHead + 1) % 2 ^ k.ringLog, refilling := false }

theorem ringRefillReturn_joins {s : State} {k : Basin} {m : Held} {r : List Held} {v : Nat × State} (hk : (s.tile s.focus.a).weir.basin s.focus.b = some k)
    (hgen : (s.tile s.focus.a).weir.gen s.focus.b = s.focus.c) (hring : k.ring = m :: r)
    (hv : s.agentRead s.focus.a (k.ringBase.toNat + 64 * k.ringHead) 64 = .ok v) :
    ∃ t, exec .ringRefillReturn s = .next t ∧ (∀ m i, t.jet m i = s.jet m i) ∧ ((∀ q, (s.stop q).dir = []) → t.mem = s.mem) ∧
      (t.tile s.focus.a).weir.basin s.focus.b = some (k.refilled m r v.1 s.tc) := by
  have hreads := UnitReads.agentRead hv
  have htc : v.2.tc = s.tc := by rw [State.tc, State.tc, hreads.1.rest]
  obtain ⟨v, u⟩ := v
  have hu : (u.tile s.focus.a).weir = (s.tile s.focus.a).weir := by rw [hreads.1.tile]
  have hexec : exec .ringRefillReturn s = .next (u.modTile s.focus.a fun x => x.modWeir fun w =>
      (w.modBasin s.focus.b (Basin.refilled m r v u.tc)).look s.focus.b u.tc) := by
    change execRingRefillReturn s = _
    simp only [execRingRefillReturn, hk, hgen, bne_self_eq_false, Bool.false_eq_true, if_false, hring, hv]
    rfl
  have hk' : (u.tile s.focus.a).weir.basin s.focus.b = some k := by rw [hu, hk]
  obtain ⟨htakes, -⟩ := WeirTakes.modBasin (s := u) (tc := u.tc) (Basin.refilled m r v u.tc) hk'
  obtain ⟨hmem, hjets⟩ := hreads.calmJets
  refine ⟨_, hexec, fun m i => (htakes.kept.jets m i).trans (hjets m i), fun hdir => htakes.kept.mem.trans (hmem hdir), ?_⟩
  rw [← htc]
  exact htakes.lands.1

/-! ### The statement -/

theorem Kept.and {s t : State} (h : Kept s t) : t.mem = s.mem ∧ (∀ m i, t.jet m i = s.jet m i) ∧ ∀ m, (t.tile m).pool = (s.tile m).pool :=
  ⟨h.mem, h.jets, h.pools⟩

/-- Settles O49: each event of the weir by what it changes in basins, windows and buffers. -/
theorem weirEvents : Obligations.WeirEvents := by
  intro s n x w kept plain at_ lands pkt leaves fires took local_
  refine ⟨fun m k ⟨hb, d, r, hin⟩ ⟨hc, hr, hk⟩ hop hring hg => ?_, fun m k ⟨hb, d, r, hin⟩ ⟨hc, hr, hk⟩ hop => ?_,
    fun m k ⟨hb, d, r, hin⟩ ⟨hc, hr, hk⟩ hop => ?_, fun m why ⟨hb, d, r, hin⟩ hc hr => ?_,
    fun m r k hb hin hres ⟨hc, hr, hk⟩ hop hring hg hseq => ?_, fun m r hb hin hres hseq => ?_,
    fun i o hb hi ho hno => ⟨fun hd ht hp => ?_, fun haway => ?_⟩, fun hd => ?_, fun o hd ho hrel hb hc => ?_, fun o hb ho => ?_,
    fun hh hc => ?_, fun ix p ⟨hh, hc, hl, hheld⟩ hact hroom => ?_, fun ix p ⟨hh, hc, hl, hheld⟩ hact hfull => ?_,
    fun ix p e ⟨hh, hc, hl, hheld⟩ hact he => ?_, fun k m r v hk hgen hring hv => ringRefillReturn_joins hk hgen hring hv⟩
  · obtain ⟨t, hexec, hkept, hrest⟩ := sendAccept_local_places hb hin hc hr hk hop hring hg
    exact ⟨t, hexec, hkept.and, hrest⟩
  · obtain ⟨t, l, hexec, hkept, hrest⟩ := sendAccept_local_counts hb hin hc hr hk hop
    exact ⟨t, l, hexec, hkept.and, hrest⟩
  · obtain ⟨t, l, hexec, hkept, hrest⟩ := sendAccept_local_arms hb hin hc hr hk hop
    exact ⟨t, l, hexec, hkept.and, hrest⟩
  · obtain ⟨t, hexec, hkept, hrest⟩ := sendAccept_local_refused hb hin hc hr
    exact ⟨t, hexec, hkept.and, hrest⟩
  · obtain ⟨t, hexec, hkept, hrest⟩ := sendAccept_net_places hb hin hres hc hr hk hop hring hg hseq
    exact ⟨t, hexec, hkept.and, hrest⟩
  · obtain ⟨t, hexec, hkept, hrest⟩ := sendAccept_net_holds hb hin hres hseq
    exact ⟨t, hexec, hkept.and, hrest⟩
  · obtain ⟨t, hexec, hkept, hrest⟩ := sendRelease_local hb hi ho hno hd ht hp
    exact ⟨t, hexec, hkept.and, hrest⟩
  · obtain ⟨t, m, hexec, hkept, hrest⟩ := sendRelease_away hb hi ho hno haway
    exact ⟨t, m, hexec, hkept.and, hrest⟩
  · obtain ⟨t, hexec, hkept, hrest⟩ := sendAck_takes hd
    exact ⟨t, hexec, hkept.and, hrest⟩
  · obtain ⟨t, hexec, hkept, hrest⟩ := sendAck_returns hd ho hrel hb hc
    exact ⟨t, hexec, hkept.and, hrest⟩
  · obtain ⟨t, m, hexec, hkept, hrest⟩ := sendRetry_resends hb ho
    exact ⟨t, m, hexec, hkept.and, hrest⟩
  · obtain ⟨t, hexec, hkept, hrest⟩ := basinExamine_none hh hc
    exact ⟨t, hexec, hkept.and, hrest⟩
  · obtain ⟨t, q, hexec, hkept, hrest⟩ := basinExamine_body hh hc hl hheld hact hroom
    exact ⟨t, q, hexec, hkept.and, hrest⟩
  · obtain ⟨t, hexec, hkept, hrest⟩ := basinExamine_blocks hh hc hact hfull
    exact ⟨t, hexec, hkept.and, hrest⟩
  · obtain ⟨t, m, hexec, hkept, hrest⟩ := basinExamine_command hh hc hl hheld hact he
    exact ⟨t, m, hexec, hkept.and, hrest⟩

end Sys2Proof.Machine
end

section
/-! SUPPORT. Two machines of one memory translate alike (R208, R212 to R214): what a translation or an address check reads of a tile is its TLB, its
stash, its stash mappings and its ways; of the machine, memory, the stops, the dies, the agenda and the time. -/
namespace Sys2Proof.Machine

/-- Two tiles that translations find alike. -/
structure TileReads (x y : Tile) : Prop where
  tlb : y.tlb = x.tlb
  stash : y.stash = x.stash
  ways : y.poolways = x.poolways
  maps : y.stashMaps = x.stashMaps
  fenced : y.fenced = x.fenced

theorem TileReads.refl (x : Tile) : TileReads x x := ⟨rfl, rfl, rfl, rfl, rfl⟩

/-- The owner of a line writes it to its home (R220). -/
def State.ownerHome (s : State) (line : Nat) (d : DirEntry) : State :=
  match d.owner with
  | none => s
  | some o => match (s.tile o).stash.find? fun l => l.pa == line && l.owned with | none => s | some l => s.stashHome l

/-- Those who hold a line. -/
def DirEntry.holders (d : DirEntry) : List Nat := (match d.owner with | some o => [o] | none => []) ++ d.sharers

def Stop.undirected (line : Nat) (x : Stop) : Stop := { x with dir := x.dir.filter (·.line != line) }
def Stop.shared (line : Nat) (hold : List Nat) (x : Stop) : Stop :=
  { x with dir := x.dir.map fun e => if e.line = line then { e with owner := none, sharers := hold } else e }

/-- A line comes home from the stash that owns it; for a write no stash keeps it. -/
theorem State.recall_eq (s : State) (pa : Nat) (write : Bool) : s.recall pa write =
    match (s.stop (homeOf pa)).dirOf (pa / 128) with
    | none => s
    | some d =>
      if write then (d.holders.foldl (fun v n => v.modTile n (Tile.dropCopy (pa / 128))) (s.ownerHome (pa / 128) d)).modStop (homeOf pa) (Stop.undirected (pa / 128))
      else (d.holders.foldl (fun v n => v.modTile n (Tile.disown (pa / 128))) (s.ownerHome (pa / 128) d)).modStop (homeOf pa)
        (Stop.shared (pa / 128) d.holders) := rfl

/-- Two machines that translations find alike. -/
structure SameReads (s u : State) : Prop where
  mem : u.mem = s.mem
  stops : u.stops = s.stops
  dies : u.dies = s.dies
  dev : u.dev = s.dev
  nc : u.nc = s.nc
  agenda : u.agenda = s.agenda
  tile : ∀ m, TileReads (s.tile m) (u.tile m)

namespace SameReads

variable {s u : State}

theorem refl (s : State) : SameReads s s := ⟨rfl, rfl, rfl, rfl, rfl, rfl, fun _ => .refl _⟩

theorem stop (h : SameReads s u) (n : Nat) : u.stop n = s.stop n := by rw [State.stop, State.stop, h.stops]
theorem die (h : SameReads s u) (n : Nat) : u.die n = s.die n := by rw [State.die, State.die, h.dies]
theorem tc (h : SameReads s u) : u.tc = s.tc := congrArg (· / 2) h.nc

/-- A tile changes in fields that no translation reads. -/
theorem modTile (s : State) (n : Nat) {f : Tile → Tile} (hf : ∀ x, TileReads x (f x)) : SameReads s (s.modTile n f) :=
  ⟨rfl, rfl, rfl, rfl, rfl, rfl, fun m => by
    by_cases h : m = n
    · rw [h, State.tile_modTile_same]
      exact hf _
    · rw [State.tile_modTile_ne s f h]
      exact .refl _⟩

theorem trans {v : State} (h : SameReads s u) (k : SameReads u v) : SameReads s v :=
  ⟨k.mem.trans h.mem, k.stops.trans h.stops, k.dies.trans h.dies, k.dev.trans h.dev, k.nc.trans h.nc, k.agenda.trans h.agenda, fun m =>
    ⟨(k.tile m).tlb.trans (h.tile m).tlb, (k.tile m).stash.trans (h.tile m).stash, (k.tile m).ways.trans (h.tile m).ways,
      (k.tile m).maps.trans (h.tile m).maps, (k.tile m).fenced.trans (h.tile m).fenced⟩⟩

/-- A tile of both changes alike. -/
theorem bothTile (h : SameReads s u) (n : Nat) {f : Tile → Tile} (hf : ∀ x y, TileReads x y → TileReads (f x) (f y)) : SameReads (s.modTile n f) (u.modTile n f) :=
  ⟨h.mem, h.stops, h.dies, h.dev, h.nc, h.agenda, fun m => by
    by_cases hm : m = n
    · rw [hm, State.tile_modTile_same, State.tile_modTile_same]
      exact hf _ _ (h.tile n)
    · rw [State.tile_modTile_ne s f hm, State.tile_modTile_ne u f hm]
      exact h.tile m⟩

theorem bothStop (h : SameReads s u) (n : Nat) (f : Stop → Stop) : SameReads (s.modStop n f) (u.modStop n f) :=
  ⟨h.mem, by simp only [State.modStop, h.stop, h.stops], h.dies, h.dev, h.nc, h.agenda, h.tile⟩

theorem bothHome (h : SameReads s u) (l : StashLine) : SameReads (s.stashHome l) (u.stashHome l) :=
  ⟨by simp only [State.stashHome, h.mem], h.stops, h.dies, by simp only [State.stashHome, h.dev], h.nc, h.agenda, h.tile⟩

theorem bothFoldl {α : Type} {f : State → α → State} (hf : ∀ s u a, SameReads s u → SameReads (f s a) (f u a)) (l : List α) (h : SameReads s u) :
    SameReads (l.foldl f s) (l.foldl f u) := by
  induction l generalizing s u with
  | nil => exact h
  | cons a l ih => exact ih (hf s u a h)

theorem bothOwner (h : SameReads s u) (line : Nat) (d : DirEntry) : SameReads (s.ownerHome line d) (u.ownerHome line d) := by
  rw [State.ownerHome, State.ownerHome]
  split
  · exact h
  next o _ =>
    rw [(h.tile o).stash]
    split
    · exact h
    · exact h.bothHome _

theorem bothRecall (h : SameReads s u) (pa : Nat) (write : Bool) : SameReads (s.recall pa write) (u.recall pa write) := by
  rw [State.recall_eq, State.recall_eq, h.stop]
  split
  · exact h
  next d _ =>
    split
    · exact (SameReads.bothFoldl (f := fun v n => v.modTile n (Tile.dropCopy (pa / 128)))
        (fun _ _ n k => k.bothTile n fun _ _ e => ⟨e.tlb, congrArg (·.filter (·.pa != pa / 128)) e.stash, e.ways, e.maps, e.fenced⟩) _ (h.bothOwner _ d)).bothStop _ _
    · exact (SameReads.bothFoldl (f := fun v n => v.modTile n (Tile.disown (pa / 128)))
        (fun _ _ n k => k.bothTile n fun _ _ e => ⟨e.tlb, congrArg (·.map fun l => if l.pa = pa / 128 then { l with owned := false } else l) e.stash, e.ways,
          e.maps, e.fenced⟩) _ (h.bothOwner _ d)).bothStop _ _

theorem bothUse (h : SameReads s u) (pa n : Nat) (write : Bool) : SameReads (s.unitUse pa n write) (u.unitUse pa n write) :=
  .bothFoldl (fun s u l k => by
    have hrec := k.bothRecall (128 * l) write
    dsimp only
    rw [hrec.stop]
    split
    · exact hrec.bothStop _ _
    · exact hrec) _ h

theorem unitRead (h : SameReads s u) (pa n : Nat) : (u.unitRead pa n).1 = (s.unitRead pa n).1 := by
  have hown : u.ownPa pa = s.ownPa pa := by rw [State.ownPa, State.ownPa, h.dev]
  rw [State.unitRead, State.unitRead, hown, h.nc]
  split
  · exact congrArg (·.readN pa n) (h.bothUse pa n false).mem
  · rfl

theorem walkFrom (h : SameReads s u) (va : Nat) (l : List (Nat × Nat × Bool)) (node : Nat) (seen : List Nat) :
    u.walkFrom va l node seen = s.walkFrom va l node seen := by
  induction l generalizing node seen with
  | nil => rfl
  | cons e l ih =>
    obtain ⟨sh, bits, leafOk⟩ := e
    simp only [State.walkFrom, h.unitRead, ih]

theorem walk (h : SameReads s u) (va : Nat) : u.walk va = s.walk va := by
  rw [State.walk, State.walk, h.walkFrom, h.dev]

theorem missLeft (h : SameReads s u) (line d : Nat) : u.missLeft line d = s.missLeft line d := by
  rw [State.missLeft, State.missLeft, h.stop, h.agenda, h.nc]

theorem l2Cost (h : SameReads s u) (t pa : Nat) : u.l2Cost t pa = s.l2Cost t pa := by
  rw [State.l2Cost, State.l2Cost, State.ownPa, State.ownPa, h.missLeft, h.stop, h.dev]

theorem xlate (h : SameReads s u) (t va : Nat) : u.xlate t va = s.xlate t va := by
  simp only [State.xlate, Tile.tlbFind, (h.tile t).tlb, h.die, h.walk, h.tc, h.l2Cost]

theorem stashed (h : SameReads s u) (t va : Nat) : (u.tile t).stashed va = (s.tile t).stashed va := by
  simp only [Tile.stashed, (h.tile t).ways, (h.tile t).maps]

theorem scratch (h : SameReads s u) (t p n : Nat) : (u.tile t).scratch p n = (s.tile t).scratch p n := by
  simp only [Tile.scratch, (h.tile t).ways, (h.tile t).fenced]

theorem partOf (h : SameReads s u) (t : Nat) (need : Need) (ov : KindOv) (direct : Bool) (e : Nat × Nat × Nat) :
    u.partOf t need ov direct e = s.partOf t need ov direct e := by
  simp only [State.partOf, h.dev, h.scratch, h.stashed, (h.tile t).stash, h.xlate]

theorem partsOf (h : SameReads s u) (t : Nat) (need : Need) (ov : KindOv) (direct : Bool) (va nb : Nat) :
    u.partsOf t need ov direct va nb = s.partsOf t need ov direct va nb := by
  have hpart : u.partOf t need ov direct = s.partOf t need ov direct := funext (h.partOf t need ov direct)
  simp only [State.partsOf, h.dev, hpart]

theorem untranslated (h : SameReads s u) (t a : Nat) (st : Bool) : u.untranslated t a st = s.untranslated t a st := by
  simp only [State.untranslated, h.dev, h.stashed, (h.tile t).stash]

theorem xlateCost (h : SameReads s u) (t va nb : Nat) (st : Bool) : u.xlateCost t va nb st = s.xlateCost t va nb st := by
  simp only [State.xlateCost, h.untranslated, h.xlate]

theorem agentCost (h : SameReads s u) (t va : Nat) : u.agentCost t va = s.agentCost t va := by
  simp only [State.agentCost, h.dev, h.xlate, h.l2Cost]

theorem agentBack (h : SameReads s u) (t va : Nat) : u.agentBack t va = s.agentBack t va := by
  simp only [State.agentBack, h.dev, h.xlate]

end SameReads

/-! ### What a step of a unit leaves as it was -/

theorem UnitStep.kept {s t : State} (h : UnitStep s t) (hmem : t.mem = s.mem) : Kept s t := by
  have hrest := h.rest
  refine ⟨hmem, fun m => ?_, fun m k => ?_, ?_, ?_, ?_, ?_⟩
  · rw [h.tile m]
  · rw [State.jet, h.tile m]
    rfl
  all_goals rw [hrest]

/-! ### A range with one part -/

/-- Whether a range reaches past the end of a pool window it begins in (R208). -/
def State.pastPool (s : State) (t va nb : Nat) : Bool :=
  match poolOf s.dev.device.toNat t va with
  | some (_, _, p) => decide (2 ^ 20 < p + nb)
  | none => false

/-- What parts that have all been found make of a range, or the first of their causes. -/
def gatherParts (l : List (Except Nat Part)) : Except Nat (List Part) :=
  match l.filterMap fun p => match p with | .error c => some c | .ok _ => none with
  | c :: r => .error (r.foldl minCause c)
  | [] => .ok (l.filterMap fun p => match p with | .ok q => some q | .error _ => none)

theorem State.partsOf_eq (s : State) (t : Nat) (need : Need) (ov : KindOv) (direct : Bool) (va nb : Nat) : s.partsOf t need ov direct va nb =
    if s.pastPool t va nb then .error 10 else gatherParts ((lineParts va nb).map (s.partOf t need ov direct)) := rfl

theorem gatherParts_ok {l : List (Except Nat Part)} {ps : List Part} (h : gatherParts l = .ok ps) : l = ps.map .ok := by
  rw [gatherParts] at h
  split at h
  · cases h
  next hbad =>
    cases h
    induction l with
    | nil => rfl
    | cons a l ih =>
      cases a with
      | error c => cases hbad
      | ok q => exact congrArg (_ :: ·) (ih hbad)

theorem State.partsOf_one {s : State} {t va nb : Nat} {need : Need} {ov : KindOv} {direct : Bool} {p : Part}
    (h : s.partsOf t need ov direct va nb = .ok [p]) : ∃ e, lineParts va nb = [e] ∧ s.partOf t need ov direct e = .ok p := by
  rw [State.partsOf_eq] at h
  split at h
  · cases h
  · exact List.map_eq_singleton_iff.mp (gatherParts_ok h)

/-- A part lies in a pool where its address does. -/
theorem State.partOf_pool {s : State} {t : Nat} {need : Need} {ov : KindOv} {direct : Bool} {e : Nat × Nat × Nat} {p : Part}
    (h : s.partOf t need ov direct e = .ok p) (hpath : p.path = .pool) : (poolOf s.dev.device.toNat t (e.2.1 % 2 ^ 64)).isSome = true := by
  rw [State.partOf] at h
  split at h
  next heq => rw [heq]; rfl
  next =>
    exfalso
    dsimp only at h
    split at h
    · cases h
      cases hpath
    · split at h
      · cases h
      · split at h
        · cases h
        · split at h
          · cases h
          · cases h
            dsimp only at hpath
            split at hpath
            · cases hpath
            · split at hpath
              · cases hpath
              · split at hpath <;> cases hpath

/-- No walk is needed for a range that is one part of a pool. -/
theorem State.walked_pool {s : State} {t va nb : Nat} {need : Need} {ov : KindOv} {direct : Bool} {p : Part}
    (h : s.partsOf t need ov direct va nb = .ok [p]) (hpath : p.path = .pool) (st : Bool) : s.walked t va nb st = s := by
  obtain ⟨e, hline, hpart⟩ := State.partsOf_one h
  have hun : s.untranslated t (e.2.1 % 2 ^ 64) st = true := by
    rw [State.untranslated, State.partOf_pool hpart hpath, Bool.true_or]
  simp only [State.walked, State.cacheFor, hline, List.foldl_cons, List.foldl_nil, hun, if_true]

end Sys2Proof.Machine
end

section
/-! SUPPORT. A copy's command at the engine and its source reads (R241, R242, R246, R251). -/
namespace Sys2Proof.Machine

/-! ### Windows -/

theorem Tile.modChan_modChan (x : Tile) (ch : Nat) (f g : Channel → Channel) : (x.modChan ch f).modChan ch g = x.modChan ch (g ∘ f) := by
  simp only [Tile.modChan, Tile.chan, Tbl.get_set_same, Tbl.set_set, Function.comp]

/-- A channel with a window. -/
def Channel.opened (a lo hi : Nat) (g ng : Bool) (c : Channel) : Channel :=
  { c with winVa := a, winLo := lo, winHi := hi, wm := BitVec.ofNat 64 a, guarded := g, needGuard := ng }

/-- A guard table with one more window. -/
def Tile.guarding (g : RemoteGuard) (x : Tile) : Tile := { x with guards := x.guards ++ [g] }

theorem State.openWindow_tile (s : State) (t ch a n : Nat) : Kept s (s.openWindow t ch a n) ∧ (s.openWindow t ch a n).stops = s.stops ∧
    ∃ lo hi g ng l, (s.openWindow t ch a n).tile t = { (s.tile t).modChan ch (Channel.opened a lo hi g ng) with guards := l } := by
  rw [State.openWindow]
  split
  next o p _ =>
    have hone (b : Bool) : Kept s (s.modTile t fun x => x.modChan ch (Channel.opened a p (p + n) b false)) :=
      .modTile s t (fun _ => rfl) fun _ => rfl
    have htile (b : Bool) : (s.modTile t fun x => x.modChan ch (Channel.opened a p (p + n) b false)).tile t =
        (s.tile t).modChan ch (Channel.opened a p (p + n) b false) := State.tile_modTile_same ..
    dsimp only
    split
    · exact ⟨hone _, rfl, _, _, _, _, _, htile _⟩
    next hfar =>
      split
      · refine ⟨(hone _).trans (.modTile _ o (f := Tile.guarding _) (fun _ => rfl) fun _ => rfl), rfl, p, p + n, o == t && n != 0, false, (s.tile t).guards, ?_⟩
        exact (State.tile_modTile_ne _ (Tile.guarding _) (fun h => hfar (.inl h.symm))).trans (htile _)
      · refine ⟨(hone _).trans (.modTile _ t (f := fun x => x.modChan ch fun c => { c with needGuard := true }) (fun _ => rfl) fun _ => rfl), rfl,
          p, p + n, o == t && n != 0, true, (s.tile t).guards, ?_⟩
        refine (State.tile_modTile_same _ t (fun x => x.modChan ch fun c => { c with needGuard := true })).trans ?_
        exact (congrArg (fun x : Tile => x.modChan ch fun c => { c with needGuard := true }) (htile _)).trans (Tile.modChan_modChan _ _ _ _)
  next => exact ⟨.modTile s t (fun _ => rfl) fun _ => rfl, rfl, a, a + n, false, false, (s.tile t).guards, State.tile_modTile_same ..⟩

theorem State.openWindow_chan (s : State) (t ch a n : Nat) : ∃ lo hi g ng, ((s.openWindow t ch a n).tile t).chan ch = ((s.tile t).chan ch).opened a lo hi g ng := by
  obtain ⟨-, -, lo, hi, g, ng, l, h⟩ := s.openWindow_tile t ch a n
  refine ⟨lo, hi, g, ng, ?_⟩
  rw [h]
  exact Tile.chan_modChan_same ..

/-! ### Acceptance -/

/-- What the taking of a copy command at the head of its queue leaves. -/
theorem State.takeEngineHead_copy (s : State) (n : Nat) (loc : Bool) : Kept s (s.takeEngineHead n true loc) ∧
    ((s.takeEngineHead n true loc).tile n).chans = (s.tile n).chans ∧ (loc = true → ((s.takeEngineHead n true loc).tile n).copyQ = (s.tile n).copyQ.tail) := by
  rw [State.takeEngineHead]
  split
  · refine ⟨.modTile s n (fun _ => rfl) fun _ => rfl, ?_, fun _ => ?_⟩ <;> rw [State.tile_modTile_same] <;> rfl
  next hloc =>
    split
    · exact ⟨.refl s, rfl, fun h => absurd h hloc⟩
    next b k _ =>
      have hacq (x : Tile) : ∃ a l, x.acquire ((k.slots.head?.map fun m => (m.rel, m.relAll)).toList) = { x with acc := a, l1 := l } := x.acquire_eq _
      refine ⟨.modTile s n (fun x => ?_) fun x => ?_, ?_, fun h => absurd h hloc⟩
      · obtain ⟨a, l, h⟩ := hacq x
        rw [h]
        rfl
      · obtain ⟨a, l, h⟩ := hacq x
        rw [h]
        rfl
      · obtain ⟨a, l, h⟩ := hacq (s.tile n)
        rw [State.tile_modTile_same, h]
        rfl

section
variable {s : State} {loc : Bool} {k : CopyCmd} (hhead : s.copyHead s.focus.a = some (loc, k))
include hhead

theorem copyAccept_starts {c : Channel} (hcheck : s.checkCopy s.focus.a k = .ok c) : exec .copyAccept s =
    .next ((s.takeEngineHead s.focus.a true loc).startChannel s.focus.a (fld k.img.toNat 240 3) c) := by
  change execCopyAccept s = _
  simp only [execCopyAccept, hhead, hcheck]

theorem copyAccept_refused {st : Nat} (hgather : s.gatherOf k = none) (hcheck : s.checkCopy s.focus.a k = .error (st, 0, 0)) (hst : st ≠ 3) :
    exec .copyAccept s = .next ((s.takeEngineHead s.focus.a true loc).doneMessage s.focus.a (fld k.img.toNat 240 3) st 0 0
      (BitVec.ofNat 32 (fld k.img.toNat 192 32)) k.inst) := by
  change execCopyAccept s = _
  simp only [execCopyAccept, hhead, hcheck, hgather, if_neg hst]
  rfl

end

/-- The channel a copy command asks for, with its template and the rows of a compacting copy. -/
def CopyCmd.channel (k : CopyCmd) (tpl : Template) (rows : List Nat) : Channel :=
  { Channel.idle with
    use := .copy, done := BitVec.ofNat 32 (fld k.img.toNat 192 32), inst := k.inst, src := fld k.img.toNat 64 64, dst := fld k.img.toNat 128 64, tpl := tpl
    cmp := fld k.img.toNat 243 1 == 1, rows := rows
    total := if fld k.img.toNat 243 1 == 1 then rows.length * tpl.rowElems else tpl.srcCount, jet := k.jet }

theorem State.checkCopy_template {s : State} {n : Nat} {k : CopyCmd} {tpl : Template} (hgather : s.gatherOf k = none)
    (hcap : (k.checked && !(s.tile n).capOk (fld k.img.toNat 0 64) true k.issuer) = false)
    (htpl : Tbl.get none (s.tile n).templates (fld k.img.toNat 232 6) = some tpl) : s.checkCopy n k =
      match (if fld k.img.toNat 243 1 == 1 then tpl.select (fld k.img.toNat 256 256) else some []) with
      | none => .error (4, 0, 0)
      | some rows => if s.windowBad n (k.channel tpl rows).lowVa (k.channel tpl rows).bytes then .error (3, (k.channel tpl rows).lowVa, (k.channel tpl rows).bytes)
        else .ok (k.channel tpl rows) := by
  have hbind : (s.gatherOf k).bind s.gatherChannel = none := by rw [hgather]; rfl
  simp only [State.checkCopy, hcap, hbind, htpl, Bool.false_eq_true, if_false] <;> rfl

/-- A copy whose command passes has the form its image gives. -/
theorem State.checkCopy_ok {s : State} {n : Nat} {k : CopyCmd} {c : Channel} (hgather : s.gatherOf k = none) (hcheck : s.checkCopy n k = .ok c) :
    ∃ tpl rows, Tbl.get none (s.tile n).templates (fld k.img.toNat 232 6) = some tpl ∧ c = k.channel tpl rows := by
  have hbind : (s.gatherOf k).bind s.gatherChannel = none := by rw [hgather]; rfl
  cases hcap : k.checked && !(s.tile n).capOk (fld k.img.toNat 0 64) true k.issuer with
  | true => simp only [State.checkCopy, hcap, if_true] at hcheck; cases hcheck
  | false =>
    cases htpl : Tbl.get none (s.tile n).templates (fld k.img.toNat 232 6) with
    | none => simp only [State.checkCopy, hcap, hbind, htpl, Bool.false_eq_true, if_false] at hcheck; cases hcheck
    | some tpl =>
      rw [State.checkCopy_template hgather hcap htpl] at hcheck
      generalize (if fld k.img.toNat 243 1 == 1 then tpl.select (fld k.img.toNat 256 256) else some []) = rows at hcheck
      cases rows with
      | none => cases hcheck
      | some rows =>
        dsimp only at hcheck
        split at hcheck
        · cases hcheck
        · exact ⟨tpl, rows, rfl, (Except.ok.inj hcheck).symm⟩

theorem State.checkCopy_cap {s : State} {n : Nat} {k : CopyCmd} (hchecked : k.checked = true)
    (hcap : (s.tile n).capOk (fld k.img.toNat 0 64) true k.issuer = false) : s.checkCopy n k = .error (2, 0, 0) := by
  simp only [State.checkCopy, hchecked, hcap, Bool.not_false, Bool.and_self, if_true]

theorem State.checkCopy_noTemplate {s : State} {n : Nat} {k : CopyCmd} (hgather : s.gatherOf k = none)
    (hcap : k.checked = true → (s.tile n).capOk (fld k.img.toNat 0 64) true k.issuer = true)
    (htpl : Tbl.get none (s.tile n).templates (fld k.img.toNat 232 6) = none) : s.checkCopy n k = .error (4, 0, 0) := by
  have hbind : (s.gatherOf k).bind s.gatherChannel = none := by rw [hgather]; rfl
  have hpass : (k.checked && !(s.tile n).capOk (fld k.img.toNat 0 64) true k.issuer) = false := by
    cases hk : k.checked with
    | false => rfl
    | true => rw [hcap hk]; rfl
  simp only [State.checkCopy, hpass, hbind, htpl, Bool.false_eq_true, if_false]

/-- The channel that a command gives, before its window. -/
def Channel.begun (id tc : Nat) (c old : Channel) : Channel := { c with state := .landing, status := old.status, accepted := id, from_ := tc }

theorem State.startChannel_spec (s : State) (n ch : Nat) {c : Channel} (hc : c.total ≠ 0) : Kept s (s.startChannel n ch c) ∧
    ((s.startChannel n ch c).tile n).copyQ = (s.tile n).copyQ ∧ ∃ id old lo hi g ng,
      ((s.startChannel n ch c).tile n).chan ch = (c.begun id s.tc old).opened c.lowVa lo hi g ng := by
  have hguard := GuardsOnly.dropGuard s n ch
  let s1 := (s.dropGuard n ch).take.2
  let s2 := s1.modTile n fun x => x.modChan ch (c.begun (s.dropGuard n ch).nextId s.tc)
  have hdef : s.startChannel n ch c = s2.openWindow n ch c.lowVa c.bytes := by
    rw [State.startChannel]
    have htc : (s.dropGuard n ch).take.2.tc = s.tc := by rw [State.tc, State.take, hguard.rest]; rfl
    simp only [if_neg hc, htc]
    rfl
  obtain ⟨hopen, -, lo, hi, g, ng, l, htile⟩ := s2.openWindow_tile n ch c.lowVa c.bytes
  have hkept : Kept s s2 := ((CoreKept.dropGuard s n ch).kept.trans (show Kept _ s1 from ⟨rfl, fun _ => rfl, fun _ _ => rfl, rfl, rfl, rfl, rfl⟩)).trans
    (.modTile s1 n (fun _ => rfl) fun _ => rfl)
  have hs2 : s2.tile n = ((s.dropGuard n ch).tile n).modChan ch (c.begun (s.dropGuard n ch).nextId s.tc) := State.tile_modTile_same ..
  rw [hdef]
  refine ⟨hkept.trans hopen, ?_, (s.dropGuard n ch).nextId, ((s.dropGuard n ch).tile n).chan ch, lo, hi, g, ng, ?_⟩
  · rw [htile, hs2, hguard.tile n]
    rfl
  · rw [htile]
    refine (Tile.chan_modChan_same (s2.tile n) ch _).trans (congrArg (Channel.opened _ lo hi g ng) ?_)
    rw [hs2]
    exact Tile.chan_modChan_same ..

/-! ### Refusals -/

/-- The fields of a done message (R250). -/
def doneFields (count st ch t wm : Nat) : Nat := count % 2 ^ 32 + st * 2 ^ 32 + ch * 2 ^ 40 + t * 2 ^ 48 + wm % 2 ^ 64 * 2 ^ 64

theorem doneFields_count (count st ch t wm : Nat) : fld (doneFields count st ch t wm) 0 32 = count % 2 ^ 32 := by
  simp only [fld, doneFields]
  omega

theorem doneFields_status (count st ch t wm : Nat) : fld (doneFields count st ch t wm) 32 8 = st % 2 ^ 8 := by
  simp only [fld, doneFields]
  omega

theorem doneFields_chan (count t wm : Nat) {st ch : Nat} (hst : st < 2 ^ 8) (hch : ch < 2 ^ 8) : fld (doneFields count st ch t wm) 40 8 = ch := by
  simp only [fld, doneFields]
  omega

/-- A done message is posted where its handle is not 0. -/
theorem State.doneMessage_posts (s : State) (t ch st wm count : Nat) {done : BitVec 32} (inst : BitVec 16) (hdone : done ≠ 0) :
    ∃ e : OutEntry, ((s.doneMessage t ch st wm count done inst).tile t).weir.outbound = (s.tile t).weir.outbound ++ [e] ∧ e.m.handle = done ∧ e.m.size = 16 ∧
      e.m.payload = doneFields count st ch t wm := by
  simp only [State.doneMessage, if_neg hdone, State.post, State.tile_modTile_same]
  exact ⟨_, rfl, rfl, rfl, rfl⟩

section
variable {s : State} {loc : Bool} {k : CopyCmd} (hhead : s.copyHead s.focus.a = some (loc, k)) (hgather : s.gatherOf k = none)
include hhead hgather

/-- A command that passes starts its channel, with its window (R241). -/
theorem copyAccept_lands {c : Channel} (hcheck : s.checkCopy s.focus.a k = .ok c) (htotal : c.total ≠ 0) : ∃ t, exec .copyAccept s = .next t ∧ Kept s t ∧
    (let d := (t.tile s.focus.a).chan (fld k.img.toNat 240 3);
      d.state = .landing ∧ d.src = fld k.img.toNat 64 64 ∧ d.dst = fld k.img.toNat 128 64 ∧
        some d.tpl = Tbl.get none (s.tile s.focus.a).templates (fld k.img.toNat 232 6) ∧
        d.done = BitVec.ofNat 32 (fld k.img.toNat 192 32) ∧ d.next = 0 ∧ d.count = 0 ∧ d.wm = BitVec.ofNat 64 (c.dstVa 0) ∧ d.winVa = c.dstVa 0) ∧
    (loc = true → (t.tile s.focus.a).copyQ = (s.tile s.focus.a).copyQ.tail) := by
  obtain ⟨tpl, rows, htpl, rfl⟩ := State.checkCopy_ok hgather hcheck
  obtain ⟨htaken, -, hqueue⟩ := s.takeEngineHead_copy s.focus.a loc
  obtain ⟨hstart, hsame, id, old, lo, hi, g, ng, hchan⟩ :=
    (s.takeEngineHead s.focus.a true loc).startChannel_spec s.focus.a (fld k.img.toNat 240 3) htotal
  refine ⟨_, copyAccept_starts hhead hcheck, htaken.trans hstart, ?_, fun hloc => hsame.trans (hqueue hloc)⟩
  rw [hchan, htpl]
  exact ⟨rfl, rfl, rfl, rfl, rfl, rfl, rfl, rfl, rfl⟩

/-- A refused command is answered with its status (R241, R250). -/
theorem copyAccept_answers {st : Nat} (hcheck : s.checkCopy s.focus.a k = .error (st, 0, 0)) (hst : st ≠ 3) (hlt : st < 2 ^ 8) :
    ∃ t, exec .copyAccept s = .next t ∧ Kept s t ∧ (BitVec.ofNat 32 (fld k.img.toNat 192 32) ≠ 0 →
      ∃ e ∈ (t.tile s.focus.a).weir.outbound, e.m.handle = BitVec.ofNat 32 (fld k.img.toNat 192 32) ∧ e.m.size = 16 ∧ fld e.m.payload 32 8 = st ∧
        fld e.m.payload 40 8 = fld k.img.toNat 240 3) := by
  obtain ⟨htaken, -, -⟩ := s.takeEngineHead_copy s.focus.a loc
  refine ⟨_, copyAccept_refused hhead hgather hcheck hst, htaken.trans (CoreKept.doneMessage _ _ _ _ _ _ _ _).kept, fun hdone => ?_⟩
  obtain ⟨e, hout, hhandle, hsize, hpay⟩ := (s.takeEngineHead s.focus.a true loc).doneMessage_posts s.focus.a (fld k.img.toNat 240 3) st 0 0 k.inst hdone
  refine ⟨e, ?_, hhandle, hsize, ?_, ?_⟩
  · rw [hout]
    exact List.mem_append_right _ (List.mem_singleton_self e)
  · rw [hpay, doneFields_status, Nat.mod_eq_of_lt hlt]
  · exact (congrArg (fld · 40 8) hpay).trans (doneFields_chan _ _ _ hlt (Nat.lt_of_lt_of_le (fld_lt _ _ _) (by decide)))

end

end Sys2Proof.Machine
end

section
/-! SUPPORT. A channel's source reads (R242, R246, R251): one sets out, is performed and comes back. -/
namespace Sys2Proof.Machine

/-! ### A read sets out -/

/-- A channel with one more piece asked for. -/
def Channel.asks (c : Channel) (nb num : Nat) (d : Channel) : Channel :=
  { d with pieces := d.pieces ++ [⟨d.readNext, d.readOff, nb, none, 0, none, num⟩]
           readNext := if c.tpl.esize ≤ c.readOff + nb then d.readNext + 1 else d.readNext
           readOff := if c.tpl.esize ≤ c.readOff + nb then 0 else d.readOff + nb }

/-- A machine that differs in its stops and dies alone. -/
def StopsOnly (s u : State) : Prop := u = { s with stops := u.stops, dies := u.dies }

theorem StopsOnly.trans {s u v : State} (h : StopsOnly s u) (k : StopsOnly u v) : StopsOnly s v := by
  rw [StopsOnly, k, h]

theorem StopsOnly.kept {s u : State} (h : StopsOnly s u) : Kept s u := by
  rw [h]
  exact .of_tiles rfl rfl ⟨rfl, rfl, rfl, rfl⟩

theorem State.walkBegins_stops (s : State) (t va : Nat) : StopsOnly s (s.walkBegins t va) := by
  have hfold (q : Nat) (l : List Nat) (m : State × Nat) : StopsOnly m.1
      (l.foldr (fun a (m : State × Nat) => (m.1.askUnit q (unitId 0 0) a 8 (2 * m.2 + 28), m.2 + s.l2Cost q a)) m).1 := by
    induction l with
    | nil => exact rfl
    | cons a l ih => exact ih.trans rfl
  rw [State.walkBegins]
  dsimp only
  split
  · exact rfl
  · exact (hfold _ _ (s, _)).trans rfl

/-- A read that asks a stop for a value, or comes to nothing, leaves every tile alone. -/
theorem State.sourceAsk_tiles (s : State) (t va nb num : Nat) (f : Focus) : Kept s (s.sourceAsk t va nb num f) ∧ (s.sourceAsk t va nb num f).tiles = s.tiles := by
  have hwalk := s.walkBegins_stops t va
  have htiles : (s.walkBegins t va).tiles = s.tiles := by rw [hwalk]
  rw [State.sourceAsk]
  split
  · split
    · split
      · exact ⟨.at_ _ _ _ _, rfl⟩
      · exact ⟨.modStop _ _ _, rfl⟩
    · exact ⟨hwalk.kept.trans ((UnitReads.askUnit _ _ _ _ _ _).1.kept rfl), htiles⟩
  · exact ⟨hwalk.kept.trans (.at_ _ _ _ _), htiles⟩

theorem State.injectTo_mem (s : State) (dev src dst : Nat) (port : Endpoint) (flits d : Nat) (b : Pkt) :
    s.packet dev src dst port flits d b ∈ ((s.injectTo dev src dst port flits d b).stop src).inject := by
  rw [State.injectTo, State.stop_modStop_same]
  exact List.mem_append_right _ (List.mem_singleton_self _)

theorem State.sourceAsk_unit {s : State} {t va nb num : Nat} {f : Focus} {p : Part} (h : s.partsOf t .read .page true va nb = .ok [p]) (hp : p.path ≠ .pool) :
    s.packet (s.homeDev p.addr) t (homePort p.addr).1 (homePort p.addr).2 1 (2 * s.xlateCost t va nb + 28) (.read t (unitId 2 num) 0 p.addr p.nb) ∈
      ((s.sourceAsk t va nb num f).stop t).inject := by
  have hwalk := s.walkBegins_stops t va
  have hmem := (s.walkBegins t va).injectTo_mem ((s.walkBegins t va).homeDev p.addr) t (homePort p.addr).1 (homePort p.addr).2 1
    (2 * s.xlateCost t va nb + 28) (.read t (unitId 2 num) 0 p.addr p.nb)
  have hpkt : ∀ u, StopsOnly s u → u.packet (u.homeDev p.addr) t (homePort p.addr).1 (homePort p.addr).2 1 (2 * s.xlateCost t va nb + 28)
      (.read t (unitId 2 num) 0 p.addr p.nb) = s.packet (s.homeDev p.addr) t (homePort p.addr).1 (homePort p.addr).2 1 (2 * s.xlateCost t va nb + 28)
      (.read t (unitId 2 num) 0 p.addr p.nb) := fun u hu => by
    rw [hu]
    rfl
  rw [hpkt _ hwalk] at hmem
  simpa only [State.sourceAsk, h, if_neg hp, State.askUnit] using hmem

theorem State.sourceAsk_far {s : State} {t va nb num : Nat} {f : Focus} {p : Part} (h : s.partsOf t .read .page true va nb = .ok [p]) (hp : p.path = .pool)
    (hfar : p.pool ≠ 1024 * s.dev.device.toNat + t) :
    s.packet (p.pool / 1024) t (p.pool % 1024) .tile 1 14 (.poolReq t (unitId 2 num) 0 .read p.addr p.nb) ∈ ((s.sourceAsk t va nb num f).stop t).inject := by
  simpa only [State.sourceAsk, h, if_pos hp, if_neg hfar] using s.injectTo_mem ..

theorem State.sourceAsk_back {s : State} {t va nb num : Nat} {f : Focus}
    (h : ∀ p, s.partsOf t .read .page true va nb = .ok [p] → p.path = .pool ∧ p.pool = 1024 * s.dev.device.toNat + t) :
    (s.nc + 2 * (s.agentCost t va - s.agentBack t va), f, Instr.copyReadReturn) ∈ (s.sourceAsk t va nb num f).agenda := by
  have hnc : (s.walkBegins t va).nc = s.nc := by rw [s.walkBegins_stops t va]
  rw [State.sourceAsk]
  split
  next p hp =>
    obtain ⟨hpool, hown⟩ := h p hp
    rw [if_pos hpool, if_pos hown]
    exact agendaInsert_mem _ _ _ _
  next =>
    rw [State.after, hnc]
    exact agendaInsert_mem _ _ _ _

/-- One piece is read, within a 64 B source block (R242). -/
theorem copySourceRead_reads {s : State} {ch : Nat} {c : Channel} (hreader : (s.tile s.focus.a).reader s.tc = some (ch, c))
    (hchan : (s.tile s.focus.a).chan ch = c) {a nb : Nat} (ha : (c.srcVa c.readNext + c.readOff) % 2 ^ 64 = a) (hnb : min (64 - a % 64) (c.tpl.esize - c.readOff) = nb) :
    ∃ t, exec .copySourceRead s = .next t ∧ Kept s t ∧ ((t.tile s.focus.a).chan ch).pieces = c.pieces ++ [⟨c.readNext, c.readOff, nb, none, 0, none, s.nextId⟩] ∧
      (∀ p, s.partsOf s.focus.a .read .page true a nb = .ok [p] →
        (p.path ≠ .pool → s.packet (s.homeDev p.addr) s.focus.a (homePort p.addr).1 (homePort p.addr).2 1 (2 * s.xlateCost s.focus.a a nb + 28)
          (.read s.focus.a (unitId 2 s.nextId) 0 p.addr p.nb) ∈ (t.stop s.focus.a).inject) ∧
        (p.path = .pool → p.pool ≠ 1024 * s.dev.device.toNat + s.focus.a → s.packet (p.pool / 1024) s.focus.a (p.pool % 1024) .tile 1 14
          (.poolReq s.focus.a (unitId 2 s.nextId) 0 .read p.addr p.nb) ∈ (t.stop s.focus.a).inject)) ∧
      ((∀ p, s.partsOf s.focus.a .read .page true a nb = .ok [p] → p.path = .pool ∧ p.pool = 1024 * s.dev.device.toNat + s.focus.a) →
        (s.nc + 2 * (s.agentCost s.focus.a a - s.agentBack s.focus.a a), ⟨s.focus.a, ch, c.readNext, c.readOff, c.accepted⟩, Instr.copyReadReturn) ∈ t.agenda) := by
  let n := s.focus.a
  let u := s.take.2.modTile n fun x => x.modChan ch (c.asks nb s.nextId)
  have hreads : SameReads s u := SameReads.trans (u := s.take.2) ⟨rfl, rfl, rfl, rfl, rfl, rfl, fun _ => .refl _⟩ (.modTile _ n fun _ => ⟨rfl, rfl, rfl, rfl, rfl⟩)
  have hexec : exec .copySourceRead s = .next (u.sourceAsk n a nb s.nextId ⟨n, ch, c.readNext, c.readOff, c.accepted⟩) := by
    change execCopySourceRead s = _
    simp only [execCopySourceRead, hreader, ha, hnb]
    rfl
  have hkept : Kept s u := Kept.trans (t := s.take.2) ⟨rfl, fun _ => rfl, fun _ _ => rfl, rfl, rfl, rfl, rfl⟩ (.modTile _ n (fun _ => rfl) fun _ => rfl)
  obtain ⟨hask, htiles⟩ := u.sourceAsk_tiles n a nb s.nextId ⟨n, ch, c.readNext, c.readOff, c.accepted⟩
  have hparts := hreads.partsOf n .read .page true a nb
  refine ⟨_, hexec, hkept.trans hask, ?_, fun p hp => ⟨fun hpath => ?_, fun hpath hfar => ?_⟩, fun h => ?_⟩
  · have htile : ((u.sourceAsk n a nb s.nextId ⟨n, ch, c.readNext, c.readOff, c.accepted⟩).tile n).chan ch = c.asks nb s.nextId c := by
      rw [State.tile, htiles]
      refine (congrArg (Tile.chan · ch) (State.tile_modTile_same s.take.2 n _)).trans ((Tile.chan_modChan_same _ _ _).trans ?_)
      exact congrArg (c.asks nb s.nextId) hchan
    rw [htile]
    rfl
  · rw [← hreads.xlateCost]
    exact u.sourceAsk_unit (hparts.trans hp) hpath
  · exact u.sourceAsk_far (hparts.trans hp) hpath hfar
  · rw [← hreads.agentCost, ← hreads.agentBack]
    exact u.sourceAsk_back fun p hp => h p (hparts.symm.trans hp)

/-! ### A read comes back -/

/-- A channel with one of its pieces in a new form. -/
def Channel.turned (p q : Piece) (c : Channel) : Channel := { c with pieces := c.pieces.map fun r => if r = p then q else r }

/-- A piece of a channel turns. -/
def State.turnPiece (s : State) (n ch : Nat) (p q : Piece) : State := s.modTile n fun x => x.modChan ch (Channel.turned p q)

/-- The address of a piece. -/
def Channel.pieceVa (c : Channel) (p : Piece) : Nat := (c.srcVa p.elem + p.off) % 2 ^ 64

theorem State.turnPiece_spec (s : State) (n ch : Nat) (p q : Piece) : Kept s (s.turnPiece n ch p q) ∧
    ((s.turnPiece n ch p q).tile n).chan ch = ((s.tile n).chan ch).turned p q := by
  refine ⟨.modTile s n (fun _ => rfl) fun _ => rfl, ?_⟩
  exact (congrArg (Tile.chan · ch) (State.tile_modTile_same ..)).trans (Tile.chan_modChan_same ..)

/-- What a read that has been performed sends back, over the rest of its round trip. -/
def SentBack (s t : State) (n va nb num rest v : Nat) (f : Focus) : Prop :=
  match poolOf s.dev.device.toNat n va with
  | some (_, o, _) => if o = n then (s.nc + 2 * rest, f, Instr.copyReadReturn) ∈ t.agenda else
      (⟨s.dev.device.toNat, n, .tile, s.dev.device.toNat, o, payFlits nb, .readResp n (unitId 2 num) 0 v, false, s.nc + (2 * rest - 1 - wayCost o n), .tile⟩ : Packet) ∈
        (t.stop o).inject
  | none => (s.nc + 2 * rest, f, Instr.copyReadReturn) ∈ t.agenda

theorem State.sourceBack_spec (s : State) (n va nb num rest v : Nat) (f : Focus) : Kept s (s.sourceBack n va nb num rest v f) ∧
    (s.sourceBack n va nb num rest v f).tiles = s.tiles ∧ SentBack s (s.sourceBack n va nb num rest v f) n va nb num rest v f := by
  have hmine : Kept s (s.after rest .copyReadReturn f) ∧ (s.after rest .copyReadReturn f).tiles = s.tiles ∧
      (s.nc + 2 * rest, f, Instr.copyReadReturn) ∈ (s.after rest .copyReadReturn f).agenda := ⟨.at_ _ _ _ _, rfl, agendaInsert_mem _ _ _ _⟩
  cases hpool : poolOf s.dev.device.toNat n va with
  | none => simpa only [State.sourceBack, SentBack, hpool] using hmine
  | some e =>
    obtain ⟨d, o, q⟩ := e
    by_cases ho : o = n
    · simpa only [State.sourceBack, SentBack, hpool, if_pos ho] using hmine
    · simp only [State.sourceBack, SentBack, hpool, if_neg ho]
      refine ⟨.modStop _ _ _, rfl, ?_⟩
      rw [State.answerBy, State.stop_modStop_same]
      exact List.mem_append_right _ (List.mem_singleton_self _)

/-- Where the device and the time are the same, the same is sent back. -/
theorem SentBack.of_same {s u t : State} {n va nb num rest v : Nat} {f : Focus} (h : SentBack u t n va nb num rest v f)
    (hdev : u.dev.device = s.dev.device) (hnc : u.nc = s.nc) : SentBack s t n va nb num rest v f := by
  rw [SentBack, hdev, hnc] at h
  exact h

/-- A piece turns, and is sent back. -/
theorem State.turnBack_spec {s u : State} {n ch : Nat} {c : Channel} (hchan : (u.tile n).chan ch = c) (hdev : u.dev.device = s.dev.device) (hnc : u.nc = s.nc)
    (p q : Piece) (va nb num rest v : Nat) (f : Focus) : Kept u ((u.turnPiece n ch p q).sourceBack n va nb num rest v f) ∧
    (((u.turnPiece n ch p q).sourceBack n va nb num rest v f).tile n).chan ch = c.turned p q ∧
    SentBack s ((u.turnPiece n ch p q).sourceBack n va nb num rest v f) n va nb num rest v f := by
  obtain ⟨hturn, hpiece⟩ := u.turnPiece_spec n ch p q
  obtain ⟨hback, htiles, hsent⟩ := (u.turnPiece n ch p q).sourceBack_spec n va nb num rest v f
  refine ⟨hturn.trans hback, ?_, hsent.of_same hdev hnc⟩
  rw [State.tile, htiles]
  exact hpiece.trans (congrArg (Channel.turned p q) hchan)

theorem UnitStep.chan {s t : State} (h : UnitStep s t) (n ch : Nat) : (t.tile n).chan ch = (s.tile n).chan ch := by
  rw [h.tile n]
  rfl

theorem UnitStep.device {s t : State} (h : UnitStep s t) : t.dev.device = s.dev.device := by rw [h.rest]
theorem UnitStep.nc {s t : State} (h : UnitStep s t) : t.nc = s.nc := by rw [h.rest]

/-- An engine's read leaves the tile's channels, the device and the time alone. -/
theorem State.engineRead_rest {s u : State} {n va nb v : Nat} (h : s.engineRead n va nb = .ok (v, u)) (m ch : Nat) :
    (u.tile m).chan ch = (s.tile m).chan ch ∧ u.dev.device = s.dev.device ∧ u.nc = s.nc := by
  rw [State.engineRead] at h
  split at h
  · cases h
  · split at h
    · have hwalk := (UnitReads.walked s n va nb false).1
      obtain ⟨-, rfl⟩ := Prod.mk.inj (Except.ok.inj h)
      exact ⟨hwalk.chan m ch, hwalk.device, hwalk.nc⟩
    · have hread := (UnitReads.agentRead h).1
      exact ⟨hread.chan m ch, hread.device, hread.nc⟩

section
variable {s : State} {c : Channel} {p : Piece} (hchan : (s.tile s.focus.a).chan s.focus.b = c) (haccepted : c.accepted = s.focus.data) (hstate : c.state = .landing)
  (hpiece : c.pieces.find? (fun p => p.elem == s.focus.c && p.off == s.focus.d && p.out) = some p)
include hchan haccepted hstate hpiece

/-- The event of a read, before and after it has been performed. -/
theorem copyReadReturn_eq : exec .copyReadReturn s =
    if p.from_ = 2 ^ 64 then
      if p.data.isSome && c.pieces.head? != some p && decide (4096 < (s.tile s.focus.a).reorder + p.nb) then .next (s.after 1 .copyReadReturn s.focus)
      else .next ((s.walked s.focus.a (c.pieceVa p) p.nb).turnPiece s.focus.a s.focus.b p
        { p with from_ := s.tc + 1, bad := p.bad.map fun e => (e.1, c.pieceVa p) })
    else
      match s.engineGuard s.focus.a (c.pieceVa p) p.nb (some (s.focus.a, s.focus.b)) with
      | .stall => .next ((s.turnPiece s.focus.a s.focus.b p { p with from_ := 1 }).after 1 .copyReadReturn s.focus)
      | .aborted _ => .next ((s.turnPiece s.focus.a s.focus.b p { p with from_ := 2 ^ 64, bad := some (9, c.pieceVa p) }).sourceBack s.focus.a (c.pieceVa p) p.nb p.num
          (if p.from_ = 1 then s.agentCost s.focus.a (c.pieceVa p) else s.agentBack s.focus.a (c.pieceVa p)) 0 s.focus)
      | .clear =>
        match s.engineRead s.focus.a (c.pieceVa p) p.nb with
        | .error cause => .next (((s.walked s.focus.a (c.pieceVa p) p.nb).turnPiece s.focus.a s.focus.b p
            { p with from_ := 2 ^ 64, bad := some (cause, c.pieceVa p) }).sourceBack s.focus.a (c.pieceVa p) p.nb p.num
            (if p.from_ = 1 then s.agentCost s.focus.a (c.pieceVa p) else s.agentBack s.focus.a (c.pieceVa p)) 0 s.focus)
        | .ok (v, u) => .next ((u.turnPiece s.focus.a s.focus.b p { p with from_ := 2 ^ 64, data := some v }).sourceBack s.focus.a (c.pieceVa p) p.nb p.num
            (if p.from_ = 1 then s.agentCost s.focus.a (c.pieceVa p) else s.agentBack s.focus.a (c.pieceVa p)) v s.focus) := by
  have hgo : (c.accepted != s.focus.data || c.state != .landing) = false := by rw [haccepted, hstate]; simp
  change execCopyReadReturn s = _
  simp only [execCopyReadReturn, hchan, hgo, hpiece, Bool.false_eq_true, if_false] <;> rfl

/-- What is left of a read's round trip when it is performed. -/
def State.restOf (s : State) (n : Nat) (c : Channel) (p : Piece) : Nat := if p.from_ = 1 then s.agentCost n (c.pieceVa p) else s.agentBack n (c.pieceVa p)

theorem copyReadReturn_value (hfrom : p.from_ ≠ 2 ^ 64) (hguard : s.engineGuard s.focus.a (c.pieceVa p) p.nb (some (s.focus.a, s.focus.b)) = .clear)
    {v : Nat} {u : State} (hread : s.engineRead s.focus.a (c.pieceVa p) p.nb = .ok (v, u)) : ∃ t, exec .copyReadReturn s = .next t ∧ Kept u t ∧
      (t.tile s.focus.a).chan s.focus.b = c.turned p { p with from_ := 2 ^ 64, data := some v } ∧
      SentBack s t s.focus.a (c.pieceVa p) p.nb p.num (s.restOf s.focus.a c p) v s.focus := by
  obtain ⟨hsame, hdev, hnc⟩ := State.engineRead_rest hread s.focus.a s.focus.b
  have hexec := copyReadReturn_eq hchan haccepted hstate hpiece
  rw [if_neg hfrom, hguard, hread] at hexec
  exact ⟨_, hexec, State.turnBack_spec (hsame.trans hchan) hdev hnc p _ _ _ _ _ _ _⟩

theorem copyReadReturn_fault (hfrom : p.from_ ≠ 2 ^ 64) (hguard : s.engineGuard s.focus.a (c.pieceVa p) p.nb (some (s.focus.a, s.focus.b)) = .clear)
    {e : Nat} (hread : s.engineRead s.focus.a (c.pieceVa p) p.nb = .error e) : ∃ t, exec .copyReadReturn s = .next t ∧
      Kept (s.walked s.focus.a (c.pieceVa p) p.nb) t ∧
      (t.tile s.focus.a).chan s.focus.b = c.turned p { p with from_ := 2 ^ 64, bad := some (e, c.pieceVa p) } ∧
      SentBack s t s.focus.a (c.pieceVa p) p.nb p.num (s.restOf s.focus.a c p) 0 s.focus := by
  have hwalk := (UnitReads.walked s s.focus.a (c.pieceVa p) p.nb false).1
  have hexec := copyReadReturn_eq hchan haccepted hstate hpiece
  rw [if_neg hfrom, hguard, hread] at hexec
  exact ⟨_, hexec, State.turnBack_spec ((hwalk.chan _ _).trans hchan) hwalk.device hwalk.nc p _ _ _ _ _ _ _⟩

theorem copyReadReturn_aborted (hfrom : p.from_ ≠ 2 ^ 64) {k : Nat}
    (hguard : s.engineGuard s.focus.a (c.pieceVa p) p.nb (some (s.focus.a, s.focus.b)) = .aborted k) : ∃ t, exec .copyReadReturn s = .next t ∧ Kept s t ∧
      (t.tile s.focus.a).chan s.focus.b = c.turned p { p with from_ := 2 ^ 64, bad := some (9, c.pieceVa p) } ∧
      SentBack s t s.focus.a (c.pieceVa p) p.nb p.num (s.restOf s.focus.a c p) 0 s.focus := by
  have hexec := copyReadReturn_eq hchan haccepted hstate hpiece
  rw [if_neg hfrom, hguard] at hexec
  exact ⟨_, hexec, State.turnBack_spec hchan rfl rfl p _ _ _ _ _ _ _⟩

theorem copyReadReturn_stalls (hfrom : p.from_ ≠ 2 ^ 64) (hguard : s.engineGuard s.focus.a (c.pieceVa p) p.nb (some (s.focus.a, s.focus.b)) = .stall) :
    ∃ t, exec .copyReadReturn s = .next t ∧ Kept s t ∧ (t.tile s.focus.a).chan s.focus.b = c.turned p { p with from_ := 1 } ∧
      (s.nc + 2, s.focus, Instr.copyReadReturn) ∈ t.agenda := by
  have hexec := copyReadReturn_eq hchan haccepted hstate hpiece
  rw [if_neg hfrom, hguard] at hexec
  obtain ⟨hkept, hpiece⟩ := s.turnPiece_spec s.focus.a s.focus.b p { p with from_ := 1 }
  exact ⟨_, hexec, hkept.trans (.at_ _ _ _ _), hpiece.trans (congrArg (Channel.turned p _) hchan), agendaInsert_mem _ _ _ _⟩

theorem copyReadReturn_returns (hfrom : p.from_ = 2 ^ 64) (hroom : p.data.isSome = true → c.pieces.head? = some p ∨ (s.tile s.focus.a).reorder + p.nb ≤ 4096) :
    ∃ t, exec .copyReadReturn s = .next t ∧ Kept (s.walked s.focus.a (c.pieceVa p) p.nb) t ∧
      (t.tile s.focus.a).chan s.focus.b = c.turned p { p with from_ := s.tc + 1, bad := p.bad.map fun e => (e.1, c.pieceVa p) } := by
  have hwalk := (UnitReads.walked s s.focus.a (c.pieceVa p) p.nb false).1
  have hnot : ¬ (p.data.isSome && c.pieces.head? != some p && decide (4096 < (s.tile s.focus.a).reorder + p.nb)) = true := by
    simp only [Bool.and_eq_true, bne_iff_ne, decide_eq_true_eq]
    rintro ⟨⟨hdata, hhead⟩, hfull⟩
    rcases hroom hdata with h | h
    · exact hhead h
    · omega
  have hexec := copyReadReturn_eq hchan haccepted hstate hpiece
  rw [if_pos hfrom, if_neg hnot] at hexec
  obtain ⟨hkept, hpiece⟩ := (s.walked s.focus.a (c.pieceVa p) p.nb).turnPiece_spec s.focus.a s.focus.b p
    { p with from_ := s.tc + 1, bad := p.bad.map fun e => (e.1, c.pieceVa p) }
  exact ⟨_, hexec, hkept, hpiece.trans (congrArg (Channel.turned p _) ((hwalk.chan _ _).trans hchan))⟩

theorem copyReadReturn_waits (hfrom : p.from_ = 2 ^ 64) (hdata : p.data.isSome = true) (hhead : c.pieces.head? ≠ some p)
    (hfull : 4096 < (s.tile s.focus.a).reorder + p.nb) : ∃ t, exec .copyReadReturn s = .next t ∧ Kept s t ∧ (t.tile s.focus.a).chan s.focus.b = c ∧
      (s.nc + 2, s.focus, Instr.copyReadReturn) ∈ t.agenda := by
  have hcond : (p.data.isSome && c.pieces.head? != some p && decide (4096 < (s.tile s.focus.a).reorder + p.nb)) = true := by
    simpa [hdata, hfull] using hhead
  have hexec := copyReadReturn_eq hchan haccepted hstate hpiece
  rw [if_pos hfrom, if_pos hcond] at hexec
  exact ⟨_, hexec, .at_ _ _ _ _, hchan, agendaInsert_mem _ _ _ _⟩

end

end Sys2Proof.Machine
end

section
/-! SUPPORT. Landing writes (R242 to R245, R248 to R252). -/
namespace Sys2Proof.Machine

/-! ### The end of a channel -/

/-- What a landing write's end leaves of its tile: one channel differs, and guard entries, the weir and the writes kept apart. -/
def ChanStep (ch : Nat) (x y : Tile) (k : Channel) : Prop := ∃ g w l, y = { x.modChan ch (fun _ => k) with guards := g, weir := w, lastWrites := l }

theorem ChanStep.chan {ch : Nat} {x y : Tile} {k : Channel} (h : ChanStep ch x y k) : y.chan ch = k := by
  obtain ⟨g, w, l, rfl⟩ := h
  exact Tbl.get_set_same Channel.idle x.chans ch k

theorem ChanStep.stash {ch : Nat} {x y : Tile} {k : Channel} (h : ChanStep ch x y k) : y.stash = x.stash := by
  obtain ⟨g, w, l, rfl⟩ := h
  rfl

theorem ChanStep.subs {ch : Nat} {x y : Tile} {k : Channel} (h : ChanStep ch x y k) : y.subs = x.subs := by
  obtain ⟨g, w, l, rfl⟩ := h
  rfl

theorem ChanStep.after {ch : Nat} {x y z : Tile} {j k : Channel} (h : ChanStep ch x y j) (h' : ChanStep ch y z k) : ChanStep ch x z k := by
  obtain ⟨g, w, l, rfl⟩ := h
  obtain ⟨g', w', l', rfl⟩ := h'
  refine ⟨g', w', l', ?_⟩
  simp only [Tile.modChan, Tbl.set_set]

/-- A channel's new state changes tiles alone. -/
theorem State.setChan_rest (s : State) (t ch : Nat) (st : ChanState) : s.setChan t ch st = { s with tiles := (s.setChan t ch st).tiles } := by
  rw [State.setChan, (GuardsOnly.modGuards (s.modTile t fun x => x.modChan ch fun c => { c with state := st }) t ch
    (f := fun x => { x with guards := x.guards.map fun g => if g.tile = t ∧ g.chan = ch then { g with state := st } else g }) fun _ => rfl).rest]
  rfl

/-- The tile where a channel is done; a write of it that is on its way is kept apart. -/
def Tile.chanDone (ch : Nat) (c : Channel) (x : Tile) : Tile :=
  { x.modChan ch (Channel.closed 0) with lastWrites := if c.flying then x.lastWrites ++ [(ch, { c with status := 0 })] else x.lastWrites }

/-- The machine where a channel is done, before its message goes. -/
def State.chanDone (s : State) (t ch : Nat) : State :=
  (((s.gatherOver ((s.tile t).chan ch) 0).dropGuard t ch).setChan t ch .done).modTile t (Tile.chanDone ch ((s.tile t).chan ch))

theorem State.retireChan_done (s : State) (t ch : Nat) : s.retireChan t ch 0 =
    if ((s.tile t).chan ch).flying then s.chanDone t ch
    else (s.chanDone t ch).doneMessage t ch 0 ((s.tile t).chan ch).wm.toNat ((s.tile t).chan ch).count ((s.tile t).chan ch).done ((s.tile t).chan ch).inst := rfl

theorem State.chanDone_step (s : State) (t ch : Nat) : ChanStep ch (s.tile t) ((s.chanDone t ch).tile t) ((((s.tile t).chan ch).inState .done).closed 0) := by
  let u := (s.gatherOver ((s.tile t).chan ch) 0).dropGuard t ch
  obtain ⟨g, hg⟩ := u.setChan_tile t ch .done
  have hu : u.tile t = { s.tile t with guards := (u.tile t).guards } := by
    have h := (GuardsOnly.dropGuard (s.gatherOver ((s.tile t).chan ch) 0) t ch).tile t
    rw [(s.gatherOver_tile ((s.tile t).chan ch) 0 t).1] at h
    exact h
  rw [hu] at hg
  have htile : (s.chanDone t ch).tile t = Tile.chanDone ch ((s.tile t).chan ch) ((u.setChan t ch .done).tile t) := State.tile_modTile_same ..
  rw [htile, hg]
  refine ⟨g, (s.tile t).weir, if ((s.tile t).chan ch).flying then (s.tile t).lastWrites ++ [(ch, { (s.tile t).chan ch with status := 0 })] else (s.tile t).lastWrites, ?_⟩
  simp only [Tile.chanDone, Tile.modChan, Tile.chan, Tbl.set_set, Tbl.get_set_same]

theorem State.retireChan_step (s : State) (t ch : Nat) : ChanStep ch (s.tile t) ((s.retireChan t ch 0).tile t) ((((s.tile t).chan ch).inState .done).closed 0) := by
  have h := s.chanDone_step t ch
  rw [State.retireChan_done]
  split
  · exact h
  · obtain ⟨⟨w, hw⟩, -⟩ := (s.chanDone t ch).doneMessage_tile t ch 0 ((s.tile t).chan ch).wm.toNat ((s.tile t).chan ch).count ((s.tile t).chan ch).done
      ((s.tile t).chan ch).inst
    obtain ⟨g, w', l, hy⟩ := h
    rw [hw, hy]
    exact ⟨g, w, l, rfl⟩

/-- A channel goes on by a landing write; with its last write it is done. -/
def GoneOn (x : Tile) (ch nb : Nat) (c : Channel) : Prop :=
  ((c.landedBy nb).complete = false → x.chan ch = c.landedBy nb) ∧
  ((c.landedBy nb).complete = true → (x.chan ch).state = .done ∧ (x.chan ch).status = 0 ∧ (x.chan ch).wm = (c.landedBy nb).wm)

theorem State.landedWrite_spec {s : State} {t ch : Nat} {c : Channel} (hchan : (s.tile t).chan ch = c) (nb : Nat) : Kept s (s.landedWrite t ch nb) ∧
    GoneOn ((s.landedWrite t ch nb).tile t) ch nb c ∧ ((s.landedWrite t ch nb).tile t).stash = (s.tile t).stash := by
  let u := s.modTile t fun x => x.modChan ch fun c => c.landedBy nb
  have hkept : Kept s u := .modTile s t (fun _ => rfl) fun _ => rfl
  have hu : u.tile t = (s.tile t).modChan ch fun c => c.landedBy nb := State.tile_modTile_same ..
  have hc : (u.tile t).chan ch = c.landedBy nb := by
    rw [hu, ← hchan]
    exact Tile.chan_modChan_same ..
  have hstash : (u.tile t).stash = (s.tile t).stash := by rw [hu]; rfl
  have hdef : s.landedWrite t ch nb = if (c.landedBy nb).complete then u.retireChan t ch 0 else u := by
    rw [← hc]
    rfl
  rw [hdef]
  cases hdone : (c.landedBy nb).complete with
  | false => exact ⟨hkept, ⟨fun _ => hc, fun h => absurd (hdone.symm.trans h) Bool.false_ne_true⟩, hstash⟩
  | true =>
    have hstep := u.retireChan_step t ch
    have hnew := hstep.chan
    rw [hc] at hnew
    refine ⟨hkept.trans (CoreKept.retireChan u t ch 0).kept, ⟨fun h => absurd (hdone.symm.trans h) Bool.noConfusion, fun _ => ?_⟩, hstep.stash.trans hstash⟩
    rw [if_pos rfl, hnew]
    exact ⟨rfl, rfl, rfl⟩

/-! ### A landing write -/

/-- The tile where a channel's write is on its way. -/
def Channel.flies (c : Channel) : Channel := { c with flying := true }

/-- A line of the tile's stash is written, and its L1 copy goes (R219). -/
def Tile.stashWritten (line va off nb v : Nat) (x : Tile) : Tile :=
  { x.l1Drop line with stash := x.stash.map fun l => if l.va = va then l.wrote off (fullEn nb) v else l }

theorem landingWrite_freezes {s : State} {ch : Nat} {c : Channel} (hlander : s.lander s.focus.a = some (ch, c)) (hc : s.focus.c ≠ 1) {e a : Nat}
    (hbad : c.badHead = some (e, a)) : exec .landingWrite s = .next (s.freezeChan s.focus.a ch e a) := by
  change execLandingWrite s = _
  simp only [execLandingWrite, if_neg hc, hlander, hbad]

theorem landingWrite_lands {s : State} {ch : Nat} {c : Channel} (hlander : s.lander s.focus.a = some (ch, c)) (hc : s.focus.c ≠ 1) {a nb v : Nat}
    (hgood : c.badHead = none) (hnext : c.nextWrite s.tc = some (a, nb, v)) : exec .landingWrite s = .next (s.landWrite s.focus.a ch a nb v) := by
  change execLandingWrite s = _
  simp only [execLandingWrite, if_neg hc, hlander, hgood, hnext]

section
variable {s : State} {n : Nat} (ch : Nat) {a nb : Nat} (v : Nat) {p : Part} (hparts : s.partsOf n .write .page false a nb = .ok [p])
include hparts

theorem State.landWrite_own (hpath : p.path = .pool) (hpool : p.pool = 1024 * s.dev.device.toNat + n) :
    s.landWrite n ch a nb v = (s.modTile n fun x => x.poolWrite p.addr nb (fullEn nb) v).landedWrite n ch nb := by
  simp only [State.landWrite, hparts, if_pos hpath, if_pos hpool, State.walked_pool hparts hpath]

theorem State.landWrite_stash (hpath : p.path = .stash) (hstash : ∃ l ∈ (s.tile n).stash, l.va = a / 128 ∧ l.owned = true) :
    s.landWrite n ch a nb v = ((s.walked n a nb).modTile n (Tile.stashWritten (p.addr / 128) (a / 128) (p.addr % 128) nb v)).landedWrite n ch nb := by
  have hmine : (decide (p.path = .stash) && (s.tile n).stash.any fun l => l.va == a / 128 && l.owned) = true := by
    simpa using ⟨hpath, hstash⟩
  have hnot : p.path ≠ .pool := by rw [hpath]; exact Path.noConfusion
  simp only [State.landWrite, hparts, if_neg hnot, hmine, if_true]
  rfl

variable {ch} {c : Channel} (hchan : (s.tile n).chan ch = c)
include hchan

theorem State.landWrite_far (hpath : p.path = .pool) (hpool : p.pool ≠ 1024 * s.dev.device.toNat + n) :
    s.landWrite n ch a nb v = ((s.walked n a nb).modTile n fun x => x.modChan ch Channel.flies).injectTo (p.pool / 1024) n (p.pool % 1024) .tile (payFlits nb) 14
      (.poolReq n (2 ^ 65 + ch + 8 * c.accepted) 0 (.land ch v (c.winLo + ((c.landedBy nb).wm.toNat - c.winVa))) p.addr nb) := by
  simp only [State.landWrite, hparts, if_pos hpath, if_neg hpool, hchan]
  rfl

theorem State.landWrite_memory (hpath : p.path ≠ .pool) (hio : paIo p.addr = false)
    (hstash : ¬ (p.path = .stash ∧ ∃ l ∈ (s.tile n).stash, l.va = a / 128 ∧ l.owned = true)) :
    s.landWrite n ch a nb v = ((s.walked n a nb).modTile n fun x => x.modChan ch Channel.flies).injectTo (paDev p.addr) n (homeOf p.addr) .l2 (payFlits nb) 28
      (.write n [2 ^ 65 + ch + 8 * c.accepted] (p.addr / 128) (fullEn nb * 2 ^ (2 * (p.addr % 128))) (v * 2 ^ (8 * (p.addr % 128)))) := by
  have hmine : (decide (p.path = .stash) && (s.tile n).stash.any fun l => l.va == a / 128 && l.owned) = false := by
    simpa using hstash
  simp only [State.landWrite, hparts, if_neg hpath, hmine, hio, hchan, Bool.false_eq_true, if_false]
  rfl

end

/-- Where a channel's write goes away, the channel waits for its acknowledgement. -/
theorem State.flies_spec {s : State} {n ch : Nat} {c : Channel} (hchan : (s.tile n).chan ch = c) (a nb dev dst flits d : Nat) (port : Endpoint) (b : Pkt) :
    let t := ((s.walked n a nb).modTile n fun x => x.modChan ch Channel.flies).injectTo dev n dst port flits d b
    Kept (s.walked n a nb) t ∧ (t.tile n).chan ch = { c with flying := true } ∧ s.packet dev n dst port flits d b ∈ (t.stop n).inject := by
  have hwalk := (UnitReads.walked s n a nb false).1
  have htile : ((s.walked n a nb).modTile n fun x => x.modChan ch Channel.flies).tile n = ((s.walked n a nb).tile n).modChan ch Channel.flies := State.tile_modTile_same ..
  have hpkt : ((s.walked n a nb).modTile n fun x => x.modChan ch Channel.flies).packet dev n dst port flits d b = s.packet dev n dst port flits d b := by
    simp only [State.packet, State.modTile, State.setTile, hwalk.device, hwalk.nc]
  refine ⟨(Kept.modTile (s.walked n a nb) n (f := fun x => x.modChan ch Channel.flies) (fun _ => rfl) fun _ => rfl).trans (.modStop _ _ _), ?_, ?_⟩
  · refine (congrArg (Tile.chan · ch) htile).trans ((Tile.chan_modChan_same _ _ _).trans (congrArg Channel.flies ?_))
    rw [hwalk.chan, hchan]
  · rw [← hpkt]
    exact State.injectTo_mem ..

end Sys2Proof.Machine
end

section
/-! SUPPORT. What each landing write changes, and its acknowledgement (R219, R242 to R252); windows in other pools (R246, R248). -/
namespace Sys2Proof.Machine

/-! ### Bytes of a pool -/

/-- A pool is written: nothing but its bytes and their poison differs. -/
def PoolWritten (s u : State) (n a nb en v : Nat) : Prop := u.mem = s.mem ∧ (∀ m i, u.jet m i = s.jet m i) ∧
  (u.tile n).pool = (s.tile n).pool.writeEn a nb en v ∧ ∀ m, m ≠ n → (u.tile m).pool = (s.tile m).pool

theorem PoolWritten.modTile (s : State) (n : Nat) {a nb en v : Nat} {f : Tile → Tile} (hjets : ∀ x, (f x).jets = x.jets)
    (hpool : ∀ x, (f x).pool = x.pool.writeEn a nb en v) : PoolWritten s (s.modTile n f) n a nb en v := by
  refine ⟨rfl, fun m i => ?_, ?_, fun m hm => ?_⟩
  · by_cases hm : m = n
    · rw [State.jet, State.jet, hm, State.tile_modTile_same, Tile.jet, Tile.jet, hjets]
    · rw [State.jet, State.tile_modTile_ne s f hm]
      rfl
  · rw [State.tile_modTile_same, hpool]
  · rw [State.tile_modTile_ne s f hm]

theorem PoolWritten.kept {s u t : State} {n a nb en v : Nat} (h : PoolWritten s u n a nb en v) (k : Kept u t) : PoolWritten s t n a nb en v := by
  obtain ⟨hmem, hjets, hpool, hothers⟩ := h
  exact ⟨k.mem.trans hmem, fun m i => (k.jets m i).trans (hjets m i), (k.pools n).trans hpool, fun m hm => (k.pools m).trans (hothers m hm)⟩

/-! ### The writes -/

theorem StashLine.wrote_line (l : StashLine) (o en v : Nat) : (l.wrote o en v).va = l.va ∧
    (l.wrote o en v).data = mergeNib l.data (v * 2 ^ (8 * o)) (en * 2 ^ (2 * o)) 256 := by
  simp only [StashLine.wrote, and_self]

theorem Tile.stashWritten_chan (line va off nb v : Nat) (x : Tile) (ch : Nat) : (x.stashWritten line va off nb v).chan ch = x.chan ch := rfl

section
variable {s : State} {n ch a nb : Nat} (v : Nat) {c : Channel} {p : Part} (hchan : (s.tile n).chan ch = c)
  (hparts : s.partsOf n .write .page false a nb = .ok [p])
include hchan hparts

theorem State.landWrite_own_spec (hpath : p.path = .pool) (hpool : p.pool = 1024 * s.dev.device.toNat + n) :
    PoolWritten s (s.landWrite n ch a nb v) n p.addr nb (fullEn nb) v ∧ GoneOn ((s.landWrite n ch a nb v).tile n) ch nb c := by
  rw [State.landWrite_own ch v hparts hpath hpool]
  have hsame : ((s.modTile n fun x => x.poolWrite p.addr nb (fullEn nb) v).tile n).chan ch = c := by
    rw [State.tile_modTile_same]
    exact hchan
  obtain ⟨hkept, hgone, -⟩ := State.landedWrite_spec hsame nb
  exact ⟨(PoolWritten.modTile s n (f := fun x => x.poolWrite p.addr nb (fullEn nb) v) (fun _ => rfl) fun _ => rfl).kept hkept, hgone⟩

theorem State.landWrite_stash_spec (hpath : p.path = .stash) (hstash : ∃ l ∈ (s.tile n).stash, l.va = a / 128 ∧ l.owned = true) :
    Kept (s.walked n a nb) (s.landWrite n ch a nb v) ∧ GoneOn ((s.landWrite n ch a nb v).tile n) ch nb c ∧
    ∀ l ∈ ((s.landWrite n ch a nb v).tile n).stash, l.va = a / 128 → ∃ m ∈ ((s.walked n a nb).tile n).stash, m.va = l.va ∧
      l.data = mergeNib m.data (v * 2 ^ (8 * (p.addr % 128))) (fullEn nb * 2 ^ (2 * (p.addr % 128))) 256 := by
  rw [State.landWrite_stash ch v hparts hpath hstash]
  have hwalk := ((UnitReads.walked s n a nb false).1.chan n ch).trans hchan
  generalize s.walked n a nb = u at hwalk ⊢
  have htile := State.tile_modTile_same u n (Tile.stashWritten (p.addr / 128) (a / 128) (p.addr % 128) nb v)
  have hsame : ((u.modTile n (Tile.stashWritten (p.addr / 128) (a / 128) (p.addr % 128) nb v)).tile n).chan ch = c := by
    rw [htile, Tile.stashWritten_chan, hwalk]
  obtain ⟨hkept, hgone, hlines⟩ := State.landedWrite_spec hsame nb
  refine ⟨(Kept.modTile u n (f := Tile.stashWritten (p.addr / 128) (a / 128) (p.addr % 128) nb v) (fun _ => rfl) fun _ => rfl).trans hkept, hgone, fun l hl hva => ?_⟩
  rw [hlines, htile] at hl
  obtain ⟨m, hm, rfl⟩ := List.mem_map.mp hl
  by_cases h : m.va = a / 128
  · rw [if_pos h]
    exact ⟨m, hm, (m.wrote_line _ _ _).1.symm, (m.wrote_line _ _ _).2⟩
  · rw [if_neg h] at hva
    exact absurd hva h

end

/-! ### A landing write is acknowledged -/

/-- A step that changes lines alone: of a tile its caches, its stash and its accesses' notes of older copies. -/
def LineStep (s t : State) : Prop := t.nc = s.nc ∧ t.dev.device = s.dev.device ∧ ∀ m, t.tile m =
  { s.tile m with icache := (t.tile m).icache, tlb := (t.tile m).tlb, stash := (t.tile m).stash, l1 := (t.tile m).l1, acc := (t.tile m).acc }

theorem LineStep.refl (s : State) : LineStep s s := ⟨rfl, rfl, fun _ => rfl⟩

theorem LineStep.trans {s t u : State} (h : LineStep s t) (k : LineStep t u) : LineStep s u := by
  obtain ⟨hnc, hdev, htile⟩ := h
  obtain ⟨knc, kdev, ktile⟩ := k
  exact ⟨knc.trans hnc, kdev.trans hdev, fun m => by rw [ktile m, htile m]⟩

theorem UnitStep.lines {s t : State} (h : UnitStep s t) : LineStep s t := ⟨h.nc, h.device, fun m => by rw [h.tile m]⟩

theorem LineStep.modTile (s : State) (n : Nat) {f : Tile → Tile}
    (hf : ∀ x, f x = { x with icache := (f x).icache, tlb := (f x).tlb, stash := (f x).stash, l1 := (f x).l1, acc := (f x).acc }) :
    LineStep s (s.modTile n f) := by
  refine ⟨rfl, rfl, fun m => ?_⟩
  by_cases h : m = n
  · rw [h, State.tile_modTile_same]
    exact hf _
  · rw [State.tile_modTile_ne s f h]

theorem LineStep.modStop (s : State) (n : Nat) (f : Stop → Stop) : LineStep s (s.modStop n f) := ⟨rfl, rfl, fun _ => rfl⟩
theorem LineStep.stashHome (s : State) (l : StashLine) : LineStep s (s.stashHome l) := (UnitStep.stashHome s l).lines

/-- The tile takes a line into its stash, in the place of another. -/
def Tile.takesLine (l : StashLine) (victim : Option StashLine) (x : Tile) : Tile :=
  { x with stash := l :: x.stash.filter fun m => m.va != l.va && some m != victim }

theorem LineStep.stashTake (s : State) (t : Nat) (l : StashLine) : LineStep s (s.stashTake t l) := by
  have htake (u : State) (v : Option StashLine) : LineStep u (u.modTile t (Tile.takesLine l v)) := .modTile u t fun _ => rfl
  rw [State.stashTake]
  dsimp only
  generalize (if ((s.tile t).stash.filter fun m => m.va % 512 == l.va % 512 && m.va != l.va).length < (s.tile t).stashWays then none
    else (((s.tile t).stash.filter fun m => m.va % 512 == l.va % 512 && m.va != l.va).reverse.find? fun m => !m.keep).or
      ((s.tile t).stash.filter fun m => m.va % 512 == l.va % 512 && m.va != l.va).getLast?) = victim
  cases victim with
  | none => exact htake s none
  | some v =>
    dsimp only
    split
    · exact ((LineStep.stashHome s v).trans (.modStop _ _ _)).trans (htake _ _)
    · exact (LineStep.modStop s _ _).trans (htake _ _)

/-- The directory has an entry for a line. -/
def Stop.directs (e : DirEntry) (line : Nat) (x : Stop) : Stop := { x with dir := e :: x.dir.filter fun d => d.line != line }

theorem LineStep.stashGrant (s : State) (h t va line : Nat) (own free keep : Bool) (data : Nat) : LineStep s (s.stashGrant h t va line own free keep data).2 := by
  have hgo (e : DirEntry) (l : StashLine) : LineStep s ((s.modStop h (Stop.directs e line)).stashTake t l) := (LineStep.modStop s h _).trans (.stashTake _ t l)
  have hcases (b : Bool) (e : DirEntry) (l : StashLine) : LineStep s (if b then (false, s) else (true, (s.modStop h (Stop.directs e line)).stashTake t l)).2 := by
    cases b with
    | true => exact .refl s
    | false => exact hgo e l
  exact hcases _ _ _

theorem LineStep.stashLanded (s : State) (t : Nat) (c : Channel) : LineStep s (s.stashLanded t c) := by
  rw [State.stashLanded]
  split
  · exact .refl s
  · split
    · split
      · exact (((UnitStep.recall s _ true).lines).trans (.modTile _ t (f := fun x => x.l1Drop _) fun _ => rfl)).trans (.stashGrant _ _ _ _ _ _ _ _ _)
      · exact .refl s
    · exact .refl s

theorem LineStep.chan {s t : State} (h : LineStep s t) (n ch : Nat) : (t.tile n).chan ch = (s.tile n).chan ch := by
  rw [h.2.2 n]
  rfl

section
variable {s : State} (hc : s.focus.c = 1)
include hc

theorem landingWrite_acked {c : Channel} (hchan : (s.tile s.focus.a).chan s.focus.b = c) (hfly : c.flying = true) (hacc : c.accepted = s.focus.d) :
    ∃ t, exec .landingWrite s = .next t ∧ Kept (s.stashLanded s.focus.a c) t ∧ GoneOn (t.tile s.focus.a) s.focus.b c.flightBytes c := by
  have hexec : exec .landingWrite s = .next ((s.stashLanded s.focus.a c).landedWrite s.focus.a s.focus.b c.flightBytes) := by
    change execLandingWrite s = _
    simp only [execLandingWrite, hc, if_true, hchan, hfly, hacc, and_self]
  obtain ⟨hkept, hgone, -⟩ := State.landedWrite_spec (((LineStep.stashLanded s s.focus.a c).chan s.focus.a s.focus.b).trans hchan) c.flightBytes
  exact ⟨_, hexec, hkept, hgone⟩

/-- A retired channel whose last write counts. -/
def Channel.lastCount (d k : Channel) : Channel := if k.accepted = d.accepted then { k with count := d.count, wm := if k.state = .idle then 0 else d.wm } else k

/-- The tile where the last write of a retired channel is acknowledged. -/
def Tile.lastAcked (ch : Nat) (d : Channel) (e : Nat × Channel) (x : Tile) : Tile :=
  { x.modChan ch (Channel.lastCount d) with lastWrites := x.lastWrites.filter (· != e) }

theorem landingWrite_last {e : Nat × Channel} (hgone : ((s.tile s.focus.a).chan s.focus.b).flying = true → ((s.tile s.focus.a).chan s.focus.b).accepted ≠ s.focus.d)
    (hfind : (s.tile s.focus.a).lastWrites.find? (fun e => e.1 == s.focus.b && e.2.accepted == s.focus.d) = some e) :
    exec .landingWrite s = .next (((s.stashLanded s.focus.a e.2).modTile s.focus.a (Tile.lastAcked s.focus.b (e.2.landedBy e.2.flightBytes) e)).doneMessage
      s.focus.a s.focus.b (e.2.landedBy e.2.flightBytes).status (e.2.landedBy e.2.flightBytes).wm.toNat (e.2.landedBy e.2.flightBytes).count
      (e.2.landedBy e.2.flightBytes).done (e.2.landedBy e.2.flightBytes).inst) := by
  have hnot : ¬ (((s.tile s.focus.a).chan s.focus.b).flying = true ∧ ((s.tile s.focus.a).chan s.focus.b).accepted = s.focus.d) := fun h => hgone h.1 h.2
  change execLandingWrite s = _
  simp only [execLandingWrite, hc, if_true, if_neg hnot, hfind]
  rfl

end

theorem Channel.landedBy_done (c : Channel) (nb : Nat) : (c.landedBy nb).done = c.done := by
  rw [Channel.landedBy]
  split
  · split <;> rfl
  · split
    · dsimp only
      split <;> rfl
    · rfl

/-- The last write of a retired channel is acknowledged: it counts, and the done message goes (R250, R252). -/
theorem landingWrite_last_spec {s : State} (hc : s.focus.c = 1) {e : Nat × Channel}
    (hgone : ((s.tile s.focus.a).chan s.focus.b).flying = true → ((s.tile s.focus.a).chan s.focus.b).accepted ≠ s.focus.d)
    (hfind : (s.tile s.focus.a).lastWrites.find? (fun e => e.1 == s.focus.b && e.2.accepted == s.focus.d) = some e) {d : Channel}
    (hd : e.2.landedBy e.2.flightBytes = d) : ∃ t, exec .landingWrite s = .next t ∧ Kept (s.stashLanded s.focus.a e.2) t ∧
      (t.tile s.focus.a).lastWrites = (s.tile s.focus.a).lastWrites.filter (· != e) ∧
      (((s.tile s.focus.a).chan s.focus.b).accepted = d.accepted → ((t.tile s.focus.a).chan s.focus.b).count = d.count) ∧
      (((s.tile s.focus.a).chan s.focus.b).accepted ≠ d.accepted → (t.tile s.focus.a).chan s.focus.b = (s.tile s.focus.a).chan s.focus.b) ∧
      (e.2.done ≠ 0 → ∃ m, (t.tile s.focus.a).weir.outbound = (s.tile s.focus.a).weir.outbound ++ [m] ∧ m.m.handle = e.2.done ∧
        fld m.m.payload 0 32 = d.count % 2 ^ 32 ∧ fld m.m.payload 32 8 = d.status % 2 ^ 8) := by
  let n := s.focus.a
  let u := (s.stashLanded n e.2).modTile n (Tile.lastAcked s.focus.b d e)
  have hline := LineStep.stashLanded s n e.2
  have hu : u.tile n = Tile.lastAcked s.focus.b d e ((s.stashLanded n e.2).tile n) := State.tile_modTile_same ..
  have huchan : (u.tile n).chan s.focus.b = d.lastCount ((s.tile n).chan s.focus.b) := by
    rw [hu, ← hline.chan]
    exact Tbl.get_set_same ..
  have hulast : (u.tile n).lastWrites = (s.tile n).lastWrites.filter (· != e) := by
    rw [hu, hline.2.2 n]
    rfl
  have huout : (u.tile n).weir.outbound = (s.tile n).weir.outbound := by
    rw [hu, hline.2.2 n]
    rfl
  have hkept : Kept (s.stashLanded n e.2) u := .modTile _ n (f := Tile.lastAcked s.focus.b d e) (fun _ => rfl) fun _ => rfl
  have hdone : d.done = e.2.done := by rw [← hd, Channel.landedBy_done]
  obtain ⟨⟨w, hw⟩, -⟩ := u.doneMessage_tile n s.focus.b d.status d.wm.toNat d.count d.done d.inst
  have hexec := landingWrite_last hc hgone hfind
  rw [hd] at hexec
  refine ⟨_, hexec, hkept.trans (CoreKept.doneMessage _ _ _ _ _ _ _ _).kept, ?_, fun h => ?_, fun h => ?_, fun h => ?_⟩
  · rw [hw]
    exact hulast
  · rw [hw]
    exact (congrArg Channel.count huchan).trans (by rw [Channel.lastCount, if_pos h])
  · rw [hw]
    exact huchan.trans (if_neg h)
  · obtain ⟨m, hout, hhandle, -, hpay⟩ := u.doneMessage_posts n s.focus.b d.status d.wm.toNat d.count d.inst (done := d.done) (by rwa [hdone])
    refine ⟨m, hout.trans (congrArg (· ++ [m]) huout), hhandle.trans hdone, ?_, ?_⟩
    · rw [hpay, doneFields_count]
    · rw [hpay, doneFields_status]

/-! ### A channel freezes -/

theorem faultRecord_addr2 (s : State) (t : Nat) (f : Flt) (pc : BitVec 64) (inst jet : BitVec 16) :
    fld (faultRecord s t f pc inst jet) 256 64 = f.addr2 % 2 ^ 64 := by
  simp only [faultRecord_eq_packF, faultFields, fld_packF_skip, fld_packF_head, Nat.reduceLeDiff, Nat.reduceSub]

/-- A channel that is to go on at its next element. -/
def Channel.stops (c : Channel) : Channel := { c with pieces := [], readNext := c.next, readOff := 0, landed := 0, flying := false }

theorem State.freezeChan_spec (s : State) (t ch cause addr : Nat) {c : Channel} (hchan : (s.tile t).chan ch = c) : Kept s (s.freezeChan t ch cause addr) ∧
    ((s.freezeChan t ch cause addr).tile t).chan ch = (c.inState .frozen).stops ∧
    ∃ m, ((s.freezeChan t ch cause addr).tile t).weir.localIn = (s.tile t).weir.localIn ++ [(s.nc + 6, m)] ∧
      m.handle = handleOf s.dev.device t 63 ((s.tile t).weir.gen 63) ∧ fld m.payload 80 8 = 18 ∧ fld m.payload 448 64 = addr % 2 ^ 64 ∧
      fld m.payload 256 64 = c.wm.toNat := by
  obtain ⟨g, hg⟩ := s.setChan_tile t ch .frozen
  let u := (s.setChan t ch .frozen).modTile t fun x => x.modChan ch Channel.stops
  have hrest := s.setChan_rest t ch .frozen
  have hu : u.tile t = { (s.tile t).modChan ch (Channel.stops ∘ Channel.inState .frozen) with guards := g } := by
    have hsame : u.tile t = ((s.setChan t ch .frozen).tile t).modChan ch Channel.stops := State.tile_modTile_same ..
    rw [hsame, hg]
    simp only [Tile.modChan, Tile.chan, Tbl.get_set_same, Tbl.set_set, Function.comp]
  have hunc : (s.setChan t ch .frozen).nc = s.nc := by rw [hrest]
  have hudev : (s.setChan t ch .frozen).dev = s.dev := by rw [hrest]
  let f : Flt := { cause := 18, addr := addr, info := cause, addr2 := c.wm.toNat, chan := ch }
  have hdef : s.freezeChan t ch cause addr = u.report t f c.inst := by
    rw [State.freezeChan, hchan]
    rfl
  have htile : (u.report t f c.inst).tile t = (u.tile t).modWeir fun w => { w with localIn := w.localIn ++ [(u.nc + 6, faultMsg u t t (faultRecord u t f 0 c.inst 0xffff) c.inst)] } :=
    State.tile_modTile_same ..
  have hkept : Kept s u := (CoreKept.setChan s t ch .frozen).kept.trans (.modTile _ t (f := fun x => x.modChan ch Channel.stops) (fun _ => rfl) fun _ => rfl)
  rw [hdef]
  refine ⟨hkept.trans (u.sendLocal_weir t _).1, ?_, faultMsg u t t (faultRecord u t f 0 c.inst 0xffff) c.inst, ?_, ?_, ?_, ?_, ?_⟩
  · rw [htile, hu]
    refine (Tbl.get_set_same ..).trans ?_
    rw [hchan]
    rfl
  · rw [htile, show u.nc = s.nc from hunc, hu]
    rfl
  · simp only [faultMsg, show u.dev = s.dev from hudev, hu]
    rfl
  · exact faultRecord_cause ..
  · exact faultRecord_addr ..
  · refine (faultRecord_addr2 ..).trans ?_
    exact Nat.mod_eq_of_lt c.wm.isLt

/-! ### Windows in other pools -/

theorem guardEntryFree_opens {s : State} {ch o p : Nat} {c : Channel} (hwaiter : s.guardWaiter s.focus.a = some ch) (hchan : (s.tile s.focus.a).chan ch = c)
    (hpool : s.poolAt s.focus.a c.winVa = some (o, p)) (ho : o ≠ s.focus.a) (hwin : c.winLo < c.winHi) (hroom : (s.tile o).guestWindows o < 8) :
    ∃ t, exec .guardEntryFree s = .next t ∧ Kept s t ∧ ((t.tile s.focus.a).chan ch).needGuard = false ∧
      (t.tile o).guards = (s.tile o).guards ++ [⟨s.focus.a, ch, p, p + (c.winHi - c.winLo), p, c.state, c.accepted⟩] := by
  let n := s.focus.a
  let k := c.winHi - c.winLo
  let u := s.modTile n fun x => x.modChan ch (Channel.opened c.winVa p (p + k) (o == n && k != 0) false)
  have hnot : ¬ (o = n ∨ k = 0) := by
    rintro (h | h)
    · exact ho h
    · exact absurd h (by omega)
  have hopen : s.openWindow n ch c.winVa k = u.modTile o (Tile.guarding ⟨n, ch, p, p + k, p, c.state, c.accepted⟩) := by
    have hpool' : s.poolAt n c.winVa = some (o, p) := hpool
    have hchan' : (s.tile n).chan ch = c := hchan
    simp only [State.openWindow, hpool', if_neg hnot, if_pos hroom, hchan']
    rfl
  have hexec : exec .guardEntryFree s = .next (s.openWindow n ch c.winVa k) := by
    change execGuardEntryFree s = _
    simp only [execGuardEntryFree, hwaiter, hchan]
    rfl
  rw [hopen] at hexec
  refine ⟨_, hexec, Kept.trans (t := u) (.modTile s n (fun _ => rfl) fun _ => rfl) (.modTile u o (f := Tile.guarding _) (fun _ => rfl) fun _ => rfl), ?_, ?_⟩
  · rw [State.tile_modTile_ne u _ (fun h => ho h.symm)]
    have hu : (u.tile n).chan ch = c.opened c.winVa p (p + k) (o == n && k != 0) false := by
      refine (congrArg (Tile.chan · ch) (State.tile_modTile_same ..)).trans ((Tile.chan_modChan_same _ _ _).trans ?_)
      exact congrArg (Channel.opened _ _ _ _ _) hchan
    exact congrArg Channel.needGuard hu
  · rw [State.tile_modTile_same]
    exact congrArg (fun x : Tile => x.guards ++ [_]) (State.tile_modTile_ne s _ ho)

end Sys2Proof.Machine
end

section
/-! SUPPORT. Landing writes at other pools (R218, R249), and joins and leaves (R255, R257, R292, R293). -/
namespace Sys2Proof.Machine

/-! ### A landing write in another tile's pool -/

/-- The tile where another tile's landing write is performed: its guard's watermark follows. -/
def Tile.landedFrom (dev : Nat) (q : PoolReq) (ch v pos : Nat) (x : Tile) : Tile :=
  { x.poolWrite q.addr q.nb (fullEn q.nb) v with
    guards := x.guards.map fun g => if g.tile = q.tile ∧ g.chan = ch ∧ (q.dev == dev) = true ∧ 2 ^ 65 + ch + 8 * g.accepted = q.acc then { g with wm := pos } else g }

/-- The tile without a request to its pool. -/
def Tile.poolTaken (q : PoolReq) (x : Tile) : Tile := { x with poolIn := x.poolIn.filter (· != q) }

theorem remotePoolAccess_lands {s : State} {ch v pos : Nat} {q : PoolReq} (hop : q.op = .land ch v pos)
    (hfind : (s.tile s.focus.a).poolIn.find? (fun q => (s.tile s.focus.a).poolReady s.dev.device.toNat s.focus.a s.nc q && q.tile == s.focus.b && q.acc == s.focus.c &&
      q.part == s.focus.d) = some q) : ∃ t, exec .remotePoolAccess s = .next t ∧ PoolWritten s t s.focus.a q.addr q.nb (fullEn q.nb) v ∧
      (t.tile s.focus.a).guards = ((s.tile s.focus.a).guards.map fun g =>
        if g.tile = q.tile ∧ g.chan = ch ∧ q.dev = s.dev.device.toNat ∧ 2 ^ 65 + ch + 8 * g.accepted = q.acc then { g with wm := pos } else g) ∧
      (⟨q.dev, q.tile, .tile, s.dev.device.toNat, s.focus.a, 1, .writeAck q.tile 0 [q.acc], false, s.nc + 13, .tile⟩ : Packet) ∈ (t.stop s.focus.a).inject := by
  let n := s.focus.a
  let u := s.modTile n (Tile.poolTaken q)
  let w := u.modTile n (Tile.landedFrom s.dev.device.toNat q ch v pos)
  have hexec : exec .remotePoolAccess s = .next (w.answerBy .tile q.dev n q.tile 1 13 (.writeAck q.tile 0 [q.acc])) := by
    change execRemotePoolAccess s = _
    simp only [execRemotePoolAccess, hfind, hop, Bool.not_true, Bool.and_false, Bool.false_eq_true, if_false, State.poolPerform]
    rfl
  have hw : PoolWritten u w n q.addr q.nb (fullEn q.nb) v := .modTile u n (fun _ => rfl) fun _ => rfl
  have hu : Kept s u := .modTile s n (f := Tile.poolTaken q) (fun _ => rfl) fun _ => rfl
  obtain ⟨hmem, hjets, hpool, hothers⟩ := hw.kept (.modStop w n fun x =>
    { x with inject := x.inject ++ [{ w.packet q.dev n q.tile .tile 1 13 (.writeAck q.tile 0 [q.acc]) with sport := .tile }] })
  refine ⟨_, hexec, ⟨hmem.trans hu.mem, fun m i => (hjets m i).trans (hu.jets m i), hpool.trans ?_, fun m hm => (hothers m hm).trans (hu.pools m)⟩, ?_, ?_⟩
  · rw [hu.pools n]
  · have htile : w.tile n = Tile.landedFrom s.dev.device.toNat q ch v pos (Tile.poolTaken q (s.tile n)) :=
      (State.tile_modTile_same ..).trans (congrArg _ (State.tile_modTile_same ..))
    refine (congrArg Tile.guards htile).trans ?_
    exact List.map_congr_left fun g _ => if_congr (by rw [beq_iff_eq]) rfl rfl
  · rw [State.answerBy, State.stop_modStop_same]
    exact List.mem_append_right _ (List.mem_singleton_self _)

/-! ### Joins and leaves -/

/-- An element found in a list is found, changed, where it alone changes. -/
theorem List.find?_map_change {α : Type} [DecidableEq α] {l : List α} {p : α → Bool} {e : α} {f : α → α} (hf : ∀ a, p (f a) = p a) (h : l.find? p = some e) :
    (l.map fun a => if a = e then f a else a).find? p = some (f e) := by
  have hp : (p ∘ fun a => if a = e then f a else a) = p := by
    funext a
    by_cases ha : a = e
    · simp only [Function.comp, if_pos ha, hf]
    · simp only [Function.comp, if_neg ha]
  rw [List.find?_map, hp, h, Option.map_some, if_pos rfl]

/-- A match entry with one more at a port. -/
def McEntry.more (port : Nat) (e : McEntry) : McEntry := { e with counts := Tbl.set e.counts port (Tbl.get 0 e.counts port + 1) }

/-- A router without the oldest of its joins. -/
def Stop.joinTaken (r : List (Nat × Packet)) (x : Stop) : Stop := { x with joinIn := r }

/-- A join or a leave that goes on toward its home, whose router acknowledges it. -/
def State.joinOnward (s : State) (q v tag home : Nat) (leave : Bool) (upTo : Nat) : State :=
  if q = home then s.inject q v .ni 1 0 (.mcJoinAck tag (if leave then 7 else 0) q)
  else s.inject q (acrossPort q (orderNext q home)).1 .ni 1 0 (.mcJoin v tag home leave upTo)

/-- The packet a join or a leave goes on as. -/
def State.joinPacket (s : State) (q v tag home : Nat) (leave : Bool) (upTo : Nat) : Packet :=
  if q = home then s.packet s.dev.device.toNat q v .ni 1 0 (.mcJoinAck tag (if leave then 7 else 0) q)
  else s.packet s.dev.device.toNat q (acrossPort q (orderNext q home)).1 .ni 1 0 (.mcJoin v tag home leave upTo)

theorem State.inject_spec (s : State) (q dst : Nat) (port : Endpoint) (flits d : Nat) (b : Pkt) : Kept s (s.inject q dst port flits d b) ∧
    ((s.inject q dst port flits d b).stop q).mc = (s.stop q).mc ∧
    ((s.inject q dst port flits d b).stop q).inject = (s.stop q).inject ++ [s.packet s.dev.device.toNat q dst port flits d b] := by
  refine ⟨.modStop s q _, ?_, ?_⟩ <;> rw [State.inject, State.stop_modStop_same]

theorem State.joinOnward_spec (s : State) (q v tag home : Nat) (leave : Bool) (upTo : Nat) : Kept s (s.joinOnward q v tag home leave upTo) ∧
    ((s.joinOnward q v tag home leave upTo).stop q).mc = (s.stop q).mc ∧
    ((s.joinOnward q v tag home leave upTo).stop q).inject = (s.stop q).inject ++ [s.joinPacket q v tag home leave upTo] := by
  rw [State.joinOnward, State.joinPacket]
  split
  · exact s.inject_spec ..
  · exact s.inject_spec ..

section
variable {s : State} {port v tag home upTo : Nat} {k : Packet} {r : List (Nat × Packet)} (hin : (s.stop s.focus.a).joinIn = (port, k) :: r)
include hin

theorem mcJoinArrival_join (hbody : k.body = .mcJoin v tag home false upTo) : exec .mcJoinArrival s =
    match ((s.modStop s.focus.a (Stop.joinTaken r)).stop s.focus.a).mcAdd home tag port with
    | some x => .next (((s.modStop s.focus.a (Stop.joinTaken r)).modStop s.focus.a fun _ => x).joinOnward s.focus.a v tag home false upTo)
    | none => .next (((s.modStop s.focus.a (Stop.joinTaken r)).modDie (dieOf s.focus.a) fun d => d.count 3 1).inject s.focus.a v .ni 1 0 (.mcJoinAck tag 2 s.focus.a)) := by
  change execMcJoinArrival s = _
  simp only [execMcJoinArrival, hin, hbody, Bool.false_eq_true, if_false, State.joinOnward] <;> rfl

/-- A join that finds its entry, or room for one, counts at its port and goes on. -/
theorem mcJoinArrival_counts (hbody : k.body = .mcJoin v tag home false upTo) {x : Stop}
    (hadd : (Stop.joinTaken r (s.stop s.focus.a)).mcAdd home tag port = some x) (hinject : x.inject = (s.stop s.focus.a).inject) :
    ∃ t, exec .mcJoinArrival s = .next t ∧ Kept s t ∧ (t.stop s.focus.a).mc = x.mc ∧
      (t.stop s.focus.a).inject = (s.stop s.focus.a).inject ++ [s.joinPacket s.focus.a v tag home false upTo] := by
  have hadd' : ((s.modStop s.focus.a (Stop.joinTaken r)).stop s.focus.a).mcAdd home tag port = some x := by
    rw [State.stop_modStop_same]
    exact hadd
  have hexec := mcJoinArrival_join hin hbody
  rw [hadd'] at hexec
  obtain ⟨hkept, hmc, hinj⟩ := ((s.modStop s.focus.a (Stop.joinTaken r)).modStop s.focus.a fun _ => x).joinOnward_spec s.focus.a v tag home false upTo
  rw [State.stop_modStop_same] at hmc hinj
  exact ⟨_, hexec, ((Kept.modStop s _ _).trans (.modStop _ _ _)).trans hkept, hmc, hinj.trans (by rw [hinject]; rfl)⟩

theorem mcJoinArrival_refused (hbody : k.body = .mcJoin v tag home false upTo) (hnone : (s.stop s.focus.a).mcFind home tag = none)
    (hfull : 64 ≤ (s.stop s.focus.a).mc.length) : ∃ t, exec .mcJoinArrival s = .next t ∧ Kept s t ∧ (t.stop s.focus.a).mc = (s.stop s.focus.a).mc ∧
      (t.stop s.focus.a).inject = (s.stop s.focus.a).inject ++ [s.packet s.dev.device.toNat s.focus.a v .ni 1 0 (.mcJoinAck tag 2 s.focus.a)] := by
  have hadd : ((s.modStop s.focus.a (Stop.joinTaken r)).stop s.focus.a).mcAdd home tag port = none := by
    have hnone' : (Stop.joinTaken r (s.stop s.focus.a)).mcFind home tag = none := hnone
    rw [State.stop_modStop_same, Stop.mcAdd, hnone']
    exact if_neg (Nat.not_lt.mpr hfull)
  have hexec := mcJoinArrival_join hin hbody
  rw [hadd] at hexec
  obtain ⟨hkept, hmc, hinj⟩ := ((s.modStop s.focus.a (Stop.joinTaken r)).modDie (dieOf s.focus.a) fun d => d.count 3 1).inject_spec s.focus.a v .ni 1 0
    (.mcJoinAck tag 2 s.focus.a)
  have hstop : ((s.modStop s.focus.a (Stop.joinTaken r)).modDie (dieOf s.focus.a) fun d => d.count 3 1).stop s.focus.a = Stop.joinTaken r (s.stop s.focus.a) :=
    State.stop_modStop_same ..
  rw [hstop] at hmc hinj
  exact ⟨_, hexec, ((Kept.modStop s _ _).trans (.modDie _ _ _)).trans hkept, hmc, hinj⟩

theorem mcJoinArrival_ends (hbody : k.body = .mcJoin v tag home true s.focus.a) : ∃ t, exec .mcJoinArrival s = .next t ∧ Kept s t ∧
    (t.stop s.focus.a).mc = (s.stop s.focus.a).mc ∧ (t.stop s.focus.a).inject = (s.stop s.focus.a).inject := by
  have hexec : exec .mcJoinArrival s = .next (s.modStop s.focus.a (Stop.joinTaken r)) := by
    change execMcJoinArrival s = _
    simp only [execMcJoinArrival, hin, hbody, if_true]
    rfl
  refine ⟨_, hexec, .modStop s _ _, ?_, ?_⟩ <;> rw [State.stop_modStop_same] <;> rfl

theorem mcJoinArrival_leaves (hbody : k.body = .mcJoin v tag home true upTo) (hfar : s.focus.a ≠ upTo) : ∃ t, exec .mcJoinArrival s = .next t ∧ Kept s t ∧
    (t.stop s.focus.a).mc = ((s.stop s.focus.a).mcSub home tag port).mc ∧
    (t.stop s.focus.a).inject = (s.stop s.focus.a).inject ++ [s.joinPacket s.focus.a v tag home true upTo] := by
  let u := (s.modStop s.focus.a (Stop.joinTaken r)).modStop s.focus.a fun x => x.mcSub home tag port
  have hexec : exec .mcJoinArrival s = .next (u.joinOnward s.focus.a v tag home true upTo) := by
    change execMcJoinArrival s = _
    simp only [execMcJoinArrival, hin, hbody, if_neg hfar, if_true, State.joinOnward]
    rfl
  obtain ⟨hkept, hmc, hinj⟩ := u.joinOnward_spec s.focus.a v tag home true upTo
  have hstop : u.stop s.focus.a = (Stop.joinTaken r (s.stop s.focus.a)).mcSub home tag port := by
    refine (State.stop_modStop_same ..).trans ?_
    rw [State.stop_modStop_same]
  rw [hstop] at hmc hinj
  exact ⟨_, hexec, ((Kept.modStop s _ _).trans (.modStop _ _ _)).trans hkept, hmc, hinj⟩

end

/-- The last of a port leaves with its entry. -/
theorem Stop.mcSub_last {x : Stop} {home tag port : Nat} {e : McEntry} (hone : e.counts = [(port, 1)])
    (hall : ∀ g ∈ x.mc, g.home = home → g.tag = tag → g = e) : (x.mcSub home tag port).mc.find? (fun e => e.home == home && e.tag == tag) = none := by
  rw [List.find?_eq_none]
  intro f hf hmatch
  obtain ⟨hmem, hkeep⟩ := List.mem_filter.mp hf
  obtain ⟨g, hg, rfl⟩ := List.mem_map.mp hmem
  by_cases hit : (g.home == home && g.tag == tag) = true
  · obtain ⟨hhome, htag⟩ : g.home = home ∧ g.tag = tag := by simpa using hit
    have hge := hall g hg hhome htag
    subst hge
    simp [hone, Tbl.set, Tbl.get, hhome, htag] at hkeep
  · rw [if_neg hit] at hmatch
    exact hit hmatch

/-! ### The answer to a join -/

/-- The tile where a subscription is acknowledged. -/
def Tile.subAcked (b : Subscr) (x : Tile) : Tile := { x with subs := x.subs.map fun c => if c = b then { c with acked := true } else c }

theorem Tile.settled_subs (slot id v : Nat) (x : Tile) : (x.settled slot id v).subs = x.subs ∧ (x.settled slot id v).chans = x.chans := by
  rw [Tile.settled]
  split <;> exact ⟨rfl, rfl⟩

/-- A channel of a refused join returns to idle. -/
def State.subIdle (s : State) (n : Nat) (b : Subscr) : State :=
  if (s.tile n).subLands b then (s.setChan n b.chan .idle).modTile n fun x => x.modChan b.chan fun c => { c with wm := 0, guarded := false } else s

section
variable {s : State} {b : Subscr} (hc7 : s.focus.c ≠ 7) (hfind : (s.tile s.focus.a).subs.find? (fun b => b.tag == s.focus.b && !b.acked) = some b)
include hc7 hfind

theorem mcJoinAck_joined (hc : s.focus.c = 0) (hgone : b.gone = false) :
    exec .mcJoinAck s = .next ((s.settle s.focus.a b.slot b.owedId 0 s.focus.c).modTile s.focus.a (Tile.subAcked b)) := by
  change execMcJoinAck s = _
  simp only [execMcJoinAck, if_neg hc7, hfind, if_pos hc, hgone, Bool.false_eq_true, if_false]
  rfl

theorem mcJoinAck_refused (hc : s.focus.c ≠ 0) : exec .mcJoinAck s = .next
    ((((s.settle s.focus.a b.slot b.owedId 0 s.focus.c).modTile s.focus.a (Tile.subDropped b)).sendJoin s.focus.a b.tag b.home true s.focus.d 0).subIdle s.focus.a b) := by
  change execMcJoinAck s = _
  simp only [execMcJoinAck, if_neg hc7, hfind, if_neg hc]
  rfl

end

theorem State.subIdle_spec (s : State) (n : Nat) (b : Subscr) : Kept s (s.subIdle n b) ∧ (s.subIdle n b).agenda = s.agenda ∧
    ((s.subIdle n b).tile n).subs = (s.tile n).subs ∧ ((s.tile n).subLands b = true → (((s.subIdle n b).tile n).chan b.chan).state = .idle) := by
  rw [State.subIdle]
  split
  next hlands =>
    obtain ⟨g, hg⟩ := s.setChan_tile n b.chan .idle
    have htile := State.tile_modTile_same (s.setChan n b.chan .idle) n fun x => x.modChan b.chan fun c => { c with wm := 0, guarded := false }
    rw [hg] at htile
    refine ⟨(CoreKept.setChan s n b.chan .idle).kept.trans (.modTile _ n (f := fun x => x.modChan b.chan fun c => { c with wm := 0, guarded := false })
      (fun _ => rfl) fun _ => rfl), ?_, (congrArg Tile.subs htile).trans rfl, fun _ => ?_⟩
    · have hrest : (s.setChan n b.chan .idle).agenda = s.agenda := by rw [s.setChan_rest n b.chan .idle]
      exact hrest
    · rw [htile]
      simp only [Tile.modChan, Tile.chan, Tbl.get_set_same, Channel.inState]
  next hlands => exact ⟨.refl s, rfl, rfl, fun h => absurd h hlands⟩

/-- The answer to a join settles its `sub`; a refused join is undone (R257). -/
theorem mcJoinAck_settles {s : State} {b : Subscr} {o : Owed} (hc7 : s.focus.c ≠ 7)
    (hfind : (s.tile s.focus.a).subs.find? (fun b => b.tag == s.focus.b && !b.acked) = some b)
    (howed : (s.jet s.focus.a b.slot).findOwed b.owedId = some o) (hgone : s.focus.c = 0 → b.gone = false) :
    ∃ t p, exec .mcJoinAck s = .next t ∧ t.mem = s.mem ∧ (t.jet s.focus.a b.slot).findOwed b.owedId = some p ∧ p.w = [⟨scatter o.dst s.focus.c, []⟩] ∧
      (s.nc, ⟨s.focus.a, b.slot, b.owedId, 0, 0⟩, Instr.statusResultWrite) ∈ t.agenda ∧
      (s.focus.c = 0 → { b with acked := true } ∈ (t.tile s.focus.a).subs) ∧
      (s.focus.c ≠ 0 → b ∉ (t.tile s.focus.a).subs ∧ ((s.tile s.focus.a).subLands b = true → ((t.tile s.focus.a).chan b.chan).state = .idle)) := by
  let n := s.focus.a
  let u := s.settle n b.slot b.owedId 0 s.focus.c
  obtain ⟨hfilled, hagenda, hmem⟩ := State.settle_now (v := s.focus.c) howed
  have hutile : u.tile n = Tile.settled b.slot b.owedId s.focus.c (s.tile n) := State.settle_tile ..
  obtain ⟨husubs, huchans⟩ := Tile.settled_subs b.slot b.owedId s.focus.c (s.tile n)
  by_cases hc : s.focus.c = 0
  · have hkept : Kept u (u.modTile n (Tile.subAcked b)) := .modTile u n (f := Tile.subAcked b) (fun _ => rfl) fun _ => rfl
    refine ⟨_, _, mcJoinAck_joined hc7 hfind hc (hgone hc), hkept.mem.trans hmem, (congrArg (Jet.findOwed · b.owedId) (hkept.jets n b.slot)).trans hfilled, rfl, hagenda,
      fun _ => ?_, fun h => absurd hc h⟩
    rw [State.tile_modTile_same]
    refine List.mem_map.mpr ⟨b, ?_, if_pos rfl⟩
    rw [show (u.tile n).subs = (s.tile n).subs from (congrArg Tile.subs hutile).trans husubs]
    exact List.mem_of_find?_eq_some hfind
  · let w := (u.modTile n (Tile.subDropped b)).sendJoin n b.tag b.home true s.focus.d 0
    obtain ⟨hidle, hsame, hsubs, hlands⟩ := w.subIdle_spec n b
    have hkept : Kept u w := (Kept.modTile u n (f := Tile.subDropped b) (fun _ => rfl) fun _ => rfl).trans
      (State.inject_spec _ n n .ni 1 0 (.mcJoin n b.tag b.home true s.focus.d)).1
    have hwtile : w.tile n = Tile.subDropped b (u.tile n) := State.tile_modTile_same u n (Tile.subDropped b)
    refine ⟨_, _, mcJoinAck_refused hc7 hfind hc, (hidle.mem.trans hkept.mem).trans hmem,
      (congrArg (Jet.findOwed · b.owedId) ((hidle.jets n b.slot).trans (hkept.jets n b.slot))).trans hfilled, rfl, ?_, fun h => absurd h hc, fun _ => ⟨?_, fun h => hlands ?_⟩⟩
    · rw [hsame]
      exact hagenda
    · rw [hsubs, hwtile]
      exact fun h => absurd (List.mem_filter.mp h).2 (by simp)
    · rw [hwtile, hutile]
      have hchan : (Tile.subDropped b (Tile.settled b.slot b.owedId s.focus.c (s.tile n))).chan b.chan = (s.tile n).chan b.chan :=
        congrArg (Tbl.get Channel.idle · b.chan) huchans
      rw [Tile.subLands, hchan]
      exact h

end Sys2Proof.Machine
end

section
/-! SUPPORT. Multicast streams at their home and on their way (R255, R258, R292, R294, R380). -/
namespace Sys2Proof.Machine

/-! ### Requests -/

/-- The tile whose request for a stream has left. -/
def Tile.askedStream (w : McWait) (x : Tile) : Tile := { x with mcWait := x.mcWait.erase w }

theorem mcStreamRequest_leaves {s : State} {w : McWait} (hb : s.focus.b = 1) (hw : (s.tile s.focus.a).mcReady s.tc = some w) :
    ∃ t, exec .mcStreamRequest s = .next t ∧ Kept s t ∧ (t.tile s.focus.a).mcWait = (s.tile s.focus.a).mcWait.erase w ∧
      s.packet (paDev (w.pas.headD 0)) s.focus.a (homeOf (w.pas.headD 0)) .l2 1 0 (.mcRequest s.focus.a w.tag w.src w.mask w.slot w.owedId w.pas) ∈
        (t.stop s.focus.a).inject := by
  let u := s.modTile s.focus.a (Tile.askedStream w)
  have hexec : exec .mcStreamRequest s = .next (u.injectTo (paDev (w.pas.headD 0)) s.focus.a (homeOf (w.pas.headD 0)) .l2 1 0
      (.mcRequest s.focus.a w.tag w.src w.mask w.slot w.owedId w.pas)) := by
    change execMcStreamRequest s = _
    simp only [execMcStreamRequest, if_pos hb, hw]
    rfl
  refine ⟨_, hexec, (Kept.modTile s _ (f := Tile.askedStream w) (fun _ => rfl) fun _ => rfl).trans (.modStop _ _ _), ?_, u.injectTo_mem ..⟩
  exact congrArg Tile.mcWait (State.tile_modTile_same s s.focus.a (Tile.askedStream w))

/-- A stop without the oldest request for a stream. -/
def Stop.requestTaken (r : List Packet) (x : Stop) : Stop := { x with streamWait := r }

/-- A stop with one more stream. -/
def Stop.streaming (e : Machine.Stream) (x : Stop) : Stop := { x with streams := x.streams ++ [e] }

/-- The stream that a request starts. -/
def State.streamFor (s : State) (tag src : Nat) (mask : BitVec 64) (pas : List Nat) : Machine.Stream :=
  ⟨tag, src, mask, (selected mask pas.length).head?, 2 * (s.tc + 28), [], 2 * (s.tc + 28), pas⟩

section
variable {s : State} {k : Packet} {r : List Packet} {v tag src : Nat} {mask : BitVec 64} {slot ix : Nat} {pas : List Nat} (hb : s.focus.b ≠ 1)
  (hwait : (s.stop s.focus.a).streamWait = k :: r) (hbody : k.body = .mcRequest v tag src mask slot ix pas)
include hb hwait hbody

/-- A request that starts no stream is answered. -/
theorem mcStreamRequest_answers (hnone : (∃ e ∈ (s.stop s.focus.a).streams, e.tag = tag ∧ e.src = src ∧ e.mask = mask ∧ e.pas = pas) ∨ selected mask pas.length = []) :
    ∃ t, exec .mcStreamRequest s = .next t ∧ Kept s t ∧ (t.stop s.focus.a).streams = (s.stop s.focus.a).streams ∧
      (t.stop s.focus.a).inject = (s.stop s.focus.a).inject ++ [s.packet k.sdev s.focus.a v .tile 1 4 (.mcAnswer slot ix 0)] := by
  have hcond : (((s.stop s.focus.a).streams.any fun e => e.tag == tag && e.src == src && e.mask == mask && e.pas == pas) || (selected mask pas.length).isEmpty) = true := by
    rw [Bool.or_eq_true, List.isEmpty_iff]
    exact hnone.imp (fun ⟨e, he, h⟩ => List.any_eq_true.mpr ⟨e, he, by simpa [and_assoc] using h⟩) id
  have hexec : exec .mcStreamRequest s = .next ((s.modStop s.focus.a (Stop.requestTaken r)).injectTo k.sdev s.focus.a v .tile 1 4 (.mcAnswer slot ix 0)) := by
    change execMcStreamRequest s = _
    simp only [execMcStreamRequest, if_neg hb, hwait, hbody, hcond, if_true]
    rfl
  refine ⟨_, hexec, (Kept.modStop s _ _).trans (.modStop _ _ _), ?_, ?_⟩ <;> rw [State.injectTo, State.stop_modStop_same, State.stop_modStop_same] <;> rfl

/-- A request that no stream serves starts one. -/
theorem mcStreamRequest_starts (hnew : ∀ e ∈ (s.stop s.focus.a).streams, ¬ (e.tag = tag ∧ e.src = src ∧ e.mask = mask ∧ e.pas = pas))
    (hsome : selected mask pas.length ≠ []) : ∃ t, exec .mcStreamRequest s = .next t ∧ Kept s t ∧
      (t.stop s.focus.a).streams = (s.stop s.focus.a).streams ++ [s.streamFor tag src mask pas] ∧
      (t.stop s.focus.a).inject = (s.stop s.focus.a).inject ++ [s.packet k.sdev s.focus.a v .tile 1 4 (.mcAnswer slot ix 0)] := by
  have hcond : (((s.stop s.focus.a).streams.any fun e => e.tag == tag && e.src == src && e.mask == mask && e.pas == pas) || (selected mask pas.length).isEmpty) = false := by
    rw [Bool.or_eq_false_iff]
    refine ⟨List.any_eq_false.mpr fun e he h => hnew e he (by simpa [and_assoc] using h), ?_⟩
    rw [← Bool.not_eq_true, List.isEmpty_iff]
    exact hsome
  have hexec : exec .mcStreamRequest s = .next (((s.modStop s.focus.a (Stop.requestTaken r)).modStop s.focus.a (Stop.streaming (s.streamFor tag src mask pas))).injectTo
      k.sdev s.focus.a v .tile 1 4 (.mcAnswer slot ix 0)) := by
    change execMcStreamRequest s = _
    simp only [execMcStreamRequest, if_neg hb, hwait, hbody, hcond, Bool.false_eq_true, if_false]
    rfl
  refine ⟨_, hexec, ((Kept.modStop s _ _).trans (.modStop _ _ _)).trans (.modStop _ _ _), ?_, ?_⟩ <;>
    rw [State.injectTo, State.stop_modStop_same, State.stop_modStop_same, State.stop_modStop_same] <;> rfl

end

/-! ### Lines -/

theorem Stop.mem_of_streamReads {x : Stop} {nc i : Nat} {e : Machine.Stream} (h : x.streamReads nc = some (e, i)) : e ∈ x.streams := by
  rw [Stop.streamReads] at h
  split at h
  · cases h
  · obtain ⟨m, hm, hi⟩ := Option.bind_eq_some_iff.mp h
    obtain ⟨j, -, hj⟩ := Option.map_eq_some_iff.mp hi
    obtain ⟨rfl, -⟩ := Prod.mk.inj hj
    have hfold (l : List Machine.Stream) (b : Option Machine.Stream) (m : Machine.Stream)
        (h : l.foldl (fun b e => match b with | none => some e | some m => if e.held.length < m.held.length then some e else b) b = some m) : m ∈ l ∨ b = some m := by
      induction l generalizing b with
      | nil => exact .inr h
      | cons a l ih =>
        rcases ih _ h with h | h
        · exact .inl (List.mem_cons_of_mem _ h)
        · cases b with
          | none => exact .inl (Option.some.inj h ▸ List.mem_cons_self)
          | some c =>
            dsimp only at h
            split at h
            · exact .inl (Option.some.inj h ▸ List.mem_cons_self)
            · exact .inr h
    rcases hfold _ none m hm with h | h
    · exact (List.mem_filter.mp h).1
    · cases h

/-- Where one element of a list changes, its new form is known. -/
theorem map_at_eq {α : Type} [DecidableEq α] (l : List α) (e : α) (f : α → α) : (l.map fun g => if g = e then f g else g) = l.map fun g => if g = e then f e else g :=
  List.map_congr_left fun g _ => by
    by_cases h : g = e
    · rw [if_pos h, if_pos h, h]
    · rw [if_neg h, if_neg h]

/-- The stop where one of its streams differs. -/
def Stop.streamTurned (e f : Machine.Stream) (x : Stop) : Stop := { x with streams := x.streams.map fun g => if g = e then f else g }

theorem Stop.streamTurned_mem {x : Stop} {e : Machine.Stream} (f : Machine.Stream) (h : e ∈ x.streams) : f ∈ (x.streamTurned e f).streams :=
  List.mem_map.mpr ⟨e, h, if_pos rfl⟩

theorem State.l2Bring_stop (s : State) (line q : Nat) : Kept s (s.l2Bring line) ∧ ((s.l2Bring line).stop q).streams = (s.stop q).streams ∧
    ((s.l2Bring line).stop q).mcOut = (s.stop q).mcOut := by
  rw [State.l2Bring]
  split
  · exact ⟨.refl s, rfl, rfl⟩
  · exact ⟨(Kept.modStop s _ _).trans (.at_ _ _ _ _),
      State.modStop_keeps Stop.streams (f := fun x => { x with misses := x.misses ++ [(line, [])] }) (fun _ => rfl) s _ q,
      State.modStop_keeps Stop.mcOut (f := fun x => { x with misses := x.misses ++ [(line, [])] }) (fun _ => rfl) s _ q⟩

theorem mcStreamLineSend_misses {s : State} {e : Machine.Stream} {i : Nat} (hb : s.focus.b = 0) (hreads : (s.stop s.focus.a).streamReads s.nc = some (e, i))
    {line : Nat} (hline : (e.pas[i]?).getD 0 / 128 = line) (hmiss : line ∉ (s.stop s.focus.a).l2Lines) : ∃ t, exec .mcStreamLineSend s = .next t ∧ Kept s t ∧
      { e with readyAt := s.nc + 2 * max 1 (s.missLeft line 0) } ∈ (t.stop s.focus.a).streams ∧ (t.stop s.focus.a).mcOut = (s.stop s.focus.a).mcOut := by
  have hnot : (!(s.stop s.focus.a).l2Lines.contains line) = true := by simpa using hmiss
  have hexec : exec .mcStreamLineSend s = .next ((s.l2Bring line).modStop s.focus.a
      (Stop.streamTurned e { e with readyAt := s.nc + 2 * max 1 (s.missLeft line 0) })) := by
    change execMcStreamLineSend s = _
    simp only [execMcStreamLineSend, if_pos hb, hreads, hline, hnot, if_true]
    congr 2
    funext x
    exact congrArg (fun l => { x with streams := l }) (map_at_eq x.streams e fun g => { g with readyAt := s.nc + 2 * max 1 (s.missLeft line 0) })
  obtain ⟨hkept, hstreams, hout⟩ := s.l2Bring_stop line s.focus.a
  refine ⟨_, hexec, hkept.trans (.modStop _ _ _), ?_, ?_⟩
  · rw [State.stop_modStop_same]
    exact Stop.streamTurned_mem _ (hstreams ▸ Stop.mem_of_streamReads hreads)
  · rw [State.stop_modStop_same]
    exact hout

theorem Stop.fill_streams (x : Stop) (line : Nat) : (x.fill line).streams = x.streams ∧ (x.fill line).mcOut = x.mcOut := by
  rw [Stop.fill]
  split
  · exact ⟨rfl, rfl⟩
  · split <;> exact ⟨rfl, rfl⟩

/-- A line that no stash holds is read at its home as it is. -/
theorem State.homeRead_line {s : State} {line : Nat} (h : (s.stop (homeOf (128 * line))).dirOf line = none) :
    s.homeRead (128 * line) 128 = (s.mem.readN (128 * line) 128, s.l2Use line false) := by
  have hline : linesOf (128 * line) 128 = [line] := by
    have h1 : (128 * line + 128 - 1) / 128 - 128 * line / 128 + 1 = 1 := by omega
    have h2 : 128 * line / 128 = line := by omega
    rw [linesOf, h1, h2]
    rfl
  have hrec : s.recall (128 * line) false = s := by
    have h2 : 128 * line / 128 = line := by omega
    rw [State.recall_eq, h2, h]
  have huse : s.homeUse (128 * line) 128 false = s.l2Use line false := by
    rw [State.homeUse, hline, List.foldl_cons, List.foldl_nil, hrec]
  rw [State.homeRead, huse]
  rfl

/-- The stop where a stream has read a line. -/
def Stop.streamRead1 (line tc : Nat) (e f : Machine.Stream) (x : Stop) : Stop :=
  { x.touch line with streamRead := tc, streams := x.streams.map fun g => if g = e then f else g }

theorem mcStreamLineSend_reads {s : State} {e : Machine.Stream} {i : Nat} (hb : s.focus.b = 0) (hreads : (s.stop s.focus.a).streamReads s.nc = some (e, i))
    {line : Nat} (hline : (e.pas[i]?).getD 0 / 128 = line) (hhit : line ∈ (s.stop s.focus.a).l2Lines) (hdir : (s.stop (homeOf (128 * line))).dirOf line = none) :
    ∃ t, exec .mcStreamLineSend s = .next t ∧ Kept s t ∧ (t.stop s.focus.a).streamRead = s.tc + 1 ∧
      { e with next := (selected e.mask e.pas.length).find? (fun k => decide (i < k)), readyAt := s.nc + 1,
               held := e.held ++ [(i, s.mem.readN (128 * line) 128)] } ∈ (t.stop s.focus.a).streams ∧ (t.stop s.focus.a).mcOut = (s.stop s.focus.a).mcOut := by
  have hnot : (!(s.stop s.focus.a).l2Lines.contains line) = false := by simpa using hhit
  have hexec : exec .mcStreamLineSend s = .next ((s.l2Use line false).modStop s.focus.a (Stop.streamRead1 line (s.tc + 1) e
      { e with next := (selected e.mask e.pas.length).find? (fun k => decide (i < k)), readyAt := s.nc + 1, held := e.held ++ [(i, s.mem.readN (128 * line) 128)] })) := by
    change execMcStreamLineSend s = _
    simp only [execMcStreamLineSend, if_pos hb, hreads, hline, hnot, Bool.false_eq_true, if_false, State.homeRead_line hdir]
    congr 2
    funext x
    exact congrArg (fun l => { x.touch line with streamRead := s.tc + 1, streams := l })
      (map_at_eq x.streams e fun g => { g with
        next := (selected e.mask e.pas.length).find? (fun k => decide (i < k)), readyAt := s.nc + 1, held := g.held ++ [(i, s.mem.readN (128 * line) 128)] })
  have huse : ((s.l2Use line false).stop s.focus.a).streams = (s.stop s.focus.a).streams ∧ ((s.l2Use line false).stop s.focus.a).mcOut = (s.stop s.focus.a).mcOut := by
    have hdef : s.l2Use line false = s.modStop (homeOf (128 * line)) fun x => x.fill line := rfl
    rw [hdef]
    exact ⟨State.modStop_keeps Stop.streams (fun x => (x.fill_streams line).1) s _ _, State.modStop_keeps Stop.mcOut (fun x => (x.fill_streams line).2) s _ _⟩
  refine ⟨_, hexec, ((UnitReads.l2Use s line false).1.kept rfl).trans (.modStop _ _ _), ?_, ?_, ?_⟩
  · rw [State.stop_modStop_same]
    rfl
  · rw [State.stop_modStop_same]
    exact List.mem_map.mpr ⟨e, huse.1 ▸ Stop.mem_of_streamReads hreads, if_pos rfl⟩
  · rw [State.stop_modStop_same]
    exact huse.2

/-- A stream packet. -/
def State.linePacket (s : State) (q : Nat) (e : Machine.Stream) (i v : Nat) : Packet :=
  ⟨s.dev.device.toNat, q, .ni, s.dev.device.toNat, q, 3, .mcLine q e.tag e.src e.pas.length e.mask i v, false, s.nc, .l2⟩

/-- The stop where a stream's oldest line has left. -/
def Stop.streamSent (q nc : Nat) (e : Machine.Stream) (k : Packet) (x : Stop) : Stop :=
  { x.replicate q e.tag nc k with
    streams := x.streams.flatMap fun f => if f = e then (if f.next.isNone && f.held.tail.isEmpty then [] else [{ f with held := f.held.tail, sendAt := nc + 3 }]) else [f] }

theorem mcStreamLineSend_sends {s : State} {e : Machine.Stream} {i v : Nat} {g : McEntry} (hb : s.focus.b ≠ 0)
    (hdue : (s.stop s.focus.a).streamDue s.nc = some (e, i, v)) (hfind : (s.stop s.focus.a).mcFind s.focus.a e.tag = some g) :
    ∃ t, exec .mcStreamLineSend s = .next t ∧ Kept s t ∧
      (∀ p c, (p, c) ∈ g.counts → c ≠ 0 → (p, s.linePacket s.focus.a e i v, s.nc) ∈ (t.stop s.focus.a).mcOut) ∧
      ((e.next.isSome ∨ e.held.tail ≠ []) → { e with held := e.held.tail, sendAt := s.nc + 3 } ∈ (t.stop s.focus.a).streams) ∧
      (e.next = none → e.held.tail = [] → (t.stop s.focus.a).streams = (s.stop s.focus.a).streams.filter (· ≠ e)) := by
  have hexec : exec .mcStreamLineSend s = .next (s.modStop s.focus.a (Stop.streamSent s.focus.a s.nc e (s.linePacket s.focus.a e i v))) := by
    change execMcStreamLineSend s = _
    simp only [execMcStreamLineSend, if_neg hb, hdue]
    rfl
  have hmem : e ∈ (s.stop s.focus.a).streams := by
    obtain ⟨f, hf, hi⟩ := Option.bind_eq_some_iff.mp hdue
    obtain ⟨l, -, hl⟩ := Option.map_eq_some_iff.mp hi
    obtain ⟨rfl, -⟩ := Prod.mk.inj hl
    exact List.mem_of_find?_eq_some hf
  refine ⟨_, hexec, .modStop s _ _, fun p c hp hc => ?_, fun hmore => ?_, fun hnext hheld => ?_⟩
  · rw [State.stop_modStop_same]
    have hrep : ((s.stop s.focus.a).replicate s.focus.a e.tag s.nc (s.linePacket s.focus.a e i v)).mcOut =
        (s.stop s.focus.a).mcOut ++ (g.counts.filter fun c => c.2 != 0).map fun c => (c.1, s.linePacket s.focus.a e i v, s.nc) := by
      simp only [Stop.replicate, hfind]
    change _ ∈ ((s.stop s.focus.a).replicate s.focus.a e.tag s.nc (s.linePacket s.focus.a e i v)).mcOut
    rw [hrep]
    exact List.mem_append_right _ (List.mem_map.mpr ⟨(p, c), List.mem_filter.mpr ⟨hp, by simpa using hc⟩, rfl⟩)
  · rw [State.stop_modStop_same]
    have hkeep : (e.next.isNone && e.held.tail.isEmpty) = false := by
      rcases hmore with h | h
      · cases hn : e.next with
        | none => rw [hn] at h; cases h
        | some _ => rfl
      · cases hl : e.held.tail with
        | nil => exact absurd hl h
        | cons _ _ => rw [List.isEmpty_cons, Bool.and_false]
    refine List.mem_flatMap.mpr ⟨e, hmem, ?_⟩
    rw [if_pos rfl, hkeep, if_neg Bool.false_ne_true]
    exact List.mem_singleton_self _
  · rw [State.stop_modStop_same]
    have hover : (e.next.isNone && e.held.tail.isEmpty) = true := by rw [hnext, hheld]; rfl
    have hgone (l : List Machine.Stream) : (l.flatMap fun f => if f = e then (if f.next.isNone && f.held.tail.isEmpty then [] else [{ f with held := f.held.tail, sendAt := s.nc + 3 }])
        else [f]) = l.filter (· ≠ e) := by
      induction l with
      | nil => rfl
      | cons f l ih =>
        rw [List.flatMap_cons, ih]
        by_cases hf : f = e
        · subst hf
          simp [hover]
        · simp [hf]
    exact hgone _

/-! ### Copies -/

theorem Stop.replicate_of_find {x : Stop} {home tag nc : Nat} {k : Packet} {g : McEntry} (h : x.mcFind home tag = some g) :
    x.replicate home tag nc k = { x with mcOut := x.mcOut ++ (g.counts.filter fun c => c.2 != 0).map fun c => (c.1, k, nc) } := by
  rw [Stop.replicate, h]

theorem mcReplicate_copies {s : State} {key : Nat} {k : Packet} {home tag src l : Nat} {m : BitVec 64} {ix v : Nat} {g : McEntry}
    (hrep : s.replicable s.focus.a = some (key, k)) (hbody : k.body = .mcLine home tag src l m ix v) (hfind : (s.stop s.focus.a).mcFind home tag = some g) :
    ∃ t, exec .mcReplicate s = .next t ∧ Kept s t ∧ (t.stop s.focus.a).buf key = ((s.stop s.focus.a).buf key).tail ∧
      (t.stop s.focus.a).mcOut = (s.stop s.focus.a).mcOut ++ (g.counts.filter fun c => c.2 != 0).map fun c => (c.1, k, s.nc) := by
  have hexec : exec .mcReplicate s = .next (s.modStop s.focus.a fun x => (x.pop key s.nc s.nc).replicate home tag s.nc k) := by
    change execMcReplicate s = _
    simp only [execMcReplicate, hrep, hbody]
  have hpop : ((s.stop s.focus.a).pop key s.nc s.nc).mcFind home tag = some g := hfind
  refine ⟨_, hexec, .modStop s _ _, ?_, ?_⟩
  · rw [State.stop_modStop_same, Stop.replicate_of_find hpop]
    exact (s.stop s.focus.a).buf_pop key s.nc s.nc
  · rw [State.stop_modStop_same, Stop.replicate_of_find hpop]
    rfl

theorem mcCopyDrop_drops {s : State} {e : Nat × Packet × Nat} (hstale : s.staleCopy s.focus.a = some e) : ∃ t, exec .mcCopyDrop s = .next t ∧ Kept s t ∧
    (t.stop s.focus.a).mcOut = (s.stop s.focus.a).mcOut.erase e ∧
    Tbl.get 0 (t.stop s.focus.a).counters 8 = (Tbl.get 0 (s.stop s.focus.a).counters 8 + 1) % 2 ^ 48 := by
  have hexec : exec .mcCopyDrop s = .next (s.modStop s.focus.a fun x => { x.count 8 1 with mcOut := x.mcOut.erase e }) := by
    change execMcCopyDrop s = _
    simp only [execMcCopyDrop, hstale]
  refine ⟨_, hexec, .modStop s _ _, ?_, ?_⟩
  · rw [State.stop_modStop_same]
  · rw [State.stop_modStop_same]
    exact Stop.count_same ..

end Sys2Proof.Machine
end

section
/-! SUPPORT and PROOFS. Multicast lines at a tile's interface (R259, R294, R381). Settles the statement of the events of copies and multicasts. -/
namespace Sys2Proof.Machine

/-! ### Subscriptions -/

/-- The subscription found under a tag, where those of one tag change and keep it. -/
theorem Tile.subOf_modSub {x : Tile} {tag t : Nat} {f : Subscr → Subscr} {b : Subscr} (hb : x.subOf tag = some b)
    (hf : ∀ c, c.tag = t → c.gone = false → (f c).tag = t ∧ (f c).gone = false) :
    (x.modSub t f).subOf tag = some (if b.tag = t ∧ !b.gone then f b else b) := by
  have hp : ((fun b : Subscr => b.tag == tag && !b.gone) ∘ fun b : Subscr => if b.tag = t ∧ !b.gone then f b else b) = fun b : Subscr => b.tag == tag && !b.gone := by
    funext c
    by_cases hc : c.tag = t ∧ !c.gone
    · have hnot : c.gone = false := by simpa using hc.2
      obtain ⟨htag, hgone⟩ := hf c hc.1 hnot
      rw [Function.comp, if_pos hc, htag, hgone, hc.1, hnot]
    · rw [Function.comp, if_neg hc]
  have hfind : x.subs.find? (fun b : Subscr => b.tag == tag && !b.gone) = some b := hb
  rw [Tile.subOf, Tile.modSub, List.find?_map, hp, hfind, Option.map_some]

theorem Tile.subOf_tag {x : Tile} {tag : Nat} {b : Subscr} (hb : x.subOf tag = some b) : b.tag = tag ∧ b.gone = false := by
  have h := List.find?_some (p := fun b : Subscr => b.tag == tag && !b.gone) hb
  simpa using h

/-! ### A line lands -/

/-- The place behind a line that has landed: the next selected line, or the end. -/
def Subscr.after (b : Subscr) (i : Nat) : Option Nat := (selected b.mask b.lines).find? fun k => decide (i < k)

/-- The channel of a subscription when a line has landed. -/
def Subscr.lands (b : Subscr) (i : Nat) (c : Channel) : Channel :=
  { c with wm := BitVec.ofNat 64 (b.dst + 128 * ((b.after i).getD b.lines)), count := c.count + 1 }

/-- A subscription without a line that has landed. -/
def Subscr.landed (i : Nat) (b : Subscr) : Subscr := { b with next := i + 1, got := b.got.filter fun g => g.1 != i }

/-- The tile where a line of a subscription has landed. -/
def Tile.lineLanded (b : Subscr) (i v : Nat) (x : Tile) : Tile :=
  ((x.poolWrite (b.dst + 128 * i) 128 (fullEn 128) v).modChan b.chan (b.lands i)).modSub b.tag (Subscr.landed i)

theorem Tile.lineLanded_pool (b : Subscr) (i v : Nat) (x : Tile) : (x.lineLanded b i v).pool = x.pool.writeEn (b.dst + 128 * i) 128 (fullEn 128) v := by
  simp only [Tile.lineLanded, Tile.modSub, Tile.modChan, Tile.poolWrite]

theorem Tile.lineLanded_jets (b : Subscr) (i v : Nat) (x : Tile) : (x.lineLanded b i v).jets = x.jets := by
  simp only [Tile.lineLanded, Tile.modSub, Tile.modChan, Tile.poolWrite]

theorem Tile.lineLanded_subs (b : Subscr) (i v : Nat) (x : Tile) : (x.lineLanded b i v).subs = (x.modSub b.tag (Subscr.landed i)).subs := by
  simp only [Tile.lineLanded, Tile.modSub, Tile.modChan, Tile.poolWrite]

theorem State.landLine_eq (s : State) (t : Nat) (b : Subscr) (i v : Nat) : s.landLine t b i v =
    if (b.after i).isSome then s.modTile t (Tile.lineLanded b i v) else (s.modTile t (Tile.lineLanded b i v)).retireChan t b.chan 0 := rfl

theorem Tile.lineLanded_chan (b : Subscr) (i v : Nat) (x : Tile) : (x.lineLanded b i v).chan b.chan = b.lands i (x.chan b.chan) := Tbl.get_set_same ..

theorem State.landLine_spec (s : State) (t : Nat) (b : Subscr) (i v : Nat) : PoolWritten s (s.landLine t b i v) t (b.dst + 128 * i) 128 (fullEn 128) v ∧
    ((s.landLine t b i v).tile t).subs = ((s.tile t).modSub b.tag (Subscr.landed i)).subs ∧
    (((s.landLine t b i v).tile t).chan b.chan).wm = (b.lands i ((s.tile t).chan b.chan)).wm ∧
    (((s.landLine t b i v).tile t).chan b.chan).count = ((s.tile t).chan b.chan).count + 1 ∧
    (b.after i = none → (((s.landLine t b i v).tile t).chan b.chan).state = .done) := by
  let u := s.modTile t (Tile.lineLanded b i v)
  have hwritten : PoolWritten s u t (b.dst + 128 * i) 128 (fullEn 128) v := .modTile s t (Tile.lineLanded_jets b i v) (Tile.lineLanded_pool b i v)
  have hu : u.tile t = Tile.lineLanded b i v (s.tile t) := State.tile_modTile_same ..
  have hsubs : (u.tile t).subs = ((s.tile t).modSub b.tag (Subscr.landed i)).subs := (congrArg Tile.subs hu).trans (Tile.lineLanded_subs b i v _)
  have hchan : (u.tile t).chan b.chan = b.lands i ((s.tile t).chan b.chan) := (congrArg (Tile.chan · b.chan) hu).trans (Tile.lineLanded_chan ..)
  rw [State.landLine_eq]
  cases hmore : b.after i with
  | some k =>
    refine ⟨hwritten, hsubs, ?_, ?_, fun h => by cases h⟩
    · exact congrArg Channel.wm hchan
    · exact congrArg Channel.count hchan
  | none =>
    have hstep := u.retireChan_step t b.chan
    have hnew := hstep.chan
    rw [hchan] at hnew
    rw [if_neg (show ¬ (none : Option Nat).isSome = true from Bool.false_ne_true)]
    refine ⟨hwritten.kept (CoreKept.retireChan u t b.chan 0).kept, hstep.subs.trans hsubs, ?_, ?_, fun _ => ?_⟩
    · exact (congrArg Channel.wm hnew).trans rfl
    · exact (congrArg Channel.count hnew).trans rfl
    · exact (congrArg Channel.state hnew).trans rfl

/-! ### The interface takes lines in -/

/-- A stop whose interface has taken in the lines that were whole before a tc. -/
def Stop.takesIn (tc : Nat) (x : Stop) : Stop := { x with mcIn := x.mcIn.filter fun k => !decide (k.readyAt / 2 < tc) }

/-- The lines that were whole at the interface before this tc. -/
def State.wholeLines (s : State) (n : Nat) : List Packet := (s.stop n).mcIn.filter fun k => decide (k.readyAt / 2 < s.tc)

/-- The interface lands a line where it has one to land. -/
def State.landNext (s : State) (n : Nat) : State :=
  match s.mcLander n with
  | none => s
  | some (b, i, v) => s.landLine n b i v

theorem mcLineLand_eq {s : State} (hd : s.focus.d ≠ 1) : exec .mcLineLand s =
    .next (((s.wholeLines s.focus.a).foldl (fun u k => u.lineComes s.focus.a k) (s.modStop s.focus.a (Stop.takesIn s.tc))).landNext s.focus.a) := by
  have hnext (u : State) (n : Nat) : (match u.mcLander n with | none => (.next u : Out) | some (b, i, v) => .next (u.landLine n b i v)) = .next (u.landNext n) := by
    rw [State.landNext]
    cases u.mcLander n <;> rfl
  change execMcLineLand s = _
  simp only [execMcLineLand, if_neg hd]
  exact hnext ((s.wholeLines s.focus.a).foldl (fun u k => u.lineComes s.focus.a k) (s.modStop s.focus.a (Stop.takesIn s.tc))) s.focus.a

/-- What a stop takes in does not hold a line back. -/
theorem State.mcLander_modStop (s : State) (n q : Nat) (f : Stop → Stop) : (s.modStop q f).mcLander n = s.mcLander n := rfl

theorem mcLineLand_lands {s : State} {b : Subscr} {i v : Nat} (hd : s.focus.d ≠ 1) (hwhole : s.wholeLines s.focus.a = [])
    (hlander : s.mcLander s.focus.a = some (b, i, v)) : exec .mcLineLand s = .next ((s.modStop s.focus.a (Stop.takesIn s.tc)).landLine s.focus.a b i v) := by
  rw [mcLineLand_eq hd, hwhole, List.foldl_nil, State.landNext, State.mcLander_modStop, hlander]

/-! ### A line comes -/

/-- The subscription that a line of its stream has come for. -/
def Subscr.comes (b : Subscr) (mask : BitVec 64) (ix nc : Nat) (room : Bool) (v : Nat) : Subscr :=
  let b1 := { b with started := true, mask := mask, lastIx := ix, lastPkt := nc }
  { b1 with wanted := b1.wanted ++ b1.missing.filter fun i => decide (i < ix), got := if room then b1.got ++ [(ix, v)] else b1.got }

section
variable {s : State} {n tag : Nat} {k : Packet} {home src l : Nat} {mask : BitVec 64} {ix v : Nat} {b : Subscr} (hbody : k.body = .mcLine home tag src l mask ix v)
include hbody

theorem State.lineComes_none (hsub : (s.tile n).subOf tag = none) : s.lineComes n k = s.modStop n fun x => x.count 9 1 := by
  simp only [State.lineComes, hbody, hsub]

theorem State.lineComes_taken (hsub : (s.tile n).subOf tag = some b) (hsrc : b.src = src) (hlines : b.lines = l) (hover : b.over_ = false)
    (hlands : (s.tile n).subLands b = true) (hstarted : b.started = true → b.mask = mask ∧ b.lastIx < ix) : ∃ room u, s.lineComes n k = u ∧ u.tile n =
      (s.tile n).modSub tag (fun _ => b.comes mask ix s.nc room v) ∧ Kept s u := by
  have hmine : (b.src != src || b.lines != l || b.over_ || (b.started && b.mask != mask) || !(s.tile n).subLands b) = false := by
    rw [hsrc, hlines, hover, hlands]
    cases hs : b.started with
    | false => simp
    | true => simp [(hstarted hs).1]
  have hnew : (b.started && decide (ix ≤ b.lastIx)) = false := by
    cases hs : b.started with
    | false => rfl
    | true => simpa using (hstarted hs).2
  have hkept (room : Bool) : Kept s (s.modTile n fun x => x.modSub tag fun _ => b.comes mask ix s.nc room v) := .modTile s n (fun _ => rfl) fun _ => rfl
  by_cases hroom : (s.tile n).mcHeld + (s.tile n).mcAsked < 32
  · refine ⟨true, _, rfl, ?_⟩
    have hdef : s.lineComes n k = s.modTile n fun x => x.modSub tag fun _ => b.comes mask ix s.nc true v := by
      simp only [State.lineComes, hbody, hsub, hmine, hnew, Bool.false_eq_true, if_false, hroom, if_true]
      rfl
    rw [hdef]
    exact ⟨State.tile_modTile_same s n (fun x => x.modSub tag fun _ => b.comes mask ix s.nc true v), hkept true⟩
  · refine ⟨false, _, rfl, ?_⟩
    have hdef : s.lineComes n k = (s.modTile n fun x => x.modSub tag fun _ => b.comes mask ix s.nc false v).modStop n fun x => x.count 8 1 := by
      simp only [State.lineComes, hbody, hsub, hmine, hnew, Bool.false_eq_true, if_false, hroom]
      rfl
    rw [hdef]
    exact ⟨State.tile_modTile_same s n (fun x => x.modSub tag fun _ => b.comes mask ix s.nc false v), (hkept false).trans (.modStop _ _ _)⟩

end

/-- Every selected line before the one that has come is here, asked for or wanted (R294). -/
theorem Subscr.comes_wants {b : Subscr} {mask : BitVec 64} {ix nc : Nat} {room : Bool} {v i : Nat} (hi : i ∈ selected mask b.lines) (hnext : b.next ≤ i) (hlt : i < ix)
    (hgot : ∀ g ∈ b.got, g.1 ≠ i) : i ∈ b.asked ∨ i ∈ (b.comes mask ix nc room v).wanted := by
  by_cases hasked : i ∈ b.asked
  · exact .inl hasked
  · by_cases hwanted : i ∈ b.wanted
    · exact .inr (List.mem_append_left _ hwanted)
    · refine .inr (List.mem_append_right _ (List.mem_filter.mpr ⟨List.mem_filter.mpr ⟨hi, ?_⟩, by simpa using hlt⟩))
      have hany : (b.got.any fun g => g.1 == i) = false := List.any_eq_false.mpr fun g hg => by simpa using hgot g hg
      simp [hnext, hany, hwanted, hasked]

/-- A line of its stream has come for a subscription (R259). -/
theorem mcLineLand_comes {s : State} {k : Packet} {home tag src l : Nat} {mask : BitVec 64} {ix v : Nat} {b : Subscr} (hd : s.focus.d ≠ 1)
    (hwhole : s.wholeLines s.focus.a = [k]) (hbody : k.body = .mcLine home tag src l mask ix v) (hsub : (s.tile s.focus.a).subOf tag = some b) (hsrc : b.src = src)
    (hlines : b.lines = l) (hover : b.over_ = false) (hlands : (s.tile s.focus.a).subLands b = true) (hstarted : b.started = true → b.mask = mask ∧ b.lastIx < ix) :
    ∃ t c, exec .mcLineLand s = .next t ∧ t.mem = s.mem ∧ (t.tile s.focus.a).subOf tag = some c ∧ c.started = true ∧ c.mask = mask ∧ c.lastIx = ix ∧ c.lastPkt = s.nc ∧
      (∀ i ∈ selected mask l, b.next ≤ i → i < ix → (∀ g ∈ b.got, g.1 ≠ i) → i ∈ b.asked ∨ i ∈ c.wanted) := by
  obtain ⟨room, u, hu, htile, hkept⟩ := State.lineComes_taken (s := s.modStop s.focus.a (Stop.takesIn s.tc)) (n := s.focus.a) hbody hsub hsrc hlines hover hlands hstarted
  obtain ⟨htag, hgone⟩ := Tile.subOf_tag hsub
  have hfound : (u.tile s.focus.a).subOf tag = some (b.comes mask ix s.nc room v) := by
    rw [htile]
    refine (Tile.subOf_modSub (f := fun _ => b.comes mask ix s.nc room v) hsub fun c _ _ => ⟨htag, hgone⟩).trans (congrArg some (if_pos ⟨htag, ?_⟩))
    rw [hgone]
    rfl
  have hwants : ∀ i ∈ selected mask l, b.next ≤ i → i < ix → (∀ g ∈ b.got, g.1 ≠ i) → i ∈ b.asked ∨ i ∈ (b.comes mask ix s.nc room v).wanted :=
    fun i hi hn hlt hg => Subscr.comes_wants (hlines ▸ hi) hn hlt hg
  have hmem : u.mem = s.mem := hkept.mem
  have hexec : exec .mcLineLand s = .next (u.landNext s.focus.a) := by
    rw [mcLineLand_eq hd, hwhole, List.foldl_cons, List.foldl_nil, hu]
  rw [State.landNext] at hexec
  cases hland : u.mcLander s.focus.a with
  | none =>
    rw [hland] at hexec
    exact ⟨u, _, hexec, hmem, hfound, rfl, rfl, rfl, rfl, hwants⟩
  | some e =>
    obtain ⟨c, i, w⟩ := e
    rw [hland] at hexec
    obtain ⟨hwritten, hsubs, -⟩ := u.landLine_spec s.focus.a c i w
    have hlast := Tile.subOf_modSub (t := c.tag) (f := Subscr.landed i) hfound fun d htag hgone => ⟨htag, hgone⟩
    have hsame : ((u.landLine s.focus.a c i w).tile s.focus.a).subOf tag = ((u.tile s.focus.a).modSub c.tag (Subscr.landed i)).subOf tag :=
      congrArg (List.find? fun b : Subscr => b.tag == tag && !b.gone) hsubs
    refine ⟨_, _, hexec, hwritten.1.trans hmem, hsame.trans hlast, ?_⟩
    split
    · exact ⟨rfl, rfl, rfl, rfl, hwants⟩
    · exact ⟨rfl, rfl, rfl, rfl, hwants⟩

theorem mcLineLand_dropped {s : State} {k : Packet} {home tag src l : Nat} {mask : BitVec 64} {ix v : Nat} (hd : s.focus.d ≠ 1) (hwhole : s.wholeLines s.focus.a = [k])
    (hbody : k.body = .mcLine home tag src l mask ix v) (hsub : (s.tile s.focus.a).subOf tag = none) (hnone : s.mcLander s.focus.a = none) :
    ∃ t, exec .mcLineLand s = .next t ∧ Kept s t ∧ (t.tile s.focus.a).subs = (s.tile s.focus.a).subs ∧
      Tbl.get 0 (t.stop s.focus.a).counters 9 = (Tbl.get 0 (s.stop s.focus.a).counters 9 + 1) % 2 ^ 48 := by
  have hcomes : (s.modStop s.focus.a (Stop.takesIn s.tc)).lineComes s.focus.a k = (s.modStop s.focus.a (Stop.takesIn s.tc)).modStop s.focus.a fun x => x.count 9 1 :=
    State.lineComes_none hbody hsub
  have hexec : exec .mcLineLand s = .next ((s.modStop s.focus.a (Stop.takesIn s.tc)).modStop s.focus.a fun x => x.count 9 1) := by
    rw [mcLineLand_eq hd, hwhole, List.foldl_cons, List.foldl_nil, hcomes, State.landNext, State.mcLander_modStop, State.mcLander_modStop, hnone]
  refine ⟨_, hexec, (Kept.modStop s _ _).trans (.modStop _ _ _), rfl, ?_⟩
  rw [State.stop_modStop_same, Stop.count_same, State.stop_modStop_same]
  rfl

/-! ### Lines read again -/

/-- A subscription of which a line is being read again. -/
def Subscr.asksFor (i pa : Nat) (b : Subscr) : Subscr := { b with wanted := b.wanted.erase i, asked := b.asked ++ [i], pas := b.pas.set i pa }

/-- A subscription of which a line has been read again. -/
def Subscr.given (i v : Nat) (b : Subscr) : Subscr := { b with asked := b.asked.erase i, got := b.got ++ [(i, v)] }

/-- A subscription that wants all its missing lines. -/
def Subscr.wantsAll (b : Subscr) : Subscr := { b with wanted := b.wanted ++ b.missing }

theorem Tile.modSub_subs (x : Tile) (tag : Nat) (f : Subscr → Subscr) : (x.modSub tag f).subs = x.subs.map fun c => if c.tag = tag ∧ c.gone = false then f c else c :=
  List.map_congr_left fun c _ => if_congr (by simp) rfl rfl

theorem mcCatchupRead_asks {s : State} {b : Subscr} {i : Nat} {e : PageKind × Bool × Nat} (hcatch : (s.tile s.focus.a).mcCatchup = some (b, i))
    (hlines : s.streamLines s.focus.a (b.src + 128 * i) 1 = .ok [some e]) : ∃ t, exec .mcCatchupRead s = .next t ∧ Kept (s.walked s.focus.a (b.src + 128 * i) 128) t ∧
      (t.tile s.focus.a).subs = ((s.tile s.focus.a).subs.map fun c => if c.tag = b.tag ∧ c.gone = false then Subscr.asksFor i e.2.2 c else c) ∧
      (paIo e.2.2 = false → s.packet (paDev e.2.2) s.focus.a (homeOf e.2.2) .l2 1 (2 * s.xlateCost s.focus.a (b.src + 128 * i) 128 + 28)
        (.read s.focus.a (unitId 3 (64 * b.tag + i)) 0 e.2.2 128) ∈ (t.stop s.focus.a).inject) := by
  let n := s.focus.a
  have hwalk := (UnitReads.walked s n (b.src + 128 * i) 128 false).1
  have hexec : exec .mcCatchupRead s = .next (((s.walked n (b.src + 128 * i) 128).modTile n fun x => x.modSub b.tag (Subscr.asksFor i e.2.2)).askUnit n
      (unitId 3 (64 * b.tag + i)) e.2.2 128 (2 * s.xlateCost n (b.src + 128 * i) 128 + 28)) := by
    change execMcCatchupRead s = _
    simp only [execMcCatchupRead, hcatch, hlines]
    rfl
  have hpkt : ∀ w, (s.walked n (b.src + 128 * i) 128) = w → ∀ d dst port fl del body, (w.modTile n fun x => x.modSub b.tag (Subscr.asksFor i e.2.2)).packet d n dst port fl del body =
      s.packet d n dst port fl del body := by
    rintro w rfl d dst port fl del body
    simp only [State.packet, State.modTile, State.setTile, hwalk.device, hwalk.nc]
  have hsubs : ((s.walked n (b.src + 128 * i) 128).tile n).subs = (s.tile n).subs := by rw [hwalk.tile n]
  generalize s.walked n (b.src + 128 * i) 128 = w at hexec hpkt hsubs ⊢
  refine ⟨_, hexec, (Kept.modTile w n (f := fun x => x.modSub b.tag (Subscr.asksFor i e.2.2)) (fun _ => rfl) fun _ => rfl).trans ((UnitReads.askUnit _ _ _ _ _ _).1.kept rfl),
    ?_, fun hio => ?_⟩
  · refine (congrArg Tile.subs (State.tile_modTile_same w n fun x => x.modSub b.tag (Subscr.asksFor i e.2.2))).trans ?_
    rw [Tile.modSub_subs, hsubs]
  · have hmem := (w.modTile n fun x => x.modSub b.tag (Subscr.asksFor i e.2.2)).injectTo_mem (paDev e.2.2) n (homeOf e.2.2) .l2 1
      (2 * s.xlateCost n (b.src + 128 * i) 128 + 28) (.read n (unitId 3 (64 * b.tag + i)) 0 e.2.2 128)
    rw [hpkt w rfl] at hmem
    simpa only [State.askUnit, State.homeDev, homePort, hio, Bool.false_eq_true, if_false] using hmem

theorem mcLineLand_given {s : State} {b : Subscr} (hd : s.focus.d = 1) (hsub : (s.tile s.focus.a).subOf s.focus.b = some b) (hasked : s.focus.c ∈ b.asked) :
    ∃ t c, exec .mcLineLand s = .next t ∧ Kept s t ∧ (t.tile s.focus.a).subOf s.focus.b = some c ∧ c.asked = b.asked.erase s.focus.c ∧
      c.got = b.got ++ [(s.focus.c, s.focus.data)] := by
  have hhas : b.asked.contains s.focus.c = true := by simpa using hasked
  have hexec : exec .mcLineLand s = .next (s.modTile s.focus.a fun x => x.modSub b.tag (Subscr.given s.focus.c s.focus.data)) := by
    change execMcLineLand s = _
    simp only [execMcLineLand, if_pos hd, hsub, hhas, if_true]
    rfl
  refine ⟨_, Subscr.given s.focus.c s.focus.data b, hexec, .modTile s _ (f := fun x => x.modSub b.tag (Subscr.given s.focus.c s.focus.data)) (fun _ => rfl) fun _ => rfl,
    ?_, rfl, rfl⟩
  rw [State.tile_modTile_same, Tile.subOf_modSub (f := Subscr.given s.focus.c s.focus.data) hsub fun c htag hgone => ⟨htag, hgone⟩, if_pos ⟨rfl, by rw [(Tile.subOf_tag hsub).2]; rfl⟩]

theorem mcStreamIdle_wants {s : State} {b : Subscr} (hidle : s.mcIdle s.focus.a = some b) : ∃ t, exec .mcStreamIdle s = .next t ∧ Kept s t ∧
    (t.tile s.focus.a).subs = ((s.tile s.focus.a).subs.map fun c => if c.tag = b.tag ∧ c.gone = false then c.wantsAll else c) := by
  have hexec : exec .mcStreamIdle s = .next (s.modTile s.focus.a fun x => x.modSub b.tag Subscr.wantsAll) := by
    change execMcStreamIdle s = _
    simp only [execMcStreamIdle, hidle]
    rfl
  refine ⟨_, hexec, .modTile s _ (f := fun x => x.modSub b.tag Subscr.wantsAll) (fun _ => rfl) fun _ => rfl, ?_⟩
  rw [State.tile_modTile_same, Tile.modSub_subs]

end Sys2Proof.Machine
end

section
/-! PROOFS. Settles the statement of the events of copies and multicasts. -/
namespace Sys2Proof.Machine

/-- Settles O51: each event by its equation, and by what its parts leave of the tile's channels and subscriptions. -/
theorem copyEvents : Obligations.CopyEvents := by
  unfold Obligations.CopyEvents
  intro s n x h dev img refusedWith copy f back va meets rest turns again backs lands inStash subLands goneOn pkt joins onward whole streams lineAt
  have hlands {b : Subscr} (hb : subLands b) : x.subLands b = true := by
    obtain ⟨hstate, huse, hacc⟩ := hb
    rw [Tile.subLands, hstate, huse, hacc]
    simp
  have honward (v tag home : Nat) (leave : Bool) (upTo : Nat) : onward v tag home leave upTo = s.joinPacket n v tag home leave upTo := by
    simp only [onward, State.joinPacket]
    rfl
  refine ⟨?accept, ?cap, ?template, ?read, ?back, ?fault, ?stall, ?aborted, ?whole, ?waits, ?own, ?far, ?remote, ?memory, ?stash, ?ack, ?last, ?freeze, ?guard,
    ?join, ?count, ?full, ?leave, ?ends, ?answer, ?ask, ?none, ?start, ?merge, ?miss, ?hit, ?send, ?copies, ?drop, ?land, ?comes, ?lost, ?catchup, ?given, ?idle⟩
  case accept => exact fun loc k c hhead hcopy hcheck htotal => copyAccept_lands hhead hcopy hcheck htotal
  case cap => exact fun loc k hhead hcopy hchecked hcap => copyAccept_answers hhead hcopy (State.checkCopy_cap hchecked hcap) (by decide) (by decide)
  case template =>
    exact fun loc k hhead hcopy hcap htpl => copyAccept_answers hhead hcopy (State.checkCopy_noTemplate hcopy hcap htpl) (by decide) (by decide)
  case read =>
    intro ch c hreader hchan
    obtain ⟨t, hexec, hkept, hpieces, hpart, hback⟩ := copySourceRead_reads hreader hchan rfl rfl
    exact ⟨t, hexec, hkept, hpieces, hpart, fun r hr hp => hback fun p hpr => hp p (hr.symm.trans hpr)⟩
  case back =>
    rintro c p v u ⟨⟨hchan, hacc, hstate, hpiece⟩, hfrom, hguard⟩ hread
    exact copyReadReturn_value hchan hacc hstate hpiece hfrom hguard hread
  case fault =>
    rintro c p e ⟨⟨hchan, hacc, hstate, hpiece⟩, hfrom, hguard⟩ hread
    exact copyReadReturn_fault hchan hacc hstate hpiece hfrom hguard hread
  case stall =>
    rintro c p ⟨⟨hchan, hacc, hstate, hpiece⟩, hfrom, hguard⟩
    exact copyReadReturn_stalls hchan hacc hstate hpiece hfrom hguard
  case aborted =>
    rintro c p k ⟨⟨hchan, hacc, hstate, hpiece⟩, hfrom, hguard⟩
    exact copyReadReturn_aborted hchan hacc hstate hpiece hfrom hguard
  case whole =>
    rintro c p ⟨hchan, hacc, hstate, hpiece⟩ hfrom hroom
    exact copyReadReturn_returns hchan hacc hstate hpiece hfrom hroom
  case waits =>
    rintro c p ⟨hchan, hacc, hstate, hpiece⟩ hfrom hdata hhead hfull
    exact copyReadReturn_waits hchan hacc hstate hpiece hfrom hdata hhead hfull
  case own =>
    rintro ch c a nb v p ⟨hc, hlander, hchan, hgood, hnext, hparts⟩ hpath hpool
    obtain ⟨⟨hmem, hjets, hown, hothers⟩, hgone⟩ := State.landWrite_own_spec v hchan hparts hpath hpool
    exact ⟨_, landingWrite_lands hlander hc hgood hnext, hmem, hjets, hown, hothers, hgone⟩
  case far =>
    rintro ch c a nb v p ⟨hc, hlander, hchan, hgood, hnext, hparts⟩ hpath hpool
    have hexec := landingWrite_lands hlander hc hgood hnext
    rw [State.landWrite_far v hparts hchan hpath hpool] at hexec
    exact ⟨_, hexec, State.flies_spec hchan a nb _ _ _ _ _ _⟩
  case remote =>
    intro ch v pos q hfind hop
    obtain ⟨t, hexec, ⟨hmem, hjets, hpool, hothers⟩, hguards, hack⟩ := remotePoolAccess_lands hop hfind
    exact ⟨t, hexec, hmem, hjets, hpool, hothers, hguards, hack⟩
  case memory =>
    rintro ch c a nb v p ⟨hc, hlander, hchan, hgood, hnext, hparts⟩ hpath hio hstash
    have hexec := landingWrite_lands hlander hc hgood hnext
    rw [State.landWrite_memory v hparts hchan hpath hio hstash] at hexec
    exact ⟨_, hexec, State.flies_spec hchan a nb _ _ _ _ _ _⟩
  case stash =>
    rintro ch c a nb v p ⟨hc, hlander, hchan, hgood, hnext, hparts⟩ ⟨hpath, hstash⟩
    exact ⟨_, landingWrite_lands hlander hc hgood hnext, State.landWrite_stash_spec v hchan hparts hpath hstash⟩
  case ack => exact fun c hc hchan hfly hacc => landingWrite_acked hc hchan hfly hacc
  case last => exact fun e hc hgone hfind => landingWrite_last_spec hc hgone hfind rfl
  case freeze =>
    intro ch c e a hc hlander hchan hbad
    obtain ⟨hkept, hnew, m, hmsg⟩ := s.freezeChan_spec n ch e a hchan
    exact ⟨_, landingWrite_freezes hlander hc hbad, hkept, (congrArg Channel.state hnew).trans rfl, (congrArg Channel.wm hnew).trans rfl, (congrArg Channel.pieces hnew).trans rfl,
      (congrArg Channel.readNext hnew).trans rfl, m, hmsg⟩
  case guard => exact fun ch c o p hwaiter hchan hpool ho hwin hroom => guardEntryFree_opens hwaiter hchan hpool ho hwin hroom
  case join =>
    rintro port v tag home upTo ⟨k, r, hin, hbody⟩ hnone hroom
    rw [honward]
    refine mcJoinArrival_counts hin hbody (x := { Stop.joinTaken r h with mc := h.mc ++ [⟨home, tag, [(port, 1)]⟩] }) ?_ rfl
    have hnone' : (Stop.joinTaken r h).mcFind home tag = none := hnone
    rw [Stop.mcAdd, hnone']
    exact if_pos hroom
  case count =>
    rintro port v tag home upTo e ⟨k, r, hin, hbody⟩ hfind
    rw [honward]
    have hfind' : (Stop.joinTaken r h).mcFind home tag = some e := hfind
    obtain ⟨t, hexec, hkept, hmc, hinject⟩ := mcJoinArrival_counts hin hbody
      (x := { Stop.joinTaken r h with mc := h.mc.map fun f => if f = e then McEntry.more port f else f }) (by rw [Stop.mcAdd, hfind']; rfl) rfl
    have hmore : (t.stop n).mcFind home tag = some (e.more port) := by
      rw [Stop.mcFind, hmc]
      exact List.find?_map_change (fun _ => rfl) hfind
    exact ⟨t, _, hexec, hkept, hmore, Tbl.get_set_same .., fun p hp => Tbl.get_set_ne _ _ _ hp, hinject⟩
  case full =>
    rintro port v tag home upTo ⟨k, r, hin, hbody⟩ hnone hfull
    exact mcJoinArrival_refused hin hbody hnone hfull
  case leave =>
    rintro port v tag home upTo e ⟨k, r, hin, hbody⟩ hfar hfind hone hall
    rw [honward]
    obtain ⟨t, hexec, hkept, hmc, hinject⟩ := mcJoinArrival_leaves hin hbody hfar
    refine ⟨t, hexec, hkept, ?_, hinject⟩
    rw [Stop.mcFind, hmc]
    exact Stop.mcSub_last hone hall
  case ends =>
    rintro port v tag home ⟨k, r, hin, hbody⟩
    exact mcJoinArrival_ends hin hbody
  case answer =>
    intro b o hc7 hfind howed hgone
    obtain ⟨t, p, hexec, hmem, howes, hp, hagenda, hacked, hrefused⟩ := mcJoinAck_settles hc7 hfind howed hgone
    exact ⟨t, p, hexec, hmem, howes, hp, hagenda, hacked, fun hc => ⟨(hrefused hc).1, fun hb => (hrefused hc).2 (hlands hb)⟩⟩
  case ask => exact fun w hb hw => mcStreamRequest_leaves hb hw
  case none =>
    rintro k r v tag src mask slot ix pas ⟨hb, hwait, hbody⟩ hnone
    exact mcStreamRequest_answers hb hwait hbody (.inr hnone)
  case start =>
    rintro k r v tag src mask slot ix pas ⟨hb, hwait, hbody⟩ hsome hnew
    obtain ⟨t, hexec, hkept, hstreams, hinject⟩ := mcStreamRequest_starts hb hwait hbody hnew hsome
    exact ⟨t, _, hexec, hkept, hstreams, rfl, rfl, rfl, rfl, rfl, rfl, rfl, rfl, hinject⟩
  case merge =>
    rintro k r v tag src mask slot ix pas ⟨hb, hwait, hbody⟩ hmerge
    exact mcStreamRequest_answers hb hwait hbody (.inl hmerge)
  case miss => exact fun e i hb hreads hmiss => mcStreamLineSend_misses hb hreads rfl hmiss
  case hit => exact fun e i hb hreads hhit hdir => mcStreamLineSend_reads hb hreads rfl hhit hdir
  case send => exact fun e i v g hb hdue hfind => mcStreamLineSend_sends hb hdue hfind
  case copies => exact fun key k home tag src l m ix v g hrep hbody hfind => mcReplicate_copies hrep hbody hfind
  case drop => exact fun e hstale => mcCopyDrop_drops hstale
  case land =>
    intro b i v hd hwhole hlander
    obtain ⟨⟨hmem, hjets, hpool, hothers⟩, -, hwm, hcount, hdone⟩ := (s.modStop n (Stop.takesIn s.tc)).landLine_spec n b i v
    exact ⟨_, mcLineLand_lands hd hwhole hlander, hmem, hjets, hpool, hothers, hwm, hcount, hdone⟩
  case comes =>
    intro k home tag src l mask ix v b hd hwhole hbody hsub hsrc hl hover hb hstarted
    exact mcLineLand_comes hd hwhole hbody hsub hsrc hl hover (hlands hb) hstarted
  case lost => exact fun k home tag src l mask ix v hd hwhole hbody hsub hnone => mcLineLand_dropped hd hwhole hbody hsub hnone
  case catchup => exact fun b i e hcatch hlines => mcCatchupRead_asks hcatch hlines
  case given => exact fun b hd hsub hasked => mcLineLand_given hd hsub hasked
  case idle => exact fun b hidle => mcStreamIdle_wants hidle

end Sys2Proof.Machine
end

section
/-! SUPPORT. Bytes written under nibble enables (R81, R220), and what a request served at its home slice can change (R221). -/
namespace Sys2Proof.Machine

/-! ### Nibble enables -/

theorem mergeNib_nibble (old v en : Nat) {n j : Nat} (h : j < n) :
    mergeNib old v en n / 16 ^ j % 16 = if en / 2 ^ j % 2 = 1 then v / 16 ^ j % 16 else old / 16 ^ j % 16 := by
  induction n generalizing old v en j with
  | zero => omega
  | succ n ih =>
    have hlow : (if en % 2 = 1 then v % 16 else old % 16) < 16 := by split <;> omega
    cases j with
    | zero => simp only [mergeNib, pow_zero, Nat.div_one]; omega
    | succ j =>
      have hrest : mergeNib old v en (n + 1) / 16 = mergeNib (old / 16) (v / 16) (en / 2) n := by
        simp only [mergeNib]
        omega
      have h16 (x : Nat) : x / 16 ^ (j + 1) = x / 16 / 16 ^ j := by rw [Nat.pow_succ', Nat.div_div_eq_div_mul]
      have h2 (x : Nat) : x / 2 ^ (j + 1) = x / 2 / 2 ^ j := by rw [Nat.pow_succ', Nat.div_div_eq_div_mul]
      rw [h16, h16, h16, h2, hrest]
      exact ih _ _ _ (by omega)

/-- A byte by its nibbles. -/
theorem byte_nibbles (x k : Nat) : x / 256 ^ k % 256 = x / 16 ^ (2 * k) % 16 + 16 * (x / 16 ^ (2 * k + 1) % 16) := by
  have h : (16 : Nat) ^ (2 * k) = 256 ^ k := by rw [Nat.pow_mul]
  rw [Nat.pow_succ, ← Nat.div_div_eq_div_mul, h]
  omega

theorem mergeNib_byte_set (old v : Nat) {en n k : Nat} (hk : k < n) (hen : fld en (2 * k) 2 = 3) : mergeNib old v en (2 * n) / 256 ^ k % 256 = v / 256 ^ k % 256 := by
  have hbits : en / 2 ^ (2 * k) % 4 = 3 := hen
  have h1 : en / 2 ^ (2 * k) % 2 = 1 := by omega
  have h2 : en / 2 ^ (2 * k + 1) % 2 = 1 := by rw [Nat.pow_succ, ← Nat.div_div_eq_div_mul]; omega
  rw [byte_nibbles, byte_nibbles v, mergeNib_nibble _ _ _ (by omega), mergeNib_nibble _ _ _ (by omega), if_pos h1, if_pos h2]

theorem mergeNib_byte_clear (old v : Nat) {en n k : Nat} (hk : k < n) (hen : fld en (2 * k) 2 = 0) :
    mergeNib old v en (2 * n) / 256 ^ k % 256 = old / 256 ^ k % 256 := by
  have hbits : en / 2 ^ (2 * k) % 4 = 0 := hen
  have h1 : ¬ en / 2 ^ (2 * k) % 2 = 1 := by omega
  have h2 : ¬ en / 2 ^ (2 * k + 1) % 2 = 1 := by rw [Nat.pow_succ, ← Nat.div_div_eq_div_mul]; omega
  rw [byte_nibbles, byte_nibbles old, mergeNib_nibble _ _ _ (by omega), mergeNib_nibble _ _ _ (by omega), if_neg h1, if_neg h2]

theorem Memory.readN_byte (m : Memory) {a n k : Nat} (h : k < n) : m.readN a n / 256 ^ k % 256 = (m.read (a + k)).toNat := by
  induction n generalizing a k with
  | zero => omega
  | succ n ih =>
    have hlow := (m.read a).isLt
    cases k with
    | zero =>
      simp only [Memory.readN, pow_zero, Nat.div_one, Nat.add_zero]
      omega
    | succ k =>
      have hrest : m.readN a (n + 1) / 256 = m.readN (a + 1) n := by
        simp only [Memory.readN]
        omega
      rw [Nat.pow_succ', ← Nat.div_div_eq_div_mul, hrest, ih (by omega), Nat.add_right_comm, Nat.add_assoc]

theorem byte_ofNat_congr {x y : Nat} (h : x % 256 = y % 256) : BitVec.ofNat 8 x = BitVec.ofNat 8 y := by
  apply BitVec.eq_of_toNat_eq
  rw [BitVec.toNat_ofNat, BitVec.toNat_ofNat]
  exact h

/-- A byte whose nibbles are both enabled is written. -/
theorem Memory.read_writeEn_set (m : Memory) (a v : Nat) {n en k : Nat} (hk : k < n) (hen : fld en (2 * k) 2 = 3) :
    (m.writeEn a n en v).read (a + k) = BitVec.ofNat 8 (v / 2 ^ (8 * k)) := by
  rw [Memory.writeEn, Memory.read_writeN_inside _ _ _ _ _ hk]
  have hpow : (2 : Nat) ^ (8 * k) = 256 ^ k := by rw [Nat.pow_mul]
  rw [hpow]
  exact byte_ofNat_congr (mergeNib_byte_set _ _ hk hen)

/-- A byte of which no nibble is enabled is as it was. -/
theorem Memory.read_writeEn_clear (m : Memory) (a v : Nat) {n en k : Nat} (hk : k < n) (hen : fld en (2 * k) 2 = 0) :
    (m.writeEn a n en v).read (a + k) = m.read (a + k) := by
  rw [Memory.writeEn, Memory.read_writeN_inside _ _ _ _ _ hk]
  have h := (mergeNib_byte_clear (m.readN a n) v hk hen).trans (m.readN_byte hk)
  apply BitVec.eq_of_toNat_eq
  rw [BitVec.toNat_ofNat]
  exact h

end Sys2Proof.Machine
end

section
/-! SUPPORT. What a request served at its home slice can change (R220 to R222): what stashes and the slice hold of its line, the line's own bytes, and
the packets that leave the slice. -/
namespace Sys2Proof.Machine

/-- A stop that differs from another in the lines of its slice, the directory and what leaves. -/
def Stop.Served (x y : Stop) : Prop :=
  y = { x with inject := y.inject, l2Lines := y.l2Lines, l2Dirty := y.l2Dirty, writeBacks := y.writeBacks, dir := y.dir }

theorem Stop.Served.refl (x : Stop) : x.Served x := rfl

theorem Stop.Served.trans {x y z : Stop} (h : x.Served y) (k : y.Served z) : x.Served z := by
  unfold Stop.Served at *
  rw [k, h]

theorem Stop.Served.l2In {x y : Stop} (h : x.Served y) : y.l2In = x.l2In := by rw [h]
theorem Stop.Served.misses {x y : Stop} (h : x.Served y) : y.misses = x.misses := by rw [h]
theorem Stop.Served.missWait {x y : Stop} (h : x.Served y) : y.missWait = x.missWait := by rw [h]

theorem Stop.touch_served (x : Stop) (line : Nat) : x.Served (x.touch line) := rfl

theorem Stop.fill_served (x : Stop) (line : Nat) : x.Served (x.fill line) := by
  unfold Stop.fill
  dsimp only
  split
  · rfl
  · split <;> rfl

/-- What serving a request for a line changes: no jet, no pool, and of memory the line's bytes alone. -/
structure LineServed (s t : State) (line : Nat) : Prop where
  rest : t = { s with tiles := t.tiles, stops := t.stops, dev := { s.dev with poison := t.dev.poison }, mem := t.mem }
  jets : ∀ n i, t.jet n i = s.jet n i
  stop : ∀ q, (s.stop q).Served (t.stop q)
  outside : ∀ b, b < 128 * line ∨ 128 * line + 128 ≤ b → t.mem.read b = s.mem.read b

namespace LineServed

variable {s t u : State} {line : Nat}

theorem refl (s : State) (line : Nat) : LineServed s s line := ⟨rfl, fun _ _ => rfl, fun _ => .refl _, fun _ _ => rfl⟩

theorem trans (h : LineServed s t line) (k : LineServed t u line) : LineServed s u line :=
  ⟨by rw [k.rest, h.rest], fun n i => (k.jets n i).trans (h.jets n i), fun q => (h.stop q).trans (k.stop q), fun b hb => (k.outside b hb).trans (h.outside b hb)⟩

theorem foldl {α : Type} {f : State → α → State} (hf : ∀ s a, LineServed s (f s a) line) (l : List α) (s : State) : LineServed s (l.foldl f s) line := by
  induction l generalizing s with
  | nil => exact .refl s line
  | cons a l ih => exact (hf s a).trans (ih _)

theorem modTile {n : Nat} {f : Tile → Tile} (hf : ∀ x, (f x).jets = x.jets) : LineServed s (s.modTile n f) line := by
  refine ⟨rfl, fun m i => ?_, fun _ => .refl _, fun _ _ => rfl⟩
  by_cases h : m = n
  · rw [State.jet, State.jet, h, State.tile_modTile_same, Tile.jet, hf, Tile.jet]
  · rw [State.jet, State.tile_modTile_ne s f h, State.jet]

theorem modStop {n : Nat} {f : Stop → Stop} (hf : ∀ x : Stop, x.Served (f x)) : LineServed s (s.modStop n f) line := by
  refine ⟨rfl, fun _ _ => rfl, fun q => ?_, fun _ _ => rfl⟩
  by_cases h : q = n
  · rw [h, State.stop_modStop_same]
    exact hf _
  · rw [State.stop_modStop_ne s f h]
    exact .refl _

theorem stashHome (s : State) (l : StashLine) : LineServed s (s.stashHome l) l.pa :=
  ⟨rfl, fun _ _ => rfl, fun _ => .refl _, fun _ hb => Memory.read_writeN_outside _ _ _ _ hb⟩

theorem ownerHome (s : State) (line : Nat) (d : DirEntry) : LineServed s (s.ownerHome line d) line := by
  rw [State.ownerHome]
  split
  · exact .refl s line
  · split
    · exact .refl s line
    next l hl =>
      have hpa : l.pa = line := by
        have h := List.find?_some hl
        simp only [Bool.and_eq_true, beq_iff_eq] at h
        exact h.1
      exact hpa ▸ .stashHome s l

theorem recalled (s : State) (line : Nat) (write : Bool) : LineServed s (s.recall (128 * line) write) line := by
  have hline : 128 * line / 128 = line := by omega
  rw [State.recall_eq, hline]
  split
  · exact .refl s line
  next d _ =>
    split
    · exact ((ownerHome s line d).trans (.foldl (f := fun v n => v.modTile n (Tile.dropCopy line)) (fun _ _ => .modTile fun _ => rfl) _ _)).trans
        (.modStop (f := Stop.undirected line) fun _ => rfl)
    · exact ((ownerHome s line d).trans (.foldl (f := fun v n => v.modTile n (Tile.disown line)) (fun _ _ => .modTile fun _ => rfl) _ _)).trans
        (.modStop (f := Stop.shared line d.holders) fun _ => rfl)

theorem l2Use (s : State) (line k : Nat) (write : Bool) : LineServed s (s.l2Use k write) line := .modStop fun x => by
  dsimp only
  split
  · exact (x.fill_served k).trans rfl
  · exact x.fill_served k

theorem nc (h : LineServed s t line) : t.nc = s.nc := by rw [h.rest]
theorem device (h : LineServed s t line) : t.dev.device = s.dev.device := by rw [h.rest]

end LineServed

theorem linesOf_line (line : Nat) : linesOf (128 * line) 128 = [line] := by
  have h1 : (128 * line + 128 - 1) / 128 - 128 * line / 128 + 1 = 1 := by omega
  have h2 : 128 * line / 128 = line := by omega
  rw [linesOf, h1, h2]
  rfl

theorem State.homeUse_line (s : State) (line : Nat) (write : Bool) : s.homeUse (128 * line) 128 write = (s.recall (128 * line) write).l2Use line write := by
  rw [State.homeUse, linesOf_line, List.foldl_cons, List.foldl_nil]

theorem LineServed.homeUse (s : State) (line : Nat) (write : Bool) : LineServed s (s.homeUse (128 * line) 128 write) line := by
  rw [State.homeUse_line]
  exact (LineServed.recalled s line write).trans (.l2Use _ _ _ _)

theorem State.homeWrite_mem (s : State) (pa n en v : Nat) : (s.homeWrite pa n en v).mem = (s.homeUse pa n true).mem.writeEn pa n en v := rfl

theorem LineServed.homeWrite (s : State) (line en v : Nat) : LineServed s (s.homeWrite (128 * line) 128 en v) line :=
  (LineServed.homeUse s line true).trans ⟨rfl, fun _ _ => rfl, fun _ => .refl _, fun _ hb => Memory.read_writeEn_outside _ _ _ _ _ hb⟩

/-- A write of a line's bytes is performed at its home: the bytes its enables name are written, those they do not name are as they were where no stash held
the line. -/
structure LineWritten (s t : State) (line en data : Nat) : Prop where
  served : LineServed s t line
  written : ∀ b, b < 128 → fld en (2 * b) 2 = 3 → t.mem.read (128 * line + b) = BitVec.ofNat 8 (data / 2 ^ (8 * b))
  left : ∀ b, b < 128 → fld en (2 * b) 2 = 0 → (s.stop (homeOf (128 * line))).dirOf line = none → t.mem.read (128 * line + b) = s.mem.read (128 * line + b)

theorem LineWritten.homeWrite (s : State) (line en v : Nat) : LineWritten s (s.homeWrite (128 * line) 128 en v) line en v := by
  refine ⟨.homeWrite s line en v, fun b hb hen => ?_, fun b hb hen hdir => ?_⟩
  · rw [State.homeWrite_mem]
    exact Memory.read_writeEn_set _ _ _ hb hen
  · have hline : 128 * line / 128 = line := by omega
    have hmem : (s.homeUse (128 * line) 128 true).mem = s.mem := by
      rw [State.homeUse_line, State.recall_eq, hline, hdir]
      rfl
    rw [State.homeWrite_mem, hmem]
    exact Memory.read_writeEn_clear _ _ _ hb hen

theorem LineWritten.then {s t u : State} {line en data : Nat} (h : LineWritten s t line en data) (k : LineServed t u line) (hmem : u.mem = t.mem) :
    LineWritten s u line en data := by
  refine ⟨h.served.trans k, fun b hb hen => ?_, fun b hb hen hdir => ?_⟩
  · rw [hmem]
    exact h.written b hb hen
  · rw [hmem]
    exact h.left b hb hen hdir

/-- A write is served at its home slice. -/
theorem State.serveL2_write (s : State) (h : Nat) {k : Packet} {t0 : Nat} {ids : List Nat} {line en data : Nat} (hk : k.body = .write t0 ids line en data) :
    LineWritten s (s.serveL2 h k) line en data := by
  have hw := LineWritten.homeWrite s line en data
  have hown : LineWritten s (if k.sdev = s.dev.device.toNat ∧ ids.headD 0 < 2 ^ 65 then (s.homeWrite (128 * line) 128 en data).modTile t0 fun x => x.ownDone line en
      else s.homeWrite (128 * line) 128 en data) line en data := by
    split
    · exact hw.then (.modTile fun _ => rfl) rfl
    · exact hw
  rw [State.serveL2, hk]
  exact hown.then (.modStop fun _ => rfl) rfl

/-- A read by the home for a unit of this device gives the unit the bytes; where no stash holds a line, memory is as it was. -/
theorem UnitReads.homeRead (s : State) (pa n : Nat) : UnitReads s (s.homeRead pa n).2 :=
  .foldl (f := fun (s : State) l => (s.recall (128 * l) false).l2Use l false) (fun s l => (UnitReads.recalls s (128 * l) false).trans (.l2Use _ l false)) _ s

end Sys2Proof.Machine
end

section
/-! SUPPORT. Requests at an L2 slice, and the lines that come for them (R221, R222). -/
namespace Sys2Proof.Machine

/-- No miss of the line is on its way, and none waits for a place. -/
def Stop.Free (x : Stop) (line : Nat) : Prop := (∀ m ∈ x.misses, m.1 ≠ line) ∧ ∀ m ∈ x.missWait, m.line ≠ line

theorem Stop.Free.misses {x : Stop} {line : Nat} (h : x.Free line) : (x.misses.any fun m => m.1 == line) = false := by
  rw [List.any_eq_false]
  intro m hm
  rw [beq_iff_eq]
  exact h.1 m hm

theorem Stop.Free.missWait {x : Stop} {line : Nat} (h : x.Free line) : (x.missWait.any fun m => m.line == line) = false := by
  rw [List.any_eq_false]
  intro m hm
  rw [beq_iff_eq]
  exact h.2 m hm

/-- The oldest request of a slice is taken from its queue. -/
def State.l2Taken (s : State) (r : List Packet) : State := s.modStop s.focus.a fun x => { x with l2In := r }

/-- A request for a line that the slice holds is served. -/
theorem execL2Request_hit {s : State} {k : Packet} {r : List Packet} (hin : (s.stop s.focus.a).l2In = k :: r) (hl : k.line ∈ (s.stop s.focus.a).l2Lines)
    (hf : (s.stop s.focus.a).Free k.line) :
    exec .l2Request s = .next (((s.l2Taken r).modStop s.focus.a fun x => x.touch k.line).serveL2 s.focus.a k) := by
  have hstop : (s.l2Taken r).stop s.focus.a = { s.stop s.focus.a with l2In := r } := State.stop_modStop_same s _ _
  have hm := hf.misses
  have hw := hf.missWait
  have hc : (s.stop s.focus.a).l2Lines.contains k.line = true := by rw [List.contains_iff_mem]; exact hl
  change execL2Request s = _
  unfold execL2Request
  simp only [hin]
  change (if ((s.l2Taken r).stop s.focus.a).misses.any (fun m => m.1 == k.line) = true then _
    else if ((s.l2Taken r).stop s.focus.a).missWait.any (fun m => m.line == k.line) = true then _
    else if ((s.l2Taken r).stop s.focus.a).l2Lines.contains k.line = true then _ else _) = _
  rw [hstop]
  simp only [hm, hw, hc, Bool.false_eq_true, if_false, if_true]
  rfl

/-- A request for a line that the slice lacks takes a miss entry, and its line comes 272 tc later. -/
theorem l2Request_miss {s : State} {k : Packet} {r : List Packet} (hin : (s.stop s.focus.a).l2In = k :: r) (hl : k.line ∉ (s.stop s.focus.a).l2Lines)
    (hf : (s.stop s.focus.a).Free k.line) (hroom : (s.stop s.focus.a).misses.length < 64) :
    ∃ t, exec .l2Request s = .next t ∧ t.mem = s.mem ∧ (t.stop s.focus.a).misses = (s.stop s.focus.a).misses ++ [(k.line, [k])] ∧ (t.stop s.focus.a).l2In = r ∧
      (s.nc + 2 * 272, ⟨s.focus.a, k.line, stackOf (128 * k.line), 0, 0⟩, Instr.l2Fill) ∈ t.agenda := by
  have hstop : (s.l2Taken r).stop s.focus.a = { s.stop s.focus.a with l2In := r } := State.stop_modStop_same s _ _
  have hm := hf.misses
  have hw := hf.missWait
  have hc : (s.stop s.focus.a).l2Lines.contains k.line = false := by
    rw [← Bool.not_eq_true, List.contains_iff_mem]
    exact hl
  have hexec : exec .l2Request s = (.next (((s.l2Taken r).modStop s.focus.a fun x => { x with misses := x.misses ++ [(k.line, [k])] }).after 272 .l2Fill
      ⟨s.focus.a, k.line, stackOf (128 * k.line), 0, 0⟩) : Out) := by
    change execL2Request s = _
    unfold execL2Request
    simp only [hin]
    change (if ((s.l2Taken r).stop s.focus.a).misses.any (fun m => m.1 == k.line) = true then _
      else if ((s.l2Taken r).stop s.focus.a).missWait.any (fun m => m.line == k.line) = true then _
      else if ((s.l2Taken r).stop s.focus.a).l2Lines.contains k.line = true then _
      else if ((s.l2Taken r).stop s.focus.a).misses.length < 64 then _ else _) = _
    rw [hstop]
    simp only [hm, hw, hc, hroom, Bool.false_eq_true, if_false, if_true]
    rfl
  have hafter : ((((s.l2Taken r).modStop s.focus.a fun x => { x with misses := x.misses ++ [(k.line, [k])] }).after 272 .l2Fill
      ⟨s.focus.a, k.line, stackOf (128 * k.line), 0, 0⟩).stop s.focus.a) = { s.stop s.focus.a with l2In := r, misses := (s.stop s.focus.a).misses ++ [(k.line, [k])] } := by
    change ((s.l2Taken r).modStop s.focus.a fun x => { x with misses := x.misses ++ [(k.line, [k])] }).stop s.focus.a = _
    rw [State.stop_modStop_same, hstop]
  refine ⟨_, hexec, rfl, ?_, ?_, agendaInsert_mem _ _ _ _⟩ <;> rw [hafter]

/-- The line of the oldest request is used. -/
def State.l2Touched (s : State) (r : List Packet) (line : Nat) : State := (s.l2Taken r).modStop s.focus.a fun x => x.touch line

theorem State.l2Touched_l2In (s : State) (r : List Packet) (line : Nat) : ((s.l2Touched r line).stop s.focus.a).l2In = r := by
  rw [State.l2Touched, State.stop_modStop_same, State.l2Taken, State.stop_modStop_same]
  rfl

theorem State.l2Touched_dir (s : State) (r : List Packet) (line q : Nat) : ((s.l2Touched r line).stop q).dir = (s.stop q).dir :=
  (State.modStop_keeps Stop.dir (f := fun x => x.touch line) (fun _ => rfl) _ _ _).trans (State.modStop_keeps Stop.dir (f := fun x => { x with l2In := r }) (fun _ => rfl) _ _ _)

/-- A write of a line that the slice holds is performed. -/
theorem l2Request_write {s : State} {k : Packet} {r : List Packet} {t0 : Nat} {ids : List Nat} {line en data : Nat} (hin : (s.stop s.focus.a).l2In = k :: r)
    (hk : k.body = .write t0 ids line en data) (hl : line ∈ (s.stop s.focus.a).l2Lines) (hf : (s.stop s.focus.a).Free line) :
    ∃ t, exec .l2Request s = .next t ∧ LineWritten (s.l2Touched r line) t line en data := by
  have hline : k.line = line := by rw [Packet.line, hk]
  have hexec := execL2Request_hit hin (hline.symm ▸ hl) (hline.symm ▸ hf)
  rw [hline] at hexec
  exact ⟨_, hexec, State.serveL2_write (s.l2Touched r line) s.focus.a hk⟩

/-- A unit's read of a line that the slice holds is answered with its bytes. -/
theorem l2Request_read {s : State} {k : Packet} {r : List Packet} {t0 id ix a nb : Nat} (hin : (s.stop s.focus.a).l2In = k :: r)
    (hk : k.body = .read t0 id ix a nb) (hdev : k.sdev = s.dev.device.toNat) (hid : 2 ^ 66 ≤ id) (hacc : (s.tile t0).access id = none)
    (hl : a / 128 ∈ (s.stop s.focus.a).l2Lines) (hf : (s.stop s.focus.a).Free (a / 128)) (hbad : s.poisoned a nb = false) (hcalm : ∀ q, (s.stop q).dir = []) :
    ∃ t, exec .l2Request s = .next t ∧ t.mem = s.mem ∧ (∀ m i, t.jet m i = s.jet m i) ∧
      ⟨k.sdev, t0, .tile, s.dev.device.toNat, s.focus.a, payFlits nb, .readResp t0 id ix (s.mem.readN a nb), false, s.nc + 27, .l2⟩ ∈ (t.stop s.focus.a).inject := by
  have hline : k.line = a / 128 := by rw [Packet.line, hk]
  have hexec := execL2Request_hit hin (hline.symm ▸ hl) (hline.symm ▸ hf)
  rw [hline] at hexec
  change _ = (.next ((s.l2Touched r (a / 128)).serveL2 s.focus.a k) : Out) at hexec
  have hread := UnitReads.homeRead (s.l2Touched r (a / 128)) a nb
  have hmem : ((s.l2Touched r (a / 128)).homeRead a nb).2.mem = s.mem :=
    (hread.2 fun q => (s.l2Touched_dir r (a / 128) q).trans (hcalm q)).1
  have hval : ((s.l2Touched r (a / 128)).homeRead a nb).1 = s.mem.readN a nb := congrArg (·.readN a nb) hmem
  have hserve : (s.l2Touched r (a / 128)).serveL2 s.focus.a k =
      ((s.l2Touched r (a / 128)).homeRead a nb).2.answer .l2 s.focus.a k.sdev t0 id ix 27 nb (s.mem.readN a nb) 0 false := by
    have hid' : decide (id < 2 ^ 66) = false := decide_eq_false (Nat.not_lt.mpr hid)
    have hd : k.sdev = (s.l2Touched r (a / 128)).dev.device.toNat := hdev
    have ha : ((s.l2Touched r (a / 128)).tile t0).access id = none := hacc
    have hb : (s.l2Touched r (a / 128)).poisoned a nb = false := hbad
    rw [State.serveL2, hk]
    simp only [if_pos hd, ha, hid', hb, Bool.and_false, Bool.false_and, Bool.false_eq_true, if_false]
    rw [hval]
  have hd : k.sdev = ((s.l2Touched r (a / 128)).homeRead a nb).2.dev.device.toNat := by
    rw [hread.1.device]
    exact hdev
  have hn : ((s.l2Touched r (a / 128)).homeRead a nb).2.nc = s.nc := hread.1.nc
  have hjets : ∀ m i, ((s.l2Touched r (a / 128)).homeRead a nb).2.jet m i = s.jet m i := fun m i => by
    rw [State.jet, hread.1.tile m]
    rfl
  rw [hserve, State.answer, if_pos hd] at hexec
  generalize ((s.l2Touched r (a / 128)).homeRead a nb).2 = u at hexec hmem hd hn hjets
  refine ⟨_, hexec, hmem, fun m i => ?_, ?_⟩
  · rw [← hjets]
    exact (LineServed.modTile (s := u) (line := 0) (n := t0) (f := fun x => x.modAcc id fun a => { a with flags := a.flags ||| BitVec.ofNat 5 0 }) fun _ => rfl).jets m i
  · rw [State.answerBy, State.stop_modStop_same]
    refine List.mem_append_right _ (List.mem_singleton.mpr ?_)
    rw [State.packet, ← hdev]
    change _ = (⟨_, _, _, u.dev.device.toNat, _, _, _, _, u.nc + 27, _⟩ : Packet)
    rw [← hd, hn]

/-! ### The line comes -/

/-- The line is in its slice, and its miss entry is free. -/
def State.l2Filled (s : State) : State := s.modStop s.focus.a fun x =>
  { x.fill s.focus.b with misses := x.misses.filter fun m => m.1 != s.focus.b, writeBacks := x.writeBacks.dropLast }

theorem execL2Fill_eq (s : State) : exec .l2Fill s =
    .next ((((((s.stop s.focus.a).misses.find? fun m => m.1 == s.focus.b).map (·.2)).getD []).foldl (fun (s' : State) k => s'.serveL2 s.focus.a k) s.l2Filled).nextMiss s.focus.a) := rfl

theorem State.l2Filled_stop (s : State) : s.l2Filled.stop s.focus.a =
    { (s.stop s.focus.a).fill s.focus.b with misses := (s.stop s.focus.a).misses.filter fun m => m.1 != s.focus.b, writeBacks := (s.stop s.focus.a).writeBacks.dropLast } :=
  State.stop_modStop_same s _ _

theorem State.l2Filled_missWait (s : State) : (s.l2Filled.stop s.focus.a).missWait = (s.stop s.focus.a).missWait := by
  rw [State.l2Filled_stop]
  exact ((s.stop s.focus.a).fill_served s.focus.b).missWait

theorem State.nextMiss_none {s : State} {h : Nat} (hw : (s.stop h).missWait = []) : s.nextMiss h = s := by
  rw [State.nextMiss, hw]

/-- A filled line is there where its set has room. -/
theorem Stop.mem_fill {x : Stop} {line : Nat} (h : (x.l2Lines.filter fun l => l2Set l == l2Set line && l != line).length < 12) : line ∈ (x.fill line).l2Lines := by
  rw [Stop.fill, if_pos h]
  exact List.mem_cons_self

/-- A fill brings no line but its own. -/
theorem Stop.mem_of_mem_fill {x : Stop} {line l : Nat} (h : l ∈ (x.fill line).l2Lines) : l = line ∨ l ∈ x.l2Lines := by
  have young (p : Nat → Bool) (h : l ∈ line :: x.l2Lines.filter p) : l = line ∨ l ∈ x.l2Lines :=
    (List.mem_cons.mp h).imp_right List.mem_of_mem_filter
  unfold Stop.fill at h
  dsimp only at h
  split at h
  · exact young _ h
  · split at h
    · exact .inr h
    · exact young _ h

/-- A line that no request waits for comes into its slice. -/
theorem l2Fill_alone {s : State} (hj : ((s.stop s.focus.a).misses.find? fun m => m.1 == s.focus.b) = none) (hw : (s.stop s.focus.a).missWait = []) :
    ∃ t, exec .l2Fill s = .next t ∧ Kept s t ∧ (t.stop s.focus.a).l2In = (s.stop s.focus.a).l2In ∧
      (((s.stop s.focus.a).l2Lines.filter fun l => l2Set l == l2Set s.focus.b && l != s.focus.b).length < 12 → s.focus.b ∈ (t.stop s.focus.a).l2Lines) := by
  have hexec := execL2Fill_eq s
  rw [hj] at hexec
  change _ = (.next (s.l2Filled.nextMiss s.focus.a) : Out) at hexec
  rw [State.nextMiss_none (s.l2Filled_missWait.trans hw)] at hexec
  refine ⟨_, hexec, .modStop _ _ _, ?_, fun hroom => ?_⟩
  · rw [State.l2Filled_stop]
    exact ((s.stop s.focus.a).fill_served s.focus.b).l2In
  · rw [State.l2Filled_stop]
    exact Stop.mem_fill hroom

/-- The write that waited for its line is performed as it comes. -/
theorem l2Fill_write {s : State} {k : Packet} {t0 : Nat} {ids : List Nat} {en data : Nat}
    (hj : ((s.stop s.focus.a).misses.find? fun m => m.1 == s.focus.b) = some (s.focus.b, [k])) (hk : k.body = .write t0 ids s.focus.b en data)
    (hw : (s.stop s.focus.a).missWait = []) :
    ∃ t, exec .l2Fill s = .next t ∧ (∀ m ∈ (t.stop s.focus.a).misses, m.1 ≠ s.focus.b) ∧ LineWritten s.l2Filled t s.focus.b en data := by
  have hserve := State.serveL2_write s.l2Filled s.focus.a hk
  have hexec := execL2Fill_eq s
  rw [hj] at hexec
  change _ = (.next ((s.l2Filled.serveL2 s.focus.a k).nextMiss s.focus.a) : Out) at hexec
  rw [State.nextMiss_none ((hserve.served.stop _).missWait.trans (s.l2Filled_missWait.trans hw))] at hexec
  refine ⟨_, hexec, fun m hm => ?_, hserve⟩
  rw [(hserve.served.stop _).misses, State.l2Filled_stop] at hm
  exact bne_iff_ne.mp (List.mem_filter.mp hm).2

/-- Requests take a miss entry for their line. -/
def State.missTaken (s : State) (h line : Nat) (l : List Packet) : State :=
  (s.modStop h fun x => { x with missWait := x.missWait.filter fun m => m.line != line }).modStop h fun x => { x with misses := x.misses ++ [(line, l)] }

theorem State.missTaken_stop (s : State) (h line : Nat) (l : List Packet) : (s.missTaken h line l).stop h =
    { s.stop h with missWait := (s.stop h).missWait.filter fun m => m.line != line, misses := (s.stop h).misses ++ [(line, l)] } := by
  rw [State.missTaken, State.stop_modStop_same, State.stop_modStop_same]

/-- The free miss entry goes to the oldest request that waits for one, with those for its line. -/
theorem l2Fill_next {s : State} {k : Packet} {r : List Packet} (hj : ((s.stop s.focus.a).misses.find? fun m => m.1 == s.focus.b) = none)
    (hw : (s.stop s.focus.a).missWait = k :: r) (hne : k.line ≠ s.focus.b) (hl : k.line ∉ (s.stop s.focus.a).l2Lines) :
    ∃ t, exec .l2Fill s = .next t ∧ Kept s t ∧
      (t.stop s.focus.a).misses = (s.stop s.focus.a).misses ++ [(k.line, (k :: r).filter fun m => m.line == k.line)] ∧
      (t.stop s.focus.a).missWait = (k :: r).filter (fun m => m.line != k.line) ∧
      (s.nc + 2 * 272, ⟨s.focus.a, k.line, stackOf (128 * k.line), 0, 0⟩, Instr.l2Fill) ∈ t.agenda := by
  have hwait : (s.l2Filled.stop s.focus.a).missWait = k :: r := s.l2Filled_missWait.trans hw
  have habsent : (s.l2Filled.stop s.focus.a).l2Lines.contains k.line = false := by
    rw [← Bool.not_eq_true, List.contains_iff_mem, State.l2Filled_stop]
    intro h
    exact (Stop.mem_of_mem_fill h).elim hne hl
  have hmiss : (s.l2Filled.stop s.focus.a).misses = (s.stop s.focus.a).misses := by
    rw [State.l2Filled_stop]
    refine List.filter_eq_self.mpr fun m hm => ?_
    have := List.find?_eq_none.mp hj m hm
    simpa using this
  have hexec := execL2Fill_eq s
  rw [hj] at hexec
  change _ = (.next (s.l2Filled.nextMiss s.focus.a) : Out) at hexec
  rw [State.nextMiss, hwait] at hexec
  simp only [habsent, Bool.false_eq_true, if_false] at hexec
  change _ = (.next ((s.l2Filled.missTaken s.focus.a k.line ((k :: r).filter fun m => m.line == k.line)).after 272 .l2Fill
    ⟨s.focus.a, k.line, stackOf (128 * k.line), 0, 0⟩) : Out) at hexec
  have hstop := s.l2Filled.missTaken_stop s.focus.a k.line ((k :: r).filter fun m => m.line == k.line)
  refine ⟨_, hexec, ((Kept.modStop _ _ _).trans ((Kept.modStop _ _ _).trans (.modStop _ _ _))).trans (.at_ _ _ _ _), ?_, ?_, agendaInsert_mem _ _ _ _⟩
  · exact (congrArg Stop.misses hstop).trans (congrArg (· ++ _) hmiss)
  · exact (congrArg Stop.missWait hstop).trans (congrArg (List.filter _) hwait)

end Sys2Proof.Machine
end

section
/-! SUPPORT. What the sending of the parts that may leave (R216, R262) keeps of the accesses, the L1 and the writes that wait for their acknowledgement:
a part that is performed stays performed, the L1 takes no new line, and no write that is on its way is forgotten. -/
namespace Sys2Proof.Machine

/-- A part that has gone on: at its place, and performed where it was. -/
structure Part.Further (p q : Part) : Prop where
  path : q.path = p.path
  addr : q.addr = p.addr
  performed : p.performed = true → q.performed = true
  acked : p.acked = true → q.acked = true

theorem Part.Further.refl (p : Part) : p.Further p := ⟨rfl, rfl, id, id⟩
theorem Part.Further.trans {p q r : Part} (h : p.Further q) (k : q.Further r) : p.Further r :=
  ⟨k.path.trans h.path, k.addr.trans h.addr, k.performed ∘ h.performed, k.acked ∘ h.acked⟩

/-- A part that is sent. -/
def Part.asSent (p : Part) : Part := { p with sent := true }
theorem Part.asSent_further (p : Part) : p.Further p.asSent := ⟨rfl, rfl, id, id⟩

/-- A part whose line, where it is on its way, will not join the L1. -/
def Part.staleIf (c : Part → Bool) (p : Part) : Part := if p.path == .cached && p.sent && !p.acked && c p then { p with stale := true } else p
theorem Part.staleIf_further (c : Part → Bool) (p : Part) : p.Further (p.staleIf c) := by
  unfold Part.staleIf
  split
  · exact ⟨rfl, rfl, id, id⟩
  · exact .refl p

/-- An access of which the parts have gone on. -/
structure Access.Further (a b : Access) : Prop where
  id : b.id = a.id
  stage : b.stage = a.stage
  parts : List.Forall₂ Part.Further a.parts b.parts

theorem partsFurther_refl (l : List Part) : List.Forall₂ Part.Further l l := List.forall₂_same.mpr fun p _ => .refl p

theorem partsFurther_map {f : Part → Part} (hf : ∀ p : Part, p.Further (f p)) (l : List Part) : List.Forall₂ Part.Further l (l.map f) :=
  List.forall₂_map_right_iff.mpr (List.forall₂_same.mpr fun p _ => hf p)

theorem partsFurther_modify {f : Part → Part} (hf : ∀ p : Part, p.Further (f p)) (l : List Part) (ix : Nat) : List.Forall₂ Part.Further l (l.modify ix f) := by
  induction l generalizing ix with
  | nil => cases ix <;> exact .nil
  | cons p l ih =>
    cases ix with
    | zero => exact .cons (hf p) (partsFurther_refl l)
    | succ ix => exact .cons (.refl p) (ih ix)

theorem partsFurther_trans {l m n : List Part} (h : List.Forall₂ Part.Further l m) (k : List.Forall₂ Part.Further m n) : List.Forall₂ Part.Further l n := by
  induction h generalizing n with
  | nil => exact k
  | cons hp _ ih =>
    cases k with
    | cons kp kl => exact .cons (hp.trans kp) (ih kl)

theorem Access.Further.refl (a : Access) : a.Further a := ⟨rfl, rfl, partsFurther_refl _⟩
theorem Access.Further.trans {a b c : Access} (h : a.Further b) (k : b.Further c) : a.Further c :=
  ⟨k.id.trans h.id, k.stage.trans h.stage, partsFurther_trans h.parts k.parts⟩

/-- A write of a line is on its way. -/
def Tile.awaits (line : Nat) (ids : List Nat) (x : Tile) : Tile := { x with unacked := x.unacked ++ [(line, ids)] }

/-- A tile's accesses have gone on, its L1 has no line it had not, and the writes on their way are on their way still. -/
structure Tile.Further (x y : Tile) : Prop where
  acc : ∀ b ∈ y.acc, ∃ a ∈ x.acc, a.Further b
  l1 : ∀ l ∈ y.l1, ∃ m ∈ x.l1, m.line = l.line ∧ m.free = l.free
  unacked : ∀ w ∈ x.unacked, w ∈ y.unacked

namespace Tile.Further

variable {x y z : Tile}

theorem refl (x : Tile) : x.Further x := ⟨fun b hb => ⟨b, hb, .refl b⟩, fun l hl => ⟨l, hl, rfl, rfl⟩, fun _ h => h⟩

theorem trans (h : x.Further y) (k : y.Further z) : x.Further z := by
  refine ⟨fun c hc => ?_, fun l hl => ?_, fun w hw => k.unacked w (h.unacked w hw)⟩
  · obtain ⟨b, hb, hbc⟩ := k.acc c hc
    obtain ⟨a, ha, hab⟩ := h.acc b hb
    exact ⟨a, ha, hab.trans hbc⟩
  · obtain ⟨m, hm, hline, hfree⟩ := k.l1 l hl
    obtain ⟨n, hn, hline', hfree'⟩ := h.l1 m hm
    exact ⟨n, hn, hline'.trans hline, hfree'.trans hfree⟩

/-- Every access changes by `f`. -/
theorem mapAcc {f : Access → Access} (hf : ∀ a : Access, a.Further (f a)) (hacc : y.acc = x.acc.map f) (hl1 : y.l1 = x.l1) (hun : y.unacked = x.unacked) : x.Further y := by
  refine ⟨fun b hb => ?_, fun l hl => ⟨l, hl1 ▸ hl, rfl, rfl⟩, fun w hw => hun ▸ hw⟩
  rw [hacc, List.mem_map] at hb
  obtain ⟨a, ha, rfl⟩ := hb
  exact ⟨a, ha, hf a⟩

theorem modAcc (x : Tile) (id : Nat) {f : Access → Access} (hf : ∀ a : Access, a.Further (f a)) : x.Further (x.modAcc id f) :=
  mapAcc (fun a => by
    split
    · exact hf a
    · exact .refl a) rfl rfl rfl

theorem stale (x : Tile) (c : Part → Bool) : x.Further (x.stale c) :=
  mapAcc (f := fun a => { a with parts := a.parts.map (Part.staleIf c) }) (fun a => ⟨rfl, rfl, partsFurther_map (Part.staleIf_further c) a.parts⟩) rfl rfl rfl

/-- The L1 alone changes, and every line is one it had. -/
theorem ofL1 (h : y = { x with l1 := y.l1, l1At := y.l1At }) (hl : ∀ l ∈ y.l1, ∃ m ∈ x.l1, m.line = l.line ∧ m.free = l.free) : x.Further y := by
  refine ⟨fun b hb => ⟨b, ?_, .refl b⟩, hl, fun w hw => ?_⟩
  · rw [h] at hb
    exact hb
  · rw [h]
    exact hw

theorem keepL1 (x : Tile) (l : List L1Line) (h : ∀ m ∈ l, m ∈ x.l1) : x.Further { x with l1 := l } := ofL1 rfl fun m hm => ⟨m, h m hm, rfl, rfl⟩

theorem l1Drop (x : Tile) (line : Nat) : x.Further (x.l1Drop line) :=
  (stale x fun p => p.addr / 128 == line).trans (keepL1 _ (x.l1.filter fun l => l.line != line) fun _ h => (List.mem_filter.mp h).1)

theorem l1Flash (x : Tile) (all : Bool) : x.Further (x.l1Flash all) :=
  (stale x fun p => all || !p.free).trans (keepL1 _ (if all then [] else x.l1.filter (·.free)) fun m h => by
    split at h
    · nomatch h
    · exact (List.mem_filter.mp h).1)

theorem l1Start (x : Tile) (tc : Nat) (a : Access) : x.Further (x.l1Start tc a) := by
  unfold Tile.l1Start
  split
  · exact .refl x
  · exact ofL1 rfl fun l hl => ⟨l, hl, rfl, rfl⟩

theorem l1Use (x : Tile) {l : L1Line} (h : l ∈ x.l1) (keep : Bool) : x.Further (x.l1Use l keep) := by
  refine ofL1 rfl fun m hm => ?_
  rcases List.mem_cons.mp hm with rfl | hm
  · exact ⟨l, h, rfl, rfl⟩
  · exact ⟨m, (List.mem_filter.mp hm).1, rfl, rfl⟩

theorem seen (x : Tile) (a : Access) (ix : Nat) : x.Further (x.seen a ix) := by
  have first : x.Further (if a.acq && a.sc != .tile then x.l1Flash false else x) := by
    split
    · exact l1Flash x false
    · exact .refl x
  unfold Tile.seen
  dsimp only
  split
  · split
    · exact first.trans (l1Drop _ _)
    · exact first
  · exact first

/-- A tile whose accesses, L1 and writes on their way are as they were. -/
theorem same (hacc : y.acc = x.acc) (hl1 : y.l1 = x.l1) (hun : y.unacked = x.unacked) : x.Further y :=
  ⟨fun b hb => ⟨b, hacc ▸ hb, .refl b⟩, fun l hl => ⟨l, hl1 ▸ hl, rfl, rfl⟩, fun _ h => hun ▸ h⟩

theorem wcStore (x : Tile) (tc id addr nb en data : Nat) : x.Further (x.wcStore tc id addr nb en data) := by
  have h : (x.stale fun p => p.addr / 128 == addr / 128).Further { x.stale fun p => p.addr / 128 == addr / 128 with
      l1 := x.l1.map fun l => if l.line = addr / 128 then
        { l with data := mergeNib l.data (data * 2 ^ (8 * (addr % 128))) (en * 2 ^ (2 * (addr % 128))) 256, bad := badLeft l.bad (en * 2 ^ (2 * (addr % 128))) } else l } := by
    refine ofL1 rfl fun l hl => ?_
    obtain ⟨m, hm, rfl⟩ := List.mem_map.mp hl
    refine ⟨m, hm, ?_⟩
    split <;> exact ⟨rfl, rfl⟩
  have hall := (stale x fun p => p.addr / 128 == addr / 128).trans h
  unfold Tile.wcStore
  dsimp only
  split
  · exact hall.trans (same rfl rfl rfl)
  · exact hall.trans (same rfl rfl rfl)

theorem awaits (line : Nat) (ids : List Nat) (x : Tile) : x.Further (x.awaits line ids) :=
  ⟨fun b hb => ⟨b, hb, .refl b⟩, fun l hl => ⟨l, hl, rfl, rfl⟩, fun _ h => List.mem_append_left _ h⟩

theorem sweep (x : Tile) : x.Further x.sweep :=
  ⟨fun b hb => ⟨b, (List.mem_filter.mp hb).1, .refl b⟩, fun l hl => ⟨l, hl, rfl, rfl⟩, fun _ h => h⟩

theorem coverWc (x : Tile) : x.Further x.coverWc := same rfl rfl rfl

end Tile.Further

/-- The accesses of tile `n` have gone on. -/
def AccFurther (n : Nat) (s t : State) : Prop := (s.tile n).Further (t.tile n)

namespace AccFurther

variable {n : Nat} {s t u : State}

theorem refl (n : Nat) (s : State) : AccFurther n s s := Tile.Further.refl _
theorem trans (h : AccFurther n s t) (k : AccFurther n t u) : AccFurther n s u := Tile.Further.trans h k

theorem foldl {α : Type} {f : State → α → State} (hf : ∀ s a, AccFurther n s (f s a)) (l : List α) (s : State) : AccFurther n s (l.foldl f s) := by
  induction l generalizing s with
  | nil => exact .refl n s
  | cons a l ih => exact (hf s a).trans (ih _)

theorem modTile {f : Tile → Tile} (hf : (s.tile n).Further (f (s.tile n))) : AccFurther n s (s.modTile n f) := by
  rw [AccFurther, State.tile_modTile_same]
  exact hf

theorem of_tiles (h : t.tiles = s.tiles) : AccFurther n s t := by
  rw [AccFurther, State.tile, State.tile, h]
  exact Tile.Further.refl _

theorem modPart {f : Part → Part} (hf : ∀ p : Part, p.Further (f p)) (id ix : Nat) (s : State) : AccFurther n s (s.modPart n id ix f) :=
  .modTile (Tile.Further.modAcc _ id fun a => ⟨rfl, rfl, partsFurther_modify hf a.parts ix⟩)

theorem modAcc {f : Access → Access} (hf : ∀ a : Access, a.Further (f a)) (id : Nat) (s : State) : AccFurther n s (s.modAcc n id f) :=
  .modTile (Tile.Further.modAcc _ id hf)

theorem cause (id : Nat) (b : Bool) (s : State) : AccFurther n s (s.modAcc n id fun a => if b then { a with cause := 8 } else a) :=
  .modAcc (fun a => by
    split
    · exact ⟨rfl, rfl, partsFurther_refl _⟩
    · exact .refl a) id s

theorem markPerformed (id ix : Nat) (s : State) : AccFurther n s (s.markPerformed n id ix) := by
  have h : AccFurther n s (s.modPart n id ix fun p => { p with performed := true }) := .modPart (f := fun p => { p with performed := true }) (fun _ => ⟨rfl, rfl, fun _ => rfl, fun h => h⟩) id ix s
  unfold State.markPerformed
  dsimp only
  split
  · exact h
  · exact h.trans (.modTile (Tile.Further.seen _ _ ix))

theorem markStored (id ix : Nat) (s : State) : AccFurther n s (s.markStored n id ix) :=
  .modPart (f := fun p => { p with performed := true, acked := true }) (fun _ => ⟨rfl, rfl, fun _ => rfl, fun _ => rfl⟩) id ix s

/-- A part is sent. -/
theorem sent (id ix : Nat) (s : State) : AccFurther n s (s.modPart n id ix fun p => { p with sent := true }) :=
  .modPart (f := Part.asSent) Part.asSent_further id ix s

theorem injectTo (dev src dst : Nat) (port : Endpoint) (fl d : Nat) (b : Pkt) (s : State) : AccFurther n s (s.injectTo dev src dst port fl d b) := .of_tiles rfl
theorem inject (src dst : Nat) (port : Endpoint) (fl d : Nat) (b : Pkt) (s : State) : AccFurther n s (s.inject src dst port fl d b) := .of_tiles rfl
theorem returns (id ix d v : Nat) (s : State) : AccFurther n s (s.returns n id ix d v) := .of_tiles rfl

/-- A part that is answered within the tile. -/
theorem answered {f : Part → Part} (hf : ∀ p : Part, p.Further (f p)) (id ix d v : Nat) (s : State) :
    AccFurther n s (((s.modPart n id ix f).markPerformed n id ix).returns n id ix d v) :=
  ((AccFurther.modPart hf id ix s).trans (.markPerformed id ix _)).trans (.returns id ix d v _)

theorem sendPool (a : Access) (ix : Nat) (p : Part) (s : State) : AccFurther n s (s.sendPool n a ix p) := by
  unfold State.sendPool
  dsimp only
  split
  · exact (AccFurther.sent a.id ix s).trans (.modTile (.same rfl rfl rfl))
  · exact (AccFurther.sent a.id ix s).trans (.injectTo _ _ _ _ _ _ _ _)

/-- A read of a line that the L1 has. -/
theorem l1Hit (a : Access) {l : L1Line} (h : l ∈ (s.tile n).l1) (tc : Nat) (keep : Bool) : AccFurther n s (s.modTile n fun x => (x.l1Start tc a).l1Use l keep) :=
  .modTile ((Tile.Further.l1Start _ tc a).trans (Tile.Further.l1Use _ (by
    unfold Tile.l1Start
    split <;> exact h) _))

theorem sendCached (a : Access) (ix : Nat) (p : Part) (s : State) : AccFurther n s (s.sendCached n a ix p) := by
  have start : AccFurther n s (s.modTile n fun x => x.l1Start s.tc a) := .modTile (Tile.Further.l1Start _ s.tc a)
  have read := start.trans (.modPart (f := fun p' => { p' with sent := true, own := (s.tile n).buffered (p.addr / 128) })
    (fun _ => ⟨rfl, rfl, fun h => h, fun h => h⟩) a.id ix _)
  have known := AccFurther.answered (n := n) (f := fun p => { p with sent := true, stale := true }) (fun _ => ⟨rfl, rfl, fun h => h, fun h => h⟩) a.id ix
  unfold State.sendCached
  dsimp only
  split
  · exact .refl n s
  · split
    · exact (AccFurther.sent a.id ix s).trans (.modTile (Tile.Further.wcStore _ _ _ _ _ _ _))
    · split
      next l hl =>
        have hmem : l ∈ (s.tile n).l1 := by
          split at hl
          · nomatch hl
          · exact List.mem_of_find?_eq_some hl
        exact ((AccFurther.l1Hit a hmem _ _).trans (.cause a.id _ _)).trans (known _ _ _)
      next =>
        split
        · split
          · exact start.trans (known _ _ _)
          · exact read.trans (.injectTo _ _ _ _ _ _ _ _)
        · exact read.trans (.injectTo _ _ _ _ _ _ _ _)

theorem sendBypass (a : Access) (ix : Nat) (p : Part) (s : State) : AccFurther n s (s.sendBypass n a ix p) := by
  have h : AccFurther n s ((s.modPart n a.id ix fun p => { p with sent := true }).modTile n fun x => x.l1Drop (p.addr / 128)) :=
    (AccFurther.sent a.id ix s).trans (.modTile (Tile.Further.l1Drop _ _))
  unfold State.sendBypass
  dsimp only
  split
  · exact .refl n s
  · split
    · exact h.trans (.injectTo _ _ _ _ _ _ _ _)
    · split
      · exact (h.trans (.modTile (f := Tile.awaits (p.addr / 128) [a.id]) (Tile.Further.awaits _ _ _))).trans (.injectTo _ _ _ _ _ _ _ _)
      · exact h.trans (.injectTo _ _ _ _ _ _ _ _)

theorem sendStash (a : Access) (ix : Nat) (p : Part) (s : State) : AccFurther n s (s.sendStash n a ix p) := by
  have drop : AccFurther n s (s.modTile n fun x => x.l1Drop (p.addr / 128)) := .modTile (Tile.Further.l1Drop _ _)
  unfold State.sendStash
  dsimp only
  split
  · exact .refl n s
  · generalize (s.modTile n fun x => x.l1Drop (p.addr / 128)) = u at drop ⊢
    split
    next l hl =>
      have used : AccFurther n u (u.modTile n fun x => { x with stash := x.keepLine l (a.hint == .keep) :: x.stash.filter fun m => m.va != l.va }) :=
        .modTile (.same rfl rfl rfl)
      split
      · refine AccFurther.trans ?_ (.answered (f := Part.asSent) Part.asSent_further a.id ix _ _ _)
        split
        · exact (drop.trans used).trans (.modAcc (f := fun b => { b with cause := 8 }) (fun b => ⟨rfl, rfl, partsFurther_refl _⟩) a.id _)
        · exact drop.trans used
      · split
        · exact (((drop.trans used).trans (.sent a.id ix _)).trans (.modTile (.same rfl rfl rfl))).trans (.markStored a.id ix _)
        · exact (drop.trans (.sent a.id ix u)).trans (.inject _ _ _ _ _ _ _)
    next => exact (drop.trans (.sent a.id ix u)).trans (.inject _ _ _ _ _ _ _)

theorem tryPart (id ix : Nat) (s : State) : AccFurther n s (s.tryPart n id ix) := by
  unfold State.tryPart
  split
  · exact .refl n s
  · split
    · exact .refl n s
    · split
      · exact .refl n s
      · split
        · exact .sendPool _ ix _ s
        · exact .sendCached _ ix _ s
        · exact .sendStash _ ix _ s
        · exact .sendBypass _ ix _ s

/-- What may leave leaves: the accesses go on. -/
theorem pump (s : State) : AccFurther n s (s.pump n) := by
  unfold State.pump
  dsimp only
  refine AccFurther.trans (.modTile (f := Tile.coverWc) (Tile.Further.coverWc _)) ?_
  refine AccFurther.trans ?_ (.modTile (f := Tile.sweep) (Tile.Further.sweep _))
  exact .foldl (fun s a => .foldl (fun s ix => .tryPart _ ix s) _ s) _ _

end AccFurther
end Sys2Proof.Machine
end

section
/-! SUPPORT. Walks that end, writes that drain, are acknowledged or sent again, fences that complete (R212 to R216, R247, R261, R270). -/
namespace Sys2Proof.Machine

theorem Reached.kept {n : Nat} {s t : State} (h : Reached n s t) : Kept s t := by
  have htile : ∀ m, (t.tile m).pool = (s.tile m).pool ∧ (t.tile m).jets = (s.tile m).jets := fun m => by
    by_cases hm : m = n
    · rw [hm, h.tile]
      exact ⟨rfl, rfl⟩
    · rw [h.others m hm]
      exact ⟨rfl, rfl⟩
  refine ⟨by rw [h.rest], fun m => (htile m).1, fun m k => ?_, ?_⟩
  · rw [State.jet, Tile.jet, (htile m).2]
    rfl
  · rw [h.rest]
    exact ⟨rfl, rfl, rfl, rfl⟩

/-- A packet that a stop has to send is not lost. -/
theorem Reached.mem_inject {n : Nat} {s t : State} (h : Reached n s t) {q : Nat} {p : Packet} (hp : p ∈ (s.stop q).inject) : p ∈ (t.stop q).inject := by
  obtain ⟨l, hl⟩ := h.network q
  rw [hl]
  exact List.mem_append_left _ hp

theorem Reached.fences {n : Nat} {s t : State} (h : Reached n s t) : (t.tile n).fences = (s.tile n).fences := by rw [h.tile]

/-! ### A walk has ended -/

/-- The access that a walk was for has its parts. -/
def Access.translated (l : List Part) (a : Access) : Access := { a with stage := 2, parts := l }

/-- The access goes on with its parts. -/
theorem tlbWalkDone_goesOn {s : State} {a : Access} {l : List Part} (ha : (s.tile s.focus.a).access s.focus.b = some a) (hst : a.stage = 1) (hop : a.op ≠ .pref)
    (hl : s.partsOf s.focus.a a.op.need a.ov a.direct a.va a.nb = .ok l) (hne : l ≠ [])
    (hin : ¬ ((a.op.need = .both ∨ a.direct = true ∧ a.op = .store) ∧ a.va % a.nb ≠ 0)) :
    ∃ t, exec .tlbWalkDone s = .next t ∧ (∀ m i, t.jet m i = s.jet m i) ∧ ((∀ q, (s.stop q).dir = []) → t.mem = s.mem) ∧
      (∀ m, (t.tile m).pool = (s.tile m).pool) ∧ ∀ b ∈ (t.tile s.focus.a).acc, b.id = s.focus.b → b.stage = 2 ∧ b.parts.length = l.length := by
  have hwalk := UnitReads.walked s s.focus.a a.va a.nb a.stash
  have hexec : exec .tlbWalkDone s =
      .next (((s.walked s.focus.a a.va a.nb a.stash).modAcc s.focus.a s.focus.b (Access.translated l)).pump s.focus.a) := by
    have h1 : (a.stage != 1) = false := by rw [hst]; rfl
    have h2 : ((a.op.need = .both || a.direct && a.op = .store) && a.va % a.nb != 0) = false := by
      rw [← Bool.not_eq_true]
      intro h
      refine hin ?_
      simpa using h
    have h3 : l.isEmpty = false := by
      cases l with
      | nil => exact absurd rfl hne
      | cons _ _ => rfl
    change (.next (s.walkDone s.focus.a s.focus.b) : Out) = _
    simp only [State.walkDone, ha, h1, hl, Bool.false_eq_true, if_false]
    rw [h2]
    simp only [hop, h3, Bool.false_eq_true, if_false]
    rfl
  generalize s.walked s.focus.a a.va a.nb a.stash = u at hwalk hexec
  have hr : Reached s.focus.a u ((u.modAcc s.focus.a s.focus.b (Access.translated l)).pump s.focus.a) := (Reached.modAcc _ _ _ _).trans (.pump _ _)
  have hfar := AccFurther.pump (n := s.focus.a) (u.modAcc s.focus.a s.focus.b (Access.translated l))
  refine ⟨_, hexec, fun m i => ?_, fun hcalm => hr.kept.mem.trans (hwalk.2 hcalm).1, fun m => ?_, fun b hb hid => ?_⟩
  · rw [hr.kept.jets, State.jet, hwalk.1.tile m]
    rfl
  · rw [hr.kept.pools, hwalk.1.tile m]
  · obtain ⟨c, hc, hcb⟩ := hfar.acc b hb
    rw [State.modAcc, State.tile_modTile_same] at hc
    obtain ⟨d, _, hd⟩ := List.mem_map.mp hc
    have hdid : d.id = s.focus.b := by
      have : c.id = d.id := by
        rw [← hd]
        split <;> rfl
      rw [← this, ← hcb.id, hid]
    rw [if_pos hdid] at hd
    rw [hcb.stage, ← hcb.parts.length_eq, ← hd]
    exact ⟨rfl, rfl⟩

/-! ### Writes on their way -/

/-- An entry has left the write-combining buffer. -/
def Tile.wcLeft (e : WcEntry) (x : Tile) : Tile := { x with wc := x.wc.filter fun d => d.line != e.line, unacked := x.unacked ++ [(e.line, e.ids)] }

/-- A write-combining entry leaves as one write, whose acknowledgement is awaited. -/
theorem wcDrain_leaves {s : State} {e : WcEntry} (he : (s.tile s.focus.a).wcFind s.focus.b = some e) :
    ∃ t, exec .wcDrain s = .next t ∧ Kept s t ∧ (e.line, e.ids) ∈ (t.tile s.focus.a).unacked ∧
      ⟨paDev (128 * e.line), homeOf (128 * e.line), .l2, s.dev.device.toNat, s.focus.a, payFlits (enBytes e.en), .write s.focus.a e.ids e.line e.en e.data, false, s.nc + 28, .tile⟩ ∈
        (t.stop s.focus.a).inject := by
  have hexec : exec .wcDrain s = .next (((s.modTile s.focus.a (Tile.wcLeft e)).injectTo
      (paDev (128 * e.line)) s.focus.a (homeOf (128 * e.line)) .l2 (payFlits (enBytes e.en)) 28 (.write s.focus.a e.ids e.line e.en e.data)).pump s.focus.a) := by
    change execWcDrain s = _
    simp only [execWcDrain, he] <;> rfl
  have htile : Kept s (s.modTile s.focus.a (Tile.wcLeft e)) :=
    .modTile _ _ (fun _ => rfl) fun _ => rfl
  have hun : (e.line, e.ids) ∈ ((s.modTile s.focus.a (Tile.wcLeft e)).tile s.focus.a).unacked := by
    rw [State.tile_modTile_same]
    exact List.mem_append_right _ (List.mem_singleton.mpr rfl)
  have hnc : (s.modTile s.focus.a (Tile.wcLeft e)).nc = s.nc := rfl
  have hdev : (s.modTile s.focus.a (Tile.wcLeft e)).dev = s.dev := rfl
  generalize (s.modTile s.focus.a (Tile.wcLeft e)) = u at hexec htile hun hnc hdev
  have hpump := Reached.pump s.focus.a (u.injectTo (paDev (128 * e.line)) s.focus.a (homeOf (128 * e.line)) .l2 (payFlits (enBytes e.en)) 28 (.write s.focus.a e.ids e.line e.en e.data))
  refine ⟨_, hexec, (htile.trans (Reached.injectTo s.focus.a _ _ _ _ _ _ _ u).kept).trans hpump.kept, (AccFurther.pump _).unacked _ hun, hpump.mem_inject ?_⟩
  rw [← hnc, ← hdev]
  exact u.injectTo_mem _ _ _ _ _ _ _

/-- The parts of a line's stores are performed. -/
def Part.homeDone (line : Nat) (p : Part) : Part := if p.path != .pool && p.addr / 128 == line then { p with performed := true, acked := true } else p

/-- A write of a line is acknowledged, and with it the stores that were in it. -/
def Tile.lineAcked (line : Nat) (ids : List Nat) (x : Tile) : Tile :=
  { x with
    unacked := x.unacked.filter fun e => e.1 != line
    acc := x.acc.map fun a => if ids.contains a.id then { a with parts := a.parts.map (Part.homeDone line) } else a }

/-- What an acknowledged store's part is: not of the line, or performed and acknowledged. -/
def Part.settledAt (line : Nat) (p : Part) : Prop := p.path ≠ .pool → p.addr / 128 = line → p.performed = true ∧ p.acked = true

theorem Part.homeDone_settled (line : Nat) (p : Part) : (p.homeDone line).settledAt line := by
  intro hpath haddr
  by_cases h : (p.path != .pool && p.addr / 128 == line) = true
  · rw [Part.homeDone, if_pos h]
    exact ⟨rfl, rfl⟩
  · rw [Part.homeDone, if_neg h] at hpath haddr
    refine absurd ?_ h
    rw [Bool.and_eq_true, bne_iff_ne, beq_iff_eq]
    exact ⟨hpath, haddr⟩

theorem Part.Further.settled {line : Nat} {p q : Part} (h : p.Further q) (hp : p.settledAt line) : q.settledAt line := fun hpath haddr => by
  obtain ⟨hdone, hacked⟩ := hp (h.path ▸ hpath) (h.addr ▸ haddr)
  exact ⟨h.performed hdone, h.acked hacked⟩

theorem partsFurther_settled {line : Nat} {l m : List Part} (h : List.Forall₂ Part.Further l m) (hl : ∀ p ∈ l, p.settledAt line) : ∀ p ∈ m, p.settledAt line := by
  induction h with
  | nil => exact fun p hp => nomatch hp
  | cons hp _ ih =>
    intro q hq
    rcases List.mem_cons.mp hq with rfl | hq
    · exact hp.settled (hl _ List.mem_cons_self)
    · exact ih (fun p hp => hl p (List.mem_cons_of_mem _ hp)) q hq

/-- The stores that were in an acknowledged write are performed. -/
theorem writeAck_performs {s : State} {ids : List Nat} (hlt : s.focus.b < 2 ^ 64)
    (hun : ((s.tile s.focus.a).unacked.find? fun e => e.1 == s.focus.b) = some (s.focus.b, ids)) :
    ∃ t, exec .writeAck s = .next t ∧ Reached s.focus.a s t ∧
      ∀ a ∈ (t.tile s.focus.a).acc, a.id ∈ ids → ∀ p ∈ a.parts, p.path ≠ .pool → p.addr / 128 = s.focus.b → p.performed = true ∧ p.acked = true := by
  have hexec : exec .writeAck s = .next ((if ((s.tile s.focus.a).acc.any fun a => ids.contains a.id && a.parts.any fun p => p.path == .bypass && p.addr / 128 == s.focus.b) = true
      then (s.modTile s.focus.a (Tile.lineAcked s.focus.b ids)).modTile s.focus.a fun x => x.l1Drop s.focus.b
      else s.modTile s.focus.a (Tile.lineAcked s.focus.b ids)).pump s.focus.a) := by
    have h64 : ¬ 2 ^ 64 ≤ s.focus.b := Nat.not_le.mpr hlt
    change execWriteAck s = _
    simp only [execWriteAck, if_neg h64, hun]
    rfl
  have hacked : ∀ a ∈ ((s.modTile s.focus.a (Tile.lineAcked s.focus.b ids)).tile s.focus.a).acc, a.id ∈ ids → ∀ p ∈ a.parts, p.settledAt s.focus.b := by
    intro a ha hid
    rw [State.tile_modTile_same] at ha
    obtain ⟨c, _, rfl⟩ := List.mem_map.mp ha
    by_cases hc : ids.contains c.id = true
    · rw [if_pos hc]
      intro p hp
      obtain ⟨q, _, rfl⟩ := List.mem_map.mp hp
      exact q.homeDone_settled _
    · rw [if_neg hc] at hid
      exact absurd (List.contains_iff_mem.mpr hid) hc
  have hr : Reached s.focus.a s (s.modTile s.focus.a (Tile.lineAcked s.focus.b ids)) := .modTile fun _ => rfl
  generalize s.modTile s.focus.a (Tile.lineAcked s.focus.b ids) = u at hexec hacked hr
  have hdrop : Reached s.focus.a u (if ((s.tile s.focus.a).acc.any fun a => ids.contains a.id && a.parts.any fun p => p.path == .bypass && p.addr / 128 == s.focus.b) = true
      then u.modTile s.focus.a fun x => x.l1Drop s.focus.b else u) ∧ AccFurther s.focus.a u (if ((s.tile s.focus.a).acc.any fun a => ids.contains a.id &&
        a.parts.any fun p => p.path == .bypass && p.addr / 128 == s.focus.b) = true then u.modTile s.focus.a fun x => x.l1Drop s.focus.b else u) := by
    split
    · exact ⟨.modTile fun _ => rfl, .modTile (Tile.Further.l1Drop _ _)⟩
    · exact ⟨.refl _ _, .refl _ _⟩
  generalize (if ((s.tile s.focus.a).acc.any fun a => ids.contains a.id && a.parts.any fun p => p.path == .bypass && p.addr / 128 == s.focus.b) = true
      then u.modTile s.focus.a fun x => x.l1Drop s.focus.b else u) = v at hexec hdrop
  refine ⟨_, hexec, (hr.trans hdrop.1).trans (.pump _ _), fun a ha hid p hp => ?_⟩
  obtain ⟨b, hb, hba⟩ := (hdrop.2.trans (.pump v)).acc a ha
  exact partsFurther_settled hba.parts (hacked b hb (hba.id ▸ hid)) p hp

/-! ### Fences -/

/-- A fence is over. -/
def Tile.unfenced (upTo : Nat) (x : Tile) : Tile := { x with fences := x.fences.filter fun e => e.upTo != upTo }

/-- A fence that completes is gone, and at device or system scope the L1 keeps lines of free pages alone. -/
theorem fenceComplete_gone {s : State} {e : FenceSt} (he : ((s.tile s.focus.a).fences.find? fun e => e.upTo == s.focus.b) = some e) :
    ∃ t, exec .fenceComplete s = .next t ∧ t.mem = s.mem ∧ (∀ m i, t.jet m i = s.jet m i) ∧
      (t.tile s.focus.a).fences = (s.tile s.focus.a).fences.filter (fun e => e.upTo != s.focus.b) ∧
      (e.sc ≠ .tile → ∀ l ∈ (t.tile s.focus.a).l1, e.all = false ∧ ∃ m ∈ (s.tile s.focus.a).l1, m.line = l.line ∧ m.free = true) := by
  have hexec : exec .fenceComplete s = .next ((if e.sc = .tile then s.modTile s.focus.a (Tile.unfenced s.focus.b)
      else (s.modTile s.focus.a (Tile.unfenced s.focus.b)).modTile s.focus.a fun x => x.l1Flash e.all).pump s.focus.a) := by
    change execFenceComplete s = _
    simp only [execFenceComplete, he] <;> rfl
  have hgone : Kept s (s.modTile s.focus.a (Tile.unfenced s.focus.b)) := .modTile (f := Tile.unfenced s.focus.b) _ _ (fun _ => rfl) fun _ => rfl
  have hx : (s.modTile s.focus.a (Tile.unfenced s.focus.b)).tile s.focus.a = (s.tile s.focus.a).unfenced s.focus.b := State.tile_modTile_same _ _ _
  generalize (s.modTile s.focus.a (Tile.unfenced s.focus.b)) = u at hexec hgone hx
  have hflash : Reached s.focus.a u (if e.sc = .tile then u else u.modTile s.focus.a fun x => x.l1Flash e.all) := by
    split
    · exact .refl _ _
    · exact .modTile fun _ => rfl
  have hr := hflash.trans (.pump s.focus.a _)
  refine ⟨_, hexec, (hgone.trans hr.kept).mem, (hgone.trans hr.kept).jets, hr.fences.trans (congrArg Tile.fences hx), fun hsc l hl => ?_⟩
  obtain ⟨m, hm, hline, hfree⟩ := (AccFurther.pump _).l1 l hl
  rw [if_neg hsc, State.tile_modTile_same] at hm
  have hl1 : (u.tile s.focus.a).l1 = (s.tile s.focus.a).l1 := (congrArg Tile.l1 hx).trans rfl
  change m ∈ (if e.all = true then [] else (u.tile s.focus.a).l1.filter (·.free)) at hm
  rw [hl1] at hm
  by_cases hall : e.all = true
  · rw [if_pos hall] at hm
    nomatch hm
  · rw [if_neg hall] at hm
    obtain ⟨hmem, hfr⟩ := List.mem_filter.mp hm
    exact ⟨Bool.eq_false_iff.mpr hall, m, hmem, hline, hfr⟩

/-! ### Pins -/

/-- Where nothing is pinned, the status comes in this tc. -/
theorem pinwaitDone_clear {s : State} {o : Owed} (ho : (s.jet s.focus.a s.focus.b).findOwed s.focus.c = some o) (hp : ∀ y ∈ s.stops, ∀ p ∈ y.2.pins, p.2 = 0) :
    ∃ t p, exec .pinwaitDone s = .next t ∧ t.mem = s.mem ∧ (t.jet s.focus.a s.focus.b).findOwed s.focus.c = some p ∧
      p.w = [⟨scatter o.dst 0, []⟩] ∧ (s.nc, ⟨s.focus.a, s.focus.b, s.focus.c, 0, 0⟩, Instr.statusResultWrite) ∈ t.agenda := by
  have hexec : exec .pinwaitDone s = .next (s.settle s.focus.a s.focus.b s.focus.c 0 0) := by
    have hnone : (s.stops.any fun x => x.2.pins.any fun p => p.2 != 0 && decide (128 * p.1 < s.focus.data + s.focus.d) && decide (s.focus.data < 128 * p.1 + 128)) = false := by
      simp only [List.any_eq_false, List.any_eq_true, not_exists, not_and]
      intro y hy p hpin
      rw [hp y hy p hpin]
      exact Bool.false_ne_true
    change execPinwaitDone s = _
    simp only [execPinwaitDone, hnone, Bool.false_eq_true, if_false]
  obtain ⟨hfilled, hagenda, hmem⟩ := State.settle_now (v := 0) ho
  exact ⟨_, _, hexec, hmem, hfilled, rfl, hagenda⟩

/-- While a line of the range is pinned, the jet waits on. -/
theorem pinwaitDone_pinned {s : State} {y : Nat × Stop} {p : Nat × Nat} (hy : y ∈ s.stops) (hpin : p ∈ y.2.pins) (hne : p.2 ≠ 0)
    (hlo : 128 * p.1 < s.focus.data + s.focus.d) (hhi : s.focus.data < 128 * p.1 + 128) :
    ∃ t, exec .pinwaitDone s = .next t ∧ Kept s t ∧ (s.nc + 2, s.focus, Instr.pinwaitDone) ∈ t.agenda := by
  have hexec : exec .pinwaitDone s = .next (s.after 1 .pinwaitDone s.focus) := by
    have hsome : (s.stops.any fun x => x.2.pins.any fun p => p.2 != 0 && decide (128 * p.1 < s.focus.data + s.focus.d) && decide (s.focus.data < 128 * p.1 + 128)) = true := by
      rw [List.any_eq_true]
      refine ⟨y, hy, List.any_eq_true.mpr ⟨p, hpin, ?_⟩⟩
      simp only [Bool.and_eq_true, bne_iff_ne, decide_eq_true_eq]
      exact ⟨⟨hne, hlo⟩, hhi⟩
    change execPinwaitDone s = _
    simp only [execPinwaitDone, hsome, if_true]
  exact ⟨_, hexec, .at_ _ _ _ _, agendaInsert_mem _ _ _ _⟩

end Sys2Proof.Machine
end

section
/-! SUPPORT and PROOFS. Accesses at a pool (R218, R223, R246, R247), accesses whose walk finds a fault (R388), and the memory events. -/
namespace Sys2Proof.Machine

/-! ### A write that was refused goes out again -/

/-- The one part of a tile's one access is held back by nothing. -/
theorem State.holds_alone {s : State} {n : Nat} {a : Access} {p : Part} (hacc : (s.tile n).acc = [a]) (hnests : (s.tile n).nests = [])
    (hfences : (s.tile n).fences = []) (htables : (s.tile n).tables = []) (hop : a.op = .store) (hrel : a.rel = false) (hparts : a.parts = [p]) :
    s.holds n a p = false := by
  have hbefore : (s.tile n).before a.jet a.id = [] := by
    rw [Tile.before, hacc]
    simp
  have hflag : (a.op == AccOp.wsigFlag) = false := by rw [hop]; rfl
  rw [State.holds]
  rw [hbefore, hrel, hflag, hacc, hparts]
  simp [State.orderHolds, State.tableHolds, Tile.nestTouches, hbefore, hnests, hfences, htables, hflag]

/-- A part for another tile's pool leaves as a packet. -/
theorem State.sendPool_store {s : State} {n ix : Nat} {a : Access} {p : Part} (hop : a.op = .store) (hpool : p.pool ≠ 1024 * s.dev.device.toNat + n) :
    s.packet (p.pool / 1024) n (p.pool % 1024) .tile (payFlits p.nb) 14 (.poolReq n a.id ix (.write (a.partEn p) (a.partData p)) p.addr p.nb) ∈
      ((s.sendPool n a ix p).stop n).inject := by
  have hatomic : a.isAtomic = false := by rw [Access.isAtomic, hop]
  have hstore : a.isStore = true := by rw [Access.isStore, hop]
  have hsend : s.sendPool n a ix p = (s.modPart n a.id ix fun p => { p with sent := true }).injectTo (p.pool / 1024) n (p.pool % 1024) .tile (payFlits p.nb) 14
      (.poolReq n a.id ix (.write (a.partEn p) (a.partData p)) p.addr p.nb) := by
    simp only [State.sendPool, hpool, hop, hatomic, hstore, Bool.false_eq_true, if_false, if_true]
  rw [hsend]
  exact State.injectTo_mem _ _ _ _ _ _ _ _

/-- A part as it was before it was sent. -/
def Part.unsent (p : Part) : Part := { p with sent := false }

theorem writeRefusalResend_sends {s : State} {a : Access} {p : Part} (hacc : (s.tile s.focus.a).acc = [a]) (hnests : (s.tile s.focus.a).nests = [])
    (hfences : (s.tile s.focus.a).fences = []) (htables : (s.tile s.focus.a).tables = []) (hb : s.focus.b = a.id) (hc : s.focus.c = 0) (hop : a.op = .store)
    (hrel : a.rel = false) (hbeat : a.beat = none) (hst : a.stage = 2) (hg : a.gather = []) (hparts : a.parts = [p]) (hpath : p.path = .pool)
    (hpool : p.pool ≠ 1024 * s.dev.device.toNat + s.focus.a) :
    ⟨p.pool / 1024, p.pool % 1024, .tile, s.dev.device.toNat, s.focus.a, payFlits p.nb, .poolReq s.focus.a a.id 0 (.write (a.partEn p) (a.partData p)) p.addr p.nb, false,
      s.nc + 14, .tile⟩ ∈ ((((s.modPart s.focus.a s.focus.b s.focus.c Part.unsent).pump s.focus.a).stop s.focus.a).inject) := by
  have hv : ∃ v, v = (s.modPart s.focus.a s.focus.b s.focus.c Part.unsent).modTile s.focus.a Tile.coverWc ∧
      (v.tile s.focus.a).acc = [a.modPart 0 Part.unsent] ∧ (v.tile s.focus.a).nests = [] ∧ (v.tile s.focus.a).fences = [] ∧ (v.tile s.focus.a).tables = [] ∧
      v.dev = s.dev ∧ v.nc = s.nc := by
    refine ⟨_, rfl, ?_, ?_, ?_, ?_, rfl, rfl⟩ <;> rw [State.tile_modTile_same, State.modPart, State.modAcc, State.tile_modTile_same]
    · change List.map _ (s.tile s.focus.a).acc = _
      rw [hacc, hb, hc, List.map_cons, if_pos rfl, List.map_nil]
    · exact hnests
    · exact hfences
    · exact htables
  obtain ⟨v, hveq, vacc, vnests, vfences, vtables, vdev, vnc⟩ := hv
  have hparts' : (a.modPart 0 Part.unsent).parts = [p.unsent] := by
    change a.parts.modify 0 Part.unsent = _
    rw [hparts]
    rfl
  have hpump : (s.modPart s.focus.a s.focus.b s.focus.c Part.unsent).pump s.focus.a = (v.tryPart s.focus.a a.id 0).modTile s.focus.a Tile.sweep := by
    rw [State.pump, ← hveq]
    rw [vacc, List.foldl_cons, List.foldl_nil, hparts']
    rfl
  have htry : v.tryPart s.focus.a a.id 0 = v.sendPool s.focus.a (a.modPart 0 Part.unsent) 0 p.unsent := by
    have hfind : (v.tile s.focus.a).access a.id = some (a.modPart 0 Part.unsent) := by
      rw [Tile.access, vacc]
      exact List.find?_cons_of_pos (beq_self_eq_true a.id)
    have hhold := State.holds_alone (s := v) (n := s.focus.a) (a := a.modPart 0 Part.unsent) (p := p.unsent) vacc vnests vfences vtables hop hrel hparts'
    have hwait : (v.tile s.focus.a).beatWaits (a.modPart 0 Part.unsent) = false := by
      change (a.beat.isSome && _) = false
      rw [hbeat]
      rfl
    have hst' : ((a.modPart 0 Part.unsent).stage != 2) = false := by
      change (a.stage != 2) = false
      rw [hst]
      rfl
    have hg' : (!(a.modPart 0 Part.unsent).gather.isEmpty) = false := by
      change (!a.gather.isEmpty) = false
      rw [hg]
      rfl
    have hpath' : p.unsent.path = .pool := hpath
    have hsent : p.unsent.sent = false := rfl
    have hix : (a.modPart 0 Part.unsent).parts[0]? = some p.unsent := by
      rw [hparts']
      rfl
    rw [State.tryPart]
    simp only [hfind, hix, hst', hg', hsent, hwait, hhold, hpath', Bool.and_false, Bool.or_false, Bool.false_eq_true, if_false]
  rw [hpump, htry]
  have hsend := State.sendPool_store (s := v) (n := s.focus.a) (ix := 0) (a := a.modPart 0 Part.unsent) (p := p.unsent) hop (vdev ▸ hpool)
  rw [State.packet, vdev, vnc] at hsend
  exact hsend

/-! ### At a pool -/

theorem Kept.unitBack (s : State) (t id v c : Nat) : Kept s (s.unitBack t id v c) := by
  have piece (ch : Nat) (f : Channel → Channel) : Kept s (s.modTile t fun x => x.modChan ch f) := .modTile s t (fun _ => rfl) fun _ => rfl
  unfold State.unitBack
  dsimp only
  split
  · exact .at_ _ _ _ _
  · split
    · exact .refl s
    · exact (piece _ _).trans (.at_ _ _ _ _)
  · exact .at_ _ _ _ _
  · exact .modChain _ _ _
  · exact .modChain _ _ _
  · exact .refl s

theorem Kept.answerBy (s : State) (by_ : Endpoint) (dev src dst flits d : Nat) (b : Pkt) : Kept s (s.answerBy by_ dev src dst flits d b) := .modStop _ _ _

/-- An access's flags are raised. -/
def Access.raised (fl : Nat) (a : Access) : Access := { a with flags := a.flags ||| BitVec.ofNat 5 fl }
/-- An access has met poison. -/
def Access.poisoned (a : Access) : Access := { a with cause := 8 }

theorem Kept.answer (s : State) (by_ : Endpoint) (o dev t id ix d nb v flags : Nat) (atomic : Bool) : Kept s (s.answer by_ o dev t id ix d nb v flags atomic) := by
  unfold State.answer
  split
  · exact (Reached.modAcc t id (Access.raised flags) s).kept.trans (.answerBy _ _ _ _ _ _ _ _)
  · split
    · exact .answerBy _ _ _ _ _ _ _ _
    · exact .answerBy _ _ _ _ _ _ _ _

/-- The request that the event is for. -/
def State.poolAsked (s : State) (k : PoolReq) : Prop :=
  (s.tile s.focus.a).poolIn.find? (fun q => (s.tile s.focus.a).poolReady s.dev.device.toNat s.focus.a s.nc q && q.tile == s.focus.b && q.acc == s.focus.c && q.part == s.focus.d) =
    some k ∧ (k.acc = 0 ∨ (s.tile s.focus.a).scratch k.addr k.nb = true)

/-- A request has left the queue of its pool. -/
def Tile.poolGone (k : PoolReq) (x : Tile) : Tile := { x with poolIn := x.poolIn.filter (· != k) }

theorem Kept.poolGone (s : State) (n : Nat) (k : PoolReq) : Kept s (s.modTile n (Tile.poolGone k)) := .modTile s n (f := Tile.poolGone k) (fun _ => rfl) fun _ => rfl

theorem State.poolAsked.permitted {s : State} {k : PoolReq} (h : s.poolAsked k) (hop : ∀ ch d pos, k.op ≠ .land ch d pos) :
    (k.acc != 0 && !(match k.op with | .land .. => true | _ => (s.tile s.focus.a).scratch k.addr k.nb)) = false := by
  have hscratch : (match k.op with | .land .. => true | _ => (s.tile s.focus.a).scratch k.addr k.nb) = (s.tile s.focus.a).scratch k.addr k.nb := by
    cases hk : k.op with
    | land ch d pos => exact absurd hk (hop ch d pos)
    | read | write | addw | atomic => rfl
  rw [hscratch]
  rcases h.2 with hacc | hsc
  · rw [hacc]
    rfl
  · rw [hsc, Bool.not_true, Bool.and_false]

/-- A write is performed at its pool. -/
theorem State.poolPerform_write {s : State} {o : Nat} {k : PoolReq} {en d : Nat} (hop : k.op = .write en d) :
    PoolWritten s (s.poolPerform o k) o k.addr k.nb en d := by
  have hw : PoolWritten s (s.modTile o fun x => x.poolWrite k.addr k.nb en d) o k.addr k.nb en d := .modTile s o (fun _ => rfl) fun _ => rfl
  have hperform : s.poolPerform o k = (let s1 := s.modTile o fun x => x.poolWrite k.addr k.nb en d
      if k.acc = 0 then s1
      else if 2 ^ 66 ≤ k.acc ∧ (k.dev == s.dev.device.toNat && k.tile == o) then s1.unitBack k.tile k.acc 0 0
      else if (k.dev == s.dev.device.toNat) ∧ k.acc < 2 ^ 66 then s1.markStored k.tile k.acc k.part
      else s1.answerBy .tile k.dev o k.tile 1 13 (.writeAck k.tile (2 ^ 64 + k.part) [k.acc])) := by
    unfold State.poolPerform
    simp only [hop]
  rw [hperform]
  dsimp only
  split
  · exact hw
  · split
    · exact hw.kept (.unitBack _ _ _ _ _)
    · split
      · exact hw.kept (Reached.markStored _ _ _ _).kept
      · exact hw.kept (.answerBy _ _ _ _ _ _ _ _)

/-- A read at its pool: the state in which its value is known. -/
theorem Kept.poolRead {s : State} {o : Nat} {k : PoolReq} (hop : k.op = .read) : Kept s (s.poolPerform o k) := by
  have mark (u : State) : Kept u (u.markPerformed k.tile k.acc k.part) := (Reached.markPerformed _ _ _ u).kept
  have bad (c : Prop) [Decidable c] : Kept s (if c then s.modAcc k.tile k.acc Access.poisoned else s) := by
    split
    · exact (Reached.modAcc _ _ _ _).kept
    · exact .refl s
  have marked (c d : Prop) [Decidable c] [Decidable d] : Kept s (if d then (if c then s.modAcc k.tile k.acc Access.poisoned else s).markPerformed k.tile k.acc k.part
      else if c then s.modAcc k.tile k.acc Access.poisoned else s) := by
    split
    · exact (bad c).trans (mark _)
    · exact bad c
  unfold State.poolPerform
  simp only [hop]
  split
  · exact .answerBy _ _ _ _ _ _ _ _
  · split
    · exact ((marked _ _).trans (Reached.modAcc k.tile k.acc (Access.raised 0) _).kept).trans (.at_ _ _ _ _)
    · exact (marked _ _).trans (.answer _ _ _ _ _ _ _ _ _ _ _ _)

/-- A tile's own read, but of a cistern: its value returns after 3 tc, or 5 where the guard stalled it. -/
theorem State.poolRead_returns {s : State} {o : Nat} {k : PoolReq} (hop : k.op = .read) (hdev : k.dev = s.dev.device.toNat) (htile : k.tile = o)
    (hcrd : ∀ a bf, (s.tile o).access k.acc = some a → a.op ≠ .crd bf) :
    (s.nc + 2 * (if k.waited = true then 5 else 3), ⟨o, k.acc, k.part, 0, (s.tile o).pool.readN k.addr k.nb⟩, Instr.loadReturn) ∈ (s.poolPerform o k).agenda := by
  have hd : (k.dev == s.dev.device.toNat) = true := beq_iff_eq.mpr hdev
  have hn : (o == o) = true := beq_self_eq_true o
  have hnc (c : Prop) [Decidable c] : ((if c then s.modAcc o k.acc Access.poisoned else s).markPerformed o k.acc k.part).nc = s.nc := by
    refine (Reached.kept (n := o) ((Reached.trans ?_ (Reached.markPerformed _ _ _ _)))).time.1
    split
    · exact .modAcc _ _ _ _
    · exact .refl _ _
  have due (u : State) (c : Bool) (hu : u.nc = s.nc) (hc : c = false) :
      (s.nc + 2 * (if k.waited = true then 5 else 3), ⟨o, k.acc, k.part, 0, (s.tile o).pool.readN k.addr k.nb⟩, Instr.loadReturn) ∈
        (u.returns o k.acc k.part ((if k.waited = true then 5 else 3) + if c = true then 2 else 0) ((s.tile o).poolRead k.addr k.nb)).agenda := by
    rw [hc, ← hu]
    exact agendaInsert_mem _ _ _ _
  have hno : (match (s.tile o).access k.acc with | some a => (match a.op with | .crd _ => true | _ => false) | none => false) = false := by
    split
    next a ha =>
      split
      next bf hbf => exact absurd hbf (hcrd a bf ha)
      · rfl
    · rfl
  unfold State.poolPerform
  simp only [hop, htile, hd, hn, Bool.and_true, Bool.not_true, Bool.false_eq_true, and_false, if_false, if_true]
  exact due _ _ (hnc _) hno

theorem PoolWritten.after {s u t : State} {n a nb en v : Nat} (h : PoolWritten u t n a nb en v) (k : Kept s u) : PoolWritten s t n a nb en v := by
  obtain ⟨hmem, hjets, hpool, hothers⟩ := h
  exact ⟨hmem.trans k.mem, fun m i => (hjets m i).trans (k.jets m i), by rw [hpool, k.pools], fun m hm => (hothers m hm).trans (k.pools m)⟩

theorem remotePoolAccess_write {s : State} {k : PoolReq} {en d : Nat} (hq : s.poolAsked k) (hop : k.op = .write en d)
    (hg : (s.tile s.focus.a).guardWrite s.focus.a k.addr k.nb (k.dev, k.tile) = false) :
    ∃ t, exec .remotePoolAccess s = .next t ∧ PoolWritten s t s.focus.a k.addr k.nb en d := by
  have hok := hq.permitted fun _ _ _ h => by rw [hop] at h; nomatch h
  have hexec : exec .remotePoolAccess s = .next ((s.modTile s.focus.a (Tile.poolGone k)).poolPerform s.focus.a k) := by
    rw [hop] at hok
    change execRemotePoolAccess s = _
    unfold execRemotePoolAccess
    simp only [hq.1, hop, hok, hg, Bool.false_eq_true, if_false] <;> rfl
  have hw := State.poolPerform_write (s := s.modTile s.focus.a (Tile.poolGone k)) (o := s.focus.a) hop
  exact ⟨_, hexec, hw.after (.poolGone s s.focus.a k)⟩

theorem remotePoolAccess_held {s : State} {k : PoolReq} {en d : Nat} (hq : s.poolAsked k) (hop : k.op = .write en d)
    (hg : (s.tile s.focus.a).guardWrite s.focus.a k.addr k.nb (k.dev, k.tile) = true) (hroom : (s.tile s.focus.a).heldWrites.length < 8) :
    ∃ t, exec .remotePoolAccess s = .next t ∧ Kept s t ∧ (t.tile s.focus.a).heldWrites = (s.tile s.focus.a).heldWrites ++ [k] := by
  have hok := hq.permitted fun _ _ _ h => by rw [hop] at h; nomatch h
  have hexec : exec .remotePoolAccess s = .next ((s.modTile s.focus.a (Tile.poolGone k)).modTile s.focus.a fun x => { x with heldWrites := x.heldWrites ++ [k] }) := by
    rw [hop] at hok
    change execRemotePoolAccess s = _
    unfold execRemotePoolAccess
    simp only [hq.1, hop, hok, hg, hroom, Bool.false_eq_true, if_false, if_true] <;> rfl
  refine ⟨_, hexec, (Kept.poolGone s s.focus.a k).trans (.modTile _ _ (fun _ => rfl) fun _ => rfl), ?_⟩
  rw [State.tile_modTile_same, State.tile_modTile_same]
  rfl

theorem remotePoolAccess_read {s : State} {k : PoolReq} (hq : s.poolAsked k) (hop : k.op = .read)
    (hg : ∀ c, (s.tile s.focus.a).readGuard s.dev.device.toNat s.focus.a k ≠ .aborted c) :
    ∃ t, exec .remotePoolAccess s = .next t ∧ Kept s t ∧
      (k.dev = s.dev.device.toNat → k.tile = s.focus.a → (∀ a bf, (s.tile s.focus.a).access k.acc = some a → a.op ≠ .crd bf) →
        (s.nc + 2 * (if k.waited = true then 5 else 3), ⟨s.focus.a, k.acc, k.part, 0, (s.tile s.focus.a).pool.readN k.addr k.nb⟩, Instr.loadReturn) ∈ t.agenda) := by
  have hok := hq.permitted fun _ _ _ h => by rw [hop] at h; nomatch h
  have hexec : exec .remotePoolAccess s = .next ((s.modTile s.focus.a (Tile.poolGone k)).poolPerform s.focus.a k) := by
    rw [hop] at hok
    change execRemotePoolAccess s = _
    unfold execRemotePoolAccess
    simp only [hq.1, hop, hok, hg, Bool.false_eq_true, if_false] <;> rfl
  refine ⟨_, hexec, (Kept.poolGone s s.focus.a k).trans (.poolRead hop), fun hdev htile hcrd => ?_⟩
  have htaken : (s.modTile s.focus.a (Tile.poolGone k)).tile s.focus.a = (s.tile s.focus.a).poolGone k := State.tile_modTile_same _ _ _
  have hret := State.poolRead_returns (s := s.modTile s.focus.a (Tile.poolGone k)) hop hdev htile fun a bf ha => hcrd a bf (by rw [htaken] at ha; exact ha)
  rw [htaken] at hret
  exact hret

/-! ### A walk that finds a fault -/

/-- A fault found late suspends its jet, and changes no frame and no other jet. -/
theorem State.lateFault_suspends (s : State) (t slot : Nat) (f : Flt) (pc : BitVec 64) (owed : List Nat) (ord : Nat) (h : (s.jet t slot).status = .running) :
    ((s.lateFault t slot f pc owed ord).jet t slot).status = .suspended ∧ ((s.lateFault t slot f pc owed ord).jet t slot).frame = (s.jet t slot).frame ∧
      (s.lateFault t slot f pc owed ord).mem = s.mem ∧ (∀ m, ((s.lateFault t slot f pc owed ord).tile m).pool = (s.tile m).pool) ∧
      ∀ i, i ≠ slot → (s.lateFault t slot f pc owed ord).jet t i = s.jet t i := by
  have hsent : Kept s (s.reportJet t slot f pc) := .modWeir _ _ _
  have hrun := h
  rw [← hsent.jets] at hrun
  unfold State.lateFault
  refine ⟨?_, ?_, hsent.mem, fun m => ?_, fun i hi => ?_⟩
  · rw [State.jet_modJet_same]
    exact if_pos hrun
  · rw [State.jet_modJet_same, ← hsent.jets]
  · rw [← hsent.pools m]
    by_cases hm : m = t
    · rw [hm, State.modJet, State.tile_modTile_same]
      rfl
    · rw [State.modJet, State.tile_modTile_ne _ _ hm]
  · rw [← hsent.jets]
    rw [State.modJet, State.jet, State.tile_modTile_same]
    exact Tile.jet_setJet_ne _ _ hi

end Sys2Proof.Machine
end

section
/-! PROOFS. Accesses whose walk finds a fault (R388), and the events of the memory path. -/
namespace Sys2Proof.Machine

/-- The later beats of an access's `spill` or `fill`, which its fault withdraws. -/
def Tile.laterBeats (x : Tile) (id : Nat) (a : Access) : List Access :=
  x.acc.filter fun b => b.jet == a.jet && b.pc == a.pc && b.beat.isSome && decide (id < b.id)

/-- An access has faulted: it stays, to be executed again, and the beats behind it are gone. -/
def Tile.accFaulted (id : Nat) (a : Access) (gone : List Access) (x : Tile) : Tile :=
  { x with acc := (x.acc.filter fun b => !(gone.any fun m => m.id == b.id)).map fun b => if b.id = id ∨ a.wsigMate b then { b with stage := 3, parts := [] } else b }

/-- The fault of an access that is no beat is its jet's. -/
theorem State.accFault_late {s : State} {t id k : Nat} {a : Access} {f : Flt} (ha : (s.tile t).access id = some a) (hbeat : a.beat = none)
    (hslot : (s.tile t).slotOf a.jet = some k) :
    s.accFault t id f = (s.modTile t (Tile.accFaulted id a ((s.tile t).laterBeats id a))).lateFault t k f a.pc ((a :: (s.tile t).laterBeats id a).map (·.owedId)) a.id := by
  have hwait : (s.tile t).beatWaits a = false := by
    rw [Tile.beatWaits, hbeat]
    rfl
  unfold State.accFault
  simp only [ha, hwait, hslot, hbeat, Bool.false_eq_true, if_false]
  rfl

theorem Kept.accFaulted (s : State) (t id : Nat) (a : Access) (l : List Access) : Kept s (s.modTile t (Tile.accFaulted id a l)) :=
  .modTile s t (f := Tile.accFaulted id a l) (fun _ => rfl) fun _ => rfl

/-- The fault that a walk finds: the cause of its page, or of its bytes where that comes first. -/
def walkFault (a : Access) (c : Nat) : Flt :=
  dataFault (if ((a.op.need = .both || a.direct && a.op = .store) && a.va % a.nb != 0) ∧ 7 < c then 7 else c) a.rep a.nb

/-- A walk whose access the page refuses suspends the access's jet. -/
theorem tlbWalkDone_faults {s : State} {a : Access} {e k : Nat} (ha : (s.tile s.focus.a).access s.focus.b = some a) (hst : a.stage = 1) (hop : a.op ≠ .pref)
    (hbeat : a.beat = none) (he : s.partsOf s.focus.a a.op.need a.ov a.direct a.va a.nb = .error e) (hslot : (s.tile s.focus.a).slotOf a.jet = some k)
    (hrun : (s.jet s.focus.a k).status = .running) :
    ∃ t, exec .tlbWalkDone s = .next t ∧ (t.jet s.focus.a k).status = .suspended ∧ (t.jet s.focus.a k).frame = (s.jet s.focus.a k).frame ∧
      ((∀ q, (s.stop q).dir = []) → t.mem = s.mem) ∧ (∀ m, (t.tile m).pool = (s.tile m).pool) ∧ ∀ i, i ≠ k → t.jet s.focus.a i = s.jet s.focus.a i := by
  have hwalk := UnitReads.walked s s.focus.a a.va a.nb a.stash
  have hexec : exec .tlbWalkDone s = .next ((s.walked s.focus.a a.va a.nb a.stash).accFault s.focus.a s.focus.b (walkFault a e)) := by
    have h1 : (a.stage != 1) = false := by rw [hst]; rfl
    change (.next (s.walkDone s.focus.a s.focus.b) : Out) = _
    simp only [State.walkDone, ha, h1, he, hop, Bool.false_eq_true, if_false]
    rfl
  have hacc : ((s.walked s.focus.a a.va a.nb a.stash).tile s.focus.a).access s.focus.b = some a := by
    rw [hwalk.1.tile]
    exact ha
  have hslot' : ((s.walked s.focus.a a.va a.nb a.stash).tile s.focus.a).slotOf a.jet = some k := by
    rw [hwalk.1.tile]
    exact hslot
  have hjets : ∀ i, (s.walked s.focus.a a.va a.nb a.stash).jet s.focus.a i = s.jet s.focus.a i := fun i => by
    rw [State.jet, hwalk.1.tile]
    rfl
  have hpools : ∀ m, ((s.walked s.focus.a a.va a.nb a.stash).tile m).pool = (s.tile m).pool := fun m => by rw [hwalk.1.tile]
  have hmem : (∀ q, (s.stop q).dir = []) → (s.walked s.focus.a a.va a.nb a.stash).mem = s.mem := fun h => (hwalk.2 h).1
  generalize s.walked s.focus.a a.va a.nb a.stash = v at hexec hacc hslot' hjets hpools hmem
  rw [State.accFault_late hacc hbeat hslot'] at hexec
  have hkept := Kept.accFaulted v s.focus.a s.focus.b a ((v.tile s.focus.a).laterBeats s.focus.b a)
  generalize v.modTile s.focus.a (Tile.accFaulted s.focus.b a ((v.tile s.focus.a).laterBeats s.focus.b a)) = u at hexec hkept
  obtain ⟨hstatus, hframe, hm, hp, hothers⟩ := u.lateFault_suspends s.focus.a k (walkFault a e) a.pc ((a :: (v.tile s.focus.a).laterBeats s.focus.b a).map (·.owedId)) a.id
    (by rw [hkept.jets, hjets]; exact hrun)
  refine ⟨_, hexec, hstatus, ?_, fun h => hm.trans (hkept.mem.trans (hmem h)), fun m => ?_, fun i hi => ?_⟩
  · rw [hframe, hkept.jets, hjets]
  · rw [hp, hkept.pools, hpools]
  · rw [hothers i hi, hkept.jets, hjets]

/-- Settles O48: a walk by `walked`, whose unit reads change no memory that no stash holds, and by what the sending of parts keeps; a request at a slice by
what serving its line changes; a pool access by its one write; drains, acknowledgements and fences by what goes on when parts are sent. -/
theorem memoryEvents : Obligations.MemoryEvents := by
  intro s
  dsimp only
  refine ⟨fun a l ha hst hop hl hne hin => tlbWalkDone_goesOn ha hst hop hl hne hin, fun a e k ha hst hop hbeat he hslot hrun => tlbWalkDone_faults ha hst hop hbeat he hslot hrun,
    fun k r t0 ids line en data hin hk hl hf => ?_, fun k r t0 id ix a nb hin hk hdev hid hacc hl hf hbad hcalm => l2Request_read hin hk hdev hid hacc hl hf hbad hcalm,
    fun k r hin hl hf hroom => l2Request_miss hin hl hf hroom, fun hj hw => l2Fill_alone hj hw, fun k t0 ids en data hj hk hw => ?_,
    fun k r hj hw hne hl => l2Fill_next hj hw hne hl, fun k en d hq hop hg => remotePoolAccess_write hq hop hg, fun k en d hq hop hg hroom => remotePoolAccess_held hq hop hg hroom,
    fun k hq hop hg => ?_, fun e he => wcDrain_leaves he, fun ids hlt hun => writeAck_performs hlt hun, fun e he => fenceComplete_gone he, ?_,
    fun j o hj ho hp => pinwaitDone_clear (hj ▸ ho) hp, fun y p hy hpin hne hlo hhi => pinwaitDone_pinned hy hpin hne hlo hhi⟩
  · obtain ⟨t, ht, hw⟩ := l2Request_write hin hk hl hf
    refine ⟨t, ht, hw.served.outside, hw.written, fun b hb hen hdir hn => hw.left b hb hen ?_, hw.served.jets, ?_⟩
    · rw [← hn, Stop.dirOf, s.l2Touched_dir]
      exact hdir
    · rw [(hw.served.stop _).l2In, s.l2Touched_l2In]
  · obtain ⟨t, ht, hmiss, hw⟩ := l2Fill_write hj hk hw
    exact ⟨t, ht, hw.served.jets, hmiss, hw.served.outside, hw.written⟩
  · obtain ⟨t, ht, hkept, hret⟩ := remotePoolAccess_read hq hop hg
    exact ⟨t, ht, hkept.mem, hkept.jets, hkept.pools, hret⟩
  · refine ⟨_, rfl, (Reached.modPart _ _ _ Part.unsent s).trans (.pump _ _), ?_⟩
    intro a p hacc hnests hfences htables hb hc hop hrel hbeat hst hg hparts hpath hpool
    exact writeRefusalResend_sends hacc hnests hfences htables hb hc hop hrel hbeat hst hg hparts hpath hpool

end Sys2Proof.Machine
end

section
/-! SUPPORT. Rounding on a grid (R106): a number that is not negative, in units of the grid, and the whole number it is rounded to. -/
namespace Sys2Proof.Machine

/-- `m` is `x` cut to a whole number. -/
def CutTo (x : ℝ) (m : ℕ) : Prop := (m : ℝ) ≤ x ∧ x < m + 1
/-- `m` is `x` raised to a whole number. -/
def RaisedTo (x : ℝ) (m : ℕ) : Prop := x ≤ m ∧ (m : ℝ) < x + 1
/-- `m` is the whole number nearest to `x`, the even one of two. -/
def NearestTo (x : ℝ) (m : ℕ) : Prop := |(m : ℝ) - x| ≤ 1 / 2 ∧ (|(m : ℝ) - x| = 1 / 2 → m % 2 = 0)

/-- `m` is the magnitude `x` of a number with sign `neg` rounded to a whole number. -/
def GridRound (rm : Rm) (neg : Bool) (x : ℝ) (m : ℕ) : Prop :=
  match rm, neg with
  | .rne, _ => NearestTo x m
  | .rtz, _ => CutTo x m
  | .rup, false => RaisedTo x m
  | .rup, true => CutTo x m
  | .rdn, false => CutTo x m
  | .rdn, true => RaisedTo x m

/-- What holds of a number that is cut, raised or rounded to the nearest holds of one rounded in any mode. -/
theorem GridRound.elim {P : Prop} {rm : Rm} {neg : Bool} {x : ℝ} {m : ℕ} (h : GridRound rm neg x m) (hn : NearestTo x m → P) (hc : CutTo x m → P) (hr : RaisedTo x m → P) : P := by
  match rm, neg, h with
  | .rne, _, h => exact hn h
  | .rtz, _, h => exact hc h
  | .rup, false, h => exact hr h
  | .rup, true, h => exact hc h
  | .rdn, false, h => exact hc h
  | .rdn, true, h => exact hr h

/-! ### Bounds -/

/-- A whole number that `x` does not pass is not passed by what `x` is rounded to. -/
theorem GridRound.le_of_le {rm : Rm} {neg : Bool} {x : ℝ} {m n : ℕ} (h : GridRound rm neg x m) (hx : x ≤ n) : m ≤ n := by
  by_contra hlt
  have hge : (n : ℝ) + 1 ≤ m := by exact_mod_cast Nat.lt_of_not_le hlt
  refine h.elim (fun h => ?_) (fun h => ?_) (fun h => ?_)
  · have := (abs_le.mp h.1).2
    linarith
  · have := h.1
    linarith
  · have := h.2
    linarith

theorem GridRound.ge_of_ge {rm : Rm} {neg : Bool} {x : ℝ} {m n : ℕ} (h : GridRound rm neg x m) (hx : (n : ℝ) ≤ x) : n ≤ m := by
  by_contra hlt
  have hge : (m : ℝ) + 1 ≤ n := by exact_mod_cast Nat.lt_of_not_le hlt
  refine h.elim (fun h => ?_) (fun h => ?_) (fun h => ?_)
  · have := (abs_le.mp h.1).1
    linarith
  · have := h.2
    linarith
  · have := h.1
    linarith

/-- A magnitude below `n` is rounded to `n` from these on. -/
def Reaches (rm : Rm) (neg : Bool) (x : ℝ) (n : ℕ) : Prop :=
  match rm, neg with
  | .rne, _ => (n : ℝ) - 1 / 2 ≤ x
  | .rtz, _ => False
  | .rup, false => (n : ℝ) - 1 < x
  | .rup, true => False
  | .rdn, false => False
  | .rdn, true => (n : ℝ) - 1 < x

theorem NearestTo.reaches_iff {x : ℝ} {m n : ℕ} (h : NearestTo x m) (hx : x < n) (hn : n % 2 = 0) : m = n ↔ (n : ℝ) - 1 / 2 ≤ x := by
  obtain ⟨hlo, hhi⟩ := abs_le.mp h.1
  constructor
  · rintro rfl
    linarith
  · intro hle
    have h1 : (m : ℝ) < n + 1 := by linarith
    have h2 : (n : ℝ) - 1 ≤ m := by linarith
    have h1' : m < n + 1 := by exact_mod_cast h1
    have h2' : n ≤ m + 1 := by
      have : (n : ℝ) ≤ m + 1 := by linarith
      exact_mod_cast this
    by_contra hne
    have hm : n = m + 1 := by omega
    have hmr : (n : ℝ) = m + 1 := by exact_mod_cast hm
    have htie : |(m : ℝ) - x| = 1 / 2 := by
      rw [abs_eq (by norm_num)]
      right
      linarith
    have := h.2 htie
    omega

theorem CutTo.ne {x : ℝ} {m n : ℕ} (h : CutTo x m) (hx : x < n) : m ≠ n := by
  rintro rfl
  exact absurd h.1 (not_le.mpr hx)

theorem RaisedTo.reaches_iff {x : ℝ} {m n : ℕ} (h : RaisedTo x m) (hx : x < n) : m = n ↔ (n : ℝ) - 1 < x := by
  obtain ⟨hlo, hhi⟩ := h
  constructor
  · rintro rfl
    linarith
  · intro hlt
    have h1 : (m : ℝ) < n + 1 := by linarith
    have h2 : (n : ℝ) < m + 1 := by linarith
    have h1' : m < n + 1 := by exact_mod_cast h1
    have h2' : n < m + 1 := by exact_mod_cast h2
    omega

theorem GridRound.reaches_iff {rm : Rm} {neg : Bool} {x : ℝ} {m n : ℕ} (h : GridRound rm neg x m) (hx : x < n) (hn : n % 2 = 0) : m = n ↔ Reaches rm neg x n := by
  match rm, neg, h with
  | .rne, _, h => exact NearestTo.reaches_iff h hx hn
  | .rtz, _, h => exact iff_of_false (CutTo.ne h hx) id
  | .rup, false, h => exact RaisedTo.reaches_iff h hx
  | .rup, true, h => exact iff_of_false (CutTo.ne h hx) id
  | .rdn, false, h => exact iff_of_false (CutTo.ne h hx) id
  | .rdn, true, h => exact RaisedTo.reaches_iff h hx

/-! ### Numbers that round alike -/

/-- Two numbers that lie alike to every half of a whole number. -/
def SameHalves (x y : ℝ) : Prop := ∀ h : ℤ, ((h : ℝ) ≤ 2 * x ↔ (h : ℝ) ≤ 2 * y) ∧ (2 * x ≤ h ↔ 2 * y ≤ h)

theorem SameHalves.whole_le {x y : ℝ} (h : SameHalves x y) (n : ℤ) : ((n : ℝ) ≤ x ↔ (n : ℝ) ≤ y) ∧ (x ≤ n ↔ y ≤ n) := by
  obtain ⟨h1, h2⟩ := h (2 * n)
  push_cast at h1 h2
  refine ⟨⟨fun k => ?_, fun k => ?_⟩, ⟨fun k => ?_, fun k => ?_⟩⟩
  · have := h1.mp (by linarith); linarith
  · have := h1.mpr (by linarith); linarith
  · have := h2.mp (by linarith); linarith
  · have := h2.mpr (by linarith); linarith

theorem SameHalves.eq_whole {x y : ℝ} (h : SameHalves x y) (n : ℕ) : (n : ℝ) = x ↔ (n : ℝ) = y := by
  obtain ⟨h1, h2⟩ := h.whole_le n
  push_cast at h1 h2
  constructor
  · intro k
    exact le_antisymm (h1.mp k.le) (h2.mp k.ge)
  · intro k
    exact le_antisymm (h1.mpr k.le) (h2.mpr k.ge)

theorem SameHalves.cutTo {x y : ℝ} (h : SameHalves x y) {m : ℕ} (hm : CutTo x m) : CutTo y m := by
  have h1 := (h.whole_le m).1
  have h2 := (h.whole_le (m + 1)).1
  push_cast at h1 h2
  exact ⟨h1.mp hm.1, lt_of_not_ge fun hle => absurd (h2.mpr hle) (not_le.mpr hm.2)⟩

theorem SameHalves.raisedTo {x y : ℝ} (h : SameHalves x y) {m : ℕ} (hm : RaisedTo x m) : RaisedTo y m := by
  have h1 := (h.whole_le m).2
  have h2 := (h.whole_le (m - 1)).2
  push_cast at h1 h2
  refine ⟨h1.mp hm.1, ?_⟩
  have hlt : ¬ y ≤ (m : ℝ) - 1 := fun hle => by
    have := h2.mpr hle
    have := hm.2
    linarith
  linarith [not_le.mp hlt]

theorem nearest_iff {x : ℝ} {m : ℕ} : NearestTo x m ↔ (((2 * m - 1 : ℤ) : ℝ) ≤ 2 * x ∧ 2 * x ≤ ((2 * m + 1 : ℤ) : ℝ)) ∧
    ((2 * x ≤ ((2 * m - 1 : ℤ) : ℝ) ∨ ((2 * m + 1 : ℤ) : ℝ) ≤ 2 * x) → m % 2 = 0) := by
  push_cast
  rw [NearestTo, abs_le]
  constructor
  · rintro ⟨⟨h1, h2⟩, h3⟩
    refine ⟨⟨by linarith, by linarith⟩, fun h => h3 ?_⟩
    rw [abs_eq (by norm_num)]
    rcases h with h | h
    · left; linarith
    · right; linarith
  · rintro ⟨⟨h1, h2⟩, h3⟩
    refine ⟨⟨by linarith, by linarith⟩, fun h => h3 ?_⟩
    rcases (abs_eq (by norm_num)).mp h with h | h
    · left; linarith
    · right; linarith

theorem SameHalves.nearestTo {x y : ℝ} (h : SameHalves x y) {m : ℕ} (hm : NearestTo x m) : NearestTo y m := by
  rw [nearest_iff] at hm ⊢
  rw [← (h (2 * m - 1)).1, ← (h (2 * m - 1)).2, ← (h (2 * m + 1)).1, ← (h (2 * m + 1)).2]
  exact hm

theorem SameHalves.gridRound {x y : ℝ} (h : SameHalves x y) {rm : Rm} {neg : Bool} {m : ℕ} (hm : GridRound rm neg x m) : GridRound rm neg y m := by
  match rm, neg, hm with
  | .rne, _, hm => exact h.nearestTo hm
  | .rtz, _, hm => exact h.cutTo hm
  | .rup, false, hm => exact h.raisedTo hm
  | .rup, true, hm => exact h.cutTo hm
  | .rdn, false, hm => exact h.cutTo hm
  | .rdn, true, hm => exact h.raisedTo hm

theorem SameHalves.refl (x : ℝ) : SameHalves x x := fun _ => ⟨Iff.rfl, Iff.rfl⟩

/-! ### Rounding to an integer -/

/-- A magnitude rounded on the grid of whole numbers is a rounded integer. -/
theorem GridRound.roundedInt {rm : Rm} {neg : Bool} {x : ℝ} {m : ℕ} (h : GridRound rm neg x m) (hx : 0 ≤ x) :
    RoundedInt rm (signOf neg * x) (if neg then -(m : ℤ) else m) := by
  have hm : (0 : ℝ) ≤ m := Nat.cast_nonneg m
  have cutPos (h : CutTo x m) : |(m : ℝ)| ≤ |x| ∧ |x| < |(m : ℝ)| + 1 := by
    rw [abs_of_nonneg hm, abs_of_nonneg hx]
    exact h
  cases neg with
  | false =>
    simp only [signOf, Bool.false_eq_true, if_false, one_mul]
    match rm, h with
    | .rne, h => exact ⟨by simpa using h.1, fun k => by have := h.2 (by simpa using k); omega⟩
    | .rtz, h => exact ⟨(by simpa using (cutPos h).1), by simpa using (cutPos h).2, by simpa using mul_nonneg hm hx⟩
    | .rup, h => exact ⟨by simpa using h.1, by simpa using h.2⟩
    | .rdn, h => exact ⟨by simpa using h.1, by simpa using h.2⟩
  | true =>
    simp only [signOf, if_true, neg_mul, one_mul]
    have habs : |((-(m : ℤ) : ℤ) : ℝ) - -x| = |(m : ℝ) - x| := by
      push_cast
      rw [← abs_neg]
      congr 1
      ring
    match rm, h with
    | .rne, h => exact ⟨by rw [habs]; exact h.1, fun k => by have := h.2 (by rw [← habs]; exact k); omega⟩
    | .rtz, h =>
      refine ⟨?_, ?_, ?_⟩
      · push_cast
        rw [abs_neg, abs_neg]
        exact (cutPos h).1
      · push_cast
        rw [abs_neg, abs_neg]
        exact (cutPos h).2
      · push_cast
        rw [neg_mul_neg]
        exact mul_nonneg hm hx
    | .rup, h =>
      obtain ⟨h1, h2⟩ := h
      exact ⟨by push_cast; linarith, by push_cast; linarith⟩
    | .rdn, h =>
      obtain ⟨h1, h2⟩ := h
      exact ⟨by push_cast; linarith, by push_cast; linarith⟩

end Sys2Proof.Machine
end

section
/-! SUPPORT. What `roundTo` and `leadExp` compute (R106): a fraction times a power of two, rounded on a grid, and the exponent of its leading bit. -/
namespace Sys2Proof.Machine

/-- The number num/den · 2^e. -/
noncomputable def ratio (num den : ℕ) (e : ℤ) : ℝ := (num : ℝ) / den * 2 ^ e

theorem ratio_nonneg (num den : ℕ) (e : ℤ) : 0 ≤ ratio num den e := mul_nonneg (div_nonneg (Nat.cast_nonneg _) (Nat.cast_nonneg _)) (two_zpow_pos e).le

theorem ratio_pos {num den : ℕ} (hn : num ≠ 0) (hd : den ≠ 0) (e : ℤ) : 0 < ratio num den e :=
  mul_pos (div_pos (by exact_mod_cast Nat.pos_of_ne_zero hn) (by exact_mod_cast Nat.pos_of_ne_zero hd)) (two_zpow_pos e)

theorem two_zpow_toNat {e : ℤ} (h : 0 ≤ e) : ((2 ^ e.toNat : ℕ) : ℝ) = (2 : ℝ) ^ e := by
  rw [Nat.cast_pow, Nat.cast_ofNat, ← zpow_natCast, Int.toNat_of_nonneg h]

theorem two_zpow_sub (a b : ℤ) : (2 : ℝ) ^ (a - b) = 2 ^ a / 2 ^ b := zpow_sub₀ (by norm_num) a b

/-- The parts in units of the grid are the number's. -/
theorem inUnits_value {num den : ℕ} {e q : ℤ} (hd : den ≠ 0) :
    0 < (inUnits num den e q).2.2 ∧ (inUnits num den e q).2.1 < (inUnits num den e q).2.2 ∧
      ((inUnits num den e q).1 : ℝ) + ((inUnits num den e q).2.1 : ℝ) / (inUnits num den e q).2.2 = ratio num den e / 2 ^ q := by
  have parts (n d : ℕ) (hd : 0 < d) : ((n / d : ℕ) : ℝ) + ((n % d : ℕ) : ℝ) / d = (n : ℝ) / d := by
    have hd' : (d : ℝ) ≠ 0 := by exact_mod_cast hd.ne'
    rw [eq_div_iff hd', add_mul, div_mul_cancel₀ _ hd']
    have := Nat.div_add_mod n d
    rw [mul_comm] at this
    exact_mod_cast this
  have hden : (den : ℝ) ≠ 0 := by exact_mod_cast hd
  have hq : (2 : ℝ) ^ q ≠ 0 := (two_zpow_pos q).ne'
  have he : (2 : ℝ) ^ e ≠ 0 := (two_zpow_pos e).ne'
  unfold inUnits
  by_cases h : 0 ≤ e - q
  · simp only [if_pos h]
    refine ⟨Nat.pos_of_ne_zero hd, Nat.mod_lt _ (Nat.pos_of_ne_zero hd), ?_⟩
    rw [parts _ _ (Nat.pos_of_ne_zero hd), Nat.cast_mul, two_zpow_toNat h, two_zpow_sub, ratio]
    field_simp
  · simp only [if_neg h]
    have hpos : 0 < den * 2 ^ (q - e).toNat := Nat.mul_pos (Nat.pos_of_ne_zero hd) (Nat.two_pow_pos _)
    refine ⟨hpos, Nat.mod_lt _ hpos, ?_⟩
    rw [parts _ _ hpos, Nat.cast_mul, two_zpow_toNat (by omega), two_zpow_sub, ratio]
    field_simp

/-- A fraction in parts is rounded as its remainder says. -/
theorem roundUp_grid (rm : Rm) (neg : Bool) {n r d : ℕ} (hr : r < d) : GridRound rm neg ((n : ℝ) + (r : ℝ) / d) (n + b2n (roundUp rm neg n r d)) := by
  have hd : (0 : ℝ) < d := by exact_mod_cast (Nat.zero_le r).trans_lt hr
  have hlo : (0 : ℝ) ≤ (r : ℝ) / d := div_nonneg (Nat.cast_nonneg _) hd.le
  have hhi : (r : ℝ) / d < 1 := (div_lt_one hd).mpr (by exact_mod_cast hr)
  have cut : CutTo ((n : ℝ) + (r : ℝ) / d) (n + b2n false) := by
    have h0 : ((n + b2n false : ℕ) : ℝ) = n := by simp [b2n]
    exact ⟨by rw [h0]; linarith, by rw [h0]; linarith⟩
  have raised : RaisedTo ((n : ℝ) + (r : ℝ) / d) (n + b2n (r != 0)) := by
    by_cases h : r = 0
    · simp [RaisedTo, h, b2n]
    · have h1 : ((n + b2n (r != 0) : ℕ) : ℝ) = n + 1 := by simp [h, b2n]
      have hpos : (0 : ℝ) < (r : ℝ) / d := div_pos (by exact_mod_cast Nat.pos_of_ne_zero h) hd
      exact ⟨by rw [h1]; linarith, by rw [h1]; linarith⟩
  match rm, neg with
  | .rne, _ =>
    have hlt : (d < 2 * r) ↔ (1 : ℝ) / 2 < (r : ℝ) / d := by
      rw [lt_div_iff₀ hd]
      constructor
      · intro h
        have : (d : ℝ) < 2 * r := by exact_mod_cast h
        linarith
      · intro h
        have : (d : ℝ) < 2 * r := by linarith
        exact_mod_cast this
    have heq : (2 * r = d) ↔ (r : ℝ) / d = 1 / 2 := by
      rw [div_eq_iff hd.ne']
      constructor
      · intro h
        have : (2 : ℝ) * r = d := by exact_mod_cast h
        linarith
      · intro h
        have : (2 : ℝ) * r = d := by linarith
        exact_mod_cast this
    change NearestTo _ (n + b2n (decide (d < 2 * r) || (2 * r == d && n % 2 == 1)))
    rcases lt_trichotomy ((r : ℝ) / d) (1 / 2) with h | h | h
    · have h1 : ¬ d < 2 * r := fun k => absurd (hlt.mp k) (not_lt.mpr h.le)
      have h2 : ¬ 2 * r = d := fun k => absurd (heq.mp k) h.ne
      simp only [h1, h2, decide_false, beq_eq_false_iff_ne.mpr h2, Bool.false_and, Bool.or_self, b2n, Bool.false_eq_true, if_false, Nat.add_zero]
      refine ⟨?_, fun k => ?_⟩
      · rw [abs_le]
        constructor <;> linarith
      · rcases (abs_eq (by norm_num)).mp k with k | k <;> linarith
    · have h1 : ¬ d < 2 * r := fun k => absurd (hlt.mp k) (not_lt.mpr h.le)
      have h2 : (2 * r == d) = true := beq_iff_eq.mpr (heq.mpr h)
      simp only [h1, h2, decide_false, Bool.true_and, Bool.false_or]
      rcases Nat.mod_two_eq_zero_or_one n with hn | hn
      · rw [hn]
        refine ⟨?_, fun _ => ?_⟩
        · rw [h, abs_le]
          simp only [b2n]
          norm_num
        · simpa [b2n] using hn
      · rw [hn]
        refine ⟨?_, fun _ => ?_⟩
        · rw [h, abs_le]
          simp only [b2n]
          norm_num
        · simp only [b2n]
          simp
          omega
    · have h1 : d < 2 * r := hlt.mpr h
      have hb : ((n + b2n true : ℕ) : ℝ) = n + 1 := by simp [b2n]
      simp only [h1, decide_true, Bool.true_or]
      refine ⟨?_, fun k => ?_⟩
      · rw [hb, abs_le]
        constructor <;> linarith
      · rw [hb] at k
        rcases (abs_eq (by norm_num)).mp k with k | k <;> linarith
  | .rtz, _ => exact cut
  | .rup, false =>
    have h : roundUp .rup false n r d = (r != 0) := by simp [roundUp]
    rw [h]
    exact raised
  | .rup, true =>
    have h : roundUp .rup true n r d = false := by simp [roundUp]
    rw [h]
    exact cut
  | .rdn, false =>
    have h : roundUp .rdn false n r d = false := by simp [roundUp]
    rw [h]
    exact cut
  | .rdn, true =>
    have h : roundUp .rdn true n r d = (r != 0) := by simp [roundUp]
    rw [h]
    exact raised

/-- `roundTo` rounds on the grid of multiples of 2^q. -/
theorem roundTo_grid (rm : Rm) (neg : Bool) {num den : ℕ} (e q : ℤ) (hd : den ≠ 0) : GridRound rm neg (ratio num den e / 2 ^ q) (roundTo rm neg num den e q).1 := by
  obtain ⟨_, hlt, hval⟩ := inUnits_value (num := num) (e := e) (q := q) hd
  rw [← hval]
  exact roundUp_grid rm neg hlt

/-- A number that is rounded to itself is a whole number. -/
theorem roundTo_exact (rm : Rm) (neg : Bool) {num den : ℕ} (e q : ℤ) (hd : den ≠ 0) :
    (roundTo rm neg num den e q).2 = true ↔ ((roundTo rm neg num den e q).1 : ℝ) ≠ ratio num den e / 2 ^ q := by
  obtain ⟨hpos, hlt, hval⟩ := inUnits_value (num := num) (e := e) (q := q) hd
  have hgrid := roundTo_grid rm neg (num := num) e q hd
  have hmod : (roundTo rm neg num den e q).2 = ((inUnits num den e q).2.1 != 0) := rfl
  rw [hmod, bne_iff_ne, not_iff_not]
  have hd' : (0 : ℝ) < (inUnits num den e q).2.2 := by exact_mod_cast hpos
  constructor
  · intro h
    rw [h, Nat.cast_zero, zero_div, add_zero] at hval
    rw [← hval] at hgrid ⊢
    exact_mod_cast Nat.le_antisymm (hgrid.le_of_le le_rfl) (hgrid.ge_of_ge le_rfl)
  · intro h
    have hfrac : ((inUnits num den e q).2.1 : ℝ) / (inUnits num den e q).2.2 = ((roundTo rm neg num den e q).1 : ℤ) - ((inUnits num den e q).1 : ℤ) := by
      push_cast
      linarith
    have h0 : (0 : ℝ) ≤ ((inUnits num den e q).2.1 : ℝ) / (inUnits num den e q).2.2 := div_nonneg (Nat.cast_nonneg _) hd'.le
    have h1 : ((inUnits num den e q).2.1 : ℝ) / (inUnits num den e q).2.2 < 1 := (div_lt_one hd').mpr (by exact_mod_cast hlt)
    rw [hfrac] at h0 h1
    have h0' : (0 : ℤ) ≤ ((roundTo rm neg num den e q).1 : ℤ) - ((inUnits num den e q).1 : ℤ) := by exact_mod_cast h0
    have h1' : ((roundTo rm neg num den e q).1 : ℤ) - ((inUnits num den e q).1 : ℤ) < 1 := by exact_mod_cast h1
    have hz : ((roundTo rm neg num den e q).1 : ℤ) - ((inUnits num den e q).1 : ℤ) = 0 := by omega
    have hzr : ((inUnits num den e q).2.1 : ℝ) / (inUnits num den e q).2.2 = 0 := by
      rw [hfrac]
      exact_mod_cast hz
    rcases div_eq_zero_iff.mp hzr with h | h
    · exact_mod_cast h
    · exact absurd h hd'.ne'

/-! ### The exponent of the leading bit -/

theorem log2_bounds {n : ℕ} (h : n ≠ 0) : (2 : ℝ) ^ (Nat.log2 n : ℤ) ≤ n ∧ (n : ℝ) < 2 ^ ((Nat.log2 n : ℤ) + 1) := by
  have h1 := Nat.log2_self_le h
  have h2 := Nat.lt_log2_self (n := n)
  refine ⟨?_, ?_⟩
  · rw [zpow_natCast]
    exact_mod_cast h1
  · have : ((Nat.log2 n : ℤ) + 1) = ((Nat.log2 n + 1 : ℕ) : ℤ) := by push_cast; rfl
    rw [this, zpow_natCast]
    exact_mod_cast h2

/-- The fraction is at least a power of two. -/
theorem ratio_ge_iff {num den : ℕ} (hd : den ≠ 0) (l : ℤ) :
    (if 0 ≤ l then decide (den * 2 ^ l.toNat ≤ num) else decide (den ≤ num * 2 ^ (-l).toNat)) = true ↔ (2 : ℝ) ^ l ≤ (num : ℝ) / den := by
  have hd' : (0 : ℝ) < den := by exact_mod_cast Nat.pos_of_ne_zero hd
  rw [le_div_iff₀ hd']
  split
  next h =>
    rw [decide_eq_true_eq, ← two_zpow_toNat h]
    constructor
    · intro k
      rw [mul_comm]
      exact_mod_cast k
    · intro k
      rw [mul_comm] at k
      exact_mod_cast k
  next h =>
    have hl : (2 : ℝ) ^ l = ((2 ^ (-l).toNat : ℕ) : ℝ)⁻¹ := by
      rw [two_zpow_toNat (by omega), zpow_neg, inv_inv]
    have hp : (0 : ℝ) < ((2 ^ (-l).toNat : ℕ) : ℝ) := by exact_mod_cast Nat.two_pow_pos _
    rw [decide_eq_true_eq, hl, inv_mul_le_iff₀ hp]
    constructor
    · intro k
      rw [mul_comm]
      exact_mod_cast k
    · intro k
      rw [mul_comm] at k
      exact_mod_cast k

theorem leadExp_bounds {num den : ℕ} (hn : num ≠ 0) (hd : den ≠ 0) (e : ℤ) :
    (2 : ℝ) ^ leadExp num den e ≤ ratio num den e ∧ ratio num den e < 2 ^ (leadExp num den e + 1) := by
  obtain ⟨n1, n2⟩ := log2_bounds hn
  obtain ⟨d1, d2⟩ := log2_bounds hd
  have hd' : (0 : ℝ) < den := by exact_mod_cast Nat.pos_of_ne_zero hd
  have h2 : (2 : ℝ) ≠ 0 := by norm_num
  have hupper : (num : ℝ) / den < 2 ^ ((Nat.log2 num : ℤ) - (Nat.log2 den : ℤ) + 1) := by
    rw [div_lt_iff₀ hd']
    calc (num : ℝ) < 2 ^ ((Nat.log2 num : ℤ) + 1) := n2
      _ = 2 ^ ((Nat.log2 num : ℤ) - (Nat.log2 den : ℤ) + 1) * 2 ^ (Nat.log2 den : ℤ) := by rw [← zpow_add₀ h2]; congr 1; ring
      _ ≤ _ := mul_le_mul_of_nonneg_left d1 (two_zpow_pos _).le
  have hlower : (2 : ℝ) ^ ((Nat.log2 num : ℤ) - (Nat.log2 den : ℤ) - 1) ≤ (num : ℝ) / den := by
    rw [le_div_iff₀ hd']
    calc (2 : ℝ) ^ ((Nat.log2 num : ℤ) - (Nat.log2 den : ℤ) - 1) * den ≤ 2 ^ ((Nat.log2 num : ℤ) - (Nat.log2 den : ℤ) - 1) * 2 ^ ((Nat.log2 den : ℤ) + 1) :=
          mul_le_mul_of_nonneg_left d2.le (two_zpow_pos _).le
      _ = 2 ^ (Nat.log2 num : ℤ) := by rw [← zpow_add₀ h2]; congr 1; ring
      _ ≤ _ := n1
  have hge := ratio_ge_iff (num := num) hd ((Nat.log2 num : ℤ) - (Nat.log2 den : ℤ))
  have hscale (l : ℤ) : (2 : ℝ) ^ (l + e) = 2 ^ l * 2 ^ e := zpow_add₀ h2 l e
  have hpos := two_zpow_pos e
  unfold leadExp ratio
  dsimp only
  generalize (if 0 ≤ (Nat.log2 num : ℤ) - (Nat.log2 den : ℤ) then decide (den * 2 ^ ((Nat.log2 num : ℤ) - (Nat.log2 den : ℤ)).toNat ≤ num)
    else decide (den ≤ num * 2 ^ (-((Nat.log2 num : ℤ) - (Nat.log2 den : ℤ))).toNat)) = ge at hge ⊢
  generalize (Nat.log2 num : ℤ) - (Nat.log2 den : ℤ) = l at hupper hlower hge ⊢
  cases ge with
  | true =>
    have hl := hge.mp rfl
    simp only [if_true]
    rw [hscale, show l + e + 1 = (l + 1) + e by ring, hscale]
    exact ⟨mul_le_mul_of_nonneg_right hl hpos.le, mul_lt_mul_of_pos_right hupper hpos⟩
  | false =>
    have hl : (num : ℝ) / den < 2 ^ l := not_le.mp fun k => Bool.false_ne_true (hge.mpr k)
    simp only [Bool.false_eq_true, if_false]
    rw [hscale, show l - 1 + e + 1 = l + e by ring, hscale]
    exact ⟨mul_le_mul_of_nonneg_right hlower hpos.le, mul_lt_mul_of_pos_right hl hpos⟩

end Sys2Proof.Machine
end

section
/-! SUPPORT. Rounding to a format (R105, R106, R109): overflow, tininess, the bits of the result, and why no value of the format is a better one. -/
namespace Sys2Proof.Machine

/-! ### Overflow and tininess -/

/-- A value rounds, with an unbounded exponent, to a magnitude of at least 2^E. -/
def Past (p : ℕ) (rm : Rm) (v : ℝ) (E : ℤ) : Prop :=
  match rm with
  | .rne => (2 : ℝ) ^ E - 2 ^ (E - 1 - p) ≤ |v|
  | .rtz => (2 : ℝ) ^ E ≤ |v|
  | .rup => (2 : ℝ) ^ E - 2 ^ (E - p) < v ∨ (2 : ℝ) ^ E ≤ -v
  | .rdn => (2 : ℝ) ^ E ≤ v ∨ (2 : ℝ) ^ E - 2 ^ (E - p) < -v

theorem overflows_iff {p : ℕ} (hp : p ≤ 127) (rm : Rm) (v : ℝ) : Overflows p rm v ↔ Past p rm v 128 := by
  have h128 : (2 : ℝ) ^ (128 : ℤ) = 2 ^ 128 := by norm_cast
  have h1 : (2 : ℝ) ^ ((128 : ℤ) - p) = 2 ^ (128 - p) := by
    rw [← zpow_natCast]
    congr 1
    omega
  have h2 : (2 : ℝ) ^ ((128 : ℤ) - 1 - p) = 2 ^ (127 - p) := by
    rw [← zpow_natCast]
    congr 1
    omega
  cases rm <;> simp only [Overflows, Past, h128, h1, h2]

theorem tiny_iff (p : ℕ) (rm : Rm) (v : ℝ) : Tiny p rm v ↔ ¬ Past p rm v (-126) := by
  have h1 : (-127 - p : ℤ) = -126 - 1 - p := by ring
  cases rm with
  | rne => simp only [Tiny, Past, h1, not_le]
  | rtz => simp only [Tiny, Past, not_le]
  | rup => simp only [Tiny, Past, not_or, not_lt, not_le]
  | rdn =>
    simp only [Tiny, Past, not_or, not_lt, not_le]

theorem signOf_mul_self (s : Bool) : signOf s * signOf s = 1 := by cases s <;> simp [signOf]
theorem abs_signOf (s : Bool) : |signOf s| = 1 := by cases s <;> simp [signOf]
theorem abs_signOf_mul (s : Bool) (x : ℝ) : |signOf s * x| = |x| := by rw [abs_mul, abs_signOf, one_mul]

/-- The exponent of what a magnitude of exponent `k` is rounded to, of precision `p` with `f` for its digits. -/
def carried (p : ℕ) (k : ℤ) (f : ℕ) : ℤ := if f = 2 ^ p then k + 1 else k

/-- The place of a magnitude `A` of exponent `k` in units of its last digit. -/
theorem digits_bounds {p : ℕ} (hp : 1 ≤ p) {A : ℝ} {k : ℤ} (hlo : (2 : ℝ) ^ k ≤ A) (hhi : A < 2 ^ (k + 1)) :
    ((2 ^ (p - 1) : ℕ) : ℝ) ≤ A / 2 ^ (k - (p - 1 : ℕ)) ∧ A / 2 ^ (k - (p - 1 : ℕ)) < ((2 ^ p : ℕ) : ℝ) := by
  have h2 : (2 : ℝ) ≠ 0 := by norm_num
  have hU := two_zpow_pos (k - (p - 1 : ℕ))
  refine ⟨?_, ?_⟩
  · rw [le_div_iff₀ hU, Nat.cast_pow, Nat.cast_ofNat, ← zpow_natCast, ← zpow_add₀ h2]
    rwa [show ((p - 1 : ℕ) : ℤ) + (k - (p - 1 : ℕ)) = k by ring]
  · rw [div_lt_iff₀ hU, Nat.cast_pow, Nat.cast_ofNat, ← zpow_natCast, ← zpow_add₀ h2]
    rwa [show (p : ℤ) + (k - (p - 1 : ℕ)) = k + 1 by omega]

theorem two_zpow_mono {a b : ℤ} (h : a ≤ b) : (2 : ℝ) ^ a ≤ 2 ^ b := zpow_le_zpow_right₀ (by norm_num) h

theorem past_of_ge {p : ℕ} {rm : Rm} {neg : Bool} {A : ℝ} {E : ℤ} (h : (2 : ℝ) ^ E ≤ A) : Past p rm (signOf neg * A) E := by
  have hA : 0 ≤ A := (two_zpow_pos E).le.trans h
  have h1 := two_zpow_pos (E - 1 - p)
  have h2 := two_zpow_pos (E - p)
  cases rm with
  | rne =>
    change _ ≤ |_|
    rw [abs_signOf_mul, abs_of_nonneg hA]
    linarith
  | rtz =>
    change _ ≤ |_|
    rw [abs_signOf_mul, abs_of_nonneg hA]
    exact h
  | rup =>
    cases neg with
    | false =>
      left
      simp only [signOf, Bool.false_eq_true, if_false]
      linarith
    | true =>
      right
      simp only [signOf, if_true]
      linarith
  | rdn =>
    cases neg with
    | false =>
      left
      simp only [signOf, Bool.false_eq_true, if_false]
      linarith
    | true =>
      right
      simp only [signOf, if_true]
      linarith

theorem not_past_of_lt {p : ℕ} (hp : 1 ≤ p) {rm : Rm} {neg : Bool} {A : ℝ} (hA : 0 ≤ A) {E : ℤ} (h : A < 2 ^ (E - 1)) : ¬ Past p rm (signOf neg * A) E := by
  have hhalf : (2 : ℝ) ^ E = 2 * 2 ^ (E - 1) := by
    rw [two_zpow_sub]
    norm_num
    ring
  have h1 : (2 : ℝ) ^ (E - p) ≤ 2 ^ (E - 1) := two_zpow_mono (by omega)
  have h2 : (2 : ℝ) ^ (E - 1 - p) ≤ 2 ^ (E - 1) := two_zpow_mono (by omega)
  cases rm with
  | rne =>
    change ¬ _ ≤ |_|
    rw [abs_signOf_mul, abs_of_nonneg hA]
    linarith
  | rtz =>
    change ¬ _ ≤ |_|
    rw [abs_signOf_mul, abs_of_nonneg hA]
    linarith
  | rup =>
    cases neg <;> simp only [Past, signOf, Bool.false_eq_true, if_false, if_true, not_or, not_lt, not_le] <;> constructor <;> linarith
  | rdn =>
    cases neg <;> simp only [Past, signOf, Bool.false_eq_true, if_false, if_true, not_or, not_lt, not_le] <;> constructor <;> linarith

/-- A magnitude below 2^E rounds to it where its digits do to 2^p. -/
theorem past_iff_reaches {p : ℕ} {rm : Rm} {neg : Bool} {A : ℝ} {E : ℤ} (hA : 0 ≤ A) (hlt : A < 2 ^ E) :
    Past p rm (signOf neg * A) E ↔ Reaches rm neg (A / 2 ^ (E - p)) (2 ^ p) := by
  have hU := two_zpow_pos (E - p)
  have hE : (2 : ℝ) ^ E = ((2 ^ p : ℕ) : ℝ) * 2 ^ (E - p) := by
    rw [Nat.cast_pow, Nat.cast_ofNat, ← zpow_natCast, ← zpow_add₀ (by norm_num : (2 : ℝ) ≠ 0)]
    congr 1
    ring
  have hhalf : (2 : ℝ) ^ (E - 1 - p) = 1 / 2 * 2 ^ (E - p) := by
    rw [show E - 1 - p = (E - p) - 1 by ring, two_zpow_sub]
    norm_num
    ring
  have hlow : ((2 : ℝ) ^ E - 2 ^ (E - p) < A) ↔ ((2 ^ p : ℕ) : ℝ) - 1 < A / 2 ^ (E - p) := by
    rw [lt_div_iff₀ hU, hE, sub_mul, one_mul]
  have hnear : ((2 : ℝ) ^ E - 2 ^ (E - 1 - p) ≤ A) ↔ ((2 ^ p : ℕ) : ℝ) - 1 / 2 ≤ A / 2 ^ (E - p) := by
    rw [le_div_iff₀ hU, hE, hhalf, sub_mul]
  have hle : (2 : ℝ) ^ (E - p) ≤ 2 ^ E := two_zpow_mono (by omega)
  have hpos := two_zpow_pos E
  cases rm with
  | rne =>
    change _ ≤ |_| ↔ _
    rw [abs_signOf_mul, abs_of_nonneg hA]
    exact hnear
  | rtz =>
    change _ ≤ |_| ↔ _
    rw [abs_signOf_mul, abs_of_nonneg hA]
    exact iff_of_false (not_le.mpr hlt) id
  | rup =>
    cases neg with
    | false =>
      simp only [Past, signOf, Bool.false_eq_true, if_false, one_mul]
      refine Iff.trans ⟨fun h => h.resolve_right ?_, .inl⟩ hlow
      linarith
    | true =>
      simp only [Past, signOf, if_true, neg_mul, one_mul, neg_neg]
      refine iff_of_false (not_or.mpr ⟨?_, not_le.mpr hlt⟩) id
      linarith
  | rdn =>
    cases neg with
    | false =>
      simp only [Past, signOf, Bool.false_eq_true, if_false, one_mul]
      refine iff_of_false (not_or.mpr ⟨not_le.mpr hlt, ?_⟩) id
      linarith
    | true =>
      simp only [Past, signOf, if_true, neg_mul, one_mul, neg_neg]
      refine Iff.trans ⟨fun h => h.resolve_left ?_, .inr⟩ hlow
      linarith

theorem past_iff {p : ℕ} (hp : 1 ≤ p) {rm : Rm} {neg : Bool} {A : ℝ} {k : ℤ} {f : ℕ} (hlo : (2 : ℝ) ^ k ≤ A) (hhi : A < 2 ^ (k + 1))
    (hf : GridRound rm neg (A / 2 ^ (k - (p - 1 : ℕ))) f) (E : ℤ) : Past p rm (signOf neg * A) E ↔ E ≤ carried p k f := by
  have hA : 0 ≤ A := (two_zpow_pos k).le.trans hlo
  have hcarry : k ≤ carried p k f ∧ carried p k f ≤ k + 1 := by
    unfold carried
    split <;> omega
  obtain ⟨_, hdig⟩ := digits_bounds hp hlo hhi
  rcases lt_trichotomy E (k + 1) with h | h | h
  · exact iff_of_true (past_of_ge ((two_zpow_mono (by omega)).trans hlo)) (by omega)
  · subst h
    have hunit : k + 1 - (p : ℤ) = k - (p - 1 : ℕ) := by omega
    have heven : 2 ^ p % 2 = 0 := by
      obtain ⟨q, rfl⟩ : ∃ q, p = q + 1 := ⟨p - 1, by omega⟩
      rw [pow_succ]
      omega
    rw [past_iff_reaches hA hhi, hunit, ← hf.reaches_iff hdig heven, carried]
    split
    next h => exact iff_of_true h le_rfl
    next h => exact iff_of_false h (by omega)
  · exact iff_of_false (not_past_of_lt hp hA (hhi.trans_le (two_zpow_mono (by omega)))) (by omega)

/-! ### The bits of a datum -/

theorem signBit_eq (p : ℕ) (neg : Bool) : signBit p neg = b2n neg * 2 ^ (p + 7) := by cases neg <;> simp [signBit, b2n]

/-- The datum of given parts. -/
theorem fpDec_parts {p ex fr : ℕ} (neg : Bool) (hp : 1 ≤ p) (hex : ex < 255) (hfr : fr < 2 ^ (p - 1)) :
    fpDec p (ex * 2 ^ (p - 1) + fr + signBit p neg) =
      if ex = 0 then .fin neg fr (-(125 + p : Nat)) else .fin neg (2 ^ (p - 1) + fr) ((ex : ℤ) - (126 + p : Nat)) := by
  have hH : 0 < 2 ^ (p - 1) := Nat.two_pow_pos _
  have h8 : 2 ^ (p + 7) = 2 ^ (p - 1) * 256 := by
    rw [show p + 7 = p - 1 + 8 by omega, pow_add]
    norm_num
  have hx : ex * 2 ^ (p - 1) + fr + signBit p neg = fr + 2 ^ (p - 1) * (ex + 256 * b2n neg) := by
    rw [signBit_eq, h8]
    ring
  have hlow : fld (fr + 2 ^ (p - 1) * (ex + 256 * b2n neg)) 0 (p - 1) = fr := by
    rw [fld, pow_zero, Nat.div_one, Nat.add_mul_mod_self_left, Nat.mod_eq_of_lt hfr]
  have hdiv : (fr + 2 ^ (p - 1) * (ex + 256 * b2n neg)) / 2 ^ (p - 1) = ex + 256 * b2n neg := by
    rw [Nat.add_mul_div_left _ _ hH, Nat.div_eq_of_lt hfr, Nat.zero_add]
  have hb : b2n neg < 2 := by cases neg <;> simp [b2n]
  have hmid : fld (fr + 2 ^ (p - 1) * (ex + 256 * b2n neg)) (p - 1) 8 = ex := by
    rw [fld, hdiv]
    omega
  have htop : (fld (fr + 2 ^ (p - 1) * (ex + 256 * b2n neg)) (p + 7) 1 == 1) = neg := by
    have hval : fld (fr + 2 ^ (p - 1) * (ex + 256 * b2n neg)) (p + 7) 1 = b2n neg := by
      rw [fld, h8, ← Nat.div_div_eq_div_mul, hdiv]
      omega
    rw [hval]
    cases neg <;> rfl
  rw [hx]
  unfold fpDec
  simp only [hlow, hmid, htop, hex.ne, if_false]

/-- The bits of a result of `r` units of 2^q. -/
def resultBody (p : ℕ) (q : ℤ) (r : ℕ) : ℕ := (q + (p + 126 : Nat)).toNat * 2 ^ (p - 1) + r - 2 ^ (p - 1)

/-- A result's bits, its datum and its last bit. -/
theorem resultBody_decodes {p : ℕ} (hp : 2 ≤ p) {q : ℤ} {r : ℕ} (neg : Bool) (hq : -(125 + p : ℤ) ≤ q) (hr : r ≤ 2 ^ p)
    (hsub : r < 2 ^ (p - 1) → q = -(125 + p : ℤ)) (hfin : q + (p + 126) + (if r = 2 ^ p then 1 else 0) < 255) :
    resultBody p q r + signBit p neg < 2 ^ (p + 8) ∧ (resultBody p q r + signBit p neg) % 2 = r % 2 ∧
      ∃ m e, fpDec p (resultBody p q r + signBit p neg) = .fin neg m e ∧ (m : ℝ) * 2 ^ e = r * 2 ^ q := by
  obtain ⟨c, hc⟩ : ∃ c : ℕ, q + (p + 126) = c + 1 := ⟨(q + (p + 126) - 1).toNat, by omega⟩
  have hH : 0 < 2 ^ (p - 1) := Nat.two_pow_pos _
  have h2p : 2 ^ p = 2 * 2 ^ (p - 1) := by
    rw [← pow_succ']
    congr 1
    omega
  have h8 : 2 ^ (p + 8) = 512 * 2 ^ (p - 1) := by
    rw [show p + 8 = p - 1 + 9 by omega, pow_add]
    ring
  have hs : signBit p neg = 256 * b2n neg * 2 ^ (p - 1) := by
    rw [signBit_eq, show p + 7 = p - 1 + 8 by omega, pow_add]
    ring
  have hb : b2n neg ≤ 1 := by cases neg <;> simp [b2n]
  have hbody : resultBody p q r = c * 2 ^ (p - 1) + r := by
    have : (q + ((p + 126 : ℕ) : ℤ)).toNat = c + 1 := by push_cast; omega
    rw [resultBody, this, Nat.succ_mul]
    omega
  -- the parts of the result: an exponent field and a fraction
  have parts (ex fr : ℕ) (hex : ex < 255) (hfr : fr < 2 ^ (p - 1)) (heq : c * 2 ^ (p - 1) + r = ex * 2 ^ (p - 1) + fr) :
      resultBody p q r + signBit p neg < 2 ^ (p + 8) ∧ (resultBody p q r + signBit p neg) % 2 = r % 2 ∧ fpDec p (resultBody p q r + signBit p neg) =
        if ex = 0 then .fin neg fr (-(125 + p : Nat)) else .fin neg (2 ^ (p - 1) + fr) ((ex : ℤ) - (126 + p : Nat)) := by
    refine ⟨?_, ?_, ?_⟩
    · rw [hbody, heq, hs, h8]
      have h1 : ex * 2 ^ (p - 1) ≤ 254 * 2 ^ (p - 1) := Nat.mul_le_mul_right _ (by omega)
      have h2 : 256 * b2n neg * 2 ^ (p - 1) ≤ 256 * 2 ^ (p - 1) := Nat.mul_le_mul_right _ (by omega)
      omega
    · obtain ⟨d, hd⟩ : ∃ d, 2 ^ (p - 1) = 2 * d := ⟨2 ^ (p - 2), by rw [← pow_succ']; congr 1; omega⟩
      rw [hbody, hs, hd]
      have h1 : c * (2 * d) = 2 * (c * d) := by ring
      have h2 : 256 * b2n neg * (2 * d) = 2 * (256 * b2n neg * d) := by ring
      omega
    · rw [hbody, heq]
      exact fpDec_parts neg (by omega) hex hfr
  have h2 : (2 : ℝ) ≠ 0 := by norm_num
  by_cases h1 : r < 2 ^ (p - 1)
  · have hq' := hsub h1
    have hc0 : c = 0 := by omega
    obtain ⟨hlt, hpar, hdec⟩ := parts 0 r (by omega) h1 (by rw [hc0])
    refine ⟨hlt, hpar, _, _, hdec.trans (if_pos rfl), ?_⟩
    rw [hq']
    push_cast
    rfl
  · by_cases h3 : r = 2 ^ p
    · rw [if_pos h3] at hfin
      obtain ⟨hlt, hpar, hdec⟩ := parts (c + 2) 0 (by omega) hH (by rw [h3, h2p]; ring)
      refine ⟨hlt, hpar, _, _, hdec.trans (if_neg (by omega)), ?_⟩
      have he : ((c + 2 : ℕ) : ℤ) - (126 + p : ℕ) = q + 1 := by push_cast; omega
      rw [he, zpow_add₀ h2, h3, h2p]
      push_cast
      ring
    · rw [if_neg h3] at hfin
      obtain ⟨hlt, hpar, hdec⟩ := parts (c + 1) (r - 2 ^ (p - 1)) (by omega) (by omega) (by rw [Nat.succ_mul]; omega)
      refine ⟨hlt, hpar, _, _, hdec.trans (if_neg (by omega)), ?_⟩
      have he : ((c + 1 : ℕ) : ℤ) - (126 + p : ℕ) = q := by push_cast; omega
      rw [he, Nat.add_sub_of_le (by omega)]

/-- A finite datum's digits and exponent are within its format. -/
theorem fpDec_fin {p x m : ℕ} {s : Bool} {e : ℤ} (hp : 1 ≤ p) (h : fpDec p x = .fin s m e) : m < 2 ^ p ∧ -(125 + p : ℤ) ≤ e := by
  have hlt := fld_lt x 0 (p - 1)
  have h2p : 2 ^ p = 2 ^ (p - 1) + 2 ^ (p - 1) := by
    rw [← two_mul, ← pow_succ']
    congr 1
    omega
  unfold fpDec at h
  dsimp only at h
  split at h
  · split at h <;> nomatch h
  · split at h
    · injection h with _ hm he
      refine ⟨by omega, ?_⟩
      rw [← he]
      push_cast
      omega
    next hne =>
      injection h with _ hm he
      refine ⟨by omega, ?_⟩
      rw [← he]
      push_cast
      omega

end Sys2Proof.Machine
end

section
/-! SUPPORT. A result is the best value of its format (R106), and `roundFp` makes it (R106, R109). -/
namespace Sys2Proof.Machine

/-! ### No value of the format is better -/

/-- A number that lies on the grid of whole numbers, or within a range that `x` has passed. -/
def NearGrid (x w : ℝ) : Prop := (∃ z : ℤ, w = z) ∨ ∃ L : ℕ, |w| < L ∧ (L : ℝ) ≤ x

theorem NearGrid.abs {x w : ℝ} (h : NearGrid x w) : NearGrid x |w| := by
  rcases h with ⟨z, hz⟩ | ⟨L, hL, hx⟩
  · left
    exact ⟨|z|, by rw [hz, Int.cast_abs]⟩
  · right
    exact ⟨L, by rwa [abs_abs], hx⟩

theorem CutTo.best {x w : ℝ} {r : ℕ} (h : CutTo x r) (hw : NearGrid x w) (hle : w ≤ x) : w ≤ r := by
  obtain ⟨hlo, hhi⟩ := h
  rcases hw with ⟨z, rfl⟩ | ⟨L, hL, hx⟩
  · have hlt : (z : ℝ) < ((r : ℤ) : ℝ) + 1 := by push_cast; linarith
    have hz : z < (r : ℤ) + 1 := by exact_mod_cast hlt
    have : z ≤ (r : ℤ) := by omega
    exact_mod_cast this
  · have hLr : (L : ℝ) < r + 1 := by linarith
    have hL' : L < r + 1 := by exact_mod_cast hLr
    have hle' : (L : ℝ) ≤ r := by exact_mod_cast Nat.lt_succ_iff.mp hL'
    exact ((le_abs_self w).trans hL.le).trans hle'

theorem RaisedTo.best {x w : ℝ} {r : ℕ} (h : RaisedTo x r) (hw : NearGrid x w) (hle : x ≤ w) : (r : ℝ) ≤ w := by
  obtain ⟨hlo, hhi⟩ := h
  rcases hw with ⟨z, rfl⟩ | ⟨L, hL, hx⟩
  · have hlt : ((r : ℤ) : ℝ) < (z : ℝ) + 1 := by push_cast; linarith
    have hz : (r : ℤ) < z + 1 := by exact_mod_cast hlt
    have : (r : ℤ) ≤ z := by omega
    exact_mod_cast this
  · have := le_abs_self w
    linarith

theorem NearestTo.best {x w : ℝ} {r : ℕ} (h : NearestTo x r) (hw : NearGrid x w) :
    |(r : ℝ) - x| ≤ |w - x| ∧ (|(r : ℝ) - x| = |w - x| → w ≠ r → r % 2 = 0) := by
  -- a whole number other than `r` lies at least as far from `x` as the half
  have other (z : ℤ) (hz : (z : ℝ) ≠ r) : 1 / 2 ≤ |(z : ℝ) - x| := by
    have hne : z ≠ (r : ℤ) := fun k => hz (by rw [k]; rfl)
    obtain ⟨hlo, hhi⟩ := abs_le.mp h.1
    rw [le_abs]
    rcases lt_or_gt_of_ne hne with hlt | hgt
    · have : ((z : ℤ) : ℝ) + 1 ≤ (r : ℤ) := by exact_mod_cast hlt
      push_cast at this
      right
      linarith
    · have : ((r : ℤ) : ℝ) + 1 ≤ z := by exact_mod_cast hgt
      push_cast at this
      left
      linarith
  rcases hw with ⟨z, rfl⟩ | ⟨L, hL, hx⟩
  · by_cases hz : (z : ℝ) = r
    · rw [hz]
      exact ⟨le_rfl, fun _ k => absurd rfl k⟩
    · have hge := other z hz
      exact ⟨h.1.trans hge, fun k _ => h.2 (le_antisymm h.1 (k ▸ hge))⟩
  · have hwx : w < x := (le_abs_self w).trans_lt (hL.trans_le hx)
    have hLw : (L : ℝ) - w > 0 := sub_pos.mpr ((le_abs_self w).trans_lt hL)
    have hdist : |(r : ℝ) - x| ≤ x - L := by
      by_cases hz : ((L : ℤ) : ℝ) = r
      · push_cast at hz
        rw [← hz, abs_sub_comm, abs_of_nonneg (by linarith)]
      · have := other L hz
        push_cast at this
        rw [abs_sub_comm, abs_of_nonneg (by linarith)] at this
        exact h.1.trans this
    have hlt : |(r : ℝ) - x| < |w - x| := by
      rw [abs_sub_comm w, abs_of_pos (by linarith : 0 < x - w)]
      linarith
    exact ⟨hlt.le, fun k _ => absurd k hlt.ne⟩

/-- A rounded magnitude is the better result, in every mode. -/
theorem GridRound.better {rm : Rm} {neg : Bool} {x w Q : ℝ} {r y : ℕ} (h : GridRound rm neg x r) (hx : 0 ≤ x) (hQ : 0 < Q) (hw : NearGrid x w) (hy : y % 2 = r % 2) :
    Better rm (signOf neg * (x * Q)) (signOf neg * (r * Q)) y (signOf neg * (w * Q)) := by
  have hr : (0 : ℝ) ≤ r := Nat.cast_nonneg r
  have hs : signOf neg ≠ 0 := by cases neg <;> simp [signOf]
  have hdist (a b : ℝ) : |signOf neg * (a * Q) - signOf neg * (b * Q)| = |a - b| * Q := by
    rw [← mul_sub, ← sub_mul, abs_signOf_mul, abs_mul, abs_of_pos hQ]
  have habs (a : ℝ) : |signOf neg * (a * Q)| = |a| * Q := by rw [abs_signOf_mul, abs_mul, abs_of_pos hQ]
  have up (a b : ℝ) : a * Q ≤ b * Q ↔ a ≤ b := mul_le_mul_iff_of_pos_right hQ
  match rm, neg, h with
  | .rne, neg, h =>
    obtain ⟨hle, htie⟩ := NearestTo.best h hw
    change |_| ≤ |_| ∧ (|_| = |_| → _ → _)
    rw [hdist, hdist, up, mul_left_inj' hQ.ne', hy]
    refine ⟨hle, fun heq hne => htie heq fun k => hne ?_⟩
    rw [k]
  | .rtz, neg, h =>
    change |_| ≤ |_| ∧ (|_| ≤ |_| → |_| ≤ |_|)
    rw [habs, habs, habs, up, up, up, abs_of_nonneg hr, abs_of_nonneg hx]
    exact ⟨h.1, fun k => CutTo.best h hw.abs k⟩
  | .rup, false, h =>
    simp only [Better, signOf, Bool.false_eq_true, if_false, one_mul, up]
    exact ⟨h.1, fun k => RaisedTo.best h hw k⟩
  | .rup, true, h =>
    simp only [Better, signOf, if_true, neg_mul, one_mul, neg_le_neg_iff, up]
    exact ⟨h.1, fun k => CutTo.best h hw k⟩
  | .rdn, false, h =>
    simp only [Better, signOf, Bool.false_eq_true, if_false, one_mul, up]
    exact ⟨h.1, fun k => CutTo.best h hw k⟩
  | .rdn, true, h =>
    simp only [Better, signOf, if_true, neg_mul, one_mul, neg_le_neg_iff, up]
    exact ⟨h.1, fun k => RaisedTo.best h hw k⟩

/-- In units of 2^q, a value of the format lies on the grid, or is small. -/
theorem value_nearGrid {p x : ℕ} {u v A : ℝ} {q : ℤ} (hp : 1 ≤ p) (h : (fpDec p x).Is u) (hq : -(125 + p : ℤ) < q → ((2 ^ (p - 1) : ℕ) : ℝ) ≤ A) (neg : Bool)
    (hv : v = signOf neg * u / 2 ^ q) : NearGrid A v := by
  have h2 : (2 : ℝ) ≠ 0 := by norm_num
  cases hd : fpDec p x with
  | nan b => rw [hd] at h; exact h.elim
  | inf b => rw [hd] at h; exact h.elim
  | fin s m e =>
    obtain ⟨hm, he⟩ := fpDec_fin hp hd
    rw [hd, Fp.is_fin, Fp.value] at h
    have hval : v = signOf neg * signOf s * (m * 2 ^ (e - q)) := by
      rw [hv, h, two_zpow_sub]
      ring
    by_cases hqe : q ≤ e
    · left
      have hunits : (m : ℝ) * 2 ^ (e - q) = ((m * 2 ^ (e - q).toNat : ℕ) : ℝ) := by
        rw [Nat.cast_mul, two_zpow_toNat (by omega)]
      refine ⟨(if neg then -1 else 1) * (if s then -1 else 1) * ((m * 2 ^ (e - q).toNat : ℕ) : ℤ), ?_⟩
      rw [hval, hunits]
      cases neg <;> cases s <;> simp [signOf]
    · right
      refine ⟨2 ^ (p - 1), ?_, hq (by omega)⟩
      have hpos := two_zpow_pos (e - q)
      rw [hval, mul_assoc, abs_signOf_mul, abs_signOf_mul, abs_of_nonneg (mul_nonneg (Nat.cast_nonneg _) hpos.le)]
      have hm' : (m : ℝ) < 2 ^ (p : ℤ) := by
        rw [zpow_natCast]
        exact_mod_cast hm
      calc (m : ℝ) * 2 ^ (e - q) < 2 ^ (p : ℤ) * 2 ^ (e - q) := mul_lt_mul_of_pos_right hm' hpos
        _ ≤ 2 ^ (p : ℤ) * 2 ^ (-1 : ℤ) := mul_le_mul_of_nonneg_left (two_zpow_mono (by omega)) (two_zpow_pos _).le
        _ = ((2 ^ (p - 1) : ℕ) : ℝ) := by
          rw [← zpow_add₀ h2, Nat.cast_pow, Nat.cast_ofNat, ← zpow_natCast]
          congr 1
          omega

/-! ### The result -/

/-- The unit of the last digit of a result of exponent `k` (R105). -/
def lastUnit (p : ℕ) (k : ℤ) : ℤ := max (k - (p - 1 : Nat)) (-(125 + p : Nat))

/-- A result of exponent `k`, which rounds to `f` with an unbounded exponent and to `r` units in the format. -/
def rounded (p : ℕ) (rm : Rm) (neg : Bool) (k : ℤ) (f r : ℕ) (inexact : Bool) : Fl Nat :=
  if 127 < carried p k f then
    ((if rm = .rne ∨ (rm = .rup ∧ neg = false) ∨ (rm = .rdn ∧ neg = true) then infBits p neg else maxBits p neg), fOf + fNx)
  else (resultBody p (lastUnit p k) r + signBit p neg, if inexact then (if carried p k f < -126 then fUf + fNx else fNx) else 0)

theorem roundFp_eq (p : ℕ) (rm : Rm) (neg : Bool) {num den : ℕ} (e : ℤ) (hn : num ≠ 0) : roundFp p rm neg num den e =
    rounded p rm neg (leadExp num den e) (roundTo rm neg num den e (leadExp num den e - (p - 1 : Nat))).1 (roundTo rm neg num den e (lastUnit p (leadExp num den e))).1
      (roundTo rm neg num den e (lastUnit p (leadExp num den e))).2 := by
  have hup : (match rm with | .rne => true | .rtz => false | .rup => !neg | .rdn => neg) = decide (rm = .rne ∨ (rm = .rup ∧ neg = false) ∨ (rm = .rdn ∧ neg = true)) := by
    cases rm <;> cases neg <;> rfl
  have chosen (b : Bool) (hb : b = decide (rm = .rne ∨ (rm = .rup ∧ neg = false) ∨ (rm = .rdn ∧ neg = true))) :
      (if b = true then infBits p neg else maxBits p neg) =
        if rm = .rne ∨ (rm = .rup ∧ neg = false) ∨ (rm = .rdn ∧ neg = true) then infBits p neg else maxBits p neg := by
    rw [hb]
    simp only [decide_eq_true_eq]
  unfold roundFp rounded
  simp only [hn, if_false]
  change (if 127 < carried p _ _ then _ else _) = _
  split
  · exact congrArg (·, fOf + fNx) (chosen _ hup)
  · rfl

/-- A result rounded on its grid is its value, rounded once to the format. -/
theorem rounded_spec {p : ℕ} (hp : 2 ≤ p) (hp' : p ≤ 24) {rm : Rm} {neg : Bool} {A : ℝ} {k : ℤ} {f r : ℕ} {inexact : Bool} (hlo : (2 : ℝ) ^ k ≤ A) (hhi : A < 2 ^ (k + 1))
    (hf : GridRound rm neg (A / 2 ^ (k - (p - 1 : ℕ))) f) (hr : GridRound rm neg (A / 2 ^ lastUnit p k) r) (hx : inexact = true ↔ (r : ℝ) ≠ A / 2 ^ lastUnit p k) :
    Rounded p rm (signOf neg * A) (rounded p rm neg k f r inexact) := by
  have hA : 0 < A := (two_zpow_pos k).trans_le hlo
  have hQ := two_zpow_pos (lastUnit p k)
  have hneg : neg = true ↔ signOf neg * A < 0 := by
    cases neg with
    | false =>
      simp only [signOf, Bool.false_eq_true, if_false, one_mul, false_iff, not_lt]
      exact hA.le
    | true =>
      simp only [signOf, if_true, neg_mul, one_mul, true_iff]
      exact neg_neg_of_pos hA
  have hover : Overflows p rm (signOf neg * A) ↔ 127 < carried p k f := by
    rw [overflows_iff (by omega), past_iff (by omega) hlo hhi hf]
    omega
  have htiny : Tiny p rm (signOf neg * A) ↔ carried p k f < -126 := by
    rw [tiny_iff, past_iff (by omega) hlo hhi hf]
    omega
  refine ⟨neg, hneg, fun ho => ?_, fun ho => ?_⟩
  · rw [rounded, if_pos (hover.mp ho)]
  rw [hover] at ho
  rw [rounded, if_neg ho]
  obtain ⟨hdlo, hdhi⟩ := digits_bounds (by omega : 1 ≤ p) hlo hhi
  -- in units of the last digit the magnitude has its `p` digits, or it is below the least normal value
  have hfull : -(125 + p : ℤ) < lastUnit p k → lastUnit p k = k - (p - 1 : ℕ) := fun h => by
    unfold lastUnit at h ⊢
    omega
  have hunit : k - (p - 1 : ℕ) ≤ lastUnit p k := le_max_left _ _
  have hleast : -(125 + p : ℤ) ≤ lastUnit p k := by
    have h : (-(125 + p : Nat) : ℤ) ≤ lastUnit p k := le_max_right _ _
    push_cast at h
    omega
  have hxhi : A / 2 ^ lastUnit p k ≤ ((2 ^ p : ℕ) : ℝ) := by
    refine le_trans ?_ hdhi.le
    exact div_le_div_of_nonneg_left hA.le (two_zpow_pos _) (two_zpow_mono hunit)
  have hxlo : -(125 + p : ℤ) < lastUnit p k → ((2 ^ (p - 1) : ℕ) : ℝ) ≤ A / 2 ^ lastUnit p k := fun h => by
    rw [hfull h]
    exact hdlo
  have hrhi : r ≤ 2 ^ p := hr.le_of_le hxhi
  have hrlo : r < 2 ^ (p - 1) → lastUnit p k = -(125 + p : ℤ) := fun h => by
    by_contra hne
    exact absurd (hr.ge_of_ge (hxlo (by omega))) (by omega)
  have hfin : lastUnit p k + (p + 126) + (if r = 2 ^ p then 1 else 0) < 255 := by
    by_cases h : -(125 + p : ℤ) < lastUnit p k
    · have hu := hfull h
      have hrf : r = 2 ^ p ↔ f = 2 ^ p := by
        have heven : 2 ^ p % 2 = 0 := by
          obtain ⟨c, rfl⟩ : ∃ c, p = c + 1 := ⟨p - 1, by omega⟩
          rw [pow_succ]
          omega
        rw [hu] at hr
        rw [hr.reaches_iff hdhi heven, hf.reaches_iff hdhi heven]
      unfold carried at ho
      rw [hu]
      by_cases h3 : f = 2 ^ p
      · rw [if_pos (hrf.mpr h3)]
        rw [if_pos h3] at ho
        omega
      · rw [if_neg (mt hrf.mp h3)]
        rw [if_neg h3] at ho
        omega
    · have : lastUnit p k = -(125 + p : ℤ) := by omega
      rw [this]
      split <;> omega
  obtain ⟨hbits, hpar, m, e, hdec, hval⟩ := resultBody_decodes hp neg hleast hrhi hrlo hfin
  have hv : signOf neg * A = signOf neg * (A / 2 ^ lastUnit p k * 2 ^ lastUnit p k) := by
    rw [div_mul_cancel₀ _ hQ.ne']
  have hs : signOf neg ≠ 0 := by cases neg <;> simp [signOf]
  have hexact : signOf neg * ((r : ℝ) * 2 ^ lastUnit p k) = signOf neg * A ↔ (r : ℝ) = A / 2 ^ lastUnit p k := by
    rw [mul_right_inj' hs, eq_div_iff hQ.ne']
  refine ⟨hbits, by rw [hdec]; rfl, signOf neg * (r * 2 ^ lastUnit p k), ?_, fun x u _ hu => ?_, fun h => ?_, fun h ht => ?_, fun h ht => ?_⟩
  · rw [hdec, Fp.is_fin, Fp.value, mul_assoc, hval]
  · have hnear := value_nearGrid (A := A / 2 ^ lastUnit p k) (by omega) hu hxlo neg rfl
    have hback : u = signOf neg * (signOf neg * u / 2 ^ lastUnit p k * 2 ^ lastUnit p k) := by
      rw [div_mul_cancel₀ _ hQ.ne', ← mul_assoc, signOf_mul_self, one_mul]
    rw [hback, hv]
    exact hr.better (div_nonneg hA.le hQ.le) hQ hnear hpar
  · have : inexact = false := by
      rw [← Bool.not_eq_true, hx, not_not]
      exact hexact.mp h
    rw [this]
    rfl
  · have : inexact = true := hx.mpr (mt hexact.mpr h)
    rw [this]
    simp only [if_true, htiny.mp ht]
  · have : inexact = true := hx.mpr (mt hexact.mpr h)
    have hnt : ¬ carried p k f < -126 := mt htiny.mpr ht
    rw [this]
    simp only [if_true, hnt, if_false]

/-- A fraction times a power of two is rounded once. -/
theorem roundFp_rounded {p : ℕ} (hp : 2 ≤ p) (hp' : p ≤ 24) (rm : Rm) (neg : Bool) {num den : ℕ} (e : ℤ) (hn : num ≠ 0) (hd : den ≠ 0) :
    Rounded p rm (signOf neg * ratio num den e) (roundFp p rm neg num den e) := by
  obtain ⟨hlo, hhi⟩ := leadExp_bounds hn hd e
  rw [roundFp_eq p rm neg e hn]
  exact rounded_spec hp hp' hlo hhi (roundTo_grid rm neg e _ hd) (roundTo_grid rm neg e _ hd) (roundTo_exact rm neg e _ hd)

end Sys2Proof.Machine
end

section
/-! SUPPORT and PROOFS. Sums, products, quotients and square roots of data (R106, R107, R137). -/
namespace Sys2Proof.Machine

theorem Fp.Is.fin {a : Fp} {v : ℝ} (h : a.Is v) : ∃ s m e, a = .fin s m e ∧ v = (Fp.fin s m e).value := by
  cases a with
  | nan b => exact h.elim
  | inf b => exact h.elim
  | fin s m e => exact ⟨s, m, e, rfl, (Fp.is_fin s m e v).mp h⟩

theorem Fp.value_eq_ratio (s : Bool) (m : ℕ) (e : ℤ) : (Fp.fin s m e).value = signOf s * ratio m 1 e := by
  rw [Fp.value, ratio, Nat.cast_one, div_one, mul_assoc]

theorem signOf_ne_zero (s : Bool) : signOf s ≠ 0 := by cases s <;> simp [signOf]

theorem Fp.value_eq_zero {s : Bool} {m : ℕ} {e : ℤ} : (Fp.fin s m e).value = 0 ↔ m = 0 := by
  rw [Fp.value, mul_eq_zero, mul_eq_zero]
  simp [signOf_ne_zero, (two_zpow_pos e).ne']

/-- The sign of an integer multiple of a power of two, and its magnitude. -/
theorem signOf_natAbs (n : ℤ) (e : ℤ) : signOf (decide (n < 0)) * ratio n.natAbs 1 e = (n : ℝ) * 2 ^ e := by
  rw [ratio, Nat.cast_one, div_one, ← mul_assoc]
  congr 1
  have hcast : ((n.natAbs : ℕ) : ℝ) = |(n : ℝ)| := by rw [Nat.cast_natAbs, Int.cast_abs]
  rw [hcast]
  by_cases h : n < 0
  · have hr : (n : ℝ) < 0 := by exact_mod_cast h
    rw [abs_of_neg hr, decide_eq_true h]
    simp [signOf]
  · have hr : (0 : ℝ) ≤ n := by exact_mod_cast not_lt.mp h
    rw [abs_of_nonneg hr, decide_eq_false h]
    simp [signOf]

/-- An integer multiple of a power of two is rounded once. -/
theorem roundFp_int {p : ℕ} (hp : 2 ≤ p) (hp' : p ≤ 24) (rm : Rm) {n : ℤ} (hn : n ≠ 0) (e : ℤ) :
    Rounded p rm (n * 2 ^ e) (roundFp p rm (decide (n < 0)) n.natAbs 1 e) := by
  rw [← signOf_natAbs]
  exact roundFp_rounded hp hp' rm _ e (Int.natAbs_ne_zero.mpr hn) one_ne_zero

/-- The sign of a sum that is zero (R107). -/
def zeroSign (rm : Rm) (s t : Bool) : Bool := if s = t then t else rm == .rdn

/-- A sum of finite data is its value rounded once, or zero with its sign. -/
theorem sumFp_fin {p : ℕ} (hp : 2 ≤ p) (hp' : p ≤ 24) (rm : Rm) (s t : Bool) (m n : ℕ) (e f : ℤ) :
    ((Fp.fin s m e).value + (Fp.fin t n f).value ≠ 0 → Rounded p rm ((Fp.fin s m e).value + (Fp.fin t n f).value) (sumFp p rm 0 (.fin s m e) (.fin t n f))) ∧
    ((Fp.fin s m e).value + (Fp.fin t n f).value = 0 → sumFp p rm 0 (.fin s m e) (.fin t n f) = (signBit p (zeroSign rm s t), 0)) := by
  have hval := addDy_value s t m n e f
  have hpos := (two_zpow_pos (addDy s m e t n f).2).ne'
  have hzero : (addDy s m e t n f).1 = 0 ↔ (Fp.fin s m e).value + (Fp.fin t n f).value = 0 := by
    rw [← hval, mul_eq_zero]
    simp [hpos]
  refine ⟨fun h => ?_, fun h => ?_⟩
  · have hne : (addDy s m e t n f).1 ≠ 0 := mt hzero.mp h
    have hr := roundFp_int hp hp' rm hne (addDy s m e t n f).2
    rw [hval] at hr
    have heq : sumFp p rm 0 (.fin s m e) (.fin t n f) = roundFp p rm (decide ((addDy s m e t n f).1 < 0)) (addDy s m e t n f).1.natAbs 1 (addDy s m e t n f).2 := by
      simp only [sumFp, hne, if_false, Nat.or_zero]
    rw [heq]
    exact hr
  · have hz := hzero.mpr h
    have hsign : (if s = t then s else rm == .rdn) = zeroSign rm s t := by
      unfold zeroSign
      split
      next h => exact h
      next => rfl
    simp only [sumFp, hz, if_true, hsign]

/-- The exact product of finite data. -/
theorem prodFp_value (s t : Bool) (m n : ℕ) (e f : ℤ) : (Fp.fin (s != t) (m * n) (e + f)).value = (Fp.fin s m e).value * (Fp.fin t n f).value := by
  rw [Fp.value, Fp.value, Fp.value, zpow_add₀ (by norm_num : (2 : ℝ) ≠ 0), Nat.cast_mul]
  cases s <;> cases t <;> simp [signOf] <;> ring

theorem roundFp_zero (p : ℕ) (rm : Rm) (neg : Bool) (den : ℕ) (e : ℤ) : roundFp p rm neg 0 den e = (signBit p neg, 0) := by
  simp [roundFp]

/-- A datum of the format is rounded once. -/
theorem roundFp_fin {p : ℕ} (hp : 2 ≤ p) (hp' : p ≤ 24) (rm : Rm) (s : Bool) (m : ℕ) (e : ℤ) (h : (Fp.fin s m e).value ≠ 0) :
    Rounded p rm (Fp.fin s m e).value (roundFp p rm s m 1 e) := by
  rw [Fp.value_eq_ratio]
  exact roundFp_rounded hp hp' rm s e (mt Fp.value_eq_zero.mpr h) one_ne_zero

/-- A quotient of finite data as a fraction. -/
theorem quotient_value (s t : Bool) (m n : ℕ) (e f : ℤ) : signOf (s != t) * ratio m n (e - f) = (Fp.fin s m e).value / (Fp.fin t n f).value := by
  have hsign : signOf (s != t) = signOf s / signOf t := by cases s <;> cases t <;> simp [signOf]
  rw [Fp.value, Fp.value, ratio, two_zpow_sub, hsign]
  have := signOf_ne_zero t
  have := (two_zpow_pos f).ne'
  by_cases hn : (n : ℝ) = 0
  · simp [hn]
  · field_simp

/-! ### Square roots -/

theorem isqrt_spec (n : ℕ) : ∀ (b r : ℕ), r * r ≤ n → n < (r + 2 ^ b) * (r + 2 ^ b) → isqrt n b r * isqrt n b r ≤ n ∧ n < (isqrt n b r + 1) * (isqrt n b r + 1)
  | 0, r, h, k => ⟨by simpa [isqrt] using h, by simpa [isqrt] using k⟩
  | b + 1, r, h, k => by
    rw [isqrt]
    split
    next hle =>
      refine isqrt_spec n b _ hle ?_
      rw [add_assoc, ← two_mul, ← pow_succ']
      exact k
    next hlt => exact isqrt_spec n b r h (not_le.mp hlt)

/-- The square root of `n`, cut to a whole number `r` with a half more where it is none, lies among multiples of 2^j as the square root does. -/
theorem sqrt_sameHalves {n r : ℕ} (hlo : r * r ≤ n) (hhi : n < (r + 1) * (r + 1)) (j : ℕ) (hj : 1 ≤ j) :
    SameHalves (((2 * r + b2n (r * r != n) : ℕ) : ℝ) / 2 / 2 ^ j) (Real.sqrt n / 2 ^ j) := by
  have hs0 : (r : ℝ) ≤ Real.sqrt n := by
    apply Real.le_sqrt_of_sq_le
    rw [sq]
    exact_mod_cast hlo
  have hs1 : Real.sqrt n < r + 1 := by
    rw [Real.sqrt_lt' (by positivity), sq]
    exact_mod_cast hhi
  -- both lie at `r`, or both between `r` and `r + 1`
  have hcut : ∀ z : ℤ, ((z : ℝ) ≤ ((2 * r + b2n (r * r != n) : ℕ) : ℝ) / 2 ↔ (z : ℝ) ≤ Real.sqrt n) ∧
      (((2 * r + b2n (r * r != n) : ℕ) : ℝ) / 2 ≤ z ↔ Real.sqrt n ≤ z) := by
    intro z
    by_cases hr : r * r = n
    · have hb : (r * r != n) = false := by simp [hr]
      have hsq : Real.sqrt n = r := by
        rw [← hr, Nat.cast_mul, Real.sqrt_mul_self (Nat.cast_nonneg r)]
      rw [hb, hsq]
      have : ((2 * r + b2n false : ℕ) : ℝ) / 2 = r := by simp [b2n]
      rw [this]
      exact ⟨Iff.rfl, Iff.rfl⟩
    · have hb : (r * r != n) = true := by simp [hr]
      have hs0' : (r : ℝ) < Real.sqrt n := by
        refine lt_of_le_of_ne hs0 fun h => hr ?_
        have h2 : (r : ℝ) * r = n := by
          rw [h]
          exact Real.mul_self_sqrt (Nat.cast_nonneg n)
        exact_mod_cast h2
      rw [hb]
      have hval : ((2 * r + b2n true : ℕ) : ℝ) / 2 = r + 1 / 2 := by
        simp only [b2n]
        push_cast
        simp
        ring
      rw [hval]
      rcases le_or_gt z (r : ℤ) with h | h
      · have hz : (z : ℝ) ≤ r := by exact_mod_cast h
        exact ⟨iff_of_true (by linarith) (by linarith), iff_of_false (by linarith) (by linarith)⟩
      · have hz : (r : ℝ) + 1 ≤ z := by exact_mod_cast h
        exact ⟨iff_of_false (by linarith) (by linarith), iff_of_true (by linarith) (by linarith)⟩
  intro h
  have hpow : (0 : ℝ) < 2 ^ (j - 1) := by positivity
  have hsucc : (2 : ℝ) ^ j = 2 * 2 ^ (j - 1) := by
    rw [← pow_succ']
    congr 1
    omega
  obtain ⟨h1, h2⟩ := hcut (h * 2 ^ (j - 1))
  push_cast at h1 h2
  have e1 (x : ℝ) : 2 * (x / 2 ^ j) = x / 2 ^ (j - 1) := by
    rw [hsucc]
    field_simp
  rw [e1, e1, le_div_iff₀ hpow, le_div_iff₀ hpow, div_le_iff₀ hpow, div_le_iff₀ hpow]
  push_cast
  exact ⟨h1, h2⟩

/-- The root of 2^(2h) times `n` and what `sqrtFp` rounds in its place lie alike among multiples of a power of two above 2^h. -/
theorem sqrt_ratio_sameHalves {n r : ℕ} (hlo : r * r ≤ n) (hhi : n < (r + 1) * (r + 1)) {h u : ℤ} (hu : h < u) :
    SameHalves (ratio (2 * r + b2n (r * r != n)) 2 h / 2 ^ u) (Real.sqrt n * 2 ^ h / 2 ^ u) := by
  have hj := sqrt_sameHalves hlo hhi (u - h).toNat (by omega)
  have hpow : (2 : ℝ) ^ u = 2 ^ (u - h).toNat * 2 ^ h := by
    rw [← zpow_natCast, Int.toNat_of_nonneg (by omega), ← zpow_add₀ (by norm_num : (2 : ℝ) ≠ 0)]
    congr 1
    ring
  have hne := (two_zpow_pos h).ne'
  have hne' : (2 : ℝ) ^ (u - h).toNat ≠ 0 := by positivity
  have scale (x : ℝ) : x * 2 ^ h / 2 ^ u = x / 2 ^ (u - h).toNat := by
    rw [hpow]
    field_simp
  rw [ratio, scale, scale, Nat.cast_ofNat]
  exact hj

/-- The square root, rounded once. -/
theorem roundSqrt_rounded {p : ℕ} (hp : 2 ≤ p) (hp' : p ≤ 24) (rm : Rm) {n r : ℕ} (hn : 2 ^ 60 ≤ n) (hlo : r * r ≤ n) (hhi : n < (r + 1) * (r + 1)) (h : ℤ) :
    Rounded p rm (Real.sqrt n * 2 ^ h) (roundFp p rm false (2 * r + b2n (r * r != n)) 2 h) := by
  have hr : 2 ^ 30 ≤ r := by
    by_contra hlt
    have : (r + 1) * (r + 1) ≤ 2 ^ 30 * 2 ^ 30 := Nat.mul_le_mul (by omega) (by omega)
    omega
  have hnum : 2 * r + b2n (r * r != n) ≠ 0 := by omega
  obtain ⟨klo, khi⟩ := leadExp_bounds hnum two_ne_zero h
  have hsame (u : ℤ) (hu : h < u) := sqrt_ratio_sameHalves hlo hhi hu
  have hbig : (2 : ℝ) ^ (30 + h) ≤ ratio (2 * r + b2n (r * r != n)) 2 h := by
    rw [ratio, zpow_add₀ (by norm_num : (2 : ℝ) ≠ 0)]
    refine mul_le_mul_of_nonneg_right ?_ (two_zpow_pos h).le
    have h1 : (2 : ℝ) ^ (30 : ℤ) = ((2 ^ 30 : ℕ) : ℝ) := by norm_num
    have h2 : ((2 ^ 30 : ℕ) : ℝ) ≤ r := by exact_mod_cast hr
    have h3 : (0 : ℝ) ≤ (b2n (r * r != n) : ℝ) := Nat.cast_nonneg _
    rw [h1]
    push_cast at h2 ⊢
    linarith
  have hexact := roundTo_exact rm false (num := 2 * r + b2n (r * r != n)) (den := 2) h (lastUnit p (leadExp (2 * r + b2n (r * r != n)) 2 h)) two_ne_zero
  have hgrid (u : ℤ) := roundTo_grid rm false (num := 2 * r + b2n (r * r != n)) (den := 2) h u two_ne_zero
  rw [roundFp_eq p rm false h hnum]
  generalize leadExp (2 * r + b2n (r * r != n)) 2 h = k at klo khi hexact
  have hk : 30 + h ≤ k := by
    have hlt := hbig.trans_lt khi
    have := (zpow_lt_zpow_iff_right₀ (by norm_num : (1 : ℝ) < 2)).mp hlt
    omega
  have hone := (hsame k (by omega)).whole_le 1
  have htwo := (hsame k (by omega)).whole_le 2
  have hkpos := two_zpow_pos k
  have hksucc : (2 : ℝ) ^ (k + 1) = 2 * 2 ^ k := by
    rw [zpow_add₀ (by norm_num : (2 : ℝ) ≠ 0)]
    ring
  have hAlo : (2 : ℝ) ^ k ≤ Real.sqrt n * 2 ^ h := by
    have := hone.1.mp (by rw [Int.cast_one, le_div_iff₀ hkpos, one_mul]; exact klo)
    rwa [Int.cast_one, le_div_iff₀ hkpos, one_mul] at this
  have hAhi : Real.sqrt n * 2 ^ h < 2 ^ (k + 1) := by
    by_contra hge
    have := htwo.1.mpr (by rw [Int.cast_ofNat, le_div_iff₀ hkpos, ← hksucc]; exact not_lt.mp hge)
    rw [Int.cast_ofNat, le_div_iff₀ hkpos, ← hksucc] at this
    exact absurd khi (not_lt.mpr this)
  have hunit : k - (p - 1 : ℕ) ≤ lastUnit p k := le_max_left _ _
  have hspec := rounded_spec (neg := false) hp hp' hAlo hAhi ((hsame (k - (p - 1 : ℕ)) (by omega)).gridRound (hgrid _))
    ((hsame (lastUnit p k) (by omega)).gridRound (hgrid _)) (hexact.trans (not_congr ((hsame (lastUnit p k) (by omega)).eq_whole _)))
  have hsign : signOf false = 1 := by simp [signOf]
  rw [hsign, one_mul] at hspec
  exact hspec

/-- The square root of a positive finite datum, rounded once. -/
theorem sqrtFp_pos {p : ℕ} (hp : 2 ≤ p) (hp' : p ≤ 24) (rm : Rm) {x m : ℕ} {e : ℤ} (hx : fpDec p x = .fin false m e) (hm : m ≠ 0) :
    Rounded p rm (Real.sqrt (Fp.fin false m e).value) (sqrtFp p rm x) := by
  obtain ⟨hmp, _⟩ := fpDec_fin (by omega) hx
  have hm24 : m < 2 ^ 24 := hmp.trans_le (Nat.pow_le_pow_right (by norm_num) hp')
  have hval : (Fp.fin false m e).value = m * 2 ^ e := by simp [Fp.value, signOf]
  -- both parities of the exponent: 2^(2h) times a number of at least 60 bits
  have root (n : ℕ) (h : ℤ) (hn : 2 ^ 60 ≤ n) (hn' : n < 2 ^ 88) (heq : (m : ℝ) * 2 ^ e = n * 2 ^ (2 * h)) :
      Rounded p rm (Real.sqrt (m * 2 ^ e)) (roundFp p rm false (2 * isqrt n 44 0 + b2n (isqrt n 44 0 * isqrt n 44 0 != n)) 2 h) := by
    obtain ⟨hlo, hhi⟩ := isqrt_spec n 44 0 (Nat.zero_le _) (by norm_num; exact hn')
    have hsq : Real.sqrt (m * 2 ^ e) = Real.sqrt n * 2 ^ h := by
      rw [heq, Real.sqrt_mul (Nat.cast_nonneg _), two_mul, zpow_add₀ (by norm_num : (2 : ℝ) ≠ 0), Real.sqrt_mul_self (two_zpow_pos h).le]
    rw [hsq]
    exact roundSqrt_rounded hp hp' rm hn hlo hhi h
  have h2 : (2 : ℝ) ≠ 0 := by norm_num
  have shift (c : ℕ) (h : ℤ) (hh : 2 * h = e - c) : (m : ℝ) * 2 ^ e = ((m * 2 ^ c : ℕ) : ℝ) * 2 ^ (2 * h) := by
    rw [hh, two_zpow_sub, zpow_natCast]
    push_cast
    field_simp
  rw [hval, sqrtFp, hx]
  simp only [hm, Bool.false_eq_true, if_false]
  by_cases he : e % 2 = 0
  · simp only [he, if_true]
    exact root _ _ (Nat.le_mul_of_pos_left _ (Nat.pos_of_ne_zero hm)) (by omega) (shift 60 _ (by omega))
  · simp only [he, if_false]
    exact root _ _ (by omega) (by omega) (shift 61 _ (by omega))

end Sys2Proof.Machine
end

section
/-! SUPPORT and PROOFS. What atomics write (R228), and the floating-point results they share with the lane (R105 to R117, R137). -/
namespace Sys2Proof.Machine

/-! ### Arithmetic of finite data -/

theorem zeroSign_eq (rm : Rm) (a b : Fp) : zeroSign rm a.isNeg b.isNeg = if a.isNeg = b.isNeg then b.isNeg else rm == .rdn := rfl

section Finite

variable {p : ℕ} (hp : 2 ≤ p) (hp' : p ≤ 24) (rm : Rm) {x y z : ℕ} {u v w : ℝ} (hu : (fpDec p x).Is u) (hv : (fpDec p y).Is v) (hw : (fpDec p z).Is w)
include hp hp' hu hv

theorem addFp_fin : (u + v ≠ 0 → Rounded p rm (u + v) (addFp p rm x y)) ∧ (u + v = 0 → addFp p rm x y = (signBit p (zeroSign rm (fpDec p x).isNeg (fpDec p y).isNeg), 0)) := by
  obtain ⟨s, m, e, ha, rfl⟩ := hu.fin
  obtain ⟨t, n, f, hb, rfl⟩ := hv.fin
  have h := sumFp_fin hp hp' rm s t m n e f
  have heq : addFp p rm x y = sumFp p rm 0 (.fin s m e) (.fin t n f) := by rw [addFp, ha, hb]; rfl
  rw [heq, ha, hb]
  exact h

theorem subFp_fin : (u - v ≠ 0 → Rounded p rm (u - v) (subFp p rm x y)) ∧
    (u - v = 0 → subFp p rm x y = (signBit p (zeroSign rm (fpDec p x).isNeg (!(fpDec p y).isNeg)), 0)) := by
  obtain ⟨s, m, e, ha, rfl⟩ := hu.fin
  obtain ⟨t, n, f, hb, rfl⟩ := hv.fin
  have h := sumFp_fin hp hp' rm s (!t) m n e f
  have hneg : (Fp.fin (!t) n f).value = -(Fp.fin t n f).value := by
    rw [Fp.value, Fp.value, signOf_not]
    ring
  have heq : subFp p rm x y = sumFp p rm 0 (.fin s m e) (.fin (!t) n f) := by rw [subFp, ha, hb]; rfl
  rw [heq, ha, hb, sub_eq_add_neg, ← hneg]
  exact h

theorem mulFp_fin : (u * v ≠ 0 → Rounded p rm (u * v) (mulFp p rm x y)) ∧ (u * v = 0 → mulFp p rm x y = (signBit p ((fpDec p x).isNeg != (fpDec p y).isNeg), 0)) := by
  obtain ⟨s, m, e, ha, rfl⟩ := hu.fin
  obtain ⟨t, n, f, hb, rfl⟩ := hv.fin
  have heq : mulFp p rm x y = roundFp p rm (s != t) (m * n) 1 (e + f) := by
    rw [mulFp, ha, hb]
    simp [prodFp, sigNv, Fp.isSig]
  rw [heq, ha, hb, ← prodFp_value]
  refine ⟨fun h => roundFp_fin hp hp' rm _ _ _ h, fun h => ?_⟩
  rw [Fp.value_eq_zero.mp h]
  exact roundFp_zero _ _ _ _ _

theorem divFp_fin : (u ≠ 0 → v ≠ 0 → Rounded p rm (u / v) (divFp p rm x y)) ∧
    (u = 0 → v ≠ 0 → divFp p rm x y = (signBit p ((fpDec p x).isNeg != (fpDec p y).isNeg), 0)) ∧
    (u ≠ 0 → v = 0 → divFp p rm x y = (infBits p ((fpDec p x).isNeg != (fpDec p y).isNeg), fDz)) ∧ (u = 0 → v = 0 → divFp p rm x y = (qnan p, fNv)) := by
  obtain ⟨s, m, e, ha, rfl⟩ := hu.fin
  obtain ⟨t, n, f, hb, rfl⟩ := hv.fin
  have quotient (hn : n ≠ 0) : divFp p rm x y = roundFp p rm (s != t) m n (e - f) := by
    rw [divFp, ha, hb]
    simp [hn, sigNv, Fp.isSig]
  rw [ha, hb]
  simp only [Fp.isNeg, ne_eq, Fp.value_eq_zero]
  refine ⟨fun hm hn => ?_, fun hm hn => ?_, fun hm hn => ?_, fun hm hn => ?_⟩
  · rw [quotient hn, ← quotient_value]
    exact roundFp_rounded hp hp' rm _ _ hm hn
  · rw [quotient hn, hm]
    exact roundFp_zero _ _ _ _ _
  · rw [divFp, ha, hb]
    simp [hn, hm, sigNv, Fp.isSig]
  · rw [divFp, ha, hb]
    simp [hn, hm, sigNv, Fp.isSig]

include hw

theorem fmaFp_fin : (u * v + w ≠ 0 → Rounded p rm (u * v + w) (fmaFp p rm x y z)) ∧
    (u * v + w = 0 → fmaFp p rm x y z = (signBit p (zeroSign rm ((fpDec p x).isNeg != (fpDec p y).isNeg) (fpDec p z).isNeg), 0)) := by
  obtain ⟨s, m, e, ha, rfl⟩ := hu.fin
  obtain ⟨t, n, f, hb, rfl⟩ := hv.fin
  obtain ⟨r, l, g, hc, rfl⟩ := hw.fin
  have h := sumFp_fin hp hp' rm (s != t) r (m * n) l (e + f) g
  have heq : fmaFp p rm x y z = sumFp p rm 0 (.fin (s != t) (m * n) (e + f)) (.fin r l g) := by
    rw [fmaFp, ha, hb, hc]
    simp only [prodFp, sigNv, List.any_cons, List.any_nil, Fp.isSig, Bool.or_self, Bool.false_eq_true, if_false, Nat.or_zero]
  rw [heq, ha, hb, hc, ← prodFp_value]
  exact h

end Finite

theorem sqrtFp_fin {p : ℕ} (hp : 2 ≤ p) (hp' : p ≤ 24) (rm : Rm) {x : ℕ} {u : ℝ} (hu : (fpDec p x).Is u) :
    (0 < u → Rounded p rm (Real.sqrt u) (sqrtFp p rm x)) ∧ (u = 0 → sqrtFp p rm x = (signBit p (fpDec p x).isNeg, 0)) ∧ (u < 0 → sqrtFp p rm x = (qnan p, fNv)) := by
  obtain ⟨s, m, e, ha, rfl⟩ := hu.fin
  have hmag : 0 ≤ ratio m 1 e := ratio_nonneg m 1 e
  have hval := Fp.value_eq_ratio s m e
  refine ⟨fun h => ?_, fun h => ?_, fun h => ?_⟩
  · have hm : m ≠ 0 := fun hm => by
      rw [Fp.value_eq_zero.mpr hm] at h
      exact lt_irrefl _ h
    cases s with
    | false => exact sqrtFp_pos hp hp' rm ha hm
    | true =>
      rw [hval] at h
      simp only [signOf, if_true, neg_mul, one_mul] at h
      linarith
  · rw [sqrtFp, ha]
    simp [Fp.value_eq_zero.mp h, Fp.isNeg]
  · have hm : m ≠ 0 := fun hm => by
      rw [Fp.value_eq_zero.mpr hm] at h
      exact lt_irrefl _ h
    cases s with
    | false =>
      rw [hval] at h
      simp only [signOf, Bool.false_eq_true, if_false, one_mul] at h
      linarith
    | true =>
      rw [sqrtFp, ha]
      simp [hm]

/-! ### NaNs and infinities -/

/-- The canonical NaN, invalid where an operand is a signaling one or the operation is. -/
def NanResult (p : ℕ) (l : List Fp) (more : Bool) (r : Fl Nat) : Prop := r = (qnan p, if l.any Fp.isSig || more then fNv else 0)

theorem NanResult.quiet {p : ℕ} {l : List Fp} {r : Fl Nat} (h : r = (qnan p, sigNv l)) : NanResult p l false r := by
  rw [NanResult, Bool.or_false]
  exact h

/-- Where an operand is a NaN the result is the canonical one. -/
theorem nan_results {p x y : ℕ} (rm : Rm) (h : (fpDec p x).isNan = true ∨ (fpDec p y).isNan = true) :
    NanResult p [fpDec p x, fpDec p y] false (addFp p rm x y) ∧ NanResult p [fpDec p x, fpDec p y] false (subFp p rm x y) ∧
      NanResult p [fpDec p x, fpDec p y] false (mulFp p rm x y) ∧ NanResult p [fpDec p x, fpDec p y] false (divFp p rm x y) := by
  have all {a b : Fp} (ha : fpDec p x = a) (hb : fpDec p y = b) (hn : a.isNan = true ∨ b.isNan = true) :
      addFp p rm x y = (qnan p, sigNv [a, b]) ∧ subFp p rm x y = (qnan p, sigNv [a, b]) ∧ mulFp p rm x y = (qnan p, sigNv [a, b]) ∧
        divFp p rm x y = (qnan p, sigNv [a, b]) := by
    cases a with
    | nan s => exact ⟨by rw [addFp, ha, hb]; rfl, by rw [subFp, ha, hb]; rfl, by rw [mulFp, ha, hb]; simp [prodFp], by rw [divFp, ha, hb]⟩
    | inf s =>
      cases b with
      | nan t => exact ⟨by rw [addFp, ha, hb]; rfl, by rw [subFp, ha, hb]; rfl, by rw [mulFp, ha, hb]; simp [prodFp], by rw [divFp, ha, hb]⟩
      | inf t => simp [Fp.isNan] at hn
      | fin t n f => simp [Fp.isNan] at hn
    | fin s m e =>
      cases b with
      | nan t => exact ⟨by rw [addFp, ha, hb]; rfl, by rw [subFp, ha, hb]; rfl, by rw [mulFp, ha, hb]; simp [prodFp], by rw [divFp, ha, hb]⟩
      | inf t => simp [Fp.isNan] at hn
      | fin t n f => simp [Fp.isNan] at hn
  obtain ⟨h1, h2, h3, h4⟩ := all rfl rfl h
  exact ⟨.quiet h1, .quiet h2, .quiet h3, .quiet h4⟩

/-- What becomes of an infinity. -/
theorem inf_results {p x y z : ℕ} (rm : Rm) {s : Bool} (ha : fpDec p x = .inf s) :
    (fpDec p y = .inf (!s) → addFp p rm x y = (qnan p, fNv)) ∧ (fpDec p y = .inf s → addFp p rm x y = (infBits p s, 0)) ∧
    ((fpDec p y).Is 0 → mulFp p rm x y = (qnan p, fNv) ∧ ((fpDec p z).isNan = true → fmaFp p rm x y z = (qnan p, fNv))) ∧
    (∀ v, (fpDec p y).Is v → addFp p rm x y = (infBits p s, 0) ∧ divFp p rm x y = (infBits p (s != (fpDec p y).isNeg), 0) ∧
      divFp p rm y x = (signBit p (s != (fpDec p y).isNeg), 0) ∧ (v ≠ 0 → mulFp p rm x y = (infBits p (s != (fpDec p y).isNeg), 0))) ∧
    (∀ r, fpDec p y = .inf r → divFp p rm x y = (qnan p, fNv) ∧ mulFp p rm x y = (infBits p (s != r), 0)) ∧
    (s = true → sqrtFp p rm x = (qnan p, fNv)) ∧ (s = false → sqrtFp p rm x = (infBits p false, 0)) := by
  refine ⟨fun hb => ?_, fun hb => ?_, fun hb => ?_, fun v hb => ?_, fun r hb => ?_, fun hs => ?_, fun hs => ?_⟩
  · rw [addFp, ha, hb]
    simp [sumFp, sigNv, Fp.isSig]
  · rw [addFp, ha, hb]
    simp [sumFp, sigNv, Fp.isSig]
  · obtain ⟨t, n, f, hb, hz⟩ := hb.fin
    have hn : n = 0 := Fp.value_eq_zero.mp hz.symm
    refine ⟨?_, fun hc => ?_⟩
    · rw [mulFp, ha, hb]
      simp [prodFp, hn, sigNv, Fp.isSig]
    · rw [fmaFp, ha, hb]
      cases hz : fpDec p z with
      | nan c =>
        simp only [prodFp, hn, if_true, sumFp]
        cases c <;> simp [sigNv, Fp.isSig]
      | inf c => rw [hz] at hc; simp [Fp.isNan] at hc
      | fin c l g => rw [hz] at hc; simp [Fp.isNan] at hc
  · obtain ⟨t, n, f, hb, hz⟩ := hb.fin
    rw [addFp, divFp, divFp, mulFp, ha, hb]
    refine ⟨by simp [sumFp, sigNv, Fp.isSig], by simp [sigNv, Fp.isSig, Fp.isNeg], ?_, fun hne => ?_⟩
    · cases s <;> cases t <;> simp [sigNv, Fp.isSig, Fp.isNeg]
    · have hn : n ≠ 0 := fun hn => hne (hz.trans (Fp.value_eq_zero.mpr hn))
      simp [prodFp, hn, sigNv, Fp.isSig, Fp.isNeg]
  · rw [divFp, mulFp, ha, hb]
    exact ⟨by simp [sigNv, Fp.isSig], by simp [prodFp, sigNv, Fp.isSig]⟩
  · rw [sqrtFp, ha, hs]
  · rw [sqrtFp, ha, hs]

/-! ### Integers -/

theorem loOf_le_hiOf {w : ℕ} (hw : 0 < w) (signed : Bool) : loOf w signed ≤ hiOf w signed := by
  have h1 : (0 : ℤ) < ((2 ^ (w - 1) : ℕ) : ℤ) := by exact_mod_cast Nat.two_pow_pos _
  have h2 : (0 : ℤ) < ((2 ^ w : ℕ) : ℤ) := by exact_mod_cast Nat.two_pow_pos _
  unfold loOf hiOf
  cases signed
  · simp only [Bool.false_eq_true, if_false]
    omega
  · simp only [if_true]
    omega

/-- A whole number held to a range: itself, inexact or not, or the nearest end with flags of its own. -/
def heldTo (w : ℕ) (signed : Bool) (fl : ℕ) (n : ℤ) (inexact : Bool) : Fl Int :=
  if n < loOf w signed || hiOf w signed < n then (clampTo w signed n, fl) else (n, if inexact then fNx else 0)

theorem heldTo_spec {w : ℕ} (hw : 0 < w) (signed : Bool) (fl : ℕ) {t : ℝ} {n : ℤ} {inexact : Bool} (hx : inexact = true ↔ (n : ℝ) ≠ t) :
    (loOf w signed ≤ n → n ≤ hiOf w signed → (heldTo w signed fl n inexact).1 = n ∧ ((n : ℝ) = t → (heldTo w signed fl n inexact).2 = 0) ∧
      ((n : ℝ) ≠ t → (heldTo w signed fl n inexact).2 = fNx)) ∧
    (n < loOf w signed → heldTo w signed fl n inexact = (loOf w signed, fl)) ∧ (hiOf w signed < n → heldTo w signed fl n inexact = (hiOf w signed, fl)) := by
  have hrange := loOf_le_hiOf hw signed
  refine ⟨fun hlo hhi => ?_, fun h => ?_, fun h => ?_⟩
  · have hin : (decide (n < loOf w signed) || decide (hiOf w signed < n)) = false := by
      simp only [Bool.or_eq_false_iff, decide_eq_false_iff_not, not_lt]
      exact ⟨hlo, hhi⟩
    have heq : heldTo w signed fl n inexact = (n, if inexact then fNx else 0) := by
      rw [heldTo, hin]
      rfl
    rw [heq]
    refine ⟨rfl, fun h => ?_, fun h => ?_⟩
    · have : inexact = false := by rw [← Bool.not_eq_true, hx, not_not]; exact h
      rw [this]
      rfl
    · rw [hx.mpr h]
      rfl
  · have hclamp : clampTo w signed n = loOf w signed := by
      unfold clampTo
      omega
    rw [heldTo, decide_eq_true h, hclamp]
    rfl
  · have hclamp : clampTo w signed n = hiOf w signed := by
      unfold clampTo
      omega
    rw [heldTo, decide_eq_true h, Bool.or_true, hclamp]
    rfl

/-- A fraction rounded to a whole number: the number with its sign, and whether it is inexact. -/
theorem roundTo_int (rm : Rm) (s : Bool) {num den : ℕ} (e : ℤ) (hd : den ≠ 0) :
    RoundedInt rm (signOf s * ratio num den e) (if s then -((roundTo rm s num den e 0).1 : ℤ) else (roundTo rm s num den e 0).1) ∧
      ((roundTo rm s num den e 0).2 = true ↔ (((if s then -((roundTo rm s num den e 0).1 : ℤ) else (roundTo rm s num den e 0).1) : ℤ) : ℝ) ≠ signOf s * ratio num den e) := by
  have hgrid := roundTo_grid rm s (num := num) e 0 hd
  have hexact := roundTo_exact rm s (num := num) e 0 hd
  rw [zpow_zero, div_one] at hgrid hexact
  refine ⟨hgrid.roundedInt (ratio_nonneg _ _ _), hexact.trans (not_congr ?_)⟩
  cases s with
  | false => simp [signOf]
  | true => simp [signOf]

theorem fpToInt_spec {w : ℕ} (hw : 0 < w) (signed : Bool) (rm : Rm) {a : Fp} {v : ℝ} (h : a.Is v) :
    ∃ n, RoundedInt rm v n ∧ (loOf w signed ≤ n → n ≤ hiOf w signed → (fpToInt w signed rm a).1 = n ∧
      ((n : ℝ) = v → (fpToInt w signed rm a).2 = 0) ∧ ((n : ℝ) ≠ v → (fpToInt w signed rm a).2 = fNx)) ∧
      (n < loOf w signed → fpToInt w signed rm a = (loOf w signed, fNv)) ∧ (hiOf w signed < n → fpToInt w signed rm a = (hiOf w signed, fNv)) := by
  obtain ⟨s, m, e, rfl, rfl⟩ := h.fin
  obtain ⟨hround, hexact⟩ := roundTo_int rm s (num := m) e one_ne_zero
  rw [Fp.value_eq_ratio]
  exact ⟨_, hround, heldTo_spec hw signed fNv hexact⟩

theorem quantize_spec {w : ℕ} (hw : 0 < w) (signed : Bool) {bm : ℕ} (hbm : 0 < bm) (be : ℤ) {a : Fp} {v : ℝ} (h : a.Is v) :
    ∃ n, RoundedInt .rne (v / (bm * 2 ^ be)) n ∧ (loOf w signed ≤ n → n ≤ hiOf w signed → (quantize w signed bm be a).1 = n ∧
      ((n : ℝ) = v / (bm * 2 ^ be) → (quantize w signed bm be a).2 = 0) ∧ ((n : ℝ) ≠ v / (bm * 2 ^ be) → (quantize w signed bm be a).2 = fNx)) ∧
      (n < loOf w signed → quantize w signed bm be a = (loOf w signed, fOf + fNx)) ∧ (hiOf w signed < n → quantize w signed bm be a = (hiOf w signed, fOf + fNx)) := by
  obtain ⟨s, m, e, rfl, rfl⟩ := h.fin
  obtain ⟨hround, hexact⟩ := roundTo_int .rne s (num := m) (den := bm) (e - be) hbm.ne'
  have hval : (Fp.fin s m e).value / (bm * 2 ^ be) = signOf s * ratio m bm (e - be) := by
    have h1 : (bm : ℝ) ≠ 0 := by exact_mod_cast hbm.ne'
    have h2 := (two_zpow_pos be).ne'
    rw [Fp.value, ratio, two_zpow_sub]
    field_simp
  rw [hval]
  exact ⟨_, hround, heldTo_spec hw signed (fOf + fNx) hexact⟩

theorem dequantize_spec {p bm : ℕ} (hp : 2 ≤ p) (hp' : p ≤ 24) (be eff : ℤ) (hbm : 0 < bm) :
    (eff = 0 → dequantize p bm be eff = (0, 0)) ∧ (eff ≠ 0 → Rounded p .rne (eff * bm * 2 ^ be) (dequantize p bm be eff)) := by
  refine ⟨fun h => ?_, fun h => ?_⟩
  · rw [dequantize, h, Int.natAbs_zero, Nat.zero_mul, roundFp_zero]
    rfl
  · have hval : ((eff : ℝ) * bm * 2 ^ be) = signOf (decide (eff < 0)) * ratio (eff.natAbs * bm) 1 be := by
      have h1 := signOf_natAbs eff 0
      rw [zpow_zero, mul_one, ratio, Nat.cast_one, div_one, zpow_zero, mul_one] at h1
      rw [← h1, ratio, Nat.cast_one, div_one]
      push_cast
      ring
    rw [hval]
    exact roundFp_rounded hp hp' .rne _ be (Nat.mul_ne_zero (Int.natAbs_ne_zero.mpr h) hbm.ne') one_ne_zero

end Sys2Proof.Machine
end

section
/-! PROOFS. What an atomic writes at its home (R228), a datum's bits (R105), and the statement about atomic functions. -/
namespace Sys2Proof.Machine

/-! ### Integer atomics -/

/-- The lesser of two words, as signed numbers. -/
theorem sext_min_max (nb : ℕ) (old op : ℕ) :
    (sext (if sext op (8 * nb) < sext old (8 * nb) then op else old) (8 * nb) = min (sext old (8 * nb)) (sext op (8 * nb))) ∧
    (sext (if sext op (8 * nb) < sext old (8 * nb) then old else op) (8 * nb) = max (sext old (8 * nb)) (sext op (8 * nb))) := by
  split
  next h => exact ⟨(min_eq_right h.le).symm, (max_eq_left h.le).symm⟩
  next h => exact ⟨(min_eq_left (not_lt.mp h)).symm, (max_eq_right (not_lt.mp h)).symm⟩

/-- What each function but `fadd` writes is a word, and raises no flag. -/
theorem amoNew_word {nb d c old : ℕ} (sg : Bool) (hold : old < 2 ^ (8 * nb)) {fn : ℕ} (hfn : fn ≠ 9) :
    (amoNew nb fn sg d c old).2 = 0 ∧ (amoNew nb fn sg d c old).1 < 2 ^ (8 * nb) := by
  have hop : d % 2 ^ (8 * nb) < 2 ^ (8 * nb) := Nat.mod_lt _ (Nat.two_pow_pos _)
  have pick (b : Prop) [Decidable b] {x y : ℕ} (hx : x < 2 ^ (8 * nb)) (hy : y < 2 ^ (8 * nb)) : (if b then x else y) < 2 ^ (8 * nb) := by
    split
    · exact hx
    · exact hy
  unfold amoNew
  dsimp only
  split
  · exact ⟨rfl, Nat.mod_lt _ (Nat.two_pow_pos _)⟩
  · exact ⟨rfl, pick _ hop hold⟩
  · exact ⟨rfl, pick _ hold hop⟩
  · exact ⟨rfl, Nat.and_lt_two_pow _ hop⟩
  · exact ⟨rfl, Nat.or_lt_two_pow hold hop⟩
  · exact ⟨rfl, Nat.xor_lt_two_pow hold hop⟩
  · exact ⟨rfl, hop⟩
  · exact ⟨rfl, pick _ hop hold⟩
  · exact absurd rfl hfn
  · exact ⟨rfl, hold⟩

theorem amoNew_spec (nb : ℕ) (sg : Bool) (d c old : ℕ) (hold : old < 2 ^ (8 * nb)) :
    let w := 8 * nb
    let op := d % 2 ^ w
    let r (fn : Nat) := amoNew nb fn sg d c old
    (r 1).1 = (old + d) % 2 ^ w ∧
    ((r 2).1 = op ∨ (r 2).1 = old) ∧ ((r 3).1 = op ∨ (r 3).1 = old) ∧
    (sg = false → (r 2).1 = min old op ∧ (r 3).1 = max old op) ∧
    (sg = true → sext (r 2).1 w = min (sext old w) (sext op w) ∧ sext (r 3).1 w = max (sext old w) (sext op w)) ∧
    (∀ k, (r 4).1.testBit k = (old.testBit k && op.testBit k)) ∧ (∀ k, (r 5).1.testBit k = (old.testBit k || op.testBit k)) ∧
    (∀ k, (r 6).1.testBit k = (old.testBit k ^^ op.testBit k)) ∧ (r 7).1 = op ∧
    (r 8).1 = (if old = c % 2 ^ w then op else old) ∧ r 9 = addFp pF32 .rne old op ∧
    (∀ fn, fn ≠ 9 → (r fn).2 = 0) ∧ (∀ fn, fn ≠ 9 → (r fn).1 < 2 ^ w) := by
  dsimp only
  refine ⟨?_, ?_, ?_, fun hs => ?_, fun hs => ?_, fun k => ?_, fun k => ?_, fun k => ?_, rfl, rfl, rfl, fun fn hfn => (amoNew_word sg hold hfn).1, fun fn hfn => (amoNew_word sg hold hfn).2⟩
  · change (old + d % 2 ^ (8 * nb)) % 2 ^ (8 * nb) = _
    rw [Nat.add_mod_mod]
  · exact ite_eq_or_eq _ _ _
  · exact (ite_eq_or_eq _ _ _).symm
  · subst hs
    have less : (if decide (d % 2 ^ (8 * nb) < old) = true then d % 2 ^ (8 * nb) else old) = min old (d % 2 ^ (8 * nb)) ∧
        (if decide (d % 2 ^ (8 * nb) < old) = true then old else d % 2 ^ (8 * nb)) = max old (d % 2 ^ (8 * nb)) := by
      simp only [decide_eq_true_eq]
      constructor <;> split <;> omega
    exact less
  · subst hs
    have h := sext_min_max nb old (d % 2 ^ (8 * nb))
    have less : amoNew nb 2 true d c old = (if decide (sext (d % 2 ^ (8 * nb)) (8 * nb) < sext old (8 * nb)) = true then d % 2 ^ (8 * nb) else old, 0) ∧
        amoNew nb 3 true d c old = (if decide (sext (d % 2 ^ (8 * nb)) (8 * nb) < sext old (8 * nb)) = true then old else d % 2 ^ (8 * nb), 0) := ⟨rfl, rfl⟩
    rw [less.1, less.2]
    simp only [decide_eq_true_eq]
    exact h
  · exact Nat.testBit_and _ _ _
  · exact Nat.testBit_or _ _ _
  · exact Nat.testBit_xor _ _ _

/-! ### The bits of a datum -/

/-- The parts of an FP32 datum. -/
theorem fpDec_f32 {s ex fr : ℕ} (hs : s < 2) (hex : ex < 256) (hfr : fr < 2 ^ 23) :
    fpDec pF32 (s * 2 ^ 31 + ex * 2 ^ 23 + fr) =
      if ex = 255 then (if fr = 0 then .inf (s == 1) else .nan (decide (fr < 2 ^ 22)))
      else if ex = 0 then .fin (s == 1) fr (-149) else .fin (s == 1) (2 ^ 23 + fr) ((ex : ℤ) - 150) := by
  have h1 : fld (s * 2 ^ 31 + ex * 2 ^ 23 + fr) 0 23 = fr := by unfold fld; omega
  have h2 : fld (s * 2 ^ 31 + ex * 2 ^ 23 + fr) 23 8 = ex := by unfold fld; omega
  have h3 : fld (s * 2 ^ 31 + ex * 2 ^ 23 + fr) 31 1 = s := by unfold fld; omega
  unfold fpDec pF32
  simp only [h1, h2, h3, Nat.reduceSub, Nat.reduceAdd]
  rfl

/-- The parts of a BF16 datum. -/
theorem fpDec_bf {s ex fr : ℕ} (hs : s < 2) (hex : ex < 256) (hfr : fr < 2 ^ 7) :
    fpDec pBf (s * 2 ^ 15 + ex * 2 ^ 7 + fr) =
      if ex = 255 then (if fr = 0 then .inf (s == 1) else .nan (decide (fr < 2 ^ 6)))
      else if ex = 0 then .fin (s == 1) fr (-133) else .fin (s == 1) (2 ^ 7 + fr) ((ex : ℤ) - 134) := by
  have h1 : fld (s * 2 ^ 15 + ex * 2 ^ 7 + fr) 0 7 = fr := by unfold fld; omega
  have h2 : fld (s * 2 ^ 15 + ex * 2 ^ 7 + fr) 7 8 = ex := by unfold fld; omega
  have h3 : fld (s * 2 ^ 15 + ex * 2 ^ 7 + fr) 15 1 = s := by unfold fld; omega
  unfold fpDec pBf
  simp only [h1, h2, h3, Nat.reduceSub, Nat.reduceAdd]
  rfl

/-- Shifting a finite datum's digits up and its exponent down leaves its value. -/
theorem Fp.is_shifted (s : Bool) (m : ℕ) (e : ℤ) (v : ℝ) : (Fp.fin s m e).Is v ↔ (Fp.fin s (m * 2 ^ 16) (e - 16)).Is v := by
  rw [Fp.is_fin, Fp.is_fin]
  have h : (Fp.fin s m e).value = (Fp.fin s (m * 2 ^ 16) (e - 16)).value := by
    have h16 : (2 : ℝ) ^ (16 : ℤ) = 2 ^ 16 := by norm_cast
    rw [Fp.value, Fp.value, two_zpow_sub, h16, Nat.cast_mul, Nat.cast_pow, Nat.cast_ofNat]
    field_simp
  rw [h]

/-- BF16 bits stand for the value that they have as the upper half of an FP32 datum. -/
theorem fpDec_bf_f32 {s ex fr : ℕ} (hs : s < 2) (hex : ex < 256) (hfr : fr < 2 ^ 7) :
    fpDec pBf (s * 2 ^ 15 + ex * 2 ^ 7 + fr) = fpDec pF32 ((s * 2 ^ 15 + ex * 2 ^ 7 + fr) * 2 ^ 16) ∨
      ex < 255 ∧ ∀ v, (fpDec pBf (s * 2 ^ 15 + ex * 2 ^ 7 + fr)).Is v ↔ (fpDec pF32 ((s * 2 ^ 15 + ex * 2 ^ 7 + fr) * 2 ^ 16)).Is v := by
  have hx : (s * 2 ^ 15 + ex * 2 ^ 7 + fr) * 2 ^ 16 = s * 2 ^ 31 + ex * 2 ^ 23 + fr * 2 ^ 16 := by ring
  rw [hx, fpDec_bf hs hex hfr, fpDec_f32 hs hex (by omega)]
  by_cases h : ex = 255
  · left
    have h1 : (fr * 2 ^ 16 = 0) ↔ fr = 0 := by omega
    have h2 : (fr * 2 ^ 16 < 2 ^ 22) ↔ fr < 2 ^ 6 := by omega
    simp only [h, if_true, h1, h2]
  · right
    refine ⟨by omega, fun v => ?_⟩
    rw [if_neg h, if_neg h]
    split
    · have := Fp.is_shifted (s == 1) fr (-133) v
      simpa using this
    · have h16 := Fp.is_shifted (s == 1) (2 ^ 7 + fr) ((ex : ℤ) - 134) v
      have h1 : (2 ^ 7 + fr) * 2 ^ 16 = 2 ^ 23 + fr * 2 ^ 16 := by ring
      have h2 : (ex : ℤ) - 134 - 16 = (ex : ℤ) - 150 := by ring
      rw [h1, h2] at h16
      exact h16

theorem fpDec_spec (s ex fr : ℕ) (hs : s < 2) (hfr : fr < 2 ^ 23) : let x := s * 2 ^ 31 + ex * 2 ^ 23 + fr
    let sign : ℝ := if s = 1 then -1 else 1
    (ex = 0 → (fpDec pF32 x).Is (sign * fr * 2 ^ (-149 : ℤ))) ∧ (0 < ex → ex < 255 → (fpDec pF32 x).Is (sign * (1 + fr / 2 ^ 23) * 2 ^ (ex - 127 : ℤ))) ∧
    (ex = 255 → fr = 0 → fpDec pF32 x = .inf (s == 1)) ∧ (ex = 255 → fr ≠ 0 → fpDec pF32 x = .nan (decide (fr < 2 ^ 22))) ∧
    (ex < 256 → fpDec pBf (x / 2 ^ 16) = fpDec pF32 (x / 2 ^ 16 * 2 ^ 16) ∨ ex < 255 ∧ ∀ v, (fpDec pBf (x / 2 ^ 16)).Is v ↔ (fpDec pF32 (x / 2 ^ 16 * 2 ^ 16)).Is v) := by
  have hsign : (if s = 1 then (-1 : ℝ) else 1) = if (s == 1) = true then -1 else 1 := by simp only [beq_iff_eq]
  dsimp only
  rw [hsign]
  refine ⟨fun hex => ?_, fun hpos hex => ?_, fun hex hz => ?_, fun hex hz => ?_, fun hex => ?_⟩
  · rw [fpDec_f32 hs (by omega) hfr, if_neg (by omega), if_pos hex]
    rfl
  · rw [fpDec_f32 hs (by omega) hfr, if_neg (by omega), if_neg (by omega), Fp.Is]
    have hexp : ((ex : ℤ) - 150) = ((ex : ℤ) - 127) - 23 := by ring
    have h23 : (2 : ℝ) ^ (23 : ℤ) = 2 ^ 23 := by norm_cast
    rw [hexp, two_zpow_sub _ 23, h23]
    push_cast
    ring
  · rw [fpDec_f32 hs (by omega) hfr, if_pos hex, if_pos hz]
  · rw [fpDec_f32 hs (by omega) hfr, if_pos hex, if_neg hz]
  · have hx : (s * 2 ^ 31 + ex * 2 ^ 23 + fr) / 2 ^ 16 = s * 2 ^ 15 + ex * 2 ^ 7 + fr / 2 ^ 16 := by omega
    rw [hx]
    exact fpDec_bf_f32 hs hex (by omega)

/-! ### The statement -/

theorem precision_bounds {p : ℕ} (h : p = pF32 ∨ p = pBf) : 2 ≤ p ∧ p ≤ 24 := by
  rcases h with rfl | rfl <;> decide

theorem NanResult.invalid {p : ℕ} {r : Fl Nat} (h : r = (qnan p, fNv)) : NanResult p [] true r := h

/-- Settles O16: integer atomics case by case; every floating-point result by `rounded_spec`, which says that rounding on the grid of a format's last digit is
rounding once to the format. -/
theorem atomicFunctions : Obligations.AtomicFunctions := by
  refine ⟨fun nb sg d c old hold => amoNew_spec nb sg d c old hold, fun s ex fr hs hfr => fpDec_spec s ex fr hs hfr, fun p rm x y z hp => ?_, rfl, rfl, ?_, ?_, fun p bm be eff hp hbm => ?_⟩
  · obtain ⟨hp2, hp24⟩ := precision_bounds hp
    refine ⟨fun u v hu hv => ?_, fun h => nan_results rm h, fun s ha => ?_⟩
    · obtain ⟨hadd, hadd0⟩ := addFp_fin hp2 hp24 rm hu hv
      obtain ⟨hsub, hsub0⟩ := subFp_fin hp2 hp24 rm hu hv
      obtain ⟨hmul, hmul0⟩ := mulFp_fin hp2 hp24 rm hu hv
      obtain ⟨hdiv, hdiv0, hdivz, hdivn⟩ := divFp_fin hp2 hp24 rm hu hv
      obtain ⟨hsqrt, hsqrt0, hsqrtn⟩ := sqrtFp_fin hp2 hp24 rm hu
      refine ⟨hadd, fun h => ?_, hsub, fun h => ?_, hmul, hmul0, fun w hw => fmaFp_fin hp2 hp24 rm hu hv hw, hdiv, hdiv0, hdivz, fun h k => NanResult.invalid (hdivn h k), hsqrt, hsqrt0,
        fun h => NanResult.invalid (hsqrtn h)⟩
      · have hsign : zeroSign rm (fpDec p x).isNeg (fpDec p y).isNeg = if (fpDec p x).isNeg = (fpDec p y).isNeg then (fpDec p x).isNeg else rm == .rdn := by
          unfold zeroSign
          split
          next heq => exact heq.symm
          next => rfl
        rw [hadd0 h, hsign]
      · have hsign : zeroSign rm (fpDec p x).isNeg (!(fpDec p y).isNeg) = if (fpDec p x).isNeg = !(fpDec p y).isNeg then (fpDec p x).isNeg else rm == .rdn := by
          unfold zeroSign
          split
          next heq => exact heq.symm
          next => rfl
        rw [hsub0 h, hsign]
    · obtain ⟨hopp, hsame, hzero, hfin, hinf, hneg, hpos⟩ := inf_results (y := y) (z := z) rm ha
      exact ⟨fun h => NanResult.invalid (hopp h), hsame, fun h => ⟨NanResult.invalid (hzero h).1, fun hc => NanResult.invalid ((hzero h).2 hc)⟩, hfin,
        fun r h => ⟨NanResult.invalid (hinf r h).1, (hinf r h).2⟩, fun h => NanResult.invalid (hneg h), hpos⟩
  · intro w signed rm a hw
    refine ⟨fun b ha => by rw [ha, fpToInt], fun s ha => by rw [ha, fpToInt], fun v hv => fpToInt_spec hw signed rm hv⟩
  · intro w signed bm be a hw hbm
    refine ⟨fun b ha => by rw [ha, quantize], fun s ha => by rw [ha, quantize], fun v hv => quantize_spec hw signed hbm be hv⟩
  · obtain ⟨hp2, hp24⟩ := precision_bounds hp
    exact dequantize_spec hp2 hp24 be eff hbm

end Sys2Proof.Machine
end

section
/-! PROOFS. O19: what the trials before it make of the order that holds a part back. -/
namespace Sys2Proof.Machine

/-- A line of the page tables that the stash of tile 0 owns: its first entry is not valid yet, its second a leaf of a strict page. -/
def pendingTable : StashLine := { va := 2 ^ 13, pa := 0, data := 7 * 2 ^ 64, owned := true, free := false }

/-- A load of 8 bytes at `va` by a jet, number `id` of its tile. -/
def plainLoad (id jet va stage : Nat) (parts : List Part) : Access :=
  { id := id, jet := jet, slot := 0, inst := 0, jetid := 0, pc := 0, op := .load false, va := va, nb := 8, rep := va, sc := .tile, acq := false, rel := false, ov := .page,
    hint := .normal, direct := false, whole := false, afn := 0, asigned := false, data := 0, enables := 0, cmp := 0, dst := [], owedId := 0, parts := parts, from_ := 0,
    stage := stage, gather := [], cause := 0, value := 0, flags := 0, beat := none }

/-- The load whose walk is going on: a page that the tables do not give yet. -/
def walkingLoad : Access := plainLoad 1 5 (2 ^ 30) 1 []
/-- The store of another jet that makes the first entry valid, in the stash. -/
def tableStore : Access :=
  { plainLoad 2 6 (2 ^ 20) 2 [{ off := 0, nb := 1, va := 2 ^ 20, kind := .release, path := .stash, pool := 0, addr := 0, sent := false, performed := false, acked := false }] with
    op := .store, nb := 1, data := 1, enables := 3 }
/-- The part that a strict load of the tile's own pool has. -/
def poolPart : Part := { off := 0, nb := 8, va := 0, kind := .strict, path := .pool, pool := 0, addr := 0, sent := false, performed := false, acked := false }
/-- A later strict load of the first jet, of its tile's own pool. -/
def poolLoad : Access := { plainLoad 3 5 0 2 [poolPart] with ov := .strict }

/-- Right after reset, but for the three accesses, the line and the directory that knows of it. -/
def overtaken : State :=
  (State.reset.modTile 0 fun x => { x with stash := [pendingTable], acc := [walkingLoad, tableStore, poolLoad] }).modStop 0 fun x => { x with dir := [⟨0, some 0, []⟩] }

/-- The numbers of a tile's accesses, and which of their parts are sent. -/
def Tile.sentParts (x : Tile) : List (Nat × List Bool) := x.acc.map fun a => (a.id, a.parts.map (·.sent))

theorem overtaken_turn : overtaken.curTile = 0 := by decide +kernel

theorem overtaken_acc : overtaken.here.acc = [walkingLoad, tableStore, poolLoad] := by decide +kernel

/-- Nothing holds the pool load back as long as the walk finds no page. -/
theorem overtaken_open : overtaken.holds 0 poolLoad poolPart = false := by decide +kernel

/-- The store has left first, the walk finds a strict page, and the pool load stays. -/
theorem overtaken_pump : ((overtaken.pump 0).tile 0).sentParts = [(1, []), (3, [false])] := by decide +kernel

/-- An access of given number and parts is among those that stay. -/
theorem Tile.mem_of_sentParts {x : Tile} {e : Nat × List Bool} (h : e ∈ x.sentParts) : ∃ a ∈ x.acc, a.id = e.1 ∧ a.parts.map (·.sent) = e.2 := by
  obtain ⟨a, ha, rfl⟩ := List.mem_map.mp h
  exact ⟨a, ha, rfl, rfl⟩

/-- Refutes O19: a store whose turn comes before changes a page table in the stash; the walk of an earlier load of the jet then gives a strict page (R213, R220), for which
the strict load of the pool waits (R264): nothing held its part back, and it has not left when all are tried. -/
theorem not_accessEnters : ¬ Obligations.AccessEnters := by
  unfold Obligations.AccessEnters
  intro hall
  obtain ⟨-, -, -, hleft, -⟩ := hall overtaken
  rw [overtaken_turn] at hleft
  have hsorted : overtaken.here.acc.Pairwise (fun a b => a.id < b.id) := by
    rw [overtaken_acc]
    decide
  have hmem : poolLoad ∈ overtaken.here.acc := by
    rw [overtaken_acc]
    exact List.mem_cons_of_mem _ (List.mem_cons_of_mem _ List.mem_cons_self)
  obtain ⟨b, hb, hid, hsent⟩ := Tile.mem_of_sentParts (x := (overtaken.pump 0).tile 0) (e := (3, [false])) (by rw [overtaken_pump]; exact List.mem_cons_of_mem _ List.mem_cons_self)
  obtain ⟨q, hq⟩ : ∃ q, b.parts = [q] := by
    have hlen := congrArg List.length hsent
    rw [List.length_map] at hlen
    exact List.length_eq_one_iff.mp hlen
  have hleaves := hleft hsorted poolLoad 0 poolPart hmem rfl rfl ⟨rfl, rfl, rfl, fun h => absurd h Bool.false_ne_true, overtaken_open⟩ b q hb hid (by rw [hq]; rfl)
  rw [hq] at hsent
  have hstays : q.sent = false := List.head_eq_of_cons_eq hsent
  rw [hstays] at hleaves
  exact Bool.false_ne_true hleaves

end Sys2Proof.Machine
end

section
/-! SUPPORT. The matrix engine: what it posts, and its acceptance (R307, R310, R316, R317). -/
namespace Sys2Proof.Machine

/-! ### Messages posted -/

/-- One message more stands in a tile's outbound buffer, to a handle, of a size, with a payload of some kind. -/
def Posted (s t : State) (q : Nat) (d : BitVec 32) (size : Nat) (p : Nat → Prop) : Prop :=
  ∃ e, (t.tile q).weir.outbound = (s.tile q).weir.outbound ++ [e] ∧ e.m.handle = d ∧ e.m.size = size ∧ p e.m.payload

theorem Posted.after {s u t : State} {q : Nat} {d : BitVec 32} {size : Nat} {p : Nat → Prop} (h : (u.tile q).weir.outbound = (s.tile q).weir.outbound) (k : Posted u t q d size p) :
    Posted s t q d size p := by
  obtain ⟨e, he, hrest⟩ := k
  exact ⟨e, he.trans (congrArg (· ++ [e]) h), hrest⟩

theorem State.post_posts (s : State) (q jet : Nat) (m : SendMsg) {p : Nat → Prop} (hp : p m.payload) : Posted s (s.post q jet m) q m.handle m.size p := by
  refine ⟨⟨m, jet, s.nextId, false, false, s.tc⟩, ?_, rfl, rfl, hp⟩
  rw [State.post, State.tile_modTile_same]
  rfl

theorem Kept.post (s : State) (q jet : Nat) (m : SendMsg) : Kept s (s.post q jet m) := .modWeir s q _

/-- What a posted message leaves of its tile. -/
theorem State.tile_post (s : State) (q jet : Nat) (m : SendMsg) : ∃ w, (s.post q jet m).tile q = { s.tile q with weir := w } := by
  rw [State.post, State.tile_modTile_same]
  exact ⟨_, rfl⟩

/-- The completion message of a command gives its status (R317). -/
def MxTold (s t : State) (n : Nat) (c : MxCmd) (st : Nat) : Prop :=
  mxDone c.img.toNat ≠ 0 → Posted s t n (mxDone c.img.toNat) 16 fun p => fld p 32 8 = st ∧ fld p 48 16 = n % 2 ^ 16

theorem MxTold.after {s u t : State} {n : Nat} {c : MxCmd} {st : Nat} (h : (u.tile n).weir.outbound = (s.tile n).weir.outbound) (k : MxTold u t n c st) : MxTold s t n c st :=
  fun hdone => (k hdone).after h

/-- The fields of a completion message (R317). -/
def mxFields (count st flags t passes : Nat) : Nat := count % 2 ^ 32 + st * 2 ^ 32 + flags * 2 ^ 40 + t * 2 ^ 48 + passes % 2 ^ 32 * 2 ^ 64

theorem mxFields_status (count t passes : Nat) {st flags : Nat} (hst : st < 2 ^ 8) : fld (mxFields count st flags t passes) 32 8 = st := by
  simp only [fld, mxFields]
  omega

theorem mxFields_tile (count t passes : Nat) {st flags : Nat} (hst : st < 2 ^ 8) (hflags : flags < 2 ^ 8) : fld (mxFields count st flags t passes) 48 16 = t % 2 ^ 16 := by
  simp only [fld, mxFields]
  omega

theorem State.mxMessage_tells (s : State) (n : Nat) (c : MxCmd) {st : Nat} (passes count : Nat) (flags : BitVec 5) (hst : st < 2 ^ 8) :
    MxTold s (s.mxMessage n c st passes count flags) n c st := by
  intro hdone
  have hflags : flags.toNat < 2 ^ 8 := Nat.lt_trans flags.isLt (by decide)
  rw [State.mxMessage]
  simp only [if_neg hdone]
  exact State.post_posts s n 0 _ (p := fun p => fld p 32 8 = st ∧ fld p 48 16 = n % 2 ^ 16) ⟨mxFields_status count n passes hst, mxFields_tile count n passes hst hflags⟩

theorem State.mxMessage_tile (s : State) (n : Nat) (c : MxCmd) (st passes count : Nat) (flags : BitVec 5) : Kept s (s.mxMessage n c st passes count flags) ∧
    ∃ w, (s.mxMessage n c st passes count flags).tile n = { s.tile n with weir := w } := by
  rw [State.mxMessage]
  dsimp only
  split
  · exact ⟨.refl s, _, rfl⟩
  · exact ⟨.post s n 0 _, s.tile_post n 0 _⟩

/-! ### The head of the engine's queues -/

/-- What taking a matrix command leaves of the engine's tile. -/
structure HeadTaken (loc : Bool) (x y : Tile) : Prop where
  mx : y.mx = { x.mx with localQ := y.mx.localQ }
  outbound : y.weir.outbound = x.weir.outbound
  queue : loc = true → y.mx.localQ = x.mx.localQ.tail

theorem State.takeEngineHead_matrix (s : State) (n : Nat) (loc : Bool) : Kept s (s.takeEngineHead n false loc) ∧ HeadTaken loc (s.tile n) ((s.takeEngineHead n false loc).tile n) := by
  rw [State.takeEngineHead]
  split
  · refine ⟨.modTile s n (fun _ => rfl) fun _ => rfl, ?_⟩
    rw [State.tile_modTile_same]
    exact ⟨rfl, rfl, fun _ => rfl⟩
  next hloc =>
    split
    · exact ⟨.refl s, rfl, rfl, fun h => absurd h hloc⟩
    next b k _ =>
      have hacq (x : Tile) : ∃ a l, x.acquire ((k.slots.head?.map fun m => (m.rel, m.relAll)).toList) = { x with acc := a, l1 := l } := x.acquire_eq _
      refine ⟨.modTile s n (fun x => ?_) fun x => ?_, ?_⟩
      · obtain ⟨a, l, h⟩ := hacq x
        rw [h]
        rfl
      · obtain ⟨a, l, h⟩ := hacq x
        rw [h]
        rfl
      · obtain ⟨a, l, h⟩ := hacq (s.tile n)
        rw [State.tile_modTile_same, h]
        exact ⟨rfl, rfl, fun h => absurd h hloc⟩

theorem State.chainTakes_tile (s : State) (t : Nat) (c : MxCmd) : Kept s (s.chainTakes t c) ∧ (s.chainTakes t c).tiles = s.tiles := by
  rw [State.chainTakes]
  split
  · exact ⟨.modChain _ _ _, rfl⟩
  · exact ⟨.refl s, rfl⟩

/-- The machine whose engine has taken its head. -/
def State.mxTaken (s : State) (n : Nat) (loc : Bool) (c : MxCmd) : State := (s.takeEngineHead n false loc).chainTakes n c

theorem State.mxTaken_spec (s : State) (n : Nat) (loc : Bool) (c : MxCmd) : Kept s (s.mxTaken n loc c) ∧ HeadTaken loc (s.tile n) ((s.mxTaken n loc c).tile n) := by
  obtain ⟨hkept, hhead⟩ := s.takeEngineHead_matrix n loc
  obtain ⟨hchain, htiles⟩ := (s.takeEngineHead n false loc).chainTakes_tile n c
  have htile : (s.mxTaken n loc c).tile n = (s.takeEngineHead n false loc).tile n := by rw [State.tile, State.tile, State.mxTaken, htiles]
  exact ⟨hkept.trans hchain, htile ▸ hhead⟩

/-! ### Pins -/

/-- What pinning lines for a run leaves of its tile: translations at hand and the lines it has pinned differ. -/
structure Pinned (n : Nat) (s t : State) : Prop where
  kept : Kept s t
  tile : ∀ r, (s.tile n).mx.run = some r → ∃ k l, t.tile n = { s.tile n with tlb := k, mx := { (s.tile n).mx with run := some { r with pinned := l } } }

theorem Pinned.refl (n : Nat) (s : State) : Pinned n s s := ⟨.refl s, fun r hr => ⟨(s.tile n).tlb, r.pinned, by rw [← hr]⟩⟩

theorem Pinned.trans {n : Nat} {s t u : State} (h : Pinned n s t) (k : Pinned n t u) : Pinned n s u := by
  refine ⟨h.kept.trans k.kept, fun r hr => ?_⟩
  obtain ⟨a, l, ht⟩ := h.tile r hr
  obtain ⟨b, m, hu⟩ := k.tile { r with pinned := l } (by rw [ht])
  exact ⟨b, m, by rw [hu, ht]⟩

theorem Pinned.foldl {α : Type} {n : Nat} {f : State → α → State} (hf : ∀ s a, Pinned n s (f s a)) (l : List α) (s : State) : Pinned n s (l.foldl f s) := by
  induction l generalizing s with
  | nil => exact .refl n s
  | cons a l ih => exact (hf s a).trans (ih _)

theorem Pinned.of_tiles {n : Nat} {s t : State} (hkept : Kept s t) (htiles : t.tiles = s.tiles) : Pinned n s t := by
  refine ⟨hkept, fun r hr => ⟨(s.tile n).tlb, r.pinned, ?_⟩⟩
  rw [State.tile, htiles, ← hr]
  rfl

theorem Pinned.cacheFor (n va nb : Nat) (st : Bool) (s : State) : Pinned n s (s.cacheFor n va nb st) := by
  have h := Cached.cacheFor n va nb st s
  refine ⟨h.core.kept, fun r hr => ⟨((s.cacheFor n va nb st).tile n).tlb, r.pinned, ?_⟩⟩
  rw [h.tile, ← hr]

theorem State.l2Bring_tiles (s : State) (line : Nat) : (s.l2Bring line).tiles = s.tiles := by
  rw [State.l2Bring]
  split <;> rfl

/-- A run with one line more pinned. -/
def Run.pins (line : Nat) (r : Run) : Run := { r with pinned := r.pinned ++ [line] }

/-- A tile whose run is another. -/
def Tile.modRun (f : Run → Run) (x : Tile) : Tile := { x with mx := { x.mx with run := x.mx.run.map f } }

theorem State.modRun_eq (s : State) (n : Nat) (f : Run → Run) : s.modRun n f = s.modTile n (Tile.modRun f) := rfl

theorem State.tile_modRun (s : State) (n : Nat) (f : Run → Run) : (s.modRun n f).tile n = (s.tile n).modRun f := State.tile_modTile_same ..

theorem Kept.modRun (s : State) (n : Nat) (f : Run → Run) : Kept s (s.modRun n f) := .modTile s n (f := Tile.modRun f) (fun _ => rfl) fun _ => rfl

/-- A run that has one more line pinned. -/
theorem Pinned.runPins (n line : Nat) (s : State) : Pinned n s (s.modRun n (Run.pins line)) := by
  refine ⟨.modRun _ n _, fun r hr => ⟨(s.tile n).tlb, r.pinned ++ [line], ?_⟩⟩
  rw [State.tile_modRun, Tile.modRun, hr]
  rfl

theorem Pinned.pinLine (n line : Nat) (s : State) : Pinned n s (s.pinLine n line) := by
  have hbring : Pinned n s (s.l2Bring line) := .of_tiles (s.l2Bring_stop line 0).1 (s.l2Bring_tiles line)
  exact (hbring.trans (.of_tiles (.modStop _ _ _) rfl)).trans (.runPins n line _)

/-! ### Acceptance -/

/-- The status with which a command is refused, 0 where it is accepted (R307). -/
def State.mxRefusal (s : State) (n : Nat) (c : MxCmd) : Nat :=
  if c.checked = true ∧ (s.tile n).capOk (fld c.img.toNat 0 64) false c.issuer = false then 1 else if (s.tile n).mxDead = true then 5
  else if s.mxBad n (s.mxRun n c) = true then 2 else if s.linkRefused n c.img.toNat = true then 3 else 0

theorem State.mxRefusal_lt (s : State) (n : Nat) (c : MxCmd) : s.mxRefusal n c < 2 ^ 8 := by
  unfold State.mxRefusal
  repeat' split
  all_goals decide

theorem State.mxStatus_eq (s : State) (n : Nat) (c : MxCmd) : s.mxStatus n (s.mxRun n c) = s.mxRefusal n c := by
  simp only [State.mxStatus, State.mxRefusal, Bool.and_eq_true, Bool.not_eq_true']
  rfl

section
variable {s : State} {loc : Bool} {c : MxCmd} (hhead : s.mxHead s.focus.a = some (loc, c))
include hhead

/-- A refused command is answered with the first status that applies (R307). -/
theorem matrixAccept_refuses (hst : s.mxRefusal s.focus.a c ≠ 0) : ∃ t, exec .matrixAccept s = .next t ∧ Kept s t ∧
    (t.tile s.focus.a).mx.run = (s.tile s.focus.a).mx.run ∧ MxTold s t s.focus.a c (s.mxRefusal s.focus.a c) ∧
    (loc = true → (t.tile s.focus.a).mx.localQ = (s.tile s.focus.a).mx.localQ.tail) := by
  have hexec : exec .matrixAccept s = .next ((s.mxTaken s.focus.a loc c).mxMessage s.focus.a c (s.mxRefusal s.focus.a c) 0 0 0) := by
    have hne : (s.mxRefusal s.focus.a c != 0) = true := bne_iff_ne.mpr hst
    change execMatrixAccept s = _
    simp only [execMatrixAccept, hhead, State.mxStatus_eq, hne, if_true]
    rfl
  obtain ⟨hkept, htaken⟩ := s.mxTaken_spec s.focus.a loc c
  obtain ⟨hmessage, w, htile⟩ := (s.mxTaken s.focus.a loc c).mxMessage_tile s.focus.a c (s.mxRefusal s.focus.a c) 0 0 0
  refine ⟨_, hexec, hkept.trans hmessage, ?_, ((s.mxTaken s.focus.a loc c).mxMessage_tells s.focus.a c 0 0 0 (s.mxRefusal_lt s.focus.a c)).after htaken.outbound, fun h => ?_⟩
  · rw [htile]
    exact (congrArg Matrix.run htaken.mx).trans rfl
  · rw [htile]
    exact htaken.queue h

end

/-- The run that a command starts, and the tc from which its first step may be made. -/
def State.mxStarted (s : State) (n : Nat) (c : MxCmd) : Run :=
  { s.mxRun n c with readyAt := s.tc + 4 + (((s.mxRun n c).fetches 0).1 ++ ((s.mxRun n c).fetches 0).2).foldl (fun m a => max m (s.agentCost n a)) 0 }

/-- A tile whose engine runs. -/
def Tile.runs (r : Run) (x : Tile) : Tile := { x with mx := { x.mx with run := some r } }

/-- The lines of a first step are pinned where they can be. -/
def State.pinFirst (u s : State) (n : Nat) (r : Run) : State :=
  (s.opLines n ((r.fetches 0).1 ++ (r.fetches 0).2)).foldl (fun (s : State) e => if s.pinnable e.1 then s.pinLine n e.1 else s) u

theorem Pinned.pinFirst (u s : State) (n : Nat) (r : Run) : Pinned n u (u.pinFirst s n r) := .foldl (fun s e => by
  split
  · exact .pinLine n e.1 s
  · exact .refl n s) _ u

/-- The landing channel of a run as it begins. -/
def Channel.forRun (c : MxCmd) (id tc : Nat) (old : Channel) : Channel :=
  { Channel.idle with state := .landing, use := .matrix, status := old.status, inst := c.inst, jet := c.jet, accepted := id, from_ := tc }

/-- The landing channel of a run is opened (R316). -/
def State.openRun (u : State) (n : Nat) (r : Run) (tc : Nat) : State :=
  (((u.dropGuard n (mxChan r.img)).take.2).modTile n fun x => x.modChan (mxChan r.img) (Channel.forRun r.cmd (u.dropGuard n (mxChan r.img)).take.1 tc)).openWindow n (mxChan r.img)
    r.window.1 r.window.2

theorem State.openRun_spec (u : State) (n : Nat) (r : Run) (tc : Nat) : Kept u (u.openRun n r tc) ∧ ((u.openRun n r tc).tile n).mx = (u.tile n).mx ∧
    ∃ id old lo hi g ng, ((u.openRun n r tc).tile n).chan (mxChan r.img) = (Channel.forRun r.cmd id tc old).opened r.window.1 lo hi g ng := by
  have hguard := GuardsOnly.dropGuard u n (mxChan r.img)
  let v := (u.dropGuard n (mxChan r.img)).take.2
  let w := v.modTile n fun x => x.modChan (mxChan r.img) (Channel.forRun r.cmd (u.dropGuard n (mxChan r.img)).take.1 tc)
  have hkept : Kept u w := ((CoreKept.dropGuard u n (mxChan r.img)).kept.trans (show Kept _ v from ⟨rfl, fun _ => rfl, fun _ _ => rfl, rfl, rfl, rfl, rfl⟩)).trans
    (.modTile v n (fun _ => rfl) fun _ => rfl)
  have hw : w.tile n = ((u.dropGuard n (mxChan r.img)).tile n).modChan (mxChan r.img) (Channel.forRun r.cmd (u.dropGuard n (mxChan r.img)).take.1 tc) := State.tile_modTile_same ..
  obtain ⟨hopen, -, lo, hi, g, ng, l, htile⟩ := w.openWindow_tile n (mxChan r.img) r.window.1 r.window.2
  refine ⟨hkept.trans hopen, ?_, (u.dropGuard n (mxChan r.img)).take.1, ((u.dropGuard n (mxChan r.img)).tile n).chan (mxChan r.img), lo, hi, g, ng, ?_⟩
  · refine (congrArg Tile.mx htile).trans ?_
    rw [hw, hguard.tile n]
    rfl
  · refine (congrArg (fun x => Tile.chan x (mxChan r.img)) htile).trans ((Tile.chan_modChan_same (w.tile n) (mxChan r.img) _).trans (congrArg (Channel.opened _ lo hi g ng) ?_))
    rw [hw]
    exact Tile.chan_modChan_same ..

/-- The machine that has accepted a command, without its landing channel. -/
def State.mxAccepted (s : State) (n : Nat) (loc : Bool) (c : MxCmd) : State :=
  ((s.mxTaken n loc c).modTile n (Tile.runs (s.mxStarted n c))).pinFirst s n (s.mxRun n c)

theorem State.mxAccepted_spec (s : State) (n : Nat) (loc : Bool) (c : MxCmd) : Kept s (s.mxAccepted n loc c) ∧
    ∃ l, ((s.mxAccepted n loc c).tile n).mx.run = some { s.mxStarted n c with pinned := l } := by
  obtain ⟨hkept, -⟩ := s.mxTaken_spec n loc c
  have hpin := Pinned.pinFirst ((s.mxTaken n loc c).modTile n (Tile.runs (s.mxStarted n c))) s n (s.mxRun n c)
  obtain ⟨k, l, htile⟩ := hpin.tile (s.mxStarted n c) (by rw [State.tile_modTile_same]; rfl)
  refine ⟨(hkept.trans (.modTile _ n (f := Tile.runs (s.mxStarted n c)) (fun _ => rfl) fun _ => rfl)).trans hpin.kept, l, ?_⟩
  exact (congrArg (fun x : Tile => x.mx.run) htile).trans rfl

section
variable {s : State} {loc : Bool} {c : MxCmd} (hhead : s.mxHead s.focus.a = some (loc, c))
include hhead

theorem matrixAccept_runs (hst : s.mxRefusal s.focus.a c = 0) : exec .matrixAccept s =
    .next (if mxCist (s.mxRun s.focus.a c).img then s.mxAccepted s.focus.a loc c else (s.mxAccepted s.focus.a loc c).openRun s.focus.a (s.mxRun s.focus.a c) s.tc) := by
  change execMatrixAccept s = _
  simp only [execMatrixAccept, hhead, State.mxStatus_eq, hst, bne_self_eq_false, Bool.false_eq_true, if_false]
  split <;> rfl

/-- An accepted command starts its run, whose landing channel has its window (R307, R310, R316). -/
theorem matrixAccept_starts (hst : s.mxRefusal s.focus.a c = 0) : ∃ t r, exec .matrixAccept s = .next t ∧ Kept s t ∧ (t.tile s.focus.a).mx.run = some r ∧ r.cmd = c ∧ r.step = 0 ∧
    r.qab = [] ∧ r.state = .running ∧ r.acceptedAt = s.tc ∧ s.tc + 4 ≤ r.readyAt ∧ r.tA = Tbl.get 0 (s.tile s.focus.a).mx.tids (fld r.img 160 8) ∧
    r.tB = Tbl.get 0 (s.tile s.focus.a).mx.tids (fld r.img 168 8) ∧ r.tO = Tbl.get 0 (s.tile s.focus.a).mx.tids (fld r.img 176 8) ∧
    (mxCist r.img = false → let d := (t.tile s.focus.a).chan (mxChan r.img)
      d.state = .landing ∧ d.use = .matrix ∧ d.winVa = r.window.1 ∧ d.wm = BitVec.ofNat 64 r.window.1) := by
  obtain ⟨hkept, l, hrun⟩ := s.mxAccepted_spec s.focus.a loc c
  obtain ⟨hopen, hmx, id, old, lo, hi, g, ng, hchan⟩ := (s.mxAccepted s.focus.a loc c).openRun_spec s.focus.a (s.mxRun s.focus.a c) s.tc
  refine ⟨_, { s.mxStarted s.focus.a c with pinned := l }, matrixAccept_runs hhead hst, ?_, ?_, rfl, rfl, rfl, rfl, rfl, Nat.le_add_right _ _, rfl, rfl, rfl, fun hcist => ?_⟩
  · split
    · exact hkept
    · exact hkept.trans hopen
  · split
    · exact hrun
    · rw [hmx]
      exact hrun
  · have hno : ¬ mxCist (s.mxRun s.focus.a c).img = true := by
      intro h
      exact Bool.noConfusion (h.symm.trans hcist)
    rw [if_neg hno]
    have hd : _ = Channel.opened _ _ _ _ _ _ := hchan
    refine ⟨(congrArg Channel.state hd).trans rfl, (congrArg Channel.use hd).trans rfl, (congrArg Channel.winVa hd).trans rfl, (congrArg Channel.wm hd).trans rfl⟩

end

end Sys2Proof.Machine
end

section
/-! SUPPORT. Reads by an engine, and the steps of a matrix run (R309, R310, R222). -/
namespace Sys2Proof.Machine

/-! ### Reads by an engine -/

/-- Reads by an engine: what a unit's reads may touch, and values taken for what another device or the host holds. -/
structure EngineReads (s t : State) : Prop where
  step : UnitStep { s with fresh := t.fresh } t
  calm : Calm s t

namespace EngineReads

theorem of_unit {s t : State} (h : UnitReads s t) : EngineReads s t := by
  refine ⟨⟨?_, h.1.tile⟩, h.2⟩
  rw [h.1.rest]

theorem refl (s : State) : EngineReads s s := .of_unit (.refl s)

theorem trans {s t u : State} (h : EngineReads s t) (k : EngineReads t u) : EngineReads s u := by
  refine ⟨⟨?_, fun m => ?_⟩, h.calm.trans k.calm⟩
  · rw [k.step.rest, h.step.rest]
  · refine (k.step.tile m).trans ?_
    rw [show ({ t with fresh := u.fresh } : State).tile m = _ from h.step.tile m]
    rfl

theorem draw (s : State) : EngineReads s s.draw.2 := ⟨⟨rfl, fun _ => rfl⟩, .of_stops rfl rfl⟩

section
variable {s t : State} (h : EngineReads s t)
include h

theorem tile (m : Nat) : t.tile m = { s.tile m with icache := (t.tile m).icache, tlb := (t.tile m).tlb, stash := (t.tile m).stash } := h.step.tile m
theorem mx (m : Nat) : (t.tile m).mx = (s.tile m).mx := by rw [h.tile m]
theorem outbound (m : Nat) : (t.tile m).weir.outbound = (s.tile m).weir.outbound := by rw [h.tile m]
theorem chan (m ch : Nat) : (t.tile m).chan ch = (s.tile m).chan ch := h.step.chan m ch
theorem nc : t.nc = s.nc := by rw [h.step.rest]
theorem tc : t.tc = s.tc := congrArg (· / 2) h.nc
theorem chains : t.chains = s.chains := by rw [h.step.rest]
theorem chain (k : Nat) : t.chain k = s.chain k := by rw [State.chain, h.chains]; rfl
theorem device : t.dev.device = s.dev.device := h.step.device

theorem pool (m : Nat) : (t.tile m).pool = (s.tile m).pool := by rw [h.tile m]

theorem jet (m k : Nat) : t.jet m k = s.jet m k := by
  rw [State.jet, h.tile m]
  rfl

end

end EngineReads

theorem State.engineRead_reads {s u : State} {n va nb v : Nat} (h : s.engineRead n va nb = .ok (v, u)) : EngineReads s u := by
  rw [State.engineRead] at h
  split at h
  · cases h
  · split at h
    · obtain ⟨-, rfl⟩ := Prod.mk.inj (Except.ok.inj h)
      exact (EngineReads.of_unit (UnitReads.walked s n va nb false)).trans (.draw _)
    · exact .of_unit (UnitReads.agentRead h)

theorem State.engineFetch_reads {s u : State} {n va nb v : Nat} {own : Option (Nat × Nat)} (h : s.engineFetch n va nb own = .ok (v, u)) : EngineReads s u := by
  rw [State.engineFetch] at h
  split at h
  · cases h
  · cases h
  · split at h
    · cases h
    next r hread =>
      obtain rfl := Except.ok.inj h
      exact State.engineRead_reads hread

theorem State.readSome_reads (n nb : Nat) (own : Option (Nat × Nat)) (l : List Nat) (s : State) : EngineReads s (s.readSome n nb own l).2.1 := by
  induction l generalizing s with
  | nil => exact .refl s
  | cons a l ih =>
    rw [State.readSome]
    split
    · exact .refl s
    next v u hfetch => exact (State.engineFetch_reads hfetch).trans (ih u)

theorem State.readEach_reads {s u : State} {n nb : Nat} {own : Option (Nat × Nat)} {l v : List Nat} (h : s.readEach n nb own l = .ok (v, u)) : EngineReads s u := by
  have hsome := State.readSome_reads n nb own l s
  rw [State.readEach] at h
  split at h
  · cases h
  next w s1 hread =>
    obtain ⟨-, rfl⟩ := Prod.mk.inj (Except.ok.inj h)
    rw [hread] at hsome
    exact hsome

/-! ### Pins of a step -/

theorem Pinned.pinAll (n : Nat) (need : List (Nat × Nat)) (s : State) : Pinned n s (s.pinAll n need).1 := by
  have hfold : ∀ (m : State × Nat × Bool), Pinned n m.1 (need.foldl (fun (m : State × Nat × Bool) e =>
      if m.1.pinnable e.1 then
        let cost := (m.1.xlate n e.2).2 + if (m.1.stop (homeOf (128 * e.1))).l2Lines.contains e.1 then 0 else m.1.missLeft e.1 0
        ((m.1.cacheFor n e.2 8).pinLine n e.1, max m.2.1 cost, m.2.2)
      else (m.1, m.2.1, true)) m).1 := by
    induction need with
    | nil => exact fun m => .refl n m.1
    | cons e l ih =>
      intro m
      rw [List.foldl_cons]
      refine Pinned.trans ?_ (ih _)
      split
      · exact (Pinned.cacheFor n e.2 8 false m.1).trans (.pinLine n e.1 _)
      · exact .refl n m.1
  exact hfold (s, 0, false)

theorem State.unpin_tiles (s : State) (l : List Nat) : Kept s (s.unpin l) ∧ (s.unpin l).tiles = s.tiles := by
  rw [State.unpin]
  induction l generalizing s with
  | nil => exact ⟨.refl s, rfl⟩
  | cons a l ih =>
    rw [List.foldl_cons]
    obtain ⟨hkept, htiles⟩ := ih (s.modStop (homeOf (128 * a)) fun x => { x with pins := Tbl.set x.pins a (x.pinsOf a - 1) })
    exact ⟨(Kept.modStop s _ _).trans hkept, htiles⟩

/-! ### A step -/

/-- The lines that a run's next step needs and has not pinned. -/
def State.lacking (s : State) (n : Nat) (r : Run) : List (Nat × Nat) :=
  (s.opLines n ((r.fetches r.step).1 ++ (r.fetches r.step).2)).filter fun e => !r.pinned.contains e.1

/-- A run that waits. -/
def Run.waitsTo (tc : Nat) (r : Run) : Run := { r with readyAt := tc }

/-- A run that an access it cannot make stops: it goes on in the next tc where a guard stalls it, and is to freeze otherwise (R246, R324). -/
def Run.stopsAt (tc : Nat) (e : Nat × Nat) (r : Run) : Run := if e.1 = 0 then { r with readyAt := tc + 1 } else { r with fault := some e }

theorem State.runStops_eq (s : State) (n : Nat) (e : Nat × Nat) : s.runStops n e = s.modRun n (Run.stopsAt s.tc e) := rfl

theorem Run.stopsAt_step (tc : Nat) (e : Nat × Nat) (r : Run) : (r.stopsAt tc e).step = r.step ∧ (r.stopsAt tc e).qab = r.qab ∧ (e.1 = 0 → (r.stopsAt tc e).readyAt = tc + 1) ∧
    (e.1 ≠ 0 → (r.stopsAt tc e).fault = some e) := by
  rw [Run.stopsAt]
  split
  next h => exact ⟨rfl, rfl, fun _ => rfl, fun hne => absurd h hne⟩
  next h => exact ⟨rfl, rfl, fun hz => absurd hz h, fun _ => rfl⟩

/-- A run after a step on the words of A and of B. -/
def Run.stepped (wa wb : List Nat) (last : Prop) [Decidable last] (tc : Nat) (fenced : BitVec 16) (q : Run) : Run :=
  { q.accumulate q.step wa wb with
    step := q.step + 1
    inA := q.inA.drop 1
    inB := q.inB.drop 1
    readyAt := if last then tc + (if mxCist q.img then 4 else 12) else tc + (if fenced = 0 then 1 else 2)
    lastAt := tc
    pinned := if last then [] else q.pinned }

/-- The run's pins are released with its last step. -/
def State.unpinned (s : State) (n : Nat) (last : Prop) [Decidable last] (u : State) : State := if last then u.unpin (((s.tile n).mx.run.map (·.pinned)).getD []) else u

theorem State.unpinned_tile (s : State) (n : Nat) (last : Prop) [Decidable last] (u : State) : Kept u (s.unpinned n last u) ∧ (s.unpinned n last u).tile n = u.tile n := by
  rw [State.unpinned]
  split
  · obtain ⟨hkept, htiles⟩ := u.unpin_tiles (((s.tile n).mx.run.map (·.pinned)).getD [])
    exact ⟨hkept, by rw [State.tile, htiles]; rfl⟩
  · exact ⟨.refl u, rfl⟩

section
variable {s : State} {r : Run} (hrun : (s.tile s.focus.a).mx.run = some r)
include hrun

/-- A step waits for the lines it lacks (R222). -/
theorem matrixStep_waits {v : State} {c : Nat × Bool} (hpin : s.pinAll s.focus.a (s.lacking s.focus.a r) = (v, c)) (hwait : c.2 = true ∨ c.1 ≠ 0) :
    ∃ t q, exec .matrixStep s = .next t ∧ Kept s t ∧ (t.tile s.focus.a).mx.run = some q ∧ q.step = r.step ∧ q.qab = r.qab ∧ q.readyAt = s.tc + max 1 c.1 := by
  have hbool : (c.2 || c.1 != 0) = true := by simpa using hwait
  have hexec : exec .matrixStep s = .next (v.modRun s.focus.a (Run.waitsTo (s.tc + max 1 c.1))) := by
    change execMatrixStep s = _
    simp only [execMatrixStep, hrun]
    rw [show s.pinAll s.focus.a ((s.opLines s.focus.a ((r.fetches r.step).1 ++ (r.fetches r.step).2)).filter fun e => !r.pinned.contains e.1) = (v, c) from hpin]
    simp only [hbool, if_true]
    rfl
  have hpinned := Pinned.pinAll s.focus.a (s.lacking s.focus.a r) s
  rw [hpin] at hpinned
  obtain ⟨k, l, htile⟩ := hpinned.tile r hrun
  refine ⟨_, Run.waitsTo (s.tc + max 1 c.1) { r with pinned := l }, hexec, hpinned.kept.trans (.modRun _ _ _), ?_, rfl, rfl, rfl⟩
  rw [State.tile_modRun, Tile.modRun, htile]
  rfl

section
variable {s1 : State} (hpin : s.pinAll s.focus.a (s.lacking s.focus.a r) = (s1, 0, false))
include hpin

/-- The run of a step whose lines are pinned. -/
theorem matrixStep_pinned : Pinned s.focus.a s s1 := by
  have hpinned := Pinned.pinAll s.focus.a (s.lacking s.focus.a r) s
  rw [hpin] at hpinned
  exact hpinned

/-- A step freezes, or is stalled, at a fetch that cannot be made (R246, R324). -/
theorem matrixStep_stops {e : Nat × Nat} (hread : s1.readEach s.focus.a 8 (r.own s.focus.a) (r.fetches r.step).1 = .error e) :
    ∃ t q, exec .matrixStep s = .next t ∧ Kept s t ∧ (t.tile s.focus.a).mx.run = some q ∧ q.step = r.step ∧ q.qab = r.qab ∧ (e.1 = 0 → q.readyAt = s.tc + 1) ∧
      (e.1 ≠ 0 → q.fault = some e) := by
  have hexec : exec .matrixStep s = .next (s1.runStops s.focus.a e) := by
    change execMatrixStep s = _
    simp only [execMatrixStep, hrun]
    rw [show s.pinAll s.focus.a ((s.opLines s.focus.a ((r.fetches r.step).1 ++ (r.fetches r.step).2)).filter fun e => !r.pinned.contains e.1) = (s1, 0, false) from hpin]
    simp only [bne_self_eq_false, Bool.or_self, Bool.false_eq_true, if_false, hread]
  have hpinned := matrixStep_pinned hrun hpin
  obtain ⟨k, l, htile⟩ := hpinned.tile r hrun
  have htc : s1.tc = s.tc := congrArg (· / 2) hpinned.kept.time.1
  refine ⟨_, Run.stopsAt s1.tc e { r with pinned := l }, hexec, ?_, ?_, ?_⟩
  · rw [State.runStops_eq]
    exact hpinned.kept.trans (.modRun _ _ _)
  · rw [State.runStops_eq, State.tile_modRun, Tile.modRun, htile]
    rfl
  · rw [← htc]
    exact Run.stopsAt_step s1.tc e { r with pinned := l }

/-- A step adds its plane products and goes on one tc later (R309, R310). -/
theorem matrixStep_adds {la lb wa wb : List Nat} {s2 s3 : State} (hreadA : s1.readEach s.focus.a 8 (r.own s.focus.a) (r.fetches r.step).1 = .ok (la, s2))
    (hreadB : s2.readEach s.focus.a 8 (r.own s.focus.a) (r.fetches r.step).2 = .ok (lb, s3)) (hout : mxAout r.img = false) (houtB : mxBout r.img = false)
    (hwa : (if mxAin r.img then (r.inA.head?.map (·.2)).getD [] else la) = wa) (hwb : (if mxBin r.img then (r.inB.head?.map (·.2)).getD [] else lb) = wb) :
    ∃ t q, exec .matrixStep s = .next t ∧ Kept s3 t ∧ (t.tile s.focus.a).mx.run = some q ∧ q.step = r.step + 1 ∧ q.inA = r.inA.drop 1 ∧ q.inB = r.inB.drop 1 ∧
      q.qab = (r.accumulate r.step wa wb).qab ∧ q.qa = (r.accumulate r.step wa wb).qa ∧ q.qb = (r.accumulate r.step wa wb).qb ∧
      (r.step + 1 < r.total → q.readyAt = s.tc + (if (s.tile s.focus.a).mxFenced = 0 then 1 else 2)) ∧ (r.total ≤ r.step + 1 → q.pinned = []) := by
  have hexec : exec .matrixStep s = .next (s3.unpinned s.focus.a (r.total ≤ r.step + 1)
      (s3.modRun s.focus.a (Run.stepped wa wb (r.total ≤ r.step + 1) s.tc (s.tile s.focus.a).mxFenced))) := by
    change execMatrixStep s = _
    simp only [execMatrixStep, hrun]
    rw [show s.pinAll s.focus.a ((s.opLines s.focus.a ((r.fetches r.step).1 ++ (r.fetches r.step).2)).filter fun e => !r.pinned.contains e.1) = (s1, 0, false) from hpin]
    simp only [bne_self_eq_false, Bool.or_self, Bool.false_eq_true, if_false, hreadA, hreadB, hout, houtB, Bool.false_and, hwa, hwb, State.unpinned]
    rfl
  have hpinned := matrixStep_pinned hrun hpin
  obtain ⟨k, l, htile⟩ := hpinned.tile r hrun
  have hreads := (State.readEach_reads hreadA).trans (State.readEach_reads hreadB)
  have hrun3 : (s3.tile s.focus.a).mx.run = some { r with pinned := l } := by
    rw [hreads.mx, htile]
  obtain ⟨hkept, hsame⟩ := s3.unpinned_tile s.focus.a (r.total ≤ r.step + 1)
    (s3.modRun s.focus.a (Run.stepped wa wb (r.total ≤ r.step + 1) s.tc (s.tile s.focus.a).mxFenced))
  refine ⟨_, Run.stepped wa wb (r.total ≤ r.step + 1) s.tc (s.tile s.focus.a).mxFenced { r with pinned := l }, hexec, (Kept.modRun s3 _ _).trans hkept, ?_, rfl, rfl, rfl, rfl, rfl,
    rfl, fun h => ?_, fun h => ?_⟩
  · rw [hsame, State.tile_modRun, Tile.modRun, hrun3]
    rfl
  · exact if_neg (Nat.not_le.mpr h)
  · exact if_pos h

end
end

/-! ### What a step adds -/

/-- Adding to one number of a table. -/
def addAt (t : Tbl Int) (k : Nat) (v : Int) : Tbl Int := if v = 0 then t else Tbl.set t k (Tbl.get 0 t k + v)

theorem addAt_get (t : Tbl Int) (k j : Nat) (v : Int) : Tbl.get 0 (addAt t k v) j = Tbl.get 0 t j + if j = k then v else 0 := by
  rw [addAt]
  split
  next h => simp [h]
  next h =>
    split
    next hj => rw [hj, Tbl.get_set_same]
    next hj => rw [Tbl.get_set_ne _ _ _ hj, Int.add_zero]

/-- Adding at several places, one after another. -/
theorem addAt_foldl {α : Type} (l : List α) (key : α → Nat) (val : α → Int) (t : Tbl Int) (j : Nat) :
    Tbl.get 0 (l.foldl (fun t x => addAt t (key x) (val x)) t) j = Tbl.get 0 t j + (l.map fun x => if j = key x then val x else 0).sum := by
  induction l generalizing t with
  | nil => exact (Int.add_zero _).symm
  | cons x l ih => rw [List.foldl_cons, ih, addAt_get, List.map_cons, List.sum_cons, Int.add_assoc]

/-- Adding at the places of two lists' pairs. -/
theorem addAt_foldl_pairs {α β : Type} (l : List α) (m : List β) (key : α → β → Nat) (val : α → β → Int) (t : Tbl Int) (j : Nat) :
    Tbl.get 0 (l.foldl (fun t x => m.foldl (fun t y => addAt t (key x y) (val x y)) t) t) j =
      Tbl.get 0 t j + (l.map fun x => (m.map fun y => if j = key x y then val x y else 0).sum).sum := by
  induction l generalizing t with
  | nil => exact (Int.add_zero _).symm
  | cons x l ih => rw [List.foldl_cons, ih, addAt_foldl, List.map_cons, List.sum_cons, Int.add_assoc]

/-- Of numbers that only one place's element gives, the sum is that element's. -/
theorem sum_zipIdx_at {α : Type} (l : List α) (f : α → Int) (n i : Nat) :
    ((l.zipIdx n).map fun x => if x.2 = i then f x.1 else 0).sum = if n ≤ i then ((l[i - n]?).map f).getD 0 else 0 := by
  induction l generalizing n with
  | nil => simp
  | cons a l ih =>
    rw [List.zipIdx_cons, List.map_cons, List.sum_cons, ih]
    rcases Nat.lt_trichotomy n i with h | h | h
    · obtain ⟨d, rfl⟩ := Nat.exists_eq_add_of_lt h
      have hd : n + d + 1 - n = (n + d + 1 - (n + 1)) + 1 := by omega
      rw [if_neg (Nat.ne_of_lt h), if_pos (Nat.succ_le_of_lt h), if_pos (Nat.le_of_lt h), hd, List.getElem?_cons_succ, Int.zero_add]
    · subst h
      simp
    · rw [if_neg (Nat.ne_of_gt h), if_neg (by omega), if_neg (by omega), Int.zero_add]

theorem sum_zipIdx_of_getElem? {α : Type} {l : List α} {i : Nat} {a : α} (h : l[i]? = some a) (f : α → Int) :
    (l.zipIdx.map fun x => if x.2 = i then f x.1 else 0).sum = f a := by
  rw [sum_zipIdx_at, if_pos (Nat.zero_le i), Nat.sub_zero, h]
  rfl

/-- What a step adds to the sum of one pair of rows (R309). -/
theorem Run.accumulate_pair (r : Run) (m : Nat) {wa wb : List Nat} {i j a b : Nat} (hwb : wb.length ≤ 128) (ha : wa[i]? = some a) (hb : wb[j]? = some b) :
    Tbl.get 0 (r.accumulate m wa wb).qab (128 * i + j) = Tbl.get 0 r.qab (128 * i + j) + planeWeight (tenSigned r.tA.toNat) (mxPa r.img) (r.stepAt m).1 *
      planeWeight (tenSigned r.tB.toNat) (mxPb r.img) (r.stepAt m).2.1 * (popcount64 (a &&& b &&& r.kmask (r.stepAt m).2.2) : Nat) := by
  have hj : j < 128 := Nat.lt_of_lt_of_le (List.getElem?_eq_some_iff.mp hb).1 hwb
  have hkey (x y : Nat × Nat) (hy : y ∈ wb.zipIdx) : (128 * i + j = 128 * x.2 + y.2) ↔ (x.2 = i ∧ y.2 = j) := by
    have hlt : y.2 < 128 := Nat.lt_of_lt_of_le (List.snd_lt_of_mem_zipIdx hy) (by simpa using hwb)
    omega
  let g : Int := planeWeight (tenSigned r.tA.toNat) (mxPa r.img) (r.stepAt m).1 * planeWeight (tenSigned r.tB.toNat) (mxPb r.img) (r.stepAt m).2.1
  let val (x y : Nat) : Int := g * (popcount64 (x &&& y &&& r.kmask (r.stepAt m).2.2) : Nat)
  have hfold : (r.accumulate m wa wb).qab = wa.zipIdx.foldl (fun t x => wb.zipIdx.foldl (fun t y => addAt t (128 * x.2 + y.2) (val x.1 y.1)) t) r.qab := rfl
  have hinner (x : Nat × Nat) : (wb.zipIdx.map fun y => if 128 * i + j = 128 * x.2 + y.2 then val x.1 y.1 else 0).sum = if x.2 = i then val x.1 b else 0 := by
    by_cases hx : x.2 = i
    · rw [if_pos hx, ← sum_zipIdx_of_getElem? hb (val x.1)]
      exact congrArg List.sum (List.map_congr_left fun y hy => if_congr ((hkey x y hy).trans (and_iff_right hx)) rfl rfl)
    · rw [if_neg hx]
      refine List.sum_eq_zero fun v hv => ?_
      obtain ⟨y, hy, rfl⟩ := List.mem_map.mp hv
      exact if_neg fun h => hx ((hkey x y hy).mp h).1
  rw [hfold, addAt_foldl_pairs]
  simp only [hinner]
  rw [sum_zipIdx_of_getElem? ha fun x => val x b]

end Sys2Proof.Machine
end

section
/-! SUPPORT. The ends of a matrix run: retirement, freezing, precision messages, outputs and deposits, self-tests (R313 to R327). -/
namespace Sys2Proof.Machine

/-! ### Channels that retire -/

/-- The tile where a channel retires; a write of it that is on its way is kept apart. -/
def Tile.retires (ch st : Nat) (c : Channel) (x : Tile) : Tile :=
  { x.modChan ch (Channel.closed st) with lastWrites := if c.flying then x.lastWrites ++ [(ch, { c with status := st })] else x.lastWrites }

/-- The machine where a channel retires, before its message goes. -/
def State.chanRetired (s : State) (t ch st : Nat) : State :=
  (if st = 0 then ((s.gatherOver ((s.tile t).chan ch) st).dropGuard t ch).setChan t ch .done else (s.gatherOver ((s.tile t).chan ch) st).setChan t ch .aborted).modTile t
    (Tile.retires ch st ((s.tile t).chan ch))

theorem State.retireChan_eq (s : State) (t ch st : Nat) : s.retireChan t ch st =
    if ((s.tile t).chan ch).flying then s.chanRetired t ch st
    else (s.chanRetired t ch st).doneMessage t ch st ((s.tile t).chan ch).wm.toNat ((s.tile t).chan ch).count ((s.tile t).chan ch).done ((s.tile t).chan ch).inst := rfl

/-- How a channel that retires with a status ends. -/
def endState (st : Nat) : ChanState := if st = 0 then .done else .aborted

theorem State.chanRetired_tile (s : State) (t ch st : Nat) : ∃ g l, (s.chanRetired t ch st).tile t =
    { (s.tile t).modChan ch (fun _ => (((s.tile t).chan ch).inState (endState st)).closed st) with guards := g, lastWrites := l } := by
  have hset (u : State) (hu : u.tile t = { s.tile t with guards := (u.tile t).guards }) (e : ChanState) : ∃ g l, ((u.setChan t ch e).modTile t (Tile.retires ch st ((s.tile t).chan ch))).tile t =
      { (s.tile t).modChan ch (fun _ => (((s.tile t).chan ch).inState e).closed st) with guards := g, lastWrites := l } := by
    obtain ⟨g, hg⟩ := u.setChan_tile t ch e
    refine ⟨g, if ((s.tile t).chan ch).flying then (s.tile t).lastWrites ++ [(ch, { (s.tile t).chan ch with status := st })] else (s.tile t).lastWrites, ?_⟩
    rw [State.tile_modTile_same, hg, hu]
    simp only [Tile.retires, Tile.modChan, Tile.chan, Tbl.set_set, Tbl.get_set_same]
  have hover := (s.gatherOver_tile ((s.tile t).chan ch) st t).1
  rw [State.chanRetired, endState]
  split
  · refine hset _ ?_ _
    refine ((GuardsOnly.dropGuard (s.gatherOver ((s.tile t).chan ch) st) t ch).tile t).trans ?_
    rw [hover]
  · refine hset _ ?_ _
    rw [hover]

/-- What a channel that retires leaves of its tile; without a handle for it there is no message. -/
theorem State.retireChan_tile (s : State) (t ch st : Nat) : ∃ g w l, (s.retireChan t ch st).tile t =
    { (s.tile t).modChan ch (fun _ => (((s.tile t).chan ch).inState (endState st)).closed st) with guards := g, weir := w, lastWrites := l } ∧
    (((s.tile t).chan ch).done = 0 → w = (s.tile t).weir) := by
  obtain ⟨g, l, h⟩ := s.chanRetired_tile t ch st
  rw [State.retireChan_eq]
  split
  · exact ⟨g, (s.tile t).weir, l, h, fun _ => rfl⟩
  · by_cases hdone : ((s.tile t).chan ch).done = 0
    · rw [State.doneMessage, if_pos hdone]
      exact ⟨g, (s.tile t).weir, l, h, fun _ => rfl⟩
    · obtain ⟨⟨w, hw⟩, -⟩ := (s.chanRetired t ch st).doneMessage_tile t ch st ((s.tile t).chan ch).wm.toNat ((s.tile t).chan ch).count ((s.tile t).chan ch).done
        ((s.tile t).chan ch).inst
      refine ⟨g, w, l, ?_, fun hz => absurd hz hdone⟩
      rw [hw, h]

/-! ### Runs that retire -/

/-- A tile whose engine has no run. -/
def Tile.idles (x : Tile) : Tile := { x with mx := { x.mx with run := none } }
/-- A tile whose engine's last run has ended with a status. -/
def Tile.lastRun (st : Nat) (x : Tile) : Tile := { x with mx := { x.mx with last := st } }

/-- The machine whose run is over, its pins released and its channel retired. -/
def State.runOver (s : State) (n st : Nat) (r : Run) : State :=
  if mxCist r.img then (s.modTile n Tile.idles).unpin r.pinned else ((s.modTile n Tile.idles).unpin r.pinned).retireChan n (mxChan r.img) (if st = 0 then 0 else 1)

theorem State.retireRun_eq {s : State} {n : Nat} {r : Run} (hrun : (s.tile n).mx.run = some r) (st : Nat) : ∃ passes count flags, s.retireRun n st =
    ((s.runOver n st r).modTile n (Tile.lastRun st)).mxMessage n r.cmd st passes count flags := by
  simp only [State.retireRun, hrun]
  exact ⟨_, _, _, rfl⟩

/-- What the end of a run leaves of its tile. -/
theorem State.runOver_spec (s : State) (n st : Nat) (r : Run) : Kept s (s.runOver n st r) ∧ ((s.runOver n st r).tile n).mx.run = none ∧
    ((mxCist r.img = true ∨ ((s.tile n).chan (mxChan r.img)).done = 0) → ((s.runOver n st r).tile n).weir.outbound = (s.tile n).weir.outbound) ∧
    (mxCist r.img = false → (((s.runOver n st r).tile n).chan (mxChan r.img)).state = endState st ∧ (((s.runOver n st r).tile n).chan (mxChan r.img)).status = if st = 0 then 0 else 1) := by
  obtain ⟨hkept, htiles⟩ := (s.modTile n Tile.idles).unpin_tiles r.pinned
  have htile : ((s.modTile n Tile.idles).unpin r.pinned).tile n = (s.tile n).idles := by
    rw [State.tile, htiles]
    exact State.tile_modTile_same s n Tile.idles
  have hbegin : Kept s ((s.modTile n Tile.idles).unpin r.pinned) := (Kept.modTile s n (f := Tile.idles) (fun _ => rfl) fun _ => rfl).trans hkept
  rw [State.runOver]
  split
  next hcist =>
    rw [htile]
    exact ⟨hbegin, rfl, fun _ => rfl, fun h => Bool.noConfusion (hcist.symm.trans h)⟩
  next hcist =>
    obtain ⟨g, w, l, hret, hweir⟩ := ((s.modTile n Tile.idles).unpin r.pinned).retireChan_tile n (mxChan r.img) (if st = 0 then 0 else 1)
    have hend : endState (if st = 0 then 0 else 1) = endState st := by
      by_cases h : st = 0
      · rw [if_pos h, h]
      · rw [if_neg h, endState, endState, if_neg h]
        rfl
    have hchan : ((((s.modTile n Tile.idles).unpin r.pinned).retireChan n (mxChan r.img) (if st = 0 then 0 else 1)).tile n).chan (mxChan r.img) =
        ((((((s.modTile n Tile.idles).unpin r.pinned).tile n).chan (mxChan r.img)).inState (endState (if st = 0 then 0 else 1))).closed (if st = 0 then 0 else 1)) := by
      rw [hret]
      exact Tbl.get_set_same ..
    refine ⟨hbegin.trans (CoreKept.retireChan _ _ _ _).kept, ?_, fun hno => ?_, fun _ => ?_⟩
    · rw [hret, htile]
      rfl
    · have hdone : ((s.tile n).chan (mxChan r.img)).done = 0 := hno.resolve_left hcist
      rw [hret, hweir (by rw [htile]; exact hdone), htile]
      rfl
    · rw [hchan, ← hend]
      exact ⟨rfl, rfl⟩

/-- A run that retires leaves its engine, with its status; its message tells, and its channel has retired (R312, R317, R324). -/
theorem State.retireRun_spec {s : State} {n : Nat} {r : Run} (hrun : (s.tile n).mx.run = some r) {st : Nat} (hst : st < 2 ^ 8) :
    Kept s (s.retireRun n st) ∧ ((s.retireRun n st).tile n).mx.run = none ∧ ((s.retireRun n st).tile n).mx.last = st ∧
    (mxCist r.img = true → MxTold s (s.retireRun n st) n r.cmd st) ∧
    (mxCist r.img = false → (((s.retireRun n st).tile n).chan (mxChan r.img)).state = (if st = 0 then .done else .aborted) ∧
      (((s.retireRun n st).tile n).chan (mxChan r.img)).status = (if st = 0 then 0 else 1) ∧
      (((s.tile n).chan (mxChan r.img)).done = 0 → MxTold s (s.retireRun n st) n r.cmd st)) := by
  obtain ⟨passes, count, flags, heq⟩ := State.retireRun_eq hrun st
  obtain ⟨hkept, hnone, hsame, hchan⟩ := s.runOver_spec n st r
  let u := (s.runOver n st r).modTile n (Tile.lastRun st)
  have hu : u.tile n = ((s.runOver n st r).tile n).lastRun st := State.tile_modTile_same ..
  obtain ⟨hmsg, w, htile⟩ := u.mxMessage_tile n r.cmd st passes count flags
  have htold (h : mxCist r.img = true ∨ ((s.tile n).chan (mxChan r.img)).done = 0) : MxTold s (u.mxMessage n r.cmd st passes count flags) n r.cmd st := by
    refine (u.mxMessage_tells n r.cmd passes count flags hst).after ?_
    rw [hu]
    exact hsame h
  have hlast : Kept (s.runOver n st r) u := .modTile _ n (f := Tile.lastRun st) (fun _ => rfl) fun _ => rfl
  have hend : (u.mxMessage n r.cmd st passes count flags).tile n = { ((s.runOver n st r).tile n).lastRun st with weir := w } := by rw [htile, hu]
  rw [heq]
  refine ⟨(hkept.trans hlast).trans hmsg, ?_, ?_, fun h => htold (.inl h), fun h => ⟨?_, ?_, fun hz => htold (.inr hz)⟩⟩
  · exact (congrArg (fun x : Tile => x.mx.run) hend).trans hnone
  · exact (congrArg (fun x : Tile => x.mx.last) hend).trans rfl
  · exact (congrArg (fun x : Tile => (x.chan (mxChan r.img)).state) hend).trans (hchan h).1
  · exact (congrArg (fun x : Tile => (x.chan (mxChan r.img)).status) hend).trans (hchan h).2

theorem systolicWaitTimeout_eq (s : State) : exec .systolicWaitTimeout s = .next (s.retireRun s.focus.a 3) := rfl
theorem matrixCompletion_eq (s : State) : exec .matrixCompletion s = .next (s.retireRun s.focus.a 0) := rfl

/-! ### Precision messages -/

/-- What outlier values add to a precision message lies above its first field. -/
theorem precVals_mod (l : List (Nat × Nat)) (m : Nat) : (l.foldl (fun m p => m + p.1 * 2 ^ (128 + 16 * p.2)) m) % 2 ^ 20 = m % 2 ^ 20 := by
  induction l generalizing m with
  | nil => rfl
  | cons a l ih =>
    have hpow : 2 ^ (128 + 16 * a.2) = 2 ^ 20 * 2 ^ (108 + 16 * a.2) := by
      rw [← pow_add]
      congr 1
      omega
    rw [List.foldl_cons, ih, hpow, Nat.mul_left_comm, Nat.add_mul_mod_self_left]

/-- The fields of a precision message (R322). -/
def Run.precImage (r : Run) (side j first e : Nat) (l : List Nat) : Nat :=
  mxCbase r.img + ((tenOuts e)[j]?).getD 0 * 2 ^ 32 + (if side = 0 then fld r.img 168 8 else fld r.img 160 8) * 2 ^ 48 + side * 2 ^ 56 + first * 2 ^ 64 +
    min 24 ((if side = 0 then r.rows else r.cols) - first) * 2 ^ 80 + (mxCols r.img - 1) * 2 ^ 88 + (if side = 0 then r.rB else r.rA) * 2 ^ 96 +
    ((if side = 0 then mxPb r.img else mxPa r.img) - 1) * 2 ^ 112 + (mxRows r.img - 1) * 2 ^ 120 + l.zipIdx.foldl (fun m p => m + p.1 * 2 ^ (128 + 16 * p.2)) 0

theorem Run.precImage_base (r : Run) (side j first e : Nat) (l : List Nat) : fld (r.precImage side j first e l) 0 20 = mxCbase r.img := by
  have hvals := precVals_mod l.zipIdx 0
  have hbase : mxCbase r.img < 2 ^ 20 := Nat.mod_lt _ (by decide)
  rw [Run.precImage]
  generalize l.zipIdx.foldl (fun m p => m + p.1 * 2 ^ (128 + 16 * p.2)) 0 = v at hvals ⊢
  generalize mxCbase r.img = b at hbase ⊢
  simp only [fld]
  omega

/-- A run with one precision message more sent. -/
def Run.precGoes (r : Run) : Run := { r with precSent := r.precSent + 1 }

theorem Tile.modRun_run {x : Tile} {r : Run} (h : x.mx.run = some r) (f : Run → Run) : (x.modRun f).mx.run = some (f r) := by
  rw [Tile.modRun, h]
  rfl

/-- The next group of outlier values goes to the precision basin (R321, R322). -/
theorem precisionMessage_sends {s s1 : State} {r : Run} {side j first : Nat} {l : List Nat} (hrun : (s.tile s.focus.a).mx.run = some r)
    (hprec : r.precs[r.precSent]? = some (side, j, first)) {e : Nat} (he : (if side = 0 then r.tA.toNat else r.tB.toNat) = e)
    (hread : s.readEach s.focus.a 2 (r.own s.focus.a) ((List.range (min 24 ((if side = 0 then r.rows else r.cols) - first))).map fun i =>
      (tenOaddr e + 32 * ((if side = 0 then r.rA else r.rB) + first + i) + 2 * j) % 2 ^ 64) = .ok (l, s1)) :
    ∃ t, exec .precisionMessage s = .next t ∧ Kept s1 t ∧ (t.tile s.focus.a).mx.run = some r.precGoes ∧
      Posted s t s.focus.a (BitVec.ofNat 32 (tenPrec e)) 64 fun p => fld p 0 20 = mxCbase r.img := by
  have hexec : exec .precisionMessage s =
      .next ((s1.post s.focus.a 0 (plainMsg s.focus.a (BitVec.ofNat 32 (tenPrec e)) r.cmd.inst 64 (r.precImage side j first e l))).modRun s.focus.a Run.precGoes) := by
    change execPrecisionMessage s = _
    simp only [execPrecisionMessage, hrun, hprec, he, hread]
    rfl
  have hreads := State.readEach_reads hread
  obtain ⟨w, hw⟩ := s1.tile_post s.focus.a 0 (plainMsg s.focus.a (BitVec.ofNat 32 (tenPrec e)) r.cmd.inst 64 (r.precImage side j first e l))
  refine ⟨_, hexec, (Kept.post s1 _ _ _).trans (.modRun _ _ _), ?_, ?_⟩
  · rw [State.tile_modRun]
    refine Tile.modRun_run ?_ _
    rw [hw]
    exact (congrArg Matrix.run (hreads.mx s.focus.a)).trans hrun
  · obtain ⟨k, hk, hrest⟩ := (s1.post_posts s.focus.a 0 (plainMsg s.focus.a (BitVec.ofNat 32 (tenPrec e)) r.cmd.inst 64 (r.precImage side j first e l)) (p := fun p => fld p 0 20 = mxCbase r.img) (r.precImage_base ..)).after
      (hreads.outbound s.focus.a)
    refine ⟨k, ?_, hrest⟩
    rw [State.tile_modRun]
    exact hk

end Sys2Proof.Machine
end

section
/-! SUPPORT. Outputs, deposits, freezing and self-tests of the matrix engine, and the addends of `addw` (R120, R313, R316, R318, R324, R327). -/
namespace Sys2Proof.Machine

/-! ### Reads at the end of the steps -/

theorem State.readExps_reads {s s1 : State} {n : Nat} {r r1 : Run} (h : s.readExps n r = .ok (r1, s1)) : EngineReads s s1 ∧ r1 = { r with exps := r1.exps } := by
  rw [State.readExps] at h
  split at h
  · obtain ⟨rfl, rfl⟩ := Prod.mk.inj (Except.ok.inj h)
    exact ⟨.refl _, rfl⟩
  · dsimp only at h
    split at h
    · cases h
    next a u1 h1 =>
      split at h
      · cases h
      next b u2 h2 =>
        split at h
        · cases h
        next c u3 h3 =>
          obtain ⟨rfl, rfl⟩ := Prod.mk.inj (Except.ok.inj h)
          exact ⟨((State.readEach_reads h1).trans (State.readEach_reads h2)).trans (State.readEach_reads h3), rfl⟩

theorem State.readBias_reads {s s1 : State} {n : Nat} {r r1 : Run} {f : Option (Nat × Nat)} (h : s.readBias n r = (r1, s1, f)) :
    EngineReads s s1 ∧ r1 = { r with bias := r1.bias } := by
  rw [State.readBias] at h
  split at h
  · obtain ⟨rfl, h2⟩ := Prod.mk.inj h
    obtain ⟨rfl, rfl⟩ := Prod.mk.inj h2
    exact ⟨.refl _, rfl⟩
  · have hsome := State.readSome_reads n 4 (r.own n) (((List.range r.cols).drop (r.bias.getD []).length).map fun c => (mxBias r.img + 4 * (r.rB + c)) % 2 ^ 64) s
    obtain ⟨rfl, h2⟩ := Prod.mk.inj h
    rw [h2] at hsome
    exact ⟨hsome, rfl⟩

/-! ### Outputs -/

theorem insertLand_mem (w v : LandWrite) (l : List LandWrite) : v ∈ insertLand w l ↔ v = w ∨ v ∈ l := by
  induction l with
  | nil => simp [insertLand]
  | cons a l ih =>
    rw [insertLand]
    split
    · exact List.mem_cons
    · rw [List.mem_cons, ih, List.mem_cons]
      exact or_left_comm

theorem insertLands_mem (v : LandWrite) (ws l : List LandWrite) : v ∈ ws.foldl (fun l w => insertLand w l) l ↔ v ∈ ws ∨ v ∈ l := by
  induction ws generalizing l with
  | nil => simp
  | cons a ws ih =>
    rw [List.foldl_cons, ih, insertLand_mem, List.mem_cons]
    tauto

/-- A run of which some outputs of the next row are finished. -/
def Run.finished (done tc flags : Nat) (r : Run) : Run :=
  { r with outNext := if decide (r.cols ≤ done) then r.outNext + 1 else r.outNext, part := if decide (r.cols ≤ done) then 0 else done, readyAt := tc + 1,
           made := r.made + (done - r.part), flags := r.flags ||| BitVec.ofNat 5 flags }

/-- A channel that has some writes more to make. -/
def Channel.gainsWrites (ws : List LandWrite) (c : Channel) : Channel := { c with writes := ws.foldl (fun l w => insertLand w l) c.writes }

/-- The flags that the outputs finished now raise. -/
def Run.outFlags (r : Run) (tbl done : Nat) : Nat := ((((List.range done).map fun y => r.chainOut tbl r.outNext y).drop r.part)).foldl (fun m v => m ||| v.2) 0

theorem State.finishOutputs_eq (s : State) (n : Nat) (r : Run) (done : Nat) : s.finishOutputs n r done =
    (s.modRun n fun _ => r.finished done s.tc (r.outFlags (Tbl.get 0 (s.tile n).mx.acts (mxAct r.img)) done)).modTile n fun x => x.modChan (mxChan r.img) (Channel.gainsWrites (r.landWrites r.outNext
      ((List.range done).map fun y => (r.chainOut (Tbl.get 0 (s.tile n).mx.acts (mxAct r.img)) r.outNext y).1) s.tc done)) := by
  rw [State.finishOutputs]
  simp only [List.map_map]
  rfl

theorem State.finishOutputs_spec {s : State} {n : Nat} {q : Run} (hrun : (s.tile n).mx.run = some q) (r : Run) (done : Nat) : Kept s (s.finishOutputs n r done) ∧
    (∃ flags, ((s.finishOutputs n r done).tile n).mx.run = some (r.finished done s.tc flags)) ∧
    ∀ w, w ∈ (((s.finishOutputs n r done).tile n).chan (mxChan r.img)).writes ↔ w ∈ r.landWrites r.outNext
      ((List.range done).map fun y => (r.chainOut (Tbl.get 0 (s.tile n).mx.acts (mxAct r.img)) r.outNext y).1) s.tc done ∨ w ∈ ((s.tile n).chan (mxChan r.img)).writes := by
  rw [State.finishOutputs_eq]
  refine ⟨(Kept.modRun s n _).trans (.modTile _ n (fun _ => rfl) fun _ => rfl), ⟨r.outFlags (Tbl.get 0 (s.tile n).mx.acts (mxAct r.img)) done, ?_⟩, fun w => ?_⟩
  · rw [State.tile_modTile_same, State.tile_modRun]
    exact (Tile.modRun_run hrun _ : ((s.tile n).modRun _).mx.run = _)
  · rw [State.tile_modTile_same, Tile.chan_modChan_same, State.tile_modRun]
    exact insertLands_mem w _ _

section
variable {s : State} {r : Run} (hrun : (s.tile s.focus.a).mx.run = some r)
include hrun

/-- Outputs of a row are finished: their writes go to the landing channel, and where the bias cannot be read the run stops behind them (R313, R316, R324). -/
theorem chainOutput_finishes {r1 r2 : Run} {s1 s2 : State} {f : Option (Nat × Nat)} (hexps : s.readExps s.focus.a r = .ok (r1, s1)) (hbias : s1.readBias s.focus.a r1 = (r2, s2, f))
    {d : Nat} (hd : (if f = none then r2.cols else (r2.bias.getD []).length) = d) : ∃ t q, exec .chainOutput s = .next t ∧ Kept s2 t ∧ (t.tile s.focus.a).mx.run = some q ∧
      q.made = r2.made + (d - r2.part) ∧ q.readyAt = s.tc + 1 ∧ (r2.cols ≤ d → q.outNext = r2.outNext + 1 ∧ q.part = 0) ∧
      (d < r2.cols → q.outNext = r2.outNext ∧ q.part = d) ∧ (∀ e, f = some e → e.1 ≠ 0 → q.fault = some e) ∧
      (∀ w, w ∈ ((t.tile s.focus.a).chan (mxChan r2.img)).writes ↔ w ∈ r2.landWrites r2.outNext
        ((List.range d).map fun y => (r2.chainOut (Tbl.get 0 (s.tile s.focus.a).mx.acts (mxAct r2.img)) r2.outNext y).1) s.tc d ∨
        w ∈ ((s.tile s.focus.a).chan (mxChan r2.img)).writes) := by
  have hreads := (State.readExps_reads hexps).1.trans (State.readBias_reads hbias).1
  have hrun2 : (s2.tile s.focus.a).mx.run = some r := (congrArg Matrix.run (hreads.mx s.focus.a)).trans hrun
  obtain ⟨hkept, ⟨flags, hdone⟩, hwrites⟩ := State.finishOutputs_spec hrun2 r2 d
  rw [hreads.mx, hreads.tc, hreads.chan] at hwrites
  rw [hreads.tc] at hdone
  have hnext (done : Nat) : (r2.cols ≤ done → (r2.finished done s.tc flags).outNext = r2.outNext + 1 ∧ (r2.finished done s.tc flags).part = 0) ∧
      (done < r2.cols → (r2.finished done s.tc flags).outNext = r2.outNext ∧ (r2.finished done s.tc flags).part = done) := by
    refine ⟨fun h => ?_, fun h => ?_⟩
    · exact ⟨if_pos (decide_eq_true h), if_pos (decide_eq_true h)⟩
    · have hno : ¬ decide (r2.cols ≤ done) = true := by simpa using h
      exact ⟨if_neg hno, if_neg hno⟩
  cases f with
  | none =>
    obtain rfl : r2.cols = d := hd
    have hexec : exec .chainOutput s = .next (s2.finishOutputs s.focus.a r2 r2.cols) := by
      change execChainOutput s = _
      simp only [execChainOutput, hrun, hexps, hbias]
    exact ⟨_, _, hexec, hkept, hdone, rfl, rfl, (hnext _).1, (hnext _).2, (fun _ he => by cases he), hwrites⟩
  | some e =>
    obtain rfl : (r2.bias.getD []).length = d := hd
    have hexec : exec .chainOutput s = .next ((s2.finishOutputs s.focus.a r2 (r2.bias.getD []).length).runStops s.focus.a e) := by
      change execChainOutput s = _
      simp only [execChainOutput, hrun, hexps, hbias]
    have htc : (s2.finishOutputs s.focus.a r2 (r2.bias.getD []).length).tc = s.tc := (congrArg (· / 2) hkept.time.1).trans hreads.tc
    refine ⟨_, Run.stopsAt s.tc e (r2.finished (r2.bias.getD []).length s.tc flags), hexec, hkept.trans (.modRun _ _ _), ?_, ?_, ?_, ?_, ?_, ?_, fun w => ?_⟩
    · rw [State.runStops_eq, State.tile_modRun, htc]
      exact Tile.modRun_run hdone _
    · rw [Run.stopsAt]
      split <;> rfl
    · rw [Run.stopsAt]
      split <;> rfl
    · rw [Run.stopsAt]
      split
      · exact (hnext _).1
      · exact (hnext _).1
    · rw [Run.stopsAt]
      split
      · exact (hnext _).2
      · exact (hnext _).2
    · intro e' he hne
      obtain rfl := Option.some.inj he
      exact (Run.stopsAt_step s.tc e _).2.2.2 hne
    · rw [State.runStops_eq, State.tile_modRun]
      exact hwrites w

/-- A run whose exponents cannot be read stops there (R246, R324). -/
theorem readExps_stops {e : Nat × Nat} (hexps : s.readExps s.focus.a r = .error e) : ∃ t u, exec .chainOutput s = .next t ∧ exec .cisternDeposit s = .next u ∧ Kept s t ∧ Kept s u ∧
    (t.tile s.focus.a).mx.run = some (r.stopsAt s.tc e) ∧ (u.tile s.focus.a).mx.run = some (r.stopsAt s.tc e) := by
  have hout : exec .chainOutput s = .next (s.runStops s.focus.a e) := by
    change execChainOutput s = _
    simp only [execChainOutput, hrun, hexps]
  have hdep : exec .cisternDeposit s = .next (s.runStops s.focus.a e) := by
    change execCisternDeposit s = _
    simp only [execCisternDeposit, hrun, hexps]
  have hnew : ((s.runStops s.focus.a e).tile s.focus.a).mx.run = some (r.stopsAt s.tc e) := by
    rw [State.runStops_eq, State.tile_modRun]
    exact Tile.modRun_run hrun _
  exact ⟨_, _, hout, hdep, .modRun _ _ _, .modRun _ _ _, hnew, hnew⟩

end

/-! ### Deposits and addends -/

theorem Tile.applyAddend_tile (x : Tile) (addr block special : Nat) (num exp : Int) : ∃ p q, x.applyAddend addr block special num exp = { x with pool := p, poison := q } := by
  rw [Tile.applyAddend]
  split <;> exact ⟨_, _, rfl⟩

theorem Tile.applyAddend_pool {x y : Tile} (h : y.pool = x.pool) (addr block special : Nat) (num exp : Int) :
    (y.applyAddend addr block special num exp).pool = (x.applyAddend addr block special num exp).pool := by
  have hread (a n : Nat) : y.poolRead a n = x.poolRead a n := by rw [Tile.poolRead, Tile.poolRead, h]
  simp only [Tile.applyAddend, hread]
  split <;> simp only [Tile.poolWrite, Tile.poolRead, h]

/-- Memory, jets and the other pools are as before. -/
def PoolOnly (s u t : State) (n : Nat) : Prop := t.mem = u.mem ∧ (∀ m i, t.jet m i = s.jet m i) ∧ ∀ m, m ≠ n → (t.tile m).pool = (s.tile m).pool

/-- An addend is added in a tile's pool alone. -/
theorem PoolOnly.addend {s u : State} (n : Nat) (hjets : ∀ m i, u.jet m i = s.jet m i) (hpools : ∀ m, (u.tile m).pool = (s.tile m).pool) (addr block special : Nat) (num exp : Int) :
    PoolOnly s u (u.modTile n fun x => x.applyAddend addr block special num exp) n := by
  refine ⟨rfl, fun m i => ?_, fun m hm => ?_⟩
  · rw [← hjets m i]
    by_cases hm : m = n
    · obtain ⟨p, q, h⟩ := (u.tile n).applyAddend_tile addr block special num exp
      rw [State.jet, State.jet, hm, State.tile_modTile_same, h]
      rfl
    · rw [State.jet, State.tile_modTile_ne _ _ hm]
      rfl
  · rw [State.tile_modTile_ne _ _ hm]
    exact hpools m

/-- A run that has made one deposit more. -/
def Run.deposits (tc : Nat) (r : Run) : Run := { r with made := r.made + 1, lastAt := tc, readyAt := tc + 1 }

/-- The next output is added to its cistern (R318). -/
theorem cisternDeposit_adds {s s1 : State} {r r1 : Run} (hrun : (s.tile s.focus.a).mx.run = some r) (hexps : s.readExps s.focus.a r = .ok (r1, s1)) :
    ∃ t, exec .cisternDeposit s = .next t ∧ PoolOnly s s1 t s.focus.a ∧ (t.tile s.focus.a).mx.run = some (r1.deposits s.tc) ∧
      (t.tile s.focus.a).pool = ((s.tile s.focus.a).applyAddend (r1.cistern r1.made) (mxCbase r1.img) 0 (r1.value (r1.made / r1.cols) (r1.made % r1.cols)).1
        (r1.value (r1.made / r1.cols) (r1.made % r1.cols)).2).pool := by
  have hexec : exec .cisternDeposit s = .next ((s1.modRun s.focus.a fun _ => r1.deposits s.tc).modTile s.focus.a fun x =>
      x.applyAddend (r1.cistern r1.made) (mxCbase r1.img) 0 (r1.value (r1.made / r1.cols) (r1.made % r1.cols)).1 (r1.value (r1.made / r1.cols) (r1.made % r1.cols)).2) := by
    change execCisternDeposit s = _
    simp only [execCisternDeposit, hrun, hexps]
    rfl
  have hreads := (State.readExps_reads hexps).1
  have hmod := Kept.modRun s1 s.focus.a fun _ => r1.deposits s.tc
  have htile : ((s1.modRun s.focus.a fun _ => r1.deposits s.tc).tile s.focus.a).mx.run = some (r1.deposits s.tc) := by
    rw [State.tile_modRun]
    exact Tile.modRun_run ((congrArg Matrix.run (hreads.mx s.focus.a)).trans hrun) _
  obtain ⟨hmem, hjets, hpools⟩ := PoolOnly.addend (s := s) (u := s1.modRun s.focus.a fun _ => r1.deposits s.tc) s.focus.a (fun m i => (hmod.jets m i).trans (hreads.jet m i))
    (fun m => (hmod.pools m).trans (hreads.pool m)) (r1.cistern r1.made) (mxCbase r1.img) 0 (r1.value (r1.made / r1.cols) (r1.made % r1.cols)).1
    (r1.value (r1.made / r1.cols) (r1.made % r1.cols)).2
  refine ⟨_, hexec, ⟨hmem, hjets, hpools⟩, ?_, ?_⟩
  · obtain ⟨p, q, h⟩ := ((s1.modRun s.focus.a fun _ => r1.deposits s.tc).tile s.focus.a).applyAddend_tile (r1.cistern r1.made) (mxCbase r1.img) 0
      (r1.value (r1.made / r1.cols) (r1.made % r1.cols)).1 (r1.value (r1.made / r1.cols) (r1.made % r1.cols)).2
    rw [State.tile_modTile_same, h]
    exact htile
  · rw [State.tile_modTile_same]
    exact Tile.applyAddend_pool ((hmod.pools _).trans (hreads.pool _)) _ _ _ _ _

/-! ### Freezing -/

/-- A run that is frozen. -/
def Run.freezes (r : Run) : Run := { r with state := .frozen }

/-- A run freezes at a fault, with its channel, and the fault is reported (R324). -/
theorem matrixFreeze_freezes {s : State} {r : Run} {e a : Nat} (hrun : (s.tile s.focus.a).mx.run = some r) (hfault : r.fault = some (e, a)) : ∃ t, exec .matrixFreeze s = .next t ∧
    Kept s t ∧ (t.tile s.focus.a).mx.run = some r.freezes ∧ (mxCist r.img = false → ((t.tile s.focus.a).chan (mxChan r.img)).state = .frozen) ∧
    ∃ m, (t.tile s.focus.a).weir.localIn = (s.tile s.focus.a).weir.localIn ++ [(s.nc + 6, m)] ∧
      m.handle = handleOf s.dev.device s.focus.a 63 ((s.tile s.focus.a).weir.gen 63) ∧ fld m.payload 80 8 = 19 ∧ fld m.payload 448 64 = a % 2 ^ 64 ∧
      fld m.payload 320 64 = e % 2 ^ 64 := by
  let n := s.focus.a
  let s1 := s.modRun n Run.freezes
  let s2 := if mxCist r.img then s1 else s1.setChan n (mxChan r.img) .frozen
  let f : Flt := { cause := 19, addr := a, info := e, chan := mxChan r.img }
  have hexec : exec .matrixFreeze s = .next (s2.report n f r.cmd.inst) := by
    change execMatrixFreeze s = _
    simp only [execMatrixFreeze, hrun, hfault]
    rfl
  have h1 : s1.tile n = (s.tile n).modRun Run.freezes := State.tile_modRun ..
  have hkept1 : Kept s s1 := .modRun _ _ _
  obtain ⟨hkept2, hrest2, hrun2, hweir2, hchan2⟩ : Kept s s2 ∧ (s2.nc = s.nc ∧ s2.dev = s.dev) ∧ (s2.tile n).mx.run = some r.freezes ∧ (s2.tile n).weir = (s.tile n).weir ∧
      (mxCist r.img = false → ((s2.tile n).chan (mxChan r.img)).state = .frozen) := by
    by_cases hcist : mxCist r.img = true
    · have hs2 : s2 = s1 := if_pos hcist
      rw [hs2, h1]
      exact ⟨hkept1, ⟨rfl, rfl⟩, Tile.modRun_run hrun _, rfl, fun h => Bool.noConfusion (hcist.symm.trans h)⟩
    · have hs2 : s2 = s1.setChan n (mxChan r.img) .frozen := if_neg hcist
      obtain ⟨g, hg⟩ := s1.setChan_tile n (mxChan r.img) .frozen
      rw [hs2, hg, h1]
      refine ⟨hkept1.trans (CoreKept.setChan _ _ _ _).kept, ?_, Tile.modRun_run hrun _, rfl, fun _ => congrArg Channel.state (Tbl.get_set_same ..)⟩
      rw [State.setChan_rest]
      exact ⟨rfl, rfl⟩
  have htile : (s2.report n f r.cmd.inst).tile n = (s2.tile n).modWeir fun w => { w with localIn := w.localIn ++ [(s2.nc + 6, faultMsg s2 n n (faultRecord s2 n f 0 r.cmd.inst 0xffff) r.cmd.inst)] } :=
    State.tile_modTile_same ..
  refine ⟨_, hexec, hkept2.trans (s2.sendLocal_weir n _).1, ?_, fun h => ?_, faultMsg s2 n n (faultRecord s2 n f 0 r.cmd.inst 0xffff) r.cmd.inst, ?_, ?_, ?_, ?_, ?_⟩
  · exact (congrArg (fun x : Tile => x.mx.run) htile).trans hrun2
  · exact (congrArg (fun x : Tile => (x.chan (mxChan r.img)).state) htile).trans (hchan2 h)
  · refine (congrArg (fun x : Tile => x.weir.localIn) htile).trans ?_
    rw [← hrest2.1, ← hweir2]
    rfl
  · simp only [faultMsg, hrest2.2, hweir2]
    rfl
  · exact faultRecord_cause ..
  · exact faultRecord_addr ..
  · exact faultRecord_info ..

end Sys2Proof.Machine
end

section
/-! SUPPORT. Self-tests of the matrix engine (R327, R361, R367) and the addends of `addw` at their cistern (R120). -/
namespace Sys2Proof.Machine

/-! ### Self-tests -/

/-- What the reports of a self-test leave as it was: of the tile the weir differs, of the device's waiting journal records none goes. -/
structure Tested (n : Nat) (s t : State) : Prop where
  kept : Kept s t
  tile : ∃ w, t.tile n = { s.tile n with weir := w }
  mode : t.dev.released = s.dev.released ∧ t.dev.duty = s.dev.duty
  waits : ∀ j ∈ s.dev.jwait, j ∈ t.dev.jwait

theorem Tested.refl (n : Nat) (s : State) : Tested n s s := ⟨.refl s, ⟨_, rfl⟩, ⟨rfl, rfl⟩, fun _ h => h⟩

theorem Tested.trans {n : Nat} {s t u : State} (h : Tested n s t) (k : Tested n t u) : Tested n s u := by
  obtain ⟨w, hw⟩ := h.tile
  obtain ⟨v, hv⟩ := k.tile
  exact ⟨h.kept.trans k.kept, ⟨v, by rw [hv, hw]⟩, ⟨k.mode.1.trans h.mode.1, k.mode.2.trans h.mode.2⟩, fun j hj => k.waits j (h.waits j hj)⟩

theorem Tested.report (n t : Nat) (f : Flt) (inst : BitVec 16) (s : State) (ht : t = n) : Tested n s (s.report t f inst) := by
  subst ht
  refine ⟨(s.sendLocal_weir t _).1, ?_, ⟨rfl, rfl⟩, fun _ h => h⟩
  rw [State.report, State.sendLocal, State.tile_modTile_same]
  exact ⟨_, rfl⟩

theorem Tested.journal (n k o q : Nat) (l : BitVec 32) (d : Nat) (s : State) : Tested n s (s.journal k o q l d) := by
  refine ⟨.journal s k o q l d, ⟨_, rfl⟩, ?_, fun j hj => ?_⟩ <;> simp only [State.journal, State.modDev]
  · split <;> exact ⟨rfl, rfl⟩
  · split
    · exact hj
    · exact List.mem_append_left _ hj

/-- A record is taken where the device is released and its journal needs no host. -/
theorem State.journal_waits (s : State) (k o q : Nat) (l : BitVec 32) (d : Nat) (hrel : s.dev.released = true) (hduty : s.dev.duty.getLsbD 5 = false) :
    ∃ j ∈ (s.journal k o q l d).dev.jwait, j.kind = BitVec.ofNat 4 k ∧ j.source = BitVec.ofNat 16 q := by
  simp only [State.journal, State.modDev, hrel, hduty, Bool.not_true, Bool.false_and, Bool.or_self, Bool.false_eq_true, if_false]
  exact ⟨_, List.mem_append_right _ List.mem_cons_self, rfl, rfl⟩

/-- The reports of one sub-array's test. -/
def State.subTested (t bad : Nat) (unit? : Option Nat) (s : State) (k : Nat) : State :=
  if bad.testBit k then (s.journal 5 0 t (BitVec.ofNat 32 (3 * 256 + k)) 1).report t { cause := 21, info := k, unit := 3 } 0
  else if unit? = some k then s.journal 5 0 t (BitVec.ofNat 32 (3 * 256 + k)) 0 else s

theorem Tested.subTested (n bad : Nat) (unit? : Option Nat) (s : State) (k : Nat) : Tested n s (s.subTested n bad unit? k) := by
  rw [State.subTested]
  split
  · exact (Tested.journal n _ _ _ _ _ s).trans (.report n n _ _ _ rfl)
  · split
    · exact .journal n _ _ _ _ _ s
    · exact .refl n s

theorem State.subTested_waits {n bad : Nat} {unit? : Option Nat} {s : State} {k : Nat} (hk : unit? = some k) (hrel : s.dev.released = true) (hduty : s.dev.duty.getLsbD 5 = false) :
    ∃ j ∈ (s.subTested n bad unit? k).dev.jwait, j.kind = 5 ∧ j.source = BitVec.ofNat 16 n := by
  rw [State.subTested]
  split
  · exact s.journal_waits 5 0 n _ 1 hrel hduty
  · exact s.journal_waits 5 0 n _ 0 hrel hduty

/-- The sub-arrays whose test has been reported: the one that started it has its record. -/
theorem Tested.foldl (n bad : Nat) (unit? : Option Nat) (l : List Nat) (s : State) : Tested n s (l.foldl (State.subTested n bad unit?) s) ∧
    ∀ k ∈ l, unit? = some k → s.dev.released = true → s.dev.duty.getLsbD 5 = false →
      ∃ j ∈ (l.foldl (State.subTested n bad unit?) s).dev.jwait, j.kind = 5 ∧ j.source = BitVec.ofNat 16 n := by
  induction l generalizing s with
  | nil => exact ⟨.refl n s, fun k hk => absurd hk List.not_mem_nil⟩
  | cons a l ih =>
    have hstep := Tested.subTested n bad unit? s a
    obtain ⟨hrest, hfound⟩ := ih (s.subTested n bad unit? a)
    refine ⟨hstep.trans hrest, fun k hk hu hrel hduty => ?_⟩
    rcases List.mem_cons.mp hk with rfl | hk
    · obtain ⟨j, hj, hrec⟩ := State.subTested_waits (n := n) (bad := bad) hu hrel hduty
      exact ⟨j, hrest.waits j hj, hrec⟩
    · exact hfound k hk hu (hstep.mode.1.trans hrel) (by rw [hstep.mode.2]; exact hduty)

/-- A tile whose array's test is over. -/
def Tile.testedArray (f : BitVec 16) (now : Nat) (x : Tile) : Tile :=
  { x with mxFenced := f, mxDead := x.mxDead || decide (8 < popcount64 f.toNat), mx := { x.mx with testing := false, testedAt := now } }

theorem State.mxTested_eq (s : State) (n bad : Nat) (unit? : Option Nat) : s.mxTested n bad unit? =
    (List.range 16).foldl (State.subTested n bad unit?) (s.modTile n (Tile.testedArray ((s.tile n).mxFenced ||| BitVec.ofNat 16 bad) s.dev.time)) := rfl

/-- A tile whose array is tested. -/
def Tile.testsArray (x : Tile) : Tile := { x with mx := { x.mx with testing := true } }

/-- A test of the array begins (R327). -/
def State.beginTest (s : State) : State := (s.modTile s.focus.a Tile.testsArray).after 64 .matrixSelftest ⟨s.focus.a, 1, s.focus.c, 0, 0⟩

theorem State.beginTest_spec (s : State) : Kept s s.beginTest ∧ s.beginTest.tile s.focus.a = (s.tile s.focus.a).testsArray ∧
    (s.nc + 128, ⟨s.focus.a, 1, s.focus.c, 0, 0⟩, Instr.matrixSelftest) ∈ s.beginTest.agenda :=
  ⟨(Kept.modTile s s.focus.a (f := Tile.testsArray) (fun _ => rfl) fun _ => rfl).trans (.at_ _ _ _ _), State.tile_modTile_same .., agendaInsert_mem _ _ _ _⟩

theorem matrixSelftest_begins {s : State} (hb : s.focus.b = 0) : exec .matrixSelftest s = .next s.beginTest := by
  change execMatrixSelftest s = _
  simp only [execMatrixSelftest, hb]
  rfl

/-- A test that is over fences the sub-arrays that fail, more than 8 the engine, and is journaled (R327, R361). -/
theorem matrixSelftest_ends {s : State} (hb : s.focus.b = 1) : ∃ t, exec .matrixSelftest s = .next t ∧ Kept s t ∧ (t.tile s.focus.a).mx.testing = false ∧
    (t.tile s.focus.a).mx.testedAt = s.dev.time ∧ (8 < popcount64 (t.tile s.focus.a).mxFenced.toNat → (t.tile s.focus.a).mxDead = true) ∧
    (0 < s.focus.c → s.focus.c ≤ 16 → s.dev.released = true → s.dev.duty.getLsbD 5 = false → ∃ j ∈ t.dev.jwait, j.kind = 5 ∧ j.source = BitVec.ofNat 16 s.focus.a) ∧
    ∀ i, (s.tile s.focus.a).mxFenced.getLsbD i = true → (t.tile s.focus.a).mxFenced.getLsbD i = true := by
  let n := s.focus.a
  let bad := s.draw.1 % 2 ^ 16
  let unit? : Option Nat := if s.focus.c = 0 then none else some (s.focus.c - 1)
  let u := s.draw.2.modTile n (Tile.testedArray ((s.tile n).mxFenced ||| BitVec.ofNat 16 bad) s.dev.time)
  have hexec : exec .matrixSelftest s = .next ((List.range 16).foldl (State.subTested n bad unit?) u) := by
    change execMatrixSelftest s = _
    simp only [execMatrixSelftest, hb]
    rfl
  obtain ⟨htested, hrecord⟩ := Tested.foldl n bad unit? (List.range 16) u
  have hu : u.tile n = (s.tile n).testedArray ((s.tile n).mxFenced ||| BitVec.ofNat 16 bad) s.dev.time := State.tile_modTile_same ..
  have hdraw : Kept s s.draw.2 := ⟨rfl, fun _ => rfl, fun _ _ => rfl, rfl, rfl, rfl, rfl⟩
  have hkept : Kept s u := hdraw.trans (.modTile _ n (f := Tile.testedArray _ _) (fun _ => rfl) fun _ => rfl)
  obtain ⟨w, hw⟩ := htested.tile
  have htile : ((List.range 16).foldl (State.subTested n bad unit?) u).tile n =
      { (s.tile n).testedArray ((s.tile n).mxFenced ||| BitVec.ofNat 16 bad) s.dev.time with weir := w } := by rw [hw, hu]
  refine ⟨_, hexec, hkept.trans htested.kept, ?_, ?_, ?_, fun h0 h16 hrel hduty => ?_, ?_⟩
  · rw [htile]
    rfl
  · rw [htile]
    rfl
  · rw [htile]
    intro h
    exact Bool.or_eq_true_iff.mpr (.inr (decide_eq_true h))
  · have hsome : unit? = some (s.focus.c - 1) := if_neg (Nat.pos_iff_ne_zero.mp h0)
    exact hrecord (s.focus.c - 1) (List.mem_range.mpr (by omega)) hsome hrel hduty
  · rw [htile]
    intro i hi
    change ((s.tile n).mxFenced ||| BitVec.ofNat 16 bad).getLsbD i = true
    rw [BitVec.getLsbD_or, hi]
    rfl

/-- A run whose pass is computed again, from some tc on (R327). -/
def Run.again (tc : Nat) (r : Run) : Run := if r.step < r.total then { r with readyAt := tc } else r

/-- A failed residue check computes the pass again, behind a test in hardware mode, or makes a record only (R327, R367). -/
theorem matrixSelftest_repeats {s : State} {r : Run} (hb : 2 ≤ s.focus.b) (hrun : (s.tile s.focus.a).mx.run = some r) (hstep : r.step < r.total) :
    ∃ t q, exec .matrixSelftest s = .next t ∧ Kept s t ∧ (t.tile s.focus.a).mx.run = some q ∧ q.step = r.step ∧ q.qab = r.qab ∧
      (s.dev.duty.getLsbD 3 = false → (t.tile s.focus.a).mx.testing = true ∧ s.tc + 64 ≤ q.readyAt) ∧
      (s.dev.duty.getLsbD 3 = true → (t.tile s.focus.a).mx.testing = (s.tile s.focus.a).mx.testing ∧ s.tc ≤ q.readyAt) := by
  obtain ⟨b, hb'⟩ : ∃ b, s.focus.b = b + 2 := ⟨s.focus.b - 2, by omega⟩
  obtain ⟨d, hexec⟩ : ∃ d, exec .matrixSelftest s = .next (if s.dev.duty.getLsbD 3 then
      (s.journal 5 0 s.focus.a (BitVec.ofNat 32 (3 * 256 + (s.focus.c - 1) % 16)) 0).modRun s.focus.a (Run.again (s.tc + 0 + d))
      else s.beginTest.modRun s.focus.a (Run.again (s.tc + 64 + d))) := by
    refine ⟨(r.step % mxChunks r.img % 64) * (if (s.tile s.focus.a).mxFenced = 0 then 1 else 2), ?_⟩
    change execMatrixSelftest s = _
    simp only [execMatrixSelftest, hb', hrun]
    split <;> rfl
  have hagain (tc : Nat) : r.again tc = { r with readyAt := tc } := if_pos hstep
  have hnew (tc : Nat) : (r.again tc).step = r.step ∧ (r.again tc).qab = r.qab ∧ (r.again tc).readyAt = tc := by
    rw [hagain]
    exact ⟨rfl, rfl, rfl⟩
  cases hduty : s.dev.duty.getLsbD 3 with
  | true =>
    rw [hduty, if_pos rfl] at hexec
    obtain ⟨hs, hq, hr⟩ := hnew (s.tc + 0 + d)
    refine ⟨_, r.again (s.tc + 0 + d), hexec, (Kept.journal s _ _ _ _ _).trans (.modRun _ _ _), ?_, hs, hq, fun h => Bool.noConfusion h, fun _ => ⟨?_, ?_⟩⟩
    · rw [State.tile_modRun]
      exact Tile.modRun_run hrun _
    · rw [State.tile_modRun]
      rfl
    · rw [hr]
      exact Nat.le_add_right _ _
  | false =>
    rw [hduty, if_neg Bool.false_ne_true] at hexec
    obtain ⟨hkept, htile, -⟩ := s.beginTest_spec
    obtain ⟨hs, hq, hr⟩ := hnew (s.tc + 64 + d)
    refine ⟨_, r.again (s.tc + 64 + d), hexec, hkept.trans (.modRun _ _ _), ?_, hs, hq, fun _ => ⟨?_, ?_⟩, fun h => Bool.noConfusion h⟩
    · rw [State.tile_modRun, htile]
      exact Tile.modRun_run hrun _
    · rw [State.tile_modRun, htile]
      rfl
    · rw [hr]
      exact Nat.le_add_right _ _

/-! ### Addends -/

/-- A tile one of whose addends is on its way no more. -/
def Tile.addwGone (id : Nat) (x : Tile) : Tile := { x with addws := x.addws.filter fun p => p.id != id }

/-- What starting addends leaves: pools, jets, and the numbers of those that are there. -/
structure Starts (n : Nat) (s t : State) : Prop where
  kept : Kept s t
  addws : ∀ p ∈ (t.tile n).addws, ∃ q ∈ (s.tile n).addws, q.id = p.id

theorem Starts.trans {n : Nat} {s t u : State} (h : Starts n s t) (k : Starts n t u) : Starts n s u := by
  refine ⟨h.kept.trans k.kept, fun p hp => ?_⟩
  obtain ⟨q, hq, hqp⟩ := k.addws p hp
  obtain ⟨a, ha, haq⟩ := h.addws q hq
  exact ⟨a, ha, haq.trans hqp⟩

/-- A tile one of whose addends is being added. -/
def Tile.addwStarts (id : Nat) (x : Tile) : Tile := { x with addws := x.addws.map fun p => if p.id = id then { p with started := true } else p }

theorem Starts.one (n id : Nat) (s : State) : Starts n s (s.modTile n (Tile.addwStarts id)) := by
  refine ⟨.modTile s n (f := Tile.addwStarts id) (fun _ => rfl) fun _ => rfl, fun p hp => ?_⟩
  rw [State.tile_modTile_same] at hp
  obtain ⟨q, hq, rfl⟩ := List.mem_map.mp hp
  refine ⟨q, hq, ?_⟩
  split <;> rfl

theorem Starts.refl (n : Nat) (s : State) : Starts n s s := ⟨.refl s, fun p hp => ⟨p, hp, rfl⟩⟩

theorem Starts.startAddw (n : Nat) (s : State) : Starts n s (s.startAddw n) := by
  rw [State.startAddw]
  generalize (s.tile n).addws = l
  induction l generalizing s with
  | nil => exact .refl n s
  | cons a l ih =>
    rw [List.foldl_cons]
    refine Starts.trans ?_ (ih _)
    dsimp only
    split
    · exact .refl n s
    · exact (Starts.one n a.id s).trans ⟨.at_ _ _ _ _, fun p hp => ⟨p, hp, rfl⟩⟩

theorem Starts.of_reached {n m : Nat} {s t : State} (h : Reached m s t) : Starts n s t := by
  have hsame : (t.tile n).addws = (s.tile n).addws := by
    by_cases hn : n = m
    · rw [hn, h.tile]
    · rw [h.others n hn]
  exact ⟨h.kept, fun p hp => ⟨p, hsame ▸ hp, rfl⟩⟩

/-- An addend is added to its cistern, the access that brought it is told, and the next may start (R120). -/
theorem addwUpdate_adds {s : State} {o : AddwOp} (hfind : (s.tile s.focus.a).addws.find? (fun o => o.id == s.focus.b) = some o) : ∃ t, exec .addwUpdate s = .next t ∧
    PoolOnly s s t s.focus.a ∧ (t.tile s.focus.a).pool = ((s.tile s.focus.a).applyAddend o.addr o.block o.special o.num o.exp).pool ∧ ∀ p ∈ (t.tile s.focus.a).addws, p.id ≠ o.id := by
  let u := (s.modTile s.focus.a (Tile.addwGone o.id)).modTile s.focus.a fun x => x.applyAddend o.addr o.block o.special o.num o.exp
  have hexec : exec .addwUpdate s = .next (State.startAddw (if o.dev = s.dev.device.toNat then (u.markStored o.tile o.acc o.part).pump o.tile
      else u.answerBy .tile o.dev s.focus.a o.tile 1 13 (.writeAck o.tile (2 ^ 64 + o.part) [o.acc])) s.focus.a) := by
    change execAddwUpdate s = _
    simp only [execAddwUpdate, hfind]
    rw [show u = s.modTile s.focus.a fun x => ({ x with addws := x.addws.filter fun p => p.id != o.id } : Tile).applyAddend o.addr o.block o.special o.num o.exp from
      State.modTile_modTile ..]
  have hgone : Kept s (s.modTile s.focus.a (Tile.addwGone o.id)) := .modTile s _ (f := Tile.addwGone o.id) (fun _ => rfl) fun _ => rfl
  obtain ⟨hmem, hjets, hpools⟩ := PoolOnly.addend (s := s) s.focus.a hgone.jets hgone.pools o.addr o.block o.special o.num o.exp
  have hpool : (u.tile s.focus.a).pool = ((s.tile s.focus.a).applyAddend o.addr o.block o.special o.num o.exp).pool := by
    rw [State.tile_modTile_same]
    exact Tile.applyAddend_pool (hgone.pools _) _ _ _ _ _
  have haddws : (u.tile s.focus.a).addws = (s.tile s.focus.a).addws.filter fun p => p.id != o.id := by
    obtain ⟨p, q, h⟩ := ((s.modTile s.focus.a (Tile.addwGone o.id)).tile s.focus.a).applyAddend_tile o.addr o.block o.special o.num o.exp
    rw [State.tile_modTile_same, h, State.tile_modTile_same]
    rfl
  have hsent : Starts s.focus.a u (if o.dev = s.dev.device.toNat then (u.markStored o.tile o.acc o.part).pump o.tile
      else u.answerBy .tile o.dev s.focus.a o.tile 1 13 (.writeAck o.tile (2 ^ 64 + o.part) [o.acc])) := by
    split
    · exact .of_reached ((Reached.modPart o.tile o.acc o.part _ u).trans (.pump o.tile _))
    · exact ⟨.answerBy _ _ _ _ _ _ _ _, fun p hp => ⟨p, hp, rfl⟩⟩
  have hall := hsent.trans (Starts.startAddw s.focus.a _)
  refine ⟨_, hexec, ⟨hall.kept.mem.trans hmem, fun m i => (hall.kept.jets m i).trans (hjets m i), fun m hm => (hall.kept.pools m).trans (hpools m hm)⟩,
    (hall.kept.pools _).trans hpool, fun p hp => ?_⟩
  obtain ⟨q, hq, hqp⟩ := hall.addws p hp
  rw [haddws] at hq
  rw [← hqp]
  simpa using (List.mem_filter.mp hq).2

end Sys2Proof.Machine
end

section
/-! SUPPORT. Merge trees (R295 to R297, R332, R333). -/
namespace Sys2Proof.Machine

/-! ### Entries -/

theorem Stop.tree_modTree (x : Stop) (tag root : Nat) {f : MergeEntry → MergeEntry} (hf : ∀ e : MergeEntry, e.tag = tag → e.root = root → (f e).tag = tag ∧ (f e).root = root) :
    (x.modTree tag root f).tree tag root = (x.tree tag root).map f := by
  have hlist (l : List MergeEntry) : (l.map fun e => if e.tag = tag ∧ e.root = root then f e else e).find? (fun e => e.tag == tag && e.root == root) =
      (l.find? fun e => e.tag == tag && e.root == root).map f := by
    induction l with
    | nil => rfl
    | cons a l ih =>
      by_cases h : a.tag = tag ∧ a.root = root
      · obtain ⟨htag, hroot⟩ := hf a h.1 h.2
        simp [h.1, h.2, htag, hroot]
      · have hno : (a.tag == tag && a.root == root) = false := by simpa using h
        rw [List.map_cons, if_neg h, List.find?_cons, List.find?_cons, hno]
        exact ih
  exact hlist x.merge

/-- An entry that stands. -/
def MergeEntry.stands (e : MergeEntry) : MergeEntry := { e with sure := true }

theorem Stop.modTree_stands (x : Stop) (tag root : Nat) : (x.modTree tag root .stands).modTree tag root .stands = x.modTree tag root .stands := by
  simp only [Stop.modTree, List.map_map]
  congr 1
  refine List.map_congr_left fun e _ => ?_
  simp only [Function.comp]
  split
  next h => exact if_pos h
  next h => rfl

/-- On the way of a join that is answered with 0 the tree's entries stand. -/
theorem State.treeSure_stop (s : State) (t q tag root p : Nat) : Kept s (s.treeSure t q tag root) ∧
    (s.treeSure t q tag root).stop p = if p ∈ treeWay t q then (s.stop p).modTree tag root .stands else s.stop p := by
  rw [State.treeSure]
  change Kept s ((treeWay t q).foldl (fun (s : State) p => s.modStop p fun x => x.modTree tag root .stands) s) ∧
    ((treeWay t q).foldl (fun (s : State) p => s.modStop p fun x => x.modTree tag root .stands) s).stop p = _
  generalize treeWay t q = l
  induction l generalizing s with
  | nil => exact ⟨.refl s, (if_neg List.not_mem_nil).symm⟩
  | cons a l ih =>
    obtain ⟨hkept, hstop⟩ := ih (s.modStop a fun x => x.modTree tag root .stands)
    rw [List.foldl_cons]
    refine ⟨(Kept.modStop s _ _).trans hkept, hstop.trans ?_⟩
    by_cases hp : p = a
    · rw [hp, State.stop_modStop_same, if_pos (List.mem_cons_self (a := a) (l := l)), Stop.modTree_stands, ite_self]
    · rw [State.stop_modStop_ne _ _ hp]
      simp only [List.mem_cons, hp, false_or]

theorem treeWay_end (t q : Nat) : q ∈ treeWay t q := List.mem_append_right _ List.mem_cons_self

/-! ### Lists on their way -/

/-- The packet that a stop's merge unit sends. -/
def State.treePacket (s : State) (n dst flits : Nat) (b : Pkt) : Packet := ⟨s.dev.device.toNat, dst, .ni, s.dev.device.toNat, n, flits, b, false, s.nc, b.sport⟩

theorem State.inject_stop (s : State) (n dst flits : Nat) (b : Pkt) : s.inject n dst .ni flits 0 b = s.modStop n fun x => { x with inject := x.inject ++ [s.treePacket n dst flits b] } := rfl

theorem Kept.inject (s : State) (n dst flits d : Nat) (port : Endpoint) (b : Pkt) : Kept s (s.inject n dst port flits d b) := .modStop _ _ _

section
variable {s : State} {e : MergeEntry} {r : MergeRound} (hready : s.treeReady s.focus.a = some (e, r))
include hready

/-- A merged list leaves for the next router toward its root (R296). -/
theorem mergePartial_leaves (hroot : e.root ≠ s.focus.a) : ∃ t, exec .mergePartial s = .next t ∧ Kept s t ∧
    (t.stop s.focus.a).inject = (s.stop s.focus.a).inject ++ [s.treePacket s.focus.a (acrossPort s.focus.a (orderNext s.focus.a e.root)).1 2 (.merge e.tag e.root r.list)] := by
  have hexec : exec .mergePartial s = .next ((s.modStop s.focus.a fun x => (x.modTree e.tag e.root fun f => f.drop r).count 10 1).sendPartial s.focus.a e.tag e.root 0 r.list) := by
    change execMergePartial s = _
    simp only [execMergePartial, hready, if_neg hroot]
  refine ⟨_, hexec, (Kept.modStop s _ _).trans (.inject _ _ _ _ _ _ _), ?_⟩
  rw [State.sendPartial, State.inject_stop, State.stop_modStop_same, State.stop_modStop_same]
  rfl

/-- A merged list goes from its root into the root's basin (R296). -/
theorem mergePartial_delivers (hroot : e.root = s.focus.a) : ∃ t m, exec .mergePartial s = .next t ∧ Kept s t ∧
    (t.tile s.focus.a).weir.localIn = (s.tile s.focus.a).weir.localIn ++ [(s.nc + 6, m)] ∧ m.handle = e.handle ∧ m.size = 64 ∧ m.payload = r.list.toNat := by
  have hexec : exec .mergePartial s = .next ((s.modStop s.focus.a fun x => (x.modTree e.tag e.root fun f => f.drop r).count 10 1).sendLocal s.focus.a
      { plainMsg s.focus.a e.handle 0 64 r.list.toNat with src := .tile s.focus.a }) := by
    change execMergePartial s = _
    simp only [execMergePartial, hready, if_pos hroot]
  refine ⟨_, { plainMsg s.focus.a e.handle 0 64 r.list.toNat with src := .tile s.focus.a }, hexec, (Kept.modStop s _ _).trans (State.sendLocal_weir _ _ _).1, ?_, rfl, rfl, rfl⟩
  rw [State.sendLocal, State.tile_modTile_same]
  rfl

end

/-- An entry that a partial has joined. -/
def MergeEntry.joined (nc : Nat) (l : BitVec 512) (f : MergeEntry) : MergeEntry :=
  if f.rounds.any fun r => r.round == fld l.toNat 408 8 then
    { f with rounds := f.rounds.map fun r => if r.round = fld l.toNat 408 8 then { r with got := r.got + 1, list := mergeLists r.list l, from_ := nc + 2 } else r }
  else { f with rounds := f.rounds ++ [⟨fld l.toNat 408 8, 1, rankedList l, nc + 2⟩] }

theorem MergeEntry.joined_tree (nc : Nat) (l : BitVec 512) (f : MergeEntry) : (f.joined nc l).tag = f.tag ∧ (f.joined nc l).root = f.root := by
  rw [MergeEntry.joined]
  split <;> exact ⟨rfl, rfl⟩

section
variable {s : State} {port tag root : Nat} {l : BitVec 512} {p : Packet} (hnone : s.treeReady s.focus.a = none) (hnext : (s.stop s.focus.a).nextPartial = some (port, p))
  (hbody : p.body = .merge tag root l)
include hnone hnext hbody

/-- A partial of a tree that is there joins it. -/
theorem mergePartial_joins {e : MergeEntry} (htree : (s.stop s.focus.a).tree tag root = some e) : ∃ t, exec .mergePartial s = .next t ∧ Kept s t ∧
    (t.stop s.focus.a).tree tag root = some (e.joined s.nc l) := by
  have hexec : exec .mergePartial s = .next ((s.modStop s.focus.a fun x => { x with mergeIn := x.mergeIn.erase (port, p) }).modStop s.focus.a
      fun x => x.modTree tag root (MergeEntry.joined s.nc l)) := by
    change execMergePartial s = _
    simp only [execMergePartial, hnone, hnext, hbody, htree]
    rfl
  refine ⟨_, hexec, (Kept.modStop s _ _).trans (.modStop _ _ _), ?_⟩
  rw [State.stop_modStop_same, Stop.tree_modTree _ _ _ fun e htag hroot => ⟨(e.joined_tree s.nc l).1.trans htag, (e.joined_tree s.nc l).2.trans hroot⟩, State.stop_modStop_same]
  exact congrArg (Option.map _) htree

/-- The first partial of a round (R296). -/
theorem mergePartial_first {e : MergeEntry} (htree : (s.stop s.focus.a).tree tag root = some e) (hnew : ∀ r ∈ e.rounds, r.round ≠ fld l.toNat 408 8) :
    ∃ t g, exec .mergePartial s = .next t ∧ Kept s t ∧ (t.stop s.focus.a).tree tag root = some g ∧ g.rounds = e.rounds ++ [⟨fld l.toNat 408 8, 1, rankedList l, s.nc + 2⟩] := by
  obtain ⟨t, hexec, hkept, hg⟩ := mergePartial_joins hnone hnext hbody htree
  refine ⟨t, _, hexec, hkept, hg, ?_⟩
  have hno : ¬ (e.rounds.any fun r => r.round == fld l.toNat 408 8) = true := by simpa using hnew
  rw [MergeEntry.joined, if_neg hno]

/-- A later partial of a round merges with it (R296). -/
theorem mergePartial_merges {e : MergeEntry} {r : MergeRound} (htree : (s.stop s.focus.a).tree tag root = some e) (hr : r ∈ e.rounds) (hround : r.round = fld l.toNat 408 8) :
    ∃ t g, exec .mergePartial s = .next t ∧ Kept s t ∧ (t.stop s.focus.a).tree tag root = some g ∧
      { r with got := r.got + 1, list := mergeLists r.list l, from_ := s.nc + 2 } ∈ g.rounds := by
  obtain ⟨t, hexec, hkept, hg⟩ := mergePartial_joins hnone hnext hbody htree
  refine ⟨t, _, hexec, hkept, hg, ?_⟩
  have hyes : (e.rounds.any fun r => r.round == fld l.toNat 408 8) = true := List.any_eq_true.mpr ⟨r, hr, by simpa using hround⟩
  rw [MergeEntry.joined, if_pos hyes]
  exact List.mem_map.mpr ⟨r, hr, if_pos hround⟩

/-- A partial of a tree that is gone is discarded (R297). -/
theorem mergePartial_discards (htree : (s.stop s.focus.a).tree tag root = none) : ∃ t, exec .mergePartial s = .next t ∧ Kept s t ∧
    (t.stop s.focus.a).merge = (s.stop s.focus.a).merge := by
  have hexec : exec .mergePartial s = .next ((s.modStop s.focus.a fun x => { x with mergeIn := x.mergeIn.erase (port, p) }).journal 2 2 s.focus.a (BitVec.ofNat 32 tag) 1) := by
    change execMergePartial s = _
    simp only [execMergePartial, hnone, hnext, hbody, htree]
  refine ⟨_, hexec, (Kept.modStop s _ _).trans (.journal _ _ _ _ _ _), ?_⟩
  have hstop (u : State) : (u.journal 2 2 s.focus.a (BitVec.ofNat 32 tag) 1).stop s.focus.a = u.stop s.focus.a := rfl
  rw [hstop, State.stop_modStop_same]

end

/-- A merged list enters the gate queue of its chain (R333). -/
theorem gateListArrival_enters {s : State} {q : Nat} {e : MergeEntry} {r : MergeRound} (hready : s.gateReady s.focus.a = some (q, e, r)) : ∃ t, exec .gateListArrival s = .next t ∧
    Kept s t ∧ (t.chain q).gates = (s.chain q).gates ++ [(e.tag, r.list)] := by
  have hexec : exec .gateListArrival s = .next ((s.modStop s.focus.a fun x => (x.modTree e.tag e.root fun f => f.drop r).count 10 1).modChain q
      fun h => { h with gates := h.gates ++ [(e.tag, r.list)] }) := by
    change execGateListArrival s = _
    simp only [execGateListArrival, hready]
  exact ⟨_, hexec, (Kept.modStop s _ _).trans (.modChain _ _ _), (congrArg Chain.gates (Tbl.get_set_same ..)).trans rfl⟩

/-! ### Joins -/

/-- A stop that has taken a tree join or leave. -/
def Stop.treeTaken (e : Nat × Packet) (x : Stop) : Stop := { x with treeIn := x.treeIn.erase e }

/-- Whether the root basin of a tree that no chain has is not live (R295, R332). -/
def State.treeLost (s : State) (n tag root : Nat) (chain : Option Nat) (hd : BitVec 32) : Prop :=
  (n = root ∨ (s.stop n).tree tag root ≠ none) ∧ chain = none ∧ s.live root hd = false

theorem State.treeLost_iff (s : State) (n tag root : Nat) (chain : Option Nat) (hd : BitVec 32) :
    ((n == root || ((s.stop n).tree tag root).isSome) = true ∧ chain.isNone = true ∧ (!s.live root hd) = true) ↔ s.treeLost n tag root chain hd := by
  simp only [State.treeLost, Bool.or_eq_true, beq_iff_eq, Option.isSome_iff_ne_none, Option.isNone_iff_eq_none, Bool.not_eq_true']

/-- A join's answer. -/
def State.answersJoin (s : State) (n v tag root slot ix st : Nat) : State := s.inject n v .ni 1 0 (.mergeAck slot ix st tag root)

/-- A join that was refused is undone behind it. -/
def State.undoesJoin (s : State) (n v tag root slot ix : Nat) (chain : Option Nat) (hd : BitVec 32) : State :=
  if n = v then s else s.inject v v .ni 1 0 (.mergeJoin v tag root slot ix true chain hd n)

/-- A join or a leave goes on toward the root. -/
def State.joinsOn (s : State) (n root : Nat) (b : Pkt) : State := if n = root then s else s.inject n (acrossPort n (orderNext n root)).1 .ni 1 0 b

/-- An entry that counts one leaf less at a port. -/
def MergeEntry.down (e : MergeEntry) (port : Nat) : MergeEntry := { e with fanin := Tbl.set e.fanin port (Tbl.get 0 e.fanin port - 1) }

theorem State.journals_stop (s : State) (q : Nat) (l : BitVec 32) (rs : List MergeRound) : Kept s (rs.foldl (fun (s : State) r => s.journal 2 2 q l r.got) s) ∧
    (∀ p, (rs.foldl (fun (s : State) r => s.journal 2 2 q l r.got) s).stop p = s.stop p) ∧ (rs.foldl (fun (s : State) r => s.journal 2 2 q l r.got) s).dev.device = s.dev.device := by
  induction rs generalizing s with
  | nil => exact ⟨.refl s, fun _ => rfl, rfl⟩
  | cons r rs ih =>
    obtain ⟨hkept, hstop, hdev⟩ := ih (s.journal 2 2 q l r.got)
    refine ⟨(Kept.journal s _ _ _ _ _).trans hkept, fun p => (hstop p).trans rfl, hdev.trans ?_⟩
    simp only [State.journal, State.modDev]
    split <;> rfl

section
variable {s : State} {port v tag root slot ix up : Nat} {chain : Option Nat} {hd : BitVec 32} {k : Packet} (hnext : (s.stop s.focus.a).nextJoin = some (port, k))
include hnext

section
variable (hbody : k.body = .mergeJoin v tag root slot ix false chain hd up)
include hbody

section
variable (hlost : ¬ s.treeLost s.focus.a tag root chain hd)
include hlost

/-- A join counts at the port it came from, where the tree's entry is (R295). -/
theorem mergeJoinArrival_counts {e : MergeEntry} (htree : (s.stop s.focus.a).tree tag root = some e) : ∃ t g, exec .mergeJoinArrival s = .next t ∧ Kept s t ∧
    (t.stop s.focus.a).tree tag root = some g ∧ Tbl.get 0 g.fanin port = Tbl.get 0 e.fanin port + 1 ∧
    (t.stop s.focus.a).inject = (s.stop s.focus.a).inject ++ [s.treePacket s.focus.a v 1 (.mergeAck slot ix 0 tag root)] := by
  let more (f : MergeEntry) : MergeEntry := { f with fanin := Tbl.set f.fanin port (Tbl.get 0 e.fanin port + 1) }
  let u := ((s.modStop s.focus.a (Stop.treeTaken (port, k))).modStop s.focus.a fun x => x.modTree tag root more).answersJoin s.focus.a v tag root slot ix 0
  have hexec : exec .mergeJoinArrival s = .next (u.treeSure v s.focus.a tag root) := by
    change execMergeJoinArrival s = _
    simp only [execMergeJoinArrival, hnext, hbody, Bool.false_eq_true, if_false]
    rw [if_neg (mt (s.treeLost_iff s.focus.a tag root chain hd).mp hlost)]
    simp only [htree]
    rfl
  obtain ⟨hkept, hstop⟩ := u.treeSure_stop v s.focus.a tag root s.focus.a
  rw [if_pos (treeWay_end v s.focus.a)] at hstop
  have hu : u.stop s.focus.a = { ((s.stop s.focus.a).treeTaken (port, k)).modTree tag root more with
      inject := (s.stop s.focus.a).inject ++ [s.treePacket s.focus.a v 1 (.mergeAck slot ix 0 tag root)] } := by
    refine (State.stop_modStop_same ..).trans ?_
    rw [State.stop_modStop_same, State.stop_modStop_same]
    rfl
  have htree' : (u.stop s.focus.a).tree tag root = some (more e) := by
    rw [hu]
    refine (Stop.tree_modTree ((s.stop s.focus.a).treeTaken (port, k)) tag root (f := more) fun e htag hroot => ⟨htag, hroot⟩).trans ?_
    exact congrArg (Option.map _) htree
  refine ⟨_, (more e).stands, hexec, (((Kept.modStop s _ _).trans (.modStop _ _ _)).trans (.inject _ _ _ _ _ _ _)).trans hkept, ?_, Tbl.get_set_same .., ?_⟩
  · rw [hstop, Stop.tree_modTree _ _ _ (f := .stands) fun e htag hroot => ⟨htag, hroot⟩, htree']
    rfl
  · rw [hstop]
    exact (congrArg Stop.inject hu).trans rfl

/-- A join makes the entry where there is room, and goes on toward the root (R295). -/
theorem mergeJoinArrival_makes (htree : (s.stop s.focus.a).tree tag root = none) (hroom : (s.stop s.focus.a).merge.length < 16) : ∃ t, exec .mergeJoinArrival s = .next t ∧ Kept s t ∧
    (t.stop s.focus.a).merge = (s.stop s.focus.a).merge ++ [⟨tag, root, chain, hd, [(port, 1)], [], decide (s.focus.a = root)⟩] ∧
    (t.stop s.focus.a).inject = (s.stop s.focus.a).inject ++ [if s.focus.a = root then s.treePacket s.focus.a v 1 (.mergeAck slot ix 0 tag root)
      else s.treePacket s.focus.a (acrossPort s.focus.a (orderNext s.focus.a root)).1 1 (.mergeJoin v tag root slot ix false chain hd up)] := by
  let new : MergeEntry := ⟨tag, root, chain, hd, [(port, 1)], [], false⟩
  let u := (s.modStop s.focus.a (Stop.treeTaken (port, k))).modStop s.focus.a fun x => { x with merge := x.merge ++ [new] }
  have hexec : exec .mergeJoinArrival s = .next (if s.focus.a = root then (u.answersJoin s.focus.a v tag root slot ix 0).treeSure v s.focus.a tag root
      else u.joinsOn s.focus.a root k.body) := by
    change execMergeJoinArrival s = _
    simp only [execMergeJoinArrival, hnext, hbody, Bool.false_eq_true, if_false]
    rw [if_neg (mt (s.treeLost_iff s.focus.a tag root chain hd).mp hlost)]
    simp only [htree, if_neg (Nat.not_le.mpr hroom)]
    split
    · rfl
    next h =>
      rw [State.joinsOn, if_neg h]
      rfl
  have hu : u.stop s.focus.a = { (s.stop s.focus.a).treeTaken (port, k) with merge := (s.stop s.focus.a).merge ++ [new] } := by
    refine (State.stop_modStop_same ..).trans ?_
    rw [State.stop_modStop_same]
    rfl
  have hkept : Kept s u := (Kept.modStop s _ _).trans (.modStop _ _ _)
  by_cases hroot : s.focus.a = root
  · simp only [if_pos hroot] at hexec ⊢
    obtain ⟨hsure, hstop⟩ := (u.answersJoin s.focus.a v tag root slot ix 0).treeSure_stop v s.focus.a tag root s.focus.a
    rw [if_pos (treeWay_end v s.focus.a)] at hstop
    have ha : (u.answersJoin s.focus.a v tag root slot ix 0).stop s.focus.a = { u.stop s.focus.a with
        inject := (u.stop s.focus.a).inject ++ [s.treePacket s.focus.a v 1 (.mergeAck slot ix 0 tag root)] } := State.stop_modStop_same ..
    refine ⟨_, hexec, (hkept.trans (.inject _ _ _ _ _ _ _)).trans hsure, ?_, ?_⟩
    · rw [hstop, ha, hu]
      have hothers : (s.stop s.focus.a).merge.map (fun e => if e.tag = tag ∧ e.root = root then e.stands else e) = (s.stop s.focus.a).merge := by
        refine (List.map_congr_left fun e he => ?_).trans (List.map_id _)
        refine if_neg fun h => ?_
        have hno := List.find?_eq_none.mp htree e he
        exact hno (by simp [h.1, h.2])
      have hmap : ((s.stop s.focus.a).merge ++ [new]).map (fun e => if e.tag = tag ∧ e.root = root then e.stands else e) = (s.stop s.focus.a).merge ++ [new.stands] := by
        rw [List.map_append, hothers, List.map_cons, List.map_nil, if_pos ⟨rfl, rfl⟩]
      rw [decide_eq_true hroot]
      exact hmap
    · rw [hstop, ha, hu]
      rfl
  · simp only [if_neg hroot] at hexec ⊢
    have ha : (u.joinsOn s.focus.a root k.body).stop s.focus.a = { u.stop s.focus.a with
        inject := (u.stop s.focus.a).inject ++ [s.treePacket s.focus.a (acrossPort s.focus.a (orderNext s.focus.a root)).1 1 k.body] } := by
      rw [State.joinsOn, if_neg hroot]
      exact State.stop_modStop_same ..
    refine ⟨_, hexec, hkept.trans ?_, ?_, ?_⟩
    · rw [State.joinsOn, if_neg hroot]
      exact .modStop _ _ _
    · rw [ha, hu, decide_eq_false hroot]
    · rw [ha, hu, hbody]
      rfl

end

/-- A refused join is answered, and undone behind it where it has come from another stop (R295, R332). -/
theorem mergeJoinArrival_refuses (hbad : s.treeLost s.focus.a tag root chain hd ∨ ((s.stop s.focus.a).tree tag root = none ∧ 16 ≤ (s.stop s.focus.a).merge.length)) :
    ∃ t st, exec .mergeJoinArrival s = .next t ∧ Kept s t ∧ (t.stop s.focus.a).merge = (s.stop s.focus.a).merge ∧ (s.treeLost s.focus.a tag root chain hd → st = 2) ∧
      (¬ s.treeLost s.focus.a tag root chain hd → st = 1) ∧
      (t.stop s.focus.a).inject = (s.stop s.focus.a).inject ++ [s.treePacket s.focus.a v 1 (.mergeAck slot ix st tag root)] ∧
      (v ≠ s.focus.a → ∃ p, (t.stop v).inject = (s.stop v).inject ++ [p] ∧ p.body = .mergeJoin v tag root slot ix true chain hd s.focus.a) := by
  have hends (u : State) (st : Nat) (hkept : Kept s u) (hstops : u.stops = (s.modStop s.focus.a (Stop.treeTaken (port, k))).stops) (hdev : u.dev.device = s.dev.device) :
      let t := (u.answersJoin s.focus.a v tag root slot ix st).undoesJoin s.focus.a v tag root slot ix chain hd
      Kept s t ∧ (t.stop s.focus.a).merge = (s.stop s.focus.a).merge ∧
      (t.stop s.focus.a).inject = (s.stop s.focus.a).inject ++ [s.treePacket s.focus.a v 1 (.mergeAck slot ix st tag root)] ∧
      (v ≠ s.focus.a → ∃ p, (t.stop v).inject = (s.stop v).inject ++ [p] ∧ p.body = .mergeJoin v tag root slot ix true chain hd s.focus.a) := by
    have hstop (q : Nat) : u.stop q = (s.modStop s.focus.a (Stop.treeTaken (port, k))).stop q := by rw [State.stop, hstops]; rfl
    have hpacket : u.treePacket s.focus.a v 1 (.mergeAck slot ix st tag root) = s.treePacket s.focus.a v 1 (.mergeAck slot ix st tag root) := by
      simp only [State.treePacket, hdev, hkept.time.1]
    have ha : (u.answersJoin s.focus.a v tag root slot ix st).stop s.focus.a = { (s.stop s.focus.a).treeTaken (port, k) with
        inject := (s.stop s.focus.a).inject ++ [s.treePacket s.focus.a v 1 (.mergeAck slot ix st tag root)] } := by
      rw [← hpacket]
      refine (State.stop_modStop_same ..).trans ?_
      rw [hstop, State.stop_modStop_same]
      rfl
    dsimp only
    rw [State.undoesJoin]
    split
    next hv =>
      rw [ha]
      exact ⟨hkept.trans (.inject _ _ _ _ _ _ _), rfl, rfl, fun hne => absurd hv.symm hne⟩
    next hv =>
      refine ⟨(hkept.trans (.inject _ _ _ _ _ _ _)).trans (.inject _ _ _ _ _ _ _), ?_, ?_, fun _ => ⟨(u.answersJoin s.focus.a v tag root slot ix st).treePacket v v 1
        (.mergeJoin v tag root slot ix true chain hd s.focus.a), ?_, rfl⟩⟩
      · rw [State.inject_stop, State.stop_modStop_ne _ _ hv, ha]
        rfl
      · rw [State.inject_stop, State.stop_modStop_ne _ _ hv, ha]
      · have hne : v ≠ s.focus.a := fun h => hv h.symm
        rw [State.inject_stop, State.stop_modStop_same, State.answersJoin, State.inject_stop, State.stop_modStop_ne _ _ hne, hstop, State.stop_modStop_ne _ _ hne]
  by_cases hlost : s.treeLost s.focus.a tag root chain hd
  · have hexec : exec .mergeJoinArrival s = .next (((s.modStop s.focus.a (Stop.treeTaken (port, k))).answersJoin s.focus.a v tag root slot ix 2).undoesJoin s.focus.a v tag root slot
        ix chain hd) := by
      change execMergeJoinArrival s = _
      simp only [execMergeJoinArrival, hnext, hbody, Bool.false_eq_true, if_false]
      rw [if_pos ((s.treeLost_iff s.focus.a tag root chain hd).mpr hlost)]
      rfl
    obtain ⟨hkept, hmerge, hinject, hundo⟩ := hends (s.modStop s.focus.a (Stop.treeTaken (port, k))) 2 (.modStop _ _ _) rfl rfl
    exact ⟨_, 2, hexec, hkept, hmerge, fun _ => rfl, fun h => absurd hlost h, hinject, hundo⟩
  · obtain ⟨htree, hfull⟩ := hbad.resolve_left hlost
    have hexec : exec .mergeJoinArrival s = .next ((((s.modStop s.focus.a (Stop.treeTaken (port, k))).modDie (dieOf s.focus.a) fun d => d.count 4 1).answersJoin s.focus.a v tag root
        slot ix 1).undoesJoin s.focus.a v tag root slot ix chain hd) := by
      change execMergeJoinArrival s = _
      simp only [execMergeJoinArrival, hnext, hbody, Bool.false_eq_true, if_false]
      rw [if_neg (mt (s.treeLost_iff s.focus.a tag root chain hd).mp hlost)]
      simp only [htree, if_pos hfull]
      rfl
    obtain ⟨hkept, hmerge, hinject, hundo⟩ := hends ((s.modStop s.focus.a (Stop.treeTaken (port, k))).modDie (dieOf s.focus.a) fun d => d.count 4 1) 1
      ((Kept.modStop _ _ _).trans (.modDie _ _ _)) rfl rfl
    exact ⟨_, 1, hexec, hkept, hmerge, fun h => absurd h hlost, fun _ => rfl, hinject, hundo⟩

end

/-- A leave counts down, and goes on toward the root while entries vanish (R297, R332). -/
theorem mergeJoinArrival_leaves {e : MergeEntry} (hbody : k.body = .mergeJoin v tag root slot ix true chain hd up) (hup : s.focus.a ≠ up)
    (htree : (s.stop s.focus.a).tree tag root = some e) : ∃ t, exec .mergeJoinArrival s = .next t ∧ Kept s t ∧
    ((e.down port).total ≠ 0 → (t.stop s.focus.a).tree tag root = some (e.down port) ∧ (t.stop s.focus.a).inject = (s.stop s.focus.a).inject) ∧
    ((e.down port).total = 0 → (t.stop s.focus.a).merge = (s.stop s.focus.a).merge.filter (· != e) ∧ (t.stop s.focus.a).inject = (s.stop s.focus.a).inject ++
      (if s.focus.a = root then [] else [s.treePacket s.focus.a (acrossPort s.focus.a (orderNext s.focus.a root)).1 1 (.mergeJoin v tag root slot ix true chain hd up)])) := by
  let s1 := s.modStop s.focus.a (Stop.treeTaken (port, k))
  have hs1 : s1.stop s.focus.a = (s.stop s.focus.a).treeTaken (port, k) := State.stop_modStop_same ..
  have htree1 : (s1.stop s.focus.a).tree tag root = some e := by
    rw [hs1]
    exact htree
  obtain ⟨htag, hroot⟩ : e.tag = tag ∧ e.root = root := by
    have h := List.find?_some htree
    simpa using h
  by_cases hzero : (e.down port).total = 0
  · let u := e.rounds.foldl (fun (s : State) r => s.journal 2 2 s1.focus.a (BitVec.ofNat 32 tag) r.got) (s1.modStop s.focus.a fun x => { x with merge := x.merge.filter (· != e) })
    have hexec : exec .mergeJoinArrival s = .next (u.joinsOn s.focus.a root k.body) := by
      change execMergeJoinArrival s = _
      have hleave : s1.treeLeave s.focus.a tag root port = (true, u) := by
        rw [State.treeLeave, htree1]
        exact if_pos hzero
      simp only [execMergeJoinArrival, hnext, hbody, if_true, if_neg hup]
      rw [show (s.modStop s.focus.a fun x => { x with treeIn := x.treeIn.erase (port, k) }) = s1 from rfl, hleave]
      rfl
    obtain ⟨hkept, hstop, hdev⟩ := (s1.modStop s.focus.a fun x => { x with merge := x.merge.filter (· != e) }).journals_stop s1.focus.a (BitVec.ofNat 32 tag) e.rounds
    have hu : u.stop s.focus.a = { (s.stop s.focus.a).treeTaken (port, k) with merge := (s.stop s.focus.a).merge.filter (· != e) } := by
      refine (hstop s.focus.a).trans ?_
      rw [State.stop_modStop_same, hs1]
      rfl
    have hall : Kept s u := ((Kept.modStop s _ _).trans (.modStop _ _ _)).trans hkept
    have hpacket : u.treePacket s.focus.a (acrossPort s.focus.a (orderNext s.focus.a root)).1 1 k.body =
        s.treePacket s.focus.a (acrossPort s.focus.a (orderNext s.focus.a root)).1 1 (.mergeJoin v tag root slot ix true chain hd up) := by
      rw [hbody]
      simp only [State.treePacket, hall.time.1, show u.dev.device = s.dev.device from hdev]
    refine ⟨_, hexec, ?_, fun h => absurd hzero h, fun _ => ?_⟩
    · rw [State.joinsOn]
      split
      · exact hall
      · exact hall.trans (.modStop _ _ _)
    · rw [State.joinsOn]
      split
      · rw [hu, List.append_nil]
        exact ⟨rfl, rfl⟩
      · rw [State.inject_stop, State.stop_modStop_same, hpacket, hu]
        exact ⟨rfl, rfl⟩
  · have hexec : exec .mergeJoinArrival s = .next (s1.modStop s.focus.a fun x => x.modTree tag root fun _ => e.down port) := by
      change execMergeJoinArrival s = _
      have hleave : s1.treeLeave s.focus.a tag root port = (false, s1.modStop s.focus.a fun x => x.modTree tag root fun _ => e.down port) := by
        rw [State.treeLeave, htree1]
        exact if_neg hzero
      simp only [execMergeJoinArrival, hnext, hbody, if_true, if_neg hup]
      rw [show (s.modStop s.focus.a fun x => { x with treeIn := x.treeIn.erase (port, k) }) = s1 from rfl, hleave]
      rfl
    refine ⟨_, hexec, (Kept.modStop s _ _).trans (.modStop _ _ _), fun _ => ⟨?_, ?_⟩, fun h => absurd h hzero⟩
    · rw [State.stop_modStop_same, Stop.tree_modTree _ _ _ (f := fun _ => e.down port) fun _ _ _ => ⟨htag, hroot⟩, htree1]
      rfl
    · rw [State.stop_modStop_same, hs1]
      rfl

end

end Sys2Proof.Machine
end

section
/-! SUPPORT. An expert chain reads its block and routes its tokens (R329 to R336, R341). -/
namespace Sys2Proof.Machine

/-! ### The layer a die is at -/

namespace Layered

theorem foldr {α : Type} {f : α → State → State} (hf : ∀ a s, Layered s (f a s)) (l : List α) (s : State) : Layered s (l.foldr f s) := by
  induction l with
  | nil => exact .refl s
  | cons a l ih => exact ih.trans (hf a _)

theorem foldl_snd {α β : Type} {f : β × State → α → β × State} (hf : ∀ r a, Layered r.2 (f r a).2) (l : List α) (r : β × State) : Layered r.2 (l.foldl f r).2 := by
  induction l generalizing r with
  | nil => exact .refl r.2
  | cons a l ih => exact (hf r a).trans (ih _)

theorem modStop (s : State) (n : Nat) (f : Stop → Stop) : Layered s (s.modStop n f) := .of_dies rfl

theorem recalls (s : State) (pa : Nat) (write : Bool) : Layered s (s.recall pa write) := by
  rw [State.recall]
  split
  next => exact .refl s
  next d hd =>
    have hhome : ∀ u, u = (match d.owner with
        | none => s
        | some o => match (s.tile o).stash.find? fun l => l.pa == pa / 128 && l.owned with | none => s | some l => s.stashHome l) → Layered s u := by
      rintro u rfl
      split
      · exact .refl s
      · split
        · exact .refl s
        · exact .of_dies rfl
    dsimp only
    split
    · exact ((hhome _ rfl).trans (.foldl (fun _ _ => .modTile _ _ _) _ _)).trans (.modStop _ _ _)
    · exact ((hhome _ rfl).trans (.foldl (fun _ _ => .modTile _ _ _) _ _)).trans (.modStop _ _ _)

theorem unitRead (s : State) (pa n : Nat) : Layered s (s.unitRead pa n).2 := by
  rw [State.unitRead]
  split
  · refine .foldl (fun s l => ?_) _ s
    dsimp only
    split
    · exact (recalls _ _ _).trans (.modStop _ _ _)
    · exact recalls _ _ _
  · exact .refl s

theorem walked (s : State) (t va nb : Nat) (st : Bool) : Layered s (s.walked t va nb st) := by
  refine Layered.trans (.foldl (fun s e => ?_) _ s) (.of_reached (.cacheFor t va nb st _))
  dsimp only
  split
  · exact .refl s
  · rw [State.walkReads]
    split
    · exact .refl s
    · exact .foldr (fun a s => unitRead s a 8) _ s

theorem agentRead {s : State} {n va k : Nat} {v : Nat × State} (h : s.agentRead n va k = .ok v) : Layered s v.2 := by
  rw [State.agentRead] at h
  dsimp only at h
  split at h
  · cases h
  · split at h
    · cases h
    · cases h
      refine (walked s n va k false).trans (.foldl_snd (fun r p => ?_) _ (0, s.walked n va k))
      split
      · exact .refl r.2
      · exact unitRead r.2 _ _

theorem engineRead {s u : State} {n va nb v : Nat} (h : s.engineRead n va nb = .ok (v, u)) : Layered s u := by
  rw [State.engineRead] at h
  split at h
  · cases h
  · split at h
    · obtain ⟨-, rfl⟩ := Prod.mk.inj (Except.ok.inj h)
      exact (walked s n va nb false).trans (.of_dies rfl)
    · exact agentRead h

end Layered

/-! ### The packets of a read -/

theorem UnitReads.asks (s : State) (t va n : Nat) : UnitReads s (s.asks t va n) := by
  rw [State.asks]
  split
  · exact .refl s
  · refine .foldl (fun s p => ?_) _ s
    split
    · split
      · exact .refl s
      · exact .modStop (f := fun x => { x with inject := x.inject ++ [s.packet (p.pool / 1024) t (p.pool % 1024) .tile 1 14 (.poolReq t (unitId 0 0) 0 .read p.addr p.nb)] }) fun _ => rfl
    · exact .askUnit s _ _ _ _ _

theorem Kept.asks (s : State) (t va n : Nat) : Kept s (s.asks t va n) := by
  obtain ⟨l, h⟩ := s.asks_stops t va n
  rw [h]
  exact .of_tiles rfl rfl ⟨rfl, rfl, rfl, rfl⟩

/-! ### Blocks -/

/-- A layer whose block has been read, with a status. -/
def XgoReq.layer (q : XgoReq) (b st x n from_ : Nat) : Layer :=
  { block := b, inst := q.inst, phase := if st = 0 then .route else .over, from_ := from_, xent := x, n := n, nextTok := 0, reps := [], slots := [],
    groups := [], fenced := [], rowQ := [], landed := 0, out := 0, status := st, dispatches := 0, drops := 0 }

/-- A chain that has taken its next block. -/
def Chain.takes (r : List XgoReq) (l : Layer) (c : Chain) : Chain := { c with queue := r, layer := some l }

theorem Chain.takes_at (s : State) (k : Nat) (r : List XgoReq) (l : Layer) : ((s.modChain k (Chain.takes r l)).chain k).queue = r ∧ ((s.modChain k (Chain.takes r l)).chain k).layer = some l := by
  rw [State.chain_modChain_same]
  exact ⟨rfl, rfl⟩

/-- A block that cannot be read is a bad block (R331). -/
theorem chainBlockRead_bad {s : State} {q : XgoReq} {r : List XgoReq} {e : Nat} (hqueue : (s.chain s.focus.a).queue = q :: r)
    (hread : (s.asks (chainStop s.focus.a) q.addr 512).engineRead (chainStop s.focus.a) q.addr 512 = .error e) : ∃ t l, exec .chainBlockRead s = .next t ∧ Kept s t ∧
    (t.chain s.focus.a).queue = r ∧ (t.chain s.focus.a).layer = some l ∧ l.status = 1 ∧ l.phase = .over := by
  have hexec : exec .chainBlockRead s = .next (s.modChain s.focus.a (Chain.takes r (q.layer 0 1 0 0 s.tc))) := by
    change execChainBlockRead s = _
    simp only [execChainBlockRead, hqueue, hread]
    rfl
  obtain ⟨hq, hl⟩ := Chain.takes_at s s.focus.a r (q.layer 0 1 0 0 s.tc)
  exact ⟨_, _, hexec, .modChain _ _ _, hq, hl, rfl, rfl⟩

/-- The place in the order of layers that a block gives its die (R341). -/
def Die.at (b : Nat) (d : Die) : Die := { d with curlayer := BitVec.ofNat 64 (d.curlayer.toNat / 64 * 64 + lbPos b) }

theorem Die.at_pos (b : Nat) (d : Die) : fld (d.at b).curlayer.toNat 0 6 = lbPos b := by
  have hpos : lbPos b < 64 := Nat.mod_lt _ (by decide)
  have hval : (d.at b).curlayer.toNat = (d.curlayer.toNat / 64 * 64 + lbPos b) % 2 ^ 64 := BitVec.toNat_ofNat ..
  rw [hval]
  simp only [fld]
  omega

/-- Memory is as before where no stash holds a line, jets and pools are as before. -/
def CalmStep (s t : State) : Prop := ((∀ q, (s.stop q).dir = []) → t.mem = s.mem) ∧ (∀ m i, t.jet m i = s.jet m i) ∧ ∀ m, (t.tile m).pool = (s.tile m).pool

theorem EngineReads.calmStep {s t : State} (h : EngineReads s t) : CalmStep s t := ⟨fun hdir => (h.calm hdir).1, h.jet, h.pool⟩

theorem EngineReads.modDie (n : Nat) (s : State) (f : Die → Die) : EngineReads s (s.modDie n f) := .of_unit (.modDie n s f)

/-- A chain takes its block, sets its die's place, and begins to route where the block is good (R329 to R331, R341). -/
theorem chainBlockRead_takes {s s1 : State} {q : XgoReq} {r : List XgoReq} {b : Nat} (hqueue : (s.chain s.focus.a).queue = q :: r)
    (hread : (s.asks (chainStop s.focus.a) q.addr 512).engineRead (chainStop s.focus.a) q.addr 512 = .ok (b, s1)) : ∃ t l, exec .chainBlockRead s = .next t ∧ CalmStep s t ∧
    (t.chain s.focus.a).queue = r ∧ (t.chain s.focus.a).layer = some l ∧ l.block = b ∧ l.inst = q.inst ∧ l.nextTok = 0 ∧ l.groups = [] ∧
    fld (t.die (s.focus.a / 2)).curlayer.toNat 0 6 = lbPos b ∧ (lbReserved b = true → l.status = 1) ∧ (l.phase = if l.status = 0 then .route else .over) := by
  let k := s.focus.a
  let s2 := s1.modDie (k / 2) (Die.at b)
  let s3 := (s2.asks (chainStop k) (lbXent b) 128).asks (chainStop k) (lbEtab b) 128
  have hreads2 : EngineReads s s2 := ((EngineReads.of_unit (UnitReads.asks s _ _ _)).trans (State.engineRead_reads hread)).trans (.modDie _ _ _)
  have hreads3 : EngineReads s s3 := hreads2.trans ((EngineReads.of_unit (UnitReads.asks s2 _ _ _)).trans (.of_unit (.asks _ _ _ _)))
  have hpos2 : fld (s2.die (k / 2)).curlayer.toNat 0 6 = lbPos b := by
    have hdie : s2.die (k / 2) = (s1.die (k / 2)).at b := Tbl.get_set_same ..
    rw [hdie]
    exact Die.at_pos b _
  have hpos3 : fld (s3.die (k / 2)).curlayer.toNat 0 6 = lbPos b := by
    rw [((Layered.asks s2 _ _ _).trans (.asks _ _ _ _)) (k / 2)]
    exact hpos2
  obtain ⟨u, st, x, n, from_, hexec, hreads, hpos, hres⟩ : ∃ u st x n from_, exec .chainBlockRead s = .next (u.modChain k (Chain.takes r (q.layer b st x n from_))) ∧ EngineReads s u ∧
      fld (u.die (k / 2)).curlayer.toNat 0 6 = lbPos b ∧ (lbReserved b = true → st = 1) := by
    have hstart : exec .chainBlockRead s = (if lbReserved b then .next (s2.modChain k (Chain.takes r (q.layer b 1 0 0 s.tc)))
        else match s3.engineRead (chainStop k) (lbXent b) 128, s3.engineRead (chainStop k) (lbEtab b) 128 with
          | .ok (x, s3), .ok (w, _) => .next (s3.modChain k (Chain.takes r (q.layer b (if xentOk b x then 0 else 1) x (tenRows w)
              (s.tc + s.agentCost (chainStop k) q.addr + max (s.agentCost (chainStop k) (lbXent b)) (s.agentCost (chainStop k) (lbEtab b))))))
          | _, _ => .next (s3.modChain k (Chain.takes r (q.layer b 1 0 0 s.tc)))) := by
      change execChainBlockRead s = _
      simp only [execChainBlockRead, hqueue, hread]
      rfl
    rw [hstart]
    split
    next hres => exact ⟨s2, 1, 0, 0, _, rfl, hreads2, hpos2, fun _ => rfl⟩
    next hres =>
      split
      next x s4 w s5 hx hw =>
        refine ⟨s4, _, x, _, _, rfl, hreads3.trans (State.engineRead_reads hx), ?_, fun h => absurd h hres⟩
        rw [Layered.engineRead hx (k / 2)]
        exact hpos3
      next => exact ⟨s3, 1, 0, 0, _, rfl, hreads3, hpos3, fun _ => rfl⟩
  obtain ⟨hq, hl⟩ := Chain.takes_at u k r (q.layer b st x n from_)
  exact ⟨_, _, hexec, hreads.calmStep, hq, hl, rfl, rfl, rfl, rfl, hpos, hres, rfl⟩

end Sys2Proof.Machine
end

section
/-! SUPPORT. An expert chain routes its tokens (R334 to R336), and takes its snapshots (R343). -/
namespace Sys2Proof.Machine

/-! ### Tokens -/

/-- The routing of the next token of a layer. -/
def Chain.routed (c : Chain) (l : Layer) (g : BitVec 512) : Routing :=
  Routing.run c.replicas l.nextTok (lbE l.block) (lbMax l.block) ((listEntries g.toNat).take (lbK l.block)) (lbK l.block - ((listEntries g.toNat).take (lbK l.block)).length)
    { ctr := c.counters, reps := l.reps, slots := [], disp := l.dispatches, drops := l.drops } ((listEntries g.toNat).drop (lbK l.block))

/-- A layer that has routed one token more. -/
def Layer.tokRouted (l : Layer) (r : Routing) : Layer :=
  ({ l with nextTok := l.nextTok + 1, reps := r.reps, slots := Tbl.set l.slots l.nextTok (if lbNorm l.block then renorm r.slots else r.slots), dispatches := r.disp,
            drops := r.drops } : Layer).complete [l.nextTok]

/-- With its last token a layer's groups are closed (R329). -/
def Layer.routes (l : Layer) (r : Routing) : Layer :=
  if l.nextTok + 1 = lbT l.block then { l.tokRouted r with phase := .product, groups := (l.tokRouted r).group } else l.tokRouted r

theorem Layer.routes_spec (l : Layer) (r : Routing) : (l.routes r).nextTok = l.nextTok + 1 ∧
    Tbl.get [] (l.routes r).slots l.nextTok = (if lbNorm l.block = true then renorm r.slots else r.slots) ∧ (l.routes r).dispatches = r.disp ∧ (l.routes r).drops = r.drops ∧
    (l.nextTok + 1 = lbT l.block → (l.routes r).phase = .product) ∧ (l.nextTok + 1 ≠ lbT l.block → (l.routes r).phase = l.phase) := by
  have hslots : Tbl.get [] (l.tokRouted r).slots l.nextTok = (if lbNorm l.block = true then renorm r.slots else r.slots) := Tbl.get_set_same ..
  by_cases h : l.nextTok + 1 = lbT l.block
  · rw [Layer.routes, if_pos h]
    exact ⟨rfl, hslots, rfl, rfl, fun _ => rfl, fun hne => absurd h hne⟩
  · rw [Layer.routes, if_neg h]
    exact ⟨rfl, hslots, rfl, rfl, fun he => absurd he h, fun _ => rfl⟩

/-- One token's list is routed (R334 to R336). -/
theorem routeToken_routes {s : State} {l : Layer} {g : Nat × BitVec 512} (hgate : s.nextGate s.focus.a = some (l, g)) : ∃ t m, exec .routeToken s = .next t ∧ Kept s t ∧
    (t.chain s.focus.a).gates = (s.chain s.focus.a).gates.erase g ∧ (t.chain s.focus.a).counters = ((s.chain s.focus.a).routed l g.2).ctr ∧ (t.chain s.focus.a).layer = some m ∧
    m.nextTok = l.nextTok + 1 ∧ Tbl.get [] m.slots l.nextTok = (if lbNorm l.block = true then renorm ((s.chain s.focus.a).routed l g.2).slots else ((s.chain s.focus.a).routed l g.2).slots) ∧
    m.dispatches = ((s.chain s.focus.a).routed l g.2).disp ∧ m.drops = ((s.chain s.focus.a).routed l g.2).drops ∧
    (l.nextTok + 1 = lbT l.block → m.phase = .product) ∧ (l.nextTok + 1 ≠ lbT l.block → m.phase = l.phase) := by
  let r := (s.chain s.focus.a).routed l g.2
  let f (c : Chain) : Chain := { c with gates := c.gates.erase g, counters := r.ctr, lastLayer := lbLayer l.block, layer := some (l.routes r) }
  have hexec : exec .routeToken s = .next (s.modChain s.focus.a f) := by
    change execRouteToken s = _
    simp only [execRouteToken, hgate]
    rfl
  have hchain : (s.modChain s.focus.a f).chain s.focus.a = f (s.chain s.focus.a) := State.chain_modChain_same ..
  exact ⟨_, l.routes r, hexec, .modChain _ _ _, congrArg Chain.gates hchain, congrArg Chain.counters hchain, congrArg Chain.layer hchain, l.routes_spec r⟩

/-! ### Snapshots -/

/-- One request of a chain as the counters are copied (R343). -/
def Chain.copySnap (tc time : Nat) (m : Chain) (r : SnapReq) : Chain :=
  if r.from_ ≤ tc ∧ r.image.isNone then { m with snaps := m.snaps ++ [{ r with image := some (snapImage m time) }], counters := [] }
  else { m with snaps := m.snaps ++ [r] }

theorem Chain.copySnaps_eq (c : Chain) (tc time : Nat) : c.copySnaps tc time = c.snaps.foldl (Chain.copySnap tc time) { c with snaps := [] } := rfl

theorem Chain.copySnap_length (tc time : Nat) (l : List SnapReq) (m : Chain) : (l.foldl (Chain.copySnap tc time) m).snaps.length = m.snaps.length + l.length := by
  induction l generalizing m with
  | nil => rfl
  | cons r l ih =>
    have hone : (m.copySnap tc time r).snaps.length = m.snaps.length + 1 := by
      rw [Chain.copySnap]
      split <;> exact List.length_append
    rw [List.foldl_cons, ih, hone, List.length_cons]
    omega

theorem Chain.copySnap_mem (tc time : Nat) {l : List SnapReq} {m : Chain} {r : SnapReq} (h : r ∈ m.snaps ∨ (r ∈ l ∧ r.image.isSome = true)) :
    r ∈ (l.foldl (Chain.copySnap tc time) m).snaps := by
  induction l generalizing m with
  | nil => exact h.resolve_right fun hno => List.not_mem_nil hno.1
  | cons a l ih =>
    rw [List.foldl_cons]
    refine ih ?_
    have hold (q : SnapReq) (hq : q ∈ m.snaps) : q ∈ (m.copySnap tc time a).snaps := by
      rw [Chain.copySnap]
      split <;> exact List.mem_append_left _ hq
    rcases h with h | ⟨h, himage⟩
    · exact .inl (hold r h)
    · rcases List.mem_cons.mp h with rfl | h
      · have hno : ¬ (r.from_ ≤ tc ∧ r.image.isNone = true) := fun hn => by
          rw [Option.isNone_iff_eq_none] at hn
          rw [hn.2] at himage
          exact Bool.noConfusion himage
        rw [Chain.copySnap, if_neg hno]
        exact .inl (List.mem_append_right _ List.mem_cons_self)
      · exact .inr ⟨h, himage⟩

/-- What copying does to the requests of a chain (R343). -/
theorem Chain.copySnaps_spec (c : Chain) (tc time : Nat) : (c.copySnaps tc time).snaps.length = c.snaps.length ∧ ∀ r, c.snaps = [r] → r.from_ ≤ tc → r.image = none →
    (c.copySnaps tc time).snaps = [{ r with image := some (snapImage c time) }] ∧ (c.copySnaps tc time).counters = [] := by
  refine ⟨?_, fun r hr hfrom hnone => ?_⟩
  · rw [Chain.copySnaps_eq, Chain.copySnap_length]
    exact Nat.zero_add _
  · have hyes : r.from_ ≤ tc ∧ r.image.isNone = true := ⟨hfrom, by rw [hnone]; rfl⟩
    rw [Chain.copySnaps_eq, hr, List.foldl_cons, List.foldl_nil, Chain.copySnap, if_pos hyes]
    exact ⟨rfl, rfl⟩

/-! ### Writes by a unit -/

/-- The packets of the writes of some parts, or their place at the unit's own pool. -/
def UnitSends (s t : State) (u id : Nat) (ps : List Part) (v : Nat) : Prop := ∀ p ∈ ps, let d := fld v (8 * p.off) (8 * p.nb)
  (p.path = .pool → p.pool = 1024 * s.dev.device.toNat + u → ⟨s.dev.device.toNat, u, id, 0, .write (fullEn p.nb) d, p.addr, p.nb, s.nc + 4, false, false⟩ ∈ (t.tile u).poolIn) ∧
  (p.path = .pool → p.pool ≠ 1024 * s.dev.device.toNat + u → (⟨p.pool / 1024, p.pool % 1024, .tile, s.dev.device.toNat, u, payFlits p.nb,
    .poolReq u id 0 (.write (fullEn p.nb) d) p.addr p.nb, false, s.nc + 14, .tile⟩ : Packet) ∈ (t.stop u).inject) ∧
  (p.path ≠ .pool → (⟨s.homeDev p.addr, (homePort p.addr).1, (homePort p.addr).2, s.dev.device.toNat, u, payFlits p.nb, .write u [id] (p.addr / 128)
    (fullEn p.nb * 2 ^ (2 * (p.addr % 128))) (d * 2 ^ (8 * (p.addr % 128))), false, s.nc + 28, .tile⟩ : Packet) ∈ (t.stop u).inject)

/-- What the sending of writes leaves: nothing that waits at the unit goes. -/
structure SendsOn (u : Nat) (s t : State) : Prop where
  kept : Kept s t
  dev : t.dev = s.dev
  chains : t.chains = s.chains
  inject : ∀ k ∈ (s.stop u).inject, k ∈ (t.stop u).inject
  poolIn : ∀ k ∈ (s.tile u).poolIn, k ∈ (t.tile u).poolIn

theorem SendsOn.refl (u : Nat) (s : State) : SendsOn u s s := ⟨.refl s, rfl, rfl, fun _ h => h, fun _ h => h⟩

theorem SendsOn.trans {u : Nat} {s t v : State} (h : SendsOn u s t) (k : SendsOn u t v) : SendsOn u s v :=
  ⟨h.kept.trans k.kept, k.dev.trans h.dev, k.chains.trans h.chains, fun a ha => k.inject a (h.inject a ha), fun a ha => k.poolIn a (h.poolIn a ha)⟩

theorem SendsOn.injectTo (u dev dst : Nat) (port : Endpoint) (flits d : Nat) (b : Pkt) (s : State) : SendsOn u s (s.injectTo dev u dst port flits d b) ∧
    s.packet dev u dst port flits d b ∈ ((s.injectTo dev u dst port flits d b).stop u).inject := by
  have hstop : (s.injectTo dev u dst port flits d b).stop u = { s.stop u with inject := (s.stop u).inject ++ [s.packet dev u dst port flits d b] } := State.stop_modStop_same ..
  refine ⟨⟨.modStop _ _ _, rfl, rfl, fun k hk => ?_, fun _ hk => hk⟩, ?_⟩
  · rw [hstop]
    exact List.mem_append_left _ hk
  · rw [hstop]
    exact List.mem_append_right _ List.mem_cons_self

/-- A unit's write of one part. -/
def State.sendPart (u id v : Nat) (s : State) (p : Part) : State :=
  let d := fld v (8 * p.off) (8 * p.nb)
  let dev := s.dev.device.toNat
  if p.path = .pool then
    if p.pool = 1024 * dev + u then s.modTile u fun x =>
      { x with poolIn := x.poolIn ++ [⟨dev, u, id, 0, .write (fullEn p.nb) d, p.addr, p.nb, s.nc + 4, false, false⟩] }
    else s.injectTo (p.pool / 1024) u (p.pool % 1024) .tile (payFlits p.nb) 14 (.poolReq u id 0 (.write (fullEn p.nb) d) p.addr p.nb)
  else s.tellUnit u id p.addr p.nb (fullEn p.nb) d

theorem State.unitSend_eq (s : State) (u id : Nat) (ps : List Part) (v : Nat) : s.unitSend u id ps v = (ps.foldl (State.sendPart u id v) s, ps.length) := rfl

theorem State.sendPart_sends (u id v : Nat) (s : State) (p : Part) : SendsOn u s (s.sendPart u id v p) ∧ UnitSends s (s.sendPart u id v p) u id [p] v := by
  rw [State.sendPart]
  split
  next hpool =>
    split
    next hown =>
      refine ⟨⟨.modTile s u (fun _ => rfl) fun _ => rfl, rfl, rfl, fun _ h => h, fun k hk => ?_⟩, fun q hq => ?_⟩
      · rw [State.tile_modTile_same]
        exact List.mem_append_left _ hk
      · obtain rfl := List.mem_singleton.mp hq
        refine ⟨fun _ _ => ?_, fun _ hne => absurd hown hne, fun hne => absurd hpool hne⟩
        rw [State.tile_modTile_same]
        exact List.mem_append_right _ List.mem_cons_self
    next hfar =>
      obtain ⟨hon, hmem⟩ := SendsOn.injectTo u (p.pool / 1024) (p.pool % 1024) .tile (payFlits p.nb) 14
        (.poolReq u id 0 (.write (fullEn p.nb) (fld v (8 * p.off) (8 * p.nb))) p.addr p.nb) s
      refine ⟨hon, fun q hq => ?_⟩
      obtain rfl := List.mem_singleton.mp hq
      exact ⟨fun _ h => absurd h hfar, fun _ _ => hmem, fun hne => absurd hpool hne⟩
  next hhome =>
    obtain ⟨hon, hmem⟩ := SendsOn.injectTo u (s.homeDev p.addr) (homePort p.addr).1 (homePort p.addr).2 (payFlits p.nb) 28
      (.write u [id] (p.addr / 128) (fullEn p.nb * 2 ^ (2 * (p.addr % 128))) (fld v (8 * p.off) (8 * p.nb) * 2 ^ (8 * (p.addr % 128)))) s
    refine ⟨hon, fun q hq => ?_⟩
    obtain rfl := List.mem_singleton.mp hq
    exact ⟨fun h => absurd h hhome, fun h => absurd h hhome, fun _ => hmem⟩

/-- Of writes sent, each is on its way. -/
theorem UnitSends.cons {s t w : State} {u id v : Nat} {p : Part} {ps : List Part} (hone : UnitSends s t u id [p] v) (hrest : UnitSends t w u id ps v) (h : SendsOn u s t)
    (k : SendsOn u t w) : UnitSends s w u id (p :: ps) v := by
  intro q hq
  rcases List.mem_cons.mp hq with rfl | hq
  · obtain ⟨hown, hfar, hhome⟩ := hone q List.mem_cons_self
    exact ⟨fun a b => k.poolIn _ (hown a b), fun a b => k.inject _ (hfar a b), fun a => k.inject _ (hhome a)⟩
  · have hq' := hrest q hq
    rw [h.dev, h.kept.time.1] at hq'
    have hdev : t.homeDev q.addr = s.homeDev q.addr := by rw [State.homeDev, State.homeDev, h.dev]
    rw [hdev] at hq'
    exact hq'

theorem State.unitSend_sends (u id v : Nat) (ps : List Part) (s : State) : SendsOn u s (s.unitSend u id ps v).1 ∧ UnitSends s (s.unitSend u id ps v).1 u id ps v := by
  rw [State.unitSend_eq]
  induction ps generalizing s with
  | nil => exact ⟨.refl u s, fun p hp => absurd hp List.not_mem_nil⟩
  | cons p ps ih =>
    obtain ⟨hon, hone⟩ := State.sendPart_sends u id v s p
    obtain ⟨hrest, hsends⟩ := ih (s.sendPart u id v p)
    exact ⟨hon.trans hrest, hone.cons hsends hon hrest⟩

/-! ### Snapshots, taken, written and over -/

/-- Without a snapshot to write, or one that is over, the counters are copied where that is due (R343). -/
theorem snapshotTake_copies {s : State} (hwrite : (s.chain s.focus.a).snapWrite = none) (hover : (s.chain s.focus.a).snapOver = none) : ∃ t, exec .snapshotTake s = .next t ∧ Kept s t ∧
    (t.chain s.focus.a).snaps = ((s.chain s.focus.a).copySnaps s.tc s.dev.time).snaps ∧ (t.chain s.focus.a).counters = ((s.chain s.focus.a).copySnaps s.tc s.dev.time).counters := by
  have hexec : exec .snapshotTake s = .next (s.modChain s.focus.a fun c => c.copySnaps s.tc s.dev.time) := by
    change execSnapshotTake s = _
    simp only [execSnapshotTake, hwrite, hover]
  have hchain : (s.modChain s.focus.a fun c => c.copySnaps s.tc s.dev.time).chain s.focus.a = (s.chain s.focus.a).copySnaps s.tc s.dev.time := State.chain_modChain_same ..
  exact ⟨_, hexec, .modChain _ _ _, congrArg Chain.snaps hchain, congrArg Chain.counters hchain⟩

/-- A snapshot's request with one write more sent. -/
def SnapReq.goes (n : Nat) (r : SnapReq) : SnapReq := { r with written := r.written + 1, out := r.out + n }

/-- A snapshot's next 64 bytes leave the chain's stop (R343). -/
theorem snapshotTake_writes {s : State} {r : SnapReq} (hover : (s.chain s.focus.a).snapOver = none) (hwrite : (s.chain s.focus.a).snapWrite = some r) {at_ n : Nat} (hat : 64 * r.written = at_)
    (hn : min 64 (4112 - at_) = n) : ∃ t, exec .snapshotTake s = .next t ∧ Kept s t ∧
    (t.chain s.focus.a).counters = ((s.chain s.focus.a).copySnaps s.tc s.dev.time).counters ∧ r.goes (cutParts r.parts at_ n).length ∈ (t.chain s.focus.a).snaps ∧
    UnitSends s t (chainStop s.focus.a) (unitId 5 (s.focus.a + 8 * r.owedId)) (cutParts r.parts at_ n) (fld (r.image.getD 0) (8 * at_) (8 * n)) := by
  let k := s.focus.a
  let s1 := s.modChain k fun c => c.copySnaps s.tc s.dev.time
  let ps := cutParts r.parts at_ n
  let w := s1.unitSend (chainStop k) (unitId 5 (k + 8 * r.owedId)) ps (fld (r.image.getD 0) (8 * at_) (8 * n))
  let f (c : Chain) : Chain := { c with snaps := c.snaps.map fun q => if q = r then r.goes ps.length else q }
  have hexec : exec .snapshotTake s = .next (w.1.modChain k f) := by
    change execSnapshotTake s = _
    simp only [execSnapshotTake, hwrite, hover, hat, hn]
    rfl
  obtain ⟨hon, hsends⟩ := State.unitSend_sends (chainStop k) (unitId 5 (k + 8 * r.owedId)) (fld (r.image.getD 0) (8 * at_) (8 * n)) ps s1
  have hw : w.1.chain k = (s.chain k).copySnaps s.tc s.dev.time := by
    have hsame : w.1.chain k = s1.chain k := by rw [State.chain, hon.chains]; rfl
    exact hsame.trans (State.chain_modChain_same ..)
  have hchain : (w.1.modChain k f).chain k = f (w.1.chain k) := State.chain_modChain_same ..
  have hmem : r ∈ ((s.chain k).copySnaps s.tc s.dev.time).snaps := by
    have hsome := List.find?_some hwrite
    rw [Chain.copySnaps_eq]
    refine Chain.copySnap_mem s.tc s.dev.time (.inr ⟨List.mem_of_find?_eq_some hwrite, ?_⟩)
    exact (Bool.and_eq_true_iff.mp hsome).1
  refine ⟨_, hexec, ((Kept.modChain s _ _).trans hon.kept).trans (.modChain _ _ _), ?_, ?_, hsends⟩
  · rw [hchain, ← hw]
  · rw [hchain, hw]
    exact List.mem_map.mpr ⟨r, hmem, if_pos rfl⟩

theorem State.settle_later {s : State} {t slot id v : Nat} {w : Owed} (lat : Nat) (h : (s.jet t slot).findOwed id = some w) :
    ((s.settle t slot id lat v).jet t slot).findOwed id = some { w with w := [⟨scatter w.dst v, []⟩], flags := [0] } := by
  have howes : ((s.tile t).jet slot).owes id = true := Jet.owes_of_findOwed h
  rw [State.jet, State.settle_tile, Tile.settled, if_pos howes, Tile.jet_modJet_same]
  exact Jet.findOwed_fillOwed h

/-- A tile whose L1 drops some lines. -/
def Tile.dropsLines (l : List Nat) (x : Tile) : Tile := l.foldl (fun (x : Tile) l => x.l1Drop l) x

theorem Tile.dropsLines_core (l : List Nat) (x : Tile) : (x.dropsLines l).jets = x.jets ∧ (x.dropsLines l).pool = x.pool := by
  rw [Tile.dropsLines]
  induction l generalizing x with
  | nil => exact ⟨rfl, rfl⟩
  | cons a l ih => exact ih (x.l1Drop a)

/-- A snapshot whose writes are all performed gives its status, and leaves the chain (R343). -/
theorem snapshotTake_ends {s : State} {r : SnapReq} {o : Owed} (hwrite : (s.chain s.focus.a).snapWrite = none) (hover : (s.chain s.focus.a).snapOver = some r)
    (howed : (s.jet r.tile r.slot).findOwed r.owedId = some o) : ∃ t p, exec .snapshotTake s = .next t ∧
    (t.chain s.focus.a).snaps = (({ s.chain s.focus.a with snaps := (s.chain s.focus.a).snaps.erase r } : Chain).copySnaps s.tc s.dev.time).snaps ∧
    (t.jet r.tile r.slot).findOwed r.owedId = some p ∧ p.w = [⟨scatter o.dst 0, []⟩] := by
  let pas := (r.parts.filter fun (p : Part) => p.path != Path.pool).map fun (p : Part) => p.addr / 128
  let u := (s.modTile r.tile (Tile.dropsLines pas)).modChain s.focus.a fun c => { c with snaps := c.snaps.erase r }
  let v := u.settle r.tile r.slot r.owedId (ceilDiv (hops r.tile (chainStop s.focus.a)) 2) 0
  have hexec : exec .snapshotTake s = .next (v.modChain s.focus.a fun c => c.copySnaps s.tc s.dev.time) := by
    change execSnapshotTake s = _
    simp only [execSnapshotTake, hwrite, hover]
    rfl
  have hu : Kept s u := (Kept.modTile s r.tile (fun x => (x.dropsLines_core pas).2) fun x => (x.dropsLines_core pas).1).trans (.modChain _ _ _)
  have hfound : (u.jet r.tile r.slot).findOwed r.owedId = some o := by
    rw [hu.jets]
    exact howed
  refine ⟨_, _, hexec, ?_, State.settle_later (v := 0) (ceilDiv (hops r.tile (chainStop s.focus.a)) 2) hfound, rfl⟩
  have hv : v.chain s.focus.a = { s.chain s.focus.a with snaps := (s.chain s.focus.a).snaps.erase r } := by
    change u.chain s.focus.a = _
    exact (State.chain_modChain_same ..).trans rfl
  rw [State.chain_modChain_same, hv]

end Sys2Proof.Machine
end

section
/-! SUPPORT. Gathers, and the placement and the commands of groups (R338 to R341). -/
namespace Sys2Proof.Machine

/-! ### Layers and their groups -/

theorem State.modLayer_layer {s : State} {k : Nat} {l : Layer} (h : (s.chain k).layer = some l) (f : Layer → Layer) : ((s.modLayer k f).chain k).layer = some (f l) := by
  rw [State.modLayer, State.chain_modChain_same]
  exact congrArg (Option.map f) h

theorem Kept.modLayer (s : State) (k : Nat) (f : Layer → Layer) : Kept s (s.modLayer k f) := .modChain _ _ _

theorem Layer.modGroup_at (l : Layer) (ix : Nat) (f : Group → Group) : (l.modGroup ix f).groups[ix]? = (l.groups[ix]?).map f := by
  simp only [Layer.modGroup, List.getElem?_modify, if_true, Option.map_eq_map]

theorem getElem?_of_find_zipIdx {α : Type} {l : List α} {p : α × Nat → Bool} {ix : Nat} {a : α} (h : (l.zipIdx.find? p).map (fun e => (e.2, e.1)) = some (ix, a)) : l[ix]? = some a := by
  obtain ⟨e, he, hpair⟩ := Option.map_eq_some_iff.mp h
  obtain ⟨rfl, rfl⟩ := Prod.mk.inj hpair
  exact List.mem_zipIdx_iff_getElem?.mp (List.mem_of_find?_eq_some he)

theorem Layer.toGather_at {l : Layer} {ix : Nat} {g : Group} (h : l.toGather = some (ix, g)) : l.groups[ix]? = some g := by
  rw [Layer.toGather] at h
  split at h
  · cases h
  · exact getElem?_of_find_zipIdx h

theorem Layer.toPlace_at {l : Layer} {ix : Nat} {g : Group} (h : l.toPlace = some (ix, g)) : l.groups[ix]? = some g := by
  rw [Layer.toPlace] at h
  split at h
  · cases h
  · exact getElem?_of_find_zipIdx h

theorem Layer.toInstall_at {l : Layer} {ix : Nat} {g : Group} (h : l.toInstall = some (ix, g)) : l.groups[ix]? = some g := by
  rw [Layer.toInstall] at h
  split at h
  · cases h
  · exact getElem?_of_find_zipIdx h

theorem Layer.fail_status (l : Layer) (st : Nat) : (l.fail st).status = (if l.status = 0 then st else l.status) ∧ (l.fail st).phase = .over := ⟨rfl, rfl⟩

/-! ### Gathers -/

/-- A gather that failed ends its layer (R338, R342). -/
theorem gather_fails {s : State} {l : Layer} (hl : (s.chain s.focus.a).layer = some l) (hfail : s.gatherFailed s.focus.a = true) : ∃ t m, exec .gather s = .next t ∧ Kept s t ∧
    (t.chain s.focus.a).layer = some m ∧ m.status = l.gatherStatus ∧ m.phase = .over := by
  have hexec : exec .gather s = .next (s.modLayer s.focus.a fun l => l.fail l.gatherStatus) := by
    change execGather s = _
    simp only [execGather, hfail, if_true]
  have hzero : l.status = 0 := by
    have h := hfail
    simp only [State.gatherFailed, hl, Bool.and_eq_true, beq_iff_eq] at h
    exact h.1
  refine ⟨_, _, hexec, .modLayer _ _ _, State.modLayer_layer hl _, ?_, rfl⟩
  rw [(l.fail_status _).1, if_pos hzero]

/-- A group whose gather is on its way. -/
def Group.gathers (g : Group) : Group := { g with gather := 1 }

theorem State.gatherNext_layer {s : State} {k ix v : Nat} {l : Layer} {g : Group} {hd : BitVec 32} (h : s.gatherNext k = some (l, ix, g, v, hd)) :
    (s.chain k).layer = some l ∧ l.groups[ix]? = some g := by
  obtain ⟨q, hl, h1⟩ := Option.bind_eq_some_iff.mp h
  obtain ⟨e, he, h2⟩ := Option.bind_eq_some_iff.mp h1
  obtain ⟨p, -, h3⟩ := Option.bind_eq_some_iff.mp h2
  obtain ⟨b, -, h4⟩ := Option.map_eq_some_iff.mp h3
  obtain ⟨hq, h5⟩ := Prod.mk.inj h4
  obtain ⟨hix, h6⟩ := Prod.mk.inj h5
  rw [← hq, ← hix, ← (Prod.mk.inj h6).1]
  exact ⟨hl, Layer.toGather_at he⟩

/-- The next group's gather command is sent from the chain's stop (R338). -/
theorem gather_sends {s : State} {ix v : Nat} {l : Layer} {g : Group} {hd : BitVec 32} (hfail : s.gatherFailed s.focus.a = false)
    (hnext : s.gatherNext s.focus.a = some (l, ix, g, v, hd)) : ∃ t m, exec .gather s = .next t ∧ Kept s t ∧ (t.chain s.focus.a).layer = some m ∧
    ((m.groups[ix]?).map (·.gather)) = some 1 ∧ Posted s t (chainStop s.focus.a) hd 64 fun p =>
      p = gatherImage (lbCap l.block) (lbChan l.block) (l.gatherChan s.focus.a ix g) (s.chainHandle s.focus.a) := by
  let m := plainMsg (chainStop s.focus.a) hd l.inst 64 (gatherImage (lbCap l.block) (lbChan l.block) (l.gatherChan s.focus.a ix g) (s.chainHandle s.focus.a))
  have hexec : exec .gather s = .next ((s.modLayer s.focus.a fun l => l.modGroup ix Group.gathers).post (chainStop s.focus.a) 0 m) := by
    change execGather s = _
    simp only [execGather, hfail, Bool.false_eq_true, if_false, hnext]
    rfl
  obtain ⟨hl, hg⟩ := State.gatherNext_layer hnext
  refine ⟨_, l.modGroup ix Group.gathers, hexec, (Kept.modLayer _ _ _).trans (.post _ _ _ _), State.modLayer_layer hl _, ?_, ?_⟩
  · rw [Layer.modGroup_at, hg]
    rfl
  · exact (State.post_posts (s.modLayer s.focus.a fun l => l.modGroup ix Group.gathers) (chainStop s.focus.a) 0 m (p := fun p =>
      p = gatherImage (lbCap l.block) (lbChan l.block) (l.gatherChan s.focus.a ix g) (s.chainHandle s.focus.a)) rfl).after rfl

/-! ### Placement -/

/-- A group that has its slot. -/
def Group.placed (p : Nat) (fresh : Bool) (g : Group) : Group := { g with slot := some p, fresh := fresh }

/-- A chain that waits for no slot. -/
def Chain.gotSlot (c : Chain) : Chain := { c with evict := none, waitEvict := false }

section
variable {s : State} {l : Layer} {ix : Nat} {g : Group} (hl : (s.chain s.focus.a).layer = some l) (hb : s.focus.b ≠ 1)
include hl hb

section
variable (hinstall : l.toInstall = none) (hplace : l.toPlace = some (ix, g))
include hinstall hplace

/-- A group is placed in a slot (R340). -/
theorem groupPlace_places {p : Nat} {ev : Bool} (hslot : s.placeOf s.focus.a l g = .slot p ev) : ∃ t m, exec .groupPlace s = .next t ∧ Kept s t ∧
    (t.chain s.focus.a).layer = some m ∧ ((m.groups[ix]?).map (·.slot)) = some (some p) ∧
    Tbl.get none (t.die (s.focus.a / 2)).expSlots p = some (lbLayer l.block, g.e, g.i) := by
  let k := s.focus.a
  let id := some (lbLayer l.block, g.e, g.i)
  let s1 := if ev && (s.orderTable (k / 2) (chainStop k)).isNone then s.journal 8 0 (chainStop k) 0 (fld (s.die (k / 2)).curlayer.toNat 14 50 * 128) else s
  let s2 := s1.modDie (k / 2) fun d => { d with expSlots := Tbl.set d.expSlots p id }
  let f (l : Layer) : Layer := l.modGroup ix (Group.placed p (Tbl.get none (s.die (k / 2)).expSlots p != id))
  have hexec : exec .groupPlace s = .next ((s2.modChain k Chain.gotSlot).modLayer k f) := by
    change execGroupPlace s = _
    simp only [execGroupPlace, hl, if_neg hb, hinstall, hplace, hslot]
    rfl
  have h1 : Kept s s1 ∧ s1.chains = s.chains := by
    by_cases h : (ev && (s.orderTable (k / 2) (chainStop k)).isNone) = true
    · rw [show s1 = _ from if_pos h]
      exact ⟨.journal _ _ _ _ _ _, rfl⟩
    · rw [show s1 = s from if_neg h]
      exact ⟨.refl s, rfl⟩
  have hl2 : ((s2.modChain k Chain.gotSlot).chain k).layer = some l := by
    rw [State.chain_modChain_same]
    have hsame : s2.chain k = s.chain k := by
      change Tbl.get _ s1.chains k = _
      rw [h1.2]
      rfl
    exact (congrArg Chain.layer hsame).trans hl
  refine ⟨_, f l, hexec, ((h1.1.trans (.modDie _ _ _)).trans (.modChain _ _ _)).trans (.modLayer _ _ _), State.modLayer_layer hl2 f, ?_, ?_⟩
  · rw [Layer.modGroup_at, Layer.toPlace_at hplace]
    rfl
  · have hdie : s2.die (k / 2) = { s1.die (k / 2) with expSlots := Tbl.set (s1.die (k / 2)).expSlots p id } := Tbl.get_set_same ..
    change Tbl.get none (s2.die (k / 2)).expSlots p = id
    rw [hdie]
    exact Tbl.get_set_same ..

/-- The host is asked for a slot (R367 duty 2). -/
theorem groupPlace_asks (hask : s.placeOf s.focus.a l g = .ask) : ∃ t, exec .groupPlace s = .next t ∧ Kept s t ∧ (t.chain s.focus.a).waitEvict = true ∧
    (t.chain s.focus.a).layer = some l := by
  have hexec : exec .groupPlace s = .next (s.modChain s.focus.a fun c => { c with waitEvict := true }) := by
    change execGroupPlace s = _
    simp only [execGroupPlace, hl, if_neg hb, hinstall, hplace, hask]
  refine ⟨_, hexec, .modChain _ _ _, ?_, ?_⟩ <;> rw [State.chain_modChain_same]
  exact hl

end

/-- A group whose entries have been read. -/
def Group.entriesAt (w tc cost : Nat) (g : Group) : Group := { g with went := w, installAt := some (tc + if g.fresh then 64 + cost else 0) }

/-- The entries of a gathered and placed group are read (R339, R340). -/
theorem groupPlace_reads {w : Nat} {s1 : State} (hinstall : l.toInstall = some (ix, g)) {va : Nat} (hva : (lbEtab l.block + 128 * g.e) % 2 ^ 64 = va)
    (hread : (s.asks (chainStop s.focus.a) va 128).engineRead (chainStop s.focus.a) va 128 = .ok (w, s1)) : ∃ t m, exec .groupPlace s = .next t ∧ Kept s1 t ∧
    (t.chain s.focus.a).layer = some m ∧
    (entriesOk l.block l.xent w l.n = true → ∃ at_, (m.groups[ix]?).map (fun y => (y.went, y.installAt)) = some (w, some at_) ∧ (g.fresh = false → at_ = s.tc) ∧
      (g.fresh = true → s.tc + 64 ≤ at_)) ∧
    (entriesOk l.block l.xent w l.n = false → m.status = (if l.status = 0 then 1 else l.status)) := by
  let cost := s.agentCost (chainStop s.focus.a) va
  have hexec : exec .groupPlace s = .next (if entriesOk l.block l.xent w l.n then s1.modLayer s.focus.a fun l => l.modGroup ix (Group.entriesAt w s.tc cost)
      else s1.modLayer s.focus.a fun l => l.fail 1) := by
    change execGroupPlace s = _
    simp only [execGroupPlace, hl, if_neg hb, hinstall, hva, hread]
    split <;> rfl
  have hreads := (EngineReads.of_unit (UnitReads.asks s (chainStop s.focus.a) va 128)).trans (State.engineRead_reads hread)
  have hl1 : (s1.chain s.focus.a).layer = some l := (congrArg Chain.layer (hreads.chain s.focus.a)).trans hl
  cases hok : entriesOk l.block l.xent w l.n with
  | true =>
    rw [hok, if_pos rfl] at hexec
    refine ⟨_, l.modGroup ix (Group.entriesAt w s.tc cost), hexec, .modLayer _ _ _, State.modLayer_layer hl1 _, fun _ => ⟨s.tc + if g.fresh then 64 + cost else 0, ?_, fun hf => ?_, fun hf => ?_⟩, fun h => Bool.noConfusion h⟩
    · rw [Layer.modGroup_at, Layer.toInstall_at hinstall]
      rfl
    · exact (congrArg (s.tc + ·) (if_neg (by rw [hf]; exact Bool.false_ne_true))).trans (Nat.add_zero _)
    · refine Nat.add_le_add_left ?_ _
      rw [if_pos hf]
      exact Nat.le_add_right _ _
  | false =>
    rw [hok, if_neg Bool.false_ne_true] at hexec
    exact ⟨_, l.fail 1, hexec, .modLayer _ _ _, State.modLayer_layer hl1 _, fun h => Bool.noConfusion h, fun _ => (l.fail_status 1).1⟩

end

/-! ### Entries on the tiles, and commands -/

/-- A group without the list of the tiles that have its entries. -/
def Group.bare (g : Group) : Group := { g with installed := [] }

/-- What giving tiles the entries of a chain's groups leaves: the layer but for where its entries are, the weirs, and the chain besides. -/
structure Enters (k : Nat) (l : Layer) (s t : State) : Prop where
  kept : Kept s t
  weir : ∀ n, (t.tile n).weir = (s.tile n).weir
  layer : ∃ gs, (t.chain k).layer = some { l with groups := gs } ∧ ∀ ix : Nat, (gs[ix]?).map Group.bare = (l.groups[ix]?).map Group.bare

/-- A tile that has some tensor entries more. -/
def Tile.entered (base : Nat) (es : List Nat) (x : Tile) : Tile :=
  { x with mx := { x.mx with tids := es.zipIdx.foldl (fun m e => Tbl.set m (base + e.2) (BitVec.ofNat 1024 e.1)) x.mx.tids } }

/-- A group whose entries one tile more has. -/
def Group.enters (u : Nat) (g : Group) : Group := { g with installed := g.installed ++ [u] }

theorem State.enterGroup_eq {s : State} {k : Nat} {l : Layer} (hl : (s.chain k).layer = some l) (ix u : Nat) : s.enterGroup k ix u = match l.groups[ix]? with
    | none => s
    | some g => (s.modTile u (Tile.entered (lbTbase l.block) (l.entries g))).modLayer k fun l => l.modGroup ix (Group.enters u) := by
  rw [State.enterGroup, hl]
  rfl

theorem Enters.enterGroup {k : Nat} {l : Layer} {s t : State} (h : Enters k l s t) (ix u : Nat) : Enters k l s (t.enterGroup k ix u) := by
  obtain ⟨gs, hgs, hbare⟩ := h.layer
  rw [State.enterGroup_eq hgs]
  split
  · exact h
  next g hg =>
    refine ⟨(h.kept.trans (.modTile t u (f := Tile.entered _ _) (fun _ => rfl) fun _ => rfl)).trans (.modLayer _ _ _), fun n => ?_, gs.modify ix (Group.enters u), ?_, fun i => ?_⟩
    · refine Eq.trans ?_ (h.weir n)
      change ((t.modTile u _).tile n).weir = _
      by_cases hn : n = u
      · rw [hn, State.tile_modTile_same]
        rfl
      · rw [State.tile_modTile_ne _ _ hn]
    · have hsame : ((t.modTile u (Tile.entered (lbTbase l.block) (({ l with groups := gs } : Layer).entries g))).chain k).layer = some { l with groups := gs } := hgs
      exact State.modLayer_layer hsame _
    · rw [← hbare i, List.getElem?_modify]
      split
      · rw [Option.map_eq_map, Option.map_map]
        rfl
      next hne =>
        cases gs[i]? <;> rfl

theorem Enters.refl {k : Nat} {l : Layer} {s : State} (hl : (s.chain k).layer = some l) : Enters k l s s := ⟨.refl s, fun _ => rfl, l.groups, hl, fun _ => rfl⟩

theorem Enters.enterAll {k : Nat} {l : Layer} {s : State} (hl : (s.chain k).layer = some l) : Enters k l s (s.enterAll k) := by
  have hfold (es : List (Nat × Nat)) : ∀ t, Enters k l s t → Enters k l s (es.foldl (fun (s : State) e => s.enterGroup k e.1 e.2) t) := by
    induction es with
    | nil => exact fun t h => h
    | cons e es ih => exact fun t h => ih _ (h.enterGroup e.1 e.2)
  exact hfold _ s (.refl hl)

/-- A group whose next command has been sent. -/
def Group.commands (u b : Nat) (g : Group) : Group :=
  { g with sent := g.sent ++ [(u, b)], again := g.again.drop 1, nextBlock := if g.again.isEmpty then g.nextBlock + 1 else g.nextBlock }

/-- The next command of a group is sent (R339). -/
theorem groupPlace_sends {s : State} {l : Layer} {ix v b : Nat} {g : Group} {hd : BitVec 32} (hl : (s.chain s.focus.a).layer = some l) (hb : s.focus.b = 1)
    (hsend : (s.enterAll s.focus.a).toSend s.focus.a = some (ix, g, v, b, hd)) : ∃ t m, exec .groupPlace s = .next t ∧ Kept s t ∧ v ∈ (t.chain s.focus.a).waiting ∧
    Posted s t (chainStop s.focus.a) hd 64 (fun p => p = l.command b (s.chainHandle s.focus.a)) ∧ (t.chain s.focus.a).layer = some m ∧
    ((m.groups[ix]?).map (·.sent)) = (l.groups[ix]?).map (fun y => y.sent ++ [(v, b)]) := by
  let k := s.focus.a
  let u := ((s.enterAll k).modLayer k fun l => l.modGroup ix (Group.commands v b)).modChain k fun c => { c with waiting := c.waiting ++ [v] }
  let msg := plainMsg (chainStop k) hd l.inst 64 (l.command b (s.chainHandle k))
  have hexec : exec .groupPlace s = .next (u.post (chainStop k) 0 msg) := by
    change execGroupPlace s = _
    simp only [execGroupPlace, hl, if_pos hb, hsend]
    rfl
  have henters := Enters.enterAll hl
  obtain ⟨gs, hgs, hbare⟩ := henters.layer
  have hchain : u.chain k = { ((s.enterAll k).modLayer k fun l => l.modGroup ix (Group.commands v b)).chain k with
      waiting := (((s.enterAll k).modLayer k fun l => l.modGroup ix (Group.commands v b)).chain k).waiting ++ [v] } := State.chain_modChain_same ..
  have hlayer : (u.chain k).layer = some (({ l with groups := gs } : Layer).modGroup ix (Group.commands v b)) := by
    rw [hchain]
    exact State.modLayer_layer hgs _
  have hsent : (gs[ix]?).map (fun y => y.sent ++ [(v, b)]) = (l.groups[ix]?).map (fun y => y.sent ++ [(v, b)]) := by
    have h := congrArg (Option.map fun y : Group => y.sent ++ [(v, b)]) (hbare ix)
    rw [Option.map_map, Option.map_map] at h
    exact h
  refine ⟨_, _, hexec, ((henters.kept.trans (.modLayer _ _ _)).trans (.modChain _ _ _)).trans (.post _ _ _ _), ?_, ?_, hlayer, ?_⟩
  · change v ∈ (u.chain k).waiting
    rw [hchain]
    exact List.mem_append_right _ List.mem_cons_self
  · exact (u.post_posts (chainStop k) 0 msg (p := fun p => p = l.command b (s.chainHandle k)) rfl).after (congrArg Weir.outbound (henters.weir (chainStop k)))
  · rw [← hsent, Layer.modGroup_at, Option.map_map]
    rfl

/-! ### Entries that stand -/

theorem setEntries_below (f : Nat → BitVec 1024) (base : Nat) (l : List Nat) (n : Nat) (m : Tbl (BitVec 1024)) {j : Nat} (hj : j < n) :
    Tbl.get 0 ((l.zipIdx n).foldl (fun m e => Tbl.set m (base + e.2) (f e.1)) m) (base + j) = Tbl.get 0 m (base + j) := by
  induction l generalizing n m with
  | nil => rfl
  | cons a l ih =>
    rw [List.zipIdx_cons, List.foldl_cons, ih (n + 1) _ (Nat.lt_succ_of_lt hj)]
    exact Tbl.get_set_ne _ _ _ (by omega)

theorem setEntries_at (f : Nat → BitVec 1024) (base : Nat) (l : List Nat) (n : Nat) (m : Tbl (BitVec 1024)) {i e : Nat} (he : l[i]? = some e) :
    Tbl.get 0 ((l.zipIdx n).foldl (fun m e => Tbl.set m (base + e.2) (f e.1)) m) (base + (n + i)) = f e := by
  induction l generalizing n m i with
  | nil => simp at he
  | cons a l ih =>
    rw [List.zipIdx_cons, List.foldl_cons]
    cases i with
    | zero =>
      obtain rfl : a = e := by simpa using he
      exact (setEntries_below f base l (n + 1) _ (Nat.lt_succ_self n)).trans (Tbl.get_set_same ..)
    | succ i =>
      rw [List.getElem?_cons_succ] at he
      have h := ih (n + 1) (Tbl.set m (base + n) (f a)) he
      rwa [show n + 1 + i = n + (i + 1) by omega] at h

/-- A tile that has the entries of a group. -/
def Tile.HasEntries (base : Nat) (es : List Nat) (x : Tile) : Prop := ∀ (i e : Nat), es[i]? = some e → Tbl.get 0 x.mx.tids (base + i) = BitVec.ofNat 1024 e

theorem Tile.entered_has (base : Nat) (es : List Nat) (x : Tile) : (x.entered base es).HasEntries base es := fun i e he => by
  have h := setEntries_at (BitVec.ofNat 1024) base es 0 x.mx.tids he
  rwa [Nat.zero_add] at h

/-- Of all that tiles are given, a tile to which one group alone goes has that group's entries. -/
theorem State.enterAll_has {s : State} {k ix v : Nat} {l : Layer} {g : Group} (hl : (s.chain k).layer = some l) (hmem : (ix, v) ∈ s.toEnter k)
    (hone : ∀ e ∈ s.toEnter k, e.2 = v → e.1 = ix) (hg : l.groups[ix]? = some g) : ((s.enterAll k).tile v).HasEntries (lbTbase l.block) (l.entries g) := by
  have hstep (t : State) (h : Enters k l s t) (e : Nat × Nat) : (e.2 = v → e.1 = ix → ((t.enterGroup k e.1 e.2).tile v).HasEntries (lbTbase l.block) (l.entries g)) ∧
      (e.2 ≠ v → ((t.enterGroup k e.1 e.2).tile v).mx = (t.tile v).mx) := by
    obtain ⟨gs, hgs, hbare⟩ := h.layer
    rw [State.enterGroup_eq hgs]
    refine ⟨fun hv hix => ?_, fun hv => ?_⟩
    · have hb := hbare ix
      rw [hg] at hb
      obtain ⟨g', hg', hsame⟩ := Option.map_eq_some_iff.mp hb
      have hentries : ({ l with groups := gs } : Layer).entries g' = l.entries g := by
        change l.entries g'.bare = l.entries g.bare
        rw [hsame]
      have hget : ({ l with groups := gs } : Layer).groups[e.1]? = some g' := by rw [hix]; exact hg'
      rw [hget]
      change ((t.modTile e.2 (Tile.entered (lbTbase l.block) (({ l with groups := gs } : Layer).entries g'))).tile v).HasEntries _ _
      rw [hv, State.tile_modTile_same, hentries]
      exact Tile.entered_has _ _ _
    · split
      · rfl
      · exact congrArg Tile.mx (State.tile_modTile_ne t _ (Ne.symm hv))
  have hfold (es : List (Nat × Nat)) (hes : ∀ e ∈ es, e.2 = v → e.1 = ix) : ∀ t, Enters k l s t → ((ix, v) ∈ es ∨ (t.tile v).HasEntries (lbTbase l.block) (l.entries g)) →
      ((es.foldl (fun (s : State) e => s.enterGroup k e.1 e.2) t).tile v).HasEntries (lbTbase l.block) (l.entries g) := by
    induction es with
    | nil => exact fun t _ h => h.resolve_left List.not_mem_nil
    | cons e es ih =>
      intro t ht h
      obtain ⟨hsame, hother⟩ := hstep t ht e
      refine ih (fun a ha => hes a (List.mem_cons_of_mem _ ha)) _ (ht.enterGroup e.1 e.2) ?_
      by_cases hv : e.2 = v
      · exact .inr (hsame hv (hes e List.mem_cons_self hv))
      · rcases h with h | h
        · rcases List.mem_cons.mp h with rfl | h
          · exact absurd rfl hv
          · exact .inl h
        · refine .inr fun i a ha => ?_
          rw [hother hv]
          exact h i a ha
  exact hfold _ hone s (.refl hl) (.inl hmem)

/-- A tile that a group alone is to have has that group's entries (R339). -/
theorem groupPlace_enters {s : State} {l : Layer} {ix v : Nat} {g : Group} (hl : (s.chain s.focus.a).layer = some l) (hb : s.focus.b = 1) (hmem : (ix, v) ∈ s.toEnter s.focus.a)
    (hone : ∀ e ∈ s.toEnter s.focus.a, e.2 = v → e.1 = ix) (hg : l.groups[ix]? = some g) : ∃ t, exec .groupPlace s = .next t ∧ Kept s t ∧
    ∀ i e, (l.entries g)[i]? = some e → Tbl.get 0 (t.tile v).mx.tids (lbTbase l.block + i) = BitVec.ofNat 1024 e := by
  have hhas := State.enterAll_has hl hmem hone hg
  have henters := Enters.enterAll hl
  rcases hsend : (s.enterAll s.focus.a).toSend s.focus.a with _ | ⟨jx, q, w, b, hd⟩
  · have hexec : exec .groupPlace s = .next (s.enterAll s.focus.a) := by
      change execGroupPlace s = _
      simp only [execGroupPlace, hl, if_pos hb, hsend]
    exact ⟨_, hexec, henters.kept, hhas⟩
  · let u := ((s.enterAll s.focus.a).modLayer s.focus.a fun l => l.modGroup jx (Group.commands w b)).modChain s.focus.a fun c => { c with waiting := c.waiting ++ [w] }
    let msg := plainMsg (chainStop s.focus.a) hd l.inst 64 (l.command b (s.chainHandle s.focus.a))
    have hexec : exec .groupPlace s = .next (u.post (chainStop s.focus.a) 0 msg) := by
      change execGroupPlace s = _
      simp only [execGroupPlace, hl, if_pos hb, hsend]
      rfl
    have hmx : ((u.post (chainStop s.focus.a) 0 msg).tile v).mx = ((s.enterAll s.focus.a).tile v).mx := by
      by_cases hv : v = chainStop s.focus.a
      · obtain ⟨w', hw⟩ := u.tile_post (chainStop s.focus.a) 0 msg
        rw [hv, hw]
        rfl
      · rw [State.post, State.tile_modTile_ne _ _ hv]
        rfl
    refine ⟨_, hexec, ((henters.kept.trans (.modLayer _ _ _)).trans (.modChain _ _ _)).trans (.post _ _ _ _), fun i e he => ?_⟩
    rw [hmx]
    exact hhas i e he

end Sys2Proof.Machine
end

section
/-! SUPPORT and PROOFS. Completions, combined rows and the end of a layer (R342), and O54. -/
namespace Sys2Proof.Machine

/-! ### Completion messages -/

/-- A group one of whose commands is over. -/
def Group.answered (u b : Nat) (g : Group) : Group := { g with sent := g.sent.erase (u, b) }
/-- A group that sends a block again, to a tile that is to have its entries first. -/
def Group.repeats (t b : Nat) (g : Group) : Group := { g with again := g.again ++ [(t, b)], installed := g.installed.filter (· != t) }
/-- A layer one tile of whose ponds has refused a command as fenced. -/
def Layer.fences (u : Nat) (l : Layer) : Layer := { l with fenced := if l.fenced.contains u then l.fenced else l.fenced ++ [u] }

theorem Layer.fences_mem (u : Nat) (l : Layer) : u ∈ (l.fences u).fenced := by
  simp only [Layer.fences, List.contains_eq_mem, decide_eq_true_eq]
  split
  next h => exact h
  next => exact List.mem_append_right _ List.mem_cons_self

/-- The block of the command that a completion message is about. -/
def Group.blockOf (u : Nat) (g : Group) : Nat := ((g.sent.find? fun b => b.1 == u).map (·.2)).getD 0

theorem Layer.completion_done (l : Layer) (die u : Nat) : (l.completion die u 0).status = l.status := by
  simp only [Layer.completion]
  split
  · rfl
  · split <;> rfl

/-- The groups of a layer after a refusal as fenced: the block's next tile is not fenced, and is to be given the entries. -/
structure Layer.Refused (u : Nat) (l m : Layer) : Prop where
  fenced : u ∈ m.fenced
  status : m.status = 0 ∨ m.status = 4
  again : ∀ (i : Nat) (g g' : Group) (y b : Nat), l.groups[i]? = some g → m.groups[i]? = some g' → g'.again = g.again ++ [(y, b)] → y ∉ m.fenced ∧ y ∉ g'.installed

theorem Layer.modGroup_get {l : Layer} {ix i : Nat} {f : Group → Group} {g g' : Group} (hg : l.groups[i]? = some g) (hg' : (l.modGroup ix f).groups[i]? = some g') :
    g' = if ix = i then f g else g := by
  rw [Layer.modGroup, List.getElem?_modify, hg] at hg'
  exact (Option.some.inj hg').symm

/-- A group that has no command more to send again. -/
theorem Layer.answered_again {l : Layer} {ix i u b : Nat} {g g' : Group} (hg : l.groups[i]? = some g) (hg' : (l.modGroup ix (Group.answered u b)).groups[i]? = some g') :
    g'.again = g.again := by
  rw [Layer.modGroup_get hg hg']
  split <;> rfl

section
variable {l : Layer} {g : Group} {ix u : Nat} (die : Nat) (hfind : (l.groups.zipIdx.find? fun e => e.1.sent.any fun b => b.1 == u) = some (g, ix)) (hzero : l.status = 0)
include hfind

/-- The layer where a tile has refused the command as fenced. -/
theorem Layer.completion_fenced : l.completion die u 5 = match g.slot with
    | none => (l.modGroup ix (Group.answered u (g.blockOf u))).fences u
    | some p =>
      match ((l.modGroup ix (Group.answered u (g.blockOf u))).fences u).nextTile die p ((List.range 16).findIdx fun i => pondTile die p i == u) with
      | some t => ((l.modGroup ix (Group.answered u (g.blockOf u))).fences u).modGroup ix (Group.repeats t (g.blockOf u))
      | none => ((l.modGroup ix (Group.answered u (g.blockOf u))).fences u).fail 4 := by
  rw [Layer.completion, hfind]
  rfl

include hzero

theorem Layer.completion_fails {st : Nat} (h0 : st ≠ 0) (h5 : st ≠ 5) : (l.completion die u st).status = if st = 2 then 1 else if st = 1 ∨ st = 3 then 2 else 3 := by
  have hone (n : Nat) : ((l.modGroup ix (Group.answered u (g.blockOf u))).fail n).status = n := if_pos hzero
  rw [Layer.completion, hfind]
  dsimp only
  split
  · exact absurd rfl h0
  · exact hone 2
  · exact hone 2
  · exact hone 1
  · exact absurd rfl h5
  next h1 h3 h2 _ =>
    rw [if_neg h2, if_neg (fun h => h.elim h1 h3)]
    exact hone 3

theorem Layer.completion_refused : Layer.Refused u l (l.completion die u 5) := by
  have hsame {m : Layer} (hgroups : m.groups = (l.modGroup ix (Group.answered u (g.blockOf u))).groups) (hfenced : m.fenced = ((l.modGroup ix (Group.answered u (g.blockOf u))).fences u).fenced)
      (hstatus : m.status = 0 ∨ m.status = 4) : Layer.Refused u l m := by
    refine ⟨?_, hstatus, fun i q q' y b hq hq' hagain => ?_⟩
    · rw [hfenced]
      exact Layer.fences_mem u _
    · rw [hgroups] at hq'
      rw [Layer.answered_again hq hq'] at hagain
      exact absurd (List.self_eq_append_right.mp hagain) (List.cons_ne_nil _ _)
  rw [Layer.completion_fenced die hfind]
  split
  · exact hsame rfl rfl (.inl hzero)
  next p hp =>
    split
    next t ht =>
      have hfree : t ∉ ((l.modGroup ix (Group.answered u (g.blockOf u))).fences u).fenced := by
        have h := List.find?_some ht
        simpa using h
      refine ⟨Layer.fences_mem u _, .inl hzero, fun i q q' y b hq hq' hagain => ?_⟩
      obtain ⟨q1, hq1⟩ : ∃ q1, (l.modGroup ix (Group.answered u (g.blockOf u))).groups[i]? = some q1 := by
        rw [Layer.modGroup, List.getElem?_modify, hq]
        exact ⟨_, rfl⟩
      have hq1again := Layer.answered_again hq hq1
      have hq2 := Layer.modGroup_get (l := (l.modGroup ix (Group.answered u (g.blockOf u))).fences u) hq1 hq'
      by_cases hix : ix = i
      · rw [if_pos hix] at hq2
        subst hq2
        have hagain' : q1.again ++ [(t, g.blockOf u)] = q.again ++ [(y, b)] := hagain
        rw [hq1again] at hagain'
        obtain ⟨rfl, -⟩ := Prod.mk.inj (List.singleton_inj.mp (List.append_cancel_left hagain'))
        refine ⟨hfree, fun hmem => ?_⟩
        have h := (List.mem_filter.mp hmem).2
        simp at h
      · rw [if_neg hix] at hq2
        rw [hq2, hq1again] at hagain
        exact absurd (List.self_eq_append_right.mp hagain) (List.cons_ne_nil _ _)
    next => exact hsame rfl rfl (.inr (if_pos hzero))

end

/-- A completion message of a command: the layer goes on, fails with its status, or sends the block to another tile (R342). -/
theorem combineSlotFill_completes {s : State} {l : Layer} (hl : (s.chain s.focus.a).layer = some l) (hb : s.focus.b = 0) : ∃ t m, exec .combineSlotFill s = .next t ∧ Kept s t ∧
    (t.chain s.focus.a).layer = some m ∧ (s.focus.d = 0 → m.status = l.status) ∧ (l.status = 0 → (∃ g ∈ l.groups, ∃ b ∈ g.sent, b.1 = s.focus.c) →
      (s.focus.d = 1 ∨ s.focus.d = 3 → m.status = 2) ∧ (s.focus.d = 2 → m.status = 1) ∧ (s.focus.d = 4 → m.status = 3) ∧ (s.focus.d = 5 → Layer.Refused s.focus.c l m)) := by
  have hexec : exec .combineSlotFill s = .next (s.modLayer s.focus.a fun l => l.completion (s.focus.a / 2) s.focus.c s.focus.d) := by
    change execCombineSlotFill s = _
    simp only [execCombineSlotFill, hl, if_pos hb]
  refine ⟨_, l.completion (s.focus.a / 2) s.focus.c s.focus.d, hexec, .modLayer _ _ _, State.modLayer_layer hl _, fun hd => ?_, fun hzero hsent => ?_⟩
  · rw [hd]
    exact l.completion_done _ _
  · obtain ⟨e, hfind⟩ : ∃ e, (l.groups.zipIdx.find? fun e => e.1.sent.any fun b => b.1 == s.focus.c) = some e := by
      obtain ⟨g, hg, b, hb, hbc⟩ := hsent
      obtain ⟨i, hi⟩ := List.mem_iff_getElem?.mp hg
      refine Option.isSome_iff_exists.mp (List.find?_isSome.mpr ⟨(g, i), List.mem_zipIdx_iff_getElem?.mpr hi, ?_⟩)
      exact List.any_eq_true.mpr ⟨b, hb, by simpa using hbc⟩
    obtain ⟨g, ix⟩ := e
    refine ⟨fun hd => ?_, fun hd => ?_, fun hd => ?_, fun hd => ?_⟩
    · have hne : s.focus.d ≠ 0 ∧ s.focus.d ≠ 5 ∧ s.focus.d ≠ 2 := by omega
      rw [Layer.completion_fails _ hfind hzero hne.1 hne.2.1, if_neg hne.2.2, if_pos hd]
    · rw [Layer.completion_fails _ hfind hzero (by omega) (by omega), if_pos hd]
    · rw [Layer.completion_fails _ hfind hzero (by omega) (by omega), if_neg (by omega), if_neg (by omega)]
    · rw [hd]
      exact Layer.completion_refused _ hfind hzero

/-! ### Rows -/

theorem State.combine_reads {s s1 : State} {k tok n v : Nat} {l : Layer} (h : s.combine k l tok n = .ok (v, s1)) : EngineReads s s1 := by
  rw [State.combine] at h
  have hfold (xs : List TokSlot) : ∀ (acc : Except Nat (Nat × State)), (∀ a u, acc = .ok (a, u) → EngineReads s u) →
      ∀ a u, xs.foldl (fun acc x => match acc with
        | .error c => .error c
        | .ok (a, s) =>
          match s.engineRead (chainStop k) (l.yAddr x tok n) 4 with
          | .error c => .error c
          | .ok (y, s1) => .ok ((fmaFp pF32 .rne x.w.toNat y a).1, s1)) acc = .ok (a, u) → EngineReads s u := by
    induction xs with
    | nil => exact fun acc hacc a u h => hacc a u h
    | cons x xs ih =>
      intro acc hacc a u h
      rw [List.foldl_cons] at h
      refine ih _ (fun a u h => ?_) a u h
      split at h
      · cases h
      next b w _ =>
        split at h
        · cases h
        next y w1 hread =>
          obtain ⟨-, rfl⟩ := Prod.mk.inj (Except.ok.inj h)
          exact (hacc b w rfl).trans (State.engineRead_reads hread)
  exact hfold _ (.ok (0, s)) (fun a u h => by
    obtain ⟨-, rfl⟩ := Prod.mk.inj (Except.ok.inj h)
    exact .refl s) v s1 h

theorem State.combineRun_reads {k tok : Nat} {l : Layer} (c : Nat) : ∀ {s s1 : State} {n v : Nat}, s.combineRun k l tok n c = .ok (v, s1) → EngineReads s s1 := by
  induction c with
  | zero =>
    intro s s1 n v h
    rw [State.combineRun] at h
    obtain ⟨-, rfl⟩ := Prod.mk.inj (Except.ok.inj h)
    exact .refl s
  | succ c ih =>
    intro s s1 n v h
    rw [State.combineRun] at h
    split at h
    · cases h
    next a u hone =>
      split at h
      · cases h
      next r w hrest =>
        obtain ⟨-, rfl⟩ := Prod.mk.inj (Except.ok.inj h)
        exact (State.combine_reads hone).trans (ih hrest)

/-- The packets of the reads of one token's values. -/
def State.asksRow (s : State) (u : Nat) (l : Layer) (tok off m : Nat) : State :=
  ((Tbl.get [] l.slots tok).filter fun x => !x.zero).foldl (fun (s : State) x => s.asks u (l.yAddr x tok (off / 4)) m) s

theorem State.asksRow_reads (s : State) (u : Nat) (l : Layer) (tok off m : Nat) : EngineReads s (s.asksRow u l tok off m) :=
  .of_unit (.foldl (fun s _ => .asks s _ _ _) _ s)

theorem UnitSends.of_same {s u t : State} {q id v : Nat} {ps : List Part} (h : UnitSends u t q id ps v) (hdev : u.dev.device = s.dev.device) (hnc : u.nc = s.nc) :
    UnitSends s t q id ps v := by
  intro p hp
  have hp' := h p hp
  have hhome : u.homeDev p.addr = s.homeDev p.addr := by rw [State.homeDev, State.homeDev, hdev]
  rw [hdev, hnc, hhome] at hp'
  exact hp'

/-- A layer that has written a part of a row. -/
def Layer.rowGoes (over_ : Prop) [Decidable over_] (r : List (Nat × Nat)) (tok off n : Nat) (l : Layer) : Layer :=
  { l with rowQ := if over_ then r else (tok, off) :: r, landed := if over_ then l.landed + 1 else l.landed, out := l.out + n }

section
variable {s : State} {l : Layer} {tok off : Nat} {r : List (Nat × Nat)} (hl : (s.chain s.focus.a).layer = some l) (hb : s.focus.b ≠ 0) (hrow : l.rowQ = (tok, off) :: r)
  {va m : Nat} (hva : (lbObuf l.block + 4 * l.n * tok + off) % 2 ^ 64 = va) (hm : min (64 - va % 64) (4 * l.n - off) = m)
include hl hb hrow hva hm

/-- The next 64 bytes of a combined row leave the chain's stop (R342). -/
theorem combineSlotFill_writes {v : Nat} {s1 : State} {ps : List Part}
    (hread : (s.asksRow (chainStop s.focus.a) l tok off m).combineRun s.focus.a l tok (off / 4) ((off + m - 1) / 4 - off / 4 + 1) = .ok (v, s1))
    (hparts : s1.partsOf (chainStop s.focus.a) .write .page true va m = .ok ps) : ∃ t y, exec .combineSlotFill s = .next t ∧ Kept s1 t ∧ (t.chain s.focus.a).layer = some y ∧
    y.out = l.out + ps.length ∧ UnitSends s t (chainStop s.focus.a) (unitId 4 s.focus.a) ps (v / 2 ^ (8 * (off % 4))) ∧
    (4 * l.n ≤ off + m → y.rowQ = r ∧ y.landed = l.landed + 1) ∧ (off + m < 4 * l.n → y.rowQ = (tok, off + m) :: r ∧ y.landed = l.landed) := by
  let u := s1.cacheFor (chainStop s.focus.a) va m
  let w := u.unitSend (chainStop s.focus.a) (unitId 4 s.focus.a) ps (v / 2 ^ (8 * (off % 4)))
  have hexec : exec .combineSlotFill s = .next (w.1.modLayer s.focus.a (Layer.rowGoes (4 * l.n ≤ off + m) r tok (off + m) ps.length)) := by
    change execCombineSlotFill s = _
    simp only [execCombineSlotFill, hl, if_neg hb, hrow, hva, hm]
    rw [show ((Tbl.get [] l.slots tok).filter fun x => !x.zero).foldl (fun (a : State) x => a.asks (chainStop s.focus.a) (l.yAddr x tok (off / 4)) m) s =
      s.asksRow (chainStop s.focus.a) l tok off m from rfl]
    simp only [hread, hparts]
    rfl
  have hreads := (s.asksRow_reads (chainStop s.focus.a) l tok off m).trans (State.combineRun_reads _ hread)
  have hcached := Cached.cacheFor (chainStop s.focus.a) va m false s1
  obtain ⟨hon, hsends⟩ := State.unitSend_sends (chainStop s.focus.a) (unitId 4 s.focus.a) (v / 2 ^ (8 * (off % 4))) ps u
  have hul : (u.chain s.focus.a).layer = some l := by
    have hchains : u.chains = s1.chains := by rw [show u = _ from hcached.rest]
    rw [State.chain, hchains, hreads.chains]
    exact hl
  have hwl : (w.1.chain s.focus.a).layer = some l := by
    rw [State.chain, hon.chains]
    exact hul
  have hudev : u.dev.device = s.dev.device := by
    have h : u.dev = s1.dev := by rw [show u = _ from hcached.rest]
    rw [h]
    exact hreads.device
  have hunc : u.nc = s.nc := by
    have h : u.nc = s1.nc := by rw [show u = _ from hcached.rest]
    rw [h]
    exact hreads.nc
  refine ⟨_, Layer.rowGoes (4 * l.n ≤ off + m) r tok (off + m) ps.length l, hexec, (hcached.core.kept.trans hon.kept).trans (.modLayer _ _ _), State.modLayer_layer hwl _, rfl,
    hsends.of_same hudev hunc, fun h => ⟨if_pos h, if_pos h⟩, fun h => ⟨if_neg (Nat.not_le.mpr h), if_neg (Nat.not_le.mpr h)⟩⟩

/-- An access of a row that cannot be made ends the layer (R342). -/
theorem combineSlotFill_fails {e : Nat}
    (hread : (s.asksRow (chainStop s.focus.a) l tok off m).combineRun s.focus.a l tok (off / 4) ((off + m - 1) / 4 - off / 4 + 1) = .error e) :
    ∃ t y, exec .combineSlotFill s = .next t ∧ Kept s t ∧ (t.chain s.focus.a).layer = some y ∧ y.status = (if l.status = 0 then 1 else l.status) ∧ y.phase = .over := by
  have hexec : exec .combineSlotFill s = .next (s.modLayer s.focus.a fun l => l.fail 1) := by
    change execCombineSlotFill s = _
    simp only [execCombineSlotFill, hl, if_neg hb, hrow, hva, hm]
    rw [show ((Tbl.get [] l.slots tok).filter fun x => !x.zero).foldl (fun (a : State) x => a.asks (chainStop s.focus.a) (l.yAddr x tok (off / 4)) m) s =
      s.asksRow (chainStop s.focus.a) l tok off m from rfl]
    simp only [hread]
  exact ⟨_, l.fail 1, hexec, .modLayer _ _ _, State.modLayer_layer hl _, (l.fail_status 1).1, rfl⟩

end

/-! ### The end of a layer -/

/-- The fields of a layer's done message (R342). -/
def Layer.doneImage (l : Layer) : Nat := lbLayer l.block + l.status * 2 ^ 16 + l.landed % 2 ^ 32 * 2 ^ 32 + l.dispatches % 2 ^ 32 * 2 ^ 64 + l.drops % 2 ^ 32 * 2 ^ 96

theorem Layer.doneImage_fields (l : Layer) : fld l.doneImage 0 16 = lbLayer l.block ∧ fld l.doneImage 16 16 = l.status % 2 ^ 16 ∧
    (l.status < 2 ^ 16 → fld l.doneImage 32 32 = l.landed % 2 ^ 32) ∧
    (l.status < 2 ^ 16 → fld l.doneImage 64 32 = l.dispatches % 2 ^ 32 ∧ fld l.doneImage 96 32 = l.drops % 2 ^ 32) := by
  have hlayer : lbLayer l.block < 2 ^ 16 := Nat.mod_lt _ (by decide)
  simp only [fld, Layer.doneImage]
  generalize lbLayer l.block = a at hlayer ⊢
  refine ⟨by omega, by omega, fun h => by omega, fun h => ⟨by omega, by omega⟩⟩

/-- A chain that is free for its next block. -/
def Chain.frees (c : Chain) : Chain := { c with layer := none, evict := none, waitEvict := false }

/-- A layer that is over sends its done message, and its chain is free (R329, R342). -/
theorem layerDone_ends {s : State} {l : Layer} (hl : (s.chain s.focus.a).layer = some l) : ∃ t, exec .layerDone s = .next t ∧ Kept s t ∧ (t.chain s.focus.a).layer = none ∧
    (lbDone l.block ≠ 0 → Posted s t (chainStop s.focus.a) (lbDone l.block) 16 fun p => fld p 0 16 = lbLayer l.block ∧ fld p 16 16 = l.status % 2 ^ 16 ∧
      (l.status < 2 ^ 16 → fld p 32 32 = l.landed % 2 ^ 32) ∧ (l.status < 2 ^ 16 → fld p 64 32 = l.dispatches % 2 ^ 32 ∧ fld p 96 32 = l.drops % 2 ^ 32)) := by
  let u := s.modChain s.focus.a Chain.frees
  let msg : SendMsg := { plainMsg (chainStop s.focus.a) (lbDone l.block) l.inst 16 l.doneImage with rel := some .device }
  have hexec : exec .layerDone s = .next (if lbDone l.block = 0 then u else u.post (chainStop s.focus.a) 0 msg) := by
    change execLayerDone s = _
    simp only [execLayerDone, hl]
    rfl
  have hnone : (u.chain s.focus.a).layer = none := congrArg Chain.layer (State.chain_modChain_same ..)
  have hkept : Kept s u := .modChain _ _ _
  refine ⟨_, hexec, ?_, ?_, fun hdone => ?_⟩
  · split
    · exact hkept
    · exact hkept.trans (.post _ _ _ _)
  · split
    · exact hnone
    · exact hnone
  · rw [if_neg hdone]
    exact (u.post_posts (chainStop s.focus.a) 0 msg (p := fun p => fld p 0 16 = lbLayer l.block ∧ fld p 16 16 = l.status % 2 ^ 16 ∧
      (l.status < 2 ^ 16 → fld p 32 32 = l.landed % 2 ^ 32) ∧ (l.status < 2 ^ 16 → fld p 64 32 = l.dispatches % 2 ^ 32 ∧ fld p 96 32 = l.drops % 2 ^ 32))
      l.doneImage_fields).after rfl

/-! ### The obligation -/

/-- A run retires with a status, as its event makes it. -/
theorem State.retireRun_retires {s : State} {i : Instr} {st : Nat} (hst : st < 2 ^ 8) (hexec : exec i s = .next (s.retireRun s.focus.a st)) (r : Run)
    (hrun : (s.tile s.focus.a).mx.run = some r) : ∃ t, exec i s = .next t ∧ Kept s t ∧ (t.tile s.focus.a).mx.run = none ∧ (t.tile s.focus.a).mx.last = st ∧
    (mxCist r.img = true → MxTold s t s.focus.a r.cmd st) ∧
    (mxCist r.img = false → ((t.tile s.focus.a).chan (mxChan r.img)).state = (if st = 0 then .done else .aborted) ∧
      ((t.tile s.focus.a).chan (mxChan r.img)).status = (if st = 0 then 0 else 1) ∧
      (((s.tile s.focus.a).chan (mxChan r.img)).done = 0 → MxTold s t s.focus.a r.cmd st)) :=
  ⟨_, hexec, State.retireRun_spec hrun hst⟩

/-- Settles O54, event by event: what the matrix engine, the merge trees and the expert chains do when their events come. -/
theorem matrixAndExpertEvents : Obligations.MatrixAndExpertEvents := by
  unfold Obligations.MatrixAndExpertEvents
  intro s n x h dev ch posted told retires refusal run lacks poolOnly calm stops k c u layered tree pkt joins lost down sends asked
  refine ⟨?refuse, ?start, ?step, ?wait, ?pair, ?stop, State.retireRun_retires (by decide) (systolicWaitTimeout_eq s), State.retireRun_retires (by decide) (matrixCompletion_eq s), ?prec,
    ?output, ?exps, ?deposit, ?freeze, ?testBegins, ?testEnds, ?again, ?addw, ?leaves, ?delivers, ?first, ?merges, ?discards, ?gate, ?counts, ?makes, ?refuses, ?leave, ?bad, ?block,
    ?route, ?snap, ?gatherFails, ?gather, ?place, ?ask, ?entries, ?command, ?enter, ?complete, ?row, ?rowFails, ?done⟩
  case refuse => exact fun loc c hhead hst => matrixAccept_refuses hhead hst
  case start => exact fun loc c hhead hst => matrixAccept_starts hhead hst
  case step => exact fun r la lb s1 s2 s3 hrun hpin hA hB hao hbo => matrixStep_adds hrun hpin hA hB hao hbo rfl rfl
  case wait => exact fun r v c hrun hpin hwait => matrixStep_waits hrun hpin hwait
  case pair => exact fun r m wa wb i j a b _ hwb ha hb => r.accumulate_pair m hwb ha hb
  case stop => exact fun r e s1 hrun hpin hread => matrixStep_stops hrun hpin hread
  case prec => exact fun r side j first l s1 hrun hprec hread => precisionMessage_sends hrun hprec rfl hread
  case output => exact fun r r1 s1 r2 s2 f hrun hexps hbias => chainOutput_finishes hrun hexps hbias rfl
  case exps => exact fun r e hrun hexps => readExps_stops hrun hexps
  case deposit =>
    intro r r1 s1 hrun hexps
    obtain ⟨t, hexec, honly, hrest⟩ := cisternDeposit_adds hrun hexps
    exact ⟨t, hexec, honly, hrest⟩
  case freeze => exact fun r e a hrun hfault => matrixFreeze_freezes hrun hfault
  case testBegins =>
    intro hb
    obtain ⟨hkept, htile, hagenda⟩ := s.beginTest_spec
    exact ⟨_, matrixSelftest_begins hb, hkept, (congrArg (fun x : Tile => x.mx.testing) htile).trans rfl, (congrArg (fun x : Tile => x.mx.run) htile).trans rfl, hagenda⟩
  case testEnds => exact fun hb => matrixSelftest_ends hb
  case again => exact fun r hb hrun hstep => matrixSelftest_repeats hb hrun hstep
  case addw => exact fun o hfind => addwUpdate_adds hfind
  case leaves => exact fun e r hready hroot => mergePartial_leaves hready hroot
  case delivers => exact fun e r hready hroot => mergePartial_delivers hready hroot
  case first =>
    rintro port tag root l e ⟨hnone, p, hnext, hbody⟩ htree hnew
    exact mergePartial_first hnone hnext hbody htree hnew
  case merges =>
    rintro port tag root l e r ⟨hnone, p, hnext, hbody⟩ htree hr hround
    exact mergePartial_merges hnone hnext hbody htree hr hround
  case discards =>
    rintro port tag root l ⟨hnone, p, hnext, hbody⟩ htree
    exact mergePartial_discards hnone hnext hbody htree
  case gate => exact fun q e r hready => gateListArrival_enters hready
  case counts =>
    rintro port v tag root slot ix chain hd up e ⟨p, hnext, hbody⟩ hlost htree
    exact mergeJoinArrival_counts hnext hbody hlost htree
  case makes =>
    rintro port v tag root slot ix chain hd up ⟨p, hnext, hbody⟩ hlost htree hroom
    exact mergeJoinArrival_makes hnext hbody hlost htree hroom
  case refuses =>
    rintro port v tag root slot ix chain hd up ⟨p, hnext, hbody⟩ hbad
    exact mergeJoinArrival_refuses hnext hbody hbad
  case leave =>
    rintro port v tag root slot ix chain hd up e ⟨p, hnext, hbody⟩ hup htree
    exact mergeJoinArrival_leaves hnext hbody hup htree
  case bad => exact fun q r e hqueue hread => chainBlockRead_bad hqueue hread
  case block => exact fun q r b s1 hqueue hread => chainBlockRead_takes hqueue hread
  case route => exact fun l g hgate => routeToken_routes hgate
  case snap =>
    exact ⟨c.copySnaps_spec s.tc s.dev.time, fun hwrite hover => snapshotTake_copies hwrite hover, fun r hover hwrite => snapshotTake_writes hover hwrite rfl rfl,
      fun r o hwrite hover howed => snapshotTake_ends hwrite hover howed⟩
  case gatherFails => exact fun l hl hfail => gather_fails hl hfail
  case gather => exact fun l ix g v hd hfail hnext => gather_sends hfail hnext
  case place => exact fun l ix g p ev hl hb hinstall hplace hslot => groupPlace_places hl hb hinstall hplace hslot
  case ask => exact fun l ix g hl hb hinstall hplace hask => groupPlace_asks hl hb hinstall hplace hask
  case entries => exact fun l ix g w s1 hl hb hinstall hread => groupPlace_reads hl hb hinstall rfl hread
  case command => exact fun l ix g v b hd hl hb hsend => groupPlace_sends hl hb hsend
  case enter => exact fun l ix g v hl hb hmem hone hg => groupPlace_enters hl hb hmem hone hg
  case complete =>
    intro l hl hb
    obtain ⟨t, m, hexec, hkept, hlayer, hdone, hrest⟩ := combineSlotFill_completes hl hb
    refine ⟨t, m, hexec, hkept, hlayer, hdone, fun hzero hsent => ?_⟩
    obtain ⟨htwo, hone, hthree, hfive⟩ := hrest hzero hsent
    exact ⟨htwo, hone, hthree, fun hd => ⟨(hfive hd).fenced, (hfive hd).status, (hfive hd).again⟩⟩
  case row => exact fun l tok off r v s1 ps hl hb hrow hread hparts => combineSlotFill_writes hl hb hrow rfl rfl hread hparts
  case rowFails => exact fun l tok off r e hl hb hrow hread => combineSlotFill_fails hl hb hrow rfl rfl hread
  case done => exact fun l hl => layerDone_ends hl

end Sys2Proof.Machine
end
